-- ==== Sys2Proof/Word.lean ====
section
/-! DEFINITION. The words of the LZ3 and the plain data shapes that every other file names (R8, R71, R118, R236). -/

namespace Sys2Proof

/-- A byte of any memory of the module. -/
abbrev Byte := BitVec 8

/-- A register, a G register, a tick, a ring word: 64 bits (R8). -/
abbrev Word := BitVec 64

/-- One 32-bit lane of a vector register, an accumulator position, a record field (R118). -/
abbrev Lane := BitVec 32

/-- A 64 B line: one local word, one operand-buffer line, one near-tier unit (R71, R118, R289). -/
abbrev Line := BitVec 512

/-- A table of the module, listed sparsely by index: keys strictly rising, and no entry equal to what the
unlisted index reads as (Sys2Proof/Machine/Sparse.lean has the operations and the canonical form). -/
abbrev SMap (α : Type) := List (Nat × α)

/-- Bits `lo` to `lo + w - 1` of a register word, as a number (the fields of the register tables). -/
def Word.field (x : Word) (lo w : Nat) : Nat := x.toNat / 2 ^ lo % 2 ^ w

/-- Bit `n` of a register word. -/
def Word.bit (x : Word) (n : Nat) : Bool := x.getLsbD n

/-- The register word `x` with bits `lo` to `lo + w - 1` replaced by `v` (taken modulo `2 ^ w`). -/
def Word.setField (x : Word) (lo w v : Nat) : Word :=
  let mask : Word := BitVec.ofNat 64 ((2 ^ w - 1) * 2 ^ lo)
  (x &&& ~~~ mask) ||| BitVec.ofNat 64 (v % 2 ^ w * 2 ^ lo)

end Sys2Proof
end

