-- ==== Sys2Proof/Syntax.lean ====
section
/-! DEFINITION. The commands and events of the LZ3, one constructor for each row of spec/opcode_table.json, in the table's order, with the operands that the outside world or the named part supplies. -/

namespace Sys2Proof

/-- Which part of a register an access names: the whole 64 bits, or an aligned 32-bit half (R9). -/
inductive Half where
  | whole | lo | hi
deriving DecidableEq, Repr, Inhabited

/-- A logical site of the cell array: compute die, row, column (R70). -/
structure Site where
  die : Nat
  row : Nat
  col : Nat
deriving DecidableEq, Repr, Inhabited

/-- The kind of a cell (R69). -/
inductive Kind where
  | c | m
deriving DecidableEq, Repr, Inhabited

/-- A part of the array that can fail: a cell, a thumb spare, a switch (R104). -/
inductive FailKind where
  | cell (k : Kind)
  | spare (k : Kind)
  | switch
deriving DecidableEq, Repr, Inhabited

/-- A host command as it stands in its slot when it is received (R505, R506): the function and ring that
issued it, its TAG and its operands A1 to A6. `epoch` is set for a command relayed by a manager (R484). -/
structure HostCmd where
  func  : Nat
  ring  : Nat
  tag   : BitVec 32
  a1    : Word
  a2    : Word
  a3    : Word
  a4    : Word
  a5    : Word
  a6    : Word
  resv0 : BitVec 20 := 0
  epoch : Option Word := none
deriving DecidableEq, Repr, Inhabited

/-- A tick beacon (R53): the parent's counter and sub-cycle timestamp, N, a pending change, and the parent's
offset from the crown in reference cycles. -/
structure Beacon where
  sender   : Nat
  crown    : Nat
  tick     : Word
  phase    : Nat
  sub      : Nat
  n        : Nat
  pend     : Option (Nat × Word)
  crownOfs : Int
deriving DecidableEq, Repr, Inhabited

/-- The rack master that a load comes from: the code of its tick state, and its node (R48, R57, R65). -/
structure LoadSource where
  state : Nat
  node  : Nat
deriving DecidableEq, Repr, Inhabited

/-- The way of a beacon: how many hops its sender is from the crown, and the measured delay of the link (R53). -/
structure BeaconWay where
  hops    : Nat
  delayNs : Nat
deriving DecidableEq, Repr, Inhabited

/-- What a beacon check shows: the difference in reference cycles, and the code of the rack master's tick state (R50, R57). -/
structure CheckSeen where
  delta  : Int
  master : Nat
deriving DecidableEq, Repr, Inhabited

/-- A lattice channel of a die: its edge (W, E, N, S from 0), and its number on that edge (R86). -/
structure EdgeChannel where
  edge : Nat
  chan : Nat
deriving DecidableEq, Repr, Inhabited

/-- A clock step, and the set-point in mV that the regulator reads back (R612, R613). -/
structure StepReport where
  step : Nat
  mv   : Nat
deriving DecidableEq, Repr, Inhabited

/-- The mask register that a VMSK writes, and the mask register of the lanes that it writes (R142, R143). -/
structure MaskDst where
  md  : Nat
  msk : Nat
deriving DecidableEq, Repr, Inhabited

/-- What the rail meters recorded since the last ledger period, in µJ (R440, R452). -/
structure Meters where
  hbm   : Nat
  iod   : Nat
  oth   : Nat
  vcore : List Nat
deriving DecidableEq, Repr, Inhabited

/-- The wake sources of R450 and R454. -/
inductive WakeSrc where
  | namedTime | commandRing | serviceLink | smbus | ledger
deriving DecidableEq, Repr, Inhabited

/-- A FETCH packet (R480, R481). `handle` is set for the form that names an extent of a lower tier. -/
structure FetchMsg where
  src     : Nat
  tag     : BitVec 32
  model   : Nat
  version : Nat
  extent  : Nat
  offset  : Nat
  len     : Nat
  link0   : Nat
  link1   : Nat
  handle  : Option (BitVec 32)
deriving DecidableEq, Repr, Inhabited

/-- One schedule fault (R98): its cause by ARR_SF_LOG (R114) and where it was detected, in physical coordinates. -/
structure SFault where
  glove : Nat
  cause : Nat
  die   : Nat
  row   : Nat
  col   : Nat
  ctx   : Nat
  port  : Nat
  cycle : Nat
deriving DecidableEq, Repr, Inhabited

/-- One cell exception (R158) with the fields of CEL_XLOG (R163), in physical coordinates. -/
structure XFault where
  glove  : Nat
  cause  : Nat
  die    : Nat
  row    : Nat
  col    : Nat
  ctx    : Nat
  bundle : Nat
  slot   : Nat
  code   : Nat
  loopIx : Nat
  cycle  : Nat
deriving DecidableEq, Repr, Inhabited

/-- A detection or a malformed block as SPD_DLOG records it (R280). -/
structure Detection where
  die    : Nat
  cell   : Nat
  row    : Nat
  kind   : Nat
  reader : Nat
  glove  : Nat
deriving DecidableEq, Repr, Inhabited

/-- A boundary port of a pattern: its physical site, direction and class (R92, R115). -/
structure PortRef where
  die    : Nat
  row    : Nat
  col    : Nat
  output : Bool
  cls    : Nat
deriving DecidableEq, Repr, Inhabited

/-- Who makes a narrow, window or claim access (R222, R242, R291): control core CCi of a die, by 4 * die + i with the I/O dies from 8
on (R15); the host; or the system, at a die. -/
inductive Requester where
  | core (ident : Nat) (glove : Nat) (key : Nat)
  | host (func : Nat)
  | system (die : Nat)
deriving DecidableEq, Repr, Inhabited

/-- A narrow operation (R242): a read, a masked write in one 64 B unit, or an atomic operation of the RISC-V A
extension. -/
inductive NarrowOp where
  | read (len : Nat)
  | write (mask : Word) (data : Line)
  | amo (wide : Bool) (op : Nat) (val : Word)
  | lr (wide : Bool)
  | sc (wide : Bool) (val : Word)
deriving DecidableEq, Repr, Inhabited

/-- A flit as it arrives or leaves (R461, R462): header fields and the 256 B body as a list of bytes; `crcOk` says
that its CRC passes after correction, `corrected` how many codewords were corrected (R463). -/
structure Flit where
  kind      : Nat
  vc        : Nat
  hop       : Nat
  seq       : Nat
  ack       : Nat
  ackv      : Bool
  body      : List Byte
  nak       : Option Nat
  credits   : List (Nat × Nat × Nat)
  crcOk     : Bool
  corrected : Nat
deriving DecidableEq, Repr, Inhabited

/-- A packet header and payload (R471). -/
structure Packet where
  dest    : Nat
  src     : Nat
  hop     : Nat
  vc      : Nat
  len     : Nat
  type    : Nat
  tag     : BitVec 32
  payload : List Byte
deriving DecidableEq, Repr, Inhabited

/-- A worker's report (R486). -/
structure Report where
  node     : Nat
  mstate   : Nat
  cap      : Word
  palms    : Nat
  frames   : Nat
  seqFree  : Nat
  models   : List Nat
  liveSeq  : Nat
  aos      : Bool
deriving DecidableEq, Repr, Inhabited

/-- A completion as it is relayed over the links (R484, R510). -/
structure RelayedCpl where
  node   : Nat
  tag    : BitVec 32
  status : Nat
  res0   : Word
  res1   : Word
deriving DecidableEq, Repr, Inhabited

/-- The parts whose PLL is judged (R562). -/
inductive PllPart where
  | arrayDie (k : Nat) | coreDie (k : Nat) | stack (n : Nat) | ddr (i : Nat) | link (grp : Nat) | deep (i : Nat) | fabric (i : Nat)
deriving DecidableEq, Repr, Inhabited

/-- The count row that one participant sends in a count stage (R335). -/
structure CountRow where
  part   : Nat
  tag    : Word
  tick   : Word
  ofs    : Nat
  n      : Nat
  fail   : Nat
  counts : List Nat
deriving DecidableEq, Repr, Inhabited

/-- A compute die's self-test result (R571, R572): failed cells and spares (row, kind, physical column), failed
switches (row, column), and whether the mesh, PLLs and die-to-die ports pass. -/
structure SelfTest where
  cells    : List (Nat × Kind × Nat)
  spares   : List (Nat × Kind)
  switches : List (Nat × Nat)
  meshOk   : Bool
deriving DecidableEq, Repr, Inhabited

/-- What the SPD of a DIMM and its training give (R307, R308, R324). -/
structure DimmInfo where
  channel : Nat
  mrdimm  : Bool
  x4      : Bool
  speed   : Nat
  capGB   : Nat
  trained : Bool
deriving DecidableEq, Repr, Inhabited

/-- The commands and events of the module. -/
inductive Instr where
  | registerWrite (func addr : Nat) (half : Half) (val : Word)
  | w1cWrite (addr : Nat) (half : Half) (val events : Word)
  | tkeTickRead (half : Half)
  | tickAdvance
  | periodChange
  | alignmentLoad (tick : Word) (phase n : Nat) (pend : Option (Nat × Word)) (source : LoadSource)
  | counterHoldEnd
  | beaconSend (sub : Nat)
  | beaconReceive (b : Beacon) (way : BeaconWay) (freqPpb : Int)
  | beaconCheck (node : Nat) (seen : CheckSeen)
  | parentLost (candidates : List (Nat × Nat))
  | holdoverLimitExpiry (reach : List Nat)
  | crownMeet (other : Nat)
  | tickStepOrHold
  | ledgerPeriod (m : Meters)
  | grantReceived (tick : Word) (mj : Nat) (epoch : Word)
  | grantComputation
  | demandReceived (node : Nat) (tick : Word) (mj envJ : Nat)
  | rungChange
  | rungEntryComplete
  | rungEntryAbandon
  | wakeEvent (src : WakeSrc)
  | stepCommit (g : Nat)
  | stepDone (g : Nat)
  | stepAbort (g : Nat)
  | samplerFinish (g : Nat)
  | autoResume (seq : Nat)
  | ttlExpiry (seq : Nat)
  | extentTtlExpiry (slot : Nat)
  | cacheSealComplete (seq : Nat)
  | sealRetry (seq : Nat)
  | resumePageRetry (seq : Nat)
  | resumeCopyComplete (seq : Nat)
  | cuffRelease (model : Nat)
  | switchinExtentComplete (model extent : Nat)
  | peerLost (model extent peer : Nat)
  | fetchRequest (f : FetchMsg)
  | fetchUnitReceive (model extent unit : Nat) (data : List Byte)
  | scheduleFault (f : SFault)
  | cellException (f : XFault)
  | portFreeze (g : Nat) (p : PortRef)
  | freezeRelease (g : Nat) (p : PortRef)
  | patternResume (g : Nat)
  | crossingMarginLoss (die : Nat) (at_ : EdgeChannel)
  | crossingRetrainComplete (die edge : Nat)
  | cellFailure (die row : Nat) (kind : FailKind) (col : Nat)
  | chainForm (die row : Nat) (kind : Kind)
  | patternSwitch (g : Nat) (vcore : List Nat)
  | patternDone (g : Nat) (vcore : List Nat)
  | clockStepChange (die : Nat) (step : StepReport)
  | thermalSample (temps : List Nat)
  | rerunnableDetection (d : Detection) (cycle : Nat)
  | loadComplete (g : Nat)
  | armedSwitch (g : Nat)
  | waitTimeout (q : Nat)
  | workCounterClaim (die m n : Nat) (who : Requester) (a : BitVec 32) (wide : Bool)
  | wkcWrite (die m n : Nat) (limit : Bool) (half : Half) (val : Word)
  -- control slot (R135)
  | ctNop (site : Site)
  | epx (site : Site)
  | eps (site : Site) (x : BitVec 6)
  | fset (site : Site) (x : BitVec 6)
  | fany (site : Site) (x : BitVec 6)
  | fall (site : Site) (x : BitVec 6)
  | trap (site : Site) (x : BitVec 6)
  -- move slot (R139)
  | mvNop (site : Site)
  | fil (site : Site) (port areg d nl : Nat)
  | vld (site : Site) (port vd : Nat) (single : Bool) (q : Nat)
  | vst (site : Site) (port vs : Nat) (single : Bool) (q : Nat)
  | tok (site : Site) (cval : Byte)
  | obv (site : Site) (areg d vd : Nat)
  | dsc (site : Site) (port : Nat)
  -- vector slot (R143)
  | vnop (site : Site)
  | vadd (site : Site) (vd va vb msk : Nat) (neg : Bool)
  | vsub (site : Site) (vd va vb msk : Nat) (neg : Bool)
  | vmul (site : Site) (vd va vb msk : Nat) (neg : Bool)
  | vfma (site : Site) (vd va vb vc msk : Nat) (neg : Bool)
  | vmax (site : Site) (vd va vb msk : Nat) (neg : Bool)
  | vmin (site : Site) (vd va vb msk : Nat) (neg : Bool)
  | vsel (site : Site) (vd va vb msk sel : Nat)
  | vmov (site : Site) (vd va msk : Nat)
  | vbc (site : Site) (vd cw msk : Nat)
  | vcmp (site : Site) (md va vb msk cond : Nat)
  | vmsk (site : Site) (dst : MaskDst) (va vb op : Nat)
  | vred (site : Site) (vd va msk fn : Nat)
  | vxf (site : Site) (vd va msk fn : Nat)
  | vcvt (site : Site) (vd va vb msk fn : Nat) (sr : Bool)
  -- matrix slot (R151)
  | mnop (site : Site)
  | mma (site : Site) (bank z fa fb aa da ab db : Nat)
  | mrd (site : Site) (bank col : Nat) (ci : Bool) (vd : Nat) (zr : Bool)
  | mwr (site : Site) (bank col : Nat) (ci : Bool) (vs : Nat)
  | mz (site : Site) (bank : Nat)
  | mrs (site : Site) (side areg d : Nat)
  -- glove sequencer (R211, R212)
  | gsqNop (q : Nat)
  | li (q gd : Nat) (imm : BitVec 32)
  | lih (q gd : Nat) (imm : BitVec 32)
  | addi (q gd ga : Nat) (imm : BitVec 32)
  | add (q gd ga gb : Nat)
  | br (q t : Nat)
  | bnz (q ga t : Nat)
  | djnz (q gd t : Nat)
  | bst (q mode code t : Nat)
  | load (q slot ga : Nat)
  | arm (q slot ga ofs : Nat)
  | swi (q slot : Nat)
  | run (q slot ga : Nat)
  | waitDone (q tmo : Nat)
  | waitLoaded (q slot tmo : Nat)
  | waitTick (q ga ofs tmo : Nat)
  | waitArrival (q ga gb tmo : Nat)
  | waitSwitched (q tmo : Nat)
  | waitSealed (q tmo : Nat)
  | exch (q ga ofs phase t : Nat)
  | sealExtent (q ga gb gd gt dest : Nat)
  | ctr (q ga gb gc : Nat)
  | report (q ga code : Nat)
  | secb (q ident : Nat)
  | halt (q : Nat)
  -- descriptor programs (R248)
  | agEnd (cell ag : Nat)
  | agRun (cell ag : Nat) (word : Word) (upset : List (Nat × Nat))
  | agLoop (cell ag count body : Nat)
  | ring (cell ag rng base srows slots : Nat)
  | win (cell w mode cnt base len : Nat)
  | seta (cell cnt : Nat) (value : BitVec 32) (counted : Nat)
  | hqb (cell q prod : Nat)
  | ringFill (cell rng : Nat)
  | ringDrain (cell rng : Nat) (upset : List (Nat × Nat))
  | narrowRequest (who : Requester) (ta : Word) (op : NarrowOp) (upset : Bool)
  | mergeWriteback (cell row : Nat)
  | remoteWrite (ta : Word) (glove : Nat) (data : List Byte) (upset : Bool)
  | handlePush (cell q producer : Nat) (handle : BitVec 32) (glove : Nat)
  | arvCntWrite (die m n : Nat) (half : Half) (val : Word) (counted : Nat)
  -- memory tiers
  | packedBlockDecode (die entry block : Nat) (glove : Nat)
  | hbmUncorrectedRead (frame unit glove : Nat) (system rerunReader : Bool)
  | correctedError (part idx dev unit : Nat)
  | frameRetirement (frame : Nat)
  | migrationQueueEntry
  | migrationStart (tier : Nat)
  | heldWriteRelease (frame unit : Nat)
  | sealComplete (ident : Nat) (ioError : Bool)
  | copyupComplete (ident : Nat) (ioError : Bool)
  | moveComplete (ident : Nat) (ioError : Bool)
  | relocationComplete (deep : Bool) (idx : Nat) (slot chunk : Nat)
  | ddrUncorrectedError (chan unit dev cause : Nat)
  | deepPortLinkDown (port : Nat)
  | nvmeCommandComplete (port ident : Nat) (ok : Bool)
  | returnTrainingComplete (deep : Bool) (idx : Nat) (ok : Bool) (info : DimmInfo) (capB : Nat)
  | dqsTracking (chan : Nat)
  | lz2PageMiss (page : Nat)
  -- exchange
  | stagingRecordEntry (plan rec : Nat) (header : Word)
  | exchangePhaseStart (plan : Nat) (rows : List CountRow) (scatterLate : Bool)
  | dataStage (plan : Nat) (linksBad : List Nat) (localLate : Bool)
  | receiveRecord (plan : Nat) (rec : List Byte)
  | fwdSlot (plan slot : Nat) (rec : List Byte)
  | closeStage (plan : Nat) (statuses : List (Nat × Nat))
  | exchangeRoundOpen (plan : Nat)
  -- steward
  | stewardHeartbeat
  | stewardTakeover
  | standbyResync
  | stwQidxWrite (half : Half) (val : Word)
  | stwGcfgWrite (g : Nat) (half : Half) (val : Word)
  | faultHoldExpiry (g : Nat)
  | gloveResetDone (g : Nat)
  -- links; `lanes` is the set of lanes that passed, bit 0 for lane 0
  | flitReceive (link : Nat) (f : Flit)
  | replayTimeout (link : Nat)
  | linkTrainingStart (link : Nat)
  | linkTrainingComplete (link lanes peer peerLink delay : Nat)
  | laneDrop (link lane : Nat)
  | linkSignalDetect (link : Nat)
  | lnkRetrain (link : Nat)
  | lnkEnableWrite (link : Nat) (val : Word)
  | packetForward (p : Packet)
  -- rack and manager
  | mgrCfgLock (half : Half) (val : Word)
  | rackConflict (otherLockTick : Word) (otherIdent : Word)
  | relayedCommand (op : Nat) (c : HostCmd)
  | workerReport (pos : Nat) (r : Report)
  | workerHeartbeatMiss (pos : Nat) (linksLost reportedFault : Bool)
  | managerTakeover (fenced : Bool)
  | epochAnnounce (epoch : Word)
  | managerRoleDecision (masterSeen standbySeen : Bool) (rivalIdent : Option Word)
  -- host endpoint
  | perstNAssert
  | perstNRelease
  | pfFlr
  | vfFlr (vf : Nat)
  | d3hotEntry (func : Nat)
  | hostWindowRead (func : Nat) (ofs : Nat) (len : Nat) (upset : List Nat)
  | hostWindowWrite (func : Nat) (ofs : Nat) (data : List Byte) (mask : List Bool)
  | commandSlotReceive (func ring slot word : Nat) (val : Word)
  | commandRingEnable (ring : Nat) (half : Half) (val : Word)
  | completionRingEnable (cq : Nat) (half : Half) (val : Word)
  | cqHeadWrite (func cq : Nat) (val : Word)
  | msixModerationTimer (cq : Nat)
  -- host commands (R515)
  | identify (c : HostCmd)
  | setProfile (c : HostCmd)
  | setTickPeriod (c : HostCmd)
  | setRung (c : HostCmd)
  | setRoute (c : HostCmd)
  | stewardSwap (c : HostCmd)
  | serviceOpFence (c : HostCmd)
  | serviceOpUnfence (c : HostCmd)
  | serviceOpRetire (c : HostCmd)
  | serviceOpFormChain (c : HostCmd)
  | serviceOpReturn (c : HostCmd) (info : Option DimmInfo)
  | keyOpInstall (c : HostCmd)
  | keyOpErase (c : HostCmd)
  | imageOpStage (c : HostCmd)
  | imageOpActivate (c : HostCmd)
  | imageOpWriteOtp (c : HostCmd)
  | gloveCreate (c : HostCmd)
  | gloveDestroy (c : HostCmd)
  | gloveReset (c : HostCmd)
  | frameAlloc (c : HostCmd)
  | frameShare (c : HostCmd)
  | frameFree (c : HostCmd)
  | gsqWrite (c : HostCmd)
  | gsqStart (c : HostCmd)
  | gsqStop (c : HostCmd)
  | planInstall (c : HostCmd)
  | planRemove (c : HostCmd)
  | lz2Enable (c : HostCmd)
  | lz2Disable (c : HostCmd)
  | migrate (c : HostCmd)
  | modelRegister (c : HostCmd)
  | modelSwitchin (c : HostCmd)
  | modelPark (c : HostCmd)
  | modelReplace (c : HostCmd)
  | adapterLoad (c : HostCmd)
  | adapterUnload (c : HostCmd)
  | markPublic (c : HostCmd)
  | admitSeq (c : HostCmd)
  | routeAdmit (c : HostCmd)
  | append (c : HostCmd)
  | cancel (c : HostCmd)
  | pause (c : HostCmd)
  | resume (c : HostCmd)
  | release (c : HostCmd)
  -- sideband (R519, R599)
  | setEndpointId (eid : Byte)
  | getEndpointId
  | getMctpVersionSupport (type : Byte)
  | getMessageTypeSupport
  | getVendorDefinedMessageSupport (sel : Byte)
  | getRecord (ident : Byte)
  | getAlerts (events : Word)
  | setAlertMask (mask : Word)
  | aosRead
  | trip (smbus : Bool)
  | fence (smbus : Bool) (kind : Byte) (idx : BitVec 16)
  | erase (smbus : Bool) (slot : Byte)
  | reset (smbus : Bool) (cold : Byte)
  | aosReport
  | recordRefresh
  -- security
  | secActlGo (half : Half) (val : Word) (m : BitVec 448)
  | attestationReportReady
  | trngHealthFailure
  | trngRecover
  -- reset, clocks, bring-up
  | powerOn
  | ext (lowRc : Nat)
  | rail (idx : Nat)
  | thermtrip
  | thermalTrip
  | refclkLoss
  | refclkWindow (count : Nat)
  | pllWindow (p : PllPart) (ok : Bool)
  | watchdog
  | aosRstreqWrite (half : Half) (val : Word)
  | vaonLoss
  | resetStretchEnd
  | resetNSample (high : Bool)
  | otpGenerationSelect
  | aosBringupTakeover
  | aosFirmwareStart
  | railCheck (ok : Bool)
  | controlFirmwareStart
  | selfTestComplete (die : Nat) (t : SelfTest)
  | stackTrainingAttempt (stack : Nat) (ok : Bool)
  | wideTierTrained (dimms : List DimmInfo)
  | dieRelease (die : Nat)
  | profileChange
  | rasDrainWrite (half : Half) (val : Word)
  | partReadyReport (part : Nat)
  | activationReadyTimeout (part : Nat)
  | otpBurnComplete (ok : Bool)
  | aosStewardWatchLapse
  | aosManagerWatchLapse
  -- the rows that close the table
  | patternCycle (g : Nat)
  | flitTransmit (link : Nat)
  | moduleHeartbeat (pos : Nat)
  | managerHeartbeat
  | relayedCompletion (c : RelayedCpl)
  | managerResync
  | d3hotExit (func : Nat)
  | deepPortNvmeReady (port : Nat) (fmtOk : Bool) (gen width capB : Nat)
  | stackControllerFailure (stack : Nat)
  | dieToDiePortFailure (die : Nat) (iod : Option Nat)
  | waitTickReached (q : Nat)
  | smbusAddressResolution (addr : BitVec 7)
  | periodChangeReceive (n : Nat) (tick : Word)
deriving DecidableEq, Repr, Inhabited

end Sys2Proof
end

