-- ==== Sys2Proof/Machine/Adr.lean ====
section
/-! DEFINITION. The BAR0 address of every register of the module, by the register tables of the chapters. -/

namespace Sys2Proof.Machine.Adr

/-- The block of compute die `k` (R110). -/
def cd (k : Nat) : Nat := 0x1000000 + k * 0x200000
/-- The block of I/O die `i` (R323, R7). -/
def iod (i : Nat) : Nat := 0x2000000 + i * 0x400000
/-- The registers of GSQ `q` = 8k + j (R229). -/
def gsqBase (q : Nat) : Nat := cd (q / 8) + 0x3000 + (q % 8) * 0x80
/-- The registers of work counter `n` of M-cell `m` of die `k` (R235). -/
def wkcBase (k m n : Nat) : Nat := cd k + 0x40000 + 32 * (16 * m + n)
/-- The registers of near-tier controller `c` of die `k` (R319). -/
def ntcBase (k c : Nat) : Nat := cd k + 0xE0000 + 0x100 * c
/-- The registers of link LK`l` (R491). -/
def lnkBase (l : Nat) : Nat := iod (l / 24) + 0x50000 + 0x80 * (l % 24)
/-- GLB_ID (R32). -/
def glbId : Nat := 0x00000000
/-- GLB_FIT (R32). -/
def glbFit : Nat := 0x00000008
/-- TKE_TICK (R61). -/
def tkeTick : Nat := 0x00400000
/-- TKE_PHASE (R61). -/
def tkePhase : Nat := 0x00400008
/-- TKE_PERIOD (R61). -/
def tkePeriod : Nat := 0x00400010
/-- TKE_PCHG_TICK (R61). -/
def tkePchgTick : Nat := 0x00400018
/-- TKE_TSTATE (R61). -/
def tkeTstate : Nat := 0x00400020
/-- TKE_OFFSET (R61). -/
def tkeOffset : Nat := 0x00400028
/-- TKE_HOLDLIM (R61). -/
def tkeHoldlim : Nat := 0x00400030
/-- TKE_EVT (R61). -/
def tkeEvt : Nat := 0x00400038
/-- TKE_CNT_ALIGN (R61). -/
def tkeCntAlign : Nat := 0x00400040
/-- TKE_CNT_HOVR (R61). -/
def tkeCntHovr : Nat := 0x00400048
/-- TKE_CNT_STEP (R61). -/
def tkeCntStep : Nat := 0x00400050
/-- TKE_CNT_HOLD (R61). -/
def tkeCntHold : Nat := 0x00400058
/-- TKE_CNT_LATE (R61). -/
def tkeCntLate : Nat := 0x00400060
/-- TKE_CNT_CROWN (R61). -/
def tkeCntCrown : Nat := 0x00400068
/-- TKE_CNT_PCHG (R61). -/
def tkeCntPchg : Nat := 0x00400070
/-- ARR_EDGE (R110). -/
def arrEdge (k : Nat) : Nat := cd k + 0x0000
/-- ARR_EVT (R110). -/
def arrEvt (k : Nat) : Nat := cd k + 0x0008
/-- ARR_SF_LOG (R110). -/
def arrSfLog (k : Nat) : Nat := cd k + 0x0010
/-- ARR_SF_CYC (R110). -/
def arrSfCyc (k : Nat) : Nat := cd k + 0x0018
/-- ARR_FRZ_LAST (R110). -/
def arrFrzLast (k : Nat) : Nat := cd k + 0x0020
/-- ARR_CNT_SF (R110). -/
def arrCntSf (k : Nat) : Nat := cd k + 0x0028
/-- ARR_CNT_GUARD (R110). -/
def arrCntGuard (k : Nat) : Nat := cd k + 0x0030
/-- ARR_CNT_XING (R110). -/
def arrCntXing (k : Nat) : Nat := cd k + 0x0038
/-- ARR_CNT_RPR (R110). -/
def arrCntRpr (k : Nat) : Nat := cd k + 0x0040
/-- ARR_CNT_FRZ (R110). -/
def arrCntFrz (k : Nat) : Nat := cd k + 0x0048
/-- ARR_CNT_FRZCYC (R110). -/
def arrCntFrzcyc (k : Nat) : Nat := cd k + 0x0050
/-- ARR_RPR (R110). -/
def arrRpr (k r : Nat) : Nat := cd k + 0x0100 + 8 * r
/-- ARR_PALM (R110). -/
def arrPalm (k p : Nat) : Nat := cd k + 0x0200 + 8 * p
/-- CEL_EVT (R160). -/
def celEvt (k : Nat) : Nat := cd k + 0x1000
/-- CEL_XLOG (R160). -/
def celXlog (k : Nat) : Nat := cd k + 0x1008
/-- CEL_XCYC (R160). -/
def celXcyc (k : Nat) : Nat := cd k + 0x1010
/-- CEL_CNT_X (R160). -/
def celCntX (k : Nat) : Nat := cd k + 0x1018
/-- CEL_CNT_ABN (R160). -/
def celCntAbn (k : Nat) : Nat := cd k + 0x1020
/-- CEL_CNT_DISC (R160). -/
def celCntDisc (k : Nat) : Nat := cd k + 0x1028
/-- CEL_ACT (R160). -/
def celAct (k : Nat) : Nat := cd k + 0x1030
/-- TNS_EVT (R194). -/
def tnsEvt (k : Nat) : Nat := cd k + 0x2000
/-- TNS_CNT_PAD (R194). -/
def tnsCntPad (k : Nat) : Nat := cd k + 0x2008
/-- TNS_CNT_CLIP (R194). -/
def tnsCntClip (k : Nat) : Nat := cd k + 0x2010
/-- TNS_CNT_SAT (R194). -/
def tnsCntSat (k : Nat) : Nat := cd k + 0x2018
/-- TNS_CNT_NAN (R194). -/
def tnsCntNan (k : Nat) : Nat := cd k + 0x2020
/-- GSQ_STAT (R229). -/
def gsqStat (q : Nat) : Nat := gsqBase q + 0x00
/-- GSQ_SLOTS (R229). -/
def gsqSlots (q : Nat) : Nat := gsqBase q + 0x08
/-- GSQ_EVT (R229). -/
def gsqEvt (q : Nat) : Nat := gsqBase q + 0x10
/-- GSQ_RERUN_MAX (R229). -/
def gsqRerunMax (q : Nat) : Nat := gsqBase q + 0x18
/-- GSQ_SECB (R229). -/
def gsqSecb (q : Nat) : Nat := gsqBase q + 0x20
/-- GSQ_CNT_RERUN (R229). -/
def gsqCntRerun (q : Nat) : Nat := gsqBase q + 0x28
/-- GSQ_CNT_HELD (R229). -/
def gsqCntHeld (q : Nat) : Nat := gsqBase q + 0x30
/-- GSQ_CNT_DEFER (R229). -/
def gsqCntDefer (q : Nat) : Nat := gsqBase q + 0x38
/-- GSQ_CNT_LDFAIL (R229). -/
def gsqCntLdfail (q : Nat) : Nat := gsqBase q + 0x40
/-- GSQ_CNT_TMO (R229). -/
def gsqCntTmo (q : Nat) : Nat := gsqBase q + 0x48
/-- WKC_CLAIM (R235). -/
def wkcClaim (k m n : Nat) : Nat := wkcBase k m n + 0x00
/-- WKC_NEXT (R235). -/
def wkcNext (k m n : Nat) : Nat := wkcBase k m n + 0x08
/-- WKC_LIMIT (R235). -/
def wkcLimit (k m n : Nat) : Nat := wkcBase k m n + 0x10
/-- SPD_EVT (R277). -/
def spdEvt (k : Nat) : Nat := cd k + 0x4000
/-- SPD_DLOG (R277). -/
def spdDlog (k : Nat) : Nat := cd k + 0x4008
/-- SPD_RWLOG (R277). -/
def spdRwlog (k : Nat) : Nat := cd k + 0x4010
/-- SPD_CNT_DET (R277). -/
def spdCntDet (k : Nat) : Nat := cd k + 0x4018
/-- SPD_CNT_RWREF (R277). -/
def spdCntRwref (k : Nat) : Nat := cd k + 0x4020
/-- SPD_CNT_XERR (R277). -/
def spdCntXerr (k : Nat) : Nat := cd k + 0x4028
/-- SPD_CNT_NARROW (R277). -/
def spdCntNarrow (k : Nat) : Nat := cd k + 0x4030
/-- SPD_CNT_NWAIT (R277). -/
def spdCntNwait (k : Nat) : Nat := cd k + 0x4038
/-- EXP_CNT_IN (R277). -/
def expCntIn (k : Nat) : Nat := cd k + 0x4040
/-- EXP_CNT_OUT (R277). -/
def expCntOut (k : Nat) : Nat := cd k + 0x4048
/-- PRT (R277). -/
def prtW0 (k e : Nat) : Nat := cd k + 0x4800 + 32 * e
/-- ARV_CNT (R277). -/
def arvCnt (k m n : Nat) : Nat := cd k + 0x80000 + 8 * (16 * m + n)
/-- RWIN (R277). -/
def rwin (k m w : Nat) : Nat := cd k + 0xA0000 + 8 * (8 * m + w)
/-- RING_CFG (R277). -/
def ringCfg (k m j : Nat) : Nat := cd k + 0xC0000 + 16 * (4 * m + j)
/-- RING_PTR (R277). -/
def ringPtr (k m j : Nat) : Nat := cd k + 0xC0008 + 16 * (4 * m + j)
/-- HQ_STAT (R277). -/
def hqStat (k m q : Nat) : Nat := cd k + 0xD0000 + 8 * (2 * m + q)
/-- NTC_STAT (R319). -/
def ntcStat (k c : Nat) : Nat := ntcBase k c + 0x00
/-- NTC_EVT (R319). -/
def ntcEvt (k c : Nat) : Nat := ntcBase k c + 0x08
/-- NTC_ELOG (R319). -/
def ntcElog (k c : Nat) : Nat := ntcBase k c + 0x10
/-- NTC_CNT_CE (R319). -/
def ntcCntCe (k c : Nat) : Nat := ntcBase k c + 0x18
/-- NTC_CNT_UE (R319). -/
def ntcCntUe (k c : Nat) : Nat := ntcBase k c + 0x20
/-- NTC_CNT_RMW (R319). -/
def ntcCntRmw (k c : Nat) : Nat := ntcBase k c + 0x28
/-- NTC_CNT_REF (R319). -/
def ntcCntRef (k c : Nat) : Nat := ntcBase k c + 0x30
/-- NTC_CNT_HOLD (R319). -/
def ntcCntHold (k c : Nat) : Nat := ntcBase k c + 0x38
/-- NTC_CNT_RETIRE (R319). -/
def ntcCntRetire (k c : Nat) : Nat := ntcBase k c + 0x40
/-- MIG_STAT (R323). -/
def migStat : Nat := 0x2000000 + 0x0000
/-- MIG_EVT (R323). -/
def migEvt : Nat := 0x2000000 + 0x0008
/-- MIG_CNT_SEAL (R323). -/
def migCntSeal : Nat := 0x2000000 + 0x0010
/-- MIG_CNT_COPYUP (R323). -/
def migCntCopyup : Nat := 0x2000000 + 0x0018
/-- MIG_CNT_MOVE (R323). -/
def migCntMove : Nat := 0x2000000 + 0x0020
/-- MIG_CNT_FREE (R323). -/
def migCntFree : Nat := 0x2000000 + 0x0028
/-- MIG_CNT_FAIL (R323). -/
def migCntFail : Nat := 0x2000000 + 0x0030
/-- MIG_CNT_LOST (R323). -/
def migCntLost : Nat := 0x2000000 + 0x0038
/-- MIG_LIVE (R323). -/
def migLive : Nat := 0x2000000 + 0x0040
/-- MIG_FREEW (R323). -/
def migFreew : Nat := 0x2000000 + 0x0048
/-- MIG_FREED (R323). -/
def migFreed : Nat := 0x2000000 + 0x0050
/-- MIG_SYSFR (R323). -/
def migSysfr : Nat := 0x2000000 + 0x0058
/-- DDR_STAT (R323). -/
def ddrStat (c : Nat) : Nat := iod (c / 6) + 0x1000 + 0x40 * (c % 6)
/-- DDR_EVT (R323). -/
def ddrEvt (c : Nat) : Nat := iod (c / 6) + 0x1008 + 0x40 * (c % 6)
/-- DDR_CNT_CE (R323). -/
def ddrCntCe (c : Nat) : Nat := iod (c / 6) + 0x1010 + 0x40 * (c % 6)
/-- DDR_CNT_UE (R323). -/
def ddrCntUe (c : Nat) : Nat := iod (c / 6) + 0x1018 + 0x40 * (c % 6)
/-- DDR_ELOG (R323). -/
def ddrElog (c : Nat) : Nat := iod (c / 6) + 0x1020 + 0x40 * (c % 6)
/-- DDR_CNT_FENCE (R323). -/
def ddrCntFence (c : Nat) : Nat := iod (c / 6) + 0x1028 + 0x40 * (c % 6)
/-- DPP_STAT (R323). -/
def dppStat (i : Nat) : Nat := iod i + 0x2000
/-- DPP_EVT (R323). -/
def dppEvt (i : Nat) : Nat := iod i + 0x2008
/-- DPP_CNT_IOERR (R323). -/
def dppCntIoerr (i : Nat) : Nat := iod i + 0x2010
/-- DPP_CNT_LDN (R323). -/
def dppCntLdn (i : Nat) : Nat := iod i + 0x2018
/-- DPP_CNT_CMD (R323). -/
def dppCntCmd (i : Nat) : Nat := iod i + 0x2020
/-- DPP_CAP (R323). -/
def dppCap (i : Nat) : Nat := iod i + 0x2028
/-- XCH_EVT (R349). -/
def xchEvt : Nat := 0x2000000 + 0x20000
/-- XCH_ALOG (R349). -/
def xchAlog : Nat := 0x2000000 + 0x20008
/-- XCH_LAST (R349). -/
def xchLast : Nat := 0x2000000 + 0x20010
/-- XCH_CNT_PHASE (R349). -/
def xchCntPhase : Nat := 0x2000000 + 0x20018
/-- XCH_CNT_ROUND (R349). -/
def xchCntRound : Nat := 0x2000000 + 0x20020
/-- XCH_CNT_EXTRA (R349). -/
def xchCntExtra : Nat := 0x2000000 + 0x20028
/-- XCH_CNT_OVER (R349). -/
def xchCntOver : Nat := 0x2000000 + 0x20030
/-- XCH_CNT_STALE (R349). -/
def xchCntStale : Nat := 0x2000000 + 0x20038
/-- XCH_CNT_FUTURE (R349). -/
def xchCntFuture : Nat := 0x2000000 + 0x20040
/-- XCH_CNT_NULL (R349). -/
def xchCntNull : Nat := 0x2000000 + 0x20048
/-- XCH_CNT_ABORT (R349). -/
def xchCntAbort : Nat := 0x2000000 + 0x20050
/-- XCH_CNT_REC (R349). -/
def xchCntRec : Nat := 0x2000000 + 0x20058
/-- XCH_GEN (R349). -/
def xchGen (g : Nat) : Nat := 0x2000000 + 0x21000 + 8 * g
/-- XCH_PLAN (R349). -/
def xchPlan (p : Nat) : Nat := 0x2000000 + 0x22000 + 8 * p
/-- STW_STAT (R382). -/
def stwStat : Nat := 0x800000 + 0x0000
/-- STW_EVT (R382). -/
def stwEvt : Nat := 0x800000 + 0x0008
/-- STW_QIDX (R382). -/
def stwQidx : Nat := 0x800000 + 0x0020
/-- STW_Q (R382). -/
def stwQ (w : Nat) : Nat := 0x800000 + 0x0040 + 8 * w
/-- STW_CNT_ADMIT (R382). -/
def stwCntAdmit : Nat := 0x800000 + 0x0080
/-- STW_CNT_FULL (R382). -/
def stwCntFull : Nat := 0x800000 + 0x0088
/-- STW_CNT_CONFLICT (R382). -/
def stwCntConflict : Nat := 0x800000 + 0x0090
/-- STW_CNT_STEP (R382). -/
def stwCntStep : Nat := 0x800000 + 0x0098
/-- STW_CNT_ABANDON (R382). -/
def stwCntAbandon : Nat := 0x800000 + 0x00A0
/-- STW_CNT_CANCEL (R382). -/
def stwCntCancel : Nat := 0x800000 + 0x00A8
/-- STW_CNT_LATECAN (R382). -/
def stwCntLatecan : Nat := 0x800000 + 0x00B0
/-- STW_CNT_DRAFT (R382). -/
def stwCntDraft : Nat := 0x800000 + 0x00B8
/-- STW_CNT_ACCEPT (R382). -/
def stwCntAccept : Nat := 0x800000 + 0x00C0
/-- STW_CNT_NOPAGE (R382). -/
def stwCntNopage : Nat := 0x800000 + 0x00C8
/-- STW_CNT_GENDEFER (R382). -/
def stwCntGendefer : Nat := 0x800000 + 0x00D0
/-- STW_CNT_FAILOVER (R382). -/
def stwCntFailover : Nat := 0x800000 + 0x00D8
/-- STW_CNT_BUDGET (R382). -/
def stwCntBudget : Nat := 0x800000 + 0x00E0
/-- STW_GCFG (R382). -/
def stwGcfg (g : Nat) : Nat := 0x800000 + 0x1000 + 32 * g
/-- STW_GSTB (R382). -/
def stwGstb (g : Nat) : Nat := 0x800000 + 0x1008 + 32 * g
/-- STW_GSTART (R382). -/
def stwGstart (g : Nat) : Nat := 0x800000 + 0x1010 + 32 * g
/-- STW_GSTAT (R382). -/
def stwGstat (g : Nat) : Nat := 0x800000 + 0x1018 + 32 * g
/-- RES_EVT (R421). -/
def resEvt : Nat := 0x2000000 + 0x40000
/-- PFX_CFG (R421). -/
def pfxCfg : Nat := 0x2000000 + 0x40008
/-- PFX_STAT (R421). -/
def pfxStat : Nat := 0x2000000 + 0x40010
/-- RES_CNT_SWIN (R421). -/
def resCntSwin : Nat := 0x2000000 + 0x40020
/-- RES_CNT_NBRLOST (R421). -/
def resCntNbrlost : Nat := 0x2000000 + 0x40028
/-- RES_CNT_CUFF (R421). -/
def resCntCuff : Nat := 0x2000000 + 0x40030
/-- RES_CNT_CUFFLATE (R421). -/
def resCntCufflate : Nat := 0x2000000 + 0x40038
/-- RES_CNT_SECOND (R421). -/
def resCntSecond : Nat := 0x2000000 + 0x40040
/-- RES_CNT_DOWN (R421). -/
def resCntDown : Nat := 0x2000000 + 0x40048
/-- RES_CNT_EXPIRED (R421). -/
def resCntExpired : Nat := 0x2000000 + 0x40050
/-- RES_CNT_SEALFAIL (R421). -/
def resCntSealfail : Nat := 0x2000000 + 0x40058
/-- PFX_CNT_HIT (R421). -/
def pfxCntHit : Nat := 0x2000000 + 0x40060
/-- PFX_CNT_INSERT (R421). -/
def pfxCntInsert : Nat := 0x2000000 + 0x40068
/-- PFX_CNT_EVICT (R421). -/
def pfxCntEvict : Nat := 0x2000000 + 0x40070
/-- PFX_CNT_NOROOM (R421). -/
def pfxCntNoroom : Nat := 0x2000000 + 0x40078
/-- PFX_CNT_CUT (R421). -/
def pfxCntCut : Nat := 0x2000000 + 0x40080
/-- SMP_CNT_EMPTY (R421). -/
def smpCntEmpty : Nat := 0x2000000 + 0x40088
/-- SMP_CNT_BAD (R421). -/
def smpCntBad : Nat := 0x2000000 + 0x40090
/-- SMP_GLOG (R421). -/
def smpGlog (g : Nat) : Nat := 0x2000000 + 0x40100 + 32 * g
/-- SMP_GDRF (R421). -/
def smpGdrf (g : Nat) : Nat := 0x2000000 + 0x40108 + 32 * g
/-- RES_GSEAL (R421). -/
def resGseal (g : Nat) : Nat := 0x2000000 + 0x40110 + 32 * g
/-- TKE_ALLOW (R452). -/
def tkeAllow : Nat := 0x00401000
/-- TKE_LCFG (R452). -/
def tkeLcfg : Nat := 0x00401008
/-- TKE_FALLBACK (R452). -/
def tkeFallback : Nat := 0x00401010
/-- TKE_LEDGER (R452). -/
def tkeLedger : Nat := 0x00401018
/-- TKE_RUNG (R452). -/
def tkeRung : Nat := 0x00401020
/-- TKE_RUNGT (R452). -/
def tkeRungt : Nat := 0x00401028
/-- TKE_WAKE (R452). -/
def tkeWake : Nat := 0x00401030
/-- TKE_LEVT (R452). -/
def tkeLevt : Nat := 0x00401038
/-- TKE_CNT_DEFER (R452). -/
def tkeCntDefer : Nat := 0x00401040
/-- TKE_CNT_SHRINK (R452). -/
def tkeCntShrink : Nat := 0x00401048
/-- TKE_CNT_STEPDN (R452). -/
def tkeCntStepdn : Nat := 0x00401050
/-- TKE_CNT_DHOLD (R452). -/
def tkeCntDhold : Nat := 0x00401058
/-- TKE_CNT_AUTOS1 (R452). -/
def tkeCntAutos1 : Nat := 0x00401060
/-- TKE_CNT_GMISS (R452). -/
def tkeCntGmiss : Nat := 0x00401068
/-- TKE_CNT_RUNGFAIL (R452). -/
def tkeCntRungfail : Nat := 0x00401070
/-- TKE_CNT_GRESET (R452). -/
def tkeCntGreset : Nat := 0x00401078
/-- TKE_MTR_HBM (R452). -/
def tkeMtrHbm : Nat := 0x00401080
/-- TKE_MTR_IOD (R452). -/
def tkeMtrIod : Nat := 0x00401088
/-- TKE_MTR_OTH (R452). -/
def tkeMtrOth : Nat := 0x00401090
/-- TKE_DSTAT (R452). -/
def tkeDstat (k : Nat) : Nat := 0x00401100 + 32 * k
/-- TKE_MTR (R452). -/
def tkeMtr (k : Nat) : Nat := 0x00401108 + 32 * k
/-- TKE_DIDLE (R452). -/
def tkeDidle (k : Nat) : Nat := 0x00401110 + 32 * k
/-- GLV_STAT (R452). -/
def glvStat (g : Nat) : Nat := 0x00402000 + 64 * g
/-- GLV_PALM0 (R452). -/
def glvPalm0 (g : Nat) : Nat := 0x00402008 + 64 * g
/-- GLV_PALM1 (R452). -/
def glvPalm1 (g : Nat) : Nat := 0x00402010 + 64 * g
/-- GLV_ECFG (R452). -/
def glvEcfg (g : Nat) : Nat := 0x00402018 + 64 * g
/-- GLV_BAL (R452). -/
def glvBal (g : Nat) : Nat := 0x00402020 + 64 * g
/-- GLV_GRANT (R452). -/
def glvGrant (g : Nat) : Nat := 0x00402028 + 64 * g
/-- GLV_CF (R452). -/
def glvCf (g : Nat) : Nat := 0x00402030 + 64 * g
/-- GLV_CNT_E (R452). -/
def glvCntE (g : Nat) : Nat := 0x00402038 + 64 * g
/-- LNK_STAT (R491). -/
def lnkStat (l : Nat) : Nat := lnkBase l + 0x00
/-- LNK_CFG (R491). -/
def lnkCfg (l : Nat) : Nat := lnkBase l + 0x08
/-- LNK_EVT (R491). -/
def lnkEvt (l : Nat) : Nat := lnkBase l + 0x10
/-- LNK_CNT_CORR (R491). -/
def lnkCntCorr (l : Nat) : Nat := lnkBase l + 0x18
/-- LNK_CNT_CRC (R491). -/
def lnkCntCrc (l : Nat) : Nat := lnkBase l + 0x20
/-- LNK_CNT_REPLAY (R491). -/
def lnkCntReplay (l : Nat) : Nat := lnkBase l + 0x28
/-- LNK_CNT_LANE (R491). -/
def lnkCntLane (l : Nat) : Nat := lnkBase l + 0x30
/-- LNK_CNT_DOWN (R491). -/
def lnkCntDown (l : Nat) : Nat := lnkBase l + 0x38
/-- LNK_CNT_TX (R491). -/
def lnkCntTx (l : Nat) : Nat := lnkBase l + 0x40
/-- RTE (R496). -/
def rte (n : Nat) : Nat := 0x2000000 + 0x60000 + 8 * n
/-- NOD_ID (R496). -/
def nodId : Nat := 0x2000000 + 0x70000
/-- RT_EVT (R496). -/
def rtEvt : Nat := 0x2000000 + 0x70008
/-- RT_CNT_UNREACH (R496). -/
def rtCntUnreach : Nat := 0x2000000 + 0x70010
/-- RT_CNT_HOPLIM (R496). -/
def rtCntHoplim : Nat := 0x2000000 + 0x70018
/-- MGR_CFG (R496). -/
def mgrCfg : Nat := 0x2000000 + 0x70020
/-- MGR_RACKW (R496). -/
def mgrRackw : Nat := 0x2000000 + 0x70028
/-- MGR_STAT (R496). -/
def mgrStat : Nat := 0x2000000 + 0x70030
/-- MGR_EPOCH (R496). -/
def mgrEpoch : Nat := 0x2000000 + 0x70038
/-- MGR_EVT (R496). -/
def mgrEvt : Nat := 0x2000000 + 0x70040
/-- MGR_CNT_WLOST (R496). -/
def mgrCntWlost : Nat := 0x2000000 + 0x70048
/-- MGR_CNT_TAKEOVER (R496). -/
def mgrCntTakeover : Nat := 0x2000000 + 0x70050
/-- MGR_CNT_AREFUSE (R496). -/
def mgrCntArefuse : Nat := 0x2000000 + 0x70058
/-- MGR_WRK (R496). -/
def mgrWrk (p : Nat) : Nat := 0x2000000 + 0x71000 + 16 * p
/-- MGR_WRKT (R496). -/
def mgrWrkt (p : Nat) : Nat := 0x2000000 + 0x71008 + 16 * p
/-- HIF_STAT (R522). -/
def hifStat : Nat := 0x200000 + 0x0000
/-- HIF_EVT (R522). -/
def hifEvt : Nat := 0x200000 + 0x0008
/-- HIF_WIN (R522). -/
def hifWin : Nat := 0x200000 + 0x0010
/-- HIF_EVCQ (R522). -/
def hifEvcq : Nat := 0x200000 + 0x0018
/-- HIF_CNT_STALE (R522). -/
def hifCntStale : Nat := 0x200000 + 0x0020
/-- HIF_CNT_CQDROP (R522). -/
def hifCntCqdrop : Nat := 0x200000 + 0x0028
/-- HIF_CNT_CQSTALL (R522). -/
def hifCntCqstall : Nat := 0x200000 + 0x0030
/-- HIF_CNT_RPTDROP (R522). -/
def hifCntRptdrop : Nat := 0x200000 + 0x0038
/-- HIF_CNT_CMD (R522). -/
def hifCntCmd : Nat := 0x200000 + 0x0040
/-- HIF_CNT_REF (R522). -/
def hifCntRef : Nat := 0x200000 + 0x0048
/-- HIF_ALERT (R522). -/
def hifAlert : Nat := 0x200000 + 0x0050
/-- HIF_ALMASK (R522). -/
def hifAlmask : Nat := 0x200000 + 0x0058
/-- HIF_CR_CFG (R522). -/
def hifCrCfg (n : Nat) : Nat := 0x200000 + 0x1000 + 16 * n
/-- HIF_CR_CONS (R522). -/
def hifCrCons (n : Nat) : Nat := 0x200000 + 0x1008 + 16 * n
/-- HIF_CQ_BASE (R522). -/
def hifCqBase (c : Nat) : Nat := 0x200000 + 0x2000 + 32 * c
/-- HIF_CQ_CFG (R522). -/
def hifCqCfg (c : Nat) : Nat := 0x200000 + 0x2008 + 32 * c
/-- HIF_CQ_HEAD (R522). -/
def hifCqHead (c : Nat) : Nat := 0x200000 + 0x2010 + 32 * c
/-- HIF_CQ_TAIL (R522). -/
def hifCqTail (c : Nat) : Nat := 0x200000 + 0x2018 + 32 * c
/-- HIF_GRPT (R522). -/
def hifGrpt (g : Nat) : Nat := 0x200000 + 0x4000 + 8 * g
/-- SEC_STAT (R547). -/
def secStat : Nat := 0x300000 + 0x0000
/-- SEC_EVT (R547). -/
def secEvt : Nat := 0x300000 + 0x0008
/-- SEC_CFG (R547). -/
def secCfg : Nat := 0x300000 + 0x0010
/-- SEC_ID (R547). -/
def secId : Nat := 0x300000 + 0x0018
/-- SEC_RBC (R547). -/
def secRbc : Nat := 0x300000 + 0x0020
/-- SEC_ACTL (R547). -/
def secActl : Nat := 0x300000 + 0x0028
/-- SEC_CNT_SIGFAIL (R547). -/
def secCntSigfail : Nat := 0x300000 + 0x0030
/-- SEC_CNT_ERASE (R547). -/
def secCntErase : Nat := 0x300000 + 0x0038
/-- SEC_CNT_TRNG (R547). -/
def secCntTrng : Nat := 0x300000 + 0x0040
/-- SEC_ANONCE (R547). -/
def secAnonce (w : Nat) : Nat := 0x300000 + 0x0100 + 8 * w
/-- SEC_APUB (R547). -/
def secApub (w : Nat) : Nat := 0x300000 + 0x0140 + 8 * w
/-- SEC_CERT (R547). -/
def secCert (w : Nat) : Nat := 0x300000 + 0x0200 + 8 * w
/-- SEC_AREP (R547). -/
def secArep : Nat := 0x300000 + 0x0400
/-- SEC_KSTAT (R547). -/
def secKstat (s : Nat) : Nat := 0x300000 + 0x1000 + 32 * s
/-- SEC_KTAG0 (R547). -/
def secKtag0 (s : Nat) : Nat := 0x300000 + 0x1008 + 32 * s
/-- SEC_KTAG1 (R547). -/
def secKtag1 (s : Nat) : Nat := 0x300000 + 0x1010 + 32 * s
/-- GLB_CAP (R576). -/
def glbCap : Nat := 0x00000010
/-- GLB_PROF (R576). -/
def glbProf : Nat := 0x00000018
/-- GLB_PTICK (R576). -/
def glbPtick : Nat := 0x00000020
/-- AOS_RSTCAUSE (R579). -/
def aosRstcause : Nat := 0x100000 + 0x0000
/-- AOS_RSTTICK (R579). -/
def aosRsttick : Nat := 0x100000 + 0x0008
/-- AOS_RSTREQ (R579). -/
def aosRstreq : Nat := 0x100000 + 0x0010
/-- AOS_OTPSTAT (R579). -/
def aosOtpstat : Nat := 0x100000 + 0x0018
/-- AOS_CLKSTAT (R579). -/
def aosClkstat : Nat := 0x100000 + 0x0020
/-- AOS_BRING (R579). -/
def aosBring : Nat := 0x100000 + 0x0028
/-- AOS_EVT (R579). -/
def aosEvt : Nat := 0x100000 + 0x0030
/-- AOS_CNT_FILT (R579). -/
def aosCntFilt : Nat := 0x100000 + 0x0038
/-- AOS_CNT_PLL (R579). -/
def aosCntPll : Nat := 0x100000 + 0x0040
/-- AOS_CNT_OTPRST (R579). -/
def aosCntOtprst : Nat := 0x100000 + 0x0048
/-- AOS_CNT_WARM (R579). -/
def aosCntWarm : Nat := 0x100000 + 0x0050
/-- AOS_PROF (R579). -/
def aosProf (p w : Nat) : Nat := 0x100000 + 0x0100 + 32 * p + 8 * w
/-- RAS_STAT (R604). -/
def rasStat : Nat := 0x2000000 + 0x80000
/-- RAS_CTL (R604). -/
def rasCtl : Nat := 0x2000000 + 0x80008
/-- RAS_EVT (R604). -/
def rasEvt : Nat := 0x2000000 + 0x80010
/-- RAS_CETHR (R604). -/
def rasCethr : Nat := 0x2000000 + 0x80018
/-- RAS_UPD (R604). -/
def rasUpd : Nat := 0x2000000 + 0x80020
/-- RAS_LOGPTR (R604). -/
def rasLogptr : Nat := 0x2000000 + 0x80028
/-- RAS_CNT_CE (R604). -/
def rasCntCe : Nat := 0x2000000 + 0x80030
/-- RAS_CNT_UE (R604). -/
def rasCntUe : Nat := 0x2000000 + 0x80038
/-- RAS_CNT_FATAL (R604). -/
def rasCntFatal : Nat := 0x2000000 + 0x80040
/-- RAS_CNT_FENCE (R604). -/
def rasCntFence : Nat := 0x2000000 + 0x80048
/-- RAS_CNT_UPDFAIL (R604). -/
def rasCntUpdfail : Nat := 0x2000000 + 0x80050
/-- RAS_CNT_LOGOVF (R604). -/
def rasCntLogovf : Nat := 0x2000000 + 0x80058
/-- RAS_LOG (R604). -/
def rasLog (e w : Nat) : Nat := 0x2000000 + 0x81000 + 32 * e + 8 * w
/-- GSQ_CNT_WKREF of die `k` (R229). -/
def gsqCntWkref (k : Nat) : Nat := cd k + 0x3400
/-- The PF MSI-X table (R522): vector `v`, 64-bit word `w` of its two. -/
def msixEntry (v w : Nat) : Nat := 0x208000 + 16 * v + 8 * w
/-- The PF MSI-X pending bits (R522). -/
def msixPba : Nat := 0x209000
/-- TMAP_W0 of logical frame `f` (R322). -/
def tmapW0 (f : Nat) : Nat := 0x2000000 + 0x100000 + 16 * f
/-- TMAP_W1 of logical frame `f` (R322). -/
def tmapW1 (f : Nat) : Nat := 0x2000000 + 0x100008 + 16 * f
/-- The size of BAR0 (R496, R522). -/
def bar0Size : Nat := 0x4000000

end Sys2Proof.Machine.Adr
end

