-- ==== Sys2Proof/Machine/RegMap.lean ====
section
/-! DEFINITION. What the register tables say of each BAR0 address: its reset value, the counter paired with each event flag, and the bits a write sets. -/

namespace Sys2Proof.Machine

open Adr

/-- The counters paired with the flags of a block of one compute die at offset `o` of its block, flag by flag from
bit 0 (R113, R162, R196, R279, R233, R320). -/
def dieFlagCounters (k o : Nat) : List Nat :=
  if o = 0x8 then [arrCntSf k, arrCntGuard k, arrCntXing k, arrCntRpr k, arrCntFrz k]
  else if o = 0x1000 then [celCntX k, celCntAbn k, celCntDisc k]
  else if o = 0x2000 then [tnsCntPad k, tnsCntClip k, tnsCntSat k, tnsCntNan k]
  else if o = 0x4000 then [spdCntDet k, spdCntRwref k, spdCntXerr k]
  else if 0x3000 ≤ o ∧ o < 0x3400 ∧ (o - 0x3000) % 0x80 = 0x10 then
    let q := 8 * k + (o - 0x3000) / 0x80
    [gsqCntRerun q, gsqCntHeld q, gsqCntDefer q, gsqCntLdfail q, gsqCntTmo q]
  else if 0xE0000 ≤ o ∧ o < 0xE0400 ∧ (o - 0xE0000) % 0x100 = 0x08 then
    let c := (o - 0xE0000) / 0x100
    [ntcCntCe k c, ntcCntUe k c, ntcCntRef k c, ntcCntHold k c, ntcCntRetire k c]
  else []

/-- The counters paired with the flags of a block of I/O die `i` at offset `o` of its block (R323, R351, R423, R495,
R496, R607). -/
def iodFlagCounters (i o : Nat) : List Nat :=
  if 0x1000 ≤ o ∧ o < 0x1180 ∧ (o - 0x1000) % 0x40 = 0x08 then
    let c := 6 * i + (o - 0x1000) / 0x40
    [ddrCntCe c, ddrCntUe c, ddrCntFence c]
  else if o = 0x2008 ∧ i < 4 then [dppCntIoerr i, dppCntLdn i]
  else if 0x50000 ≤ o ∧ o < 0x50C00 ∧ (o - 0x50000) % 0x80 = 0x10 ∧ i < 4 then
    let l := 24 * i + (o - 0x50000) / 0x80
    [lnkCntCrc l, lnkCntReplay l, lnkCntLane l, lnkCntDown l]
  else if i = 0 then
    if o = 0x8 then [migCntFail, migCntLost]
    else if o = 0x20000 then [xchCntAbort, xchCntExtra, xchCntStale, xchCntFuture]
    else if o = 0x40000 then [resCntSealfail, resCntCufflate, resCntNbrlost, pfxCntNoroom, smpCntEmpty, smpCntBad]
    else if o = 0x70008 then [rtCntUnreach, rtCntHoplim]
    else if o = 0x70040 then [mgrCntWlost, mgrCntTakeover, mgrCntArefuse]
    else if o = 0x80010 then [rasCntCe, rasCntUe, rasCntFatal, rasCntFence, rasCntUpdfail, rasCntLogovf]
    else []
  else []

/-- The counters paired with the flags of the event register at `a`, from bit 0; empty where `a` is no event
register (R589 and the field tables it names). -/
def flagCounters (a : Nat) : List Nat :=
  if a < 0x1000000 then
    if a = tkeEvt then [tkeCntAlign, tkeCntHovr, tkeCntStep, tkeCntHold, tkeCntLate, tkeCntCrown, tkeCntPchg]
    else if a = tkeLevt then [tkeCntDefer, tkeCntShrink, tkeCntStepdn, tkeCntDhold, tkeCntAutos1, tkeCntGmiss,
      tkeCntRungfail, tkeCntGreset]
    else if a = stwEvt then [stwCntFull, stwCntConflict, stwCntAbandon, stwCntNopage, stwCntGendefer, stwCntFailover]
    else if a = hifEvt then [hifCntStale, hifCntCqdrop, hifCntCqstall, hifCntRptdrop, hifCntRef]
    else if a = secEvt then [secCntSigfail, secCntErase, secCntTrng]
    else if a = aosEvt then [aosCntFilt, aosCntPll, aosCntOtprst, aosCntWarm]
    else []
  else if a < 0x2000000 then dieFlagCounters ((a - 0x1000000) / 0x200000) ((a - 0x1000000) % 0x200000)
  else if a < 0x3800000 then iodFlagCounters ((a - 0x2000000) / 0x400000) ((a - 0x2000000) % 0x400000)
  else []

/-- The reset value of the register words that hold more than zero after a cold reset, by address; the fields that
reset from a profile or from OTP are written by the reset itself. -/
def regReset (a : Nat) : Word :=
  if a = tkeHoldlim then 0x5F5E100
  else if a = tkeLcfg then BitVec.ofNat 64 (4000 * 2 ^ 21 + 95 * 2 ^ 37 + 4 * 2 ^ 44)
  else if a = tkeWake then 0x7
  else if a = mgrCfg then BitVec.ofNat 64 (2 ^ 7 + 12500 * 2 ^ 8 + 4 * 2 ^ 28)
  else if a = mgrEpoch then 1
  else if a = hifWin then 1
  else if a = hifAlmask then 0x3F
  else if a = rasCethr then BitVec.ofNat 64 (1024 + 4096 * 2 ^ 16 + 16 * 2 ^ 32 + 3600 * 2 ^ 40)
  else if 0x402000 ≤ a ∧ a < 0x403000 ∧ a % 64 = 0x18 then BitVec.ofNat 64 (4 * 2 ^ 32)
  else if 0x2000000 ≤ a ∧ a < 0x3000000 ∧ 0x50000 ≤ a % 0x400000 ∧ a % 0x400000 < 0x50C00 ∧ a % 0x80 = 8 then 0x4001
  else if 0x201000 ≤ a ∧ a < 0x202000 ∧ a % 16 = 0 then 0x6
  else if 0x202000 ≤ a ∧ a < 0x204000 ∧ a % 32 = 8 then 0x80006
  else if 0x1003000 ≤ a ∧ a < 0x2000000 ∧ 0x3000 ≤ a % 0x200000 ∧ a % 0x200000 < 0x3400 ∧ a % 0x80 = 0x18 then 0x2
  else 0

end Sys2Proof.Machine
end

