-- ==== Sys2Proof/Machine/Sparse.lean ====
section
/-! DEFINITION. Sparse tables in one canonical form: keys strictly rising, and no entry equal to what an unlisted index reads as. -/

/-- A list put into order by `le`; entries of one rank keep their order. -/
def List.sortBy {β : Type} (l : List β) (le : β → β → Bool) : List β := l.foldr (fun b acc => place le b acc) []
where
  place (le : β → β → Bool) (b : β) : List β → List β
    | [] => [b]
    | c :: r => if le b c then b :: c :: r else c :: place le b r

namespace Sys2Proof

variable {α : Type}

/-- What the table `m` holds at index `k`; an index it does not list reads as `d k`. -/
def SMap.look (d : Nat → α) : SMap α → Nat → α
  | [], k => d k
  | (k', v) :: r, k => if k' = k then v else SMap.look d r k

/-- The entry `(k, v)` put before the first entry of a greater index. -/
def SMap.place (k : Nat) (v : α) : SMap α → SMap α
  | [] => [(k, v)]
  | e :: r => if k < e.1 then (k, v) :: e :: r else e :: SMap.place k v r

/-- The table with index `k` holding `v`, still in canonical form. -/
def SMap.store [DecidableEq α] (d : Nat → α) (m : SMap α) (k : Nat) (v : α) : SMap α :=
  let rest : SMap α := List.filter (fun e => e.1 != k) m
  if v = d k then rest else SMap.place k v rest

/-- The canonical form of a table. -/
abbrev SMap.Wf (d : Nat → α) (m : SMap α) : Prop :=
  m.Pairwise (fun a b => a.1 < b.1) ∧ ∀ p ∈ m, p.2 ≠ d p.1

/-- The canonical form for tables whose unlisted indexes read as the blank value. -/
abbrev SMap.Canon [Inhabited α] (m : SMap α) : Prop := SMap.Wf (fun _ => default) m

/-- Reading a table whose unlisted indexes read as the type's blank value. -/
def SMap.at [Inhabited α] (m : SMap α) (k : Nat) : α := SMap.look (fun _ => default) m k

/-- Writing a table whose unlisted indexes read as the type's blank value. -/
def SMap.put [DecidableEq α] [Inhabited α] (m : SMap α) (k : Nat) (v : α) : SMap α :=
  SMap.store (fun _ => default) m k v

/-- Changing one entry by a function. -/
def SMap.upd [DecidableEq α] [Inhabited α] (m : SMap α) (k : Nat) (f : α → α) : SMap α :=
  m.put k (f (m.at k))

/-- Writing consecutive indexes from `k` on. -/
def SMap.putRow [DecidableEq α] [Inhabited α] : SMap α → Nat → List α → SMap α
  | m, _, [] => m
  | m, k, v :: r => SMap.putRow (m.put k v) (k + 1) r

/-- `n` consecutive entries from index `k` on. -/
def SMap.row [Inhabited α] (m : SMap α) (k n : Nat) : List α :=
  (List.range n).map fun i => m.at (k + i)

/-- The listed entries of the half-open range `lo`, `lo + n`. -/
def SMap.span (m : SMap α) (lo n : Nat) : SMap α :=
  m.filter fun p => lo ≤ p.1 && p.1 < lo + n

/-- The table with every index of the range `lo`, `lo + n` back at its unlisted value. -/
def SMap.clear (m : SMap α) (lo n : Nat) : SMap α :=
  m.filter fun p => !(lo ≤ p.1 && p.1 < lo + n)

/-- Every listed entry changed by a function of its index; entries that become blank are unlisted. -/
def SMap.mapV [DecidableEq α] [Inhabited α] (m : SMap α) (f : Nat → α → α) : SMap α :=
  (m.map fun p => (p.1, f p.1 p.2)).filter fun p => p.2 ≠ default

/-- The table with the listed entries of `src` written `shift` further on (a copy of a range). -/
def SMap.graft [DecidableEq α] [Inhabited α] (m : SMap α) (src : SMap α) (from_ to_ : Nat) : SMap α :=
  src.foldl (fun acc p => acc.put (p.1 - from_ + to_) p.2) m

/-- The range of `n` indexes at `to_` made equal to the range at `from_` of table `t`. -/
def SMap.copyIn [DecidableEq α] [Inhabited α] (m t : SMap α) (from_ to_ n : Nat) : SMap α :=
  (m.clear to_ n).graft (t.span from_ n) from_ to_

end Sys2Proof
end

