-- ==== Sys2Proof/Machine/State.lean ====
section
/-! DEFINITION. The state of the module, block by block, as plain data; the reasons a step stops; the state after reset. -/

namespace Sys2Proof.Machine

/-- The three part numbers (R1, R2). -/
inductive Variant where
  | s32 | w32 | s24
deriving DecidableEq, Repr, Inhabited

/-- The states of the tick block (R57). -/
inductive TState where
  | acquiring | locked | holdover | unlocked
deriving DecidableEq, Repr, Inhabited

/-- TKE_TSTATE.ROLE (R65). -/
inductive TRole where
  | worker | rackMaster | crown | standby
deriving DecidableEq, Repr, Inhabited

/-- The tick block (R39 to R66). -/
structure TickSt where
  /-- The 64-bit tick counter (R39). -/
  tick : Nat
  /-- The 20-bit phase counter (R39). -/
  phase : Nat
  /-- N, the tick period in force, in rc (R40, R64). -/
  n : Nat
  /-- A pending period change: NEXT_N and TKE_PCHG_TICK (R41, R64). -/
  pend : Option (Nat × Nat)
  /-- The high half of TKE_TICK latched by the last read (R62). -/
  latchHi : BitVec 32
  /-- TKE_PHASE: the phase latched by the last read of TKE_TICK (R62). -/
  latchPhase : Nat
  /-- This module's own state (R57). -/
  own : TState
  /-- The rack master's state, as a worker or standby manager knows it (R57). -/
  master : TState
  /-- TKE_TSTATE.ROLE (R65). -/
  role : TRole
  /-- The node followed (R53, R65). -/
  parent : Option Nat
  /-- The crown, when known (R65). -/
  crown : Option Nat
  /-- TKE_OFFSET.OFS: this module minus its parent, in ns (R66). -/
  ofsNs : Int
  /-- TKE_OFFSET.FREQ: the frequency correction applied, in ppb (R54, R66). -/
  freq : Int
  /-- The offset from the crown, in rc (R53). -/
  crownOfs : Int
  /-- The offset still to be slewed out, in rc: positive when ahead (R54). -/
  slew : Int
  /-- Reference cycles since the last offset correction (R54: at most 1 rc in any 4,096 rc). -/
  slewRc : Nat
  /-- The fraction of a cycle that the frequency correction has gathered, in ppb of a cycle (R54). -/
  freqAcc : Int
  /-- An offset d that is stepped or held at the next tick boundary (R57). -/
  stepPend : Option Int
  /-- A hold of both counters: the reference cycles left (R48, R58). -/
  hold : Option Nat
  /-- Followers that a beacon check found more than 1 rc away (R50). -/
  stray : List Nat
  /-- Whether REFCLK is present (R60). -/
  refclk : Bool
  /-- Reference cycles since this module last sent a beacon (R53). -/
  sinceSent : Nat
  /-- Reference cycles since the last beacon from the parent (R56). -/
  sinceHeard : Nat
  /-- Reference cycles spent in HOLDOVER (R56). -/
  hovr : Nat
  /-- Every REFCLK cycle so far, whatever the counters do. The MODEL's own count: by it stretches of reference cycles are told (R436,
  R442). -/
  rcs : Nat
  /-- The rack masters that reach the crown, as last heard: link hops and node ID (R53). -/
  cands : List (Nat × Nat)
deriving DecidableEq, Repr, Inhabited

/-- The thumb row's repair state of one physical row (R102 to R106, R116): the chain in force of each kind, whether it
was formed in service, whether the spare passed self-test, and a chain that waits. -/
structure RowRepair where
  cCol : Option Nat
  mCol : Option Nat
  cSrc : Bool
  mSrc : Bool
  cSpareOk : Bool
  mSpareOk : Bool
  cWait : Option Nat
  mWait : Option Nat
deriving DecidableEq, Repr, Inhabited

/-- A palm: the glove that holds it, and the causes that keep it FENCED, in the order in which they arose (R108, R637). -/
structure PalmSt where
  glove : Option Nat
  causes : List Nat
  /-- The palm was cleared by PALM_SCRUB when it last left a glove, so that its contents are zeros and not undefined (R109, R540). -/
  clean : Bool
deriving DecidableEq, Repr, Inhabited

/-- One edge of a compute die (R112): whether its port is trained, and MARGIN_LOW. PRESENT and KIND follow from the
variant (R16, R87). -/
structure EdgeSt where
  trained : Bool
  marginLow : Bool
deriving DecidableEq, Repr, Inhabited

/-- What a compute die holds beside its cells. -/
structure DieSt where
  /-- AOS_BRING.DIEk: 0 held, 1 self-test, 2 stack training, 3 waiting for the wide tier, 4 released, 5 fenced (R581). -/
  bring : Nat
  /-- Fenced by an array fence (R591). -/
  arrayFence : Bool
  /-- Fenced by a full fence (R591). -/
  fullFence : Bool
  /-- The clock step in force, 0 to 7 (R435). -/
  step : Nat
  /-- A step change in progress, while the array clock is stopped: the new step (R436). -/
  stepping : Option Nat
  /-- The count of REFCLK cycles from which that stop of 64 rc has lasted long enough (R436). -/
  stepEnd : Nat
  /-- A lowering that waits for the done or the next switch of a pattern that spans dies: its step (R436). -/
  want : Option Nat
  /-- The array clock is stopped by a die hold (R438). -/
  held : Bool
  /-- Temperature in °C at the last sample (R437). -/
  temp : Nat
  /-- The heat budget PB set at the last sample, in hundredths of a W (R437). -/
  pb : Nat
  /-- Successive samples at which the load exceeded PB since the last lowering (R438). -/
  overload : Nat
  /-- The idle power measured at bring-up, in W (TKE_DIDLE). -/
  idleW : Nat
  /-- W1C writes held while the array clock is stopped, oldest first (R588). -/
  heldW1c : List (Nat × Word)
  /-- A raise whose new VCORE the regulator has not reported yet: the new step (R613). -/
  raising : Option Nat
  /-- The VCORE set-point last commanded over AVSBus, in mV; 0 before the first command, while the regulator stands at 670 mV (R612). -/
  vcore : Nat
  /-- The array cycle of this die, and the gloves whose patterns have executed in it. The MODEL's own count: by it the events of one
  cycle are told (R101, R158, R195). -/
  clk : Nat
  ran : List Nat
  /-- The array cycles of ARR_SF_LOG's and CEL_XLOG's captures (R101, R158). -/
  sfClk : Nat
  xClk : Nat
  /-- The flags of TNS_EVT whose counters have advanced in the present array cycle (R195). -/
  tnsSeen : List Nat
deriving DecidableEq, Repr, Inhabited

/-- A word of the static plane (R73). -/
structure MWord where
  dv : Bool
  data : Line
  de : Bool
  cv : Bool
  ce : Bool
  cval : Byte
deriving DecidableEq, Repr, Inhabited

/-- The configuration of one switch slot beside its route table (R76, R200): P - 1, the delays of N, E, S, W, L, the
port select of each steering unit and its eight output masks. -/
structure SwCfg where
  p1 : Nat
  delays : List Nat
  sel0 : Nat
  masks0 : List Nat
  sel1 : Nat
  masks1 : List Nat
deriving DecidableEq, Repr, Inhabited

/-- A steering unit's latched token (R83). -/
structure SteerSt where
  valid : Bool
  cval : Byte
  ce : Bool
deriving DecidableEq, Repr, Inhabited

/-- A word under way on the static plane: the pattern cycle at which it reaches the crossbar of the switch (or the
cell's queue), and the port it came in by (R78). -/
structure Transit where
  at_ : Nat
  port : Nat
  w : MWord
  /-- The second line of a word of a near port (R71). -/
  hi : Line
deriving DecidableEq, Repr, Inhabited

/-- The position of the bundle that issues (R129): bundle, loop, iteration i, repetition rep, the loop's TRIP and the
context's REP. -/
structure IssueSt where
  bundle : Nat
  loopIx : Nat
  i : Nat
  rep : Nat
  trip : Nat
  reps : Nat
deriving DecidableEq, Repr, Inhabited

/-- A result on its way to its register (R143, R151, R152). -/
inductive CellWrite where
  /-- Lanes of a physical vector register. -/
  | vreg (r : Nat) (val : BitVec 2048) (lanes : BitVec 64)
  | mask (m : Nat) (val sel : BitVec 64)
  | flag (f : Nat) (val : Bool)
  | ep (val : Bool)
  /-- A line of an operand buffer. -/
  | line (buf n : Nat) (val : Line)
  /-- One column of an accumulator bank, 64 positions. -/
  | accCol (bank col : Nat) (val : BitVec 2048)
  | accZero (bank : Nat)
  /-- A finished MMA: the whole bank, row by row. -/
  | accAll (bank : Nat) (val : List Lane)
  /-- The row-scale latch of side A (64 lanes) or B (96 lanes). -/
  | latch (side : Nat) (val : List Lane)
deriving DecidableEq, Repr, Inhabited

/-- A write that falls due at the end of a pattern cycle, with the bundle and slot it came from (R152, R163). -/
structure DueWrite where
  at_ : Nat
  w : CellWrite
  iss : IssueSt
  slot : Nat
deriving DecidableEq, Repr, Inhabited

/-- A take that goes on after its issue cycle (R136): FIL or VLD, the words left, and where the next one goes. -/
inductive TakeTo where
  | fil (lines : List (Nat × Nat))
  /-- Lanes of register `r` from `pos` on, those gathered so far, and their mask; the register is written with the last word. -/
  | vld (r : Nat) (pos : Nat) (val : BitVec 2048) (lanes : BitVec 64)
  | discard
deriving DecidableEq, Repr, Inhabited

structure TakeSt where
  port : Nat
  left : Nat
  to_ : TakeTo
  iss : IssueSt
deriving DecidableEq, Repr, Inhabited

/-- An MMA in the array (R149): issue cycle, T, bank, zeroing, the formats, the panel and scale lines as (buffer, line)
lists, and the lines read so far, by depth. -/
structure MmaSt where
  t0 : Nat
  t : Nat
  bank : Nat
  zero : Bool
  fa : Nat
  fb : Nat
  aLines : List (Nat × Nat)
  bLines : List (Nat × Nat)
  aScale : List Line
  bScale : List Line
  aRead : List Nat
  bRead : List Nat
  /-- The row-scale latches of sides A and B as they stood in the issue cycle (R131, R150). -/
  aLatch : List Lane
  bLatch : List Lane
  iss : IssueSt
deriving DecidableEq, Repr, Inhabited

/-- The running part of a C-cell (R118, R119). Its vector registers, operand buffers, accumulators, latches, bundles and
configuration words stand in tables of `ArrayMem`. -/
structure CellSt where
  /-- The active context slot. -/
  ctx : Nat
  ep : Bool
  flags : BitVec 4
  /-- M1 to M7; M0 reads as all ones. -/
  masks : List (BitVec 64)
  /-- The stochastic-rounding generator (R177). -/
  gen : BitVec 32
  /-- The bundle that issues in this cycle. -/
  iss : IssueSt
  /-- Input queues of N, E, S, W, L: for L one line a word, for a near port two (R71). -/
  inQ : List (List (Line × Line))
  /-- Send queues of N, E, S, W, L, each word with its epoch bit (R137, R138). -/
  sendQ : List (List (Line × Line × Bool))
  /-- Writes that fall due. -/
  due : List DueWrite
  takes : List TakeSt
  mma : List MmaSt
  /-- The cycles at which the transcendental unit takes each vector (R145). -/
  xq : List Nat
  /-- Line writes and read streams of the present cycle, per operand buffer (R141), and takes per port (R153). -/
  lineWrites : List Nat
  streams : List (Nat × Nat)
  taken : List Nat
  /-- The words of a VST that enter a send queue in the next cycle: the port, and each word with its epoch bit (R137). -/
  placing : List (Nat × List (Line × Line × Bool))
  /-- The token sent in this cycle on the local control lane (R138). -/
  token : Option (Byte × Bool)
deriving DecidableEq, Repr, Inhabited

/-- A ring of an M-cell (R253 to R256, R285). -/
structure RingSt where
  base : Nat
  srows : Nat
  slots : Nat
  isWrite : Bool
  active : Bool
  head : Nat
  tail : Nat
  /-- Slots FULL, or handed to the drainer. -/
  full : Nat
  /-- The slot at TAIL of a WRITE ring has been drained but for units whose writes a seal holds (R300). -/
  held : Bool
  /-- Tiles that the fetcher has fetched, or the drainer has drained, since RING. -/
  done : Nat
  /-- Rows of the slot at TAIL that have been written by elastic writes, or read by elastic reads (R254, R255). -/
  moved : Nat
  /-- Rows of a READ ring's tile that have come from the tier and wait for their elastic writes (R241, R254). -/
  wait : List (List Byte)
  /-- By slot of a READ ring, the lines that hold pad positions (R194, R258). -/
  pads : List (Nat × List Nat)
deriving DecidableEq, Repr, Inhabited

/-- A descriptor run of an address generator on its timeline (R249). -/
structure AgRun where
  word : Word
  desc : List Word
  comp : Option (List Word)
  s0 : Nat
  tile : Nat
  line : Nat
  /-- Lines taken so far for the present tile of a WRITE, oldest first. -/
  got : List Line
  /-- Handles popped for its tiles and not yet used up, oldest first (R266). -/
  handles : List (BitVec 32)
  /-- Stochastic-rounding draws of the generator before the run's first tile (R177, R252). -/
  drawn : Nat
deriving DecidableEq, Repr, Inhabited

/-- An address generator: its time base T, where its program stands, its loop stack, its runs, its stochastic-rounding
generator, and the instructions that take effect at a later cycle, each with that cycle (R249, R252). -/
structure AgSt where
  t : Nat
  pc : Nat
  loops : List (Nat × Nat × Nat × Bool)
  ended : Bool
  runs : List AgRun
  /-- The stochastic-rounding generator as seeded at switch-in, and the draws of the runs taken up so far (R177, R252). -/
  gen : BitVec 32
  drawn : Nat
  later : List (Nat × Word)
deriving DecidableEq, Repr, Inhabited

/-- A handle queue (R265): the handles, the bound producer, and the credits this M-cell holds as a producer. -/
structure HqSt where
  handles : List (BitVec 32)
  prod : Option Nat
  credits : Nat
deriving DecidableEq, Repr, Inhabited

/-- An entry of the row-merge buffer (R243): the row, the bytes merged and not yet written back, and whether a merge has reached it in
the present cycle. -/
structure MergeSt where
  row : Nat
  data : List Byte
  hot : Bool
deriving DecidableEq, Repr, Inhabited

/-- An entry of a generator's send buffer (R259, R263, R266): bytes of one row for a tier address, or a handle push to an
M-cell and queue. -/
inductive SendEnt where
  | row (ag ta mask bits : Nat)
  | push (ag cell q : Nat) (handle : BitVec 32)
deriving DecidableEq, Repr, Inhabited

/-- A whole-row remote write that has been accepted and waits for a row slot, and the arrival counter that it advances then (R241,
R262). -/
structure ElasticWrite where
  row : Nat
  data : List Byte
  cnt : Option Nat
deriving DecidableEq, Repr, Inhabited

/-- A narrow request in the narrow queue (R242, R243): who asked, when it was not another M-cell; the row and byte; the glove; the
operation; of an accepted write the bytes and the counter that it advances. -/
structure NarrowReq where
  who : Option Requester
  row : Nat
  ofs : Nat
  glove : Nat
  op : NarrowOp
  bytes : List (Nat × Byte)
  cnt : Option Nat
  upset : Bool
deriving DecidableEq, Repr, Inhabited

/-- A scheduled row write of a pattern cycle (R245, R252): the cycle, the row, the bits to be written and their mask; whether its
row has been read for it, and whether that read failed its check; and the WRITE ring whose slot is complete with it. -/
structure RowWrite where
  at_ : Nat
  row : Nat
  mask : Nat
  bits : Nat
  lock : Bool
  bad : Bool
  ring : Option Nat
deriving DecidableEq, Repr, Inhabited

/-- The running part of an M-cell. Its rows, counters, windows and programs stand in tables. -/
structure MCellSt where
  ctx : Nat
  rings : List RingSt
  ag : List AgSt
  hq : List HqSt
  merge : List MergeSt
  /-- Input queues of N, E, S, W, L (R71). -/
  inQ : List (List (Line × Line))
  /-- The row slots taken in the present cycle, by bank (R238, R240). -/
  banks : List Nat
  /-- Scheduled writes that fall into later cycles (R245, R252). -/
  later : List RowWrite
  /-- Accepted whole-row remote writes that wait for a row slot, and whose turn it is among ring fill, ring drain and these (R241). -/
  elastic : List ElasticWrite
  turn : Nat
  /-- The narrow requests that wait: the first 16 in the narrow queue, those behind held on the packet plane (R243). -/
  narrow : List NarrowReq
  /-- The send buffers for remote writes, of 8 rows for each generator, and the pushes that follow them (R259, R263, R266). -/
  send : List SendEnt
  /-- What unwritten bytes of the scratchpad read as: 0 for zero (as at reset), n + 1 for the free values from n on, which
  they become when the palm enters a glove (R109). The MODEL's own. -/
  junk : Nat
deriving DecidableEq, Repr, Inhabited

/-- The reservations of LR, one per control core: core, 64 B unit (R246). -/
abbrev Reservation := Nat × Nat

/-- The tables of the array: what every cell, switch and M-cell stores. -/
structure ArrayMem where
  /-- Repair state by 24 * die + row. -/
  repair : SMap RowRepair
  /-- Palms by module palm ID. -/
  palms : SMap PalmSt
  /-- Edges by 4 * die + group (W, E, N, S). -/
  edges : SMap EdgeSt
  /-- Failed thumb spares are told by `repair`; failed cells and switches found since reset, by die, row and physical
  column (R104). -/
  failed : List (Nat × Nat × FailKind × Nat)
  /-- C-cells by 576 * die + 24 * row + col. -/
  cells : SMap CellSt
  /-- Bundles by ((cell * 4 + slot) * 128 + b). -/
  bundles : SMap (BitVec 128)
  /-- Configuration words by ((cell * 4 + slot) * 64 + n). -/
  cws : SMap Word
  /-- Vector registers by 64 * cell + physical register, 64 lanes of 32 bits; none, here and in the three tables that follow, where
  nothing has been written. -/
  vregs : SMap (Option (BitVec 2048))
  /-- Operand-buffer lines by ((cell * 2 + buf) * 512 + line). -/
  obs : SMap (Option Line)
  /-- Accumulator positions by (((cell * 2 + bank) * 64 + r) * 96 + c). -/
  acc : SMap (Option Lane)
  /-- Row-scale latches by 160 * cell + i, A first. -/
  latches : SMap (Option Lane)
  /-- By cell, what its unwritten registers, lines, positions and latches read as: 0 for zero, n + 1 for the free values from n on,
  which they become when the palm enters a glove (R109). The MODEL's own. -/
  junk : SMap Nat
  /-- Switch slots by site * 4 + slot, and route entries by (site * 4 + slot) * 128 + n. -/
  swCfg : SMap SwCfg
  routes : SMap (BitVec 32)
  /-- Steering latches by site * 2 + unit. -/
  steer : SMap SteerSt
  /-- Words under way to the crossbar of each switch, by site. -/
  transit : SMap (List Transit)
  /-- Words under way to each cell's input queues, by site. -/
  arrivals : SMap (List Transit)
  /-- M-cells by g = 288 * die + m (R237). -/
  mcells : SMap MCellSt
  /-- Descriptor programs by 4 * g + slot: the payload's words (R247). -/
  progs : SMap (List Word)
  /-- Scratchpad bytes by g * 2^20 + 512 * row + byte; none where nothing has been written. -/
  scratch : SMap (Option Byte)
  /-- Rows whose stored codes do not match their data, by 2048 * g + row: the KIND of SPD_DLOG plus one (R267, R268). -/
  badRows : SMap Nat
  /-- LR reservations (R246). -/
  resv : List Reservation
deriving DecidableEq, Repr, Inhabited

/-- What the loader keeps of an image's header for one glove and slot (R198, R199). -/
structure ImgInfo where
  ta : Nat
  cls : Nat
  dies : Nat
  palms : BitVec 128
  eSwitch : Nat
  reps : Nat
  cycRep : Nat
  eRep : List Nat
  pPeak : List Nat
deriving DecidableEq, Repr, Inhabited

/-- The running pattern of a glove (R92 to R100, R206). -/
structure PatSt where
  slot : Nat
  valid : Bool
  /-- The next pattern cycle to execute. -/
  cycle : Nat
  /-- The die distance D and the freeze lead L_f = 2 + 8 D. -/
  dist : Nat
  lf : Nat
  /-- The cycle before which the pattern stops, once a freeze, a fault or a rerun has been decided. -/
  stopAt : Option Nat
  /-- The ports that have raised freeze and not released, and those that have released since (R94, R95). -/
  frozen : List PortRef
  released : List PortRef
  /-- Whether any freeze is in force (from the first raise to the resume). -/
  freezing : Bool
  /-- Array cycles still to pass between the last release and the resume (R95, R157). -/
  thaw : Nat
  /-- A schedule fault or cell exception has been decided: the pattern never resumes. -/
  faulted : Bool
  /-- Stopped for a rerun. -/
  stopped : Bool
  done : Bool
  /-- A switch that fell due while frozen (R157). -/
  heldSwitch : Bool
  /-- The window of R442, from switch-in or the last ledger period on: the raw estimate charged for it, in nJ, the raw
  estimates charged on each die until it began, the readings of TKE_MTR at its start, in µJ, and the time it began at, in
  rc. -/
  charged : Nat
  est0 : List Nat
  meter0 : List Nat
  startRc : Nat
deriving DecidableEq, Repr, Inhabited

/-- The states of a slot (R202). -/
inductive SlotState where
  | empty | loading | loaded | armed | active | failed
deriving DecidableEq, Repr, Inhabited

/-- The states of a sequencer (R231). -/
inductive SeqState where
  | idle | running | waiting | halted | faulted
deriving DecidableEq, Repr, Inhabited

/-- What a waiting sequencer waits for (R211, R212). Where `deadline` is set, it is the time (tick, phase) at which the timeout runs
out. -/
inductive WaitFor where
  | done
  | loaded (slot : Nat)
  | tick (t ofs : Nat)
  | arrival (counter : Nat) (value : Nat)
  | switched
  | sealed
  | loadTurn (slot ta : Nat)
  | exchange (target : Nat)
  | sealAccept (req : List Word) (gd : Nat)
  | report (code : Nat) (value : Word)
deriving DecidableEq, Repr, Inhabited

/-- A rerun point (R224). -/
structure RerunPt where
  addr : Nat
  gs : List Word
  ident : Nat
  count : Nat
deriving DecidableEq, Repr, Inhabited

/-- An armed switch (R211, R216). -/
structure ArmSt where
  slot : Nat
  tick : Nat
  ofs : Nat
  /-- The state the slot returns to when the switch is not taken: LOADING or LOADED. -/
  was : SlotState
deriving DecidableEq, Repr, Inhabited

/-- A requested switch that has not been taken: its slot, whether the dispatcher has held it, whether it was armed
(R215, R216). -/
structure SwReq where
  slot : Nat
  deferred : Bool
  admitted : Bool
  fromArm : Bool
  /-- Arrival order among the requests that wait at the dispatcher (R443). -/
  order : Nat
  /-- The raw estimate charged at admission, in nJ (R441). -/
  raw : Nat
deriving DecidableEq, Repr, Inhabited

/-- A record of a report queue (R211): CODE, value and tick. -/
structure ReportRec where
  code : Nat
  value : Word
  tick : Nat
deriving DecidableEq, Repr, Inhabited

/-- A glove sequencer (R208). Its program store and marks stand in tables. -/
structure GsqSt where
  glove : Option Nat
  /-- GSQ_STAT.GLOVE names the glove: from creation or a start until a glove reset (R230, R231). -/
  named : Bool
  state : SeqState
  /-- CAUSE of GSQ_STAT (R231). -/
  cause : Nat
  pc : Nat
  st : Nat
  /-- G0 to G15; G0 reads as 0 whatever stands here. -/
  g : List Word
  slots : List SlotState
  /-- The status of the last load of each slot (R203). -/
  loadSt : List Nat
  waitFor : Option WaitFor
  deadline : Option (Nat × Nat)
  /-- A load in progress: slot, header address (R203). -/
  load : Option (Nat × Nat)
  arm : Option ArmSt
  sw : Option SwReq
  /-- The status that WAIT SWITCHED returns (R212, R216). -/
  swStatus : Nat
  rerun : RerunPt
  /-- Seals issued and not completed, by request identity, and the first failure since the last WAIT SEALED (R212). -/
  seals : List Nat
  sealFail : Option Nat
  /-- The report queue, oldest first, at most 64 (R211). -/
  reports : List ReportRec
deriving DecidableEq, Repr, Inhabited

/-- The sequencers and patterns. -/
structure SeqBlk where
  /-- GSQ0 to GSQ63. -/
  gsq : SMap GsqSt
  /-- Program store and written marks by 2048 * q + address (R208). -/
  store : SMap Word
  marks : SMap Bool
  /-- Image headers by 4 * glove + slot. -/
  imgs : SMap ImgInfo
  /-- Running patterns by glove. -/
  pats : SMap PatSt
  /-- The order counter of the dispatcher's requests (R443). -/
  order : Nat
deriving DecidableEq, Repr, Inhabited

/-- The modes of a TMAP entry (R290). -/
inductive FMode where
  | absent | free | priv | shared | system
deriving DecidableEq, Repr, Inhabited

/-- A TMAP entry (R290). -/
structure FrameSt where
  stack : Nat
  pframe : Nat
  glove : Nat
  key : Nat
  mode : FMode
  hold : Bool
  poison : Bool
  readers : BitVec 64
deriving DecidableEq, Repr, Inhabited

/-- Under which key and at which logical position a data unit was encrypted (R293). -/
structure UnitTag where
  kid : Nat
  pos : Nat
deriving DecidableEq, Repr, Inhabited

/-- An HBM4 stack and its controller (R295, R317, R320). -/
structure StackSt where
  trained : Bool
  retired : Bool
  /-- 0 active, 1 self-refresh, 2 off. -/
  power : Nat
  temp : Nat
  refresh2x : Bool
  /-- The poison list: (logical frame, unit), at most 64 (R296). -/
  poisonList : List (Nat × Nat)
  /-- Failed training attempts (R572). -/
  tries : Nat
  /-- Corrected reads in the present window of R587. -/
  ceWin : Nat
deriving DecidableEq, Repr, Inhabited

/-- ABSENT, ACTIVE, DRAINING, FENCED (R315). -/
inductive PortState where
  | absent | active | draining | fenced
deriving DecidableEq, Repr, Inhabited

/-- A DDR5 channel (R324). -/
structure DdrSt where
  st : PortState
  mrdimm : Bool
  x4 : Bool
  speed : Nat
  capGB : Nat
  mismatch : Bool
  temp : Nat
  ceWin : Nat
  /-- The return command in progress (R316). -/
  returnCmd : Option HostCmd
deriving DecidableEq, Repr, Inhabited

/-- A deep port (R324). -/
structure DppSt where
  st : PortState
  gen : Nat
  width : Nat
  nvmeReady : Bool
  capB : Nat
  errWin : Nat
  returnCmd : Option HostCmd
deriving DecidableEq, Repr, Inhabited

/-- The states of an extent (R299). -/
inductive ExtState where
  | free | writing | sealed | moving | lost
deriving DecidableEq, Repr, Inhabited

/-- An entry of the extent table (R299, R306). -/
structure ExtentSt where
  st : ExtState
  inc : Nat
  deep : Bool
  len : Nat
  key : Nat
  glove : Nat
  system : Bool
  /-- Key identity under which its units are encrypted (R293). -/
  kid : Nat
  expiry : Option Nat
  /-- When its expiry was armed, among the events armed (R44). The MODEL's own order. -/
  stamp : Nat
  durable : Bool
  /-- The key tag recorded for a durable extent (R306, R537). -/
  ktag : BitVec 128
  /-- Its chunks in order: (channel or port, chunk number there). -/
  chunks : List (Nat × Nat)
  /-- Chunks being written by a MOVE or relocation, not yet the extent's (R315). -/
  newChunks : List (Nat × Nat)
  /-- Freed while it was WRITING or MOVING, or while copies run (R301). -/
  dying : Bool
  /-- Copies up in flight. -/
  copies : Nat
deriving DecidableEq, Repr, Inhabited

/-- Who submitted a migration request (R302). -/
inductive MigFrom where
  | gsq (q : Nat) (gd : Nat)
  | host (c : HostCmd) (opcode : Nat)
  | steward (seq : Nat) (piece : Nat)
  | residency (model extent : Nat)
  | lz2 (page : Nat)
  | relocation (slot chunk : Nat)
  | firmware
deriving DecidableEq, Repr, Inhabited

/-- A migration request in the queue or under way (R302, R304). -/
structure MigReq where
  ident : Nat
  op : Nat
  prio : Nat
  dest : Nat
  durable : Bool
  glove : Nat
  key : Nat
  system : Bool
  slot : Nat
  nta : Nat
  len : Nat
  done : Option Nat
  arg : Nat
  gate : Option (Nat × Nat)
  from_ : MigFrom
  moving : Bool
  /-- The source range as it stood at acceptance, for a SEAL (R219). -/
  image : List Byte
  /-- The units, as (frame, unit), that a SEAL has read ahead for a write that waited (R300). -/
  ahead : List (Nat × Nat)
  /-- A COPYUP whose units have all been presented to their controllers (R300, R305). -/
  placed : Bool
deriving DecidableEq, Repr, Inhabited

/-- A page of the LZ2 unified view (R313): the frame address it lies at when resident, whether written since, its
extent, and the order of last use. -/
structure Lz2Page where
  at_ : Option Nat
  dirty : Bool
  extent : Option (BitVec 32)
  used : Nat
deriving DecidableEq, Repr, Inhabited

/-- A near-tier write that a seal holds (R300): its unit, the bits it writes and their values, and whether it drains a WRITE ring. -/
structure HeldWrite where
  frame : Nat
  unit : Nat
  mask : Nat
  bits : Nat
  drain : Bool
deriving DecidableEq, Repr, Inhabited

/-- A relocation in progress (R304, R315): the tier, the extent's slot, the chunk that it moves and the chunk that it writes, and whether
it moves data or is paused. -/
structure Reloc where
  deep : Bool
  slot : Nat
  old : Nat × Nat
  dst : Nat × Nat
  moving : Bool
deriving DecidableEq, Repr, Inhabited

/-- The memory tiers, the extent table, the migration engine and the LZ2 view. -/
structure MemBlk where
  /-- The TMAP by logical frame. -/
  tmap : SMap FrameSt
  /-- Near-tier bytes by physical address: (2048 * stack + physical frame) * 2^25 + byte. -/
  near : SMap Byte
  /-- Encryption of each near 64 B unit, by physical unit. -/
  nearTag : SMap UnitTag
  /-- Wide-tier bytes by (channel * 2^21 + chunk) * 2^18 + byte; deep-tier bytes by (port * 2^32 + chunk) * 2^21 + byte. -/
  wide : SMap Byte
  deep : SMap Byte
  hbmStacks : SMap StackSt
  ddr : SMap DdrSt
  dpp : SMap DppSt
  /-- The extent table by slot. -/
  extents : SMap ExtentSt
  /-- Freed slots in the order in which they were freed, least recent first, and the first slot never issued (R37). -/
  extFreed : List Nat
  extNext : Nat
  /-- Requests with an entry of the queue, and those that wait for one, in order of arrival (R303). -/
  queue : List MigReq
  waiting : List MigReq
  nextReq : Nat
  /-- The catalogue of durable extents on the SSDs, by handle (R306). -/
  catalogue : List (Nat × ExtentSt)
  catalogueOk : Bool
  /-- System frames taken by the migration engine, as counted by MIG_SYSFR (R297). -/
  sysFrames : Nat
  /-- SYSTEM frames on a single copy, and pairs of copies (R297, R317). -/
  pairs : List (Nat × Nat)
  single : List Nat
  /-- Frames whose retirement waits for a FREE frame (R318). -/
  retireWait : List Nat
  /-- Writes that wait for a seal to read their unit (R300). -/
  heldWrites : List HeldWrite
  /-- Relocations in progress, at most one of each tier (R304, R315). -/
  relocs : List Reloc
  lz2Glove : Option Nat
  lz2Size : Nat
  lz2Frames : List Nat
  lz2Pages : SMap Lz2Page
  lz2Clock : Nat
  /-- Accesses to LZ2 pages that wait for a page or for space (R314). -/
  lz2Wait : List Nat
  /-- Pages on their way in, each with the slot reserved for it; pages being sealed out, each with its slot and the page that waits for
  that slot (R314). -/
  lz2Fills : List (Nat × Nat)
  lz2Seals : List (Nat × Nat × Nat)
deriving DecidableEq, Repr, Inhabited

/-- A glove (R425 to R434). Its state of R430 follows from these fields and its sequencer. -/
structure GloveSt where
  live : Bool
  /-- Destroyed, with frames still to be freed (R429), and the command that completes then. -/
  draining : Bool
  destroyCmd : Option HostCmd
  /-- FAULTED: the cause code, and the tick at whose boundary the reset begins (R431). -/
  faulted : Option (Nat × Nat)
  resetting : Bool
  /-- Stays FAULTED until destroyed: no palm, or no sequencer (R434). -/
  stuck : Bool
  /-- GLV_STAT.CAUSE: the last reset (R457). -/
  cause : Nat
  palms : BitVec 128
  gsq : Nat
  key : Nat
  vf : Nat
  /-- Balance in µJ (R440), and the grant of the last period in µJ. -/
  bal : Int
  grant : Nat
  /-- Calibration factors of slots 0 to 3, with 12 fraction bits (R442). -/
  cf : List Nat
  /-- The commands that wait for the glove's reset to end (GLOVE_RESET). -/
  resetCmds : List HostCmd
  /-- Whether a switch was held since the last step build (R444). -/
  heldSwitch : Bool
deriving DecidableEq, Repr, Inhabited

/-- The energy ledger (R439 to R445). -/
structure LedgerSt where
  /-- Grants that have arrived, by tick, in mJ. -/
  grants : List (Nat × Nat)
  /-- The last grant and the tick it was for. -/
  last : Option (Nat × Nat)
  /-- The grant in force, in mJ. -/
  inForce : Nat
  /-- A and B of the last period, in mJ. -/
  a : Nat
  b : Nat
  /-- Raw estimates charged so far on CD0 to CD7, in nJ (R442). -/
  est : List Nat
  /-- The tick of the last ledger period that fired. -/
  lastTick : Option Nat
  /-- A write of LOFS in a tick: that tick, and the LOFS still in force in it (R453). -/
  lofsOld : Option (Nat × Nat)
deriving DecidableEq, Repr, Inhabited

/-- The power ladder (R446 to R451). -/
structure RungSt where
  rung : Nat
  auto : Bool
  /-- A pending or entering change: rung, tick, offset, and the tick at which the wait began once it has. -/
  pend : Option (Nat × Nat × Nat)
  entering : Option Nat
  /-- The set-rung command that completes on entry or abandonment. -/
  cmd : Option HostCmd
  lastWake : Nat
  /-- A wake event that arrived during entry (R451). -/
  wake : Option WakeSrc
  /-- What S3 saved to system frames, and what S4 keeps on VAON, are the same blocks of `State`. -/
  saved : Bool
deriving DecidableEq, Repr, Inhabited

/-- A key slot (R536, R537): whether installed, the identity of its key (equal keys, equal identities), its tag, and
whether owners' signatures are required. -/
structure KeySt where
  installed : Bool
  /-- The secret K, 32 bytes. -/
  k : List Byte
  kid : Nat
  tag : BitVec 128
  reqSig : Bool
  pub : List Byte
deriving DecidableEq, Repr, Inhabited

/-- The module states (R574, R577). -/
inductive MState where
  | off | reset | bringup | early | service | degraded | draining | fault
deriving DecidableEq, Repr, Inhabited

/-! Exchange (R326 to R348). -/

/-- A destination entry of a plan (R330). -/
structure DestEnt where
  part : Nat
  die : Nat
  cell0 : Nat
  ncell : Nat
  cstep : Nat
  win : Nat
  hwin : Nat
  slice : Nat
  wcap : Nat
  pad : Nat
deriving DecidableEq, Repr, Inhabited

/-- A slot entry of a plan (R331): KIND 0 SEND, 1 RECV, 2 FWD. -/
structure SlotEnt where
  link : Nat
  outlink : Nat
  kind : Nat
  src : Nat
  dst : Nat
  start : Nat
  len : Nat
deriving DecidableEq, Repr, Inhabited

/-- Where a plan stands: no phase; a round named by an EXCH and not yet open; the count stage; the data and close
stages; rounds pending with no continuation issued (R334, R341). -/
inductive XStage where
  | idle | named | count | data | pending
deriving DecidableEq, Repr, Inhabited

/-- An exchange plan of this module (R329) and its phase. -/
structure PlanSt where
  valid : Bool
  glove : Nat
  self : Nat
  npart : Nat
  genchk : Bool
  stamp : Bool
  rlen : Nat
  clen : Nat
  dlen : Nat
  xlen : Nat
  rstride : Nat
  eround : Nat
  sbase : Nat
  slen : Nat
  tag : Word
  parts : List (Nat × Nat)
  dests : List DestEnt
  slots : List SlotEnt
  /-- Records entered in the staging range, by record number, holding DEST + 1 (R327). -/
  entered : SMap Nat
  /-- A header named a destination outside the plan (R327). -/
  badDest : Bool
  stage : XStage
  /-- When the phase was named, among the events armed (R44). The MODEL's own order. -/
  namedAt : Nat
  t0 : Nat
  ofs0 : Nat
  round : Nat
  /-- R of R337, once the count rows have been judged. -/
  rounds : Nat
  rows : List CountRow
  /-- The failure with the lowest code so far, and the lowest participant that reported it (R340, R352). -/
  fail : Option (Nat × Nat)
  /-- The staging range sorted by destination: (destination, record bytes) in send order (R336). -/
  send : List (Nat × List Byte)
  /-- Records accepted this round, by destination (R343). -/
  accepted : List Nat
  /-- Records that arrived this round for the destinations of this participant (R343, R347). -/
  arrived : Nat
deriving DecidableEq, Repr, Inhabited

/-! Sequences and steps (R353 to R411). -/

/-- The states of a SEQT entry (R354). -/
inductive QState where
  | free | admitted | prefill | decode | pausedNear | pausedWide | pausedDeep | complete | cancelled | expired
deriving DecidableEq, Repr, Inhabited

/-- A page of a sequence's directory: page group, block, near-tier offset, and whether the prefix tree holds it
(R372, R373, R400). -/
structure PageRef where
  group : Nat
  block : Nat
  page : Nat
  tree : Bool
deriving DecidableEq, Repr, Inhabited

/-- Work of the migration engine for one sequence. `kind`: 0 seal, 1 move, 2 resume. `left` holds the request
identities not yet completed, `toAccept` the pieces not yet accepted, `dest` the state it leads to (R408 to R410). -/
structure SeqJob where
  kind : Nat
  dest : QState
  auto : Bool
  toAccept : Nat
  left : List Nat
  failed : Bool
deriving DecidableEq, Repr, Inhabited

/-- A SEQT entry (R354) with its side record (R398) and what the steward keeps for it. -/
structure SeqEnt where
  st : QState
  rfrom : QState
  resuming : Bool
  canreq : Bool
  pausereq : Bool
  glove : Nat
  key : Nat
  model : Nat
  adapter : Nat
  adp : Bool
  spec : Bool
  instep : Bool
  auto : Bool
  clen : Nat
  dlen : Nat
  plen : Nat
  inc : Nat
  kvd : Nat
  pnode : Nat
  gstate : Nat
  spp : Nat
  expiry : Nat
  /-- When its expiry was armed, among the events armed (R44). The MODEL's own order. -/
  stamp : Nat
  gen : Nat
  outn : Nat
  outmax : Nat
  ita : Nat
  cring : Nat
  ttln : Nat
  ttlw : Nat
  ttld : Nat
  refnode : Nat
  chain : BitVec 128
  /-- Tokens of the block in progress. -/
  toks : List Nat
  handles : List (BitVec 32)
  pages : List PageRef
  /-- The run of NOPAGE sit-outs (R364). -/
  run : Nat
  cancelCmds : List HostCmd
  pauseCmds : List HostCmd
  job : Option SeqJob
  /-- A seal or move to be tried again, or a resume that lacks pages (R409, R410). -/
  retry : Option QState
  /-- Whether an AUTO pause waits to be tried again. -/
  retryAuto : Bool
  /-- The tick boundary at which it is tried again (R409, R410). -/
  retryAt : Nat
deriving DecidableEq, Repr, Inhabited

/-- A row of a running step (R363) and what the sampler found for it (R389 to R391): tokens in order, accepted drafts,
the grammar state after each token, the drafts produced, whether a token ends the turn, and a row failure's status. -/
structure RowSt where
  seq : Nat
  prefill : Bool
  sample : Bool
  pos : Nat
  ntok : Nat
  dlen : Nat
  toks : List Nat
  gnext : Nat
  drafts : List Nat
  ends : Bool
  fail : Option Nat
deriving DecidableEq, Repr, Inhabited

/-- What the steward keeps for a serving glove (R362 to R371, R418, R444). `phase`: 0 no step, 1 sections run, 2 the
sampler runs, 3 sampled, with the commit tick set. -/
structure ServeSt where
  step : Nat
  started : Bool
  phase : Nat
  gen : Nat
  rows : List RowSt
  /-- Rows of the running or last step (R385). -/
  nrows : Nat
  ntok : Nat
  commit : Nat
  abandoned : Bool
  batch : List Nat
  queue : List Nat
  autoBack : List Nat
  cap : Nat
  cuff : Bool
  /-- Raises of the batch generation deferred to the next step (R37). -/
  genDefer : Nat
  /-- The token deliveries of the last commit, for a takeover (R381): ring, words. -/
  last : List (Nat × List Word)
deriving DecidableEq, Repr, Inhabited

/-- A node of a prefix tree (R400). Children are the nodes that name it as parent. -/
structure NodeSt where
  live : Bool
  pub : Bool
  key : Nat
  glove : Nat
  model : Nat
  stale : Bool
  adp : Nat
  digest : BitVec 128
  parent : Nat
  block : Nat
  pages : List Nat
  refs : Nat
  last : Nat
deriving DecidableEq, Repr, Inhabited

/-- The states of a model (R412). -/
inductive MdlState where
  | absent | parked | loading | resident | replacing
deriving DecidableEq, Repr, Inhabited

/-- An entry of a model's extent table (R413). -/
structure MdlExt where
  nta : Nat
  len : Nat
  wide : Option (BitVec 32)
  deep : Option (BitVec 32)
deriving DecidableEq, Repr, Inhabited

/-- A switch-in under way (R415): peers by rack position, the extent being fetched, its source (0 to the number of
peers - 1 a peer, then the wide tier, then the deep tier), the 4 KiB units received as a set of bits, the counter, the frames and the
command. -/
structure SwinSt where
  peers : List Nat
  lostPeers : List Nat
  ext : Nat
  src : Nat
  units : Nat
  counter : Nat
  frame : Nat
  nframes : Nat
  gloves : BitVec 64
  cmd : HostCmd
deriving DecidableEq, Repr, Inhabited

/-- A replacement under way (R417 to R419). -/
structure ReplSt where
  inPlace : Bool
  tr : Nat
  exts : List MdlExt
  progs : Nat
  /-- The request of each extent being copied, by identity. -/
  idents : List (Nat × Nat)
  /-- Extents of the new copy not yet in. -/
  left : List Nat
  copied : Bool
  /-- The tick from which a finished copy may release. -/
  ready : Nat
  /-- When its release was armed, among the events armed (R44). The MODEL's own order. -/
  stamp : Nat
  /-- Gloves whose cuff has closed, or that have switched. -/
  closed : List Nat
  frames : List Nat
  cmd : Option HostCmd
deriving DecidableEq, Repr, Inhabited

/-- A model record (R412). -/
structure MdlSt where
  st : MdlState
  version : Nat
  g : Nat
  logbf16 : Bool
  dsrc : Nat
  ctxmax : Nat
  vocab : Nat
  draft : Nat
  kvl : Word
  gloves : BitVec 64
  key : Nat
  exts : List MdlExt
  swin : Option SwinSt
  repl : Option ReplSt
  /-- Whether a switch-in has not reached its first step yet (R416, R421). -/
  fresh : Bool
deriving DecidableEq, Repr, Inhabited

/-- An adapter record (R414): STATE 0 FREE, 1 LOADING, 2 RESIDENT; while a load has not been accepted, `was` is the state
before it. -/
structure AdpSt where
  st : Nat
  model : Nat
  rank : Nat
  key : Nat
  glove : Nat
  version : Nat
  nta : Nat
  len : Nat
  refs : Nat
  handle : Option (BitVec 32)
  cmd : Option HostCmd
  was : Nat
deriving DecidableEq, Repr, Inhabited

/-- The steward and what it serves. -/
structure StewardBlk where
  /-- STW_STAT.SERVING: 0 IOD0, 1 IOD2. -/
  serving : Nat
  standbyReady : Bool
  /-- Heartbeats sent since the standby last took over, and when the last left, in REFCLK cycles (R380). -/
  beats : Nat
  sentBeat : Nat
  running : Bool
  seqt : SMap SeqEnt
  seqFreed : List Nat
  seqNext : Nat
  serve : SMap ServeSt
  /-- Free pages by glove, in order of use (R374). -/
  pages : SMap (List Nat)
  nodes : SMap NodeSt
  /-- Root nodes by key slot; the public root is at 256. -/
  roots : SMap Nat
  /-- The nodes in the pool, and the pairs of SYSTEM frames that hold it (R400, R569). -/
  pool : Nat
  poolPairs : Nat
  models : SMap MdlSt
  /-- Pairs of SYSTEM frames that hold the model index and records (R412). -/
  mdlPairs : Nat
  adapters : SMap AdpSt
  plans : SMap PlanSt
  swapCmd : Option HostCmd
  /-- Serving gloves whose next commit a planned swap still waits for (R380). -/
  swapLeft : List Nat
deriving DecidableEq, Repr, Inhabited

/-! Links, packets, rack and manager (R460 to R499). -/

/-- The states of a link (R465). -/
inductive LnkState where
  | down | training | up2 | up1 | fenced
deriving DecidableEq, Repr, Inhabited

/-- A link (R461 to R470). -/
structure LinkSt where
  st : LnkState
  lane : Nat
  /-- The link has been UP since it was last DOWN. -/
  wasUp : Bool
  peer : Nat
  peerLink : Nat
  delay : Nat
  /-- Next SEQ expected, consecutive failed flits, and whether a NAK is to be sent. -/
  rxSeq : Nat
  rxFails : Nat
  nak : Bool
  rxAny : Bool
  /-- Next SEQ to send, and the flits not yet acknowledged, oldest first. -/
  txSeq : Nat
  unacked : List Flit
  /-- How many of the unacknowledged flits, from the oldest on, are still to be sent again. -/
  resend : Nat
  replays : Nat
  /-- Flits waiting to be sent, by VC and hop class: (vc, hop, body). -/
  txq : List (Nat × Nat × List Byte)
  /-- Sent counts and last freed counts received, and freed counts of this receiver, by 6 * vc + hop, modulo 2^16. -/
  sent : List Nat
  freedIn : List Nat
  freedOut : List Nat
  /-- Packets being put together, by VC: header bytes and payload so far. -/
  asm : List (Nat × List Byte)
  /-- Flit times since the last LCTL, and since the start of a slot's group of 25. -/
  sinceLctl : Nat
  slotTime : Nat
  bulkTurn : Bool
deriving DecidableEq, Repr, Inhabited

/-- A worker as the rack master knows it (R486, R499): STATE 0 ABSENT, 1 JOINING, 2 LIVE, 3 LOST, 4 REFUSED. -/
structure WrkSt where
  st : Nat
  node : Nat
  missed : Nat
  lastTick : Nat
  rep : Report
  demand : Option Nat
  envJ : Nat
  grant : Nat
deriving DecidableEq, Repr, Inhabited

/-- An admission being routed (R485): the command, the candidates left, and the one tried. -/
structure RouteSt where
  cmd : HostCmd
  left : List Word
  cur : Option Word
deriving DecidableEq, Repr, Inhabited

/-- Links, routing, rack and manager. The routing table itself stands in the registers RTE. -/
structure NetBlk where
  links : SMap LinkSt
  /-- Packets received whole for this node, and packets for another node that wait to be forwarded. -/
  inbox : List Packet
  fwd : List Packet
  /-- MGR_STAT.ROLE: 0 worker, 1 rack master, 2 standby, 3 yielded. -/
  role : Nat
  standbyReady : Bool
  conflict : Bool
  /-- NOD_ID.STATUS, RACK and POS (R497). -/
  idStatus : Nat
  rack : Nat
  pos : Nat
  lockTick : Nat
  workers : SMap WrkSt
  router : SMap (List Word)
  routing : List RouteSt
  /-- Commands relayed and not completed: node, operation, command (R484). -/
  relayed : List (Nat × Nat × HostCmd)
  /-- The tick of the last grant computation. -/
  grantTick : Option Nat
  /-- When this module's last heartbeat as a module (R486) and as rack master (R488) left, in REFCLK cycles, and the tick of its last
  report (R486). -/
  sentBeat : Nat
  sentMgr : Nat
  rptTick : Nat
deriving DecidableEq, Repr, Inhabited

/-! The host endpoint (R500 to R524) and the sideband. -/

/-- A command ring (R505 to R508): RCV and the commands received and not yet applied, with their OP. -/
structure CmdRing where
  rcv : Nat
  queue : List (Nat × HostCmd)
deriving DecidableEq, Repr, Inhabited

/-- A completion ring (R510 to R513): TAIL, PH, the backlog, U and the tick of the first unsignalled entry. -/
structure CplRing where
  tail : Nat
  ph : Bool
  backlog : List (List Word)
  unsig : Nat
  firstTick : Nat
deriving DecidableEq, Repr, Inhabited

/-- The host endpoint, and the sideband target. -/
structure HostBlk where
  gen : Nat
  width : Nat
  perst : Bool
  /-- Functions in D3hot: 0 the PF, 1 to 64 the VFs. -/
  d3 : List Nat
  numVf : Nat
  rings : SMap CmdRing
  /-- Ring memory by 32768 * ring + 8 * slot + word. -/
  ringMem : SMap Word
  cqs : SMap CplRing
  /-- MSI-X tables of the VFs by 16 * vf + word, pending bits by function, BASE of VF_WIN by VF. -/
  vfMsix : SMap Word
  pba : SMap Word
  vfBase : SMap Nat
  eid : Nat
  smbAddr : Nat
  /-- Telemetry records as last refreshed, by record ID (R520). -/
  records : SMap (List Byte)
  /-- Module energy counter of record 0x00, in J, and power over the last 1 ms, in W. -/
  energyJ : Nat
  powerW : Nat
  /-- The rail meters as they stood at the last refresh, in µJ: HBM, IOD, OTH and VCORE0 to VCORE7. The MODEL's own. -/
  mtrLast : List Nat
deriving DecidableEq, Repr, Inhabited

/-! The AOS: reset, OTP, clocks, bring-up, firmware, identity (R525 to R582, R594 to R603). -/

/-- An OTP generation area (R557, R560): whether used, whether valid, its trims, and its profile and repair words; a word past
the end of a list reads as 0. -/
structure OtpArea where
  used : Bool
  valid : Bool
  /-- LEN: the offset of the valid marker (R557). -/
  len : Nat
  trim : List Byte
  profiles : List Word
  repair : List Word
deriving DecidableEq, Repr, Inhabited

/-- A firmware image in a bank (R530, R570): its SVN, its bytes, and whether its fields, digest and signature are right
(R531). -/
structure FwImg where
  svn : Nat
  bytes : List Byte
  sound : Bool
deriving DecidableEq, Repr, Inhabited

/-- The banks of one stage. -/
structure FwBanks where
  current : Option FwImg
  previous : Option FwImg
  staged : Option FwImg
deriving DecidableEq, Repr, Inhabited

/-- The AOS block. -/
structure AosBlk where
  /-- Internal reset asserted; the causes met; whether any was cold. -/
  asserted : Bool
  cold : Bool
  /-- Reference cycles of the stretch counted since the latest accepted cause, with REFCLK judged present in 16 windows (R552, R563). -/
  causeAge : Nat
  /-- The latest cause was accepted in the present reference cycle (R554); and whether the recorded cause is a cold one. -/
  causeNew : Bool
  causeCold : Bool
  /-- RESET_N driven low by the AOS, and released and waiting for its sample. -/
  driven : Bool
  sampling : Bool
  tripped : Bool
  railBad : List Nat
  /-- Consecutive detector windows with REFCLK present (R563). -/
  windows : Nat
  /-- Reference cycles since the last cold reset (R587). -/
  sinceCold : Nat
  /-- Bring-up stage reached, 0 before bring-up (R571); which AOS leads it. -/
  stage : Nat
  lead : Nat
  /-- Exit from S4 in progress (R575), and the state to return to. -/
  fromS4 : Option MState
  /-- Loading of an OTP generation in progress (R559). -/
  otpLoading : Bool
  otp : List OtpArea
  gen : Nat
  /-- The generation that AOS_PROFp shows, and the one that the record of the profile in force came from (R597). -/
  profArea : Nat
  forceArea : Nat
  /-- Profile in force, the pins, and a pending change: profile, and its tick when not at reset. -/
  profile : Nat
  pins : Nat
  pend : Option (Nat × Option Nat)
  /-- Pairs of system frames reserved for the larger pool of a pending change (R568). -/
  poolHold : Nat
  rbc : List Nat
  /-- The firmware stores: the banks of each stage, at the stage for IOD0 and at 16 + the stage for IOD1. -/
  banks : SMap FwBanks
  /-- The image that runs at each stage. -/
  running : SMap FwImg
  /-- An activation or burn in progress: stage, parts still to restart, part waited for. -/
  act : Option (Nat × List Nat × Nat)
  /-- An OTP burn in progress: the area, and what it burns. -/
  burn : Option (Nat × OtpArea)
  /-- PLLs judged stable, PLLs whose last window alone was good, failed windows at bring-up, and PLLs out of service (R562). -/
  pllGood : List PllPart
  pllOnce : List PllPart
  relocks : List PllPart
  pllBad : List PllPart
  /-- Rails are watched (R615). -/
  watched : Bool
  /-- IOD1's AOS has reported ready. -/
  aos1Ready : Bool
  /-- I/O dies fenced (R591). -/
  iodFenced : List Nat
  faultCause : Nat
  /-- M-cells with a RERUN_LIMIT in the present window of R587 (R586), and the number of that window. -/
  rerunLimits : List Nat
  window : Nat
  wideTrained : Bool
  /-- Dies whose AVSBus pins have been configured since the last reset, by a first command (R555, R612, R624). -/
  avsUp : List Nat
  /-- Compute dies whose self-test has passed. -/
  selfTested : List Nat
  /-- SEC_STAT (R549). -/
  bootStage : Nat
  bootFail : Bool
  trngOk : Bool
  abusy : Bool
  aready : Bool
  /-- The private key m drawn for the current report, while it is held unused (R536). -/
  xkey : Option (BitVec 448)
  /-- MPUB of the current report, or 0 (R535). -/
  repMpub : List Byte
  /-- The nonce, APUB and POLICY of the current report, as bytes (R534, R537). -/
  repNonce : List Byte
  repApub : List Byte
  repPolicy : Nat
  report : List Byte
deriving DecidableEq, Repr, Inhabited

/-- What the module puts out at its pins and links, newest first. The MODEL's own record, not a state of the spec. -/
inductive Output where
  /-- A beacon on the tick virtual channel (R53). -/
  | beacon (b : Beacon)
  /-- A load of tick, phase, N and pending change, to be taken at the named REFCLK edge, for one follower or for all, with the
  link delay it is corrected for and the sender's state (R48, R57). -/
  | tickLoad (node : Option Nat) (edge tick phase n : Nat) (pend : Option (Nat × Nat)) (delay state : Nat)
  /-- A correction of the phase count by cycles inserted or removed, passed to the followers (R54). -/
  | tickCorrection (cycles : Int)
  /-- A change of N that the crown accepted, on the tick virtual channel (R41). -/
  | periodChange (n tick : Nat)
  /-- An AVSBus command to a VCORE regulator: die, set-point in mV (R612). -/
  | avs (die mv : Nat)
  /-- A pin driven to a level. -/
  | pin (name : String) (high : Bool)
  /-- An entry written to a completion ring in host memory (R510): ring, host address, four words. -/
  | cpl (cq : Nat) (addr : Nat) (words : List Word)
  /-- An MSI-X message (R513): function, vector. -/
  | msix (func vec : Nat)
  /-- The answer to a read or claim: data, and whether it is poisoned; none for Completer Abort or an access fault. -/
  | readData (data : Option (List Byte)) (poisoned : Bool)
  /-- The result of a register read. -/
  | regData (w : Word)
  /-- The response to a sideband request (R519, R599). -/
  | smbus (bytes : List Byte)
  /-- A flit sent on a link. -/
  | flit (link : Nat) (f : Flit)
  /-- Count rows, records and statuses of an exchange (R335, R339, R340): plan, receiving participant. -/
  | xRow (plan dst : Nat) (row : CountRow)
  | xRecord (plan dst link : Nat) (rec : List Byte)
  | xStatus (plan : Nat) (status : Nat)
  /-- A fetch to a peer (R480), and the data of a fetch: encrypted units, or a refusal. -/
  | fetch (peer : Nat) (f : FetchMsg)
  | fetchData (dst : Nat) (tag : BitVec 32) (status : Nat) (units : List (List Byte))
  /-- Demands and grants (R483): node, tick, mJ, envelope or epoch. -/
  | demand (tick mj envJ : Nat)
  | grant (node tick mj : Nat) (epoch : Word)
  /-- A command relayed to a worker, and its completion (R484). -/
  | relay (node op : Nat) (epoch : Word) (c : HostCmd)
  | relayCpl (c : RelayedCpl)
  /-- Heartbeats: module to master, master to standby, steward to standby (R380, R486, R488). -/
  | heartbeat (kind : Nat)
  /-- A worker's report (R486), and an AOS report (R602): the link it leaves by, and its words. -/
  | report (r : Report)
  | aosReport (link : Nat) (words : List Word)
  /-- Node IDs given out or withdrawn, and an epoch announced (R477, R479, R488). -/
  | assign (pos node : Nat)
  /-- A module at a service link gets no ID: 2 ID_EXHAUSTED, 4 WIRING_MISMATCH (R477). -/
  | noId (link status : Nat)
  | withdraw (rack : Nat)
  | epoch (e : Word)
deriving DecidableEq, Repr, Inhabited

/-- Why the machine stops with a fault. -/
inductive Fault where
  /-- Raised by the register writes: the address lies beyond the 64 MiB of BAR0 (R496, R522). Safe: nothing is claimed of it. -/
  | outsideBar0
deriving DecidableEq, Repr, Inhabited

/-- Why the machine refuses a command. -/
inductive Refusal where
  /-- Answered by an arm whose command has no meaning yet. Safe. -/
  | notModelled (mnemonic : String)
deriving DecidableEq, Repr, Inhabited

/-- The whole module. -/
structure State where
  /-- The tick block. -/
  tick : TickSt
  /-- The part fitted (R1 to R3). -/
  variant : Variant
  /-- The module's state (R577). -/
  mstate : MState
  /-- Compute dies by index. -/
  dies : SMap DieSt
  /-- The cell array. -/
  arr : ArrayMem
  /-- The sequencers and patterns. -/
  seq : SeqBlk
  /-- The memory tiers and the migration engine. -/
  mem : MemBlk
  /-- The gloves by glove ID. -/
  glv : SMap GloveSt
  /-- The energy ledger. -/
  ledger : LedgerSt
  /-- The power ladder. -/
  rung : RungSt
  /-- The owner key slots. -/
  keys : SMap KeySt
  /-- The steward: sequences, steps, prefixes, models, adapters, plans. -/
  stw : StewardBlk
  /-- Links, routing, rack and manager. -/
  net : NetBlk
  /-- The host endpoint and the sideband. -/
  host : HostBlk
  /-- The AOS: resets, OTP, bring-up, firmware, identity. -/
  aos : AosBlk
  /-- The registers that software writes, the flags, counters and logs, by BAR0 address (R8). -/
  regs : SMap Word
  /-- The node ID of R477, when there is one (R497). -/
  nodeId : Option Nat
  /-- What has been put out, newest first. The MODEL's own. -/
  out : List Output
  /-- How many free values have been drawn. The MODEL's own. -/
  freeCtr : Nat
  /-- The commands waiting, first in, first out. The MODEL's own. -/
  pending : List Instr
deriving DecidableEq, Repr, Inhabited

namespace State

/-- One block changed by a function. -/
def onTick (s : State) (f : TickSt → TickSt) : State := { s with tick := f s.tick }
def onArr (s : State) (f : ArrayMem → ArrayMem) : State := { s with arr := f s.arr }
def onSeq (s : State) (f : SeqBlk → SeqBlk) : State := { s with seq := f s.seq }
def onMem (s : State) (f : MemBlk → MemBlk) : State := { s with mem := f s.mem }
def onDie (s : State) (k : Nat) (f : DieSt → DieSt) : State := { s with dies := s.dies.upd k f }
def onGlv (s : State) (g : Nat) (f : GloveSt → GloveSt) : State := { s with glv := s.glv.upd g f }
def onLedger (s : State) (f : LedgerSt → LedgerSt) : State := { s with ledger := f s.ledger }
def onRung (s : State) (f : RungSt → RungSt) : State := { s with rung := f s.rung }
def onStw (s : State) (f : StewardBlk → StewardBlk) : State := { s with stw := f s.stw }
def onNet (s : State) (f : NetBlk → NetBlk) : State := { s with net := f s.net }
def onHost (s : State) (f : HostBlk → HostBlk) : State := { s with host := f s.host }
def onAos (s : State) (f : AosBlk → AosBlk) : State := { s with aos := f s.aos }
def onSeqEnt (s : State) (i : Nat) (f : SeqEnt → SeqEnt) : State :=
  s.onStw fun b => { b with seqt := b.seqt.upd i f }
def onServe (s : State) (g : Nat) (f : ServeSt → ServeSt) : State :=
  s.onStw fun b => { b with serve := b.serve.upd g f }
def onPlan (s : State) (p : Nat) (f : PlanSt → PlanSt) : State :=
  s.onStw fun b => { b with plans := b.plans.upd p f }
def onModel (s : State) (m : Nat) (f : MdlSt → MdlSt) : State :=
  s.onStw fun b => { b with models := b.models.upd m f }
def onAdapter (s : State) (a : Nat) (f : AdpSt → AdpSt) : State :=
  s.onStw fun b => { b with adapters := b.adapters.upd a f }
def onNode (s : State) (n : Nat) (f : NodeSt → NodeSt) : State :=
  s.onStw fun b => { b with nodes := b.nodes.upd n f }
def onLink (s : State) (l : Nat) (f : LinkSt → LinkSt) : State :=
  s.onNet fun b => { b with links := b.links.upd l f }
def onWorker (s : State) (p : Nat) (f : WrkSt → WrkSt) : State :=
  s.onNet fun b => { b with workers := b.workers.upd p f }

end State

/-- The words of the profiles of OTP generation 0, four for each (R565, R566). -/
def factoryProfiles : List Word :=
  [BitVec.ofNat 64 (4400 + 2 ^ 17 + 2 ^ 18 + 2 ^ 19 + 2 ^ 20), BitVec.ofNat 64 (500 + 1048576 * 2 ^ 32), BitVec.ofNat 64 (2 ^ 64 - 1), 0xFFFFFFFF,
   BitVec.ofNat 64 (3200 + 2 ^ 14 + 2 ^ 17 + 2 ^ 18 + 2 ^ 19 + 2 ^ 20), BitVec.ofNat 64 (400 + 1048576 * 2 ^ 32), BitVec.ofNat 64 (2 ^ 64 - 1), 0xFFFFFFFF,
   BitVec.ofNat 64 (4000 + 2 ^ 13 + 2 ^ 17 + 2 ^ 18 + 2 ^ 19 + 2 ^ 20 + 140800 * 2 ^ 22), BitVec.ofNat 64 (500 + 1048576 * 2 ^ 32), BitVec.ofNat 64 (2 ^ 64 - 1), 0xFFFFFFFF,
   BitVec.ofNat 64 (2400 + 4 * 2 ^ 14 + 2 ^ 19 + 2 ^ 21), 0, 0, 0xFF000000]

/-- A firmware store's banks as they leave the factory: CURRENT alone (DESIGN CHOICE: the spec does not say what the stores
hold; its bytes are not given). -/
def factoryBanks : FwBanks := { current := some { svn := 0, bytes := [], sound := true }, previous := none, staged := none }

/-- The links at reset: DOWN, with no peer known (R491). -/
def resetLinks : SMap LinkSt := (List.range 96).map fun l => (l, { (default : LinkSt) with peer := 0x1FFF })

/-- The module right after a cold reset with cause POWER_ON has been accepted (R550 to R555): internal reset is asserted, RESET_N is
driven low, and OTP generation 0 is the only one used. -/
def State.reset : State where
  variant := .s32
  mstate := .reset
  dies := []
  arr := default
  seq := default
  mem := default
  glv := []
  ledger := default
  rung := default
  keys := []
  stw := { (default : StewardBlk) with pool := 1048576 }
  net := { (default : NetBlk) with links := resetLinks }
  host := { (default : HostBlk) with smbAddr := 0x5A }
  aos := { (default : AosBlk) with
    asserted := true, cold := true, causeNew := true, causeCold := true, driven := true
    otp := [{ used := true, valid := true, len := 0x08A8, trim := [], profiles := factoryProfiles, repair := [] }, default, default, default]
    rbc := [0, 0, 0]
    banks := [2, 3, 4, 18, 19, 20].map fun b => (b, factoryBanks) }
  tick := { (default : TickSt) with n := 25000 }
  regs := [(0x100000, 0x11), (0x401010, 500)]
  nodeId := none
  out := []
  freeCtr := 0
  pending := []

end Sys2Proof.Machine
end

