-- ==== Sys2Proof/Machine/Flags.lean ====
section
/-! DEFINITION. The registers as one table by address, and the flag rule: an event sets its flag and advances the paired counter (R588, R589). -/

namespace Sys2Proof.Machine

open Adr

namespace State

/-- The stored word of the register at `a`. -/
def reg (s : State) (a : Nat) : Word := SMap.look regReset s.regs a

/-- The register at `a` set to `v`. -/
def setReg (s : State) (a : Nat) (v : Word) : State := { s with regs := SMap.store regReset s.regs a v }

/-- A field of the register at `a`. -/
def fld (s : State) (a lo w : Nat) : Nat := (s.reg a).field lo w

/-- A field of the register at `a` set to `v`. -/
def setFld (s : State) (a lo w v : Nat) : State := s.setReg a ((s.reg a).setField lo w v)

/-- A 64-bit counter advanced by `n` (R63, R589). -/
def count (s : State) (a : Nat) (n : Nat := 1) : State := s.setReg a (s.reg a + BitVec.ofNat 64 n)

/-- The event of flag `bit` of the event register `evt`, `n` times in one cycle: the flag is set, and the paired
counter advances whether or not the flag was already 1 (R588, R589). -/
def raise (s : State) (evt bit : Nat) (n : Nat := 1) : State :=
  let s1 := s.setFld evt bit 1 1
  match (flagCounters evt)[bit]? with
  | some c => s1.count c n
  | none => s1

/-- Whether flag `bit` of `evt` is set. -/
def flag (s : State) (evt bit : Nat) : Bool := (s.reg evt).bit bit

/-- The set events of one cycle on the event register `evt`, bit by bit. -/
def raiseMask (s : State) (evt : Nat) (m : Word) : State :=
  (List.range 64).foldl (fun t b => if m.bit b && (flagCounters evt)[b]?.isSome then t.raise evt b else t) s

/-- The module puts out `o`. -/
def emit (s : State) (o : Output) : State := { s with out := o :: s.out }

/-- The next free value's index, and the state that has drawn it. -/
def draw (s : State) : Nat × State := (s.freeCtr, { s with freeCtr := s.freeCtr + 1 })

/-- The next `n` free values are used up. -/
def spend (s : State) (n : Nat) : State := { s with freeCtr := s.freeCtr + n }

/-- The module state becomes `m` (R574). -/
def toMode (s : State) (m : MState) : State := { s with mstate := m }

/-- The node identifier becomes `n` (R477). -/
def toNode (s : State) (n : Option Nat) : State := { s with nodeId := n }

/-- Every die changes by `f`. -/
def mapDies (s : State) (f : DieSt → DieSt) : State := { s with dies := s.dies.mapV fun _ d => f d }

/-- The registers at whose offsets `f` fails return to their reset values. -/
def keepRegs (s : State) (f : Nat → Bool) : State := { s with regs := s.regs.filter fun p => f p.1 }

/-- The expiry of sequence `i` is armed now: its place among the events armed (R44). -/
def stampSeq (s : State) (i : Nat) : State := (s.onSeqEnt i fun e => { e with stamp := s.freeCtr }).spend 1

/-- The expiry of the extent of `slot` is armed now (R44). -/
def stampExtent (s : State) (slot : Nat) : State :=
  (s.onMem fun m => { m with extents := m.extents.upd slot fun e => { e with stamp := s.freeCtr } }).spend 1

/-- Whether the time (tick, offset) has been reached (R42). -/
def reached (s : State) (t ofs : Nat) : Bool := t < s.tick.tick || (t == s.tick.tick && ofs ≤ s.tick.phase)

/-- The module's present time, in reference cycles of the period in force (R39). -/
def nowRc (s : State) : Nat := s.tick.tick * s.tick.n + s.tick.phase

end State

end Sys2Proof.Machine
end

