-- ==== Sys2Proof/Config.lean ====
section
/-! DEFINITION. What an implementation fixes and what the spec leaves open: free values, which nothing in Lean can evaluate. Each takes the index that the state draws (State.freeCtr), so that each use is a fresh value. -/

namespace Sys2Proof.Config

/-- The choice within the stated error of a transcendental result, by R174. -/
opaque freeUlp : Nat → Nat
/-- A total that the 16-bit-family sum of an MMA gives, as kind, mantissa and exponent: the order of the sum is not
specified, nor the precision beyond FP32 in which it is held (R173). -/
opaque freeSum : Nat → Nat × Nat × Int
/-- What a data unit reads as when it was written under another key or at another position (R293). -/
opaque freeByte : Nat → BitVec 8
/-- A value that the spec calls undefined and after which the module goes on. -/
opaque freeWord : Nat → BitVec 64
/-- A true-random value of the TRNG (R388, R546). -/
opaque freeRandom : Nat → BitVec 64

/-- Whether a frame of a glove is one of its KV frames: the spec names no command that says so (R372). -/
opaque kvFrame : Nat → Nat → Bool
/-- The near-tier offset of a sequence's KV directory: the spec does not say where the steward puts it (R373). -/
opaque kvDirectory : Nat → Nat → Nat
/-- The FP32 weight exp(d / TEMP) that the sampler computes of a difference d: the spec states no error bound (R387). -/
opaque expWeight : BitVec 32 → BitVec 32 → BitVec 32
/-- SHAKE256 of FIPS 202 over bytes, with so many bytes of output (R525): the standard defines it, not the spec. -/
opaque shake256 : List (BitVec 8) → Nat → List (BitVec 8)
/-- Ed448 of RFC 8032: whether a signature verifies under a public key over a digest, with a context string (R525). -/
opaque ed448 : List (BitVec 8) → List (BitVec 8) → List (BitVec 8) → String → Bool
/-- The Ed448 public key of a private key, and the signature that it makes over a digest, with a context string
(R526, R535, R541). -/
opaque ed448Public : List (BitVec 8) → List (BitVec 8)
opaque ed448Sign : List (BitVec 8) → List (BitVec 8) → String → List (BitVec 8)
/-- The X448 function of RFC 7748: private key, public key (R525). -/
opaque x448 : List (BitVec 8) → List (BitVec 8) → List (BitVec 8)
/-- The X448 public key of a private key. -/
opaque x448Public : List (BitVec 8) → List (BitVec 8)
/-- AES Key Wrap of RFC 3394, unwrapped: none when the integrity check fails (R525). -/
opaque unwrapKey : List (BitVec 8) → List (BitVec 8) → Option (List (BitVec 8))
/-- AES-256-XTS of a data unit under a key identity and tweak, encrypted and decrypted (R544). -/
opaque xtsEncrypt : Nat → Nat → List (BitVec 8) → List (BitVec 8)
opaque xtsDecrypt : Nat → Nat → List (BitVec 8) → List (BitVec 8)
/-- The 32-byte digest of the firmware public key in the AOS ROM, and MEAS0, the digest of that ROM (R529, R535). -/
opaque romKeyDigest : List (BitVec 8)
opaque romDigest : List (BitVec 8)
/-- The identity seed DS of the part (R526). -/
opaque identitySeed : List (BitVec 8)
/-- The identity certificate of the part, 24 words (R528). -/
opaque certificate : Nat → BitVec 64
/-- A key identity: equal for equal owner keys, never 0 (R293). The keys themselves are not part of the state. -/
opaque keyIdentity : List (BitVec 8) → Nat

end Sys2Proof.Config
end

