-- ==== Sys2Proof/Machine/Float.lean ====
section
/-! DEFINITION. Number formats and arithmetic: exact dyadic values, rounding to nearest even and stochastic rounding, and the vector unit's functions (R165 to R178). -/

namespace Sys2Proof.Machine

/-- The value of a scalar encoding: NaN, an infinity, or (-1)^neg * m * 2^e (R166). -/
inductive FVal where
  | nan
  | inf (neg : Bool)
  | fin (neg : Bool) (m : Nat) (e : Int)
deriving DecidableEq, Repr, Inhabited

/-- A scalar encoding (R166): exponent and mantissa bits, bias, the code (exponent and mantissa fields as one number)
of its largest finite value, whether it has an infinity, and the code of its lowest NaN where it has one. -/
structure FFmt where
  eb : Nat
  mb : Nat
  bias : Int
  maxCode : Nat
  hasInf : Bool
  nanCode : Option Nat
deriving DecidableEq, Repr, Inhabited

def fp32  : FFmt := ⟨8, 23, 127, 0x7F7FFFFF, true, some 0x7F800001⟩
def bf16  : FFmt := ⟨8, 7, 127, 0x7F7F, true, some 0x7F81⟩
def fp16  : FFmt := ⟨5, 10, 15, 0x7BFF, true, some 0x7C01⟩
def e5m2  : FFmt := ⟨5, 2, 15, 0x7B, true, some 0x7D⟩
def e4m3  : FFmt := ⟨4, 3, 7, 0x7E, false, some 0x7F⟩
def e3m2  : FFmt := ⟨3, 2, 3, 0x1F, false, none⟩
def e2m3  : FFmt := ⟨2, 3, 1, 0x1F, false, none⟩
def e2m1  : FFmt := ⟨2, 1, 1, 0x7, false, none⟩

/-- `2 ^ k` for an integer exponent split into numerator and denominator shifts. -/
def pow2 (k : Int) : Nat := 2 ^ k.toNat

/-- The value of the encoding `x` of format `f` (R166). -/
def FFmt.decode (f : FFmt) (x : Nat) : FVal :=
  let code := x % 2 ^ (f.eb + f.mb)
  let neg := x / 2 ^ (f.eb + f.mb) % 2 = 1
  let ef := code / 2 ^ f.mb
  let m := code % 2 ^ f.mb
  if code > f.maxCode then
    (if f.hasInf ∧ m = 0 then .inf neg else .nan)
  else if ef = 0 then .fin neg m (1 - f.bias - f.mb)
  else .fin neg (2 ^ f.mb + m) ((ef : Int) - f.bias - f.mb)

/-- An E8M0 scale byte (R166). -/
def e8m0 (x : Nat) : FVal := if x % 256 = 255 then .nan else .fin false 1 ((x % 256 : Nat) - 127)

/-- How many bits `m` has. -/
def bitLen (m : Nat) : Nat := if m = 0 then 0 else Nat.log2 m + 1

/-- The exponent of the quantum of `m * 2^e` in `f`: its unit in the last place. -/
def FFmt.quantum (f : FFmt) (m : Nat) (e : Int) : Int :=
  let top := (bitLen m : Int) - 1 + e
  let emin := 1 - f.bias
  (if top < emin then emin else top) - f.mb

/-- The code of `q * 2^u` where `u` is its quantum (`q` may have carried to one bit more). -/
def FFmt.codeOf (f : FFmt) (q : Nat) (u : Int) : Nat :=
  if q ≥ 2 ^ (f.mb + 1) then (u + 1 + f.mb + f.bias).toNat * 2 ^ f.mb + (q / 2 - 2 ^ f.mb)
  else if q ≥ 2 ^ f.mb then (u + f.mb + f.bias).toNat * 2 ^ f.mb + (q - 2 ^ f.mb)
  else q

/-- `m * 2^e` in units of `2^u`, truncated, with the remainder and the unit's size. -/
def inUnits (m : Nat) (e u : Int) : Nat × Nat × Nat :=
  if u ≤ e then (m * pow2 (e - u), 0, 1)
  else (m / pow2 (u - e), m % pow2 (u - e), pow2 (u - e))

/-- The code nearest to `m * 2^e`, ties to even, not yet judged against the largest finite value. -/
def FFmt.nearest (f : FFmt) (m : Nat) (e : Int) : Nat :=
  let u := f.quantum m e
  let (q, r, d) := inUnits m e u
  let q := if 2 * r > d ∨ (2 * r = d ∧ q % 2 = 1) then q + 1 else q
  f.codeOf q u

/-- The sign bit of `f` over a code. -/
def FFmt.withSign (f : FFmt) (neg : Bool) (code : Nat) : Nat :=
  if neg then 2 ^ (f.eb + f.mb) + code else code

/-- IEEE rounding to nearest even in `f` with overflow to infinity; a NaN is 0x7FC0_0000 (R173, R174). Used for FP32. -/
def roundFP32 (v : FVal) : BitVec 32 :=
  match v with
  | .nan => 0x7FC00000
  | .inf neg => BitVec.ofNat 32 (fp32.withSign neg 0x7F800000)
  | .fin neg m e =>
    if m = 0 then BitVec.ofNat 32 (fp32.withSign neg 0)
    else BitVec.ofNat 32 (fp32.withSign neg (min (fp32.nearest m e) 0x7F800000))

/-- Whether `m * 2^e` lies beyond the largest finite value of `f`. -/
def FFmt.beyond (f : FFmt) (m : Nat) (e : Int) : Bool :=
  match f.decode f.maxCode with
  | .fin _ mm em =>
    if e ≤ em then m > mm * pow2 (em - e) else m * pow2 (e - em) > mm
  | _ => false

/-- One draw of a stochastic-rounding generator (R177): the next state, which is also the output. -/
def xorshift (x : BitVec 32) : BitVec 32 :=
  let x := x ^^^ (x <<< 13)
  let x := x ^^^ (x >>> 17)
  x ^^^ (x <<< 5)

/-- Seeding of a generator (R177). -/
def seedGen (x : BitVec 32) : BitVec 32 := if x = 0 then 0x2545F491 else x

/-- A conversion to `f`: the encoding, and whether it saturated (R175, R176). `draw` is the generator's output when
stochastic rounding is selected. -/
def FFmt.convert (f : FFmt) (v : FVal) (draw : Option (BitVec 32)) : Nat × Bool :=
  match v with
  | .nan => (f.nanCode.getD f.maxCode, false)
  | .inf neg => if f.hasInf then (f.withSign neg (f.maxCode + 1), false) else (f.withSign neg f.maxCode, true)
  | .fin neg m e =>
    if m = 0 then (f.withSign neg 0, false)
    else if f.beyond m e then
      (if f.hasInf ∧ draw.isNone then (f.withSign neg (f.maxCode + 1), true) else (f.withSign neg f.maxCode, true))
    else match draw with
      | none => (f.withSign neg (min (f.nearest m e) f.maxCode), false)
      | some x =>
        let u := f.quantum m e
        let (q, r, d) := inUnits m e u
        let q := if r * 2 ^ 16 / d + x.toNat / 2 ^ 16 ≥ 2 ^ 16 then q + 1 else q
        (f.withSign neg (min (f.codeOf q u) f.maxCode), false)

/-- An FP32 lane's value. -/
def f32 (x : BitVec 32) : FVal := fp32.decode x.toNat

/-- The sum of two finite dyadics, as a signed mantissa at the lower exponent. -/
def addFin (n1 : Bool) (m1 : Nat) (e1 : Int) (n2 : Bool) (m2 : Nat) (e2 : Int) : Int × Int :=
  let e := min e1 e2
  let a : Int := (m1 * pow2 (e1 - e) : Nat)
  let b : Int := (m2 * pow2 (e2 - e) : Nat)
  ((if n1 then -a else a) + (if n2 then -b else b), e)

/-- The exact sum of two values; an exact zero is +0 unless both are -0 (R174, IEEE 754). -/
def FVal.add (x y : FVal) : FVal :=
  match x, y with
  | .nan, _ | _, .nan => .nan
  | .inf a, .inf b => if a = b then .inf a else .nan
  | .inf a, _ => .inf a
  | _, .inf b => .inf b
  | .fin n1 m1 e1, .fin n2 m2 e2 =>
    let (s, e) := addFin n1 m1 e1 n2 m2 e2
    if s = 0 then .fin (n1 && n2 && m1 = 0 && m2 = 0) 0 e else .fin (s < 0) s.natAbs e

/-- The exact product (R173, R174). -/
def FVal.mul (x y : FVal) : FVal :=
  match x, y with
  | .nan, _ | _, .nan => .nan
  | .inf a, .inf b => .inf (a != b)
  | .inf a, .fin n m _ => if m = 0 then .nan else .inf (a != n)
  | .fin n m _, .inf b => if m = 0 then .nan else .inf (n != b)
  | .fin n1 m1 e1, .fin n2 m2 e2 => .fin (n1 != n2) (m1 * m2) (e1 + e2)

/-- ⌊log₂⌋ of the magnitude of a finite nonzero value. -/
def FVal.expo : FVal → Option Int
  | .fin _ m e => if m = 0 then none else some ((bitLen m : Int) - 1 + e)
  | _ => none

def FVal.neg : FVal → FVal
  | .nan => .nan
  | .inf n => .inf (!n)
  | .fin n m e => .fin (!n) m e

/-- Comparison of values that are not NaN: -1, 0 or 1; the zeros are equal. -/
def FVal.cmp (x y : FVal) : Int :=
  match x, y with
  | .nan, _ | _, .nan => 0
  | .inf a, .inf b => if a = b then 0 else if a then -1 else 1
  | .inf a, _ => if a then -1 else 1
  | _, .inf b => if b then 1 else -1
  | .fin n1 m1 e1, .fin n2 m2 e2 =>
    let (s, _) := addFin n1 m1 e1 (!n2) m2 e2
    if s < 0 then -1 else if s = 0 then 0 else 1

def FVal.isNan : FVal → Bool
  | .nan => true
  | _ => false

def FVal.isNeg : FVal → Bool
  | .nan => false
  | .inf n => n
  | .fin n _ _ => n

def fadd (a b : BitVec 32) : BitVec 32 := roundFP32 ((f32 a).add (f32 b))
def fsub (a b : BitVec 32) : BitVec 32 := roundFP32 ((f32 a).add (f32 b).neg)
def fmul (a b : BitVec 32) : BitVec 32 := roundFP32 ((f32 a).mul (f32 b))
/-- One rounding (R143). -/
def ffma (a b c : BitVec 32) : BitVec 32 := roundFP32 (((f32 a).mul (f32 b)).add (f32 c))
/-- FN[0] negates A (R143). -/
def fneg (on : Bool) (a : BitVec 32) : BitVec 32 := if on then a ^^^ 0x80000000 else a

/-- VMAX of one lane: a NaN operand gives NaN, and -0 is less than +0 (R174). -/
def fmax (a b : BitVec 32) : BitVec 32 :=
  if (f32 a).isNan || (f32 b).isNan then 0x7FC00000
  else match (f32 a).cmp (f32 b) with
    | 0 => if (f32 a).isNeg then b else a
    | .ofNat _ => a
    | .negSucc _ => b

def fmin (a b : BitVec 32) : BitVec 32 :=
  if (f32 a).isNan || (f32 b).isNan then 0x7FC00000
  else match (f32 a).cmp (f32 b) with
    | 0 => if (f32 a).isNeg then a else b
    | .ofNat _ => b
    | .negSucc _ => a

/-- VCMP of one lane (R143): EQ, NE, LT, LE, GT, GE by IEEE 754, where a NaN is unordered. -/
def fcmp (cond : Nat) (a b : BitVec 32) : Bool :=
  if (f32 a).isNan || (f32 b).isNan then cond = 1
  else
    let c := (f32 a).cmp (f32 b)
    match cond with
    | 0 => c = 0
    | 1 => c ≠ 0
    | 2 => c < 0
    | 3 => c ≤ 0
    | 4 => c > 0
    | _ => c ≥ 0

/-- A value known to within far less than an ulp: `m * 2^e`. -/
structure Approx where
  m : Nat
  e : Int
deriving DecidableEq, Repr

/-- ln 2 in units of 2^-256. -/
def ln2q : Nat := 80260960185991308862233904206310070533990667611589946606122867505419956976171

/-- exp of `r` in units of 2^-256, 0 ≤ r < 1, by its series, in the same units. -/
def expSeries (r : Nat) : Nat :=
  ((List.range 60).foldl (fun (acc : Nat × Nat) n =>
    let t := if n = 0 then 2 ^ 256 else acc.2 * r / 2 ^ 256 / n
    (acc.1 + t, t)) (0, 0)).1

/-- e^v for a finite v of magnitude below 2^12, to more than 200 bits. -/
def expApprox (neg : Bool) (m : Nat) (e : Int) : Approx :=
  let x : Int := ((inUnits m e (-256)).1 : Nat)
  let x := if neg then -x else x
  let k := x.fdiv (ln2q : Int)
  let r := (x - k * (ln2q : Int)).toNat
  ⟨expSeries r, k - 256⟩

/-- 1 / (m * 2^e), m > 0. -/
def rcpApprox (m : Nat) (e : Int) : Approx := ⟨2 ^ 256 / m, -e - 256⟩

/-- An integer square root by Newton's steps on a fixed number of rounds. -/
def isqrt (n : Nat) : Nat :=
  if n = 0 then 0
  else
    let x := (List.range (bitLen (bitLen n) + 8)).foldl (fun x _ => (x + n / x) / 2) (2 ^ ((bitLen n + 1) / 2))
    if x * x > n then x - 1 else x

/-- 1 / sqrt(m * 2^e), m > 0: `2^k / sqrt m'` with an even exponent. -/
def rsqApprox (m : Nat) (e : Int) : Approx :=
  let (m, e) := if e % 2 = 0 then (m, e) else (2 * m, e - 1)
  ⟨isqrt (2 ^ 512 / m), -(e / 2) - 256⟩

/-- Whether the FP32 code `c` lies within `n` ulp of the value `a`, counting the ulp at the nearest code. -/
def withinUlp (c : Nat) (a : Approx) (n : Nat) : Bool :=
  match fp32.decode c with
  | .fin _ m e =>
    let u := fp32.quantum a.m a.e
    let lo := min (min e a.e) u
    let x := m * pow2 (e - lo)
    let y := a.m * pow2 (a.e - lo)
    (max x y - min x y) ≤ n * pow2 (u - lo)
  | _ => false

/-- A transcendental result: any FP32 value within `n` ulp, the choice being free (R174). -/
def pickUlp (neg : Bool) (a : Approx) (n pick : Nat) : BitVec 32 :=
  let c := fp32.nearest a.m a.e
  if c > fp32.maxCode then BitVec.ofNat 32 (fp32.withSign neg 0x7F800000)
  else
    let cand := c + pick % (2 * n + 3) - (n + 1)
    BitVec.ofNat 32 (fp32.withSign neg
      (if cand ≤ fp32.maxCode && withinUlp cand a n then cand else c))

/-- VXF of one lane (R145, R174): 0 EXP, 1 RCP, 2 RSQ. -/
def vxfLane (fn : Nat) (x : BitVec 32) (pick : Nat) : BitVec 32 :=
  match fn, f32 x with
  | _, .nan => 0x7FC00000
  | 0, .inf neg => if neg then 0 else 0x7F800000
  | 0, .fin neg m e =>
    if m = 0 then pickUlp false ⟨1, 0⟩ 2 pick
    else if (bitLen m : Int) + e > 12 then (if neg then pickUlp false ⟨1, -1000⟩ 2 pick else 0x7F800000)
    else pickUlp false (expApprox neg m e) 2 pick
  | 1, .inf neg => BitVec.ofNat 32 (fp32.withSign neg 0)
  | 1, .fin neg m e =>
    if m = 0 then BitVec.ofNat 32 (fp32.withSign neg 0x7F800000) else pickUlp neg (rcpApprox m e) 1 pick
  | _, .inf neg => if neg then 0x7FC00000 else 0
  | _, .fin neg m e =>
    if m = 0 then BitVec.ofNat 32 (fp32.withSign neg 0x7F800000)
    else if neg then 0x7FC00000
    else pickUlp false (rsqApprox m e) 1 pick

end Sys2Proof.Machine
end

