-- ==== Sys2Proof/Machine/Ops.lean ====
section
/-! DEFINITION. The named operations that the meanings share: sites and palms, bytes and lines, near-tier and scratchpad access, checks of R291, and the checks of codes. -/

namespace Sys2Proof

/-! Sites, palms and M-cells (R69, R70, R107, R213). -/

/-- The key of a logical site: 576 * die + 24 * row + column. -/
def Site.key (p : Site) : Nat := 576 * p.die + 24 * p.row + p.col
/-- The site of a key. -/
def siteOf (k : Nat) : Site := ⟨k / 576, k % 576 / 24, k % 24⟩
/-- A logical site holds a C-cell when row + column is even (R70). -/
def Site.isC (p : Site) : Bool := (p.row + p.col) % 2 == 0
/-- The module palm that holds a site (R107). -/
def Site.palm (p : Site) : Nat := 16 * p.die + 4 * (p.row / 6) + p.col / 6
/-- The M-cell number g of a site (R213, R237). -/
def Site.mcell (p : Site) : Nat := 288 * p.die + 12 * p.row + p.col / 2
/-- The site of M-cell g: the odd sites of its row. -/
def mcellSite (g : Nat) : Site :=
  let m := g % 288
  ⟨g / 288, m / 12, 2 * (m % 12) + (if (m / 12) % 2 = 0 then 1 else 0)⟩
/-- The logical neighbour of a site: 1 N, 2 E, 3 S, 4 W; across die edges by R86. -/
def Site.neighbour (p : Site) (port : Nat) : Option Site :=
  match port with
  | 1 => if p.row > 0 then some ⟨p.die, p.row - 1, p.col⟩ else if p.die ≥ 4 then some ⟨p.die - 4, 23, p.col⟩ else none
  | 2 => if p.col < 23 then some ⟨p.die, p.row, p.col + 1⟩ else if p.die % 4 < 3 then some ⟨p.die + 1, p.row, 0⟩ else none
  | 3 => if p.row < 23 then some ⟨p.die, p.row + 1, p.col⟩ else if p.die < 4 then some ⟨p.die + 4, 0, p.col⟩ else none
  | 4 => if p.col > 0 then some ⟨p.die, p.row, p.col - 1⟩ else if p.die % 4 > 0 then some ⟨p.die - 1, p.row, 23⟩ else none
  | _ => none
/-- The port at which a word that left by `port` enters the neighbour. -/
def facing : Nat → Nat
  | 1 => 3 | 2 => 4 | 3 => 1 | 4 => 2 | p => p

end Sys2Proof

namespace Sys2Proof.Machine

open Adr

/-! Plain helpers. -/

/-- A list with element `i` set, grown with `d` where it is too short. -/
def setPad {α : Type} (l : List α) (i : Nat) (v d : α) : List α :=
  if i < l.length then l.set i v else l ++ List.replicate (i - l.length) d ++ [v]

/-- ⌈a / b⌉. -/
def ceilDiv (a b : Nat) : Nat := (b - 1 + a) / b

/-- Lane `j` of a vector register (R140). -/
def lane (v : BitVec 2048) (j : Nat) : Lane := v.extractLsb' (32 * j) 32

/-- A vector register made of its 64 lanes. -/
def ofLanes (l : List Lane) : BitVec 2048 :=
  BitVec.ofNat 2048 ((l.take 64).foldr (fun x acc => acc * 2 ^ 32 + x.toNat) 0)

/-- A vector register built lane by lane. -/
def mapLanes (f : Nat → Lane) : BitVec 2048 := ofLanes ((List.range 64).map f)

/-- The lanes of `m` taken from `new`, the others from `old` (R142). -/
def mergeLanes (m : BitVec 64) (new old : BitVec 2048) : BitVec 2048 :=
  mapLanes fun j => if m.getLsbD j then lane new j else lane old j

/-- The 16 lanes of a 64 B line (R140). -/
def lineLanes (x : Line) : List Lane := (List.range 16).map fun j => x.extractLsb' (32 * j) 32

/-- The bytes of a number, least first. -/
def toBytes (n : Nat) : Nat → List Byte
  | 0 => []
  | k + 1 => BitVec.ofNat 8 n :: toBytes (n / 256) k

/-- The number that bytes spell, least first. -/
def ofBytes (l : List Byte) : Nat := l.foldr (fun b acc => acc * 256 + b.toNat) 0

/-- A line of 64 bytes. -/
def lineOf (l : List Byte) : Line := BitVec.ofNat 512 (ofBytes (l.take 64))

/-- The bytes of a line. -/
def lineBytes (x : Line) : List Byte := toBytes x.toNat 64

/-- A list in pieces of `n`. -/
def chunk {α : Type} (n : Nat) (l : List α) : List (List α) :=
  (List.range (ceilDiv l.length n)).map fun i => (l.drop (i * n)).take n

/-- CRC-16 with polynomial 0x1021 and initial value 0xFFFF (R267). -/
def crc16 (l : List Byte) : BitVec 16 :=
  l.foldl (fun (c : BitVec 16) b =>
    (List.range 8).foldl (fun (c : BitVec 16) _ =>
      if c.getLsbD 15 then (c <<< 1) ^^^ 0x1021 else c <<< 1) (c ^^^ ((b.zeroExtend 16 : BitVec 16) <<< (8 : Nat)))) 0xFFFF

/-- CRC-32C, reflected, as in RFC 3720 (R273). -/
def crc32c (l : List Byte) : BitVec 32 :=
  ~~~ (l.foldl (fun (c : BitVec 32) b =>
    (List.range 8).foldl (fun (c : BitVec 32) _ =>
      if c.getLsbD 0 then (c >>> 1) ^^^ 0x82F63B78 else c >>> 1) (c ^^^ b.zeroExtend 32)) 0xFFFFFFFF)

/-! The part fitted (R2 to R7, R34). -/

def Variant.iods : Variant → Nat
  | .w32 => 6 | _ => 4
def Variant.hbmStacks : Variant → Nat
  | .s24 => 24 | _ => 32
def Variant.channels : Variant → Nat
  | .w32 => 36 | _ => 24
/-- Stacks per compute die (R6). -/
def Variant.perDie : Variant → Nat
  | .s24 => 3 | _ => 4

/-- The compute die that owns stack HS`n` (R6). -/
def State.stackDie (s : State) (n : Nat) : Nat := n / s.variant.perDie

namespace State

def palm (s : State) (p : Nat) : PalmSt := s.arr.palms.at p
def onPalm (s : State) (p : Nat) (f : PalmSt → PalmSt) : State :=
  s.onArr fun a => { a with palms := a.palms.upd p f }
/-- The glove that holds a site. -/
def siteGlove (s : State) (p : Site) : Option Nat := (s.palm p.palm).glove
def cell (s : State) (k : Nat) : CellSt := s.arr.cells.at k
def onCell (s : State) (k : Nat) (f : CellSt → CellSt) : State :=
  s.onArr fun a => { a with cells := a.cells.upd k f }
def mcell (s : State) (g : Nat) : MCellSt := s.arr.mcells.at g
def onMCell (s : State) (g : Nat) (f : MCellSt → MCellSt) : State :=
  s.onArr fun a => { a with mcells := a.mcells.upd g f }
/-- The glove that holds M-cell g. -/
def mcellGlove (s : State) (g : Nat) : Option Nat := s.siteGlove (mcellSite g)
def pat (s : State) (g : Nat) : PatSt := s.seq.pats.at g
def onPat (s : State) (g : Nat) (f : PatSt → PatSt) : State :=
  s.onSeq fun q => { q with pats := q.pats.upd g f }
def gsq (s : State) (q : Nat) : GsqSt := s.seq.gsq.at q
def onGsq (s : State) (q : Nat) (f : GsqSt → GsqSt) : State :=
  s.onSeq fun b => { b with gsq := b.gsq.upd q f }
def glove (s : State) (g : Nat) : GloveSt := s.glv.at g
def img (s : State) (g slot : Nat) : ImgInfo := s.seq.imgs.at (4 * g + slot)
/-- The pattern cycle that a site's pattern executes. -/
def siteCycle (s : State) (p : Site) : Nat :=
  match s.siteGlove p with
  | some g => (s.pat g).cycle
  | none => 0

/-- The physical column of the cell of kind `k` at a logical site (R102). -/
def physCol (s : State) (die row col : Nat) (k : Kind) : Nat :=
  let r := s.arr.repair.at (24 * die + row)
  match (match k with | .c => r.cCol | .m => r.mCol) with
  | none => col
  | some f => if col < f then col else if col + 2 ≤ 23 then col + 2 else 24

/-- The palms a glove holds, in order. -/
def glovePalms (s : State) (g : Nat) : List Nat :=
  (List.range 128).filter fun p => (s.palm p).glove == some g

end State

/-- The sites of a palm (R107). -/
def palmSites (p : Nat) : List Site :=
  let k := p / 16
  let pr := p % 16 / 4
  let pc := p % 4
  (List.range 36).map fun i => ⟨k, 6 * pr + i / 6, 6 * pc + i % 6⟩

/-- The M-cells of a palm. -/
def palmMCells (p : Nat) : List Nat := ((palmSites p).filter fun x => !x.isC).map Site.mcell

/-- The positions of the bits set in a 128-bit set. -/
def palmSet (x : BitVec 128) : List Nat := (List.range 128).filter fun p => x.getLsbD p

/-! Scratchpad rows (R236, R237). -/

/-- The key of a scratchpad byte. -/
def scratchKey (g row byte : Nat) : Nat := g * 2 ^ 20 + 512 * row + byte

namespace State

/-- What a byte of the scratchpad holds; a byte that nothing has written since its palm entered a glove is a free value
(R109). -/
def scratchByte (s : State) (k : Nat) : Byte :=
  match s.arr.scratch.at k with
  | some b => b
  | none =>
    match (s.mcell (k / 2 ^ 20)).junk with
    | 0 => 0
    | n + 1 => Config.freeByte (n + k)

/-- The 512 bytes of a row as they lie in the M-cell. -/
def row (s : State) (g r : Nat) : List Byte := (List.range 512).map fun i => s.scratchByte (scratchKey g r i)
/-- A row written whole, with fresh codes (R267). -/
def putRow (s : State) (g r : Nat) (d : List Byte) : State :=
  s.onArr fun a => { a with scratch := a.scratch.putRow (scratchKey g r 0) (d.map some),
                            badRows := a.badRows.put (2048 * g + r) 0,
                            resv := a.resv.filter fun x => x.2 / 8 ≠ 2048 * g + r }
/-- The scratchpad of M-cell `g` becomes undefined from row `r` on, `n` rows (R109, R348). -/
def scrambleRows (s : State) (g r n : Nat) : State :=
  let s1 := (s.onArr fun a => { a with scratch := a.scratch.clear (scratchKey g r 0) (512 * n) }).onMCell g
    fun m => { m with junk := s.freeCtr + 1 }
  s1.spend (2 ^ 20)
/-- The kind of check that fails in a row: 0 when its codes are right. -/
def badRow (s : State) (g r : Nat) : Nat := s.arr.badRows.at (2048 * g + r)

end State

/-- The row check of R267: CRC-16 over the row and its address. -/
def rowCheck (g r : Nat) (d : List Byte) : BitVec 16 := crc16 (d ++ toBytes (2048 * g + r) 4)

/-- The even parity bits of R267, one per 64-bit word. -/
def rowParity (d : List Byte) : List Bool :=
  (chunk 8 d).map fun w => (w.foldl (fun acc b =>
    (List.range 8).foldl (fun (acc : Bool) i => acc != b.getLsbD i) acc) false)

/-! The near tier (R286 to R296). -/

/-- A tier address taken apart: its space and its offset (R286). -/
def taSpace (ta : Nat) : Nat := ta / 2 ^ 52 % 16
def taOfs (ta : Nat) : Nat := ta % 2 ^ 52

/-- The logical frame of a near-tier offset, when the offset obeys R288 and is not packed. -/
def nearFrame (ofs : Nat) : Option Nat := if ofs / 2 ^ 41 = 0 then some (ofs / 2 ^ 25) else none

/-- Who makes a near-tier access (R291). -/
structure Access where
  glove : Nat
  key : Nat
  system : Bool
deriving DecidableEq, Repr, Inhabited

/-- A unit's bytes with a masked value written into them (R191). -/
def mergeUnit (p : Nat × Nat) (old : List Byte) : List Byte :=
  let n := old.length
  toBytes ((ofBytes old &&& (2 ^ (8 * n) - 1 - p.1)) ||| p.2) n

/-- How a near-tier access is refused (R291). -/
inductive NearRef where
  | bound | owner
deriving DecidableEq, Repr, Inhabited

namespace State

def frame (s : State) (f : Nat) : FrameSt := s.mem.tmap.at f
def onFrame (s : State) (f : Nat) (g : FrameSt → FrameSt) : State :=
  s.onMem fun m => { m with tmap := m.tmap.upd f g }
def stack (s : State) (n : Nat) : StackSt := s.mem.hbmStacks.at n
def onStack (s : State) (n : Nat) (f : StackSt → StackSt) : State :=
  s.onMem fun m => { m with hbmStacks := m.hbmStacks.upd n f }

/-- The checks of R291, in order; an access under an erased key slot is refused as the owner's (R539). -/
def nearCheck (s : State) (f : Nat) (a : Access) (write : Bool) : Option NearRef :=
  let e := s.frame f
  if e.mode = .absent ∨ e.mode = .free ∨ (e.mode = .system ∧ a.system = false) then some .bound
  else if a.system then none
  else if (s.keys.at a.key).installed = false then some .owner
  else match e.mode with
    | .priv => if e.glove ≠ a.glove ∨ e.key ≠ a.key then some .owner else none
    | .shared =>
      if write then some .bound
      else if e.glove ≠ a.glove ∧ e.readers.getLsbD a.glove = false then some .owner else none
    | _ => none

/-- The physical address of a byte of a logical frame (R290). -/
def physAddr (s : State) (f b : Nat) : Nat :=
  ((s.frame f).stack * 2048 + (s.frame f).pframe) * 2 ^ 25 + b

/-- The key identity that a frame's data stand under: the system key is 0, key slot k is its installed key's identity
(R291, R293). -/
def frameKid (s : State) (f : Nat) : Nat :=
  if (s.frame f).mode = .system then 0 else (s.keys.at (s.frame f).key).kid

/-- The 64 bytes of near-tier unit `u` of frame `f`, decrypted. A unit written under another key or at another logical
position reads as free values (R293). -/
def nearUnit (s : State) (f u : Nat) : List Byte :=
  let pa := s.physAddr f (64 * u)
  let t := s.mem.nearTag.at (pa / 64)
  let d := s.mem.near.row pa 64
  if t = default ∨ (t.kid = s.frameKid f + 1 ∧ t.pos = f * 2 ^ 19 + u) then d
  else (List.range 64).map fun i => Config.freeByte (64 * (s.freeCtr + pa) + i)

/-- Unit `u` of frame `f` written, encrypted under the frame's key (R291, R293). -/
def putCopy (s : State) (f u : Nat) (d : List Byte) : State :=
  let pa := s.physAddr f (64 * u)
  s.onMem fun m => { m with near := m.near.putRow pa d, nearTag := m.nearTag.put (pa / 64) ⟨s.frameKid f + 1, f * 2 ^ 19 + u⟩ }

/-- The other copy of a SYSTEM frame (R297). -/
def twinOf (s : State) (f : Nat) : Option Nat :=
  if (s.frame f).mode = .system then (s.mem.pairs.find? fun p => p.1 == f || p.2 == f).map fun p => if p.1 = f then p.2 else p.1 else none

/-- A unit leaves the poison list; POISON reads 1 while another unit of its frame is listed, or its retirement waits (R290, R296,
R318). -/
def offPoison (s : State) (f u : Nat) : State :=
  let n := (s.frame f).stack
  let s1 := s.onStack n fun st => { st with poisonList := st.poisonList.filter (· ≠ (f, u)) }
  if (s1.stack n).poisonList.any (fun p => p.1 = f) || s1.mem.retireWait.contains f then s1
  else s1.onFrame f fun e => { e with poison := false }

/-- Near-tier unit `u` of frame `f` written, in both copies of a SYSTEM frame (R297). A write of the whole unit takes it off the
poison list (R296); a merge does not. -/
def putUnit (s : State) (f u : Nat) (d : List Byte) (whole : Bool := true) : State :=
  let off := fun (t : State) (f : Nat) => if whole then t.offPoison f u else t
  match s.twinOf f with
  | some b => off (off ((s.putCopy f u d).putCopy b u d) f) b
  | none => off (s.putCopy f u d) f

/-- Whether a unit is on its controller's poison list (R296). -/
def poisoned (s : State) (f u : Nat) : Bool := (s.stack (s.frame f).stack).poisonList.contains (f, u)

/-- Bytes of the near tier from offset `ofs` on, through unit reads. -/
def nearBytes (s : State) (ofs len : Nat) : List Byte :=
  let u0 := ofs / 64
  let n := ceilDiv (ofs % 64 + len) 64
  (((List.range n).flatMap fun i => s.nearUnit ((u0 + i) / 2 ^ 19) ((u0 + i) % 2 ^ 19)).drop (ofs % 64)).take len

/-- The near-tier units from offset `ofs` on that hold `len` bytes become undefined: they read as free values until they
are written (R305, R348). -/
def scrambleNear (s : State) (ofs len : Nat) : State :=
  (List.range (ceilDiv (ofs % 64 + len) 64)).foldl (fun t i =>
    let f := (ofs / 64 + i) / 2 ^ 19
    if (t.nearCheck f ⟨0, 0, true⟩ true).isSome then t
    else t.onMem fun m => { m with nearTag := m.nearTag.put (t.physAddr f (64 * ((ofs / 64 + i) % 2 ^ 19)) / 64) ⟨2 ^ 64, 0⟩ }) s

/-- A little-endian number read from the near tier. -/
def nearNat (s : State) (ofs len : Nat) : Nat := ofBytes (s.nearBytes ofs len)

/-- The controller of a stack: its die and its number there (R319). -/
def ntcOf (s : State) (n : Nat) : Nat × Nat := (s.stackDie n, n % s.variant.perDie)

/-- NTC_ELOG captures the event while it is armed (R321). -/
def elog (s : State) (k c f u kind g : Nat) (write system : Bool) : State :=
  if s.flag (ntcEvt k c) 1 || s.flag (ntcEvt k c) 2 then s
  else s.setReg (ntcElog k c) (BitVec.ofNat 64
    (f % 2 ^ 16 + u * 2 ^ 16 + kind * 2 ^ 35 + g * 2 ^ 38 + (if write then 2 ^ 44 else 0) + (if system then 2 ^ 45 else 0)))

/-- A refused near-tier access is counted and logged at the controller of its frame (R292, R321). -/
def refuseNear (s : State) (f u : Nat) (r : NearRef) (a : Access) (write : Bool) : State :=
  let (k, c) := s.ntcOf (s.frame f).stack
  (s.elog k c f u (match r with | .bound => 1 | .owner => 2) a.glove write a.system).raise (ntcEvt k c) 2

/-- The first unit of a near range that an access is refused, with the reason: none where the whole range is admitted (R291). -/
def nearStop (s : State) (ofs len : Nat) (a : Access) (write : Bool) : Option (Nat × Nat × NearRef) :=
  (List.range (ceilDiv (ofs % 2 ^ 25 + len) (2 ^ 25))).findSome? fun i =>
    let f := ofs / 2 ^ 25 + i
    (s.nearCheck f a write).map fun r => (f, (if i = 0 then ofs % 2 ^ 25 / 64 else 0), r)

/-- An access refused without a frame is counted and logged at controller 0 of die `k` (R635). -/
def refuseNoFrame (s : State) (k ofs : Nat) (a : Access) (write : Bool) : State :=
  (s.elog k 0 (ofs / 2 ^ 25 % 2 ^ 16) (ofs / 64 % 2 ^ 19) 1 a.glove write a.system).raise (ntcEvt k 0) 2

end State

/-- The compute die that an I/O die's port joins (R16, R87). -/
def iodDie : Nat → Nat
  | 0 => 0 | 1 => 4 | 2 => 3 | 3 => 7 | 4 => 1 | _ => 6

/-- Whether some lattice channel of the edge between two dies joins palms of the footprint (R86, R91). -/
def edgeJoined (palms : BitVec 128) (a b : Nat) : Bool :=
  let lo := min a b
  let hi := max a b
  (List.range 24).any fun i =>
    let (p, q) := if hi = lo + 1 then ((⟨lo, i, 23⟩ : Site), (⟨hi, i, 0⟩ : Site)) else (⟨lo, 23, i⟩, ⟨hi, 0, i⟩)
    palms.getLsbD p.palm && palms.getLsbD q.palm

end Sys2Proof.Machine
end

