-- ==== Sys2Proof/Machine/Log.lean ====
section
/-! DEFINITION. The error log, the error classes, and the completion rings (R510 to R517, R584, R603, R610). -/

namespace Sys2Proof.Machine

open Adr

/-- Status codes of R517 that many rules use. -/
abbrev stOK : Nat := 0x00
abbrev stTickPassed : Nat := 0x10
abbrev stTickUnlocked : Nat := 0x11
abbrev stConflict : Nat := 0x12
abbrev stBound : Nat := 0x13
abbrev stFull : Nat := 0x14
abbrev stSlotNotReady : Nat := 0x15
abbrev stImage : Nat := 0x16
abbrev stSig : Nat := 0x17
abbrev stDesc : Nat := 0x18
abbrev stTierFull : Nat := 0x30
abbrev stStale : Nat := 0x31
abbrev stLost : Nat := 0x32
abbrev stKeyAbsent : Nat := 0x33
abbrev stIo : Nat := 0x34
abbrev stOpcode : Nat := 0x40
abbrev stNotPermitted : Nat := 0x41
abbrev stOwner : Nat := 0x42

namespace State

/-- Word `w` of stored profile `p` of OTP generation `g` (R565). -/
def areaWord (s : State) (g p w : Nat) : Word := (s.aos.otp.getD g default).profiles.getD (4 * p + w) 0

/-- AOS_PROFp Ww (R565, R597). -/
def profWord (s : State) (p w : Nat) : Word := s.areaWord s.aos.profArea p w

/-- A field of the profile in force (R565, R597). -/
def prof (s : State) (w lo n : Nat) : Nat := (s.areaWord s.aos.forceArea s.aos.profile w).field lo n

/-- The fastest clock step that a die may be raised to: FASTEST of the profile in force, or the slower one of a pending change at a
tick (R435, R569); step 4 at most in early service (R573). -/
def fastest (s : State) : Nat :=
  let f := s.prof 0 14 3
  let g := match s.aos.pend with | some (p, some _) => max f ((s.profWord p 0).field 14 3) | _ => f
  if s.mstate = .early then max 4 g else g

/-- The number of log entries written since POWER_ON (R610, SEQ): one more than the newest entry's. -/
def logSeq (s : State) : Nat :=
  let p := s.fld rasLogptr 0 8
  if p = 0 ∧ s.fld rasLogptr 8 1 = 0 then 0 else (s.reg (rasLog ((p + 255) % 256) 3)).toNat + 1

/-- HIF_ALERT with flag `b` set (R521). -/
def alert (s : State) (b : Nat) : State := s.setFld hifAlert b 1 1

/-- A log entry is written (R603, R608, R610): class, object, index, cause, glove, detail. -/
def logEntry (s : State) (cls obj idx cause glove : Nat) (detail : Word) : State :=
  let p := s.fld rasLogptr 0 8
  let seq := s.logSeq
  let s1 := if s.fld rasLogptr 8 1 = 1 then s.raise rasEvt 5 else s
  let s2 := (((s1.setReg (rasLog p 0) (BitVec.ofNat 64 s.tick.tick)).setReg (rasLog p 1) (BitVec.ofNat 64
    (cls + obj * 2 ^ 3 + idx % 2 ^ 16 * 2 ^ 7 + cause * 2 ^ 23 + glove * 2 ^ 32))).setReg (rasLog p 2) detail).setReg
    (rasLog p 3) (BitVec.ofNat 64 seq)
  let s3 := s2.setReg rasLogptr (BitVec.ofNat 64
    ((p + 1) % 256 + (if p = 255 ∨ s.fld rasLogptr 8 1 = 1 then 2 ^ 8 else 0)))
  if cls = 4 ∨ cls = 5 then s3.alert 4 else s3

/-- An error of class RERUN (1), GLOVE (2), PART (3) or MODULE (4): counted and logged (R584, R603). -/
def errClass (s : State) (cls obj idx cause glove : Nat) (detail : Word) : State :=
  (if cls = 4 then s.raise rasEvt 2 else s.raise rasEvt 1).logEntry cls obj idx cause glove detail

/-- A corrected error (R584). -/
def corrected (s : State) : State := s.raise rasEvt 0

/-- A fence or retirement (R604). -/
def fenceCount (s : State) : State := s.raise rasEvt 3

/-- A service link in UP2 or UP1, the lowest-numbered (R602). -/
def serviceUp (s : State) : Option Nat :=
  ((List.range 8).map (· + 88)).find? fun l =>
    (s.net.links.at l).st == .up2 || (s.net.links.at l).st == .up1

/-- HE trains its link to the host while PERST_N is released: the rate and width depend on the partner (R500, R502, R555). -/
def trainHost (s : State) : State :=
  if s.host.perst then s
  else
    let (n, s1) := s.draw
    let f := (Config.freeWord n).toNat
    s1.onHost fun h => { h with gen := 1 + f % 5, width := 2 ^ (f / 8 % 4) }

/-! Completion rings. -/

def cq (s : State) (c : Nat) : CplRing := s.host.cqs.at c
def onCq (s : State) (c : Nat) (f : CplRing → CplRing) : State :=
  s.onHost fun h => { h with cqs := h.cqs.upd c f }

/-- Word `w` (0 or 1) of MSI-X entry `v` of a function. -/
def msixWord (s : State) (func v w : Nat) : Word :=
  if func = 0 then s.reg (msixEntry v w) else s.host.vfMsix.at (16 * func + 2 * v + w)

/-- The vector of ring `c` fires; a masked vector sets its pending bit (R513). -/
def fireVec (s : State) (c : Nat) : State :=
  let func := s.fld (hifCqCfg c) 6 7
  let v := s.fld (hifCqCfg c) 13 6
  let s1 := s.onCq c fun r => { r with unsig := 0 }
  if (s.msixWord func v 1).bit 32 then
    s1.onHost fun h => { h with pba := h.pba.upd func fun w => w.setField v 1 1 }
  else s1.emit (.msix func v)

/-- Whether completion ring `c` is full (R512). -/
def cqFull (s : State) (c : Nat) : Bool :=
  ((s.cq c).tail + 1) % 2 ^ s.fld (hifCqCfg c) 0 5 == s.fld (hifCqHead c) 0 16

/-- One entry written in host memory, and the moderation of the ring's vector (R510, R513). -/
def writeCq (s : State) (c : Nat) (e : List Word) : State :=
  let r := s.cq c
  let size := 2 ^ s.fld (hifCqCfg c) 0 5
  let w0 := (e.getD 0 0).setField 63 1 (if r.ph then 1 else 0)
  let s1 := s.emit (.cpl c ((s.reg (hifCqBase c)).toNat / 64 * 64 + 32 * r.tail) (w0 :: e.drop 1))
  let s2 := s1.onCq c fun r => { r with tail := (r.tail + 1) % size, ph := if r.tail + 1 = size then !r.ph else r.ph,
                                        unsig := r.unsig + 1,
                                        firstTick := if r.unsig = 0 then s.tick.tick else r.firstTick }
  if s.fld (hifCqCfg c) 27 4 = 0 ∨ (s2.cq c).unsig ≥ s.fld (hifCqCfg c) 19 8 then s2.fireVec c else s2

/-- Whether an entry for ring `c` must wait: the ring is full or not enabled, or its function is in D3hot (R512). -/
def cqWaits (s : State) (c : Nat) : Bool :=
  s.fld (hifCqCfg c) 5 1 == 0 || s.cqFull c || s.host.d3.contains (s.fld (hifCqCfg c) 6 7)

/-- An entry for ring `c`: written while the ring has room and its function is in D0, else kept in the backlog; an
entry of KIND 4 that finds the backlog full is dropped (R512), and so is every entry while PERST_N is asserted (R502). An entry for a
ring that is not enabled waits in the backlog (DESIGN CHOICE). -/
def putCq (s : State) (c kind : Nat) (e : List Word) : State :=
  if s.host.perst then s.raise hifEvt 1
  else if (s.cq c).backlog = [] ∧ s.cqWaits c = false then s.writeCq c e
  else if (s.cq c).backlog.length ≥ 4096 ∧ kind = 4 then s.raise hifEvt 1
  else s.onCq c fun r => { r with backlog := r.backlog ++ [e] }

/-- The backlog drains into the ring while it has room (R512). -/
def drainCq (s : State) (c : Nat) : Nat → State
  | 0 => s
  | n + 1 =>
    match (s.cq c).backlog with
    | [] => s
    | e :: _ =>
      if s.cqWaits c then s
      else ((s.onCq c fun r => { r with backlog := r.backlog.drop 1 }).writeCq c e).drainCq c n

/-- The four words of an entry (R510). -/
def cplWords (s : State) (tag ring status kind : Nat) (r0 r1 : Word) : List Word :=
  [BitVec.ofNat 64 (tag % 2 ^ 32 + ring * 2 ^ 32 + status * 2 ^ 40 + kind * 2 ^ 48), r0, r1, BitVec.ofNat 64 s.tick.tick]

/-- The completion of a command: in the completion ring of its command ring, or relayed to the manager with the
highest epoch seen (R484, R510, R511). -/
def complete (s : State) (c : HostCmd) (status : Nat) (r0 : Nat := 0) (r1 : Nat := 0) : State :=
  match c.epoch with
  | some _ => s.emit (.relayCpl { node := s.nodeId.getD 0x1FFF, tag := c.tag, status := status,
                                  res0 := BitVec.ofNat 64 r0, res1 := BitVec.ofNat 64 r1 })
  | none => s.putCq (s.fld (hifCrCfg c.ring) 12 8) 0
      (s.cplWords c.tag.toNat c.ring status 0 (BitVec.ofNat 64 r0) (BitVec.ofNat 64 r1))

/-- A refused command: counted, flagged and completed with its status (R514, R522, R523). -/
def refuse (s : State) (c : HostCmd) (status : Nat) (r0 : Nat := 0) : State :=
  (s.raise hifEvt 4).complete c status r0

/-- A refusal for the state of an object: object kind, state code, identifier (R514). -/
def refuseState (s : State) (c : HostCmd) (obj code ident : Nat) : State :=
  s.refuse c stConflict (obj + code % 256 * 2 ^ 4 + ident % 2 ^ 32 * 2 ^ 32)

/-- A completion that a waiting command, if there is one, receives. -/
def completeOpt (s : State) (c : Option HostCmd) (status : Nat) (r0 : Nat := 0) : State :=
  match c with
  | some x => s.complete x status r0
  | none => s

/-- An event entry of KIND 4 (R511). -/
def eventCpl (s : State) (code arg : Nat) : State :=
  if s.fld hifEvcq 8 1 = 0 then s
  else s.putCq (s.fld hifEvcq 0 8) 4 (s.cplWords code 0 0 4 (BitVec.ofNat 64 arg) 0)

/-- The code of a module state in GLB_CAP.MSTATE (R577). -/
def mcode (m : MState) : Nat :=
  match m with
  | .off => 0 | .reset => 1 | .bringup => 2 | .early => 3 | .service => 4 | .degraded => 5 | .draining => 6 | .fault => 7

/-- State set S of R514. -/
def inS (s : State) : Bool := s.mstate == .early || s.mstate == .service || s.mstate == .degraded
/-- State set D of R514. -/
def inD (s : State) : Bool := s.inS || s.mstate == .draining
/-- State set A of R514: every state from BRINGUP to FAULT. -/
def inA (s : State) : Bool := s.inD || s.mstate == .bringup || s.mstate == .fault

/-- A refusal for the module's state (R514, object 0). -/
def refuseModule (s : State) (c : HostCmd) : State := s.refuseState c 0 (mcode s.mstate) 0

end State

end Sys2Proof.Machine
end

