-- ==== Sys2Proof/Machine/SeqCore.lean ====
section
/-! DEFINITION. What ends a wait of a glove sequencer: the next address, the status, a rerun point, and the counters and reports it reads (R209, R212, R213, R224). -/

namespace Sys2Proof.Machine

open Adr

namespace State

/-- The sequencer of a glove, when the glove exists. -/
def gsqOf (s : State) (g : Nat) : Option Nat :=
  if (s.glove g).live ∧ (s.gsq (s.glove g).gsq).glove = some g then some (s.glove g).gsq else none

/-- G register `n`; G0 reads as 0 (R208). -/
def greg (s : State) (q n : Nat) : Word := if n = 0 then 0 else (s.gsq q).g.getD n 0

/-- G register `n` set; a write to G0 is ignored (R208). -/
def setGreg (s : State) (q n : Nat) (v : Word) : State :=
  if n = 0 then s else s.onGsq q fun x => { x with g := setPad x.g n v 0 }

/-- The sequencer continues at address `pc`, running. -/
def gsqGo (s : State) (q pc : Nat) : State :=
  s.onGsq q fun x => { x with pc := pc, state := .running, waitFor := none, deadline := none }

/-- The sequencer continues at the next address. -/
def gsqNext (s : State) (q : Nat) : State := s.gsqGo q ((s.gsq q).pc + 1)

/-- ST set, and the sequencer continues at the next address. -/
def gsqSt (s : State) (q st : Nat) : State := (s.onGsq q fun x => { x with st := st }).gsqNext q

/-- A rerun point taken at the present address (R224). -/
def rerunPoint (s : State) (q ident : Nat) : State :=
  s.onGsq q fun x => { x with rerun := { addr := x.pc, gs := x.g, ident := ident, count := 0 } }

/-- An EXCH completes: ST, the branch to T at codes of 0x10 and above, and a rerun point (R211, R224). -/
def exchDone (s : State) (q st target : Nat) : State :=
  ((s.onGsq q fun x => { x with st := st }).gsqGo q (if st ≥ 0x10 then target else (s.gsq q).pc + 1)).rerunPoint q 0

/-- The glove that a sequencer serves. -/
def gsqGlove (s : State) (q : Nat) : Nat := (s.gsq q).glove.getD 0

/-- A counter name of R213: die, M-cell index, counter. -/
def ctrName (v : Word) : Nat × Nat × Nat := (v.field 13 3, v.field 4 9, v.field 0 4)

/-- Whether the M-cell that a counter name gives lies in the palms of glove `g` (R213). -/
def nameInGlove (s : State) (g : Nat) (v : Word) : Bool :=
  let n := ctrName v
  n.2.1 < 288 && s.mcellGlove (288 * n.1 + n.2.1) == some g

/-- An arrival counter's value (R262). -/
def arrival (s : State) (v : Word) : Nat := (s.reg (arvCnt (ctrName v).1 (ctrName v).2.1 (ctrName v).2.2)).toNat % 2 ^ 32

/-- A waiting sequencer whose arrival counter has reached its value continues with OK (R212). -/
def wakeArrival (s : State) (q : Nat) : State :=
  match (s.gsq q).waitFor with
  | some (.arrival n v) => if v ≤ s.arrival (BitVec.ofNat 64 n) then s.gsqSt q stOK else s
  | _ => s

/-- Every sequencer that waits on an arrival counter is judged again (R212). -/
def wakeArrivals (s : State) : State := (List.range 64).foldl (fun t q => t.wakeArrival q) s

/-- An arrival counter set to a value plus `counted` counted writes of the same cycle, and stopped at all ones (R262). -/
def setArrival (s : State) (die m n value counted : Nat) : State :=
  (s.setReg (arvCnt die m n) (BitVec.ofNat 64 (min (value + counted) 0xFFFFFFFF))).wakeArrivals

/-- An arrival counter advanced by one counted write (R262). -/
def bumpArrival (s : State) (die m n : Nat) : State :=
  s.setArrival die m n ((s.reg (arvCnt die m n)).toNat % 2 ^ 32) 1

/-- SPD_RWLOG captures the first refusal after SPD_EVT.RWREF was last 0, and every refusal is counted (R261, R281). -/
def refuseRemote (s : State) (die : Nat) (log : Word) : State :=
  (if s.flag (spdEvt die) 1 then s else s.setReg (spdRwlog die) log).raise (spdEvt die) 1

/-- The records of a report queue that go to the host, those with a code of 0x0100 or above, leave it in order as entries of KIND 3; they
stay while the backlog of the glove's ring is full, and while HIF_GRPT.EN is 0 they are discarded and counted (R363, R511, R512). The
queue that is left. -/
def hostReports (s : State) (g : Nat) : List ReportRec → State × List ReportRec
  | [] => (s, [])
  | r :: rest =>
    if r.code < 0x100 then
      let (t, l) := s.hostReports g rest
      (t, r :: l)
    else if s.fld (hifGrpt g) 8 1 = 0 then (s.raise hifEvt 3).hostReports g rest
    else if (s.cq (s.fld (hifGrpt g) 0 8)).backlog.length ≥ 4096 then (s, r :: rest)
    else (s.putCq (s.fld (hifGrpt g) 0 8) 3 (s.cplWords (r.code % 2 ^ 16 + g * 2 ^ 16) 0 0 3 r.value 0)).hostReports g rest

/-- The host's records leave a sequencer's report queue (R363, R511). -/
def sendReports (s : State) (q : Nat) : State :=
  let (t, l) := s.hostReports (s.gsqGlove q) (s.gsq q).reports
  t.onGsq q fun x => { x with reports := l }

/-- A report record placed in a glove's queue (R211). -/
def placeReport (s : State) (q code : Nat) (value : Word) : State :=
  (s.onGsq q fun x => { x with reports := x.reports ++ [⟨code, value, s.tick.tick⟩] }).sendReports q

/-- A REPORT that waits is placed once the queue, which holds 64 records, has room (R211). -/
def wakeReport (s0 : State) (q : Nat) : State :=
  let s := s0.sendReports q
  match (s.gsq q).waitFor with
  | some (.report code v) =>
    if (s.gsq q).reports.length ≥ 64 then s else ((s.placeReport q code v).gsqSt q stOK).rerunPoint q 0
  | _ => s

/-- WAIT SEALED ends once no seal of the glove is left (R212). -/
def wakeSealed (s : State) (q : Nat) : State :=
  match (s.gsq q).waitFor with
  | some .sealed =>
    if (s.gsq q).seals = [] then
      (s.gsqSt q ((s.gsq q).sealFail.getD stOK)).onGsq q fun x => { x with sealFail := none }
    else s
  | _ => s

/-- Energy charged to a glove, in µJ (R441). -/
def charge (s : State) (g uj : Nat) : State :=
  (s.onGlv g fun v => { v with bal := v.bal - uj }).count (glvCntE g) uj

/-- A wait's deadline: `n` tick periods from now, or none for 0 (R212). -/
def deadlineOf (s : State) (n : Nat) : Option (Nat × Nat) := if n = 0 then none else some (s.tick.tick + n, s.tick.phase)

/-- The sequencer waits. -/
def gsqWait (s : State) (q : Nat) (w : WaitFor) (tmo : Nat := 0) : State :=
  s.onGsq q fun x => { x with state := .waiting, waitFor := some w, deadline := s.deadlineOf tmo }

end State

end Sys2Proof.Machine
end

