-- ==== Sys2Proof/Machine/Staging.lean ====
section
/-! DEFINITION. Staging ranges of exchange plans: what a write into one does (R327, R345). -/

namespace Sys2Proof.Machine

open Adr

namespace State

def plan (s : State) (p : Nat) : PlanSt := s.stw.plans.at p

/-- A plan's start of the present round, in reference cycles (R334, R341). -/
def roundStart (s : State) (x : PlanSt) : Nat := (x.t0 + x.round * x.rstride) * s.tick.n + x.ofs0

/-- A failure held by this participant: the lowest code stays, and with it the lowest participant (R340, R352). -/
def xFail (s : State) (p code part : Nat) : State :=
  s.onPlan p fun x => { x with fail := match x.fail with
    | none => some (code, part)
    | some (c, q) => if code < c ∨ (code = c ∧ part < q) then some (code, part) else some (c, q) }

/-- A link of a slot fails while the slot runs, or before it starts in the same data stage: the round's close reports PATH_DEGRADED (R347,
R348). -/
def slotBreaks (s : State) (l : Nat) : State :=
  s.stw.plans.foldl (fun t p =>
    let x := p.2
    if x.valid ∧ x.stage = .data ∧ (x.slots.any fun e => (e.link == l || (e.kind == 2 && e.outlink == l))
        && s.nowRc < s.roundStart x + x.clen + e.start + e.len) then t.xFail p.1 0x22 x.self else t) s

/-- The header unit of record `n` of a plan is written (R327, R345): the generation is stamped, the record counted under
its DEST and no more under an earlier one. -/
def stageHeader (s : State) (p n : Nat) (header : Word) : State × Word :=
  let x := s.plan p
  let h := if x.stamp then header.setField 24 16 (s.fld (xchGen x.glove) 0 16) else header
  let d := h.field 0 12
  let s1 := s.onPlan p fun x => { x with entered := x.entered.put n (d + 1), badDest := x.badDest || (d != 0xFFF && d ≥ x.dests.length) }
  (if d = 0xFFF then s1.count xchCntNull else s1, h)

/-- The plan and record whose header unit lies at a near-tier offset (R327). -/
def stagingAt (s : State) (ofs : Nat) : Option (Nat × Nat) :=
  ((s.stw.plans.filter fun q => q.2.valid && taOfs q.2.sbase ≤ ofs && ofs < taOfs q.2.sbase + q.2.slen
    && (ofs - taOfs q.2.sbase) % q.2.rlen == 0).map fun q => (q.1, (ofs - taOfs q.2.sbase) / q.2.rlen)).head?

/-- Whether a near-tier offset lies in a staging range (R327). -/
def inStaging (s : State) (ofs : Nat) : Bool :=
  s.stw.plans.any fun q => q.2.valid && taOfs q.2.sbase ≤ ofs && ofs < taOfs q.2.sbase + q.2.slen

/-- A unit written by whoever: one that holds a record's header enters the record (R327). -/
def putStaged (s : State) (f u : Nat) (d : List Byte) (whole : Bool := true) : State :=
  match s.stagingAt (f * 2 ^ 25 + 64 * u) with
  | none => s.putUnit f u d whole
  | some (p, n) =>
    let (s1, h) := s.stageHeader p n (BitVec.ofNat 64 (ofBytes (d.take 8)))
    s1.putUnit f u (toBytes h.toNat 8 ++ d.drop 8) whole

/-! Writes of near-tier units by bits (R191, R296, R300). -/

/-- Whether a request is a SEAL whose source range holds a unit. -/
def covers (r : MigReq) (f u : Nat) : Bool :=
  r.op == 1 && decide (taOfs r.nta ≤ f * 2 ^ 25 + 64 * u) && decide (f * 2 ^ 25 + 64 * u < taOfs r.nta + r.len)

/-- Whether a write to a unit waits: a seal in the queue has still to read it (R300). -/
def unitHeld (s : State) (f u : Nat) : Bool :=
  (s.frame f).hold && s.mem.queue.any fun r => covers r f u && !r.ahead.contains (f, u)

/-- Bytes of a unit as the bits they write and their values. -/
def byteBits (bytes : List (Nat × Byte)) : Nat × Nat :=
  bytes.foldl (fun acc b => (acc.1 ||| 255 * 2 ^ (8 * b.1), (acc.2 &&& (2 ^ 512 - 1 - 255 * 2 ^ (8 * b.1))) ||| b.2.toNat * 2 ^ (8 * b.1))) (0, 0)

/-- Bits `p.2` under mask `p.1` written to a unit: a write of part of it is a read-merge-write of its controller (R191). -/
def writeBits (s : State) (f u : Nat) (p : Nat × Nat) : State :=
  if p.1 = 2 ^ 512 - 1 then s.putStaged f u (toBytes p.2 64)
  else
    let n := s.ntcOf (s.frame f).stack
    (s.putStaged f u (mergeUnit p (s.nearUnit f u)) false).count (ntcCntRmw n.1 n.2)

/-- A write waits at its controller, and is counted (R300). -/
def holdBits (s : State) (f u : Nat) (p : Nat × Nat) (drain : Bool) : State :=
  let n := s.ntcOf (s.frame f).stack
  (s.raise (ntcEvt n.1 n.2) 3).onMem fun m => { m with heldWrites := m.heldWrites ++ [⟨f, u, p.1, p.2, drain⟩] }

/-- A write of a unit whose frame admits it (R191, R268, R296, R300): held under a seal, written whole, or merged; false where the merge
read finds the unit poisoned. -/
def nearWrite (s : State) (f u : Nat) (p : Nat × Nat) : State × Bool :=
  if s.unitHeld f u then (s.holdBits f u p false, true)
  else if p.1 ≠ 2 ^ 512 - 1 ∧ s.poisoned f u then (s, false)
  else (s.writeBits f u p, true)

/-- Bytes written to the near tier from offset `ofs` on by the system, unit by unit. -/
def putNear (s : State) (ofs : Nat) (d : List Byte) : State :=
  let u0 := ofs / 64
  let n := ceilDiv (ofs % 64 + d.length) 64
  (List.range n).foldl (fun t i =>
    let lo := if i = 0 then ofs % 64 else 0
    let part := (d.drop (64 * i + lo - ofs % 64)).take (64 - lo)
    (t.nearWrite ((u0 + i) / 2 ^ 19) ((u0 + i) % 2 ^ 19) (byteBits (part.zipIdx.map fun b => (lo + b.2, b.1)))).1) s

end State

end Sys2Proof.Machine
end

