-- ==== Sys2Proof/Machine/Tick.lean ====
section
/-! DEFINITION. The tick block: counting, beacons, alignment, steps and holds, holdover and the crown (R39 to R68, R633). -/

namespace Sys2Proof.Machine

open Adr

/-- Rank of R57's reported state, best first. -/
def TState.rank : TState → Nat
  | .locked => 0 | .holdover => 1 | .unlocked => 2 | .acquiring => 3

/-- STATE's encoding in TKE_TSTATE (R65). -/
def TState.code : TState → Nat
  | .acquiring => 0 | .locked => 1 | .holdover => 2 | .unlocked => 3

/-- The state that a STATE code names. -/
def TState.ofCode : Nat → TState
  | 0 => .acquiring | 1 => .locked | 2 => .holdover | _ => .unlocked

/-- ROLE's encoding in TKE_TSTATE (R65). -/
def TRole.code : TRole → Nat
  | .worker => 0 | .rackMaster => 1 | .crown => 2 | .standby => 3

/-- Whether the tick role follows a rack master of its own rack (R47). -/
def TRole.follows : TRole → Bool
  | .worker => true | .standby => true | .rackMaster => false | .crown => false

/-- The state that TKE_TSTATE.STATE and GLB_CAP.TSTATE show: a worker or standby manager reports the worse of its own
and its rack master's (R57). -/
def TickSt.reported (t : TickSt) : TState :=
  if t.role.follows && t.own.rank < t.master.rank then t.master else t.own

/-- One advance of the phase: at N - 1 it goes to 0 and the tick advances (R39). -/
def TickSt.bump (t : TickSt) : TickSt :=
  if t.phase + 1 < t.n then { t with phase := t.phase + 1 } else { t with phase := 0, tick := t.tick + 1 }

/-- The cycle inserted or removed by the frequency correction (R54): the gathered fraction, and -1, 0 or 1. -/
def TickSt.freqStep (t : TickSt) : Int × Int :=
  let a := t.freqAcc + t.freq
  if a ≥ 1000000000 then (a - 1000000000, 1) else if a ≤ -1000000000 then (a + 1000000000, -1) else (a, 0)

/-- The cycle inserted or removed by the offset correction, at most one in any 4,096 rc (R54): ahead removes one,
behind inserts one. -/
def TickSt.slewStep (t : TickSt) : Int :=
  if t.slewRc + 1 < 4096 then 0 else if t.slew > 0 then -1 else if t.slew < 0 then 1 else 0

/-- A hold of both counters has reference cycles left (R48, R58). -/
def TickSt.holding (t : TickSt) : Bool :=
  match t.hold with
  | some (_ + 1) => true
  | _ => false

/-- The beacon interval, min(N, 100,000) rc (R53). -/
def TickSt.interval (t : TickSt) : Nat := min t.n 100000

/-- The cycles that a following rack master inserts (positive) or removes in this reference cycle (R54). -/
def TickSt.correction (t : TickSt) : Int :=
  if t.role = .rackMaster && !t.holding then t.freqStep.2 + t.slewStep else 0

/-- The reference cycles that the tick block counts whether or not its counters are held: since its last beacon sent and heard
(R53, R56), in HOLDOVER (R56), and all of them. -/
def TickSt.waits (t : TickSt) : TickSt :=
  { t with sinceSent := t.sinceSent + 1, sinceHeard := t.sinceHeard + 1, hovr := if t.own = .holdover then t.hovr + 1 else 0,
           rcs := t.rcs + 1 }

/-- The counters of the tick block in one REFCLK cycle: in a hold they stand (R48, R58); otherwise the phase advances by one
(R39), and in a following rack master one cycle may be inserted or removed by each part of its correction (R54). -/
def TickSt.advance (t : TickSt) : TickSt :=
  match t.hold with
  | some (k + 1) => { t with hold := some k }
  | _ =>
    let t := { t with hold := none }
    if t.role = .rackMaster then
      let ds := t.slewStep
      let t1 := { t with freqAcc := t.freqStep.1, slew := t.slew + ds, slewRc := if ds = 0 then t.slewRc + 1 else 0 }
      match (1 + t.freqStep.2 + ds).toNat with
      | 0 => t1
      | 1 => t1.bump
      | 2 => t1.bump.bump
      | _ => t1.bump.bump.bump
    else t.bump

/-- One REFCLK cycle of the tick block: nothing counts while REFCLK is absent (R60). -/
def TickSt.cycle (t : TickSt) : TickSt := if !t.refclk then t else t.waits.advance

/-- The tick counter and phase moved to an absolute time in rc of the period in force. -/
def TickSt.setRc (t : TickSt) (rc : Nat) : TickSt := { t with tick := rc / t.n, phase := rc % t.n }

/-- The tick block in state `x`; entering UNLOCKED or HOLDOVER is an event of TKE_EVT (R57, R67). -/
def State.enterT (s : State) (x : TState) : State :=
  let s1 := s.onTick fun t => { t with own := x }
  if x = .unlocked ∧ s.tick.own ≠ .unlocked then s1.raise tkeEvt 0
  else if x = .holdover ∧ s.tick.own ≠ .holdover then s1.raise tkeEvt 1
  else s1

/-- TKE_TSTATE.CROWN set to a known node; a change from one known node to a different one is a crown change (R65, R67). -/
def State.setCrown (s : State) (c : Nat) : State :=
  let s1 := s.onTick fun t => { t with crown := some c }
  match s.tick.crown with
  | some c' => if c' = c then s1 else s1.raise tkeEvt 5
  | none => s1

/-- The period N set to `n`; a change of N is an event of TKE_EVT (R41, R67). -/
def State.setPeriod (s : State) (n : Nat) : State :=
  let s1 := s.onTick fun t => { t with n := n }
  if s.tick.n = n then s1 else s1.raise tkeEvt 6

/-- LOFS as it is in force in tick `t` (R453). -/
def State.lofsIn (s : State) (t : Nat) : Nat :=
  match s.ledger.lofsOld with
  | some (t', o) => if t' = t then o else s.fld tkeLcfg 0 20
  | none => s.fld tkeLcfg 0 20

/-- LOFS as it is in force in the present tick (R453). -/
def State.lofs (s : State) : Nat := s.lofsIn s.tick.tick

/-- The tick whose ledger period is the next to fire. -/
def State.ledgerTick (s : State) : Nat :=
  match s.ledger.lastTick with
  | some t => t + 1
  | none => s.tick.tick

/-- What the module does at a named time: the events of R43, in its order from `ledger` to `round`, and beside them what other
rules time by a tick. -/
inductive Event where
  | period
  | ledger
  | rung
  | commit (g : Nat)
  | ttl (seq : Nat)
  | ttlExtent (slot : Nat)
  | cuff (model : Nat)
  | switch (g : Nat)
  | phase (plan : Nat)
  | round (plan : Nat)
  | grants
  | profile
  | rungAbandon
  | faultHold (g : Nat)
  | waitTick (q : Nat)
  | waitTimeout (q : Nat)
  | moderation (cq : Nat)
deriving DecidableEq, Repr, Inhabited

/-- An armed event: its time (tick, offset), its place in the table of R43 (0 and 8 for what the table does not list), its glove,
and when it was armed (R42 to R44). -/
structure Armed where
  tick : Nat
  ofs : Nat
  rank : Nat
  glove : Nat
  stamp : Nat
  ev : Event
deriving DecidableEq, Repr, Inhabited

/-- The order in which events fire: by time, then by R43, then by R44. -/
def Armed.first (a b : Armed) : Bool :=
  decide (a.tick < b.tick ∨ (a.tick = b.tick ∧ (a.ofs < b.ofs ∨ (a.ofs = b.ofs ∧ (a.rank < b.rank ∨ (a.rank = b.rank ∧
    (a.glove < b.glove ∨ (a.glove = b.glove ∧ a.stamp ≤ b.stamp))))))))

/-- The time of the round that a plan's phase has reached (R334, R341). -/
def State.roundTime (x : PlanSt) : Nat × Nat := (x.t0 + x.round * x.rstride, x.ofs0)

/-- The events of R43 that are armed, but for the ledger period of each tick. -/
def State.armedTable (s : State) : List Armed :=
  (match s.rung.pend with
    | some p => if s.rung.entering.isSome then [] else [⟨p.2.1, p.2.2, 2, 0, 0, .rung⟩]
    | none => [])
  ++ (s.stw.serve.filter fun p => p.2.phase == 3).map (fun p => ⟨p.2.commit, 0, 3, p.1, 0, .commit p.1⟩)
  ++ (s.stw.seqt.filter fun p => p.2.expiry != 0 && !p.2.resuming).map (fun p => ⟨p.2.expiry, 0, 4, p.2.glove, p.2.stamp, .ttl p.1⟩)
  ++ (s.mem.extents.filter fun p => p.2.st != .free).filterMap (fun p =>
      p.2.expiry.map fun t => ⟨t, 0, 4, p.2.glove, p.2.stamp, .ttlExtent p.1⟩)
  ++ s.stw.models.filterMap (fun p => match p.2.repl with
      | some r => if r.inPlace && r.copied then
          some ⟨max r.tr r.ready, 0, 5, ((List.range 64).find? fun g => p.2.gloves.getLsbD g).getD 0, r.stamp, .cuff p.1⟩ else none
      | none => none)
  ++ s.seq.gsq.filterMap (fun p => match p.2.arm, p.2.glove with
      | some a, some g => if (s.glv.at g).faulted.isSome then none else some ⟨a.tick, a.ofs, 6, g, 0, .switch g⟩
      | _, _ => none)
  ++ (s.stw.plans.filter fun p => p.2.stage == .named).map (fun p =>
      if p.2.round = 0 then ⟨p.2.t0, p.2.ofs0, 7, p.2.glove, p.2.namedAt, .phase p.1⟩
      else ⟨(State.roundTime p.2).1, (State.roundTime p.2).2, 7, p.2.glove, p.2.namedAt, .round p.1⟩)

/-- The ledger periods up to the present tick that have not fired, each at its tick's LOFS (R440, R633). -/
def State.armedLedger (s : State) : List Armed :=
  (List.range (s.tick.tick + 1 - s.ledgerTick)).map fun i => ⟨s.ledgerTick + i, s.lofsIn (s.ledgerTick + i), 1, 0, 0, .ledger⟩

/-- A profile change pending at a tick: it takes effect before every event of R43 in its reference cycle (R569). -/
def State.armedProfile (s : State) : List Armed :=
  match s.aos.pend with | some (_, some t) => [⟨t, 0, 0, 0, 1, .profile⟩] | _ => []

/-- What other rules time by a tick: a pending N at its boundary, before the table's events, and after them, in this order, the
grant computation, the end of a wait to enter a rung, the reset of a FAULTED glove, the waits of sequencers and the moderation of
completion rings. -/
def State.armedOther (s : State) : List Armed :=
  (match s.tick.pend with | some p => [⟨p.2, 0, 0, 0, 0, .period⟩] | none => [])
  ++ (if s.net.role = 1 && s.net.grantTick != some s.tick.tick then [⟨s.tick.tick, s.fld mgrCfg 8 20, 8, 0, 0, .grants⟩] else [])
  ++ (match s.rung.entering with | some t => [⟨t + s.fld tkeLcfg 44 4, 0, 8, 0, 2, .rungAbandon⟩] | none => [])
  ++ s.glv.filterMap (fun p => match p.2.faulted with
      | some (_, t) => if p.2.resetting || s.mstate == .fault then none else some ⟨t, 0, 8, p.1, 3, .faultHold p.1⟩
      | none => none)
  ++ s.seq.gsq.filterMap (fun p => match p.2.state, p.2.waitFor with
      | .waiting, some (.tick t o) => some ⟨t, o, 8, p.2.glove.getD 0, 4, .waitTick p.1⟩
      | _, _ => none)
  ++ s.seq.gsq.filterMap (fun p => match p.2.state, p.2.deadline with
      | .waiting, some d => some ⟨d.1, d.2, 8, p.2.glove.getD 0, 5, .waitTimeout p.1⟩
      | _, _ => none)
  ++ s.host.cqs.filterMap (fun p => if p.2.unsig = 0 || s.fld (hifCqCfg p.1) 27 4 = 0 then none
      else some ⟨p.2.firstTick + s.fld (hifCqCfg p.1) 27 4, 0, 8, 64, 6 + p.1, .moderation p.1⟩)

/-- The armed events of R43 whose time has come, and before them a profile change, in the order in which they fire (R42 to R44, R58,
R569). -/
def State.dueTable (s : State) : List Armed :=
  ((s.armedProfile ++ s.armedLedger ++ s.armedTable).filter fun a => s.reached a.tick a.ofs).sortBy Armed.first

/-- All that is timed and whose time has come, in the order in which it fires. -/
def State.due (s : State) : List Armed :=
  ((s.armedProfile ++ s.armedLedger ++ s.armedTable ++ s.armedOther).filter fun a => s.reached a.tick a.ofs).sortBy Armed.first

/-- It is the turn of event `e`: its time has come, no event of R43 and no profile change precedes it, and the counters are not held
(R42 to R44, R58, R569). -/
def State.turn (s : State) (e : Event) : Bool :=
  !s.tick.holding && (match s.dueTable with | a :: _ => a.ev == e | [] => false)

/-- The events of R43 that fall after the present time and at or before the time `rc`, counting the ledger periods in a span of
ticks (R58). -/
def State.inSpan (s : State) (rc : Nat) : Nat :=
  (s.armedTable.filter fun p => s.nowRc < p.tick * s.tick.n + p.ofs && p.tick * s.tick.n + p.ofs ≤ rc).length
  + (rc / s.tick.n + (if s.fld tkeLcfg 0 20 ≤ rc % s.tick.n then 1 else 0)
      - max s.ledgerTick (s.tick.tick + (if s.lofs ≤ s.tick.phase then 1 else 0)))

/-- The counters step forward to `rc`: a step is counted, and every event within the stepped span is counted as late; those
events are then due in this reference cycle, in time order (R58). -/
def State.stepTo (s : State) (rc : Nat) : State :=
  let late := s.inSpan rc
  let s1 := (s.onTick fun t => t.setRc rc).raise tkeEvt 2
  if late = 0 then s1 else s1.raise tkeEvt 4 late

/-- Both counters are held for `k` rc (R48, R58). -/
def State.holdFor (s : State) (k : Nat) : State :=
  (s.onTick fun t => { t with hold := some k }).raise tkeEvt 3

/-- A measured offset of `d` rc from the crown acts by R57 and R54. -/
def State.measured (s : State) (d : Int) : State :=
  let far := d.natAbs > 10000
  match s.tick.own with
  | .acquiring | .unlocked =>
    if far then s.onTick fun t => { t with stepPend := some d, slew := 0 }
    else
      let s1 := s.onTick fun t => { t with slew := d }
      if d.natAbs ≤ 20 then s1.enterT .locked else s1
  | .locked =>
    if d.natAbs > 23 then
      let s1 := s.enterT .unlocked
      if far then s1.onTick fun t => { t with stepPend := some d, slew := 0 } else s1.onTick fun t => { t with slew := d }
    else s.onTick fun t => { t with slew := d }
  | .holdover => (s.onTick fun t => { t with slew := d }).enterT .locked

/-- TKE_TICK_READ (R62): a 64-bit read or a read of the low half latches the high half and the phase; a read of the high half
returns the latched value. -/
def tkeTickReadOp (h : Half) (s : State) : State :=
  let latch := fun (t : TickSt) => { t with latchHi := BitVec.ofNat 32 (t.tick / 2 ^ 32), latchPhase := t.phase }
  match h with
  | .whole => (s.onTick latch).emit (.regData (BitVec.ofNat 64 s.tick.tick))
  | .lo => (s.onTick latch).emit (.regData (BitVec.ofNat 64 (s.tick.tick % 2 ^ 32)))
  | .hi => s.emit (.regData (s.tick.latchHi.zeroExtend 64))

/-- The AOS counts reference cycles: of the stretch of a reset (R552, R563), and since the last cold reset for the windows of R587, at the end of
each of which the counts of every part start again. -/
def State.errWindow (s : State) : State :=
  let w := (s.aos.sinceCold + 1) / (100000000 * s.fld rasCethr 40 16)
  let s1 := s.onAos fun a =>
    { a with sinceCold := a.sinceCold + 1, window := w, causeNew := false,
             causeAge := if a.windows < 16 then 0 else a.causeAge + 1 }
  if w = s.aos.window then s1
  else (s1.onAos fun a => { a with rerunLimits := [] }).onMem fun m =>
    { m with ddr := m.ddr.mapV fun _ x => { x with ceWin := 0 }, dpp := m.dpp.mapV fun _ x => { x with errWin := 0 },
             hbmStacks := m.hbmStacks.mapV fun _ x => { x with ceWin := 0 } }

/-- N takes the value `n`, and LOFS, and GOFS in a rack master, are cut to `n` - 1 where they are `n` or more (R41, R633). -/
def State.applyPeriod (s : State) (n : Nat) : State :=
  let s1 := (s.onTick fun k => { k with phase := k.phase % n }).setPeriod n
  let s2 := if s1.fld tkeLcfg 0 20 ≥ n then s1.setFld tkeLcfg 0 20 (n - 1) else s1
  if (s.tick.role = .rackMaster ∨ s.tick.role = .crown) ∧ s2.fld mgrCfg 8 20 ≥ n
  then s2.setFld mgrCfg 8 20 (n - 1) else s2

/-- PERIOD_CHANGE (R41, R633): at the named boundary the pending N takes effect, and LOFS and GOFS are clamped. TICK_ADVANCE does
not leave that boundary's cycle before it (Machine/Events.lean); only a step can carry the counters past it. -/
def periodChangeOp (s : State) : State :=
  match s.tick.pend with
  | none => s
  | some (n, t) => if s.tick.tick < t then s else (s.onTick fun k => { k with pend := none }).applyPeriod n

/-- ALIGNMENT_LOAD (R48, R57, R58): a worker or standby manager takes N and any pending change from its rack master, in ACQUIRING and
UNLOCKED steps or holds to the loaded tick and phase, and is then LOCKED. -/
def alignmentLoadOp (tick : Word) (phase n : Nat) (pend : Option (Nat × Word)) (master source : Nat) (s : State) : State :=
  if !s.tick.role.follows then s
  else
    let s1 := (s.applyPeriod n).onTick fun t =>
      { t with pend := pend.map fun p => (p.1, p.2.toNat), master := TState.ofCode master, parent := some source, sinceHeard := 0 }
    let target := tick.toNat * n + phase
    let s2 := if s.tick.own = .locked ∨ s.tick.own = .holdover then s1
              else
                let s1 := s1.onTick fun t => { t with hold := none }
                if s1.nowRc < target then s1.stepTo target
                else if target < s1.nowRc then s1.holdFor (s1.nowRc - target) else s1
    s2.enterT .locked

/-- COUNTER_HOLD_END (R48): a hold whose reference cycles have passed ends. -/
def counterHoldEndOp (s : State) : State :=
  if s.tick.hold = some 0 then s.onTick fun t => { t with hold := none } else s

/-- BEACON_SEND (R53): a rack master or crown sends its beacon, once in every min(N, 100,000) rc. -/
def beaconSendOp (sub : Nat) (s : State) : State :=
  if s.tick.role.follows ∨ s.tick.sinceSent < s.tick.interval then s
  else (s.onTick fun t => { t with sinceSent := 0 }).emit (.beacon
    { sender := s.nodeId.getD 0x1FFF, crown := s.tick.crown.getD 0x1FFF, tick := BitVec.ofNat 64 s.tick.tick,
      phase := s.tick.phase, sub := sub, n := s.tick.n,
      pend := s.tick.pend.map fun p => (p.1, BitVec.ofNat 64 p.2),
      crownOfs := if s.tick.role = .crown then 0 else s.tick.crownOfs })

/-- The load that a rack master sends to `node`, or to all its followers: the count that it will have at the named edge, `ahead`
reference cycles from now (R48). -/
def State.sendLoad (s : State) (node : Option Nat) (ahead delay : Nat) : State :=
  let at_ := s.nowRc + ahead
  s.emit (.tickLoad node at_ (at_ / s.tick.n) (at_ % s.tick.n) s.tick.n s.tick.pend delay s.tick.own.code)

/-- This module's time minus the parent's, in ns: the beacon's tick, phase and timestamp corrected by the link delay
(R53, R66). -/
def beaconOfsNs (t : TickSt) (b : Beacon) (delayNs : Nat) : Int :=
  (((t.tick * t.n + t.phase) * 10 : Nat) : Int) - (((b.tick.toNat * b.n + b.phase) * 10 + b.sub + delayNs : Nat) : Int)

/-- The parent chosen by R53 among (hops, node) pairs: the fewest hops, then the lowest node ID. -/
def chooseParent : List (Nat × Nat) → Option (Nat × Nat)
  | [] => none
  | p :: r =>
    match chooseParent r with
    | none => some p
    | some q => if p.1 < q.1 ∨ (p.1 = q.1 ∧ p.2 ≤ q.2) then some p else some q

/-- A frequency correction within the ±200 ppm of R54. -/
def freqBound (ppb : Int) : Int := max (-200000) (min 200000 ppb)

/-- The beacon of the parent is acted on: N and any pending change are taken, and the measured offset corrects the counters
(R53, R54, R57). -/
def State.followBeacon (s : State) (b : Beacon) (delayNs : Nat) (freqPpb : Int) : State :=
  let ofs := beaconOfsNs s.tick b delayNs
  let d := (ofs + 5) / 10 + b.crownOfs
  let s1 := ((s.applyPeriod b.n).setCrown b.crown).onTick fun t =>
    { t with pend := b.pend.map fun p => (p.1, p.2.toNat), sinceHeard := 0, ofsNs := ofs, freq := freqBound freqPpb, crownOfs := d }
  s1.measured d

/-- BEACON_RECEIVE (R53, R54, R57): a following rack master learns a sender that reaches the crown; it follows the one the fewest
hops nearer the crown, the lowest node ID of these, and corrects by its beacons alone. -/
def beaconReceiveOp (b : Beacon) (hops delayNs : Nat) (freqPpb : Int) (s : State) : State :=
  if s.tick.role ≠ .rackMaster then s
  else
    let cs := (s.tick.cands.filter fun p => p.2 ≠ b.sender) ++ [(hops, b.sender)]
    let p := (chooseParent cs).map (·.2)
    let s1 := s.onTick fun t => { t with cands := cs, parent := p }
    if p = some b.sender then s1.followBeacon b delayNs freqPpb else s1

/-- BEACON_CHECK (R50, R57): a follower found more than 1 rc away enters UNLOCKED and is realigned by R48. A follower learns its
rack master's state with it. -/
def beaconCheckOp (node : Nat) (delta : Int) (master : Nat) (s : State) : State :=
  if s.tick.role.follows then
    if s.nodeId ≠ some node then s else
      let s1 := s.onTick fun t => { t with master := TState.ofCode master, sinceHeard := 0 }
      if delta.natAbs > 1 ∧ s.tick.own = .locked then s1.enterT .unlocked else s1
  else if delta.natAbs ≤ 1 then s
  else (s.onTick fun t => { t with stray := if node ∈ t.stray then t.stray else t.stray ++ [node] }).sendLoad (some node) 0 0

/-- The module becomes a crown with its own counter (R52, R56): LOCKED, with no parent and an offset of 0. One without a node ID
(0x1FFF) leaves CROWN at 0x1FFF, which is no crown change (R67). -/
def State.becomeCrown (s : State) (me : Nat) : State :=
  ((if me = 0x1FFF then s.onTick fun t => { t with crown := none } else s.setCrown me).onTick fun t =>
    { t with role := .crown, parent := none, slew := 0, stepPend := none, crownOfs := 0, cands := [] }).enterT .locked

/-- PARENT_LOST (R56, R57): after 8 beacon intervals without a beacon, a new parent among the rack masters that still reach the
crown, or HOLDOVER. A rack master that has never known a crown and that no beacon reaches is the lowest-numbered one its beacon
tree can reach: it holds the crown (R52). -/
def parentLostOp (cand : List (Nat × Nat)) (s : State) : State :=
  if s.tick.role = .crown ∨ s.tick.sinceHeard < 8 * s.tick.interval then s
  else match chooseParent cand with
    | some p => s.onTick fun t => { t with parent := some p.2, cands := cand, sinceHeard := 0 }
    | none =>
      let s1 := s.onTick fun t => { t with parent := none, cands := [] }
      if s.tick.own = .locked then s1.enterT .holdover
      else if s.tick.role = .rackMaster ∧ s.tick.own = .acquiring ∧ s.tick.crown = none then s1.becomeCrown (s.nodeId.getD 0x1FFF)
      else s1

/-- HOLDOVER_LIMIT_EXPIRY (R56, R57): after TKE_HOLDLIM reference cycles in HOLDOVER, the lowest-numbered of the rack masters that
reach one another becomes the crown with its own counter value; any other module enters UNLOCKED. -/
def holdoverLimitExpiryOp (reach : List Nat) (s : State) : State :=
  if s.tick.own ≠ .holdover ∨ s.tick.hovr < (s.reg tkeHoldlim).toNat then s
  else
    let me := s.nodeId.getD 0x1FFF
    let low := reach.foldl min me
    if s.tick.role = .rackMaster ∧ low = me then s.becomeCrown me
    else if s.tick.role = .rackMaster then (s.setCrown low).enterT .unlocked
    else s.enterT .unlocked

/-- CROWN_MEET (R56, R57): of two crowns that reach each other, the one with the higher node ID yields. -/
def crownMeetOp (other : Nat) (s : State) : State :=
  if s.tick.role ≠ .crown ∨ s.nodeId.getD 0x1FFF ≤ other then s
  else ((s.setCrown other).onTick fun t => { t with role := .rackMaster, parent := some other }).enterT .unlocked

/-- TICK_STEP_OR_HOLD (R57, R58): at a tick boundary the pending offset is stepped (behind) or held (ahead), together
with all the followers. -/
def tickStepOrHoldOp (s : State) : State :=
  match s.tick.stepPend with
  | none => s
  | some d =>
    if s.tick.phase ≠ 0 ∨ s.tick.own = .locked ∨ s.tick.own = .holdover then s
    else
      let s1 := s.onTick fun t => { t with stepPend := none, slew := 0 }
      let s2 := if d < 0 then s1.stepTo (s1.nowRc + d.natAbs) else s1.holdFor d.natAbs
      let at_ := if d < 0 then s2.nowRc else s2.nowRc - d.natAbs
      s2.emit (.tickLoad none s1.nowRc (at_ / s2.tick.n) (at_ % s2.tick.n) s2.tick.n s2.tick.pend 0 s2.tick.own.code)

/-- PERIOD_CHANGE_RECEIVE (R41): a module takes the crown's accepted change from the tick virtual channel. -/
def periodChangeReceiveOp (n : Nat) (tick : Word) (s : State) : State :=
  if s.tick.pend.isSome then s else s.onTick fun t => { t with pend := some (n, tick.toNat) }

end Sys2Proof.Machine
end

