-- ==== Sys2Proof/Machine/Tiers.lean ====
section
/-! DEFINITION. Extents, chunks and migration requests: the table, the checks at acceptance, the queue, and what a finished request leaves (R298 to R306, R315). -/

namespace Sys2Proof.Machine

open Adr

/-- The bytes of a chunk of the wide or the deep tier (R286). -/
def chunkSize (deep : Bool) : Nat := if deep then 2 ^ 21 else 2 ^ 18
/-- The key of a chunk's first byte. -/
def chunkKey (deep : Bool) (c : Nat × Nat) : Nat :=
  if deep then (c.1 * 2 ^ 32 + c.2) * 2 ^ 21 else (c.1 * 2 ^ 21 + c.2) * 2 ^ 18

namespace State

def extent (s : State) (n : Nat) : ExtentSt := s.mem.extents.at n
def onExtent (s : State) (n : Nat) (f : ExtentSt → ExtentSt) : State :=
  s.onMem fun m => { m with extents := m.extents.upd n f }
def onDdr (s : State) (c : Nat) (f : DdrSt → DdrSt) : State := s.onMem fun m => { m with ddr := m.ddr.upd c f }
def onDpp (s : State) (i : Nat) (f : DppSt → DppSt) : State := s.onMem fun m => { m with dpp := m.dpp.upd i f }

/-- Whole chunks that a channel or port offers: DIMM and SSD capacities are decimal (R297, R310). -/
def chanCap (s : State) (deep : Bool) (i : Nat) : Nat :=
  if deep then (s.mem.dpp.at i).capB / 2 ^ 21 else (s.mem.ddr.at i).capGB * 10 ^ 9 / 2 ^ 18

/-- Channels or ports that take new chunks, in ascending order (R298, R315). -/
def chansInService (s : State) (deep : Bool) : List Nat :=
  if deep then (List.range 4).filter fun i => (s.mem.dpp.at i).st == .active && (s.mem.dpp.at i).nvmeReady
  else (List.range s.variant.channels).filter fun c => (s.mem.ddr.at c).st == .active

/-- The chunks in use on a tier; those that a MOVE writes lie in the deep tier, and a relocation's in its own (R301, R315). -/
def usedChunks (s : State) (deep : Bool) : List (Nat × Nat) :=
  (s.mem.extents.flatMap fun p => (if p.2.deep = deep then p.2.chunks else []) ++ (if deep then p.2.newChunks else []))
    ++ (s.mem.relocs.filterMap fun r => if r.deep = deep then some r.dst else none)

/-- Whether a chunk on a channel or port is in use. -/
def portUsed (s : State) (deep : Bool) (i : Nat) : Bool := (s.usedChunks deep).any fun c => c.1 == i

/-- A draining channel or port on which no chunk is left enters FENCED (R315); a channel's fence is counted (R323). -/
def endDrains (s : State) : State :=
  let s1 := (List.range 36).foldl (fun (t : State) c =>
    if (t.mem.ddr.at c).st = .draining ∧ t.portUsed false c = false then (t.onDdr c fun d => { d with st := .fenced }).raise (ddrEvt c) 2
    else t) s
  (List.range 4).foldl (fun (t : State) i =>
    if (t.mem.dpp.at i).st = .draining ∧ t.portUsed true i = false then t.onDpp i fun d => { d with st := .fenced } else t) s1

/-- Free chunks of a tier (MIG_FREEW, MIG_FREED). -/
def freeChunks (s : State) (deep : Bool) : Nat :=
  let chs := s.chansInService deep
  (chs.map (s.chanCap deep)).foldl (· + ·) 0 - ((s.usedChunks deep).filter fun c => c.1 ∈ chs).length

/-- The lowest free chunk of a channel, given the chunks in use. -/
def lowestChunk (s : State) (deep : Bool) (used : List (Nat × Nat)) (ch : Nat) : Option Nat :=
  (List.range (min (s.chanCap deep ch) (used.length + 1))).find? fun n => !used.contains (ch, n)

/-- `n` chunks placed in turn on the channels in service, the first at the index of the slot modulo their number; a
full channel is passed over (R298). -/
def allocChunks (s : State) (deep : Bool) (chs : List Nat) (start : Nat) : Nat → List (Nat × Nat) → Option (List (Nat × Nat))
  | 0, _ => some []
  | n + 1, used =>
    let order := (List.range chs.length).map fun i => chs.getD ((start + i) % chs.length) 0
    match order.findSome? fun ch => (s.lowestChunk deep used ch).map fun c => (ch, c) with
    | none => none
    | some c =>
      match s.allocChunks deep chs (chs.idxOf c.1 + 1) n (c :: used) with
      | none => none
      | some r => some (c :: r)

/-- The chunks of a new extent of `len` bytes in slot `slot`. -/
def placeExtent (s : State) (deep : Bool) (slot len : Nat) : Option (List (Nat × Nat)) :=
  let chs := s.chansInService deep
  if chs = [] then none
  else s.allocChunks deep chs (slot % chs.length) (ceilDiv len (chunkSize deep)) (s.usedChunks deep)

/-- The slot that a handle names, unless it is stale (R37, R299). -/
def extOf (s : State) (h : BitVec 32) : Option Nat :=
  let slot := h.toNat % 2 ^ 24
  let e := s.extent slot
  if e.st = .free ∨ e.dying ∨ e.inc ≠ h.toNat / 2 ^ 24 then none else some slot

/-- The handle of the extent in a slot (R37). -/
def handleOf (s : State) (slot : Nat) : BitVec 32 := BitVec.ofNat 32 (slot + (s.extent slot).inc * 2 ^ 24)

/-- The lowest slot never issued that no extent, and no durable extent of the catalogue, holds (R37, R306). -/
def newSlot (s : State) : Option Nat :=
  ((List.range (s.mem.extents.length + s.mem.catalogue.length + 1)).map (s.mem.extNext + ·)).find? fun n =>
    n < 2 ^ 24 && (s.extent n).st == .free && s.mem.catalogue.all fun p => p.1 % 2 ^ 24 != n

/-- The slot that the next extent takes: a slot never issued, else the least recently freed (R37). -/
def nextSlot (s : State) : Option Nat :=
  match s.newSlot with
  | some n => some n
  | none => s.mem.extFreed.head?

/-- The slot is taken off the free slots. -/
def takeSlot (s : State) : State :=
  match s.newSlot with
  | some n => s.onMem fun m => { m with extNext := n + 1 }
  | none => s.onMem fun m => { m with extFreed := m.extFreed.drop 1 }

/-- `len` bytes of an extent from `ofs` on. -/
def extBytes (s : State) (slot ofs len : Nat) : List Byte :=
  let e := s.extent slot
  let cs := chunkSize e.deep
  let m := if e.deep then s.mem.deep else s.mem.wide
  (List.range len).map fun i => m.at (chunkKey e.deep (e.chunks.getD ((ofs + i) / cs) (0, 0)) + (ofs + i) % cs)

/-- Bytes written into chunks of a tier, from the first byte on, the last 4 KiB unit filled with zeros (R294). -/
def putChunks (s : State) (deep : Bool) (cs : List (Nat × Nat)) (d : List Byte) : State :=
  let size := chunkSize deep
  let d := d ++ List.replicate (ceilDiv d.length 4096 * 4096 - d.length) 0
  s.onMem fun m =>
    let w := ((chunk size d).zip cs).foldl (fun acc p => acc.putRow (chunkKey deep p.2) p.1) (if deep then m.deep else m.wide)
    if deep then { m with deep := w } else { m with wide := w }

/-- The extent in a slot is freed: its chunks return to the pool, its slot joins the freed slots, a durable extent
leaves the catalogue (R299, R306). -/
def freeExtent (s : State) (slot : Nat) : State :=
  if (s.extent slot).st = .free then s
  else
    let h := (s.handleOf slot).toNat
    ((s.onExtent slot fun e => { (default : ExtentSt) with inc := e.inc }).onMem fun m =>
      { m with extFreed := m.extFreed ++ [slot], relocs := m.relocs.filter fun r => r.slot ≠ slot, catalogue := m.catalogue.filter fun p => p.1 ≠ h }).endDrains.count migCntFree

/-- A FREE of the extent in a slot: it turns stale at once, and its chunks return when no write, move or copy still
uses them (R301). -/
def releaseExtent (s : State) (slot : Nat) : State :=
  let e := s.extent slot
  if e.st = .writing ∨ e.st = .moving ∨ e.copies > 0 then s.onExtent slot fun e => { e with dying := true }
  else s.freeExtent slot

/-- A handle's extent released when the handle is not stale. -/
def releaseHandle (s : State) (h : BitVec 32) : State :=
  match s.extOf h with
  | some slot => s.releaseExtent slot
  | none => s

/-- An extent becomes LOST (R315). -/
def loseExtent (s : State) (slot : Nat) : State :=
  (s.onExtent slot fun e => { e with st := .lost }).raise migEvt 1

/-- Whether a key slot holds a key, for a non-system request (R305, R539). -/
def keyOk (s : State) (system : Bool) (key : Nat) : Bool := system || (s.keys.at key).installed

/-- The key identity of a request's data: the system key is 0 (R293). -/
def reqKid (s : State) (system : Bool) (key : Nat) : Nat := if system then 0 else (s.keys.at key).kid

/-! Requests. -/

/-- The frames of a near range. -/
def framesOf (nta len : Nat) : List Nat :=
  let o := taOfs nta
  (List.range (ceilDiv (o % 2 ^ 25 + len) (2 ^ 25))).map fun i => o / 2 ^ 25 + i

/-- The access that a request makes (R291). -/
def reqAccess (r : MigReq) : Access := ⟨r.glove, r.key, r.system⟩

/-- Whether a near range may be accessed whole under R291. -/
def nearOk (s : State) (nta len : Nat) (a : Access) (write : Bool) : Bool :=
  (framesOf nta len).all fun f => f < 65536 && (s.nearCheck f a write).isNone

/-- Whether a counter name lies in the request's glove, or the request is the system's. -/
def reqCounterOk (s : State) (r : MigReq) (n : Nat) : Bool :=
  s.nameInGlove r.glove (BitVec.ofNat 64 n) || (r.system && n / 16 % 512 < 288)

/-- The checks of R303, in order: 0 when the request is accepted. -/
def migCheck (s : State) (r : MigReq) : Nat :=
  let e := s.extent r.slot
  let range := r.op = 1 ∨ r.op = 2
  if r.op = 0 ∨ r.op > 4 ∨ r.prio > 2 ∨ (r.durable ∧ (r.op ≠ 1 ∨ r.dest = 0)) then stBound
  else if range ∧ (r.nta % 64 ≠ 0 ∨ r.len % 64 ≠ 0 ∨ r.len < 64 ∨ r.len > 2 ^ 36 ∨ taSpace r.nta ≠ 1 ∨ r.nta / 2 ^ 56 ≠ 0
      ∨ nearFrame (taOfs r.nta) = none ∨ taOfs r.nta + r.len > 2 ^ 41) then stBound
  else if r.op = 2 ∧ (r.arg % 64 ≠ 0 ∨ (match s.extOf (BitVec.ofNat 32 r.slot) with
      | some n => decide (r.arg + r.len > (s.extent n).len) | none => false) = true) then stBound
  else if (match r.done with | some d => !s.reqCounterOk r d | none => false)
      || (match r.gate with | some g => !s.reqCounterOk r g.1 | none => false) then stBound
  else if range ∧ s.nearOk r.nta r.len (reqAccess r) (r.op == 2) = false then stOwner
  else if r.op ≠ 1 ∧ s.extOf (BitVec.ofNat 32 r.slot) = none then stStale
  else
    let slot := r.slot % 2 ^ 24
    let e := if r.op = 1 then e else s.extent slot
    if r.op = 2 ∧ e.st = .writing then stConflict
    else if r.op = 3 ∧ (e.st = .writing ∨ e.st = .moving ∨ (e.st = .sealed ∧ e.deep)) then stConflict
    else if (r.op = 2 ∨ r.op = 3) ∧ e.st = .lost then stLost
    else if r.op = 2 ∧ e.durable ∧ e.system = false ∧ s.keyOk false e.key = false then stKeyAbsent
    else if r.op ≠ 1 ∧ r.system = false ∧ r.key ≠ e.key then stOwner
    else if r.op = 1 ∧ s.nextSlot = none then stFull
    else if r.op = 1 ∧ s.placeExtent (r.dest == 1) (s.nextSlot.getD 0) r.len = none then stTierFull
    else if r.op = 3 ∧ s.placeExtent true slot e.len = none then stTierFull
    else 0

/-- A request that passes its checks takes its entry (R300, R303). A SEAL gets its extent, and HOLD is set on every
source frame; `image` is the source range as it stands now (R219). -/
def migTake (s : State) (r : MigReq) : State :=
  if r.op = 1 then
    let slot := s.nextSlot.getD 0
    let deep := r.dest == 1
    let cs := (s.placeExtent deep slot r.len).getD []
    let img := if r.image = [] then s.nearBytes (taOfs r.nta) r.len else r.image
    let s1 := (s.takeSlot).onExtent slot fun e =>
      { (default : ExtentSt) with
               st := .writing, inc := (e.inc + 1) % 256, deep := deep, len := r.len, key := r.key, glove := r.glove,
               system := r.system, kid := s.reqKid r.system r.key, expiry := none, durable := r.durable,
               ktag := (s.keys.at r.key).tag, chunks := cs, newChunks := [], dying := false, copies := 0 }
    let s2 := (framesOf r.nta r.len).foldl (fun t f => t.onFrame f fun x => { x with hold := true }) s1
    s2.onMem fun m => { m with queue := m.queue ++ [{ r with slot := slot, image := img }] }
  else
    let slot := r.slot % 2 ^ 24
    let s1 := s.onMem fun m => { m with queue := m.queue ++ [{ r with slot := slot }] }
    if r.op = 2 then s1.onExtent slot fun e => { e with copies := e.copies + 1 }
    else s1.onExtent slot fun e => { e with st := .moving, newChunks := (s.placeExtent true slot e.len).getD [] }

/-- A request joins those that wait for an entry, in order of arrival; its identity (R303). -/
def submit (s : State) (r : MigReq) : State :=
  s.onMem fun m => { m with waiting := m.waiting ++ [{ r with ident := m.nextReq }], nextReq := m.nextReq + 1 }

/-- The request under way or queued with an identity. -/
def reqById (s : State) (ident : Nat) : Option MigReq := s.mem.queue.find? fun r => r.ident == ident

/-- The source tier of a request: 0 near, 1 wide, 2 deep (R304). -/
def sourceTier (s : State) (r : MigReq) : Nat := if r.op = 1 then 0 else if (s.extent r.slot).deep then 2 else 1

/-- Whether a request's gate is open (R302). -/
def gateOpen (s : State) (r : MigReq) : Bool :=
  match r.gate with | none => true | some (n, v) => v ≤ s.arrival (BitVec.ofNat 64 n)

/-- The first of a list of requests by PRIO and then arrival. -/
def firstReq (l : List MigReq) : Option MigReq :=
  ((List.range 3).findSome? fun p => l.find? fun r => r.prio == p)

def setMoving (s : State) (ident : Nat) (b : Bool) : State :=
  s.onMem fun m => { m with queue := m.queue.map fun r => if r.ident = ident then { r with moving := b } else r }

/-- The relocation of a tier, when one is in progress. -/
def relocOf (s : State) (deep : Bool) : Option Reloc := s.mem.relocs.find? fun r => r.deep == deep
def setReloc (s : State) (deep moving : Bool) : State :=
  s.onMem fun m => { m with relocs := m.relocs.map fun r => if r.deep = deep then { r with moving := moving } else r }

/-- The next relocation of a tier (R315): the first chunk of a SEALED extent on the lowest channel or port that drains, and a free chunk
of another. -/
def nextReloc (s : State) (deep : Bool) : Option Reloc :=
  let on := fun (i : Nat) => s.mem.extents.findSome? fun p =>
    if p.2.deep = deep ∧ p.2.st = .sealed ∧ p.2.dying = false then (p.2.chunks.find? fun c => c.1 == i).map fun c => (p.1, c) else none
  let ports := (List.range (if deep then 4 else 36)).filter fun i =>
    (if deep then (s.mem.dpp.at i).st else (s.mem.ddr.at i).st) == .draining
  match ports.findSome? on with
  | none => none
  | some (slot, old) =>
    let chs := s.chansInService deep
    match s.allocChunks deep chs (slot % chs.length) 1 (s.usedChunks deep) with
    | some [c] => some ⟨deep, slot, old, c, true⟩
    | _ => none

/-- A tier with no request to run resumes its relocation, or begins the next (R304, R315). -/
def startReloc (s : State) (deep : Bool) : State :=
  match s.relocOf deep with
  | some _ => s.setReloc deep true
  | none => match s.nextReloc deep with
    | some r => s.onMem fun m => { m with relocs := m.relocs ++ [r] }
    | none => s

/-- A source tier takes its next request (R304): the relocations of R315 come at PRIO 2, behind the requests of that priority that wait,
save one that was paused. No request starts while a change to S2 or deeper waits or is in force (R449). -/
def migStart (s : State) (tier : Nat) : State :=
  let mine := s.mem.queue.filter fun r => s.sourceTier r == tier && !(r.op == 4)
  let held := s.rung.rung ≥ 2 || (s.rung.entering.isSome && (match s.rung.pend with | some p => p.1 ≥ 2 | none => false))
  let deep := tier == 2
  let rel := if tier = 0 then none else s.relocOf deep
  if held then s
  else match firstReq (mine.filter fun r => !r.moving && s.gateOpen r) with
    | none => if tier = 0 ∨ mine.any (·.moving) then s else s.startReloc deep
    | some r =>
      match mine.find? (·.moving) with
      | some run => if r.prio = 0 ∧ run.prio ≥ 1 then (s.setMoving run.ident false).setMoving r.ident true else s
      | none =>
        match rel with
        | none => s.setMoving r.ident true
        | some x =>
          if x.moving then (if r.prio = 0 then (s.setReloc deep false).setMoving r.ident true else s)
          else if r.prio ≥ 2 then s.setReloc deep true
          else s.setMoving r.ident true

/-- A request leaves the queue. -/
def dropReq (s : State) (ident : Nat) : State :=
  s.onMem fun m => { m with queue := m.queue.filter fun r => r.ident ≠ ident }

/-- The writes held for one unit proceed (R300): one that has to merge into a unit poisoned meanwhile is refused, but for a drain's, which
is merged (R268, R296). -/
def releaseHeld (s : State) (f u : Nat) : State :=
  let ws := s.mem.heldWrites.filter fun w => w.frame = f ∧ w.unit = u
  let s1 := s.onMem fun m => { m with heldWrites := m.heldWrites.filter fun w => !(w.frame = f ∧ w.unit = u) }
  ws.foldl (fun t w => if w.drain then t.writeBits f u (w.mask, w.bits) else (t.nearWrite f u (w.mask, w.bits)).1) s1

/-- HOLD clears on the frames of a seal that has left the queue, when no other seal in WRITING reads them, and the held
writes that wait for no other seal proceed (R300). -/
def clearHold (s : State) (r : MigReq) : State :=
  let others := (s.mem.queue.filter fun x => x.op == 1).flatMap fun x => framesOf x.nta x.len
  let s1 := ((framesOf r.nta r.len).filter fun f => !others.contains f).foldl (fun t f => t.onFrame f fun x => { x with hold := false }) s
  ((s1.mem.heldWrites.map fun w => (w.frame, w.unit)).eraseDups.filter fun w => !s1.unitHeld w.1 w.2).foldl (fun t w => t.releaseHeld w.1 w.2) s1

/-- Whether a near range holds a poisoned unit. -/
def rangePoisoned (s : State) (nta len : Nat) : Bool :=
  (framesOf nta len).any fun f => ((s.stack (s.frame f).stack).poisonList.any fun p =>
    p.1 = f && taOfs nta ≤ f * 2 ^ 25 + 64 * p.2 + 63 && f * 2 ^ 25 + 64 * p.2 < taOfs nta + len)

/-- A failed request is counted (R305). -/
def migFailCount (s : State) : State := s.raise migEvt 0

/-- Whether chunks lie on a channel or port that is fenced or absent (R315). -/
def chunksFenced (s : State) (deep : Bool) (cs : List (Nat × Nat)) : Bool :=
  cs.any fun c =>
    let st := if deep then (s.mem.dpp.at c.1).st else (s.mem.ddr.at c.1).st
    st == .fenced || st == .absent

/-- A SEAL ends: its status, and what it leaves (R301, R305, R306). -/
def sealEnd (s : State) (r : MigReq) (io : Bool) : State × Nat :=
  let s1 := (s.dropReq r.ident).clearHold r
  let e := s.extent r.slot
  if s.keyOk r.system r.key = false then ((s1.freeExtent r.slot).migFailCount, stKeyAbsent)
  else if io ∨ s.chunksFenced e.deep e.chunks ∨ s.rangePoisoned r.nta r.len then ((s1.freeExtent r.slot).migFailCount, stIo)
  else if e.dying then (((s1.freeExtent r.slot).count migCntSeal).migFailCount, stStale)
  else
    let s2 := ((s1.putChunks e.deep e.chunks r.image).onExtent r.slot fun e =>
      { e with st := .sealed, expiry := if r.arg = 0 then none else some (s.tick.tick + r.arg) }).stampExtent r.slot
    let s3 := if e.durable then s2.onMem fun m =>
        { m with catalogue := m.catalogue ++ [((s2.handleOf r.slot).toNat, s2.extent r.slot)] } else s2
    (s3.count migCntSeal, stOK)

/-- A unit-by-unit copy up: the first unit that R291 refuses stops it with that status (R305). -/
def copyUnits (s : State) (ofs : Nat) (a : Access) : List (List Byte) → State × Nat
  | [] => (s, stOK)
  | u :: rest =>
    let f := ofs / 2 ^ 25
    match s.nearCheck f a true with
    | some r => (s.refuseNear f (ofs / 64 % 2 ^ 19) r a true, match r with | .bound => stBound | .owner => stOwner)
    | none => (s.nearWrite f (ofs / 64 % 2 ^ 19) (2 ^ 512 - 1, ofBytes u)).1.copyUnits (ofs + 64) a rest

/-- A copy no longer reads an extent; a freed extent's chunks return with the last copy (R301). -/
def endCopy (s : State) (slot : Nat) : State :=
  let s1 := s.onExtent slot fun e => { e with copies := e.copies - 1 }
  if (s1.extent slot).dying ∧ (s1.extent slot).copies = 0 ∧ (s1.extent slot).st ≠ .moving then s1.freeExtent slot else s1

/-- DONE advances by one; at all ones it does not, and is counted and logged as a refused counted write (R262, R305). -/
def advanceDone (s : State) (d glove : Nat) : State :=
  let n := ctrName (BitVec.ofNat 64 d)
  if s.arrival (BitVec.ofNat 64 d) = 0xFFFFFFFF then
    s.refuseRemote n.1 (BitVec.ofNat 64 (n.2.1 + 2 * 2 ^ 12 + glove % 64 * 2 ^ 14))
  else s.bumpArrival n.1 n.2.1 n.2.2

/-- A failed COPYUP is counted and leaves its near destination undefined (R305). -/
def copyupFails (s : State) (r : MigReq) : State :=
  ((framesOf r.nta r.len).foldl (fun t f =>
    if (t.nearCheck f (reqAccess r) true).isSome then t
    else
      let lo := max (taOfs r.nta) (f * 2 ^ 25)
      t.scrambleNear lo (min (taOfs r.nta + r.len) ((f + 1) * 2 ^ 25) - lo)) s).migFailCount

/-- Whether a write to a request's near range waits for a seal (R300). -/
def rangeHeld (s : State) (r : MigReq) : Bool :=
  s.mem.heldWrites.any fun w => taOfs r.nta ≤ w.frame * 2 ^ 25 + 64 * w.unit && w.frame * 2 ^ 25 + 64 * w.unit < taOfs r.nta + r.len

/-- A COPYUP ends with a status (R301, R305). -/
def copyupEnd (s : State) (r : MigReq) (st : Nat) : State :=
  let s1 := (s.dropReq r.ident).endCopy r.slot
  if st = stOK then s1.count migCntCopyup else s1.copyupFails r

/-- A COPYUP presents its units to their controllers; the status when that ends it, and none while units wait for a seal (R300, R301,
R305). -/
def copyupPlace (s : State) (r : MigReq) (io : Bool) : State × Option Nat :=
  let e := s.extent r.slot
  if r.placed then (s, if s.rangeHeld r then none else some stOK)
  else if s.keyOk (r.system || e.system) (if r.system then e.key else r.key) = false then (s, some stKeyAbsent)
  else if e.st = .lost then (s, some stLost)
  else if io then (s, some stIo)
  else
    let (s1, st) := s.copyUnits (taOfs r.nta) (reqAccess r) (chunk 64 (s.extBytes r.slot r.arg r.len))
    if st = stOK ∧ s1.rangeHeld r then
      (s1.onMem fun m => { m with queue := m.queue.map fun q => if q.ident = r.ident then { q with placed := true } else q }, none)
    else (s1, some st)

/-- A MOVE ends once no copy reads the wide chunks: the extent switches to its deep chunks (R301, R305). -/
def moveEnd (s : State) (r : MigReq) (io : Bool) : State × Nat :=
  let e := s.extent r.slot
  let s1 := s.dropReq r.ident
  let back : State := (s1.onExtent r.slot fun e => { e with st := if e.st = .lost then .lost else .sealed, newChunks := [] }).endDrains
  let fail := fun (st : Nat) => ((if e.dying ∧ e.copies = 0 then back.freeExtent r.slot else back).migFailCount, st)
  if s.keyOk r.system r.key = false then fail stKeyAbsent
  else if e.st = .lost then fail stLost
  else if io then fail stIo
  else if e.dying then (((s1.freeExtent r.slot).count migCntMove).migFailCount, stStale)
  else
    let d := s.extBytes r.slot 0 e.len
    (((((s1.putChunks true e.newChunks d).onExtent r.slot fun e =>
      { e with st := .sealed, deep := true, chunks := e.newChunks, newChunks := [],
               expiry := if r.arg = 0 then none else some (s.tick.tick + r.arg) })).stampExtent r.slot).endDrains.count migCntMove, stOK)

/-- The count of live extents (MIG_LIVE). -/
def liveExtents (s : State) : Nat := (s.mem.extents.filter fun p => p.2.st ≠ .free).length

/-- A migration request by the system. -/
def sysReq (op prio : Nat) (from_ : MigFrom) : MigReq :=
  { (default : MigReq) with op := op, prio := prio, system := true, from_ := from_ }

end State

end Sys2Proof.Machine
end

