-- ==== Sys2Proof/Machine/Pages.lean ====
section
/-! DEFINITION. KV pages, KV directories, prefix trees, and what leaves a sequence (R359, R372 to R377, R398 to R405). -/

namespace Sys2Proof.Machine

open Adr

namespace State

def seqEnt (s : State) (i : Nat) : SeqEnt := s.stw.seqt.at i
def serve (s : State) (g : Nat) : ServeSt := s.stw.serve.at g
def model (s : State) (m : Nat) : MdlSt := s.stw.models.at m
def adapter (s : State) (a : Nat) : AdpSt := s.stw.adapters.at a
def node (s : State) (n : Nat) : NodeSt := s.stw.nodes.at n

/-- The handle of a SEQT entry (R355). -/
def seqHandle (s : State) (i : Nat) : Nat := i + (s.seqEnt i).inc * 2 ^ 17

/-- The code of a sequence's state (R354). -/
def qcode (q : QState) : Nat :=
  match q with
  | .free => 0 | .admitted => 1 | .prefill => 2 | .decode => 3 | .pausedNear => 4 | .pausedWide => 5 | .pausedDeep => 6
  | .complete => 7 | .cancelled => 8 | .expired => 9

/-! The free list and the directory. -/

def freePages (s : State) (g : Nat) : List Nat := s.stw.pages.at g
def setPages (s : State) (g : Nat) (l : List Nat) : State := s.onStw fun b => { b with pages := b.pages.put g l }
/-- Pages return to their glove's free list. -/
def givePages (s : State) (g : Nat) (l : List Nat) : State := s.setPages g (s.freePages g ++ l)

/-- The 128 pages of a frame, as near-tier offsets (R372). -/
def framePages (f : Nat) : List Nat := (List.range 128).map fun i => f * 2 ^ 25 + i * 2 ^ 18

/-- A frame that becomes PRIVATE to a glove adds its pages when it is one of the glove's KV frames. Which frames are KV
frames is open: Config.kvFrame says. -/
def addKvFrame (s : State) (g f : Nat) : State := if Config.kvFrame g f then s.givePages g (framePages f) else s

/-- A frame that leaves a glove takes its free pages with it. -/
def dropKvFrame (s : State) (g f : Nat) : State := s.setPages g ((s.freePages g).filter fun p => p / 2 ^ 25 ≠ f)

/-- The near-tier offset of entry `b` of list `grp` in the directory of sequence `i` (R257, R373). -/
def dirEntry (s : State) (i grp b : Nat) : Nat :=
  let nb := ceilDiv (s.model (s.seqEnt i).model).ctxmax 64
  (taOfs (s.seqEnt i).kvd) + grp * (ceilDiv (16 + 8 * nb) 64 * 64) + 16 + 8 * b

/-- The steward writes near-tier bytes as the system, where the frames are mapped (R363, R366, R408). -/
def stewardWrite (s : State) (ta : Nat) (d : List Byte) : State :=
  if taSpace ta = 1 ∧ (nearFrame (taOfs ta)).isSome ∧ s.nearOk ta d.length ⟨0, 0, true⟩ true then s.putNear (taOfs ta) d else s

/-- The steward writes bytes of a directory where its frames are mapped: where the directory lies is open
(Config.kvDirectory). -/
def putDir (s : State) (ofs : Nat) (d : List Byte) : State := s.stewardWrite (2 ^ 52 + ofs) d

/-- The steward writes one entry of a directory: the page's near-tier address, or 0 for a hole. -/
def writeDir (s : State) (i grp b : Nat) (page : Option Nat) : State :=
  s.putDir (s.dirEntry i grp b) (toBytes (match page with | some p => 2 ^ 52 + p | none => 0) 8)

/-- The directory of a new sequence: one empty block list per page group (R257, R373). -/
def newDir (s : State) (i : Nat) : State :=
  let m := s.model (s.seqEnt i).model
  let nb := ceilDiv m.ctxmax 64
  (List.range m.g).foldl (fun t grp =>
    t.putDir (t.dirEntry i grp 0 - 16) (toBytes (nb + 18 * 2 ^ 32) 8 ++ List.replicate (8 + 8 * nb) 0)) s

/-- The blocks and groups in which a sequence lacks a page up to position `p - 1` (R374). -/
def missingPages (s : State) (i p : Nat) : List (Nat × Nat) :=
  let e := s.seqEnt i
  (List.range (ceilDiv p 64)).flatMap fun b =>
    ((List.range (s.model e.model).g).filter fun grp => !e.pages.any fun r => r.group == grp && r.block == b).map fun grp => (grp, b)

/-- One page given to a sequence. -/
def grantPage (s : State) (i : Nat) (gb : Nat × Nat) (page : Nat) (tree : Bool) : State :=
  (s.onSeqEnt i fun e => { e with pages := e.pages ++ [⟨gb.1, gb.2, page, tree⟩] }).writeDir i gb.1 gb.2 (some page)

/-- Pages of a sequence dropped: those it owns return to the free list, and its directory names them no more. -/
def dropPages (s : State) (i : Nat) (which : PageRef → Bool) : State :=
  let e := s.seqEnt i
  let gone := e.pages.filter which
  let s1 := s.onSeqEnt i fun e => { e with pages := e.pages.filter fun r => !which r }
  let s2 := gone.foldl (fun t r => t.writeDir i r.group r.block none) s1
  s2.givePages e.glove ((gone.filter fun r => !r.tree).map (·.page))

/-- R375 with row length `n`: pages of blocks at or beyond CLEN + n return to the free list. -/
def trimPages (s : State) (i n : Nat) : State :=
  s.dropPages i fun r => 64 * r.block ≥ (s.seqEnt i).clen + n

/-! Prefix trees. -/

def liveNodes (s : State) : List (Nat × NodeSt) := s.stw.nodes.filter fun p => p.2.live

/-- Whether a node is a root. -/
def isRoot (s : State) (n : Nat) : Bool := s.stw.roots.any fun p => p.2 == n

/-- The root of a tree, made when there is none: key slots 0 to 255, the public tree at 256 (R400). -/
def freeNode (s : State) : Option Nat :=
  ((List.range (min s.stw.pool (s.liveNodes.length + 1))).map (· + 1)).find? fun n => n ≤ s.stw.pool && !(s.node n).live

def rootOf (s : State) (t : Nat) : State × Nat :=
  let n := s.stw.roots.at t
  if n ≠ 0 then (s, n)
  else match s.freeNode with
    | none => (s, 0)
    | some n => ((s.onNode n fun _ => { (default : NodeSt) with live := true, pub := t = 256, key := if t = 256 then s.fld pfxCfg 0 8 else t }).onStw
        fun b => { b with roots := b.roots.put t n }, n)

/-- The digest of a block (R399). -/
def blockDigest (prev : BitVec 128) (model version adp adpVersion : Nat) (toks : List Nat) : BitVec 128 :=
  BitVec.ofNat 128 (ofBytes (Config.shake256 (toBytes prev.toNat 16 ++ toBytes model 4 ++ toBytes version 2 ++ toBytes adp 2
    ++ toBytes adpVersion 2 ++ toks.flatMap fun t => toBytes t 4) 16))

/-- The digest of the next block of sequence `i`, after `prev` (R399). -/
def seqDigest (s : State) (i : Nat) (prev : BitVec 128) (toks : List Nat) : BitVec 128 :=
  let e := s.seqEnt i
  blockDigest prev e.model (s.model e.model).version (if e.adp then e.adapter + 1 else 0)
    (if e.adp then (s.adapter e.adapter).version else 0) toks

/-- A child of `n` with a digest, not STALE, public or of glove `g` (R401). -/
def childOf (s : State) (n : Nat) (d : BitVec 128) (g : Nat) : Option Nat :=
  (s.liveNodes.find? fun p => p.2.parent == n && !s.isRoot p.1 && p.2.digest == d && !p.2.stale && (p.2.pub || p.2.glove == g)).map (·.1)

/-- The siblings that a scan under `n` reads until it finds child `c`, or all of them. -/
def scanReads (s : State) (n : Nat) (c : Option Nat) : Nat :=
  let sib := (s.liveNodes.filter fun p => p.2.parent == n && !s.isRoot p.1).map (·.1)
  match c with
  | some x => sib.idxOf x + 1
  | none => sib.length

/-- One evictable node of a glove's frames: a leaf without references, STALE nodes first, then the oldest LAST
(R403). -/
def evictable (s : State) (g : Nat) : Option Nat :=
  let c := s.liveNodes.filter fun p =>
    p.2.refs == 0 && !s.isRoot p.1 && p.2.glove == g && !(s.liveNodes.any fun q => q.2.parent == p.1 && q.1 != p.1)
  let best := fun (l : List (Nat × NodeSt)) => l.foldl (fun (acc : Option (Nat × NodeSt)) p =>
    match acc with | none => some p | some q => if p.2.last < q.2.last then some p else some q) none
  match best (c.filter fun p => p.2.stale) with
  | some p => some p.1
  | none => (best c).map (·.1)

/-- A node removed: the pages it holds return to its glove's free list; those of a public node are free with it. -/
def removeNode (s : State) (n : Nat) : State :=
  let x := s.node n
  let s1 := s.onStw fun b => { b with nodes := b.nodes.put n default, roots := b.roots.filter fun p => p.2 ≠ n }
  if x.pub then s1 else s1.givePages x.glove x.pages

/-- Eviction until a need is met or nothing more can be evicted (R403). -/
def evictUntil (s : State) (g : Nat) (met : State → Bool) : Nat → State
  | 0 => s
  | k + 1 =>
    if met s then s
    else match s.evictable g with
      | none => s
      | some n => ((s.removeNode n).count pfxCntEvict).evictUntil g met k

/-- A reference on a node dropped; 0 names none. -/
def dropRef (s : State) (n : Nat) : State := if n = 0 then s else s.onNode n fun x => { x with refs := x.refs - 1 }
def addRef (s : State) (n : Nat) : State := if n = 0 then s else s.onNode n fun x => { x with refs := x.refs + 1 }

/-- Every page of a sequence freed, and its reference dropped (R403). -/
def freeCache (s : State) (i : Nat) : State :=
  let s1 := s.dropPages i fun _ => true
  (s1.dropRef (s1.seqEnt i).refnode).onSeqEnt i fun e => { e with refnode := 0, pnode := 0 }

/-- Every extent of a sequence released (R359). -/
def freeExtents (s : State) (i : Nat) : State :=
  ((s.seqEnt i).handles.foldl (fun t h => t.releaseHandle h) s).onSeqEnt i fun e => { e with handles := [] }

/-- A step build that finds too few free pages for a sequence up to position `p - 1` evicts nodes of its glove's frames until the need is
met or none remain (R374, R403). -/
def makeRoom (s : State) (i p : Nat) : State :=
  let need := s.missingPages i p
  s.evictUntil (s.seqEnt i).glove (fun t => need.length ≤ (t.freePages (s.seqEnt i).glove).length) s.stw.nodes.length

/-- Pages taken for a sequence up to position `p - 1`: none when too few are free (R374). -/
def takePages (s : State) (i p : Nat) : Option State :=
  let e := s.seqEnt i
  let need := s.missingPages i p
  if need.length ≤ (s.freePages e.glove).length then
    let got := (s.freePages e.glove).take need.length
    let s2 := s.setPages e.glove ((s.freePages e.glove).drop need.length)
    some ((need.zip got).foldl (fun t x => t.grantPage i x.1 x.2 false) s2)
  else none

/-- The walk of one tree at admission (R401): the last node matched, the blocks matched, the digest, and the nodes
read. -/
def walkTree (s : State) (i g : Nat) (toks : List Nat) (limit : Nat) :
    Nat → Nat → Nat → BitVec 128 → Nat → Nat × Nat × BitVec 128 × Nat × Bool
  | 0, n, b, d, reads => (n, b, d, reads, false)
  | k + 1, n, b, d, reads =>
    if 64 * (b + 1) > limit then (n, b, d, reads, false)
    else if reads ≥ 16384 then (n, b, d, reads, true)
    else
      let d1 := s.seqDigest i d ((toks.drop (64 * b)).take 64)
      let c := s.childOf n d1 g
      let reads1 := reads + s.scanReads n c
      match c with
      | none => (n, b, d, reads1, false)
      | some x => s.walkTree i g toks limit k x (b + 1) d1 reads1

/-- Whether glove `g` reads the public frames: the public tree is walked for it (R401, R404). -/
def publicReader (s : State) (g : Nat) : Bool :=
  s.fld pfxCfg 8 1 == 1 && s.mem.tmap.any fun p => p.2.mode == .shared && p.2.key == s.fld pfxCfg 0 8 && p.2.readers.getLsbD g

/-- The prefix walk of an admitted sequence whose prompt is `toks` (R358, R401). -/
def prefixWalk (s : State) (i : Nat) (toks : List Nat) : State :=
  let e := s.seqEnt i
  let (s0, root) := s.rootOf e.key
  let limit := e.plen - 1
  let own := s0.walkTree i e.glove toks limit (ceilDiv e.plen 64 + 1) root 0 0 0
  let proot := s0.stw.roots.at 256
  let pubw := if s0.publicReader e.glove ∧ proot ≠ 0 then s0.walkTree i e.glove toks limit (ceilDiv e.plen 64 + 1) proot 0 0 own.2.2.2.1
              else (0, 0, 0, 0, false)
  let usePub := pubw.2.1 > own.2.1
  let (n, best, dig) := if usePub then (pubw.1, pubw.2.1, pubw.2.2.1) else (own.1, own.2.1, own.2.2.1)
  let s1 := if own.2.2.2.2 ∨ pubw.2.2.2.2 then s0.count pfxCntCut else s0
  let s2 := if best = 0 then s1 else s1.count pfxCntHit best
  -- the path from the deepest node up gives the pages of blocks best - 1 down to 0
  let path := ((List.range best).foldl (fun (acc : List Nat) _ => (s2.node (acc.headD n)).parent :: acc) [n]).drop 1
  let s3 := ((List.range best).zip path).foldl (fun t p =>
    let x := t.node p.2
    ((x.pages.zipIdx).foldl (fun t q => t.grantPage i (q.2, p.1) q.1 true) t).onNode p.2 fun y => { y with last := t.tick.tick }) s2
  let s4 := s3.addRef n
  s4.onSeqEnt i fun e => { e with clen := 64 * best, plen := e.plen - 64 * best, ita := e.ita + 256 * best,
                                  refnode := n,
                                  pnode := if usePub then 0 else if best = 0 then root else n,
                                  chain := dig, toks := [] }

/-- A complete block of sequence `i` offered to the owner's tree (R402). `toks` are its 64 tokens. -/
def offerBlock (s : State) (i b : Nat) (toks : List Nat) : State :=
  let e := s.seqEnt i
  let d := s.seqDigest i e.chain toks
  let chain := fun (t : State) => t.onSeqEnt i fun e => { e with chain := d }
  if e.pnode = 0 then chain s
  else if (s.node e.pnode).stale then chain (s.onSeqEnt i fun e => { e with pnode := 0 })
  else
    let child := (s.liveNodes.find? fun p => p.2.parent == e.pnode && !s.isRoot p.1 && p.2.digest == d && !p.2.stale && p.2.glove == e.glove).map (·.1)
    let move := fun (t : State) (n : Nat) =>
      chain (((t.addRef n).dropRef e.refnode).onSeqEnt i fun e => { e with refnode := n, pnode := n })
    match child with
    | some n => move (s.onNode n fun x => { x with last := s.tick.tick }) n
    | none =>
      let s1 := if s.freeNode.isSome then s else s.evictUntil e.glove (fun t => t.freeNode.isSome) s.stw.nodes.length
      match s1.freeNode with
      | none => chain ((s1.raise resEvt 3).onSeqEnt i fun e => { e with pnode := 0 })
      | some n =>
        let mine := (List.range (s.model e.model).g).map fun grp =>
          ((e.pages.find? fun r => r.group == grp && r.block == b).map (·.page)).getD 0
        let s2 := s1.onNode n fun _ =>
          { live := true, pub := false, key := e.key, glove := e.glove, model := e.model, stale := false,
            adp := if e.adp then e.adapter + 1 else 0, digest := d, parent := e.pnode, block := b, pages := mine, refs := 0,
            last := s.tick.tick }
        let s3 := s2.onSeqEnt i fun e => { e with pages := e.pages.map fun r => if r.block = b then { r with tree := true } else r }
        move (s3.count pfxCntInsert) n

/-- Committed tokens enter the block in progress; each block that fills is offered (R377, R398, R402). `first` is the
block in progress when the tokens come. -/
def commitToks (s : State) (i : Nat) : List Nat → Nat → State
  | [], _ => s
  | t :: r, b =>
    let e := s.seqEnt i
    if e.toks.length + 1 = 64 then
      ((s.onSeqEnt i fun e => { e with toks := [] }).offerBlock i b (e.toks ++ [t])).commitToks i r (b + 1)
    else (s.onSeqEnt i fun e => { e with toks := e.toks ++ [t] }).commitToks i r b

/-! What leaves a sequence. -/

/-- On entry to a tier: EXPIRY is the tick plus the time-to-live, none for all ones, and the next boundary for a
skipped tier (R406). -/
def expiryFor (s : State) (ttl : Nat) : Nat :=
  if ttl = 2 ^ 64 - 1 then 0 else if ttl = 0 then s.tick.tick + 1 else s.tick.tick + ttl

/-- The sequence leaves every list of its glove's step building. -/
def leaveBatch (s : State) (i : Nat) : State :=
  s.onServe (s.seqEnt i).glove fun v =>
    { v with batch := v.batch.filter (· ≠ i), queue := v.queue.filter (· ≠ i), autoBack := v.autoBack.filter (· ≠ i) }

/-- The completion of KIND 2 that a sequence's end writes (R359, R511). -/
def seqEndCpl (s : State) (i status : Nat) : State :=
  let e := s.seqEnt i
  s.putCq e.cring 2 (s.cplWords (s.seqHandle i) 0 status 2
    (BitVec.ofNat 64 (qcode e.st + e.clen * 2 ^ 4 + e.outn * 2 ^ 24)) 0)

/-- A sequence enters CANCELLED or EXPIRED: every page and extent is freed, pages in a copy's use when that copy ends
(R359). -/
def endSeq (s : State) (i : Nat) (q : QState) (status : Nat) : State :=
  let s1 := s.leaveBatch i
  let s2 := s1.onSeqEnt i fun e => { e with st := q, expiry := 0, resuming := false, auto := false, retry := none,
                                            canreq := false, pausereq := false, dlen := 0,
                                            instep := false }
  let s3 := if (s2.seqEnt i).job.isSome then s2 else s2.freeCache i
  let s4 := (s3.freeExtents i).seqEndCpl i status
  let s5 := if q = .expired then s4.count resCntExpired else s4
  let s6 := (s.seqEnt i).cancelCmds.foldl (fun t c => t.complete c stOK) s5
  ((s.seqEnt i).pauseCmds.foldl (fun t c => (t.raise stwEvt 1).refuseState c 2 (qcode q) (s.seqHandle i)) s6).onSeqEnt i
    fun e => { e with cancelCmds := [], pauseCmds := [] }

/-- A cancel is applied (R359, R360). -/
def cancelSeq (s : State) (i : Nat) : State := (s.count stwCntCancel).endSeq i .cancelled stOK

/-- A sequence whose pages or extents are lost (R359). -/
def loseSeq (s : State) (i : Nat) : State := s.endSeq i .cancelled 0x4C

/-- A pause is applied: PAUSED_NEAR, and R375 with n = 0 (R359, R375, R406). -/
def pauseSeq (s : State) (i : Nat) : State :=
  let e := s.seqEnt i
  let s1 := ((s.leaveBatch i).onSeqEnt i fun x =>
    { x with st := .pausedNear, rfrom := e.st, pausereq := false, pauseCmds := [],
             expiry := if e.st = .complete then x.expiry else s.expiryFor e.ttln }).stampSeq i
  e.pauseCmds.foldl (fun t c => t.complete c stOK) (s1.trimPages i 0)

/-- A sequence returns to the state it left (R359, R410): a COMPLETE one waits, the others rejoin the batch ahead of
the admission queue. -/
def returnSeq (s : State) (i : Nat) : State :=
  let e := s.seqEnt i
  let s1 := (s.onSeqEnt i fun x => { x with
    st := e.rfrom, resuming := false, auto := false, run := 0, expiry := if e.rfrom = .complete then s.expiryFor e.ttln else 0 }).stampSeq i
  if e.rfrom = .complete then s1
  else s1.onServe e.glove fun v => { v with autoBack := v.autoBack ++ [i] }

end State

end Sys2Proof.Machine
end

