-- ==== Sys2Proof/Machine/Sampler.lean ====
section
/-! DEFINITION. The sampler: parameters, mask sources, the distribution, draws, the acceptance test (R386 to R396). -/

namespace Sys2Proof.Machine

open Adr

/-- A field of a little-endian byte list. -/
def leAt (d : List Byte) (ofs len : Nat) : Nat := ofBytes ((d.drop ofs).take len)

/-- The sampler parameters of R386. -/
structure SampPar where
  temp : Lane
  topp : Lane
  topk : Nat
  msrc : Nat
  trng : Bool
  stops : List Nat
  seed : Word
  mta : Nat
deriving DecidableEq, Repr, Inhabited

/-- An FP32 value that is negative and not zero. -/
def f32Negative (x : Lane) : Bool := fcmp 2 x 0

/-- The parameters in a record of 64 bytes, when it obeys R386 and TEMP and TOPP are no NaN (R391). -/
def parsePar (d : List Byte) : Option SampPar :=
  let w1 := leAt d 8 8
  let temp := BitVec.ofNat 32 (leAt d 0 4)
  let topp := BitVec.ofNat 32 (leAt d 4 4)
  let topk := w1 % 2 ^ 13
  let msrc := w1 / 2 ^ 13 % 4
  let nstop := w1 / 2 ^ 16 % 16
  if d.length ≠ 64 ∨ (f32 temp).isNan ∨ (f32 topp).isNan ∨ ((f32 temp).isNeg ∧ temp ≠ 0x80000000)
    ∨ topk > 4096 ∨ msrc = 3 ∨ nstop > 8 ∨ w1 / 2 ^ 20 ≠ 0 ∨ leAt d 31 1 ≠ 0 ∨ leAt d 56 8 ≠ 0 then none
  else some { temp := temp, topp := topp, topk := topk, msrc := msrc, trng := w1 / 2 ^ 15 % 2 == 1,
              stops := (List.range nstop).map fun i => leAt d (32 + 3 * i) 3,
              seed := BitVec.ofNat 64 (leAt d 16 8), mta := leAt d 24 7 }

/-- The value u of draw `d` at position `q`, as 24 bits (R388). -/
def seededDraw (seed : Word) (q d : Nat) : Nat :=
  let z0 : Word := seed + 0x9E3779B97F4A7C15 * BitVec.ofNat 64 (4 * q + d + 1)
  let z1 := (z0 ^^^ (z0 >>> 30)) * 0xBF58476D1CE4E5B9
  let z2 := (z1 ^^^ (z1 >>> 27)) * 0x94D049BB133111EB
  let z3 := z2 ^^^ (z2 >>> 31)
  (z3 >>> 40).toNat

/-- A 24-bit draw as an FP32 value below 1. -/
def drawF32 (u : Nat) : Lane := roundFP32 (.fin false u (-24))

namespace State

/-- Near-tier bytes read under a glove and its key slot, unless a unit is refused or poisoned (R291, R392). -/
def gloveRead (s : State) (g ta len : Nat) : Option (List Byte) :=
  let a : Access := ⟨g, (s.glove g).key, false⟩
  if taSpace ta ≠ 1 ∨ nearFrame (taOfs ta) = none ∨ s.nearOk ta len a false = false ∨ s.rangePoisoned ta len then none
  else some (s.nearBytes (taOfs ta) len)

/-- The header of a grammar automaton (R394): NSTATE, MROW, and the addresses of states, masks and transitions. -/
def gramHeader (s : State) (g mta vocab : Nat) : Option (Nat × Nat × Nat × Nat × Nat) :=
  match s.gloveRead g mta 64 with
  | none => none
  | some d =>
    let mrow := leAt d 12 4
    if leAt d 0 4 ≠ 0x41475A4C ∨ leAt d 4 4 ≠ vocab ∨ leAt d 8 4 = 0 ∨ mrow ≠ ceilDiv vocab 512 * 64
      ∨ leAt d 24 8 % 64 ≠ 0 ∨ leAt d 40 24 ≠ 0 then none
    else some (leAt d 8 4, mrow, leAt d 16 8, leAt d 24 8, leAt d 32 8)

/-- A state entry (R395): mask row, default, first transition, transitions, END. -/
def gramState (s : State) (g : Nat) (h : Nat × Nat × Nat × Nat × Nat) (x : Nat) : Option (Nat × Nat × Nat × Nat × Bool) :=
  if x ≥ h.1 then none
  else match s.gloveRead g (h.2.2.1 + 16 * x) 16 with
    | none => none
    | some d =>
      let w1 := leAt d 8 8
      let ntr := w1 / 2 ^ 32 % 2 ^ 19
      if w1 / 2 ^ 51 % 2 ^ 12 ≠ 0 ∨ ntr > 262144 then none
      else some (leAt d 0 4, leAt d 4 4, w1 % 2 ^ 32, ntr, w1 / 2 ^ 63 == 1)

/-- The transition entries of a state as (token, next) pairs, when they obey R395. -/
def gramTrans (s : State) (g : Nat) (h : Nat × Nat × Nat × Nat × Nat) (t n : Nat) : Option (List (Nat × Nat)) :=
  if n = 0 then some []
  else match s.gloveRead g (h.2.2.2.2 + 8 * t) (8 * n) with
    | none => none
    | some d =>
      let es := (chunk 8 d).map fun e => (leAt e 0 3, leAt e 4 4, leAt e 3 1)
      if es.any (fun e => e.2.2 ≠ 0) ∨ (es.zip (es.drop 1)).any (fun p => p.1.1 ≥ p.2.1) then none
      else some (es.map fun e => (e.1, e.2.1))

/-- next(s, x) of R395, and whether the state it enters has END = 1. Without an automaton the state stays (R396). -/
def gramNext (s : State) (g : Nat) (par : SampPar) (vocab x t : Nat) : Option (Nat × Bool) :=
  if par.msrc ≠ 1 then some (x, false)
  else match s.gramHeader g par.mta vocab with
    | none => none
    | some h => match s.gramState g h x with
      | none => none
      | some st => match s.gramTrans g h st.2.2.1 st.2.2.2.1 with
        | none => none
        | some es =>
          let y := match es.find? (fun e => e.1 == t) with | some e => e.2 | none => st.2.1
          match s.gramState g h y with
          | none => none
          | some st2 => some (y, st2.2.2.2.2)

/-- Which tokens the mask source allows in state `x`: none when it breaks its layout (R391, R394 to R396). -/
def maskOf (s : State) (g : Nat) (par : SampPar) (vocab x : Nat) : Option (List Bool) :=
  match par.msrc with
  | 0 => some (List.replicate vocab true)
  | 1 =>
    match s.gramHeader g par.mta vocab with
    | none => none
    | some h => match s.gramState g h x with
      | none => none
      | some st => match s.gloveRead g (h.2.2.2.1 + st.1 * h.2.1) h.2.1 with
        | none => none
        | some d => some ((List.range vocab).map fun t => (d.getD (t / 8) 0).getLsbD (t % 8))
  | _ =>
    match s.gloveRead g par.mta 64 with
    | none => none
    | some d =>
      let n := leAt d 0 4
      if n = 0 ∨ n > 262144 ∨ leAt d 4 60 ≠ 0 then none
      else match s.gloveRead g (par.mta + 64) (4 * n) with
        | none => none
        | some l =>
          let ts := (chunk 4 l).map fun e => leAt e 0 4
          if ts.any (fun t => t ≥ vocab) ∨ (ts.zip (ts.drop 1)).any (fun p => p.1 ≥ p.2) then none
          else some ((List.range vocab).map fun t => ts.contains t)

end State

/-- An element of a list of lanes, with negative infinity beyond it. -/
def laneAt (l : List Lane) (t : Nat) : Lane := l.getD t 0xFF800000

/-- Step 1 of R387: masked and NaN logits become negative infinity. -/
def maskedLogits (l : List Lane) (m : List Bool) : List Lane :=
  (l.zip m).map fun p => if p.2 ∧ (f32 p.1).isNan = false then p.1 else 0xFF800000

/-- The lowest-indexed token of largest logit (R387, step 2). -/
def greedy (l : List Lane) : Nat :=
  (l.zipIdx.foldl (fun (acc : Nat × Lane) p => if fcmp 4 p.1 acc.2 then (p.2, p.1) else acc) (0, laneAt l 0)).1

/-- The kept tokens with their weights, in ascending index (R387, steps 3 to 5). -/
def keptWeights (par : SampPar) (l : List Lane) : List (Nat × Lane) :=
  let mx := laneAt l (greedy l)
  let ps := l.zipIdx.map fun p => (p.2, if p.1 = 0xFF800000 then (0 : Lane) else Config.expWeight (fsub p.1 mx) par.temp)
  let sorted := ps.sortBy fun a b => fcmp 4 a.2 b.2 || (!fcmp 4 b.2 a.2 && a.1 ≤ b.1)
  let k1 := if par.topk = 0 then sorted else sorted.take par.topk
  let off := !fcmp 4 par.topp 0 || fcmp 5 par.topp 0x3F800000
  let total := k1.foldl (fun (acc : Lane) p => fadd acc p.2) 0
  let k2 := if off then k1
    else
      let bound := fmul par.topp total
      (k1.foldl (fun (acc : List (Nat × Lane) × Lane) p =>
        if fcmp 5 acc.2 bound then acc else (acc.1 ++ [p], fadd acc.2 p.2)) ([], 0)).1
  k2.sortBy fun a b => a.1 ≤ b.1

/-- The token that value `u` draws: the lowest at which the running sum exceeds u times the sum (R387). -/
def drawToken (kept : List (Nat × Lane)) (u : Nat) : Nat :=
  let total := kept.foldl (fun (acc : Lane) p => fadd acc p.2) 0
  let bound := fmul (drawF32 u) total
  let r := kept.foldl (fun (acc : Option Nat × Lane) p =>
    let sum := fadd acc.2 p.2
    match acc.1 with
    | some t => (some t, sum)
    | none => if fcmp 4 sum bound then (some p.1, sum) else (none, sum)) (none, 0)
  match r.1 with
  | some t => t
  | none => (kept.getLast?.map (·.1)).getD 0

/-- draw0 < P(x) / sum(P), as draw0 times the sum below P(x) (R389). -/
def acceptDraft (kept : List (Nat × Lane)) (x u : Nat) : Bool :=
  let total := kept.foldl (fun (acc : Lane) p => fadd acc p.2) 0
  let px := ((kept.find? fun p => p.1 == x).map (·.2)).getD 0
  fcmp 2 (fmul (drawF32 u) total) px

/-- What a row's test has found so far: tokens delivered, the grammar state, whether the turn ends, a failure, whether the test is over, and
whether the token t of R389 has been chosen. -/
structure RowRun where
  toks : List Nat
  g : Nat
  ends : Bool
  fail : Option Nat
  stop : Bool
  chosen : Bool
deriving DecidableEq, Repr, Inhabited

namespace State

/-- A draw of a row: seeded, or 24 bits of the true random source (R388). -/
def drawFor (s : State) (par : SampPar) (q d n : Nat) : Nat :=
  if par.trng then (Config.freeRandom (s.freeCtr + n)).toNat % 2 ^ 24 else seededDraw par.seed q d

/-- A token delivered: the state moves, and a stop token, an END state or OUTMAX ends the turn (R367, R389). -/
def deliverTok (s : State) (i : Nat) (par : SampPar) (vocab : Nat) (r : RowRun) (t : Nat) : RowRun :=
  let e := s.seqEnt i
  match s.gramNext e.glove par vocab r.g t with
  | none => { r with fail := some 0x4E, stop := true }
  | some (g, fin) =>
    let ends := par.stops.contains t || fin || e.outn + r.toks.length + 1 ≥ e.outmax
    { r with toks := r.toks ++ [t], g := g, ends := ends, stop := ends }

/-- One position of R389: position `m` of a row with `dlen` drafts; the last position takes the sample. -/
def samplePos (s : State) (i : Nat) (par : SampPar) (vocab q0 : Nat) (logits : List (List Lane)) (drafts : List Nat)
    (r : RowRun) (m : Nat) : RowRun :=
  if r.stop then r
  else
    let e := s.seqEnt i
    match s.maskOf e.glove par vocab r.g with
    | none => { r with fail := some 0x4E, stop := true }
    | some msk =>
      let l := maskedLogits ((logits.getD m []).take vocab) msk
      if l.all (· == 0xFF800000) then { r with fail := some 0x4F, stop := true }
      else
        let q := q0 + m
        let zero := par.temp = 0 ∨ par.temp = 0x80000000
        let kept := if zero then [] else keptWeights par l
        if m < drafts.length then
          let x := drafts.getD m 0
          let ok := if zero then x == greedy l else acceptDraft kept x (s.drawFor par q 0 (2 * m))
          if ok then s.deliverTok i par vocab r x
          else
            let t := if zero then greedy l else drawToken (kept.filter fun p => p.1 ≠ x) (s.drawFor par q 1 (2 * m + 1))
            { s.deliverTok i par vocab r t with stop := true, chosen := true }
        else
          let t := if zero then greedy l else drawToken kept (s.drawFor par q 1 (2 * m + 1))
          { s.deliverTok i par vocab r t with stop := true, chosen := true }

/-- The proposals that the mask chain from state `x` allows (R390). -/
def keepProposals (s : State) (g : Nat) (par : SampPar) (vocab : Nat) : Nat → List Nat → List Nat
  | _, [] => []
  | x, t :: rest =>
    match s.maskOf g par vocab x with
    | none => []
    | some msk =>
      if msk.getD t false then
        match s.gramNext g par vocab x t with
        | none => []
        | some (y, _) => t :: s.keepProposals g par vocab y rest
      else []

/-- The logit vectors of row `j` (R392): none when a unit is refused or poisoned. -/
def rowLogits (s : State) (g j dlen : Nat) : Option (List (List Lane)) :=
  let m := s.model (s.seqEnt ((s.serve g).rows.getD j default).seq).model
  let size := if m.logbf16 then 2 else 4
  let vs := ceilDiv (m.vocab * size) 64 * 64
  let dmax := s.fld (stwGcfg g) 33 4
  let rows := (List.range (dlen + 1)).map fun k =>
    (s.gloveRead g ((s.reg (smpGlog g)).field 0 56 + (j * (1 + dmax) + k) * vs) vs).map fun d =>
      (chunk size (d.take (m.vocab * size))).map fun b => BitVec.ofNat 32 (if m.logbf16 then ofBytes b * 2 ^ 16 else ofBytes b)
  if rows.any (·.isNone) then none else some (rows.map (·.getD []))

/-- The acceptance test of a row over its logit vectors (R389). -/
def testRow (s : State) (par : SampPar) (r : RowSt) (logits : List (List Lane)) : RowRun :=
  let e := s.seqEnt r.seq
  let drafts := (List.range r.dlen).map fun k => s.nearNat (taOfs e.ita + 4 * (r.ntok - r.dlen + k)) 4
  (List.range (r.dlen + 1)).foldl (s.samplePos r.seq par (s.model e.model).vocab (r.pos + r.ntok - r.dlen) logits drafts)
    { toks := [], g := e.gstate, ends := false, fail := none, stop := false, chosen := false }

/-- The drafts produced for a row: once its token has been chosen, the proposal list is read (R390); none when that read is refused or
uncorrected. A sequence without SPEC, or one whose turn ends, keeps none. -/
def rowProposals (s : State) (g j : Nat) (par : SampPar) (r : RowSt) (run : RowRun) : Option (List Nat) :=
  if run.chosen = false ∨ run.fail.isSome then some []
  else (s.gloveRead g ((s.reg (smpGdrf g)).field 0 56 + 64 * j) 64).map fun prop =>
    let e := s.seqEnt r.seq
    let props := (List.range (min 15 (leAt prop 0 4))).map fun k => leAt prop (4 + 4 * k) 4
    if e.spec ∧ run.ends = false then s.keepProposals g par (s.model e.model).vocab run.g props else []

/-- A row sampled (R386 to R391): none when the logit or proposal area cannot be read, which fails the step. Every logit vector of the row
is read first, whatever the parameters hold (DESIGN CHOICE, log entry 92). -/
def sampleRow (s : State) (g j : Nat) (r : RowSt) : Option RowSt :=
  let e := s.seqEnt r.seq
  let bad := some { r with fail := some 0x4D, ends := true, gnext := e.gstate }
  if r.sample = false then some r
  else match s.rowLogits g j r.dlen with
    | none => none
    | some logits =>
      match (s.gloveRead g e.spp 64).bind parsePar with
      | none => bad
      | some par =>
        if par.trng ∧ s.aos.trngOk = false then bad
        else
          let run := s.testRow par r logits
          (s.rowProposals g j par r run).map fun ds =>
            { r with toks := run.toks, gnext := run.g, drafts := ds, ends := run.ends || run.fail.isSome, fail := run.fail }

end State

end Sys2Proof.Machine
end

