-- ==== Sys2Proof/Machine/Identity.lean ====
section
/-! DEFINITION. Device identity, and what an image's header must satisfy (R525 to R531). -/

namespace Sys2Proof.Machine

open Adr

/-- The bytes of an ASCII string. -/
def ascii (x : String) : List Byte := x.toList.map fun c => BitVec.ofNat 8 c.toNat

/-- The identity private key: the first 57 B of SHAKE256(DS, "LZ3-ID") (R526). -/
def identityKey : List Byte := Config.shake256 (Config.identitySeed ++ ascii "LZ3-ID") 57
/-- The identity public key (R526). -/
def identityPub : List Byte := Config.ed448Public identityKey
/-- The device identity: the first 8 B of SHAKE256 of the identity public key (R526). -/
def deviceIdentity : Nat := leAt (Config.shake256 identityPub 8) 0 8

/-- The stage of OTP-generation images (R530). -/
abbrev otpStage : Nat := 6

/-- Whether the fields of an image's header obey R530, for an action on the stages that `ok` names. -/
def imageFields (d : List Byte) (ok : Nat → Bool) : Bool :=
  256 ≤ d.length && leAt d 0 4 == 0x46575A4C && leAt d 4 2 == 1 && ok (leAt d 6 2) && leAt d 8 4 == d.length - 256
    && leAt d 0x0D 3 == 0 && leAt d 0xFB 5 == 0 && (leAt d 6 2 != otpStage || leAt d 0x0C 1 == 0)

/-- Whether the public key, the signature and the payload digest of an image are right (R531). -/
def imageSigned (d : List Byte) : Bool :=
  (Config.shake256 ((d.drop 0x50).take 57) 32 == Config.romKeyDigest)
    && Config.ed448 ((d.drop 0x50).take 57) (Config.shake256 (d.take 0x89) 64) ((d.drop 0x89).take 114) "LZ3-FW"
    && (Config.shake256 (d.drop 256) 64 == (d.drop 0x10).take 64)

namespace State

/-- Rollback counter of a firmware stage (R529): RBC0 for stage 2, RBC1 for 3, RBC2 for 4. -/
def rbcOf (s : State) (stage : Nat) : Nat := s.aos.rbc.getD (stage - 2) 0

/-- The check of an image by R531, but for the spare OTP generation, as a status. -/
def imageCheck (s : State) (d : List Byte) (ok : Nat → Bool) : Nat :=
  if imageFields d ok = false then stImage
  else if imageSigned d = false then stSig
  else if leAt d 0x0C 1 ≥ 65 then 0x4B
  else if leAt d 6 2 ≠ otpStage ∧ leAt d 0x0C 1 < s.rbcOf (leAt d 6 2) then 0x44
  else if leAt d 6 2 = otpStage ∧ (s.aos.otp.all fun a => a.used) then 0x4A
  else stOK

/-- The check of an image that a firmware store holds (R531, R533). -/
def storedOk (s : State) (stage : Nat) (i : FwImg) : Bool := i.sound && i.svn < 65 && s.rbcOf stage ≤ i.svn

/-- The image that a stage takes at boot (R533, R570): CURRENT of IOD0's store or of IOD1's, else PREVIOUS. -/
def bootImage (s : State) (stage : Nat) : Option FwImg :=
  let b0 := s.aos.banks.at stage
  let b1 := s.aos.banks.at (16 + stage)
  [b0.current, b1.current, b0.previous, b1.previous].findSome? fun o =>
    match o with
    | some i => if s.storedOk stage i then some i else none
    | none => none

end State

end Sys2Proof.Machine
end

