-- ==== Sys2Proof/Machine/Scratch.lean ====
section
/-! DEFINITION. Rows as their readers see them, the row-merge buffer, detections, and remote writes (R236 to R246, R259 to R263, R267, R268). -/

namespace Sys2Proof.Machine

open Adr

namespace State

/-- The merge entry of a row, when there is one (R243). -/
def mergeOf (s : State) (g r : Nat) : Option MergeSt := (s.mcell g).merge.find? fun e => e.row == r

/-- A row as every reader receives it: with the merges of its entry applied (R244). -/
def rowSeen (s : State) (g r : Nat) : List Byte :=
  match s.mergeOf g r with
  | some e => e.data
  | none => s.row g r

/-- A whole-row write of any class: it replaces the row and discards its entry (R244). -/
def writeRow (s : State) (g r : Nat) (d : List Byte) : State :=
  (s.onMCell g fun m => { m with merge := m.merge.filter fun e => e.row ≠ r }).putRow g r d

/-- A detection, with KIND, READER and RERUN of R280: counted, and logged when the flag reads 0 (R268, R279). One that a narrow
or merge read meets is an error of class RERUN by itself (R584). -/
def detect (s : State) (g r kind reader glove : Nat) (rerun : Bool) : State :=
  let k := g / 288
  let w := BitVec.ofNat 64 (g % 288 + r * 2 ^ 9 + kind * 2 ^ 20 + reader * 2 ^ 23 + glove % 64 * 2 ^ 26 + (if rerun then 2 ^ 32 else 0))
  let s1 := (if s.flag (spdEvt k) 0 then s else s.setReg (spdDlog k) w).raise (spdEvt k) 0
  if 1 ≤ reader ∧ reader ≤ 3 then s1.errClass 1 8 g 0 glove w else s1

/-- Whether a read of a row fails a check, and the KIND: by the row's stored codes, or by an upset that the read meets. -/
def rowFails (s : State) (g r : Nat) (upset : Bool) : Option Nat :=
  if s.badRow g r ≠ 0 then some (s.badRow g r - 1)
  else if upset then some ((Config.freeWord s.freeCtr).toNat % 3)
  else none

/-- An entry of the merge buffer is written back whole (R243). -/
def mergeBack (s : State) (g r : Nat) : State :=
  match s.mergeOf g r with
  | none => s
  | some e => s.writeRow g r e.data

/-- The write of any byte of a unit clears every reservation on it (R246). -/
def clearResv (s : State) (g r ofs len : Nat) : State :=
  s.onArr fun a => { a with resv := a.resv.filter fun x =>
    !(x.2 / 8 = 2048 * g + r && ofs / 64 ≤ x.2 % 8 && x.2 % 8 ≤ (ofs + len - 1) / 64) }

/-- Bytes put into the row's merge entry, which is made by reading the row when there is none; false when that read
fails a check, which refuses the write (R243, R244, R268). -/
def mergeWrite (s : State) (g r : Nat) (d : List (Nat × Byte)) (glove : Nat) (upset : Bool) : State × Bool :=
  let apply := fun (l : List Byte) => d.foldl (fun l b => l.set b.1 b.2) l
  let clear := fun (t : State) => d.foldl (fun t b => t.clearResv g r b.1 1) t
  match s.mergeOf g r with
  | some _ =>
    (clear ((s.count (spdCntNarrow (g / 288))).onMCell g fun m => { m with merge := m.merge.map fun e => if e.row = r then { e with data := apply e.data, hot := true } else e }), true)
  | none =>
    match s.rowFails g r upset with
    | some k => (s.detect g r k 3 glove false, false)
    | none =>
      let s0 := s.count (spdCntNarrow (g / 288))
      let s1 := if (s.mcell g).merge.length < 4 then s0
        else match (s.mcell g).merge with
          | e :: _ => s0.mergeBack g e.row
          | [] => s0
      (clear (s1.onMCell g fun m => { m with merge := m.merge ++ [⟨r, apply (s.row g r), true⟩] }), true)

/-- A refused remote write or push is counted and logged (R261, R281): the M-cell, window, STATUS, glove, PUSH. -/
def rwRefuse (s : State) (g win status glove : Nat) (push : Bool) : State :=
  s.refuseRemote (g / 288) (BitVec.ofNat 64 (g % 288 + win * 2 ^ 9 + status * 2 ^ 12 + glove % 64 * 2 ^ 14
    + (if push then 2 ^ 20 else 0)))

end State

end Sys2Proof.Machine
end

