-- ==== Sys2Proof/Machine/RowSlots.lean ====
section
/-! DEFINITION. Row slots and the classes of access that share them: elastic and narrow requests, their queues, and remote writes on arrival (R238 to R246, R259 to R263). -/

namespace Sys2Proof.Machine

open Adr

/-- The new value of an atomic operation of the RISC-V A extension, of `n` bits: swap, add, xor, and, or, min, max, minu,
maxu. -/
def amoValue (op n old v : Nat) : Nat :=
  let sg := fun (x : Nat) => if x < 2 ^ (n - 1) then (x : Int) else (x : Int) - 2 ^ n
  match op with
  | 0 => v
  | 1 => (old + v) % 2 ^ n
  | 2 => old ^^^ v
  | 3 => old &&& v
  | 4 => old ||| v
  | 5 => if sg old ≤ sg v then old else v
  | 6 => if sg old ≤ sg v then v else old
  | 7 => min old v
  | _ => max old v

namespace State

/-! Row slots (R238, R241). -/

/-- Whether no pattern schedules accesses of an M-cell, so that every row slot is free. -/
def cellIdle (s : State) (g : Nat) : Bool :=
  match s.mcellGlove g with
  | some v => !((s.pat v).valid && !(s.pat v).done)
  | none => true

/-- Whether a row slot for `row` is free in the present cycle (R238). -/
def slotFree (s : State) (g row : Nat) : Bool :=
  s.cellIdle g || (!(s.mcell g).banks.contains (row % 4) && (s.mcell g).banks.length < 2)

/-- A row slot is taken by an elastic or narrow access. -/
def takeRow (s : State) (g row : Nat) : State :=
  if s.cellIdle g then s else s.onMCell g fun m => { m with banks := row % 4 :: m.banks }

/-- Whether the row has been read by a scheduled partial-row write that has still to write it (R245). -/
def rowLocked (s : State) (g row : Nat) : Bool := (s.mcell g).later.any fun w => w.lock && w.row == row

/-! Elastic writes from other M-cells and dies (R241, R262). -/

/-- Counted writes that have been accepted for a counter and not performed. -/
def counting (s : State) (g c : Nat) : Nat :=
  ((s.mcell g).elastic.filter fun e => e.cnt == some c).length + ((s.mcell g).narrow.filter fun e => e.cnt == some c).length

/-- A counter of an M-cell is set, with `counted` counted writes of the same cycle: those that would take it past all ones are refused
(R261, R262). The writes' windows are not operands: the log names the lowest window that counts on this counter, and the glove of the
palm. -/
def setCountedCell (s : State) (g n value counted : Nat) : State :=
  let fit := min counted (0xFFFFFFFF - value)
  let win := ((List.range 8).find? fun w =>
    let r := s.reg (rwin (g / 288) (g % 288) w)
    r.field 23 2 ≥ 2 && r.field 25 4 == n).getD 0
  (List.range (counted - fit)).foldl (fun t _ => t.rwRefuse g win 2 ((s.mcellGlove g).getD 64) false)
    (s.setArrival (g / 288) (g % 288) n value fit)

/-- A counted write advances its counter when its bytes become visible (R262). -/
def countWrite (s : State) (g : Nat) (c : Option Nat) : State :=
  match c with | some n => s.bumpArrival (g / 288) (g % 288) n | none => s

/-- The oldest elastic write takes effect, when its row slot is free. -/
def serveWrite (s : State) (g : Nat) : Option State :=
  match (s.mcell g).elastic with
  | [] => none
  | e :: r =>
    if s.slotFree g e.row = false then none
    else some ((((s.takeRow g e.row).onMCell g fun m => { m with elastic := r }).writeRow g e.row e.data).countWrite g e.cnt)

/-! Narrow requests (R242 to R246, R268). -/

/-- A narrow request that its requester sees refused: an access fault, or Completer Abort (R242, R504). -/
def narrowFault (s : State) : State := s.emit (.readData none false)

/-- A read of `n` bytes of a row by a narrow request, with the reader of R268; none when the read fails a check. -/
def narrowRead (s : State) (g row ofs n reader glove : Nat) (upset : Bool) : State × Option (List Byte) :=
  let d := (s.rowSeen g row).drop ofs |>.take n
  if (s.mergeOf g row).isSome then (s.count (spdCntNarrow (g / 288)), some d)
  else match s.rowFails g row upset with
    | some k => ((s.count (spdCntNarrow (g / 288))).detect g row k reader glove false, none)
    | none => (s.count (spdCntNarrow (g / 288)), some d)

/-- An atomic operation performed in the row's entry (R246): the old value comes back, and `f` gives the new one. -/
def narrowAmo (s : State) (g row ofs n glove : Nat) (f : Nat → Nat) (upset : Bool) : State :=
  let old := ofBytes ((s.rowSeen g row).drop ofs |>.take n)
  let (s1, ok) := s.mergeWrite g row ((toBytes (f old) n).zipIdx.map fun b => (ofs + b.2, b.1)) glove upset
  if ok then s1.emit (.readData (some (toBytes old n)) false) else s1.narrowFault

/-- An accepted narrow request is performed (R243, R246, R268). -/
def doNarrow (s : State) (g : Nat) (q : NarrowReq) : State :=
  let host : Bool := match q.who with | some (.host _) => true | _ => false
  let core := match q.who with | some (.core c _ _) => c | _ => 0
  let unit := (2048 * g + q.row) * 8 + q.ofs / 64
  match q.op with
  | .read len =>
    match s.narrowRead g q.row q.ofs len (if host then 2 else 1) q.glove q.upset with
    | (s1, some d) => s1.emit (.readData (some d) false)
    | (s1, none) =>
      if host then s1.emit (.readData (some ((s.rowSeen g q.row).drop q.ofs |>.take len)) true) else s1.narrowFault
  | .write _ _ =>
    let (s1, ok) := s.mergeWrite g q.row q.bytes q.glove q.upset
    if ok then s1.countWrite g q.cnt
    else match q.who with | some (.core _ _ _) => s1.narrowFault | _ => s1
  | .amo wide k v =>
    let n := if wide then 8 else 4
    s.narrowAmo g q.row q.ofs n q.glove (fun old => amoValue k (8 * n) old (v.toNat % 2 ^ (8 * n))) q.upset
  | .lr wide =>
    match s.narrowRead g q.row q.ofs (if wide then 8 else 4) 1 q.glove q.upset with
    | (s1, some d) => (s1.onArr fun x => { x with resv := x.resv.filter (fun r => r.1 ≠ core) ++ [(core, unit)] }).emit (.readData (some d) false)
    | (s1, none) => s1.narrowFault
  | .sc wide v =>
    let held := s.arr.resv.contains (core, unit)
    let s0 := s.onArr fun x => { x with resv := x.resv.filter fun r => r.1 ≠ core }
    if held = false then (s0.count (spdCntNarrow (g / 288))).emit (.readData (some [1]) false)
    else
      let (s1, ok) := s0.mergeWrite g q.row ((toBytes v.toNat (if wide then 8 else 4)).zipIdx.map fun b => (q.ofs + b.2, b.1)) q.glove q.upset
      if ok then s1.emit (.readData (some [0]) false) else s1.narrowFault

/-- Room for one more entry of the merge buffer (R243): the oldest entry of a full buffer is written back first. -/
def mergeRoom (s : State) (g : Nat) : Option State :=
  if (s.mcell g).merge.length < 4 then some s
  else match (s.mcell g).merge with
    | e :: _ => if s.slotFree g e.row then some ((s.takeRow g e.row).mergeBack g e.row) else none
    | [] => some s

/-- A narrow request is performed if the row slots that it needs are free: none when its row has an entry; else one to read the row,
after one to write back the oldest entry where a fifth would be needed (R243). None while it has to wait. -/
def serveNarrow (s : State) (g : Nat) (q : NarrowReq) : Option State :=
  let reads : Bool := match q.op with | .read _ => true | .lr _ => true | _ => false
  if s.rowLocked g q.row then none
  else if (s.mergeOf g q.row).isSome then some (s.doNarrow g q)
  else
    match (if reads then some s else s.mergeRoom g) with
    | none => none
    | some t => if t.slotFree g q.row then some ((t.takeRow g q.row).doNarrow g q) else none

/-- A narrow request enters the queue, behind those that wait; it is performed at once when none waits and its row slots are free
(R241, R243). -/
def submitNarrow (s : State) (g : Nat) (q : NarrowReq) : State :=
  match (s.mcell g).narrow, s.serveNarrow g q with
  | [], some t => t
  | _, _ => s.onMCell g fun m => { m with narrow := m.narrow ++ [q] }

/-- The narrow requests at the head of the queue are performed, up to `n` and as far as row slots are free, in order of arrival. -/
def serveQueue (s : State) (g : Nat) : Nat → State
  | 0 => s
  | n + 1 =>
    match (s.mcell g).narrow with
    | [] => s
    | q :: r =>
      match (s.onMCell g fun m => { m with narrow := r }).serveNarrow g q with
      | some t => t.serveQueue g n
      | none => s

/-- Entries of the merge buffer that no merge has reached in this cycle are written back while row slots are free (R243). -/
def writeBacks (s : State) (g : Nat) : State :=
  ((s.mcell g).merge.filter fun e => !e.hot).foldl (fun t e => if t.slotFree g e.row then (t.takeRow g e.row).mergeBack g e.row else t) s

/-- The narrow accesses of a cycle (R241, R243). -/
def serveNarrows (s : State) (g : Nat) : State := (s.writeBacks g).serveQueue g 16

/-- With no pattern scheduling an M-cell's rows, all that waits for row slots is performed. -/
def settleCell (s : State) (g : Nat) : State :=
  let s1 := (s.mcell g).elastic.foldl (fun t _ => (t.serveWrite g).getD t) s
  s1.serveQueue g (s1.mcell g).narrow.length

/-! Remote writes (R259 to R263). -/

/-- The check of R261 that a remote write to row `r` fails first, as the STATUS of R281. -/
def remoteStop (s : State) (g r win glove : Nat) : Option Nat :=
  let w := s.reg (rwin (g / 288) (g % 288) win)
  let mode := w.field 23 2
  if g ≥ 2304 ∨ s.mcellGlove g ≠ some glove then some 0
  else if mode = 0 then some 1
  else if (mode = 1 ∨ mode = 3) ∧ (r < w.field 0 11 ∨ r ≥ w.field 0 11 + w.field 11 12) then some 2
  else if mode ≥ 2 ∧ (s.reg (arvCnt (g / 288) (g % 288) (w.field 25 4))).toNat % 2 ^ 32 + s.counting g (w.field 25 4) ≥ 0xFFFFFFFF then some 2
  else none

/-- A remote write of bytes of one row, judged on arrival (R242, R261): accepted, it enters as an elastic access when it covers the
row, and else as a narrow one. False when it is refused. -/
def remoteBytes (s : State) (g r win glove : Nat) (bs : List (Nat × Byte)) (upset : Bool) (who : Option Requester := none) :
    State × Bool :=
  match s.remoteStop g r win glove with
  | some st => (s.rwRefuse g win st glove false, false)
  | none =>
    let w := s.reg (rwin (g / 288) (g % 288) win)
    let cnt := if w.field 23 2 ≥ 2 then some (w.field 25 4) else none
    if bs.length = 512 then
      let s1 := s.onMCell g fun m => { m with elastic := m.elastic ++ [⟨r, bs.map (·.2), cnt⟩] }
      (if (s.mcell g).elastic = [] then (s1.serveWrite g).getD s1 else s1, true)
    else (s.submitNarrow g ⟨who, r, 0, glove, .write 0 0, bs, cnt, upset⟩, true)

/-- A remote write of consecutive bytes within one row. -/
def remote (s : State) (g r ofs win glove : Nat) (d : List Byte) (upset : Bool) : State × Bool :=
  s.remoteBytes g r win glove (d.zipIdx.map fun b => (ofs + b.2, b.1)) upset

end State

end Sys2Proof.Machine
end

