-- ==== Sys2Proof/Machine/Programs.lean ====
section
/-! DEFINITION. The program store of a sequencer: the checks of a written program, writing, starting and halting (R208, R210 to R212). -/

namespace Sys2Proof.Machine

open Adr

/-- The bits that an instruction's row names, by opcode; none for a reserved opcode (R210, R211). -/
def gsqNamed (op : Nat) : Option Nat :=
  let f := fun (hi lo : Nat) => (2 ^ (hi - lo + 1) - 1) * 2 ^ lo
  let ext := f 63 58
  match op with
  | 0x00 | 0x1F => some ext
  | 0x01 | 0x02 => some (ext + f 57 54 + f 31 0)
  | 0x03 => some (ext + f 57 54 + f 53 50 + f 31 0)
  | 0x04 | 0x18 => some (ext + f 57 54 + f 53 50 + f 49 46)
  | 0x08 => some (ext + f 10 0)
  | 0x09 => some (ext + f 53 50 + f 10 0)
  | 0x0A => some (ext + f 57 54 + f 10 0)
  | 0x0B => some (ext + f 49 48 + f 47 40 + f 10 0)
  | 0x10 | 0x13 => some (ext + f 57 56 + f 53 50)
  | 0x11 => some (ext + f 57 56 + f 53 50 + f 39 20)
  | 0x12 => some (ext + f 57 56)
  | 0x14 => some (ext + f 57 54 + f 53 50 + f 49 46 + f 45 44 + f 39 20 + f 15 0)
  | 0x15 => some (ext + f 57 54 + f 53 34 + f 33 26 + f 10 0)
  | 0x16 => some (ext + f 57 54 + f 53 50 + f 49 46 + f 45 42 + f 41 41)
  | 0x19 => some (ext + f 57 54 + f 15 0)
  | 0x1A => some (ext + f 15 0)
  | _ => none

/-- The branch target of an instruction, when it has one. -/
def gsqTarget (w : Word) : Option Nat :=
  match w.field 58 6 with
  | 0x08 | 0x09 | 0x0A | 0x0B | 0x15 => some (w.field 0 11)
  | _ => none

/-- Whether an instruction word is accepted at write, but for its target (R210 to R212). -/
def gsqWordOk (w : Word) : Bool :=
  match gsqNamed (w.field 58 6) with
  | none => false
  | some m =>
    let m' : Word := BitVec.ofNat 64 m
    (w &&& ~~~ m') == 0
      && !(w.field 58 6 == 0x0B && w.field 48 2 == 3)
      && !(w.field 58 6 == 0x14 && w.field 54 4 ≥ 6)

namespace State

/-- Whether an address of a sequencer's store is marked as written (R208). -/
def marked (s : State) (q a : Nat) : Bool := a < 2048 && s.seq.marks.at (2048 * q + a)

/-- Whether a write of `ws` at `first` is accepted: each word is legal, and each target is marked by this write or an
earlier one (R210). -/
def programOk (s : State) (q first : Nat) (ws : List Word) : Bool :=
  ws.all fun w => gsqWordOk w && (match gsqTarget w with
    | none => true
    | some t => s.marked q t || (first ≤ t && t < first + ws.length))

/-- An accepted write stores its instructions and sets their marks (R208). -/
def writeProgram (s : State) (q first : Nat) (ws : List Word) : State :=
  s.onSeq fun b => { b with store := b.store.putRow (2048 * q + first) ws,
                            marks := b.marks.putRow (2048 * q + first) (ws.map fun _ => true) }

/-- A start: address 0, ST and G2 to G15 zero, G1 the argument, and a rerun point at address 0 (R208, R224). -/
def startSeq (s : State) (q : Nat) (g1 : Word) : State :=
  (s.onGsq q fun x => { x with state := .running, named := true, pc := 0, st := 0, g := [0, g1] ++ List.replicate 14 0, waitFor := none,
                               deadline := none, sealFail := none, cause := 0 }).rerunPoint q 0

/-- The armed switch of a sequencer is discarded, before its time or when it has been reached and not taken: its slot
returns to what it was (R216). -/
def discardArm (s : State) (q : Nat) : State :=
  let s1 := s.onGsq q fun x => match x.sw with
    | some r => if r.fromArm then
        { x with sw := none, slots := x.slots.set r.slot (if x.slots.getD r.slot .empty = .armed then .loaded else x.slots.getD r.slot .empty) }
      else x
    | none => x
  match (s.gsq q).arm with
  | none => s1
  | some a => s1.onGsq q fun x =>
    { x with arm := none, slots := x.slots.set a.slot (if x.slots.getD a.slot .empty = .armed then a.was else x.slots.getD a.slot .empty) }

/-- A stop: HALTED at the next instruction boundary, and an armed switch is discarded (R515). -/
def stopSeq (s : State) (q : Nat) : State :=
  (s.discardArm q).onGsq q fun x => { x with state := .halted, waitFor := none, deadline := none }

/-- Words of the near tier from offset `ofs` on. -/
def nearWords (s : State) (ofs n : Nat) : List Word :=
  (List.range n).map fun i => BitVec.ofNat 64 (s.nearNat (ofs + 8 * i) 8)

end State

end Sys2Proof.Machine
end

