-- ==== Sys2Proof/Machine/Residency.lean ====
section
/-! DEFINITION. Models and adapters: switch-in, parking, replacement, and the frames they take (R412 to R420). -/

namespace Sys2Proof.Machine

open Adr

namespace State

/-- The lowest run of `n` FREE logical frames whose physical frames lie where `ok` says. -/
def freeRun (s : State) (n : Nat) (ok : Nat → Bool) : Option Nat :=
  (List.range (65536 - n + 1)).find? fun f =>
    (List.range n).all fun i => (s.frame (f + i)).mode == .free && ok (f + i)

/-- A frame set FREE: its pages leave the glove's free list (R429, R515). -/
def freeFrame (s : State) (f : Nat) : State :=
  let e := s.frame f
  (s.dropKvFrame e.glove f).onFrame f fun x => { x with mode := .free, glove := 0, key := 0, readers := 0 }

/-- Every node whose MODEL or adapter `p` selects becomes STALE (R420). -/
def staleNodes (s : State) (p : NodeSt → Bool) : State :=
  (s.liveNodes.filter fun n => p n.2).foldl (fun t n => t.onNode n.1 fun x => { x with stale := true }) s

def modelGloves (s : State) (m : Nat) : List Nat := (List.range 64).filter fun g => (s.model m).gloves.getLsbD g

/-! Switch-in (R415, R480). -/

/-- The sources of extent `e` of a switch-in, in order: the peers from the one it is dealt to, then the wide tier, then
the deep tier. Peers are given by their list index, the tiers by the numbers after them. -/
def swinSources (s : State) (m : Nat) (w : SwinSt) : List Nat :=
  let x := (s.model m).exts.getD w.ext default
  let np := w.peers.length
  (((List.range np).map fun i => (w.ext + i) % np).filter fun i => !w.lostPeers.contains (w.peers.getD i 0))
    ++ (if x.wide.isSome then [np] else []) ++ (if x.deep.isSome then [np + 1] else [])

/-- The links to rack position `p` that are up, up to two (R480). -/
def linksTo (s : State) (node : Nat) : List Nat :=
  ((List.range 88).filter fun l => let x := s.net.links.at l; (x.st == .up2 || x.st == .up1) && x.peer == node).take 2

/-- The near-tier address of extent `e` of a switch-in: extents lie one after another from the first frame on
(DESIGN CHOICE). -/
def swinNta (s : State) (m : Nat) (w : SwinSt) (e : Nat) : Nat :=
  2 ^ 52 + w.frame * 2 ^ 25 + (((s.model m).exts.take e).map (·.len)).foldl (· + ·) 0

/-- The present extent is asked of source `src`: a peer by its list index, the wide tier, the deep tier. -/
def swinAsk (s : State) (m : Nat) (w : SwinSt) (src : Nat) : State :=
  let x := (s.model m).exts.getD w.ext default
  let s1 := s.onModel m fun y => { y with swin := some { w with src := src, units := 0 } }
  if src < w.peers.length then
    let node := 32 * s.net.rack + w.peers.getD src 0
    let ls := s.linksTo node
    s1.emit (.fetch node {
      src := s.nodeId.getD 0x1FFF, tag := BitVec.ofNat 32 m, model := m, version := (s.model m).version,
      extent := w.ext, offset := 0, len := x.len, link0 := (s.net.links.at (ls.getD 0 0)).peerLink,
      link1 := (s.net.links.at (ls.getD 1 0)).peerLink, handle := none })
  else
    let h := if src = w.peers.length then x.wide.getD 0 else x.deep.getD 0
    s1.submit { sysReq 2 0 (.residency m w.ext) with nta := s.swinNta m w w.ext, len := x.len, slot := h.toNat }

/-- No source is left: the command completes with EXTENT_LOST and the model is PARKED (DESIGN CHOICE). -/
def swinGivesUp (s : State) (m : Nat) (w : SwinSt) : State :=
  (s.onModel m fun y => { y with st := .parked, swin := none, fresh := false }).complete w.cmd stLost

/-- The present extent is asked of its first source. -/
def swinFetch (s : State) (m : Nat) : State :=
  match (s.model m).swin with
  | none => s
  | some w => match s.swinSources m w with
    | [] => s.swinGivesUp m w
    | src :: _ => s.swinAsk m w src

/-- A lower tier cannot serve the present extent: the next source is asked (R415). -/
def swinTierFails (s : State) (m : Nat) : State :=
  match (s.model m).swin with
  | none => s
  | some w => match (s.swinSources m w).filter fun x => x > w.src ∧ x ≥ w.peers.length with
    | [] => s.swinGivesUp m w
    | src :: _ => s.swinAsk m w src

/-- An extent of a switch-in is in the near tier: its address is recorded, the counter reaches e + 1, and the next is
fetched; after the last the model is RESIDENT (R415). -/
def swinExtentIn (s : State) (m : Nat) : State :=
  match (s.model m).swin with
  | none => s
  | some w =>
    let n := w.ext + 1
    let s1 := s.onModel m fun y =>
      { y with exts := y.exts.set w.ext { y.exts.getD w.ext default with nta := s.swinNta m w w.ext },
               swin := some { w with ext := n, src := 0, units := 0, lostPeers := [] } }
    let c := ctrName (BitVec.ofNat 64 w.counter)
    let s2 := s1.setArrival c.1 c.2.1 c.2.2 n 0
    if n ≥ (s.model m).exts.length then
      (s2.onModel m fun y => { y with st := .resident, swin := none }).complete w.cmd stOK
    else s2.swinFetch m

/-- Every unit of the present extent of a switch-in has come from a lower tier. -/
def swinUnitsIn (s : State) (m : Nat) : State :=
  s.onModel m fun y => { y with swin := y.swin.map fun w => { w with units := 2 ^ ceilDiv (y.exts.getD w.ext default).len 4096 - 1 } }

/-- The loss of the peer that serves the present extent: counted, and the extent is fetched from the next source
(R415, R480). -/
def swinPeerLost (s : State) (m : Nat) : State :=
  match (s.model m).swin with
  | none => s
  | some w =>
    if w.src < w.peers.length then
      ((s.raise resEvt 2).onModel m fun y =>
        { y with swin := some { w with lostPeers := w.lostPeers ++ [w.peers.getD w.src 0] } }).swinFetch m
    else s

/-- Whether a sequence's model and adapter let it join a step (R362): a model being switched in does from the moment
its first two extents are in (R416). -/
def residentsReady (s : State) (i : Nat) : Bool :=
  let e := s.seqEnt i
  let m := s.model e.model
  (match m.st with
   | .resident | .replacing => true
   | .loading => (match m.swin with | some w => w.ext ≥ min 2 m.exts.length | none => false)
   | _ => false)
  && (!e.adp || (s.adapter e.adapter).st == 2)

/-! Replacement (R417 to R420). -/

/-- The copies of a replacement are asked of the migration engine: each new extent from its wide or deep handle. -/
def replCopies (s : State) (m : Nat) : State :=
  match (s.model m).repl with
  | none => s
  | some r =>
    r.exts.zipIdx.foldl (fun t p =>
      let h := (match p.1.wide with | some h => h | none => p.1.deep.getD 0)
      (t.submit { sysReq 2 0 (.residency m p.2) with nta := p.1.nta, len := p.1.len, slot := h.toNat })) s

/-- The cuff of model `m` closes on glove `g` at its commit, or at once when no step of the glove runs; with the last
glove the copies start, unless frames of the model still wait to be remapped (R317, R418). -/
def cuffClose (s : State) (m g : Nat) : State :=
  match (s.model m).repl with
  | none => s
  | some r =>
    if r.inPlace = false ∨ (s.model m).gloves.getLsbD g = false ∨ g ∈ r.closed then s
    else
      let s1 := (s.onModel m fun y => { y with repl := some { r with closed := r.closed ++ [g] } }).onServe g fun v => { v with cuff := true }
      if r.frames = [] ∧ (s.modelGloves m).all fun x => (r.closed ++ [g]).contains x then s1.replCopies m else s1

/-- The first tick whose boundary falls at least 16 rc from now (R365, R418). -/
def nextBoundary (s : State) : Nat := if s.tick.n - s.tick.phase ≥ 16 then s.tick.tick + 1 else s.tick.tick + 2

/-- One extent of a replacement's new copy is in. -/
def replExtentIn (s : State) (m e : Nat) : State :=
  match (s.model m).repl with
  | none => s
  | some r =>
    let left := r.left.filter (· ≠ e)
    let r1 := { r with left := left, copied := left == [], ready := if left = [] then s.nextBoundary else 0, stamp := s.freeCtr }
    (s.onModel m fun y => { y with repl := some r1 }).spend 1

/-- A copy of a replacement cannot be made: the command completes with the status; a second copy's frames are freed and
the old copy serves on; in place, the weights are no longer whole and the model is PARKED (DESIGN CHOICE). -/
def replFails (s : State) (m st : Nat) : State :=
  match (s.model m).repl with
  | none => s
  | some r =>
    let s1 := if r.inPlace then (s.modelGloves m).foldl (fun t g => t.onServe g fun v => { v with cuff := false }) s
      else r.frames.foldl (fun t f => t.freeFrame f) s
    (s1.onModel m fun y => { y with st := if r.inPlace then .parked else .resident, repl := none }).completeOpt r.cmd st

/-- A replacement is complete: VERSION rises, the model's nodes become STALE, the new extents serve (R420). -/
def replDone (s : State) (m : Nat) (r : ReplSt) : State :=
  ((s.onModel m fun y => { y with st := .resident, version := (y.version + 1) % 2 ^ 16, exts := r.exts, repl := none }).staleNodes
    fun n => n.model == m).completeOpt r.cmd stOK

/-- The second-copy switch of glove `g` at its commit (R419): its sequencer is stopped, its program written and
started; after the last glove the old frames are freed. -/
def secondSwitch (s : State) (m g : Nat) : State :=
  match (s.model m).repl with
  | none => s
  | some r =>
    if r.inPlace ∨ r.copied = false ∨ s.tick.tick < r.tr ∨ (s.model m).gloves.getLsbD g = false ∨ g ∈ r.closed then s
    else
      let q := (s.glove g).gsq
      let ix := (s.modelGloves m).idxOf g
      let seq := s.gsqOf g
      let s1 := if seq.isSome then s.stopSeq q else s
      let s2 := if r.progs = 0 ∨ seq.isNone then s1
        else
          let ta := s.nearNat (taOfs r.progs + 16 * ix) 7
          let n := s.nearNat (taOfs r.progs + 16 * ix + 8) 2
          s1.writeProgram q 0 (s1.nearWords (taOfs ta) (min n 2048))
      let s3 := (if seq.isSome then s2.startSeq q 0 else s2).onModel m fun y => { y with repl := some { r with closed := r.closed ++ [g] } }
      if (s.modelGloves m).all fun x => (r.closed ++ [g]).contains x then
        let old := ((s.model m).exts.flatMap fun x => framesOf x.nta x.len).eraseDups
        ((old.foldl (fun t f => t.freeFrame f) s3).replDone m r).count resCntSecond
      else s3

/-- Every model's replacement is judged at a commit of glove `g`: cuffs close and second copies switch (R418, R419). -/
def commitResidency (s : State) (g : Nat) : State :=
  ((s.stw.models.filter fun p => p.2.repl.isSome).map (·.1)).foldl (fun t m => (t.cuffClose m g).secondSwitch m g) s

/-- CUFF_RELEASE (R418) for model `m`, but for the step builds that follow it. -/
def cuffReleased (s : State) (m : Nat) : State :=
  match (s.model m).repl with
  | none => s
  | some r =>
    if s.turn (.cuff m) = false then s
    else
      let s1 := if max r.tr r.ready > r.tr then s.raise resEvt 1 else s
      let s2 := (s.modelGloves m).foldl (fun t g => t.onServe g fun v => { v with cuff := false }) s1
      (s2.replDone m r).count resCntCuff

/-- A model becomes PARKED: its frames are freed and its extents stay (R413). -/
def parkModel (s : State) (m : Nat) : State :=
  let old := (((s.model m).exts.filter fun x => x.nta ≠ 0).flatMap fun x => framesOf x.nta x.len).eraseDups
  (old.foldl (fun t f => t.freeFrame f) s).onModel m fun y =>
    { y with st := .parked, swin := none, repl := none, fresh := false, exts := y.exts.map fun x => { x with nta := 0 } }

end State

end Sys2Proof.Machine
end

