-- ==== Sys2Proof/Machine/Caches.lean ====
section
/-! DEFINITION. Paused caches on the lower tiers: seals, moves, resumes and their failures (R406 to R411). -/

namespace Sys2Proof.Machine

open Adr

namespace State

/-- A time-to-live as the ARG of a MOVE: 36 bits; all ones, and a value that does not fit, ask for no expiry. -/
def ttlArg (ttl : Nat) : Nat := if ttl < 2 ^ 36 then ttl else 0

/-- The image of a cache: every page of blocks 0 to ⌈CLEN/64⌉ - 1, group by group and then in block order (R408). -/
def cachePages (s : State) (i : Nat) : List (Nat × Nat) :=
  let e := s.seqEnt i
  (List.range (s.model e.model).g).flatMap fun grp => (List.range (ceilDiv e.clen 64)).map fun b => (grp, b)

def pageOf (s : State) (i : Nat) (gb : Nat × Nat) : Nat :=
  (((s.seqEnt i).pages.find? fun r => r.group == gb.1 && r.block == gb.2).map (·.page)).getD 0

/-- The sequence enters a lower tier: its state, RFROM, AUTO and EXPIRY (R406, R407). -/
def enterTier (s : State) (i : Nat) (dest : QState) (auto : Bool) : State :=
  let e := s.seqEnt i
  let ttl := if dest = .pausedDeep then e.ttld else e.ttlw
  ((s.leaveBatch i).onSeqEnt i fun x =>
    { x with st := dest, auto := auto,
             rfrom := (match e.st with | .pausedNear => e.rfrom | .pausedWide => e.rfrom | .pausedDeep => e.rfrom | st => st),
             expiry := if auto ∧ ttl = 0 then 0 else s.expiryFor ttl }).stampSeq i

/-- The pieces of a seal or move that still wait for an entry of the queue are withdrawn. -/
def withdrawPieces (s : State) (i : Nat) : State :=
  s.onMem fun m => { m with waiting := m.waiting.filter fun r => match r.from_ with | .steward j _ => j != i | _ => true }

/-- After an acceptance: the state changes when the last piece is accepted, and a job without pieces has no more to
wait for (R408). -/
def jobProgress (s : State) (i : Nat) : State :=
  match (s.seqEnt i).job with
  | none => s
  | some j =>
    let live := (s.seqEnt i).st ≠ .cancelled ∧ (s.seqEnt i).st ≠ .expired ∧ (s.seqEnt i).st ≠ .free
    if j.kind < 2 ∧ j.toAccept = 0 ∧ j.failed = false ∧ live ∧ (s.seqEnt i).st ≠ j.dest then s.enterTier i j.dest j.auto else s

/-- A cache that needs more than 32 pieces is not sealed (R408). -/
def sealTooBig (s : State) (i : Nat) (auto : Bool) : State :=
  (s.raise resEvt 0).onSeqEnt i fun e => if auto then { e with run := 0 } else { e with expiry := 0 }

/-- A piece of a cache copied into the seal buffer, where its frames are mapped (R408). The steward takes the buffer again for the next
piece; that each request keeps its piece stands for the wait until the engine has read it (DESIGN CHOICE, log entry 92). -/
def fillBuffer (s : State) (ta : Nat) (d : List Byte) : State :=
  if s.nearOk ta d.length ⟨0, 0, true⟩ true then
    (chunk 64 d).zipIdx.foldl (fun t p => t.putStaged ((taOfs ta / 64 + p.2) / 2 ^ 19) ((taOfs ta / 64 + p.2) % 2 ^ 19) p.1) s
  else s

/-- A seal of a cache into the wide or deep tier: piece by piece through the glove's seal buffer, of which each request keeps the image, since
the next piece takes the buffer again (R408). -/
def sealDown (s : State) (i : Nat) (dest : QState) (auto : Bool) : State :=
  let e := s.seqEnt i
  let gs := s.reg (resGseal e.glove)
  let buf := gs.field 16 8 * 2 ^ 25
  let pages := s.cachePages i
  let total := pages.length * 2 ^ 18
  let n := if total = 0 then 0 else if buf = 0 then 33 else ceilDiv total buf
  if n > 32 then s.sealTooBig i auto
  else
    let ids := (List.range n).map fun k => s.mem.nextReq + k
    let s1 := s.onSeqEnt i fun e =>
      { e with job := some { kind := 0, dest := dest, auto := auto, toAccept := n, left := ids, failed := false }, retry := none }
    let perPiece := buf / 2 ^ 18
    let at_ := 2 ^ 52 + gs.field 0 16 * 2 ^ 25
    let s2 := ((chunk perPiece pages).zipIdx).foldl (fun t p =>
      let image := p.1.flatMap fun gb => s.nearBytes (s.pageOf i gb) (2 ^ 18)
      (t.fillBuffer at_ image).submit { (default : MigReq) with
        op := 1, prio := 2, dest := if dest = .pausedDeep then 1 else 0, glove := e.glove, key := e.key,
        nta := at_, len := p.1.length * 2 ^ 18, from_ := .steward i p.2, image := image }) s1
    s2.jobProgress i

/-- The extents of a cache that lie in the wide tier. -/
def wideHandles (s : State) (i : Nat) : List (BitVec 32) :=
  (s.seqEnt i).handles.filter fun h => !(s.extent (h.toNat % 2 ^ 24)).deep

/-- Each wide extent of a cache is moved to the deep tier, with ARG = TTLD (R407). -/
def moveDown (s : State) (i : Nat) : State :=
  let e := s.seqEnt i
  let hs := s.wideHandles i
  let ids := (List.range hs.length).map fun k => s.mem.nextReq + k
  let s1 := s.onSeqEnt i fun e =>
    { e with job := some { kind := 1, dest := .pausedDeep, auto := e.auto, toAccept := hs.length, left := ids, failed := false },
             retry := none }
  let s2 := hs.zipIdx.foldl (fun t p =>
    t.submit { (default : MigReq) with
      op := 3, prio := 2, glove := e.glove, key := e.key, slot := p.1.toNat, arg := ttlArg e.ttld, from_ := .steward i p.2 }) s1
  s2.jobProgress i

/-- What is left when the copies of a sequence that has ended have finished: its extents and pages are freed, and a
released entry is blank (R359, R411). -/
def jobAfterEnd (s : State) (i : Nat) : State :=
  ((s.freeExtents i).freeCache i).onSeqEnt i fun e =>
    if e.st = .free then { (default : SeqEnt) with inc := e.inc } else { e with job := none, retry := none }

/-- Whether a sequence has ended. -/
def seqEnded (s : State) (i : Nat) : Bool :=
  match (s.seqEnt i).st with | .cancelled => true | .expired => true | .free => true | _ => false

/-- A piece of a seal or move is refused or has failed: the pieces already made are freed, the sequence stays in its
state, and the attempt waits to be made again (R409). A copy of a resume that fails loses the cache (R359). -/
def jobFailed (s : State) (i : Nat) : State :=
  match (s.seqEnt i).job with
  | none => s
  | some j =>
    let s1 := s.withdrawPieces i
    if s.seqEnded i then s1.jobAfterEnd i
    else if j.kind = 2 then
      ((s1.onSeqEnt i fun e => { e with job := none }).loseSeq i)
    else
      let s2 := s1.raise resEvt 0
      let s3 := if j.kind = 0 then s2.freeExtents i else s2
      s3.onSeqEnt i fun e => { e with job := none, retry := some j.dest, retryAuto := j.auto, retryAt := s.tick.tick + 1 }

/-- A piece is accepted: its handle is recorded for a seal (R408). -/
def jobAccepted (s : State) (i slot : Nat) : State :=
  match (s.seqEnt i).job with
  | none => s
  | some j =>
    let s1 := s.onSeqEnt i fun e =>
      { e with job := some { j with toAccept := j.toAccept - 1 },
               handles := if j.kind = 0 then e.handles ++ [s.handleOf slot] else e.handles }
    s1.jobProgress i

/-- A piece has completed with status `st`. -/
def jobPiece (s : State) (i ident st : Nat) : State :=
  match (s.seqEnt i).job with
  | none => s
  | some j =>
    if ident ∉ j.left then s
    else if st ≠ stOK ∧ s.seqEnded i = false then s.jobFailed i
    else
      let left := j.left.filter (· ≠ ident)
      let s1 := s.onSeqEnt i fun e => { e with job := some { j with left := left } }
      if s1.seqEnded i then (if left = [] then s1.jobAfterEnd i else s1)
      else if j.kind = 1 ∧ left = [] ∧ j.toAccept = 0 then
        (s1.onSeqEnt i fun e => { e with job := none }).count resCntDown
      else s1

/-- Every piece of a seal has completed: the pages are freed, PNODE and REFNODE become 0 (R408). -/
def sealAllIn (s : State) (i : Nat) : State :=
  match (s.seqEnt i).job with
  | none => s
  | some j =>
    if j.kind = 0 ∧ j.left = [] ∧ j.toAccept = 0 then
      ((s.freeCache i).onSeqEnt i fun e => { e with job := none }).count resCntDown
    else s

/-- Which extent of a cache holds byte `ofs` of its image, and where in it. -/
def imageAt (s : State) : List (BitVec 32) → Nat → Option (BitVec 32 × Nat)
  | [], _ => none
  | h :: r, ofs =>
    let len := (s.extent (h.toNat % 2 ^ 24)).len
    if ofs < len then some (h, ofs) else s.imageAt r (ofs - len)

/-- Pages for every block are taken and each is copied up by its own COPYUP; while too few are free, the resume waits
(R410). -/
def resumeTake (s : State) (i : Nat) : State :=
  let e := s.seqEnt i
  match s.takePages i e.clen with
  | none => s.onSeqEnt i fun x => { x with retry := some e.rfrom, retryAt := s.tick.tick + 1 }
  | some s1 =>
    let pages := s1.cachePages i
    let ids := (List.range pages.length).map fun k => s1.mem.nextReq + k
    let s2 := s1.onSeqEnt i fun x =>
      { x with job := some { kind := 2, dest := e.rfrom, auto := false, toAccept := pages.length, left := ids, failed := false },
               retry := none }
    pages.zipIdx.foldl (fun t p =>
      let at_ := s1.imageAt e.handles (p.2 * 2 ^ 18)
      t.submit { (default : MigReq) with
        op := 2, prio := 1, glove := e.glove, key := e.key, slot := (at_.map (·.1.toNat)).getD 0,
        arg := (at_.map (·.2)).getD 0, nta := 2 ^ 52 + s1.pageOf i p.1, len := 2 ^ 18, from_ := .steward i p.2 }) s2

/-- Whether a seal of the sequence's cache has not completed: its pages are still held (R411). -/
def sealOpen (s : State) (i : Nat) : Bool :=
  (match (s.seqEnt i).job with | some j => j.kind == 0 | none => false) || ((s.seqEnt i).retry.isSome && (s.seqEnt i).handles == [])

/-- A resume is applied (R359, R410, R411). -/
def resumeSeq (s : State) (i : Nat) : State :=
  let e := s.seqEnt i
  if e.st = .pausedNear ∨ s.sealOpen i then
    (((s.withdrawPieces i).freeExtents i).onSeqEnt i fun x => { x with job := none, retry := none }).returnSeq i
  else
    ((s.withdrawPieces i).onSeqEnt i fun x => { x with resuming := true, expiry := 0, job := none, retry := none }).resumeTake i

/-- Every copy of a resume has completed: the sequence returns and its extents are freed (R410). -/
def resumeAllIn (s : State) (i : Nat) : State :=
  match (s.seqEnt i).job with
  | none => s
  | some j =>
    if j.kind = 2 ∧ j.left = [] then
      (((s.freeExtents i).onSeqEnt i fun e => { e with job := none })).returnSeq i
    else s

/-- Sequences whose cache named one of `slots` are lost with them (R359). -/
def loseCaches (s : State) (slots : List Nat) : State :=
  (s.stw.seqt.filter fun p => p.2.handles.any fun h => slots.contains (h.toNat % 2 ^ 24)).foldl (fun t p => t.loseSeq p.1) s

/-- A time-to-live expiry (R407). -/
def expireSeq (s : State) (i : Nat) : State :=
  let e := s.seqEnt i
  let near := e.st = .complete ∨ e.st = .pausedNear
  if near then
    if e.job.isSome ∨ e.retry.isSome then s
    else if e.ttlw ≠ 0 then s.sealDown i .pausedWide false
    else if e.ttld ≠ 0 then s.sealDown i .pausedDeep false
    else s.endSeq i .expired stOK
  else if e.st = .pausedWide ∧ e.ttld ≠ 0 then
    if e.job.isSome then s.onSeqEnt i fun x => { x with retry := some .pausedDeep, retryAuto := x.auto, retryAt := s.tick.tick + 1, expiry := 0 }
    else s.moveDown i
  else if e.st = .pausedWide ∨ e.st = .pausedDeep then s.endSeq i .expired stOK
  else s

/-- A seal or move that was refused or failed is tried again from the next tick boundary on (R409). -/
def retryJob (s : State) (i : Nat) : State :=
  let e := s.seqEnt i
  if s.tick.tick < e.retryAt ∨ e.job.isSome ∨ e.resuming ∨ s.seqEnded i then s
  else match e.retry with
    | none => s
    | some d => if e.st = .pausedWide ∧ d = .pausedDeep ∧ e.handles ≠ [] then s.moveDown i else s.sealDown i d e.retryAuto

end State

end Sys2Proof.Machine
end

