-- ==== Sys2Proof/Machine/Steps.lean ====
section
/-! DEFINITION. Batch steps: building, sampling, commit, abandonment (R362 to R371, R430, R444). -/

namespace Sys2Proof.Machine

open Adr

namespace State

/-- GLV_STAT.STATE of a glove by R430: 0 FREE, 1 LOADING, 2 READY, 3 RUNNING, 4 FAULTED, 5 RESETTING. -/
def gloveCode (s : State) (g : Nat) : Nat :=
  let v := s.glove g
  let q := s.gsq v.gsq
  if !v.live then 0
  else if v.resetting then 5
  else if v.faulted.isSome || v.stuck then 4
  else if q.state = .running ∨ q.state = .waiting then 3
  else if q.slots.any fun x => x == .loaded || x == .armed || x == .active then 2
  else 1

/-- ENABLE of STW_GCFG. -/
def serves (s : State) (g : Nat) : Bool := s.fld (stwGcfg g) 45 1 == 1

/-- Whether a raise of a glove's generation to `n` would put it 32,768 or more ahead of a record still in flight (R37, R345): a record of
a STAMP plan of the glove, entered or in its send area, with the generation that it was stamped with. -/
def genBlocked (s : State) (g n : Nat) : Bool :=
  let ahead := fun (gen : Nat) => (n + 65536 - gen) % 65536 ≥ 32768
  s.stw.plans.any fun p => p.2.valid && p.2.glove == g && p.2.stamp &&
    ((p.2.entered.any fun e => ahead (s.nearNat (taOfs p.2.sbase + e.1 * p.2.rlen + 3) 2)) || p.2.send.any fun r => ahead (leAt r.2 3 2))

/-- A raise of a glove's XCH_GEN by one, or its deferral to the next step (R37, R371). -/
def raiseGen (s : State) (g : Nat) : State :=
  let n := (s.fld (xchGen g) 0 16 + 1) % 65536
  if s.genBlocked g n then (s.raise stwEvt 4).onServe g fun v => { v with genDefer := v.genDefer + 1 }
  else s.setFld (xchGen g) 0 16 n

/-- The raises deferred to this step are made again (R37). -/
def raiseDeferred (s : State) (g : Nat) : State :=
  let n := (s.serve g).genDefer
  (List.range n).foldl (fun t _ => t.raiseGen g) (s.onServe g fun v => { v with genDefer := 0 })

/-! Building (R362 to R364, R374, R375). -/

/-- The tokens that R362 gives a sequence, with `tok` tokens of the budget used; none when the row finds no room. -/
def rowTokens (e : SeqEnt) (tok tbud : Nat) : Option Nat :=
  if tok ≥ tbud then none
  else if e.st = .decode then some (1 + min e.dlen (tbud - tok - 1))
  else
    let n := min e.plen (tbud - tok)
    let m := if n < e.plen then (e.clen + n) / 64 * 64 - e.clen else n
    if m = 0 then none else some m

/-- A row of a step, as the build leaves it (R363). -/
def newRow (e : SeqEnt) (i n : Nat) : RowSt :=
  { seq := i, prefill := e.st ≠ .decode, sample := e.st = .decode || n == e.plen, pos := e.clen, ntok := n,
    dlen := if e.st = .decode then n - 1 else 0, toks := [], gnext := e.gstate, drafts := [], ends := false, fail := none }

/-- A row is added: INSTEP and GEN are set, and the run of NOPAGE sit-outs returns to 0 (R364, R371). -/
def addRow (s : State) (i gen : Nat) : State :=
  s.onSeqEnt i fun e => { e with instep := true, gen := gen, run := 0, retry := none }

/-- A sequence sits out for want of pages; a run that reaches PAGEWAIT seals its cache (R364). -/
def sitNoPage (s : State) (g i : Nat) : State :=
  let s1 := ((s.raise stwEvt 3).onSeqEnt i fun e => { e with run := e.run + 1 }).trimPages i 0
  if (s1.seqEnt i).run ≥ s.fld (stwGcfg g) 37 8 then s1.sealDown i .pausedWide true else s1

/-- Whether the completion ring of a sequence keeps it out of the step (R512). -/
def ringStalls (s : State) (i : Nat) : Bool := (s.cq (s.seqEnt i).cring).backlog.length ≥ 4096

/-- What a build has made so far. -/
structure Build where
  s : State
  rows : List RowSt
  tok : Nat

/-- A sequence of the batch in the step being built (R362). -/
def buildBatch (g gen bmax tbud : Nat) (b : Build) (i : Nat) : Build :=
  let e := b.s.seqEnt i
  if b.rows.length ≥ bmax ∨ e.job.isSome then b
  else if b.s.ringStalls i then { b with s := b.s.raise hifEvt 2 }
  else match rowTokens e b.tok tbud with
    | none => { b with s := (b.s.count stwCntBudget).trimPages i 0 }
    | some n =>
      let t := (b.s.trimPages i n).makeRoom i (e.clen + n)
      match t.takePages i (e.clen + n) with
      | none => { b with s := t.sitNoPage g i }
      | some s1 => { s := s1.addRow i gen, rows := b.rows ++ [newRow e i n], tok := b.tok + n }

/-- A sequence that waits to join (R362): resumed ones, then the admission queue. -/
def buildJoin (g gen bmax tbud : Nat) (b : Build) (i : Nat) : Build :=
  let e := b.s.seqEnt i
  if b.rows.length ≥ bmax ∨ b.s.residentsReady i = false then b
  else if b.s.ringStalls i then { b with s := b.s.raise hifEvt 2 }
  else match rowTokens e b.tok tbud with
    | none => b
    | some n =>
      let t := (b.s.trimPages i n).makeRoom i (e.clen + n)
      match t.takePages i (e.clen + n) with
      | none => { b with s := t }
      | some s1 =>
        let s2 := (s1.onSeqEnt i fun e => { e with st := if e.st = .admitted then .prefill else e.st }).addRow i gen
        { s := s2.onServe g fun v => { v with batch := v.batch ++ [i], queue := v.queue.filter (· ≠ i), autoBack := v.autoBack.filter (· ≠ i) },
          rows := b.rows ++ [newRow e i n], tok := b.tok + n }

/-- The bytes of a step table (R363). -/
def stepTable (s : State) (step gen : Nat) (rows : List RowSt) (tok : Nat) : List Byte :=
  toBytes step 8 ++ toBytes (gen + rows.length * 2 ^ 16 + tok * 2 ^ 29) 8 ++ List.replicate 48 0 ++
  rows.flatMap fun r =>
    let e := s.seqEnt r.seq
    toBytes (r.seq + (if r.prefill then 2 ^ 17 else 0) + (if r.sample then 2 ^ 18 else 0) + r.pos * 2 ^ 19 + r.ntok * 2 ^ 39
      + r.dlen * 2 ^ 59) 8
    ++ toBytes e.kvd 8 ++ toBytes e.ita 8 ++ toBytes e.spp 8
    ++ toBytes (e.gstate + e.adapter * 2 ^ 32 + (if e.adp then 2 ^ 44 else 0) + (if e.spec then 2 ^ 45 else 0)) 8
    ++ List.replicate 24 0

/-- The row cap of R444 at a build. -/
def capAtBuild (s : State) (g : Nat) : State :=
  let bmax := s.fld (stwGcfg g) 0 13
  if (s.glove g).heldSwitch then
    ((s.raise tkeLevt 1).onServe g fun v => { v with cap := max 1 (v.cap / 2) }).onGlv g fun v => { v with heldSwitch := false }
  else s.onServe g fun v => { v with cap := min bmax (2 * v.cap) }

/-- The switch-ins that a step's rows are the first of are counted (R416, R421). -/
def countSwitchins (s : State) (rows : List RowSt) : State :=
  ((rows.map fun r => (s.seqEnt r.seq).model).eraseDups).foldl (fun t m =>
    if (t.model m).fresh then (t.onModel m fun x => { x with fresh := false }).count resCntSwin else t) s

/-- The table of a built step is written, and the start counter advances (R363). -/
def startStep (s : State) (g gen : Nat) (rows : List RowSt) (tok : Nat) : State :=
  let v := s.serve g
  let step := if v.started then v.step + 1 else v.step
  let s1 := s.onServe g fun v =>
    { v with step := step, started := true, phase := 1, gen := gen, rows := rows, nrows := rows.length, ntok := tok, abandoned := false }
  let s2 := s1.stewardWrite (s.fld (stwGstb g) 0 56 + step % 2 * 0x41000) (s1.stepTable step gen rows tok)
  let c := ctrName (s.reg (stwGstart g))
  (s2.bumpArrival c.1 c.2.1 c.2.2).countSwitchins rows

/-- The conditions under which the steward builds a step for a glove (R362, R418, R449). -/
def mayBuild (s : State) (g : Nat) : Bool :=
  let v := s.serve g
  s.serves g && (s.gloveCode g == 2 || s.gloveCode g == 3) && v.phase == 0 && !v.cuff && s.rung.entering.isNone
    && (s.rung.rung == 0 || s.rung.auto) && !(v.batch == [] && v.autoBack == [] && v.queue == [])

/-- The steward builds the next step of a glove (R362). -/
def buildStep (s : State) (g : Nat) : State :=
  if s.mayBuild g = false then s
  else
    let s1 := (s.raiseDeferred g).capAtBuild g
    let v := s1.serve g
    let gen := s1.fld (xchGen g) 0 16
    let bmax := min (s1.fld (stwGcfg g) 0 13) v.cap
    let tbud := s1.fld (stwGcfg g) 13 20
    let order := (v.batch.filter fun i => (s1.seqEnt i).st == .decode) ++ v.batch.filter fun i => (s1.seqEnt i).st != .decode
    let b1 := order.foldl (buildBatch g gen bmax tbud) ⟨s1, [], 0⟩
    let b2 := (v.autoBack ++ v.queue).foldl (buildJoin g gen bmax tbud) b1
    if b2.rows = [] then b2.s else b2.s.startStep g gen b2.rows b2.tok

/-- Every glove's step build is tried. -/
def buildAll (s : State) : State := (List.range 64).foldl (fun t g => t.buildStep g) s

/-! Abandonment (R369 to R371). -/

/-- The sequences of a step leave it uncommitted: drafts dropped, held cancels and pauses applied (R370). -/
def abandonRow (s : State) (r : RowSt) : State :=
  let s1 := s.onSeqEnt r.seq fun e => { e with dlen := 0, instep := false }
  let e := s1.seqEnt r.seq
  if e.canreq then s1.cancelSeq r.seq else if e.pausereq then s1.pauseSeq r.seq else s1

/-- A planned swap: the standby serves (R380). A former primary that an activation then reloads is out of sync until it is ready (R595). -/
def swapNow (s : State) : State :=
  let reload : Bool := match s.aos.act with | some (4, _) => true | _ => false
  ((s.raise stwEvt 5).completeOpt s.stw.swapCmd stOK).onStw fun b =>
    { b with serving := 1 - b.serving, swapCmd := none, beats := 0, standbyReady := b.standbyReady && !reload }

/-- A glove whose next commit a planned swap waited for has reached it (R380). -/
def swapReached (s : State) (g : Nat) : State :=
  if g ∉ s.stw.swapLeft then s
  else
    let s1 := s.onStw fun b => { b with swapLeft := b.swapLeft.filter (· ≠ g) }
    if s1.stw.swapLeft = [] then s1.swapNow else s1

/-- The running step of a glove is abandoned: no row commits, the abandonment is counted and the generation rises
(R370, R371). -/
def abandonStep (s : State) (g : Nat) : State :=
  let v := s.serve g
  if v.phase = 0 then s
  else
    let s1 := s.onServe g fun v => { v with phase := 0, abandoned := true, rows := [] }
    let s2 := v.rows.foldl (fun t r => t.abandonRow r) s1
    ((s2.raise stwEvt 2).raiseGen g).swapReached g

/-! Sampling and commit (R365 to R368, R386 to R391). -/

/-- Every row of a step is sampled in table order; each row draws its own free values. None when the step fails. -/
def sampleRows (s : State) (g : Nat) : List RowSt → Nat → Option (State × List RowSt)
  | [], _ => some (s, [])
  | r :: rest, j =>
    match s.sampleRow g j r with
    | none => none
    | some r1 =>
      match (s.spend 32).sampleRows g rest (j + 1) with
      | none => none
      | some (t, l) => some (t, r1 :: l)

/-- The sampler finishes every row: C is the first tick whose boundary falls at least 16 rc later (R365). A refused or
uncorrected read fails the step (R369, R392). -/
def finishSampler (s : State) (g : Nat) : State :=
  match s.sampleRows g (s.serve g).rows 0 with
  | none => (s.abandonStep g).buildStep g
  | some (t, rows) => t.onServe g fun v => { v with rows := rows, phase := 3, commit := s.nextBoundary }

/-- The draft tokens among a row's input tokens. -/
def rowDrafts (s : State) (r : RowSt) : List Nat :=
  (List.range r.dlen).map fun k => s.nearNat (taOfs (s.seqEnt r.seq).ita + 4 * (r.ntok - r.dlen + k)) 4

/-- How many of the delivered tokens are drafts. -/
def accepted (toks drafts : List Nat) : Nat := ((toks.zip drafts).takeWhile fun p => p.1 == p.2).length

/-- The entries that deliver a row's tokens: ring, words (R366, R368, R511). -/
def rowEntries (s : State) (step : Nat) (r : RowSt) : List (Nat × List Word) :=
  let e := s.seqEnt r.seq
  r.toks.zipIdx.map fun p =>
    (e.cring, s.cplWords (s.seqHandle r.seq) 0 0 1 (BitVec.ofNat 64 (p.1 + (e.outn + p.2 + 1) * 2 ^ 24)) (BitVec.ofNat 64 step))

/-- A row commits (R366, R367, R391). -/
def commitRow (s : State) (g : Nat) (r : RowSt) : State :=
  let e := s.seqEnt r.seq
  let j := r.toks.length
  let stays := r.fail.isSome && j == 0
  let input := (List.range r.ntok).map fun k => s.nearNat (taOfs e.ita + 4 * k) 4
  let adv := if stays then 0 else if r.prefill then r.ntok else j
  let outn := e.outn + j
  let dlen := if r.ends then 0 else min r.drafts.length (min (s.fld (stwGcfg g) 33 4) (e.outmax - outn - 1))
  let ita := if r.prefill ∧ stays = false then e.ita + 4 * r.ntok else e.ita
  let plen := if r.prefill ∧ stays = false then e.plen - r.ntok else e.plen
  let s1 := if r.dlen = 0 then s
    else (s.count stwCntDraft r.dlen).count stwCntAccept (accepted r.toks (s.rowDrafts r))
  let s2 := s1.onSeqEnt r.seq fun x =>
    { x with clen := e.clen + adv, outn := outn, gstate := r.gnext, dlen := dlen, ita := ita, plen := plen,
             st := if r.ends then .complete else if plen > 0 then .prefill else .decode }
  let s3 := match r.toks.getLast? with
    | none => s2
    | some t => s2.stewardWrite ita (toBytes t 4 ++ (r.drafts.take dlen).flatMap fun d => toBytes d 4)
  let s4 := s3.commitToks r.seq (input.take adv) (e.clen / 64)
  if r.ends then
    let s5 := match r.fail with
      | some 0x4F => s4.raise resEvt 4
      | some _ => s4.raise resEvt 5
      | none => s4
    ((((s5.leaveBatch r.seq).trimPages r.seq 0).onSeqEnt r.seq fun x => { x with expiry := s.expiryFor x.ttln }).stampSeq r.seq).seqEndCpl r.seq
      (r.fail.getD stOK)
  else s4

/-- The commit of a step (R365): held cancels, the other rows, held pauses, INSTEP, deliveries; then what falls at the
glove's commit, and the next step is built. -/
def commitStep (s : State) (g : Nat) : State :=
  let v := s.serve g
  let live := v.rows.filter fun r => (s.seqEnt r.seq).instep && !(s.seqEnt r.seq).canreq
  let toks := live.flatMap fun r => s.rowEntries v.step r
  let s1 := toks.foldl (fun t p => t.putCq p.1 1 p.2) s
  let s2 := (v.rows.filter fun r => (s.seqEnt r.seq).canreq).foldl (fun t r => t.cancelSeq r.seq) s1
  let s3 := live.foldl (fun t r => t.commitRow g r) s2
  let s4 := (live.filter fun r => (s.seqEnt r.seq).pausereq).foldl (fun t r => t.pauseSeq r.seq) s3
  let s5 := v.rows.foldl (fun t r => t.onSeqEnt r.seq fun e => { e with instep := false, canreq := false, pausereq := false }) s4
  let s6 := (s5.count stwCntStep).onServe g fun v => { v with phase := 0, rows := [], last := toks }
  ((s6.commitResidency g).swapReached g).buildStep g

end State

end Sys2Proof.Machine
end

