-- ==== Sys2Proof/Machine/Exchange.lean ====
section
/-! DEFINITION. The expert exchange: staging, phases, rounds, receiving and outcomes (R326 to R348). -/

namespace Sys2Proof.Machine

open Adr

namespace State

/-- The records entered for destination `d`, in staging order. -/
def enteredFor (x : PlanSt) (d : Nat) : List Nat := (x.entered.filter fun e => e.2 == d + 1).map (·.1)

/-- The scatter of R336: the send area in destination order. -/
def scatter (s : State) (p : Nat) : State :=
  let x := s.plan p
  let recs := (List.range x.dests.length).flatMap fun d => (enteredFor x d).map fun n =>
    (d, s.nearBytes (taOfs x.sbase + n * x.rlen) x.rlen)
  let s1 := s.onPlan p fun x => { x with send := recs }
  s1.stewardWrite (x.sbase + x.slen) (recs.flatMap (·.2))

/-- The count row of this participant (R335). -/
def countRow (s : State) (p : Nat) : CountRow :=
  let x := s.plan p
  { part := x.self, tag := x.tag, tick := BitVec.ofNat 64 x.t0, ofs := x.ofs0, n := s.tick.n,
    fail := (x.fail.map (·.1)).getD 0, counts := (List.range x.dests.length).map fun d => (enteredFor x d).length }

/-- The other participants of a plan. -/
def others (x : PlanSt) : List Nat := (List.range x.npart).filter (· ≠ x.self)

/-- The EXCH that waits on plan `p`, if its sequencer still does, completes with a status (R340). -/
def exchEnds (s : State) (p st : Nat) : State :=
  match s.gsqOf (s.plan p).glove with
  | none => s
  | some q => match (s.gsq q).waitFor with
    | some (.exchange t) => s.exchDone q st t
    | _ => s

/-- A plan's phase ends: counts return to 0 and held records are discarded (R327, R340). -/
def clearPhase (s : State) (p : Nat) : State :=
  s.onPlan p fun x => { x with entered := [], badDest := false, stage := .idle, rows := [], fail := none, send := [],
                               accepted := [], arrived := 0, rounds := 0, round := 0 }

/-- XCH_LAST: the last phase ended, its R, and the lowest destination that needed R rounds (R352). -/
def xchLastWord (x : PlanSt) (p : Nat) : Word :=
  let need := fun (d : Nat) =>
    let t := (x.rows.map fun r => r.counts.getD d 0).foldl (· + ·) 0
    ceilDiv t (x.dests.getD d default).wcap
  let m := ((List.range x.dests.length).find? fun d => max 1 (need d) == x.rounds).getD 0
  BitVec.ofNat 64 (p + x.glove * 2 ^ 8 + x.rounds % 2 ^ 24 * 2 ^ 14 + m * 2 ^ 38)

/-- The M-cells of a destination. -/
def destCells (d : DestEnt) : List Nat := (List.range d.ncell).map fun i => 288 * d.die + d.cell0 + i * d.cstep

/-- The receive windows and the send area become undefined (R348). -/
def scrambleRecv (s : State) (p : Nat) : State :=
  let x := s.plan p
  let mine := (x.dests.filter fun d => d.part == x.self).flatMap fun d => (destCells d).eraseDups.filter (· < 2304)
  let s1 := mine.foldl (fun t g =>
    ((List.range 8).filter fun w => (t.fld (rwin (g / 288) (g % 288) w) 23 2) ≠ 0).foldl (fun t w =>
      t.scrambleRows g (t.fld (rwin (g / 288) (g % 288) w) 0 11) (t.fld (rwin (g / 288) (g % 288) w) 11 12)) t) s
  s1.scrambleNear (taOfs x.sbase + x.slen) x.slen

/-- A phase fails: counted, logged when ABORT reads 0, and the EXCH completes with the outcome (R340, R348, R351). -/
def phaseFails (s : State) (p code part : Nat) : State :=
  let x := s.plan p
  let w := BitVec.ofNat 64 (p + x.glove * 2 ^ 8 + code * 2 ^ 16 + part * 2 ^ 24 + x.round * 2 ^ 32)
  let s1 := (if s.flag xchEvt 0 then s else s.setReg xchAlog w).raise xchEvt 0
  let s2 := (s1.setReg xchLast (xchLastWord x p)).scrambleRecv p
  (s2.clearPhase p).exchEnds p code

/-- A round starts: E_ROUND is charged (R338, R441), and the receive positions start anew. -/
def openRound (s : State) (p : Nat) : State :=
  let x := s.plan p
  ((s.charge x.glove x.eround).count xchCntRound).onPlan p fun x =>
    { x with stage := .count, accepted := x.dests.map fun _ => 0, arrived := 0 }

/-- Whether the tick is aligned: LOCKED or HOLDOVER (R59). -/
def tickHeld (s : State) : Bool := s.tick.reported == .locked || s.tick.reported == .holdover

/-- The outcome of the count rows (R335): each finding with its participant. -/
def judgeRows (s : State) (p : Nat) : State :=
  let x := s.plan p
  let s1 := (others x).foldl (fun t q =>
    match x.rows.find? fun r => r.part == q with
    | none => t.xFail p 0x21 q
    | some r =>
      let t1 := if r.tag ≠ x.tag ∨ r.tick.toNat ≠ x.t0 ∨ r.ofs ≠ x.ofs0 then t.xFail p 0x26 q else t
      if r.fail = 0 then t1 else t1.xFail p r.fail q) s
  if x.clen + x.dlen + x.xlen ≥ x.rstride * s.tick.n then s1.xFail p 0x26 x.self else s1

/-- R and the destinations over their windows (R337, R338). -/
def deriveRounds (s : State) (p : Nat) : State :=
  let x := s.plan p
  let totals := (List.range x.dests.length).map fun d => ((x.rows.map fun r => r.counts.getD d 0).foldl (· + ·) 0, (x.dests.getD d default).wcap)
  let r := totals.foldl (fun acc t => max acc (ceilDiv t.1 t.2)) 1
  (s.onPlan p fun x => { x with rounds := r }).count xchCntOver (totals.filter fun t => t.1 > t.2).length

/-- The records that this participant sends in the present round, in ascending destination and send-window order
(R337, R339). -/
def roundRecords (x : PlanSt) : List (Nat × List Byte) :=
  (List.range x.dests.length).flatMap fun d =>
    let before := ((x.rows.filter fun r => r.part < x.self).map fun r => r.counts.getD d 0).foldl (· + ·) 0
    let w := (x.dests.getD d default).wcap
    (((x.send.filter fun r => r.1 == d).zipIdx).filter fun r => (before + r.2) / w == x.round).map (·.1)

/-- The slot in which byte `n` of the records for participant `q` travels, by the SEND slots in order of START (R332,
R339). -/
def sendSlot (x : PlanSt) (q n : Nat) : Option SlotEnt :=
  let sl := (x.slots.filter fun e => e.kind == 0 && e.src == x.self && e.dst == q).sortBy fun a b => a.start ≤ b.start
  (sl.foldl (fun (acc : Option SlotEnt × Nat) e =>
    match acc.1 with
    | some f => (some f, acc.2)
    | none => if n < acc.2 + 480 * e.len then (some e, acc.2) else (none, acc.2 + 480 * e.len)) (none, 0)).1

/-- The records of participant `q` for destination `d` in the present round (R337). -/
def roundShare (x : PlanSt) (q d : Nat) : Nat :=
  let count := fun (r : CountRow) => r.counts.getD d 0
  let before := ((x.rows.filter fun r => r.part < q).map count).foldl (· + ·) 0
  let n := ((x.rows.find? fun r => r.part == q).map count).getD 0
  let w := (x.dests.getD d default).wcap
  min (before + n) ((x.round + 1) * w) - max before (x.round * w)

/-- The participant that stopped sending, when fewer records arrived in a round than the count rows give it (R347): the lowest other one
that had records to send, since a record does not name its sender. -/
def stoppedSender (x : PlanSt) : Option Nat :=
  let mine := (List.range x.dests.length).filter fun d => (x.dests.getD d default).part == x.self
  let due := fun (q : Nat) => (mine.map fun d => roundShare x q d).foldl (· + ·) 0
  if x.rounds = 0 ∨ x.arrived ≥ ((List.range x.npart).map due).foldl (· + ·) 0 then none
  else (others x).find? fun q => due q > 0

/-- A record arrives at the receive unit of plan `p` (R343, R346). -/
def receive (s : State) (p : Nat) (rec : List Byte) : State :=
  let x := s.plan p
  let h : Word := BitVec.ofNat 64 (leAt rec 0 8)
  let d := h.field 0 12
  let e := x.dests.getD d default
  let j := x.accepted.getD d 0
  let delta := (s.fld (xchGen x.glove) 0 16 + 65536 - h.field 24 16) % 65536
  if x.valid = false ∨ (x.stage ≠ .count ∧ x.stage ≠ .data) ∨ d ≥ x.dests.length ∨ e.part ≠ x.self ∨ j ≥ e.wcap then s
  else
  let s := s.onPlan p fun x => { x with arrived := x.arrived + 1 }
  if x.genchk ∧ delta ≥ 32768 then s.raise xchEvt 3
  else if x.genchk ∧ delta ≠ 0 then s.raise xchEvt 2
  else
    let g0 := 288 * e.die + e.cell0
    let hbase := s.fld (rwin e.die e.cell0 e.hwin) 0 11
    let hb := 64 + 8 * j
    let (s1, ok1) := s.remote g0 (hbase + hb / 512) (hb % 512) e.hwin x.glove (toBytes h.toNat 8) false
    let payload := rec.drop 8
    let r := (destCells e).zipIdx.foldl (fun (acc : State × Bool) c =>
      let base := acc.1.fld (rwin (c.1 / 288) (c.1 % 288) e.win) 0 11
      (List.range e.slice).foldl (fun acc k =>
        let part := (payload.drop ((c.2 * e.slice + k) * 512)).take 512
        let (t, ok) := acc.1.remote c.1 (base + j * e.slice + k) 0 e.win x.glove (part ++ List.replicate (512 - part.length) 0) false
        (t, acc.2 && ok)) acc) (s1, ok1)
    let s2 := (r.1.onPlan p fun x => { x with accepted := x.accepted.set d (j + 1) }).count xchCntRec
    if r.2 then s2 else s2.xFail p 0x24 x.self

/-- The sends of a data stage (R339): local records cross to the copy of the plan of their participant on this module,
the others leave by their slots; a slot whose link fails carries nothing. -/
def sendRound (s : State) (p : Nat) (bad : List Nat) : State :=
  let x := s.plan p
  let me := s.nodeId.getD 0x1FFF
  ((roundRecords x).foldl (fun (acc : State × List (Nat × Nat)) r =>
    let q := (x.dests.getD r.1 default).part
    if (x.parts.getD q default).1 = me then
      match acc.1.stw.plans.find? fun c => c.2.valid && c.2.tag == x.tag && c.2.self == q && c.2.glove == (x.parts.getD q default).2 with
      | some c => (acc.1.receive c.1 r.2, acc.2)
      | none => acc
    else
      let sent := ((acc.2.find? fun y => y.1 == q).map (·.2)).getD 0
      let acc2 := (q, sent + r.2.length) :: acc.2.filter fun y => y.1 ≠ q
      match sendSlot x q sent with
      | some e => (if bad.contains e.link then acc.1 else acc.1.emit (.xRecord p q e.link r.2), acc2)
      | none => (acc.1, acc2)) (s, [])).1

/-- The receive unit finishes a destination at the close of a round: pad rows, null headers and the count word (R344). -/
def finishDest (s : State) (p d : Nat) : State :=
  let x := s.plan p
  let e := x.dests.getD d default
  let n := x.accepted.getD d 0
  let g0 := 288 * e.die + e.cell0
  let hbase := s.fld (rwin e.die e.cell0 e.hwin) 0 11
  let pad := (List.range 256).flatMap fun _ => toBytes e.pad 2
  let rows := (List.range (ceilDiv n 64 * 64 - n)).flatMap fun i => (List.range e.slice).map fun k => (n + i) * e.slice + k
  let r1 := (destCells e).foldl (fun (acc : State × Bool) g =>
    let base := acc.1.fld (rwin (g / 288) (g % 288) e.win) 0 11
    rows.foldl (fun acc r => let (t, ok) := acc.1.remote g (base + r) 0 e.win x.glove pad false; (t, acc.2 && ok)) acc) (s, true)
  let r2 := (List.range (e.wcap - n)).foldl (fun (acc : State × Bool) i =>
    let hb := 64 + 8 * (n + i)
    let (t, ok) := acc.1.remote g0 (hbase + hb / 512) (hb % 512) e.hwin x.glove (toBytes 0xFFFFFF 8) false
    (t, acc.2 && ok)) r1
  let (s3, ok) := r2.1.remote g0 hbase 0 e.hwin x.glove (toBytes (n + x.round % 2 ^ 24 * 2 ^ 24) 64) false
  if r2.2 && ok then s3 else s3.xFail p 0x24 x.self

/-- A participant leaves its phases at its glove's reset: it sends nothing more (R348, R432). -/
def leavePhases (s : State) (g : Nat) : State :=
  (s.stw.plans.filter fun q => q.2.valid && q.2.glove == g && q.2.stage != .idle).foldl
    (fun t q => (t.scrambleRecv q.1).clearPhase q.1) s

/-- Whether an exchange round of the module is in progress (R449). -/
def roundRuns (s : State) : Bool := s.stw.plans.any fun q => q.2.stage == .count || q.2.stage == .data

end State

/-! The commands. -/

/-- STAGING_RECORD_ENTRY (R327, R345): the header unit of a record is written into the staging range. -/
def stagingRecordEntryOp (plan rec : Nat) (header : Word) (s : State) : State :=
  let x := s.plan plan
  if x.valid = false ∨ rec * x.rlen ≥ x.slen then s
  else
    let (s1, h) := s.stageHeader plan rec header
    s1.stewardWrite (x.sbase + rec * x.rlen) (toBytes h.toNat 8)

/-- EXCHANGE_PHASE_START (R335, R336, R348): round 0 opens. -/
def exchangePhaseStartOp (plan : Nat) (rows : List CountRow) (scatterLate : Bool) (s : State) : State :=
  let x := s.plan plan
  if s.turn (.phase plan) = false then s
  else if s.tickHeld = false then s.phaseFails plan 0x11 x.self
  else
    let s1 := (s.openRound plan).scatter plan
    let s2 := if x.badDest then s1.xFail plan 0x23 x.self else s1
    let s3 := if scatterLate then s2.xFail plan 0x25 x.self else s2
    let mine := s2.countRow plan
    let s4 := s3.onPlan plan fun y => { y with rows := mine :: rows.filter fun r => r.part ≠ x.self ∧ r.part < x.npart }
    (State.others x).foldl (fun t q => t.emit (.xRow plan q mine)) s4

/-- DATA_STAGE (R335, R337 to R339, R347, R348): the rows are judged and the round's records are sent. -/
def dataStageOp (plan : Nat) (linksBad : List Nat) (localLate : Bool) (s : State) : State :=
  let x := s.plan plan
  if x.stage ≠ .count ∨ s.nowRc < s.roundStart x + x.clen then s
  else
    let s1 := if x.round = 0 then s.judgeRows plan else s
    let s2 := s1.onPlan plan fun y => { y with stage := .data }
    if (s2.plan plan).fail.isSome then s2
    else if s2.tickHeld = false then s2.xFail plan 0x11 x.self
    else
      let s3 := if x.round = 0 then s2.deriveRounds plan else s2
      let bad := ((x.slots.map (·.link)) ++ ((x.slots.filter fun e => e.kind == 2).map (·.outlink))).filter fun l =>
        linksBad.contains l || (s.net.links.at l).st != .up2
      let s4 := if bad = [] then s3 else s3.xFail plan 0x22 x.self
      let s5 := s4.sendRound plan bad
      if localLate then s5.xFail plan 0x25 x.self else s5

/-- RECEIVE_RECORD (R343, R346). -/
def receiveRecordOp (plan : Nat) (rec : List Byte) (s : State) : State := s.receive plan rec

/-- FWD_SLOT (R339): a record that arrives on LINK leaves on OUTLINK. -/
def fwdSlotOp (plan slot : Nat) (rec : List Byte) (s : State) : State :=
  let x := s.plan plan
  match x.slots[slot]? with
  | none => s
  | some e =>
    if x.valid = false ∨ e.kind ≠ 2 ∨ x.stage ≠ .data then s
    else if s.tickHeld = false then s.xFail plan 0x11 x.self
    else if (s.net.links.at e.outlink).st ≠ .up2 then s.xFail plan 0x22 x.self
    else s.emit (.xRecord plan e.dst e.outlink rec)

/-- CLOSE_STAGE (R338, R340, R344, R348): statuses are exchanged, the windows finished, the round's outcome set. -/
def closeStageOp (plan : Nat) (statuses : List (Nat × Nat)) (s : State) : State :=
  let x := s.plan plan
  if x.stage ≠ .data ∨ s.nowRc < s.roundStart x + x.clen + x.dlen then s
  else
    let s1 := if x.rounds = 0 then s
      else ((List.range x.dests.length).filter fun d => (x.dests.getD d default).part == x.self).foldl (fun t d => t.finishDest plan d) s
    let s2 := if s1.tickHeld = false then s1.xFail plan 0x11 x.self else s1
    let mine := ((s2.plan plan).fail.map (·.1)).getD 0
    let s3 := (State.others x).foldl (fun t _ => t.emit (.xStatus plan mine)) s2
    let s4 := (State.others x).foldl (fun t q =>
      match statuses.find? fun y => y.1 == q with
      | none => t.xFail plan 0x21 q
      | some y => if y.2 = 0 then t else t.xFail plan y.2 q) s3
    let s4 := match (s4.plan plan).fail, State.stoppedSender (s4.plan plan) with
      | none, some q => s4.xFail plan 0x21 q
      | _, _ => s4
    match (s4.plan plan).fail with
    | some f => s4.phaseFails plan f.1 f.2
    | none =>
      if x.round + 1 ≥ x.rounds then
        ((((s4.count xchCntPhase).setReg xchLast (State.xchLastWord x plan)).clearPhase plan).exchEnds plan stOK)
      else (s4.onPlan plan fun y => { y with stage := .pending, round := x.round + 1 }).exchEnds plan 0x20

/-- EXCHANGE_ROUND_OPEN (R338, R341): a later round opens on its continuation. -/
def exchangeRoundOpenOp (plan : Nat) (s : State) : State :=
  let x := s.plan plan
  if s.turn (.round plan) = false then s
  else if s.tickHeld = false then s.phaseFails plan 0x11 x.self
  else (s.raise xchEvt 1).openRound plan

end Sys2Proof.Machine
end

