-- ==== Sys2Proof/Machine/MigDone.lean ====
section
/-! DEFINITION. What a migration request's acceptance, refusal and completion mean to its requester (R303, R305), the LZ2 view, and the fences of channels and ports (R313 to R316). -/

namespace Sys2Proof.Machine

open Adr

namespace State

/-- The state code of an extent in a STATE_CONFLICT completion, by the order of R299. -/
def extCode (e : ExtentSt) : Nat :=
  match e.st with | .writing => 0 | .sealed => 1 | .moving => 2 | .lost => 3 | .free => 4

/-- The adapter slot whose load a command is. -/
def adapterOf (s : State) (c : HostCmd) : Option Nat :=
  (s.stw.adapters.find? fun p => p.2.st == 1 && p.2.cmd == some c).map (·.1)

/-- An adapter's load ends (R414): RESIDENT, or FREE again. -/
def adapterLoaded (s : State) (c : HostCmd) (st : Nat) : State :=
  match s.adapterOf c with
  | none => s
  | some a =>
    if st = stOK then (s.onAdapter a fun x => { x with st := 2, cmd := none }).complete c stOK a
    else (s.onAdapter a fun x => { x with st := 0, cmd := none }).complete c st a

/-- The copy of an adapter's load has been accepted: the record takes the operands, VERSION rises, and the nodes of a slot
that was RESIDENT become STALE (R414, R420). -/
def adapterAccepted (s : State) (c : HostCmd) (r : MigReq) : State :=
  match s.adapterOf c with
  | none => s
  | some a =>
    let s1 := if (s.adapter a).was = 2 then s.staleNodes fun n => n.adp == a + 1 else s
    s1.onAdapter a fun x =>
      { x with model := c.a1.field 12 20, rank := c.a1.field 38 8, key := r.key, glove := r.glove,
               version := (x.version + 1) % 2 ^ 16, nta := r.nta, len := r.len, handle := some (BitVec.ofNat 32 c.a2.toNat) }

/-- The copy of an adapter's load has been refused: the slot is as before. -/
def adapterRefused (s : State) (c : HostCmd) (st : Nat) : State :=
  match s.adapterOf c with
  | none => s
  | some a => (s.onAdapter a fun x => { x with st := x.was, cmd := none }).refuse c st

/-! The LZ2 view (R313, R314). -/

/-- A request of the engine for a page of the view. -/
def lz2Req (s : State) (op page : Nat) : MigReq :=
  let g := s.mem.lz2Glove.getD 0
  { (default : MigReq) with op := op, prio := 0, glove := g, key := (s.glove g).key, len := 2 ^ 21, from_ := .lz2 page }

def lz2Page (s : State) (p : Nat) : Lz2Page := s.mem.lz2Pages.at p
def onLz2 (s : State) (p : Nat) (f : Lz2Page → Lz2Page) : State := s.onMem fun m => { m with lz2Pages := m.lz2Pages.upd p f }

/-- The page slots of the view: 16 a frame. -/
def lz2Slots (s : State) : List Nat := s.mem.lz2Frames.flatMap fun f => (List.range 16).map fun i => f * 2 ^ 25 + i * 2 ^ 21

/-- The least recently used resident page. -/
def lz2Lru (s : State) : Option Nat :=
  (s.mem.lz2Pages.foldl (fun (acc : Option (Nat × Nat)) p =>
    if p.2.at_.isNone then acc
    else match acc with
      | none => some (p.1, p.2.used)
      | some q => if p.2.used < q.2 then some (p.1, p.2.used) else some q) none).map (·.1)

/-- A page becomes resident at `slot`. -/
def lz2In (s : State) (p slot : Nat) : State :=
  (s.onLz2 p fun x => { x with at_ := some slot, dirty := false, used := s.mem.lz2Clock + 1 }).onMem fun m =>
    { m with lz2Clock := m.lz2Clock + 1, lz2Wait := m.lz2Wait.filter (· ≠ p), lz2Fills := m.lz2Fills.filter fun q => q.1 ≠ p }

/-- The wanted page comes to `slot`, which is reserved for it: copied up from its extent, or zeros where nothing has been written
(R313). -/
def lz2Fill (s : State) (p slot : Nat) : State :=
  match (s.lz2Page p).extent with
  | some h => (s.onMem fun m => { m with lz2Fills := m.lz2Fills ++ [(p, slot)] }).submit
      { s.lz2Req 2 p with nta := 2 ^ 52 + slot, slot := h.toNat }
  | none => (s.putNear slot (List.replicate (2 ^ 21) 0)).lz2In p slot

/-- A free page slot of the view: no page resident in it, coming to it or being sealed from it. -/
def lz2Free (s : State) : Option Nat :=
  s.lz2Slots.find? fun a => !(s.mem.lz2Pages.any fun p => p.2.at_ == some a) && !(s.mem.lz2Fills.any fun q => q.2 == a)
    && !(s.mem.lz2Seals.any fun q => q.2.1 == a)

/-- Whether the engine already serves a page, or has still to seal it out (R314). -/
def lz2Served (s : State) (p : Nat) : Bool :=
  (s.mem.lz2Fills.any fun q => q.1 == p) || s.mem.lz2Seals.any fun q => q.1 == p || q.2.2 == p

/-- A waiting access is served: a free slot, a clean page dropped, or a written page sealed first, which is no longer resident from then
on (R314). -/
def lz2Serve (s : State) (p : Nat) : State :=
  if s.lz2Served p then s
  else match s.lz2Free with
  | some a => s.lz2Fill p a
  | none => match s.lz2Lru with
    | none => s
    | some v =>
      let a := ((s.lz2Page v).at_).getD 0
      let s1 := s.onLz2 v fun x => { x with at_ := none }
      if (s.lz2Page v).dirty then (s1.onMem fun m => { m with lz2Seals := m.lz2Seals ++ [(v, a, p)] }).submit
        { s.lz2Req 1 v with nta := 2 ^ 52 + a }
      else s1.lz2Fill p a

/-- The accesses that wait and that nothing serves yet are served, in order (R314). -/
def lz2ServeAll (s : State) : State := s.mem.lz2Wait.foldl (fun t p => t.lz2Serve p) s

/-- A request of the view has ended: a sealed page's previous extent is freed and its slot goes to the page that waits for it; a copied
page is resident. Under TIER_FULL or TABLE_FULL the access waits on, until its next attempt (R314). -/
def lz2Ends (s : State) (r : MigReq) (p st : Nat) : State :=
  if r.op = 1 then
    match s.mem.lz2Seals.find? fun q => q.1 == p && q.2.1 == taOfs r.nta with
    | none => if st = stOK then s.releaseHandle (s.handleOf r.slot) else s
    | some (_, a, w) =>
      let s0 := s.onMem fun m => { m with lz2Seals := m.lz2Seals.filter fun q => q.1 ≠ p }
      if st ≠ stOK then s0.onLz2 p fun x => { x with at_ := some a }
      else
        let s1 := s0.onLz2 p fun x => { x with dirty := false, extent := some (s.handleOf r.slot) }
        let s2 := match (s.lz2Page p).extent with | some h => s1.releaseHandle h | none => s1
        (s2.lz2Fill w a).lz2ServeAll
  else if s.mem.lz2Fills.contains (p, taOfs r.nta) = false then s
  else if st ≠ stOK then s.onMem fun m => { m with lz2Fills := m.lz2Fills.filter fun q => q.1 ≠ p }
  else (s.lz2In p (taOfs r.nta)).lz2ServeAll

/-- The view ends (R313): its page extents are given up with its pages, and its frames return to ordinary use. -/
def lz2Off (s : State) : State :=
  let s1 := s.mem.lz2Pages.foldl (fun (t : State) p => match p.2.extent with | some h => t.releaseHandle h | none => t) s
  s1.onMem fun m => { m with lz2Glove := none, lz2Size := 0, lz2Frames := [], lz2Pages := [], lz2Clock := 0, lz2Wait := [], lz2Fills := [], lz2Seals := [] }

/-! Requesters. -/

/-- Whether a sequencer waits for the acceptance of a SEAL. -/
def waitsSeal (s : State) (q : Nat) : Bool := match (s.gsq q).waitFor with | some (.sealAccept _ _) => true | _ => false


/-- A request has been accepted. -/
def reqAccepted (s : State) (r : MigReq) : State :=
  match r.from_ with
  | .gsq q gd =>
    if s.waitsSeal q then
      let h := s.handleOf r.slot
      ((((s.setGreg q gd (h.zeroExtend 64)).onGsq q fun x => { x with seals := x.seals ++ [r.ident] }).gsqSt q stOK).rerunPoint q 0)
    else s.onGsq q fun x => { x with seals := x.seals ++ [r.ident] }
  | .steward i _ => s.jobAccepted i r.slot
  | .host c 0x34 => s.adapterAccepted c r
  | _ => s

/-- A request has been refused with a status. -/
def reqRefused (s : State) (r : MigReq) (st : Nat) : State :=
  match r.from_ with
  | .gsq q _ => if s.waitsSeal q then s.gsqSt q st else s
  | .host c op =>
    if op = 0x34 then s.adapterRefused c st
    else if st = stConflict then s.refuseState c 4 (extCode (s.extent (r.slot % 2 ^ 24))) r.slot
    else s.refuse c st
  | .steward i _ => s.jobFailed i
  | .residency m e => if (s.model m).swin.isSome then s.swinTierFails m else if e < 4097 then s.replFails m st else s
  | .lz2 p => s.lz2Ends r p st
  | _ => s

/-- A request has completed with a status; with OK its DONE counter advances, where it is enabled (R302, R305). -/
def reqDone (s0 : State) (r : MigReq) (st : Nat) : State :=
  let s := match r.done with | some d => if st = stOK then s0.advanceDone d r.glove else s0 | none => s0
  match r.from_ with
  | .gsq q _ =>
    ((s.onGsq q fun x => { x with seals := x.seals.filter (· ≠ r.ident),
                                  sealFail := if st ≠ stOK ∧ x.sealFail.isNone then some st else x.sealFail })).wakeSealed q
  | .host c op => if op = 0x34 then s.adapterLoaded c st else s.complete c st (s.handleOf r.slot).toNat
  | .steward i _ => s.jobPiece i r.ident st
  | .residency m e =>
    if (s.model m).swin.isSome then (if st = stOK then s.swinUnitsIn m else s.swinTierFails m)
    else if st = stOK then s.replExtentIn m e else s.replFails m st
  | .lz2 p => s.lz2Ends r p st
  | _ => s

/-- The first waiting request takes an entry of the queue and is checked against the state at that moment (R303). A FREE
completes at once (R301). -/
def takeEntry (s : State) : State :=
  match s.mem.waiting with
  | [] => s
  | r :: rest =>
    if s.mem.queue.length ≥ 256 then s
    else
      let s1 := s.onMem fun m => { m with waiting := rest }
      let st := s1.migCheck r
      if st ≠ 0 then s1.reqRefused r st
      else if r.op = 4 then
        (s1.releaseExtent (r.slot % 2 ^ 24)).reqDone { r with slot := r.slot % 2 ^ 24 } stOK
      else
        let s2 := s1.migTake r
        let r2 := (s2.reqById r.ident).getD r
        s2.reqAccepted r2

/-- The frames that name a glove. -/
def gloveFrames (s : State) (g : Nat) : List Nat :=
  (s.mem.tmap.filter fun p => (p.2.mode == .priv || p.2.mode == .shared) && p.2.glove == g).map (·.1)

/-- Whether a seal holds a frame, or a seal in WRITING names it (R300). -/
def frameHeld (s : State) (f : Nat) : Bool :=
  (s.frame f).hold || s.mem.queue.any fun r => r.op == 1 && (framesOf r.nta r.len).contains f

/-- The frames of a destroyed glove that no seal holds are freed; after the last its ID can be reissued, and the command
completes (R429). -/
def finishDestroy (s : State) (g : Nat) : State :=
  if (s.glove g).draining = false then s
  else
    let s1 := ((s.gloveFrames g).filter fun f => !s.frameHeld f).foldl (fun t f => t.freeFrame f) s
    if s1.gloveFrames g = [] then
      (s1.completeOpt (s.glove g).destroyCmd stOK).onGlv g fun _ => default
    else s1

def finishDestroys (s : State) : State := (s.glv.map (·.1)).foldl (fun t g => t.finishDestroy g) s

/-! Fences of channels and ports (R315). -/

def portSt (s : State) (deep : Bool) (i : Nat) : PortState := if deep then (s.mem.dpp.at i).st else (s.mem.ddr.at i).st
def setPort (s : State) (deep : Bool) (i : Nat) (x : PortState) : State :=
  if deep then s.onDpp i fun d => { d with st := x } else s.onDdr i fun d => { d with st := x }

/-- Whether the module is degraded (R592): a fitted die fenced, a fitted stack retired, a populated channel not
ACTIVE. -/
def degraded (s : State) : Bool :=
  (s.dies.any fun p => p.2.arrayFence || p.2.fullFence || p.2.bring == 5)
  || (s.mem.hbmStacks.any fun p => p.2.retired)
  || (s.mem.ddr.any fun p => p.2.st == .draining || p.2.st == .fenced)

/-- SERVICE and DEGRADED follow the parts in service (R592); EARLY ends when every die is released or fenced (R574). -/
def judgeMod (s : State) : State :=
  if s.mstate = .service ∧ s.degraded then (s.toMode .degraded).alert 2
  else if s.mstate = .degraded ∧ s.degraded = false then s.toMode .service
  else if s.mstate = .early ∧ (List.range 8).all (fun k => let d := s.dies.at k; d.bring == 4 || d.bring == 5 || d.arrayFence || d.fullFence) then
    if s.degraded then (s.toMode .degraded).alert 2 else s.toMode .service
  else s

/-- The slots of extents that serve from a chunk on a channel or port. -/
def extentsOn (s : State) (deep : Bool) (i : Nat) : List Nat :=
  (s.mem.extents.filter fun p => p.2.deep == deep && (p.2.st == .sealed || p.2.st == .moving)
    && p.2.chunks.any fun c => c.1 == i).map (·.1)

/-- A channel or port enters FENCED at once: its extents become LOST with the caches they held, and moves and relocations onto it
fail (R305, R315, R359). The fence is counted (R584, R604). -/
def fencePort (s : State) (deep : Bool) (i : Nat) : State :=
  let lost := s.extentsOn deep i
  let s1 := (s.setPort deep i .fenced).fenceCount
  let s2 := if deep then s1 else s1.raise (ddrEvt i) 2
  let s3 := lost.foldl (fun t x => t.loseExtent x) s2
  let lostRel := s3.mem.relocs.filter fun r => r.deep == deep && (r.dst.1 == i || r.old.1 == i)
  let s3 := lostRel.foldl (fun (t : State) _ => t.migFailCount)
    (s3.onMem fun m => { m with relocs := m.relocs.filter fun r => !(r.deep == deep && (r.dst.1 == i || r.old.1 == i)) })
  let moves := s3.mem.queue.filter fun r => r.op == 3 && ((s3.extent r.slot).newChunks.any fun c => deep && c.1 == i)
  let s4 := moves.foldl (fun t r => let (u, st) := t.moveEnd r true; u.reqDone r st) s3
  (s4.loseCaches lost).judgeMod

/-- A channel or port enters DRAINING; with nothing on it, it enters FENCED (R315). -/
def drainPort (s : State) (deep : Bool) (i : Nat) : State :=
  let s1 := (s.setPort deep i .draining).fenceCount
  s1.endDrains.judgeMod

end State

/-! The commands. -/

/-- MIGRATION_QUEUE_ENTRY (R303). -/
def migrationQueueEntryOp (s : State) : State := s.takeEntry

/-- MIGRATION_START (R304): the source tier takes its next request; 0 near, 1 wide, 2 deep. -/
def migrationStartOp (tier : Nat) (s : State) : State := s.migStart tier

/-- HELD_WRITE_RELEASE (R300): the engine has read a unit for the seals that move data, and the writes held for it proceed
when no other seal has still to read it. -/
def heldWriteReleaseOp (frame unit : Nat) (s : State) : State :=
  let read := fun (r : MigReq) => if r.moving ∧ State.covers r frame unit then { r with ahead := (frame, unit) :: r.ahead } else r
  let s1 := s.onMem fun m => { m with queue := m.queue.map read }
  if s1.unitHeld frame unit then s1 else s1.releaseHeld frame unit

/-- A moving request with an identity and an opcode. -/
def State.movingReq (s : State) (ident op : Nat) : Option MigReq :=
  s.mem.queue.find? fun r => r.ident == ident && r.op == op && r.moving

/-- SEAL_COMPLETE (R301, R302, R305, R306). -/
def sealCompleteOp (ident : Nat) (ioError : Bool) (s : State) : State :=
  match s.movingReq ident 1 with
  | none => s
  | some r => let (t, st) := s.sealEnd r ioError; (t.reqDone r st).finishDestroys

/-- COPYUP_COMPLETE (R300, R305): its units have been presented to their controllers; a request with units that wait for a seal
completes on a later command, once they have been written. -/
def copyupCompleteOp (ident : Nat) (ioError : Bool) (s : State) : State :=
  match s.movingReq ident 2 with
  | none => s
  | some r =>
    match s.copyupPlace r ioError with
    | (t, none) => t
    | (t, some st) => (t.copyupEnd r st).reqDone r st

/-- MOVE_COMPLETE (R301, R305): once no copy reads the wide chunks; an error ends it at once. -/
def moveCompleteOp (ident : Nat) (ioError : Bool) (s : State) : State :=
  match s.movingReq ident 3 with
  | none => s
  | some r => if (s.extent r.slot).copies > 0 ∧ ioError = false then s else let (t, st) := s.moveEnd r ioError; t.reqDone r st

/-- RELOCATION_COMPLETE (R298, R304 to R306, R315): the relocation in progress has moved a chunk of a draining channel or port to another
of its tier, once no copy reads it; a durable extent's catalogue entry follows. After the last chunk, the channel or port is FENCED. -/
def relocationCompleteOp (deep : Bool) (idx slot chunk : Nat) (s : State) : State :=
  let e := s.extent slot
  match s.relocOf deep with
  | none => s
  | some r =>
    if r.moving = false ∨ r.slot ≠ slot ∨ r.old ≠ (idx, chunk) ∨ e.copies > 0 then s
    else
      let m := if deep then s.mem.deep else s.mem.wide
      let m2 := (m.copyIn m (chunkKey deep r.old) (chunkKey deep r.dst) (chunkSize deep)).clear (chunkKey deep r.old) (chunkSize deep)
      let s1 := (s.onMem fun b => if deep then { b with deep := m2 } else { b with wide := m2 }).onExtent slot fun e =>
        { e with chunks := e.chunks.map fun x => if x = r.old then r.dst else x }
      let h := (s.handleOf slot).toNat
      let s2 := s1.onMem fun b => { b with
        relocs := b.relocs.filter fun x => x.deep ≠ deep
        catalogue := b.catalogue.map fun p => if p.1 = h then (h, s1.extent slot) else p }
      (s2.count migCntMove).endDrains.judgeMod

/-- DDR_UNCORRECTED_ERROR (R315, R584): the channel is fenced at once; `cause` is KIND of DDR_ELOG. -/
def ddrUncorrectedErrorOp (chan unit dev cause : Nat) (s : State) : State :=
  if s.portSt false chan = .absent ∨ s.portSt false chan = .fenced then s
  else
    let s1 := (if s.flag (ddrEvt chan) 1 then s
      else s.setReg (ddrElog chan) (BitVec.ofNat 64 (unit + cause * 2 ^ 36 + dev * 2 ^ 38))).raise (ddrEvt chan) 1
    (s1.errClass 3 3 chan stIo 0 (s1.reg (ddrElog chan))).fencePort false chan

/-- DEEP_PORT_LINK_DOWN (R309, R315, R584). -/
def deepPortLinkDownOp (port : Nat) (s : State) : State :=
  if s.portSt true port = .absent ∨ s.portSt true port = .fenced then s
  else
    let s1 := (s.raise (dppEvt port) 1).onDpp port fun d => { d with gen := 0, width := 0, nvmeReady := false }
    (s1.errClass 3 4 port 0 0 0).fencePort true port

/-- LZ2_PAGE_MISS (R314): an access waits for a page that is not resident. -/
def lz2PageMissOp (page : Nat) (s : State) : State :=
  if s.mem.lz2Glove = none ∨ 2 ^ 21 * page ≥ s.mem.lz2Size ∨ (s.lz2Page page).at_.isSome then s
  else
    (s.onMem fun m => { m with lz2Wait := if page ∈ m.lz2Wait then m.lz2Wait else m.lz2Wait ++ [page] }).lz2Serve page

/-- DQS_TRACKING (R307): the tracking of DQS interval oscillators changes no state that the spec gives the channel. -/
def dqsTrackingOp (_chan : Nat) (s : State) : State := s

end Sys2Proof.Machine
end

