-- ==== Sys2Proof/Machine/Operands.lean ====
section
/-! DEFINITION. The operand forms of a C-cell: the resource window, vector names, address registers, masks, queues (R118 to R125). -/

namespace Sys2Proof.Machine

namespace State

/-- Configuration word `n` of the active context of the cell at key `k` (R120). -/
def cw (s : State) (k n : Nat) : Word := s.arr.cws.at ((k * 4 + (s.cell k).ctx) * 64 + n)

/-- The physical vector register that name `n` denotes for the bundle that issues (R123). -/
def vphys (s : State) (k n : Nat) : Nat :=
  let w := s.cw k 0
  let vbase := w.field 0 6
  let vcount := w.field 6 7
  let rot := w.field 13 5
  let st := vcount - rot
  if n < st ∨ rot = 0 then (vbase + n) % 64
  else
    let r : Int := ((n : Int) - st - (s.cell k).iss.i) % rot
    (vbase + st + r.toNat) % 64

/-- Free value `i` of what a cell's storage holds before anything is written to it (R109). -/
def cellJunk (s : State) (k i : Nat) : Lane :=
  match s.arr.junk.at k with
  | 0 => 0
  | n + 1 => (Config.freeWord (n + i)).setWidth 32

/-- The free values that one cell's storage takes: 64 registers, 1,024 lines, 12,288 positions and 160 latches. -/
def cellJunkSize : Nat := 4096 + 16384 + 12288 + 160

/-- A physical vector register. -/
def vregAt (s : State) (k r : Nat) : BitVec 2048 :=
  match s.arr.vregs.at (64 * k + r) with
  | some v => v
  | none => mapLanes fun j => s.cellJunk k (64 * r + j)

/-- The vector register under name `n`. -/
def vreg (s : State) (k n : Nat) : BitVec 2048 := s.vregAt k (s.vphys k n)

/-- The value of mask `m`; M0 reads as all ones (R118). -/
def mask (s : State) (k m : Nat) : BitVec 64 :=
  if m = 0 then BitVec.allOnes 64 else (s.cell k).masks.getD (m - 1) 0

/-- The buffer and line of the `j`-th line of operand A`x`+`d` (R124, R125). -/
def aline (s : State) (k x d j : Nat) : Nat × Nat :=
  let w := s.cw k (10 + x)
  let rbase := w.field 0 9
  let ring := w.field 9 10
  let start := w.field 19 9
  let sgn := fun (lo : Nat) =>
    let v := w.field lo 10
    if v < 512 then (v : Int) else (v : Int) - 1024
  let iss := (s.cell k).iss
  let p : Int := (start : Int) + iss.i * sgn 28 + iss.rep * sgn 38 + d + j
  (w.field 48 1, rbase + (p % (ring : Int)).toNat)

/-- A line of an operand buffer. -/
def obLine (s : State) (k : Nat) (bl : Nat × Nat) : Line :=
  match s.arr.obs.at ((k * 2 + bl.1) * 512 + bl.2) with
  | some l => l
  | none => (ofLanes ((List.range 16).map fun j => s.cellJunk k (4096 + 16 * (512 * bl.1 + bl.2) + j))).setWidth 512

/-- An accumulator position (R118). -/
def accAt (s : State) (k bank r c : Nat) : Lane :=
  (s.arr.acc.at (((k * 2 + bank) * 64 + r) * 96 + c)).getD (s.cellJunk k (20480 + (bank * 64 + r) * 96 + c))

/-- Row-scale latch `i` of a cell: side A from 0, side B from 64 (R150). -/
def latchAt (s : State) (k i : Nat) : Lane := (s.arr.latches.at (160 * k + i)).getD (s.cellJunk k (32768 + i))

/-- The words of a cell's input queue at `port` (R71). -/
def inQueue (s : State) (k port : Nat) : List (Line × Line) := (s.cell k).inQ.getD port []

/-- A write that falls due in cycle `at_` (R152). -/
def dueWrite (s : State) (k at_ slot : Nat) (w : CellWrite) : State :=
  s.onCell k fun c => { c with due := c.due ++ [⟨at_, w, c.iss, slot⟩] }

end State

/-- The lines of the panel and of the scales of an MMA operand, by format and side (R147). -/
def panelLines (fmt : Nat) (b : Bool) : Nat × Nat :=
  match fmt with
  | 0 => if b then (24, 2) else (16, 1)
  | 1 => if b then (24, 3) else (16, 2)
  | 2 | 3 => if b then (36, 2) else (24, 1)
  | 4 | 5 | 6 => if b then (48, 2) else (32, 1)
  | _ => if b then (96, 0) else (64, 0)

/-- The width in bits of an MMA format (R165). -/
def fmtBits : Nat → Nat
  | 0 | 1 | 7 => 4 | 2 | 3 => 6 | 4 | 5 | 6 | 0xC => 8 | 8 | 9 => 16 | _ => 32

/-- T of R149. -/
def mmaT (fa fb : Nat) : Nat :=
  if fa ≤ 1 ∧ fb ≤ 1 then 32 else if fa ≥ 8 ∨ fb ≥ 8 then 128 else 64

end Sys2Proof.Machine
end

