-- ==== Sys2Proof/Machine/Gloves.lean ====
section
/-! DEFINITION. Gloves: creation, destruction, faults and the glove reset, and the fencing of palms (R223, R264, R425 to R434, R637). -/

namespace Sys2Proof.Machine

open Adr

namespace State

/-- A free value of 32 bits. -/
def freeNat32 (s : State) (n : Nat) : Word := Word.setField (Config.freeWord (s.freeCtr + n)) 32 32 0

/-- An M-cell as it is set when its palm enters a glove and at glove reset (R223, R264): windows closed, counters 0, queues
empty and unbound, rings idle, work counters with LIMIT 0 and an undefined NEXT. -/
def setMCell (s : State) (g : Nat) : State :=
  let k := g / 288
  let m := g % 288
  let s1 := (List.range 8).foldl (fun t w => t.setReg (rwin k m w) 0) s
  let s2 := (List.range 16).foldl (fun t n =>
    ((t.setReg (arvCnt k m n) 0).setReg (wkcLimit k m n) 0).setReg (wkcNext k m n) (s.freeNat32 n)) s1
  (s2.spend 16).onMCell g fun x => { x with rings := [], hq := [], ag := [], inQ := [], send := [] }

/-- What a C-cell stores becomes undefined (R109). Its context slots need no free value: every slot that becomes ACTIVE has been
loaded whole since the palm entered its glove (R201, R203). -/
def scrambleCell (s : State) (k : Nat) : State :=
  (s.onArr fun a =>
    { a with vregs := a.vregs.clear (64 * k) 64, obs := a.obs.clear (k * 1024) 1024, acc := a.acc.clear (k * 12288) 12288,
             latches := a.latches.clear (160 * k) 160, junk := a.junk.put k (s.freeCtr + 1) }).spend cellJunkSize

/-- A palm enters a glove (R109, R428): what its cells store is undefined, unless PALM_SCRUB has cleared it. -/
def palmEnters (s : State) (g p : Nat) : State :=
  let clean := (s.palm p).clean
  let s1 := s.onPalm p fun x => { x with glove := some g, clean := false }
  let s2 := if clean then s1 else ((palmSites p).filter Site.isC).foldl (fun t x => t.scrambleCell x.key) s1
  (palmMCells p).foldl (fun t c =>
    ((if clean then t else t.scrambleRows c 0 2048).setMCell c).onMCell c fun x => { x with merge := [] }) s2

/-- What runs in a palm stops: queues, writes in flight and words under way are discarded (R100, R225). -/
def stopPalm (s : State) (p : Nat) (rings : Bool := false) : State :=
  (palmSites p).foldl (fun t x =>
    let t1 := if x.isC then t.onCell x.key fun c =>
        { c with inQ := [], sendQ := [], due := [], takes := [], mma := [], xq := [], lineWrites := [], streams := [], taken := [],
                 token := none, placing := [] }
      else t.onMCell x.mcell fun m => { m with inQ := [], ag := [], rings := if rings then m.rings.map fun r => { r with wait := [], moved := 0 } else [], banks := [], send := [], later := [] }
    t1.onArr fun a => { a with transit := a.transit.put x.key default, arrivals := a.arrivals.put x.key default }) s

/-- The active pattern of a glove stops for good (R100). -/
def stopGlove (s : State) (g : Nat) : State :=
  ((s.glovePalms g).foldl (fun t p => t.stopPalm p) s).onPat g fun _ => default

/-- Whether a glove's pattern executes no further cycle. -/
def patStopped (s : State) (g : Nat) : Bool :=
  let p := s.pat g
  !p.valid || p.done || (match p.stopAt with | some x => x ≤ p.cycle | none => false)

/-- A glove reset begins (R432): the first five actions in order; the sixth, the wait, ends by GLOVE_RESET_DONE. -/
def beginReset (s : State) (g cause : Nat) : State :=
  if (s.glove g).live = false ∨ (s.glove g).resetting then s
  else
    let q := (s.glove g).gsq
    let s1 := ((s.glovePalms g).flatMap palmMCells).foldl (fun t c => t.settleCell c) (s.stopGlove g)
    let s2 := s1.onGsq q fun x =>
      if x.glove = some g then { (default : GsqSt) with glove := x.glove, reports := x.reports, seals := x.seals, slots := List.replicate 4 .empty } else x
    let s3 := (s2.abandonStep g).leavePhases g
    let s4 := ((s.glovePalms g).flatMap palmMCells).foldl (fun t c => t.setMCell c) s3
    (s4.onGlv g fun v => { v with resetting := true, faulted := none, cause := cause }).raise tkeLevt 7

/-- CAUSE of GSQ_STAT for the cause of a glove's fault (R231). -/
def gsqCause (cause : Nat) : Nat := if cause = 4 then 1 else if cause = 5 then 2 else 3

/-- A fault puts a glove in FAULTED (R431, R584): its sequencer stops and
discards the switches it asked for, the error is counted and logged; the reset begins
FLTHOLD ticks later, or once its pattern has stopped when FLTHOLD is 0. In FAULT no reset begins (R593). -/
def faultGlove (s : State) (g cause : Nat) (detail : Word := 0) : State :=
  let v := s.glove g
  if v.live = false ∨ v.resetting ∨ v.faulted.isSome ∨ v.stuck then s
  else
    let hold := s.fld (glvEcfg g) 36 16
    let s1 := ((s.errClass 2 7 g cause g detail).discardArm v.gsq).onGsq v.gsq fun x =>
      { x with state := .faulted, cause := gsqCause cause, waitFor := none, deadline := none, sw := none }
    let s2 := s1.onGlv g fun v => { v with faulted := some (cause, s.tick.tick + hold) }
    if hold = 0 ∧ s2.patStopped g ∧ s.mstate ≠ .fault then s2.beginReset g cause else s2

/-- A faulted glove whose pattern has stopped and whose FLTHOLD is 0 begins its reset (R431). -/
def faultStops (s : State) (g : Nat) : State :=
  match (s.glove g).faulted with
  | none => s
  | some (c, _) => if s.fld (glvEcfg g) 36 16 = 0 ∧ s.patStopped g ∧ s.mstate ≠ .fault then s.beginReset g c else s

/-- The sequencer that R427 gives a glove with these palms. -/
def chooseGsq (s : State) (palms : List Nat) : Option Nat :=
  let dies := ((List.range 8).map fun k => (k, (palms.filter fun p => p / 16 = k).length)).filter fun d => d.2 > 0
  let order := dies.sortBy fun a b => a.2 > b.2 || (a.2 == b.2 && a.1 ≤ b.1)
  order.findSome? fun d => ((List.range 8).map fun j => 8 * d.1 + j).find? fun q => (s.gsq q).glove.isNone

/-- A sequencer is given to a glove: every mark is cleared (R208). -/
def giveGsq (s : State) (g q : Nat) : State :=
  ((s.onGsq q fun _ => { (default : GsqSt) with glove := some g, named := true, slots := List.replicate 4 .empty }).onSeq fun b =>
    { b with marks := b.marks.clear (2048 * q) 2048 }).onGlv g fun v => { v with gsq := q }

/-- What PALM_SCRUB writes when a palm leaves its glove (R540): every row, context slot, switch slot, operand buffer, vector
register, accumulator bank, window and work counter of the palm is 0. -/
def scrubPalm (s : State) (p : Nat) : State :=
  if s.fld secCfg 0 1 = 0 then s
  else (palmSites p).foldl (fun t x =>
    let k := x.key
    let t1 := t.onArr fun a =>
      { a with bundles := a.bundles.clear (k * 512) 512, cws := a.cws.clear (k * 256) 256,
               vregs := a.vregs.clear (64 * k) 64, obs := a.obs.clear (k * 1024) 1024,
               acc := a.acc.clear (k * 12288) 12288, latches := a.latches.clear (160 * k) 160,
               junk := a.junk.put k 0, swCfg := a.swCfg.clear (k * 4) 4, routes := a.routes.clear (k * 512) 512 }
    if x.isC then t1
    else
      let g := x.mcell
      let t2 := (t1.onArr fun a =>
        { a with scratch := a.scratch.clear (g * 2 ^ 20) (2 ^ 20), badRows := a.badRows.clear (2048 * g) 2048,
                 progs := a.progs.clear (4 * g) 4 }).onMCell g fun m => { m with junk := 0, merge := [] }
      let t3 := (List.range 8).foldl (fun t w => t.setReg (rwin (g / 288) (g % 288) w) 0) t2
      (List.range 16).foldl (fun t n =>
        (t.setReg (wkcLimit (g / 288) (g % 288) n) 0).setReg (wkcNext (g / 288) (g % 288) n) 0) t3) s

/-- A palm leaves its glove (R429, R434, R540). -/
def palmLeaves (s : State) (p : Nat) : State :=
  (s.scrubPalm p).onPalm p fun x => { x with glove := none, clean := s.fld secCfg 0 1 == 1 }

/-- A palm leaves its glove because it is FENCED (R434): the glove is reset with cause 9; a sequencer is chosen again when
no palm is left on its die; with no palm or no sequencer left the glove stays FAULTED. -/
def losePalm (s : State) (g p : Nat) : State :=
  let s1 := (s.beginReset g 9).palmLeaves p
  let s2 := s1.onGlv g fun v => { v with palms := v.palms &&& ~~~(BitVec.ofNat 128 (2 ^ p)) }
  let palms := palmSet (s2.glove g).palms
  let q := (s2.glove g).gsq
  if palms.any fun x => x / 16 = q / 8 then s2
  else
    let s3 := s2.onGsq q fun x => { (default : GsqSt) with reports := x.reports }
    match s2.chooseGsq palms with
    | some n => s3.giveGsq g n
    | none => s3.onGlv g fun v => { v with stuck := true }

/-- A cause is added to a palm (R637): a palm in a glove becomes FENCED, and its glove is handled by R434. -/
def fencePalm (s : State) (p cause : Nat) : State :=
  let x := s.palm p
  let s1 := s.onPalm p fun y => { y with causes := if cause ∈ y.causes then y.causes else y.causes ++ [cause] }
  match x.glove with
  | some g => s1.losePalm g p
  | none => s1

/-- A cause of a palm ends (R637). -/
def freePalm (s : State) (p cause : Nat) : State := s.onPalm p fun y => { y with causes := y.causes.filter (· ≠ cause) }

/-- A glove is created (R428) with its palms, key slot, virtual function, FLOOR and WEIGHT. -/
def createGlove (s : State) (g q : Nat) (palms : BitVec 128) (key vf floor weight : Nat) : State :=
  let s1 := (s.onGlv g fun _ => { (default : GloveSt) with live := true, palms := palms, gsq := q, key := key, vf := vf, cf := List.replicate 4 0x1000 }).giveGsq g q
  let s2 := (palmSet palms).foldl (fun t p => t.palmEnters g p) s1
  s2.setReg (glvEcfg g) (BitVec.ofNat 64 (floor + weight * 2 ^ 24 + 4 * 2 ^ 32))

/-- An accepted destroy (R429). The LZ2 view of the glove ends with it. -/
def destroyGlove (s : State) (g : Nat) (c : HostCmd) : State :=
  let s0 := if s.mem.lz2Glove = some g then s.lz2Off else s
  let s1 := s0.onStw fun b =>
    { b with plans := b.plans.filter fun p => !(p.2.valid && p.2.glove == g),
             pages := b.pages.put g [] }
  let s2 := (s1.stw.adapters.filter fun p => p.2.st ≠ 0 ∧ p.2.glove = g).foldl (fun t p =>
    t.onAdapter p.1 fun x => { (default : AdpSt) with version := x.version }) s1
  let s3 := [stwGcfg g, stwGstb g, stwGstart g, smpGlog g, smpGdrf g, resGseal g].foldl (fun t a => t.setReg a 0) s2
  let q := (s.glove g).gsq
  let s4 := (s.glovePalms g).foldl (fun t p => (t.stopPalm p).palmLeaves p) s3
  let s5 := ((s4.onGsq q fun x => if x.glove = some g then default else x).onPat g fun _ => default).onServe g fun _ => default
  (s5.onGlv g fun _ => { (default : GloveSt) with draining := true, destroyCmd := some c }).finishDestroy g

end State

/-- FAULT_HOLD_EXPIRY (R431): FLTHOLD ticks after the glove entered FAULTED, its reset begins. -/
def faultHoldExpiryOp (g : Nat) (s : State) : State :=
  match (s.glove g).faulted with
  | none => s
  | some (c, t) => if s.reached t 0 ∧ s.mstate ≠ .fault then s.beginReset g c else s

/-- GLOVE_RESET_DONE (R432): every write has been accepted, and the glove enters LOADING. -/
def gloveResetDoneOp (g : Nat) (s : State) : State :=
  if (s.glove g).resetting = false then s
  else
    let s1 := s.onGlv g fun v => { v with resetting := false, resetCmds := [] }
    (s.glove g).resetCmds.foldl (fun t c => t.complete c stOK) s1

end Sys2Proof.Machine
end

