-- ==== Sys2Proof/Machine/Faults.lean ====
section
/-! DEFINITION. Schedule faults, cell exceptions and tier faults: their logs, the stop of the pattern, and the fault of the glove (R98 to R101, R158, R163, R292). -/

namespace Sys2Proof.Machine

open Adr

namespace State

/-- A fault or freeze decided at pattern cycle `c` stops the pattern before cycle `c + L_f` (R94, R100). -/
def stopPattern (s : State) (g c : Nat) : State :=
  s.onPat g fun p => { p with faulted := true,
                              stopAt := match p.stopAt with
                                | none => some (c + p.lf)
                                | some x => some (min x (c + p.lf)) }

/-- ARR_SF_LOG and ARR_SF_CYC capture the first schedule fault after ARR_EVT.SCHED_FAULT was last 0; of several in one
array cycle of the die the one at the lowest site index stays (R101, R114). -/
def logSched (s : State) (f : SFault) : State :=
  let w := BitVec.ofNat 64 (f.glove % 64 + f.cause % 16 * 2 ^ 8 + f.row % 32 * 2 ^ 12 + f.col % 32 * 2 ^ 17
    + f.ctx % 4 * 2 ^ 22 + f.port % 8 * 2 ^ 24)
  let put := ((s.setReg (arrSfLog f.die) w).setReg (arrSfCyc f.die) (BitVec.ofNat 64 f.cycle)).onDie f.die fun d => { d with sfClk := d.clk }
  if s.flag (arrEvt f.die) 0 = false then put
  else if (s.dies.at f.die).sfClk = (s.dies.at f.die).clk
      ∧ 25 * f.row + f.col < 25 * s.fld (arrSfLog f.die) 12 5 + s.fld (arrSfLog f.die) 17 5 then put
  else s

/-- A schedule fault: logged, counted, the pattern stopped for good, the glove faulted with cause 1 (R98, R100, R101,
R431). -/
def schedFault (s : State) (f : SFault) : State :=
  (((s.logSched f).raise (arrEvt f.die) 0).stopPattern f.glove f.cycle).faultGlove f.glove 1 ((s.logSched f).reg (arrSfLog f.die))

/-- CEL_XLOG and CEL_XCYC capture the first cell exception after CEL_EVT.EXCEPTION was last 0; of several in one array cycle of the
die the one at the lowest site index stays (R158, R163). -/
def logExc (s : State) (f : XFault) : State :=
  let w := BitVec.ofNat 64 (f.glove % 64 + f.cause % 16 * 2 ^ 8 + f.row % 32 * 2 ^ 12 + f.col % 32 * 2 ^ 17
    + f.ctx % 4 * 2 ^ 22 + f.bundle % 128 * 2 ^ 24 + f.slot % 4 * 2 ^ 32 + f.code % 64 * 2 ^ 34 + f.loopIx % 8 * 2 ^ 40)
  let put := ((s.setReg (celXlog f.die) w).setReg (celXcyc f.die) (BitVec.ofNat 64 f.cycle)).onDie f.die fun d => { d with xClk := d.clk }
  if s.flag (celEvt f.die) 0 = false then put
  else if (s.dies.at f.die).xClk = (s.dies.at f.die).clk
      ∧ 25 * f.row + f.col < 25 * s.fld (celXlog f.die) 12 5 + s.fld (celXlog f.die) 17 5 then put
  else s

/-- A cell exception: logged, counted, the pattern stopped for good, the glove faulted with cause 2 (R158, R431). -/
def cellExc (s : State) (f : XFault) : State :=
  (((s.logExc f).raise (celEvt f.die) 0).stopPattern f.glove f.cycle).faultGlove f.glove 2 ((s.logExc f).reg (celXlog f.die))

/-- A tier fault stops the pattern and faults the glove with cause 3 (R292, R431). -/
def tierFault (s : State) (g : Nat) (detail : Word) : State := (s.stopPattern g (s.pat g).cycle).faultGlove g 3 detail

/-- A cell exception of the operation that issues at the C-cell of key `k`, in `slot` (R153, R163). -/
def cellFault (s : State) (k cause slot code : Nat) : State :=
  let p := siteOf k
  let c := s.cell k
  match s.siteGlove p with
  | none => s
  | some g => s.cellExc
    { glove := g, cause := cause, die := p.die, row := p.row, col := s.physCol p.die p.row p.col .c, ctx := c.ctx,
      bundle := c.iss.bundle, slot := slot, code := code, loopIx := c.iss.loopIx, cycle := (s.pat g).cycle }

/-- A schedule fault at a site, at `port`, with the physical column of its switch or of its cell (R101, R114). -/
def siteFault (s : State) (k cause port : Nat) (kind : Option Kind) : State :=
  let p := siteOf k
  match s.siteGlove p with
  | none => s
  | some g => s.schedFault
    { glove := g, cause := cause, die := p.die, row := p.row,
      col := (match kind with | some kd => s.physCol p.die p.row p.col kd | none => p.col),
      ctx := (s.pat g).slot, port := port, cycle := (s.pat g).cycle }

end State

end Sys2Proof.Machine
end

