-- ==== Sys2Proof/Machine/Commands.lean ====
section
/-! DEFINITION. Host commands: receipt from the command rings, and the checks that every command passes (R504 to R509, R514). -/

namespace Sys2Proof.Machine

open Adr

/-- A register word after a write of `v` to the whole or to one half of it (R9). -/
def mergeHalf (h : Half) (old v : Word) : Word :=
  match h with
  | .whole => v
  | .lo => old.setField 0 32 (v.toNat % 2 ^ 32)
  | .hi => old.setField 32 32 (v.toNat % 2 ^ 32)

/-- The OP values of R515. -/
def knownOps : List Nat :=
  [0x001, 0x002, 0x003, 0x004, 0x005, 0x006, 0x007, 0x008, 0x009] ++ (List.range 13).map (· + 0x010) ++ [0x020]
  ++ (List.range 7).map (· + 0x030) ++ (List.range 7).map (· + 0x040)

/-- What the row of a command in R515 says before its own rule: its OP, whether only the PF issues it, the module
states, the operand bits that the row names, whether it names a glove, and how a VF's glove and key slot replace its
operands (R514). -/
structure CmdRow where
  op : Nat
  pfOnly : Bool := true
  set : State → Bool := fun _ => true
  masks : List Nat := []
  glove : Option (HostCmd → Nat) := none
  forVf : Nat → Nat → HostCmd → HostCmd := fun _ _ c => c

/-- `w` bits from bit `lo` on, as a mask. -/
def bits (lo w : Nat) : Nat := (2 ^ w - 1) * 2 ^ lo
/-- A whole word. -/
def allBits : Nat := 2 ^ 64 - 1

/-- Whether a command sets a bit that its row does not name (R514). -/
def reservedSet (c : HostCmd) (masks : List Nat) : Bool :=
  c.resv0 != 0 || ([c.a1, c.a2, c.a3, c.a4, c.a5, c.a6].zipIdx.any fun p =>
    (p.1 &&& ~~~(BitVec.ofNat 64 (masks.getD p.2 0))) != 0)

namespace State

/-! Receipt. -/

def ring (s : State) (n : Nat) : CmdRing := s.host.rings.at n
def onRing (s : State) (n : Nat) (f : CmdRing → CmdRing) : State :=
  s.onHost fun h => { h with rings := h.rings.upd n f }

/-- Word `w` of slot `k` of ring `n`. -/
def slotWord (s : State) (n k w : Nat) : Word := s.host.ringMem.at (32768 * n + 8 * k + w)

/-- The command that the next slot of a ring holds, with its OP. -/
def nextCmd (s : State) (n : Nat) : Nat × HostCmd :=
  let k := (s.ring n).rcv % 2 ^ s.fld (hifCrCfg n) 0 4
  let w := s.slotWord n k
  ((w 0).field 0 12,
   { func := s.fld (hifCrCfg n) 5 7, ring := n, tag := (w 0).extractLsb' 32 32, a1 := w 1, a2 := w 2, a3 := w 3, a4 := w 4, a5 := w 5,
     a6 := w 6, resv0 := (w 0).extractLsb' 12 20 })

/-- Whether ring `n` receives its next slot now: enabled, in rung S0 or S1, its function in D0, room among the received commands and in
the backlog of its completion ring, and a matching sequence word (R447, R506, R512). -/
def canReceive (s : State) (n : Nat) : Bool :=
  let r := s.ring n
  s.fld (hifCrCfg n) 4 1 == 1 && s.rung.rung ≤ 1 && !s.host.d3.contains (s.fld (hifCrCfg n) 5 7) && r.queue.length < 64
    && (s.cq (s.fld (hifCrCfg n) 12 8)).backlog.length < 4096
    && s.slotWord n (r.rcv % 2 ^ s.fld (hifCrCfg n) 0 4) 7 == BitVec.ofNat 64 (r.rcv + 1)

/-- Slots are received one after another while the next matches: at most as many as a ring has slots, 4,096 (R506, R523). A command of
unknown OP is refused (R514). -/
def receiveSlots (s : State) (n : Nat) : Nat → State
  | 0 => s
  | k + 1 =>
    if s.canReceive n = false then s
    else
      let (op, c) := s.nextCmd n
      let s1 := (s.onRing n fun r => { r with rcv := r.rcv + 1 }).count hifCntCmd
      let s2 := if knownOps.contains op then s1.onRing n fun r => { r with queue := r.queue ++ [(op, c)] } else s1.refuse c stOpcode
      s2.receiveSlots n k

/-- The command being applied leaves the received commands of its ring, which may then receive more (R506). A relayed
command comes from no ring (R509). -/
def taken (s : State) (c : HostCmd) (op : Nat) : State :=
  if c.epoch.isSome then s
  else match (s.ring c.ring).queue with
    | (o, x) :: rest => if o = op ∧ x = c then (s.onRing c.ring fun r => { r with queue := rest }).receiveSlots c.ring 4096 else s
    | [] => s

/-! Checks. -/

/-- The glove that a virtual function is bound to. -/
def vfGlove (s : State) (vf : Nat) : Option Nat := (s.glv.find? fun p => p.2.live && p.2.vf == vf).map (·.1)

/-- The refusal of a command that names a glove in state FREE (R636). -/
def refuseFreeGlove (s : State) (c : HostCmd) (g : Nat) : State := s.refuseState c 1 0 g

/-- The checks of R514 in order, and then the command's own meaning. A command of a VF that no glove is bound to names a
glove in state FREE. -/
def command (s : State) (c : HostCmd) (row : CmdRow) (f : HostCmd → State → State) : State :=
  let s1 := s.taken c row.op
  if reservedSet c row.masks then s1.refuse c stBound
  else if row.pfOnly ∧ c.func ≠ 0 then s1.refuse c stNotPermitted
  else
    let vg := if c.func = 0 then none else s1.vfGlove c.func
    let d := match vg with | some g => row.forVf g (s1.glove g).key c | none => c
    if row.set s1 = false then s1.refuseModule d
    else match row.glove with
      | some name =>
        if (s1.glove (name d)).live = false ∨ (c.func ≠ 0 ∧ vg.isNone) then s1.refuseFreeGlove d (name d) else f d s1
      | none => if c.func ≠ 0 ∧ vg.isNone ∧ row.op ≠ 0x001 then s1.refuseFreeGlove d 0 else f d s1

end State

end Sys2Proof.Machine
end

