-- ==== Sys2Proof/Machine/Cap.lean ====
section
/-! DEFINITION. The capability word, RAS_STAT, and the AOS's log and report of a failing module (R577, R601 to R603, R606). -/

namespace Sys2Proof.Machine

open Adr

/-- A word put together from fields: (low bit, width, value). -/
def packWord (l : List (Nat × Nat × Nat)) : Word :=
  BitVec.ofNat 64 ((l.map fun f => f.2.2 % 2 ^ f.2.1 * 2 ^ f.1).foldl (· + ·) 0)

/-- A truth value as a bit. -/
def bit (b : Bool) : Nat := if b then 1 else 0

/-- A number in two's complement on `w` bits. -/
def twos (w : Nat) (x : Int) : Nat := (x % (2 ^ w : Int)).toNat

/-- The set of the indices below `n` that satisfy `p`, as a bitmap. -/
def bitmap (n : Nat) (p : Nat → Bool) : Nat := ((List.range n).map fun i => if p i then 2 ^ i else 0).foldl (· + ·) 0

namespace State

/-- The fitted compute dies: CD0 to CD7 of every variant (R2). -/
def fittedDies : List Nat := List.range 8

/-- Whether a die is fenced in either way, or was fenced at bring-up. -/
def dieFenced (s : State) (k : Nat) : Bool := (s.dies.at k).arrayFence || (s.dies.at k).fullFence || (s.dies.at k).bring == 5

/-- Whether a die is released and not fenced. -/
def dieInService (s : State) (k : Nat) : Bool := (s.dies.at k).bring == 4 && !s.dieFenced k

/-- Whether a stack is in service: trained, not retired, and its die released and not under a full fence. -/
def stackInService (s : State) (n : Nat) : Bool :=
  n < s.variant.hbmStacks && (s.stack n).trained && !(s.stack n).retired && (s.dies.at (s.stackDie n)).bring == 4
    && !(s.dies.at (s.stackDie n)).fullFence

/-- GLB_CAP, the capability word (R577). -/
def capWord (s : State) : Word :=
  packWord [(0, 3, mcode s.mstate), (3, 2, s.tick.reported.code), (5, 1, bit (s.mstate == .early)),
    (6, 8, bitmap 8 s.dieInService), (14, 32, bitmap 32 s.stackInService),
    (46, 8, ((List.range 128).filter fun p => (s.dies.at (p / 16)).bring == 4 && (s.palm p).causes == []).length),
    (54, 6, ((List.range s.variant.channels).filter fun c => (s.mem.ddr.at c).st == .active).length),
    (60, 3, ((List.range 4).filter fun i => (s.mem.dpp.at i).st == .active && (s.mem.dpp.at i).nvmeReady).length)]

/-- RAS_STAT (R606). -/
def rasWord (s : State) : Word :=
  packWord [(0, 3, s.aos.faultCause), (3, 8, bitmap 8 fun k => (s.dies.at k).arrayFence && !(s.dies.at k).fullFence),
    (11, 8, bitmap 8 fun k => (s.dies.at k).fullFence), (19, 6, bitmap 6 s.aos.iodFenced.contains)]

/-- The words of the `n` newest log entries, the newest first (R603, R608). -/
def newestLog (s : State) (n : Nat) : List Word :=
  (List.range n).flatMap fun i => (List.range 4).map fun w => s.reg (rasLog ((s.fld rasLogptr 0 8 + 255 - i) % 256) w)

/-- An operation of the AOS is logged (R603, R610): class 5, its object and index, and its op. -/
def logOp (s : State) (op obj idx : Nat) (glove : Nat := 0) : State := s.logEntry 5 obj idx op glove 0

/-- REPORT (R602): the report leaves by the lowest service link that is up, or ends with PATH_DEGRADED; the operation is logged. -/
def sendReport (s : State) : State × Nat :=
  match s.serviceUp with
  | none => (s.logOp 6 10 0, 0x22)
  | some l => ((s.emit (.aosReport l ([s.rasWord, s.capWord, s.reg aosRstcause] ++ s.newestLog 4))).logOp 6 10 0, stOK)

end State

end Sys2Proof.Machine
end

