-- ==== Sys2Proof/Machine/Array.lean ====
section
/-! DEFINITION. Failing parts: cells, chains, palms, dies, stacks, frames, links, and the entry to FAULT (R90, R102 to R106, R296, R317, R318, R590 to R593). -/

namespace Sys2Proof.Machine

open Adr

/-- The die beyond an edge (groups W, E, N, S), when it is a compute die (R16, R112). -/
def dieBeyond (die edge : Nat) : Option Nat :=
  match edge with
  | 0 => if die % 4 > 0 then some (die - 1) else none
  | 1 => if die % 4 < 3 then some (die + 1) else none
  | 2 => if die ≥ 4 then some (die - 4) else none
  | _ => if die < 4 then some (die + 4) else none

/-- The same edge as its other die numbers it. -/
def edgeBack (edge : Nat) : Nat := match edge with | 0 => 1 | 1 => 0 | 2 => 3 | _ => 2

namespace State

def repair (s : State) (die row : Nat) : RowRepair := s.arr.repair.at (24 * die + row)
def onRepair (s : State) (die row : Nat) (f : RowRepair → RowRepair) : State :=
  s.onArr fun a => { a with repair := a.repair.upd (24 * die + row) f }

/-- The palms that a chain at physical column `f` of a row remaps (R105). -/
def chainPalms (die row f : Nat) : List Nat :=
  (List.range 4).filterMap fun pc => if f / 6 ≤ pc then some (16 * die + 4 * (row / 6) + pc) else none

/-- The palm that holds a site. -/
def palmAt (die row col : Nat) : Nat := 16 * die + 4 * (row / 6) + col / 6

/-- The chain of a kind in force in a row, and the one that waits. -/
def chainOf (r : RowRepair) (k : Kind) : Option Nat := match k with | .c => r.cCol | .m => r.mCol
def chainWait (r : RowRepair) (k : Kind) : Option Nat := match k with | .c => r.cWait | .m => r.mWait
def spareOk (r : RowRepair) (k : Kind) : Bool := match k with | .c => r.cSpareOk | .m => r.mSpareOk

/-- Whether no palm that a chain would remap is IN_GLOVE (R104). -/
def chainFree (s : State) (die row f : Nat) : Bool := (chainPalms die row f).all fun p => (s.palm p).glove.isNone

/-- A waiting chain of a row is gone. -/
def clearWait (s : State) (die row : Nat) (k : Kind) : State :=
  s.onRepair die row fun r => match k with | .c => { r with cWait := none } | .m => { r with mWait := none }

/-- A palm no longer waits for a chain, when no other waiting chain names it (R106). -/
def endWait (s : State) (p : Nat) : State :=
  if s.arr.repair.any fun q => (match q.2.cWait with | some f => palmAt (q.1 / 24) (q.1 % 24) f == p | none => false)
      || (match q.2.mWait with | some f => palmAt (q.1 / 24) (q.1 % 24) f == p | none => false)
  then s else s.freePalm p 3

/-- A chain is formed (R102, R106); one formed in service is an event of ARR_EVT. -/
def formChain (s : State) (die row : Nat) (k : Kind) (f : Nat) (service : Bool) : State :=
  let waited := chainWait (s.repair die row) k
  let s1 := (s.clearWait die row k).onRepair die row fun r =>
    match k with | .c => { r with cCol := some f, cSrc := service } | .m => { r with mCol := some f, mSrc := service }
  let s2 := match waited with | some w => s1.endWait (palmAt die row w) | none => s1
  if service then s2.raise (arrEvt die) 3 else s2

/-- The logical column that the cell of kind `k` at physical column `p` serves (R102); none for a cell out of use. -/
def servedCol (r : RowRepair) (k : Kind) (p : Nat) : Option Nat :=
  match chainOf r k with
  | none => if p ≤ 23 then some p else none
  | some f => if p < f then some p else if p = f then none else if p = 24 then some 22 else some (p - 2)

/-- A cell of kind `k` fails (R104). -/
def failCell (s : State) (die row : Nat) (k : Kind) (f : Nat) (service : Bool) : State :=
  let r := s.repair die row
  if (chainOf r k).isNone ∧ (chainWait r k).isNone ∧ spareOk r k then
    if s.chainFree die row f then s.formChain die row k f service
    else
      let s1 := s.onRepair die row fun r => match k with | .c => { r with cWait := some f } | .m => { r with mWait := some f }
      s1.fencePalm (palmAt die row f) 3
  else match servedCol r k f with
    | some c => s.fencePalm (palmAt die row c) 1
    | none => s

/-- A thumb spare fails (R104). -/
def failSpare (s : State) (die row : Nat) (k : Kind) : State :=
  let r := s.repair die row
  let s1 := s.onRepair die row fun r => match k with | .c => { r with cSpareOk := false } | .m => { r with mSpareOk := false }
  match chainWait r k with
  | some f => (((s1.clearWait die row k).fencePalm (palmAt die row f) 1).endWait (palmAt die row f))
  | none => if (chainOf r k).isSome then s1.fencePalm (palmAt die row 23) 1 else s1

/-! FAULT (R592, R593). -/

/-- The module enters FAULT with a cause of RAS_STAT: every pattern stops, every glove stays FAULTED, and the AOS reports it (R593,
R601). -/
def enterFault (s : State) (cause : Nat) : State :=
  if s.mstate = .fault ∨ s.mstate = .off ∨ s.mstate = .reset then s
  else
    let s1 := (((s.toMode .fault).onAos fun a => { a with faultCause := cause }).errClass 4 10 0 0 0 0).alert 2
    let s2 := (s1.glv.filter fun p => p.2.live).foldl (fun t p =>
      (t.stopPattern p.1 (t.pat p.1).cycle).onGlv p.1 fun v => { v with faulted := some ((v.faulted.map (·.1)).getD 0, t.tick.tick) }) s1
    s2.sendReport.1
where
  /-- A pattern stops for good within its freeze lead (R100). -/
  stopPattern (s : State) (g c : Nat) : State :=
    s.onPat g fun p => { p with faulted := true, stopAt := some (match p.stopAt with | none => c + p.lf | some x => min x (c + p.lf)) }

/-- The events of R593 that follow from what is fenced. -/
def judgeFault (s : State) : State :=
  if fittedDies.all s.dieFenced then s.enterFault 1
  else if s.aos.iodFenced.contains 0 then s.enterFault 2
  else if s.aos.iodFenced.contains (if s.stw.serving = 0 then 0 else 2) ∧ s.stw.standbyReady = false then s.enterFault 3
  else s

/-! System frames, and frames that are lost (R297, R317, R405). -/

/-- The lowest FREE frame whose physical frame lies where `ok` says of its compute die. -/
def freeFrameOn (s : State) (ok : Nat → Bool) : Option Nat :=
  (s.mem.tmap.find? fun p => p.2.mode == .free && ok (s.stackDie p.2.stack)).map (·.1)

/-- The die that holds a frame. -/
def frameDie (s : State) (f : Nat) : Nat := s.stackDie (s.frame f).stack

/-- A pair of SYSTEM frames on stacks of different dies, when two FREE frames allow it (R297). -/
def takeSystem (s : State) : Option State :=
  match s.freeFrameOn fun _ => true with
  | none => none
  | some a =>
    match s.freeFrameOn fun k => k ≠ s.frameDie a with
    | none => none
    | some b =>
      some (((s.onFrame a fun x => { x with mode := .system, glove := 0, key := 0 }).onFrame b fun x =>
        { x with mode := .system, glove := 0, key := 0 }).onMem fun m => { m with pairs := m.pairs ++ [(a, b)] })

/-- So many pairs of SYSTEM frames, when FREE frames allow them all. -/
def takePairs (s : State) : Nat → Option State
  | 0 => some s
  | n + 1 => match s.takeSystem with | some t => t.takePairs n | none => none

/-- The pairs of SYSTEM frames that a pool of so many nodes needs (R569). -/
def poolNeed (nodes : Nat) : Nat := ceilDiv (nodes * 128) (2 ^ 25)

/-- The pairs of SYSTEM frames that the migration engine's tables need: by the chunks of the fitted DIMMs and SSDs (R297). -/
def engineNeed (s : State) : Nat :=
  let cw := (s.mem.ddr.map fun p => s.chanCap false p.1).foldl (· + ·) 0
  let cd := (s.mem.dpp.map fun p => s.chanCap true p.1).foldl (· + ·) 0
  16 + ceilDiv ((cw + cd) * 8) (2 ^ 25)

/-- The frames of the engine's tables are taken (R297). -/
def takeEngineFrames (s : State) : State :=
  match s.takePairs (s.engineNeed - s.mem.sysFrames / 2) with
  | some t => t.onMem fun m => { m with sysFrames := max m.sysFrames (2 * s.engineNeed) }
  | none => s

/-- The frames of the node pool are taken (R400). -/
def takePoolFrames (s : State) : State :=
  match s.takePairs (poolNeed s.stw.pool - s.stw.poolPairs) with
  | some t => t.onStw fun b => { b with poolPairs := max b.poolPairs (poolNeed b.pool) }
  | none => s

/-- The system frames of bring-up: the engine's tables and the node pool (R297, R400). What FREE frames do not allow yet is
taken at the next call. -/
def takeBringFrames (s : State) : State := s.takeEngineFrames.takePoolFrames

/-- Pairs of SYSTEM frames given back, the latest taken first. -/
def givePairs (s : State) (n : Nat) : State :=
  let gone := s.mem.pairs.drop (s.mem.pairs.length - n)
  (gone.foldl (fun t p => (t.onFrame p.1 fun x => { x with mode := .free }).onFrame p.2 fun x => { x with mode := .free }) s).onMem
    fun m => { m with pairs := m.pairs.take (m.pairs.length - n) }

/-- A new copy is made of each SYSTEM frame that is left on a single copy, as soon as a FREE frame allows it (R317). -/
def restoreCopies (s : State) : State :=
  s.mem.single.foldl (fun t a =>
    match t.freeFrameOn fun k => k ≠ t.frameDie a with
    | none => t
    | some b =>
      let from_ := t.physAddr a 0
      let to_ := t.physAddr b 0
      let tags := (t.mem.nearTag.span (from_ / 64) (2 ^ 19)).mapV fun _ x =>
        if x.kid = 1 ∧ x.pos / 2 ^ 19 = a then { x with pos := b * 2 ^ 19 + x.pos % 2 ^ 19 } else x
      (t.onFrame b fun x => { x with mode := .system, glove := 0, key := 0 }).onMem fun m =>
        { m with pairs := m.pairs ++ [(a, b)], single := m.single.filter (· ≠ a),
                 near := m.near.copyIn m.near from_ to_ (2 ^ 25),
                 nearTag := m.nearTag.copyIn tags (from_ / 64) (to_ / 64) (2 ^ 19) }) s

/-- A SYSTEM frame is lost with its stack (R317, R593). -/
def loseSystem (s : State) (f : Nat) : State :=
  let s1 := s.onFrame f fun _ => default
  if s.mem.single.contains f then (s1.onMem fun m => { m with single := m.single.filter (· ≠ f) }).enterFault 4
  else match s.mem.pairs.find? fun p => p.1 == f || p.2 == f with
    | none => s1
    | some p =>
      let other := if p.1 = f then p.2 else p.1
      let s2 := (s1.onMem fun m => { m with pairs := m.pairs.filter (· ≠ p), single := m.single ++ [other] }).restoreCopies
      if s2.mem.single.contains other then s2.errClass 3 6 other 0 0 0 else s2

/-- Nodes and sequences whose pages lay in lost frames: the nodes go with everything below them, the sequences end with
CACHE_LOST (R359, R405). -/
def losePages (s : State) (fs : List Nat) : State :=
  let gone := (s.liveNodes.filter fun p => p.2.pages.any fun a => fs.contains (a / 2 ^ 25)).map (·.1)
  let s1 := gone.foldl (fun t n => t.removeNode n) s
  let s2 := (List.range s1.stw.nodes.length).foldl (fun t _ =>
    (t.liveNodes.filter fun p => !t.isRoot p.1 && !(t.node p.2.parent).live).foldl (fun t p => t.removeNode p.1) t) s1
  let seqs := (s.stw.seqt.filter fun p => p.2.pages.any fun r => fs.contains (r.page / 2 ^ 25)).map (·.1)
  seqs.foldl (fun t i => t.loseSeq i) s2

/-- The models whose resident weights lie in a frame. -/
def weightsIn (s : State) (f : Nat) : List Nat :=
  (s.stw.models.filter fun p => p.2.st == .resident && p.2.exts.any fun x => x.nta ≠ 0 && (framesOf x.nta x.len).contains f).map (·.1)

/-- A frame is mapped to the physical frame of FREE frame `b`, which becomes ABSENT (R317, R318). -/
def remapFrame (s : State) (f b : Nat) : State :=
  let x := s.frame b
  (s.onFrame f fun y => { y with stack := x.stack, pframe := x.pframe }).onFrame b fun _ => default

/-- The rebuild of a model whose frames were lost: each frame still to be remapped takes a FREE frame, on its own die where
one is FREE; with the last, and every cuff closed, the copies start (R317, R420). -/
def rebuildModel (s : State) (m : Nat) : State :=
  match (s.model m).repl with
  | none => s
  | some r =>
    let s1 := r.frames.foldl (fun t f =>
      let k := t.frameDie f
      match (match t.freeFrameOn (· == k) with | some b => some b | none => t.freeFrameOn fun _ => true) with
      | none => t
      | some b => (t.remapFrame f b).onModel m fun y =>
          { y with repl := y.repl.map fun r => { r with frames := r.frames.filter (· ≠ f) } }) s
    let s2 := (s1.modelGloves m).foldl (fun t g => if (t.serve g).phase = 0 then t.cuffClose m g else t) s1
    match (s2.model m).repl with
    | some q => if r.frames ≠ [] ∧ q.frames = [] ∧ ((s.modelGloves m).all fun g => r.closed.contains g) then s2.replCopies m else s2
    | none => s2

/-- A model's lost frames are rebuilt by the in-place path, with the present tick (R317, R420). -/
def loseWeights (s : State) (m : Nat) (fs : List Nat) : State :=
  let x := s.model m
  (s.onModel m fun y =>
    { y with
      st := .replacing,
      repl := some {
        inPlace := true, tr := s.tick.tick, exts := x.exts, progs := 0, idents := [], left := List.range x.exts.length,
        copied := false, ready := 0, stamp := 0, closed := [], frames := fs, cmd := none } }).rebuildModel m

/-- What waits for FREE frames is tried again: single copies, waiting rebuilds (R317). -/
def framesFreed (s : State) : State :=
  let s1 := s.restoreCopies
  ((s1.stw.models.filter fun p => match p.2.repl with | some r => r.inPlace && r.frames != [] | none => false).map (·.1)).foldl
    (fun t m => t.rebuildModel m) s1

/-- A stack is retired (R317). -/
def retireStack (s : State) (n : Nat) : State :=
  if (s.stack n).retired then s
  else
    let fs := (s.mem.tmap.filter fun p => p.2.stack == n && p.2.mode != .absent).map (·.1)
    let s1 := (s.onStack n fun x => { x with retired := true, trained := false, power := 2 }).fenceCount
    let mode := fun (m : FMode) => fs.filter fun f => (s.frame f).mode == m
    let s2 := (mode .free).foldl (fun t f => t.onFrame f fun _ => default) s1
    let shared := mode .shared
    let weights := shared.filter fun f => s.weightsIn f != []
    let pub := (shared.filter fun f => s.weightsIn f == [] && (s.frame f).key == s.fld pfxCfg 0 8
      && s.liveNodes.any fun q => q.2.pub && q.2.pages.any fun a => a / 2 ^ 25 == f)
    let rest := shared.filter fun f => !weights.contains f && !pub.contains f
    let dead := mode .priv ++ rest
    let s3 := s2.losePages (dead ++ pub)
    let s4 := (dead ++ pub).foldl (fun t f => (t.dropKvFrame (t.frame f).glove f).onFrame f fun _ => default) s3
    let s5 := ((dead.map fun f => (s.frame f).glove).eraseDups).foldl (fun t g => t.beginReset g 8) s4
    let s6 := (mode .system).foldl (fun t f => t.loseSystem f) s5
    let models := (weights.flatMap s.weightsIn).eraseDups
    let s7 := models.foldl (fun t m => t.loseWeights m (weights.filter fun f => (s.weightsIn f).contains m)) s6
    s7.judgeMod

/-! Fences of links, I/O dies and compute dies (R465, R591). -/

/-- A link becomes FENCED (R465). -/
def fenceLink (s : State) (l : Nat) : State :=
  if (s.net.links.at l).st = .fenced then s
  else ((s.slotBreaks l).onLink l fun x => { x with st := .fenced, txq := [], asm := [], unacked := [], resend := 0 }).fenceCount

/-- An I/O die is fenced: its channels, deep port and links become FENCED (R591). -/
def fenceIod (s : State) (i : Nat) : State :=
  if s.aos.iodFenced.contains i then s
  else
    let s1 := (s.onAos fun a => { a with iodFenced := a.iodFenced ++ [i] }).fenceCount
    let s2 := ((List.range 6).map (· + 6 * i)).foldl (fun t c =>
      if t.portSt false c = .absent ∨ t.portSt false c = .fenced then t else t.fencePort false c) s1
    let s3 := if i < 4 ∧ s2.portSt true i ≠ .absent ∧ s2.portSt true i ≠ .fenced then s2.fencePort true i else s2
    if i < 4 then ((List.range 24).map (· + 24 * i)).foldl (fun t l => t.fenceLink l) s3 else s3

/-- The I/O dies whose port lies on compute die `k` (R87). -/
def iodsOn (s : State) (k : Nat) : List Nat := (List.range s.variant.iods).filter fun i => iodDie i == k

/-- Cause 4 on every palm of a die (R591). -/
def fenceDiePalms (s : State) (k : Nat) : State := (List.range 16).foldl (fun t p => t.fencePalm (16 * k + p) 4) s

/-- An array fence (R591). -/
def arrayFence (s : State) (k : Nat) : State :=
  (((s.onDie k fun d => { d with arrayFence := true }).fenceCount.fenceDiePalms k).judgeMod).judgeFault

/-- A full fence (R591): an array fence, the die's stacks retired, and the I/O dies whose port lies on it fenced. -/
def fullFence (s : State) (k : Nat) : State :=
  if (s.dies.at k).fullFence then s
  else
    let s1 := ((s.onDie k fun d => { d with fullFence := true, held := false, stepping := none }).fenceCount).fenceDiePalms k
    let s2 := ((List.range s.variant.perDie).map (· + s.variant.perDie * k)).foldl (fun t n => t.retireStack n) s1
    let s3 := (s2.iodsOn k).foldl (fun t i => t.fenceIod i) s2
    let s4 := (List.range 4).foldl (fun t e => t.onArr fun a =>
      let a1 := { a with edges := a.edges.upd (4 * k + e) fun x => { x with trained := false } }
      match dieBeyond k e with
      | some o => { a1 with edges := a1.edges.upd (4 * o + edgeBack e) fun x => { x with trained := false } }
      | none => a1) s3
    (s4.judgeMod).judgeFault

/-- A stack is retired, and with the last stack in service of its die the die is fully fenced (R317, R590). -/
def retireStackDie (s : State) (n : Nat) : State :=
  let k := s.stackDie n
  let s1 := s.retireStack n
  if ((List.range s.variant.perDie).map (· + s.variant.perDie * k)).all fun x => (s1.stack x).retired then s1.fullFence k else s1.judgeFault

/-- A frame is retired into a FREE frame of the same die, copied as ciphertext, or waits for one (R318). -/
def retireFrame (s : State) (f : Nat) : State :=
  let e := s.frame f
  if e.mode = .absent then s
  else match (s.mem.tmap.find? fun p => p.1 != f && p.2.mode == .free && s.stackDie p.2.stack == s.frameDie f
      && (p.2.stack == e.stack || (s.stack p.2.stack).poisonList.length
        + ((s.stack e.stack).poisonList.filter fun q => q.1 = f).length ≤ 64)).map (·.1) with
    | none => s.onMem fun m => { m with retireWait := if m.retireWait.contains f then m.retireWait else m.retireWait ++ [f] }
    | some b =>
      let from_ := s.physAddr f 0
      let to_ := s.physAddr b 0
      let k := (s.ntcOf e.stack)
      let marks := (s.stack e.stack).poisonList.filter fun p => p.1 = f
      let s1 := s.onMem fun m =>
        { m with near := m.near.copyIn m.near from_ to_ (2 ^ 25),
                 nearTag := m.nearTag.copyIn m.nearTag (from_ / 64) (to_ / 64) (2 ^ 19),
                 retireWait := m.retireWait.filter (· ≠ f) }
      let s2 := (s1.onStack e.stack fun x => { x with poisonList := x.poisonList.filter fun p => p.1 ≠ f }).onStack (s.frame b).stack
        fun x => { x with poisonList := x.poisonList ++ marks }
      (((s2.remapFrame f b).raise (ntcEvt k.1 k.2) 4).fenceCount)

end State

/-! The commands. -/

/-- CELL_FAILURE (R104, R584): a cell, thumb spare or switch found bad in service, in physical coordinates. -/
def cellFailureOp (die row : Nat) (kind : FailKind) (col : Nat) (s : State) : State :=
  let mark := (die, row, kind, col)
  if die ≥ 8 ∨ row ≥ 24 ∨ col > 24 ∨ s.arr.failed.contains mark then s
  else
    let s1 := ((s.onArr fun a => { a with failed := a.failed ++ [mark] }).errClass 3 0 die 0 0 0).fenceCount
    match kind with
    | .cell k => s1.failCell die row k col true
    | .spare k => s1.failSpare die row k
    | .switch => s1.fencePalm (State.palmAt die row col) 2

/-- CHAIN_FORM (R106): a waiting chain forms in the cycle in which the last palm that it would remap has left its glove. -/
def chainFormOp (die row : Nat) (kind : Kind) (s : State) : State :=
  match State.chainWait (s.repair die row) kind with
  | none => s
  | some f => if s.chainFree die row f ∧ State.spareOk (s.repair die row) kind then s.formChain die row kind f true else s

/-- Both ends of an edge take a new state. -/
def State.onEdge (s : State) (die edge other : Nat) (f : EdgeSt → EdgeSt) : State :=
  s.onArr fun a => { a with edges := (a.edges.upd (4 * die + edge) f).upd (4 * other + edgeBack edge) f }

/-- The patterns that use the edge between two dies: those that run on both and have a lattice channel there between palms of
their footprint (R90, R91). -/
def State.edgeGloves (s : State) (die other : Nat) : List Nat :=
  (List.range 64).filter fun g =>
    let p := s.pat g
    let i := s.img g p.slot
    p.valid && !p.done && !p.stopped && i.dies / 2 ^ die % 2 == 1 && i.dies / 2 ^ other % 2 == 1 && edgeJoined i.palms die other

/-- The switch on `die` at which lattice channel `chan` of an edge ends: row, column and port (R86). -/
def edgeSite (edge chan : Nat) : Nat × Nat × Nat :=
  match edge with | 0 => (chan, 0, 4) | 1 => (chan, 23, 2) | 2 => (0, chan, 1) | _ => (23, chan, 3)

/-- CROSSING_MARGIN_LOSS (R90, R114): MARGIN_LOW, the event, and a schedule fault of cause CROSSING, at the crossing's switch, for each
pattern that uses the edge. -/
def crossingMarginLossOp (die edge chan : Nat) (s : State) : State :=
  match dieBeyond die edge with
  | none => s
  | some other =>
    let at_ := edgeSite edge chan
    let s1 := (s.onEdge die edge other fun x => { x with marginLow := true, trained := false }).raise (arrEvt die) 2
    (s.edgeGloves die other).foldl (fun t g => t.schedFault
      { glove := g, cause := 6, die := die, row := at_.1, col := at_.2.1, ctx := (t.pat g).slot, port := at_.2.2,
        cycle := (t.pat g).cycle }) s1

/-- CROSSING_RETRAIN_COMPLETE (R90, R112, R571): the edge is trained again while both its dies are released and in service. -/
def crossingRetrainCompleteOp (die edge : Nat) (s : State) : State :=
  match dieBeyond die edge with
  | none => s
  | some other =>
    if [die, other].all fun k => (s.dies.at k).bring == 4 && !s.dieFenced k then
      s.onEdge die edge other fun _ => { trained := true, marginLow := false }
    else s

/-- DIE_TO_DIE_PORT_FAILURE (R584, R591): the die, and any I/O die whose port lies on it, are fenced. -/
def dieToDiePortFailureOp (die : Nat) (iod : Option Nat) (s : State) : State :=
  if die ≥ 8 ∨ (s.dies.at die).fullFence then s
  else
    let s1 := (s.errClass 3 0 die 0 0 0).fullFence die
    match iod with | some i => ((s1.fenceIod i).judgeMod).judgeFault | none => s1

/-- STACK_CONTROLLER_FAILURE (R317, R584). -/
def stackControllerFailureOp (stack : Nat) (s : State) : State :=
  if stack ≥ s.variant.hbmStacks ∨ (s.stack stack).retired then s
  else (s.errClass 3 2 stack 0 0 0).retireStackDie stack

/-- FRAME_RETIREMENT (R318): a frame that waits takes a FREE frame of its die. -/
def frameRetirementOp (frame : Nat) (s : State) : State :=
  if s.mem.retireWait.contains frame then s.retireFrame frame else s

end Sys2Proof.Machine
end

