-- ==== Sys2Proof/Machine/Reruns.lean ====
section
/-! DEFINITION. Rerunnable detections: the stop, the rerun from a rerun point, and RERUN_LIMIT (R224 to R228, R268, R584 to R586). -/

namespace Sys2Proof.Machine

open Adr

namespace State

/-- Whether a pattern of the glove is ACTIVE and not done, and no rerun has stopped it (R225, R585). -/
def patActive (s : State) (g : Nat) : Bool := let p := s.pat g; p.valid && !p.done && !p.stopped

/-- The second RERUN_LIMIT of an M-cell in one window counts it as failed (R586). -/
def rerunLimitCell (s : State) (c kind : Nat) : State :=
  if kind > 2 then s
  else if s.aos.rerunLimits.contains c then
    let p := mcellSite c
    cellFailureOp p.die p.row (.cell .m) (s.physCol p.die p.row p.col .m) s
  else s.onAos fun a => { a with rerunLimits := a.rerunLimits ++ [c] }

/-- A rerun whose pattern has stopped takes place (R225): what the palms held is discarded, G1 to G15 and the address come
back from the rerun point, and the count of the point rises. -/
def rerunStops (s : State) (g : Nat) : State :=
  let p := s.pat g
  match s.gsqOf g with
  | none => s
  | some q =>
    if p.valid = false ∨ p.stopped = false ∨ p.faulted ∨ s.patStopped g = false ∨ (s.gsq q).state ≠ .waiting ∨ (s.gsq q).waitFor.isSome then s
    else
      let s1 := (s.glovePalms g).foldl (fun t c => t.stopPalm c true) s
      let r := (s.gsq q).rerun
      let s2 := s1.onGsq q fun x =>
        { x with g := r.gs, st := 0, pc := r.addr, state := .running, deadline := none, rerun := { r with count := r.count + 1 } }
      (s2.onPat g fun p => { p with frozen := [], freezing := false, heldSwitch := false }).raise (gsqEvt q) 0

/-- A rerunnable detection reaches the sequencer of glove `g` (R225, R227, R584, R585): the object of its log entry, an
M-cell for object 8, and the KIND of SPD_DLOG. -/
def rerunnable (s : State) (g obj idx kind : Nat) (detail : Word) : State :=
  let s1 := s.errClass 1 obj idx 0 g detail
  match s1.gsqOf g with
  | none => s1
  | some q =>
    if s1.patActive g = false ∨ (s1.pat g).faulted then s1
    else if (s1.gsq q).rerun.count + 1 > s1.fld (gsqRerunMax q) 0 4 then
      let s2 := if obj = 8 then s1.rerunLimitCell idx kind else s1
      (s2.stopPattern g (s2.pat g).cycle).faultGlove g 5 detail
    else
      let s2 := (s1.discardArm q).onGsq q fun x =>
        { x with sw := none, state := .waiting, waitFor := none, deadline := none }
      (s2.onPat g fun p => { p with
        stopped := true,
        stopAt := some (match p.stopAt with | none => p.cycle + p.lf | some x => min x (p.cycle + p.lf)) })

/-- A scheduled read, ring emission or drain of row `r` in M-cell `c` has failed its check (R268). -/
def detectRerun (s : State) (c r kind reader g : Nat) : State :=
  let s1 := s.detect c r kind reader g (s.patActive g)
  s1.rerunnable g 8 c kind (s1.reg (spdDlog (c / 288)))

/-- A malformed packed block at controller `ctl` of die `k`, read for glove `g`: a detection that is counted in SPD_CNT_XERR as well
(R268, R275, R279, R280). -/
def malformedLog (s : State) (k ctl g : Nat) (rerun : Bool) : State :=
  let w := BitVec.ofNat 64 (ctl + 3 * 2 ^ 20 + 5 * 2 ^ 23 + g % 64 * 2 ^ 26 + (if rerun then 2 ^ 32 else 0))
  ((if s.flag (spdEvt k) 0 then s else s.setReg (spdDlog k) w).raise (spdEvt k) 0).raise (spdEvt k) 2

/-- A malformed packed block delivers a rerunnable detection (R275). -/
def malformed (s : State) (k ctl g : Nat) : State :=
  let s1 := s.malformedLog k ctl g (s.patActive g)
  s1.rerunnable g 0 k 3 (s1.reg (spdDlog k))

end State

/-- RERUNNABLE_DETECTION (R225, R268): a detection reaches the sequencer of the reader's glove. -/
def rerunnableDetectionOp (d : Detection) (cycle : Nat) (s : State) : State :=
  if (s.pat d.glove).valid ∧ cycle > (s.pat d.glove).cycle then
    (if d.kind = 3 then s.malformedLog d.die d.cell d.glove false
     else s.detect (288 * d.die + d.cell) d.row d.kind d.reader d.glove false)
  else if d.kind = 3 then s.malformed d.die d.cell d.glove
  else s.detectRerun (288 * d.die + d.cell) d.row d.kind d.reader d.glove

end Sys2Proof.Machine
end

