-- ==== Sys2Proof/Machine/TierRows.lean ====
section
/-! DEFINITION. The expanders, and what happens to stacks, channels and deep ports: uncorrected and corrected errors, thresholds, NVMe completions, ports that become ready or return (R270 to R276, R296, R306 to R310, R316, R584, R587). -/

namespace Sys2Proof.Machine

open Adr

/-! Packed blocks (R273 to R275). -/

/-- The bits of a stream: bytes in order, each from its least significant bit (R274). -/
def streamBits (d : List Byte) : List Bool := d.flatMap fun b => (List.range 8).map fun i => b.getLsbD i

/-- Whether code lengths oversubscribe the code space (R275). -/
def oversubscribed (lens : List Nat) : Bool :=
  (lens.foldl (fun acc l => if l = 0 then acc else acc + 2 ^ (15 - l)) 0) > 2 ^ 15

/-- The symbols that have a code, by length and then by value: the order of canonical codes. -/
def canonOrder (lens : List Nat) : List Nat :=
  (List.range 15).flatMap fun l => (lens.zipIdx.filter fun p => p.1 = l + 1).map (·.2)

/-- One symbol from a bit stream (R274): `len` bits are still allowed, `code` read so far, `first` the first code of this
length and `index` its place in the canonical order. -/
def huffSym (lens order : List Nat) : Nat → Nat → Nat → Nat → Nat → List Bool → Option (Nat × List Bool)
  | 0, _, _, _, _, _ => none
  | _ + 1, _, _, _, _, [] => none
  | fuel + 1, l, code, first, index, b :: r =>
    let c := code + (if b then 1 else 0)
    let n := (lens.filter (· = l)).length
    if c < first + n then some (order.getD (index + (c - first)) 0, r)
    else huffSym lens order fuel (l + 1) (2 * c) (2 * (first + n)) (index + n) r

/-- `n` symbols from a bit stream. -/
def huffSyms (lens order : List Nat) : Nat → List Bool → Option (List Nat)
  | 0, _ => some []
  | n + 1, bs =>
    match huffSym lens order 15 1 0 0 0 bs with
    | none => none
    | some (x, r) => (huffSyms lens order n r).map (x :: ·)

/-- Code lengths, two to a byte, low nibble first (R273). -/
def codeLens (d : List Byte) : List Nat := d.flatMap fun b => [b.toNat % 16, b.toNat / 16]

/-- Bytes of two 4-bit symbols each, low nibble first (R274). -/
def nibbles : List Nat → List Byte
  | a :: b :: r => BitVec.ofNat 8 (a + 16 * b) :: nibbles r
  | _ => []

/-- The 4,096 bytes of a packed block; none when it is malformed (R273 to R275). -/
def unpack (d : List Byte) : Option (List Byte) :=
  let h := leAt d 0 4
  let body := d.drop 8
  let out : Option (List Byte) :=
    if d.length < 8 ∨ h / 4 ≠ 0 then none
    else match h % 4 with
      | 0 => if body.length < 4096 then none else some (body.take 4096)
      | 1 =>
        let lens := codeLens (body.take 128)
        if body.length < 128 ∨ oversubscribed lens then none
        else (huffSyms lens (canonOrder lens) 4096 (streamBits (body.drop 128))).map fun l => l.map (BitVec.ofNat 8 ·)
      | 2 =>
        let lens := codeLens (body.take 8)
        if body.length < 8 ∨ oversubscribed lens then none
        else (huffSyms lens (canonOrder lens) 8192 (streamBits (body.drop 8))).map nibbles
      | _ => none
  match out with
  | some o => if (crc32c o).toNat = leAt d 4 4 then some o else none
  | none => none

namespace State

/-- A field of packed-region entry `e` of die `k` (R282). -/
def prtFld (s : State) (k e w lo n : Nat) : Nat := s.fld (prtW0 k e + 8 * w) lo n

/-- The packed bytes of block `i` of an entry (R272): an empty list when idx does not rise (R275); where the access is refused, the frame,
unit and reason (R291), or nothing when it names no frame. -/
def packedBytes (s : State) (k e i : Nat) (a : Access) : Except (Option (Nat × Nat × NearRef)) (List Byte) :=
  let pb := s.prtFld k e 2 0 56
  let ib := s.prtFld k e 3 0 56 + 4 * i
  if taSpace pb ≠ 1 ∨ taSpace ib ≠ 1 ∨ taOfs ib + 8 > 2 ^ 41 then .error none
  else match s.nearStop (taOfs ib) 8 a false with
    | some r => .error (some r)
    | none =>
      let lo := s.nearNat (taOfs ib) 4
      let hi := s.nearNat (taOfs ib + 4) 4
      if hi ≤ lo then .ok []
      else if taOfs pb + 64 * hi > 2 ^ 41 then .error none
      else match s.nearStop (taOfs pb + 64 * lo) (64 * (hi - lo)) a false with
        | some r => .error (some r)
        | none => .ok (s.nearBytes (taOfs pb + 64 * lo) (64 * (hi - lo)))

/-- The die and controller that decode a block: those of the stack that holds it (R272). -/
def packedCtl (s : State) (k e i : Nat) : Nat × Nat :=
  let lo := s.nearNat (taOfs (s.prtFld k e 3 0 56) + 4 * i) 4
  s.ntcOf (s.frame ((taOfs (s.prtFld k e 2 0 56) + 64 * lo) / 2 ^ 25)).stack

/-- The entry that decodes a packed-view offset for a glove (R272): the lowest valid one that holds it. -/
def packedEntry (s : State) (k ofs g : Nat) : Option (Nat × Nat) :=
  ((List.range 64).find? fun e =>
    let db := s.prtFld k e 0 0 56
    s.prtFld k e 3 63 1 == 1 && s.prtFld k e 3 56 6 == g && db % 2 ^ 52 ≤ ofs && ofs < db % 2 ^ 52 + 4096 * s.prtFld k e 1 0 32).map
    fun e => (e, (ofs - s.prtFld k e 0 0 56 % 2 ^ 52) / 4096)

/-- A block decoded by its expander: the units are counted, and a malformed block is reported (R275, R276); an access to its index or
its units that is refused is counted and logged, and decodes nothing (R272, R292, R635). -/
def decodeBlock (s : State) (k e i g : Nat) : State × Option (List Byte) :=
  let a : Access := ⟨g, (s.glove g).key, false⟩
  match s.packedBytes k e i a with
  | .error (some (f, u, r)) => (s.refuseNear f u r a false, none)
  | .error none => (s.refuseNoFrame k (s.prtFld k e 0 0 52 + 4096 * i) a false, none)
  | .ok d =>
    let c := s.packedCtl k e i
    let s1 := s.count (expCntIn c.1) (d.length / 64)
    match unpack d with
    | none => (s1.malformed c.1 c.2 g, some [])
    | some o => (s1.count (expCntOut c.1) 64, some o)

/-! Thresholds (R587). -/

/-- One more error of a channel, stack or port in its window; the crossing of a threshold `thr` writes a log entry. -/
def crossing (s : State) (n thr obj idx : Nat) (act : State → State) : State :=
  if thr ≠ 0 ∧ n = thr + 1 then act (s.logEntry 0 obj idx 0 0 0) else s

/-- An NVMe command of a deep port completes in error (R310, R584, R587). -/
def nvmeError (s : State) (i : Nat) : State :=
  let n := (s.mem.dpp.at i).errWin + 1
  let s1 := ((s.raise (dppEvt i) 0).onDpp i fun d => { d with errWin := n }).errClass 1 4 i stIo 0 0
  s1.crossing n (s.fld rasCethr 32 8) 4 i fun t => if t.portSt true i = .active then t.drainPort true i else t

end State

/-! The commands. -/

/-- PACKED_BLOCK_DECODE (R272 to R276). -/
def packedBlockDecodeOp (die entry block glove : Nat) (s : State) : State :=
  if s.prtFld die entry 3 63 1 = 0 ∨ s.prtFld die entry 3 56 6 ≠ glove ∨ block ≥ s.prtFld die entry 1 0 32 ∨ entry ≥ 64 then s
  else (s.decodeBlock die entry block glove).1

/-- HBM_UNCORRECTED_READ (R296): the unit joins the poison list, or its frame is retired; the reader's read fails. -/
def hbmUncorrectedReadOp (frame unit glove : Nat) (system rerunReader : Bool) (s : State) : State :=
  let e := s.frame frame
  if e.mode = .absent then s
  else
    let c := s.ntcOf e.stack
    let s1 := (s.elog c.1 c.2 frame unit 0 glove false system).raise (ntcEvt c.1 c.2) 1
    let listed := (s1.stack e.stack).poisonList
    let s2 :=
      if listed.contains (frame, unit) then s1
      else if listed.length < 64 then
        (s1.onStack e.stack fun x => { x with poisonList := x.poisonList ++ [(frame, unit)] }).onFrame frame fun x => { x with poison := true }
      else
        let t := (s1.onFrame frame fun x => { x with poison := true }).retireFrame frame
        if t.mem.retireWait.contains frame then t
        else t.onFrame frame fun x => { x with poison := (t.stack x.stack).poisonList.any fun p => p.1 = frame }
    if rerunReader then s2.rerunnable glove 6 frame 4 (s2.reg (ntcElog c.1 c.2)) else s2

/-- CORRECTED_ERROR (R584, R587, R307): a read corrected by a stack (part 2) or a DIMM (3), or an NVMe error (4). -/
def correctedErrorOp (part idx dev unit : Nat) (s : State) : State :=
  if part = 2 then
    if idx ≥ s.variant.hbmStacks ∨ (s.stack idx).retired then s
    else
      let c := s.ntcOf idx
      let n := (s.stack idx).ceWin + 1
      let s1 := ((s.raise (ntcEvt c.1 c.2) 0).corrected).onStack idx fun x => { x with ceWin := n }
      s1.crossing n (s.fld rasCethr 16 16) 2 idx fun t => t.alert 4
  else if part = 3 then
    if s.portSt false idx = .absent ∨ s.portSt false idx = .fenced then s
    else
      let n := (s.mem.ddr.at idx).ceWin + 1
      let s0 := if s.flag (ddrEvt idx) 1 then s else s.setReg (ddrElog idx) (BitVec.ofNat 64 (unit % 2 ^ 36 + dev % 16 * 2 ^ 38))
      let s1 := ((s0.raise (ddrEvt idx) 0).corrected).onDdr idx fun x => { x with ceWin := n }
      s1.crossing n (s.fld rasCethr 0 16) 3 idx fun t => if t.portSt false idx = .active then t.drainPort false idx else t
  else if part = 4 ∧ s.portSt true idx ≠ .absent ∧ s.portSt true idx ≠ .fenced then s.nvmeError idx
  else s

/-- NVME_COMMAND_COMPLETE (R305, R310, R584): an error fails the request that the command belongs to. -/
def nvmeCommandCompleteOp (port ident : Nat) (ok : Bool) (s : State) : State :=
  if s.portSt true port = .absent ∨ s.portSt true port = .fenced then s
  else
    let s1 := s.count (dppCntCmd port)
    if ok then s1
    else
      let s2 := s1.nvmeError port
      match s2.reqById ident with
      | none => s2
      | some r =>
        if r.moving = false then s2
        else if r.op = 1 then sealCompleteOp ident true s2
        else if r.op = 2 then copyupCompleteOp ident true s2
        else if r.op = 3 then moveCompleteOp ident true s2
        else s2

/-- The key slot that holds the key of a durable extent's tag: 256 when none does (R306, R537). -/
def State.slotOfTag (s : State) (tag : BitVec 128) : Nat :=
  ((s.keys.find? fun p => p.2.installed && p.2.tag == tag).map (·.1)).getD 256

/-- The durable extents of the catalogue return to the table once a deep port can be read (R306). -/
def State.readCatalogue (s : State) : State :=
  if s.mem.catalogueOk then s
  else (s.mem.catalogue.foldl (fun t p => t.onExtent (p.1 % 2 ^ 24) fun _ =>
      { p.2 with key := if p.2.system then p.2.key else s.slotOfTag p.2.ktag }) s).onMem fun m => { m with catalogueOk := true }

/-- The capacity that an SSD whose namespace holds `n` bytes offers: less the catalogue, in whole chunks (R310). -/
def offered (n : Nat) : Nat := (n - 2 ^ 32) / 2 ^ 21 * 2 ^ 21

/-- DEEP_PORT_NVME_READY (R309, R310, R571): the port joins the deep tier, or stays FENCED for a format that is not the
one used; a port that returns by command waits for its catalogue copy (R316). -/
def deepPortNvmeReadyOp (port : Nat) (fmtOk : Bool) (gen width capB : Nat) (s : State) : State :=
  let d := s.mem.dpp.at port
  if port ≥ 4 ∨ s.inA = false ∨ s.prof 0 19 1 = 0 ∨ s.aos.iodFenced.contains port then s
  else if d.st = .fenced ∧ d.returnCmd.isSome then
    s.onDpp port fun d => { d with gen := gen, width := width, nvmeReady := fmtOk, capB := if fmtOk then offered capB else 0 }
  else if d.st ≠ .absent then s
  else if fmtOk = false then s.onDpp port fun d => { d with st := .fenced, gen := gen, width := width, nvmeReady := false }
  else
    (((s.onDpp port fun d => { d with st := .active, gen := gen, width := width, nvmeReady := true, capB := offered capB }).setReg (dppCap port)
      (BitVec.ofNat 64 (offered capB))).readCatalogue.takeBringFrames)

/-- RETURN_TRAINING_COMPLETE (R316): a returned channel or port enters ACTIVE, or stays FENCED; a channel returns at the one
speed and with the one kind of the others (R308). -/
def returnTrainingCompleteOp (deep : Bool) (idx : Nat) (ok : Bool) (info : DimmInfo) (capB : Nat) (s : State) : State :=
  let cmd := if deep then (s.mem.dpp.at idx).returnCmd else (s.mem.ddr.at idx).returnCmd
  match cmd with
  | none => s
  | some c =>
    let s1 := if deep then s.onDpp idx fun d => { d with returnCmd := none } else s.onDdr idx fun d => { d with returnCmd := none }
    let others := s1.mem.ddr.filter fun p => p.1 != idx && p.2.st != .absent && !p.2.mismatch
    let one := ((others.find? fun p => p.2.speed != 0).map fun p => p.2.speed).getD info.speed
    let other : Bool := !deep && others.any fun p => p.2.mrdimm != info.mrdimm
    if ok = false ∨ other ∨ (deep = false ∧ info.speed < one) then
      let s2 := if deep ∨ other ∨ s1.flag (ddrEvt idx) 1 then s1 else s1.setReg (ddrElog idx) (BitVec.ofNat 64 (2 * 2 ^ 36))
      s2.refuseState c 0 3 idx
    else
      let s2 := if deep then
          (s1.onDpp idx fun d => { d with st := .active, nvmeReady := true, capB := offered capB }).setReg (dppCap idx) (BitVec.ofNat 64 (offered capB))
        else s1.onDdr idx fun d =>
          { d with st := .active, mrdimm := info.mrdimm, x4 := info.x4, speed := one, capGB := info.capGB, mismatch := false, ceWin := 0 }
      (s2.complete c stOK).judgeMod

end Sys2Proof.Machine
end

