-- ==== Sys2Proof/Machine/StewardRows.lean ====
section
/-! DEFINITION. The steward's own events: step records, commits, time-to-live, caches on the lower tiers, switch-in and cuff, the standby, and its registers (R362 to R385, R406 to R420, R480, R481). -/

namespace Sys2Proof.Machine

open Adr

namespace State

/-! Steps. -/

/-- Records with reserved codes below 0x0100 leave the head of a report queue, up to the first STEP_DONE or STEP_ABORT; those with codes of
0x0100 and above stay for the host (R363). -/
def dropReserved : List ReportRec → List ReportRec
  | [] => []
  | r :: rest => if r.code ≥ 0x100 then r :: dropReserved rest else if r.code = 1 ∨ r.code = 2 then r :: rest else dropReserved rest

/-- The steward reads the report queue of a glove whose ENABLE is 1 and takes a record of code `code`: whether there was
one, and the state after (R363). A REPORT that waits for room is placed. -/
def takeRecord (s : State) (g code : Nat) : Bool × State :=
  match s.gsqOf g with
  | none => (false, s)
  | some q =>
    if s.serves g = false then (false, s)
    else
      let l := dropReserved (s.gsq q).reports
      let own := fun (r : ReportRec) => decide (r.code < 0x100)
      let hit := ((l.find? own).map (·.code)) == some code
      (hit, (s.onGsq q fun x => { x with reports := if hit then l.eraseP own else l }).wakeReport q)

/-- The words of a SEQT entry (R354). -/
def seqWords (s : State) (i : Nat) : List Word :=
  let e := s.seqEnt i
  let b := fun (x : Bool) (n : Nat) => if x then 2 ^ n else 0
  let rf := match e.rfrom with | .decode => 1 | .complete => 2 | _ => 0
  [BitVec.ofNat 64 (qcode e.st + rf * 2 ^ 4 + b e.resuming 6 + b e.canreq 7 + b e.pausereq 8 + e.glove % 64 * 2 ^ 9 + e.key % 256 * 2 ^ 15
     + e.model % 2 ^ 20 * 2 ^ 23 + e.adapter % 2 ^ 12 * 2 ^ 43 + b e.adp 55 + b e.spec 56 + b e.instep 57 + b e.auto 58),
   BitVec.ofNat 64 (e.clen % 2 ^ 20 + e.dlen % 16 * 2 ^ 20 + e.plen % 2 ^ 20 * 2 ^ 24 + e.inc % 256 * 2 ^ 44),
   BitVec.ofNat 64 (e.kvd % 2 ^ 56), BitVec.ofNat 64 (e.pnode % 2 ^ 32 + e.gstate % 2 ^ 32 * 2 ^ 32), BitVec.ofNat 64 (e.spp % 2 ^ 56),
   BitVec.ofNat 64 e.expiry, BitVec.ofNat 64 (e.gen % 2 ^ 16 + e.outn % 2 ^ 20 * 2 ^ 16 + e.outmax % 2 ^ 20 * 2 ^ 36),
   BitVec.ofNat 64 (e.ita % 2 ^ 56 + e.cring % 256 * 2 ^ 56)]

/-- The fields of a STW_GCFG word that a write sets lie in their ranges (R385): a 32-bit write is judged by its half's fields alone
(R9), and TBUD, which spans both halves, with the low one (DESIGN CHOICE, log entry 83). -/
def gcfgOk (half : Half) (w : Word) : Bool :=
  (half == .hi || (1 ≤ w.field 0 13 && w.field 0 13 ≤ 4096 && 1 ≤ w.field 13 20 && w.field 13 20 ≤ 1048575)) &&
    (half == .lo || 1 ≤ w.field 37 8)

/-! Fetches (R480, R481, R544). -/

/-- The tweak of unit `u` of an extent on a link (R544). -/
def linkTweak (name ext u : Nat) : Nat := 2 ^ 127 + 2 ^ 64 * name + 2 ^ 32 * ext + u

/-- Data for a link, unit by unit, encrypted under key identity `kid`; `u0` is the first unit's index (R544). -/
def linkUnits (kid name ext u0 : Nat) (d : List Byte) : List (List Byte) :=
  (chunk 4096 d).zipIdx.map fun p => Config.xtsEncrypt kid (linkTweak name ext (u0 + p.2)) p.1

/-- The answer to a FETCH of an extent of a resident model (R480). A poisoned unit is not sent, which the requester takes
as the loss of this peer (R296). -/
def serveFetch (s : State) (f : FetchMsg) : State :=
  let m := s.model f.model
  let x := m.exts.getD f.extent default
  if m.st ≠ .resident ∨ m.version ≠ f.version then s.emit (.fetchData f.src f.tag stConflict [])
  else if f.extent ≥ m.exts.length ∨ f.offset + f.len > x.len then s.emit (.fetchData f.src f.tag stBound [])
  else if s.rangePoisoned (x.nta + f.offset) f.len then s
  else s.emit (.fetchData f.src f.tag stOK
    (linkUnits (s.keys.at m.key).kid f.model f.extent (f.offset / 4096) (s.nearBytes (taOfs x.nta + f.offset) f.len)))

/-- The answer to a FETCH that names an extent handle (R481). -/
def serveHandle (s : State) (f : FetchMsg) (h : BitVec 32) : State :=
  let no := fun (st : Nat) => s.emit (.fetchData f.src f.tag st [])
  match s.extOf h with
  | none => no stStale
  | some slot =>
    let e := s.extent slot
    if e.st = .writing then no stConflict
    else if e.st = .lost then no stLost
    else if f.offset + f.len > e.len then no stBound
    else if s.keyOk e.system e.key = false ∨ (e.system = false ∧ (s.keys.at e.key).kid ≠ e.kid) then no stKeyAbsent
    else s.emit (.fetchData f.src f.tag stOK (linkUnits e.kid h.toNat f.extent (f.offset / 4096) (s.extBytes slot f.offset f.len)))

/-- The switch-in of a model that waits for extent `e`. -/
def swinFor (s : State) (m e : Nat) : Option SwinSt :=
  match (s.model m).swin with
  | none => none
  | some w => if w.ext = e then some w else none

/-- The step builds of a model's gloves are tried. -/
def buildModel (s : State) (m : Nat) : State := (s.modelGloves m).foldl (fun t g => t.buildStep g) s

/-! Takeover (R380, R381). -/

/-- An unplanned takeover by the standby steward: unmirrored steps are abandoned with their held commands applied, the
token deliveries of each last commit are made again, and the standby serves. A planned swap still open is refused. -/
def takeover (s : State) : State :=
  if s.stw.standbyReady = false then s
  else
    let s1 := match s.stw.swapCmd with
      | some c => (s.onStw fun b => { b with swapCmd := none, swapLeft := [] }).refuseState c 0 (mcode s.mstate) 0
      | none => s.onStw fun b => { b with swapLeft := [] }
    let run := (s1.stw.serve.filter fun p => p.2.phase ≠ 0).map (·.1)
    let s2 := run.foldl (fun t g => t.abandonStep g) s1
    let s3 := (s2.raise stwEvt 5).onStw fun b => { b with serving := 1 - b.serving, standbyReady := false, beats := 0 }
    let s4 := (s3.stw.serve.flatMap fun p => p.2.last).foldl (fun t p => t.putCq p.1 1 p.2) s3
    s4.buildAll

end State

/-! The commands. -/

/-- STEP_COMMIT (R365): at (C, 0), in the order of R43 and R44. -/
def stepCommitOp (g : Nat) (s : State) : State :=
  if s.turn (.commit g) then s.commitStep g else s

/-- STEP_DONE (R363, R365): the sampler starts on the step's rows. -/
def stepDoneOp (g : Nat) (s : State) : State :=
  let (hit, s1) := s.takeRecord g 1
  if hit ∧ (s1.serve g).phase = 1 then s1.onServe g fun v => { v with phase := 2 } else s1

/-- STEP_ABORT (R363, R369, R370): the running step is abandoned and the next one is built. -/
def stepAbortOp (g : Nat) (s : State) : State :=
  let (hit, s1) := s.takeRecord g 2
  if hit ∧ (s1.serve g).phase ≠ 0 then (s1.abandonStep g).buildStep g else s1

/-- SAMPLER_FINISH (R365, R386 to R392). -/
def samplerFinishOp (g : Nat) (s : State) : State := if (s.serve g).phase = 2 then s.finishSampler g else s

/-- AUTO_RESUME (R364): enough pages are free to hold all the blocks of a sequence that the steward paused. -/
def autoResumeOp (seq : Nat) (s : State) : State :=
  let e := s.seqEnt seq
  if e.st = .pausedWide ∧ e.auto ∧ e.resuming = false ∧ e.job.isNone ∧ e.retry.isNone
      ∧ (s.missingPages seq e.clen).length ≤ (s.freePages e.glove).length then s.resumeSeq seq else s

/-- TTL_EXPIRY (R406, R407, R411), in the order of R43 and R44. The expiry has fired: it is no longer armed. -/
def ttlExpiryOp (seq : Nat) (s : State) : State :=
  if s.turn (.ttl seq) = false then s else (s.onSeqEnt seq fun e => { e with expiry := 0 }).expireSeq seq

/-- EXTENT_TTL_EXPIRY (R411), in the order of R43 and R44. -/
def extentTtlExpiryOp (slot : Nat) (s : State) : State :=
  if s.turn (.ttlExtent slot) = false then s else (s.onExtent slot fun e => { e with expiry := none }).releaseExtent slot

/-- CACHE_SEAL_COMPLETE (R408). -/
def cacheSealCompleteOp (seq : Nat) (s : State) : State := if s.seqEnded seq then s else s.sealAllIn seq

/-- SEAL_RETRY (R409). -/
def sealRetryOp (seq : Nat) (s : State) : State := s.retryJob seq

/-- RESUME_PAGE_RETRY (R410). -/
def resumePageRetryOp (seq : Nat) (s : State) : State :=
  let e := s.seqEnt seq
  if e.resuming ∧ e.job.isNone ∧ e.retry.isSome ∧ e.retryAt ≤ s.tick.tick then s.resumeTake seq else s

/-- RESUME_COPY_COMPLETE (R410). -/
def resumeCopyCompleteOp (seq : Nat) (s : State) : State :=
  if s.seqEnded seq then s else (s.resumeAllIn seq).buildStep (s.seqEnt seq).glove

/-- CUFF_RELEASE (R418); gloves that run no step switch to a finished second copy (R419). -/
def cuffReleaseOp (model : Nat) (s : State) : State :=
  let idle := (s.modelGloves model).filter fun g => (s.serve g).phase == 0
  (idle.foldl (fun t g => t.secondSwitch model g) (s.cuffReleased model)).buildModel model

/-- SWITCHIN_EXTENT_COMPLETE (R415, R416): every unit of the extent is in the near tier. -/
def switchinExtentCompleteOp (model extent : Nat) (s : State) : State :=
  match s.swinFor model extent with
  | none => s
  | some w =>
    if w.units = 2 ^ ceilDiv ((s.model model).exts.getD extent default).len 4096 - 1 then (s.swinExtentIn model).buildModel model else s

/-- PEER_LOST (R415, R480). -/
def peerLostOp (model extent peer : Nat) (s : State) : State :=
  match s.swinFor model extent with
  | none => s
  | some w => if w.src < w.peers.length ∧ w.peers.getD w.src 0 = peer then s.swinPeerLost model else s

/-- FETCH_REQUEST (R480, R481). -/
def fetchRequestOp (f : FetchMsg) (s : State) : State :=
  match f.handle with
  | none => s.serveFetch f
  | some h => s.serveHandle f h

/-- FETCH_UNIT_RECEIVE (R480, R544): a unit is decrypted under this module's slot of the model's key and written into the
new frames. -/
def fetchUnitReceiveOp (model extent unit : Nat) (data : List Byte) (s : State) : State :=
  match s.swinFor model extent with
  | none => s
  | some w =>
    let len := ((s.model model).exts.getD extent default).len
    if w.src ≥ w.peers.length ∨ unit ≥ ceilDiv len 4096 then s
    else
      let d := (Config.xtsDecrypt (s.keys.at (s.model model).key).kid (State.linkTweak model extent unit) data).take (len - 4096 * unit)
      (s.stewardWrite (s.swinNta model w extent + 4096 * unit) d).onModel model fun y =>
        { y with swin := some { w with units := w.units ||| 2 ^ unit } }

/-- STEWARD_HEARTBEAT (R380): every 100 rc. -/
def stewardHeartbeatOp (s : State) : State :=
  if s.tick.rcs < s.stw.sentBeat + 100 then s
  else (s.onStw fun b => { b with beats := b.beats + 1, sentBeat := s.tick.rcs }).emit (.heartbeat 2)

/-- STEWARD_TAKEOVER (R380, R381). -/
def stewardTakeoverOp (s : State) : State := s.takeover

/-- STANDBY_RESYNC (R379): a standby whose I/O die is not fenced. -/
def standbyResyncOp (s : State) : State :=
  if s.aos.iodFenced.contains (if s.stw.serving = 0 then 2 else 0) ∨ s.inA = false then s
  else s.onStw fun b => { b with standbyReady := true }

/-- STW_QIDX_WRITE (R368, R382). -/
def stwQidxWriteOp (half : Half) (val : Word) (s : State) : State :=
  if half = .hi then s else
  let i := (mergeHalf half (s.reg stwQidx) val).field 0 17
  ((s.seqWords i).zipIdx).foldl (fun t p => t.setReg (stwQ p.2) p.1) (s.setReg stwQidx (BitVec.ofNat 64 i))

/-- STW_GCFG_WRITE (R385, R565): a profile with SERVE = 0 keeps ENABLE at 0. -/
def stwGcfgWriteOp (g : Nat) (half : Half) (val : Word) (s : State) : State :=
  let w0 := Word.setField (mergeHalf half (s.reg (stwGcfg g)) val) 46 18 0
  let w := if s.prof 0 17 1 = 0 then Word.setField w0 45 1 0 else w0
  if g ≥ 64 ∨ State.gcfgOk half w = false then s
  else
    let s1 := s.setReg (stwGcfg g) w
    if s.serves g = false ∧ w.bit 45 then
      (s1.onServe g fun v => { v with step := 0, started := false, cap := w.field 0 13 }).buildStep g
    else s1

end Sys2Proof.Machine
end

