-- ==== Sys2Proof/Machine/StewardCmds.lean ====
section
/-! DEFINITION. The host commands of sequences, models, adapters and the steward (R355 to R361, R380, R404, R412 to R420, R515). -/

namespace Sys2Proof.Machine

open Adr

namespace State

/-! Sequence commands. -/

/-- A sequence command refused for a state is counted in STW_CNT_CONFLICT (R384). -/
def seqConflict (s : State) (c : HostCmd) (obj code ident : Nat) : State := (s.raise stwEvt 1).refuseState c obj code ident

/-- A sequence command refused with the entry's present state (R356). -/
def seqRefuse (s : State) (c : HostCmd) (i : Nat) : State := s.seqConflict c 2 (qcode (s.seqEnt i).st) (s.seqHandle i)

/-- The row of a sequence command: a VF's owner key slot replaces the operand (R514). -/
def seqRow (op : Nat) (masks : List Nat) : CmdRow :=
  { op := op, pfOnly := false, masks := masks, forVf := fun _ key c => { c with a1 := c.a1.setField 32 8 key } }

/-- The checks of a sequence command (R356): module state, handle, owner key slot; then its own effect. -/
def seqCommand (s : State) (c : HostCmd) (ok : Bool) (f : Nat → State → State) : State :=
  let h := c.a1.field 0 32
  let i := h % 2 ^ 17
  if ok = false then s.seqConflict c 0 (mcode s.mstate) 0
  else if h / 2 ^ 25 ≠ 0 then s.refuse c stBound
  else if (s.seqEnt i).st = .free ∨ (s.seqEnt i).inc ≠ h / 2 ^ 17 then s.refuse c stStale
  else if (s.seqEnt i).key ≠ c.a1.field 32 8 then s.refuse c stOwner
  else f i s

/-- The states in which a sequence's cache is paused. -/
def isPaused (q : QState) : Bool := q == .pausedNear || q == .pausedWide || q == .pausedDeep

/-- The entry that an admission takes (R37, R355): one never issued, else the least recently freed that no copy in flight
still uses. -/
def nextSeq (s : State) : Option Nat :=
  if s.stw.seqNext < 2 ^ 17 then some s.stw.seqNext else s.stw.seqFreed.find? fun i => (s.seqEnt i).job.isNone

/-- The entry is taken off the free entries. -/
def takeSeq (s : State) (i : Nat) : State :=
  s.onStw fun b => if b.seqNext < 2 ^ 17 then { b with seqNext := b.seqNext + 1 } else { b with seqFreed := b.seqFreed.filter (· ≠ i) }

/-- A time-to-live operand (R516). -/
def ttlOf (n : Nat) : Nat := if n = 0xFFFFFFFF then 2 ^ 64 - 1 else n

/-- The first condition of R357 that fails, as a status; none when the admission is accepted. -/
def admitCheck (s : State) (c : HostCmd) : Option Nat :=
  let g := c.a1.field 0 6
  let m := s.model (c.a1.field 14 20)
  let a := s.adapter (c.a1.field 34 12)
  let plen := c.a3.field 0 20
  let outmax := c.a3.field 20 20
  let cring := c.a1.field 48 8
  if (s.glove g).live = false then some stOwner
  else if s.serves g = false then some stConflict
  else if c.a1.field 6 8 ≠ (s.glove g).key then some stOwner
  else if plen = 0 ∨ outmax = 0 ∨ plen + outmax > m.ctxmax ∧ m.st ≠ .absent ∨ (c.epoch.isNone ∧ s.fld (hifCqCfg cring) 6 7 ≠ c.func) then
    some stBound
  else if m.st = .absent ∨ m.gloves.getLsbD g = false
      ∨ (c.a1.bit 46 ∧ (a.st = 0 ∨ a.model ≠ c.a1.field 14 20 ∨ a.glove ≠ g)) ∨ (c.a1.bit 47 ∧ m.dsrc = 0) then some stBound
  else if s.nextSeq = none then some stFull
  else none

/-- A refused admission, with its event (R384). -/
def admitRefuse (s : State) (c : HostCmd) (st : Nat) : State :=
  let g := c.a1.field 0 6
  if st = stConflict then s.seqConflict c 1 (s.gloveCode g) g
  else if st = stFull then (s.raise stwEvt 0).refuse c st
  else s.refuse c st

/-- An accepted admission (R358, R398, R401). -/
def admitSeq (s : State) (c : HostCmd) : State × Nat :=
  let i := s.nextSeq.getD 0
  let g := c.a1.field 0 6
  let inc := ((s.seqEnt i).inc + 1) % 256
  let adp := c.a1.bit 46
  let s1 := (s.takeSeq i).onSeqEnt i fun _ =>
    { (default : SeqEnt) with
      st := .admitted, rfrom := .prefill, glove := g, key := c.a1.field 6 8, model := c.a1.field 14 20, adapter := c.a1.field 34 12,
      adp := adp, spec := c.a1.bit 47, plen := c.a3.field 0 20, inc := inc,
      kvd := 2 ^ 52 + 64 * (Config.kvDirectory i inc % 2 ^ 35), gen := s.fld (xchGen g) 0 16, outmax := c.a3.field 20 20,
      ita := c.a2.field 0 56, spp := c.a4.field 0 56, cring := c.a1.field 48 8, ttln := ttlOf (c.a5.field 0 32),
      ttlw := ttlOf (c.a5.field 32 32), ttld := ttlOf (c.a6.field 0 32) }
  let s2 := if adp then s1.onAdapter (c.a1.field 34 12) fun a => { a with refs := a.refs + 1 } else s1
  let s3 := s2.newDir i
  let s4 := match s3.gloveRead g (c.a2.field 0 56) (4 * c.a3.field 0 20) with
    | some d => s3.prefixWalk i ((chunk 4 d).map ofBytes)
    | none => s3
  let s5 := (s4.count stwCntAdmit).onServe g fun v => { v with queue := v.queue ++ [i] }
  (s5.buildStep g, i)

/-- ADMIT after the checks of R514, with RES1 for the completion. -/
def admitTo (s : State) (c : HostCmd) (r1 : Nat) : State :=
  if s.inS = false then s.seqConflict c 0 (mcode s.mstate) 0
  else match s.admitCheck c with
    | some st => s.admitRefuse c st
    | none => let (t, i) := s.admitSeq c; t.complete c stOK (t.seqHandle i) r1

/-- The operand bits of ADMIT (R515). -/
def admitMasks : List Nat := [bits 0 56, bits 0 56, bits 0 40, bits 0 56, allBits, bits 0 32]

/-- APPEND of a COMPLETE sequence (R359, R360). -/
def appendSeq (s : State) (c : HostCmd) (i : Nat) : State :=
  let e := s.seqEnt i
  let plen := c.a3.field 0 20
  let outmax := c.a3.field 20 20
  if e.st ≠ .complete then s.seqRefuse c i
  else if plen = 0 ∨ outmax = 0 ∨ e.clen + 1 + plen + outmax > (s.model e.model).ctxmax then s.refuse c stBound
  else
    let s1 := if e.job.isSome ∨ e.retry.isSome then ((s.withdrawPieces i).freeExtents i).onSeqEnt i fun x => { x with job := none, retry := none }
      else s
    let s2 := s1.onSeqEnt i fun x =>
      { x with st := .prefill, plen := plen, ita := c.a2.field 0 56, outmax := outmax, outn := 0, expiry := 0, run := 0, dlen := 0 }
    ((s2.onServe e.glove fun v => { v with autoBack := v.autoBack ++ [i] }).buildStep e.glove).complete c stOK

/-- CANCEL (R359, R360). -/
def cancelCmd (s : State) (c : HostCmd) (i : Nat) : State :=
  let e := s.seqEnt i
  match e.st with
  | .complete => (s.count stwCntLatecan).refuse c 0x43 (2 + qcode e.st * 2 ^ 4 + s.seqHandle i * 2 ^ 32)
  | .cancelled | .expired | .free => s.seqRefuse c i
  | .prefill | .decode =>
    let s1 := s.onSeqEnt i fun x => { x with cancelCmds := x.cancelCmds ++ [c] }
    if e.instep then s1.onSeqEnt i fun x => { x with canreq := true, pausereq := false } else s1.cancelSeq i
  | _ => (s.onSeqEnt i fun x => { x with cancelCmds := x.cancelCmds ++ [c] }).cancelSeq i

/-- PAUSE (R359, R360). -/
def pauseCmd (s : State) (c : HostCmd) (i : Nat) : State :=
  let e := s.seqEnt i
  match e.st with
  | .prefill | .decode =>
    if e.canreq then s.seqRefuse c i
    else
      let s1 := s.onSeqEnt i fun x => { x with pauseCmds := x.pauseCmds ++ [c] }
      if e.instep then s1.onSeqEnt i fun x => { x with pausereq := true } else s1.pauseSeq i
  | .complete => (s.onSeqEnt i fun x => { x with pauseCmds := x.pauseCmds ++ [c] }).pauseSeq i
  | _ => s.seqRefuse c i

/-- RESUME (R359, R360, R410). -/
def resumeCmd (s : State) (c : HostCmd) (i : Nat) : State :=
  let e := s.seqEnt i
  if isPaused e.st = false ∨ e.resuming then s.seqRefuse c i
  else ((s.resumeSeq i).complete c stOK).buildStep e.glove

/-- RELEASE (R359, R360, R411): an entry whose cache a copy in flight still uses is blanked when that copy ends. -/
def releaseSeq (s : State) (c : HostCmd) (i : Nat) : State :=
  let e := s.seqEnt i
  match e.st with
  | .complete | .cancelled | .expired =>
    let s1 := s.freeExtents i
    let s2 := if e.job.isSome then s1 else s1.freeCache i
    let s3 := if e.adp then s2.onAdapter e.adapter fun a => { a with refs := a.refs - 1 } else s2
    let s4 := (s3.leaveBatch i).onSeqEnt i fun x =>
      if x.job.isSome then { x with st := .free, expiry := 0 } else { (default : SeqEnt) with inc := x.inc }
    (s4.onStw fun b => { b with seqFreed := b.seqFreed ++ [i] }).complete c stOK
  | _ => s.seqRefuse c i

/-! Models and adapters. -/

/-- The state codes of R412. -/
def mdlCode (m : MdlState) : Nat :=
  match m with | .absent => 0 | .parked => 1 | .loading => 2 | .resident => 3 | .replacing => 4

def modelRefuse (s : State) (c : HostCmd) (m : Nat) : State := s.refuseState c 5 (mdlCode (s.model m).st) m

/-- Near-tier bytes that a command of the PF names, read as the system; none where they are not mapped. -/
def hostBytes (s : State) (ta len : Nat) : Option (List Byte) :=
  if taSpace ta ≠ 1 ∨ ta / 2 ^ 56 ≠ 0 ∨ nearFrame (taOfs ta) = none ∨ s.nearOk ta len ⟨0, 0, true⟩ false = false ∨ s.rangePoisoned ta len then none
  else some (s.nearBytes (taOfs ta) len)

/-- An extent table of `n` entries (R413); none when it is not mapped or an entry is malformed. -/
def extTable (s : State) (ta n : Nat) : Option (List MdlExt) :=
  match s.hostBytes ta (32 * n) with
  | none => none
  | some d =>
    let l := (chunk 32 d).map fun e =>
      ({ nta := 0, len := leAt e 8 8, wide := if leAt e 24 8 % 2 = 1 then some (BitVec.ofNat 32 (leAt e 16 4)) else none,
         deep := if leAt e 24 8 / 2 % 2 = 1 then some (BitVec.ofNat 32 (leAt e 20 4)) else none } : MdlExt)
    if l.all fun x => 64 ≤ x.len && x.len ≤ 2 ^ 36 && x.len % 64 == 0 then some l else none

/-- The pairs of system frames that the model index and `n` records take (R412). -/
def modelFrames (n : Nat) : Nat := if n = 0 then 0 else ceilDiv (131072 + n) 524288

/-- The frames of the model table with one model more (R400); none when FREE frames lack. -/
def modelRoom (s : State) : Option State :=
  if modelFrames ((s.stw.models.filter fun p => p.2.st != .absent).length + 1) > s.stw.mdlPairs then
    match s.takeSystem with
    | some t => some (t.onStw fun b => { b with mdlPairs := b.mdlPairs + 1 })
    | none => none
  else some s

/-- A model record is registered (R412). -/
def registerModel (s : State) (c : HostCmd) : State :=
  match s.hostBytes c.a1.toNat 64 with
  | none => s.refuse c stBound
  | some d =>
    let id := leAt d 0 4
    let m := id % 2 ^ 20
    let flags := leAt d 7 1
    let next := leAt d 16 4
    match s.extTable (leAt d 32 8) next with
    | none => s.refuse c stBound
    | some exts =>
      if id / 2 ^ 24 ≠ 0 ∨ leAt d 6 1 = 0 ∨ flags / 8 ≠ 0 ∨ flags / 2 = 3 ∨ leAt d 8 4 = 0 ∨ leAt d 8 4 > 1048575 ∨ leAt d 12 4 = 0
          ∨ leAt d 12 4 > 262144 ∨ next < 2 ∨ next > 4097 ∨ leAt d 20 4 ≥ 2 ^ 20 ∨ leAt d 49 15 ≠ 0 then s.refuse c stBound
      else if (s.model m).st ≠ .absent then s.modelRefuse c m
      else
        match s.modelRoom with
        | none => s.refuse c stFull
        | some t => (t.onModel m fun _ =>
            { st := .parked, version := leAt d 4 2, g := leAt d 6 1, logbf16 := flags % 2 == 1, dsrc := flags / 2, ctxmax := leAt d 8 4,
              vocab := leAt d 12 4, draft := leAt d 20 4, kvl := BitVec.ofNat 64 (leAt d 24 8), gloves := BitVec.ofNat 64 (leAt d 40 8),
              key := leAt d 48 1, exts := exts, swin := none, repl := none, fresh := false }).complete c stOK

/-- The bytes of all the extents of a table. -/
def extsLen (l : List MdlExt) : Nat := (l.map (·.len)).foldl (· + ·) 0

/-- MODEL_SWITCHIN (R415). -/
def switchIn (s : State) (c : HostCmd) : State :=
  let m := c.a1.field 0 20
  let x := s.model m
  let f := c.a5.field 0 16
  let n := c.a5.field 16 16
  let frames := (List.range n).map (f + ·)
  if x.st = .absent then s.refuse c stBound
  else if x.st ≠ .parked then s.modelRefuse c m
  else if (ctrName c.a3).2.1 ≥ 288 ∨ f + n > 65536 ∨ n * 2 ^ 25 < extsLen x.exts ∨ (frames.any fun k => (s.frame k).mode != .shared) then
    s.refuse c stBound
  else if frames.any fun k => (s.frame k).key != x.key then s.refuse c stOwner
  else
    let s1 := frames.foldl (fun t k => t.onFrame k fun e => { e with readers := c.a2 }) s
    let peers := (List.range 32).filter fun p => c.a4.getLsbD p && p != s.net.pos
    (s1.onModel m fun y =>
      { y with
        st := .loading, gloves := c.a2, fresh := true,
        swin := some { peers := peers, lostPeers := [], ext := 0, src := 0, units := 0, counter := c.a3.field 0 16, frame := f,
                       nframes := n, gloves := c.a2, cmd := c } }).swinFetch m

/-- The first ADMITTED, PREFILL or DECODE entry that names a model (R515). -/
def modelUser (s : State) (m : Nat) : Option Nat :=
  (s.stw.seqt.find? fun p => p.2.model == m && (p.2.st == .admitted || p.2.st == .prefill || p.2.st == .decode)).map (·.1)

/-- MODEL_PARK (R413). -/
def parkCmd (s : State) (c : HostCmd) : State :=
  let m := c.a1.field 0 20
  if (s.model m).st = .absent then s.refuse c stBound
  else if (s.model m).st ≠ .resident then s.modelRefuse c m
  else match s.modelUser m with
    | some i => s.refuseState c 2 (qcode (s.seqEnt i).st) (s.seqHandle i)
    | none => ((s.parkModel m).framesFreed).complete c stOK

/-- A replacement starts (R417 to R419). -/
def startRepl (s : State) (c : HostCmd) (m : Nat) (exts : List MdlExt) (inPlace : Bool) (frames : List Nat) : State :=
  let x := s.model m
  let base := frames.headD 0 * 2 ^ 25 + 2 ^ 52
  let placed := exts.zipIdx.map fun p =>
    { p.1 with nta := if inPlace then (x.exts.getD p.2 default).nta else base + extsLen (exts.take p.2) }
  let s1 := frames.foldl (fun t f => t.onFrame f fun e =>
    { e with mode := .shared, glove := (t.frame ((x.exts.getD 0 default).nta % 2 ^ 52 / 2 ^ 25)).glove, key := x.key, readers := x.gloves }) s
  let s2 := s1.onModel m fun y =>
    { y with
      st := .replacing,
      repl := some { inPlace := inPlace, tr := c.a2.toNat, exts := placed, progs := c.a4.toNat, idents := [], left := List.range exts.length,
                     copied := false, ready := 0, stamp := 0, closed := [], frames := if inPlace then [] else frames, cmd := some c } }
  if inPlace ∧ s.modelGloves m ≠ [] then
    (s.modelGloves m).foldl (fun t g => if (t.serve g).phase = 0 then t.cuffClose m g else t) s2
  else s2.replCopies m

/-- MODEL_REPLACE (R417). The new table has as many entries as the record names. -/
def replaceModel (s : State) (c : HostCmd) : State :=
  let m := c.a1.field 0 20
  let x := s.model m
  if x.st = .absent then s.refuse c stBound
  else if x.st ≠ .resident then s.modelRefuse c m
  else if c.a1.field 32 16 ≠ x.version then s.refuse c 0x44
  else match s.extTable c.a3.toNat x.exts.length with
    | none => s.refuse c stBound
    | some exts =>
      if exts.map (·.len) = x.exts.map (·.len) ∧ c.a1.bit 20 = false then s.startRepl c m exts true []
      else
        let n := ceilDiv (extsLen exts) (2 ^ 25)
        match s.freeRun n fun _ => true with
        | none => s.refuse c stFull
        | some f => s.startRepl c m exts false ((List.range n).map (f + ·))

/-- The adapter slot in conflict (R514, object 3). -/
def adapterConflict (s : State) (c : HostCmd) (a : Nat) : State := s.refuseState c 3 (s.adapter a).st a

/-- ADAPTER_LOAD (R414): the slot loads once its COPYUP has been accepted. -/
def loadAdapter (s : State) (c : HostCmd) : State :=
  let g := c.a1.field 32 6
  let slot := if c.a1.bit 46 then (List.range 4096).find? fun a => (s.adapter a).st == 0 else some (c.a1.field 0 12)
  if (s.model (c.a1.field 12 20)).st = .absent then s.refuse c stBound
  else match slot with
    | none => s.refuse c stFull
    | some a =>
      let x := s.adapter a
      if x.st = 1 ∨ (x.st = 2 ∧ x.refs > 0) then s.adapterConflict c a
      else
        let h := BitVec.ofNat 32 c.a2.toNat
        let len := match s.extOf h with | some e => (s.extent e).len | none => 64
        (s.onAdapter a fun x => { x with st := 1, was := x.st, cmd := some c }).submit
          { (default : MigReq) with
            op := 2, prio := 1, glove := g, key := (s.glove g).key, slot := c.a2.field 0 32, nta := c.a3.toNat, len := len, from_ := .host c 0x34 }

/-- ADAPTER_UNLOAD (R414). -/
def unloadAdapter (s : State) (c : HostCmd) : State :=
  let a := c.a1.field 0 12
  let x := s.adapter a
  if x.st ≠ 2 ∨ x.refs > 0 then s.adapterConflict c a
  else if c.func ≠ 0 ∧ s.vfGlove c.func ≠ some x.glove then s.refuse c stOwner
  else (s.onAdapter a fun y => { (default : AdpSt) with version := y.version }).complete c stOK

/-! Public prefixes (R404). -/

/-- The pages of the public frames that no public node holds: SHARED frames of PUBKEY that hold no model's weights. -/
def publicPages (s : State) : List Nat :=
  let used := (s.liveNodes.filter fun p => p.2.pub).flatMap (·.2.pages)
  let fs := (s.mem.tmap.filter fun p => p.2.mode == .shared && p.2.key == s.fld pfxCfg 0 8).map (·.1)
  ((fs.filter fun f => s.weightsIn f == []).flatMap framePages).filter fun a => !used.contains a

/-- The path from below the root to a node. -/
def nodePath (s : State) : Nat → Nat → List Nat
  | 0, _ => []
  | k + 1, n => if n = 0 ∨ s.isRoot n then [] else s.nodePath k (s.node n).parent ++ [n]

/-- The path's nodes made public one after another from public node `p` on: none when a page or node lacks. -/
def markPath (s : State) (p : Nat) : List Nat → Option State
  | [] => some s
  | n :: rest =>
    let x := s.node n
    match s.liveNodes.find? fun q => q.2.parent == p && q.2.pub && !s.isRoot q.1 && q.2.digest == x.digest && !q.2.stale with
    | some q => s.markPath q.1 rest
    | none =>
      let s1 := s.evictUntil 64 (fun t => t.freeNode.isSome && t.publicPages.length ≥ x.pages.length) s.stw.nodes.length
      match s1.freeNode with
      | none => none
      | some k =>
        let pages := s1.publicPages.take x.pages.length
        if pages.length < x.pages.length then none
        else
          let s2 := (x.pages.zip pages).foldl (fun t c => t.putNear c.2 (t.nearBytes c.1 (2 ^ 18))) s1
          (s2.onNode k fun _ =>
            { x with pub := true, key := s.fld pfxCfg 0 8, glove := 64, parent := p, pages := pages, refs := 0, last := s.tick.tick }).markPath k rest

/-- MARK_PUBLIC (R404). -/
def markPublic (s : State) (c : HostCmd) : State :=
  let n := c.a2.field 0 32
  let x := s.node n
  if x.live = false ∨ x.pub ∨ x.key ≠ c.a1.field 0 8 ∨ x.stale then s.refuse c stBound
  else
    let (s1, root) := s.rootOf 256
    if root = 0 then s.refuse c stFull
    else match s1.markPath root (s.nodePath s.stw.nodes.length n) with
      | none => s.refuse c stFull
      | some t => t.complete c stOK

/-- STEWARD_SWAP (R380): the standby serves once every running step has committed. -/
def planSwap (s : State) (c : HostCmd) : State :=
  if s.stw.standbyReady = false ∨ s.stw.swapCmd.isSome ∨ s.stw.swapLeft ≠ [] then s.refuseModule c
  else
    let left := (s.stw.serve.filter fun p => p.2.phase ≠ 0).map (·.1)
    let s1 := s.onStw fun b => { b with swapCmd := some c, swapLeft := left }
    if left ≠ [] then s1
    else s1.swapNow

end State

/-! The commands. -/

/-- ADMIT (R357, R358, R515). -/
def admitSeqOp (c : HostCmd) (s : State) : State :=
  s.command c
    { op := 0x040, pfOnly := false, masks := State.admitMasks,
      forVf := fun g key c => { c with a1 := (c.a1.setField 0 6 g).setField 6 8 key } }
    fun c s => s.admitTo c 0

/-- APPEND (R359, R360). -/
def appendOp (c : HostCmd) (s : State) : State :=
  s.command c (State.seqRow 0x042 [bits 0 40, bits 0 56, bits 0 40]) fun c s => s.seqCommand c s.inS fun i s => s.appendSeq c i

/-- CANCEL (R360). -/
def cancelOp (c : HostCmd) (s : State) : State :=
  s.command c (State.seqRow 0x043 [bits 0 40]) fun c s => s.seqCommand c s.inA fun i s => s.cancelCmd c i

/-- PAUSE (R360). -/
def pauseOp (c : HostCmd) (s : State) : State :=
  s.command c (State.seqRow 0x044 [bits 0 40]) fun c s => s.seqCommand c s.inA fun i s => s.pauseCmd c i

/-- RESUME (R360, R410). -/
def resumeOp (c : HostCmd) (s : State) : State :=
  s.command c (State.seqRow 0x045 [bits 0 40]) fun c s => s.seqCommand c s.inS fun i s => s.resumeCmd c i

/-- RELEASE (R360). -/
def releaseOp (c : HostCmd) (s : State) : State :=
  s.command c (State.seqRow 0x046 [bits 0 40]) fun c s => s.seqCommand c s.inA fun i s => s.releaseSeq c i

/-- MODEL_REGISTER (R412). -/
def modelRegisterOp (c : HostCmd) (s : State) : State :=
  s.command c { op := 0x030, set := State.inD, masks := [allBits] } fun c s => s.registerModel c

/-- MODEL_SWITCHIN (R415). -/
def modelSwitchinOp (c : HostCmd) (s : State) : State :=
  s.command c { op := 0x031, set := State.inS, masks := [bits 0 20, allBits, bits 0 16, bits 0 32, bits 0 32] } fun c s => s.switchIn c

/-- MODEL_PARK (R413). -/
def modelParkOp (c : HostCmd) (s : State) : State :=
  s.command c { op := 0x032, set := State.inD, masks := [bits 0 20] } fun c s => s.parkCmd c

/-- MODEL_REPLACE (R417 to R420). -/
def modelReplaceOp (c : HostCmd) (s : State) : State :=
  s.command c { op := 0x033, set := State.inS, masks := [bits 0 21 + bits 32 16, allBits, allBits, allBits] } fun c s => s.replaceModel c

/-- ADAPTER_LOAD (R414). -/
def adapterLoadOp (c : HostCmd) (s : State) : State :=
  s.command c
    { op := 0x034, pfOnly := false, set := State.inS, masks := [bits 0 47, bits 0 32, allBits], glove := some fun c => c.a1.field 32 6,
      forVf := fun g _ c => { c with a1 := c.a1.setField 32 6 g } }
    fun c s => s.loadAdapter c

/-- ADAPTER_UNLOAD (R414). -/
def adapterUnloadOp (c : HostCmd) (s : State) : State :=
  s.command c { op := 0x035, pfOnly := false, set := State.inD, masks := [bits 0 12] } fun c s => s.unloadAdapter c

/-- MARK_PUBLIC (R404). -/
def markPublicOp (c : HostCmd) (s : State) : State :=
  s.command c { op := 0x036, set := State.inS, masks := [bits 0 8, bits 0 32] } fun c s => s.markPublic c

/-- STEWARD_SWAP (R380). -/
def stewardSwapOp (c : HostCmd) (s : State) : State :=
  s.command c { op := 0x006, set := State.inD } fun c s => s.planSwap c

end Sys2Proof.Machine
end

