-- ==== Sys2Proof/Machine/Ledger.lean ====
section
/-! DEFINITION. The energy ledger, the dispatcher, clock steps and heat (R435 to R445, R483). -/

namespace Sys2Proof.Machine

open Adr

/-- φ of a clock step, in hundredths (R435). -/
def phi (t : Nat) : Nat := [100, 80, 63, 48, 35, 24, 15, 7].getD t 0

/-- PB at a junction temperature, in hundredths of a W (R437): a load is a whole number of them. -/
def heatBudget (temp tsoft : Nat) : Nat :=
  if temp ≤ tsoft then 38000 else if temp < 105 then 38000 * (105 - temp) / (105 - tsoft) else 0

/-- Repetitions of a continuing pattern in one tick at step `t` (R441): 10 ns cycles of REFCLK, and an array clock of
218.75 MHz × (8 - t). -/
def contReps (n cyc t : Nat) : Nat := ceilDiv (n * 35 * (8 - t)) (16 * cyc)

/-- The raw estimate of a pattern at step `t`, in nJ (R441). -/
def rawEst (i : ImgInfo) (n t : Nat) : Nat :=
  i.eSwitch + (if i.reps = 0 then contReps n i.cycRep t else i.reps) * i.eRep.getD t 0

/-- A raw estimate calibrated, in whole µJ rounded up (R441). -/
def calibrated (raw cf : Nat) : Nat := ceilDiv (raw * cf) 4096000

/-- The dies in a mask. -/
def maskDies (m : Nat) : List Nat := (List.range 8).filter fun k => m / 2 ^ k % 2 == 1

namespace State

/-! Dies. -/

def die (s : State) (k : Nat) : DieSt := s.dies.at k

/-- The clock step of a die, or the one that it is changing to. -/
def dieStep (s : State) (k : Nat) : Nat := ((s.die k).stepping).getD (((s.die k).raising).getD (s.die k).step)

/-- The dies of a glove's running pattern. -/
def patDies (s : State) (g : Nat) : List Nat := maskDies (s.img g (s.pat g).slot).dies

/-- Whether a pattern of the glove is active and not done. -/
def patRuns (s : State) (g : Nat) : Bool := (s.pat g).valid && !(s.pat g).done

/-- The gloves whose patterns are active and not done on a die. -/
def runningOn (s : State) (k : Nat) : List Nat := ((s.seq.pats.map (·.1)).filter fun g => s.patRuns g && (s.patDies g).contains k)

/-- The load of a die, in hundredths of a W (R437). -/
def load (s : State) (k : Nat) : Nat :=
  ((s.runningOn k).map fun g => (s.img g (s.pat g).slot).pPeak.getD k 0).foldl (· + ·) 0 * phi (s.dieStep k)

/-- Whether the array clock of a die stands (R436, R438, R447, R591). -/
def dieStopped (s : State) (k : Nat) : Bool :=
  (s.die k).held || (s.die k).stepping.isSome || (s.die k).fullFence || s.rung.rung ≥ 1
  || ((s.runningOn k).any fun g => (s.patDies g).any fun j => (s.die j).held)

/-- W1C writes that a stopped die held are applied once its clock runs (R588). -/
def applyHeld (s : State) (k : Nat) : State :=
  if s.dieStopped k then s
  else ((s.die k).heldW1c.foldl (fun t p => t.setReg p.1 (t.reg p.1 &&& ~~~p.2)) s).onDie k fun d => { d with heldW1c := [] }

/-- Every die's held writes are tried. -/
def applyAllHeld (s : State) : State := (List.range 8).foldl (fun t k => t.applyHeld k) s

/-- The VCORE set-point of a clock step, in mV (R612). -/
def vcoreOf (t : Nat) : Nat := [800, 765, 735, 700, 670, 640, 620, 600].getD t 670

/-- The AOS commands a die's VCORE regulator over AVSBus (R612). -/
def commandVcore (s : State) (k t : Nat) : State :=
  ((s.onDie k fun d => { d with vcore := vcoreOf t }).onAos fun a =>
    { a with avsUp := if a.avsUp.contains k then a.avsUp else a.avsUp ++ [k] }).emit (.avs k (vcoreOf t))

/-- The dies take clock step `t` (R436, R613): a lowering stops the clock at once; for a raise the new voltage is commanded first, and
the clock stops once the regulator reports it. -/
def setStep (s : State) (ks : List Nat) (t : Nat) : State :=
  (ks.filter fun k => s.dieStep k ≠ t).foldl (fun u k =>
    if t < (u.die k).step then (u.onDie k fun d => { d with raising := some t, stepping := none, want := none }).commandVcore k t
    else u.onDie k fun d => { d with stepping := some t, stepEnd := u.tick.rcs + 64, raising := none, want := none }) s

/-- Whether a running pattern of a glove other than `g` spans dies, die `k` among them. -/
def spanned (s : State) (g k : Nat) : Bool := (s.runningOn k).any fun x => x != g && (s.patDies x).length > 1

/-- Dies are lowered to step `t`: at once, or, where a die carries a running pattern that spans dies, with all that pattern's dies
at its done or next switch (R89, R436). -/
def lowerTo (s : State) (ks : List Nat) (t : Nat) : State :=
  (ks.filter fun k => s.dieStep k ≠ t).foldl (fun u k =>
    if u.spanned 64 k then u.onDie k fun d => { d with want := some t } else u.setStep [k] t) s

/-- Lowerings that waited for the done or the next switch of glove `g`'s pattern are applied to all its dies together, and those of
other dies that no spanning pattern is left on; a die that another spanning pattern holds keeps its dies waiting (R89, R436). -/
def takeLowerings (s : State) (g : Nat) : State :=
  let ks := s.patDies g
  let s1 := match (ks.filterMap fun k => (s.die k).want) with
    | [] => s
    | w => if ks.any fun k => s.spanned g k then s else s.setStep ks (max (w.foldl max 0) ((ks.map s.dieStep).foldl max 0))
  ((List.range 8).filter fun k => !ks.contains k && !s.spanned g k).foldl (fun u k =>
    match (u.die k).want with | some t => u.setStep [k] t | none => u) s1

/-- Whether the dies stand at one clock step with no change under way (R89). -/
def stepsEqual (s : State) (ks : List Nat) : Bool :=
  ks.all fun k => (s.die k).step == (s.die (ks.headD 0)).step && (s.die k).raising.isNone && (s.die k).stepping.isNone

/-! Charges and calibration. -/

def cf (s : State) (g slot : Nat) : Nat := (s.glove g).cf.getD slot 0x1000

/-- A raw estimate in nJ charged on the dies of an image is shared in proportion to P_PEAK (R442). -/
def addEst (s : State) (i : ImgInfo) (raw : Nat) : State :=
  let sum := (i.pPeak.take 8).foldl (· + ·) 0
  s.onLedger fun l => { l with est := (List.range 8).map fun k => l.est.getD k 0 + (if sum = 0 then 0 else raw * i.pPeak.getD k 0 / sum) }

/-- The readings of TKE_MTR0 to TKE_MTR7. -/
def meters (s : State) : List Nat := (List.range 8).map fun k => (s.reg (tkeMtr k)).toNat

/-- The VCORE meters advance by what they recorded since they were last read. -/
def readVcore (s : State) (v : List Nat) : State := (List.range 8).foldl (fun t k => t.count (tkeMtr k) (v.getD k 0)) s

/-- The updated factor of R442, with 12 fraction bits, rounded down; a window with nothing charged keeps it. -/
def newCf (s : State) (g : Nat) : Nat :=
  let p := s.pat g
  let i := s.img g p.slot
  let old := s.cf g p.slot
  let sum := (i.pPeak.take 8).foldl (· + ·) 0
  let rc := s.tick.rcs - p.startRc
  -- ρ in units of 2^-20: M[k] in nJ times the share of P_PEAK, over the estimates on the die
  let rho : Int := ((maskDies i.dies).map fun k =>
    let m : Int := (1000 * ((s.meters.getD k 0 : Int) - p.meter0.getD k 0)) - 10 * (s.die k).idleW * rc
    let xhat := s.ledger.est.getD k 0 - p.est0.getD k 0
    if xhat = 0 ∨ sum = 0 then 0 else m * i.pPeak.getD k 0 * 2 ^ 20 / ((sum * xhat : Nat) : Int)).foldl (· + ·) 0
  let cf := ((old : Int) * 2 ^ 8 + (rho - (old : Int) * 2 ^ 8) / 4) / 2 ^ 8
  if p.charged = 0 then old else (min 16384 (max 2048 cf)).toNat

/-- The calibration factor of the running pattern's slot is updated (R442). -/
def updateCf (s : State) (g : Nat) : State :=
  let n := s.newCf g
  s.onGlv g fun v => { v with cf := setPad v.cf (s.pat g).slot n 0x1000 }

/-- A window of R442 begins: what has been charged on the dies, the meters and the time, before its own charge of `raw`. -/
def startWindow (s : State) (g raw : Nat) : State :=
  s.onPat g fun p => { p with charged := raw, est0 := s.ledger.est, meter0 := s.meters, startRc := s.tick.rcs }

/-! The dispatcher (R443). -/

/-- The image of the slot that a sequencer asks to switch to. -/
def reqImg (s : State) (q : Nat) : ImgInfo :=
  match (s.gsq q).sw with | some r => s.img (s.gsqGlove q) r.slot | none => default

/-- The charge of a request at step `t`, in µJ (R441). -/
def estAt (s : State) (q t : Nat) : Nat :=
  match (s.gsq q).sw with
  | some r => calibrated (rawEst (s.reqImg q) s.tick.n t) (s.cf (s.gsqGlove q) r.slot)
  | none => 0

/-- fits(q, t) of R443. -/
def fits (s : State) (q t : Nat) : Bool :=
  let i := s.reqImg q
  i.eRep.getD t 0 != 0 && t ≥ s.fastest && ((s.estAt q t : Int) ≤ (s.glove (s.gsqGlove q)).bal)
    && (maskDies i.dies).all fun k => s.load k + i.pPeak.getD k 0 * phi t ≤ (s.die k).pb

/-- A request is admitted at step `t` and charged (R215, R441). -/
def admitSwitch (s : State) (q t : Nat) : State :=
  let raw := rawEst (s.reqImg q) s.tick.n t
  let uj := s.estAt q t
  (s.charge (s.gsqGlove q) uj).onGsq q fun x => { x with sw := x.sw.map fun r => { r with admitted := true, raw := raw } }

/-- The sequencers whose requests wait, oldest first. -/
def requests (s : State) : List Nat :=
  ((((s.seq.gsq.filter fun p => match p.2.sw with | some r => !r.admitted | none => false).map fun p =>
    (p.1, match p.2.sw with | some r => r.order | none => 0))).sortBy fun a b => a.2 ≤ b.2).map (·.1)

/-- One request judged (R436, R443): on idle dies the fastest step that fits; else the present step, or a slower one
where no pattern of another glove is active on its dies. `older` are the dies of older requests that still wait. -/
def judgeReq (s : State) (q : Nat) (older : List Nat) : State :=
  let ks := maskDies (s.reqImg q).dies
  let g := s.gsqGlove q
  let step := (ks.map s.dieStep).foldl max 0
  let others := ks.any fun k => (s.runningOn k).any fun x => x != g
  let idle := ks.all fun k => s.runningOn k == []
  let go := fun (t : Nat) => (if idle then s.setStep ks t else s.lowerTo ks t).admitSwitch q t
  if idle ∧ (ks.all fun k => !older.contains k) then
    match (List.range 8).find? fun t => s.fits q t with
    | some t => go t
    | none => s
  else if s.fits q step then go step
  else if others then s
  else match (List.range 8).find? fun t => t > step && s.fits q t with
    | some t => go t
    | none => s

/-- A request that stays pending is held: counted once, for the ledger and for its sequencer (R216, R233, R443, R444). -/
def holdReq (s : State) (q : Nat) : State :=
  match (s.gsq q).sw with
  | none => s
  | some r =>
    if r.admitted ∨ r.deferred then s
    else (((s.raise tkeLevt 0).raise (gsqEvt q) 2).onGsq q fun x => { x with sw := some { r with deferred := true } }).onGlv (s.gsqGlove q)
      fun v => { v with heldSwitch := true }

/-- Whether switches are being admitted (R449). -/
def admits (s : State) : Bool := s.rung.rung == 0 && s.rung.entering.isNone

/-- The dispatcher runs over every waiting request (R443). -/
def dispatch (s : State) : State :=
  let qs := s.requests
  let t := if s.admits = false then s
    else (qs.foldl (fun (acc : State × List Nat) q =>
      let u := acc.1.judgeReq q acc.2
      let still := match (u.gsq q).sw with | some r => !r.admitted | none => false
      (u, if still then acc.2 ++ maskDies (u.reqImg q).dies else acc.2)) (s, [])).1
  qs.foldl (fun u q => u.holdReq q) t

/-- The estimates of the requests that wait, in µJ (R483). -/
def heldDemand (s : State) : Nat :=
  (s.requests.map fun q => s.estAt q (((maskDies (s.reqImg q).dies).map s.dieStep).foldl max 0)).foldl (· + ·) 0

/-! The ledger period (R439, R440). -/

/-- The grant for this period in mJ: TKE_ALLOW, the grant that has arrived, the last grant, or TKE_FALLBACK (R439). -/
def takeGrant (s : State) : State :=
  let t := s.ledgerTick
  let use := fun (s : State) (mj : Nat) => s.onLedger fun l => { l with inForce := mj }
  if s.fld tkeLcfg 20 1 = 1 then use s (s.fld tkeAllow 0 32)
  else match s.ledger.grants.find? fun g => g.1 == t with
    | some g => (use s g.2).onLedger fun l => { l with last := some (t, g.2), grants := l.grants.filter fun x => x.1 > t }
    | none =>
      let s1 := s.raise tkeLevt 5
      match s.ledger.last with
      | some l => if t - l.1 ≤ s.fld tkeLcfg 21 16 then use s1 l.2 else use s1 (s.fld tkeFallback 0 32)
      | none => use s1 (s.fld tkeFallback 0 32)

/-- The gloves that are not FREE. -/
def liveGloves (s : State) : List Nat := (s.glv.filter fun p => p.2.live).map (·.1)

/-- The pool is divided: each glove's grant, and its balance within CARRY (R440). In µJ. -/
def shareOut (s : State) (p : Nat) : State :=
  let gs := s.liveGloves
  let floor := fun (g : Nat) => 1000 * s.fld (glvEcfg g) 0 24
  let weight := fun (g : Nat) => s.fld (glvEcfg g) 24 8
  let f := (gs.map floor).foldl (· + ·) 0
  let w := (gs.map weight).foldl (· + ·) 0
  gs.foldl (fun t g =>
    let gr := if f ≥ p then (if f = 0 then 0 else p * floor g / f) else floor g + (if w = 0 then 0 else (p - f) * weight g / w)
    t.onGlv g fun v => { v with grant := gr, bal := min (v.bal + gr) ((s.fld (glvEcfg g) 32 4 * gr : Nat) : Int) }) s

/-- The continuing patterns with REPS = 0 (R441). -/
def continuing (s : State) : List Nat := (s.seq.pats.map (·.1)).filter fun g => s.patRuns g && (s.img g (s.pat g).slot).reps == 0

/-- The continuing patterns are recalibrated, and then charged for the period (R440 to R442). -/
def chargeContinuing (s : State) : State :=
  let gs := s.continuing
  let s1 := gs.foldl (fun t g => t.updateCf g) s
  let raw := fun (t : State) (g : Nat) =>
    let i := t.img g (t.pat g).slot
    let k := ((maskDies i.dies).map t.dieStep).foldl max 0
    contReps t.tick.n i.cycRep k * i.eRep.getD k 0
  let s2 := gs.foldl (fun t g => t.startWindow g (raw t g)) s1
  gs.foldl (fun t g => (t.charge g (calibrated (raw t g) (t.cf g (t.pat g).slot))).addEst (t.img g (t.pat g).slot) (raw t g)) s2

/-- The ledger period's own part (R439 to R442, R445): A and B in µJ, the pool, the charges, and S1 by itself. -/
def ledgerActs (s : State) (m : Meters) : State :=
  let s1 := ((((s.count tkeMtrHbm m.hbm).count tkeMtrIod m.iod).count tkeMtrOth m.oth).readVcore m.vcore).takeGrant
  let n := s1.tick.n
  let a := min (1000 * s1.ledger.inForce) (s1.prof 0 0 13 * n / 100)
  let b := m.hbm + m.iod + m.oth + ((List.range 8).map fun k => (s1.die k).idleW * n / 100).foldl (· + ·) 0
  let s2 := (s1.onLedger fun l => { l with a := a / 1000, b := b / 1000, lastTick := some s.ledgerTick }).shareOut (a - b)
  let s3 := s2.chargeContinuing
  if a < b then
    (if s3.rung.rung = 0 ∧ s3.rung.entering.isNone then (s3.onRung fun r => { r with rung := 1, auto := true }).raise tkeLevt 4 else s3)
  else if s3.rung.rung = 1 ∧ s3.rung.auto then ((s3.onRung fun r => { r with rung := 0, auto := false, lastWake := 5 }).applyAllHeld)
  else s3

/-- The demand that a module sends for the next tick, in mJ rounded up: B and the estimates of its held requests; and its
envelope in one tick (R483). -/
def sendDemand (s : State) (b : Nat) : State :=
  let mj := ceilDiv (b + s.heldDemand) 1000
  let env := s.prof 0 0 13 * s.tick.n / 100000
  let s1 := s.emit (.demand s.ledgerTick mj env)
  if s.net.role = 1 then s1.onWorker s.net.pos fun w => { w with demand := some mj, envJ := env } else s1

/-! Heat (R437, R438). -/

/-- A die is lowered by one step, at once or at the done or next switch of the patterns that span dies on it. -/
def lowerDie (s : State) (k : Nat) : State :=
  let t := min 7 (max (s.dieStep k) (((s.die k).want).getD 0) + 1)
  let s1 := s.raise tkeLevt 2
  if s.spanned 64 k then s1.onDie k fun d => { d with want := some t } else s1.setStep [k] t

/-- One die's temperature sample. -/
def sampleDie (s : State) (k temp : Nat) : State :=
  let s0 := s.onDie k fun d => { d with temp := temp, pb := heatBudget temp (s.fld tkeLcfg 37 7) }
  let s1 := if temp > s.fld tkeLcfg 37 7 then s0.alert 0 else s0
  let judged := (s.die k).bring ≠ 0 ∧ (s.die k).fullFence = false
  let s2 := if judged ∧ temp ≥ 105 ∧ (s.die k).held = false then ((s1.onDie k fun d => { d with held := true }).raise tkeLevt 3).alert 1
    else if temp ≤ 103 ∧ (s.die k).held then s1.onDie k fun d => { d with held := false }
    else s1
  if s2.load k > (s2.die k).pb then
    if (s2.die k).overload ≥ 1 ∧ s2.dieStep k < 7 then
      let s3 := s2.lowerDie k
      s3.onDie k fun d => { d with overload := if s3.load k > d.pb then 1 else 0 }
    else s2.onDie k fun d => { d with overload := d.overload + 1 }
  else s2.onDie k fun d => { d with overload := 0 }

/-- Nodes at or above the pool's size that can be evicted go first, and the frames above that size are given back when no node
is left there (R569). -/
def trimPool (s : State) : State :=
  let beyond := fun (t : State) => t.liveNodes.filter fun p => p.1 > t.stw.pool
  let s1 := (beyond s).foldl (fun t _ =>
    match (beyond t).find? fun p => p.2.refs == 0 && !t.isRoot p.1 && !(t.liveNodes.any fun q => q.2.parent == p.1 && q.1 != p.1) with
    | some p => (t.removeNode p.1).count pfxCntEvict
    | none => t) s
  let need := poolNeed s1.stw.pool
  if s1.stw.poolPairs ≤ need ∨ beyond s1 ≠ [] then s1
  else (s1.givePairs (s1.stw.poolPairs - need)).onStw fun b => { b with poolPairs := need }

end State

/-! The commands. -/

/-- LEDGER_PERIOD (R439 to R445, R483): at (t, LOFS), once in each tick, when it is its turn (R43). The demand is for the tick after. -/
def ledgerPeriodOp (m : Meters) (s : State) : State :=
  if s.turn .ledger = false then s
  else
    let s1 := (s.ledgerActs m).dispatch
    (s1.sendDemand (m.hbm + m.iod + m.oth + ((List.range 8).map fun k => (s1.die k).idleW * s1.tick.n / 100).foldl (· + ·) 0)).trimPool.buildAll

/-- Whether an epoch is the highest seen (R484, R488): a lower one is counted in MGR_CNT_AREFUSE, a higher one is kept. -/
def State.seeEpoch (s : State) (e : Word) : State × Bool :=
  let mine := s.reg mgrEpoch
  if e.toNat < mine.toNat then (s.raise mgrEvt 2, false) else (s.setReg mgrEpoch e, true)

/-- GRANT_RECEIVED (R439, R484). -/
def grantReceivedOp (tick : Word) (mj : Nat) (epoch : Word) (s : State) : State :=
  let (s1, ok) := s.seeEpoch epoch
  if ok = false ∨ s1.fld tkeLcfg 20 1 = 1 then s1
  else
    let t := tick.toNat
    let late := t < s.tick.tick ∨ (t = s.tick.tick ∧ s.ledger.lastTick = some t)
    if late then
      s1.onLedger fun l => { l with last := match l.last with | some x => if x.1 ≥ t then l.last else some (t, mj) | none => some (t, mj) }
    else s1.onLedger fun l => { l with grants := (l.grants.filter fun g => g.1 ≠ t) ++ [(t, mj)] }

/-- CLOCK_STEP_CHANGE (R436, R612, R613): a raise whose regulator reads back its new set-point, `mv` on AVSk_SDATA, takes its clock
stop; a clock that has stood for 64 rc runs again, at its new step, and after a lowering the voltage follows. -/
def clockStepChangeOp (die step mv : Nat) (s : State) : State :=
  let d := s.die die
  if d.raising = some step then
    (if mv = State.vcoreOf step then s.onDie die fun d => { d with raising := none, stepping := some step, stepEnd := s.tick.rcs + 64 } else s)
  else if d.stepping = some step ∧ d.stepEnd ≤ s.tick.rcs then
    let s1 := s.onDie die fun d => { d with step := step, stepping := none }
    (if step > d.step then s1.commandVcore die step else s1).applyHeld die
  else s

/-- The temperature that a sample finds of stack `n` (R295, R320). -/
def State.sampleStack (s : State) (n temp : Nat) : State :=
  if n < s.variant.hbmStacks ∧ temp ≠ 0 then s.onStack n fun x => { x with temp := temp, refresh2x := temp > 85 } else s

/-- The temperature that a sample finds of the DIMM of channel `c` (R324). -/
def State.sampleDimm (s : State) (c temp : Nat) : State :=
  if c < s.variant.channels ∧ temp ≠ 0 then s.onDdr c fun x => { x with temp := temp } else s

/-- THERMAL_SAMPLE (R295, R437, R438, R521): the temperatures in °C of CD0 to CD7, then of HS0 to HS31, then of the DIMMs of DC0 on;
a 0 past the dies, or a missing entry, gives no reading. -/
def thermalSampleOp (temps : List Nat) (s : State) : State :=
  let s1 := (temps.take 8).zipIdx.foldl (fun t p => t.sampleDie p.2 p.1) s
  let s2 := ((temps.drop 8).take 32).zipIdx.foldl (fun t p => t.sampleStack p.2 p.1) s1
  ((temps.drop 40).zipIdx.foldl (fun t p => t.sampleDimm p.2 p.1) s2).applyAllHeld

end Sys2Proof.Machine
end

