-- ==== Sys2Proof/Machine/CellControl.lean ====
section
/-! DEFINITION. The control slot of a C-cell (R133 to R135). Each operation is that of the bundle that issues at the cell in the present pattern cycle. -/

namespace Sys2Proof.Machine

/-- CT NOP (R135). -/
def ctNopOp (_p : Site) (s : State) : State := s

/-- EPX: EP := NOT EP, visible from t + 1 (R135). -/
def epxOp (p : Site) (s : State) : State :=
  s.dueWrite p.key (s.siteCycle p) 0 (.ep (!(s.cell p.key).ep))

/-- EPS: EP := X[0] (R135). -/
def epsOp (p : Site) (x : BitVec 6) (s : State) : State :=
  s.dueWrite p.key (s.siteCycle p) 0 (.ep (x.getLsbD 0))

/-- FSET: F[X[1:0]] := X[2] (R135). -/
def fsetOp (p : Site) (x : BitVec 6) (s : State) : State :=
  s.dueWrite p.key (s.siteCycle p) 0 (.flag (x.toNat % 4) (x.getLsbD 2))

/-- FANY: F[X[1:0]] := 1 when any bit of M[X[4:2]] is 1 (R135). -/
def fanyOp (p : Site) (x : BitVec 6) (s : State) : State :=
  if s.mask p.key (x.toNat / 4 % 8) ≠ 0 then s.dueWrite p.key (s.siteCycle p) 0 (.flag (x.toNat % 4) true) else s

/-- FALL: F[X[1:0]] := 1 when every bit of M[X[4:2]] is 1 (R135). -/
def fallOp (p : Site) (x : BitVec 6) (s : State) : State :=
  if s.mask p.key (x.toNat / 4 % 8) = BitVec.allOnes 64
  then s.dueWrite p.key (s.siteCycle p) 0 (.flag (x.toNat % 4) true) else s

/-- TRAP: cell exception USER_TRAP with code X (R135, R153). -/
def trapOp (p : Site) (x : BitVec 6) (s : State) : State := s.cellFault p.key 6 0 x.toNat

end Sys2Proof.Machine
end

