-- ==== Sys2Proof/Machine/CellMove.lean ====
section
/-! DEFINITION. The move slot of a C-cell: takes, sends, tokens and operand-buffer reads (R136 to R141). -/

namespace Sys2Proof.Machine

/-- Where the `n` lines of a fill go. -/
def fillLines (s : State) (k areg d nl : Nat) : List (Nat × Nat) := (List.range nl).map fun j => s.aline k areg d j

/-- The lanes of a VLD once a word at `pos` is gathered, and their mask (R139). -/
def TakeSt.gather (t : TakeSt) (pos : Nat) (val : BitVec 2048) (m : BitVec 64) (w : Line × Line) : BitVec 2048 × BitVec 64 :=
  let lanes := if t.port = 5 then lineLanes w.1 else lineLanes w.1 ++ lineLanes w.2
  let v := mapLanes fun j => if pos ≤ j ∧ j < pos + lanes.length then lanes.getD (j - pos) 0 else 0
  (val ||| v, m ||| BitVec.ofNat 64 ((2 ^ lanes.length - 1) * 2 ^ pos))

/-- The word at the head of a queue goes where the take says: a line of an operand buffer, written in the cycle
after it is taken, or a vector register, written in the cycle after the last of its words (R136, R139, R141, R152). -/
def State.takeWord (s : State) (k c : Nat) (t : TakeSt) (w : Line × Line) : State :=
  let put := fun (s : State) (x : CellWrite) =>
    s.onCell k fun cl => { cl with due := cl.due ++ [⟨c + 1, x, t.iss, 1⟩] }
  match t.to_ with
  | .discard => s
  | .fil [] => s
  | .fil [b] => put s (.line b.1 b.2 w.1)
  | .fil (b :: b2 :: _) =>
    if t.port = 5 then put s (.line b.1 b.2 w.1)
    else put (put s (.line b.1 b.2 w.1)) (.line b2.1 b2.2 w.2)
  | .vld r pos val m =>
    let (v, l) := t.gather pos val m w
    if t.left > 1 then s else put s (.vreg r v l)

/-- What is left of a take after one word. -/
def TakeSt.rest (t : TakeSt) (w : Line × Line) : TakeSt :=
  { t with left := t.left - 1,
           to_ := match t.to_ with
             | .fil l => .fil (l.drop (if t.port = 5 then 1 else 2))
             | .vld r pos val m => let x := t.gather pos val m w; .vld r (pos + if t.port = 5 then 16 else 32) x.1 x.2
             | .discard => .discard }

/-- One take from the input queue of `port` in cycle `c`: an empty queue is QUEUE_UNDERFLOW, a second take of the cycle
TAKE_CONFLICT (R81, R136, R153). -/
def State.takeOne (s : State) (k c : Nat) (t : TakeSt) : State :=
  if (s.cell k).taken.contains t.port then s.cellFault k 5 1 0
  else match s.inQueue k t.port with
    | [] => s.siteFault k 3 (if t.port = 5 then 5 else 6) (some .c)
    | w :: q =>
      let s1 := s.onCell k fun cl =>
        { cl with inQ := setPad cl.inQ t.port q [], taken := t.port :: cl.taken,
                  takes := if t.left > 1 then cl.takes ++ [t.rest w] else cl.takes }
      s1.takeWord k c t w

/-- A take of `n` words that begins in the present cycle (R136). -/
def State.take (s : State) (p : Site) (port n : Nat) (to_ : TakeTo) : State :=
  s.takeOne p.key (s.siteCycle p) ⟨port, n, to_, (s.cell p.key).iss⟩

/-- MV NOP (R139). -/
def mvNopOp (_p : Site) (s : State) : State := s

/-- FIL: ⌈NL / w⌉ words from PORT into NL lines at A[AREG] + D (R139). -/
def filOp (p : Site) (port areg d nl : Nat) (s : State) : State :=
  s.take p port (if port = 5 then nl else ceilDiv nl 2) (.fil (fillLines s p.key areg d nl))

/-- VLD: a vector register, or one quarter or half of it, from PORT (R139). -/
def vldOp (p : Site) (port vd : Nat) (single : Bool) (q : Nat) (s : State) : State :=
  let r := s.vphys p.key vd
  if single then s.take p port 1 (.vld r (if port = 5 then 16 * (q % 4) else 32 * (q % 2)) 0 0)
  else s.take p port (if port = 5 then 4 else 2) (.vld r 0 0 0)

/-- VST: the vector register, or one quarter or half, placed in the send queue of PORT in the next cycle, with
EP as the words' epoch (R137, R138, R139). -/
def vstOp (p : Site) (port vs : Nat) (single : Bool) (q : Nat) (s : State) : State :=
  let v := s.vreg p.key vs
  let line := fun i => v.extractLsb' (512 * i) 512
  let all : List (Line × Line) :=
    if port = 5 then (List.range 4).map fun i => (line i, 0) else (List.range 2).map fun i => (line (2 * i), line (2 * i + 1))
  let words := if single then (all.drop (if port = 5 then q % 4 else q % 2)).take 1 else all
  s.onCell p.key fun c => { c with placing := [(port, words.map fun w => (w.1, w.2, c.ep))] }

/-- TOK: a token with value CVAL and epoch EP leaves on the local control lane in cycle t + 1 (R138, R139). -/
def tokOp (p : Site) (cval : Byte) (s : State) : State :=
  s.onCell p.key fun c => { c with token := some (cval, c.ep) }

/-- The read streams that operand buffer `buf` serves in cycle `c`: those of MMAs and of this cycle's OBV and MRS (R141). -/
def CellSt.streamsOn (cl : CellSt) (c buf : Nat) : Nat :=
  (cl.streams.filter fun x => x.1 = c ∧ x.2 = buf).length
  + (cl.mma.map fun m =>
      if m.t0 + 1 ≤ c ∧ c ≤ m.t0 + m.t then
        (if (m.aLines.head?.map (·.1)) = some buf then 1 else 0) + (if (m.bLines.head?.map (·.1)) = some buf then 1 else 0)
      else 0).foldl (· + ·) 0

/-- One read stream on `buf` for the present cycle: a third is OB_PORT (R141, R153). -/
def State.stream (s : State) (p : Site) (buf slot : Nat) : State :=
  let c := s.siteCycle p
  let s1 := s.onCell p.key fun cl => { cl with streams := (c, buf) :: cl.streams }
  if (s1.cell p.key).streamsOn c buf > 2 then s1.cellFault p.key 4 slot 0 else s1

/-- OBV: four lines from A[AREG] + D into VD, readable from t + 2 (R139, R152). -/
def obvOp (p : Site) (areg d vd : Nat) (s : State) : State :=
  let ls := fillLines s p.key areg d 4
  let v := ofLanes (ls.flatMap fun b => lineLanes (s.obLine p.key b))
  let s1 := s.dueWrite p.key (s.siteCycle p + 1) 1 (.vreg (s.vphys p.key vd) v (BitVec.allOnes 64))
  s1.stream p (ls.headD (0, 0)).1 1

/-- DSC: one word from PORT, discarded (R139). -/
def dscOp (p : Site) (port : Nat) (s : State) : State := s.take p port 1 .discard

end Sys2Proof.Machine
end

