-- ==== Sys2Proof/Machine/CellMatrix.lean ====
section
/-! DEFINITION. The matrix slot of a C-cell (R147 to R151, R173). -/

namespace Sys2Proof.Machine

/-- Whether the array is occupied in cycle `t` (R149). -/
def CellSt.mxBusy (c : CellSt) (t : Nat) : Bool := c.mma.any fun m => t < m.t0 + m.t

/-- Whether bank `b` is named from t + 1 to t + T + 5 of an MMA into it (R153). -/
def CellSt.accBusy (c : CellSt) (b t : Nat) : Bool := c.mma.any fun m => m.bank = b ∧ m.t0 < t ∧ t ≤ m.t0 + m.t + 5

/-- Whether bank `b` has an MWR or MZ not yet done (R153). -/
def CellSt.accPending (c : CellSt) (b : Nat) : Bool :=
  c.due.any fun d => match d.w with
    | .accZero x => x = b
    | .accCol x _ _ => x = b
    | _ => false

/-- MNOP (R151). -/
def mnopOp (_p : Site) (s : State) : State := s

/-- MMA: operand A in format FA at A[AA] + DA, operand B in format FB at A[AB] + DB, into BANK (R149, R151, R153). -/
def mmaOp (p : Site) (bank z fa fb aa da ab db : Nat) (s : State) : State :=
  let t := s.siteCycle p
  let c := s.cell p.key
  if c.mxBusy t then s.cellFault p.key 1 3 0
  else if c.accPending bank then s.cellFault p.key 2 3 0
  else
    let (pa, sa) := panelLines fa false
    let (pb, sb) := panelLines fb true
    let m : MmaSt := { t0 := t, t := mmaT fa fb, bank := bank, zero := z = 1 || (z = 2 && c.iss.i == 0), fa := fa, fb := fb,
                       aLines := fillLines s p.key aa da (pa + sa), bLines := fillLines s p.key ab db (pb + sb),
                       aScale := [], bScale := [], aRead := [], bRead := [],
                       aLatch := (List.range 64).map fun r => s.latchAt p.key r,
                       bLatch := (List.range 96).map fun r => s.latchAt p.key (64 + r), iss := c.iss }
    s.onCell p.key fun c => { c with mma := c.mma ++ [m] }

/-- The column that MRD and MWR name (R151). -/
def accColumn (c : CellSt) (col : Nat) (ci : Bool) : Nat := if ci then (col + c.iss.i) % 96 else col

/-- MRD: lane r of VD := AB[r][col], readable from t + 3; ZR zeroes the column after the read (R151, R153). -/
def mrdOp (p : Site) (bank col : Nat) (ci : Bool) (vd : Nat) (zr : Bool) (s : State) : State :=
  let t := s.siteCycle p
  let c := s.cell p.key
  if c.accBusy bank t then s.cellFault p.key 2 3 0
  else
    let cc := accColumn c col ci
    let v := mapLanes fun r => s.accAt p.key bank r cc
    let s1 := s.dueWrite p.key (t + 2) 3 (.vreg (s.vphys p.key vd) v (BitVec.allOnes 64))
    if zr then s1.dueWrite p.key t 3 (.accCol bank cc 0) else s1

/-- MWR: AB[r][col] := lane r of VS, done at t + 2 (R151, R153). -/
def mwrOp (p : Site) (bank col : Nat) (ci : Bool) (vs : Nat) (s : State) : State :=
  let t := s.siteCycle p
  let c := s.cell p.key
  if c.accBusy bank t then s.cellFault p.key 2 3 0
  else s.dueWrite p.key (t + 1) 3 (.accCol bank (accColumn c col ci) (s.vreg p.key vs))

/-- MZ: the bank set to 0, done at t + 2 (R151, R153). -/
def mzOp (p : Site) (bank : Nat) (s : State) : State :=
  let t := s.siteCycle p
  if (s.cell p.key).accBusy bank t then s.cellFault p.key 2 3 0
  else s.dueWrite p.key (t + 1) 3 (.accZero bank)

/-- MRS: the A latch from 4 lines or the B latch from 6 lines at A[AREG] + D, done at t + 2 (R150, R151, R153). -/
def mrsOp (p : Site) (side areg d : Nat) (s : State) : State :=
  let t := s.siteCycle p
  if (s.cell p.key).mxBusy t then s.cellFault p.key 1 3 0
  else
    let ls := fillLines s p.key areg d (if side = 0 then 4 else 6)
    let v := ls.flatMap fun b => lineLanes (s.obLine p.key b)
    (s.dueWrite p.key (t + 1) 3 (.latch side v)).stream p (ls.headD (0, 0)).1 3

/-! The arithmetic of a finished MMA (R148, R167, R168, R173, R174). -/

/-- Element `i` of a slice of 64 or 96 elements of format `fmt`, as its own value. -/
def elemVal (fmt slice i : Nat) : FVal :=
  let w := fmtBits fmt
  let x := slice / 2 ^ (w * i) % 2 ^ w
  match fmt with
  | 0 | 1 => e2m1.decode x
  | 2 => e2m3.decode x
  | 3 => e3m2.decode x
  | 4 => e4m3.decode x
  | 5 => e5m2.decode x
  | 6 => if x < 128 then .fin false x (-6) else .fin true (256 - x) (-6)
  | 8 => bf16.decode x
  | _ => fp16.decode x

/-- Byte `n` of a run of lines. -/
def linesByte (l : List Line) (n : Nat) : Nat := ((l.getD (n / 64) 0).extractLsb' (8 * (n % 64)) 8).toNat

/-- The scale of row (or column) `r` at depth `sd` (R148, R150, R168): the E8M0 byte of the MX formats, G × S rounded
to FP32 for LZ-G4, 1 for the 16-bit formats. -/
def scaleVal (fmt : Nat) (scales : List Line) (latch : Nat → Lane) (r sd : Nat) : FVal :=
  if fmt = 1 then
    let gb := linesByte scales (2 * r + sd / 16) % 128
    f32 (roundFP32 ((e4m3.decode gb).mul (f32 (latch r))))
  else if fmt ≥ 8 then .fin false 1 0
  else e8m0 (linesByte scales r)

/-- A total that the spec leaves open: any value at all (R173). -/
def freeTotal (n : Nat) : FVal :=
  let (k, m, e) := Config.freeSum n
  match k with | 0 => .inf false | 1 => .inf true | 2 => .nan | 3 => .fin false m e | _ => .fin true m e

/-- The exponent of the lowest set bit of a finite value. -/
def FVal.low (v : FVal) : Int :=
  match v with | .fin _ m e => e + Nat.log2 (m - (m &&& (m - 1))) | _ => 0

/-- Whether `m * 2^e` is at most `n * 2^f`. -/
def dyadicLe (m : Nat) (e : Int) (n : Nat) (f : Int) : Bool := if e ≤ f then m ≤ n * pow2 (f - e) else m * pow2 (e - f) ≤ n

/-- The sum of the magnitudes of finite values. -/
def magnitude (l : List FVal) : Nat × Int :=
  match (l.map fun v => match v with | .fin _ m e => FVal.fin false m e | x => x).foldl FVal.add (.fin false 0 0) with
  | .fin _ m e => (m, e)
  | _ => (0, 0)

/-- Whether every partial sum of finite values, in whatever order, is a value that FP32 holds: all are multiples of one power of two,
and together they are at most 2^24 of it (R173). -/
def sumsExact (l : List FVal) : Bool :=
  let nz := l.filter fun v => match v with | .fin _ m _ => m != 0 | _ => false
  let lo := nz.foldl (fun a v => min a v.low) 104
  let (m, e) := magnitude l
  dyadicLe m e (2 ^ 24) lo && -149 ≤ lo

/-- A total of finite products whose partial sums are held in at least FP32 precision: the free value where it lies within the error that
31 such roundings can make, and any value at all where a partial sum can leave the range of FP32 (R173). -/
def roundedTotal (l : List FVal) (total : FVal) (free : Nat) : FVal :=
  let (m, e) := magnitude l
  let v := freeTotal free
  if dyadicLe m e 1 127 = false then v
  else match v.add total.neg with
    | .fin _ dm de =>
      let (bm, be, _) := match FVal.add (.fin false m (e - 19)) (.fin false 1 (-144)) with | .fin _ x y => (x, y, true) | _ => (0, 0, false)
      if dyadicLe dm de bm be then v else total
    | _ => total

/-- The total of position (r, c) of a finished MMA: the exact sum of the products in the 4-, 6- and 8-bit families, times
the scales, rounded once to FP32; with an operand of the 16-bit family a free total within the bound that the precision of the partial
sums sets, but for a NaN, for an infinity that no partial sum can meet with the opposite one, and for products whose partial sums are all
exact (R173, R174). -/
def mmaPos (m : MmaSt) (la lb : Nat → Lane) (r c free : Nat) : FVal :=
  let prods := (List.range 32).map fun sd =>
    ((elemVal m.fa (m.aRead.getD sd 0) r).mul (elemVal m.fb (m.bRead.getD sd 0) c)).mul
      ((scaleVal m.fa m.aScale la r sd).mul (scaleVal m.fb m.bScale lb c sd))
  let total := prods.foldl FVal.add (.fin false 0 0)
  if m.fa < 8 ∧ m.fb < 8 then f32 (roundFP32 total)
  else
    match total with
    | .nan => .nan
    | .inf n =>
      let against := (prods.filter fun x => match x with | .fin g _ _ => g != n | _ => false).foldl FVal.add (.fin false 0 0)
      match against.expo with
      | some e => if e ≥ 126 then freeTotal free else total
      | none => total
    | .fin _ _ _ => if sumsExact prods then total else roundedTotal prods total free

/-- The bank after the MMA, row by row (R149, R151). -/
def mmaResult (s : State) (k : Nat) (m : MmaSt) : List Lane :=
  let la := fun r => m.aLatch.getD r 0
  let lb := fun c => m.bLatch.getD c 0
  (List.range (64 * 96)).map fun i =>
    let x := mmaPos m la lb (i / 96) (i % 96) (s.freeCtr + i)
    roundFP32 ((f32 (if m.zero then 0 else s.accAt k m.bank (i / 96) (i % 96))).add x)

/-- What an MMA reads in cycle `c`: its scales in cycle t + 1, and the lines of depth s in cycle t + 1 + s × T / 32
(R149). -/
def mmaRead (s : State) (k c : Nat) (m : MmaSt) : MmaSt :=
  let line := fun b => s.obLine k b
  let (pa, _) := panelLines m.fa false
  let (pb, _) := panelLines m.fb true
  let m1 := if c = m.t0 + 1 then
      { m with aScale := (m.aLines.drop pa).map line, bScale := (m.bLines.drop pb).map line }
    else m
  let st := m.t / 32
  if m.t0 + 1 ≤ c ∧ (c - m.t0 - 1) % st = 0 ∧ (c - m.t0 - 1) / st < 32 then
    let sd := (c - m.t0 - 1) / st
    let slice := fun (ls : List (Nat × Nat)) (pl w n : Nat) =>
      let lo := w * n * sd
      let hi := lo + w * n
      let lines := ((ls.take pl).drop (lo / 512)).take (ceilDiv hi 512 - lo / 512)
      (lines.foldr (fun b acc => acc * 2 ^ 512 + (line b).toNat) 0) / 2 ^ (lo % 512) % 2 ^ (w * n)
    { m1 with aRead := m1.aRead ++ [slice m.aLines pa (fmtBits m.fa) 64],
              bRead := m1.bRead ++ [slice m.bLines pb (fmtBits m.fb) 96] }
  else m1

end Sys2Proof.Machine
end

