-- ==== Sys2Proof/Machine/CellVector.lean ====
section
/-! DEFINITION. The vector slot of a C-cell (R142 to R146). -/

namespace Sys2Proof.Machine

namespace State

/-- A vector result of latency `l`: written in cycle t + l - 1 under the lane mask (R142, R143). -/
def vresult (s : State) (p : Site) (vd msk l : Nat) (v : BitVec 2048) : State :=
  s.dueWrite p.key (s.siteCycle p + l - 1) 2 (.vreg (s.vphys p.key vd) v (s.mask p.key msk))

/-- A mask result, of latency 2; M0 cannot be written (R118, R143). -/
def mresult (s : State) (p : Site) (md : Nat) (v : BitVec 64) (sel : BitVec 64 := BitVec.allOnes 64) : State :=
  if md % 8 = 0 then s else s.dueWrite p.key (s.siteCycle p + 1) 2 (.mask (md % 8) v sel)

/-- A lane-wise operation on two registers, with FN[0] negating A (R143). -/
def lanewise (s : State) (p : Site) (vd va vb msk : Nat) (neg : Bool) (f : Lane → Lane → Lane) : State :=
  let a := s.vreg p.key va
  let b := s.vreg p.key vb
  s.vresult p vd msk 2 (mapLanes fun j => f (fneg neg (lane a j)) (lane b j))

end State

/-- VNOP (R143). -/
def vnopOp (_p : Site) (s : State) : State := s
/-- VADD: A + B (R143). -/
def vaddOp (p : Site) (vd va vb msk : Nat) (neg : Bool) (s : State) : State := s.lanewise p vd va vb msk neg fadd
/-- VSUB: A - B (R143). -/
def vsubOp (p : Site) (vd va vb msk : Nat) (neg : Bool) (s : State) : State := s.lanewise p vd va vb msk neg fsub
/-- VMUL: A × B (R143). -/
def vmulOp (p : Site) (vd va vb msk : Nat) (neg : Bool) (s : State) : State := s.lanewise p vd va vb msk neg fmul
/-- VMAX (R143, R174). -/
def vmaxOp (p : Site) (vd va vb msk : Nat) (neg : Bool) (s : State) : State := s.lanewise p vd va vb msk neg fmax
/-- VMIN (R143, R174). -/
def vminOp (p : Site) (vd va vb msk : Nat) (neg : Bool) (s : State) : State := s.lanewise p vd va vb msk neg fmin

/-- VFMA: A × B + C with one rounding, latency 4 (R143). -/
def vfmaOp (p : Site) (vd va vb vc msk : Nat) (neg : Bool) (s : State) : State :=
  let a := s.vreg p.key va
  let b := s.vreg p.key vb
  let c := s.vreg p.key vc
  s.vresult p vd msk 4 (mapLanes fun j => ffma (fneg neg (lane a j)) (lane b j) (lane c j))

/-- VSEL: M[FN[2:0]] ? A : B, lane by lane (R143). -/
def vselOp (p : Site) (vd va vb msk sel : Nat) (s : State) : State :=
  s.vresult p vd msk 2 (mergeLanes (s.mask p.key (sel % 8)) (s.vreg p.key va) (s.vreg p.key vb))

/-- VMOV: VD := A (R143). -/
def vmovOp (p : Site) (vd va msk : Nat) (s : State) : State := s.vresult p vd msk 2 (s.vreg p.key va)

/-- VBC: every lane of VD := CW[FN[5:0]][31:0] (R143). -/
def vbcOp (p : Site) (vd cw msk : Nat) (s : State) : State :=
  s.vresult p vd msk 2 (mapLanes fun _ => (s.cw p.key (cw % 64)).setWidth 32)

/-- VCMP: M[VD] := A cond B in the lanes of MSK, and 0 elsewhere (R143). -/
def vcmpOp (p : Site) (md va vb msk cond : Nat) (s : State) : State :=
  let a := s.vreg p.key va
  let b := s.vreg p.key vb
  let m := s.mask p.key msk
  s.mresult p md (BitVec.ofNat 64 ((List.range 64).foldr (fun j acc =>
    2 * acc + (if m.getLsbD j && fcmp cond (lane a j) (lane b j) then 1 else 0)) 0))

/-- VMSK: AND, OR, A AND NOT B, NOT A, FIRSTN (R143); the lanes that MSK leaves out keep the old bit (R142). -/
def vmskOp (p : Site) (md va vb msk op : Nat) (s : State) : State :=
  let a := s.mask p.key (va % 8)
  let b := s.mask p.key (vb % 8)
  s.mresult p md (match op with
    | 0 => a &&& b
    | 1 => a ||| b
    | 2 => a &&& ~~~ b
    | 3 => ~~~ a
    | _ => BitVec.ofNat 64 (2 ^ min 64 ((s.cw p.key (va % 64)).field 0 7) - 1)) (s.mask p.key msk)

/-- One level of the binary tree of R144: neighbouring pairs. -/
def pairUp (f : Lane → Lane → Lane) : List Lane → List Lane
  | a :: b :: r => f a b :: pairUp f r
  | l => l

/-- The reduction of 64 lanes in a binary tree (R144). -/
def reduceTree (f : Lane → Lane → Lane) (l : List Lane) : Lane :=
  ((List.range 6).foldl (fun acc _ => pairUp f acc) l).headD 0

/-- VRED: every lane of VD := the reduction of A over the lanes of MSK, latency 6; MSK does not restrict the write
(R143, R144). -/
def vredOp (p : Site) (vd va msk fn : Nat) (s : State) : State :=
  let a := s.vreg p.key va
  let m := s.mask p.key msk
  let ident : Lane := if fn = 0 then 0 else if fn = 1 then 0xFF800000 else 0x7F800000
  let f := if fn = 0 then fadd else if fn = 1 then fmax else fmin
  let r := reduceTree f ((List.range 64).map fun j => if m.getLsbD j then lane a j else ident)
  s.vresult p vd 0 6 (mapLanes fun _ => r)

/-- The vectors in XQ or in the unit at cycle `t` (R145). -/
def CellSt.xqCount (c : CellSt) (t : Nat) : Nat := (c.xq.filter fun x => t < x + 4).length
/-- The vectors that wait in XQ at cycle `t`. -/
def CellSt.xqWaiting (c : CellSt) (t : Nat) : Nat := (c.xq.filter fun x => t < x).length

/-- VXF: VD := f(A) through XQ, latency 12 + 4q; a third waiting vector is QUEUE_OVERFLOW (R143, R145, R174). -/
def vxfOp (p : Site) (vd va msk fn : Nat) (s : State) : State :=
  let t := s.siteCycle p
  let c := s.cell p.key
  let start := max t (c.xq.foldl (fun acc x => max acc (x + 4)) t)
  if start > t ∧ c.xqWaiting t ≥ 2 then s.siteFault p.key 2 7 (some .c)
  else
    let a := s.vreg p.key va
    let n := s.freeCtr
    let s1 := s.spend 64
    let s2 := s1.onCell p.key fun c => { c with xq := (c.xq.filter fun x => t < x + 4) ++ [start] }
    s2.vresult p vd msk (12 + 4 * c.xqCount t)
      (mapLanes fun j => vxfLane fn (lane a j) (Config.freeUlp (n + j)))

/-- A lane of VCVT codes 2 to 5: a half of the lane widened to FP32 (R143, R174). -/
def widenLane (f : FFmt) (hi : Bool) (x : Lane) : Lane :=
  roundFP32 (f.decode (if hi then x.toNat / 2 ^ 16 else x.toNat % 2 ^ 16))

/-- The generator after `n` draws, and the draws. -/
def draws : Nat → BitVec 32 → List (BitVec 32) × BitVec 32
  | 0, x => ([], x)
  | n + 1, x =>
    let y := xorshift x
    let r := draws n y
    (y :: r.1, r.2)

/-- VCVT: conversions between FP32 and the 16-bit formats, latency 3 (R143, R175 to R177). -/
def vcvtOp (p : Site) (vd va vb msk fn : Nat) (sr : Bool) (s : State) : State :=
  let a := s.vreg p.key va
  let b := s.vreg p.key vb
  if fn ≤ 1 then
    let f := if fn = 0 then bf16 else fp16
    let ds := if sr then draws 128 (s.cell p.key).gen else ([], (s.cell p.key).gen)
    let s1 := s.onCell p.key fun c => { c with gen := ds.2 }
    let cv := fun (x : Lane) (i : Nat) => (f.convert (f32 x) (if sr then some (ds.1.getD i 0) else none)).1
    s1.vresult p vd msk 3 (mapLanes fun j =>
      BitVec.ofNat 32 (cv (lane a j) (2 * j) + cv (lane b j) (2 * j + 1) * 2 ^ 16))
  else
    let f := if fn ≤ 3 then bf16 else fp16
    s.vresult p vd msk 3 (mapLanes fun j => widenLane f (fn % 2 = 1) (lane a j))

end Sys2Proof.Machine
end

