-- ==== Sys2Proof/Machine/CellDecode.lean ====
section
/-! DEFINITION. Bundles of a C-cell: which one issues in a pattern cycle, what it does, and the checks of a context image (R122 to R134, R139 to R151, R159). -/

namespace Sys2Proof.Machine

/-- Bits `lo` to `lo + w - 1` of a bundle. -/
def bfld (b : BitVec 128) (lo w : Nat) : Nat := b.toNat / 2 ^ lo % 2 ^ w

/-- The slots of a bundle (R126). -/
def slotCt (b : BitVec 128) : Nat := bfld b 0 24
def slotMv (b : BitVec 128) : Nat := bfld b 24 32
def slotVx (b : BitVec 128) : Nat := bfld b 56 40
def slotMx (b : BitVec 128) : Nat := bfld b 96 32

/-- A field of a slot. -/
def sfld (x lo w : Nat) : Nat := x / 2 ^ lo % 2 ^ w

/-! Issue (R127 to R129, R134). -/

/-- A loop descriptor (R128). -/
structure LoopDesc where
  first : Nat
  count : Nat
  ii : Nat
  span : Nat
  trip : Nat
deriving DecidableEq, Repr, Inhabited

def loopOf (w : Word) : LoopDesc := ⟨w.field 0 7, w.field 7 7, w.field 14 10 + 1, w.field 24 12, w.field 36 24⟩

/-- The cycles that a loop takes (R129). -/
def LoopDesc.cycles (l : LoopDesc) : Nat := if l.trip = 0 then 0 else (l.trip - 1) * l.ii + l.span

/-- The loop in which the `x`-th cycle of a repetition lies, and how far into it. -/
def loopAt : List LoopDesc → Nat → Nat → Option (Nat × LoopDesc × Nat)
  | [], _, _ => none
  | l :: r, j, x => if x < l.cycles then some (j, l, x) else loopAt r (j + 1) (x - l.cycles)

namespace State

/-- The loops that SEQ names, for configuration words given by `cw` (R127). -/
def seqLoops (cw : Nat → Word) : List LoopDesc := (List.range ((cw 1).field 0 3 + 1)).map fun j => loopOf (cw (2 + j))

/-- The cycles of one repetition. -/
def repCycles (l : List LoopDesc) : Nat := (l.map LoopDesc.cycles).foldl (· + ·) 0

/-- The context of a cell has finished its sequence before pattern cycle `c` (R129); an unbounded one never does. -/
def cellDone (s : State) (k c : Nat) : Bool :=
  let reps := (s.cw k 1).field 8 24
  reps != 0 && c ≥ 1 + reps * repCycles (seqLoops (s.cw k))

/-- Bundle `b` of the active context. -/
def bundle (s : State) (k b : Nat) : BitVec 128 := s.arr.bundles.at ((k * 4 + (s.cell k).ctx) * 128 + b)

/-- The bundle that issues at pattern cycle `c`, before its guard (R129). -/
def issueAt (s : State) (k c : Nat) : Option IssueSt :=
  let loops := seqLoops (s.cw k)
  let reps := (s.cw k 1).field 8 24
  let d := repCycles loops
  if c = 0 ∨ d = 0 ∨ (reps ≠ 0 ∧ c - 1 ≥ reps * d) then none
  else match loopAt loops 0 ((c - 1) % d) with
    | none => none
    | some (j, l, x) =>
      ((List.range (l.count + 1)).map (l.first + ·)).findSome? fun b =>
        let ofs := sfld (slotCt (s.bundle k b)) 0 10
        if ofs ≤ x ∧ (x - ofs) % l.ii = 0 ∧ (x - ofs) / l.ii < l.trip then
          some { bundle := b, loopIx := j, i := (x - ofs) / l.ii, rep := (c - 1) / d, trip := l.trip, reps := reps }
        else none

/-- The guard of a bundle (R134). -/
def guardOk (s : State) (k grd : Nat) (x : IssueSt) : Bool :=
  match grd with
  | 0 => true
  | 1 => x.i == 0
  | 2 => x.i != 0
  | 3 => x.i + 1 == x.trip
  | 4 => x.i + 1 != x.trip
  | 5 => x.rep == 0
  | 6 => x.reps != 0 && x.rep + 1 == x.reps
  | 7 => false
  | n => if n < 12 then (s.cell k).flags.getLsbD (n - 8) else !(s.cell k).flags.getLsbD (n - 12)

/-! What the slots do. -/

def runCt (s : State) (p : Site) (w : Nat) : State :=
  let x : BitVec 6 := BitVec.ofNat 6 (sfld w 14 6)
  match sfld w 20 4 with
  | 1 => epxOp p s
  | 2 => epsOp p x s
  | 3 => fsetOp p x s
  | 4 => fanyOp p x s
  | 5 => fallOp p x s
  | 6 => trapOp p x s
  | _ => ctNopOp p s

def runMv (s : State) (p : Site) (w : Nat) : State :=
  match sfld w 28 4 with
  | 1 => filOp p (sfld w 25 3) (sfld w 22 3) (sfld w 17 5) (sfld w 9 8 + 1) s
  | 2 => vldOp p (sfld w 25 3) (sfld w 19 6) (sfld w 18 1 == 1) (sfld w 16 2) s
  | 3 => vstOp p (sfld w 25 3) (sfld w 19 6) (sfld w 18 1 == 1) (sfld w 16 2) s
  | 4 => tokOp p (BitVec.ofNat 8 (sfld w 20 8)) s
  | 5 => obvOp p (sfld w 25 3) (sfld w 20 5) (sfld w 14 6) s
  | 6 => dscOp p (sfld w 25 3) s
  | _ => mvNopOp p s

def runVx (s : State) (p : Site) (w : Nat) : State :=
  let vd := sfld w 28 6
  let va := sfld w 22 6
  let vb := sfld w 16 6
  let vc := sfld w 10 6
  let msk := sfld w 7 3
  let fn := sfld w 0 7
  let neg := fn % 2 == 1
  match sfld w 34 6 with
  | 0x01 => vaddOp p vd va vb msk neg s
  | 0x02 => vsubOp p vd va vb msk neg s
  | 0x03 => vmulOp p vd va vb msk neg s
  | 0x04 => vfmaOp p vd va vb vc msk neg s
  | 0x05 => vmaxOp p vd va vb msk neg s
  | 0x06 => vminOp p vd va vb msk neg s
  | 0x07 => vselOp p vd va vb msk (fn % 8) s
  | 0x08 => vmovOp p vd va msk s
  | 0x09 => vbcOp p vd (fn % 64) msk s
  | 0x0A => vcmpOp p (vd % 8) va vb msk (fn % 8) s
  | 0x0B => vmskOp p (vd % 8) va vb msk (fn % 8) s
  | 0x0C => vredOp p vd va msk (fn % 4) s
  | 0x0D => vxfOp p vd va msk (fn % 4) s
  | 0x0E => vcvtOp p vd va vb msk (fn % 8) (fn / 64 % 2 == 1) s
  | _ => vnopOp p s

def runMx (s : State) (p : Site) (w : Nat) : State :=
  let bank := sfld w 27 1
  match sfld w 28 4 with
  | 1 => mmaOp p bank (sfld w 25 2) (sfld w 21 4) (sfld w 17 4) (sfld w 14 3) (sfld w 9 5) (sfld w 6 3) (sfld w 1 5) s
  | 2 => mrdOp p bank (sfld w 20 7) (sfld w 19 1 == 1) (sfld w 13 6) (sfld w 12 1 == 1) s
  | 3 => mwrOp p bank (sfld w 20 7) (sfld w 19 1 == 1) (sfld w 13 6) s
  | 4 => mzOp p bank s
  | 5 => mrsOp p bank (sfld w 24 3) (sfld w 19 5) s
  | _ => mnopOp p s

/-- The bundle of cycle `c` issues at a C-cell, when its guard holds (R129, R131). -/
def issueCell (s : State) (p : Site) (c : Nat) : State :=
  match s.issueAt p.key c with
  | none => s
  | some x =>
    let b := s.bundle p.key x.bundle
    if s.guardOk p.key (sfld (slotCt b) 10 4) x = false then s
    else
      let s1 := s.onCell p.key fun cl => { cl with iss := x }
      (((s1.runCt p (slotCt b)).runMv p (slotMv b)).runVx p (slotVx b)).runMx p (slotMx b)

end State

/-! The checks of a context image (R122, R124, R128, R130, R133 to R143, R151, R159). -/

/-- Whether a slot value sets no bit outside `named`. -/
def onlyBits (x named : Nat) : Bool := x &&& named == x

def maskBits (hi lo : Nat) : Nat := (2 ^ (hi - lo + 1) - 1) * 2 ^ lo

/-- CTXW (R122). -/
def ctxwOk (w : Word) : Bool :=
  let vcount := w.field 6 7
  let rot := w.field 13 5
  1 ≤ vcount && w.field 0 6 + vcount ≤ 64 && [0, 2, 4, 8, 16].contains rot && rot ≤ vcount
    && w.field 18 9 + w.field 27 10 ≤ 512 && w.field 37 9 + w.field 46 10 ≤ 512 && w.field 58 6 == 0

/-- An address register that a bundle uses (R124, R125). -/
def aregOk (ctxw a : Word) : Bool :=
  let (base, lines) := if a.field 48 1 = 0 then (ctxw.field 18 9, ctxw.field 27 10) else (ctxw.field 37 9, ctxw.field 46 10)
  1 ≤ a.field 9 10 && a.field 9 10 ≤ 512 && base ≤ a.field 0 9 && a.field 0 9 + a.field 9 10 ≤ base + lines

/-- A port code at a C-cell: the local port, or a near port whose adjacent site lies on the die (R139, R159). -/
def portOk (p : Site) (port : Nat) : Bool :=
  port == 5 || (1 ≤ port && port ≤ 4 && (match p.neighbour port with | some n => n.die == p.die | none => false))

def ctOk (w : Nat) : Bool :=
  let x := sfld w 14 6
  sfld w 10 4 != 7 && (match sfld w 20 4 with
    | 0 | 1 => x == 0
    | 2 => x / 2 == 0
    | 3 => x / 8 == 0
    | 4 | 5 => x / 32 == 0
    | 6 => true
    | _ => false)

/-- A quarter or half selector of VLD and VST. -/
def quarterOk (w port : Nat) : Bool := if sfld w 18 1 = 0 then sfld w 16 2 == 0 else port == 5 || sfld w 17 1 == 0

def mvOk (p : Site) (vcount : Nat) (areg : Nat → Bool) (w : Nat) : Bool :=
  let port := sfld w 25 3
  match sfld w 28 4 with
  | 0 => onlyBits w 0
  | 1 => onlyBits w (maskBits 31 9) && portOk p port && areg (sfld w 22 3)
  | 2 | 3 => onlyBits w (maskBits 31 16) && portOk p port && sfld w 19 6 < vcount && quarterOk w port
  | 4 => onlyBits w (maskBits 31 20)
  | 5 => onlyBits w (maskBits 31 14) && areg port && sfld w 14 6 < vcount
  | 6 => onlyBits w (maskBits 31 25) && portOk p port
  | _ => false

def vxOk (vcount w : Nat) : Bool :=
  let vd := sfld w 28 6 < vcount
  let va := sfld w 22 6 < vcount
  let vb := sfld w 16 6 < vcount
  let fn := sfld w 0 7
  let hi := maskBits 39 28
  let mA := maskBits 27 22
  let mB := maskBits 21 16
  let mK := maskBits 9 7
  let md := sfld w 28 3 != 0
  let mdBits := maskBits 39 34 + maskBits 30 28
  match sfld w 34 6 with
  | 0 => onlyBits w 0
  | 1 | 2 | 3 | 5 | 6 => onlyBits w (hi + mA + mB + mK + 1) && vd && va && vb
  | 4 => onlyBits w (hi + mA + mB + maskBits 15 10 + mK + 1) && vd && va && vb && sfld w 10 6 < vcount
  | 7 => onlyBits w (hi + mA + mB + mK + 7) && vd && va && vb
  | 8 => onlyBits w (hi + mA + mK) && vd && va
  | 9 => onlyBits w (hi + mK + 63) && vd
  | 10 => onlyBits w (mdBits + mA + mB + mK + 7) && md && va && vb && fn ≤ 5
  | 11 => md && (match fn with
    | 0 | 1 | 2 => onlyBits w (mdBits + maskBits 24 22 + maskBits 18 16 + mK + 7)
    | 3 => onlyBits w (mdBits + maskBits 24 22 + mK + 7)
    | 4 => onlyBits w (mdBits + mA + mK + 7)
    | _ => false)
  | 12 => onlyBits w (hi + mA + mK + 3) && vd && va && fn ≤ 2
  | 13 => onlyBits w (hi + mA + mK + 3) && vd && va && fn ≤ 2
  | 14 => if fn % 8 ≤ 1 then onlyBits w (hi + mA + mB + mK + 64 + 7) && vd && va && vb
          else onlyBits w (hi + mA + mK + 7) && vd && va && fn ≤ 5
  | _ => false

/-- The element formats of an MMA (R147). -/
def mmaFormats : List Nat := [0, 1, 2, 3, 4, 5, 6, 8, 9]

def mxOk (ctxw : Word) (areg : Nat → Bool) (w : Nat) : Bool :=
  let vcount := ctxw.field 6 7
  let bank := ctxw.bit (56 + sfld w 27 1)
  let colOk := sfld w 20 7 < 96 && sfld w 13 6 < vcount
  match sfld w 28 4 with
  | 0 => onlyBits w 0
  | 1 => onlyBits w (maskBits 31 1) && bank && sfld w 25 2 != 3 && mmaFormats.contains (sfld w 21 4) && mmaFormats.contains (sfld w 17 4)
      && areg (sfld w 14 3) && areg (sfld w 6 3)
  | 2 => onlyBits w (maskBits 31 12) && bank && colOk
  | 3 => onlyBits w (maskBits 31 13) && bank && colOk
  | 4 => onlyBits w (maskBits 31 27) && bank
  | 5 => onlyBits w (maskBits 31 19) && areg (sfld w 24 3)
  | _ => false

/-- A loop whose bundles have offsets `ofs` (R128, R130). -/
def loopOk (w : Word) (ofs : List Nat) : Bool :=
  let l := loopOf w
  l.first + l.count ≤ 127 && 1 ≤ l.span && w.field 60 4 == 0 && ofs.all (· < l.span) && ofs.eraseDups.length == ofs.length
    && (l.trip < 2 || ((ofs.map (· % l.ii)).eraseDups.length == ofs.length))

/-- A context image of a C-cell: 128 bundles and 64 configuration words (R159). -/
def contextOk (p : Site) (bundles : List (BitVec 128)) (cws : List Word) : Bool :=
  let cw := fun n => cws.getD n 0
  let areg := fun x => aregOk (cw 0) (cw (10 + x))
  let loops := (List.range ((cw 1).field 0 3 + 1)).map fun j => cw (2 + j)
  let used := (loops.flatMap fun w => (List.range ((loopOf w).count + 1)).map ((loopOf w).first + ·)).eraseDups
  ctxwOk (cw 0) && (cw 1).field 3 5 == 0 && (cw 1).field 32 32 == 0
    && ((List.range 8).all fun j => (cw (2 + j)).field 60 4 == 0) && ((List.range 8).all fun x => (cw (10 + x)).field 49 15 == 0)
    && (loops.all fun w => loopOk w ((List.range ((loopOf w).count + 1)).map fun i =>
        sfld (slotCt (bundles.getD ((loopOf w).first + i) 0)) 0 10))
    && used.all fun n =>
        let b := bundles.getD n 0
        ctOk (slotCt b) && mvOk p ((cw 0).field 6 7) areg (slotMv b) && vxOk ((cw 0).field 6 7) (slotVx b) && mxOk (cw 0) areg (slotMx b)

end Sys2Proof.Machine
end

