-- ==== Sys2Proof/Machine/Tensor.lean ====
section
/-! DEFINITION. Tensor descriptors and descriptor programs: their fields, the checks of the loader, the order of tiles and lines, and the conversions of an address generator (R165 to R193, R237, R247 to R253). -/

namespace Sys2Proof.Machine

/-- A loop word (R181). -/
structure LoopW where
  count : Nat
  axis : Nat
  amul : Nat
  stride : Int
deriving DecidableEq, Repr, Inhabited

/-- A tensor descriptor (R180). `tr` and `tc` are the tile's rows and columns. -/
structure Desc where
  ta : Nat
  fmt : Nat
  op : Nat
  loops : List LoopW
  tr : Nat
  tc : Nat
  pitch : Nat
  mcg : Nat
  layout : Nat
  xfmt : Nat
  sr : Bool
  scl : Bool
  resv : Nat
  br : Nat
  bc : Nat
  pad : Nat
deriving DecidableEq, Repr, Inhabited

/-- A signed 32-bit number. -/
def signed32 (x : Nat) : Int := if x < 2 ^ 31 then (x : Int) else (x : Int) - 2 ^ 32

def loopW (w : Word) : LoopW := ⟨w.field 0 24, w.field 24 2, w.field 26 6, signed32 (w.field 32 32)⟩

/-- The descriptor that eight words hold (R180). -/
def descOf (l : List Word) : Desc :=
  let w := fun n => l.getD n 0
  { ta := (w 0).field 0 56, fmt := (w 0).field 56 4, op := (w 0).field 60 4,
    loops := (List.range 5).map fun j => loopW (w (1 + j)),
    tr := (w 6).field 0 8 + 1, tc := (w 6).field 8 12 + 1, pitch := (w 6).field 20 24, mcg := (w 6).field 44 8,
    layout := (w 6).field 52 2, xfmt := (w 6).field 54 4, sr := (w 6).bit 58, scl := (w 6).bit 59, resv := (w 6).field 60 4,
    br := (w 7).field 0 24, bc := (w 7).field 24 24, pad := (w 7).field 48 16 }

namespace Desc

/-- Tiles of the descriptor: the product of the five COUNTs (R249). -/
def ntiles (d : Desc) : Nat := d.loops.foldl (fun n l => n * l.count) 1

/-- The loop indices of tile `t`, BATCH first (R182). -/
def index (d : Desc) (t : Nat) : List Nat :=
  (d.loops.foldr (fun l (a : List Nat × Nat) => ((a.2 % l.count) :: a.1, a.2 / l.count)) ([], t)).1

/-- The tile address with the tensor starting at `ta` (R182). -/
def base (d : Desc) (ta : Int) (t : Nat) : Int :=
  ((d.index t).zip d.loops).foldl (fun a p => a + (p.1 : Int) * p.2.stride) ta

/-- The tile's origin along an axis: 1 row, 2 column (R182). -/
def origin (d : Desc) (axis t : Nat) : Nat :=
  ((d.index t).zip d.loops).foldl (fun a p => if p.2.axis = axis then a + p.1 * p.2.amul * (if axis = 1 then d.tr else d.tc) else a) 0

/-- Whether position (r, c) of tile `t` lies inside the bounds (R182). -/
def valid (d : Desc) (t r c : Nat) : Bool := d.origin 1 t + r < d.br && d.origin 2 t + c < d.bc

/-- The columns of a row of tile `t` that lie inside the column bound. -/
def vcols (d : Desc) (t : Nat) : Nat := min d.tc (d.bc - d.origin 2 t)

/-- The format on the M-cell side (R180). -/
def efmt (d : Desc) : Nat := if d.xfmt = 0xF then d.fmt else d.xfmt

/-- Lines per tile row or column (R188). -/
def rowLines (d : Desc) : Nat := ceilDiv (d.tc * fmtBits d.efmt) 512
def colLines (d : Desc) : Nat := ceilDiv (d.tr * fmtBits d.efmt) 512

/-- Panel lines and scale lines of one slice of 32 columns (R148, R188). -/
def sliceLines (d : Desc) : Nat × Nat := panelLines d.efmt (d.layout == 2)

/-- Lines of a tile (R188, R249). -/
def nlines (d : Desc) : Nat :=
  match d.layout with
  | 0 => d.tr * d.rowLines
  | 3 => d.tc * d.colLines
  | _ => d.tc / 32 * (d.sliceLines.1 + d.sliceLines.2)

/-- Where position (r, c) stands in the order of emission or arrival (R188). -/
def order (d : Desc) (r c : Nat) : Nat :=
  match d.layout with
  | 0 => r * d.tc + c
  | 3 => c * d.tr + r
  | _ => c * d.tr + r

/-- Elements of one block or group of the scale plane; 0 for a format without one (R165, R172). -/
def blockLen (d : Desc) : Nat := match d.fmt with | 1 => 16 | 7 => 0 | n => if n ≤ 6 then 32 else 0

/-- Whether block `b` of row `r` holds a valid element (R183, R193). -/
def blockValid (d : Desc) (t r b : Nat) : Bool := d.valid t r (b * d.blockLen)

/-- Whether the generator converts elements (R184). -/
def converts (d : Desc) : Bool := d.xfmt != 0xF

end Desc

/-! Elements. -/

/-- Bits `lo` to `lo + w - 1` of a run of bytes that starts at byte `b0`; none when a byte of them was not fetched. -/
def bitsAt (src : Nat → Option Byte) (b0 lo w : Nat) : Option Nat :=
  let first := b0 + lo / 8
  let n := ceilDiv (lo % 8 + w) 8
  ((List.range n).mapM fun i => src (first + i)).map fun l => ofBytes l / 2 ^ (lo % 8) % 2 ^ w

/-- The pad element in the stored format (R187). -/
def padOf (fmt pad : Nat) : Nat :=
  match fmt with
  | 0xA => pad * 2 ^ 16
  | 0xB => if pad < 2 ^ 15 then pad else pad + (2 ^ 32 - 2 ^ 16)
  | n => pad % 2 ^ fmtBits n

/-- The scalar encoding of a format code (R165). -/
def scalarOf : Nat → FFmt
  | 0 | 1 => e2m1 | 2 => e2m3 | 3 => e3m2 | 4 => e4m3 | 5 => e5m2 | 8 => bf16 | 9 => fp16 | _ => fp32

/-- A value divided by 2^x. -/
def FVal.scaleDown (v : FVal) (x : Int) : FVal := match v with | .fin n m e => .fin n m (e - x) | y => y

/-- The largest of some exponents. -/
def maxExpo (l : List FVal) : Option Int :=
  (l.filterMap FVal.expo).foldl (fun a x => match a with | none => some x | some y => some (max x y)) none

/-- A conversion of one element: the bits, whether it saturated, whether it wrote a NaN (R175, R194). -/
def convElem (to_ : Nat) (v : FVal) (draw : Option (BitVec 32)) : Nat × Bool × Bool :=
  if to_ = 0xA then ((roundFP32 v).toNat, false, v.isNan)
  else
    let r := (scalarOf to_).convert v draw
    (r.1, r.2, v.isNan && (scalarOf to_).nanCode.isSome)

/-- The scale exponent X of an LZ-CB4 codebook, and its scale byte (R170). -/
def bookScale (book : List Nat) : Int × Nat :=
  let vs := book.map fun x => bf16.decode x
  let x := match maxExpo vs with | none => -127 | some e => max (-127) (min 127 (e - 8))
  (x, if vs.any fun v => match v with | .fin _ _ _ => false | _ => true then 0xFF else (x + 127).toNat)

/-- An LZ-CB4 index expanded (R170). -/
def expandElem (book : List Nat) (to_ j : Nat) : Nat × Bool × Bool :=
  let x := book.getD j 0
  if to_ = 8 then (x, false, (bf16.decode x).isNan) else convElem 4 ((bf16.decode x).scaleDown (bookScale book).1) none

/-- The two's-complement MXINT8 code of a value in units of 2^-6 (R167, R175, R176). -/
def convInt8 (v : FVal) (draw : Option (BitVec 32)) : Nat × Bool × Bool :=
  match v with
  | .fin neg m e =>
    let (q, r, d) := inUnits m e (-6)
    let up := match draw with
      | none => decide (2 * r > d ∨ (2 * r = d ∧ q % 2 = 1))
      | some x => decide (r * 2 ^ 16 / d + x.toNat / 2 ^ 16 ≥ 2 ^ 16)
    let n := if up then q + 1 else q
    let cap := if neg then 128 else 127
    ((if neg then 256 - min n cap else min n cap) % 256, decide (q > cap ∨ (q = cap ∧ r ≠ 0)), false)
  | _ => (0, false, false)

/-- Largest unbiased exponent of an MX element format (R178). -/
def mxExpo : Nat → Int
  | 3 => 4 | 4 => 8 | 5 => 15 | 6 => 0 | _ => 2

/-- A block of an MX format (R178): its scale byte, its elements, and whether it saturated or wrote a NaN or 0xFF. -/
def mxBlock (fmt : Nat) (vs : List (FVal × Option (BitVec 32))) : Nat × List Nat × Bool × Bool :=
  let special := vs.any fun v => match v.1 with | .fin _ _ _ => false | _ => true
  if special ∧ fmt ≠ 5 then (0xFF, vs.map fun _ => 0, false, true)
  else
    let a := maxExpo (vs.map fun v => match v.1 with | .inf _ => e5m2.decode 0x7B | y => y)
    let x : Int := match a with | none => -127 | some e => max (-127) (min 127 (e - mxExpo fmt))
    let es := vs.map fun v => if fmt = 6 then convInt8 (v.1.scaleDown x) v.2 else convElem fmt (v.1.scaleDown x) v.2
    ((x + 127).toNat, es.map (·.1), es.any (·.2.1), es.any (·.2.2))

/-! Emission (R187, R188, R190). -/

/-- What a tile is emitted from: the bytes of the two planes by address, the element and companion tile addresses, the draws of the tile. -/
structure TileSrc where
  d : Desc
  comp : Option Desc
  t : Nat
  base : Nat
  cbase : Nat
  src : Nat → Option Byte
  csrc : Nat → Option Byte
  draws : List (BitVec 32)

namespace TileSrc

variable (x : TileSrc)

/-- The stored element at (r, c), with the pad outside the bound or where nothing was fetched (R187, R190, R258); and whether
it is a pad. -/
def raw (r c : Nat) : Nat × Bool :=
  let w := fmtBits x.d.fmt
  match (if x.d.valid x.t r c then bitsAt x.src (x.base + r * x.d.pitch) (w * c) w else none) with
  | some v => (v, false)
  | none => (padOf x.d.fmt x.d.pad, true)

/-- The codebook of tile row `r` (R169, R183). -/
def book (r : Nat) : List Nat :=
  let h := (x.d.origin 1 x.t + r) / 128
  (List.range 16).map fun j => (bitsAt x.csrc (x.cbase + 32 * h) (16 * j) 16).getD 0

/-- The element emitted at (r, c) (R170, R175, R184, R187): bits, saturated, NaN. -/
def elem (r c : Nat) : Nat × Bool × Bool :=
  let v := x.raw r c
  if x.d.converts = false then (v.1, false, false)
  else if x.d.fmt = 7 then (if v.2 then (0, false, false) else expandElem (x.book r) x.d.xfmt v.1)
  else convElem x.d.xfmt ((scalarOf x.d.fmt).decode v.1) (if x.d.sr ∧ x.d.fmt = 0xA then some (x.draws.getD (x.d.order r c) 0) else none)

/-- The scale byte of block `b` of row `r` (R170, R183, R187). -/
def scale (r b : Nat) : Nat :=
  if x.d.fmt = 7 then (if x.d.origin 1 x.t + r < x.d.br then (bookScale (x.book r)).2 else 0x7F)
  else
    let c := x.comp.getD default
    match (if x.d.blockValid x.t r b then bitsAt x.csrc (x.cbase + r * c.pitch) (8 * b) 8 else none) with
    | some v => v
    | none => c.pad % 256

/-- Numbers of `w` bits packed, the first lowest (R171). -/
def packNat (w : Nat) (l : List Nat) : Nat := l.foldr (fun v acc => acc * 2 ^ w + v) 0

/-- Positions that line `k` takes its elements from, in order; empty for a scale line. -/
def positions (k : Nat) : List (Nat × Nat) :=
  match x.d.layout with
  | 0 => (List.range x.d.tc).map fun c => (k / x.d.rowLines, c)
  | 3 => (List.range x.d.tr).map fun r => (r, k / x.d.colLines)
  | _ =>
    let n := x.d.sliceLines.1 + x.d.sliceLines.2
    if k % n < x.d.sliceLines.1 then
      (List.range 32).flatMap fun c => (List.range x.d.tr).map fun r => (r, 32 * (k / n) + c)
    else []

/-- Which line of its row, column or panel line `k` is. -/
def part (k : Nat) : Nat :=
  match x.d.layout with
  | 0 => k % x.d.rowLines
  | 3 => k % x.d.colLines
  | _ => k % (x.d.sliceLines.1 + x.d.sliceLines.2)

/-- The positions whose bits lie in line `k`. -/
def inLine (k : Nat) : List (Nat × Nat) :=
  let w := fmtBits x.d.efmt
  let p := x.part k
  ((x.positions k).zipIdx.filter fun q => w * q.2 < 512 * (p + 1) && 512 * p < w * (q.2 + 1)).map (·.1)

/-- Line `k` of the tile (R148, R188). -/
def line (k : Nat) : Line :=
  let w := fmtBits x.d.efmt
  let ps := x.positions k
  let p := x.part k
  if ps = [] then
    let n := x.d.sliceLines.1 + x.d.sliceLines.2
    let per := if x.d.efmt = 1 then 2 else 1
    let bytes := (List.range (x.d.tr * per)).map fun i => x.scale (i / per) (k / n * per + i % per)
    BitVec.ofNat 512 (packNat 8 bytes / 2 ^ (512 * (p - x.d.sliceLines.1)))
  else BitVec.ofNat 512 (packNat w (ps.map fun q => (x.elem q.1 q.2).1) / 2 ^ (512 * p))

/-- The events of TNS_EVT that line `k` gives: PAD, SAT, NAN (R194). -/
def notes (k : Nat) : List Nat :=
  let ps := x.inLine k
  let es := ps.map fun q => x.elem q.1 q.2
  let book := ps.isEmpty && x.d.fmt = 7 && (List.range x.d.tr).any fun r => 512 * (x.part k - x.d.sliceLines.1) ≤ 8 * r
    && 8 * r < 512 * (x.part k - x.d.sliceLines.1 + 1) && x.scale r 0 == 0xFF
  (if ps.any fun q => (x.raw q.1 q.2).2 then [0] else []) ++ (if es.any (·.2.1) then [2] else [])
    ++ (if es.any (·.2.2) || book then [3] else [])

end TileSrc

/-! What a WRITE stores (R188, R191, R193). -/

/-- Bits to be written: the first bit's number from byte 0 of the space, how many, and their value. -/
structure Seg where
  at_ : Nat
  n : Nat
  val : Nat
deriving DecidableEq, Repr, Inhabited

/-- Element (r, c) of a tile as it arrived in lines (R188). -/
def arrived (d : Desc) (lines : List Line) (r c : Nat) : Nat :=
  let w := fmtBits d.efmt
  let (first, n, i) := if d.layout = 3 then (c * d.colLines, d.colLines, r) else (r * d.rowLines, d.rowLines, c)
  TileSrc.packNat 512 ((List.range n).map fun j => (lines.getD (first + j) 0).toNat) / 2 ^ (w * i) % 2 ^ w

/-- The bits that a tile stores in its element plane and in its scale plane, and whether positions were discarded, a value
saturated, a NaN was written (R178, R191, R193, R194). -/
def tileSegs (d : Desc) (comp : Option Desc) (t base cbase : Nat) (lines : List Line) (ds : List (BitVec 32)) :
    List Seg × List Seg × List Nat :=
  let w := fmtBits d.fmt
  let vc := d.vcols t
  let rows := (List.range d.tr).filter fun r => d.origin 1 t + r < d.br && vc > 0
  let val := fun r c => (scalarOf d.efmt).decode (arrived d lines r c)
  let draw := fun r c => if d.sr then some (ds.getD (d.order r c) 0) else none
  let mx := d.converts && d.fmt ≤ 6
  let out := rows.map fun r =>
    if mx then
      let bs := (List.range (ceilDiv vc 32)).map fun b =>
        mxBlock d.fmt ((List.range (min 32 (vc - 32 * b))).map fun i => (val r (32 * b + i), draw r (32 * b + i)))
      (r, bs.flatMap (·.2.1), bs.map (·.1), bs.any (·.2.2.1), bs.any (·.2.2.2))
    else
      let es := (List.range vc).map fun c =>
        if d.converts then convElem d.fmt (val r c) (if d.fmt = 0xA then none else draw r c) else (arrived d lines r c, false, false)
      (r, es.map (·.1), [], es.any (·.2.1), es.any (·.2.2))
  let segs := out.map fun o => (⟨8 * (base + o.1 * d.pitch), w * vc, TileSrc.packNat w o.2.1⟩ : Seg)
  let scales := out.flatMap fun o => o.2.2.1.zipIdx.map fun b => (⟨8 * (cbase + o.1 * (comp.getD default).pitch + b.2), 8, b.1⟩ : Seg)
  (segs, scales, (if rows.length < d.tr ∨ vc < d.tc then [1] else []) ++ (if out.any (·.2.2.2.1) then [2] else [])
    ++ (if out.any (·.2.2.2.2) then [3] else []))

/-- The part of a segment that falls into the `n` bytes from byte `lo` on: a mask and the bits, as numbers. -/
def segPart (g : Seg) (lo n : Nat) : Nat × Nat :=
  let a := max g.at_ (8 * lo)
  let b := min (g.at_ + g.n) (8 * (lo + n))
  if b ≤ a then (0, 0)
  else ((2 ^ (b - a) - 1) * 2 ^ (a - 8 * lo), g.val / 2 ^ (a - g.at_) % 2 ^ (b - a) * 2 ^ (a - 8 * lo))

/-- Mask and bits of all the segments in a unit; later segments win (R192). -/
def unitPart (gs : List Seg) (lo n : Nat) : Nat × Nat :=
  gs.foldl (fun acc g =>
    let p := segPart g lo n
    (acc.1 ||| p.1, (acc.2 &&& (2 ^ (8 * n) - 1 - p.1)) ||| p.2)) (0, 0)

/-- The units of `usz` bytes that the segments touch, in order. -/
def segUnits (gs : List Seg) (usz : Nat) : List Nat :=
  (gs.flatMap fun g => if g.n = 0 then [] else
    (List.range ((g.at_ + g.n - 1) / (8 * usz) - g.at_ / (8 * usz) + 1)).map (g.at_ / (8 * usz) + ·)).eraseDups

/-- The units that a READ of a tile fetches: those that hold a valid position, and those of its scales or codebooks (R183,
R190). -/
def readUnits (d : Desc) (t base usz : Nat) : List Nat :=
  let vc := d.vcols t
  let rows := (List.range d.tr).filter fun r => d.origin 1 t + r < d.br && vc > 0
  segUnits (rows.map fun r => (⟨8 * (base + r * d.pitch), fmtBits d.fmt * vc, 0⟩ : Seg)) usz

def compUnits (d c : Desc) (t cbase usz : Nat) : List Nat :=
  let vc := d.vcols t
  let rows := (List.range d.tr).filter fun r => d.origin 1 t + r < d.br && (vc > 0 || d.fmt = 7)
  segUnits (rows.map fun r =>
    if d.fmt = 7 then (⟨8 * (cbase + 32 * ((d.origin 1 t + r) / 128)), 256, 0⟩ : Seg)
    else ⟨8 * (cbase + r * c.pitch), 8 * ceilDiv vc d.blockLen, 0⟩) usz

/-! The checks of the loader (R185, R247 to R253). -/

/-- The pairs of R184. -/
def xfmtOk (d : Desc) : Bool :=
  if d.op = 1 then
    match d.fmt with
    | 7 => d.xfmt == 8 || d.xfmt == 4
    | 8 | 9 => d.xfmt == 0xF || d.xfmt == 0xA
    | 0xA => [0xF, 8, 9].contains d.xfmt
    | _ => d.xfmt == 0xF
  else
    match d.fmt with
    | 1 | 7 => false
    | 0xA => [0xF, 8, 9].contains d.xfmt
    | n => d.xfmt == 0xF || (d.xfmt == 0xA && n ≤ 9)

/-- The least and greatest byte that the tiles of a descriptor address, with `rows` rows of `bytes` bytes (R185). -/
def extremes (d : Desc) (rows bytes : Nat) : Int × Int :=
  let lo := d.loops.foldl (fun a l => a + min 0 (((l.count - 1 : Nat) : Int) * l.stride)) (taOfs d.ta : Int)
  let hi := d.loops.foldl (fun a l => a + max 0 (((l.count - 1 : Nat) : Int) * l.stride)) (taOfs d.ta : Int)
  (lo, hi + ((rows - 1) * d.pitch + bytes - 1 : Nat))

/-- Whether no tile of a scratchpad descriptor lies in a CELL of 2,304 or more: of the tile addresses from `a` on, over the loops that
are left, with `ext` bytes to a tile (R237). -/
def cellsOk (ext : Nat) : List LoopW → Int → Bool
  | [], a => a.toNat % 2 ^ 32 + ext ≤ 2304 * 2 ^ 20
  | l :: r, a =>
    let lo : Int := (l :: r).foldl (fun (x : Int) k => x + min 0 (((k.count - 1 : Nat) : Int) * k.stride)) a
    let hi : Int := (l :: r).foldl (fun (x : Int) k => x + max 0 (((k.count - 1 : Nat) : Int) * k.stride)) a
    (lo.toNat / 4294967296 == hi.toNat / 4294967296 && Nat.ble (hi.toNat % 4294967296 + ext) 2415919104)
      || (List.range l.count).all fun i => cellsOk ext r (a + (i : Int) * l.stride)

/-- No extreme tile address leaves the offset space, and in scratchpad every tile names an M-cell (R185, R237). -/
def rangeOk (d : Desc) (rows bytes : Nat) : Bool :=
  let ext := (rows - 1) * d.pitch + bytes
  let (lo, last) := extremes d rows bytes
  let hi := last - (ext - 1 : Nat)
  0 ≤ lo && hi < 2 ^ 52 && (taSpace d.ta != 0 || (hi < 2 ^ 35 && cellsOk ext d.loops (taOfs d.ta : Int)))

/-- Whether a descriptor's loop words and space are legal (R181, R287). -/
def loopsOk (d : Desc) : Bool :=
  d.resv == 0 && [0, 1, 2, 3, 8].contains (taSpace d.ta)
    && d.loops.all fun l => l.count != 0 && l.axis != 3 && (l.axis == 0) == (l.amul == 0)

/-- An element descriptor by itself (R180 to R189). -/
def elemOk (d : Desc) : Bool :=
  let w := fmtBits d.fmt
  loopsOk d && (d.op == 1 || d.op == 2) && d.fmt ≤ 0xC && !d.scl && xfmtOk d
    && !(d.op == 2 && (taSpace d.ta == 2 || taSpace d.ta == 3)) && !(d.op == 2 && d.mcg != 0)
    && (w != 4 || d.tc % 2 == 0) && (w != 6 || d.tc % 4 == 0)
    && (d.blockLen == 0 || d.tc % d.blockLen == 0)
    && (w ≥ 16 || d.pad < 2 ^ w)
    && (match d.layout with
        | 1 | 2 => d.tr == (if d.layout = 1 then 64 else 96) && d.tc % 32 == 0 && mmaFormats.contains d.efmt && d.op == 1
        | 3 => d.tr * d.tc * fmtBits d.efmt ≤ 8 * 32768
        | _ => true)
    && rangeOk d d.tr (ceilDiv (w * d.tc) 8)

/-- A companion against its element descriptor (R183). -/
def compOk (d c : Desc) : Bool :=
  loopsOk c && c.scl && c.op == d.op && c.fmt == d.fmt
    && ((c.loops.map fun l => (l.count, l.axis, l.amul)) == (d.loops.map fun l => (l.count, l.axis, l.amul)))
    && c.tr == 1 && c.tc == 1 && c.mcg == 0 && c.layout == 0 && c.br == 0 && c.bc == 0 && !c.sr && c.xfmt == 0xF && c.pad < 256
    && (d.fmt != 7 || (c.pitch == 0 && c.pad == 0))
    && !(c.op == 2 && (taSpace c.ta == 2 || taSpace c.ta == 3))
    && rangeOk c (if d.fmt = 7 then 1 else d.tr) (if d.fmt = 7 then 32 * ceilDiv (max d.br 1) 128 else d.tc / max d.blockLen 1)

/-- A descriptor program (R247): descriptors, and the instructions of the two generators. -/
structure Prog where
  descs : List (List Word)
  ag : List (List Word)
deriving DecidableEq, Repr, Inhabited

/-- The parts of a payload (R247). -/
def progOf (ws : List Word) : Prog :=
  let h := ws.getD 0 0
  let nd := h.field 0 6
  let n0 := h.field 6 7
  let n1 := h.field 13 7
  { descs := (List.range nd).map fun i => (ws.drop (2 + 8 * i)).take 8,
    ag := [(ws.drop (2 + 8 * nd)).take n0, (ws.drop (2 + 8 * nd + n0)).take n1] }

/-- The element descriptor that a RUN names, and its companion (R183, R248). -/
def Prog.run (p : Prog) (w : Word) : Desc × Option Desc :=
  let i := w.field 55 5
  let d := descOf (p.descs.getD i [])
  (d, if d.fmt ≤ 7 then some (descOf (p.descs.getD (i + 1) [])) else none)

/-- Lines per cycle on the path of a RUN: two on a near port (R249). A run into a tree uses the local port (R186). -/
def runWidth (w : Word) (d : Desc) : Nat := if d.mcg = 0 ∧ 1 ≤ w.field 52 3 ∧ w.field 52 3 ≤ 4 then 2 else 1

/-- Whether a descriptor's tiles all lie in M-cell `g` (R250). -/
def ownRows (d : Desc) (g : Nat) : Bool :=
  let (lo, hi) := extremes d d.tr (ceilDiv (fmtBits d.fmt * d.tc) 8)
  taSpace d.ta == 0 && lo.toNat / 2 ^ 20 == g && hi.toNat / 2 ^ 20 == g

/-- A PATH of a RUN: the tree, the local port, or a near port, which joins cells of one die (R71, R248). -/
def nearOk (p : Site) (path : Nat) : Bool :=
  path == 0 || path == 5 || (path ≤ 4 && (match p.neighbour path with | some n => n.die == p.die | none => false))

/-- A RUN in one of the combinations of R250. -/
def runOk (p : Prog) (g : Nat) (w : Word) : Bool :=
  let (d, _) := p.run w
  let i := w.field 55 5
  let path := w.field 52 3
  let re := w.bit 51
  let bl := w.bit 48
  let hq := w.bit 47
  let push := w.bit 45
  let packed := taSpace d.ta == 1 && taOfs d.ta / 2 ^ 48 % 2 == 1
  w.field 0 8 == 0 && i < p.descs.length && !d.scl && nearOk (mcellSite g) path && (path != 0 || (d.op == 1 && d.mcg != 0))
    && ceilDiv d.nlines (runWidth w d) ≤ w.field 8 17 && 1 ≤ w.field 8 17
    && (if taSpace d.ta = 0 then
          !re && !bl && (if d.op = 1 then ownRows d g && !push else if ownRows d g then !hq && !push else taOfs d.ta / 2 ^ 20 % 4096 != g && !hq)
        else (taSpace d.ta == 1 || taSpace d.ta == 8) && re && !hq && !push && !(d.op == 2 && packed))

/-- The RUNs of a generator that name ring `j`. -/
def ringRuns (ins : List Word) (j : Nat) : List Word := ins.filter fun w => w.field 60 4 == 1 && w.bit 51 && w.field 49 2 == j

/-- Loops nest at most four deep, bodies lie inside, and an unbounded loop is outermost (R248). `open_` are the ends of the
open loops. -/
def loopsNest : List Word → Nat → List Nat → Bool
  | [], _, _ => true
  | w :: r, i, open_ =>
    let o := open_.filter fun e => e > i
    if w.field 60 4 = 2 then
      let e := i + 1 + w.field 0 6
      o.length < 4 && e ≤ i + 1 + r.length && (o.all fun x => e ≤ x) && (w.field 36 24 != 0 || o == [])
        && loopsNest r (i + 1) (e :: o)
    else loopsNest r (i + 1) o

/-- Each instruction's own bits (R248). -/
def agWordOk (p : Prog) (g : Nat) (w : Word) : Bool :=
  let z := fun (hi lo : Nat) => w.field lo (hi - lo + 1) == 0
  match w.field 60 4 with
  | 0 => z 59 0
  | 1 => runOk p g w
  | 2 => z 35 6
  | 3 => z 36 0 && w.field 37 4 ≥ 2 && w.field 47 11 + (w.field 41 6 + 1) * (w.field 37 4 + 1) ≤ 2048
  | 4 => z 27 0
  | 5 => z 55 32
  | 6 => z 42 0 && w.field 43 4 == 0
  | _ => false

/-- A ring of a generator's instructions: configured once, before the runs that name it, all of one OP, with slots that hold a
tile (R250, R253). -/
def ringOk (p : Prog) (ins : List Word) (j : Nat) : Bool :=
  let runs := ringRuns ins j
  let cfg := ins.filter fun w => w.field 60 4 == 3 && w.field 58 2 == j
  let before := (ins.takeWhile fun w => !(w.field 60 4 == 3 && w.field 58 2 == j))
  (ringRuns before j == []) && cfg.length ≤ 1
    && (runs.all fun w => cfg.all fun c => ceilDiv (p.run w).1.nlines 8 ≤ c.field 41 6 + 1)
    && ((runs.map fun w => (p.run w).1.op).eraseDups.length ≤ 1)

/-- The loader accepts a descriptor program of M-cell `g` (R185, R247 to R253). -/
def progOk (g : Nat) (ws : List Word) : Bool :=
  let h := ws.getD 0 0
  let p := progOf ws
  let isComp := fun i => (descOf (p.descs.getD i [])).scl
  h.field 20 12 == 0 && h.field 0 6 ≤ 32 && h.field 6 7 ≤ 64 && h.field 13 7 ≤ 64 && ws.getD 1 0 == 0
    && ws.length == 2 + 8 * h.field 0 6 + h.field 6 7 + h.field 13 7
    && ((List.range p.descs.length).all fun i =>
      let d := descOf (p.descs.getD i [])
      if d.scl then i ≥ 1 && !isComp (i - 1) && (descOf (p.descs.getD (i - 1) [])).fmt ≤ 7
      else elemOk d && (d.fmt > 7 || (i + 1 < p.descs.length && compOk d (descOf (p.descs.getD (i + 1) [])))))
    && (p.ag.all fun ins => ins.all (agWordOk p g) && loopsNest ins 0 [] && (List.range 4).all (ringOk p ins))
    && ((List.range 4).all fun j => ((p.ag.flatMap fun ins => ins.filter fun w => w.field 60 4 == 3 && w.field 58 2 == j).length ≤ 1))

/-! The tiles of a ring, in program and loop order (R254). -/

/-- The tiles that the RUNs of ring `j` move in one pass over instructions. -/
def tilesIn (p : Prog) (j : Nat) : Nat → List Word → Nat
  | 0, _ => 0
  | _, [] => 0
  | n + 1, w :: r =>
    match w.field 60 4 with
    | 0 => 0
    | 1 => (if w.bit 51 ∧ w.field 49 2 = j then (p.run w).1.ntiles else 0) + tilesIn p j n r
    | 2 => w.field 36 24 * tilesIn p j n (r.take (w.field 0 6)) + tilesIn p j n (r.drop (w.field 0 6))
    | _ => tilesIn p j n r

/-- The draws that a tile of a descriptor with SR = 1 takes: one for each converted element (R177, R252). -/
def tileDrawn (d : Desc) : Nat := if d.sr ∧ d.converts then d.tr * d.tc else 0

/-- The draws of one pass over instructions (R252). -/
def drawsIn (p : Prog) : Nat → List Word → Nat
  | 0, _ => 0
  | _, [] => 0
  | n + 1, w :: r =>
    match w.field 60 4 with
    | 0 => 0
    | 1 => (p.run w).1.ntiles * tileDrawn (p.run w).1 + drawsIn p n r
    | 2 => w.field 36 24 * drawsIn p n (r.take (w.field 0 6)) + drawsIn p n (r.drop (w.field 0 6))
    | _ => drawsIn p n r

/-- The RUN, and its tile, that is the `k`-th tile of ring `j`, with the draws of its generator before that tile: `acc` and those of
what comes before (R252, R254). -/
def nthTile (p : Prog) (j : Nat) : Nat → List Word → Nat → Nat → Option (Word × Nat × Nat)
  | 0, _, _, _ => none
  | _, [], _, _ => none
  | n + 1, w :: r, k, acc =>
    match w.field 60 4 with
    | 0 => none
    | 1 =>
      let d := (p.run w).1
      if w.bit 51 ∧ w.field 49 2 = j then
        (if k < d.ntiles then some (w, k, acc + k * tileDrawn d) else nthTile p j n r (k - d.ntiles) (acc + d.ntiles * tileDrawn d))
      else nthTile p j n r k (acc + d.ntiles * tileDrawn d)
    | 2 =>
      let body := r.take (w.field 0 6)
      let per := tilesIn p j n body
      let one := drawsIn p n body
      if per = 0 then nthTile p j n (r.drop (w.field 0 6)) k (acc + w.field 36 24 * one)
      else if w.field 36 24 = 0 ∨ k < w.field 36 24 * per then nthTile p j n body (k % per) (acc + k / per * one)
      else nthTile p j n (r.drop (w.field 0 6)) (k - w.field 36 24 * per) (acc + w.field 36 24 * one)
    | _ => nthTile p j n r k acc

/-- The generator whose instructions configure ring `j`. -/
def ringAg (p : Prog) (j : Nat) : Nat :=
  if (p.ag.getD 1 []).any fun w => w.field 60 4 == 3 && w.field 58 2 == j then 1 else 0

end Sys2Proof.Machine
end

