-- ==== Sys2Proof/Machine/Mesh.lean ====
section
/-! DEFINITION. The static plane: near ports, local ports, switches, steering units and guards (R71, R73, R75 to R86, R99). -/

namespace Sys2Proof.Machine

open Adr

/-- A word on the static plane that holds neither data nor a token (R73). -/
def idleWord : MWord := ⟨false, 0, false, false, false, 0⟩

namespace State

/-- `n` words and tokens reach a guard in one cycle: discarded, each counted, and one schedule fault of the sending glove (R99,
R110). -/
def guardHit (s : State) (p : Site) (port n : Nat) : State := (s.raise (arrEvt p.die) 1 n).siteFault p.key 5 port none

/-- A word under way to a cell's input queue, there in cycle `at_`. -/
def arrive (s : State) (p : Site) (x : Transit) : State := s.onArr fun a => { a with arrivals := a.arrivals.upd p.key (· ++ [x]) }

/-- A word that enters input port `port` of a switch in cycle `t`: it reaches the crossbar after the port's delay (R78). -/
def enterSwitch (s : State) (p : Site) (slot port t : Nat) (w : MWord) : State :=
  let d := (s.arr.swCfg.at (4 * p.key + slot)).delays.getD (port - 1) 0
  s.onArr fun a => { a with transit := a.transit.upd p.key (· ++ [⟨t + d, port, w, 0⟩]) }

/-- A cell sends two lines over a near port in cycle `t`: there in cycle t + 1 (R71). A near port joins cells of one die. -/
def sendNear (s : State) (p : Site) (port t : Nat) (w : Line × Line) : State :=
  match p.neighbour port with
  | none => s.guardHit p 6 1
  | some n =>
    if n.die ≠ p.die then s.guardHit p 6 1
    else if s.siteGlove n ≠ s.siteGlove p then s.guardHit p 6 1
    else s.arrive n ⟨t + 1, facing port, { idleWord with dv := true, data := w.1 }, w.2⟩

/-- A cell sends on its local port in cycle `t` (R71). -/
def sendLocal (s : State) (p : Site) (slot t : Nat) (w : MWord) : State :=
  if w.dv ∨ w.cv then s.enterSwitch p slot 5 (t + 1) w else s

/-- The words that arrive at a cell in cycle `t` enter its input queues; one that finds its queue full is QUEUE_OVERFLOW
(R71, R81). -/
def deliver (s : State) (p : Site) (t : Nat) : State :=
  let xs := (s.arr.arrivals.at p.key).filter fun x => x.at_ ≤ t
  let s1 := s.onArr fun a => { a with arrivals := a.arrivals.upd p.key fun l => l.filter fun x => x.at_ > t }
  xs.foldl (fun u x =>
    let q := if p.isC then u.inQueue p.key x.port else (u.mcell p.mcell).inQ.getD x.port []
    if q.length ≥ 4 then u.siteFault p.key 2 (if x.port = 5 then 5 else 6) (some (if p.isC then .c else .m))
    else if p.isC then u.onCell p.key fun c => { c with inQ := setPad c.inQ x.port (q ++ [(x.w.data, x.hi)]) [] }
    else u.onMCell p.mcell fun m => { m with inQ := setPad m.inQ x.port (q ++ [(x.w.data, x.hi)]) [] }) s1

/-- What steering unit `u` (0 or 1) does with the data word at its port: the outputs it sends it to, or the cause of the
schedule fault (R83 to R85). -/
def steerWord (s : State) (p : Site) (slot u : Nat) (entry : BitVec 32) (w : MWord) : Except Nat (List Nat) :=
  let cfg := s.arr.swCfg.at (4 * p.key + slot)
  let tok := s.arr.steer.at (2 * p.key + u)
  let mask := (if u = 0 then cfg.masks0 else cfg.masks1).getD (tok.cval.toNat % 8) 0
  let outs := (List.range 5).filter fun o => mask / 2 ^ o % 2 == 1
  if tok.valid = false then .error 1
  else if w.de ≠ tok.ce then .error 0
  else if outs.any fun o => entry.toNat / 2 ^ (3 * o) % 8 ≠ 6 + u then .error 4
  else .ok outs

/-- One output of a switch: `o` counts N, E, S, W, L from 0 (R75, R78, R86, R99). -/
def switchOut (s : State) (p : Site) (slot t o : Nat) (w : MWord) : State :=
  if w.dv = false ∧ w.cv = false then s
  else if o = 4 then (if w.dv then s.arrive p ⟨t + 2, 5, w, 0⟩ else s)
  else match p.neighbour (o + 1) with
    | none => s.guardHit p (o + 1) ((if w.dv then 1 else 0) + (if w.cv then 1 else 0))
    | some n => if s.siteGlove n ≠ s.siteGlove p then s.guardHit p (o + 1) ((if w.dv then 1 else 0) + (if w.cv then 1 else 0))
      else s.enterSwitch n slot (facing (o + 1)) (t + 1 + (if n.die = p.die then 0 else 8)) w

/-- The crossbar of a switch in cycle `t` (R77, R78, R82 to R85): a data word that raises a schedule fault reaches no output. -/
def crossbar (s : State) (p : Site) (slot t : Nat) : State :=
  let xs := (s.arr.transit.at p.key).filter fun x => x.at_ ≤ t
  if xs = [] then s
  else
    let cfg := s.arr.swCfg.at (4 * p.key + slot)
    let entry := s.arr.routes.at ((4 * p.key + slot) * 128 + t % (cfg.p1 + 1))
    let at_ := fun (port : Nat) => ((xs.find? fun x => x.port == port).map (·.w)).getD idleWord
    let s1 := s.onArr fun a => { a with transit := a.transit.upd p.key fun l => l.filter fun x => x.at_ > t }
    let steer := fun (u : Nat) =>
      let w := at_ (if u = 0 then cfg.sel0 else cfg.sel1)
      if w.dv then s.steerWord p slot u entry w else .ok []
    let outsOf := fun (u : Nat) => match steer u with | .ok l => l | .error _ => []
    let s2 := [0, 1].foldl (fun (t : State) u => match steer u with
      | .ok _ => t
      | .error c => t.siteFault p.key c (if u = 0 then cfg.sel0 else cfg.sel1) none) s1
    let bad := fun (port : Nat) => [0, 1].any fun u =>
      (if u = 0 then cfg.sel0 else cfg.sel1) == port && (match steer u with | .ok _ => false | .error _ => true)
    let s3 := (List.range 5).foldl (fun (v : State) o =>
      let src := entry.toNat / 2 ^ (3 * o) % 8
      let d := if src = 0 then idleWord
        else if src ≤ 5 then (if bad src then idleWord else at_ src)
        else if (outsOf (src - 6)).contains o then at_ (if src = 6 then cfg.sel0 else cfg.sel1) else idleWord
      let cs := entry.toNat / 2 ^ (15 + 3 * o) % 8
      let c := if 1 ≤ cs ∧ cs ≤ 5 then at_ cs else idleWord
      v.switchOut p slot t o ⟨d.dv, d.data, d.de, c.cv, c.ce, c.cval⟩) s2
    [0, 1].foldl (fun (v : State) u =>
      let w := at_ (if u = 0 then cfg.sel0 else cfg.sel1)
      if w.cv then v.onArr fun a => { a with steer := a.steer.put (2 * p.key + u) ⟨true, w.cval, w.ce⟩ } else v) s3

end State

end Sys2Proof.Machine
end

