-- ==== Sys2Proof/Machine/AddrGen.lean ====
section
/-! DEFINITION. The address generators, rings, windows, handle queues and narrow requests of the M-cells (R186 to R193, R236 to R268). -/

namespace Sys2Proof.Machine

open Adr

/-- An M-cell's name in the form of R213 with bits [3:0] equal to 0 (R248, R285). -/
def mcellName (g : Nat) : Nat := g / 288 * 2 ^ 13 + g % 288 * 2 ^ 4

/-- The M-cell that a 16-bit name gives. -/
def namedCell (n : Nat) : Nat := 288 * (n / 2 ^ 13 % 8) + n / 2 ^ 4 % 512

/-- A pc at the end of a loop's body goes back to its start, or leaves the loop (R248). -/
def closeLoops : Nat → AgSt → AgSt
  | 0, x => x
  | n + 1, x =>
    match x.loops with
    | [] => x
    | (st, en, left, inf) :: r =>
      if x.pc < en then x
      else if inf then { x with pc := st }
      else if left > 1 then { x with pc := st, loops := (st, en, left - 1, inf) :: r }
      else closeLoops n { x with loops := r }

/-- The slot at TAIL of a WRITE ring, drained, is free (R255). -/
def RingSt.freed (r : RingSt) : RingSt :=
  { r with tail := (r.tail + 1) % r.slots, full := r.full - 1, held := false, done := r.done + 1, moved := 0 }

namespace State

/-- The descriptor program in an M-cell's active slot. -/
def mprog (s : State) (g : Nat) : Prog := progOf (s.arr.progs.at (4 * g + (s.mcell g).ctx))
def agOf (s : State) (g a : Nat) : AgSt := (s.mcell g).ag.getD a default
def onAg (s : State) (g a : Nat) (f : AgSt → AgSt) : State :=
  s.onMCell g fun m => { m with ag := setPad m.ag a (f (m.ag.getD a default)) default }
def ringOf (s : State) (g j : Nat) : RingSt := (s.mcell g).rings.getD j default
def onMRing (s : State) (g j : Nat) (f : RingSt → RingSt) : State :=
  s.onMCell g fun m => { m with rings := setPad m.rings j (f (m.rings.getD j default)) default }
def hqOf (s : State) (g q : Nat) : HqSt := (s.mcell g).hq.getD q default
def onHq (s : State) (g q : Nat) (f : HqSt → HqSt) : State :=
  s.onMCell g fun m => { m with hq := setPad m.hq q (f (m.hq.getD q default)) default }

/-- A generator goes to its next instruction. -/
def agNext (s : State) (g a : Nat) : State := s.onAg g a fun x => closeLoops 5 { x with pc := x.pc + 1 }

/-- Upsets that later reads of these rows meet: row and KIND of SPD_DLOG (R267, R268). -/
def spoil (s : State) (g : Nat) (upset : List (Nat × Nat)) : State :=
  s.onArr fun a => { a with badRows := upset.foldl (fun b u => b.put (2048 * g + u.1 % 2048) (u.2 % 3 + 1)) a.badRows }

/-- Events of TNS_EVT on dies, by die and bit: each at most once in an array cycle (R194, R195). With no pattern on the M-cell, a command
is a cycle of its own. -/
def tensorEvents (s : State) (alone : Bool) (ns : List (Nat × Nat)) : State :=
  ns.eraseDups.foldl (fun t n =>
    if alone then t.raise (tnsEvt n.1) n.2
    else if (t.dies.at n.1).tnsSeen.contains n.2 then t
    else (t.raise (tnsEvt n.1) n.2).onDie n.1 fun d => { d with tnsSeen := n.2 :: d.tnsSeen }) s

/-! Near-tier units of a tile (R258, R271, R286 to R292, R314). -/

end State

/-- Where a 64 B unit of a stream lies. -/
inductive Place where
  | near (f u : Nat)
  | packed (ofs : Nat)
  | hole
  | miss (page : Nat)
  | refused (f u : Nat) (r : NearRef)
  | noFrame
deriving DecidableEq, Repr, Inhabited

namespace State

/-- A unit of near-tier offset `ofs` under the checks of R288 and R291. -/
def placeNear (s : State) (a : Access) (ofs : Nat) (write : Bool) : Place :=
  if ofs / 2 ^ 49 ≠ 0 then .noFrame
  else if ofs / 2 ^ 48 = 1 then (if write then .noFrame else .packed ofs)
  else if ofs / 2 ^ 41 ≠ 0 then .noFrame
  else match s.nearCheck (ofs / 2 ^ 25) a write with
    | some r => .refused (ofs / 2 ^ 25) (ofs % 2 ^ 25 / 64) r
    | none => .near (ofs / 2 ^ 25) (ofs % 2 ^ 25 / 64)

/-- A unit of the near tier or of the LZ2 unified view (R286, R312 to R314). -/
def placeUnit (s : State) (a : Access) (space ofs : Nat) (write : Bool) : Place :=
  if space = 1 then s.placeNear a ofs write
  else if space = 8 then
    if s.mem.lz2Glove ≠ some a.glove ∨ ofs ≥ s.mem.lz2Size then .noFrame
    else match (s.lz2Page (ofs / 2 ^ 21)).at_ with
      | none => .miss (ofs / 2 ^ 21)
      | some b => s.placeNear a (b + ofs % 2 ^ 21) write
  else .noFrame

/-- A word of a block list, or the place that stops the access (R258, R292). -/
def listWord (s : State) (a : Access) (ofs : Nat) : Except Place Nat :=
  match s.placeNear a ofs false with
  | .near f u => .ok (ofBytes ((s.nearUnit f u).drop (ofs % 64) |>.take 8))
  | .refused f u r => .error (.refused f u r)
  | _ => .error .noFrame

/-- A unit at logical offset `o` of a block list at tier address `list` (R257, R258). -/
def placeBlock (s : State) (a : Access) (list o : Nat) (write : Bool) : Place :=
  if taSpace list ≠ 1 ∨ list % 64 ≠ 0 then .noFrame
  else match s.listWord a (taOfs list), s.listWord a (taOfs list + 8) with
    | .error p, _ => p
    | _, .error p => p
    | .ok h, .ok z =>
      let n := h % 2 ^ 32
      let b := h / 2 ^ 32 % 32
      if z ≠ 0 ∨ h / 2 ^ 37 ≠ 0 ∨ n = 0 ∨ b < 12 ∨ b > 28 then .noFrame
      else if o / 2 ^ b ≥ n then .hole
      else match s.listWord a (taOfs list + 16 + 8 * (o / 2 ^ b)) with
        | .error p => p
        | .ok e =>
          if e = 0 then .hole
          else if e / 2 ^ 56 ≠ 0 ∨ taSpace e ≠ 1 ∨ e % 64 ≠ 0 then .noFrame
          else s.placeNear a (taOfs e + o % 2 ^ b) write

/-- The glove and key of an M-cell's accesses (R291). -/
def cellAccess (s : State) (g : Nat) : Access :=
  let v := (s.mcellGlove g).getD 64
  ⟨v, (s.glove v).key, false⟩

/-- The place of unit `u` of a descriptor's plane (R258). -/
def planeUnit (s : State) (a : Access) (d : Desc) (bl : Bool) (u : Nat) (write : Bool) : Place :=
  if bl then s.placeBlock a d.ta (64 * u) write else s.placeUnit a (taSpace d.ta) (64 * u) write

/-- An access of a stream is refused: counted and logged, and a tier fault for the glove (R292, R321, R635). -/
def refuseStream (s : State) (g : Nat) (a : Access) (p : Place) (ofs : Nat) (write : Bool) : State :=
  let s1 := match p with
    | .refused f u r => s.refuseNear f u r a write
    | _ => s.refuseNoFrame (g / 288) ofs a write
  s1.tierFault a.glove (BitVec.ofNat 64 ofs)

/-- What a fetch has gathered: the state, the units by number, and the packed blocks decoded so far. -/
structure Fetch where
  s : State
  got : List (Nat × List Byte)
  blocks : List ((Nat × Nat) × List Byte)

/-- One unit fetched for M-cell `g`: a poisoned one is read as it stands and delivers a rerunnable detection (R296). -/
def fetchUnit (g : Nat) (a : Access) (d : Desc) (bl : Bool) (x : Fetch) (u : Nat) : Fetch :=
  match x.s.planeUnit a d bl u false with
  | .near f v =>
    let s1 := if x.s.poisoned f v then x.s.rerunnable a.glove 6 f 4 (BitVec.ofNat 64 (f + v * 2 ^ 16)) else x.s
    let s2 := if taSpace d.ta = 8 then
        (s1.onLz2 (64 * u / 2 ^ 21) fun p => { p with used := s1.mem.lz2Clock + 1 }).onMem fun m => { m with lz2Clock := m.lz2Clock + 1 }
      else s1
    { x with s := s2, got := (u, x.s.nearUnit f v) :: x.got }
  | .packed ofs =>
    match x.s.packedEntry (g / 288) ofs a.glove with
    | none => { x with s := x.s.refuseStream g a .noFrame ofs false }
    | some e =>
      let cut := fun (b : List Byte) => (List.range 64).map fun i => (b[ofs % 4096 + i]?).getD (Config.freeByte (x.s.freeCtr + i))
      match x.blocks.find? fun b => b.1 == e with
      | some b => { x with got := (u, cut b.2) :: x.got }
      | none =>
        match x.s.decodeBlock (g / 288) e.1 e.2 a.glove with
        | (s1, none) => { x with s := s1.tierFault a.glove (BitVec.ofNat 64 (64 * u)) }
        | (s1, some b) => { s := s1, got := (u, cut b) :: x.got, blocks := (e, b) :: x.blocks }
  | .hole => x
  | .miss _ => x
  | p => { x with s := x.s.refuseStream g a p (64 * u) false }

/-- Bytes of fetched units. -/
def unitByte (got : List (Nat × List Byte)) (b : Nat) : Option Byte :=
  (got.find? fun x => x.1 == b / 64).bind fun x => x.2[b % 64]?

/-- The pages of the LZ2 view that a set of units still waits for (R314). -/
def missing (s : State) (a : Access) (d : Desc) (bl : Bool) (us : List Nat) (write : Bool) : List Nat :=
  (us.filterMap fun u => match s.planeUnit a d bl u write with | .miss p => some p | _ => none).eraseDups

/-! Tiles. -/

/-- The tile address of a plane of a RUN (R182, R258, R266): with a block list it counts from 0. -/
def tileBase (d : Desc) (bl : Bool) (t handle : Nat) : Nat := (d.base (if bl then 0 else (taOfs d.ta : Int)) t).toNat + 512 * handle

/-- A byte of the M-cell's own rows as its generator reads it (R244). -/
def ownByte (s : State) (b : Nat) : Option Byte :=
  let g := b / 2 ^ 20 % 4096
  match s.mergeOf g (b % 2 ^ 20 / 512) with
  | some e => e.data[b % 512]?
  | none => some (s.scratchByte (g * 2 ^ 20 + b % 2 ^ 20))

/-- The draws for a tile whose generator has drawn `n` times before it (R176, R177, R252). -/
def tileDraws (d : Desc) (seed : BitVec 32) (n : Nat) : List (BitVec 32) :=
  if tileDrawn d = 0 then [] else (draws (tileDrawn d) (draws n seed).2).1

/-! Row slots (R238 to R240, R245, R268). -/

/-- A scheduled read of a row delivers a detection when its codes fail (R268). -/
def checkRow (s : State) (g row : Nat) : State :=
  match s.badRow g row with
  | 0 => s
  | n + 1 => if (s.mergeOf g row).isSome then s else s.detectRerun g row n 0 ((s.mcellGlove g).getD 0)

/-- A scheduled access to a row: a second one to its bank in one cycle, or a third to the M-cell, is QUEUE_OVERFLOW with PORT 7
(R240). -/
def rowAccess (s : State) (g row : Nat) : State :=
  let b := (s.mcell g).banks
  if b.contains (row % 4) ∨ b.length ≥ 2 then s.siteFault (mcellSite g).key 2 7 (some .m)
  else s.onMCell g fun m => { m with banks := row % 4 :: m.banks }

/-- A scheduled row write of the present cycle: a row whose bits are all written is written whole; another is read now and written
whole in the next cycle, with a row check inverted when the read fails its check (R191, R239, R245, R268). -/
def scheduledWrite (s : State) (g : Nat) (w : RowWrite) : State :=
  let s1 := s.rowAccess g w.row
  if w.mask = 2 ^ 4096 - 1 then
    let s2 := s1.writeRow g w.row (toBytes w.bits 512)
    let s3 := if w.bad then s2.onArr fun a => { a with badRows := a.badRows.put (2048 * g + w.row) 2 } else s2
    match w.ring with
    | some j => s3.onMRing g j fun r => { r with full := r.full + 1 }
    | none => s3
  else
    let new := mergeUnit (w.mask, w.bits) (s1.rowSeen g w.row)
    let bad := s1.badRow g w.row ≠ 0 && (s1.mergeOf g w.row).isNone
    let s2 := if bad then s1.detectRerun g w.row (s1.badRow g w.row - 1) 4 ((s.mcellGlove g).getD 0) else s1
    s2.onMCell g fun m => { m with later := m.later ++ [⟨w.at_ + 1, w.row, 2 ^ 4096 - 1, ofBytes new, true, bad, w.ring⟩] }

/-- The scheduled row writes whose cycle has come. -/
def scheduledWrites (s : State) (g t : Nat) : State :=
  ((s.mcell g).later.filter fun w => w.at_ ≤ t).foldl (fun u w => u.scheduledWrite g w)
    (s.onMCell g fun m => { m with later := m.later.filter fun w => w.at_ > t })

/-! Rings (R253 to R256). -/

/-- The rows of slot `n` of a ring. -/
def slotRow (r : RingSt) (n : Nat) : Nat := r.base + r.srows * n

/-- Lines as rows, eight to a row; the rest of the last row is not stated. -/
def slotRows (s : State) (ls : List Line) : List (List Byte) :=
  (chunk 8 ls).map fun c =>
    let d := c.flatMap lineBytes
    d ++ (List.range (512 - d.length)).map fun i => Config.freeByte (s.freeCtr + i)

/-- Lines put into a slot. -/
def putSlot (s : State) (g : Nat) (r : RingSt) (n : Nat) (ls : List Line) : State :=
  (((s.slotRows ls).zipIdx).foldl (fun t c => t.writeRow g (slotRow r n + c.2) c.1) s).spend 512

/-- Line `k` of a slot. -/
def slotLine (s : State) (g : Nat) (r : RingSt) (n k : Nat) : Line :=
  lineOf ((s.rowSeen g (slotRow r n + k / 8)).drop (64 * (k % 8)))

/-- The RUN and tile that a ring's side at TAIL moves next, and the generator's draws before it (R252, R254, R255). -/
def ringNext (s : State) (g j : Nat) : Option (Word × Nat × Nat) :=
  let p := s.mprog g
  nthTile p j 400 (p.ag.getD (ringAg p j) []) (s.ringOf g j).done 0

/-- One row of a READ ring's fetched tile is written to the slot at TAIL; with the last the slot is FULL (R254). -/
def fillRow (s : State) (g j : Nat) : State :=
  let r := s.ringOf g j
  match r.wait with
  | [] => s
  | d :: l =>
    (s.writeRow g (slotRow r r.tail + r.moved) d).onMRing g j fun r =>
      if l = [] then { r with wait := [], moved := 0, tail := (r.tail + 1) % r.slots, full := r.full + 1, done := r.done + 1 }
      else { r with wait := l, moved := r.moved + 1 }

/-- The rows of the slot at TAIL of a WRITE ring that its drainer has still to read. -/
def drainRows (s : State) (g j : Nat) : Nat :=
  match s.ringNext g j with
  | some (w, _, _) => ceilDiv ((s.mprog g).run w).1.nlines 8 - (s.ringOf g j).moved
  | none => 0

/-- One row of a completed slot is read by the drainer (R255, R268). -/
def drainRow (s : State) (g j : Nat) : State :=
  let r := s.ringOf g j
  (s.checkRow g (slotRow r r.tail + r.moved)).onMRing g j fun r => { r with moved := r.moved + 1 }

/-- The ring, if any, that has an elastic access to make: a fill (kind 0) or a drain (kind 1), and the row (R239). -/
def ringWants (s : State) (g kind : Nat) : Option (Nat × Nat) :=
  (List.range 4).findSome? fun j =>
    let r := s.ringOf g j
    if r.active = false then none
    else if kind = 0 then (if r.wait ≠ [] then some (j, slotRow r r.tail + r.moved) else none)
    else if r.isWrite ∧ r.full > 0 ∧ r.held = false ∧ s.drainRows g j > 0 then some (j, slotRow r r.tail + r.moved) else none

/-- One elastic access of a kind (0 ring fill, 1 ring drain, 2 whole-row remote write), if there is one and its row slot is free
(R241). -/
def serveKind (s : State) (g kind : Nat) : Option State :=
  if kind = 2 then s.serveWrite g
  else match s.ringWants g kind with
    | none => none
    | some (j, row) =>
      if s.slotFree g row = false then none
      else some (if kind = 0 then (s.takeRow g row).fillRow g j else (s.takeRow g row).drainRow g j)

/-- The next elastic access in round-robin order (R241). -/
def serveElastic (s : State) (g : Nat) : Option State :=
  [0, 1, 2].findSome? fun i =>
    let kind := ((s.mcell g).turn + i) % 3
    (s.serveKind g kind).map fun t => t.onMCell g fun m => { m with turn := (kind + 1) % 3 }

/-- The elastic accesses of a cycle: at most two, in the row slots that scheduled accesses leave (R238, R241). -/
def serveElastics (s : State) (g : Nat) : State :=
  match s.serveElastic g with
  | none => s
  | some t => (t.serveElastic g).getD t

/-- A READ ring's tile is fetched for the slot at TAIL; its rows wait for their elastic writes (R190, R254, R258). -/
def fillRing (s : State) (g j : Nat) (w : Word) (t drawn : Nat) : State :=
  let p := s.mprog g
  let (d, c) := p.run w
  let bl := w.bit 48
  let a := s.cellAccess g
  let b := tileBase d bl t 0
  let cb := match c with | some x => tileBase x bl t 0 | none => 0
  let us := readUnits d t b 64
  let cus := match c with | some x => compUnits d x t cb 64 | none => []
  match s.missing a d bl us false ++ (match c with | some x => s.missing a x bl cus false | none => []) with
  | page :: _ => lz2PageMissOp page s
  | [] =>
    let x := us.foldl (fetchUnit g a d bl) ⟨s, [], []⟩
    let y := match c with | some e => cus.foldl (fetchUnit g a e bl) ⟨x.s, [], x.blocks⟩ | none => ⟨x.s, [], []⟩
    let src : TileSrc := ⟨d, c, t, b, cb, unitByte x.got, unitByte y.got, tileDraws d (s.agOf g (ringAg p j)).gen drawn⟩
    let ks := List.range d.nlines
    let rows := y.s.slotRows (ks.map src.line)
    let pads := ks.filter fun k => (src.notes k).contains 0
    ((y.s.spend 512).onMRing g j fun r =>
      { r with wait := rows, moved := 0, pads := r.pads.filter (fun q => q.1 ≠ r.tail) ++ (if pads = [] then [] else [(r.tail, pads)]) }).tensorEvents (s.cellIdle g)
      ((ks.flatMap src.notes).eraseDups.filterMap fun n => if n = 0 then none else some (g / 288, n))

/-- Bits written to near-tier units for a WRITE ring: refused units raise a tier fault, holes discard, units of frames under a
seal wait (R191, R258, R292, R300). -/
def drainUnit (s : State) (g : Nat) (a : Access) (d : Desc) (bl : Bool) (gs : List Seg) (u : Nat) : State :=
  let p := unitPart gs (64 * u) 64
  match s.planeUnit a d bl u true with
  | .near f v =>
    let s0 := if taSpace d.ta = 8 then
        (s.onLz2 (64 * u / 2 ^ 21) fun q => { q with dirty := true, used := s.mem.lz2Clock + 1 }).onMem fun m => { m with lz2Clock := m.lz2Clock + 1 }
      else s
    if s.unitHeld f v then s0.holdBits f v p true else s0.writeBits f v p
  | .hole => s
  | .miss _ => s
  | q => s.refuseStream g a q (64 * u) true

/-- Whether a unit of a plane is a hole of its block list, whose bits are discarded (R258). -/
def planeHole (s : State) (a : Access) (d : Desc) (bl : Bool) (us : List Nat) : Bool :=
  us.any fun u => match s.planeUnit a d bl u true with | .hole => true | _ => false

/-- The units of a plane that a drain merged into poisoned ones: each delivers a rerunnable detection (R268, R296). -/
def drainChecks (s : State) (a : Access) (d : Desc) (bl : Bool) (gs : List Seg) (us : List Nat) : State :=
  us.foldl (fun t u => match t.planeUnit a d bl u true with
    | .near f v =>
      if (unitPart gs (64 * u) 64).1 ≠ 2 ^ 512 - 1 ∧ t.poisoned f v then t.rerunnable a.glove 6 f 4 (BitVec.ofNat 64 (f + v * 2 ^ 16)) else t
    | _ => t) s

/-- Whether a plane's units still have writes that a seal holds (R300). -/
def planeHeld (s : State) (a : Access) (d : Desc) (bl : Bool) (us : List Nat) : Bool :=
  us.any fun u => match s.planeUnit a d bl u true with
    | .near f v => s.mem.heldWrites.any fun h => h.frame == f && h.unit == v
    | _ => false

/-- A completed slot of a WRITE ring is drained; it is free once every unit is accepted (R191, R255, R268, R300). -/
def drainRing (s : State) (g j : Nat) (w : Word) (t drawn : Nat) : State :=
  let p := s.mprog g
  let (d, c) := p.run w
  let bl := w.bit 48
  let a := s.cellAccess g
  let r := s.ringOf g j
  let b := tileBase d bl t 0
  let cb := match c with | some x => tileBase x bl t 0 | none => 0
  let ds := tileDraws d (s.agOf g (ringAg p j)).gen drawn
  let lines := (List.range d.nlines).map fun k => s.slotLine g r r.tail k
  let (gs, cs, ns) := tileSegs d c t b cb lines ds
  let us := segUnits gs 64
  let cus := segUnits cs 64
  let free := fun (s : State) =>
    let s1 := s.drainChecks a d bl gs us
    (match c with | some x => s1.drainChecks a x bl cs cus | none => s1).onMRing g j RingSt.freed
  let held := fun (s : State) => s.planeHeld a d bl us || (match c with | some x => s.planeHeld a x bl cus | none => false)
  if r.held then (if held s then s else free s)
  else match s.missing a d bl us true ++ (match c with | some x => s.missing a x bl cus true | none => []) with
    | page :: _ => lz2PageMissOp page s
    | [] =>
      let s2 := us.foldl (fun (t : State) u => t.drainUnit g a d bl gs u) s
      let s3 := match c with | some x => cus.foldl (fun (t : State) u => t.drainUnit g a x bl cs u) s2 | none => s2
      let holes := s.planeHole a d bl us || (match c with | some x => s.planeHole a x bl cus | none => false)
      let s4 := s3.tensorEvents (s.cellIdle g) ((if holes then 1 :: ns else ns).map fun n => (g / 288, n))
      if held s4 then s4.onMRing g j fun r => { r with held := true } else free s4

/-! Handles and remote writes of a generator (R259, R263, R265, R266). -/

/-- A handle is popped from queue `q`: its credit returns to the producer (R265). -/
def popHandle (s : State) (g q : Nat) : Option (State × BitVec 32) :=
  match (s.hqOf g q).handles with
  | [] => none
  | h :: r =>
    let s1 := s.onHq g q fun x => { x with handles := r }
    some (match (s.hqOf g q).prod with
      | some n => (s1.onHq (namedCell n) q fun x => { x with credits := min 16 (x.credits + 1) }, h)
      | none => (s1, h))

/-- A handle pushed to queue `q` of M-cell `g`, spending one of the producer's credits (R266). -/
def pushHandle (s : State) (g q producer : Nat) (h : BitVec 32) (glove : Nat) : State :=
  let s1 := s.onHq producer q fun x => { x with credits := x.credits - 1 }
  if (s.hqOf g q).prod ≠ some (mcellName producer) ∨ g ≥ 2304 ∨ (s.hqOf g q).handles.length ≥ 16 then s1.rwRefuse g 0 2 glove true
  else s1.onHq g q fun x => { x with handles := x.handles ++ [h] }

/-- A remote write to a tier address of scratchpad space: bytes of one row (R259, R261). -/
def remoteTo (s : State) (ta : Nat) (glove : Nat) (d : List Byte) (upset : Bool) : State :=
  (s.remote (ta / 2 ^ 20 % 4096) (ta / 2 ^ 9 % 2048) (ta % 512) (ta / 2 ^ 32 % 8) glove d upset).1

/-- Whether an entry of a send buffer writes a whole row. -/
def wholeSend (e : SendEnt) : Bool := match e with | .row _ _ m _ => m == 2 ^ 4096 - 1 | .push _ _ _ _ => false

/-- Whether the M-cell that an entry goes to takes it: whole rows wait behind an elastic write there, parts while its narrow queue is
full (R241, R243). -/
def sendTaken (s : State) (e : SendEnt) : Bool :=
  match e with
  | .row _ ta m _ =>
    let c := ta / 2 ^ 20 % 4096
    if m = 2 ^ 4096 - 1 then (s.mcell c).elastic == [] else (s.mcell c).narrow.length < 16
  | .push _ _ _ _ => true

/-- The oldest entry of an M-cell's send buffers leaves, and is judged on arrival (R259, R263). -/
def drainSend (s : State) (g : Nat) : State :=
  match (s.mcell g).send with
  | [] => s
  | e :: r =>
    if s.sendTaken e = false then s
    else
      let s1 := s.onMCell g fun m => { m with send := r }
      let glove := (s.mcellGlove g).getD 64
      match e with
      | .row _ ta m b =>
        let c := ta / 2 ^ 20 % 4096
        let r := ta / 2 ^ 9 % 2048
        let new := mergeUnit (m, b) (s1.rowSeen c r)
        (s1.remoteBytes c r (ta / 2 ^ 32 % 8) glove
          (((List.range 512).filter fun i => m / 2 ^ (8 * i) % 256 ≠ 0).map fun i => (i, new.getD i 0)) false).1
      | .push _ c q h => s1.pushHandle c q g h glove

/-- The entries that leave the send buffers of a pattern's M-cells in one cycle: whole rows before parts of rows (R244). -/
def drainSends (s : State) (ms : List Nat) (whole : Bool) : State :=
  (ms.filter fun g => match (s.mcell g).send with | e :: _ => wholeSend e == whole | [] => false).foldl (fun t g => t.drainSend g) s

/-! The generator in a pattern cycle (R249, R252, R254, R255). -/

/-- Tiles that the earlier runs of a generator on ring `j` have still to begin. -/
def tilesBefore (s : State) (g : Nat) (j : Nat) (runs : List AgRun) : Nat :=
  (runs.map fun x => if x.word.bit 51 ∧ x.word.field 49 2 = j then ((s.mprog g).run x.word).1.ntiles - x.tile else 0).foldl (· + ·) 0

/-- Whether tile `t` of a run (the first of `runs`' successors) may begin: its slot is FULL or free, its handle there, its
credit and its rows in the send buffer there (R254, R255, R259, R266). -/
def tileReady (s : State) (g a : Nat) (before : List AgRun) (x : AgRun) (t : Nat) : Bool :=
  let d := descOf x.desc
  let ahead := t - x.tile
  if x.word.bit 51 then
    let j := x.word.field 49 2
    let r := s.ringOf g j
    let n := s.tilesBefore g j before + ahead
    let due := ((s.mcell g).later.filter fun w => w.ring == some j).length
    if d.op = 1 then n < r.full else n + r.full + due < r.slots
  else if x.word.bit 47 then ahead < x.handles.length || ((s.hqOf g (x.word.field 46 1)).handles.length > ahead - x.handles.length)
  else if d.op = 2 ∧ taOfs d.ta / 2 ^ 20 % 4096 ≠ g then
    let elems := (List.range d.tr).map fun r => (⟨8 * (tileBase d false t 0 + r * d.pitch), fmtBits d.fmt * d.tc, 0⟩ : Seg)
    let scales := match x.comp.map descOf with
      | some c => (List.range d.tr).map fun r => (⟨8 * (tileBase c false t 0 + r * c.pitch), 8 * (d.tc / max d.blockLen 1), 0⟩ : Seg)
      | none => []
    let rows := (segUnits (elems ++ scales) 512).length
    let used := ((s.mcell g).send.filter fun e => match e with | .row b _ _ _ => b == a | _ => false).length
    rows + used ≤ 8 && (!x.word.bit 45 || (s.hqOf g (x.word.field 46 1)).credits
      > ((s.mcell g).send.filter fun e => match e with | .push _ _ q _ => q == x.word.field 46 1 | _ => false).length)
  else true

/-- A port of an M-cell as the freeze logs name it: class 0 near-tier stream, 1 remote arrival (R115). -/
def mPort (s : State) (g : Nat) (output : Bool) (cls : Nat) : PortRef :=
  let p := mcellSite g
  ⟨p.die, p.row, s.physCol p.die p.row p.col .m, output, cls⟩

/-- The port at which a run meets elastic traffic: whether it is an output, and its class; a WRITE ring that drains into a staging
range meets the exchange (R92, R115, R328). -/
def runPort (s : State) (x : AgRun) : Bool × Nat :=
  let d := descOf x.desc
  if x.word.bit 51 then (d.op == 2, if d.op = 2 ∧ taSpace d.ta = 1 ∧ s.inStaging (taOfs d.ta) then 2 else 0) else (d.op == 2, 1)

/-- Whether a run has a boundary port at all. -/
def runBounds (g : Nat) (x : AgRun) : Bool :=
  let d := descOf x.desc
  x.word.bit 51 || x.word.bit 47 || (d.op == 2 && taOfs d.ta / 2 ^ 20 % 4096 != g)

/-- The decision cycle of a tile: L_f earlier for an input, judged at cycle 0 where that would be earlier (R93, R96). -/
def decision (x : AgRun) (lf t : Nat) : Nat :=
  let c := x.s0 + t * x.word.field 8 17
  if (descOf x.desc).op = 1 then c - lf else c

/-- The tiles of a run that are decided at cycles `lo` to `hi`. -/
def decided (x : AgRun) (n lf lo hi : Nat) : List Nat :=
  ((List.range (lf + 2)).map (x.tile + ·)).filter fun t => t < n && lo ≤ decision x lf t && decision x lf t ≤ hi

/-- The ports of an M-cell that a tile decided at cycles `lo` to `hi` finds not ready (R93, R254, R255, R259, R266). -/
def blocked (s : State) (g lf lo hi : Nat) : List PortRef :=
  ([0, 1].flatMap fun a =>
    let runs := (s.agOf g a).runs
    runs.zipIdx.flatMap fun x =>
      if runBounds g x.1 = false then []
      else (decided x.1 ((s.mprog g).run x.1.word).1.ntiles lf lo hi).filterMap fun t =>
        if s.tileReady g a (runs.take x.2) x.1 t then none else some (s.mPort g (s.runPort x.1).1 (s.runPort x.1).2)).eraseDups

/-- A tile of a run begins: it pops its handle (R266). -/
def beginTile (s : State) (g a i : Nat) (x : AgRun) : State :=
  if x.word.bit 47 ∧ x.handles = [] then
    match s.popHandle g (x.word.field 46 1) with
    | some (s1, h) => s1.onAg g a fun q => { q with runs := q.runs.set i { x with handles := [h] } }
    | none => s
  else s

/-- The source of a READ tile from the M-cell's own rows. -/
def ownSrc (s : State) (g a : Nat) (x : AgRun) : TileSrc :=
  let d := descOf x.desc
  let c := x.comp.map descOf
  let h := match x.handles with | v :: _ => v.toNat % 2 ^ 11 | [] => 0
  let own := fun (b : Nat) => s.ownByte (g * 2 ^ 20 + b % 2 ^ 20)
  ⟨d, c, x.tile, tileBase d false x.tile h, (match c with | some y => tileBase y false x.tile 0 | none => 0), own, own,
    tileDraws d (s.agOf g a).gen (x.drawn + x.tile * tileDrawn d)⟩

/-- The rows that line `k` of an own-row READ takes its bits from. -/
def lineRows (x : TileSrc) (k : Nat) : List Nat :=
  ((x.inLine k).filterMap fun q => if x.d.valid x.t q.1 q.2 then
    some ((x.base + q.1 * x.d.pitch + fmtBits x.d.fmt * q.2 / 8) % 2 ^ 20 / 512) else none).eraseDups

/-- One line of a READ: its value, its row accesses, and its events (R238, R254, R268). -/
def readLine (s : State) (g a : Nat) (x : AgRun) (k : Nat) : State × Line × List (Nat × Nat) :=
  if x.word.bit 51 then
    let r := s.ringOf g (x.word.field 49 2)
    let row := slotRow r r.head + k / 8
    let s1 := if k % 8 = 0 then (s.rowAccess g row).checkRow g row else s
    (s1, s.slotLine g r r.head k, if r.pads.any fun q => q.1 == r.head && q.2.contains k then [(g / 288, 0)] else [])
  else
    let src := s.ownSrc g a x
    let rows := lineRows src k
    let new := if k = 0 then rows else rows.filter fun r => !(lineRows src (k - 1)).contains r
    (new.foldl (fun t r => (t.rowAccess g r).checkRow g r) s, src.line k, (src.notes k).map fun n => (g / 288, n))

/-- A READ's lines leave together on its path: a near port's two, or one into the switch (R71, R186, R249). -/
def emitLines (s : State) (g t : Nat) (x : AgRun) (l1 l2 : Line) : State :=
  let d := descOf x.desc
  let p := mcellSite g
  if runWidth x.word d = 2 then s.sendNear p (x.word.field 52 3) t (l1, l2)
  else s.sendLocal p (s.mcell g).ctx t { idleWord with dv := true, data := l1 }

/-- The tile that has moved its last line is over: its run goes to the next tile, or is over (R249). -/
def endTile (s : State) (g a i : Nat) (x : AgRun) : State :=
  let d := descOf x.desc
  let s1 := if x.word.bit 51 ∧ d.op = 1 then
      s.onMRing g (x.word.field 49 2) fun r => { r with head := (r.head + 1) % r.slots, full := r.full - 1 }
    else s
  s1.onAg g a fun q => { q with runs := q.runs.set i { x with tile := x.tile + 1, line := 0, handles := x.handles.drop 1 } }

/-- The last line that carries bits of memory row `row` of an own-row WRITE's tile: for each tile row that touches it, the line of the
last element there, to the end of that element's block (R178, R188, R191). -/
def rowLine (d : Desc) (gs : List (Nat × Seg)) (cs : List (Nat × Seg)) (row : Nat) : Nat :=
  let lines := gs.filterMap fun q =>
    let lo := max q.2.at_ (4096 * row)
    let hi := min (q.2.at_ + q.2.n) (4096 * (row + 1))
    if hi ≤ lo then none
    else
      let c := (hi - 1 - q.2.at_) / fmtBits d.fmt
      let e := if d.converts ∧ d.fmt ≤ 6 then min (d.tc - 1) (c / 32 * 32 + 31) else c
      some (q.1 * d.rowLines + fmtBits d.efmt * e / 512)
  let scales := cs.filterMap fun q =>
    if q.2.at_ + q.2.n ≤ 4096 * row ∨ 4096 * (row + 1) ≤ q.2.at_ then none else some ((q.1 + 1) * d.rowLines - 1)
  (lines ++ scales).foldl max 0

/-- What a WRITE tile stores, from the lines that have arrived: the bits of both planes, each with its tile row, and the events
(R191, R193, R194). -/
def tileBits (s : State) (g a : Nat) (x : AgRun) (t : Nat) (lines : List Line) : List Seg × List Seg × List Nat :=
  let d := descOf x.desc
  let c := x.comp.map descOf
  tileSegs d c t (tileBase d false t 0) (match c with | some y => tileBase y false t 0 | none => 0) lines
    (tileDraws d (s.agOf g a).gen (x.drawn + t * tileDrawn d))

/-- The tile row of a segment, by its address. -/
def rowOf (base pitch : Nat) (q : Seg) : Nat := (q.at_ / 8 - base) / max pitch 1

/-- The lines of a WRITE into the M-cell's own rows that arrive in cycle `t`, `lo` to `hi - 1` of the tile: each memory row is written
once its last line is there (R191, R239, R245). -/
def storeOwn (s : State) (g a : Nat) (x : AgRun) (t lo hi : Nat) (lines : List Line) : State :=
  let d := descOf x.desc
  let (gs, cs, _) := s.tileBits g a x x.tile lines
  let base := tileBase d false x.tile 0
  let c := (x.comp.map descOf).getD default
  let cb := tileBase c false x.tile 0
  let rgs := gs.map fun q => (rowOf base d.pitch q, q)
  let rcs := cs.map fun q => (rowOf cb c.pitch q, q)
  let all := gs ++ cs
  ((segUnits all 512).filter fun r => let k := rowLine d rgs rcs r; lo ≤ k && k < hi).foldl (fun u r =>
    let p := unitPart all (512 * r) 512
    u.scheduledWrite g ⟨t, r % 2048, p.1, p.2, false, false, none⟩) s

/-- The lines of a WRITE ring that arrive, `lo` to `hi - 1` of the tile's `n`: each row of the slot at HEAD is written once its eight
lines, or the tile's last, are there; with the last line the slot passes to the drainer (R255). -/
def storeSlot (s : State) (g j lo hi n : Nat) (lines : List Line) : State :=
  let r := s.ringOf g j
  let rows := (List.range (ceilDiv n 8)).filter fun i => let k := min (8 * i + 7) (n - 1); lo ≤ k && k < hi
  let s1 := rows.foldl (fun u i =>
    (u.rowAccess g (slotRow r r.head + i)).writeRow g (slotRow r r.head + i) ((u.slotRows ((lines.drop (8 * i)).take 8)).headD [])) s
  if hi ≥ n then (s1.spend 512).onMRing g j fun r => { r with head := (r.head + 1) % r.slots, full := r.full + 1 } else s1

/-- A tile that the lead line held goes to the slot at HEAD whole (R92, R255). -/
def storeLead (s : State) (g j : Nat) (lines : List Line) : State :=
  let r := s.ringOf g j
  (s.putSlot g r r.head lines).onMRing g j fun r => { r with head := (r.head + 1) % r.slots, full := r.full + 1 }

/-- A COLUMN tile moves from the staging store to its ring slot or its rows: one row a cycle, from the cycle after its last column on
(R189, R252). -/
def storeColumn (s : State) (g a : Nat) (x : AgRun) (t : Nat) (lines : List Line) : State :=
  if x.word.bit 51 then
    let j := x.word.field 49 2
    let r := s.ringOf g j
    let rows := s.slotRows lines
    let ws := rows.zipIdx.map fun q =>
      (⟨t + 1 + q.2, slotRow r r.head + q.2, 2 ^ 4096 - 1, ofBytes q.1, false, false, if q.2 + 1 = rows.length then some j else none⟩ : RowWrite)
    ((s.spend 512).onMCell g fun m => { m with later := m.later ++ ws }).onMRing g j fun r => { r with head := (r.head + 1) % r.slots }
  else
    let (gs, cs, _) := s.tileBits g a x x.tile lines
    let all := gs ++ cs
    let ws := (segUnits all 512).zipIdx.map fun q =>
      let p := unitPart all (512 * q.1) 512
      (⟨t + 1 + q.2, q.1 % 2048, p.1, p.2, false, false, none⟩ : RowWrite)
    s.onMCell g fun m => { m with later := m.later ++ ws }

/-- A finished tile of a WRITE to another M-cell goes to the generator's send buffer, its handle behind it (R259, R265, R266). -/
def storeRemote (s : State) (g a : Nat) (x : AgRun) (lines : List Line) : State :=
  let d := descOf x.desc
  let (gs, cs, _) := s.tileBits g a x x.tile lines
  let all := gs ++ cs
  let ents := (segUnits all 512).map fun r => let p := unitPart all (512 * r) 512; SendEnt.row a (512 * r) p.1 p.2
  let first := tileBase d false x.tile 0 / 512
  let last := (tileBase d false x.tile 0 + (d.tr - 1) * d.pitch + ceilDiv (fmtBits d.fmt * d.tc) 8 - 1) / 512
  let push := if x.word.bit 45 then
      [SendEnt.push a (taOfs d.ta / 2 ^ 20 % 4096) (x.word.field 46 1)
        (BitVec.ofNat 32 (first % 2048 + (last - first) % 2048 * 2 ^ 11 + x.tile % 1024 * 2 ^ 22))]
    else []
  s.onMCell g fun m => { m with send := m.send ++ ents ++ push }

/-- A WRITE takes the words of cycle `t` from its path's input queue; an empty queue is QUEUE_UNDERFLOW (R81, R249). -/
def takeLines (s : State) (g : Nat) (x : AgRun) : Option (State × List Line) :=
  let port := x.word.field 52 3
  match (s.mcell g).inQ.getD port [] with
  | [] => none
  | w :: r => some (s.onMCell g fun m => { m with inQ := setPad m.inQ port r [] }, if port = 5 then [w.1] else [w.1, w.2])

/-- What a run does in cycle `t`: the lines of its present tile that move in it (R249). -/
def runCycle (s : State) (g a i t : Nat) : State × List (Nat × Nat) :=
  match (s.agOf g a).runs[i]? with
  | none => (s, [])
  | some x0 =>
    let d := descOf x0.desc
    let w := runWidth x0.word d
    let c := x0.s0 + x0.tile * x0.word.field 8 17
    if x0.tile ≥ d.ntiles ∨ t < c + x0.line / w then (s, [])
    else
      let s0 := s.beginTile g a i x0
      let x := ((s0.agOf g a).runs[i]?).getD x0
      let n := d.nlines
      let last := x.line + w ≥ n
      if d.op = 1 then
        let (s1, l1, n1) := s0.readLine g a x x.line
        let (s2, l2, n2) := if w = 2 ∧ x.line + 1 < n then s1.readLine g a x (x.line + 1) else (s1, 0, [])
        let s3 := s2.emitLines g t x l1 l2
        (if last then s3.endTile g a i x else s3.onAg g a fun q => { q with runs := q.runs.set i { x with line := x.line + w } }, n1 ++ n2)
      else match s0.takeLines g x with
        | none => (s0.siteFault (mcellSite g).key 3 (if x.word.field 52 3 = 5 then 5 else 6) (some .m), [])
        | some (s1, ls) =>
          let got := x.got ++ ls.take (n - x.line)
          let j := x.word.field 49 2
          let ready := x.word.bit 51 = false ∨ (s1.ringOf g j).full < (s1.ringOf g j).slots
          let whole : Bool := last && decide (got.length = n)
          let next := fun (u : State) (keep : List Line) =>
            if last then u.endTile g a i { x with got := keep }
            else u.onAg g a fun q => { q with runs := q.runs.set i { x with got := keep, line := x.line + w } }
          let notes := if whole ∧ x.word.bit 51 = false then ((s1.tileBits g a x x.tile got).2.2).map fun m => (g / 288, m) else []
          if ready = false ∨ got.length ≠ min n (x.line + w) then (next s1 got, [])
          else if d.layout = 3 then (next (if whole then s1.storeColumn g a x t got else s1) (if last then [] else got), notes)
          else if x.word.bit 51 then (next (s1.storeSlot g j x.line (x.line + w) n got) (if last then [] else got), [])
          else if taOfs d.ta / 2 ^ 20 % 4096 = g then (next (s1.storeOwn g a x t x.line (x.line + w) got) (if last then [] else got), notes)
          else (next (if whole then s1.storeRemote g a x got else s1) (if last then [] else got), notes)

/-- Tiles of a WRITE ring that the lead line holds move to the slot at HEAD once it is free (R92, R255). -/
def flushRun (s : State) (g a i : Nat) : State :=
  match (s.agOf g a).runs[i]? with
  | none => s
  | some x =>
    let n := (descOf x.desc).nlines
    let j := x.word.field 49 2
    if (descOf x.desc).op = 2 ∧ x.word.bit 51 ∧ x.got.length ≥ n + x.line ∧ n > 0 ∧ (s.ringOf g j).full < (s.ringOf g j).slots then
      (s.storeLead g j (x.got.take n)).onAg g a fun q => { q with runs := q.runs.set i { x with got := x.got.drop n } }
    else s

end State

/-! The commands of a descriptor program. -/

/-- END (R248): the generator's program ends. -/
def agEndOp (cell ag : Nat) (s : State) : State := s.onAg cell ag fun x => { x with ended := true }

/-- RUN of a descriptor (R249): the run begins at S = T + DLY, and T goes to its end. -/
def agRunOp (cell ag : Nat) (word : Word) (upset : List (Nat × Nat)) (s : State) : State :=
  let p := s.mprog cell
  let i := word.field 55 5
  let (d, c) := p.run word
  (s.spoil cell upset).onAg cell ag fun x =>
    let s0 := x.t + word.field 25 20
    closeLoops 5 { x with
      t := s0 + d.ntiles * word.field 8 17,
      pc := x.pc + 1,
      drawn := x.drawn + d.ntiles * tileDrawn d,
      runs := x.runs ++ [⟨word, p.descs.getD i [], c.map fun _ => p.descs.getD (i + 1) [], s0, 0, 0, [], [], x.drawn⟩] }

/-- LOOP (R248): the BODY instructions that follow, COUNT times, without end for 0. -/
def agLoopOp (cell ag count body : Nat) (s : State) : State :=
  s.onAg cell ag fun x => closeLoops 5 { x with
    pc := x.pc + 1,
    loops := if body = 0 then x.loops else (x.pc + 1, x.pc + 1 + body, count, count == 0) :: x.loops }

/-- Ring `rng` of an M-cell is configured by generator `ag`, and empty; its fetcher or drainer starts (R253, R254). -/
def State.setRing (s : State) (cell ag rng base srows slots : Nat) : State :=
  let p := s.mprog cell
  let isWrite := match ringRuns (p.ag.getD ag []) rng with | w :: _ => (p.run w).1.op == 2 | [] => false
  s.onMRing cell rng fun _ => ⟨base, srows, slots, isWrite, true, 0, 0, 0, false, 0, 0, [], []⟩

/-- RING (R253, R254): ring RNG is configured, and the generator goes on. -/
def ringOp (cell ag rng base srows slots : Nat) (s : State) : State :=
  if base + srows * slots > 2048 ∨ rng ≥ 4 then s else (s.setRing cell ag rng base srows slots).agNext cell ag

/-- WIN (R260): window W is set. -/
def winOp (cell w mode cnt base len : Nat) (s : State) : State :=
  s.setReg (rwin (cell / 288) (cell % 288) (w % 8))
    (BitVec.ofNat 64 (base % 2 ^ 11 + len % 2 ^ 12 * 2 ^ 11 + mode % 4 * 2 ^ 23 + cnt % 16 * 2 ^ 25))

/-- SETA (R262): arrival counter CNT holds VALUE, plus the counted writes of the same cycle as far as it holds them. -/
def setaOp (cell cnt : Nat) (value : BitVec 32) (counted : Nat) (s : State) : State :=
  s.setCountedCell cell (cnt % 16) value.toNat counted

/-- HQB (R265): queue Q is emptied and bound to the producer, whose credits for it become 16. -/
def hqbOp (cell q prod : Nat) (s : State) : State :=
  let s1 := s.onHq cell (q % 2) fun x => { x with handles := [], prod := some prod }
  if prod / 2 ^ 4 % 512 < 288 then s1.onHq (namedCell prod) (q % 2) fun x => { x with credits := 16 } else s1

/-- RING_FILL (R254): a READ ring whose slot at TAIL is free fetches its next tile into it; its rows take the row slots that are free. -/
def ringFillOp (cell rng : Nat) (s : State) : State :=
  let r := s.ringOf cell rng
  if r.active = false ∨ r.isWrite ∨ r.full ≥ r.slots ∨ r.wait ≠ [] then s
  else match s.ringNext cell rng with
    | some (w, t, n) => (s.fillRing cell rng w t n).serveElastics cell
    | none => s

/-- RING_DRAIN (R255): a WRITE ring drains its completed slot at TAIL, once its rows have been read. -/
def ringDrainOp (cell rng : Nat) (upset : List (Nat × Nat)) (s : State) : State :=
  let r := s.ringOf cell rng
  if r.active = false ∨ r.isWrite = false ∨ r.full = 0 then s
  else match s.ringNext cell rng with
    | some (w, t, n) =>
      let s1 := (s.spoil cell upset).serveElastics cell
      if s1.drainRows cell rng > 0 then s1 else s1.drainRing cell rng w t n
    | none => s

/-- The completed slot at TAIL of a WRITE ring is read and drained at once, as when no pattern schedules the M-cell's rows (R251). -/
def State.drainNow (s : State) (cell rng : Nat) : State :=
  let r := s.ringOf cell rng
  if r.active = false ∨ r.isWrite = false ∨ r.full = 0 then s
  else match s.ringNext cell rng with
    | some (w, t, n) => ((List.range (s.drainRows cell rng)).foldl (fun u _ => u.drainRow cell rng) s).drainRing cell rng w t n
    | none => s

/-- MERGE_WRITEBACK (R243): a row's entry of the merge buffer is written back whole, in a free row slot. -/
def mergeWritebackOp (cell row : Nat) (s : State) : State :=
  if s.slotFree cell row ∧ (s.mergeOf cell row).isSome then (s.takeRow cell row).mergeBack cell row else s

/-- HANDLE_PUSH (R266). -/
def handlePushOp (cell q producer : Nat) (handle : BitVec 32) (glove : Nat) (s : State) : State :=
  s.pushHandle cell (q % 2) producer handle glove

/-- ARV_CNT_WRITE (R262, R283): the value written, plus the counted writes of the same cycle. -/
def arvCntWriteOp (die m n : Nat) (half : Half) (val : Word) (counted : Nat) (s : State) : State :=
  let v := match half with | .hi => (s.reg (arvCnt die m n)).toNat % 2 ^ 32 | _ => val.toNat % 2 ^ 32
  s.setCountedCell (288 * die + m) n v counted

/-- REMOTE_WRITE (R237, R261): a write into an M-cell's rows, within one row, that arrives over the packet plane. -/
def remoteWriteOp (ta : Word) (glove : Nat) (data : List Byte) (upset : Bool) (s : State) : State :=
  let a := ta.toNat
  if taSpace a ≠ 0 ∨ taOfs a / 2 ^ 35 ≠ 0 ∨ a / 2 ^ 20 % 4096 ≥ 2304 ∨ data = [] ∨ a % 512 + data.length > 512 then s
  else s.remoteTo (taOfs a) glove data upset

/-! Narrow requests (R242 to R246, R268). -/

namespace State

/-- The glove that a requester's accesses carry, when it carries one; 64, which no palm has, for a virtual function that no glove
is bound to. -/
def whoGlove (s : State) (w : Requester) : Option Nat :=
  match w with
  | .core _ g _ => some g
  | .host f => if f = 0 then some (s.fld hifWin 18 6) else some (((s.glv.find? fun p => p.2.live && p.2.vf == f).map (·.1)).getD 64)
  | .system _ => none

/-- The access that a requester makes to the near tier (R291, R503). -/
def whoAccess (s : State) (w : Requester) : Access :=
  match w with
  | .core _ g k => ⟨g, k, false⟩
  | .host f =>
    if f = 0 then ⟨s.fld hifWin 18 6, s.fld hifWin 24 8, s.fld hifWin 32 1 == 1⟩
    else let g := (s.whoGlove w).getD 64; ⟨g, (s.glove g).key, false⟩
  | .system _ => ⟨0, 0, true⟩

/-- The die at which a requester stands, the I/O dies from 8 on: a control core's own (R15), and IOD0 for the host. -/
def whoUnit (w : Requester) : Nat :=
  match w with
  | .core c _ _ => c / 4
  | .host _ => 8
  | .system d => d

/-- The compute die whose controller 0 counts a requester's access that has no frame to judge: its own, or the one that its I/O
die's port joins (R635). -/
def whoDie (w : Requester) : Nat := if whoUnit w < 8 then whoUnit w else iodDie (whoUnit w - 8)

/-- A requester of a die that is not fitted or whose control cores a fence has stopped: it makes no request (R15, R591). -/
def whoStopped (s : State) (w : Requester) : Bool :=
  match w with
  | .core c _ _ => if c / 4 < 8 then s.dieFenced (c / 4) else decide (s.variant.iods ≤ c / 4 - 8) || s.aos.iodFenced.contains (c / 4 - 8)
  | _ => false

/-- A narrow access to the near tier (R242, R271, R288, R291, R292, R296, R300, R327): the packed view and a write into a staging
range are refused; a read of a poisoned unit ends as a failed scratchpad read does. The atomic operations of R246 are those of a
row's entry and have none here. -/
def narrowNear (s : State) (who : Requester) (ofs : Nat) (op : NarrowOp) : State :=
  let a := s.whoAccess who
  let lost := fun (write : Bool) => ((s.refuseNoFrame (whoDie who) ofs a write).narrowFault)
  match op with
  | .read len =>
    if [1, 2, 4, 8, 64].contains len = false ∨ ofs % len ≠ 0 then s.narrowFault
    else match s.placeNear a ofs false with
      | .near f u =>
        let d := (s.nearUnit f u).drop (ofs % 64) |>.take len
        if s.poisoned f u = false then s.emit (.readData (some d) false)
        else match who with
          | .host _ => s.emit (.readData (some d) true)
          | _ => s.narrowFault
      | .refused f u r => (s.refuseNear f u r a false).narrowFault
      | _ => lost false
  | .write mask data =>
    let bytes := (List.range 64).filterMap fun i => if mask.getLsbD i then some (i, (lineBytes data).getD i 0) else none
    match s.placeNear a ofs true with
    | .near f u =>
      if bytes = [] then s
      else if s.inStaging ofs then (s.refuseNear f u .bound a true).narrowFault
      else
        let r := s.nearWrite f u (State.byteBits bytes)
        if r.2 then r.1 else r.1.narrowFault
    | .refused f u r => (s.refuseNear f u r a true).narrowFault
    | _ => lost true
  | _ => s.narrowFault

end State

/-- NARROW_REQUEST (R237, R242 to R246, R259, R268, R503). -/
def narrowRequestOp (who : Requester) (ta : Word) (op : NarrowOp) (upset : Bool) (s : State) : State :=
  let a := ta.toNat
  let g := a / 2 ^ 20 % 4096
  let row := a / 2 ^ 9 % 2048
  let ofs := a % 512
  let own := (s.mcellGlove g).getD 64
  let glove := (s.whoGlove who).getD own
  let isWrite : Bool := match op with | .write _ _ => true | _ => false
  let host : Bool := match who with | .host _ => true | _ => false
  if s.whoStopped who then s
  else if taSpace a = 1 ∧ a / 2 ^ 56 = 0 then s.narrowNear who (taOfs a) op
  else if taSpace a ≠ 0 ∨ a / 2 ^ 56 ≠ 0 ∨ taOfs a / 2 ^ 35 ≠ 0 ∨ g ≥ 2304 ∨ (isWrite = false ∧ a / 2 ^ 32 % 8 ≠ 0) then s.narrowFault
  else match op, who with
    | .read len, _ =>
      if [1, 2, 4, 8, 64].contains len = false ∨ a % len ≠ 0 ∨ (host ∧ s.mcellGlove g ≠ some glove) then s.narrowFault
      else s.submitNarrow g ⟨some who, row, ofs, glove, op, [], none, upset⟩
    | .write mask data, _ =>
      -- a write by a mask is judged as a remote write of the bytes it names (R259, R261)
      let bytes := (List.range 64).filterMap fun i => if mask.getLsbD i then some (ofs / 64 * 64 + i, (lineBytes data).getD i 0) else none
      if bytes = [] then s else (s.remoteBytes g row (a / 2 ^ 32 % 8) glove bytes upset (some who)).1
    | .amo wide _ _, .core _ _ _ =>
      if a % (if wide then 8 else 4) ≠ 0 then s.narrowFault else s.submitNarrow g ⟨some who, row, ofs, glove, op, [], none, upset⟩
    | .lr wide, .core _ _ _ =>
      if a % (if wide then 8 else 4) ≠ 0 then s.narrowFault else s.submitNarrow g ⟨some who, row, ofs, glove, op, [], none, upset⟩
    | .sc wide _, .core _ _ _ =>
      if a % (if wide then 8 else 4) ≠ 0 then s.narrowFault else s.submitNarrow g ⟨some who, row, ofs, glove, op, [], none, upset⟩
    | _, _ => s.narrowFault

end Sys2Proof.Machine
end

