-- ==== Sys2Proof/Machine/LoadImage.lean ====
section
/-! DEFINITION. The image loader: reading an image, the checks of its header and records, and writing its records into a slot (R91, R159, R197 to R203, R541 to R543). -/

namespace Sys2Proof.Machine

open Adr

/-- What a refused or failed read of the loader leaves behind: nothing, a near access refused, an access that finds no frame, or a bad
scratchpad row of a die. -/
inductive LoadTrace where
  | nothing
  | near (f u : Nat) (r : NearRef)
  | noFrame (ofs : Nat)
  | badRow (cell row : Nat)

/-- Why a load stops: the status of R203, and what the read leaves behind. -/
structure LoadStop where
  st : Nat
  trace : LoadTrace

/-- A little-endian number in a list of bytes. -/
def leNat (l : List Byte) (ofs n : Nat) : Nat := ofBytes ((l.drop ofs).take n)

/-- Words of a list of bytes. -/
def leWords (l : List Byte) : List Word := (chunk 8 l).map fun b => BitVec.ofNat 64 (ofBytes b)

namespace State

/-- Bytes that the loader of glove `g` reads at a tier address, at most one 64 B unit of them (R203, R286, R291, R296). -/
def loadUnit (s : State) (g ta n : Nat) : Except LoadStop (List Byte) :=
  let a : Access := ⟨g, (s.glove g).key, false⟩
  let ofs := taOfs ta
  let stop := fun (st : Nat) (f : LoadTrace) => (Except.error ⟨st, f⟩ : Except LoadStop (List Byte))
  if taSpace ta = 1 then
    match s.placeNear a ofs false with
    | .near f u => if s.poisoned f u then stop stImage .nothing else .ok ((s.nearUnit f u).drop (ofs % 64) |>.take n)
    | .refused f u r => stop (match r with | .bound => stBound | .owner => stOwner) (.near f u r)
    | _ => stop stBound (.noFrame ofs)
  else if taSpace ta = 0 then
    let c := ofs / 2 ^ 20
    if c ≥ 2304 then stop stBound .nothing
    else if s.mcellGlove c ≠ some g then stop stOwner .nothing
    else if s.badRow c (ofs % 2 ^ 20 / 512) ≠ 0 then stop stImage (.badRow c (ofs % 2 ^ 20 / 512))
    else .ok ((s.rowSeen c (ofs % 2 ^ 20 / 512)).drop (ofs % 512) |>.take n)
  else stop stBound .nothing

/-- `n` bytes that the loader reads, unit by unit: the first refused unit stops the load, and else the first that is poisoned or fails
detection (R203). -/
def loadBytes (s : State) (g ta n : Nat) : Except LoadStop (List Byte) :=
  let u0 := ta / 64
  let got := (List.range (ceilDiv (ta % 64 + n) 64)).map fun i =>
    let lo := if i = 0 then ta % 64 else 0
    s.loadUnit g (64 * (u0 + i) + lo) (min (64 - lo) (n + ta % 64 - 64 * i - lo))
  let stops := got.filterMap fun x => match x with | .error e => some e | .ok _ => none
  match stops.find? fun e => e.st != stImage, stops with
  | some e, _ => .error e
  | none, e :: _ => .error e
  | none, [] => .ok (got.flatMap fun x => match x with | .ok d => d | .error _ => [])

/-- What a stopped load of glove `g` leaves behind (R203, R286, R296). -/
def loadStopped (s : State) (g : Nat) (x : LoadTrace) : State :=
  let a : Access := ⟨g, (s.glove g).key, false⟩
  match x with
  | .nothing => s
  | .near f u r => s.refuseNear f u r a false
  | .noFrame ofs => s.refuseNoFrame ((s.glove g).gsq / 8) ofs a false
  | .badRow c row => s.detect c row (s.badRow c row - 1) 0 g false

/-! Dies and edges of a footprint (R91, R92). -/

end State

/-- Dies that share an edge (R16). -/
def dieNext (a b : Nat) : Bool := (a / 4 == b / 4 && (a + 1 == b || b + 1 == a)) || a + 4 == b || b + 4 == a

/-- The dies reached from `l` in `n` more steps within a mask. -/
def dieReach (adj : Nat → Nat → Bool) (dies : List Nat) : Nat → List Nat → List Nat
  | 0, l => l
  | n + 1, l => dieReach adj dies n (dies.filter fun k => l.contains k || l.any fun j => adj j k)

/-- Whether the dies of a mask are joined through palms of the footprint (R91). -/
def diesJoined (mask : Nat) (palms : BitVec 128) : Bool :=
  let ds := maskDies mask
  ds.all fun k => (dieReach (fun a b => dieNext a b && edgeJoined palms a b) ds 8 [k]).length == ds.length

/-- The die distance D of a pattern (R91, R92). -/
def dieDist (mask : Nat) : Nat :=
  let ds := maskDies mask
  (ds.map fun k => ((List.range 8).find? fun n => (dieReach dieNext ds n [k]).length == ds.length).getD 0).foldl max 0

/-! Headers and records. -/

/-- A header that obeys R198 and R199. -/
def headerOk (h : List Byte) : Bool :=
  let n := fun (o l : Nat) => leNat h o l
  let mask := n 8 1
  n 0 4 == 0x49505A4C && n 4 2 == 1 && n 6 2 < 4 && n 9 7 == 0 && n 0x28 4 != 0 && n 0x2C 4 == 0 && n 0xEC 20 == 0
    && (if n 0xE0 8 = 0 then n 0xE8 4 == 0 else n 0xE8 4 == 656)
    && (List.range 8).all fun k =>
      if mask / 2 ^ k % 2 = 1 then n (0x60 + 16 * k + 7) 1 == 0
      else n (0x60 + 16 * k) 16 == 0 && n (0x50 + 2 * k) 2 == 0

/-- What the sequencer keeps of a header (R198, R199). -/
def imgOf (ta : Nat) (h : List Byte) : ImgInfo :=
  { ta := ta, cls := leNat h 6 2, dies := leNat h 8 1, palms := BitVec.ofNat 128 (leNat h 0x10 16),
    eSwitch := leNat h 0x20 4, reps := leNat h 0x24 4, cycRep := leNat h 0x28 4,
    eRep := (List.range 8).map fun t => leNat h (0x30 + 4 * t) 4, pPeak := (List.range 8).map fun k => leNat h (0x50 + 2 * k) 2 }

/-- A switch slot's payload: its configuration and its route entries (R76, R77, R200); none where it breaks them. -/
def switchOf (d : List Byte) : Option (SwCfg × List (BitVec 32)) :=
  let w := fun (i : Nat) => leNat d (8 * i) 8
  let unit := fun (x : Nat) => (x % 8, (List.range 8).map fun v => x / 2 ^ (5 * v + 3) % 32)
  let p := w 0 % 2 ^ 7 + 1
  let es := (List.range p).map fun i => (BitVec.ofNat 32 (leNat d (24 + 4 * i) 4) : BitVec 32)
  if d.length ≠ 24 + 4 * p ∨ w 0 / 2 ^ 37 ≠ 0 ∨ w 1 / 2 ^ 43 ≠ 0 ∨ w 2 / 2 ^ 43 ≠ 0 ∨ w 1 % 8 > 5 ∨ w 2 % 8 > 5 ∨ (es.any fun e => e.toNat / 2 ^ 30 ≠ 0) then none
  else some (⟨p - 1, (List.range 5).map fun i => w 0 / 2 ^ (7 + 6 * i) % 64, (unit (w 1)).1, (unit (w 1)).2, (unit (w 2)).1, (unit (w 2)).2⟩, es)

/-- Whether a record header obeys R200. -/
def recordHdrOk (h : Nat) : Bool :=
  let len := h / 2 ^ 32
  h / 2 ^ 14 % 2 ^ 18 == 0 && h / 2 ^ 4 % 32 ≤ 23 && h / 2 ^ 9 % 32 ≤ 23
    && (match h % 16 with
      | 1 => len == 2560
      | 2 => 28 ≤ len && len ≤ 536 && len % 4 == 0
      | 3 => 16 ≤ len && len % 8 == 0
      | _ => false)

namespace State

/-- A record's payload judged, and written into slot `slot` of its site (R159, R185, R200, R203). -/
def putRecord (s : State) (p : Site) (slot type : Nat) (d : List Byte) : Except Nat State :=
  match type with
  | 1 =>
    let bs := (chunk 16 (d.take 2048)).map fun b => (BitVec.ofNat 128 (ofBytes b) : BitVec 128)
    let cs := leWords (d.drop 2048)
    if p.isC = false ∨ contextOk p bs cs = false then .error stImage
    else .ok (s.onArr fun a => { a with bundles := a.bundles.putRow ((4 * p.key + slot) * 128) bs,
                                        cws := a.cws.putRow ((4 * p.key + slot) * 64) cs })
  | 2 =>
    match switchOf d with
    | none => .error stImage
    | some (c, es) => .ok (s.onArr fun a => { a with swCfg := a.swCfg.put (4 * p.key + slot) c,
                                                     routes := a.routes.putRow ((4 * p.key + slot) * 128) es })
  | _ =>
    if p.isC then .error stImage
    else if progOk p.mcell (leWords d) = false then .error stDesc
    else .ok (s.onArr fun a => { a with progs := a.progs.put (4 * p.mcell + slot) (leWords d) })

/-- An idle slot of a site (R201). -/
def putIdle (s : State) (p : Site) (slot type : Nat) : State :=
  match type with
  | 1 => s.onArr fun a => { a with bundles := a.bundles.clear ((4 * p.key + slot) * 128) 128,
                                   cws := (a.cws.clear ((4 * p.key + slot) * 64) 64).put ((4 * p.key + slot) * 64 + 1) (2 ^ 8) }
  | 2 => s.onArr fun a => { a with swCfg := a.swCfg.put (4 * p.key + slot) default,
                                   routes := a.routes.clear ((4 * p.key + slot) * 128) 128 }
  | _ => s.onArr fun a => { a with progs := a.progs.put (4 * p.mcell + slot) [] }

/-- What a load has done so far: the state, the records' (site, type), and why it stopped. -/
structure Loading where
  s : State
  done : List (Nat × Nat)
  stop : Option Nat

def Loading.fail (x : Loading) (st : Nat) : Loading := { x with stop := some st }

/-- Whether a switch slot takes data from its local port, so that a tree can have its root there (R77, R82, R186). -/
def takesLocal (s : State) (k slot : Nat) : Bool :=
  let c := s.arr.swCfg.at (4 * k + slot)
  c.sel0 == 5 || c.sel1 == 5 || (s.arr.routes.row ((4 * k + slot) * 128) (c.p1 + 1)).any fun e =>
    (List.range 5).any fun i => e.toNat / 2 ^ (3 * i) % 8 == 5

/-- Whether a descriptor program names no tree that is not rooted at its own M-cell: the M-cell's switch, in the same image, takes data
from its local port (R186). -/
def treesRooted (s : State) (g slot : Nat) (done : List (Nat × Nat)) : Bool :=
  let k := (mcellSite g).key
  let trees := (progOf (s.arr.progs.at (4 * g + slot))).descs.any fun w => let d := descOf w; !d.scl && d.op == 1 && d.mcg != 0
  !trees || (done.contains (k, 2) && s.takesLocal k slot)

/-- The records of a part from byte `pos` on (R200, R203). A record is read as far as the part goes, and is judged after that. -/
def loadRecords (g slot die ta len : Nat) (palms : BitVec 128) : Nat → Nat → Loading → Loading
  | 0, _, x => x
  | n + 1, pos, x =>
    if x.stop.isSome ∨ pos ≥ len then x
    else match x.s.loadBytes g (ta + pos) (min 8 (len - pos)) with
      | .error e => { x with s := x.s.loadStopped g e.trace, stop := some e.st }
      | .ok hb =>
        let h := ofBytes hb
        let plen := h / 2 ^ 32
        let full := 8 * ceilDiv plen 8
        let p : Site := ⟨die, h / 2 ^ 4 % 32, h / 2 ^ 9 % 32⟩
        match x.s.loadBytes g (ta + pos + 8) (min plen (len - pos - 8)) with
        | .error e => { x with s := x.s.loadStopped g e.trace, stop := some e.st }
        | .ok d =>
          if pos + 8 + full > len ∨ recordHdrOk h = false then x.fail stImage
          else if palms.getLsbD p.palm = false then x.fail stBound
          else match x.s.putRecord p slot (h % 16) d with
            | .error st => x.fail st
            | .ok t => loadRecords g slot die ta len palms n (pos + 8 + full) { x with s := t, done := (p.key, h % 16) :: x.done }

/-- The records of one part, and what is judged at its end: their number, and each tree's root (R186, R203). -/
def partRecords (g slot : Nat) (h : List Byte) (x : Loading) (k : Nat) : Loading :=
  let palms := BitVec.ofNat 128 (leNat h 0x10 16)
  let len := leNat h (0x68 + 16 * k) 4
  let z := loadRecords g slot k (leNat h (0x60 + 16 * k) 7) len palms (len / 8 + 2) 0 x
  let cells := (palmSet palms).flatMap palmMCells |>.filter fun m => m / 288 == k && z.done.contains ((mcellSite m).key, 3)
  if z.stop.isSome then z
  else if z.done.length - x.done.length ≠ leNat h (0x6C + 16 * k) 4 then z.fail stImage
  else if (cells.all fun m => z.s.treesRooted m slot z.done) = false then z.fail stDesc
  else z

/-- One part, and its digest when the image is signed (R203, R543). -/
def loadPart (g slot : Nat) (h : List Byte) (pdig : Option (List Byte)) (x : Loading) (k : Nat) : Loading :=
  if x.stop.isSome then x
  else
    let y := partRecords g slot h x k
    match y.stop, pdig with
    | none, some b =>
      (match y.s.loadBytes g (leNat h (0x60 + 16 * k) 7) (leNat h (0x68 + 16 * k) 4) with
        | .ok d => if Config.shake256 d 64 = (b.drop (0x10 + 64 * k)).take 64 then y else y.fail stSig
        | .error _ => y.fail stSig)
    | _, _ => y

/-- The signature check of a header (R203, R541 to R543): the signature block when there is one. -/
def loadSig (s : State) (g : Nat) (h : List Byte) : Except Nat (Option (List Byte)) :=
  let key := s.keys.at (s.glove g).key
  let ta := leNat h 0xE0 8
  if ta = 0 then (if key.reqSig then .error stSig else .ok none)
  else match s.loadBytes g ta 656 with
    | .error _ => .error stSig
    | .ok b =>
      let digest := Config.shake256 (h.take 0xE0 ++ (b.drop 0x10).take 512) 64
      if leNat b 0 4 = 0x47535A4C ∧ leNat b 4 2 = 1 ∧ leNat b 6 10 = 0 ∧ leNat b 0x282 14 = 0
          ∧ Config.ed448 key.pub digest ((b.drop 0x210).take 114) "LZ3-PATTERN" then .ok (some b)
      else .error stSig

/-- The header's own checks, in order (R203): a status, when one fails. -/
def headerStop (s : State) (g : Nat) (h : List Byte) : Option Nat :=
  let i := imgOf 0 h
  let palms := palmSet i.palms
  if headerOk h = false then some stImage
  else if palms.any fun p => (s.palm p).glove ≠ some g then some stBound
  else if diesJoined i.dies i.palms = false then some stImage
  else if (s.mstate = .early ∧ i.cls % 2 = 0) ∨ ((maskDies i.dies ++ palms.map (· / 16)).any fun k => (s.die k).bring ≠ 4) then some stConflict
  else if i.cls / 2 % 2 = 1 ∧ s.mem.lz2Glove.isSome ∧ s.mem.lz2Glove ≠ some g then some stConflict
  else none

/-- The whole load of the image at `ta` into `slot` (R201, R203): the state and the status. -/
def loadImage (s : State) (g slot ta : Nat) : State × Nat :=
  match s.loadBytes g ta 256 with
  | .error e => (s.loadStopped g e.trace, e.st)
  | .ok h =>
    match s.headerStop g h with
    | some st => (s, st)
    | none =>
      match s.loadSig g h with
      | .error st => (if leNat h 0xE0 8 = 0 then s else s.raise secEvt 0, st)
      | .ok sig =>
        let i := imgOf ta h
        let x := (maskDies i.dies).foldl (loadPart g slot h sig) ⟨s, [], none⟩
        match x.stop with
        | some st => (x.s, st)
        | none =>
          let idle := ((palmSet i.palms).flatMap palmSites).foldl (fun t p =>
            let t1 := if x.done.contains (p.key, 2) then t else t.putIdle p slot 2
            let ty := if p.isC then 1 else 3
            if x.done.contains (p.key, ty) then t1 else t1.putIdle p slot ty) x.s
          (idle.onSeq fun b => { b with imgs := b.imgs.put (4 * g + slot) i }, stOK)

end State

end Sys2Proof.Machine
end

