-- ==== Sys2Proof/Machine/Patterns.lean ====
section
/-! DEFINITION. Running patterns: loads, armed switches, the switch cycle, the pattern cycle, freezes, faults and done (R92 to R101, R119, R153 to R158, R202 to R207, R215 to R217, R251, R252). -/

namespace Sys2Proof.Machine

open Adr

namespace State

/-! Waits that a pattern or a load ends (R211, R212). -/

/-- The state of a slot, looking through an armed switch to what the slot was. -/
def slotBase (s : State) (q slot : Nat) : SlotState :=
  let x := s.gsq q
  match x.arm with
  | some a => if a.slot = slot then a.was else x.slots.getD slot .empty
  | none => x.slots.getD slot .empty

/-- A slot of a sequencer in another state; an armed slot stays ARMED and remembers it. -/
def setSlot (s : State) (q slot : Nat) (st : SlotState) : State :=
  s.onGsq q fun x =>
    match x.arm with
    | some a => if a.slot = slot then { x with arm := some { a with was := st } } else { x with slots := setPad x.slots slot st .empty }
    | none => { x with slots := setPad x.slots slot st .empty }

/-- Whether a switch out of a slot is pending (R211). -/
def outPending (s : State) (q slot : Nat) : Bool :=
  let x := s.gsq q
  x.slots.getD slot .empty == .active
    && ((match x.sw with | some r => r.slot != slot | none => false) || (match x.arm with | some a => a.slot != slot | none => false))

/-- A load begins: refused at once when its slot is ACTIVE or ARMED (R203). -/
def startLoad (s : State) (q slot ta : Nat) : State :=
  let st := (s.gsq q).slots.getD slot .empty
  if st = .active ∨ st = .armed then
    (s.onGsq q fun x => { x with loadSt := setPad x.loadSt slot stConflict 0 }).raise (gsqEvt q) 3
  else (s.setSlot q slot .loading).onGsq q fun x => { x with load := some (slot, ta), loadSt := setPad x.loadSt slot 0 0 }

/-- A LOAD that waits for its turn starts once it may (R211). -/
def wakeLoadTurn (s : State) (q : Nat) : State :=
  match (s.gsq q).waitFor with
  | some (.loadTurn slot ta) =>
    if (s.gsq q).load.isSome ∨ s.outPending q slot then s else (s.startLoad q slot ta).gsqSt q stOK
  | _ => s

/-- WAIT LOADED ends once its slot is no longer LOADING (R212). -/
def wakeLoaded (s : State) (q : Nat) : State :=
  match (s.gsq q).waitFor with
  | some (.loaded slot) =>
    match s.slotBase q slot with
    | .loading => s
    | .empty => s.gsqSt q stSlotNotReady
    | _ => s.gsqSt q ((s.gsq q).loadSt.getD slot 0)
  | _ => s

/-- Whether a switch requested by SWI or RUN has not yet been taken (R212). -/
def swPending (s : State) (q : Nat) : Bool := match (s.gsq q).sw with | some r => !r.fromArm | none => false

/-- Whether a switch is armed: named and not reached, or reached and not yet taken (R212, R216). -/
def armPending (s : State) (q : Nat) : Bool := (s.gsq q).arm.isSome || (match (s.gsq q).sw with | some r => r.fromArm | none => false)

/-- WAIT DONE ends once the active pattern is done and no requested switch is left (R212). -/
def wakeDone (s : State) (q : Nat) : State :=
  match (s.gsq q).waitFor with
  | some .done => if s.swPending q = false ∧ (s.pat (s.gsqGlove q)).valid ∧ (s.pat (s.gsqGlove q)).done then s.gsqSt q stOK else s
  | _ => s

/-- WAIT SWITCHED ends once no switch is armed, with the status of the last one (R212, R216). -/
def wakeSwitched (s : State) (q : Nat) : State :=
  match (s.gsq q).waitFor with
  | some .switched => if s.armPending q then s else s.gsqSt q (s.gsq q).swStatus
  | _ => s

/-- What waits on patterns, loads and switches is judged again. -/
def wakePattern (s : State) (q : Nat) : State := (((s.wakeDone q).wakeLoaded q).wakeSwitched q).wakeLoadTurn q

/-! Freezes (R92 to R97). -/

/-- Ports raise freeze at the present cycle, or join one: the pattern stops before cycle d + L_f (R94, R110, R113, R115). Of several in
one cycle ARR_FRZ_LAST of a die names the last in the order of the sites' M-cells. -/
def raiseFreeze (s : State) (g : Nat) (p : PortRef) : State :=
  let x := s.pat g
  let still : Bool := match x.stopAt with | some c => decide (c ≤ x.cycle) | none => false
  if s.patRuns g = false ∨ x.faulted ∨ x.stopped ∨ still ∨ x.frozen.contains p ∨ x.released.contains p then s
  else
    let s1 := s.onPat g fun y => { y with
      frozen := y.frozen ++ [p],
      freezing := true,
      stopAt := some (match y.stopAt with | some c => min c (y.cycle + y.lf) | none => y.cycle + y.lf) }
    let s2 := if x.freezing then s1 else (s.patDies g).foldl (fun t k => t.raise (arrEvt k) 4) s1
    s2.setReg (arrFrzLast p.die) (BitVec.ofNat 64
      (g + (if p.output then 2 ^ 6 else 0) + p.cls % 4 * 2 ^ 7 + p.row % 32 * 2 ^ 9 + p.col % 32 * 2 ^ 14))

/-- Whether the pattern of a glove stands frozen (R94). -/
def patFrozen (s : State) (g : Nat) : Bool :=
  let x := s.pat g
  x.freezing && (match x.stopAt with | some c => decide (c ≤ x.cycle) | none => false)

/-! The switch cycle (R119, R155, R156, R251, R252). -/

/-- The sites of an image's footprint. -/
def imgSites (i : ImgInfo) : List Site := (palmSet i.palms).flatMap palmSites

/-- The words in a cell's input queues. -/
def queued (l : List (List (Line × Line))) : Nat := (l.map List.length).foldl (· + ·) 0

/-- What a C-cell loses at the switch cycle (R156): operations in flight, counted; the banks of abandoned MMAs undefined;
input words, counted. -/
def abandonCell (s : State) (p : Site) : State :=
  let c := s.cell p.key
  let ops := (((c.due.map fun (d : DueWrite) => (d.iss, d.slot)) ++ (c.takes.map fun (t : TakeSt) => (t.iss, 1))
    ++ (c.mma.map fun (m : MmaSt) => (m.iss, 3))).eraseDups.length)
    + (if c.placing = [] then 0 else 1) + (if c.token.isSome then 1 else 0)
  let words := queued c.inQ
  let s1 := if ops = 0 then s else s.raise (celEvt p.die) 1 ops
  let s2 := if words = 0 then s1 else s1.raise (celEvt p.die) 2 words
  (c.mma.map (·.bank)).eraseDups.foldl (fun t b =>
    (t.onArr fun a => { a with acc := a.acc.putRow ((2 * p.key + b) * 6144) ((List.range 6144).map fun i =>
        some ((Config.freeWord (t.freeCtr + i)).setWidth 32)) }).spend 6144) s2

/-- What an M-cell's outgoing program leaves at a switch: its WRITE rings drain every completed slot and its send buffer
empties; READ rings lose their slots (R251, R259). A write that a seal holds stays with its controller (R300), and the slots behind
it drain all the same. -/
def abandonMCell (s : State) (g : Nat) : State :=
  let free := fun (t : State) (j : Nat) => if (t.ringOf g j).held then t.onMRing g j RingSt.freed else t
  let drainAll := fun (s : State) (j : Nat) => (List.range 16).foldl (fun t _ => free ((free t j).drainNow g j) j) s
  let s1 := (List.range 4).foldl drainAll s
  (List.range (s1.mcell g).send.length).foldl (fun t _ => t.drainSend g) s1

/-- Whether a completed slot of an outgoing WRITE ring still waits for a page of the LZ2 view. -/
def drainWaits (s : State) (g : Nat) : Bool :=
  (s.glovePalms g).any fun p => (palmMCells p).any fun c => (List.range 4).any fun j =>
    let r := s.ringOf c j
    r.active && r.isWrite && r.full > 0 && (match s.ringNext c j with
      | some (w, t, _) =>
        let (d, _) := (s.mprog c).run w
        s.missing (s.cellAccess c) d (w.bit 48) (readUnits d t (tileBase d (w.bit 48) t 0) 64) true != []
      | none => false)

/-- A site as it stands in pattern cycle 0 of slot `slot` (R83, R119, R251, R252). -/
def enterSlot (s : State) (slot : Nat) (p : Site) : State :=
  let s1 := s.onArr fun a => { a with steer := (a.steer.put (2 * p.key) default).put (2 * p.key + 1) default,
                                      transit := a.transit.put p.key [], arrivals := a.arrivals.put p.key [] }
  if p.isC then
    s1.onCell p.key fun _ =>
      { (default : CellSt) with ctx := slot, masks := List.replicate 7 0,
                                gen := seedGen ((s.arr.cws.at ((4 * p.key + slot) * 64 + 18)).setWidth 32) }
  else
    let g := p.mcell
    let seed := ((s.arr.progs.at (4 * g + slot)).getD 0 0).field 32 32
    let ag := fun (a : Nat) => { (default : AgSt) with gen := seedGen (BitVec.ofNat 32 (seed ^^^ (2 * g + a))) }
    s1.onMCell g fun m => { m with ctx := slot, rings := [], ag := [ag 0, ag 1], inQ := [], banks := [], later := [] }

/-- The requested switch of a sequencer is taken: pattern cycle 0 of the incoming context (R155, R156, R215, R216). A switch that was
held or deferred says so in ST, or, when it was armed, to WAIT SWITCHED. -/
def takeSwitch (s : State) (g q : Nat) (r : SwReq) (held : Bool) (vcore : List Nat) : State :=
  let old := s.pat g
  let i := s.img g r.slot
  let s1 := if s.patRuns g then s.takeLowerings g else s
  let s2 := (s1.glovePalms g).foldl (fun t p => (palmSites p).foldl (fun u x => if x.isC then u.abandonCell x else u.abandonMCell x.mcell) t) s1
  let s3 := (s2.glovePalms g).foldl (fun t p => t.stopPalm p) s2
  let s4 := (imgSites i).foldl (fun t x => t.enterSlot r.slot x) s3
  let s5 := s4.onPat g fun _ => { (default : PatSt) with slot := r.slot, valid := true, dist := dieDist i.dies, lf := 2 + 8 * dieDist i.dies }
  let s6 := ((s5.readVcore vcore).startWindow g r.raw).addEst i r.raw
  let st := if held then 0x01 else if r.deferred then 0x02 else stOK
  (s6.onGsq q fun x =>
    { x with sw := none, swStatus := if r.fromArm then st else x.swStatus, st := if r.fromArm ∨ st = stOK then x.st else st,
             slots := setPad (if old.valid ∧ old.slot ≠ r.slot then setPad x.slots old.slot .loaded .empty else x.slots) r.slot .active .empty }).wakePattern q

/-! The pattern cycle. -/

/-- A cell exception of an operation that issued earlier. -/
def cellFaultOf (s : State) (k cause slot : Nat) (iss : IssueSt) : State :=
  let keep := (s.cell k).iss
  ((s.onCell k fun c => { c with iss := iss }).cellFault k cause slot 0).onCell k fun c => { c with iss := keep }

/-- One result is written (R119, R141, R151). -/
def applyWrite (s : State) (k : Nat) (w : CellWrite) : State :=
  match w with
  | .vreg r v lanes => s.onArr fun a => { a with vregs := a.vregs.put (64 * k + r) (some (mergeLanes lanes v (s.vregAt k r))) }
  | .mask m v sel => s.onCell k fun c => { c with masks := setPad c.masks (m - 1) ((v &&& sel) ||| (c.masks.getD (m - 1) 0 &&& ~~~ sel)) 0 }
  | .flag f v => s.onCell k fun c =>
      { c with flags := if v then c.flags ||| BitVec.ofNat 4 (2 ^ f) else c.flags &&& ~~~(BitVec.ofNat 4 (2 ^ f)) }
  | .ep v => s.onCell k fun c => { c with ep := v }
  | .line b n v => s.onArr fun a => { a with obs := a.obs.put ((2 * k + b) * 512 + n) (some v) }
  | .accCol b col v => s.onArr fun a =>
      { a with acc := (List.range 64).foldl (fun m r => m.put (((2 * k + b) * 64 + r) * 96 + col) (some (lane v r))) a.acc }
  | .accZero b => s.onArr fun a => { a with acc := a.acc.putRow ((2 * k + b) * 6144) (List.replicate 6144 (some 0)) }
  | .accAll b v => s.onArr fun a => { a with acc := a.acc.putRow ((2 * k + b) * 6144) (v.map some) }
  | .latch side v => s.onArr fun a => { a with latches := a.latches.putRow (160 * k + (if side = 0 then 0 else 64)) (v.map some) }

/-- What two writes of one cycle may not both reach (R153). -/
def target (w : CellWrite) : Option (Nat × Nat) :=
  match w with
  | .vreg r _ _ => some (0, r)
  | .mask m _ _ => some (1, m)
  | .flag f _ => some (2, f)
  | _ => none

/-- The writes that fall due in cycle `t`, with their conflicts, and the MMAs that finish (R141, R149, R151 to R153). -/
def cellWrites (s : State) (k t : Nat) : State :=
  let c := s.cell k
  let now := c.due.filter fun d => d.at_ ≤ t
  let s1 := s.onCell k fun c => { c with due := c.due.filter fun d => d.at_ > t }
  let s2 := (now.foldl (fun (acc : State × List (Nat × Nat) × List Nat) d =>
    let u := acc.1.applyWrite k d.w
    match d.w with
    | .line b _ _ =>
      let n := (acc.2.2.filter (· == b)).length
      (if n ≥ 2 then u.cellFaultOf k 4 1 d.iss else u, acc.2.1, b :: acc.2.2)
    | w => match target w with
      | none => (u, acc.2.1, acc.2.2)
      | some x => (if acc.2.1.contains x then u.cellFaultOf k 3 d.slot d.iss else u, x :: acc.2.1, acc.2.2)) (s1, [], [])).1
  let passed := (s2.cell k).mma.filter fun m => m.t0 + m.t + 5 ≤ t
  passed.foldl (fun u m =>
    let v := mmaResult u k m
    ((u.applyWrite k (.accAll m.bank v)).onCell k fun c => { c with mma := c.mma.filter (· ≠ m) }).spend 6144) s2

/-- The words of the VST that issued in the cycle before enter their send queue; one that would make it hold more than 8 is
QUEUE_OVERFLOW, and none of that VST's words is placed (R137, R153, R154). -/
def placeWords (s : State) (p : Site) : State :=
  let s1 := s.onCell p.key fun c => { c with placing := [] }
  (s.cell p.key).placing.foldl (fun (u : State) x =>
    let queue := (u.cell p.key).sendQ.getD x.1 [] ++ x.2
    if queue.length > 8 then u.siteFault p.key 2 7 (some .c)
    else u.onCell p.key fun c => { c with sendQ := setPad c.sendQ x.1 queue [] }) s1

/-- The words and the token of a C-cell that leave in cycle `t`: one word of each send queue, in order (R137, R138). -/
def cellSends (s : State) (p : Site) (t : Nat) : State :=
  let s0 := s.placeWords p
  let c := s0.cell p.key
  let s1 := s0.onCell p.key fun c =>
    { c with sendQ := c.sendQ.map (·.drop 1), token := none, lineWrites := [], streams := [], taken := [] }
  let s2 := [1, 2, 3, 4].foldl (fun (u : State) port =>
    match c.sendQ.getD port [] with
    | w :: _ => u.sendNear p port t (w.1, w.2.1)
    | [] => u) s1
  let d := match c.sendQ.getD 5 [] with | w :: _ => { idleWord with dv := true, data := w.1, de := w.2.2 } | [] => idleWord
  let w := match c.token with | some x => { d with cv := true, cval := x.1, ce := x.2 } | none => d
  s2.sendLocal p c.ctx t w

/-- What a C-cell does in cycle `t` before its results are written: the takes that go on, the lines that its MMAs read, and the bundle
that issues (R129, R136, R149). -/
def cellRuns (s : State) (p : Site) (t : Nat) : State :=
  let k := p.key
  let ts := (s.cell k).takes
  let s1 := ts.foldl (fun u x => u.takeOne k t x) (s.onCell k fun c => { c with takes := [] })
  let s2 := s1.onCell k fun c => { c with mma := c.mma.map fun m => mmaRead s1 k t m }
  s2.issueCell p t

/-- What an instruction of a descriptor program that moves no lines does: RING, WIN, SETA, HQB (R248). -/
def agEffect (s : State) (g a : Nat) (w : Word) : State :=
  let f := fun (lo n : Nat) => w.field lo n
  match f 60 4 with
  | 3 => s.setRing g a (f 58 2) (f 47 11) (f 41 6 + 1) (f 37 4 + 1)
  | 4 => winOp g (f 57 3) (f 55 2) (f 51 4) (f 40 11) (f 28 12) s
  | 5 => setaOp g (f 56 4) (BitVec.ofNat 32 (f 0 32)) 0 s
  | 6 => hqbOp g (f 59 1) (f 43 16) s
  | _ => s

/-- The effects whose cycle has come (R249). -/
def agEffects (s : State) (g a t : Nat) : State :=
  let now := (s.agOf g a).later.filter fun e => e.1 ≤ t
  now.foldl (fun u e => u.agEffect g a e.2) (s.onAg g a fun x => { x with later := x.later.filter fun e => e.1 > t })

/-- An address generator walks its instructions; a RUN is taken up L_f cycles ahead, for its freeze decisions, and an
instruction before it takes effect at its own cycle (R93, R248, R249). -/
def agAdvance (s : State) (g a t lf : Nat) : Nat → State
  | 0 => s
  | n + 1 =>
    let x := s.agOf g a
    let ins := (s.mprog g).ag.getD a []
    if x.ended then s
    else match ins[x.pc]? with
      | none => if x.t ≤ t then s.onAg g a fun y => { y with ended := true } else s
      | some w =>
        let f := fun (lo n : Nat) => w.field lo n
        if x.t > t + lf then s
        else match f 60 4 with
          | 0 => if x.t > t then s else agEndOp g a s
          | 1 => (agRunOp g a w [] s).agAdvance g a t lf n
          | 2 => (agLoopOp g a (f 36 24) (f 0 6) s).agAdvance g a t lf n
          | _ =>
            let s1 := if x.t ≤ t then s.agEffect g a w else s.onAg g a fun y => { y with later := y.later ++ [(y.t, w)] }
            (s1.agNext g a).agAdvance g a t lf n

/-- The tiles that are decided in cycle `t` pop their handles, where there is one (R266). -/
def popDecided (s : State) (g lf t : Nat) : State :=
  [0, 1].foldl (fun (u : State) a =>
    (List.range (u.agOf g a).runs.length).foldl (fun (u : State) i =>
      match (u.agOf g a).runs[i]? with
      | some x =>
        if x.word.bit 47 = false then u
        else (decided x ((u.mprog g).run x.word).1.ntiles lf t t).foldl (fun (v : State) k =>
          match (v.agOf g a).runs[i]? with
          | some y =>
            if y.handles.length > k - y.tile then v
            else match v.popHandle g (y.word.field 46 1) with
              | some (v1, h) => v1.onAg g a fun q => { q with runs := q.runs.set i { y with handles := y.handles ++ [h] } }
              | none => v
          | none => v) u
      | none => u) u) s

/-- The freeze decisions of an M-cell's ports in cycle `t`: the ports that raise freeze; an input that would be decided before cycle 0
is a schedule fault (R93, R96). -/
def decide (s : State) (g glove t : Nat) : State × List PortRef :=
  let lf := (s.pat glove).lf
  let early := if t ≠ 0 then [] else [0, 1].flatMap fun a =>
    let runs := (s.agOf g a).runs
    runs.zipIdx.flatMap fun x =>
      if runBounds g x.1 = false ∨ (descOf x.1.desc).op ≠ 1 then []
      else (decided x.1 ((s.mprog g).run x.1.word).1.ntiles lf 0 0).filter fun i =>
        x.1.s0 + i * x.1.word.field 8 17 < lf && !s.tileReady g a (runs.take x.2) x.1 i
  if early ≠ [] then (s.siteFault (mcellSite g).key 3 0 (some .m), [])
  else (s.popDecided g lf t, s.blocked g lf t t)

/-- What the M-cells of a pattern have done in one cycle: the state, their tensor events, and the ports that raise freeze. -/
structure MWork where
  s : State
  notes : List (Nat × Nat)
  ports : List PortRef

/-- A new cycle of an M-cell's rows: both row slots are free, and no merge has reached an entry yet (R238, R243). -/
def openCycle (s : State) (g : Nat) : State :=
  s.onMCell g fun m => { m with banks := [], merge := m.merge.map fun e => { e with hot := false } }

/-- What the M-cells of a pattern do in the row slots that scheduled accesses leave, in class order, with what leaves their send buffers
(R241, R243, R244); a narrow queue that still holds a request is counted, once a cycle on its die (R277). -/
def freeSlots (s : State) (ms : List Nat) : State :=
  let s1 := ms.foldl (fun u g => u.serveElastics g) (s.drainSends ms true)
  let s2 := ms.foldl (fun u g => u.serveNarrows g) (s1.drainSends ms false)
  ((ms.filter fun g => (s2.mcell g).narrow != []).map (· / 288)).eraseDups.foldl (fun u k =>
    if (u.dies.at k).tnsSeen.contains 8 then u
    else (u.count (spdCntNwait k)).onDie k fun d => { d with tnsSeen := 8 :: d.tnsSeen }) s2

/-- What an M-cell does in cycle `t` (R240, R249 to R256). -/
def mcellRuns (g glove t : Nat) (w : MWork) : MWork :=
  let s := w.s
  let lf := (s.pat glove).lf
  let s0 := (s.openCycle g).scheduledWrites g t
  let s1 := [0, 1].foldl (fun (u : State) a => (u.agEffects g a t).agAdvance g a t lf 200) s0
  let (s2, ports) := s1.decide g glove t
  let step := fun (f : State → Nat → Nat → State × List (Nat × Nat)) (acc : State × List (Nat × Nat)) (a : Nat) =>
    (List.range (acc.1.agOf g a).runs.length).foldl (fun (acc : State × List (Nat × Nat)) i =>
      let r := f acc.1 a i
      (r.1, acc.2 ++ r.2)) acc
  let r1 := ([0, 1].foldl (fun (u : State) a => (List.range (u.agOf g a).runs.length).foldl (fun u i => u.flushRun g a i) u) s2, [])
  let r2 := [0, 1].foldl (step fun u a i => u.runCycle g a i t) r1
  ⟨[0, 1].foldl (fun (u : State) a => u.onAg g a fun x =>
    { x with runs := x.runs.filter fun r => r.tile < (descOf r.desc).ntiles || r.got != [] }) r2.1, w.notes ++ r2.2, w.ports ++ ports⟩

/-- One cycle of a running pattern (R78, R129, R137, R244, R249). A fault or exception decided in the cycle takes precedence over the
freezes decided in it (R97, R158). -/
def runPattern (s : State) (g : Nat) : State :=
  let x := s.pat g
  let t := x.cycle
  let sites := imgSites (s.img g x.slot)
  let cs := sites.filter Site.isC
  let ms := (sites.filter fun p => !p.isC).map Site.mcell
  let s1 := sites.foldl (fun u p => u.deliver p t) s
  let s2 := cs.foldl (fun u p => u.cellSends p t) s1
  let s3 := sites.foldl (fun u p => u.crossbar p x.slot t) s2
  let s4 := cs.foldl (fun u p => u.cellRuns p t) s3
  let r := ms.foldl (fun w m => mcellRuns m g t w) ⟨s4, [], []⟩
  let s5 := (r.s.tensorEvents false r.notes).freeSlots ms
  let s6 := cs.foldl (fun u p => u.cellWrites p.key t) s5
  let s7 := if (s6.pat g).faulted then s6 else r.ports.foldl (fun u p => u.raiseFreeze g p) s6
  s7.onPat g fun p => { p with cycle := t + 1 }

/-- Whether an M-cell's program has ended, and what it issued has been accepted (R206, R249). -/
def mcellDone (s : State) (g : Nat) : Bool :=
  let m := s.mcell g
  let p := s.mprog g
  ((List.range 2).all fun a => let x := s.agOf g a; (x.ended || p.ag.getD a [] == []) && x.runs == [])
    && (m.rings.all fun r => !r.isWrite || (r.full == 0 && !r.held)) && m.send == [] && m.later == [] && m.elastic == []
    && m.narrow.all fun q => q.who.isSome

/-- Whether the conditions of R206 hold for a glove's active pattern. -/
def patEnds (s : State) (g : Nat) : Bool :=
  let x := s.pat g
  let sites := imgSites (s.img g x.slot)
  sites.all fun p => if p.isC then s.cellDone p.key x.cycle else s.mcellDone p.mcell

end State

/-! The commands. -/

/-- Whether a C-cell still has an operation in flight. -/
def State.cellBusy (s : State) (k : Nat) : Bool :=
  let c := s.cell k
  c.due != [] || c.takes != [] || c.mma != [] || c.placing != [] || c.token.isSome || c.sendQ.any fun q => q != []

/-- Whether words or operations of a pattern that is done are still under way (R129). -/
def State.patBusy (s : State) (g : Nat) : Bool :=
  (State.imgSites (s.img g (s.pat g).slot)).any fun p =>
    (p.isC && s.cellBusy p.key) || s.arr.transit.at p.key != [] || s.arr.arrivals.at p.key != []

/-- An array cycle passes on a die in which the pattern of glove `g` has its cycle: the patterns of one die share the cycle until one
of them begins the next. -/
def State.passCycle (s : State) (k g : Nat) : State :=
  s.onDie k fun d =>
    if d.ran.contains g then { d with clk := d.clk + 1, ran := [g], tnsSeen := [] } else { d with ran := d.ran ++ [g] }

/-- The next pattern cycle may execute, or the switch that waited for it is taken (R95, R157). -/
def State.resumePattern (s : State) (g : Nat) : State :=
  let s1 := s.onPat g fun y => { y with freezing := false, stopAt := none, released := [], heldSwitch := false }
  match (s.pat g).heldSwitch, s.gsqOf g with
  | true, some q => (match (s.gsq q).sw with
    | some r => s1.takeSwitch g q r true []
    | none => s1)
  | _, _ => s1

/-- Whether a frozen pattern's ports have all released, and the cycles after that have passed (R95). -/
def State.thawed (s : State) (g : Nat) : Bool :=
  let x := s.pat g
  s.patFrozen g && x.frozen == [] && x.thaw == 0 && !x.faulted && !x.stopped

/-- An array cycle of a pattern that executes nothing: the elastic side of its ports goes on, and after the last release the cycles
to the resume are counted (R94, R95, R110). -/
def State.frozenCycle (s : State) (g : Nat) : State :=
  let x := s.pat g
  let s1 := if s.patFrozen g then (s.patDies g).foldl (fun t k => t.count (arrCntFrzcyc k)) s else s
  let ms := ((State.imgSites (s.img g x.slot)).filter fun p => !p.isC).map Site.mcell
  if x.faulted then s1.faultStops g
  else if x.stopped then
    let s2 := ms.foldl (fun t m => t.abandonMCell m) s1
    if s2.drainWaits g then s2 else s2.rerunStops g
  else
    let s2 := (ms.foldl (fun t m => t.openCycle m) s1).freeSlots ms
    if x.frozen = [] then s2.onPat g fun y => { y with thaw := y.thaw - 1 } else s2

/-- PATTERN_CYCLE (R78, R89, R94, R95, R110, R129): one cycle of the array clock for the pattern of a glove, whose dies stand at one
clock step. A frozen or stopped pattern executes nothing; one that is done goes on while an operation is in flight. -/
def patternCycleOp (g : Nat) (s : State) : State :=
  let ks := s.patDies g
  if (s.pat g).valid = false ∨ (ks.any fun k => s.dieStopped k) ∨ s.stepsEqual ks = false then s
  else
    let s1 := ks.foldl (fun t k => t.passCycle k g) s
    let s2 := if s1.thawed g then s1.resumePattern g else s1
    let x := s2.pat g
    let halted : Bool := match x.stopAt with | some c => decide (c ≤ x.cycle) | none => false
    if halted then s2.frozenCycle g
    else if x.done ∧ s2.patBusy g = false then s2
    else s2.runPattern g

/-- SCHEDULE_FAULT (R98, R100, R101): a schedule fault detected in a running pattern. -/
def scheduleFaultOp (f : SFault) (s : State) : State :=
  if s.patRuns f.glove then s.schedFault f else s

/-- CELL_EXCEPTION (R158, R163). -/
def cellExceptionOp (f : XFault) (s : State) : State :=
  if s.patRuns f.glove then s.cellExc f else s

/-- PORT_FREEZE (R93, R94). -/
def portFreezeOp (g : Nat) (p : PortRef) (s : State) : State := s.raiseFreeze g p

/-- FREEZE_RELEASE (R95): a frozen port whose condition no longer holds; with the last one the L_f cycles to the resume begin. The
release is told before the array cycle in which it falls. -/
def freezeReleaseOp (g : Nat) (p : PortRef) (s : State) : State :=
  let x := s.pat g
  let stop := x.stopAt.getD x.cycle
  let still := ((State.imgSites (s.img g x.slot)).filter fun q => !q.isC && q.die == p.die && q.row == p.row).any fun q =>
    (s.blocked q.mcell x.lf 0 (stop - 1)).contains p
  if x.frozen.contains p = false ∨ still then s
  else s.onPat g fun y =>
    let left := y.frozen.filter (· ≠ p)
    { y with frozen := left, released := y.released ++ [p], thaw := if left = [] then y.lf else y.thaw }

/-- PATTERN_RESUME (R95, R157): L_f array cycles after the last release, the next cycle may execute; a held switch is taken instead. -/
def patternResumeOp (g : Nat) (s : State) : State :=
  let ks := s.patDies g
  if s.thawed g = false ∨ (ks.any fun k => s.dieStopped k) ∨ s.stepsEqual ks = false then s else s.resumePattern g

/-- Whether an exchange phase of a glove has been opened and has not closed: no switch is taken until it has (R218, R342). -/
def State.exchanging (s : State) (g : Nat) : Bool :=
  s.stw.plans.any fun p => p.2.valid && p.2.glove == g && (p.2.stage == .named || p.2.stage == .count || p.2.stage == .data)

/-- PATTERN_SWITCH (R155 to R157, R215): the switch cycle of an admitted switch, with what the VCORE rails recorded. -/
def patternSwitchOp (g : Nat) (vcore : List Nat) (s : State) : State :=
  match s.gsqOf g with
  | none => s
  | some q =>
    match (s.gsq q).sw with
    | none => s
    | some r =>
      let i := s.img g r.slot
      let x := s.pat g
      let edges := (maskDies i.dies).any fun a => (maskDies i.dies).any fun b =>
        dieNext a b && edgeJoined i.palms a b && !(s.arr.edges.at (4 * a + (if b = a + 1 then 1 else if a = b + 1 then 0 else if b = a + 4 then 3 else 2))).trained
      if r.admitted = false ∨ ((maskDies i.dies).any fun k => s.dieStopped k) ∨ edges ∨ (x.valid ∧ x.faulted) ∨ s.drainWaits g
          ∨ s.stepsEqual (maskDies i.dies) = false ∨ s.exchanging g then s
      else if s.patRuns g ∧ s.patFrozen g ∧ x.stopped = false then
        if x.heldSwitch then s
        else ((s.readVcore vcore).raise (gsqEvt q) 1).onPat g fun y => { y with heldSwitch := true }
      else s.takeSwitch g q r false vcore

/-- PATTERN_DONE (R206, R207, R436, R442, R443): the sequencer learns that the active pattern is done. -/
def patternDoneOp (g : Nat) (vcore : List Nat) (s : State) : State :=
  let x := s.pat g
  match s.gsqOf g with
  | none => s
  | some q =>
    if s.patRuns g = false ∨ x.faulted ∨ x.stopped ∨ s.patEnds g = false then s
    else
      let s1 := if (s.img g x.slot).reps = 0 then s else (s.readVcore vcore).updateCf g
      let s2 := (s1.onPat g fun p => { p with done := true }).takeLowerings g
      let s3 := ((s.glovePalms g).flatMap palmMCells).foldl (fun t c => t.settleCell c) s2
      ((s3.applyAllHeld).dispatch).wakePattern q

/-- LOAD_COMPLETE (R202, R203, R442): a glove's load in progress ends. -/
def loadCompleteOp (g : Nat) (s : State) : State :=
  match s.gsqOf g with
  | none => s
  | some q =>
    match (s.gsq q).load with
    | none => s
    | some (slot, ta) =>
      let (s1, st) := s.loadImage g slot ta
      let s2 := ((s1.setSlot q slot (if st = stOK then .loaded else .failed)).onGsq q fun x =>
        { x with load := none, loadSt := setPad x.loadSt slot st 0 })
      let s3 := if st = stOK then s2.onGlv g fun v => { v with cf := setPad v.cf slot 0x1000 0x1000 } else s2.raise (gsqEvt q) 3
      s3.wakePattern q

/-- ARMED_SWITCH (R215, R216): at its named time an armed switch asks for admission, or is not taken. -/
def armedSwitchOp (g : Nat) (s : State) : State :=
  match s.gsqOf g with
  | none => s
  | some q =>
    match (s.gsq q).arm with
    | none => s
    | some a =>
      if s.turn (.switch g) = false then s
      else if a.was ≠ .loaded then
        (s.onGsq q fun x => { x with arm := none, slots := setPad x.slots a.slot a.was .empty, swStatus := stSlotNotReady }).wakePattern q
      else
        let s1 := (s.onGsq q fun x => { x with arm := none, sw := some ⟨a.slot, false, false, true, s.seq.order, 0⟩ }).onSeq fun b =>
          { b with order := b.order + 1 }
        s1.dispatch

end Sys2Proof.Machine
end

