-- ==== Sys2Proof/Machine/SeqRows.lean ====
section
/-! DEFINITION. The instructions of a glove sequencer, its timeouts, and the work counters (R208 to R224, R334, R341, R348). -/

namespace Sys2Proof.Machine

open Adr

/-- An instruction word: its opcode, and fields as (lowest bit, width, value) (R210, R211). -/
def gsqEnc (op : Nat) (fs : List (Nat × Nat × Nat)) : Word :=
  fs.foldl (fun (w : Word) f => w.setField f.1 f.2.1 f.2.2) (BitVec.ofNat 64 (op * 2 ^ 58))

namespace State

/-! Named times (R45). -/

/-- The period in force at tick `t` (R41, R45). -/
def periodAt (s : State) (t : Nat) : Nat :=
  match s.tick.pend with
  | some (n, p) => if p ≤ t then n else s.tick.n
  | none => s.tick.n

/-- The start of tick `t` in reference cycles, counted as `nowRc` counts the present time. -/
def tickRc (s : State) (t : Nat) : Nat :=
  match s.tick.pend with
  | some (n, p) => if p ≤ t then p * s.tick.n + (t - p) * n else t * s.tick.n
  | none => t * s.tick.n

/-- The refusal of an event named for (t, ofs), or 0 when it is accepted (R45). -/
def timeRefusal (s : State) (t ofs : Nat) : Nat :=
  if ofs ≥ s.periodAt t then stBound
  else if s.tickRc t + ofs < s.nowRc + 16 then stTickPassed
  else 0

/-! Fetch and issue (R208, R209). -/

/-- A sequencer that runs fetches the word at its program counter; where that word is `w` it executes it, by `f`. An
address out of range or not marked faults the glove. -/
def issueGsq (s : State) (q : Nat) (w : Word) (f : State → State) : State :=
  let x := s.gsq q
  if x.state ≠ .running ∨ x.glove.isNone ∨ s.dieStopped (q / 8) then s
  else if s.marked q x.pc = false then (s.stopPattern (s.gsqGlove q) (s.pat (s.gsqGlove q)).cycle).faultGlove (s.gsqGlove q) 4
  else if s.seq.store.at (2048 * q + x.pc) ≠ w then s
  else f s

/-- Branch to `t` when `c` holds (R211). -/
def gsqBranch (s : State) (q t : Nat) (c : Bool) : State := if c then s.gsqGo q t else s.gsqNext q

/-- A refused EXCH: ST, and the branch; no other effect (R214, R218). -/
def exchRefuse (s : State) (q st t : Nat) : State := (s.onGsq q fun x => { x with st := st }).gsqGo q t

/-! Switches (R211, R215, R216). -/

/-- SWI: the status, and the request when it is made. A glove that already asks for a switch is refused a second one. -/
def requestSwitch (s : State) (q slot : Nat) : State × Nat :=
  let base := s.slotBase q slot
  if (s.gsq q).arm.isSome ∨ (s.gsq q).sw.isSome then (s, stConflict)
  else if base ≠ .loaded ∧ base ≠ .active then (s, stSlotNotReady)
  else
    let s1 := (s.onGsq q fun x => { x with sw := some ⟨slot, false, false, false, s.seq.order, 0⟩ }).onSeq fun b => { b with order := b.order + 1 }
    let s2 := s1.dispatch
    let held : Bool := match (s2.gsq q).sw with | some r => r.deferred | none => false
    (s2, if held then 0x02 else stOK)

/-- ARM: the status, and the armed switch when it is accepted. -/
def armSwitch (s : State) (q slot t ofs : Nat) : State × Nat :=
  let base := s.slotBase q slot
  let r := s.timeRefusal t ofs
  if (s.gsq q).arm.isSome ∨ (s.gsq q).sw.isSome then (s, stConflict)
  else if base = .empty ∨ base = .failed then (s, stSlotNotReady)
  else if base = .active then (s, stConflict)
  else if r ≠ 0 then (s, r)
  else (s.onGsq q fun x => { x with arm := some ⟨slot, t, ofs, base⟩, slots := setPad x.slots slot .armed .empty }, stOK)

/-- WAIT DONE (R212). -/
def waitForDone (s : State) (q tmo : Nat) : State :=
  let p := s.pat (s.gsqGlove q)
  if s.swPending q then s.gsqWait q .done tmo
  else if p.valid = false then s.gsqSt q stConflict
  else if p.done then s.gsqSt q stOK
  else s.gsqWait q .done tmo

/-- The status of an EXCH that cannot go on, by R218, R341 and R348; whether its completion takes a rerun point; none when the
phase is named. -/
def exchRefusal (s : State) (g phase t ofs : Nat) : Option (Nat × Bool) :=
  let x := s.plan phase
  let elsewhere : Bool := s.stw.plans.any fun p => p.1 != phase && p.2.valid && p.2.glove == g && p.2.stage == .pending
  let r := s.timeRefusal t ofs
  if s.patRuns g ∨ elsewhere then some (stConflict, false)
  else if x.valid = false ∨ x.glove ≠ g then some (0x27, true)
  else if x.stage = .pending then none
  else if x.stage ≠ .idle then some (stConflict, false)
  else if r ≠ 0 then some (r, false)
  else none

/-! Work counters (R220 to R222). -/

def wkNext (s : State) (k m n : Nat) : Nat := s.fld (wkcNext k m n) 0 32
def wkLimit (s : State) (k m n : Nat) : Nat := s.fld (wkcLimit k m n) 0 32

/-- A refusal is counted on the counter's die (R222). -/
def wkRefuse (s : State) (k : Nat) : State := s.count (gsqCntWkref k)

/-- NEXT and LIMIT of a counter set (R211). -/
def setCounter (s : State) (k m n next limit : Nat) : State :=
  (s.setReg (wkcNext k m n) (BitVec.ofNat 64 next)).setReg (wkcLimit k m n) (BitVec.ofNat 64 limit)

end State

/-! The commands: arithmetic and branches. -/

/-- GSQ_NOP (R211). -/
def gsqNopOp (q : Nat) (s : State) : State := s.issueGsq q (gsqEnc 0x00 []) fun s => s.gsqNext q

/-- LI (R211). -/
def liOp (q gd : Nat) (imm : BitVec 32) (s : State) : State :=
  s.issueGsq q (gsqEnc 0x01 [(54, 4, gd), (0, 32, imm.toNat)]) fun s => (s.setGreg q gd (imm.signExtend 64)).gsqNext q

/-- LIH (R211). -/
def lihOp (q gd : Nat) (imm : BitVec 32) (s : State) : State :=
  s.issueGsq q (gsqEnc 0x02 [(54, 4, gd), (0, 32, imm.toNat)]) fun s => (s.setGreg q gd ((s.greg q gd).setField 32 32 imm.toNat)).gsqNext q

/-- ADDI (R211). -/
def addiOp (q gd ga : Nat) (imm : BitVec 32) (s : State) : State :=
  s.issueGsq q (gsqEnc 0x03 [(54, 4, gd), (50, 4, ga), (0, 32, imm.toNat)]) fun s =>
    (s.setGreg q gd (s.greg q ga + imm.signExtend 64)).gsqNext q

/-- ADD (R211). -/
def addOp (q gd ga gb : Nat) (s : State) : State :=
  s.issueGsq q (gsqEnc 0x04 [(54, 4, gd), (50, 4, ga), (46, 4, gb)]) fun s => (s.setGreg q gd (s.greg q ga + s.greg q gb)).gsqNext q

/-- BR (R211). -/
def brOp (q t : Nat) (s : State) : State := s.issueGsq q (gsqEnc 0x08 [(0, 11, t)]) fun s => s.gsqBranch q t true

/-- BNZ (R211). -/
def bnzOp (q ga t : Nat) (s : State) : State :=
  s.issueGsq q (gsqEnc 0x09 [(50, 4, ga), (0, 11, t)]) fun s => s.gsqBranch q t (s.greg q ga != 0)

/-- DJNZ (R211). -/
def djnzOp (q gd t : Nat) (s : State) : State :=
  s.issueGsq q (gsqEnc 0x0A [(54, 4, gd), (0, 11, t)]) fun s =>
    let s1 := s.setGreg q gd (s.greg q gd - 1)
    s1.gsqBranch q t (s1.greg q gd != 0)

/-- BST (R211). -/
def bstOp (q mode code t : Nat) (s : State) : State :=
  s.issueGsq q (gsqEnc 0x0B [(48, 2, mode), (40, 8, code), (0, 11, t)]) fun s =>
    let st := (s.gsq q).st
    s.gsqBranch q t (match mode with | 0 => st ≥ 0x10 | 1 => st == code | _ => st != code)

/-! Loads and switches. -/

/-- LOAD (R203, R211). -/
def loadOp (q slot ga : Nat) (s : State) : State :=
  s.issueGsq q (gsqEnc 0x10 [(56, 2, slot), (50, 4, ga)]) fun s =>
    let ta := (s.greg q ga).toNat
    if (s.gsq q).load.isSome ∨ s.outPending q slot then s.gsqWait q (.loadTurn slot ta)
    else (s.startLoad q slot ta).gsqSt q stOK

/-- ARM (R211, R216). -/
def armOp (q slot ga ofs : Nat) (s : State) : State :=
  s.issueGsq q (gsqEnc 0x11 [(56, 2, slot), (50, 4, ga), (20, 20, ofs)]) fun s =>
    let r := s.armSwitch q slot (s.greg q ga).toNat ofs
    r.1.gsqSt q r.2

/-- SWI (R211, R215 to R217). -/
def swiOp (q slot : Nat) (s : State) : State :=
  s.issueGsq q (gsqEnc 0x12 [(56, 2, slot)]) fun s =>
    let r := s.requestSwitch q slot
    r.1.gsqSt q r.2

/-- RUN (R211): SWI, then WAIT DONE; a SWI that fails ends it. -/
def runOp (q slot ga : Nat) (s : State) : State :=
  s.issueGsq q (gsqEnc 0x13 [(56, 2, slot), (50, 4, ga)]) fun s =>
    let r := s.requestSwitch q slot
    if r.2 ≥ 0x10 then r.1.gsqSt q r.2 else r.1.waitForDone q ((s.greg q ga).field 0 16)

/-! Waits (R212). -/

/-- The word of a WAIT: KIND, GA, GB, SLOT, OFS, TMO (R211). -/
def waitWord (kind ga gb slot ofs tmo : Nat) : Word :=
  gsqEnc 0x14 [(54, 4, kind), (50, 4, ga), (46, 4, gb), (44, 2, slot), (20, 20, ofs), (0, 16, tmo)]

/-- The stored word with the fields of a WAIT that its KIND does not use, which may hold anything (R210 to R212). -/
def State.waitAs (s : State) (q : Nat) (usesA usesB usesSlot usesOfs : Bool) (w : Word) : Word :=
  let x := s.seq.store.at (2048 * q + (s.gsq q).pc)
  let keep := fun (use : Bool) (lo n : Nat) (y : Word) => if use then y else y.setField lo n (x.field lo n)
  keep usesA 50 4 (keep usesB 46 4 (keep usesSlot 44 2 (keep usesOfs 20 20 w)))

/-- WAIT_DONE (R212). -/
def waitDoneOp (q tmo : Nat) (s : State) : State :=
  s.issueGsq q (s.waitAs q false false false false (waitWord 0 0 0 0 0 tmo)) fun s => s.waitForDone q tmo

/-- WAIT_LOADED (R212). -/
def waitLoadedOp (q slot tmo : Nat) (s : State) : State :=
  s.issueGsq q (s.waitAs q false false true false (waitWord 1 0 0 slot 0 tmo)) fun s => (s.gsqWait q (.loaded slot) tmo).wakeLoaded q

/-- WAIT_TICK (R45, R212). -/
def waitTickOp (q ga ofs tmo : Nat) (s : State) : State :=
  s.issueGsq q (s.waitAs q true false false true (waitWord 2 ga 0 0 ofs tmo)) fun s =>
    let t := (s.greg q ga).toNat
    if ofs ≥ s.periodAt t then s.gsqSt q stBound
    else if s.reached t ofs then s.gsqSt q stTickPassed
    else s.gsqWait q (.tick t ofs) tmo

/-- WAIT_ARRIVAL (R212, R213). -/
def waitArrivalOp (q ga gb tmo : Nat) (s : State) : State :=
  s.issueGsq q (s.waitAs q true true false false (waitWord 3 ga gb 0 0 tmo)) fun s =>
    if s.nameInGlove (s.gsqGlove q) (s.greg q ga) = false then s.gsqSt q stBound
    else (s.gsqWait q (.arrival ((s.greg q ga).field 0 16) ((s.greg q gb).field 0 32)) tmo).wakeArrival q

/-- WAIT_SWITCHED (R212, R216). -/
def waitSwitchedOp (q tmo : Nat) (s : State) : State :=
  s.issueGsq q (s.waitAs q false false false false (waitWord 4 0 0 0 0 tmo)) fun s => (s.gsqWait q .switched tmo).wakeSwitched q

/-- WAIT_SEALED (R212). -/
def waitSealedOp (q tmo : Nat) (s : State) : State :=
  s.issueGsq q (s.waitAs q false false false false (waitWord 5 0 0 0 0 tmo)) fun s => (s.gsqWait q .sealed tmo).wakeSealed q

/-- WAIT_TICK_REACHED (R212): the reference cycle named by a WAIT TICK begins. -/
def waitTickReachedOp (q : Nat) (s : State) : State :=
  match (s.gsq q).waitFor with
  | some (.tick t ofs) => if s.reached t ofs then s.gsqSt q stOK else s
  | _ => s

/-- WAIT_TIMEOUT (R212): the condition stands, and the sequencer continues. -/
def waitTimeoutOp (q : Nat) (s : State) : State :=
  match (s.gsq q).deadline with
  | some d => if (s.gsq q).state = .waiting ∧ s.reached d.1 d.2 then (s.gsqSt q 0x03).raise (gsqEvt q) 4 else s
  | none => s

/-! Exchange, seals, counters and reports. -/

/-- EXCH (R211, R218, R334, R341, R348). -/
def exchOp (q ga ofs phase t : Nat) (s : State) : State :=
  s.issueGsq q (gsqEnc 0x15 [(54, 4, ga), (34, 20, ofs), (26, 8, phase), (0, 11, t)]) fun s =>
    let x := s.plan phase
    let tick := (s.greg q ga).toNat
    match s.exchRefusal (s.gsqGlove q) phase tick ofs with
    | some (st, point) => if point then s.exchDone q st t else s.exchRefuse q st t
    | none =>
      let s1 := s.gsqWait q (.exchange t)
      if x.stage = .pending then
        if s.nowRc + 16 > s.roundStart x then s1.phaseFails phase stTickPassed x.self
        else (s1.onPlan phase fun y => { y with stage := .named, namedAt := s.freeCtr }).spend 1
      else (s1.onPlan phase fun y => { y with stage := .named, namedAt := s.freeCtr, t0 := tick, ofs0 := ofs, round := 0 }).spend 1

/-- SEAL (R211, R219, R302): the request waits for its acceptance. Its PRIO is normal. -/
def sealExtentOp (q ga gb gd gt dest : Nat) (s : State) : State :=
  s.issueGsq q (gsqEnc 0x16 [(54, 4, ga), (50, 4, gb), (46, 4, gd), (42, 4, gt), (41, 1, dest)]) fun s =>
    let g := s.gsqGlove q
    (s.gsqWait q (.sealAccept [] gd)).submit
      { (default : MigReq) with op := 1, prio := 1, dest := dest, glove := g, key := (s.glove g).key, nta := (s.greg q ga).toNat,
                                len := (s.greg q gb).toNat, arg := (s.greg q gt).toNat, from_ := .gsq q gd }

/-- CTR (R211, R213, R222). -/
def ctrOp (q ga gb gc : Nat) (s : State) : State :=
  s.issueGsq q (gsqEnc 0x18 [(54, 4, ga), (50, 4, gb), (46, 4, gc)]) fun s =>
    let n := State.ctrName (s.greg q ga)
    let limit := (s.greg q gc).field 0 32
    if n.2.1 ≥ 288 then s.gsqSt q stBound
    else if s.nameInGlove (s.gsqGlove q) (s.greg q ga) = false ∨ limit = 0xFFFFFFFF then (s.wkRefuse n.1).gsqSt q stBound
    else (s.setCounter n.1 n.2.1 n.2.2 ((s.greg q gb).field 0 32) limit).gsqSt q stOK

/-- REPORT (R211, R224). -/
def reportOp (q ga code : Nat) (s : State) : State :=
  s.issueGsq q (gsqEnc 0x19 [(54, 4, ga), (0, 16, code)]) fun s => (s.gsqWait q (.report code (s.greg q ga))).wakeReport q

/-- SECB (R224). -/
def secbOp (q ident : Nat) (s : State) : State :=
  s.issueGsq q (gsqEnc 0x1A [(0, 16, ident)]) fun s => (s.gsqNext q).rerunPoint q ident

/-- HALT (R211). -/
def haltOp (q : Nat) (s : State) : State :=
  s.issueGsq q (gsqEnc 0x1F []) fun s => s.onGsq q fun x => { x with state := .halted }

/-- WORK_COUNTER_CLAIM (R220, R222). -/
def workCounterClaimOp (die m n : Nat) (who : Requester) (a : BitVec 32) (wide : Bool) (s : State) : State :=
  let foreign : Bool := match s.whoGlove who with | some g => s.mcellGlove (288 * die + m) != some g | none => false
  if s.whoStopped who then s
  else if wide ∨ foreign then (s.wkRefuse die).narrowFault
  else
    let next := s.wkNext die m n
    let limit := s.wkLimit die m n
    if next < limit then
      (s.setReg (wkcNext die m n) (BitVec.ofNat 64 (min (next + a.toNat) limit))).emit (.readData (some (toBytes next 4)) false)
    else s.emit (.readData (some (toBytes 0xFFFFFFFF 4)) false)

/-- WKC_WRITE (R222, R235): a system write; bits [63:32] are reserved. -/
def wkcWriteOp (die m n : Nat) (limit : Bool) (half : Half) (val : Word) (s : State) : State :=
  let a := if limit then wkcLimit die m n else wkcNext die m n
  if half = .hi then s
  else if limit ∧ val.field 0 32 = 0xFFFFFFFF then s.wkRefuse die
  else s.setReg a (BitVec.ofNat 64 (val.field 0 32))

end Sys2Proof.Machine
end

