-- ==== Sys2Proof/Machine/GloveCmds.lean ====
section
/-! DEFINITION. The host commands of gloves, frames, sequencers, exchange plans, the LZ2 view and the migration engine (R41, R208, R210, R302, R312, R329 to R333, R425 to R434, R515, R636). -/

namespace Sys2Proof.Machine

open Adr

namespace State

/-! Conflicts (R514). -/

/-- A refusal for the state of a glove. -/
def gloveConflict (s : State) (c : HostCmd) (g : Nat) : State := s.refuseState c 1 (s.gloveCode g) g

/-! Gloves. -/

/-- Whether a change to rung S3 or S4 is pending (R426). -/
def deepRungPends (s : State) : Bool := match s.rung.pend with | some p => p.1 ≥ 3 | none => false

/-- GLOVE_CREATE (R426 to R428). -/
def gloveCreateCmd (s : State) (c : HostCmd) : State :=
  let set : BitVec 128 := c.a2 ++ c.a1
  let palms := palmSet set
  let key := c.a3.field 0 8
  let vf := c.a3.field 8 7
  if s.deepRungPends then s.refuseState c 6 s.rung.rung 0
  else if palms = [] ∨ vf > 64 then s.refuse c stBound
  else match (List.range 64).find? fun g => !(s.glove g).live && !(s.glove g).draining with
    | none => s.refuse c stFull
    | some g =>
      match palms.find? fun p => (s.palm p).glove.isSome || (s.palm p).causes != [] || (s.die (p / 16)).bring != 4 with
      | some p => match (s.palm p).glove with
        | some h => s.gloveConflict c h
        | none => s.refuseModule c
      | none =>
        if (s.keys.at key).installed = false then s.refuseState c 3 0 key
        else match (if vf = 0 then none else s.vfGlove vf) with
          | some h => s.gloveConflict c h
          | none => match s.chooseGsq palms with
            | none => s.refuse c stFull
            | some q => (s.createGlove g q set key vf (c.a4.field 0 24) (c.a4.field 24 8)).complete c stOK g

/-- The first SEQT entry that names a glove. -/
def gloveUser (s : State) (g : Nat) : Option Nat := (s.stw.seqt.find? fun p => p.2.st != .free && p.2.glove == g).map (·.1)

/-- GLOVE_DESTROY (R429). -/
def gloveDestroyCmd (s : State) (c : HostCmd) : State :=
  let g := c.a1.field 0 6
  if s.gloveCode g = 3 ∨ s.gloveCode g = 5 then s.gloveConflict c g
  else match s.gloveUser g with
    | some i => s.refuseState c 2 (qcode (s.seqEnt i).st) (s.seqHandle i)
    | none => if s.serves g then s.gloveConflict c g else (s.destroyGlove g c).finishDestroys

/-- GLOVE_RESET (R432): a reset in progress is joined. -/
def gloveResetCmd (s : State) (c : HostCmd) : State :=
  let g := c.a1.field 0 6
  (s.beginReset g 6).onGlv g fun v => { v with resetCmds := v.resetCmds ++ [c] }

/-! Frames. -/

/-- FRAME_ALLOC. -/
def frameAllocCmd (s : State) (c : HostCmd) : State :=
  let g := c.a1.field 0 6
  let n := c.a2.field 0 12
  let at_ := c.a1.field 7 5
  if n = 0 ∨ n > 2048 then s.refuse c stBound
  else match s.freeRun n fun f => (if c.a1.bit 6 then (s.frame f).stack else s.frameDie f) == at_ with
    | none => s.refuse c stFull
    | some f =>
      let s1 := (List.range n).foldl (fun t i =>
        (t.onFrame (f + i) fun x => { x with mode := .priv, glove := g, key := (s.glove g).key, readers := 0 }).addKvFrame g (f + i)) s
      s1.complete c stOK f

/-- FRAME_SHARE. -/
def frameShareCmd (s : State) (c : HostCmd) : State :=
  let f := c.a1.field 0 16
  let n := c.a1.field 16 16
  let fs := (List.range n).map (f + ·)
  let owners := ((fs.filter fun k => (s.frame k).mode == .priv).map fun k => (s.frame k).glove).eraseDups
  if n = 0 ∨ f + n > 65536 then s.refuse c stBound
  else if owners.length > 1 ∨ (fs.any fun k => (s.frame k).mode != .priv && (s.frame k).mode != .shared) then
    s.gloveConflict c (owners.headD 0)
  else (fs.foldl (fun t k => t.onFrame k fun x => { x with mode := .shared, readers := c.a2 }) s).complete c stOK

/-- FRAME_FREE: all frames or none. -/
def frameFreeCmd (s : State) (c : HostCmd) : State :=
  let f := c.a1.field 0 16
  let n := c.a1.field 16 16
  let g := c.a1.field 32 6
  let fs := (List.range n).map (f + ·)
  if f + n > 65536 ∨ (fs.any fun k => (s.frame k).mode != .priv && (s.frame k).mode != .shared) then s.refuse c stBound
  else if fs.any fun k => (s.frame k).glove != g then s.refuse c stOwner
  else if fs.any fun k => s.frameHeld k then s.gloveConflict c g
  else ((fs.foldl (fun t k => t.freeFrame k) s).framesFreed).complete c stOK

/-! Sequencers. -/

/-- GSQ_WRITE (R210): the PF's write reads as the system, a VF's under its glove. -/
def gsqWriteCmd (s : State) (c : HostCmd) : State :=
  let g := c.a1.field 0 6
  let q := (s.glove g).gsq
  let first := c.a1.field 6 11
  let n := c.a1.field 17 11 + 1
  if first + n > 2048 then s.refuse c stBound
  else if (s.gsqOf g).isNone ∨ (s.gsq q).state = .running ∨ (s.gsq q).state = .waiting then s.gloveConflict c g
  else match (if c.func = 0 then s.hostBytes c.a2.toNat (8 * n) else s.gloveRead g c.a2.toNat (8 * n)) with
    | none => s.refuse c stBound
    | some d =>
      let ws := (chunk 8 d).map fun b => (BitVec.ofNat 64 (ofBytes b) : Word)
      if s.programOk q first ws then (s.writeProgram q first ws).complete c stOK else s.refuse c stImage

/-- GSQ_START (R208). -/
def gsqStartCmd (s : State) (c : HostCmd) : State :=
  let g := c.a1.field 0 6
  let q := (s.glove g).gsq
  if (s.gsqOf g).isSome ∧ ((s.gsq q).state = .idle ∨ (s.gsq q).state = .halted) then (s.startSeq q c.a2).complete c stOK
  else s.gloveConflict c g

/-- GSQ_STOP: a sequencer that runs or waits enters HALTED, and an armed switch is discarded. -/
def gsqStopCmd (s : State) (c : HostCmd) : State :=
  let q := (s.glove (c.a1.field 0 6)).gsq
  (if (s.gsqOf (c.a1.field 0 6)).isNone then s
   else if (s.gsq q).state = .running ∨ (s.gsq q).state = .waiting then s.stopSeq q else s.discardArm q).complete c stOK

/-! Exchange plans (R329 to R333). -/

/-- A destination entry (R330); none when a field breaks the rule. -/
def destOf (d : List Byte) (npart : Nat) : Option DestEnt :=
  let w0 : Word := BitVec.ofNat 64 (leAt d 0 8)
  let w1 : Word := BitVec.ofNat 64 (leAt d 8 8)
  let e : DestEnt := { part := w0.field 0 8, die := w0.field 8 3, cell0 := w0.field 11 9, ncell := w0.field 20 5, cstep := w0.field 25 9,
                       win := w0.field 34 3, hwin := w0.field 37 3, slice := w1.field 0 8, wcap := w1.field 8 16, pad := w1.field 24 16 }
  if e.part ≥ npart ∨ e.ncell = 0 ∨ e.ncell > 16 ∨ e.cstep > 287 ∨ e.cell0 + (e.ncell - 1) * e.cstep > 287 ∨ w0.field 40 24 ≠ 0
      ∨ e.slice = 0 ∨ e.wcap % 64 ≠ 0 ∨ e.wcap < 64 ∨ e.wcap > 65472 ∨ w1.field 40 24 ≠ 0 then none
  else some e

/-- A slot entry (R331); none when a field breaks the rule. -/
def slotOf (d : List Byte) (npart : Nat) : Option SlotEnt :=
  let w0 : Word := BitVec.ofNat 64 (leAt d 0 8)
  let w1 : Word := BitVec.ofNat 64 (leAt d 8 8)
  let e : SlotEnt := { link := w0.field 0 7, outlink := w0.field 7 7, kind := w0.field 14 2, src := w0.field 16 8, dst := w0.field 24 8,
                       start := w0.field 32 32, len := w1.field 0 32 }
  if e.link > 95 ∨ (e.kind = 2 ∧ e.outlink > 95) ∨ e.kind = 3 ∨ e.src ≥ npart ∨ e.dst ≥ npart ∨ w1.field 32 32 ≠ 0 then none
  else some e

/-- All the entries of a table, or none. -/
def allSome {α : Type} (l : List (Option α)) : Option (List α) :=
  l.foldr (fun x acc => match x, acc with | some a, some r => some (a :: r) | _, _ => none) (some [])

/-- The links and directions that a slot uses: out of the module is true. -/
def slotUses (e : SlotEnt) : List (Nat × Bool) :=
  match e.kind with
  | 0 => [(e.link, true)]
  | 1 => [(e.link, false)]
  | _ => [(e.link, false), (e.outlink, true)]

/-- Whether two slots use one link in one direction at overlapping times. -/
def slotsClash (a b : SlotEnt) : Bool :=
  ((slotUses a).any fun u => (slotUses b).contains u) && a.start < b.start + b.len && b.start < a.start + a.len

/-- Whether the slots of a list are free of clashes. -/
def slotsApart : List SlotEnt → Bool
  | [] => true
  | a :: r => (r.all fun b => !slotsClash a b) && slotsApart r

/-- A plan read from its image (R329 to R333); none when it is malformed. -/
def planOf (d : List Byte) : Option PlanSt :=
  let npart := leAt d 8 2
  let ndest := leAt d 0x0A 2
  let nslot := leAt d 0x0C 4
  let rlen := leAt d 0x10 4
  let dlen := leAt d 0x18 4
  let flags := leAt d 6 1
  let self := leAt d 7 1
  let sbase := leAt d 0x28 8
  let slen := leAt d 0x30 8
  if d.length < 64 ∨ leAt d 0 4 ≠ 0x4E414C50 ∨ leAt d 4 2 ≠ 1 ∨ flags / 4 ≠ 0 ∨ npart = 0 ∨ npart > 256 ∨ self ≥ npart ∨ ndest = 0
      ∨ ndest > 4095 ∨ d.length < 64 + 8 * npart + 16 * ndest + 16 * nslot ∨ rlen % 64 ≠ 0 ∨ rlen < 128 ∨ rlen > 65536
      ∨ leAt d 0x20 4 = 0 ∨ sbase % 64 ≠ 0 ∨ taSpace sbase ≠ 1 ∨ sbase / 2 ^ 56 ≠ 0 ∨ nearFrame (taOfs sbase) = none ∨ slen % rlen ≠ 0 then none
  else
    let pw := (List.range npart).map fun i => leAt d (64 + 8 * i) 8
    let parts := pw.map fun w => (w % 2 ^ 13, w / 2 ^ 13 % 64)
    let od := 64 + 8 * npart
    match allSome ((List.range ndest).map fun i => destOf (d.drop (od + 16 * i)) npart),
          allSome ((List.range nslot).map fun i => slotOf (d.drop (od + 16 * ndest + 16 * i)) npart) with
    | some dests, some slots =>
      if (pw.any fun w => w / 2 ^ 19 ≠ 0) ∨ (dests.any fun e => e.ncell * e.slice * 512 < rlen - 8) ∨ slotsApart slots = false
          ∨ (slots.any fun e => e.start + e.len > dlen) then none
      else
        let hosted := fun (q : Nat) => ((dests.filter fun e => e.part == q).map (·.wcap)).foldl (· + ·) 0
        let sent := fun (q : Nat) => ((slots.filter fun e => e.kind == 0 && e.src == self && e.dst == q).map (·.len)).foldl (· + ·) 0
        let short := (List.range npart).any fun q =>
          (parts.getD q default).1 != (parts.getD self default).1 && sent q * 480 < min (hosted q) (slen / rlen) * rlen
        if short then none
        else some { (default : PlanSt) with
          valid := true, glove := (parts.getD self default).2, self := self, npart := npart, genchk := flags % 2 == 1,
          stamp := flags / 2 % 2 == 1, rlen := rlen, clen := leAt d 0x14 4, dlen := dlen, xlen := leAt d 0x1C 4,
          rstride := leAt d 0x20 4, eround := leAt d 0x24 4, sbase := sbase, slen := slen, tag := BitVec.ofNat 64 (leAt d 0x38 8),
          parts := parts, dests := dests, slots := slots }
    | _, _ => none

/-- Whether the staging range and send area of plan `x`, to stand at index `p`, meet those of another plan of its glove. -/
def planOverlaps (s : State) (p : Nat) (x : PlanSt) : Bool :=
  s.stw.plans.any fun q => q.1 != p && q.2.valid && q.2.glove == x.glove
    && x.sbase < q.2.sbase + 2 * q.2.slen && q.2.sbase < x.sbase + 2 * x.slen

/-- PLAN_INSTALL (R333). -/
def planInstallCmd (s : State) (c : HostCmd) : State :=
  let p := c.a1.field 0 8
  if (s.plan p).valid ∧ (s.plan p).stage ≠ .idle then s.refuseState c 7 1 p
  else match s.hostBytes c.a2.toNat c.a3.toNat with
    | none => s.refuse c stBound
    | some d => match planOf d with
      | none => s.refuse c 0x46
      | some x => if s.planOverlaps p x then s.refuse c 0x46 else (s.onPlan p fun _ => x).complete c stOK

/-- PLAN_REMOVE (R333): an index that holds no plan of the named glove answers PLAN_ABSENT. -/
def planRemoveCmd (s : State) (c : HostCmd) : State :=
  let p := c.a1.field 0 8
  let x := s.plan p
  if x.valid = false ∨ x.glove ≠ c.a1.field 8 6 then s.refuse c 0x27
  else if x.stage ≠ .idle then s.refuseState c 7 1 p
  else (s.onPlan p fun _ => default).complete c stOK

/-! The LZ2 view (R312, R313). -/

/-- LZ2_ENABLE. -/
def lz2EnableCmd (s : State) (c : HostCmd) : State :=
  let g := c.a1.field 0 6
  let vsize := c.a2.toNat
  let f := c.a3.field 0 16
  let n := c.a3.field 16 16
  let fs := (List.range n).map (f + ·)
  if s.prof 0 18 1 = 0 then s.refuseModule c
  else match s.mem.lz2Glove with
    | some h => s.gloveConflict c h
    | none =>
      if vsize = 0 ∨ vsize % 2 ^ 21 ≠ 0 ∨ vsize > 2 ^ 40 ∨ n = 0 ∨ f + n > 65536 then s.refuse c stBound
      else if fs.any fun k => (s.frame k).mode != .priv || (s.frame k).glove != g then s.refuse c stOwner
      else (s.onMem fun m => { m with lz2Glove := some g, lz2Size := vsize, lz2Frames := fs, lz2Pages := [], lz2Clock := 0, lz2Wait := [], lz2Fills := [], lz2Seals := [] }).complete c stOK

/-- The slots of a glove that hold an image with CLASS.LZ2 = 1 (R515). -/
def lz2Slot (s : State) (g : Nat) : Option Nat :=
  (List.range 4).find? fun k =>
    let x := (s.gsq (s.glove g).gsq).slots.getD k .empty
    (x == .loaded || x == .armed || x == .active) && (s.img g k).cls / 2 % 2 == 1

/-- LZ2_DISABLE: the view's pages and their extents are given up. -/
def lz2DisableCmd (s : State) (c : HostCmd) : State :=
  let g := c.a1.field 0 6
  if s.mem.lz2Glove ≠ some g then s.gloveConflict c g
  else match s.lz2Slot g with
    | some _ => s.gloveConflict c g
    | none => s.lz2Off.complete c stOK

/-! The migration engine. -/

/-- MIGRATE (R302): the request is submitted, and the command completes with it (R303, R305). -/
def migrateCmd (s : State) (c : HostCmd) : State :=
  let f := fun (w : Word) (lo n : Nat) => w.field lo n
  s.submit { (default : MigReq) with
    op := f c.a1 0 4, prio := f c.a1 4 2, dest := f c.a1 6 1, durable := c.a1.bit 7, glove := f c.a1 8 6, key := f c.a1 16 8,
    slot := f c.a1 32 32, nta := f c.a2 0 56, len := f c.a3 0 37, done := if c.a3.bit 47 then some (f c.a3 48 16) else none,
    arg := f c.a4 0 36, gate := if c.a5.bit 32 then some (f c.a5 48 16, f c.a5 0 32) else none, from_ := .host c 0x20 }

/-- Armed events at or after tick `t` with an offset of `n` or more (R41). -/
def armedBeyond (s : State) (t n : Nat) : Bool := s.armedTable.any fun p => t ≤ p.tick && n ≤ p.ofs

/-- SET_TICK_PERIOD (R41): accepted, it is sent on and applied at its tick. -/
def setTickPeriodCmd (s : State) (c : HostCmd) : State :=
  let n := c.a1.field 0 20
  let t := c.a2.toNat
  if s.tick.role ≠ .crown ∨ s.tick.pend.isSome then s.refuseModule c
  else if n < 10000 ∨ n > 1000000 then s.refuse c stBound
  else if t < s.tick.tick + 64 then s.refuse c stTickPassed
  else if s.armedBeyond t n ∨ s.fld tkeLcfg 0 20 ≥ n ∨ s.fld mgrCfg 8 20 ≥ n then s.refuseModule c
  else ((s.onTick fun x => { x with pend := some (n, t) }).emit (.periodChange n t)).complete c stOK

end State

/-! The commands. -/

/-- The glove in A1[5:0], and a VF's own glove in its place (R514). -/
def gloveA1 : HostCmd → Nat := fun c => c.a1.field 0 6
def vfA1 : Nat → Nat → HostCmd → HostCmd := fun g _ c => { c with a1 := c.a1.setField 0 6 g }

/-- GLOVE_CREATE. -/
def gloveCreateOp (c : HostCmd) (s : State) : State :=
  s.command c { op := 0x010, set := fun t => t.inS, masks := [allBits, allBits, bits 0 15, bits 0 32] } fun c t => t.gloveCreateCmd c

/-- GLOVE_DESTROY. -/
def gloveDestroyOp (c : HostCmd) (s : State) : State :=
  s.command c { op := 0x011, set := fun t => t.inA, masks := [bits 0 6], glove := some gloveA1 } fun c t => t.gloveDestroyCmd c

/-- GLOVE_RESET. -/
def gloveResetOp (c : HostCmd) (s : State) : State :=
  s.command c { op := 0x012, pfOnly := false, set := fun t => t.inA, masks := [bits 0 6], glove := some gloveA1, forVf := vfA1 }
    fun c t => t.gloveResetCmd c

/-- FRAME_ALLOC. -/
def frameAllocOp (c : HostCmd) (s : State) : State :=
  s.command c { op := 0x013, pfOnly := false, set := fun t => t.inS, masks := [bits 0 12, bits 0 12], glove := some gloveA1, forVf := vfA1 }
    fun c t => t.frameAllocCmd c

/-- FRAME_SHARE. -/
def frameShareOp (c : HostCmd) (s : State) : State :=
  s.command c { op := 0x014, set := fun t => t.inS, masks := [bits 0 32, allBits] } fun c t => t.frameShareCmd c

/-- FRAME_FREE. -/
def frameFreeOp (c : HostCmd) (s : State) : State :=
  s.command c { op := 0x015, pfOnly := false, set := fun t => t.inA, masks := [bits 0 38], glove := some fun c => c.a1.field 32 6,
                forVf := fun g _ c => { c with a1 := c.a1.setField 32 6 g } } fun c t => t.frameFreeCmd c

/-- GSQ_WRITE. -/
def gsqWriteOp (c : HostCmd) (s : State) : State :=
  s.command c { op := 0x016, pfOnly := false, set := fun t => t.inA, masks := [bits 0 28, allBits], glove := some gloveA1, forVf := vfA1 }
    fun c t => t.gsqWriteCmd c

/-- GSQ_START. -/
def gsqStartOp (c : HostCmd) (s : State) : State :=
  s.command c { op := 0x017, pfOnly := false, set := fun t => t.inS, masks := [bits 0 6, allBits], glove := some gloveA1, forVf := vfA1 }
    fun c t => t.gsqStartCmd c

/-- GSQ_STOP. -/
def gsqStopOp (c : HostCmd) (s : State) : State :=
  s.command c { op := 0x018, pfOnly := false, set := fun t => t.inA, masks := [bits 0 6], glove := some gloveA1, forVf := vfA1 }
    fun c t => t.gsqStopCmd c

/-- PLAN_INSTALL. -/
def planInstallOp (c : HostCmd) (s : State) : State :=
  s.command c { op := 0x019, set := fun t => t.inD, masks := [bits 0 14, allBits, allBits], glove := some fun c => c.a1.field 8 6 }
    fun c t => t.planInstallCmd c

/-- PLAN_REMOVE. -/
def planRemoveOp (c : HostCmd) (s : State) : State :=
  s.command c { op := 0x01A, set := fun t => t.inA, masks := [bits 0 14], glove := some fun c => c.a1.field 8 6 }
    fun c t => t.planRemoveCmd c

/-- LZ2_ENABLE. -/
def lz2EnableOp (c : HostCmd) (s : State) : State :=
  s.command c { op := 0x01B, set := fun t => t.inS, masks := [bits 0 6, allBits, bits 0 32], glove := some gloveA1 } fun c t => t.lz2EnableCmd c

/-- LZ2_DISABLE. -/
def lz2DisableOp (c : HostCmd) (s : State) : State :=
  s.command c { op := 0x01C, set := fun t => t.inA, masks := [bits 0 6], glove := some gloveA1 } fun c t => t.lz2DisableCmd c

/-- MIGRATE. -/
def migrateOp (c : HostCmd) (s : State) : State :=
  s.command c
    { op := 0x020, pfOnly := false, set := fun t => t.inD,
      masks := [bits 0 14 + bits 16 8 + bits 32 32, bits 0 56, bits 0 37 + bits 47 17, bits 0 36, bits 0 33 + bits 48 16],
      glove := some fun c => c.a1.field 8 6,
      forVf := fun g key c => { c with a1 := (c.a1.setField 8 6 g).setField 16 8 key } } fun c t => t.migrateCmd c

/-- SET_TICK_PERIOD. -/
def setTickPeriodOp (c : HostCmd) (s : State) : State :=
  s.command c { op := 0x003, set := fun t => t.inD, masks := [bits 0 20, allBits] } fun c t => t.setTickPeriodCmd c

end Sys2Proof.Machine
end

