-- ==== Sys2Proof/Machine/ServiceOps.lean ====
section
/-! DEFINITION. SERVICE_OP: fences, unfences, retirements, chains and returns (R102, R106, R308, R315 to R318, R465, R590, R591, R637). -/

namespace Sys2Proof.Machine

open Adr

namespace State

/-- A refusal for the state of a die, palm, stack, channel, port, link or frame. R514 names no object code for these: the
object is given as the module's, with the part's own state code and index. -/
def partConflict (s : State) (c : HostCmd) (code idx : Nat) : State := s.refuseState c 0 code idx

/-- The codes of FENCED, ABSENT and the others in DDR_STAT and DPP_STAT (R324). -/
def portCode (p : PortState) : Nat := match p with | .absent => 0 | .active => 1 | .draining => 2 | .fenced => 3

/-- The code of a link's state in LNK_STAT (R495). -/
def lnkCode (l : LnkState) : Nat := match l with | .down => 0 | .training => 1 | .up2 => 2 | .up1 => 3 | .fenced => 4

/-- The code of a palm's state in ARR_PALM (R117). -/
def palmCode (p : PalmSt) : Nat := if p.causes ≠ [] then 2 else if p.glove.isSome then 1 else 0

/-- The kind of DIMM in use (R308): that of the lowest-numbered populated channel that is not of the other kind. -/
def dimmKind (s : State) : Option Bool := (s.mem.ddr.find? fun p => p.2.st != .absent && !p.2.mismatch).map (·.2.mrdimm)

/-- Fence (action 0). -/
def svcFence (s : State) (c : HostCmd) (obj idx : Nat) : State :=
  match obj with
  | 0 =>
    if idx ≥ 8 then s.refuse c stBound
    else if fittedDies.all fun k => k = idx || s.dieFenced k then s.partConflict c (s.die idx).bring idx
    else if (s.die idx).arrayFence ∨ (s.die idx).fullFence then s.complete c stOK
    else (s.arrayFence idx).complete c stOK
  | 1 =>
    if idx ≥ 128 then s.refuse c stBound
    else if 4 ∈ (s.palm idx).causes then s.partConflict c 2 idx
    else ((s.fenceCount).fencePalm idx 4).complete c stOK
  | 2 =>
    if idx ≥ s.variant.hbmStacks then s.refuse c stBound
    else if (s.stack idx).retired then s.partConflict c 1 idx
    else (s.retireStackDie idx).complete c stOK
  | 5 =>
    if idx ≥ 96 then s.refuse c stBound
    else if (s.net.links.at idx).st = .fenced then s.partConflict c 4 idx
    else (s.fenceLink idx).complete c stOK
  | o =>
    let deep := o == 4
    if (o ≠ 3 ∧ o ≠ 4) ∨ idx ≥ (if deep then 4 else s.variant.channels) then s.refuse c stBound
    else if s.portSt deep idx = .absent ∨ s.portSt deep idx = .fenced then s.partConflict c (portCode (s.portSt deep idx)) idx
    else (s.fencePort deep idx).complete c stOK

/-- Unfence (action 1). -/
def svcUnfence (s : State) (c : HostCmd) (obj idx : Nat) : State :=
  match obj with
  | 0 =>
    if idx ≥ 8 then s.refuse c stBound
    else if (s.die idx).arrayFence = false ∨ (s.die idx).fullFence then s.partConflict c (s.die idx).bring idx
    else
      let s1 := s.onDie idx fun d => { d with arrayFence := false }
      (((List.range 16).foldl (fun t p => t.freePalm (16 * idx + p) 4) s1).judgeMod).complete c stOK
  | 1 =>
    if idx ≥ 128 then s.refuse c stBound
    else if 4 ∉ (s.palm idx).causes ∨ s.dieFenced (idx / 16) then s.partConflict c (palmCode (s.palm idx)) idx
    else (s.freePalm idx 4).complete c stOK
  | 5 =>
    if idx ≥ 96 then s.refuse c stBound
    else if (s.net.links.at idx).st ≠ .fenced then s.partConflict c (lnkCode (s.net.links.at idx).st) idx
    else ((s.onLink idx fun l => { l with st := .down, wasUp := false }).raise (lnkEvt idx) 3).complete c stOK
  | _ => s.refuse c stBound

/-- Retirement (action 2). -/
def svcRetire (s : State) (c : HostCmd) (obj idx : Nat) : State :=
  match obj with
  | 2 =>
    if idx ≥ s.variant.hbmStacks then s.refuse c stBound
    else if (s.stack idx).retired then s.partConflict c 1 idx
    else (s.retireStackDie idx).complete c stOK
  | 6 =>
    if idx ≥ 65536 then s.refuse c stBound
    else if (s.frame idx).mode = .absent then s.partConflict c 0 idx
    else if (s.mem.tmap.any fun p => p.1 != idx && p.2.mode == .free && s.stackDie p.2.stack == s.frameDie idx) = false then s.refuse c stFull
    else (s.retireFrame idx).complete c stOK
  | o =>
    let deep := o == 4
    if (o ≠ 3 ∧ o ≠ 4) ∨ idx ≥ (if deep then 4 else s.variant.channels) then s.refuse c stBound
    else if s.portSt deep idx ≠ .active then s.partConflict c (portCode (s.portSt deep idx)) idx
    else (s.drainPort deep idx).complete c stOK

/-- Form chain (action 3): the physical row, kind and column of A3. -/
def svcChain (s : State) (c : HostCmd) (obj idx : Nat) : State :=
  let row := c.a3.field 0 5
  let k : Kind := if c.a3.bit 5 then .m else .c
  let col := c.a3.field 6 5
  let r := s.repair idx row
  if obj ≠ 0 ∨ idx ≥ 8 ∨ row ≥ 24 ∨ col ≥ 24 ∨ (row + col) % 2 ≠ (match k with | .c => 0 | .m => 1) then s.refuse c stBound
  else if s.chainFree idx row col = false ∨ (chainOf r k).isSome ∨ (chainWait r k).isSome ∨ spareOk r k = false then
    s.partConflict c (s.die idx).bring idx
  else (s.formChain idx row k col true).complete c stOK

/-- Return to ACTIVE (action 4), with what has been detected of the device: the training then runs, and RETURN_TRAINING_COMPLETE
ends the command (R316). -/
def svcReturn (s : State) (c : HostCmd) (obj idx : Nat) (info : Option DimmInfo) : State :=
  let deep := obj == 4
  let busy := if deep then (s.mem.dpp.at idx).returnCmd.isSome else (s.mem.ddr.at idx).returnCmd.isSome
  let other : Bool := match info, s.dimmKind with | some i, some k => !deep && i.mrdimm != k | _, _ => false
  if (obj ≠ 3 ∧ obj ≠ 4) ∨ idx ≥ (if deep then 4 else s.variant.channels) then s.refuse c stBound
  else if s.portSt deep idx ≠ .fenced ∨ busy ∨ info.isNone ∨ other then s.partConflict c (portCode (s.portSt deep idx)) idx
  else if deep then s.onDpp idx fun d => { d with returnCmd := some c }
  else s.onDdr idx fun d => { d with returnCmd := some c }

/-- SERVICE_OP (R590) of a row's action; a command that names another action is another row's. -/
def serviceCmd (s : State) (c : HostCmd) (action : Nat) (info : Option DimmInfo) : State :=
  if c.a1.field 0 4 ≠ action ∧ c.a1.field 0 4 ≤ 4 then s
  else s.command c { op := 0x007, set := fun t => t.inA, masks := [bits 0 8, allBits, bits 0 11] } fun c t =>
    let obj := c.a1.field 4 4
    let idx := c.a2.toNat
    if c.a1.field 0 4 > 4 then t.refuse c stBound
    else match action with
      | 0 => t.svcFence c obj idx
      | 1 => t.svcUnfence c obj idx
      | 2 => t.svcRetire c obj idx
      | 3 => t.svcChain c obj idx
      | _ => t.svcReturn c obj idx info

end State

/-! The commands. -/

/-- SERVICE_OP_FENCE. -/
def serviceOpFenceOp (c : HostCmd) (s : State) : State := s.serviceCmd c 0 none
/-- SERVICE_OP_UNFENCE. -/
def serviceOpUnfenceOp (c : HostCmd) (s : State) : State := s.serviceCmd c 1 none
/-- SERVICE_OP_RETIRE. -/
def serviceOpRetireOp (c : HostCmd) (s : State) : State := s.serviceCmd c 2 none
/-- SERVICE_OP_FORM_CHAIN. -/
def serviceOpFormChainOp (c : HostCmd) (s : State) : State := s.serviceCmd c 3 none
/-- SERVICE_OP_RETURN. -/
def serviceOpReturnOp (c : HostCmd) (info : Option DimmInfo) (s : State) : State := s.serviceCmd c 4 info

end Sys2Proof.Machine
end

