-- ==== Sys2Proof/Machine/Links.lean ====
section
/-! DEFINITION. Links: flits, retry, credits, training, lanes, packets and routing (R461 to R475, R494). -/

namespace Sys2Proof.Machine

open Adr

/-- Whether a link carries a virtual channel (R468): LK88 to LK95 are the service links. -/
def carries (link vc : Nat) : Bool :=
  match vc with
  | 0 | 1 => true
  | 2 | 3 => link < 88
  | 4 => link ≥ 88 && link < 96
  | _ => false

/-- The flits that a receiver holds for each hop class of a virtual channel (R470). -/
def vcBuffer (vc : Nat) : Nat := [16, 4, 192, 64, 32].getD vc 0

namespace State

def link (s : State) (l : Nat) : LinkSt := s.net.links.at l

/-- Whether a link is UP2 or UP1. -/
def linkUp (s : State) (l : Nat) : Bool := (s.link l).st == .up2 || (s.link l).st == .up1

/-- A link enters DOWN (R465): counted; one that was up is a lost link (R584). -/
def linkDown (s : State) (l : Nat) : State :=
  let lost := (s.link l).wasUp
  let s1 := ((s.slotBreaks l).onLink l fun x => { x with st := .down, wasUp := false, asm := [], unacked := [], resend := 0 }).raise (lnkEvt l) 3
  if lost then (s1.errClass 3 5 l 0 0 0).fenceCount else s1

/-- A link enters TRAINING. -/
def linkTrain (s : State) (l : Nat) : State := (s.slotBreaks l).onLink l fun x => { x with st := .training }

/-- Alignment is lost (R461, R465): UP2 goes to TRAINING, UP1 has lost its lane. -/
def alignmentLost (s : State) (l : Nat) : State := if (s.link l).st = .up1 then s.linkDown l else s.linkTrain l

/-- A replay from the oldest unacknowledged flit; the sixteenth in a row without an acknowledgement puts the link into
TRAINING (R464). -/
def replay (s : State) (l : Nat) : State :=
  let s1 := (s.onLink l fun x => { x with resend := x.unacked.length, replays := x.replays + 1 }).raise (lnkEvt l) 1
  if (s1.link l).replays ≥ 16 then (s1.linkTrain l).onLink l fun x => { x with replays := 0 } else s1

/-- The bytes of a packet: its header and its payload (R471). -/
def packetBytes (p : Packet) : List Byte :=
  toBytes (p.dest % 2 ^ 13 + p.src % 2 ^ 13 * 2 ^ 13 + p.hop % 8 * 2 ^ 26 + p.len % 2 ^ 12 * 2 ^ 32 + p.type % 2 ^ 20 * 2 ^ 44) 8
  ++ toBytes p.tag.toNat 8 ++ p.payload

/-- A packet read from its bytes. -/
def packetOf (vc : Nat) (d : List Byte) : Packet :=
  let w : Word := BitVec.ofNat 64 (leAt d 0 8)
  { dest := w.field 0 13, src := w.field 13 13, hop := w.field 26 3, vc := vc, len := w.field 32 12, type := w.field 44 20,
    tag := BitVec.ofNat 32 (leAt d 8 4), payload := (d.drop 16).take (w.field 32 12 + 1) }

/-- The bodies of the flits that carry a packet (R471). -/
def packetBodies (p : Packet) : List (List Byte) :=
  (chunk 256 (packetBytes p)).map fun b => b ++ List.replicate (256 - b.length) 0

/-- A body accepted on a virtual channel joins the packet being put together; a packet that is whole is this node's or waits
to be forwarded, and its flits are freed (R470, R471). -/
def takeBody (s : State) (l vc hop : Nat) (body : List Byte) : State :=
  let d := (((s.link l).asm.find? fun x => x.1 == vc).map (·.2)).getD [] ++ body
  let s1 := s.onLink l fun x => { x with freedOut := setPad x.freedOut (6 * vc + hop) ((x.freedOut.getD (6 * vc + hop) 0 + 1) % 65536) 0 }
  if d.length < 16 ∨ d.length < 17 + (packetOf vc d).len then
    s1.onLink l fun x => { x with asm := (vc, d) :: x.asm.filter fun a => a.1 ≠ vc }
  else
    let p := packetOf vc d
    let s2 := s1.onLink l fun x => { x with asm := x.asm.filter fun a => a.1 ≠ vc }
    s2.onNet fun b => if s.nodeId = some p.dest ∨ s.nodeId.isNone then { b with inbox := b.inbox ++ [p] } else { b with fwd := b.fwd ++ [p] }

/-- The acknowledgement that a flit carries (R464). -/
def takeAck (s : State) (l : Nat) (f : Flit) : State :=
  if f.ackv = false then s
  else match (s.link l).unacked.findIdx? fun u => u.seq == f.ack with
    | none => s
    | some i => s.onLink l fun x =>
        { x with unacked := x.unacked.drop (i + 1), resend := min x.resend (x.unacked.length - (i + 1)), replays := 0 }

/-- The link choices of a routing entry that a packet of a virtual channel can take now (R473, R478). -/
def choices (s : State) (dest vc : Nat) : List Nat :=
  let e := s.reg (rte dest)
  let all := (List.range 4).filterMap fun i => if e.bit (8 * i + 7) then some (e.field (8 * i) 7) else none
  ((all.filter fun l => s.linkUp l && carries l vc && (s.nodeId.isSome || (l ≥ 88 && vc ≤ 1))).sortBy fun a b => a ≤ b)

/-- Whether a slot of R331 is open now on a link in the sending direction (R332, R469). -/
def inSlot (s : State) (l : Nat) : Bool :=
  s.stw.plans.any fun p =>
    let x := p.2
    let t0 := s.roundStart x + x.clen
    x.valid && x.stage == .data && x.slots.any fun e =>
      ((e.kind == 0 && e.link == l) || (e.kind == 2 && e.outlink == l)) && t0 + e.start ≤ s.nowRc && s.nowRc < t0 + e.start + e.len

/-- The virtual channels in the order in which a flit time takes them (R469). -/
def vcOrder (s : State) (l : Nat) : List Nat :=
  let bulk := if (s.link l).bulkTurn then [4, 3] else [3, 4]
  if s.inSlot l ∧ (s.link l).slotTime % 25 ≠ 24 then [2, 1, 0] ++ bulk else [1, 0, 2] ++ bulk

/-- The first flit of a virtual channel that has the credit to be sent, with its place in the queue (R470). -/
def ready (s : State) (l vc : Nat) : Option (Nat × Nat × List Byte) :=
  let x := s.link l
  match x.txq.findIdx? fun q => q.1 == vc with
  | none => none
  | some i =>
    let q := x.txq.getD i default
    let n := 6 * vc + q.2.1
    if (x.sent.getD n 0 + 65536 - x.freedIn.getD n 0) % 65536 < vcBuffer vc ∧ x.unacked.length < 1024 then some (i, q.2.1, q.2.2) else none

/-- A flit as this transmitter sends it. -/
def mkFlit (s : State) (l kind vc hop seq : Nat) (body : List Byte) (nak : Option Nat) (credits : List (Nat × Nat × Nat)) : Flit :=
  let x := s.link l
  { kind := kind, vc := vc, hop := hop, seq := seq, ack := (x.rxSeq + 4095) % 4096, ackv := x.rxAny, body := body, nak := nak,
    credits := credits, crcOk := true, corrected := 0 }

/-- An LCTL flit: the NAK when one is to be sent, and the freed counts (R464, R470). -/
def sendLctl (s : State) (l : Nat) : State :=
  let x := s.link l
  let credits := (List.range 5).flatMap fun vc => (List.range 6).map fun h => (vc, h, x.freedOut.getD (6 * vc + h) 0)
  (s.emit (.flit l (s.mkFlit l 2 0 0 0 [] (if x.nak then some x.rxSeq else none) credits))).onLink l fun y =>
    { y with nak := false, sinceLctl := 0 }

/-- A DATA flit is sent and counted. -/
def sendFlit (s : State) (l : Nat) (f : Flit) : State :=
  ((s.emit (.flit l f)).count (lnkCntTx l)).onLink l fun x => { x with sinceLctl := x.sinceLctl + 1 }

/-- A packet is put on a link's transmit queue (R471). -/
def queuePacket (s : State) (l : Nat) (p : Packet) : State :=
  s.onLink l fun x => { x with txq := x.txq ++ (packetBodies p).map fun b => (p.vc, p.hop, b) }

end State

/-! The commands. -/

/-- FLIT_RECEIVE (R461 to R464, R470, R471). -/
def flitReceiveOp (link : Nat) (f : Flit) (s : State) : State :=
  if s.linkUp link = false then s
  else
    let s1 := if f.corrected = 0 then s else s.count (lnkCntCorr link) f.corrected
    let nak := fun (t : State) => t.onLink link fun x => { x with nak := true }
    if f.crcOk = false then
      let s2 := (nak (s1.raise (lnkEvt link) 0)).onLink link fun x => { x with rxFails := x.rxFails + 1 }
      if (s2.link link).rxFails ≥ 8 then (s2.alignmentLost link).onLink link fun x => { x with rxFails := 0 } else s2
    else if f.kind = 3 ∨ f.kind > 3 ∨ (f.kind = 1 ∧ f.vc > 4) then
      nak ((s1.onLink link fun x => { x with rxFails := 0 }).raise (lnkEvt link) 0)
    else
      let s2 := (s1.onLink link fun x => { x with rxFails := 0 }).takeAck link f
      match f.kind with
      | 1 =>
        if f.seq = (s2.link link).rxSeq then
          (s2.onLink link fun x => { x with rxSeq := (x.rxSeq + 1) % 4096, rxAny := true, nak := false }).takeBody link f.vc f.hop f.body
        else nak s2
      | 2 =>
        let s3 := s2.onLink link fun x =>
          { x with freedIn := f.credits.foldl (fun (l : List Nat) c => setPad l (6 * c.1 + c.2.1) (c.2.2 % 65536) 0) x.freedIn }
        if f.nak.isSome then s3.replay link else s3
      | _ => s2

/-- REPLAY_TIMEOUT (R464). -/
def replayTimeoutOp (link : Nat) (s : State) : State :=
  if s.linkUp link = false ∨ (s.link link).unacked = [] then s else s.replay link

/-- LINK_TRAINING_START (R465): a DOWN link that is enabled begins training. -/
def linkTrainingStartOp (link : Nat) (s : State) : State :=
  if link ≥ 96 ∨ (s.link link).st ≠ .down ∨ s.fld (lnkCfg link) 0 1 = 0 ∨ s.mstate = .off ∨ s.mstate = .reset then s
  else s.linkTrain link

/-- LINK_TRAINING_COMPLETE (R465): UP2, UP1 or DOWN by the lanes that passed. The line starts afresh. -/
def linkTrainingCompleteOp (link lanes peer peerLink delay : Nat) (s : State) : State :=
  if (s.link link).st ≠ .training then s
  else if lanes % 4 = 0 then s.linkDown link
  else s.onLink link fun x =>
    { x with
      st := if lanes % 4 = 3 then .up2 else .up1, lane := if lanes % 4 = 2 then 1 else 0, wasUp := true, peer := peer % 2 ^ 13,
      peerLink := peerLink % 2 ^ 7, delay := delay % 2 ^ 16, rxSeq := 0, rxFails := 0, nak := false, rxAny := false, txSeq := 0,
      unacked := [], resend := 0, replays := 0, sent := [], freedIn := [], freedOut := [], asm := [], sinceLctl := 0, slotTime := 0 }

/-- LANE_DROP (R465, R466, R584): the link runs on the other lane; a link that has lost its only lane goes DOWN. -/
def laneDropOp (link lane : Nat) (s : State) : State :=
  let drop := fun (t : State) => (t.raise (lnkEvt link) 2).corrected
  match (s.link link).st with
  | .up2 => (drop (s.slotBreaks link)).onLink link fun x => { x with st := .up1, lane := 1 - lane % 2, resend := x.unacked.length }
  | .up1 => if lane = (s.link link).lane then (drop s).linkDown link else s
  | _ => s

/-- LNK_RETRAIN (R465, R494). -/
def lnkRetrainOp (link : Nat) (s : State) : State := if s.linkUp link then s.linkTrain link else s

/-- LNK_ENABLE_WRITE (R494): a write to LNK_CFG, with ENABLE, RETRAIN and LTHRESH. -/
def lnkEnableWriteOp (link : Nat) (val : Word) (s : State) : State :=
  if link ≥ 96 then s
  else
    let old := s.reg (lnkCfg link)
    let v := ((old.setField 0 1 (val.field 0 1)).setField 2 16 (if val.field 2 16 = 0 then old.field 2 16 else val.field 2 16))
    let s1 := s.setReg (lnkCfg link) v
    if val.bit 0 = false then
      (if (s.link link).st = .fenced ∨ (s.link link).st = .down then s1 else s1.linkDown link)
    else if val.bit 1 then lnkRetrainOp link s1
    else s1

/-- PACKET_FORWARD (R473, R474). -/
def packetForwardOp (p : Packet) (s : State) : State :=
  let s1 := s.onNet fun b => { b with fwd := b.fwd.erase p }
  if s.nodeId = some p.dest then s1.onNet fun b => { b with inbox := b.inbox ++ [p] }
  else match s.choices p.dest p.vc with
    | [] => s1.raise rtEvt 0
    | c :: cs =>
      if p.hop ≥ 5 then s1.raise rtEvt 1
      else
        let l := if p.vc ≤ 2 then c else (c :: cs).getD ((p.src + p.tag.toNat) % (cs.length + 1)) c
        s1.queuePacket l { p with hop := p.hop + 1 }

/-- FLIT_TRANSMIT (R464, R469, R470): one flit time of a link's transmitter. -/
def flitTransmitOp (link : Nat) (s : State) : State :=
  let x := s.link link
  if s.linkUp link = false then s
  else
    let s0 := s.onLink link fun y => { y with slotTime := if s.inSlot link then y.slotTime + 1 else 0 }
    if x.sinceLctl ≥ 63 then s0.sendLctl link
    else if x.resend > 0 then
      let f := x.unacked.getD (x.unacked.length - x.resend) default
      (s0.sendFlit link { f with ack := (x.rxSeq + 4095) % 4096, ackv := x.rxAny }).onLink link fun y => { y with resend := y.resend - 1 }
    else match (s.vcOrder link).findSome? fun vc => (s.ready link vc).map fun r => (vc, r) with
      | some (vc, i, hop, body) =>
        let f := s.mkFlit link 1 vc hop x.txSeq body none []
        (s0.sendFlit link f).onLink link fun y =>
          { y with
            txSeq := (y.txSeq + 1) % 4096, unacked := y.unacked ++ [f], txq := y.txq.eraseIdx i,
            sent := setPad y.sent (6 * vc + hop) ((y.sent.getD (6 * vc + hop) 0 + 1) % 65536) 0,
            bulkTurn := if vc = 3 then true else if vc = 4 then false else y.bulkTurn }
      | none =>
        if x.nak then s0.sendLctl link
        else (s0.emit (.flit link (s.mkFlit link 0 0 0 0 [] none []))).onLink link fun y => { y with sinceLctl := y.sinceLctl + 1 }

namespace State

/-- SET_ROUTE (R472). -/
def setRouteCmd (s : State) (c : HostCmd) : State :=
  let n := c.a1.field 0 13
  let e := c.a2
  if n ≥ 4096 ∨ ((List.range 4).any fun i => e.bit (8 * i + 7) && e.field (8 * i) 7 ≥ 96)
      ∨ (e.bit 35 = false ∧ (e.field 32 3 = 0 ∨ e.field 32 3 > 6)) then s.refuse c stBound
  else (s.setReg (rte n) e).complete c stOK

end State

/-- SET_ROUTE. -/
def setRouteOp (c : HostCmd) (s : State) : State :=
  s.command c { op := 0x005, set := fun t => t.inA, masks := [bits 0 13, bits 0 36] } fun c t => t.setRouteCmd c

end Sys2Proof.Machine
end

