-- ==== Sys2Proof/Machine/Rack.lean ====
section
/-! DEFINITION. Numbering, the manager's duties, routed admissions, standby and takeover (R477 to R489, R498, R567). -/

namespace Sys2Proof.Machine

open Adr

/-- Water-filling over demands in ascending order: what each gets of `e`, with `n` still to serve (R483). Whole parts are
given; `e` and the demands are in one unit. -/
def waterFill (e n : Nat) : List (Nat × Nat) → List (Nat × Nat)
  | [] => []
  | (p, w) :: r => if w * n ≤ e then (p, w) :: waterFill (e - w) (n - 1) r else (p, e / n) :: r.map fun x => (x.1, e / n)

namespace State

def worker (s : State) (p : Nat) : WrkSt := s.net.workers.at p

/-- The positions that hold a module with an ID that is not LOST (R483). -/
def livePositions (s : State) : List Nat := (s.net.workers.filter fun w => w.2.st == 1 || w.2.st == 2).map (·.1)

/-! Grants (R483). -/

/-- The grants for the next tick, in mJ by position. Energies are held in units of 10^-5 mJ. -/
def grants (s : State) : List (Nat × Nat) :=
  let ps := s.livePositions
  let e := s.fld mgrRackw 0 20 * s.tick.n
  let want := ps.map fun p => (p, min (((s.worker p).demand).getD 0) (s.worker p).envJ * 100000)
  let sum := (want.map (·.2)).foldl (· + ·) 0
  if sum ≤ e then
    let spare := e - sum
    want.map fun w => (w.1, min ((s.worker w.1).envJ * 100000) (w.2 + (if ps.length = 0 then 0 else spare / ps.length)) / 100000)
  else
    let sorted := want.sortBy fun a b => a.2 ≤ b.2
    (waterFill e sorted.length sorted).map fun w => (w.1, w.2 / 100000)

/-- The rack master's own tick state at a change of its duties. -/
def leaveDuties (s : State) : State :=
  (s.onNet fun b => { b with role := 3, standbyReady := false }).onTick fun t => { t with role := .standby }

/-- An epoch is seen (R484, R488, R489): a lower one is counted and refused; at a higher one a rack master stops its duties. -/
def newEpoch (s : State) (e : Word) : State × Bool :=
  let higher : Bool := e.toNat > (s.reg mgrEpoch).toNat
  let (s1, ok) := s.seeEpoch e
  (if higher ∧ s.net.role = 1 then s1.leaveDuties else s1, ok)

/-- A worker becomes LOST (R486, R487). -/
def loseWorker (s : State) (p : Nat) : State :=
  let w := s.worker p
  if w.st ≠ 1 ∧ w.st ≠ 2 then s
  else ((s.onWorker p fun w => { w with st := 3, demand := none, grant := 0 }).raise mgrEvt 0).eventCpl 0x50 w.node

/-! Numbering (R477). -/

/-- A write to MGR_CFG by its field rules (R498): RACK and REFWIRE while unlocked, GOFS within R483, RPT from 1 on, LOCK once set. -/
def mgrCfgWord (s : State) (v : Word) : Word :=
  let old := s.reg mgrCfg
  let w1 := if old.bit 32 then old else old.setField 0 8 (v.field 0 8)
  let g := v.field 8 20
  let w2 := if g < s.tick.n ∧ s.fld tkeLcfg 0 20 + 1000 ≤ g then w1.setField 8 20 g else w1
  let w3 := if v.field 28 4 = 0 then w2 else w2.setField 28 4 (v.field 28 4)
  if v.bit 32 then w3.setField 32 1 1 else w3

/-- The position that the rack master gives the module over service link 88 + `j`: with REFWIRE by R476, a disagreement
answered none; else the next in order (R477). -/
def wiredPos (s : State) (j : Nat) : Option Nat :=
  let x := s.link (88 + j)
  let want := if j % 2 = 0 then 89 + j else 87 + j
  if x.peerLink ≠ want then none else some (if j % 2 = 0 then 2 ^ (j / 2) else 32 - 2 ^ (j / 2))

/-- The service links that are up, whose modules the rack master reaches itself. -/
def serviceUps (s : State) : List Nat := (List.range 8).filter fun j => s.linkUp (88 + j)

/-- The rack master takes position 0, and gives positions to the modules at its service links; one that finds no position free is
refused with ID_EXHAUSTED, and one that is wired otherwise with WIRING_MISMATCH (R37, R477). -/
def numberRack (s : State) : State :=
  let rack := s.fld mgrCfg 0 7
  let me := 32 * rack
  let s1 := (((s.toNode (some me)).onNet fun b => { b with idStatus := 1, rack := rack, pos := 0, lockTick := s.tick.tick }).onWorker 0
    fun w => { w with st := 2, node := me, envJ := s.prof 0 0 13 * s.tick.n / 100000 })
  let join := fun (t : State) (p : Nat) => (t.onWorker p fun w => { w with st := 1, node := me + p }).emit (.assign p (me + p))
  if s.fld mgrCfg 7 1 = 1 then
    s.serviceUps.foldl (fun (t : State) j => match s.wiredPos j with
      | some p => if (t.worker p).st = 0 then join t p else t
      | none => t.emit (.noId (88 + j) 4)) s1
  else s.serviceUps.foldl (fun (t : State) j => match (List.range 32).find? fun p => p ≥ 1 && (t.worker p).st == 0 with
      | some p => join t p
      | none => t.emit (.noId (88 + j) 2)) s1

/-! Routed admissions (R485). -/

/-- H of R485: the low 32 bits of SHAKE256 over the tag, the node and the glove. -/
def routeHash (tag node glove : Nat) : Nat := leAt (Config.shake256 (toBytes tag 4 ++ toBytes node 2 ++ toBytes glove 1) 4) 0 4

/-- The valid candidates of a model, by descending H. -/
def routeOrder (s : State) (model tag : Nat) : List Word :=
  ((s.net.router.at model).filter fun w => w.bit 63).sortBy fun a b =>
    routeHash tag (b.field 0 13) (b.field 13 6) ≤ routeHash tag (a.field 0 13) (a.field 13 6)

/-- Whether a candidate's module reports EARLY, SERVICE or DEGRADED and a FREE SEQT entry. -/
def routeOpen (s : State) (w : Word) : Bool :=
  let n := w.field 0 13
  if s.nodeId = some n then s.inS && s.nextSeq.isSome
  else s.net.workers.any fun p => p.2.node == n && p.2.st == 2 && 3 ≤ p.2.rep.mstate && p.2.rep.mstate ≤ 5 && p.2.rep.seqFree > 0

/-- The admission as a candidate takes it: its glove and key slot, without the tag. -/
def routedCmd (s : State) (c : HostCmd) (w : Word) : HostCmd :=
  { c with a1 := (c.a1.setField 0 6 (w.field 13 6)).setField 6 8 (w.field 19 8), a6 := c.a6.setField 32 32 0, epoch := some (s.reg mgrEpoch) }

/-- The candidates are tried in order: one on this module at once, another by a relayed admission whose completion goes on with
the rest (R485). -/
def routeTry (s : State) (c : HostCmd) : List Word → State
  | [] => s.refuse c stFull
  | w :: rest =>
    let d := s.routedCmd c w
    if s.routeOpen w = false then s.routeTry c rest
    else if s.nodeId = some (w.field 0 13) then
      match s.admitCheck d with
      | none => let (t, i) := s.admitSeq d; t.complete c stOK (t.seqHandle i) (w.field 0 13)
      | some st =>
        if st = stFull then (s.raise stwEvt 0).routeTry c rest
        else if st = stConflict then (s.raise stwEvt 1).routeTry c rest
        else s.refuse c st
    else
      ((s.emit (.relay (w.field 0 13) 0x040 (s.reg mgrEpoch) d)).onNet fun b =>
        { b with routing := b.routing ++ [⟨c, rest, some w⟩], relayed := b.relayed ++ [(w.field 0 13, 0x040, c)] })

/-- ROUTE_ADMIT. -/
def routeAdmitCmd (s : State) (c : HostCmd) : State :=
  if s.net.role ≠ 1 then s.refuseModule c
  else s.routeTry c (s.routeOrder (c.a1.field 14 20) (c.a6.field 32 32))

end State

/-! The commands. -/

/-- DEMAND_RECEIVED (R483): the demand for the next tick, while its grants have not been computed. -/
def demandReceivedOp (node : Nat) (tick : Word) (mj envJ : Nat) (s : State) : State :=
  match s.net.workers.find? fun p => p.2.node == node && (p.2.st == 1 || p.2.st == 2) with
  | none => s
  | some p =>
    if s.net.role ≠ 1 ∨ tick.toNat ≠ s.tick.tick + 1 ∨ s.net.grantTick = some s.tick.tick then s
    else s.onWorker p.1 fun w => { w with demand := some mj, envJ := envJ }

/-- GRANT_COMPUTATION (R483): at (t, GOFS), once in each tick. -/
def grantComputationOp (s : State) : State :=
  if s.net.role ≠ 1 ∨ s.tick.phase < s.fld mgrCfg 8 20 ∨ s.net.grantTick = some s.tick.tick then s
  else
    let g := s.grants
    let s1 := g.foldl (fun (t : State) x =>
      let u := t.onWorker x.1 fun w => { w with grant := x.2, demand := none }
      if x.1 = s.net.pos then
        u.onLedger fun l => { l with grants := (l.grants.filter fun y => y.1 ≠ s.tick.tick + 1) ++ [(s.tick.tick + 1, x.2)] }
      else u.emit (.grant (s.worker x.1).node (s.tick.tick + 1) x.2 (s.reg mgrEpoch))) s
    s1.onNet fun b => { b with grantTick := some s.tick.tick }

/-- MGR_CFG_LOCK (R477, R498): a write that sets LOCK. -/
def mgrCfgLockOp (half : Half) (val : Word) (s : State) : State :=
  let v := mergeHalf half (s.reg mgrCfg) val
  let locked := (s.reg mgrCfg).bit 32
  let s1 := s.setReg mgrCfg (s.mgrCfgWord v)
  if v.bit 32 ∧ locked = false ∧ s.net.role = 1 then s1.numberRack else s1

/-- RACK_CONFLICT (R56, R479): the rack master whose LOCK came later, or whose identity is higher, yields. -/
def rackConflictOp (otherLockTick otherIdent : Word) (s : State) : State :=
  let mine := s.net.lockTick
  let yields : Bool := otherLockTick.toNat < mine || (otherLockTick.toNat == mine && deviceIdentity > otherIdent.toNat)
  if s.net.role ≠ 1 ∨ s.nodeId.isNone ∨ yields = false then s
  else
    let s1 := ((s.toNode none).onNet fun b =>
      { b with idStatus := 3, conflict := true,
               workers := b.workers.mapV fun _ w => { w with st := if w.st = 0 then 0 else 4, node := 0x1FFF, demand := none } }).emit
      (.withdraw s.net.rack)
    s1.becomeCrown 0x1FFF

/-- The one-way delay to `node` over the service links, in ns, as measured by echo; 0 while no link to it has been trained (R48). -/
def State.linkDelay (s : State) (node : Nat) : Nat :=
  ((s.net.links.find? fun p => p.2.peer == node).map (·.2.delay)).getD 0

/-- WORKER_REPORT (R486, R487, R602): a worker becomes LIVE at its report; one that reports FAULT becomes LOST. -/
def workerReportOp (pos : Nat) (r : Report) (s : State) : State :=
  if s.net.role ≠ 1 ∨ pos ≥ 32 then s
  else
    let rep := fun (w : WrkSt) => if r.aos then { w.rep with mstate := r.mstate, cap := r.cap } else r
    let s1 := s.onWorker pos fun w =>
      { w with st := if w.st = 4 ∨ r.mstate = 7 then w.st else 2, node := if w.st = 0 then r.node else w.node, lastTick := s.tick.tick,
               missed := 0, rep := rep w }
    if r.mstate = 7 then s1.loseWorker pos
    else if (s.worker pos).st = 2 ∨ (s.worker pos).st = 4 ∨ pos = s.net.pos then s1
    else s1.sendLoad (some (s1.worker pos).node) (s1.linkDelay (s1.worker pos).node / 10 + 1) (s1.linkDelay (s1.worker pos).node)

/-- WORKER_HEARTBEAT_MISS (R486, R487): the eighth in a row, the loss of every link to the rack, or FAULT makes a worker
LOST. -/
def workerHeartbeatMissOp (pos : Nat) (linksLost reportedFault : Bool) (s : State) : State :=
  let w := s.worker pos
  if s.net.role ≠ 1 ∨ (w.st ≠ 1 ∧ w.st ≠ 2) ∨ pos = s.net.pos then s
  else
    let s1 := s.onWorker pos fun w => { w with missed := w.missed + 1 }
    if linksLost ∨ reportedFault ∨ w.missed + 1 ≥ 8 then s1.loseWorker pos else s1

/-- MODULE_HEARTBEAT (R486): this module sends its own every 1,000 rc; the rack master restarts the count of the worker that sent one. -/
def moduleHeartbeatOp (pos : Nat) (s : State) : State :=
  let due := s.nodeId.isSome ∧ pos = s.net.pos ∧ s.net.sentBeat + 1000 ≤ s.tick.rcs
  let s1 := if due then (s.onNet fun b => { b with sentBeat := s.tick.rcs }).emit (.heartbeat 0) else s
  if s.net.role = 1 ∧ (s.worker pos).st ≠ 0 then s1.onWorker pos fun w => { w with missed := 0 } else s1

/-- MANAGER_HEARTBEAT (R488): every 100 rc. -/
def managerHeartbeatOp (s : State) : State :=
  if s.net.role = 1 ∧ s.net.sentMgr + 100 ≤ s.tick.rcs then (s.onNet fun b => { b with sentMgr := s.tick.rcs }).emit (.heartbeat 1) else s

/-- The standby manager takes over (R51, R488): the epoch rises by one and is announced, and it becomes tick master. -/
def State.takeDuties (s : State) : State :=
  let e := s.reg mgrEpoch + 1
  let s1 := ((s.setReg mgrEpoch e).emit (.epoch e)).onTick fun t => { t with role := .rackMaster }
  (s1.onNet fun b => { b with role := 1, standbyReady := false }).raise mgrEvt 1

/-- MANAGER_TAKEOVER (R488): after 8 missed heartbeats on both paths, or the fence of the rack master by its AOS. -/
def managerTakeoverOp (_fenced : Bool) (s : State) : State := if s.net.role = 2 then s.takeDuties else s

/-- EPOCH_ANNOUNCE (R488, R489). -/
def epochAnnounceOp (epoch : Word) (s : State) : State := (s.newEpoch epoch).1

/-- MANAGER_RESYNC (R488, R489): the mirror is in sync. -/
def managerResyncOp (s : State) : State :=
  if s.net.role = 0 then s
  else s.onNet fun b => { b with role := if b.role = 3 then 2 else b.role, standbyReady := true }

/-- MANAGER_ROLE_DECISION (R567): a module in the Manager profile takes its role once its service links are trained. -/
def managerRoleDecisionOp (masterSeen standbySeen : Bool) (rivalIdent : Option Word) (s : State) : State :=
  if s.prof 0 13 1 = 0 then (s.onNet fun b => { b with role := 0 }).onTick fun t => { t with role := .worker }
  else
    let loses : Bool := match rivalIdent with | some r => deviceIdentity > r.toNat | none => false
    let role := if masterSeen = false ∧ loses = false then 1 else if standbySeen = false then 2 else 0
    (s.onNet fun b => { b with role := role }).onTick fun t =>
      { t with role := match role with | 1 => (if t.role = .crown then .crown else .rackMaster) | 2 => .standby | _ => .worker }

/-- RELAYED_COMPLETION (R484, R485, R489): a routed admission goes on with its next candidate or completes; any other
completion goes to the host with its TAG. -/
def relayedCompletionOp (c : RelayedCpl) (s : State) : State :=
  if s.net.role ≠ 1 then s
  else match s.net.relayed.find? fun r => r.1 == c.node && r.2.2.tag == c.tag with
    | none => s.putCq (s.fld (hifCrCfg 0) 12 8) 0 (s.cplWords c.tag.toNat 0 c.status 0 c.res0 c.res1)
    | some r =>
      let s1 := s.onNet fun b => { b with relayed := b.relayed.erase r }
      match s.net.routing.find? fun x => x.cmd == r.2.2 with
      | none => s1.complete r.2.2 c.status c.res0.toNat c.res1.toNat
      | some x =>
        let s2 := s1.onNet fun b => { b with routing := b.routing.erase x }
        if c.status = stFull ∨ c.status = stConflict then s2.routeTry x.cmd x.left
        else if c.status = stOK then s2.complete x.cmd stOK c.res0.toNat c.node
        else s2.refuse x.cmd c.status

/-- ROUTE_ADMIT (R485): A1[5:0] is ignored. -/
def routeAdmitOp (c : HostCmd) (s : State) : State :=
  s.command c { op := 0x041, set := fun t => t.inS, masks := [bits 0 56, bits 0 56, bits 0 40, bits 0 56, allBits, allBits] }
    fun c t => t.routeAdmitCmd c

end Sys2Proof.Machine
end

