-- ==== Sys2Proof/Machine/Resets.lean ====
section
/-! DEFINITION. Resets: their causes, what a warm and a cold reset do, the stretch and the sample of RESET_N, and the thermal trip (R549 to R556, R563, R574, R580, R600, R615, R634). -/

namespace Sys2Proof.Machine

open Adr

/-- Whether an address of a compute die's block holds a counter (R111, R161, R195, R230, R278, R325). -/
def keptDie (o : Nat) : Bool :=
  (0x28 ≤ o && o ≤ 0x50) || (0x1018 ≤ o && o ≤ 0x1028) || (0x2008 ≤ o && o ≤ 0x2020)
    || (0x3000 ≤ o && o < 0x3400 && 0x28 ≤ o % 0x80 && o % 0x80 ≤ 0x48) || o == 0x3400 || (0x4018 ≤ o && o ≤ 0x4048)
    || (0xE0000 ≤ o && o < 0xE0400 && 0x18 ≤ o % 0x100 && o % 0x100 ≤ 0x40)

/-- Whether an address of an I/O die's block holds a counter, a batch generation, the routing table, MGR_CFG or the error log
(R325, R350, R383, R422, R492, R551, R603, R605). -/
def keptIod (o : Nat) : Bool :=
  (0x10 ≤ o && o ≤ 0x38) || (0x1000 ≤ o && o < 0x1180 && (o % 0x40 == 0x10 || o % 0x40 == 0x18 || o % 0x40 == 0x28))
    || (0x2010 ≤ o && o ≤ 0x2020) || (0x20018 ≤ o && o ≤ 0x20058) || (0x21000 ≤ o && o < 0x21200) || (0x40020 ≤ o && o ≤ 0x40090)
    || (0x50000 ≤ o && o < 0x50C00 && 0x18 ≤ o % 0x80 && o % 0x80 ≤ 0x40) || (0x60000 ≤ o && o < 0x70000)
    || o == 0x70010 || o == 0x70018 || o == 0x70020 || (0x70048 ≤ o && o ≤ 0x70058) || (0x80028 ≤ o && o ≤ 0x80058)
    || (0x81000 ≤ o && o < 0x83000)

/-- Whether the register at an address keeps its value across a warm reset (R63, R459, R524, R548, R551, R579 and the counter
rules of each block). -/
def warmKept (a : Nat) : Bool :=
  if a < 0x1000000 then
    (0x400040 ≤ a && a ≤ 0x400070) || (0x401040 ≤ a && a ≤ 0x401090) || (0x401100 ≤ a && a < 0x401200 && a % 32 == 8)
      || (0x402000 ≤ a && a < 0x403000 && a % 64 == 0x38) || (0x800080 ≤ a && a ≤ 0x8000E0) || (0x200020 ≤ a && a ≤ 0x200048)
      || (0x300030 ≤ a && a ≤ 0x300040) || (0x100038 ≤ a && a ≤ 0x100050) || a == aosRstcause || a == aosRsttick
  else if a < 0x2000000 then keptDie ((a - 0x1000000) % 0x200000)
  else keptIod ((a - 0x2000000) % 0x400000)

/-- Whether the register at an address belongs to the error log, which survives every reset other than POWER_ON (R603). -/
def logKept (a : Nat) : Bool := a == rasLogptr || (rasLog 0 0 ≤ a && a < rasLog 256 0)

namespace State

/-! What a warm reset keeps and what it ends (R551). -/

/-- Every queued and running migration request ends, with no completion (R551): extents in WRITING are freed, a MOVE frees its
deep chunks, a FREE that waited takes effect, and every HOLD bit clears. -/
def dropRequests (s : State) : State :=
  let s1 := s.onMem fun m =>
    { m with queue := [], waiting := [], heldWrites := [], relocs := [], lz2Fills := [], lz2Seals := [],
             tmap := m.tmap.mapV fun _ x => { x with hold := false } }
  (s1.mem.extents.map (·.1)).foldl (fun t i =>
    let e := t.extent i
    let t1 := t.onExtent i fun x => { x with copies := 0, newChunks := [], st := if x.st = .moving then .sealed else x.st }
    if e.st = .writing ∨ e.dying then t1.freeExtent i else t1) s1

/-- The extents that SEQT side records name, and the page extents of the LZ2 view, are freed (R551). -/
def freeCaches (s : State) : State :=
  let s1 := (s.stw.seqt.flatMap fun p => p.2.handles).foldl (fun t h => t.releaseHandle h) s
  s1.lz2Off

/-- Every frame that is neither ABSENT nor SYSTEM becomes FREE (R551). -/
def freeFrames (s : State) : State :=
  s.onMem fun m => { m with tmap := m.tmap.mapV fun _ x =>
    if x.mode = .absent ∨ x.mode = .system then x else { x with mode := .free, glove := 0, key := 0, readers := 0 } }

/-- The steward's tables at a warm reset (R551): model records stay, PARKED; adapter slots, SEQT entries and nodes become free;
each entry keeps its incarnation. -/
def warmSteward (s : State) : State :=
  let used := (s.stw.seqt.filter fun p => p.2.st != .free).map (·.1)
  s.onStw fun b =>
    { (default : StewardBlk) with
      seqt := b.seqt.mapV fun _ x => { (default : SeqEnt) with inc := x.inc }
      seqFreed := b.seqFreed ++ used
      seqNext := b.seqNext
      models := b.models.mapV fun _ x =>
        if x.st = .absent then x
        else { x with st := .parked, gloves := 0, swin := none, repl := none, exts := x.exts.map fun e => { e with nta := 0 } }
      adapters := b.adapters.mapV fun _ x => { (default : AdpSt) with version := x.version }
      pool := b.pool, poolPairs := b.poolPairs, mdlPairs := b.mdlPairs }

/-- What is left of a palm at a warm reset (R637): causes 1 and 2. -/
def warmPalms (s : State) : SMap PalmSt :=
  s.arr.palms.mapV fun _ x => { (default : PalmSt) with causes := x.causes.filter fun c => c = 1 ∨ c = 2 }

/-- Channels and ports at a warm reset: a FENCED one stays so unless its I/O die was fenced (R316, R591); the others are
trained again with stored results. -/
def warmPorts (s : State) : State :=
  s.onMem fun m =>
    { m with
      ddr := m.ddr.mapV fun i x =>
        { x with st := if x.st = .fenced ∧ ¬ s.aos.iodFenced.contains (i / 6) then .fenced else .absent, returnCmd := none }
      dpp := m.dpp.mapV fun i x =>
        { x with st := if x.st = .fenced ∧ ¬ s.aos.iodFenced.contains i then .fenced else .absent, nvmeReady := false, returnCmd := none }
      hbmStacks := m.hbmStacks.mapV fun _ x => if x.retired then x else { x with trained := false, power := 1, tries := 0 } }

/-- A warm reset (R551, R634). -/
def warmReset (s : State) : State :=
  let s1 := (((s.freeCaches).dropRequests).freeFrames).warmPorts.warmSteward
  let z := State.reset
  { s1 with
    dies := s.dies.mapV fun _ x => { (default : DieSt) with idleW := x.idleW, vcore := x.vcore }
    arr := { (default : ArrayMem) with repair := s.arr.repair, failed := s.arr.failed, palms := s.warmPalms }
    seq := default
    glv := []
    ledger := { (default : LedgerSt) with lastTick := s.ledger.lastTick }
    rung := default
    net := { z.net with idStatus := s.net.idStatus, rack := s.net.rack, pos := s.net.pos, conflict := s.net.conflict,
                        lockTick := s.net.lockTick, grantTick := s.net.grantTick }
    host := { z.host with perst := s.host.perst, gen := s.host.gen, width := s.host.width, energyJ := s.host.energyJ, mtrLast := s.host.mtrLast }
    tick := { s.tick with role := .worker }
    regs := (s.regs.filter fun p => warmKept p.1)
    aos := { s.aos with pend := match s.aos.pend with | some (p, none) => some (p, none) | _ => none } }

/-- RAS_CTL.LOCK at a warm reset (R606). -/
def keepLock (s old : State) : State := s.setFld rasCtl 2 1 (old.fld rasCtl 2 1)

/-- A cold reset (R551): what the part, its OTP, its firmware stores and its SSDs hold stays; the tick restarts from 0. The error
log stays but at POWER_ON (R603). -/
def coldReset (s : State) (powerOn : Bool) : State :=
  let z := State.reset
  { z with
    variant := s.variant
    mem := { z.mem with deep := s.mem.deep, catalogue := s.mem.catalogue }
    dies := if powerOn then z.dies else s.dies.mapV fun _ x => { (default : DieSt) with vcore := x.vcore }
    host := { z.host with perst := s.host.perst, gen := s.host.gen, width := s.host.width }
    tick := { z.tick with refclk := s.tick.refclk && !powerOn }
    regs := if powerOn then z.regs else s.regs.filter fun p => logKept p.1
    aos := { s.aos with pend := none }
    out := s.out
    freeCtr := s.freeCtr
    pending := s.pending }

/-- What the AOS itself loses at any reset: bring-up begins again, the report and its key are gone, an activation stops with its
banks unchanged, and a burn leaves its area used and not valid (R536, R559, R572, R591, R596, R597). -/
def clearAos (a : AosBlk) : AosBlk :=
  { a with
    stage := 0, lead := 0, fromS4 := none, poolHold := 0, running := [], act := none, burn := none,
    pllGood := [], pllOnce := [], relocks := [], pllBad := [], watched := false, aos1Ready := false, iodFenced := [], faultCause := 0,
    rerunLimits := [], wideTrained := false, selfTested := [], bootStage := 0, bootFail := false, trngOk := false, abusy := false,
    aready := false, avsUp := [], xkey := none, repMpub := [], report := [], sampling := false }

/-- Internal reset is asserted by a cause that arrived in this same reference cycle (R554). -/
def sameCause (s : State) : Bool := s.aos.asserted && s.tick.refclk && s.aos.causeNew

/-- The cause that AOS_RSTCAUSE records once `cause` is accepted, and whether that one is cold (R554): of the causes of one reference
cycle a cold one before a warm one, then the lowest code; a cause of a later cycle replaces the one recorded. -/
def causeKept (s : State) (cause : Nat) (cold : Bool) : Nat × Bool :=
  let old := (s.fld aosRstcause 0 4, s.aos.causeCold)
  if s.sameCause ∧ ((old.2 ∧ cold = false) ∨ (old.2 = cold ∧ old.1 < cause)) then old else (cause, cold)

/-- A reset cause is accepted (R550 to R554): internal reset is asserted, RESET_N is driven low, and the cause is recorded.
The reset is cold when any of its causes is. -/
def acceptReset (s : State) (cause : Nat) (cold : Bool) : State :=
  let again := s.aos.asserted
  let wasCold := again && s.aos.cold
  let k := s.causeKept cause cold
  let at_ := if cause = 1 then 0 else if s.sameCause then (s.reg aosRsttick).toNat else s.tick.tick
  let s1 := if cold ∧ wasCold = false then s.coldReset (cause = 1)
    else if cold ∧ cause = 1 then s.coldReset true
    else if again then s else s.warmReset.keepLock s
  let s2 := (s1.onAos clearAos).toMode .reset
  let s3 := s2.onAos fun a =>
    { a with asserted := true, cold := cold || wasCold, causeAge := 0, causeNew := true, causeCold := k.2, driven := true,
             windows := if cause = 1 ∨ cause = 5 then 0 else a.windows, sinceCold := if cold then 0 else a.sinceCold,
             window := if cold then 0 else a.window }
  let s4 := (s3.setReg aosRstcause (BitVec.ofNat 64
    (k.1 + (if cold || wasCold then 2 ^ 4 else 0) + (if again ∧ cause ≠ 1 then 2 ^ 5 else 0)))).setReg aosRsttick (BitVec.ofNat 64 at_)
  let s5 := if again ∨ cold then s4 else s4.raise aosEvt 3
  s5.emit (.pin "RESET_N" false)

/-- A cause other than POWER_ON: accepted while VAON is good (R550, R574). -/
def resetCause (s : State) (cause : Nat) (cold : Bool) : State := if s.mstate = .off then s else s.acceptReset cause cold

/-! The thermal trip (R600). -/

/-- A thermal trip is taken: THERMTRIP_N and RESET_N go low, every PLL stops, internal reset is asserted, and the near and wide
tiers are lost. -/
def takeTrip (s : State) : State :=
  if s.aos.tripped ∨ s.mstate = .off then s
  else
    let s1 := s.errClass 4 10 0 0 0 0
    let s2 := ((s1.warmReset.keepLock s1).onAos clearAos).toMode .reset
    let s3 := (s2.onAos fun a => { a with tripped := true, asserted := true, driven := true, sampling := false }).onMem fun m =>
      { m with near := [], nearTag := [], wide := [] }
    (s3.emit (.pin "THERMTRIP_N" false)).emit (.pin "RESET_N" false)

/-- REFCLK is judged absent (R563, R60): both counters stop, the memories are put into self-refresh, and a warm reset with cause
REFCLK_LOSS follows. -/
def loseRefclk (s : State) : State :=
  if s.tick.refclk = false then s.onAos fun a => { a with windows := 0 }
  else (s.resetCause 5 false).onTick fun t => { t with refclk := false }

end State

/-! The commands. -/

/-- POWER_ON (R550): VAON rises through power-good. -/
def powerOnOp (s : State) : State :=
  if s.mstate ≠ .off then s
  else
    let s1 := s.onAos fun a => { a with asserted := false, tripped := false, otpLoading := false }
    s1.acceptReset 1 true

/-- EXT (R552, R553): RESET_N held low from outside for 1,000 rc is a cold reset; a shorter pulse is ignored and counted. While the AOS
drives the pin it cannot see the drive. -/
def extOp (lowRc : Nat) (s : State) : State :=
  if s.mstate = .off ∨ s.aos.driven then s
  else if lowRc < 1000 then s.raise aosEvt 0
  else s.acceptReset 2 true

/-- RAIL (R550, R615): not accepted before stage 4 watches the rail, nor while THERMTRIP_N is low. -/
def railOp (idx : Nat) (s : State) : State :=
  if s.aos.watched = false ∨ s.aos.tripped then s
  else (s.resetCause 3 true).onAos fun a => { a with railBad := if a.railBad.contains idx then a.railBad else a.railBad ++ [idx] }

/-- THERMTRIP (R550, R600): the trip ends, THERMTRIP_N is released, and the cause is accepted. -/
def thermtripOp (s : State) : State :=
  if s.aos.tripped = false then s
  else ((s.onAos fun a => { a with tripped := false, asserted := false, railBad := [] }).emit (.pin "THERMTRIP_N" true)).acceptReset 4 true

/-- THERMAL_TRIP (R600): a sensor reads 115 °C or more. -/
def thermalTripOp (s : State) : State := s.takeTrip

/-- REFCLK_LOSS (R563). -/
def refclkLossOp (s : State) : State := s.loseRefclk

/-- REFCLK_WINDOW (R563): REFCLK is present in a window that counts 3,072 to 5,120 cycles. When it returns, the tick block is
ACQUIRING (R57). -/
def refclkWindowOp (count : Nat) (s : State) : State :=
  if s.mstate = .off then s
  else
    let s0 := s.setFld aosClkstat 16 16 count
    if 3072 ≤ count ∧ count ≤ 5120 then
      let s1 := s0.onAos fun a => { a with windows := a.windows + 1 }
      if s.tick.refclk then s1 else s1.onTick fun t => { t with refclk := true, own := .acquiring }
    else s0.loseRefclk.setFld aosClkstat 16 16 count

/-- WATCHDOG (R550): a warm reset with cause WATCHDOG; the ROM's watchdog runs once the AOS has started. -/
def watchdogOp (s : State) : State := if s.aos.asserted ∨ s.aos.stage = 0 then s else s.resetCause 7 false

/-- AOS_RSTREQ_WRITE (R9, R580): a write with CONFIRM 0xA5 and every reserved bit 0 requests a reset. A write to the high half alone
names no CONFIRM. -/
def aosRstreqWriteOp (half : Half) (val : Word) (s : State) : State :=
  let v := match half with | .whole => val | .lo => val.setField 32 32 0 | .hi => 0
  if v.field 8 8 ≠ 0xA5 ∨ v.field 1 7 ≠ 0 ∨ v.field 16 48 ≠ 0 then s else s.resetCause 8 (v.bit 0)

/-- VAON_LOSS (R574): the module is OFF. -/
def vaonLossOp (s : State) : State := s.toMode .off

/-- RESET_STRETCH_END (R552, R553): internal reset ends once 100,000 rc have been counted since the latest accepted cause, no cause persists (that the
rails are back is the event's own condition) with REFCLK judged present, and RESET_N is released; a cold reset takes the
profile that PROFILE[1:0] names (R567). -/
def resetStretchEndOp (s : State) : State :=
  if s.mstate ≠ .reset ∨ s.aos.asserted = false ∨ s.aos.driven = false ∨ s.aos.tripped ∨ s.tick.refclk = false ∨ s.aos.windows < 16 ∨
      s.aos.causeAge < 100000
  then s
  else
    (s.onAos fun a => { a with asserted := false, driven := false, sampling := true, railBad := [], profile := if a.cold then a.pins else a.profile }).emit (.pin "RESET_N" true)

/-- RESET_N_SAMPLE (R553, R571, R574): 5 µs after its release the pin is sampled; high, the module enters BRINGUP with the AOS ROM
running; low, EXT is accepted at once. A loading of an OTP generation that the reset cut short starts again (R559). -/
def resetNSampleOp (high : Bool) (s : State) : State :=
  if s.aos.sampling = false then s
  else if high = false then s.acceptReset 2 true
  else
    let s1 := if s.aos.otpLoading then s.raise aosEvt 2 else s
    (s1.toMode .bringup).onAos fun a => { a with sampling := false, cold := false, stage := 1, bootStage := 1, otpLoading := true }

end Sys2Proof.Machine
end

