-- ==== Sys2Proof/Machine/Pads.lean ====
section
/-! DEFINITION. The states of the module's outputs from the acceptance of a reset until their blocks configure them (R555, R624). -/

namespace Sys2Proof.Machine

open Adr

/-- A pin or interface of R555: its general pins are those of R624. -/
inductive Pad where
  | resetN | thermtripN | alertN | smbScl | smbSda
  | link (l : Nat) | he | dpPerstN (i : Nat) | ddrResetN (c : Nat) | ddrCsN (c : Nat) | hbmReset (n : Nat)
  | avsClk (k : Nat) | avsMdata (k : Nat) | tdo | dsbScl (i : Nat) | dsbSda (i : Nat) | heClkreqN | dpClkreqN (i : Nat)
deriving DecidableEq, Repr, Inhabited

/-- What a pin does: driven low or high, transmitters in electrical idle, released, high impedance with a weak pull-down or pull-up, or in
use by its block. -/
inductive PadState where
  | low | high | idle | released | pullDown | pullUp | used
deriving DecidableEq, Repr, Inhabited

namespace State

/-- The state of a pin (R555, R556, R624): each holds its reset state until its block configures it. The test access port is held in reset
by TRST_N, so TDO is not driven (R622). -/
def padState (s : State) (p : Pad) : PadState :=
  let cold := s.aos.cold || s.mstate == .off
  let until_ := fun (used : Bool) (x : PadState) => if used then .used else x
  match p with
  | .resetN => if s.aos.driven then .low else .released
  | .thermtripN => if s.aos.tripped then .low else .released
  | .alertN => if s.reg hifAlert &&& s.reg hifAlmask == 0 then .released else .low
  | .smbScl | .smbSda => until_ (s.aos.bootStage ≥ 2) .released
  | .link l => until_ ((s.net.links.at l).st != .down && (s.net.links.at l).st != .fenced) .idle
  | .he => until_ (s.host.gen != 0) .idle
  | .dpPerstN i => until_ ((s.mem.dpp.at i).st != .absent) .low
  | .ddrResetN c => until_ ((s.mem.ddr.at c).st != .absent) (if cold then .low else .high)
  | .ddrCsN c => until_ ((s.mem.ddr.at c).st != .absent) .low
  | .hbmReset n => until_ (s.mem.hbmStacks.at n).trained (if cold then .low else .high)
  | .avsClk k | .avsMdata k => until_ (s.aos.avsUp.contains k) .pullDown
  | .tdo => .pullUp
  | .dsbScl _ | .dsbSda _ => until_ s.aos.wideTrained .released
  | .heClkreqN => until_ (s.host.gen != 0) .released
  | .dpClkreqN i => until_ ((s.mem.dpp.at i).st != .absent) .released

end State

end Sys2Proof.Machine
end

