-- ==== Sys2Proof/Machine/BringUp.lean ====
section
/-! DEFINITION. OTP generations, clocks, profiles and the bring-up order (R532, R533, R557 to R575, R617). -/

namespace Sys2Proof.Machine

open Adr

/-- The PLLs of a variant (R561). -/
def pllParts (v : Variant) : List PllPart :=
  (List.range 8).map .arrayDie ++ (List.range 8).map .coreDie ++ (List.range v.hbmStacks).map .stack ++ (List.range v.iods).map .ddr
  ++ (List.range 24).map .link ++ (List.range 4).map .deep ++ (List.range v.iods).map .fabric

/-- Whether the fields of a generation's profiles lie in their ranges (R558, R565). -/
def profilesOk (l : List Word) : Bool :=
  (List.range 4).all fun p =>
    let env := (l.getD (4 * p) 0).field 0 13
    2400 ≤ env && env ≤ 4400 && (l.getD (4 * p + 1) 0).field 32 32 ≤ 16777216

/-- Whether a generation is complete and valid (R558). -/
def otpValid (a : OtpArea) : Bool := a.used && a.valid && profilesOk a.profiles

namespace State

/-! Profiles (R565 to R569). -/

/-- Whether the profile's LINKS enable a link (R565). -/
def profLink (s : State) (p l : Nat) : Bool :=
  if l < 64 then (s.profWord p 2).bit l else (s.profWord p 3).bit (l - 64)

/-- LOCAL, FALLBACK and RACKW of the profile in force are loaded (R565, R569). -/
def loadLimits (s : State) : State :=
  ((s.setFld tkeLcfg 20 1 (s.prof 0 21 1)).setFld tkeFallback 0 32 (s.prof 1 0 32)).setFld mgrRackw 0 20 (s.prof 0 22 20)

/-- The profile's values are loaded at bring-up (R565). -/
def loadProfile (s : State) : State :=
  let s1 := s.loadLimits
  let s2 := (List.range 96).foldl (fun t l => t.setFld (lnkCfg l) 0 1 (if s.profLink s.aos.profile l then 1 else 0)) s1
  s2.onStw fun b => { b with pool := s.prof 1 32 32 }

/-- A profile change takes effect at its tick (R569). -/
def changeProfile (s : State) (p : Nat) : State :=
  let s1 := (s.onAos fun a => { a with profile := p, forceArea := a.profArea, pend := none, poolHold := 0 }).loadLimits
  let s2 := (List.range 96).foldl (fun t l =>
    let old := t.fld (lnkCfg l) 0 1 = 1
    if s.profLink p l then
      (if old then t else
        let u := t.setFld (lnkCfg l) 0 1 1
        if (u.link l).st = .down then u.linkTrain l else u)
    else
      let u := t.setFld (lnkCfg l) 0 1 0
      if (u.link l).st = .fenced ∨ (u.link l).st = .down then u else u.linkDown l) s1
  let s3 := if s2.prof 0 19 1 = 1 then s2 else s2.onMem fun m =>
    { m with dpp := m.dpp.mapV fun _ x => if x.st = .fenced then x else { x with st := .absent, nvmeReady := false } }
  let s4 := if s3.prof 0 13 1 = 1 then s3 else (s3.onNet fun b => { b with role := 0 }).onTick fun t => { t with role := .worker }
  (s4.onStw fun b => { b with pool := s4.prof 1 32 32, poolPairs := b.poolPairs + s.aos.poolHold }).trimPool

/-- A die runs faster than a step (R568). -/
def fasterThan (s : State) (step : Nat) : Bool := (List.range 8).any fun k => (s.die k).bring = 4 && s.dieStep k < step

/-- Whether a link is used by a slot of an installed exchange plan (R568). -/
def planUses (s : State) (l : Nat) : Bool :=
  s.stw.plans.any fun p => p.2.valid && p.2.slots.any fun e => (slotUses e).any fun u => u.1 == l

/-- A feature in use that a profile would clear (R568). -/
def clearsUsed (s : State) (p : Nat) : Bool :=
  let w := s.profWord p 0
  (!w.bit 17 && (List.range 64).any fun g => s.fld (stwGcfg g) 45 1 == 1) || (!w.bit 18 && s.mem.lz2Glove.isSome)
  || (!w.bit 19 && s.mem.extents.any fun e => e.2.st != .free && (e.2.deep || e.2.newChunks != []))
  || (!w.bit 20 && s.host.numVf > 0)

/-- SET_PROFILE (R568). -/
def setProfileCmd (s : State) (c : HostCmd) : State :=
  let p := c.a1.field 0 2
  let t := c.a2.toNat
  let manages := s.tick.role == .rackMaster || s.tick.role == .crown || s.tick.role == .standby
  if s.aos.pend.isSome then s.refuseModule c
  else if c.a1.bit 2 then (s.onAos fun a => { a with pend := some (p, none) }).complete c stOK
  else if s.timeRefusal t 0 ≠ stOK then s.refuse c (s.timeRefusal t 0)
  else if (s.prof 0 13 1 = 1 ∧ (s.profWord p 0).bit 13 = false ∧ manages) ∨ s.fasterThan ((s.profWord p 0).field 14 3) ∨ s.clearsUsed p
      ∨ ((List.range 96).any fun l => !s.profLink p l && s.planUses l) then s.refuseModule c
  else
    let more := poolNeed ((s.profWord p 1).field 32 32) - s.stw.poolPairs
    let grows : Bool := (s.profWord p 1).field 32 32 > s.stw.pool
    match s.takePairs (if grows then more else 0) with
    | none => s.refuse c stFull
    | some s1 => (s1.onAos fun a => { a with pend := some (p, some t), poolHold := if grows then more else 0 }).complete c stOK

/-! Firmware at boot (R532, R533, R570). -/

/-- The image of a stage is verified and starts; when its SVN is above the stage's rollback counter, bits are burned until they
are equal (R532). With no image that passes, BOOTFAIL is set (R533). -/
def startStage (s : State) (stage : Nat) : State :=
  let bad := ((([s.aos.banks.at stage, s.aos.banks.at (16 + stage)].map fun b => b.current)).filter fun o =>
    match o with | some i => !i.sound | none => false).length
  let s0 := if bad = 0 then s else s.raise secEvt 0 bad
  match s0.bootImage stage with
  | none => s0.onAos fun a => { a with bootFail := true }
  | some i => s0.onAos fun a =>
      { a with running := a.running.put stage i, rbc := setPad a.rbc (stage - 2) (max (s0.rbcOf stage) i.svn) 0,
               bootStage := max a.bootStage stage }

/-! Clocks (R562). -/

/-- A failing PLL puts its block out of service (R562): in service its die, stack, channels, links or port are fenced. -/
def failPll (s : State) (p : PllPart) (service : Bool) : State :=
  match p with
  | .arrayDie k => (s.errClass 3 0 k 0 0 0).fullFence k
  | .coreDie k => if (s.die k).arrayFence ∨ (s.die k).fullFence then s else (s.errClass 3 0 k 0 0 0).arrayFence k
  | .stack n => (s.errClass 3 2 n 0 0 0).retireStackDie n
  | .ddr i => ((List.range 6).map (· + 6 * i)).foldl (fun t c =>
      if t.portSt false c = .absent ∨ t.portSt false c = .fenced then t else t.fencePort false c) (s.errClass 3 3 (6 * i) 0 0 0)
  | .link g => ((List.range 4).map (· + 4 * g)).foldl (fun t l => t.fenceLink l) (s.errClass 3 5 (4 * g) 0 0 0)
  | .deep i =>
    let s1 := s.errClass 3 4 i 0 0 0
    if s1.portSt true i = .absent ∨ s1.portSt true i = .fenced then s1 else s1.fencePort true i
  | .fabric i => if service then s.acceptReset 6 false else (s.errClass 3 10 0 0 0 0).fenceIod i

/-- Whether every PLL has been judged (R571, stage 4). -/
def pllJudged (s : State) : Bool := (pllParts s.variant).all fun p => s.aos.pllGood.contains p || s.aos.pllBad.contains p

/-! Release (R572 to R574). -/

/-- The stacks of a die. -/
def dieStacks (s : State) (k : Nat) : List Nat := (List.range s.variant.perDie).map (· + s.variant.perDie * k)

/-- Whether each stack of a die is trained or retired, and at least one is trained (R572). -/
def stacksReady (s : State) (k : Nat) : Bool :=
  ((s.dieStacks k).all fun n => (s.stack n).trained || (s.stack n).retired) && (s.dieStacks k).any fun n => (s.stack n).trained

/-- A die whose stacks are ready waits for the wide tier (R581). -/
def stacksDone (s : State) (k : Nat) : State :=
  if (s.die k).bring = 2 ∧ s.stacksReady k then s.onDie k fun d => { d with bring := 3 } else s

/-- The frames of a stack that a cold bring-up has trained: logical frame 2,048 n + p maps to (HSn, p) and is FREE (R290). -/
def mapStack (s : State) (n : Nat) : State :=
  if s.mem.tmap.span (2048 * n) 2048 ≠ [] then s
  else
    let new := (List.range 2048).map fun p => (2048 * n + p, { (default : FrameSt) with stack := n, pframe := p, mode := .free })
    s.onMem fun m => { m with tmap := (m.tmap.filter fun p => p.1 < 2048 * n) ++ new ++ m.tmap.filter fun p => p.1 ≥ 2048 * n + 2048 }

/-- The lattice edges between a die and its released neighbours are trained (R571, stage 9): group W, E, N, S of each side. -/
def trainEdges (s : State) (k : Nat) : State :=
  let pairs := (if k % 4 > 0 then [(k - 1, 0, 1)] else []) ++ (if k % 4 < 3 then [(k + 1, 1, 0)] else [])
    ++ (if k ≥ 4 then [(k - 4, 2, 3)] else []) ++ (if k < 4 then [(k + 4, 3, 2)] else [])
  (pairs.filter fun p => (s.die p.1).bring = 4 && !s.dieFenced p.1).foldl (fun t p => t.onArr fun a =>
    { a with edges := (a.edges.upd (4 * k + p.2.1) fun e => { e with trained := true }).upd (4 * p.1 + p.2.2) fun e => { e with trained := true } }) s

/-- Once every die of an exit from S4 is released or fenced, the exit is over (R575). -/
def endS4 (s : State) : State :=
  if s.aos.fromS4.isSome ∧ (fittedDies.all fun k => (s.die k).bring = 4 || s.dieFenced k) then s.onAos fun a => { a with fromS4 := none } else s

end State

/-! The commands. -/

/-- PLL_WINDOW (R562): a clock is stable after two good windows in a row; a failure at bring-up relocks up to three times, and then
puts the block out of service; a failure in service acts at once. -/
def pllWindowOp (p : PllPart) (ok : Bool) (s : State) : State :=
  if s.mstate = .off ∨ s.mstate = .reset ∨ s.aos.stage < 3 ∨ (pllParts s.variant).contains p = false ∨ s.aos.pllBad.contains p then s
  else if s.aos.pllGood.contains p then
    if ok then s
    else ((s.raise aosEvt 1).onAos fun a => { a with pllGood := a.pllGood.filter (· ≠ p), pllBad := a.pllBad ++ [p] }).failPll p true
  else if ok then
    if s.aos.pllOnce.contains p then s.onAos fun a => { a with pllOnce := a.pllOnce.filter (· ≠ p), pllGood := a.pllGood ++ [p] }
    else s.onAos fun a => { a with pllOnce := a.pllOnce ++ [p] }
  else
    let s1 := (s.raise aosEvt 1).onAos fun a => { a with pllOnce := a.pllOnce.filter (· ≠ p), relocks := a.relocks ++ [p] }
    if (s1.aos.relocks.filter (· = p)).length ≤ 3 then s1 else (s1.onAos fun a => { a with pllBad := a.pllBad ++ [p] }).failPll p false

/-- OTP_GENERATION_SELECT (R558, R559): the newest valid generation is chosen and applied; with none, or with generation 0 not valid, the
module stays in BRINGUP with AOS_OTPSTAT.FAIL. -/
def otpGenerationSelectOp (s : State) : State :=
  if s.mstate ≠ .bringup ∨ s.aos.stage ≠ 1 ∨ s.aos.bootFail then s
  else
    let area := fun (g : Nat) => s.aos.otp.getD g default
    match [3, 2, 1, 0].find? fun g => otpValid (area g) with
    | none => (s.setFld aosOtpstat 10 1 1).onAos fun a => { a with otpLoading := false }
    | some g =>
      if otpValid (area 0) = false then (s.setFld aosOtpstat 10 1 1).onAos fun a => { a with otpLoading := false }
      else
        let s1 := s.onAos fun a => { a with gen := g, profArea := g, forceArea := g, stage := 2, otpLoading := false }
        (List.range 192).foldl (fun t i =>
          let w := (area g).repair.getD i 0
          let r := t.repair (i / 24) (i % 24)
          if w.bit 5 = false ∧ w.bit 13 = false then t
          else t.onRepair (i / 24) (i % 24) fun x =>
            { x with cCol := if w.bit 5 ∧ r.cCol.isNone then some (w.field 0 5) else x.cCol
                     mCol := if w.bit 13 ∧ r.mCol.isNone then some (w.field 8 5) else x.mCol }) s1

/-- AOS_BRINGUP_TAKEOVER (R571): IOD0's AOS has not reached stage 3 within its bound. -/
def aosBringupTakeoverOp (s : State) : State :=
  if s.mstate = .bringup ∧ s.aos.stage < 3 ∧ s.aos.lead = 0 then s.onAos fun a => { a with lead := 1 } else s

/-- AOS_FIRMWARE_START (R533, R567, R571): stage 3; a profile pending for the next reset takes effect. -/
def aosFirmwareStartOp (s : State) : State :=
  if s.mstate ≠ .bringup ∨ s.aos.stage ≠ 2 ∨ s.aos.bootFail then s
  else
    let s1 := s.onAos fun a => match a.pend with | some (p, none) => { a with profile := p, pend := none } | _ => a
    let s2 := s1.loadProfile.startStage 2
    if s2.aos.bootFail then s2 else s2.onAos fun a => { a with stage := 3, aos1Ready := a.lead = 0 }

/-- RAIL_CHECK (R571, R615, R617): stage 4 finds the rails in their windows and watches them from then on, or a reset with cause RAIL
follows. -/
def railCheckOp (ok : Bool) (s : State) : State :=
  if (s.mstate ≠ .bringup ∧ s.aos.fromS4.isNone) ∨ s.aos.stage ≠ 3 then s
  else if ok then s.onAos fun a => { a with stage := 4, watched := true }
  else s.acceptReset 3 true

/-- CONTROL_FIRMWARE_START (R571, R575): stage 5, once every PLL has been judged. Links, channels, deep ports and HE begin training,
and each die begins self-test; at an exit from S4 the verified images are started again and self-test is not repeated. -/
def controlFirmwareStartOp (s : State) : State :=
  if (s.mstate ≠ .bringup ∧ s.aos.fromS4.isNone) ∨ s.aos.stage ≠ 4 ∨ s.pllJudged = false then s
  else
    let s1 := if s.aos.fromS4.isSome then s else (s.startStage 3).startStage 4
    if s1.aos.bootFail then s1
    else
      let s2 := (s1.onAos fun a => { a with stage := 5 }).onStw fun b => { b with running := true }
      let s3 := (List.range 96).foldl (fun t l =>
        if t.fld (lnkCfg l) 0 1 = 1 ∧ (t.link l).st = .down then t.linkTrain l else t) (if s2.host.gen = 0 then s2.trainHost else s2)
      State.fittedDies.foldl (fun t k =>
        if t.dieFenced k then t
        else t.onDie k fun d => { d with bring := if s.aos.fromS4.isSome then 2 else 1 }) s3

/-- SELF_TEST_COMPLETE (R102 to R105, R571, R572): the die's chains are formed and its stack training begins; a die whose mesh fails is
fenced. -/
def selfTestCompleteOp (die : Nat) (t : SelfTest) (s : State) : State :=
  if (s.die die).bring ≠ 1 ∨ s.dieFenced die then s
  else if t.meshOk = false then (s.errClass 3 0 die 0 0 0).fullFence die
  else
    let s1 := (List.range 24).foldl (fun u r => u.onRepair die r fun x => { x with cSpareOk := true, mSpareOk := true }) s
    let note := fun (u : State) (mark : Nat × Nat × FailKind × Nat) =>
      if u.arr.failed.contains mark then u
      else ((u.onArr fun a => { a with failed := a.failed ++ [mark] }).errClass 3 0 die 0 0 0).fenceCount
    let s2 := t.spares.foldl (fun u p => (note u (die, p.1, .spare p.2, 24)).failSpare die p.1 p.2) s1
    let s3 := (List.range 24).foldl (fun u r =>
      [Kind.c, Kind.m].foldl (fun u k => match State.chainWait (u.repair die r) k with
        | some f => if State.spareOk (u.repair die r) k then u.formChain die r k f false else u
        | none => u) u) s2
    let s4 := t.cells.foldl (fun u p => (note u (die, p.1, .cell p.2.1, p.2.2)).failCell die p.1 p.2.1 p.2.2 false) s3
    let s5 := t.switches.foldl (fun u p => (note u (die, p.1, .switch, p.2)).fencePalm (State.palmAt die p.1 p.2) 2) s4
    ((s5.onAos fun a => { a with selfTested := if a.selfTested.contains die then a.selfTested else a.selfTested ++ [die] }).onDie die fun d =>
      { d with bring := 2 }).stacksDone die

/-- STACK_TRAINING_ATTEMPT (R290, R571, R572): three attempts in all; after the third failure the stack is retired. -/
def stackTrainingAttemptOp (stack : Nat) (ok : Bool) (s : State) : State :=
  let k := s.stackDie stack
  if stack ≥ s.variant.hbmStacks ∨ (s.die k).bring ≠ 2 ∨ (s.stack stack).trained ∨ (s.stack stack).retired ∨ s.dieFenced k then s
  else if ok then
    ((s.onStack stack fun x => { x with trained := true, power := 0 }).mapStack stack).stacksDone k
  else
    let s1 := s.onStack stack fun x => { x with tries := x.tries + 1 }
    if (s1.stack stack).tries < 3 then s1
    else ((s1.errClass 3 2 stack 0 0 0).retireStackDie stack).stacksDone k

/-- WIDE_TIER_TRAINED (R308, R571): every populated channel is ACTIVE, FENCED for a failed training, or left untrained for its kind, which
reads FENCED with MISMATCH. -/
def wideTierTrainedOp (dimms : List DimmInfo) (s : State) : State :=
  if s.aos.stage < 5 ∨ s.aos.wideTrained then s
  else
    let fit := dimms.filter fun d => d.channel < s.variant.channels
    let kind := ((fit.sortBy fun a b => a.channel ≤ b.channel).head?.map (·.mrdimm)).getD false
    let used := fit.filter fun d => d.mrdimm == kind
    let speed := used.foldl (fun m d => min m d.speed) ((used.head?.map (·.speed)).getD 0)
    let s1 := fit.foldl (fun t d =>
      if t.portSt false d.channel = .fenced then t
      else
        let bad := d.mrdimm != kind || !d.trained || t.aos.pllBad.contains (.ddr (d.channel / 6)) || t.aos.iodFenced.contains (d.channel / 6)
        let u := t.onDdr d.channel fun x =>
          { x with st := if bad then .fenced else .active, mrdimm := d.mrdimm, x4 := d.x4, speed := speed, capGB := d.capGB,
                   mismatch := d.mrdimm != kind }
        if d.mrdimm = kind ∧ d.trained = false then
          let v := (if u.flag (ddrEvt d.channel) 1 then u else u.setReg (ddrElog d.channel) (BitVec.ofNat 64 (2 * 2 ^ 36))).raise (ddrEvt d.channel) 2
          (v.errClass 3 3 d.channel 0 0 (v.reg (ddrElog d.channel))).fenceCount
        else u) s
    s1.onAos fun a => { a with wideTrained := true }

/-- DIE_RELEASE (R571 to R574): the die's palms that are not fenced are FREE, its idle power is measured (a value the spec leaves
open), the lattice to released neighbours is trained, and the module state advances. -/
def dieReleaseOp (die : Nat) (s : State) : State :=
  let d := s.die die
  if (d.bring ≠ 2 ∧ d.bring ≠ 3) ∨ s.stacksReady die = false ∨ s.aos.wideTrained = false ∨ s.dieFenced die ∨ s.aos.selfTested.contains die = false
  then s
  else
    let i := s.freeCtr
    let early : Bool := s.aos.fromS4.isNone
    let s2 := (s.spend 1).onDie die fun d =>
      { d with bring := 4, step := if early then max 4 (s.prof 0 14 3) else d.step, idleW := (Config.freeWord i).toNat % 4096 }
    let v := State.vcoreOf (s2.die die).step
    let now := if (s2.die die).vcore = 0 then 670 else (s2.die die).vcore
    let s3 := ((if v = now then s2 else s2.commandVcore die (s2.die die).step).trainEdges die).takeBringFrames
    let s4 := if s3.mstate = .bringup then s3.toMode .early else s3
    s4.judgeMod.endS4

/-- PROFILE_CHANGE (R569): at (tick, 0) the pending profile takes effect. -/
def profileChangeOp (s : State) : State :=
  match s.aos.pend with
  | some (p, some t) => if s.reached t 0 then s.changeProfile p else s
  | _ => s

/-- SET_PROFILE. -/
def setProfileOp (c : HostCmd) (s : State) : State :=
  s.command c { op := 0x002, set := fun t => t.inA, masks := [bits 0 3, allBits] } fun c t => t.setProfileCmd c

end Sys2Proof.Machine
end

