-- ==== Sys2Proof/Machine/Rungs.lean ====
section
/-! DEFINITION. The power ladder: set-rung, entry, abandonment, exit and wake events (R295, R446 to R451, R467, R575). -/

namespace Sys2Proof.Machine

open Adr

namespace State

/-- The parts of rung S2 and deeper (R447): the stacks enter self-refresh, and the fabric links, with S3 and S4 every link, go idle
with wake detection. -/
def napParts (s : State) (r : Nat) : State :=
  let s1 := s.onMem fun m => { m with hbmStacks := m.hbmStacks.mapV fun _ x => if x.trained ∧ x.retired = false then { x with power := 1 } else x }
  (List.range 96).foldl (fun t l =>
    if (l < 88 ∨ r ≥ 3) ∧ ((t.link l).st = .up2 ∨ (t.link l).st = .up1 ∨ (t.link l).st = .training) then
      (t.onLink l fun x => { x with st := .down, wasUp := false, asm := [], unacked := [], resend := 0 }).raise (lnkEvt l) 3
    else t) s1

/-- Patterns, sequencers, scratchpads and contexts are lost (R447, S3 and S4); the scratchpad is undefined from then on. -/
def loseArray (s : State) : State :=
  let ms := (List.range 128).flatMap fun p => if (s.palm p).glove.isSome then palmMCells p else []
  let s1 := s.onArr fun a => { (default : ArrayMem) with repair := a.repair, palms := a.palms, edges := a.edges, failed := a.failed }
  let s2 := ms.foldl (fun t c => t.scrambleRows c 0 2048) s1
  s2.onSeq fun q => { (default : SeqBlk) with gsq := q.gsq.mapV fun _ x =>
    { (default : GsqSt) with glove := x.glove, reports := x.reports, slots := List.replicate 4 .empty } }

/-- The condition of the DDR5 channels in the rung (R447): 0 active, 1 in self-refresh, 2 not refreshed. -/
def ddrRefresh (s : State) : Nat := if s.rung.rung < 2 then 0 else if s.rung.rung < 4 then 1 else 2

/-- The power state of the host port and the deep ports in the rung (R447): 0 as in S0, 1 L1, 2 L1.1, 3 L1.2. -/
def portRest (s : State) : Nat := s.rung.rung - 1

/-- What S4 loses (R447, R450, R306): the near and wide tiers, the steward and the command rings, and every extent that is not durable. -/
def loseStandby (s : State) : State :=
  let s1 := (s.mem.extents.filter fun p => p.2.st ≠ .free ∧ p.2.durable = false).foldl (fun t p => t.freeExtent p.1) s
  let s2 := s1.onMem fun m =>
    { m with
      near := [], nearTag := [], wide := [], pairs := [], single := [], sysFrames := 0
      tmap := m.tmap.mapV fun _ x =>
        if x.mode = .absent ∨ x.poison then default else { (default : FrameSt) with stack := x.stack, pframe := x.pframe, mode := .free }
      hbmStacks := m.hbmStacks.mapV fun _ x => if x.retired then x else { x with trained := false, power := 2, tries := 0 }
      ddr := m.ddr.mapV fun _ x => if x.st = .fenced then x else { x with st := .absent } }
  let s3 := s2.onStw fun b =>
    { (default : StewardBlk) with
      seqt := b.seqt.mapV fun _ x => { (default : SeqEnt) with inc := x.inc }
      seqFreed := b.seqFreed, seqNext := b.seqNext, pool := b.pool }
  let s4 := (List.range 256).foldl (fun t n => t.setFld (hifCrCfg n) 4 1 0) s3
  let s5 := s4.onHost fun h => { h with rings := [], ringMem := [] }
  s5.mapDies fun d => if d.arrayFence ∨ d.fullFence then d else { d with bring := 0 }

/-- The module enters rung `r`, and the parts power down (R447, R449). -/
def enterRung (s : State) (r : Nat) : State :=
  let cmd := s.rung.cmd
  let s1 := s.onRung fun x => { x with rung := r, auto := false, pend := none, entering := none, cmd := none, saved := r = 3 }
  let s2 := if r ≥ 2 then s1.napParts r else s1
  let s3 := if r ≥ 3 then s2.loseArray else s2
  let s4 := match cmd with | some c => s3.complete c stOK | none => s3
  if r = 4 then s4.loseStandby else s4

/-- What waited through a rung goes on: held register writes, received commands, requests at the dispatcher, step builds. -/
def resumeAll (s : State) : State :=
  let s1 := (List.range 256).foldl (fun t n => if t.fld (hifCrCfg n) 4 1 = 1 then t.receiveSlots n 4096 else t) s.applyAllHeld
  s1.dispatch.buildAll

/-- The module leaves its rung for S0 (R447, R450, R575). -/
def leaveRung (s : State) (wake : Nat) : State :=
  let r := s.rung.rung
  let s1 := s.onRung fun x => { x with rung := 0, auto := false, lastWake := wake, wake := none, saved := false }
  if r = 4 then
    let s2 := s1.onAos fun a =>
      { a with fromS4 := some s.mstate, stage := 3, wideTrained := false, pllGood := [], pllOnce := [], relocks := [] }
    if s.tick.role.follows then s2.enterT .unlocked else s2
  else
    let s2 := if r ≥ 2 then
        let t := s1.onMem fun m => { m with hbmStacks := m.hbmStacks.mapV fun _ x => if x.trained ∧ x.retired = false then { x with power := 0 } else x }
        (List.range 96).foldl (fun u l => if u.fld (lnkCfg l) 0 1 = 1 ∧ (u.link l).st = .down then u.linkTrain l else u) t
      else s1
    let s3 := if r = 3 then (s.glv.filter fun p => p.2.live).foldl (fun t p => t.beginReset p.1 10) s2 else s2
    s3.resumeAll

/-- The conditions under which a rung is entered (R449). -/
def rungReady (s : State) (r : Nat) : Bool :=
  !s.roundRuns
  && (r < 2 || (!(s.seq.pats.any fun p => p.2.valid && !p.2.done) && !(s.glv.any fun p => p.2.resetting) && !(s.mem.queue.any fun q => q.moving)))
  && (r < 3 || !(s.stw.serve.any fun p => p.2.phase != 0))
  && (r < 4 || (s.mem.queue == [] && s.mem.waiting == []))

/-- A wake event (R450, R451): during an entry it is remembered; in a rung it leaves the rung. -/
def wakeBy (s : State) (src : WakeSrc) : State :=
  let on := fun (b : Nat) => s.fld tkeWake b 1 == 1
  let code := match src with
    | .commandRing => if on 0 then 2 else 0
    | .serviceLink => if on 1 then 3 else 0
    | .smbus => if on 2 then 4 else 0
    | _ => 0
  if code = 0 then s
  else if s.rung.entering.isSome then s.onRung fun r => { r with wake := if r.wake.isSome then r.wake else some src }
  else if s.rung.rung ≥ 1 then s.leaveRung code
  else s

/-- The code of a wake source in TKE_RUNG.LASTWAKE (R454). -/
def wakeCode (w : WakeSrc) : Nat :=
  match w with | .namedTime => 1 | .commandRing => 2 | .serviceLink => 3 | .smbus => 4 | .ledger => 5

/-- SET_RUNG (R448). -/
def setRungCmd (s : State) (c : HostCmd) : State :=
  let r := c.a1.field 0 3
  let now := c.a1.bit 3
  let t := if now then s.tick.tick else c.a2.toNat
  let o := if now then s.tick.phase else c.a3.field 0 20
  let manages := s.tick.role == .rackMaster || s.tick.role == .crown || s.tick.role == .standby
  if r ≥ 5 then s.refuse c stBound
  else if s.rung.pend.isSome ∨ s.rung.entering.isSome ∨ (s.rung.rung ≠ 0 ∧ s.rung.auto = false ∧ r ≠ 0) ∨ (s.rung.rung = 0 ∧ r = 0)
      ∨ (manages ∧ r ≥ 2) ∨ (r = 4 ∧ ((s.glv.any fun p => p.2.live || p.2.draining) ∨ (s.stw.seqt.any fun p => p.2.st != .free))) then
    s.refuseState c 6 s.rung.rung 0
  else if now = false ∧ s.timeRefusal t o ≠ stOK then s.refuse c (s.timeRefusal t o)
  else s.onRung fun x => { x with pend := some (r, t, o), cmd := some c }

end State

/-! The commands. -/

/-- RUNG_CHANGE (R449, R450, R451): at the named time a change to S0 leaves the rung, and any other begins the wait. -/
def rungChangeOp (s : State) : State :=
  match s.rung.pend with
  | none => s
  | some (r, _, _) =>
    if s.turn .rung = false then s
    else if r = 0 then
      let cmd := s.rung.cmd
      let s1 := s.onRung fun x => { x with pend := none, cmd := none, auto := false }
      let s2 := if s1.rung.rung = 0 then s1 else s1.leaveRung 1
      s2.completeOpt cmd stOK
    else
      let s1 := s.onRung fun x => { x with rung := 0, auto := false, entering := some s.tick.tick }
      if r ≥ 2 then s1.onMem fun m => { m with queue := m.queue.map fun q => { q with moving := false } } else s1

/-- RUNG_ENTRY_COMPLETE (R447, R449, R451): the conditions of the named rung hold; an entry that a wake event met is followed at once by
the exit. -/
def rungEntryCompleteOp (s : State) : State :=
  match s.rung.pend with
  | none => s
  | some (r, _) =>
    if s.rung.entering.isNone ∨ s.rungReady r = false then s
    else
      let w := s.rung.wake
      let s1 := s.enterRung r
      match w with
      | some x => s1.leaveRung (State.wakeCode x)
      | none => s1

/-- RUNG_ENTRY_ABANDON (R449): RUNGWAIT ticks have passed. -/
def rungEntryAbandonOp (s : State) : State :=
  match s.rung.entering with
  | none => s
  | some t0 =>
    if s.reached (t0 + s.fld tkeLcfg 44 4) 0 = false then s
    else
      let cmd := s.rung.cmd
      let s1 := (s.onRung fun x => { x with pend := none, entering := none, cmd := none, wake := none }).raise tkeLevt 6
      let s2 := match cmd with | some c => s1.refuseState c 6 s1.rung.rung 0 | none => s1
      s2.resumeAll

/-- WAKE_EVENT (R450, R451). -/
def wakeEventOp (src : WakeSrc) (s : State) : State := s.wakeBy src

/-- LINK_SIGNAL_DETECT (R467): on a link that a rung leaves idle, signal energy is a service-link wake, or starts a fabric link's
training. -/
def linkSignalDetectOp (link : Nat) (s : State) : State :=
  if s.rung.rung < 2 ∨ link ≥ 96 ∨ (s.link link).st ≠ .down then s
  else if link ≥ 88 then s.wakeBy .serviceLink
  else if s.fld (lnkCfg link) 0 1 = 1 then s.linkTrain link
  else s

/-- SET_RUNG. -/
def setRungOp (c : HostCmd) (s : State) : State :=
  s.command c { op := 0x004, set := fun t => t.inD, masks := [bits 0 4, allBits, bits 0 20] } fun c t => t.setRungCmd c

end Sys2Proof.Machine
end

