-- ==== Sys2Proof/Machine/Views.lean ====
section
/-! DEFINITION. What a read of each BAR0 address returns: the live status registers are views of the state, and the others read as they stand (R8 to R11, R32 to R34, and the register tables of the chapters). -/

namespace Sys2Proof.Machine

open Adr

/-- Word `w` of a list of bytes, little-endian; bytes past the end are 0. -/
def wordAt (d : List Byte) (w : Nat) : Word := BitVec.ofNat 64 (leAt d (8 * w) 8)

/-- STATE of a channel or port (R324). -/
def PortState.code : PortState → Nat
  | .absent => 0 | .active => 1 | .draining => 2 | .fenced => 3
/-- STATE of a link (R493). -/
def LnkState.code : LnkState → Nat
  | .down => 0 | .training => 1 | .up2 => 2 | .up1 => 3 | .fenced => 4
/-- STATE of a slot (R232). -/
def SlotState.code : SlotState → Nat
  | .empty => 0 | .loading => 1 | .loaded => 2 | .armed => 3 | .active => 4 | .failed => 5
/-- STATE of a sequencer (R231). -/
def SeqState.code : SeqState → Nat
  | .idle => 0 | .running => 1 | .waiting => 2 | .halted => 3 | .faulted => 4
/-- MODE of a TMAP entry (R290). -/
def FMode.code : FMode → Nat
  | .absent => 0 | .free => 1 | .priv => 2 | .shared => 3 | .system => 4

/-- The port of edge `e` (W, E, N, S) of die `k`: none, a compute-die edge (some none), or I/O die `i` (some (some i))
(R16, R87, R112). -/
def edgePort (v : Variant) (k e : Nat) : Option (Option Nat) :=
  match e with
  | 0 => if k % 4 > 0 then some none else some (some (if k = 0 then 0 else 1))
  | 1 => if k % 4 < 3 then some none else some (some (if k = 3 then 2 else 3))
  | 2 => if k ≥ 4 then some none else if k = 1 ∧ v = .w32 then some (some 4) else none
  | _ => if k < 4 then some none else if k = 6 ∧ v = .w32 then some (some 5) else none

/-- FENCE_CAUSE among the causes in force: 1 and 2 first, the earlier of them, then 3, then 4 (R637). -/
def topCause (l : List Nat) : Nat := (l.find? fun c => c == 1 || c == 2).getD (if l.contains 3 then 3 else if l.contains 4 then 4 else 0)

namespace State

/-! The global block (R32 to R35, R576 to R578). -/

/-- GLB_ID: family, model, variant, and the first stepping shipped (R33). -/
def idWord (s : State) : Word :=
  packWord [(0, 16, 0x4C5A), (16, 8, 3), (24, 8, match s.variant with | .s32 => 1 | .w32 => 2 | .s24 => 3), (32, 8, 0x10)]

/-- GLB_FIT (R34). -/
def fitWord (s : State) : Word :=
  packWord [(0, 4, 8), (4, 4, s.variant.iods), (8, 6, s.variant.hbmStacks), (14, 6, s.variant.channels), (20, 3, 4), (23, 7, 96)]

/-- GLB_PROF (R578). -/
def profStat (s : State) : Word :=
  let (pend, next, atReset) := match s.aos.pend with | some (p, none) => (1, p, 1) | some (p, some _) => (1, p, 0) | none => (0, 0, 0)
  packWord [(0, 2, s.aos.profile), (2, 1, pend), (3, 2, next), (5, 1, atReset), (6, 2, s.aos.pins)]

/-! The AOS and security blocks (R547 to R549, R579 to R581). -/

/-- AOS_OTPSTAT (R581): FAIL stands in the register. -/
def otpStat (s : State) : Word :=
  packWord [(0, 2, s.aos.gen), (2, 4, bitmap 4 fun g => otpValid (s.aos.otp.getD g default)),
    (6, 4, bitmap 4 fun g => (s.aos.otp.getD g default).used), (10, 1, s.fld aosOtpstat 10 1)]

/-- The PLLs of an I/O die (R561). -/
def iodPlls (i : Nat) : List PllPart :=
  [.fabric i, .ddr i] ++ (if i < 4 then .deep i :: (List.range 6).map fun j => .link (6 * i + j) else [])

/-- AOS_CLKSTAT (R581): REFCNT stands in the register. -/
def clkStat (s : State) : Word :=
  packWord [(0, 8, bitmap 8 fun k => s.aos.pllGood.contains (.arrayDie k) && s.aos.pllGood.contains (.coreDie k)),
    (8, 6, bitmap s.variant.iods fun i => (iodPlls i).all s.aos.pllGood.contains),
    (14, 1, bit s.tick.refclk), (16, 16, s.fld aosClkstat 16 16)]

/-- AOS_BRING (R581). -/
def bringStat (s : State) : Word :=
  packWord (((List.range 8).map fun k => (4 * k, 4, if s.dieFenced k then 5 else (s.die k).bring)) ++ [(32, 1, bit s.aos.wideTrained)])

/-- SEC_STAT (R549). -/
def secWord (s : State) : Word :=
  packWord [(0, 3, s.aos.bootStage), (3, 1, bit s.aos.bootFail), (4, 1, bit s.aos.trngOk), (5, 1, bit s.aos.abusy),
    (6, 1, bit s.aos.aready), (7, 1, bit s.aos.xkey.isSome)]

/-- The registers of key slot `n` (R547, R549). -/
def keyWord (s : State) (n w : Nat) : Word :=
  let k := s.keys.at n
  match w with
  | 0 => packWord [(0, 1, bit k.installed), (1, 1, bit k.reqSig), (8, 7, (s.glv.filter fun p => p.2.live && p.2.key == n).length)]
  | 1 => k.tag.extractLsb' 0 64
  | 2 => k.tag.extractLsb' 64 64
  | _ => 0

/-! Compute dies (R110 to R117, R160 to R164, R229 to R235, R277 to R285, R319, R320). -/

/-- ARR_EDGE (R112): an I/O port is trained while both its dies are in service. -/
def edgeWord (s : State) (k : Nat) : Word :=
  if s.mstate = .off ∨ s.mstate = .reset then 0
  else packWord ((List.range 4).flatMap fun e =>
    let x := s.arr.edges.at (4 * k + e)
    match edgePort s.variant k e with
    | none => []
    | some none => [(8 * e, 1, 1), (8 * e + 1, 1, bit x.trained), (8 * e + 2, 1, bit x.marginLow)]
    | some (some i) => [(8 * e, 1, 1), (8 * e + 1, 1, bit ((s.die k).bring == 4 && !(s.die k).fullFence && !s.aos.iodFenced.contains i)),
        (8 * e + 2, 1, bit x.marginLow), (8 * e + 3, 1, 1)])

/-- ARR_RPR of a row (R116). -/
def rprWord (s : State) (k r : Nat) : Word :=
  let x := s.repair k r
  packWord [(0, 5, x.cCol.getD 0), (5, 1, bit x.cCol.isSome), (8, 5, x.mCol.getD 0), (13, 1, bit x.mCol.isSome),
    (16, 1, bit x.cSpareOk), (17, 1, bit x.mSpareOk), (18, 1, bit x.cSrc), (19, 1, bit x.mSrc)]

/-- ARR_PALM of a palm (R117). -/
def palmWord (s : State) (p : Nat) : Word :=
  let x := s.palm p
  packWord [(0, 6, if x.causes = [] then x.glove.getD 0 else 0), (6, 2, if x.causes ≠ [] then 2 else if x.glove.isSome then 1 else 0),
    (8, 4, topCause x.causes), (12, 7, p)]

/-- CEL_ACT of a die (R164). -/
def actWord (s : State) (k : Nat) : Word :=
  packWord ((List.range 16).flatMap fun p =>
    let n := 16 * k + p
    let g := ((s.palm n).glove).getD 64
    let pt := if (s.palm n).glove.isSome then s.pat g else default
    let cells := (palmSites n).filter Site.isC
    let issuing := pt.valid && !pt.done && !pt.faulted && !pt.stopped && (s.img g pt.slot).palms.getLsbD n
      && cells.any fun x => !s.cellDone x.key pt.cycle
    [(4 * p, 2, (s.cell ((cells.headD default).key)).ctx), (4 * p + 2, 1, bit issuing), (4 * p + 3, 1, bit (s.patFrozen g))])

/-- GSQ_STAT (R231). -/
def gsqWord (s : State) (q : Nat) : Word :=
  let x := s.gsq q
  let p := match x.glove with | some g => s.pat g | none => default
  packWord [(0, 3, x.state.code), (3, 5, if x.state = .faulted then x.cause else 0), (8, 11, x.pc), (24, 8, x.st),
    (32, 6, if x.named then x.glove.getD 0 else 0), (38, 2, if p.valid then p.slot else 0), (40, 1, bit p.valid), (41, 1, bit (p.valid && p.done))]

/-- GSQ_SLOTS (R232). -/
def slotsWord (s : State) (q : Nat) : Word :=
  packWord ((List.range 4).map fun i => (4 * i, 4, ((s.gsq q).slots.getD i .empty).code))

/-- GSQ_SECB (R234). -/
def secbWord (s : State) (q : Nat) : Word :=
  let r := (s.gsq q).rerun
  packWord [(0, 16, r.ident), (16, 11, r.addr), (32, 4, r.count)]

/-- WKC_CLAIM (R235). -/
def claimWord (s : State) (k m n : Nat) : Word :=
  if s.fld (wkcNext k m n) 0 32 < s.fld (wkcLimit k m n) 0 32 then BitVec.ofNat 64 (s.fld (wkcNext k m n) 0 32) else 0xFFFFFFFF

/-- RING_CFG and RING_PTR of a ring (R285). -/
def ringWord (s : State) (g j w : Nat) : Word :=
  let r := (s.mcell g).rings.getD j default
  if w = 0 then packWord [(0, 11, r.base), (11, 6, r.srows - 1), (17, 4, r.slots - 1), (21, 1, bit r.isWrite), (22, 1, bit r.active)]
  else packWord [(0, 4, r.head), (4, 4, r.tail), (8, 5, r.full)]

/-- HQ_STAT of a handle queue (R285). -/
def hqWord (s : State) (g q : Nat) : Word :=
  let h := (s.mcell g).hq.getD q default
  packWord [(0, 5, h.handles.length), (5, 16, h.prod.getD 0), (21, 1, bit h.prod.isSome), (22, 5, h.credits)]

/-- NTC_STAT of a stack (R320). -/
def ntcWord (s : State) (n : Nat) : Word :=
  let x := s.stack n
  packWord [(0, 1, 1), (1, 1, bit x.trained), (2, 1, bit x.retired), (3, 2, if x.retired then 2 else x.power), (5, 8, x.temp),
    (13, 1, bit x.refresh2x), (14, 7, x.poisonList.length)]

/-- The registers of compute die `k` at offset `o` of its block. -/
def readDie (s : State) (k o : Nat) : Word :=
  let a := cd k + o
  if o = 0 then s.edgeWord k
  else if 0x100 ≤ o ∧ o < 0x1C0 then s.rprWord k ((o - 0x100) / 8)
  else if 0x200 ≤ o ∧ o < 0x280 then s.palmWord (16 * k + (o - 0x200) / 8)
  else if o = 0x1030 then s.actWord k
  else if 0x3000 ≤ o ∧ o < 0x3400 then
    let q := 8 * k + (o - 0x3000) / 0x80
    match o % 0x80 with
    | 0x00 => s.gsqWord q
    | 0x08 => s.slotsWord q
    | 0x20 => s.secbWord q
    | _ => s.reg a
  else if 0x40000 ≤ o ∧ o < 0x64000 ∧ o % 32 = 0 then s.claimWord k ((o - 0x40000) / 512) ((o - 0x40000) / 32 % 16)
  else if 0xC0000 ≤ o ∧ o < 0xC4800 then s.ringWord (288 * k + (o - 0xC0000) / 64) ((o - 0xC0000) / 16 % 4) (o % 16 / 8)
  else if 0xD0000 ≤ o ∧ o < 0xD1200 then s.hqWord (288 * k + (o - 0xD0000) / 16) ((o - 0xD0000) / 8 % 2)
  else if 0xE0000 ≤ o ∧ o < 0xE0400 ∧ o % 0x100 = 0 then
    if (o - 0xE0000) / 0x100 < s.variant.perDie then s.ntcWord (s.variant.perDie * k + (o - 0xE0000) / 0x100) else 0
  else s.reg a

/-! I/O dies (R290, R323, R324, R349, R352, R421, R424, R491 to R499, R604 to R608). -/

/-- The words of a TMAP entry (R290). -/
def tmapWord (s : State) (f w : Nat) : Word :=
  let e := s.frame f
  if w = 0 then packWord [(0, 5, e.stack), (5, 11, e.pframe), (16, 6, e.glove), (22, 8, if e.mode = .system then 0 else e.key),
    (30, 3, e.mode.code), (33, 1, bit e.hold), (34, 1, bit e.poison)]
  else if e.mode = .shared then e.readers else 0

/-- DDR_STAT (R324). -/
def ddrWord (s : State) (c : Nat) : Word :=
  let x := s.mem.ddr.at c
  packWord [(0, 2, if x.mismatch then 3 else x.st.code), (2, 1, bit x.mrdimm), (3, 1, bit x.x4), (4, 4, x.speed), (8, 12, x.capGB),
    (20, 1, bit x.mismatch), (21, 8, x.temp)]

/-- DPP_STAT (R324). -/
def dppWord (s : State) (i : Nat) : Word :=
  let x := s.mem.dpp.at i
  packWord [(0, 2, x.st.code), (2, 3, x.gen), (5, 3, x.width), (8, 1, bit x.nvmeReady)]

/-- XCH_PLAN (R352). -/
def planWord (s : State) (p : Nat) : Word :=
  let x := s.stw.plans.at p
  if x.valid = false then 0
  else
    let runs : Bool := x.stage == .count || x.stage == .data
    let left := if runs then x.rounds - x.round - 1 else x.rounds - x.round
    packWord [(0, 1, 1), (1, 6, x.glove), (7, 8, x.self), (15, 9, x.npart), (24, 12, x.dests.length), (36, 1, bit x.genchk),
      (37, 1, bit x.stamp), (38, 1, bit (runs || left != 0)), (39, 24, left)]

/-- LNK_STAT (R493). -/
def lnkWord (s : State) (l : Nat) : Word :=
  let x := s.link l
  packWord [(0, 3, x.st.code), (3, 1, x.lane), (4, 1, bit (l ≥ 88)), (5, 13, x.peer), (18, 7, x.peerLink), (32, 16, x.delay)]

/-- NOD_ID (R497). -/
def nodWord (s : State) : Word :=
  packWord [(0, 13, s.nodeId.getD 0x1FFF), (13, 1, bit s.nodeId.isSome), (14, 7, s.net.rack), (21, 5, s.net.pos), (26, 3, s.net.idStatus)]

/-- MGR_STAT (R499). -/
def mgrWord (s : State) : Word :=
  packWord [(0, 2, s.net.role), (2, 1, bit s.net.standbyReady), (3, 6, (s.net.workers.filter fun w => w.2.st == 2).length),
    (9, 1, bit s.net.conflict)]

/-- The worker table (R499). -/
def wrkWord (s : State) (p w : Nat) : Word :=
  let x := s.worker p
  if w = 0 then packWord [(0, 3, x.st), (3, 13, x.node), (16, 3, x.rep.mstate)] else BitVec.ofNat 64 x.lastTick

/-- PFX_STAT (R424). -/
def pfxWord (s : State) : Word := packWord [(0, 32, s.liveNodes.length), (32, 32, s.stw.pool)]

/-- The registers of IOD0 alone. -/
def readIod0 (s : State) (o : Nat) : Word :=
  let a := iod 0 + o
  if o = 0x0 then packWord [(0, 9, s.mem.queue.length), (9, 9, (s.mem.queue.filter fun r => r.moving).length + (s.mem.relocs.filter fun r => r.moving).length)]
  else if o = 0x40 then BitVec.ofNat 64 s.liveExtents
  else if o = 0x48 then BitVec.ofNat 64 (s.freeChunks false)
  else if o = 0x50 then BitVec.ofNat 64 (s.freeChunks true)
  else if o = 0x58 then packWord [(0, 16, s.mem.sysFrames)]
  else if 0x22000 ≤ o ∧ o < 0x22800 then s.planWord ((o - 0x22000) / 8)
  else if o = 0x40010 then s.pfxWord
  else if o = 0x70000 then s.nodWord
  else if 0x70020 ≤ o ∧ o < 0x80000 ∧ o ≠ 0x70038 ∧ s.net.role = 0 then 0
  else if o = 0x70030 then s.mgrWord
  else if 0x71000 ≤ o ∧ o < 0x71200 then s.wrkWord ((o - 0x71000) / 16) (o % 16 / 8)
  else if o = 0x80000 then s.rasWord
  else if 0x100000 ≤ o ∧ o < 0x200000 then s.tmapWord ((o - 0x100000) / 16) (o % 16 / 8)
  else s.reg a

/-- The registers of I/O die `i` at offset `o` of its block. -/
def readIod (s : State) (i o : Nat) : Word :=
  let a := iod i + o
  if i ≥ s.variant.iods then 0
  else if 0x1000 ≤ o ∧ o < 0x1180 ∧ o % 0x40 = 0 then s.ddrWord (6 * i + (o - 0x1000) / 0x40)
  else if o = 0x2000 ∧ i < 4 then s.dppWord i
  else if 0x50000 ≤ o ∧ o < 0x50C00 ∧ o % 0x80 = 0 ∧ i < 4 then s.lnkWord (24 * i + (o - 0x50000) / 0x80)
  else if i = 0 then s.readIod0 o
  else s.reg a

/-! The tick, ledger and glove blocks (R61 to R66, R452 to R458). -/

/-- TKE_TSTATE (R65): a follower reports the worse state of R57. -/
def tstateWord (s : State) : Word :=
  packWord [(0, 3, s.tick.reported.code), (6, 2, s.tick.role.code), (16, 13, s.tick.parent.getD 0x1FFF), (32, 13, s.tick.crown.getD 0x1FFF)]

/-- TKE_DSTAT of a die (R456). -/
def dstatWord (s : State) (k : Nat) : Word :=
  let d := s.die k
  packWord [(0, 3, s.dieStep k), (3, 3, s.fastest), (6, 1, bit d.held), (8, 8, d.temp), (16, 12, d.pb / 100), (28, 12, s.load k / 100)]

/-- TKE_RUNG (R454). -/
def rungWord (s : State) : Word :=
  packWord [(0, 3, s.rung.rung), (3, 3, match s.rung.pend with | some p => p.1 | none => 0), (6, 1, bit s.rung.pend.isSome),
    (7, 1, bit s.rung.auto), (8, 3, s.rung.lastWake)]

/-- The registers of glove `g` (R452, R457). -/
def gloveWord (s : State) (g o : Nat) : Word :=
  let v := s.glove g
  if o = 0x00 then
    packWord ([(28, 17, (s.gloveFrames g).length)] ++
      if v.live then [(0, 3, s.gloveCode g), (3, 6, v.gsq), (9, 8, v.key), (17, 7, v.vf), (24, 4, v.cause)] else [])
  else if v.live = false ∧ o < 0x18 then 0
  else if o = 0x08 then v.palms.extractLsb' 0 64
  else if o = 0x10 then v.palms.extractLsb' 64 64
  else if o = 0x20 then BitVec.ofInt 64 v.bal
  else if o = 0x28 then packWord [(0, 32, v.grant)]
  else if o = 0x30 then packWord ((List.range 4).map fun i => (16 * i, 16, v.cf.getD i 0))
  else s.reg (glvStat g + o)

/-- The registers from 0x0040_0000 to 0x007F_FFFF. -/
def readTke (s : State) (a : Nat) : Word :=
  if a = tkeTick then BitVec.ofNat 64 s.tick.tick
  else if a = tkePhase then BitVec.ofNat 64 s.tick.latchPhase
  else if a = tkePeriod then
    packWord ([(0, 20, s.tick.n)] ++ match s.tick.pend with | some (n, _) => [(20, 20, n), (40, 1, 1)] | none => [])
  else if a = tkePchgTick then (match s.tick.pend with | some (_, t) => BitVec.ofNat 64 t | none => 0)
  else if a = tkeTstate then s.tstateWord
  else if a = tkeOffset then packWord [(0, 32, twos 32 s.tick.ofsNs), (32, 32, twos 32 s.tick.freq)]
  else if a = tkeAllow ∧ s.fld tkeLcfg 20 1 = 0 then packWord [(0, 32, s.ledger.inForce)]
  else if a = tkeLedger then packWord [(0, 32, s.ledger.a), (32, 32, s.ledger.b)]
  else if a = tkeRung then s.rungWord
  else if a = tkeRungt then (match s.rung.pend with | some p => BitVec.ofNat 64 p.2.1 | none => 0)
  else if 0x401100 ≤ a ∧ a < 0x401200 ∧ a % 32 = 0 then s.dstatWord ((a - 0x401100) / 32)
  else if 0x401100 ≤ a ∧ a < 0x401200 ∧ a % 32 = 16 then packWord [(0, 12, (s.die ((a - 0x401100) / 32)).idleW)]
  else if 0x402000 ≤ a ∧ a < 0x403000 then s.gloveWord ((a - 0x402000) / 64) (a % 64)
  else s.reg a

/-! The steward and the host interface (R382 to R385, R522, R523). -/

/-- STW_STAT (R384). -/
def stwWord (s : State) : Word :=
  packWord [(0, 1, s.stw.serving), (1, 1, bit s.stw.standbyReady), (2, 18, (s.stw.seqt.filter fun p => p.2.st != .free).length)]

/-- STW_GSTAT of a glove (R385). -/
def gstatWord (s : State) (g : Nat) : Word :=
  let v := s.serve g
  packWord [(0, 32, v.step), (32, 13, v.nrows), (45, 1, bit (v.phase != 0)), (46, 1, bit v.abandoned)]

/-- HIF_STAT (R523). -/
def hifWord (s : State) : Word :=
  packWord [(0, 3, s.host.gen), (3, 4, s.host.width), (7, 1, bit (s.host.d3.contains 0)), (8, 7, s.host.numVf)]

/-- HIF_CQ_TAIL (R522). -/
def tailWord (s : State) (c : Nat) : Word := packWord [(0, 16, (s.cq c).tail), (16, 1, bit (s.cq c).ph)]

/-- What a 64-bit read of the register at an 8-byte aligned BAR0 address returns. -/
def readReg (s : State) (a : Nat) : Word :=
  if a < 0x100000 then
    if a = glbId then s.idWord else if a = glbFit then s.fitWord else if a = glbCap then s.capWord
    else if a = glbProf then s.profStat
    else if a = glbPtick then (match s.aos.pend with | some (_, some t) => BitVec.ofNat 64 t | _ => 0)
    else 0
  else if a < 0x200000 then
    if a = aosOtpstat then s.otpStat else if a = aosClkstat then s.clkStat else if a = aosBring then s.bringStat
    else if a = aosRstreq then 0
    else if 0x100100 ≤ a ∧ a < 0x100180 then s.profWord ((a - 0x100100) / 32) (a % 32 / 8)
    else s.reg a
  else if a < 0x300000 then
    if a = hifStat then s.hifWord
    else if 0x201000 ≤ a ∧ a < 0x202000 ∧ a % 16 = 8 then BitVec.ofNat 64 (s.ring ((a - 0x201000) / 16)).rcv
    else if 0x202000 ≤ a ∧ a < 0x204000 ∧ a % 32 = 0x18 then s.tailWord ((a - 0x202000) / 32)
    else if a = msixPba then s.host.pba.at 0
    else s.reg a
  else if a < 0x400000 then
    if a = secStat then s.secWord else if a = secId then BitVec.ofNat 64 deviceIdentity
    else if a = secRbc then packWord [(0, 7, s.rbcOf 2), (8, 7, s.rbcOf 3), (16, 7, s.rbcOf 4)]
    else if 0x300200 ≤ a ∧ a < 0x3002C0 then Config.certificate ((a - 0x300200) / 8)
    else if 0x300400 ≤ a ∧ a < 0x300660 then (if s.aos.aready then wordAt s.aos.report ((a - 0x300400) / 8) else 0)
    else if 0x301000 ≤ a ∧ a < 0x303000 then s.keyWord ((a - 0x301000) / 32) (a % 32 / 8)
    else s.reg a
  else if a < 0x800000 then s.readTke a
  else if a < 0x1000000 then
    if a = stwStat then s.stwWord
    else if 0x801000 ≤ a ∧ a < 0x801800 ∧ a % 32 = 0x18 then s.gstatWord ((a - 0x801000) / 32)
    else s.reg a
  else if a < 0x2000000 then s.readDie ((a - 0x1000000) / 0x200000) (a % 0x200000)
  else if a < 0x3800000 then s.readIod ((a - 0x2000000) / 0x400000) (a % 0x400000)
  else 0

end State

end Sys2Proof.Machine
end

