-- ==== Sys2Proof/Machine/HostPort.lean ====
section
/-! DEFINITION. The host endpoint: PERST_N, function resets, D3hot, the host window, ring memory, ring configuration, completion heads and IDENTIFY (R500 to R513, R515, R523, R524). -/

namespace Sys2Proof.Machine

open Adr

namespace State

/-! Functions (R500, R502). -/

/-- Whether a function of the endpoint exists: the PF, and VF1 to VF64 where the profile in force offers SR-IOV (R500, R565). -/
def funcExists (s : State) (f : Nat) : Bool := f == 0 || (f ≤ 64 && s.prof 0 20 1 == 1)

/-- Whether an access to the BARs of function `f` is decoded: the module is out of reset with its control-core firmware started,
PERST_N is released, and the function is in D0 (R502, R555). -/
def barOpen (s : State) (f : Nat) : Bool :=
  (s.aos.stage ≥ 5 || s.aos.fromS4.isSome) && s.mstate != .off && s.mstate != .reset && !s.host.perst && !s.host.d3.contains f && s.funcExists f

/-- The command rings and the completion rings of function `f`, in ascending order (R524). -/
def ringsOf (s : State) (f : Nat) : List Nat := (List.range 256).filter fun n => s.fld (hifCrCfg n) 5 7 == f
def cqsOf (s : State) (f : Nat) : List Nat := (List.range 256).filter fun c => s.fld (hifCqCfg c) 6 7 == f

/-- The completion entries of a ring that are not yet written are discarded and counted, and the ring starts over (R502). -/
def dropCq (s : State) (c : Nat) : State :=
  let n := (s.cq c).backlog.length
  (if n = 0 then s else s.raise hifEvt 1 n).onCq c fun _ => default

/-- A register returns to its reset value. -/
def clearReg (s : State) (a : Nat) : State := s.setReg a (regReset a)

/-- A virtual function's rings, window and vectors return to their reset values, and the glove bound to it is reset with cause 7
(R432, R502). -/
def resetVf (s : State) (f : Nat) : State :=
  let g := s.vfGlove f
  let s1 := (s.cqsOf f).foldl (fun t c => (((t.dropCq c).clearReg (hifCqBase c)).clearReg (hifCqCfg c)).clearReg (hifCqHead c)) s
  let s2 := (s.ringsOf f).foldl (fun t n => (t.clearReg (hifCrCfg n)).onRing n fun r => { r with rcv := 0 }) s1
  let s3 := s2.onHost fun h =>
    { h with vfMsix := h.vfMsix.filter fun p => p.1 / 16 ≠ f, pba := h.pba.put f 0, vfBase := h.vfBase.put f 0, d3 := h.d3.filter (· ≠ f) }
  match g with | some g => s3.beginReset g 7 | none => s3

/-- A conventional reset of the PF: rings and MSI-X are disabled, the HIF registers other than the counters return to their reset
values, and completions not yet written are discarded and counted (R502). -/
def resetPf (s : State) : State :=
  let s1 := (s.host.cqs.map (·.1)).foldl (fun t c => t.dropCq c) s
  let s2 := s1.keepRegs fun a => !(0x200000 ≤ a && a < 0x300000) || (0x200020 ≤ a && a < 0x200050)
  s2.onHost fun h =>
    { h with cqs := [], rings := h.rings.mapV fun _ r => { r with rcv := 0 }, pba := [], vfMsix := [], vfBase := [], d3 := [], numVf := 0 }

/-! The host window (R503, R504). -/

/-- A function's window: its space, the offset of its first byte, and the access it makes; a VF that no glove is bound to has no
glove ID. -/
def window (s : State) (f : Nat) : Nat × Nat × Access :=
  if f = 0 then
    (s.fld hifWin 0 2, s.fld hifWin 2 16 * 2 ^ 25, ⟨s.fld hifWin 18 6, s.fld hifWin 24 8, s.fld hifWin 32 1 == 1⟩)
  else
    let g := (s.vfGlove f).getD 64
    (1, s.host.vfBase.at f * 2 ^ 25, ⟨g, (s.glove g).key, false⟩)

/-- The bytes of BAR2 of a function (R501). -/
def windowSize (f : Nat) : Nat := if f = 0 then 2 ^ 36 else 2 ^ 34

/-- The pieces of a request within 64 B units: offset in the window, first byte of the data, length (R503). -/
def pieces (ofs len : Nat) : List (Nat × Nat × Nat) :=
  (List.range (ceilDiv (ofs % 64 + len) 64)).map fun i =>
    let lo := max ofs ((ofs / 64 + i) * 64)
    (lo, lo - ofs, min (ofs + len) ((ofs / 64 + i + 1) * 64) - lo)

/-- One piece read from the near tier: none where it is refused; whether the unit is poisoned (R291, R296, R504, R635). -/
def readNear (s : State) (base : Nat) (a : Access) (o len : Nat) : State × Option (List Byte × Bool) :=
  let x := base + o
  match nearFrame x with
  | none => (s.refuseNoFrame 0 x a false, none)
  | some f =>
    let u := x / 64 % 2 ^ 19
    match s.nearCheck f a false with
    | some r => (s.refuseNear f u r a false, none)
    | none => (s, some ((s.nearUnit f u).drop (x % 64) |>.take len, s.poisoned f u))

/-- One piece read from the scratchpad: a narrow read of its unit (R237, R242, R268, R503). -/
def readPad (s : State) (a : Access) (o len : Nat) (upset : Bool) : State × Option (List Byte × Bool) :=
  let g := o / 2 ^ 20
  let row := o / 512 % 2048
  if o ≥ 2 ^ 32 ∨ g ≥ 2304 ∨ s.mcellGlove g ≠ some a.glove then (s, none)
  else match s.narrowRead g row (o % 512 / 64 * 64) 64 2 a.glove upset with
    | (s1, some d) => (s1, some ((d.drop (o % 64)).take len, false))
    | (s1, none) => (s1, some ((s.rowSeen g row).drop (o % 512) |>.take len, true))

/-- A window read, piece by piece, up to the first that is refused. -/
def readPieces (s : State) (w : Nat × Nat × Access) (upset : List Nat) (acc : List Byte) (ep : Bool) : List (Nat × Nat × Nat) → State
  | [] => s.emit (.readData (some acc) ep)
  | (o, _, n) :: rest =>
    match (if w.1 = 1 then s.readNear w.2.1 w.2.2 o n else if w.1 = 0 then s.readPad w.2.2 o n (upset.contains (o / 64)) else (s, none)) with
    | (s1, none) => s1.emit (.readData none false)
    | (s1, some (d, bad)) => s1.readPieces w upset (acc ++ d) (ep || bad) rest

/-- One piece written to the near tier: byte-masked, a partial unit merged, a write under a seal held, a partial unit of a staging
range refused (R191, R268, R291, R296, R300, R327, R504). -/
def writeNear (s : State) (base : Nat) (a : Access) (o : Nat) (bytes : List (Nat × Byte)) : State :=
  let x := base + o / 64 * 64
  if bytes = [] then s
  else match nearFrame x with
    | none => s.refuseNoFrame 0 x a true
    | some f =>
      let u := x / 64 % 2 ^ 19
      match s.nearCheck f a true with
      | some r => s.refuseNear f u r a true
      | none =>
        if bytes.length ≠ 64 ∧ s.inStaging x then s.refuseNear f u .bound a true
        else (s.nearWrite f u (byteBits bytes)).1

/-- The bytes of a piece that the mask names, by their place in the 64 B unit. -/
def pieceBytes (data : List Byte) (mask : List Bool) (p : Nat × Nat × Nat) : List (Nat × Byte) :=
  (List.range p.2.2).filterMap fun i => if mask.getD (p.2.1 + i) true then some (p.1 % 64 + i, data.getD (p.2.1 + i) 0) else none

/-- One piece written through a function's window (R503). -/
def writePiece (s : State) (f : Nat) (w : Nat × Nat × Access) (data : List Byte) (mask : List Bool) (p : Nat × Nat × Nat) : State :=
  let bytes := pieceBytes data mask p
  if w.1 = 1 then s.writeNear w.2.1 w.2.2 p.1 bytes
  else if w.1 = 0 ∧ p.1 < 2 ^ 32 ∧ bytes ≠ [] then
    let line := lineOf (bytes.foldl (fun l b => l.set b.1 b.2) (List.replicate 64 0))
    narrowRequestOp (.host f) (BitVec.ofNat 64 (p.1 / 64 * 64))
      (.write (BitVec.ofNat 64 (bytes.map fun b => 2 ^ b.1).sum) line) false s
  else s

/-! Rings (R505 to R513, R523). -/

/-- The ring that ring number `n` names when function `f` writes it: the PF names any ring, a VF its local rings; a ring of a VF is
written by that VF alone (R505, R509). -/
def ringFor (s : State) (f n : Nat) : Option Nat :=
  if f = 0 then (if n < 256 ∧ s.fld (hifCrCfg n) 5 7 = 0 then some n else none) else (s.ringsOf f)[n]?

/-- A 64-bit write to a word of a slot (R505, R506). A sequence word that no later receipt of its slot will match is counted as
stale. -/
def writeSlot (s : State) (n slot word : Nat) (v : Word) : State :=
  let size := 2 ^ s.fld (hifCrCfg n) 0 4
  if slot ≥ size ∨ word ≥ 8 then s
  else
    let s1 := s.onHost fun h => { h with ringMem := h.ringMem.put (32768 * n + 8 * slot + word) v }
    if word < 7 then s1
    else
      let x := v.toNat
      let s2 := if (s.ring n).rcv + 1 ≤ x ∧ (x - 1) % size = slot then s1 else s1.raise hifEvt 0
      s2.receiveSlots n 4096

/-- A write to HIF_CR_CFG (R508, R523): one out of range, or one that changes SIZE, FUNC or CQ while the ring is enabled, leaves it
unchanged. -/
def writeCrCfg (s : State) (n : Nat) (h : Half) (v : Word) : State :=
  let old := s.reg (hifCrCfg n)
  let new := mergeHalf h old v &&& BitVec.ofNat 64 (bits 0 20)
  let f := new.field 5 7
  let on : Bool := old.bit 4
  if new.field 0 4 < 6 ∨ new.field 0 4 > 12 ∨ f > 64 ∨ s.fld (hifCqCfg (new.field 12 8)) 6 7 ≠ f
      ∨ (f ≠ 0 ∧ ((s.ringsOf f).filter (· ≠ n)).length ≥ 4)
      ∨ (on ∧ (new.setField 4 1 0) ≠ (old.setField 4 1 0)) then s
  else
    let s1 := s.setReg (hifCrCfg n) new
    if on ∨ new.bit 4 = false then s1
    else (s1.onRing n fun r => { r with rcv := 0 }).onHost fun x =>
      { x with ringMem := x.ringMem.filter fun p => !(p.1 / 32768 = n && p.1 % 8 = 7 && p.1 % 32768 / 8 < 2 ^ new.field 0 4) }

/-- Room in a completion ring lets those go on that waited for it (R211, R512). -/
def cqRoom (s : State) (c : Nat) : State :=
  let s1 := s.drainCq c 65536
  let s2 := (List.range 256).foldl (fun t n => if t.fld (hifCrCfg n) 12 8 = c then t.receiveSlots n 4096 else t) s1
  ((List.range 64).foldl (fun t g =>
    if (t.glove g).live ∧ t.fld (hifGrpt g) 0 8 = c then t.wakeReport (t.glove g).gsq else t) s2).buildAll

/-- A write to HIF_CQ_CFG (R523): one out of range, or one that changes SIZE or FUNC while the ring is enabled, leaves it
unchanged. -/
def writeCqCfg (s : State) (c : Nat) (h : Half) (v : Word) : State :=
  let old := s.reg (hifCqCfg c)
  let new := mergeHalf h old v &&& BitVec.ofNat 64 (bits 0 31)
  let f := new.field 6 7
  let on : Bool := old.bit 5
  if new.field 0 5 < 6 ∨ new.field 0 5 > 16 ∨ f > 64 ∨ (f ≠ 0 ∧ new.field 13 6 > 7) ∨ new.field 19 8 = 0
      ∨ (f ≠ 0 ∧ ((s.cqsOf f).filter (· ≠ c)).length ≥ 4)
      ∨ (on ∧ (new.field 0 5 ≠ old.field 0 5 ∨ f ≠ old.field 6 7)) then s
  else
    let s1 := s.setReg (hifCqCfg c) new
    if on ∨ new.bit 5 = false then s1
    else (s1.onCq c fun r => { r with tail := 0, ph := true, unsig := 0 }).cqRoom c

/-- A write to HIF_CQ_HEAD: entries are freed (R512). -/
def writeCqHead (s : State) (c : Nat) (h : Half) (v : Word) : State :=
  (s.setReg (hifCqHead c) (mergeHalf h (s.reg (hifCqHead c)) v &&& 0xFFFF)).cqRoom c

end State

/-! The commands. -/

/-- PERST_N_ASSERT (R502): a conventional reset of every function; the rest of the module serves on. -/
def perstNAssertOp (s : State) : State :=
  if s.host.perst then s else (s.resetPf).onHost fun h => { h with perst := true, gen := 0, width := 0 }

/-- PERST_N_RELEASE (R502, R555): HE trains, at once when its control-core firmware runs, else at stage 5. -/
def perstNReleaseOp (s : State) : State :=
  if s.host.perst = false then s
  else
    let s1 := s.onHost fun h => { h with perst := false }
    if s.aos.stage ≥ 5 then s1.trainHost else s1

/-- PF_FLR (R502): every VF is reset as by its own reset, and the PF as by PERST_N. -/
def pfFlrOp (s : State) : State :=
  if s.host.perst then s
  else (((List.range 64).map (· + 1)).foldl (fun t f =>
    if (t.ringsOf f ≠ []) ∨ (t.cqsOf f ≠ []) ∨ (t.vfGlove f).isSome ∨ t.host.d3.contains f then t.resetVf f else t) s).resetPf

/-- VF_FLR (R432, R502). -/
def vfFlrOp (vf : Nat) (s : State) : State :=
  if vf = 0 ∨ s.funcExists vf = false ∨ s.host.perst then s else s.resetVf vf

/-- D3HOT_ENTRY (R502). -/
def d3hotEntryOp (func : Nat) (s : State) : State :=
  if s.host.perst ∨ s.funcExists func = false ∨ s.host.d3.contains func then s
  else s.onHost fun h => { h with d3 := h.d3 ++ [func] }

/-- D3HOT_EXIT (R502, R512): the backlogs drain, and slots are received again. -/
def d3hotExitOp (func : Nat) (s : State) : State :=
  if s.host.d3.contains func = false then s
  else
    let s1 := s.onHost fun h => { h with d3 := h.d3.filter (· ≠ func) }
    let s2 := (s1.cqsOf func).foldl (fun t c => t.cqRoom c) s1
    (s2.ringsOf func).foldl (fun t n => t.receiveSlots n 4096) s2

/-- HOST_WINDOW_READ (R503, R504). `upset` lists the 64 B units of the window in which a scratchpad read meets an upset. -/
def hostWindowReadOp (func : Nat) (ofs : Nat) (len : Nat) (upset : List Nat) (s : State) : State :=
  if s.barOpen func = false ∨ ofs + len > State.windowSize func then s
  else s.readPieces (s.window func) upset [] false (State.pieces ofs len)

/-- HOST_WINDOW_WRITE (R503, R504). -/
def hostWindowWriteOp (func : Nat) (ofs : Nat) (data : List Byte) (mask : List Bool) (s : State) : State :=
  if s.barOpen func = false ∨ ofs + data.length > State.windowSize func then s
  else (State.pieces ofs data.length).foldl (fun t p => t.writePiece func (s.window func) data mask p) s

/-- COMMAND_SLOT_RECEIVE (R505 to R509): a write to a slot. -/
def commandSlotReceiveOp (func ring slot word : Nat) (val : Word) (s : State) : State :=
  if s.barOpen func = false then s
  else match s.ringFor func ring with
    | some n => s.writeSlot n slot word val
    | none => s

/-- COMMAND_RING_ENABLE (R508, R523). -/
def commandRingEnableOp (ring : Nat) (half : Half) (val : Word) (s : State) : State :=
  if s.barOpen 0 = false ∨ ring ≥ 256 then s else s.writeCrCfg ring half val

/-- COMPLETION_RING_ENABLE (R523). -/
def completionRingEnableOp (cq : Nat) (half : Half) (val : Word) (s : State) : State :=
  if s.barOpen 0 = false ∨ cq ≥ 256 then s else s.writeCqCfg cq half val

/-- CQ_HEAD_WRITE (R512, R524). -/
def cqHeadWriteOp (func cq : Nat) (val : Word) (s : State) : State :=
  if s.barOpen func = false then s
  else match (if func = 0 then (if cq < 256 then some cq else none) else (s.cqsOf func)[cq]?) with
    | some c => s.writeCqHead c .whole val
    | none => s

/-- MSIX_MODERATION_TIMER (R513): the MODT-th tick boundary after the first unsignalled entry has passed. -/
def msixModerationTimerOp (cq : Nat) (s : State) : State :=
  let r := s.cq cq
  let modt := s.fld (hifCqCfg cq) 27 4
  if modt = 0 ∨ r.unsig = 0 ∨ s.reached (r.firstTick + modt) 0 = false then s else s.fireVec cq

/-- IDENTIFY (R515). -/
def identifyOp (c : HostCmd) (s : State) : State :=
  s.command c { op := 0x001, pfOnly := false, set := fun t => t.inA } fun c t => t.complete c stOK t.capWord.toNat t.idWord.toNat

end Sys2Proof.Machine
end

