-- ==== Sys2Proof/Machine/Security.lean ====
section
/-! DEFINITION. Attestation, owner keys, the random source, firmware activation and OTP writes (R530 to R546, R594 to R597, R608). -/

namespace Sys2Proof.Machine

open Adr

/-- The bytes of a list of words, little-endian. -/
def wordBytes (l : List Word) : List Byte := l.flatMap fun w => toBytes w.toNat 8

namespace State

/-! Attestation (R534 to R536). -/

/-- GO (R534, R536): the previous report and its X448 key are discarded; the nonce, APUB and POLICY are taken, and with a nonzero
APUB a fresh private key `m` is drawn. -/
def startReport (s : State) (m : BitVec 448) : State :=
  let apub := (wordBytes ((List.range 7).map fun w => s.reg (secApub w))).take 56
  let keyed := apub.any (· ≠ 0)
  s.onAos fun a =>
    { a with
      abusy := true, aready := false, report := []
      repNonce := wordBytes ((List.range 8).map fun w => s.reg (secAnonce w)), repApub := apub, repPolicy := s.fld secActl 8 8
      xkey := if keyed then some m else none
      repMpub := if keyed then Config.x448Public (toBytes m.toNat 56) else List.replicate 56 0 }

/-- Bytes 0 to LEN + 7 of an OTP generation (R557); the identity seed stands in generation 0 alone. -/
def otpBytes (g : Nat) (a : OtpArea) : List Byte :=
  let pad := fun (l : List Byte) (n : Nat) => (l ++ List.replicate n 0).take n
  toBytes 0x544F5A4C 4 ++ toBytes g 2 ++ toBytes a.len 2 ++ pad (if g = 0 then Config.identitySeed else []) 32 ++ pad a.trim 512
    ++ pad (wordBytes a.repair) 1536 ++ pad (wordBytes a.profiles) 128 ++ List.replicate (a.len - 0x08A8) 0 ++ toBytes 0xC35AA53C0F1EE1F0 8

/-- MEAS0 to MEAS4 (R535). -/
def measurements (s : State) : List Byte :=
  Config.romDigest ++ ([2, 3, 4].flatMap fun g => Config.shake256 (s.aos.running.at g).bytes 64)
    ++ Config.shake256 (otpBytes s.aos.gen (s.aos.otp.getD s.aos.gen default)) 64

/-- The 608 bytes of a report signed now (R535). -/
def buildReport (s : State) : List Byte :=
  let w := fun (x : Word) => toBytes x.toNat 8
  let body := toBytes 0x54415A4C 4 ++ toBytes 1 2 ++ toBytes 608 2 ++ w s.idWord ++ toBytes deviceIdentity 8 ++ toBytes s.tick.tick 8
    ++ toBytes (s.nodeId.getD 0x1FFF) 2 ++ toBytes s.aos.profile 1 ++ toBytes s.aos.gen 1 ++ toBytes s.aos.repPolicy 1
    ++ [s.rbcOf 2, s.rbcOf 3, s.rbcOf 4].flatMap (fun n => toBytes n 1) ++ w s.capWord ++ s.aos.repNonce ++ s.measurements ++ s.aos.repMpub
  body ++ Config.ed448Sign identityKey (Config.shake256 body 64) "LZ3-ATTEST" ++ List.replicate 6 0

/-! Owner keys (R537 to R539). -/

/-- The KEK of an installation into slot `n`, from the current report and its private key (R537). -/
def kek (s : State) (m : BitVec 448) (n : Nat) : List Byte :=
  let a := s.aos
  Config.shake256 (Config.x448 (toBytes m.toNat 56) a.repApub ++ a.repMpub ++ a.repApub ++ a.repNonce ++ toBytes a.repPolicy 1 ++ toBytes n 1) 32

/-- The state of the key slot in conflict (R514, object 3, in the encoding of SEC_KSTAT). -/
def keyConflict (s : State) (c : HostCmd) (n : Nat) : State := s.refuseState c 3 (bit (s.keys.at n).installed) n

/-- A key takes slot `n` (R537, R541): the durable extents of its tag take the slot with it. -/
def putKey (s : State) (n : Nat) (k : List Byte) : State :=
  let tag : BitVec 128 := BitVec.ofNat 128 (ofBytes (Config.shake256 (k ++ ascii "LZ3-TAG") 16))
  let key : KeySt :=
    { installed := true, k := k, kid := Config.keyIdentity k, tag := tag, reqSig := s.aos.repPolicy % 2 = 1,
      pub := Config.ed448Public (Config.shake256 (k ++ ascii "LZ3-PAT") 57) }
  let s1 := { s with keys := s.keys.put n key }
  s1.onMem fun m => { m with extents := m.extents.mapV fun _ e =>
    if e.st ≠ .free ∧ e.durable ∧ e.system = false ∧ e.ktag = tag then { e with key := n } else e }

/-- KEY_OP install (R537). -/
def installKey (s : State) (c : HostCmd) (n : Nat) : State :=
  if (List.range 256).all fun i => (s.keys.at i).installed then s.refuse c stFull
  else if (s.keys.at n).installed then s.keyConflict c n
  else match s.aos.xkey with
    | none => s.keyConflict c n
    | some m =>
      let s1 := s.onAos fun a => { a with xkey := none }
      match Config.unwrapKey (s.kek m n) (wordBytes [c.a2, c.a3, c.a4, c.a5, c.a6]) with
      | none => s1.refuse c stSig
      | some k =>
        let tag : BitVec 128 := BitVec.ofNat 128 (ofBytes (Config.shake256 (k ++ ascii "LZ3-TAG") 16))
        if s.aos.repPolicy / 2 ≠ 0 then s1.refuse c stSig
        else if s.keys.any fun p => p.2.installed && p.2.tag == tag then s1.keyConflict c n
        else (s1.putKey n k).complete c stOK

/-- Whether a migration request runs under key slot `n`: a system request does so through the extent it reads. -/
def underKey (s : State) (n : Nat) (r : MigReq) : Bool :=
  if r.system then r.op != 1 && !(s.extent (r.slot % 2 ^ 24)).system && (s.extent (r.slot % 2 ^ 24)).key == n else r.key == n

/-- Every migration request under slot `n` fails with KEY_ABSENT (R539, step 2). The slot is already empty. -/
def failRequests (s : State) (n : Nat) : State :=
  let waits := s.mem.waiting.filter (s.underKey n)
  let runs := s.mem.queue.filter (s.underKey n)
  let s1 := s.onMem fun m => { m with waiting := m.waiting.filter fun r => !waits.contains r }
  let s2 := runs.foldl (fun t r =>
    let ended : State × Nat := match r.op with | 1 => t.sealEnd r false | 2 => (t.copyupEnd r stKeyAbsent, stKeyAbsent) | _ => t.moveEnd r false
    ended.1.reqDone r ended.2) s1
  waits.foldl (fun t r => t.reqRefused r stKeyAbsent) s2

/-- Gloves under slot `n` are reset with cause 6 and stay FAULTED until destroyed (R539, step 3). -/
def stopGloves (s : State) (n : Nat) : State :=
  (s.glv.filter fun p => p.2.live && p.2.key == n).foldl (fun t p => (t.beginReset p.1 6).onGlv p.1 fun v => { v with stuck := true }) s

/-- Sequences under slot `n` end with CACHE_LOST; a COMPLETE one keeps its state and loses its cache (R539, steps 4 and 5). -/
def endSequences (s : State) (n : Nat) : State :=
  (s.stw.seqt.filter fun p => p.2.key == n).foldl (fun t p =>
    match p.2.st with
    | .free | .cancelled | .expired => t
    | .complete => ((t.freeExtents p.1).freeCache p.1).onSeqEnt p.1 fun e => { e with job := none, retry := none }
    | _ => t.loseSeq p.1) s

/-- The prefix tree of slot `n`, and with PUBKEY the public tree, are freed (R405, R539, step 6). -/
def freeTree (s : State) (n : Nat) : State :=
  let pub := s.fld pfxCfg 0 8 == n
  let gone := s.liveNodes.filter fun p => (!p.2.pub && p.2.key == n) || (pub && p.2.pub)
  let pages := gone.flatMap fun p => if p.2.pub then p.2.pages else []
  let seqs := (s.stw.seqt.filter fun p => p.2.pages.any fun r => pages.contains r.page).map (·.1)
  let s1 := seqs.foldl (fun t i => t.loseSeq i) s
  let s2 := gone.foldl (fun t p => t.removeNode p.1) s1
  if pub then s2.setFld pfxCfg 8 1 0 else s2

/-- Models and adapter slots under slot `n` are given up; a switch-in, replacement or load under way ends with KEY_ABSENT (R539,
step 5). -/
def endModels (s : State) (n : Nat) : State :=
  let ms := (s.stw.models.filter fun p => p.2.st != .absent && p.2.key == n).map (·.1)
  let s1 := s.onMem fun b => { b with waiting := b.waiting.filter fun r =>
    match r.from_ with | .residency m _ => !ms.contains m | _ => true }
  let s2 := ms.foldl (fun t m =>
    let x := t.model m
    ((t.completeOpt (x.swin.map (·.cmd)) stKeyAbsent).completeOpt (x.repl.bind (·.cmd)) stKeyAbsent).onModel m fun _ => default) s1
  (s2.stw.adapters.filter fun p => p.2.st ≠ 0 ∧ p.2.key = n).foldl (fun t p =>
    (t.completeOpt p.2.cmd stKeyAbsent).onAdapter p.1 fun x => { (default : AdpSt) with version := x.version }) s2

/-- Frames and extents under slot `n` (R539, step 5): frames become FREE, extents that are not durable are freed, and durable ones
have no slot until their key is installed again. -/
def freeStores (s : State) (n : Nat) : State :=
  let fs := (s.mem.tmap.filter fun p => (p.2.mode == .priv || p.2.mode == .shared) && p.2.key == n).map (·.1)
  let s1 := (fs.foldl (fun t f => t.freeFrame f) s).framesFreed
  let es := s1.mem.extents.filter fun p => p.2.st != .free && !p.2.system && p.2.key == n
  let s2 := es.foldl (fun t p => if p.2.durable then t.onExtent p.1 fun e => { e with key := 256 } else t.releaseExtent p.1) s1
  s2.finishDestroys

/-- The erase of an INSTALLED key slot (R539). -/
def eraseKey (s : State) (n : Nat) : State :=
  let s1 := { s with keys := s.keys.put n default }
  let s2 := ((s1.failRequests n).stopGloves n).endSequences n
  (((s2.freeTree n).endModels n).freeStores n).raise secEvt 1

/-- KEY_OP of a row's action; a command that names another action of the list is another row's. -/
def keyCmd (s : State) (c : HostCmd) (action : Nat) : State :=
  if c.a1.field 8 2 ≠ action ∧ c.a1.field 8 2 ≤ 1 then s
  else s.command c { op := 0x008, set := fun t => t.inA, masks := [bits 0 10, allBits, allBits, allBits, allBits, allBits] } fun c t =>
    let n := c.a1.field 0 8
    if c.a1.field 8 2 > 1 then t.refuse c stBound
    else if action = 0 then t.installKey c n
    else if (t.keys.at n).installed = false then t.keyConflict c n
    else (t.eraseKey n).complete c stOK

/-! Firmware and OTP images (R530, R531, R594 to R597). -/

/-- RAS_UPD (R608). -/
def setUpd (s : State) (state stage part : Nat) : State := s.setReg rasUpd (packWord [(0, 3, state), (3, 3, stage), (6, 4, part)])

/-- The outcome of an activation or OTP write is logged (R603, R610). -/
def logUpd (s : State) (stage : Nat) : State := s.logEntry 6 10 stage 0 0 (s.reg rasUpd)

/-- A refused image: a signature that fails is counted (R531). -/
def refuseImage (s : State) (c : HostCmd) (st : Nat) : State := (if st = stSig then s.raise secEvt 0 else s).refuse c st

/-- The bytes that IMAGE_OP names; none where they are not mapped. -/
def imageBytes (s : State) (c : HostCmd) : Option (List Byte) :=
  if c.a3.toNat = 0 ∨ taOfs c.a2.toNat + c.a3.toNat > 2 ^ 41 then none else s.hostBytes c.a2.toNat c.a3.toNat

/-- IMAGE_OP stage (R531, R570): the verified image is written into STAGED of both stores. -/
def stageImage (s : State) (c : HostCmd) : State :=
  match s.imageBytes c with
  | none => s.refuse c stBound
  | some d =>
    let st := s.imageCheck d fun g => 2 ≤ g && g ≤ 4
    if st ≠ stOK then s.refuseImage c st
    else
      let g := leAt d 6 2
      let i : FwImg := { svn := leAt d 0x0C 1, bytes := d, sound := true }
      (s.onAos fun a => { a with banks := (a.banks.upd g fun b => { b with staged := some i }).upd (16 + g) fun b => { b with staged := some i } }).complete c stOK

/-- The parts of an activation in the order of R595, by RAS_UPD.PART (R608). -/
def updParts (s : State) (stage : Nat) : List Nat :=
  match stage with
  | 2 => [0, 1]
  | 3 => List.range 8 ++ (if s.variant = .w32 then [13, 12] else []) ++ [11, 9, 10, 8]
  | _ => [1 - s.stw.serving, s.stw.serving]

/-- A planned swap of the steward without a command (R380, R595): at once when no step runs, else at the last of the next commits. -/
def swapSteward (s : State) : State :=
  let left := (s.stw.serve.filter fun p => p.2.phase ≠ 0).map (·.1)
  if s.stw.standbyReady = false ∨ s.stw.swapLeft ≠ [] then s
  else if left ≠ [] then s.onStw fun b => { b with swapLeft := left }
  else s.swapNow

/-- The restart of the next part begins (R595): first a planned swap, when the part carries the serving steward. -/
def restartPart (s : State) (stage part : Nat) (left : List Nat) : State :=
  let s1 := (s.setUpd 1 stage part).onAos fun a => { a with act := some (stage, left, part) }
  let own := if s.stw.serving = 0 then 8 else 10
  if (stage = 3 ∧ part = own) ∨ (stage = 4 ∧ part = s.stw.serving) then s1.swapSteward
  else if stage = 4 then s1.onStw fun b => { b with standbyReady := false }
  else s1

/-- IMAGE_OP activate (R594). -/
def activate (s : State) (c : HostCmd) : State :=
  let g := c.a2.toNat
  if g < 2 ∨ g > 4 then s.refuse c stBound
  else match (s.aos.banks.at g).staged, (s.aos.banks.at (16 + g)).staged with
    | some i, some j =>
      if s.aos.act.isSome ∨ s.aos.burn.isSome then s.refuseModule c
      else if (g ≠ 2 ∧ s.stw.standbyReady = false) ∨ (g = 2 ∧ s.aos.aos1Ready = false) then s.refuseModule c
      else
        let st := fun (x : FwImg) => s.imageCheck x.bytes (· == g)
        if st i ≠ stOK then s.refuseImage c (st i)
        else if st j ≠ stOK then s.refuseImage c (st j)
        else match s.updParts g with
          | p :: rest => (s.restartPart g p rest).complete c stOK
          | [] => s
    | _, _ => s.refuseModule c

/-- The whole stage is ready (R532, R596): the banks of both stores rotate, and the rollback counter takes the image's SVN. -/
def rotate (s : State) (g : Nat) : State :=
  let turn := fun (b : FwBanks) => { current := b.staged, previous := b.current, staged := none : FwBanks }
  let svn := ((s.aos.banks.at g).staged.map (·.svn)).getD 0
  let s1 := s.onAos fun a =>
    { a with
      banks := (a.banks.upd g turn).upd (16 + g) turn
      running := match (a.banks.at g).staged with | some i => a.running.put g i | none => a.running
      rbc := setPad a.rbc (g - 2) (max (s.rbcOf g) svn) 0
      act := none }
  (s1.setUpd 4 g (s.fld rasUpd 6 4)).logUpd g

/-- The generation that an image's payload writes, as far as the payload says (R557, R597). -/
def otpOf (d : List Byte) : OtpArea :=
  let p := d.drop 256
  { used := true, valid := false, len := 40 + p.length, trim := p.take 512
    repair := leWords ((p.drop 512).take 1536), profiles := leWords ((p.drop 2048).take 128) }

/-- A REPAIR word with the chains formed in service of kinds that the payload leaves without one (R597, step 2). -/
def repairWord (r : RowRepair) (w : Word) : Word :=
  let put := fun (w : Word) (lo : Nat) (src : Bool) (col : Option Nat) =>
    match col with
    | some f => if src ∧ w.bit (lo + 5) = false then w.setField lo 6 (f + 2 ^ 5) else w
    | none => w
  put (put w 0 r.cSrc r.cCol) 8 r.mSrc r.mCol

/-- IMAGE_OP write OTP generation (R597). -/
def writeOtp (s : State) (c : HostCmd) : State :=
  match s.imageBytes c with
  | none => s.refuse c stBound
  | some d =>
    let x := otpOf d
    if imageFields d (· == otpStage) = false ∨ x.len < 0x08A8 ∨ x.len > 16312 ∨ x.len % 8 ≠ 0 ∨ profilesOk x.profiles = false then
      s.refuse c stImage
    else if s.aos.act.isSome ∨ s.aos.burn.isSome then s.refuseModule c
    else
      let st := s.imageCheck d (· == otpStage)
      if st ≠ stOK then s.refuseImage c st
      else match (List.range 4).find? fun g => !(s.aos.otp.getD g default).used with
        | none => s.refuse c 0x4A
        | some g =>
          let y := { x with repair := (List.range 192).map fun i => repairWord (s.repair (i / 24) (i % 24)) (x.repair.getD i 0) }
          (((s.onAos fun a => { a with otp := setPad a.otp g { (default : OtpArea) with used := true } default, burn := some (g, y) }).setUpd
            3 6 g).complete c stOK)

/-- IMAGE_OP of a row's action; a command that names another action of the list is another row's. -/
def imageCmd (s : State) (c : HostCmd) (action : Nat) (f : State → HostCmd → State) : State :=
  if c.a1.field 0 2 ≠ action ∧ c.a1.field 0 2 ≤ 2 then s
  else
    let masks := if action = 1 then [bits 0 2, bits 0 3, 0] else [bits 0 2, allBits, allBits]
    s.command c { op := 0x009, set := fun t => t.inA, masks := masks } fun c t => if c.a1.field 0 2 > 2 then t.refuse c stBound else f t c

end State

/-! The commands. -/

/-- SEC_ACTL_GO (R534, R549): POLICY is written; GO is ignored while a report is being built or TRNG_OK is 0. `m` is what the random
source draws. -/
def secActlGoOp (half : Half) (val : Word) (m : BitVec 448) (s : State) : State :=
  let v := mergeHalf half 0 val
  if half = .hi then s
  else
    let s1 := s.setFld secActl 8 8 (v.field 8 8)
    if v.bit 0 = false ∨ s.aos.abusy ∨ s.aos.trngOk = false then s1 else s1.startReport m

/-- ATTESTATION_REPORT_READY (R534, R535). -/
def attestationReportReadyOp (s : State) : State :=
  if s.aos.abusy = false then s else s.onAos fun a => { a with abusy := false, aready := true, report := s.buildReport }

/-- TRNG_HEALTH_FAILURE (R546). -/
def trngHealthFailureOp (s : State) : State := (s.onAos fun a => { a with trngOk := false }).raise secEvt 2

/-- TRNG_RECOVER (R546): 1,024 consecutive windows have passed. -/
def trngRecoverOp (s : State) : State :=
  if s.mstate = .off ∨ s.mstate = .reset then s else s.onAos fun a => { a with trngOk := true }

/-- KEY_OP_INSTALL (R536, R537). -/
def keyOpInstallOp (c : HostCmd) (s : State) : State := s.keyCmd c 0
/-- KEY_OP_ERASE (R539). -/
def keyOpEraseOp (c : HostCmd) (s : State) : State := s.keyCmd c 1
/-- IMAGE_OP_STAGE (R530, R531, R570). -/
def imageOpStageOp (c : HostCmd) (s : State) : State := s.imageCmd c 0 fun t c => t.stageImage c
/-- IMAGE_OP_ACTIVATE (R594, R595). -/
def imageOpActivateOp (c : HostCmd) (s : State) : State := s.imageCmd c 1 fun t c => t.activate c
/-- IMAGE_OP_WRITE_OTP (R597). -/
def imageOpWriteOtpOp (c : HostCmd) (s : State) : State := s.imageCmd c 2 fun t c => t.writeOtp c

/-- PART_READY_REPORT (R379, R595, R596): the part in progress reports ready, and the next restarts, or the stage is whole. A part that
waits for a planned swap has not restarted yet. A steward with new microcode has resynchronised. -/
def partReadyReportOp (part : Nat) (s : State) : State :=
  match s.aos.act with
  | none => s
  | some (g, left, cur) =>
    if part ≠ cur ∨ s.stw.swapLeft ≠ [] then s
    else
      let s1 := if g = 4 then s.onStw fun b => { b with standbyReady := true } else s
      match left with
      | [] => s1.rotate g
      | p :: rest => s1.restartPart g p rest

/-- ACTIVATION_READY_TIMEOUT (R596): the activation fails; every part runs CURRENT again and the banks are unchanged. -/
def activationReadyTimeoutOp (part : Nat) (s : State) : State :=
  match s.aos.act with
  | none => s
  | some (g, _, cur) =>
    if part ≠ cur ∨ s.stw.swapLeft ≠ [] then s
    else (((s.onAos fun a => { a with act := none }).setUpd 5 g cur).raise rasEvt 4).logUpd g

/-- OTP_BURN_COMPLETE (R597, step 4): with a digest that verifies, the area is valid and its profiles show in AOS_PROFp. -/
def otpBurnCompleteOp (ok : Bool) (s : State) : State :=
  match s.aos.burn with
  | none => s
  | some (g, x) =>
    if ok then
      ((s.onAos fun a => { a with otp := setPad a.otp g { x with valid := true } default, burn := none, profArea := g }).setUpd 4 6 g).logUpd 6
    else (((s.onAos fun a => { a with burn := none }).setUpd 5 6 g).raise rasEvt 4).logUpd 6

end Sys2Proof.Machine
end

