-- ==== Sys2Proof/Machine/Sideband.lean ====
section
/-! DEFINITION. The SMBus sideband: MCTP, telemetry records, alerts, and the AOS's last-resort operations (R518 to R521, R592, R598 to R603, R606). -/

namespace Sys2Proof.Machine

open Adr

namespace State

/-! The target (R518, R519). -/

/-- Whether the SMBus target answers: VAON is good and the AOS firmware runs (R518, R571). -/
def sidebandUp (s : State) : Bool := s.mstate != .off && (s.aos.stage ≥ 3 || s.aos.fromS4.isSome)

/-- A request on SMBus: unanswered while the AOS does not run, else first a wake (R450, R518). -/
def request (s : State) (f : State → State) : State := if s.sidebandUp then f (s.wakeBy .smbus) else s

/-- A response. -/
def respond (s : State) (l : List Byte) : State := s.emit (.smbus l)

/-- `n` bytes that the spec leaves open. -/
def respondOpen (s : State) (pre : List Byte) (n : Nat) : State :=
  let (k, s1) := s.draw
  s1.respond (pre ++ toBytes (Config.freeWord k).toNat n)

/-! Telemetry records (R520). -/

/-- The IDs that answer with a record (R520). -/
def recordIds (s : State) : List Nat :=
  [0] ++ (List.range 8).map (· + 0x10) ++ (List.range s.variant.hbmStacks).map (· + 0x20) ++ (List.range s.variant.channels).map (· + 0x40)
  ++ (List.range 4).map (· + 0x70) ++ [0x78, 0x79, 0x7A]

/-- Links in a state. -/
def linksIn (s : State) (x : LnkState) : Nat := ((List.range 96).filter fun l => (s.link l).st == x).length

/-- The fields of a record now (R520); `vcore` is the power of each VCORE in W over the last 1 ms. -/
def recordFields (s : State) (vcore : List Nat) (i : Nat) : List Byte :=
  let w := fun (x : Word) => toBytes x.toNat 8
  if i = 0 then
    toBytes (mcode s.mstate) 1 ++ toBytes s.rung.rung 1 ++ toBytes s.aos.profile 1 ++ toBytes (s.nodeId.getD 0x1FFF) 2
      ++ toBytes s.host.powerW 2 ++ toBytes (s.prof 0 0 13) 2 ++ toBytes s.host.energyJ 8
  else if i < 0x20 then
    let k := i - 0x10
    let d := s.die k
    toBytes d.temp 1 ++ toBytes d.step 1 ++ toBytes (d.pb / 100) 2 ++ toBytes (vcore.getD k 0) 2
      ++ toBytes (bitmap 16 fun p => (s.palm (16 * k + p)).causes != []) 2
  else if i < 0x40 then
    let n := i - 0x20
    toBytes (s.stack n).temp 1 ++ toBytes ((s.ntcWord n).field 0 5) 1 ++ toBytes (s.stack n).poisonList.length 1
  else if i < 0x70 then toBytes ((s.ddrWord (i - 0x40)).field 0 29) 4
  else if i < 0x78 then toBytes ((s.dppWord (i - 0x70)).field 0 9) 2
  else if i = 0x78 then [LnkState.up2, .up1, .down, .fenced].flatMap fun x => toBytes (s.linksIn x) 1
  else if i = 0x79 then w (s.reg aosRstcause)
  else [rasCntCe, rasCntUe, rasCntFatal].flatMap fun a => w (s.reg a)

/-- A whole record (R520): ID, length, TICK[31:0], fields. -/
def recordNow (s : State) (vcore : List Nat) (i : Nat) : List Byte :=
  let f := s.recordFields vcore i
  toBytes i 1 ++ toBytes (f.length + 6) 1 ++ toBytes s.tick.tick 4 ++ f

/-- The rail meters in µJ: HBM, IOD, OTH, VCORE0 to VCORE7 (R440). -/
def railMeters (s : State) : List Nat := [tkeMtrHbm, tkeMtrIod, tkeMtrOth].map (fun a => (s.reg a).toNat) ++ s.meters

/-- The records are refreshed (R520, R521): power is what the meters gained since the last refresh, 1 ms before. -/
def refreshRecords (s : State) : State :=
  let now := s.railMeters
  let gain := now.zipIdx.map fun p => p.1 - s.host.mtrLast.getD p.2 0
  let watts := gain.foldl (· + ·) 0 / 1000
  let s1 := s.onHost fun h => { h with mtrLast := now, powerW := watts, energyJ := now.foldl (· + ·) 0 / 1000000 }
  let vcore := (gain.drop 3).map (· / 1000)
  let s2 := s1.onHost fun h => { h with records := s1.recordIds.map fun i => (i, s1.recordNow vcore i) }
  if watts > s.prof 0 0 13 then s2.alert 3 else s2

/-! Alerts (R521, R588, R589). -/

/-- The flags of HIF_ALERT whose conditions hold now, as far as they last: a die above TSOFT, a die hold, the last 1 ms above the
envelope (R521). -/
def alertsHold (s : State) : Word :=
  packWord [(0, 1, bit ((List.range 8).any fun k => (s.die k).temp > s.fld tkeLcfg 37 7)), (1, 1, bit ((List.range 8).any fun k => (s.die k).held)),
    (3, 1, bit (s.host.powerW > s.prof 0 0 13))]

/-- The level of ALERT_N: low while HIF_ALERT AND HIF_ALMASK is nonzero (R521). -/
def alertN (s : State) : Bool := s.reg hifAlert &&& s.reg hifAlmask == 0

/-! AOS operations (R598 to R602). -/

/-- The response to an AOS operation: result OK, the op, a status, and data (R599). -/
def aosAnswer (s : State) (op st : Nat) (data : List Byte := []) : State := s.respond (toBytes 4 1 ++ toBytes 0 1 ++ toBytes op 1 ++ toBytes st 1 ++ data)

/-- The response with result 1 (R519, R599). -/
def aosInvalid (s : State) (op : Nat) : State := s.respond (toBytes 4 1 ++ toBytes 1 1 ++ toBytes op 1)

/-- An operation that a program of the AOS runs (`smbus` false) or that a request names (R599): over SMBus, destructive operations are
NOT_PERMITTED while SMBOPS is 0. The outcome is a status, with its state; none answers with result 1. -/
def aosOp (s : State) (smbus : Bool) (op : Nat) (destructive : Bool) (f : State → Option (State × Nat)) : State :=
  if s.sidebandUp = false then s
  else if smbus = false then (match f s with | some r => r.1 | none => s)
  else
    let s1 := s.wakeBy .smbus
    if destructive ∧ s1.fld rasCtl 1 1 = 0 then s1.aosAnswer op stNotPermitted
    else match f s1 with
      | some r => r.1.aosAnswer op r.2
      | none => s1.aosInvalid op

/-- The serving steward is fenced: the standby takes over, or the module enters FAULT (R380, R593, R599). -/
def fenceSteward (s : State) : State := if s.stw.standbyReady then s.takeover else s.enterFault 3

/-- The manager duties of this module are fenced (R488, R599): a rack master stops them, and its standby takes over. -/
def fenceManager (s : State) : State := if s.net.role = 1 then s.leaveDuties else s

/-- FENCE (R599): its status, with the operation logged; none for a kind that the table does not have. -/
def fenceOp (s : State) (kind idx : Nat) : Option (State × Nat) :=
  match kind with
  | 0 => if idx ≥ 8 then some (s, stBound) else some ((if s.dieFenced idx then s else s.arrayFence idx).logOp 3 0 idx, stOK)
  | 1 => if idx ≥ 8 then some (s, stBound) else some ((s.fullFence idx).logOp 3 0 idx, stOK)
  | 2 =>
    if idx ≥ 64 then some (s, stBound)
    else if (s.glove idx).live = false then some (s, stConflict)
    else some (((s.beginReset idx 6).onGlv idx fun v => { v with stuck := true }).logOp 3 7 idx idx, stOK)
  | 3 => if idx ≥ 96 then some (s, stBound) else some ((s.fenceLink idx).logOp 3 5 idx, stOK)
  | 4 => some ((s.fenceSteward).logOp 3 9 0, stOK)
  | 5 => some ((s.fenceManager).logOp 3 10 0, stOK)
  | _ => none

/-- What READ returns (R599). -/
def readData (s : State) : List Byte :=
  wordBytes ([s.reg aosRstcause, s.reg aosRsttick, s.capWord, s.rasWord, s.reg rasCntCe, s.reg rasCntUe, s.reg rasCntFatal] ++ s.newestLog 1)

end State

/-! The commands. MCTP control responses have the form of DSP0236: command code, completion code, data. -/

/-- SET_ENDPOINT_ID (R519): 0x00 and 0xFF are no endpoint IDs. -/
def setEndpointIdOp (eid : Byte) (s : State) : State :=
  s.request fun t =>
    if eid = 0 ∨ eid = 0xFF then t.respond [0x01, 0x02]
    else (t.onHost fun h => { h with eid := eid.toNat }).respond [0x01, 0x00, 0x00, eid, 0x00]

/-- GET_ENDPOINT_ID (R519). -/
def getEndpointIdOp (s : State) : State := s.request fun t => t.respond ([0x02, 0x00] ++ toBytes t.host.eid 1 ++ [0x00, 0x00])

/-- GET_MCTP_VERSION_SUPPORT (R519): one version for the base, control and vendor types, whose number the spec does not give. -/
def getMctpVersionSupportOp (type : Byte) (s : State) : State :=
  s.request fun t => if type = 0xFF ∨ type = 0x00 ∨ type = 0x7E then t.respondOpen [0x04, 0x00, 0x01] 4 else t.respond [0x04, 0x80]

/-- GET_MESSAGE_TYPE_SUPPORT (R519): beyond control messages, type 0x7E alone. -/
def getMessageTypeSupportOp (s : State) : State := s.request fun t => t.respond [0x05, 0x00, 0x01, 0x7E]

/-- GET_VENDOR_DEFINED_MESSAGE_SUPPORT (R519): set 0, the last, is PCI vendor ID 0x1C8E; its command-set type is open. -/
def getVendorDefinedMessageSupportOp (sel : Byte) (s : State) : State :=
  s.request fun t => if sel = 0 then t.respondOpen [0x06, 0x00, 0xFF, 0x00, 0x1C, 0x8E] 2 else t.respond [0x06, 0x02]

/-- GET_RECORD (R519, R520): the record as last refreshed. -/
def getRecordOp (ident : Byte) (s : State) : State :=
  s.request fun t =>
    let i := ident.toNat
    if t.recordIds.contains i = false then t.respond [0x01, 0x02]
    else t.respond ([0x01, 0x00] ++ (match t.host.records.find? fun p => p.1 == i with | some p => p.2 | none => t.recordNow [] i))

/-- GET_ALERTS (R519, R588, R589): the returned flags are cleared, but for those that `events` set in the same cycle and those whose
condition still holds. -/
def getAlertsOp (events : Word) (s : State) : State :=
  s.request fun t =>
    let v := t.reg hifAlert
    (t.setReg hifAlert ((events &&& 0x3F) ||| t.alertsHold)).respond ([0x02, 0x00] ++ toBytes v.toNat 8)

/-- SET_ALERT_MASK (R519, R523). -/
def setAlertMaskOp (mask : Word) (s : State) : State := s.request fun t => (t.setReg hifAlmask (mask &&& 0x3F)).respond [0x03, 0x00]

/-- AOS_READ (R599). -/
def aosReadOp (s : State) : State := s.request fun t => (t.logOp 1 10 0).aosAnswer 1 stOK t.readData

/-- TRIP (R599, R600). -/
def tripOp (smbus : Bool) (s : State) : State := s.aosOp smbus 2 true fun t => some ((t.logOp 2 10 0).takeTrip, stOK)

/-- FENCE (R591, R599). -/
def fenceOp (smbus : Bool) (kind : Byte) (idx : BitVec 16) (s : State) : State := s.aosOp smbus 3 true fun t => t.fenceOp kind.toNat idx.toNat

/-- ERASE (R539, R599). -/
def eraseOp (smbus : Bool) (slot : Byte) (s : State) : State :=
  s.aosOp smbus 4 true fun t =>
    if (t.keys.at slot.toNat).installed = false then some (t, stConflict) else some ((t.eraseKey slot.toNat).logOp 4 11 slot.toNat, stOK)

/-- RESET (R550, R599): a reset with cause 8, warm or cold. -/
def resetOp (smbus : Bool) (cold : Byte) (s : State) : State :=
  s.aosOp smbus 5 true fun t => if cold.toNat > 1 then none else some ((t.logOp 5 10 0).resetCause 8 (cold = 1), stOK)

/-- AOS_REPORT (R602). -/
def aosReportOp (s : State) : State := s.aosOp true 6 false fun t => some t.sendReport

/-- RECORD_REFRESH (R520, R521): every 1 ms. -/
def recordRefreshOp (s : State) : State := if s.sidebandUp then s.refreshRecords else s

/-- SMBUS_ADDRESS_RESOLUTION (R518). -/
def smbusAddressResolutionOp (addr : BitVec 7) (s : State) : State := s.request fun t => t.onHost fun h => { h with smbAddr := addr.toNat }

/-- RAS_DRAIN_WRITE (R592, R606): RAS_CTL is written, SMBOPS only while LOCK is 0, and DRAIN moves the module into or out of
DRAINING. -/
def rasDrainWriteOp (half : Half) (val : Word) (s : State) : State :=
  let v := mergeHalf half (s.reg rasCtl) val
  let lock := s.fld rasCtl 2 1
  let s1 := s.setReg rasCtl (packWord [(0, 1, v.field 0 1), (1, 1, if lock = 1 then s.fld rasCtl 1 1 else v.field 1 1), (2, 1, max lock (v.field 2 1))])
  if s.fld rasCtl 0 1 = 0 ∧ v.bit 0 ∧ (s.mstate = .service ∨ s.mstate = .degraded) then s1.toMode .draining
  else if v.bit 0 = false ∧ s.mstate = .draining then (s1.toMode .service).judgeMod
  else s1

/-- AOS_STEWARD_WATCH_LAPSE (R601): the AOS fences the serving steward. -/
def aosStewardWatchLapseOp (s : State) : State :=
  if s.stw.running = false ∨ s.inA = false then s else s.aosOp false 3 false fun t => t.fenceOp 4 0

/-- AOS_MANAGER_WATCH_LAPSE (R601): the AOS fences the manager duties of a rack master. -/
def aosManagerWatchLapseOp (s : State) : State := if s.net.role ≠ 1 then s else s.aosOp false 3 false fun t => t.fenceOp 5 0

end Sys2Proof.Machine
end

