-- ==== Sys2Proof/Machine/Registers.lean ====
section
/-! DEFINITION. Register writes: the access types, ranges and locks of every writable register, W1C writes, and BAR0 of a virtual function (R8 to R11, R496, R522 to R524, R588, R589, and the field tables of the chapters). -/

namespace Sys2Proof.Machine

open Adr

/-- What a write to a register without a behaviour of its own obeys: the bits it sets, and whether the new word is accepted. -/
structure RegRule where
  mask : Nat
  ok : Bool := true

namespace State

/-! W1C (R588, R589). -/

/-- The bits of a half of a register word (R9). -/
def halfMask (h : Half) : Word := match h with | .whole => BitVec.ofNat 64 (2 ^ 64 - 1) | .lo => 0xFFFFFFFF | .hi => BitVec.ofNat 64 (2 ^ 64 - 2 ^ 32)

/-- Whether a flag of the event register at `a` lies in the array-clock domain of its compute die (R588). -/
def arrayFlag (a : Nat) : Bool := 0x1000000 ≤ a && a < 0x2000000 && (a % 0x200000 < 0xE0000)

/-- A W1C write: what it clears, and what events of the same cycle set again and count (R588, R589). Under a full fence it has no
effect; while the die's array clock is stopped it is held. -/
def writeW1c (s : State) (a : Nat) (h : Half) (v events : Word) : State :=
  let k := (a - 0x1000000) / 0x200000
  let die : Bool := 0x1000000 ≤ a && a < 0x2000000
  let bits := BitVec.ofNat 64 (2 ^ (flagCounters a).length - 1)
  let m := v &&& halfMask h &&& bits
  if die ∧ (s.die k).fullFence then s
  else if arrayFlag a ∧ s.dieStopped k then s.onDie k fun d => { d with heldW1c := d.heldW1c ++ [(a, m)] }
  else (s.setReg a (s.reg a &&& ~~~m)).raiseMask a (events &&& bits)

/-! Registers without a behaviour of their own. -/

/-- Whether the frames that RES_GSEAL names are PRIVATE frames of glove `g` (R424). -/
def sealBufferOk (s : State) (g : Nat) (w : Word) : Bool :=
  w.field 16 8 != 0 && (List.range (w.field 16 8)).all fun i =>
    let e := s.frame (w.field 0 16 + i)
    e.mode == .priv && e.glove == g

/-- Whether nodes of the public tree are live (R424); its root is no public prefix. -/
def publicLive (s : State) : Bool := s.liveNodes.any fun p => p.2.pub && !s.isRoot p.1

/-- The rule of a TKE register for the new word `w` (R68, R452 to R454, R458). -/
def tkeRule (s : State) (a : Nat) (w : Word) : Option RegRule :=
  if a = tkeHoldlim then some ⟨allBits, 1000000 ≤ w.toNat && w.toNat ≤ 6000000000⟩
  else if a = tkeAllow then some ⟨bits 0 32, s.fld tkeLcfg 20 1 == 1⟩
  else if a = tkeLcfg then
    some ⟨bits 0 48, w.field 0 20 < s.tick.n && w.field 21 16 ≥ 1 && 85 ≤ w.field 37 7 && w.field 37 7 ≤ 100 && w.field 44 4 ≥ 1⟩
  else if a = tkeFallback then some ⟨bits 0 32, true⟩
  else if a = tkeWake then some ⟨bits 0 3, true⟩
  else if 0x402000 ≤ a ∧ a < 0x403000 ∧ a % 64 = 0x18 then
    some ⟨bits 0 52, (s.glove ((a - 0x402000) / 64)).live && w.field 32 4 ≥ 1⟩
  else none

/-- The rule of a host-interface, security or steward register (R382, R522, R523, R547). -/
def hostRule (a : Nat) (w : Word) : Option RegRule :=
  if a = hifWin then some ⟨bits 0 33, w.field 0 2 ≤ 1 && (w.field 0 2 == 1 || w.field 2 16 == 0)⟩
  else if a = hifEvcq then some ⟨bits 0 9, true⟩
  else if a = hifAlmask then some ⟨bits 0 6, true⟩
  else if 0x202000 ≤ a ∧ a < 0x204000 ∧ a % 32 = 0 then some ⟨bits 6 58, true⟩
  else if 0x204000 ≤ a ∧ a < 0x204200 then some ⟨bits 0 9, true⟩
  else if a = secCfg then some ⟨1, true⟩
  else if 0x300100 ≤ a ∧ a < 0x300178 then some ⟨allBits, true⟩
  else if 0x801000 ≤ a ∧ a < 0x801800 ∧ a % 32 = 8 then some ⟨bits 0 56, true⟩
  else if 0x801000 ≤ a ∧ a < 0x801800 ∧ a % 32 = 0x10 then some ⟨bits 0 16, true⟩
  else none

/-- The rule of a register of a compute die at offset `o` (R234, R282, R284). -/
def dieRule (o : Nat) (w : Word) : Option RegRule :=
  if 0x3000 ≤ o ∧ o < 0x3400 ∧ o % 0x80 = 0x18 then some ⟨bits 0 4, w.field 0 4 ≥ 1⟩
  else if 0x4800 ≤ o ∧ o < 0x5000 then
    some ⟨match o % 32 / 8 with | 0 => bits 0 56 | 1 => bits 0 32 | 2 => bits 0 56 | _ => bits 0 62 + bits 63 1, true⟩
  else if 0xA0000 ≤ o ∧ o < 0xA0000 + 8 * 8 * 288 then
    some ⟨bits 0 29, !(w.field 23 1 == 1 && (w.field 11 12 == 0 || w.field 0 11 + w.field 11 12 > 2048))⟩
  else none

/-- The rule of a register of IOD0 at offset `o` (R352, R424, R496, R609). -/
def iodRule (s : State) (o : Nat) (w : Word) : Option RegRule :=
  if 0x21000 ≤ o ∧ o < 0x21200 then some ⟨bits 0 16, true⟩
  else if o = 0x40008 then some ⟨bits 0 9, !s.publicLive⟩
  else if 0x40100 ≤ o ∧ o < 0x40900 ∧ (o % 32 = 0 ∨ o % 32 = 8) then some ⟨bits 0 56, true⟩
  else if 0x40100 ≤ o ∧ o < 0x40900 ∧ o % 32 = 0x10 then some ⟨bits 0 24, s.sealBufferOk ((o - 0x40100) / 32) w⟩
  else if o = 0x70028 then some ⟨bits 0 20, true⟩
  else if o = 0x80018 then some ⟨bits 0 56, w.field 40 16 ≥ 1⟩
  else none

/-- The rule of the register at `a` for the new word `w`; none where it has a behaviour of its own, is read-only, or is reserved. -/
def regRule (s : State) (a : Nat) (w : Word) : Option RegRule :=
  if a < 0x400000 then hostRule a w
  else if a < 0x800000 then s.tkeRule a w
  else if a < 0x1000000 then hostRule a w
  else if a < 0x2000000 then dieRule (a % 0x200000) w
  else if a < 0x2400000 then s.iodRule (a - 0x2000000) w
  else none

/-- A write to such a register (R9, R11). -/
def writePlain (s : State) (a : Nat) (h : Half) (v : Word) : State :=
  let w := mergeHalf h (s.reg a) v
  match s.regRule a w with
  | none => s
  | some r =>
    if r.ok = false then s
    else
      let s1 := s.setReg a (w &&& BitVec.ofNat 64 r.mask)
      if a = tkeLcfg then s1.onLedger fun l =>
        { l with lofsOld := match l.lofsOld with
                            | some (t, o) => if t = s.tick.tick then some (t, o) else some (s.tick.tick, s.fld tkeLcfg 0 20)
                            | none => some (s.tick.tick, s.fld tkeLcfg 0 20) }
      else s1

/-! MSI-X tables (R500, R522, R524). -/

/-- A write to word `w` of MSI-X entry `v` of function `f`; a vector that is unmasked while pending is signalled. -/
def writeMsix (s : State) (f v w : Nat) (h : Half) (val : Word) : State :=
  let new := mergeHalf h (s.msixWord f v w) val &&& BitVec.ofNat 64 (if w = 0 then bits 2 62 else bits 0 33)
  let s1 := if f = 0 then s.setReg (msixEntry v w) new else s.onHost fun x => { x with vfMsix := x.vfMsix.put (16 * f + 2 * v + w) new }
  if w = 1 ∧ new.bit 32 = false ∧ (s.host.pba.at f).bit v then
    (s1.onHost fun x => { x with pba := x.pba.upd f fun p => p.setField v 1 0 }).emit (.msix f v)
  else s1

/-! Registers with a row of their own, by address. -/

/-- A report requested by a plain write of SEC_ACTL: its private key is what the random source draws (R536). -/
def writeActl (s : State) (h : Half) (v : Word) : State :=
  let m := (List.range 7).foldl (fun (n : Nat) i => n * 2 ^ 64 + (Config.freeRandom (s.freeCtr + i)).toNat) 0
  secActlGoOp h v (BitVec.ofNat 448 m) (s.spend 7)

/-- A write to a register below the dies' blocks. -/
def writeLow (s : State) (a : Nat) (h : Half) (v : Word) : State :=
  if a = aosRstreq then aosRstreqWriteOp h v s
  else if 0x201000 ≤ a ∧ a < 0x202000 ∧ a % 16 = 0 then s.writeCrCfg ((a - 0x201000) / 16) h v
  else if 0x202000 ≤ a ∧ a < 0x204000 ∧ a % 32 = 8 then s.writeCqCfg ((a - 0x202000) / 32) h v
  else if 0x202000 ≤ a ∧ a < 0x204000 ∧ a % 32 = 0x10 then s.writeCqHead ((a - 0x202000) / 32) h v
  else if 0x208000 ≤ a ∧ a < 0x208400 then s.writeMsix 0 ((a - 0x208000) / 16) (a % 16 / 8) h v
  else if a = secActl then s.writeActl h v
  else if a = stwQidx then stwQidxWriteOp h v s
  else if 0x801000 ≤ a ∧ a < 0x801800 ∧ a % 32 = 0 then stwGcfgWriteOp ((a - 0x801000) / 32) h v s
  else s.writePlain a h v

/-- A write to a register of a compute die. -/
def writeDie (s : State) (a : Nat) (h : Half) (v : Word) : State :=
  let k := (a - 0x1000000) / 0x200000
  let o := a % 0x200000
  if 0x40000 ≤ o ∧ o < 0x40000 + 32 * 16 * 288 ∧ (o % 32 = 8 ∨ o % 32 = 16) then
    let x := (o - 0x40000) / 32
    wkcWriteOp k (x / 16) (x % 16) (o % 32 = 16) h v s
  else if 0x80000 ≤ o ∧ o < 0x80000 + 8 * 16 * 288 then
    let x := (o - 0x80000) / 8
    arvCntWriteOp k (x / 16) (x % 16) h v 0 s
  else s.writePlain a h v

/-- A write to a register of an I/O die. -/
def writeIod (s : State) (a : Nat) (h : Half) (v : Word) : State :=
  let i := (a - 0x2000000) / 0x400000
  let o := (a - 0x2000000) % 0x400000
  if i < 4 ∧ 0x50000 ≤ o ∧ o < 0x50C00 ∧ o % 0x80 = 8 then
    (if h = .hi then s else lnkEnableWriteOp (24 * i + (o - 0x50000) / 0x80) v s)
  else if a = mgrCfg then mgrCfgLockOp h v s
  else if a = rasCtl then rasDrainWriteOp h v s
  else s.writePlain a h v

/-- A write to BAR0 of the PF at an address below 64 MiB (R8 to R11). -/
def writeReg (s : State) (a : Nat) (h : Half) (v : Word) : State :=
  if flagCounters a ≠ [] then s.writeW1c a h v 0
  else if a < 0x1000000 then s.writeLow a h v
  else if a < 0x2000000 then s.writeDie a h v
  else if a < 0x2000000 + 0x400000 * s.variant.iods then s.writeIod a h v
  else s

/-! BAR0 of a virtual function (R524). -/

/-- The word of VF_WIN: BASE of its own, the rest as HIF_WIN would read for the glove bound to it. -/
def vfWin (s : State) (f : Nat) : Word :=
  let g := s.vfGlove f
  packWord [(0, 2, 1), (2, 16, s.host.vfBase.at f), (18, 6, g.getD 0), (24, 8, (g.map fun x => (s.glove x).key).getD 0)]

/-- A read of BAR0 of VF `f` at an aligned offset. -/
def readVf (s : State) (f o : Nat) : Word :=
  let cqWord := fun (c : Nat) => s.readReg (hifCqBase c + o % 32)
  if o < 0x80 then s.msixWord f (o / 16) (o % 16 / 8)
  else if o = 0x800 then s.host.pba.at f
  else if 0x1000 ≤ o ∧ o < 0x1040 ∧ o % 16 = 0 then
    (match (s.ringsOf f)[(o - 0x1000) / 16]? with | some n => BitVec.ofNat 64 (s.ring n).rcv | none => 0)
  else if 0x2000 ≤ o ∧ o < 0x2080 then (match (s.cqsOf f)[(o - 0x2000) / 32]? with | some c => cqWord c | none => 0)
  else if o = 0x3000 then s.vfWin f
  else 0

/-- A write to BAR0 of VF `f` at an aligned offset: of VF_CQ_CFG only VEC, MODC and MODT, of VF_WIN only BASE. -/
def writeVf (s : State) (f o : Nat) (h : Half) (v : Word) : State :=
  if o < 0x80 then s.writeMsix f (o / 16) (o % 16 / 8) h v
  else if 0x2000 ≤ o ∧ o < 0x2080 then
    match (s.cqsOf f)[(o - 0x2000) / 32]? with
    | none => s
    | some c =>
      match o % 32 with
      | 0 => s.writePlain (hifCqBase c) h v
      | 8 =>
        let old := s.reg (hifCqCfg c)
        let new := mergeHalf h old v
        s.writeCqCfg c .whole (((old.setField 13 6 (new.field 13 6)).setField 19 8 (new.field 19 8)).setField 27 4 (new.field 27 4))
      | 16 => s.writeCqHead c h v
      | _ => s
  else if o = 0x3000 then
    s.onHost fun x => { x with vfBase := x.vfBase.put f ((mergeHalf h (s.vfWin f) v).field 2 16) }
  else s

end State

/-! The commands. -/

/-- REGISTER_WRITE (R8 to R11, R524): a write by the host to BAR0 of a function, at the address of a register. BAR0 of the PF ends at
64 MiB. -/
def registerWriteOp (func addr : Nat) (half : Half) (val : Word) (s : State) : State :=
  if s.barOpen func = false then s
  else if func = 0 then s.writeReg (addr / 8 * 8) half val
  else s.writeVf func (addr / 8 * 8) half val

/-- W1C_WRITE (R588, R589): `events` are the flags that events set in the cycle of the write. -/
def w1cWriteOp (addr : Nat) (half : Half) (val events : Word) (s : State) : State :=
  if s.barOpen 0 = false ∨ flagCounters addr = [] then s else s.writeW1c addr half val events

end Sys2Proof.Machine
end

