-- ==== Sys2Proof/Machine/Relayed.lean ====
section
/-! DEFINITION. Commands that a manager relays to a worker (R484, R488, R515). -/

namespace Sys2Proof.Machine

open Adr

/-- SERVICE_OP by the action that A1 names; an action beyond the list is refused by the first row (R515). -/
def applyService (c : HostCmd) (s : State) : State :=
  match c.a1.field 0 4 with
  | 1 => serviceOpUnfenceOp c s
  | 2 => serviceOpRetireOp c s
  | 3 => serviceOpFormChainOp c s
  | 4 => serviceOpReturnOp c none s
  | _ => serviceOpFenceOp c s

/-- KEY_OP by its action (R515). -/
def applyKey (c : HostCmd) (s : State) : State := if c.a1.field 8 2 = 1 then keyOpEraseOp c s else keyOpInstallOp c s

/-- IMAGE_OP by its action (R515). -/
def applyImage (c : HostCmd) (s : State) : State :=
  match c.a1.field 0 2 with
  | 1 => imageOpActivateOp c s
  | 2 => imageOpWriteOtpOp c s
  | _ => imageOpStageOp c s

/-- A host command by its OP (R515); `info` is what a return to ACTIVE detects, and a relayed return has none. -/
def applyCommand (op : Nat) (c : HostCmd) (s : State) : State :=
  match op with
  | 0x001 => identifyOp c s
  | 0x002 => setProfileOp c s
  | 0x003 => setTickPeriodOp c s
  | 0x004 => setRungOp c s
  | 0x005 => setRouteOp c s
  | 0x006 => stewardSwapOp c s
  | 0x007 => applyService c s
  | 0x008 => applyKey c s
  | 0x009 => applyImage c s
  | 0x010 => gloveCreateOp c s
  | 0x011 => gloveDestroyOp c s
  | 0x012 => gloveResetOp c s
  | 0x013 => frameAllocOp c s
  | 0x014 => frameShareOp c s
  | 0x015 => frameFreeOp c s
  | 0x016 => gsqWriteOp c s
  | 0x017 => gsqStartOp c s
  | 0x018 => gsqStopOp c s
  | 0x019 => planInstallOp c s
  | 0x01A => planRemoveOp c s
  | 0x01B => lz2EnableOp c s
  | 0x01C => lz2DisableOp c s
  | 0x020 => migrateOp c s
  | 0x030 => modelRegisterOp c s
  | 0x031 => modelSwitchinOp c s
  | 0x032 => modelParkOp c s
  | 0x033 => modelReplaceOp c s
  | 0x034 => adapterLoadOp c s
  | 0x035 => adapterUnloadOp c s
  | 0x036 => markPublicOp c s
  | 0x040 => admitSeqOp c s
  | 0x041 => routeAdmitOp c s
  | 0x042 => appendOp c s
  | 0x043 => cancelOp c s
  | 0x044 => pauseOp c s
  | 0x045 => resumeOp c s
  | 0x046 => releaseOp c s
  | _ => s.refuse c stOpcode

/-- RELAYED_COMMAND (R361, R484): ignored at a lower epoch than the highest seen, and else applied as received. A command without an
epoch is no relayed one. -/
def relayedCommandOp (op : Nat) (c : HostCmd) (s : State) : State :=
  match c.epoch with
  | none => s
  | some e =>
    let (t, ok) := s.newEpoch e
    if ok then applyCommand op c t else t

end Sys2Proof.Machine
end

