-- ==== Sys2Proof/Machine/Events.lean ====
section
/-! DEFINITION. One reference cycle: what is timed for the present cycle and has not fired yet fires before the counters leave it, in the order of R42 to R44 and R58. -/

namespace Sys2Proof.Machine

open Adr

namespace State

/-- The rail meters' readings for a ledger period that no LEDGER_PERIOD command brought: free values (R440, R452). -/
def freeMeters (s : State) : Meters × State :=
  (⟨(Config.freeWord s.freeCtr).toNat, (Config.freeWord (s.freeCtr + 1)).toNat, (Config.freeWord (s.freeCtr + 2)).toNat,
    (List.range 8).map fun k => (Config.freeWord (s.freeCtr + 3 + k)).toNat⟩, s.spend 11)

/-- A timed event fires. An exchange phase that no command opened has had no count row of another participant yet. -/
def fire (s : State) : Event → State
  | .period => periodChangeOp s
  | .ledger => ledgerPeriodOp s.freeMeters.1 s.freeMeters.2
  | .rung => rungChangeOp s
  | .commit g => stepCommitOp g s
  | .ttl seq => ttlExpiryOp seq s
  | .ttlExtent slot => extentTtlExpiryOp slot s
  | .cuff model => cuffReleaseOp model s
  | .switch g => armedSwitchOp g s
  | .phase plan => exchangePhaseStartOp plan [] false s
  | .round plan => exchangeRoundOpenOp plan s
  | .grants => grantComputationOp s
  | .profile => profileChangeOp s
  | .rungAbandon => rungEntryAbandonOp s
  | .faultHold g => faultHoldExpiryOp g s
  | .waitTick q => waitTickReachedOp q s
  | .waitTimeout q => waitTimeoutOp q s
  | .moderation cq => msixModerationTimerOp cq s

/-- All that is due in the present cycle fires, in order (R42 to R44); nothing fires during a hold (R58). -/
def fireDue (s : State) : State :=
  if s.tick.holding then s else (s.due.map Armed.ev).foldl (fun t e => t.fire e) s

/-- A beacon that is due is sent, with a timestamp within the cycle (R53). -/
def beaconDue (s : State) : State := beaconSendOp ((Config.freeWord s.freeCtr).toNat % 10) (s.spend 1)

/-- The heartbeats that are due are sent (R380, R486, R488). -/
def heartbeatsDue (s : State) : State :=
  let s1 := if s.nodeId.isSome then moduleHeartbeatOp s.net.pos s else s
  let s2 := managerHeartbeatOp s1
  if s.stw.running ∧ s.inA then stewardHeartbeatOp s2 else s2

/-- The palms that are FREE (R108). -/
def freePalms (s : State) : List Nat :=
  (List.range 128).filter fun p => (s.palm p).glove.isNone && (s.palm p).causes == [] && (s.die (p / 16)).bring == 4

/-- The report that a module with an ID sends its rack master (R486). -/
def ownReport (s : State) : Report :=
  let live := (s.stw.seqt.filter fun p => p.2.st != .free).length
  { node := s.nodeId.getD 0x1FFF, mstate := mcode s.mstate, cap := s.capWord, palms := s.freePalms.length,
    frames := (s.mem.tmap.filter fun p => p.2.mode == .free).length, seqFree := 131072 - live,
    models := (s.stw.models.filter fun p => p.2.st == .resident).map (·.1), liveSeq := live, aos := false }

/-- Every MGR_CFG.RPT ticks the report is sent; a rack master enters its own (R486). -/
def reportDue (s : State) : State :=
  if s.nodeId.isNone ∨ s.tick.tick < s.net.rptTick + s.fld mgrCfg 28 4 then s
  else
    let s1 := s.onNet fun b => { b with rptTick := s.tick.tick }
    if s.net.role = 1 then workerReportOp s.net.pos s.ownReport s1 else s1.emit (.report s.ownReport)

/-- A following rack master passes the correction of this cycle on to its followers (R54). -/
def passCorrection (s : State) : State := if s.tick.correction = 0 then s else s.emit (.tickCorrection s.tick.correction)

end State

/-- TICK_ADVANCE (R39, R42, R587): one REFCLK cycle. What is due in the present cycle and no command has fired fires first; then the
counters advance. -/
def tickAdvanceOp (s : State) : State :=
  if s.tick.refclk then ((s.fireDue.beaconDue.heartbeatsDue.reportDue.passCorrection).onTick TickSt.cycle).errWindow else s

end Sys2Proof.Machine
end

