-- ==== Sys2Proof/Machine/Exec.lean ====
section
/-! DEFINITION. The meaning of every command and event of spec/opcode_table.json: the outcome the machine answers. Each is the state change of its own
operation; the registers' writes alone can fault, at an address beyond BAR0. -/

namespace Sys2Proof.Machine

/-- REGISTER_WRITE (R11): A write to a register field that has no behaviour of its own sets or ignores the field according to its access type, range
checks and lock bit. -/
def execRegisterWrite (func : Nat) (addr : Nat) (half : Half) (val : Word) (s : State) : Host.Outcome State Fault Refusal :=
  if func = 0 ∧ Adr.bar0Size ≤ addr then .fault .outsideBar0 else .next (registerWriteOp func addr half val s)

/-- W1C_WRITE (R588): A write of 1 to a W1C event flag clears it unless an event sets it in the same cycle, and re-arms any log that the flag guards.
-/
def execW1cWrite (addr : Nat) (half : Half) (val : Word) (events : Word) (s : State) : Host.Outcome State Fault Refusal :=
  if Adr.bar0Size ≤ addr then .fault .outsideBar0 else .next (w1cWriteOp addr half val events s)

/-- TKE_TICK_READ (R62): A 64-bit read, or a read of the low half, of TKE_TICK latches the high half and the phase of the same reference cycle. -/
def execTkeTickRead (half : Half) (s : State) : Host.Outcome State Fault Refusal :=
  .next (tkeTickReadOp half s)

/-- TICK_ADVANCE (R39): When the phase counter has reached N - 1, the next reference cycle sets the phase to 0 and advances the tick counter by one.
-/
def execTickAdvance (s : State) : Host.Outcome State Fault Refusal :=
  .next (tickAdvanceOp s)

/-- PERIOD_CHANGE (R633): At the named tick boundary a pending tick period takes effect, and LOFS and GOFS are clamped to N - 1 where needed. -/
def execPeriodChange (s : State) : Host.Outcome State Fault Refusal :=
  .next (periodChangeOp s)

/-- ALIGNMENT_LOAD (R48): A joining follower loads the tick, phase, N and pending change from its rack master at the named REFCLK edge, stepping
forward or holding. -/
def execAlignmentLoad (tick : Word) (phase : Nat) (n : Nat) (pend : Option (Nat × Word)) (source : LoadSource) (s : State) : Host.Outcome State Fault Refusal :=
  .next (alignmentLoadOp tick phase n pend source.state source.node s)

/-- COUNTER_HOLD_END (R48): A hold of the tick and phase counters ends after the held number of reference cycles, and counting resumes at the loaded
value. -/
def execCounterHoldEnd (s : State) : Host.Outcome State Fault Refusal :=
  .next (counterHoldEndOp s)

/-- BEACON_SEND (R53): A parent rack master sends a beacon with its tick, phase, timestamp, N, pending change and crown offset every min(N, 100,000)
rc. -/
def execBeaconSend (sub : Nat) (s : State) : Host.Outcome State Fault Refusal :=
  .next (beaconSendOp sub s)

/-- BEACON_RECEIVE (R54): A following rack master corrects a beacon for link delay, takes N and any pending change, and slews its phase count. -/
def execBeaconReceive (b : Beacon) (way : BeaconWay) (freqPpb : Int) (s : State) : Host.Outcome State Fault Refusal :=
  .next (beaconReceiveOp b way.hops way.delayNs freqPpb s)

/-- BEACON_CHECK (R50): At each beacon interval, the rack master compares each follower's counter with its own and marks any follower more than 1 rc
away UNLOCKED. -/
def execBeaconCheck (node : Nat) (seen : CheckSeen) (s : State) : Host.Outcome State Fault Refusal :=
  .next (beaconCheckOp node seen.delta seen.master s)

/-- PARENT_LOST (R56): After 8 beacon intervals without a beacon, a follower marks its parent lost and chooses a new parent or enters HOLDOVER. -/
def execParentLost (candidates : List (Nat × Nat)) (s : State) : Host.Outcome State Fault Refusal :=
  .next (parentLostOp candidates s)

/-- HOLDOVER_LIMIT_EXPIRY (R56): When TKE_HOLDLIM reference cycles pass in HOLDOVER, the rack masters that still reach one another choose a new crown,
or the module enters UNLOCKED. -/
def execHoldoverLimitExpiry (reach : List Nat) (s : State) : Host.Outcome State Fault Refusal :=
  .next (holdoverLimitExpiryOp reach s)

/-- CROWN_MEET (R56): When two crowns come to reach each other, the one with the higher node ID yields and enters UNLOCKED. -/
def execCrownMeet (other : Nat) (s : State) : Host.Outcome State Fault Refusal :=
  .next (crownMeetOp other s)

/-- TICK_STEP_OR_HOLD (R58): At the next tick boundary a rack master and its followers step forward, or hold, by the measured offset d, and events in
a stepped span fire late. -/
def execTickStepOrHold (s : State) : Host.Outcome State Fault Refusal :=
  .next (tickStepOrHoldOp s)

/-- LEDGER_PERIOD (R440): At (t, LOFS) the ledger computes the pool, grants each glove its share, updates calibration factors and deducts continuing
charges. -/
def execLedgerPeriod (m : Meters) (s : State) : Host.Outcome State Fault Refusal :=
  .next (ledgerPeriodOp m s)

/-- GRANT_RECEIVED (R439): A module receives the energy grant for a tick from its manager on the service links. -/
def execGrantReceived (tick : Word) (mj : Nat) (epoch : Word) (s : State) : Host.Outcome State Fault Refusal :=
  .next (grantReceivedOp tick mj epoch s)

/-- GRANT_COMPUTATION (R483): At (t, GOFS) the rack master computes the grants for tick t + 1 by water-filling and sends them on the control VC. -/
def execGrantComputation (s : State) : Host.Outcome State Fault Refusal :=
  .next (grantComputationOp s)

/-- DEMAND_RECEIVED (R483): The rack master receives a module's demand for the next tick. -/
def execDemandReceived (node : Nat) (tick : Word) (mj : Nat) (envJ : Nat) (s : State) : Host.Outcome State Fault Refusal :=
  .next (demandReceivedOp node tick mj envJ s)

/-- RUNG_CHANGE (R449): At its named time, a rung change stops the admission of switches and the building of steps, and begins waiting for the rung's
conditions. -/
def execRungChange (s : State) : Host.Outcome State Fault Refusal :=
  .next (rungChangeOp s)

/-- RUNG_ENTRY_COMPLETE (R449): When the conditions of the named rung hold, the module powers down its parts as R447 sets out. -/
def execRungEntryComplete (s : State) : Host.Outcome State Fault Refusal :=
  .next (rungEntryCompleteOp s)

/-- RUNG_ENTRY_ABANDON (R449): When RUNGWAIT ticks pass without the conditions being met, the rung change is abandoned and the module stays in S0. -/
def execRungEntryAbandon (s : State) : Host.Outcome State Fault Refusal :=
  .next (rungEntryAbandonOp s)

/-- WAKE_EVENT (R450): An enabled command-ring, service-link or SMBus wake event leaves the current rung, with resets or a staged bring-up at exit
from S3 or S4. -/
def execWakeEvent (src : WakeSrc) (s : State) : Host.Outcome State Fault Refusal :=
  .next (wakeEventOp src s)

/-- STEP_COMMIT (R365): At (C, 0) the steward applies held cancels, commits the step's rows, applies held pauses, clears INSTEP, writes the mirror and
delivers tokens. -/
def execStepCommit (g : Nat) (s : State) : Host.Outcome State Fault Refusal :=
  .next (stepCommitOp g s)

/-- STEP_DONE (R363): The steward takes a STEP_DONE record from a glove's report queue and starts sampling the step's rows. -/
def execStepDone (g : Nat) (s : State) : Host.Outcome State Fault Refusal :=
  .next (stepDoneOp g s)

/-- STEP_ABORT (R369): The steward takes a STEP_ABORT record from a glove's report queue and abandons the running step. -/
def execStepAbort (g : Nat) (s : State) : Host.Outcome State Fault Refusal :=
  .next (stepAbortOp g s)

/-- SAMPLER_FINISH (R365): The sampler finishes every row of the step, which fixes the commit tick C. -/
def execSamplerFinish (g : Nat) (s : State) : Host.Outcome State Fault Refusal :=
  .next (samplerFinishOp g s)

/-- AUTO_RESUME (R364): Once enough pages are free, the steward itself resumes an AUTO-paused sequence, which rejoins ahead of the admission queue. -/
def execAutoResume (seq : Nat) (s : State) : Host.Outcome State Fault Refusal :=
  .next (autoResumeOp seq s)

/-- TTL_EXPIRY (R407): At (EXPIRY, 0) a sequence's cache is sealed down to the wide or deep tier, moved to the deep tier, or the sequence EXPIRES. -/
def execTtlExpiry (seq : Nat) (s : State) : Host.Outcome State Fault Refusal :=
  .next (ttlExpiryOp seq s)

/-- EXTENT_TTL_EXPIRY (R411): At its expiry, an extent sealed with a time-to-live is freed, and its handle turns stale. -/
def execExtentTtlExpiry (slot : Nat) (s : State) : Host.Outcome State Fault Refusal :=
  .next (extentTtlExpiryOp slot s)

/-- CACHE_SEAL_COMPLETE (R408): When every piece of a cache seal has completed, its pages are freed and PNODE and REFNODE become 0. -/
def execCacheSealComplete (seq : Nat) (s : State) : Host.Outcome State Fault Refusal :=
  .next (cacheSealCompleteOp seq s)

/-- SEAL_RETRY (R409): At the next tick boundary, a cache seal or move that was refused or failed is tried again. -/
def execSealRetry (seq : Nat) (s : State) : Host.Outcome State Fault Refusal :=
  .next (sealRetryOp seq s)

/-- RESUME_PAGE_RETRY (R410): At each tick boundary, a resume that lacked pages tries again to take pages for every block. -/
def execResumePageRetry (seq : Nat) (s : State) : Host.Outcome State Fault Refusal :=
  .next (resumePageRetryOp seq s)

/-- RESUME_COPY_COMPLETE (R410): When every page copy of a resume has completed, the sequence returns to RFROM and its extents are freed. -/
def execResumeCopyComplete (seq : Nat) (s : State) : Host.Outcome State Fault Refusal :=
  .next (resumeCopyCompleteOp seq s)

/-- CUFF_RELEASE (R418): At (Tr, 0), or at the first boundary at least 16 rc after the copies finish, the cuff releases and step building resumes. -/
def execCuffRelease (model : Nat) (s : State) : Host.Outcome State Fault Refusal :=
  .next (cuffReleaseOp model s)

/-- SWITCHIN_EXTENT_COMPLETE (R415): An extent of a switch-in arrives in the near tier, the arrival counter advances, and the model becomes RESIDENT
after the last extent. -/
def execSwitchinExtentComplete (model : Nat) (extent : Nat) (s : State) : Host.Outcome State Fault Refusal :=
  .next (switchinExtentCompleteOp model extent s)

/-- PEER_LOST (R480): A refusal, a link going DOWN, or 64 us without a unit counts as loss of the peer, and the extent is fetched again from the next
source. -/
def execPeerLost (model : Nat) (extent : Nat) (peer : Nat) (s : State) : Host.Outcome State Fault Refusal :=
  .next (peerLostOp model extent peer s)

/-- FETCH_REQUEST (R480): A peer receives a FETCH, checks the model version and the range, and sends the data on the bulk VC, or an extent on the
service VC. -/
def execFetchRequest (f : FetchMsg) (s : State) : Host.Outcome State Fault Refusal :=
  .next (fetchRequestOp f s)

/-- FETCH_UNIT_RECEIVE (R480): The requesting migration engine receives a fetched 4 KiB unit, re-encrypts it and writes it into the new frames. -/
def execFetchUnitReceive (model : Nat) (extent : Nat) (unit : Nat) (data : List Byte) (s : State) : Host.Outcome State Fault Refusal :=
  .next (fetchUnitReceiveOp model extent unit data s)

/-- SCHEDULE_FAULT (R100): A schedule fault stops the pattern before cycle c + L_f, logs it, delivers it to the sequencer and faults the glove. -/
def execScheduleFault (f : SFault) (s : State) : Host.Outcome State Fault Refusal :=
  .next (scheduleFaultOp f s)

/-- CELL_EXCEPTION (R158): A cell exception stops its pattern, is logged in CEL_XLOG, and faults the glove as a schedule fault does. -/
def execCellException (f : XFault) (s : State) : Host.Outcome State Fault Refusal :=
  .next (cellExceptionOp f s)

/-- PORT_FREEZE (R94): A boundary port raises freeze at its decision cycle, and the whole pattern stops L_f cycles later with all its state held. -/
def execPortFreeze (g : Nat) (p : PortRef) (s : State) : Host.Outcome State Fault Refusal :=
  .next (portFreezeOp g p s)

/-- FREEZE_RELEASE (R95): A frozen port releases its freeze when its skid condition no longer holds. -/
def execFreezeRelease (g : Nat) (p : PortRef) (s : State) : Host.Outcome State Fault Refusal :=
  .next (freezeReleaseOp g p s)

/-- PATTERN_RESUME (R95): L_f cycles after the last port has released, the pattern executes its next cycle, and any held switch is taken instead. -/
def execPatternResume (g : Nat) (s : State) : Host.Outcome State Fault Refusal :=
  .next (patternResumeOp g s)

/-- CROSSING_MARGIN_LOSS (R90): A lattice crossing loses timing margin, sets MARGIN_LOW, retrains, and gives each pattern that uses it a CROSSING
fault. -/
def execCrossingMarginLoss (die : Nat) (at_ : EdgeChannel) (s : State) : Host.Outcome State Fault Refusal :=
  .next (crossingMarginLossOp die at_.edge at_.chan s)

/-- CROSSING_RETRAIN_COMPLETE (R90): The retraining of a lattice crossing completes, and the edge reads TRAINED again. -/
def execCrossingRetrainComplete (die : Nat) (edge : Nat) (s : State) : Host.Outcome State Fault Refusal :=
  .next (crossingRetrainCompleteOp die edge s)

/-- CELL_FAILURE (R104): A failed cell, thumb spare or switch forms a repair chain, makes a chain wait, or fences a palm with a cause. -/
def execCellFailure (die : Nat) (row : Nat) (kind : FailKind) (col : Nat) (s : State) : Host.Outcome State Fault Refusal :=
  .next (cellFailureOp die row kind col s)

/-- CHAIN_FORM (R106): A waiting repair chain is formed in the cycle in which the last palm it remaps leaves its glove, and the waiting palm loses
cause 3. -/
def execChainForm (die : Nat) (row : Nat) (kind : Kind) (s : State) : Host.Outcome State Fault Refusal :=
  .next (chainFormOp die row kind s)

/-- PATTERN_SWITCH (R155): At the switch cycle, every cell and switch of the pattern moves to the incoming context, and the outgoing work is abandoned
by R156. -/
def execPatternSwitch (g : Nat) (vcore : List Nat) (s : State) : Host.Outcome State Fault Refusal :=
  .next (patternSwitchOp g vcore s)

/-- PATTERN_DONE (R207): The sequencer learns, L_f cycles after its last condition holds, that the active pattern is done. -/
def execPatternDone (g : Nat) (vcore : List Nat) (s : State) : Host.Outcome State Fault Refusal :=
  .next (patternDoneOp g vcore s)

/-- CLOCK_STEP_CHANGE (R436): A die's array clock stops for 64 rc while the new step takes effect and the lattice channels retrain. -/
def execClockStepChange (die : Nat) (step : StepReport) (s : State) : Host.Outcome State Fault Refusal :=
  .next (clockStepChangeOp die step.step step.mv s)

/-- THERMAL_SAMPLE (R437): Every 10 us each die's temperature is sampled and its heat budget PB is set. -/
def execThermalSample (temps : List Nat) (s : State) : Host.Outcome State Fault Refusal :=
  .next (thermalSampleOp temps s)

/-- RERUNNABLE_DETECTION (R225): A rerunnable detection stops the active pattern and restores G1-G15, and the sequencer continues at the rerun point.
-/
def execRerunnableDetection (d : Detection) (cycle : Nat) (s : State) : Host.Outcome State Fault Refusal :=
  .next (rerunnableDetectionOp d cycle s)

/-- LOAD_COMPLETE (R203): An image load ends: the slot becomes LOADED, or FAILED at the first refused check. -/
def execLoadComplete (g : Nat) (s : State) : Host.Outcome State Fault Refusal :=
  .next (loadCompleteOp g s)

/-- ARMED_SWITCH (R215): At its named reference cycle an armed switch requests admission, or is not taken when its slot is still LOADING or has
FAILED. -/
def execArmedSwitch (g : Nat) (s : State) : Host.Outcome State Fault Refusal :=
  .next (armedSwitchOp g s)

/-- WAIT_TIMEOUT (R212): The timeout of a WAIT or RUN expires, ST is set to TIMEOUT, and the sequencer continues. -/
def execWaitTimeout (q : Nat) (s : State) : Host.Outcome State Fault Refusal :=
  .next (waitTimeoutOp q s)

/-- WORK_COUNTER_CLAIM (R220): An atomic 32-bit fetch-and-add on a claim address returns NEXT and advances it up to LIMIT, or returns all ones. -/
def execWorkCounterClaim (die : Nat) (m : Nat) (n : Nat) (who : Requester) (a : BitVec 32) (wide : Bool) (s : State) : Host.Outcome State Fault Refusal :=
  .next (workCounterClaimOp die m n who a wide s)

/-- WKC_WRITE (R222): A system write to WKC_NEXT or WKC_LIMIT enters the counter's queue, and a LIMIT of all ones is refused. -/
def execWkcWrite (die : Nat) (m : Nat) (n : Nat) (limit : Bool) (half : Half) (val : Word) (s : State) : Host.Outcome State Fault Refusal :=
  .next (wkcWriteOp die m n limit half val s)

/-- CT_NOP (R135): Control-slot no operation. -/
def execCtNop (site : Site) (s : State) : Host.Outcome State Fault Refusal :=
  .next (ctNopOp site s)

/-- EPX (R135): Inverts the epoch bit EP. -/
def execEpx (site : Site) (s : State) : Host.Outcome State Fault Refusal :=
  .next (epxOp site s)

/-- EPS (R135): Sets EP to X[0]. -/
def execEps (site : Site) (x : BitVec 6) (s : State) : Host.Outcome State Fault Refusal :=
  .next (epsOp site x s)

/-- FSET (R135): Sets a flag to the given value. -/
def execFset (site : Site) (x : BitVec 6) (s : State) : Host.Outcome State Fault Refusal :=
  .next (fsetOp site x s)

/-- FANY (R135): Sets a flag when any bit of a lane mask is 1. -/
def execFany (site : Site) (x : BitVec 6) (s : State) : Host.Outcome State Fault Refusal :=
  .next (fanyOp site x s)

/-- FALL (R135): Sets a flag when every bit of a lane mask is 1. -/
def execFall (site : Site) (x : BitVec 6) (s : State) : Host.Outcome State Fault Refusal :=
  .next (fallOp site x s)

/-- TRAP (R135): Raises cell exception USER_TRAP with code X. -/
def execTrap (site : Site) (x : BitVec 6) (s : State) : Host.Outcome State Fault Refusal :=
  .next (trapOp site x s)

/-- MV_NOP (R139): Move-slot no operation. -/
def execMvNop (site : Site) (s : State) : Host.Outcome State Fault Refusal :=
  .next (mvNopOp site s)

/-- FIL (R139): Takes words from a port and writes NL lines into an operand-buffer ring. -/
def execFil (site : Site) (port : Nat) (areg : Nat) (d : Nat) (nl : Nat) (s : State) : Host.Outcome State Fault Refusal :=
  .next (filOp site port areg d nl s)

/-- VLD (R139): Takes words from a port into a vector register, or into a quarter or half of one. -/
def execVld (site : Site) (port : Nat) (vd : Nat) (single : Bool) (q : Nat) (s : State) : Host.Outcome State Fault Refusal :=
  .next (vldOp site port vd single q s)

/-- VST (R139): Places a vector register, or a part of one, in a port's send queue. -/
def execVst (site : Site) (port : Nat) (vs : Nat) (single : Bool) (q : Nat) (s : State) : Host.Outcome State Fault Refusal :=
  .next (vstOp site port vs single q s)

/-- TOK (R139): Sends a token with value CVAL and epoch EP on the local port's control lane. -/
def execTok (site : Site) (cval : Byte) (s : State) : Host.Outcome State Fault Refusal :=
  .next (tokOp site cval s)

/-- OBV (R139): Reads four operand-buffer lines into a vector register. -/
def execObv (site : Site) (areg : Nat) (d : Nat) (vd : Nat) (s : State) : Host.Outcome State Fault Refusal :=
  .next (obvOp site areg d vd s)

/-- DSC (R139): Takes one word from a port and discards it. -/
def execDsc (site : Site) (port : Nat) (s : State) : Host.Outcome State Fault Refusal :=
  .next (dscOp site port s)

/-- VNOP (R143): Vector no operation. -/
def execVnop (site : Site) (s : State) : Host.Outcome State Fault Refusal :=
  .next (vnopOp site s)

/-- VADD (R143): Lane-wise A + B. -/
def execVadd (site : Site) (vd : Nat) (va : Nat) (vb : Nat) (msk : Nat) (neg : Bool) (s : State) : Host.Outcome State Fault Refusal :=
  .next (vaddOp site vd va vb msk neg s)

/-- VSUB (R143): Lane-wise A - B. -/
def execVsub (site : Site) (vd : Nat) (va : Nat) (vb : Nat) (msk : Nat) (neg : Bool) (s : State) : Host.Outcome State Fault Refusal :=
  .next (vsubOp site vd va vb msk neg s)

/-- VMUL (R143): Lane-wise A x B. -/
def execVmul (site : Site) (vd : Nat) (va : Nat) (vb : Nat) (msk : Nat) (neg : Bool) (s : State) : Host.Outcome State Fault Refusal :=
  .next (vmulOp site vd va vb msk neg s)

/-- VFMA (R143): Lane-wise A x B + C with one rounding. -/
def execVfma (site : Site) (vd : Nat) (va : Nat) (vb : Nat) (vc : Nat) (msk : Nat) (neg : Bool) (s : State) : Host.Outcome State Fault Refusal :=
  .next (vfmaOp site vd va vb vc msk neg s)

/-- VMAX (R143): Lane-wise maximum. -/
def execVmax (site : Site) (vd : Nat) (va : Nat) (vb : Nat) (msk : Nat) (neg : Bool) (s : State) : Host.Outcome State Fault Refusal :=
  .next (vmaxOp site vd va vb msk neg s)

/-- VMIN (R143): Lane-wise minimum. -/
def execVmin (site : Site) (vd : Nat) (va : Nat) (vb : Nat) (msk : Nat) (neg : Bool) (s : State) : Host.Outcome State Fault Refusal :=
  .next (vminOp site vd va vb msk neg s)

/-- VSEL (R143): Lane-wise selection of A or B by a mask. -/
def execVsel (site : Site) (vd : Nat) (va : Nat) (vb : Nat) (msk : Nat) (sel : Nat) (s : State) : Host.Outcome State Fault Refusal :=
  .next (vselOp site vd va vb msk sel s)

/-- VMOV (R143): Copies A to VD. -/
def execVmov (site : Site) (vd : Nat) (va : Nat) (msk : Nat) (s : State) : Host.Outcome State Fault Refusal :=
  .next (vmovOp site vd va msk s)

/-- VBC (R143): Broadcasts a configuration word to every lane. -/
def execVbc (site : Site) (vd : Nat) (cw : Nat) (msk : Nat) (s : State) : Host.Outcome State Fault Refusal :=
  .next (vbcOp site vd cw msk s)

/-- VCMP (R143): Compares A and B into a lane mask. -/
def execVcmp (site : Site) (md : Nat) (va : Nat) (vb : Nat) (msk : Nat) (cond : Nat) (s : State) : Host.Outcome State Fault Refusal :=
  .next (vcmpOp site md va vb msk cond s)

/-- VMSK (R143): Combines lane masks, or builds a FIRSTN mask. -/
def execVmsk (site : Site) (dst : MaskDst) (va : Nat) (vb : Nat) (op : Nat) (s : State) : Host.Outcome State Fault Refusal :=
  .next (vmskOp site dst.md va vb dst.msk op s)

/-- VRED (R144): Reduces A over the masked lanes by a fixed tree into every lane. -/
def execVred (site : Site) (vd : Nat) (va : Nat) (msk : Nat) (fn : Nat) (s : State) : Host.Outcome State Fault Refusal :=
  .next (vredOp site vd va msk fn s)

/-- VXF (R145): Computes EXP, RCP or RSQ through the transcendental queue. -/
def execVxf (site : Site) (vd : Nat) (va : Nat) (msk : Nat) (fn : Nat) (s : State) : Host.Outcome State Fault Refusal :=
  .next (vxfOp site vd va msk fn s)

/-- VCVT (R143): Converts lanes between FP32, BF16 and FP16. -/
def execVcvt (site : Site) (vd : Nat) (va : Nat) (vb : Nat) (msk : Nat) (fn : Nat) (sr : Bool) (s : State) : Host.Outcome State Fault Refusal :=
  .next (vcvtOp site vd va vb msk fn sr s)

/-- MNOP (R151): Matrix no operation. -/
def execMnop (site : Site) (s : State) : Host.Outcome State Fault Refusal :=
  .next (mnopOp site s)

/-- MMA (R149): Adds a depth-32 outer product of two operand panels into an accumulator bank. -/
def execMma (site : Site) (bank : Nat) (z : Nat) (fa : Nat) (fb : Nat) (aa : Nat) (da : Nat) (ab : Nat) (db : Nat) (s : State) : Host.Outcome State Fault Refusal :=
  .next (mmaOp site bank z fa fb aa da ab db s)

/-- MRD (R151): Reads an accumulator column into a vector register, optionally zeroing it. -/
def execMrd (site : Site) (bank : Nat) (col : Nat) (ci : Bool) (vd : Nat) (zr : Bool) (s : State) : Host.Outcome State Fault Refusal :=
  .next (mrdOp site bank col ci vd zr s)

/-- MWR (R151): Writes a vector register into an accumulator column. -/
def execMwr (site : Site) (bank : Nat) (col : Nat) (ci : Bool) (vs : Nat) (s : State) : Host.Outcome State Fault Refusal :=
  .next (mwrOp site bank col ci vs s)

/-- MZ (R151): Sets an accumulator bank to 0. -/
def execMz (site : Site) (bank : Nat) (s : State) : Host.Outcome State Fault Refusal :=
  .next (mzOp site bank s)

/-- MRS (R150): Loads the A or B row-scale latch from operand-buffer lines. -/
def execMrs (site : Site) (side : Nat) (areg : Nat) (d : Nat) (s : State) : Host.Outcome State Fault Refusal :=
  .next (mrsOp site side areg d s)

/-- GSQ_NOP (R211): Sequencer no operation. -/
def execGsqNop (q : Nat) (s : State) : Host.Outcome State Fault Refusal :=
  .next (gsqNopOp q s)

/-- LI (R211): Loads a sign-extended immediate into a G register. -/
def execLi (q : Nat) (gd : Nat) (imm : BitVec 32) (s : State) : Host.Outcome State Fault Refusal :=
  .next (liOp q gd imm s)

/-- LIH (R211): Loads an immediate into the high half of a G register. -/
def execLih (q : Nat) (gd : Nat) (imm : BitVec 32) (s : State) : Host.Outcome State Fault Refusal :=
  .next (lihOp q gd imm s)

/-- ADDI (R211): Adds a sign-extended immediate to a G register. -/
def execAddi (q : Nat) (gd : Nat) (ga : Nat) (imm : BitVec 32) (s : State) : Host.Outcome State Fault Refusal :=
  .next (addiOp q gd ga imm s)

/-- ADD (R211): Adds two G registers. -/
def execAdd (q : Nat) (gd : Nat) (ga : Nat) (gb : Nat) (s : State) : Host.Outcome State Fault Refusal :=
  .next (addOp q gd ga gb s)

/-- BR (R211): Branches unconditionally. -/
def execBr (q : Nat) (t : Nat) (s : State) : Host.Outcome State Fault Refusal :=
  .next (brOp q t s)

/-- BNZ (R211): Branches when a G register is nonzero. -/
def execBnz (q : Nat) (ga : Nat) (t : Nat) (s : State) : Host.Outcome State Fault Refusal :=
  .next (bnzOp q ga t s)

/-- DJNZ (R211): Decrements a G register and branches while it is nonzero. -/
def execDjnz (q : Nat) (gd : Nat) (t : Nat) (s : State) : Host.Outcome State Fault Refusal :=
  .next (djnzOp q gd t s)

/-- BST (R211): Branches on the status register ST. -/
def execBst (q : Nat) (mode : Nat) (code : Nat) (t : Nat) (s : State) : Host.Outcome State Fault Refusal :=
  .next (bstOp q mode code t s)

/-- LOAD (R211): Waits until no load runs and no switch out of the slot is pending, then starts loading an image into the slot. -/
def execLoad (q : Nat) (slot : Nat) (ga : Nat) (s : State) : Host.Outcome State Fault Refusal :=
  .next (loadOp q slot ga s)

/-- ARM (R216): Arms a switch into a slot at a named (tick, offset). -/
def execArm (q : Nat) (slot : Nat) (ga : Nat) (ofs : Nat) (s : State) : Host.Outcome State Fault Refusal :=
  .next (armOp q slot ga ofs s)

/-- SWI (R215): Requests a switch into a slot as soon as possible. -/
def execSwi (q : Nat) (slot : Nat) (s : State) : Host.Outcome State Fault Refusal :=
  .next (swiOp q slot s)

/-- RUN (R211): Requests a switch into a slot, then waits for done with a timeout. -/
def execRun (q : Nat) (slot : Nat) (ga : Nat) (s : State) : Host.Outcome State Fault Refusal :=
  .next (runOp q slot ga s)

/-- WAIT_DONE (R212): Waits until the active pattern is done. -/
def execWaitDone (q : Nat) (tmo : Nat) (s : State) : Host.Outcome State Fault Refusal :=
  .next (waitDoneOp q tmo s)

/-- WAIT_LOADED (R212): Waits until a slot is no longer LOADING. -/
def execWaitLoaded (q : Nat) (slot : Nat) (tmo : Nat) (s : State) : Host.Outcome State Fault Refusal :=
  .next (waitLoadedOp q slot tmo s)

/-- WAIT_TICK (R212): Waits until a named reference cycle begins. -/
def execWaitTick (q : Nat) (ga : Nat) (ofs : Nat) (tmo : Nat) (s : State) : Host.Outcome State Fault Refusal :=
  .next (waitTickOp q ga ofs tmo s)

/-- WAIT_ARRIVAL (R212): Waits until an arrival counter reaches a value. -/
def execWaitArrival (q : Nat) (ga : Nat) (gb : Nat) (tmo : Nat) (s : State) : Host.Outcome State Fault Refusal :=
  .next (waitArrivalOp q ga gb tmo s)

/-- WAIT_SWITCHED (R212): Waits until no switch is armed, and returns the status of the armed switch. -/
def execWaitSwitched (q : Nat) (tmo : Nat) (s : State) : Host.Outcome State Fault Refusal :=
  .next (waitSwitchedOp q tmo s)

/-- WAIT_SEALED (R212): Waits until every seal of the glove has completed, and returns the first failure. -/
def execWaitSealed (q : Nat) (tmo : Nat) (s : State) : Host.Outcome State Fault Refusal :=
  .next (waitSealedOp q tmo s)

/-- EXCH (R334): Opens, or continues, a round of an exchange plan and waits for it to close. -/
def execExch (q : Nat) (ga : Nat) (ofs : Nat) (phase : Nat) (t : Nat) (s : State) : Host.Outcome State Fault Refusal :=
  .next (exchOp q ga ofs phase t s)

/-- SEAL (R219): Asks the migration engine to seal a near-tier range into the wide or deep tier, and writes the extent handle. -/
def execSealExtent (q : Nat) (ga : Nat) (gb : Nat) (gd : Nat) (gt : Nat) (dest : Nat) (s : State) : Host.Outcome State Fault Refusal :=
  .next (sealExtentOp q ga gb gd gt dest s)

/-- CTR (R211): Sets NEXT and LIMIT of a work counter. -/
def execCtr (q : Nat) (ga : Nat) (gb : Nat) (gc : Nat) (s : State) : Host.Outcome State Fault Refusal :=
  .next (ctrOp q ga gb gc s)

/-- REPORT (R211): Places a record in the glove's report queue, waiting while the queue is full. -/
def execReport (q : Nat) (ga : Nat) (code : Nat) (s : State) : Host.Outcome State Fault Refusal :=
  .next (reportOp q ga code s)

/-- SECB (R224): Takes a rerun point. -/
def execSecb (q : Nat) (ident : Nat) (s : State) : Host.Outcome State Fault Refusal :=
  .next (secbOp q ident s)

/-- HALT (R211): Stops the sequencer in HALTED. -/
def execHalt (q : Nat) (s : State) : Host.Outcome State Fault Refusal :=
  .next (haltOp q s)

/-- END (R248): Ends an address generator's descriptor program. -/
def execAgEnd (cell : Nat) (ag : Nat) (s : State) : Host.Outcome State Fault Refusal :=
  .next (agEndOp cell ag s)

/-- AG_RUN (R249): Runs a descriptor, and moves its tiles on the generator's timeline. -/
def execAgRun (cell : Nat) (ag : Nat) (word : Word) (upset : List (Nat × Nat)) (s : State) : Host.Outcome State Fault Refusal :=
  .next (agRunOp cell ag word upset s)

/-- LOOP (R248): Repeats a body of descriptor-program instructions COUNT times. -/
def execAgLoop (cell : Nat) (ag : Nat) (count : Nat) (body : Nat) (s : State) : Host.Outcome State Fault Refusal :=
  .next (agLoopOp cell ag count body s)

/-- RING (R253): Configures a stream ring, and starts its fetcher. -/
def execRing (cell : Nat) (ag : Nat) (rng : Nat) (base : Nat) (srows : Nat) (slots : Nat) (s : State) : Host.Outcome State Fault Refusal :=
  .next (ringOp cell ag rng base srows slots s)

/-- WIN (R260): Sets a remote-write window. -/
def execWin (cell : Nat) (w : Nat) (mode : Nat) (cnt : Nat) (base : Nat) (len : Nat) (s : State) : Host.Outcome State Fault Refusal :=
  .next (winOp cell w mode cnt base len s)

/-- SETA (R262): Sets an arrival counter to a value. -/
def execSeta (cell : Nat) (cnt : Nat) (value : BitVec 32) (counted : Nat) (s : State) : Host.Outcome State Fault Refusal :=
  .next (setaOp cell cnt value counted s)

/-- HQB (R265): Empties a handle queue, binds it to a producer, and sets the producer's credits to 16. -/
def execHqb (cell : Nat) (q : Nat) (prod : Nat) (s : State) : Host.Outcome State Fault Refusal :=
  .next (hqbOp cell q prod s)

/-- RING_FILL (R254): The fetcher of a READ ring fetches a tile into the free slot at TAIL, and writes each row as an elastic access. -/
def execRingFill (cell : Nat) (rng : Nat) (s : State) : Host.Outcome State Fault Refusal :=
  .next (ringFillOp cell rng s)

/-- RING_DRAIN (R255): The drainer of a WRITE ring reads a completed slot and writes its valid units, and the slot is freed once the controller
accepts them. -/
def execRingDrain (cell : Nat) (rng : Nat) (upset : List (Nat × Nat)) (s : State) : Host.Outcome State Fault Refusal :=
  .next (ringDrainOp cell rng upset s)

/-- NARROW_REQUEST (R243): A narrow read, write or atomic operation enters the narrow queue and is served through the row-merge buffer. -/
def execNarrowRequest (who : Requester) (ta : Word) (op : NarrowOp) (upset : Bool) (s : State) : Host.Outcome State Fault Refusal :=
  .next (narrowRequestOp who ta op upset s)

/-- MERGE_WRITEBACK (R243): A row-merge entry is written back whole in the first free row slot after its last merge. -/
def execMergeWriteback (cell : Nat) (row : Nat) (s : State) : Host.Outcome State Fault Refusal :=
  .next (mergeWritebackOp cell row s)

/-- REMOTE_WRITE (R261): A remote write is judged on arrival against its window and counter, and is then discarded or accepted as an elastic or narrow
access. -/
def execRemoteWrite (ta : Word) (glove : Nat) (data : List Byte) (upset : Bool) (s : State) : Host.Outcome State Fault Refusal :=
  .next (remoteWriteOp ta glove data upset s)

/-- HANDLE_PUSH (R266): A producer pushes a tile handle to the bound handle queue of the target M-cell, spending one credit. -/
def execHandlePush (cell : Nat) (q : Nat) (producer : Nat) (handle : BitVec 32) (glove : Nat) (s : State) : Host.Outcome State Fault Refusal :=
  .next (handlePushOp cell q producer handle glove s)

/-- ARV_CNT_WRITE (R262): A register write sets an arrival counter to the value written, plus the counted writes of the same cycle. -/
def execArvCntWrite (die : Nat) (m : Nat) (n : Nat) (half : Half) (val : Word) (counted : Nat) (s : State) : Host.Outcome State Fault Refusal :=
  .next (arvCntWriteOp die m n half val counted s)

/-- PACKED_BLOCK_DECODE (R275): An expander decodes a packed 4 KiB block, and a malformed block delivers a rerunnable detection. -/
def execPackedBlockDecode (die : Nat) (entry : Nat) (block : Nat) (glove : Nat) (s : State) : Host.Outcome State Fault Refusal :=
  .next (packedBlockDecodeOp die entry block glove s)

/-- HBM_UNCORRECTED_READ (R296): A read that the stack reports as uncorrected puts its unit on the poison list, and an overflow of the list retires
the frame. -/
def execHbmUncorrectedRead (frame : Nat) (unit : Nat) (glove : Nat) (system : Bool) (rerunReader : Bool) (s : State) : Host.Outcome State Fault Refusal :=
  .next (hbmUncorrectedReadOp frame unit glove system rerunReader s)

/-- CORRECTED_ERROR (R587): A corrected HBM or DDR5 read, or an NVMe error, is counted, and crossing a threshold within a window retires the part or
alerts. -/
def execCorrectedError (part : Nat) (idx : Nat) (dev : Nat) (unit : Nat) (s : State) : Host.Outcome State Fault Refusal :=
  .next (correctedErrorOp part idx dev unit s)

/-- FRAME_RETIREMENT (R318): A retiring frame is copied as ciphertext into a FREE frame on the same die and remapped, waiting while no such frame is
FREE. -/
def execFrameRetirement (frame : Nat) (s : State) : Host.Outcome State Fault Refusal :=
  .next (frameRetirementOp frame s)

/-- MIGRATION_QUEUE_ENTRY (R303): A migration request takes a queue entry and is checked for acceptance against the state at that moment. -/
def execMigrationQueueEntry (s : State) : Host.Outcome State Fault Refusal :=
  .next (migrationQueueEntryOp s)

/-- MIGRATION_START (R304): A source tier takes its next request, by priority and then arrival, once its gate is open, and PRIO 0 pauses a running
request. -/
def execMigrationStart (tier : Nat) (s : State) : Host.Outcome State Fault Refusal :=
  .next (migrationStartOp tier s)

/-- HELD_WRITE_RELEASE (R300): A write held by a seal proceeds once the engine has read its unit. -/
def execHeldWriteRelease (frame : Nat) (unit : Nat) (s : State) : Host.Outcome State Fault Refusal :=
  .next (heldWriteReleaseOp frame unit s)

/-- SEAL_COMPLETE (R305): A seal completes, the extent becomes SEALED with its expiry set, HOLD clears, and the status goes to the requester. -/
def execSealComplete (ident : Nat) (ioError : Bool) (s : State) : Host.Outcome State Fault Refusal :=
  .next (sealCompleteOp ident ioError s)

/-- COPYUP_COMPLETE (R305): A copy-up completes when every unit is visible, and advances its DONE counter. -/
def execCopyupComplete (ident : Nat) (ioError : Bool) (s : State) : Host.Outcome State Fault Refusal :=
  .next (copyupCompleteOp ident ioError s)

/-- MOVE_COMPLETE (R301): A move completes, and the extent switches to its deep chunks once no copy reads its wide chunks. -/
def execMoveComplete (ident : Nat) (ioError : Bool) (s : State) : Host.Outcome State Fault Refusal :=
  .next (moveCompleteOp ident ioError s)

/-- RELOCATION_COMPLETE (R315): A chunk of a draining channel or port is relocated, and the channel or port becomes FENCED after the last chunk. -/
def execRelocationComplete (deep : Bool) (idx : Nat) (slot : Nat) (chunk : Nat) (s : State) : Host.Outcome State Fault Refusal :=
  .next (relocationCompleteOp deep idx slot chunk s)

/-- DDR_UNCORRECTED_ERROR (R315): An uncorrected DDR5 error, failed retraining or removed DIMM fences the channel at once, and its extents become
LOST. -/
def execDdrUncorrectedError (chan : Nat) (unit : Nat) (dev : Nat) (cause : Nat) (s : State) : Host.Outcome State Fault Refusal :=
  .next (ddrUncorrectedErrorOp chan unit dev cause s)

/-- DEEP_PORT_LINK_DOWN (R309): Link down or surprise removal on a deep port fences the port at once, and its extents become LOST. -/
def execDeepPortLinkDown (port : Nat) (s : State) : Host.Outcome State Fault Refusal :=
  .next (deepPortLinkDownOp port s)

/-- NVME_COMMAND_COMPLETE (R310): An NVMe command completes on a deep port, and an error fails its request. -/
def execNvmeCommandComplete (port : Nat) (ident : Nat) (ok : Bool) (s : State) : Host.Outcome State Fault Refusal :=
  .next (nvmeCommandCompleteOp port ident ok s)

/-- RETURN_TRAINING_COMPLETE (R316): A returned channel or port finishes training, or for a deep port the catalogue write, and enters ACTIVE or stays
FENCED. -/
def execReturnTrainingComplete (deep : Bool) (idx : Nat) (ok : Bool) (info : DimmInfo) (capB : Nat) (s : State) : Host.Outcome State Fault Refusal :=
  .next (returnTrainingCompleteOp deep idx ok info capB s)

/-- DQS_TRACKING (R307): Every 100 ms, DQS interval-oscillator tracking runs on each DDR5 channel. -/
def execDqsTracking (chan : Nat) (s : State) : Host.Outcome State Fault Refusal :=
  .next (dqsTrackingOp chan s)

/-- LZ2_PAGE_MISS (R314): An access to a page of the LZ2 view that is not resident waits while the least recently used page is evicted and the wanted
page is copied up. -/
def execLz2PageMiss (page : Nat) (s : State) : Host.Outcome State Fault Refusal :=
  .next (lz2PageMissOp page s)

/-- STAGING_RECORD_ENTRY (R327): A write of a record's header unit into the staging range counts the record under its DEST in the route-sort unit. -/
def execStagingRecordEntry (plan : Nat) (rec : Nat) (header : Word) (s : State) : Host.Outcome State Fault Refusal :=
  .next (stagingRecordEntryOp plan rec header s)

/-- EXCHANGE_PHASE_START (R335): Round 0 opens: the participants exchange counts and the route-sort unit scatters the staging range into the send
area. -/
def execExchangePhaseStart (plan : Nat) (rows : List CountRow) (scatterLate : Bool) (s : State) : Host.Outcome State Fault Refusal :=
  .next (exchangePhaseStartOp plan rows scatterLate s)

/-- DATA_STAGE (R339): At CLEN, the count rows are judged, and senders send the round's records over their slots and the transit channels. -/
def execDataStage (plan : Nat) (linksBad : List Nat) (localLate : Bool) (s : State) : Host.Outcome State Fault Refusal :=
  .next (dataStageOp plan linksBad localLate s)

/-- RECEIVE_RECORD (R343): A receive unit checks an arriving record's generation and writes it into the next free position of its destination's
windows. -/
def execReceiveRecord (plan : Nat) (rec : List Byte) (s : State) : Host.Outcome State Fault Refusal :=
  .next (receiveRecordOp plan rec s)

/-- FWD_SLOT (R339): A FWD slot passes each record that arrives on LINK out on OUTLINK. -/
def execFwdSlot (plan : Nat) (slot : Nat) (rec : List Byte) (s : State) : Host.Outcome State Fault Refusal :=
  .next (fwdSlotOp plan slot rec s)

/-- CLOSE_STAGE (R340): At CLEN + DLEN, statuses are exchanged, pad rows and null headers are written, and the round's outcome is set. -/
def execCloseStage (plan : Nat) (statuses : List (Nat × Nat)) (s : State) : Host.Outcome State Fault Refusal :=
  .next (closeStageOp plan statuses s)

/-- EXCHANGE_ROUND_OPEN (R341): A later round of a phase opens RSTRIDE ticks after the previous one, on its continuation EXCH. -/
def execExchangeRoundOpen (plan : Nat) (s : State) : Host.Outcome State Fault Refusal :=
  .next (exchangeRoundOpenOp plan s)

/-- STEWARD_HEARTBEAT (R380): The primary steward sends a heartbeat to the standby every 100 rc. -/
def execStewardHeartbeat (s : State) : Host.Outcome State Fault Refusal :=
  .next (stewardHeartbeatOp s)

/-- STEWARD_TAKEOVER (R381): After 8 missed heartbeats, or a fence of the primary, the standby abandons unmirrored steps, rereads the rings and
serves. -/
def execStewardTakeover (s : State) : Host.Outcome State Fault Refusal :=
  .next (stewardTakeoverOp s)

/-- STANDBY_RESYNC (R379): A returning standby steward is resynchronised, and STANDBY_READY is set. -/
def execStandbyResync (s : State) : Host.Outcome State Fault Refusal :=
  .next (standbyResyncOp s)

/-- STW_QIDX_WRITE (R382): A write of a SEQT index takes an atomic snapshot of that entry into STW_Q0-STW_Q7. -/
def execStwQidxWrite (half : Half) (val : Word) (s : State) : Host.Outcome State Fault Refusal :=
  .next (stwQidxWriteOp half val s)

/-- STW_GCFG_WRITE (R385): A write of a glove's serving limits takes effect at the next step build, and setting ENABLE resets the step number. -/
def execStwGcfgWrite (g : Nat) (half : Half) (val : Word) (s : State) : Host.Outcome State Fault Refusal :=
  .next (stwGcfgWriteOp g half val s)

/-- FAULT_HOLD_EXPIRY (R431): FLTHOLD ticks after a glove enters FAULTED, its glove reset begins. -/
def execFaultHoldExpiry (g : Nat) (s : State) : Host.Outcome State Fault Refusal :=
  .next (faultHoldExpiryOp g s)

/-- GLOVE_RESET_DONE (R432): Once every write that the glove issued has been accepted, the resetting glove enters LOADING. -/
def execGloveResetDone (g : Nat) (s : State) : Host.Outcome State Fault Refusal :=
  .next (gloveResetDoneOp g s)

/-- FLIT_RECEIVE (R464): A received flit is corrected, CRC-checked and accepted in SEQ order, or discarded with a NAK, and its LCTL credits are taken.
-/
def execFlitReceive (link : Nat) (f : Flit) (s : State) : Host.Outcome State Fault Refusal :=
  .next (flitReceiveOp link f s)

/-- REPLAY_TIMEOUT (R464): When no acknowledgement advances for 8 us, the transmitter resends every unacknowledged flit. -/
def execReplayTimeout (link : Nat) (s : State) : Host.Outcome State Fault Refusal :=
  .next (replayTimeoutOp link s)

/-- LINK_TRAINING_START (R465): A DOWN link begins training, at bring-up, by command, or 1 s after entering DOWN. -/
def execLinkTrainingStart (link : Nat) (s : State) : Host.Outcome State Fault Refusal :=
  .next (linkTrainingStartOp link s)

/-- LINK_TRAINING_COMPLETE (R465): Training ends in UP2, UP1 or DOWN, and the peer's node ID and link number are learned. -/
def execLinkTrainingComplete (link : Nat) (lanes : Nat) (peer : Nat) (peerLink : Nat) (delay : Nat) (s : State) : Host.Outcome State Fault Refusal :=
  .next (linkTrainingCompleteOp link lanes peer peerLink delay s)

/-- LANE_DROP (R466): A lane whose corrected symbols exceed LTHRESH in 1 ms, or that loses signal, is dropped, and the link runs on one lane. -/
def execLaneDrop (link : Nat) (lane : Nat) (s : State) : Host.Outcome State Fault Refusal :=
  .next (laneDropOp link lane s)

/-- LINK_SIGNAL_DETECT (R467): Signal energy of 1 us on an idle link wakes the module, on a service link, or starts training, on a fabric link. -/
def execLinkSignalDetect (link : Nat) (s : State) : Host.Outcome State Fault Refusal :=
  .next (linkSignalDetectOp link s)

/-- LNK_RETRAIN (R494): Writing 1 to LNK_CFG.RETRAIN puts an UP link into TRAINING. -/
def execLnkRetrain (link : Nat) (s : State) : Host.Outcome State Fault Refusal :=
  .next (lnkRetrainOp link s)

/-- LNK_ENABLE_WRITE (R494): Writing ENABLE 0 holds the link in DOWN with its transmitter idle, and writing 1 lets it train. -/
def execLnkEnableWrite (link : Nat) (val : Word) (s : State) : Host.Outcome State Fault Refusal :=
  .next (lnkEnableWriteOp link val s)

/-- PACKET_FORWARD (R473): A packet for another node leaves on a usable choice of its routing entry with HOP raised, or is discarded. -/
def execPacketForward (p : Packet) (s : State) : Host.Outcome State Fault Refusal :=
  .next (packetForwardOp p s)

/-- MGR_CFG_LOCK (R477): A write that sets MGR_CFG.LOCK locks RACK and REFWIRE, and the rack master starts assigning node IDs. -/
def execMgrCfgLock (half : Half) (val : Word) (s : State) : Host.Outcome State Fault Refusal :=
  .next (mgrCfgLockOp half val s)

/-- RACK_CONFLICT (R479): A rack master that learns of another with the same RACK yields or keeps its IDs by the time of LOCK and the device identity.
-/
def execRackConflict (otherLockTick : Word) (otherIdent : Word) (s : State) : Host.Outcome State Fault Refusal :=
  .next (rackConflictOp otherLockTick otherIdent s)

/-- RELAYED_COMMAND (R484): A worker receives a command relayed by its manager, ignores it at a lower epoch, and otherwise applies it as received. -/
def execRelayedCommand (op : Nat) (c : HostCmd) (s : State) : Host.Outcome State Fault Refusal :=
  .next (relayedCommandOp op c s)

/-- WORKER_REPORT (R486): The rack master receives a worker's periodic report, or an AOS report, and updates its worker table. -/
def execWorkerReport (pos : Nat) (r : Report) (s : State) : Host.Outcome State Fault Refusal :=
  .next (workerReportOp pos r s)

/-- WORKER_HEARTBEAT_MISS (R486): A worker that misses 8 heartbeats, loses every link to the rack, or reports FAULT becomes LOST. -/
def execWorkerHeartbeatMiss (pos : Nat) (linksLost : Bool) (reportedFault : Bool) (s : State) : Host.Outcome State Fault Refusal :=
  .next (workerHeartbeatMissOp pos linksLost reportedFault s)

/-- MANAGER_TAKEOVER (R488): After 8 missed heartbeats on both paths, or a fence of the master, the standby raises the epoch and takes over the
manager duties. -/
def execManagerTakeover (fenced : Bool) (s : State) : Host.Outcome State Fault Refusal :=
  .next (managerTakeoverOp fenced s)

/-- EPOCH_ANNOUNCE (R489): A module sees a higher epoch, and a former rack master stops its duties and becomes the yielded manager. -/
def execEpochAnnounce (epoch : Word) (s : State) : Host.Outcome State Fault Refusal :=
  .next (epochAnnounceOp epoch s)

/-- MANAGER_ROLE_DECISION (R567): Once its service links are trained, a manager-profile module becomes rack master, standby manager or worker, with a
10 ms search. -/
def execManagerRoleDecision (masterSeen : Bool) (standbySeen : Bool) (rivalIdent : Option Word) (s : State) : Host.Outcome State Fault Refusal :=
  .next (managerRoleDecisionOp masterSeen standbySeen rivalIdent s)

/-- PERST_N_ASSERT (R502): PERST_N resets every function of HE, disables its rings and vectors, and discards pending completions. -/
def execPerstNAssert (s : State) : Host.Outcome State Fault Refusal :=
  .next (perstNAssertOp s)

/-- PERST_N_RELEASE (R502): HE trains and begins accepting configuration requests. -/
def execPerstNRelease (s : State) : Host.Outcome State Fault Refusal :=
  .next (perstNReleaseOp s)

/-- PF_FLR (R502): A Function Level Reset of the PF resets it as PERST_N does and clears VF Enable. -/
def execPfFlr (s : State) : Host.Outcome State Fault Refusal :=
  .next (pfFlrOp s)

/-- VF_FLR (R502): A Function Level Reset of a VF resets its rings, window and vectors, and resets its glove. -/
def execVfFlr (vf : Nat) (s : State) : Host.Outcome State Fault Refusal :=
  .next (vfFlrOp vf s)

/-- D3HOT_ENTRY (R502): In D3hot the BARs are not decoded, and completions wait in the backlog. -/
def execD3hotEntry (func : Nat) (s : State) : Host.Outcome State Fault Refusal :=
  .next (d3hotEntryOp func s)

/-- HOST_WINDOW_READ (R503): A BAR2 read is split into 64 B units, checked by its space's rules, and completed or aborted. -/
def execHostWindowRead (func : Nat) (ofs : Nat) (len : Nat) (upset : List Nat) (s : State) : Host.Outcome State Fault Refusal :=
  .next (hostWindowReadOp func ofs len upset s)

/-- HOST_WINDOW_WRITE (R503): A BAR2 write is split into 64 B units and applied as a near-tier merge or a remote write. -/
def execHostWindowWrite (func : Nat) (ofs : Nat) (data : List Byte) (mask : List Bool) (s : State) : Host.Outcome State Fault Refusal :=
  .next (hostWindowWriteOp func ofs data mask s)

/-- COMMAND_SLOT_RECEIVE (R506): A write that leaves W7 of the next slot equal to RCV + 1 receives that command, and RCV advances. -/
def execCommandSlotReceive (func : Nat) (ring : Nat) (slot : Nat) (word : Nat) (val : Word) (s : State) : Host.Outcome State Fault Refusal :=
  .next (commandSlotReceiveOp func ring slot word val s)

/-- COMMAND_RING_ENABLE (R508): Setting ENABLE of a command ring sets RCV to 0 and zeroes W7 of every slot in use. -/
def execCommandRingEnable (ring : Nat) (half : Half) (val : Word) (s : State) : Host.Outcome State Fault Refusal :=
  .next (commandRingEnableOp ring half val s)

/-- COMPLETION_RING_ENABLE (R523): Setting ENABLE of a completion ring sets TAIL to 0 and PH to 1. -/
def execCompletionRingEnable (cq : Nat) (half : Half) (val : Word) (s : State) : Host.Outcome State Fault Refusal :=
  .next (completionRingEnableOp cq half val s)

/-- CQ_HEAD_WRITE (R512): A host write of HIF_CQ_HEAD frees entries, and the backlog drains into the ring. -/
def execCqHeadWrite (func : Nat) (cq : Nat) (val : Word) (s : State) : Host.Outcome State Fault Refusal :=
  .next (cqHeadWriteOp func cq val s)

/-- MSIX_MODERATION_TIMER (R513): At the MODT-th tick boundary after the first unsignalled entry, the ring's vector fires. -/
def execMsixModerationTimer (cq : Nat) (s : State) : Host.Outcome State Fault Refusal :=
  .next (msixModerationTimerOp cq s)

/-- IDENTIFY (R515): Returns the capability word and GLB_ID. -/
def execIdentify (c : HostCmd) (s : State) : Host.Outcome State Fault Refusal :=
  .next (identifyOp c s)

/-- SET_PROFILE (R568): Schedules a profile change at a tick or at the next reset, after checks. -/
def execSetProfile (c : HostCmd) (s : State) : Host.Outcome State Fault Refusal :=
  .next (setProfileOp c s)

/-- SET_TICK_PERIOD (R41): The crown accepts a change of N at a named tick and sends it on the tick VC. -/
def execSetTickPeriod (c : HostCmd) (s : State) : Host.Outcome State Fault Refusal :=
  .next (setTickPeriodOp c s)

/-- SET_RUNG (R448): Schedules a change of rung, now or at a named time. -/
def execSetRung (c : HostCmd) (s : State) : Host.Outcome State Fault Refusal :=
  .next (setRungOp c s)

/-- SET_ROUTE (R472): Writes a routing-table entry after its checks. -/
def execSetRoute (c : HostCmd) (s : State) : Host.Outcome State Fault Refusal :=
  .next (setRouteOp c s)

/-- STEWARD_SWAP (R380): Requests a planned swap of the stewards at the next commit of every serving glove. -/
def execStewardSwap (c : HostCmd) (s : State) : Host.Outcome State Fault Refusal :=
  .next (stewardSwapOp c s)

/-- SERVICE_OP_FENCE (R590): Fences a die, palm, stack, DDR channel, deep port or link. -/
def execServiceOpFence (c : HostCmd) (s : State) : Host.Outcome State Fault Refusal :=
  .next (serviceOpFenceOp c s)

/-- SERVICE_OP_UNFENCE (R590): Ends cause 4 on a die or palm, or unfences a link. -/
def execServiceOpUnfence (c : HostCmd) (s : State) : Host.Outcome State Fault Refusal :=
  .next (serviceOpUnfenceOp c s)

/-- SERVICE_OP_RETIRE (R590): Retires a stack, DDR channel, deep port or frame. -/
def execServiceOpRetire (c : HostCmd) (s : State) : Host.Outcome State Fault Refusal :=
  .next (serviceOpRetireOp c s)

/-- SERVICE_OP_FORM_CHAIN (R590): Forms a repair chain for a named cell. -/
def execServiceOpFormChain (c : HostCmd) (s : State) : Host.Outcome State Fault Refusal :=
  .next (serviceOpFormChainOp c s)

/-- SERVICE_OP_RETURN (R316): Returns a FENCED DDR channel or deep port to ACTIVE after retraining. -/
def execServiceOpReturn (c : HostCmd) (info : Option DimmInfo) (s : State) : Host.Outcome State Fault Refusal :=
  .next (serviceOpReturnOp c info s)

/-- KEY_OP_INSTALL (R537): Unwraps an owner key under the attestation KEK and installs it in a slot. -/
def execKeyOpInstall (c : HostCmd) (s : State) : Host.Outcome State Fault Refusal :=
  .next (keyOpInstallOp c s)

/-- KEY_OP_ERASE (R539): Erases a key slot and releases everything under it. -/
def execKeyOpErase (c : HostCmd) (s : State) : Host.Outcome State Fault Refusal :=
  .next (keyOpEraseOp c s)

/-- IMAGE_OP_STAGE (R531): Verifies a firmware image and writes it into the STAGED bank. -/
def execImageOpStage (c : HostCmd) (s : State) : Host.Outcome State Fault Refusal :=
  .next (imageOpStageOp c s)

/-- IMAGE_OP_ACTIVATE (R594): Schedules the activation of a stage's staged image. -/
def execImageOpActivate (c : HostCmd) (s : State) : Host.Outcome State Fault Refusal :=
  .next (imageOpActivateOp c s)

/-- IMAGE_OP_WRITE_OTP (R597): Burns a new OTP generation into the lowest unused area. -/
def execImageOpWriteOtp (c : HostCmd) (s : State) : Host.Outcome State Fault Refusal :=
  .next (imageOpWriteOtpOp c s)

/-- GLOVE_CREATE (R426): Creates a glove from free palms with a key slot, a virtual function and a ledger account. -/
def execGloveCreate (c : HostCmd) (s : State) : Host.Outcome State Fault Refusal :=
  .next (gloveCreateOp c s)

/-- GLOVE_DESTROY (R429): Destroys a glove, releasing its plans, palms, sequencer, virtual function and frames. -/
def execGloveDestroy (c : HostCmd) (s : State) : Host.Outcome State Fault Refusal :=
  .next (gloveDestroyOp c s)

/-- GLOVE_RESET (R432): Starts a glove reset. -/
def execGloveReset (c : HostCmd) (s : State) : Host.Outcome State Fault Refusal :=
  .next (gloveResetOp c s)

/-- FRAME_ALLOC (R515): Allocates the lowest run of FREE frames on a die or stack to a glove as PRIVATE. -/
def execFrameAlloc (c : HostCmd) (s : State) : Host.Outcome State Fault Refusal :=
  .next (frameAllocOp c s)

/-- FRAME_SHARE (R515): Makes frames SHARED with a READERS set. -/
def execFrameShare (c : HostCmd) (s : State) : Host.Outcome State Fault Refusal :=
  .next (frameShareOp c s)

/-- FRAME_FREE (R515): Frees a range of a glove's frames, all or none. -/
def execFrameFree (c : HostCmd) (s : State) : Host.Outcome State Fault Refusal :=
  .next (frameFreeOp c s)

/-- GSQ_WRITE (R210): Writes and checks sequencer instructions into the program store, and marks them written. -/
def execGsqWrite (c : HostCmd) (s : State) : Host.Outcome State Fault Refusal :=
  .next (gsqWriteOp c s)

/-- GSQ_START (R208): Starts a sequencer at address 0 with G1 set. -/
def execGsqStart (c : HostCmd) (s : State) : Host.Outcome State Fault Refusal :=
  .next (gsqStartOp c s)

/-- GSQ_STOP (R515): Halts a sequencer at its next instruction boundary and discards an armed switch. -/
def execGsqStop (c : HostCmd) (s : State) : Host.Outcome State Fault Refusal :=
  .next (gsqStopOp c s)

/-- PLAN_INSTALL (R333): Checks an exchange plan and installs it in system frames. -/
def execPlanInstall (c : HostCmd) (s : State) : Host.Outcome State Fault Refusal :=
  .next (planInstallOp c s)

/-- PLAN_REMOVE (R333): Removes an exchange plan that is not running. -/
def execPlanRemove (c : HostCmd) (s : State) : Host.Outcome State Fault Refusal :=
  .next (planRemoveOp c s)

/-- LZ2_ENABLE (R312): Gives the LZ2 unified view to a glove with its frames and VSIZE. -/
def execLz2Enable (c : HostCmd) (s : State) : Host.Outcome State Fault Refusal :=
  .next (lz2EnableOp c s)

/-- LZ2_DISABLE (R515): Withdraws the LZ2 unified view from a glove. -/
def execLz2Disable (c : HostCmd) (s : State) : Host.Outcome State Fault Refusal :=
  .next (lz2DisableOp c s)

/-- MIGRATE (R303): Submits a SEAL, COPYUP, MOVE or FREE request to the migration engine. -/
def execMigrate (c : HostCmd) (s : State) : Host.Outcome State Fault Refusal :=
  .next (migrateOp c s)

/-- MODEL_REGISTER (R412): Copies a model record into system frames. -/
def execModelRegister (c : HostCmd) (s : State) : Host.Outcome State Fault Refusal :=
  .next (modelRegisterOp c s)

/-- MODEL_SWITCHIN (R415): Starts fetching a model's extents from peers or tiers into the near tier. -/
def execModelSwitchin (c : HostCmd) (s : State) : Host.Outcome State Fault Refusal :=
  .next (modelSwitchinOp c s)

/-- MODEL_PARK (R413): Frees a model's resident frames and keeps its extents. -/
def execModelPark (c : HostCmd) (s : State) : Host.Outcome State Fault Refusal :=
  .next (modelParkOp c s)

/-- MODEL_REPLACE (R417): Starts a replacement of a model's weights, in place or by a second copy. -/
def execModelReplace (c : HostCmd) (s : State) : Host.Outcome State Fault Refusal :=
  .next (modelReplaceOp c s)

/-- ADAPTER_LOAD (R414): Loads or replaces an adapter in a slot. -/
def execAdapterLoad (c : HostCmd) (s : State) : Host.Outcome State Fault Refusal :=
  .next (adapterLoadOp c s)

/-- ADAPTER_UNLOAD (R414): Unloads an adapter slot with no references. -/
def execAdapterUnload (c : HostCmd) (s : State) : Host.Outcome State Fault Refusal :=
  .next (adapterUnloadOp c s)

/-- MARK_PUBLIC (R404): Copies an owner's prefix path into the public tree under PUBKEY. -/
def execMarkPublic (c : HostCmd) (s : State) : Host.Outcome State Fault Refusal :=
  .next (markPublicOp c s)

/-- ADMIT (R357): Admits a sequence into the SEQT and the glove's admission queue. -/
def execAdmitSeq (c : HostCmd) (s : State) : Host.Outcome State Fault Refusal :=
  .next (admitSeqOp c s)

/-- ROUTE_ADMIT (R485): The rack master routes an admission by the owner tag to the first candidate with room. -/
def execRouteAdmit (c : HostCmd) (s : State) : Host.Outcome State Fault Refusal :=
  .next (routeAdmitOp c s)

/-- APPEND (R360): Appends a new turn to a COMPLETE sequence. -/
def execAppend (c : HostCmd) (s : State) : Host.Outcome State Fault Refusal :=
  .next (appendOp c s)

/-- CANCEL (R360): Cancels a sequence, at once or held to the step boundary. -/
def execCancel (c : HostCmd) (s : State) : Host.Outcome State Fault Refusal :=
  .next (cancelOp c s)

/-- PAUSE (R360): Pauses a sequence into PAUSED_NEAR, at once or held to the step boundary. -/
def execPause (c : HostCmd) (s : State) : Host.Outcome State Fault Refusal :=
  .next (pauseOp c s)

/-- RESUME (R410): Resumes a paused sequence, copying its cache up from a lower tier where needed. -/
def execResume (c : HostCmd) (s : State) : Host.Outcome State Fault Refusal :=
  .next (resumeOp c s)

/-- RELEASE (R360): Frees a finished sequence's entry, pages and extents. -/
def execRelease (c : HostCmd) (s : State) : Host.Outcome State Fault Refusal :=
  .next (releaseOp c s)

/-- SET_ENDPOINT_ID (R519): MCTP control command setting the endpoint ID. -/
def execSetEndpointId (eid : Byte) (s : State) : Host.Outcome State Fault Refusal :=
  .next (setEndpointIdOp eid s)

/-- GET_ENDPOINT_ID (R519): MCTP control command returning the endpoint ID. -/
def execGetEndpointId (s : State) : Host.Outcome State Fault Refusal :=
  .next (getEndpointIdOp s)

/-- GET_MCTP_VERSION_SUPPORT (R519): MCTP control command returning the supported versions. -/
def execGetMctpVersionSupport (type : Byte) (s : State) : Host.Outcome State Fault Refusal :=
  .next (getMctpVersionSupportOp type s)

/-- GET_MESSAGE_TYPE_SUPPORT (R519): MCTP control command returning the supported message types. -/
def execGetMessageTypeSupport (s : State) : Host.Outcome State Fault Refusal :=
  .next (getMessageTypeSupportOp s)

/-- GET_VENDOR_DEFINED_MESSAGE_SUPPORT (R519): MCTP control command returning vendor-defined support. -/
def execGetVendorDefinedMessageSupport (sel : Byte) (s : State) : Host.Outcome State Fault Refusal :=
  .next (getVendorDefinedMessageSupportOp sel s)

/-- GET_RECORD (R520): Returns a telemetry record. -/
def execGetRecord (ident : Byte) (s : State) : Host.Outcome State Fault Refusal :=
  .next (getRecordOp ident s)

/-- GET_ALERTS (R519): Returns HIF_ALERT and clears the returned flags under the flag rule. -/
def execGetAlerts (events : Word) (s : State) : Host.Outcome State Fault Refusal :=
  .next (getAlertsOp events s)

/-- SET_ALERT_MASK (R519): Sets the alert mask. -/
def execSetAlertMask (mask : Word) (s : State) : Host.Outcome State Fault Refusal :=
  .next (setAlertMaskOp mask s)

/-- AOS_READ (R599): Returns the reset cause, capability, fault state and counters, and the newest log entry. -/
def execAosRead (s : State) : Host.Outcome State Fault Refusal :=
  .next (aosReadOp s)

/-- TRIP (R600): Takes a thermal trip on request. -/
def execTrip (smbus : Bool) (s : State) : Host.Outcome State Fault Refusal :=
  .next (tripOp smbus s)

/-- FENCE (R599): The AOS fences a die, glove, link, steward or manager duties. -/
def execFence (smbus : Bool) (kind : Byte) (idx : BitVec 16) (s : State) : Host.Outcome State Fault Refusal :=
  .next (fenceOp smbus kind idx s)

/-- ERASE (R599): The AOS last-resort erase of a key slot. -/
def execErase (smbus : Bool) (slot : Byte) (s : State) : Host.Outcome State Fault Refusal :=
  .next (eraseOp smbus slot s)

/-- RESET (R599): The AOS requests a warm or cold reset with cause 8. -/
def execReset (smbus : Bool) (cold : Byte) (s : State) : Host.Outcome State Fault Refusal :=
  .next (resetOp smbus cold s)

/-- AOS_REPORT (R602): Sends a fault report to the rack master over a service link. -/
def execAosReport (s : State) : Host.Outcome State Fault Refusal :=
  .next (aosReportOp s)

/-- RECORD_REFRESH (R520): Every 1 ms the telemetry records are refreshed. -/
def execRecordRefresh (s : State) : Host.Outcome State Fault Refusal :=
  .next (recordRefreshOp s)

/-- SEC_ACTL_GO (R534): Writing GO requests an attestation report, with a fresh X448 key when APUB is nonzero. -/
def execSecActlGo (half : Half) (val : Word) (m : BitVec 448) (s : State) : Host.Outcome State Fault Refusal :=
  .next (secActlGoOp half val m s)

/-- ATTESTATION_REPORT_READY (R535): The signed attestation report becomes readable, and AREADY is set. -/
def execAttestationReportReady (s : State) : Host.Outcome State Fault Refusal :=
  .next (attestationReportReadyOp s)

/-- TRNG_HEALTH_FAILURE (R546): A health-test failure of the random source clears TRNG_OK. -/
def execTrngHealthFailure (s : State) : Host.Outcome State Fault Refusal :=
  .next (trngHealthFailureOp s)

/-- TRNG_RECOVER (R546): After 1,024 consecutive passing windows, the source reseeds and sets TRNG_OK. -/
def execTrngRecover (s : State) : Host.Outcome State Fault Refusal :=
  .next (trngRecoverOp s)

/-- POWER_ON (R550): VAON rises through power-good, and a cold reset is accepted. -/
def execPowerOn (s : State) : Host.Outcome State Fault Refusal :=
  .next (powerOnOp s)

/-- EXT (R552): RESET_N is held low from outside for 10 us, and a cold reset is accepted. -/
def execExt (lowRc : Nat) (s : State) : Host.Outcome State Fault Refusal :=
  .next (extOp lowRc s)

/-- RAIL (R615): A rail stays outside +-10 % of its target for 2 us, and a cold reset is accepted. -/
def execRail (idx : Nat) (s : State) : Host.Outcome State Fault Refusal :=
  .next (railOp idx s)

/-- THERMTRIP (R600): A thermal trip ends once every sensor reads 90 C or less, and a cold reset is accepted. -/
def execThermtrip (s : State) : Host.Outcome State Fault Refusal :=
  .next (thermtripOp s)

/-- THERMAL_TRIP (R600): A sensor at 115 C or above drives THERMTRIP_N and RESET_N low, stops the PLLs and asserts reset. -/
def execThermalTrip (s : State) : Host.Outcome State Fault Refusal :=
  .next (thermalTripOp s)

/-- REFCLK_LOSS (R563): REFCLK is judged absent, memories enter self-refresh, and a warm reset follows. -/
def execRefclkLoss (s : State) : Host.Outcome State Fault Refusal :=
  .next (refclkLossOp s)

/-- REFCLK_WINDOW (R563): At the end of each presence-detector window, REFCLK is judged present or absent. -/
def execRefclkWindow (count : Nat) (s : State) : Host.Outcome State Fault Refusal :=
  .next (refclkWindowOp count s)

/-- PLL_WINDOW (R562): At the end of each 4,096 rc window, a derived clock is judged, and a failure relocks, fences or resets. -/
def execPllWindow (p : PllPart) (ok : Bool) (s : State) : Host.Outcome State Fault Refusal :=
  .next (pllWindowOp p ok s)

/-- WATCHDOG (R550): The AOS firmware has not restarted the watchdog for 100 ms, and a warm reset is accepted. -/
def execWatchdog (s : State) : Host.Outcome State Fault Refusal :=
  .next (watchdogOp s)

/-- AOS_RSTREQ_WRITE (R580): A write with CONFIRM 0xA5 requests a warm or cold reset. -/
def execAosRstreqWrite (half : Half) (val : Word) (s : State) : Host.Outcome State Fault Refusal :=
  .next (aosRstreqWriteOp half val s)

/-- VAON_LOSS (R574): VAON is lost, and the module enters OFF. -/
def execVaonLoss (s : State) : Host.Outcome State Fault Refusal :=
  .next (vaonLossOp s)

/-- RESET_STRETCH_END (R552): 1 ms after the latest cause, with REFCLK present and no cause persisting, RESET_N is released. -/
def execResetStretchEnd (s : State) : Host.Outcome State Fault Refusal :=
  .next (resetStretchEndOp s)

/-- RESET_N_SAMPLE (R553): 5 us after its release, RESET_N is sampled, and the module enters BRINGUP or accepts EXT. -/
def execResetNSample (high : Bool) (s : State) : Host.Outcome State Fault Refusal :=
  .next (resetNSampleOp high s)

/-- OTP_GENERATION_SELECT (R558): The AOS ROM chooses the newest valid OTP generation and applies its trims, repair map and profiles. -/
def execOtpGenerationSelect (s : State) : Host.Outcome State Fault Refusal :=
  .next (otpGenerationSelectOp s)

/-- AOS_BRINGUP_TAKEOVER (R571): IOD1's AOS takes over bring-up when IOD0's has not reached stage 3 in time. -/
def execAosBringupTakeover (s : State) : Host.Outcome State Fault Refusal :=
  .next (aosBringupTakeoverOp s)

/-- AOS_FIRMWARE_START (R571): The profile is taken, and the AOS firmware is verified and started. -/
def execAosFirmwareStart (s : State) : Host.Outcome State Fault Refusal :=
  .next (aosFirmwareStartOp s)

/-- RAIL_CHECK (R617): Stage 4 checks the rails in order and locks and judges every PLL. -/
def execRailCheck (ok : Bool) (s : State) : Host.Outcome State Fault Refusal :=
  .next (railCheckOp ok s)

/-- CONTROL_FIRMWARE_START (R571): Control-core firmware and steward microcode start, training begins, and die self-test starts. -/
def execControlFirmwareStart (s : State) : Host.Outcome State Fault Refusal :=
  .next (controlFirmwareStartOp s)

/-- SELF_TEST_COMPLETE (R572): A compute die completes self-test, its chains are formed, and stack training begins. -/
def execSelfTestComplete (die : Nat) (t : SelfTest) (s : State) : Host.Outcome State Fault Refusal :=
  .next (selfTestCompleteOp die t s)

/-- STACK_TRAINING_ATTEMPT (R572): An attempt to train a stack ends, and a third failure retires the stack. -/
def execStackTrainingAttempt (stack : Nat) (ok : Bool) (s : State) : Host.Outcome State Fault Refusal :=
  .next (stackTrainingAttemptOp stack ok s)

/-- WIDE_TIER_TRAINED (R571): Every populated DDR5 channel is ACTIVE, FENCED or left untrained. -/
def execWideTierTrained (dimms : List DimmInfo) (s : State) : Host.Outcome State Fault Refusal :=
  .next (wideTierTrainedOp dimms s)

/-- DIE_RELEASE (R572): A die whose self-test, stacks and wide tier are ready is released, and the module state advances. -/
def execDieRelease (die : Nat) (s : State) : Host.Outcome State Fault Refusal :=
  .next (dieReleaseOp die s)

/-- PROFILE_CHANGE (R569): At (tick, 0) a pending profile takes effect on the envelope, clock limit, links, registers, role and pool. -/
def execProfileChange (s : State) : Host.Outcome State Fault Refusal :=
  .next (profileChangeOp s)

/-- RAS_DRAIN_WRITE (R592): Writing RAS_CTL.DRAIN moves the module into or out of DRAINING. -/
def execRasDrainWrite (half : Half) (val : Word) (s : State) : Host.Outcome State Fault Refusal :=
  .next (rasDrainWriteOp half val s)

/-- PART_READY_REPORT (R596): A restarted part reports ready, and when the whole stage is ready the firmware banks rotate and the rollback counter is
burned. -/
def execPartReadyReport (part : Nat) (s : State) : Host.Outcome State Fault Refusal :=
  .next (partReadyReportOp part s)

/-- ACTIVATION_READY_TIMEOUT (R596): A part not ready within 1 s fails the activation, and the restarted parts return to CURRENT. -/
def execActivationReadyTimeout (part : Nat) (s : State) : Host.Outcome State Fault Refusal :=
  .next (activationReadyTimeoutOp part s)

/-- OTP_BURN_COMPLETE (R597): An OTP burn completes and verifies, and the new profile records are loaded. -/
def execOtpBurnComplete (ok : Bool) (s : State) : Host.Outcome State Fault Refusal :=
  .next (otpBurnCompleteOp ok s)

/-- AOS_STEWARD_WATCH_LAPSE (R601): A 1 ms lapse of the serving steward's heartbeat makes the AOS fence it, with takeover. -/
def execAosStewardWatchLapse (s : State) : Host.Outcome State Fault Refusal :=
  .next (aosStewardWatchLapseOp s)

/-- AOS_MANAGER_WATCH_LAPSE (R601): A 1 ms lapse of the rack master's firmware heartbeat makes the AOS fence its manager duties. -/
def execAosManagerWatchLapse (s : State) : Host.Outcome State Fault Refusal :=
  .next (aosManagerWatchLapseOp s)

/-- PATTERN_CYCLE (R78): At each array cycle of a running pattern, every switch routes words and tokens by its route entry and steering units, and
words reach input queues and guards. -/
def execPatternCycle (g : Nat) (s : State) : Host.Outcome State Fault Refusal :=
  .next (patternCycleOp g s)

/-- FLIT_TRANSMIT (R469): At each flit time a link transmitter picks the first VC with a flit and credit, or an LCTL or IDLE flit, and sends it. -/
def execFlitTransmit (link : Nat) (s : State) : Host.Outcome State Fault Refusal :=
  .next (flitTransmitOp link s)

/-- MODULE_HEARTBEAT (R486): Every 1,000 rc each module with an ID sends its heartbeat to the rack master, which restarts its count of missed
heartbeats. -/
def execModuleHeartbeat (pos : Nat) (s : State) : Host.Outcome State Fault Refusal :=
  .next (moduleHeartbeatOp pos s)

/-- MANAGER_HEARTBEAT (R488): Every 100 rc the rack master sends a heartbeat to the standby over the service path and the fabric control VC. -/
def execManagerHeartbeat (s : State) : Host.Outcome State Fault Refusal :=
  .next (managerHeartbeatOp s)

/-- RELAYED_COMPLETION (R484): A manager receives the completion of a relayed command from a worker and delivers it to its host, or continues the
routing of R485. -/
def execRelayedCompletion (c : RelayedCpl) (s : State) : Host.Outcome State Fault Refusal :=
  .next (relayedCompletionOp c s)

/-- MANAGER_RESYNC (R489): A yielded or new standby manager finishes resynchronising its mirror, sets STANDBY_READY and serves as standby. -/
def execManagerResync (s : State) : Host.Outcome State Fault Refusal :=
  .next (managerResyncOp s)

/-- D3HOT_EXIT (R502): HE returns from D3hot to D0, decodes its BARs again and drains the completion backlog into the rings. -/
def execD3hotExit (func : Nat) (s : State) : Host.Outcome State Fault Refusal :=
  .next (d3hotExitOp func s)

/-- DEEP_PORT_NVME_READY (R571): A deep port trains at bring-up and its NVMe controller reports ready, its queues are created, and the port joins the
deep tier. -/
def execDeepPortNvmeReady (port : Nat) (fmtOk : Bool) (gen : Nat) (width : Nat) (capB : Nat) (s : State) : Host.Outcome State Fault Refusal :=
  .next (deepPortNvmeReadyOp port fmtOk gen width capB s)

/-- STACK_CONTROLLER_FAILURE (R317): A failure of a near-tier controller, or of its stack's training, in service retires the stack. -/
def execStackControllerFailure (stack : Nat) (s : State) : Host.Outcome State Fault Refusal :=
  .next (stackControllerFailureOp stack s)

/-- DIE_TO_DIE_PORT_FAILURE (R591): A failure of a die's mesh or of a die-to-die port fully fences the die and any I/O die whose port lies on it. -/
def execDieToDiePortFailure (die : Nat) (iod : Option Nat) (s : State) : Host.Outcome State Fault Refusal :=
  .next (dieToDiePortFailureOp die iod s)

/-- WAIT_TICK_REACHED (R212): The reference cycle named by a WAIT TICK begins, and the waiting sequencer completes the wait with OK and continues. -/
def execWaitTickReached (q : Nat) (s : State) : Host.Outcome State Fault Refusal :=
  .next (waitTickReachedOp q s)

/-- SMBUS_ADDRESS_RESOLUTION (R518): An SMBus Address Resolution Protocol exchange reassigns the module's SMBus target address. -/
def execSmbusAddressResolution (addr : BitVec 7) (s : State) : Host.Outcome State Fault Refusal :=
  .next (smbusAddressResolutionOp addr s)

/-- PERIOD_CHANGE_RECEIVE (R41): A module receives an accepted tick-period change on the tick virtual channel and records it as pending for its named
tick. -/
def execPeriodChangeReceive (n : Nat) (tick : Word) (s : State) : Host.Outcome State Fault Refusal :=
  .next (periodChangeReceiveOp n tick s)

end Sys2Proof.Machine
end

