-- ==== Sys2Proof/Machine/Dispatch.lean ====
section
/-! DEFINITION. exec: one arm for each constructor of Instr, each one direct call of that command's meaning. -/

namespace Sys2Proof.Machine

def exec (i : Instr) (s : State) : Host.Outcome State Fault Refusal :=
  match i with
  | .registerWrite func addr half val => Sys2Proof.Machine.execRegisterWrite func addr half val s
  | .w1cWrite addr half val events => Sys2Proof.Machine.execW1cWrite addr half val events s
  | .tkeTickRead half => Sys2Proof.Machine.execTkeTickRead half s
  | .tickAdvance => Sys2Proof.Machine.execTickAdvance s
  | .periodChange => Sys2Proof.Machine.execPeriodChange s
  | .alignmentLoad tick phase n pend source => Sys2Proof.Machine.execAlignmentLoad tick phase n pend source s
  | .counterHoldEnd => Sys2Proof.Machine.execCounterHoldEnd s
  | .beaconSend sub => Sys2Proof.Machine.execBeaconSend sub s
  | .beaconReceive b way freqPpb => Sys2Proof.Machine.execBeaconReceive b way freqPpb s
  | .beaconCheck node seen => Sys2Proof.Machine.execBeaconCheck node seen s
  | .parentLost candidates => Sys2Proof.Machine.execParentLost candidates s
  | .holdoverLimitExpiry reach => Sys2Proof.Machine.execHoldoverLimitExpiry reach s
  | .crownMeet other => Sys2Proof.Machine.execCrownMeet other s
  | .tickStepOrHold => Sys2Proof.Machine.execTickStepOrHold s
  | .ledgerPeriod m => Sys2Proof.Machine.execLedgerPeriod m s
  | .grantReceived tick mj epoch => Sys2Proof.Machine.execGrantReceived tick mj epoch s
  | .grantComputation => Sys2Proof.Machine.execGrantComputation s
  | .demandReceived node tick mj envJ => Sys2Proof.Machine.execDemandReceived node tick mj envJ s
  | .rungChange => Sys2Proof.Machine.execRungChange s
  | .rungEntryComplete => Sys2Proof.Machine.execRungEntryComplete s
  | .rungEntryAbandon => Sys2Proof.Machine.execRungEntryAbandon s
  | .wakeEvent src => Sys2Proof.Machine.execWakeEvent src s
  | .stepCommit g => Sys2Proof.Machine.execStepCommit g s
  | .stepDone g => Sys2Proof.Machine.execStepDone g s
  | .stepAbort g => Sys2Proof.Machine.execStepAbort g s
  | .samplerFinish g => Sys2Proof.Machine.execSamplerFinish g s
  | .autoResume seq => Sys2Proof.Machine.execAutoResume seq s
  | .ttlExpiry seq => Sys2Proof.Machine.execTtlExpiry seq s
  | .extentTtlExpiry slot => Sys2Proof.Machine.execExtentTtlExpiry slot s
  | .cacheSealComplete seq => Sys2Proof.Machine.execCacheSealComplete seq s
  | .sealRetry seq => Sys2Proof.Machine.execSealRetry seq s
  | .resumePageRetry seq => Sys2Proof.Machine.execResumePageRetry seq s
  | .resumeCopyComplete seq => Sys2Proof.Machine.execResumeCopyComplete seq s
  | .cuffRelease model => Sys2Proof.Machine.execCuffRelease model s
  | .switchinExtentComplete model extent => Sys2Proof.Machine.execSwitchinExtentComplete model extent s
  | .peerLost model extent peer => Sys2Proof.Machine.execPeerLost model extent peer s
  | .fetchRequest f => Sys2Proof.Machine.execFetchRequest f s
  | .fetchUnitReceive model extent unit data => Sys2Proof.Machine.execFetchUnitReceive model extent unit data s
  | .scheduleFault f => Sys2Proof.Machine.execScheduleFault f s
  | .cellException f => Sys2Proof.Machine.execCellException f s
  | .portFreeze g p => Sys2Proof.Machine.execPortFreeze g p s
  | .freezeRelease g p => Sys2Proof.Machine.execFreezeRelease g p s
  | .patternResume g => Sys2Proof.Machine.execPatternResume g s
  | .crossingMarginLoss die at_ => Sys2Proof.Machine.execCrossingMarginLoss die at_ s
  | .crossingRetrainComplete die edge => Sys2Proof.Machine.execCrossingRetrainComplete die edge s
  | .cellFailure die row kind col => Sys2Proof.Machine.execCellFailure die row kind col s
  | .chainForm die row kind => Sys2Proof.Machine.execChainForm die row kind s
  | .patternSwitch g vcore => Sys2Proof.Machine.execPatternSwitch g vcore s
  | .patternDone g vcore => Sys2Proof.Machine.execPatternDone g vcore s
  | .clockStepChange die step => Sys2Proof.Machine.execClockStepChange die step s
  | .thermalSample temps => Sys2Proof.Machine.execThermalSample temps s
  | .rerunnableDetection d cycle => Sys2Proof.Machine.execRerunnableDetection d cycle s
  | .loadComplete g => Sys2Proof.Machine.execLoadComplete g s
  | .armedSwitch g => Sys2Proof.Machine.execArmedSwitch g s
  | .waitTimeout q => Sys2Proof.Machine.execWaitTimeout q s
  | .workCounterClaim die m n who a wide => Sys2Proof.Machine.execWorkCounterClaim die m n who a wide s
  | .wkcWrite die m n limit half val => Sys2Proof.Machine.execWkcWrite die m n limit half val s
  | .ctNop site => Sys2Proof.Machine.execCtNop site s
  | .epx site => Sys2Proof.Machine.execEpx site s
  | .eps site x => Sys2Proof.Machine.execEps site x s
  | .fset site x => Sys2Proof.Machine.execFset site x s
  | .fany site x => Sys2Proof.Machine.execFany site x s
  | .fall site x => Sys2Proof.Machine.execFall site x s
  | .trap site x => Sys2Proof.Machine.execTrap site x s
  | .mvNop site => Sys2Proof.Machine.execMvNop site s
  | .fil site port areg d nl => Sys2Proof.Machine.execFil site port areg d nl s
  | .vld site port vd single q => Sys2Proof.Machine.execVld site port vd single q s
  | .vst site port vs single q => Sys2Proof.Machine.execVst site port vs single q s
  | .tok site cval => Sys2Proof.Machine.execTok site cval s
  | .obv site areg d vd => Sys2Proof.Machine.execObv site areg d vd s
  | .dsc site port => Sys2Proof.Machine.execDsc site port s
  | .vnop site => Sys2Proof.Machine.execVnop site s
  | .vadd site vd va vb msk neg => Sys2Proof.Machine.execVadd site vd va vb msk neg s
  | .vsub site vd va vb msk neg => Sys2Proof.Machine.execVsub site vd va vb msk neg s
  | .vmul site vd va vb msk neg => Sys2Proof.Machine.execVmul site vd va vb msk neg s
  | .vfma site vd va vb vc msk neg => Sys2Proof.Machine.execVfma site vd va vb vc msk neg s
  | .vmax site vd va vb msk neg => Sys2Proof.Machine.execVmax site vd va vb msk neg s
  | .vmin site vd va vb msk neg => Sys2Proof.Machine.execVmin site vd va vb msk neg s
  | .vsel site vd va vb msk sel => Sys2Proof.Machine.execVsel site vd va vb msk sel s
  | .vmov site vd va msk => Sys2Proof.Machine.execVmov site vd va msk s
  | .vbc site vd cw msk => Sys2Proof.Machine.execVbc site vd cw msk s
  | .vcmp site md va vb msk cond => Sys2Proof.Machine.execVcmp site md va vb msk cond s
  | .vmsk site dst va vb op => Sys2Proof.Machine.execVmsk site dst va vb op s
  | .vred site vd va msk fn => Sys2Proof.Machine.execVred site vd va msk fn s
  | .vxf site vd va msk fn => Sys2Proof.Machine.execVxf site vd va msk fn s
  | .vcvt site vd va vb msk fn sr => Sys2Proof.Machine.execVcvt site vd va vb msk fn sr s
  | .mnop site => Sys2Proof.Machine.execMnop site s
  | .mma site bank z fa fb aa da ab db => Sys2Proof.Machine.execMma site bank z fa fb aa da ab db s
  | .mrd site bank col ci vd zr => Sys2Proof.Machine.execMrd site bank col ci vd zr s
  | .mwr site bank col ci vs => Sys2Proof.Machine.execMwr site bank col ci vs s
  | .mz site bank => Sys2Proof.Machine.execMz site bank s
  | .mrs site side areg d => Sys2Proof.Machine.execMrs site side areg d s
  | .gsqNop q => Sys2Proof.Machine.execGsqNop q s
  | .li q gd imm => Sys2Proof.Machine.execLi q gd imm s
  | .lih q gd imm => Sys2Proof.Machine.execLih q gd imm s
  | .addi q gd ga imm => Sys2Proof.Machine.execAddi q gd ga imm s
  | .add q gd ga gb => Sys2Proof.Machine.execAdd q gd ga gb s
  | .br q t => Sys2Proof.Machine.execBr q t s
  | .bnz q ga t => Sys2Proof.Machine.execBnz q ga t s
  | .djnz q gd t => Sys2Proof.Machine.execDjnz q gd t s
  | .bst q mode code t => Sys2Proof.Machine.execBst q mode code t s
  | .load q slot ga => Sys2Proof.Machine.execLoad q slot ga s
  | .arm q slot ga ofs => Sys2Proof.Machine.execArm q slot ga ofs s
  | .swi q slot => Sys2Proof.Machine.execSwi q slot s
  | .run q slot ga => Sys2Proof.Machine.execRun q slot ga s
  | .waitDone q tmo => Sys2Proof.Machine.execWaitDone q tmo s
  | .waitLoaded q slot tmo => Sys2Proof.Machine.execWaitLoaded q slot tmo s
  | .waitTick q ga ofs tmo => Sys2Proof.Machine.execWaitTick q ga ofs tmo s
  | .waitArrival q ga gb tmo => Sys2Proof.Machine.execWaitArrival q ga gb tmo s
  | .waitSwitched q tmo => Sys2Proof.Machine.execWaitSwitched q tmo s
  | .waitSealed q tmo => Sys2Proof.Machine.execWaitSealed q tmo s
  | .exch q ga ofs phase t => Sys2Proof.Machine.execExch q ga ofs phase t s
  | .sealExtent q ga gb gd gt dest => Sys2Proof.Machine.execSealExtent q ga gb gd gt dest s
  | .ctr q ga gb gc => Sys2Proof.Machine.execCtr q ga gb gc s
  | .report q ga code => Sys2Proof.Machine.execReport q ga code s
  | .secb q ident => Sys2Proof.Machine.execSecb q ident s
  | .halt q => Sys2Proof.Machine.execHalt q s
  | .agEnd cell ag => Sys2Proof.Machine.execAgEnd cell ag s
  | .agRun cell ag word upset => Sys2Proof.Machine.execAgRun cell ag word upset s
  | .agLoop cell ag count body => Sys2Proof.Machine.execAgLoop cell ag count body s
  | .ring cell ag rng base srows slots => Sys2Proof.Machine.execRing cell ag rng base srows slots s
  | .win cell w mode cnt base len => Sys2Proof.Machine.execWin cell w mode cnt base len s
  | .seta cell cnt value counted => Sys2Proof.Machine.execSeta cell cnt value counted s
  | .hqb cell q prod => Sys2Proof.Machine.execHqb cell q prod s
  | .ringFill cell rng => Sys2Proof.Machine.execRingFill cell rng s
  | .ringDrain cell rng upset => Sys2Proof.Machine.execRingDrain cell rng upset s
  | .narrowRequest who ta op upset => Sys2Proof.Machine.execNarrowRequest who ta op upset s
  | .mergeWriteback cell row => Sys2Proof.Machine.execMergeWriteback cell row s
  | .remoteWrite ta glove data upset => Sys2Proof.Machine.execRemoteWrite ta glove data upset s
  | .handlePush cell q producer handle glove => Sys2Proof.Machine.execHandlePush cell q producer handle glove s
  | .arvCntWrite die m n half val counted => Sys2Proof.Machine.execArvCntWrite die m n half val counted s
  | .packedBlockDecode die entry block glove => Sys2Proof.Machine.execPackedBlockDecode die entry block glove s
  | .hbmUncorrectedRead frame unit glove system rerunReader => Sys2Proof.Machine.execHbmUncorrectedRead frame unit glove system rerunReader s
  | .correctedError part idx dev unit => Sys2Proof.Machine.execCorrectedError part idx dev unit s
  | .frameRetirement frame => Sys2Proof.Machine.execFrameRetirement frame s
  | .migrationQueueEntry => Sys2Proof.Machine.execMigrationQueueEntry s
  | .migrationStart tier => Sys2Proof.Machine.execMigrationStart tier s
  | .heldWriteRelease frame unit => Sys2Proof.Machine.execHeldWriteRelease frame unit s
  | .sealComplete ident ioError => Sys2Proof.Machine.execSealComplete ident ioError s
  | .copyupComplete ident ioError => Sys2Proof.Machine.execCopyupComplete ident ioError s
  | .moveComplete ident ioError => Sys2Proof.Machine.execMoveComplete ident ioError s
  | .relocationComplete deep idx slot chunk => Sys2Proof.Machine.execRelocationComplete deep idx slot chunk s
  | .ddrUncorrectedError chan unit dev cause => Sys2Proof.Machine.execDdrUncorrectedError chan unit dev cause s
  | .deepPortLinkDown port => Sys2Proof.Machine.execDeepPortLinkDown port s
  | .nvmeCommandComplete port ident ok => Sys2Proof.Machine.execNvmeCommandComplete port ident ok s
  | .returnTrainingComplete deep idx ok info capB => Sys2Proof.Machine.execReturnTrainingComplete deep idx ok info capB s
  | .dqsTracking chan => Sys2Proof.Machine.execDqsTracking chan s
  | .lz2PageMiss page => Sys2Proof.Machine.execLz2PageMiss page s
  | .stagingRecordEntry plan rec header => Sys2Proof.Machine.execStagingRecordEntry plan rec header s
  | .exchangePhaseStart plan rows scatterLate => Sys2Proof.Machine.execExchangePhaseStart plan rows scatterLate s
  | .dataStage plan linksBad localLate => Sys2Proof.Machine.execDataStage plan linksBad localLate s
  | .receiveRecord plan rec => Sys2Proof.Machine.execReceiveRecord plan rec s
  | .fwdSlot plan slot rec => Sys2Proof.Machine.execFwdSlot plan slot rec s
  | .closeStage plan statuses => Sys2Proof.Machine.execCloseStage plan statuses s
  | .exchangeRoundOpen plan => Sys2Proof.Machine.execExchangeRoundOpen plan s
  | .stewardHeartbeat => Sys2Proof.Machine.execStewardHeartbeat s
  | .stewardTakeover => Sys2Proof.Machine.execStewardTakeover s
  | .standbyResync => Sys2Proof.Machine.execStandbyResync s
  | .stwQidxWrite half val => Sys2Proof.Machine.execStwQidxWrite half val s
  | .stwGcfgWrite g half val => Sys2Proof.Machine.execStwGcfgWrite g half val s
  | .faultHoldExpiry g => Sys2Proof.Machine.execFaultHoldExpiry g s
  | .gloveResetDone g => Sys2Proof.Machine.execGloveResetDone g s
  | .flitReceive link f => Sys2Proof.Machine.execFlitReceive link f s
  | .replayTimeout link => Sys2Proof.Machine.execReplayTimeout link s
  | .linkTrainingStart link => Sys2Proof.Machine.execLinkTrainingStart link s
  | .linkTrainingComplete link lanes peer peerLink delay => Sys2Proof.Machine.execLinkTrainingComplete link lanes peer peerLink delay s
  | .laneDrop link lane => Sys2Proof.Machine.execLaneDrop link lane s
  | .linkSignalDetect link => Sys2Proof.Machine.execLinkSignalDetect link s
  | .lnkRetrain link => Sys2Proof.Machine.execLnkRetrain link s
  | .lnkEnableWrite link val => Sys2Proof.Machine.execLnkEnableWrite link val s
  | .packetForward p => Sys2Proof.Machine.execPacketForward p s
  | .mgrCfgLock half val => Sys2Proof.Machine.execMgrCfgLock half val s
  | .rackConflict otherLockTick otherIdent => Sys2Proof.Machine.execRackConflict otherLockTick otherIdent s
  | .relayedCommand op c => Sys2Proof.Machine.execRelayedCommand op c s
  | .workerReport pos r => Sys2Proof.Machine.execWorkerReport pos r s
  | .workerHeartbeatMiss pos linksLost reportedFault => Sys2Proof.Machine.execWorkerHeartbeatMiss pos linksLost reportedFault s
  | .managerTakeover fenced => Sys2Proof.Machine.execManagerTakeover fenced s
  | .epochAnnounce epoch => Sys2Proof.Machine.execEpochAnnounce epoch s
  | .managerRoleDecision masterSeen standbySeen rivalIdent => Sys2Proof.Machine.execManagerRoleDecision masterSeen standbySeen rivalIdent s
  | .perstNAssert => Sys2Proof.Machine.execPerstNAssert s
  | .perstNRelease => Sys2Proof.Machine.execPerstNRelease s
  | .pfFlr => Sys2Proof.Machine.execPfFlr s
  | .vfFlr vf => Sys2Proof.Machine.execVfFlr vf s
  | .d3hotEntry func => Sys2Proof.Machine.execD3hotEntry func s
  | .hostWindowRead func ofs len upset => Sys2Proof.Machine.execHostWindowRead func ofs len upset s
  | .hostWindowWrite func ofs data mask => Sys2Proof.Machine.execHostWindowWrite func ofs data mask s
  | .commandSlotReceive func ring slot word val => Sys2Proof.Machine.execCommandSlotReceive func ring slot word val s
  | .commandRingEnable ring half val => Sys2Proof.Machine.execCommandRingEnable ring half val s
  | .completionRingEnable cq half val => Sys2Proof.Machine.execCompletionRingEnable cq half val s
  | .cqHeadWrite func cq val => Sys2Proof.Machine.execCqHeadWrite func cq val s
  | .msixModerationTimer cq => Sys2Proof.Machine.execMsixModerationTimer cq s
  | .identify c => Sys2Proof.Machine.execIdentify c s
  | .setProfile c => Sys2Proof.Machine.execSetProfile c s
  | .setTickPeriod c => Sys2Proof.Machine.execSetTickPeriod c s
  | .setRung c => Sys2Proof.Machine.execSetRung c s
  | .setRoute c => Sys2Proof.Machine.execSetRoute c s
  | .stewardSwap c => Sys2Proof.Machine.execStewardSwap c s
  | .serviceOpFence c => Sys2Proof.Machine.execServiceOpFence c s
  | .serviceOpUnfence c => Sys2Proof.Machine.execServiceOpUnfence c s
  | .serviceOpRetire c => Sys2Proof.Machine.execServiceOpRetire c s
  | .serviceOpFormChain c => Sys2Proof.Machine.execServiceOpFormChain c s
  | .serviceOpReturn c info => Sys2Proof.Machine.execServiceOpReturn c info s
  | .keyOpInstall c => Sys2Proof.Machine.execKeyOpInstall c s
  | .keyOpErase c => Sys2Proof.Machine.execKeyOpErase c s
  | .imageOpStage c => Sys2Proof.Machine.execImageOpStage c s
  | .imageOpActivate c => Sys2Proof.Machine.execImageOpActivate c s
  | .imageOpWriteOtp c => Sys2Proof.Machine.execImageOpWriteOtp c s
  | .gloveCreate c => Sys2Proof.Machine.execGloveCreate c s
  | .gloveDestroy c => Sys2Proof.Machine.execGloveDestroy c s
  | .gloveReset c => Sys2Proof.Machine.execGloveReset c s
  | .frameAlloc c => Sys2Proof.Machine.execFrameAlloc c s
  | .frameShare c => Sys2Proof.Machine.execFrameShare c s
  | .frameFree c => Sys2Proof.Machine.execFrameFree c s
  | .gsqWrite c => Sys2Proof.Machine.execGsqWrite c s
  | .gsqStart c => Sys2Proof.Machine.execGsqStart c s
  | .gsqStop c => Sys2Proof.Machine.execGsqStop c s
  | .planInstall c => Sys2Proof.Machine.execPlanInstall c s
  | .planRemove c => Sys2Proof.Machine.execPlanRemove c s
  | .lz2Enable c => Sys2Proof.Machine.execLz2Enable c s
  | .lz2Disable c => Sys2Proof.Machine.execLz2Disable c s
  | .migrate c => Sys2Proof.Machine.execMigrate c s
  | .modelRegister c => Sys2Proof.Machine.execModelRegister c s
  | .modelSwitchin c => Sys2Proof.Machine.execModelSwitchin c s
  | .modelPark c => Sys2Proof.Machine.execModelPark c s
  | .modelReplace c => Sys2Proof.Machine.execModelReplace c s
  | .adapterLoad c => Sys2Proof.Machine.execAdapterLoad c s
  | .adapterUnload c => Sys2Proof.Machine.execAdapterUnload c s
  | .markPublic c => Sys2Proof.Machine.execMarkPublic c s
  | .admitSeq c => Sys2Proof.Machine.execAdmitSeq c s
  | .routeAdmit c => Sys2Proof.Machine.execRouteAdmit c s
  | .append c => Sys2Proof.Machine.execAppend c s
  | .cancel c => Sys2Proof.Machine.execCancel c s
  | .pause c => Sys2Proof.Machine.execPause c s
  | .resume c => Sys2Proof.Machine.execResume c s
  | .release c => Sys2Proof.Machine.execRelease c s
  | .setEndpointId eid => Sys2Proof.Machine.execSetEndpointId eid s
  | .getEndpointId => Sys2Proof.Machine.execGetEndpointId s
  | .getMctpVersionSupport type => Sys2Proof.Machine.execGetMctpVersionSupport type s
  | .getMessageTypeSupport => Sys2Proof.Machine.execGetMessageTypeSupport s
  | .getVendorDefinedMessageSupport sel => Sys2Proof.Machine.execGetVendorDefinedMessageSupport sel s
  | .getRecord ident => Sys2Proof.Machine.execGetRecord ident s
  | .getAlerts events => Sys2Proof.Machine.execGetAlerts events s
  | .setAlertMask mask => Sys2Proof.Machine.execSetAlertMask mask s
  | .aosRead => Sys2Proof.Machine.execAosRead s
  | .trip smbus => Sys2Proof.Machine.execTrip smbus s
  | .fence smbus kind idx => Sys2Proof.Machine.execFence smbus kind idx s
  | .erase smbus slot => Sys2Proof.Machine.execErase smbus slot s
  | .reset smbus cold => Sys2Proof.Machine.execReset smbus cold s
  | .aosReport => Sys2Proof.Machine.execAosReport s
  | .recordRefresh => Sys2Proof.Machine.execRecordRefresh s
  | .secActlGo half val m => Sys2Proof.Machine.execSecActlGo half val m s
  | .attestationReportReady => Sys2Proof.Machine.execAttestationReportReady s
  | .trngHealthFailure => Sys2Proof.Machine.execTrngHealthFailure s
  | .trngRecover => Sys2Proof.Machine.execTrngRecover s
  | .powerOn => Sys2Proof.Machine.execPowerOn s
  | .ext lowRc => Sys2Proof.Machine.execExt lowRc s
  | .rail idx => Sys2Proof.Machine.execRail idx s
  | .thermtrip => Sys2Proof.Machine.execThermtrip s
  | .thermalTrip => Sys2Proof.Machine.execThermalTrip s
  | .refclkLoss => Sys2Proof.Machine.execRefclkLoss s
  | .refclkWindow count => Sys2Proof.Machine.execRefclkWindow count s
  | .pllWindow p ok => Sys2Proof.Machine.execPllWindow p ok s
  | .watchdog => Sys2Proof.Machine.execWatchdog s
  | .aosRstreqWrite half val => Sys2Proof.Machine.execAosRstreqWrite half val s
  | .vaonLoss => Sys2Proof.Machine.execVaonLoss s
  | .resetStretchEnd => Sys2Proof.Machine.execResetStretchEnd s
  | .resetNSample high => Sys2Proof.Machine.execResetNSample high s
  | .otpGenerationSelect => Sys2Proof.Machine.execOtpGenerationSelect s
  | .aosBringupTakeover => Sys2Proof.Machine.execAosBringupTakeover s
  | .aosFirmwareStart => Sys2Proof.Machine.execAosFirmwareStart s
  | .railCheck ok => Sys2Proof.Machine.execRailCheck ok s
  | .controlFirmwareStart => Sys2Proof.Machine.execControlFirmwareStart s
  | .selfTestComplete die t => Sys2Proof.Machine.execSelfTestComplete die t s
  | .stackTrainingAttempt stack ok => Sys2Proof.Machine.execStackTrainingAttempt stack ok s
  | .wideTierTrained dimms => Sys2Proof.Machine.execWideTierTrained dimms s
  | .dieRelease die => Sys2Proof.Machine.execDieRelease die s
  | .profileChange => Sys2Proof.Machine.execProfileChange s
  | .rasDrainWrite half val => Sys2Proof.Machine.execRasDrainWrite half val s
  | .partReadyReport part => Sys2Proof.Machine.execPartReadyReport part s
  | .activationReadyTimeout part => Sys2Proof.Machine.execActivationReadyTimeout part s
  | .otpBurnComplete ok => Sys2Proof.Machine.execOtpBurnComplete ok s
  | .aosStewardWatchLapse => Sys2Proof.Machine.execAosStewardWatchLapse s
  | .aosManagerWatchLapse => Sys2Proof.Machine.execAosManagerWatchLapse s
  | .patternCycle g => Sys2Proof.Machine.execPatternCycle g s
  | .flitTransmit link => Sys2Proof.Machine.execFlitTransmit link s
  | .moduleHeartbeat pos => Sys2Proof.Machine.execModuleHeartbeat pos s
  | .managerHeartbeat => Sys2Proof.Machine.execManagerHeartbeat s
  | .relayedCompletion c => Sys2Proof.Machine.execRelayedCompletion c s
  | .managerResync => Sys2Proof.Machine.execManagerResync s
  | .d3hotExit func => Sys2Proof.Machine.execD3hotExit func s
  | .deepPortNvmeReady port fmtOk gen width capB => Sys2Proof.Machine.execDeepPortNvmeReady port fmtOk gen width capB s
  | .stackControllerFailure stack => Sys2Proof.Machine.execStackControllerFailure stack s
  | .dieToDiePortFailure die iod => Sys2Proof.Machine.execDieToDiePortFailure die iod s
  | .waitTickReached q => Sys2Proof.Machine.execWaitTickReached q s
  | .smbusAddressResolution addr => Sys2Proof.Machine.execSmbusAddressResolution addr s
  | .periodChangeReceive n tick => Sys2Proof.Machine.execPeriodChangeReceive n tick s

end Sys2Proof.Machine
end

