-- ==== Sys2Proof/Machine/Step.lean ====
section
/-! DEFINITION. One step of the module: the command at the front of its queue, or, with none waiting, one cycle of the reference clock. -/

namespace Sys2Proof.Machine

/-- One step. With a command waiting, it leaves the queue and has its effect; with none, a reference cycle passes (R39; the model's choice, log entry 2). -/
def step (s : State) : Host.Outcome State Fault Refusal :=
  match s.pending with
  | [] => .next (tickAdvanceOp s)
  | c :: rest => exec c { s with pending := rest }

/-- `s` with a command put at the front of its queue. -/
def State.enqueue (s : State) (c : Instr) : State := { s with pending := c :: s.pending }

/-- `s` with the command that a word spells at the front of its queue; unchanged where the word spells none. -/
def State.withFetchWord (s : State) (nbits w : Nat) : State :=
  match decodeTableWord nbits w with
  | none => s
  | some c => s.enqueue c

end Sys2Proof.Machine
end

