-- ==== Sys2Proof/WellFormed.lean ====
section
/-! DEFINITION. Well-formed commands: every operand fits the field, the table or the set of parts that the spec gives it. A command that is not well formed is one
that nothing in the module or outside it can send. -/

namespace Sys2Proof

/-- A logical site lies on the array (R14, R70). -/
def Site.wf (p : Site) : Bool := decide (p.die < 8) && decide (p.row < 24) && decide (p.col < 24)

/-- A port stands at a site of the array (R92). -/
def PortRef.wf (p : PortRef) : Bool := decide (p.die < 8) && decide (p.row < 24) && decide (p.col < 24) && decide (p.cls < 8)

/-- Node IDs have 13 bits, the period lies in its range, and the phase below it (R37, R40, R53). -/
def Beacon.wf (b : Beacon) : Bool := decide (b.sender < 8192) && decide (b.crown < 8192) && decide (b.phase < b.n) &&
  decide (10000 ≤ b.n) && decide (b.n ≤ 1000000) && b.pend.all fun p => decide (10000 ≤ p.1) && decide (p.1 ≤ 1000000)

/-- A flit's header fields and its body of at most 256 bytes (R461, R462). -/
def Flit.wf (f : Flit) : Bool :=
  decide (f.vc < 8) && decide (f.seq < 4096) && decide (f.ack < 4096) && decide (f.body.length ≤ 256)

/-- A packet's header fields and its payload of at most 4,096 bytes (R471). -/
def Packet.wf (p : Packet) : Bool := decide (p.dest < 8192) && decide (p.src < 8192) && decide (p.payload.length ≤ 4096)

/-- A control core of at most 14 dies with its glove and key slot, the host's function, or a die (R15, R37, R497). -/
def Requester.wf : Requester → Bool
  | .core ident glove key => decide (ident < 56) && decide (glove < 64) && decide (key < 256)
  | .host func => decide (func < 65)
  | .system die => decide (die < 14)

/-- A command whose operands all lie in range. -/
def Instr.wf (i : Instr) : Bool :=
  match i with
  | .registerWrite func addr _ _ => decide (func < 65) && addr % 8 == 0
  | .w1cWrite addr _ _ _ => addr % 8 == 0
  | .tkeTickRead _ => true
  | .tickAdvance => true
  | .periodChange => true
  | .alignmentLoad _ phase n pend source => decide (10000 ≤ n) && decide (n ≤ 1000000) && decide (phase < n) && (pend.all fun p => decide (10000 ≤ p.1) && decide (p.1 ≤ 1000000)) && decide (source.node < 8192)
  | .counterHoldEnd => true
  | .beaconSend _ => true
  | .beaconReceive b _ _ => b.wf
  | .beaconCheck node _ => decide (node < 8192)
  | .parentLost _ => true
  | .holdoverLimitExpiry _ => true
  | .crownMeet other => decide (other < 8192)
  | .tickStepOrHold => true
  | .ledgerPeriod m => decide (m.vcore.length ≤ 8)
  | .grantReceived _ _ _ => true
  | .grantComputation => true
  | .demandReceived node _ _ _ => decide (node < 8192)
  | .rungChange => true
  | .rungEntryComplete => true
  | .rungEntryAbandon => true
  | .wakeEvent _ => true
  | .stepCommit g => decide (g < 64)
  | .stepDone g => decide (g < 64)
  | .stepAbort g => decide (g < 64)
  | .samplerFinish g => decide (g < 64)
  | .autoResume seq => decide (seq < 131072)
  | .ttlExpiry seq => decide (seq < 131072)
  | .extentTtlExpiry slot => decide (slot < 16777216)
  | .cacheSealComplete seq => decide (seq < 131072)
  | .sealRetry seq => decide (seq < 131072)
  | .resumePageRetry seq => decide (seq < 131072)
  | .resumeCopyComplete seq => decide (seq < 131072)
  | .cuffRelease model => decide (model < 1048576)
  | .switchinExtentComplete model _ => decide (model < 1048576)
  | .peerLost model _ peer => decide (model < 1048576) && decide (peer < 8192)
  | .fetchRequest f => decide (f.src < 8192) && decide (f.model < 1048576) && decide (f.version < 65536)
  | .fetchUnitReceive model _ _ data => decide (model < 1048576) && decide (data.length ≤ 4096)
  | .scheduleFault f => decide (f.glove < 64) && decide (f.die < 8) && decide (f.row < 24) && decide (f.col < 25)
  | .cellException f => decide (f.glove < 64) && decide (f.die < 8) && decide (f.row < 24) && decide (f.col < 25)
  | .portFreeze g p => decide (g < 64) && p.wf
  | .freezeRelease g p => decide (g < 64) && p.wf
  | .patternResume g => decide (g < 64)
  | .crossingMarginLoss die at_ => decide (die < 8) && decide (at_.edge < 4) && decide (at_.chan < 24)
  | .crossingRetrainComplete die edge => decide (die < 8) && decide (edge < 4)
  | .cellFailure die row _ col => decide (die < 8) && decide (row < 24) && decide (col < 25)
  | .chainForm die row _ => decide (die < 8) && decide (row < 24)
  | .patternSwitch g vcore => decide (g < 64) && decide (vcore.length ≤ 8)
  | .patternDone g vcore => decide (g < 64) && decide (vcore.length ≤ 8)
  | .clockStepChange die step => decide (die < 8) && decide (step.step < 8) && decide (step.mv < 1024)
  | .thermalSample _ => true
  | .rerunnableDetection d _ => decide (d.die < 8) && decide (d.cell < 288) && decide (d.row < 2048) && decide (d.glove < 64)
  | .loadComplete g => decide (g < 64)
  | .armedSwitch g => decide (g < 64)
  | .waitTimeout q => decide (q < 64)
  | .workCounterClaim die m n _ _ _ => decide (die < 8) && decide (m < 288) && decide (n < 16)
  | .wkcWrite die m n _ _ _ => decide (die < 8) && decide (m < 288) && decide (n < 16)
  | .ctNop site => site.wf
  | .epx site => site.wf
  | .eps site _ => site.wf
  | .fset site _ => site.wf
  | .fany site _ => site.wf
  | .fall site _ => site.wf
  | .trap site _ => site.wf
  | .mvNop site => site.wf
  | .fil site port areg d nl => site.wf && decide (1 ≤ port) && decide (port ≤ 5) && decide (areg < 8) && decide (d < 32) && decide (1 ≤ nl) && decide (nl ≤ 256)
  | .vld site port vd _ q => site.wf && decide (1 ≤ port) && decide (port ≤ 5) && decide (vd < 64) && decide (q < 4)
  | .vst site port vs _ q => site.wf && decide (1 ≤ port) && decide (port ≤ 5) && decide (vs < 64) && decide (q < 4)
  | .tok site _ => site.wf
  | .obv site areg d vd => site.wf && decide (areg < 8) && decide (d < 32) && decide (vd < 64)
  | .dsc site port => site.wf && decide (1 ≤ port) && decide (port ≤ 5)
  | .vnop site => site.wf
  | .vadd site vd va vb msk _ => site.wf && decide (vd < 64) && decide (va < 64) && decide (vb < 64) && decide (msk < 8)
  | .vsub site vd va vb msk _ => site.wf && decide (vd < 64) && decide (va < 64) && decide (vb < 64) && decide (msk < 8)
  | .vmul site vd va vb msk _ => site.wf && decide (vd < 64) && decide (va < 64) && decide (vb < 64) && decide (msk < 8)
  | .vfma site vd va vb vc msk _ => site.wf && decide (vd < 64) && decide (va < 64) && decide (vb < 64) && decide (vc < 64) && decide (msk < 8)
  | .vmax site vd va vb msk _ => site.wf && decide (vd < 64) && decide (va < 64) && decide (vb < 64) && decide (msk < 8)
  | .vmin site vd va vb msk _ => site.wf && decide (vd < 64) && decide (va < 64) && decide (vb < 64) && decide (msk < 8)
  | .vsel site vd va vb msk sel => site.wf && decide (vd < 64) && decide (va < 64) && decide (vb < 64) && decide (msk < 8) && decide (sel < 8)
  | .vmov site vd va msk => site.wf && decide (vd < 64) && decide (va < 64) && decide (msk < 8)
  | .vbc site vd cw msk => site.wf && decide (vd < 64) && decide (cw < 64) && decide (msk < 8)
  | .vcmp site md va vb msk cond => site.wf && decide (md < 8) && decide (va < 64) && decide (vb < 64) && decide (msk < 8) && decide (cond < 8)
  | .vmsk site dst va vb op => site.wf && decide (dst.md < 8) && decide (va < 64) && decide (vb < 64) && decide (dst.msk < 8) && decide (op < 8)
  | .vred site vd va msk fn => site.wf && decide (vd < 64) && decide (va < 64) && decide (msk < 8) && decide (fn < 4)
  | .vxf site vd va msk fn => site.wf && decide (vd < 64) && decide (va < 64) && decide (msk < 8) && decide (fn < 4)
  | .vcvt site vd va vb msk fn _ => site.wf && decide (vd < 64) && decide (va < 64) && decide (vb < 64) && decide (msk < 8) && decide (fn < 8)
  | .mnop site => site.wf
  | .mma site bank z fa fb aa da ab db => site.wf && decide (bank < 2) && decide (z < 4) && decide (fa < 16) && decide (fb < 16) && decide (aa < 8) && decide (da < 32) && decide (ab < 8) && decide (db < 32)
  | .mrd site bank col _ vd _ => site.wf && decide (bank < 2) && decide (col < 128) && decide (vd < 64)
  | .mwr site bank col _ vs => site.wf && decide (bank < 2) && decide (col < 128) && decide (vs < 64)
  | .mz site bank => site.wf && decide (bank < 2)
  | .mrs site side areg d => site.wf && decide (side < 2) && decide (areg < 8) && decide (d < 32)
  | .gsqNop q => decide (q < 64)
  | .li q gd _ => decide (q < 64) && decide (gd < 16)
  | .lih q gd _ => decide (q < 64) && decide (gd < 16)
  | .addi q gd ga _ => decide (q < 64) && decide (gd < 16) && decide (ga < 16)
  | .add q gd ga gb => decide (q < 64) && decide (gd < 16) && decide (ga < 16) && decide (gb < 16)
  | .br q t => decide (q < 64) && decide (t < 2048)
  | .bnz q ga t => decide (q < 64) && decide (ga < 16) && decide (t < 2048)
  | .djnz q gd t => decide (q < 64) && decide (gd < 16) && decide (t < 2048)
  | .bst q mode code t => decide (q < 64) && decide (mode < 4) && decide (code < 256) && decide (t < 2048)
  | .load q slot ga => decide (q < 64) && decide (slot < 4) && decide (ga < 16)
  | .arm q slot ga ofs => decide (q < 64) && decide (slot < 4) && decide (ga < 16) && decide (ofs < 1048576)
  | .swi q slot => decide (q < 64) && decide (slot < 4)
  | .run q slot ga => decide (q < 64) && decide (slot < 4) && decide (ga < 16)
  | .waitDone q tmo => decide (q < 64) && decide (tmo < 65536)
  | .waitLoaded q slot tmo => decide (q < 64) && decide (slot < 4) && decide (tmo < 65536)
  | .waitTick q ga ofs tmo => decide (q < 64) && decide (ga < 16) && decide (ofs < 1048576) && decide (tmo < 65536)
  | .waitArrival q ga gb tmo => decide (q < 64) && decide (ga < 16) && decide (gb < 16) && decide (tmo < 65536)
  | .waitSwitched q tmo => decide (q < 64) && decide (tmo < 65536)
  | .waitSealed q tmo => decide (q < 64) && decide (tmo < 65536)
  | .exch q ga ofs phase t => decide (q < 64) && decide (ga < 16) && decide (ofs < 1048576) && decide (phase < 256) && decide (t < 2048)
  | .sealExtent q ga gb gd gt dest => decide (q < 64) && decide (ga < 16) && decide (gb < 16) && decide (gd < 16) && decide (gt < 16) && decide (dest < 2)
  | .ctr q ga gb gc => decide (q < 64) && decide (ga < 16) && decide (gb < 16) && decide (gc < 16)
  | .report q ga code => decide (q < 64) && decide (ga < 16) && decide (code < 65536)
  | .secb q ident => decide (q < 64) && decide (ident < 65536)
  | .halt q => decide (q < 64)
  | .agEnd cell ag => decide (cell < 2304) && decide (ag < 8)
  | .agRun cell ag _ _ => decide (cell < 2304) && decide (ag < 8)
  | .agLoop cell ag count body => decide (cell < 2304) && decide (ag < 8) && decide (count < 16777216) && decide (body < 64)
  | .ring cell ag rng base srows slots => decide (cell < 2304) && decide (ag < 8) && decide (rng < 4) && decide (base < 2048) && decide (1 ≤ srows) && decide (srows ≤ 64) && decide (1 ≤ slots) && decide (slots ≤ 16)
  | .win cell w mode cnt base len => decide (cell < 2304) && decide (w < 8) && decide (mode < 4) && decide (cnt < 16) && decide (base < 2048) && decide (len < 4096)
  | .seta cell cnt _ _ => decide (cell < 2304) && decide (cnt < 16)
  | .hqb cell q prod => decide (cell < 2304) && decide (q < 2) && decide (prod < 65536) && prod % 16 == 0
  | .ringFill cell rng => decide (cell < 2304) && decide (rng < 4)
  | .ringDrain cell rng _ => decide (cell < 2304) && decide (rng < 4)
  | .narrowRequest who ta _ _ => who.wf && decide (ta.toNat < 2 ^ 56)
  | .mergeWriteback cell row => decide (cell < 2304) && decide (row < 2048)
  | .remoteWrite ta glove data _ => decide (ta.toNat < 2 ^ 56) && decide (glove < 64) && decide (data.length ≤ 512)
  | .handlePush cell q producer _ glove => decide (cell < 2304) && decide (q < 2) && decide (producer < 65536) && decide (glove < 64)
  | .arvCntWrite die m n _ _ _ => decide (die < 8) && decide (m < 288) && decide (n < 16)
  | .packedBlockDecode die entry _ glove => decide (die < 8) && decide (entry < 64) && decide (glove < 64)
  | .hbmUncorrectedRead frame _ glove _ _ => decide (frame < 65536) && decide (glove < 64)
  | .correctedError _ _ _ _ => true
  | .frameRetirement frame => decide (frame < 65536)
  | .migrationQueueEntry => true
  | .migrationStart tier => decide (tier < 4)
  | .heldWriteRelease frame _ => decide (frame < 65536)
  | .sealComplete _ _ => true
  | .copyupComplete _ _ => true
  | .moveComplete _ _ => true
  | .relocationComplete _ _ slot _ => decide (slot < 16777216)
  | .ddrUncorrectedError chan _ _ _ => decide (chan < 36)
  | .deepPortLinkDown port => decide (port < 4)
  | .nvmeCommandComplete port _ _ => decide (port < 4)
  | .returnTrainingComplete _ _ _ _ _ => true
  | .dqsTracking chan => decide (chan < 36)
  | .lz2PageMiss _ => true
  | .stagingRecordEntry plan _ _ => decide (plan < 256)
  | .exchangePhaseStart plan _ _ => decide (plan < 256)
  | .dataStage plan _ _ => decide (plan < 256)
  | .receiveRecord plan _ => decide (plan < 256)
  | .fwdSlot plan _ _ => decide (plan < 256)
  | .closeStage plan _ => decide (plan < 256)
  | .exchangeRoundOpen plan => decide (plan < 256)
  | .stewardHeartbeat => true
  | .stewardTakeover => true
  | .standbyResync => true
  | .stwQidxWrite _ _ => true
  | .stwGcfgWrite g _ _ => decide (g < 64)
  | .faultHoldExpiry g => decide (g < 64)
  | .gloveResetDone g => decide (g < 64)
  | .flitReceive link f => decide (link < 96) && f.wf
  | .replayTimeout link => decide (link < 96)
  | .linkTrainingStart link => decide (link < 96)
  | .linkTrainingComplete link lanes peer peerLink _ => decide (link < 96) && decide (lanes < 4) && decide (peer < 8192) && decide (peerLink < 96)
  | .laneDrop link lane => decide (link < 96) && decide (lane < 2)
  | .linkSignalDetect link => decide (link < 96)
  | .lnkRetrain link => decide (link < 96)
  | .lnkEnableWrite link _ => decide (link < 96)
  | .packetForward p => p.wf
  | .mgrCfgLock _ _ => true
  | .rackConflict _ _ => true
  | .relayedCommand op c => decide (op < 256) && decide (c.func < 65)
  | .workerReport pos _ => decide (pos < 32)
  | .workerHeartbeatMiss pos _ _ => decide (pos < 32)
  | .managerTakeover _ => true
  | .epochAnnounce _ => true
  | .managerRoleDecision _ _ _ => true
  | .perstNAssert => true
  | .perstNRelease => true
  | .pfFlr => true
  | .vfFlr vf => decide (1 ≤ vf) && decide (vf ≤ 64)
  | .d3hotEntry func => decide (func < 65)
  | .hostWindowRead func _ _ _ => decide (func < 65)
  | .hostWindowWrite func _ data mask => decide (func < 65) && mask.length == data.length
  | .commandSlotReceive func ringV _ word _ => decide (func < 65) && decide (ringV < 256) && decide (word < 8)
  | .commandRingEnable ringV _ _ => decide (ringV < 256)
  | .completionRingEnable cq _ _ => decide (cq < 256)
  | .cqHeadWrite func cq _ => decide (func < 65) && decide (cq < 256)
  | .msixModerationTimer cq => decide (cq < 256)
  | .identify c => decide (c.func < 65)
  | .setProfile c => decide (c.func < 65)
  | .setTickPeriod c => decide (c.func < 65)
  | .setRung c => decide (c.func < 65)
  | .setRoute c => decide (c.func < 65)
  | .stewardSwap c => decide (c.func < 65)
  | .serviceOpFence c => decide (c.func < 65)
  | .serviceOpUnfence c => decide (c.func < 65)
  | .serviceOpRetire c => decide (c.func < 65)
  | .serviceOpFormChain c => decide (c.func < 65)
  | .serviceOpReturn c _ => decide (c.func < 65)
  | .keyOpInstall c => decide (c.func < 65)
  | .keyOpErase c => decide (c.func < 65)
  | .imageOpStage c => decide (c.func < 65)
  | .imageOpActivate c => decide (c.func < 65)
  | .imageOpWriteOtp c => decide (c.func < 65)
  | .gloveCreate c => decide (c.func < 65)
  | .gloveDestroy c => decide (c.func < 65)
  | .gloveReset c => decide (c.func < 65)
  | .frameAlloc c => decide (c.func < 65)
  | .frameShare c => decide (c.func < 65)
  | .frameFree c => decide (c.func < 65)
  | .gsqWrite c => decide (c.func < 65)
  | .gsqStart c => decide (c.func < 65)
  | .gsqStop c => decide (c.func < 65)
  | .planInstall c => decide (c.func < 65)
  | .planRemove c => decide (c.func < 65)
  | .lz2Enable c => decide (c.func < 65)
  | .lz2Disable c => decide (c.func < 65)
  | .migrate c => decide (c.func < 65)
  | .modelRegister c => decide (c.func < 65)
  | .modelSwitchin c => decide (c.func < 65)
  | .modelPark c => decide (c.func < 65)
  | .modelReplace c => decide (c.func < 65)
  | .adapterLoad c => decide (c.func < 65)
  | .adapterUnload c => decide (c.func < 65)
  | .markPublic c => decide (c.func < 65)
  | .admitSeq c => decide (c.func < 65)
  | .routeAdmit c => decide (c.func < 65)
  | .append c => decide (c.func < 65)
  | .cancel c => decide (c.func < 65)
  | .pause c => decide (c.func < 65)
  | .resume c => decide (c.func < 65)
  | .release c => decide (c.func < 65)
  | .setEndpointId _ => true
  | .getEndpointId => true
  | .getMctpVersionSupport _ => true
  | .getMessageTypeSupport => true
  | .getVendorDefinedMessageSupport _ => true
  | .getRecord _ => true
  | .getAlerts _ => true
  | .setAlertMask _ => true
  | .aosRead => true
  | .trip _ => true
  | .fence _ _ _ => true
  | .erase _ _ => true
  | .reset _ _ => true
  | .aosReport => true
  | .recordRefresh => true
  | .secActlGo _ _ _ => true
  | .attestationReportReady => true
  | .trngHealthFailure => true
  | .trngRecover => true
  | .powerOn => true
  | .ext _ => true
  | .rail _ => true
  | .thermtrip => true
  | .thermalTrip => true
  | .refclkLoss => true
  | .refclkWindow _ => true
  | .pllWindow _ _ => true
  | .watchdog => true
  | .aosRstreqWrite _ _ => true
  | .vaonLoss => true
  | .resetStretchEnd => true
  | .resetNSample _ => true
  | .otpGenerationSelect => true
  | .aosBringupTakeover => true
  | .aosFirmwareStart => true
  | .railCheck _ => true
  | .controlFirmwareStart => true
  | .selfTestComplete die _ => decide (die < 8)
  | .stackTrainingAttempt stack _ => decide (stack < 32)
  | .wideTierTrained _ => true
  | .dieRelease die => decide (die < 8)
  | .profileChange => true
  | .rasDrainWrite _ _ => true
  | .partReadyReport _ => true
  | .activationReadyTimeout _ => true
  | .otpBurnComplete _ => true
  | .aosStewardWatchLapse => true
  | .aosManagerWatchLapse => true
  | .patternCycle g => decide (g < 64)
  | .flitTransmit link => decide (link < 96)
  | .moduleHeartbeat pos => decide (pos < 32)
  | .managerHeartbeat => true
  | .relayedCompletion _ => true
  | .managerResync => true
  | .d3hotExit func => decide (func < 65)
  | .deepPortNvmeReady port _ _ _ _ => decide (port < 4)
  | .stackControllerFailure stack => decide (stack < 32)
  | .dieToDiePortFailure die _ => decide (die < 8)
  | .waitTickReached q => decide (q < 64)
  | .smbusAddressResolution _ => true
  | .periodChangeReceive n _ => decide (10000 ≤ n) && decide (n ≤ 1000000)

/-- The command slot of a host-command row (R506, R515); other rows carry none. -/
def Instr.hostCmd (i : Instr) : Option HostCmd :=
  match i with
  | .registerWrite _ _ _ _ => none
  | .w1cWrite _ _ _ _ => none
  | .tkeTickRead _ => none
  | .tickAdvance => none
  | .periodChange => none
  | .alignmentLoad _ _ _ _ _ => none
  | .counterHoldEnd => none
  | .beaconSend _ => none
  | .beaconReceive _ _ _ => none
  | .beaconCheck _ _ => none
  | .parentLost _ => none
  | .holdoverLimitExpiry _ => none
  | .crownMeet _ => none
  | .tickStepOrHold => none
  | .ledgerPeriod _ => none
  | .grantReceived _ _ _ => none
  | .grantComputation => none
  | .demandReceived _ _ _ _ => none
  | .rungChange => none
  | .rungEntryComplete => none
  | .rungEntryAbandon => none
  | .wakeEvent _ => none
  | .stepCommit _ => none
  | .stepDone _ => none
  | .stepAbort _ => none
  | .samplerFinish _ => none
  | .autoResume _ => none
  | .ttlExpiry _ => none
  | .extentTtlExpiry _ => none
  | .cacheSealComplete _ => none
  | .sealRetry _ => none
  | .resumePageRetry _ => none
  | .resumeCopyComplete _ => none
  | .cuffRelease _ => none
  | .switchinExtentComplete _ _ => none
  | .peerLost _ _ _ => none
  | .fetchRequest _ => none
  | .fetchUnitReceive _ _ _ _ => none
  | .scheduleFault _ => none
  | .cellException _ => none
  | .portFreeze _ _ => none
  | .freezeRelease _ _ => none
  | .patternResume _ => none
  | .crossingMarginLoss _ _ => none
  | .crossingRetrainComplete _ _ => none
  | .cellFailure _ _ _ _ => none
  | .chainForm _ _ _ => none
  | .patternSwitch _ _ => none
  | .patternDone _ _ => none
  | .clockStepChange _ _ => none
  | .thermalSample _ => none
  | .rerunnableDetection _ _ => none
  | .loadComplete _ => none
  | .armedSwitch _ => none
  | .waitTimeout _ => none
  | .workCounterClaim _ _ _ _ _ _ => none
  | .wkcWrite _ _ _ _ _ _ => none
  | .ctNop _ => none
  | .epx _ => none
  | .eps _ _ => none
  | .fset _ _ => none
  | .fany _ _ => none
  | .fall _ _ => none
  | .trap _ _ => none
  | .mvNop _ => none
  | .fil _ _ _ _ _ => none
  | .vld _ _ _ _ _ => none
  | .vst _ _ _ _ _ => none
  | .tok _ _ => none
  | .obv _ _ _ _ => none
  | .dsc _ _ => none
  | .vnop _ => none
  | .vadd _ _ _ _ _ _ => none
  | .vsub _ _ _ _ _ _ => none
  | .vmul _ _ _ _ _ _ => none
  | .vfma _ _ _ _ _ _ _ => none
  | .vmax _ _ _ _ _ _ => none
  | .vmin _ _ _ _ _ _ => none
  | .vsel _ _ _ _ _ _ => none
  | .vmov _ _ _ _ => none
  | .vbc _ _ _ _ => none
  | .vcmp _ _ _ _ _ _ => none
  | .vmsk _ _ _ _ _ => none
  | .vred _ _ _ _ _ => none
  | .vxf _ _ _ _ _ => none
  | .vcvt _ _ _ _ _ _ _ => none
  | .mnop _ => none
  | .mma _ _ _ _ _ _ _ _ _ => none
  | .mrd _ _ _ _ _ _ => none
  | .mwr _ _ _ _ _ => none
  | .mz _ _ => none
  | .mrs _ _ _ _ => none
  | .gsqNop _ => none
  | .li _ _ _ => none
  | .lih _ _ _ => none
  | .addi _ _ _ _ => none
  | .add _ _ _ _ => none
  | .br _ _ => none
  | .bnz _ _ _ => none
  | .djnz _ _ _ => none
  | .bst _ _ _ _ => none
  | .load _ _ _ => none
  | .arm _ _ _ _ => none
  | .swi _ _ => none
  | .run _ _ _ => none
  | .waitDone _ _ => none
  | .waitLoaded _ _ _ => none
  | .waitTick _ _ _ _ => none
  | .waitArrival _ _ _ _ => none
  | .waitSwitched _ _ => none
  | .waitSealed _ _ => none
  | .exch _ _ _ _ _ => none
  | .sealExtent _ _ _ _ _ _ => none
  | .ctr _ _ _ _ => none
  | .report _ _ _ => none
  | .secb _ _ => none
  | .halt _ => none
  | .agEnd _ _ => none
  | .agRun _ _ _ _ => none
  | .agLoop _ _ _ _ => none
  | .ring _ _ _ _ _ _ => none
  | .win _ _ _ _ _ _ => none
  | .seta _ _ _ _ => none
  | .hqb _ _ _ => none
  | .ringFill _ _ => none
  | .ringDrain _ _ _ => none
  | .narrowRequest _ _ _ _ => none
  | .mergeWriteback _ _ => none
  | .remoteWrite _ _ _ _ => none
  | .handlePush _ _ _ _ _ => none
  | .arvCntWrite _ _ _ _ _ _ => none
  | .packedBlockDecode _ _ _ _ => none
  | .hbmUncorrectedRead _ _ _ _ _ => none
  | .correctedError _ _ _ _ => none
  | .frameRetirement _ => none
  | .migrationQueueEntry => none
  | .migrationStart _ => none
  | .heldWriteRelease _ _ => none
  | .sealComplete _ _ => none
  | .copyupComplete _ _ => none
  | .moveComplete _ _ => none
  | .relocationComplete _ _ _ _ => none
  | .ddrUncorrectedError _ _ _ _ => none
  | .deepPortLinkDown _ => none
  | .nvmeCommandComplete _ _ _ => none
  | .returnTrainingComplete _ _ _ _ _ => none
  | .dqsTracking _ => none
  | .lz2PageMiss _ => none
  | .stagingRecordEntry _ _ _ => none
  | .exchangePhaseStart _ _ _ => none
  | .dataStage _ _ _ => none
  | .receiveRecord _ _ => none
  | .fwdSlot _ _ _ => none
  | .closeStage _ _ => none
  | .exchangeRoundOpen _ => none
  | .stewardHeartbeat => none
  | .stewardTakeover => none
  | .standbyResync => none
  | .stwQidxWrite _ _ => none
  | .stwGcfgWrite _ _ _ => none
  | .faultHoldExpiry _ => none
  | .gloveResetDone _ => none
  | .flitReceive _ _ => none
  | .replayTimeout _ => none
  | .linkTrainingStart _ => none
  | .linkTrainingComplete _ _ _ _ _ => none
  | .laneDrop _ _ => none
  | .linkSignalDetect _ => none
  | .lnkRetrain _ => none
  | .lnkEnableWrite _ _ => none
  | .packetForward _ => none
  | .mgrCfgLock _ _ => none
  | .rackConflict _ _ => none
  | .relayedCommand _ _ => none
  | .workerReport _ _ => none
  | .workerHeartbeatMiss _ _ _ => none
  | .managerTakeover _ => none
  | .epochAnnounce _ => none
  | .managerRoleDecision _ _ _ => none
  | .perstNAssert => none
  | .perstNRelease => none
  | .pfFlr => none
  | .vfFlr _ => none
  | .d3hotEntry _ => none
  | .hostWindowRead _ _ _ _ => none
  | .hostWindowWrite _ _ _ _ => none
  | .commandSlotReceive _ _ _ _ _ => none
  | .commandRingEnable _ _ _ => none
  | .completionRingEnable _ _ _ => none
  | .cqHeadWrite _ _ _ => none
  | .msixModerationTimer _ => none
  | .identify c => some c
  | .setProfile c => some c
  | .setTickPeriod c => some c
  | .setRung c => some c
  | .setRoute c => some c
  | .stewardSwap c => some c
  | .serviceOpFence c => some c
  | .serviceOpUnfence c => some c
  | .serviceOpRetire c => some c
  | .serviceOpFormChain c => some c
  | .serviceOpReturn c _ => some c
  | .keyOpInstall c => some c
  | .keyOpErase c => some c
  | .imageOpStage c => some c
  | .imageOpActivate c => some c
  | .imageOpWriteOtp c => some c
  | .gloveCreate c => some c
  | .gloveDestroy c => some c
  | .gloveReset c => some c
  | .frameAlloc c => some c
  | .frameShare c => some c
  | .frameFree c => some c
  | .gsqWrite c => some c
  | .gsqStart c => some c
  | .gsqStop c => some c
  | .planInstall c => some c
  | .planRemove c => some c
  | .lz2Enable c => some c
  | .lz2Disable c => some c
  | .migrate c => some c
  | .modelRegister c => some c
  | .modelSwitchin c => some c
  | .modelPark c => some c
  | .modelReplace c => some c
  | .adapterLoad c => some c
  | .adapterUnload c => some c
  | .markPublic c => some c
  | .admitSeq c => some c
  | .routeAdmit c => some c
  | .append c => some c
  | .cancel c => some c
  | .pause c => some c
  | .resume c => some c
  | .release c => some c
  | .setEndpointId _ => none
  | .getEndpointId => none
  | .getMctpVersionSupport _ => none
  | .getMessageTypeSupport => none
  | .getVendorDefinedMessageSupport _ => none
  | .getRecord _ => none
  | .getAlerts _ => none
  | .setAlertMask _ => none
  | .aosRead => none
  | .trip _ => none
  | .fence _ _ _ => none
  | .erase _ _ => none
  | .reset _ _ => none
  | .aosReport => none
  | .recordRefresh => none
  | .secActlGo _ _ _ => none
  | .attestationReportReady => none
  | .trngHealthFailure => none
  | .trngRecover => none
  | .powerOn => none
  | .ext _ => none
  | .rail _ => none
  | .thermtrip => none
  | .thermalTrip => none
  | .refclkLoss => none
  | .refclkWindow _ => none
  | .pllWindow _ _ => none
  | .watchdog => none
  | .aosRstreqWrite _ _ => none
  | .vaonLoss => none
  | .resetStretchEnd => none
  | .resetNSample _ => none
  | .otpGenerationSelect => none
  | .aosBringupTakeover => none
  | .aosFirmwareStart => none
  | .railCheck _ => none
  | .controlFirmwareStart => none
  | .selfTestComplete _ _ => none
  | .stackTrainingAttempt _ _ => none
  | .wideTierTrained _ => none
  | .dieRelease _ => none
  | .profileChange => none
  | .rasDrainWrite _ _ => none
  | .partReadyReport _ => none
  | .activationReadyTimeout _ => none
  | .otpBurnComplete _ => none
  | .aosStewardWatchLapse => none
  | .aosManagerWatchLapse => none
  | .patternCycle _ => none
  | .flitTransmit _ => none
  | .moduleHeartbeat _ => none
  | .managerHeartbeat => none
  | .relayedCompletion _ => none
  | .managerResync => none
  | .d3hotExit _ => none
  | .deepPortNvmeReady _ _ _ _ _ => none
  | .stackControllerFailure _ => none
  | .dieToDiePortFailure _ _ => none
  | .waitTickReached _ => none
  | .smbusAddressResolution _ => none
  | .periodChangeReceive _ _ => none

end Sys2Proof
end

