-- ==== Sys2Proof/Safety.lean ====
section
/-! DEFINITION. What claims about the module say of a state: its outcome goes on, its tick block is in order, its memories are in canonical form. -/

namespace Sys2Proof.Machine

/-- The outcome is the next state `t`. -/
abbrev Goes (o : Host.Outcome State Fault Refusal) (t : State) : Prop := o = .next t

/-- The blocks of the state: the tick block, the build, the module state, the compute dies, the array and its memories, the glove sequencers
with their images and patterns, the memory tiers, the gloves, the ledger, the rung, the owner keys, the steward, the links and the rack, the
host endpoint, the AOS, the registers, the node identifier, what the module has put out, the free values used, and the waiting commands. -/
inductive Block where
  | tick | variant | mstate | dies | arr | seq | mem | glv | ledger | rung | keys | stw | net | host | aos | regs | nodeId | out | freeCtr | pending
deriving DecidableEq, Repr

/-- From `s` to `t`, the block stays. -/
def Block.Same (s t : State) : Block → Prop
  | .tick => t.tick = s.tick
  | .variant => t.variant = s.variant
  | .mstate => t.mstate = s.mstate
  | .dies => t.dies = s.dies
  | .arr => t.arr = s.arr
  | .seq => t.seq = s.seq
  | .mem => t.mem = s.mem
  | .glv => t.glv = s.glv
  | .ledger => t.ledger = s.ledger
  | .rung => t.rung = s.rung
  | .keys => t.keys = s.keys
  | .stw => t.stw = s.stw
  | .net => t.net = s.net
  | .host => t.host = s.host
  | .aos => t.aos = s.aos
  | .regs => t.regs = s.regs
  | .nodeId => t.nodeId = s.nodeId
  | .out => t.out = s.out
  | .freeCtr => t.freeCtr = s.freeCtr
  | .pending => t.pending = s.pending

/-- From `s` to `t`, no block changes but those of the list. -/
def State.OnlyChanges (s : State) (l : List Block) (t : State) : Prop := ∀ b : Block, b ∉ l → b.Same s t

/-- A physical-function command `c` of operation `op` is taken from its ring and sets no bit that its row does not name (R508, R514): the checks of the
module's state and of the glove come next, on the state `u`. -/
def State.Accepts (s : State) (c : HostCmd) (op : Nat) (masks : List Nat) (u : State) : Prop :=
  u = s.taken c op ∧ c.func = 0 ∧ reservedSet c masks = false

/-- From `s` to `t` a reset of cause `cause`, cold or warm, is accepted: internal reset is asserted with RESET_N driven low, the count of the stretch
starts again, AOS_RSTCAUSE and AOS_RSTTICK record it, or among causes of one reference cycle the cold one before a warm one and then the lowest code, the
AOS is to begin again, and a reset that finds none asserted, or is the first cold one, ends every glove and rung (R550 to R554). -/
def State.ResetTaken (s : State) (cause : Nat) (cold : Bool) (t : State) : Prop :=
  t.mstate = .reset ∧ t.aos.asserted = true ∧ t.aos.driven = true ∧ t.aos.sampling = false ∧ t.aos.stage = 0 ∧
    t.aos.cold = (cold || (s.aos.asserted && s.aos.cold)) ∧ t.aos.causeAge = 0 ∧ t.aos.causeNew = true ∧ t.aos.causeCold = (s.causeKept cause cold).2 ∧
    (s.aos.asserted = false ∨ s.tick.refclk = false ∨ s.aos.causeNew = false → s.causeKept cause cold = (cause, cold)) ∧
    (s.aos.asserted = true → s.tick.refclk = true → s.aos.causeNew = true → s.causeKept cause cold =
      if (s.aos.causeCold = true ∧ cold = false) ∨ (s.aos.causeCold = cold ∧ s.fld Adr.aosRstcause 0 4 < cause)
      then (s.fld Adr.aosRstcause 0 4, s.aos.causeCold) else (cause, cold)) ∧
    t.reg Adr.aosRstcause = BitVec.ofNat 64
      ((s.causeKept cause cold).1 + (if cold || (s.aos.asserted && s.aos.cold) then 2 ^ 4 else 0) + (if s.aos.asserted ∧ cause ≠ 1 then 2 ^ 5 else 0)) ∧
    t.reg Adr.aosRsttick = BitVec.ofNat 64 (if cause = 1 then 0 else if s.sameCause then (s.reg Adr.aosRsttick).toNat else s.tick.tick) ∧ t.out.head? = some (.pin "RESET_N" false) ∧
    t.aos.otp = s.aos.otp ∧ t.aos.banks = s.aos.banks ∧
    (s.aos.asserted = false ∨ (cold = true ∧ s.aos.cold = false) → t.glv = [] ∧ t.rung = default ∧ t.seq = default) ∧
    (cold = true → s.aos.asserted = false ∨ s.aos.cold = false ∨ cause = 1 → t.tick.tick = 0 ∧ t.mem.near = [] ∧ t.keys = []) ∧
    (cold = false → t.tick.tick = s.tick.tick ∧ t.mem.near = s.mem.near ∧ t.keys = s.keys)

/-- Sequencer `q` runs for a glove on a die that is not stopped, and the word at its program counter, which is marked, is `w` (R208, R209). -/
def State.Fetches (s : State) (q : Nat) (w : Word) : Prop :=
  (s.gsq q).state = .running ∧ (s.gsq q).glove.isSome = true ∧ s.dieStopped (q / 8) = false ∧ s.marked q (s.gsq q).pc = true ∧
    s.seq.store.at (2048 * q + (s.gsq q).pc) = w

/-- From `s` to `t` every other sequencer stays, and so do the program stores and marks, the pattern images and the running patterns. -/
def State.GsqAlone (s : State) (q : Nat) (t : State) : Prop :=
  (∀ r, r ≠ q → t.gsq r = s.gsq r) ∧ t.seq.store = s.seq.store ∧ t.seq.marks = s.seq.marks ∧ t.seq.imgs = s.seq.imgs ∧ t.seq.pats = s.seq.pats

/-- Beside its program counter, its G registers, ST and what it waits for, sequencer `q` stays. -/
def State.GsqHolds (s : State) (q : Nat) (t : State) : Prop :=
  (t.gsq q).glove = (s.gsq q).glove ∧ (t.gsq q).slots = (s.gsq q).slots ∧ (t.gsq q).load = (s.gsq q).load ∧ (t.gsq q).arm = (s.gsq q).arm ∧
    (t.gsq q).sw = (s.gsq q).sw ∧ (t.gsq q).rerun = (s.gsq q).rerun ∧ (t.gsq q).seals = (s.gsq q).seals ∧ (t.gsq q).reports = (s.gsq q).reports

/-- From `s` to `t` sequencer `q` runs on at address `pc` with status `st` and the G registers `g`, and nothing else changes. -/
def State.GsqRan (s : State) (q pc st : Nat) (g : Nat → Word) (t : State) : Prop :=
  s.OnlyChanges [.seq] t ∧ s.GsqAlone q t ∧ s.GsqHolds q t ∧ (t.gsq q).state = .running ∧ (t.gsq q).pc = pc ∧ (t.gsq q).st = st ∧
    ∀ n, n < 16 → t.greg q n = g n

/-- From `s` to `t` sequencer `q` begins to wait for `w`, with a timeout of `tmo` tick periods (0: none), and nothing else changes. -/
def State.GsqWaits (s : State) (q : Nat) (w : WaitFor) (tmo : Nat) (t : State) : Prop :=
  s.OnlyChanges [.seq] t ∧ s.GsqAlone q t ∧ s.GsqHolds q t ∧ (t.gsq q).state = .waiting ∧ (t.gsq q).waitFor = some w ∧
    (t.gsq q).deadline = (if tmo = 0 then none else some (s.tick.tick + tmo, s.tick.phase)) ∧
    (t.gsq q).pc = (s.gsq q).pc ∧ (t.gsq q).st = (s.gsq q).st ∧ (t.gsq q).g = (s.gsq q).g

/-- From `s` to `t` the C-cell at `p` becomes `c`, and nothing else changes. -/
def State.CellBecomes (s : State) (p : Site) (c : CellSt) (t : State) : Prop :=
  s.OnlyChanges [.arr] t ∧ t.cell p.key = c ∧ (∀ k, k ≠ p.key → t.cell k = s.cell k) ∧ t.arr = { s.arr with cells := t.arr.cells }

/-- From `s` to `t` the write `w` of the slot falls due at the cell at `p` at the end of pattern cycle `at_`, and nothing else changes (R152). -/
def State.DueAt (s : State) (p : Site) (at_ slot : Nat) (w : CellWrite) (t : State) : Prop :=
  s.CellBecomes p { s.cell p.key with due := (s.cell p.key).due ++ [⟨at_, w, (s.cell p.key).iss, slot⟩] } t

/-- From `s` to `t` a vector slot's result of latency `l`, whose lane j is `f j`, falls due for register VD under the mask MSK, and nothing else
changes (R142, R143). -/
def State.VectorDue (s : State) (p : Site) (vd msk l : Nat) (f : Nat → Lane) (t : State) : Prop :=
  ∃ v : BitVec 2048, (∀ j, j < 64 → lane v j = f j) ∧ s.DueAt p (s.siteCycle p + l - 1) 2 (.vreg (s.vphys p.key vd) v (s.mask p.key msk)) t

/-- From `s` to `t` the running part of M-cell `g` becomes `m`, and nothing else changes. -/
def State.MCellBecomes (s : State) (g : Nat) (m : MCellSt) (t : State) : Prop :=
  s.OnlyChanges [.arr] t ∧ t.mcell g = m ∧ (∀ k, k ≠ g → t.mcell k = s.mcell k) ∧ t.arr = { s.arr with mcells := t.arr.mcells }

/-- The tick block in order: N lies between 10,000 and 1,000,000 rc, as does the N of a pending change, and the phase is below N (R39, R40, R64). -/
def State.TickOk (s : State) : Prop :=
  10000 ≤ s.tick.n ∧ s.tick.n ≤ 1000000 ∧ s.tick.phase < s.tick.n ∧ ∀ p, s.tick.pend = some p → 10000 ≤ p.1 ∧ p.1 ≤ 1000000

/-- Every waiting command is well formed. -/
def State.QueueOk (s : State) : Prop := ∀ c ∈ s.pending, c.wf = true

end Sys2Proof.Machine
end

