-- ==== Sys2Proof/Certificates/Slice0/Obligations.lean ====
section
/-! DEFINITION. The statements for the provers, one definition each. Every statement of a result says with it that exec answers a next state. -/

open Sys2Proof Sys2Proof.Machine

/-- For every command, every state and every rest of the queue: a step of the state with the command at the front of its queue is the command's
execution on the state with the rest of its queue. In every state every command answers a next state, but for a register write past the 64 MiB of
BAR0. (98_reader.md, 14_host_interface.md, R522) -/
def Obligations.StepRunsTheFrontCommand : Prop :=
  (∀ (c : Instr) (rest : List Instr) (s : State), step { s with pending := c :: rest } = exec c { s with pending := rest }) ∧
  (∀ (c : Instr) (s : State), (∀ a h v, c = .registerWrite 0 a h v → a < Adr.bar0Size) → (∀ a h v e, c = .w1cWrite a h v e → a < Adr.bar0Size) → ∃ t : State, exec c s = .next t)

/-- Whatever command a step runs, when it answers a next state the variant of the module, which GLB_FIT reports, is unchanged, and the queue is what
followed the command that was run; a step on an empty queue leaves it empty. (01_module.md, R35) -/
def Obligations.EveryStepKeepsTheBuildAndTheQueue : Prop :=
  ∀ s t : State, step s = .next t → t.variant = s.variant ∧ t.pending = s.pending.tail

/-- With N, and the N of a pending change, between 10,000 and 1,000,000, with the phase below N and with every waiting command well formed, a step
that answers a next state leads to a state of which the same holds: no command, reset or event can bring the phase to N or past it, or N out of its
range. (02_tick_time.md, R39, R40, R41, R64) -/
def Obligations.EveryStepKeepsTheTickBlockInOrder : Prop :=
  ∀ s t : State, s.TickOk → s.QueueOk → step s = .next t → t.TickOk ∧ t.QueueOk

/-- After reset the module is in RESET with internal reset asserted by POWER_ON, cold, and RESET_N driven low; the tick counter and the phase are 0
and N is 25,000; the rung is S0; no glove lives, no key slot is installed, no sequence is issued, no model is known and no frame is mapped; no command
waits, and the tick block and the queue are in order. AOS_RSTCAUSE reads 0x11, TKE_HOLDLIM 100,000,000, TKE_WAKE 7 and HIF_ALMASK 0x3F; TKE_FALLBACK
holds what the profile 0 of the factory gives; every other stored register holds the reset value of its field table. (16_bringup_reset_clocks.md,
02_tick_time.md, R40, R551, R555, R579) -/
def Obligations.ResetState : Prop :=
  State.reset.mstate = .reset ∧ State.reset.aos.asserted = true ∧ State.reset.aos.cold = true ∧ State.reset.aos.driven = true ∧
    State.reset.tick.tick = 0 ∧ State.reset.tick.phase = 0 ∧ State.reset.tick.n = 25000 ∧ State.reset.rung.rung = 0 ∧
    (∀ g, (State.reset.glove g).live = false) ∧ (∀ k, (State.reset.keys.at k).installed = false) ∧
    (∀ i, (State.reset.seqEnt i).st = .free) ∧ (∀ m, (State.reset.model m).st = .absent) ∧ (∀ f, (State.reset.frame f).mode = .absent) ∧
    State.reset.pending = [] ∧ State.reset.TickOk ∧ State.reset.QueueOk ∧
    State.reset.reg Adr.aosRstcause = 0x11 ∧ State.reset.reg Adr.tkeFallback = 500 ∧ State.reset.reg Adr.tkeHoldlim = 100000000 ∧
    State.reset.reg Adr.tkeWake = 7 ∧ State.reset.reg Adr.hifAlmask = 0x3F ∧
    (∀ a, a ≠ Adr.aosRstcause → a ≠ Adr.tkeFallback → State.reset.reg a = regReset a)

/-- A warm reset, whichever command brings it, and a rung change that is reached or whose entry begins leave every owner key slot as it is; after a
cold reset that finds none asserted no slot holds a key. (R538) -/
def Obligations.KeySlotsAcrossResetsAndRungs : Prop :=
  (∀ s t : State, (exec .watchdog s = .next t ∨ exec .refclkLoss s = .next t ∨ exec .rungChange s = .next t ∨ exec .rungEntryComplete s = .next t ∨ exec .rungEntryAbandon s = .next t) → t.keys = s.keys) ∧
  (∀ (half : Half) (val : Word) (s t : State), exec (.aosRstreqWrite half val) s = .next t → (val.bit 0 = false → half ≠ .hi → t.keys = s.keys) ∧
      (s.aos.asserted = false → s.mstate ≠ .off → half = .whole → val.field 8 8 = 0xA5 → val.field 1 7 = 0 → val.field 16 48 = 0 → val.bit 0 = true → ∀ n, (t.keys.at n).installed = false)) ∧
  (∀ (idx lowRc : Nat) (s t : State), s.aos.asserted = false → s.mstate ≠ .off → (exec (.ext lowRc) s = .next t → s.aos.driven = false → 1000 ≤ lowRc → ∀ n, (t.keys.at n).installed = false) ∧
      (exec (.rail idx) s = .next t → s.aos.watched = true → s.aos.tripped = false → ∀ n, (t.keys.at n).installed = false))

/-- TICK_ADVANCE answers a next state in every state. Where REFCLK is absent nothing changes at all, so neither counter moves. Where it is present,
nothing timed is due, no hold runs and the module is no following rack master, the phase advances by one; when it has reached N - 1 it goes to 0 and
the tick counter advances by one. In a hold of k + 1 reference cycles both counters stand, nothing fires, and k are left. Where nothing is due, the
arrays, the sequencers, the gloves, the ledger, the keys and the bytes of the memories stay, and in a module that is no rack master so do the
registers and the host queues. What is due is in the order of R43 and R44: by time, then by the kind of event, then by glove, then by arming; and
everything timed whose time has come is due. (R60) -/
def Obligations.RefclkCycleAdvancesTheTick : Prop :=
  (∀ s : State, ∃ t : State, exec .tickAdvance s = .next t ∧
    (s.tick.refclk = false → t = s) ∧
    (s.tick.refclk = true → s.due = [] → s.tick.hold = none → s.tick.role ≠ .rackMaster →
      t.tick.phase = (if s.tick.phase + 1 < s.tick.n then s.tick.phase + 1 else 0) ∧
      t.tick.tick = (if s.tick.phase + 1 < s.tick.n then s.tick.tick else s.tick.tick + 1) ∧ t.tick.n = s.tick.n) ∧
    (∀ k, s.tick.refclk = true → s.tick.hold = some (k + 1) →
      t.tick.phase = s.tick.phase ∧ t.tick.tick = s.tick.tick ∧ t.tick.hold = some k) ∧
    (s.due = [] ∨ s.tick.holding = true →
      s.OnlyChanges [.tick, .mem, .stw, .net, .host, .aos, .regs, .out, .freeCtr] t ∧
      t.mem.near = s.mem.near ∧ t.mem.wide = s.mem.wide ∧ t.mem.deep = s.mem.deep ∧ t.mem.tmap = s.mem.tmap ∧
      (s.net.role ≠ 1 → t.regs = s.regs ∧ t.host = s.host))) ∧
  (∀ s : State, s.due.Pairwise (fun a b => a.first b = true) ∧
    ∀ a ∈ s.armedProfile ++ s.armedLedger ++ s.armedTable ++ s.armedOther, s.reached a.tick a.ofs = true → a ∈ s.due)

/-- A 64-bit read of TKE_TICK, or a 32-bit read of its low half, returns the counter or its low half, latches the high half of the tick counter and
the phase of the same cycle and changes nothing else; a read of the high half returns the latched high half and changes nothing else.
(02_tick_time.md, R62) -/
def Obligations.TickReadLatchesTheHighHalf : Prop :=
  ∀ s : State, exec (.tkeTickRead .hi) s = .next { s with out := .regData (s.tick.latchHi.zeroExtend 64) :: s.out } ∧
    ∀ h : Half, h ≠ .hi → exec (.tkeTickRead h) s = .next { s with
      tick := { s.tick with latchHi := BitVec.ofNat 32 (s.tick.tick / 2 ^ 32), latchPhase := s.tick.phase },
      out := .regData (BitVec.ofNat 64 (if h = .lo then s.tick.tick % 2 ^ 32 else s.tick.tick)) :: s.out }

/-- With a change to N = n pending for tick b and the tick counter at b or later, PERIOD_CHANGE answers the state whose N is n with no change pending,
the tick counter unchanged and the phase modulo n; LOFS goes to n - 1 where it is n or more and stays otherwise, and so does GOFS in a rack master or
crown; memories, arrays, gloves, steward, links and host queues stay. With no pending change, or before b, the state is unchanged. (02_tick_time.md,
R633) -/
def Obligations.PendingPeriodTakesEffect : Prop :=
  ∀ s : State,
    (s.tick.pend = none → exec .periodChange s = .next s) ∧
    ∀ n b : Nat, s.tick.pend = some (n, b) →
      (s.tick.tick < b → exec .periodChange s = .next s) ∧
      (b ≤ s.tick.tick → ∃ t : State, exec .periodChange s = .next t ∧
        t.tick.n = n ∧ t.tick.pend = none ∧ t.tick.tick = s.tick.tick ∧ t.tick.phase = s.tick.phase % n ∧
        t.reg Adr.tkeLcfg = (if s.fld Adr.tkeLcfg 0 20 ≥ n then (s.reg Adr.tkeLcfg).setField 0 20 (n - 1) else s.reg Adr.tkeLcfg) ∧
        t.reg Adr.mgrCfg = (if (s.tick.role = .rackMaster ∨ s.tick.role = .crown) ∧ s.fld Adr.mgrCfg 8 20 ≥ n
          then (s.reg Adr.mgrCfg).setField 8 20 (n - 1) else s.reg Adr.mgrCfg) ∧
        t.dies = s.dies ∧ t.arr = s.arr ∧ t.seq = s.seq ∧ t.mem = s.mem ∧ t.glv = s.glv ∧ t.ledger = s.ledger ∧
        t.stw = s.stw ∧ t.net = s.net ∧ t.host = s.host ∧ t.aos = s.aos)

/-- A worker or standby manager that takes a load (tick, phase, N = n, a pending change, the master's state) from its rack master, with phase < n,
answers a next state that is LOCKED, with that N and pending change, that master state and that master as the node followed. In ACQUIRING and
UNLOCKED, where the load lies at or ahead of its own count it reads the loaded tick and phase, and where the load lies behind, both counters stand and
a hold of the difference begins; in LOCKED and HOLDOVER its count stays, the phase modulo n. Any other module is unchanged. (02_tick_time.md, R48,
R57) -/
def Obligations.FollowerTakesTheLoad : Prop :=
  ∀ (s : State) (tick : Word) (phase n m src : Nat) (pend : Option (Nat × Word)),
    (s.tick.role.follows = false → exec (.alignmentLoad tick phase n pend ⟨m, src⟩) s = .next s) ∧
    (s.tick.role.follows = true → phase < n → ∃ t : State, exec (.alignmentLoad tick phase n pend ⟨m, src⟩) s = .next t ∧
      t.tick.own = .locked ∧ t.tick.n = n ∧ t.tick.pend = pend.map (fun p => (p.1, p.2.toNat)) ∧ t.tick.parent = some src ∧
      t.tick.master = TState.ofCode m ∧ t.tick.sinceHeard = 0 ∧
      (s.tick.own = .locked ∨ s.tick.own = .holdover → t.tick.tick = s.tick.tick ∧ t.tick.phase = s.tick.phase % n ∧ t.tick.hold = s.tick.hold) ∧
      (s.tick.own = .acquiring ∨ s.tick.own = .unlocked →
        (s.tick.tick * n + s.tick.phase % n ≤ tick.toNat * n + phase →
          t.tick.tick = tick.toNat ∧ t.tick.phase = phase ∧ t.tick.hold = none) ∧
        (tick.toNat * n + phase < s.tick.tick * n + s.tick.phase % n →
          t.tick.tick = s.tick.tick ∧ t.tick.phase = s.tick.phase % n ∧
          t.tick.hold = some (s.tick.tick * n + s.tick.phase % n - (tick.toNat * n + phase)))) ∧
      t.mem = s.mem ∧ t.arr = s.arr ∧ t.seq = s.seq ∧ t.glv = s.glv ∧ t.stw = s.stw ∧ t.host = s.host)

/-- In a following rack master, a beacon of a module `hops` links from the crown replaces what was known of its sender. The parent is then the known
module of the fewest hops, the lowest node ID among equals. A beacon of the parent sets N and the pending change to the beacon's, CROWN and PARENT to
its crown and sender, FREQ to the measured frequency difference within 200 ppm, and the offset from the crown to the offset from the parent plus the
parent's offset from the crown, where the offset from the parent is this module's time less the beacon's time, timestamp and link delay, rounded to
reference cycles; a beacon of another sender changes nothing but the known modules and the parent. A module of another role is unchanged.
(02_tick_time.md, R53, R54, R66) -/
def Obligations.FollowingRackMasterTakesABeacon : Prop :=
  ∀ (s : State) (b : Beacon) (hops delay : Nat) (freq : Int),
    (s.tick.role ≠ .rackMaster → exec (.beaconReceive b ⟨hops, delay⟩ freq) s = .next s) ∧
    ∀ cs, cs = s.tick.cands.filter (fun p => p.2 ≠ b.sender) ++ [(hops, b.sender)] → s.tick.role = .rackMaster →
      ∃ p ∈ cs, (∀ q ∈ cs, p.1 < q.1 ∨ (p.1 = q.1 ∧ p.2 ≤ q.2)) ∧
        (p.2 ≠ b.sender → exec (.beaconReceive b ⟨hops, delay⟩ freq) s = .next { s with tick := { s.tick with cands := cs, parent := some p.2 } }) ∧
        (p.2 = b.sender → ∃ t : State, exec (.beaconReceive b ⟨hops, delay⟩ freq) s = .next t ∧
          t.tick.n = b.n ∧ t.tick.pend = b.pend.map (fun p => (p.1, p.2.toNat)) ∧ t.tick.parent = some b.sender ∧ t.tick.cands = cs ∧
          t.tick.crown = some b.crown ∧ t.tick.freq = max (-200000) (min 200000 freq) ∧ t.tick.ofsNs = beaconOfsNs s.tick b delay ∧
          t.tick.crownOfs = (beaconOfsNs s.tick b delay + 5) / 10 + b.crownOfs ∧ t.tick.tick = s.tick.tick ∧ t.tick.role = .rackMaster ∧
          t.mem = s.mem ∧ t.arr = s.arr ∧ t.seq = s.seq ∧ t.glv = s.glv ∧ t.stw = s.stw ∧ t.host = s.host)

/-- What a measured offset of d rc does by the table of R57: in ACQUIRING or UNLOCKED, |d| of 10,000 or less is slewed and LOCKED is entered at 20 or
less, and a larger d waits to be stepped or held; in LOCKED, |d| above 23 enters UNLOCKED; in HOLDOVER, LOCKED is entered again. The command
BEACON_RECEIVE applies exactly this to the offset that it measures. (02_tick_time.md, R57) -/
def Obligations.OffsetsMoveARackMasterBetweenTickStates : Prop :=
  (∀ (s : State) (d : Int), (s.tick.own = .acquiring ∨ s.tick.own = .unlocked) →
    (d.natAbs ≤ 10000 → (s.measured d).tick.slew = d ∧ ((s.measured d).tick.own = .locked ↔ d.natAbs ≤ 20)) ∧
    (10000 < d.natAbs → (s.measured d).tick.stepPend = some d ∧ (s.measured d).tick.own = s.tick.own)) ∧
  (∀ (s : State) (d : Int), s.tick.own = .locked →
    (23 < d.natAbs → (s.measured d).tick.own = .unlocked ∧
      (if d.natAbs > 10000 then (s.measured d).tick.stepPend = some d else (s.measured d).tick.slew = d)) ∧
    (d.natAbs ≤ 23 → (s.measured d).tick.own = .locked ∧ (s.measured d).tick.slew = d)) ∧
  (∀ (s : State) (d : Int), s.tick.own = .holdover → (s.measured d).tick.own = .locked ∧ (s.measured d).tick.slew = d)

/-- A module other than the crown that has heard nothing for eight beacon intervals loses its parent: with no candidate, in LOCKED, it enters
HOLDOVER, its frequency correction kept; with candidates it follows the one of the fewest hops, the lowest node ID among equals. Before eight
intervals nothing changes. When TKE_HOLDLIM reference cycles have passed in HOLDOVER, a rack master that is the lowest of those that reach one another
becomes the crown, LOCKED, with its own count; any other module enters UNLOCKED; before that, or outside HOLDOVER, nothing changes. Of two crowns that
meet, the one with the higher node ID becomes a rack master again and enters UNLOCKED; the other is unchanged. (02_tick_time.md, R56, R57) -/
def Obligations.HoldoverAndCrowns : Prop :=
  (∀ (s : State) (cand : List (Nat × Nat)), s.tick.role ≠ .crown →
    (s.tick.sinceHeard < 8 * s.tick.interval → exec (.parentLost cand) s = .next s) ∧
    (8 * s.tick.interval ≤ s.tick.sinceHeard →
      (cand = [] → s.tick.own = .locked → ∃ t : State, exec (.parentLost cand) s = .next t ∧ t.tick.parent = none ∧
        t.tick.own = .holdover ∧ t.tick.freq = s.tick.freq ∧ t.tick.tick = s.tick.tick ∧ t.tick.phase = s.tick.phase) ∧
      (∀ p, chooseParent cand = some p → p ∈ cand ∧ (∀ q ∈ cand, p.1 < q.1 ∨ (p.1 = q.1 ∧ p.2 ≤ q.2)) ∧
        exec (.parentLost cand) s = .next { s with tick := { s.tick with parent := some p.2, cands := cand, sinceHeard := 0 } }))) ∧
  (∀ (s : State) (reach : List Nat),
    (s.tick.own ≠ .holdover ∨ s.tick.hovr < (s.reg Adr.tkeHoldlim).toNat → exec (.holdoverLimitExpiry reach) s = .next s) ∧
    (s.tick.own = .holdover → (s.reg Adr.tkeHoldlim).toNat ≤ s.tick.hovr → ∃ t : State, exec (.holdoverLimitExpiry reach) s = .next t ∧
      t.tick.tick = s.tick.tick ∧ t.tick.phase = s.tick.phase ∧
      (if s.tick.role = .rackMaster ∧ reach.foldl min (s.nodeId.getD 0x1FFF) = s.nodeId.getD 0x1FFF
       then t.tick.own = .locked ∧ t.tick.role = .crown ∧ t.tick.parent = none ∧ (∀ n, s.nodeId = some n → n ≠ 0x1FFF → t.tick.crown = some n)
       else t.tick.own = .unlocked ∧ t.tick.role = s.tick.role))) ∧
  (∀ (s : State) (other : Nat), s.tick.role = .crown → ∃ t : State, exec (.crownMeet other) s = .next t ∧
    (if other < s.nodeId.getD 0x1FFF then t.tick.own = .unlocked ∧ t.tick.role = .rackMaster ∧ t.tick.crown = some other ∧ t.tick.parent = some other
     else t = s))

/-- At a tick boundary (phase 0) outside LOCKED and HOLDOVER, a pending offset d behind the crown steps the count forward by |d| rc, and a pending
offset ahead starts a hold of |d| rc; the count that results goes to the followers with the reference cycle it names. A hold whose cycles have passed
ends. A rack master or crown sends a beacon with its tick, phase, N, pending change and offset once min(N, 100,000) reference cycles have passed since
the last. A LOCKED follower whose check of R50 finds it more than 1 rc away enters UNLOCKED; a rack master that finds a follower so notes it and loads
it again. A module with no change pending takes the crown's accepted change. (02_tick_time.md, R41, R50, R53, R58) -/
def Obligations.StepsHoldsAndBeaconsLeaveTheRest : Prop :=
  (∀ (s : State) (d : Int), s.tick.stepPend = some d → s.tick.phase = 0 → s.tick.own ≠ .locked → s.tick.own ≠ .holdover →
    ∃ t : State, exec .tickStepOrHold s = .next t ∧ t.tick.stepPend = none ∧ t.tick.slew = 0 ∧
      (d < 0 → t.tick.tick = (s.nowRc + d.natAbs) / s.tick.n ∧ t.tick.phase = (s.nowRc + d.natAbs) % s.tick.n ∧
        t.out = .tickLoad none s.nowRc (t.nowRc / s.tick.n) (t.nowRc % s.tick.n) s.tick.n s.tick.pend 0 s.tick.own.code :: s.out) ∧
      (0 ≤ d → t.tick.tick = s.tick.tick ∧ t.tick.phase = 0 ∧ t.tick.hold = some d.natAbs ∧
        t.out = .tickLoad none s.nowRc ((s.nowRc - d.natAbs) / s.tick.n) ((s.nowRc - d.natAbs) % s.tick.n) s.tick.n s.tick.pend 0 s.tick.own.code :: s.out)) ∧
  (∀ s : State, s.tick.hold = some 0 → exec .counterHoldEnd s = .next { s with tick := { s.tick with hold := none } }) ∧
  (∀ (s : State) (sub : Nat), s.tick.role.follows = false → min s.tick.n 100000 ≤ s.tick.sinceSent → ∃ b : Beacon,
    exec (.beaconSend sub) s = .next { s with tick := { s.tick with sinceSent := 0 }, out := .beacon b :: s.out } ∧ b.tick = BitVec.ofNat 64 s.tick.tick ∧
      b.phase = s.tick.phase ∧ b.sub = sub ∧ b.n = s.tick.n ∧ b.crownOfs = (if s.tick.role = .crown then 0 else s.tick.crownOfs) ∧
      b.pend = s.tick.pend.map (fun p => (p.1, BitVec.ofNat 64 p.2))) ∧
  (∀ (s : State) (n : Nat) (δ : Int) (m : Nat), s.tick.role.follows = true → s.nodeId = some n → s.tick.own = .locked → 1 < δ.natAbs →
    ∃ t : State, exec (.beaconCheck n ⟨δ, m⟩) s = .next t ∧ t.tick = { s.tick with own := .unlocked, master := TState.ofCode m, sinceHeard := 0 }) ∧
  (∀ (s : State) (n : Nat) (δ : Int) (m : Nat), s.tick.role.follows = false → 1 < δ.natAbs →
    ∃ t : State, exec (.beaconCheck n ⟨δ, m⟩) s = .next t ∧ n ∈ t.tick.stray ∧
      t.out = .tickLoad (some n) s.nowRc (s.nowRc / s.tick.n) (s.nowRc % s.tick.n) s.tick.n s.tick.pend 0 s.tick.own.code :: s.out) ∧
  (∀ (s : State) (n : Nat) (b : Word), s.tick.pend = none →
    exec (.periodChangeReceive n b) s = .next { s with tick := { s.tick with pend := some (n, b.toNat) } })

/-- With the BAR open, a write of TKE_HOLDLIM by the physical function, of the whole register or of one half, whose resulting word lies from 1,000,000
to 6,000,000,000 sets the register to that word and no other register; a resulting word outside that range changes nothing at all. (R68) -/
def Obligations.HoldoverLimitRange : Prop :=
  (∀ (half : Half) (val w : Word) (s : State), s.barOpen 0 = true → w = mergeHalf half (s.reg Adr.tkeHoldlim) val → ∃ t : State, exec (.registerWrite 0 Adr.tkeHoldlim half val) s = .next t ∧ s.OnlyChanges [.regs] t ∧
      (1000000 ≤ w.toNat → w.toNat ≤ 6000000000 → t.reg Adr.tkeHoldlim = w ∧ ∀ a, a ≠ Adr.tkeHoldlim → t.reg a = s.reg a) ∧ (w.toNat < 1000000 ∨ 6000000000 < w.toNat → t = s))

/-- SCHEDULE_FAULT and CELL_EXCEPTION complete in every state. For a pattern that does not run they change nothing. For a running pattern with no stop
decided, whose glove is live and neither faulted nor in a reset, the pattern stops before cycle c + L_f, c being the cycle of the fault, and never
resumes; the glove is faulted with cause 1 (schedule fault) or 2 (cell exception), and its sequencer stands in FAULTED. The tick block, dies, links,
ledger, rung, keys, AOS and module state stay. (03_cell_array.md, R100) -/
def Obligations.ScheduleFaultsAndCellExceptionsStopTheirPattern : Prop :=
  (∀ (f : SFault) (s : State), ∃ t : State, exec (.scheduleFault f) s = .next t ∧ s.OnlyChanges [.dies, .arr, .seq, .mem, .glv, .stw, .host, .regs, .out, .freeCtr] t ∧
      (s.patRuns f.glove = false → t = s) ∧
      (s.patRuns f.glove = true → (s.pat f.glove).stopAt = none → (s.pat f.glove).cycle < f.cycle + (s.pat f.glove).lf →
        (s.glove f.glove).live = true → (s.glove f.glove).resetting = false → (s.glove f.glove).faulted = none → (s.glove f.glove).stuck = false →
        (t.pat f.glove).faulted = true ∧ (t.pat f.glove).stopAt = some (f.cycle + (s.pat f.glove).lf) ∧
        (∃ b, (t.glove f.glove).faulted = some (1, b)) ∧ (t.gsq (s.glove f.glove).gsq).state = .faulted)) ∧
  (∀ (f : XFault) (s : State), ∃ t : State, exec (.cellException f) s = .next t ∧ s.OnlyChanges [.dies, .arr, .seq, .mem, .glv, .stw, .host, .regs, .out, .freeCtr] t ∧
      (s.patRuns f.glove = false → t = s) ∧
      (s.patRuns f.glove = true → (s.pat f.glove).stopAt = none → (s.pat f.glove).cycle < f.cycle + (s.pat f.glove).lf →
        (s.glove f.glove).live = true → (s.glove f.glove).resetting = false → (s.glove f.glove).faulted = none → (s.glove f.glove).stuck = false →
        (t.pat f.glove).faulted = true ∧ (t.pat f.glove).stopAt = some (f.cycle + (s.pat f.glove).lf) ∧
        (∃ b, (t.glove f.glove).faulted = some (2, b)) ∧ (t.gsq (s.glove f.glove).gsq).state = .faulted))

/-- PORT_FREEZE, FREEZE_RELEASE and PATTERN_RESUME complete in every state. A port that raises freeze at pattern cycle c in a running pattern with no
stop decided joins the frozen ports, and the pattern stops before cycle c + L_f. A frozen port whose skid condition no longer holds leaves the frozen
ports. The frozen pattern with no port left, its L_f array cycles after the last release passed, no fault, no rerun, its dies running at equal steps
and no switch held resumes at the cycle where it stopped; while cycles of these are left it does not. Where nothing of this holds the state is
unchanged. Only sequencer state and registers (flags, counters and the log of the last freeze) may change at a raise, and only sequencer state at a
release. (03_cell_array.md, R94) -/
def Obligations.FreezesHoldAndResumeThePattern : Prop :=
  (∀ (g : Nat) (p : PortRef) (s : State), ∃ t : State, exec (.portFreeze g p) s = .next t ∧ s.OnlyChanges [.dies, .arr, .seq, .mem, .glv, .stw, .host, .regs, .out, .freeCtr] t ∧
      (s.patRuns g = false → t = s) ∧
      (s.patRuns g = true → (s.pat g).faulted = false → (s.pat g).stopped = false → (s.pat g).stopAt = none →
        (s.pat g).frozen.contains p = false → (s.pat g).released.contains p = false →
        (t.pat g).frozen = (s.pat g).frozen ++ [p] ∧ (t.pat g).freezing = true ∧ (t.pat g).stopAt = some ((s.pat g).cycle + (s.pat g).lf))) ∧
  (∀ (g : Nat) (p : PortRef) (s : State), ∃ t : State, exec (.freezeRelease g p) s = .next t ∧ s.OnlyChanges [.seq] t ∧
      ((s.pat g).frozen.contains p = false → t = s) ∧
      ((s.pat g).frozen.contains p = true →
        (∀ q ∈ State.imgSites (s.img g (s.pat g).slot), q.isC = false → q.die = p.die → q.row = p.row →
          (s.blocked q.mcell (s.pat g).lf 0 (((s.pat g).stopAt.getD (s.pat g).cycle) - 1)).contains p = false) →
        (t.pat g).frozen = (s.pat g).frozen.filter (· ≠ p) ∧ (t.pat g).stopAt = (s.pat g).stopAt ∧ (t.pat g).cycle = (s.pat g).cycle ∧
        ((s.pat g).frozen.filter (· ≠ p) = [] → (t.pat g).thaw = (s.pat g).lf))) ∧
  (∀ (g : Nat) (s : State), ∃ t : State, exec (.patternResume g) s = .next t ∧ s.OnlyChanges [.dies, .arr, .seq, .mem, .glv, .ledger, .stw, .host, .aos, .regs, .out, .freeCtr] t ∧
      (s.patFrozen g = false → t = s) ∧
      (s.patFrozen g = true → (s.pat g).frozen = [] → (s.pat g).thaw = 0 → (s.pat g).faulted = false → (s.pat g).stopped = false → (s.pat g).heldSwitch = false →
        ((s.patDies g).any fun k => s.dieStopped k) = false → s.stepsEqual (s.patDies g) = true →
        (t.pat g).freezing = false ∧ (t.pat g).stopAt = none ∧ (t.pat g).cycle = (s.pat g).cycle ∧ (t.pat g).released = [] ∧ t.regs = s.regs) ∧
      (∀ k, s.patFrozen g = true → (s.pat g).thaw = k + 1 → t = s))

/-- CROSSING_MARGIN_LOSS, CROSSING_RETRAIN_COMPLETE, CELL_FAILURE and CHAIN_FORM complete in every state. A crossing that loses margin sets MARGIN_LOW
and clears TRAINED at both its ends; with no pattern across it no sequencer state changes, and a single pattern across it gets the schedule fault of
cause 6 at the port of the edge. When the retraining of a crossing between two released, unfenced dies completes, both ends read TRAINED and not
MARGIN_LOW; beside a fenced die nothing changes. Where no die lies beyond the edge nothing changes. A failed C-cell of a row with a sound spare, no
chain and no wait, whose palms are free, gets its chain in the same step; a failure already known changes nothing. A waiting chain whose palms are
free and whose spare is sound is formed and waits no more, and with no chain waiting CHAIN_FORM changes nothing. (03_cell_array.md, R90, R104, R106)
-/
def Obligations.LatticeCrossingsAndRepairChains : Prop :=
  (∀ (die edge chan : Nat) (s : State), ∃ t : State, exec (.crossingMarginLoss die ⟨edge, chan⟩) s = .next t ∧ s.OnlyChanges [.dies, .arr, .seq, .mem, .glv, .stw, .host, .regs, .out, .freeCtr] t ∧
      (dieBeyond die edge = none → t = s) ∧
      (∀ o, edge < 4 → dieBeyond die edge = some o → s.edgeGloves die o = [] →
        (∀ k, t.arr.edges.at k = (if k = 4 * die + edge ∨ k = 4 * o + edgeBack edge then { s.arr.edges.at k with marginLow := true, trained := false } else s.arr.edges.at k)) ∧
        t.seq = s.seq ∧ t.flag (Adr.arrEvt die) 2 = true) ∧
      (∀ o g, dieBeyond die edge = some o → s.edgeGloves die o = [g] → s.patRuns g = true → ∃ u : State, u.seq = s.seq ∧
        exec (.scheduleFault { glove := g, cause := 6, die := die, row := (edgeSite edge chan).1, col := (edgeSite edge chan).2.1, ctx := (s.pat g).slot, port := (edgeSite edge chan).2.2, cycle := (s.pat g).cycle }) u = .next t)) ∧
  (∀ (die edge : Nat) (s : State), ∃ t : State, exec (.crossingRetrainComplete die edge) s = .next t ∧ s.OnlyChanges [.arr] t ∧
      (∀ o, edge < 4 → dieBeyond die edge = some o → (s.dies.at die).bring = 4 → s.dieFenced die = false → (s.dies.at o).bring = 4 → s.dieFenced o = false →
        ∀ k, t.arr.edges.at k = (if k = 4 * die + edge ∨ k = 4 * o + edgeBack edge then { trained := true, marginLow := false } else s.arr.edges.at k)) ∧
      (s.dieFenced die = true ∨ dieBeyond die edge = none → t = s)) ∧
  (∀ (die row : Nat) (kind : FailKind) (col : Nat) (s : State), ∃ t : State, exec (.cellFailure die row kind col) s = .next t ∧ s.OnlyChanges [.arr, .seq, .mem, .glv, .stw, .host, .regs, .out, .freeCtr] t ∧
      (s.arr.failed.contains (die, row, kind, col) = true → t = s) ∧
      (die < 8 → row < 24 → col ≤ 24 → kind = .cell .c → s.arr.failed.contains (die, row, kind, col) = false → (s.repair die row).cCol = none →
        (s.repair die row).cWait = none → (s.repair die row).cSpareOk = true → s.chainFree die row col = true →
        t.arr.failed = s.arr.failed ++ [(die, row, kind, col)] ∧ (t.repair die row).cCol = some col ∧ (t.repair die row).mCol = (s.repair die row).mCol)) ∧
  (∀ (die row : Nat) (kind : Kind) (s : State), ∃ t : State, exec (.chainForm die row kind) s = .next t ∧ s.OnlyChanges [.arr, .regs] t ∧
      (State.chainWait (s.repair die row) kind = none → t = s) ∧
      (∀ f, State.chainWait (s.repair die row) kind = some f → s.chainFree die row f = true → State.spareOk (s.repair die row) kind = true →
        State.chainOf (t.repair die row) kind = some f))

/-- PATTERN_SWITCH, PATTERN_DONE, ARMED_SWITCH and LOAD_COMPLETE complete in every state; with nothing pending they change nothing. An admitted switch
with every die of its image running, every edge that joins its palms trained, no fault or rerun of the active pattern, no LZ2 wait, no freeze, no
round of an exchange of its glove, and its dies at one step, is taken: the pattern of the requested slot starts at cycle 0 with no fault, and the
request is gone. A running pattern whose last condition holds is done. An armed switch whose turn it is (its cycle is reached, in a glove that is not
faulted, and no event of R43 that is due stands before it) is armed no more: it becomes a request for its slot, or, when its slot was not loaded at
the arming, the status is SLOT_NOT_READY. A load that ends leaves no load running, the status of the load at its slot, and the slot LOADED or FAILED.
(06_patterns_sections.md, 04_aqvex_cell_isa.md, R155, R203, R207, R215, R216) -/
def Obligations.SwitchesAndLoadsEndAsTheSequencerSees : Prop :=
  (∀ (g : Nat) (vcore : List Nat) (s : State), ∃ t : State, exec (.patternSwitch g vcore) s = .next t ∧ s.OnlyChanges [.dies, .arr, .seq, .mem, .glv, .ledger, .stw, .host, .aos, .regs, .out, .freeCtr] t ∧
      (s.gsqOf g = none → t = s) ∧
      (∀ q r, s.gsqOf g = some q → (s.gsq q).sw = some r → r.admitted = true → (∀ k ∈ maskDies (s.img g r.slot).dies, s.dieStopped k = false) →
        (∀ a ∈ maskDies (s.img g r.slot).dies, ∀ b ∈ maskDies (s.img g r.slot).dies, dieNext a b = true → edgeJoined (s.img g r.slot).palms a b = true →
          (s.arr.edges.at (4 * a + (if b = a + 1 then 1 else if a = b + 1 then 0 else if b = a + 4 then 3 else 2))).trained = true) →
        (s.pat g).faulted = false → (s.pat g).stopped = false → s.drainWaits g = false → s.patFrozen g = false →
        s.stepsEqual (maskDies (s.img g r.slot).dies) = true → s.exchanging g = false →
        (t.pat g).valid = true ∧ (t.pat g).slot = r.slot ∧ (t.pat g).cycle = 0 ∧ (t.pat g).faulted = false ∧ (t.pat g).done = false ∧ (t.gsq q).sw = none)) ∧
  (∀ (g : Nat) (vcore : List Nat) (s : State), ∃ t : State, exec (.patternDone g vcore) s = .next t ∧ s.OnlyChanges [.dies, .arr, .seq, .glv, .aos, .regs, .out] t ∧
      (s.patRuns g = false → t = s) ∧
      (∀ q, s.gsqOf g = some q → s.patRuns g = true → (s.pat g).faulted = false → (s.pat g).stopped = false → s.patEnds g = true →
        (t.pat g).done = true ∧ (t.pat g).slot = (s.pat g).slot)) ∧
  (∀ (g : Nat) (s : State), ∃ t : State, exec (.armedSwitch g) s = .next t ∧ s.OnlyChanges [.dies, .seq, .glv, .aos, .regs, .out] t ∧
      (s.gsqOf g = none → t = s) ∧
      (∀ q a, s.gsqOf g = some q → (s.gsq q).arm = some a → (s.turn (.switch g) = false → t = s) ∧ (s.turn (.switch g) = true →
        (a.was = .loaded → (t.gsq q).arm = none) ∧ (a.was ≠ .loaded → (s.gsq q).waitFor = none → (t.gsq q).arm = none ∧ (t.gsq q).swStatus = stSlotNotReady)))) ∧
  (∀ (g : Nat) (s : State), ∃ t : State, exec (.loadComplete g) s = .next t ∧ s.OnlyChanges [.arr, .seq, .glv, .regs] t ∧
      (s.gsqOf g = none → t = s) ∧
      (∀ q slot ta, s.gsqOf g = some q → (s.gsq q).load = some (slot, ta) → (s.gsq q).arm = none → (s.gsq q).waitFor = none →
        (t.gsq q).load = none ∧ (t.gsq q).loadSt = setPad (s.gsq q).loadSt slot (s.loadImage g slot ta).2 0 ∧
        (t.gsq q).slots = setPad (s.gsq q).slots slot (if (s.loadImage g slot ta).2 = stOK then .loaded else .failed) .empty))

/-- CLOCK_STEP_CHANGE, THERMAL_SAMPLE, RERUNNABLE_DETECTION and PATTERN_CYCLE complete in every state. A die raising its clock to the named step stops
its clock for 64 reference cycles once the voltage regulator reads back the set-point of that step, and waits while it reads back another; a die whose
64 cycles have passed takes the step and steps no more, and, where the step is slower, its VCORE set-point falls after; any other step named changes
nothing. A sample sets the temperature and the heat budget of the die sampled: in hundredths of a W, 38,000 at or below TSOFT, falling linearly to 0
at 105 °C. A detection of a glove with no sequencer is counted and logged and stops no pattern. A context that holds no pattern, one with a stopped
die, or one whose dies are at different steps executes no cycle; a running one with no stop decided, whose dies all run, has its next cycle after it,
whatever its cells do. (R78, R225, R436, R437) -/
def Obligations.ClockStepsHeatAndPatternCycles : Prop :=
  (∀ (die step mv : Nat) (s : State), ∃ t : State, exec (.clockStepChange die ⟨step, mv⟩) s = .next t ∧ s.OnlyChanges [.dies, .aos, .regs, .out] t ∧
      ((s.die die).raising ≠ some step → (s.die die).stepping ≠ some step → t = s) ∧
      ((s.die die).raising = some step → mv = State.vcoreOf step → (t.die die).stepping = some step ∧ (t.die die).raising = none ∧ (t.die die).stepEnd = s.tick.rcs + 64 ∧ (t.die die).step = (s.die die).step) ∧
      ((s.die die).raising = some step → mv ≠ State.vcoreOf step → t = s) ∧
      ((s.die die).raising = none → (s.die die).stepping = some step → s.tick.rcs < (s.die die).stepEnd → t = s) ∧
      ((s.die die).raising = none → (s.die die).stepping = some step → (s.die die).stepEnd ≤ s.tick.rcs → (t.die die).step = step ∧ (t.die die).stepping = none ∧ (t.die die).temp = (s.die die).temp ∧
        ((s.die die).step < step → (t.die die).vcore = State.vcoreOf step))) ∧
  (∀ (temps : List Nat) (s : State), ∃ t : State, exec (.thermalSample temps) s = .next t ∧ s.OnlyChanges [.mstate, .dies, .arr, .seq, .mem, .glv, .stw, .net, .host, .aos, .regs, .out, .freeCtr] t ∧
      (∀ x, temps = [x] → (t.die 0).temp = x ∧ (t.die 0).pb = heatBudget x (s.fld Adr.tkeLcfg 37 7))) ∧
  (∀ (d : Detection) (cycle : Nat) (s : State), ∃ t : State, exec (.rerunnableDetection d cycle) s = .next t ∧ s.OnlyChanges [.arr, .seq, .mem, .glv, .stw, .host, .aos, .regs, .out, .freeCtr] t ∧
      (d.kind ≠ 3 → s.gsqOf d.glove = none → t.seq = s.seq ∧ t.glv = s.glv ∧ t.mem = s.mem)) ∧
  (∀ (g : Nat) (s : State), ∃ t : State, exec (.patternCycle g) s = .next t ∧ s.OnlyChanges [.dies, .arr, .seq, .mem, .glv, .ledger, .stw, .host, .aos, .regs, .out, .freeCtr] t ∧
      ((s.pat g).valid = false → t = s) ∧
      (((s.patDies g).any fun k => s.dieStopped k) = true → t = s) ∧
      (s.patRuns g = true → (s.pat g).stopAt = none → ((s.patDies g).any fun k => s.dieStopped k) = false → s.stepsEqual (s.patDies g) = true → (t.pat g).cycle = (s.pat g).cycle + 1) ∧
      (s.stepsEqual (s.patDies g) = false → t = s))

/-- WAIT_TIMEOUT, WAIT_TICK_REACHED, WORK_COUNTER_CLAIM and WKC_WRITE complete in every state. At its deadline a waiting sequencer gets status TIMEOUT
(03) and runs on at the next address; at the awaited (tick, offset) it gets status OK and runs on; otherwise nothing changes. A claim by a glove that
owns the M-cell returns NEXT and advances it by the claim up to LIMIT, and at LIMIT returns FFFFFFFF and changes no counter; a 64-bit claim is
refused. A system write to NEXT or LIMIT sets it; a LIMIT of all ones is refused, and the high half does not exist. (06_patterns_sections.md, R212) -/
def Obligations.WaitsAndWorkCountersEnd : Prop :=
  (∀ (q : Nat) (s : State), ∃ t : State, exec (.waitTimeout q) s = .next t ∧ s.OnlyChanges [.seq, .regs] t ∧
      ((s.gsq q).deadline = none → t = s) ∧
      (∀ d, (s.gsq q).deadline = some d → (s.gsq q).state = .waiting → s.reached d.1 d.2 = true →
        (t.gsq q).st = 0x03 ∧ (t.gsq q).pc = (s.gsq q).pc + 1 ∧ (t.gsq q).state = .running ∧ (t.gsq q).deadline = none ∧ (t.gsq q).g = (s.gsq q).g)) ∧
  (∀ (q : Nat) (s : State), ∃ t : State, exec (.waitTickReached q) s = .next t ∧ s.OnlyChanges [.seq] t ∧
      (∀ k o, (s.gsq q).waitFor = some (.tick k o) → (s.reached k o = false → t = s) ∧
        (s.reached k o = true → (t.gsq q).st = stOK ∧ (t.gsq q).pc = (s.gsq q).pc + 1 ∧ (t.gsq q).state = .running ∧ (t.gsq q).waitFor = none ∧ t.regs = s.regs))) ∧
  (∀ (die m n : Nat) (who : Requester) (a : BitVec 32) (wide : Bool) (s : State), ∃ t : State, exec (.workCounterClaim die m n who a wide) s = .next t ∧ s.OnlyChanges [.regs, .out] t ∧
      (wide = true → t.reg (Adr.wkcNext die m n) = s.reg (Adr.wkcNext die m n) ∨ Adr.wkcNext die m n = Adr.gsqCntWkref die) ∧
      (wide = false → s.whoStopped who = false → s.whoGlove who = none → s.wkNext die m n < s.wkLimit die m n →
        t.reg (Adr.wkcNext die m n) = BitVec.ofNat 64 (min (s.wkNext die m n + a.toNat) (s.wkLimit die m n)) ∧
        t.out = .readData (some (toBytes (s.wkNext die m n) 4)) false :: s.out) ∧
      (wide = false → s.whoStopped who = false → s.whoGlove who = none → s.wkLimit die m n ≤ s.wkNext die m n → t.regs = s.regs ∧ t.out = .readData (some (toBytes 0xFFFFFFFF 4)) false :: s.out)) ∧
  (∀ (die m n : Nat) (limit : Bool) (half : Half) (val : Word) (s : State), ∃ t : State, exec (.wkcWrite die m n limit half val) s = .next t ∧ s.OnlyChanges [.regs] t ∧
      (half = .hi → t = s) ∧
      (half ≠ .hi → limit = false → t = s.setReg (Adr.wkcNext die m n) (BitVec.ofNat 64 (val.field 0 32))) ∧
      (half ≠ .hi → limit = true → val.field 0 32 ≠ 0xFFFFFFFF → t = s.setReg (Adr.wkcLimit die m n) (BitVec.ofNat 64 (val.field 0 32))) ∧
      (half ≠ .hi → limit = true → val.field 0 32 = 0xFFFFFFFF → t = s.count (Adr.gsqCntWkref die)))

/-- Each of NOP, LI, LIH, ADDI and ADD completes in every state. When the sequencer runs and fetches its word, it goes to the next address with ST
unchanged, and changes at most G[GD]: LI writes sext(IMM), LIH puts IMM into bits [63:32], ADDI writes G[GA] + sext(IMM), ADD writes G[GA] + G[GB]; a
write to G0 is ignored. No other register, sequencer, pattern, memory, glove or register changes. A sequencer that does not run changes nothing.
(06_patterns_sections.md, R208, R209, R210, R211) -/
def Obligations.SequencerArithmetic : Prop :=
  (∀ (q : Nat) (s : State), ∃ t : State, exec (.gsqNop q) s = .next t ∧ s.OnlyChanges [.arr, .seq, .mem, .glv, .stw, .host, .regs, .out, .freeCtr] t ∧
      (s.Fetches q (gsqEnc 0x00 []) → s.GsqRan q ((s.gsq q).pc + 1) (s.gsq q).st (s.greg q) t)) ∧
  (∀ (q gd : Nat) (imm : BitVec 32) (s : State), ∃ t : State, exec (.li q gd imm) s = .next t ∧ s.OnlyChanges [.arr, .seq, .mem, .glv, .stw, .host, .regs, .out, .freeCtr] t ∧
      (s.Fetches q (gsqEnc 0x01 [(54, 4, gd), (0, 32, imm.toNat)]) → s.GsqRan q ((s.gsq q).pc + 1) (s.gsq q).st (fun n => if n = gd ∧ gd ≠ 0 then imm.signExtend 64 else s.greg q n) t)) ∧
  (∀ (q gd : Nat) (imm : BitVec 32) (s : State), ∃ t : State, exec (.lih q gd imm) s = .next t ∧ s.OnlyChanges [.arr, .seq, .mem, .glv, .stw, .host, .regs, .out, .freeCtr] t ∧
      (s.Fetches q (gsqEnc 0x02 [(54, 4, gd), (0, 32, imm.toNat)]) → s.GsqRan q ((s.gsq q).pc + 1) (s.gsq q).st (fun n => if n = gd ∧ gd ≠ 0 then (s.greg q gd).setField 32 32 imm.toNat else s.greg q n) t)) ∧
  (∀ (q gd ga : Nat) (imm : BitVec 32) (s : State), ∃ t : State, exec (.addi q gd ga imm) s = .next t ∧ s.OnlyChanges [.arr, .seq, .mem, .glv, .stw, .host, .regs, .out, .freeCtr] t ∧
      (s.Fetches q (gsqEnc 0x03 [(54, 4, gd), (50, 4, ga), (0, 32, imm.toNat)]) → s.GsqRan q ((s.gsq q).pc + 1) (s.gsq q).st (fun n => if n = gd ∧ gd ≠ 0 then s.greg q ga + imm.signExtend 64 else s.greg q n) t)) ∧
  (∀ (q gd ga gb : Nat) (s : State), ∃ t : State, exec (.add q gd ga gb) s = .next t ∧ s.OnlyChanges [.arr, .seq, .mem, .glv, .stw, .host, .regs, .out, .freeCtr] t ∧
      (s.Fetches q (gsqEnc 0x04 [(54, 4, gd), (50, 4, ga), (46, 4, gb)]) → s.GsqRan q ((s.gsq q).pc + 1) (s.gsq q).st (fun n => if n = gd ∧ gd ≠ 0 then s.greg q ga + s.greg q gb else s.greg q n) t)) ∧
  (∀ (q : Nat) (s : State), (s.gsq q).state ≠ .running → exec (.gsqNop q) s = .next (s))

/-- Each of BR, BNZ, DJNZ, BST, SECB and HALT completes in every state. When the sequencer runs and fetches its word: BR goes to T; BNZ goes to T when
G[GA] is not 0, else to the next address; DJNZ writes G[GD] - 1 and goes to T when the result as it then reads is not 0 (G0 reads 0); BST goes to T
when ST is 10 or more (MODE 0), equals CODE (MODE 1) or differs from it (MODE 2); SECB goes to the next address and takes it, the G registers and its
ID as the rerun point; HALT leaves the sequencer HALTED at its address. Nothing else changes. (06_patterns_sections.md, R208, R209, R211, R224) -/
def Obligations.SequencerBranches : Prop :=
  (∀ (q d : Nat) (s : State), ∃ t : State, exec (.br q d) s = .next t ∧ s.OnlyChanges [.arr, .seq, .mem, .glv, .stw, .host, .regs, .out, .freeCtr] t ∧
      (s.Fetches q (gsqEnc 0x08 [(0, 11, d)]) → s.GsqRan q d (s.gsq q).st (s.greg q) t)) ∧
  (∀ (q ga d : Nat) (s : State), ∃ t : State, exec (.bnz q ga d) s = .next t ∧ s.OnlyChanges [.arr, .seq, .mem, .glv, .stw, .host, .regs, .out, .freeCtr] t ∧
      (s.Fetches q (gsqEnc 0x09 [(50, 4, ga), (0, 11, d)]) → s.GsqRan q (if s.greg q ga ≠ 0 then d else (s.gsq q).pc + 1) (s.gsq q).st (s.greg q) t)) ∧
  (∀ (q gd d : Nat) (s : State), ∃ t : State, exec (.djnz q gd d) s = .next t ∧ s.OnlyChanges [.arr, .seq, .mem, .glv, .stw, .host, .regs, .out, .freeCtr] t ∧
      (s.Fetches q (gsqEnc 0x0A [(54, 4, gd), (0, 11, d)]) → s.GsqRan q (if gd ≠ 0 ∧ s.greg q gd - 1 ≠ 0 then d else (s.gsq q).pc + 1) (s.gsq q).st (fun n => if n = gd ∧ gd ≠ 0 then s.greg q gd - 1 else s.greg q n) t)) ∧
  (∀ (q mode code d : Nat) (s : State), ∃ t : State, exec (.bst q mode code d) s = .next t ∧ s.OnlyChanges [.arr, .seq, .mem, .glv, .stw, .host, .regs, .out, .freeCtr] t ∧
      (s.Fetches q (gsqEnc 0x0B [(48, 2, mode), (40, 8, code), (0, 11, d)]) → s.GsqRan q (if (mode = 0 ∧ 0x10 ≤ (s.gsq q).st) ∨ (mode = 1 ∧ (s.gsq q).st = code) ∨ (mode ≥ 2 ∧ (s.gsq q).st ≠ code) then d else (s.gsq q).pc + 1) (s.gsq q).st (s.greg q) t)) ∧
  (∀ (q ident : Nat) (s : State), ∃ t : State, exec (.secb q ident) s = .next t ∧ s.OnlyChanges [.arr, .seq, .mem, .glv, .stw, .host, .regs, .out, .freeCtr] t ∧
      (s.Fetches q (gsqEnc 0x1A [(0, 16, ident)]) → s.OnlyChanges [.seq] t ∧ s.GsqAlone q t ∧ (t.gsq q).pc = (s.gsq q).pc + 1 ∧ (t.gsq q).st = (s.gsq q).st ∧
        (t.gsq q).state = .running ∧ (t.gsq q).g = (s.gsq q).g ∧ (t.gsq q).rerun = ⟨(s.gsq q).pc + 1, (s.gsq q).g, ident, 0⟩)) ∧
  (∀ (q : Nat) (s : State), ∃ t : State, exec (.halt q) s = .next t ∧ s.OnlyChanges [.arr, .seq, .mem, .glv, .stw, .host, .regs, .out, .freeCtr] t ∧
      (s.Fetches q (gsqEnc 0x1F []) → s.OnlyChanges [.seq] t ∧ s.GsqAlone q t ∧ (t.gsq q).state = .halted ∧ (t.gsq q).pc = (s.gsq q).pc ∧ (t.gsq q).g = (s.gsq q).g ∧ (t.gsq q).st = (s.gsq q).st))

/-- Each of LOAD, ARM, SWI and RUN completes in every state. Fetched while no load and no switch is under way: LOAD of a slot that is not ACTIVE or
ARMED starts the load from G[GA], makes the slot LOADING and goes on with OK; ARM of a LOADED slot at an accepted (tick, offset) arms the switch,
makes the slot ARMED and goes on with OK; SWI of a LOADED or ACTIVE slot makes the request for the slot and goes on with OK or DEFERRED (02); RUN
makes the same request and waits for its end. With a switch already pending SWI changes only ST, to STATE_CONFLICT, and goes on.
(06_patterns_sections.md, R203, R211, R215, R216) -/
def Obligations.SequencerLoadsArmsAndSwitches : Prop :=
  (∀ (q slot ga : Nat) (s : State), ∃ t : State, exec (.load q slot ga) s = .next t ∧ s.OnlyChanges [.arr, .seq, .mem, .glv, .stw, .host, .regs, .out, .freeCtr] t ∧
      (s.Fetches q (gsqEnc 0x10 [(56, 2, slot), (50, 4, ga)]) → (s.gsq q).arm = none → (s.gsq q).sw = none → (s.gsq q).load = none →
        (s.gsq q).slots.getD slot .empty ≠ .active → (s.gsq q).slots.getD slot .empty ≠ .armed → s.OnlyChanges [.seq] t ∧ s.GsqAlone q t ∧
        (t.gsq q).load = some (slot, (s.greg q ga).toNat) ∧ (t.gsq q).slots.getD slot .empty = .loading ∧ (t.gsq q).pc = (s.gsq q).pc + 1 ∧ (t.gsq q).st = stOK ∧ (t.gsq q).state = .running ∧ (t.gsq q).g = (s.gsq q).g)) ∧
  (∀ (q slot ga ofs : Nat) (s : State), ∃ t : State, exec (.arm q slot ga ofs) s = .next t ∧ s.OnlyChanges [.arr, .seq, .mem, .glv, .stw, .host, .regs, .out, .freeCtr] t ∧
      (s.Fetches q (gsqEnc 0x11 [(56, 2, slot), (50, 4, ga), (20, 20, ofs)]) → (s.gsq q).arm = none → (s.gsq q).sw = none → s.slotBase q slot = .loaded →
        s.timeRefusal (s.greg q ga).toNat ofs = 0 → s.OnlyChanges [.seq] t ∧ s.GsqAlone q t ∧ (t.gsq q).arm = some ⟨slot, (s.greg q ga).toNat, ofs, .loaded⟩ ∧
        (t.gsq q).slots.getD slot .empty = .armed ∧ (t.gsq q).pc = (s.gsq q).pc + 1 ∧ (t.gsq q).st = stOK ∧ (t.gsq q).state = .running ∧ (t.gsq q).g = (s.gsq q).g)) ∧
  (∀ (q slot : Nat) (s : State), ∃ t : State, exec (.swi q slot) s = .next t ∧ s.OnlyChanges [.dies, .arr, .seq, .mem, .glv, .stw, .host, .aos, .regs, .out, .freeCtr] t ∧
      (s.Fetches q (gsqEnc 0x12 [(56, 2, slot)]) → (s.gsq q).arm = none → (s.gsq q).sw = none → s.slotBase q slot = .loaded ∨ s.slotBase q slot = .active → t.seq.pats = s.seq.pats ∧
        (t.gsq q).sw.map (fun r => (r.slot, r.fromArm)) = some (slot, false) ∧ (t.gsq q).pc = (s.gsq q).pc + 1 ∧ ((t.gsq q).st = stOK ∨ (t.gsq q).st = 0x02) ∧ (t.gsq q).state = .running ∧ (t.gsq q).g = (s.gsq q).g) ∧
      (s.Fetches q (gsqEnc 0x12 [(56, 2, slot)]) → (s.gsq q).sw.isSome = true → s.GsqRan q ((s.gsq q).pc + 1) stConflict (s.greg q) t)) ∧
  (∀ (q slot ga : Nat) (s : State), ∃ t : State, exec (.run q slot ga) s = .next t ∧ s.OnlyChanges [.dies, .arr, .seq, .mem, .glv, .stw, .host, .aos, .regs, .out, .freeCtr] t ∧
      (s.Fetches q (gsqEnc 0x13 [(56, 2, slot), (50, 4, ga)]) → (s.gsq q).arm = none → (s.gsq q).sw = none → s.slotBase q slot = .loaded ∨ s.slotBase q slot = .active →
        (t.gsq q).sw.map (fun r => (r.slot, r.fromArm)) = some (slot, false) ∧ (t.gsq q).pc = (s.gsq q).pc ∧ (t.gsq q).state = .waiting ∧ (t.gsq q).waitFor = some .done ∧ (t.gsq q).g = (s.gsq q).g))

/-- Each WAIT completes in every state. Fetched (fields its KIND does not use may hold anything), it goes on at the next address with ST set when its
condition holds already, else it waits with a deadline TMO tick periods away (0: none), and changes nothing else. DONE: STATE_CONFLICT with no pattern
and no switch pending, OK once the pattern is done. LOADED: SLOT_NOT_READY for an EMPTY slot, the status of the load once the slot is not LOADING.
TICK: BOUND for OFS of N or more, TICK_PASSED for a passed time. ARRIVAL: BOUND for a counter outside the glove, OK once the counter has reached the
value. SWITCHED: the status of the last switch once none is armed. SEALED: waits while a seal is left. (06_patterns_sections.md, R211, R212, R213) -/
def Obligations.SequencerWaits : Prop :=
  (∀ (q tmo : Nat) (s : State), ∃ t : State, exec (.waitDone q tmo) s = .next t ∧ s.OnlyChanges [.arr, .seq, .mem, .glv, .stw, .host, .regs, .out, .freeCtr] t ∧
      (s.Fetches q (s.waitAs q false false false false (waitWord 0 0 0 0 0 tmo)) → (s.swPending q = true → s.GsqWaits q .done tmo t) ∧
        (s.swPending q = false → (s.pat (s.gsqGlove q)).valid = false → s.GsqRan q ((s.gsq q).pc + 1) (stConflict) (s.greg q) t) ∧
        (s.swPending q = false → (s.pat (s.gsqGlove q)).valid = true → ((s.pat (s.gsqGlove q)).done = true → s.GsqRan q ((s.gsq q).pc + 1) (stOK) (s.greg q) t) ∧ ((s.pat (s.gsqGlove q)).done = false → s.GsqWaits q .done tmo t)))) ∧
  (∀ (q slot tmo : Nat) (s : State), ∃ t : State, exec (.waitLoaded q slot tmo) s = .next t ∧ s.OnlyChanges [.arr, .seq, .mem, .glv, .stw, .host, .regs, .out, .freeCtr] t ∧
      (s.Fetches q (s.waitAs q false false true false (waitWord 1 0 0 slot 0 tmo)) → (s.slotBase q slot = .loading → s.GsqWaits q (.loaded slot) tmo t) ∧
        (s.slotBase q slot = .empty → s.GsqRan q ((s.gsq q).pc + 1) (stSlotNotReady) (s.greg q) t) ∧
        (s.slotBase q slot ≠ .loading → s.slotBase q slot ≠ .empty → s.GsqRan q ((s.gsq q).pc + 1) ((s.gsq q).loadSt.getD slot 0) (s.greg q) t))) ∧
  (∀ (q ga ofs tmo : Nat) (s : State), ∃ t : State, exec (.waitTick q ga ofs tmo) s = .next t ∧ s.OnlyChanges [.arr, .seq, .mem, .glv, .stw, .host, .regs, .out, .freeCtr] t ∧
      (s.Fetches q (s.waitAs q true false false true (waitWord 2 ga 0 0 ofs tmo)) → (s.periodAt (s.greg q ga).toNat ≤ ofs → s.GsqRan q ((s.gsq q).pc + 1) (stBound) (s.greg q) t) ∧
        (ofs < s.periodAt (s.greg q ga).toNat → s.reached (s.greg q ga).toNat ofs = true → s.GsqRan q ((s.gsq q).pc + 1) (stTickPassed) (s.greg q) t) ∧
        (ofs < s.periodAt (s.greg q ga).toNat → s.reached (s.greg q ga).toNat ofs = false → s.GsqWaits q (.tick (s.greg q ga).toNat ofs) tmo t))) ∧
  (∀ (q ga gb tmo : Nat) (s : State), ∃ t : State, exec (.waitArrival q ga gb tmo) s = .next t ∧ s.OnlyChanges [.arr, .seq, .mem, .glv, .stw, .host, .regs, .out, .freeCtr] t ∧
      (s.Fetches q (s.waitAs q true true false false (waitWord 3 ga gb 0 0 tmo)) → (s.nameInGlove (s.gsqGlove q) (s.greg q ga) = false → s.GsqRan q ((s.gsq q).pc + 1) (stBound) (s.greg q) t) ∧
        (s.nameInGlove (s.gsqGlove q) (s.greg q ga) = true →
          ((s.greg q gb).field 0 32 ≤ s.arrival (BitVec.ofNat 64 ((s.greg q ga).field 0 16)) → s.GsqRan q ((s.gsq q).pc + 1) (stOK) (s.greg q) t) ∧
          (s.arrival (BitVec.ofNat 64 ((s.greg q ga).field 0 16)) < (s.greg q gb).field 0 32 → s.GsqWaits q (.arrival ((s.greg q ga).field 0 16) ((s.greg q gb).field 0 32)) tmo t)))) ∧
  (∀ (q tmo : Nat) (s : State), ∃ t : State, exec (.waitSwitched q tmo) s = .next t ∧ s.OnlyChanges [.arr, .seq, .mem, .glv, .stw, .host, .regs, .out, .freeCtr] t ∧
      (s.Fetches q (s.waitAs q false false false false (waitWord 4 0 0 0 0 tmo)) → (s.armPending q = true → s.GsqWaits q .switched tmo t) ∧ (s.armPending q = false → s.GsqRan q ((s.gsq q).pc + 1) ((s.gsq q).swStatus) (s.greg q) t))) ∧
  (∀ (q tmo : Nat) (s : State), ∃ t : State, exec (.waitSealed q tmo) s = .next t ∧ s.OnlyChanges [.arr, .seq, .mem, .glv, .stw, .host, .regs, .out, .freeCtr] t ∧
      (s.Fetches q (s.waitAs q false false false false (waitWord 5 0 0 0 0 tmo)) → ((s.gsq q).seals ≠ [] → s.GsqWaits q .sealed tmo t) ∧
        ((s.gsq q).seals = [] → s.GsqRan q ((s.gsq q).pc + 1) ((s.gsq q).sealFail.getD stOK) (s.greg q) t ∧ (t.gsq q).sealFail = none)))

/-- Each of EXCH, SEAL, CTR and REPORT completes in every state. Fetched: EXCH while a pattern of the glove runs sets ST to STATE_CONFLICT, branches
to T and has no other effect, and EXCH of an idle valid plan of its glove at an accepted (tick, offset) names the phase and waits; SEAL hands the
migration engine a request for the extent and waits for its acceptance; CTR of a counter in the glove with a LIMIT other than all ones sets NEXT and
LIMIT and goes on with OK; REPORT of a code below 0100 with fewer than 64 records queued, none of them for the host, appends its record and goes on
with OK, a rerun point taken. (06_patterns_sections.md, 09_expert_exchange.md, R211, R218, R219, R222, R224, R334) -/
def Obligations.SequencerExchangesSealsCountersReports : Prop :=
  (∀ (q ga ofs phase d : Nat) (s : State), ∃ t : State, exec (.exch q ga ofs phase d) s = .next t ∧ s.OnlyChanges [.arr, .seq, .mem, .glv, .stw, .host, .regs, .out, .freeCtr] t ∧
      (s.Fetches q (gsqEnc 0x15 [(54, 4, ga), (34, 20, ofs), (26, 8, phase), (0, 11, d)]) →
        (s.patRuns (s.gsqGlove q) = true → s.GsqRan q d stConflict (s.greg q) t) ∧
        (s.exchRefusal (s.gsqGlove q) phase (s.greg q ga).toNat ofs = none → (s.plan phase).stage = .idle → s.OnlyChanges [.seq, .stw, .freeCtr] t ∧ s.GsqAlone q t ∧
          (t.gsq q).state = .waiting ∧ (t.gsq q).waitFor = some (.exchange d) ∧ (t.gsq q).pc = (s.gsq q).pc ∧
          t.plan phase = { s.plan phase with stage := .named, namedAt := s.freeCtr, t0 := (s.greg q ga).toNat, ofs0 := ofs, round := 0 } ∧ ∀ p, p ≠ phase → t.plan p = s.plan p))) ∧
  (∀ (q ga gb gd gt dest : Nat) (s : State), ∃ t : State, exec (.sealExtent q ga gb gd gt dest) s = .next t ∧ s.OnlyChanges [.arr, .seq, .mem, .glv, .stw, .host, .regs, .out, .freeCtr] t ∧
      (s.Fetches q (gsqEnc 0x16 [(54, 4, ga), (50, 4, gb), (46, 4, gd), (42, 4, gt), (41, 1, dest)]) → s.OnlyChanges [.seq, .mem] t ∧ s.GsqAlone q t ∧
        (t.gsq q).state = .waiting ∧ (t.gsq q).waitFor = some (.sealAccept [] gd) ∧ (t.gsq q).pc = (s.gsq q).pc ∧ t.mem.waiting = s.mem.waiting ++ [{ (default : MigReq) with
          op := 1, prio := 1, dest := dest, glove := s.gsqGlove q, key := (s.glove (s.gsqGlove q)).key, nta := (s.greg q ga).toNat, len := (s.greg q gb).toNat,
          arg := (s.greg q gt).toNat, from_ := .gsq q gd, ident := s.mem.nextReq }])) ∧
  (∀ (q ga gb gc : Nat) (s : State), ∃ t : State, exec (.ctr q ga gb gc) s = .next t ∧ s.OnlyChanges [.arr, .seq, .mem, .glv, .stw, .host, .regs, .out, .freeCtr] t ∧
      (s.Fetches q (gsqEnc 0x18 [(54, 4, ga), (50, 4, gb), (46, 4, gc)]) → (288 ≤ (State.ctrName (s.greg q ga)).2.1 → s.GsqRan q ((s.gsq q).pc + 1) (stBound) (s.greg q) t) ∧
        (s.nameInGlove (s.gsqGlove q) (s.greg q ga) = true → (s.greg q gc).field 0 32 ≠ 0xFFFFFFFF → s.OnlyChanges [.seq, .regs] t ∧ s.GsqAlone q t ∧
          (t.gsq q).pc = (s.gsq q).pc + 1 ∧ (t.gsq q).st = stOK ∧ (t.gsq q).state = .running ∧
          t.reg (Adr.wkcLimit (State.ctrName (s.greg q ga)).1 (State.ctrName (s.greg q ga)).2.1 (State.ctrName (s.greg q ga)).2.2) = BitVec.ofNat 64 ((s.greg q gc).field 0 32) ∧
          t.reg (Adr.wkcNext (State.ctrName (s.greg q ga)).1 (State.ctrName (s.greg q ga)).2.1 (State.ctrName (s.greg q ga)).2.2) = BitVec.ofNat 64 ((s.greg q gb).field 0 32)))) ∧
  (∀ (q ga code : Nat) (s : State), ∃ t : State, exec (.report q ga code) s = .next t ∧ s.OnlyChanges [.arr, .seq, .mem, .glv, .stw, .host, .regs, .out, .freeCtr] t ∧
      (s.Fetches q (gsqEnc 0x19 [(54, 4, ga), (0, 16, code)]) → code < 0x100 → (s.gsq q).reports.length < 64 → (∀ r ∈ (s.gsq q).reports, r.code < 0x100) → s.OnlyChanges [.seq] t ∧ s.GsqAlone q t ∧
        (t.gsq q).reports = (s.gsq q).reports ++ [⟨code, s.greg q ga, s.tick.tick⟩] ∧ (t.gsq q).pc = (s.gsq q).pc + 1 ∧ (t.gsq q).st = stOK ∧ (t.gsq q).state = .running ∧
        (t.gsq q).g = (s.gsq q).g ∧ (t.gsq q).rerun = ⟨(s.gsq q).pc + 1, (s.gsq q).g, 0, 0⟩))

/-- Every control operation, TOK and the empty operations of the three slots complete in every state. The empty operations change nothing. EPX inverts
EP and EPS sets it to X[0], FSET sets F[X[1:0]] to X[2], FANY and FALL set F[X[1:0]] when any bit, or every bit, of M[X[4:2]] is 1 and change nothing
otherwise: each visible from the next pattern cycle. TOK sends a token with CVAL and EP. TRAP at a cell of no glove changes nothing; at a cell of a
running pattern it is the cell exception USER_TRAP with code X. Nothing else changes at a cell operation. (04_aqvex_cell_isa.md, R133, R135, R138,
R139, R153) -/
def Obligations.CellControlSlot : Prop :=
  (∀ (p : Site) (s : State), ∃ t : State, exec (.ctNop p) s = .next t ∧ s.OnlyChanges [] t ∧
      (t = s)) ∧
  (∀ (p : Site) (s : State), ∃ t : State, exec (.mvNop p) s = .next t ∧ s.OnlyChanges [] t ∧
      (t = s)) ∧
  (∀ (p : Site) (s : State), ∃ t : State, exec (.vnop p) s = .next t ∧ s.OnlyChanges [] t ∧
      (t = s)) ∧
  (∀ (p : Site) (s : State), ∃ t : State, exec (.mnop p) s = .next t ∧ s.OnlyChanges [] t ∧
      (t = s)) ∧
  (∀ (p : Site) (s : State), ∃ t : State, exec (.epx p) s = .next t ∧ s.OnlyChanges [.arr] t ∧
      (s.DueAt p (s.siteCycle p) 0 (.ep (!(s.cell p.key).ep)) t)) ∧
  (∀ (p : Site) (x : BitVec 6) (s : State), ∃ t : State, exec (.eps p x) s = .next t ∧ s.OnlyChanges [.arr] t ∧
      (s.DueAt p (s.siteCycle p) 0 (.ep (x.getLsbD 0)) t)) ∧
  (∀ (p : Site) (x : BitVec 6) (s : State), ∃ t : State, exec (.fset p x) s = .next t ∧ s.OnlyChanges [.arr] t ∧
      (s.DueAt p (s.siteCycle p) 0 (.flag (x.toNat % 4) (x.getLsbD 2)) t)) ∧
  (∀ (p : Site) (x : BitVec 6) (s : State), ∃ t : State, exec (.fany p x) s = .next t ∧ s.OnlyChanges [.arr] t ∧
      (s.mask p.key (x.toNat / 4 % 8) ≠ 0 → s.DueAt p (s.siteCycle p) 0 (.flag (x.toNat % 4) true) t) ∧
      (s.mask p.key (x.toNat / 4 % 8) = 0 → t = s)) ∧
  (∀ (p : Site) (x : BitVec 6) (s : State), ∃ t : State, exec (.fall p x) s = .next t ∧ s.OnlyChanges [.arr] t ∧
      ((∀ j, j < 64 → (s.mask p.key (x.toNat / 4 % 8)).getLsbD j = true) → s.DueAt p (s.siteCycle p) 0 (.flag (x.toNat % 4) true) t) ∧
      (∀ j, j < 64 → (s.mask p.key (x.toNat / 4 % 8)).getLsbD j = false → t = s)) ∧
  (∀ (p : Site) (x : BitVec 6) (s : State), ∃ t : State, exec (.trap p x) s = .next t ∧ s.OnlyChanges [.dies, .arr, .seq, .mem, .glv, .stw, .host, .regs, .out, .freeCtr] t ∧
      (p.row < 24 → p.col < 24 → s.siteGlove p = none → t = s) ∧
      (p.row < 24 → p.col < 24 → ∀ g, s.siteGlove p = some g → s.patRuns g = true → exec (.cellException { glove := g, cause := 6, die := p.die, row := p.row, col := s.physCol p.die p.row p.col .c, ctx := (s.cell p.key).ctx, bundle := (s.cell p.key).iss.bundle, slot := 0, code := x.toNat, loopIx := (s.cell p.key).iss.loopIx, cycle := (s.pat g).cycle }) s = .next t)) ∧
  (∀ (p : Site) (v : Byte) (s : State), ∃ t : State, exec (.tok p v) s = .next t ∧ s.OnlyChanges [.arr] t ∧
      (s.CellBecomes p { s.cell p.key with token := some (v, (s.cell p.key).ep) } t))

/-- VADD, VSUB, VMUL, VMAX and VMIN combine lane j of A, negated where FN[0] is set, with lane j of B, and VFMA adds lane j of C with one rounding;
VSEL takes lane j of A where bit j of the mask of FN[2:0] is 1, else of B; VMOV copies A; VBC puts the low 32 bits of the configuration word into
every lane. Each completes in every state, and its result falls due for VD under MSK so that it is readable 2 cycles on (VFMA: 4). Nothing else
changes. (04_aqvex_cell_isa.md, R142, R143, R152) -/
def Obligations.CellVectorArithmetic : Prop :=
  (∀ (p : Site) (vd va vb msk : Nat) (neg : Bool) (s : State), ∃ t : State, exec (.vadd p vd va vb msk neg) s = .next t ∧ s.OnlyChanges [.arr] t ∧
      (s.VectorDue p vd msk 2 (fun j => fadd (fneg neg (lane (s.vreg p.key va) j)) (lane (s.vreg p.key vb) j)) t)) ∧
  (∀ (p : Site) (vd va vb msk : Nat) (neg : Bool) (s : State), ∃ t : State, exec (.vsub p vd va vb msk neg) s = .next t ∧ s.OnlyChanges [.arr] t ∧
      (s.VectorDue p vd msk 2 (fun j => fsub (fneg neg (lane (s.vreg p.key va) j)) (lane (s.vreg p.key vb) j)) t)) ∧
  (∀ (p : Site) (vd va vb msk : Nat) (neg : Bool) (s : State), ∃ t : State, exec (.vmul p vd va vb msk neg) s = .next t ∧ s.OnlyChanges [.arr] t ∧
      (s.VectorDue p vd msk 2 (fun j => fmul (fneg neg (lane (s.vreg p.key va) j)) (lane (s.vreg p.key vb) j)) t)) ∧
  (∀ (p : Site) (vd va vb msk : Nat) (neg : Bool) (s : State), ∃ t : State, exec (.vmax p vd va vb msk neg) s = .next t ∧ s.OnlyChanges [.arr] t ∧
      (s.VectorDue p vd msk 2 (fun j => fmax (fneg neg (lane (s.vreg p.key va) j)) (lane (s.vreg p.key vb) j)) t)) ∧
  (∀ (p : Site) (vd va vb msk : Nat) (neg : Bool) (s : State), ∃ t : State, exec (.vmin p vd va vb msk neg) s = .next t ∧ s.OnlyChanges [.arr] t ∧
      (s.VectorDue p vd msk 2 (fun j => fmin (fneg neg (lane (s.vreg p.key va) j)) (lane (s.vreg p.key vb) j)) t)) ∧
  (∀ (p : Site) (vd va vb vc msk : Nat) (neg : Bool) (s : State), ∃ t : State, exec (.vfma p vd va vb vc msk neg) s = .next t ∧ s.OnlyChanges [.arr] t ∧
      (s.VectorDue p vd msk 4 (fun j => ffma (fneg neg (lane (s.vreg p.key va) j)) (lane (s.vreg p.key vb) j) (lane (s.vreg p.key vc) j)) t)) ∧
  (∀ (p : Site) (vd va vb msk sel : Nat) (s : State), ∃ t : State, exec (.vsel p vd va vb msk sel) s = .next t ∧ s.OnlyChanges [.arr] t ∧
      (s.VectorDue p vd msk 2 (fun j => if (s.mask p.key (sel % 8)).getLsbD j then lane (s.vreg p.key va) j else lane (s.vreg p.key vb) j) t)) ∧
  (∀ (p : Site) (vd va msk : Nat) (s : State), ∃ t : State, exec (.vmov p vd va msk) s = .next t ∧ s.OnlyChanges [.arr] t ∧
      (s.VectorDue p vd msk 2 (fun j => lane (s.vreg p.key va) j) t)) ∧
  (∀ (p : Site) (vd cw msk : Nat) (s : State), ∃ t : State, exec (.vbc p vd cw msk) s = .next t ∧ s.OnlyChanges [.arr] t ∧
      (s.VectorDue p vd msk 2 (fun _ => (s.cw p.key (cw % 64)).setWidth 32) t))

/-- VCMP writes mask VD mod 8, bit j being A cond B in lane j where MSK holds and 0 elsewhere; VMSK forms AND, OR, A AND NOT B, NOT A or FIRSTN,
written in the bits of MSK; a write to M0 changes nothing. VRED writes to every lane the tree reduction of the lanes of MSK, latency 6. VXF, with room
in XQ, takes its place in XQ and writes f of each lane (the free choice within the allowed error), latency 12 + 4q. VCVT of FP32 pairs to a 16-bit
format without SR packs the two conversions of each lane and leaves the generator; VCVT to FP32 widens the low or high half; latency 3. Each completes
in every state, and nothing else of the cell changes. (04_aqvex_cell_isa.md, R118, R142, R143, R144, R145) -/
def Obligations.CellVectorMasksReductionsConversions : Prop :=
  (∀ (p : Site) (md va vb msk cond : Nat) (s : State), ∃ t : State, exec (.vcmp p md va vb msk cond) s = .next t ∧ s.OnlyChanges [.arr] t ∧
      (md % 8 = 0 → t = s) ∧
      (md % 8 ≠ 0 → ∃ m : BitVec 64, (∀ j, j < 64 → m.getLsbD j = ((s.mask p.key msk).getLsbD j && fcmp cond (lane (s.vreg p.key va) j) (lane (s.vreg p.key vb) j))) ∧ s.DueAt p (s.siteCycle p + 1) 2 (.mask (md % 8) m (BitVec.allOnes 64)) t)) ∧
  (∀ (p : Site) (md va vb msk op : Nat) (s : State), ∃ t : State, exec (.vmsk p ⟨md, msk⟩ va vb op) s = .next t ∧ s.OnlyChanges [.arr] t ∧
      (md % 8 = 0 → t = s) ∧
      (md % 8 ≠ 0 → ∃ m : BitVec 64, (∀ j, j < 64 → m.getLsbD j = (if op = 0 then (s.mask p.key (va % 8)).getLsbD j && (s.mask p.key (vb % 8)).getLsbD j else if op = 1 then (s.mask p.key (va % 8)).getLsbD j || (s.mask p.key (vb % 8)).getLsbD j
          else if op = 2 then (s.mask p.key (va % 8)).getLsbD j && !(s.mask p.key (vb % 8)).getLsbD j else if op = 3 then !(s.mask p.key (va % 8)).getLsbD j
          else decide (j < (s.cw p.key (va % 64)).field 0 7))) ∧ s.DueAt p (s.siteCycle p + 1) 2 (.mask (md % 8) m (s.mask p.key msk)) t)) ∧
  (∀ (p : Site) (vd va msk fn : Nat) (s : State), ∃ t : State, exec (.vred p vd va msk fn) s = .next t ∧ s.OnlyChanges [.arr] t ∧
      (s.VectorDue p vd 0 6 (fun _ => reduceTree (if fn = 0 then fadd else if fn = 1 then fmax else fmin) ((List.range 64).map fun j =>
        if (s.mask p.key msk).getLsbD j then lane (s.vreg p.key va) j else (if fn = 0 then 0 else if fn = 1 then 0xFF800000 else 0x7F800000))) t)) ∧
  (∀ (p : Site) (vd va msk fn : Nat) (s : State), ∃ t : State, exec (.vxf p vd va msk fn) s = .next t ∧ s.OnlyChanges [.dies, .arr, .seq, .mem, .glv, .stw, .host, .regs, .out, .freeCtr] t ∧
      ((s.cell p.key).xqWaiting (s.siteCycle p) < 2 → t.freeCtr = s.freeCtr + 64 ∧ s.OnlyChanges [.arr, .freeCtr] t ∧ ∃ v : BitVec 2048,
        (∀ j, j < 64 → lane v j = vxfLane fn (lane (s.vreg p.key va) j) (Config.freeUlp (s.freeCtr + j))) ∧
        (t.cell p.key).due = (s.cell p.key).due ++ [⟨s.siteCycle p + (12 + 4 * (s.cell p.key).xqCount (s.siteCycle p)) - 1, .vreg (s.vphys p.key vd) v (s.mask p.key msk), (s.cell p.key).iss, 2⟩] ∧
        (∀ k, k ≠ p.key → t.cell k = s.cell k) ∧ t.arr.vregs = s.arr.vregs)) ∧
  (∀ (p : Site) (vd va vb msk fn : Nat) (sr : Bool) (s : State), ∃ t : State, exec (.vcvt p vd va vb msk fn sr) s = .next t ∧ s.OnlyChanges [.arr] t ∧
      (2 ≤ fn → s.VectorDue p vd msk 3 (fun j => widenLane (if fn ≤ 3 then bf16 else fp16) (fn % 2 = 1) (lane (s.vreg p.key va) j)) t) ∧
      (fn ≤ 1 → sr = false → s.OnlyChanges [.arr] t ∧ (t.cell p.key).gen = (s.cell p.key).gen ∧ ∃ v : BitVec 2048, (∀ j, j < 64 → lane v j =
          BitVec.ofNat 32 (((if fn = 0 then bf16 else fp16).convert (f32 (lane (s.vreg p.key va) j)) none).1 + ((if fn = 0 then bf16 else fp16).convert (f32 (lane (s.vreg p.key vb) j)) none).1 * 2 ^ 16)) ∧
        (t.cell p.key).due = (s.cell p.key).due ++ [⟨s.siteCycle p + 3 - 1, .vreg (s.vphys p.key vd) v (s.mask p.key msk), (s.cell p.key).iss, 2⟩]))

/-- FIL, VLD, DSC, VST and OBV complete in every state. A take from a nonempty queue whose port has not been taken in the cycle removes the head word:
FIL of one line writes it there in the next cycle, VLD of a part writes its lanes of the register and no others, DSC drops it. VST holds its words,
with EP as their epoch, to enter the send queue of the port in the next cycle: words that fit are appended to it; two words onto a queue of more than
six are lost in a QUEUE_OVERFLOW of the site. OBV with room on the port reads four lines, lane 16i + j being element j of line i, into VD, readable
from t + 2. Nothing else changes. (04_aqvex_cell_isa.md, R136, R137, R138, R139, R141) -/
def Obligations.CellMoveSlotTakesAndSends : Prop :=
  (∀ (p : Site) (port areg d nl : Nat) (s : State), ∃ t : State, exec (.fil p port areg d nl) s = .next t ∧ s.OnlyChanges [.dies, .arr, .seq, .mem, .glv, .stw, .host, .regs, .out, .freeCtr] t ∧
      (∀ w q, nl = 1 → port ≠ 5 → s.inQueue p.key port = w :: q → (s.cell p.key).taken.contains port = false → s.CellBecomes p { s.cell p.key with inQ := setPad (s.cell p.key).inQ port q [], taken := port :: (s.cell p.key).taken, due := (s.cell p.key).due ++ [⟨s.siteCycle p + 1, .line (s.aline p.key areg d 0).1 (s.aline p.key areg d 0).2 w.1, (s.cell p.key).iss, 1⟩] } t)) ∧
  (∀ (p : Site) (port vd : Nat) (single : Bool) (q : Nat) (s : State), ∃ t : State, exec (.vld p port vd single q) s = .next t ∧ s.OnlyChanges [.dies, .arr, .seq, .mem, .glv, .stw, .host, .regs, .out, .freeCtr] t ∧
      (∀ w r, single = true → s.inQueue p.key port = w :: r → (s.cell p.key).taken.contains port = false → ∃ (v : BitVec 2048) (m : BitVec 64),
        (∀ j, j < 64 → lane v j = (if port = 5 then (if 16 * (q % 4) ≤ j ∧ j < 16 * (q % 4) + 16 then w.1.extractLsb' (32 * (j - 16 * (q % 4))) 32 else 0)
          else (if 32 * (q % 2) ≤ j ∧ j < 32 * (q % 2) + 32 then (if j - 32 * (q % 2) < 16 then w.1.extractLsb' (32 * (j - 32 * (q % 2))) 32 else w.2.extractLsb' (32 * (j - 32 * (q % 2) - 16)) 32) else 0))) ∧
        (∀ j, j < 64 → m.getLsbD j = (if port = 5 then decide (16 * (q % 4) ≤ j ∧ j < 16 * (q % 4) + 16) else decide (32 * (q % 2) ≤ j ∧ j < 32 * (q % 2) + 32))) ∧
        s.CellBecomes p { s.cell p.key with inQ := setPad (s.cell p.key).inQ port r [], taken := port :: (s.cell p.key).taken, due := (s.cell p.key).due ++ [⟨s.siteCycle p + 1, .vreg (s.vphys p.key vd) v m, (s.cell p.key).iss, 1⟩] } t)) ∧
  (∀ (p : Site) (port : Nat) (s : State), ∃ t : State, exec (.dsc p port) s = .next t ∧ s.OnlyChanges [.dies, .arr, .seq, .mem, .glv, .stw, .host, .regs, .out, .freeCtr] t ∧
      (∀ w q, s.inQueue p.key port = w :: q → (s.cell p.key).taken.contains port = false → s.CellBecomes p { s.cell p.key with inQ := setPad (s.cell p.key).inQ port q [], taken := port :: (s.cell p.key).taken } t)) ∧
  (∀ (p : Site) (port vs : Nat) (single : Bool) (q : Nat) (s : State), ∃ t : State, exec (.vst p port vs single q) s = .next t ∧ s.OnlyChanges [.arr] t ∧
      (port ≠ 5 → single = false → s.CellBecomes p { s.cell p.key with placing := [(port, [((s.vreg p.key vs).extractLsb' 0 512, (s.vreg p.key vs).extractLsb' 512 512, (s.cell p.key).ep), ((s.vreg p.key vs).extractLsb' 1024 512, (s.vreg p.key vs).extractLsb' 1536 512, (s.cell p.key).ep)])] } t) ∧
      (port ≠ 5 → single = false → ((s.cell p.key).sendQ.getD port []).length ≤ 6 →
        s.CellBecomes p { s.cell p.key with placing := [], sendQ := setPad (s.cell p.key).sendQ port ((s.cell p.key).sendQ.getD port [] ++
          [((s.vreg p.key vs).extractLsb' 0 512, (s.vreg p.key vs).extractLsb' 512 512, (s.cell p.key).ep), ((s.vreg p.key vs).extractLsb' 1024 512, (s.vreg p.key vs).extractLsb' 1536 512, (s.cell p.key).ep)]) [] } (t.placeWords p)) ∧
      (port = 5 → single = true → s.CellBecomes p { s.cell p.key with placing := [(5, [((s.vreg p.key vs).extractLsb' (512 * (q % 4)) 512, 0, (s.cell p.key).ep)])] } t) ∧
      (port ≠ 5 → single = false → 6 < ((s.cell p.key).sendQ.getD port []).length → ∃ u : State, s.CellBecomes p { s.cell p.key with placing := [] } u ∧ t.placeWords p = u.siteFault p.key 2 7 (some .c))) ∧
  (∀ (p : Site) (areg d vd : Nat) (s : State), ∃ t : State, exec (.obv p areg d vd) s = .next t ∧ s.OnlyChanges [.dies, .arr, .seq, .mem, .glv, .stw, .host, .regs, .out, .freeCtr] t ∧
      ((s.cell p.key).streamsOn (s.siteCycle p) (s.aline p.key areg d 0).1 ≤ 1 → ∃ v : BitVec 2048,
        (∀ i j, i < 4 → j < 16 → lane v (16 * i + j) = (s.obLine p.key (s.aline p.key areg d i)).extractLsb' (32 * j) 32) ∧
        s.CellBecomes p { s.cell p.key with streams := (s.siteCycle p, (s.aline p.key areg d 0).1) :: (s.cell p.key).streams, due := (s.cell p.key).due ++ [⟨s.siteCycle p + 1, .vreg (s.vphys p.key vd) v (BitVec.allOnes 64), (s.cell p.key).iss, 1⟩] } t))

/-- MMA, MRD, MWR, MZ and MRS complete in every state. MMA on a free array into a bank with no write pending enters the array at this cycle with T of
its formats, the panels at A[AA] + DA and A[AB] + DB, zeroing as Z says, and the row scales of this cycle. On a bank that no MMA names: MRD puts
position (r, column) of the bank into lane r of VD, readable from t + 3, and with ZR zeroes the column; MWR writes lane r of VS to the column, MZ
zeroes the bank, each done at t + 2; MZ on a bank that an MMA names is a cell exception of its running pattern, with cause 2, slot 3 and this cycle.
MRS on a free array, with room on the port, loads the A latch from 4 lines or the B latch from 6, done at t + 2. Nothing else of the cell changes.
(04_aqvex_cell_isa.md, R149, R150, R151, R152, R153) -/
def Obligations.CellMatrixSlot : Prop :=
  (∀ (p : Site) (bank z fa fb aa da ab db : Nat) (s : State), ∃ t : State, exec (.mma p bank z fa fb aa da ab db) s = .next t ∧ s.OnlyChanges [.dies, .arr, .seq, .mem, .glv, .stw, .host, .regs, .out, .freeCtr] t ∧
      ((s.cell p.key).mxBusy (s.siteCycle p) = false → (s.cell p.key).accPending bank = false → ∃ m : MmaSt, s.CellBecomes p { s.cell p.key with mma := (s.cell p.key).mma ++ [m] } t ∧
        m.t0 = s.siteCycle p ∧ m.t = mmaT fa fb ∧ m.bank = bank ∧ m.zero = (z == 1 || (z == 2 && (s.cell p.key).iss.i == 0)) ∧ m.fa = fa ∧ m.fb = fb ∧ m.iss = (s.cell p.key).iss ∧
        m.aRead = [] ∧ m.bRead = [] ∧ (∀ r, r < 64 → m.aLatch.getD r 0 = s.latchAt p.key r) ∧ (∀ r, r < 96 → m.bLatch.getD r 0 = s.latchAt p.key (64 + r)) ∧
        (∀ j, j < (panelLines fa false).1 + (panelLines fa false).2 → m.aLines.getD j (0, 0) = s.aline p.key aa da j) ∧
        (∀ j, j < (panelLines fb true).1 + (panelLines fb true).2 → m.bLines.getD j (0, 0) = s.aline p.key ab db j))) ∧
  (∀ (p : Site) (bank col : Nat) (ci : Bool) (vd : Nat) (zr : Bool) (s : State), ∃ t : State, exec (.mrd p bank col ci vd zr) s = .next t ∧ s.OnlyChanges [.dies, .arr, .seq, .mem, .glv, .stw, .host, .regs, .out, .freeCtr] t ∧
      ((s.cell p.key).accBusy bank (s.siteCycle p) = false → ∃ v : BitVec 2048, (∀ r, r < 64 → lane v r = s.accAt p.key bank r (if ci then (col + (s.cell p.key).iss.i) % 96 else col)) ∧
        (zr = false → s.DueAt p (s.siteCycle p + 2) 3 (.vreg (s.vphys p.key vd) v (BitVec.allOnes 64)) t) ∧
        (zr = true → s.CellBecomes p { s.cell p.key with due := (s.cell p.key).due ++ [⟨s.siteCycle p + 2, .vreg (s.vphys p.key vd) v (BitVec.allOnes 64), (s.cell p.key).iss, 3⟩, ⟨s.siteCycle p, .accCol bank (if ci then (col + (s.cell p.key).iss.i) % 96 else col) 0, (s.cell p.key).iss, 3⟩] } t))) ∧
  (∀ (p : Site) (bank col : Nat) (ci : Bool) (vs : Nat) (s : State), ∃ t : State, exec (.mwr p bank col ci vs) s = .next t ∧ s.OnlyChanges [.dies, .arr, .seq, .mem, .glv, .stw, .host, .regs, .out, .freeCtr] t ∧
      ((s.cell p.key).accBusy bank (s.siteCycle p) = false → s.DueAt p (s.siteCycle p + 1) 3 (.accCol bank (if ci then (col + (s.cell p.key).iss.i) % 96 else col) (s.vreg p.key vs)) t)) ∧
  (∀ (p : Site) (bank : Nat) (s : State), ∃ t : State, exec (.mz p bank) s = .next t ∧ s.OnlyChanges [.dies, .arr, .seq, .mem, .glv, .stw, .host, .regs, .out, .freeCtr] t ∧
      ((s.cell p.key).accBusy bank (s.siteCycle p) = false → s.DueAt p (s.siteCycle p + 1) 3 (.accZero bank) t) ∧
      ((s.cell p.key).accBusy bank (s.siteCycle p) = true → p.row < 24 → p.col < 24 → ∀ g, s.siteGlove p = some g → s.patRuns g = true → exec (.cellException { glove := g, cause := 2, die := p.die, row := p.row, col := s.physCol p.die p.row p.col .c, ctx := (s.cell p.key).ctx, bundle := (s.cell p.key).iss.bundle, slot := 3, code := 0, loopIx := (s.cell p.key).iss.loopIx, cycle := (s.pat g).cycle }) s = .next t)) ∧
  (∀ (p : Site) (side areg d : Nat) (s : State), ∃ t : State, exec (.mrs p side areg d) s = .next t ∧ s.OnlyChanges [.dies, .arr, .seq, .mem, .glv, .stw, .host, .regs, .out, .freeCtr] t ∧
      ((s.cell p.key).mxBusy (s.siteCycle p) = false → (s.cell p.key).streamsOn (s.siteCycle p) (s.aline p.key areg d 0).1 ≤ 1 → ∃ l : List Lane, l.length = (if side = 0 then 64 else 96) ∧
        (∀ i j, i < (if side = 0 then 4 else 6) → j < 16 → l.getD (16 * i + j) 0 = (s.obLine p.key (s.aline p.key areg d i)).extractLsb' (32 * j) 32) ∧
        s.CellBecomes p { s.cell p.key with streams := (s.siteCycle p, (s.aline p.key areg d 0).1) :: (s.cell p.key).streams, due := (s.cell p.key).due ++ [⟨s.siteCycle p + 1, .latch side l, (s.cell p.key).iss, 3⟩] } t))

/-- Each completes in every state. END ends the generator's program. RUN outside loops, with no upset, begins its run DLY after T and moves T to its
end, and goes to the next instruction. LOOP with a body pushes the body's bounds and COUNT (0: without end). RING within the rows configures the ring
empty and active; beyond them nothing changes. WIN sets the window register and no other. SETA sets the arrival counter to VALUE plus the counted
writes of the cycle; writes that would carry it past 0xFFFF_FFFF are refused, SPD_EVT bit 1 of the die then being set. HQB empties the queue and binds
it to the producer, whose credits become 16. (07_scratchpad_streams.md, R248, R249, R253, R260, R262, R265) -/
def Obligations.DescriptorProgramRows : Prop :=
  (∀ (cell ag : Nat) (s : State), ∃ t : State, exec (.agEnd cell ag) s = .next t ∧ s.OnlyChanges [.arr] t ∧
      (s.MCellBecomes cell { s.mcell cell with ag := setPad (s.mcell cell).ag ag { s.agOf cell ag with ended := true } default } t)) ∧
  (∀ (cell ag : Nat) (word : Word) (upset : List (Nat × Nat)) (s : State), ∃ t : State, exec (.agRun cell ag word upset) s = .next t ∧ s.OnlyChanges [.arr] t ∧
      (upset = [] → (s.agOf cell ag).loops = [] → s.MCellBecomes cell { s.mcell cell with ag := (t.mcell cell).ag } t ∧
        ∃ x : AgRun, x.word = word ∧ x.s0 = (s.agOf cell ag).t + word.field 25 20 ∧ x.tile = 0 ∧ x.line = 0 ∧ x.got = [] ∧ x.handles = [] ∧ x.drawn = (s.agOf cell ag).drawn ∧ x.desc = (s.mprog cell).descs.getD (word.field 55 5) [] ∧
        t.agOf cell ag = { s.agOf cell ag with t := (s.agOf cell ag).t + word.field 25 20 + ((s.mprog cell).run word).1.ntiles * word.field 8 17, pc := (s.agOf cell ag).pc + 1, drawn := (s.agOf cell ag).drawn + ((s.mprog cell).run word).1.ntiles * tileDrawn ((s.mprog cell).run word).1, runs := (s.agOf cell ag).runs ++ [x] })) ∧
  (∀ (cell ag count body : Nat) (s : State), ∃ t : State, exec (.agLoop cell ag count body) s = .next t ∧ s.OnlyChanges [.arr] t ∧
      (0 < body → s.MCellBecomes cell { s.mcell cell with ag := setPad (s.mcell cell).ag ag { s.agOf cell ag with pc := (s.agOf cell ag).pc + 1, loops := ((s.agOf cell ag).pc + 1, (s.agOf cell ag).pc + 1 + body, count, count == 0) :: (s.agOf cell ag).loops } default } t) ∧
      (body = 0 → (s.agOf cell ag).loops = [] → s.MCellBecomes cell { s.mcell cell with ag := setPad (s.mcell cell).ag ag { s.agOf cell ag with pc := (s.agOf cell ag).pc + 1 } default } t)) ∧
  (∀ (cell ag rng base srows slots : Nat) (s : State), ∃ t : State, exec (.ring cell ag rng base srows slots) s = .next t ∧ s.OnlyChanges [.arr] t ∧
      (2048 < base + srows * slots ∨ 4 ≤ rng → t = s) ∧
      (base + srows * slots ≤ 2048 → rng < 4 → t.ringOf cell rng = ⟨base, srows, slots, (match ringRuns ((s.mprog cell).ag.getD ag []) rng with | w :: _ => ((s.mprog cell).run w).1.op == 2 | [] => false), true, 0, 0, 0, false, 0, 0, [], []⟩ ∧
        (∀ j, j ≠ rng → t.ringOf cell j = s.ringOf cell j) ∧ (∀ k, k ≠ cell → t.mcell k = s.mcell k))) ∧
  (∀ (cell w mode cnt base len : Nat) (s : State), ∃ t : State, exec (.win cell w mode cnt base len) s = .next t ∧ s.OnlyChanges [.regs] t ∧
      (t.reg (Adr.rwin (cell / 288) (cell % 288) (w % 8)) = BitVec.ofNat 64 (base % 2 ^ 11 + len % 2 ^ 12 * 2 ^ 11 + mode % 4 * 2 ^ 23 + cnt % 16 * 2 ^ 25)) ∧
      (∀ a, a ≠ Adr.rwin (cell / 288) (cell % 288) (w % 8) → t.reg a = s.reg a)) ∧
  (∀ (cell cnt : Nat) (value : BitVec 32) (counted : Nat) (s : State), ∃ t : State, exec (.seta cell cnt value counted) s = .next t ∧ s.OnlyChanges [.seq, .regs] t ∧
      (value.toNat + counted ≤ 0xFFFFFFFF → t.reg (Adr.arvCnt (cell / 288) (cell % 288) (cnt % 16)) = BitVec.ofNat 64 (value.toNat + counted) ∧
        ∀ a, a ≠ Adr.arvCnt (cell / 288) (cell % 288) (cnt % 16) → t.reg a = s.reg a) ∧
      (cell < 2304 → 0xFFFFFFFF < value.toNat + counted → t.reg (Adr.arvCnt (cell / 288) (cell % 288) (cnt % 16)) = BitVec.ofNat 64 0xFFFFFFFF ∧
        (t.reg (Adr.spdEvt (cell / 288))).field 1 1 = 1)) ∧
  (∀ (cell q prod : Nat) (s : State), ∃ t : State, exec (.hqb cell q prod) s = .next t ∧ s.OnlyChanges [.arr] t ∧
      ((t.hqOf cell (q % 2)).handles = [] ∧ (t.hqOf cell (q % 2)).prod = some prod) ∧
      (prod / 2 ^ 4 % 512 < 288 → (t.hqOf (namedCell prod) (q % 2)).credits = 16))

/-- Each completes in every state. RING_FILL of a READ ring with a free slot and no rows waiting, whose next tile lies in near-tier units that are
there and sound, fetches the tile's rows, which then wait for elastic writes; each such write fills a row of the slot at TAIL, and the last one moves
TAIL on and counts a FULL slot. RING_DRAIN reads rows of the slot at TAIL while it has unread rows; a slot read whole whose last held writes have been
accepted is freed. MERGE_WRITEBACK in a free row slot writes the entry back whole and discards it. REMOTE_WRITE of a whole row through an open window
of the M-cell's glove replaces the row; through a closed window, or for another glove, it writes nothing. HANDLE_PUSH to a queue bound to the producer
appends the handle and spends a credit. ARV_CNT_WRITE of the low half sets the counter, the counted writes of the cycle added and refused past
0xFFFF_FFFF. A narrow read of a core returns the row's bytes. (07_scratchpad_streams.md, R242, R243, R244, R254, R255, R261, R262, R266) -/
def Obligations.RingsRowsAndRemoteWrites : Prop :=
  (∀ (cell rng : Nat) (s : State), ∃ t : State, exec (.ringFill cell rng) s = .next t ∧ s.OnlyChanges [.dies, .arr, .seq, .mem, .glv, .stw, .host, .aos, .regs, .out, .freeCtr] t ∧
      ((s.ringOf cell rng).active = false ∨ (s.ringOf cell rng).isWrite = true ∨ (s.ringOf cell rng).slots ≤ (s.ringOf cell rng).full ∨ (s.ringOf cell rng).wait ≠ [] → t = s) ∧
      (∀ w ti n, (s.ringOf cell rng).active = true → (s.ringOf cell rng).isWrite = false → (s.ringOf cell rng).full < (s.ringOf cell rng).slots → (s.ringOf cell rng).wait = [] → s.ringNext cell rng = some (w, ti, n) →
        ((s.mprog cell).run w).2 = none → taSpace ((s.mprog cell).run w).1.ta ≠ 8 →
        (∀ u ∈ readUnits ((s.mprog cell).run w).1 ti (State.tileBase ((s.mprog cell).run w).1 (w.bit 48) ti 0) 64,
          ∃ f v, s.planeUnit (s.cellAccess cell) ((s.mprog cell).run w).1 (w.bit 48) u false = .near f v ∧ s.poisoned f v = false) →
        ∃ u : State, t = u.serveElastics cell ∧ (u.ringOf cell rng).wait.length = ceilDiv ((s.mprog cell).run w).1.nlines 8 ∧ (u.ringOf cell rng).moved = 0 ∧
          (u.ringOf cell rng).tail = (s.ringOf cell rng).tail ∧ (u.ringOf cell rng).full = (s.ringOf cell rng).full ∧ (∀ k row, u.row k row = s.row k row)) ∧
      (∀ (u : State) (d : List Byte) (l : List (List Byte)), (u.ringOf cell rng).wait = d :: l → d.length = 512 →
        (u.fillRow cell rng).row cell (State.slotRow (u.ringOf cell rng) (u.ringOf cell rng).tail + (u.ringOf cell rng).moved) = d ∧
        ((u.fillRow cell rng).ringOf cell rng).wait = l ∧ (l = [] → ((u.fillRow cell rng).ringOf cell rng).full = (u.ringOf cell rng).full + 1 ∧
          ((u.fillRow cell rng).ringOf cell rng).tail = ((u.ringOf cell rng).tail + 1) % (u.ringOf cell rng).slots))) ∧
  (∀ (cell rng : Nat) (upset : List (Nat × Nat)) (s : State), ∃ t : State, exec (.ringDrain cell rng upset) s = .next t ∧ s.OnlyChanges [.dies, .arr, .seq, .mem, .glv, .stw, .host, .aos, .regs, .out, .freeCtr] t ∧
      ((s.ringOf cell rng).active = false ∨ (s.ringOf cell rng).isWrite = false ∨ (s.ringOf cell rng).full = 0 → t = s) ∧
      (∀ w ti n, (s.ringOf cell rng).active = true → (s.ringOf cell rng).isWrite = true → (s.ringOf cell rng).full ≠ 0 → s.ringNext cell rng = some (w, ti, n) → upset = [] →
        ((s.serveElastics cell).drainRows cell rng ≠ 0 → t = s.serveElastics cell) ∧
        ((s.serveElastics cell).drainRows cell rng = 0 → ((s.serveElastics cell).ringOf cell rng).held = true → (s.serveElastics cell).mem.heldWrites = [] → (∀ f v, (s.serveElastics cell).poisoned f v = false) → t.ringOf cell rng = RingSt.freed ((s.serveElastics cell).ringOf cell rng)))) ∧
  (∀ (cell row : Nat) (s : State), ∃ t : State, exec (.mergeWriteback cell row) s = .next t ∧ s.OnlyChanges [.arr] t ∧
      (s.mergeOf cell row = none ∨ s.slotFree cell row = false → t = s) ∧
      (∀ e, s.slotFree cell row = true → s.mergeOf cell row = some e → e.data.length = 512 → t.row cell row = e.data ∧ t.mergeOf cell row = none)) ∧
  (∀ (ta : Word) (glove : Nat) (data : List Byte) (upset : Bool) (s : State), ∃ t : State, exec (.remoteWrite ta glove data upset) s = .next t ∧ s.OnlyChanges [.arr, .seq, .regs, .out] t ∧
      (taSpace ta.toNat = 0 → taOfs ta.toNat / 2 ^ 35 = 0 → ta.toNat / 2 ^ 20 % 4096 < 2304 → ta.toNat % 512 = 0 → data.length = 512 → s.mcellGlove (ta.toNat / 2 ^ 20 % 4096) = some glove → (s.mcell (ta.toNat / 2 ^ 20 % 4096)).elastic = [] → s.slotFree (ta.toNat / 2 ^ 20 % 4096) (ta.toNat / 2 ^ 9 % 2048) = true →
        (s.reg (Adr.rwin ((ta.toNat / 2 ^ 20 % 4096) / 288) ((ta.toNat / 2 ^ 20 % 4096) % 288) (ta.toNat / 2 ^ 32 % 8))).field 23 2 = 1 → (s.reg (Adr.rwin ((ta.toNat / 2 ^ 20 % 4096) / 288) ((ta.toNat / 2 ^ 20 % 4096) % 288) (ta.toNat / 2 ^ 32 % 8))).field 0 11 ≤ (ta.toNat / 2 ^ 9 % 2048) → (ta.toNat / 2 ^ 9 % 2048) < (s.reg (Adr.rwin ((ta.toNat / 2 ^ 20 % 4096) / 288) ((ta.toNat / 2 ^ 20 % 4096) % 288) (ta.toNat / 2 ^ 32 % 8))).field 0 11 + (s.reg (Adr.rwin ((ta.toNat / 2 ^ 20 % 4096) / 288) ((ta.toNat / 2 ^ 20 % 4096) % 288) (ta.toNat / 2 ^ 32 % 8))).field 11 12 →
        t.row (ta.toNat / 2 ^ 20 % 4096) (ta.toNat / 2 ^ 9 % 2048) = data ∧ s.OnlyChanges [.arr] t) ∧
      (data ≠ [] → data.length ≤ 512 - ta.toNat % 512 → s.mcellGlove (ta.toNat / 2 ^ 20 % 4096) ≠ some glove ∨ (s.reg (Adr.rwin ((ta.toNat / 2 ^ 20 % 4096) / 288) ((ta.toNat / 2 ^ 20 % 4096) % 288) (ta.toNat / 2 ^ 32 % 8))).field 23 2 = 0 → t.arr = s.arr)) ∧
  (∀ (cell q producer : Nat) (handle : BitVec 32) (glove : Nat) (s : State), ∃ t : State, exec (.handlePush cell q producer handle glove) s = .next t ∧ s.OnlyChanges [.arr, .regs] t ∧
      (cell < 2304 → producer ≠ cell → (s.hqOf cell (q % 2)).prod = some (mcellName producer) → (s.hqOf cell (q % 2)).handles.length < 16 → (t.hqOf cell (q % 2)).handles = (s.hqOf cell (q % 2)).handles ++ [handle] ∧
        (t.hqOf producer (q % 2)).credits = (s.hqOf producer (q % 2)).credits - 1 ∧ t.regs = s.regs)) ∧
  (∀ (die m n : Nat) (half : Half) (val : Word) (counted : Nat) (s : State), ∃ t : State, exec (.arvCntWrite die m n half val counted) s = .next t ∧ s.OnlyChanges [.seq, .regs] t ∧
      (m < 288 → half ≠ .hi → val.toNat % 2 ^ 32 + counted ≤ 0xFFFFFFFF → t.reg (Adr.arvCnt die m n) = BitVec.ofNat 64 (val.toNat % 2 ^ 32 + counted) ∧ ∀ a, a ≠ Adr.arvCnt die m n → t.reg a = s.reg a) ∧
      (die < 8 → m < 288 → n < 16 → half ≠ .hi → 0xFFFFFFFF < val.toNat % 2 ^ 32 + counted → t.reg (Adr.arvCnt die m n) = BitVec.ofNat 64 0xFFFFFFFF ∧ (t.reg (Adr.spdEvt die)).field 1 1 = 1)) ∧
  (∀ (who : Requester) (ta : Word) (op : NarrowOp) (upset : Bool) (s : State), ∃ t : State, exec (.narrowRequest who ta op upset) s = .next t ∧ s.OnlyChanges [.arr, .seq, .mem, .stw, .regs, .out] t ∧
      (∀ c g v len, who = .core c g v → s.whoStopped who = false → (s.mcell (ta.toNat / 2 ^ 20 % 4096)).narrow = [] → s.cellIdle (ta.toNat / 2 ^ 20 % 4096) = true → s.rowLocked (ta.toNat / 2 ^ 20 % 4096) (ta.toNat / 2 ^ 9 % 2048) = false → op = .read len → upset = false → len ∈ [1, 2, 4, 8, 64] → ta.toNat % len = 0 → taSpace ta.toNat = 0 → ta.toNat / 2 ^ 56 = 0 →
        taOfs ta.toNat / 2 ^ 35 = 0 → (ta.toNat / 2 ^ 20 % 4096) < 2304 → ta.toNat / 2 ^ 32 % 8 = 0 → s.badRow (ta.toNat / 2 ^ 20 % 4096) (ta.toNat / 2 ^ 9 % 2048) = 0 →
        t.out = .readData (some ((s.rowSeen (ta.toNat / 2 ^ 20 % 4096) (ta.toNat / 2 ^ 9 % 2048)).drop (ta.toNat % 512) |>.take len)) false :: s.out ∧ s.OnlyChanges [.regs, .out] t ∧
        ∀ a, a ≠ Adr.spdCntNarrow ((ta.toNat / 2 ^ 20 % 4096) / 288) → t.reg a = s.reg a))

/-- Each completes in every state. The first waiting SEAL of a sequencer, with an entry free and its checks passed, gets its extent, in WRITING, of
its length and tier, and its sequencer the handle and OK. MIGRATION_START starts the first request in order of a source tier with none under way,
below S2, and with no request a relocation of a draining channel. A completed SEAL makes its extent SEALED, a MOVE makes it deep in its new chunks,
and a COPYUP without IO error writes the bytes of the extent and counts one copy less; the request leaves the queue. A relocated chunk is replaced in
its extent. The writes held for a unit go to it once no seal has still to read it, and stay held before that. A missing page of the LZ2 view that was
never written becomes resident in a free page slot. (08_memory_tiers.md, 06_patterns_sections.md, R219, R300, R301, R303, R304, R305, R314, R315) -/
def Obligations.MigrationRequests : Prop :=
  (∀ (s : State), ∃ t : State, exec .migrationQueueEntry s = .next t ∧ s.OnlyChanges [.seq, .mem, .stw, .host, .regs, .out, .freeCtr] t ∧
      (s.mem.waiting = [] → t = s) ∧
      (256 ≤ s.mem.queue.length → t = s) ∧
      (∀ r rest q gd, s.mem.waiting = r :: rest → s.mem.queue.length < 256 → r.op = 1 → r.from_ = .gsq q gd → s.waitsSeal q = true → (∀ x ∈ s.mem.queue, x.ident ≠ r.ident) →
        (s.onMem fun m => { m with waiting := rest }).migCheck r = 0 → t.mem.waiting = rest ∧ t.mem.queue.length = s.mem.queue.length + 1 ∧
        (t.extent (s.nextSlot.getD 0)).st = .writing ∧ (t.extent (s.nextSlot.getD 0)).len = r.len ∧ (t.extent (s.nextSlot.getD 0)).deep = (r.dest == 1) ∧
        (t.gsq q).st = stOK ∧ (t.gsq q).pc = (s.gsq q).pc + 1 ∧ (t.gsq q).state = .running ∧ (t.gsq q).seals = (s.gsq q).seals ++ [r.ident] ∧
        (gd ≠ 0 → t.greg q gd = (t.handleOf (s.nextSlot.getD 0)).zeroExtend 64))) ∧
  (∀ (tier : Nat) (s : State), ∃ t : State, exec (.migrationStart tier) s = .next t ∧ s.OnlyChanges [.mem] t ∧
      (∀ r, s.rung.rung < 2 → s.rung.entering = none → (∀ x ∈ s.mem.queue, s.sourceTier x = tier → x.moving = false) → s.mem.relocs = [] →
        State.firstReq ((s.mem.queue.filter fun r => s.sourceTier r == tier && !(r.op == 4)).filter fun r => !r.moving && s.gateOpen r) = some r →
        t.mem = { s.mem with queue := s.mem.queue.map fun x => if x.ident = r.ident then { x with moving := true } else x }) ∧
      (tier = 0 → s.mem.queue = [] → t = s) ∧
      (∀ x, s.rung.rung < 2 → s.rung.entering = none → tier ≠ 0 → s.mem.queue = [] → s.mem.relocs = [] → s.nextReloc (tier == 2) = some x → t.mem.relocs = [x])) ∧
  (∀ (frame unit : Nat) (s : State), ∃ t : State, exec (.heldWriteRelease frame unit) s = .next t ∧ s.OnlyChanges [.mem, .stw, .regs] t ∧
      ((∃ r ∈ s.mem.queue, State.covers r frame unit = true ∧ r.moving = false ∧ (frame, unit) ∉ r.ahead) → (s.frame frame).hold = true → t.mem.heldWrites = s.mem.heldWrites) ∧
      (∀ mask bits drain, s.mem.queue = [] → (s.mem.heldWrites.filter fun w => w.frame = frame ∧ w.unit = unit) = [⟨frame, unit, mask, bits, drain⟩] →
        t = (if drain then (s.onMem fun m => { m with heldWrites := m.heldWrites.filter fun w => !(w.frame = frame ∧ w.unit = unit) }).writeBits frame unit (mask, bits)
          else ((s.onMem fun m => { m with heldWrites := m.heldWrites.filter fun w => !(w.frame = frame ∧ w.unit = unit) }).nearWrite frame unit (mask, bits)).1))) ∧
  (∀ (ident : Nat) (io : Bool) (s : State), ∃ t : State, exec (.sealComplete ident io) s = .next t ∧ s.OnlyChanges [.seq, .mem, .glv, .stw, .host, .regs, .out, .freeCtr] t ∧
      (s.movingReq ident 1 = none → t = s) ∧
      (∀ r q gd, s.movingReq ident 1 = some r → r.from_ = .gsq q gd → r.done = none → (∀ g, (s.glove g).draining = false) → s.keyOk r.system r.key = true → io = false → s.chunksFenced (s.extent r.slot).deep (s.extent r.slot).chunks = false →
        s.rangePoisoned r.nta r.len = false → (s.extent r.slot).dying = false → (s.extent r.slot).durable = false →
        (t.extent r.slot).st = .sealed ∧ (t.extent r.slot).expiry = (if r.arg = 0 then none else some (s.tick.tick + r.arg)) ∧ ∀ x ∈ t.mem.queue, x.ident ≠ r.ident)) ∧
  (∀ (ident : Nat) (io : Bool) (s : State), ∃ t : State, exec (.copyupComplete ident io) s = .next t ∧ s.OnlyChanges [.seq, .mem, .stw, .host, .regs, .out, .freeCtr] t ∧
      (s.movingReq ident 2 = none → t = s) ∧
      (∀ r q gd u, s.movingReq ident 2 = some r → r.from_ = .gsq q gd → r.done = none → r.placed = false → s.keyOk (r.system || (s.extent r.slot).system) (if r.system then (s.extent r.slot).key else r.key) = true →
        (s.extent r.slot).st ≠ .lost → io = false → s.copyUnits (taOfs r.nta) (State.reqAccess r) (chunk 64 (s.extBytes r.slot r.arg r.len)) = (u, stOK) → u.rangeHeld r = false → (u.extent r.slot).dying = false →
        t.mem.near = u.mem.near ∧ (t.extent r.slot).copies = (u.extent r.slot).copies - 1 ∧ t.mem.queue = u.mem.queue.filter fun x => x.ident ≠ r.ident)) ∧
  (∀ (ident : Nat) (io : Bool) (s : State), ∃ t : State, exec (.moveComplete ident io) s = .next t ∧ s.OnlyChanges [.seq, .mem, .stw, .host, .regs, .out, .freeCtr] t ∧
      (s.movingReq ident 3 = none → t = s) ∧
      (∀ r q gd, s.movingReq ident 3 = some r → r.from_ = .gsq q gd → r.done = none → (s.extent r.slot).copies = 0 → s.keyOk r.system r.key = true → (s.extent r.slot).st ≠ .lost → io = false → (s.extent r.slot).dying = false →
        (t.extent r.slot).st = .sealed ∧ (t.extent r.slot).deep = true ∧ (t.extent r.slot).chunks = (s.extent r.slot).newChunks ∧ (t.extent r.slot).newChunks = [] ∧ t.mem.queue = s.mem.queue.filter (fun x => x.ident ≠ r.ident))) ∧
  (∀ (deep : Bool) (idx slot chunk : Nat) (s : State), ∃ t : State, exec (.relocationComplete deep idx slot chunk) s = .next t ∧ s.OnlyChanges [.mstate, .mem, .regs] t ∧
      (s.relocOf deep = none → t = s) ∧
      (∀ r, s.relocOf deep = some r → r.moving = true → r.slot = slot → r.old = (idx, chunk) → (s.extent slot).copies = 0 →
        (t.extent slot).chunks = (s.extent slot).chunks.map (fun x => if x = (idx, chunk) then r.dst else x) ∧ (∀ k, k ≠ slot → t.extent k = s.extent k) ∧ t.mem.relocs = s.mem.relocs.filter fun x => x.deep ≠ deep)) ∧
  (∀ (page : Nat) (s : State), ∃ t : State, exec (.lz2PageMiss page) s = .next t ∧ s.OnlyChanges [.mem, .stw, .regs] t ∧
      (s.mem.lz2Glove = none ∨ s.mem.lz2Size ≤ 2 ^ 21 * page ∨ (s.lz2Page page).at_.isSome = true → t = s) ∧
      (∀ a, s.mem.lz2Glove ≠ none → 2 ^ 21 * page < s.mem.lz2Size → (s.lz2Page page).at_ = none → s.lz2Served page = false → s.lz2Free = some a → (s.lz2Page page).extent = none →
        (t.lz2Page page).at_ = some a ∧ (t.lz2Page page).dirty = false ∧ page ∉ t.mem.lz2Wait))

/-- Each completes in every state. An uncorrected read of a unit not yet listed, with room, puts it on its stack's poison list and marks its frame,
where no rerunnable reader asked. A corrected error counts in the window of its stack, channel (with no threshold set) or port. A frame that waits for
retirement takes the place of a free frame of its die. A channel or port with an uncorrected error, or a port whose link goes down, that serves no
extent and no move is FENCED; one that is absent or fenced changes nothing. A completed NVMe command is counted. A failed controller of an unmapped
stack retires it; a failed die-to-die port fences its die in full. (08_memory_tiers.md, 17_reliability_service.md, R296, R297, R309, R315, R317, R584,
R587, R591) -/
def Obligations.MemoryErrorsAndFences : Prop :=
  (∀ (frame unit glove : Nat) (system rr : Bool) (s : State), ∃ t : State, exec (.hbmUncorrectedRead frame unit glove system rr) s = .next t ∧ s.OnlyChanges [.arr, .seq, .mem, .glv, .stw, .host, .aos, .regs, .out, .freeCtr] t ∧
      ((s.frame frame).mode = .absent → t = s) ∧
      ((s.frame frame).mode ≠ .absent → rr = false → (frame, unit) ∉ (s.stack (s.frame frame).stack).poisonList → (s.stack (s.frame frame).stack).poisonList.length < 64 →
        (t.stack (s.frame frame).stack).poisonList = (s.stack (s.frame frame).stack).poisonList ++ [(frame, unit)] ∧ (t.frame frame).poison = true ∧ (∀ f, f ≠ frame → t.frame f = s.frame f) ∧ t.mem.near = s.mem.near)) ∧
  (∀ (part idx dev unit : Nat) (s : State), ∃ t : State, exec (.correctedError part idx dev unit) s = .next t ∧ s.OnlyChanges [.mstate, .mem, .regs] t ∧
      (part = 2 → idx < s.variant.hbmStacks → (s.stack idx).retired = false → (t.stack idx).ceWin = (s.stack idx).ceWin + 1 ∧ (t.stack idx).retired = false) ∧
      (part = 3 → s.portSt false idx ≠ .absent → s.portSt false idx ≠ .fenced → s.fld Adr.rasCethr 0 16 = 0 → (t.mem.ddr.at idx).ceWin = (s.mem.ddr.at idx).ceWin + 1 ∧ t.portSt false idx = s.portSt false idx) ∧
      (part = 4 → s.portSt true idx ≠ .absent → s.portSt true idx ≠ .fenced → s.fld Adr.rasCethr 32 8 = 0 → (t.mem.dpp.at idx).errWin = (s.mem.dpp.at idx).errWin + 1) ∧
      (part < 2 ∨ 4 < part → t = s)) ∧
  (∀ (frame : Nat) (s : State), ∃ t : State, exec (.frameRetirement frame) s = .next t ∧ s.OnlyChanges [.mem, .regs] t ∧
      (frame ∉ s.mem.retireWait → t = s) ∧
      (∀ b, frame ∈ s.mem.retireWait → (s.frame frame).mode ≠ .absent → (s.mem.tmap.find? fun p => p.1 != frame && p.2.mode == .free && s.stackDie p.2.stack == s.frameDie frame
          && (p.2.stack == (s.frame frame).stack || (s.stack p.2.stack).poisonList.length + ((s.stack (s.frame frame).stack).poisonList.filter fun q => q.1 = frame).length ≤ 64)).map (·.1) = some b →
        t.frame b = default ∧ (t.frame frame).stack = (s.frame b).stack ∧ (t.frame frame).pframe = (s.frame b).pframe ∧ (t.frame frame).glove = (s.frame frame).glove ∧ (t.frame frame).mode = (s.frame frame).mode ∧ frame ∉ t.mem.retireWait)) ∧
  (∀ (chan unit dev cause : Nat) (s : State), ∃ t : State, exec (.ddrUncorrectedError chan unit dev cause) s = .next t ∧ s.OnlyChanges [.mstate, .seq, .mem, .stw, .host, .regs, .out, .freeCtr] t ∧
      (s.portSt false chan = .absent ∨ s.portSt false chan = .fenced → t = s) ∧
      (s.portSt false chan ≠ .absent → s.portSt false chan ≠ .fenced → s.extentsOn false chan = [] → s.mem.relocs = [] → (∀ r ∈ s.mem.queue, r.op ≠ 3) → t.portSt false chan = .fenced)) ∧
  (∀ (port : Nat) (s : State), ∃ t : State, exec (.deepPortLinkDown port) s = .next t ∧ s.OnlyChanges [.mstate, .seq, .mem, .stw, .host, .regs, .out, .freeCtr] t ∧
      (s.portSt true port = .absent ∨ s.portSt true port = .fenced → t = s) ∧
      (s.portSt true port ≠ .absent → s.portSt true port ≠ .fenced → s.extentsOn true port = [] → s.mem.relocs = [] → (∀ r ∈ s.mem.queue, r.op ≠ 3) → t.portSt true port = .fenced ∧ (t.mem.dpp.at port).nvmeReady = false)) ∧
  (∀ (port ident : Nat) (ok : Bool) (s : State), ∃ t : State, exec (.nvmeCommandComplete port ident ok) s = .next t ∧ s.OnlyChanges [.mstate, .seq, .mem, .glv, .stw, .host, .regs, .out, .freeCtr] t ∧
      (s.portSt true port = .absent ∨ s.portSt true port = .fenced → t = s) ∧
      (s.portSt true port ≠ .absent → s.portSt true port ≠ .fenced → ok = true → t.reg (Adr.dppCntCmd port) = s.reg (Adr.dppCntCmd port) + 1 ∧ s.OnlyChanges [.regs] t ∧ ∀ a, a ≠ Adr.dppCntCmd port → t.reg a = s.reg a)) ∧
  (∀ (n : Nat) (s : State), ∃ t : State, exec (.stackControllerFailure n) s = .next t ∧ s.OnlyChanges [.mstate, .dies, .arr, .seq, .mem, .glv, .stw, .net, .host, .aos, .regs, .out, .freeCtr] t ∧
      (s.variant.hbmStacks ≤ n ∨ (s.stack n).retired = true → t = s) ∧
      (∀ x, n < s.variant.hbmStacks → (s.stack n).retired = false → s.mem.tmap = [] → s.stw.nodes = [] → x < s.variant.perDie → x + s.variant.perDie * s.stackDie n ≠ n → (s.stack (x + s.variant.perDie * s.stackDie n)).retired = false →
        State.fittedDies.all s.dieFenced = false → s.aos.iodFenced = [] → (t.stack n).retired = true ∧ (t.stack n).trained = false ∧ (t.stack n).power = 2 ∧ ∀ k, k ≠ n → t.stack k = s.stack k)) ∧
  (∀ (die : Nat) (iod : Option Nat) (s : State), ∃ t : State, exec (.dieToDiePortFailure die iod) s = .next t ∧ s.OnlyChanges [.mstate, .dies, .arr, .seq, .mem, .glv, .stw, .net, .host, .aos, .regs, .out, .freeCtr] t ∧
      (8 ≤ die ∨ (s.die die).fullFence = true → t = s) ∧
      (die < 8 → (s.die die).fullFence = false → (t.die die).fullFence = true ∧ (t.die die).held = false ∧ (t.die die).stepping = none ∧ ∀ k, k ≠ die → t.die k = s.die k))

/-- Each completes in every state. A returned channel or port whose training succeeds is ACTIVE with what the training found, and its command is over;
one with no return under way changes nothing. A deep port whose NVMe controller is ready at a format it supports becomes ACTIVE with its link and
capacity, a controller without one is FENCED. A stack in training that trains is in service and active, and one that fails fewer than three times
tries again. The wide tier trains once, from stage 5. A packed block that decodes counts its 64 B units in and out and changes nothing else; DQS
tracking changes nothing. (08_memory_tiers.md, 16_bringup_reset_clocks.md, 07_scratchpad_streams.md, R271, R309, R315, R316, R572) -/
def Obligations.MemoryPartsTrained : Prop :=
  (∀ (deep : Bool) (idx : Nat) (ok : Bool) (info : DimmInfo) (capB : Nat) (s : State), ∃ t : State, exec (.returnTrainingComplete deep idx ok info capB) s = .next t ∧ s.OnlyChanges [.mstate, .mem, .host, .regs, .out] t ∧
      ((if deep then (s.mem.dpp.at idx).returnCmd else (s.mem.ddr.at idx).returnCmd) = none → t = s) ∧
      (∀ c, deep = false → (s.mem.ddr.at idx).returnCmd = some c → ok = true → (∀ p ∈ s.mem.ddr, p.1 ≠ idx → p.2.st ≠ .absent → p.2.mismatch = false → p.2.mrdimm = info.mrdimm ∧ p.2.speed = info.speed) → t.mem.ddr.at idx = { s.mem.ddr.at idx with st := .active, mrdimm := info.mrdimm, x4 := info.x4, speed := info.speed, capGB := info.capGB, mismatch := false, ceWin := 0, returnCmd := none }) ∧
      (∀ c, deep = true → (s.mem.dpp.at idx).returnCmd = some c → ok = true → t.mem.dpp.at idx = { s.mem.dpp.at idx with st := .active, nvmeReady := true, capB := offered capB, returnCmd := none })) ∧
  (∀ (chan : Nat) (s : State), ∃ t : State, exec (.dqsTracking chan) s = .next t ∧ s.OnlyChanges [] t ∧
      (t = s)) ∧
  (∀ (die entry block glove : Nat) (s : State), ∃ t : State, exec (.packedBlockDecode die entry block glove) s = .next t ∧ s.OnlyChanges [.arr, .seq, .mem, .glv, .stw, .host, .aos, .regs, .out, .freeCtr] t ∧
      (s.prtFld die entry 3 63 1 = 0 ∨ s.prtFld die entry 3 56 6 ≠ glove ∨ s.prtFld die entry 1 0 32 ≤ block ∨ 64 ≤ entry → t = s) ∧
      (∀ d o, s.prtFld die entry 3 63 1 ≠ 0 → s.prtFld die entry 3 56 6 = glove → block < s.prtFld die entry 1 0 32 → entry < 64 → s.packedBytes die entry block ⟨glove, (s.glove glove).key, false⟩ = .ok d → unpack d = some o →
        t.reg (Adr.expCntIn (s.packedCtl die entry block).1) = s.reg (Adr.expCntIn (s.packedCtl die entry block).1) + BitVec.ofNat 64 (d.length / 64) ∧
        t.reg (Adr.expCntOut (s.packedCtl die entry block).1) = s.reg (Adr.expCntOut (s.packedCtl die entry block).1) + 64 ∧ s.OnlyChanges [.regs] t)) ∧
  (∀ (port : Nat) (fmtOk : Bool) (gen width capB : Nat) (s : State), ∃ t : State, exec (.deepPortNvmeReady port fmtOk gen width capB) s = .next t ∧ s.OnlyChanges [.mem, .stw, .regs] t ∧
      (4 ≤ port ∨ s.inA = false ∨ s.prof 0 19 1 = 0 ∨ s.aos.iodFenced.contains port = true → t = s) ∧
      (port < 4 → s.inA = true → s.prof 0 19 1 ≠ 0 → s.aos.iodFenced.contains port = false → (s.mem.dpp.at port).st = .absent →
        t.mem.dpp.at port = (if fmtOk then { s.mem.dpp.at port with st := .active, gen := gen, width := width, nvmeReady := true, capB := offered capB } else { s.mem.dpp.at port with st := .fenced, gen := gen, width := width, nvmeReady := false }))) ∧
  (∀ (n : Nat) (ok : Bool) (s : State), ∃ t : State, exec (.stackTrainingAttempt n ok) s = .next t ∧ s.OnlyChanges [.mstate, .dies, .arr, .seq, .mem, .glv, .stw, .net, .host, .aos, .regs, .out, .freeCtr] t ∧
      ((s.die (s.stackDie n)).bring ≠ 2 → t = s) ∧
      (n < s.variant.hbmStacks → (s.die (s.stackDie n)).bring = 2 → (s.stack n).trained = false → (s.stack n).retired = false → s.dieFenced (s.stackDie n) = false →
        (ok = true → (t.stack n).trained = true ∧ (t.stack n).power = 0 ∧ (t.stack n).retired = false) ∧ (ok = false → (s.stack n).tries + 1 < 3 → (t.stack n).tries = (s.stack n).tries + 1 ∧ (t.stack n).trained = false ∧ t.dies = s.dies))) ∧
  (∀ (dimms : List DimmInfo) (s : State), ∃ t : State, exec (.wideTierTrained dimms) s = .next t ∧ s.OnlyChanges [.mem, .aos, .regs] t ∧
      (s.aos.stage < 5 ∨ s.aos.wideTrained = true → t = s) ∧
      (∀ d : DimmInfo, 5 ≤ s.aos.stage → s.aos.wideTrained = false → t.aos = { s.aos with wideTrained := true } ∧
        (dimms = [d] → d.channel < s.variant.channels → d.trained = true → s.portSt false d.channel ≠ .fenced → s.aos.pllBad.contains (.ddr (d.channel / 6)) = false → s.aos.iodFenced.contains (d.channel / 6) = false →
          t.portSt false d.channel = .active ∧ (t.mem.ddr.at d.channel).speed = d.speed ∧ (t.mem.ddr.at d.channel).mrdimm = d.mrdimm)))

/-- Each completes in every state. A header written in the staging range enters its record under its DEST. A named phase whose time is reached opens
round 0 in the count stage with its own count row first, and a later round opens at its start, charged E_ROUND and flagged; without a held tick the
phase ends with the abort flag set. After its count stage a later round sends its records with every link in service. A record of the generation in
force takes the next position of its destination, an older one raises STALE and a newer one EARLY. A FWD record leaves on OUTLINK. At the close of the
last round without a failure the phase is idle again, before it the next round waits for its continuation, and a failure ends the phase with the abort
flag. (09_expert_exchange.md, R327, R335, R338, R339, R340, R341, R343, R345, R346, R348) -/
def Obligations.ExchangePhases : Prop :=
  (∀ (plan rec : Nat) (header : Word) (s : State), ∃ t : State, exec (.stagingRecordEntry plan rec header) s = .next t ∧ s.OnlyChanges [.mem, .stw, .regs] t ∧
      ((s.plan plan).valid = false ∨ (s.plan plan).slen ≤ rec * (s.plan plan).rlen → t = s) ∧
      (∀ h : Word, h = (if (s.plan plan).stamp then header.setField 24 16 (s.fld (Adr.xchGen (s.plan plan).glove) 0 16) else header) → (s.plan plan).valid = true → rec * (s.plan plan).rlen < (s.plan plan).slen →
        ∃ u : State, u.plan plan = { s.plan plan with entered := (s.plan plan).entered.put rec (h.field 0 12 + 1), badDest := (s.plan plan).badDest || (h.field 0 12 != 0xFFF && h.field 0 12 ≥ (s.plan plan).dests.length) } ∧
        (h.field 0 12 ≠ 0xFFF → u = s.onPlan plan fun x => { x with entered := x.entered.put rec (h.field 0 12 + 1), badDest := x.badDest || (h.field 0 12 != 0xFFF && h.field 0 12 ≥ x.dests.length) }) ∧
        (∃ m b, t.plan plan = { u.plan plan with entered := m, badDest := b }) ∧ (t = u.stewardWrite ((s.plan plan).sbase + rec * (s.plan plan).rlen) (toBytes h.toNat 8)))) ∧
  (∀ (plan : Nat) (rows : List CountRow) (late : Bool) (s : State), ∃ t : State, exec (.exchangePhaseStart plan rows late) s = .next t ∧ s.OnlyChanges [.arr, .seq, .mem, .glv, .stw, .regs, .out, .freeCtr] t ∧
      (s.turn (.phase plan) = false → t = s) ∧
      (s.turn (.phase plan) = true → s.tickHeld = false → (t.plan plan).stage = .idle ∧ t.flag Adr.xchEvt 0 = true) ∧
      (s.turn (.phase plan) = true → s.tickHeld = true →
        (t.plan plan).stage = .count ∧ (t.plan plan).accepted = (s.plan plan).dests.map (fun _ => 0) ∧ (t.plan plan).rows.tail = rows.filter (fun r => r.part ≠ (s.plan plan).self ∧ r.part < (s.plan plan).npart) ∧
        (t.plan plan).rows.head?.map (fun r => (r.part, r.tag, r.ofs, r.n, r.counts)) = some ((s.plan plan).self, (s.plan plan).tag, (s.plan plan).ofs0, s.tick.n, (List.range (s.plan plan).dests.length).map fun d => (State.enteredFor (t.plan plan) d).length))) ∧
  (∀ (plan : Nat) (bad : List Nat) (late : Bool) (s : State), ∃ t : State, exec (.dataStage plan bad late) s = .next t ∧ s.OnlyChanges [.arr, .seq, .stw, .regs, .out] t ∧
      ((s.plan plan).stage ≠ .count ∨ s.nowRc < s.roundStart (s.plan plan) + (s.plan plan).clen → t = s) ∧
      ((s.plan plan).stage = .count → s.roundStart (s.plan plan) + (s.plan plan).clen ≤ s.nowRc → (s.plan plan).round ≠ 0 → (s.plan plan).fail = none → s.tickHeld = true → (∀ e ∈ (s.plan plan).slots, e.link ∉ bad ∧ (s.net.links.at e.link).st = .up2 ∧ (e.kind = 2 → e.outlink ∉ bad ∧ (s.net.links.at e.outlink).st = .up2)) → late = false →
        t = (s.onPlan plan fun y => { y with stage := .data }).sendRound plan [])) ∧
  (∀ (plan : Nat) (rec : List Byte) (s : State), ∃ t : State, exec (.receiveRecord plan rec) s = .next t ∧ s.OnlyChanges [.arr, .seq, .stw, .regs, .out] t ∧
      ((s.plan plan).valid = false ∨ ((s.plan plan).stage ≠ .count ∧ (s.plan plan).stage ≠ .data) → t = s) ∧
      (∀ (h : Word) (d age : Nat), h = BitVec.ofNat 64 (leAt rec 0 8) → d = h.field 0 12 → age = (s.fld (Adr.xchGen (s.plan plan).glove) 0 16 + 65536 - h.field 24 16) % 65536 → (s.plan plan).valid = true → ((s.plan plan).stage = .count ∨ (s.plan plan).stage = .data) →
        d < (s.plan plan).dests.length → ((s.plan plan).dests.getD d default).part = (s.plan plan).self → (s.plan plan).accepted.getD d 0 < ((s.plan plan).dests.getD d default).wcap →
        ((s.plan plan).genchk = true → 32768 ≤ age → t = (s.onPlan plan fun x => { x with arrived := x.arrived + 1 }).raise Adr.xchEvt 3) ∧ ((s.plan plan).genchk = true → 0 < age → age < 32768 → t = (s.onPlan plan fun x => { x with arrived := x.arrived + 1 }).raise Adr.xchEvt 2) ∧
        ((s.plan plan).genchk = false ∨ age = 0 → (t.plan plan).accepted = (s.plan plan).accepted.set d ((s.plan plan).accepted.getD d 0 + 1) ∧ (t.plan plan).arrived = (s.plan plan).arrived + 1))) ∧
  (∀ (plan slot : Nat) (rec : List Byte) (s : State), ∃ t : State, exec (.fwdSlot plan slot rec) s = .next t ∧ s.OnlyChanges [.stw, .out] t ∧
      ((s.plan plan).slots[slot]? = none ∨ (s.plan plan).valid = false ∨ (s.plan plan).stage ≠ .data → t = s) ∧
      (∀ e, (s.plan plan).slots[slot]? = some e → (s.plan plan).valid = true → e.kind = 2 → (s.plan plan).stage = .data → s.tickHeld = true →
        ((s.net.links.at e.outlink).st = .up2 → t = { s with out := .xRecord plan e.dst e.outlink rec :: s.out }) ∧ ((s.net.links.at e.outlink).st ≠ .up2 → (s.plan plan).fail = none → (t.plan plan).fail = some (0x22, (s.plan plan).self)))) ∧
  (∀ (plan : Nat) (s : State), ∃ t : State, exec (.exchangeRoundOpen plan) s = .next t ∧ s.OnlyChanges [.arr, .seq, .mem, .glv, .stw, .regs, .freeCtr] t ∧
      (s.turn (.round plan) = false → t = s) ∧
      (s.turn (.round plan) = true → s.tickHeld = false → (t.plan plan).stage = .idle ∧ t.flag Adr.xchEvt 0 = true) ∧
      (s.turn (.round plan) = true → s.tickHeld = true →
        t.plan plan = { s.plan plan with stage := .count, accepted := (s.plan plan).dests.map fun _ => 0, arrived := 0 } ∧ (t.glove (s.plan plan).glove).bal = (s.glove (s.plan plan).glove).bal - (s.plan plan).eround)) ∧
  (∀ (plan : Nat) (st : List (Nat × Nat)) (s : State), ∃ t : State, exec (.closeStage plan st) s = .next t ∧ s.OnlyChanges [.arr, .seq, .mem, .stw, .regs, .out, .freeCtr] t ∧
      ((s.plan plan).stage ≠ .data ∨ s.nowRc < s.roundStart (s.plan plan) + (s.plan plan).clen + (s.plan plan).dlen → t = s) ∧
      ((s.plan plan).stage = .data → s.roundStart (s.plan plan) + (s.plan plan).clen + (s.plan plan).dlen ≤ s.nowRc →
        ((t.plan plan).stage = .pending ∧ (t.plan plan).round = (s.plan plan).round + 1) ∨ ((t.plan plan).stage = .idle ∧ (t.plan plan).round = 0 ∧ (t.plan plan).fail = none)) ∧
      ((s.plan plan).stage = .data → s.roundStart (s.plan plan) + (s.plan plan).clen + (s.plan plan).dlen ≤ s.nowRc → (s.plan plan).fail ≠ none → (t.plan plan).stage = .idle ∧ t.flag Adr.xchEvt 0 = true) ∧
      (s.tickHeld = true → (s.plan plan).stage = .data → s.roundStart (s.plan plan) + (s.plan plan).clen + (s.plan plan).dlen ≤ s.nowRc → (s.plan plan).fail = none → State.stoppedSender (s.plan plan) = none → (∀ d ∈ (s.plan plan).dests, d.part ≠ (s.plan plan).self) →
        (∀ q < (s.plan plan).npart, q ≠ (s.plan plan).self → st.find? (fun y => y.1 == q) = some (q, 0)) →
        if (s.plan plan).rounds ≤ (s.plan plan).round + 1 then (t.plan plan).stage = .idle ∧ t.reg Adr.xchCntPhase = s.reg Adr.xchCntPhase + 1
        else (t.plan plan).stage = .pending ∧ (t.plan plan).round = (s.plan plan).round + 1 ∧ t.reg Adr.xchCntPhase = s.reg Adr.xchCntPhase))

/-- Each completes in every state. A step whose sampler has run and whose commit tick is reached leaves the glove with no step and no rows, keeps its
token deliveries, clears the requests of its rows, and the next step is built. A DONE record at the head of the reports of a serving glove takes the
step to its sampler, an ABORT record abandons it: no rows, ABANDONED and the flag, before the next one is built; reserved records are skipped. The
sampler that finishes every row leaves the rows sampled with the commit at the next boundary, one that cannot abandons the step.
(10_sequences_steps.md, R362, R365, R366, R369, R370, R371) -/
def Obligations.ServingSteps : Prop :=
  (∀ (g : Nat) (s : State), ∃ t : State, exec (.stepCommit g) s = .next t ∧ s.OnlyChanges [.seq, .mem, .glv, .stw, .host, .regs, .out, .freeCtr] t ∧
      (s.turn (.commit g) = false → t = s) ∧
      (s.turn (.commit g) = true → ∃ u : State, t = ((u.commitResidency g).swapReached g).buildStep g ∧ (u.serve g).phase = 0 ∧ (u.serve g).rows = [] ∧
        (u.serve g).last = ((s.serve g).rows.filter fun r => (s.seqEnt r.seq).instep && !(s.seqEnt r.seq).canreq).flatMap (s.rowEntries (s.serve g).step) ∧
        ∀ r ∈ (s.serve g).rows, (u.seqEnt r.seq).instep = false ∧ (u.seqEnt r.seq).canreq = false ∧ (u.seqEnt r.seq).pausereq = false)) ∧
  (∀ (g : Nat) (s : State), ∃ t : State, exec (.stepDone g) s = .next t ∧ s.OnlyChanges [.dies, .arr, .seq, .mem, .glv, .stw, .host, .regs, .out, .freeCtr] t ∧
      (s.gsqOf g = none ∨ s.serves g = false → t = s) ∧
      (∀ q, s.gsqOf g = some q → s.serves g = true → (((State.dropReserved (s.gsq q).reports).find? fun r => decide (r.code < 0x100)).map (·.code)) = some 1 → t.serve g = (if (s.serve g).phase = 1 then { s.serve g with phase := 2 } else s.serve g))) ∧
  (∀ (g : Nat) (s : State), ∃ t : State, exec (.stepAbort g) s = .next t ∧ s.OnlyChanges [.dies, .arr, .seq, .mem, .glv, .stw, .host, .regs, .out, .freeCtr] t ∧
      (s.gsqOf g = none ∨ s.serves g = false → t = s) ∧
      (∀ q, s.gsqOf g = some q → s.serves g = true → (((State.dropReserved (s.gsq q).reports).find? fun r => decide (r.code < 0x100)).map (·.code)) = some 2 → ((s.serve g).phase = 0 → t.stw = s.stw) ∧ ((s.serve g).phase ≠ 0 → (∀ i, (s.seqEnt i).canreq = false ∧ (s.seqEnt i).pausereq = false) →
        ∃ u : State, t = (((u.raise Adr.stwEvt 2).raiseGen g).swapReached g).buildStep g ∧ u.serve g = { s.serve g with phase := 0, abandoned := true, rows := [] } ∧ ∀ r ∈ (s.serve g).rows, (u.seqEnt r.seq).dlen = 0 ∧ (u.seqEnt r.seq).instep = false))) ∧
  (∀ (g : Nat) (s : State), ∃ t : State, exec (.samplerFinish g) s = .next t ∧ s.OnlyChanges [.seq, .mem, .glv, .stw, .host, .regs, .out, .freeCtr] t ∧
      ((s.serve g).phase ≠ 2 → t = s) ∧
      ((s.serve g).phase = 2 → (∀ u rows, s.sampleRows g (s.serve g).rows 0 = some (u, rows) → t = u.onServe g (fun v => { v with rows := rows, phase := 3, commit := s.nextBoundary }) ∧ (t.serve g).phase = 3) ∧ (s.sampleRows g (s.serve g).rows 0 = none → t = (s.abandonStep g).buildStep g)))

/-- Each completes in every state. TTL_EXPIRY acts when the sequence's TTL is the first event due: a COMPLETE one goes down to the wide tier when TTLW
is not 0, else to the deep tier when TTLD is not 0, else ends EXPIRED. An extent whose TTL is reached is freed, or marked when it is in use. A seal
job that is all in frees the cache and ends; a waiting seal is tried again toward its tier, not before the tick after its failure; a resume that waits
for pages takes them or goes on waiting; one that is all in returns the sequence and its glove builds. AUTO_RESUME resumes an AUTO sequence in the
wide tier when the pages it lacks are free. (10_sequences_steps.md, 08_memory_tiers.md, 11_sampling_prefixes_models.md, R318, R376, R408, R409, R410,
R411) -/
def Obligations.SequenceExpiryAndPages : Prop :=
  (∀ (seq : Nat) (s : State), ∃ t : State, exec (.autoResume seq) s = .next t ∧ s.OnlyChanges [.mem, .stw, .host, .regs, .out, .freeCtr] t ∧
      ((s.seqEnt seq).st ≠ .pausedWide ∨ (s.seqEnt seq).auto = false ∨ (s.seqEnt seq).resuming = true → t = s) ∧
      ((s.seqEnt seq).st = .pausedWide → (s.seqEnt seq).auto = true → (s.seqEnt seq).resuming = false → (s.seqEnt seq).job = none → (s.seqEnt seq).retry = none → (s.missingPages seq (s.seqEnt seq).clen).length ≤ (s.freePages (s.seqEnt seq).glove).length → t = s.resumeSeq seq)) ∧
  (∀ (seq : Nat) (s : State), ∃ t : State, exec (.ttlExpiry seq) s = .next t ∧ s.OnlyChanges [.mem, .stw, .host, .regs, .out, .freeCtr] t ∧
      (s.turn (.ttl seq) = false → t = s) ∧
      (∀ u : State, s.turn (.ttl seq) = true → u = (s.onSeqEnt seq fun e => { e with expiry := 0 }) →
        (((s.seqEnt seq).st = .complete ∨ (s.seqEnt seq).st = .pausedNear) → (s.seqEnt seq).job = none → (s.seqEnt seq).retry = none →
        t = if (s.seqEnt seq).ttlw ≠ 0 then u.sealDown seq .pausedWide false else if (s.seqEnt seq).ttld ≠ 0 then u.sealDown seq .pausedDeep false else u.endSeq seq .expired stOK) ∧
        ((s.seqEnt seq).st = .pausedWide → (s.seqEnt seq).ttld ≠ 0 → (s.seqEnt seq).job = none → t = u.moveDown seq) ∧ ((s.seqEnt seq).st = .pausedDeep → t = u.endSeq seq .expired stOK))) ∧
  (∀ (slot : Nat) (s : State), ∃ t : State, exec (.extentTtlExpiry slot) s = .next t ∧ s.OnlyChanges [.mem, .regs] t ∧
      (s.turn (.ttlExtent slot) = false → t = s) ∧
      (s.turn (.ttlExtent slot) = true → (s.extent slot).st ≠ .free → if (s.extent slot).st = .writing ∨ (s.extent slot).st = .moving ∨ (s.extent slot).copies > 0 then t.extent slot = { s.extent slot with expiry := none, dying := true } else t.extent slot = { (default : ExtentSt) with inc := (s.extent slot).inc } ∧ slot ∈ t.mem.extFreed)) ∧
  (∀ (seq : Nat) (s : State), ∃ t : State, exec (.cacheSealComplete seq) s = .next t ∧ s.OnlyChanges [.mem, .stw, .regs] t ∧
      (s.seqEnded seq = true ∨ (s.seqEnt seq).job = none → t = s) ∧
      (∀ j, s.seqEnded seq = false → (s.seqEnt seq).job = some j → j.kind = 0 → j.left = [] → j.toAccept = 0 → t = ((s.freeCache seq).onSeqEnt seq fun e => { e with job := none }).count Adr.resCntDown ∧ (t.seqEnt seq).job = none ∧ (t.seqEnt seq).refnode = 0)) ∧
  (∀ (seq : Nat) (s : State), ∃ t : State, exec (.sealRetry seq) s = .next t ∧ s.OnlyChanges [.mem, .stw, .regs, .freeCtr] t ∧
      (s.tick.tick < (s.seqEnt seq).retryAt ∨ (s.seqEnt seq).retry = none ∨ (s.seqEnt seq).job ≠ none ∨ (s.seqEnt seq).resuming = true ∨ s.seqEnded seq = true → t = s) ∧
      (∀ d, (s.seqEnt seq).retryAt ≤ s.tick.tick → (s.seqEnt seq).retry = some d → (s.seqEnt seq).job = none → (s.seqEnt seq).resuming = false → s.seqEnded seq = false → t = if (s.seqEnt seq).st = .pausedWide ∧ d = .pausedDeep ∧ (s.seqEnt seq).handles ≠ [] then s.moveDown seq else s.sealDown seq d (s.seqEnt seq).retryAuto)) ∧
  (∀ (seq : Nat) (s : State), ∃ t : State, exec (.resumePageRetry seq) s = .next t ∧ s.OnlyChanges [.mem, .stw, .regs] t ∧
      (s.tick.tick < (s.seqEnt seq).retryAt ∨ (s.seqEnt seq).resuming = false ∨ (s.seqEnt seq).job ≠ none ∨ (s.seqEnt seq).retry = none → t = s) ∧
      ((s.seqEnt seq).retryAt ≤ s.tick.tick → (s.seqEnt seq).resuming = true → (s.seqEnt seq).job = none → (s.seqEnt seq).retry ≠ none → (s.takePages seq (s.seqEnt seq).clen = none → t.seqEnt seq = { s.seqEnt seq with retry := some (s.seqEnt seq).rfrom, retryAt := s.tick.tick + 1 }) ∧ t = s.resumeTake seq)) ∧
  (∀ (seq : Nat) (s : State), ∃ t : State, exec (.resumeCopyComplete seq) s = .next t ∧ s.OnlyChanges [.seq, .mem, .glv, .stw, .host, .regs, .out, .freeCtr] t ∧
      (s.seqEnded seq = true → t = s) ∧
      (∀ j, s.seqEnded seq = false → (s.seqEnt seq).job = some j → j.kind = 2 → j.left = [] → t = ((((s.freeExtents seq).onSeqEnt seq fun e => { e with job := none })).returnSeq seq).buildStep (s.seqEnt seq).glove))

/-- A command that names an issued entry by its handle and owner key slot, in each state of the entry. APPEND of a COMPLETE sequence within the
context limit completes, beyond it is out of bounds; in another state it is refused. CANCEL of an ADMITTED or paused sequence, or of a PREFILL or
DECODE one outside a step, makes it CANCELLED; in a step it is held with CANREQ set and PAUSEREQ cleared; COMPLETE answers ALREADY_COMPLETE; CANCELLED
and EXPIRED refuse. PAUSE of a PREFILL or DECODE sequence outside a step, or of a COMPLETE one, makes it PAUSED_NEAR with RFROM the state left; in a
step it is held; with CANREQ, or in another state, it is refused. RESUME of a paused sequence that is not returning completes; other states refuse.
RELEASE of a COMPLETE, CANCELLED or EXPIRED one with no copy in flight frees the entry, which keeps INC and goes last among the freed. ADMIT answers
the first failing condition of admission, or the handle of the entry that it takes; ROUTE_ADMIT on the router goes to the first open module of its
order, is refused when none is left, and on another role. (10_sequences_steps.md, R355, R356, R357, R358, R359, R360) -/
def Obligations.SequenceCommands : Prop :=
  (∀ (c : HostCmd) (s : State), ∃ t : State, exec (.admitSeq c) s = .next t ∧ s.OnlyChanges [.seq, .mem, .glv, .stw, .host, .regs, .out, .freeCtr] t ∧
      (∀ u : State, s.Accepts c 0x040 [bits 0 56, bits 0 56, bits 0 40, bits 0 56, allBits, bits 0 32] u → (u.inS = false → t = u.seqConflict c 0 (State.mcode u.mstate) 0) ∧ (∀ st, u.inS = true → u.admitCheck c = some st → t = u.admitRefuse c st) ∧
        (u.inS = true → u.admitCheck c = none → t = (u.admitSeq c).1.complete c stOK ((u.admitSeq c).1.seqHandle (u.admitSeq c).2)) ∧ ((u.glove (c.a1.field 0 6)).live = false → u.admitCheck c = some stOwner) ∧
        ((u.glove (c.a1.field 0 6)).live = true → u.serves (c.a1.field 0 6) = false → u.admitCheck c = some stConflict) ∧
        ((u.glove (c.a1.field 0 6)).live = true → u.serves (c.a1.field 0 6) = true → c.a1.field 6 8 ≠ (u.glove (c.a1.field 0 6)).key → u.admitCheck c = some stOwner))) ∧
  (∀ (c : HostCmd) (s : State), ∃ t : State, exec (.append c) s = .next t ∧ s.OnlyChanges [.seq, .mem, .glv, .stw, .host, .regs, .out, .freeCtr] t ∧
      (∀ u : State, s.Accepts c 0x042 [bits 0 40, bits 0 56, bits 0 40] u → u.inS = true → ∀ i, i < 2 ^ 17 → (u.seqEnt i).inc < 256 → c.a1.field 0 32 = u.seqHandle i → (u.seqEnt i).st ≠ .free → (u.seqEnt i).key = c.a1.field 32 8 → ((u.seqEnt i).st ≠ .complete → t = u.seqRefuse c i) ∧ ((u.seqEnt i).st = .complete → (u.model (u.seqEnt i).model).ctxmax < (u.seqEnt i).clen + 1 + c.a3.field 0 20 + c.a3.field 20 20 → t = u.refuse c stBound) ∧
        ((u.seqEnt i).st = .complete → 0 < c.a3.field 0 20 → 0 < c.a3.field 20 20 → (u.seqEnt i).clen + 1 + c.a3.field 0 20 + c.a3.field 20 20 ≤ (u.model (u.seqEnt i).model).ctxmax →
          (∃ v : State, t = v.complete c stOK) ∧ ((u.seqEnt i).job = none → (u.seqEnt i).retry = none → (u.serve (u.seqEnt i).glove).phase ≠ 0 →
            (t.seqEnt i) = { u.seqEnt i with st := .prefill, plen := c.a3.field 0 20, ita := c.a2.field 0 56, outmax := c.a3.field 20 20, outn := 0, expiry := 0, run := 0, dlen := 0 } ∧
              (t.serve (u.seqEnt i).glove).autoBack = (u.serve (u.seqEnt i).glove).autoBack ++ [i])))) ∧
  (∀ (c : HostCmd) (s : State), ∃ t : State, exec (.cancel c) s = .next t ∧ s.OnlyChanges [.mem, .stw, .host, .regs, .out] t ∧
      (∀ u : State, s.Accepts c 0x043 [bits 0 40] u → u.inA = true → ∀ i, i < 2 ^ 17 → (u.seqEnt i).inc < 256 → c.a1.field 0 32 = u.seqHandle i → (u.seqEnt i).st ≠ .free → (u.seqEnt i).key = c.a1.field 32 8 → ((u.seqEnt i).st = .admitted ∨ (u.seqEnt i).st = .pausedNear ∨ (u.seqEnt i).st = .pausedWide ∨ (u.seqEnt i).st = .pausedDeep ∨ (((u.seqEnt i).st = .prefill ∨ (u.seqEnt i).st = .decode) ∧ (u.seqEnt i).instep = false) →
          (t.seqEnt i).st = .cancelled ∧ (t.seqEnt i).cancelCmds = [] ∧ (t.seqEnt i).expiry = 0 ∧ ∀ j, j ≠ i → (t.seqEnt j).st = (u.seqEnt j).st) ∧
        ((u.seqEnt i).st = .prefill ∨ (u.seqEnt i).st = .decode → (u.seqEnt i).instep = true → (t.seqEnt i) = { u.seqEnt i with canreq := true, pausereq := false, cancelCmds := (u.seqEnt i).cancelCmds ++ [c] } ∧ ∀ j, j ≠ i → t.seqEnt j = u.seqEnt j) ∧
        ((u.seqEnt i).st = .complete → t = (u.count Adr.stwCntLatecan).refuse c 0x43 (2 + 7 * 2 ^ 4 + u.seqHandle i * 2 ^ 32)) ∧ ((u.seqEnt i).st = .cancelled ∨ (u.seqEnt i).st = .expired → t = u.seqRefuse c i))) ∧
  (∀ (c : HostCmd) (s : State), ∃ t : State, exec (.pause c) s = .next t ∧ s.OnlyChanges [.mem, .stw, .host, .regs, .out, .freeCtr] t ∧
      (∀ u : State, s.Accepts c 0x044 [bits 0 40] u → u.inA = true → ∀ i, i < 2 ^ 17 → (u.seqEnt i).inc < 256 → c.a1.field 0 32 = u.seqHandle i → (u.seqEnt i).st ≠ .free → (u.seqEnt i).key = c.a1.field 32 8 → ((u.seqEnt i).st = .complete ∨ (((u.seqEnt i).st = .prefill ∨ (u.seqEnt i).st = .decode) ∧ (u.seqEnt i).canreq = false ∧ (u.seqEnt i).instep = false) → (t.seqEnt i).st = .pausedNear ∧ (t.seqEnt i).rfrom = (u.seqEnt i).st) ∧
        ((u.seqEnt i).st = .prefill ∨ (u.seqEnt i).st = .decode → (u.seqEnt i).canreq = false → (u.seqEnt i).instep = true → (t.seqEnt i) = { u.seqEnt i with pausereq := true, pauseCmds := (u.seqEnt i).pauseCmds ++ [c] } ∧ ∀ j, j ≠ i → t.seqEnt j = u.seqEnt j) ∧
        ((u.seqEnt i).st = .prefill ∨ (u.seqEnt i).st = .decode → (u.seqEnt i).canreq = true → t = u.seqRefuse c i) ∧ ((u.seqEnt i).st = .admitted ∨ (u.seqEnt i).st = .pausedNear ∨ (u.seqEnt i).st = .pausedWide ∨ (u.seqEnt i).st = .pausedDeep ∨ (u.seqEnt i).st = .cancelled ∨ (u.seqEnt i).st = .expired → t = u.seqRefuse c i))) ∧
  (∀ (c : HostCmd) (s : State), ∃ t : State, exec (.resume c) s = .next t ∧ s.OnlyChanges [.seq, .mem, .glv, .stw, .host, .regs, .out, .freeCtr] t ∧
      (∀ u : State, s.Accepts c 0x045 [bits 0 40] u → u.inS = true → ∀ i, i < 2 ^ 17 → (u.seqEnt i).inc < 256 → c.a1.field 0 32 = u.seqHandle i → (u.seqEnt i).st ≠ .free → (u.seqEnt i).key = c.a1.field 32 8 → ((State.isPaused (u.seqEnt i).st = false ∨ (u.seqEnt i).resuming = true) → t = u.seqRefuse c i) ∧
        (State.isPaused (u.seqEnt i).st = true → (u.seqEnt i).resuming = false → t = ((u.resumeSeq i).complete c stOK).buildStep (u.seqEnt i).glove))) ∧
  (∀ (c : HostCmd) (s : State), ∃ t : State, exec (.release c) s = .next t ∧ s.OnlyChanges [.mem, .stw, .host, .regs, .out] t ∧
      (∀ u : State, s.Accepts c 0x046 [bits 0 40] u → u.inA = true → ∀ i, i < 2 ^ 17 → (u.seqEnt i).inc < 256 → c.a1.field 0 32 = u.seqHandle i → (u.seqEnt i).st ≠ .free → (u.seqEnt i).key = c.a1.field 32 8 → ((u.seqEnt i).st = .complete ∨ (u.seqEnt i).st = .cancelled ∨ (u.seqEnt i).st = .expired → (∃ v : State, t = v.complete c stOK) ∧ (t.seqEnt i).st = .free ∧ t.stw.seqFreed.getLast? = some i ∧ ((u.seqEnt i).job = none → (t.seqEnt i).inc = (u.seqEnt i).inc)) ∧
        ((u.seqEnt i).st = .admitted ∨ (u.seqEnt i).st = .prefill ∨ (u.seqEnt i).st = .decode ∨ (u.seqEnt i).st = .pausedNear ∨ (u.seqEnt i).st = .pausedWide ∨ (u.seqEnt i).st = .pausedDeep → t = u.seqRefuse c i))) ∧
  (∀ (c : HostCmd) (s : State), ∃ t : State, exec (.routeAdmit c) s = .next t ∧ s.OnlyChanges [.seq, .mem, .glv, .stw, .net, .host, .regs, .out, .freeCtr] t ∧
      (∀ u : State, s.Accepts c 0x041 [bits 0 56, bits 0 56, bits 0 40, bits 0 56, allBits, allBits] u → u.inS = true → (u.net.role ≠ 1 → t = u.refuseModule c) ∧ (u.net.role = 1 → u.routeOrder (c.a1.field 14 20) (c.a6.field 32 32) = [] → t = u.refuse c stFull) ∧
        (∀ w rest, u.net.role = 1 → u.routeOrder (c.a1.field 14 20) (c.a6.field 32 32) = w :: rest → u.routeOpen w = true →
          (u.nodeId = some (w.field 0 13) → u.admitCheck (u.routedCmd c w) = none → t = (u.admitSeq (u.routedCmd c w)).1.complete c stOK ((u.admitSeq (u.routedCmd c w)).1.seqHandle (u.admitSeq (u.routedCmd c w)).2) (w.field 0 13)) ∧
          (u.nodeId ≠ some (w.field 0 13) → t.out.head? = some (.relay (w.field 0 13) 0x040 (u.reg Adr.mgrEpoch) (u.routedCmd c w)) ∧ t.net.relayed = u.net.relayed ++ [(w.field 0 13, 0x040, c)]))))

/-- Each completes in every state. CUFF_RELEASE of a model without a replacement due only builds its gloves; one whose turn it is ends the replacement
and releases the cuffs of the model's gloves. An extent whose last unit arrived is in, and the last extent makes its model RESIDENT; a lost peer in
use is flagged and the next source asked. A fetch from a model that is not RESIDENT at that version gets STATE_CONFLICT, one out of bounds BOUND, one
in bounds its bytes; a stale handle gets HANDLE_STALE. A unit that arrives is marked. A heartbeat counts and is sent 1 µs after the last one. A ready
standby takes over: the other tile serves and no standby is ready. A resync makes the standby ready while its die serves. STW_QIDX shows the
sequence's words; STW_GCFG takes a write whose fields are legal and no other. (10_sequences_steps.md, 11_sampling_prefixes_models.md,
13_links_racks.md, R379, R380, R381, R414, R415, R480, R481) -/
def Obligations.ModelsFetchesAndTheStewards : Prop :=
  (∀ (model : Nat) (s : State), ∃ t : State, exec (.cuffRelease model) s = .next t ∧ s.OnlyChanges [.seq, .mem, .glv, .stw, .host, .regs, .out, .freeCtr] t ∧
      ((∀ g ∈ s.modelGloves model, (s.serve g).phase ≠ 0) → ((s.model model).repl = none ∨ s.turn (.cuff model) = false → t = s.buildModel model) ∧
        (∀ r, (s.model model).repl = some r → s.turn (.cuff model) = true → t = (s.cuffReleased model).buildModel model ∧ ((s.cuffReleased model).model model).repl = none ∧ ∀ g ∈ s.modelGloves model, ((s.cuffReleased model).serve g).cuff = false))) ∧
  (∀ (model extent : Nat) (s : State), ∃ t : State, exec (.switchinExtentComplete model extent) s = .next t ∧ s.OnlyChanges [.seq, .mem, .glv, .stw, .host, .regs, .out, .freeCtr] t ∧
      ((∀ w, (s.model model).swin = some w → w.ext ≠ extent ∨ w.units ≠ 2 ^ ceilDiv ((s.model model).exts.getD extent default).len 4096 - 1) → t = s) ∧
      (∀ w, (s.model model).swin = some w → w.ext = extent → w.units = 2 ^ ceilDiv ((s.model model).exts.getD extent default).len 4096 - 1 → t = (s.swinExtentIn model).buildModel model ∧
        ((s.model model).exts.length ≤ extent + 1 → ((s.swinExtentIn model).model model).st = .resident ∧ ((s.swinExtentIn model).model model).swin = none))) ∧
  (∀ (model extent peer : Nat) (s : State), ∃ t : State, exec (.peerLost model extent peer) s = .next t ∧ s.OnlyChanges [.mem, .stw, .host, .regs, .out] t ∧
      ((∀ w, (s.model model).swin = some w → w.ext ≠ extent ∨ w.peers.length ≤ w.src ∨ w.peers.getD w.src 0 ≠ peer) → t = s) ∧
      (∀ w, (s.model model).swin = some w → w.ext = extent → w.src < w.peers.length → w.peers.getD w.src 0 = peer →
        t = ((s.raise Adr.resEvt 2).onModel model fun y => { y with swin := some { w with lostPeers := w.lostPeers ++ [peer] } }).swinFetch model)) ∧
  (∀ (f : FetchMsg) (s : State), ∃ t : State, exec (.fetchRequest f) s = .next t ∧ s.OnlyChanges [.out] t ∧
      (f.handle = none → ((s.model f.model).st ≠ .resident ∨ (s.model f.model).version ≠ f.version) → t = { s with out := .fetchData f.src f.tag stConflict [] :: s.out }) ∧
      (∀ x, x = (s.model f.model).exts.getD f.extent default → f.handle = none → (s.model f.model).st = .resident → (s.model f.model).version = f.version →
        ((s.model f.model).exts.length ≤ f.extent ∨ x.len < f.offset + f.len → t = { s with out := .fetchData f.src f.tag stBound [] :: s.out }) ∧
        (f.extent < (s.model f.model).exts.length → f.offset + f.len ≤ x.len → s.rangePoisoned (x.nta + f.offset) f.len = false →
          t = { s with out := .fetchData f.src f.tag stOK (State.linkUnits (s.keys.at (s.model f.model).key).kid f.model f.extent (f.offset / 4096) (s.nearBytes (taOfs x.nta + f.offset) f.len)) :: s.out })) ∧
      (∀ h, f.handle = some h → s.extOf h = none → t = { s with out := .fetchData f.src f.tag stStale [] :: s.out }) ∧
      (∀ h n, f.handle = some h → s.extOf h = some n → (s.extent n).st ≠ .writing → (s.extent n).st ≠ .lost → f.offset + f.len ≤ (s.extent n).len → s.keyOk (s.extent n).system (s.extent n).key = true → ((s.extent n).system = true ∨ (s.keys.at (s.extent n).key).kid = (s.extent n).kid) →
        t = { s with out := .fetchData f.src f.tag stOK (State.linkUnits (s.extent n).kid h.toNat f.extent (f.offset / 4096) (s.extBytes n f.offset f.len)) :: s.out })) ∧
  (∀ (model extent unit : Nat) (data : List Byte) (s : State), ∃ t : State, exec (.fetchUnitReceive model extent unit data) s = .next t ∧ s.OnlyChanges [.mem, .stw, .regs] t ∧
      ((∀ w, (s.model model).swin = some w → w.ext ≠ extent ∨ w.peers.length ≤ w.src) → t = s) ∧
      (∀ w, (s.model model).swin = some w → w.ext = extent → w.src < w.peers.length → unit < ceilDiv ((s.model model).exts.getD extent default).len 4096 →
        t = (s.stewardWrite (s.swinNta model w extent + 4096 * unit) ((Config.xtsDecrypt (s.keys.at (s.model model).key).kid (State.linkTweak model extent unit) data).take (((s.model model).exts.getD extent default).len - 4096 * unit))).onModel model (fun y => { y with swin := some { w with units := w.units ||| 2 ^ unit } }) ∧
        (t.model model).swin = some { w with units := w.units ||| 2 ^ unit })) ∧
  (∀ (s : State), ∃ t : State, exec .stewardHeartbeat s = .next t ∧ s.OnlyChanges [.stw, .out] t ∧
      (s.stw.sentBeat + 100 ≤ s.tick.rcs → t.stw = { s.stw with beats := s.stw.beats + 1, sentBeat := s.tick.rcs } ∧ t.out = .heartbeat 2 :: s.out) ∧
      (s.tick.rcs < s.stw.sentBeat + 100 → t = s)) ∧
  (∀ (s : State), ∃ t : State, exec .stewardTakeover s = .next t ∧ s.OnlyChanges [.seq, .mem, .glv, .stw, .host, .regs, .out, .freeCtr] t ∧
      (s.stw.standbyReady = false → t = s) ∧
      (s.stw.standbyReady = true → s.stw.swapCmd = none → (∀ p ∈ s.stw.serve, p.2.phase = 0) → ∃ u : State, t = u.buildAll ∧ u.stw.serving = 1 - s.stw.serving ∧ u.stw.standbyReady = false ∧ u.stw.beats = 0)) ∧
  (∀ (s : State), ∃ t : State, exec .standbyResync s = .next t ∧ s.OnlyChanges [.stw] t ∧
      (s.inA = false ∨ s.aos.iodFenced.contains (if s.stw.serving = 0 then 2 else 0) = true → t = s) ∧
      (s.inA = true → s.aos.iodFenced.contains (if s.stw.serving = 0 then 2 else 0) = false → t.stw = { s.stw with standbyReady := true })) ∧
  (∀ (half : Half) (val : Word) (s : State), ∃ t : State, exec (.stwQidxWrite half val) s = .next t ∧ s.OnlyChanges [.regs] t ∧
      (half = .hi → t = s) ∧
      (half ≠ .hi → ∀ i, i = (mergeHalf half (s.reg Adr.stwQidx) val).field 0 17 → t.reg Adr.stwQidx = BitVec.ofNat 64 i ∧ ∀ w < 8, t.reg (Adr.stwQ w) = (s.seqWords i).getD w 0)) ∧
  (∀ (g : Nat) (half : Half) (val : Word) (s : State), ∃ t : State, exec (.stwGcfgWrite g half val) s = .next t ∧ s.OnlyChanges [.seq, .mem, .glv, .stw, .regs, .freeCtr] t ∧
      (64 ≤ g → t = s) ∧
      (∀ w, w = (if s.prof 0 17 1 = 0 then Word.setField (Word.setField (mergeHalf half (s.reg (Adr.stwGcfg g)) val) 46 18 0) 45 1 0 else Word.setField (mergeHalf half (s.reg (Adr.stwGcfg g)) val) 46 18 0) → g < 64 →
        (State.gcfgOk half w = false → t = s) ∧ (State.gcfgOk half w = true → w.bit 45 = false ∨ s.serves g = true → t = s.setReg (Adr.stwGcfg g) w) ∧
        (State.gcfgOk half w = true → w.bit 45 = true → s.serves g = false → t = ((s.setReg (Adr.stwGcfg g) w).onServe g fun v => { v with step := 0, started := false, cap := w.field 0 13 }).buildStep g)))

/-- For a command of the physical function that sets no reserved bit: MODEL_REGISTER of a legal record over an ABSENT index stores a PARKED model with
the record's fields and extents and completes; over another it is refused with the state. MODEL_SWITCHIN of an ABSENT model is out of bounds, of one
that is not PARKED refused; else, over enough SHARED frames of the model's key, the frames take the named gloves as readers and the fetch begins, the
command kept for its end. MODEL_PARK of a RESIDENT model that no live sequence names frees its frames and completes. MODEL_REPLACE with another
version than the model's is refused, with equal extents and no NOPAUSE it starts in place, else on a run of FREE frames. ADAPTER_LOAD of a free slot
makes it load and queues the copy; a slot that loads or is in use is refused. ADAPTER_UNLOAD of a loaded slot with no reference frees it. MARK_PUBLIC
of a live private node of the key marks its path; of another it is out of bounds. (11_sampling_prefixes_models.md, 14_host_interface.md, R404, R412,
R413, R414, R415, R417, R514) -/
def Obligations.ModelAdapterAndPrefixCommands : Prop :=
  (∀ (c : HostCmd) (s : State), ∃ t : State, exec (.modelRegister c) s = .next t ∧ s.OnlyChanges [.mem, .stw, .host, .regs, .out] t ∧
      (∀ u : State, s.Accepts c 0x030 [allBits] u → u.inD = true → (u.hostBytes c.a1.toNat 64 = none → t = u.refuse c stBound) ∧ (∀ d m exts, u.hostBytes c.a1.toNat 64 = some d → m = leAt d 0 4 % 2 ^ 20 → u.extTable (leAt d 32 8) (leAt d 16 4) = some exts → leAt d 0 4 < 2 ^ 24 → leAt d 6 1 ≠ 0 → leAt d 7 1 < 6 → 0 < leAt d 8 4 → leAt d 8 4 ≤ 1048575 →
          0 < leAt d 12 4 → leAt d 12 4 ≤ 262144 → 2 ≤ leAt d 16 4 → leAt d 16 4 ≤ 4097 → leAt d 20 4 < 2 ^ 20 → leAt d 49 15 = 0 →
          ((u.model m).st ≠ .absent → t = u.modelRefuse c m) ∧ ((u.model m).st = .absent → u.modelRoom = none → t = u.refuse c stFull) ∧ (∀ v, (u.model m).st = .absent → u.modelRoom = some v → (∃ x : State, t = x.complete c stOK) ∧ (t.model m).st = .parked ∧
            (t.model m).g = leAt d 6 1 ∧ (t.model m).ctxmax = leAt d 8 4 ∧ (t.model m).vocab = leAt d 12 4 ∧ (t.model m).version = leAt d 4 2 ∧ (t.model m).key = leAt d 48 1 ∧ (t.model m).exts = exts ∧ (t.model m).swin = none)))) ∧
  (∀ (c : HostCmd) (s : State), ∃ t : State, exec (.modelSwitchin c) s = .next t ∧ s.OnlyChanges [.mem, .stw, .host, .regs, .out] t ∧
      (∀ u : State, s.Accepts c 0x031 [bits 0 20, allBits, bits 0 16, bits 0 32, bits 0 32] u → u.inS = true → ∀ m f n, m = c.a1.field 0 20 → f = c.a5.field 0 16 → n = c.a5.field 16 16 → ((u.model m).st = .absent → t = u.refuse c stBound) ∧ ((u.model m).st ≠ .absent → (u.model m).st ≠ .parked → t = u.modelRefuse c m) ∧
        ((u.model m).st = .parked → (State.ctrName c.a3).2.1 < 288 → f + n ≤ 65536 → State.extsLen (u.model m).exts ≤ n * 2 ^ 25 → (∀ i, i < n → (u.frame (f + i)).mode = .shared ∧ (u.frame (f + i)).key = (u.model m).key) →
          ∃ v : State, t = v.swinFetch m ∧ (v.model m).st = .loading ∧ (v.model m).gloves = c.a2 ∧ ((v.model m).swin.map fun w => (w.cmd, w.ext, w.frame, w.nframes, w.counter)) = some (c, 0, f, n, c.a3.field 0 16) ∧ (∀ k, f ≤ k → k < f + n → (v.frame k).readers = c.a2)))) ∧
  (∀ (c : HostCmd) (s : State), ∃ t : State, exec (.modelPark c) s = .next t ∧ s.OnlyChanges [.mem, .stw, .host, .regs, .out] t ∧
      (∀ u : State, s.Accepts c 0x032 [bits 0 20] u → u.inD = true → ∀ m, m = c.a1.field 0 20 → ((u.model m).st = .absent → t = u.refuse c stBound) ∧ ((u.model m).st ≠ .absent → (u.model m).st ≠ .resident → t = u.modelRefuse c m) ∧
        (∀ i, (u.model m).st = .resident → u.modelUser m = some i → t = u.refuseState c 2 (State.qcode (u.seqEnt i).st) (u.seqHandle i)) ∧
        ((u.model m).st = .resident → u.modelUser m = none → t = ((u.parkModel m).framesFreed).complete c stOK ∧ ((u.parkModel m).model m).st = .parked ∧ ∀ x ∈ ((u.parkModel m).model m).exts, x.nta = 0))) ∧
  (∀ (c : HostCmd) (s : State), ∃ t : State, exec (.modelReplace c) s = .next t ∧ s.OnlyChanges [.mem, .stw, .host, .regs, .out] t ∧
      (∀ u : State, s.Accepts c 0x033 [bits 0 21 + bits 32 16, allBits, allBits, allBits] u → u.inS = true → ∀ m, m = c.a1.field 0 20 → ((u.model m).st = .absent → t = u.refuse c stBound) ∧ ((u.model m).st ≠ .absent → (u.model m).st ≠ .resident → t = u.modelRefuse c m) ∧ ((u.model m).st = .resident → c.a1.field 32 16 ≠ (u.model m).version → t = u.refuse c 0x44) ∧
        (∀ exts, (u.model m).st = .resident → c.a1.field 32 16 = (u.model m).version → u.extTable c.a3.toNat (u.model m).exts.length = some exts →
          (exts.map (·.len) = (u.model m).exts.map (·.len) → c.a1.bit 20 = false → t = u.startRepl c m exts true []) ∧
          (∀ f, c.a1.bit 20 = true → u.freeRun (ceilDiv (State.extsLen exts) (2 ^ 25)) (fun _ => true) = some f → t = u.startRepl c m exts false ((List.range (ceilDiv (State.extsLen exts) (2 ^ 25))).map (f + ·)))))) ∧
  (∀ (c : HostCmd) (s : State), ∃ t : State, exec (.adapterLoad c) s = .next t ∧ s.OnlyChanges [.mem, .stw, .host, .regs, .out] t ∧
      (∀ u : State, s.Accepts c 0x034 [bits 0 47, bits 0 32, allBits] u → u.inS = true → (u.glove (c.a1.field 32 6)).live = true → ∀ a, a = c.a1.field 0 12 → ((u.model (c.a1.field 12 20)).st = .absent → t = u.refuse c stBound) ∧ ((u.model (c.a1.field 12 20)).st ≠ .absent → c.a1.bit 46 = false →
          ((u.adapter a).st = 1 ∨ ((u.adapter a).st = 2 ∧ 0 < (u.adapter a).refs) → t = u.adapterConflict c a) ∧
          ((u.adapter a).st = 0 → (t.adapter a).st = 1 ∧ (t.adapter a).was = 0 ∧ (t.adapter a).cmd = some c ∧ (t.mem.waiting.getLast?.map fun r => (r.op, r.slot, r.nta, r.glove, r.from_)) = some (2, c.a2.field 0 32, c.a3.toNat, c.a1.field 32 6, .host c 0x34))))) ∧
  (∀ (c : HostCmd) (s : State), ∃ t : State, exec (.adapterUnload c) s = .next t ∧ s.OnlyChanges [.stw, .host, .regs, .out] t ∧
      (∀ u : State, s.Accepts c 0x035 [bits 0 12] u → u.inD = true → ∀ a, a = c.a1.field 0 12 → ((u.adapter a).st ≠ 2 ∨ 0 < (u.adapter a).refs → t = u.adapterConflict c a) ∧ ((u.adapter a).st = 2 → (u.adapter a).refs = 0 → (∃ v : State, t = v.complete c stOK) ∧ (t.adapter a).st = 0 ∧ (t.adapter a).version = (u.adapter a).version))) ∧
  (∀ (c : HostCmd) (s : State), ∃ t : State, exec (.markPublic c) s = .next t ∧ s.OnlyChanges [.mem, .stw, .host, .regs, .out] t ∧
      (∀ u : State, s.Accepts c 0x036 [bits 0 8, bits 0 32] u → u.inS = true → ∀ n, n = c.a2.field 0 32 → ((u.node n).live = false ∨ (u.node n).pub = true ∨ (u.node n).key ≠ c.a1.field 0 8 ∨ (u.node n).stale = true → t = u.refuse c stBound) ∧
        (∀ v r, (u.node n).live = true → (u.node n).pub = false → (u.node n).key = c.a1.field 0 8 → (u.node n).stale = false → u.rootOf 256 = (v, r) → (r = 0 → t = u.refuse c stFull) ∧ (∀ w, r ≠ 0 → v.markPath r (u.nodePath u.stw.nodes.length n) = some w → t = w.complete c stOK))))

/-- Each completes in every state. The ledger period acts when it is the first event due: its allowance is the fixed one, else the grant that arrived
for its tick, else the fallback once the hold-over has run out, and a demand for the next tick is sent. A grant of an older epoch is turned away with
its flag; one for a tick to come is kept, in place of an earlier one for that tick; a late one is not used. The master grants once in a tick after
GOFS, the rest of the demands falling due again, its own share to its own ledger; only the master takes demands, only for the next tick and before it
has granted. (12_gloves_energy.md, 13_links_racks.md, R439, R440, R488, R489) -/
def Obligations.EnergyLedgerAndGrants : Prop :=
  (∀ (m : Meters) (s : State), ∃ t : State, exec (.ledgerPeriod m) s = .next t ∧ s.OnlyChanges [.dies, .seq, .mem, .glv, .ledger, .rung, .stw, .net, .aos, .regs, .out, .freeCtr] t ∧
      (s.turn .ledger = false → t = s) ∧
      (s.turn .ledger = true → t.ledger.lastTick = some s.ledgerTick ∧ t.ledger.a = min (1000 * t.ledger.inForce) (s.prof 0 0 13 * s.tick.n / 100) / 1000 ∧
        (s.fld Adr.tkeLcfg 20 1 = 1 → t.ledger.inForce = s.fld Adr.tkeAllow 0 32 ∧ t.ledger.grants = s.ledger.grants) ∧
        (∀ g, s.fld Adr.tkeLcfg 20 1 ≠ 1 → s.ledger.grants.find? (fun g => g.1 == s.ledgerTick) = some g → t.ledger.inForce = g.2 ∧ t.ledger.last = some (s.ledgerTick, g.2)) ∧
        (s.fld Adr.tkeLcfg 20 1 ≠ 1 → s.ledger.grants.find? (fun g => g.1 == s.ledgerTick) = none → (∀ l, s.ledger.last = some l → s.fld Adr.tkeLcfg 21 16 < s.ledgerTick - l.1) → t.ledger.inForce = s.fld Adr.tkeFallback 0 32))) ∧
  (∀ (tick : Word) (mj : Nat) (epoch : Word) (s : State), ∃ t : State, exec (.grantReceived tick mj epoch) s = .next t ∧ s.OnlyChanges [.ledger, .regs] t ∧
      (epoch.toNat < (s.reg Adr.mgrEpoch).toNat → t = s.raise Adr.mgrEvt 2) ∧
      ((s.reg Adr.mgrEpoch).toNat ≤ epoch.toNat → s.fld Adr.tkeLcfg 20 1 ≠ 1 → t.reg Adr.mgrEpoch = epoch ∧ (s.tick.tick < tick.toNat → t.ledger = { s.ledger with grants := (s.ledger.grants.filter fun g => g.1 ≠ tick.toNat) ++ [(tick.toNat, mj)] }) ∧ (tick.toNat < s.tick.tick → t.ledger.grants = s.ledger.grants ∧ t.ledger.inForce = s.ledger.inForce))) ∧
  (∀ (s : State), ∃ t : State, exec .grantComputation s = .next t ∧ s.OnlyChanges [.ledger, .net, .out] t ∧
      (s.net.role ≠ 1 ∨ s.tick.phase < s.fld Adr.mgrCfg 8 20 ∨ s.net.grantTick = some s.tick.tick → t = s) ∧
      (s.net.role = 1 → s.fld Adr.mgrCfg 8 20 ≤ s.tick.phase → s.net.grantTick ≠ some s.tick.tick → t.net.grantTick = some s.tick.tick ∧
        (∀ p mj, s.grants = [(p, mj)] → (t.worker p).grant = mj ∧ (t.worker p).demand = none ∧ (p = s.net.pos → t.ledger.grants = (s.ledger.grants.filter fun y => y.1 ≠ s.tick.tick + 1) ++ [(s.tick.tick + 1, mj)]) ∧
          (p ≠ s.net.pos → t.out = .grant (s.worker p).node (s.tick.tick + 1) mj (s.reg Adr.mgrEpoch) :: s.out)))) ∧
  (∀ (node : Nat) (tick : Word) (mj envJ : Nat) (s : State), ∃ t : State, exec (.demandReceived node tick mj envJ) s = .next t ∧ s.OnlyChanges [.net] t ∧
      (s.net.role ≠ 1 ∨ tick.toNat ≠ s.tick.tick + 1 ∨ s.net.grantTick = some s.tick.tick → t = s) ∧
      (s.net.role = 1 → tick.toNat = s.tick.tick + 1 → s.net.grantTick ≠ some s.tick.tick → (s.net.workers.find? (fun p => p.2.node == node && (p.2.st == 1 || p.2.st == 2)) = none → t = s) ∧
        (∀ p, s.net.workers.find? (fun p => p.2.node == node && (p.2.st == 1 || p.2.st == 2)) = some p → t = s.onWorker p.1 fun w => { w with demand := some mj, envJ := envJ })))

/-- Each completes in every state. A rung change does nothing before its turn among the events due; at it, S0 from S0 completes at once, a deeper rung
starts its entry from S0, and toward S2 and below no migration goes on; S0 from a deeper rung leaves it. An entry that is ready enters its rung, and
leaves it again if a wake event came meanwhile. An entry that has waited its limit is abandoned with the flag and its command refused. An enabled wake
event leaves a rung or is kept for the end of an entry; in S0 or disabled it does nothing. A glove whose fault hold has expired starts its reset, and
at its end the commands that waited complete. (12_gloves_energy.md, R431, R432, R446, R447, R449, R450, R451) -/
def Obligations.PowerLadderAndGloveResets : Prop :=
  (∀ (s : State), ∃ t : State, exec .rungChange s = .next t ∧ s.OnlyChanges [.tick, .dies, .arr, .seq, .mem, .glv, .rung, .stw, .net, .host, .aos, .regs, .out, .freeCtr] t ∧
      (s.rung.pend = none → t = s) ∧
      (s.turn .rung = false → t = s) ∧
      (∀ x o, s.rung.pend = some (0, x, o) → s.turn .rung = true → (s.rung.rung = 0 → t.rung = { s.rung with pend := none, cmd := none, auto := false }) ∧
        (s.rung.rung ≠ 0 → t = ((s.onRung fun x => { x with pend := none, cmd := none, auto := false }).leaveRung 1).completeOpt s.rung.cmd stOK)) ∧
      (∀ r x o, s.rung.pend = some (r, x, o) → r ≠ 0 → s.turn .rung = true → t.rung = { s.rung with rung := 0, auto := false, entering := some s.tick.tick } ∧
        t.mem = if 2 ≤ r then { s.mem with queue := s.mem.queue.map fun q => { q with moving := false } } else s.mem)) ∧
  (∀ (s : State), ∃ t : State, exec .rungEntryComplete s = .next t ∧ s.OnlyChanges [.tick, .dies, .arr, .seq, .mem, .glv, .rung, .stw, .net, .host, .aos, .regs, .out, .freeCtr] t ∧
      (s.rung.pend = none ∨ s.rung.entering = none → t = s) ∧
      (∀ r x, s.rung.pend = some (r, x) → s.rung.entering ≠ none → (s.rungReady r = false → t = s) ∧ (s.rungReady r = true → (∀ w, s.rung.wake = some w → t = (s.enterRung r).leaveRung (State.wakeCode w)) ∧
          (s.rung.wake = none → t.rung = { s.rung with rung := r, auto := false, pend := none, entering := none, cmd := none, saved := r = 3 } ∧ (r < 2 → t.mem = s.mem ∧ t.arr = s.arr))))) ∧
  (∀ (s : State), ∃ t : State, exec .rungEntryAbandon s = .next t ∧ s.OnlyChanges [.dies, .seq, .mem, .glv, .rung, .stw, .host, .aos, .regs, .out, .freeCtr] t ∧
      (s.rung.entering = none → t = s) ∧
      (∀ x, s.rung.entering = some x → s.reached (x + s.fld Adr.tkeLcfg 44 4) 0 = false → t = s) ∧
      (∀ x, s.rung.entering = some x → s.reached (x + s.fld Adr.tkeLcfg 44 4) 0 = true → t.rung = { s.rung with pend := none, entering := none, cmd := none, wake := none } ∧
        (s.rung.cmd = none → t = ((s.onRung fun x => { x with pend := none, entering := none, cmd := none, wake := none }).raise Adr.tkeLevt 6).resumeAll))) ∧
  (∀ (src : WakeSrc) (s : State), ∃ t : State, exec (.wakeEvent src) s = .next t ∧ s.OnlyChanges [.tick, .dies, .arr, .seq, .mem, .glv, .rung, .stw, .net, .host, .aos, .regs, .out, .freeCtr] t ∧
      (src = .namedTime ∨ src = .ledger → t = s) ∧
      (src = .commandRing ∧ s.fld Adr.tkeWake 0 1 ≠ 1 ∨ src = .serviceLink ∧ s.fld Adr.tkeWake 1 1 ≠ 1 ∨ src = .smbus ∧ s.fld Adr.tkeWake 2 1 ≠ 1 → t = s) ∧
      (∀ b, (src = .commandRing ∧ b = 0 ∨ src = .serviceLink ∧ b = 1 ∨ src = .smbus ∧ b = 2) → s.fld Adr.tkeWake b 1 = 1 →
        (s.rung.entering ≠ none → t.rung = { s.rung with wake := if s.rung.wake.isSome then s.rung.wake else some src }) ∧ (s.rung.entering = none → s.rung.rung = 0 → t = s) ∧ (s.rung.entering = none → 1 ≤ s.rung.rung → t = s.leaveRung (b + 2)))) ∧
  (∀ (g : Nat) (s : State), ∃ t : State, exec (.faultHoldExpiry g) s = .next t ∧ s.OnlyChanges [.arr, .seq, .mem, .glv, .stw, .host, .regs, .out, .freeCtr] t ∧
      ((s.glove g).faulted = none → t = s) ∧
      (∀ c x, (s.glove g).faulted = some (c, x) → s.reached x 0 = false ∨ s.mstate = .fault → t = s) ∧
      (∀ c x, (s.glove g).faulted = some (c, x) → s.reached x 0 = true → s.mstate ≠ .fault → (s.glove g).live = true → (s.glove g).resetting = false → (t.glove g).resetting = true ∧ (t.glove g).faulted = none ∧ (t.glove g).cause = c ∧ t.flag Adr.tkeLevt 7 = true)) ∧
  (∀ (g : Nat) (s : State), ∃ t : State, exec (.gloveResetDone g) s = .next t ∧ s.OnlyChanges [.glv, .host, .regs, .out] t ∧
      ((s.glove g).resetting = false → t = s) ∧
      ((s.glove g).resetting = true → t.glv = (s.onGlv g fun v => { v with resetting := false, resetCmds := [] }).glv ∧ t = (s.glove g).resetCmds.foldl (fun t c => t.complete c stOK) (s.onGlv g fun v => { v with resetting := false, resetCmds := [] })))

/-- Each completes in every state. On a link that is not up a flit changes nothing. A flit whose check fails sets the flag and asks for a replay, the
eighth in a row loses alignment. A DATA flit that repeats no acknowledgement and has the next number is taken, its credit freed; another number asks
for a replay. A NAK in an LCTL flit, or a replay timeout, sends again from the oldest flit not acknowledged; the sixteenth time in a row the link
trains. A transmitter that sent no LCTL for 63 flit times sends one, else sends flits again, else the first that has a credit, else an idle flit. A
packet goes to this node, or by the link its routing entry chooses, one hop on; without a link or at the sixth hop it is dropped with the flag.
(13_links_racks.md, R461, R462, R463, R464, R469, R470, R473, R474) -/
def Obligations.LinkFlitsAndPackets : Prop :=
  (∀ (link : Nat) (f : Flit) (s : State), ∃ t : State, exec (.flitReceive link f) s = .next t ∧ s.OnlyChanges [.stw, .net, .regs] t ∧
      (s.linkUp link = false → t = s) ∧
      (s.linkUp link = true → f.crcOk = false → ((s.link link).rxFails + 1 < 8 → t.flag (Adr.lnkEvt link) 0 = true ∧ t.link link = { s.link link with nak := true, rxFails := (s.link link).rxFails + 1 }) ∧
        (8 ≤ (s.link link).rxFails + 1 → (t.link link).rxFails = 0 ∧ (t.link link).st = if (s.link link).st = .up1 then .down else .training)) ∧
      (s.linkUp link = true → f.crcOk = true → f.kind = 1 → f.vc ≤ 4 → f.ackv = false → (f.seq = (s.link link).rxSeq → (t.link link).rxSeq = (f.seq + 1) % 4096 ∧ (t.link link).rxAny = true ∧ (t.link link).nak = false ∧
          (t.link link).freedOut = setPad (s.link link).freedOut (6 * f.vc + f.hop) (((s.link link).freedOut.getD (6 * f.vc + f.hop) 0 + 1) % 65536) 0) ∧
        (f.seq ≠ (s.link link).rxSeq → t.link link = { s.link link with nak := true, rxFails := 0 })) ∧
      (s.linkUp link = true → f.crcOk = true → f.kind = 2 → f.ackv = false → f.nak ≠ none → (t.link link).resend = (s.link link).unacked.length)) ∧
  (∀ (link : Nat) (s : State), ∃ t : State, exec (.flitTransmit link) s = .next t ∧ s.OnlyChanges [.net, .regs, .out] t ∧
      (s.linkUp link = false → t = s) ∧
      (s.linkUp link = true → 63 ≤ (s.link link).sinceLctl → (t.link link).sinceLctl = 0 ∧ (t.link link).nak = false ∧ ∃ f, t.out = .flit link f :: s.out ∧ f.kind = 2 ∧ f.nak = (if (s.link link).nak then some (s.link link).rxSeq else none)) ∧
      (s.linkUp link = true → (s.link link).sinceLctl < 63 → 0 < (s.link link).resend → (t.link link).resend = (s.link link).resend - 1 ∧ (t.link link).sinceLctl = (s.link link).sinceLctl + 1 ∧
        t.out = .flit link { (s.link link).unacked.getD ((s.link link).unacked.length - (s.link link).resend) default with ack := ((s.link link).rxSeq + 4095) % 4096, ackv := (s.link link).rxAny } :: s.out) ∧
      (∀ vc i hop body, s.linkUp link = true → (s.link link).sinceLctl < 63 → (s.link link).resend = 0 → ((s.vcOrder link).findSome? fun vc => (s.ready link vc).map fun r => (vc, r)) = some (vc, i, hop, body) →
        (t.link link).txSeq = ((s.link link).txSeq + 1) % 4096 ∧ (t.link link).txq = (s.link link).txq.eraseIdx i ∧ ∃ f, t.out = .flit link f :: s.out ∧ (t.link link).unacked = (s.link link).unacked ++ [f] ∧ f.kind = 1 ∧ f.vc = vc ∧ f.hop = hop ∧ f.seq = (s.link link).txSeq ∧ f.body = body) ∧
      (s.linkUp link = true → (s.link link).sinceLctl < 63 → (s.link link).resend = 0 → ((s.vcOrder link).findSome? fun vc => (s.ready link vc).map fun r => (vc, r)) = none → (s.link link).nak = false → (t.link link).sinceLctl = (s.link link).sinceLctl + 1 ∧ ∃ f, t.out = .flit link f :: s.out ∧ f.kind = 0)) ∧
  (∀ (link : Nat) (s : State), ∃ t : State, exec (.replayTimeout link) s = .next t ∧ s.OnlyChanges [.stw, .net, .regs] t ∧
      (s.linkUp link = false ∨ (s.link link).unacked = [] → t = s) ∧
      (s.linkUp link = true → (s.link link).unacked ≠ [] → (t.link link).resend = (s.link link).unacked.length ∧ ((s.link link).replays + 1 < 16 → (t.link link).st = (s.link link).st) ∧ (16 ≤ (s.link link).replays + 1 → (t.link link).st = .training ∧ (t.link link).replays = 0))) ∧
  (∀ (p : Packet) (s : State), ∃ t : State, exec (.packetForward p) s = .next t ∧ s.OnlyChanges [.net, .regs] t ∧
      (s.nodeId = some p.dest → t.net = { s.net with fwd := s.net.fwd.erase p, inbox := s.net.inbox ++ [p] }) ∧
      (s.nodeId ≠ some p.dest → (s.choices p.dest p.vc = [] → t = (s.onNet fun b => { b with fwd := b.fwd.erase p }).raise Adr.rtEvt 0) ∧ (s.choices p.dest p.vc ≠ [] → 5 ≤ p.hop → t = (s.onNet fun b => { b with fwd := b.fwd.erase p }).raise Adr.rtEvt 1)) ∧
      (∀ c cs, s.nodeId ≠ some p.dest → s.choices p.dest p.vc = c :: cs → p.hop < 5 → t = (s.onNet fun b => { b with fwd := b.fwd.erase p }).queuePacket (if p.vc ≤ 2 then c else (c :: cs).getD ((p.src + p.tag.toNat) % (cs.length + 1)) c) { p with hop := p.hop + 1 }))

/-- Each completes in every state. A DOWN link that is enabled starts training outside OFF and RESET. Training ends in UP2, UP1 or DOWN by the lanes
that passed, and an up link starts its numbers and credits afresh. An UP2 link that drops a lane is UP1 on the other and sends again; an UP1 link that
loses its lane is DOWN. Below S2 or on a link that is not DOWN signal detect does nothing; on a service link it wakes the module. RETRAIN trains a
link that is up. A write of ENABLE 0 takes a link DOWN; LTHRESH 0 leaves the threshold. (13_links_racks.md, 12_gloves_energy.md, R450, R465, R466,
R494) -/
def Obligations.LinkTrainingAndLanes : Prop :=
  (∀ (link : Nat) (s : State), ∃ t : State, exec (.linkTrainingStart link) s = .next t ∧ s.OnlyChanges [.stw, .net] t ∧
      (96 ≤ link ∨ (s.link link).st ≠ .down ∨ s.fld (Adr.lnkCfg link) 0 1 = 0 ∨ s.mstate = .off ∨ s.mstate = .reset → t = s) ∧
      (link < 96 → (s.link link).st = .down → s.fld (Adr.lnkCfg link) 0 1 ≠ 0 → s.mstate ≠ .off → s.mstate ≠ .reset → t.link link = { s.link link with st := .training })) ∧
  (∀ (link lanes peer peerLink delay : Nat) (s : State), ∃ t : State, exec (.linkTrainingComplete link lanes peer peerLink delay) s = .next t ∧ s.OnlyChanges [.stw, .net, .regs] t ∧
      ((s.link link).st ≠ .training → t = s) ∧
      ((s.link link).st = .training → lanes % 4 = 0 → (t.link link).st = .down ∧ (t.link link).unacked = []) ∧
      ((s.link link).st = .training → lanes % 4 ≠ 0 → (t.link link).st = (if lanes % 4 = 3 then .up2 else .up1) ∧ (t.link link).lane = (if lanes % 4 = 2 then 1 else 0) ∧ (t.link link).peer = peer % 2 ^ 13 ∧ (t.link link).delay = delay % 2 ^ 16 ∧
        (t.link link).rxSeq = 0 ∧ (t.link link).txSeq = 0 ∧ (t.link link).unacked = [] ∧ (t.link link).sent = [] ∧ (t.link link).freedIn = [] ∧ (t.link link).txq = (s.link link).txq)) ∧
  (∀ (link lane : Nat) (s : State), ∃ t : State, exec (.laneDrop link lane) s = .next t ∧ s.OnlyChanges [.stw, .net, .regs] t ∧
      ((s.link link).st ≠ .up2 → (s.link link).st ≠ .up1 → t = s) ∧
      ((s.link link).st = .up2 → t.link link = { s.link link with st := .up1, lane := 1 - lane % 2, resend := (s.link link).unacked.length }) ∧
      ((s.link link).st = .up1 → (lane ≠ (s.link link).lane → t = s) ∧ (lane = (s.link link).lane → (t.link link).st = .down))) ∧
  (∀ (link : Nat) (s : State), ∃ t : State, exec (.linkSignalDetect link) s = .next t ∧ s.OnlyChanges [.tick, .dies, .arr, .seq, .mem, .glv, .rung, .stw, .net, .host, .aos, .regs, .out, .freeCtr] t ∧
      (s.rung.rung < 2 ∨ 96 ≤ link ∨ (s.link link).st ≠ .down → t = s) ∧
      (2 ≤ s.rung.rung → link < 88 → (s.link link).st = .down → (s.fld (Adr.lnkCfg link) 0 1 = 1 → t.link link = { s.link link with st := .training }) ∧ (s.fld (Adr.lnkCfg link) 0 1 ≠ 1 → t = s)) ∧
      (2 ≤ s.rung.rung → 88 ≤ link → link < 96 → (s.link link).st = .down → t = s.wakeBy .serviceLink ∧ (s.rung.entering = none → s.fld Adr.tkeWake 1 1 = 1 → t = s.leaveRung 3))) ∧
  (∀ (link : Nat) (s : State), ∃ t : State, exec (.lnkRetrain link) s = .next t ∧ s.OnlyChanges [.stw, .net] t ∧
      (s.linkUp link = false → t = s) ∧
      (s.linkUp link = true → t.link link = { s.link link with st := .training })) ∧
  (∀ (link : Nat) (val : Word) (s : State), ∃ t : State, exec (.lnkEnableWrite link val) s = .next t ∧ s.OnlyChanges [.stw, .net, .regs] t ∧
      (96 ≤ link → t = s) ∧
      (∀ v, v = ((s.reg (Adr.lnkCfg link)).setField 0 1 (val.field 0 1)).setField 2 16 (if val.field 2 16 = 0 then (s.reg (Adr.lnkCfg link)).field 2 16 else val.field 2 16) → link < 96 →
        (val.bit 0 = false → (s.link link).st = .down ∨ (s.link link).st = .fenced → t = s.setReg (Adr.lnkCfg link) v) ∧
        (val.bit 0 = false → (s.link link).st ≠ .down → (s.link link).st ≠ .fenced → (t.link link).st = .down) ∧
        (val.bit 0 = true → t.reg (Adr.lnkCfg link) = v ∧ t.link link = if val.bit 1 = true ∧ s.linkUp link = true then { s.link link with st := .training } else s.link link)))

/-- Each completes in every state. MGR_CFG takes its fields, whose first LOCK by the master numbers the rack. A master that meets an older rack, or
one as old with the lower identity, gives its number up and its workers go EXCLUDED. The role decision makes a module without manager part a worker,
one that sees no master and beats its rival the master, else one that sees no standby the standby. A report makes its position LIVE unless it is
EXCLUDED or reports FAULT. A missed heartbeat counts, and the eighth, or lost links, lose the worker. A heartbeat clears the misses. A heartbeat of
its own position is sent after 1,000 rc, the master's after 100. A new worker is sent the tick load. A resync makes a manager ready, and a yielded one
the standby. (13_links_racks.md, 16_bringup_reset_clocks.md, R476, R477, R479, R482, R483, R486, R567) -/
def Obligations.RackNumberingAndWorkers : Prop :=
  (∀ (half : Half) (val : Word) (s : State), ∃ t : State, exec (.mgrCfgLock half val) s = .next t ∧ s.OnlyChanges [.net, .regs, .nodeId, .out] t ∧
      (∀ v, v = mergeHalf half (s.reg Adr.mgrCfg) val → t.reg Adr.mgrCfg = s.mgrCfgWord v ∧ (v.bit 32 = false ∨ (s.reg Adr.mgrCfg).bit 32 = true ∨ s.net.role ≠ 1 → t = s.setReg Adr.mgrCfg (s.mgrCfgWord v)) ∧
        (v.bit 32 = true → (s.reg Adr.mgrCfg).bit 32 = false → s.net.role = 1 → t.nodeId = some (32 * (s.mgrCfgWord v).field 0 7) ∧ t.net.idStatus = 1 ∧ t.net.pos = 0 ∧ t.net.lockTick = s.tick.tick))) ∧
  (∀ (otherLockTick otherIdent : Word) (s : State), ∃ t : State, exec (.rackConflict otherLockTick otherIdent) s = .next t ∧ s.OnlyChanges [.tick, .net, .regs, .nodeId, .out] t ∧
      (s.net.role ≠ 1 ∨ s.nodeId = none ∨ (s.net.lockTick ≤ otherLockTick.toNat ∧ (otherLockTick.toNat = s.net.lockTick → deviceIdentity ≤ otherIdent.toNat)) → t = s) ∧
      (s.net.role = 1 → s.nodeId ≠ none → (otherLockTick.toNat < s.net.lockTick ∨ otherLockTick.toNat = s.net.lockTick ∧ otherIdent.toNat < deviceIdentity) → t.nodeId = none ∧ t.net.idStatus = 3 ∧ t.net.conflict = true ∧ t.tick.role = .crown ∧ t.tick.crown = none ∧ t.out = .withdraw s.net.rack :: s.out ∧
        (s.net.workers.Canon → ∀ p, (t.worker p).st = if (s.worker p).st = 0 then 0 else 4))) ∧
  (∀ (a b : Bool) (r : Option Word) (s : State), ∃ t : State, exec (.managerRoleDecision a b r) s = .next t ∧ s.OnlyChanges [.tick, .net] t ∧
      (s.prof 0 13 1 = 0 → t.net.role = 0 ∧ t.tick.role = .worker) ∧
      (∀ loses : Bool, loses = (match r with | some x => decide (x.toNat < deviceIdentity) | none => false) → s.prof 0 13 1 ≠ 0 → t.net.role = (if a = false ∧ loses = false then 1 else if b = false then 2 else 0) ∧
        (t.net.role = 1 → t.tick.role = if s.tick.role = .crown then .crown else .rackMaster) ∧ (t.net.role = 2 → t.tick.role = .standby) ∧ (t.net.role = 0 → t.tick.role = .worker))) ∧
  (∀ (pos : Nat) (r : Report) (s : State), ∃ t : State, exec (.workerReport pos r) s = .next t ∧ s.OnlyChanges [.net, .host, .regs, .out] t ∧
      (s.net.role ≠ 1 ∨ 32 ≤ pos → t = s) ∧
      (s.net.role = 1 → pos < 32 → r.mstate ≠ 7 → (t.worker pos).st = (if (s.worker pos).st = 4 then 4 else 2) ∧ (t.worker pos).node = (if (s.worker pos).st = 0 then r.node else (s.worker pos).node) ∧ (t.worker pos).missed = 0 ∧ (t.worker pos).lastTick = s.tick.tick ∧
        (t.worker pos).rep = if r.aos then { (s.worker pos).rep with mstate := r.mstate, cap := r.cap } else r) ∧
      (s.net.role = 1 → pos < 32 → r.mstate ≠ 7 → (s.worker pos).st ≠ 2 → (s.worker pos).st ≠ 4 → pos ≠ s.net.pos →
        ∃ at_ node delay, t.out = .tickLoad (some node) at_ (at_ / s.tick.n) (at_ % s.tick.n) s.tick.n s.tick.pend delay s.tick.own.code :: s.out ∧ node = if (s.worker pos).st = 0 then r.node else (s.worker pos).node) ∧
      (s.net.role = 1 → pos < 32 → r.mstate = 7 → ((s.worker pos).st = 1 ∨ (s.worker pos).st = 2) → (t.worker pos).st = 3)) ∧
  (∀ (pos : Nat) (a b : Bool) (s : State), ∃ t : State, exec (.workerHeartbeatMiss pos a b) s = .next t ∧ s.OnlyChanges [.net, .host, .regs, .out] t ∧
      (s.net.role ≠ 1 ∨ ((s.worker pos).st ≠ 1 ∧ (s.worker pos).st ≠ 2) ∨ pos = s.net.pos → t = s) ∧
      (s.net.role = 1 → ((s.worker pos).st = 1 ∨ (s.worker pos).st = 2) → pos ≠ s.net.pos → (t.worker pos).missed = (s.worker pos).missed + 1 ∧ (t.worker pos).st = if a = true ∨ b = true ∨ 8 ≤ (s.worker pos).missed + 1 then 3 else (s.worker pos).st)) ∧
  (∀ (pos : Nat) (s : State), ∃ t : State, exec (.moduleHeartbeat pos) s = .next t ∧ s.OnlyChanges [.net, .out] t ∧
      (s.nodeId ≠ none → pos = s.net.pos → s.net.sentBeat + 1000 ≤ s.tick.rcs → t.out = .heartbeat 0 :: s.out ∧ t.net.sentBeat = s.tick.rcs) ∧
      ((s.nodeId = none ∨ pos ≠ s.net.pos ∨ s.tick.rcs < s.net.sentBeat + 1000) → t.out = s.out ∧ (s.net.role ≠ 1 ∨ (s.worker pos).st = 0 → t = s)) ∧
      (s.net.role = 1 → (s.worker pos).st ≠ 0 → t.worker pos = { s.worker pos with missed := 0 })) ∧
  (∀ (s : State), ∃ t : State, exec .managerHeartbeat s = .next t ∧ s.OnlyChanges [.net, .out] t ∧
      (s.net.role = 1 → s.net.sentMgr + 100 ≤ s.tick.rcs → t.out = .heartbeat 1 :: s.out ∧ t.net = { s.net with sentMgr := s.tick.rcs }) ∧
      ((s.net.role ≠ 1 ∨ s.tick.rcs < s.net.sentMgr + 100) → t = s)) ∧
  (∀ (s : State), ∃ t : State, exec .managerResync s = .next t ∧ s.OnlyChanges [.net] t ∧
      (s.net.role = 0 → t = s) ∧
      (s.net.role ≠ 0 → t.net = { s.net with role := if s.net.role = 3 then 2 else s.net.role, standbyReady := true }))

/-- Each completes in every state. An epoch below the module's own changes nothing but its flag; a higher one is taken, and a master gives its duties
up. The standby takes over with the next epoch, announced, its flag set; no other role does. A relayed command without an epoch, or of an older one,
is not carried out; one of an epoch not below the own is carried out by its operation. A completion relayed to the master takes its command from the
list and completes it with its status; one that matches no command goes to ring 0's completion queue, and only the master takes any.
(13_links_racks.md, R482, R483, R484, R485) -/
def Obligations.ManagersEpochsAndRelays : Prop :=
  (∀ (e : Word) (s : State), ∃ t : State, exec (.epochAnnounce e) s = .next t ∧ s.OnlyChanges [.tick, .net, .regs] t ∧
      (e.toNat < (s.reg Adr.mgrEpoch).toNat → t = s.raise Adr.mgrEvt 2) ∧
      ((s.reg Adr.mgrEpoch).toNat ≤ e.toNat → (e = s.reg Adr.mgrEpoch ∨ s.net.role ≠ 1) → t = s.setReg Adr.mgrEpoch e) ∧
      ((s.reg Adr.mgrEpoch).toNat < e.toNat → s.net.role = 1 → t = (s.setReg Adr.mgrEpoch e).leaveDuties ∧ t.net.role = 3)) ∧
  (∀ (f : Bool) (s : State), ∃ t : State, exec (.managerTakeover f) s = .next t ∧ s.OnlyChanges [.tick, .net, .regs, .out] t ∧
      (s.net.role ≠ 2 → t = s) ∧
      (s.net.role = 2 → t.net = { s.net with role := 1, standbyReady := false } ∧ t.tick.role = .rackMaster ∧ t.out = .epoch (s.reg Adr.mgrEpoch + 1) :: s.out ∧ t.reg Adr.mgrEpoch = s.reg Adr.mgrEpoch + 1 ∧ t.flag Adr.mgrEvt 1 = true)) ∧
  (∀ (op : Nat) (c : HostCmd) (s : State), ∃ t : State, exec (.relayedCommand op c) s = .next t ∧ s.OnlyChanges [.tick, .mstate, .dies, .arr, .seq, .mem, .glv, .rung, .keys, .stw, .net, .host, .aos, .regs, .out, .freeCtr] t ∧
      (c.epoch = none → t = s) ∧
      (∀ e, c.epoch = some e → e.toNat < (s.reg Adr.mgrEpoch).toNat → t = s.raise Adr.mgrEvt 2) ∧
      (∀ e, c.epoch = some e → (s.reg Adr.mgrEpoch).toNat ≤ e.toNat → (s.net.role = 1 → e = s.reg Adr.mgrEpoch) → t = applyCommand op c (s.setReg Adr.mgrEpoch e)) ∧
      (∀ e, c.epoch = some e → (s.reg Adr.mgrEpoch).toNat ≤ e.toNat → (s.net.role = 1 → e = s.reg Adr.mgrEpoch) → op = 0x001 → t = identifyOp c (s.setReg Adr.mgrEpoch e))) ∧
  (∀ (c : RelayedCpl) (s : State), ∃ t : State, exec (.relayedCompletion c) s = .next t ∧ s.OnlyChanges [.seq, .mem, .glv, .stw, .net, .host, .regs, .out, .freeCtr] t ∧
      (s.net.role ≠ 1 → t = s) ∧
      (s.net.role = 1 → s.net.relayed.find? (fun r => r.1 == c.node && r.2.2.tag == c.tag) = none → t = s.putCq (s.fld (Adr.hifCrCfg 0) 12 8) 0 (s.cplWords c.tag.toNat 0 c.status 0 c.res0 c.res1)) ∧
      (∀ r, s.net.role = 1 → s.net.relayed.find? (fun r => r.1 == c.node && r.2.2.tag == c.tag) = some r → s.net.routing.find? (fun x => x.cmd == r.2.2) = none → t = (s.onNet fun b => { b with relayed := b.relayed.erase r }).complete r.2.2 c.status c.res0.toNat c.res1.toNat ∧ t.net.relayed = s.net.relayed.erase r) ∧
      (∀ r x, s.net.role = 1 → s.net.relayed.find? (fun r => r.1 == c.node && r.2.2.tag == c.tag) = some r → s.net.routing.find? (fun x => x.cmd == r.2.2) = some x → c.status = stOK →
        t = (s.onNet fun b => { b with relayed := b.relayed.erase r, routing := b.routing.erase x }).complete x.cmd stOK c.res0.toNat c.node))

/-- An access at or past the end of BAR0 faults; every other one completes. With the BAR closed nothing changes. A tick, energy or glove register
takes the legal word, masked to the bits that a write sets, and a word that breaks its rule changes nothing. A write of 1 clears an event flag, and
one that an event sets in the same cycle reads 1; at an address that is no event register a W1C write does nothing. A read of the window within one
line of a near-tier frame that the requester may read answers its bytes with the poison mark, a write of a whole line of a frame it may write stores
the line; an access past the window's end does nothing. (14_host_interface.md, 00_scope.md, 17_reliability_service.md, R11, R502, R503, R504, R588) -/
def Obligations.RegisterWritesAndTheHostWindow : Prop :=
  (∀ (func addr : Nat) (half : Half) (val ev : Word) (s : State), Adr.bar0Size ≤ addr → (func = 0 → exec (.registerWrite func addr half val) s = .fault .outsideBar0) ∧ exec (.w1cWrite addr half val ev) s = .fault .outsideBar0) ∧
  (∀ (func addr : Nat) (half : Half) (val : Word) (s : State), ¬ (func = 0 ∧ Adr.bar0Size ≤ addr) → ∃ t : State, exec (.registerWrite func addr half val) s = .next t ∧ s.OnlyChanges [.tick, .mstate, .dies, .arr, .seq, .mem, .glv, .ledger, .rung, .keys, .stw, .net, .host, .aos, .regs, .nodeId, .out, .freeCtr] t ∧
      (s.barOpen func = false → t = s) ∧
      (∀ a w r, a = addr / 8 * 8 → w = mergeHalf half (s.reg a) val → func = 0 → s.barOpen 0 = true → 0x400000 ≤ a → a < 0x800000 → flagCounters a = [] → s.regRule a w = some r →
        (r.ok = false → t = s) ∧ (r.ok = true → t.reg a = w &&& BitVec.ofNat 64 r.mask ∧ (∀ b, b ≠ a → t.reg b = s.reg b) ∧ (a ≠ Adr.tkeLcfg → t.ledger = s.ledger)))) ∧
  (∀ (addr : Nat) (half : Half) (val ev : Word) (s : State), ¬ (Adr.bar0Size ≤ addr) → ∃ t : State, exec (.w1cWrite addr half val ev) s = .next t ∧ s.OnlyChanges [.mstate, .dies, .arr, .seq, .mem, .glv, .stw, .net, .host, .aos, .regs, .out, .freeCtr] t ∧
      (s.barOpen 0 = false ∨ flagCounters addr = [] → t = s) ∧
      (s.barOpen 0 = true → flagCounters addr ≠ [] → addr < 0x1000000 → ev = 0 → t = s.setReg addr (s.reg addr &&& ~~~(val &&& State.halfMask half &&& BitVec.ofNat 64 (2 ^ (flagCounters addr).length - 1)))) ∧
      (∀ b, s.barOpen 0 = true → addr < 0x1000000 → b < (flagCounters addr).length → b < 64 → ev.bit b = true → t.flag addr b = true)) ∧
  (∀ (func ofs len : Nat) (upset : List Nat) (s : State), ∃ t : State, exec (.hostWindowRead func ofs len upset) s = .next t ∧ s.OnlyChanges [.regs, .out] t ∧
      (s.barOpen func = false ∨ State.windowSize func < ofs + len → t = s) ∧
      (∀ b a f, s.barOpen func = true → ofs + len ≤ State.windowSize func → 0 < len → ofs % 64 + len ≤ 64 → s.window func = (1, b, a) → nearFrame (b + ofs) = some f → s.nearCheck f a false = none →
        t = { s with out := .readData (some (((s.nearUnit f ((b + ofs) / 64 % 2 ^ 19)).drop ((b + ofs) % 64)).take len)) (s.poisoned f ((b + ofs) / 64 % 2 ^ 19)) :: s.out })) ∧
  (∀ (func ofs : Nat) (data : List Byte) (mask : List Bool) (s : State), ∃ t : State, exec (.hostWindowWrite func ofs data mask) s = .next t ∧ s.OnlyChanges [.arr, .seq, .mem, .stw, .regs, .out] t ∧
      (s.barOpen func = false ∨ State.windowSize func < ofs + data.length → t = s) ∧
      (∀ b a f, s.barOpen func = true → ofs + data.length ≤ State.windowSize func → data.length = 64 → ofs % 64 = 0 → mask = [] → s.window func = (1, b, a) → nearFrame (b + ofs) = some f → s.nearCheck f a true = none → (s.frame f).hold = false → t = s.putStaged f ((b + ofs) / 64 % 2 ^ 19) data))

/-- Each completes in every state. PERST asserted resets the PF once: no completion queue, no pending vector, no function in D3hot, no enabled VF, no
link; released, the link trains again from stage 5 on. A function-level reset of the PF resets it likewise; one of a VF that exists clears its
vectors, its window base and its D3hot, and the rings it owns go back to reset. D3hot is entered once by a function that exists outside PERST, and
left only from it; while in it its BAR is closed. (14_host_interface.md, R500, R501, R522, R523) -/
def Obligations.HostFunctionResets : Prop :=
  (∀ (s : State), ∃ t : State, exec .perstNAssert s = .next t ∧ s.OnlyChanges [.host, .regs] t ∧
      (s.host.perst = true → t = s) ∧
      (s.host.perst = false → t.host.perst = true ∧ t.host.gen = 0 ∧ t.host.width = 0 ∧ t.host.cqs = [] ∧ t.host.pba = [] ∧ t.host.d3 = [] ∧ t.host.numVf = 0 ∧ t.host.vfMsix = [] ∧ ∀ f, t.barOpen f = false)) ∧
  (∀ (s : State), ∃ t : State, exec .perstNRelease s = .next t ∧ s.OnlyChanges [.host, .freeCtr] t ∧
      (s.host.perst = false → t = s) ∧
      (s.host.perst = true → t.host.perst = false ∧ t.host.cqs = s.host.cqs ∧ (s.aos.stage < 5 → t.host = { s.host with perst := false }) ∧ (5 ≤ s.aos.stage → 1 ≤ t.host.gen ∧ t.host.gen ≤ 5 ∧ (t.host.width = 1 ∨ t.host.width = 2 ∨ t.host.width = 4 ∨ t.host.width = 8)))) ∧
  (∀ (s : State), ∃ t : State, exec .pfFlr s = .next t ∧ s.OnlyChanges [.arr, .seq, .mem, .glv, .stw, .host, .regs, .out, .freeCtr] t ∧
      (s.host.perst = true → t = s) ∧
      (s.host.perst = false → t.host.cqs = [] ∧ t.host.pba = [] ∧ t.host.d3 = [] ∧ t.host.numVf = 0 ∧ t.host.vfMsix = [] ∧ t.host.vfBase = []) ∧
      (s.host.perst = false → (∀ f, 1 ≤ f → f ≤ 64 → s.ringsOf f = [] ∧ s.cqsOf f = [] ∧ s.vfGlove f = none ∧ f ∉ s.host.d3) → t = s.resetPf)) ∧
  (∀ (vf : Nat) (s : State), ∃ t : State, exec (.vfFlr vf) s = .next t ∧ s.OnlyChanges [.arr, .seq, .mem, .glv, .stw, .host, .regs, .out, .freeCtr] t ∧
      (vf = 0 ∨ s.funcExists vf = false ∨ s.host.perst = true → t = s) ∧
      (vf ≠ 0 → s.funcExists vf = true → s.host.perst = false → t = s.resetVf vf ∧ (s.vfGlove vf = none → (vf ∉ t.host.d3) ∧ t.host.vfBase.at vf = 0 ∧ t.host.pba.at vf = 0 ∧ ∀ p ∈ t.host.vfMsix, p.1 / 16 ≠ vf)) ∧
      (∀ g, vf ≠ 0 → s.funcExists vf = true → s.host.perst = false → s.vfGlove vf = some g → (s.glove g).live = true → (s.glove g).resetting = false → (t.glove g).resetting = true ∧ (t.glove g).cause = 7)) ∧
  (∀ (func : Nat) (s : State), ∃ t : State, exec (.d3hotEntry func) s = .next t ∧ s.OnlyChanges [.host] t ∧
      (s.host.perst = true ∨ s.funcExists func = false ∨ func ∈ s.host.d3 → t = s) ∧
      (s.host.perst = false → s.funcExists func = true → func ∉ s.host.d3 → t.host = { s.host with d3 := s.host.d3 ++ [func] } ∧ t.barOpen func = false)) ∧
  (∀ (func : Nat) (s : State), ∃ t : State, exec (.d3hotExit func) s = .next t ∧ s.OnlyChanges [.seq, .mem, .glv, .stw, .host, .regs, .out, .freeCtr] t ∧
      (func ∉ s.host.d3 → t = s) ∧
      (func ∈ s.host.d3 → (func ∉ t.host.d3) ∧ t.host.perst = s.host.perst ∧ ∀ f, f ≠ func → (f ∈ t.host.d3 ↔ f ∈ s.host.d3)))

/-- Each completes in every state. A slot word of an open ring in range is kept in the ring memory; its last word starts the reception of the ring,
the flag being raised when the number is not the next one. Turning a command ring on empties it and forgets its slot numbers, turning a completion
ring on starts it at entry 0 with phase 1; a word that breaks the rules of the register changes nothing. The head written frees the queue's room. The
moderation timer of a queue with entries not signalled fires its vector when its time is reached, or sets its pending bit when the vector is masked.
(14_host_interface.md, R505, R506, R507, R509, R511, R512, R513) -/
def Obligations.CommandAndCompletionRings : Prop :=
  (∀ (func ring slot word : Nat) (val : Word) (s : State), ∃ t : State, exec (.commandSlotReceive func ring slot word val) s = .next t ∧ s.OnlyChanges [.host, .regs, .out] t ∧
      (s.barOpen func = false ∨ s.ringFor func ring = none → t = s) ∧
      (∀ n, s.barOpen func = true → s.ringFor func ring = some n → 2 ^ s.fld (Adr.hifCrCfg n) 0 4 ≤ slot ∨ 8 ≤ word → t = s) ∧
      (∀ n, s.barOpen func = true → s.ringFor func ring = some n → slot < 2 ^ s.fld (Adr.hifCrCfg n) 0 4 → (word < 7 → t = s.onHost fun h => { h with ringMem := h.ringMem.put (32768 * n + 8 * slot + word) val }) ∧
        (word = 7 → ((s.ring n).rcv + 1 ≤ val.toNat ∧ (val.toNat - 1) % 2 ^ s.fld (Adr.hifCrCfg n) 0 4 = slot) → t = (s.onHost fun h => { h with ringMem := h.ringMem.put (32768 * n + 8 * slot + word) val }).receiveSlots n 4096) ∧
        (word = 7 → ¬ ((s.ring n).rcv + 1 ≤ val.toNat ∧ (val.toNat - 1) % 2 ^ s.fld (Adr.hifCrCfg n) 0 4 = slot) → t = ((s.onHost fun h => { h with ringMem := h.ringMem.put (32768 * n + 8 * slot + word) val }).raise Adr.hifEvt 0).receiveSlots n 4096))) ∧
  (∀ (ring : Nat) (half : Half) (val : Word) (s : State), ∃ t : State, exec (.commandRingEnable ring half val) s = .next t ∧ s.OnlyChanges [.host, .regs] t ∧
      (s.barOpen 0 = false ∨ 256 ≤ ring → t = s) ∧
      (∀ new, new = mergeHalf half (s.reg (Adr.hifCrCfg ring)) val &&& BitVec.ofNat 64 (bits 0 20) → s.barOpen 0 = true → ring < 256 → 6 ≤ new.field 0 4 → new.field 0 4 ≤ 12 → new.field 5 7 = 0 → s.fld (Adr.hifCqCfg (new.field 12 8)) 6 7 = 0 → (s.reg (Adr.hifCrCfg ring)).bit 4 = false →
        t.reg (Adr.hifCrCfg ring) = new ∧ (new.bit 4 = true → (t.ring ring).rcv = 0 ∧ ∀ p ∈ t.host.ringMem, ¬ (p.1 / 32768 = ring ∧ p.1 % 8 = 7 ∧ p.1 % 32768 / 8 < 2 ^ new.field 0 4)))) ∧
  (∀ (cq : Nat) (half : Half) (val : Word) (s : State), ∃ t : State, exec (.completionRingEnable cq half val) s = .next t ∧ s.OnlyChanges [.seq, .mem, .glv, .stw, .host, .regs, .out, .freeCtr] t ∧
      (s.barOpen 0 = false ∨ 256 ≤ cq → t = s) ∧
      (∀ new, new = mergeHalf half (s.reg (Adr.hifCqCfg cq)) val &&& BitVec.ofNat 64 (bits 0 31) → s.barOpen 0 = true → cq < 256 → 6 ≤ new.field 0 5 → new.field 0 5 ≤ 16 → new.field 6 7 = 0 → new.field 19 8 ≠ 0 → (s.reg (Adr.hifCqCfg cq)).bit 5 = false →
        (new.bit 5 = false → t = s.setReg (Adr.hifCqCfg cq) new) ∧ (new.bit 5 = true → t = ((s.setReg (Adr.hifCqCfg cq) new).onCq cq fun r => { r with tail := 0, ph := true, unsig := 0 }).cqRoom cq))) ∧
  (∀ (func cq : Nat) (val : Word) (s : State), ∃ t : State, exec (.cqHeadWrite func cq val) s = .next t ∧ s.OnlyChanges [.seq, .mem, .glv, .stw, .host, .regs, .out, .freeCtr] t ∧
      (s.barOpen func = false → t = s) ∧
      (func = 0 → s.barOpen 0 = true → (256 ≤ cq → t = s) ∧ (cq < 256 → t = (s.setReg (Adr.hifCqHead cq) (val &&& 0xFFFF)).cqRoom cq)) ∧
      (∀ c, func ≠ 0 → s.barOpen func = true → (s.cqsOf func)[cq]? = some c → t = (s.setReg (Adr.hifCqHead c) (val &&& 0xFFFF)).cqRoom c)) ∧
  (∀ (cq : Nat) (s : State), ∃ t : State, exec (.msixModerationTimer cq) s = .next t ∧ s.OnlyChanges [.host, .out] t ∧
      (s.fld (Adr.hifCqCfg cq) 27 4 = 0 ∨ (s.cq cq).unsig = 0 ∨ s.reached ((s.cq cq).firstTick + s.fld (Adr.hifCqCfg cq) 27 4) 0 = false → t = s) ∧
      (∀ f v, f = s.fld (Adr.hifCqCfg cq) 6 7 → v = s.fld (Adr.hifCqCfg cq) 13 6 → s.fld (Adr.hifCqCfg cq) 27 4 ≠ 0 → (s.cq cq).unsig ≠ 0 → s.reached ((s.cq cq).firstTick + s.fld (Adr.hifCqCfg cq) 27 4) 0 = true →
        (t.cq cq).unsig = 0 ∧ ((s.msixWord f v 1).bit 32 = false → t.out = .msix f v :: s.out) ∧ ((s.msixWord f v 1).bit 32 = true → t.out = s.out ∧ t.host.pba.at f = (s.host.pba.at f).setField v 1 1)))

/-- For a command of the physical function that sets no reserved bit and names a live glove: GLOVE_CREATE takes the lowest free glove and the chosen
sequencer and completes with the glove. GLOVE_DESTROY of a glove that a sequence names is refused with that sequence, of one that runs, is resetting
or serves with the glove; else it destroys the glove. GLOVE_RESET begins a reset with cause 6, or joins the one in progress, and completes with it.
FRAME_ALLOC of 1 to 2,048 frames makes the lowest run of FREE frames of the die or stack PRIVATE frames of the glove under its key and completes with
the first; without such a run it answers FULL. FRAME_SHARE of PRIVATE or SHARED frames of one glove makes all of them SHARED with the named readers,
and no other frame changes. FRAME_FREE frees all its frames or, with an owner other than the glove, none. (14_host_interface.md, 12_gloves_energy.md,
R426, R428, R429, R432, R514) -/
def Obligations.GloveAndFrameCommands : Prop :=
  (∀ (c : HostCmd) (s : State), ∃ t : State, exec (.gloveCreate c) s = .next t ∧ s.OnlyChanges [.arr, .seq, .glv, .host, .regs, .out, .freeCtr] t ∧
      (∀ u : State, s.Accepts c 0x010 [allBits, allBits, bits 0 15, bits 0 32] u → u.inS = true → (palmSet (c.a2 ++ c.a1) = [] → u.deepRungPends = false → t = u.refuse c stBound) ∧
        (∀ g q, u.deepRungPends = false → palmSet (c.a2 ++ c.a1) ≠ [] → c.a3.field 8 7 = 0 → g < 64 → (u.glove g).live = false → (u.glove g).draining = false →
          (∀ h, h < g → (u.glove h).live = true ∨ (u.glove h).draining = true) → (∀ p ∈ palmSet (c.a2 ++ c.a1), (u.palm p).glove = none ∧ (u.palm p).causes = [] ∧ (u.die (p / 16)).bring = 4) →
          (u.keys.at (c.a3.field 0 8)).installed = true → u.chooseGsq (palmSet (c.a2 ++ c.a1)) = some q →
          t = (u.createGlove g q (c.a2 ++ c.a1) (c.a3.field 0 8) 0 (c.a4.field 0 24) (c.a4.field 24 8)).complete c stOK g))) ∧
  (∀ (c : HostCmd) (s : State), ∃ t : State, exec (.gloveDestroy c) s = .next t ∧ s.OnlyChanges [.arr, .seq, .mem, .glv, .stw, .host, .regs, .out] t ∧
      (∀ u : State, s.Accepts c 0x011 [bits 0 6] u → u.inA = true → (u.glove (c.a1.field 0 6)).live = true → ((u.gloveCode (c.a1.field 0 6) = 3 ∨ u.gloveCode (c.a1.field 0 6) = 5) → t = u.gloveConflict c (c.a1.field 0 6)) ∧
        (u.gloveCode (c.a1.field 0 6) ≠ 3 → u.gloveCode (c.a1.field 0 6) ≠ 5 → (∀ i, u.gloveUser (c.a1.field 0 6) = some i → t = u.refuseState c 2 (State.qcode (u.seqEnt i).st) (u.seqHandle i)) ∧
          (u.gloveUser (c.a1.field 0 6) = none → u.serves (c.a1.field 0 6) = true → t = u.gloveConflict c (c.a1.field 0 6)) ∧ (u.gloveUser (c.a1.field 0 6) = none → u.serves (c.a1.field 0 6) = false → t = (u.destroyGlove (c.a1.field 0 6) c).finishDestroys)))) ∧
  (∀ (c : HostCmd) (s : State), ∃ t : State, exec (.gloveReset c) s = .next t ∧ s.OnlyChanges [.arr, .seq, .mem, .glv, .stw, .host, .regs, .out, .freeCtr] t ∧
      (∀ u : State, s.Accepts c 0x012 [bits 0 6] u → u.inA = true → (u.glove (c.a1.field 0 6)).live = true → (t.glove (c.a1.field 0 6)).resetting = true ∧ (t.glove (c.a1.field 0 6)).resetCmds.getLast? = some c ∧ ((u.glove (c.a1.field 0 6)).resetting = false → (t.glove (c.a1.field 0 6)).cause = 6 ∧ (t.glove (c.a1.field 0 6)).faulted = none))) ∧
  (∀ (c : HostCmd) (s : State), ∃ t : State, exec (.frameAlloc c) s = .next t ∧ s.OnlyChanges [.mem, .stw, .host, .regs, .out] t ∧
      (∀ u : State, s.Accepts c 0x013 [bits 0 12, bits 0 12] u → u.inS = true → (u.glove (c.a1.field 0 6)).live = true → ((c.a2.field 0 12 = 0 ∨ 2048 < c.a2.field 0 12) → t = u.refuse c stBound) ∧ (1 ≤ c.a2.field 0 12 → c.a2.field 0 12 ≤ 2048 → ∀ o, o = (u.freeRun (c.a2.field 0 12) fun f => (if c.a1.bit 6 then (u.frame f).stack else u.frameDie f) == c.a1.field 7 5) →
          (o = none → t = u.refuse c stFull) ∧ (∀ f, o = some f → (∃ v : State, t = v.complete c stOK f) ∧
            ∀ k, t.frame k = if f ≤ k ∧ k < f + c.a2.field 0 12 then { u.frame k with mode := .priv, glove := c.a1.field 0 6, key := (u.glove (c.a1.field 0 6)).key, readers := 0 } else u.frame k)))) ∧
  (∀ (c : HostCmd) (s : State), ∃ t : State, exec (.frameShare c) s = .next t ∧ s.OnlyChanges [.mem, .host, .regs, .out] t ∧
      (∀ u : State, s.Accepts c 0x014 [bits 0 32, allBits] u → u.inS = true → ∀ f n, f = c.a1.field 0 16 → n = c.a1.field 16 16 → ((n = 0 ∨ 65536 < f + n) → t = u.refuse c stBound) ∧
        (∀ g, 1 ≤ n → f + n ≤ 65536 → (∀ k, f ≤ k → k < f + n → ((u.frame k).mode = .priv ∧ (u.frame k).glove = g) ∨ (u.frame k).mode = .shared) →
          (∃ v : State, t = v.complete c stOK) ∧ ∀ k, t.frame k = if f ≤ k ∧ k < f + n then { u.frame k with mode := .shared, readers := c.a2 } else u.frame k))) ∧
  (∀ (c : HostCmd) (s : State), ∃ t : State, exec (.frameFree c) s = .next t ∧ s.OnlyChanges [.mem, .stw, .host, .regs, .out] t ∧
      (∀ u : State, s.Accepts c 0x015 [bits 0 38] u → u.inA = true → (u.glove (c.a1.field 32 6)).live = true → ∀ f n g fs, f = c.a1.field 0 16 → n = c.a1.field 16 16 → g = c.a1.field 32 6 → fs = (List.range n).map (f + ·) → f + n ≤ 65536 → (∀ k ∈ fs, (u.frame k).mode = .priv ∨ (u.frame k).mode = .shared) →
        ((∃ k ∈ fs, (u.frame k).glove ≠ g) → t = u.refuse c stOwner) ∧ ((∀ k ∈ fs, (u.frame k).glove = g ∧ u.frameHeld k = false) →
          t = ((fs.foldl (fun v k => v.freeFrame k) u).framesFreed).complete c stOK)))

/-- For a command of the physical function that sets no reserved bit and names a live glove: GSQ_WRITE past word 2,048 is out of bounds, to a
sequencer that runs or waits or that the glove does not hold refused, else words that pass the write rule are stored and marked, others refused as an
image. GSQ_START of an IDLE or HALTED sequencer of the glove starts it at address 0 with G1 = A2 and all other G 0, else it is refused. GSQ_STOP
leaves no sequencer running or waiting. PLAN_INSTALL over an idle index installs a plan of correct form whose staging overlaps none of the glove's
plans. PLAN_REMOVE of an idle plan of the glove empties the index, and an index that holds none of its plans answers PLAN_ABSENT. LZ2_ENABLE gives the
view to the glove over PRIVATE frames of its own, with no page, and LZ2_DISABLE with no loaded LZ2 image ends it. MIGRATE queues its request with its
operands; its completion comes with it. (14_host_interface.md, 06_patterns_sections.md, 08_memory_tiers.md, 09_expert_exchange.md, R208, R210, R302,
R312, R333, R514) -/
def Obligations.SequencerPlanViewAndMigrationCommands : Prop :=
  (∀ (c : HostCmd) (s : State), ∃ t : State, exec (.gsqWrite c) s = .next t ∧ s.OnlyChanges [.seq, .host, .regs, .out] t ∧
      (∀ u : State, s.Accepts c 0x016 [bits 0 28, allBits] u → u.inA = true → (u.glove (c.a1.field 0 6)).live = true → ∀ q f n, q = (u.glove (c.a1.field 0 6)).gsq → f = c.a1.field 6 11 → n = c.a1.field 17 11 + 1 → (2048 < f + n → t = u.refuse c stBound) ∧
        (f + n ≤ 2048 → (u.gsqOf (c.a1.field 0 6) = none ∨ (u.gsq q).state = .running ∨ (u.gsq q).state = .waiting) → t = u.gloveConflict c (c.a1.field 0 6)) ∧
        (∀ d ws, f + n ≤ 2048 → u.gsqOf (c.a1.field 0 6) ≠ none → (u.gsq q).state ≠ .running → (u.gsq q).state ≠ .waiting → u.hostBytes c.a2.toNat (8 * n) = some d → ws = (chunk 8 d).map (fun b => (BitVec.ofNat 64 (ofBytes b) : Word)) →
          (u.programOk q f ws = true → t = (u.writeProgram q f ws).complete c stOK) ∧ (u.programOk q f ws = false → t = u.refuse c stImage)))) ∧
  (∀ (c : HostCmd) (s : State), ∃ t : State, exec (.gsqStart c) s = .next t ∧ s.OnlyChanges [.seq, .host, .regs, .out] t ∧
      (∀ u : State, s.Accepts c 0x017 [bits 0 6, allBits] u → u.inS = true → (u.glove (c.a1.field 0 6)).live = true → ∀ q, q = (u.glove (c.a1.field 0 6)).gsq → ((u.gsqOf (c.a1.field 0 6) = none ∨ (u.gsq q).state = .running ∨ (u.gsq q).state = .waiting ∨ (u.gsq q).state = .faulted) → t = u.gloveConflict c (c.a1.field 0 6)) ∧
        (u.gsqOf (c.a1.field 0 6) ≠ none → ((u.gsq q).state = .idle ∨ (u.gsq q).state = .halted) → (t.gsq q).state = .running ∧ (t.gsq q).pc = 0 ∧ (t.gsq q).st = 0 ∧ (t.gsq q).g = [0, c.a2] ++ List.replicate 14 0 ∧ (t.gsq q).slots = (u.gsq q).slots ∧ ∀ r, r ≠ q → t.gsq r = u.gsq r))) ∧
  (∀ (c : HostCmd) (s : State), ∃ t : State, exec (.gsqStop c) s = .next t ∧ s.OnlyChanges [.seq, .host, .regs, .out] t ∧
      (∀ u : State, s.Accepts c 0x018 [bits 0 6] u → u.inA = true → (u.glove (c.a1.field 0 6)).live = true → ∀ q, q = (u.glove (c.a1.field 0 6)).gsq → (∃ v : State, t = v.complete c stOK) ∧ (u.gsqOf (c.a1.field 0 6) = none → t = u.complete c stOK) ∧ (u.gsqOf (c.a1.field 0 6) ≠ none → (t.gsq q).arm = none ∧ (t.gsq q).pc = (u.gsq q).pc ∧
        (t.gsq q).state = (if (u.gsq q).state = .running ∨ (u.gsq q).state = .waiting then .halted else (u.gsq q).state)))) ∧
  (∀ (c : HostCmd) (s : State), ∃ t : State, exec (.planInstall c) s = .next t ∧ s.OnlyChanges [.stw, .host, .regs, .out] t ∧
      (∀ u : State, s.Accepts c 0x019 [bits 0 14, allBits, allBits] u → u.inD = true → (u.glove (c.a1.field 8 6)).live = true → ∀ p d, p = c.a1.field 0 8 → u.hostBytes c.a2.toNat c.a3.toNat = some d → ((u.plan p).valid = true → (u.plan p).stage ≠ .idle → t = u.refuseState c 7 1 p) ∧
        ((u.plan p).stage = .idle → (State.planOf d = none → t = u.refuse c 0x46) ∧ (∀ x, State.planOf d = some x → u.planOverlaps p x = true → t = u.refuse c 0x46) ∧
          (∀ x, State.planOf d = some x → u.planOverlaps p x = false → t.plan p = x ∧ ∃ v : State, t = v.complete c stOK)))) ∧
  (∀ (c : HostCmd) (s : State), ∃ t : State, exec (.planRemove c) s = .next t ∧ s.OnlyChanges [.stw, .host, .regs, .out] t ∧
      (∀ u : State, s.Accepts c 0x01A [bits 0 14] u → u.inA = true → (u.glove (c.a1.field 8 6)).live = true → ∀ p, p = c.a1.field 0 8 → (((u.plan p).valid = false ∨ (u.plan p).glove ≠ c.a1.field 8 6) → t = u.refuse c 0x27) ∧
        ((u.plan p).valid = true → (u.plan p).glove = c.a1.field 8 6 → ((u.plan p).stage ≠ .idle → t = u.refuseState c 7 1 p) ∧ ((u.plan p).stage = .idle → (t.plan p).valid = false ∧ ∃ v : State, t = v.complete c stOK)))) ∧
  (∀ (c : HostCmd) (s : State), ∃ t : State, exec (.lz2Enable c) s = .next t ∧ s.OnlyChanges [.mem, .host, .regs, .out] t ∧
      (∀ u : State, s.Accepts c 0x01B [bits 0 6, allBits, bits 0 32] u → u.inS = true → (u.glove (c.a1.field 0 6)).live = true → ∀ f n, f = c.a3.field 0 16 → n = c.a3.field 16 16 → (u.prof 0 18 1 = 0 → t = u.refuseModule c) ∧ (∀ h, u.prof 0 18 1 ≠ 0 → u.mem.lz2Glove = some h → t = u.gloveConflict c h) ∧
        (u.prof 0 18 1 ≠ 0 → u.mem.lz2Glove = none → c.a2.toNat ≠ 0 → c.a2.toNat % 2 ^ 21 = 0 → c.a2.toNat ≤ 2 ^ 40 → n ≠ 0 → f + n ≤ 65536 → (∀ i, i < n → (u.frame (f + i)).mode = .priv ∧ (u.frame (f + i)).glove = c.a1.field 0 6) →
          (∃ v : State, t = v.complete c stOK) ∧ t.mem.lz2Glove = some (c.a1.field 0 6) ∧ t.mem.lz2Size = c.a2.toNat ∧ t.mem.lz2Frames = (List.range n).map (f + ·) ∧ t.mem.lz2Pages = []))) ∧
  (∀ (c : HostCmd) (s : State), ∃ t : State, exec (.lz2Disable c) s = .next t ∧ s.OnlyChanges [.mem, .host, .regs, .out] t ∧
      (∀ u : State, s.Accepts c 0x01C [bits 0 6] u → u.inA = true → (u.glove (c.a1.field 0 6)).live = true → (u.mem.lz2Glove ≠ some (c.a1.field 0 6) → t = u.gloveConflict c (c.a1.field 0 6)) ∧ (∀ k, u.mem.lz2Glove = some (c.a1.field 0 6) → u.lz2Slot (c.a1.field 0 6) = some k → t = u.gloveConflict c (c.a1.field 0 6)) ∧
        (u.mem.lz2Glove = some (c.a1.field 0 6) → u.lz2Slot (c.a1.field 0 6) = none → (∃ v : State, t = v.complete c stOK) ∧ t.mem.lz2Glove = none ∧ t.mem.lz2Pages = [] ∧ t.mem.lz2Frames = []))) ∧
  (∀ (c : HostCmd) (s : State), ∃ t : State, exec (.migrate c) s = .next t ∧ s.OnlyChanges [.mem, .host, .regs, .out] t ∧
      (∀ u : State, s.Accepts c 0x020 [bits 0 14 + bits 16 8 + bits 32 32, bits 0 56, bits 0 37 + bits 47 17, bits 0 36, bits 0 33 + bits 48 16] u → u.inD = true → (u.glove (c.a1.field 8 6)).live = true → ∃ r : MigReq, t.mem.waiting = u.mem.waiting ++ [r] ∧ t.mem.queue = u.mem.queue ∧ r.ident = u.mem.nextReq ∧ t.mem.nextReq = u.mem.nextReq + 1 ∧ r.op = c.a1.field 0 4 ∧ r.prio = c.a1.field 4 2 ∧ r.dest = c.a1.field 6 1 ∧
        r.durable = c.a1.bit 7 ∧ r.glove = c.a1.field 8 6 ∧ r.key = c.a1.field 16 8 ∧ r.slot = c.a1.field 32 32 ∧ r.nta = c.a2.field 0 56 ∧ r.len = c.a3.field 0 37 ∧ r.arg = c.a4.field 0 36 ∧ r.from_ = .host c 0x20 ∧
        r.done = (if c.a3.bit 47 then some (c.a3.field 48 16) else none) ∧ r.gate = (if c.a5.bit 32 then some (c.a5.field 48 16, c.a5.field 0 32) else none)))

/-- For a command of the physical function that sets no reserved bit: IDENTIFY completes with the module's two words. SET_PROFILE is refused while
another waits, is held for the next cold reset when it asks so, else waits for a tick that lies far enough ahead. SET_TICK_PERIOD is refused off the
crown or while another waits, out of bounds for an N outside 10,000 to 1,000,000, TICK_PASSED below 64 ticks from now, and else waits for its tick and
is sent on. SET_RUNG of a rung past 4 is out of bounds, during another change or from no rung it may leave refused, of S4 with a glove or sequence
refused, and else waits with its command for its time. SET_ROUTE of a legal entry writes it. STEWARD_SWAP without a ready standby is refused, with
running steps waits for their gloves, and else makes the standby the serving steward at once. (14_host_interface.md, R37, R41, R377, R380, R441, R514,
R567) -/
def Obligations.ModuleCommands : Prop :=
  (∀ (c : HostCmd) (s : State), ∃ t : State, exec (.identify c) s = .next t ∧ s.OnlyChanges [.host, .regs, .out] t ∧
      (∀ u : State, s.Accepts c 0x001 [] u → u.inA = true → t = u.complete c stOK u.capWord.toNat u.idWord.toNat)) ∧
  (∀ (c : HostCmd) (s : State), ∃ t : State, exec (.setProfile c) s = .next t ∧ s.OnlyChanges [.mem, .host, .aos, .regs, .out] t ∧
      (∀ u : State, s.Accepts c 0x002 [bits 0 3, allBits] u → u.inA = true → ∀ p T, p = c.a1.field 0 2 → T = c.a2.toNat → (u.aos.pend.isSome = true → t = u.refuseModule c) ∧ (u.aos.pend = none → c.a1.bit 2 = true → (∃ v : State, t = v.complete c stOK) ∧ t.aos.pend = some (p, none)) ∧
        (u.aos.pend = none → c.a1.bit 2 = false → u.timeRefusal T 0 ≠ stOK → t = u.refuse c (u.timeRefusal T 0)) ∧
        (u.aos.pend = none → c.a1.bit 2 = false → u.timeRefusal T 0 = stOK → u.prof 0 13 1 = 0 → u.fasterThan ((u.profWord p 0).field 14 3) = false → u.clearsUsed p = false → (∀ l, l < 96 → u.profLink p l = true) → (u.profWord p 1).field 32 32 ≤ u.stw.pool →
          (∃ v : State, t = v.complete c stOK) ∧ t.aos.pend = some (p, some T)))) ∧
  (∀ (c : HostCmd) (s : State), ∃ t : State, exec (.setTickPeriod c) s = .next t ∧ s.OnlyChanges [.tick, .host, .regs, .out] t ∧
      (∀ u : State, s.Accepts c 0x003 [bits 0 20, allBits] u → u.inD = true → ∀ n T, n = c.a1.field 0 20 → T = c.a2.toNat → ((u.tick.role ≠ .crown ∨ u.tick.pend.isSome = true) → t = u.refuseModule c) ∧ (u.tick.role = .crown → u.tick.pend = none → ((n < 10000 ∨ 1000000 < n) → t = u.refuse c stBound) ∧
          (10000 ≤ n → n ≤ 1000000 → T < u.tick.tick + 64 → t = u.refuse c stTickPassed) ∧ (10000 ≤ n → n ≤ 1000000 → u.tick.tick + 64 ≤ T → u.armedBeyond T n = false → u.fld Adr.tkeLcfg 0 20 < n → u.fld Adr.mgrCfg 8 20 < n →
            t.tick = { u.tick with pend := some (n, T) } ∧ t = (({ u with tick := { u.tick with pend := some (n, T) } } : State).emit (.periodChange n T)).complete c stOK)))) ∧
  (∀ (c : HostCmd) (s : State), ∃ t : State, exec (.setRung c) s = .next t ∧ s.OnlyChanges [.rung, .host, .regs, .out] t ∧
      (∀ u : State, s.Accepts c 0x004 [bits 0 4, allBits, bits 0 20] u → u.inD = true → ∀ r T o, r = c.a1.field 0 3 → T = (if c.a1.bit 3 then u.tick.tick else c.a2.toNat) → o = (if c.a1.bit 3 then u.tick.phase else c.a3.field 0 20) → (5 ≤ r → t = u.refuse c stBound) ∧
        (r < 5 → (u.rung.pend.isSome = true ∨ u.rung.entering.isSome = true) → t = u.refuseState c 6 u.rung.rung 0) ∧ (r = 4 → (∃ p ∈ u.glv, p.2.live = true) → t = u.refuseState c 6 u.rung.rung 0) ∧
        (r < 4 → u.rung.pend = none → u.rung.entering = none → (u.rung.rung = 0 → r ≠ 0) → (u.rung.rung ≠ 0 → u.rung.auto = false → r = 0) → (2 ≤ r → u.tick.role ≠ .rackMaster ∧ u.tick.role ≠ .crown ∧ u.tick.role ≠ .standby) →
          (c.a1.bit 3 = false → u.timeRefusal T o = stOK) → t = { u with rung := { u.rung with pend := some (r, T, o), cmd := some c } }))) ∧
  (∀ (c : HostCmd) (s : State), ∃ t : State, exec (.setRoute c) s = .next t ∧ s.OnlyChanges [.host, .regs, .out] t ∧
      (∀ u : State, s.Accepts c 0x005 [bits 0 13, bits 0 36] u → u.inA = true → ∀ n, n = c.a1.field 0 13 → (4096 ≤ n → t = u.refuse c stBound) ∧ (∀ i, i < 4 → c.a2.bit (8 * i + 7) = true → 96 ≤ c.a2.field (8 * i) 7 → t = u.refuse c stBound) ∧
        (n < 4096 → (∀ i, i < 4 → c.a2.bit (8 * i + 7) = true → c.a2.field (8 * i) 7 < 96) → (c.a2.bit 35 = true ∨ (1 ≤ c.a2.field 32 3 ∧ c.a2.field 32 3 ≤ 6)) → t = (u.setReg (Adr.rte n) c.a2).complete c stOK))) ∧
  (∀ (c : HostCmd) (s : State), ∃ t : State, exec (.stewardSwap c) s = .next t ∧ s.OnlyChanges [.stw, .host, .regs, .out] t ∧
      (∀ u : State, s.Accepts c 0x006 [] u → u.inD = true → ((u.stw.standbyReady = false ∨ u.stw.swapCmd.isSome = true ∨ u.stw.swapLeft ≠ []) → t = u.refuseModule c) ∧ (u.stw.standbyReady = true → u.stw.swapCmd = none → u.stw.swapLeft = [] →
          ((∃ p ∈ u.stw.serve, p.2.phase ≠ 0) → t = { u with stw := { u.stw with swapCmd := some c, swapLeft := (u.stw.serve.filter fun p => p.2.phase ≠ 0).map (·.1) } }) ∧
          ((∀ p ∈ u.stw.serve, p.2.phase = 0) → t.stw.serving = 1 - u.stw.serving ∧ t.stw.swapCmd = none ∧ t.stw.beats = 0 ∧ t.flag Adr.stwEvt 5 = true))))

/-- In this order: FRAME_ALLOC, GLOVE_CREATE, GSQ_START and MODEL_PARK with a bit that their row does not name are refused with BOUND_VIOLATION;
GLOVE_CREATE and MODEL_PARK from a virtual function with NOT_PERMITTED; each in a module state that its row does not name with STATE_CONFLICT for the
module; and FRAME_ALLOC and GSQ_START of a glove in state FREE with STATE_CONFLICT for that glove. FRAME_ALLOC and GSQ_START of a virtual function act
on the glove that the function is bound to, whatever glove the command names. (14_host_interface.md, 12_gloves_energy.md, R514, R636) -/
def Obligations.SharedCommandChecks : Prop :=
  (∀ (c : HostCmd) (s u : State), u = s.taken c 0x013 → (reservedSet c [bits 0 12, bits 0 12] = true → exec (.frameAlloc c) s = .next (u.refuse c stBound)) ∧ (reservedSet c [bits 0 12, bits 0 12] = false → c.func = 0 → u.inS = false → exec (.frameAlloc c) s = .next (u.refuseModule c)) ∧
      (reservedSet c [bits 0 12, bits 0 12] = false → c.func = 0 → u.inS = true → (u.glove (c.a1.field 0 6)).live = false → exec (.frameAlloc c) s = .next (u.refuseFreeGlove c (c.a1.field 0 6))) ∧
      (∀ g, reservedSet c [bits 0 12, bits 0 12] = false → c.func ≠ 0 → u.inS = true → u.vfGlove c.func = some g → (u.glove (gloveA1 (vfA1 g (u.glove g).key c))).live = true → exec (.frameAlloc c) s = .next (u.frameAllocCmd (vfA1 g (u.glove g).key c)))) ∧
  (∀ (c : HostCmd) (s u : State), u = s.taken c 0x017 → (reservedSet c [bits 0 6, allBits] = true → exec (.gsqStart c) s = .next (u.refuse c stBound)) ∧ (reservedSet c [bits 0 6, allBits] = false → c.func = 0 → u.inS = false → exec (.gsqStart c) s = .next (u.refuseModule c)) ∧
      (reservedSet c [bits 0 6, allBits] = false → c.func = 0 → u.inS = true → (u.glove (c.a1.field 0 6)).live = false → exec (.gsqStart c) s = .next (u.refuseFreeGlove c (c.a1.field 0 6))) ∧
      (∀ g, reservedSet c [bits 0 6, allBits] = false → c.func ≠ 0 → u.inS = true → u.vfGlove c.func = some g → (u.glove (gloveA1 (vfA1 g (u.glove g).key c))).live = true → exec (.gsqStart c) s = .next (u.gsqStartCmd (vfA1 g (u.glove g).key c)))) ∧
  (∀ (c : HostCmd) (s u : State), u = s.taken c 0x010 → (reservedSet c [allBits, allBits, bits 0 15, bits 0 32] = true → exec (.gloveCreate c) s = .next (u.refuse c stBound)) ∧ (reservedSet c [allBits, allBits, bits 0 15, bits 0 32] = false → c.func ≠ 0 → exec (.gloveCreate c) s = .next (u.refuse c stNotPermitted)) ∧ (reservedSet c [allBits, allBits, bits 0 15, bits 0 32] = false → c.func = 0 → u.inS = false → exec (.gloveCreate c) s = .next (u.refuseModule c))) ∧
  (∀ (c : HostCmd) (s u : State), u = s.taken c 0x032 → (reservedSet c [bits 0 20] = true → exec (.modelPark c) s = .next (u.refuse c stBound)) ∧ (reservedSet c [bits 0 20] = false → c.func ≠ 0 → exec (.modelPark c) s = .next (u.refuse c stNotPermitted)) ∧ (reservedSet c [bits 0 20] = false → c.func = 0 → u.inD = false → exec (.modelPark c) s = .next (u.refuseModule c)))

/-- GLOVE_DESTROY, GLOVE_RESET, FRAME_ALLOC, FRAME_FREE, GSQ_WRITE, GSQ_START, GSQ_STOP, PLAN_INSTALL, PLAN_REMOVE, LZ2_ENABLE, LZ2_DISABLE,
ADAPTER_LOAD and MIGRATE of a glove in state FREE, also one whose frames are still being freed, change nothing beyond the refusal STATE_CONFLICT with
object 1, state 0 and the glove in RES0. ADMIT answers OWNER_MISMATCH. The AOS FENCE of kind 2 answers STATE_CONFLICT over SMBus and changes nothing,
as a program of the AOS that names such a glove does not either. (R636) -/
def Obligations.FreeGlovesAreRefused : Prop :=
  (∀ (c : HostCmd) (s u : State), s.Accepts c 0x011 [bits 0 6] u → u.inA = true → (u.glove (c.a1.field 0 6)).live = false → exec (.gloveDestroy c) s = .next (u.refuseState c 1 0 (c.a1.field 0 6))) ∧
  (∀ (c : HostCmd) (s u : State), s.Accepts c 0x012 [bits 0 6] u → u.inA = true → (u.glove (c.a1.field 0 6)).live = false → exec (.gloveReset c) s = .next (u.refuseState c 1 0 (c.a1.field 0 6))) ∧
  (∀ (c : HostCmd) (s u : State), s.Accepts c 0x013 [bits 0 12, bits 0 12] u → u.inS = true → (u.glove (c.a1.field 0 6)).live = false → exec (.frameAlloc c) s = .next (u.refuseState c 1 0 (c.a1.field 0 6))) ∧
  (∀ (c : HostCmd) (s u : State), s.Accepts c 0x015 [bits 0 38] u → u.inA = true → (u.glove (c.a1.field 32 6)).live = false → exec (.frameFree c) s = .next (u.refuseState c 1 0 (c.a1.field 32 6))) ∧
  (∀ (c : HostCmd) (s u : State), s.Accepts c 0x016 [bits 0 28, allBits] u → u.inA = true → (u.glove (c.a1.field 0 6)).live = false → exec (.gsqWrite c) s = .next (u.refuseState c 1 0 (c.a1.field 0 6))) ∧
  (∀ (c : HostCmd) (s u : State), s.Accepts c 0x017 [bits 0 6, allBits] u → u.inS = true → (u.glove (c.a1.field 0 6)).live = false → exec (.gsqStart c) s = .next (u.refuseState c 1 0 (c.a1.field 0 6))) ∧
  (∀ (c : HostCmd) (s u : State), s.Accepts c 0x018 [bits 0 6] u → u.inA = true → (u.glove (c.a1.field 0 6)).live = false → exec (.gsqStop c) s = .next (u.refuseState c 1 0 (c.a1.field 0 6))) ∧
  (∀ (c : HostCmd) (s u : State), s.Accepts c 0x019 [bits 0 14, allBits, allBits] u → u.inD = true → (u.glove (c.a1.field 8 6)).live = false → exec (.planInstall c) s = .next (u.refuseState c 1 0 (c.a1.field 8 6))) ∧
  (∀ (c : HostCmd) (s u : State), s.Accepts c 0x01A [bits 0 14] u → u.inA = true → (u.glove (c.a1.field 8 6)).live = false → exec (.planRemove c) s = .next (u.refuseState c 1 0 (c.a1.field 8 6))) ∧
  (∀ (c : HostCmd) (s u : State), s.Accepts c 0x01B [bits 0 6, allBits, bits 0 32] u → u.inS = true → (u.glove (c.a1.field 0 6)).live = false → exec (.lz2Enable c) s = .next (u.refuseState c 1 0 (c.a1.field 0 6))) ∧
  (∀ (c : HostCmd) (s u : State), s.Accepts c 0x01C [bits 0 6] u → u.inA = true → (u.glove (c.a1.field 0 6)).live = false → exec (.lz2Disable c) s = .next (u.refuseState c 1 0 (c.a1.field 0 6))) ∧
  (∀ (c : HostCmd) (s u : State), s.Accepts c 0x034 [bits 0 47, bits 0 32, allBits] u → u.inS = true → (u.glove (c.a1.field 32 6)).live = false → exec (.adapterLoad c) s = .next (u.refuseState c 1 0 (c.a1.field 32 6))) ∧
  (∀ (c : HostCmd) (s u : State), s.Accepts c 0x020 [bits 0 14 + bits 16 8 + bits 32 32, bits 0 56, bits 0 37 + bits 47 17, bits 0 36, bits 0 33 + bits 48 16] u → u.inD = true → (u.glove (c.a1.field 8 6)).live = false → exec (.migrate c) s = .next (u.refuseState c 1 0 (c.a1.field 8 6))) ∧
  (∀ (c : HostCmd) (s u : State), s.Accepts c 0x040 [bits 0 56, bits 0 56, bits 0 40, bits 0 56, allBits, bits 0 32] u → u.inS = true → (u.glove (c.a1.field 0 6)).live = false → exec (.admitSeq c) s = .next (u.refuse c stOwner)) ∧
  (∀ (smbus : Bool) (idx : BitVec 16) (s u : State), s.sidebandUp = true → idx.toNat < 64 → u = s.wakeBy .smbus → (smbus = true → u.fld Adr.rasCtl 1 1 = 1 → (u.glove idx.toNat).live = false → exec (.fence smbus 2 idx) s = .next (u.aosAnswer 3 stConflict)) ∧ (smbus = false → (s.glove idx.toNat).live = false → exec (.fence smbus 2 idx) s = .next s))

/-- For a command of the physical function that sets no reserved bit, by its action: FENCE of a palm that is not service-fenced fences it with cause
4, of a link not FENCED makes it FENCED, of a port fences it unless it is absent or fenced; UNFENCE of a service-fenced palm lifts the cause, of a
FENCED link makes it DOWN; RETIRE of a frame that is not absent, with a FREE frame of its die, retires it, of an ACTIVE port drains it; FORM_CHAIN of
a legal, free chain forms it; RETURN of a FENCED port with its module holds the command until the port is back. Each of these is refused with the
part's state where the part is in another state, and out of bounds for a part that does not exist. KEY_OP INSTALL of a key that does not unwrap
answers SIGNATURE_INVALID and uses the exchanged key up; one that does is put in its slot. ERASE of an empty slot is refused, of another erases it.
IMAGE_OP STAGE stores an image that passes its checks as STAGED of both stores; ACTIVATE of a slot without STAGED images is refused; WRITE_OTP takes
the lowest unused generation. (15_security.md, 14_host_interface.md, 18_electrical_package.md, R514, R515, R530, R531, R630) -/
def Obligations.ServiceKeyAndImageCommands : Prop :=
  (∀ (c : HostCmd) (s : State), ∃ t : State, exec (.serviceOpFence c) s = .next t ∧ s.OnlyChanges [.mstate, .dies, .arr, .seq, .mem, .glv, .stw, .net, .host, .aos, .regs, .out, .freeCtr] t ∧
      (∀ u, s.Accepts c 0x007 [bits 0 8, allBits, bits 0 11] u → u.inA = true → c.a1.field 0 4 = 0 → ∀ idx, idx = c.a2.toNat → (c.a1.field 4 4 = 1 → (128 ≤ idx → t = u.refuse c stBound) ∧ (idx < 128 → 4 ∈ (u.palm idx).causes → t = u.partConflict c 2 idx) ∧ (idx < 128 → 4 ∉ (u.palm idx).causes → t = ((u.fenceCount).fencePalm idx 4).complete c stOK)) ∧
        (c.a1.field 4 4 = 5 → (96 ≤ idx → t = u.refuse c stBound) ∧ (idx < 96 → (u.link idx).st = .fenced → t = u.partConflict c 4 idx) ∧ (idx < 96 → (u.link idx).st ≠ .fenced → (∃ v : State, t = v.complete c stOK) ∧ t.link idx = { u.link idx with st := .fenced, txq := [], asm := [], unacked := [], resend := 0 })) ∧
        (c.a1.field 4 4 = 3 → idx < u.variant.channels → (u.portSt false idx = .absent ∨ u.portSt false idx = .fenced → t = u.partConflict c (State.portCode (u.portSt false idx)) idx) ∧ (u.portSt false idx ≠ .absent → u.portSt false idx ≠ .fenced → t = (u.fencePort false idx).complete c stOK)) ∧
        (7 ≤ c.a1.field 4 4 → t = u.refuse c stBound))) ∧
  (∀ (c : HostCmd) (s : State), ∃ t : State, exec (.serviceOpUnfence c) s = .next t ∧ s.OnlyChanges [.mstate, .dies, .arr, .seq, .mem, .glv, .stw, .net, .host, .aos, .regs, .out, .freeCtr] t ∧
      (∀ u, s.Accepts c 0x007 [bits 0 8, allBits, bits 0 11] u → u.inA = true → c.a1.field 0 4 = 1 → ∀ idx, idx = c.a2.toNat → (c.a1.field 4 4 = 1 → (128 ≤ idx → t = u.refuse c stBound) ∧ (idx < 128 → 4 ∉ (u.palm idx).causes → t = u.partConflict c (State.palmCode (u.palm idx)) idx) ∧
          (idx < 128 → 4 ∈ (u.palm idx).causes → u.dieFenced (idx / 16) = false → (∃ v : State, t = v.complete c stOK) ∧ (t.palm idx).causes = (u.palm idx).causes.filter (· ≠ 4))) ∧
        (c.a1.field 4 4 = 5 → (96 ≤ idx → t = u.refuse c stBound) ∧ (idx < 96 → (u.link idx).st = .fenced → (∃ v : State, t = v.complete c stOK) ∧ t.link idx = { u.link idx with st := .down, wasUp := false })))) ∧
  (∀ (c : HostCmd) (s : State), ∃ t : State, exec (.serviceOpRetire c) s = .next t ∧ s.OnlyChanges [.mstate, .dies, .arr, .seq, .mem, .glv, .stw, .net, .host, .aos, .regs, .out, .freeCtr] t ∧
      (∀ u, s.Accepts c 0x007 [bits 0 8, allBits, bits 0 11] u → u.inA = true → c.a1.field 0 4 = 2 → ∀ idx, idx = c.a2.toNat → (c.a1.field 4 4 = 6 → idx < 65536 → ((u.frame idx).mode = .absent → t = u.partConflict c 0 idx) ∧
          (∀ b, (u.frame idx).mode ≠ .absent → b ∈ u.mem.tmap → b.1 ≠ idx → b.2.mode = .free → u.stackDie b.2.stack = u.frameDie idx → t = (u.retireFrame idx).complete c stOK)) ∧
        (c.a1.field 4 4 = 3 → idx < u.variant.channels → (u.portSt false idx ≠ .active → t = u.partConflict c (State.portCode (u.portSt false idx)) idx) ∧ (u.portSt false idx = .active → t = (u.drainPort false idx).complete c stOK)))) ∧
  (∀ (c : HostCmd) (s : State), ∃ t : State, exec (.serviceOpFormChain c) s = .next t ∧ s.OnlyChanges [.mstate, .dies, .arr, .seq, .mem, .glv, .stw, .net, .host, .aos, .regs, .out, .freeCtr] t ∧
      (∀ u, s.Accepts c 0x007 [bits 0 8, allBits, bits 0 11] u → u.inA = true → c.a1.field 0 4 = 3 → ∀ idx row col k, idx = c.a2.toNat → row = c.a3.field 0 5 → col = c.a3.field 6 5 → k = (if c.a3.bit 5 then Kind.m else Kind.c) →
        ((c.a1.field 4 4 ≠ 0 ∨ 8 ≤ idx ∨ 24 ≤ row ∨ 24 ≤ col) → t = u.refuse c stBound) ∧ (c.a1.field 4 4 = 0 → idx < 8 → row < 24 → col < 24 → (row + col) % 2 = (if c.a3.bit 5 then 1 else 0) →
          u.chainFree idx row col = true → State.chainOf (u.repair idx row) k = none → State.chainWait (u.repair idx row) k = none → State.spareOk (u.repair idx row) k = true → t = (u.formChain idx row k col true).complete c stOK))) ∧
  (∀ (c : HostCmd) (info : Option DimmInfo) (s : State), ∃ t : State, exec (.serviceOpReturn c info) s = .next t ∧ s.OnlyChanges [.mstate, .dies, .arr, .seq, .mem, .glv, .stw, .net, .host, .aos, .regs, .out, .freeCtr] t ∧
      (∀ u, s.Accepts c 0x007 [bits 0 8, allBits, bits 0 11] u → u.inA = true → c.a1.field 0 4 = 4 → ∀ idx, idx = c.a2.toNat → (c.a1.field 4 4 ≠ 3 → c.a1.field 4 4 ≠ 4 → t = u.refuse c stBound) ∧ (c.a1.field 4 4 = 3 → idx < u.variant.channels → (u.portSt false idx ≠ .fenced ∨ info = none → t = u.partConflict c (State.portCode (u.portSt false idx)) idx) ∧
          (∀ i, u.portSt false idx = .fenced → info = some i → (u.mem.ddr.at idx).returnCmd = none → (u.dimmKind = none ∨ u.dimmKind = some i.mrdimm) → t.mem.ddr.at idx = { u.mem.ddr.at idx with returnCmd := some c } ∧ t.host = u.host)))) ∧
  (∀ (c : HostCmd) (s : State), ∃ t : State, exec (.keyOpInstall c) s = .next t ∧ s.OnlyChanges [.arr, .seq, .mem, .glv, .keys, .stw, .host, .aos, .regs, .out, .freeCtr] t ∧
      (∀ u, s.Accepts c 0x008 [bits 0 10, allBits, allBits, allBits, allBits, allBits] u → u.inA = true → c.a1.field 8 2 = 0 → ∀ n, n = c.a1.field 0 8 → (u.keys.at n).installed = false → (u.aos.xkey = none → t = u.keyConflict c n) ∧ (∀ m, u.aos.xkey = some m → t.aos.xkey = none ∧
          (Config.unwrapKey (u.kek m n) (wordBytes [c.a2, c.a3, c.a4, c.a5, c.a6]) = none → ∃ v : State, t = v.refuse c stSig) ∧
          (∀ k, Config.unwrapKey (u.kek m n) (wordBytes [c.a2, c.a3, c.a4, c.a5, c.a6]) = some k → u.aos.repPolicy < 2 → (∀ p ∈ u.keys, p.2.installed = true → p.2.tag ≠ BitVec.ofNat 128 (ofBytes (Config.shake256 (k ++ ascii "LZ3-TAG") 16))) → (n < 256) →
            (∃ v : State, t = v.complete c stOK) ∧ (t.keys.at n).installed = true ∧ (t.keys.at n).k = k ∧ ∀ j, j ≠ n → t.keys.at j = u.keys.at j)))) ∧
  (∀ (c : HostCmd) (s : State), ∃ t : State, exec (.keyOpErase c) s = .next t ∧ s.OnlyChanges [.arr, .seq, .mem, .glv, .keys, .stw, .host, .aos, .regs, .out, .freeCtr] t ∧
      (∀ u, s.Accepts c 0x008 [bits 0 10, allBits, allBits, allBits, allBits, allBits] u → u.inA = true → c.a1.field 8 2 = 1 → ∀ n, n = c.a1.field 0 8 → ((u.keys.at n).installed = false → t = u.keyConflict c n) ∧ ((u.keys.at n).installed = true → t = (u.eraseKey n).complete c stOK))) ∧
  (∀ (c : HostCmd) (s : State), ∃ t : State, exec (.imageOpStage c) s = .next t ∧ s.OnlyChanges [.host, .aos, .regs, .out] t ∧
      (∀ u, s.Accepts c 0x009 [bits 0 2, allBits, allBits] u → u.inA = true → c.a1.field 0 2 = 0 → (u.imageBytes c = none → t = u.refuse c stBound) ∧ (∀ d g st, u.imageBytes c = some d → g = leAt d 6 2 → st = u.imageCheck d (fun g => 2 ≤ g && g ≤ 4) → (st ≠ stOK → t = u.refuseImage c st) ∧
          (st = stOK → g < 16 → (∃ v : State, t = v.complete c stOK) ∧ (t.aos.banks.at g).staged.map (·.bytes) = some d ∧ (t.aos.banks.at (16 + g)).staged.map (·.bytes) = some d ∧ (t.aos.banks.at g).current = (u.aos.banks.at g).current)))) ∧
  (∀ (c : HostCmd) (s : State), ∃ t : State, exec (.imageOpActivate c) s = .next t ∧ s.OnlyChanges [.stw, .host, .aos, .regs, .out] t ∧
      (∀ u, s.Accepts c 0x009 [bits 0 2, bits 0 3, 0] u → u.inA = true → c.a1.field 0 2 = 1 → ∀ g, g = c.a2.toNat → ((g < 2 ∨ 4 < g) → t = u.refuse c stBound) ∧ (2 ≤ g → g ≤ 4 → (u.aos.banks.at g).staged = none → t = u.refuseModule c) ∧
        (∀ i j p rest, 2 ≤ g → g ≤ 4 → (u.aos.banks.at g).staged = some i → (u.aos.banks.at (16 + g)).staged = some j → u.aos.act = none → u.aos.burn = none → u.stw.standbyReady = true → u.aos.aos1Ready = true →
          u.imageCheck i.bytes (· == g) = stOK → u.imageCheck j.bytes (· == g) = stOK → u.updParts g = p :: rest → t = (u.restartPart g p rest).complete c stOK))) ∧
  (∀ (c : HostCmd) (s : State), ∃ t : State, exec (.imageOpWriteOtp c) s = .next t ∧ s.OnlyChanges [.host, .aos, .regs, .out] t ∧
      (∀ u, s.Accepts c 0x009 [bits 0 2, allBits, allBits] u → u.inA = true → c.a1.field 0 2 = 2 → (u.imageBytes c = none → t = u.refuse c stBound) ∧ (∀ d g, u.imageBytes c = some d → imageFields d (· == otpStage) = true → 0x08A8 ≤ (State.otpOf d).len → (State.otpOf d).len ≤ 16312 → (State.otpOf d).len % 8 = 0 → profilesOk (State.otpOf d).profiles = true → u.aos.act = none → u.aos.burn = none →
          u.imageCheck d (· == otpStage) = stOK → g < 4 → (u.aos.otp.getD g default).used = false → (∀ h, h < g → (u.aos.otp.getD h default).used = true) →
          (∃ v : State, t = v.complete c stOK) ∧ (t.aos.otp.getD g default).used = true ∧ t.aos.burn.map (·.1) = some g)))

/-- While the AOS does not answer, every request leaves the module as it is. Otherwise, after its wake: SET_ENDPOINT_ID of a legal ID takes it and
answers it, GET_ENDPOINT_ID answers the ID, GET_MCTP_VERSION_SUPPORT answers one version for the base, control and vendor types,
GET_MESSAGE_TYPE_SUPPORT answers type 0x7E, GET_VENDOR_DEFINED_MESSAGE_SUPPORT of set 0 answers vendor 0x1C8E and ends. GET_RECORD answers the record
as last refreshed, or result 2 for an ID that answers with none. GET_ALERTS answers the flags and clears those returned that no event sets in the same
cycle and whose condition has ended. SET_ALERT_MASK writes the mask. The address resolution sets the SMBus address. RECORD_REFRESH stores one record
per ID with the tick, and raises the envelope alert when the last millisecond went above it. The response formats of the MCTP control commands are the
model's own (assumption log). (14_host_interface.md, 12_gloves_energy.md, 17_reliability_service.md, R450, R518, R519, R520, R521, R588, R589) -/
def Obligations.SidebandRequests : Prop :=
  (∀ (eid : Byte) (s : State), ∃ t : State, exec (.setEndpointId eid) s = .next t ∧ s.OnlyChanges [.tick, .dies, .arr, .seq, .mem, .glv, .rung, .stw, .net, .host, .aos, .regs, .out, .freeCtr] t ∧
      (s.sidebandUp = false → t = s) ∧
      (∀ v : State, s.sidebandUp = true → v = s.wakeBy .smbus → (eid = 0 ∨ eid = 0xFF → t = v.respond [0x01, 0x02]) ∧ (eid ≠ 0 → eid ≠ 0xFF → t.host = { v.host with eid := eid.toNat } ∧ t.out = .smbus [0x01, 0x00, 0x00, eid, 0x00] :: v.out))) ∧
  (∀ (s : State), ∃ t : State, exec .getEndpointId s = .next t ∧ s.OnlyChanges [.tick, .dies, .arr, .seq, .mem, .glv, .rung, .stw, .net, .host, .aos, .regs, .out, .freeCtr] t ∧
      (s.sidebandUp = false → t = s) ∧
      (∀ v : State, s.sidebandUp = true → v = s.wakeBy .smbus → t.out = .smbus ([0x02, 0x00] ++ toBytes v.host.eid 1 ++ [0x00, 0x00]) :: v.out)) ∧
  (∀ (type : Byte) (s : State), ∃ t : State, exec (.getMctpVersionSupport type) s = .next t ∧ s.OnlyChanges [.tick, .dies, .arr, .seq, .mem, .glv, .rung, .stw, .net, .host, .aos, .regs, .out, .freeCtr] t ∧
      (s.sidebandUp = false → t = s) ∧
      (∀ v : State, s.sidebandUp = true → v = s.wakeBy .smbus → (type ≠ 0xFF → type ≠ 0 → type ≠ 0x7E → t.out = .smbus [0x04, 0x80] :: v.out) ∧ ((type = 0xFF ∨ type = 0 ∨ type = 0x7E) → ∃ l, l.length = 4 ∧ t.out = .smbus ([0x04, 0x00, 0x01] ++ l) :: v.out))) ∧
  (∀ (s : State), ∃ t : State, exec .getMessageTypeSupport s = .next t ∧ s.OnlyChanges [.tick, .dies, .arr, .seq, .mem, .glv, .rung, .stw, .net, .host, .aos, .regs, .out, .freeCtr] t ∧
      (s.sidebandUp = false → t = s) ∧
      (∀ v : State, s.sidebandUp = true → v = s.wakeBy .smbus → t.out = .smbus [0x05, 0x00, 0x01, 0x7E] :: v.out)) ∧
  (∀ (sel : Byte) (s : State), ∃ t : State, exec (.getVendorDefinedMessageSupport sel) s = .next t ∧ s.OnlyChanges [.tick, .dies, .arr, .seq, .mem, .glv, .rung, .stw, .net, .host, .aos, .regs, .out, .freeCtr] t ∧
      (s.sidebandUp = false → t = s) ∧
      (∀ v : State, s.sidebandUp = true → v = s.wakeBy .smbus → (sel ≠ 0 → t.out = .smbus [0x06, 0x02] :: v.out) ∧ (sel = 0 → ∃ l, l.length = 2 ∧ t.out = .smbus ([0x06, 0x00, 0xFF, 0x00, 0x1C, 0x8E] ++ l) :: v.out))) ∧
  (∀ (ident : Byte) (s : State), ∃ t : State, exec (.getRecord ident) s = .next t ∧ s.OnlyChanges [.tick, .dies, .arr, .seq, .mem, .glv, .rung, .stw, .net, .host, .aos, .regs, .out, .freeCtr] t ∧
      (s.sidebandUp = false → t = s) ∧
      (∀ v : State, s.sidebandUp = true → v = s.wakeBy .smbus → (v.recordIds.contains ident.toNat = false → t = v.respond [0x01, 0x02]) ∧ (∀ p, v.recordIds.contains ident.toNat = true → v.host.records.find? (fun p => p.1 == ident.toNat) = some p → t.out = .smbus ([0x01, 0x00] ++ p.2) :: v.out))) ∧
  (∀ (events : Word) (s : State), ∃ t : State, exec (.getAlerts events) s = .next t ∧ s.OnlyChanges [.tick, .dies, .arr, .seq, .mem, .glv, .rung, .stw, .net, .host, .aos, .regs, .out, .freeCtr] t ∧
      (s.sidebandUp = false → t = s) ∧
      (∀ v : State, s.sidebandUp = true → v = s.wakeBy .smbus → t.reg Adr.hifAlert = ((events &&& 0x3F) ||| v.alertsHold) ∧ (∀ a, a ≠ Adr.hifAlert → t.reg a = v.reg a) ∧ t.out = .smbus ([0x02, 0x00] ++ toBytes (v.reg Adr.hifAlert).toNat 8) :: v.out)) ∧
  (∀ (mask : Word) (s : State), ∃ t : State, exec (.setAlertMask mask) s = .next t ∧ s.OnlyChanges [.tick, .dies, .arr, .seq, .mem, .glv, .rung, .stw, .net, .host, .aos, .regs, .out, .freeCtr] t ∧
      (s.sidebandUp = false → t = s) ∧
      (∀ v : State, s.sidebandUp = true → v = s.wakeBy .smbus → t.reg Adr.hifAlmask = mask &&& 0x3F ∧ (∀ a, a ≠ Adr.hifAlmask → t.reg a = v.reg a) ∧ t.out = .smbus [0x03, 0x00] :: v.out)) ∧
  (∀ (addr : BitVec 7) (s : State), ∃ t : State, exec (.smbusAddressResolution addr) s = .next t ∧ s.OnlyChanges [.tick, .dies, .arr, .seq, .mem, .glv, .rung, .stw, .net, .host, .aos, .regs, .out, .freeCtr] t ∧
      (s.sidebandUp = false → t = s) ∧
      (∀ v : State, s.sidebandUp = true → v = s.wakeBy .smbus → t = { v with host := { v.host with smbAddr := addr.toNat } })) ∧
  (∀ (s : State), ∃ t : State, exec .recordRefresh s = .next t ∧ s.OnlyChanges [.host, .regs] t ∧
      (s.sidebandUp = false → t = s) ∧
      (s.sidebandUp = true → t.host.records.map (·.1) = s.recordIds ∧ (∀ p ∈ t.host.records, p.2.take 1 = toBytes p.1 1 ∧ (p.2.drop 2).take 4 = toBytes s.tick.tick 4) ∧ t.host.mtrLast = s.railMeters ∧ t.tick = s.tick ∧ t.stw = s.stw ∧ t.glv = s.glv) ∧
      (s.sidebandUp = true → s.prof 0 0 13 < t.host.powerW → t.flag Adr.hifAlert 3 = true))

/-- While the AOS does not run, its operations leave the module as it is. Over SMBus, a destructive one is NOT_PERMITTED while RAS_CTL.SMBOPS is 0;
else it answers OK once it is logged and done: TRIP trips the module; FENCE fences a die's array (0), a die in full (1), a link (3), the serving
steward (4) or the manager duties (5), or resets a live glove (2), and no other kind is valid; ERASE of an installed key erases it, of another is
refused; RESET takes a warm or cold reset of cause 8. A program of the AOS runs the same operations without an answer. AOS_READ logs and answers its
words, AOS_REPORT sends the report. The steward watch fences the serving steward, the manager watch the duties of a rack master. SEC_ACTL.GO starts a
report while none is made and the generator works; the report then becomes ready. RAS_CTL takes DRAIN, SMBOPS while LOCK is 0, and LOCK for good;
DRAIN takes the module from SERVICE or DEGRADED to DRAINING. (17_reliability_service.md, 15_security.md, R539, R592, R598, R599, R600, R601, R602,
R606) -/
def Obligations.AosOperationsAttestationAndDrain : Prop :=
  (∀ (s : State), ∃ t : State, exec .aosRead s = .next t ∧ s.OnlyChanges [.tick, .dies, .arr, .seq, .mem, .glv, .rung, .stw, .net, .host, .aos, .regs, .out, .freeCtr] t ∧
      (s.sidebandUp = false → t = s) ∧
      (∀ v, s.sidebandUp = true → v = s.wakeBy .smbus → t = (v.logOp 1 10 0).aosAnswer 1 stOK v.readData)) ∧
  (∀ (smbus : Bool) (s : State), ∃ t : State, exec (.trip smbus) s = .next t ∧ s.OnlyChanges [.tick, .mstate, .dies, .arr, .seq, .mem, .glv, .ledger, .rung, .keys, .stw, .net, .host, .aos, .regs, .nodeId, .out, .freeCtr] t ∧
      ((s.sidebandUp = false → t = s) ∧ (∀ v, s.sidebandUp = true → smbus = true → v = s.wakeBy .smbus → v.fld Adr.rasCtl 1 1 = 0 → t = v.aosAnswer 2 stNotPermitted)) ∧
      ((∀ v, s.sidebandUp = true → smbus = true → v = s.wakeBy .smbus → v.fld Adr.rasCtl 1 1 = 1 → t = ((v.logOp 2 10 0).takeTrip).aosAnswer 2 stOK) ∧ (s.sidebandUp = true → smbus = false → t = (s.logOp 2 10 0).takeTrip))) ∧
  (∀ (smbus : Bool) (kind : Byte) (idx : BitVec 16) (s : State), ∃ t : State, exec (.fence smbus kind idx) s = .next t ∧ s.OnlyChanges [.tick, .mstate, .dies, .arr, .seq, .mem, .glv, .rung, .stw, .net, .host, .aos, .regs, .out, .freeCtr] t ∧
      ((s.sidebandUp = false → t = s) ∧ (∀ v, s.sidebandUp = true → smbus = true → v = s.wakeBy .smbus → v.fld Adr.rasCtl 1 1 = 0 → t = v.aosAnswer 3 stNotPermitted)) ∧
      ((kind = 0 → idx.toNat < 8 → (∀ v, s.sidebandUp = true → smbus = true → v = s.wakeBy .smbus → v.fld Adr.rasCtl 1 1 = 1 → t = (((if v.dieFenced idx.toNat then v else v.arrayFence idx.toNat).logOp 3 0 idx.toNat)).aosAnswer 3 stOK) ∧ (s.sidebandUp = true → smbus = false → t = ((if s.dieFenced idx.toNat then s else s.arrayFence idx.toNat).logOp 3 0 idx.toNat))) ∧
        (kind = 1 → idx.toNat < 8 → (∀ v, s.sidebandUp = true → smbus = true → v = s.wakeBy .smbus → v.fld Adr.rasCtl 1 1 = 1 → t = (((v.fullFence idx.toNat).logOp 3 0 idx.toNat)).aosAnswer 3 stOK) ∧ (s.sidebandUp = true → smbus = false → t = ((s.fullFence idx.toNat).logOp 3 0 idx.toNat))) ∧
        (kind = 3 → idx.toNat < 96 → (∀ v, s.sidebandUp = true → smbus = true → v = s.wakeBy .smbus → v.fld Adr.rasCtl 1 1 = 1 → t = (((v.fenceLink idx.toNat).logOp 3 5 idx.toNat)).aosAnswer 3 stOK) ∧ (s.sidebandUp = true → smbus = false → t = ((s.fenceLink idx.toNat).logOp 3 5 idx.toNat))) ∧
        (kind = 4 → (∀ v, s.sidebandUp = true → smbus = true → v = s.wakeBy .smbus → v.fld Adr.rasCtl 1 1 = 1 → t = (((v.fenceSteward).logOp 3 9 0)).aosAnswer 3 stOK) ∧ (s.sidebandUp = true → smbus = false → t = ((s.fenceSteward).logOp 3 9 0))) ∧
        (kind = 3 → 96 ≤ idx.toNat → (∀ v, s.sidebandUp = true → smbus = true → v = s.wakeBy .smbus → v.fld Adr.rasCtl 1 1 = 1 → t = (v).aosAnswer 3 stBound) ∧ (s.sidebandUp = true → smbus = false → t = s)) ∧
        (kind = 2 → idx.toNat < 64 → (∀ u, u = s.wakeBy .smbus → (u.glove idx.toNat).live = true) → (s.glove idx.toNat).live = true → (∀ v, s.sidebandUp = true → smbus = true → v = s.wakeBy .smbus → v.fld Adr.rasCtl 1 1 = 1 → t = (((v.beginReset idx.toNat 6).onGlv idx.toNat fun x => { x with stuck := true }).logOp 3 7 idx.toNat idx.toNat).aosAnswer 3 stOK) ∧ (s.sidebandUp = true → smbus = false → t = ((s.beginReset idx.toNat 6).onGlv idx.toNat fun x => { x with stuck := true }).logOp 3 7 idx.toNat idx.toNat)) ∧
        (kind = 5 → (∀ v, s.sidebandUp = true → smbus = true → v = s.wakeBy .smbus → v.fld Adr.rasCtl 1 1 = 1 → t = (((v.fenceManager).logOp 3 10 0)).aosAnswer 3 stOK) ∧ (s.sidebandUp = true → smbus = false → t = ((s.fenceManager).logOp 3 10 0))) ∧
        (6 ≤ kind.toNat → (∀ v, s.sidebandUp = true → smbus = true → v = s.wakeBy .smbus → v.fld Adr.rasCtl 1 1 = 1 → t = v.aosInvalid 3) ∧ (s.sidebandUp = true → smbus = false → t = s)))) ∧
  (∀ (smbus : Bool) (slot : Byte) (s : State), ∃ t : State, exec (.erase smbus slot) s = .next t ∧ s.OnlyChanges [.tick, .dies, .arr, .seq, .mem, .glv, .rung, .keys, .stw, .net, .host, .aos, .regs, .out, .freeCtr] t ∧
      ((s.sidebandUp = false → t = s) ∧ (∀ v, s.sidebandUp = true → smbus = true → v = s.wakeBy .smbus → v.fld Adr.rasCtl 1 1 = 0 → t = v.aosAnswer 4 stNotPermitted)) ∧
      ((∀ v, s.sidebandUp = true → smbus = true → v = s.wakeBy .smbus → v.fld Adr.rasCtl 1 1 = 1 → ((v.keys.at slot.toNat).installed = false → t = v.aosAnswer 4 stConflict) ∧ ((v.keys.at slot.toNat).installed = true → t = ((v.eraseKey slot.toNat).logOp 4 11 slot.toNat).aosAnswer 4 stOK)) ∧
        (s.sidebandUp = true → smbus = false → (s.keys.at slot.toNat).installed = true → t = (s.eraseKey slot.toNat).logOp 4 11 slot.toNat))) ∧
  (∀ (smbus : Bool) (cold : Byte) (s : State), ∃ t : State, exec (.reset smbus cold) s = .next t ∧ s.OnlyChanges [.tick, .mstate, .dies, .arr, .seq, .mem, .glv, .ledger, .rung, .keys, .stw, .net, .host, .aos, .regs, .nodeId, .out, .freeCtr] t ∧
      ((s.sidebandUp = false → t = s) ∧ (∀ v, s.sidebandUp = true → smbus = true → v = s.wakeBy .smbus → v.fld Adr.rasCtl 1 1 = 0 → t = v.aosAnswer 5 stNotPermitted)) ∧
      ((∀ v, s.sidebandUp = true → smbus = true → v = s.wakeBy .smbus → v.fld Adr.rasCtl 1 1 = 1 → (1 < cold.toNat → t = v.aosInvalid 5) ∧ (cold.toNat ≤ 1 → t = ((v.logOp 5 10 0).resetCause 8 (cold = 1)).aosAnswer 5 stOK)) ∧
        (s.sidebandUp = true → smbus = false → cold.toNat ≤ 1 → t = (s.logOp 5 10 0).resetCause 8 (cold = 1)))) ∧
  (∀ (s : State), ∃ t : State, exec .aosReport s = .next t ∧ s.OnlyChanges [.tick, .dies, .arr, .seq, .mem, .glv, .rung, .stw, .net, .host, .aos, .regs, .out, .freeCtr] t ∧
      (s.sidebandUp = false → t = s) ∧
      (∀ v, s.sidebandUp = true → v = s.wakeBy .smbus → t = v.sendReport.1.aosAnswer 6 v.sendReport.2)) ∧
  (∀ (s : State), ∃ t : State, exec .aosStewardWatchLapse s = .next t ∧ s.OnlyChanges [.tick, .mstate, .dies, .arr, .seq, .mem, .glv, .rung, .stw, .net, .host, .aos, .regs, .out, .freeCtr] t ∧
      ((s.stw.running = false ∨ s.inA = false ∨ s.sidebandUp = false) → t = s) ∧
      (s.stw.running = true → s.inA = true → s.sidebandUp = true → t = (s.fenceSteward).logOp 3 9 0 ∧ (s.stw.standbyReady = true → s.fenceSteward = s.takeover) ∧ (s.stw.standbyReady = false → s.fenceSteward = s.enterFault 3))) ∧
  (∀ (s : State), ∃ t : State, exec .aosManagerWatchLapse s = .next t ∧ s.OnlyChanges [.tick, .mstate, .dies, .arr, .seq, .mem, .glv, .rung, .stw, .net, .host, .aos, .regs, .out, .freeCtr] t ∧
      ((s.net.role ≠ 1 ∨ s.sidebandUp = false) → t = s) ∧
      (s.net.role = 1 → s.sidebandUp = true → t = (s.leaveDuties).logOp 3 10 0 ∧ s.leaveDuties.net.role = 3 ∧ s.leaveDuties.tick.role = .standby)) ∧
  (∀ (half : Half) (val : Word) (m : BitVec 448) (s : State), ∃ t : State, exec (.secActlGo half val m) s = .next t ∧ s.OnlyChanges [.aos, .regs] t ∧
      (half = .hi → t = s) ∧
      (half ≠ .hi → (val.bit 0 = false ∨ s.aos.abusy = true ∨ s.aos.trngOk = false) → t = s.setFld Adr.secActl 8 8 (val.field 8 8)) ∧
      (half ≠ .hi → val.bit 0 = true → s.aos.abusy = false → s.aos.trngOk = true → t.aos.abusy = true ∧ t.aos.aready = false ∧ t.aos.repPolicy = val.field 8 8 ∧ t.aos.repNonce = wordBytes ((List.range 8).map fun w => s.reg (Adr.secAnonce w)) ∧ t.regs = (s.setFld Adr.secActl 8 8 (val.field 8 8)).regs)) ∧
  (∀ (s : State), ∃ t : State, exec .attestationReportReady s = .next t ∧ s.OnlyChanges [.aos] t ∧
      (s.aos.abusy = false → t = s) ∧
      (s.aos.abusy = true → t.aos.abusy = false ∧ t.aos.aready = true ∧ t.aos.report = s.buildReport)) ∧
  (∀ (s : State), ∃ t : State, exec .trngHealthFailure s = .next t ∧ s.OnlyChanges [.aos, .regs] t ∧
      (t.aos.trngOk = false ∧ t.flag Adr.secEvt 2 = true)) ∧
  (∀ (s : State), ∃ t : State, exec .trngRecover s = .next t ∧ s.OnlyChanges [.aos] t ∧
      ((s.mstate = .off ∨ s.mstate = .reset) → t = s) ∧
      (s.mstate ≠ .off → s.mstate ≠ .reset → t.aos.trngOk = true)) ∧
  (∀ (half : Half) (val : Word) (s : State), ∃ t : State, exec (.rasDrainWrite half val) s = .next t ∧ s.OnlyChanges [.mstate, .regs] t ∧
      (∀ v : Word, v = mergeHalf half (s.reg Adr.rasCtl) val → (s.fld Adr.rasCtl 0 1 = 0 → v.bit 0 = true → (s.mstate = .service ∨ s.mstate = .degraded) → t.mstate = .draining) ∧ ((s.mstate ≠ .service ∧ s.mstate ≠ .degraded ∧ s.mstate ≠ .draining) → t.mstate = s.mstate ∧
        t.fld Adr.rasCtl 0 1 = v.field 0 1 ∧ t.fld Adr.rasCtl 2 1 = max (s.fld Adr.rasCtl 2 1) (v.field 2 1) ∧ t.fld Adr.rasCtl 1 1 = (if s.fld Adr.rasCtl 2 1 = 1 then s.fld Adr.rasCtl 1 1 else v.field 1 1))))

/-- A reset accepted asserts internal reset, drives RESET_N low, records its cause (of the causes of one reference cycle a cold one before a warm one,
then the lowest code), whether it is cold and whether another was asserted, and ends the gloves; a cold one restarts the tick and loses the near tier
and the keys, a warm one keeps them. POWER_ON is cold and accepted only from OFF. EXT is cold after 1,000 rc; a shorter pulse is only counted; while
the AOS drives the pin it is not seen. RAIL is cold, once the rails are watched. A sensor at its limit trips the module: THERMTRIP_N and RESET_N go
low and the near and wide tiers are lost; the trip's end is a cold reset of cause 4. The first loss of REFCLK is a warm reset of cause 5; a window of
3,072 to 5,120 cycles counts towards its return. The watchdog is a warm reset of cause 7; AOS_RSTREQ with CONFIRM 0xA5 one of cause 8. VAON_LOSS turns
the module off. Internal reset ends when 100,000 reference cycles have been counted since the latest cause, no cause persists and REFCLK has been good
for 16 windows; the sample of RESET_N then starts bring-up, or is an external reset. (16_bringup_reset_clocks.md, 17_reliability_service.md, R550,
R551, R552, R553, R554, R563, R574, R580, R600) -/
def Obligations.ResetCausesAndRelease : Prop :=
  (∀ (s : State), ∃ t : State, exec .powerOn s = .next t ∧ s.OnlyChanges [.tick, .mstate, .dies, .arr, .seq, .mem, .glv, .ledger, .rung, .keys, .stw, .net, .host, .aos, .regs, .nodeId, .out, .freeCtr] t ∧
      (s.mstate ≠ .off → t = s) ∧
      (s.mstate = .off → ∃ u : State, u = { s with aos := { s.aos with asserted := false, tripped := false, otpLoading := false } } ∧ u.ResetTaken 1 true t)) ∧
  (∀ (lowRc : Nat) (s : State), ∃ t : State, exec (.ext lowRc) s = .next t ∧ s.OnlyChanges [.tick, .mstate, .dies, .arr, .seq, .mem, .glv, .ledger, .rung, .keys, .stw, .net, .host, .aos, .regs, .nodeId, .out, .freeCtr] t ∧
      (s.mstate = .off ∨ s.aos.driven = true → t = s) ∧
      (s.mstate ≠ .off → s.aos.driven = false → (lowRc < 1000 → t = s.raise Adr.aosEvt 0) ∧ (1000 ≤ lowRc → s.ResetTaken 2 true t))) ∧
  (∀ (idx : Nat) (s : State), ∃ t : State, exec (.rail idx) s = .next t ∧ s.OnlyChanges [.tick, .mstate, .dies, .arr, .seq, .mem, .glv, .ledger, .rung, .keys, .stw, .net, .host, .aos, .regs, .nodeId, .out, .freeCtr] t ∧
      (s.aos.watched = false ∨ s.aos.tripped = true → t = s) ∧
      (s.aos.watched = true → s.aos.tripped = false → s.mstate ≠ .off → t.mstate = .reset ∧ t.aos.asserted = true ∧ t.aos.railBad.contains idx = true ∧ t.fld Adr.aosRstcause 0 4 = (s.causeKept 3 true).1)) ∧
  (∀ (s : State), ∃ t : State, exec .thermtrip s = .next t ∧ s.OnlyChanges [.tick, .mstate, .dies, .arr, .seq, .mem, .glv, .ledger, .rung, .keys, .stw, .net, .host, .aos, .regs, .nodeId, .out, .freeCtr] t ∧
      (s.aos.tripped = false → t = s) ∧
      (s.aos.tripped = true → ∃ u : State, u.aos = { s.aos with tripped := false, asserted := false, railBad := [] } ∧ u.out = .pin "THERMTRIP_N" true :: s.out ∧ u.ResetTaken 4 true t)) ∧
  (∀ (s : State), ∃ t : State, exec .thermalTrip s = .next t ∧ s.OnlyChanges [.tick, .mstate, .dies, .arr, .seq, .mem, .glv, .ledger, .rung, .keys, .stw, .net, .host, .aos, .regs, .nodeId, .out, .freeCtr] t ∧
      (s.aos.tripped = true ∨ s.mstate = .off → t = s) ∧
      (s.aos.tripped = false → s.mstate ≠ .off → t.mstate = .reset ∧ t.aos.tripped = true ∧ t.aos.asserted = true ∧ t.aos.driven = true ∧ t.mem.near = [] ∧ t.mem.wide = [] ∧ t.glv = [] ∧ t.out.head? = some (.pin "RESET_N" false) ∧ t.out.tail.head? = some (.pin "THERMTRIP_N" false))) ∧
  (∀ (s : State), ∃ t : State, exec .refclkLoss s = .next t ∧ s.OnlyChanges [.tick, .mstate, .dies, .arr, .seq, .mem, .glv, .ledger, .rung, .keys, .stw, .net, .host, .aos, .regs, .nodeId, .out, .freeCtr] t ∧
      (s.tick.refclk = false → t.tick = s.tick ∧ t.aos.windows = 0) ∧
      (s.tick.refclk = true → s.mstate ≠ .off → ∃ u : State, s.ResetTaken 5 false u ∧ t = { u with tick := { u.tick with refclk := false } })) ∧
  (∀ (count : Nat) (s : State), ∃ t : State, exec (.refclkWindow count) s = .next t ∧ s.OnlyChanges [.tick, .mstate, .dies, .arr, .seq, .mem, .glv, .ledger, .rung, .keys, .stw, .net, .host, .aos, .regs, .nodeId, .out, .freeCtr] t ∧
      (s.mstate = .off → t = s) ∧
      (s.mstate ≠ .off → 3072 ≤ count → count ≤ 5120 → t.aos.windows = s.aos.windows + 1 ∧ t.tick.refclk = true ∧ (s.tick.refclk = true → t.tick = s.tick) ∧ (s.tick.refclk = false → t.tick.own = .acquiring)) ∧
      (s.mstate ≠ .off → s.tick.refclk = true → (count < 3072 ∨ 5120 < count) → t.tick.refclk = false ∧ t.mstate = .reset ∧ t.aos.asserted = true) ∧
      (s.mstate ≠ .off → count < 65536 → t.fld Adr.aosClkstat 16 16 = count)) ∧
  (∀ (s : State), ∃ t : State, exec .watchdog s = .next t ∧ s.OnlyChanges [.tick, .mstate, .dies, .arr, .seq, .mem, .glv, .ledger, .rung, .keys, .stw, .net, .host, .aos, .regs, .nodeId, .out, .freeCtr] t ∧
      (s.aos.asserted = true ∨ s.aos.stage = 0 → t = s) ∧
      (s.aos.asserted = false → s.aos.stage ≠ 0 → s.mstate ≠ .off → s.ResetTaken 7 false t)) ∧
  (∀ (half : Half) (val : Word) (s : State), ∃ t : State, exec (.aosRstreqWrite half val) s = .next t ∧ s.OnlyChanges [.tick, .mstate, .dies, .arr, .seq, .mem, .glv, .ledger, .rung, .keys, .stw, .net, .host, .aos, .regs, .nodeId, .out, .freeCtr] t ∧
      (half = .hi → t = s) ∧
      (half = .whole → (val.field 8 8 ≠ 0xA5 ∨ val.field 1 7 ≠ 0 ∨ val.field 16 48 ≠ 0 → t = s) ∧ (val.field 8 8 = 0xA5 → val.field 1 7 = 0 → val.field 16 48 = 0 → s.mstate ≠ .off → s.ResetTaken 8 (val.bit 0) t))) ∧
  (∀ (s : State), ∃ t : State, exec .vaonLoss s = .next t ∧ s.OnlyChanges [.mstate] t ∧
      (t = { s with mstate := .off })) ∧
  (∀ (s : State), ∃ t : State, exec .resetStretchEnd s = .next t ∧ s.OnlyChanges [.aos, .out] t ∧
      ((s.mstate ≠ .reset ∨ s.aos.asserted = false ∨ s.aos.tripped = true ∨ s.tick.refclk = false ∨ s.aos.windows < 16 ∨ s.aos.causeAge < 100000) → t = s) ∧
      (s.mstate = .reset → s.aos.asserted = true → s.aos.driven = true → s.aos.tripped = false → s.tick.refclk = true → 16 ≤ s.aos.windows → 100000 ≤ s.aos.causeAge → t.mstate = .reset ∧ t.aos.asserted = false ∧ t.aos.driven = false ∧ t.aos.sampling = true ∧ t.aos.profile = (if s.aos.cold then s.aos.pins else s.aos.profile) ∧ t.out = .pin "RESET_N" true :: s.out)) ∧
  (∀ (high : Bool) (s : State), ∃ t : State, exec (.resetNSample high) s = .next t ∧ s.OnlyChanges [.tick, .mstate, .dies, .arr, .seq, .mem, .glv, .ledger, .rung, .keys, .stw, .net, .host, .aos, .regs, .nodeId, .out, .freeCtr] t ∧
      (s.aos.sampling = false → t = s) ∧
      (s.aos.sampling = true → (high = false → s.ResetTaken 2 true t) ∧ (high = true → t.mstate = .bringup ∧ t.aos.sampling = false ∧ t.aos.stage = 1 ∧ t.aos.cold = false ∧ (s.aos.otpLoading = true → t.flag Adr.aosEvt 2 = true))))

/-- The newest valid OTP generation is chosen with generation 0 valid, else AOS_OTPSTAT.FAIL is set. IOD1's AOS takes over a bring-up that has not
reached stage 3. The firmware start loads the profile and ends in stage 3, or in a boot failure. Good rails lead to stage 4, bad ones to a cold reset
of cause 3. A PLL is stable after two good windows in a row, and fails at once in service. Control firmware starts once every PLL is judged, sets the
steward running and each die to self-test. A self-test with no mesh fences the die; another is recorded as tested and stack training begins, or is
done. A die whose stacks and the wide tier are ready is released and the module leaves BRINGUP. A pending profile takes effect at its tick. During an
activation the report of the part in progress restarts the next or rotates the images; its timeout ends the activation in failure. A burn that
succeeds makes its generation valid; one that fails leaves it used. (16_bringup_reset_clocks.md, 17_reliability_service.md, R558, R559, R562, R569,
R571, R572, R594, R596, R597) -/
def Obligations.BringUpStagesAndActivation : Prop :=
  (∀ (s : State), ∃ t : State, exec .otpGenerationSelect s = .next t ∧ s.OnlyChanges [.arr, .aos, .regs] t ∧
      (s.mstate ≠ .bringup ∨ s.aos.stage ≠ 1 ∨ s.aos.bootFail = true → t = s) ∧
      (s.mstate = .bringup → s.aos.stage = 1 → s.aos.bootFail = false → otpValid (s.aos.otp.getD 0 default) = false → t.fld Adr.aosOtpstat 10 1 = 1 ∧ t.aos.stage = 1 ∧ t.aos.otpLoading = false) ∧
      (∀ g, s.mstate = .bringup → s.aos.stage = 1 → s.aos.bootFail = false → otpValid (s.aos.otp.getD 0 default) = true → g < 4 → otpValid (s.aos.otp.getD g default) = true → (∀ h, g < h → h < 4 → otpValid (s.aos.otp.getD h default) = false) → t.aos.gen = g ∧ t.aos.stage = 2 ∧ t.aos.profArea = g ∧ t.aos.otpLoading = false)) ∧
  (∀ (s : State), ∃ t : State, exec .aosBringupTakeover s = .next t ∧ s.OnlyChanges [.aos] t ∧
      (s.mstate = .bringup → s.aos.stage < 3 → s.aos.lead = 0 → t = { s with aos := { s.aos with lead := 1 } }) ∧
      (s.mstate ≠ .bringup ∨ 3 ≤ s.aos.stage ∨ s.aos.lead ≠ 0 → t = s)) ∧
  (∀ (s : State), ∃ t : State, exec .aosFirmwareStart s = .next t ∧ s.OnlyChanges [.stw, .aos, .regs] t ∧
      (s.mstate ≠ .bringup ∨ s.aos.stage ≠ 2 ∨ s.aos.bootFail = true → t = s) ∧
      (s.mstate = .bringup → s.aos.stage = 2 → s.aos.bootFail = false → ∀ u v, (∀ p, s.aos.pend = some (p, none) → u = { s with aos := { s.aos with profile := p, pend := none } }) → ((∀ p, s.aos.pend ≠ some (p, none)) → u = s) → v = u.loadProfile.startStage 2 →
      (v.aos.bootFail = true → t = v) ∧ (v.aos.bootFail = false → t = v.onAos (fun a => { a with stage := 3, aos1Ready := a.lead = 0 }) ∧ t.aos.stage = 3))) ∧
  (∀ (ok : Bool) (s : State), ∃ t : State, exec (.railCheck ok) s = .next t ∧ s.OnlyChanges [.tick, .mstate, .dies, .arr, .seq, .mem, .glv, .ledger, .rung, .keys, .stw, .net, .host, .aos, .regs, .nodeId, .out, .freeCtr] t ∧
      ((s.mstate ≠ .bringup ∧ s.aos.fromS4 = none) ∨ s.aos.stage ≠ 3 → t = s) ∧
      ((s.mstate = .bringup ∨ s.aos.fromS4.isSome = true) → s.aos.stage = 3 → (ok = true → t = { s with aos := { s.aos with stage := 4, watched := true } }) ∧ (ok = false → s.ResetTaken 3 true t))) ∧
  (∀ (p : PllPart) (ok : Bool) (s : State), ∃ t : State, exec (.pllWindow p ok) s = .next t ∧ s.OnlyChanges [.tick, .mstate, .dies, .arr, .seq, .mem, .glv, .ledger, .rung, .keys, .stw, .net, .host, .aos, .regs, .nodeId, .out, .freeCtr] t ∧
      (s.mstate = .off ∨ s.mstate = .reset ∨ s.aos.stage < 3 → t = s) ∧
      (s.mstate ≠ .off → s.mstate ≠ .reset → 3 ≤ s.aos.stage → (pllParts s.variant).contains p = true → s.aos.pllBad.contains p = false →
      (s.aos.pllGood.contains p = false → ok = true → (s.aos.pllOnce.contains p = true → t.aos.pllGood = s.aos.pllGood ++ [p]) ∧ (s.aos.pllOnce.contains p = false → t.aos.pllOnce = s.aos.pllOnce ++ [p] ∧ t.aos.pllGood = s.aos.pllGood)) ∧
      (s.aos.pllGood.contains p = false → ok = false → ∃ v : State, v.flag Adr.aosEvt 1 = true ∧ v.aos.relocks = s.aos.relocks ++ [p] ∧ v.aos.pllGood = s.aos.pllGood ∧ ((v.aos.relocks.filter (· = p)).length ≤ 3 → t = v) ∧ (3 < (v.aos.relocks.filter (· = p)).length → t = (v.onAos fun a => { a with pllBad := a.pllBad ++ [p] }).failPll p false)) ∧
      (s.aos.pllGood.contains p = true → (ok = true → t = s) ∧ (ok = false → ∃ v : State, t = v.failPll p true ∧ v.flag Adr.aosEvt 1 = true ∧ v.aos.pllBad = s.aos.pllBad ++ [p])))) ∧
  (∀ (s : State), ∃ t : State, exec .controlFirmwareStart s = .next t ∧ s.OnlyChanges [.dies, .stw, .net, .host, .aos, .regs, .freeCtr] t ∧
      (s.aos.stage ≠ 4 ∨ s.pllJudged = false → t = s) ∧
      (s.mstate = .bringup → s.aos.stage = 4 → s.pllJudged = true → t.aos.bootFail = true ∨ (t.aos.stage = 5 ∧ t.stw.running = true ∧ ∀ k ∈ State.fittedDies, s.dieFenced k = false → (t.die k).bring = if s.aos.fromS4.isSome then 2 else 1))) ∧
  (∀ (die : Nat) (x : SelfTest) (s : State), ∃ t : State, exec (.selfTestComplete die x) s = .next t ∧ s.OnlyChanges [.mstate, .dies, .arr, .seq, .mem, .glv, .stw, .net, .host, .aos, .regs, .out, .freeCtr] t ∧
      ((s.die die).bring ≠ 1 ∨ s.dieFenced die = true → t = s) ∧
      ((s.die die).bring = 1 → s.dieFenced die = false → (x.meshOk = false → t = (s.errClass 3 0 die 0 0 0).fullFence die) ∧ (x.meshOk = true → t.aos.selfTested.contains die = true ∧ ((t.die die).bring = 2 ∨ (t.die die).bring = 3)))) ∧
  (∀ (die : Nat) (s : State), ∃ t : State, exec (.dieRelease die) s = .next t ∧ s.OnlyChanges [.mstate, .dies, .arr, .mem, .stw, .aos, .regs, .out, .freeCtr] t ∧
      (s.stacksReady die = false ∨ s.aos.wideTrained = false ∨ s.dieFenced die = true → t = s) ∧
      (((s.die die).bring = 2 ∨ (s.die die).bring = 3) → s.stacksReady die = true → s.aos.wideTrained = true → s.dieFenced die = false → s.aos.selfTested.contains die = true → (t.die die).bring = 4 ∧ t.mstate ≠ .bringup)) ∧
  (∀ (s : State), ∃ t : State, exec .profileChange s = .next t ∧ s.OnlyChanges [.tick, .mem, .stw, .net, .aos, .regs] t ∧
      ((∀ p T, s.aos.pend = some (p, some T) → s.reached T 0 = false) → t = s) ∧
      (∀ p T, s.aos.pend = some (p, some T) → s.reached T 0 = true → t = s.changeProfile p ∧ t.aos.profile = p ∧ t.aos.pend = none)) ∧
  (∀ (part : Nat) (s : State), ∃ t : State, exec (.partReadyReport part) s = .next t ∧ s.OnlyChanges [.stw, .host, .aos, .regs, .out] t ∧
      (s.aos.act = none → t = s) ∧
      (∀ g cur left, s.aos.act = some (g, left, cur) → (part ≠ cur → t = s) ∧ (part = cur → s.stw.swapLeft = [] → g ≠ 4 → (left = [] → t = s.rotate g) ∧ (∀ p rest, left = p :: rest → t = s.restartPart g p rest)) ∧
      (∀ v : State, part = cur → s.stw.swapLeft = [] → g = 4 → v = { s with stw := { s.stw with standbyReady := true } } → (left = [] → t = v.rotate g) ∧ (∀ p rest, left = p :: rest → t = v.restartPart g p rest)))) ∧
  (∀ (part : Nat) (s : State), ∃ t : State, exec (.activationReadyTimeout part) s = .next t ∧ s.OnlyChanges [.aos, .regs] t ∧
      (s.aos.act = none → t = s) ∧
      (∀ g cur left, s.aos.act = some (g, left, cur) → (part ≠ cur → t = s) ∧ (part = cur → s.stw.swapLeft = [] → t.aos.act = none ∧ t.aos.banks = s.aos.banks ∧ t = (((s.onAos fun a => { a with act := none }).setUpd 5 g cur).raise Adr.rasEvt 4).logUpd g))) ∧
  (∀ (ok : Bool) (s : State), ∃ t : State, exec (.otpBurnComplete ok) s = .next t ∧ s.OnlyChanges [.aos, .regs] t ∧
      (s.aos.burn = none → t = s) ∧
      (∀ g x, s.aos.burn = some (g, x) → t.aos.burn = none ∧ (ok = true → (t.aos.otp.getD g default).valid = true ∧ t.aos.profArea = g) ∧ (ok = false → t.aos.otp = s.aos.otp ∧ t.aos.profArea = s.aos.profArea)))
end

