-- ==== Sys2Proof/Laws/Sparse.lean ====
section
/-! SUPPORT. The laws of the sparse tables: a read after a write, and that every operation keeps the canonical form. -/

namespace Sys2Proof

variable {α : Type}

/-! Reads after writes: they need no canonical form. -/

theorem SMap.look_filter_same (d : Nat → α) (m : SMap α) (k : Nat) :
    SMap.look d (List.filter (fun e => e.1 != k) m) k = d k := by
  induction m with
  | nil => rfl
  | cons e r ih =>
    by_cases h : e.1 = k
    · simpa [List.filter_cons, h] using ih
    · simpa [List.filter_cons, h, SMap.look] using ih

theorem SMap.look_filter_other (d : Nat → α) (m : SMap α) {k j : Nat} (hj : j ≠ k) :
    SMap.look d (List.filter (fun e => e.1 != k) m) j = SMap.look d m j := by
  induction m with
  | nil => rfl
  | cons e r ih =>
    by_cases h : e.1 = k
    · have hne : ¬ k = j := fun he => hj he.symm
      simpa [List.filter_cons, h, SMap.look, hne] using ih
    · by_cases he : e.1 = j
      · have h2 : (e.1 != k) = true := by simpa using h
        rw [List.filter_cons, if_pos h2]
        simp [SMap.look, he]
      · simpa [List.filter_cons, h, SMap.look, he] using ih

theorem SMap.look_place_same (d : Nat → α) (m : SMap α) (k : Nat) (v : α) (hm : ∀ e ∈ m, e.1 ≠ k) :
    SMap.look d (SMap.place k v m) k = v := by
  induction m with
  | nil => simp [SMap.place, SMap.look]
  | cons e r ih =>
    have he : e.1 ≠ k := hm e (by simp)
    by_cases h : k < e.1
    · simp [SMap.place, SMap.look, h]
    · simpa [SMap.place, SMap.look, h, he] using ih fun x hx => hm x (by simp [hx])

theorem SMap.look_place_other (d : Nat → α) (m : SMap α) {k j : Nat} (v : α) (hj : j ≠ k) :
    SMap.look d (SMap.place k v m) j = SMap.look d m j := by
  induction m with
  | nil => simp [SMap.place, SMap.look, hj.symm]
  | cons e r ih =>
    by_cases h : k < e.1
    · simp [SMap.place, SMap.look, h, hj.symm]
    · by_cases he : e.1 = j
      · rw [SMap.place, if_neg h, SMap.look, SMap.look, if_pos he, if_pos he]
      · simpa [SMap.place, SMap.look, h, he] using ih

theorem SMap.look_store_same [DecidableEq α] (d : Nat → α) (m : SMap α) (k : Nat) (v : α) :
    SMap.look d (SMap.store d m k v) k = v := by
  unfold SMap.store
  by_cases hv : v = d k
  · simpa [hv] using SMap.look_filter_same d m k
  · simpa [hv] using SMap.look_place_same d _ k v (by simp)

theorem SMap.look_store_other [DecidableEq α] (d : Nat → α) (m : SMap α) (k j : Nat) (v : α)
    (hj : j ≠ k) : SMap.look d (SMap.store d m k v) j = SMap.look d m j := by
  unfold SMap.store
  by_cases hv : v = d k
  · simpa [hv] using SMap.look_filter_other d m hj
  · simpa [hv] using (SMap.look_place_other d _ v hj).trans (SMap.look_filter_other d m hj)

/-! The canonical form. -/

theorem SMap.mem_place {m : SMap α} {k : Nat} {v : α} {p : Nat × α} (hp : p ∈ SMap.place k v m) :
    p = (k, v) ∨ p ∈ m := by
  induction m with
  | nil => simpa [SMap.place] using hp
  | cons e r ih =>
    by_cases h : k < e.1
    · simpa [SMap.place, h] using hp
    · simp only [SMap.place, h, if_false, List.mem_cons] at hp
      rcases hp with rfl | hp
      · simp
      · rcases ih hp with h1 | h1 <;> simp [h1]

theorem SMap.Wf.store [DecidableEq α] {d : Nat → α} {m : SMap α} (h : SMap.Wf d m) (k : Nat) (v : α) :
    SMap.Wf d (SMap.store d m k v) := by
  have hf : SMap.Wf d (List.filter (fun e => e.1 != k) m) :=
    ⟨h.1.filter _, fun p hp => h.2 p (List.mem_filter.mp hp).1⟩
  have hk : ∀ e ∈ List.filter (fun e : Nat × α => e.1 != k) m, e.1 ≠ k := by simp
  unfold SMap.store
  by_cases hv : v = d k
  · simpa [hv] using hf
  · simp only [hv, if_false]
    refine ⟨?_, fun p hp => ?_⟩
    · have h1 := hf.1
      clear hf
      generalize List.filter (fun e : Nat × α => e.1 != k) m = l at h1 hk
      induction l with
      | nil => simp [SMap.place]
      | cons e r ih =>
        rw [List.pairwise_cons] at h1
        by_cases hlt : k < e.1
        · simp only [SMap.place, hlt, if_true, List.pairwise_cons, List.mem_cons]
          refine ⟨fun x hx => ?_, h1⟩
          rcases hx with rfl | hx
          · exact hlt
          · exact Nat.lt_trans hlt (h1.1 x hx)
        · simp only [SMap.place, hlt, if_false, List.pairwise_cons]
          refine ⟨fun x hx => ?_, ih h1.2 fun x hx => hk x (by simp [hx])⟩
          rcases SMap.mem_place hx with rfl | hx
          · have := hk e (by simp)
            show e.1 < k
            omega
          · exact h1.1 x hx
    · rcases SMap.mem_place hp with rfl | hp
      · exact hv
      · exact hf.2 p hp

theorem SMap.Canon.put [DecidableEq α] [Inhabited α] {m : SMap α} (h : m.Canon) (k : Nat) (v : α) :
    (m.put k v).Canon := SMap.Wf.store h k v

theorem SMap.Canon.upd [DecidableEq α] [Inhabited α] {m : SMap α} (h : m.Canon) (k : Nat) (f : α → α) :
    (m.upd k f).Canon := h.put k _

theorem SMap.Canon.putRow [DecidableEq α] [Inhabited α] {m : SMap α} (h : m.Canon) (k : Nat) (l : List α) :
    (m.putRow k l).Canon := by
  induction l generalizing m k with
  | nil => exact h
  | cons v r ih => exact ih (h.put k v) (k + 1)

theorem SMap.Canon.filter [Inhabited α] {m : SMap α} (h : m.Canon) (f : Nat × α → Bool) :
    SMap.Canon (List.filter f m) :=
  ⟨h.1.filter f, fun p hp => h.2 p ((List.mem_filter.mp hp).1)⟩

theorem SMap.Canon.clear [Inhabited α] {m : SMap α} (h : m.Canon) (lo n : Nat) : (m.clear lo n).Canon :=
  h.filter _

theorem SMap.Canon.graft [DecidableEq α] [Inhabited α] {m : SMap α} (h : m.Canon) (src : SMap α) (a b : Nat) :
    (m.graft src a b).Canon := by
  unfold SMap.graft
  induction src generalizing m with
  | nil => exact h
  | cons p r ih => exact ih (h.put _ _)

theorem SMap.Canon.copyIn [DecidableEq α] [Inhabited α] {m : SMap α} (h : m.Canon) (t : SMap α) (a b n : Nat) :
    (m.copyIn t a b n).Canon := (h.clear b n).graft _ a b

theorem SMap.Canon.mapV [DecidableEq α] [Inhabited α] {m : SMap α} (h : m.Canon) (f : Nat → α → α) :
    (m.mapV f).Canon := by
  refine ⟨?_, fun p hp => ?_⟩
  · refine List.Pairwise.filter _ ?_
    rw [List.pairwise_map]
    exact h.1
  · simpa using (List.mem_filter.mp hp).2

@[simp] theorem SMap.at_put_same [DecidableEq α] [Inhabited α] (m : SMap α) (k : Nat) (v : α) :
    (m.put k v).at k = v := SMap.look_store_same _ m k v

theorem SMap.at_put_other [DecidableEq α] [Inhabited α] (m : SMap α) {k j : Nat} (v : α) (hj : j ≠ k) :
    (m.put k v).at j = m.at j := SMap.look_store_other _ m k j v hj

@[simp] theorem SMap.at_upd_same [DecidableEq α] [Inhabited α] (m : SMap α) (k : Nat) (f : α → α) :
    (m.upd k f).at k = f (m.at k) := SMap.at_put_same m k _

theorem SMap.at_upd_other [DecidableEq α] [Inhabited α] (m : SMap α) {k j : Nat} (f : α → α) (hj : j ≠ k) :
    (m.upd k f).at j = m.at j := SMap.at_put_other m _ hj

/-- What a row of entries written at `k` leaves to read: its entries there, and the old ones elsewhere. -/
theorem SMap.at_putRow [DecidableEq α] [Inhabited α] (m : SMap α) (k : Nat) (l : List α) (j : Nat) :
    (m.putRow k l).at j = if k ≤ j ∧ j < k + l.length then l.getD (j - k) default else m.at j := by
  induction l generalizing m k with
  | nil => rw [SMap.putRow, if_neg (by rw [List.length_nil]; omega)]
  | cons v r ih =>
    rw [SMap.putRow, ih]
    by_cases h : j = k
    · subst h
      rw [if_neg (by omega), if_pos (by simp), Nat.sub_self]
      simp
    · rw [SMap.at_put_other _ _ h]
      by_cases h2 : k + 1 ≤ j ∧ j < k + 1 + r.length
      · rw [if_pos h2, if_pos (by simp; omega), show j - k = (j - (k + 1)) + 1 by omega]
        simp
      · rw [if_neg h2, if_neg (by simp; omega)]

end Sys2Proof
end

