-- ==== Sys2Proof/Laws/State.lean ====
section
/-! SUPPORT. What each update of the state leaves, field by field, and what it writes. -/

set_option Elab.async false

namespace Sys2Proof.Machine.State

@[simp] theorem setReg_tick (s : State) (a : Nat) (v : Word) : (s.setReg a v).tick = s.tick := rfl
@[simp] theorem setReg_variant (s : State) (a : Nat) (v : Word) : (s.setReg a v).variant = s.variant := rfl
@[simp] theorem setReg_mstate (s : State) (a : Nat) (v : Word) : (s.setReg a v).mstate = s.mstate := rfl
@[simp] theorem setReg_dies (s : State) (a : Nat) (v : Word) : (s.setReg a v).dies = s.dies := rfl
@[simp] theorem setReg_arr (s : State) (a : Nat) (v : Word) : (s.setReg a v).arr = s.arr := rfl
@[simp] theorem setReg_seq (s : State) (a : Nat) (v : Word) : (s.setReg a v).seq = s.seq := rfl
@[simp] theorem setReg_mem (s : State) (a : Nat) (v : Word) : (s.setReg a v).mem = s.mem := rfl
@[simp] theorem setReg_glv (s : State) (a : Nat) (v : Word) : (s.setReg a v).glv = s.glv := rfl
@[simp] theorem setReg_ledger (s : State) (a : Nat) (v : Word) : (s.setReg a v).ledger = s.ledger := rfl
@[simp] theorem setReg_rung (s : State) (a : Nat) (v : Word) : (s.setReg a v).rung = s.rung := rfl
@[simp] theorem setReg_keys (s : State) (a : Nat) (v : Word) : (s.setReg a v).keys = s.keys := rfl
@[simp] theorem setReg_stw (s : State) (a : Nat) (v : Word) : (s.setReg a v).stw = s.stw := rfl
@[simp] theorem setReg_net (s : State) (a : Nat) (v : Word) : (s.setReg a v).net = s.net := rfl
@[simp] theorem setReg_host (s : State) (a : Nat) (v : Word) : (s.setReg a v).host = s.host := rfl
@[simp] theorem setReg_aos (s : State) (a : Nat) (v : Word) : (s.setReg a v).aos = s.aos := rfl
@[simp] theorem setReg_nodeId (s : State) (a : Nat) (v : Word) : (s.setReg a v).nodeId = s.nodeId := rfl
@[simp] theorem setReg_out (s : State) (a : Nat) (v : Word) : (s.setReg a v).out = s.out := rfl
@[simp] theorem setReg_freeCtr (s : State) (a : Nat) (v : Word) : (s.setReg a v).freeCtr = s.freeCtr := rfl
@[simp] theorem setReg_pending (s : State) (a : Nat) (v : Word) : (s.setReg a v).pending = s.pending := rfl
@[simp] theorem setReg_regs (s : State) (a : Nat) (v : Word) : (s.setReg a v).regs = SMap.store regReset s.regs a v := rfl
@[simp] theorem setFld_tick (s : State) (a : Nat) (lo : Nat) (w : Nat) (v : Nat) : (s.setFld a lo w v).tick = s.tick := rfl
@[simp] theorem setFld_variant (s : State) (a : Nat) (lo : Nat) (w : Nat) (v : Nat) : (s.setFld a lo w v).variant = s.variant := rfl
@[simp] theorem setFld_mstate (s : State) (a : Nat) (lo : Nat) (w : Nat) (v : Nat) : (s.setFld a lo w v).mstate = s.mstate := rfl
@[simp] theorem setFld_dies (s : State) (a : Nat) (lo : Nat) (w : Nat) (v : Nat) : (s.setFld a lo w v).dies = s.dies := rfl
@[simp] theorem setFld_arr (s : State) (a : Nat) (lo : Nat) (w : Nat) (v : Nat) : (s.setFld a lo w v).arr = s.arr := rfl
@[simp] theorem setFld_seq (s : State) (a : Nat) (lo : Nat) (w : Nat) (v : Nat) : (s.setFld a lo w v).seq = s.seq := rfl
@[simp] theorem setFld_mem (s : State) (a : Nat) (lo : Nat) (w : Nat) (v : Nat) : (s.setFld a lo w v).mem = s.mem := rfl
@[simp] theorem setFld_glv (s : State) (a : Nat) (lo : Nat) (w : Nat) (v : Nat) : (s.setFld a lo w v).glv = s.glv := rfl
@[simp] theorem setFld_ledger (s : State) (a : Nat) (lo : Nat) (w : Nat) (v : Nat) : (s.setFld a lo w v).ledger = s.ledger := rfl
@[simp] theorem setFld_rung (s : State) (a : Nat) (lo : Nat) (w : Nat) (v : Nat) : (s.setFld a lo w v).rung = s.rung := rfl
@[simp] theorem setFld_keys (s : State) (a : Nat) (lo : Nat) (w : Nat) (v : Nat) : (s.setFld a lo w v).keys = s.keys := rfl
@[simp] theorem setFld_stw (s : State) (a : Nat) (lo : Nat) (w : Nat) (v : Nat) : (s.setFld a lo w v).stw = s.stw := rfl
@[simp] theorem setFld_net (s : State) (a : Nat) (lo : Nat) (w : Nat) (v : Nat) : (s.setFld a lo w v).net = s.net := rfl
@[simp] theorem setFld_host (s : State) (a : Nat) (lo : Nat) (w : Nat) (v : Nat) : (s.setFld a lo w v).host = s.host := rfl
@[simp] theorem setFld_aos (s : State) (a : Nat) (lo : Nat) (w : Nat) (v : Nat) : (s.setFld a lo w v).aos = s.aos := rfl
@[simp] theorem setFld_nodeId (s : State) (a : Nat) (lo : Nat) (w : Nat) (v : Nat) : (s.setFld a lo w v).nodeId = s.nodeId := rfl
@[simp] theorem setFld_out (s : State) (a : Nat) (lo : Nat) (w : Nat) (v : Nat) : (s.setFld a lo w v).out = s.out := rfl
@[simp] theorem setFld_freeCtr (s : State) (a : Nat) (lo : Nat) (w : Nat) (v : Nat) : (s.setFld a lo w v).freeCtr = s.freeCtr := rfl
@[simp] theorem setFld_pending (s : State) (a : Nat) (lo : Nat) (w : Nat) (v : Nat) : (s.setFld a lo w v).pending = s.pending := rfl
@[simp] theorem count_tick (s : State) (a : Nat) (n : Nat) : (s.count a n).tick = s.tick := rfl
@[simp] theorem count_variant (s : State) (a : Nat) (n : Nat) : (s.count a n).variant = s.variant := rfl
@[simp] theorem count_mstate (s : State) (a : Nat) (n : Nat) : (s.count a n).mstate = s.mstate := rfl
@[simp] theorem count_dies (s : State) (a : Nat) (n : Nat) : (s.count a n).dies = s.dies := rfl
@[simp] theorem count_arr (s : State) (a : Nat) (n : Nat) : (s.count a n).arr = s.arr := rfl
@[simp] theorem count_seq (s : State) (a : Nat) (n : Nat) : (s.count a n).seq = s.seq := rfl
@[simp] theorem count_mem (s : State) (a : Nat) (n : Nat) : (s.count a n).mem = s.mem := rfl
@[simp] theorem count_glv (s : State) (a : Nat) (n : Nat) : (s.count a n).glv = s.glv := rfl
@[simp] theorem count_ledger (s : State) (a : Nat) (n : Nat) : (s.count a n).ledger = s.ledger := rfl
@[simp] theorem count_rung (s : State) (a : Nat) (n : Nat) : (s.count a n).rung = s.rung := rfl
@[simp] theorem count_keys (s : State) (a : Nat) (n : Nat) : (s.count a n).keys = s.keys := rfl
@[simp] theorem count_stw (s : State) (a : Nat) (n : Nat) : (s.count a n).stw = s.stw := rfl
@[simp] theorem count_net (s : State) (a : Nat) (n : Nat) : (s.count a n).net = s.net := rfl
@[simp] theorem count_host (s : State) (a : Nat) (n : Nat) : (s.count a n).host = s.host := rfl
@[simp] theorem count_aos (s : State) (a : Nat) (n : Nat) : (s.count a n).aos = s.aos := rfl
@[simp] theorem count_nodeId (s : State) (a : Nat) (n : Nat) : (s.count a n).nodeId = s.nodeId := rfl
@[simp] theorem count_out (s : State) (a : Nat) (n : Nat) : (s.count a n).out = s.out := rfl
@[simp] theorem count_freeCtr (s : State) (a : Nat) (n : Nat) : (s.count a n).freeCtr = s.freeCtr := rfl
@[simp] theorem count_pending (s : State) (a : Nat) (n : Nat) : (s.count a n).pending = s.pending := rfl
@[simp] theorem emit_tick (s : State) (o : Output) : (s.emit o).tick = s.tick := rfl
@[simp] theorem emit_variant (s : State) (o : Output) : (s.emit o).variant = s.variant := rfl
@[simp] theorem emit_mstate (s : State) (o : Output) : (s.emit o).mstate = s.mstate := rfl
@[simp] theorem emit_dies (s : State) (o : Output) : (s.emit o).dies = s.dies := rfl
@[simp] theorem emit_arr (s : State) (o : Output) : (s.emit o).arr = s.arr := rfl
@[simp] theorem emit_seq (s : State) (o : Output) : (s.emit o).seq = s.seq := rfl
@[simp] theorem emit_mem (s : State) (o : Output) : (s.emit o).mem = s.mem := rfl
@[simp] theorem emit_glv (s : State) (o : Output) : (s.emit o).glv = s.glv := rfl
@[simp] theorem emit_ledger (s : State) (o : Output) : (s.emit o).ledger = s.ledger := rfl
@[simp] theorem emit_rung (s : State) (o : Output) : (s.emit o).rung = s.rung := rfl
@[simp] theorem emit_keys (s : State) (o : Output) : (s.emit o).keys = s.keys := rfl
@[simp] theorem emit_stw (s : State) (o : Output) : (s.emit o).stw = s.stw := rfl
@[simp] theorem emit_net (s : State) (o : Output) : (s.emit o).net = s.net := rfl
@[simp] theorem emit_host (s : State) (o : Output) : (s.emit o).host = s.host := rfl
@[simp] theorem emit_aos (s : State) (o : Output) : (s.emit o).aos = s.aos := rfl
@[simp] theorem emit_regs (s : State) (o : Output) : (s.emit o).regs = s.regs := rfl
@[simp] theorem emit_nodeId (s : State) (o : Output) : (s.emit o).nodeId = s.nodeId := rfl
@[simp] theorem emit_freeCtr (s : State) (o : Output) : (s.emit o).freeCtr = s.freeCtr := rfl
@[simp] theorem emit_pending (s : State) (o : Output) : (s.emit o).pending = s.pending := rfl
@[simp] theorem emit_out (s : State) (o : Output) : (s.emit o).out = o :: s.out := rfl
@[simp] theorem onLz2_tick (s : State) (p : Nat) (f : Lz2Page → Lz2Page) : (s.onLz2 p f).tick = s.tick := rfl
@[simp] theorem onLz2_variant (s : State) (p : Nat) (f : Lz2Page → Lz2Page) : (s.onLz2 p f).variant = s.variant := rfl
@[simp] theorem onLz2_mstate (s : State) (p : Nat) (f : Lz2Page → Lz2Page) : (s.onLz2 p f).mstate = s.mstate := rfl
@[simp] theorem onLz2_dies (s : State) (p : Nat) (f : Lz2Page → Lz2Page) : (s.onLz2 p f).dies = s.dies := rfl
@[simp] theorem onLz2_arr (s : State) (p : Nat) (f : Lz2Page → Lz2Page) : (s.onLz2 p f).arr = s.arr := rfl
@[simp] theorem onLz2_seq (s : State) (p : Nat) (f : Lz2Page → Lz2Page) : (s.onLz2 p f).seq = s.seq := rfl
@[simp] theorem onLz2_glv (s : State) (p : Nat) (f : Lz2Page → Lz2Page) : (s.onLz2 p f).glv = s.glv := rfl
@[simp] theorem onLz2_ledger (s : State) (p : Nat) (f : Lz2Page → Lz2Page) : (s.onLz2 p f).ledger = s.ledger := rfl
@[simp] theorem onLz2_rung (s : State) (p : Nat) (f : Lz2Page → Lz2Page) : (s.onLz2 p f).rung = s.rung := rfl
@[simp] theorem onLz2_keys (s : State) (p : Nat) (f : Lz2Page → Lz2Page) : (s.onLz2 p f).keys = s.keys := rfl
@[simp] theorem onLz2_stw (s : State) (p : Nat) (f : Lz2Page → Lz2Page) : (s.onLz2 p f).stw = s.stw := rfl
@[simp] theorem onLz2_net (s : State) (p : Nat) (f : Lz2Page → Lz2Page) : (s.onLz2 p f).net = s.net := rfl
@[simp] theorem onLz2_host (s : State) (p : Nat) (f : Lz2Page → Lz2Page) : (s.onLz2 p f).host = s.host := rfl
@[simp] theorem onLz2_aos (s : State) (p : Nat) (f : Lz2Page → Lz2Page) : (s.onLz2 p f).aos = s.aos := rfl
@[simp] theorem onLz2_regs (s : State) (p : Nat) (f : Lz2Page → Lz2Page) : (s.onLz2 p f).regs = s.regs := rfl
@[simp] theorem onLz2_nodeId (s : State) (p : Nat) (f : Lz2Page → Lz2Page) : (s.onLz2 p f).nodeId = s.nodeId := rfl
@[simp] theorem onLz2_out (s : State) (p : Nat) (f : Lz2Page → Lz2Page) : (s.onLz2 p f).out = s.out := rfl
@[simp] theorem onLz2_freeCtr (s : State) (p : Nat) (f : Lz2Page → Lz2Page) : (s.onLz2 p f).freeCtr = s.freeCtr := rfl
@[simp] theorem onLz2_pending (s : State) (p : Nat) (f : Lz2Page → Lz2Page) : (s.onLz2 p f).pending = s.pending := rfl
@[simp] theorem onLz2_mem (s : State) (p : Nat) (f : Lz2Page → Lz2Page) : (s.onLz2 p f).mem = { s.mem with lz2Pages := s.mem.lz2Pages.upd p f } := rfl
@[simp] theorem onExtent_tick (s : State) (n : Nat) (f : ExtentSt → ExtentSt) : (s.onExtent n f).tick = s.tick := rfl
@[simp] theorem onExtent_variant (s : State) (n : Nat) (f : ExtentSt → ExtentSt) : (s.onExtent n f).variant = s.variant := rfl
@[simp] theorem onExtent_mstate (s : State) (n : Nat) (f : ExtentSt → ExtentSt) : (s.onExtent n f).mstate = s.mstate := rfl
@[simp] theorem onExtent_dies (s : State) (n : Nat) (f : ExtentSt → ExtentSt) : (s.onExtent n f).dies = s.dies := rfl
@[simp] theorem onExtent_arr (s : State) (n : Nat) (f : ExtentSt → ExtentSt) : (s.onExtent n f).arr = s.arr := rfl
@[simp] theorem onExtent_seq (s : State) (n : Nat) (f : ExtentSt → ExtentSt) : (s.onExtent n f).seq = s.seq := rfl
@[simp] theorem onExtent_glv (s : State) (n : Nat) (f : ExtentSt → ExtentSt) : (s.onExtent n f).glv = s.glv := rfl
@[simp] theorem onExtent_ledger (s : State) (n : Nat) (f : ExtentSt → ExtentSt) : (s.onExtent n f).ledger = s.ledger := rfl
@[simp] theorem onExtent_rung (s : State) (n : Nat) (f : ExtentSt → ExtentSt) : (s.onExtent n f).rung = s.rung := rfl
@[simp] theorem onExtent_keys (s : State) (n : Nat) (f : ExtentSt → ExtentSt) : (s.onExtent n f).keys = s.keys := rfl
@[simp] theorem onExtent_stw (s : State) (n : Nat) (f : ExtentSt → ExtentSt) : (s.onExtent n f).stw = s.stw := rfl
@[simp] theorem onExtent_net (s : State) (n : Nat) (f : ExtentSt → ExtentSt) : (s.onExtent n f).net = s.net := rfl
@[simp] theorem onExtent_host (s : State) (n : Nat) (f : ExtentSt → ExtentSt) : (s.onExtent n f).host = s.host := rfl
@[simp] theorem onExtent_aos (s : State) (n : Nat) (f : ExtentSt → ExtentSt) : (s.onExtent n f).aos = s.aos := rfl
@[simp] theorem onExtent_regs (s : State) (n : Nat) (f : ExtentSt → ExtentSt) : (s.onExtent n f).regs = s.regs := rfl
@[simp] theorem onExtent_nodeId (s : State) (n : Nat) (f : ExtentSt → ExtentSt) : (s.onExtent n f).nodeId = s.nodeId := rfl
@[simp] theorem onExtent_out (s : State) (n : Nat) (f : ExtentSt → ExtentSt) : (s.onExtent n f).out = s.out := rfl
@[simp] theorem onExtent_freeCtr (s : State) (n : Nat) (f : ExtentSt → ExtentSt) : (s.onExtent n f).freeCtr = s.freeCtr := rfl
@[simp] theorem onExtent_pending (s : State) (n : Nat) (f : ExtentSt → ExtentSt) : (s.onExtent n f).pending = s.pending := rfl
@[simp] theorem onExtent_mem (s : State) (n : Nat) (f : ExtentSt → ExtentSt) : (s.onExtent n f).mem = { s.mem with extents := s.mem.extents.upd n f } := rfl
@[simp] theorem onDdr_tick (s : State) (c : Nat) (f : DdrSt → DdrSt) : (s.onDdr c f).tick = s.tick := rfl
@[simp] theorem onDdr_variant (s : State) (c : Nat) (f : DdrSt → DdrSt) : (s.onDdr c f).variant = s.variant := rfl
@[simp] theorem onDdr_mstate (s : State) (c : Nat) (f : DdrSt → DdrSt) : (s.onDdr c f).mstate = s.mstate := rfl
@[simp] theorem onDdr_dies (s : State) (c : Nat) (f : DdrSt → DdrSt) : (s.onDdr c f).dies = s.dies := rfl
@[simp] theorem onDdr_arr (s : State) (c : Nat) (f : DdrSt → DdrSt) : (s.onDdr c f).arr = s.arr := rfl
@[simp] theorem onDdr_seq (s : State) (c : Nat) (f : DdrSt → DdrSt) : (s.onDdr c f).seq = s.seq := rfl
@[simp] theorem onDdr_glv (s : State) (c : Nat) (f : DdrSt → DdrSt) : (s.onDdr c f).glv = s.glv := rfl
@[simp] theorem onDdr_ledger (s : State) (c : Nat) (f : DdrSt → DdrSt) : (s.onDdr c f).ledger = s.ledger := rfl
@[simp] theorem onDdr_rung (s : State) (c : Nat) (f : DdrSt → DdrSt) : (s.onDdr c f).rung = s.rung := rfl
@[simp] theorem onDdr_keys (s : State) (c : Nat) (f : DdrSt → DdrSt) : (s.onDdr c f).keys = s.keys := rfl
@[simp] theorem onDdr_stw (s : State) (c : Nat) (f : DdrSt → DdrSt) : (s.onDdr c f).stw = s.stw := rfl
@[simp] theorem onDdr_net (s : State) (c : Nat) (f : DdrSt → DdrSt) : (s.onDdr c f).net = s.net := rfl
@[simp] theorem onDdr_host (s : State) (c : Nat) (f : DdrSt → DdrSt) : (s.onDdr c f).host = s.host := rfl
@[simp] theorem onDdr_aos (s : State) (c : Nat) (f : DdrSt → DdrSt) : (s.onDdr c f).aos = s.aos := rfl
@[simp] theorem onDdr_regs (s : State) (c : Nat) (f : DdrSt → DdrSt) : (s.onDdr c f).regs = s.regs := rfl
@[simp] theorem onDdr_nodeId (s : State) (c : Nat) (f : DdrSt → DdrSt) : (s.onDdr c f).nodeId = s.nodeId := rfl
@[simp] theorem onDdr_out (s : State) (c : Nat) (f : DdrSt → DdrSt) : (s.onDdr c f).out = s.out := rfl
@[simp] theorem onDdr_freeCtr (s : State) (c : Nat) (f : DdrSt → DdrSt) : (s.onDdr c f).freeCtr = s.freeCtr := rfl
@[simp] theorem onDdr_pending (s : State) (c : Nat) (f : DdrSt → DdrSt) : (s.onDdr c f).pending = s.pending := rfl
@[simp] theorem onDdr_mem (s : State) (c : Nat) (f : DdrSt → DdrSt) : (s.onDdr c f).mem = { s.mem with ddr := s.mem.ddr.upd c f } := rfl
@[simp] theorem onDpp_tick (s : State) (i : Nat) (f : DppSt → DppSt) : (s.onDpp i f).tick = s.tick := rfl
@[simp] theorem onDpp_variant (s : State) (i : Nat) (f : DppSt → DppSt) : (s.onDpp i f).variant = s.variant := rfl
@[simp] theorem onDpp_mstate (s : State) (i : Nat) (f : DppSt → DppSt) : (s.onDpp i f).mstate = s.mstate := rfl
@[simp] theorem onDpp_dies (s : State) (i : Nat) (f : DppSt → DppSt) : (s.onDpp i f).dies = s.dies := rfl
@[simp] theorem onDpp_arr (s : State) (i : Nat) (f : DppSt → DppSt) : (s.onDpp i f).arr = s.arr := rfl
@[simp] theorem onDpp_seq (s : State) (i : Nat) (f : DppSt → DppSt) : (s.onDpp i f).seq = s.seq := rfl
@[simp] theorem onDpp_glv (s : State) (i : Nat) (f : DppSt → DppSt) : (s.onDpp i f).glv = s.glv := rfl
@[simp] theorem onDpp_ledger (s : State) (i : Nat) (f : DppSt → DppSt) : (s.onDpp i f).ledger = s.ledger := rfl
@[simp] theorem onDpp_rung (s : State) (i : Nat) (f : DppSt → DppSt) : (s.onDpp i f).rung = s.rung := rfl
@[simp] theorem onDpp_keys (s : State) (i : Nat) (f : DppSt → DppSt) : (s.onDpp i f).keys = s.keys := rfl
@[simp] theorem onDpp_stw (s : State) (i : Nat) (f : DppSt → DppSt) : (s.onDpp i f).stw = s.stw := rfl
@[simp] theorem onDpp_net (s : State) (i : Nat) (f : DppSt → DppSt) : (s.onDpp i f).net = s.net := rfl
@[simp] theorem onDpp_host (s : State) (i : Nat) (f : DppSt → DppSt) : (s.onDpp i f).host = s.host := rfl
@[simp] theorem onDpp_aos (s : State) (i : Nat) (f : DppSt → DppSt) : (s.onDpp i f).aos = s.aos := rfl
@[simp] theorem onDpp_regs (s : State) (i : Nat) (f : DppSt → DppSt) : (s.onDpp i f).regs = s.regs := rfl
@[simp] theorem onDpp_nodeId (s : State) (i : Nat) (f : DppSt → DppSt) : (s.onDpp i f).nodeId = s.nodeId := rfl
@[simp] theorem onDpp_out (s : State) (i : Nat) (f : DppSt → DppSt) : (s.onDpp i f).out = s.out := rfl
@[simp] theorem onDpp_freeCtr (s : State) (i : Nat) (f : DppSt → DppSt) : (s.onDpp i f).freeCtr = s.freeCtr := rfl
@[simp] theorem onDpp_pending (s : State) (i : Nat) (f : DppSt → DppSt) : (s.onDpp i f).pending = s.pending := rfl
@[simp] theorem onDpp_mem (s : State) (i : Nat) (f : DppSt → DppSt) : (s.onDpp i f).mem = { s.mem with dpp := s.mem.dpp.upd i f } := rfl
@[simp] theorem onRepair_tick (s : State) (die : Nat) (row : Nat) (f : RowRepair → RowRepair) : (s.onRepair die row f).tick = s.tick := rfl
@[simp] theorem onRepair_variant (s : State) (die : Nat) (row : Nat) (f : RowRepair → RowRepair) : (s.onRepair die row f).variant = s.variant := rfl
@[simp] theorem onRepair_mstate (s : State) (die : Nat) (row : Nat) (f : RowRepair → RowRepair) : (s.onRepair die row f).mstate = s.mstate := rfl
@[simp] theorem onRepair_dies (s : State) (die : Nat) (row : Nat) (f : RowRepair → RowRepair) : (s.onRepair die row f).dies = s.dies := rfl
@[simp] theorem onRepair_seq (s : State) (die : Nat) (row : Nat) (f : RowRepair → RowRepair) : (s.onRepair die row f).seq = s.seq := rfl
@[simp] theorem onRepair_mem (s : State) (die : Nat) (row : Nat) (f : RowRepair → RowRepair) : (s.onRepair die row f).mem = s.mem := rfl
@[simp] theorem onRepair_glv (s : State) (die : Nat) (row : Nat) (f : RowRepair → RowRepair) : (s.onRepair die row f).glv = s.glv := rfl
@[simp] theorem onRepair_ledger (s : State) (die : Nat) (row : Nat) (f : RowRepair → RowRepair) : (s.onRepair die row f).ledger = s.ledger := rfl
@[simp] theorem onRepair_rung (s : State) (die : Nat) (row : Nat) (f : RowRepair → RowRepair) : (s.onRepair die row f).rung = s.rung := rfl
@[simp] theorem onRepair_keys (s : State) (die : Nat) (row : Nat) (f : RowRepair → RowRepair) : (s.onRepair die row f).keys = s.keys := rfl
@[simp] theorem onRepair_stw (s : State) (die : Nat) (row : Nat) (f : RowRepair → RowRepair) : (s.onRepair die row f).stw = s.stw := rfl
@[simp] theorem onRepair_net (s : State) (die : Nat) (row : Nat) (f : RowRepair → RowRepair) : (s.onRepair die row f).net = s.net := rfl
@[simp] theorem onRepair_host (s : State) (die : Nat) (row : Nat) (f : RowRepair → RowRepair) : (s.onRepair die row f).host = s.host := rfl
@[simp] theorem onRepair_aos (s : State) (die : Nat) (row : Nat) (f : RowRepair → RowRepair) : (s.onRepair die row f).aos = s.aos := rfl
@[simp] theorem onRepair_regs (s : State) (die : Nat) (row : Nat) (f : RowRepair → RowRepair) : (s.onRepair die row f).regs = s.regs := rfl
@[simp] theorem onRepair_nodeId (s : State) (die : Nat) (row : Nat) (f : RowRepair → RowRepair) : (s.onRepair die row f).nodeId = s.nodeId := rfl
@[simp] theorem onRepair_out (s : State) (die : Nat) (row : Nat) (f : RowRepair → RowRepair) : (s.onRepair die row f).out = s.out := rfl
@[simp] theorem onRepair_freeCtr (s : State) (die : Nat) (row : Nat) (f : RowRepair → RowRepair) : (s.onRepair die row f).freeCtr = s.freeCtr := rfl
@[simp] theorem onRepair_pending (s : State) (die : Nat) (row : Nat) (f : RowRepair → RowRepair) : (s.onRepair die row f).pending = s.pending := rfl
@[simp] theorem onRepair_arr (s : State) (die : Nat) (row : Nat) (f : RowRepair → RowRepair) : (s.onRepair die row f).arr = { s.arr with repair := s.arr.repair.upd (24 * die + row) f } := rfl
@[simp] theorem onTick_variant (s : State) (f : TickSt → TickSt) : (s.onTick f).variant = s.variant := rfl
@[simp] theorem onTick_mstate (s : State) (f : TickSt → TickSt) : (s.onTick f).mstate = s.mstate := rfl
@[simp] theorem onTick_dies (s : State) (f : TickSt → TickSt) : (s.onTick f).dies = s.dies := rfl
@[simp] theorem onTick_arr (s : State) (f : TickSt → TickSt) : (s.onTick f).arr = s.arr := rfl
@[simp] theorem onTick_seq (s : State) (f : TickSt → TickSt) : (s.onTick f).seq = s.seq := rfl
@[simp] theorem onTick_mem (s : State) (f : TickSt → TickSt) : (s.onTick f).mem = s.mem := rfl
@[simp] theorem onTick_glv (s : State) (f : TickSt → TickSt) : (s.onTick f).glv = s.glv := rfl
@[simp] theorem onTick_ledger (s : State) (f : TickSt → TickSt) : (s.onTick f).ledger = s.ledger := rfl
@[simp] theorem onTick_rung (s : State) (f : TickSt → TickSt) : (s.onTick f).rung = s.rung := rfl
@[simp] theorem onTick_keys (s : State) (f : TickSt → TickSt) : (s.onTick f).keys = s.keys := rfl
@[simp] theorem onTick_stw (s : State) (f : TickSt → TickSt) : (s.onTick f).stw = s.stw := rfl
@[simp] theorem onTick_net (s : State) (f : TickSt → TickSt) : (s.onTick f).net = s.net := rfl
@[simp] theorem onTick_host (s : State) (f : TickSt → TickSt) : (s.onTick f).host = s.host := rfl
@[simp] theorem onTick_aos (s : State) (f : TickSt → TickSt) : (s.onTick f).aos = s.aos := rfl
@[simp] theorem onTick_regs (s : State) (f : TickSt → TickSt) : (s.onTick f).regs = s.regs := rfl
@[simp] theorem onTick_nodeId (s : State) (f : TickSt → TickSt) : (s.onTick f).nodeId = s.nodeId := rfl
@[simp] theorem onTick_out (s : State) (f : TickSt → TickSt) : (s.onTick f).out = s.out := rfl
@[simp] theorem onTick_freeCtr (s : State) (f : TickSt → TickSt) : (s.onTick f).freeCtr = s.freeCtr := rfl
@[simp] theorem onTick_pending (s : State) (f : TickSt → TickSt) : (s.onTick f).pending = s.pending := rfl
@[simp] theorem onTick_tick (s : State) (f : TickSt → TickSt) : (s.onTick f).tick = f s.tick := rfl
@[simp] theorem onArr_tick (s : State) (f : ArrayMem → ArrayMem) : (s.onArr f).tick = s.tick := rfl
@[simp] theorem onArr_variant (s : State) (f : ArrayMem → ArrayMem) : (s.onArr f).variant = s.variant := rfl
@[simp] theorem onArr_mstate (s : State) (f : ArrayMem → ArrayMem) : (s.onArr f).mstate = s.mstate := rfl
@[simp] theorem onArr_dies (s : State) (f : ArrayMem → ArrayMem) : (s.onArr f).dies = s.dies := rfl
@[simp] theorem onArr_seq (s : State) (f : ArrayMem → ArrayMem) : (s.onArr f).seq = s.seq := rfl
@[simp] theorem onArr_mem (s : State) (f : ArrayMem → ArrayMem) : (s.onArr f).mem = s.mem := rfl
@[simp] theorem onArr_glv (s : State) (f : ArrayMem → ArrayMem) : (s.onArr f).glv = s.glv := rfl
@[simp] theorem onArr_ledger (s : State) (f : ArrayMem → ArrayMem) : (s.onArr f).ledger = s.ledger := rfl
@[simp] theorem onArr_rung (s : State) (f : ArrayMem → ArrayMem) : (s.onArr f).rung = s.rung := rfl
@[simp] theorem onArr_keys (s : State) (f : ArrayMem → ArrayMem) : (s.onArr f).keys = s.keys := rfl
@[simp] theorem onArr_stw (s : State) (f : ArrayMem → ArrayMem) : (s.onArr f).stw = s.stw := rfl
@[simp] theorem onArr_net (s : State) (f : ArrayMem → ArrayMem) : (s.onArr f).net = s.net := rfl
@[simp] theorem onArr_host (s : State) (f : ArrayMem → ArrayMem) : (s.onArr f).host = s.host := rfl
@[simp] theorem onArr_aos (s : State) (f : ArrayMem → ArrayMem) : (s.onArr f).aos = s.aos := rfl
@[simp] theorem onArr_regs (s : State) (f : ArrayMem → ArrayMem) : (s.onArr f).regs = s.regs := rfl
@[simp] theorem onArr_nodeId (s : State) (f : ArrayMem → ArrayMem) : (s.onArr f).nodeId = s.nodeId := rfl
@[simp] theorem onArr_out (s : State) (f : ArrayMem → ArrayMem) : (s.onArr f).out = s.out := rfl
@[simp] theorem onArr_freeCtr (s : State) (f : ArrayMem → ArrayMem) : (s.onArr f).freeCtr = s.freeCtr := rfl
@[simp] theorem onArr_pending (s : State) (f : ArrayMem → ArrayMem) : (s.onArr f).pending = s.pending := rfl
@[simp] theorem onArr_arr (s : State) (f : ArrayMem → ArrayMem) : (s.onArr f).arr = f s.arr := rfl
@[simp] theorem onSeq_tick (s : State) (f : SeqBlk → SeqBlk) : (s.onSeq f).tick = s.tick := rfl
@[simp] theorem onSeq_variant (s : State) (f : SeqBlk → SeqBlk) : (s.onSeq f).variant = s.variant := rfl
@[simp] theorem onSeq_mstate (s : State) (f : SeqBlk → SeqBlk) : (s.onSeq f).mstate = s.mstate := rfl
@[simp] theorem onSeq_dies (s : State) (f : SeqBlk → SeqBlk) : (s.onSeq f).dies = s.dies := rfl
@[simp] theorem onSeq_arr (s : State) (f : SeqBlk → SeqBlk) : (s.onSeq f).arr = s.arr := rfl
@[simp] theorem onSeq_mem (s : State) (f : SeqBlk → SeqBlk) : (s.onSeq f).mem = s.mem := rfl
@[simp] theorem onSeq_glv (s : State) (f : SeqBlk → SeqBlk) : (s.onSeq f).glv = s.glv := rfl
@[simp] theorem onSeq_ledger (s : State) (f : SeqBlk → SeqBlk) : (s.onSeq f).ledger = s.ledger := rfl
@[simp] theorem onSeq_rung (s : State) (f : SeqBlk → SeqBlk) : (s.onSeq f).rung = s.rung := rfl
@[simp] theorem onSeq_keys (s : State) (f : SeqBlk → SeqBlk) : (s.onSeq f).keys = s.keys := rfl
@[simp] theorem onSeq_stw (s : State) (f : SeqBlk → SeqBlk) : (s.onSeq f).stw = s.stw := rfl
@[simp] theorem onSeq_net (s : State) (f : SeqBlk → SeqBlk) : (s.onSeq f).net = s.net := rfl
@[simp] theorem onSeq_host (s : State) (f : SeqBlk → SeqBlk) : (s.onSeq f).host = s.host := rfl
@[simp] theorem onSeq_aos (s : State) (f : SeqBlk → SeqBlk) : (s.onSeq f).aos = s.aos := rfl
@[simp] theorem onSeq_regs (s : State) (f : SeqBlk → SeqBlk) : (s.onSeq f).regs = s.regs := rfl
@[simp] theorem onSeq_nodeId (s : State) (f : SeqBlk → SeqBlk) : (s.onSeq f).nodeId = s.nodeId := rfl
@[simp] theorem onSeq_out (s : State) (f : SeqBlk → SeqBlk) : (s.onSeq f).out = s.out := rfl
@[simp] theorem onSeq_freeCtr (s : State) (f : SeqBlk → SeqBlk) : (s.onSeq f).freeCtr = s.freeCtr := rfl
@[simp] theorem onSeq_pending (s : State) (f : SeqBlk → SeqBlk) : (s.onSeq f).pending = s.pending := rfl
@[simp] theorem onSeq_seq (s : State) (f : SeqBlk → SeqBlk) : (s.onSeq f).seq = f s.seq := rfl
@[simp] theorem onMem_tick (s : State) (f : MemBlk → MemBlk) : (s.onMem f).tick = s.tick := rfl
@[simp] theorem onMem_variant (s : State) (f : MemBlk → MemBlk) : (s.onMem f).variant = s.variant := rfl
@[simp] theorem onMem_mstate (s : State) (f : MemBlk → MemBlk) : (s.onMem f).mstate = s.mstate := rfl
@[simp] theorem onMem_dies (s : State) (f : MemBlk → MemBlk) : (s.onMem f).dies = s.dies := rfl
@[simp] theorem onMem_arr (s : State) (f : MemBlk → MemBlk) : (s.onMem f).arr = s.arr := rfl
@[simp] theorem onMem_seq (s : State) (f : MemBlk → MemBlk) : (s.onMem f).seq = s.seq := rfl
@[simp] theorem onMem_glv (s : State) (f : MemBlk → MemBlk) : (s.onMem f).glv = s.glv := rfl
@[simp] theorem onMem_ledger (s : State) (f : MemBlk → MemBlk) : (s.onMem f).ledger = s.ledger := rfl
@[simp] theorem onMem_rung (s : State) (f : MemBlk → MemBlk) : (s.onMem f).rung = s.rung := rfl
@[simp] theorem onMem_keys (s : State) (f : MemBlk → MemBlk) : (s.onMem f).keys = s.keys := rfl
@[simp] theorem onMem_stw (s : State) (f : MemBlk → MemBlk) : (s.onMem f).stw = s.stw := rfl
@[simp] theorem onMem_net (s : State) (f : MemBlk → MemBlk) : (s.onMem f).net = s.net := rfl
@[simp] theorem onMem_host (s : State) (f : MemBlk → MemBlk) : (s.onMem f).host = s.host := rfl
@[simp] theorem onMem_aos (s : State) (f : MemBlk → MemBlk) : (s.onMem f).aos = s.aos := rfl
@[simp] theorem onMem_regs (s : State) (f : MemBlk → MemBlk) : (s.onMem f).regs = s.regs := rfl
@[simp] theorem onMem_nodeId (s : State) (f : MemBlk → MemBlk) : (s.onMem f).nodeId = s.nodeId := rfl
@[simp] theorem onMem_out (s : State) (f : MemBlk → MemBlk) : (s.onMem f).out = s.out := rfl
@[simp] theorem onMem_freeCtr (s : State) (f : MemBlk → MemBlk) : (s.onMem f).freeCtr = s.freeCtr := rfl
@[simp] theorem onMem_pending (s : State) (f : MemBlk → MemBlk) : (s.onMem f).pending = s.pending := rfl
@[simp] theorem onMem_mem (s : State) (f : MemBlk → MemBlk) : (s.onMem f).mem = f s.mem := rfl
@[simp] theorem onDie_tick (s : State) (k : Nat) (f : DieSt → DieSt) : (s.onDie k f).tick = s.tick := rfl
@[simp] theorem onDie_variant (s : State) (k : Nat) (f : DieSt → DieSt) : (s.onDie k f).variant = s.variant := rfl
@[simp] theorem onDie_mstate (s : State) (k : Nat) (f : DieSt → DieSt) : (s.onDie k f).mstate = s.mstate := rfl
@[simp] theorem onDie_arr (s : State) (k : Nat) (f : DieSt → DieSt) : (s.onDie k f).arr = s.arr := rfl
@[simp] theorem onDie_seq (s : State) (k : Nat) (f : DieSt → DieSt) : (s.onDie k f).seq = s.seq := rfl
@[simp] theorem onDie_mem (s : State) (k : Nat) (f : DieSt → DieSt) : (s.onDie k f).mem = s.mem := rfl
@[simp] theorem onDie_glv (s : State) (k : Nat) (f : DieSt → DieSt) : (s.onDie k f).glv = s.glv := rfl
@[simp] theorem onDie_ledger (s : State) (k : Nat) (f : DieSt → DieSt) : (s.onDie k f).ledger = s.ledger := rfl
@[simp] theorem onDie_rung (s : State) (k : Nat) (f : DieSt → DieSt) : (s.onDie k f).rung = s.rung := rfl
@[simp] theorem onDie_keys (s : State) (k : Nat) (f : DieSt → DieSt) : (s.onDie k f).keys = s.keys := rfl
@[simp] theorem onDie_stw (s : State) (k : Nat) (f : DieSt → DieSt) : (s.onDie k f).stw = s.stw := rfl
@[simp] theorem onDie_net (s : State) (k : Nat) (f : DieSt → DieSt) : (s.onDie k f).net = s.net := rfl
@[simp] theorem onDie_host (s : State) (k : Nat) (f : DieSt → DieSt) : (s.onDie k f).host = s.host := rfl
@[simp] theorem onDie_aos (s : State) (k : Nat) (f : DieSt → DieSt) : (s.onDie k f).aos = s.aos := rfl
@[simp] theorem onDie_regs (s : State) (k : Nat) (f : DieSt → DieSt) : (s.onDie k f).regs = s.regs := rfl
@[simp] theorem onDie_nodeId (s : State) (k : Nat) (f : DieSt → DieSt) : (s.onDie k f).nodeId = s.nodeId := rfl
@[simp] theorem onDie_out (s : State) (k : Nat) (f : DieSt → DieSt) : (s.onDie k f).out = s.out := rfl
@[simp] theorem onDie_freeCtr (s : State) (k : Nat) (f : DieSt → DieSt) : (s.onDie k f).freeCtr = s.freeCtr := rfl
@[simp] theorem onDie_pending (s : State) (k : Nat) (f : DieSt → DieSt) : (s.onDie k f).pending = s.pending := rfl
@[simp] theorem onDie_dies (s : State) (k : Nat) (f : DieSt → DieSt) : (s.onDie k f).dies = s.dies.upd k f := rfl
@[simp] theorem onGlv_tick (s : State) (g : Nat) (f : GloveSt → GloveSt) : (s.onGlv g f).tick = s.tick := rfl
@[simp] theorem onGlv_variant (s : State) (g : Nat) (f : GloveSt → GloveSt) : (s.onGlv g f).variant = s.variant := rfl
@[simp] theorem onGlv_mstate (s : State) (g : Nat) (f : GloveSt → GloveSt) : (s.onGlv g f).mstate = s.mstate := rfl
@[simp] theorem onGlv_dies (s : State) (g : Nat) (f : GloveSt → GloveSt) : (s.onGlv g f).dies = s.dies := rfl
@[simp] theorem onGlv_arr (s : State) (g : Nat) (f : GloveSt → GloveSt) : (s.onGlv g f).arr = s.arr := rfl
@[simp] theorem onGlv_seq (s : State) (g : Nat) (f : GloveSt → GloveSt) : (s.onGlv g f).seq = s.seq := rfl
@[simp] theorem onGlv_mem (s : State) (g : Nat) (f : GloveSt → GloveSt) : (s.onGlv g f).mem = s.mem := rfl
@[simp] theorem onGlv_ledger (s : State) (g : Nat) (f : GloveSt → GloveSt) : (s.onGlv g f).ledger = s.ledger := rfl
@[simp] theorem onGlv_rung (s : State) (g : Nat) (f : GloveSt → GloveSt) : (s.onGlv g f).rung = s.rung := rfl
@[simp] theorem onGlv_keys (s : State) (g : Nat) (f : GloveSt → GloveSt) : (s.onGlv g f).keys = s.keys := rfl
@[simp] theorem onGlv_stw (s : State) (g : Nat) (f : GloveSt → GloveSt) : (s.onGlv g f).stw = s.stw := rfl
@[simp] theorem onGlv_net (s : State) (g : Nat) (f : GloveSt → GloveSt) : (s.onGlv g f).net = s.net := rfl
@[simp] theorem onGlv_host (s : State) (g : Nat) (f : GloveSt → GloveSt) : (s.onGlv g f).host = s.host := rfl
@[simp] theorem onGlv_aos (s : State) (g : Nat) (f : GloveSt → GloveSt) : (s.onGlv g f).aos = s.aos := rfl
@[simp] theorem onGlv_regs (s : State) (g : Nat) (f : GloveSt → GloveSt) : (s.onGlv g f).regs = s.regs := rfl
@[simp] theorem onGlv_nodeId (s : State) (g : Nat) (f : GloveSt → GloveSt) : (s.onGlv g f).nodeId = s.nodeId := rfl
@[simp] theorem onGlv_out (s : State) (g : Nat) (f : GloveSt → GloveSt) : (s.onGlv g f).out = s.out := rfl
@[simp] theorem onGlv_freeCtr (s : State) (g : Nat) (f : GloveSt → GloveSt) : (s.onGlv g f).freeCtr = s.freeCtr := rfl
@[simp] theorem onGlv_pending (s : State) (g : Nat) (f : GloveSt → GloveSt) : (s.onGlv g f).pending = s.pending := rfl
@[simp] theorem onGlv_glv (s : State) (g : Nat) (f : GloveSt → GloveSt) : (s.onGlv g f).glv = s.glv.upd g f := rfl
@[simp] theorem onLedger_tick (s : State) (f : LedgerSt → LedgerSt) : (s.onLedger f).tick = s.tick := rfl
@[simp] theorem onLedger_variant (s : State) (f : LedgerSt → LedgerSt) : (s.onLedger f).variant = s.variant := rfl
@[simp] theorem onLedger_mstate (s : State) (f : LedgerSt → LedgerSt) : (s.onLedger f).mstate = s.mstate := rfl
@[simp] theorem onLedger_dies (s : State) (f : LedgerSt → LedgerSt) : (s.onLedger f).dies = s.dies := rfl
@[simp] theorem onLedger_arr (s : State) (f : LedgerSt → LedgerSt) : (s.onLedger f).arr = s.arr := rfl
@[simp] theorem onLedger_seq (s : State) (f : LedgerSt → LedgerSt) : (s.onLedger f).seq = s.seq := rfl
@[simp] theorem onLedger_mem (s : State) (f : LedgerSt → LedgerSt) : (s.onLedger f).mem = s.mem := rfl
@[simp] theorem onLedger_glv (s : State) (f : LedgerSt → LedgerSt) : (s.onLedger f).glv = s.glv := rfl
@[simp] theorem onLedger_rung (s : State) (f : LedgerSt → LedgerSt) : (s.onLedger f).rung = s.rung := rfl
@[simp] theorem onLedger_keys (s : State) (f : LedgerSt → LedgerSt) : (s.onLedger f).keys = s.keys := rfl
@[simp] theorem onLedger_stw (s : State) (f : LedgerSt → LedgerSt) : (s.onLedger f).stw = s.stw := rfl
@[simp] theorem onLedger_net (s : State) (f : LedgerSt → LedgerSt) : (s.onLedger f).net = s.net := rfl
@[simp] theorem onLedger_host (s : State) (f : LedgerSt → LedgerSt) : (s.onLedger f).host = s.host := rfl
@[simp] theorem onLedger_aos (s : State) (f : LedgerSt → LedgerSt) : (s.onLedger f).aos = s.aos := rfl
@[simp] theorem onLedger_regs (s : State) (f : LedgerSt → LedgerSt) : (s.onLedger f).regs = s.regs := rfl
@[simp] theorem onLedger_nodeId (s : State) (f : LedgerSt → LedgerSt) : (s.onLedger f).nodeId = s.nodeId := rfl
@[simp] theorem onLedger_out (s : State) (f : LedgerSt → LedgerSt) : (s.onLedger f).out = s.out := rfl
@[simp] theorem onLedger_freeCtr (s : State) (f : LedgerSt → LedgerSt) : (s.onLedger f).freeCtr = s.freeCtr := rfl
@[simp] theorem onLedger_pending (s : State) (f : LedgerSt → LedgerSt) : (s.onLedger f).pending = s.pending := rfl
@[simp] theorem onLedger_ledger (s : State) (f : LedgerSt → LedgerSt) : (s.onLedger f).ledger = f s.ledger := rfl
@[simp] theorem onRung_tick (s : State) (f : RungSt → RungSt) : (s.onRung f).tick = s.tick := rfl
@[simp] theorem onRung_variant (s : State) (f : RungSt → RungSt) : (s.onRung f).variant = s.variant := rfl
@[simp] theorem onRung_mstate (s : State) (f : RungSt → RungSt) : (s.onRung f).mstate = s.mstate := rfl
@[simp] theorem onRung_dies (s : State) (f : RungSt → RungSt) : (s.onRung f).dies = s.dies := rfl
@[simp] theorem onRung_arr (s : State) (f : RungSt → RungSt) : (s.onRung f).arr = s.arr := rfl
@[simp] theorem onRung_seq (s : State) (f : RungSt → RungSt) : (s.onRung f).seq = s.seq := rfl
@[simp] theorem onRung_mem (s : State) (f : RungSt → RungSt) : (s.onRung f).mem = s.mem := rfl
@[simp] theorem onRung_glv (s : State) (f : RungSt → RungSt) : (s.onRung f).glv = s.glv := rfl
@[simp] theorem onRung_ledger (s : State) (f : RungSt → RungSt) : (s.onRung f).ledger = s.ledger := rfl
@[simp] theorem onRung_keys (s : State) (f : RungSt → RungSt) : (s.onRung f).keys = s.keys := rfl
@[simp] theorem onRung_stw (s : State) (f : RungSt → RungSt) : (s.onRung f).stw = s.stw := rfl
@[simp] theorem onRung_net (s : State) (f : RungSt → RungSt) : (s.onRung f).net = s.net := rfl
@[simp] theorem onRung_host (s : State) (f : RungSt → RungSt) : (s.onRung f).host = s.host := rfl
@[simp] theorem onRung_aos (s : State) (f : RungSt → RungSt) : (s.onRung f).aos = s.aos := rfl
@[simp] theorem onRung_regs (s : State) (f : RungSt → RungSt) : (s.onRung f).regs = s.regs := rfl
@[simp] theorem onRung_nodeId (s : State) (f : RungSt → RungSt) : (s.onRung f).nodeId = s.nodeId := rfl
@[simp] theorem onRung_out (s : State) (f : RungSt → RungSt) : (s.onRung f).out = s.out := rfl
@[simp] theorem onRung_freeCtr (s : State) (f : RungSt → RungSt) : (s.onRung f).freeCtr = s.freeCtr := rfl
@[simp] theorem onRung_pending (s : State) (f : RungSt → RungSt) : (s.onRung f).pending = s.pending := rfl
@[simp] theorem onRung_rung (s : State) (f : RungSt → RungSt) : (s.onRung f).rung = f s.rung := rfl
@[simp] theorem onStw_tick (s : State) (f : StewardBlk → StewardBlk) : (s.onStw f).tick = s.tick := rfl
@[simp] theorem onStw_variant (s : State) (f : StewardBlk → StewardBlk) : (s.onStw f).variant = s.variant := rfl
@[simp] theorem onStw_mstate (s : State) (f : StewardBlk → StewardBlk) : (s.onStw f).mstate = s.mstate := rfl
@[simp] theorem onStw_dies (s : State) (f : StewardBlk → StewardBlk) : (s.onStw f).dies = s.dies := rfl
@[simp] theorem onStw_arr (s : State) (f : StewardBlk → StewardBlk) : (s.onStw f).arr = s.arr := rfl
@[simp] theorem onStw_seq (s : State) (f : StewardBlk → StewardBlk) : (s.onStw f).seq = s.seq := rfl
@[simp] theorem onStw_mem (s : State) (f : StewardBlk → StewardBlk) : (s.onStw f).mem = s.mem := rfl
@[simp] theorem onStw_glv (s : State) (f : StewardBlk → StewardBlk) : (s.onStw f).glv = s.glv := rfl
@[simp] theorem onStw_ledger (s : State) (f : StewardBlk → StewardBlk) : (s.onStw f).ledger = s.ledger := rfl
@[simp] theorem onStw_rung (s : State) (f : StewardBlk → StewardBlk) : (s.onStw f).rung = s.rung := rfl
@[simp] theorem onStw_keys (s : State) (f : StewardBlk → StewardBlk) : (s.onStw f).keys = s.keys := rfl
@[simp] theorem onStw_net (s : State) (f : StewardBlk → StewardBlk) : (s.onStw f).net = s.net := rfl
@[simp] theorem onStw_host (s : State) (f : StewardBlk → StewardBlk) : (s.onStw f).host = s.host := rfl
@[simp] theorem onStw_aos (s : State) (f : StewardBlk → StewardBlk) : (s.onStw f).aos = s.aos := rfl
@[simp] theorem onStw_regs (s : State) (f : StewardBlk → StewardBlk) : (s.onStw f).regs = s.regs := rfl
@[simp] theorem onStw_nodeId (s : State) (f : StewardBlk → StewardBlk) : (s.onStw f).nodeId = s.nodeId := rfl
@[simp] theorem onStw_out (s : State) (f : StewardBlk → StewardBlk) : (s.onStw f).out = s.out := rfl
@[simp] theorem onStw_freeCtr (s : State) (f : StewardBlk → StewardBlk) : (s.onStw f).freeCtr = s.freeCtr := rfl
@[simp] theorem onStw_pending (s : State) (f : StewardBlk → StewardBlk) : (s.onStw f).pending = s.pending := rfl
@[simp] theorem onStw_stw (s : State) (f : StewardBlk → StewardBlk) : (s.onStw f).stw = f s.stw := rfl
@[simp] theorem onNet_tick (s : State) (f : NetBlk → NetBlk) : (s.onNet f).tick = s.tick := rfl
@[simp] theorem onNet_variant (s : State) (f : NetBlk → NetBlk) : (s.onNet f).variant = s.variant := rfl
@[simp] theorem onNet_mstate (s : State) (f : NetBlk → NetBlk) : (s.onNet f).mstate = s.mstate := rfl
@[simp] theorem onNet_dies (s : State) (f : NetBlk → NetBlk) : (s.onNet f).dies = s.dies := rfl
@[simp] theorem onNet_arr (s : State) (f : NetBlk → NetBlk) : (s.onNet f).arr = s.arr := rfl
@[simp] theorem onNet_seq (s : State) (f : NetBlk → NetBlk) : (s.onNet f).seq = s.seq := rfl
@[simp] theorem onNet_mem (s : State) (f : NetBlk → NetBlk) : (s.onNet f).mem = s.mem := rfl
@[simp] theorem onNet_glv (s : State) (f : NetBlk → NetBlk) : (s.onNet f).glv = s.glv := rfl
@[simp] theorem onNet_ledger (s : State) (f : NetBlk → NetBlk) : (s.onNet f).ledger = s.ledger := rfl
@[simp] theorem onNet_rung (s : State) (f : NetBlk → NetBlk) : (s.onNet f).rung = s.rung := rfl
@[simp] theorem onNet_keys (s : State) (f : NetBlk → NetBlk) : (s.onNet f).keys = s.keys := rfl
@[simp] theorem onNet_stw (s : State) (f : NetBlk → NetBlk) : (s.onNet f).stw = s.stw := rfl
@[simp] theorem onNet_host (s : State) (f : NetBlk → NetBlk) : (s.onNet f).host = s.host := rfl
@[simp] theorem onNet_aos (s : State) (f : NetBlk → NetBlk) : (s.onNet f).aos = s.aos := rfl
@[simp] theorem onNet_regs (s : State) (f : NetBlk → NetBlk) : (s.onNet f).regs = s.regs := rfl
@[simp] theorem onNet_nodeId (s : State) (f : NetBlk → NetBlk) : (s.onNet f).nodeId = s.nodeId := rfl
@[simp] theorem onNet_out (s : State) (f : NetBlk → NetBlk) : (s.onNet f).out = s.out := rfl
@[simp] theorem onNet_freeCtr (s : State) (f : NetBlk → NetBlk) : (s.onNet f).freeCtr = s.freeCtr := rfl
@[simp] theorem onNet_pending (s : State) (f : NetBlk → NetBlk) : (s.onNet f).pending = s.pending := rfl
@[simp] theorem onNet_net (s : State) (f : NetBlk → NetBlk) : (s.onNet f).net = f s.net := rfl
@[simp] theorem onHost_tick (s : State) (f : HostBlk → HostBlk) : (s.onHost f).tick = s.tick := rfl
@[simp] theorem onHost_variant (s : State) (f : HostBlk → HostBlk) : (s.onHost f).variant = s.variant := rfl
@[simp] theorem onHost_mstate (s : State) (f : HostBlk → HostBlk) : (s.onHost f).mstate = s.mstate := rfl
@[simp] theorem onHost_dies (s : State) (f : HostBlk → HostBlk) : (s.onHost f).dies = s.dies := rfl
@[simp] theorem onHost_arr (s : State) (f : HostBlk → HostBlk) : (s.onHost f).arr = s.arr := rfl
@[simp] theorem onHost_seq (s : State) (f : HostBlk → HostBlk) : (s.onHost f).seq = s.seq := rfl
@[simp] theorem onHost_mem (s : State) (f : HostBlk → HostBlk) : (s.onHost f).mem = s.mem := rfl
@[simp] theorem onHost_glv (s : State) (f : HostBlk → HostBlk) : (s.onHost f).glv = s.glv := rfl
@[simp] theorem onHost_ledger (s : State) (f : HostBlk → HostBlk) : (s.onHost f).ledger = s.ledger := rfl
@[simp] theorem onHost_rung (s : State) (f : HostBlk → HostBlk) : (s.onHost f).rung = s.rung := rfl
@[simp] theorem onHost_keys (s : State) (f : HostBlk → HostBlk) : (s.onHost f).keys = s.keys := rfl
@[simp] theorem onHost_stw (s : State) (f : HostBlk → HostBlk) : (s.onHost f).stw = s.stw := rfl
@[simp] theorem onHost_net (s : State) (f : HostBlk → HostBlk) : (s.onHost f).net = s.net := rfl
@[simp] theorem onHost_aos (s : State) (f : HostBlk → HostBlk) : (s.onHost f).aos = s.aos := rfl
@[simp] theorem onHost_regs (s : State) (f : HostBlk → HostBlk) : (s.onHost f).regs = s.regs := rfl
@[simp] theorem onHost_nodeId (s : State) (f : HostBlk → HostBlk) : (s.onHost f).nodeId = s.nodeId := rfl
@[simp] theorem onHost_out (s : State) (f : HostBlk → HostBlk) : (s.onHost f).out = s.out := rfl
@[simp] theorem onHost_freeCtr (s : State) (f : HostBlk → HostBlk) : (s.onHost f).freeCtr = s.freeCtr := rfl
@[simp] theorem onHost_pending (s : State) (f : HostBlk → HostBlk) : (s.onHost f).pending = s.pending := rfl
@[simp] theorem onHost_host (s : State) (f : HostBlk → HostBlk) : (s.onHost f).host = f s.host := rfl
@[simp] theorem onAos_tick (s : State) (f : AosBlk → AosBlk) : (s.onAos f).tick = s.tick := rfl
@[simp] theorem onAos_variant (s : State) (f : AosBlk → AosBlk) : (s.onAos f).variant = s.variant := rfl
@[simp] theorem onAos_mstate (s : State) (f : AosBlk → AosBlk) : (s.onAos f).mstate = s.mstate := rfl
@[simp] theorem onAos_dies (s : State) (f : AosBlk → AosBlk) : (s.onAos f).dies = s.dies := rfl
@[simp] theorem onAos_arr (s : State) (f : AosBlk → AosBlk) : (s.onAos f).arr = s.arr := rfl
@[simp] theorem onAos_seq (s : State) (f : AosBlk → AosBlk) : (s.onAos f).seq = s.seq := rfl
@[simp] theorem onAos_mem (s : State) (f : AosBlk → AosBlk) : (s.onAos f).mem = s.mem := rfl
@[simp] theorem onAos_glv (s : State) (f : AosBlk → AosBlk) : (s.onAos f).glv = s.glv := rfl
@[simp] theorem onAos_ledger (s : State) (f : AosBlk → AosBlk) : (s.onAos f).ledger = s.ledger := rfl
@[simp] theorem onAos_rung (s : State) (f : AosBlk → AosBlk) : (s.onAos f).rung = s.rung := rfl
@[simp] theorem onAos_keys (s : State) (f : AosBlk → AosBlk) : (s.onAos f).keys = s.keys := rfl
@[simp] theorem onAos_stw (s : State) (f : AosBlk → AosBlk) : (s.onAos f).stw = s.stw := rfl
@[simp] theorem onAos_net (s : State) (f : AosBlk → AosBlk) : (s.onAos f).net = s.net := rfl
@[simp] theorem onAos_host (s : State) (f : AosBlk → AosBlk) : (s.onAos f).host = s.host := rfl
@[simp] theorem onAos_regs (s : State) (f : AosBlk → AosBlk) : (s.onAos f).regs = s.regs := rfl
@[simp] theorem onAos_nodeId (s : State) (f : AosBlk → AosBlk) : (s.onAos f).nodeId = s.nodeId := rfl
@[simp] theorem onAos_out (s : State) (f : AosBlk → AosBlk) : (s.onAos f).out = s.out := rfl
@[simp] theorem onAos_freeCtr (s : State) (f : AosBlk → AosBlk) : (s.onAos f).freeCtr = s.freeCtr := rfl
@[simp] theorem onAos_pending (s : State) (f : AosBlk → AosBlk) : (s.onAos f).pending = s.pending := rfl
@[simp] theorem onAos_aos (s : State) (f : AosBlk → AosBlk) : (s.onAos f).aos = f s.aos := rfl
@[simp] theorem onSeqEnt_tick (s : State) (i : Nat) (f : SeqEnt → SeqEnt) : (s.onSeqEnt i f).tick = s.tick := rfl
@[simp] theorem onSeqEnt_variant (s : State) (i : Nat) (f : SeqEnt → SeqEnt) : (s.onSeqEnt i f).variant = s.variant := rfl
@[simp] theorem onSeqEnt_mstate (s : State) (i : Nat) (f : SeqEnt → SeqEnt) : (s.onSeqEnt i f).mstate = s.mstate := rfl
@[simp] theorem onSeqEnt_dies (s : State) (i : Nat) (f : SeqEnt → SeqEnt) : (s.onSeqEnt i f).dies = s.dies := rfl
@[simp] theorem onSeqEnt_arr (s : State) (i : Nat) (f : SeqEnt → SeqEnt) : (s.onSeqEnt i f).arr = s.arr := rfl
@[simp] theorem onSeqEnt_seq (s : State) (i : Nat) (f : SeqEnt → SeqEnt) : (s.onSeqEnt i f).seq = s.seq := rfl
@[simp] theorem onSeqEnt_mem (s : State) (i : Nat) (f : SeqEnt → SeqEnt) : (s.onSeqEnt i f).mem = s.mem := rfl
@[simp] theorem onSeqEnt_glv (s : State) (i : Nat) (f : SeqEnt → SeqEnt) : (s.onSeqEnt i f).glv = s.glv := rfl
@[simp] theorem onSeqEnt_ledger (s : State) (i : Nat) (f : SeqEnt → SeqEnt) : (s.onSeqEnt i f).ledger = s.ledger := rfl
@[simp] theorem onSeqEnt_rung (s : State) (i : Nat) (f : SeqEnt → SeqEnt) : (s.onSeqEnt i f).rung = s.rung := rfl
@[simp] theorem onSeqEnt_keys (s : State) (i : Nat) (f : SeqEnt → SeqEnt) : (s.onSeqEnt i f).keys = s.keys := rfl
@[simp] theorem onSeqEnt_net (s : State) (i : Nat) (f : SeqEnt → SeqEnt) : (s.onSeqEnt i f).net = s.net := rfl
@[simp] theorem onSeqEnt_host (s : State) (i : Nat) (f : SeqEnt → SeqEnt) : (s.onSeqEnt i f).host = s.host := rfl
@[simp] theorem onSeqEnt_aos (s : State) (i : Nat) (f : SeqEnt → SeqEnt) : (s.onSeqEnt i f).aos = s.aos := rfl
@[simp] theorem onSeqEnt_regs (s : State) (i : Nat) (f : SeqEnt → SeqEnt) : (s.onSeqEnt i f).regs = s.regs := rfl
@[simp] theorem onSeqEnt_nodeId (s : State) (i : Nat) (f : SeqEnt → SeqEnt) : (s.onSeqEnt i f).nodeId = s.nodeId := rfl
@[simp] theorem onSeqEnt_out (s : State) (i : Nat) (f : SeqEnt → SeqEnt) : (s.onSeqEnt i f).out = s.out := rfl
@[simp] theorem onSeqEnt_freeCtr (s : State) (i : Nat) (f : SeqEnt → SeqEnt) : (s.onSeqEnt i f).freeCtr = s.freeCtr := rfl
@[simp] theorem onSeqEnt_pending (s : State) (i : Nat) (f : SeqEnt → SeqEnt) : (s.onSeqEnt i f).pending = s.pending := rfl
@[simp] theorem onSeqEnt_stw (s : State) (i : Nat) (f : SeqEnt → SeqEnt) : (s.onSeqEnt i f).stw = { s.stw with seqt := s.stw.seqt.upd i f } := rfl
@[simp] theorem onServe_tick (s : State) (g : Nat) (f : ServeSt → ServeSt) : (s.onServe g f).tick = s.tick := rfl
@[simp] theorem onServe_variant (s : State) (g : Nat) (f : ServeSt → ServeSt) : (s.onServe g f).variant = s.variant := rfl
@[simp] theorem onServe_mstate (s : State) (g : Nat) (f : ServeSt → ServeSt) : (s.onServe g f).mstate = s.mstate := rfl
@[simp] theorem onServe_dies (s : State) (g : Nat) (f : ServeSt → ServeSt) : (s.onServe g f).dies = s.dies := rfl
@[simp] theorem onServe_arr (s : State) (g : Nat) (f : ServeSt → ServeSt) : (s.onServe g f).arr = s.arr := rfl
@[simp] theorem onServe_seq (s : State) (g : Nat) (f : ServeSt → ServeSt) : (s.onServe g f).seq = s.seq := rfl
@[simp] theorem onServe_mem (s : State) (g : Nat) (f : ServeSt → ServeSt) : (s.onServe g f).mem = s.mem := rfl
@[simp] theorem onServe_glv (s : State) (g : Nat) (f : ServeSt → ServeSt) : (s.onServe g f).glv = s.glv := rfl
@[simp] theorem onServe_ledger (s : State) (g : Nat) (f : ServeSt → ServeSt) : (s.onServe g f).ledger = s.ledger := rfl
@[simp] theorem onServe_rung (s : State) (g : Nat) (f : ServeSt → ServeSt) : (s.onServe g f).rung = s.rung := rfl
@[simp] theorem onServe_keys (s : State) (g : Nat) (f : ServeSt → ServeSt) : (s.onServe g f).keys = s.keys := rfl
@[simp] theorem onServe_net (s : State) (g : Nat) (f : ServeSt → ServeSt) : (s.onServe g f).net = s.net := rfl
@[simp] theorem onServe_host (s : State) (g : Nat) (f : ServeSt → ServeSt) : (s.onServe g f).host = s.host := rfl
@[simp] theorem onServe_aos (s : State) (g : Nat) (f : ServeSt → ServeSt) : (s.onServe g f).aos = s.aos := rfl
@[simp] theorem onServe_regs (s : State) (g : Nat) (f : ServeSt → ServeSt) : (s.onServe g f).regs = s.regs := rfl
@[simp] theorem onServe_nodeId (s : State) (g : Nat) (f : ServeSt → ServeSt) : (s.onServe g f).nodeId = s.nodeId := rfl
@[simp] theorem onServe_out (s : State) (g : Nat) (f : ServeSt → ServeSt) : (s.onServe g f).out = s.out := rfl
@[simp] theorem onServe_freeCtr (s : State) (g : Nat) (f : ServeSt → ServeSt) : (s.onServe g f).freeCtr = s.freeCtr := rfl
@[simp] theorem onServe_pending (s : State) (g : Nat) (f : ServeSt → ServeSt) : (s.onServe g f).pending = s.pending := rfl
@[simp] theorem onServe_stw (s : State) (g : Nat) (f : ServeSt → ServeSt) : (s.onServe g f).stw = { s.stw with serve := s.stw.serve.upd g f } := rfl
@[simp] theorem onPlan_tick (s : State) (p : Nat) (f : PlanSt → PlanSt) : (s.onPlan p f).tick = s.tick := rfl
@[simp] theorem onPlan_variant (s : State) (p : Nat) (f : PlanSt → PlanSt) : (s.onPlan p f).variant = s.variant := rfl
@[simp] theorem onPlan_mstate (s : State) (p : Nat) (f : PlanSt → PlanSt) : (s.onPlan p f).mstate = s.mstate := rfl
@[simp] theorem onPlan_dies (s : State) (p : Nat) (f : PlanSt → PlanSt) : (s.onPlan p f).dies = s.dies := rfl
@[simp] theorem onPlan_arr (s : State) (p : Nat) (f : PlanSt → PlanSt) : (s.onPlan p f).arr = s.arr := rfl
@[simp] theorem onPlan_seq (s : State) (p : Nat) (f : PlanSt → PlanSt) : (s.onPlan p f).seq = s.seq := rfl
@[simp] theorem onPlan_mem (s : State) (p : Nat) (f : PlanSt → PlanSt) : (s.onPlan p f).mem = s.mem := rfl
@[simp] theorem onPlan_glv (s : State) (p : Nat) (f : PlanSt → PlanSt) : (s.onPlan p f).glv = s.glv := rfl
@[simp] theorem onPlan_ledger (s : State) (p : Nat) (f : PlanSt → PlanSt) : (s.onPlan p f).ledger = s.ledger := rfl
@[simp] theorem onPlan_rung (s : State) (p : Nat) (f : PlanSt → PlanSt) : (s.onPlan p f).rung = s.rung := rfl
@[simp] theorem onPlan_keys (s : State) (p : Nat) (f : PlanSt → PlanSt) : (s.onPlan p f).keys = s.keys := rfl
@[simp] theorem onPlan_net (s : State) (p : Nat) (f : PlanSt → PlanSt) : (s.onPlan p f).net = s.net := rfl
@[simp] theorem onPlan_host (s : State) (p : Nat) (f : PlanSt → PlanSt) : (s.onPlan p f).host = s.host := rfl
@[simp] theorem onPlan_aos (s : State) (p : Nat) (f : PlanSt → PlanSt) : (s.onPlan p f).aos = s.aos := rfl
@[simp] theorem onPlan_regs (s : State) (p : Nat) (f : PlanSt → PlanSt) : (s.onPlan p f).regs = s.regs := rfl
@[simp] theorem onPlan_nodeId (s : State) (p : Nat) (f : PlanSt → PlanSt) : (s.onPlan p f).nodeId = s.nodeId := rfl
@[simp] theorem onPlan_out (s : State) (p : Nat) (f : PlanSt → PlanSt) : (s.onPlan p f).out = s.out := rfl
@[simp] theorem onPlan_freeCtr (s : State) (p : Nat) (f : PlanSt → PlanSt) : (s.onPlan p f).freeCtr = s.freeCtr := rfl
@[simp] theorem onPlan_pending (s : State) (p : Nat) (f : PlanSt → PlanSt) : (s.onPlan p f).pending = s.pending := rfl
@[simp] theorem onPlan_stw (s : State) (p : Nat) (f : PlanSt → PlanSt) : (s.onPlan p f).stw = { s.stw with plans := s.stw.plans.upd p f } := rfl
@[simp] theorem onModel_tick (s : State) (m : Nat) (f : MdlSt → MdlSt) : (s.onModel m f).tick = s.tick := rfl
@[simp] theorem onModel_variant (s : State) (m : Nat) (f : MdlSt → MdlSt) : (s.onModel m f).variant = s.variant := rfl
@[simp] theorem onModel_mstate (s : State) (m : Nat) (f : MdlSt → MdlSt) : (s.onModel m f).mstate = s.mstate := rfl
@[simp] theorem onModel_dies (s : State) (m : Nat) (f : MdlSt → MdlSt) : (s.onModel m f).dies = s.dies := rfl
@[simp] theorem onModel_arr (s : State) (m : Nat) (f : MdlSt → MdlSt) : (s.onModel m f).arr = s.arr := rfl
@[simp] theorem onModel_seq (s : State) (m : Nat) (f : MdlSt → MdlSt) : (s.onModel m f).seq = s.seq := rfl
@[simp] theorem onModel_mem (s : State) (m : Nat) (f : MdlSt → MdlSt) : (s.onModel m f).mem = s.mem := rfl
@[simp] theorem onModel_glv (s : State) (m : Nat) (f : MdlSt → MdlSt) : (s.onModel m f).glv = s.glv := rfl
@[simp] theorem onModel_ledger (s : State) (m : Nat) (f : MdlSt → MdlSt) : (s.onModel m f).ledger = s.ledger := rfl
@[simp] theorem onModel_rung (s : State) (m : Nat) (f : MdlSt → MdlSt) : (s.onModel m f).rung = s.rung := rfl
@[simp] theorem onModel_keys (s : State) (m : Nat) (f : MdlSt → MdlSt) : (s.onModel m f).keys = s.keys := rfl
@[simp] theorem onModel_net (s : State) (m : Nat) (f : MdlSt → MdlSt) : (s.onModel m f).net = s.net := rfl
@[simp] theorem onModel_host (s : State) (m : Nat) (f : MdlSt → MdlSt) : (s.onModel m f).host = s.host := rfl
@[simp] theorem onModel_aos (s : State) (m : Nat) (f : MdlSt → MdlSt) : (s.onModel m f).aos = s.aos := rfl
@[simp] theorem onModel_regs (s : State) (m : Nat) (f : MdlSt → MdlSt) : (s.onModel m f).regs = s.regs := rfl
@[simp] theorem onModel_nodeId (s : State) (m : Nat) (f : MdlSt → MdlSt) : (s.onModel m f).nodeId = s.nodeId := rfl
@[simp] theorem onModel_out (s : State) (m : Nat) (f : MdlSt → MdlSt) : (s.onModel m f).out = s.out := rfl
@[simp] theorem onModel_freeCtr (s : State) (m : Nat) (f : MdlSt → MdlSt) : (s.onModel m f).freeCtr = s.freeCtr := rfl
@[simp] theorem onModel_pending (s : State) (m : Nat) (f : MdlSt → MdlSt) : (s.onModel m f).pending = s.pending := rfl
@[simp] theorem onModel_stw (s : State) (m : Nat) (f : MdlSt → MdlSt) : (s.onModel m f).stw = { s.stw with models := s.stw.models.upd m f } := rfl
@[simp] theorem onAdapter_tick (s : State) (a : Nat) (f : AdpSt → AdpSt) : (s.onAdapter a f).tick = s.tick := rfl
@[simp] theorem onAdapter_variant (s : State) (a : Nat) (f : AdpSt → AdpSt) : (s.onAdapter a f).variant = s.variant := rfl
@[simp] theorem onAdapter_mstate (s : State) (a : Nat) (f : AdpSt → AdpSt) : (s.onAdapter a f).mstate = s.mstate := rfl
@[simp] theorem onAdapter_dies (s : State) (a : Nat) (f : AdpSt → AdpSt) : (s.onAdapter a f).dies = s.dies := rfl
@[simp] theorem onAdapter_arr (s : State) (a : Nat) (f : AdpSt → AdpSt) : (s.onAdapter a f).arr = s.arr := rfl
@[simp] theorem onAdapter_seq (s : State) (a : Nat) (f : AdpSt → AdpSt) : (s.onAdapter a f).seq = s.seq := rfl
@[simp] theorem onAdapter_mem (s : State) (a : Nat) (f : AdpSt → AdpSt) : (s.onAdapter a f).mem = s.mem := rfl
@[simp] theorem onAdapter_glv (s : State) (a : Nat) (f : AdpSt → AdpSt) : (s.onAdapter a f).glv = s.glv := rfl
@[simp] theorem onAdapter_ledger (s : State) (a : Nat) (f : AdpSt → AdpSt) : (s.onAdapter a f).ledger = s.ledger := rfl
@[simp] theorem onAdapter_rung (s : State) (a : Nat) (f : AdpSt → AdpSt) : (s.onAdapter a f).rung = s.rung := rfl
@[simp] theorem onAdapter_keys (s : State) (a : Nat) (f : AdpSt → AdpSt) : (s.onAdapter a f).keys = s.keys := rfl
@[simp] theorem onAdapter_net (s : State) (a : Nat) (f : AdpSt → AdpSt) : (s.onAdapter a f).net = s.net := rfl
@[simp] theorem onAdapter_host (s : State) (a : Nat) (f : AdpSt → AdpSt) : (s.onAdapter a f).host = s.host := rfl
@[simp] theorem onAdapter_aos (s : State) (a : Nat) (f : AdpSt → AdpSt) : (s.onAdapter a f).aos = s.aos := rfl
@[simp] theorem onAdapter_regs (s : State) (a : Nat) (f : AdpSt → AdpSt) : (s.onAdapter a f).regs = s.regs := rfl
@[simp] theorem onAdapter_nodeId (s : State) (a : Nat) (f : AdpSt → AdpSt) : (s.onAdapter a f).nodeId = s.nodeId := rfl
@[simp] theorem onAdapter_out (s : State) (a : Nat) (f : AdpSt → AdpSt) : (s.onAdapter a f).out = s.out := rfl
@[simp] theorem onAdapter_freeCtr (s : State) (a : Nat) (f : AdpSt → AdpSt) : (s.onAdapter a f).freeCtr = s.freeCtr := rfl
@[simp] theorem onAdapter_pending (s : State) (a : Nat) (f : AdpSt → AdpSt) : (s.onAdapter a f).pending = s.pending := rfl
@[simp] theorem onAdapter_stw (s : State) (a : Nat) (f : AdpSt → AdpSt) : (s.onAdapter a f).stw = { s.stw with adapters := s.stw.adapters.upd a f } := rfl
@[simp] theorem onNode_tick (s : State) (n : Nat) (f : NodeSt → NodeSt) : (s.onNode n f).tick = s.tick := rfl
@[simp] theorem onNode_variant (s : State) (n : Nat) (f : NodeSt → NodeSt) : (s.onNode n f).variant = s.variant := rfl
@[simp] theorem onNode_mstate (s : State) (n : Nat) (f : NodeSt → NodeSt) : (s.onNode n f).mstate = s.mstate := rfl
@[simp] theorem onNode_dies (s : State) (n : Nat) (f : NodeSt → NodeSt) : (s.onNode n f).dies = s.dies := rfl
@[simp] theorem onNode_arr (s : State) (n : Nat) (f : NodeSt → NodeSt) : (s.onNode n f).arr = s.arr := rfl
@[simp] theorem onNode_seq (s : State) (n : Nat) (f : NodeSt → NodeSt) : (s.onNode n f).seq = s.seq := rfl
@[simp] theorem onNode_mem (s : State) (n : Nat) (f : NodeSt → NodeSt) : (s.onNode n f).mem = s.mem := rfl
@[simp] theorem onNode_glv (s : State) (n : Nat) (f : NodeSt → NodeSt) : (s.onNode n f).glv = s.glv := rfl
@[simp] theorem onNode_ledger (s : State) (n : Nat) (f : NodeSt → NodeSt) : (s.onNode n f).ledger = s.ledger := rfl
@[simp] theorem onNode_rung (s : State) (n : Nat) (f : NodeSt → NodeSt) : (s.onNode n f).rung = s.rung := rfl
@[simp] theorem onNode_keys (s : State) (n : Nat) (f : NodeSt → NodeSt) : (s.onNode n f).keys = s.keys := rfl
@[simp] theorem onNode_net (s : State) (n : Nat) (f : NodeSt → NodeSt) : (s.onNode n f).net = s.net := rfl
@[simp] theorem onNode_host (s : State) (n : Nat) (f : NodeSt → NodeSt) : (s.onNode n f).host = s.host := rfl
@[simp] theorem onNode_aos (s : State) (n : Nat) (f : NodeSt → NodeSt) : (s.onNode n f).aos = s.aos := rfl
@[simp] theorem onNode_regs (s : State) (n : Nat) (f : NodeSt → NodeSt) : (s.onNode n f).regs = s.regs := rfl
@[simp] theorem onNode_nodeId (s : State) (n : Nat) (f : NodeSt → NodeSt) : (s.onNode n f).nodeId = s.nodeId := rfl
@[simp] theorem onNode_out (s : State) (n : Nat) (f : NodeSt → NodeSt) : (s.onNode n f).out = s.out := rfl
@[simp] theorem onNode_freeCtr (s : State) (n : Nat) (f : NodeSt → NodeSt) : (s.onNode n f).freeCtr = s.freeCtr := rfl
@[simp] theorem onNode_pending (s : State) (n : Nat) (f : NodeSt → NodeSt) : (s.onNode n f).pending = s.pending := rfl
@[simp] theorem onNode_stw (s : State) (n : Nat) (f : NodeSt → NodeSt) : (s.onNode n f).stw = { s.stw with nodes := s.stw.nodes.upd n f } := rfl
@[simp] theorem onLink_tick (s : State) (l : Nat) (f : LinkSt → LinkSt) : (s.onLink l f).tick = s.tick := rfl
@[simp] theorem onLink_variant (s : State) (l : Nat) (f : LinkSt → LinkSt) : (s.onLink l f).variant = s.variant := rfl
@[simp] theorem onLink_mstate (s : State) (l : Nat) (f : LinkSt → LinkSt) : (s.onLink l f).mstate = s.mstate := rfl
@[simp] theorem onLink_dies (s : State) (l : Nat) (f : LinkSt → LinkSt) : (s.onLink l f).dies = s.dies := rfl
@[simp] theorem onLink_arr (s : State) (l : Nat) (f : LinkSt → LinkSt) : (s.onLink l f).arr = s.arr := rfl
@[simp] theorem onLink_seq (s : State) (l : Nat) (f : LinkSt → LinkSt) : (s.onLink l f).seq = s.seq := rfl
@[simp] theorem onLink_mem (s : State) (l : Nat) (f : LinkSt → LinkSt) : (s.onLink l f).mem = s.mem := rfl
@[simp] theorem onLink_glv (s : State) (l : Nat) (f : LinkSt → LinkSt) : (s.onLink l f).glv = s.glv := rfl
@[simp] theorem onLink_ledger (s : State) (l : Nat) (f : LinkSt → LinkSt) : (s.onLink l f).ledger = s.ledger := rfl
@[simp] theorem onLink_rung (s : State) (l : Nat) (f : LinkSt → LinkSt) : (s.onLink l f).rung = s.rung := rfl
@[simp] theorem onLink_keys (s : State) (l : Nat) (f : LinkSt → LinkSt) : (s.onLink l f).keys = s.keys := rfl
@[simp] theorem onLink_stw (s : State) (l : Nat) (f : LinkSt → LinkSt) : (s.onLink l f).stw = s.stw := rfl
@[simp] theorem onLink_host (s : State) (l : Nat) (f : LinkSt → LinkSt) : (s.onLink l f).host = s.host := rfl
@[simp] theorem onLink_aos (s : State) (l : Nat) (f : LinkSt → LinkSt) : (s.onLink l f).aos = s.aos := rfl
@[simp] theorem onLink_regs (s : State) (l : Nat) (f : LinkSt → LinkSt) : (s.onLink l f).regs = s.regs := rfl
@[simp] theorem onLink_nodeId (s : State) (l : Nat) (f : LinkSt → LinkSt) : (s.onLink l f).nodeId = s.nodeId := rfl
@[simp] theorem onLink_out (s : State) (l : Nat) (f : LinkSt → LinkSt) : (s.onLink l f).out = s.out := rfl
@[simp] theorem onLink_freeCtr (s : State) (l : Nat) (f : LinkSt → LinkSt) : (s.onLink l f).freeCtr = s.freeCtr := rfl
@[simp] theorem onLink_pending (s : State) (l : Nat) (f : LinkSt → LinkSt) : (s.onLink l f).pending = s.pending := rfl
@[simp] theorem onLink_net (s : State) (l : Nat) (f : LinkSt → LinkSt) : (s.onLink l f).net = { s.net with links := s.net.links.upd l f } := rfl
@[simp] theorem onWorker_tick (s : State) (p : Nat) (f : WrkSt → WrkSt) : (s.onWorker p f).tick = s.tick := rfl
@[simp] theorem onWorker_variant (s : State) (p : Nat) (f : WrkSt → WrkSt) : (s.onWorker p f).variant = s.variant := rfl
@[simp] theorem onWorker_mstate (s : State) (p : Nat) (f : WrkSt → WrkSt) : (s.onWorker p f).mstate = s.mstate := rfl
@[simp] theorem onWorker_dies (s : State) (p : Nat) (f : WrkSt → WrkSt) : (s.onWorker p f).dies = s.dies := rfl
@[simp] theorem onWorker_arr (s : State) (p : Nat) (f : WrkSt → WrkSt) : (s.onWorker p f).arr = s.arr := rfl
@[simp] theorem onWorker_seq (s : State) (p : Nat) (f : WrkSt → WrkSt) : (s.onWorker p f).seq = s.seq := rfl
@[simp] theorem onWorker_mem (s : State) (p : Nat) (f : WrkSt → WrkSt) : (s.onWorker p f).mem = s.mem := rfl
@[simp] theorem onWorker_glv (s : State) (p : Nat) (f : WrkSt → WrkSt) : (s.onWorker p f).glv = s.glv := rfl
@[simp] theorem onWorker_ledger (s : State) (p : Nat) (f : WrkSt → WrkSt) : (s.onWorker p f).ledger = s.ledger := rfl
@[simp] theorem onWorker_rung (s : State) (p : Nat) (f : WrkSt → WrkSt) : (s.onWorker p f).rung = s.rung := rfl
@[simp] theorem onWorker_keys (s : State) (p : Nat) (f : WrkSt → WrkSt) : (s.onWorker p f).keys = s.keys := rfl
@[simp] theorem onWorker_stw (s : State) (p : Nat) (f : WrkSt → WrkSt) : (s.onWorker p f).stw = s.stw := rfl
@[simp] theorem onWorker_host (s : State) (p : Nat) (f : WrkSt → WrkSt) : (s.onWorker p f).host = s.host := rfl
@[simp] theorem onWorker_aos (s : State) (p : Nat) (f : WrkSt → WrkSt) : (s.onWorker p f).aos = s.aos := rfl
@[simp] theorem onWorker_regs (s : State) (p : Nat) (f : WrkSt → WrkSt) : (s.onWorker p f).regs = s.regs := rfl
@[simp] theorem onWorker_nodeId (s : State) (p : Nat) (f : WrkSt → WrkSt) : (s.onWorker p f).nodeId = s.nodeId := rfl
@[simp] theorem onWorker_out (s : State) (p : Nat) (f : WrkSt → WrkSt) : (s.onWorker p f).out = s.out := rfl
@[simp] theorem onWorker_freeCtr (s : State) (p : Nat) (f : WrkSt → WrkSt) : (s.onWorker p f).freeCtr = s.freeCtr := rfl
@[simp] theorem onWorker_pending (s : State) (p : Nat) (f : WrkSt → WrkSt) : (s.onWorker p f).pending = s.pending := rfl
@[simp] theorem onWorker_net (s : State) (p : Nat) (f : WrkSt → WrkSt) : (s.onWorker p f).net = { s.net with workers := s.net.workers.upd p f } := rfl
@[simp] theorem onCq_tick (s : State) (c : Nat) (f : CplRing → CplRing) : (s.onCq c f).tick = s.tick := rfl
@[simp] theorem onCq_variant (s : State) (c : Nat) (f : CplRing → CplRing) : (s.onCq c f).variant = s.variant := rfl
@[simp] theorem onCq_mstate (s : State) (c : Nat) (f : CplRing → CplRing) : (s.onCq c f).mstate = s.mstate := rfl
@[simp] theorem onCq_dies (s : State) (c : Nat) (f : CplRing → CplRing) : (s.onCq c f).dies = s.dies := rfl
@[simp] theorem onCq_arr (s : State) (c : Nat) (f : CplRing → CplRing) : (s.onCq c f).arr = s.arr := rfl
@[simp] theorem onCq_seq (s : State) (c : Nat) (f : CplRing → CplRing) : (s.onCq c f).seq = s.seq := rfl
@[simp] theorem onCq_mem (s : State) (c : Nat) (f : CplRing → CplRing) : (s.onCq c f).mem = s.mem := rfl
@[simp] theorem onCq_glv (s : State) (c : Nat) (f : CplRing → CplRing) : (s.onCq c f).glv = s.glv := rfl
@[simp] theorem onCq_ledger (s : State) (c : Nat) (f : CplRing → CplRing) : (s.onCq c f).ledger = s.ledger := rfl
@[simp] theorem onCq_rung (s : State) (c : Nat) (f : CplRing → CplRing) : (s.onCq c f).rung = s.rung := rfl
@[simp] theorem onCq_keys (s : State) (c : Nat) (f : CplRing → CplRing) : (s.onCq c f).keys = s.keys := rfl
@[simp] theorem onCq_stw (s : State) (c : Nat) (f : CplRing → CplRing) : (s.onCq c f).stw = s.stw := rfl
@[simp] theorem onCq_net (s : State) (c : Nat) (f : CplRing → CplRing) : (s.onCq c f).net = s.net := rfl
@[simp] theorem onCq_aos (s : State) (c : Nat) (f : CplRing → CplRing) : (s.onCq c f).aos = s.aos := rfl
@[simp] theorem onCq_regs (s : State) (c : Nat) (f : CplRing → CplRing) : (s.onCq c f).regs = s.regs := rfl
@[simp] theorem onCq_nodeId (s : State) (c : Nat) (f : CplRing → CplRing) : (s.onCq c f).nodeId = s.nodeId := rfl
@[simp] theorem onCq_out (s : State) (c : Nat) (f : CplRing → CplRing) : (s.onCq c f).out = s.out := rfl
@[simp] theorem onCq_freeCtr (s : State) (c : Nat) (f : CplRing → CplRing) : (s.onCq c f).freeCtr = s.freeCtr := rfl
@[simp] theorem onCq_pending (s : State) (c : Nat) (f : CplRing → CplRing) : (s.onCq c f).pending = s.pending := rfl
@[simp] theorem onCq_host (s : State) (c : Nat) (f : CplRing → CplRing) : (s.onCq c f).host = { s.host with cqs := s.host.cqs.upd c f } := rfl
@[simp] theorem onPalm_tick (s : State) (p : Nat) (f : PalmSt → PalmSt) : (s.onPalm p f).tick = s.tick := rfl
@[simp] theorem onPalm_variant (s : State) (p : Nat) (f : PalmSt → PalmSt) : (s.onPalm p f).variant = s.variant := rfl
@[simp] theorem onPalm_mstate (s : State) (p : Nat) (f : PalmSt → PalmSt) : (s.onPalm p f).mstate = s.mstate := rfl
@[simp] theorem onPalm_dies (s : State) (p : Nat) (f : PalmSt → PalmSt) : (s.onPalm p f).dies = s.dies := rfl
@[simp] theorem onPalm_seq (s : State) (p : Nat) (f : PalmSt → PalmSt) : (s.onPalm p f).seq = s.seq := rfl
@[simp] theorem onPalm_mem (s : State) (p : Nat) (f : PalmSt → PalmSt) : (s.onPalm p f).mem = s.mem := rfl
@[simp] theorem onPalm_glv (s : State) (p : Nat) (f : PalmSt → PalmSt) : (s.onPalm p f).glv = s.glv := rfl
@[simp] theorem onPalm_ledger (s : State) (p : Nat) (f : PalmSt → PalmSt) : (s.onPalm p f).ledger = s.ledger := rfl
@[simp] theorem onPalm_rung (s : State) (p : Nat) (f : PalmSt → PalmSt) : (s.onPalm p f).rung = s.rung := rfl
@[simp] theorem onPalm_keys (s : State) (p : Nat) (f : PalmSt → PalmSt) : (s.onPalm p f).keys = s.keys := rfl
@[simp] theorem onPalm_stw (s : State) (p : Nat) (f : PalmSt → PalmSt) : (s.onPalm p f).stw = s.stw := rfl
@[simp] theorem onPalm_net (s : State) (p : Nat) (f : PalmSt → PalmSt) : (s.onPalm p f).net = s.net := rfl
@[simp] theorem onPalm_host (s : State) (p : Nat) (f : PalmSt → PalmSt) : (s.onPalm p f).host = s.host := rfl
@[simp] theorem onPalm_aos (s : State) (p : Nat) (f : PalmSt → PalmSt) : (s.onPalm p f).aos = s.aos := rfl
@[simp] theorem onPalm_regs (s : State) (p : Nat) (f : PalmSt → PalmSt) : (s.onPalm p f).regs = s.regs := rfl
@[simp] theorem onPalm_nodeId (s : State) (p : Nat) (f : PalmSt → PalmSt) : (s.onPalm p f).nodeId = s.nodeId := rfl
@[simp] theorem onPalm_out (s : State) (p : Nat) (f : PalmSt → PalmSt) : (s.onPalm p f).out = s.out := rfl
@[simp] theorem onPalm_freeCtr (s : State) (p : Nat) (f : PalmSt → PalmSt) : (s.onPalm p f).freeCtr = s.freeCtr := rfl
@[simp] theorem onPalm_pending (s : State) (p : Nat) (f : PalmSt → PalmSt) : (s.onPalm p f).pending = s.pending := rfl
@[simp] theorem onPalm_arr (s : State) (p : Nat) (f : PalmSt → PalmSt) : (s.onPalm p f).arr = { s.arr with palms := s.arr.palms.upd p f } := rfl
@[simp] theorem onCell_tick (s : State) (k : Nat) (f : CellSt → CellSt) : (s.onCell k f).tick = s.tick := rfl
@[simp] theorem onCell_variant (s : State) (k : Nat) (f : CellSt → CellSt) : (s.onCell k f).variant = s.variant := rfl
@[simp] theorem onCell_mstate (s : State) (k : Nat) (f : CellSt → CellSt) : (s.onCell k f).mstate = s.mstate := rfl
@[simp] theorem onCell_dies (s : State) (k : Nat) (f : CellSt → CellSt) : (s.onCell k f).dies = s.dies := rfl
@[simp] theorem onCell_seq (s : State) (k : Nat) (f : CellSt → CellSt) : (s.onCell k f).seq = s.seq := rfl
@[simp] theorem onCell_mem (s : State) (k : Nat) (f : CellSt → CellSt) : (s.onCell k f).mem = s.mem := rfl
@[simp] theorem onCell_glv (s : State) (k : Nat) (f : CellSt → CellSt) : (s.onCell k f).glv = s.glv := rfl
@[simp] theorem onCell_ledger (s : State) (k : Nat) (f : CellSt → CellSt) : (s.onCell k f).ledger = s.ledger := rfl
@[simp] theorem onCell_rung (s : State) (k : Nat) (f : CellSt → CellSt) : (s.onCell k f).rung = s.rung := rfl
@[simp] theorem onCell_keys (s : State) (k : Nat) (f : CellSt → CellSt) : (s.onCell k f).keys = s.keys := rfl
@[simp] theorem onCell_stw (s : State) (k : Nat) (f : CellSt → CellSt) : (s.onCell k f).stw = s.stw := rfl
@[simp] theorem onCell_net (s : State) (k : Nat) (f : CellSt → CellSt) : (s.onCell k f).net = s.net := rfl
@[simp] theorem onCell_host (s : State) (k : Nat) (f : CellSt → CellSt) : (s.onCell k f).host = s.host := rfl
@[simp] theorem onCell_aos (s : State) (k : Nat) (f : CellSt → CellSt) : (s.onCell k f).aos = s.aos := rfl
@[simp] theorem onCell_regs (s : State) (k : Nat) (f : CellSt → CellSt) : (s.onCell k f).regs = s.regs := rfl
@[simp] theorem onCell_nodeId (s : State) (k : Nat) (f : CellSt → CellSt) : (s.onCell k f).nodeId = s.nodeId := rfl
@[simp] theorem onCell_out (s : State) (k : Nat) (f : CellSt → CellSt) : (s.onCell k f).out = s.out := rfl
@[simp] theorem onCell_freeCtr (s : State) (k : Nat) (f : CellSt → CellSt) : (s.onCell k f).freeCtr = s.freeCtr := rfl
@[simp] theorem onCell_pending (s : State) (k : Nat) (f : CellSt → CellSt) : (s.onCell k f).pending = s.pending := rfl
@[simp] theorem onCell_arr (s : State) (k : Nat) (f : CellSt → CellSt) : (s.onCell k f).arr = { s.arr with cells := s.arr.cells.upd k f } := rfl
@[simp] theorem onMCell_tick (s : State) (g : Nat) (f : MCellSt → MCellSt) : (s.onMCell g f).tick = s.tick := rfl
@[simp] theorem onMCell_variant (s : State) (g : Nat) (f : MCellSt → MCellSt) : (s.onMCell g f).variant = s.variant := rfl
@[simp] theorem onMCell_mstate (s : State) (g : Nat) (f : MCellSt → MCellSt) : (s.onMCell g f).mstate = s.mstate := rfl
@[simp] theorem onMCell_dies (s : State) (g : Nat) (f : MCellSt → MCellSt) : (s.onMCell g f).dies = s.dies := rfl
@[simp] theorem onMCell_seq (s : State) (g : Nat) (f : MCellSt → MCellSt) : (s.onMCell g f).seq = s.seq := rfl
@[simp] theorem onMCell_mem (s : State) (g : Nat) (f : MCellSt → MCellSt) : (s.onMCell g f).mem = s.mem := rfl
@[simp] theorem onMCell_glv (s : State) (g : Nat) (f : MCellSt → MCellSt) : (s.onMCell g f).glv = s.glv := rfl
@[simp] theorem onMCell_ledger (s : State) (g : Nat) (f : MCellSt → MCellSt) : (s.onMCell g f).ledger = s.ledger := rfl
@[simp] theorem onMCell_rung (s : State) (g : Nat) (f : MCellSt → MCellSt) : (s.onMCell g f).rung = s.rung := rfl
@[simp] theorem onMCell_keys (s : State) (g : Nat) (f : MCellSt → MCellSt) : (s.onMCell g f).keys = s.keys := rfl
@[simp] theorem onMCell_stw (s : State) (g : Nat) (f : MCellSt → MCellSt) : (s.onMCell g f).stw = s.stw := rfl
@[simp] theorem onMCell_net (s : State) (g : Nat) (f : MCellSt → MCellSt) : (s.onMCell g f).net = s.net := rfl
@[simp] theorem onMCell_host (s : State) (g : Nat) (f : MCellSt → MCellSt) : (s.onMCell g f).host = s.host := rfl
@[simp] theorem onMCell_aos (s : State) (g : Nat) (f : MCellSt → MCellSt) : (s.onMCell g f).aos = s.aos := rfl
@[simp] theorem onMCell_regs (s : State) (g : Nat) (f : MCellSt → MCellSt) : (s.onMCell g f).regs = s.regs := rfl
@[simp] theorem onMCell_nodeId (s : State) (g : Nat) (f : MCellSt → MCellSt) : (s.onMCell g f).nodeId = s.nodeId := rfl
@[simp] theorem onMCell_out (s : State) (g : Nat) (f : MCellSt → MCellSt) : (s.onMCell g f).out = s.out := rfl
@[simp] theorem onMCell_freeCtr (s : State) (g : Nat) (f : MCellSt → MCellSt) : (s.onMCell g f).freeCtr = s.freeCtr := rfl
@[simp] theorem onMCell_pending (s : State) (g : Nat) (f : MCellSt → MCellSt) : (s.onMCell g f).pending = s.pending := rfl
@[simp] theorem onMCell_arr (s : State) (g : Nat) (f : MCellSt → MCellSt) : (s.onMCell g f).arr = { s.arr with mcells := s.arr.mcells.upd g f } := rfl
@[simp] theorem onPat_tick (s : State) (g : Nat) (f : PatSt → PatSt) : (s.onPat g f).tick = s.tick := rfl
@[simp] theorem onPat_variant (s : State) (g : Nat) (f : PatSt → PatSt) : (s.onPat g f).variant = s.variant := rfl
@[simp] theorem onPat_mstate (s : State) (g : Nat) (f : PatSt → PatSt) : (s.onPat g f).mstate = s.mstate := rfl
@[simp] theorem onPat_dies (s : State) (g : Nat) (f : PatSt → PatSt) : (s.onPat g f).dies = s.dies := rfl
@[simp] theorem onPat_arr (s : State) (g : Nat) (f : PatSt → PatSt) : (s.onPat g f).arr = s.arr := rfl
@[simp] theorem onPat_mem (s : State) (g : Nat) (f : PatSt → PatSt) : (s.onPat g f).mem = s.mem := rfl
@[simp] theorem onPat_glv (s : State) (g : Nat) (f : PatSt → PatSt) : (s.onPat g f).glv = s.glv := rfl
@[simp] theorem onPat_ledger (s : State) (g : Nat) (f : PatSt → PatSt) : (s.onPat g f).ledger = s.ledger := rfl
@[simp] theorem onPat_rung (s : State) (g : Nat) (f : PatSt → PatSt) : (s.onPat g f).rung = s.rung := rfl
@[simp] theorem onPat_keys (s : State) (g : Nat) (f : PatSt → PatSt) : (s.onPat g f).keys = s.keys := rfl
@[simp] theorem onPat_stw (s : State) (g : Nat) (f : PatSt → PatSt) : (s.onPat g f).stw = s.stw := rfl
@[simp] theorem onPat_net (s : State) (g : Nat) (f : PatSt → PatSt) : (s.onPat g f).net = s.net := rfl
@[simp] theorem onPat_host (s : State) (g : Nat) (f : PatSt → PatSt) : (s.onPat g f).host = s.host := rfl
@[simp] theorem onPat_aos (s : State) (g : Nat) (f : PatSt → PatSt) : (s.onPat g f).aos = s.aos := rfl
@[simp] theorem onPat_regs (s : State) (g : Nat) (f : PatSt → PatSt) : (s.onPat g f).regs = s.regs := rfl
@[simp] theorem onPat_nodeId (s : State) (g : Nat) (f : PatSt → PatSt) : (s.onPat g f).nodeId = s.nodeId := rfl
@[simp] theorem onPat_out (s : State) (g : Nat) (f : PatSt → PatSt) : (s.onPat g f).out = s.out := rfl
@[simp] theorem onPat_freeCtr (s : State) (g : Nat) (f : PatSt → PatSt) : (s.onPat g f).freeCtr = s.freeCtr := rfl
@[simp] theorem onPat_pending (s : State) (g : Nat) (f : PatSt → PatSt) : (s.onPat g f).pending = s.pending := rfl
@[simp] theorem onPat_seq (s : State) (g : Nat) (f : PatSt → PatSt) : (s.onPat g f).seq = { s.seq with pats := s.seq.pats.upd g f } := rfl
@[simp] theorem onGsq_tick (s : State) (q : Nat) (f : GsqSt → GsqSt) : (s.onGsq q f).tick = s.tick := rfl
@[simp] theorem onGsq_variant (s : State) (q : Nat) (f : GsqSt → GsqSt) : (s.onGsq q f).variant = s.variant := rfl
@[simp] theorem onGsq_mstate (s : State) (q : Nat) (f : GsqSt → GsqSt) : (s.onGsq q f).mstate = s.mstate := rfl
@[simp] theorem onGsq_dies (s : State) (q : Nat) (f : GsqSt → GsqSt) : (s.onGsq q f).dies = s.dies := rfl
@[simp] theorem onGsq_arr (s : State) (q : Nat) (f : GsqSt → GsqSt) : (s.onGsq q f).arr = s.arr := rfl
@[simp] theorem onGsq_mem (s : State) (q : Nat) (f : GsqSt → GsqSt) : (s.onGsq q f).mem = s.mem := rfl
@[simp] theorem onGsq_glv (s : State) (q : Nat) (f : GsqSt → GsqSt) : (s.onGsq q f).glv = s.glv := rfl
@[simp] theorem onGsq_ledger (s : State) (q : Nat) (f : GsqSt → GsqSt) : (s.onGsq q f).ledger = s.ledger := rfl
@[simp] theorem onGsq_rung (s : State) (q : Nat) (f : GsqSt → GsqSt) : (s.onGsq q f).rung = s.rung := rfl
@[simp] theorem onGsq_keys (s : State) (q : Nat) (f : GsqSt → GsqSt) : (s.onGsq q f).keys = s.keys := rfl
@[simp] theorem onGsq_stw (s : State) (q : Nat) (f : GsqSt → GsqSt) : (s.onGsq q f).stw = s.stw := rfl
@[simp] theorem onGsq_net (s : State) (q : Nat) (f : GsqSt → GsqSt) : (s.onGsq q f).net = s.net := rfl
@[simp] theorem onGsq_host (s : State) (q : Nat) (f : GsqSt → GsqSt) : (s.onGsq q f).host = s.host := rfl
@[simp] theorem onGsq_aos (s : State) (q : Nat) (f : GsqSt → GsqSt) : (s.onGsq q f).aos = s.aos := rfl
@[simp] theorem onGsq_regs (s : State) (q : Nat) (f : GsqSt → GsqSt) : (s.onGsq q f).regs = s.regs := rfl
@[simp] theorem onGsq_nodeId (s : State) (q : Nat) (f : GsqSt → GsqSt) : (s.onGsq q f).nodeId = s.nodeId := rfl
@[simp] theorem onGsq_out (s : State) (q : Nat) (f : GsqSt → GsqSt) : (s.onGsq q f).out = s.out := rfl
@[simp] theorem onGsq_freeCtr (s : State) (q : Nat) (f : GsqSt → GsqSt) : (s.onGsq q f).freeCtr = s.freeCtr := rfl
@[simp] theorem onGsq_pending (s : State) (q : Nat) (f : GsqSt → GsqSt) : (s.onGsq q f).pending = s.pending := rfl
@[simp] theorem onGsq_seq (s : State) (q : Nat) (f : GsqSt → GsqSt) : (s.onGsq q f).seq = { s.seq with gsq := s.seq.gsq.upd q f } := rfl
@[simp] theorem onFrame_tick (s : State) (f : Nat) (g : FrameSt → FrameSt) : (s.onFrame f g).tick = s.tick := rfl
@[simp] theorem onFrame_variant (s : State) (f : Nat) (g : FrameSt → FrameSt) : (s.onFrame f g).variant = s.variant := rfl
@[simp] theorem onFrame_mstate (s : State) (f : Nat) (g : FrameSt → FrameSt) : (s.onFrame f g).mstate = s.mstate := rfl
@[simp] theorem onFrame_dies (s : State) (f : Nat) (g : FrameSt → FrameSt) : (s.onFrame f g).dies = s.dies := rfl
@[simp] theorem onFrame_arr (s : State) (f : Nat) (g : FrameSt → FrameSt) : (s.onFrame f g).arr = s.arr := rfl
@[simp] theorem onFrame_seq (s : State) (f : Nat) (g : FrameSt → FrameSt) : (s.onFrame f g).seq = s.seq := rfl
@[simp] theorem onFrame_glv (s : State) (f : Nat) (g : FrameSt → FrameSt) : (s.onFrame f g).glv = s.glv := rfl
@[simp] theorem onFrame_ledger (s : State) (f : Nat) (g : FrameSt → FrameSt) : (s.onFrame f g).ledger = s.ledger := rfl
@[simp] theorem onFrame_rung (s : State) (f : Nat) (g : FrameSt → FrameSt) : (s.onFrame f g).rung = s.rung := rfl
@[simp] theorem onFrame_keys (s : State) (f : Nat) (g : FrameSt → FrameSt) : (s.onFrame f g).keys = s.keys := rfl
@[simp] theorem onFrame_stw (s : State) (f : Nat) (g : FrameSt → FrameSt) : (s.onFrame f g).stw = s.stw := rfl
@[simp] theorem onFrame_net (s : State) (f : Nat) (g : FrameSt → FrameSt) : (s.onFrame f g).net = s.net := rfl
@[simp] theorem onFrame_host (s : State) (f : Nat) (g : FrameSt → FrameSt) : (s.onFrame f g).host = s.host := rfl
@[simp] theorem onFrame_aos (s : State) (f : Nat) (g : FrameSt → FrameSt) : (s.onFrame f g).aos = s.aos := rfl
@[simp] theorem onFrame_regs (s : State) (f : Nat) (g : FrameSt → FrameSt) : (s.onFrame f g).regs = s.regs := rfl
@[simp] theorem onFrame_nodeId (s : State) (f : Nat) (g : FrameSt → FrameSt) : (s.onFrame f g).nodeId = s.nodeId := rfl
@[simp] theorem onFrame_out (s : State) (f : Nat) (g : FrameSt → FrameSt) : (s.onFrame f g).out = s.out := rfl
@[simp] theorem onFrame_freeCtr (s : State) (f : Nat) (g : FrameSt → FrameSt) : (s.onFrame f g).freeCtr = s.freeCtr := rfl
@[simp] theorem onFrame_pending (s : State) (f : Nat) (g : FrameSt → FrameSt) : (s.onFrame f g).pending = s.pending := rfl
@[simp] theorem onFrame_mem (s : State) (f : Nat) (g : FrameSt → FrameSt) : (s.onFrame f g).mem = { s.mem with tmap := s.mem.tmap.upd f g } := rfl
@[simp] theorem onStack_tick (s : State) (n : Nat) (f : StackSt → StackSt) : (s.onStack n f).tick = s.tick := rfl
@[simp] theorem onStack_variant (s : State) (n : Nat) (f : StackSt → StackSt) : (s.onStack n f).variant = s.variant := rfl
@[simp] theorem onStack_mstate (s : State) (n : Nat) (f : StackSt → StackSt) : (s.onStack n f).mstate = s.mstate := rfl
@[simp] theorem onStack_dies (s : State) (n : Nat) (f : StackSt → StackSt) : (s.onStack n f).dies = s.dies := rfl
@[simp] theorem onStack_arr (s : State) (n : Nat) (f : StackSt → StackSt) : (s.onStack n f).arr = s.arr := rfl
@[simp] theorem onStack_seq (s : State) (n : Nat) (f : StackSt → StackSt) : (s.onStack n f).seq = s.seq := rfl
@[simp] theorem onStack_glv (s : State) (n : Nat) (f : StackSt → StackSt) : (s.onStack n f).glv = s.glv := rfl
@[simp] theorem onStack_ledger (s : State) (n : Nat) (f : StackSt → StackSt) : (s.onStack n f).ledger = s.ledger := rfl
@[simp] theorem onStack_rung (s : State) (n : Nat) (f : StackSt → StackSt) : (s.onStack n f).rung = s.rung := rfl
@[simp] theorem onStack_keys (s : State) (n : Nat) (f : StackSt → StackSt) : (s.onStack n f).keys = s.keys := rfl
@[simp] theorem onStack_stw (s : State) (n : Nat) (f : StackSt → StackSt) : (s.onStack n f).stw = s.stw := rfl
@[simp] theorem onStack_net (s : State) (n : Nat) (f : StackSt → StackSt) : (s.onStack n f).net = s.net := rfl
@[simp] theorem onStack_host (s : State) (n : Nat) (f : StackSt → StackSt) : (s.onStack n f).host = s.host := rfl
@[simp] theorem onStack_aos (s : State) (n : Nat) (f : StackSt → StackSt) : (s.onStack n f).aos = s.aos := rfl
@[simp] theorem onStack_regs (s : State) (n : Nat) (f : StackSt → StackSt) : (s.onStack n f).regs = s.regs := rfl
@[simp] theorem onStack_nodeId (s : State) (n : Nat) (f : StackSt → StackSt) : (s.onStack n f).nodeId = s.nodeId := rfl
@[simp] theorem onStack_out (s : State) (n : Nat) (f : StackSt → StackSt) : (s.onStack n f).out = s.out := rfl
@[simp] theorem onStack_freeCtr (s : State) (n : Nat) (f : StackSt → StackSt) : (s.onStack n f).freeCtr = s.freeCtr := rfl
@[simp] theorem onStack_pending (s : State) (n : Nat) (f : StackSt → StackSt) : (s.onStack n f).pending = s.pending := rfl
@[simp] theorem onStack_mem (s : State) (n : Nat) (f : StackSt → StackSt) : (s.onStack n f).mem = { s.mem with hbmStacks := s.mem.hbmStacks.upd n f } := rfl
@[simp] theorem onRing_tick (s : State) (n : Nat) (f : CmdRing → CmdRing) : (s.onRing n f).tick = s.tick := rfl
@[simp] theorem onRing_variant (s : State) (n : Nat) (f : CmdRing → CmdRing) : (s.onRing n f).variant = s.variant := rfl
@[simp] theorem onRing_mstate (s : State) (n : Nat) (f : CmdRing → CmdRing) : (s.onRing n f).mstate = s.mstate := rfl
@[simp] theorem onRing_dies (s : State) (n : Nat) (f : CmdRing → CmdRing) : (s.onRing n f).dies = s.dies := rfl
@[simp] theorem onRing_arr (s : State) (n : Nat) (f : CmdRing → CmdRing) : (s.onRing n f).arr = s.arr := rfl
@[simp] theorem onRing_seq (s : State) (n : Nat) (f : CmdRing → CmdRing) : (s.onRing n f).seq = s.seq := rfl
@[simp] theorem onRing_mem (s : State) (n : Nat) (f : CmdRing → CmdRing) : (s.onRing n f).mem = s.mem := rfl
@[simp] theorem onRing_glv (s : State) (n : Nat) (f : CmdRing → CmdRing) : (s.onRing n f).glv = s.glv := rfl
@[simp] theorem onRing_ledger (s : State) (n : Nat) (f : CmdRing → CmdRing) : (s.onRing n f).ledger = s.ledger := rfl
@[simp] theorem onRing_rung (s : State) (n : Nat) (f : CmdRing → CmdRing) : (s.onRing n f).rung = s.rung := rfl
@[simp] theorem onRing_keys (s : State) (n : Nat) (f : CmdRing → CmdRing) : (s.onRing n f).keys = s.keys := rfl
@[simp] theorem onRing_stw (s : State) (n : Nat) (f : CmdRing → CmdRing) : (s.onRing n f).stw = s.stw := rfl
@[simp] theorem onRing_net (s : State) (n : Nat) (f : CmdRing → CmdRing) : (s.onRing n f).net = s.net := rfl
@[simp] theorem onRing_aos (s : State) (n : Nat) (f : CmdRing → CmdRing) : (s.onRing n f).aos = s.aos := rfl
@[simp] theorem onRing_regs (s : State) (n : Nat) (f : CmdRing → CmdRing) : (s.onRing n f).regs = s.regs := rfl
@[simp] theorem onRing_nodeId (s : State) (n : Nat) (f : CmdRing → CmdRing) : (s.onRing n f).nodeId = s.nodeId := rfl
@[simp] theorem onRing_out (s : State) (n : Nat) (f : CmdRing → CmdRing) : (s.onRing n f).out = s.out := rfl
@[simp] theorem onRing_freeCtr (s : State) (n : Nat) (f : CmdRing → CmdRing) : (s.onRing n f).freeCtr = s.freeCtr := rfl
@[simp] theorem onRing_pending (s : State) (n : Nat) (f : CmdRing → CmdRing) : (s.onRing n f).pending = s.pending := rfl
@[simp] theorem onRing_host (s : State) (n : Nat) (f : CmdRing → CmdRing) : (s.onRing n f).host = { s.host with rings := s.host.rings.upd n f } := rfl
@[simp] theorem onAg_tick (s : State) (g : Nat) (a : Nat) (f : AgSt → AgSt) : (s.onAg g a f).tick = s.tick := rfl
@[simp] theorem onAg_variant (s : State) (g : Nat) (a : Nat) (f : AgSt → AgSt) : (s.onAg g a f).variant = s.variant := rfl
@[simp] theorem onAg_mstate (s : State) (g : Nat) (a : Nat) (f : AgSt → AgSt) : (s.onAg g a f).mstate = s.mstate := rfl
@[simp] theorem onAg_dies (s : State) (g : Nat) (a : Nat) (f : AgSt → AgSt) : (s.onAg g a f).dies = s.dies := rfl
@[simp] theorem onAg_seq (s : State) (g : Nat) (a : Nat) (f : AgSt → AgSt) : (s.onAg g a f).seq = s.seq := rfl
@[simp] theorem onAg_mem (s : State) (g : Nat) (a : Nat) (f : AgSt → AgSt) : (s.onAg g a f).mem = s.mem := rfl
@[simp] theorem onAg_glv (s : State) (g : Nat) (a : Nat) (f : AgSt → AgSt) : (s.onAg g a f).glv = s.glv := rfl
@[simp] theorem onAg_ledger (s : State) (g : Nat) (a : Nat) (f : AgSt → AgSt) : (s.onAg g a f).ledger = s.ledger := rfl
@[simp] theorem onAg_rung (s : State) (g : Nat) (a : Nat) (f : AgSt → AgSt) : (s.onAg g a f).rung = s.rung := rfl
@[simp] theorem onAg_keys (s : State) (g : Nat) (a : Nat) (f : AgSt → AgSt) : (s.onAg g a f).keys = s.keys := rfl
@[simp] theorem onAg_stw (s : State) (g : Nat) (a : Nat) (f : AgSt → AgSt) : (s.onAg g a f).stw = s.stw := rfl
@[simp] theorem onAg_net (s : State) (g : Nat) (a : Nat) (f : AgSt → AgSt) : (s.onAg g a f).net = s.net := rfl
@[simp] theorem onAg_host (s : State) (g : Nat) (a : Nat) (f : AgSt → AgSt) : (s.onAg g a f).host = s.host := rfl
@[simp] theorem onAg_aos (s : State) (g : Nat) (a : Nat) (f : AgSt → AgSt) : (s.onAg g a f).aos = s.aos := rfl
@[simp] theorem onAg_regs (s : State) (g : Nat) (a : Nat) (f : AgSt → AgSt) : (s.onAg g a f).regs = s.regs := rfl
@[simp] theorem onAg_nodeId (s : State) (g : Nat) (a : Nat) (f : AgSt → AgSt) : (s.onAg g a f).nodeId = s.nodeId := rfl
@[simp] theorem onAg_out (s : State) (g : Nat) (a : Nat) (f : AgSt → AgSt) : (s.onAg g a f).out = s.out := rfl
@[simp] theorem onAg_freeCtr (s : State) (g : Nat) (a : Nat) (f : AgSt → AgSt) : (s.onAg g a f).freeCtr = s.freeCtr := rfl
@[simp] theorem onAg_pending (s : State) (g : Nat) (a : Nat) (f : AgSt → AgSt) : (s.onAg g a f).pending = s.pending := rfl
@[simp] theorem onMRing_tick (s : State) (g : Nat) (j : Nat) (f : RingSt → RingSt) : (s.onMRing g j f).tick = s.tick := rfl
@[simp] theorem onMRing_variant (s : State) (g : Nat) (j : Nat) (f : RingSt → RingSt) : (s.onMRing g j f).variant = s.variant := rfl
@[simp] theorem onMRing_mstate (s : State) (g : Nat) (j : Nat) (f : RingSt → RingSt) : (s.onMRing g j f).mstate = s.mstate := rfl
@[simp] theorem onMRing_dies (s : State) (g : Nat) (j : Nat) (f : RingSt → RingSt) : (s.onMRing g j f).dies = s.dies := rfl
@[simp] theorem onMRing_seq (s : State) (g : Nat) (j : Nat) (f : RingSt → RingSt) : (s.onMRing g j f).seq = s.seq := rfl
@[simp] theorem onMRing_mem (s : State) (g : Nat) (j : Nat) (f : RingSt → RingSt) : (s.onMRing g j f).mem = s.mem := rfl
@[simp] theorem onMRing_glv (s : State) (g : Nat) (j : Nat) (f : RingSt → RingSt) : (s.onMRing g j f).glv = s.glv := rfl
@[simp] theorem onMRing_ledger (s : State) (g : Nat) (j : Nat) (f : RingSt → RingSt) : (s.onMRing g j f).ledger = s.ledger := rfl
@[simp] theorem onMRing_rung (s : State) (g : Nat) (j : Nat) (f : RingSt → RingSt) : (s.onMRing g j f).rung = s.rung := rfl
@[simp] theorem onMRing_keys (s : State) (g : Nat) (j : Nat) (f : RingSt → RingSt) : (s.onMRing g j f).keys = s.keys := rfl
@[simp] theorem onMRing_stw (s : State) (g : Nat) (j : Nat) (f : RingSt → RingSt) : (s.onMRing g j f).stw = s.stw := rfl
@[simp] theorem onMRing_net (s : State) (g : Nat) (j : Nat) (f : RingSt → RingSt) : (s.onMRing g j f).net = s.net := rfl
@[simp] theorem onMRing_host (s : State) (g : Nat) (j : Nat) (f : RingSt → RingSt) : (s.onMRing g j f).host = s.host := rfl
@[simp] theorem onMRing_aos (s : State) (g : Nat) (j : Nat) (f : RingSt → RingSt) : (s.onMRing g j f).aos = s.aos := rfl
@[simp] theorem onMRing_regs (s : State) (g : Nat) (j : Nat) (f : RingSt → RingSt) : (s.onMRing g j f).regs = s.regs := rfl
@[simp] theorem onMRing_nodeId (s : State) (g : Nat) (j : Nat) (f : RingSt → RingSt) : (s.onMRing g j f).nodeId = s.nodeId := rfl
@[simp] theorem onMRing_out (s : State) (g : Nat) (j : Nat) (f : RingSt → RingSt) : (s.onMRing g j f).out = s.out := rfl
@[simp] theorem onMRing_freeCtr (s : State) (g : Nat) (j : Nat) (f : RingSt → RingSt) : (s.onMRing g j f).freeCtr = s.freeCtr := rfl
@[simp] theorem onMRing_pending (s : State) (g : Nat) (j : Nat) (f : RingSt → RingSt) : (s.onMRing g j f).pending = s.pending := rfl
@[simp] theorem onHq_tick (s : State) (g : Nat) (q : Nat) (f : HqSt → HqSt) : (s.onHq g q f).tick = s.tick := rfl
@[simp] theorem onHq_variant (s : State) (g : Nat) (q : Nat) (f : HqSt → HqSt) : (s.onHq g q f).variant = s.variant := rfl
@[simp] theorem onHq_mstate (s : State) (g : Nat) (q : Nat) (f : HqSt → HqSt) : (s.onHq g q f).mstate = s.mstate := rfl
@[simp] theorem onHq_dies (s : State) (g : Nat) (q : Nat) (f : HqSt → HqSt) : (s.onHq g q f).dies = s.dies := rfl
@[simp] theorem onHq_seq (s : State) (g : Nat) (q : Nat) (f : HqSt → HqSt) : (s.onHq g q f).seq = s.seq := rfl
@[simp] theorem onHq_mem (s : State) (g : Nat) (q : Nat) (f : HqSt → HqSt) : (s.onHq g q f).mem = s.mem := rfl
@[simp] theorem onHq_glv (s : State) (g : Nat) (q : Nat) (f : HqSt → HqSt) : (s.onHq g q f).glv = s.glv := rfl
@[simp] theorem onHq_ledger (s : State) (g : Nat) (q : Nat) (f : HqSt → HqSt) : (s.onHq g q f).ledger = s.ledger := rfl
@[simp] theorem onHq_rung (s : State) (g : Nat) (q : Nat) (f : HqSt → HqSt) : (s.onHq g q f).rung = s.rung := rfl
@[simp] theorem onHq_keys (s : State) (g : Nat) (q : Nat) (f : HqSt → HqSt) : (s.onHq g q f).keys = s.keys := rfl
@[simp] theorem onHq_stw (s : State) (g : Nat) (q : Nat) (f : HqSt → HqSt) : (s.onHq g q f).stw = s.stw := rfl
@[simp] theorem onHq_net (s : State) (g : Nat) (q : Nat) (f : HqSt → HqSt) : (s.onHq g q f).net = s.net := rfl
@[simp] theorem onHq_host (s : State) (g : Nat) (q : Nat) (f : HqSt → HqSt) : (s.onHq g q f).host = s.host := rfl
@[simp] theorem onHq_aos (s : State) (g : Nat) (q : Nat) (f : HqSt → HqSt) : (s.onHq g q f).aos = s.aos := rfl
@[simp] theorem onHq_regs (s : State) (g : Nat) (q : Nat) (f : HqSt → HqSt) : (s.onHq g q f).regs = s.regs := rfl
@[simp] theorem onHq_nodeId (s : State) (g : Nat) (q : Nat) (f : HqSt → HqSt) : (s.onHq g q f).nodeId = s.nodeId := rfl
@[simp] theorem onHq_out (s : State) (g : Nat) (q : Nat) (f : HqSt → HqSt) : (s.onHq g q f).out = s.out := rfl
@[simp] theorem onHq_freeCtr (s : State) (g : Nat) (q : Nat) (f : HqSt → HqSt) : (s.onHq g q f).freeCtr = s.freeCtr := rfl
@[simp] theorem onHq_pending (s : State) (g : Nat) (q : Nat) (f : HqSt → HqSt) : (s.onHq g q f).pending = s.pending := rfl

end Sys2Proof.Machine.State
end

