-- ==== Sys2Proof/Laws/Flags.lean ====
section
/-! SUPPORT. Reads and writes of the register table, and what raising a flag leaves. -/

set_option Elab.async false

namespace Sys2Proof.Machine.State

@[simp] theorem reg_setReg_same (s : State) (a : Nat) (v : Word) : (s.setReg a v).reg a = v :=
  SMap.look_store_same _ _ _ _

theorem reg_setReg_other (s : State) {a b : Nat} (v : Word) (h : b ≠ a) : (s.setReg a v).reg b = s.reg b :=
  SMap.look_store_other _ _ _ _ _ h

@[simp] theorem raise_tick (s : State) (e b n : Nat) : (s.raise e b n).tick = s.tick := by
  unfold raise; dsimp only; split <;> simp
@[simp] theorem raise_variant (s : State) (e b n : Nat) : (s.raise e b n).variant = s.variant := by
  unfold raise; dsimp only; split <;> simp
@[simp] theorem raise_mstate (s : State) (e b n : Nat) : (s.raise e b n).mstate = s.mstate := by
  unfold raise; dsimp only; split <;> simp
@[simp] theorem raise_dies (s : State) (e b n : Nat) : (s.raise e b n).dies = s.dies := by
  unfold raise; dsimp only; split <;> simp
@[simp] theorem raise_arr (s : State) (e b n : Nat) : (s.raise e b n).arr = s.arr := by
  unfold raise; dsimp only; split <;> simp
@[simp] theorem raise_seq (s : State) (e b n : Nat) : (s.raise e b n).seq = s.seq := by
  unfold raise; dsimp only; split <;> simp
@[simp] theorem raise_mem (s : State) (e b n : Nat) : (s.raise e b n).mem = s.mem := by
  unfold raise; dsimp only; split <;> simp
@[simp] theorem raise_glv (s : State) (e b n : Nat) : (s.raise e b n).glv = s.glv := by
  unfold raise; dsimp only; split <;> simp
@[simp] theorem raise_ledger (s : State) (e b n : Nat) : (s.raise e b n).ledger = s.ledger := by
  unfold raise; dsimp only; split <;> simp
@[simp] theorem raise_rung (s : State) (e b n : Nat) : (s.raise e b n).rung = s.rung := by
  unfold raise; dsimp only; split <;> simp
@[simp] theorem raise_keys (s : State) (e b n : Nat) : (s.raise e b n).keys = s.keys := by
  unfold raise; dsimp only; split <;> simp
@[simp] theorem raise_stw (s : State) (e b n : Nat) : (s.raise e b n).stw = s.stw := by
  unfold raise; dsimp only; split <;> simp
@[simp] theorem raise_net (s : State) (e b n : Nat) : (s.raise e b n).net = s.net := by
  unfold raise; dsimp only; split <;> simp
@[simp] theorem raise_host (s : State) (e b n : Nat) : (s.raise e b n).host = s.host := by
  unfold raise; dsimp only; split <;> simp
@[simp] theorem raise_aos (s : State) (e b n : Nat) : (s.raise e b n).aos = s.aos := by
  unfold raise; dsimp only; split <;> simp
@[simp] theorem raise_nodeId (s : State) (e b n : Nat) : (s.raise e b n).nodeId = s.nodeId := by
  unfold raise; dsimp only; split <;> simp
@[simp] theorem raise_out (s : State) (e b n : Nat) : (s.raise e b n).out = s.out := by
  unfold raise; dsimp only; split <;> simp
@[simp] theorem raise_freeCtr (s : State) (e b n : Nat) : (s.raise e b n).freeCtr = s.freeCtr := by
  unfold raise; dsimp only; split <;> simp
@[simp] theorem raise_pending (s : State) (e b n : Nat) : (s.raise e b n).pending = s.pending := by
  unfold raise; dsimp only; split <;> simp
@[simp] theorem reg_onTick (s : State) (f : TickSt → TickSt) (a : Nat) : (s.onTick f).reg a = s.reg a := rfl
@[simp] theorem reg_onArr (s : State) (f : ArrayMem → ArrayMem) (a : Nat) : (s.onArr f).reg a = s.reg a := rfl
@[simp] theorem reg_onSeq (s : State) (f : SeqBlk → SeqBlk) (a : Nat) : (s.onSeq f).reg a = s.reg a := rfl
@[simp] theorem reg_onMem (s : State) (f : MemBlk → MemBlk) (a : Nat) : (s.onMem f).reg a = s.reg a := rfl
@[simp] theorem reg_onLedger (s : State) (f : LedgerSt → LedgerSt) (a : Nat) : (s.onLedger f).reg a = s.reg a := rfl
@[simp] theorem reg_onRung (s : State) (f : RungSt → RungSt) (a : Nat) : (s.onRung f).reg a = s.reg a := rfl
@[simp] theorem reg_onStw (s : State) (f : StewardBlk → StewardBlk) (a : Nat) : (s.onStw f).reg a = s.reg a := rfl
@[simp] theorem reg_onNet (s : State) (f : NetBlk → NetBlk) (a : Nat) : (s.onNet f).reg a = s.reg a := rfl
@[simp] theorem reg_onHost (s : State) (f : HostBlk → HostBlk) (a : Nat) : (s.onHost f).reg a = s.reg a := rfl
@[simp] theorem reg_onAos (s : State) (f : AosBlk → AosBlk) (a : Nat) : (s.onAos f).reg a = s.reg a := rfl
@[simp] theorem reg_onDie (s : State) (k : Nat) (f : DieSt → DieSt) (a : Nat) : (s.onDie k f).reg a = s.reg a := rfl
@[simp] theorem reg_onGlv (s : State) (g : Nat) (f : GloveSt → GloveSt) (a : Nat) : (s.onGlv g f).reg a = s.reg a := rfl
@[simp] theorem reg_emit (s : State) (o : Output) (a : Nat) : (s.emit o).reg a = s.reg a := rfl

end Sys2Proof.Machine.State
end

