-- ==== Sys2Proof/Laws/Word.lean ====
section
/-! SUPPORT. Fields of register words: a read after a write of the same field, and of another. -/

namespace Sys2Proof

theorem Word.field_lt (x : Word) (lo w : Nat) : x.field lo w < 2 ^ w := Nat.mod_lt _ (Nat.two_pow_pos w)

theorem Word.testBit_field (x : Word) (lo w j : Nat) : (x.field lo w).testBit j = (decide (j < w) && x.toNat.testBit (lo + j)) := by
  simp [Word.field, Nat.testBit_mod_two_pow, Nat.testBit_div_two_pow, Nat.add_comm]

theorem Word.testBit_setField (x : Word) (lo w v j : Nat) (h : lo + w ≤ 64) :
    (x.setField lo w v).toNat.testBit j = if lo ≤ j ∧ j < lo + w then v.testBit (j - lo) else x.toNat.testBit j := by
  have hb : ∀ y : Word, y.toNat.testBit j = y.getLsbD j := fun y => rfl
  have hm : ∀ m : Nat, ((BitVec.ofNat 64 m).getLsbD j) = (decide (j < 64) && m.testBit j) := fun m => BitVec.getLsbD_ofNat 64 m j
  have hx : 64 ≤ j → x.getLsbD j = false := fun hj => BitVec.getLsbD_of_ge x j hj
  rw [hb, hb]
  simp only [Word.setField, BitVec.getLsbD_or, BitVec.getLsbD_and, BitVec.getLsbD_not, hm, Nat.testBit_mul_two_pow,
    Nat.testBit_two_pow_sub_one, Nat.testBit_mod_two_pow]
  by_cases hj : j < 64
  · by_cases h1 : lo ≤ j
    · by_cases h2 : j < lo + w
      · have : j - lo < w := by omega
        simp [hj, h1, h2, this]
      · have : ¬ j - lo < w := by omega
        simp [hj, h1, h2, this]
    · simp [hj, h1]
  · have : ¬ (lo ≤ j ∧ j < lo + w) := by omega
    simp [hj, this, hx (by omega)]

/-- A field just written reads as the value written, in the field's width. -/
theorem Word.field_setField_same (x : Word) (lo w v : Nat) (h : lo + w ≤ 64) : (x.setField lo w v).field lo w = v % 2 ^ w := by
  apply Nat.eq_of_testBit_eq
  intro j
  rw [Word.testBit_field, Word.testBit_setField _ _ _ _ _ h, Nat.testBit_mod_two_pow]
  by_cases hj : j < w <;> simp [hj]

/-- A field that does not overlap the one written reads as before. -/
theorem Word.field_setField_other (x : Word) (lo w v lo' w' : Nat) (h : lo + w ≤ 64) (hd : lo' + w' ≤ lo ∨ lo + w ≤ lo') :
    (x.setField lo w v).field lo' w' = x.field lo' w' := by
  apply Nat.eq_of_testBit_eq
  intro j
  rw [Word.testBit_field, Word.testBit_setField _ _ _ _ _ h, Word.testBit_field]
  by_cases hj : j < w'
  · have : ¬ (lo ≤ lo' + j ∧ lo' + j < lo + w) := by omega
    simp [hj, this]
  · simp [hj]

end Sys2Proof
end

