-- ==== Sys2Proof/Laws/EventFlags.lean ====
section
/-! SUPPORT. No counter of an event register stands at its address, so raising a flag leaves the flag set, and leaves every register but the event register and one counter. -/

set_option Elab.async false

namespace Sys2Proof.Machine

open Adr

theorem dieFlagCounters_ne (k o c : Nat) (h : c ∈ dieFlagCounters k o) : c ≠ cd k + o := by
  unfold dieFlagCounters at h
  dsimp only at h
  (repeat' split at h) <;> simp only [List.mem_cons, List.not_mem_nil, or_false] at h
  all_goals (try simp only [arrCntSf, arrCntGuard, arrCntXing, arrCntRpr, arrCntFrz, celCntX, celCntAbn, celCntDisc, tnsCntPad, tnsCntClip,
    tnsCntSat, tnsCntNan, spdCntDet, spdCntRwref, spdCntXerr, gsqCntRerun, gsqCntHeld, gsqCntDefer, gsqCntLdfail, gsqCntTmo, gsqBase,
    ntcCntCe, ntcCntUe, ntcCntRef, ntcCntHold, ntcCntRetire, ntcBase, cd] at h ⊢)
  all_goals omega

theorem iodFlagCounters_ne (k o c : Nat) (h : c ∈ iodFlagCounters k o) : c ≠ iod k + o := by
  unfold iodFlagCounters at h
  dsimp only at h
  (repeat' split at h) <;> simp only [List.mem_cons, List.not_mem_nil, or_false] at h
  all_goals (try simp only [ddrCntCe, ddrCntUe, ddrCntFence, dppCntIoerr, dppCntLdn, lnkCntCrc, lnkCntReplay, lnkCntLane, lnkCntDown, lnkBase,
    migCntFail, migCntLost, xchCntAbort, xchCntExtra, xchCntStale, xchCntFuture, resCntSealfail, resCntCufflate, resCntNbrlost, pfxCntNoroom,
    smpCntEmpty, smpCntBad, rtCntUnreach, rtCntHoplim, mgrCntWlost, mgrCntTakeover, mgrCntArefuse, rasCntCe, rasCntUe, rasCntFatal, rasCntFence,
    rasCntUpdfail, rasCntLogovf, iod] at h ⊢)
  all_goals omega

theorem flagCounters_ne (a c : Nat) (h : c ∈ flagCounters a) : c ≠ a := by
  unfold flagCounters at h
  split at h
  · (repeat' split at h) <;> simp only [List.mem_cons, List.not_mem_nil, or_false] at h
    all_goals (try subst_vars)
    all_goals (try simp only [tkeCntAlign, tkeCntHovr, tkeCntStep, tkeCntHold, tkeCntLate, tkeCntCrown, tkeCntPchg, tkeEvt, tkeCntDefer, tkeCntShrink,
      tkeCntStepdn, tkeCntDhold, tkeCntAutos1, tkeCntGmiss, tkeCntRungfail, tkeCntGreset, tkeLevt, stwCntFull, stwCntConflict, stwCntAbandon,
      stwCntNopage, stwCntGendefer, stwCntFailover, stwEvt, hifCntStale, hifCntCqdrop, hifCntCqstall, hifCntRptdrop, hifCntRef, hifEvt,
      secCntSigfail, secCntErase, secCntTrng, secEvt, aosCntFilt, aosCntPll, aosCntOtprst, aosCntWarm, aosEvt] at h ⊢)
    all_goals omega
  · split at h
    · have := dieFlagCounters_ne _ _ _ h
      unfold cd at this; omega
    · split at h
      · have := iodFlagCounters_ne _ _ _ h
        unfold iod at this; omega
      · simp at h

namespace State

/-- Raising a flag leaves it set. -/
theorem flag_raise (s : State) (e b n : Nat) (hb : b < 64) : (s.raise e b n).flag e b = true := by
  have h0 : ∀ u : State, u.reg e = (s.reg e).setField b 1 1 → u.flag e b = true := by
    intro u hu
    show (u.reg e).bit b = true
    rw [hu]
    show ((s.reg e).setField b 1 1).toNat.testBit b = true
    rw [Word.testBit_setField _ _ _ _ _ (by omega), if_pos (by omega), Nat.sub_self]; rfl
  unfold raise
  dsimp only
  split
  · rename_i c hc
    have hm : c ∈ flagCounters e := List.mem_of_getElem? hc
    apply h0
    unfold count setFld
    rw [reg_setReg_other _ _ (Ne.symm (flagCounters_ne e c hm)), reg_setReg_same]
  · apply h0
    unfold setFld
    rw [reg_setReg_same]

/-- Raising a flag leaves every register but the event register and the flag's counter. -/
theorem reg_raise_other (s : State) (e b n a : Nat) (h : a ≠ e) (hc : a ∉ flagCounters e) : (s.raise e b n).reg a = s.reg a := by
  unfold raise
  dsimp only
  split
  · rename_i c hcc
    have hm : c ∈ flagCounters e := List.mem_of_getElem? hcc
    unfold count setFld
    rw [reg_setReg_other _ _ (show a ≠ c from fun x => hc (by rw [x]; exact hm)), reg_setReg_other _ _ h]
  · unfold setFld
    rw [reg_setReg_other _ _ h]

/-- Raising a flag advances its counter. -/
theorem counter_raise (s : State) (e b n c : Nat) (h : (flagCounters e)[b]? = some c) : (s.raise e b n).reg c = s.reg c + BitVec.ofNat 64 n := by
  have hm : c ∈ flagCounters e := List.mem_of_getElem? h
  unfold raise
  dsimp only
  rw [h]
  dsimp only
  unfold count setFld
  rw [reg_setReg_same, reg_setReg_other _ _ (flagCounters_ne e c hm)]

end State

end Sys2Proof.Machine
end

