-- ==== Sys2Proof/Laws/Keeps.lean ====
section
/-! SUPPORT. Which blocks of the state an operation may change, as a set of their numbers: one lemma for each operation says it in the files Laws/Frame*. -/

namespace Sys2Proof.Machine

/-- From `s` to `t`, every block whose bit in `m` is 0 stays. The blocks count from bit 0: tick, variant, mstate, dies, arr, seq, mem, glv, ledger, rung, keys, stw, net, host, aos, regs, nodeId, out, freeCtr, pending. -/
def State.Keeps (m : Nat) (s t : State) : Prop :=
  (m.testBit 0 = false → t.tick = s.tick) ∧
  (m.testBit 1 = false → t.variant = s.variant) ∧
  (m.testBit 2 = false → t.mstate = s.mstate) ∧
  (m.testBit 3 = false → t.dies = s.dies) ∧
  (m.testBit 4 = false → t.arr = s.arr) ∧
  (m.testBit 5 = false → t.seq = s.seq) ∧
  (m.testBit 6 = false → t.mem = s.mem) ∧
  (m.testBit 7 = false → t.glv = s.glv) ∧
  (m.testBit 8 = false → t.ledger = s.ledger) ∧
  (m.testBit 9 = false → t.rung = s.rung) ∧
  (m.testBit 10 = false → t.keys = s.keys) ∧
  (m.testBit 11 = false → t.stw = s.stw) ∧
  (m.testBit 12 = false → t.net = s.net) ∧
  (m.testBit 13 = false → t.host = s.host) ∧
  (m.testBit 14 = false → t.aos = s.aos) ∧
  (m.testBit 15 = false → t.regs = s.regs) ∧
  (m.testBit 16 = false → t.nodeId = s.nodeId) ∧
  (m.testBit 17 = false → t.out = s.out) ∧
  (m.testBit 18 = false → t.freeCtr = s.freeCtr) ∧
  (m.testBit 19 = false → t.pending = s.pending)

namespace State.Keeps

theorem refl (m : Nat) (s : State) : Keeps m s s := by
  unfold Keeps; exact ⟨fun _ => rfl, fun _ => rfl, fun _ => rfl, fun _ => rfl, fun _ => rfl, fun _ => rfl, fun _ => rfl, fun _ => rfl, fun _ => rfl, fun _ => rfl, fun _ => rfl, fun _ => rfl, fun _ => rfl, fun _ => rfl, fun _ => rfl, fun _ => rfl, fun _ => rfl, fun _ => rfl, fun _ => rfl, fun _ => rfl⟩

theorem bitOf {m m1 : Nat} (h : (m ||| m1) = m) {i : Nat} (hi : m.testBit i = false) : m1.testBit i = false := by
  have := congrArg (fun x => x.testBit i) h
  simp only [Nat.testBit_or, hi, Bool.false_or] at this
  exact this

/-- The last operation of a chain, whose set lies within `m`. -/
theorem step {m m1 : Nat} {s u v : State} (h1 : Keeps m1 u v) (hm : (m ||| m1) = m) (h : Keeps m s u) : Keeps m s v := by
  unfold Keeps at *
  obtain ⟨a0, a1, a2, a3, a4, a5, a6, a7, a8, a9, a10, a11, a12, a13, a14, a15, a16, a17, a18, a19⟩ := h1
  obtain ⟨b0, b1, b2, b3, b4, b5, b6, b7, b8, b9, b10, b11, b12, b13, b14, b15, b16, b17, b18, b19⟩ := h
  exact ⟨fun x => (a0 (bitOf hm x)).trans (b0 x), fun x => (a1 (bitOf hm x)).trans (b1 x), fun x => (a2 (bitOf hm x)).trans (b2 x), fun x => (a3 (bitOf hm x)).trans (b3 x), fun x => (a4 (bitOf hm x)).trans (b4 x), fun x => (a5 (bitOf hm x)).trans (b5 x), fun x => (a6 (bitOf hm x)).trans (b6 x), fun x => (a7 (bitOf hm x)).trans (b7 x), fun x => (a8 (bitOf hm x)).trans (b8 x), fun x => (a9 (bitOf hm x)).trans (b9 x), fun x => (a10 (bitOf hm x)).trans (b10 x), fun x => (a11 (bitOf hm x)).trans (b11 x), fun x => (a12 (bitOf hm x)).trans (b12 x), fun x => (a13 (bitOf hm x)).trans (b13 x), fun x => (a14 (bitOf hm x)).trans (b14 x), fun x => (a15 (bitOf hm x)).trans (b15 x), fun x => (a16 (bitOf hm x)).trans (b16 x), fun x => (a17 (bitOf hm x)).trans (b17 x), fun x => (a18 (bitOf hm x)).trans (b18 x), fun x => (a19 (bitOf hm x)).trans (b19 x)⟩

theorem sub {m M c : Nat} (hm : (m ||| M) = m) (hc : (M ||| c) = M) : (m ||| c) = m := by
  rw [← hm, Nat.or_assoc, hc]

theorem bit {m M i : Nat} (hm : (m ||| M) = m) (hi : M.testBit i = true) : m.testBit i = true := by
  rw [← hm, Nat.testBit_or, hi, Bool.or_true]

/-- Both branches of a choice. -/
theorem ite {m : Nat} {s a b : State} {c : Prop} [Decidable c] (ha : Keeps m s a) (hb : Keeps m s b) : Keeps m s (if c then a else b) := by
  split
  · exact ha
  · exact hb

theorem iteFst {β : Type} {m : Nat} {s : State} {a b : State × β} {c : Prop} [Decidable c] (ha : Keeps m s a.1) (hb : Keeps m s b.1) :
    Keeps m s (if c then a else b).1 := by
  split
  · exact ha
  · exact hb

theorem mono {m m1 : Nat} {s t : State} (h : Keeps m1 s t) (hm : (m ||| m1) = m) : Keeps m s t := step h hm (refl m s)

/-- A fold whose step stays within `m`. -/
theorem foldl {α : Type} {m : Nat} {s u : State} {f : State → α → State} {l : List α} (hf : ∀ v a, Keeps m v (f v a)) (h : Keeps m s u) :
    Keeps m s (l.foldl f u) := by
  induction l generalizing u with
  | nil => exact h
  | cons a r ih => exact ih (step (hf u a) (Nat.or_self m) h)

/-- A fold that carries the state first in a pair. -/
theorem foldlFst {α β : Type} {m : Nat} {s : State} {p : State × β} {f : State × β → α → State × β} {l : List α}
    (hf : ∀ v a, Keeps m v.1 (f v a).1) (h : Keeps m s p.1) : Keeps m s (l.foldl f p).1 := by
  induction l generalizing p with
  | nil => exact h
  | cons a r ih => exact ih (step (hf p a) (Nat.or_self m) h)

/-- Whatever an operation that may fail answers, it keeps the blocks outside `m`. -/
structure OptS (m : Nat) (s : State) (o : Option State) : Prop where
  keeps : ∀ t, o = some t → Keeps m s t

/-- The same, of an operation that also answers a value. -/
structure OptP {β : Type} (m : Nat) (s : State) (o : Option (State × β)) : Prop where
  keeps : ∀ t b, o = some (t, b) → Keeps m s t

/-- The same, of an operation that answers an error. -/
structure ExS {ε : Type} (m : Nat) (s : State) (o : Except ε State) : Prop where
  keeps : ∀ t, o = .ok t → Keeps m s t

theorem optS_none {m : Nat} {s : State} : OptS m s none := ⟨fun _ h => nomatch h⟩
theorem optS_some {m : Nat} {s a : State} (h : Keeps m s a) : OptS m s (some a) := ⟨fun _ e => by cases e; exact h⟩
theorem optS_ite {m : Nat} {s : State} {a b : Option State} {c : Prop} [Decidable c] (ha : OptS m s a) (hb : OptS m s b) :
    OptS m s (if c then a else b) := by
  split
  · exact ha
  · exact hb
theorem optS_map {m : Nat} {s : State} {o : Option State} {f : State → State} (hf : ∀ t, Keeps m t (f t)) (h : OptS m s o) : OptS m s (o.map f) := by
  refine ⟨fun t e => ?_⟩
  cases o with
  | none => cases e
  | some b => cases e; exact step (hf b) (Nat.or_self m) (h.keeps b rfl)
theorem optS_findSome {α : Type} {m : Nat} {s : State} {f : α → Option State} {l : List α} (hf : ∀ a, OptS m s (f a)) : OptS m s (l.findSome? f) :=
  ⟨fun t e => by obtain ⟨a, _, h⟩ := List.exists_of_findSome?_eq_some e; exact (hf a).keeps t h⟩
theorem optP_none {β : Type} {m : Nat} {s : State} : OptP (β := β) m s none := ⟨fun _ _ h => nomatch h⟩
theorem optP_some {β : Type} {m : Nat} {s : State} {p : State × β} (h : Keeps m s p.1) : OptP m s (some p) := ⟨fun _ _ e => by cases e; exact h⟩
theorem exS_error {ε : Type} {m : Nat} {s : State} {e : ε} : ExS m s (.error e) := ⟨fun _ h => nomatch h⟩
theorem exS_ok {ε : Type} {m : Nat} {s a : State} (h : Keeps m s a) : ExS (ε := ε) m s (.ok a) := ⟨fun _ e => by cases e; exact h⟩
theorem ofOptS {m : Nat} {s a : State} {o : Option State} (e : o = some a) (h : OptS m s o) : Keeps m s a := h.keeps a e
/-- An operation that may fail, with what stands in its place. -/
theorem getD {m : Nat} {s a : State} {o : Option State} (h : OptS m s o) (ha : Keeps m s a) : Keeps m s (o.getD a) := by
  cases o with
  | none => exact ha
  | some b => exact h.keeps b rfl
theorem ofOptP {β : Type} {m : Nat} {s a : State} {b : β} {o : Option (State × β)} (e : o = some (a, b)) (h : OptP m s o) : Keeps m s a := h.keeps a b e
theorem ofOptP1 {β : Type} {m : Nat} {s : State} {r : State × β} {o : Option (State × β)} (e : o = some r) (h : OptP m s o) : Keeps m s r.1 := h.keeps r.1 r.2 e
theorem ofExS {ε : Type} {m : Nat} {s a : State} {o : Except ε State} (e : o = .ok a) (h : ExS m s o) : Keeps m s a := h.keeps a e

/-- A fold that carries the state within a record. -/
theorem foldlBy {σ α : Type} {p : σ → State} {m : Nat} {s : State} {x : σ} {f : σ → α → σ} {l : List α}
    (hf : ∀ v a, Keeps m (p v) (p (f v a))) (h : Keeps m s (p x)) : Keeps m s (p (l.foldl f x)) := by
  induction l generalizing x with
  | nil => exact h
  | cons a r ih => exact ih (step (hf x a) (Nat.or_self m) h)

/-- The state first in a pair that is known. -/
theorem ofPair {β : Type} {m : Nat} {s a : State} {b : β} {p : State × β} (e : p = (a, b)) (h : Keeps m s p.1) : Keeps m s a := by
  rw [e] at h; exact h

/-- The state second in a pair that is known. -/
theorem ofPair2 {β : Type} {m : Nat} {s a : State} {b : β} {p : β × State} (e : p = (b, a)) (h : Keeps m s p.2) : Keeps m s a := by
  rw [e] at h; exact h

theorem with_tick {m : Nat} {s u : State} (x) (hm : m.testBit 0 = true) (h : Keeps m s u) : Keeps m s { u with tick := x } := by
  unfold Keeps at *; obtain ⟨b0, b1, b2, b3, b4, b5, b6, b7, b8, b9, b10, b11, b12, b13, b14, b15, b16, b17, b18, b19⟩ := h
  exact ⟨fun y => absurd (hm.symm.trans y) (by simp), b1, b2, b3, b4, b5, b6, b7, b8, b9, b10, b11, b12, b13, b14, b15, b16, b17, b18, b19⟩

theorem with_variant {m : Nat} {s u : State} (x) (hm : m.testBit 1 = true) (h : Keeps m s u) : Keeps m s { u with variant := x } := by
  unfold Keeps at *; obtain ⟨b0, b1, b2, b3, b4, b5, b6, b7, b8, b9, b10, b11, b12, b13, b14, b15, b16, b17, b18, b19⟩ := h
  exact ⟨b0, fun y => absurd (hm.symm.trans y) (by simp), b2, b3, b4, b5, b6, b7, b8, b9, b10, b11, b12, b13, b14, b15, b16, b17, b18, b19⟩

theorem with_mstate {m : Nat} {s u : State} (x) (hm : m.testBit 2 = true) (h : Keeps m s u) : Keeps m s { u with mstate := x } := by
  unfold Keeps at *; obtain ⟨b0, b1, b2, b3, b4, b5, b6, b7, b8, b9, b10, b11, b12, b13, b14, b15, b16, b17, b18, b19⟩ := h
  exact ⟨b0, b1, fun y => absurd (hm.symm.trans y) (by simp), b3, b4, b5, b6, b7, b8, b9, b10, b11, b12, b13, b14, b15, b16, b17, b18, b19⟩

theorem with_dies {m : Nat} {s u : State} (x) (hm : m.testBit 3 = true) (h : Keeps m s u) : Keeps m s { u with dies := x } := by
  unfold Keeps at *; obtain ⟨b0, b1, b2, b3, b4, b5, b6, b7, b8, b9, b10, b11, b12, b13, b14, b15, b16, b17, b18, b19⟩ := h
  exact ⟨b0, b1, b2, fun y => absurd (hm.symm.trans y) (by simp), b4, b5, b6, b7, b8, b9, b10, b11, b12, b13, b14, b15, b16, b17, b18, b19⟩

theorem with_arr {m : Nat} {s u : State} (x) (hm : m.testBit 4 = true) (h : Keeps m s u) : Keeps m s { u with arr := x } := by
  unfold Keeps at *; obtain ⟨b0, b1, b2, b3, b4, b5, b6, b7, b8, b9, b10, b11, b12, b13, b14, b15, b16, b17, b18, b19⟩ := h
  exact ⟨b0, b1, b2, b3, fun y => absurd (hm.symm.trans y) (by simp), b5, b6, b7, b8, b9, b10, b11, b12, b13, b14, b15, b16, b17, b18, b19⟩

theorem with_seq {m : Nat} {s u : State} (x) (hm : m.testBit 5 = true) (h : Keeps m s u) : Keeps m s { u with seq := x } := by
  unfold Keeps at *; obtain ⟨b0, b1, b2, b3, b4, b5, b6, b7, b8, b9, b10, b11, b12, b13, b14, b15, b16, b17, b18, b19⟩ := h
  exact ⟨b0, b1, b2, b3, b4, fun y => absurd (hm.symm.trans y) (by simp), b6, b7, b8, b9, b10, b11, b12, b13, b14, b15, b16, b17, b18, b19⟩

theorem with_mem {m : Nat} {s u : State} (x) (hm : m.testBit 6 = true) (h : Keeps m s u) : Keeps m s { u with mem := x } := by
  unfold Keeps at *; obtain ⟨b0, b1, b2, b3, b4, b5, b6, b7, b8, b9, b10, b11, b12, b13, b14, b15, b16, b17, b18, b19⟩ := h
  exact ⟨b0, b1, b2, b3, b4, b5, fun y => absurd (hm.symm.trans y) (by simp), b7, b8, b9, b10, b11, b12, b13, b14, b15, b16, b17, b18, b19⟩

theorem with_glv {m : Nat} {s u : State} (x) (hm : m.testBit 7 = true) (h : Keeps m s u) : Keeps m s { u with glv := x } := by
  unfold Keeps at *; obtain ⟨b0, b1, b2, b3, b4, b5, b6, b7, b8, b9, b10, b11, b12, b13, b14, b15, b16, b17, b18, b19⟩ := h
  exact ⟨b0, b1, b2, b3, b4, b5, b6, fun y => absurd (hm.symm.trans y) (by simp), b8, b9, b10, b11, b12, b13, b14, b15, b16, b17, b18, b19⟩

theorem with_ledger {m : Nat} {s u : State} (x) (hm : m.testBit 8 = true) (h : Keeps m s u) : Keeps m s { u with ledger := x } := by
  unfold Keeps at *; obtain ⟨b0, b1, b2, b3, b4, b5, b6, b7, b8, b9, b10, b11, b12, b13, b14, b15, b16, b17, b18, b19⟩ := h
  exact ⟨b0, b1, b2, b3, b4, b5, b6, b7, fun y => absurd (hm.symm.trans y) (by simp), b9, b10, b11, b12, b13, b14, b15, b16, b17, b18, b19⟩

theorem with_rung {m : Nat} {s u : State} (x) (hm : m.testBit 9 = true) (h : Keeps m s u) : Keeps m s { u with rung := x } := by
  unfold Keeps at *; obtain ⟨b0, b1, b2, b3, b4, b5, b6, b7, b8, b9, b10, b11, b12, b13, b14, b15, b16, b17, b18, b19⟩ := h
  exact ⟨b0, b1, b2, b3, b4, b5, b6, b7, b8, fun y => absurd (hm.symm.trans y) (by simp), b10, b11, b12, b13, b14, b15, b16, b17, b18, b19⟩

theorem with_keys {m : Nat} {s u : State} (x) (hm : m.testBit 10 = true) (h : Keeps m s u) : Keeps m s { u with keys := x } := by
  unfold Keeps at *; obtain ⟨b0, b1, b2, b3, b4, b5, b6, b7, b8, b9, b10, b11, b12, b13, b14, b15, b16, b17, b18, b19⟩ := h
  exact ⟨b0, b1, b2, b3, b4, b5, b6, b7, b8, b9, fun y => absurd (hm.symm.trans y) (by simp), b11, b12, b13, b14, b15, b16, b17, b18, b19⟩

theorem with_stw {m : Nat} {s u : State} (x) (hm : m.testBit 11 = true) (h : Keeps m s u) : Keeps m s { u with stw := x } := by
  unfold Keeps at *; obtain ⟨b0, b1, b2, b3, b4, b5, b6, b7, b8, b9, b10, b11, b12, b13, b14, b15, b16, b17, b18, b19⟩ := h
  exact ⟨b0, b1, b2, b3, b4, b5, b6, b7, b8, b9, b10, fun y => absurd (hm.symm.trans y) (by simp), b12, b13, b14, b15, b16, b17, b18, b19⟩

theorem with_net {m : Nat} {s u : State} (x) (hm : m.testBit 12 = true) (h : Keeps m s u) : Keeps m s { u with net := x } := by
  unfold Keeps at *; obtain ⟨b0, b1, b2, b3, b4, b5, b6, b7, b8, b9, b10, b11, b12, b13, b14, b15, b16, b17, b18, b19⟩ := h
  exact ⟨b0, b1, b2, b3, b4, b5, b6, b7, b8, b9, b10, b11, fun y => absurd (hm.symm.trans y) (by simp), b13, b14, b15, b16, b17, b18, b19⟩

theorem with_host {m : Nat} {s u : State} (x) (hm : m.testBit 13 = true) (h : Keeps m s u) : Keeps m s { u with host := x } := by
  unfold Keeps at *; obtain ⟨b0, b1, b2, b3, b4, b5, b6, b7, b8, b9, b10, b11, b12, b13, b14, b15, b16, b17, b18, b19⟩ := h
  exact ⟨b0, b1, b2, b3, b4, b5, b6, b7, b8, b9, b10, b11, b12, fun y => absurd (hm.symm.trans y) (by simp), b14, b15, b16, b17, b18, b19⟩

theorem with_aos {m : Nat} {s u : State} (x) (hm : m.testBit 14 = true) (h : Keeps m s u) : Keeps m s { u with aos := x } := by
  unfold Keeps at *; obtain ⟨b0, b1, b2, b3, b4, b5, b6, b7, b8, b9, b10, b11, b12, b13, b14, b15, b16, b17, b18, b19⟩ := h
  exact ⟨b0, b1, b2, b3, b4, b5, b6, b7, b8, b9, b10, b11, b12, b13, fun y => absurd (hm.symm.trans y) (by simp), b15, b16, b17, b18, b19⟩

theorem with_regs {m : Nat} {s u : State} (x) (hm : m.testBit 15 = true) (h : Keeps m s u) : Keeps m s { u with regs := x } := by
  unfold Keeps at *; obtain ⟨b0, b1, b2, b3, b4, b5, b6, b7, b8, b9, b10, b11, b12, b13, b14, b15, b16, b17, b18, b19⟩ := h
  exact ⟨b0, b1, b2, b3, b4, b5, b6, b7, b8, b9, b10, b11, b12, b13, b14, fun y => absurd (hm.symm.trans y) (by simp), b16, b17, b18, b19⟩

theorem with_nodeId {m : Nat} {s u : State} (x) (hm : m.testBit 16 = true) (h : Keeps m s u) : Keeps m s { u with nodeId := x } := by
  unfold Keeps at *; obtain ⟨b0, b1, b2, b3, b4, b5, b6, b7, b8, b9, b10, b11, b12, b13, b14, b15, b16, b17, b18, b19⟩ := h
  exact ⟨b0, b1, b2, b3, b4, b5, b6, b7, b8, b9, b10, b11, b12, b13, b14, b15, fun y => absurd (hm.symm.trans y) (by simp), b17, b18, b19⟩

theorem with_out {m : Nat} {s u : State} (x) (hm : m.testBit 17 = true) (h : Keeps m s u) : Keeps m s { u with out := x } := by
  unfold Keeps at *; obtain ⟨b0, b1, b2, b3, b4, b5, b6, b7, b8, b9, b10, b11, b12, b13, b14, b15, b16, b17, b18, b19⟩ := h
  exact ⟨b0, b1, b2, b3, b4, b5, b6, b7, b8, b9, b10, b11, b12, b13, b14, b15, b16, fun y => absurd (hm.symm.trans y) (by simp), b18, b19⟩

theorem with_freeCtr {m : Nat} {s u : State} (x) (hm : m.testBit 18 = true) (h : Keeps m s u) : Keeps m s { u with freeCtr := x } := by
  unfold Keeps at *; obtain ⟨b0, b1, b2, b3, b4, b5, b6, b7, b8, b9, b10, b11, b12, b13, b14, b15, b16, b17, b18, b19⟩ := h
  exact ⟨b0, b1, b2, b3, b4, b5, b6, b7, b8, b9, b10, b11, b12, b13, b14, b15, b16, b17, fun y => absurd (hm.symm.trans y) (by simp), b19⟩

theorem with_pending {m : Nat} {s u : State} (x) (hm : m.testBit 19 = true) (h : Keeps m s u) : Keeps m s { u with pending := x } := by
  unfold Keeps at *; obtain ⟨b0, b1, b2, b3, b4, b5, b6, b7, b8, b9, b10, b11, b12, b13, b14, b15, b16, b17, b18, b19⟩ := h
  exact ⟨b0, b1, b2, b3, b4, b5, b6, b7, b8, b9, b10, b11, b12, b13, b14, b15, b16, b17, b18, fun y => absurd (hm.symm.trans y) (by simp)⟩

theorem tick {m : Nat} {s t : State} (h : Keeps m s t) (hm : m.testBit 0 = false := by rfl) : t.tick = s.tick := (h).1 hm
theorem variant {m : Nat} {s t : State} (h : Keeps m s t) (hm : m.testBit 1 = false := by rfl) : t.variant = s.variant := (h).2.1 hm
theorem mstate {m : Nat} {s t : State} (h : Keeps m s t) (hm : m.testBit 2 = false := by rfl) : t.mstate = s.mstate := (h).2.2.1 hm
theorem dies {m : Nat} {s t : State} (h : Keeps m s t) (hm : m.testBit 3 = false := by rfl) : t.dies = s.dies := (h).2.2.2.1 hm
theorem arr {m : Nat} {s t : State} (h : Keeps m s t) (hm : m.testBit 4 = false := by rfl) : t.arr = s.arr := (h).2.2.2.2.1 hm
theorem seq {m : Nat} {s t : State} (h : Keeps m s t) (hm : m.testBit 5 = false := by rfl) : t.seq = s.seq := (h).2.2.2.2.2.1 hm
theorem mem {m : Nat} {s t : State} (h : Keeps m s t) (hm : m.testBit 6 = false := by rfl) : t.mem = s.mem := (h).2.2.2.2.2.2.1 hm
theorem glv {m : Nat} {s t : State} (h : Keeps m s t) (hm : m.testBit 7 = false := by rfl) : t.glv = s.glv := (h).2.2.2.2.2.2.2.1 hm
theorem ledger {m : Nat} {s t : State} (h : Keeps m s t) (hm : m.testBit 8 = false := by rfl) : t.ledger = s.ledger := (h).2.2.2.2.2.2.2.2.1 hm
theorem rung {m : Nat} {s t : State} (h : Keeps m s t) (hm : m.testBit 9 = false := by rfl) : t.rung = s.rung := (h).2.2.2.2.2.2.2.2.2.1 hm
theorem keys {m : Nat} {s t : State} (h : Keeps m s t) (hm : m.testBit 10 = false := by rfl) : t.keys = s.keys := (h).2.2.2.2.2.2.2.2.2.2.1 hm
theorem stw {m : Nat} {s t : State} (h : Keeps m s t) (hm : m.testBit 11 = false := by rfl) : t.stw = s.stw := (h).2.2.2.2.2.2.2.2.2.2.2.1 hm
theorem net {m : Nat} {s t : State} (h : Keeps m s t) (hm : m.testBit 12 = false := by rfl) : t.net = s.net := (h).2.2.2.2.2.2.2.2.2.2.2.2.1 hm
theorem host {m : Nat} {s t : State} (h : Keeps m s t) (hm : m.testBit 13 = false := by rfl) : t.host = s.host := (h).2.2.2.2.2.2.2.2.2.2.2.2.2.1 hm
theorem aos {m : Nat} {s t : State} (h : Keeps m s t) (hm : m.testBit 14 = false := by rfl) : t.aos = s.aos := (h).2.2.2.2.2.2.2.2.2.2.2.2.2.2.1 hm
theorem regs {m : Nat} {s t : State} (h : Keeps m s t) (hm : m.testBit 15 = false := by rfl) : t.regs = s.regs := (h).2.2.2.2.2.2.2.2.2.2.2.2.2.2.2.1 hm
theorem nodeId {m : Nat} {s t : State} (h : Keeps m s t) (hm : m.testBit 16 = false := by rfl) : t.nodeId = s.nodeId := (h).2.2.2.2.2.2.2.2.2.2.2.2.2.2.2.2.1 hm
theorem out {m : Nat} {s t : State} (h : Keeps m s t) (hm : m.testBit 17 = false := by rfl) : t.out = s.out := (h).2.2.2.2.2.2.2.2.2.2.2.2.2.2.2.2.2.1 hm
theorem freeCtr {m : Nat} {s t : State} (h : Keeps m s t) (hm : m.testBit 18 = false := by rfl) : t.freeCtr = s.freeCtr := (h).2.2.2.2.2.2.2.2.2.2.2.2.2.2.2.2.2.2.1 hm
theorem pending {m : Nat} {s t : State} (h : Keeps m s t) (hm : m.testBit 19 = false := by rfl) : t.pending = s.pending := (h).2.2.2.2.2.2.2.2.2.2.2.2.2.2.2.2.2.2.2 hm

end State.Keeps

end Sys2Proof.Machine
end

