-- ==== Sys2Proof/Laws/FrameState.lean ====
section
/-! SUPPORT. The frame of each operation of Machine/State.lean: the blocks of the state that it may change (Laws/Keeps.lean). -/

set_option Elab.async false

namespace Sys2Proof.Machine

theorem State.onTick_keeps {m_ : Nat} {s_ : State} (s : State) (f : TickSt → TickSt) (hm_ : (m_ ||| 0x1) = m_) (h_ : State.Keeps m_ s_ s) : State.Keeps m_ s_ (State.onTick s f) := by
  refine State.Keeps.step (m1 := 0x1) ?_ hm_ h_
  unfold State.onTick
  repeat' first
    | (intro _)
    | (with_reducible exact State.Keeps.refl _ _)
    | (with_reducible assumption)
    | (with_reducible apply State.Keeps.with_tick _)
    | decide
    | split
    | dsimp only
    | dsimp +zetaDelta only

theorem State.onArr_keeps {m_ : Nat} {s_ : State} (s : State) (f : ArrayMem → ArrayMem) (hm_ : (m_ ||| 0x10) = m_) (h_ : State.Keeps m_ s_ s) : State.Keeps m_ s_ (State.onArr s f) := by
  refine State.Keeps.step (m1 := 0x10) ?_ hm_ h_
  unfold State.onArr
  repeat' first
    | (intro _)
    | (with_reducible exact State.Keeps.refl _ _)
    | (with_reducible assumption)
    | (with_reducible apply State.Keeps.with_arr _)
    | decide
    | split
    | dsimp only
    | dsimp +zetaDelta only

theorem State.onSeq_keeps {m_ : Nat} {s_ : State} (s : State) (f : SeqBlk → SeqBlk) (hm_ : (m_ ||| 0x20) = m_) (h_ : State.Keeps m_ s_ s) : State.Keeps m_ s_ (State.onSeq s f) := by
  refine State.Keeps.step (m1 := 0x20) ?_ hm_ h_
  unfold State.onSeq
  repeat' first
    | (intro _)
    | (with_reducible exact State.Keeps.refl _ _)
    | (with_reducible assumption)
    | (with_reducible apply State.Keeps.with_seq _)
    | decide
    | split
    | dsimp only
    | dsimp +zetaDelta only

theorem State.onMem_keeps {m_ : Nat} {s_ : State} (s : State) (f : MemBlk → MemBlk) (hm_ : (m_ ||| 0x40) = m_) (h_ : State.Keeps m_ s_ s) : State.Keeps m_ s_ (State.onMem s f) := by
  refine State.Keeps.step (m1 := 0x40) ?_ hm_ h_
  unfold State.onMem
  repeat' first
    | (intro _)
    | (with_reducible exact State.Keeps.refl _ _)
    | (with_reducible assumption)
    | (with_reducible apply State.Keeps.with_mem _)
    | decide
    | split
    | dsimp only
    | dsimp +zetaDelta only

theorem State.onDie_keeps {m_ : Nat} {s_ : State} (s : State) (k : Nat) (f : DieSt → DieSt) (hm_ : (m_ ||| 0x8) = m_) (h_ : State.Keeps m_ s_ s) : State.Keeps m_ s_ (State.onDie s k f) := by
  refine State.Keeps.step (m1 := 0x8) ?_ hm_ h_
  unfold State.onDie
  repeat' first
    | (intro _)
    | (with_reducible exact State.Keeps.refl _ _)
    | (with_reducible assumption)
    | (with_reducible apply State.Keeps.with_dies _)
    | decide
    | split
    | dsimp only
    | dsimp +zetaDelta only

theorem State.onGlv_keeps {m_ : Nat} {s_ : State} (s : State) (g : Nat) (f : GloveSt → GloveSt) (hm_ : (m_ ||| 0x80) = m_) (h_ : State.Keeps m_ s_ s) : State.Keeps m_ s_ (State.onGlv s g f) := by
  refine State.Keeps.step (m1 := 0x80) ?_ hm_ h_
  unfold State.onGlv
  repeat' first
    | (intro _)
    | (with_reducible exact State.Keeps.refl _ _)
    | (with_reducible assumption)
    | (with_reducible apply State.Keeps.with_glv _)
    | decide
    | split
    | dsimp only
    | dsimp +zetaDelta only

theorem State.onLedger_keeps {m_ : Nat} {s_ : State} (s : State) (f : LedgerSt → LedgerSt) (hm_ : (m_ ||| 0x100) = m_) (h_ : State.Keeps m_ s_ s) : State.Keeps m_ s_ (State.onLedger s f) := by
  refine State.Keeps.step (m1 := 0x100) ?_ hm_ h_
  unfold State.onLedger
  repeat' first
    | (intro _)
    | (with_reducible exact State.Keeps.refl _ _)
    | (with_reducible assumption)
    | (with_reducible apply State.Keeps.with_ledger _)
    | decide
    | split
    | dsimp only
    | dsimp +zetaDelta only

theorem State.onRung_keeps {m_ : Nat} {s_ : State} (s : State) (f : RungSt → RungSt) (hm_ : (m_ ||| 0x200) = m_) (h_ : State.Keeps m_ s_ s) : State.Keeps m_ s_ (State.onRung s f) := by
  refine State.Keeps.step (m1 := 0x200) ?_ hm_ h_
  unfold State.onRung
  repeat' first
    | (intro _)
    | (with_reducible exact State.Keeps.refl _ _)
    | (with_reducible assumption)
    | (with_reducible apply State.Keeps.with_rung _)
    | decide
    | split
    | dsimp only
    | dsimp +zetaDelta only

theorem State.onStw_keeps {m_ : Nat} {s_ : State} (s : State) (f : StewardBlk → StewardBlk) (hm_ : (m_ ||| 0x800) = m_) (h_ : State.Keeps m_ s_ s) : State.Keeps m_ s_ (State.onStw s f) := by
  refine State.Keeps.step (m1 := 0x800) ?_ hm_ h_
  unfold State.onStw
  repeat' first
    | (intro _)
    | (with_reducible exact State.Keeps.refl _ _)
    | (with_reducible assumption)
    | (with_reducible apply State.Keeps.with_stw _)
    | decide
    | split
    | dsimp only
    | dsimp +zetaDelta only

theorem State.onNet_keeps {m_ : Nat} {s_ : State} (s : State) (f : NetBlk → NetBlk) (hm_ : (m_ ||| 0x1000) = m_) (h_ : State.Keeps m_ s_ s) : State.Keeps m_ s_ (State.onNet s f) := by
  refine State.Keeps.step (m1 := 0x1000) ?_ hm_ h_
  unfold State.onNet
  repeat' first
    | (intro _)
    | (with_reducible exact State.Keeps.refl _ _)
    | (with_reducible assumption)
    | (with_reducible apply State.Keeps.with_net _)
    | decide
    | split
    | dsimp only
    | dsimp +zetaDelta only

theorem State.onHost_keeps {m_ : Nat} {s_ : State} (s : State) (f : HostBlk → HostBlk) (hm_ : (m_ ||| 0x2000) = m_) (h_ : State.Keeps m_ s_ s) : State.Keeps m_ s_ (State.onHost s f) := by
  refine State.Keeps.step (m1 := 0x2000) ?_ hm_ h_
  unfold State.onHost
  repeat' first
    | (intro _)
    | (with_reducible exact State.Keeps.refl _ _)
    | (with_reducible assumption)
    | (with_reducible apply State.Keeps.with_host _)
    | decide
    | split
    | dsimp only
    | dsimp +zetaDelta only

theorem State.onAos_keeps {m_ : Nat} {s_ : State} (s : State) (f : AosBlk → AosBlk) (hm_ : (m_ ||| 0x4000) = m_) (h_ : State.Keeps m_ s_ s) : State.Keeps m_ s_ (State.onAos s f) := by
  refine State.Keeps.step (m1 := 0x4000) ?_ hm_ h_
  unfold State.onAos
  repeat' first
    | (intro _)
    | (with_reducible exact State.Keeps.refl _ _)
    | (with_reducible assumption)
    | (with_reducible apply State.Keeps.with_aos _)
    | decide
    | split
    | dsimp only
    | dsimp +zetaDelta only

theorem State.onSeqEnt_keeps {m_ : Nat} {s_ : State} (s : State) (i : Nat) (f : SeqEnt → SeqEnt) (hm_ : (m_ ||| 0x800) = m_) (h_ : State.Keeps m_ s_ s) : State.Keeps m_ s_ (State.onSeqEnt s i f) := by
  refine State.Keeps.step (m1 := 0x800) ?_ hm_ h_
  unfold State.onSeqEnt
  repeat' first
    | (intro _)
    | (with_reducible exact State.Keeps.refl _ _)
    | (with_reducible assumption)
    | (with_reducible apply State.onStw_keeps)
    | decide
    | split
    | dsimp only
    | dsimp +zetaDelta only

theorem State.onServe_keeps {m_ : Nat} {s_ : State} (s : State) (g : Nat) (f : ServeSt → ServeSt) (hm_ : (m_ ||| 0x800) = m_) (h_ : State.Keeps m_ s_ s) : State.Keeps m_ s_ (State.onServe s g f) := by
  refine State.Keeps.step (m1 := 0x800) ?_ hm_ h_
  unfold State.onServe
  repeat' first
    | (intro _)
    | (with_reducible exact State.Keeps.refl _ _)
    | (with_reducible assumption)
    | (with_reducible apply State.onStw_keeps)
    | decide
    | split
    | dsimp only
    | dsimp +zetaDelta only

theorem State.onPlan_keeps {m_ : Nat} {s_ : State} (s : State) (p : Nat) (f : PlanSt → PlanSt) (hm_ : (m_ ||| 0x800) = m_) (h_ : State.Keeps m_ s_ s) : State.Keeps m_ s_ (State.onPlan s p f) := by
  refine State.Keeps.step (m1 := 0x800) ?_ hm_ h_
  unfold State.onPlan
  repeat' first
    | (intro _)
    | (with_reducible exact State.Keeps.refl _ _)
    | (with_reducible assumption)
    | (with_reducible apply State.onStw_keeps)
    | decide
    | split
    | dsimp only
    | dsimp +zetaDelta only

theorem State.onModel_keeps {m_ : Nat} {s_ : State} (s : State) (m : Nat) (f : MdlSt → MdlSt) (hm_ : (m_ ||| 0x800) = m_) (h_ : State.Keeps m_ s_ s) : State.Keeps m_ s_ (State.onModel s m f) := by
  refine State.Keeps.step (m1 := 0x800) ?_ hm_ h_
  unfold State.onModel
  repeat' first
    | (intro _)
    | (with_reducible exact State.Keeps.refl _ _)
    | (with_reducible assumption)
    | (with_reducible apply State.onStw_keeps)
    | decide
    | split
    | dsimp only
    | dsimp +zetaDelta only

theorem State.onAdapter_keeps {m_ : Nat} {s_ : State} (s : State) (a : Nat) (f : AdpSt → AdpSt) (hm_ : (m_ ||| 0x800) = m_) (h_ : State.Keeps m_ s_ s) : State.Keeps m_ s_ (State.onAdapter s a f) := by
  refine State.Keeps.step (m1 := 0x800) ?_ hm_ h_
  unfold State.onAdapter
  repeat' first
    | (intro _)
    | (with_reducible exact State.Keeps.refl _ _)
    | (with_reducible assumption)
    | (with_reducible apply State.onStw_keeps)
    | decide
    | split
    | dsimp only
    | dsimp +zetaDelta only

theorem State.onNode_keeps {m_ : Nat} {s_ : State} (s : State) (n : Nat) (f : NodeSt → NodeSt) (hm_ : (m_ ||| 0x800) = m_) (h_ : State.Keeps m_ s_ s) : State.Keeps m_ s_ (State.onNode s n f) := by
  refine State.Keeps.step (m1 := 0x800) ?_ hm_ h_
  unfold State.onNode
  repeat' first
    | (intro _)
    | (with_reducible exact State.Keeps.refl _ _)
    | (with_reducible assumption)
    | (with_reducible apply State.onStw_keeps)
    | decide
    | split
    | dsimp only
    | dsimp +zetaDelta only

theorem State.onLink_keeps {m_ : Nat} {s_ : State} (s : State) (l : Nat) (f : LinkSt → LinkSt) (hm_ : (m_ ||| 0x1000) = m_) (h_ : State.Keeps m_ s_ s) : State.Keeps m_ s_ (State.onLink s l f) := by
  refine State.Keeps.step (m1 := 0x1000) ?_ hm_ h_
  unfold State.onLink
  repeat' first
    | (intro _)
    | (with_reducible exact State.Keeps.refl _ _)
    | (with_reducible assumption)
    | (with_reducible apply State.onNet_keeps)
    | decide
    | split
    | dsimp only
    | dsimp +zetaDelta only

theorem State.onWorker_keeps {m_ : Nat} {s_ : State} (s : State) (p : Nat) (f : WrkSt → WrkSt) (hm_ : (m_ ||| 0x1000) = m_) (h_ : State.Keeps m_ s_ s) : State.Keeps m_ s_ (State.onWorker s p f) := by
  refine State.Keeps.step (m1 := 0x1000) ?_ hm_ h_
  unfold State.onWorker
  repeat' first
    | (intro _)
    | (with_reducible exact State.Keeps.refl _ _)
    | (with_reducible assumption)
    | (with_reducible apply State.onNet_keeps)
    | decide
    | split
    | dsimp only
    | dsimp +zetaDelta only

end Sys2Proof.Machine
end

