-- ==== Sys2Proof/Laws/FrameFlags.lean ====
section
/-! SUPPORT. The frame of each operation of Machine/Flags.lean: the blocks of the state that it may change (Laws/Keeps.lean). -/

set_option Elab.async false

namespace Sys2Proof.Machine

theorem State.setReg_keeps {m_ : Nat} {s_ : State} (s : State) (a : Nat) (v : Word) (hm_ : (m_ ||| 0x8000) = m_) (h_ : State.Keeps m_ s_ s) : State.Keeps m_ s_ (State.setReg s a v) := by
  refine State.Keeps.step (m1 := 0x8000) ?_ hm_ h_
  unfold State.setReg
  repeat' first
    | (intro _)
    | (with_reducible exact State.Keeps.refl _ _)
    | (with_reducible assumption)
    | (with_reducible apply State.Keeps.with_regs _)
    | decide
    | split
    | dsimp only
    | dsimp +zetaDelta only

theorem State.setFld_keeps {m_ : Nat} {s_ : State} (s : State) (a : Nat) (lo : Nat) (w : Nat) (v : Nat) (hm_ : (m_ ||| 0x8000) = m_) (h_ : State.Keeps m_ s_ s) : State.Keeps m_ s_ (State.setFld s a lo w v) := by
  refine State.Keeps.step (m1 := 0x8000) ?_ hm_ h_
  unfold State.setFld
  repeat' first
    | (intro _)
    | (with_reducible exact State.Keeps.refl _ _)
    | (with_reducible assumption)
    | (with_reducible apply State.setReg_keeps)
    | decide
    | split
    | dsimp only
    | dsimp +zetaDelta only

theorem State.count_keeps {m_ : Nat} {s_ : State} (s : State) (a : Nat) (n : Nat) (hm_ : (m_ ||| 0x8000) = m_) (h_ : State.Keeps m_ s_ s) : State.Keeps m_ s_ (State.count s a n) := by
  refine State.Keeps.step (m1 := 0x8000) ?_ hm_ h_
  unfold State.count
  repeat' first
    | (intro _)
    | (with_reducible exact State.Keeps.refl _ _)
    | (with_reducible assumption)
    | (with_reducible apply State.setReg_keeps)
    | decide
    | split
    | dsimp only
    | dsimp +zetaDelta only

theorem State.raise_keeps {m_ : Nat} {s_ : State} (s : State) (evt : Nat) (bit : Nat) (n : Nat) (hm_ : (m_ ||| 0x8000) = m_) (h_ : State.Keeps m_ s_ s) : State.Keeps m_ s_ (State.raise s evt bit n) := by
  refine State.Keeps.step (m1 := 0x8000) ?_ hm_ h_
  unfold State.raise
  repeat' first
    | (intro _)
    | (with_reducible exact State.Keeps.refl _ _)
    | (with_reducible assumption)
    | (with_reducible apply State.setFld_keeps)
    | (with_reducible apply State.count_keeps)
    | decide
    | extract_lets
    | split
    | dsimp only
    | dsimp +zetaDelta only

theorem State.raiseMask_keeps {m_ : Nat} {s_ : State} (s : State) (evt : Nat) (m : Word) (hm_ : (m_ ||| 0x8000) = m_) (h_ : State.Keeps m_ s_ s) : State.Keeps m_ s_ (State.raiseMask s evt m) := by
  refine State.Keeps.step (m1 := 0x8000) ?_ hm_ h_
  unfold State.raiseMask
  repeat' first
    | (intro _)
    | (with_reducible exact State.Keeps.refl _ _)
    | (with_reducible assumption)
    | (with_reducible apply State.Keeps.ite)
    | (with_reducible apply State.raise_keeps)
    | (with_reducible apply State.Keeps.foldl)
    | (with_reducible apply State.Keeps.foldlFst)
    | decide
    | split
    | dsimp only
    | dsimp +zetaDelta only

theorem State.emit_keeps {m_ : Nat} {s_ : State} (s : State) (o : Output) (hm_ : (m_ ||| 0x20000) = m_) (h_ : State.Keeps m_ s_ s) : State.Keeps m_ s_ (State.emit s o) := by
  refine State.Keeps.step (m1 := 0x20000) ?_ hm_ h_
  unfold State.emit
  repeat' first
    | (intro _)
    | (with_reducible exact State.Keeps.refl _ _)
    | (with_reducible assumption)
    | (with_reducible apply State.Keeps.with_out _)
    | decide
    | split
    | dsimp only
    | dsimp +zetaDelta only

theorem State.draw_keeps {m_ : Nat} {s_ : State} (s : State) (hm_ : (m_ ||| 0x40000) = m_) (h_ : State.Keeps m_ s_ s) : State.Keeps m_ s_ (State.draw s).2 := by
  refine State.Keeps.step (m1 := 0x40000) ?_ hm_ h_
  unfold State.draw
  repeat' first
    | (intro _)
    | (with_reducible exact State.Keeps.refl _ _)
    | (with_reducible assumption)
    | (with_reducible apply State.Keeps.with_freeCtr _)
    | decide
    | split
    | dsimp only
    | dsimp +zetaDelta only

theorem State.spend_keeps {m_ : Nat} {s_ : State} (s : State) (n : Nat) (hm_ : (m_ ||| 0x40000) = m_) (h_ : State.Keeps m_ s_ s) : State.Keeps m_ s_ (State.spend s n) := by
  refine State.Keeps.step (m1 := 0x40000) ?_ hm_ h_
  unfold State.spend
  repeat' first
    | (intro _)
    | (with_reducible exact State.Keeps.refl _ _)
    | (with_reducible assumption)
    | (with_reducible apply State.Keeps.with_freeCtr _)
    | decide
    | split
    | dsimp only
    | dsimp +zetaDelta only

theorem State.toMode_keeps {m_ : Nat} {s_ : State} (s : State) (m : MState) (hm_ : (m_ ||| 0x4) = m_) (h_ : State.Keeps m_ s_ s) : State.Keeps m_ s_ (State.toMode s m) := by
  refine State.Keeps.step (m1 := 0x4) ?_ hm_ h_
  unfold State.toMode
  repeat' first
    | (intro _)
    | (with_reducible exact State.Keeps.refl _ _)
    | (with_reducible assumption)
    | (with_reducible apply State.Keeps.with_mstate _)
    | decide
    | split
    | dsimp only
    | dsimp +zetaDelta only

theorem State.toNode_keeps {m_ : Nat} {s_ : State} (s : State) (n : Option Nat) (hm_ : (m_ ||| 0x10000) = m_) (h_ : State.Keeps m_ s_ s) : State.Keeps m_ s_ (State.toNode s n) := by
  refine State.Keeps.step (m1 := 0x10000) ?_ hm_ h_
  unfold State.toNode
  repeat' first
    | (intro _)
    | (with_reducible exact State.Keeps.refl _ _)
    | (with_reducible assumption)
    | (with_reducible apply State.Keeps.with_nodeId _)
    | decide
    | split
    | dsimp only
    | dsimp +zetaDelta only

theorem State.mapDies_keeps {m_ : Nat} {s_ : State} (s : State) (f : DieSt → DieSt) (hm_ : (m_ ||| 0x8) = m_) (h_ : State.Keeps m_ s_ s) : State.Keeps m_ s_ (State.mapDies s f) := by
  refine State.Keeps.step (m1 := 0x8) ?_ hm_ h_
  unfold State.mapDies
  repeat' first
    | (intro _)
    | (with_reducible exact State.Keeps.refl _ _)
    | (with_reducible assumption)
    | (with_reducible apply State.Keeps.with_dies _)
    | decide
    | split
    | dsimp only
    | dsimp +zetaDelta only

theorem State.keepRegs_keeps {m_ : Nat} {s_ : State} (s : State) (f : Nat → Bool) (hm_ : (m_ ||| 0x8000) = m_) (h_ : State.Keeps m_ s_ s) : State.Keeps m_ s_ (State.keepRegs s f) := by
  refine State.Keeps.step (m1 := 0x8000) ?_ hm_ h_
  unfold State.keepRegs
  repeat' first
    | (intro _)
    | (with_reducible exact State.Keeps.refl _ _)
    | (with_reducible assumption)
    | (with_reducible apply State.Keeps.with_regs _)
    | decide
    | split
    | dsimp only
    | dsimp +zetaDelta only

theorem State.stampSeq_keeps {m_ : Nat} {s_ : State} (s : State) (i : Nat) (hm_ : (m_ ||| 0x40800) = m_) (h_ : State.Keeps m_ s_ s) : State.Keeps m_ s_ (State.stampSeq s i) := by
  refine State.Keeps.step (m1 := 0x40800) ?_ hm_ h_
  unfold State.stampSeq
  repeat' first
    | (intro _)
    | (with_reducible exact State.Keeps.refl _ _)
    | (with_reducible assumption)
    | (with_reducible apply State.spend_keeps)
    | (with_reducible apply State.onSeqEnt_keeps)
    | decide
    | split
    | dsimp only
    | dsimp +zetaDelta only

theorem State.stampExtent_keeps {m_ : Nat} {s_ : State} (s : State) (slot : Nat) (hm_ : (m_ ||| 0x40040) = m_) (h_ : State.Keeps m_ s_ s) : State.Keeps m_ s_ (State.stampExtent s slot) := by
  refine State.Keeps.step (m1 := 0x40040) ?_ hm_ h_
  unfold State.stampExtent
  repeat' first
    | (intro _)
    | (with_reducible exact State.Keeps.refl _ _)
    | (with_reducible assumption)
    | (with_reducible apply State.spend_keeps)
    | (with_reducible apply State.onMem_keeps)
    | decide
    | split
    | dsimp only
    | dsimp +zetaDelta only

end Sys2Proof.Machine
end

