-- ==== Sys2Proof/Laws/FrameOps.lean ====
section
/-! SUPPORT. The frame of each operation of Machine/Ops.lean: the blocks of the state that it may change (Laws/Keeps.lean). -/

set_option Elab.async false

namespace Sys2Proof.Machine

theorem State.onPalm_keeps {m_ : Nat} {s_ : State} (s : State) (p : Nat) (f : PalmSt → PalmSt) (hm_ : (m_ ||| 0x10) = m_) (h_ : State.Keeps m_ s_ s) : State.Keeps m_ s_ (State.onPalm s p f) := by
  refine State.Keeps.step (m1 := 0x10) ?_ hm_ h_
  unfold State.onPalm
  repeat' first
    | (intro _)
    | (with_reducible exact State.Keeps.refl _ _)
    | (with_reducible assumption)
    | (with_reducible apply State.onArr_keeps)
    | decide
    | split
    | dsimp only
    | dsimp +zetaDelta only

theorem State.onCell_keeps {m_ : Nat} {s_ : State} (s : State) (k : Nat) (f : CellSt → CellSt) (hm_ : (m_ ||| 0x10) = m_) (h_ : State.Keeps m_ s_ s) : State.Keeps m_ s_ (State.onCell s k f) := by
  refine State.Keeps.step (m1 := 0x10) ?_ hm_ h_
  unfold State.onCell
  repeat' first
    | (intro _)
    | (with_reducible exact State.Keeps.refl _ _)
    | (with_reducible assumption)
    | (with_reducible apply State.onArr_keeps)
    | decide
    | split
    | dsimp only
    | dsimp +zetaDelta only

theorem State.onMCell_keeps {m_ : Nat} {s_ : State} (s : State) (g : Nat) (f : MCellSt → MCellSt) (hm_ : (m_ ||| 0x10) = m_) (h_ : State.Keeps m_ s_ s) : State.Keeps m_ s_ (State.onMCell s g f) := by
  refine State.Keeps.step (m1 := 0x10) ?_ hm_ h_
  unfold State.onMCell
  repeat' first
    | (intro _)
    | (with_reducible exact State.Keeps.refl _ _)
    | (with_reducible assumption)
    | (with_reducible apply State.onArr_keeps)
    | decide
    | split
    | dsimp only
    | dsimp +zetaDelta only

theorem State.onPat_keeps {m_ : Nat} {s_ : State} (s : State) (g : Nat) (f : PatSt → PatSt) (hm_ : (m_ ||| 0x20) = m_) (h_ : State.Keeps m_ s_ s) : State.Keeps m_ s_ (State.onPat s g f) := by
  refine State.Keeps.step (m1 := 0x20) ?_ hm_ h_
  unfold State.onPat
  repeat' first
    | (intro _)
    | (with_reducible exact State.Keeps.refl _ _)
    | (with_reducible assumption)
    | (with_reducible apply State.onSeq_keeps)
    | decide
    | split
    | dsimp only
    | dsimp +zetaDelta only

theorem State.onGsq_keeps {m_ : Nat} {s_ : State} (s : State) (q : Nat) (f : GsqSt → GsqSt) (hm_ : (m_ ||| 0x20) = m_) (h_ : State.Keeps m_ s_ s) : State.Keeps m_ s_ (State.onGsq s q f) := by
  refine State.Keeps.step (m1 := 0x20) ?_ hm_ h_
  unfold State.onGsq
  repeat' first
    | (intro _)
    | (with_reducible exact State.Keeps.refl _ _)
    | (with_reducible assumption)
    | (with_reducible apply State.onSeq_keeps)
    | decide
    | split
    | dsimp only
    | dsimp +zetaDelta only

theorem State.putRow_keeps {m_ : Nat} {s_ : State} (s : State) (g : Nat) (r : Nat) (d : List Byte) (hm_ : (m_ ||| 0x10) = m_) (h_ : State.Keeps m_ s_ s) : State.Keeps m_ s_ (State.putRow s g r d) := by
  refine State.Keeps.step (m1 := 0x10) ?_ hm_ h_
  unfold State.putRow
  repeat' first
    | (intro _)
    | (with_reducible exact State.Keeps.refl _ _)
    | (with_reducible assumption)
    | (with_reducible apply State.onArr_keeps)
    | decide
    | split
    | dsimp only
    | dsimp +zetaDelta only

theorem State.scrambleRows_keeps {m_ : Nat} {s_ : State} (s : State) (g : Nat) (r : Nat) (n : Nat) (hm_ : (m_ ||| 0x40010) = m_) (h_ : State.Keeps m_ s_ s) : State.Keeps m_ s_ (State.scrambleRows s g r n) := by
  refine State.Keeps.step (m1 := 0x40010) ?_ hm_ h_
  unfold State.scrambleRows
  repeat' first
    | (intro _)
    | (with_reducible exact State.Keeps.refl _ _)
    | (with_reducible assumption)
    | (with_reducible apply State.spend_keeps)
    | (with_reducible apply State.onMCell_keeps)
    | (with_reducible apply State.onArr_keeps)
    | decide
    | extract_lets
    | split
    | dsimp only
    | dsimp +zetaDelta only

theorem State.onFrame_keeps {m_ : Nat} {s_ : State} (s : State) (f : Nat) (g : FrameSt → FrameSt) (hm_ : (m_ ||| 0x40) = m_) (h_ : State.Keeps m_ s_ s) : State.Keeps m_ s_ (State.onFrame s f g) := by
  refine State.Keeps.step (m1 := 0x40) ?_ hm_ h_
  unfold State.onFrame
  repeat' first
    | (intro _)
    | (with_reducible exact State.Keeps.refl _ _)
    | (with_reducible assumption)
    | (with_reducible apply State.onMem_keeps)
    | decide
    | split
    | dsimp only
    | dsimp +zetaDelta only

theorem State.onStack_keeps {m_ : Nat} {s_ : State} (s : State) (n : Nat) (f : StackSt → StackSt) (hm_ : (m_ ||| 0x40) = m_) (h_ : State.Keeps m_ s_ s) : State.Keeps m_ s_ (State.onStack s n f) := by
  refine State.Keeps.step (m1 := 0x40) ?_ hm_ h_
  unfold State.onStack
  repeat' first
    | (intro _)
    | (with_reducible exact State.Keeps.refl _ _)
    | (with_reducible assumption)
    | (with_reducible apply State.onMem_keeps)
    | decide
    | split
    | dsimp only
    | dsimp +zetaDelta only

theorem State.putCopy_keeps {m_ : Nat} {s_ : State} (s : State) (f : Nat) (u : Nat) (d : List Byte) (hm_ : (m_ ||| 0x40) = m_) (h_ : State.Keeps m_ s_ s) : State.Keeps m_ s_ (State.putCopy s f u d) := by
  refine State.Keeps.step (m1 := 0x40) ?_ hm_ h_
  unfold State.putCopy
  repeat' first
    | (intro _)
    | (with_reducible exact State.Keeps.refl _ _)
    | (with_reducible assumption)
    | (with_reducible apply State.onMem_keeps)
    | (with_reducible apply State.Keeps.ofPair (by with_reducible assumption))
    | decide
    | extract_lets
    | split
    | dsimp only
    | dsimp +zetaDelta only

theorem State.offPoison_keeps {m_ : Nat} {s_ : State} (s : State) (f : Nat) (u : Nat) (hm_ : (m_ ||| 0x40) = m_) (h_ : State.Keeps m_ s_ s) : State.Keeps m_ s_ (State.offPoison s f u) := by
  refine State.Keeps.step (m1 := 0x40) ?_ hm_ h_
  unfold State.offPoison
  repeat' first
    | (intro _)
    | (with_reducible exact State.Keeps.refl _ _)
    | (with_reducible assumption)
    | (with_reducible apply State.Keeps.ite)
    | (with_reducible apply State.onStack_keeps)
    | (with_reducible apply State.onFrame_keeps)
    | decide
    | extract_lets
    | split
    | dsimp only
    | dsimp +zetaDelta only

theorem State.putUnit_keeps {m_ : Nat} {s_ : State} (s : State) (f : Nat) (u : Nat) (d : List Byte) (whole : Bool) (hm_ : (m_ ||| 0x40) = m_) (h_ : State.Keeps m_ s_ s) : State.Keeps m_ s_ (State.putUnit s f u d whole) := by
  refine State.Keeps.step (m1 := 0x40) ?_ hm_ h_
  unfold State.putUnit
  repeat' first
    | (intro _)
    | (with_reducible exact State.Keeps.refl _ _)
    | (with_reducible assumption)
    | (with_reducible apply State.Keeps.ite)
    | (with_reducible apply State.putCopy_keeps)
    | (with_reducible apply State.offPoison_keeps)
    | (with_reducible apply State.Keeps.ofPair (by with_reducible assumption))
    | decide
    | extract_lets
    | split
    | dsimp only
    | dsimp +zetaDelta only

theorem State.scrambleNear_keeps {m_ : Nat} {s_ : State} (s : State) (ofs : Nat) (len : Nat) (hm_ : (m_ ||| 0x40) = m_) (h_ : State.Keeps m_ s_ s) : State.Keeps m_ s_ (State.scrambleNear s ofs len) := by
  refine State.Keeps.step (m1 := 0x40) ?_ hm_ h_
  unfold State.scrambleNear
  repeat' first
    | (intro _)
    | (with_reducible exact State.Keeps.refl _ _)
    | (with_reducible assumption)
    | (with_reducible apply State.Keeps.ite)
    | (with_reducible apply State.onMem_keeps)
    | (with_reducible apply State.Keeps.foldl)
    | (with_reducible apply State.Keeps.foldlFst)
    | (with_reducible apply State.Keeps.ofPair (by with_reducible assumption))
    | decide
    | extract_lets
    | split
    | dsimp only
    | dsimp +zetaDelta only

theorem State.elog_keeps {m_ : Nat} {s_ : State} (s : State) (k : Nat) (c : Nat) (f : Nat) (u : Nat) (kind : Nat) (g : Nat) (write : Bool) (system : Bool) (hm_ : (m_ ||| 0x8000) = m_) (h_ : State.Keeps m_ s_ s) : State.Keeps m_ s_ (State.elog s k c f u kind g write system) := by
  refine State.Keeps.step (m1 := 0x8000) ?_ hm_ h_
  unfold State.elog
  repeat' first
    | (intro _)
    | (with_reducible exact State.Keeps.refl _ _)
    | (with_reducible assumption)
    | (with_reducible apply State.Keeps.ite)
    | (with_reducible apply State.setReg_keeps)
    | decide
    | split
    | dsimp only
    | dsimp +zetaDelta only

theorem State.refuseNear_keeps {m_ : Nat} {s_ : State} (s : State) (f : Nat) (u : Nat) (r : NearRef) (a : Access) (write : Bool) (hm_ : (m_ ||| 0x8000) = m_) (h_ : State.Keeps m_ s_ s) : State.Keeps m_ s_ (State.refuseNear s f u r a write) := by
  refine State.Keeps.step (m1 := 0x8000) ?_ hm_ h_
  unfold State.refuseNear
  repeat' first
    | (intro _)
    | (with_reducible exact State.Keeps.refl _ _)
    | (with_reducible assumption)
    | (with_reducible apply State.elog_keeps)
    | (with_reducible apply State.raise_keeps)
    | (with_reducible apply State.Keeps.ofPair (by with_reducible assumption))
    | decide
    | extract_lets
    | split
    | dsimp only
    | dsimp +zetaDelta only

theorem State.refuseNoFrame_keeps {m_ : Nat} {s_ : State} (s : State) (k : Nat) (ofs : Nat) (a : Access) (write : Bool) (hm_ : (m_ ||| 0x8000) = m_) (h_ : State.Keeps m_ s_ s) : State.Keeps m_ s_ (State.refuseNoFrame s k ofs a write) := by
  refine State.Keeps.step (m1 := 0x8000) ?_ hm_ h_
  unfold State.refuseNoFrame
  repeat' first
    | (intro _)
    | (with_reducible exact State.Keeps.refl _ _)
    | (with_reducible assumption)
    | (with_reducible apply State.elog_keeps)
    | (with_reducible apply State.raise_keeps)
    | decide
    | split
    | dsimp only
    | dsimp +zetaDelta only

end Sys2Proof.Machine
end

