-- ==== Sys2Proof/Laws/FrameLog.lean ====
section
/-! SUPPORT. The frame of each operation of Machine/Log.lean: the blocks of the state that it may change (Laws/Keeps.lean). -/

set_option Elab.async false

namespace Sys2Proof.Machine

theorem State.alert_keeps {m_ : Nat} {s_ : State} (s : State) (b : Nat) (hm_ : (m_ ||| 0x8000) = m_) (h_ : State.Keeps m_ s_ s) : State.Keeps m_ s_ (State.alert s b) := by
  refine State.Keeps.step (m1 := 0x8000) ?_ hm_ h_
  unfold State.alert
  repeat' first
    | (intro _)
    | (with_reducible exact State.Keeps.refl _ _)
    | (with_reducible assumption)
    | (with_reducible apply State.setFld_keeps)
    | decide
    | split
    | dsimp only
    | dsimp +zetaDelta only

theorem State.logEntry_keeps {m_ : Nat} {s_ : State} (s : State) (cls : Nat) (obj : Nat) (idx : Nat) (cause : Nat) (glove : Nat) (detail : Word) (hm_ : (m_ ||| 0x8000) = m_) (h_ : State.Keeps m_ s_ s) : State.Keeps m_ s_ (State.logEntry s cls obj idx cause glove detail) := by
  refine State.Keeps.step (m1 := 0x8000) ?_ hm_ h_
  unfold State.logEntry
  repeat' first
    | (intro _)
    | (with_reducible exact State.Keeps.refl _ _)
    | (with_reducible assumption)
    | (with_reducible apply State.Keeps.ite)
    | (with_reducible apply State.setReg_keeps)
    | (with_reducible apply State.raise_keeps)
    | (with_reducible apply State.alert_keeps)
    | decide
    | extract_lets
    | split
    | dsimp only
    | dsimp +zetaDelta only

theorem State.errClass_keeps {m_ : Nat} {s_ : State} (s : State) (cls : Nat) (obj : Nat) (idx : Nat) (cause : Nat) (glove : Nat) (detail : Word) (hm_ : (m_ ||| 0x8000) = m_) (h_ : State.Keeps m_ s_ s) : State.Keeps m_ s_ (State.errClass s cls obj idx cause glove detail) := by
  refine State.Keeps.step (m1 := 0x8000) ?_ hm_ h_
  unfold State.errClass
  repeat' first
    | (intro _)
    | (with_reducible exact State.Keeps.refl _ _)
    | (with_reducible assumption)
    | (with_reducible apply State.Keeps.ite)
    | (with_reducible apply State.raise_keeps)
    | (with_reducible apply State.logEntry_keeps)
    | decide
    | split
    | dsimp only
    | dsimp +zetaDelta only

theorem State.corrected_keeps {m_ : Nat} {s_ : State} (s : State) (hm_ : (m_ ||| 0x8000) = m_) (h_ : State.Keeps m_ s_ s) : State.Keeps m_ s_ (State.corrected s) := by
  refine State.Keeps.step (m1 := 0x8000) ?_ hm_ h_
  unfold State.corrected
  repeat' first
    | (intro _)
    | (with_reducible exact State.Keeps.refl _ _)
    | (with_reducible assumption)
    | (with_reducible apply State.raise_keeps)
    | decide
    | split
    | dsimp only
    | dsimp +zetaDelta only

theorem State.fenceCount_keeps {m_ : Nat} {s_ : State} (s : State) (hm_ : (m_ ||| 0x8000) = m_) (h_ : State.Keeps m_ s_ s) : State.Keeps m_ s_ (State.fenceCount s) := by
  refine State.Keeps.step (m1 := 0x8000) ?_ hm_ h_
  unfold State.fenceCount
  repeat' first
    | (intro _)
    | (with_reducible exact State.Keeps.refl _ _)
    | (with_reducible assumption)
    | (with_reducible apply State.raise_keeps)
    | decide
    | split
    | dsimp only
    | dsimp +zetaDelta only

theorem State.trainHost_keeps {m_ : Nat} {s_ : State} (s : State) (hm_ : (m_ ||| 0x42000) = m_) (h_ : State.Keeps m_ s_ s) : State.Keeps m_ s_ (State.trainHost s) := by
  refine State.Keeps.step (m1 := 0x42000) ?_ hm_ h_
  unfold State.trainHost
  repeat' first
    | (intro _)
    | (with_reducible exact State.Keeps.refl _ _)
    | (with_reducible assumption)
    | (with_reducible apply State.Keeps.ite)
    | (with_reducible apply State.draw_keeps)
    | (with_reducible apply State.onHost_keeps)
    | (with_reducible apply State.Keeps.ofPair (by with_reducible assumption))
    | (with_reducible apply State.Keeps.ofPair2 (by with_reducible assumption))
    | decide
    | extract_lets
    | split
    | dsimp only
    | dsimp +zetaDelta only

theorem State.onCq_keeps {m_ : Nat} {s_ : State} (s : State) (c : Nat) (f : CplRing → CplRing) (hm_ : (m_ ||| 0x2000) = m_) (h_ : State.Keeps m_ s_ s) : State.Keeps m_ s_ (State.onCq s c f) := by
  refine State.Keeps.step (m1 := 0x2000) ?_ hm_ h_
  unfold State.onCq
  repeat' first
    | (intro _)
    | (with_reducible exact State.Keeps.refl _ _)
    | (with_reducible assumption)
    | (with_reducible apply State.onHost_keeps)
    | decide
    | split
    | dsimp only
    | dsimp +zetaDelta only

theorem State.fireVec_keeps {m_ : Nat} {s_ : State} (s : State) (c : Nat) (hm_ : (m_ ||| 0x22000) = m_) (h_ : State.Keeps m_ s_ s) : State.Keeps m_ s_ (State.fireVec s c) := by
  refine State.Keeps.step (m1 := 0x22000) ?_ hm_ h_
  unfold State.fireVec
  repeat' first
    | (intro _)
    | (with_reducible exact State.Keeps.refl _ _)
    | (with_reducible assumption)
    | (with_reducible apply State.Keeps.ite)
    | (with_reducible apply State.onHost_keeps)
    | (with_reducible apply State.emit_keeps)
    | (with_reducible apply State.onCq_keeps)
    | decide
    | extract_lets
    | split
    | dsimp only
    | dsimp +zetaDelta only

theorem State.writeCq_keeps {m_ : Nat} {s_ : State} (s : State) (c : Nat) (e : List Word) (hm_ : (m_ ||| 0x22000) = m_) (h_ : State.Keeps m_ s_ s) : State.Keeps m_ s_ (State.writeCq s c e) := by
  refine State.Keeps.step (m1 := 0x22000) ?_ hm_ h_
  unfold State.writeCq
  repeat' first
    | (intro _)
    | (with_reducible exact State.Keeps.refl _ _)
    | (with_reducible assumption)
    | (with_reducible apply State.Keeps.ite)
    | (with_reducible apply State.fireVec_keeps)
    | (with_reducible apply State.emit_keeps)
    | (with_reducible apply State.onCq_keeps)
    | decide
    | extract_lets
    | split
    | dsimp only
    | dsimp +zetaDelta only

theorem State.putCq_keeps {m_ : Nat} {s_ : State} (s : State) (c : Nat) (kind : Nat) (e : List Word) (hm_ : (m_ ||| 0x2A000) = m_) (h_ : State.Keeps m_ s_ s) : State.Keeps m_ s_ (State.putCq s c kind e) := by
  refine State.Keeps.step (m1 := 0x2A000) ?_ hm_ h_
  unfold State.putCq
  repeat' first
    | (intro _)
    | (with_reducible exact State.Keeps.refl _ _)
    | (with_reducible assumption)
    | (with_reducible apply State.Keeps.ite)
    | (with_reducible apply State.raise_keeps)
    | (with_reducible apply State.writeCq_keeps)
    | (with_reducible apply State.onCq_keeps)
    | decide
    | split
    | dsimp only
    | dsimp +zetaDelta only

theorem State.drainCq_keeps {m_ : Nat} {s_ : State} (s : State) (c : Nat) (y0 : Nat) (hm_ : (m_ ||| 0x22000) = m_) (h_ : State.Keeps m_ s_ s) : State.Keeps m_ s_ (State.drainCq s c y0) := by
  induction y0 generalizing s with
  | zero =>
    unfold State.drainCq
    repeat' first
      | (intro _)
      | (with_reducible exact State.Keeps.refl _ _)
      | (with_reducible assumption)
      | (with_reducible apply ih_)
      | (with_reducible apply State.Keeps.ite)
      | (with_reducible apply State.onCq_keeps)
      | (with_reducible apply State.writeCq_keeps)
      | exact State.Keeps.sub hm_ (by decide)
      | exact State.Keeps.bit hm_ (by decide)
      | split
      | dsimp only
      | dsimp +zetaDelta only
  | succ k_ ih_ =>
    unfold State.drainCq
    repeat' first
      | (intro _)
      | (with_reducible exact State.Keeps.refl _ _)
      | (with_reducible assumption)
      | (with_reducible apply ih_)
      | (with_reducible apply State.Keeps.ite)
      | (with_reducible apply State.onCq_keeps)
      | (with_reducible apply State.writeCq_keeps)
      | exact State.Keeps.sub hm_ (by decide)
      | exact State.Keeps.bit hm_ (by decide)
      | split
      | dsimp only
      | dsimp +zetaDelta only

theorem State.complete_keeps {m_ : Nat} {s_ : State} (s : State) (c : HostCmd) (status : Nat) (r0 : Nat) (r1 : Nat) (hm_ : (m_ ||| 0x2A000) = m_) (h_ : State.Keeps m_ s_ s) : State.Keeps m_ s_ (State.complete s c status r0 r1) := by
  refine State.Keeps.step (m1 := 0x2A000) ?_ hm_ h_
  unfold State.complete
  repeat' first
    | (intro _)
    | (with_reducible exact State.Keeps.refl _ _)
    | (with_reducible assumption)
    | (with_reducible apply State.putCq_keeps)
    | (with_reducible apply State.emit_keeps)
    | decide
    | split
    | dsimp only
    | dsimp +zetaDelta only

theorem State.refuse_keeps {m_ : Nat} {s_ : State} (s : State) (c : HostCmd) (status : Nat) (r0 : Nat) (hm_ : (m_ ||| 0x2A000) = m_) (h_ : State.Keeps m_ s_ s) : State.Keeps m_ s_ (State.refuse s c status r0) := by
  refine State.Keeps.step (m1 := 0x2A000) ?_ hm_ h_
  unfold State.refuse
  repeat' first
    | (intro _)
    | (with_reducible exact State.Keeps.refl _ _)
    | (with_reducible assumption)
    | (with_reducible apply State.complete_keeps)
    | (with_reducible apply State.raise_keeps)
    | decide
    | split
    | dsimp only
    | dsimp +zetaDelta only

theorem State.refuseState_keeps {m_ : Nat} {s_ : State} (s : State) (c : HostCmd) (obj : Nat) (code : Nat) (ident : Nat) (hm_ : (m_ ||| 0x2A000) = m_) (h_ : State.Keeps m_ s_ s) : State.Keeps m_ s_ (State.refuseState s c obj code ident) := by
  refine State.Keeps.step (m1 := 0x2A000) ?_ hm_ h_
  unfold State.refuseState
  repeat' first
    | (intro _)
    | (with_reducible exact State.Keeps.refl _ _)
    | (with_reducible assumption)
    | (with_reducible apply State.refuse_keeps)
    | decide
    | split
    | dsimp only
    | dsimp +zetaDelta only

theorem State.completeOpt_keeps {m_ : Nat} {s_ : State} (s : State) (c : Option HostCmd) (status : Nat) (r0 : Nat) (hm_ : (m_ ||| 0x2A000) = m_) (h_ : State.Keeps m_ s_ s) : State.Keeps m_ s_ (State.completeOpt s c status r0) := by
  refine State.Keeps.step (m1 := 0x2A000) ?_ hm_ h_
  unfold State.completeOpt
  repeat' first
    | (intro _)
    | (with_reducible exact State.Keeps.refl _ _)
    | (with_reducible assumption)
    | (with_reducible apply State.complete_keeps)
    | decide
    | split
    | dsimp only
    | dsimp +zetaDelta only

theorem State.eventCpl_keeps {m_ : Nat} {s_ : State} (s : State) (code : Nat) (arg : Nat) (hm_ : (m_ ||| 0x2A000) = m_) (h_ : State.Keeps m_ s_ s) : State.Keeps m_ s_ (State.eventCpl s code arg) := by
  refine State.Keeps.step (m1 := 0x2A000) ?_ hm_ h_
  unfold State.eventCpl
  repeat' first
    | (intro _)
    | (with_reducible exact State.Keeps.refl _ _)
    | (with_reducible assumption)
    | (with_reducible apply State.Keeps.ite)
    | (with_reducible apply State.putCq_keeps)
    | decide
    | split
    | dsimp only
    | dsimp +zetaDelta only

theorem State.refuseModule_keeps {m_ : Nat} {s_ : State} (s : State) (c : HostCmd) (hm_ : (m_ ||| 0x2A000) = m_) (h_ : State.Keeps m_ s_ s) : State.Keeps m_ s_ (State.refuseModule s c) := by
  refine State.Keeps.step (m1 := 0x2A000) ?_ hm_ h_
  unfold State.refuseModule
  repeat' first
    | (intro _)
    | (with_reducible exact State.Keeps.refl _ _)
    | (with_reducible assumption)
    | (with_reducible apply State.refuseState_keeps)
    | decide
    | split
    | dsimp only
    | dsimp +zetaDelta only

end Sys2Proof.Machine
end

