-- ==== Sys2Proof/Laws/FrameSeqCore.lean ====
section
/-! SUPPORT. The frame of each operation of Machine/SeqCore.lean: the blocks of the state that it may change (Laws/Keeps.lean). -/

set_option Elab.async false

namespace Sys2Proof.Machine

theorem State.setGreg_keeps {m_ : Nat} {s_ : State} (s : State) (q : Nat) (n : Nat) (v : Word) (hm_ : (m_ ||| 0x20) = m_) (h_ : State.Keeps m_ s_ s) : State.Keeps m_ s_ (State.setGreg s q n v) := by
  refine State.Keeps.step (m1 := 0x20) ?_ hm_ h_
  unfold State.setGreg
  repeat' first
    | (intro _)
    | (with_reducible exact State.Keeps.refl _ _)
    | (with_reducible assumption)
    | (with_reducible apply State.Keeps.ite)
    | (with_reducible apply State.onGsq_keeps)
    | decide
    | split
    | dsimp only
    | dsimp +zetaDelta only

theorem State.gsqGo_keeps {m_ : Nat} {s_ : State} (s : State) (q : Nat) (pc : Nat) (hm_ : (m_ ||| 0x20) = m_) (h_ : State.Keeps m_ s_ s) : State.Keeps m_ s_ (State.gsqGo s q pc) := by
  refine State.Keeps.step (m1 := 0x20) ?_ hm_ h_
  unfold State.gsqGo
  repeat' first
    | (intro _)
    | (with_reducible exact State.Keeps.refl _ _)
    | (with_reducible assumption)
    | (with_reducible apply State.onGsq_keeps)
    | decide
    | split
    | dsimp only
    | dsimp +zetaDelta only

theorem State.gsqNext_keeps {m_ : Nat} {s_ : State} (s : State) (q : Nat) (hm_ : (m_ ||| 0x20) = m_) (h_ : State.Keeps m_ s_ s) : State.Keeps m_ s_ (State.gsqNext s q) := by
  refine State.Keeps.step (m1 := 0x20) ?_ hm_ h_
  unfold State.gsqNext
  repeat' first
    | (intro _)
    | (with_reducible exact State.Keeps.refl _ _)
    | (with_reducible assumption)
    | (with_reducible apply State.gsqGo_keeps)
    | decide
    | split
    | dsimp only
    | dsimp +zetaDelta only

theorem State.gsqSt_keeps {m_ : Nat} {s_ : State} (s : State) (q : Nat) (st : Nat) (hm_ : (m_ ||| 0x20) = m_) (h_ : State.Keeps m_ s_ s) : State.Keeps m_ s_ (State.gsqSt s q st) := by
  refine State.Keeps.step (m1 := 0x20) ?_ hm_ h_
  unfold State.gsqSt
  repeat' first
    | (intro _)
    | (with_reducible exact State.Keeps.refl _ _)
    | (with_reducible assumption)
    | (with_reducible apply State.onGsq_keeps)
    | (with_reducible apply State.gsqNext_keeps)
    | decide
    | split
    | dsimp only
    | dsimp +zetaDelta only

theorem State.rerunPoint_keeps {m_ : Nat} {s_ : State} (s : State) (q : Nat) (ident : Nat) (hm_ : (m_ ||| 0x20) = m_) (h_ : State.Keeps m_ s_ s) : State.Keeps m_ s_ (State.rerunPoint s q ident) := by
  refine State.Keeps.step (m1 := 0x20) ?_ hm_ h_
  unfold State.rerunPoint
  repeat' first
    | (intro _)
    | (with_reducible exact State.Keeps.refl _ _)
    | (with_reducible assumption)
    | (with_reducible apply State.onGsq_keeps)
    | decide
    | split
    | dsimp only
    | dsimp +zetaDelta only

theorem State.exchDone_keeps {m_ : Nat} {s_ : State} (s : State) (q : Nat) (st : Nat) (target : Nat) (hm_ : (m_ ||| 0x20) = m_) (h_ : State.Keeps m_ s_ s) : State.Keeps m_ s_ (State.exchDone s q st target) := by
  refine State.Keeps.step (m1 := 0x20) ?_ hm_ h_
  unfold State.exchDone
  repeat' first
    | (intro _)
    | (with_reducible exact State.Keeps.refl _ _)
    | (with_reducible assumption)
    | (with_reducible apply State.Keeps.ite)
    | (with_reducible apply State.onGsq_keeps)
    | (with_reducible apply State.gsqGo_keeps)
    | (with_reducible apply State.rerunPoint_keeps)
    | decide
    | split
    | dsimp only
    | dsimp +zetaDelta only

theorem State.wakeArrival_keeps {m_ : Nat} {s_ : State} (s : State) (q : Nat) (hm_ : (m_ ||| 0x20) = m_) (h_ : State.Keeps m_ s_ s) : State.Keeps m_ s_ (State.wakeArrival s q) := by
  refine State.Keeps.step (m1 := 0x20) ?_ hm_ h_
  unfold State.wakeArrival
  repeat' first
    | (intro _)
    | (with_reducible exact State.Keeps.refl _ _)
    | (with_reducible assumption)
    | (with_reducible apply State.Keeps.ite)
    | (with_reducible apply State.gsqSt_keeps)
    | (with_reducible apply State.Keeps.ofPair (by with_reducible assumption))
    | decide
    | split
    | dsimp only
    | dsimp +zetaDelta only

theorem State.wakeArrivals_keeps {m_ : Nat} {s_ : State} (s : State) (hm_ : (m_ ||| 0x20) = m_) (h_ : State.Keeps m_ s_ s) : State.Keeps m_ s_ (State.wakeArrivals s) := by
  refine State.Keeps.step (m1 := 0x20) ?_ hm_ h_
  unfold State.wakeArrivals
  repeat' first
    | (intro _)
    | (with_reducible exact State.Keeps.refl _ _)
    | (with_reducible assumption)
    | (with_reducible apply State.wakeArrival_keeps)
    | (with_reducible apply State.Keeps.foldl)
    | (with_reducible apply State.Keeps.foldlFst)
    | decide
    | split
    | dsimp only
    | dsimp +zetaDelta only

theorem State.setArrival_keeps {m_ : Nat} {s_ : State} (s : State) (die : Nat) (m : Nat) (n : Nat) (value : Nat) (counted : Nat) (hm_ : (m_ ||| 0x8020) = m_) (h_ : State.Keeps m_ s_ s) : State.Keeps m_ s_ (State.setArrival s die m n value counted) := by
  refine State.Keeps.step (m1 := 0x8020) ?_ hm_ h_
  unfold State.setArrival
  repeat' first
    | (intro _)
    | (with_reducible exact State.Keeps.refl _ _)
    | (with_reducible assumption)
    | (with_reducible apply State.setReg_keeps)
    | (with_reducible apply State.wakeArrivals_keeps)
    | decide
    | split
    | dsimp only
    | dsimp +zetaDelta only

theorem State.bumpArrival_keeps {m_ : Nat} {s_ : State} (s : State) (die : Nat) (m : Nat) (n : Nat) (hm_ : (m_ ||| 0x8020) = m_) (h_ : State.Keeps m_ s_ s) : State.Keeps m_ s_ (State.bumpArrival s die m n) := by
  refine State.Keeps.step (m1 := 0x8020) ?_ hm_ h_
  unfold State.bumpArrival
  repeat' first
    | (intro _)
    | (with_reducible exact State.Keeps.refl _ _)
    | (with_reducible assumption)
    | (with_reducible apply State.setArrival_keeps)
    | decide
    | split
    | dsimp only
    | dsimp +zetaDelta only

theorem State.refuseRemote_keeps {m_ : Nat} {s_ : State} (s : State) (die : Nat) (log : Word) (hm_ : (m_ ||| 0x8000) = m_) (h_ : State.Keeps m_ s_ s) : State.Keeps m_ s_ (State.refuseRemote s die log) := by
  refine State.Keeps.step (m1 := 0x8000) ?_ hm_ h_
  unfold State.refuseRemote
  repeat' first
    | (intro _)
    | (with_reducible exact State.Keeps.refl _ _)
    | (with_reducible assumption)
    | (with_reducible apply State.Keeps.ite)
    | (with_reducible apply State.setReg_keeps)
    | (with_reducible apply State.raise_keeps)
    | decide
    | split
    | dsimp only
    | dsimp +zetaDelta only

theorem State.hostReports_keeps {m_ : Nat} {s_ : State} (s : State) (g : Nat) (y0 : List ReportRec) (hm_ : (m_ ||| 0x2A000) = m_) (h_ : State.Keeps m_ s_ s) : State.Keeps m_ s_ (State.hostReports s g y0).1 := by
  induction y0 generalizing s with
  | nil =>
    unfold State.hostReports
    repeat' first
      | (intro _)
      | (with_reducible exact State.Keeps.refl _ _)
      | (with_reducible assumption)
      | (with_reducible apply ih_)
      | (with_reducible apply State.Keeps.iteFst)
      | (with_reducible apply State.Keeps.ite)
      | (with_reducible apply State.raise_keeps)
      | (with_reducible apply State.putCq_keeps)
      | (with_reducible apply State.Keeps.ofPair (by with_reducible assumption))
      | exact State.Keeps.sub hm_ (by decide)
      | exact State.Keeps.bit hm_ (by decide)
      | extract_lets
      | split
      | dsimp only
      | dsimp +zetaDelta only
  | cons a_ l_ ih_ =>
    unfold State.hostReports
    repeat' first
      | (intro _)
      | (with_reducible exact State.Keeps.refl _ _)
      | (with_reducible assumption)
      | (with_reducible apply ih_)
      | (with_reducible apply State.Keeps.iteFst)
      | (with_reducible apply State.Keeps.ite)
      | (with_reducible apply State.raise_keeps)
      | (with_reducible apply State.putCq_keeps)
      | (with_reducible apply State.Keeps.ofPair (by with_reducible assumption))
      | exact State.Keeps.sub hm_ (by decide)
      | exact State.Keeps.bit hm_ (by decide)
      | extract_lets
      | split
      | dsimp only
      | dsimp +zetaDelta only

theorem State.sendReports_keeps {m_ : Nat} {s_ : State} (s : State) (q : Nat) (hm_ : (m_ ||| 0x2A020) = m_) (h_ : State.Keeps m_ s_ s) : State.Keeps m_ s_ (State.sendReports s q) := by
  refine State.Keeps.step (m1 := 0x2A020) ?_ hm_ h_
  unfold State.sendReports
  repeat' first
    | (intro _)
    | (with_reducible exact State.Keeps.refl _ _)
    | (with_reducible assumption)
    | (with_reducible apply State.onGsq_keeps)
    | (with_reducible apply State.hostReports_keeps)
    | (with_reducible apply State.Keeps.ofPair (by with_reducible assumption))
    | decide
    | extract_lets
    | split
    | dsimp only
    | dsimp +zetaDelta only

theorem State.placeReport_keeps {m_ : Nat} {s_ : State} (s : State) (q : Nat) (code : Nat) (value : Word) (hm_ : (m_ ||| 0x2A020) = m_) (h_ : State.Keeps m_ s_ s) : State.Keeps m_ s_ (State.placeReport s q code value) := by
  refine State.Keeps.step (m1 := 0x2A020) ?_ hm_ h_
  unfold State.placeReport
  repeat' first
    | (intro _)
    | (with_reducible exact State.Keeps.refl _ _)
    | (with_reducible assumption)
    | (with_reducible apply State.onGsq_keeps)
    | (with_reducible apply State.sendReports_keeps)
    | (with_reducible apply State.Keeps.ofPair (by with_reducible assumption))
    | decide
    | split
    | dsimp only
    | dsimp +zetaDelta only

theorem State.wakeReport_keeps {m_ : Nat} {s_ : State} (s0 : State) (q : Nat) (hm_ : (m_ ||| 0x2A020) = m_) (h_ : State.Keeps m_ s_ s0) : State.Keeps m_ s_ (State.wakeReport s0 q) := by
  refine State.Keeps.step (m1 := 0x2A020) ?_ hm_ h_
  unfold State.wakeReport
  repeat' first
    | (intro _)
    | (with_reducible exact State.Keeps.refl _ _)
    | (with_reducible assumption)
    | (with_reducible apply State.Keeps.ite)
    | (with_reducible apply State.rerunPoint_keeps)
    | (with_reducible apply State.sendReports_keeps)
    | (with_reducible apply State.placeReport_keeps)
    | (with_reducible apply State.gsqSt_keeps)
    | (with_reducible apply State.Keeps.ofPair (by with_reducible assumption))
    | decide
    | extract_lets
    | split
    | dsimp only
    | dsimp +zetaDelta only

theorem State.wakeSealed_keeps {m_ : Nat} {s_ : State} (s : State) (q : Nat) (hm_ : (m_ ||| 0x20) = m_) (h_ : State.Keeps m_ s_ s) : State.Keeps m_ s_ (State.wakeSealed s q) := by
  refine State.Keeps.step (m1 := 0x20) ?_ hm_ h_
  unfold State.wakeSealed
  repeat' first
    | (intro _)
    | (with_reducible exact State.Keeps.refl _ _)
    | (with_reducible assumption)
    | (with_reducible apply State.Keeps.ite)
    | (with_reducible apply State.onGsq_keeps)
    | (with_reducible apply State.gsqSt_keeps)
    | decide
    | split
    | dsimp only
    | dsimp +zetaDelta only

theorem State.charge_keeps {m_ : Nat} {s_ : State} (s : State) (g : Nat) (uj : Nat) (hm_ : (m_ ||| 0x8080) = m_) (h_ : State.Keeps m_ s_ s) : State.Keeps m_ s_ (State.charge s g uj) := by
  refine State.Keeps.step (m1 := 0x8080) ?_ hm_ h_
  unfold State.charge
  repeat' first
    | (intro _)
    | (with_reducible exact State.Keeps.refl _ _)
    | (with_reducible assumption)
    | (with_reducible apply State.onGlv_keeps)
    | (with_reducible apply State.count_keeps)
    | decide
    | split
    | dsimp only
    | dsimp +zetaDelta only

theorem State.gsqWait_keeps {m_ : Nat} {s_ : State} (s : State) (q : Nat) (w : WaitFor) (tmo : Nat) (hm_ : (m_ ||| 0x20) = m_) (h_ : State.Keeps m_ s_ s) : State.Keeps m_ s_ (State.gsqWait s q w tmo) := by
  refine State.Keeps.step (m1 := 0x20) ?_ hm_ h_
  unfold State.gsqWait
  repeat' first
    | (intro _)
    | (with_reducible exact State.Keeps.refl _ _)
    | (with_reducible assumption)
    | (with_reducible apply State.onGsq_keeps)
    | decide
    | split
    | dsimp only
    | dsimp +zetaDelta only

end Sys2Proof.Machine
end

