-- ==== Sys2Proof/Laws/FrameScratch.lean ====
section
/-! SUPPORT. The frame of each operation of Machine/Scratch.lean: the blocks of the state that it may change (Laws/Keeps.lean). -/

set_option Elab.async false

namespace Sys2Proof.Machine

theorem State.writeRow_keeps {m_ : Nat} {s_ : State} (s : State) (g : Nat) (r : Nat) (d : List Byte) (hm_ : (m_ ||| 0x10) = m_) (h_ : State.Keeps m_ s_ s) : State.Keeps m_ s_ (State.writeRow s g r d) := by
  refine State.Keeps.step (m1 := 0x10) ?_ hm_ h_
  unfold State.writeRow
  repeat' first
    | (intro _)
    | (with_reducible exact State.Keeps.refl _ _)
    | (with_reducible assumption)
    | (with_reducible apply State.onMCell_keeps)
    | (with_reducible apply State.putRow_keeps)
    | decide
    | split
    | dsimp only
    | dsimp +zetaDelta only

theorem State.detect_keeps {m_ : Nat} {s_ : State} (s : State) (g : Nat) (r : Nat) (kind : Nat) (reader : Nat) (glove : Nat) (rerun : Bool) (hm_ : (m_ ||| 0x8000) = m_) (h_ : State.Keeps m_ s_ s) : State.Keeps m_ s_ (State.detect s g r kind reader glove rerun) := by
  refine State.Keeps.step (m1 := 0x8000) ?_ hm_ h_
  unfold State.detect
  repeat' first
    | (intro _)
    | (with_reducible exact State.Keeps.refl _ _)
    | (with_reducible assumption)
    | (with_reducible apply State.Keeps.ite)
    | (with_reducible apply State.setReg_keeps)
    | (with_reducible apply State.errClass_keeps)
    | (with_reducible apply State.raise_keeps)
    | decide
    | extract_lets
    | split
    | dsimp only
    | dsimp +zetaDelta only

theorem State.mergeBack_keeps {m_ : Nat} {s_ : State} (s : State) (g : Nat) (r : Nat) (hm_ : (m_ ||| 0x10) = m_) (h_ : State.Keeps m_ s_ s) : State.Keeps m_ s_ (State.mergeBack s g r) := by
  refine State.Keeps.step (m1 := 0x10) ?_ hm_ h_
  unfold State.mergeBack
  repeat' first
    | (intro _)
    | (with_reducible exact State.Keeps.refl _ _)
    | (with_reducible assumption)
    | (with_reducible apply State.writeRow_keeps)
    | decide
    | split
    | dsimp only
    | dsimp +zetaDelta only

theorem State.clearResv_keeps {m_ : Nat} {s_ : State} (s : State) (g : Nat) (r : Nat) (ofs : Nat) (len : Nat) (hm_ : (m_ ||| 0x10) = m_) (h_ : State.Keeps m_ s_ s) : State.Keeps m_ s_ (State.clearResv s g r ofs len) := by
  refine State.Keeps.step (m1 := 0x10) ?_ hm_ h_
  unfold State.clearResv
  repeat' first
    | (intro _)
    | (with_reducible exact State.Keeps.refl _ _)
    | (with_reducible assumption)
    | (with_reducible apply State.onArr_keeps)
    | decide
    | split
    | dsimp only
    | dsimp +zetaDelta only

theorem State.mergeWrite_keeps {m_ : Nat} {s_ : State} (s : State) (g : Nat) (r : Nat) (d : List (Nat × Byte)) (glove : Nat) (upset : Bool) (hm_ : (m_ ||| 0x8010) = m_) (h_ : State.Keeps m_ s_ s) : State.Keeps m_ s_ (State.mergeWrite s g r d glove upset).1 := by
  refine State.Keeps.step (m1 := 0x8010) ?_ hm_ h_
  unfold State.mergeWrite
  repeat' first
    | (intro _)
    | (with_reducible exact State.Keeps.refl _ _)
    | (with_reducible assumption)
    | (with_reducible apply State.Keeps.iteFst)
    | (with_reducible apply State.Keeps.ite)
    | (with_reducible apply State.mergeBack_keeps)
    | (with_reducible apply State.onMCell_keeps)
    | (with_reducible apply State.detect_keeps)
    | (with_reducible apply State.clearResv_keeps)
    | (with_reducible apply State.count_keeps)
    | (with_reducible apply State.Keeps.foldl)
    | (with_reducible apply State.Keeps.foldlFst)
    | (with_reducible apply State.Keeps.ofPair (by with_reducible assumption))
    | decide
    | extract_lets
    | split
    | dsimp only
    | dsimp +zetaDelta only

theorem State.rwRefuse_keeps {m_ : Nat} {s_ : State} (s : State) (g : Nat) (win : Nat) (status : Nat) (glove : Nat) (push : Bool) (hm_ : (m_ ||| 0x8000) = m_) (h_ : State.Keeps m_ s_ s) : State.Keeps m_ s_ (State.rwRefuse s g win status glove push) := by
  refine State.Keeps.step (m1 := 0x8000) ?_ hm_ h_
  unfold State.rwRefuse
  repeat' first
    | (intro _)
    | (with_reducible exact State.Keeps.refl _ _)
    | (with_reducible assumption)
    | (with_reducible apply State.Keeps.ite)
    | (with_reducible apply State.refuseRemote_keeps)
    | decide
    | split
    | dsimp only
    | dsimp +zetaDelta only

end Sys2Proof.Machine
end

