-- ==== Sys2Proof/Laws/FrameRowSlots.lean ====
section
/-! SUPPORT. The frame of each operation of Machine/RowSlots.lean: the blocks of the state that it may change (Laws/Keeps.lean). -/

set_option Elab.async false

namespace Sys2Proof.Machine

theorem State.takeRow_keeps {m_ : Nat} {s_ : State} (s : State) (g : Nat) (row : Nat) (hm_ : (m_ ||| 0x10) = m_) (h_ : State.Keeps m_ s_ s) : State.Keeps m_ s_ (State.takeRow s g row) := by
  refine State.Keeps.step (m1 := 0x10) ?_ hm_ h_
  unfold State.takeRow
  repeat' first
    | (intro _)
    | (with_reducible exact State.Keeps.refl _ _)
    | (with_reducible assumption)
    | (with_reducible apply State.Keeps.ite)
    | (with_reducible apply State.onMCell_keeps)
    | decide
    | split
    | dsimp only
    | dsimp +zetaDelta only

theorem State.setCountedCell_keeps {m_ : Nat} {s_ : State} (s : State) (g : Nat) (n : Nat) (value : Nat) (counted : Nat) (hm_ : (m_ ||| 0x8020) = m_) (h_ : State.Keeps m_ s_ s) : State.Keeps m_ s_ (State.setCountedCell s g n value counted) := by
  refine State.Keeps.step (m1 := 0x8020) ?_ hm_ h_
  unfold State.setCountedCell
  repeat' first
    | (intro _)
    | (with_reducible exact State.Keeps.refl _ _)
    | (with_reducible assumption)
    | (with_reducible apply State.rwRefuse_keeps)
    | (with_reducible apply State.setArrival_keeps)
    | (with_reducible apply State.Keeps.foldl)
    | (with_reducible apply State.Keeps.foldlFst)
    | decide
    | extract_lets
    | split
    | dsimp only
    | dsimp +zetaDelta only

theorem State.countWrite_keeps {m_ : Nat} {s_ : State} (s : State) (g : Nat) (c : Option Nat) (hm_ : (m_ ||| 0x8020) = m_) (h_ : State.Keeps m_ s_ s) : State.Keeps m_ s_ (State.countWrite s g c) := by
  refine State.Keeps.step (m1 := 0x8020) ?_ hm_ h_
  unfold State.countWrite
  repeat' first
    | (intro _)
    | (with_reducible exact State.Keeps.refl _ _)
    | (with_reducible assumption)
    | (with_reducible apply State.bumpArrival_keeps)
    | decide
    | split
    | dsimp only
    | dsimp +zetaDelta only

theorem State.serveWrite_keeps {m_ : Nat} {s_ : State} (s : State) (g : Nat) (hm_ : (m_ ||| 0x8030) = m_) (h_ : State.Keeps m_ s_ s) : State.Keeps.OptS m_ s_ (State.serveWrite s g) := by
  unfold State.serveWrite
  repeat' first
    | (intro _)
    | (with_reducible exact State.Keeps.refl _ _)
    | (with_reducible assumption)
    | (with_reducible apply State.Keeps.ite)
    | (with_reducible apply State.writeRow_keeps)
    | (with_reducible apply State.countWrite_keeps)
    | (with_reducible apply State.onMCell_keeps)
    | (with_reducible apply State.takeRow_keeps)
    | (with_reducible apply State.Keeps.ofPair (by with_reducible assumption))
    | (with_reducible exact State.Keeps.optS_none)
    | (with_reducible apply State.Keeps.optS_some)
    | (with_reducible exact State.Keeps.optP_none)
    | (with_reducible apply State.Keeps.optP_some)
    | (with_reducible exact State.Keeps.exS_error)
    | (with_reducible apply State.Keeps.exS_ok)
    | exact State.Keeps.sub hm_ (by decide)
    | exact State.Keeps.bit hm_ (by decide)
    | split
    | dsimp only
    | dsimp +zetaDelta only

theorem State.narrowFault_keeps {m_ : Nat} {s_ : State} (s : State) (hm_ : (m_ ||| 0x20000) = m_) (h_ : State.Keeps m_ s_ s) : State.Keeps m_ s_ (State.narrowFault s) := by
  refine State.Keeps.step (m1 := 0x20000) ?_ hm_ h_
  unfold State.narrowFault
  repeat' first
    | (intro _)
    | (with_reducible exact State.Keeps.refl _ _)
    | (with_reducible assumption)
    | (with_reducible apply State.emit_keeps)
    | decide
    | split
    | dsimp only
    | dsimp +zetaDelta only

theorem State.narrowRead_keeps {m_ : Nat} {s_ : State} (s : State) (g : Nat) (row : Nat) (ofs : Nat) (n : Nat) (reader : Nat) (glove : Nat) (upset : Bool) (hm_ : (m_ ||| 0x8000) = m_) (h_ : State.Keeps m_ s_ s) : State.Keeps m_ s_ (State.narrowRead s g row ofs n reader glove upset).1 := by
  refine State.Keeps.step (m1 := 0x8000) ?_ hm_ h_
  unfold State.narrowRead
  repeat' first
    | (intro _)
    | (with_reducible exact State.Keeps.refl _ _)
    | (with_reducible assumption)
    | (with_reducible apply State.Keeps.iteFst)
    | (with_reducible apply State.Keeps.ite)
    | (with_reducible apply State.detect_keeps)
    | (with_reducible apply State.count_keeps)
    | decide
    | extract_lets
    | split
    | dsimp only
    | dsimp +zetaDelta only

theorem State.narrowAmo_keeps {m_ : Nat} {s_ : State} (s : State) (g : Nat) (row : Nat) (ofs : Nat) (n : Nat) (glove : Nat) (f : Nat → Nat) (upset : Bool) (hm_ : (m_ ||| 0x28010) = m_) (h_ : State.Keeps m_ s_ s) : State.Keeps m_ s_ (State.narrowAmo s g row ofs n glove f upset) := by
  refine State.Keeps.step (m1 := 0x28010) ?_ hm_ h_
  unfold State.narrowAmo
  repeat' first
    | (intro _)
    | (with_reducible exact State.Keeps.refl _ _)
    | (with_reducible assumption)
    | (with_reducible apply State.Keeps.ite)
    | (with_reducible apply State.mergeWrite_keeps)
    | (with_reducible apply State.emit_keeps)
    | (with_reducible apply State.narrowFault_keeps)
    | (with_reducible apply State.Keeps.ofPair (by with_reducible assumption))
    | decide
    | extract_lets
    | split
    | dsimp only
    | dsimp +zetaDelta only

theorem State.doNarrow_keeps {m_ : Nat} {s_ : State} (s : State) (g : Nat) (q : NarrowReq) (hm_ : (m_ ||| 0x28030) = m_) (h_ : State.Keeps m_ s_ s) : State.Keeps m_ s_ (State.doNarrow s g q) := by
  refine State.Keeps.step (m1 := 0x28030) ?_ hm_ h_
  unfold State.doNarrow
  repeat' first
    | (intro _)
    | (with_reducible exact State.Keeps.refl _ _)
    | (with_reducible assumption)
    | (with_reducible apply State.Keeps.ite)
    | (with_reducible apply State.mergeWrite_keeps)
    | (with_reducible apply State.countWrite_keeps)
    | (with_reducible apply State.narrowAmo_keeps)
    | (with_reducible apply State.emit_keeps)
    | (with_reducible apply State.count_keeps)
    | (with_reducible apply State.onArr_keeps)
    | (with_reducible apply State.narrowRead_keeps)
    | (with_reducible apply State.narrowFault_keeps)
    | (with_reducible apply State.Keeps.ofPair (by with_reducible assumption))
    | decide
    | extract_lets
    | split
    | dsimp only
    | dsimp +zetaDelta only

theorem State.mergeRoom_keeps {m_ : Nat} {s_ : State} (s : State) (g : Nat) (hm_ : (m_ ||| 0x10) = m_) (h_ : State.Keeps m_ s_ s) : State.Keeps.OptS m_ s_ (State.mergeRoom s g) := by
  unfold State.mergeRoom
  repeat' first
    | (intro _)
    | (with_reducible exact State.Keeps.refl _ _)
    | (with_reducible assumption)
    | (with_reducible apply State.Keeps.ite)
    | (with_reducible apply State.mergeBack_keeps)
    | (with_reducible apply State.takeRow_keeps)
    | (with_reducible apply State.Keeps.ofPair (by with_reducible assumption))
    | (with_reducible exact State.Keeps.optS_none)
    | (with_reducible apply State.Keeps.optS_some)
    | (with_reducible exact State.Keeps.optP_none)
    | (with_reducible apply State.Keeps.optP_some)
    | (with_reducible exact State.Keeps.exS_error)
    | (with_reducible apply State.Keeps.exS_ok)
    | exact State.Keeps.sub hm_ (by decide)
    | exact State.Keeps.bit hm_ (by decide)
    | split
    | dsimp only
    | dsimp +zetaDelta only

theorem State.serveNarrow_keeps {m_ : Nat} {s_ : State} (s : State) (g : Nat) (q : NarrowReq) (hm_ : (m_ ||| 0x28030) = m_) (h_ : State.Keeps m_ s_ s) : State.Keeps.OptS m_ s_ (State.serveNarrow s g q) := by
  unfold State.serveNarrow
  repeat' first
    | (intro _)
    | (with_reducible exact State.Keeps.refl _ _)
    | (with_reducible assumption)
    | (with_reducible apply State.Keeps.ite)
    | (with_reducible apply State.takeRow_keeps)
    | (with_reducible apply State.doNarrow_keeps)
    | (with_reducible apply State.mergeRoom_keeps)
    | (with_reducible apply State.Keeps.ofPair (by with_reducible assumption))
    | (with_reducible exact State.Keeps.optS_none)
    | (with_reducible apply State.Keeps.optS_some)
    | (with_reducible exact State.Keeps.optP_none)
    | (with_reducible apply State.Keeps.optP_some)
    | (with_reducible exact State.Keeps.exS_error)
    | (with_reducible apply State.Keeps.exS_ok)
    | (with_reducible apply State.Keeps.ofOptS (by with_reducible assumption))
    | (with_reducible apply State.Keeps.optS_ite)
    | exact State.Keeps.sub hm_ (by decide)
    | exact State.Keeps.bit hm_ (by decide)
    | extract_lets
    | split
    | dsimp only
    | dsimp +zetaDelta only

theorem State.submitNarrow_keeps {m_ : Nat} {s_ : State} (s : State) (g : Nat) (q : NarrowReq) (hm_ : (m_ ||| 0x28030) = m_) (h_ : State.Keeps m_ s_ s) : State.Keeps m_ s_ (State.submitNarrow s g q) := by
  refine State.Keeps.step (m1 := 0x28030) ?_ hm_ h_
  unfold State.submitNarrow
  repeat' first
    | (intro _)
    | (with_reducible exact State.Keeps.refl _ _)
    | (with_reducible assumption)
    | (with_reducible apply State.onMCell_keeps)
    | (with_reducible apply State.serveNarrow_keeps)
    | (with_reducible apply State.Keeps.ofOptS (by with_reducible assumption))
    | decide
    | split
    | dsimp only
    | dsimp +zetaDelta only

theorem State.serveQueue_keeps {m_ : Nat} {s_ : State} (s : State) (g : Nat) (y0 : Nat) (hm_ : (m_ ||| 0x28030) = m_) (h_ : State.Keeps m_ s_ s) : State.Keeps m_ s_ (State.serveQueue s g y0) := by
  induction y0 generalizing s with
  | zero =>
    unfold State.serveQueue
    repeat' first
      | (intro _)
      | (with_reducible exact State.Keeps.refl _ _)
      | (with_reducible assumption)
      | (with_reducible apply ih_)
      | (with_reducible apply State.onMCell_keeps)
      | (with_reducible apply State.serveNarrow_keeps)
      | (with_reducible apply State.Keeps.ofOptS (by with_reducible assumption))
      | exact State.Keeps.sub hm_ (by decide)
      | exact State.Keeps.bit hm_ (by decide)
      | split
      | dsimp only
      | dsimp +zetaDelta only
  | succ k_ ih_ =>
    unfold State.serveQueue
    repeat' first
      | (intro _)
      | (with_reducible exact State.Keeps.refl _ _)
      | (with_reducible assumption)
      | (with_reducible apply ih_)
      | (with_reducible apply State.onMCell_keeps)
      | (with_reducible apply State.serveNarrow_keeps)
      | (with_reducible apply State.Keeps.ofOptS (by with_reducible assumption))
      | exact State.Keeps.sub hm_ (by decide)
      | exact State.Keeps.bit hm_ (by decide)
      | split
      | dsimp only
      | dsimp +zetaDelta only

theorem State.writeBacks_keeps {m_ : Nat} {s_ : State} (s : State) (g : Nat) (hm_ : (m_ ||| 0x10) = m_) (h_ : State.Keeps m_ s_ s) : State.Keeps m_ s_ (State.writeBacks s g) := by
  refine State.Keeps.step (m1 := 0x10) ?_ hm_ h_
  unfold State.writeBacks
  repeat' first
    | (intro _)
    | (with_reducible exact State.Keeps.refl _ _)
    | (with_reducible assumption)
    | (with_reducible apply State.Keeps.ite)
    | (with_reducible apply State.mergeBack_keeps)
    | (with_reducible apply State.takeRow_keeps)
    | (with_reducible apply State.Keeps.foldl)
    | (with_reducible apply State.Keeps.foldlFst)
    | decide
    | split
    | dsimp only
    | dsimp +zetaDelta only

theorem State.serveNarrows_keeps {m_ : Nat} {s_ : State} (s : State) (g : Nat) (hm_ : (m_ ||| 0x28030) = m_) (h_ : State.Keeps m_ s_ s) : State.Keeps m_ s_ (State.serveNarrows s g) := by
  refine State.Keeps.step (m1 := 0x28030) ?_ hm_ h_
  unfold State.serveNarrows
  repeat' first
    | (intro _)
    | (with_reducible exact State.Keeps.refl _ _)
    | (with_reducible assumption)
    | (with_reducible apply State.serveQueue_keeps)
    | (with_reducible apply State.writeBacks_keeps)
    | decide
    | split
    | dsimp only
    | dsimp +zetaDelta only

theorem State.settleCell_keeps {m_ : Nat} {s_ : State} (s : State) (g : Nat) (hm_ : (m_ ||| 0x28030) = m_) (h_ : State.Keeps m_ s_ s) : State.Keeps m_ s_ (State.settleCell s g) := by
  refine State.Keeps.step (m1 := 0x28030) ?_ hm_ h_
  unfold State.settleCell
  repeat' first
    | (intro _)
    | (with_reducible exact State.Keeps.refl _ _)
    | (with_reducible assumption)
    | (with_reducible apply State.Keeps.getD)
    | (with_reducible apply State.serveWrite_keeps)
    | (with_reducible apply State.serveQueue_keeps)
    | (with_reducible apply State.Keeps.foldl)
    | (with_reducible apply State.Keeps.foldlFst)
    | (with_reducible apply State.Keeps.ofOptS (by with_reducible assumption))
    | decide
    | extract_lets
    | split
    | dsimp only
    | dsimp +zetaDelta only

theorem State.remoteBytes_keeps {m_ : Nat} {s_ : State} (s : State) (g : Nat) (r : Nat) (win : Nat) (glove : Nat) (bs : List (Nat × Byte)) (upset : Bool) (who : Option Requester) (hm_ : (m_ ||| 0x28030) = m_) (h_ : State.Keeps m_ s_ s) : State.Keeps m_ s_ (State.remoteBytes s g r win glove bs upset who).1 := by
  refine State.Keeps.step (m1 := 0x28030) ?_ hm_ h_
  unfold State.remoteBytes
  repeat' first
    | (intro _)
    | (with_reducible exact State.Keeps.refl _ _)
    | (with_reducible assumption)
    | (with_reducible apply State.Keeps.iteFst)
    | (with_reducible apply State.Keeps.ite)
    | (with_reducible apply State.Keeps.getD)
    | (with_reducible apply State.rwRefuse_keeps)
    | (with_reducible apply State.serveWrite_keeps)
    | (with_reducible apply State.onMCell_keeps)
    | (with_reducible apply State.submitNarrow_keeps)
    | (with_reducible apply State.Keeps.ofPair (by with_reducible assumption))
    | (with_reducible apply State.Keeps.ofOptS (by with_reducible assumption))
    | decide
    | extract_lets
    | split
    | dsimp only
    | dsimp +zetaDelta only

theorem State.remote_keeps {m_ : Nat} {s_ : State} (s : State) (g : Nat) (r : Nat) (ofs : Nat) (win : Nat) (glove : Nat) (d : List Byte) (upset : Bool) (hm_ : (m_ ||| 0x28030) = m_) (h_ : State.Keeps m_ s_ s) : State.Keeps m_ s_ (State.remote s g r ofs win glove d upset).1 := by
  refine State.Keeps.step (m1 := 0x28030) ?_ hm_ h_
  unfold State.remote
  repeat' first
    | (intro _)
    | (with_reducible exact State.Keeps.refl _ _)
    | (with_reducible assumption)
    | (with_reducible apply State.remoteBytes_keeps)
    | decide
    | split
    | dsimp only
    | dsimp +zetaDelta only

end Sys2Proof.Machine
end

