-- ==== Sys2Proof/Laws/FrameStaging.lean ====
section
/-! SUPPORT. The frame of each operation of Machine/Staging.lean: the blocks of the state that it may change (Laws/Keeps.lean). -/

set_option Elab.async false

namespace Sys2Proof.Machine

theorem State.xFail_keeps {m_ : Nat} {s_ : State} (s : State) (p : Nat) (code : Nat) (part : Nat) (hm_ : (m_ ||| 0x800) = m_) (h_ : State.Keeps m_ s_ s) : State.Keeps m_ s_ (State.xFail s p code part) := by
  refine State.Keeps.step (m1 := 0x800) ?_ hm_ h_
  unfold State.xFail
  repeat' first
    | (intro _)
    | (with_reducible exact State.Keeps.refl _ _)
    | (with_reducible assumption)
    | (with_reducible apply State.Keeps.ite)
    | (with_reducible apply State.onPlan_keeps)
    | (with_reducible apply State.Keeps.ofPair (by with_reducible assumption))
    | decide
    | split
    | dsimp only
    | dsimp +zetaDelta only

theorem State.slotBreaks_keeps {m_ : Nat} {s_ : State} (s : State) (l : Nat) (hm_ : (m_ ||| 0x800) = m_) (h_ : State.Keeps m_ s_ s) : State.Keeps m_ s_ (State.slotBreaks s l) := by
  refine State.Keeps.step (m1 := 0x800) ?_ hm_ h_
  unfold State.slotBreaks
  repeat' first
    | (intro _)
    | (with_reducible exact State.Keeps.refl _ _)
    | (with_reducible assumption)
    | (with_reducible apply State.Keeps.ite)
    | (with_reducible apply State.xFail_keeps)
    | (with_reducible apply State.Keeps.foldl)
    | (with_reducible apply State.Keeps.foldlFst)
    | (with_reducible apply State.Keeps.ofPair (by with_reducible assumption))
    | decide
    | extract_lets
    | split
    | dsimp only
    | dsimp +zetaDelta only

theorem State.stageHeader_keeps {m_ : Nat} {s_ : State} (s : State) (p : Nat) (n : Nat) (header : Word) (hm_ : (m_ ||| 0x8800) = m_) (h_ : State.Keeps m_ s_ s) : State.Keeps m_ s_ (State.stageHeader s p n header).1 := by
  refine State.Keeps.step (m1 := 0x8800) ?_ hm_ h_
  unfold State.stageHeader
  repeat' first
    | (intro _)
    | (with_reducible exact State.Keeps.refl _ _)
    | (with_reducible assumption)
    | (with_reducible apply State.Keeps.iteFst)
    | (with_reducible apply State.Keeps.ite)
    | (with_reducible apply State.onPlan_keeps)
    | (with_reducible apply State.count_keeps)
    | (with_reducible apply State.Keeps.ofPair (by with_reducible assumption))
    | decide
    | extract_lets
    | split
    | dsimp only
    | dsimp +zetaDelta only

theorem State.putStaged_keeps {m_ : Nat} {s_ : State} (s : State) (f : Nat) (u : Nat) (d : List Byte) (whole : Bool) (hm_ : (m_ ||| 0x8840) = m_) (h_ : State.Keeps m_ s_ s) : State.Keeps m_ s_ (State.putStaged s f u d whole) := by
  refine State.Keeps.step (m1 := 0x8840) ?_ hm_ h_
  unfold State.putStaged
  repeat' first
    | (intro _)
    | (with_reducible exact State.Keeps.refl _ _)
    | (with_reducible assumption)
    | (with_reducible apply State.putUnit_keeps)
    | (with_reducible apply State.stageHeader_keeps)
    | (with_reducible apply State.Keeps.ofPair (by with_reducible assumption))
    | decide
    | extract_lets
    | split
    | dsimp only
    | dsimp +zetaDelta only

theorem State.writeBits_keeps {m_ : Nat} {s_ : State} (s : State) (f : Nat) (u : Nat) (p : Nat × Nat) (hm_ : (m_ ||| 0x8840) = m_) (h_ : State.Keeps m_ s_ s) : State.Keeps m_ s_ (State.writeBits s f u p) := by
  refine State.Keeps.step (m1 := 0x8840) ?_ hm_ h_
  unfold State.writeBits
  repeat' first
    | (intro _)
    | (with_reducible exact State.Keeps.refl _ _)
    | (with_reducible assumption)
    | (with_reducible apply State.Keeps.ite)
    | (with_reducible apply State.putStaged_keeps)
    | (with_reducible apply State.count_keeps)
    | decide
    | extract_lets
    | split
    | dsimp only
    | dsimp +zetaDelta only

theorem State.holdBits_keeps {m_ : Nat} {s_ : State} (s : State) (f : Nat) (u : Nat) (p : Nat × Nat) (drain : Bool) (hm_ : (m_ ||| 0x8040) = m_) (h_ : State.Keeps m_ s_ s) : State.Keeps m_ s_ (State.holdBits s f u p drain) := by
  refine State.Keeps.step (m1 := 0x8040) ?_ hm_ h_
  unfold State.holdBits
  repeat' first
    | (intro _)
    | (with_reducible exact State.Keeps.refl _ _)
    | (with_reducible assumption)
    | (with_reducible apply State.onMem_keeps)
    | (with_reducible apply State.raise_keeps)
    | (with_reducible apply State.Keeps.ofPair (by with_reducible assumption))
    | decide
    | extract_lets
    | split
    | dsimp only
    | dsimp +zetaDelta only

theorem State.nearWrite_keeps {m_ : Nat} {s_ : State} (s : State) (f : Nat) (u : Nat) (p : Nat × Nat) (hm_ : (m_ ||| 0x8840) = m_) (h_ : State.Keeps m_ s_ s) : State.Keeps m_ s_ (State.nearWrite s f u p).1 := by
  refine State.Keeps.step (m1 := 0x8840) ?_ hm_ h_
  unfold State.nearWrite
  repeat' first
    | (intro _)
    | (with_reducible exact State.Keeps.refl _ _)
    | (with_reducible assumption)
    | (with_reducible apply State.Keeps.iteFst)
    | (with_reducible apply State.Keeps.ite)
    | (with_reducible apply State.writeBits_keeps)
    | (with_reducible apply State.holdBits_keeps)
    | decide
    | split
    | dsimp only
    | dsimp +zetaDelta only

theorem State.putNear_keeps {m_ : Nat} {s_ : State} (s : State) (ofs : Nat) (d : List Byte) (hm_ : (m_ ||| 0x8840) = m_) (h_ : State.Keeps m_ s_ s) : State.Keeps m_ s_ (State.putNear s ofs d) := by
  refine State.Keeps.step (m1 := 0x8840) ?_ hm_ h_
  unfold State.putNear
  repeat' first
    | (intro _)
    | (with_reducible exact State.Keeps.refl _ _)
    | (with_reducible assumption)
    | (with_reducible apply State.Keeps.ite)
    | (with_reducible apply State.nearWrite_keeps)
    | (with_reducible apply State.Keeps.foldl)
    | (with_reducible apply State.Keeps.foldlFst)
    | decide
    | extract_lets
    | split
    | dsimp only
    | dsimp +zetaDelta only

end Sys2Proof.Machine
end

