-- ==== Sys2Proof/Laws/FrameTick.lean ====
section
/-! SUPPORT. The frame of each operation of Machine/Tick.lean: the blocks of the state that it may change (Laws/Keeps.lean). -/

set_option Elab.async false

namespace Sys2Proof.Machine

theorem State.enterT_keeps {m_ : Nat} {s_ : State} (s : State) (x : TState) (hm_ : (m_ ||| 0x8001) = m_) (h_ : State.Keeps m_ s_ s) : State.Keeps m_ s_ (State.enterT s x) := by
  refine State.Keeps.step (m1 := 0x8001) ?_ hm_ h_
  unfold State.enterT
  repeat' first
    | (intro _)
    | (with_reducible exact State.Keeps.refl _ _)
    | (with_reducible assumption)
    | (with_reducible apply State.Keeps.ite)
    | (with_reducible apply State.onTick_keeps)
    | (with_reducible apply State.raise_keeps)
    | decide
    | extract_lets
    | split
    | dsimp only
    | dsimp +zetaDelta only

theorem State.setCrown_keeps {m_ : Nat} {s_ : State} (s : State) (c : Nat) (hm_ : (m_ ||| 0x8001) = m_) (h_ : State.Keeps m_ s_ s) : State.Keeps m_ s_ (State.setCrown s c) := by
  refine State.Keeps.step (m1 := 0x8001) ?_ hm_ h_
  unfold State.setCrown
  repeat' first
    | (intro _)
    | (with_reducible exact State.Keeps.refl _ _)
    | (with_reducible assumption)
    | (with_reducible apply State.Keeps.ite)
    | (with_reducible apply State.onTick_keeps)
    | (with_reducible apply State.raise_keeps)
    | decide
    | extract_lets
    | split
    | dsimp only
    | dsimp +zetaDelta only

theorem State.setPeriod_keeps {m_ : Nat} {s_ : State} (s : State) (n : Nat) (hm_ : (m_ ||| 0x8001) = m_) (h_ : State.Keeps m_ s_ s) : State.Keeps m_ s_ (State.setPeriod s n) := by
  refine State.Keeps.step (m1 := 0x8001) ?_ hm_ h_
  unfold State.setPeriod
  repeat' first
    | (intro _)
    | (with_reducible exact State.Keeps.refl _ _)
    | (with_reducible assumption)
    | (with_reducible apply State.Keeps.ite)
    | (with_reducible apply State.onTick_keeps)
    | (with_reducible apply State.raise_keeps)
    | decide
    | extract_lets
    | split
    | dsimp only
    | dsimp +zetaDelta only

theorem State.stepTo_keeps {m_ : Nat} {s_ : State} (s : State) (rc : Nat) (hm_ : (m_ ||| 0x8001) = m_) (h_ : State.Keeps m_ s_ s) : State.Keeps m_ s_ (State.stepTo s rc) := by
  refine State.Keeps.step (m1 := 0x8001) ?_ hm_ h_
  unfold State.stepTo
  repeat' first
    | (intro _)
    | (with_reducible exact State.Keeps.refl _ _)
    | (with_reducible assumption)
    | (with_reducible apply State.Keeps.ite)
    | (with_reducible apply State.onTick_keeps)
    | (with_reducible apply State.raise_keeps)
    | decide
    | extract_lets
    | split
    | dsimp only
    | dsimp +zetaDelta only

theorem State.holdFor_keeps {m_ : Nat} {s_ : State} (s : State) (k : Nat) (hm_ : (m_ ||| 0x8001) = m_) (h_ : State.Keeps m_ s_ s) : State.Keeps m_ s_ (State.holdFor s k) := by
  refine State.Keeps.step (m1 := 0x8001) ?_ hm_ h_
  unfold State.holdFor
  repeat' first
    | (intro _)
    | (with_reducible exact State.Keeps.refl _ _)
    | (with_reducible assumption)
    | (with_reducible apply State.onTick_keeps)
    | (with_reducible apply State.raise_keeps)
    | decide
    | split
    | dsimp only
    | dsimp +zetaDelta only

theorem State.measured_keeps {m_ : Nat} {s_ : State} (s : State) (d : Int) (hm_ : (m_ ||| 0x8001) = m_) (h_ : State.Keeps m_ s_ s) : State.Keeps m_ s_ (State.measured s d) := by
  refine State.Keeps.step (m1 := 0x8001) ?_ hm_ h_
  unfold State.measured
  repeat' first
    | (intro _)
    | (with_reducible exact State.Keeps.refl _ _)
    | (with_reducible assumption)
    | (with_reducible apply State.Keeps.ite)
    | (with_reducible apply State.enterT_keeps)
    | (with_reducible apply State.onTick_keeps)
    | decide
    | extract_lets
    | split
    | dsimp only
    | dsimp +zetaDelta only

theorem tkeTickReadOp_keeps {m_ : Nat} {s_ : State} (h : Half) (s : State) (hm_ : (m_ ||| 0x20001) = m_) (h_ : State.Keeps m_ s_ s) : State.Keeps m_ s_ (tkeTickReadOp h s) := by
  refine State.Keeps.step (m1 := 0x20001) ?_ hm_ h_
  unfold tkeTickReadOp
  repeat' first
    | (intro _)
    | (with_reducible exact State.Keeps.refl _ _)
    | (with_reducible assumption)
    | (with_reducible apply State.onTick_keeps)
    | (with_reducible apply State.emit_keeps)
    | (with_reducible apply State.Keeps.ofPair (by with_reducible assumption))
    | decide
    | extract_lets
    | split
    | dsimp only
    | dsimp +zetaDelta only

theorem State.errWindow_keeps {m_ : Nat} {s_ : State} (s : State) (hm_ : (m_ ||| 0x4040) = m_) (h_ : State.Keeps m_ s_ s) : State.Keeps m_ s_ (State.errWindow s) := by
  refine State.Keeps.step (m1 := 0x4040) ?_ hm_ h_
  unfold State.errWindow
  repeat' first
    | (intro _)
    | (with_reducible exact State.Keeps.refl _ _)
    | (with_reducible assumption)
    | (with_reducible apply State.Keeps.ite)
    | (with_reducible apply State.onAos_keeps)
    | (with_reducible apply State.onMem_keeps)
    | decide
    | extract_lets
    | split
    | dsimp only
    | dsimp +zetaDelta only

theorem State.applyPeriod_keeps {m_ : Nat} {s_ : State} (s : State) (n : Nat) (hm_ : (m_ ||| 0x8001) = m_) (h_ : State.Keeps m_ s_ s) : State.Keeps m_ s_ (State.applyPeriod s n) := by
  refine State.Keeps.step (m1 := 0x8001) ?_ hm_ h_
  unfold State.applyPeriod
  repeat' first
    | (intro _)
    | (with_reducible exact State.Keeps.refl _ _)
    | (with_reducible assumption)
    | (with_reducible apply State.Keeps.ite)
    | (with_reducible apply State.setFld_keeps)
    | (with_reducible apply State.setPeriod_keeps)
    | (with_reducible apply State.onTick_keeps)
    | decide
    | extract_lets
    | split
    | dsimp only
    | dsimp +zetaDelta only

theorem periodChangeOp_keeps {m_ : Nat} {s_ : State} (s : State) (hm_ : (m_ ||| 0x8001) = m_) (h_ : State.Keeps m_ s_ s) : State.Keeps m_ s_ (periodChangeOp s) := by
  refine State.Keeps.step (m1 := 0x8001) ?_ hm_ h_
  unfold periodChangeOp
  repeat' first
    | (intro _)
    | (with_reducible exact State.Keeps.refl _ _)
    | (with_reducible assumption)
    | (with_reducible apply State.Keeps.ite)
    | (with_reducible apply State.onTick_keeps)
    | (with_reducible apply State.applyPeriod_keeps)
    | (with_reducible apply State.Keeps.ofPair (by with_reducible assumption))
    | decide
    | split
    | dsimp only
    | dsimp +zetaDelta only

theorem alignmentLoadOp_keeps {m_ : Nat} {s_ : State} (tick : Word) (phase : Nat) (n : Nat) (pend : Option (Nat × Word)) (master : Nat) (source : Nat) (s : State) (hm_ : (m_ ||| 0x8001) = m_) (h_ : State.Keeps m_ s_ s) : State.Keeps m_ s_ (alignmentLoadOp tick phase n pend master source s) := by
  refine State.Keeps.step (m1 := 0x8001) ?_ hm_ h_
  unfold alignmentLoadOp
  repeat' first
    | (intro _)
    | (with_reducible exact State.Keeps.refl _ _)
    | (with_reducible assumption)
    | (with_reducible apply State.Keeps.ite)
    | (with_reducible apply State.enterT_keeps)
    | (with_reducible apply State.applyPeriod_keeps)
    | (with_reducible apply State.onTick_keeps)
    | (with_reducible apply State.holdFor_keeps)
    | (with_reducible apply State.stepTo_keeps)
    | decide
    | extract_lets
    | split
    | dsimp only
    | dsimp +zetaDelta only

theorem counterHoldEndOp_keeps {m_ : Nat} {s_ : State} (s : State) (hm_ : (m_ ||| 0x1) = m_) (h_ : State.Keeps m_ s_ s) : State.Keeps m_ s_ (counterHoldEndOp s) := by
  refine State.Keeps.step (m1 := 0x1) ?_ hm_ h_
  unfold counterHoldEndOp
  repeat' first
    | (intro _)
    | (with_reducible exact State.Keeps.refl _ _)
    | (with_reducible assumption)
    | (with_reducible apply State.Keeps.ite)
    | (with_reducible apply State.onTick_keeps)
    | decide
    | split
    | dsimp only
    | dsimp +zetaDelta only

theorem beaconSendOp_keeps {m_ : Nat} {s_ : State} (sub : Nat) (s : State) (hm_ : (m_ ||| 0x20001) = m_) (h_ : State.Keeps m_ s_ s) : State.Keeps m_ s_ (beaconSendOp sub s) := by
  refine State.Keeps.step (m1 := 0x20001) ?_ hm_ h_
  unfold beaconSendOp
  repeat' first
    | (intro _)
    | (with_reducible exact State.Keeps.refl _ _)
    | (with_reducible assumption)
    | (with_reducible apply State.Keeps.ite)
    | (with_reducible apply State.onTick_keeps)
    | (with_reducible apply State.emit_keeps)
    | decide
    | split
    | dsimp only
    | dsimp +zetaDelta only

theorem State.sendLoad_keeps {m_ : Nat} {s_ : State} (s : State) (node : Option Nat) (ahead : Nat) (delay : Nat) (hm_ : (m_ ||| 0x20000) = m_) (h_ : State.Keeps m_ s_ s) : State.Keeps m_ s_ (State.sendLoad s node ahead delay) := by
  refine State.Keeps.step (m1 := 0x20000) ?_ hm_ h_
  unfold State.sendLoad
  repeat' first
    | (intro _)
    | (with_reducible exact State.Keeps.refl _ _)
    | (with_reducible assumption)
    | (with_reducible apply State.emit_keeps)
    | decide
    | extract_lets
    | split
    | dsimp only
    | dsimp +zetaDelta only

theorem State.followBeacon_keeps {m_ : Nat} {s_ : State} (s : State) (b : Beacon) (delayNs : Nat) (freqPpb : Int) (hm_ : (m_ ||| 0x8001) = m_) (h_ : State.Keeps m_ s_ s) : State.Keeps m_ s_ (State.followBeacon s b delayNs freqPpb) := by
  refine State.Keeps.step (m1 := 0x8001) ?_ hm_ h_
  unfold State.followBeacon
  repeat' first
    | (intro _)
    | (with_reducible exact State.Keeps.refl _ _)
    | (with_reducible assumption)
    | (with_reducible apply State.setCrown_keeps)
    | (with_reducible apply State.applyPeriod_keeps)
    | (with_reducible apply State.measured_keeps)
    | (with_reducible apply State.onTick_keeps)
    | decide
    | extract_lets
    | split
    | dsimp only
    | dsimp +zetaDelta only

theorem beaconReceiveOp_keeps {m_ : Nat} {s_ : State} (b : Beacon) (hops : Nat) (delayNs : Nat) (freqPpb : Int) (s : State) (hm_ : (m_ ||| 0x8001) = m_) (h_ : State.Keeps m_ s_ s) : State.Keeps m_ s_ (beaconReceiveOp b hops delayNs freqPpb s) := by
  refine State.Keeps.step (m1 := 0x8001) ?_ hm_ h_
  unfold beaconReceiveOp
  repeat' first
    | (intro _)
    | (with_reducible exact State.Keeps.refl _ _)
    | (with_reducible assumption)
    | (with_reducible apply State.Keeps.ite)
    | (with_reducible apply State.onTick_keeps)
    | (with_reducible apply State.followBeacon_keeps)
    | decide
    | extract_lets
    | split
    | dsimp only
    | dsimp +zetaDelta only

theorem beaconCheckOp_keeps {m_ : Nat} {s_ : State} (node : Nat) (delta : Int) (master : Nat) (s : State) (hm_ : (m_ ||| 0x28001) = m_) (h_ : State.Keeps m_ s_ s) : State.Keeps m_ s_ (beaconCheckOp node delta master s) := by
  refine State.Keeps.step (m1 := 0x28001) ?_ hm_ h_
  unfold beaconCheckOp
  repeat' first
    | (intro _)
    | (with_reducible exact State.Keeps.refl _ _)
    | (with_reducible assumption)
    | (with_reducible apply State.Keeps.ite)
    | (with_reducible apply State.sendLoad_keeps)
    | (with_reducible apply State.enterT_keeps)
    | (with_reducible apply State.onTick_keeps)
    | decide
    | extract_lets
    | split
    | dsimp only
    | dsimp +zetaDelta only

theorem State.becomeCrown_keeps {m_ : Nat} {s_ : State} (s : State) (me : Nat) (hm_ : (m_ ||| 0x8001) = m_) (h_ : State.Keeps m_ s_ s) : State.Keeps m_ s_ (State.becomeCrown s me) := by
  refine State.Keeps.step (m1 := 0x8001) ?_ hm_ h_
  unfold State.becomeCrown
  repeat' first
    | (intro _)
    | (with_reducible exact State.Keeps.refl _ _)
    | (with_reducible assumption)
    | (with_reducible apply State.Keeps.ite)
    | (with_reducible apply State.setCrown_keeps)
    | (with_reducible apply State.enterT_keeps)
    | (with_reducible apply State.onTick_keeps)
    | decide
    | split
    | dsimp only
    | dsimp +zetaDelta only

theorem parentLostOp_keeps {m_ : Nat} {s_ : State} (cand : List (Nat × Nat)) (s : State) (hm_ : (m_ ||| 0x8001) = m_) (h_ : State.Keeps m_ s_ s) : State.Keeps m_ s_ (parentLostOp cand s) := by
  refine State.Keeps.step (m1 := 0x8001) ?_ hm_ h_
  unfold parentLostOp
  repeat' first
    | (intro _)
    | (with_reducible exact State.Keeps.refl _ _)
    | (with_reducible assumption)
    | (with_reducible apply State.Keeps.ite)
    | (with_reducible apply State.enterT_keeps)
    | (with_reducible apply State.onTick_keeps)
    | (with_reducible apply State.becomeCrown_keeps)
    | decide
    | extract_lets
    | split
    | dsimp only
    | dsimp +zetaDelta only

theorem holdoverLimitExpiryOp_keeps {m_ : Nat} {s_ : State} (reach : List Nat) (s : State) (hm_ : (m_ ||| 0x8001) = m_) (h_ : State.Keeps m_ s_ s) : State.Keeps m_ s_ (holdoverLimitExpiryOp reach s) := by
  refine State.Keeps.step (m1 := 0x8001) ?_ hm_ h_
  unfold holdoverLimitExpiryOp
  repeat' first
    | (intro _)
    | (with_reducible exact State.Keeps.refl _ _)
    | (with_reducible assumption)
    | (with_reducible apply State.Keeps.ite)
    | (with_reducible apply State.setCrown_keeps)
    | (with_reducible apply State.enterT_keeps)
    | (with_reducible apply State.becomeCrown_keeps)
    | (with_reducible apply State.Keeps.foldl)
    | (with_reducible apply State.Keeps.foldlFst)
    | decide
    | extract_lets
    | split
    | dsimp only
    | dsimp +zetaDelta only

theorem crownMeetOp_keeps {m_ : Nat} {s_ : State} (other : Nat) (s : State) (hm_ : (m_ ||| 0x8001) = m_) (h_ : State.Keeps m_ s_ s) : State.Keeps m_ s_ (crownMeetOp other s) := by
  refine State.Keeps.step (m1 := 0x8001) ?_ hm_ h_
  unfold crownMeetOp
  repeat' first
    | (intro _)
    | (with_reducible exact State.Keeps.refl _ _)
    | (with_reducible assumption)
    | (with_reducible apply State.Keeps.ite)
    | (with_reducible apply State.setCrown_keeps)
    | (with_reducible apply State.enterT_keeps)
    | (with_reducible apply State.onTick_keeps)
    | decide
    | split
    | dsimp only
    | dsimp +zetaDelta only

theorem tickStepOrHoldOp_keeps {m_ : Nat} {s_ : State} (s : State) (hm_ : (m_ ||| 0x28001) = m_) (h_ : State.Keeps m_ s_ s) : State.Keeps m_ s_ (tickStepOrHoldOp s) := by
  refine State.Keeps.step (m1 := 0x28001) ?_ hm_ h_
  unfold tickStepOrHoldOp
  repeat' first
    | (intro _)
    | (with_reducible exact State.Keeps.refl _ _)
    | (with_reducible assumption)
    | (with_reducible apply State.Keeps.ite)
    | (with_reducible apply State.onTick_keeps)
    | (with_reducible apply State.emit_keeps)
    | (with_reducible apply State.holdFor_keeps)
    | (with_reducible apply State.stepTo_keeps)
    | decide
    | extract_lets
    | split
    | dsimp only
    | dsimp +zetaDelta only

theorem periodChangeReceiveOp_keeps {m_ : Nat} {s_ : State} (n : Nat) (tick : Word) (s : State) (hm_ : (m_ ||| 0x1) = m_) (h_ : State.Keeps m_ s_ s) : State.Keeps m_ s_ (periodChangeReceiveOp n tick s) := by
  refine State.Keeps.step (m1 := 0x1) ?_ hm_ h_
  unfold periodChangeReceiveOp
  repeat' first
    | (intro _)
    | (with_reducible exact State.Keeps.refl _ _)
    | (with_reducible assumption)
    | (with_reducible apply State.Keeps.ite)
    | (with_reducible apply State.onTick_keeps)
    | (with_reducible apply State.Keeps.ofPair (by with_reducible assumption))
    | decide
    | split
    | dsimp only
    | dsimp +zetaDelta only

end Sys2Proof.Machine
end

