-- ==== Sys2Proof/Laws/FrameTiers.lean ====
section
/-! SUPPORT. The frame of each operation of Machine/Tiers.lean: the blocks of the state that it may change (Laws/Keeps.lean). -/

set_option Elab.async false

namespace Sys2Proof.Machine

theorem State.onExtent_keeps {m_ : Nat} {s_ : State} (s : State) (n : Nat) (f : ExtentSt → ExtentSt) (hm_ : (m_ ||| 0x40) = m_) (h_ : State.Keeps m_ s_ s) : State.Keeps m_ s_ (State.onExtent s n f) := by
  refine State.Keeps.step (m1 := 0x40) ?_ hm_ h_
  unfold State.onExtent
  repeat' first
    | (intro _)
    | (with_reducible exact State.Keeps.refl _ _)
    | (with_reducible assumption)
    | (with_reducible apply State.onMem_keeps)
    | decide
    | split
    | dsimp only
    | dsimp +zetaDelta only

theorem State.onDdr_keeps {m_ : Nat} {s_ : State} (s : State) (c : Nat) (f : DdrSt → DdrSt) (hm_ : (m_ ||| 0x40) = m_) (h_ : State.Keeps m_ s_ s) : State.Keeps m_ s_ (State.onDdr s c f) := by
  refine State.Keeps.step (m1 := 0x40) ?_ hm_ h_
  unfold State.onDdr
  repeat' first
    | (intro _)
    | (with_reducible exact State.Keeps.refl _ _)
    | (with_reducible assumption)
    | (with_reducible apply State.onMem_keeps)
    | decide
    | split
    | dsimp only
    | dsimp +zetaDelta only

theorem State.onDpp_keeps {m_ : Nat} {s_ : State} (s : State) (i : Nat) (f : DppSt → DppSt) (hm_ : (m_ ||| 0x40) = m_) (h_ : State.Keeps m_ s_ s) : State.Keeps m_ s_ (State.onDpp s i f) := by
  refine State.Keeps.step (m1 := 0x40) ?_ hm_ h_
  unfold State.onDpp
  repeat' first
    | (intro _)
    | (with_reducible exact State.Keeps.refl _ _)
    | (with_reducible assumption)
    | (with_reducible apply State.onMem_keeps)
    | decide
    | split
    | dsimp only
    | dsimp +zetaDelta only

theorem State.endDrains_keeps {m_ : Nat} {s_ : State} (s : State) (hm_ : (m_ ||| 0x8040) = m_) (h_ : State.Keeps m_ s_ s) : State.Keeps m_ s_ (State.endDrains s) := by
  refine State.Keeps.step (m1 := 0x8040) ?_ hm_ h_
  unfold State.endDrains
  repeat' first
    | (intro _)
    | (with_reducible exact State.Keeps.refl _ _)
    | (with_reducible assumption)
    | (with_reducible apply State.Keeps.ite)
    | (with_reducible apply State.onDdr_keeps)
    | (with_reducible apply State.raise_keeps)
    | (with_reducible apply State.onDpp_keeps)
    | (with_reducible apply State.Keeps.foldl)
    | (with_reducible apply State.Keeps.foldlFst)
    | (with_reducible apply State.Keeps.ofPair (by with_reducible assumption))
    | decide
    | extract_lets
    | split
    | dsimp only
    | dsimp +zetaDelta only

theorem State.takeSlot_keeps {m_ : Nat} {s_ : State} (s : State) (hm_ : (m_ ||| 0x40) = m_) (h_ : State.Keeps m_ s_ s) : State.Keeps m_ s_ (State.takeSlot s) := by
  refine State.Keeps.step (m1 := 0x40) ?_ hm_ h_
  unfold State.takeSlot
  repeat' first
    | (intro _)
    | (with_reducible exact State.Keeps.refl _ _)
    | (with_reducible assumption)
    | (with_reducible apply State.onMem_keeps)
    | decide
    | split
    | dsimp only
    | dsimp +zetaDelta only

theorem State.putChunks_keeps {m_ : Nat} {s_ : State} (s : State) (deep : Bool) (cs : List (Nat × Nat)) (d : List Byte) (hm_ : (m_ ||| 0x40) = m_) (h_ : State.Keeps m_ s_ s) : State.Keeps m_ s_ (State.putChunks s deep cs d) := by
  refine State.Keeps.step (m1 := 0x40) ?_ hm_ h_
  unfold State.putChunks
  repeat' first
    | (intro _)
    | (with_reducible exact State.Keeps.refl _ _)
    | (with_reducible assumption)
    | (with_reducible apply State.Keeps.ite)
    | (with_reducible apply State.onMem_keeps)
    | (with_reducible apply State.Keeps.foldl)
    | (with_reducible apply State.Keeps.foldlFst)
    | decide
    | extract_lets
    | split
    | dsimp only
    | dsimp +zetaDelta only

theorem State.freeExtent_keeps {m_ : Nat} {s_ : State} (s : State) (slot : Nat) (hm_ : (m_ ||| 0x8040) = m_) (h_ : State.Keeps m_ s_ s) : State.Keeps m_ s_ (State.freeExtent s slot) := by
  refine State.Keeps.step (m1 := 0x8040) ?_ hm_ h_
  unfold State.freeExtent
  repeat' first
    | (intro _)
    | (with_reducible exact State.Keeps.refl _ _)
    | (with_reducible assumption)
    | (with_reducible apply State.Keeps.ite)
    | (with_reducible apply State.onExtent_keeps)
    | (with_reducible apply State.endDrains_keeps)
    | (with_reducible apply State.count_keeps)
    | (with_reducible apply State.onMem_keeps)
    | decide
    | extract_lets
    | split
    | dsimp only
    | dsimp +zetaDelta only

theorem State.releaseExtent_keeps {m_ : Nat} {s_ : State} (s : State) (slot : Nat) (hm_ : (m_ ||| 0x8040) = m_) (h_ : State.Keeps m_ s_ s) : State.Keeps m_ s_ (State.releaseExtent s slot) := by
  refine State.Keeps.step (m1 := 0x8040) ?_ hm_ h_
  unfold State.releaseExtent
  repeat' first
    | (intro _)
    | (with_reducible exact State.Keeps.refl _ _)
    | (with_reducible assumption)
    | (with_reducible apply State.Keeps.ite)
    | (with_reducible apply State.freeExtent_keeps)
    | (with_reducible apply State.onExtent_keeps)
    | decide
    | extract_lets
    | split
    | dsimp only
    | dsimp +zetaDelta only

theorem State.releaseHandle_keeps {m_ : Nat} {s_ : State} (s : State) (h : BitVec 32) (hm_ : (m_ ||| 0x8040) = m_) (h_ : State.Keeps m_ s_ s) : State.Keeps m_ s_ (State.releaseHandle s h) := by
  refine State.Keeps.step (m1 := 0x8040) ?_ hm_ h_
  unfold State.releaseHandle
  repeat' first
    | (intro _)
    | (with_reducible exact State.Keeps.refl _ _)
    | (with_reducible assumption)
    | (with_reducible apply State.releaseExtent_keeps)
    | decide
    | split
    | dsimp only
    | dsimp +zetaDelta only

theorem State.loseExtent_keeps {m_ : Nat} {s_ : State} (s : State) (slot : Nat) (hm_ : (m_ ||| 0x8040) = m_) (h_ : State.Keeps m_ s_ s) : State.Keeps m_ s_ (State.loseExtent s slot) := by
  refine State.Keeps.step (m1 := 0x8040) ?_ hm_ h_
  unfold State.loseExtent
  repeat' first
    | (intro _)
    | (with_reducible exact State.Keeps.refl _ _)
    | (with_reducible assumption)
    | (with_reducible apply State.onExtent_keeps)
    | (with_reducible apply State.raise_keeps)
    | decide
    | split
    | dsimp only
    | dsimp +zetaDelta only

theorem State.migTake_keeps {m_ : Nat} {s_ : State} (s : State) (r : MigReq) (hm_ : (m_ ||| 0x40) = m_) (h_ : State.Keeps m_ s_ s) : State.Keeps m_ s_ (State.migTake s r) := by
  refine State.Keeps.step (m1 := 0x40) ?_ hm_ h_
  unfold State.migTake
  repeat' first
    | (intro _)
    | (with_reducible exact State.Keeps.refl _ _)
    | (with_reducible assumption)
    | (with_reducible apply State.Keeps.ite)
    | (with_reducible apply State.onMem_keeps)
    | (with_reducible apply State.onExtent_keeps)
    | (with_reducible apply State.takeSlot_keeps)
    | (with_reducible apply State.onFrame_keeps)
    | (with_reducible apply State.Keeps.foldl)
    | (with_reducible apply State.Keeps.foldlFst)
    | decide
    | extract_lets
    | split
    | dsimp only
    | dsimp +zetaDelta only

theorem State.submit_keeps {m_ : Nat} {s_ : State} (s : State) (r : MigReq) (hm_ : (m_ ||| 0x40) = m_) (h_ : State.Keeps m_ s_ s) : State.Keeps m_ s_ (State.submit s r) := by
  refine State.Keeps.step (m1 := 0x40) ?_ hm_ h_
  unfold State.submit
  repeat' first
    | (intro _)
    | (with_reducible exact State.Keeps.refl _ _)
    | (with_reducible assumption)
    | (with_reducible apply State.onMem_keeps)
    | decide
    | split
    | dsimp only
    | dsimp +zetaDelta only

theorem State.setMoving_keeps {m_ : Nat} {s_ : State} (s : State) (ident : Nat) (b : Bool) (hm_ : (m_ ||| 0x40) = m_) (h_ : State.Keeps m_ s_ s) : State.Keeps m_ s_ (State.setMoving s ident b) := by
  refine State.Keeps.step (m1 := 0x40) ?_ hm_ h_
  unfold State.setMoving
  repeat' first
    | (intro _)
    | (with_reducible exact State.Keeps.refl _ _)
    | (with_reducible assumption)
    | (with_reducible apply State.Keeps.ite)
    | (with_reducible apply State.onMem_keeps)
    | decide
    | split
    | dsimp only
    | dsimp +zetaDelta only

theorem State.setReloc_keeps {m_ : Nat} {s_ : State} (s : State) (deep : Bool) (moving : Bool) (hm_ : (m_ ||| 0x40) = m_) (h_ : State.Keeps m_ s_ s) : State.Keeps m_ s_ (State.setReloc s deep moving) := by
  refine State.Keeps.step (m1 := 0x40) ?_ hm_ h_
  unfold State.setReloc
  repeat' first
    | (intro _)
    | (with_reducible exact State.Keeps.refl _ _)
    | (with_reducible assumption)
    | (with_reducible apply State.Keeps.ite)
    | (with_reducible apply State.onMem_keeps)
    | decide
    | split
    | dsimp only
    | dsimp +zetaDelta only

theorem State.startReloc_keeps {m_ : Nat} {s_ : State} (s : State) (deep : Bool) (hm_ : (m_ ||| 0x40) = m_) (h_ : State.Keeps m_ s_ s) : State.Keeps m_ s_ (State.startReloc s deep) := by
  refine State.Keeps.step (m1 := 0x40) ?_ hm_ h_
  unfold State.startReloc
  repeat' first
    | (intro _)
    | (with_reducible exact State.Keeps.refl _ _)
    | (with_reducible assumption)
    | (with_reducible apply State.onMem_keeps)
    | (with_reducible apply State.setReloc_keeps)
    | decide
    | split
    | dsimp only
    | dsimp +zetaDelta only

theorem State.migStart_keeps {m_ : Nat} {s_ : State} (s : State) (tier : Nat) (hm_ : (m_ ||| 0x40) = m_) (h_ : State.Keeps m_ s_ s) : State.Keeps m_ s_ (State.migStart s tier) := by
  refine State.Keeps.step (m1 := 0x40) ?_ hm_ h_
  unfold State.migStart
  repeat' first
    | (intro _)
    | (with_reducible exact State.Keeps.refl _ _)
    | (with_reducible assumption)
    | (with_reducible apply State.Keeps.ite)
    | (with_reducible apply State.setMoving_keeps)
    | (with_reducible apply State.startReloc_keeps)
    | (with_reducible apply State.setReloc_keeps)
    | (with_reducible apply State.Keeps.ofPair (by with_reducible assumption))
    | decide
    | extract_lets
    | split
    | dsimp only
    | dsimp +zetaDelta only

theorem State.dropReq_keeps {m_ : Nat} {s_ : State} (s : State) (ident : Nat) (hm_ : (m_ ||| 0x40) = m_) (h_ : State.Keeps m_ s_ s) : State.Keeps m_ s_ (State.dropReq s ident) := by
  refine State.Keeps.step (m1 := 0x40) ?_ hm_ h_
  unfold State.dropReq
  repeat' first
    | (intro _)
    | (with_reducible exact State.Keeps.refl _ _)
    | (with_reducible assumption)
    | (with_reducible apply State.onMem_keeps)
    | decide
    | split
    | dsimp only
    | dsimp +zetaDelta only

theorem State.releaseHeld_keeps {m_ : Nat} {s_ : State} (s : State) (f : Nat) (u : Nat) (hm_ : (m_ ||| 0x8840) = m_) (h_ : State.Keeps m_ s_ s) : State.Keeps m_ s_ (State.releaseHeld s f u) := by
  refine State.Keeps.step (m1 := 0x8840) ?_ hm_ h_
  unfold State.releaseHeld
  repeat' first
    | (intro _)
    | (with_reducible exact State.Keeps.refl _ _)
    | (with_reducible assumption)
    | (with_reducible apply State.Keeps.ite)
    | (with_reducible apply State.nearWrite_keeps)
    | (with_reducible apply State.writeBits_keeps)
    | (with_reducible apply State.onMem_keeps)
    | (with_reducible apply State.Keeps.foldl)
    | (with_reducible apply State.Keeps.foldlFst)
    | decide
    | extract_lets
    | split
    | dsimp only
    | dsimp +zetaDelta only

theorem State.clearHold_keeps {m_ : Nat} {s_ : State} (s : State) (r : MigReq) (hm_ : (m_ ||| 0x8840) = m_) (h_ : State.Keeps m_ s_ s) : State.Keeps m_ s_ (State.clearHold s r) := by
  refine State.Keeps.step (m1 := 0x8840) ?_ hm_ h_
  unfold State.clearHold
  repeat' first
    | (intro _)
    | (with_reducible exact State.Keeps.refl _ _)
    | (with_reducible assumption)
    | (with_reducible apply State.releaseHeld_keeps)
    | (with_reducible apply State.onFrame_keeps)
    | (with_reducible apply State.Keeps.foldl)
    | (with_reducible apply State.Keeps.foldlFst)
    | decide
    | extract_lets
    | split
    | dsimp only
    | dsimp +zetaDelta only

theorem State.migFailCount_keeps {m_ : Nat} {s_ : State} (s : State) (hm_ : (m_ ||| 0x8000) = m_) (h_ : State.Keeps m_ s_ s) : State.Keeps m_ s_ (State.migFailCount s) := by
  refine State.Keeps.step (m1 := 0x8000) ?_ hm_ h_
  unfold State.migFailCount
  repeat' first
    | (intro _)
    | (with_reducible exact State.Keeps.refl _ _)
    | (with_reducible assumption)
    | (with_reducible apply State.raise_keeps)
    | decide
    | split
    | dsimp only
    | dsimp +zetaDelta only

theorem State.sealEnd_keeps {m_ : Nat} {s_ : State} (s : State) (r : MigReq) (io : Bool) (hm_ : (m_ ||| 0x48840) = m_) (h_ : State.Keeps m_ s_ s) : State.Keeps m_ s_ (State.sealEnd s r io).1 := by
  refine State.Keeps.step (m1 := 0x48840) ?_ hm_ h_
  unfold State.sealEnd
  repeat' first
    | (intro _)
    | (with_reducible exact State.Keeps.refl _ _)
    | (with_reducible assumption)
    | (with_reducible apply State.Keeps.iteFst)
    | (with_reducible apply State.Keeps.ite)
    | (with_reducible apply State.clearHold_keeps)
    | (with_reducible apply State.onMem_keeps)
    | (with_reducible apply State.putChunks_keeps)
    | (with_reducible apply State.onExtent_keeps)
    | (with_reducible apply State.freeExtent_keeps)
    | (with_reducible apply State.migFailCount_keeps)
    | (with_reducible apply State.dropReq_keeps)
    | (with_reducible apply State.count_keeps)
    | (with_reducible apply State.stampExtent_keeps)
    | (with_reducible apply State.Keeps.ofPair (by with_reducible assumption))
    | decide
    | extract_lets
    | split
    | dsimp only
    | dsimp +zetaDelta only

theorem State.copyUnits_keeps {m_ : Nat} {s_ : State} (s : State) (ofs : Nat) (a : Access) (y0 : List (List Byte)) (hm_ : (m_ ||| 0x8840) = m_) (h_ : State.Keeps m_ s_ s) : State.Keeps m_ s_ (State.copyUnits s ofs a y0).1 := by
  induction y0 generalizing s ofs with
  | nil =>
    unfold State.copyUnits
    repeat' first
      | (intro _)
      | (with_reducible exact State.Keeps.refl _ _)
      | (with_reducible assumption)
      | (with_reducible apply ih_)
      | (with_reducible apply State.nearWrite_keeps)
      | (with_reducible apply State.refuseNear_keeps)
      | exact State.Keeps.sub hm_ (by decide)
      | exact State.Keeps.bit hm_ (by decide)
      | extract_lets
      | split
      | dsimp only
      | dsimp +zetaDelta only
  | cons a_ l_ ih_ =>
    unfold State.copyUnits
    repeat' first
      | (intro _)
      | (with_reducible exact State.Keeps.refl _ _)
      | (with_reducible assumption)
      | (with_reducible apply ih_)
      | (with_reducible apply State.nearWrite_keeps)
      | (with_reducible apply State.refuseNear_keeps)
      | exact State.Keeps.sub hm_ (by decide)
      | exact State.Keeps.bit hm_ (by decide)
      | extract_lets
      | split
      | dsimp only
      | dsimp +zetaDelta only

theorem State.endCopy_keeps {m_ : Nat} {s_ : State} (s : State) (slot : Nat) (hm_ : (m_ ||| 0x8040) = m_) (h_ : State.Keeps m_ s_ s) : State.Keeps m_ s_ (State.endCopy s slot) := by
  refine State.Keeps.step (m1 := 0x8040) ?_ hm_ h_
  unfold State.endCopy
  repeat' first
    | (intro _)
    | (with_reducible exact State.Keeps.refl _ _)
    | (with_reducible assumption)
    | (with_reducible apply State.Keeps.ite)
    | (with_reducible apply State.freeExtent_keeps)
    | (with_reducible apply State.onExtent_keeps)
    | decide
    | extract_lets
    | split
    | dsimp only
    | dsimp +zetaDelta only

theorem State.advanceDone_keeps {m_ : Nat} {s_ : State} (s : State) (d : Nat) (glove : Nat) (hm_ : (m_ ||| 0x8020) = m_) (h_ : State.Keeps m_ s_ s) : State.Keeps m_ s_ (State.advanceDone s d glove) := by
  refine State.Keeps.step (m1 := 0x8020) ?_ hm_ h_
  unfold State.advanceDone
  repeat' first
    | (intro _)
    | (with_reducible exact State.Keeps.refl _ _)
    | (with_reducible assumption)
    | (with_reducible apply State.Keeps.ite)
    | (with_reducible apply State.refuseRemote_keeps)
    | (with_reducible apply State.bumpArrival_keeps)
    | decide
    | extract_lets
    | split
    | dsimp only
    | dsimp +zetaDelta only

theorem State.copyupFails_keeps {m_ : Nat} {s_ : State} (s : State) (r : MigReq) (hm_ : (m_ ||| 0x8040) = m_) (h_ : State.Keeps m_ s_ s) : State.Keeps m_ s_ (State.copyupFails s r) := by
  refine State.Keeps.step (m1 := 0x8040) ?_ hm_ h_
  unfold State.copyupFails
  repeat' first
    | (intro _)
    | (with_reducible exact State.Keeps.refl _ _)
    | (with_reducible assumption)
    | (with_reducible apply State.Keeps.ite)
    | (with_reducible apply State.scrambleNear_keeps)
    | (with_reducible apply State.migFailCount_keeps)
    | (with_reducible apply State.Keeps.foldl)
    | (with_reducible apply State.Keeps.foldlFst)
    | decide
    | extract_lets
    | split
    | dsimp only
    | dsimp +zetaDelta only

theorem State.copyupEnd_keeps {m_ : Nat} {s_ : State} (s : State) (r : MigReq) (st : Nat) (hm_ : (m_ ||| 0x8040) = m_) (h_ : State.Keeps m_ s_ s) : State.Keeps m_ s_ (State.copyupEnd s r st) := by
  refine State.Keeps.step (m1 := 0x8040) ?_ hm_ h_
  unfold State.copyupEnd
  repeat' first
    | (intro _)
    | (with_reducible exact State.Keeps.refl _ _)
    | (with_reducible assumption)
    | (with_reducible apply State.Keeps.ite)
    | (with_reducible apply State.dropReq_keeps)
    | (with_reducible apply State.count_keeps)
    | (with_reducible apply State.endCopy_keeps)
    | (with_reducible apply State.copyupFails_keeps)
    | decide
    | extract_lets
    | split
    | dsimp only
    | dsimp +zetaDelta only

theorem State.copyupPlace_keeps {m_ : Nat} {s_ : State} (s : State) (r : MigReq) (io : Bool) (hm_ : (m_ ||| 0x8840) = m_) (h_ : State.Keeps m_ s_ s) : State.Keeps m_ s_ (State.copyupPlace s r io).1 := by
  refine State.Keeps.step (m1 := 0x8840) ?_ hm_ h_
  unfold State.copyupPlace
  repeat' first
    | (intro _)
    | (with_reducible exact State.Keeps.refl _ _)
    | (with_reducible assumption)
    | (with_reducible apply State.Keeps.iteFst)
    | (with_reducible apply State.Keeps.ite)
    | (with_reducible apply State.copyUnits_keeps)
    | (with_reducible apply State.onMem_keeps)
    | (with_reducible apply State.Keeps.ofPair (by with_reducible assumption))
    | decide
    | extract_lets
    | split
    | dsimp only
    | dsimp +zetaDelta only

theorem State.moveEnd_keeps {m_ : Nat} {s_ : State} (s : State) (r : MigReq) (io : Bool) (hm_ : (m_ ||| 0x48040) = m_) (h_ : State.Keeps m_ s_ s) : State.Keeps m_ s_ (State.moveEnd s r io).1 := by
  refine State.Keeps.step (m1 := 0x48040) ?_ hm_ h_
  unfold State.moveEnd
  repeat' first
    | (intro _)
    | (with_reducible exact State.Keeps.refl _ _)
    | (with_reducible assumption)
    | (with_reducible apply State.Keeps.iteFst)
    | (with_reducible apply State.Keeps.ite)
    | (with_reducible apply State.putChunks_keeps)
    | (with_reducible apply State.onExtent_keeps)
    | (with_reducible apply State.freeExtent_keeps)
    | (with_reducible apply State.endDrains_keeps)
    | (with_reducible apply State.migFailCount_keeps)
    | (with_reducible apply State.dropReq_keeps)
    | (with_reducible apply State.count_keeps)
    | (with_reducible apply State.stampExtent_keeps)
    | (with_reducible apply State.Keeps.ofPair (by with_reducible assumption))
    | decide
    | extract_lets
    | split
    | dsimp only
    | dsimp +zetaDelta only

end Sys2Proof.Machine
end

