-- ==== Sys2Proof/Laws/FramePages.lean ====
section
/-! SUPPORT. The frame of each operation of Machine/Pages.lean: the blocks of the state that it may change (Laws/Keeps.lean). -/

set_option Elab.async false

namespace Sys2Proof.Machine

theorem State.setPages_keeps {m_ : Nat} {s_ : State} (s : State) (g : Nat) (l : List Nat) (hm_ : (m_ ||| 0x800) = m_) (h_ : State.Keeps m_ s_ s) : State.Keeps m_ s_ (State.setPages s g l) := by
  refine State.Keeps.step (m1 := 0x800) ?_ hm_ h_
  unfold State.setPages
  repeat' first
    | (intro _)
    | (with_reducible exact State.Keeps.refl _ _)
    | (with_reducible assumption)
    | (with_reducible apply State.onStw_keeps)
    | decide
    | split
    | dsimp only
    | dsimp +zetaDelta only

theorem State.givePages_keeps {m_ : Nat} {s_ : State} (s : State) (g : Nat) (l : List Nat) (hm_ : (m_ ||| 0x800) = m_) (h_ : State.Keeps m_ s_ s) : State.Keeps m_ s_ (State.givePages s g l) := by
  refine State.Keeps.step (m1 := 0x800) ?_ hm_ h_
  unfold State.givePages
  repeat' first
    | (intro _)
    | (with_reducible exact State.Keeps.refl _ _)
    | (with_reducible assumption)
    | (with_reducible apply State.setPages_keeps)
    | decide
    | split
    | dsimp only
    | dsimp +zetaDelta only

theorem State.addKvFrame_keeps {m_ : Nat} {s_ : State} (s : State) (g : Nat) (f : Nat) (hm_ : (m_ ||| 0x800) = m_) (h_ : State.Keeps m_ s_ s) : State.Keeps m_ s_ (State.addKvFrame s g f) := by
  refine State.Keeps.step (m1 := 0x800) ?_ hm_ h_
  unfold State.addKvFrame
  repeat' first
    | (intro _)
    | (with_reducible exact State.Keeps.refl _ _)
    | (with_reducible assumption)
    | (with_reducible apply State.Keeps.ite)
    | (with_reducible apply State.givePages_keeps)
    | decide
    | split
    | dsimp only
    | dsimp +zetaDelta only

theorem State.dropKvFrame_keeps {m_ : Nat} {s_ : State} (s : State) (g : Nat) (f : Nat) (hm_ : (m_ ||| 0x800) = m_) (h_ : State.Keeps m_ s_ s) : State.Keeps m_ s_ (State.dropKvFrame s g f) := by
  refine State.Keeps.step (m1 := 0x800) ?_ hm_ h_
  unfold State.dropKvFrame
  repeat' first
    | (intro _)
    | (with_reducible exact State.Keeps.refl _ _)
    | (with_reducible assumption)
    | (with_reducible apply State.setPages_keeps)
    | decide
    | split
    | dsimp only
    | dsimp +zetaDelta only

theorem State.stewardWrite_keeps {m_ : Nat} {s_ : State} (s : State) (ta : Nat) (d : List Byte) (hm_ : (m_ ||| 0x8840) = m_) (h_ : State.Keeps m_ s_ s) : State.Keeps m_ s_ (State.stewardWrite s ta d) := by
  refine State.Keeps.step (m1 := 0x8840) ?_ hm_ h_
  unfold State.stewardWrite
  repeat' first
    | (intro _)
    | (with_reducible exact State.Keeps.refl _ _)
    | (with_reducible assumption)
    | (with_reducible apply State.Keeps.ite)
    | (with_reducible apply State.putNear_keeps)
    | (with_reducible apply State.Keeps.ofPair (by with_reducible assumption))
    | decide
    | split
    | dsimp only
    | dsimp +zetaDelta only

theorem State.putDir_keeps {m_ : Nat} {s_ : State} (s : State) (ofs : Nat) (d : List Byte) (hm_ : (m_ ||| 0x8840) = m_) (h_ : State.Keeps m_ s_ s) : State.Keeps m_ s_ (State.putDir s ofs d) := by
  refine State.Keeps.step (m1 := 0x8840) ?_ hm_ h_
  unfold State.putDir
  repeat' first
    | (intro _)
    | (with_reducible exact State.Keeps.refl _ _)
    | (with_reducible assumption)
    | (with_reducible apply State.stewardWrite_keeps)
    | decide
    | split
    | dsimp only
    | dsimp +zetaDelta only

theorem State.writeDir_keeps {m_ : Nat} {s_ : State} (s : State) (i : Nat) (grp : Nat) (b : Nat) (page : Option Nat) (hm_ : (m_ ||| 0x8840) = m_) (h_ : State.Keeps m_ s_ s) : State.Keeps m_ s_ (State.writeDir s i grp b page) := by
  refine State.Keeps.step (m1 := 0x8840) ?_ hm_ h_
  unfold State.writeDir
  repeat' first
    | (intro _)
    | (with_reducible exact State.Keeps.refl _ _)
    | (with_reducible assumption)
    | (with_reducible apply State.putDir_keeps)
    | decide
    | split
    | dsimp only
    | dsimp +zetaDelta only

theorem State.newDir_keeps {m_ : Nat} {s_ : State} (s : State) (i : Nat) (hm_ : (m_ ||| 0x8840) = m_) (h_ : State.Keeps m_ s_ s) : State.Keeps m_ s_ (State.newDir s i) := by
  refine State.Keeps.step (m1 := 0x8840) ?_ hm_ h_
  unfold State.newDir
  repeat' first
    | (intro _)
    | (with_reducible exact State.Keeps.refl _ _)
    | (with_reducible assumption)
    | (with_reducible apply State.putDir_keeps)
    | (with_reducible apply State.Keeps.foldl)
    | (with_reducible apply State.Keeps.foldlFst)
    | decide
    | extract_lets
    | split
    | dsimp only
    | dsimp +zetaDelta only

theorem State.grantPage_keeps {m_ : Nat} {s_ : State} (s : State) (i : Nat) (gb : Nat × Nat) (page : Nat) (tree : Bool) (hm_ : (m_ ||| 0x8840) = m_) (h_ : State.Keeps m_ s_ s) : State.Keeps m_ s_ (State.grantPage s i gb page tree) := by
  refine State.Keeps.step (m1 := 0x8840) ?_ hm_ h_
  unfold State.grantPage
  repeat' first
    | (intro _)
    | (with_reducible exact State.Keeps.refl _ _)
    | (with_reducible assumption)
    | (with_reducible apply State.onSeqEnt_keeps)
    | (with_reducible apply State.writeDir_keeps)
    | (with_reducible apply State.Keeps.ofPair (by with_reducible assumption))
    | decide
    | split
    | dsimp only
    | dsimp +zetaDelta only

theorem State.dropPages_keeps {m_ : Nat} {s_ : State} (s : State) (i : Nat) (which : PageRef → Bool) (hm_ : (m_ ||| 0x8840) = m_) (h_ : State.Keeps m_ s_ s) : State.Keeps m_ s_ (State.dropPages s i which) := by
  refine State.Keeps.step (m1 := 0x8840) ?_ hm_ h_
  unfold State.dropPages
  repeat' first
    | (intro _)
    | (with_reducible exact State.Keeps.refl _ _)
    | (with_reducible assumption)
    | (with_reducible apply State.onSeqEnt_keeps)
    | (with_reducible apply State.givePages_keeps)
    | (with_reducible apply State.writeDir_keeps)
    | (with_reducible apply State.Keeps.foldl)
    | (with_reducible apply State.Keeps.foldlFst)
    | decide
    | extract_lets
    | split
    | dsimp only
    | dsimp +zetaDelta only

theorem State.trimPages_keeps {m_ : Nat} {s_ : State} (s : State) (i : Nat) (n : Nat) (hm_ : (m_ ||| 0x8840) = m_) (h_ : State.Keeps m_ s_ s) : State.Keeps m_ s_ (State.trimPages s i n) := by
  refine State.Keeps.step (m1 := 0x8840) ?_ hm_ h_
  unfold State.trimPages
  repeat' first
    | (intro _)
    | (with_reducible exact State.Keeps.refl _ _)
    | (with_reducible assumption)
    | (with_reducible apply State.dropPages_keeps)
    | decide
    | split
    | dsimp only
    | dsimp +zetaDelta only

theorem State.rootOf_keeps {m_ : Nat} {s_ : State} (s : State) (t : Nat) (hm_ : (m_ ||| 0x800) = m_) (h_ : State.Keeps m_ s_ s) : State.Keeps m_ s_ (State.rootOf s t).1 := by
  refine State.Keeps.step (m1 := 0x800) ?_ hm_ h_
  unfold State.rootOf
  repeat' first
    | (intro _)
    | (with_reducible exact State.Keeps.refl _ _)
    | (with_reducible assumption)
    | (with_reducible apply State.Keeps.iteFst)
    | (with_reducible apply State.Keeps.ite)
    | (with_reducible apply State.onStw_keeps)
    | (with_reducible apply State.onNode_keeps)
    | decide
    | extract_lets
    | split
    | dsimp only
    | dsimp +zetaDelta only

theorem State.removeNode_keeps {m_ : Nat} {s_ : State} (s : State) (n : Nat) (hm_ : (m_ ||| 0x800) = m_) (h_ : State.Keeps m_ s_ s) : State.Keeps m_ s_ (State.removeNode s n) := by
  refine State.Keeps.step (m1 := 0x800) ?_ hm_ h_
  unfold State.removeNode
  repeat' first
    | (intro _)
    | (with_reducible exact State.Keeps.refl _ _)
    | (with_reducible assumption)
    | (with_reducible apply State.Keeps.ite)
    | (with_reducible apply State.onStw_keeps)
    | (with_reducible apply State.givePages_keeps)
    | decide
    | extract_lets
    | split
    | dsimp only
    | dsimp +zetaDelta only

theorem State.evictUntil_keeps {m_ : Nat} {s_ : State} (s : State) (g : Nat) (met : State → Bool) (y0 : Nat) (hm_ : (m_ ||| 0x8800) = m_) (h_ : State.Keeps m_ s_ s) : State.Keeps m_ s_ (State.evictUntil s g met y0) := by
  induction y0 generalizing s with
  | zero =>
    unfold State.evictUntil
    repeat' first
      | (intro _)
      | (with_reducible exact State.Keeps.refl _ _)
      | (with_reducible assumption)
      | (with_reducible apply ih_)
      | (with_reducible apply State.Keeps.ite)
      | (with_reducible apply State.removeNode_keeps)
      | (with_reducible apply State.count_keeps)
      | exact State.Keeps.sub hm_ (by decide)
      | exact State.Keeps.bit hm_ (by decide)
      | split
      | dsimp only
      | dsimp +zetaDelta only
  | succ k_ ih_ =>
    unfold State.evictUntil
    repeat' first
      | (intro _)
      | (with_reducible exact State.Keeps.refl _ _)
      | (with_reducible assumption)
      | (with_reducible apply ih_)
      | (with_reducible apply State.Keeps.ite)
      | (with_reducible apply State.removeNode_keeps)
      | (with_reducible apply State.count_keeps)
      | exact State.Keeps.sub hm_ (by decide)
      | exact State.Keeps.bit hm_ (by decide)
      | split
      | dsimp only
      | dsimp +zetaDelta only

theorem State.dropRef_keeps {m_ : Nat} {s_ : State} (s : State) (n : Nat) (hm_ : (m_ ||| 0x800) = m_) (h_ : State.Keeps m_ s_ s) : State.Keeps m_ s_ (State.dropRef s n) := by
  refine State.Keeps.step (m1 := 0x800) ?_ hm_ h_
  unfold State.dropRef
  repeat' first
    | (intro _)
    | (with_reducible exact State.Keeps.refl _ _)
    | (with_reducible assumption)
    | (with_reducible apply State.Keeps.ite)
    | (with_reducible apply State.onNode_keeps)
    | decide
    | split
    | dsimp only
    | dsimp +zetaDelta only

theorem State.addRef_keeps {m_ : Nat} {s_ : State} (s : State) (n : Nat) (hm_ : (m_ ||| 0x800) = m_) (h_ : State.Keeps m_ s_ s) : State.Keeps m_ s_ (State.addRef s n) := by
  refine State.Keeps.step (m1 := 0x800) ?_ hm_ h_
  unfold State.addRef
  repeat' first
    | (intro _)
    | (with_reducible exact State.Keeps.refl _ _)
    | (with_reducible assumption)
    | (with_reducible apply State.Keeps.ite)
    | (with_reducible apply State.onNode_keeps)
    | decide
    | split
    | dsimp only
    | dsimp +zetaDelta only

theorem State.freeCache_keeps {m_ : Nat} {s_ : State} (s : State) (i : Nat) (hm_ : (m_ ||| 0x8840) = m_) (h_ : State.Keeps m_ s_ s) : State.Keeps m_ s_ (State.freeCache s i) := by
  refine State.Keeps.step (m1 := 0x8840) ?_ hm_ h_
  unfold State.freeCache
  repeat' first
    | (intro _)
    | (with_reducible exact State.Keeps.refl _ _)
    | (with_reducible assumption)
    | (with_reducible apply State.onSeqEnt_keeps)
    | (with_reducible apply State.dropRef_keeps)
    | (with_reducible apply State.dropPages_keeps)
    | decide
    | extract_lets
    | split
    | dsimp only
    | dsimp +zetaDelta only

theorem State.freeExtents_keeps {m_ : Nat} {s_ : State} (s : State) (i : Nat) (hm_ : (m_ ||| 0x8840) = m_) (h_ : State.Keeps m_ s_ s) : State.Keeps m_ s_ (State.freeExtents s i) := by
  refine State.Keeps.step (m1 := 0x8840) ?_ hm_ h_
  unfold State.freeExtents
  repeat' first
    | (intro _)
    | (with_reducible exact State.Keeps.refl _ _)
    | (with_reducible assumption)
    | (with_reducible apply State.releaseHandle_keeps)
    | (with_reducible apply State.onSeqEnt_keeps)
    | (with_reducible apply State.Keeps.foldl)
    | (with_reducible apply State.Keeps.foldlFst)
    | decide
    | split
    | dsimp only
    | dsimp +zetaDelta only

theorem State.makeRoom_keeps {m_ : Nat} {s_ : State} (s : State) (i : Nat) (p : Nat) (hm_ : (m_ ||| 0x8800) = m_) (h_ : State.Keeps m_ s_ s) : State.Keeps m_ s_ (State.makeRoom s i p) := by
  refine State.Keeps.step (m1 := 0x8800) ?_ hm_ h_
  unfold State.makeRoom
  repeat' first
    | (intro _)
    | (with_reducible exact State.Keeps.refl _ _)
    | (with_reducible assumption)
    | (with_reducible apply State.evictUntil_keeps)
    | decide
    | extract_lets
    | split
    | dsimp only
    | dsimp +zetaDelta only

theorem State.takePages_keeps {m_ : Nat} {s_ : State} (s : State) (i : Nat) (p : Nat) (hm_ : (m_ ||| 0x8840) = m_) (h_ : State.Keeps m_ s_ s) : State.Keeps.OptS m_ s_ (State.takePages s i p) := by
  unfold State.takePages
  repeat' first
    | (intro _)
    | (with_reducible exact State.Keeps.refl _ _)
    | (with_reducible assumption)
    | (with_reducible apply State.Keeps.ite)
    | (with_reducible apply State.setPages_keeps)
    | (with_reducible apply State.grantPage_keeps)
    | (with_reducible apply State.Keeps.foldl)
    | (with_reducible apply State.Keeps.foldlFst)
    | (with_reducible apply State.Keeps.ofPair (by with_reducible assumption))
    | (with_reducible exact State.Keeps.optS_none)
    | (with_reducible apply State.Keeps.optS_some)
    | (with_reducible exact State.Keeps.optP_none)
    | (with_reducible apply State.Keeps.optP_some)
    | (with_reducible exact State.Keeps.exS_error)
    | (with_reducible apply State.Keeps.exS_ok)
    | exact State.Keeps.sub hm_ (by decide)
    | exact State.Keeps.bit hm_ (by decide)
    | extract_lets
    | split
    | dsimp only
    | dsimp +zetaDelta only

theorem State.prefixWalk_keeps {m_ : Nat} {s_ : State} (s : State) (i : Nat) (toks : List Nat) (hm_ : (m_ ||| 0x8840) = m_) (h_ : State.Keeps m_ s_ s) : State.Keeps m_ s_ (State.prefixWalk s i toks) := by
  refine State.Keeps.step (m1 := 0x8840) ?_ hm_ h_
  unfold State.prefixWalk
  repeat' first
    | (intro _)
    | (with_reducible exact State.Keeps.refl _ _)
    | (with_reducible assumption)
    | (with_reducible apply State.Keeps.ite)
    | (with_reducible apply State.rootOf_keeps)
    | (with_reducible apply State.addRef_keeps)
    | (with_reducible apply State.onSeqEnt_keeps)
    | (with_reducible apply State.grantPage_keeps)
    | (with_reducible apply State.count_keeps)
    | (with_reducible apply State.onNode_keeps)
    | (with_reducible apply State.Keeps.foldl)
    | (with_reducible apply State.Keeps.foldlFst)
    | (with_reducible apply State.Keeps.ofPair (by with_reducible assumption))
    | decide
    | extract_lets
    | split
    | dsimp only
    | dsimp +zetaDelta only

theorem State.offerBlock_keeps {m_ : Nat} {s_ : State} (s : State) (i : Nat) (b : Nat) (toks : List Nat) (hm_ : (m_ ||| 0x8800) = m_) (h_ : State.Keeps m_ s_ s) : State.Keeps m_ s_ (State.offerBlock s i b toks) := by
  refine State.Keeps.step (m1 := 0x8800) ?_ hm_ h_
  unfold State.offerBlock
  repeat' first
    | (intro _)
    | (with_reducible exact State.Keeps.refl _ _)
    | (with_reducible assumption)
    | (with_reducible apply State.Keeps.ite)
    | (with_reducible apply State.addRef_keeps)
    | (with_reducible apply State.evictUntil_keeps)
    | (with_reducible apply State.onSeqEnt_keeps)
    | (with_reducible apply State.dropRef_keeps)
    | (with_reducible apply State.onNode_keeps)
    | (with_reducible apply State.raise_keeps)
    | (with_reducible apply State.count_keeps)
    | (with_reducible apply State.Keeps.ofPair (by with_reducible assumption))
    | decide
    | extract_lets
    | split
    | dsimp only
    | dsimp +zetaDelta only

theorem State.commitToks_keeps {m_ : Nat} {s_ : State} (s : State) (i : Nat) (y0 : List Nat) (y1 : Nat) (hm_ : (m_ ||| 0x8800) = m_) (h_ : State.Keeps m_ s_ s) : State.Keeps m_ s_ (State.commitToks s i y0 y1) := by
  induction y0 generalizing s y1 with
  | nil =>
    unfold State.commitToks
    repeat' first
      | (intro _)
      | (with_reducible exact State.Keeps.refl _ _)
      | (with_reducible assumption)
      | (with_reducible apply ih_)
      | (with_reducible apply State.Keeps.ite)
      | (with_reducible apply State.offerBlock_keeps)
      | (with_reducible apply State.onSeqEnt_keeps)
      | exact State.Keeps.sub hm_ (by decide)
      | exact State.Keeps.bit hm_ (by decide)
      | extract_lets
      | split
      | dsimp only
      | dsimp +zetaDelta only
  | cons a_ l_ ih_ =>
    unfold State.commitToks
    repeat' first
      | (intro _)
      | (with_reducible exact State.Keeps.refl _ _)
      | (with_reducible assumption)
      | (with_reducible apply ih_)
      | (with_reducible apply State.Keeps.ite)
      | (with_reducible apply State.offerBlock_keeps)
      | (with_reducible apply State.onSeqEnt_keeps)
      | exact State.Keeps.sub hm_ (by decide)
      | exact State.Keeps.bit hm_ (by decide)
      | extract_lets
      | split
      | dsimp only
      | dsimp +zetaDelta only

theorem State.leaveBatch_keeps {m_ : Nat} {s_ : State} (s : State) (i : Nat) (hm_ : (m_ ||| 0x800) = m_) (h_ : State.Keeps m_ s_ s) : State.Keeps m_ s_ (State.leaveBatch s i) := by
  refine State.Keeps.step (m1 := 0x800) ?_ hm_ h_
  unfold State.leaveBatch
  repeat' first
    | (intro _)
    | (with_reducible exact State.Keeps.refl _ _)
    | (with_reducible assumption)
    | (with_reducible apply State.onServe_keeps)
    | decide
    | split
    | dsimp only
    | dsimp +zetaDelta only

theorem State.seqEndCpl_keeps {m_ : Nat} {s_ : State} (s : State) (i : Nat) (status : Nat) (hm_ : (m_ ||| 0x2A000) = m_) (h_ : State.Keeps m_ s_ s) : State.Keeps m_ s_ (State.seqEndCpl s i status) := by
  refine State.Keeps.step (m1 := 0x2A000) ?_ hm_ h_
  unfold State.seqEndCpl
  repeat' first
    | (intro _)
    | (with_reducible exact State.Keeps.refl _ _)
    | (with_reducible assumption)
    | (with_reducible apply State.putCq_keeps)
    | decide
    | extract_lets
    | split
    | dsimp only
    | dsimp +zetaDelta only

theorem State.endSeq_keeps {m_ : Nat} {s_ : State} (s : State) (i : Nat) (q : QState) (status : Nat) (hm_ : (m_ ||| 0x2A840) = m_) (h_ : State.Keeps m_ s_ s) : State.Keeps m_ s_ (State.endSeq s i q status) := by
  refine State.Keeps.step (m1 := 0x2A840) ?_ hm_ h_
  unfold State.endSeq
  repeat' first
    | (intro _)
    | (with_reducible exact State.Keeps.refl _ _)
    | (with_reducible assumption)
    | (with_reducible apply State.Keeps.ite)
    | (with_reducible apply State.leaveBatch_keeps)
    | (with_reducible apply State.onSeqEnt_keeps)
    | (with_reducible apply State.freeCache_keeps)
    | (with_reducible apply State.freeExtents_keeps)
    | (with_reducible apply State.refuseState_keeps)
    | (with_reducible apply State.raise_keeps)
    | (with_reducible apply State.seqEndCpl_keeps)
    | (with_reducible apply State.count_keeps)
    | (with_reducible apply State.complete_keeps)
    | (with_reducible apply State.Keeps.foldl)
    | (with_reducible apply State.Keeps.foldlFst)
    | decide
    | extract_lets
    | split
    | dsimp only
    | dsimp +zetaDelta only

theorem State.cancelSeq_keeps {m_ : Nat} {s_ : State} (s : State) (i : Nat) (hm_ : (m_ ||| 0x2A840) = m_) (h_ : State.Keeps m_ s_ s) : State.Keeps m_ s_ (State.cancelSeq s i) := by
  refine State.Keeps.step (m1 := 0x2A840) ?_ hm_ h_
  unfold State.cancelSeq
  repeat' first
    | (intro _)
    | (with_reducible exact State.Keeps.refl _ _)
    | (with_reducible assumption)
    | (with_reducible apply State.count_keeps)
    | (with_reducible apply State.endSeq_keeps)
    | decide
    | split
    | dsimp only
    | dsimp +zetaDelta only

theorem State.loseSeq_keeps {m_ : Nat} {s_ : State} (s : State) (i : Nat) (hm_ : (m_ ||| 0x2A840) = m_) (h_ : State.Keeps m_ s_ s) : State.Keeps m_ s_ (State.loseSeq s i) := by
  refine State.Keeps.step (m1 := 0x2A840) ?_ hm_ h_
  unfold State.loseSeq
  repeat' first
    | (intro _)
    | (with_reducible exact State.Keeps.refl _ _)
    | (with_reducible assumption)
    | (with_reducible apply State.endSeq_keeps)
    | decide
    | split
    | dsimp only
    | dsimp +zetaDelta only

theorem State.pauseSeq_keeps {m_ : Nat} {s_ : State} (s : State) (i : Nat) (hm_ : (m_ ||| 0x6A840) = m_) (h_ : State.Keeps m_ s_ s) : State.Keeps m_ s_ (State.pauseSeq s i) := by
  refine State.Keeps.step (m1 := 0x6A840) ?_ hm_ h_
  unfold State.pauseSeq
  repeat' first
    | (intro _)
    | (with_reducible exact State.Keeps.refl _ _)
    | (with_reducible assumption)
    | (with_reducible apply State.Keeps.ite)
    | (with_reducible apply State.leaveBatch_keeps)
    | (with_reducible apply State.onSeqEnt_keeps)
    | (with_reducible apply State.stampSeq_keeps)
    | (with_reducible apply State.trimPages_keeps)
    | (with_reducible apply State.complete_keeps)
    | (with_reducible apply State.Keeps.foldl)
    | (with_reducible apply State.Keeps.foldlFst)
    | decide
    | extract_lets
    | split
    | dsimp only
    | dsimp +zetaDelta only

theorem State.returnSeq_keeps {m_ : Nat} {s_ : State} (s : State) (i : Nat) (hm_ : (m_ ||| 0x6A800) = m_) (h_ : State.Keeps m_ s_ s) : State.Keeps m_ s_ (State.returnSeq s i) := by
  refine State.Keeps.step (m1 := 0x6A800) ?_ hm_ h_
  unfold State.returnSeq
  repeat' first
    | (intro _)
    | (with_reducible exact State.Keeps.refl _ _)
    | (with_reducible assumption)
    | (with_reducible apply State.Keeps.ite)
    | (with_reducible apply State.onSeqEnt_keeps)
    | (with_reducible apply State.onServe_keeps)
    | (with_reducible apply State.stampSeq_keeps)
    | (with_reducible apply State.complete_keeps)
    | decide
    | extract_lets
    | split
    | dsimp only
    | dsimp +zetaDelta only

end Sys2Proof.Machine
end

