-- ==== Sys2Proof/Laws/FramePrograms.lean ====
section
/-! SUPPORT. The frame of each operation of Machine/Programs.lean: the blocks of the state that it may change (Laws/Keeps.lean). -/

set_option Elab.async false

namespace Sys2Proof.Machine

theorem State.writeProgram_keeps {m_ : Nat} {s_ : State} (s : State) (q : Nat) (first : Nat) (ws : List Word) (hm_ : (m_ ||| 0x20) = m_) (h_ : State.Keeps m_ s_ s) : State.Keeps m_ s_ (State.writeProgram s q first ws) := by
  refine State.Keeps.step (m1 := 0x20) ?_ hm_ h_
  unfold State.writeProgram
  repeat' first
    | (intro _)
    | (with_reducible exact State.Keeps.refl _ _)
    | (with_reducible assumption)
    | (with_reducible apply State.onSeq_keeps)
    | decide
    | split
    | dsimp only
    | dsimp +zetaDelta only

theorem State.startSeq_keeps {m_ : Nat} {s_ : State} (s : State) (q : Nat) (g1 : Word) (hm_ : (m_ ||| 0x20) = m_) (h_ : State.Keeps m_ s_ s) : State.Keeps m_ s_ (State.startSeq s q g1) := by
  refine State.Keeps.step (m1 := 0x20) ?_ hm_ h_
  unfold State.startSeq
  repeat' first
    | (intro _)
    | (with_reducible exact State.Keeps.refl _ _)
    | (with_reducible assumption)
    | (with_reducible apply State.rerunPoint_keeps)
    | (with_reducible apply State.onGsq_keeps)
    | decide
    | split
    | dsimp only
    | dsimp +zetaDelta only

theorem State.discardArm_keeps {m_ : Nat} {s_ : State} (s : State) (q : Nat) (hm_ : (m_ ||| 0x20) = m_) (h_ : State.Keeps m_ s_ s) : State.Keeps m_ s_ (State.discardArm s q) := by
  refine State.Keeps.step (m1 := 0x20) ?_ hm_ h_
  unfold State.discardArm
  repeat' first
    | (intro _)
    | (with_reducible exact State.Keeps.refl _ _)
    | (with_reducible assumption)
    | (with_reducible apply State.Keeps.ite)
    | (with_reducible apply State.onGsq_keeps)
    | decide
    | extract_lets
    | split
    | dsimp only
    | dsimp +zetaDelta only

theorem State.stopSeq_keeps {m_ : Nat} {s_ : State} (s : State) (q : Nat) (hm_ : (m_ ||| 0x20) = m_) (h_ : State.Keeps m_ s_ s) : State.Keeps m_ s_ (State.stopSeq s q) := by
  refine State.Keeps.step (m1 := 0x20) ?_ hm_ h_
  unfold State.stopSeq
  repeat' first
    | (intro _)
    | (with_reducible exact State.Keeps.refl _ _)
    | (with_reducible assumption)
    | (with_reducible apply State.onGsq_keeps)
    | (with_reducible apply State.discardArm_keeps)
    | decide
    | split
    | dsimp only
    | dsimp +zetaDelta only

end Sys2Proof.Machine
end

