-- ==== Sys2Proof/Laws/FrameResidency.lean ====
section
/-! SUPPORT. The frame of each operation of Machine/Residency.lean: the blocks of the state that it may change (Laws/Keeps.lean). -/

set_option Elab.async false

namespace Sys2Proof.Machine

theorem State.freeFrame_keeps {m_ : Nat} {s_ : State} (s : State) (f : Nat) (hm_ : (m_ ||| 0x840) = m_) (h_ : State.Keeps m_ s_ s) : State.Keeps m_ s_ (State.freeFrame s f) := by
  refine State.Keeps.step (m1 := 0x840) ?_ hm_ h_
  unfold State.freeFrame
  repeat' first
    | (intro _)
    | (with_reducible exact State.Keeps.refl _ _)
    | (with_reducible assumption)
    | (with_reducible apply State.onFrame_keeps)
    | (with_reducible apply State.dropKvFrame_keeps)
    | decide
    | extract_lets
    | split
    | dsimp only
    | dsimp +zetaDelta only

theorem State.staleNodes_keeps {m_ : Nat} {s_ : State} (s : State) (p : NodeSt → Bool) (hm_ : (m_ ||| 0x800) = m_) (h_ : State.Keeps m_ s_ s) : State.Keeps m_ s_ (State.staleNodes s p) := by
  refine State.Keeps.step (m1 := 0x800) ?_ hm_ h_
  unfold State.staleNodes
  repeat' first
    | (intro _)
    | (with_reducible exact State.Keeps.refl _ _)
    | (with_reducible assumption)
    | (with_reducible apply State.onNode_keeps)
    | (with_reducible apply State.Keeps.foldl)
    | (with_reducible apply State.Keeps.foldlFst)
    | decide
    | split
    | dsimp only
    | dsimp +zetaDelta only

theorem State.swinAsk_keeps {m_ : Nat} {s_ : State} (s : State) (m : Nat) (w : SwinSt) (src : Nat) (hm_ : (m_ ||| 0x20840) = m_) (h_ : State.Keeps m_ s_ s) : State.Keeps m_ s_ (State.swinAsk s m w src) := by
  refine State.Keeps.step (m1 := 0x20840) ?_ hm_ h_
  unfold State.swinAsk
  repeat' first
    | (intro _)
    | (with_reducible exact State.Keeps.refl _ _)
    | (with_reducible assumption)
    | (with_reducible apply State.Keeps.ite)
    | (with_reducible apply State.submit_keeps)
    | (with_reducible apply State.onModel_keeps)
    | (with_reducible apply State.emit_keeps)
    | decide
    | extract_lets
    | split
    | dsimp only
    | dsimp +zetaDelta only

theorem State.swinGivesUp_keeps {m_ : Nat} {s_ : State} (s : State) (m : Nat) (w : SwinSt) (hm_ : (m_ ||| 0x2A800) = m_) (h_ : State.Keeps m_ s_ s) : State.Keeps m_ s_ (State.swinGivesUp s m w) := by
  refine State.Keeps.step (m1 := 0x2A800) ?_ hm_ h_
  unfold State.swinGivesUp
  repeat' first
    | (intro _)
    | (with_reducible exact State.Keeps.refl _ _)
    | (with_reducible assumption)
    | (with_reducible apply State.complete_keeps)
    | (with_reducible apply State.onModel_keeps)
    | decide
    | split
    | dsimp only
    | dsimp +zetaDelta only

theorem State.swinFetch_keeps {m_ : Nat} {s_ : State} (s : State) (m : Nat) (hm_ : (m_ ||| 0x2A840) = m_) (h_ : State.Keeps m_ s_ s) : State.Keeps m_ s_ (State.swinFetch s m) := by
  refine State.Keeps.step (m1 := 0x2A840) ?_ hm_ h_
  unfold State.swinFetch
  repeat' first
    | (intro _)
    | (with_reducible exact State.Keeps.refl _ _)
    | (with_reducible assumption)
    | (with_reducible apply State.swinGivesUp_keeps)
    | (with_reducible apply State.swinAsk_keeps)
    | decide
    | split
    | dsimp only
    | dsimp +zetaDelta only

theorem State.swinTierFails_keeps {m_ : Nat} {s_ : State} (s : State) (m : Nat) (hm_ : (m_ ||| 0x2A840) = m_) (h_ : State.Keeps m_ s_ s) : State.Keeps m_ s_ (State.swinTierFails s m) := by
  refine State.Keeps.step (m1 := 0x2A840) ?_ hm_ h_
  unfold State.swinTierFails
  repeat' first
    | (intro _)
    | (with_reducible exact State.Keeps.refl _ _)
    | (with_reducible assumption)
    | (with_reducible apply State.swinGivesUp_keeps)
    | (with_reducible apply State.swinAsk_keeps)
    | decide
    | split
    | dsimp only
    | dsimp +zetaDelta only

theorem State.swinExtentIn_keeps {m_ : Nat} {s_ : State} (s : State) (m : Nat) (hm_ : (m_ ||| 0x2A860) = m_) (h_ : State.Keeps m_ s_ s) : State.Keeps m_ s_ (State.swinExtentIn s m) := by
  refine State.Keeps.step (m1 := 0x2A860) ?_ hm_ h_
  unfold State.swinExtentIn
  repeat' first
    | (intro _)
    | (with_reducible exact State.Keeps.refl _ _)
    | (with_reducible assumption)
    | (with_reducible apply State.Keeps.ite)
    | (with_reducible apply State.onModel_keeps)
    | (with_reducible apply State.swinFetch_keeps)
    | (with_reducible apply State.setArrival_keeps)
    | (with_reducible apply State.complete_keeps)
    | decide
    | extract_lets
    | split
    | dsimp only
    | dsimp +zetaDelta only

theorem State.swinUnitsIn_keeps {m_ : Nat} {s_ : State} (s : State) (m : Nat) (hm_ : (m_ ||| 0x800) = m_) (h_ : State.Keeps m_ s_ s) : State.Keeps m_ s_ (State.swinUnitsIn s m) := by
  refine State.Keeps.step (m1 := 0x800) ?_ hm_ h_
  unfold State.swinUnitsIn
  repeat' first
    | (intro _)
    | (with_reducible exact State.Keeps.refl _ _)
    | (with_reducible assumption)
    | (with_reducible apply State.onModel_keeps)
    | decide
    | split
    | dsimp only
    | dsimp +zetaDelta only

theorem State.swinPeerLost_keeps {m_ : Nat} {s_ : State} (s : State) (m : Nat) (hm_ : (m_ ||| 0x2A840) = m_) (h_ : State.Keeps m_ s_ s) : State.Keeps m_ s_ (State.swinPeerLost s m) := by
  refine State.Keeps.step (m1 := 0x2A840) ?_ hm_ h_
  unfold State.swinPeerLost
  repeat' first
    | (intro _)
    | (with_reducible exact State.Keeps.refl _ _)
    | (with_reducible assumption)
    | (with_reducible apply State.Keeps.ite)
    | (with_reducible apply State.onModel_keeps)
    | (with_reducible apply State.raise_keeps)
    | (with_reducible apply State.swinFetch_keeps)
    | decide
    | split
    | dsimp only
    | dsimp +zetaDelta only

theorem State.replCopies_keeps {m_ : Nat} {s_ : State} (s : State) (m : Nat) (hm_ : (m_ ||| 0x40) = m_) (h_ : State.Keeps m_ s_ s) : State.Keeps m_ s_ (State.replCopies s m) := by
  refine State.Keeps.step (m1 := 0x40) ?_ hm_ h_
  unfold State.replCopies
  repeat' first
    | (intro _)
    | (with_reducible exact State.Keeps.refl _ _)
    | (with_reducible assumption)
    | (with_reducible apply State.submit_keeps)
    | (with_reducible apply State.Keeps.foldl)
    | (with_reducible apply State.Keeps.foldlFst)
    | decide
    | extract_lets
    | split
    | dsimp only
    | dsimp +zetaDelta only

theorem State.cuffClose_keeps {m_ : Nat} {s_ : State} (s : State) (m : Nat) (g : Nat) (hm_ : (m_ ||| 0x840) = m_) (h_ : State.Keeps m_ s_ s) : State.Keeps m_ s_ (State.cuffClose s m g) := by
  refine State.Keeps.step (m1 := 0x840) ?_ hm_ h_
  unfold State.cuffClose
  repeat' first
    | (intro _)
    | (with_reducible exact State.Keeps.refl _ _)
    | (with_reducible assumption)
    | (with_reducible apply State.Keeps.ite)
    | (with_reducible apply State.onModel_keeps)
    | (with_reducible apply State.onServe_keeps)
    | (with_reducible apply State.replCopies_keeps)
    | decide
    | extract_lets
    | split
    | dsimp only
    | dsimp +zetaDelta only

theorem State.replExtentIn_keeps {m_ : Nat} {s_ : State} (s : State) (m : Nat) (e : Nat) (hm_ : (m_ ||| 0x40800) = m_) (h_ : State.Keeps m_ s_ s) : State.Keeps m_ s_ (State.replExtentIn s m e) := by
  refine State.Keeps.step (m1 := 0x40800) ?_ hm_ h_
  unfold State.replExtentIn
  repeat' first
    | (intro _)
    | (with_reducible exact State.Keeps.refl _ _)
    | (with_reducible assumption)
    | (with_reducible apply State.Keeps.ite)
    | (with_reducible apply State.onModel_keeps)
    | (with_reducible apply State.spend_keeps)
    | decide
    | extract_lets
    | split
    | dsimp only
    | dsimp +zetaDelta only

theorem State.replFails_keeps {m_ : Nat} {s_ : State} (s : State) (m : Nat) (st : Nat) (hm_ : (m_ ||| 0x2A840) = m_) (h_ : State.Keeps m_ s_ s) : State.Keeps m_ s_ (State.replFails s m st) := by
  refine State.Keeps.step (m1 := 0x2A840) ?_ hm_ h_
  unfold State.replFails
  repeat' first
    | (intro _)
    | (with_reducible exact State.Keeps.refl _ _)
    | (with_reducible assumption)
    | (with_reducible apply State.Keeps.ite)
    | (with_reducible apply State.freeFrame_keeps)
    | (with_reducible apply State.onModel_keeps)
    | (with_reducible apply State.completeOpt_keeps)
    | (with_reducible apply State.onServe_keeps)
    | (with_reducible apply State.Keeps.foldl)
    | (with_reducible apply State.Keeps.foldlFst)
    | decide
    | extract_lets
    | split
    | dsimp only
    | dsimp +zetaDelta only

theorem State.replDone_keeps {m_ : Nat} {s_ : State} (s : State) (m : Nat) (r : ReplSt) (hm_ : (m_ ||| 0x2A800) = m_) (h_ : State.Keeps m_ s_ s) : State.Keeps m_ s_ (State.replDone s m r) := by
  refine State.Keeps.step (m1 := 0x2A800) ?_ hm_ h_
  unfold State.replDone
  repeat' first
    | (intro _)
    | (with_reducible exact State.Keeps.refl _ _)
    | (with_reducible assumption)
    | (with_reducible apply State.staleNodes_keeps)
    | (with_reducible apply State.completeOpt_keeps)
    | (with_reducible apply State.onModel_keeps)
    | decide
    | split
    | dsimp only
    | dsimp +zetaDelta only

theorem State.secondSwitch_keeps {m_ : Nat} {s_ : State} (s : State) (m : Nat) (g : Nat) (hm_ : (m_ ||| 0x2A860) = m_) (h_ : State.Keeps m_ s_ s) : State.Keeps m_ s_ (State.secondSwitch s m g) := by
  refine State.Keeps.step (m1 := 0x2A860) ?_ hm_ h_
  unfold State.secondSwitch
  repeat' first
    | (intro _)
    | (with_reducible exact State.Keeps.refl _ _)
    | (with_reducible assumption)
    | (with_reducible apply State.Keeps.ite)
    | (with_reducible apply State.freeFrame_keeps)
    | (with_reducible apply State.startSeq_keeps)
    | (with_reducible apply State.onModel_keeps)
    | (with_reducible apply State.stopSeq_keeps)
    | (with_reducible apply State.replDone_keeps)
    | (with_reducible apply State.writeProgram_keeps)
    | (with_reducible apply State.count_keeps)
    | (with_reducible apply State.Keeps.foldl)
    | (with_reducible apply State.Keeps.foldlFst)
    | decide
    | extract_lets
    | split
    | dsimp only
    | dsimp +zetaDelta only

theorem State.commitResidency_keeps {m_ : Nat} {s_ : State} (s : State) (g : Nat) (hm_ : (m_ ||| 0x2A860) = m_) (h_ : State.Keeps m_ s_ s) : State.Keeps m_ s_ (State.commitResidency s g) := by
  refine State.Keeps.step (m1 := 0x2A860) ?_ hm_ h_
  unfold State.commitResidency
  repeat' first
    | (intro _)
    | (with_reducible exact State.Keeps.refl _ _)
    | (with_reducible assumption)
    | (with_reducible apply State.cuffClose_keeps)
    | (with_reducible apply State.secondSwitch_keeps)
    | (with_reducible apply State.Keeps.foldl)
    | (with_reducible apply State.Keeps.foldlFst)
    | decide
    | split
    | dsimp only
    | dsimp +zetaDelta only

theorem State.cuffReleased_keeps {m_ : Nat} {s_ : State} (s : State) (m : Nat) (hm_ : (m_ ||| 0x2A800) = m_) (h_ : State.Keeps m_ s_ s) : State.Keeps m_ s_ (State.cuffReleased s m) := by
  refine State.Keeps.step (m1 := 0x2A800) ?_ hm_ h_
  unfold State.cuffReleased
  repeat' first
    | (intro _)
    | (with_reducible exact State.Keeps.refl _ _)
    | (with_reducible assumption)
    | (with_reducible apply State.Keeps.ite)
    | (with_reducible apply State.replDone_keeps)
    | (with_reducible apply State.onServe_keeps)
    | (with_reducible apply State.raise_keeps)
    | (with_reducible apply State.count_keeps)
    | (with_reducible apply State.Keeps.foldl)
    | (with_reducible apply State.Keeps.foldlFst)
    | decide
    | extract_lets
    | split
    | dsimp only
    | dsimp +zetaDelta only

theorem State.parkModel_keeps {m_ : Nat} {s_ : State} (s : State) (m : Nat) (hm_ : (m_ ||| 0x840) = m_) (h_ : State.Keeps m_ s_ s) : State.Keeps m_ s_ (State.parkModel s m) := by
  refine State.Keeps.step (m1 := 0x840) ?_ hm_ h_
  unfold State.parkModel
  repeat' first
    | (intro _)
    | (with_reducible exact State.Keeps.refl _ _)
    | (with_reducible assumption)
    | (with_reducible apply State.freeFrame_keeps)
    | (with_reducible apply State.onModel_keeps)
    | (with_reducible apply State.Keeps.foldl)
    | (with_reducible apply State.Keeps.foldlFst)
    | decide
    | extract_lets
    | split
    | dsimp only
    | dsimp +zetaDelta only

end Sys2Proof.Machine
end

