-- ==== Sys2Proof/Laws/FrameCaches.lean ====
section
/-! SUPPORT. The frame of each operation of Machine/Caches.lean: the blocks of the state that it may change (Laws/Keeps.lean). -/

set_option Elab.async false

namespace Sys2Proof.Machine

theorem State.enterTier_keeps {m_ : Nat} {s_ : State} (s : State) (i : Nat) (dest : QState) (auto : Bool) (hm_ : (m_ ||| 0x40800) = m_) (h_ : State.Keeps m_ s_ s) : State.Keeps m_ s_ (State.enterTier s i dest auto) := by
  refine State.Keeps.step (m1 := 0x40800) ?_ hm_ h_
  unfold State.enterTier
  repeat' first
    | (intro _)
    | (with_reducible exact State.Keeps.refl _ _)
    | (with_reducible assumption)
    | (with_reducible apply State.Keeps.ite)
    | (with_reducible apply State.leaveBatch_keeps)
    | (with_reducible apply State.onSeqEnt_keeps)
    | (with_reducible apply State.stampSeq_keeps)
    | decide
    | extract_lets
    | split
    | dsimp only
    | dsimp +zetaDelta only

theorem State.withdrawPieces_keeps {m_ : Nat} {s_ : State} (s : State) (i : Nat) (hm_ : (m_ ||| 0x40) = m_) (h_ : State.Keeps m_ s_ s) : State.Keeps m_ s_ (State.withdrawPieces s i) := by
  refine State.Keeps.step (m1 := 0x40) ?_ hm_ h_
  unfold State.withdrawPieces
  repeat' first
    | (intro _)
    | (with_reducible exact State.Keeps.refl _ _)
    | (with_reducible assumption)
    | (with_reducible apply State.onMem_keeps)
    | decide
    | split
    | dsimp only
    | dsimp +zetaDelta only

theorem State.jobProgress_keeps {m_ : Nat} {s_ : State} (s : State) (i : Nat) (hm_ : (m_ ||| 0x40800) = m_) (h_ : State.Keeps m_ s_ s) : State.Keeps m_ s_ (State.jobProgress s i) := by
  refine State.Keeps.step (m1 := 0x40800) ?_ hm_ h_
  unfold State.jobProgress
  repeat' first
    | (intro _)
    | (with_reducible exact State.Keeps.refl _ _)
    | (with_reducible assumption)
    | (with_reducible apply State.Keeps.ite)
    | (with_reducible apply State.enterTier_keeps)
    | decide
    | extract_lets
    | split
    | dsimp only
    | dsimp +zetaDelta only

theorem State.sealTooBig_keeps {m_ : Nat} {s_ : State} (s : State) (i : Nat) (auto : Bool) (hm_ : (m_ ||| 0x8800) = m_) (h_ : State.Keeps m_ s_ s) : State.Keeps m_ s_ (State.sealTooBig s i auto) := by
  refine State.Keeps.step (m1 := 0x8800) ?_ hm_ h_
  unfold State.sealTooBig
  repeat' first
    | (intro _)
    | (with_reducible exact State.Keeps.refl _ _)
    | (with_reducible assumption)
    | (with_reducible apply State.Keeps.ite)
    | (with_reducible apply State.raise_keeps)
    | (with_reducible apply State.onSeqEnt_keeps)
    | decide
    | split
    | dsimp only
    | dsimp +zetaDelta only

theorem State.fillBuffer_keeps {m_ : Nat} {s_ : State} (s : State) (ta : Nat) (d : List Byte) (hm_ : (m_ ||| 0x8840) = m_) (h_ : State.Keeps m_ s_ s) : State.Keeps m_ s_ (State.fillBuffer s ta d) := by
  refine State.Keeps.step (m1 := 0x8840) ?_ hm_ h_
  unfold State.fillBuffer
  repeat' first
    | (intro _)
    | (with_reducible exact State.Keeps.refl _ _)
    | (with_reducible assumption)
    | (with_reducible apply State.Keeps.ite)
    | (with_reducible apply State.putStaged_keeps)
    | (with_reducible apply State.Keeps.foldl)
    | (with_reducible apply State.Keeps.foldlFst)
    | (with_reducible apply State.Keeps.ofPair (by with_reducible assumption))
    | decide
    | split
    | dsimp only
    | dsimp +zetaDelta only

theorem State.sealDown_keeps {m_ : Nat} {s_ : State} (s : State) (i : Nat) (dest : QState) (auto : Bool) (hm_ : (m_ ||| 0x48840) = m_) (h_ : State.Keeps m_ s_ s) : State.Keeps m_ s_ (State.sealDown s i dest auto) := by
  refine State.Keeps.step (m1 := 0x48840) ?_ hm_ h_
  unfold State.sealDown
  repeat' first
    | (intro _)
    | (with_reducible exact State.Keeps.refl _ _)
    | (with_reducible assumption)
    | (with_reducible apply State.Keeps.ite)
    | (with_reducible apply State.sealTooBig_keeps)
    | (with_reducible apply State.onSeqEnt_keeps)
    | (with_reducible apply State.jobProgress_keeps)
    | (with_reducible apply State.fillBuffer_keeps)
    | (with_reducible apply State.submit_keeps)
    | (with_reducible apply State.Keeps.foldl)
    | (with_reducible apply State.Keeps.foldlFst)
    | decide
    | extract_lets
    | split
    | dsimp only
    | dsimp +zetaDelta only

theorem State.moveDown_keeps {m_ : Nat} {s_ : State} (s : State) (i : Nat) (hm_ : (m_ ||| 0x40840) = m_) (h_ : State.Keeps m_ s_ s) : State.Keeps m_ s_ (State.moveDown s i) := by
  refine State.Keeps.step (m1 := 0x40840) ?_ hm_ h_
  unfold State.moveDown
  repeat' first
    | (intro _)
    | (with_reducible exact State.Keeps.refl _ _)
    | (with_reducible assumption)
    | (with_reducible apply State.onSeqEnt_keeps)
    | (with_reducible apply State.jobProgress_keeps)
    | (with_reducible apply State.submit_keeps)
    | (with_reducible apply State.Keeps.foldl)
    | (with_reducible apply State.Keeps.foldlFst)
    | decide
    | extract_lets
    | split
    | dsimp only
    | dsimp +zetaDelta only

theorem State.jobAfterEnd_keeps {m_ : Nat} {s_ : State} (s : State) (i : Nat) (hm_ : (m_ ||| 0x8840) = m_) (h_ : State.Keeps m_ s_ s) : State.Keeps m_ s_ (State.jobAfterEnd s i) := by
  refine State.Keeps.step (m1 := 0x8840) ?_ hm_ h_
  unfold State.jobAfterEnd
  repeat' first
    | (intro _)
    | (with_reducible exact State.Keeps.refl _ _)
    | (with_reducible assumption)
    | (with_reducible apply State.Keeps.ite)
    | (with_reducible apply State.onSeqEnt_keeps)
    | (with_reducible apply State.freeCache_keeps)
    | (with_reducible apply State.freeExtents_keeps)
    | decide
    | split
    | dsimp only
    | dsimp +zetaDelta only

theorem State.jobFailed_keeps {m_ : Nat} {s_ : State} (s : State) (i : Nat) (hm_ : (m_ ||| 0x2A840) = m_) (h_ : State.Keeps m_ s_ s) : State.Keeps m_ s_ (State.jobFailed s i) := by
  refine State.Keeps.step (m1 := 0x2A840) ?_ hm_ h_
  unfold State.jobFailed
  repeat' first
    | (intro _)
    | (with_reducible exact State.Keeps.refl _ _)
    | (with_reducible assumption)
    | (with_reducible apply State.Keeps.ite)
    | (with_reducible apply State.withdrawPieces_keeps)
    | (with_reducible apply State.loseSeq_keeps)
    | (with_reducible apply State.onSeqEnt_keeps)
    | (with_reducible apply State.freeExtents_keeps)
    | (with_reducible apply State.jobAfterEnd_keeps)
    | (with_reducible apply State.raise_keeps)
    | decide
    | extract_lets
    | split
    | dsimp only
    | dsimp +zetaDelta only

theorem State.jobAccepted_keeps {m_ : Nat} {s_ : State} (s : State) (i : Nat) (slot : Nat) (hm_ : (m_ ||| 0x40800) = m_) (h_ : State.Keeps m_ s_ s) : State.Keeps m_ s_ (State.jobAccepted s i slot) := by
  refine State.Keeps.step (m1 := 0x40800) ?_ hm_ h_
  unfold State.jobAccepted
  repeat' first
    | (intro _)
    | (with_reducible exact State.Keeps.refl _ _)
    | (with_reducible assumption)
    | (with_reducible apply State.Keeps.ite)
    | (with_reducible apply State.onSeqEnt_keeps)
    | (with_reducible apply State.jobProgress_keeps)
    | decide
    | extract_lets
    | split
    | dsimp only
    | dsimp +zetaDelta only

theorem State.jobPiece_keeps {m_ : Nat} {s_ : State} (s : State) (i : Nat) (ident : Nat) (st : Nat) (hm_ : (m_ ||| 0x2A840) = m_) (h_ : State.Keeps m_ s_ s) : State.Keeps m_ s_ (State.jobPiece s i ident st) := by
  refine State.Keeps.step (m1 := 0x2A840) ?_ hm_ h_
  unfold State.jobPiece
  repeat' first
    | (intro _)
    | (with_reducible exact State.Keeps.refl _ _)
    | (with_reducible assumption)
    | (with_reducible apply State.Keeps.ite)
    | (with_reducible apply State.onSeqEnt_keeps)
    | (with_reducible apply State.jobAfterEnd_keeps)
    | (with_reducible apply State.count_keeps)
    | (with_reducible apply State.jobFailed_keeps)
    | decide
    | extract_lets
    | split
    | dsimp only
    | dsimp +zetaDelta only

theorem State.sealAllIn_keeps {m_ : Nat} {s_ : State} (s : State) (i : Nat) (hm_ : (m_ ||| 0x8840) = m_) (h_ : State.Keeps m_ s_ s) : State.Keeps m_ s_ (State.sealAllIn s i) := by
  refine State.Keeps.step (m1 := 0x8840) ?_ hm_ h_
  unfold State.sealAllIn
  repeat' first
    | (intro _)
    | (with_reducible exact State.Keeps.refl _ _)
    | (with_reducible assumption)
    | (with_reducible apply State.Keeps.ite)
    | (with_reducible apply State.count_keeps)
    | (with_reducible apply State.freeCache_keeps)
    | (with_reducible apply State.onSeqEnt_keeps)
    | decide
    | split
    | dsimp only
    | dsimp +zetaDelta only

theorem State.resumeTake_keeps {m_ : Nat} {s_ : State} (s : State) (i : Nat) (hm_ : (m_ ||| 0x8840) = m_) (h_ : State.Keeps m_ s_ s) : State.Keeps m_ s_ (State.resumeTake s i) := by
  refine State.Keeps.step (m1 := 0x8840) ?_ hm_ h_
  unfold State.resumeTake
  repeat' first
    | (intro _)
    | (with_reducible exact State.Keeps.refl _ _)
    | (with_reducible assumption)
    | (with_reducible apply State.Keeps.getD)
    | (with_reducible apply State.onSeqEnt_keeps)
    | (with_reducible apply State.takePages_keeps)
    | (with_reducible apply State.submit_keeps)
    | (with_reducible apply State.Keeps.foldl)
    | (with_reducible apply State.Keeps.foldlFst)
    | (with_reducible apply State.Keeps.ofOptS (by with_reducible assumption))
    | decide
    | extract_lets
    | split
    | dsimp only
    | dsimp +zetaDelta only

theorem State.resumeSeq_keeps {m_ : Nat} {s_ : State} (s : State) (i : Nat) (hm_ : (m_ ||| 0x6A840) = m_) (h_ : State.Keeps m_ s_ s) : State.Keeps m_ s_ (State.resumeSeq s i) := by
  refine State.Keeps.step (m1 := 0x6A840) ?_ hm_ h_
  unfold State.resumeSeq
  repeat' first
    | (intro _)
    | (with_reducible exact State.Keeps.refl _ _)
    | (with_reducible assumption)
    | (with_reducible apply State.Keeps.ite)
    | (with_reducible apply State.withdrawPieces_keeps)
    | (with_reducible apply State.resumeTake_keeps)
    | (with_reducible apply State.onSeqEnt_keeps)
    | (with_reducible apply State.freeExtents_keeps)
    | (with_reducible apply State.returnSeq_keeps)
    | decide
    | extract_lets
    | split
    | dsimp only
    | dsimp +zetaDelta only

theorem State.resumeAllIn_keeps {m_ : Nat} {s_ : State} (s : State) (i : Nat) (hm_ : (m_ ||| 0x6A840) = m_) (h_ : State.Keeps m_ s_ s) : State.Keeps m_ s_ (State.resumeAllIn s i) := by
  refine State.Keeps.step (m1 := 0x6A840) ?_ hm_ h_
  unfold State.resumeAllIn
  repeat' first
    | (intro _)
    | (with_reducible exact State.Keeps.refl _ _)
    | (with_reducible assumption)
    | (with_reducible apply State.Keeps.ite)
    | (with_reducible apply State.onSeqEnt_keeps)
    | (with_reducible apply State.returnSeq_keeps)
    | (with_reducible apply State.freeExtents_keeps)
    | decide
    | split
    | dsimp only
    | dsimp +zetaDelta only

theorem State.loseCaches_keeps {m_ : Nat} {s_ : State} (s : State) (slots : List Nat) (hm_ : (m_ ||| 0x2A840) = m_) (h_ : State.Keeps m_ s_ s) : State.Keeps m_ s_ (State.loseCaches s slots) := by
  refine State.Keeps.step (m1 := 0x2A840) ?_ hm_ h_
  unfold State.loseCaches
  repeat' first
    | (intro _)
    | (with_reducible exact State.Keeps.refl _ _)
    | (with_reducible assumption)
    | (with_reducible apply State.loseSeq_keeps)
    | (with_reducible apply State.Keeps.foldl)
    | (with_reducible apply State.Keeps.foldlFst)
    | decide
    | split
    | dsimp only
    | dsimp +zetaDelta only

theorem State.expireSeq_keeps {m_ : Nat} {s_ : State} (s : State) (i : Nat) (hm_ : (m_ ||| 0x6A840) = m_) (h_ : State.Keeps m_ s_ s) : State.Keeps m_ s_ (State.expireSeq s i) := by
  refine State.Keeps.step (m1 := 0x6A840) ?_ hm_ h_
  unfold State.expireSeq
  repeat' first
    | (intro _)
    | (with_reducible exact State.Keeps.refl _ _)
    | (with_reducible assumption)
    | (with_reducible apply State.Keeps.ite)
    | (with_reducible apply State.sealDown_keeps)
    | (with_reducible apply State.onSeqEnt_keeps)
    | (with_reducible apply State.moveDown_keeps)
    | (with_reducible apply State.complete_keeps)
    | (with_reducible apply State.endSeq_keeps)
    | decide
    | extract_lets
    | split
    | dsimp only
    | dsimp +zetaDelta only

theorem State.retryJob_keeps {m_ : Nat} {s_ : State} (s : State) (i : Nat) (hm_ : (m_ ||| 0x48840) = m_) (h_ : State.Keeps m_ s_ s) : State.Keeps m_ s_ (State.retryJob s i) := by
  refine State.Keeps.step (m1 := 0x48840) ?_ hm_ h_
  unfold State.retryJob
  repeat' first
    | (intro _)
    | (with_reducible exact State.Keeps.refl _ _)
    | (with_reducible assumption)
    | (with_reducible apply State.Keeps.ite)
    | (with_reducible apply State.sealDown_keeps)
    | (with_reducible apply State.moveDown_keeps)
    | decide
    | extract_lets
    | split
    | dsimp only
    | dsimp +zetaDelta only

end Sys2Proof.Machine
end

