-- ==== Sys2Proof/Laws/FrameSteps.lean ====
section
/-! SUPPORT. The frame of each operation of Machine/Steps.lean: the blocks of the state that it may change (Laws/Keeps.lean). -/

set_option Elab.async false

namespace Sys2Proof.Machine

theorem State.raiseGen_keeps {m_ : Nat} {s_ : State} (s : State) (g : Nat) (hm_ : (m_ ||| 0x8800) = m_) (h_ : State.Keeps m_ s_ s) : State.Keeps m_ s_ (State.raiseGen s g) := by
  refine State.Keeps.step (m1 := 0x8800) ?_ hm_ h_
  unfold State.raiseGen
  repeat' first
    | (intro _)
    | (with_reducible exact State.Keeps.refl _ _)
    | (with_reducible assumption)
    | (with_reducible apply State.Keeps.ite)
    | (with_reducible apply State.setFld_keeps)
    | (with_reducible apply State.onServe_keeps)
    | (with_reducible apply State.raise_keeps)
    | decide
    | extract_lets
    | split
    | dsimp only
    | dsimp +zetaDelta only

theorem State.raiseDeferred_keeps {m_ : Nat} {s_ : State} (s : State) (g : Nat) (hm_ : (m_ ||| 0x8800) = m_) (h_ : State.Keeps m_ s_ s) : State.Keeps m_ s_ (State.raiseDeferred s g) := by
  refine State.Keeps.step (m1 := 0x8800) ?_ hm_ h_
  unfold State.raiseDeferred
  repeat' first
    | (intro _)
    | (with_reducible exact State.Keeps.refl _ _)
    | (with_reducible assumption)
    | (with_reducible apply State.raiseGen_keeps)
    | (with_reducible apply State.onServe_keeps)
    | (with_reducible apply State.Keeps.foldl)
    | (with_reducible apply State.Keeps.foldlFst)
    | (with_reducible apply State.Keeps.foldlBy (p := State.Build.s))
    | decide
    | extract_lets
    | split
    | dsimp only
    | dsimp +zetaDelta only

theorem State.addRow_keeps {m_ : Nat} {s_ : State} (s : State) (i : Nat) (gen : Nat) (hm_ : (m_ ||| 0x800) = m_) (h_ : State.Keeps m_ s_ s) : State.Keeps m_ s_ (State.addRow s i gen) := by
  refine State.Keeps.step (m1 := 0x800) ?_ hm_ h_
  unfold State.addRow
  repeat' first
    | (intro _)
    | (with_reducible exact State.Keeps.refl _ _)
    | (with_reducible assumption)
    | (with_reducible apply State.onSeqEnt_keeps)
    | decide
    | split
    | dsimp only
    | dsimp +zetaDelta only

theorem State.sitNoPage_keeps {m_ : Nat} {s_ : State} (s : State) (g : Nat) (i : Nat) (hm_ : (m_ ||| 0x48840) = m_) (h_ : State.Keeps m_ s_ s) : State.Keeps m_ s_ (State.sitNoPage s g i) := by
  refine State.Keeps.step (m1 := 0x48840) ?_ hm_ h_
  unfold State.sitNoPage
  repeat' first
    | (intro _)
    | (with_reducible exact State.Keeps.refl _ _)
    | (with_reducible assumption)
    | (with_reducible apply State.Keeps.ite)
    | (with_reducible apply State.sealDown_keeps)
    | (with_reducible apply State.onSeqEnt_keeps)
    | (with_reducible apply State.raise_keeps)
    | (with_reducible apply State.trimPages_keeps)
    | decide
    | extract_lets
    | split
    | dsimp only
    | dsimp +zetaDelta only

theorem State.buildBatch_keeps {m_ : Nat} {s_ : State} (g : Nat) (gen : Nat) (bmax : Nat) (tbud : Nat) (b : Build) (i : Nat) (hm_ : (m_ ||| 0x48840) = m_) (h_ : State.Keeps m_ s_ b.s) : State.Keeps m_ s_ (State.buildBatch g gen bmax tbud b i).s := by
  refine State.Keeps.step (m1 := 0x48840) ?_ hm_ h_
  unfold State.buildBatch
  repeat' first
    | (intro _)
    | (with_reducible exact State.Keeps.refl _ _)
    | (with_reducible assumption)
    | (with_reducible apply State.Keeps.ite)
    | (with_reducible apply State.addRow_keeps)
    | (with_reducible apply State.makeRoom_keeps)
    | (with_reducible apply State.sitNoPage_keeps)
    | (with_reducible apply State.raise_keeps)
    | (with_reducible apply State.takePages_keeps)
    | (with_reducible apply State.count_keeps)
    | (with_reducible apply State.trimPages_keeps)
    | (with_reducible apply State.Keeps.ofOptS (by with_reducible assumption))
    | decide
    | extract_lets
    | split
    | dsimp only
    | dsimp +zetaDelta only

theorem State.buildJoin_keeps {m_ : Nat} {s_ : State} (g : Nat) (gen : Nat) (bmax : Nat) (tbud : Nat) (b : Build) (i : Nat) (hm_ : (m_ ||| 0x8840) = m_) (h_ : State.Keeps m_ s_ b.s) : State.Keeps m_ s_ (State.buildJoin g gen bmax tbud b i).s := by
  refine State.Keeps.step (m1 := 0x8840) ?_ hm_ h_
  unfold State.buildJoin
  repeat' first
    | (intro _)
    | (with_reducible exact State.Keeps.refl _ _)
    | (with_reducible assumption)
    | (with_reducible apply State.Keeps.ite)
    | (with_reducible apply State.addRow_keeps)
    | (with_reducible apply State.onSeqEnt_keeps)
    | (with_reducible apply State.makeRoom_keeps)
    | (with_reducible apply State.onServe_keeps)
    | (with_reducible apply State.raise_keeps)
    | (with_reducible apply State.takePages_keeps)
    | (with_reducible apply State.trimPages_keeps)
    | (with_reducible apply State.Keeps.ofOptS (by with_reducible assumption))
    | decide
    | extract_lets
    | split
    | dsimp only
    | dsimp +zetaDelta only

theorem State.capAtBuild_keeps {m_ : Nat} {s_ : State} (s : State) (g : Nat) (hm_ : (m_ ||| 0x8880) = m_) (h_ : State.Keeps m_ s_ s) : State.Keeps m_ s_ (State.capAtBuild s g) := by
  refine State.Keeps.step (m1 := 0x8880) ?_ hm_ h_
  unfold State.capAtBuild
  repeat' first
    | (intro _)
    | (with_reducible exact State.Keeps.refl _ _)
    | (with_reducible assumption)
    | (with_reducible apply State.Keeps.ite)
    | (with_reducible apply State.onServe_keeps)
    | (with_reducible apply State.raise_keeps)
    | (with_reducible apply State.onGlv_keeps)
    | decide
    | extract_lets
    | split
    | dsimp only
    | dsimp +zetaDelta only

theorem State.countSwitchins_keeps {m_ : Nat} {s_ : State} (s : State) (rows : List RowSt) (hm_ : (m_ ||| 0x8800) = m_) (h_ : State.Keeps m_ s_ s) : State.Keeps m_ s_ (State.countSwitchins s rows) := by
  refine State.Keeps.step (m1 := 0x8800) ?_ hm_ h_
  unfold State.countSwitchins
  repeat' first
    | (intro _)
    | (with_reducible exact State.Keeps.refl _ _)
    | (with_reducible assumption)
    | (with_reducible apply State.Keeps.ite)
    | (with_reducible apply State.onModel_keeps)
    | (with_reducible apply State.count_keeps)
    | (with_reducible apply State.Keeps.foldl)
    | (with_reducible apply State.Keeps.foldlFst)
    | (with_reducible apply State.Keeps.foldlBy (p := State.Build.s))
    | decide
    | split
    | dsimp only
    | dsimp +zetaDelta only

theorem State.startStep_keeps {m_ : Nat} {s_ : State} (s : State) (g : Nat) (gen : Nat) (rows : List RowSt) (tok : Nat) (hm_ : (m_ ||| 0x8860) = m_) (h_ : State.Keeps m_ s_ s) : State.Keeps m_ s_ (State.startStep s g gen rows tok) := by
  refine State.Keeps.step (m1 := 0x8860) ?_ hm_ h_
  unfold State.startStep
  repeat' first
    | (intro _)
    | (with_reducible exact State.Keeps.refl _ _)
    | (with_reducible assumption)
    | (with_reducible apply State.Keeps.ite)
    | (with_reducible apply State.bumpArrival_keeps)
    | (with_reducible apply State.countSwitchins_keeps)
    | (with_reducible apply State.onServe_keeps)
    | (with_reducible apply State.stewardWrite_keeps)
    | decide
    | extract_lets
    | split
    | dsimp only
    | dsimp +zetaDelta only

theorem State.buildStep_keeps {m_ : Nat} {s_ : State} (s : State) (g : Nat) (hm_ : (m_ ||| 0x488E0) = m_) (h_ : State.Keeps m_ s_ s) : State.Keeps m_ s_ (State.buildStep s g) := by
  refine State.Keeps.step (m1 := 0x488E0) ?_ hm_ h_
  unfold State.buildStep
  repeat' first
    | (intro _)
    | (with_reducible exact State.Keeps.refl _ _)
    | (with_reducible assumption)
    | (with_reducible apply State.Keeps.ite)
    | (with_reducible apply State.buildJoin_keeps)
    | (with_reducible apply State.capAtBuild_keeps)
    | (with_reducible apply State.buildBatch_keeps)
    | (with_reducible apply State.startStep_keeps)
    | (with_reducible apply State.raiseDeferred_keeps)
    | (with_reducible apply State.Keeps.foldl)
    | (with_reducible apply State.Keeps.foldlFst)
    | (with_reducible apply State.Keeps.foldlBy (p := State.Build.s))
    | (with_reducible apply State.Keeps.ofPair (by with_reducible assumption))
    | decide
    | extract_lets
    | split
    | dsimp only
    | dsimp +zetaDelta only

theorem State.buildAll_keeps {m_ : Nat} {s_ : State} (s : State) (hm_ : (m_ ||| 0x488E0) = m_) (h_ : State.Keeps m_ s_ s) : State.Keeps m_ s_ (State.buildAll s) := by
  refine State.Keeps.step (m1 := 0x488E0) ?_ hm_ h_
  unfold State.buildAll
  repeat' first
    | (intro _)
    | (with_reducible exact State.Keeps.refl _ _)
    | (with_reducible assumption)
    | (with_reducible apply State.buildStep_keeps)
    | (with_reducible apply State.Keeps.foldl)
    | (with_reducible apply State.Keeps.foldlFst)
    | (with_reducible apply State.Keeps.foldlBy (p := State.Build.s))
    | decide
    | split
    | dsimp only
    | dsimp +zetaDelta only

theorem State.abandonRow_keeps {m_ : Nat} {s_ : State} (s : State) (r : RowSt) (hm_ : (m_ ||| 0x6A840) = m_) (h_ : State.Keeps m_ s_ s) : State.Keeps m_ s_ (State.abandonRow s r) := by
  refine State.Keeps.step (m1 := 0x6A840) ?_ hm_ h_
  unfold State.abandonRow
  repeat' first
    | (intro _)
    | (with_reducible exact State.Keeps.refl _ _)
    | (with_reducible assumption)
    | (with_reducible apply State.Keeps.ite)
    | (with_reducible apply State.onSeqEnt_keeps)
    | (with_reducible apply State.cancelSeq_keeps)
    | (with_reducible apply State.pauseSeq_keeps)
    | decide
    | extract_lets
    | split
    | dsimp only
    | dsimp +zetaDelta only

theorem State.swapNow_keeps {m_ : Nat} {s_ : State} (s : State) (hm_ : (m_ ||| 0x2A800) = m_) (h_ : State.Keeps m_ s_ s) : State.Keeps m_ s_ (State.swapNow s) := by
  refine State.Keeps.step (m1 := 0x2A800) ?_ hm_ h_
  unfold State.swapNow
  repeat' first
    | (intro _)
    | (with_reducible exact State.Keeps.refl _ _)
    | (with_reducible assumption)
    | (with_reducible apply State.onStw_keeps)
    | (with_reducible apply State.completeOpt_keeps)
    | (with_reducible apply State.raise_keeps)
    | (with_reducible apply State.Keeps.ofPair (by with_reducible assumption))
    | decide
    | extract_lets
    | split
    | dsimp only
    | dsimp +zetaDelta only

theorem State.swapReached_keeps {m_ : Nat} {s_ : State} (s : State) (g : Nat) (hm_ : (m_ ||| 0x2A800) = m_) (h_ : State.Keeps m_ s_ s) : State.Keeps m_ s_ (State.swapReached s g) := by
  refine State.Keeps.step (m1 := 0x2A800) ?_ hm_ h_
  unfold State.swapReached
  repeat' first
    | (intro _)
    | (with_reducible exact State.Keeps.refl _ _)
    | (with_reducible assumption)
    | (with_reducible apply State.Keeps.ite)
    | (with_reducible apply State.swapNow_keeps)
    | (with_reducible apply State.onStw_keeps)
    | decide
    | extract_lets
    | split
    | dsimp only
    | dsimp +zetaDelta only

theorem State.abandonStep_keeps {m_ : Nat} {s_ : State} (s : State) (g : Nat) (hm_ : (m_ ||| 0x6A840) = m_) (h_ : State.Keeps m_ s_ s) : State.Keeps m_ s_ (State.abandonStep s g) := by
  refine State.Keeps.step (m1 := 0x6A840) ?_ hm_ h_
  unfold State.abandonStep
  repeat' first
    | (intro _)
    | (with_reducible exact State.Keeps.refl _ _)
    | (with_reducible assumption)
    | (with_reducible apply State.Keeps.ite)
    | (with_reducible apply State.swapReached_keeps)
    | (with_reducible apply State.raiseGen_keeps)
    | (with_reducible apply State.onServe_keeps)
    | (with_reducible apply State.raise_keeps)
    | (with_reducible apply State.abandonRow_keeps)
    | (with_reducible apply State.Keeps.foldl)
    | (with_reducible apply State.Keeps.foldlFst)
    | (with_reducible apply State.Keeps.foldlBy (p := State.Build.s))
    | decide
    | extract_lets
    | split
    | dsimp only
    | dsimp +zetaDelta only

theorem State.sampleRows_keeps {m_ : Nat} {s_ : State} (s : State) (g : Nat) (y0 : List RowSt) (y1 : Nat) (hm_ : (m_ ||| 0x40000) = m_) (h_ : State.Keeps m_ s_ s) : State.Keeps.OptP m_ s_ (State.sampleRows s g y0 y1) := by
  induction y0 generalizing s y1 with
  | nil =>
    unfold State.sampleRows
    repeat' first
      | (intro _)
      | (with_reducible exact State.Keeps.refl _ _)
      | (with_reducible assumption)
      | (with_reducible apply ih_)
      | (with_reducible apply State.spend_keeps)
      | (with_reducible apply State.Keeps.ofPair (by with_reducible assumption))
      | (with_reducible exact State.Keeps.optS_none)
      | (with_reducible apply State.Keeps.optS_some)
      | (with_reducible exact State.Keeps.optP_none)
      | (with_reducible apply State.Keeps.optP_some)
      | (with_reducible exact State.Keeps.exS_error)
      | (with_reducible apply State.Keeps.exS_ok)
      | (with_reducible apply State.Keeps.ofOptP (by with_reducible assumption))
      | (with_reducible apply State.Keeps.ofOptP1 (by with_reducible assumption))
      | exact State.Keeps.sub hm_ (by decide)
      | exact State.Keeps.bit hm_ (by decide)
      | split
      | dsimp only
      | dsimp +zetaDelta only
  | cons a_ l_ ih_ =>
    unfold State.sampleRows
    repeat' first
      | (intro _)
      | (with_reducible exact State.Keeps.refl _ _)
      | (with_reducible assumption)
      | (with_reducible apply ih_)
      | (with_reducible apply State.spend_keeps)
      | (with_reducible apply State.Keeps.ofPair (by with_reducible assumption))
      | (with_reducible exact State.Keeps.optS_none)
      | (with_reducible apply State.Keeps.optS_some)
      | (with_reducible exact State.Keeps.optP_none)
      | (with_reducible apply State.Keeps.optP_some)
      | (with_reducible exact State.Keeps.exS_error)
      | (with_reducible apply State.Keeps.exS_ok)
      | (with_reducible apply State.Keeps.ofOptP (by with_reducible assumption))
      | (with_reducible apply State.Keeps.ofOptP1 (by with_reducible assumption))
      | exact State.Keeps.sub hm_ (by decide)
      | exact State.Keeps.bit hm_ (by decide)
      | split
      | dsimp only
      | dsimp +zetaDelta only

theorem State.finishSampler_keeps {m_ : Nat} {s_ : State} (s : State) (g : Nat) (hm_ : (m_ ||| 0x6A8E0) = m_) (h_ : State.Keeps m_ s_ s) : State.Keeps m_ s_ (State.finishSampler s g) := by
  refine State.Keeps.step (m1 := 0x6A8E0) ?_ hm_ h_
  unfold State.finishSampler
  repeat' first
    | (intro _)
    | (with_reducible exact State.Keeps.refl _ _)
    | (with_reducible assumption)
    | (with_reducible apply State.sampleRows_keeps)
    | (with_reducible apply State.buildStep_keeps)
    | (with_reducible apply State.abandonStep_keeps)
    | (with_reducible apply State.onServe_keeps)
    | (with_reducible apply State.Keeps.ofPair (by with_reducible assumption))
    | (with_reducible apply State.Keeps.ofOptP (by with_reducible assumption))
    | (with_reducible apply State.Keeps.ofOptP1 (by with_reducible assumption))
    | decide
    | split
    | dsimp only
    | dsimp +zetaDelta only

theorem State.commitRow_keeps {m_ : Nat} {s_ : State} (s : State) (g : Nat) (r : RowSt) (hm_ : (m_ ||| 0x6A840) = m_) (h_ : State.Keeps m_ s_ s) : State.Keeps m_ s_ (State.commitRow s g r) := by
  refine State.Keeps.step (m1 := 0x6A840) ?_ hm_ h_
  unfold State.commitRow
  repeat' first
    | (intro _)
    | (with_reducible exact State.Keeps.refl _ _)
    | (with_reducible assumption)
    | (with_reducible apply State.Keeps.ite)
    | (with_reducible apply State.commitToks_keeps)
    | (with_reducible apply State.leaveBatch_keeps)
    | (with_reducible apply State.onSeqEnt_keeps)
    | (with_reducible apply State.raise_keeps)
    | (with_reducible apply State.stewardWrite_keeps)
    | (with_reducible apply State.stampSeq_keeps)
    | (with_reducible apply State.seqEndCpl_keeps)
    | (with_reducible apply State.count_keeps)
    | (with_reducible apply State.trimPages_keeps)
    | (with_reducible apply State.complete_keeps)
    | decide
    | extract_lets
    | split
    | dsimp only
    | dsimp +zetaDelta only

theorem State.commitStep_keeps {m_ : Nat} {s_ : State} (s : State) (g : Nat) (hm_ : (m_ ||| 0x6A8E0) = m_) (h_ : State.Keeps m_ s_ s) : State.Keeps m_ s_ (State.commitStep s g) := by
  refine State.Keeps.step (m1 := 0x6A8E0) ?_ hm_ h_
  unfold State.commitStep
  repeat' first
    | (intro _)
    | (with_reducible exact State.Keeps.refl _ _)
    | (with_reducible assumption)
    | (with_reducible apply State.commitResidency_keeps)
    | (with_reducible apply State.buildStep_keeps)
    | (with_reducible apply State.onSeqEnt_keeps)
    | (with_reducible apply State.cancelSeq_keeps)
    | (with_reducible apply State.swapReached_keeps)
    | (with_reducible apply State.onServe_keeps)
    | (with_reducible apply State.putCq_keeps)
    | (with_reducible apply State.commitRow_keeps)
    | (with_reducible apply State.pauseSeq_keeps)
    | (with_reducible apply State.count_keeps)
    | (with_reducible apply State.Keeps.foldl)
    | (with_reducible apply State.Keeps.foldlFst)
    | (with_reducible apply State.Keeps.foldlBy (p := State.Build.s))
    | decide
    | extract_lets
    | split
    | dsimp only
    | dsimp +zetaDelta only

end Sys2Proof.Machine
end

