-- ==== Sys2Proof/Laws/FrameExchange.lean ====
section
/-! SUPPORT. The frame of each operation of Machine/Exchange.lean: the blocks of the state that it may change (Laws/Keeps.lean). -/

set_option Elab.async false

namespace Sys2Proof.Machine

theorem State.scatter_keeps {m_ : Nat} {s_ : State} (s : State) (p : Nat) (hm_ : (m_ ||| 0x8840) = m_) (h_ : State.Keeps m_ s_ s) : State.Keeps m_ s_ (State.scatter s p) := by
  refine State.Keeps.step (m1 := 0x8840) ?_ hm_ h_
  unfold State.scatter
  repeat' first
    | (intro _)
    | (with_reducible exact State.Keeps.refl _ _)
    | (with_reducible assumption)
    | (with_reducible apply State.onPlan_keeps)
    | (with_reducible apply State.stewardWrite_keeps)
    | decide
    | extract_lets
    | split
    | dsimp only
    | dsimp +zetaDelta only

theorem State.exchEnds_keeps {m_ : Nat} {s_ : State} (s : State) (p : Nat) (st : Nat) (hm_ : (m_ ||| 0x20) = m_) (h_ : State.Keeps m_ s_ s) : State.Keeps m_ s_ (State.exchEnds s p st) := by
  refine State.Keeps.step (m1 := 0x20) ?_ hm_ h_
  unfold State.exchEnds
  repeat' first
    | (intro _)
    | (with_reducible exact State.Keeps.refl _ _)
    | (with_reducible assumption)
    | (with_reducible apply State.exchDone_keeps)
    | (with_reducible apply State.Keeps.ofPair (by with_reducible assumption))
    | decide
    | split
    | dsimp only
    | dsimp +zetaDelta only

theorem State.clearPhase_keeps {m_ : Nat} {s_ : State} (s : State) (p : Nat) (hm_ : (m_ ||| 0x800) = m_) (h_ : State.Keeps m_ s_ s) : State.Keeps m_ s_ (State.clearPhase s p) := by
  refine State.Keeps.step (m1 := 0x800) ?_ hm_ h_
  unfold State.clearPhase
  repeat' first
    | (intro _)
    | (with_reducible exact State.Keeps.refl _ _)
    | (with_reducible assumption)
    | (with_reducible apply State.onPlan_keeps)
    | decide
    | split
    | dsimp only
    | dsimp +zetaDelta only

theorem State.scrambleRecv_keeps {m_ : Nat} {s_ : State} (s : State) (p : Nat) (hm_ : (m_ ||| 0x40050) = m_) (h_ : State.Keeps m_ s_ s) : State.Keeps m_ s_ (State.scrambleRecv s p) := by
  refine State.Keeps.step (m1 := 0x40050) ?_ hm_ h_
  unfold State.scrambleRecv
  repeat' first
    | (intro _)
    | (with_reducible exact State.Keeps.refl _ _)
    | (with_reducible assumption)
    | (with_reducible apply State.scrambleRows_keeps)
    | (with_reducible apply State.scrambleNear_keeps)
    | (with_reducible apply State.Keeps.foldl)
    | (with_reducible apply State.Keeps.foldlFst)
    | decide
    | extract_lets
    | split
    | dsimp only
    | dsimp +zetaDelta only

theorem State.phaseFails_keeps {m_ : Nat} {s_ : State} (s : State) (p : Nat) (code : Nat) (part : Nat) (hm_ : (m_ ||| 0x48870) = m_) (h_ : State.Keeps m_ s_ s) : State.Keeps m_ s_ (State.phaseFails s p code part) := by
  refine State.Keeps.step (m1 := 0x48870) ?_ hm_ h_
  unfold State.phaseFails
  repeat' first
    | (intro _)
    | (with_reducible exact State.Keeps.refl _ _)
    | (with_reducible assumption)
    | (with_reducible apply State.Keeps.ite)
    | (with_reducible apply State.setReg_keeps)
    | (with_reducible apply State.scrambleRecv_keeps)
    | (with_reducible apply State.exchEnds_keeps)
    | (with_reducible apply State.raise_keeps)
    | (with_reducible apply State.clearPhase_keeps)
    | decide
    | extract_lets
    | split
    | dsimp only
    | dsimp +zetaDelta only

theorem State.openRound_keeps {m_ : Nat} {s_ : State} (s : State) (p : Nat) (hm_ : (m_ ||| 0x8880) = m_) (h_ : State.Keeps m_ s_ s) : State.Keeps m_ s_ (State.openRound s p) := by
  refine State.Keeps.step (m1 := 0x8880) ?_ hm_ h_
  unfold State.openRound
  repeat' first
    | (intro _)
    | (with_reducible exact State.Keeps.refl _ _)
    | (with_reducible assumption)
    | (with_reducible apply State.charge_keeps)
    | (with_reducible apply State.count_keeps)
    | (with_reducible apply State.onPlan_keeps)
    | decide
    | extract_lets
    | split
    | dsimp only
    | dsimp +zetaDelta only

theorem State.judgeRows_keeps {m_ : Nat} {s_ : State} (s : State) (p : Nat) (hm_ : (m_ ||| 0x800) = m_) (h_ : State.Keeps m_ s_ s) : State.Keeps m_ s_ (State.judgeRows s p) := by
  refine State.Keeps.step (m1 := 0x800) ?_ hm_ h_
  unfold State.judgeRows
  repeat' first
    | (intro _)
    | (with_reducible exact State.Keeps.refl _ _)
    | (with_reducible assumption)
    | (with_reducible apply State.Keeps.ite)
    | (with_reducible apply State.xFail_keeps)
    | (with_reducible apply State.Keeps.foldl)
    | (with_reducible apply State.Keeps.foldlFst)
    | decide
    | extract_lets
    | split
    | dsimp only
    | dsimp +zetaDelta only

theorem State.deriveRounds_keeps {m_ : Nat} {s_ : State} (s : State) (p : Nat) (hm_ : (m_ ||| 0x8800) = m_) (h_ : State.Keeps m_ s_ s) : State.Keeps m_ s_ (State.deriveRounds s p) := by
  refine State.Keeps.step (m1 := 0x8800) ?_ hm_ h_
  unfold State.deriveRounds
  repeat' first
    | (intro _)
    | (with_reducible exact State.Keeps.refl _ _)
    | (with_reducible assumption)
    | (with_reducible apply State.onPlan_keeps)
    | (with_reducible apply State.count_keeps)
    | (with_reducible apply State.Keeps.foldl)
    | (with_reducible apply State.Keeps.foldlFst)
    | (with_reducible apply State.Keeps.ofPair (by with_reducible assumption))
    | decide
    | extract_lets
    | split
    | dsimp only
    | dsimp +zetaDelta only

theorem State.receive_keeps {m_ : Nat} {s_ : State} (s : State) (p : Nat) (rec : List Byte) (hm_ : (m_ ||| 0x28830) = m_) (h_ : State.Keeps m_ s_ s) : State.Keeps m_ s_ (State.receive s p rec) := by
  refine State.Keeps.step (m1 := 0x28830) ?_ hm_ h_
  unfold State.receive
  repeat' first
    | (intro _)
    | (with_reducible exact State.Keeps.refl _ _)
    | (with_reducible assumption)
    | (with_reducible apply State.Keeps.ite)
    | (with_reducible apply State.xFail_keeps)
    | (with_reducible apply State.onPlan_keeps)
    | (with_reducible apply State.remote_keeps)
    | (with_reducible apply State.raise_keeps)
    | (with_reducible apply State.count_keeps)
    | (with_reducible apply State.Keeps.foldl)
    | (with_reducible apply State.Keeps.foldlFst)
    | (with_reducible apply State.Keeps.ofPair (by with_reducible assumption))
    | decide
    | extract_lets
    | split
    | dsimp only
    | dsimp +zetaDelta only

theorem State.sendRound_keeps {m_ : Nat} {s_ : State} (s : State) (p : Nat) (bad : List Nat) (hm_ : (m_ ||| 0x28830) = m_) (h_ : State.Keeps m_ s_ s) : State.Keeps m_ s_ (State.sendRound s p bad) := by
  refine State.Keeps.step (m1 := 0x28830) ?_ hm_ h_
  unfold State.sendRound
  repeat' first
    | (intro _)
    | (with_reducible exact State.Keeps.refl _ _)
    | (with_reducible assumption)
    | (with_reducible apply State.Keeps.ite)
    | (with_reducible apply State.emit_keeps)
    | (with_reducible apply State.receive_keeps)
    | (with_reducible apply State.Keeps.foldl)
    | (with_reducible apply State.Keeps.foldlFst)
    | (with_reducible apply State.Keeps.ofPair (by with_reducible assumption))
    | decide
    | extract_lets
    | split
    | dsimp only
    | dsimp +zetaDelta only

theorem State.finishDest_keeps {m_ : Nat} {s_ : State} (s : State) (p : Nat) (d : Nat) (hm_ : (m_ ||| 0x28830) = m_) (h_ : State.Keeps m_ s_ s) : State.Keeps m_ s_ (State.finishDest s p d) := by
  refine State.Keeps.step (m1 := 0x28830) ?_ hm_ h_
  unfold State.finishDest
  repeat' first
    | (intro _)
    | (with_reducible exact State.Keeps.refl _ _)
    | (with_reducible assumption)
    | (with_reducible apply State.Keeps.ite)
    | (with_reducible apply State.xFail_keeps)
    | (with_reducible apply State.remote_keeps)
    | (with_reducible apply State.Keeps.foldl)
    | (with_reducible apply State.Keeps.foldlFst)
    | (with_reducible apply State.Keeps.ofPair (by with_reducible assumption))
    | decide
    | extract_lets
    | split
    | dsimp only
    | dsimp +zetaDelta only

theorem State.leavePhases_keeps {m_ : Nat} {s_ : State} (s : State) (g : Nat) (hm_ : (m_ ||| 0x40850) = m_) (h_ : State.Keeps m_ s_ s) : State.Keeps m_ s_ (State.leavePhases s g) := by
  refine State.Keeps.step (m1 := 0x40850) ?_ hm_ h_
  unfold State.leavePhases
  repeat' first
    | (intro _)
    | (with_reducible exact State.Keeps.refl _ _)
    | (with_reducible assumption)
    | (with_reducible apply State.clearPhase_keeps)
    | (with_reducible apply State.scrambleRecv_keeps)
    | (with_reducible apply State.Keeps.foldl)
    | (with_reducible apply State.Keeps.foldlFst)
    | decide
    | split
    | dsimp only
    | dsimp +zetaDelta only

theorem stagingRecordEntryOp_keeps {m_ : Nat} {s_ : State} (plan : Nat) (rec : Nat) (header : Word) (s : State) (hm_ : (m_ ||| 0x8840) = m_) (h_ : State.Keeps m_ s_ s) : State.Keeps m_ s_ (stagingRecordEntryOp plan rec header s) := by
  refine State.Keeps.step (m1 := 0x8840) ?_ hm_ h_
  unfold stagingRecordEntryOp
  repeat' first
    | (intro _)
    | (with_reducible exact State.Keeps.refl _ _)
    | (with_reducible assumption)
    | (with_reducible apply State.Keeps.ite)
    | (with_reducible apply State.stewardWrite_keeps)
    | (with_reducible apply State.stageHeader_keeps)
    | (with_reducible apply State.Keeps.ofPair (by with_reducible assumption))
    | decide
    | extract_lets
    | split
    | dsimp only
    | dsimp +zetaDelta only

theorem exchangePhaseStartOp_keeps {m_ : Nat} {s_ : State} (plan : Nat) (rows : List CountRow) (scatterLate : Bool) (s : State) (hm_ : (m_ ||| 0x688F0) = m_) (h_ : State.Keeps m_ s_ s) : State.Keeps m_ s_ (exchangePhaseStartOp plan rows scatterLate s) := by
  refine State.Keeps.step (m1 := 0x688F0) ?_ hm_ h_
  unfold exchangePhaseStartOp
  repeat' first
    | (intro _)
    | (with_reducible exact State.Keeps.refl _ _)
    | (with_reducible assumption)
    | (with_reducible apply State.Keeps.ite)
    | (with_reducible apply State.xFail_keeps)
    | (with_reducible apply State.phaseFails_keeps)
    | (with_reducible apply State.scatter_keeps)
    | (with_reducible apply State.onPlan_keeps)
    | (with_reducible apply State.emit_keeps)
    | (with_reducible apply State.openRound_keeps)
    | (with_reducible apply State.Keeps.foldl)
    | (with_reducible apply State.Keeps.foldlFst)
    | decide
    | extract_lets
    | split
    | dsimp only
    | dsimp +zetaDelta only

theorem dataStageOp_keeps {m_ : Nat} {s_ : State} (plan : Nat) (linksBad : List Nat) (localLate : Bool) (s : State) (hm_ : (m_ ||| 0x28830) = m_) (h_ : State.Keeps m_ s_ s) : State.Keeps m_ s_ (dataStageOp plan linksBad localLate s) := by
  refine State.Keeps.step (m1 := 0x28830) ?_ hm_ h_
  unfold dataStageOp
  repeat' first
    | (intro _)
    | (with_reducible exact State.Keeps.refl _ _)
    | (with_reducible assumption)
    | (with_reducible apply State.Keeps.ite)
    | (with_reducible apply State.xFail_keeps)
    | (with_reducible apply State.judgeRows_keeps)
    | (with_reducible apply State.deriveRounds_keeps)
    | (with_reducible apply State.onPlan_keeps)
    | (with_reducible apply State.count_keeps)
    | (with_reducible apply State.sendRound_keeps)
    | (with_reducible apply State.Keeps.ofPair (by with_reducible assumption))
    | decide
    | extract_lets
    | split
    | dsimp only
    | dsimp +zetaDelta only

theorem receiveRecordOp_keeps {m_ : Nat} {s_ : State} (plan : Nat) (rec : List Byte) (s : State) (hm_ : (m_ ||| 0x28830) = m_) (h_ : State.Keeps m_ s_ s) : State.Keeps m_ s_ (receiveRecordOp plan rec s) := by
  refine State.Keeps.step (m1 := 0x28830) ?_ hm_ h_
  unfold receiveRecordOp
  repeat' first
    | (intro _)
    | (with_reducible exact State.Keeps.refl _ _)
    | (with_reducible assumption)
    | (with_reducible apply State.receive_keeps)
    | decide
    | split
    | dsimp only
    | dsimp +zetaDelta only

theorem fwdSlotOp_keeps {m_ : Nat} {s_ : State} (plan : Nat) (slot : Nat) (rec : List Byte) (s : State) (hm_ : (m_ ||| 0x20800) = m_) (h_ : State.Keeps m_ s_ s) : State.Keeps m_ s_ (fwdSlotOp plan slot rec s) := by
  refine State.Keeps.step (m1 := 0x20800) ?_ hm_ h_
  unfold fwdSlotOp
  repeat' first
    | (intro _)
    | (with_reducible exact State.Keeps.refl _ _)
    | (with_reducible assumption)
    | (with_reducible apply State.Keeps.ite)
    | (with_reducible apply State.xFail_keeps)
    | (with_reducible apply State.emit_keeps)
    | decide
    | extract_lets
    | split
    | dsimp only
    | dsimp +zetaDelta only

theorem closeStageOp_keeps {m_ : Nat} {s_ : State} (plan : Nat) (statuses : List (Nat × Nat)) (s : State) (hm_ : (m_ ||| 0x68870) = m_) (h_ : State.Keeps m_ s_ s) : State.Keeps m_ s_ (closeStageOp plan statuses s) := by
  refine State.Keeps.step (m1 := 0x68870) ?_ hm_ h_
  unfold closeStageOp
  repeat' first
    | (intro _)
    | (with_reducible exact State.Keeps.refl _ _)
    | (with_reducible assumption)
    | (with_reducible apply State.Keeps.ite)
    | (with_reducible apply State.setReg_keeps)
    | (with_reducible apply State.xFail_keeps)
    | (with_reducible apply State.phaseFails_keeps)
    | (with_reducible apply State.exchEnds_keeps)
    | (with_reducible apply State.finishDest_keeps)
    | (with_reducible apply State.onPlan_keeps)
    | (with_reducible apply State.emit_keeps)
    | (with_reducible apply State.count_keeps)
    | (with_reducible apply State.clearPhase_keeps)
    | (with_reducible apply State.Keeps.foldl)
    | (with_reducible apply State.Keeps.foldlFst)
    | decide
    | extract_lets
    | split
    | dsimp only
    | dsimp +zetaDelta only

theorem exchangeRoundOpenOp_keeps {m_ : Nat} {s_ : State} (plan : Nat) (s : State) (hm_ : (m_ ||| 0x488F0) = m_) (h_ : State.Keeps m_ s_ s) : State.Keeps m_ s_ (exchangeRoundOpenOp plan s) := by
  refine State.Keeps.step (m1 := 0x488F0) ?_ hm_ h_
  unfold exchangeRoundOpenOp
  repeat' first
    | (intro _)
    | (with_reducible exact State.Keeps.refl _ _)
    | (with_reducible assumption)
    | (with_reducible apply State.Keeps.ite)
    | (with_reducible apply State.phaseFails_keeps)
    | (with_reducible apply State.openRound_keeps)
    | (with_reducible apply State.raise_keeps)
    | decide
    | extract_lets
    | split
    | dsimp only
    | dsimp +zetaDelta only

end Sys2Proof.Machine
end

