-- ==== Sys2Proof/Laws/FrameMigDone.lean ====
section
/-! SUPPORT. The frame of each operation of Machine/MigDone.lean: the blocks of the state that it may change (Laws/Keeps.lean). -/

set_option Elab.async false

namespace Sys2Proof.Machine

theorem State.adapterLoaded_keeps {m_ : Nat} {s_ : State} (s : State) (c : HostCmd) (st : Nat) (hm_ : (m_ ||| 0x2A800) = m_) (h_ : State.Keeps m_ s_ s) : State.Keeps m_ s_ (State.adapterLoaded s c st) := by
  refine State.Keeps.step (m1 := 0x2A800) ?_ hm_ h_
  unfold State.adapterLoaded
  repeat' first
    | (intro _)
    | (with_reducible exact State.Keeps.refl _ _)
    | (with_reducible assumption)
    | (with_reducible apply State.Keeps.ite)
    | (with_reducible apply State.onAdapter_keeps)
    | (with_reducible apply State.complete_keeps)
    | decide
    | split
    | dsimp only
    | dsimp +zetaDelta only

theorem State.adapterAccepted_keeps {m_ : Nat} {s_ : State} (s : State) (c : HostCmd) (r : MigReq) (hm_ : (m_ ||| 0x800) = m_) (h_ : State.Keeps m_ s_ s) : State.Keeps m_ s_ (State.adapterAccepted s c r) := by
  refine State.Keeps.step (m1 := 0x800) ?_ hm_ h_
  unfold State.adapterAccepted
  repeat' first
    | (intro _)
    | (with_reducible exact State.Keeps.refl _ _)
    | (with_reducible assumption)
    | (with_reducible apply State.Keeps.ite)
    | (with_reducible apply State.staleNodes_keeps)
    | (with_reducible apply State.onAdapter_keeps)
    | (with_reducible apply State.Keeps.ofPair (by with_reducible assumption))
    | decide
    | extract_lets
    | split
    | dsimp only
    | dsimp +zetaDelta only

theorem State.adapterRefused_keeps {m_ : Nat} {s_ : State} (s : State) (c : HostCmd) (st : Nat) (hm_ : (m_ ||| 0x2A800) = m_) (h_ : State.Keeps m_ s_ s) : State.Keeps m_ s_ (State.adapterRefused s c st) := by
  refine State.Keeps.step (m1 := 0x2A800) ?_ hm_ h_
  unfold State.adapterRefused
  repeat' first
    | (intro _)
    | (with_reducible exact State.Keeps.refl _ _)
    | (with_reducible assumption)
    | (with_reducible apply State.onAdapter_keeps)
    | (with_reducible apply State.refuse_keeps)
    | decide
    | split
    | dsimp only
    | dsimp +zetaDelta only

theorem State.onLz2_keeps {m_ : Nat} {s_ : State} (s : State) (p : Nat) (f : Lz2Page → Lz2Page) (hm_ : (m_ ||| 0x40) = m_) (h_ : State.Keeps m_ s_ s) : State.Keeps m_ s_ (State.onLz2 s p f) := by
  refine State.Keeps.step (m1 := 0x40) ?_ hm_ h_
  unfold State.onLz2
  repeat' first
    | (intro _)
    | (with_reducible exact State.Keeps.refl _ _)
    | (with_reducible assumption)
    | (with_reducible apply State.onMem_keeps)
    | decide
    | split
    | dsimp only
    | dsimp +zetaDelta only

theorem State.lz2In_keeps {m_ : Nat} {s_ : State} (s : State) (p : Nat) (slot : Nat) (hm_ : (m_ ||| 0x40) = m_) (h_ : State.Keeps m_ s_ s) : State.Keeps m_ s_ (State.lz2In s p slot) := by
  refine State.Keeps.step (m1 := 0x40) ?_ hm_ h_
  unfold State.lz2In
  repeat' first
    | (intro _)
    | (with_reducible exact State.Keeps.refl _ _)
    | (with_reducible assumption)
    | (with_reducible apply State.onLz2_keeps)
    | (with_reducible apply State.onMem_keeps)
    | decide
    | split
    | dsimp only
    | dsimp +zetaDelta only

theorem State.lz2Fill_keeps {m_ : Nat} {s_ : State} (s : State) (p : Nat) (slot : Nat) (hm_ : (m_ ||| 0x8840) = m_) (h_ : State.Keeps m_ s_ s) : State.Keeps m_ s_ (State.lz2Fill s p slot) := by
  refine State.Keeps.step (m1 := 0x8840) ?_ hm_ h_
  unfold State.lz2Fill
  repeat' first
    | (intro _)
    | (with_reducible exact State.Keeps.refl _ _)
    | (with_reducible assumption)
    | (with_reducible apply State.submit_keeps)
    | (with_reducible apply State.lz2In_keeps)
    | (with_reducible apply State.onMem_keeps)
    | (with_reducible apply State.putNear_keeps)
    | decide
    | split
    | dsimp only
    | dsimp +zetaDelta only

theorem State.lz2Serve_keeps {m_ : Nat} {s_ : State} (s : State) (p : Nat) (hm_ : (m_ ||| 0x8840) = m_) (h_ : State.Keeps m_ s_ s) : State.Keeps m_ s_ (State.lz2Serve s p) := by
  refine State.Keeps.step (m1 := 0x8840) ?_ hm_ h_
  unfold State.lz2Serve
  repeat' first
    | (intro _)
    | (with_reducible exact State.Keeps.refl _ _)
    | (with_reducible assumption)
    | (with_reducible apply State.Keeps.ite)
    | (with_reducible apply State.onLz2_keeps)
    | (with_reducible apply State.lz2Fill_keeps)
    | (with_reducible apply State.onMem_keeps)
    | (with_reducible apply State.submit_keeps)
    | decide
    | extract_lets
    | split
    | dsimp only
    | dsimp +zetaDelta only

theorem State.lz2ServeAll_keeps {m_ : Nat} {s_ : State} (s : State) (hm_ : (m_ ||| 0x8840) = m_) (h_ : State.Keeps m_ s_ s) : State.Keeps m_ s_ (State.lz2ServeAll s) := by
  refine State.Keeps.step (m1 := 0x8840) ?_ hm_ h_
  unfold State.lz2ServeAll
  repeat' first
    | (intro _)
    | (with_reducible exact State.Keeps.refl _ _)
    | (with_reducible assumption)
    | (with_reducible apply State.lz2Serve_keeps)
    | (with_reducible apply State.Keeps.foldl)
    | (with_reducible apply State.Keeps.foldlFst)
    | decide
    | split
    | dsimp only
    | dsimp +zetaDelta only

theorem State.lz2Ends_keeps {m_ : Nat} {s_ : State} (s : State) (r : MigReq) (p : Nat) (st : Nat) (hm_ : (m_ ||| 0x8840) = m_) (h_ : State.Keeps m_ s_ s) : State.Keeps m_ s_ (State.lz2Ends s r p st) := by
  refine State.Keeps.step (m1 := 0x8840) ?_ hm_ h_
  unfold State.lz2Ends
  repeat' first
    | (intro _)
    | (with_reducible exact State.Keeps.refl _ _)
    | (with_reducible assumption)
    | (with_reducible apply State.Keeps.ite)
    | (with_reducible apply State.onLz2_keeps)
    | (with_reducible apply State.lz2ServeAll_keeps)
    | (with_reducible apply State.releaseHandle_keeps)
    | (with_reducible apply State.lz2Fill_keeps)
    | (with_reducible apply State.lz2In_keeps)
    | (with_reducible apply State.onMem_keeps)
    | (with_reducible apply State.Keeps.ofPair (by with_reducible assumption))
    | decide
    | extract_lets
    | split
    | dsimp only
    | dsimp +zetaDelta only

theorem State.lz2Off_keeps {m_ : Nat} {s_ : State} (s : State) (hm_ : (m_ ||| 0x8040) = m_) (h_ : State.Keeps m_ s_ s) : State.Keeps m_ s_ (State.lz2Off s) := by
  refine State.Keeps.step (m1 := 0x8040) ?_ hm_ h_
  unfold State.lz2Off
  repeat' first
    | (intro _)
    | (with_reducible exact State.Keeps.refl _ _)
    | (with_reducible assumption)
    | (with_reducible apply State.releaseHandle_keeps)
    | (with_reducible apply State.onMem_keeps)
    | (with_reducible apply State.Keeps.foldl)
    | (with_reducible apply State.Keeps.foldlFst)
    | (with_reducible apply State.Keeps.ofPair (by with_reducible assumption))
    | decide
    | extract_lets
    | split
    | dsimp only
    | dsimp +zetaDelta only

theorem State.reqAccepted_keeps {m_ : Nat} {s_ : State} (s : State) (r : MigReq) (hm_ : (m_ ||| 0x40820) = m_) (h_ : State.Keeps m_ s_ s) : State.Keeps m_ s_ (State.reqAccepted s r) := by
  refine State.Keeps.step (m1 := 0x40820) ?_ hm_ h_
  unfold State.reqAccepted
  repeat' first
    | (intro _)
    | (with_reducible exact State.Keeps.refl _ _)
    | (with_reducible assumption)
    | (with_reducible apply State.Keeps.ite)
    | (with_reducible apply State.jobAccepted_keeps)
    | (with_reducible apply State.setGreg_keeps)
    | (with_reducible apply State.rerunPoint_keeps)
    | (with_reducible apply State.onGsq_keeps)
    | (with_reducible apply State.adapterAccepted_keeps)
    | (with_reducible apply State.gsqSt_keeps)
    | decide
    | extract_lets
    | split
    | dsimp only
    | dsimp +zetaDelta only

theorem State.reqRefused_keeps {m_ : Nat} {s_ : State} (s : State) (r : MigReq) (st : Nat) (hm_ : (m_ ||| 0x2A860) = m_) (h_ : State.Keeps m_ s_ s) : State.Keeps m_ s_ (State.reqRefused s r st) := by
  refine State.Keeps.step (m1 := 0x2A860) ?_ hm_ h_
  unfold State.reqRefused
  repeat' first
    | (intro _)
    | (with_reducible exact State.Keeps.refl _ _)
    | (with_reducible assumption)
    | (with_reducible apply State.Keeps.ite)
    | (with_reducible apply State.swinTierFails_keeps)
    | (with_reducible apply State.lz2Ends_keeps)
    | (with_reducible apply State.replFails_keeps)
    | (with_reducible apply State.refuseState_keeps)
    | (with_reducible apply State.refuse_keeps)
    | (with_reducible apply State.adapterRefused_keeps)
    | (with_reducible apply State.gsqSt_keeps)
    | (with_reducible apply State.jobFailed_keeps)
    | decide
    | split
    | dsimp only
    | dsimp +zetaDelta only

theorem State.reqDone_keeps {m_ : Nat} {s_ : State} (s0 : State) (r : MigReq) (st : Nat) (hm_ : (m_ ||| 0x6A860) = m_) (h_ : State.Keeps m_ s_ s0) : State.Keeps m_ s_ (State.reqDone s0 r st) := by
  refine State.Keeps.step (m1 := 0x6A860) ?_ hm_ h_
  unfold State.reqDone
  repeat' first
    | (intro _)
    | (with_reducible exact State.Keeps.refl _ _)
    | (with_reducible assumption)
    | (with_reducible apply State.Keeps.ite)
    | (with_reducible apply State.swinTierFails_keeps)
    | (with_reducible apply State.swinUnitsIn_keeps)
    | (with_reducible apply State.advanceDone_keeps)
    | (with_reducible apply State.lz2Ends_keeps)
    | (with_reducible apply State.jobPiece_keeps)
    | (with_reducible apply State.replFails_keeps)
    | (with_reducible apply State.replExtentIn_keeps)
    | (with_reducible apply State.onGsq_keeps)
    | (with_reducible apply State.wakeSealed_keeps)
    | (with_reducible apply State.adapterLoaded_keeps)
    | (with_reducible apply State.complete_keeps)
    | decide
    | extract_lets
    | split
    | dsimp only
    | dsimp +zetaDelta only

theorem State.takeEntry_keeps {m_ : Nat} {s_ : State} (s : State) (hm_ : (m_ ||| 0x6A860) = m_) (h_ : State.Keeps m_ s_ s) : State.Keeps m_ s_ (State.takeEntry s) := by
  refine State.Keeps.step (m1 := 0x6A860) ?_ hm_ h_
  unfold State.takeEntry
  repeat' first
    | (intro _)
    | (with_reducible exact State.Keeps.refl _ _)
    | (with_reducible assumption)
    | (with_reducible apply State.Keeps.ite)
    | (with_reducible apply State.reqAccepted_keeps)
    | (with_reducible apply State.reqRefused_keeps)
    | (with_reducible apply State.reqDone_keeps)
    | (with_reducible apply State.releaseExtent_keeps)
    | (with_reducible apply State.onMem_keeps)
    | (with_reducible apply State.migTake_keeps)
    | decide
    | extract_lets
    | split
    | dsimp only
    | dsimp +zetaDelta only

theorem State.finishDestroy_keeps {m_ : Nat} {s_ : State} (s : State) (g : Nat) (hm_ : (m_ ||| 0x2A8C0) = m_) (h_ : State.Keeps m_ s_ s) : State.Keeps m_ s_ (State.finishDestroy s g) := by
  refine State.Keeps.step (m1 := 0x2A8C0) ?_ hm_ h_
  unfold State.finishDestroy
  repeat' first
    | (intro _)
    | (with_reducible exact State.Keeps.refl _ _)
    | (with_reducible assumption)
    | (with_reducible apply State.Keeps.ite)
    | (with_reducible apply State.freeFrame_keeps)
    | (with_reducible apply State.completeOpt_keeps)
    | (with_reducible apply State.onGlv_keeps)
    | (with_reducible apply State.Keeps.foldl)
    | (with_reducible apply State.Keeps.foldlFst)
    | decide
    | extract_lets
    | split
    | dsimp only
    | dsimp +zetaDelta only

theorem State.finishDestroys_keeps {m_ : Nat} {s_ : State} (s : State) (hm_ : (m_ ||| 0x2A8C0) = m_) (h_ : State.Keeps m_ s_ s) : State.Keeps m_ s_ (State.finishDestroys s) := by
  refine State.Keeps.step (m1 := 0x2A8C0) ?_ hm_ h_
  unfold State.finishDestroys
  repeat' first
    | (intro _)
    | (with_reducible exact State.Keeps.refl _ _)
    | (with_reducible assumption)
    | (with_reducible apply State.finishDestroy_keeps)
    | (with_reducible apply State.Keeps.foldl)
    | (with_reducible apply State.Keeps.foldlFst)
    | decide
    | split
    | dsimp only
    | dsimp +zetaDelta only

theorem State.setPort_keeps {m_ : Nat} {s_ : State} (s : State) (deep : Bool) (i : Nat) (x : PortState) (hm_ : (m_ ||| 0x40) = m_) (h_ : State.Keeps m_ s_ s) : State.Keeps m_ s_ (State.setPort s deep i x) := by
  refine State.Keeps.step (m1 := 0x40) ?_ hm_ h_
  unfold State.setPort
  repeat' first
    | (intro _)
    | (with_reducible exact State.Keeps.refl _ _)
    | (with_reducible assumption)
    | (with_reducible apply State.Keeps.ite)
    | (with_reducible apply State.onDdr_keeps)
    | (with_reducible apply State.onDpp_keeps)
    | decide
    | split
    | dsimp only
    | dsimp +zetaDelta only

theorem State.judgeMod_keeps {m_ : Nat} {s_ : State} (s : State) (hm_ : (m_ ||| 0x8004) = m_) (h_ : State.Keeps m_ s_ s) : State.Keeps m_ s_ (State.judgeMod s) := by
  refine State.Keeps.step (m1 := 0x8004) ?_ hm_ h_
  unfold State.judgeMod
  repeat' first
    | (intro _)
    | (with_reducible exact State.Keeps.refl _ _)
    | (with_reducible assumption)
    | (with_reducible apply State.Keeps.ite)
    | (with_reducible apply State.alert_keeps)
    | (with_reducible apply State.toMode_keeps)
    | decide
    | extract_lets
    | split
    | dsimp only
    | dsimp +zetaDelta only

theorem State.fencePort_keeps {m_ : Nat} {s_ : State} (s : State) (deep : Bool) (i : Nat) (hm_ : (m_ ||| 0x6A864) = m_) (h_ : State.Keeps m_ s_ s) : State.Keeps m_ s_ (State.fencePort s deep i) := by
  refine State.Keeps.step (m1 := 0x6A864) ?_ hm_ h_
  unfold State.fencePort
  repeat' first
    | (intro _)
    | (with_reducible exact State.Keeps.refl _ _)
    | (with_reducible assumption)
    | (with_reducible apply State.Keeps.ite)
    | (with_reducible apply State.judgeMod_keeps)
    | (with_reducible apply State.setPort_keeps)
    | (with_reducible apply State.moveEnd_keeps)
    | (with_reducible apply State.raise_keeps)
    | (with_reducible apply State.reqDone_keeps)
    | (with_reducible apply State.migFailCount_keeps)
    | (with_reducible apply State.loseExtent_keeps)
    | (with_reducible apply State.fenceCount_keeps)
    | (with_reducible apply State.loseCaches_keeps)
    | (with_reducible apply State.onMem_keeps)
    | (with_reducible apply State.Keeps.foldl)
    | (with_reducible apply State.Keeps.foldlFst)
    | (with_reducible apply State.Keeps.ofPair (by with_reducible assumption))
    | decide
    | extract_lets
    | split
    | dsimp only
    | dsimp +zetaDelta only

theorem State.drainPort_keeps {m_ : Nat} {s_ : State} (s : State) (deep : Bool) (i : Nat) (hm_ : (m_ ||| 0x8044) = m_) (h_ : State.Keeps m_ s_ s) : State.Keeps m_ s_ (State.drainPort s deep i) := by
  refine State.Keeps.step (m1 := 0x8044) ?_ hm_ h_
  unfold State.drainPort
  repeat' first
    | (intro _)
    | (with_reducible exact State.Keeps.refl _ _)
    | (with_reducible assumption)
    | (with_reducible apply State.endDrains_keeps)
    | (with_reducible apply State.fenceCount_keeps)
    | (with_reducible apply State.judgeMod_keeps)
    | (with_reducible apply State.setPort_keeps)
    | decide
    | extract_lets
    | split
    | dsimp only
    | dsimp +zetaDelta only

theorem migrationQueueEntryOp_keeps {m_ : Nat} {s_ : State} (s : State) (hm_ : (m_ ||| 0x6A860) = m_) (h_ : State.Keeps m_ s_ s) : State.Keeps m_ s_ (migrationQueueEntryOp s) := by
  refine State.Keeps.step (m1 := 0x6A860) ?_ hm_ h_
  unfold migrationQueueEntryOp
  repeat' first
    | (intro _)
    | (with_reducible exact State.Keeps.refl _ _)
    | (with_reducible assumption)
    | (with_reducible apply State.takeEntry_keeps)
    | decide
    | split
    | dsimp only
    | dsimp +zetaDelta only

theorem migrationStartOp_keeps {m_ : Nat} {s_ : State} (tier : Nat) (s : State) (hm_ : (m_ ||| 0x40) = m_) (h_ : State.Keeps m_ s_ s) : State.Keeps m_ s_ (migrationStartOp tier s) := by
  refine State.Keeps.step (m1 := 0x40) ?_ hm_ h_
  unfold migrationStartOp
  repeat' first
    | (intro _)
    | (with_reducible exact State.Keeps.refl _ _)
    | (with_reducible assumption)
    | (with_reducible apply State.migStart_keeps)
    | decide
    | split
    | dsimp only
    | dsimp +zetaDelta only

theorem heldWriteReleaseOp_keeps {m_ : Nat} {s_ : State} (frame : Nat) (unit : Nat) (s : State) (hm_ : (m_ ||| 0x8840) = m_) (h_ : State.Keeps m_ s_ s) : State.Keeps m_ s_ (heldWriteReleaseOp frame unit s) := by
  refine State.Keeps.step (m1 := 0x8840) ?_ hm_ h_
  unfold heldWriteReleaseOp
  repeat' first
    | (intro _)
    | (with_reducible exact State.Keeps.refl _ _)
    | (with_reducible assumption)
    | (with_reducible apply State.Keeps.ite)
    | (with_reducible apply State.releaseHeld_keeps)
    | (with_reducible apply State.onMem_keeps)
    | (with_reducible apply State.Keeps.ofPair (by with_reducible assumption))
    | decide
    | extract_lets
    | split
    | dsimp only
    | dsimp +zetaDelta only

theorem sealCompleteOp_keeps {m_ : Nat} {s_ : State} (ident : Nat) (ioError : Bool) (s : State) (hm_ : (m_ ||| 0x6A8E0) = m_) (h_ : State.Keeps m_ s_ s) : State.Keeps m_ s_ (sealCompleteOp ident ioError s) := by
  refine State.Keeps.step (m1 := 0x6A8E0) ?_ hm_ h_
  unfold sealCompleteOp
  repeat' first
    | (intro _)
    | (with_reducible exact State.Keeps.refl _ _)
    | (with_reducible assumption)
    | (with_reducible apply State.finishDestroys_keeps)
    | (with_reducible apply State.reqDone_keeps)
    | (with_reducible apply State.sealEnd_keeps)
    | (with_reducible apply State.Keeps.ofPair (by with_reducible assumption))
    | decide
    | extract_lets
    | split
    | dsimp only
    | dsimp +zetaDelta only

theorem copyupCompleteOp_keeps {m_ : Nat} {s_ : State} (ident : Nat) (ioError : Bool) (s : State) (hm_ : (m_ ||| 0x6A860) = m_) (h_ : State.Keeps m_ s_ s) : State.Keeps m_ s_ (copyupCompleteOp ident ioError s) := by
  refine State.Keeps.step (m1 := 0x6A860) ?_ hm_ h_
  unfold copyupCompleteOp
  repeat' first
    | (intro _)
    | (with_reducible exact State.Keeps.refl _ _)
    | (with_reducible assumption)
    | (with_reducible apply State.reqDone_keeps)
    | (with_reducible apply State.copyupPlace_keeps)
    | (with_reducible apply State.copyupEnd_keeps)
    | (with_reducible apply State.Keeps.ofPair (by with_reducible assumption))
    | decide
    | split
    | dsimp only
    | dsimp +zetaDelta only

theorem moveCompleteOp_keeps {m_ : Nat} {s_ : State} (ident : Nat) (ioError : Bool) (s : State) (hm_ : (m_ ||| 0x6A860) = m_) (h_ : State.Keeps m_ s_ s) : State.Keeps m_ s_ (moveCompleteOp ident ioError s) := by
  refine State.Keeps.step (m1 := 0x6A860) ?_ hm_ h_
  unfold moveCompleteOp
  repeat' first
    | (intro _)
    | (with_reducible exact State.Keeps.refl _ _)
    | (with_reducible assumption)
    | (with_reducible apply State.Keeps.ite)
    | (with_reducible apply State.moveEnd_keeps)
    | (with_reducible apply State.reqDone_keeps)
    | (with_reducible apply State.Keeps.ofPair (by with_reducible assumption))
    | decide
    | extract_lets
    | split
    | dsimp only
    | dsimp +zetaDelta only

theorem relocationCompleteOp_keeps {m_ : Nat} {s_ : State} (deep : Bool) (idx : Nat) (slot : Nat) (chunk : Nat) (s : State) (hm_ : (m_ ||| 0x8044) = m_) (h_ : State.Keeps m_ s_ s) : State.Keeps m_ s_ (relocationCompleteOp deep idx slot chunk s) := by
  refine State.Keeps.step (m1 := 0x8044) ?_ hm_ h_
  unfold relocationCompleteOp
  repeat' first
    | (intro _)
    | (with_reducible exact State.Keeps.refl _ _)
    | (with_reducible assumption)
    | (with_reducible apply State.Keeps.ite)
    | (with_reducible apply State.onExtent_keeps)
    | (with_reducible apply State.judgeMod_keeps)
    | (with_reducible apply State.endDrains_keeps)
    | (with_reducible apply State.count_keeps)
    | (with_reducible apply State.onMem_keeps)
    | decide
    | extract_lets
    | split
    | dsimp only
    | dsimp +zetaDelta only

theorem ddrUncorrectedErrorOp_keeps {m_ : Nat} {s_ : State} (chan : Nat) (unit : Nat) (dev : Nat) (cause : Nat) (s : State) (hm_ : (m_ ||| 0x6A864) = m_) (h_ : State.Keeps m_ s_ s) : State.Keeps m_ s_ (ddrUncorrectedErrorOp chan unit dev cause s) := by
  refine State.Keeps.step (m1 := 0x6A864) ?_ hm_ h_
  unfold ddrUncorrectedErrorOp
  repeat' first
    | (intro _)
    | (with_reducible exact State.Keeps.refl _ _)
    | (with_reducible assumption)
    | (with_reducible apply State.Keeps.ite)
    | (with_reducible apply State.setReg_keeps)
    | (with_reducible apply State.fencePort_keeps)
    | (with_reducible apply State.errClass_keeps)
    | (with_reducible apply State.raise_keeps)
    | decide
    | extract_lets
    | split
    | dsimp only
    | dsimp +zetaDelta only

theorem deepPortLinkDownOp_keeps {m_ : Nat} {s_ : State} (port : Nat) (s : State) (hm_ : (m_ ||| 0x6A864) = m_) (h_ : State.Keeps m_ s_ s) : State.Keeps m_ s_ (deepPortLinkDownOp port s) := by
  refine State.Keeps.step (m1 := 0x6A864) ?_ hm_ h_
  unfold deepPortLinkDownOp
  repeat' first
    | (intro _)
    | (with_reducible exact State.Keeps.refl _ _)
    | (with_reducible assumption)
    | (with_reducible apply State.Keeps.ite)
    | (with_reducible apply State.fencePort_keeps)
    | (with_reducible apply State.errClass_keeps)
    | (with_reducible apply State.raise_keeps)
    | (with_reducible apply State.onDpp_keeps)
    | decide
    | extract_lets
    | split
    | dsimp only
    | dsimp +zetaDelta only

theorem lz2PageMissOp_keeps {m_ : Nat} {s_ : State} (page : Nat) (s : State) (hm_ : (m_ ||| 0x8840) = m_) (h_ : State.Keeps m_ s_ s) : State.Keeps m_ s_ (lz2PageMissOp page s) := by
  refine State.Keeps.step (m1 := 0x8840) ?_ hm_ h_
  unfold lz2PageMissOp
  repeat' first
    | (intro _)
    | (with_reducible exact State.Keeps.refl _ _)
    | (with_reducible assumption)
    | (with_reducible apply State.Keeps.ite)
    | (with_reducible apply State.onMem_keeps)
    | (with_reducible apply State.lz2Serve_keeps)
    | decide
    | split
    | dsimp only
    | dsimp +zetaDelta only

theorem dqsTrackingOp_keeps {m_ : Nat} {s_ : State} (_chan : Nat) (s : State) (hm_ : (m_ ||| 0x0) = m_) (h_ : State.Keeps m_ s_ s) : State.Keeps m_ s_ (dqsTrackingOp _chan s) := by
  refine State.Keeps.step (m1 := 0x0) ?_ hm_ h_
  unfold dqsTrackingOp
  repeat' first
    | (intro _)
    | (with_reducible exact State.Keeps.refl _ _)
    | (with_reducible assumption)
    | decide
    | split
    | dsimp only
    | dsimp +zetaDelta only

end Sys2Proof.Machine
end

