-- ==== Sys2Proof/Laws/FrameOperands.lean ====
section
/-! SUPPORT. The frame of each operation of Machine/Operands.lean: the blocks of the state that it may change (Laws/Keeps.lean). -/

set_option Elab.async false

namespace Sys2Proof.Machine

theorem State.dueWrite_keeps {m_ : Nat} {s_ : State} (s : State) (k : Nat) (at_ : Nat) (slot : Nat) (w : CellWrite) (hm_ : (m_ ||| 0x10) = m_) (h_ : State.Keeps m_ s_ s) : State.Keeps m_ s_ (State.dueWrite s k at_ slot w) := by
  refine State.Keeps.step (m1 := 0x10) ?_ hm_ h_
  unfold State.dueWrite
  repeat' first
    | (intro _)
    | (with_reducible exact State.Keeps.refl _ _)
    | (with_reducible assumption)
    | (with_reducible apply State.onCell_keeps)
    | (with_reducible apply State.Keeps.ofPair (by with_reducible assumption))
    | decide
    | split
    | dsimp only
    | dsimp +zetaDelta only

end Sys2Proof.Machine
end

