-- ==== Sys2Proof/Laws/FrameGloves.lean ====
section
/-! SUPPORT. The frame of each operation of Machine/Gloves.lean: the blocks of the state that it may change (Laws/Keeps.lean). -/

set_option Elab.async false

namespace Sys2Proof.Machine

theorem State.setMCell_keeps {m_ : Nat} {s_ : State} (s : State) (g : Nat) (hm_ : (m_ ||| 0x48010) = m_) (h_ : State.Keeps m_ s_ s) : State.Keeps m_ s_ (State.setMCell s g) := by
  refine State.Keeps.step (m1 := 0x48010) ?_ hm_ h_
  unfold State.setMCell
  repeat' first
    | (intro _)
    | (with_reducible exact State.Keeps.refl _ _)
    | (with_reducible assumption)
    | (with_reducible apply State.setReg_keeps)
    | (with_reducible apply State.onMCell_keeps)
    | (with_reducible apply State.spend_keeps)
    | (with_reducible apply State.Keeps.foldl)
    | (with_reducible apply State.Keeps.foldlFst)
    | decide
    | extract_lets
    | split
    | dsimp only
    | dsimp +zetaDelta only

theorem State.scrambleCell_keeps {m_ : Nat} {s_ : State} (s : State) (k : Nat) (hm_ : (m_ ||| 0x40010) = m_) (h_ : State.Keeps m_ s_ s) : State.Keeps m_ s_ (State.scrambleCell s k) := by
  refine State.Keeps.step (m1 := 0x40010) ?_ hm_ h_
  unfold State.scrambleCell
  repeat' first
    | (intro _)
    | (with_reducible exact State.Keeps.refl _ _)
    | (with_reducible assumption)
    | (with_reducible apply State.spend_keeps)
    | (with_reducible apply State.onArr_keeps)
    | decide
    | split
    | dsimp only
    | dsimp +zetaDelta only

theorem State.palmEnters_keeps {m_ : Nat} {s_ : State} (s : State) (g : Nat) (p : Nat) (hm_ : (m_ ||| 0x48010) = m_) (h_ : State.Keeps m_ s_ s) : State.Keeps m_ s_ (State.palmEnters s g p) := by
  refine State.Keeps.step (m1 := 0x48010) ?_ hm_ h_
  unfold State.palmEnters
  repeat' first
    | (intro _)
    | (with_reducible exact State.Keeps.refl _ _)
    | (with_reducible assumption)
    | (with_reducible apply State.Keeps.ite)
    | (with_reducible apply State.scrambleCell_keeps)
    | (with_reducible apply State.scrambleRows_keeps)
    | (with_reducible apply State.onMCell_keeps)
    | (with_reducible apply State.setMCell_keeps)
    | (with_reducible apply State.onPalm_keeps)
    | (with_reducible apply State.Keeps.foldl)
    | (with_reducible apply State.Keeps.foldlFst)
    | decide
    | extract_lets
    | split
    | dsimp only
    | dsimp +zetaDelta only

theorem State.stopPalm_keeps {m_ : Nat} {s_ : State} (s : State) (p : Nat) (rings : Bool) (hm_ : (m_ ||| 0x10) = m_) (h_ : State.Keeps m_ s_ s) : State.Keeps m_ s_ (State.stopPalm s p rings) := by
  refine State.Keeps.step (m1 := 0x10) ?_ hm_ h_
  unfold State.stopPalm
  repeat' first
    | (intro _)
    | (with_reducible exact State.Keeps.refl _ _)
    | (with_reducible assumption)
    | (with_reducible apply State.Keeps.ite)
    | (with_reducible apply State.onMCell_keeps)
    | (with_reducible apply State.onCell_keeps)
    | (with_reducible apply State.onArr_keeps)
    | (with_reducible apply State.Keeps.foldl)
    | (with_reducible apply State.Keeps.foldlFst)
    | decide
    | extract_lets
    | split
    | dsimp only
    | dsimp +zetaDelta only

theorem State.stopGlove_keeps {m_ : Nat} {s_ : State} (s : State) (g : Nat) (hm_ : (m_ ||| 0x30) = m_) (h_ : State.Keeps m_ s_ s) : State.Keeps m_ s_ (State.stopGlove s g) := by
  refine State.Keeps.step (m1 := 0x30) ?_ hm_ h_
  unfold State.stopGlove
  repeat' first
    | (intro _)
    | (with_reducible exact State.Keeps.refl _ _)
    | (with_reducible assumption)
    | (with_reducible apply State.onPat_keeps)
    | (with_reducible apply State.stopPalm_keeps)
    | (with_reducible apply State.Keeps.foldl)
    | (with_reducible apply State.Keeps.foldlFst)
    | decide
    | split
    | dsimp only
    | dsimp +zetaDelta only

theorem State.beginReset_keeps {m_ : Nat} {s_ : State} (s : State) (g : Nat) (cause : Nat) (hm_ : (m_ ||| 0x6A8F0) = m_) (h_ : State.Keeps m_ s_ s) : State.Keeps m_ s_ (State.beginReset s g cause) := by
  refine State.Keeps.step (m1 := 0x6A8F0) ?_ hm_ h_
  unfold State.beginReset
  repeat' first
    | (intro _)
    | (with_reducible exact State.Keeps.refl _ _)
    | (with_reducible assumption)
    | (with_reducible apply State.Keeps.ite)
    | (with_reducible apply State.stopGlove_keeps)
    | (with_reducible apply State.leavePhases_keeps)
    | (with_reducible apply State.setMCell_keeps)
    | (with_reducible apply State.onGsq_keeps)
    | (with_reducible apply State.abandonStep_keeps)
    | (with_reducible apply State.raise_keeps)
    | (with_reducible apply State.onGlv_keeps)
    | (with_reducible apply State.settleCell_keeps)
    | (with_reducible apply State.Keeps.foldl)
    | (with_reducible apply State.Keeps.foldlFst)
    | decide
    | extract_lets
    | split
    | dsimp only
    | dsimp +zetaDelta only

theorem State.faultGlove_keeps {m_ : Nat} {s_ : State} (s : State) (g : Nat) (cause : Nat) (detail : Word) (hm_ : (m_ ||| 0x6A8F0) = m_) (h_ : State.Keeps m_ s_ s) : State.Keeps m_ s_ (State.faultGlove s g cause detail) := by
  refine State.Keeps.step (m1 := 0x6A8F0) ?_ hm_ h_
  unfold State.faultGlove
  repeat' first
    | (intro _)
    | (with_reducible exact State.Keeps.refl _ _)
    | (with_reducible assumption)
    | (with_reducible apply State.Keeps.ite)
    | (with_reducible apply State.errClass_keeps)
    | (with_reducible apply State.discardArm_keeps)
    | (with_reducible apply State.onGsq_keeps)
    | (with_reducible apply State.beginReset_keeps)
    | (with_reducible apply State.onGlv_keeps)
    | (with_reducible apply State.Keeps.ofPair (by with_reducible assumption))
    | decide
    | extract_lets
    | split
    | dsimp only
    | dsimp +zetaDelta only

theorem State.faultStops_keeps {m_ : Nat} {s_ : State} (s : State) (g : Nat) (hm_ : (m_ ||| 0x6A8F0) = m_) (h_ : State.Keeps m_ s_ s) : State.Keeps m_ s_ (State.faultStops s g) := by
  refine State.Keeps.step (m1 := 0x6A8F0) ?_ hm_ h_
  unfold State.faultStops
  repeat' first
    | (intro _)
    | (with_reducible exact State.Keeps.refl _ _)
    | (with_reducible assumption)
    | (with_reducible apply State.Keeps.ite)
    | (with_reducible apply State.beginReset_keeps)
    | (with_reducible apply State.Keeps.ofPair (by with_reducible assumption))
    | decide
    | split
    | dsimp only
    | dsimp +zetaDelta only

theorem State.giveGsq_keeps {m_ : Nat} {s_ : State} (s : State) (g : Nat) (q : Nat) (hm_ : (m_ ||| 0xA0) = m_) (h_ : State.Keeps m_ s_ s) : State.Keeps m_ s_ (State.giveGsq s g q) := by
  refine State.Keeps.step (m1 := 0xA0) ?_ hm_ h_
  unfold State.giveGsq
  repeat' first
    | (intro _)
    | (with_reducible exact State.Keeps.refl _ _)
    | (with_reducible assumption)
    | (with_reducible apply State.onSeq_keeps)
    | (with_reducible apply State.onGsq_keeps)
    | (with_reducible apply State.onGlv_keeps)
    | decide
    | split
    | dsimp only
    | dsimp +zetaDelta only

theorem State.scrubPalm_keeps {m_ : Nat} {s_ : State} (s : State) (p : Nat) (hm_ : (m_ ||| 0x8010) = m_) (h_ : State.Keeps m_ s_ s) : State.Keeps m_ s_ (State.scrubPalm s p) := by
  refine State.Keeps.step (m1 := 0x8010) ?_ hm_ h_
  unfold State.scrubPalm
  repeat' first
    | (intro _)
    | (with_reducible exact State.Keeps.refl _ _)
    | (with_reducible assumption)
    | (with_reducible apply State.Keeps.ite)
    | (with_reducible apply State.setReg_keeps)
    | (with_reducible apply State.onMCell_keeps)
    | (with_reducible apply State.onArr_keeps)
    | (with_reducible apply State.Keeps.foldl)
    | (with_reducible apply State.Keeps.foldlFst)
    | decide
    | extract_lets
    | split
    | dsimp only
    | dsimp +zetaDelta only

theorem State.palmLeaves_keeps {m_ : Nat} {s_ : State} (s : State) (p : Nat) (hm_ : (m_ ||| 0x8010) = m_) (h_ : State.Keeps m_ s_ s) : State.Keeps m_ s_ (State.palmLeaves s p) := by
  refine State.Keeps.step (m1 := 0x8010) ?_ hm_ h_
  unfold State.palmLeaves
  repeat' first
    | (intro _)
    | (with_reducible exact State.Keeps.refl _ _)
    | (with_reducible assumption)
    | (with_reducible apply State.scrubPalm_keeps)
    | (with_reducible apply State.onPalm_keeps)
    | decide
    | split
    | dsimp only
    | dsimp +zetaDelta only

theorem State.losePalm_keeps {m_ : Nat} {s_ : State} (s : State) (g : Nat) (p : Nat) (hm_ : (m_ ||| 0x6A8F0) = m_) (h_ : State.Keeps m_ s_ s) : State.Keeps m_ s_ (State.losePalm s g p) := by
  refine State.Keeps.step (m1 := 0x6A8F0) ?_ hm_ h_
  unfold State.losePalm
  repeat' first
    | (intro _)
    | (with_reducible exact State.Keeps.refl _ _)
    | (with_reducible assumption)
    | (with_reducible apply State.Keeps.ite)
    | (with_reducible apply State.giveGsq_keeps)
    | (with_reducible apply State.palmLeaves_keeps)
    | (with_reducible apply State.onGsq_keeps)
    | (with_reducible apply State.beginReset_keeps)
    | (with_reducible apply State.onGlv_keeps)
    | decide
    | extract_lets
    | split
    | dsimp only
    | dsimp +zetaDelta only

theorem State.fencePalm_keeps {m_ : Nat} {s_ : State} (s : State) (p : Nat) (cause : Nat) (hm_ : (m_ ||| 0x6A8F0) = m_) (h_ : State.Keeps m_ s_ s) : State.Keeps m_ s_ (State.fencePalm s p cause) := by
  refine State.Keeps.step (m1 := 0x6A8F0) ?_ hm_ h_
  unfold State.fencePalm
  repeat' first
    | (intro _)
    | (with_reducible exact State.Keeps.refl _ _)
    | (with_reducible assumption)
    | (with_reducible apply State.Keeps.ite)
    | (with_reducible apply State.losePalm_keeps)
    | (with_reducible apply State.onPalm_keeps)
    | decide
    | extract_lets
    | split
    | dsimp only
    | dsimp +zetaDelta only

theorem State.freePalm_keeps {m_ : Nat} {s_ : State} (s : State) (p : Nat) (cause : Nat) (hm_ : (m_ ||| 0x10) = m_) (h_ : State.Keeps m_ s_ s) : State.Keeps m_ s_ (State.freePalm s p cause) := by
  refine State.Keeps.step (m1 := 0x10) ?_ hm_ h_
  unfold State.freePalm
  repeat' first
    | (intro _)
    | (with_reducible exact State.Keeps.refl _ _)
    | (with_reducible assumption)
    | (with_reducible apply State.onPalm_keeps)
    | decide
    | split
    | dsimp only
    | dsimp +zetaDelta only

theorem State.createGlove_keeps {m_ : Nat} {s_ : State} (s : State) (g : Nat) (q : Nat) (palms : BitVec 128) (key : Nat) (vf : Nat) (floor : Nat) (weight : Nat) (hm_ : (m_ ||| 0x480B0) = m_) (h_ : State.Keeps m_ s_ s) : State.Keeps m_ s_ (State.createGlove s g q palms key vf floor weight) := by
  refine State.Keeps.step (m1 := 0x480B0) ?_ hm_ h_
  unfold State.createGlove
  repeat' first
    | (intro _)
    | (with_reducible exact State.Keeps.refl _ _)
    | (with_reducible assumption)
    | (with_reducible apply State.palmEnters_keeps)
    | (with_reducible apply State.setReg_keeps)
    | (with_reducible apply State.giveGsq_keeps)
    | (with_reducible apply State.onGlv_keeps)
    | (with_reducible apply State.Keeps.foldl)
    | (with_reducible apply State.Keeps.foldlFst)
    | decide
    | extract_lets
    | split
    | dsimp only
    | dsimp +zetaDelta only

theorem State.destroyGlove_keeps {m_ : Nat} {s_ : State} (s : State) (g : Nat) (c : HostCmd) (hm_ : (m_ ||| 0x2A8F0) = m_) (h_ : State.Keeps m_ s_ s) : State.Keeps m_ s_ (State.destroyGlove s g c) := by
  refine State.Keeps.step (m1 := 0x2A8F0) ?_ hm_ h_
  unfold State.destroyGlove
  repeat' first
    | (intro _)
    | (with_reducible exact State.Keeps.refl _ _)
    | (with_reducible assumption)
    | (with_reducible apply State.Keeps.ite)
    | (with_reducible apply State.setReg_keeps)
    | (with_reducible apply State.onStw_keeps)
    | (with_reducible apply State.lz2Off_keeps)
    | (with_reducible apply State.palmLeaves_keeps)
    | (with_reducible apply State.stopPalm_keeps)
    | (with_reducible apply State.onPat_keeps)
    | (with_reducible apply State.finishDestroy_keeps)
    | (with_reducible apply State.onGsq_keeps)
    | (with_reducible apply State.onServe_keeps)
    | (with_reducible apply State.onAdapter_keeps)
    | (with_reducible apply State.onGlv_keeps)
    | (with_reducible apply State.Keeps.foldl)
    | (with_reducible apply State.Keeps.foldlFst)
    | decide
    | extract_lets
    | split
    | dsimp only
    | dsimp +zetaDelta only

theorem faultHoldExpiryOp_keeps {m_ : Nat} {s_ : State} (g : Nat) (s : State) (hm_ : (m_ ||| 0x6A8F0) = m_) (h_ : State.Keeps m_ s_ s) : State.Keeps m_ s_ (faultHoldExpiryOp g s) := by
  refine State.Keeps.step (m1 := 0x6A8F0) ?_ hm_ h_
  unfold faultHoldExpiryOp
  repeat' first
    | (intro _)
    | (with_reducible exact State.Keeps.refl _ _)
    | (with_reducible assumption)
    | (with_reducible apply State.Keeps.ite)
    | (with_reducible apply State.beginReset_keeps)
    | (with_reducible apply State.Keeps.ofPair (by with_reducible assumption))
    | decide
    | split
    | dsimp only
    | dsimp +zetaDelta only

theorem gloveResetDoneOp_keeps {m_ : Nat} {s_ : State} (g : Nat) (s : State) (hm_ : (m_ ||| 0x2A080) = m_) (h_ : State.Keeps m_ s_ s) : State.Keeps m_ s_ (gloveResetDoneOp g s) := by
  refine State.Keeps.step (m1 := 0x2A080) ?_ hm_ h_
  unfold gloveResetDoneOp
  repeat' first
    | (intro _)
    | (with_reducible exact State.Keeps.refl _ _)
    | (with_reducible assumption)
    | (with_reducible apply State.Keeps.ite)
    | (with_reducible apply State.onGlv_keeps)
    | (with_reducible apply State.complete_keeps)
    | (with_reducible apply State.Keeps.foldl)
    | (with_reducible apply State.Keeps.foldlFst)
    | decide
    | extract_lets
    | split
    | dsimp only
    | dsimp +zetaDelta only

end Sys2Proof.Machine
end

