-- ==== Sys2Proof/Laws/FrameFaults.lean ====
section
/-! SUPPORT. The frame of each operation of Machine/Faults.lean: the blocks of the state that it may change (Laws/Keeps.lean). -/

set_option Elab.async false

namespace Sys2Proof.Machine

theorem State.stopPattern_keeps {m_ : Nat} {s_ : State} (s : State) (g : Nat) (c : Nat) (hm_ : (m_ ||| 0x20) = m_) (h_ : State.Keeps m_ s_ s) : State.Keeps m_ s_ (State.stopPattern s g c) := by
  refine State.Keeps.step (m1 := 0x20) ?_ hm_ h_
  unfold State.stopPattern
  repeat' first
    | (intro _)
    | (with_reducible exact State.Keeps.refl _ _)
    | (with_reducible assumption)
    | (with_reducible apply State.onPat_keeps)
    | (with_reducible apply State.Keeps.ofPair (by with_reducible assumption))
    | decide
    | split
    | dsimp only
    | dsimp +zetaDelta only

theorem State.logSched_keeps {m_ : Nat} {s_ : State} (s : State) (f : SFault) (hm_ : (m_ ||| 0x8008) = m_) (h_ : State.Keeps m_ s_ s) : State.Keeps m_ s_ (State.logSched s f) := by
  refine State.Keeps.step (m1 := 0x8008) ?_ hm_ h_
  unfold State.logSched
  repeat' first
    | (intro _)
    | (with_reducible exact State.Keeps.refl _ _)
    | (with_reducible assumption)
    | (with_reducible apply State.Keeps.ite)
    | (with_reducible apply State.setReg_keeps)
    | (with_reducible apply State.onDie_keeps)
    | decide
    | extract_lets
    | split
    | dsimp only
    | dsimp +zetaDelta only

theorem State.schedFault_keeps {m_ : Nat} {s_ : State} (s : State) (f : SFault) (hm_ : (m_ ||| 0x6A8F8) = m_) (h_ : State.Keeps m_ s_ s) : State.Keeps m_ s_ (State.schedFault s f) := by
  refine State.Keeps.step (m1 := 0x6A8F8) ?_ hm_ h_
  unfold State.schedFault
  repeat' first
    | (intro _)
    | (with_reducible exact State.Keeps.refl _ _)
    | (with_reducible assumption)
    | (with_reducible apply State.logSched_keeps)
    | (with_reducible apply State.faultGlove_keeps)
    | (with_reducible apply State.stopPattern_keeps)
    | (with_reducible apply State.raise_keeps)
    | decide
    | split
    | dsimp only
    | dsimp +zetaDelta only

theorem State.logExc_keeps {m_ : Nat} {s_ : State} (s : State) (f : XFault) (hm_ : (m_ ||| 0x8008) = m_) (h_ : State.Keeps m_ s_ s) : State.Keeps m_ s_ (State.logExc s f) := by
  refine State.Keeps.step (m1 := 0x8008) ?_ hm_ h_
  unfold State.logExc
  repeat' first
    | (intro _)
    | (with_reducible exact State.Keeps.refl _ _)
    | (with_reducible assumption)
    | (with_reducible apply State.Keeps.ite)
    | (with_reducible apply State.setReg_keeps)
    | (with_reducible apply State.onDie_keeps)
    | decide
    | extract_lets
    | split
    | dsimp only
    | dsimp +zetaDelta only

theorem State.cellExc_keeps {m_ : Nat} {s_ : State} (s : State) (f : XFault) (hm_ : (m_ ||| 0x6A8F8) = m_) (h_ : State.Keeps m_ s_ s) : State.Keeps m_ s_ (State.cellExc s f) := by
  refine State.Keeps.step (m1 := 0x6A8F8) ?_ hm_ h_
  unfold State.cellExc
  repeat' first
    | (intro _)
    | (with_reducible exact State.Keeps.refl _ _)
    | (with_reducible assumption)
    | (with_reducible apply State.faultGlove_keeps)
    | (with_reducible apply State.stopPattern_keeps)
    | (with_reducible apply State.logExc_keeps)
    | (with_reducible apply State.raise_keeps)
    | decide
    | split
    | dsimp only
    | dsimp +zetaDelta only

theorem State.tierFault_keeps {m_ : Nat} {s_ : State} (s : State) (g : Nat) (detail : Word) (hm_ : (m_ ||| 0x6A8F0) = m_) (h_ : State.Keeps m_ s_ s) : State.Keeps m_ s_ (State.tierFault s g detail) := by
  refine State.Keeps.step (m1 := 0x6A8F0) ?_ hm_ h_
  unfold State.tierFault
  repeat' first
    | (intro _)
    | (with_reducible exact State.Keeps.refl _ _)
    | (with_reducible assumption)
    | (with_reducible apply State.faultGlove_keeps)
    | (with_reducible apply State.stopPattern_keeps)
    | decide
    | split
    | dsimp only
    | dsimp +zetaDelta only

theorem State.cellFault_keeps {m_ : Nat} {s_ : State} (s : State) (k : Nat) (cause : Nat) (slot : Nat) (code : Nat) (hm_ : (m_ ||| 0x6A8F8) = m_) (h_ : State.Keeps m_ s_ s) : State.Keeps m_ s_ (State.cellFault s k cause slot code) := by
  refine State.Keeps.step (m1 := 0x6A8F8) ?_ hm_ h_
  unfold State.cellFault
  repeat' first
    | (intro _)
    | (with_reducible exact State.Keeps.refl _ _)
    | (with_reducible assumption)
    | (with_reducible apply State.cellExc_keeps)
    | decide
    | extract_lets
    | split
    | dsimp only
    | dsimp +zetaDelta only

theorem State.siteFault_keeps {m_ : Nat} {s_ : State} (s : State) (k : Nat) (cause : Nat) (port : Nat) (kind : Option Kind) (hm_ : (m_ ||| 0x6A8F8) = m_) (h_ : State.Keeps m_ s_ s) : State.Keeps m_ s_ (State.siteFault s k cause port kind) := by
  refine State.Keeps.step (m1 := 0x6A8F8) ?_ hm_ h_
  unfold State.siteFault
  repeat' first
    | (intro _)
    | (with_reducible exact State.Keeps.refl _ _)
    | (with_reducible assumption)
    | (with_reducible apply State.schedFault_keeps)
    | decide
    | extract_lets
    | split
    | dsimp only
    | dsimp +zetaDelta only

end Sys2Proof.Machine
end

