-- ==== Sys2Proof/Laws/FrameCellControl.lean ====
section
/-! SUPPORT. The frame of each operation of Machine/CellControl.lean: the blocks of the state that it may change (Laws/Keeps.lean). -/

set_option Elab.async false

namespace Sys2Proof.Machine

theorem ctNopOp_keeps {m_ : Nat} {s_ : State} (_p : Site) (s : State) (hm_ : (m_ ||| 0x0) = m_) (h_ : State.Keeps m_ s_ s) : State.Keeps m_ s_ (ctNopOp _p s) := by
  refine State.Keeps.step (m1 := 0x0) ?_ hm_ h_
  unfold ctNopOp
  repeat' first
    | (intro _)
    | (with_reducible exact State.Keeps.refl _ _)
    | (with_reducible assumption)
    | decide
    | split
    | dsimp only
    | dsimp +zetaDelta only

theorem epxOp_keeps {m_ : Nat} {s_ : State} (p : Site) (s : State) (hm_ : (m_ ||| 0x10) = m_) (h_ : State.Keeps m_ s_ s) : State.Keeps m_ s_ (epxOp p s) := by
  refine State.Keeps.step (m1 := 0x10) ?_ hm_ h_
  unfold epxOp
  repeat' first
    | (intro _)
    | (with_reducible exact State.Keeps.refl _ _)
    | (with_reducible assumption)
    | (with_reducible apply State.dueWrite_keeps)
    | decide
    | split
    | dsimp only
    | dsimp +zetaDelta only

theorem epsOp_keeps {m_ : Nat} {s_ : State} (p : Site) (x : BitVec 6) (s : State) (hm_ : (m_ ||| 0x10) = m_) (h_ : State.Keeps m_ s_ s) : State.Keeps m_ s_ (epsOp p x s) := by
  refine State.Keeps.step (m1 := 0x10) ?_ hm_ h_
  unfold epsOp
  repeat' first
    | (intro _)
    | (with_reducible exact State.Keeps.refl _ _)
    | (with_reducible assumption)
    | (with_reducible apply State.dueWrite_keeps)
    | decide
    | split
    | dsimp only
    | dsimp +zetaDelta only

theorem fsetOp_keeps {m_ : Nat} {s_ : State} (p : Site) (x : BitVec 6) (s : State) (hm_ : (m_ ||| 0x10) = m_) (h_ : State.Keeps m_ s_ s) : State.Keeps m_ s_ (fsetOp p x s) := by
  refine State.Keeps.step (m1 := 0x10) ?_ hm_ h_
  unfold fsetOp
  repeat' first
    | (intro _)
    | (with_reducible exact State.Keeps.refl _ _)
    | (with_reducible assumption)
    | (with_reducible apply State.dueWrite_keeps)
    | decide
    | split
    | dsimp only
    | dsimp +zetaDelta only

theorem fanyOp_keeps {m_ : Nat} {s_ : State} (p : Site) (x : BitVec 6) (s : State) (hm_ : (m_ ||| 0x10) = m_) (h_ : State.Keeps m_ s_ s) : State.Keeps m_ s_ (fanyOp p x s) := by
  refine State.Keeps.step (m1 := 0x10) ?_ hm_ h_
  unfold fanyOp
  repeat' first
    | (intro _)
    | (with_reducible exact State.Keeps.refl _ _)
    | (with_reducible assumption)
    | (with_reducible apply State.Keeps.ite)
    | (with_reducible apply State.dueWrite_keeps)
    | decide
    | split
    | dsimp only
    | dsimp +zetaDelta only

theorem fallOp_keeps {m_ : Nat} {s_ : State} (p : Site) (x : BitVec 6) (s : State) (hm_ : (m_ ||| 0x10) = m_) (h_ : State.Keeps m_ s_ s) : State.Keeps m_ s_ (fallOp p x s) := by
  refine State.Keeps.step (m1 := 0x10) ?_ hm_ h_
  unfold fallOp
  repeat' first
    | (intro _)
    | (with_reducible exact State.Keeps.refl _ _)
    | (with_reducible assumption)
    | (with_reducible apply State.Keeps.ite)
    | (with_reducible apply State.dueWrite_keeps)
    | decide
    | split
    | dsimp only
    | dsimp +zetaDelta only

theorem trapOp_keeps {m_ : Nat} {s_ : State} (p : Site) (x : BitVec 6) (s : State) (hm_ : (m_ ||| 0x6A8F8) = m_) (h_ : State.Keeps m_ s_ s) : State.Keeps m_ s_ (trapOp p x s) := by
  refine State.Keeps.step (m1 := 0x6A8F8) ?_ hm_ h_
  unfold trapOp
  repeat' first
    | (intro _)
    | (with_reducible exact State.Keeps.refl _ _)
    | (with_reducible assumption)
    | (with_reducible apply State.cellFault_keeps)
    | decide
    | split
    | dsimp only
    | dsimp +zetaDelta only

end Sys2Proof.Machine
end

