-- ==== Sys2Proof/Laws/FrameCellMove.lean ====
section
/-! SUPPORT. The frame of each operation of Machine/CellMove.lean: the blocks of the state that it may change (Laws/Keeps.lean). -/

set_option Elab.async false

namespace Sys2Proof.Machine

theorem State.takeWord_keeps {m_ : Nat} {s_ : State} (s : State) (k : Nat) (c : Nat) (t : TakeSt) (w : Line × Line) (hm_ : (m_ ||| 0x10) = m_) (h_ : State.Keeps m_ s_ s) : State.Keeps m_ s_ (State.takeWord s k c t w) := by
  refine State.Keeps.step (m1 := 0x10) ?_ hm_ h_
  unfold State.takeWord
  repeat' first
    | (intro _)
    | (with_reducible exact State.Keeps.refl _ _)
    | (with_reducible assumption)
    | (with_reducible apply State.Keeps.ite)
    | (with_reducible apply State.onCell_keeps)
    | (with_reducible apply State.Keeps.ofPair (by with_reducible assumption))
    | decide
    | extract_lets
    | split
    | dsimp only
    | dsimp +zetaDelta only

theorem State.takeOne_keeps {m_ : Nat} {s_ : State} (s : State) (k : Nat) (c : Nat) (t : TakeSt) (hm_ : (m_ ||| 0x6A8F8) = m_) (h_ : State.Keeps m_ s_ s) : State.Keeps m_ s_ (State.takeOne s k c t) := by
  refine State.Keeps.step (m1 := 0x6A8F8) ?_ hm_ h_
  unfold State.takeOne
  repeat' first
    | (intro _)
    | (with_reducible exact State.Keeps.refl _ _)
    | (with_reducible assumption)
    | (with_reducible apply State.Keeps.ite)
    | (with_reducible apply State.siteFault_keeps)
    | (with_reducible apply State.cellFault_keeps)
    | (with_reducible apply State.onCell_keeps)
    | (with_reducible apply State.takeWord_keeps)
    | decide
    | extract_lets
    | split
    | dsimp only
    | dsimp +zetaDelta only

theorem State.take_keeps {m_ : Nat} {s_ : State} (s : State) (p : Site) (port : Nat) (n : Nat) (to_ : TakeTo) (hm_ : (m_ ||| 0x6A8F8) = m_) (h_ : State.Keeps m_ s_ s) : State.Keeps m_ s_ (State.take s p port n to_) := by
  refine State.Keeps.step (m1 := 0x6A8F8) ?_ hm_ h_
  unfold State.take
  repeat' first
    | (intro _)
    | (with_reducible exact State.Keeps.refl _ _)
    | (with_reducible assumption)
    | (with_reducible apply State.takeOne_keeps)
    | (with_reducible apply State.Keeps.ofPair (by with_reducible assumption))
    | decide
    | split
    | dsimp only
    | dsimp +zetaDelta only

theorem mvNopOp_keeps {m_ : Nat} {s_ : State} (_p : Site) (s : State) (hm_ : (m_ ||| 0x0) = m_) (h_ : State.Keeps m_ s_ s) : State.Keeps m_ s_ (mvNopOp _p s) := by
  refine State.Keeps.step (m1 := 0x0) ?_ hm_ h_
  unfold mvNopOp
  repeat' first
    | (intro _)
    | (with_reducible exact State.Keeps.refl _ _)
    | (with_reducible assumption)
    | decide
    | split
    | dsimp only
    | dsimp +zetaDelta only

theorem filOp_keeps {m_ : Nat} {s_ : State} (p : Site) (port : Nat) (areg : Nat) (d : Nat) (nl : Nat) (s : State) (hm_ : (m_ ||| 0x6A8F8) = m_) (h_ : State.Keeps m_ s_ s) : State.Keeps m_ s_ (filOp p port areg d nl s) := by
  refine State.Keeps.step (m1 := 0x6A8F8) ?_ hm_ h_
  unfold filOp
  repeat' first
    | (intro _)
    | (with_reducible exact State.Keeps.refl _ _)
    | (with_reducible assumption)
    | (with_reducible apply State.Keeps.ite)
    | (with_reducible apply State.take_keeps)
    | decide
    | split
    | dsimp only
    | dsimp +zetaDelta only

theorem vldOp_keeps {m_ : Nat} {s_ : State} (p : Site) (port : Nat) (vd : Nat) (single : Bool) (q : Nat) (s : State) (hm_ : (m_ ||| 0x6A8F8) = m_) (h_ : State.Keeps m_ s_ s) : State.Keeps m_ s_ (vldOp p port vd single q s) := by
  refine State.Keeps.step (m1 := 0x6A8F8) ?_ hm_ h_
  unfold vldOp
  repeat' first
    | (intro _)
    | (with_reducible exact State.Keeps.refl _ _)
    | (with_reducible assumption)
    | (with_reducible apply State.Keeps.ite)
    | (with_reducible apply State.take_keeps)
    | decide
    | extract_lets
    | split
    | dsimp only
    | dsimp +zetaDelta only

theorem vstOp_keeps {m_ : Nat} {s_ : State} (p : Site) (port : Nat) (vs : Nat) (single : Bool) (q : Nat) (s : State) (hm_ : (m_ ||| 0x10) = m_) (h_ : State.Keeps m_ s_ s) : State.Keeps m_ s_ (vstOp p port vs single q s) := by
  refine State.Keeps.step (m1 := 0x10) ?_ hm_ h_
  unfold vstOp
  repeat' first
    | (intro _)
    | (with_reducible exact State.Keeps.refl _ _)
    | (with_reducible assumption)
    | (with_reducible apply State.Keeps.ite)
    | (with_reducible apply State.onCell_keeps)
    | decide
    | extract_lets
    | split
    | dsimp only
    | dsimp +zetaDelta only

theorem tokOp_keeps {m_ : Nat} {s_ : State} (p : Site) (cval : Byte) (s : State) (hm_ : (m_ ||| 0x10) = m_) (h_ : State.Keeps m_ s_ s) : State.Keeps m_ s_ (tokOp p cval s) := by
  refine State.Keeps.step (m1 := 0x10) ?_ hm_ h_
  unfold tokOp
  repeat' first
    | (intro _)
    | (with_reducible exact State.Keeps.refl _ _)
    | (with_reducible assumption)
    | (with_reducible apply State.onCell_keeps)
    | (with_reducible apply State.Keeps.ofPair (by with_reducible assumption))
    | decide
    | split
    | dsimp only
    | dsimp +zetaDelta only

theorem State.stream_keeps {m_ : Nat} {s_ : State} (s : State) (p : Site) (buf : Nat) (slot : Nat) (hm_ : (m_ ||| 0x6A8F8) = m_) (h_ : State.Keeps m_ s_ s) : State.Keeps m_ s_ (State.stream s p buf slot) := by
  refine State.Keeps.step (m1 := 0x6A8F8) ?_ hm_ h_
  unfold State.stream
  repeat' first
    | (intro _)
    | (with_reducible exact State.Keeps.refl _ _)
    | (with_reducible assumption)
    | (with_reducible apply State.Keeps.ite)
    | (with_reducible apply State.cellFault_keeps)
    | (with_reducible apply State.onCell_keeps)
    | decide
    | extract_lets
    | split
    | dsimp only
    | dsimp +zetaDelta only

theorem obvOp_keeps {m_ : Nat} {s_ : State} (p : Site) (areg : Nat) (d : Nat) (vd : Nat) (s : State) (hm_ : (m_ ||| 0x6A8F8) = m_) (h_ : State.Keeps m_ s_ s) : State.Keeps m_ s_ (obvOp p areg d vd s) := by
  refine State.Keeps.step (m1 := 0x6A8F8) ?_ hm_ h_
  unfold obvOp
  repeat' first
    | (intro _)
    | (with_reducible exact State.Keeps.refl _ _)
    | (with_reducible assumption)
    | (with_reducible apply State.dueWrite_keeps)
    | (with_reducible apply State.stream_keeps)
    | decide
    | extract_lets
    | split
    | dsimp only
    | dsimp +zetaDelta only

theorem dscOp_keeps {m_ : Nat} {s_ : State} (p : Site) (port : Nat) (s : State) (hm_ : (m_ ||| 0x6A8F8) = m_) (h_ : State.Keeps m_ s_ s) : State.Keeps m_ s_ (dscOp p port s) := by
  refine State.Keeps.step (m1 := 0x6A8F8) ?_ hm_ h_
  unfold dscOp
  repeat' first
    | (intro _)
    | (with_reducible exact State.Keeps.refl _ _)
    | (with_reducible assumption)
    | (with_reducible apply State.take_keeps)
    | decide
    | split
    | dsimp only
    | dsimp +zetaDelta only

end Sys2Proof.Machine
end

