-- ==== Sys2Proof/Laws/FrameCellMatrix.lean ====
section
/-! SUPPORT. The frame of each operation of Machine/CellMatrix.lean: the blocks of the state that it may change (Laws/Keeps.lean). -/

set_option Elab.async false

namespace Sys2Proof.Machine

theorem mnopOp_keeps {m_ : Nat} {s_ : State} (_p : Site) (s : State) (hm_ : (m_ ||| 0x0) = m_) (h_ : State.Keeps m_ s_ s) : State.Keeps m_ s_ (mnopOp _p s) := by
  refine State.Keeps.step (m1 := 0x0) ?_ hm_ h_
  unfold mnopOp
  repeat' first
    | (intro _)
    | (with_reducible exact State.Keeps.refl _ _)
    | (with_reducible assumption)
    | decide
    | split
    | dsimp only
    | dsimp +zetaDelta only

theorem mmaOp_keeps {m_ : Nat} {s_ : State} (p : Site) (bank : Nat) (z : Nat) (fa : Nat) (fb : Nat) (aa : Nat) (da : Nat) (ab : Nat) (db : Nat) (s : State) (hm_ : (m_ ||| 0x6A8F8) = m_) (h_ : State.Keeps m_ s_ s) : State.Keeps m_ s_ (mmaOp p bank z fa fb aa da ab db s) := by
  refine State.Keeps.step (m1 := 0x6A8F8) ?_ hm_ h_
  unfold mmaOp
  repeat' first
    | (intro _)
    | (with_reducible exact State.Keeps.refl _ _)
    | (with_reducible assumption)
    | (with_reducible apply State.Keeps.ite)
    | (with_reducible apply State.cellFault_keeps)
    | (with_reducible apply State.onCell_keeps)
    | (with_reducible apply State.Keeps.ofPair (by with_reducible assumption))
    | decide
    | extract_lets
    | split
    | dsimp only
    | dsimp +zetaDelta only

theorem mrdOp_keeps {m_ : Nat} {s_ : State} (p : Site) (bank : Nat) (col : Nat) (ci : Bool) (vd : Nat) (zr : Bool) (s : State) (hm_ : (m_ ||| 0x6A8F8) = m_) (h_ : State.Keeps m_ s_ s) : State.Keeps m_ s_ (mrdOp p bank col ci vd zr s) := by
  refine State.Keeps.step (m1 := 0x6A8F8) ?_ hm_ h_
  unfold mrdOp
  repeat' first
    | (intro _)
    | (with_reducible exact State.Keeps.refl _ _)
    | (with_reducible assumption)
    | (with_reducible apply State.Keeps.ite)
    | (with_reducible apply State.dueWrite_keeps)
    | (with_reducible apply State.cellFault_keeps)
    | decide
    | extract_lets
    | split
    | dsimp only
    | dsimp +zetaDelta only

theorem mwrOp_keeps {m_ : Nat} {s_ : State} (p : Site) (bank : Nat) (col : Nat) (ci : Bool) (vs : Nat) (s : State) (hm_ : (m_ ||| 0x6A8F8) = m_) (h_ : State.Keeps m_ s_ s) : State.Keeps m_ s_ (mwrOp p bank col ci vs s) := by
  refine State.Keeps.step (m1 := 0x6A8F8) ?_ hm_ h_
  unfold mwrOp
  repeat' first
    | (intro _)
    | (with_reducible exact State.Keeps.refl _ _)
    | (with_reducible assumption)
    | (with_reducible apply State.Keeps.ite)
    | (with_reducible apply State.dueWrite_keeps)
    | (with_reducible apply State.cellFault_keeps)
    | decide
    | extract_lets
    | split
    | dsimp only
    | dsimp +zetaDelta only

theorem mzOp_keeps {m_ : Nat} {s_ : State} (p : Site) (bank : Nat) (s : State) (hm_ : (m_ ||| 0x6A8F8) = m_) (h_ : State.Keeps m_ s_ s) : State.Keeps m_ s_ (mzOp p bank s) := by
  refine State.Keeps.step (m1 := 0x6A8F8) ?_ hm_ h_
  unfold mzOp
  repeat' first
    | (intro _)
    | (with_reducible exact State.Keeps.refl _ _)
    | (with_reducible assumption)
    | (with_reducible apply State.Keeps.ite)
    | (with_reducible apply State.dueWrite_keeps)
    | (with_reducible apply State.cellFault_keeps)
    | decide
    | extract_lets
    | split
    | dsimp only
    | dsimp +zetaDelta only

theorem mrsOp_keeps {m_ : Nat} {s_ : State} (p : Site) (side : Nat) (areg : Nat) (d : Nat) (s : State) (hm_ : (m_ ||| 0x6A8F8) = m_) (h_ : State.Keeps m_ s_ s) : State.Keeps m_ s_ (mrsOp p side areg d s) := by
  refine State.Keeps.step (m1 := 0x6A8F8) ?_ hm_ h_
  unfold mrsOp
  repeat' first
    | (intro _)
    | (with_reducible exact State.Keeps.refl _ _)
    | (with_reducible assumption)
    | (with_reducible apply State.Keeps.ite)
    | (with_reducible apply State.dueWrite_keeps)
    | (with_reducible apply State.cellFault_keeps)
    | (with_reducible apply State.stream_keeps)
    | decide
    | extract_lets
    | split
    | dsimp only
    | dsimp +zetaDelta only

end Sys2Proof.Machine
end

