-- ==== Sys2Proof/Laws/FrameCellVector.lean ====
section
/-! SUPPORT. The frame of each operation of Machine/CellVector.lean: the blocks of the state that it may change (Laws/Keeps.lean). -/

set_option Elab.async false

namespace Sys2Proof.Machine

theorem State.vresult_keeps {m_ : Nat} {s_ : State} (s : State) (p : Site) (vd : Nat) (msk : Nat) (l : Nat) (v : BitVec 2048) (hm_ : (m_ ||| 0x10) = m_) (h_ : State.Keeps m_ s_ s) : State.Keeps m_ s_ (State.vresult s p vd msk l v) := by
  refine State.Keeps.step (m1 := 0x10) ?_ hm_ h_
  unfold State.vresult
  repeat' first
    | (intro _)
    | (with_reducible exact State.Keeps.refl _ _)
    | (with_reducible assumption)
    | (with_reducible apply State.dueWrite_keeps)
    | decide
    | split
    | dsimp only
    | dsimp +zetaDelta only

theorem State.mresult_keeps {m_ : Nat} {s_ : State} (s : State) (p : Site) (md : Nat) (v : BitVec 64) (sel : BitVec 64) (hm_ : (m_ ||| 0x10) = m_) (h_ : State.Keeps m_ s_ s) : State.Keeps m_ s_ (State.mresult s p md v sel) := by
  refine State.Keeps.step (m1 := 0x10) ?_ hm_ h_
  unfold State.mresult
  repeat' first
    | (intro _)
    | (with_reducible exact State.Keeps.refl _ _)
    | (with_reducible assumption)
    | (with_reducible apply State.Keeps.ite)
    | (with_reducible apply State.dueWrite_keeps)
    | decide
    | split
    | dsimp only
    | dsimp +zetaDelta only

theorem State.lanewise_keeps {m_ : Nat} {s_ : State} (s : State) (p : Site) (vd : Nat) (va : Nat) (vb : Nat) (msk : Nat) (neg : Bool) (f : Lane → Lane → Lane) (hm_ : (m_ ||| 0x10) = m_) (h_ : State.Keeps m_ s_ s) : State.Keeps m_ s_ (State.lanewise s p vd va vb msk neg f) := by
  refine State.Keeps.step (m1 := 0x10) ?_ hm_ h_
  unfold State.lanewise
  repeat' first
    | (intro _)
    | (with_reducible exact State.Keeps.refl _ _)
    | (with_reducible assumption)
    | (with_reducible apply State.vresult_keeps)
    | decide
    | extract_lets
    | split
    | dsimp only
    | dsimp +zetaDelta only

theorem vnopOp_keeps {m_ : Nat} {s_ : State} (_p : Site) (s : State) (hm_ : (m_ ||| 0x0) = m_) (h_ : State.Keeps m_ s_ s) : State.Keeps m_ s_ (vnopOp _p s) := by
  refine State.Keeps.step (m1 := 0x0) ?_ hm_ h_
  unfold vnopOp
  repeat' first
    | (intro _)
    | (with_reducible exact State.Keeps.refl _ _)
    | (with_reducible assumption)
    | decide
    | split
    | dsimp only
    | dsimp +zetaDelta only

theorem vaddOp_keeps {m_ : Nat} {s_ : State} (p : Site) (vd : Nat) (va : Nat) (vb : Nat) (msk : Nat) (neg : Bool) (s : State) (hm_ : (m_ ||| 0x10) = m_) (h_ : State.Keeps m_ s_ s) : State.Keeps m_ s_ (vaddOp p vd va vb msk neg s) := by
  refine State.Keeps.step (m1 := 0x10) ?_ hm_ h_
  unfold vaddOp
  repeat' first
    | (intro _)
    | (with_reducible exact State.Keeps.refl _ _)
    | (with_reducible assumption)
    | (with_reducible apply State.lanewise_keeps)
    | decide
    | split
    | dsimp only
    | dsimp +zetaDelta only

theorem vsubOp_keeps {m_ : Nat} {s_ : State} (p : Site) (vd : Nat) (va : Nat) (vb : Nat) (msk : Nat) (neg : Bool) (s : State) (hm_ : (m_ ||| 0x10) = m_) (h_ : State.Keeps m_ s_ s) : State.Keeps m_ s_ (vsubOp p vd va vb msk neg s) := by
  refine State.Keeps.step (m1 := 0x10) ?_ hm_ h_
  unfold vsubOp
  repeat' first
    | (intro _)
    | (with_reducible exact State.Keeps.refl _ _)
    | (with_reducible assumption)
    | (with_reducible apply State.lanewise_keeps)
    | decide
    | split
    | dsimp only
    | dsimp +zetaDelta only

theorem vmulOp_keeps {m_ : Nat} {s_ : State} (p : Site) (vd : Nat) (va : Nat) (vb : Nat) (msk : Nat) (neg : Bool) (s : State) (hm_ : (m_ ||| 0x10) = m_) (h_ : State.Keeps m_ s_ s) : State.Keeps m_ s_ (vmulOp p vd va vb msk neg s) := by
  refine State.Keeps.step (m1 := 0x10) ?_ hm_ h_
  unfold vmulOp
  repeat' first
    | (intro _)
    | (with_reducible exact State.Keeps.refl _ _)
    | (with_reducible assumption)
    | (with_reducible apply State.lanewise_keeps)
    | decide
    | split
    | dsimp only
    | dsimp +zetaDelta only

theorem vmaxOp_keeps {m_ : Nat} {s_ : State} (p : Site) (vd : Nat) (va : Nat) (vb : Nat) (msk : Nat) (neg : Bool) (s : State) (hm_ : (m_ ||| 0x10) = m_) (h_ : State.Keeps m_ s_ s) : State.Keeps m_ s_ (vmaxOp p vd va vb msk neg s) := by
  refine State.Keeps.step (m1 := 0x10) ?_ hm_ h_
  unfold vmaxOp
  repeat' first
    | (intro _)
    | (with_reducible exact State.Keeps.refl _ _)
    | (with_reducible assumption)
    | (with_reducible apply State.lanewise_keeps)
    | decide
    | split
    | dsimp only
    | dsimp +zetaDelta only

theorem vminOp_keeps {m_ : Nat} {s_ : State} (p : Site) (vd : Nat) (va : Nat) (vb : Nat) (msk : Nat) (neg : Bool) (s : State) (hm_ : (m_ ||| 0x10) = m_) (h_ : State.Keeps m_ s_ s) : State.Keeps m_ s_ (vminOp p vd va vb msk neg s) := by
  refine State.Keeps.step (m1 := 0x10) ?_ hm_ h_
  unfold vminOp
  repeat' first
    | (intro _)
    | (with_reducible exact State.Keeps.refl _ _)
    | (with_reducible assumption)
    | (with_reducible apply State.lanewise_keeps)
    | decide
    | split
    | dsimp only
    | dsimp +zetaDelta only

theorem vfmaOp_keeps {m_ : Nat} {s_ : State} (p : Site) (vd : Nat) (va : Nat) (vb : Nat) (vc : Nat) (msk : Nat) (neg : Bool) (s : State) (hm_ : (m_ ||| 0x10) = m_) (h_ : State.Keeps m_ s_ s) : State.Keeps m_ s_ (vfmaOp p vd va vb vc msk neg s) := by
  refine State.Keeps.step (m1 := 0x10) ?_ hm_ h_
  unfold vfmaOp
  repeat' first
    | (intro _)
    | (with_reducible exact State.Keeps.refl _ _)
    | (with_reducible assumption)
    | (with_reducible apply State.vresult_keeps)
    | decide
    | extract_lets
    | split
    | dsimp only
    | dsimp +zetaDelta only

theorem vselOp_keeps {m_ : Nat} {s_ : State} (p : Site) (vd : Nat) (va : Nat) (vb : Nat) (msk : Nat) (sel : Nat) (s : State) (hm_ : (m_ ||| 0x10) = m_) (h_ : State.Keeps m_ s_ s) : State.Keeps m_ s_ (vselOp p vd va vb msk sel s) := by
  refine State.Keeps.step (m1 := 0x10) ?_ hm_ h_
  unfold vselOp
  repeat' first
    | (intro _)
    | (with_reducible exact State.Keeps.refl _ _)
    | (with_reducible assumption)
    | (with_reducible apply State.vresult_keeps)
    | decide
    | split
    | dsimp only
    | dsimp +zetaDelta only

theorem vmovOp_keeps {m_ : Nat} {s_ : State} (p : Site) (vd : Nat) (va : Nat) (msk : Nat) (s : State) (hm_ : (m_ ||| 0x10) = m_) (h_ : State.Keeps m_ s_ s) : State.Keeps m_ s_ (vmovOp p vd va msk s) := by
  refine State.Keeps.step (m1 := 0x10) ?_ hm_ h_
  unfold vmovOp
  repeat' first
    | (intro _)
    | (with_reducible exact State.Keeps.refl _ _)
    | (with_reducible assumption)
    | (with_reducible apply State.vresult_keeps)
    | decide
    | split
    | dsimp only
    | dsimp +zetaDelta only

theorem vbcOp_keeps {m_ : Nat} {s_ : State} (p : Site) (vd : Nat) (cw : Nat) (msk : Nat) (s : State) (hm_ : (m_ ||| 0x10) = m_) (h_ : State.Keeps m_ s_ s) : State.Keeps m_ s_ (vbcOp p vd cw msk s) := by
  refine State.Keeps.step (m1 := 0x10) ?_ hm_ h_
  unfold vbcOp
  repeat' first
    | (intro _)
    | (with_reducible exact State.Keeps.refl _ _)
    | (with_reducible assumption)
    | (with_reducible apply State.vresult_keeps)
    | decide
    | split
    | dsimp only
    | dsimp +zetaDelta only

theorem vcmpOp_keeps {m_ : Nat} {s_ : State} (p : Site) (md : Nat) (va : Nat) (vb : Nat) (msk : Nat) (cond : Nat) (s : State) (hm_ : (m_ ||| 0x10) = m_) (h_ : State.Keeps m_ s_ s) : State.Keeps m_ s_ (vcmpOp p md va vb msk cond s) := by
  refine State.Keeps.step (m1 := 0x10) ?_ hm_ h_
  unfold vcmpOp
  repeat' first
    | (intro _)
    | (with_reducible exact State.Keeps.refl _ _)
    | (with_reducible assumption)
    | (with_reducible apply State.Keeps.ite)
    | (with_reducible apply State.mresult_keeps)
    | decide
    | extract_lets
    | split
    | dsimp only
    | dsimp +zetaDelta only

theorem vmskOp_keeps {m_ : Nat} {s_ : State} (p : Site) (md : Nat) (va : Nat) (vb : Nat) (msk : Nat) (op : Nat) (s : State) (hm_ : (m_ ||| 0x10) = m_) (h_ : State.Keeps m_ s_ s) : State.Keeps m_ s_ (vmskOp p md va vb msk op s) := by
  refine State.Keeps.step (m1 := 0x10) ?_ hm_ h_
  unfold vmskOp
  repeat' first
    | (intro _)
    | (with_reducible exact State.Keeps.refl _ _)
    | (with_reducible assumption)
    | (with_reducible apply State.mresult_keeps)
    | decide
    | extract_lets
    | split
    | dsimp only
    | dsimp +zetaDelta only

theorem vredOp_keeps {m_ : Nat} {s_ : State} (p : Site) (vd : Nat) (va : Nat) (msk : Nat) (fn : Nat) (s : State) (hm_ : (m_ ||| 0x10) = m_) (h_ : State.Keeps m_ s_ s) : State.Keeps m_ s_ (vredOp p vd va msk fn s) := by
  refine State.Keeps.step (m1 := 0x10) ?_ hm_ h_
  unfold vredOp
  repeat' first
    | (intro _)
    | (with_reducible exact State.Keeps.refl _ _)
    | (with_reducible assumption)
    | (with_reducible apply State.Keeps.ite)
    | (with_reducible apply State.vresult_keeps)
    | decide
    | extract_lets
    | split
    | dsimp only
    | dsimp +zetaDelta only

theorem vxfOp_keeps {m_ : Nat} {s_ : State} (p : Site) (vd : Nat) (va : Nat) (msk : Nat) (fn : Nat) (s : State) (hm_ : (m_ ||| 0x6A8F8) = m_) (h_ : State.Keeps m_ s_ s) : State.Keeps m_ s_ (vxfOp p vd va msk fn s) := by
  refine State.Keeps.step (m1 := 0x6A8F8) ?_ hm_ h_
  unfold vxfOp
  repeat' first
    | (intro _)
    | (with_reducible exact State.Keeps.refl _ _)
    | (with_reducible assumption)
    | (with_reducible apply State.Keeps.ite)
    | (with_reducible apply State.vresult_keeps)
    | (with_reducible apply State.siteFault_keeps)
    | (with_reducible apply State.spend_keeps)
    | (with_reducible apply State.onCell_keeps)
    | (with_reducible apply State.Keeps.foldl)
    | (with_reducible apply State.Keeps.foldlFst)
    | decide
    | extract_lets
    | split
    | dsimp only
    | dsimp +zetaDelta only

theorem vcvtOp_keeps {m_ : Nat} {s_ : State} (p : Site) (vd : Nat) (va : Nat) (vb : Nat) (msk : Nat) (fn : Nat) (sr : Bool) (s : State) (hm_ : (m_ ||| 0x10) = m_) (h_ : State.Keeps m_ s_ s) : State.Keeps m_ s_ (vcvtOp p vd va vb msk fn sr s) := by
  refine State.Keeps.step (m1 := 0x10) ?_ hm_ h_
  unfold vcvtOp
  repeat' first
    | (intro _)
    | (with_reducible exact State.Keeps.refl _ _)
    | (with_reducible assumption)
    | (with_reducible apply State.Keeps.ite)
    | (with_reducible apply State.vresult_keeps)
    | (with_reducible apply State.onCell_keeps)
    | (with_reducible apply State.Keeps.ofPair (by with_reducible assumption))
    | decide
    | extract_lets
    | split
    | dsimp only
    | dsimp +zetaDelta only

end Sys2Proof.Machine
end

