-- ==== Sys2Proof/Laws/FrameCellDecode.lean ====
section
/-! SUPPORT. The frame of each operation of Machine/CellDecode.lean: the blocks of the state that it may change (Laws/Keeps.lean). -/

set_option Elab.async false

namespace Sys2Proof.Machine

theorem State.runCt_keeps {m_ : Nat} {s_ : State} (s : State) (p : Site) (w : Nat) (hm_ : (m_ ||| 0x6A8F8) = m_) (h_ : State.Keeps m_ s_ s) : State.Keeps m_ s_ (State.runCt s p w) := by
  refine State.Keeps.step (m1 := 0x6A8F8) ?_ hm_ h_
  unfold State.runCt
  repeat' first
    | (intro _)
    | (with_reducible exact State.Keeps.refl _ _)
    | (with_reducible assumption)
    | (with_reducible apply epsOp_keeps)
    | (with_reducible apply trapOp_keeps)
    | (with_reducible apply fallOp_keeps)
    | (with_reducible apply fanyOp_keeps)
    | (with_reducible apply ctNopOp_keeps)
    | (with_reducible apply epxOp_keeps)
    | (with_reducible apply fsetOp_keeps)
    | decide
    | extract_lets
    | split
    | dsimp only
    | dsimp +zetaDelta only

theorem State.runMv_keeps {m_ : Nat} {s_ : State} (s : State) (p : Site) (w : Nat) (hm_ : (m_ ||| 0x6A8F8) = m_) (h_ : State.Keeps m_ s_ s) : State.Keeps m_ s_ (State.runMv s p w) := by
  refine State.Keeps.step (m1 := 0x6A8F8) ?_ hm_ h_
  unfold State.runMv
  repeat' first
    | (intro _)
    | (with_reducible exact State.Keeps.refl _ _)
    | (with_reducible assumption)
    | (with_reducible apply obvOp_keeps)
    | (with_reducible apply filOp_keeps)
    | (with_reducible apply tokOp_keeps)
    | (with_reducible apply vstOp_keeps)
    | (with_reducible apply mvNopOp_keeps)
    | (with_reducible apply dscOp_keeps)
    | (with_reducible apply vldOp_keeps)
    | decide
    | split
    | dsimp only
    | dsimp +zetaDelta only

theorem State.runVx_keeps {m_ : Nat} {s_ : State} (s : State) (p : Site) (w : Nat) (hm_ : (m_ ||| 0x6A8F8) = m_) (h_ : State.Keeps m_ s_ s) : State.Keeps m_ s_ (State.runVx s p w) := by
  refine State.Keeps.step (m1 := 0x6A8F8) ?_ hm_ h_
  unfold State.runVx
  repeat' first
    | (intro _)
    | (with_reducible exact State.Keeps.refl _ _)
    | (with_reducible assumption)
    | (with_reducible apply vfmaOp_keeps)
    | (with_reducible apply vsubOp_keeps)
    | (with_reducible apply vmaxOp_keeps)
    | (with_reducible apply vnopOp_keeps)
    | (with_reducible apply vaddOp_keeps)
    | (with_reducible apply vxfOp_keeps)
    | (with_reducible apply vmulOp_keeps)
    | (with_reducible apply vcmpOp_keeps)
    | (with_reducible apply vmovOp_keeps)
    | (with_reducible apply vmskOp_keeps)
    | (with_reducible apply vminOp_keeps)
    | (with_reducible apply vbcOp_keeps)
    | (with_reducible apply vcvtOp_keeps)
    | (with_reducible apply vselOp_keeps)
    | (with_reducible apply vredOp_keeps)
    | decide
    | extract_lets
    | split
    | dsimp only
    | dsimp +zetaDelta only

theorem State.runMx_keeps {m_ : Nat} {s_ : State} (s : State) (p : Site) (w : Nat) (hm_ : (m_ ||| 0x6A8F8) = m_) (h_ : State.Keeps m_ s_ s) : State.Keeps m_ s_ (State.runMx s p w) := by
  refine State.Keeps.step (m1 := 0x6A8F8) ?_ hm_ h_
  unfold State.runMx
  repeat' first
    | (intro _)
    | (with_reducible exact State.Keeps.refl _ _)
    | (with_reducible assumption)
    | (with_reducible apply mrsOp_keeps)
    | (with_reducible apply mmaOp_keeps)
    | (with_reducible apply mrdOp_keeps)
    | (with_reducible apply mwrOp_keeps)
    | (with_reducible apply mzOp_keeps)
    | (with_reducible apply mnopOp_keeps)
    | decide
    | extract_lets
    | split
    | dsimp only
    | dsimp +zetaDelta only

theorem State.issueCell_keeps {m_ : Nat} {s_ : State} (s : State) (p : Site) (c : Nat) (hm_ : (m_ ||| 0x6A8F8) = m_) (h_ : State.Keeps m_ s_ s) : State.Keeps m_ s_ (State.issueCell s p c) := by
  refine State.Keeps.step (m1 := 0x6A8F8) ?_ hm_ h_
  unfold State.issueCell
  repeat' first
    | (intro _)
    | (with_reducible exact State.Keeps.refl _ _)
    | (with_reducible assumption)
    | (with_reducible apply State.Keeps.ite)
    | (with_reducible apply State.runVx_keeps)
    | (with_reducible apply State.runMv_keeps)
    | (with_reducible apply State.runCt_keeps)
    | (with_reducible apply State.onCell_keeps)
    | (with_reducible apply State.runMx_keeps)
    | decide
    | extract_lets
    | split
    | dsimp only
    | dsimp +zetaDelta only

end Sys2Proof.Machine
end

