-- ==== Sys2Proof/Laws/FrameCommands.lean ====
section
/-! SUPPORT. The frame of each operation of Machine/Commands.lean: the blocks of the state that it may change (Laws/Keeps.lean). -/

set_option Elab.async false

namespace Sys2Proof.Machine

theorem State.onRing_keeps {m_ : Nat} {s_ : State} (s : State) (n : Nat) (f : CmdRing → CmdRing) (hm_ : (m_ ||| 0x2000) = m_) (h_ : State.Keeps m_ s_ s) : State.Keeps m_ s_ (State.onRing s n f) := by
  refine State.Keeps.step (m1 := 0x2000) ?_ hm_ h_
  unfold State.onRing
  repeat' first
    | (intro _)
    | (with_reducible exact State.Keeps.refl _ _)
    | (with_reducible assumption)
    | (with_reducible apply State.onHost_keeps)
    | decide
    | split
    | dsimp only
    | dsimp +zetaDelta only

theorem State.receiveSlots_keeps {m_ : Nat} {s_ : State} (s : State) (n : Nat) (y0 : Nat) (hm_ : (m_ ||| 0x2A000) = m_) (h_ : State.Keeps m_ s_ s) : State.Keeps m_ s_ (State.receiveSlots s n y0) := by
  induction y0 generalizing s with
  | zero =>
    unfold State.receiveSlots
    repeat' first
      | (intro _)
      | (with_reducible exact State.Keeps.refl _ _)
      | (with_reducible assumption)
      | (with_reducible apply ih_)
      | (with_reducible apply State.Keeps.ite)
      | (with_reducible apply State.refuse_keeps)
      | (with_reducible apply State.onRing_keeps)
      | (with_reducible apply State.count_keeps)
      | (with_reducible apply State.Keeps.ofPair (by with_reducible assumption))
      | exact State.Keeps.sub hm_ (by decide)
      | exact State.Keeps.bit hm_ (by decide)
      | extract_lets
      | split
      | dsimp only
      | dsimp +zetaDelta only
  | succ k_ ih_ =>
    unfold State.receiveSlots
    repeat' first
      | (intro _)
      | (with_reducible exact State.Keeps.refl _ _)
      | (with_reducible assumption)
      | (with_reducible apply ih_)
      | (with_reducible apply State.Keeps.ite)
      | (with_reducible apply State.refuse_keeps)
      | (with_reducible apply State.onRing_keeps)
      | (with_reducible apply State.count_keeps)
      | (with_reducible apply State.Keeps.ofPair (by with_reducible assumption))
      | exact State.Keeps.sub hm_ (by decide)
      | exact State.Keeps.bit hm_ (by decide)
      | extract_lets
      | split
      | dsimp only
      | dsimp +zetaDelta only

theorem State.taken_keeps {m_ : Nat} {s_ : State} (s : State) (c : HostCmd) (op : Nat) (hm_ : (m_ ||| 0x2A000) = m_) (h_ : State.Keeps m_ s_ s) : State.Keeps m_ s_ (State.taken s c op) := by
  refine State.Keeps.step (m1 := 0x2A000) ?_ hm_ h_
  unfold State.taken
  repeat' first
    | (intro _)
    | (with_reducible exact State.Keeps.refl _ _)
    | (with_reducible assumption)
    | (with_reducible apply State.Keeps.ite)
    | (with_reducible apply State.onRing_keeps)
    | (with_reducible apply State.receiveSlots_keeps)
    | (with_reducible apply State.Keeps.ofPair (by with_reducible assumption))
    | decide
    | split
    | dsimp only
    | dsimp +zetaDelta only

theorem State.refuseFreeGlove_keeps {m_ : Nat} {s_ : State} (s : State) (c : HostCmd) (g : Nat) (hm_ : (m_ ||| 0x2A000) = m_) (h_ : State.Keeps m_ s_ s) : State.Keeps m_ s_ (State.refuseFreeGlove s c g) := by
  refine State.Keeps.step (m1 := 0x2A000) ?_ hm_ h_
  unfold State.refuseFreeGlove
  repeat' first
    | (intro _)
    | (with_reducible exact State.Keeps.refl _ _)
    | (with_reducible assumption)
    | (with_reducible apply State.refuseState_keeps)
    | decide
    | split
    | dsimp only
    | dsimp +zetaDelta only

theorem State.command_keeps {m_ : Nat} {s_ : State} (s : State) (c : HostCmd) (row : CmdRow) (f : HostCmd → State → State) (hm_ : (m_ ||| 0x2A000) = m_) (h_ : State.Keeps m_ s_ s) (hf_ : ∀ d u, State.Keeps m_ s_ u → State.Keeps m_ s_ (f d u)) : State.Keeps m_ s_ (State.command s c row f) := by
  unfold State.command
  repeat' first
    | (intro _)
    | (with_reducible exact State.Keeps.refl _ _)
    | (with_reducible assumption)
    | (with_reducible apply hf_)
    | (with_reducible apply State.Keeps.ite)
    | (with_reducible apply State.taken_keeps)
    | (with_reducible apply State.refuse_keeps)
    | (with_reducible apply State.refuseModule_keeps)
    | (with_reducible apply State.refuseFreeGlove_keeps)
    | exact State.Keeps.sub hm_ (by decide)
    | exact State.Keeps.bit hm_ (by decide)
    | extract_lets
    | split
    | dsimp only
    | dsimp +zetaDelta only

end Sys2Proof.Machine
end

