-- ==== Sys2Proof/Laws/FrameCap.lean ====
section
/-! SUPPORT. The frame of each operation of Machine/Cap.lean: the blocks of the state that it may change (Laws/Keeps.lean). -/

set_option Elab.async false

namespace Sys2Proof.Machine

theorem State.logOp_keeps {m_ : Nat} {s_ : State} (s : State) (op : Nat) (obj : Nat) (idx : Nat) (glove : Nat) (hm_ : (m_ ||| 0x8000) = m_) (h_ : State.Keeps m_ s_ s) : State.Keeps m_ s_ (State.logOp s op obj idx glove) := by
  refine State.Keeps.step (m1 := 0x8000) ?_ hm_ h_
  unfold State.logOp
  repeat' first
    | (intro _)
    | (with_reducible exact State.Keeps.refl _ _)
    | (with_reducible assumption)
    | (with_reducible apply State.logEntry_keeps)
    | decide
    | split
    | dsimp only
    | dsimp +zetaDelta only

theorem State.sendReport_keeps {m_ : Nat} {s_ : State} (s : State) (hm_ : (m_ ||| 0x28000) = m_) (h_ : State.Keeps m_ s_ s) : State.Keeps m_ s_ (State.sendReport s).1 := by
  refine State.Keeps.step (m1 := 0x28000) ?_ hm_ h_
  unfold State.sendReport
  repeat' first
    | (intro _)
    | (with_reducible exact State.Keeps.refl _ _)
    | (with_reducible assumption)
    | (with_reducible apply State.logOp_keeps)
    | (with_reducible apply State.emit_keeps)
    | decide
    | split
    | dsimp only
    | dsimp +zetaDelta only

end Sys2Proof.Machine
end

