-- ==== Sys2Proof/Laws/FrameArray.lean ====
section
/-! SUPPORT. The frame of each operation of Machine/Array.lean: the blocks of the state that it may change (Laws/Keeps.lean). -/

set_option Elab.async false

namespace Sys2Proof.Machine

theorem State.onRepair_keeps {m_ : Nat} {s_ : State} (s : State) (die : Nat) (row : Nat) (f : RowRepair → RowRepair) (hm_ : (m_ ||| 0x10) = m_) (h_ : State.Keeps m_ s_ s) : State.Keeps m_ s_ (State.onRepair s die row f) := by
  refine State.Keeps.step (m1 := 0x10) ?_ hm_ h_
  unfold State.onRepair
  repeat' first
    | (intro _)
    | (with_reducible exact State.Keeps.refl _ _)
    | (with_reducible assumption)
    | (with_reducible apply State.onArr_keeps)
    | decide
    | split
    | dsimp only
    | dsimp +zetaDelta only

theorem State.clearWait_keeps {m_ : Nat} {s_ : State} (s : State) (die : Nat) (row : Nat) (k : Kind) (hm_ : (m_ ||| 0x10) = m_) (h_ : State.Keeps m_ s_ s) : State.Keeps m_ s_ (State.clearWait s die row k) := by
  refine State.Keeps.step (m1 := 0x10) ?_ hm_ h_
  unfold State.clearWait
  repeat' first
    | (intro _)
    | (with_reducible exact State.Keeps.refl _ _)
    | (with_reducible assumption)
    | (with_reducible apply State.onRepair_keeps)
    | decide
    | split
    | dsimp only
    | dsimp +zetaDelta only

theorem State.endWait_keeps {m_ : Nat} {s_ : State} (s : State) (p : Nat) (hm_ : (m_ ||| 0x10) = m_) (h_ : State.Keeps m_ s_ s) : State.Keeps m_ s_ (State.endWait s p) := by
  refine State.Keeps.step (m1 := 0x10) ?_ hm_ h_
  unfold State.endWait
  repeat' first
    | (intro _)
    | (with_reducible exact State.Keeps.refl _ _)
    | (with_reducible assumption)
    | (with_reducible apply State.Keeps.ite)
    | (with_reducible apply State.freePalm_keeps)
    | (with_reducible apply State.Keeps.ofPair (by with_reducible assumption))
    | decide
    | split
    | dsimp only
    | dsimp +zetaDelta only

theorem State.formChain_keeps {m_ : Nat} {s_ : State} (s : State) (die : Nat) (row : Nat) (k : Kind) (f : Nat) (service : Bool) (hm_ : (m_ ||| 0x8010) = m_) (h_ : State.Keeps m_ s_ s) : State.Keeps m_ s_ (State.formChain s die row k f service) := by
  refine State.Keeps.step (m1 := 0x8010) ?_ hm_ h_
  unfold State.formChain
  repeat' first
    | (intro _)
    | (with_reducible exact State.Keeps.refl _ _)
    | (with_reducible assumption)
    | (with_reducible apply State.Keeps.ite)
    | (with_reducible apply State.endWait_keeps)
    | (with_reducible apply State.onRepair_keeps)
    | (with_reducible apply State.clearWait_keeps)
    | (with_reducible apply State.raise_keeps)
    | decide
    | extract_lets
    | split
    | dsimp only
    | dsimp +zetaDelta only

theorem State.failCell_keeps {m_ : Nat} {s_ : State} (s : State) (die : Nat) (row : Nat) (k : Kind) (f : Nat) (service : Bool) (hm_ : (m_ ||| 0x6A8F0) = m_) (h_ : State.Keeps m_ s_ s) : State.Keeps m_ s_ (State.failCell s die row k f service) := by
  refine State.Keeps.step (m1 := 0x6A8F0) ?_ hm_ h_
  unfold State.failCell
  repeat' first
    | (intro _)
    | (with_reducible exact State.Keeps.refl _ _)
    | (with_reducible assumption)
    | (with_reducible apply State.Keeps.ite)
    | (with_reducible apply State.onRepair_keeps)
    | (with_reducible apply State.formChain_keeps)
    | (with_reducible apply State.fencePalm_keeps)
    | decide
    | extract_lets
    | split
    | dsimp only
    | dsimp +zetaDelta only

theorem State.failSpare_keeps {m_ : Nat} {s_ : State} (s : State) (die : Nat) (row : Nat) (k : Kind) (hm_ : (m_ ||| 0x6A8F0) = m_) (h_ : State.Keeps m_ s_ s) : State.Keeps m_ s_ (State.failSpare s die row k) := by
  refine State.Keeps.step (m1 := 0x6A8F0) ?_ hm_ h_
  unfold State.failSpare
  repeat' first
    | (intro _)
    | (with_reducible exact State.Keeps.refl _ _)
    | (with_reducible assumption)
    | (with_reducible apply State.Keeps.ite)
    | (with_reducible apply State.endWait_keeps)
    | (with_reducible apply State.onRepair_keeps)
    | (with_reducible apply State.clearWait_keeps)
    | (with_reducible apply State.fencePalm_keeps)
    | decide
    | extract_lets
    | split
    | dsimp only
    | dsimp +zetaDelta only

theorem State.enterFault_keeps {m_ : Nat} {s_ : State} (s : State) (cause : Nat) (hm_ : (m_ ||| 0x2C0A4) = m_) (h_ : State.Keeps m_ s_ s) : State.Keeps m_ s_ (State.enterFault s cause) := by
  refine State.Keeps.step (m1 := 0x2C0A4) ?_ hm_ h_
  unfold State.enterFault
  repeat' first
    | (intro _)
    | (with_reducible exact State.Keeps.refl _ _)
    | (with_reducible assumption)
    | (with_reducible apply State.Keeps.ite)
    | (with_reducible apply State.onAos_keeps)
    | (with_reducible apply State.stopPattern_keeps)
    | (with_reducible apply State.sendReport_keeps)
    | (with_reducible apply State.errClass_keeps)
    | (with_reducible apply State.toMode_keeps)
    | (with_reducible apply State.alert_keeps)
    | (with_reducible apply State.onGlv_keeps)
    | (with_reducible apply State.Keeps.foldl)
    | (with_reducible apply State.Keeps.foldlFst)
    | (with_reducible apply State.Keeps.ofPair (by with_reducible assumption))
    | decide
    | extract_lets
    | split
    | dsimp only
    | dsimp +zetaDelta only

theorem State.judgeFault_keeps {m_ : Nat} {s_ : State} (s : State) (hm_ : (m_ ||| 0x2C0A4) = m_) (h_ : State.Keeps m_ s_ s) : State.Keeps m_ s_ (State.judgeFault s) := by
  refine State.Keeps.step (m1 := 0x2C0A4) ?_ hm_ h_
  unfold State.judgeFault
  repeat' first
    | (intro _)
    | (with_reducible exact State.Keeps.refl _ _)
    | (with_reducible assumption)
    | (with_reducible apply State.Keeps.ite)
    | (with_reducible apply State.enterFault_keeps)
    | decide
    | split
    | dsimp only
    | dsimp +zetaDelta only

theorem State.takeSystem_keeps {m_ : Nat} {s_ : State} (s : State) (hm_ : (m_ ||| 0x40) = m_) (h_ : State.Keeps m_ s_ s) : State.Keeps.OptS m_ s_ (State.takeSystem s) := by
  unfold State.takeSystem
  repeat' first
    | (intro _)
    | (with_reducible exact State.Keeps.refl _ _)
    | (with_reducible assumption)
    | (with_reducible apply State.onMem_keeps)
    | (with_reducible apply State.onFrame_keeps)
    | (with_reducible apply State.Keeps.ofPair (by with_reducible assumption))
    | (with_reducible exact State.Keeps.optS_none)
    | (with_reducible apply State.Keeps.optS_some)
    | (with_reducible exact State.Keeps.optP_none)
    | (with_reducible apply State.Keeps.optP_some)
    | (with_reducible exact State.Keeps.exS_error)
    | (with_reducible apply State.Keeps.exS_ok)
    | exact State.Keeps.sub hm_ (by decide)
    | exact State.Keeps.bit hm_ (by decide)
    | split
    | dsimp only
    | dsimp +zetaDelta only

theorem State.takePairs_keeps {m_ : Nat} {s_ : State} (s : State) (y0 : Nat) (hm_ : (m_ ||| 0x40) = m_) (h_ : State.Keeps m_ s_ s) : State.Keeps.OptS m_ s_ (State.takePairs s y0) := by
  induction y0 generalizing s with
  | zero =>
    unfold State.takePairs
    repeat' first
      | (intro _)
      | (with_reducible exact State.Keeps.refl _ _)
      | (with_reducible assumption)
      | (with_reducible apply ih_)
      | (with_reducible apply State.takeSystem_keeps)
      | (with_reducible exact State.Keeps.optS_none)
      | (with_reducible apply State.Keeps.optS_some)
      | (with_reducible exact State.Keeps.optP_none)
      | (with_reducible apply State.Keeps.optP_some)
      | (with_reducible exact State.Keeps.exS_error)
      | (with_reducible apply State.Keeps.exS_ok)
      | (with_reducible apply State.Keeps.ofOptS (by with_reducible assumption))
      | exact State.Keeps.sub hm_ (by decide)
      | exact State.Keeps.bit hm_ (by decide)
      | split
      | dsimp only
      | dsimp +zetaDelta only
  | succ k_ ih_ =>
    unfold State.takePairs
    repeat' first
      | (intro _)
      | (with_reducible exact State.Keeps.refl _ _)
      | (with_reducible assumption)
      | (with_reducible apply ih_)
      | (with_reducible apply State.takeSystem_keeps)
      | (with_reducible exact State.Keeps.optS_none)
      | (with_reducible apply State.Keeps.optS_some)
      | (with_reducible exact State.Keeps.optP_none)
      | (with_reducible apply State.Keeps.optP_some)
      | (with_reducible exact State.Keeps.exS_error)
      | (with_reducible apply State.Keeps.exS_ok)
      | (with_reducible apply State.Keeps.ofOptS (by with_reducible assumption))
      | exact State.Keeps.sub hm_ (by decide)
      | exact State.Keeps.bit hm_ (by decide)
      | split
      | dsimp only
      | dsimp +zetaDelta only

theorem State.takeEngineFrames_keeps {m_ : Nat} {s_ : State} (s : State) (hm_ : (m_ ||| 0x40) = m_) (h_ : State.Keeps m_ s_ s) : State.Keeps m_ s_ (State.takeEngineFrames s) := by
  refine State.Keeps.step (m1 := 0x40) ?_ hm_ h_
  unfold State.takeEngineFrames
  have hk := State.takePairs_keeps (m_ := 0x40) s (s.engineNeed - s.mem.sysFrames / 2) (by decide) (State.Keeps.refl _ s)
  revert hk
  generalize s.takePairs (s.engineNeed - s.mem.sysFrames / 2) = o_
  intro hk
  cases o_ with
  | none => exact State.Keeps.refl _ s
  | some t => exact State.onMem_keeps t _ (by decide) (hk.keeps t rfl)

theorem State.takePoolFrames_keeps {m_ : Nat} {s_ : State} (s : State) (hm_ : (m_ ||| 0x840) = m_) (h_ : State.Keeps m_ s_ s) : State.Keeps m_ s_ (State.takePoolFrames s) := by
  refine State.Keeps.step (m1 := 0x840) ?_ hm_ h_
  unfold State.takePoolFrames
  have hk := State.takePairs_keeps (m_ := 0x840) s (poolNeed s.stw.pool - s.stw.poolPairs) (by decide) (State.Keeps.refl _ s)
  revert hk
  generalize s.takePairs (poolNeed s.stw.pool - s.stw.poolPairs) = o_
  intro hk
  cases o_ with
  | none => exact State.Keeps.refl _ s
  | some t => exact State.onStw_keeps t _ (by decide) (hk.keeps t rfl)

theorem State.takeBringFrames_keeps {m_ : Nat} {s_ : State} (s : State) (hm_ : (m_ ||| 0x840) = m_) (h_ : State.Keeps m_ s_ s) : State.Keeps m_ s_ (State.takeBringFrames s) := by
  refine State.Keeps.step (m1 := 0x840) ?_ hm_ h_
  unfold State.takeBringFrames
  repeat' first
    | (intro _)
    | (with_reducible exact State.Keeps.refl _ _)
    | (with_reducible assumption)
    | (with_reducible apply State.takeEngineFrames_keeps)
    | (with_reducible apply State.takePoolFrames_keeps)
    | decide
    | split
    | dsimp only
    | dsimp +zetaDelta only

theorem State.givePairs_keeps {m_ : Nat} {s_ : State} (s : State) (n : Nat) (hm_ : (m_ ||| 0x40) = m_) (h_ : State.Keeps m_ s_ s) : State.Keeps m_ s_ (State.givePairs s n) := by
  refine State.Keeps.step (m1 := 0x40) ?_ hm_ h_
  unfold State.givePairs
  repeat' first
    | (intro _)
    | (with_reducible exact State.Keeps.refl _ _)
    | (with_reducible assumption)
    | (with_reducible apply State.onMem_keeps)
    | (with_reducible apply State.onFrame_keeps)
    | (with_reducible apply State.Keeps.foldl)
    | (with_reducible apply State.Keeps.foldlFst)
    | decide
    | extract_lets
    | split
    | dsimp only
    | dsimp +zetaDelta only

theorem State.restoreCopies_keeps {m_ : Nat} {s_ : State} (s : State) (hm_ : (m_ ||| 0x40) = m_) (h_ : State.Keeps m_ s_ s) : State.Keeps m_ s_ (State.restoreCopies s) := by
  refine State.Keeps.step (m1 := 0x40) ?_ hm_ h_
  unfold State.restoreCopies
  repeat' first
    | (intro _)
    | (with_reducible exact State.Keeps.refl _ _)
    | (with_reducible assumption)
    | (with_reducible apply State.Keeps.ite)
    | (with_reducible apply State.onMem_keeps)
    | (with_reducible apply State.onFrame_keeps)
    | (with_reducible apply State.Keeps.foldl)
    | (with_reducible apply State.Keeps.foldlFst)
    | decide
    | extract_lets
    | split
    | dsimp only
    | dsimp +zetaDelta only

theorem State.loseSystem_keeps {m_ : Nat} {s_ : State} (s : State) (f : Nat) (hm_ : (m_ ||| 0x2C0E4) = m_) (h_ : State.Keeps m_ s_ s) : State.Keeps m_ s_ (State.loseSystem s f) := by
  refine State.Keeps.step (m1 := 0x2C0E4) ?_ hm_ h_
  unfold State.loseSystem
  repeat' first
    | (intro _)
    | (with_reducible exact State.Keeps.refl _ _)
    | (with_reducible assumption)
    | (with_reducible apply State.Keeps.ite)
    | (with_reducible apply State.restoreCopies_keeps)
    | (with_reducible apply State.errClass_keeps)
    | (with_reducible apply State.enterFault_keeps)
    | (with_reducible apply State.onMem_keeps)
    | (with_reducible apply State.onFrame_keeps)
    | decide
    | extract_lets
    | split
    | dsimp only
    | dsimp +zetaDelta only

theorem State.losePages_keeps {m_ : Nat} {s_ : State} (s : State) (fs : List Nat) (hm_ : (m_ ||| 0x2A840) = m_) (h_ : State.Keeps m_ s_ s) : State.Keeps m_ s_ (State.losePages s fs) := by
  refine State.Keeps.step (m1 := 0x2A840) ?_ hm_ h_
  unfold State.losePages
  repeat' first
    | (intro _)
    | (with_reducible exact State.Keeps.refl _ _)
    | (with_reducible assumption)
    | (with_reducible apply State.loseSeq_keeps)
    | (with_reducible apply State.removeNode_keeps)
    | (with_reducible apply State.Keeps.foldl)
    | (with_reducible apply State.Keeps.foldlFst)
    | decide
    | extract_lets
    | split
    | dsimp only
    | dsimp +zetaDelta only

theorem State.remapFrame_keeps {m_ : Nat} {s_ : State} (s : State) (f : Nat) (b : Nat) (hm_ : (m_ ||| 0x40) = m_) (h_ : State.Keeps m_ s_ s) : State.Keeps m_ s_ (State.remapFrame s f b) := by
  refine State.Keeps.step (m1 := 0x40) ?_ hm_ h_
  unfold State.remapFrame
  repeat' first
    | (intro _)
    | (with_reducible exact State.Keeps.refl _ _)
    | (with_reducible assumption)
    | (with_reducible apply State.onFrame_keeps)
    | decide
    | extract_lets
    | split
    | dsimp only
    | dsimp +zetaDelta only

theorem State.rebuildModel_keeps {m_ : Nat} {s_ : State} (s : State) (m : Nat) (hm_ : (m_ ||| 0x840) = m_) (h_ : State.Keeps m_ s_ s) : State.Keeps m_ s_ (State.rebuildModel s m) := by
  refine State.Keeps.step (m1 := 0x840) ?_ hm_ h_
  unfold State.rebuildModel
  repeat' first
    | (intro _)
    | (with_reducible exact State.Keeps.refl _ _)
    | (with_reducible assumption)
    | (with_reducible apply State.Keeps.ite)
    | (with_reducible apply State.onModel_keeps)
    | (with_reducible apply State.cuffClose_keeps)
    | (with_reducible apply State.replCopies_keeps)
    | (with_reducible apply State.remapFrame_keeps)
    | (with_reducible apply State.Keeps.foldl)
    | (with_reducible apply State.Keeps.foldlFst)
    | decide
    | extract_lets
    | split
    | dsimp only
    | dsimp +zetaDelta only

theorem State.loseWeights_keeps {m_ : Nat} {s_ : State} (s : State) (m : Nat) (fs : List Nat) (hm_ : (m_ ||| 0x840) = m_) (h_ : State.Keeps m_ s_ s) : State.Keeps m_ s_ (State.loseWeights s m fs) := by
  refine State.Keeps.step (m1 := 0x840) ?_ hm_ h_
  unfold State.loseWeights
  repeat' first
    | (intro _)
    | (with_reducible exact State.Keeps.refl _ _)
    | (with_reducible assumption)
    | (with_reducible apply State.rebuildModel_keeps)
    | (with_reducible apply State.onModel_keeps)
    | decide
    | extract_lets
    | split
    | dsimp only
    | dsimp +zetaDelta only

theorem State.framesFreed_keeps {m_ : Nat} {s_ : State} (s : State) (hm_ : (m_ ||| 0x840) = m_) (h_ : State.Keeps m_ s_ s) : State.Keeps m_ s_ (State.framesFreed s) := by
  refine State.Keeps.step (m1 := 0x840) ?_ hm_ h_
  unfold State.framesFreed
  repeat' first
    | (intro _)
    | (with_reducible exact State.Keeps.refl _ _)
    | (with_reducible assumption)
    | (with_reducible apply State.restoreCopies_keeps)
    | (with_reducible apply State.rebuildModel_keeps)
    | (with_reducible apply State.Keeps.foldl)
    | (with_reducible apply State.Keeps.foldlFst)
    | decide
    | extract_lets
    | split
    | dsimp only
    | dsimp +zetaDelta only

theorem State.retireStack_keeps {m_ : Nat} {s_ : State} (s : State) (n : Nat) (hm_ : (m_ ||| 0x6E8F4) = m_) (h_ : State.Keeps m_ s_ s) : State.Keeps m_ s_ (State.retireStack s n) := by
  refine State.Keeps.step (m1 := 0x6E8F4) ?_ hm_ h_
  unfold State.retireStack
  repeat' first
    | (intro _)
    | (with_reducible exact State.Keeps.refl _ _)
    | (with_reducible assumption)
    | (with_reducible apply State.Keeps.ite)
    | (with_reducible apply State.losePages_keeps)
    | (with_reducible apply State.judgeMod_keeps)
    | (with_reducible apply State.onStack_keeps)
    | (with_reducible apply State.dropKvFrame_keeps)
    | (with_reducible apply State.loseSystem_keeps)
    | (with_reducible apply State.loseWeights_keeps)
    | (with_reducible apply State.beginReset_keeps)
    | (with_reducible apply State.fenceCount_keeps)
    | (with_reducible apply State.onFrame_keeps)
    | (with_reducible apply State.Keeps.foldl)
    | (with_reducible apply State.Keeps.foldlFst)
    | (with_reducible apply State.Keeps.ofPair (by with_reducible assumption))
    | decide
    | extract_lets
    | split
    | dsimp only
    | dsimp +zetaDelta only

theorem State.fenceLink_keeps {m_ : Nat} {s_ : State} (s : State) (l : Nat) (hm_ : (m_ ||| 0x9800) = m_) (h_ : State.Keeps m_ s_ s) : State.Keeps m_ s_ (State.fenceLink s l) := by
  refine State.Keeps.step (m1 := 0x9800) ?_ hm_ h_
  unfold State.fenceLink
  repeat' first
    | (intro _)
    | (with_reducible exact State.Keeps.refl _ _)
    | (with_reducible assumption)
    | (with_reducible apply State.Keeps.ite)
    | (with_reducible apply State.onLink_keeps)
    | (with_reducible apply State.fenceCount_keeps)
    | (with_reducible apply State.slotBreaks_keeps)
    | decide
    | split
    | dsimp only
    | dsimp +zetaDelta only

theorem State.fenceIod_keeps {m_ : Nat} {s_ : State} (s : State) (i : Nat) (hm_ : (m_ ||| 0x6F864) = m_) (h_ : State.Keeps m_ s_ s) : State.Keeps m_ s_ (State.fenceIod s i) := by
  refine State.Keeps.step (m1 := 0x6F864) ?_ hm_ h_
  unfold State.fenceIod
  repeat' first
    | (intro _)
    | (with_reducible exact State.Keeps.refl _ _)
    | (with_reducible assumption)
    | (with_reducible apply State.Keeps.ite)
    | (with_reducible apply State.onAos_keeps)
    | (with_reducible apply State.fencePort_keeps)
    | (with_reducible apply State.fenceCount_keeps)
    | (with_reducible apply State.fenceLink_keeps)
    | (with_reducible apply State.Keeps.foldl)
    | (with_reducible apply State.Keeps.foldlFst)
    | decide
    | extract_lets
    | split
    | dsimp only
    | dsimp +zetaDelta only

theorem State.fenceDiePalms_keeps {m_ : Nat} {s_ : State} (s : State) (k : Nat) (hm_ : (m_ ||| 0x6A8F0) = m_) (h_ : State.Keeps m_ s_ s) : State.Keeps m_ s_ (State.fenceDiePalms s k) := by
  refine State.Keeps.step (m1 := 0x6A8F0) ?_ hm_ h_
  unfold State.fenceDiePalms
  repeat' first
    | (intro _)
    | (with_reducible exact State.Keeps.refl _ _)
    | (with_reducible assumption)
    | (with_reducible apply State.fencePalm_keeps)
    | (with_reducible apply State.Keeps.foldl)
    | (with_reducible apply State.Keeps.foldlFst)
    | decide
    | split
    | dsimp only
    | dsimp +zetaDelta only

theorem State.arrayFence_keeps {m_ : Nat} {s_ : State} (s : State) (k : Nat) (hm_ : (m_ ||| 0x6E8FC) = m_) (h_ : State.Keeps m_ s_ s) : State.Keeps m_ s_ (State.arrayFence s k) := by
  refine State.Keeps.step (m1 := 0x6E8FC) ?_ hm_ h_
  unfold State.arrayFence
  repeat' first
    | (intro _)
    | (with_reducible exact State.Keeps.refl _ _)
    | (with_reducible assumption)
    | (with_reducible apply State.judgeFault_keeps)
    | (with_reducible apply State.onDie_keeps)
    | (with_reducible apply State.fenceDiePalms_keeps)
    | (with_reducible apply State.fenceCount_keeps)
    | (with_reducible apply State.judgeMod_keeps)
    | decide
    | split
    | dsimp only
    | dsimp +zetaDelta only

theorem State.fullFence_keeps {m_ : Nat} {s_ : State} (s : State) (k : Nat) (hm_ : (m_ ||| 0x6F8FC) = m_) (h_ : State.Keeps m_ s_ s) : State.Keeps m_ s_ (State.fullFence s k) := by
  refine State.Keeps.step (m1 := 0x6F8FC) ?_ hm_ h_
  unfold State.fullFence
  repeat' first
    | (intro _)
    | (with_reducible exact State.Keeps.refl _ _)
    | (with_reducible assumption)
    | (with_reducible apply State.Keeps.ite)
    | (with_reducible apply State.judgeMod_keeps)
    | (with_reducible apply State.judgeFault_keeps)
    | (with_reducible apply State.retireStack_keeps)
    | (with_reducible apply State.fenceDiePalms_keeps)
    | (with_reducible apply State.onDie_keeps)
    | (with_reducible apply State.fenceIod_keeps)
    | (with_reducible apply State.fenceCount_keeps)
    | (with_reducible apply State.onArr_keeps)
    | (with_reducible apply State.Keeps.foldl)
    | (with_reducible apply State.Keeps.foldlFst)
    | decide
    | extract_lets
    | split
    | dsimp only
    | dsimp +zetaDelta only

theorem State.retireStackDie_keeps {m_ : Nat} {s_ : State} (s : State) (n : Nat) (hm_ : (m_ ||| 0x6F8FC) = m_) (h_ : State.Keeps m_ s_ s) : State.Keeps m_ s_ (State.retireStackDie s n) := by
  refine State.Keeps.step (m1 := 0x6F8FC) ?_ hm_ h_
  unfold State.retireStackDie
  repeat' first
    | (intro _)
    | (with_reducible exact State.Keeps.refl _ _)
    | (with_reducible assumption)
    | (with_reducible apply State.Keeps.ite)
    | (with_reducible apply State.fullFence_keeps)
    | (with_reducible apply State.judgeFault_keeps)
    | (with_reducible apply State.retireStack_keeps)
    | decide
    | extract_lets
    | split
    | dsimp only
    | dsimp +zetaDelta only

theorem State.retireFrame_keeps {m_ : Nat} {s_ : State} (s : State) (f : Nat) (hm_ : (m_ ||| 0x8040) = m_) (h_ : State.Keeps m_ s_ s) : State.Keeps m_ s_ (State.retireFrame s f) := by
  refine State.Keeps.step (m1 := 0x8040) ?_ hm_ h_
  unfold State.retireFrame
  repeat' first
    | (intro _)
    | (with_reducible exact State.Keeps.refl _ _)
    | (with_reducible assumption)
    | (with_reducible apply State.Keeps.ite)
    | (with_reducible apply State.onStack_keeps)
    | (with_reducible apply State.raise_keeps)
    | (with_reducible apply State.fenceCount_keeps)
    | (with_reducible apply State.onMem_keeps)
    | (with_reducible apply State.remapFrame_keeps)
    | (with_reducible apply State.Keeps.ofPair (by with_reducible assumption))
    | decide
    | extract_lets
    | split
    | dsimp only
    | dsimp +zetaDelta only

theorem cellFailureOp_keeps {m_ : Nat} {s_ : State} (die : Nat) (row : Nat) (kind : FailKind) (col : Nat) (s : State) (hm_ : (m_ ||| 0x6A8F0) = m_) (h_ : State.Keeps m_ s_ s) : State.Keeps m_ s_ (cellFailureOp die row kind col s) := by
  refine State.Keeps.step (m1 := 0x6A8F0) ?_ hm_ h_
  unfold cellFailureOp
  repeat' first
    | (intro _)
    | (with_reducible exact State.Keeps.refl _ _)
    | (with_reducible assumption)
    | (with_reducible apply State.Keeps.ite)
    | (with_reducible apply State.failSpare_keeps)
    | (with_reducible apply State.failCell_keeps)
    | (with_reducible apply State.errClass_keeps)
    | (with_reducible apply State.fenceCount_keeps)
    | (with_reducible apply State.onArr_keeps)
    | (with_reducible apply State.fencePalm_keeps)
    | decide
    | extract_lets
    | split
    | dsimp only
    | dsimp +zetaDelta only

theorem chainFormOp_keeps {m_ : Nat} {s_ : State} (die : Nat) (row : Nat) (kind : Kind) (s : State) (hm_ : (m_ ||| 0x8010) = m_) (h_ : State.Keeps m_ s_ s) : State.Keeps m_ s_ (chainFormOp die row kind s) := by
  refine State.Keeps.step (m1 := 0x8010) ?_ hm_ h_
  unfold chainFormOp
  repeat' first
    | (intro _)
    | (with_reducible exact State.Keeps.refl _ _)
    | (with_reducible assumption)
    | (with_reducible apply State.Keeps.ite)
    | (with_reducible apply State.formChain_keeps)
    | decide
    | split
    | dsimp only
    | dsimp +zetaDelta only

theorem State.onEdge_keeps {m_ : Nat} {s_ : State} (s : State) (die : Nat) (edge : Nat) (other : Nat) (f : EdgeSt → EdgeSt) (hm_ : (m_ ||| 0x10) = m_) (h_ : State.Keeps m_ s_ s) : State.Keeps m_ s_ (State.onEdge s die edge other f) := by
  refine State.Keeps.step (m1 := 0x10) ?_ hm_ h_
  unfold State.onEdge
  repeat' first
    | (intro _)
    | (with_reducible exact State.Keeps.refl _ _)
    | (with_reducible assumption)
    | (with_reducible apply State.onArr_keeps)
    | decide
    | split
    | dsimp only
    | dsimp +zetaDelta only

theorem crossingMarginLossOp_keeps {m_ : Nat} {s_ : State} (die : Nat) (edge : Nat) (chan : Nat) (s : State) (hm_ : (m_ ||| 0x6A8F8) = m_) (h_ : State.Keeps m_ s_ s) : State.Keeps m_ s_ (crossingMarginLossOp die edge chan s) := by
  refine State.Keeps.step (m1 := 0x6A8F8) ?_ hm_ h_
  unfold crossingMarginLossOp
  repeat' first
    | (intro _)
    | (with_reducible exact State.Keeps.refl _ _)
    | (with_reducible assumption)
    | (with_reducible apply State.schedFault_keeps)
    | (with_reducible apply State.raise_keeps)
    | (with_reducible apply State.onEdge_keeps)
    | (with_reducible apply State.Keeps.foldl)
    | (with_reducible apply State.Keeps.foldlFst)
    | decide
    | extract_lets
    | split
    | dsimp only
    | dsimp +zetaDelta only

theorem crossingRetrainCompleteOp_keeps {m_ : Nat} {s_ : State} (die : Nat) (edge : Nat) (s : State) (hm_ : (m_ ||| 0x10) = m_) (h_ : State.Keeps m_ s_ s) : State.Keeps m_ s_ (crossingRetrainCompleteOp die edge s) := by
  refine State.Keeps.step (m1 := 0x10) ?_ hm_ h_
  unfold crossingRetrainCompleteOp
  repeat' first
    | (intro _)
    | (with_reducible exact State.Keeps.refl _ _)
    | (with_reducible assumption)
    | (with_reducible apply State.Keeps.ite)
    | (with_reducible apply State.onEdge_keeps)
    | decide
    | split
    | dsimp only
    | dsimp +zetaDelta only

theorem dieToDiePortFailureOp_keeps {m_ : Nat} {s_ : State} (die : Nat) (iod : Option Nat) (s : State) (hm_ : (m_ ||| 0x6F8FC) = m_) (h_ : State.Keeps m_ s_ s) : State.Keeps m_ s_ (dieToDiePortFailureOp die iod s) := by
  refine State.Keeps.step (m1 := 0x6F8FC) ?_ hm_ h_
  unfold dieToDiePortFailureOp
  repeat' first
    | (intro _)
    | (with_reducible exact State.Keeps.refl _ _)
    | (with_reducible assumption)
    | (with_reducible apply State.Keeps.ite)
    | (with_reducible apply State.judgeMod_keeps)
    | (with_reducible apply State.judgeFault_keeps)
    | (with_reducible apply State.fullFence_keeps)
    | (with_reducible apply State.errClass_keeps)
    | (with_reducible apply State.fenceIod_keeps)
    | decide
    | extract_lets
    | split
    | dsimp only
    | dsimp +zetaDelta only

theorem stackControllerFailureOp_keeps {m_ : Nat} {s_ : State} (stack : Nat) (s : State) (hm_ : (m_ ||| 0x6F8FC) = m_) (h_ : State.Keeps m_ s_ s) : State.Keeps m_ s_ (stackControllerFailureOp stack s) := by
  refine State.Keeps.step (m1 := 0x6F8FC) ?_ hm_ h_
  unfold stackControllerFailureOp
  repeat' first
    | (intro _)
    | (with_reducible exact State.Keeps.refl _ _)
    | (with_reducible assumption)
    | (with_reducible apply State.Keeps.ite)
    | (with_reducible apply State.retireStackDie_keeps)
    | (with_reducible apply State.errClass_keeps)
    | decide
    | split
    | dsimp only
    | dsimp +zetaDelta only

theorem frameRetirementOp_keeps {m_ : Nat} {s_ : State} (frame : Nat) (s : State) (hm_ : (m_ ||| 0x8040) = m_) (h_ : State.Keeps m_ s_ s) : State.Keeps m_ s_ (frameRetirementOp frame s) := by
  refine State.Keeps.step (m1 := 0x8040) ?_ hm_ h_
  unfold frameRetirementOp
  repeat' first
    | (intro _)
    | (with_reducible exact State.Keeps.refl _ _)
    | (with_reducible assumption)
    | (with_reducible apply State.Keeps.ite)
    | (with_reducible apply State.retireFrame_keeps)
    | decide
    | split
    | dsimp only
    | dsimp +zetaDelta only

end Sys2Proof.Machine
end

