-- ==== Sys2Proof/Laws/FrameReruns.lean ====
section
/-! SUPPORT. The frame of each operation of Machine/Reruns.lean: the blocks of the state that it may change (Laws/Keeps.lean). -/

set_option Elab.async false

namespace Sys2Proof.Machine

theorem State.rerunLimitCell_keeps {m_ : Nat} {s_ : State} (s : State) (c : Nat) (kind : Nat) (hm_ : (m_ ||| 0x6E8F0) = m_) (h_ : State.Keeps m_ s_ s) : State.Keeps m_ s_ (State.rerunLimitCell s c kind) := by
  refine State.Keeps.step (m1 := 0x6E8F0) ?_ hm_ h_
  unfold State.rerunLimitCell
  repeat' first
    | (intro _)
    | (with_reducible exact State.Keeps.refl _ _)
    | (with_reducible assumption)
    | (with_reducible apply State.Keeps.ite)
    | (with_reducible apply State.onAos_keeps)
    | (with_reducible apply cellFailureOp_keeps)
    | decide
    | extract_lets
    | split
    | dsimp only
    | dsimp +zetaDelta only

theorem State.rerunStops_keeps {m_ : Nat} {s_ : State} (s : State) (g : Nat) (hm_ : (m_ ||| 0x8030) = m_) (h_ : State.Keeps m_ s_ s) : State.Keeps m_ s_ (State.rerunStops s g) := by
  refine State.Keeps.step (m1 := 0x8030) ?_ hm_ h_
  unfold State.rerunStops
  repeat' first
    | (intro _)
    | (with_reducible exact State.Keeps.refl _ _)
    | (with_reducible assumption)
    | (with_reducible apply State.Keeps.ite)
    | (with_reducible apply State.stopPalm_keeps)
    | (with_reducible apply State.onPat_keeps)
    | (with_reducible apply State.onGsq_keeps)
    | (with_reducible apply State.raise_keeps)
    | (with_reducible apply State.Keeps.foldl)
    | (with_reducible apply State.Keeps.foldlFst)
    | decide
    | extract_lets
    | split
    | dsimp only
    | dsimp +zetaDelta only

theorem State.rerunnable_keeps {m_ : Nat} {s_ : State} (s : State) (g : Nat) (obj : Nat) (idx : Nat) (kind : Nat) (detail : Word) (hm_ : (m_ ||| 0x6E8F0) = m_) (h_ : State.Keeps m_ s_ s) : State.Keeps m_ s_ (State.rerunnable s g obj idx kind detail) := by
  refine State.Keeps.step (m1 := 0x6E8F0) ?_ hm_ h_
  unfold State.rerunnable
  repeat' first
    | (intro _)
    | (with_reducible exact State.Keeps.refl _ _)
    | (with_reducible assumption)
    | (with_reducible apply State.Keeps.ite)
    | (with_reducible apply State.faultGlove_keeps)
    | (with_reducible apply State.rerunLimitCell_keeps)
    | (with_reducible apply State.stopPattern_keeps)
    | (with_reducible apply State.errClass_keeps)
    | (with_reducible apply State.discardArm_keeps)
    | (with_reducible apply State.onPat_keeps)
    | (with_reducible apply State.onGsq_keeps)
    | (with_reducible apply State.Keeps.ofPair (by with_reducible assumption))
    | decide
    | extract_lets
    | split
    | dsimp only
    | dsimp +zetaDelta only

theorem State.detectRerun_keeps {m_ : Nat} {s_ : State} (s : State) (c : Nat) (r : Nat) (kind : Nat) (reader : Nat) (g : Nat) (hm_ : (m_ ||| 0x6E8F0) = m_) (h_ : State.Keeps m_ s_ s) : State.Keeps m_ s_ (State.detectRerun s c r kind reader g) := by
  refine State.Keeps.step (m1 := 0x6E8F0) ?_ hm_ h_
  unfold State.detectRerun
  repeat' first
    | (intro _)
    | (with_reducible exact State.Keeps.refl _ _)
    | (with_reducible assumption)
    | (with_reducible apply State.detect_keeps)
    | (with_reducible apply State.rerunnable_keeps)
    | decide
    | extract_lets
    | split
    | dsimp only
    | dsimp +zetaDelta only

theorem State.malformedLog_keeps {m_ : Nat} {s_ : State} (s : State) (k : Nat) (ctl : Nat) (g : Nat) (rerun : Bool) (hm_ : (m_ ||| 0x8000) = m_) (h_ : State.Keeps m_ s_ s) : State.Keeps m_ s_ (State.malformedLog s k ctl g rerun) := by
  refine State.Keeps.step (m1 := 0x8000) ?_ hm_ h_
  unfold State.malformedLog
  repeat' first
    | (intro _)
    | (with_reducible exact State.Keeps.refl _ _)
    | (with_reducible assumption)
    | (with_reducible apply State.Keeps.ite)
    | (with_reducible apply State.setReg_keeps)
    | (with_reducible apply State.raise_keeps)
    | decide
    | extract_lets
    | split
    | dsimp only
    | dsimp +zetaDelta only

theorem State.malformed_keeps {m_ : Nat} {s_ : State} (s : State) (k : Nat) (ctl : Nat) (g : Nat) (hm_ : (m_ ||| 0x6E8F0) = m_) (h_ : State.Keeps m_ s_ s) : State.Keeps m_ s_ (State.malformed s k ctl g) := by
  refine State.Keeps.step (m1 := 0x6E8F0) ?_ hm_ h_
  unfold State.malformed
  repeat' first
    | (intro _)
    | (with_reducible exact State.Keeps.refl _ _)
    | (with_reducible assumption)
    | (with_reducible apply State.rerunnable_keeps)
    | (with_reducible apply State.malformedLog_keeps)
    | decide
    | extract_lets
    | split
    | dsimp only
    | dsimp +zetaDelta only

theorem rerunnableDetectionOp_keeps {m_ : Nat} {s_ : State} (d : Detection) (cycle : Nat) (s : State) (hm_ : (m_ ||| 0x6E8F0) = m_) (h_ : State.Keeps m_ s_ s) : State.Keeps m_ s_ (rerunnableDetectionOp d cycle s) := by
  refine State.Keeps.step (m1 := 0x6E8F0) ?_ hm_ h_
  unfold rerunnableDetectionOp
  repeat' first
    | (intro _)
    | (with_reducible exact State.Keeps.refl _ _)
    | (with_reducible assumption)
    | (with_reducible apply State.Keeps.ite)
    | (with_reducible apply State.detect_keeps)
    | (with_reducible apply State.malformedLog_keeps)
    | (with_reducible apply State.malformed_keeps)
    | (with_reducible apply State.detectRerun_keeps)
    | decide
    | split
    | dsimp only
    | dsimp +zetaDelta only

end Sys2Proof.Machine
end

