-- ==== Sys2Proof/Laws/FrameTierRows.lean ====
section
/-! SUPPORT. The frame of each operation of Machine/TierRows.lean: the blocks of the state that it may change (Laws/Keeps.lean). -/

set_option Elab.async false

namespace Sys2Proof.Machine

theorem State.decodeBlock_keeps {m_ : Nat} {s_ : State} (s : State) (k : Nat) (e : Nat) (i : Nat) (g : Nat) (hm_ : (m_ ||| 0x6E8F0) = m_) (h_ : State.Keeps m_ s_ s) : State.Keeps m_ s_ (State.decodeBlock s k e i g).1 := by
  refine State.Keeps.step (m1 := 0x6E8F0) ?_ hm_ h_
  unfold State.decodeBlock
  repeat' first
    | (intro _)
    | (with_reducible exact State.Keeps.refl _ _)
    | (with_reducible assumption)
    | (with_reducible apply State.refuseNear_keeps)
    | (with_reducible apply State.refuseNoFrame_keeps)
    | (with_reducible apply State.count_keeps)
    | (with_reducible apply State.malformed_keeps)
    | (with_reducible apply State.Keeps.ofPair (by with_reducible assumption))
    | decide
    | extract_lets
    | split
    | dsimp only
    | dsimp +zetaDelta only

theorem State.crossing_keeps {m_ : Nat} {s_ : State} (s : State) (n : Nat) (thr : Nat) (obj : Nat) (idx : Nat) (act : State → State) (hm_ : (m_ ||| 0x8000) = m_) (h_ : State.Keeps m_ s_ s) (hf_ : ∀ u, State.Keeps m_ s_ u → State.Keeps m_ s_ (act u)) : State.Keeps m_ s_ (State.crossing s n thr obj idx act) := by
  unfold State.crossing
  repeat' first
    | (intro _)
    | (with_reducible exact State.Keeps.refl _ _)
    | (with_reducible assumption)
    | (with_reducible apply hf_)
    | (with_reducible apply State.Keeps.ite)
    | (with_reducible apply State.logEntry_keeps)
    | exact State.Keeps.sub hm_ (by decide)
    | exact State.Keeps.bit hm_ (by decide)
    | split
    | dsimp only
    | dsimp +zetaDelta only

theorem State.nvmeError_keeps {m_ : Nat} {s_ : State} (s : State) (i : Nat) (hm_ : (m_ ||| 0x8044) = m_) (h_ : State.Keeps m_ s_ s) : State.Keeps m_ s_ (State.nvmeError s i) := by
  refine State.Keeps.step (m1 := 0x8044) ?_ hm_ h_
  unfold State.nvmeError
  repeat' first
    | (intro _)
    | (with_reducible exact State.Keeps.refl _ _)
    | (with_reducible assumption)
    | (with_reducible apply State.Keeps.ite)
    | (with_reducible apply State.drainPort_keeps)
    | (with_reducible apply State.errClass_keeps)
    | (with_reducible apply State.crossing_keeps)
    | (with_reducible apply State.raise_keeps)
    | (with_reducible apply State.onDpp_keeps)
    | decide
    | extract_lets
    | split
    | dsimp only
    | dsimp +zetaDelta only

theorem packedBlockDecodeOp_keeps {m_ : Nat} {s_ : State} (die : Nat) (entry : Nat) (block : Nat) (glove : Nat) (s : State) (hm_ : (m_ ||| 0x6E8F0) = m_) (h_ : State.Keeps m_ s_ s) : State.Keeps m_ s_ (packedBlockDecodeOp die entry block glove s) := by
  refine State.Keeps.step (m1 := 0x6E8F0) ?_ hm_ h_
  unfold packedBlockDecodeOp
  repeat' first
    | (intro _)
    | (with_reducible exact State.Keeps.refl _ _)
    | (with_reducible assumption)
    | (with_reducible apply State.Keeps.ite)
    | (with_reducible apply State.decodeBlock_keeps)
    | decide
    | split
    | dsimp only
    | dsimp +zetaDelta only

theorem hbmUncorrectedReadOp_keeps {m_ : Nat} {s_ : State} (frame : Nat) (unit : Nat) (glove : Nat) (system : Bool) (rerunReader : Bool) (s : State) (hm_ : (m_ ||| 0x6E8F0) = m_) (h_ : State.Keeps m_ s_ s) : State.Keeps m_ s_ (hbmUncorrectedReadOp frame unit glove system rerunReader s) := by
  refine State.Keeps.step (m1 := 0x6E8F0) ?_ hm_ h_
  unfold hbmUncorrectedReadOp
  repeat' first
    | (intro _)
    | (with_reducible exact State.Keeps.refl _ _)
    | (with_reducible assumption)
    | (with_reducible apply State.Keeps.ite)
    | (with_reducible apply State.onStack_keeps)
    | (with_reducible apply State.rerunnable_keeps)
    | (with_reducible apply State.elog_keeps)
    | (with_reducible apply State.retireFrame_keeps)
    | (with_reducible apply State.raise_keeps)
    | (with_reducible apply State.onFrame_keeps)
    | decide
    | extract_lets
    | split
    | dsimp only
    | dsimp +zetaDelta only

theorem correctedErrorOp_keeps {m_ : Nat} {s_ : State} (part : Nat) (idx : Nat) (dev : Nat) (unit : Nat) (s : State) (hm_ : (m_ ||| 0x8044) = m_) (h_ : State.Keeps m_ s_ s) : State.Keeps m_ s_ (correctedErrorOp part idx dev unit s) := by
  refine State.Keeps.step (m1 := 0x8044) ?_ hm_ h_
  unfold correctedErrorOp
  repeat' first
    | (intro _)
    | (with_reducible exact State.Keeps.refl _ _)
    | (with_reducible assumption)
    | (with_reducible apply State.Keeps.ite)
    | (with_reducible apply State.setReg_keeps)
    | (with_reducible apply State.nvmeError_keeps)
    | (with_reducible apply State.onStack_keeps)
    | (with_reducible apply State.onDdr_keeps)
    | (with_reducible apply State.drainPort_keeps)
    | (with_reducible apply State.corrected_keeps)
    | (with_reducible apply State.crossing_keeps)
    | (with_reducible apply State.raise_keeps)
    | (with_reducible apply State.alert_keeps)
    | decide
    | extract_lets
    | split
    | dsimp only
    | dsimp +zetaDelta only

theorem nvmeCommandCompleteOp_keeps {m_ : Nat} {s_ : State} (port : Nat) (ident : Nat) (ok : Bool) (s : State) (hm_ : (m_ ||| 0x6A8E4) = m_) (h_ : State.Keeps m_ s_ s) : State.Keeps m_ s_ (nvmeCommandCompleteOp port ident ok s) := by
  refine State.Keeps.step (m1 := 0x6A8E4) ?_ hm_ h_
  unfold nvmeCommandCompleteOp
  repeat' first
    | (intro _)
    | (with_reducible exact State.Keeps.refl _ _)
    | (with_reducible assumption)
    | (with_reducible apply State.Keeps.ite)
    | (with_reducible apply sealCompleteOp_keeps)
    | (with_reducible apply State.nvmeError_keeps)
    | (with_reducible apply State.count_keeps)
    | (with_reducible apply moveCompleteOp_keeps)
    | (with_reducible apply copyupCompleteOp_keeps)
    | decide
    | extract_lets
    | split
    | dsimp only
    | dsimp +zetaDelta only

theorem State.readCatalogue_keeps {m_ : Nat} {s_ : State} (s : State) (hm_ : (m_ ||| 0x40) = m_) (h_ : State.Keeps m_ s_ s) : State.Keeps m_ s_ (State.readCatalogue s) := by
  refine State.Keeps.step (m1 := 0x40) ?_ hm_ h_
  unfold State.readCatalogue
  repeat' first
    | (intro _)
    | (with_reducible exact State.Keeps.refl _ _)
    | (with_reducible assumption)
    | (with_reducible apply State.Keeps.ite)
    | (with_reducible apply State.onExtent_keeps)
    | (with_reducible apply State.onMem_keeps)
    | (with_reducible apply State.Keeps.foldl)
    | (with_reducible apply State.Keeps.foldlFst)
    | decide
    | split
    | dsimp only
    | dsimp +zetaDelta only

theorem deepPortNvmeReadyOp_keeps {m_ : Nat} {s_ : State} (port : Nat) (fmtOk : Bool) (gen : Nat) (width : Nat) (capB : Nat) (s : State) (hm_ : (m_ ||| 0x8840) = m_) (h_ : State.Keeps m_ s_ s) : State.Keeps m_ s_ (deepPortNvmeReadyOp port fmtOk gen width capB s) := by
  refine State.Keeps.step (m1 := 0x8840) ?_ hm_ h_
  unfold deepPortNvmeReadyOp
  repeat' first
    | (intro _)
    | (with_reducible exact State.Keeps.refl _ _)
    | (with_reducible assumption)
    | (with_reducible apply State.Keeps.ite)
    | (with_reducible apply State.setReg_keeps)
    | (with_reducible apply State.readCatalogue_keeps)
    | (with_reducible apply State.takeBringFrames_keeps)
    | (with_reducible apply State.onDpp_keeps)
    | decide
    | extract_lets
    | split
    | dsimp only
    | dsimp +zetaDelta only

theorem returnTrainingCompleteOp_keeps {m_ : Nat} {s_ : State} (deep : Bool) (idx : Nat) (ok : Bool) (info : DimmInfo) (capB : Nat) (s : State) (hm_ : (m_ ||| 0x2A044) = m_) (h_ : State.Keeps m_ s_ s) : State.Keeps m_ s_ (returnTrainingCompleteOp deep idx ok info capB s) := by
  refine State.Keeps.step (m1 := 0x2A044) ?_ hm_ h_
  unfold returnTrainingCompleteOp
  repeat' first
    | (intro _)
    | (with_reducible exact State.Keeps.refl _ _)
    | (with_reducible assumption)
    | (with_reducible apply State.Keeps.ite)
    | (with_reducible apply State.setReg_keeps)
    | (with_reducible apply State.judgeMod_keeps)
    | (with_reducible apply State.onDdr_keeps)
    | (with_reducible apply State.refuseState_keeps)
    | (with_reducible apply State.complete_keeps)
    | (with_reducible apply State.onDpp_keeps)
    | decide
    | extract_lets
    | split
    | dsimp only
    | dsimp +zetaDelta only

end Sys2Proof.Machine
end

