-- ==== Sys2Proof/Laws/FrameStewardRows.lean ====
section
/-! SUPPORT. The frame of each operation of Machine/StewardRows.lean: the blocks of the state that it may change (Laws/Keeps.lean). -/

set_option Elab.async false

namespace Sys2Proof.Machine

theorem State.takeRecord_keeps {m_ : Nat} {s_ : State} (s : State) (g : Nat) (code : Nat) (hm_ : (m_ ||| 0x6A8F8) = m_) (h_ : State.Keeps m_ s_ s) : State.Keeps m_ s_ (State.takeRecord s g code).2 := by
  refine State.Keeps.step (m1 := 0x6A8F8) ?_ hm_ h_
  unfold State.takeRecord
  repeat' first
    | (intro _)
    | (with_reducible exact State.Keeps.refl _ _)
    | (with_reducible assumption)
    | (with_reducible apply State.Keeps.iteFst)
    | (with_reducible apply State.Keeps.ite)
    | (with_reducible apply State.wakeReport_keeps)
    | (with_reducible apply State.onGsq_keeps)
    | (with_reducible apply State.Keeps.ofPair (by with_reducible assumption))
    | decide
    | extract_lets
    | split
    | dsimp only
    | dsimp +zetaDelta only

theorem State.serveFetch_keeps {m_ : Nat} {s_ : State} (s : State) (f : FetchMsg) (hm_ : (m_ ||| 0x20000) = m_) (h_ : State.Keeps m_ s_ s) : State.Keeps m_ s_ (State.serveFetch s f) := by
  refine State.Keeps.step (m1 := 0x20000) ?_ hm_ h_
  unfold State.serveFetch
  repeat' first
    | (intro _)
    | (with_reducible exact State.Keeps.refl _ _)
    | (with_reducible assumption)
    | (with_reducible apply State.Keeps.ite)
    | (with_reducible apply State.emit_keeps)
    | decide
    | extract_lets
    | split
    | dsimp only
    | dsimp +zetaDelta only

theorem State.serveHandle_keeps {m_ : Nat} {s_ : State} (s : State) (f : FetchMsg) (h : BitVec 32) (hm_ : (m_ ||| 0x20000) = m_) (h_ : State.Keeps m_ s_ s) : State.Keeps m_ s_ (State.serveHandle s f h) := by
  refine State.Keeps.step (m1 := 0x20000) ?_ hm_ h_
  unfold State.serveHandle
  repeat' first
    | (intro _)
    | (with_reducible exact State.Keeps.refl _ _)
    | (with_reducible assumption)
    | (with_reducible apply State.Keeps.ite)
    | (with_reducible apply State.emit_keeps)
    | (with_reducible apply State.Keeps.ofPair (by with_reducible assumption))
    | decide
    | extract_lets
    | split
    | dsimp only
    | dsimp +zetaDelta only

theorem State.buildModel_keeps {m_ : Nat} {s_ : State} (s : State) (m : Nat) (hm_ : (m_ ||| 0x488E0) = m_) (h_ : State.Keeps m_ s_ s) : State.Keeps m_ s_ (State.buildModel s m) := by
  refine State.Keeps.step (m1 := 0x488E0) ?_ hm_ h_
  unfold State.buildModel
  repeat' first
    | (intro _)
    | (with_reducible exact State.Keeps.refl _ _)
    | (with_reducible assumption)
    | (with_reducible apply State.buildStep_keeps)
    | (with_reducible apply State.Keeps.foldl)
    | (with_reducible apply State.Keeps.foldlFst)
    | decide
    | split
    | dsimp only
    | dsimp +zetaDelta only

theorem State.takeover_keeps {m_ : Nat} {s_ : State} (s : State) (hm_ : (m_ ||| 0x6A8E0) = m_) (h_ : State.Keeps m_ s_ s) : State.Keeps m_ s_ (State.takeover s) := by
  refine State.Keeps.step (m1 := 0x6A8E0) ?_ hm_ h_
  unfold State.takeover
  repeat' first
    | (intro _)
    | (with_reducible exact State.Keeps.refl _ _)
    | (with_reducible assumption)
    | (with_reducible apply State.Keeps.ite)
    | (with_reducible apply State.onStw_keeps)
    | (with_reducible apply State.buildAll_keeps)
    | (with_reducible apply State.refuseState_keeps)
    | (with_reducible apply State.abandonStep_keeps)
    | (with_reducible apply State.raise_keeps)
    | (with_reducible apply State.putCq_keeps)
    | (with_reducible apply State.Keeps.foldl)
    | (with_reducible apply State.Keeps.foldlFst)
    | decide
    | extract_lets
    | split
    | dsimp only
    | dsimp +zetaDelta only

theorem stepCommitOp_keeps {m_ : Nat} {s_ : State} (g : Nat) (s : State) (hm_ : (m_ ||| 0x6A8E0) = m_) (h_ : State.Keeps m_ s_ s) : State.Keeps m_ s_ (stepCommitOp g s) := by
  refine State.Keeps.step (m1 := 0x6A8E0) ?_ hm_ h_
  unfold stepCommitOp
  repeat' first
    | (intro _)
    | (with_reducible exact State.Keeps.refl _ _)
    | (with_reducible assumption)
    | (with_reducible apply State.Keeps.ite)
    | (with_reducible apply State.commitStep_keeps)
    | decide
    | split
    | dsimp only
    | dsimp +zetaDelta only

theorem stepDoneOp_keeps {m_ : Nat} {s_ : State} (g : Nat) (s : State) (hm_ : (m_ ||| 0x6A8F8) = m_) (h_ : State.Keeps m_ s_ s) : State.Keeps m_ s_ (stepDoneOp g s) := by
  refine State.Keeps.step (m1 := 0x6A8F8) ?_ hm_ h_
  unfold stepDoneOp
  repeat' first
    | (intro _)
    | (with_reducible exact State.Keeps.refl _ _)
    | (with_reducible assumption)
    | (with_reducible apply State.Keeps.ite)
    | (with_reducible apply State.onServe_keeps)
    | (with_reducible apply State.takeRecord_keeps)
    | (with_reducible apply State.Keeps.ofPair (by with_reducible assumption))
    | (with_reducible apply State.Keeps.ofPair2 (by with_reducible assumption))
    | decide
    | extract_lets
    | split
    | dsimp only
    | dsimp +zetaDelta only

theorem stepAbortOp_keeps {m_ : Nat} {s_ : State} (g : Nat) (s : State) (hm_ : (m_ ||| 0x6A8F8) = m_) (h_ : State.Keeps m_ s_ s) : State.Keeps m_ s_ (stepAbortOp g s) := by
  refine State.Keeps.step (m1 := 0x6A8F8) ?_ hm_ h_
  unfold stepAbortOp
  repeat' first
    | (intro _)
    | (with_reducible exact State.Keeps.refl _ _)
    | (with_reducible assumption)
    | (with_reducible apply State.Keeps.ite)
    | (with_reducible apply State.buildStep_keeps)
    | (with_reducible apply State.abandonStep_keeps)
    | (with_reducible apply State.takeRecord_keeps)
    | (with_reducible apply State.Keeps.ofPair (by with_reducible assumption))
    | (with_reducible apply State.Keeps.ofPair2 (by with_reducible assumption))
    | decide
    | extract_lets
    | split
    | dsimp only
    | dsimp +zetaDelta only

theorem samplerFinishOp_keeps {m_ : Nat} {s_ : State} (g : Nat) (s : State) (hm_ : (m_ ||| 0x6A8E0) = m_) (h_ : State.Keeps m_ s_ s) : State.Keeps m_ s_ (samplerFinishOp g s) := by
  refine State.Keeps.step (m1 := 0x6A8E0) ?_ hm_ h_
  unfold samplerFinishOp
  repeat' first
    | (intro _)
    | (with_reducible exact State.Keeps.refl _ _)
    | (with_reducible assumption)
    | (with_reducible apply State.Keeps.ite)
    | (with_reducible apply State.finishSampler_keeps)
    | decide
    | split
    | dsimp only
    | dsimp +zetaDelta only

theorem autoResumeOp_keeps {m_ : Nat} {s_ : State} (seq : Nat) (s : State) (hm_ : (m_ ||| 0x6A840) = m_) (h_ : State.Keeps m_ s_ s) : State.Keeps m_ s_ (autoResumeOp seq s) := by
  refine State.Keeps.step (m1 := 0x6A840) ?_ hm_ h_
  unfold autoResumeOp
  repeat' first
    | (intro _)
    | (with_reducible exact State.Keeps.refl _ _)
    | (with_reducible assumption)
    | (with_reducible apply State.Keeps.ite)
    | (with_reducible apply State.resumeSeq_keeps)
    | decide
    | extract_lets
    | split
    | dsimp only
    | dsimp +zetaDelta only

theorem ttlExpiryOp_keeps {m_ : Nat} {s_ : State} (seq : Nat) (s : State) (hm_ : (m_ ||| 0x6A840) = m_) (h_ : State.Keeps m_ s_ s) : State.Keeps m_ s_ (ttlExpiryOp seq s) := by
  refine State.Keeps.step (m1 := 0x6A840) ?_ hm_ h_
  unfold ttlExpiryOp
  repeat' first
    | (intro _)
    | (with_reducible exact State.Keeps.refl _ _)
    | (with_reducible assumption)
    | (with_reducible apply State.Keeps.ite)
    | (with_reducible apply State.expireSeq_keeps)
    | (with_reducible apply State.onSeqEnt_keeps)
    | decide
    | split
    | dsimp only
    | dsimp +zetaDelta only

theorem extentTtlExpiryOp_keeps {m_ : Nat} {s_ : State} (slot : Nat) (s : State) (hm_ : (m_ ||| 0x8040) = m_) (h_ : State.Keeps m_ s_ s) : State.Keeps m_ s_ (extentTtlExpiryOp slot s) := by
  refine State.Keeps.step (m1 := 0x8040) ?_ hm_ h_
  unfold extentTtlExpiryOp
  repeat' first
    | (intro _)
    | (with_reducible exact State.Keeps.refl _ _)
    | (with_reducible assumption)
    | (with_reducible apply State.Keeps.ite)
    | (with_reducible apply State.releaseExtent_keeps)
    | (with_reducible apply State.onExtent_keeps)
    | decide
    | split
    | dsimp only
    | dsimp +zetaDelta only

theorem cacheSealCompleteOp_keeps {m_ : Nat} {s_ : State} (seq : Nat) (s : State) (hm_ : (m_ ||| 0x8840) = m_) (h_ : State.Keeps m_ s_ s) : State.Keeps m_ s_ (cacheSealCompleteOp seq s) := by
  refine State.Keeps.step (m1 := 0x8840) ?_ hm_ h_
  unfold cacheSealCompleteOp
  repeat' first
    | (intro _)
    | (with_reducible exact State.Keeps.refl _ _)
    | (with_reducible assumption)
    | (with_reducible apply State.Keeps.ite)
    | (with_reducible apply State.sealAllIn_keeps)
    | decide
    | split
    | dsimp only
    | dsimp +zetaDelta only

theorem sealRetryOp_keeps {m_ : Nat} {s_ : State} (seq : Nat) (s : State) (hm_ : (m_ ||| 0x48840) = m_) (h_ : State.Keeps m_ s_ s) : State.Keeps m_ s_ (sealRetryOp seq s) := by
  refine State.Keeps.step (m1 := 0x48840) ?_ hm_ h_
  unfold sealRetryOp
  repeat' first
    | (intro _)
    | (with_reducible exact State.Keeps.refl _ _)
    | (with_reducible assumption)
    | (with_reducible apply State.retryJob_keeps)
    | decide
    | split
    | dsimp only
    | dsimp +zetaDelta only

theorem resumePageRetryOp_keeps {m_ : Nat} {s_ : State} (seq : Nat) (s : State) (hm_ : (m_ ||| 0x8840) = m_) (h_ : State.Keeps m_ s_ s) : State.Keeps m_ s_ (resumePageRetryOp seq s) := by
  refine State.Keeps.step (m1 := 0x8840) ?_ hm_ h_
  unfold resumePageRetryOp
  repeat' first
    | (intro _)
    | (with_reducible exact State.Keeps.refl _ _)
    | (with_reducible assumption)
    | (with_reducible apply State.Keeps.ite)
    | (with_reducible apply State.resumeTake_keeps)
    | decide
    | extract_lets
    | split
    | dsimp only
    | dsimp +zetaDelta only

theorem resumeCopyCompleteOp_keeps {m_ : Nat} {s_ : State} (seq : Nat) (s : State) (hm_ : (m_ ||| 0x6A8E0) = m_) (h_ : State.Keeps m_ s_ s) : State.Keeps m_ s_ (resumeCopyCompleteOp seq s) := by
  refine State.Keeps.step (m1 := 0x6A8E0) ?_ hm_ h_
  unfold resumeCopyCompleteOp
  repeat' first
    | (intro _)
    | (with_reducible exact State.Keeps.refl _ _)
    | (with_reducible assumption)
    | (with_reducible apply State.Keeps.ite)
    | (with_reducible apply State.buildStep_keeps)
    | (with_reducible apply State.resumeAllIn_keeps)
    | decide
    | split
    | dsimp only
    | dsimp +zetaDelta only

theorem cuffReleaseOp_keeps {m_ : Nat} {s_ : State} (model : Nat) (s : State) (hm_ : (m_ ||| 0x6A8E0) = m_) (h_ : State.Keeps m_ s_ s) : State.Keeps m_ s_ (cuffReleaseOp model s) := by
  refine State.Keeps.step (m1 := 0x6A8E0) ?_ hm_ h_
  unfold cuffReleaseOp
  repeat' first
    | (intro _)
    | (with_reducible exact State.Keeps.refl _ _)
    | (with_reducible assumption)
    | (with_reducible apply State.cuffReleased_keeps)
    | (with_reducible apply State.buildModel_keeps)
    | (with_reducible apply State.secondSwitch_keeps)
    | (with_reducible apply State.Keeps.foldl)
    | (with_reducible apply State.Keeps.foldlFst)
    | decide
    | extract_lets
    | split
    | dsimp only
    | dsimp +zetaDelta only

theorem switchinExtentCompleteOp_keeps {m_ : Nat} {s_ : State} (model : Nat) (extent : Nat) (s : State) (hm_ : (m_ ||| 0x6A8E0) = m_) (h_ : State.Keeps m_ s_ s) : State.Keeps m_ s_ (switchinExtentCompleteOp model extent s) := by
  refine State.Keeps.step (m1 := 0x6A8E0) ?_ hm_ h_
  unfold switchinExtentCompleteOp
  repeat' first
    | (intro _)
    | (with_reducible exact State.Keeps.refl _ _)
    | (with_reducible assumption)
    | (with_reducible apply State.Keeps.ite)
    | (with_reducible apply State.buildModel_keeps)
    | (with_reducible apply State.swinExtentIn_keeps)
    | decide
    | split
    | dsimp only
    | dsimp +zetaDelta only

theorem peerLostOp_keeps {m_ : Nat} {s_ : State} (model : Nat) (extent : Nat) (peer : Nat) (s : State) (hm_ : (m_ ||| 0x2A840) = m_) (h_ : State.Keeps m_ s_ s) : State.Keeps m_ s_ (peerLostOp model extent peer s) := by
  refine State.Keeps.step (m1 := 0x2A840) ?_ hm_ h_
  unfold peerLostOp
  repeat' first
    | (intro _)
    | (with_reducible exact State.Keeps.refl _ _)
    | (with_reducible assumption)
    | (with_reducible apply State.Keeps.ite)
    | (with_reducible apply State.swinPeerLost_keeps)
    | decide
    | split
    | dsimp only
    | dsimp +zetaDelta only

theorem fetchRequestOp_keeps {m_ : Nat} {s_ : State} (f : FetchMsg) (s : State) (hm_ : (m_ ||| 0x20000) = m_) (h_ : State.Keeps m_ s_ s) : State.Keeps m_ s_ (fetchRequestOp f s) := by
  refine State.Keeps.step (m1 := 0x20000) ?_ hm_ h_
  unfold fetchRequestOp
  repeat' first
    | (intro _)
    | (with_reducible exact State.Keeps.refl _ _)
    | (with_reducible assumption)
    | (with_reducible apply State.serveHandle_keeps)
    | (with_reducible apply State.serveFetch_keeps)
    | decide
    | split
    | dsimp only
    | dsimp +zetaDelta only

theorem fetchUnitReceiveOp_keeps {m_ : Nat} {s_ : State} (model : Nat) (extent : Nat) (unit : Nat) (data : List Byte) (s : State) (hm_ : (m_ ||| 0x8840) = m_) (h_ : State.Keeps m_ s_ s) : State.Keeps m_ s_ (fetchUnitReceiveOp model extent unit data s) := by
  refine State.Keeps.step (m1 := 0x8840) ?_ hm_ h_
  unfold fetchUnitReceiveOp
  repeat' first
    | (intro _)
    | (with_reducible exact State.Keeps.refl _ _)
    | (with_reducible assumption)
    | (with_reducible apply State.Keeps.ite)
    | (with_reducible apply State.onModel_keeps)
    | (with_reducible apply State.stewardWrite_keeps)
    | decide
    | extract_lets
    | split
    | dsimp only
    | dsimp +zetaDelta only

theorem stewardHeartbeatOp_keeps {m_ : Nat} {s_ : State} (s : State) (hm_ : (m_ ||| 0x20800) = m_) (h_ : State.Keeps m_ s_ s) : State.Keeps m_ s_ (stewardHeartbeatOp s) := by
  refine State.Keeps.step (m1 := 0x20800) ?_ hm_ h_
  unfold stewardHeartbeatOp
  repeat' first
    | (intro _)
    | (with_reducible exact State.Keeps.refl _ _)
    | (with_reducible assumption)
    | (with_reducible apply State.Keeps.ite)
    | (with_reducible apply State.onStw_keeps)
    | (with_reducible apply State.emit_keeps)
    | decide
    | split
    | dsimp only
    | dsimp +zetaDelta only

theorem stewardTakeoverOp_keeps {m_ : Nat} {s_ : State} (s : State) (hm_ : (m_ ||| 0x6A8E0) = m_) (h_ : State.Keeps m_ s_ s) : State.Keeps m_ s_ (stewardTakeoverOp s) := by
  refine State.Keeps.step (m1 := 0x6A8E0) ?_ hm_ h_
  unfold stewardTakeoverOp
  repeat' first
    | (intro _)
    | (with_reducible exact State.Keeps.refl _ _)
    | (with_reducible assumption)
    | (with_reducible apply State.takeover_keeps)
    | decide
    | split
    | dsimp only
    | dsimp +zetaDelta only

theorem standbyResyncOp_keeps {m_ : Nat} {s_ : State} (s : State) (hm_ : (m_ ||| 0x800) = m_) (h_ : State.Keeps m_ s_ s) : State.Keeps m_ s_ (standbyResyncOp s) := by
  refine State.Keeps.step (m1 := 0x800) ?_ hm_ h_
  unfold standbyResyncOp
  repeat' first
    | (intro _)
    | (with_reducible exact State.Keeps.refl _ _)
    | (with_reducible assumption)
    | (with_reducible apply State.Keeps.ite)
    | (with_reducible apply State.onStw_keeps)
    | decide
    | split
    | dsimp only
    | dsimp +zetaDelta only

theorem stwQidxWriteOp_keeps {m_ : Nat} {s_ : State} (half : Half) (val : Word) (s : State) (hm_ : (m_ ||| 0x8000) = m_) (h_ : State.Keeps m_ s_ s) : State.Keeps m_ s_ (stwQidxWriteOp half val s) := by
  refine State.Keeps.step (m1 := 0x8000) ?_ hm_ h_
  unfold stwQidxWriteOp
  repeat' first
    | (intro _)
    | (with_reducible exact State.Keeps.refl _ _)
    | (with_reducible assumption)
    | (with_reducible apply State.Keeps.ite)
    | (with_reducible apply State.setReg_keeps)
    | (with_reducible apply State.Keeps.foldl)
    | (with_reducible apply State.Keeps.foldlFst)
    | decide
    | extract_lets
    | split
    | dsimp only
    | dsimp +zetaDelta only

theorem stwGcfgWriteOp_keeps {m_ : Nat} {s_ : State} (g : Nat) (half : Half) (val : Word) (s : State) (hm_ : (m_ ||| 0x488E0) = m_) (h_ : State.Keeps m_ s_ s) : State.Keeps m_ s_ (stwGcfgWriteOp g half val s) := by
  refine State.Keeps.step (m1 := 0x488E0) ?_ hm_ h_
  unfold stwGcfgWriteOp
  repeat' first
    | (intro _)
    | (with_reducible exact State.Keeps.refl _ _)
    | (with_reducible assumption)
    | (with_reducible apply State.Keeps.ite)
    | (with_reducible apply State.setReg_keeps)
    | (with_reducible apply State.buildStep_keeps)
    | (with_reducible apply State.onServe_keeps)
    | decide
    | extract_lets
    | split
    | dsimp only
    | dsimp +zetaDelta only

end Sys2Proof.Machine
end

