-- ==== Sys2Proof/Laws/FrameStewardCmds.lean ====
section
/-! SUPPORT. The frame of each operation of Machine/StewardCmds.lean: the blocks of the state that it may change (Laws/Keeps.lean). -/

set_option Elab.async false

namespace Sys2Proof.Machine

theorem State.seqConflict_keeps {m_ : Nat} {s_ : State} (s : State) (c : HostCmd) (obj : Nat) (code : Nat) (ident : Nat) (hm_ : (m_ ||| 0x2A000) = m_) (h_ : State.Keeps m_ s_ s) : State.Keeps m_ s_ (State.seqConflict s c obj code ident) := by
  refine State.Keeps.step (m1 := 0x2A000) ?_ hm_ h_
  unfold State.seqConflict
  repeat' first
    | (intro _)
    | (with_reducible exact State.Keeps.refl _ _)
    | (with_reducible assumption)
    | (with_reducible apply State.refuseState_keeps)
    | (with_reducible apply State.raise_keeps)
    | decide
    | split
    | dsimp only
    | dsimp +zetaDelta only

theorem State.seqRefuse_keeps {m_ : Nat} {s_ : State} (s : State) (c : HostCmd) (i : Nat) (hm_ : (m_ ||| 0x2A000) = m_) (h_ : State.Keeps m_ s_ s) : State.Keeps m_ s_ (State.seqRefuse s c i) := by
  refine State.Keeps.step (m1 := 0x2A000) ?_ hm_ h_
  unfold State.seqRefuse
  repeat' first
    | (intro _)
    | (with_reducible exact State.Keeps.refl _ _)
    | (with_reducible assumption)
    | (with_reducible apply State.seqConflict_keeps)
    | decide
    | split
    | dsimp only
    | dsimp +zetaDelta only

theorem State.seqCommand_keeps {m_ : Nat} {s_ : State} (s : State) (c : HostCmd) (ok : Bool) (f : Nat → State → State) (hm_ : (m_ ||| 0x2A000) = m_) (h_ : State.Keeps m_ s_ s) (hf_ : ∀ i u, State.Keeps m_ s_ u → State.Keeps m_ s_ (f i u)) : State.Keeps m_ s_ (State.seqCommand s c ok f) := by
  unfold State.seqCommand
  repeat' first
    | (intro _)
    | (with_reducible exact State.Keeps.refl _ _)
    | (with_reducible assumption)
    | (with_reducible apply hf_)
    | (with_reducible apply State.Keeps.ite)
    | (with_reducible apply State.refuse_keeps)
    | (with_reducible apply State.seqConflict_keeps)
    | exact State.Keeps.sub hm_ (by decide)
    | exact State.Keeps.bit hm_ (by decide)
    | extract_lets
    | split
    | dsimp only
    | dsimp +zetaDelta only

theorem State.takeSeq_keeps {m_ : Nat} {s_ : State} (s : State) (i : Nat) (hm_ : (m_ ||| 0x800) = m_) (h_ : State.Keeps m_ s_ s) : State.Keeps m_ s_ (State.takeSeq s i) := by
  refine State.Keeps.step (m1 := 0x800) ?_ hm_ h_
  unfold State.takeSeq
  repeat' first
    | (intro _)
    | (with_reducible exact State.Keeps.refl _ _)
    | (with_reducible assumption)
    | (with_reducible apply State.Keeps.ite)
    | (with_reducible apply State.onStw_keeps)
    | decide
    | split
    | dsimp only
    | dsimp +zetaDelta only

theorem State.admitRefuse_keeps {m_ : Nat} {s_ : State} (s : State) (c : HostCmd) (st : Nat) (hm_ : (m_ ||| 0x2A000) = m_) (h_ : State.Keeps m_ s_ s) : State.Keeps m_ s_ (State.admitRefuse s c st) := by
  refine State.Keeps.step (m1 := 0x2A000) ?_ hm_ h_
  unfold State.admitRefuse
  repeat' first
    | (intro _)
    | (with_reducible exact State.Keeps.refl _ _)
    | (with_reducible assumption)
    | (with_reducible apply State.Keeps.ite)
    | (with_reducible apply State.seqConflict_keeps)
    | (with_reducible apply State.refuse_keeps)
    | (with_reducible apply State.raise_keeps)
    | decide
    | extract_lets
    | split
    | dsimp only
    | dsimp +zetaDelta only

theorem State.admitSeq_keeps {m_ : Nat} {s_ : State} (s : State) (c : HostCmd) (hm_ : (m_ ||| 0x488E0) = m_) (h_ : State.Keeps m_ s_ s) : State.Keeps m_ s_ (State.admitSeq s c).1 := by
  refine State.Keeps.step (m1 := 0x488E0) ?_ hm_ h_
  unfold State.admitSeq
  repeat' first
    | (intro _)
    | (with_reducible exact State.Keeps.refl _ _)
    | (with_reducible assumption)
    | (with_reducible apply State.Keeps.iteFst)
    | (with_reducible apply State.Keeps.ite)
    | (with_reducible apply State.prefixWalk_keeps)
    | (with_reducible apply State.newDir_keeps)
    | (with_reducible apply State.takeSeq_keeps)
    | (with_reducible apply State.buildStep_keeps)
    | (with_reducible apply State.onSeqEnt_keeps)
    | (with_reducible apply State.onServe_keeps)
    | (with_reducible apply State.onAdapter_keeps)
    | (with_reducible apply State.count_keeps)
    | decide
    | extract_lets
    | split
    | dsimp only
    | dsimp +zetaDelta only

theorem State.admitTo_keeps {m_ : Nat} {s_ : State} (s : State) (c : HostCmd) (r1 : Nat) (hm_ : (m_ ||| 0x6A8E0) = m_) (h_ : State.Keeps m_ s_ s) : State.Keeps m_ s_ (State.admitTo s c r1) := by
  refine State.Keeps.step (m1 := 0x6A8E0) ?_ hm_ h_
  unfold State.admitTo
  repeat' first
    | (intro _)
    | (with_reducible exact State.Keeps.refl _ _)
    | (with_reducible assumption)
    | (with_reducible apply State.Keeps.ite)
    | (with_reducible apply State.admitRefuse_keeps)
    | (with_reducible apply State.admitSeq_keeps)
    | (with_reducible apply State.seqConflict_keeps)
    | (with_reducible apply State.complete_keeps)
    | (with_reducible apply State.Keeps.ofPair (by with_reducible assumption))
    | decide
    | extract_lets
    | split
    | dsimp only
    | dsimp +zetaDelta only

theorem State.appendSeq_keeps {m_ : Nat} {s_ : State} (s : State) (c : HostCmd) (i : Nat) (hm_ : (m_ ||| 0x6A8E0) = m_) (h_ : State.Keeps m_ s_ s) : State.Keeps m_ s_ (State.appendSeq s c i) := by
  refine State.Keeps.step (m1 := 0x6A8E0) ?_ hm_ h_
  unfold State.appendSeq
  repeat' first
    | (intro _)
    | (with_reducible exact State.Keeps.refl _ _)
    | (with_reducible assumption)
    | (with_reducible apply State.Keeps.ite)
    | (with_reducible apply State.withdrawPieces_keeps)
    | (with_reducible apply State.seqRefuse_keeps)
    | (with_reducible apply State.buildStep_keeps)
    | (with_reducible apply State.onSeqEnt_keeps)
    | (with_reducible apply State.freeExtents_keeps)
    | (with_reducible apply State.refuse_keeps)
    | (with_reducible apply State.onServe_keeps)
    | (with_reducible apply State.complete_keeps)
    | decide
    | extract_lets
    | split
    | dsimp only
    | dsimp +zetaDelta only

theorem State.cancelCmd_keeps {m_ : Nat} {s_ : State} (s : State) (c : HostCmd) (i : Nat) (hm_ : (m_ ||| 0x2A840) = m_) (h_ : State.Keeps m_ s_ s) : State.Keeps m_ s_ (State.cancelCmd s c i) := by
  refine State.Keeps.step (m1 := 0x2A840) ?_ hm_ h_
  unfold State.cancelCmd
  repeat' first
    | (intro _)
    | (with_reducible exact State.Keeps.refl _ _)
    | (with_reducible assumption)
    | (with_reducible apply State.Keeps.ite)
    | (with_reducible apply State.seqRefuse_keeps)
    | (with_reducible apply State.onSeqEnt_keeps)
    | (with_reducible apply State.cancelSeq_keeps)
    | (with_reducible apply State.refuse_keeps)
    | (with_reducible apply State.count_keeps)
    | (with_reducible apply State.complete_keeps)
    | decide
    | extract_lets
    | split
    | dsimp only
    | dsimp +zetaDelta only

theorem State.pauseCmd_keeps {m_ : Nat} {s_ : State} (s : State) (c : HostCmd) (i : Nat) (hm_ : (m_ ||| 0x6A840) = m_) (h_ : State.Keeps m_ s_ s) : State.Keeps m_ s_ (State.pauseCmd s c i) := by
  refine State.Keeps.step (m1 := 0x6A840) ?_ hm_ h_
  unfold State.pauseCmd
  repeat' first
    | (intro _)
    | (with_reducible exact State.Keeps.refl _ _)
    | (with_reducible assumption)
    | (with_reducible apply State.Keeps.ite)
    | (with_reducible apply State.seqRefuse_keeps)
    | (with_reducible apply State.onSeqEnt_keeps)
    | (with_reducible apply State.pauseSeq_keeps)
    | (with_reducible apply State.complete_keeps)
    | decide
    | extract_lets
    | split
    | dsimp only
    | dsimp +zetaDelta only

theorem State.resumeCmd_keeps {m_ : Nat} {s_ : State} (s : State) (c : HostCmd) (i : Nat) (hm_ : (m_ ||| 0x6A8E0) = m_) (h_ : State.Keeps m_ s_ s) : State.Keeps m_ s_ (State.resumeCmd s c i) := by
  refine State.Keeps.step (m1 := 0x6A8E0) ?_ hm_ h_
  unfold State.resumeCmd
  repeat' first
    | (intro _)
    | (with_reducible exact State.Keeps.refl _ _)
    | (with_reducible assumption)
    | (with_reducible apply State.Keeps.ite)
    | (with_reducible apply State.seqRefuse_keeps)
    | (with_reducible apply State.resumeSeq_keeps)
    | (with_reducible apply State.buildStep_keeps)
    | (with_reducible apply State.complete_keeps)
    | decide
    | extract_lets
    | split
    | dsimp only
    | dsimp +zetaDelta only

theorem State.releaseSeq_keeps {m_ : Nat} {s_ : State} (s : State) (c : HostCmd) (i : Nat) (hm_ : (m_ ||| 0x2A840) = m_) (h_ : State.Keeps m_ s_ s) : State.Keeps m_ s_ (State.releaseSeq s c i) := by
  refine State.Keeps.step (m1 := 0x2A840) ?_ hm_ h_
  unfold State.releaseSeq
  repeat' first
    | (intro _)
    | (with_reducible exact State.Keeps.refl _ _)
    | (with_reducible assumption)
    | (with_reducible apply State.Keeps.ite)
    | (with_reducible apply State.onStw_keeps)
    | (with_reducible apply State.leaveBatch_keeps)
    | (with_reducible apply State.seqRefuse_keeps)
    | (with_reducible apply State.onSeqEnt_keeps)
    | (with_reducible apply State.freeCache_keeps)
    | (with_reducible apply State.freeExtents_keeps)
    | (with_reducible apply State.onAdapter_keeps)
    | (with_reducible apply State.complete_keeps)
    | decide
    | extract_lets
    | split
    | dsimp only
    | dsimp +zetaDelta only

theorem State.modelRefuse_keeps {m_ : Nat} {s_ : State} (s : State) (c : HostCmd) (m : Nat) (hm_ : (m_ ||| 0x2A000) = m_) (h_ : State.Keeps m_ s_ s) : State.Keeps m_ s_ (State.modelRefuse s c m) := by
  refine State.Keeps.step (m1 := 0x2A000) ?_ hm_ h_
  unfold State.modelRefuse
  repeat' first
    | (intro _)
    | (with_reducible exact State.Keeps.refl _ _)
    | (with_reducible assumption)
    | (with_reducible apply State.refuseState_keeps)
    | decide
    | split
    | dsimp only
    | dsimp +zetaDelta only

theorem State.modelRoom_keeps {m_ : Nat} {s_ : State} (s : State) (hm_ : (m_ ||| 0x840) = m_) (h_ : State.Keeps m_ s_ s) : State.Keeps.OptS m_ s_ (State.modelRoom s) := by
  unfold State.modelRoom
  repeat' first
    | (intro _)
    | (with_reducible exact State.Keeps.refl _ _)
    | (with_reducible assumption)
    | (with_reducible apply State.Keeps.ite)
    | (with_reducible apply State.onStw_keeps)
    | (with_reducible apply State.takeSystem_keeps)
    | (with_reducible apply State.Keeps.ofPair (by with_reducible assumption))
    | (with_reducible exact State.Keeps.optS_none)
    | (with_reducible apply State.Keeps.optS_some)
    | (with_reducible exact State.Keeps.optP_none)
    | (with_reducible apply State.Keeps.optP_some)
    | (with_reducible exact State.Keeps.exS_error)
    | (with_reducible apply State.Keeps.exS_ok)
    | (with_reducible apply State.Keeps.ofOptS (by with_reducible assumption))
    | exact State.Keeps.sub hm_ (by decide)
    | exact State.Keeps.bit hm_ (by decide)
    | split
    | dsimp only
    | dsimp +zetaDelta only

theorem State.registerModel_keeps {m_ : Nat} {s_ : State} (s : State) (c : HostCmd) (hm_ : (m_ ||| 0x2A840) = m_) (h_ : State.Keeps m_ s_ s) : State.Keeps m_ s_ (State.registerModel s c) := by
  refine State.Keeps.step (m1 := 0x2A840) ?_ hm_ h_
  unfold State.registerModel
  repeat' first
    | (intro _)
    | (with_reducible exact State.Keeps.refl _ _)
    | (with_reducible assumption)
    | (with_reducible apply State.Keeps.ite)
    | (with_reducible apply State.modelRefuse_keeps)
    | (with_reducible apply State.onModel_keeps)
    | (with_reducible apply State.refuse_keeps)
    | (with_reducible apply State.modelRoom_keeps)
    | (with_reducible apply State.complete_keeps)
    | (with_reducible apply State.Keeps.ofOptS (by with_reducible assumption))
    | decide
    | extract_lets
    | split
    | dsimp only
    | dsimp +zetaDelta only

theorem State.switchIn_keeps {m_ : Nat} {s_ : State} (s : State) (c : HostCmd) (hm_ : (m_ ||| 0x2A840) = m_) (h_ : State.Keeps m_ s_ s) : State.Keeps m_ s_ (State.switchIn s c) := by
  refine State.Keeps.step (m1 := 0x2A840) ?_ hm_ h_
  unfold State.switchIn
  repeat' first
    | (intro _)
    | (with_reducible exact State.Keeps.refl _ _)
    | (with_reducible assumption)
    | (with_reducible apply State.Keeps.ite)
    | (with_reducible apply State.modelRefuse_keeps)
    | (with_reducible apply State.onModel_keeps)
    | (with_reducible apply State.refuse_keeps)
    | (with_reducible apply State.swinFetch_keeps)
    | (with_reducible apply State.onFrame_keeps)
    | (with_reducible apply State.Keeps.foldl)
    | (with_reducible apply State.Keeps.foldlFst)
    | decide
    | extract_lets
    | split
    | dsimp only
    | dsimp +zetaDelta only

theorem State.parkCmd_keeps {m_ : Nat} {s_ : State} (s : State) (c : HostCmd) (hm_ : (m_ ||| 0x2A840) = m_) (h_ : State.Keeps m_ s_ s) : State.Keeps m_ s_ (State.parkCmd s c) := by
  refine State.Keeps.step (m1 := 0x2A840) ?_ hm_ h_
  unfold State.parkCmd
  repeat' first
    | (intro _)
    | (with_reducible exact State.Keeps.refl _ _)
    | (with_reducible assumption)
    | (with_reducible apply State.Keeps.ite)
    | (with_reducible apply State.framesFreed_keeps)
    | (with_reducible apply State.modelRefuse_keeps)
    | (with_reducible apply State.refuse_keeps)
    | (with_reducible apply State.refuseState_keeps)
    | (with_reducible apply State.parkModel_keeps)
    | (with_reducible apply State.complete_keeps)
    | decide
    | extract_lets
    | split
    | dsimp only
    | dsimp +zetaDelta only

theorem State.startRepl_keeps {m_ : Nat} {s_ : State} (s : State) (c : HostCmd) (m : Nat) (exts : List MdlExt) (inPlace : Bool) (frames : List Nat) (hm_ : (m_ ||| 0x840) = m_) (h_ : State.Keeps m_ s_ s) : State.Keeps m_ s_ (State.startRepl s c m exts inPlace frames) := by
  refine State.Keeps.step (m1 := 0x840) ?_ hm_ h_
  unfold State.startRepl
  repeat' first
    | (intro _)
    | (with_reducible exact State.Keeps.refl _ _)
    | (with_reducible assumption)
    | (with_reducible apply State.Keeps.ite)
    | (with_reducible apply State.onModel_keeps)
    | (with_reducible apply State.cuffClose_keeps)
    | (with_reducible apply State.replCopies_keeps)
    | (with_reducible apply State.onFrame_keeps)
    | (with_reducible apply State.Keeps.foldl)
    | (with_reducible apply State.Keeps.foldlFst)
    | decide
    | extract_lets
    | split
    | dsimp only
    | dsimp +zetaDelta only

theorem State.replaceModel_keeps {m_ : Nat} {s_ : State} (s : State) (c : HostCmd) (hm_ : (m_ ||| 0x2A840) = m_) (h_ : State.Keeps m_ s_ s) : State.Keeps m_ s_ (State.replaceModel s c) := by
  refine State.Keeps.step (m1 := 0x2A840) ?_ hm_ h_
  unfold State.replaceModel
  repeat' first
    | (intro _)
    | (with_reducible exact State.Keeps.refl _ _)
    | (with_reducible assumption)
    | (with_reducible apply State.Keeps.ite)
    | (with_reducible apply State.modelRefuse_keeps)
    | (with_reducible apply State.refuse_keeps)
    | (with_reducible apply State.startRepl_keeps)
    | decide
    | extract_lets
    | split
    | dsimp only
    | dsimp +zetaDelta only

theorem State.adapterConflict_keeps {m_ : Nat} {s_ : State} (s : State) (c : HostCmd) (a : Nat) (hm_ : (m_ ||| 0x2A000) = m_) (h_ : State.Keeps m_ s_ s) : State.Keeps m_ s_ (State.adapterConflict s c a) := by
  refine State.Keeps.step (m1 := 0x2A000) ?_ hm_ h_
  unfold State.adapterConflict
  repeat' first
    | (intro _)
    | (with_reducible exact State.Keeps.refl _ _)
    | (with_reducible assumption)
    | (with_reducible apply State.refuseState_keeps)
    | decide
    | split
    | dsimp only
    | dsimp +zetaDelta only

theorem State.loadAdapter_keeps {m_ : Nat} {s_ : State} (s : State) (c : HostCmd) (hm_ : (m_ ||| 0x2A840) = m_) (h_ : State.Keeps m_ s_ s) : State.Keeps m_ s_ (State.loadAdapter s c) := by
  refine State.Keeps.step (m1 := 0x2A840) ?_ hm_ h_
  unfold State.loadAdapter
  repeat' first
    | (intro _)
    | (with_reducible exact State.Keeps.refl _ _)
    | (with_reducible assumption)
    | (with_reducible apply State.Keeps.ite)
    | (with_reducible apply State.refuse_keeps)
    | (with_reducible apply State.adapterConflict_keeps)
    | (with_reducible apply State.onAdapter_keeps)
    | (with_reducible apply State.submit_keeps)
    | (with_reducible apply State.Keeps.ofPair (by with_reducible assumption))
    | decide
    | extract_lets
    | split
    | dsimp only
    | dsimp +zetaDelta only

theorem State.unloadAdapter_keeps {m_ : Nat} {s_ : State} (s : State) (c : HostCmd) (hm_ : (m_ ||| 0x2A800) = m_) (h_ : State.Keeps m_ s_ s) : State.Keeps m_ s_ (State.unloadAdapter s c) := by
  refine State.Keeps.step (m1 := 0x2A800) ?_ hm_ h_
  unfold State.unloadAdapter
  repeat' first
    | (intro _)
    | (with_reducible exact State.Keeps.refl _ _)
    | (with_reducible assumption)
    | (with_reducible apply State.Keeps.ite)
    | (with_reducible apply State.refuse_keeps)
    | (with_reducible apply State.adapterConflict_keeps)
    | (with_reducible apply State.onAdapter_keeps)
    | (with_reducible apply State.complete_keeps)
    | decide
    | extract_lets
    | split
    | dsimp only
    | dsimp +zetaDelta only

theorem State.markPath_keeps {m_ : Nat} {s_ : State} (s : State) (p : Nat) (y0 : List Nat) (hm_ : (m_ ||| 0x8840) = m_) (h_ : State.Keeps m_ s_ s) : State.Keeps.OptS m_ s_ (State.markPath s p y0) := by
  induction y0 generalizing s p with
  | nil =>
    unfold State.markPath
    repeat' first
      | (intro _)
      | (with_reducible exact State.Keeps.refl _ _)
      | (with_reducible assumption)
      | (with_reducible apply ih_)
      | (with_reducible apply State.Keeps.ite)
      | (with_reducible apply State.evictUntil_keeps)
      | (with_reducible apply State.putNear_keeps)
      | (with_reducible apply State.onNode_keeps)
      | (with_reducible apply State.Keeps.foldl)
      | (with_reducible apply State.Keeps.foldlFst)
      | (with_reducible exact State.Keeps.optS_none)
      | (with_reducible apply State.Keeps.optS_some)
      | (with_reducible exact State.Keeps.optP_none)
      | (with_reducible apply State.Keeps.optP_some)
      | (with_reducible exact State.Keeps.exS_error)
      | (with_reducible apply State.Keeps.exS_ok)
      | (with_reducible apply State.Keeps.ofOptS (by with_reducible assumption))
      | exact State.Keeps.sub hm_ (by decide)
      | exact State.Keeps.bit hm_ (by decide)
      | extract_lets
      | split
      | dsimp only
      | dsimp +zetaDelta only
  | cons a_ l_ ih_ =>
    unfold State.markPath
    repeat' first
      | (intro _)
      | (with_reducible exact State.Keeps.refl _ _)
      | (with_reducible assumption)
      | (with_reducible apply ih_)
      | (with_reducible apply State.Keeps.ite)
      | (with_reducible apply State.evictUntil_keeps)
      | (with_reducible apply State.putNear_keeps)
      | (with_reducible apply State.onNode_keeps)
      | (with_reducible apply State.Keeps.foldl)
      | (with_reducible apply State.Keeps.foldlFst)
      | (with_reducible exact State.Keeps.optS_none)
      | (with_reducible apply State.Keeps.optS_some)
      | (with_reducible exact State.Keeps.optP_none)
      | (with_reducible apply State.Keeps.optP_some)
      | (with_reducible exact State.Keeps.exS_error)
      | (with_reducible apply State.Keeps.exS_ok)
      | (with_reducible apply State.Keeps.ofOptS (by with_reducible assumption))
      | exact State.Keeps.sub hm_ (by decide)
      | exact State.Keeps.bit hm_ (by decide)
      | extract_lets
      | split
      | dsimp only
      | dsimp +zetaDelta only

theorem State.markPublic_keeps {m_ : Nat} {s_ : State} (s : State) (c : HostCmd) (hm_ : (m_ ||| 0x2A840) = m_) (h_ : State.Keeps m_ s_ s) : State.Keeps m_ s_ (State.markPublic s c) := by
  refine State.Keeps.step (m1 := 0x2A840) ?_ hm_ h_
  unfold State.markPublic
  repeat' first
    | (intro _)
    | (with_reducible exact State.Keeps.refl _ _)
    | (with_reducible assumption)
    | (with_reducible apply State.Keeps.ite)
    | (with_reducible apply State.rootOf_keeps)
    | (with_reducible apply State.markPath_keeps)
    | (with_reducible apply State.refuse_keeps)
    | (with_reducible apply State.complete_keeps)
    | (with_reducible apply State.Keeps.ofPair (by with_reducible assumption))
    | (with_reducible apply State.Keeps.ofOptS (by with_reducible assumption))
    | decide
    | extract_lets
    | split
    | dsimp only
    | dsimp +zetaDelta only

theorem State.planSwap_keeps {m_ : Nat} {s_ : State} (s : State) (c : HostCmd) (hm_ : (m_ ||| 0x2A800) = m_) (h_ : State.Keeps m_ s_ s) : State.Keeps m_ s_ (State.planSwap s c) := by
  refine State.Keeps.step (m1 := 0x2A800) ?_ hm_ h_
  unfold State.planSwap
  repeat' first
    | (intro _)
    | (with_reducible exact State.Keeps.refl _ _)
    | (with_reducible assumption)
    | (with_reducible apply State.Keeps.ite)
    | (with_reducible apply State.onStw_keeps)
    | (with_reducible apply State.swapNow_keeps)
    | (with_reducible apply State.refuseModule_keeps)
    | decide
    | extract_lets
    | split
    | dsimp only
    | dsimp +zetaDelta only

theorem admitSeqOp_keeps {m_ : Nat} {s_ : State} (c : HostCmd) (s : State) (hm_ : (m_ ||| 0x6A8E0) = m_) (h_ : State.Keeps m_ s_ s) : State.Keeps m_ s_ (admitSeqOp c s) := by
  refine State.Keeps.step (m1 := 0x6A8E0) ?_ hm_ h_
  unfold admitSeqOp
  repeat' first
    | (intro _)
    | (with_reducible exact State.Keeps.refl _ _)
    | (with_reducible assumption)
    | (with_reducible apply State.admitTo_keeps)
    | (with_reducible apply State.command_keeps)
    | decide
    | split
    | dsimp only
    | dsimp +zetaDelta only

theorem appendOp_keeps {m_ : Nat} {s_ : State} (c : HostCmd) (s : State) (hm_ : (m_ ||| 0x6A8E0) = m_) (h_ : State.Keeps m_ s_ s) : State.Keeps m_ s_ (appendOp c s) := by
  refine State.Keeps.step (m1 := 0x6A8E0) ?_ hm_ h_
  unfold appendOp
  repeat' first
    | (intro _)
    | (with_reducible exact State.Keeps.refl _ _)
    | (with_reducible assumption)
    | (with_reducible apply State.appendSeq_keeps)
    | (with_reducible apply State.command_keeps)
    | (with_reducible apply State.seqCommand_keeps)
    | decide
    | split
    | dsimp only
    | dsimp +zetaDelta only

theorem cancelOp_keeps {m_ : Nat} {s_ : State} (c : HostCmd) (s : State) (hm_ : (m_ ||| 0x2A840) = m_) (h_ : State.Keeps m_ s_ s) : State.Keeps m_ s_ (cancelOp c s) := by
  refine State.Keeps.step (m1 := 0x2A840) ?_ hm_ h_
  unfold cancelOp
  repeat' first
    | (intro _)
    | (with_reducible exact State.Keeps.refl _ _)
    | (with_reducible assumption)
    | (with_reducible apply State.cancelCmd_keeps)
    | (with_reducible apply State.command_keeps)
    | (with_reducible apply State.seqCommand_keeps)
    | decide
    | split
    | dsimp only
    | dsimp +zetaDelta only

theorem pauseOp_keeps {m_ : Nat} {s_ : State} (c : HostCmd) (s : State) (hm_ : (m_ ||| 0x6A840) = m_) (h_ : State.Keeps m_ s_ s) : State.Keeps m_ s_ (pauseOp c s) := by
  refine State.Keeps.step (m1 := 0x6A840) ?_ hm_ h_
  unfold pauseOp
  repeat' first
    | (intro _)
    | (with_reducible exact State.Keeps.refl _ _)
    | (with_reducible assumption)
    | (with_reducible apply State.pauseCmd_keeps)
    | (with_reducible apply State.command_keeps)
    | (with_reducible apply State.seqCommand_keeps)
    | decide
    | split
    | dsimp only
    | dsimp +zetaDelta only

theorem resumeOp_keeps {m_ : Nat} {s_ : State} (c : HostCmd) (s : State) (hm_ : (m_ ||| 0x6A8E0) = m_) (h_ : State.Keeps m_ s_ s) : State.Keeps m_ s_ (resumeOp c s) := by
  refine State.Keeps.step (m1 := 0x6A8E0) ?_ hm_ h_
  unfold resumeOp
  repeat' first
    | (intro _)
    | (with_reducible exact State.Keeps.refl _ _)
    | (with_reducible assumption)
    | (with_reducible apply State.command_keeps)
    | (with_reducible apply State.seqCommand_keeps)
    | (with_reducible apply State.resumeCmd_keeps)
    | decide
    | split
    | dsimp only
    | dsimp +zetaDelta only

theorem releaseOp_keeps {m_ : Nat} {s_ : State} (c : HostCmd) (s : State) (hm_ : (m_ ||| 0x2A840) = m_) (h_ : State.Keeps m_ s_ s) : State.Keeps m_ s_ (releaseOp c s) := by
  refine State.Keeps.step (m1 := 0x2A840) ?_ hm_ h_
  unfold releaseOp
  repeat' first
    | (intro _)
    | (with_reducible exact State.Keeps.refl _ _)
    | (with_reducible assumption)
    | (with_reducible apply State.command_keeps)
    | (with_reducible apply State.seqCommand_keeps)
    | (with_reducible apply State.releaseSeq_keeps)
    | decide
    | split
    | dsimp only
    | dsimp +zetaDelta only

theorem modelRegisterOp_keeps {m_ : Nat} {s_ : State} (c : HostCmd) (s : State) (hm_ : (m_ ||| 0x2A840) = m_) (h_ : State.Keeps m_ s_ s) : State.Keeps m_ s_ (modelRegisterOp c s) := by
  refine State.Keeps.step (m1 := 0x2A840) ?_ hm_ h_
  unfold modelRegisterOp
  repeat' first
    | (intro _)
    | (with_reducible exact State.Keeps.refl _ _)
    | (with_reducible assumption)
    | (with_reducible apply State.registerModel_keeps)
    | (with_reducible apply State.command_keeps)
    | decide
    | split
    | dsimp only
    | dsimp +zetaDelta only

theorem modelSwitchinOp_keeps {m_ : Nat} {s_ : State} (c : HostCmd) (s : State) (hm_ : (m_ ||| 0x2A840) = m_) (h_ : State.Keeps m_ s_ s) : State.Keeps m_ s_ (modelSwitchinOp c s) := by
  refine State.Keeps.step (m1 := 0x2A840) ?_ hm_ h_
  unfold modelSwitchinOp
  repeat' first
    | (intro _)
    | (with_reducible exact State.Keeps.refl _ _)
    | (with_reducible assumption)
    | (with_reducible apply State.command_keeps)
    | (with_reducible apply State.switchIn_keeps)
    | decide
    | split
    | dsimp only
    | dsimp +zetaDelta only

theorem modelParkOp_keeps {m_ : Nat} {s_ : State} (c : HostCmd) (s : State) (hm_ : (m_ ||| 0x2A840) = m_) (h_ : State.Keeps m_ s_ s) : State.Keeps m_ s_ (modelParkOp c s) := by
  refine State.Keeps.step (m1 := 0x2A840) ?_ hm_ h_
  unfold modelParkOp
  repeat' first
    | (intro _)
    | (with_reducible exact State.Keeps.refl _ _)
    | (with_reducible assumption)
    | (with_reducible apply State.command_keeps)
    | (with_reducible apply State.parkCmd_keeps)
    | decide
    | split
    | dsimp only
    | dsimp +zetaDelta only

theorem modelReplaceOp_keeps {m_ : Nat} {s_ : State} (c : HostCmd) (s : State) (hm_ : (m_ ||| 0x2A840) = m_) (h_ : State.Keeps m_ s_ s) : State.Keeps m_ s_ (modelReplaceOp c s) := by
  refine State.Keeps.step (m1 := 0x2A840) ?_ hm_ h_
  unfold modelReplaceOp
  repeat' first
    | (intro _)
    | (with_reducible exact State.Keeps.refl _ _)
    | (with_reducible assumption)
    | (with_reducible apply State.replaceModel_keeps)
    | (with_reducible apply State.command_keeps)
    | decide
    | split
    | dsimp only
    | dsimp +zetaDelta only

theorem adapterLoadOp_keeps {m_ : Nat} {s_ : State} (c : HostCmd) (s : State) (hm_ : (m_ ||| 0x2A840) = m_) (h_ : State.Keeps m_ s_ s) : State.Keeps m_ s_ (adapterLoadOp c s) := by
  refine State.Keeps.step (m1 := 0x2A840) ?_ hm_ h_
  unfold adapterLoadOp
  repeat' first
    | (intro _)
    | (with_reducible exact State.Keeps.refl _ _)
    | (with_reducible assumption)
    | (with_reducible apply State.command_keeps)
    | (with_reducible apply State.loadAdapter_keeps)
    | decide
    | split
    | dsimp only
    | dsimp +zetaDelta only

theorem adapterUnloadOp_keeps {m_ : Nat} {s_ : State} (c : HostCmd) (s : State) (hm_ : (m_ ||| 0x2A800) = m_) (h_ : State.Keeps m_ s_ s) : State.Keeps m_ s_ (adapterUnloadOp c s) := by
  refine State.Keeps.step (m1 := 0x2A800) ?_ hm_ h_
  unfold adapterUnloadOp
  repeat' first
    | (intro _)
    | (with_reducible exact State.Keeps.refl _ _)
    | (with_reducible assumption)
    | (with_reducible apply State.command_keeps)
    | (with_reducible apply State.unloadAdapter_keeps)
    | decide
    | split
    | dsimp only
    | dsimp +zetaDelta only

theorem markPublicOp_keeps {m_ : Nat} {s_ : State} (c : HostCmd) (s : State) (hm_ : (m_ ||| 0x2A840) = m_) (h_ : State.Keeps m_ s_ s) : State.Keeps m_ s_ (markPublicOp c s) := by
  refine State.Keeps.step (m1 := 0x2A840) ?_ hm_ h_
  unfold markPublicOp
  repeat' first
    | (intro _)
    | (with_reducible exact State.Keeps.refl _ _)
    | (with_reducible assumption)
    | (with_reducible apply State.markPublic_keeps)
    | (with_reducible apply State.command_keeps)
    | decide
    | split
    | dsimp only
    | dsimp +zetaDelta only

theorem stewardSwapOp_keeps {m_ : Nat} {s_ : State} (c : HostCmd) (s : State) (hm_ : (m_ ||| 0x2A800) = m_) (h_ : State.Keeps m_ s_ s) : State.Keeps m_ s_ (stewardSwapOp c s) := by
  refine State.Keeps.step (m1 := 0x2A800) ?_ hm_ h_
  unfold stewardSwapOp
  repeat' first
    | (intro _)
    | (with_reducible exact State.Keeps.refl _ _)
    | (with_reducible assumption)
    | (with_reducible apply State.command_keeps)
    | (with_reducible apply State.planSwap_keeps)
    | decide
    | split
    | dsimp only
    | dsimp +zetaDelta only

end Sys2Proof.Machine
end

