-- ==== Sys2Proof/Laws/FrameLedger.lean ====
section
/-! SUPPORT. The frame of each operation of Machine/Ledger.lean: the blocks of the state that it may change (Laws/Keeps.lean). -/

set_option Elab.async false

namespace Sys2Proof.Machine

theorem State.applyHeld_keeps {m_ : Nat} {s_ : State} (s : State) (k : Nat) (hm_ : (m_ ||| 0x8008) = m_) (h_ : State.Keeps m_ s_ s) : State.Keeps m_ s_ (State.applyHeld s k) := by
  refine State.Keeps.step (m1 := 0x8008) ?_ hm_ h_
  unfold State.applyHeld
  repeat' first
    | (intro _)
    | (with_reducible exact State.Keeps.refl _ _)
    | (with_reducible assumption)
    | (with_reducible apply State.Keeps.ite)
    | (with_reducible apply State.setReg_keeps)
    | (with_reducible apply State.onDie_keeps)
    | (with_reducible apply State.Keeps.foldl)
    | (with_reducible apply State.Keeps.foldlFst)
    | decide
    | split
    | dsimp only
    | dsimp +zetaDelta only

theorem State.applyAllHeld_keeps {m_ : Nat} {s_ : State} (s : State) (hm_ : (m_ ||| 0x8008) = m_) (h_ : State.Keeps m_ s_ s) : State.Keeps m_ s_ (State.applyAllHeld s) := by
  refine State.Keeps.step (m1 := 0x8008) ?_ hm_ h_
  unfold State.applyAllHeld
  repeat' first
    | (intro _)
    | (with_reducible exact State.Keeps.refl _ _)
    | (with_reducible assumption)
    | (with_reducible apply State.applyHeld_keeps)
    | (with_reducible apply State.Keeps.foldl)
    | (with_reducible apply State.Keeps.foldlFst)
    | decide
    | split
    | dsimp only
    | dsimp +zetaDelta only

theorem State.commandVcore_keeps {m_ : Nat} {s_ : State} (s : State) (k : Nat) (t : Nat) (hm_ : (m_ ||| 0x24008) = m_) (h_ : State.Keeps m_ s_ s) : State.Keeps m_ s_ (State.commandVcore s k t) := by
  refine State.Keeps.step (m1 := 0x24008) ?_ hm_ h_
  unfold State.commandVcore
  repeat' first
    | (intro _)
    | (with_reducible exact State.Keeps.refl _ _)
    | (with_reducible assumption)
    | (with_reducible apply State.Keeps.ite)
    | (with_reducible apply State.onDie_keeps)
    | (with_reducible apply State.onAos_keeps)
    | (with_reducible apply State.emit_keeps)
    | decide
    | split
    | dsimp only
    | dsimp +zetaDelta only

theorem State.setStep_keeps {m_ : Nat} {s_ : State} (s : State) (ks : List Nat) (t : Nat) (hm_ : (m_ ||| 0x24008) = m_) (h_ : State.Keeps m_ s_ s) : State.Keeps m_ s_ (State.setStep s ks t) := by
  refine State.Keeps.step (m1 := 0x24008) ?_ hm_ h_
  unfold State.setStep
  repeat' first
    | (intro _)
    | (with_reducible exact State.Keeps.refl _ _)
    | (with_reducible assumption)
    | (with_reducible apply State.Keeps.ite)
    | (with_reducible apply State.onDie_keeps)
    | (with_reducible apply State.commandVcore_keeps)
    | (with_reducible apply State.Keeps.foldl)
    | (with_reducible apply State.Keeps.foldlFst)
    | decide
    | split
    | dsimp only
    | dsimp +zetaDelta only

theorem State.lowerTo_keeps {m_ : Nat} {s_ : State} (s : State) (ks : List Nat) (t : Nat) (hm_ : (m_ ||| 0x24008) = m_) (h_ : State.Keeps m_ s_ s) : State.Keeps m_ s_ (State.lowerTo s ks t) := by
  refine State.Keeps.step (m1 := 0x24008) ?_ hm_ h_
  unfold State.lowerTo
  repeat' first
    | (intro _)
    | (with_reducible exact State.Keeps.refl _ _)
    | (with_reducible assumption)
    | (with_reducible apply State.Keeps.ite)
    | (with_reducible apply State.onDie_keeps)
    | (with_reducible apply State.setStep_keeps)
    | (with_reducible apply State.Keeps.foldl)
    | (with_reducible apply State.Keeps.foldlFst)
    | decide
    | split
    | dsimp only
    | dsimp +zetaDelta only

theorem State.takeLowerings_keeps {m_ : Nat} {s_ : State} (s : State) (g : Nat) (hm_ : (m_ ||| 0x24008) = m_) (h_ : State.Keeps m_ s_ s) : State.Keeps m_ s_ (State.takeLowerings s g) := by
  refine State.Keeps.step (m1 := 0x24008) ?_ hm_ h_
  unfold State.takeLowerings
  repeat' first
    | (intro _)
    | (with_reducible exact State.Keeps.refl _ _)
    | (with_reducible assumption)
    | (with_reducible apply State.Keeps.ite)
    | (with_reducible apply State.setStep_keeps)
    | (with_reducible apply State.Keeps.foldl)
    | (with_reducible apply State.Keeps.foldlFst)
    | decide
    | extract_lets
    | split
    | dsimp only
    | dsimp +zetaDelta only

theorem State.addEst_keeps {m_ : Nat} {s_ : State} (s : State) (i : ImgInfo) (raw : Nat) (hm_ : (m_ ||| 0x100) = m_) (h_ : State.Keeps m_ s_ s) : State.Keeps m_ s_ (State.addEst s i raw) := by
  refine State.Keeps.step (m1 := 0x100) ?_ hm_ h_
  unfold State.addEst
  repeat' first
    | (intro _)
    | (with_reducible exact State.Keeps.refl _ _)
    | (with_reducible assumption)
    | (with_reducible apply State.Keeps.ite)
    | (with_reducible apply State.onLedger_keeps)
    | (with_reducible apply State.Keeps.foldl)
    | (with_reducible apply State.Keeps.foldlFst)
    | decide
    | extract_lets
    | split
    | dsimp only
    | dsimp +zetaDelta only

theorem State.readVcore_keeps {m_ : Nat} {s_ : State} (s : State) (v : List Nat) (hm_ : (m_ ||| 0x8000) = m_) (h_ : State.Keeps m_ s_ s) : State.Keeps m_ s_ (State.readVcore s v) := by
  refine State.Keeps.step (m1 := 0x8000) ?_ hm_ h_
  unfold State.readVcore
  repeat' first
    | (intro _)
    | (with_reducible exact State.Keeps.refl _ _)
    | (with_reducible assumption)
    | (with_reducible apply State.count_keeps)
    | (with_reducible apply State.Keeps.foldl)
    | (with_reducible apply State.Keeps.foldlFst)
    | decide
    | split
    | dsimp only
    | dsimp +zetaDelta only

theorem State.updateCf_keeps {m_ : Nat} {s_ : State} (s : State) (g : Nat) (hm_ : (m_ ||| 0x80) = m_) (h_ : State.Keeps m_ s_ s) : State.Keeps m_ s_ (State.updateCf s g) := by
  refine State.Keeps.step (m1 := 0x80) ?_ hm_ h_
  unfold State.updateCf
  repeat' first
    | (intro _)
    | (with_reducible exact State.Keeps.refl _ _)
    | (with_reducible assumption)
    | (with_reducible apply State.onGlv_keeps)
    | decide
    | extract_lets
    | split
    | dsimp only
    | dsimp +zetaDelta only

theorem State.startWindow_keeps {m_ : Nat} {s_ : State} (s : State) (g : Nat) (raw : Nat) (hm_ : (m_ ||| 0x20) = m_) (h_ : State.Keeps m_ s_ s) : State.Keeps m_ s_ (State.startWindow s g raw) := by
  refine State.Keeps.step (m1 := 0x20) ?_ hm_ h_
  unfold State.startWindow
  repeat' first
    | (intro _)
    | (with_reducible exact State.Keeps.refl _ _)
    | (with_reducible assumption)
    | (with_reducible apply State.onPat_keeps)
    | decide
    | split
    | dsimp only
    | dsimp +zetaDelta only

theorem State.admitSwitch_keeps {m_ : Nat} {s_ : State} (s : State) (q : Nat) (t : Nat) (hm_ : (m_ ||| 0x80A0) = m_) (h_ : State.Keeps m_ s_ s) : State.Keeps m_ s_ (State.admitSwitch s q t) := by
  refine State.Keeps.step (m1 := 0x80A0) ?_ hm_ h_
  unfold State.admitSwitch
  repeat' first
    | (intro _)
    | (with_reducible exact State.Keeps.refl _ _)
    | (with_reducible assumption)
    | (with_reducible apply State.onGsq_keeps)
    | (with_reducible apply State.charge_keeps)
    | decide
    | extract_lets
    | split
    | dsimp only
    | dsimp +zetaDelta only

theorem State.judgeReq_keeps {m_ : Nat} {s_ : State} (s : State) (q : Nat) (older : List Nat) (hm_ : (m_ ||| 0x2C0A8) = m_) (h_ : State.Keeps m_ s_ s) : State.Keeps m_ s_ (State.judgeReq s q older) := by
  refine State.Keeps.step (m1 := 0x2C0A8) ?_ hm_ h_
  unfold State.judgeReq
  repeat' first
    | (intro _)
    | (with_reducible exact State.Keeps.refl _ _)
    | (with_reducible assumption)
    | (with_reducible apply State.Keeps.ite)
    | (with_reducible apply State.lowerTo_keeps)
    | (with_reducible apply State.admitSwitch_keeps)
    | (with_reducible apply State.setStep_keeps)
    | (with_reducible apply State.Keeps.foldl)
    | (with_reducible apply State.Keeps.foldlFst)
    | (with_reducible apply State.Keeps.ofPair (by with_reducible assumption))
    | decide
    | extract_lets
    | split
    | dsimp only
    | dsimp +zetaDelta only

theorem State.holdReq_keeps {m_ : Nat} {s_ : State} (s : State) (q : Nat) (hm_ : (m_ ||| 0x80A0) = m_) (h_ : State.Keeps m_ s_ s) : State.Keeps m_ s_ (State.holdReq s q) := by
  refine State.Keeps.step (m1 := 0x80A0) ?_ hm_ h_
  unfold State.holdReq
  repeat' first
    | (intro _)
    | (with_reducible exact State.Keeps.refl _ _)
    | (with_reducible assumption)
    | (with_reducible apply State.Keeps.ite)
    | (with_reducible apply State.onGsq_keeps)
    | (with_reducible apply State.raise_keeps)
    | (with_reducible apply State.onGlv_keeps)
    | decide
    | split
    | dsimp only
    | dsimp +zetaDelta only

theorem State.dispatch_keeps {m_ : Nat} {s_ : State} (s : State) (hm_ : (m_ ||| 0x2C0A8) = m_) (h_ : State.Keeps m_ s_ s) : State.Keeps m_ s_ (State.dispatch s) := by
  refine State.Keeps.step (m1 := 0x2C0A8) ?_ hm_ h_
  unfold State.dispatch
  repeat' first
    | (intro _)
    | (with_reducible exact State.Keeps.refl _ _)
    | (with_reducible assumption)
    | (with_reducible apply State.Keeps.ite)
    | (with_reducible apply State.judgeReq_keeps)
    | (with_reducible apply State.holdReq_keeps)
    | (with_reducible apply State.Keeps.foldl)
    | (with_reducible apply State.Keeps.foldlFst)
    | (with_reducible apply State.Keeps.ofPair (by with_reducible assumption))
    | decide
    | extract_lets
    | split
    | dsimp only
    | dsimp +zetaDelta only

theorem State.takeGrant_keeps {m_ : Nat} {s_ : State} (s : State) (hm_ : (m_ ||| 0x8100) = m_) (h_ : State.Keeps m_ s_ s) : State.Keeps m_ s_ (State.takeGrant s) := by
  refine State.Keeps.step (m1 := 0x8100) ?_ hm_ h_
  unfold State.takeGrant
  repeat' first
    | (intro _)
    | (with_reducible exact State.Keeps.refl _ _)
    | (with_reducible assumption)
    | (with_reducible apply State.Keeps.ite)
    | (with_reducible apply State.onLedger_keeps)
    | (with_reducible apply State.raise_keeps)
    | (with_reducible apply State.Keeps.ofPair (by with_reducible assumption))
    | decide
    | extract_lets
    | split
    | dsimp only
    | dsimp +zetaDelta only

theorem State.shareOut_keeps {m_ : Nat} {s_ : State} (s : State) (p : Nat) (hm_ : (m_ ||| 0x80) = m_) (h_ : State.Keeps m_ s_ s) : State.Keeps m_ s_ (State.shareOut s p) := by
  refine State.Keeps.step (m1 := 0x80) ?_ hm_ h_
  unfold State.shareOut
  repeat' first
    | (intro _)
    | (with_reducible exact State.Keeps.refl _ _)
    | (with_reducible assumption)
    | (with_reducible apply State.Keeps.ite)
    | (with_reducible apply State.onGlv_keeps)
    | (with_reducible apply State.Keeps.foldl)
    | (with_reducible apply State.Keeps.foldlFst)
    | (with_reducible apply State.Keeps.ofPair (by with_reducible assumption))
    | decide
    | extract_lets
    | split
    | dsimp only
    | dsimp +zetaDelta only

theorem State.chargeContinuing_keeps {m_ : Nat} {s_ : State} (s : State) (hm_ : (m_ ||| 0x81A0) = m_) (h_ : State.Keeps m_ s_ s) : State.Keeps m_ s_ (State.chargeContinuing s) := by
  refine State.Keeps.step (m1 := 0x81A0) ?_ hm_ h_
  unfold State.chargeContinuing
  repeat' first
    | (intro _)
    | (with_reducible exact State.Keeps.refl _ _)
    | (with_reducible assumption)
    | (with_reducible apply State.addEst_keeps)
    | (with_reducible apply State.startWindow_keeps)
    | (with_reducible apply State.updateCf_keeps)
    | (with_reducible apply State.charge_keeps)
    | (with_reducible apply State.Keeps.foldl)
    | (with_reducible apply State.Keeps.foldlFst)
    | (with_reducible apply State.Keeps.ofPair (by with_reducible assumption))
    | decide
    | extract_lets
    | split
    | dsimp only
    | dsimp +zetaDelta only

theorem State.ledgerActs_keeps {m_ : Nat} {s_ : State} (s : State) (m : Meters) (hm_ : (m_ ||| 0x83A8) = m_) (h_ : State.Keeps m_ s_ s) : State.Keeps m_ s_ (State.ledgerActs s m) := by
  refine State.Keeps.step (m1 := 0x83A8) ?_ hm_ h_
  unfold State.ledgerActs
  repeat' first
    | (intro _)
    | (with_reducible exact State.Keeps.refl _ _)
    | (with_reducible assumption)
    | (with_reducible apply State.Keeps.ite)
    | (with_reducible apply State.applyAllHeld_keeps)
    | (with_reducible apply State.shareOut_keeps)
    | (with_reducible apply State.onLedger_keeps)
    | (with_reducible apply State.onRung_keeps)
    | (with_reducible apply State.readVcore_keeps)
    | (with_reducible apply State.takeGrant_keeps)
    | (with_reducible apply State.chargeContinuing_keeps)
    | (with_reducible apply State.raise_keeps)
    | (with_reducible apply State.count_keeps)
    | (with_reducible apply State.Keeps.foldl)
    | (with_reducible apply State.Keeps.foldlFst)
    | decide
    | extract_lets
    | split
    | dsimp only
    | dsimp +zetaDelta only

theorem State.sendDemand_keeps {m_ : Nat} {s_ : State} (s : State) (b : Nat) (hm_ : (m_ ||| 0x21000) = m_) (h_ : State.Keeps m_ s_ s) : State.Keeps m_ s_ (State.sendDemand s b) := by
  refine State.Keeps.step (m1 := 0x21000) ?_ hm_ h_
  unfold State.sendDemand
  repeat' first
    | (intro _)
    | (with_reducible exact State.Keeps.refl _ _)
    | (with_reducible assumption)
    | (with_reducible apply State.Keeps.ite)
    | (with_reducible apply State.emit_keeps)
    | (with_reducible apply State.onWorker_keeps)
    | decide
    | extract_lets
    | split
    | dsimp only
    | dsimp +zetaDelta only

theorem State.lowerDie_keeps {m_ : Nat} {s_ : State} (s : State) (k : Nat) (hm_ : (m_ ||| 0x2C008) = m_) (h_ : State.Keeps m_ s_ s) : State.Keeps m_ s_ (State.lowerDie s k) := by
  refine State.Keeps.step (m1 := 0x2C008) ?_ hm_ h_
  unfold State.lowerDie
  repeat' first
    | (intro _)
    | (with_reducible exact State.Keeps.refl _ _)
    | (with_reducible assumption)
    | (with_reducible apply State.Keeps.ite)
    | (with_reducible apply State.setStep_keeps)
    | (with_reducible apply State.raise_keeps)
    | (with_reducible apply State.onDie_keeps)
    | decide
    | extract_lets
    | split
    | dsimp only
    | dsimp +zetaDelta only

theorem State.sampleDie_keeps {m_ : Nat} {s_ : State} (s : State) (k : Nat) (temp : Nat) (hm_ : (m_ ||| 0x6F8FC) = m_) (h_ : State.Keeps m_ s_ s) : State.Keeps m_ s_ (State.sampleDie s k temp) := by
  refine State.Keeps.step (m1 := 0x6F8FC) ?_ hm_ h_
  unfold State.sampleDie
  repeat' first
    | (intro _)
    | (with_reducible exact State.Keeps.refl _ _)
    | (with_reducible assumption)
    | (with_reducible apply State.Keeps.ite)
    | (with_reducible apply State.fullFence_keeps)
    | (with_reducible apply State.lowerDie_keeps)
    | (with_reducible apply State.raise_keeps)
    | (with_reducible apply State.onDie_keeps)
    | (with_reducible apply State.alert_keeps)
    | decide
    | extract_lets
    | split
    | dsimp only
    | dsimp +zetaDelta only

theorem State.trimPool_keeps {m_ : Nat} {s_ : State} (s : State) (hm_ : (m_ ||| 0x8840) = m_) (h_ : State.Keeps m_ s_ s) : State.Keeps m_ s_ (State.trimPool s) := by
  refine State.Keeps.step (m1 := 0x8840) ?_ hm_ h_
  unfold State.trimPool
  repeat' first
    | (intro _)
    | (with_reducible exact State.Keeps.refl _ _)
    | (with_reducible assumption)
    | (with_reducible apply State.Keeps.ite)
    | (with_reducible apply State.onStw_keeps)
    | (with_reducible apply State.givePairs_keeps)
    | (with_reducible apply State.count_keeps)
    | (with_reducible apply State.removeNode_keeps)
    | (with_reducible apply State.Keeps.foldl)
    | (with_reducible apply State.Keeps.foldlFst)
    | (with_reducible apply State.Keeps.ofPair (by with_reducible assumption))
    | decide
    | extract_lets
    | split
    | dsimp only
    | dsimp +zetaDelta only

theorem ledgerPeriodOp_keeps {m_ : Nat} {s_ : State} (m : Meters) (s : State) (hm_ : (m_ ||| 0x6DBE8) = m_) (h_ : State.Keeps m_ s_ s) : State.Keeps m_ s_ (ledgerPeriodOp m s) := by
  refine State.Keeps.step (m1 := 0x6DBE8) ?_ hm_ h_
  unfold ledgerPeriodOp
  repeat' first
    | (intro _)
    | (with_reducible exact State.Keeps.refl _ _)
    | (with_reducible assumption)
    | (with_reducible apply State.Keeps.ite)
    | (with_reducible apply State.buildAll_keeps)
    | (with_reducible apply State.dispatch_keeps)
    | (with_reducible apply State.ledgerActs_keeps)
    | (with_reducible apply State.trimPool_keeps)
    | (with_reducible apply State.sendDemand_keeps)
    | (with_reducible apply State.Keeps.foldl)
    | (with_reducible apply State.Keeps.foldlFst)
    | decide
    | extract_lets
    | split
    | dsimp only
    | dsimp +zetaDelta only

theorem State.seeEpoch_keeps {m_ : Nat} {s_ : State} (s : State) (e : Word) (hm_ : (m_ ||| 0x8000) = m_) (h_ : State.Keeps m_ s_ s) : State.Keeps m_ s_ (State.seeEpoch s e).1 := by
  refine State.Keeps.step (m1 := 0x8000) ?_ hm_ h_
  unfold State.seeEpoch
  repeat' first
    | (intro _)
    | (with_reducible exact State.Keeps.refl _ _)
    | (with_reducible assumption)
    | (with_reducible apply State.Keeps.iteFst)
    | (with_reducible apply State.Keeps.ite)
    | (with_reducible apply State.setReg_keeps)
    | (with_reducible apply State.raise_keeps)
    | decide
    | extract_lets
    | split
    | dsimp only
    | dsimp +zetaDelta only

theorem grantReceivedOp_keeps {m_ : Nat} {s_ : State} (tick : Word) (mj : Nat) (epoch : Word) (s : State) (hm_ : (m_ ||| 0x8100) = m_) (h_ : State.Keeps m_ s_ s) : State.Keeps m_ s_ (grantReceivedOp tick mj epoch s) := by
  refine State.Keeps.step (m1 := 0x8100) ?_ hm_ h_
  unfold grantReceivedOp
  repeat' first
    | (intro _)
    | (with_reducible exact State.Keeps.refl _ _)
    | (with_reducible assumption)
    | (with_reducible apply State.Keeps.ite)
    | (with_reducible apply State.seeEpoch_keeps)
    | (with_reducible apply State.onLedger_keeps)
    | (with_reducible apply State.Keeps.ofPair (by with_reducible assumption))
    | decide
    | extract_lets
    | split
    | dsimp only
    | dsimp +zetaDelta only

theorem clockStepChangeOp_keeps {m_ : Nat} {s_ : State} (die : Nat) (step : Nat) (mv : Nat) (s : State) (hm_ : (m_ ||| 0x2C008) = m_) (h_ : State.Keeps m_ s_ s) : State.Keeps m_ s_ (clockStepChangeOp die step mv s) := by
  refine State.Keeps.step (m1 := 0x2C008) ?_ hm_ h_
  unfold clockStepChangeOp
  repeat' first
    | (intro _)
    | (with_reducible exact State.Keeps.refl _ _)
    | (with_reducible assumption)
    | (with_reducible apply State.Keeps.ite)
    | (with_reducible apply State.applyHeld_keeps)
    | (with_reducible apply State.onDie_keeps)
    | (with_reducible apply State.commandVcore_keeps)
    | decide
    | extract_lets
    | split
    | dsimp only
    | dsimp +zetaDelta only

theorem State.sampleStack_keeps {m_ : Nat} {s_ : State} (s : State) (n : Nat) (temp : Nat) (hm_ : (m_ ||| 0x40) = m_) (h_ : State.Keeps m_ s_ s) : State.Keeps m_ s_ (State.sampleStack s n temp) := by
  refine State.Keeps.step (m1 := 0x40) ?_ hm_ h_
  unfold State.sampleStack
  repeat' first
    | (intro _)
    | (with_reducible exact State.Keeps.refl _ _)
    | (with_reducible assumption)
    | (with_reducible apply State.Keeps.ite)
    | (with_reducible apply State.onStack_keeps)
    | decide
    | split
    | dsimp only
    | dsimp +zetaDelta only

theorem State.sampleDimm_keeps {m_ : Nat} {s_ : State} (s : State) (c : Nat) (temp : Nat) (hm_ : (m_ ||| 0x40) = m_) (h_ : State.Keeps m_ s_ s) : State.Keeps m_ s_ (State.sampleDimm s c temp) := by
  refine State.Keeps.step (m1 := 0x40) ?_ hm_ h_
  unfold State.sampleDimm
  repeat' first
    | (intro _)
    | (with_reducible exact State.Keeps.refl _ _)
    | (with_reducible assumption)
    | (with_reducible apply State.Keeps.ite)
    | (with_reducible apply State.onDdr_keeps)
    | decide
    | split
    | dsimp only
    | dsimp +zetaDelta only

theorem thermalSampleOp_keeps {m_ : Nat} {s_ : State} (temps : List Nat) (s : State) (hm_ : (m_ ||| 0x6F8FC) = m_) (h_ : State.Keeps m_ s_ s) : State.Keeps m_ s_ (thermalSampleOp temps s) := by
  refine State.Keeps.step (m1 := 0x6F8FC) ?_ hm_ h_
  unfold thermalSampleOp
  repeat' first
    | (intro _)
    | (with_reducible exact State.Keeps.refl _ _)
    | (with_reducible assumption)
    | (with_reducible apply State.sampleDie_keeps)
    | (with_reducible apply State.sampleDimm_keeps)
    | (with_reducible apply State.sampleStack_keeps)
    | (with_reducible apply State.applyAllHeld_keeps)
    | (with_reducible apply State.Keeps.foldl)
    | (with_reducible apply State.Keeps.foldlFst)
    | decide
    | extract_lets
    | split
    | dsimp only
    | dsimp +zetaDelta only

end Sys2Proof.Machine
end

