-- ==== Sys2Proof/Laws/FrameMesh.lean ====
section
/-! SUPPORT. The frame of each operation of Machine/Mesh.lean: the blocks of the state that it may change (Laws/Keeps.lean). -/

set_option Elab.async false

namespace Sys2Proof.Machine

theorem State.guardHit_keeps {m_ : Nat} {s_ : State} (s : State) (p : Site) (port : Nat) (n : Nat) (hm_ : (m_ ||| 0x6A8F8) = m_) (h_ : State.Keeps m_ s_ s) : State.Keeps m_ s_ (State.guardHit s p port n) := by
  refine State.Keeps.step (m1 := 0x6A8F8) ?_ hm_ h_
  unfold State.guardHit
  repeat' first
    | (intro _)
    | (with_reducible exact State.Keeps.refl _ _)
    | (with_reducible assumption)
    | (with_reducible apply State.siteFault_keeps)
    | (with_reducible apply State.raise_keeps)
    | decide
    | split
    | dsimp only
    | dsimp +zetaDelta only

theorem State.arrive_keeps {m_ : Nat} {s_ : State} (s : State) (p : Site) (x : Transit) (hm_ : (m_ ||| 0x10) = m_) (h_ : State.Keeps m_ s_ s) : State.Keeps m_ s_ (State.arrive s p x) := by
  refine State.Keeps.step (m1 := 0x10) ?_ hm_ h_
  unfold State.arrive
  repeat' first
    | (intro _)
    | (with_reducible exact State.Keeps.refl _ _)
    | (with_reducible assumption)
    | (with_reducible apply State.onArr_keeps)
    | decide
    | split
    | dsimp only
    | dsimp +zetaDelta only

theorem State.enterSwitch_keeps {m_ : Nat} {s_ : State} (s : State) (p : Site) (slot : Nat) (port : Nat) (t : Nat) (w : MWord) (hm_ : (m_ ||| 0x10) = m_) (h_ : State.Keeps m_ s_ s) : State.Keeps m_ s_ (State.enterSwitch s p slot port t w) := by
  refine State.Keeps.step (m1 := 0x10) ?_ hm_ h_
  unfold State.enterSwitch
  repeat' first
    | (intro _)
    | (with_reducible exact State.Keeps.refl _ _)
    | (with_reducible assumption)
    | (with_reducible apply State.onArr_keeps)
    | (with_reducible apply State.Keeps.ofPair (by with_reducible assumption))
    | decide
    | extract_lets
    | split
    | dsimp only
    | dsimp +zetaDelta only

theorem State.sendNear_keeps {m_ : Nat} {s_ : State} (s : State) (p : Site) (port : Nat) (t : Nat) (w : Line × Line) (hm_ : (m_ ||| 0x6A8F8) = m_) (h_ : State.Keeps m_ s_ s) : State.Keeps m_ s_ (State.sendNear s p port t w) := by
  refine State.Keeps.step (m1 := 0x6A8F8) ?_ hm_ h_
  unfold State.sendNear
  repeat' first
    | (intro _)
    | (with_reducible exact State.Keeps.refl _ _)
    | (with_reducible assumption)
    | (with_reducible apply State.Keeps.ite)
    | (with_reducible apply State.arrive_keeps)
    | (with_reducible apply State.guardHit_keeps)
    | (with_reducible apply State.Keeps.ofPair (by with_reducible assumption))
    | decide
    | split
    | dsimp only
    | dsimp +zetaDelta only

theorem State.sendLocal_keeps {m_ : Nat} {s_ : State} (s : State) (p : Site) (slot : Nat) (t : Nat) (w : MWord) (hm_ : (m_ ||| 0x10) = m_) (h_ : State.Keeps m_ s_ s) : State.Keeps m_ s_ (State.sendLocal s p slot t w) := by
  refine State.Keeps.step (m1 := 0x10) ?_ hm_ h_
  unfold State.sendLocal
  repeat' first
    | (intro _)
    | (with_reducible exact State.Keeps.refl _ _)
    | (with_reducible assumption)
    | (with_reducible apply State.Keeps.ite)
    | (with_reducible apply State.enterSwitch_keeps)
    | decide
    | split
    | dsimp only
    | dsimp +zetaDelta only

theorem State.deliver_keeps {m_ : Nat} {s_ : State} (s : State) (p : Site) (t : Nat) (hm_ : (m_ ||| 0x6A8F8) = m_) (h_ : State.Keeps m_ s_ s) : State.Keeps m_ s_ (State.deliver s p t) := by
  refine State.Keeps.step (m1 := 0x6A8F8) ?_ hm_ h_
  unfold State.deliver
  repeat' first
    | (intro _)
    | (with_reducible exact State.Keeps.refl _ _)
    | (with_reducible assumption)
    | (with_reducible apply State.Keeps.ite)
    | (with_reducible apply State.siteFault_keeps)
    | (with_reducible apply State.onMCell_keeps)
    | (with_reducible apply State.onCell_keeps)
    | (with_reducible apply State.onArr_keeps)
    | (with_reducible apply State.Keeps.foldl)
    | (with_reducible apply State.Keeps.foldlFst)
    | (with_reducible apply State.Keeps.ofPair (by with_reducible assumption))
    | decide
    | extract_lets
    | split
    | dsimp only
    | dsimp +zetaDelta only

theorem State.switchOut_keeps {m_ : Nat} {s_ : State} (s : State) (p : Site) (slot : Nat) (t : Nat) (o : Nat) (w : MWord) (hm_ : (m_ ||| 0x6A8F8) = m_) (h_ : State.Keeps m_ s_ s) : State.Keeps m_ s_ (State.switchOut s p slot t o w) := by
  refine State.Keeps.step (m1 := 0x6A8F8) ?_ hm_ h_
  unfold State.switchOut
  repeat' first
    | (intro _)
    | (with_reducible exact State.Keeps.refl _ _)
    | (with_reducible assumption)
    | (with_reducible apply State.Keeps.ite)
    | (with_reducible apply State.arrive_keeps)
    | (with_reducible apply State.guardHit_keeps)
    | (with_reducible apply State.enterSwitch_keeps)
    | (with_reducible apply State.Keeps.ofPair (by with_reducible assumption))
    | decide
    | split
    | dsimp only
    | dsimp +zetaDelta only

theorem State.crossbar_keeps {m_ : Nat} {s_ : State} (s : State) (p : Site) (slot : Nat) (t : Nat) (hm_ : (m_ ||| 0x6A8F8) = m_) (h_ : State.Keeps m_ s_ s) : State.Keeps m_ s_ (State.crossbar s p slot t) := by
  refine State.Keeps.step (m1 := 0x6A8F8) ?_ hm_ h_
  unfold State.crossbar
  repeat' first
    | (intro _)
    | (with_reducible exact State.Keeps.refl _ _)
    | (with_reducible assumption)
    | (with_reducible apply State.Keeps.ite)
    | (with_reducible apply State.siteFault_keeps)
    | (with_reducible apply State.switchOut_keeps)
    | (with_reducible apply State.onArr_keeps)
    | (with_reducible apply State.Keeps.foldl)
    | (with_reducible apply State.Keeps.foldlFst)
    | (with_reducible apply State.Keeps.ofPair (by with_reducible assumption))
    | decide
    | extract_lets
    | split
    | dsimp only
    | dsimp +zetaDelta only

end Sys2Proof.Machine
end

