-- ==== Sys2Proof/Laws/FrameAddrGen.lean ====
section
/-! SUPPORT. The frame of each operation of Machine/AddrGen.lean: the blocks of the state that it may change (Laws/Keeps.lean). -/

set_option Elab.async false

namespace Sys2Proof.Machine

theorem State.onAg_keeps {m_ : Nat} {s_ : State} (s : State) (g : Nat) (a : Nat) (f : AgSt → AgSt) (hm_ : (m_ ||| 0x10) = m_) (h_ : State.Keeps m_ s_ s) : State.Keeps m_ s_ (State.onAg s g a f) := by
  refine State.Keeps.step (m1 := 0x10) ?_ hm_ h_
  unfold State.onAg
  repeat' first
    | (intro _)
    | (with_reducible exact State.Keeps.refl _ _)
    | (with_reducible assumption)
    | (with_reducible apply State.onMCell_keeps)
    | decide
    | split
    | dsimp only
    | dsimp +zetaDelta only

theorem State.onMRing_keeps {m_ : Nat} {s_ : State} (s : State) (g : Nat) (j : Nat) (f : RingSt → RingSt) (hm_ : (m_ ||| 0x10) = m_) (h_ : State.Keeps m_ s_ s) : State.Keeps m_ s_ (State.onMRing s g j f) := by
  refine State.Keeps.step (m1 := 0x10) ?_ hm_ h_
  unfold State.onMRing
  repeat' first
    | (intro _)
    | (with_reducible exact State.Keeps.refl _ _)
    | (with_reducible assumption)
    | (with_reducible apply State.onMCell_keeps)
    | decide
    | split
    | dsimp only
    | dsimp +zetaDelta only

theorem State.onHq_keeps {m_ : Nat} {s_ : State} (s : State) (g : Nat) (q : Nat) (f : HqSt → HqSt) (hm_ : (m_ ||| 0x10) = m_) (h_ : State.Keeps m_ s_ s) : State.Keeps m_ s_ (State.onHq s g q f) := by
  refine State.Keeps.step (m1 := 0x10) ?_ hm_ h_
  unfold State.onHq
  repeat' first
    | (intro _)
    | (with_reducible exact State.Keeps.refl _ _)
    | (with_reducible assumption)
    | (with_reducible apply State.onMCell_keeps)
    | decide
    | split
    | dsimp only
    | dsimp +zetaDelta only

theorem State.agNext_keeps {m_ : Nat} {s_ : State} (s : State) (g : Nat) (a : Nat) (hm_ : (m_ ||| 0x10) = m_) (h_ : State.Keeps m_ s_ s) : State.Keeps m_ s_ (State.agNext s g a) := by
  refine State.Keeps.step (m1 := 0x10) ?_ hm_ h_
  unfold State.agNext
  repeat' first
    | (intro _)
    | (with_reducible exact State.Keeps.refl _ _)
    | (with_reducible assumption)
    | (with_reducible apply State.onAg_keeps)
    | decide
    | split
    | dsimp only
    | dsimp +zetaDelta only

theorem State.spoil_keeps {m_ : Nat} {s_ : State} (s : State) (g : Nat) (upset : List (Nat × Nat)) (hm_ : (m_ ||| 0x10) = m_) (h_ : State.Keeps m_ s_ s) : State.Keeps m_ s_ (State.spoil s g upset) := by
  refine State.Keeps.step (m1 := 0x10) ?_ hm_ h_
  unfold State.spoil
  repeat' first
    | (intro _)
    | (with_reducible exact State.Keeps.refl _ _)
    | (with_reducible assumption)
    | (with_reducible apply State.onArr_keeps)
    | (with_reducible apply State.Keeps.foldl)
    | (with_reducible apply State.Keeps.foldlFst)
    | (with_reducible apply State.Keeps.foldlBy (p := State.Fetch.s))
    | decide
    | split
    | dsimp only
    | dsimp +zetaDelta only

theorem State.tensorEvents_keeps {m_ : Nat} {s_ : State} (s : State) (alone : Bool) (ns : List (Nat × Nat)) (hm_ : (m_ ||| 0x8008) = m_) (h_ : State.Keeps m_ s_ s) : State.Keeps m_ s_ (State.tensorEvents s alone ns) := by
  refine State.Keeps.step (m1 := 0x8008) ?_ hm_ h_
  unfold State.tensorEvents
  repeat' first
    | (intro _)
    | (with_reducible exact State.Keeps.refl _ _)
    | (with_reducible assumption)
    | (with_reducible apply State.Keeps.ite)
    | (with_reducible apply State.onDie_keeps)
    | (with_reducible apply State.raise_keeps)
    | (with_reducible apply State.Keeps.foldl)
    | (with_reducible apply State.Keeps.foldlFst)
    | (with_reducible apply State.Keeps.foldlBy (p := State.Fetch.s))
    | decide
    | split
    | dsimp only
    | dsimp +zetaDelta only

theorem State.refuseStream_keeps {m_ : Nat} {s_ : State} (s : State) (g : Nat) (a : Access) (p : Place) (ofs : Nat) (write : Bool) (hm_ : (m_ ||| 0x6A8F0) = m_) (h_ : State.Keeps m_ s_ s) : State.Keeps m_ s_ (State.refuseStream s g a p ofs write) := by
  refine State.Keeps.step (m1 := 0x6A8F0) ?_ hm_ h_
  unfold State.refuseStream
  repeat' first
    | (intro _)
    | (with_reducible exact State.Keeps.refl _ _)
    | (with_reducible assumption)
    | (with_reducible apply State.refuseNear_keeps)
    | (with_reducible apply State.refuseNoFrame_keeps)
    | (with_reducible apply State.tierFault_keeps)
    | decide
    | extract_lets
    | split
    | dsimp only
    | dsimp +zetaDelta only

theorem State.fetchUnit_keeps {m_ : Nat} {s_ : State} (g : Nat) (a : Access) (d : Desc) (bl : Bool) (x : Fetch) (u : Nat) (hm_ : (m_ ||| 0x6E8F0) = m_) (h_ : State.Keeps m_ s_ x.s) : State.Keeps m_ s_ (State.fetchUnit g a d bl x u).s := by
  refine State.Keeps.step (m1 := 0x6E8F0) ?_ hm_ h_
  unfold State.fetchUnit
  repeat' first
    | (intro _)
    | (with_reducible exact State.Keeps.refl _ _)
    | (with_reducible assumption)
    | (with_reducible apply State.Keeps.ite)
    | (with_reducible apply State.onLz2_keeps)
    | (with_reducible apply State.rerunnable_keeps)
    | (with_reducible apply State.decodeBlock_keeps)
    | (with_reducible apply State.onMem_keeps)
    | (with_reducible apply State.refuseStream_keeps)
    | (with_reducible apply State.tierFault_keeps)
    | (with_reducible apply State.Keeps.ofPair (by with_reducible assumption))
    | decide
    | extract_lets
    | split
    | dsimp only
    | dsimp +zetaDelta only

theorem State.checkRow_keeps {m_ : Nat} {s_ : State} (s : State) (g : Nat) (row : Nat) (hm_ : (m_ ||| 0x6E8F0) = m_) (h_ : State.Keeps m_ s_ s) : State.Keeps m_ s_ (State.checkRow s g row) := by
  refine State.Keeps.step (m1 := 0x6E8F0) ?_ hm_ h_
  unfold State.checkRow
  repeat' first
    | (intro _)
    | (with_reducible exact State.Keeps.refl _ _)
    | (with_reducible assumption)
    | (with_reducible apply State.Keeps.ite)
    | (with_reducible apply State.detectRerun_keeps)
    | decide
    | split
    | dsimp only
    | dsimp +zetaDelta only

theorem State.rowAccess_keeps {m_ : Nat} {s_ : State} (s : State) (g : Nat) (row : Nat) (hm_ : (m_ ||| 0x6A8F8) = m_) (h_ : State.Keeps m_ s_ s) : State.Keeps m_ s_ (State.rowAccess s g row) := by
  refine State.Keeps.step (m1 := 0x6A8F8) ?_ hm_ h_
  unfold State.rowAccess
  repeat' first
    | (intro _)
    | (with_reducible exact State.Keeps.refl _ _)
    | (with_reducible assumption)
    | (with_reducible apply State.Keeps.ite)
    | (with_reducible apply State.siteFault_keeps)
    | (with_reducible apply State.onMCell_keeps)
    | decide
    | extract_lets
    | split
    | dsimp only
    | dsimp +zetaDelta only

theorem State.scheduledWrite_keeps {m_ : Nat} {s_ : State} (s : State) (g : Nat) (w : RowWrite) (hm_ : (m_ ||| 0x6E8F8) = m_) (h_ : State.Keeps m_ s_ s) : State.Keeps m_ s_ (State.scheduledWrite s g w) := by
  refine State.Keeps.step (m1 := 0x6E8F8) ?_ hm_ h_
  unfold State.scheduledWrite
  repeat' first
    | (intro _)
    | (with_reducible exact State.Keeps.refl _ _)
    | (with_reducible assumption)
    | (with_reducible apply State.Keeps.ite)
    | (with_reducible apply State.writeRow_keeps)
    | (with_reducible apply State.onMCell_keeps)
    | (with_reducible apply State.detectRerun_keeps)
    | (with_reducible apply State.rowAccess_keeps)
    | (with_reducible apply State.onMRing_keeps)
    | (with_reducible apply State.onArr_keeps)
    | (with_reducible apply State.Keeps.ofPair (by with_reducible assumption))
    | decide
    | extract_lets
    | split
    | dsimp only
    | dsimp +zetaDelta only

theorem State.scheduledWrites_keeps {m_ : Nat} {s_ : State} (s : State) (g : Nat) (t : Nat) (hm_ : (m_ ||| 0x6E8F8) = m_) (h_ : State.Keeps m_ s_ s) : State.Keeps m_ s_ (State.scheduledWrites s g t) := by
  refine State.Keeps.step (m1 := 0x6E8F8) ?_ hm_ h_
  unfold State.scheduledWrites
  repeat' first
    | (intro _)
    | (with_reducible exact State.Keeps.refl _ _)
    | (with_reducible assumption)
    | (with_reducible apply State.onMCell_keeps)
    | (with_reducible apply State.scheduledWrite_keeps)
    | (with_reducible apply State.Keeps.foldl)
    | (with_reducible apply State.Keeps.foldlFst)
    | (with_reducible apply State.Keeps.foldlBy (p := State.Fetch.s))
    | decide
    | split
    | dsimp only
    | dsimp +zetaDelta only

theorem State.putSlot_keeps {m_ : Nat} {s_ : State} (s : State) (g : Nat) (r : RingSt) (n : Nat) (ls : List Line) (hm_ : (m_ ||| 0x40010) = m_) (h_ : State.Keeps m_ s_ s) : State.Keeps m_ s_ (State.putSlot s g r n ls) := by
  refine State.Keeps.step (m1 := 0x40010) ?_ hm_ h_
  unfold State.putSlot
  repeat' first
    | (intro _)
    | (with_reducible exact State.Keeps.refl _ _)
    | (with_reducible assumption)
    | (with_reducible apply State.writeRow_keeps)
    | (with_reducible apply State.spend_keeps)
    | (with_reducible apply State.Keeps.foldl)
    | (with_reducible apply State.Keeps.foldlFst)
    | (with_reducible apply State.Keeps.foldlBy (p := State.Fetch.s))
    | decide
    | split
    | dsimp only
    | dsimp +zetaDelta only

theorem State.fillRow_keeps {m_ : Nat} {s_ : State} (s : State) (g : Nat) (j : Nat) (hm_ : (m_ ||| 0x10) = m_) (h_ : State.Keeps m_ s_ s) : State.Keeps m_ s_ (State.fillRow s g j) := by
  refine State.Keeps.step (m1 := 0x10) ?_ hm_ h_
  unfold State.fillRow
  repeat' first
    | (intro _)
    | (with_reducible exact State.Keeps.refl _ _)
    | (with_reducible assumption)
    | (with_reducible apply State.Keeps.ite)
    | (with_reducible apply State.writeRow_keeps)
    | (with_reducible apply State.onMRing_keeps)
    | decide
    | extract_lets
    | split
    | dsimp only
    | dsimp +zetaDelta only

theorem State.drainRow_keeps {m_ : Nat} {s_ : State} (s : State) (g : Nat) (j : Nat) (hm_ : (m_ ||| 0x6E8F0) = m_) (h_ : State.Keeps m_ s_ s) : State.Keeps m_ s_ (State.drainRow s g j) := by
  refine State.Keeps.step (m1 := 0x6E8F0) ?_ hm_ h_
  unfold State.drainRow
  repeat' first
    | (intro _)
    | (with_reducible exact State.Keeps.refl _ _)
    | (with_reducible assumption)
    | (with_reducible apply State.checkRow_keeps)
    | (with_reducible apply State.onMRing_keeps)
    | decide
    | extract_lets
    | split
    | dsimp only
    | dsimp +zetaDelta only

theorem State.serveKind_keeps {m_ : Nat} {s_ : State} (s : State) (g : Nat) (kind : Nat) (hm_ : (m_ ||| 0x6E8F0) = m_) (h_ : State.Keeps m_ s_ s) : State.Keeps.OptS m_ s_ (State.serveKind s g kind) := by
  unfold State.serveKind
  repeat' first
    | (intro _)
    | (with_reducible exact State.Keeps.refl _ _)
    | (with_reducible assumption)
    | (with_reducible apply State.Keeps.ite)
    | (with_reducible apply State.serveWrite_keeps)
    | (with_reducible apply State.takeRow_keeps)
    | (with_reducible apply State.fillRow_keeps)
    | (with_reducible apply State.drainRow_keeps)
    | (with_reducible apply State.Keeps.ofPair (by with_reducible assumption))
    | (with_reducible exact State.Keeps.optS_none)
    | (with_reducible apply State.Keeps.optS_some)
    | (with_reducible exact State.Keeps.optP_none)
    | (with_reducible apply State.Keeps.optP_some)
    | (with_reducible exact State.Keeps.exS_error)
    | (with_reducible apply State.Keeps.exS_ok)
    | (with_reducible apply State.Keeps.ofOptS (by with_reducible assumption))
    | exact State.Keeps.sub hm_ (by decide)
    | exact State.Keeps.bit hm_ (by decide)
    | split
    | dsimp only
    | dsimp +zetaDelta only

theorem State.serveElastic_keeps {m_ : Nat} {s_ : State} (s : State) (g : Nat) (hm_ : (m_ ||| 0x6E8F0) = m_) (h_ : State.Keeps m_ s_ s) : State.Keeps.OptS m_ s_ (State.serveElastic s g) := by
  unfold State.serveElastic
  repeat' first
    | (intro _)
    | (with_reducible exact State.Keeps.refl _ _)
    | (with_reducible assumption)
    | (with_reducible apply State.serveKind_keeps)
    | (with_reducible apply State.onMCell_keeps)
    | (with_reducible exact State.Keeps.optS_none)
    | (with_reducible apply State.Keeps.optS_some)
    | (with_reducible exact State.Keeps.optP_none)
    | (with_reducible apply State.Keeps.optP_some)
    | (with_reducible exact State.Keeps.exS_error)
    | (with_reducible apply State.Keeps.exS_ok)
    | (with_reducible apply State.Keeps.ofOptS (by with_reducible assumption))
    | (with_reducible apply State.Keeps.optS_findSome)
    | (with_reducible apply State.Keeps.optS_map)
    | exact State.Keeps.sub hm_ (by decide)
    | exact State.Keeps.bit hm_ (by decide)
    | extract_lets
    | split
    | dsimp only
    | dsimp +zetaDelta only

theorem State.serveElastics_keeps {m_ : Nat} {s_ : State} (s : State) (g : Nat) (hm_ : (m_ ||| 0x6E8F0) = m_) (h_ : State.Keeps m_ s_ s) : State.Keeps m_ s_ (State.serveElastics s g) := by
  refine State.Keeps.step (m1 := 0x6E8F0) ?_ hm_ h_
  unfold State.serveElastics
  repeat' first
    | (intro _)
    | (with_reducible exact State.Keeps.refl _ _)
    | (with_reducible assumption)
    | (with_reducible apply State.Keeps.getD)
    | (with_reducible apply State.serveElastic_keeps)
    | (with_reducible apply State.Keeps.ofOptS (by with_reducible assumption))
    | decide
    | split
    | dsimp only
    | dsimp +zetaDelta only

theorem State.fillRing_keeps {m_ : Nat} {s_ : State} (s : State) (g : Nat) (j : Nat) (w : Word) (t : Nat) (drawn : Nat) (hm_ : (m_ ||| 0x6E8F8) = m_) (h_ : State.Keeps m_ s_ s) : State.Keeps m_ s_ (State.fillRing s g j w t drawn) := by
  refine State.Keeps.step (m1 := 0x6E8F8) ?_ hm_ h_
  unfold State.fillRing
  repeat' first
    | (intro _)
    | (with_reducible exact State.Keeps.refl _ _)
    | (with_reducible assumption)
    | (with_reducible apply State.Keeps.ite)
    | (with_reducible apply State.fetchUnit_keeps)
    | (with_reducible apply lz2PageMissOp_keeps)
    | (with_reducible apply State.tensorEvents_keeps)
    | (with_reducible apply State.spend_keeps)
    | (with_reducible apply State.onMRing_keeps)
    | (with_reducible apply State.Keeps.foldl)
    | (with_reducible apply State.Keeps.foldlFst)
    | (with_reducible apply State.Keeps.foldlBy (p := State.Fetch.s))
    | (with_reducible apply State.Keeps.ofPair (by with_reducible assumption))
    | decide
    | extract_lets
    | split
    | dsimp only
    | dsimp +zetaDelta only

theorem State.drainUnit_keeps {m_ : Nat} {s_ : State} (s : State) (g : Nat) (a : Access) (d : Desc) (bl : Bool) (gs : List Seg) (u : Nat) (hm_ : (m_ ||| 0x6A8F0) = m_) (h_ : State.Keeps m_ s_ s) : State.Keeps m_ s_ (State.drainUnit s g a d bl gs u) := by
  refine State.Keeps.step (m1 := 0x6A8F0) ?_ hm_ h_
  unfold State.drainUnit
  repeat' first
    | (intro _)
    | (with_reducible exact State.Keeps.refl _ _)
    | (with_reducible assumption)
    | (with_reducible apply State.Keeps.ite)
    | (with_reducible apply State.onLz2_keeps)
    | (with_reducible apply State.writeBits_keeps)
    | (with_reducible apply State.holdBits_keeps)
    | (with_reducible apply State.onMem_keeps)
    | (with_reducible apply State.refuseStream_keeps)
    | decide
    | extract_lets
    | split
    | dsimp only
    | dsimp +zetaDelta only

theorem State.drainChecks_keeps {m_ : Nat} {s_ : State} (s : State) (a : Access) (d : Desc) (bl : Bool) (gs : List Seg) (us : List Nat) (hm_ : (m_ ||| 0x6E8F0) = m_) (h_ : State.Keeps m_ s_ s) : State.Keeps m_ s_ (State.drainChecks s a d bl gs us) := by
  refine State.Keeps.step (m1 := 0x6E8F0) ?_ hm_ h_
  unfold State.drainChecks
  repeat' first
    | (intro _)
    | (with_reducible exact State.Keeps.refl _ _)
    | (with_reducible assumption)
    | (with_reducible apply State.Keeps.ite)
    | (with_reducible apply State.rerunnable_keeps)
    | (with_reducible apply State.Keeps.foldl)
    | (with_reducible apply State.Keeps.foldlFst)
    | (with_reducible apply State.Keeps.foldlBy (p := State.Fetch.s))
    | decide
    | split
    | dsimp only
    | dsimp +zetaDelta only

theorem State.drainRing_keeps {m_ : Nat} {s_ : State} (s : State) (g : Nat) (j : Nat) (w : Word) (t : Nat) (drawn : Nat) (hm_ : (m_ ||| 0x6E8F8) = m_) (h_ : State.Keeps m_ s_ s) : State.Keeps m_ s_ (State.drainRing s g j w t drawn) := by
  refine State.Keeps.step (m1 := 0x6E8F8) ?_ hm_ h_
  unfold State.drainRing
  repeat' first
    | (intro _)
    | (with_reducible exact State.Keeps.refl _ _)
    | (with_reducible assumption)
    | (with_reducible apply State.Keeps.ite)
    | (with_reducible apply lz2PageMissOp_keeps)
    | (with_reducible apply State.tensorEvents_keeps)
    | (with_reducible apply State.drainChecks_keeps)
    | (with_reducible apply State.drainUnit_keeps)
    | (with_reducible apply State.onMRing_keeps)
    | (with_reducible apply State.Keeps.foldl)
    | (with_reducible apply State.Keeps.foldlFst)
    | (with_reducible apply State.Keeps.foldlBy (p := State.Fetch.s))
    | (with_reducible apply State.Keeps.ofPair (by with_reducible assumption))
    | decide
    | extract_lets
    | split
    | dsimp only
    | dsimp +zetaDelta only

theorem State.popHandle_keeps {m_ : Nat} {s_ : State} (s : State) (g : Nat) (q : Nat) (hm_ : (m_ ||| 0x10) = m_) (h_ : State.Keeps m_ s_ s) : State.Keeps.OptP m_ s_ (State.popHandle s g q) := by
  unfold State.popHandle
  repeat' first
    | (intro _)
    | (with_reducible exact State.Keeps.refl _ _)
    | (with_reducible assumption)
    | (with_reducible apply State.onHq_keeps)
    | (with_reducible apply State.Keeps.ofPair (by with_reducible assumption))
    | (with_reducible exact State.Keeps.optS_none)
    | (with_reducible apply State.Keeps.optS_some)
    | (with_reducible exact State.Keeps.optP_none)
    | (with_reducible apply State.Keeps.optP_some)
    | (with_reducible exact State.Keeps.exS_error)
    | (with_reducible apply State.Keeps.exS_ok)
    | exact State.Keeps.sub hm_ (by decide)
    | exact State.Keeps.bit hm_ (by decide)
    | extract_lets
    | split
    | dsimp only
    | dsimp +zetaDelta only

theorem State.pushHandle_keeps {m_ : Nat} {s_ : State} (s : State) (g : Nat) (q : Nat) (producer : Nat) (h : BitVec 32) (glove : Nat) (hm_ : (m_ ||| 0x8010) = m_) (h_ : State.Keeps m_ s_ s) : State.Keeps m_ s_ (State.pushHandle s g q producer h glove) := by
  refine State.Keeps.step (m1 := 0x8010) ?_ hm_ h_
  unfold State.pushHandle
  repeat' first
    | (intro _)
    | (with_reducible exact State.Keeps.refl _ _)
    | (with_reducible assumption)
    | (with_reducible apply State.Keeps.ite)
    | (with_reducible apply State.rwRefuse_keeps)
    | (with_reducible apply State.onHq_keeps)
    | (with_reducible apply State.Keeps.ofPair (by with_reducible assumption))
    | decide
    | extract_lets
    | split
    | dsimp only
    | dsimp +zetaDelta only

theorem State.remoteTo_keeps {m_ : Nat} {s_ : State} (s : State) (ta : Nat) (glove : Nat) (d : List Byte) (upset : Bool) (hm_ : (m_ ||| 0x28030) = m_) (h_ : State.Keeps m_ s_ s) : State.Keeps m_ s_ (State.remoteTo s ta glove d upset) := by
  refine State.Keeps.step (m1 := 0x28030) ?_ hm_ h_
  unfold State.remoteTo
  repeat' first
    | (intro _)
    | (with_reducible exact State.Keeps.refl _ _)
    | (with_reducible assumption)
    | (with_reducible apply State.remote_keeps)
    | decide
    | split
    | dsimp only
    | dsimp +zetaDelta only

theorem State.drainSend_keeps {m_ : Nat} {s_ : State} (s : State) (g : Nat) (hm_ : (m_ ||| 0x28030) = m_) (h_ : State.Keeps m_ s_ s) : State.Keeps m_ s_ (State.drainSend s g) := by
  refine State.Keeps.step (m1 := 0x28030) ?_ hm_ h_
  unfold State.drainSend
  repeat' first
    | (intro _)
    | (with_reducible exact State.Keeps.refl _ _)
    | (with_reducible assumption)
    | (with_reducible apply State.Keeps.ite)
    | (with_reducible apply State.pushHandle_keeps)
    | (with_reducible apply State.onMCell_keeps)
    | (with_reducible apply State.remoteBytes_keeps)
    | decide
    | extract_lets
    | split
    | dsimp only
    | dsimp +zetaDelta only

theorem State.drainSends_keeps {m_ : Nat} {s_ : State} (s : State) (ms : List Nat) (whole : Bool) (hm_ : (m_ ||| 0x28030) = m_) (h_ : State.Keeps m_ s_ s) : State.Keeps m_ s_ (State.drainSends s ms whole) := by
  refine State.Keeps.step (m1 := 0x28030) ?_ hm_ h_
  unfold State.drainSends
  repeat' first
    | (intro _)
    | (with_reducible exact State.Keeps.refl _ _)
    | (with_reducible assumption)
    | (with_reducible apply State.drainSend_keeps)
    | (with_reducible apply State.Keeps.foldl)
    | (with_reducible apply State.Keeps.foldlFst)
    | (with_reducible apply State.Keeps.foldlBy (p := State.Fetch.s))
    | decide
    | split
    | dsimp only
    | dsimp +zetaDelta only

theorem State.beginTile_keeps {m_ : Nat} {s_ : State} (s : State) (g : Nat) (a : Nat) (i : Nat) (x : AgRun) (hm_ : (m_ ||| 0x10) = m_) (h_ : State.Keeps m_ s_ s) : State.Keeps m_ s_ (State.beginTile s g a i x) := by
  refine State.Keeps.step (m1 := 0x10) ?_ hm_ h_
  unfold State.beginTile
  repeat' first
    | (intro _)
    | (with_reducible exact State.Keeps.refl _ _)
    | (with_reducible assumption)
    | (with_reducible apply State.Keeps.ite)
    | (with_reducible apply State.popHandle_keeps)
    | (with_reducible apply State.onAg_keeps)
    | (with_reducible apply State.Keeps.ofPair (by with_reducible assumption))
    | (with_reducible apply State.Keeps.ofOptP (by with_reducible assumption))
    | (with_reducible apply State.Keeps.ofOptP1 (by with_reducible assumption))
    | decide
    | split
    | dsimp only
    | dsimp +zetaDelta only

theorem State.readLine_keeps {m_ : Nat} {s_ : State} (s : State) (g : Nat) (a : Nat) (x : AgRun) (k : Nat) (hm_ : (m_ ||| 0x6E8F8) = m_) (h_ : State.Keeps m_ s_ s) : State.Keeps m_ s_ (State.readLine s g a x k).1 := by
  refine State.Keeps.step (m1 := 0x6E8F8) ?_ hm_ h_
  unfold State.readLine
  repeat' first
    | (intro _)
    | (with_reducible exact State.Keeps.refl _ _)
    | (with_reducible assumption)
    | (with_reducible apply State.Keeps.iteFst)
    | (with_reducible apply State.Keeps.ite)
    | (with_reducible apply State.rowAccess_keeps)
    | (with_reducible apply State.checkRow_keeps)
    | (with_reducible apply State.Keeps.foldl)
    | (with_reducible apply State.Keeps.foldlFst)
    | (with_reducible apply State.Keeps.foldlBy (p := State.Fetch.s))
    | (with_reducible apply State.Keeps.ofPair (by with_reducible assumption))
    | decide
    | extract_lets
    | split
    | dsimp only
    | dsimp +zetaDelta only

theorem State.emitLines_keeps {m_ : Nat} {s_ : State} (s : State) (g : Nat) (t : Nat) (x : AgRun) (l1 : Line) (l2 : Line) (hm_ : (m_ ||| 0x6A8F8) = m_) (h_ : State.Keeps m_ s_ s) : State.Keeps m_ s_ (State.emitLines s g t x l1 l2) := by
  refine State.Keeps.step (m1 := 0x6A8F8) ?_ hm_ h_
  unfold State.emitLines
  repeat' first
    | (intro _)
    | (with_reducible exact State.Keeps.refl _ _)
    | (with_reducible assumption)
    | (with_reducible apply State.Keeps.ite)
    | (with_reducible apply State.sendNear_keeps)
    | (with_reducible apply State.sendLocal_keeps)
    | decide
    | extract_lets
    | split
    | dsimp only
    | dsimp +zetaDelta only

theorem State.endTile_keeps {m_ : Nat} {s_ : State} (s : State) (g : Nat) (a : Nat) (i : Nat) (x : AgRun) (hm_ : (m_ ||| 0x10) = m_) (h_ : State.Keeps m_ s_ s) : State.Keeps m_ s_ (State.endTile s g a i x) := by
  refine State.Keeps.step (m1 := 0x10) ?_ hm_ h_
  unfold State.endTile
  repeat' first
    | (intro _)
    | (with_reducible exact State.Keeps.refl _ _)
    | (with_reducible assumption)
    | (with_reducible apply State.Keeps.ite)
    | (with_reducible apply State.onAg_keeps)
    | (with_reducible apply State.onMRing_keeps)
    | decide
    | extract_lets
    | split
    | dsimp only
    | dsimp +zetaDelta only

theorem State.storeOwn_keeps {m_ : Nat} {s_ : State} (s : State) (g : Nat) (a : Nat) (x : AgRun) (t : Nat) (lo : Nat) (hi : Nat) (lines : List Line) (hm_ : (m_ ||| 0x6E8F8) = m_) (h_ : State.Keeps m_ s_ s) : State.Keeps m_ s_ (State.storeOwn s g a x t lo hi lines) := by
  refine State.Keeps.step (m1 := 0x6E8F8) ?_ hm_ h_
  unfold State.storeOwn
  repeat' first
    | (intro _)
    | (with_reducible exact State.Keeps.refl _ _)
    | (with_reducible assumption)
    | (with_reducible apply State.scheduledWrite_keeps)
    | (with_reducible apply State.Keeps.foldl)
    | (with_reducible apply State.Keeps.foldlFst)
    | (with_reducible apply State.Keeps.foldlBy (p := State.Fetch.s))
    | (with_reducible apply State.Keeps.ofPair (by with_reducible assumption))
    | decide
    | extract_lets
    | split
    | dsimp only
    | dsimp +zetaDelta only

theorem State.storeSlot_keeps {m_ : Nat} {s_ : State} (s : State) (g : Nat) (j : Nat) (lo : Nat) (hi : Nat) (n : Nat) (lines : List Line) (hm_ : (m_ ||| 0x6A8F8) = m_) (h_ : State.Keeps m_ s_ s) : State.Keeps m_ s_ (State.storeSlot s g j lo hi n lines) := by
  refine State.Keeps.step (m1 := 0x6A8F8) ?_ hm_ h_
  unfold State.storeSlot
  repeat' first
    | (intro _)
    | (with_reducible exact State.Keeps.refl _ _)
    | (with_reducible assumption)
    | (with_reducible apply State.Keeps.ite)
    | (with_reducible apply State.writeRow_keeps)
    | (with_reducible apply State.rowAccess_keeps)
    | (with_reducible apply State.spend_keeps)
    | (with_reducible apply State.onMRing_keeps)
    | (with_reducible apply State.Keeps.foldl)
    | (with_reducible apply State.Keeps.foldlFst)
    | (with_reducible apply State.Keeps.foldlBy (p := State.Fetch.s))
    | decide
    | extract_lets
    | split
    | dsimp only
    | dsimp +zetaDelta only

theorem State.storeLead_keeps {m_ : Nat} {s_ : State} (s : State) (g : Nat) (j : Nat) (lines : List Line) (hm_ : (m_ ||| 0x40010) = m_) (h_ : State.Keeps m_ s_ s) : State.Keeps m_ s_ (State.storeLead s g j lines) := by
  refine State.Keeps.step (m1 := 0x40010) ?_ hm_ h_
  unfold State.storeLead
  repeat' first
    | (intro _)
    | (with_reducible exact State.Keeps.refl _ _)
    | (with_reducible assumption)
    | (with_reducible apply State.onMRing_keeps)
    | (with_reducible apply State.putSlot_keeps)
    | decide
    | extract_lets
    | split
    | dsimp only
    | dsimp +zetaDelta only

theorem State.storeColumn_keeps {m_ : Nat} {s_ : State} (s : State) (g : Nat) (a : Nat) (x : AgRun) (t : Nat) (lines : List Line) (hm_ : (m_ ||| 0x40010) = m_) (h_ : State.Keeps m_ s_ s) : State.Keeps m_ s_ (State.storeColumn s g a x t lines) := by
  refine State.Keeps.step (m1 := 0x40010) ?_ hm_ h_
  unfold State.storeColumn
  repeat' first
    | (intro _)
    | (with_reducible exact State.Keeps.refl _ _)
    | (with_reducible assumption)
    | (with_reducible apply State.Keeps.ite)
    | (with_reducible apply State.onMCell_keeps)
    | (with_reducible apply State.spend_keeps)
    | (with_reducible apply State.onMRing_keeps)
    | (with_reducible apply State.Keeps.ofPair (by with_reducible assumption))
    | decide
    | extract_lets
    | split
    | dsimp only
    | dsimp +zetaDelta only

theorem State.storeRemote_keeps {m_ : Nat} {s_ : State} (s : State) (g : Nat) (a : Nat) (x : AgRun) (lines : List Line) (hm_ : (m_ ||| 0x10) = m_) (h_ : State.Keeps m_ s_ s) : State.Keeps m_ s_ (State.storeRemote s g a x lines) := by
  refine State.Keeps.step (m1 := 0x10) ?_ hm_ h_
  unfold State.storeRemote
  repeat' first
    | (intro _)
    | (with_reducible exact State.Keeps.refl _ _)
    | (with_reducible assumption)
    | (with_reducible apply State.Keeps.ite)
    | (with_reducible apply State.onMCell_keeps)
    | (with_reducible apply State.Keeps.ofPair (by with_reducible assumption))
    | decide
    | extract_lets
    | split
    | dsimp only
    | dsimp +zetaDelta only

theorem State.takeLines_keeps {m_ : Nat} {s_ : State} (s : State) (g : Nat) (x : AgRun) (hm_ : (m_ ||| 0x10) = m_) (h_ : State.Keeps m_ s_ s) : State.Keeps.OptP m_ s_ (State.takeLines s g x) := by
  unfold State.takeLines
  repeat' first
    | (intro _)
    | (with_reducible exact State.Keeps.refl _ _)
    | (with_reducible assumption)
    | (with_reducible apply State.Keeps.iteFst)
    | (with_reducible apply State.Keeps.ite)
    | (with_reducible apply State.onMCell_keeps)
    | (with_reducible apply State.Keeps.ofPair (by with_reducible assumption))
    | (with_reducible exact State.Keeps.optS_none)
    | (with_reducible apply State.Keeps.optS_some)
    | (with_reducible exact State.Keeps.optP_none)
    | (with_reducible apply State.Keeps.optP_some)
    | (with_reducible exact State.Keeps.exS_error)
    | (with_reducible apply State.Keeps.exS_ok)
    | exact State.Keeps.sub hm_ (by decide)
    | exact State.Keeps.bit hm_ (by decide)
    | extract_lets
    | split
    | dsimp only
    | dsimp +zetaDelta only

theorem State.runCycle_keeps {m_ : Nat} {s_ : State} (s : State) (g : Nat) (a : Nat) (i : Nat) (t : Nat) (hm_ : (m_ ||| 0x6E8F8) = m_) (h_ : State.Keeps m_ s_ s) : State.Keeps m_ s_ (State.runCycle s g a i t).1 := by
  refine State.Keeps.step (m1 := 0x6E8F8) ?_ hm_ h_
  unfold State.runCycle
  repeat' first
    | (intro _)
    | (with_reducible exact State.Keeps.refl _ _)
    | (with_reducible assumption)
    | (with_reducible apply State.Keeps.iteFst)
    | (with_reducible apply State.Keeps.ite)
    | (with_reducible apply State.beginTile_keeps)
    | (with_reducible apply State.storeColumn_keeps)
    | (with_reducible apply State.storeSlot_keeps)
    | (with_reducible apply State.readLine_keeps)
    | (with_reducible apply State.endTile_keeps)
    | (with_reducible apply State.siteFault_keeps)
    | (with_reducible apply State.onAg_keeps)
    | (with_reducible apply State.takeLines_keeps)
    | (with_reducible apply State.storeOwn_keeps)
    | (with_reducible apply State.emitLines_keeps)
    | (with_reducible apply State.storeRemote_keeps)
    | (with_reducible apply State.Keeps.ofPair (by with_reducible assumption))
    | (with_reducible apply State.Keeps.ofOptP (by with_reducible assumption))
    | (with_reducible apply State.Keeps.ofOptP1 (by with_reducible assumption))
    | decide
    | extract_lets
    | split
    | dsimp only
    | dsimp +zetaDelta only

theorem State.flushRun_keeps {m_ : Nat} {s_ : State} (s : State) (g : Nat) (a : Nat) (i : Nat) (hm_ : (m_ ||| 0x40010) = m_) (h_ : State.Keeps m_ s_ s) : State.Keeps m_ s_ (State.flushRun s g a i) := by
  refine State.Keeps.step (m1 := 0x40010) ?_ hm_ h_
  unfold State.flushRun
  repeat' first
    | (intro _)
    | (with_reducible exact State.Keeps.refl _ _)
    | (with_reducible assumption)
    | (with_reducible apply State.Keeps.ite)
    | (with_reducible apply State.onAg_keeps)
    | (with_reducible apply State.storeLead_keeps)
    | decide
    | extract_lets
    | split
    | dsimp only
    | dsimp +zetaDelta only

theorem agEndOp_keeps {m_ : Nat} {s_ : State} (cell : Nat) (ag : Nat) (s : State) (hm_ : (m_ ||| 0x10) = m_) (h_ : State.Keeps m_ s_ s) : State.Keeps m_ s_ (agEndOp cell ag s) := by
  refine State.Keeps.step (m1 := 0x10) ?_ hm_ h_
  unfold agEndOp
  repeat' first
    | (intro _)
    | (with_reducible exact State.Keeps.refl _ _)
    | (with_reducible assumption)
    | (with_reducible apply State.onAg_keeps)
    | decide
    | split
    | dsimp only
    | dsimp +zetaDelta only

theorem agRunOp_keeps {m_ : Nat} {s_ : State} (cell : Nat) (ag : Nat) (word : Word) (upset : List (Nat × Nat)) (s : State) (hm_ : (m_ ||| 0x10) = m_) (h_ : State.Keeps m_ s_ s) : State.Keeps m_ s_ (agRunOp cell ag word upset s) := by
  refine State.Keeps.step (m1 := 0x10) ?_ hm_ h_
  unfold agRunOp
  repeat' first
    | (intro _)
    | (with_reducible exact State.Keeps.refl _ _)
    | (with_reducible assumption)
    | (with_reducible apply State.spoil_keeps)
    | (with_reducible apply State.onAg_keeps)
    | (with_reducible apply State.Keeps.ofPair (by with_reducible assumption))
    | decide
    | extract_lets
    | split
    | dsimp only
    | dsimp +zetaDelta only

theorem agLoopOp_keeps {m_ : Nat} {s_ : State} (cell : Nat) (ag : Nat) (count : Nat) (body : Nat) (s : State) (hm_ : (m_ ||| 0x10) = m_) (h_ : State.Keeps m_ s_ s) : State.Keeps m_ s_ (agLoopOp cell ag count body s) := by
  refine State.Keeps.step (m1 := 0x10) ?_ hm_ h_
  unfold agLoopOp
  repeat' first
    | (intro _)
    | (with_reducible exact State.Keeps.refl _ _)
    | (with_reducible assumption)
    | (with_reducible apply State.Keeps.ite)
    | (with_reducible apply State.onAg_keeps)
    | decide
    | split
    | dsimp only
    | dsimp +zetaDelta only

theorem State.setRing_keeps {m_ : Nat} {s_ : State} (s : State) (cell : Nat) (ag : Nat) (rng : Nat) (base : Nat) (srows : Nat) (slots : Nat) (hm_ : (m_ ||| 0x10) = m_) (h_ : State.Keeps m_ s_ s) : State.Keeps m_ s_ (State.setRing s cell ag rng base srows slots) := by
  refine State.Keeps.step (m1 := 0x10) ?_ hm_ h_
  unfold State.setRing
  repeat' first
    | (intro _)
    | (with_reducible exact State.Keeps.refl _ _)
    | (with_reducible assumption)
    | (with_reducible apply State.onMRing_keeps)
    | (with_reducible apply State.Keeps.ofPair (by with_reducible assumption))
    | decide
    | extract_lets
    | split
    | dsimp only
    | dsimp +zetaDelta only

theorem ringOp_keeps {m_ : Nat} {s_ : State} (cell : Nat) (ag : Nat) (rng : Nat) (base : Nat) (srows : Nat) (slots : Nat) (s : State) (hm_ : (m_ ||| 0x10) = m_) (h_ : State.Keeps m_ s_ s) : State.Keeps m_ s_ (ringOp cell ag rng base srows slots s) := by
  refine State.Keeps.step (m1 := 0x10) ?_ hm_ h_
  unfold ringOp
  repeat' first
    | (intro _)
    | (with_reducible exact State.Keeps.refl _ _)
    | (with_reducible assumption)
    | (with_reducible apply State.Keeps.ite)
    | (with_reducible apply State.setRing_keeps)
    | (with_reducible apply State.agNext_keeps)
    | decide
    | split
    | dsimp only
    | dsimp +zetaDelta only

theorem winOp_keeps {m_ : Nat} {s_ : State} (cell : Nat) (w : Nat) (mode : Nat) (cnt : Nat) (base : Nat) (len : Nat) (s : State) (hm_ : (m_ ||| 0x8000) = m_) (h_ : State.Keeps m_ s_ s) : State.Keeps m_ s_ (winOp cell w mode cnt base len s) := by
  refine State.Keeps.step (m1 := 0x8000) ?_ hm_ h_
  unfold winOp
  repeat' first
    | (intro _)
    | (with_reducible exact State.Keeps.refl _ _)
    | (with_reducible assumption)
    | (with_reducible apply State.setReg_keeps)
    | decide
    | split
    | dsimp only
    | dsimp +zetaDelta only

theorem setaOp_keeps {m_ : Nat} {s_ : State} (cell : Nat) (cnt : Nat) (value : BitVec 32) (counted : Nat) (s : State) (hm_ : (m_ ||| 0x8020) = m_) (h_ : State.Keeps m_ s_ s) : State.Keeps m_ s_ (setaOp cell cnt value counted s) := by
  refine State.Keeps.step (m1 := 0x8020) ?_ hm_ h_
  unfold setaOp
  repeat' first
    | (intro _)
    | (with_reducible exact State.Keeps.refl _ _)
    | (with_reducible assumption)
    | (with_reducible apply State.setCountedCell_keeps)
    | decide
    | split
    | dsimp only
    | dsimp +zetaDelta only

theorem hqbOp_keeps {m_ : Nat} {s_ : State} (cell : Nat) (q : Nat) (prod : Nat) (s : State) (hm_ : (m_ ||| 0x10) = m_) (h_ : State.Keeps m_ s_ s) : State.Keeps m_ s_ (hqbOp cell q prod s) := by
  refine State.Keeps.step (m1 := 0x10) ?_ hm_ h_
  unfold hqbOp
  repeat' first
    | (intro _)
    | (with_reducible exact State.Keeps.refl _ _)
    | (with_reducible assumption)
    | (with_reducible apply State.Keeps.ite)
    | (with_reducible apply State.onHq_keeps)
    | decide
    | extract_lets
    | split
    | dsimp only
    | dsimp +zetaDelta only

theorem ringFillOp_keeps {m_ : Nat} {s_ : State} (cell : Nat) (rng : Nat) (s : State) (hm_ : (m_ ||| 0x6E8F8) = m_) (h_ : State.Keeps m_ s_ s) : State.Keeps m_ s_ (ringFillOp cell rng s) := by
  refine State.Keeps.step (m1 := 0x6E8F8) ?_ hm_ h_
  unfold ringFillOp
  repeat' first
    | (intro _)
    | (with_reducible exact State.Keeps.refl _ _)
    | (with_reducible assumption)
    | (with_reducible apply State.Keeps.ite)
    | (with_reducible apply State.serveElastics_keeps)
    | (with_reducible apply State.fillRing_keeps)
    | (with_reducible apply State.Keeps.ofPair (by with_reducible assumption))
    | decide
    | extract_lets
    | split
    | dsimp only
    | dsimp +zetaDelta only

theorem ringDrainOp_keeps {m_ : Nat} {s_ : State} (cell : Nat) (rng : Nat) (upset : List (Nat × Nat)) (s : State) (hm_ : (m_ ||| 0x6E8F8) = m_) (h_ : State.Keeps m_ s_ s) : State.Keeps m_ s_ (ringDrainOp cell rng upset s) := by
  refine State.Keeps.step (m1 := 0x6E8F8) ?_ hm_ h_
  unfold ringDrainOp
  repeat' first
    | (intro _)
    | (with_reducible exact State.Keeps.refl _ _)
    | (with_reducible assumption)
    | (with_reducible apply State.Keeps.ite)
    | (with_reducible apply State.spoil_keeps)
    | (with_reducible apply State.drainRing_keeps)
    | (with_reducible apply State.serveElastics_keeps)
    | (with_reducible apply State.Keeps.ofPair (by with_reducible assumption))
    | decide
    | extract_lets
    | split
    | dsimp only
    | dsimp +zetaDelta only

theorem State.drainNow_keeps {m_ : Nat} {s_ : State} (s : State) (cell : Nat) (rng : Nat) (hm_ : (m_ ||| 0x6E8F8) = m_) (h_ : State.Keeps m_ s_ s) : State.Keeps m_ s_ (State.drainNow s cell rng) := by
  refine State.Keeps.step (m1 := 0x6E8F8) ?_ hm_ h_
  unfold State.drainNow
  repeat' first
    | (intro _)
    | (with_reducible exact State.Keeps.refl _ _)
    | (with_reducible assumption)
    | (with_reducible apply State.Keeps.ite)
    | (with_reducible apply State.drainRing_keeps)
    | (with_reducible apply State.drainRow_keeps)
    | (with_reducible apply State.Keeps.foldl)
    | (with_reducible apply State.Keeps.foldlFst)
    | (with_reducible apply State.Keeps.foldlBy (p := State.Fetch.s))
    | (with_reducible apply State.Keeps.ofPair (by with_reducible assumption))
    | decide
    | extract_lets
    | split
    | dsimp only
    | dsimp +zetaDelta only

theorem mergeWritebackOp_keeps {m_ : Nat} {s_ : State} (cell : Nat) (row : Nat) (s : State) (hm_ : (m_ ||| 0x10) = m_) (h_ : State.Keeps m_ s_ s) : State.Keeps m_ s_ (mergeWritebackOp cell row s) := by
  refine State.Keeps.step (m1 := 0x10) ?_ hm_ h_
  unfold mergeWritebackOp
  repeat' first
    | (intro _)
    | (with_reducible exact State.Keeps.refl _ _)
    | (with_reducible assumption)
    | (with_reducible apply State.Keeps.ite)
    | (with_reducible apply State.mergeBack_keeps)
    | (with_reducible apply State.takeRow_keeps)
    | decide
    | split
    | dsimp only
    | dsimp +zetaDelta only

theorem handlePushOp_keeps {m_ : Nat} {s_ : State} (cell : Nat) (q : Nat) (producer : Nat) (handle : BitVec 32) (glove : Nat) (s : State) (hm_ : (m_ ||| 0x8010) = m_) (h_ : State.Keeps m_ s_ s) : State.Keeps m_ s_ (handlePushOp cell q producer handle glove s) := by
  refine State.Keeps.step (m1 := 0x8010) ?_ hm_ h_
  unfold handlePushOp
  repeat' first
    | (intro _)
    | (with_reducible exact State.Keeps.refl _ _)
    | (with_reducible assumption)
    | (with_reducible apply State.pushHandle_keeps)
    | decide
    | split
    | dsimp only
    | dsimp +zetaDelta only

theorem arvCntWriteOp_keeps {m_ : Nat} {s_ : State} (die : Nat) (m : Nat) (n : Nat) (half : Half) (val : Word) (counted : Nat) (s : State) (hm_ : (m_ ||| 0x8020) = m_) (h_ : State.Keeps m_ s_ s) : State.Keeps m_ s_ (arvCntWriteOp die m n half val counted s) := by
  refine State.Keeps.step (m1 := 0x8020) ?_ hm_ h_
  unfold arvCntWriteOp
  repeat' first
    | (intro _)
    | (with_reducible exact State.Keeps.refl _ _)
    | (with_reducible assumption)
    | (with_reducible apply State.setCountedCell_keeps)
    | decide
    | extract_lets
    | split
    | dsimp only
    | dsimp +zetaDelta only

theorem remoteWriteOp_keeps {m_ : Nat} {s_ : State} (ta : Word) (glove : Nat) (data : List Byte) (upset : Bool) (s : State) (hm_ : (m_ ||| 0x28030) = m_) (h_ : State.Keeps m_ s_ s) : State.Keeps m_ s_ (remoteWriteOp ta glove data upset s) := by
  refine State.Keeps.step (m1 := 0x28030) ?_ hm_ h_
  unfold remoteWriteOp
  repeat' first
    | (intro _)
    | (with_reducible exact State.Keeps.refl _ _)
    | (with_reducible assumption)
    | (with_reducible apply State.Keeps.ite)
    | (with_reducible apply State.remoteTo_keeps)
    | decide
    | extract_lets
    | split
    | dsimp only
    | dsimp +zetaDelta only

theorem State.narrowNear_keeps {m_ : Nat} {s_ : State} (s : State) (who : Requester) (ofs : Nat) (op : NarrowOp) (hm_ : (m_ ||| 0x28840) = m_) (h_ : State.Keeps m_ s_ s) : State.Keeps m_ s_ (State.narrowNear s who ofs op) := by
  refine State.Keeps.step (m1 := 0x28840) ?_ hm_ h_
  unfold State.narrowNear
  repeat' first
    | (intro _)
    | (with_reducible exact State.Keeps.refl _ _)
    | (with_reducible assumption)
    | (with_reducible apply State.Keeps.ite)
    | (with_reducible apply State.nearWrite_keeps)
    | (with_reducible apply State.refuseNear_keeps)
    | (with_reducible apply State.refuseNoFrame_keeps)
    | (with_reducible apply State.emit_keeps)
    | (with_reducible apply State.narrowFault_keeps)
    | (with_reducible apply State.Keeps.ofPair (by with_reducible assumption))
    | decide
    | extract_lets
    | split
    | dsimp only
    | dsimp +zetaDelta only

theorem narrowRequestOp_keeps {m_ : Nat} {s_ : State} (who : Requester) (ta : Word) (op : NarrowOp) (upset : Bool) (s : State) (hm_ : (m_ ||| 0x28870) = m_) (h_ : State.Keeps m_ s_ s) : State.Keeps m_ s_ (narrowRequestOp who ta op upset s) := by
  refine State.Keeps.step (m1 := 0x28870) ?_ hm_ h_
  unfold narrowRequestOp
  repeat' first
    | (intro _)
    | (with_reducible exact State.Keeps.refl _ _)
    | (with_reducible assumption)
    | (with_reducible apply State.Keeps.ite)
    | (with_reducible apply State.narrowNear_keeps)
    | (with_reducible apply State.remoteBytes_keeps)
    | (with_reducible apply State.submitNarrow_keeps)
    | (with_reducible apply State.narrowFault_keeps)
    | (with_reducible apply State.Keeps.ofPair (by with_reducible assumption))
    | decide
    | extract_lets
    | split
    | dsimp only
    | dsimp +zetaDelta only

end Sys2Proof.Machine
end

