-- ==== Sys2Proof/Laws/FrameLoadImage.lean ====
section
/-! SUPPORT. The frame of each operation of Machine/LoadImage.lean: the blocks of the state that it may change (Laws/Keeps.lean). -/

set_option Elab.async false

namespace Sys2Proof.Machine

theorem State.loadStopped_keeps {m_ : Nat} {s_ : State} (s : State) (g : Nat) (x : LoadTrace) (hm_ : (m_ ||| 0x8000) = m_) (h_ : State.Keeps m_ s_ s) : State.Keeps m_ s_ (State.loadStopped s g x) := by
  refine State.Keeps.step (m1 := 0x8000) ?_ hm_ h_
  unfold State.loadStopped
  repeat' first
    | (intro _)
    | (with_reducible exact State.Keeps.refl _ _)
    | (with_reducible assumption)
    | (with_reducible apply State.refuseNear_keeps)
    | (with_reducible apply State.detect_keeps)
    | (with_reducible apply State.refuseNoFrame_keeps)
    | (with_reducible apply State.Keeps.ofPair (by with_reducible assumption))
    | decide
    | extract_lets
    | split
    | dsimp only
    | dsimp +zetaDelta only

theorem State.putRecord_keeps {m_ : Nat} {s_ : State} (s : State) (p : Site) (slot : Nat) (type : Nat) (d : List Byte) (hm_ : (m_ ||| 0x10) = m_) (h_ : State.Keeps m_ s_ s) : State.Keeps.ExS m_ s_ (State.putRecord s p slot type d) := by
  unfold State.putRecord
  repeat' first
    | (intro _)
    | (with_reducible exact State.Keeps.refl _ _)
    | (with_reducible assumption)
    | (with_reducible apply State.Keeps.ite)
    | (with_reducible apply State.onArr_keeps)
    | (with_reducible apply State.Keeps.ofPair (by with_reducible assumption))
    | (with_reducible exact State.Keeps.optS_none)
    | (with_reducible apply State.Keeps.optS_some)
    | (with_reducible exact State.Keeps.optP_none)
    | (with_reducible apply State.Keeps.optP_some)
    | (with_reducible exact State.Keeps.exS_error)
    | (with_reducible apply State.Keeps.exS_ok)
    | exact State.Keeps.sub hm_ (by decide)
    | exact State.Keeps.bit hm_ (by decide)
    | extract_lets
    | split
    | dsimp only
    | dsimp +zetaDelta only

theorem State.putIdle_keeps {m_ : Nat} {s_ : State} (s : State) (p : Site) (slot : Nat) (type : Nat) (hm_ : (m_ ||| 0x10) = m_) (h_ : State.Keeps m_ s_ s) : State.Keeps m_ s_ (State.putIdle s p slot type) := by
  refine State.Keeps.step (m1 := 0x10) ?_ hm_ h_
  unfold State.putIdle
  repeat' first
    | (intro _)
    | (with_reducible exact State.Keeps.refl _ _)
    | (with_reducible assumption)
    | (with_reducible apply State.onArr_keeps)
    | decide
    | split
    | dsimp only
    | dsimp +zetaDelta only

theorem State.Loading.fail_keeps {m_ : Nat} {s_ : State} (x : Loading) (st : Nat) (hm_ : (m_ ||| 0x0) = m_) (h_ : State.Keeps m_ s_ x.s) : State.Keeps m_ s_ (State.Loading.fail x st).s := by
  refine State.Keeps.step (m1 := 0x0) ?_ hm_ h_
  unfold State.Loading.fail
  repeat' first
    | (intro _)
    | (with_reducible exact State.Keeps.refl _ _)
    | (with_reducible assumption)
    | decide
    | split
    | dsimp only
    | dsimp +zetaDelta only

theorem State.loadRecords_keeps {m_ : Nat} {s_ : State} (g : Nat) (slot : Nat) (die : Nat) (ta : Nat) (len : Nat) (palms : BitVec 128) (y0 : Nat) (y1 : Nat) (y2 : Loading) (hm_ : (m_ ||| 0x8010) = m_) (h_ : State.Keeps m_ s_ y2.s) : State.Keeps m_ s_ (State.loadRecords g slot die ta len palms y0 y1 y2).s := by
  induction y0 generalizing y1 y2 with
  | zero =>
    unfold State.loadRecords
    repeat' first
      | (intro _)
      | (with_reducible exact State.Keeps.refl _ _)
      | (with_reducible assumption)
      | (with_reducible apply ih_)
      | (with_reducible apply State.Keeps.ite)
      | (with_reducible apply State.loadStopped_keeps)
      | (with_reducible apply State.Loading.fail_keeps)
      | (with_reducible apply State.putRecord_keeps)
      | (with_reducible apply State.Keeps.ofPair (by with_reducible assumption))
      | (with_reducible apply State.Keeps.ofExS (by with_reducible assumption))
      | exact State.Keeps.sub hm_ (by decide)
      | exact State.Keeps.bit hm_ (by decide)
      | extract_lets
      | split
      | dsimp only
      | dsimp +zetaDelta only
  | succ k_ ih_ =>
    unfold State.loadRecords
    repeat' first
      | (intro _)
      | (with_reducible exact State.Keeps.refl _ _)
      | (with_reducible assumption)
      | (with_reducible apply ih_)
      | (with_reducible apply State.Keeps.ite)
      | (with_reducible apply State.loadStopped_keeps)
      | (with_reducible apply State.Loading.fail_keeps)
      | (with_reducible apply State.putRecord_keeps)
      | (with_reducible apply State.Keeps.ofPair (by with_reducible assumption))
      | (with_reducible apply State.Keeps.ofExS (by with_reducible assumption))
      | exact State.Keeps.sub hm_ (by decide)
      | exact State.Keeps.bit hm_ (by decide)
      | extract_lets
      | split
      | dsimp only
      | dsimp +zetaDelta only

theorem State.partRecords_keeps {m_ : Nat} {s_ : State} (g : Nat) (slot : Nat) (h : List Byte) (x : Loading) (k : Nat) (hm_ : (m_ ||| 0x8010) = m_) (h_ : State.Keeps m_ s_ x.s) : State.Keeps m_ s_ (State.partRecords g slot h x k).s := by
  refine State.Keeps.step (m1 := 0x8010) ?_ hm_ h_
  unfold State.partRecords
  repeat' first
    | (intro _)
    | (with_reducible exact State.Keeps.refl _ _)
    | (with_reducible assumption)
    | (with_reducible apply State.Keeps.ite)
    | (with_reducible apply State.loadRecords_keeps)
    | (with_reducible apply State.Loading.fail_keeps)
    | decide
    | extract_lets
    | split
    | dsimp only
    | dsimp +zetaDelta only

theorem State.loadPart_keeps {m_ : Nat} {s_ : State} (g : Nat) (slot : Nat) (h : List Byte) (pdig : Option (List Byte)) (x : Loading) (k : Nat) (hm_ : (m_ ||| 0x8010) = m_) (h_ : State.Keeps m_ s_ x.s) : State.Keeps m_ s_ (State.loadPart g slot h pdig x k).s := by
  refine State.Keeps.step (m1 := 0x8010) ?_ hm_ h_
  unfold State.loadPart
  repeat' first
    | (intro _)
    | (with_reducible exact State.Keeps.refl _ _)
    | (with_reducible assumption)
    | (with_reducible apply State.Keeps.ite)
    | (with_reducible apply State.partRecords_keeps)
    | (with_reducible apply State.Loading.fail_keeps)
    | decide
    | extract_lets
    | split
    | dsimp only
    | dsimp +zetaDelta only

theorem State.loadImage_keeps {m_ : Nat} {s_ : State} (s : State) (g : Nat) (slot : Nat) (ta : Nat) (hm_ : (m_ ||| 0x8030) = m_) (h_ : State.Keeps m_ s_ s) : State.Keeps m_ s_ (State.loadImage s g slot ta).1 := by
  refine State.Keeps.step (m1 := 0x8030) ?_ hm_ h_
  unfold State.loadImage
  repeat' first
    | (intro _)
    | (with_reducible exact State.Keeps.refl _ _)
    | (with_reducible assumption)
    | (with_reducible apply State.Keeps.iteFst)
    | (with_reducible apply State.Keeps.ite)
    | (with_reducible apply State.loadStopped_keeps)
    | (with_reducible apply State.onSeq_keeps)
    | (with_reducible apply State.putIdle_keeps)
    | (with_reducible apply State.raise_keeps)
    | (with_reducible apply State.loadPart_keeps)
    | (with_reducible apply State.Keeps.foldl)
    | (with_reducible apply State.Keeps.foldlFst)
    | (with_reducible apply State.Keeps.foldlBy (p := State.Loading.s))
    | (with_reducible apply State.Keeps.ofPair (by with_reducible assumption))
    | decide
    | extract_lets
    | split
    | dsimp only
    | dsimp +zetaDelta only

end Sys2Proof.Machine
end

