-- ==== Sys2Proof/Laws/FramePatterns.lean ====
section
/-! SUPPORT. The frame of each operation of Machine/Patterns.lean: the blocks of the state that it may change (Laws/Keeps.lean). -/

set_option Elab.async false

namespace Sys2Proof.Machine

theorem State.setSlot_keeps {m_ : Nat} {s_ : State} (s : State) (q : Nat) (slot : Nat) (st : SlotState) (hm_ : (m_ ||| 0x20) = m_) (h_ : State.Keeps m_ s_ s) : State.Keeps m_ s_ (State.setSlot s q slot st) := by
  refine State.Keeps.step (m1 := 0x20) ?_ hm_ h_
  unfold State.setSlot
  repeat' first
    | (intro _)
    | (with_reducible exact State.Keeps.refl _ _)
    | (with_reducible assumption)
    | (with_reducible apply State.Keeps.ite)
    | (with_reducible apply State.onGsq_keeps)
    | decide
    | split
    | dsimp only
    | dsimp +zetaDelta only

theorem State.startLoad_keeps {m_ : Nat} {s_ : State} (s : State) (q : Nat) (slot : Nat) (ta : Nat) (hm_ : (m_ ||| 0x8020) = m_) (h_ : State.Keeps m_ s_ s) : State.Keeps m_ s_ (State.startLoad s q slot ta) := by
  refine State.Keeps.step (m1 := 0x8020) ?_ hm_ h_
  unfold State.startLoad
  repeat' first
    | (intro _)
    | (with_reducible exact State.Keeps.refl _ _)
    | (with_reducible assumption)
    | (with_reducible apply State.Keeps.ite)
    | (with_reducible apply State.onGsq_keeps)
    | (with_reducible apply State.raise_keeps)
    | (with_reducible apply State.setSlot_keeps)
    | (with_reducible apply State.Keeps.ofPair (by with_reducible assumption))
    | decide
    | extract_lets
    | split
    | dsimp only
    | dsimp +zetaDelta only

theorem State.wakeLoadTurn_keeps {m_ : Nat} {s_ : State} (s : State) (q : Nat) (hm_ : (m_ ||| 0x8020) = m_) (h_ : State.Keeps m_ s_ s) : State.Keeps m_ s_ (State.wakeLoadTurn s q) := by
  refine State.Keeps.step (m1 := 0x8020) ?_ hm_ h_
  unfold State.wakeLoadTurn
  repeat' first
    | (intro _)
    | (with_reducible exact State.Keeps.refl _ _)
    | (with_reducible assumption)
    | (with_reducible apply State.Keeps.ite)
    | (with_reducible apply State.startLoad_keeps)
    | (with_reducible apply State.gsqSt_keeps)
    | (with_reducible apply State.Keeps.ofPair (by with_reducible assumption))
    | decide
    | split
    | dsimp only
    | dsimp +zetaDelta only

theorem State.wakeLoaded_keeps {m_ : Nat} {s_ : State} (s : State) (q : Nat) (hm_ : (m_ ||| 0x20) = m_) (h_ : State.Keeps m_ s_ s) : State.Keeps m_ s_ (State.wakeLoaded s q) := by
  refine State.Keeps.step (m1 := 0x20) ?_ hm_ h_
  unfold State.wakeLoaded
  repeat' first
    | (intro _)
    | (with_reducible exact State.Keeps.refl _ _)
    | (with_reducible assumption)
    | (with_reducible apply State.gsqSt_keeps)
    | (with_reducible apply State.Keeps.ofPair (by with_reducible assumption))
    | decide
    | split
    | dsimp only
    | dsimp +zetaDelta only

theorem State.wakeDone_keeps {m_ : Nat} {s_ : State} (s : State) (q : Nat) (hm_ : (m_ ||| 0x20) = m_) (h_ : State.Keeps m_ s_ s) : State.Keeps m_ s_ (State.wakeDone s q) := by
  refine State.Keeps.step (m1 := 0x20) ?_ hm_ h_
  unfold State.wakeDone
  repeat' first
    | (intro _)
    | (with_reducible exact State.Keeps.refl _ _)
    | (with_reducible assumption)
    | (with_reducible apply State.Keeps.ite)
    | (with_reducible apply State.gsqSt_keeps)
    | decide
    | split
    | dsimp only
    | dsimp +zetaDelta only

theorem State.wakeSwitched_keeps {m_ : Nat} {s_ : State} (s : State) (q : Nat) (hm_ : (m_ ||| 0x20) = m_) (h_ : State.Keeps m_ s_ s) : State.Keeps m_ s_ (State.wakeSwitched s q) := by
  refine State.Keeps.step (m1 := 0x20) ?_ hm_ h_
  unfold State.wakeSwitched
  repeat' first
    | (intro _)
    | (with_reducible exact State.Keeps.refl _ _)
    | (with_reducible assumption)
    | (with_reducible apply State.Keeps.ite)
    | (with_reducible apply State.gsqSt_keeps)
    | decide
    | split
    | dsimp only
    | dsimp +zetaDelta only

theorem State.wakePattern_keeps {m_ : Nat} {s_ : State} (s : State) (q : Nat) (hm_ : (m_ ||| 0x8020) = m_) (h_ : State.Keeps m_ s_ s) : State.Keeps m_ s_ (State.wakePattern s q) := by
  refine State.Keeps.step (m1 := 0x8020) ?_ hm_ h_
  unfold State.wakePattern
  repeat' first
    | (intro _)
    | (with_reducible exact State.Keeps.refl _ _)
    | (with_reducible assumption)
    | (with_reducible apply State.wakeLoaded_keeps)
    | (with_reducible apply State.wakeDone_keeps)
    | (with_reducible apply State.wakeLoadTurn_keeps)
    | (with_reducible apply State.wakeSwitched_keeps)
    | decide
    | split
    | dsimp only
    | dsimp +zetaDelta only

theorem State.raiseFreeze_keeps {m_ : Nat} {s_ : State} (s : State) (g : Nat) (p : PortRef) (hm_ : (m_ ||| 0x6A8F8) = m_) (h_ : State.Keeps m_ s_ s) : State.Keeps m_ s_ (State.raiseFreeze s g p) := by
  refine State.Keeps.step (m1 := 0x6A8F8) ?_ hm_ h_
  unfold State.raiseFreeze
  repeat' first
    | (intro _)
    | (with_reducible exact State.Keeps.refl _ _)
    | (with_reducible assumption)
    | (with_reducible apply State.Keeps.ite)
    | (with_reducible apply State.setReg_keeps)
    | (with_reducible apply State.onPat_keeps)
    | (with_reducible apply State.raise_keeps)
    | (with_reducible apply State.Keeps.foldl)
    | (with_reducible apply State.Keeps.foldlFst)
    | (with_reducible apply State.Keeps.foldlBy (p := State.MWork.s))
    | (with_reducible apply State.Keeps.ofPair (by with_reducible assumption))
    | decide
    | extract_lets
    | split
    | dsimp only
    | dsimp +zetaDelta only

theorem State.abandonCell_keeps {m_ : Nat} {s_ : State} (s : State) (p : Site) (hm_ : (m_ ||| 0x48010) = m_) (h_ : State.Keeps m_ s_ s) : State.Keeps m_ s_ (State.abandonCell s p) := by
  refine State.Keeps.step (m1 := 0x48010) ?_ hm_ h_
  unfold State.abandonCell
  repeat' first
    | (intro _)
    | (with_reducible exact State.Keeps.refl _ _)
    | (with_reducible assumption)
    | (with_reducible apply State.Keeps.ite)
    | (with_reducible apply State.raise_keeps)
    | (with_reducible apply State.spend_keeps)
    | (with_reducible apply State.onArr_keeps)
    | (with_reducible apply State.Keeps.foldl)
    | (with_reducible apply State.Keeps.foldlFst)
    | (with_reducible apply State.Keeps.foldlBy (p := State.MWork.s))
    | (with_reducible apply State.Keeps.ofPair (by with_reducible assumption))
    | decide
    | extract_lets
    | split
    | dsimp only
    | dsimp +zetaDelta only

theorem State.abandonMCell_keeps {m_ : Nat} {s_ : State} (s : State) (g : Nat) (hm_ : (m_ ||| 0x6E8F8) = m_) (h_ : State.Keeps m_ s_ s) : State.Keeps m_ s_ (State.abandonMCell s g) := by
  refine State.Keeps.step (m1 := 0x6E8F8) ?_ hm_ h_
  unfold State.abandonMCell
  repeat' first
    | (intro _)
    | (with_reducible exact State.Keeps.refl _ _)
    | (with_reducible assumption)
    | (with_reducible apply State.Keeps.ite)
    | (with_reducible apply State.drainSend_keeps)
    | (with_reducible apply State.drainNow_keeps)
    | (with_reducible apply State.onMRing_keeps)
    | (with_reducible apply State.Keeps.foldl)
    | (with_reducible apply State.Keeps.foldlFst)
    | (with_reducible apply State.Keeps.foldlBy (p := State.MWork.s))
    | (with_reducible apply State.Keeps.ofPair (by with_reducible assumption))
    | decide
    | extract_lets
    | split
    | dsimp only
    | dsimp +zetaDelta only

theorem State.enterSlot_keeps {m_ : Nat} {s_ : State} (s : State) (slot : Nat) (p : Site) (hm_ : (m_ ||| 0x10) = m_) (h_ : State.Keeps m_ s_ s) : State.Keeps m_ s_ (State.enterSlot s slot p) := by
  refine State.Keeps.step (m1 := 0x10) ?_ hm_ h_
  unfold State.enterSlot
  repeat' first
    | (intro _)
    | (with_reducible exact State.Keeps.refl _ _)
    | (with_reducible assumption)
    | (with_reducible apply State.Keeps.ite)
    | (with_reducible apply State.onMCell_keeps)
    | (with_reducible apply State.onCell_keeps)
    | (with_reducible apply State.onArr_keeps)
    | (with_reducible apply State.Keeps.ofPair (by with_reducible assumption))
    | decide
    | extract_lets
    | split
    | dsimp only
    | dsimp +zetaDelta only

theorem State.takeSwitch_keeps {m_ : Nat} {s_ : State} (s : State) (g : Nat) (q : Nat) (r : SwReq) (held : Bool) (vcore : List Nat) (hm_ : (m_ ||| 0x6E9F8) = m_) (h_ : State.Keeps m_ s_ s) : State.Keeps m_ s_ (State.takeSwitch s g q r held vcore) := by
  refine State.Keeps.step (m1 := 0x6E9F8) ?_ hm_ h_
  unfold State.takeSwitch
  repeat' first
    | (intro _)
    | (with_reducible exact State.Keeps.refl _ _)
    | (with_reducible assumption)
    | (with_reducible apply State.Keeps.ite)
    | (with_reducible apply State.addEst_keeps)
    | (with_reducible apply State.abandonCell_keeps)
    | (with_reducible apply State.abandonMCell_keeps)
    | (with_reducible apply State.startWindow_keeps)
    | (with_reducible apply State.wakePattern_keeps)
    | (with_reducible apply State.takeLowerings_keeps)
    | (with_reducible apply State.stopPalm_keeps)
    | (with_reducible apply State.onPat_keeps)
    | (with_reducible apply State.readVcore_keeps)
    | (with_reducible apply State.onGsq_keeps)
    | (with_reducible apply State.enterSlot_keeps)
    | (with_reducible apply State.Keeps.foldl)
    | (with_reducible apply State.Keeps.foldlFst)
    | (with_reducible apply State.Keeps.foldlBy (p := State.MWork.s))
    | decide
    | extract_lets
    | split
    | dsimp only
    | dsimp +zetaDelta only

theorem State.cellFaultOf_keeps {m_ : Nat} {s_ : State} (s : State) (k : Nat) (cause : Nat) (slot : Nat) (iss : IssueSt) (hm_ : (m_ ||| 0x6A8F8) = m_) (h_ : State.Keeps m_ s_ s) : State.Keeps m_ s_ (State.cellFaultOf s k cause slot iss) := by
  refine State.Keeps.step (m1 := 0x6A8F8) ?_ hm_ h_
  unfold State.cellFaultOf
  repeat' first
    | (intro _)
    | (with_reducible exact State.Keeps.refl _ _)
    | (with_reducible assumption)
    | (with_reducible apply State.onCell_keeps)
    | (with_reducible apply State.cellFault_keeps)
    | decide
    | extract_lets
    | split
    | dsimp only
    | dsimp +zetaDelta only

theorem State.applyWrite_keeps {m_ : Nat} {s_ : State} (s : State) (k : Nat) (w : CellWrite) (hm_ : (m_ ||| 0x10) = m_) (h_ : State.Keeps m_ s_ s) : State.Keeps m_ s_ (State.applyWrite s k w) := by
  refine State.Keeps.step (m1 := 0x10) ?_ hm_ h_
  unfold State.applyWrite
  repeat' first
    | (intro _)
    | (with_reducible exact State.Keeps.refl _ _)
    | (with_reducible assumption)
    | (with_reducible apply State.Keeps.ite)
    | (with_reducible apply State.onCell_keeps)
    | (with_reducible apply State.onArr_keeps)
    | (with_reducible apply State.Keeps.foldl)
    | (with_reducible apply State.Keeps.foldlFst)
    | (with_reducible apply State.Keeps.foldlBy (p := State.MWork.s))
    | (with_reducible apply State.Keeps.ofPair (by with_reducible assumption))
    | decide
    | split
    | dsimp only
    | dsimp +zetaDelta only

theorem State.cellWrites_keeps {m_ : Nat} {s_ : State} (s : State) (k : Nat) (t : Nat) (hm_ : (m_ ||| 0x6A8F8) = m_) (h_ : State.Keeps m_ s_ s) : State.Keeps m_ s_ (State.cellWrites s k t) := by
  refine State.Keeps.step (m1 := 0x6A8F8) ?_ hm_ h_
  unfold State.cellWrites
  repeat' first
    | (intro _)
    | (with_reducible exact State.Keeps.refl _ _)
    | (with_reducible assumption)
    | (with_reducible apply State.Keeps.ite)
    | (with_reducible apply State.cellFaultOf_keeps)
    | (with_reducible apply State.applyWrite_keeps)
    | (with_reducible apply State.spend_keeps)
    | (with_reducible apply State.onCell_keeps)
    | (with_reducible apply State.Keeps.foldl)
    | (with_reducible apply State.Keeps.foldlFst)
    | (with_reducible apply State.Keeps.foldlBy (p := State.MWork.s))
    | (with_reducible apply State.Keeps.ofPair (by with_reducible assumption))
    | decide
    | extract_lets
    | split
    | dsimp only
    | dsimp +zetaDelta only

theorem State.placeWords_keeps {m_ : Nat} {s_ : State} (s : State) (p : Site) (hm_ : (m_ ||| 0x6A8F8) = m_) (h_ : State.Keeps m_ s_ s) : State.Keeps m_ s_ (State.placeWords s p) := by
  refine State.Keeps.step (m1 := 0x6A8F8) ?_ hm_ h_
  unfold State.placeWords
  repeat' first
    | (intro _)
    | (with_reducible exact State.Keeps.refl _ _)
    | (with_reducible assumption)
    | (with_reducible apply State.Keeps.ite)
    | (with_reducible apply State.siteFault_keeps)
    | (with_reducible apply State.onCell_keeps)
    | (with_reducible apply State.Keeps.foldl)
    | (with_reducible apply State.Keeps.foldlFst)
    | (with_reducible apply State.Keeps.foldlBy (p := State.MWork.s))
    | (with_reducible apply State.Keeps.ofPair (by with_reducible assumption))
    | decide
    | extract_lets
    | split
    | dsimp only
    | dsimp +zetaDelta only

theorem State.cellSends_keeps {m_ : Nat} {s_ : State} (s : State) (p : Site) (t : Nat) (hm_ : (m_ ||| 0x6A8F8) = m_) (h_ : State.Keeps m_ s_ s) : State.Keeps m_ s_ (State.cellSends s p t) := by
  refine State.Keeps.step (m1 := 0x6A8F8) ?_ hm_ h_
  unfold State.cellSends
  repeat' first
    | (intro _)
    | (with_reducible exact State.Keeps.refl _ _)
    | (with_reducible assumption)
    | (with_reducible apply State.sendNear_keeps)
    | (with_reducible apply State.placeWords_keeps)
    | (with_reducible apply State.onCell_keeps)
    | (with_reducible apply State.sendLocal_keeps)
    | (with_reducible apply State.Keeps.foldl)
    | (with_reducible apply State.Keeps.foldlFst)
    | (with_reducible apply State.Keeps.foldlBy (p := State.MWork.s))
    | (with_reducible apply State.Keeps.ofPair (by with_reducible assumption))
    | decide
    | extract_lets
    | split
    | dsimp only
    | dsimp +zetaDelta only

theorem State.cellRuns_keeps {m_ : Nat} {s_ : State} (s : State) (p : Site) (t : Nat) (hm_ : (m_ ||| 0x6A8F8) = m_) (h_ : State.Keeps m_ s_ s) : State.Keeps m_ s_ (State.cellRuns s p t) := by
  refine State.Keeps.step (m1 := 0x6A8F8) ?_ hm_ h_
  unfold State.cellRuns
  repeat' first
    | (intro _)
    | (with_reducible exact State.Keeps.refl _ _)
    | (with_reducible assumption)
    | (with_reducible apply State.takeOne_keeps)
    | (with_reducible apply State.issueCell_keeps)
    | (with_reducible apply State.onCell_keeps)
    | (with_reducible apply State.Keeps.foldl)
    | (with_reducible apply State.Keeps.foldlFst)
    | (with_reducible apply State.Keeps.foldlBy (p := State.MWork.s))
    | decide
    | extract_lets
    | split
    | dsimp only
    | dsimp +zetaDelta only

theorem State.agEffect_keeps {m_ : Nat} {s_ : State} (s : State) (g : Nat) (a : Nat) (w : Word) (hm_ : (m_ ||| 0x8030) = m_) (h_ : State.Keeps m_ s_ s) : State.Keeps m_ s_ (State.agEffect s g a w) := by
  refine State.Keeps.step (m1 := 0x8030) ?_ hm_ h_
  unfold State.agEffect
  repeat' first
    | (intro _)
    | (with_reducible exact State.Keeps.refl _ _)
    | (with_reducible assumption)
    | (with_reducible apply State.setRing_keeps)
    | (with_reducible apply setaOp_keeps)
    | (with_reducible apply winOp_keeps)
    | (with_reducible apply hqbOp_keeps)
    | (with_reducible apply State.Keeps.ofPair (by with_reducible assumption))
    | decide
    | extract_lets
    | split
    | dsimp only
    | dsimp +zetaDelta only

theorem State.agEffects_keeps {m_ : Nat} {s_ : State} (s : State) (g : Nat) (a : Nat) (t : Nat) (hm_ : (m_ ||| 0x8030) = m_) (h_ : State.Keeps m_ s_ s) : State.Keeps m_ s_ (State.agEffects s g a t) := by
  refine State.Keeps.step (m1 := 0x8030) ?_ hm_ h_
  unfold State.agEffects
  repeat' first
    | (intro _)
    | (with_reducible exact State.Keeps.refl _ _)
    | (with_reducible assumption)
    | (with_reducible apply State.agEffect_keeps)
    | (with_reducible apply State.onAg_keeps)
    | (with_reducible apply State.Keeps.foldl)
    | (with_reducible apply State.Keeps.foldlFst)
    | (with_reducible apply State.Keeps.foldlBy (p := State.MWork.s))
    | decide
    | extract_lets
    | split
    | dsimp only
    | dsimp +zetaDelta only

theorem State.agAdvance_keeps {m_ : Nat} {s_ : State} (s : State) (g : Nat) (a : Nat) (t : Nat) (lf : Nat) (y0 : Nat) (hm_ : (m_ ||| 0x8030) = m_) (h_ : State.Keeps m_ s_ s) : State.Keeps m_ s_ (State.agAdvance s g a t lf y0) := by
  induction y0 generalizing s with
  | zero =>
    unfold State.agAdvance
    repeat' first
      | (intro _)
      | (with_reducible exact State.Keeps.refl _ _)
      | (with_reducible assumption)
      | (with_reducible apply ih_)
      | (with_reducible apply State.Keeps.ite)
      | (with_reducible apply State.agEffect_keeps)
      | (with_reducible apply State.onAg_keeps)
      | (with_reducible apply agRunOp_keeps)
      | (with_reducible apply agEndOp_keeps)
      | (with_reducible apply State.agNext_keeps)
      | (with_reducible apply agLoopOp_keeps)
      | (with_reducible apply State.Keeps.ofPair (by with_reducible assumption))
      | exact State.Keeps.sub hm_ (by decide)
      | exact State.Keeps.bit hm_ (by decide)
      | extract_lets
      | split
      | dsimp only
      | dsimp +zetaDelta only
  | succ k_ ih_ =>
    unfold State.agAdvance
    repeat' first
      | (intro _)
      | (with_reducible exact State.Keeps.refl _ _)
      | (with_reducible assumption)
      | (with_reducible apply ih_)
      | (with_reducible apply State.Keeps.ite)
      | (with_reducible apply State.agEffect_keeps)
      | (with_reducible apply State.onAg_keeps)
      | (with_reducible apply agRunOp_keeps)
      | (with_reducible apply agEndOp_keeps)
      | (with_reducible apply State.agNext_keeps)
      | (with_reducible apply agLoopOp_keeps)
      | (with_reducible apply State.Keeps.ofPair (by with_reducible assumption))
      | exact State.Keeps.sub hm_ (by decide)
      | exact State.Keeps.bit hm_ (by decide)
      | extract_lets
      | split
      | dsimp only
      | dsimp +zetaDelta only

theorem State.popDecided_keeps {m_ : Nat} {s_ : State} (s : State) (g : Nat) (lf : Nat) (t : Nat) (hm_ : (m_ ||| 0x10) = m_) (h_ : State.Keeps m_ s_ s) : State.Keeps m_ s_ (State.popDecided s g lf t) := by
  refine State.Keeps.step (m1 := 0x10) ?_ hm_ h_
  unfold State.popDecided
  repeat' first
    | (intro _)
    | (with_reducible exact State.Keeps.refl _ _)
    | (with_reducible assumption)
    | (with_reducible apply State.Keeps.ite)
    | (with_reducible apply State.popHandle_keeps)
    | (with_reducible apply State.onAg_keeps)
    | (with_reducible apply State.Keeps.foldl)
    | (with_reducible apply State.Keeps.foldlFst)
    | (with_reducible apply State.Keeps.foldlBy (p := State.MWork.s))
    | (with_reducible apply State.Keeps.ofPair (by with_reducible assumption))
    | (with_reducible apply State.Keeps.ofOptP (by with_reducible assumption))
    | (with_reducible apply State.Keeps.ofOptP1 (by with_reducible assumption))
    | decide
    | split
    | dsimp only
    | dsimp +zetaDelta only

theorem State.decide_keeps {m_ : Nat} {s_ : State} (s : State) (g : Nat) (glove : Nat) (t : Nat) (hm_ : (m_ ||| 0x6A8F8) = m_) (h_ : State.Keeps m_ s_ s) : State.Keeps m_ s_ (State.decide s g glove t).1 := by
  refine State.Keeps.step (m1 := 0x6A8F8) ?_ hm_ h_
  unfold State.decide
  repeat' first
    | (intro _)
    | (with_reducible exact State.Keeps.refl _ _)
    | (with_reducible assumption)
    | (with_reducible apply State.Keeps.iteFst)
    | (with_reducible apply State.Keeps.ite)
    | (with_reducible apply State.popDecided_keeps)
    | (with_reducible apply State.siteFault_keeps)
    | decide
    | extract_lets
    | split
    | dsimp only
    | dsimp +zetaDelta only

theorem State.openCycle_keeps {m_ : Nat} {s_ : State} (s : State) (g : Nat) (hm_ : (m_ ||| 0x10) = m_) (h_ : State.Keeps m_ s_ s) : State.Keeps m_ s_ (State.openCycle s g) := by
  refine State.Keeps.step (m1 := 0x10) ?_ hm_ h_
  unfold State.openCycle
  repeat' first
    | (intro _)
    | (with_reducible exact State.Keeps.refl _ _)
    | (with_reducible assumption)
    | (with_reducible apply State.onMCell_keeps)
    | decide
    | split
    | dsimp only
    | dsimp +zetaDelta only

theorem State.freeSlots_keeps {m_ : Nat} {s_ : State} (s : State) (ms : List Nat) (hm_ : (m_ ||| 0x6E8F8) = m_) (h_ : State.Keeps m_ s_ s) : State.Keeps m_ s_ (State.freeSlots s ms) := by
  refine State.Keeps.step (m1 := 0x6E8F8) ?_ hm_ h_
  unfold State.freeSlots
  repeat' first
    | (intro _)
    | (with_reducible exact State.Keeps.refl _ _)
    | (with_reducible assumption)
    | (with_reducible apply State.Keeps.ite)
    | (with_reducible apply State.serveNarrows_keeps)
    | (with_reducible apply State.serveElastics_keeps)
    | (with_reducible apply State.drainSends_keeps)
    | (with_reducible apply State.onDie_keeps)
    | (with_reducible apply State.count_keeps)
    | (with_reducible apply State.Keeps.foldl)
    | (with_reducible apply State.Keeps.foldlFst)
    | (with_reducible apply State.Keeps.foldlBy (p := State.MWork.s))
    | decide
    | extract_lets
    | split
    | dsimp only
    | dsimp +zetaDelta only

theorem State.mcellRuns_keeps {m_ : Nat} {s_ : State} (g : Nat) (glove : Nat) (t : Nat) (w : MWork) (hm_ : (m_ ||| 0x6E8F8) = m_) (h_ : State.Keeps m_ s_ w.s) : State.Keeps m_ s_ (State.mcellRuns g glove t w).s := by
  refine State.Keeps.step (m1 := 0x6E8F8) ?_ hm_ h_
  unfold State.mcellRuns
  repeat' first
    | (intro _)
    | (with_reducible exact State.Keeps.refl _ _)
    | (with_reducible assumption)
    | (with_reducible apply State.agAdvance_keeps)
    | (with_reducible apply State.agEffects_keeps)
    | (with_reducible apply State.runCycle_keeps)
    | (with_reducible apply State.onAg_keeps)
    | (with_reducible apply State.scheduledWrites_keeps)
    | (with_reducible apply State.flushRun_keeps)
    | (with_reducible apply State.openCycle_keeps)
    | (with_reducible apply State.decide_keeps)
    | (with_reducible apply State.Keeps.foldl)
    | (with_reducible apply State.Keeps.foldlFst)
    | (with_reducible apply State.Keeps.foldlBy (p := State.MWork.s))
    | (with_reducible apply State.Keeps.ofPair (by with_reducible assumption))
    | decide
    | extract_lets
    | split
    | dsimp only
    | dsimp +zetaDelta only

theorem State.runPattern_keeps {m_ : Nat} {s_ : State} (s : State) (g : Nat) (hm_ : (m_ ||| 0x6E8F8) = m_) (h_ : State.Keeps m_ s_ s) : State.Keeps m_ s_ (State.runPattern s g) := by
  refine State.Keeps.step (m1 := 0x6E8F8) ?_ hm_ h_
  unfold State.runPattern
  repeat' first
    | (intro _)
    | (with_reducible exact State.Keeps.refl _ _)
    | (with_reducible assumption)
    | (with_reducible apply State.Keeps.ite)
    | (with_reducible apply State.crossbar_keeps)
    | (with_reducible apply State.mcellRuns_keeps)
    | (with_reducible apply State.onPat_keeps)
    | (with_reducible apply State.tensorEvents_keeps)
    | (with_reducible apply State.cellSends_keeps)
    | (with_reducible apply State.freeSlots_keeps)
    | (with_reducible apply State.cellRuns_keeps)
    | (with_reducible apply State.deliver_keeps)
    | (with_reducible apply State.cellWrites_keeps)
    | (with_reducible apply State.raiseFreeze_keeps)
    | (with_reducible apply State.Keeps.foldl)
    | (with_reducible apply State.Keeps.foldlFst)
    | (with_reducible apply State.Keeps.foldlBy (p := State.MWork.s))
    | (with_reducible apply State.Keeps.ofPair (by with_reducible assumption))
    | decide
    | extract_lets
    | split
    | dsimp only
    | dsimp +zetaDelta only

theorem State.passCycle_keeps {m_ : Nat} {s_ : State} (s : State) (k : Nat) (g : Nat) (hm_ : (m_ ||| 0x8) = m_) (h_ : State.Keeps m_ s_ s) : State.Keeps m_ s_ (State.passCycle s k g) := by
  refine State.Keeps.step (m1 := 0x8) ?_ hm_ h_
  unfold State.passCycle
  repeat' first
    | (intro _)
    | (with_reducible exact State.Keeps.refl _ _)
    | (with_reducible assumption)
    | (with_reducible apply State.Keeps.ite)
    | (with_reducible apply State.onDie_keeps)
    | decide
    | split
    | dsimp only
    | dsimp +zetaDelta only

theorem State.resumePattern_keeps {m_ : Nat} {s_ : State} (s : State) (g : Nat) (hm_ : (m_ ||| 0x6E9F8) = m_) (h_ : State.Keeps m_ s_ s) : State.Keeps m_ s_ (State.resumePattern s g) := by
  refine State.Keeps.step (m1 := 0x6E9F8) ?_ hm_ h_
  unfold State.resumePattern
  repeat' first
    | (intro _)
    | (with_reducible exact State.Keeps.refl _ _)
    | (with_reducible assumption)
    | (with_reducible apply State.onPat_keeps)
    | (with_reducible apply State.takeSwitch_keeps)
    | decide
    | extract_lets
    | split
    | dsimp only
    | dsimp +zetaDelta only

theorem State.frozenCycle_keeps {m_ : Nat} {s_ : State} (s : State) (g : Nat) (hm_ : (m_ ||| 0x6E8F8) = m_) (h_ : State.Keeps m_ s_ s) : State.Keeps m_ s_ (State.frozenCycle s g) := by
  refine State.Keeps.step (m1 := 0x6E8F8) ?_ hm_ h_
  unfold State.frozenCycle
  repeat' first
    | (intro _)
    | (with_reducible exact State.Keeps.refl _ _)
    | (with_reducible assumption)
    | (with_reducible apply State.Keeps.ite)
    | (with_reducible apply State.rerunStops_keeps)
    | (with_reducible apply State.abandonMCell_keeps)
    | (with_reducible apply State.openCycle_keeps)
    | (with_reducible apply State.onPat_keeps)
    | (with_reducible apply State.faultStops_keeps)
    | (with_reducible apply State.freeSlots_keeps)
    | (with_reducible apply State.count_keeps)
    | (with_reducible apply State.Keeps.foldl)
    | (with_reducible apply State.Keeps.foldlFst)
    | (with_reducible apply State.Keeps.foldlBy (p := State.MWork.s))
    | decide
    | extract_lets
    | split
    | dsimp only
    | dsimp +zetaDelta only

theorem patternCycleOp_keeps {m_ : Nat} {s_ : State} (g : Nat) (s : State) (hm_ : (m_ ||| 0x6E9F8) = m_) (h_ : State.Keeps m_ s_ s) : State.Keeps m_ s_ (patternCycleOp g s) := by
  refine State.Keeps.step (m1 := 0x6E9F8) ?_ hm_ h_
  unfold patternCycleOp
  repeat' first
    | (intro _)
    | (with_reducible exact State.Keeps.refl _ _)
    | (with_reducible assumption)
    | (with_reducible apply State.Keeps.ite)
    | (with_reducible apply State.runPattern_keeps)
    | (with_reducible apply State.frozenCycle_keeps)
    | (with_reducible apply State.resumePattern_keeps)
    | (with_reducible apply State.passCycle_keeps)
    | (with_reducible apply State.decide_keeps)
    | (with_reducible apply State.Keeps.foldl)
    | (with_reducible apply State.Keeps.foldlFst)
    | (with_reducible apply State.Keeps.foldlBy (p := State.MWork.s))
    | decide
    | extract_lets
    | split
    | dsimp only
    | dsimp +zetaDelta only

theorem scheduleFaultOp_keeps {m_ : Nat} {s_ : State} (f : SFault) (s : State) (hm_ : (m_ ||| 0x6A8F8) = m_) (h_ : State.Keeps m_ s_ s) : State.Keeps m_ s_ (scheduleFaultOp f s) := by
  refine State.Keeps.step (m1 := 0x6A8F8) ?_ hm_ h_
  unfold scheduleFaultOp
  repeat' first
    | (intro _)
    | (with_reducible exact State.Keeps.refl _ _)
    | (with_reducible assumption)
    | (with_reducible apply State.Keeps.ite)
    | (with_reducible apply State.schedFault_keeps)
    | decide
    | split
    | dsimp only
    | dsimp +zetaDelta only

theorem cellExceptionOp_keeps {m_ : Nat} {s_ : State} (f : XFault) (s : State) (hm_ : (m_ ||| 0x6A8F8) = m_) (h_ : State.Keeps m_ s_ s) : State.Keeps m_ s_ (cellExceptionOp f s) := by
  refine State.Keeps.step (m1 := 0x6A8F8) ?_ hm_ h_
  unfold cellExceptionOp
  repeat' first
    | (intro _)
    | (with_reducible exact State.Keeps.refl _ _)
    | (with_reducible assumption)
    | (with_reducible apply State.Keeps.ite)
    | (with_reducible apply State.cellExc_keeps)
    | decide
    | split
    | dsimp only
    | dsimp +zetaDelta only

theorem portFreezeOp_keeps {m_ : Nat} {s_ : State} (g : Nat) (p : PortRef) (s : State) (hm_ : (m_ ||| 0x6A8F8) = m_) (h_ : State.Keeps m_ s_ s) : State.Keeps m_ s_ (portFreezeOp g p s) := by
  refine State.Keeps.step (m1 := 0x6A8F8) ?_ hm_ h_
  unfold portFreezeOp
  repeat' first
    | (intro _)
    | (with_reducible exact State.Keeps.refl _ _)
    | (with_reducible assumption)
    | (with_reducible apply State.raiseFreeze_keeps)
    | decide
    | split
    | dsimp only
    | dsimp +zetaDelta only

theorem freezeReleaseOp_keeps {m_ : Nat} {s_ : State} (g : Nat) (p : PortRef) (s : State) (hm_ : (m_ ||| 0x20) = m_) (h_ : State.Keeps m_ s_ s) : State.Keeps m_ s_ (freezeReleaseOp g p s) := by
  refine State.Keeps.step (m1 := 0x20) ?_ hm_ h_
  unfold freezeReleaseOp
  repeat' first
    | (intro _)
    | (with_reducible exact State.Keeps.refl _ _)
    | (with_reducible assumption)
    | (with_reducible apply State.Keeps.ite)
    | (with_reducible apply State.onPat_keeps)
    | decide
    | extract_lets
    | split
    | dsimp only
    | dsimp +zetaDelta only

theorem patternResumeOp_keeps {m_ : Nat} {s_ : State} (g : Nat) (s : State) (hm_ : (m_ ||| 0x6E9F8) = m_) (h_ : State.Keeps m_ s_ s) : State.Keeps m_ s_ (patternResumeOp g s) := by
  refine State.Keeps.step (m1 := 0x6E9F8) ?_ hm_ h_
  unfold patternResumeOp
  repeat' first
    | (intro _)
    | (with_reducible exact State.Keeps.refl _ _)
    | (with_reducible assumption)
    | (with_reducible apply State.Keeps.ite)
    | (with_reducible apply State.resumePattern_keeps)
    | decide
    | extract_lets
    | split
    | dsimp only
    | dsimp +zetaDelta only

theorem patternSwitchOp_keeps {m_ : Nat} {s_ : State} (g : Nat) (vcore : List Nat) (s : State) (hm_ : (m_ ||| 0x6E9F8) = m_) (h_ : State.Keeps m_ s_ s) : State.Keeps m_ s_ (patternSwitchOp g vcore s) := by
  refine State.Keeps.step (m1 := 0x6E9F8) ?_ hm_ h_
  unfold patternSwitchOp
  repeat' first
    | (intro _)
    | (with_reducible exact State.Keeps.refl _ _)
    | (with_reducible assumption)
    | (with_reducible apply State.Keeps.ite)
    | (with_reducible apply State.onPat_keeps)
    | (with_reducible apply State.readVcore_keeps)
    | (with_reducible apply State.raise_keeps)
    | (with_reducible apply State.takeSwitch_keeps)
    | decide
    | extract_lets
    | split
    | dsimp only
    | dsimp +zetaDelta only

theorem patternDoneOp_keeps {m_ : Nat} {s_ : State} (g : Nat) (vcore : List Nat) (s : State) (hm_ : (m_ ||| 0x2C0B8) = m_) (h_ : State.Keeps m_ s_ s) : State.Keeps m_ s_ (patternDoneOp g vcore s) := by
  refine State.Keeps.step (m1 := 0x2C0B8) ?_ hm_ h_
  unfold patternDoneOp
  repeat' first
    | (intro _)
    | (with_reducible exact State.Keeps.refl _ _)
    | (with_reducible assumption)
    | (with_reducible apply State.Keeps.ite)
    | (with_reducible apply State.applyAllHeld_keeps)
    | (with_reducible apply State.wakePattern_keeps)
    | (with_reducible apply State.takeLowerings_keeps)
    | (with_reducible apply State.updateCf_keeps)
    | (with_reducible apply State.onPat_keeps)
    | (with_reducible apply State.readVcore_keeps)
    | (with_reducible apply State.dispatch_keeps)
    | (with_reducible apply State.settleCell_keeps)
    | (with_reducible apply State.Keeps.foldl)
    | (with_reducible apply State.Keeps.foldlFst)
    | (with_reducible apply State.Keeps.foldlBy (p := State.MWork.s))
    | decide
    | extract_lets
    | split
    | dsimp only
    | dsimp +zetaDelta only

theorem loadCompleteOp_keeps {m_ : Nat} {s_ : State} (g : Nat) (s : State) (hm_ : (m_ ||| 0x80B0) = m_) (h_ : State.Keeps m_ s_ s) : State.Keeps m_ s_ (loadCompleteOp g s) := by
  refine State.Keeps.step (m1 := 0x80B0) ?_ hm_ h_
  unfold loadCompleteOp
  repeat' first
    | (intro _)
    | (with_reducible exact State.Keeps.refl _ _)
    | (with_reducible assumption)
    | (with_reducible apply State.Keeps.ite)
    | (with_reducible apply State.wakePattern_keeps)
    | (with_reducible apply State.loadImage_keeps)
    | (with_reducible apply State.onGsq_keeps)
    | (with_reducible apply State.raise_keeps)
    | (with_reducible apply State.setSlot_keeps)
    | (with_reducible apply State.onGlv_keeps)
    | (with_reducible apply State.Keeps.ofPair (by with_reducible assumption))
    | decide
    | extract_lets
    | split
    | dsimp only
    | dsimp +zetaDelta only

theorem armedSwitchOp_keeps {m_ : Nat} {s_ : State} (g : Nat) (s : State) (hm_ : (m_ ||| 0x2C0A8) = m_) (h_ : State.Keeps m_ s_ s) : State.Keeps m_ s_ (armedSwitchOp g s) := by
  refine State.Keeps.step (m1 := 0x2C0A8) ?_ hm_ h_
  unfold armedSwitchOp
  repeat' first
    | (intro _)
    | (with_reducible exact State.Keeps.refl _ _)
    | (with_reducible assumption)
    | (with_reducible apply State.Keeps.ite)
    | (with_reducible apply State.onSeq_keeps)
    | (with_reducible apply State.wakePattern_keeps)
    | (with_reducible apply State.onGsq_keeps)
    | (with_reducible apply State.dispatch_keeps)
    | (with_reducible apply State.Keeps.ofPair (by with_reducible assumption))
    | decide
    | extract_lets
    | split
    | dsimp only
    | dsimp +zetaDelta only

end Sys2Proof.Machine
end

