-- ==== Sys2Proof/Laws/FrameSeqRows.lean ====
section
/-! SUPPORT. The frame of each operation of Machine/SeqRows.lean: the blocks of the state that it may change (Laws/Keeps.lean). -/

set_option Elab.async false

namespace Sys2Proof.Machine

theorem State.issueGsq_keeps {m_ : Nat} {s_ : State} (s : State) (q : Nat) (w : Word) (f : State → State) (hm_ : (m_ ||| 0x6A8F0) = m_) (h_ : State.Keeps m_ s_ s) (hf_ : ∀ u, State.Keeps m_ s_ u → State.Keeps m_ s_ (f u)) : State.Keeps m_ s_ (State.issueGsq s q w f) := by
  unfold State.issueGsq
  repeat' first
    | (intro _)
    | (with_reducible exact State.Keeps.refl _ _)
    | (with_reducible assumption)
    | (with_reducible apply hf_)
    | (with_reducible apply State.Keeps.ite)
    | (with_reducible apply State.faultGlove_keeps)
    | (with_reducible apply State.stopPattern_keeps)
    | exact State.Keeps.sub hm_ (by decide)
    | exact State.Keeps.bit hm_ (by decide)
    | extract_lets
    | split
    | dsimp only
    | dsimp +zetaDelta only

theorem State.gsqBranch_keeps {m_ : Nat} {s_ : State} (s : State) (q : Nat) (t : Nat) (c : Bool) (hm_ : (m_ ||| 0x20) = m_) (h_ : State.Keeps m_ s_ s) : State.Keeps m_ s_ (State.gsqBranch s q t c) := by
  refine State.Keeps.step (m1 := 0x20) ?_ hm_ h_
  unfold State.gsqBranch
  repeat' first
    | (intro _)
    | (with_reducible exact State.Keeps.refl _ _)
    | (with_reducible assumption)
    | (with_reducible apply State.Keeps.ite)
    | (with_reducible apply State.gsqGo_keeps)
    | (with_reducible apply State.gsqNext_keeps)
    | decide
    | split
    | dsimp only
    | dsimp +zetaDelta only

theorem State.exchRefuse_keeps {m_ : Nat} {s_ : State} (s : State) (q : Nat) (st : Nat) (t : Nat) (hm_ : (m_ ||| 0x20) = m_) (h_ : State.Keeps m_ s_ s) : State.Keeps m_ s_ (State.exchRefuse s q st t) := by
  refine State.Keeps.step (m1 := 0x20) ?_ hm_ h_
  unfold State.exchRefuse
  repeat' first
    | (intro _)
    | (with_reducible exact State.Keeps.refl _ _)
    | (with_reducible assumption)
    | (with_reducible apply State.onGsq_keeps)
    | (with_reducible apply State.gsqGo_keeps)
    | decide
    | split
    | dsimp only
    | dsimp +zetaDelta only

theorem State.requestSwitch_keeps {m_ : Nat} {s_ : State} (s : State) (q : Nat) (slot : Nat) (hm_ : (m_ ||| 0x2C0A8) = m_) (h_ : State.Keeps m_ s_ s) : State.Keeps m_ s_ (State.requestSwitch s q slot).1 := by
  refine State.Keeps.step (m1 := 0x2C0A8) ?_ hm_ h_
  unfold State.requestSwitch
  repeat' first
    | (intro _)
    | (with_reducible exact State.Keeps.refl _ _)
    | (with_reducible assumption)
    | (with_reducible apply State.Keeps.iteFst)
    | (with_reducible apply State.Keeps.ite)
    | (with_reducible apply State.onSeq_keeps)
    | (with_reducible apply State.onGsq_keeps)
    | (with_reducible apply State.dispatch_keeps)
    | (with_reducible apply State.Keeps.ofPair (by with_reducible assumption))
    | decide
    | extract_lets
    | split
    | dsimp only
    | dsimp +zetaDelta only

theorem State.armSwitch_keeps {m_ : Nat} {s_ : State} (s : State) (q : Nat) (slot : Nat) (t : Nat) (ofs : Nat) (hm_ : (m_ ||| 0x20) = m_) (h_ : State.Keeps m_ s_ s) : State.Keeps m_ s_ (State.armSwitch s q slot t ofs).1 := by
  refine State.Keeps.step (m1 := 0x20) ?_ hm_ h_
  unfold State.armSwitch
  repeat' first
    | (intro _)
    | (with_reducible exact State.Keeps.refl _ _)
    | (with_reducible assumption)
    | (with_reducible apply State.Keeps.iteFst)
    | (with_reducible apply State.Keeps.ite)
    | (with_reducible apply State.onGsq_keeps)
    | (with_reducible apply State.Keeps.ofPair (by with_reducible assumption))
    | decide
    | extract_lets
    | split
    | dsimp only
    | dsimp +zetaDelta only

theorem State.waitForDone_keeps {m_ : Nat} {s_ : State} (s : State) (q : Nat) (tmo : Nat) (hm_ : (m_ ||| 0x20) = m_) (h_ : State.Keeps m_ s_ s) : State.Keeps m_ s_ (State.waitForDone s q tmo) := by
  refine State.Keeps.step (m1 := 0x20) ?_ hm_ h_
  unfold State.waitForDone
  repeat' first
    | (intro _)
    | (with_reducible exact State.Keeps.refl _ _)
    | (with_reducible assumption)
    | (with_reducible apply State.Keeps.ite)
    | (with_reducible apply State.gsqWait_keeps)
    | (with_reducible apply State.gsqSt_keeps)
    | decide
    | extract_lets
    | split
    | dsimp only
    | dsimp +zetaDelta only

theorem State.wkRefuse_keeps {m_ : Nat} {s_ : State} (s : State) (k : Nat) (hm_ : (m_ ||| 0x8000) = m_) (h_ : State.Keeps m_ s_ s) : State.Keeps m_ s_ (State.wkRefuse s k) := by
  refine State.Keeps.step (m1 := 0x8000) ?_ hm_ h_
  unfold State.wkRefuse
  repeat' first
    | (intro _)
    | (with_reducible exact State.Keeps.refl _ _)
    | (with_reducible assumption)
    | (with_reducible apply State.count_keeps)
    | decide
    | split
    | dsimp only
    | dsimp +zetaDelta only

theorem State.setCounter_keeps {m_ : Nat} {s_ : State} (s : State) (k : Nat) (m : Nat) (n : Nat) (next : Nat) (limit : Nat) (hm_ : (m_ ||| 0x8000) = m_) (h_ : State.Keeps m_ s_ s) : State.Keeps m_ s_ (State.setCounter s k m n next limit) := by
  refine State.Keeps.step (m1 := 0x8000) ?_ hm_ h_
  unfold State.setCounter
  repeat' first
    | (intro _)
    | (with_reducible exact State.Keeps.refl _ _)
    | (with_reducible assumption)
    | (with_reducible apply State.setReg_keeps)
    | decide
    | split
    | dsimp only
    | dsimp +zetaDelta only

theorem gsqNopOp_keeps {m_ : Nat} {s_ : State} (q : Nat) (s : State) (hm_ : (m_ ||| 0x6A8F0) = m_) (h_ : State.Keeps m_ s_ s) : State.Keeps m_ s_ (gsqNopOp q s) := by
  refine State.Keeps.step (m1 := 0x6A8F0) ?_ hm_ h_
  unfold gsqNopOp
  repeat' first
    | (intro _)
    | (with_reducible exact State.Keeps.refl _ _)
    | (with_reducible assumption)
    | (with_reducible apply State.gsqNext_keeps)
    | (with_reducible apply State.issueGsq_keeps)
    | decide
    | split
    | dsimp only
    | dsimp +zetaDelta only

theorem liOp_keeps {m_ : Nat} {s_ : State} (q : Nat) (gd : Nat) (imm : BitVec 32) (s : State) (hm_ : (m_ ||| 0x6A8F0) = m_) (h_ : State.Keeps m_ s_ s) : State.Keeps m_ s_ (liOp q gd imm s) := by
  refine State.Keeps.step (m1 := 0x6A8F0) ?_ hm_ h_
  unfold liOp
  repeat' first
    | (intro _)
    | (with_reducible exact State.Keeps.refl _ _)
    | (with_reducible assumption)
    | (with_reducible apply State.gsqNext_keeps)
    | (with_reducible apply State.issueGsq_keeps)
    | (with_reducible apply State.setGreg_keeps)
    | (with_reducible apply State.Keeps.ofPair (by with_reducible assumption))
    | decide
    | split
    | dsimp only
    | dsimp +zetaDelta only

theorem lihOp_keeps {m_ : Nat} {s_ : State} (q : Nat) (gd : Nat) (imm : BitVec 32) (s : State) (hm_ : (m_ ||| 0x6A8F0) = m_) (h_ : State.Keeps m_ s_ s) : State.Keeps m_ s_ (lihOp q gd imm s) := by
  refine State.Keeps.step (m1 := 0x6A8F0) ?_ hm_ h_
  unfold lihOp
  repeat' first
    | (intro _)
    | (with_reducible exact State.Keeps.refl _ _)
    | (with_reducible assumption)
    | (with_reducible apply State.gsqNext_keeps)
    | (with_reducible apply State.issueGsq_keeps)
    | (with_reducible apply State.setGreg_keeps)
    | (with_reducible apply State.Keeps.ofPair (by with_reducible assumption))
    | decide
    | split
    | dsimp only
    | dsimp +zetaDelta only

theorem addiOp_keeps {m_ : Nat} {s_ : State} (q : Nat) (gd : Nat) (ga : Nat) (imm : BitVec 32) (s : State) (hm_ : (m_ ||| 0x6A8F0) = m_) (h_ : State.Keeps m_ s_ s) : State.Keeps m_ s_ (addiOp q gd ga imm s) := by
  refine State.Keeps.step (m1 := 0x6A8F0) ?_ hm_ h_
  unfold addiOp
  repeat' first
    | (intro _)
    | (with_reducible exact State.Keeps.refl _ _)
    | (with_reducible assumption)
    | (with_reducible apply State.gsqNext_keeps)
    | (with_reducible apply State.issueGsq_keeps)
    | (with_reducible apply State.setGreg_keeps)
    | (with_reducible apply State.Keeps.ofPair (by with_reducible assumption))
    | decide
    | split
    | dsimp only
    | dsimp +zetaDelta only

theorem addOp_keeps {m_ : Nat} {s_ : State} (q : Nat) (gd : Nat) (ga : Nat) (gb : Nat) (s : State) (hm_ : (m_ ||| 0x6A8F0) = m_) (h_ : State.Keeps m_ s_ s) : State.Keeps m_ s_ (addOp q gd ga gb s) := by
  refine State.Keeps.step (m1 := 0x6A8F0) ?_ hm_ h_
  unfold addOp
  repeat' first
    | (intro _)
    | (with_reducible exact State.Keeps.refl _ _)
    | (with_reducible assumption)
    | (with_reducible apply State.gsqNext_keeps)
    | (with_reducible apply State.issueGsq_keeps)
    | (with_reducible apply State.setGreg_keeps)
    | (with_reducible apply State.Keeps.ofPair (by with_reducible assumption))
    | decide
    | split
    | dsimp only
    | dsimp +zetaDelta only

theorem brOp_keeps {m_ : Nat} {s_ : State} (q : Nat) (t : Nat) (s : State) (hm_ : (m_ ||| 0x6A8F0) = m_) (h_ : State.Keeps m_ s_ s) : State.Keeps m_ s_ (brOp q t s) := by
  refine State.Keeps.step (m1 := 0x6A8F0) ?_ hm_ h_
  unfold brOp
  repeat' first
    | (intro _)
    | (with_reducible exact State.Keeps.refl _ _)
    | (with_reducible assumption)
    | (with_reducible apply State.issueGsq_keeps)
    | (with_reducible apply State.gsqBranch_keeps)
    | decide
    | split
    | dsimp only
    | dsimp +zetaDelta only

theorem bnzOp_keeps {m_ : Nat} {s_ : State} (q : Nat) (ga : Nat) (t : Nat) (s : State) (hm_ : (m_ ||| 0x6A8F0) = m_) (h_ : State.Keeps m_ s_ s) : State.Keeps m_ s_ (bnzOp q ga t s) := by
  refine State.Keeps.step (m1 := 0x6A8F0) ?_ hm_ h_
  unfold bnzOp
  repeat' first
    | (intro _)
    | (with_reducible exact State.Keeps.refl _ _)
    | (with_reducible assumption)
    | (with_reducible apply State.issueGsq_keeps)
    | (with_reducible apply State.gsqBranch_keeps)
    | (with_reducible apply State.Keeps.ofPair (by with_reducible assumption))
    | decide
    | split
    | dsimp only
    | dsimp +zetaDelta only

theorem djnzOp_keeps {m_ : Nat} {s_ : State} (q : Nat) (gd : Nat) (t : Nat) (s : State) (hm_ : (m_ ||| 0x6A8F0) = m_) (h_ : State.Keeps m_ s_ s) : State.Keeps m_ s_ (djnzOp q gd t s) := by
  refine State.Keeps.step (m1 := 0x6A8F0) ?_ hm_ h_
  unfold djnzOp
  repeat' first
    | (intro _)
    | (with_reducible exact State.Keeps.refl _ _)
    | (with_reducible assumption)
    | (with_reducible apply State.issueGsq_keeps)
    | (with_reducible apply State.setGreg_keeps)
    | (with_reducible apply State.gsqBranch_keeps)
    | (with_reducible apply State.Keeps.ofPair (by with_reducible assumption))
    | decide
    | extract_lets
    | split
    | dsimp only
    | dsimp +zetaDelta only

theorem bstOp_keeps {m_ : Nat} {s_ : State} (q : Nat) (mode : Nat) (code : Nat) (t : Nat) (s : State) (hm_ : (m_ ||| 0x6A8F0) = m_) (h_ : State.Keeps m_ s_ s) : State.Keeps m_ s_ (bstOp q mode code t s) := by
  refine State.Keeps.step (m1 := 0x6A8F0) ?_ hm_ h_
  unfold bstOp
  repeat' first
    | (intro _)
    | (with_reducible exact State.Keeps.refl _ _)
    | (with_reducible assumption)
    | (with_reducible apply State.issueGsq_keeps)
    | (with_reducible apply State.gsqBranch_keeps)
    | (with_reducible apply State.Keeps.ofPair (by with_reducible assumption))
    | decide
    | extract_lets
    | split
    | dsimp only
    | dsimp +zetaDelta only

theorem loadOp_keeps {m_ : Nat} {s_ : State} (q : Nat) (slot : Nat) (ga : Nat) (s : State) (hm_ : (m_ ||| 0x6A8F0) = m_) (h_ : State.Keeps m_ s_ s) : State.Keeps m_ s_ (loadOp q slot ga s) := by
  refine State.Keeps.step (m1 := 0x6A8F0) ?_ hm_ h_
  unfold loadOp
  repeat' first
    | (intro _)
    | (with_reducible exact State.Keeps.refl _ _)
    | (with_reducible assumption)
    | (with_reducible apply State.Keeps.ite)
    | (with_reducible apply State.startLoad_keeps)
    | (with_reducible apply State.issueGsq_keeps)
    | (with_reducible apply State.gsqWait_keeps)
    | (with_reducible apply State.gsqSt_keeps)
    | (with_reducible apply State.Keeps.ofPair (by with_reducible assumption))
    | decide
    | extract_lets
    | split
    | dsimp only
    | dsimp +zetaDelta only

theorem armOp_keeps {m_ : Nat} {s_ : State} (q : Nat) (slot : Nat) (ga : Nat) (ofs : Nat) (s : State) (hm_ : (m_ ||| 0x6A8F0) = m_) (h_ : State.Keeps m_ s_ s) : State.Keeps m_ s_ (armOp q slot ga ofs s) := by
  refine State.Keeps.step (m1 := 0x6A8F0) ?_ hm_ h_
  unfold armOp
  repeat' first
    | (intro _)
    | (with_reducible exact State.Keeps.refl _ _)
    | (with_reducible assumption)
    | (with_reducible apply State.issueGsq_keeps)
    | (with_reducible apply State.gsqSt_keeps)
    | (with_reducible apply State.armSwitch_keeps)
    | (with_reducible apply State.Keeps.ofPair (by with_reducible assumption))
    | decide
    | extract_lets
    | split
    | dsimp only
    | dsimp +zetaDelta only

theorem swiOp_keeps {m_ : Nat} {s_ : State} (q : Nat) (slot : Nat) (s : State) (hm_ : (m_ ||| 0x6E8F8) = m_) (h_ : State.Keeps m_ s_ s) : State.Keeps m_ s_ (swiOp q slot s) := by
  refine State.Keeps.step (m1 := 0x6E8F8) ?_ hm_ h_
  unfold swiOp
  repeat' first
    | (intro _)
    | (with_reducible exact State.Keeps.refl _ _)
    | (with_reducible assumption)
    | (with_reducible apply State.issueGsq_keeps)
    | (with_reducible apply State.requestSwitch_keeps)
    | (with_reducible apply State.gsqSt_keeps)
    | decide
    | extract_lets
    | split
    | dsimp only
    | dsimp +zetaDelta only

theorem runOp_keeps {m_ : Nat} {s_ : State} (q : Nat) (slot : Nat) (ga : Nat) (s : State) (hm_ : (m_ ||| 0x6E8F8) = m_) (h_ : State.Keeps m_ s_ s) : State.Keeps m_ s_ (runOp q slot ga s) := by
  refine State.Keeps.step (m1 := 0x6E8F8) ?_ hm_ h_
  unfold runOp
  repeat' first
    | (intro _)
    | (with_reducible exact State.Keeps.refl _ _)
    | (with_reducible assumption)
    | (with_reducible apply State.Keeps.ite)
    | (with_reducible apply State.issueGsq_keeps)
    | (with_reducible apply State.waitForDone_keeps)
    | (with_reducible apply State.requestSwitch_keeps)
    | (with_reducible apply State.gsqSt_keeps)
    | (with_reducible apply State.Keeps.ofPair (by with_reducible assumption))
    | decide
    | extract_lets
    | split
    | dsimp only
    | dsimp +zetaDelta only

theorem waitDoneOp_keeps {m_ : Nat} {s_ : State} (q : Nat) (tmo : Nat) (s : State) (hm_ : (m_ ||| 0x6A8F0) = m_) (h_ : State.Keeps m_ s_ s) : State.Keeps m_ s_ (waitDoneOp q tmo s) := by
  refine State.Keeps.step (m1 := 0x6A8F0) ?_ hm_ h_
  unfold waitDoneOp
  repeat' first
    | (intro _)
    | (with_reducible exact State.Keeps.refl _ _)
    | (with_reducible assumption)
    | (with_reducible apply State.waitForDone_keeps)
    | (with_reducible apply State.issueGsq_keeps)
    | decide
    | split
    | dsimp only
    | dsimp +zetaDelta only

theorem waitLoadedOp_keeps {m_ : Nat} {s_ : State} (q : Nat) (slot : Nat) (tmo : Nat) (s : State) (hm_ : (m_ ||| 0x6A8F0) = m_) (h_ : State.Keeps m_ s_ s) : State.Keeps m_ s_ (waitLoadedOp q slot tmo s) := by
  refine State.Keeps.step (m1 := 0x6A8F0) ?_ hm_ h_
  unfold waitLoadedOp
  repeat' first
    | (intro _)
    | (with_reducible exact State.Keeps.refl _ _)
    | (with_reducible assumption)
    | (with_reducible apply State.wakeLoaded_keeps)
    | (with_reducible apply State.gsqWait_keeps)
    | (with_reducible apply State.issueGsq_keeps)
    | decide
    | split
    | dsimp only
    | dsimp +zetaDelta only

theorem waitTickOp_keeps {m_ : Nat} {s_ : State} (q : Nat) (ga : Nat) (ofs : Nat) (tmo : Nat) (s : State) (hm_ : (m_ ||| 0x6A8F0) = m_) (h_ : State.Keeps m_ s_ s) : State.Keeps m_ s_ (waitTickOp q ga ofs tmo s) := by
  refine State.Keeps.step (m1 := 0x6A8F0) ?_ hm_ h_
  unfold waitTickOp
  repeat' first
    | (intro _)
    | (with_reducible exact State.Keeps.refl _ _)
    | (with_reducible assumption)
    | (with_reducible apply State.Keeps.ite)
    | (with_reducible apply State.issueGsq_keeps)
    | (with_reducible apply State.gsqWait_keeps)
    | (with_reducible apply State.gsqSt_keeps)
    | decide
    | extract_lets
    | split
    | dsimp only
    | dsimp +zetaDelta only

theorem waitArrivalOp_keeps {m_ : Nat} {s_ : State} (q : Nat) (ga : Nat) (gb : Nat) (tmo : Nat) (s : State) (hm_ : (m_ ||| 0x6A8F0) = m_) (h_ : State.Keeps m_ s_ s) : State.Keeps m_ s_ (waitArrivalOp q ga gb tmo s) := by
  refine State.Keeps.step (m1 := 0x6A8F0) ?_ hm_ h_
  unfold waitArrivalOp
  repeat' first
    | (intro _)
    | (with_reducible exact State.Keeps.refl _ _)
    | (with_reducible assumption)
    | (with_reducible apply State.Keeps.ite)
    | (with_reducible apply State.issueGsq_keeps)
    | (with_reducible apply State.wakeArrival_keeps)
    | (with_reducible apply State.gsqWait_keeps)
    | (with_reducible apply State.gsqSt_keeps)
    | decide
    | split
    | dsimp only
    | dsimp +zetaDelta only

theorem waitSwitchedOp_keeps {m_ : Nat} {s_ : State} (q : Nat) (tmo : Nat) (s : State) (hm_ : (m_ ||| 0x6A8F0) = m_) (h_ : State.Keeps m_ s_ s) : State.Keeps m_ s_ (waitSwitchedOp q tmo s) := by
  refine State.Keeps.step (m1 := 0x6A8F0) ?_ hm_ h_
  unfold waitSwitchedOp
  repeat' first
    | (intro _)
    | (with_reducible exact State.Keeps.refl _ _)
    | (with_reducible assumption)
    | (with_reducible apply State.gsqWait_keeps)
    | (with_reducible apply State.issueGsq_keeps)
    | (with_reducible apply State.wakeSwitched_keeps)
    | decide
    | split
    | dsimp only
    | dsimp +zetaDelta only

theorem waitSealedOp_keeps {m_ : Nat} {s_ : State} (q : Nat) (tmo : Nat) (s : State) (hm_ : (m_ ||| 0x6A8F0) = m_) (h_ : State.Keeps m_ s_ s) : State.Keeps m_ s_ (waitSealedOp q tmo s) := by
  refine State.Keeps.step (m1 := 0x6A8F0) ?_ hm_ h_
  unfold waitSealedOp
  repeat' first
    | (intro _)
    | (with_reducible exact State.Keeps.refl _ _)
    | (with_reducible assumption)
    | (with_reducible apply State.wakeSealed_keeps)
    | (with_reducible apply State.gsqWait_keeps)
    | (with_reducible apply State.issueGsq_keeps)
    | decide
    | split
    | dsimp only
    | dsimp +zetaDelta only

theorem waitTickReachedOp_keeps {m_ : Nat} {s_ : State} (q : Nat) (s : State) (hm_ : (m_ ||| 0x20) = m_) (h_ : State.Keeps m_ s_ s) : State.Keeps m_ s_ (waitTickReachedOp q s) := by
  refine State.Keeps.step (m1 := 0x20) ?_ hm_ h_
  unfold waitTickReachedOp
  repeat' first
    | (intro _)
    | (with_reducible exact State.Keeps.refl _ _)
    | (with_reducible assumption)
    | (with_reducible apply State.Keeps.ite)
    | (with_reducible apply State.gsqSt_keeps)
    | (with_reducible apply State.Keeps.ofPair (by with_reducible assumption))
    | decide
    | split
    | dsimp only
    | dsimp +zetaDelta only

theorem waitTimeoutOp_keeps {m_ : Nat} {s_ : State} (q : Nat) (s : State) (hm_ : (m_ ||| 0x8020) = m_) (h_ : State.Keeps m_ s_ s) : State.Keeps m_ s_ (waitTimeoutOp q s) := by
  refine State.Keeps.step (m1 := 0x8020) ?_ hm_ h_
  unfold waitTimeoutOp
  repeat' first
    | (intro _)
    | (with_reducible exact State.Keeps.refl _ _)
    | (with_reducible assumption)
    | (with_reducible apply State.Keeps.ite)
    | (with_reducible apply State.raise_keeps)
    | (with_reducible apply State.gsqSt_keeps)
    | decide
    | split
    | dsimp only
    | dsimp +zetaDelta only

theorem exchOp_keeps {m_ : Nat} {s_ : State} (q : Nat) (ga : Nat) (ofs : Nat) (phase : Nat) (t : Nat) (s : State) (hm_ : (m_ ||| 0x6A8F0) = m_) (h_ : State.Keeps m_ s_ s) : State.Keeps m_ s_ (exchOp q ga ofs phase t s) := by
  refine State.Keeps.step (m1 := 0x6A8F0) ?_ hm_ h_
  unfold exchOp
  repeat' first
    | (intro _)
    | (with_reducible exact State.Keeps.refl _ _)
    | (with_reducible assumption)
    | (with_reducible apply State.Keeps.ite)
    | (with_reducible apply State.phaseFails_keeps)
    | (with_reducible apply State.exchRefuse_keeps)
    | (with_reducible apply State.issueGsq_keeps)
    | (with_reducible apply State.onPlan_keeps)
    | (with_reducible apply State.exchDone_keeps)
    | (with_reducible apply State.spend_keeps)
    | (with_reducible apply State.gsqWait_keeps)
    | (with_reducible apply State.Keeps.ofPair (by with_reducible assumption))
    | decide
    | extract_lets
    | split
    | dsimp only
    | dsimp +zetaDelta only

theorem sealExtentOp_keeps {m_ : Nat} {s_ : State} (q : Nat) (ga : Nat) (gb : Nat) (gd : Nat) (gt : Nat) (dest : Nat) (s : State) (hm_ : (m_ ||| 0x6A8F0) = m_) (h_ : State.Keeps m_ s_ s) : State.Keeps m_ s_ (sealExtentOp q ga gb gd gt dest s) := by
  refine State.Keeps.step (m1 := 0x6A8F0) ?_ hm_ h_
  unfold sealExtentOp
  repeat' first
    | (intro _)
    | (with_reducible exact State.Keeps.refl _ _)
    | (with_reducible assumption)
    | (with_reducible apply State.submit_keeps)
    | (with_reducible apply State.issueGsq_keeps)
    | (with_reducible apply State.gsqWait_keeps)
    | (with_reducible apply State.Keeps.ofPair (by with_reducible assumption))
    | decide
    | extract_lets
    | split
    | dsimp only
    | dsimp +zetaDelta only

theorem ctrOp_keeps {m_ : Nat} {s_ : State} (q : Nat) (ga : Nat) (gb : Nat) (gc : Nat) (s : State) (hm_ : (m_ ||| 0x6A8F0) = m_) (h_ : State.Keeps m_ s_ s) : State.Keeps m_ s_ (ctrOp q ga gb gc s) := by
  refine State.Keeps.step (m1 := 0x6A8F0) ?_ hm_ h_
  unfold ctrOp
  repeat' first
    | (intro _)
    | (with_reducible exact State.Keeps.refl _ _)
    | (with_reducible assumption)
    | (with_reducible apply State.Keeps.ite)
    | (with_reducible apply State.wkRefuse_keeps)
    | (with_reducible apply State.issueGsq_keeps)
    | (with_reducible apply State.setCounter_keeps)
    | (with_reducible apply State.gsqSt_keeps)
    | (with_reducible apply State.Keeps.ofPair (by with_reducible assumption))
    | decide
    | extract_lets
    | split
    | dsimp only
    | dsimp +zetaDelta only

theorem reportOp_keeps {m_ : Nat} {s_ : State} (q : Nat) (ga : Nat) (code : Nat) (s : State) (hm_ : (m_ ||| 0x6A8F0) = m_) (h_ : State.Keeps m_ s_ s) : State.Keeps m_ s_ (reportOp q ga code s) := by
  refine State.Keeps.step (m1 := 0x6A8F0) ?_ hm_ h_
  unfold reportOp
  repeat' first
    | (intro _)
    | (with_reducible exact State.Keeps.refl _ _)
    | (with_reducible assumption)
    | (with_reducible apply State.gsqWait_keeps)
    | (with_reducible apply State.issueGsq_keeps)
    | (with_reducible apply State.wakeReport_keeps)
    | (with_reducible apply State.Keeps.ofPair (by with_reducible assumption))
    | decide
    | split
    | dsimp only
    | dsimp +zetaDelta only

theorem secbOp_keeps {m_ : Nat} {s_ : State} (q : Nat) (ident : Nat) (s : State) (hm_ : (m_ ||| 0x6A8F0) = m_) (h_ : State.Keeps m_ s_ s) : State.Keeps m_ s_ (secbOp q ident s) := by
  refine State.Keeps.step (m1 := 0x6A8F0) ?_ hm_ h_
  unfold secbOp
  repeat' first
    | (intro _)
    | (with_reducible exact State.Keeps.refl _ _)
    | (with_reducible assumption)
    | (with_reducible apply State.gsqNext_keeps)
    | (with_reducible apply State.issueGsq_keeps)
    | (with_reducible apply State.rerunPoint_keeps)
    | decide
    | split
    | dsimp only
    | dsimp +zetaDelta only

theorem haltOp_keeps {m_ : Nat} {s_ : State} (q : Nat) (s : State) (hm_ : (m_ ||| 0x6A8F0) = m_) (h_ : State.Keeps m_ s_ s) : State.Keeps m_ s_ (haltOp q s) := by
  refine State.Keeps.step (m1 := 0x6A8F0) ?_ hm_ h_
  unfold haltOp
  repeat' first
    | (intro _)
    | (with_reducible exact State.Keeps.refl _ _)
    | (with_reducible assumption)
    | (with_reducible apply State.onGsq_keeps)
    | (with_reducible apply State.issueGsq_keeps)
    | decide
    | split
    | dsimp only
    | dsimp +zetaDelta only

theorem workCounterClaimOp_keeps {m_ : Nat} {s_ : State} (die : Nat) (m : Nat) (n : Nat) (who : Requester) (a : BitVec 32) (wide : Bool) (s : State) (hm_ : (m_ ||| 0x28000) = m_) (h_ : State.Keeps m_ s_ s) : State.Keeps m_ s_ (workCounterClaimOp die m n who a wide s) := by
  refine State.Keeps.step (m1 := 0x28000) ?_ hm_ h_
  unfold workCounterClaimOp
  repeat' first
    | (intro _)
    | (with_reducible exact State.Keeps.refl _ _)
    | (with_reducible assumption)
    | (with_reducible apply State.Keeps.ite)
    | (with_reducible apply State.setReg_keeps)
    | (with_reducible apply State.wkRefuse_keeps)
    | (with_reducible apply State.emit_keeps)
    | (with_reducible apply State.narrowFault_keeps)
    | (with_reducible apply State.Keeps.ofPair (by with_reducible assumption))
    | decide
    | extract_lets
    | split
    | dsimp only
    | dsimp +zetaDelta only

theorem wkcWriteOp_keeps {m_ : Nat} {s_ : State} (die : Nat) (m : Nat) (n : Nat) (limit : Bool) (half : Half) (val : Word) (s : State) (hm_ : (m_ ||| 0x8000) = m_) (h_ : State.Keeps m_ s_ s) : State.Keeps m_ s_ (wkcWriteOp die m n limit half val s) := by
  refine State.Keeps.step (m1 := 0x8000) ?_ hm_ h_
  unfold wkcWriteOp
  repeat' first
    | (intro _)
    | (with_reducible exact State.Keeps.refl _ _)
    | (with_reducible assumption)
    | (with_reducible apply State.Keeps.ite)
    | (with_reducible apply State.setReg_keeps)
    | (with_reducible apply State.wkRefuse_keeps)
    | decide
    | extract_lets
    | split
    | dsimp only
    | dsimp +zetaDelta only

end Sys2Proof.Machine
end

