-- ==== Sys2Proof/Laws/FrameGloveCmds.lean ====
section
/-! SUPPORT. The frame of each operation of Machine/GloveCmds.lean: the blocks of the state that it may change (Laws/Keeps.lean). -/

set_option Elab.async false

namespace Sys2Proof.Machine

theorem State.gloveConflict_keeps {m_ : Nat} {s_ : State} (s : State) (c : HostCmd) (g : Nat) (hm_ : (m_ ||| 0x2A000) = m_) (h_ : State.Keeps m_ s_ s) : State.Keeps m_ s_ (State.gloveConflict s c g) := by
  refine State.Keeps.step (m1 := 0x2A000) ?_ hm_ h_
  unfold State.gloveConflict
  repeat' first
    | (intro _)
    | (with_reducible exact State.Keeps.refl _ _)
    | (with_reducible assumption)
    | (with_reducible apply State.refuseState_keeps)
    | decide
    | split
    | dsimp only
    | dsimp +zetaDelta only

theorem State.gloveCreateCmd_keeps {m_ : Nat} {s_ : State} (s : State) (c : HostCmd) (hm_ : (m_ ||| 0x6A0B0) = m_) (h_ : State.Keeps m_ s_ s) : State.Keeps m_ s_ (State.gloveCreateCmd s c) := by
  refine State.Keeps.step (m1 := 0x6A0B0) ?_ hm_ h_
  unfold State.gloveCreateCmd
  repeat' first
    | (intro _)
    | (with_reducible exact State.Keeps.refl _ _)
    | (with_reducible assumption)
    | (with_reducible apply State.Keeps.ite)
    | (with_reducible apply State.createGlove_keeps)
    | (with_reducible apply State.gloveConflict_keeps)
    | (with_reducible apply State.refuseState_keeps)
    | (with_reducible apply State.refuse_keeps)
    | (with_reducible apply State.refuseModule_keeps)
    | (with_reducible apply State.complete_keeps)
    | (with_reducible apply State.Keeps.ofPair (by with_reducible assumption))
    | decide
    | extract_lets
    | split
    | dsimp only
    | dsimp +zetaDelta only

theorem State.gloveDestroyCmd_keeps {m_ : Nat} {s_ : State} (s : State) (c : HostCmd) (hm_ : (m_ ||| 0x2A8F0) = m_) (h_ : State.Keeps m_ s_ s) : State.Keeps m_ s_ (State.gloveDestroyCmd s c) := by
  refine State.Keeps.step (m1 := 0x2A8F0) ?_ hm_ h_
  unfold State.gloveDestroyCmd
  repeat' first
    | (intro _)
    | (with_reducible exact State.Keeps.refl _ _)
    | (with_reducible assumption)
    | (with_reducible apply State.Keeps.ite)
    | (with_reducible apply State.gloveConflict_keeps)
    | (with_reducible apply State.destroyGlove_keeps)
    | (with_reducible apply State.refuseState_keeps)
    | (with_reducible apply State.finishDestroys_keeps)
    | decide
    | extract_lets
    | split
    | dsimp only
    | dsimp +zetaDelta only

theorem State.gloveResetCmd_keeps {m_ : Nat} {s_ : State} (s : State) (c : HostCmd) (hm_ : (m_ ||| 0x6A8F0) = m_) (h_ : State.Keeps m_ s_ s) : State.Keeps m_ s_ (State.gloveResetCmd s c) := by
  refine State.Keeps.step (m1 := 0x6A8F0) ?_ hm_ h_
  unfold State.gloveResetCmd
  repeat' first
    | (intro _)
    | (with_reducible exact State.Keeps.refl _ _)
    | (with_reducible assumption)
    | (with_reducible apply State.beginReset_keeps)
    | (with_reducible apply State.onGlv_keeps)
    | decide
    | extract_lets
    | split
    | dsimp only
    | dsimp +zetaDelta only

theorem State.frameAllocCmd_keeps {m_ : Nat} {s_ : State} (s : State) (c : HostCmd) (hm_ : (m_ ||| 0x2A840) = m_) (h_ : State.Keeps m_ s_ s) : State.Keeps m_ s_ (State.frameAllocCmd s c) := by
  refine State.Keeps.step (m1 := 0x2A840) ?_ hm_ h_
  unfold State.frameAllocCmd
  repeat' first
    | (intro _)
    | (with_reducible exact State.Keeps.refl _ _)
    | (with_reducible assumption)
    | (with_reducible apply State.Keeps.ite)
    | (with_reducible apply State.refuse_keeps)
    | (with_reducible apply State.addKvFrame_keeps)
    | (with_reducible apply State.complete_keeps)
    | (with_reducible apply State.onFrame_keeps)
    | (with_reducible apply State.Keeps.foldl)
    | (with_reducible apply State.Keeps.foldlFst)
    | decide
    | extract_lets
    | split
    | dsimp only
    | dsimp +zetaDelta only

theorem State.frameShareCmd_keeps {m_ : Nat} {s_ : State} (s : State) (c : HostCmd) (hm_ : (m_ ||| 0x2A040) = m_) (h_ : State.Keeps m_ s_ s) : State.Keeps m_ s_ (State.frameShareCmd s c) := by
  refine State.Keeps.step (m1 := 0x2A040) ?_ hm_ h_
  unfold State.frameShareCmd
  repeat' first
    | (intro _)
    | (with_reducible exact State.Keeps.refl _ _)
    | (with_reducible assumption)
    | (with_reducible apply State.Keeps.ite)
    | (with_reducible apply State.gloveConflict_keeps)
    | (with_reducible apply State.refuse_keeps)
    | (with_reducible apply State.complete_keeps)
    | (with_reducible apply State.onFrame_keeps)
    | (with_reducible apply State.Keeps.foldl)
    | (with_reducible apply State.Keeps.foldlFst)
    | decide
    | extract_lets
    | split
    | dsimp only
    | dsimp +zetaDelta only

theorem State.frameFreeCmd_keeps {m_ : Nat} {s_ : State} (s : State) (c : HostCmd) (hm_ : (m_ ||| 0x2A840) = m_) (h_ : State.Keeps m_ s_ s) : State.Keeps m_ s_ (State.frameFreeCmd s c) := by
  refine State.Keeps.step (m1 := 0x2A840) ?_ hm_ h_
  unfold State.frameFreeCmd
  repeat' first
    | (intro _)
    | (with_reducible exact State.Keeps.refl _ _)
    | (with_reducible assumption)
    | (with_reducible apply State.Keeps.ite)
    | (with_reducible apply State.framesFreed_keeps)
    | (with_reducible apply State.freeFrame_keeps)
    | (with_reducible apply State.gloveConflict_keeps)
    | (with_reducible apply State.refuse_keeps)
    | (with_reducible apply State.complete_keeps)
    | (with_reducible apply State.Keeps.foldl)
    | (with_reducible apply State.Keeps.foldlFst)
    | decide
    | extract_lets
    | split
    | dsimp only
    | dsimp +zetaDelta only

theorem State.gsqWriteCmd_keeps {m_ : Nat} {s_ : State} (s : State) (c : HostCmd) (hm_ : (m_ ||| 0x2A020) = m_) (h_ : State.Keeps m_ s_ s) : State.Keeps m_ s_ (State.gsqWriteCmd s c) := by
  refine State.Keeps.step (m1 := 0x2A020) ?_ hm_ h_
  unfold State.gsqWriteCmd
  repeat' first
    | (intro _)
    | (with_reducible exact State.Keeps.refl _ _)
    | (with_reducible assumption)
    | (with_reducible apply State.Keeps.ite)
    | (with_reducible apply State.gloveConflict_keeps)
    | (with_reducible apply State.refuse_keeps)
    | (with_reducible apply State.writeProgram_keeps)
    | (with_reducible apply State.complete_keeps)
    | decide
    | extract_lets
    | split
    | dsimp only
    | dsimp +zetaDelta only

theorem State.gsqStartCmd_keeps {m_ : Nat} {s_ : State} (s : State) (c : HostCmd) (hm_ : (m_ ||| 0x2A020) = m_) (h_ : State.Keeps m_ s_ s) : State.Keeps m_ s_ (State.gsqStartCmd s c) := by
  refine State.Keeps.step (m1 := 0x2A020) ?_ hm_ h_
  unfold State.gsqStartCmd
  repeat' first
    | (intro _)
    | (with_reducible exact State.Keeps.refl _ _)
    | (with_reducible assumption)
    | (with_reducible apply State.Keeps.ite)
    | (with_reducible apply State.gloveConflict_keeps)
    | (with_reducible apply State.startSeq_keeps)
    | (with_reducible apply State.complete_keeps)
    | decide
    | extract_lets
    | split
    | dsimp only
    | dsimp +zetaDelta only

theorem State.gsqStopCmd_keeps {m_ : Nat} {s_ : State} (s : State) (c : HostCmd) (hm_ : (m_ ||| 0x2A020) = m_) (h_ : State.Keeps m_ s_ s) : State.Keeps m_ s_ (State.gsqStopCmd s c) := by
  refine State.Keeps.step (m1 := 0x2A020) ?_ hm_ h_
  unfold State.gsqStopCmd
  repeat' first
    | (intro _)
    | (with_reducible exact State.Keeps.refl _ _)
    | (with_reducible assumption)
    | (with_reducible apply State.Keeps.ite)
    | (with_reducible apply State.complete_keeps)
    | (with_reducible apply State.stopSeq_keeps)
    | (with_reducible apply State.discardArm_keeps)
    | decide
    | extract_lets
    | split
    | dsimp only
    | dsimp +zetaDelta only

theorem State.planInstallCmd_keeps {m_ : Nat} {s_ : State} (s : State) (c : HostCmd) (hm_ : (m_ ||| 0x2A800) = m_) (h_ : State.Keeps m_ s_ s) : State.Keeps m_ s_ (State.planInstallCmd s c) := by
  refine State.Keeps.step (m1 := 0x2A800) ?_ hm_ h_
  unfold State.planInstallCmd
  repeat' first
    | (intro _)
    | (with_reducible exact State.Keeps.refl _ _)
    | (with_reducible assumption)
    | (with_reducible apply State.Keeps.ite)
    | (with_reducible apply State.onPlan_keeps)
    | (with_reducible apply State.refuseState_keeps)
    | (with_reducible apply State.refuse_keeps)
    | (with_reducible apply State.complete_keeps)
    | decide
    | extract_lets
    | split
    | dsimp only
    | dsimp +zetaDelta only

theorem State.planRemoveCmd_keeps {m_ : Nat} {s_ : State} (s : State) (c : HostCmd) (hm_ : (m_ ||| 0x2A800) = m_) (h_ : State.Keeps m_ s_ s) : State.Keeps m_ s_ (State.planRemoveCmd s c) := by
  refine State.Keeps.step (m1 := 0x2A800) ?_ hm_ h_
  unfold State.planRemoveCmd
  repeat' first
    | (intro _)
    | (with_reducible exact State.Keeps.refl _ _)
    | (with_reducible assumption)
    | (with_reducible apply State.Keeps.ite)
    | (with_reducible apply State.onPlan_keeps)
    | (with_reducible apply State.refuse_keeps)
    | (with_reducible apply State.refuseState_keeps)
    | (with_reducible apply State.complete_keeps)
    | decide
    | extract_lets
    | split
    | dsimp only
    | dsimp +zetaDelta only

theorem State.lz2EnableCmd_keeps {m_ : Nat} {s_ : State} (s : State) (c : HostCmd) (hm_ : (m_ ||| 0x2A040) = m_) (h_ : State.Keeps m_ s_ s) : State.Keeps m_ s_ (State.lz2EnableCmd s c) := by
  refine State.Keeps.step (m1 := 0x2A040) ?_ hm_ h_
  unfold State.lz2EnableCmd
  repeat' first
    | (intro _)
    | (with_reducible exact State.Keeps.refl _ _)
    | (with_reducible assumption)
    | (with_reducible apply State.Keeps.ite)
    | (with_reducible apply State.onMem_keeps)
    | (with_reducible apply State.gloveConflict_keeps)
    | (with_reducible apply State.refuse_keeps)
    | (with_reducible apply State.refuseModule_keeps)
    | (with_reducible apply State.complete_keeps)
    | (with_reducible apply State.Keeps.ofPair (by with_reducible assumption))
    | decide
    | extract_lets
    | split
    | dsimp only
    | dsimp +zetaDelta only

theorem State.lz2DisableCmd_keeps {m_ : Nat} {s_ : State} (s : State) (c : HostCmd) (hm_ : (m_ ||| 0x2A040) = m_) (h_ : State.Keeps m_ s_ s) : State.Keeps m_ s_ (State.lz2DisableCmd s c) := by
  refine State.Keeps.step (m1 := 0x2A040) ?_ hm_ h_
  unfold State.lz2DisableCmd
  repeat' first
    | (intro _)
    | (with_reducible exact State.Keeps.refl _ _)
    | (with_reducible assumption)
    | (with_reducible apply State.Keeps.ite)
    | (with_reducible apply State.complete_keeps)
    | (with_reducible apply State.gloveConflict_keeps)
    | (with_reducible apply State.lz2Off_keeps)
    | decide
    | extract_lets
    | split
    | dsimp only
    | dsimp +zetaDelta only

theorem State.migrateCmd_keeps {m_ : Nat} {s_ : State} (s : State) (c : HostCmd) (hm_ : (m_ ||| 0x40) = m_) (h_ : State.Keeps m_ s_ s) : State.Keeps m_ s_ (State.migrateCmd s c) := by
  refine State.Keeps.step (m1 := 0x40) ?_ hm_ h_
  unfold State.migrateCmd
  repeat' first
    | (intro _)
    | (with_reducible exact State.Keeps.refl _ _)
    | (with_reducible assumption)
    | (with_reducible apply State.Keeps.ite)
    | (with_reducible apply State.submit_keeps)
    | (with_reducible apply State.Keeps.ofPair (by with_reducible assumption))
    | decide
    | extract_lets
    | split
    | dsimp only
    | dsimp +zetaDelta only

theorem State.setTickPeriodCmd_keeps {m_ : Nat} {s_ : State} (s : State) (c : HostCmd) (hm_ : (m_ ||| 0x2A001) = m_) (h_ : State.Keeps m_ s_ s) : State.Keeps m_ s_ (State.setTickPeriodCmd s c) := by
  refine State.Keeps.step (m1 := 0x2A001) ?_ hm_ h_
  unfold State.setTickPeriodCmd
  repeat' first
    | (intro _)
    | (with_reducible exact State.Keeps.refl _ _)
    | (with_reducible assumption)
    | (with_reducible apply State.Keeps.ite)
    | (with_reducible apply State.refuse_keeps)
    | (with_reducible apply State.onTick_keeps)
    | (with_reducible apply State.emit_keeps)
    | (with_reducible apply State.refuseModule_keeps)
    | (with_reducible apply State.complete_keeps)
    | (with_reducible apply State.Keeps.ofPair (by with_reducible assumption))
    | decide
    | extract_lets
    | split
    | dsimp only
    | dsimp +zetaDelta only

theorem gloveCreateOp_keeps {m_ : Nat} {s_ : State} (c : HostCmd) (s : State) (hm_ : (m_ ||| 0x6A0B0) = m_) (h_ : State.Keeps m_ s_ s) : State.Keeps m_ s_ (gloveCreateOp c s) := by
  refine State.Keeps.step (m1 := 0x6A0B0) ?_ hm_ h_
  unfold gloveCreateOp
  repeat' first
    | (intro _)
    | (with_reducible exact State.Keeps.refl _ _)
    | (with_reducible assumption)
    | (with_reducible apply State.gloveCreateCmd_keeps)
    | (with_reducible apply State.command_keeps)
    | decide
    | split
    | dsimp only
    | dsimp +zetaDelta only

theorem gloveDestroyOp_keeps {m_ : Nat} {s_ : State} (c : HostCmd) (s : State) (hm_ : (m_ ||| 0x2A8F0) = m_) (h_ : State.Keeps m_ s_ s) : State.Keeps m_ s_ (gloveDestroyOp c s) := by
  refine State.Keeps.step (m1 := 0x2A8F0) ?_ hm_ h_
  unfold gloveDestroyOp
  repeat' first
    | (intro _)
    | (with_reducible exact State.Keeps.refl _ _)
    | (with_reducible assumption)
    | (with_reducible apply State.gloveDestroyCmd_keeps)
    | (with_reducible apply State.command_keeps)
    | decide
    | split
    | dsimp only
    | dsimp +zetaDelta only

theorem gloveResetOp_keeps {m_ : Nat} {s_ : State} (c : HostCmd) (s : State) (hm_ : (m_ ||| 0x6A8F0) = m_) (h_ : State.Keeps m_ s_ s) : State.Keeps m_ s_ (gloveResetOp c s) := by
  refine State.Keeps.step (m1 := 0x6A8F0) ?_ hm_ h_
  unfold gloveResetOp
  repeat' first
    | (intro _)
    | (with_reducible exact State.Keeps.refl _ _)
    | (with_reducible assumption)
    | (with_reducible apply State.command_keeps)
    | (with_reducible apply State.gloveResetCmd_keeps)
    | decide
    | split
    | dsimp only
    | dsimp +zetaDelta only

theorem frameAllocOp_keeps {m_ : Nat} {s_ : State} (c : HostCmd) (s : State) (hm_ : (m_ ||| 0x2A840) = m_) (h_ : State.Keeps m_ s_ s) : State.Keeps m_ s_ (frameAllocOp c s) := by
  refine State.Keeps.step (m1 := 0x2A840) ?_ hm_ h_
  unfold frameAllocOp
  repeat' first
    | (intro _)
    | (with_reducible exact State.Keeps.refl _ _)
    | (with_reducible assumption)
    | (with_reducible apply State.frameAllocCmd_keeps)
    | (with_reducible apply State.command_keeps)
    | decide
    | split
    | dsimp only
    | dsimp +zetaDelta only

theorem frameShareOp_keeps {m_ : Nat} {s_ : State} (c : HostCmd) (s : State) (hm_ : (m_ ||| 0x2A040) = m_) (h_ : State.Keeps m_ s_ s) : State.Keeps m_ s_ (frameShareOp c s) := by
  refine State.Keeps.step (m1 := 0x2A040) ?_ hm_ h_
  unfold frameShareOp
  repeat' first
    | (intro _)
    | (with_reducible exact State.Keeps.refl _ _)
    | (with_reducible assumption)
    | (with_reducible apply State.frameShareCmd_keeps)
    | (with_reducible apply State.command_keeps)
    | decide
    | split
    | dsimp only
    | dsimp +zetaDelta only

theorem frameFreeOp_keeps {m_ : Nat} {s_ : State} (c : HostCmd) (s : State) (hm_ : (m_ ||| 0x2A840) = m_) (h_ : State.Keeps m_ s_ s) : State.Keeps m_ s_ (frameFreeOp c s) := by
  refine State.Keeps.step (m1 := 0x2A840) ?_ hm_ h_
  unfold frameFreeOp
  repeat' first
    | (intro _)
    | (with_reducible exact State.Keeps.refl _ _)
    | (with_reducible assumption)
    | (with_reducible apply State.command_keeps)
    | (with_reducible apply State.frameFreeCmd_keeps)
    | decide
    | split
    | dsimp only
    | dsimp +zetaDelta only

theorem gsqWriteOp_keeps {m_ : Nat} {s_ : State} (c : HostCmd) (s : State) (hm_ : (m_ ||| 0x2A020) = m_) (h_ : State.Keeps m_ s_ s) : State.Keeps m_ s_ (gsqWriteOp c s) := by
  refine State.Keeps.step (m1 := 0x2A020) ?_ hm_ h_
  unfold gsqWriteOp
  repeat' first
    | (intro _)
    | (with_reducible exact State.Keeps.refl _ _)
    | (with_reducible assumption)
    | (with_reducible apply State.command_keeps)
    | (with_reducible apply State.gsqWriteCmd_keeps)
    | decide
    | split
    | dsimp only
    | dsimp +zetaDelta only

theorem gsqStartOp_keeps {m_ : Nat} {s_ : State} (c : HostCmd) (s : State) (hm_ : (m_ ||| 0x2A020) = m_) (h_ : State.Keeps m_ s_ s) : State.Keeps m_ s_ (gsqStartOp c s) := by
  refine State.Keeps.step (m1 := 0x2A020) ?_ hm_ h_
  unfold gsqStartOp
  repeat' first
    | (intro _)
    | (with_reducible exact State.Keeps.refl _ _)
    | (with_reducible assumption)
    | (with_reducible apply State.command_keeps)
    | (with_reducible apply State.gsqStartCmd_keeps)
    | decide
    | split
    | dsimp only
    | dsimp +zetaDelta only

theorem gsqStopOp_keeps {m_ : Nat} {s_ : State} (c : HostCmd) (s : State) (hm_ : (m_ ||| 0x2A020) = m_) (h_ : State.Keeps m_ s_ s) : State.Keeps m_ s_ (gsqStopOp c s) := by
  refine State.Keeps.step (m1 := 0x2A020) ?_ hm_ h_
  unfold gsqStopOp
  repeat' first
    | (intro _)
    | (with_reducible exact State.Keeps.refl _ _)
    | (with_reducible assumption)
    | (with_reducible apply State.command_keeps)
    | (with_reducible apply State.gsqStopCmd_keeps)
    | decide
    | split
    | dsimp only
    | dsimp +zetaDelta only

theorem planInstallOp_keeps {m_ : Nat} {s_ : State} (c : HostCmd) (s : State) (hm_ : (m_ ||| 0x2A800) = m_) (h_ : State.Keeps m_ s_ s) : State.Keeps m_ s_ (planInstallOp c s) := by
  refine State.Keeps.step (m1 := 0x2A800) ?_ hm_ h_
  unfold planInstallOp
  repeat' first
    | (intro _)
    | (with_reducible exact State.Keeps.refl _ _)
    | (with_reducible assumption)
    | (with_reducible apply State.planInstallCmd_keeps)
    | (with_reducible apply State.command_keeps)
    | decide
    | split
    | dsimp only
    | dsimp +zetaDelta only

theorem planRemoveOp_keeps {m_ : Nat} {s_ : State} (c : HostCmd) (s : State) (hm_ : (m_ ||| 0x2A800) = m_) (h_ : State.Keeps m_ s_ s) : State.Keeps m_ s_ (planRemoveOp c s) := by
  refine State.Keeps.step (m1 := 0x2A800) ?_ hm_ h_
  unfold planRemoveOp
  repeat' first
    | (intro _)
    | (with_reducible exact State.Keeps.refl _ _)
    | (with_reducible assumption)
    | (with_reducible apply State.command_keeps)
    | (with_reducible apply State.planRemoveCmd_keeps)
    | decide
    | split
    | dsimp only
    | dsimp +zetaDelta only

theorem lz2EnableOp_keeps {m_ : Nat} {s_ : State} (c : HostCmd) (s : State) (hm_ : (m_ ||| 0x2A040) = m_) (h_ : State.Keeps m_ s_ s) : State.Keeps m_ s_ (lz2EnableOp c s) := by
  refine State.Keeps.step (m1 := 0x2A040) ?_ hm_ h_
  unfold lz2EnableOp
  repeat' first
    | (intro _)
    | (with_reducible exact State.Keeps.refl _ _)
    | (with_reducible assumption)
    | (with_reducible apply State.lz2EnableCmd_keeps)
    | (with_reducible apply State.command_keeps)
    | decide
    | split
    | dsimp only
    | dsimp +zetaDelta only

theorem lz2DisableOp_keeps {m_ : Nat} {s_ : State} (c : HostCmd) (s : State) (hm_ : (m_ ||| 0x2A040) = m_) (h_ : State.Keeps m_ s_ s) : State.Keeps m_ s_ (lz2DisableOp c s) := by
  refine State.Keeps.step (m1 := 0x2A040) ?_ hm_ h_
  unfold lz2DisableOp
  repeat' first
    | (intro _)
    | (with_reducible exact State.Keeps.refl _ _)
    | (with_reducible assumption)
    | (with_reducible apply State.lz2DisableCmd_keeps)
    | (with_reducible apply State.command_keeps)
    | decide
    | split
    | dsimp only
    | dsimp +zetaDelta only

theorem migrateOp_keeps {m_ : Nat} {s_ : State} (c : HostCmd) (s : State) (hm_ : (m_ ||| 0x2A040) = m_) (h_ : State.Keeps m_ s_ s) : State.Keeps m_ s_ (migrateOp c s) := by
  refine State.Keeps.step (m1 := 0x2A040) ?_ hm_ h_
  unfold migrateOp
  repeat' first
    | (intro _)
    | (with_reducible exact State.Keeps.refl _ _)
    | (with_reducible assumption)
    | (with_reducible apply State.command_keeps)
    | (with_reducible apply State.migrateCmd_keeps)
    | decide
    | split
    | dsimp only
    | dsimp +zetaDelta only

theorem setTickPeriodOp_keeps {m_ : Nat} {s_ : State} (c : HostCmd) (s : State) (hm_ : (m_ ||| 0x2A001) = m_) (h_ : State.Keeps m_ s_ s) : State.Keeps m_ s_ (setTickPeriodOp c s) := by
  refine State.Keeps.step (m1 := 0x2A001) ?_ hm_ h_
  unfold setTickPeriodOp
  repeat' first
    | (intro _)
    | (with_reducible exact State.Keeps.refl _ _)
    | (with_reducible assumption)
    | (with_reducible apply State.setTickPeriodCmd_keeps)
    | (with_reducible apply State.command_keeps)
    | decide
    | split
    | dsimp only
    | dsimp +zetaDelta only

end Sys2Proof.Machine
end

