-- ==== Sys2Proof/Laws/FrameServiceOps.lean ====
section
/-! SUPPORT. The frame of each operation of Machine/ServiceOps.lean: the blocks of the state that it may change (Laws/Keeps.lean). -/

set_option Elab.async false

namespace Sys2Proof.Machine

theorem State.partConflict_keeps {m_ : Nat} {s_ : State} (s : State) (c : HostCmd) (code : Nat) (idx : Nat) (hm_ : (m_ ||| 0x2A000) = m_) (h_ : State.Keeps m_ s_ s) : State.Keeps m_ s_ (State.partConflict s c code idx) := by
  refine State.Keeps.step (m1 := 0x2A000) ?_ hm_ h_
  unfold State.partConflict
  repeat' first
    | (intro _)
    | (with_reducible exact State.Keeps.refl _ _)
    | (with_reducible assumption)
    | (with_reducible apply State.refuseState_keeps)
    | decide
    | split
    | dsimp only
    | dsimp +zetaDelta only

theorem State.svcFence_keeps {m_ : Nat} {s_ : State} (s : State) (c : HostCmd) (obj : Nat) (idx : Nat) (hm_ : (m_ ||| 0x6F8FC) = m_) (h_ : State.Keeps m_ s_ s) : State.Keeps m_ s_ (State.svcFence s c obj idx) := by
  refine State.Keeps.step (m1 := 0x6F8FC) ?_ hm_ h_
  unfold State.svcFence
  repeat' first
    | (intro _)
    | (with_reducible exact State.Keeps.refl _ _)
    | (with_reducible assumption)
    | (with_reducible apply State.Keeps.ite)
    | (with_reducible apply State.retireStackDie_keeps)
    | (with_reducible apply State.arrayFence_keeps)
    | (with_reducible apply State.fullFence_keeps)
    | (with_reducible apply State.fencePort_keeps)
    | (with_reducible apply State.partConflict_keeps)
    | (with_reducible apply State.refuse_keeps)
    | (with_reducible apply State.complete_keeps)
    | (with_reducible apply State.fenceCount_keeps)
    | (with_reducible apply State.fenceLink_keeps)
    | (with_reducible apply State.fencePalm_keeps)
    | decide
    | extract_lets
    | split
    | dsimp only
    | dsimp +zetaDelta only

theorem State.svcUnfence_keeps {m_ : Nat} {s_ : State} (s : State) (c : HostCmd) (obj : Nat) (idx : Nat) (hm_ : (m_ ||| 0x6F8FC) = m_) (h_ : State.Keeps m_ s_ s) : State.Keeps m_ s_ (State.svcUnfence s c obj idx) := by
  refine State.Keeps.step (m1 := 0x6F8FC) ?_ hm_ h_
  unfold State.svcUnfence
  repeat' first
    | (intro _)
    | (with_reducible exact State.Keeps.refl _ _)
    | (with_reducible assumption)
    | (with_reducible apply State.Keeps.ite)
    | (with_reducible apply State.onLink_keeps)
    | (with_reducible apply State.judgeMod_keeps)
    | (with_reducible apply State.arrayFence_keeps)
    | (with_reducible apply State.fullFence_keeps)
    | (with_reducible apply State.partConflict_keeps)
    | (with_reducible apply State.refuse_keeps)
    | (with_reducible apply State.raise_keeps)
    | (with_reducible apply State.onDie_keeps)
    | (with_reducible apply State.complete_keeps)
    | (with_reducible apply State.freePalm_keeps)
    | (with_reducible apply State.Keeps.foldl)
    | (with_reducible apply State.Keeps.foldlFst)
    | decide
    | extract_lets
    | split
    | dsimp only
    | dsimp +zetaDelta only

theorem State.svcRetire_keeps {m_ : Nat} {s_ : State} (s : State) (c : HostCmd) (obj : Nat) (idx : Nat) (hm_ : (m_ ||| 0x6F8FC) = m_) (h_ : State.Keeps m_ s_ s) : State.Keeps m_ s_ (State.svcRetire s c obj idx) := by
  refine State.Keeps.step (m1 := 0x6F8FC) ?_ hm_ h_
  unfold State.svcRetire
  repeat' first
    | (intro _)
    | (with_reducible exact State.Keeps.refl _ _)
    | (with_reducible assumption)
    | (with_reducible apply State.Keeps.ite)
    | (with_reducible apply State.retireStackDie_keeps)
    | (with_reducible apply State.drainPort_keeps)
    | (with_reducible apply State.partConflict_keeps)
    | (with_reducible apply State.refuse_keeps)
    | (with_reducible apply State.retireFrame_keeps)
    | (with_reducible apply State.complete_keeps)
    | decide
    | extract_lets
    | split
    | dsimp only
    | dsimp +zetaDelta only

theorem State.svcChain_keeps {m_ : Nat} {s_ : State} (s : State) (c : HostCmd) (obj : Nat) (idx : Nat) (hm_ : (m_ ||| 0x2A010) = m_) (h_ : State.Keeps m_ s_ s) : State.Keeps m_ s_ (State.svcChain s c obj idx) := by
  refine State.Keeps.step (m1 := 0x2A010) ?_ hm_ h_
  unfold State.svcChain
  repeat' first
    | (intro _)
    | (with_reducible exact State.Keeps.refl _ _)
    | (with_reducible assumption)
    | (with_reducible apply State.Keeps.ite)
    | (with_reducible apply State.formChain_keeps)
    | (with_reducible apply State.partConflict_keeps)
    | (with_reducible apply State.refuse_keeps)
    | (with_reducible apply State.complete_keeps)
    | decide
    | extract_lets
    | split
    | dsimp only
    | dsimp +zetaDelta only

theorem State.svcReturn_keeps {m_ : Nat} {s_ : State} (s : State) (c : HostCmd) (obj : Nat) (idx : Nat) (info : Option DimmInfo) (hm_ : (m_ ||| 0x2A040) = m_) (h_ : State.Keeps m_ s_ s) : State.Keeps m_ s_ (State.svcReturn s c obj idx info) := by
  refine State.Keeps.step (m1 := 0x2A040) ?_ hm_ h_
  unfold State.svcReturn
  repeat' first
    | (intro _)
    | (with_reducible exact State.Keeps.refl _ _)
    | (with_reducible assumption)
    | (with_reducible apply State.Keeps.ite)
    | (with_reducible apply State.onDdr_keeps)
    | (with_reducible apply State.partConflict_keeps)
    | (with_reducible apply State.refuse_keeps)
    | (with_reducible apply State.onDpp_keeps)
    | decide
    | extract_lets
    | split
    | dsimp only
    | dsimp +zetaDelta only

theorem State.serviceCmd_keeps {m_ : Nat} {s_ : State} (s : State) (c : HostCmd) (action : Nat) (info : Option DimmInfo) (hm_ : (m_ ||| 0x6F8FC) = m_) (h_ : State.Keeps m_ s_ s) : State.Keeps m_ s_ (State.serviceCmd s c action info) := by
  refine State.Keeps.step (m1 := 0x6F8FC) ?_ hm_ h_
  unfold State.serviceCmd
  repeat' first
    | (intro _)
    | (with_reducible exact State.Keeps.refl _ _)
    | (with_reducible assumption)
    | (with_reducible apply State.Keeps.ite)
    | (with_reducible apply State.svcUnfence_keeps)
    | (with_reducible apply State.command_keeps)
    | (with_reducible apply State.svcChain_keeps)
    | (with_reducible apply State.svcFence_keeps)
    | (with_reducible apply State.svcRetire_keeps)
    | (with_reducible apply State.refuse_keeps)
    | (with_reducible apply State.svcReturn_keeps)
    | decide
    | extract_lets
    | split
    | dsimp only
    | dsimp +zetaDelta only

theorem serviceOpFenceOp_keeps {m_ : Nat} {s_ : State} (c : HostCmd) (s : State) (hm_ : (m_ ||| 0x6F8FC) = m_) (h_ : State.Keeps m_ s_ s) : State.Keeps m_ s_ (serviceOpFenceOp c s) := by
  refine State.Keeps.step (m1 := 0x6F8FC) ?_ hm_ h_
  unfold serviceOpFenceOp
  repeat' first
    | (intro _)
    | (with_reducible exact State.Keeps.refl _ _)
    | (with_reducible assumption)
    | (with_reducible apply State.serviceCmd_keeps)
    | decide
    | split
    | dsimp only
    | dsimp +zetaDelta only

theorem serviceOpUnfenceOp_keeps {m_ : Nat} {s_ : State} (c : HostCmd) (s : State) (hm_ : (m_ ||| 0x6F8FC) = m_) (h_ : State.Keeps m_ s_ s) : State.Keeps m_ s_ (serviceOpUnfenceOp c s) := by
  refine State.Keeps.step (m1 := 0x6F8FC) ?_ hm_ h_
  unfold serviceOpUnfenceOp
  repeat' first
    | (intro _)
    | (with_reducible exact State.Keeps.refl _ _)
    | (with_reducible assumption)
    | (with_reducible apply State.serviceCmd_keeps)
    | decide
    | split
    | dsimp only
    | dsimp +zetaDelta only

theorem serviceOpRetireOp_keeps {m_ : Nat} {s_ : State} (c : HostCmd) (s : State) (hm_ : (m_ ||| 0x6F8FC) = m_) (h_ : State.Keeps m_ s_ s) : State.Keeps m_ s_ (serviceOpRetireOp c s) := by
  refine State.Keeps.step (m1 := 0x6F8FC) ?_ hm_ h_
  unfold serviceOpRetireOp
  repeat' first
    | (intro _)
    | (with_reducible exact State.Keeps.refl _ _)
    | (with_reducible assumption)
    | (with_reducible apply State.serviceCmd_keeps)
    | decide
    | split
    | dsimp only
    | dsimp +zetaDelta only

theorem serviceOpFormChainOp_keeps {m_ : Nat} {s_ : State} (c : HostCmd) (s : State) (hm_ : (m_ ||| 0x6F8FC) = m_) (h_ : State.Keeps m_ s_ s) : State.Keeps m_ s_ (serviceOpFormChainOp c s) := by
  refine State.Keeps.step (m1 := 0x6F8FC) ?_ hm_ h_
  unfold serviceOpFormChainOp
  repeat' first
    | (intro _)
    | (with_reducible exact State.Keeps.refl _ _)
    | (with_reducible assumption)
    | (with_reducible apply State.serviceCmd_keeps)
    | decide
    | split
    | dsimp only
    | dsimp +zetaDelta only

theorem serviceOpReturnOp_keeps {m_ : Nat} {s_ : State} (c : HostCmd) (info : Option DimmInfo) (s : State) (hm_ : (m_ ||| 0x6F8FC) = m_) (h_ : State.Keeps m_ s_ s) : State.Keeps m_ s_ (serviceOpReturnOp c info s) := by
  refine State.Keeps.step (m1 := 0x6F8FC) ?_ hm_ h_
  unfold serviceOpReturnOp
  repeat' first
    | (intro _)
    | (with_reducible exact State.Keeps.refl _ _)
    | (with_reducible assumption)
    | (with_reducible apply State.serviceCmd_keeps)
    | decide
    | split
    | dsimp only
    | dsimp +zetaDelta only

end Sys2Proof.Machine
end

