-- ==== Sys2Proof/Laws/FrameLinks.lean ====
section
/-! SUPPORT. The frame of each operation of Machine/Links.lean: the blocks of the state that it may change (Laws/Keeps.lean). -/

set_option Elab.async false

namespace Sys2Proof.Machine

theorem State.linkDown_keeps {m_ : Nat} {s_ : State} (s : State) (l : Nat) (hm_ : (m_ ||| 0x9800) = m_) (h_ : State.Keeps m_ s_ s) : State.Keeps m_ s_ (State.linkDown s l) := by
  refine State.Keeps.step (m1 := 0x9800) ?_ hm_ h_
  unfold State.linkDown
  repeat' first
    | (intro _)
    | (with_reducible exact State.Keeps.refl _ _)
    | (with_reducible assumption)
    | (with_reducible apply State.Keeps.ite)
    | (with_reducible apply State.onLink_keeps)
    | (with_reducible apply State.errClass_keeps)
    | (with_reducible apply State.raise_keeps)
    | (with_reducible apply State.fenceCount_keeps)
    | (with_reducible apply State.slotBreaks_keeps)
    | decide
    | extract_lets
    | split
    | dsimp only
    | dsimp +zetaDelta only

theorem State.linkTrain_keeps {m_ : Nat} {s_ : State} (s : State) (l : Nat) (hm_ : (m_ ||| 0x1800) = m_) (h_ : State.Keeps m_ s_ s) : State.Keeps m_ s_ (State.linkTrain s l) := by
  refine State.Keeps.step (m1 := 0x1800) ?_ hm_ h_
  unfold State.linkTrain
  repeat' first
    | (intro _)
    | (with_reducible exact State.Keeps.refl _ _)
    | (with_reducible assumption)
    | (with_reducible apply State.onLink_keeps)
    | (with_reducible apply State.slotBreaks_keeps)
    | decide
    | split
    | dsimp only
    | dsimp +zetaDelta only

theorem State.alignmentLost_keeps {m_ : Nat} {s_ : State} (s : State) (l : Nat) (hm_ : (m_ ||| 0x9800) = m_) (h_ : State.Keeps m_ s_ s) : State.Keeps m_ s_ (State.alignmentLost s l) := by
  refine State.Keeps.step (m1 := 0x9800) ?_ hm_ h_
  unfold State.alignmentLost
  repeat' first
    | (intro _)
    | (with_reducible exact State.Keeps.refl _ _)
    | (with_reducible assumption)
    | (with_reducible apply State.Keeps.ite)
    | (with_reducible apply State.linkDown_keeps)
    | (with_reducible apply State.linkTrain_keeps)
    | decide
    | split
    | dsimp only
    | dsimp +zetaDelta only

theorem State.replay_keeps {m_ : Nat} {s_ : State} (s : State) (l : Nat) (hm_ : (m_ ||| 0x9800) = m_) (h_ : State.Keeps m_ s_ s) : State.Keeps m_ s_ (State.replay s l) := by
  refine State.Keeps.step (m1 := 0x9800) ?_ hm_ h_
  unfold State.replay
  repeat' first
    | (intro _)
    | (with_reducible exact State.Keeps.refl _ _)
    | (with_reducible assumption)
    | (with_reducible apply State.Keeps.ite)
    | (with_reducible apply State.onLink_keeps)
    | (with_reducible apply State.raise_keeps)
    | (with_reducible apply State.linkTrain_keeps)
    | decide
    | extract_lets
    | split
    | dsimp only
    | dsimp +zetaDelta only

theorem State.takeBody_keeps {m_ : Nat} {s_ : State} (s : State) (l : Nat) (vc : Nat) (hop : Nat) (body : List Byte) (hm_ : (m_ ||| 0x1000) = m_) (h_ : State.Keeps m_ s_ s) : State.Keeps m_ s_ (State.takeBody s l vc hop body) := by
  refine State.Keeps.step (m1 := 0x1000) ?_ hm_ h_
  unfold State.takeBody
  repeat' first
    | (intro _)
    | (with_reducible exact State.Keeps.refl _ _)
    | (with_reducible assumption)
    | (with_reducible apply State.Keeps.ite)
    | (with_reducible apply State.onLink_keeps)
    | (with_reducible apply State.onNet_keeps)
    | decide
    | extract_lets
    | split
    | dsimp only
    | dsimp +zetaDelta only

theorem State.takeAck_keeps {m_ : Nat} {s_ : State} (s : State) (l : Nat) (f : Flit) (hm_ : (m_ ||| 0x1000) = m_) (h_ : State.Keeps m_ s_ s) : State.Keeps m_ s_ (State.takeAck s l f) := by
  refine State.Keeps.step (m1 := 0x1000) ?_ hm_ h_
  unfold State.takeAck
  repeat' first
    | (intro _)
    | (with_reducible exact State.Keeps.refl _ _)
    | (with_reducible assumption)
    | (with_reducible apply State.Keeps.ite)
    | (with_reducible apply State.onLink_keeps)
    | decide
    | split
    | dsimp only
    | dsimp +zetaDelta only

theorem State.sendLctl_keeps {m_ : Nat} {s_ : State} (s : State) (l : Nat) (hm_ : (m_ ||| 0x21000) = m_) (h_ : State.Keeps m_ s_ s) : State.Keeps m_ s_ (State.sendLctl s l) := by
  refine State.Keeps.step (m1 := 0x21000) ?_ hm_ h_
  unfold State.sendLctl
  repeat' first
    | (intro _)
    | (with_reducible exact State.Keeps.refl _ _)
    | (with_reducible assumption)
    | (with_reducible apply State.Keeps.ite)
    | (with_reducible apply State.onLink_keeps)
    | (with_reducible apply State.emit_keeps)
    | decide
    | extract_lets
    | split
    | dsimp only
    | dsimp +zetaDelta only

theorem State.sendFlit_keeps {m_ : Nat} {s_ : State} (s : State) (l : Nat) (f : Flit) (hm_ : (m_ ||| 0x29000) = m_) (h_ : State.Keeps m_ s_ s) : State.Keeps m_ s_ (State.sendFlit s l f) := by
  refine State.Keeps.step (m1 := 0x29000) ?_ hm_ h_
  unfold State.sendFlit
  repeat' first
    | (intro _)
    | (with_reducible exact State.Keeps.refl _ _)
    | (with_reducible assumption)
    | (with_reducible apply State.count_keeps)
    | (with_reducible apply State.onLink_keeps)
    | (with_reducible apply State.emit_keeps)
    | decide
    | split
    | dsimp only
    | dsimp +zetaDelta only

theorem State.queuePacket_keeps {m_ : Nat} {s_ : State} (s : State) (l : Nat) (p : Packet) (hm_ : (m_ ||| 0x1000) = m_) (h_ : State.Keeps m_ s_ s) : State.Keeps m_ s_ (State.queuePacket s l p) := by
  refine State.Keeps.step (m1 := 0x1000) ?_ hm_ h_
  unfold State.queuePacket
  repeat' first
    | (intro _)
    | (with_reducible exact State.Keeps.refl _ _)
    | (with_reducible assumption)
    | (with_reducible apply State.onLink_keeps)
    | decide
    | split
    | dsimp only
    | dsimp +zetaDelta only

theorem flitReceiveOp_keeps {m_ : Nat} {s_ : State} (link : Nat) (f : Flit) (s : State) (hm_ : (m_ ||| 0x9800) = m_) (h_ : State.Keeps m_ s_ s) : State.Keeps m_ s_ (flitReceiveOp link f s) := by
  refine State.Keeps.step (m1 := 0x9800) ?_ hm_ h_
  unfold flitReceiveOp
  repeat' first
    | (intro _)
    | (with_reducible exact State.Keeps.refl _ _)
    | (with_reducible assumption)
    | (with_reducible apply State.Keeps.ite)
    | (with_reducible apply State.onLink_keeps)
    | (with_reducible apply State.alignmentLost_keeps)
    | (with_reducible apply State.raise_keeps)
    | (with_reducible apply State.takeBody_keeps)
    | (with_reducible apply State.count_keeps)
    | (with_reducible apply State.takeAck_keeps)
    | (with_reducible apply State.replay_keeps)
    | (with_reducible apply State.Keeps.foldl)
    | (with_reducible apply State.Keeps.foldlFst)
    | (with_reducible apply State.Keeps.ofPair (by with_reducible assumption))
    | decide
    | extract_lets
    | split
    | dsimp only
    | dsimp +zetaDelta only

theorem replayTimeoutOp_keeps {m_ : Nat} {s_ : State} (link : Nat) (s : State) (hm_ : (m_ ||| 0x9800) = m_) (h_ : State.Keeps m_ s_ s) : State.Keeps m_ s_ (replayTimeoutOp link s) := by
  refine State.Keeps.step (m1 := 0x9800) ?_ hm_ h_
  unfold replayTimeoutOp
  repeat' first
    | (intro _)
    | (with_reducible exact State.Keeps.refl _ _)
    | (with_reducible assumption)
    | (with_reducible apply State.Keeps.ite)
    | (with_reducible apply State.replay_keeps)
    | decide
    | split
    | dsimp only
    | dsimp +zetaDelta only

theorem linkTrainingStartOp_keeps {m_ : Nat} {s_ : State} (link : Nat) (s : State) (hm_ : (m_ ||| 0x1800) = m_) (h_ : State.Keeps m_ s_ s) : State.Keeps m_ s_ (linkTrainingStartOp link s) := by
  refine State.Keeps.step (m1 := 0x1800) ?_ hm_ h_
  unfold linkTrainingStartOp
  repeat' first
    | (intro _)
    | (with_reducible exact State.Keeps.refl _ _)
    | (with_reducible assumption)
    | (with_reducible apply State.Keeps.ite)
    | (with_reducible apply State.linkTrain_keeps)
    | decide
    | split
    | dsimp only
    | dsimp +zetaDelta only

theorem linkTrainingCompleteOp_keeps {m_ : Nat} {s_ : State} (link : Nat) (lanes : Nat) (peer : Nat) (peerLink : Nat) (delay : Nat) (s : State) (hm_ : (m_ ||| 0x9800) = m_) (h_ : State.Keeps m_ s_ s) : State.Keeps m_ s_ (linkTrainingCompleteOp link lanes peer peerLink delay s) := by
  refine State.Keeps.step (m1 := 0x9800) ?_ hm_ h_
  unfold linkTrainingCompleteOp
  repeat' first
    | (intro _)
    | (with_reducible exact State.Keeps.refl _ _)
    | (with_reducible assumption)
    | (with_reducible apply State.Keeps.ite)
    | (with_reducible apply State.onLink_keeps)
    | (with_reducible apply State.linkDown_keeps)
    | decide
    | split
    | dsimp only
    | dsimp +zetaDelta only

theorem laneDropOp_keeps {m_ : Nat} {s_ : State} (link : Nat) (lane : Nat) (s : State) (hm_ : (m_ ||| 0x9800) = m_) (h_ : State.Keeps m_ s_ s) : State.Keeps m_ s_ (laneDropOp link lane s) := by
  refine State.Keeps.step (m1 := 0x9800) ?_ hm_ h_
  unfold laneDropOp
  repeat' first
    | (intro _)
    | (with_reducible exact State.Keeps.refl _ _)
    | (with_reducible assumption)
    | (with_reducible apply State.Keeps.ite)
    | (with_reducible apply State.onLink_keeps)
    | (with_reducible apply State.corrected_keeps)
    | (with_reducible apply State.raise_keeps)
    | (with_reducible apply State.linkDown_keeps)
    | (with_reducible apply State.slotBreaks_keeps)
    | (with_reducible apply State.Keeps.ofPair (by with_reducible assumption))
    | decide
    | extract_lets
    | split
    | dsimp only
    | dsimp +zetaDelta only

theorem lnkRetrainOp_keeps {m_ : Nat} {s_ : State} (link : Nat) (s : State) (hm_ : (m_ ||| 0x1800) = m_) (h_ : State.Keeps m_ s_ s) : State.Keeps m_ s_ (lnkRetrainOp link s) := by
  refine State.Keeps.step (m1 := 0x1800) ?_ hm_ h_
  unfold lnkRetrainOp
  repeat' first
    | (intro _)
    | (with_reducible exact State.Keeps.refl _ _)
    | (with_reducible assumption)
    | (with_reducible apply State.Keeps.ite)
    | (with_reducible apply State.linkTrain_keeps)
    | decide
    | split
    | dsimp only
    | dsimp +zetaDelta only

theorem lnkEnableWriteOp_keeps {m_ : Nat} {s_ : State} (link : Nat) (val : Word) (s : State) (hm_ : (m_ ||| 0x9800) = m_) (h_ : State.Keeps m_ s_ s) : State.Keeps m_ s_ (lnkEnableWriteOp link val s) := by
  refine State.Keeps.step (m1 := 0x9800) ?_ hm_ h_
  unfold lnkEnableWriteOp
  repeat' first
    | (intro _)
    | (with_reducible exact State.Keeps.refl _ _)
    | (with_reducible assumption)
    | (with_reducible apply State.Keeps.ite)
    | (with_reducible apply State.setReg_keeps)
    | (with_reducible apply State.linkDown_keeps)
    | (with_reducible apply lnkRetrainOp_keeps)
    | decide
    | extract_lets
    | split
    | dsimp only
    | dsimp +zetaDelta only

theorem packetForwardOp_keeps {m_ : Nat} {s_ : State} (p : Packet) (s : State) (hm_ : (m_ ||| 0x9000) = m_) (h_ : State.Keeps m_ s_ s) : State.Keeps m_ s_ (packetForwardOp p s) := by
  refine State.Keeps.step (m1 := 0x9000) ?_ hm_ h_
  unfold packetForwardOp
  repeat' first
    | (intro _)
    | (with_reducible exact State.Keeps.refl _ _)
    | (with_reducible assumption)
    | (with_reducible apply State.Keeps.ite)
    | (with_reducible apply State.onNet_keeps)
    | (with_reducible apply State.raise_keeps)
    | (with_reducible apply State.queuePacket_keeps)
    | decide
    | extract_lets
    | split
    | dsimp only
    | dsimp +zetaDelta only

theorem flitTransmitOp_keeps {m_ : Nat} {s_ : State} (link : Nat) (s : State) (hm_ : (m_ ||| 0x29000) = m_) (h_ : State.Keeps m_ s_ s) : State.Keeps m_ s_ (flitTransmitOp link s) := by
  refine State.Keeps.step (m1 := 0x29000) ?_ hm_ h_
  unfold flitTransmitOp
  repeat' first
    | (intro _)
    | (with_reducible exact State.Keeps.refl _ _)
    | (with_reducible assumption)
    | (with_reducible apply State.Keeps.ite)
    | (with_reducible apply State.onLink_keeps)
    | (with_reducible apply State.sendFlit_keeps)
    | (with_reducible apply State.sendLctl_keeps)
    | (with_reducible apply State.emit_keeps)
    | (with_reducible apply State.Keeps.ofPair (by with_reducible assumption))
    | decide
    | extract_lets
    | split
    | dsimp only
    | dsimp +zetaDelta only

theorem State.setRouteCmd_keeps {m_ : Nat} {s_ : State} (s : State) (c : HostCmd) (hm_ : (m_ ||| 0x2A000) = m_) (h_ : State.Keeps m_ s_ s) : State.Keeps m_ s_ (State.setRouteCmd s c) := by
  refine State.Keeps.step (m1 := 0x2A000) ?_ hm_ h_
  unfold State.setRouteCmd
  repeat' first
    | (intro _)
    | (with_reducible exact State.Keeps.refl _ _)
    | (with_reducible assumption)
    | (with_reducible apply State.Keeps.ite)
    | (with_reducible apply State.setReg_keeps)
    | (with_reducible apply State.refuse_keeps)
    | (with_reducible apply State.complete_keeps)
    | decide
    | extract_lets
    | split
    | dsimp only
    | dsimp +zetaDelta only

theorem setRouteOp_keeps {m_ : Nat} {s_ : State} (c : HostCmd) (s : State) (hm_ : (m_ ||| 0x2A000) = m_) (h_ : State.Keeps m_ s_ s) : State.Keeps m_ s_ (setRouteOp c s) := by
  refine State.Keeps.step (m1 := 0x2A000) ?_ hm_ h_
  unfold setRouteOp
  repeat' first
    | (intro _)
    | (with_reducible exact State.Keeps.refl _ _)
    | (with_reducible assumption)
    | (with_reducible apply State.command_keeps)
    | (with_reducible apply State.setRouteCmd_keeps)
    | decide
    | split
    | dsimp only
    | dsimp +zetaDelta only

end Sys2Proof.Machine
end

