-- ==== Sys2Proof/Laws/FrameRack.lean ====
section
/-! SUPPORT. The frame of each operation of Machine/Rack.lean: the blocks of the state that it may change (Laws/Keeps.lean). -/

set_option Elab.async false

namespace Sys2Proof.Machine

theorem State.leaveDuties_keeps {m_ : Nat} {s_ : State} (s : State) (hm_ : (m_ ||| 0x1001) = m_) (h_ : State.Keeps m_ s_ s) : State.Keeps m_ s_ (State.leaveDuties s) := by
  refine State.Keeps.step (m1 := 0x1001) ?_ hm_ h_
  unfold State.leaveDuties
  repeat' first
    | (intro _)
    | (with_reducible exact State.Keeps.refl _ _)
    | (with_reducible assumption)
    | (with_reducible apply State.onTick_keeps)
    | (with_reducible apply State.onNet_keeps)
    | decide
    | split
    | dsimp only
    | dsimp +zetaDelta only

theorem State.newEpoch_keeps {m_ : Nat} {s_ : State} (s : State) (e : Word) (hm_ : (m_ ||| 0x9001) = m_) (h_ : State.Keeps m_ s_ s) : State.Keeps m_ s_ (State.newEpoch s e).1 := by
  refine State.Keeps.step (m1 := 0x9001) ?_ hm_ h_
  unfold State.newEpoch
  repeat' first
    | (intro _)
    | (with_reducible exact State.Keeps.refl _ _)
    | (with_reducible assumption)
    | (with_reducible apply State.Keeps.iteFst)
    | (with_reducible apply State.Keeps.ite)
    | (with_reducible apply State.seeEpoch_keeps)
    | (with_reducible apply State.leaveDuties_keeps)
    | (with_reducible apply State.Keeps.ofPair (by with_reducible assumption))
    | decide
    | extract_lets
    | split
    | dsimp only
    | dsimp +zetaDelta only

theorem State.loseWorker_keeps {m_ : Nat} {s_ : State} (s : State) (p : Nat) (hm_ : (m_ ||| 0x2B000) = m_) (h_ : State.Keeps m_ s_ s) : State.Keeps m_ s_ (State.loseWorker s p) := by
  refine State.Keeps.step (m1 := 0x2B000) ?_ hm_ h_
  unfold State.loseWorker
  repeat' first
    | (intro _)
    | (with_reducible exact State.Keeps.refl _ _)
    | (with_reducible assumption)
    | (with_reducible apply State.Keeps.ite)
    | (with_reducible apply State.eventCpl_keeps)
    | (with_reducible apply State.raise_keeps)
    | (with_reducible apply State.onWorker_keeps)
    | decide
    | extract_lets
    | split
    | dsimp only
    | dsimp +zetaDelta only

theorem State.numberRack_keeps {m_ : Nat} {s_ : State} (s : State) (hm_ : (m_ ||| 0x31000) = m_) (h_ : State.Keeps m_ s_ s) : State.Keeps m_ s_ (State.numberRack s) := by
  refine State.Keeps.step (m1 := 0x31000) ?_ hm_ h_
  unfold State.numberRack
  repeat' first
    | (intro _)
    | (with_reducible exact State.Keeps.refl _ _)
    | (with_reducible assumption)
    | (with_reducible apply State.Keeps.ite)
    | (with_reducible apply State.onNet_keeps)
    | (with_reducible apply State.toNode_keeps)
    | (with_reducible apply State.emit_keeps)
    | (with_reducible apply State.onWorker_keeps)
    | (with_reducible apply State.Keeps.foldl)
    | (with_reducible apply State.Keeps.foldlFst)
    | (with_reducible apply State.Keeps.ofPair (by with_reducible assumption))
    | decide
    | extract_lets
    | split
    | dsimp only
    | dsimp +zetaDelta only

theorem State.routeTry_keeps {m_ : Nat} {s_ : State} (s : State) (c : HostCmd) (y0 : List Word) (hm_ : (m_ ||| 0x6B8E0) = m_) (h_ : State.Keeps m_ s_ s) : State.Keeps m_ s_ (State.routeTry s c y0) := by
  induction y0 generalizing s with
  | nil =>
    unfold State.routeTry
    repeat' first
      | (intro _)
      | (with_reducible exact State.Keeps.refl _ _)
      | (with_reducible assumption)
      | (with_reducible apply ih_)
      | (with_reducible apply State.Keeps.ite)
      | (with_reducible apply State.onNet_keeps)
      | (with_reducible apply State.admitSeq_keeps)
      | (with_reducible apply State.refuse_keeps)
      | (with_reducible apply State.raise_keeps)
      | (with_reducible apply State.emit_keeps)
      | (with_reducible apply State.complete_keeps)
      | (with_reducible apply State.Keeps.ofPair (by with_reducible assumption))
      | exact State.Keeps.sub hm_ (by decide)
      | exact State.Keeps.bit hm_ (by decide)
      | extract_lets
      | split
      | dsimp only
      | dsimp +zetaDelta only
  | cons a_ l_ ih_ =>
    unfold State.routeTry
    repeat' first
      | (intro _)
      | (with_reducible exact State.Keeps.refl _ _)
      | (with_reducible assumption)
      | (with_reducible apply ih_)
      | (with_reducible apply State.Keeps.ite)
      | (with_reducible apply State.onNet_keeps)
      | (with_reducible apply State.admitSeq_keeps)
      | (with_reducible apply State.refuse_keeps)
      | (with_reducible apply State.raise_keeps)
      | (with_reducible apply State.emit_keeps)
      | (with_reducible apply State.complete_keeps)
      | (with_reducible apply State.Keeps.ofPair (by with_reducible assumption))
      | exact State.Keeps.sub hm_ (by decide)
      | exact State.Keeps.bit hm_ (by decide)
      | extract_lets
      | split
      | dsimp only
      | dsimp +zetaDelta only

theorem State.routeAdmitCmd_keeps {m_ : Nat} {s_ : State} (s : State) (c : HostCmd) (hm_ : (m_ ||| 0x6B8E0) = m_) (h_ : State.Keeps m_ s_ s) : State.Keeps m_ s_ (State.routeAdmitCmd s c) := by
  refine State.Keeps.step (m1 := 0x6B8E0) ?_ hm_ h_
  unfold State.routeAdmitCmd
  repeat' first
    | (intro _)
    | (with_reducible exact State.Keeps.refl _ _)
    | (with_reducible assumption)
    | (with_reducible apply State.Keeps.ite)
    | (with_reducible apply State.refuseModule_keeps)
    | (with_reducible apply State.routeTry_keeps)
    | decide
    | split
    | dsimp only
    | dsimp +zetaDelta only

theorem demandReceivedOp_keeps {m_ : Nat} {s_ : State} (node : Nat) (tick : Word) (mj : Nat) (envJ : Nat) (s : State) (hm_ : (m_ ||| 0x1000) = m_) (h_ : State.Keeps m_ s_ s) : State.Keeps m_ s_ (demandReceivedOp node tick mj envJ s) := by
  refine State.Keeps.step (m1 := 0x1000) ?_ hm_ h_
  unfold demandReceivedOp
  repeat' first
    | (intro _)
    | (with_reducible exact State.Keeps.refl _ _)
    | (with_reducible assumption)
    | (with_reducible apply State.Keeps.ite)
    | (with_reducible apply State.onWorker_keeps)
    | decide
    | split
    | dsimp only
    | dsimp +zetaDelta only

theorem grantComputationOp_keeps {m_ : Nat} {s_ : State} (s : State) (hm_ : (m_ ||| 0x21100) = m_) (h_ : State.Keeps m_ s_ s) : State.Keeps m_ s_ (grantComputationOp s) := by
  refine State.Keeps.step (m1 := 0x21100) ?_ hm_ h_
  unfold grantComputationOp
  repeat' first
    | (intro _)
    | (with_reducible exact State.Keeps.refl _ _)
    | (with_reducible assumption)
    | (with_reducible apply State.Keeps.ite)
    | (with_reducible apply State.onNet_keeps)
    | (with_reducible apply State.onLedger_keeps)
    | (with_reducible apply State.emit_keeps)
    | (with_reducible apply State.onWorker_keeps)
    | (with_reducible apply State.Keeps.foldl)
    | (with_reducible apply State.Keeps.foldlFst)
    | (with_reducible apply State.Keeps.ofPair (by with_reducible assumption))
    | decide
    | extract_lets
    | split
    | dsimp only
    | dsimp +zetaDelta only

theorem mgrCfgLockOp_keeps {m_ : Nat} {s_ : State} (half : Half) (val : Word) (s : State) (hm_ : (m_ ||| 0x39000) = m_) (h_ : State.Keeps m_ s_ s) : State.Keeps m_ s_ (mgrCfgLockOp half val s) := by
  refine State.Keeps.step (m1 := 0x39000) ?_ hm_ h_
  unfold mgrCfgLockOp
  repeat' first
    | (intro _)
    | (with_reducible exact State.Keeps.refl _ _)
    | (with_reducible assumption)
    | (with_reducible apply State.Keeps.ite)
    | (with_reducible apply State.setReg_keeps)
    | (with_reducible apply State.numberRack_keeps)
    | decide
    | extract_lets
    | split
    | dsimp only
    | dsimp +zetaDelta only

theorem rackConflictOp_keeps {m_ : Nat} {s_ : State} (otherLockTick : Word) (otherIdent : Word) (s : State) (hm_ : (m_ ||| 0x39001) = m_) (h_ : State.Keeps m_ s_ s) : State.Keeps m_ s_ (rackConflictOp otherLockTick otherIdent s) := by
  refine State.Keeps.step (m1 := 0x39001) ?_ hm_ h_
  unfold rackConflictOp
  repeat' first
    | (intro _)
    | (with_reducible exact State.Keeps.refl _ _)
    | (with_reducible assumption)
    | (with_reducible apply State.Keeps.ite)
    | (with_reducible apply State.onNet_keeps)
    | (with_reducible apply State.toNode_keeps)
    | (with_reducible apply State.becomeCrown_keeps)
    | (with_reducible apply State.emit_keeps)
    | (with_reducible apply State.Keeps.ofPair (by with_reducible assumption))
    | decide
    | extract_lets
    | split
    | dsimp only
    | dsimp +zetaDelta only

theorem workerReportOp_keeps {m_ : Nat} {s_ : State} (pos : Nat) (r : Report) (s : State) (hm_ : (m_ ||| 0x2B000) = m_) (h_ : State.Keeps m_ s_ s) : State.Keeps m_ s_ (workerReportOp pos r s) := by
  refine State.Keeps.step (m1 := 0x2B000) ?_ hm_ h_
  unfold workerReportOp
  repeat' first
    | (intro _)
    | (with_reducible exact State.Keeps.refl _ _)
    | (with_reducible assumption)
    | (with_reducible apply State.Keeps.ite)
    | (with_reducible apply State.sendLoad_keeps)
    | (with_reducible apply State.loseWorker_keeps)
    | (with_reducible apply State.onWorker_keeps)
    | (with_reducible apply State.Keeps.ofPair (by with_reducible assumption))
    | decide
    | extract_lets
    | split
    | dsimp only
    | dsimp +zetaDelta only

theorem workerHeartbeatMissOp_keeps {m_ : Nat} {s_ : State} (pos : Nat) (linksLost : Bool) (reportedFault : Bool) (s : State) (hm_ : (m_ ||| 0x2B000) = m_) (h_ : State.Keeps m_ s_ s) : State.Keeps m_ s_ (workerHeartbeatMissOp pos linksLost reportedFault s) := by
  refine State.Keeps.step (m1 := 0x2B000) ?_ hm_ h_
  unfold workerHeartbeatMissOp
  repeat' first
    | (intro _)
    | (with_reducible exact State.Keeps.refl _ _)
    | (with_reducible assumption)
    | (with_reducible apply State.Keeps.ite)
    | (with_reducible apply State.onWorker_keeps)
    | (with_reducible apply State.loseWorker_keeps)
    | decide
    | extract_lets
    | split
    | dsimp only
    | dsimp +zetaDelta only

theorem moduleHeartbeatOp_keeps {m_ : Nat} {s_ : State} (pos : Nat) (s : State) (hm_ : (m_ ||| 0x21000) = m_) (h_ : State.Keeps m_ s_ s) : State.Keeps m_ s_ (moduleHeartbeatOp pos s) := by
  refine State.Keeps.step (m1 := 0x21000) ?_ hm_ h_
  unfold moduleHeartbeatOp
  repeat' first
    | (intro _)
    | (with_reducible exact State.Keeps.refl _ _)
    | (with_reducible assumption)
    | (with_reducible apply State.Keeps.ite)
    | (with_reducible apply State.onNet_keeps)
    | (with_reducible apply State.emit_keeps)
    | (with_reducible apply State.onWorker_keeps)
    | decide
    | extract_lets
    | split
    | dsimp only
    | dsimp +zetaDelta only

theorem managerHeartbeatOp_keeps {m_ : Nat} {s_ : State} (s : State) (hm_ : (m_ ||| 0x21000) = m_) (h_ : State.Keeps m_ s_ s) : State.Keeps m_ s_ (managerHeartbeatOp s) := by
  refine State.Keeps.step (m1 := 0x21000) ?_ hm_ h_
  unfold managerHeartbeatOp
  repeat' first
    | (intro _)
    | (with_reducible exact State.Keeps.refl _ _)
    | (with_reducible assumption)
    | (with_reducible apply State.Keeps.ite)
    | (with_reducible apply State.emit_keeps)
    | (with_reducible apply State.onNet_keeps)
    | decide
    | split
    | dsimp only
    | dsimp +zetaDelta only

theorem State.takeDuties_keeps {m_ : Nat} {s_ : State} (s : State) (hm_ : (m_ ||| 0x29001) = m_) (h_ : State.Keeps m_ s_ s) : State.Keeps m_ s_ (State.takeDuties s) := by
  refine State.Keeps.step (m1 := 0x29001) ?_ hm_ h_
  unfold State.takeDuties
  repeat' first
    | (intro _)
    | (with_reducible exact State.Keeps.refl _ _)
    | (with_reducible assumption)
    | (with_reducible apply State.setReg_keeps)
    | (with_reducible apply State.onNet_keeps)
    | (with_reducible apply State.onTick_keeps)
    | (with_reducible apply State.raise_keeps)
    | (with_reducible apply State.emit_keeps)
    | decide
    | extract_lets
    | split
    | dsimp only
    | dsimp +zetaDelta only

theorem managerTakeoverOp_keeps {m_ : Nat} {s_ : State} (_fenced : Bool) (s : State) (hm_ : (m_ ||| 0x29001) = m_) (h_ : State.Keeps m_ s_ s) : State.Keeps m_ s_ (managerTakeoverOp _fenced s) := by
  refine State.Keeps.step (m1 := 0x29001) ?_ hm_ h_
  unfold managerTakeoverOp
  repeat' first
    | (intro _)
    | (with_reducible exact State.Keeps.refl _ _)
    | (with_reducible assumption)
    | (with_reducible apply State.Keeps.ite)
    | (with_reducible apply State.takeDuties_keeps)
    | decide
    | split
    | dsimp only
    | dsimp +zetaDelta only

theorem epochAnnounceOp_keeps {m_ : Nat} {s_ : State} (epoch : Word) (s : State) (hm_ : (m_ ||| 0x9001) = m_) (h_ : State.Keeps m_ s_ s) : State.Keeps m_ s_ (epochAnnounceOp epoch s) := by
  refine State.Keeps.step (m1 := 0x9001) ?_ hm_ h_
  unfold epochAnnounceOp
  repeat' first
    | (intro _)
    | (with_reducible exact State.Keeps.refl _ _)
    | (with_reducible assumption)
    | (with_reducible apply State.newEpoch_keeps)
    | decide
    | split
    | dsimp only
    | dsimp +zetaDelta only

theorem managerResyncOp_keeps {m_ : Nat} {s_ : State} (s : State) (hm_ : (m_ ||| 0x1000) = m_) (h_ : State.Keeps m_ s_ s) : State.Keeps m_ s_ (managerResyncOp s) := by
  refine State.Keeps.step (m1 := 0x1000) ?_ hm_ h_
  unfold managerResyncOp
  repeat' first
    | (intro _)
    | (with_reducible exact State.Keeps.refl _ _)
    | (with_reducible assumption)
    | (with_reducible apply State.Keeps.ite)
    | (with_reducible apply State.onNet_keeps)
    | decide
    | split
    | dsimp only
    | dsimp +zetaDelta only

theorem managerRoleDecisionOp_keeps {m_ : Nat} {s_ : State} (masterSeen : Bool) (standbySeen : Bool) (rivalIdent : Option Word) (s : State) (hm_ : (m_ ||| 0x1001) = m_) (h_ : State.Keeps m_ s_ s) : State.Keeps m_ s_ (managerRoleDecisionOp masterSeen standbySeen rivalIdent s) := by
  refine State.Keeps.step (m1 := 0x1001) ?_ hm_ h_
  unfold managerRoleDecisionOp
  repeat' first
    | (intro _)
    | (with_reducible exact State.Keeps.refl _ _)
    | (with_reducible assumption)
    | (with_reducible apply State.Keeps.ite)
    | (with_reducible apply State.onNet_keeps)
    | (with_reducible apply State.onTick_keeps)
    | decide
    | extract_lets
    | split
    | dsimp only
    | dsimp +zetaDelta only

theorem relayedCompletionOp_keeps {m_ : Nat} {s_ : State} (c : RelayedCpl) (s : State) (hm_ : (m_ ||| 0x6B8E0) = m_) (h_ : State.Keeps m_ s_ s) : State.Keeps m_ s_ (relayedCompletionOp c s) := by
  refine State.Keeps.step (m1 := 0x6B8E0) ?_ hm_ h_
  unfold relayedCompletionOp
  repeat' first
    | (intro _)
    | (with_reducible exact State.Keeps.refl _ _)
    | (with_reducible assumption)
    | (with_reducible apply State.Keeps.ite)
    | (with_reducible apply State.onNet_keeps)
    | (with_reducible apply State.refuse_keeps)
    | (with_reducible apply State.putCq_keeps)
    | (with_reducible apply State.complete_keeps)
    | (with_reducible apply State.routeTry_keeps)
    | decide
    | extract_lets
    | split
    | dsimp only
    | dsimp +zetaDelta only

theorem routeAdmitOp_keeps {m_ : Nat} {s_ : State} (c : HostCmd) (s : State) (hm_ : (m_ ||| 0x6B8E0) = m_) (h_ : State.Keeps m_ s_ s) : State.Keeps m_ s_ (routeAdmitOp c s) := by
  refine State.Keeps.step (m1 := 0x6B8E0) ?_ hm_ h_
  unfold routeAdmitOp
  repeat' first
    | (intro _)
    | (with_reducible exact State.Keeps.refl _ _)
    | (with_reducible assumption)
    | (with_reducible apply State.routeAdmitCmd_keeps)
    | (with_reducible apply State.command_keeps)
    | decide
    | split
    | dsimp only
    | dsimp +zetaDelta only

end Sys2Proof.Machine
end

