-- ==== Sys2Proof/Laws/FrameResets.lean ====
section
/-! SUPPORT. The frame of each operation of Machine/Resets.lean: the blocks of the state that it may change (Laws/Keeps.lean). -/

set_option Elab.async false

namespace Sys2Proof.Machine

theorem State.dropRequests_keeps {m_ : Nat} {s_ : State} (s : State) (hm_ : (m_ ||| 0x8040) = m_) (h_ : State.Keeps m_ s_ s) : State.Keeps m_ s_ (State.dropRequests s) := by
  refine State.Keeps.step (m1 := 0x8040) ?_ hm_ h_
  unfold State.dropRequests
  repeat' first
    | (intro _)
    | (with_reducible exact State.Keeps.refl _ _)
    | (with_reducible assumption)
    | (with_reducible apply State.Keeps.ite)
    | (with_reducible apply State.onExtent_keeps)
    | (with_reducible apply State.freeExtent_keeps)
    | (with_reducible apply State.onMem_keeps)
    | (with_reducible apply State.Keeps.foldl)
    | (with_reducible apply State.Keeps.foldlFst)
    | decide
    | extract_lets
    | split
    | dsimp only
    | dsimp +zetaDelta only

theorem State.freeCaches_keeps {m_ : Nat} {s_ : State} (s : State) (hm_ : (m_ ||| 0x8040) = m_) (h_ : State.Keeps m_ s_ s) : State.Keeps m_ s_ (State.freeCaches s) := by
  refine State.Keeps.step (m1 := 0x8040) ?_ hm_ h_
  unfold State.freeCaches
  repeat' first
    | (intro _)
    | (with_reducible exact State.Keeps.refl _ _)
    | (with_reducible assumption)
    | (with_reducible apply State.releaseHandle_keeps)
    | (with_reducible apply State.lz2Off_keeps)
    | (with_reducible apply State.Keeps.foldl)
    | (with_reducible apply State.Keeps.foldlFst)
    | decide
    | extract_lets
    | split
    | dsimp only
    | dsimp +zetaDelta only

theorem State.freeFrames_keeps {m_ : Nat} {s_ : State} (s : State) (hm_ : (m_ ||| 0x40) = m_) (h_ : State.Keeps m_ s_ s) : State.Keeps m_ s_ (State.freeFrames s) := by
  refine State.Keeps.step (m1 := 0x40) ?_ hm_ h_
  unfold State.freeFrames
  repeat' first
    | (intro _)
    | (with_reducible exact State.Keeps.refl _ _)
    | (with_reducible assumption)
    | (with_reducible apply State.Keeps.ite)
    | (with_reducible apply State.onMem_keeps)
    | decide
    | split
    | dsimp only
    | dsimp +zetaDelta only

theorem State.warmSteward_keeps {m_ : Nat} {s_ : State} (s : State) (hm_ : (m_ ||| 0x800) = m_) (h_ : State.Keeps m_ s_ s) : State.Keeps m_ s_ (State.warmSteward s) := by
  refine State.Keeps.step (m1 := 0x800) ?_ hm_ h_
  unfold State.warmSteward
  repeat' first
    | (intro _)
    | (with_reducible exact State.Keeps.refl _ _)
    | (with_reducible assumption)
    | (with_reducible apply State.Keeps.ite)
    | (with_reducible apply State.onStw_keeps)
    | decide
    | extract_lets
    | split
    | dsimp only
    | dsimp +zetaDelta only

theorem State.warmPorts_keeps {m_ : Nat} {s_ : State} (s : State) (hm_ : (m_ ||| 0x40) = m_) (h_ : State.Keeps m_ s_ s) : State.Keeps m_ s_ (State.warmPorts s) := by
  refine State.Keeps.step (m1 := 0x40) ?_ hm_ h_
  unfold State.warmPorts
  repeat' first
    | (intro _)
    | (with_reducible exact State.Keeps.refl _ _)
    | (with_reducible assumption)
    | (with_reducible apply State.Keeps.ite)
    | (with_reducible apply State.onMem_keeps)
    | decide
    | split
    | dsimp only
    | dsimp +zetaDelta only

theorem State.warmReset_keeps {m_ : Nat} {s_ : State} (s : State) (hm_ : (m_ ||| 0x7FFFD) = m_) (h_ : State.Keeps m_ s_ s) : State.Keeps m_ s_ (State.warmReset s) := by
  refine State.Keeps.step (m1 := 0x7FFFD) ?_ hm_ h_
  have h1 : State.Keeps 0x7FFFD s ((((s.freeCaches).dropRequests).freeFrames).warmPorts.warmSteward) := by
    repeat' first
      | (intro _)
      | (with_reducible exact State.Keeps.refl _ _)
      | (with_reducible assumption)
      | (with_reducible apply State.warmSteward_keeps)
      | (with_reducible apply State.dropRequests_keeps)
      | (with_reducible apply State.freeCaches_keeps)
      | (with_reducible apply State.warmPorts_keeps)
      | (with_reducible apply State.freeFrames_keeps)
      | (with_reducible apply State.Keeps.with_tick _)
      | (with_reducible apply State.Keeps.with_dies _)
      | (with_reducible apply State.Keeps.with_arr _)
      | (with_reducible apply State.Keeps.with_seq _)
      | (with_reducible apply State.Keeps.with_glv _)
      | (with_reducible apply State.Keeps.with_ledger _)
      | (with_reducible apply State.Keeps.with_rung _)
      | (with_reducible apply State.Keeps.with_net _)
      | (with_reducible apply State.Keeps.with_host _)
      | (with_reducible apply State.Keeps.with_aos _)
      | (with_reducible apply State.Keeps.with_regs _)
      | (with_reducible apply State.Keeps.ofPair (by with_reducible assumption))
      | decide
      | extract_lets
      | split
      | dsimp only
      | dsimp +zetaDelta only
  unfold State.warmReset
  dsimp only
  unfold State.Keeps
  refine ⟨?_, ?_, ?_, ?_, ?_, ?_, ?_, ?_, ?_, ?_, ?_, ?_, ?_, ?_, ?_, ?_, ?_, ?_, ?_, ?_⟩ <;> first | exact fun h => absurd h (by decide) | exact fun _ => h1.variant | exact fun _ => h1.pending

theorem State.keepLock_keeps {m_ : Nat} {s_ : State} (s : State) (old : State) (hm_ : (m_ ||| 0x8000) = m_) (h_ : State.Keeps m_ s_ s) : State.Keeps m_ s_ (State.keepLock s old) := by
  refine State.Keeps.step (m1 := 0x8000) ?_ hm_ h_
  unfold State.keepLock
  repeat' first
    | (intro _)
    | (with_reducible exact State.Keeps.refl _ _)
    | (with_reducible assumption)
    | (with_reducible apply State.setFld_keeps)
    | decide
    | split
    | dsimp only
    | dsimp +zetaDelta only

theorem State.coldReset_keeps {m_ : Nat} {s_ : State} (s : State) (powerOn : Bool) (hm_ : (m_ ||| 0x7FFFD) = m_) (h_ : State.Keeps m_ s_ s) : State.Keeps m_ s_ (State.coldReset s powerOn) := by
  refine State.Keeps.step (m1 := 0x7FFFD) ?_ hm_ h_
  unfold State.coldReset State.Keeps
  refine ⟨?_, ?_, ?_, ?_, ?_, ?_, ?_, ?_, ?_, ?_, ?_, ?_, ?_, ?_, ?_, ?_, ?_, ?_, ?_, ?_⟩ <;> first | exact fun h => absurd h (by decide) | exact fun _ => rfl

theorem State.acceptReset_keeps {m_ : Nat} {s_ : State} (s : State) (cause : Nat) (cold : Bool) (hm_ : (m_ ||| 0x7FFFD) = m_) (h_ : State.Keeps m_ s_ s) : State.Keeps m_ s_ (State.acceptReset s cause cold) := by
  refine State.Keeps.step (m1 := 0x7FFFD) ?_ hm_ h_
  unfold State.acceptReset
  repeat' first
    | (intro _)
    | (with_reducible exact State.Keeps.refl _ _)
    | (with_reducible assumption)
    | (with_reducible apply State.Keeps.ite)
    | (with_reducible apply State.setReg_keeps)
    | (with_reducible apply State.keepLock_keeps)
    | (with_reducible apply State.onAos_keeps)
    | (with_reducible apply State.coldReset_keeps)
    | (with_reducible apply State.raise_keeps)
    | (with_reducible apply State.warmReset_keeps)
    | (with_reducible apply State.emit_keeps)
    | (with_reducible apply State.toMode_keeps)
    | decide
    | extract_lets
    | split
    | dsimp only
    | dsimp +zetaDelta only

theorem State.resetCause_keeps {m_ : Nat} {s_ : State} (s : State) (cause : Nat) (cold : Bool) (hm_ : (m_ ||| 0x7FFFD) = m_) (h_ : State.Keeps m_ s_ s) : State.Keeps m_ s_ (State.resetCause s cause cold) := by
  refine State.Keeps.step (m1 := 0x7FFFD) ?_ hm_ h_
  unfold State.resetCause
  repeat' first
    | (intro _)
    | (with_reducible exact State.Keeps.refl _ _)
    | (with_reducible assumption)
    | (with_reducible apply State.Keeps.ite)
    | (with_reducible apply State.acceptReset_keeps)
    | decide
    | split
    | dsimp only
    | dsimp +zetaDelta only

theorem State.takeTrip_keeps {m_ : Nat} {s_ : State} (s : State) (hm_ : (m_ ||| 0x7FFFD) = m_) (h_ : State.Keeps m_ s_ s) : State.Keeps m_ s_ (State.takeTrip s) := by
  refine State.Keeps.step (m1 := 0x7FFFD) ?_ hm_ h_
  unfold State.takeTrip
  repeat' first
    | (intro _)
    | (with_reducible exact State.Keeps.refl _ _)
    | (with_reducible assumption)
    | (with_reducible apply State.Keeps.ite)
    | (with_reducible apply State.keepLock_keeps)
    | (with_reducible apply State.onAos_keeps)
    | (with_reducible apply State.errClass_keeps)
    | (with_reducible apply State.warmReset_keeps)
    | (with_reducible apply State.emit_keeps)
    | (with_reducible apply State.toMode_keeps)
    | (with_reducible apply State.onMem_keeps)
    | decide
    | extract_lets
    | split
    | dsimp only
    | dsimp +zetaDelta only

theorem State.loseRefclk_keeps {m_ : Nat} {s_ : State} (s : State) (hm_ : (m_ ||| 0x7FFFD) = m_) (h_ : State.Keeps m_ s_ s) : State.Keeps m_ s_ (State.loseRefclk s) := by
  refine State.Keeps.step (m1 := 0x7FFFD) ?_ hm_ h_
  unfold State.loseRefclk
  repeat' first
    | (intro _)
    | (with_reducible exact State.Keeps.refl _ _)
    | (with_reducible assumption)
    | (with_reducible apply State.Keeps.ite)
    | (with_reducible apply State.onAos_keeps)
    | (with_reducible apply State.onTick_keeps)
    | (with_reducible apply State.resetCause_keeps)
    | decide
    | split
    | dsimp only
    | dsimp +zetaDelta only

theorem powerOnOp_keeps {m_ : Nat} {s_ : State} (s : State) (hm_ : (m_ ||| 0x7FFFD) = m_) (h_ : State.Keeps m_ s_ s) : State.Keeps m_ s_ (powerOnOp s) := by
  refine State.Keeps.step (m1 := 0x7FFFD) ?_ hm_ h_
  unfold powerOnOp
  repeat' first
    | (intro _)
    | (with_reducible exact State.Keeps.refl _ _)
    | (with_reducible assumption)
    | (with_reducible apply State.Keeps.ite)
    | (with_reducible apply State.onAos_keeps)
    | (with_reducible apply State.acceptReset_keeps)
    | decide
    | extract_lets
    | split
    | dsimp only
    | dsimp +zetaDelta only

theorem extOp_keeps {m_ : Nat} {s_ : State} (lowRc : Nat) (s : State) (hm_ : (m_ ||| 0x7FFFD) = m_) (h_ : State.Keeps m_ s_ s) : State.Keeps m_ s_ (extOp lowRc s) := by
  refine State.Keeps.step (m1 := 0x7FFFD) ?_ hm_ h_
  unfold extOp
  repeat' first
    | (intro _)
    | (with_reducible exact State.Keeps.refl _ _)
    | (with_reducible assumption)
    | (with_reducible apply State.Keeps.ite)
    | (with_reducible apply State.raise_keeps)
    | (with_reducible apply State.acceptReset_keeps)
    | decide
    | split
    | dsimp only
    | dsimp +zetaDelta only

theorem railOp_keeps {m_ : Nat} {s_ : State} (idx : Nat) (s : State) (hm_ : (m_ ||| 0x7FFFD) = m_) (h_ : State.Keeps m_ s_ s) : State.Keeps m_ s_ (railOp idx s) := by
  refine State.Keeps.step (m1 := 0x7FFFD) ?_ hm_ h_
  unfold railOp
  repeat' first
    | (intro _)
    | (with_reducible exact State.Keeps.refl _ _)
    | (with_reducible assumption)
    | (with_reducible apply State.Keeps.ite)
    | (with_reducible apply State.onAos_keeps)
    | (with_reducible apply State.resetCause_keeps)
    | decide
    | split
    | dsimp only
    | dsimp +zetaDelta only

theorem thermtripOp_keeps {m_ : Nat} {s_ : State} (s : State) (hm_ : (m_ ||| 0x7FFFD) = m_) (h_ : State.Keeps m_ s_ s) : State.Keeps m_ s_ (thermtripOp s) := by
  refine State.Keeps.step (m1 := 0x7FFFD) ?_ hm_ h_
  unfold thermtripOp
  repeat' first
    | (intro _)
    | (with_reducible exact State.Keeps.refl _ _)
    | (with_reducible assumption)
    | (with_reducible apply State.Keeps.ite)
    | (with_reducible apply State.onAos_keeps)
    | (with_reducible apply State.emit_keeps)
    | (with_reducible apply State.acceptReset_keeps)
    | decide
    | split
    | dsimp only
    | dsimp +zetaDelta only

theorem thermalTripOp_keeps {m_ : Nat} {s_ : State} (s : State) (hm_ : (m_ ||| 0x7FFFD) = m_) (h_ : State.Keeps m_ s_ s) : State.Keeps m_ s_ (thermalTripOp s) := by
  refine State.Keeps.step (m1 := 0x7FFFD) ?_ hm_ h_
  unfold thermalTripOp
  repeat' first
    | (intro _)
    | (with_reducible exact State.Keeps.refl _ _)
    | (with_reducible assumption)
    | (with_reducible apply State.takeTrip_keeps)
    | decide
    | split
    | dsimp only
    | dsimp +zetaDelta only

theorem refclkLossOp_keeps {m_ : Nat} {s_ : State} (s : State) (hm_ : (m_ ||| 0x7FFFD) = m_) (h_ : State.Keeps m_ s_ s) : State.Keeps m_ s_ (refclkLossOp s) := by
  refine State.Keeps.step (m1 := 0x7FFFD) ?_ hm_ h_
  unfold refclkLossOp
  repeat' first
    | (intro _)
    | (with_reducible exact State.Keeps.refl _ _)
    | (with_reducible assumption)
    | (with_reducible apply State.loseRefclk_keeps)
    | decide
    | split
    | dsimp only
    | dsimp +zetaDelta only

theorem refclkWindowOp_keeps {m_ : Nat} {s_ : State} (count : Nat) (s : State) (hm_ : (m_ ||| 0x7FFFD) = m_) (h_ : State.Keeps m_ s_ s) : State.Keeps m_ s_ (refclkWindowOp count s) := by
  refine State.Keeps.step (m1 := 0x7FFFD) ?_ hm_ h_
  unfold refclkWindowOp
  repeat' first
    | (intro _)
    | (with_reducible exact State.Keeps.refl _ _)
    | (with_reducible assumption)
    | (with_reducible apply State.Keeps.ite)
    | (with_reducible apply State.setFld_keeps)
    | (with_reducible apply State.onAos_keeps)
    | (with_reducible apply State.onTick_keeps)
    | (with_reducible apply State.loseRefclk_keeps)
    | decide
    | extract_lets
    | split
    | dsimp only
    | dsimp +zetaDelta only

theorem watchdogOp_keeps {m_ : Nat} {s_ : State} (s : State) (hm_ : (m_ ||| 0x7FFFD) = m_) (h_ : State.Keeps m_ s_ s) : State.Keeps m_ s_ (watchdogOp s) := by
  refine State.Keeps.step (m1 := 0x7FFFD) ?_ hm_ h_
  unfold watchdogOp
  repeat' first
    | (intro _)
    | (with_reducible exact State.Keeps.refl _ _)
    | (with_reducible assumption)
    | (with_reducible apply State.Keeps.ite)
    | (with_reducible apply State.resetCause_keeps)
    | decide
    | split
    | dsimp only
    | dsimp +zetaDelta only

theorem aosRstreqWriteOp_keeps {m_ : Nat} {s_ : State} (half : Half) (val : Word) (s : State) (hm_ : (m_ ||| 0x7FFFD) = m_) (h_ : State.Keeps m_ s_ s) : State.Keeps m_ s_ (aosRstreqWriteOp half val s) := by
  refine State.Keeps.step (m1 := 0x7FFFD) ?_ hm_ h_
  unfold aosRstreqWriteOp
  repeat' first
    | (intro _)
    | (with_reducible exact State.Keeps.refl _ _)
    | (with_reducible assumption)
    | (with_reducible apply State.Keeps.ite)
    | (with_reducible apply State.resetCause_keeps)
    | decide
    | extract_lets
    | split
    | dsimp only
    | dsimp +zetaDelta only

theorem vaonLossOp_keeps {m_ : Nat} {s_ : State} (s : State) (hm_ : (m_ ||| 0x4) = m_) (h_ : State.Keeps m_ s_ s) : State.Keeps m_ s_ (vaonLossOp s) := by
  refine State.Keeps.step (m1 := 0x4) ?_ hm_ h_
  unfold vaonLossOp
  repeat' first
    | (intro _)
    | (with_reducible exact State.Keeps.refl _ _)
    | (with_reducible assumption)
    | (with_reducible apply State.toMode_keeps)
    | decide
    | split
    | dsimp only
    | dsimp +zetaDelta only

theorem resetStretchEndOp_keeps {m_ : Nat} {s_ : State} (s : State) (hm_ : (m_ ||| 0x24000) = m_) (h_ : State.Keeps m_ s_ s) : State.Keeps m_ s_ (resetStretchEndOp s) := by
  refine State.Keeps.step (m1 := 0x24000) ?_ hm_ h_
  unfold resetStretchEndOp
  repeat' first
    | (intro _)
    | (with_reducible exact State.Keeps.refl _ _)
    | (with_reducible assumption)
    | (with_reducible apply State.Keeps.ite)
    | (with_reducible apply State.onAos_keeps)
    | (with_reducible apply State.emit_keeps)
    | decide
    | split
    | dsimp only
    | dsimp +zetaDelta only

theorem resetNSampleOp_keeps {m_ : Nat} {s_ : State} (high : Bool) (s : State) (hm_ : (m_ ||| 0x7FFFD) = m_) (h_ : State.Keeps m_ s_ s) : State.Keeps m_ s_ (resetNSampleOp high s) := by
  refine State.Keeps.step (m1 := 0x7FFFD) ?_ hm_ h_
  unfold resetNSampleOp
  repeat' first
    | (intro _)
    | (with_reducible exact State.Keeps.refl _ _)
    | (with_reducible assumption)
    | (with_reducible apply State.Keeps.ite)
    | (with_reducible apply State.onAos_keeps)
    | (with_reducible apply State.raise_keeps)
    | (with_reducible apply State.toMode_keeps)
    | (with_reducible apply State.acceptReset_keeps)
    | decide
    | extract_lets
    | split
    | dsimp only
    | dsimp +zetaDelta only

end Sys2Proof.Machine
end

