-- ==== Sys2Proof/Laws/FrameBringUp.lean ====
section
/-! SUPPORT. The frame of each operation of Machine/BringUp.lean: the blocks of the state that it may change (Laws/Keeps.lean). -/

set_option Elab.async false

namespace Sys2Proof.Machine

theorem State.loadLimits_keeps {m_ : Nat} {s_ : State} (s : State) (hm_ : (m_ ||| 0x8000) = m_) (h_ : State.Keeps m_ s_ s) : State.Keeps m_ s_ (State.loadLimits s) := by
  refine State.Keeps.step (m1 := 0x8000) ?_ hm_ h_
  unfold State.loadLimits
  repeat' first
    | (intro _)
    | (with_reducible exact State.Keeps.refl _ _)
    | (with_reducible assumption)
    | (with_reducible apply State.setFld_keeps)
    | decide
    | split
    | dsimp only
    | dsimp +zetaDelta only

theorem State.loadProfile_keeps {m_ : Nat} {s_ : State} (s : State) (hm_ : (m_ ||| 0x8800) = m_) (h_ : State.Keeps m_ s_ s) : State.Keeps m_ s_ (State.loadProfile s) := by
  refine State.Keeps.step (m1 := 0x8800) ?_ hm_ h_
  unfold State.loadProfile
  repeat' first
    | (intro _)
    | (with_reducible exact State.Keeps.refl _ _)
    | (with_reducible assumption)
    | (with_reducible apply State.Keeps.ite)
    | (with_reducible apply State.setFld_keeps)
    | (with_reducible apply State.onStw_keeps)
    | (with_reducible apply State.loadLimits_keeps)
    | (with_reducible apply State.Keeps.foldl)
    | (with_reducible apply State.Keeps.foldlFst)
    | decide
    | extract_lets
    | split
    | dsimp only
    | dsimp +zetaDelta only

theorem State.changeProfile_keeps {m_ : Nat} {s_ : State} (s : State) (p : Nat) (hm_ : (m_ ||| 0xD841) = m_) (h_ : State.Keeps m_ s_ s) : State.Keeps m_ s_ (State.changeProfile s p) := by
  refine State.Keeps.step (m1 := 0xD841) ?_ hm_ h_
  unfold State.changeProfile
  repeat' first
    | (intro _)
    | (with_reducible exact State.Keeps.refl _ _)
    | (with_reducible assumption)
    | (with_reducible apply State.Keeps.ite)
    | (with_reducible apply State.setFld_keeps)
    | (with_reducible apply State.onAos_keeps)
    | (with_reducible apply State.onStw_keeps)
    | (with_reducible apply State.loadLimits_keeps)
    | (with_reducible apply State.onNet_keeps)
    | (with_reducible apply State.onTick_keeps)
    | (with_reducible apply State.linkDown_keeps)
    | (with_reducible apply State.trimPool_keeps)
    | (with_reducible apply State.onMem_keeps)
    | (with_reducible apply State.linkTrain_keeps)
    | (with_reducible apply State.Keeps.foldl)
    | (with_reducible apply State.Keeps.foldlFst)
    | decide
    | extract_lets
    | split
    | dsimp only
    | dsimp +zetaDelta only

theorem State.setProfileCmd_keeps {m_ : Nat} {s_ : State} (s : State) (c : HostCmd) (hm_ : (m_ ||| 0x2E040) = m_) (h_ : State.Keeps m_ s_ s) : State.Keeps m_ s_ (State.setProfileCmd s c) := by
  refine State.Keeps.step (m1 := 0x2E040) ?_ hm_ h_
  unfold State.setProfileCmd
  repeat' first
    | (intro _)
    | (with_reducible exact State.Keeps.refl _ _)
    | (with_reducible assumption)
    | (with_reducible apply State.Keeps.ite)
    | (with_reducible apply State.onAos_keeps)
    | (with_reducible apply State.refuse_keeps)
    | (with_reducible apply State.takePairs_keeps)
    | (with_reducible apply State.refuseModule_keeps)
    | (with_reducible apply State.complete_keeps)
    | (with_reducible apply State.Keeps.ofPair (by with_reducible assumption))
    | (with_reducible apply State.Keeps.ofOptS (by with_reducible assumption))
    | decide
    | extract_lets
    | split
    | dsimp only
    | dsimp +zetaDelta only

theorem State.startStage_keeps {m_ : Nat} {s_ : State} (s : State) (stage : Nat) (hm_ : (m_ ||| 0xC000) = m_) (h_ : State.Keeps m_ s_ s) : State.Keeps m_ s_ (State.startStage s stage) := by
  refine State.Keeps.step (m1 := 0xC000) ?_ hm_ h_
  unfold State.startStage
  repeat' first
    | (intro _)
    | (with_reducible exact State.Keeps.refl _ _)
    | (with_reducible assumption)
    | (with_reducible apply State.Keeps.ite)
    | (with_reducible apply State.onAos_keeps)
    | (with_reducible apply State.raise_keeps)
    | decide
    | extract_lets
    | split
    | dsimp only
    | dsimp +zetaDelta only

theorem State.failPll_keeps {m_ : Nat} {s_ : State} (s : State) (p : PllPart) (service : Bool) (hm_ : (m_ ||| 0x7FFFD) = m_) (h_ : State.Keeps m_ s_ s) : State.Keeps m_ s_ (State.failPll s p service) := by
  refine State.Keeps.step (m1 := 0x7FFFD) ?_ hm_ h_
  unfold State.failPll
  repeat' first
    | (intro _)
    | (with_reducible exact State.Keeps.refl _ _)
    | (with_reducible assumption)
    | (with_reducible apply State.Keeps.ite)
    | (with_reducible apply State.retireStackDie_keeps)
    | (with_reducible apply State.arrayFence_keeps)
    | (with_reducible apply State.fullFence_keeps)
    | (with_reducible apply State.fencePort_keeps)
    | (with_reducible apply State.errClass_keeps)
    | (with_reducible apply State.fenceIod_keeps)
    | (with_reducible apply State.fenceLink_keeps)
    | (with_reducible apply State.acceptReset_keeps)
    | (with_reducible apply State.Keeps.foldl)
    | (with_reducible apply State.Keeps.foldlFst)
    | decide
    | extract_lets
    | split
    | dsimp only
    | dsimp +zetaDelta only

theorem State.stacksDone_keeps {m_ : Nat} {s_ : State} (s : State) (k : Nat) (hm_ : (m_ ||| 0x8) = m_) (h_ : State.Keeps m_ s_ s) : State.Keeps m_ s_ (State.stacksDone s k) := by
  refine State.Keeps.step (m1 := 0x8) ?_ hm_ h_
  unfold State.stacksDone
  repeat' first
    | (intro _)
    | (with_reducible exact State.Keeps.refl _ _)
    | (with_reducible assumption)
    | (with_reducible apply State.Keeps.ite)
    | (with_reducible apply State.onDie_keeps)
    | decide
    | split
    | dsimp only
    | dsimp +zetaDelta only

theorem State.mapStack_keeps {m_ : Nat} {s_ : State} (s : State) (n : Nat) (hm_ : (m_ ||| 0x40) = m_) (h_ : State.Keeps m_ s_ s) : State.Keeps m_ s_ (State.mapStack s n) := by
  refine State.Keeps.step (m1 := 0x40) ?_ hm_ h_
  unfold State.mapStack
  repeat' first
    | (intro _)
    | (with_reducible exact State.Keeps.refl _ _)
    | (with_reducible assumption)
    | (with_reducible apply State.Keeps.ite)
    | (with_reducible apply State.onMem_keeps)
    | decide
    | extract_lets
    | split
    | dsimp only
    | dsimp +zetaDelta only

theorem State.trainEdges_keeps {m_ : Nat} {s_ : State} (s : State) (k : Nat) (hm_ : (m_ ||| 0x10) = m_) (h_ : State.Keeps m_ s_ s) : State.Keeps m_ s_ (State.trainEdges s k) := by
  refine State.Keeps.step (m1 := 0x10) ?_ hm_ h_
  unfold State.trainEdges
  repeat' first
    | (intro _)
    | (with_reducible exact State.Keeps.refl _ _)
    | (with_reducible assumption)
    | (with_reducible apply State.Keeps.ite)
    | (with_reducible apply State.onArr_keeps)
    | (with_reducible apply State.Keeps.foldl)
    | (with_reducible apply State.Keeps.foldlFst)
    | decide
    | extract_lets
    | split
    | dsimp only
    | dsimp +zetaDelta only

theorem State.endS4_keeps {m_ : Nat} {s_ : State} (s : State) (hm_ : (m_ ||| 0x4000) = m_) (h_ : State.Keeps m_ s_ s) : State.Keeps m_ s_ (State.endS4 s) := by
  refine State.Keeps.step (m1 := 0x4000) ?_ hm_ h_
  unfold State.endS4
  repeat' first
    | (intro _)
    | (with_reducible exact State.Keeps.refl _ _)
    | (with_reducible assumption)
    | (with_reducible apply State.Keeps.ite)
    | (with_reducible apply State.onAos_keeps)
    | decide
    | split
    | dsimp only
    | dsimp +zetaDelta only

theorem pllWindowOp_keeps {m_ : Nat} {s_ : State} (p : PllPart) (ok : Bool) (s : State) (hm_ : (m_ ||| 0x7FFFD) = m_) (h_ : State.Keeps m_ s_ s) : State.Keeps m_ s_ (pllWindowOp p ok s) := by
  refine State.Keeps.step (m1 := 0x7FFFD) ?_ hm_ h_
  unfold pllWindowOp
  repeat' first
    | (intro _)
    | (with_reducible exact State.Keeps.refl _ _)
    | (with_reducible assumption)
    | (with_reducible apply State.Keeps.ite)
    | (with_reducible apply State.onAos_keeps)
    | (with_reducible apply State.failPll_keeps)
    | (with_reducible apply State.raise_keeps)
    | decide
    | extract_lets
    | split
    | dsimp only
    | dsimp +zetaDelta only

theorem otpGenerationSelectOp_keeps {m_ : Nat} {s_ : State} (s : State) (hm_ : (m_ ||| 0xC010) = m_) (h_ : State.Keeps m_ s_ s) : State.Keeps m_ s_ (otpGenerationSelectOp s) := by
  refine State.Keeps.step (m1 := 0xC010) ?_ hm_ h_
  unfold otpGenerationSelectOp
  repeat' first
    | (intro _)
    | (with_reducible exact State.Keeps.refl _ _)
    | (with_reducible assumption)
    | (with_reducible apply State.Keeps.ite)
    | (with_reducible apply State.setFld_keeps)
    | (with_reducible apply State.onAos_keeps)
    | (with_reducible apply State.onRepair_keeps)
    | (with_reducible apply State.Keeps.foldl)
    | (with_reducible apply State.Keeps.foldlFst)
    | (with_reducible apply State.Keeps.ofPair (by with_reducible assumption))
    | decide
    | extract_lets
    | split
    | dsimp only
    | dsimp +zetaDelta only

theorem aosBringupTakeoverOp_keeps {m_ : Nat} {s_ : State} (s : State) (hm_ : (m_ ||| 0x4000) = m_) (h_ : State.Keeps m_ s_ s) : State.Keeps m_ s_ (aosBringupTakeoverOp s) := by
  refine State.Keeps.step (m1 := 0x4000) ?_ hm_ h_
  unfold aosBringupTakeoverOp
  repeat' first
    | (intro _)
    | (with_reducible exact State.Keeps.refl _ _)
    | (with_reducible assumption)
    | (with_reducible apply State.Keeps.ite)
    | (with_reducible apply State.onAos_keeps)
    | decide
    | split
    | dsimp only
    | dsimp +zetaDelta only

theorem aosFirmwareStartOp_keeps {m_ : Nat} {s_ : State} (s : State) (hm_ : (m_ ||| 0xC800) = m_) (h_ : State.Keeps m_ s_ s) : State.Keeps m_ s_ (aosFirmwareStartOp s) := by
  refine State.Keeps.step (m1 := 0xC800) ?_ hm_ h_
  unfold aosFirmwareStartOp
  repeat' first
    | (intro _)
    | (with_reducible exact State.Keeps.refl _ _)
    | (with_reducible assumption)
    | (with_reducible apply State.Keeps.ite)
    | (with_reducible apply State.onAos_keeps)
    | (with_reducible apply State.loadProfile_keeps)
    | (with_reducible apply State.startStage_keeps)
    | (with_reducible apply State.Keeps.ofPair (by with_reducible assumption))
    | decide
    | extract_lets
    | split
    | dsimp only
    | dsimp +zetaDelta only

theorem railCheckOp_keeps {m_ : Nat} {s_ : State} (ok : Bool) (s : State) (hm_ : (m_ ||| 0x7FFFD) = m_) (h_ : State.Keeps m_ s_ s) : State.Keeps m_ s_ (railCheckOp ok s) := by
  refine State.Keeps.step (m1 := 0x7FFFD) ?_ hm_ h_
  unfold railCheckOp
  repeat' first
    | (intro _)
    | (with_reducible exact State.Keeps.refl _ _)
    | (with_reducible assumption)
    | (with_reducible apply State.Keeps.ite)
    | (with_reducible apply State.onAos_keeps)
    | (with_reducible apply State.acceptReset_keeps)
    | decide
    | split
    | dsimp only
    | dsimp +zetaDelta only

theorem controlFirmwareStartOp_keeps {m_ : Nat} {s_ : State} (s : State) (hm_ : (m_ ||| 0x4F808) = m_) (h_ : State.Keeps m_ s_ s) : State.Keeps m_ s_ (controlFirmwareStartOp s) := by
  refine State.Keeps.step (m1 := 0x4F808) ?_ hm_ h_
  unfold controlFirmwareStartOp
  repeat' first
    | (intro _)
    | (with_reducible exact State.Keeps.refl _ _)
    | (with_reducible assumption)
    | (with_reducible apply State.Keeps.ite)
    | (with_reducible apply State.onAos_keeps)
    | (with_reducible apply State.onStw_keeps)
    | (with_reducible apply State.trainHost_keeps)
    | (with_reducible apply State.linkTrain_keeps)
    | (with_reducible apply State.startStage_keeps)
    | (with_reducible apply State.onDie_keeps)
    | (with_reducible apply State.Keeps.foldl)
    | (with_reducible apply State.Keeps.foldlFst)
    | decide
    | extract_lets
    | split
    | dsimp only
    | dsimp +zetaDelta only

theorem selfTestCompleteOp_keeps {m_ : Nat} {s_ : State} (die : Nat) (t : SelfTest) (s : State) (hm_ : (m_ ||| 0x6F8FC) = m_) (h_ : State.Keeps m_ s_ s) : State.Keeps m_ s_ (selfTestCompleteOp die t s) := by
  refine State.Keeps.step (m1 := 0x6F8FC) ?_ hm_ h_
  unfold selfTestCompleteOp
  repeat' first
    | (intro _)
    | (with_reducible exact State.Keeps.refl _ _)
    | (with_reducible assumption)
    | (with_reducible apply State.Keeps.ite)
    | (with_reducible apply State.onAos_keeps)
    | (with_reducible apply State.onRepair_keeps)
    | (with_reducible apply State.formChain_keeps)
    | (with_reducible apply State.fullFence_keeps)
    | (with_reducible apply State.failSpare_keeps)
    | (with_reducible apply State.stacksDone_keeps)
    | (with_reducible apply State.failCell_keeps)
    | (with_reducible apply State.errClass_keeps)
    | (with_reducible apply State.onDie_keeps)
    | (with_reducible apply State.fenceCount_keeps)
    | (with_reducible apply State.onArr_keeps)
    | (with_reducible apply State.fencePalm_keeps)
    | (with_reducible apply State.Keeps.foldl)
    | (with_reducible apply State.Keeps.foldlFst)
    | (with_reducible apply State.Keeps.ofPair (by with_reducible assumption))
    | decide
    | extract_lets
    | split
    | dsimp only
    | dsimp +zetaDelta only

theorem stackTrainingAttemptOp_keeps {m_ : Nat} {s_ : State} (stack : Nat) (ok : Bool) (s : State) (hm_ : (m_ ||| 0x6F8FC) = m_) (h_ : State.Keeps m_ s_ s) : State.Keeps m_ s_ (stackTrainingAttemptOp stack ok s) := by
  refine State.Keeps.step (m1 := 0x6F8FC) ?_ hm_ h_
  unfold stackTrainingAttemptOp
  repeat' first
    | (intro _)
    | (with_reducible exact State.Keeps.refl _ _)
    | (with_reducible assumption)
    | (with_reducible apply State.Keeps.ite)
    | (with_reducible apply State.retireStackDie_keeps)
    | (with_reducible apply State.onStack_keeps)
    | (with_reducible apply State.stacksDone_keeps)
    | (with_reducible apply State.errClass_keeps)
    | (with_reducible apply State.mapStack_keeps)
    | decide
    | extract_lets
    | split
    | dsimp only
    | dsimp +zetaDelta only

theorem wideTierTrainedOp_keeps {m_ : Nat} {s_ : State} (dimms : List DimmInfo) (s : State) (hm_ : (m_ ||| 0xC040) = m_) (h_ : State.Keeps m_ s_ s) : State.Keeps m_ s_ (wideTierTrainedOp dimms s) := by
  refine State.Keeps.step (m1 := 0xC040) ?_ hm_ h_
  unfold wideTierTrainedOp
  repeat' first
    | (intro _)
    | (with_reducible exact State.Keeps.refl _ _)
    | (with_reducible assumption)
    | (with_reducible apply State.Keeps.ite)
    | (with_reducible apply State.setReg_keeps)
    | (with_reducible apply State.onAos_keeps)
    | (with_reducible apply State.onDdr_keeps)
    | (with_reducible apply State.errClass_keeps)
    | (with_reducible apply State.raise_keeps)
    | (with_reducible apply State.fenceCount_keeps)
    | (with_reducible apply State.Keeps.foldl)
    | (with_reducible apply State.Keeps.foldlFst)
    | decide
    | extract_lets
    | split
    | dsimp only
    | dsimp +zetaDelta only

theorem dieReleaseOp_keeps {m_ : Nat} {s_ : State} (die : Nat) (s : State) (hm_ : (m_ ||| 0x6C85C) = m_) (h_ : State.Keeps m_ s_ s) : State.Keeps m_ s_ (dieReleaseOp die s) := by
  refine State.Keeps.step (m1 := 0x6C85C) ?_ hm_ h_
  unfold dieReleaseOp
  repeat' first
    | (intro _)
    | (with_reducible exact State.Keeps.refl _ _)
    | (with_reducible assumption)
    | (with_reducible apply State.Keeps.ite)
    | (with_reducible apply State.judgeMod_keeps)
    | (with_reducible apply State.endS4_keeps)
    | (with_reducible apply State.toMode_keeps)
    | (with_reducible apply State.spend_keeps)
    | (with_reducible apply State.onDie_keeps)
    | (with_reducible apply State.commandVcore_keeps)
    | (with_reducible apply State.takeBringFrames_keeps)
    | (with_reducible apply State.trainEdges_keeps)
    | decide
    | extract_lets
    | split
    | dsimp only
    | dsimp +zetaDelta only

theorem profileChangeOp_keeps {m_ : Nat} {s_ : State} (s : State) (hm_ : (m_ ||| 0xD841) = m_) (h_ : State.Keeps m_ s_ s) : State.Keeps m_ s_ (profileChangeOp s) := by
  refine State.Keeps.step (m1 := 0xD841) ?_ hm_ h_
  unfold profileChangeOp
  repeat' first
    | (intro _)
    | (with_reducible exact State.Keeps.refl _ _)
    | (with_reducible assumption)
    | (with_reducible apply State.Keeps.ite)
    | (with_reducible apply State.changeProfile_keeps)
    | (with_reducible apply State.Keeps.ofPair (by with_reducible assumption))
    | decide
    | split
    | dsimp only
    | dsimp +zetaDelta only

theorem setProfileOp_keeps {m_ : Nat} {s_ : State} (c : HostCmd) (s : State) (hm_ : (m_ ||| 0x2E040) = m_) (h_ : State.Keeps m_ s_ s) : State.Keeps m_ s_ (setProfileOp c s) := by
  refine State.Keeps.step (m1 := 0x2E040) ?_ hm_ h_
  unfold setProfileOp
  repeat' first
    | (intro _)
    | (with_reducible exact State.Keeps.refl _ _)
    | (with_reducible assumption)
    | (with_reducible apply State.command_keeps)
    | (with_reducible apply State.setProfileCmd_keeps)
    | decide
    | split
    | dsimp only
    | dsimp +zetaDelta only

end Sys2Proof.Machine
end

