-- ==== Sys2Proof/Laws/FrameRungs.lean ====
section
/-! SUPPORT. The frame of each operation of Machine/Rungs.lean: the blocks of the state that it may change (Laws/Keeps.lean). -/

set_option Elab.async false

namespace Sys2Proof.Machine

theorem State.napParts_keeps {m_ : Nat} {s_ : State} (s : State) (r : Nat) (hm_ : (m_ ||| 0x9040) = m_) (h_ : State.Keeps m_ s_ s) : State.Keeps m_ s_ (State.napParts s r) := by
  refine State.Keeps.step (m1 := 0x9040) ?_ hm_ h_
  unfold State.napParts
  repeat' first
    | (intro _)
    | (with_reducible exact State.Keeps.refl _ _)
    | (with_reducible assumption)
    | (with_reducible apply State.Keeps.ite)
    | (with_reducible apply State.onLink_keeps)
    | (with_reducible apply State.raise_keeps)
    | (with_reducible apply State.onMem_keeps)
    | (with_reducible apply State.Keeps.foldl)
    | (with_reducible apply State.Keeps.foldlFst)
    | decide
    | extract_lets
    | split
    | dsimp only
    | dsimp +zetaDelta only

theorem State.loseArray_keeps {m_ : Nat} {s_ : State} (s : State) (hm_ : (m_ ||| 0x40030) = m_) (h_ : State.Keeps m_ s_ s) : State.Keeps m_ s_ (State.loseArray s) := by
  refine State.Keeps.step (m1 := 0x40030) ?_ hm_ h_
  unfold State.loseArray
  repeat' first
    | (intro _)
    | (with_reducible exact State.Keeps.refl _ _)
    | (with_reducible assumption)
    | (with_reducible apply State.Keeps.ite)
    | (with_reducible apply State.onSeq_keeps)
    | (with_reducible apply State.scrambleRows_keeps)
    | (with_reducible apply State.onArr_keeps)
    | (with_reducible apply State.Keeps.foldl)
    | (with_reducible apply State.Keeps.foldlFst)
    | decide
    | extract_lets
    | split
    | dsimp only
    | dsimp +zetaDelta only

theorem State.loseStandby_keeps {m_ : Nat} {s_ : State} (s : State) (hm_ : (m_ ||| 0xA848) = m_) (h_ : State.Keeps m_ s_ s) : State.Keeps m_ s_ (State.loseStandby s) := by
  refine State.Keeps.step (m1 := 0xA848) ?_ hm_ h_
  unfold State.loseStandby
  repeat' first
    | (intro _)
    | (with_reducible exact State.Keeps.refl _ _)
    | (with_reducible assumption)
    | (with_reducible apply State.Keeps.ite)
    | (with_reducible apply State.setFld_keeps)
    | (with_reducible apply State.onStw_keeps)
    | (with_reducible apply State.onHost_keeps)
    | (with_reducible apply State.freeExtent_keeps)
    | (with_reducible apply State.mapDies_keeps)
    | (with_reducible apply State.onMem_keeps)
    | (with_reducible apply State.Keeps.foldl)
    | (with_reducible apply State.Keeps.foldlFst)
    | decide
    | extract_lets
    | split
    | dsimp only
    | dsimp +zetaDelta only

theorem State.enterRung_keeps {m_ : Nat} {s_ : State} (s : State) (r : Nat) (hm_ : (m_ ||| 0x6BA78) = m_) (h_ : State.Keeps m_ s_ s) : State.Keeps m_ s_ (State.enterRung s r) := by
  refine State.Keeps.step (m1 := 0x6BA78) ?_ hm_ h_
  unfold State.enterRung
  repeat' first
    | (intro _)
    | (with_reducible exact State.Keeps.refl _ _)
    | (with_reducible assumption)
    | (with_reducible apply State.Keeps.ite)
    | (with_reducible apply State.napParts_keeps)
    | (with_reducible apply State.onRung_keeps)
    | (with_reducible apply State.loseStandby_keeps)
    | (with_reducible apply State.complete_keeps)
    | (with_reducible apply State.loseArray_keeps)
    | decide
    | extract_lets
    | split
    | dsimp only
    | dsimp +zetaDelta only

theorem State.resumeAll_keeps {m_ : Nat} {s_ : State} (s : State) (hm_ : (m_ ||| 0x6E8E8) = m_) (h_ : State.Keeps m_ s_ s) : State.Keeps m_ s_ (State.resumeAll s) := by
  refine State.Keeps.step (m1 := 0x6E8E8) ?_ hm_ h_
  unfold State.resumeAll
  repeat' first
    | (intro _)
    | (with_reducible exact State.Keeps.refl _ _)
    | (with_reducible assumption)
    | (with_reducible apply State.Keeps.ite)
    | (with_reducible apply State.receiveSlots_keeps)
    | (with_reducible apply State.buildAll_keeps)
    | (with_reducible apply State.applyAllHeld_keeps)
    | (with_reducible apply State.dispatch_keeps)
    | (with_reducible apply State.Keeps.foldl)
    | (with_reducible apply State.Keeps.foldlFst)
    | decide
    | extract_lets
    | split
    | dsimp only
    | dsimp +zetaDelta only

theorem State.leaveRung_keeps {m_ : Nat} {s_ : State} (s : State) (wake : Nat) (hm_ : (m_ ||| 0x6FAF9) = m_) (h_ : State.Keeps m_ s_ s) : State.Keeps m_ s_ (State.leaveRung s wake) := by
  refine State.Keeps.step (m1 := 0x6FAF9) ?_ hm_ h_
  unfold State.leaveRung
  repeat' first
    | (intro _)
    | (with_reducible exact State.Keeps.refl _ _)
    | (with_reducible assumption)
    | (with_reducible apply State.Keeps.ite)
    | (with_reducible apply State.onAos_keeps)
    | (with_reducible apply State.resumeAll_keeps)
    | (with_reducible apply State.enterT_keeps)
    | (with_reducible apply State.linkTrain_keeps)
    | (with_reducible apply State.onRung_keeps)
    | (with_reducible apply State.beginReset_keeps)
    | (with_reducible apply State.onMem_keeps)
    | (with_reducible apply State.Keeps.foldl)
    | (with_reducible apply State.Keeps.foldlFst)
    | decide
    | extract_lets
    | split
    | dsimp only
    | dsimp +zetaDelta only

theorem State.wakeBy_keeps {m_ : Nat} {s_ : State} (s : State) (src : WakeSrc) (hm_ : (m_ ||| 0x6FAF9) = m_) (h_ : State.Keeps m_ s_ s) : State.Keeps m_ s_ (State.wakeBy s src) := by
  refine State.Keeps.step (m1 := 0x6FAF9) ?_ hm_ h_
  unfold State.wakeBy
  repeat' first
    | (intro _)
    | (with_reducible exact State.Keeps.refl _ _)
    | (with_reducible assumption)
    | (with_reducible apply State.Keeps.ite)
    | (with_reducible apply State.leaveRung_keeps)
    | (with_reducible apply State.onRung_keeps)
    | (with_reducible apply State.Keeps.ofPair (by with_reducible assumption))
    | decide
    | extract_lets
    | split
    | dsimp only
    | dsimp +zetaDelta only

theorem State.setRungCmd_keeps {m_ : Nat} {s_ : State} (s : State) (c : HostCmd) (hm_ : (m_ ||| 0x2A200) = m_) (h_ : State.Keeps m_ s_ s) : State.Keeps m_ s_ (State.setRungCmd s c) := by
  refine State.Keeps.step (m1 := 0x2A200) ?_ hm_ h_
  unfold State.setRungCmd
  repeat' first
    | (intro _)
    | (with_reducible exact State.Keeps.refl _ _)
    | (with_reducible assumption)
    | (with_reducible apply State.Keeps.ite)
    | (with_reducible apply State.onRung_keeps)
    | (with_reducible apply State.refuse_keeps)
    | (with_reducible apply State.refuseState_keeps)
    | (with_reducible apply State.Keeps.ofPair (by with_reducible assumption))
    | decide
    | extract_lets
    | split
    | dsimp only
    | dsimp +zetaDelta only

theorem rungChangeOp_keeps {m_ : Nat} {s_ : State} (s : State) (hm_ : (m_ ||| 0x6FAF9) = m_) (h_ : State.Keeps m_ s_ s) : State.Keeps m_ s_ (rungChangeOp s) := by
  refine State.Keeps.step (m1 := 0x6FAF9) ?_ hm_ h_
  unfold rungChangeOp
  repeat' first
    | (intro _)
    | (with_reducible exact State.Keeps.refl _ _)
    | (with_reducible assumption)
    | (with_reducible apply State.Keeps.ite)
    | (with_reducible apply State.completeOpt_keeps)
    | (with_reducible apply State.leaveRung_keeps)
    | (with_reducible apply State.onRung_keeps)
    | (with_reducible apply State.onMem_keeps)
    | (with_reducible apply State.Keeps.ofPair (by with_reducible assumption))
    | decide
    | extract_lets
    | split
    | dsimp only
    | dsimp +zetaDelta only

theorem rungEntryCompleteOp_keeps {m_ : Nat} {s_ : State} (s : State) (hm_ : (m_ ||| 0x6FAF9) = m_) (h_ : State.Keeps m_ s_ s) : State.Keeps m_ s_ (rungEntryCompleteOp s) := by
  refine State.Keeps.step (m1 := 0x6FAF9) ?_ hm_ h_
  unfold rungEntryCompleteOp
  repeat' first
    | (intro _)
    | (with_reducible exact State.Keeps.refl _ _)
    | (with_reducible assumption)
    | (with_reducible apply State.Keeps.ite)
    | (with_reducible apply State.leaveRung_keeps)
    | (with_reducible apply State.enterRung_keeps)
    | (with_reducible apply State.Keeps.ofPair (by with_reducible assumption))
    | decide
    | extract_lets
    | split
    | dsimp only
    | dsimp +zetaDelta only

theorem rungEntryAbandonOp_keeps {m_ : Nat} {s_ : State} (s : State) (hm_ : (m_ ||| 0x6EAE8) = m_) (h_ : State.Keeps m_ s_ s) : State.Keeps m_ s_ (rungEntryAbandonOp s) := by
  refine State.Keeps.step (m1 := 0x6EAE8) ?_ hm_ h_
  unfold rungEntryAbandonOp
  repeat' first
    | (intro _)
    | (with_reducible exact State.Keeps.refl _ _)
    | (with_reducible assumption)
    | (with_reducible apply State.Keeps.ite)
    | (with_reducible apply State.resumeAll_keeps)
    | (with_reducible apply State.onRung_keeps)
    | (with_reducible apply State.refuseState_keeps)
    | (with_reducible apply State.raise_keeps)
    | decide
    | extract_lets
    | split
    | dsimp only
    | dsimp +zetaDelta only

theorem wakeEventOp_keeps {m_ : Nat} {s_ : State} (src : WakeSrc) (s : State) (hm_ : (m_ ||| 0x6FAF9) = m_) (h_ : State.Keeps m_ s_ s) : State.Keeps m_ s_ (wakeEventOp src s) := by
  refine State.Keeps.step (m1 := 0x6FAF9) ?_ hm_ h_
  unfold wakeEventOp
  repeat' first
    | (intro _)
    | (with_reducible exact State.Keeps.refl _ _)
    | (with_reducible assumption)
    | (with_reducible apply State.wakeBy_keeps)
    | decide
    | split
    | dsimp only
    | dsimp +zetaDelta only

theorem linkSignalDetectOp_keeps {m_ : Nat} {s_ : State} (link : Nat) (s : State) (hm_ : (m_ ||| 0x6FAF9) = m_) (h_ : State.Keeps m_ s_ s) : State.Keeps m_ s_ (linkSignalDetectOp link s) := by
  refine State.Keeps.step (m1 := 0x6FAF9) ?_ hm_ h_
  unfold linkSignalDetectOp
  repeat' first
    | (intro _)
    | (with_reducible exact State.Keeps.refl _ _)
    | (with_reducible assumption)
    | (with_reducible apply State.Keeps.ite)
    | (with_reducible apply State.wakeBy_keeps)
    | (with_reducible apply State.linkTrain_keeps)
    | decide
    | split
    | dsimp only
    | dsimp +zetaDelta only

theorem setRungOp_keeps {m_ : Nat} {s_ : State} (c : HostCmd) (s : State) (hm_ : (m_ ||| 0x2A200) = m_) (h_ : State.Keeps m_ s_ s) : State.Keeps m_ s_ (setRungOp c s) := by
  refine State.Keeps.step (m1 := 0x2A200) ?_ hm_ h_
  unfold setRungOp
  repeat' first
    | (intro _)
    | (with_reducible exact State.Keeps.refl _ _)
    | (with_reducible assumption)
    | (with_reducible apply State.command_keeps)
    | (with_reducible apply State.setRungCmd_keeps)
    | decide
    | split
    | dsimp only
    | dsimp +zetaDelta only

end Sys2Proof.Machine
end

