-- ==== Sys2Proof/Laws/FrameHostPort.lean ====
section
/-! SUPPORT. The frame of each operation of Machine/HostPort.lean: the blocks of the state that it may change (Laws/Keeps.lean). -/

set_option Elab.async false

namespace Sys2Proof.Machine

theorem State.dropCq_keeps {m_ : Nat} {s_ : State} (s : State) (c : Nat) (hm_ : (m_ ||| 0xA000) = m_) (h_ : State.Keeps m_ s_ s) : State.Keeps m_ s_ (State.dropCq s c) := by
  refine State.Keeps.step (m1 := 0xA000) ?_ hm_ h_
  unfold State.dropCq
  repeat' first
    | (intro _)
    | (with_reducible exact State.Keeps.refl _ _)
    | (with_reducible assumption)
    | (with_reducible apply State.Keeps.ite)
    | (with_reducible apply State.onCq_keeps)
    | (with_reducible apply State.raise_keeps)
    | decide
    | extract_lets
    | split
    | dsimp only
    | dsimp +zetaDelta only

theorem State.clearReg_keeps {m_ : Nat} {s_ : State} (s : State) (a : Nat) (hm_ : (m_ ||| 0x8000) = m_) (h_ : State.Keeps m_ s_ s) : State.Keeps m_ s_ (State.clearReg s a) := by
  refine State.Keeps.step (m1 := 0x8000) ?_ hm_ h_
  unfold State.clearReg
  repeat' first
    | (intro _)
    | (with_reducible exact State.Keeps.refl _ _)
    | (with_reducible assumption)
    | (with_reducible apply State.setReg_keeps)
    | decide
    | split
    | dsimp only
    | dsimp +zetaDelta only

theorem State.resetVf_keeps {m_ : Nat} {s_ : State} (s : State) (f : Nat) (hm_ : (m_ ||| 0x6A8F0) = m_) (h_ : State.Keeps m_ s_ s) : State.Keeps m_ s_ (State.resetVf s f) := by
  refine State.Keeps.step (m1 := 0x6A8F0) ?_ hm_ h_
  unfold State.resetVf
  repeat' first
    | (intro _)
    | (with_reducible exact State.Keeps.refl _ _)
    | (with_reducible assumption)
    | (with_reducible apply State.onHost_keeps)
    | (with_reducible apply State.onRing_keeps)
    | (with_reducible apply State.beginReset_keeps)
    | (with_reducible apply State.dropCq_keeps)
    | (with_reducible apply State.clearReg_keeps)
    | (with_reducible apply State.Keeps.foldl)
    | (with_reducible apply State.Keeps.foldlFst)
    | decide
    | extract_lets
    | split
    | dsimp only
    | dsimp +zetaDelta only

theorem State.resetPf_keeps {m_ : Nat} {s_ : State} (s : State) (hm_ : (m_ ||| 0xA000) = m_) (h_ : State.Keeps m_ s_ s) : State.Keeps m_ s_ (State.resetPf s) := by
  refine State.Keeps.step (m1 := 0xA000) ?_ hm_ h_
  unfold State.resetPf
  repeat' first
    | (intro _)
    | (with_reducible exact State.Keeps.refl _ _)
    | (with_reducible assumption)
    | (with_reducible apply State.onHost_keeps)
    | (with_reducible apply State.keepRegs_keeps)
    | (with_reducible apply State.dropCq_keeps)
    | (with_reducible apply State.Keeps.foldl)
    | (with_reducible apply State.Keeps.foldlFst)
    | (with_reducible apply State.Keeps.ofPair (by with_reducible assumption))
    | decide
    | extract_lets
    | split
    | dsimp only
    | dsimp +zetaDelta only

theorem State.readNear_keeps {m_ : Nat} {s_ : State} (s : State) (base : Nat) (a : Access) (o : Nat) (len : Nat) (hm_ : (m_ ||| 0x8000) = m_) (h_ : State.Keeps m_ s_ s) : State.Keeps m_ s_ (State.readNear s base a o len).1 := by
  refine State.Keeps.step (m1 := 0x8000) ?_ hm_ h_
  unfold State.readNear
  repeat' first
    | (intro _)
    | (with_reducible exact State.Keeps.refl _ _)
    | (with_reducible assumption)
    | (with_reducible apply State.refuseNear_keeps)
    | (with_reducible apply State.refuseNoFrame_keeps)
    | (with_reducible apply State.Keeps.ofPair (by with_reducible assumption))
    | decide
    | extract_lets
    | split
    | dsimp only
    | dsimp +zetaDelta only

theorem State.readPad_keeps {m_ : Nat} {s_ : State} (s : State) (a : Access) (o : Nat) (len : Nat) (upset : Bool) (hm_ : (m_ ||| 0x8000) = m_) (h_ : State.Keeps m_ s_ s) : State.Keeps m_ s_ (State.readPad s a o len upset).1 := by
  refine State.Keeps.step (m1 := 0x8000) ?_ hm_ h_
  unfold State.readPad
  repeat' first
    | (intro _)
    | (with_reducible exact State.Keeps.refl _ _)
    | (with_reducible assumption)
    | (with_reducible apply State.Keeps.iteFst)
    | (with_reducible apply State.Keeps.ite)
    | (with_reducible apply State.narrowRead_keeps)
    | (with_reducible apply State.Keeps.ofPair (by with_reducible assumption))
    | decide
    | extract_lets
    | split
    | dsimp only
    | dsimp +zetaDelta only

theorem State.readPieces_keeps {m_ : Nat} {s_ : State} (s : State) (w : Nat × Nat × Access) (upset : List Nat) (acc : List Byte) (ep : Bool) (y0 : List (Nat × Nat × Nat)) (hm_ : (m_ ||| 0x28000) = m_) (h_ : State.Keeps m_ s_ s) : State.Keeps m_ s_ (State.readPieces s w upset acc ep y0) := by
  induction y0 generalizing s acc ep with
  | nil =>
    unfold State.readPieces
    repeat' first
      | (intro _)
      | (with_reducible exact State.Keeps.refl _ _)
      | (with_reducible assumption)
      | (with_reducible apply ih_)
      | (with_reducible apply State.Keeps.iteFst)
      | (with_reducible apply State.Keeps.ite)
      | (with_reducible apply State.readPad_keeps)
      | (with_reducible apply State.emit_keeps)
      | (with_reducible apply State.readNear_keeps)
      | (with_reducible apply State.Keeps.ofPair (by with_reducible assumption))
      | exact State.Keeps.sub hm_ (by decide)
      | exact State.Keeps.bit hm_ (by decide)
      | split
      | dsimp only
      | dsimp +zetaDelta only
  | cons a_ l_ ih_ =>
    unfold State.readPieces
    repeat' first
      | (intro _)
      | (with_reducible exact State.Keeps.refl _ _)
      | (with_reducible assumption)
      | (with_reducible apply ih_)
      | (with_reducible apply State.Keeps.iteFst)
      | (with_reducible apply State.Keeps.ite)
      | (with_reducible apply State.readPad_keeps)
      | (with_reducible apply State.emit_keeps)
      | (with_reducible apply State.readNear_keeps)
      | (with_reducible apply State.Keeps.ofPair (by with_reducible assumption))
      | exact State.Keeps.sub hm_ (by decide)
      | exact State.Keeps.bit hm_ (by decide)
      | split
      | dsimp only
      | dsimp +zetaDelta only

theorem State.writeNear_keeps {m_ : Nat} {s_ : State} (s : State) (base : Nat) (a : Access) (o : Nat) (bytes : List (Nat × Byte)) (hm_ : (m_ ||| 0x8840) = m_) (h_ : State.Keeps m_ s_ s) : State.Keeps m_ s_ (State.writeNear s base a o bytes) := by
  refine State.Keeps.step (m1 := 0x8840) ?_ hm_ h_
  unfold State.writeNear
  repeat' first
    | (intro _)
    | (with_reducible exact State.Keeps.refl _ _)
    | (with_reducible assumption)
    | (with_reducible apply State.Keeps.ite)
    | (with_reducible apply State.refuseNear_keeps)
    | (with_reducible apply State.nearWrite_keeps)
    | (with_reducible apply State.refuseNoFrame_keeps)
    | decide
    | extract_lets
    | split
    | dsimp only
    | dsimp +zetaDelta only

theorem State.writePiece_keeps {m_ : Nat} {s_ : State} (s : State) (f : Nat) (w : Nat × Nat × Access) (data : List Byte) (mask : List Bool) (p : Nat × Nat × Nat) (hm_ : (m_ ||| 0x28870) = m_) (h_ : State.Keeps m_ s_ s) : State.Keeps m_ s_ (State.writePiece s f w data mask p) := by
  refine State.Keeps.step (m1 := 0x28870) ?_ hm_ h_
  unfold State.writePiece
  repeat' first
    | (intro _)
    | (with_reducible exact State.Keeps.refl _ _)
    | (with_reducible assumption)
    | (with_reducible apply State.Keeps.ite)
    | (with_reducible apply State.writeNear_keeps)
    | (with_reducible apply narrowRequestOp_keeps)
    | (with_reducible apply State.Keeps.foldl)
    | (with_reducible apply State.Keeps.foldlFst)
    | decide
    | extract_lets
    | split
    | dsimp only
    | dsimp +zetaDelta only

theorem State.writeSlot_keeps {m_ : Nat} {s_ : State} (s : State) (n : Nat) (slot : Nat) (word : Nat) (v : Word) (hm_ : (m_ ||| 0x2A000) = m_) (h_ : State.Keeps m_ s_ s) : State.Keeps m_ s_ (State.writeSlot s n slot word v) := by
  refine State.Keeps.step (m1 := 0x2A000) ?_ hm_ h_
  unfold State.writeSlot
  repeat' first
    | (intro _)
    | (with_reducible exact State.Keeps.refl _ _)
    | (with_reducible assumption)
    | (with_reducible apply State.Keeps.ite)
    | (with_reducible apply State.receiveSlots_keeps)
    | (with_reducible apply State.onHost_keeps)
    | (with_reducible apply State.raise_keeps)
    | decide
    | extract_lets
    | split
    | dsimp only
    | dsimp +zetaDelta only

theorem State.writeCrCfg_keeps {m_ : Nat} {s_ : State} (s : State) (n : Nat) (h : Half) (v : Word) (hm_ : (m_ ||| 0xA000) = m_) (h_ : State.Keeps m_ s_ s) : State.Keeps m_ s_ (State.writeCrCfg s n h v) := by
  refine State.Keeps.step (m1 := 0xA000) ?_ hm_ h_
  unfold State.writeCrCfg
  repeat' first
    | (intro _)
    | (with_reducible exact State.Keeps.refl _ _)
    | (with_reducible assumption)
    | (with_reducible apply State.Keeps.ite)
    | (with_reducible apply State.setReg_keeps)
    | (with_reducible apply State.onHost_keeps)
    | (with_reducible apply State.onRing_keeps)
    | decide
    | extract_lets
    | split
    | dsimp only
    | dsimp +zetaDelta only

theorem State.cqRoom_keeps {m_ : Nat} {s_ : State} (s : State) (c : Nat) (hm_ : (m_ ||| 0x6A8E0) = m_) (h_ : State.Keeps m_ s_ s) : State.Keeps m_ s_ (State.cqRoom s c) := by
  refine State.Keeps.step (m1 := 0x6A8E0) ?_ hm_ h_
  unfold State.cqRoom
  repeat' first
    | (intro _)
    | (with_reducible exact State.Keeps.refl _ _)
    | (with_reducible assumption)
    | (with_reducible apply State.Keeps.ite)
    | (with_reducible apply State.receiveSlots_keeps)
    | (with_reducible apply State.wakeReport_keeps)
    | (with_reducible apply State.buildAll_keeps)
    | (with_reducible apply State.drainCq_keeps)
    | (with_reducible apply State.Keeps.foldl)
    | (with_reducible apply State.Keeps.foldlFst)
    | decide
    | extract_lets
    | split
    | dsimp only
    | dsimp +zetaDelta only

theorem State.writeCqCfg_keeps {m_ : Nat} {s_ : State} (s : State) (c : Nat) (h : Half) (v : Word) (hm_ : (m_ ||| 0x6A8E0) = m_) (h_ : State.Keeps m_ s_ s) : State.Keeps m_ s_ (State.writeCqCfg s c h v) := by
  refine State.Keeps.step (m1 := 0x6A8E0) ?_ hm_ h_
  unfold State.writeCqCfg
  repeat' first
    | (intro _)
    | (with_reducible exact State.Keeps.refl _ _)
    | (with_reducible assumption)
    | (with_reducible apply State.Keeps.ite)
    | (with_reducible apply State.setReg_keeps)
    | (with_reducible apply State.onCq_keeps)
    | (with_reducible apply State.cqRoom_keeps)
    | decide
    | extract_lets
    | split
    | dsimp only
    | dsimp +zetaDelta only

theorem State.writeCqHead_keeps {m_ : Nat} {s_ : State} (s : State) (c : Nat) (h : Half) (v : Word) (hm_ : (m_ ||| 0x6A8E0) = m_) (h_ : State.Keeps m_ s_ s) : State.Keeps m_ s_ (State.writeCqHead s c h v) := by
  refine State.Keeps.step (m1 := 0x6A8E0) ?_ hm_ h_
  unfold State.writeCqHead
  repeat' first
    | (intro _)
    | (with_reducible exact State.Keeps.refl _ _)
    | (with_reducible assumption)
    | (with_reducible apply State.setReg_keeps)
    | (with_reducible apply State.cqRoom_keeps)
    | decide
    | split
    | dsimp only
    | dsimp +zetaDelta only

theorem perstNAssertOp_keeps {m_ : Nat} {s_ : State} (s : State) (hm_ : (m_ ||| 0xA000) = m_) (h_ : State.Keeps m_ s_ s) : State.Keeps m_ s_ (perstNAssertOp s) := by
  refine State.Keeps.step (m1 := 0xA000) ?_ hm_ h_
  unfold perstNAssertOp
  repeat' first
    | (intro _)
    | (with_reducible exact State.Keeps.refl _ _)
    | (with_reducible assumption)
    | (with_reducible apply State.Keeps.ite)
    | (with_reducible apply State.resetPf_keeps)
    | (with_reducible apply State.onHost_keeps)
    | decide
    | split
    | dsimp only
    | dsimp +zetaDelta only

theorem perstNReleaseOp_keeps {m_ : Nat} {s_ : State} (s : State) (hm_ : (m_ ||| 0x42000) = m_) (h_ : State.Keeps m_ s_ s) : State.Keeps m_ s_ (perstNReleaseOp s) := by
  refine State.Keeps.step (m1 := 0x42000) ?_ hm_ h_
  unfold perstNReleaseOp
  repeat' first
    | (intro _)
    | (with_reducible exact State.Keeps.refl _ _)
    | (with_reducible assumption)
    | (with_reducible apply State.Keeps.ite)
    | (with_reducible apply State.trainHost_keeps)
    | (with_reducible apply State.onHost_keeps)
    | decide
    | extract_lets
    | split
    | dsimp only
    | dsimp +zetaDelta only

theorem pfFlrOp_keeps {m_ : Nat} {s_ : State} (s : State) (hm_ : (m_ ||| 0x6A8F0) = m_) (h_ : State.Keeps m_ s_ s) : State.Keeps m_ s_ (pfFlrOp s) := by
  refine State.Keeps.step (m1 := 0x6A8F0) ?_ hm_ h_
  unfold pfFlrOp
  repeat' first
    | (intro _)
    | (with_reducible exact State.Keeps.refl _ _)
    | (with_reducible assumption)
    | (with_reducible apply State.Keeps.ite)
    | (with_reducible apply State.resetPf_keeps)
    | (with_reducible apply State.resetVf_keeps)
    | (with_reducible apply State.Keeps.foldl)
    | (with_reducible apply State.Keeps.foldlFst)
    | decide
    | split
    | dsimp only
    | dsimp +zetaDelta only

theorem vfFlrOp_keeps {m_ : Nat} {s_ : State} (vf : Nat) (s : State) (hm_ : (m_ ||| 0x6A8F0) = m_) (h_ : State.Keeps m_ s_ s) : State.Keeps m_ s_ (vfFlrOp vf s) := by
  refine State.Keeps.step (m1 := 0x6A8F0) ?_ hm_ h_
  unfold vfFlrOp
  repeat' first
    | (intro _)
    | (with_reducible exact State.Keeps.refl _ _)
    | (with_reducible assumption)
    | (with_reducible apply State.Keeps.ite)
    | (with_reducible apply State.resetVf_keeps)
    | decide
    | split
    | dsimp only
    | dsimp +zetaDelta only

theorem d3hotEntryOp_keeps {m_ : Nat} {s_ : State} (func : Nat) (s : State) (hm_ : (m_ ||| 0x2000) = m_) (h_ : State.Keeps m_ s_ s) : State.Keeps m_ s_ (d3hotEntryOp func s) := by
  refine State.Keeps.step (m1 := 0x2000) ?_ hm_ h_
  unfold d3hotEntryOp
  repeat' first
    | (intro _)
    | (with_reducible exact State.Keeps.refl _ _)
    | (with_reducible assumption)
    | (with_reducible apply State.Keeps.ite)
    | (with_reducible apply State.onHost_keeps)
    | decide
    | split
    | dsimp only
    | dsimp +zetaDelta only

theorem d3hotExitOp_keeps {m_ : Nat} {s_ : State} (func : Nat) (s : State) (hm_ : (m_ ||| 0x6A8E0) = m_) (h_ : State.Keeps m_ s_ s) : State.Keeps m_ s_ (d3hotExitOp func s) := by
  refine State.Keeps.step (m1 := 0x6A8E0) ?_ hm_ h_
  unfold d3hotExitOp
  repeat' first
    | (intro _)
    | (with_reducible exact State.Keeps.refl _ _)
    | (with_reducible assumption)
    | (with_reducible apply State.Keeps.ite)
    | (with_reducible apply State.receiveSlots_keeps)
    | (with_reducible apply State.onHost_keeps)
    | (with_reducible apply State.cqRoom_keeps)
    | (with_reducible apply State.Keeps.foldl)
    | (with_reducible apply State.Keeps.foldlFst)
    | decide
    | extract_lets
    | split
    | dsimp only
    | dsimp +zetaDelta only

theorem hostWindowReadOp_keeps {m_ : Nat} {s_ : State} (func : Nat) (ofs : Nat) (len : Nat) (upset : List Nat) (s : State) (hm_ : (m_ ||| 0x28000) = m_) (h_ : State.Keeps m_ s_ s) : State.Keeps m_ s_ (hostWindowReadOp func ofs len upset s) := by
  refine State.Keeps.step (m1 := 0x28000) ?_ hm_ h_
  unfold hostWindowReadOp
  repeat' first
    | (intro _)
    | (with_reducible exact State.Keeps.refl _ _)
    | (with_reducible assumption)
    | (with_reducible apply State.Keeps.ite)
    | (with_reducible apply State.readPieces_keeps)
    | decide
    | split
    | dsimp only
    | dsimp +zetaDelta only

theorem hostWindowWriteOp_keeps {m_ : Nat} {s_ : State} (func : Nat) (ofs : Nat) (data : List Byte) (mask : List Bool) (s : State) (hm_ : (m_ ||| 0x28870) = m_) (h_ : State.Keeps m_ s_ s) : State.Keeps m_ s_ (hostWindowWriteOp func ofs data mask s) := by
  refine State.Keeps.step (m1 := 0x28870) ?_ hm_ h_
  unfold hostWindowWriteOp
  repeat' first
    | (intro _)
    | (with_reducible exact State.Keeps.refl _ _)
    | (with_reducible assumption)
    | (with_reducible apply State.Keeps.ite)
    | (with_reducible apply State.writePiece_keeps)
    | (with_reducible apply State.Keeps.foldl)
    | (with_reducible apply State.Keeps.foldlFst)
    | decide
    | split
    | dsimp only
    | dsimp +zetaDelta only

theorem commandSlotReceiveOp_keeps {m_ : Nat} {s_ : State} (func : Nat) (ring : Nat) (slot : Nat) (word : Nat) (val : Word) (s : State) (hm_ : (m_ ||| 0x2A000) = m_) (h_ : State.Keeps m_ s_ s) : State.Keeps m_ s_ (commandSlotReceiveOp func ring slot word val s) := by
  refine State.Keeps.step (m1 := 0x2A000) ?_ hm_ h_
  unfold commandSlotReceiveOp
  repeat' first
    | (intro _)
    | (with_reducible exact State.Keeps.refl _ _)
    | (with_reducible assumption)
    | (with_reducible apply State.Keeps.ite)
    | (with_reducible apply State.writeSlot_keeps)
    | decide
    | split
    | dsimp only
    | dsimp +zetaDelta only

theorem commandRingEnableOp_keeps {m_ : Nat} {s_ : State} (ring : Nat) (half : Half) (val : Word) (s : State) (hm_ : (m_ ||| 0xA000) = m_) (h_ : State.Keeps m_ s_ s) : State.Keeps m_ s_ (commandRingEnableOp ring half val s) := by
  refine State.Keeps.step (m1 := 0xA000) ?_ hm_ h_
  unfold commandRingEnableOp
  repeat' first
    | (intro _)
    | (with_reducible exact State.Keeps.refl _ _)
    | (with_reducible assumption)
    | (with_reducible apply State.Keeps.ite)
    | (with_reducible apply State.writeCrCfg_keeps)
    | decide
    | split
    | dsimp only
    | dsimp +zetaDelta only

theorem completionRingEnableOp_keeps {m_ : Nat} {s_ : State} (cq : Nat) (half : Half) (val : Word) (s : State) (hm_ : (m_ ||| 0x6A8E0) = m_) (h_ : State.Keeps m_ s_ s) : State.Keeps m_ s_ (completionRingEnableOp cq half val s) := by
  refine State.Keeps.step (m1 := 0x6A8E0) ?_ hm_ h_
  unfold completionRingEnableOp
  repeat' first
    | (intro _)
    | (with_reducible exact State.Keeps.refl _ _)
    | (with_reducible assumption)
    | (with_reducible apply State.Keeps.ite)
    | (with_reducible apply State.writeCqCfg_keeps)
    | decide
    | split
    | dsimp only
    | dsimp +zetaDelta only

theorem cqHeadWriteOp_keeps {m_ : Nat} {s_ : State} (func : Nat) (cq : Nat) (val : Word) (s : State) (hm_ : (m_ ||| 0x6A8E0) = m_) (h_ : State.Keeps m_ s_ s) : State.Keeps m_ s_ (cqHeadWriteOp func cq val s) := by
  refine State.Keeps.step (m1 := 0x6A8E0) ?_ hm_ h_
  unfold cqHeadWriteOp
  repeat' first
    | (intro _)
    | (with_reducible exact State.Keeps.refl _ _)
    | (with_reducible assumption)
    | (with_reducible apply State.Keeps.ite)
    | (with_reducible apply State.writeCqHead_keeps)
    | decide
    | split
    | dsimp only
    | dsimp +zetaDelta only

theorem msixModerationTimerOp_keeps {m_ : Nat} {s_ : State} (cq : Nat) (s : State) (hm_ : (m_ ||| 0x22000) = m_) (h_ : State.Keeps m_ s_ s) : State.Keeps m_ s_ (msixModerationTimerOp cq s) := by
  refine State.Keeps.step (m1 := 0x22000) ?_ hm_ h_
  unfold msixModerationTimerOp
  repeat' first
    | (intro _)
    | (with_reducible exact State.Keeps.refl _ _)
    | (with_reducible assumption)
    | (with_reducible apply State.Keeps.ite)
    | (with_reducible apply State.fireVec_keeps)
    | decide
    | extract_lets
    | split
    | dsimp only
    | dsimp +zetaDelta only

theorem identifyOp_keeps {m_ : Nat} {s_ : State} (c : HostCmd) (s : State) (hm_ : (m_ ||| 0x2A000) = m_) (h_ : State.Keeps m_ s_ s) : State.Keeps m_ s_ (identifyOp c s) := by
  refine State.Keeps.step (m1 := 0x2A000) ?_ hm_ h_
  unfold identifyOp
  repeat' first
    | (intro _)
    | (with_reducible exact State.Keeps.refl _ _)
    | (with_reducible assumption)
    | (with_reducible apply State.complete_keeps)
    | (with_reducible apply State.command_keeps)
    | decide
    | split
    | dsimp only
    | dsimp +zetaDelta only

end Sys2Proof.Machine
end

