-- ==== Sys2Proof/Laws/FrameSecurity.lean ====
section
/-! SUPPORT. The frame of each operation of Machine/Security.lean: the blocks of the state that it may change (Laws/Keeps.lean). -/

set_option Elab.async false

namespace Sys2Proof.Machine

theorem State.startReport_keeps {m_ : Nat} {s_ : State} (s : State) (m : BitVec 448) (hm_ : (m_ ||| 0x4000) = m_) (h_ : State.Keeps m_ s_ s) : State.Keeps m_ s_ (State.startReport s m) := by
  refine State.Keeps.step (m1 := 0x4000) ?_ hm_ h_
  unfold State.startReport
  repeat' first
    | (intro _)
    | (with_reducible exact State.Keeps.refl _ _)
    | (with_reducible assumption)
    | (with_reducible apply State.Keeps.ite)
    | (with_reducible apply State.onAos_keeps)
    | decide
    | extract_lets
    | split
    | dsimp only
    | dsimp +zetaDelta only

theorem State.keyConflict_keeps {m_ : Nat} {s_ : State} (s : State) (c : HostCmd) (n : Nat) (hm_ : (m_ ||| 0x2A000) = m_) (h_ : State.Keeps m_ s_ s) : State.Keeps m_ s_ (State.keyConflict s c n) := by
  refine State.Keeps.step (m1 := 0x2A000) ?_ hm_ h_
  unfold State.keyConflict
  repeat' first
    | (intro _)
    | (with_reducible exact State.Keeps.refl _ _)
    | (with_reducible assumption)
    | (with_reducible apply State.refuseState_keeps)
    | decide
    | split
    | dsimp only
    | dsimp +zetaDelta only

theorem State.putKey_keeps {m_ : Nat} {s_ : State} (s : State) (n : Nat) (k : List Byte) (hm_ : (m_ ||| 0x440) = m_) (h_ : State.Keeps m_ s_ s) : State.Keeps m_ s_ (State.putKey s n k) := by
  refine State.Keeps.step (m1 := 0x440) ?_ hm_ h_
  unfold State.putKey
  repeat' first
    | (intro _)
    | (with_reducible exact State.Keeps.refl _ _)
    | (with_reducible assumption)
    | (with_reducible apply State.Keeps.ite)
    | (with_reducible apply State.onMem_keeps)
    | (with_reducible apply State.Keeps.with_keys _)
    | decide
    | extract_lets
    | split
    | dsimp only
    | dsimp +zetaDelta only

theorem State.installKey_keeps {m_ : Nat} {s_ : State} (s : State) (c : HostCmd) (n : Nat) (hm_ : (m_ ||| 0x2E440) = m_) (h_ : State.Keeps m_ s_ s) : State.Keeps m_ s_ (State.installKey s c n) := by
  refine State.Keeps.step (m1 := 0x2E440) ?_ hm_ h_
  unfold State.installKey
  repeat' first
    | (intro _)
    | (with_reducible exact State.Keeps.refl _ _)
    | (with_reducible assumption)
    | (with_reducible apply State.Keeps.ite)
    | (with_reducible apply State.putKey_keeps)
    | (with_reducible apply State.onAos_keeps)
    | (with_reducible apply State.refuse_keeps)
    | (with_reducible apply State.keyConflict_keeps)
    | (with_reducible apply State.complete_keeps)
    | decide
    | extract_lets
    | split
    | dsimp only
    | dsimp +zetaDelta only

theorem State.failRequests_keeps {m_ : Nat} {s_ : State} (s : State) (n : Nat) (hm_ : (m_ ||| 0x6A860) = m_) (h_ : State.Keeps m_ s_ s) : State.Keeps m_ s_ (State.failRequests s n) := by
  refine State.Keeps.step (m1 := 0x6A860) ?_ hm_ h_
  unfold State.failRequests
  repeat' first
    | (intro _)
    | (with_reducible exact State.Keeps.refl _ _)
    | (with_reducible assumption)
    | (with_reducible apply State.sealEnd_keeps)
    | (with_reducible apply State.reqRefused_keeps)
    | (with_reducible apply State.moveEnd_keeps)
    | (with_reducible apply State.copyupEnd_keeps)
    | (with_reducible apply State.reqDone_keeps)
    | (with_reducible apply State.onMem_keeps)
    | (with_reducible apply State.Keeps.foldl)
    | (with_reducible apply State.Keeps.foldlFst)
    | decide
    | extract_lets
    | split
    | dsimp only
    | dsimp +zetaDelta only

theorem State.stopGloves_keeps {m_ : Nat} {s_ : State} (s : State) (n : Nat) (hm_ : (m_ ||| 0x6A8F0) = m_) (h_ : State.Keeps m_ s_ s) : State.Keeps m_ s_ (State.stopGloves s n) := by
  refine State.Keeps.step (m1 := 0x6A8F0) ?_ hm_ h_
  unfold State.stopGloves
  repeat' first
    | (intro _)
    | (with_reducible exact State.Keeps.refl _ _)
    | (with_reducible assumption)
    | (with_reducible apply State.beginReset_keeps)
    | (with_reducible apply State.onGlv_keeps)
    | (with_reducible apply State.Keeps.foldl)
    | (with_reducible apply State.Keeps.foldlFst)
    | decide
    | split
    | dsimp only
    | dsimp +zetaDelta only

theorem State.endSequences_keeps {m_ : Nat} {s_ : State} (s : State) (n : Nat) (hm_ : (m_ ||| 0x2A840) = m_) (h_ : State.Keeps m_ s_ s) : State.Keeps m_ s_ (State.endSequences s n) := by
  refine State.Keeps.step (m1 := 0x2A840) ?_ hm_ h_
  unfold State.endSequences
  repeat' first
    | (intro _)
    | (with_reducible exact State.Keeps.refl _ _)
    | (with_reducible assumption)
    | (with_reducible apply State.loseSeq_keeps)
    | (with_reducible apply State.onSeqEnt_keeps)
    | (with_reducible apply State.freeCache_keeps)
    | (with_reducible apply State.freeExtents_keeps)
    | (with_reducible apply State.complete_keeps)
    | (with_reducible apply State.Keeps.foldl)
    | (with_reducible apply State.Keeps.foldlFst)
    | decide
    | split
    | dsimp only
    | dsimp +zetaDelta only

theorem State.freeTree_keeps {m_ : Nat} {s_ : State} (s : State) (n : Nat) (hm_ : (m_ ||| 0x2A840) = m_) (h_ : State.Keeps m_ s_ s) : State.Keeps m_ s_ (State.freeTree s n) := by
  refine State.Keeps.step (m1 := 0x2A840) ?_ hm_ h_
  unfold State.freeTree
  repeat' first
    | (intro _)
    | (with_reducible exact State.Keeps.refl _ _)
    | (with_reducible assumption)
    | (with_reducible apply State.Keeps.ite)
    | (with_reducible apply State.setFld_keeps)
    | (with_reducible apply State.loseSeq_keeps)
    | (with_reducible apply State.removeNode_keeps)
    | (with_reducible apply State.Keeps.foldl)
    | (with_reducible apply State.Keeps.foldlFst)
    | (with_reducible apply State.Keeps.ofPair (by with_reducible assumption))
    | decide
    | extract_lets
    | split
    | dsimp only
    | dsimp +zetaDelta only

theorem State.endModels_keeps {m_ : Nat} {s_ : State} (s : State) (n : Nat) (hm_ : (m_ ||| 0x2A840) = m_) (h_ : State.Keeps m_ s_ s) : State.Keeps m_ s_ (State.endModels s n) := by
  refine State.Keeps.step (m1 := 0x2A840) ?_ hm_ h_
  unfold State.endModels
  repeat' first
    | (intro _)
    | (with_reducible exact State.Keeps.refl _ _)
    | (with_reducible assumption)
    | (with_reducible apply State.onModel_keeps)
    | (with_reducible apply State.completeOpt_keeps)
    | (with_reducible apply State.onAdapter_keeps)
    | (with_reducible apply State.onMem_keeps)
    | (with_reducible apply State.Keeps.foldl)
    | (with_reducible apply State.Keeps.foldlFst)
    | decide
    | extract_lets
    | split
    | dsimp only
    | dsimp +zetaDelta only

theorem State.freeStores_keeps {m_ : Nat} {s_ : State} (s : State) (n : Nat) (hm_ : (m_ ||| 0x2A8C0) = m_) (h_ : State.Keeps m_ s_ s) : State.Keeps m_ s_ (State.freeStores s n) := by
  refine State.Keeps.step (m1 := 0x2A8C0) ?_ hm_ h_
  unfold State.freeStores
  repeat' first
    | (intro _)
    | (with_reducible exact State.Keeps.refl _ _)
    | (with_reducible assumption)
    | (with_reducible apply State.Keeps.ite)
    | (with_reducible apply State.framesFreed_keeps)
    | (with_reducible apply State.onExtent_keeps)
    | (with_reducible apply State.freeFrame_keeps)
    | (with_reducible apply State.releaseExtent_keeps)
    | (with_reducible apply State.finishDestroys_keeps)
    | (with_reducible apply State.Keeps.foldl)
    | (with_reducible apply State.Keeps.foldlFst)
    | decide
    | extract_lets
    | split
    | dsimp only
    | dsimp +zetaDelta only

theorem State.eraseKey_keeps {m_ : Nat} {s_ : State} (s : State) (n : Nat) (hm_ : (m_ ||| 0x6ACF0) = m_) (h_ : State.Keeps m_ s_ s) : State.Keeps m_ s_ (State.eraseKey s n) := by
  refine State.Keeps.step (m1 := 0x6ACF0) ?_ hm_ h_
  unfold State.eraseKey
  repeat' first
    | (intro _)
    | (with_reducible exact State.Keeps.refl _ _)
    | (with_reducible assumption)
    | (with_reducible apply State.failRequests_keeps)
    | (with_reducible apply State.freeTree_keeps)
    | (with_reducible apply State.freeStores_keeps)
    | (with_reducible apply State.stopGloves_keeps)
    | (with_reducible apply State.endSequences_keeps)
    | (with_reducible apply State.endModels_keeps)
    | (with_reducible apply State.raise_keeps)
    | (with_reducible apply State.Keeps.with_keys _)
    | decide
    | extract_lets
    | split
    | dsimp only
    | dsimp +zetaDelta only

theorem State.keyCmd_keeps {m_ : Nat} {s_ : State} (s : State) (c : HostCmd) (action : Nat) (hm_ : (m_ ||| 0x6ECF0) = m_) (h_ : State.Keeps m_ s_ s) : State.Keeps m_ s_ (State.keyCmd s c action) := by
  refine State.Keeps.step (m1 := 0x6ECF0) ?_ hm_ h_
  unfold State.keyCmd
  repeat' first
    | (intro _)
    | (with_reducible exact State.Keeps.refl _ _)
    | (with_reducible assumption)
    | (with_reducible apply State.Keeps.ite)
    | (with_reducible apply State.command_keeps)
    | (with_reducible apply State.eraseKey_keeps)
    | (with_reducible apply State.installKey_keeps)
    | (with_reducible apply State.refuse_keeps)
    | (with_reducible apply State.keyConflict_keeps)
    | (with_reducible apply State.complete_keeps)
    | decide
    | extract_lets
    | split
    | dsimp only
    | dsimp +zetaDelta only

theorem State.setUpd_keeps {m_ : Nat} {s_ : State} (s : State) (state : Nat) (stage : Nat) (part : Nat) (hm_ : (m_ ||| 0x8000) = m_) (h_ : State.Keeps m_ s_ s) : State.Keeps m_ s_ (State.setUpd s state stage part) := by
  refine State.Keeps.step (m1 := 0x8000) ?_ hm_ h_
  unfold State.setUpd
  repeat' first
    | (intro _)
    | (with_reducible exact State.Keeps.refl _ _)
    | (with_reducible assumption)
    | (with_reducible apply State.setReg_keeps)
    | (with_reducible apply State.Keeps.ofPair (by with_reducible assumption))
    | decide
    | split
    | dsimp only
    | dsimp +zetaDelta only

theorem State.logUpd_keeps {m_ : Nat} {s_ : State} (s : State) (stage : Nat) (hm_ : (m_ ||| 0x8000) = m_) (h_ : State.Keeps m_ s_ s) : State.Keeps m_ s_ (State.logUpd s stage) := by
  refine State.Keeps.step (m1 := 0x8000) ?_ hm_ h_
  unfold State.logUpd
  repeat' first
    | (intro _)
    | (with_reducible exact State.Keeps.refl _ _)
    | (with_reducible assumption)
    | (with_reducible apply State.logEntry_keeps)
    | decide
    | split
    | dsimp only
    | dsimp +zetaDelta only

theorem State.refuseImage_keeps {m_ : Nat} {s_ : State} (s : State) (c : HostCmd) (st : Nat) (hm_ : (m_ ||| 0x2A000) = m_) (h_ : State.Keeps m_ s_ s) : State.Keeps m_ s_ (State.refuseImage s c st) := by
  refine State.Keeps.step (m1 := 0x2A000) ?_ hm_ h_
  unfold State.refuseImage
  repeat' first
    | (intro _)
    | (with_reducible exact State.Keeps.refl _ _)
    | (with_reducible assumption)
    | (with_reducible apply State.Keeps.ite)
    | (with_reducible apply State.refuse_keeps)
    | (with_reducible apply State.raise_keeps)
    | decide
    | split
    | dsimp only
    | dsimp +zetaDelta only

theorem State.stageImage_keeps {m_ : Nat} {s_ : State} (s : State) (c : HostCmd) (hm_ : (m_ ||| 0x2E000) = m_) (h_ : State.Keeps m_ s_ s) : State.Keeps m_ s_ (State.stageImage s c) := by
  refine State.Keeps.step (m1 := 0x2E000) ?_ hm_ h_
  unfold State.stageImage
  repeat' first
    | (intro _)
    | (with_reducible exact State.Keeps.refl _ _)
    | (with_reducible assumption)
    | (with_reducible apply State.Keeps.ite)
    | (with_reducible apply State.onAos_keeps)
    | (with_reducible apply State.refuse_keeps)
    | (with_reducible apply State.complete_keeps)
    | (with_reducible apply State.refuseImage_keeps)
    | decide
    | extract_lets
    | split
    | dsimp only
    | dsimp +zetaDelta only

theorem State.swapSteward_keeps {m_ : Nat} {s_ : State} (s : State) (hm_ : (m_ ||| 0x2A800) = m_) (h_ : State.Keeps m_ s_ s) : State.Keeps m_ s_ (State.swapSteward s) := by
  refine State.Keeps.step (m1 := 0x2A800) ?_ hm_ h_
  unfold State.swapSteward
  repeat' first
    | (intro _)
    | (with_reducible exact State.Keeps.refl _ _)
    | (with_reducible assumption)
    | (with_reducible apply State.Keeps.ite)
    | (with_reducible apply State.swapNow_keeps)
    | (with_reducible apply State.onStw_keeps)
    | decide
    | extract_lets
    | split
    | dsimp only
    | dsimp +zetaDelta only

theorem State.restartPart_keeps {m_ : Nat} {s_ : State} (s : State) (stage : Nat) (part : Nat) (left : List Nat) (hm_ : (m_ ||| 0x2E800) = m_) (h_ : State.Keeps m_ s_ s) : State.Keeps m_ s_ (State.restartPart s stage part left) := by
  refine State.Keeps.step (m1 := 0x2E800) ?_ hm_ h_
  unfold State.restartPart
  repeat' first
    | (intro _)
    | (with_reducible exact State.Keeps.refl _ _)
    | (with_reducible assumption)
    | (with_reducible apply State.Keeps.ite)
    | (with_reducible apply State.swapSteward_keeps)
    | (with_reducible apply State.onAos_keeps)
    | (with_reducible apply State.onStw_keeps)
    | (with_reducible apply State.setUpd_keeps)
    | (with_reducible apply State.Keeps.ofPair (by with_reducible assumption))
    | decide
    | extract_lets
    | split
    | dsimp only
    | dsimp +zetaDelta only

theorem State.activate_keeps {m_ : Nat} {s_ : State} (s : State) (c : HostCmd) (hm_ : (m_ ||| 0x2E800) = m_) (h_ : State.Keeps m_ s_ s) : State.Keeps m_ s_ (State.activate s c) := by
  refine State.Keeps.step (m1 := 0x2E800) ?_ hm_ h_
  unfold State.activate
  repeat' first
    | (intro _)
    | (with_reducible exact State.Keeps.refl _ _)
    | (with_reducible assumption)
    | (with_reducible apply State.Keeps.ite)
    | (with_reducible apply State.refuse_keeps)
    | (with_reducible apply State.restartPart_keeps)
    | (with_reducible apply State.refuseModule_keeps)
    | (with_reducible apply State.complete_keeps)
    | (with_reducible apply State.refuseImage_keeps)
    | (with_reducible apply State.Keeps.ofPair (by with_reducible assumption))
    | decide
    | extract_lets
    | split
    | dsimp only
    | dsimp +zetaDelta only

theorem State.rotate_keeps {m_ : Nat} {s_ : State} (s : State) (g : Nat) (hm_ : (m_ ||| 0xC000) = m_) (h_ : State.Keeps m_ s_ s) : State.Keeps m_ s_ (State.rotate s g) := by
  refine State.Keeps.step (m1 := 0xC000) ?_ hm_ h_
  unfold State.rotate
  repeat' first
    | (intro _)
    | (with_reducible exact State.Keeps.refl _ _)
    | (with_reducible assumption)
    | (with_reducible apply State.onAos_keeps)
    | (with_reducible apply State.logUpd_keeps)
    | (with_reducible apply State.setUpd_keeps)
    | (with_reducible apply State.Keeps.ofPair (by with_reducible assumption))
    | decide
    | extract_lets
    | split
    | dsimp only
    | dsimp +zetaDelta only

theorem State.writeOtp_keeps {m_ : Nat} {s_ : State} (s : State) (c : HostCmd) (hm_ : (m_ ||| 0x2E000) = m_) (h_ : State.Keeps m_ s_ s) : State.Keeps m_ s_ (State.writeOtp s c) := by
  refine State.Keeps.step (m1 := 0x2E000) ?_ hm_ h_
  unfold State.writeOtp
  repeat' first
    | (intro _)
    | (with_reducible exact State.Keeps.refl _ _)
    | (with_reducible assumption)
    | (with_reducible apply State.Keeps.ite)
    | (with_reducible apply State.onAos_keeps)
    | (with_reducible apply State.refuse_keeps)
    | (with_reducible apply State.setUpd_keeps)
    | (with_reducible apply State.refuseModule_keeps)
    | (with_reducible apply State.complete_keeps)
    | (with_reducible apply State.refuseImage_keeps)
    | (with_reducible apply State.Keeps.ofPair (by with_reducible assumption))
    | decide
    | extract_lets
    | split
    | dsimp only
    | dsimp +zetaDelta only

theorem State.imageCmd_keeps {m_ : Nat} {s_ : State} (s : State) (c : HostCmd) (action : Nat) (f : State → HostCmd → State) (hm_ : (m_ ||| 0x2A000) = m_) (h_ : State.Keeps m_ s_ s) (hf_ : ∀ u d, State.Keeps m_ s_ u → State.Keeps m_ s_ (f u d)) : State.Keeps m_ s_ (State.imageCmd s c action f) := by
  unfold State.imageCmd
  repeat' first
    | (intro _)
    | (with_reducible exact State.Keeps.refl _ _)
    | (with_reducible assumption)
    | (with_reducible apply hf_)
    | (with_reducible apply State.Keeps.ite)
    | (with_reducible apply State.command_keeps)
    | (with_reducible apply State.refuse_keeps)
    | exact State.Keeps.sub hm_ (by decide)
    | exact State.Keeps.bit hm_ (by decide)
    | extract_lets
    | split
    | dsimp only
    | dsimp +zetaDelta only

theorem secActlGoOp_keeps {m_ : Nat} {s_ : State} (half : Half) (val : Word) (m : BitVec 448) (s : State) (hm_ : (m_ ||| 0xC000) = m_) (h_ : State.Keeps m_ s_ s) : State.Keeps m_ s_ (secActlGoOp half val m s) := by
  refine State.Keeps.step (m1 := 0xC000) ?_ hm_ h_
  unfold secActlGoOp
  repeat' first
    | (intro _)
    | (with_reducible exact State.Keeps.refl _ _)
    | (with_reducible assumption)
    | (with_reducible apply State.Keeps.ite)
    | (with_reducible apply State.setFld_keeps)
    | (with_reducible apply State.startReport_keeps)
    | decide
    | extract_lets
    | split
    | dsimp only
    | dsimp +zetaDelta only

theorem attestationReportReadyOp_keeps {m_ : Nat} {s_ : State} (s : State) (hm_ : (m_ ||| 0x4000) = m_) (h_ : State.Keeps m_ s_ s) : State.Keeps m_ s_ (attestationReportReadyOp s) := by
  refine State.Keeps.step (m1 := 0x4000) ?_ hm_ h_
  unfold attestationReportReadyOp
  repeat' first
    | (intro _)
    | (with_reducible exact State.Keeps.refl _ _)
    | (with_reducible assumption)
    | (with_reducible apply State.Keeps.ite)
    | (with_reducible apply State.onAos_keeps)
    | decide
    | split
    | dsimp only
    | dsimp +zetaDelta only

theorem trngHealthFailureOp_keeps {m_ : Nat} {s_ : State} (s : State) (hm_ : (m_ ||| 0xC000) = m_) (h_ : State.Keeps m_ s_ s) : State.Keeps m_ s_ (trngHealthFailureOp s) := by
  refine State.Keeps.step (m1 := 0xC000) ?_ hm_ h_
  unfold trngHealthFailureOp
  repeat' first
    | (intro _)
    | (with_reducible exact State.Keeps.refl _ _)
    | (with_reducible assumption)
    | (with_reducible apply State.onAos_keeps)
    | (with_reducible apply State.raise_keeps)
    | decide
    | split
    | dsimp only
    | dsimp +zetaDelta only

theorem trngRecoverOp_keeps {m_ : Nat} {s_ : State} (s : State) (hm_ : (m_ ||| 0x4000) = m_) (h_ : State.Keeps m_ s_ s) : State.Keeps m_ s_ (trngRecoverOp s) := by
  refine State.Keeps.step (m1 := 0x4000) ?_ hm_ h_
  unfold trngRecoverOp
  repeat' first
    | (intro _)
    | (with_reducible exact State.Keeps.refl _ _)
    | (with_reducible assumption)
    | (with_reducible apply State.Keeps.ite)
    | (with_reducible apply State.onAos_keeps)
    | decide
    | split
    | dsimp only
    | dsimp +zetaDelta only

theorem keyOpInstallOp_keeps {m_ : Nat} {s_ : State} (c : HostCmd) (s : State) (hm_ : (m_ ||| 0x6ECF0) = m_) (h_ : State.Keeps m_ s_ s) : State.Keeps m_ s_ (keyOpInstallOp c s) := by
  refine State.Keeps.step (m1 := 0x6ECF0) ?_ hm_ h_
  unfold keyOpInstallOp
  repeat' first
    | (intro _)
    | (with_reducible exact State.Keeps.refl _ _)
    | (with_reducible assumption)
    | (with_reducible apply State.keyCmd_keeps)
    | decide
    | split
    | dsimp only
    | dsimp +zetaDelta only

theorem keyOpEraseOp_keeps {m_ : Nat} {s_ : State} (c : HostCmd) (s : State) (hm_ : (m_ ||| 0x6ECF0) = m_) (h_ : State.Keeps m_ s_ s) : State.Keeps m_ s_ (keyOpEraseOp c s) := by
  refine State.Keeps.step (m1 := 0x6ECF0) ?_ hm_ h_
  unfold keyOpEraseOp
  repeat' first
    | (intro _)
    | (with_reducible exact State.Keeps.refl _ _)
    | (with_reducible assumption)
    | (with_reducible apply State.keyCmd_keeps)
    | decide
    | split
    | dsimp only
    | dsimp +zetaDelta only

theorem imageOpStageOp_keeps {m_ : Nat} {s_ : State} (c : HostCmd) (s : State) (hm_ : (m_ ||| 0x2E000) = m_) (h_ : State.Keeps m_ s_ s) : State.Keeps m_ s_ (imageOpStageOp c s) := by
  refine State.Keeps.step (m1 := 0x2E000) ?_ hm_ h_
  unfold imageOpStageOp
  repeat' first
    | (intro _)
    | (with_reducible exact State.Keeps.refl _ _)
    | (with_reducible assumption)
    | (with_reducible apply State.imageCmd_keeps)
    | (with_reducible apply State.stageImage_keeps)
    | decide
    | split
    | dsimp only
    | dsimp +zetaDelta only

theorem imageOpActivateOp_keeps {m_ : Nat} {s_ : State} (c : HostCmd) (s : State) (hm_ : (m_ ||| 0x2E800) = m_) (h_ : State.Keeps m_ s_ s) : State.Keeps m_ s_ (imageOpActivateOp c s) := by
  refine State.Keeps.step (m1 := 0x2E800) ?_ hm_ h_
  unfold imageOpActivateOp
  repeat' first
    | (intro _)
    | (with_reducible exact State.Keeps.refl _ _)
    | (with_reducible assumption)
    | (with_reducible apply State.imageCmd_keeps)
    | (with_reducible apply State.activate_keeps)
    | decide
    | split
    | dsimp only
    | dsimp +zetaDelta only

theorem imageOpWriteOtpOp_keeps {m_ : Nat} {s_ : State} (c : HostCmd) (s : State) (hm_ : (m_ ||| 0x2E000) = m_) (h_ : State.Keeps m_ s_ s) : State.Keeps m_ s_ (imageOpWriteOtpOp c s) := by
  refine State.Keeps.step (m1 := 0x2E000) ?_ hm_ h_
  unfold imageOpWriteOtpOp
  repeat' first
    | (intro _)
    | (with_reducible exact State.Keeps.refl _ _)
    | (with_reducible assumption)
    | (with_reducible apply State.imageCmd_keeps)
    | (with_reducible apply State.writeOtp_keeps)
    | decide
    | split
    | dsimp only
    | dsimp +zetaDelta only

theorem partReadyReportOp_keeps {m_ : Nat} {s_ : State} (part : Nat) (s : State) (hm_ : (m_ ||| 0x2E800) = m_) (h_ : State.Keeps m_ s_ s) : State.Keeps m_ s_ (partReadyReportOp part s) := by
  refine State.Keeps.step (m1 := 0x2E800) ?_ hm_ h_
  unfold partReadyReportOp
  repeat' first
    | (intro _)
    | (with_reducible exact State.Keeps.refl _ _)
    | (with_reducible assumption)
    | (with_reducible apply State.Keeps.ite)
    | (with_reducible apply State.rotate_keeps)
    | (with_reducible apply State.onStw_keeps)
    | (with_reducible apply State.restartPart_keeps)
    | (with_reducible apply State.Keeps.ofPair (by with_reducible assumption))
    | decide
    | extract_lets
    | split
    | dsimp only
    | dsimp +zetaDelta only

theorem activationReadyTimeoutOp_keeps {m_ : Nat} {s_ : State} (part : Nat) (s : State) (hm_ : (m_ ||| 0xC000) = m_) (h_ : State.Keeps m_ s_ s) : State.Keeps m_ s_ (activationReadyTimeoutOp part s) := by
  refine State.Keeps.step (m1 := 0xC000) ?_ hm_ h_
  unfold activationReadyTimeoutOp
  repeat' first
    | (intro _)
    | (with_reducible exact State.Keeps.refl _ _)
    | (with_reducible assumption)
    | (with_reducible apply State.Keeps.ite)
    | (with_reducible apply State.onAos_keeps)
    | (with_reducible apply State.logUpd_keeps)
    | (with_reducible apply State.raise_keeps)
    | (with_reducible apply State.setUpd_keeps)
    | (with_reducible apply State.Keeps.ofPair (by with_reducible assumption))
    | decide
    | split
    | dsimp only
    | dsimp +zetaDelta only

theorem otpBurnCompleteOp_keeps {m_ : Nat} {s_ : State} (ok : Bool) (s : State) (hm_ : (m_ ||| 0xC000) = m_) (h_ : State.Keeps m_ s_ s) : State.Keeps m_ s_ (otpBurnCompleteOp ok s) := by
  refine State.Keeps.step (m1 := 0xC000) ?_ hm_ h_
  unfold otpBurnCompleteOp
  repeat' first
    | (intro _)
    | (with_reducible exact State.Keeps.refl _ _)
    | (with_reducible assumption)
    | (with_reducible apply State.Keeps.ite)
    | (with_reducible apply State.onAos_keeps)
    | (with_reducible apply State.logUpd_keeps)
    | (with_reducible apply State.raise_keeps)
    | (with_reducible apply State.setUpd_keeps)
    | (with_reducible apply State.Keeps.ofPair (by with_reducible assumption))
    | decide
    | split
    | dsimp only
    | dsimp +zetaDelta only

end Sys2Proof.Machine
end

