-- ==== Sys2Proof/Laws/FrameSideband.lean ====
section
/-! SUPPORT. The frame of each operation of Machine/Sideband.lean: the blocks of the state that it may change (Laws/Keeps.lean). -/

set_option Elab.async false

namespace Sys2Proof.Machine

theorem State.request_keeps {m_ : Nat} {s_ : State} (s : State) (f : State → State) (hm_ : (m_ ||| 0x6FAF9) = m_) (h_ : State.Keeps m_ s_ s) (hf_ : ∀ u, State.Keeps m_ s_ u → State.Keeps m_ s_ (f u)) : State.Keeps m_ s_ (State.request s f) := by
  unfold State.request
  repeat' first
    | (intro _)
    | (with_reducible exact State.Keeps.refl _ _)
    | (with_reducible assumption)
    | (with_reducible apply hf_)
    | (with_reducible apply State.Keeps.ite)
    | (with_reducible apply State.wakeBy_keeps)
    | exact State.Keeps.sub hm_ (by decide)
    | exact State.Keeps.bit hm_ (by decide)
    | split
    | dsimp only
    | dsimp +zetaDelta only

theorem State.respond_keeps {m_ : Nat} {s_ : State} (s : State) (l : List Byte) (hm_ : (m_ ||| 0x20000) = m_) (h_ : State.Keeps m_ s_ s) : State.Keeps m_ s_ (State.respond s l) := by
  refine State.Keeps.step (m1 := 0x20000) ?_ hm_ h_
  unfold State.respond
  repeat' first
    | (intro _)
    | (with_reducible exact State.Keeps.refl _ _)
    | (with_reducible assumption)
    | (with_reducible apply State.emit_keeps)
    | decide
    | split
    | dsimp only
    | dsimp +zetaDelta only

theorem State.respondOpen_keeps {m_ : Nat} {s_ : State} (s : State) (pre : List Byte) (n : Nat) (hm_ : (m_ ||| 0x60000) = m_) (h_ : State.Keeps m_ s_ s) : State.Keeps m_ s_ (State.respondOpen s pre n) := by
  refine State.Keeps.step (m1 := 0x60000) ?_ hm_ h_
  unfold State.respondOpen
  repeat' first
    | (intro _)
    | (with_reducible exact State.Keeps.refl _ _)
    | (with_reducible assumption)
    | (with_reducible apply State.respond_keeps)
    | (with_reducible apply State.draw_keeps)
    | (with_reducible apply State.Keeps.ofPair (by with_reducible assumption))
    | (with_reducible apply State.Keeps.ofPair2 (by with_reducible assumption))
    | decide
    | extract_lets
    | split
    | dsimp only
    | dsimp +zetaDelta only

theorem State.refreshRecords_keeps {m_ : Nat} {s_ : State} (s : State) (hm_ : (m_ ||| 0xA000) = m_) (h_ : State.Keeps m_ s_ s) : State.Keeps m_ s_ (State.refreshRecords s) := by
  refine State.Keeps.step (m1 := 0xA000) ?_ hm_ h_
  unfold State.refreshRecords
  repeat' first
    | (intro _)
    | (with_reducible exact State.Keeps.refl _ _)
    | (with_reducible assumption)
    | (with_reducible apply State.Keeps.ite)
    | (with_reducible apply State.onHost_keeps)
    | (with_reducible apply State.alert_keeps)
    | (with_reducible apply State.Keeps.foldl)
    | (with_reducible apply State.Keeps.foldlFst)
    | decide
    | extract_lets
    | split
    | dsimp only
    | dsimp +zetaDelta only

theorem State.aosAnswer_keeps {m_ : Nat} {s_ : State} (s : State) (op : Nat) (st : Nat) (data : List Byte) (hm_ : (m_ ||| 0x20000) = m_) (h_ : State.Keeps m_ s_ s) : State.Keeps m_ s_ (State.aosAnswer s op st data) := by
  refine State.Keeps.step (m1 := 0x20000) ?_ hm_ h_
  unfold State.aosAnswer
  repeat' first
    | (intro _)
    | (with_reducible exact State.Keeps.refl _ _)
    | (with_reducible assumption)
    | (with_reducible apply State.respond_keeps)
    | decide
    | split
    | dsimp only
    | dsimp +zetaDelta only

theorem State.aosInvalid_keeps {m_ : Nat} {s_ : State} (s : State) (op : Nat) (hm_ : (m_ ||| 0x20000) = m_) (h_ : State.Keeps m_ s_ s) : State.Keeps m_ s_ (State.aosInvalid s op) := by
  refine State.Keeps.step (m1 := 0x20000) ?_ hm_ h_
  unfold State.aosInvalid
  repeat' first
    | (intro _)
    | (with_reducible exact State.Keeps.refl _ _)
    | (with_reducible assumption)
    | (with_reducible apply State.respond_keeps)
    | decide
    | split
    | dsimp only
    | dsimp +zetaDelta only

theorem State.aosOp_keeps {m_ : Nat} {s_ : State} (s : State) (smbus : Bool) (op : Nat) (destructive : Bool) (f : State → Option (State × Nat)) (hm_ : (m_ ||| 0x6FAF9) = m_) (h_ : State.Keeps m_ s_ s) (hf_ : ∀ u, State.Keeps m_ s_ u → State.Keeps.OptP m_ s_ (f u)) : State.Keeps m_ s_ (State.aosOp s smbus op destructive f) := by
  unfold State.aosOp
  repeat' first
    | (intro _)
    | (with_reducible exact State.Keeps.refl _ _)
    | (with_reducible assumption)
    | (with_reducible apply hf_)
    | (with_reducible apply State.Keeps.ite)
    | (with_reducible apply State.aosAnswer_keeps)
    | (with_reducible apply State.wakeBy_keeps)
    | (with_reducible apply State.aosInvalid_keeps)
    | (with_reducible exact State.Keeps.optS_none)
    | (with_reducible apply State.Keeps.optS_some)
    | (with_reducible exact State.Keeps.optP_none)
    | (with_reducible apply State.Keeps.optP_some)
    | (with_reducible exact State.Keeps.exS_error)
    | (with_reducible apply State.Keeps.exS_ok)
    | (with_reducible apply State.Keeps.ofOptP (by with_reducible assumption))
    | (with_reducible apply State.Keeps.ofOptP1 (by with_reducible assumption))
    | exact State.Keeps.sub hm_ (by decide)
    | exact State.Keeps.bit hm_ (by decide)
    | extract_lets
    | split
    | dsimp only
    | dsimp +zetaDelta only

theorem State.fenceSteward_keeps {m_ : Nat} {s_ : State} (s : State) (hm_ : (m_ ||| 0x6E8E4) = m_) (h_ : State.Keeps m_ s_ s) : State.Keeps m_ s_ (State.fenceSteward s) := by
  refine State.Keeps.step (m1 := 0x6E8E4) ?_ hm_ h_
  unfold State.fenceSteward
  repeat' first
    | (intro _)
    | (with_reducible exact State.Keeps.refl _ _)
    | (with_reducible assumption)
    | (with_reducible apply State.Keeps.ite)
    | (with_reducible apply State.enterFault_keeps)
    | (with_reducible apply State.takeover_keeps)
    | decide
    | split
    | dsimp only
    | dsimp +zetaDelta only

theorem State.fenceManager_keeps {m_ : Nat} {s_ : State} (s : State) (hm_ : (m_ ||| 0x1001) = m_) (h_ : State.Keeps m_ s_ s) : State.Keeps m_ s_ (State.fenceManager s) := by
  refine State.Keeps.step (m1 := 0x1001) ?_ hm_ h_
  unfold State.fenceManager
  repeat' first
    | (intro _)
    | (with_reducible exact State.Keeps.refl _ _)
    | (with_reducible assumption)
    | (with_reducible apply State.Keeps.ite)
    | (with_reducible apply State.leaveDuties_keeps)
    | decide
    | split
    | dsimp only
    | dsimp +zetaDelta only

theorem State.fenceOp_keeps {m_ : Nat} {s_ : State} (s : State) (kind : Nat) (idx : Nat) (hm_ : (m_ ||| 0x6F8FD) = m_) (h_ : State.Keeps m_ s_ s) : State.Keeps.OptP m_ s_ (State.fenceOp s kind idx) := by
  unfold State.fenceOp
  repeat' first
    | (intro _)
    | (with_reducible exact State.Keeps.refl _ _)
    | (with_reducible assumption)
    | (with_reducible apply State.Keeps.iteFst)
    | (with_reducible apply State.Keeps.ite)
    | (with_reducible apply State.fenceSteward_keeps)
    | (with_reducible apply State.arrayFence_keeps)
    | (with_reducible apply State.fullFence_keeps)
    | (with_reducible apply State.fenceManager_keeps)
    | (with_reducible apply State.logOp_keeps)
    | (with_reducible apply State.beginReset_keeps)
    | (with_reducible apply State.onGlv_keeps)
    | (with_reducible apply State.fenceLink_keeps)
    | (with_reducible apply State.Keeps.ofPair (by with_reducible assumption))
    | (with_reducible exact State.Keeps.optS_none)
    | (with_reducible apply State.Keeps.optS_some)
    | (with_reducible exact State.Keeps.optP_none)
    | (with_reducible apply State.Keeps.optP_some)
    | (with_reducible exact State.Keeps.exS_error)
    | (with_reducible apply State.Keeps.exS_ok)
    | exact State.Keeps.sub hm_ (by decide)
    | exact State.Keeps.bit hm_ (by decide)
    | split
    | dsimp only
    | dsimp +zetaDelta only

theorem setEndpointIdOp_keeps {m_ : Nat} {s_ : State} (eid : Byte) (s : State) (hm_ : (m_ ||| 0x6FAF9) = m_) (h_ : State.Keeps m_ s_ s) : State.Keeps m_ s_ (setEndpointIdOp eid s) := by
  refine State.Keeps.step (m1 := 0x6FAF9) ?_ hm_ h_
  unfold setEndpointIdOp
  repeat' first
    | (intro _)
    | (with_reducible exact State.Keeps.refl _ _)
    | (with_reducible assumption)
    | (with_reducible apply State.Keeps.ite)
    | (with_reducible apply State.respond_keeps)
    | (with_reducible apply State.request_keeps)
    | (with_reducible apply State.onHost_keeps)
    | decide
    | split
    | dsimp only
    | dsimp +zetaDelta only

theorem getEndpointIdOp_keeps {m_ : Nat} {s_ : State} (s : State) (hm_ : (m_ ||| 0x6FAF9) = m_) (h_ : State.Keeps m_ s_ s) : State.Keeps m_ s_ (getEndpointIdOp s) := by
  refine State.Keeps.step (m1 := 0x6FAF9) ?_ hm_ h_
  unfold getEndpointIdOp
  repeat' first
    | (intro _)
    | (with_reducible exact State.Keeps.refl _ _)
    | (with_reducible assumption)
    | (with_reducible apply State.respond_keeps)
    | (with_reducible apply State.request_keeps)
    | decide
    | split
    | dsimp only
    | dsimp +zetaDelta only

theorem getMctpVersionSupportOp_keeps {m_ : Nat} {s_ : State} (type : Byte) (s : State) (hm_ : (m_ ||| 0x6FAF9) = m_) (h_ : State.Keeps m_ s_ s) : State.Keeps m_ s_ (getMctpVersionSupportOp type s) := by
  refine State.Keeps.step (m1 := 0x6FAF9) ?_ hm_ h_
  unfold getMctpVersionSupportOp
  repeat' first
    | (intro _)
    | (with_reducible exact State.Keeps.refl _ _)
    | (with_reducible assumption)
    | (with_reducible apply State.Keeps.ite)
    | (with_reducible apply State.respondOpen_keeps)
    | (with_reducible apply State.respond_keeps)
    | (with_reducible apply State.request_keeps)
    | decide
    | split
    | dsimp only
    | dsimp +zetaDelta only

theorem getMessageTypeSupportOp_keeps {m_ : Nat} {s_ : State} (s : State) (hm_ : (m_ ||| 0x6FAF9) = m_) (h_ : State.Keeps m_ s_ s) : State.Keeps m_ s_ (getMessageTypeSupportOp s) := by
  refine State.Keeps.step (m1 := 0x6FAF9) ?_ hm_ h_
  unfold getMessageTypeSupportOp
  repeat' first
    | (intro _)
    | (with_reducible exact State.Keeps.refl _ _)
    | (with_reducible assumption)
    | (with_reducible apply State.respond_keeps)
    | (with_reducible apply State.request_keeps)
    | decide
    | split
    | dsimp only
    | dsimp +zetaDelta only

theorem getVendorDefinedMessageSupportOp_keeps {m_ : Nat} {s_ : State} (sel : Byte) (s : State) (hm_ : (m_ ||| 0x6FAF9) = m_) (h_ : State.Keeps m_ s_ s) : State.Keeps m_ s_ (getVendorDefinedMessageSupportOp sel s) := by
  refine State.Keeps.step (m1 := 0x6FAF9) ?_ hm_ h_
  unfold getVendorDefinedMessageSupportOp
  repeat' first
    | (intro _)
    | (with_reducible exact State.Keeps.refl _ _)
    | (with_reducible assumption)
    | (with_reducible apply State.Keeps.ite)
    | (with_reducible apply State.respondOpen_keeps)
    | (with_reducible apply State.request_keeps)
    | (with_reducible apply State.respond_keeps)
    | decide
    | split
    | dsimp only
    | dsimp +zetaDelta only

theorem getRecordOp_keeps {m_ : Nat} {s_ : State} (ident : Byte) (s : State) (hm_ : (m_ ||| 0x6FAF9) = m_) (h_ : State.Keeps m_ s_ s) : State.Keeps m_ s_ (getRecordOp ident s) := by
  refine State.Keeps.step (m1 := 0x6FAF9) ?_ hm_ h_
  unfold getRecordOp
  repeat' first
    | (intro _)
    | (with_reducible exact State.Keeps.refl _ _)
    | (with_reducible assumption)
    | (with_reducible apply State.Keeps.ite)
    | (with_reducible apply State.request_keeps)
    | (with_reducible apply State.respond_keeps)
    | decide
    | extract_lets
    | split
    | dsimp only
    | dsimp +zetaDelta only

theorem getAlertsOp_keeps {m_ : Nat} {s_ : State} (events : Word) (s : State) (hm_ : (m_ ||| 0x6FAF9) = m_) (h_ : State.Keeps m_ s_ s) : State.Keeps m_ s_ (getAlertsOp events s) := by
  refine State.Keeps.step (m1 := 0x6FAF9) ?_ hm_ h_
  unfold getAlertsOp
  repeat' first
    | (intro _)
    | (with_reducible exact State.Keeps.refl _ _)
    | (with_reducible assumption)
    | (with_reducible apply State.setReg_keeps)
    | (with_reducible apply State.request_keeps)
    | (with_reducible apply State.respond_keeps)
    | decide
    | extract_lets
    | split
    | dsimp only
    | dsimp +zetaDelta only

theorem setAlertMaskOp_keeps {m_ : Nat} {s_ : State} (mask : Word) (s : State) (hm_ : (m_ ||| 0x6FAF9) = m_) (h_ : State.Keeps m_ s_ s) : State.Keeps m_ s_ (setAlertMaskOp mask s) := by
  refine State.Keeps.step (m1 := 0x6FAF9) ?_ hm_ h_
  unfold setAlertMaskOp
  repeat' first
    | (intro _)
    | (with_reducible exact State.Keeps.refl _ _)
    | (with_reducible assumption)
    | (with_reducible apply State.setReg_keeps)
    | (with_reducible apply State.respond_keeps)
    | (with_reducible apply State.request_keeps)
    | decide
    | split
    | dsimp only
    | dsimp +zetaDelta only

theorem aosReadOp_keeps {m_ : Nat} {s_ : State} (s : State) (hm_ : (m_ ||| 0x6FAF9) = m_) (h_ : State.Keeps m_ s_ s) : State.Keeps m_ s_ (aosReadOp s) := by
  refine State.Keeps.step (m1 := 0x6FAF9) ?_ hm_ h_
  unfold aosReadOp
  repeat' first
    | (intro _)
    | (with_reducible exact State.Keeps.refl _ _)
    | (with_reducible assumption)
    | (with_reducible apply State.request_keeps)
    | (with_reducible apply State.logOp_keeps)
    | (with_reducible apply State.aosAnswer_keeps)
    | decide
    | split
    | dsimp only
    | dsimp +zetaDelta only

theorem tripOp_keeps {m_ : Nat} {s_ : State} (smbus : Bool) (s : State) (hm_ : (m_ ||| 0x7FFFD) = m_) (h_ : State.Keeps m_ s_ s) : State.Keeps m_ s_ (tripOp smbus s) := by
  refine State.Keeps.step (m1 := 0x7FFFD) ?_ hm_ h_
  unfold tripOp
  repeat' first
    | (intro _)
    | (with_reducible exact State.Keeps.refl _ _)
    | (with_reducible assumption)
    | (with_reducible apply State.takeTrip_keeps)
    | (with_reducible apply State.logOp_keeps)
    | (with_reducible apply State.aosOp_keeps)
    | (with_reducible apply State.Keeps.ofPair (by with_reducible assumption))
    | (with_reducible exact State.Keeps.optS_none)
    | (with_reducible apply State.Keeps.optS_some)
    | (with_reducible exact State.Keeps.optP_none)
    | (with_reducible apply State.Keeps.optP_some)
    | (with_reducible exact State.Keeps.exS_error)
    | (with_reducible apply State.Keeps.exS_ok)
    | decide
    | split
    | dsimp only
    | dsimp +zetaDelta only

theorem fenceOp_keeps {m_ : Nat} {s_ : State} (smbus : Bool) (kind : Byte) (idx : BitVec 16) (s : State) (hm_ : (m_ ||| 0x6FAFD) = m_) (h_ : State.Keeps m_ s_ s) : State.Keeps m_ s_ (fenceOp smbus kind idx s) := by
  refine State.Keeps.step (m1 := 0x6FAFD) ?_ hm_ h_
  unfold fenceOp
  repeat' first
    | (intro _)
    | (with_reducible exact State.Keeps.refl _ _)
    | (with_reducible assumption)
    | (with_reducible apply State.aosOp_keeps)
    | (with_reducible apply State.fenceOp_keeps)
    | (with_reducible exact State.Keeps.optS_none)
    | (with_reducible apply State.Keeps.optS_some)
    | (with_reducible exact State.Keeps.optP_none)
    | (with_reducible apply State.Keeps.optP_some)
    | (with_reducible exact State.Keeps.exS_error)
    | (with_reducible apply State.Keeps.exS_ok)
    | (with_reducible apply State.Keeps.ofOptP (by with_reducible assumption))
    | (with_reducible apply State.Keeps.ofOptP1 (by with_reducible assumption))
    | decide
    | split
    | dsimp only
    | dsimp +zetaDelta only

theorem eraseOp_keeps {m_ : Nat} {s_ : State} (smbus : Bool) (slot : Byte) (s : State) (hm_ : (m_ ||| 0x6FEF9) = m_) (h_ : State.Keeps m_ s_ s) : State.Keeps m_ s_ (eraseOp smbus slot s) := by
  refine State.Keeps.step (m1 := 0x6FEF9) ?_ hm_ h_
  unfold eraseOp
  repeat' first
    | (intro _)
    | (with_reducible exact State.Keeps.refl _ _)
    | (with_reducible assumption)
    | (with_reducible apply State.Keeps.ite)
    | (with_reducible apply State.logOp_keeps)
    | (with_reducible apply State.eraseKey_keeps)
    | (with_reducible apply State.aosOp_keeps)
    | (with_reducible apply State.Keeps.ofPair (by with_reducible assumption))
    | (with_reducible exact State.Keeps.optS_none)
    | (with_reducible apply State.Keeps.optS_some)
    | (with_reducible exact State.Keeps.optP_none)
    | (with_reducible apply State.Keeps.optP_some)
    | (with_reducible exact State.Keeps.exS_error)
    | (with_reducible apply State.Keeps.exS_ok)
    | decide
    | split
    | dsimp only
    | dsimp +zetaDelta only

theorem resetOp_keeps {m_ : Nat} {s_ : State} (smbus : Bool) (cold : Byte) (s : State) (hm_ : (m_ ||| 0x7FFFD) = m_) (h_ : State.Keeps m_ s_ s) : State.Keeps m_ s_ (resetOp smbus cold s) := by
  refine State.Keeps.step (m1 := 0x7FFFD) ?_ hm_ h_
  unfold resetOp
  repeat' first
    | (intro _)
    | (with_reducible exact State.Keeps.refl _ _)
    | (with_reducible assumption)
    | (with_reducible apply State.Keeps.ite)
    | (with_reducible apply State.logOp_keeps)
    | (with_reducible apply State.aosOp_keeps)
    | (with_reducible apply State.resetCause_keeps)
    | (with_reducible apply State.Keeps.ofPair (by with_reducible assumption))
    | (with_reducible exact State.Keeps.optS_none)
    | (with_reducible apply State.Keeps.optS_some)
    | (with_reducible exact State.Keeps.optP_none)
    | (with_reducible apply State.Keeps.optP_some)
    | (with_reducible exact State.Keeps.exS_error)
    | (with_reducible apply State.Keeps.exS_ok)
    | decide
    | split
    | dsimp only
    | dsimp +zetaDelta only

theorem aosReportOp_keeps {m_ : Nat} {s_ : State} (s : State) (hm_ : (m_ ||| 0x6FAF9) = m_) (h_ : State.Keeps m_ s_ s) : State.Keeps m_ s_ (aosReportOp s) := by
  refine State.Keeps.step (m1 := 0x6FAF9) ?_ hm_ h_
  unfold aosReportOp
  repeat' first
    | (intro _)
    | (with_reducible exact State.Keeps.refl _ _)
    | (with_reducible assumption)
    | (with_reducible apply State.sendReport_keeps)
    | (with_reducible apply State.aosOp_keeps)
    | (with_reducible exact State.Keeps.optS_none)
    | (with_reducible apply State.Keeps.optS_some)
    | (with_reducible exact State.Keeps.optP_none)
    | (with_reducible apply State.Keeps.optP_some)
    | (with_reducible exact State.Keeps.exS_error)
    | (with_reducible apply State.Keeps.exS_ok)
    | decide
    | split
    | dsimp only
    | dsimp +zetaDelta only

theorem recordRefreshOp_keeps {m_ : Nat} {s_ : State} (s : State) (hm_ : (m_ ||| 0xA000) = m_) (h_ : State.Keeps m_ s_ s) : State.Keeps m_ s_ (recordRefreshOp s) := by
  refine State.Keeps.step (m1 := 0xA000) ?_ hm_ h_
  unfold recordRefreshOp
  repeat' first
    | (intro _)
    | (with_reducible exact State.Keeps.refl _ _)
    | (with_reducible assumption)
    | (with_reducible apply State.Keeps.ite)
    | (with_reducible apply State.refreshRecords_keeps)
    | decide
    | split
    | dsimp only
    | dsimp +zetaDelta only

theorem smbusAddressResolutionOp_keeps {m_ : Nat} {s_ : State} (addr : BitVec 7) (s : State) (hm_ : (m_ ||| 0x6FAF9) = m_) (h_ : State.Keeps m_ s_ s) : State.Keeps m_ s_ (smbusAddressResolutionOp addr s) := by
  refine State.Keeps.step (m1 := 0x6FAF9) ?_ hm_ h_
  unfold smbusAddressResolutionOp
  repeat' first
    | (intro _)
    | (with_reducible exact State.Keeps.refl _ _)
    | (with_reducible assumption)
    | (with_reducible apply State.request_keeps)
    | (with_reducible apply State.onHost_keeps)
    | decide
    | split
    | dsimp only
    | dsimp +zetaDelta only

theorem rasDrainWriteOp_keeps {m_ : Nat} {s_ : State} (half : Half) (val : Word) (s : State) (hm_ : (m_ ||| 0x8004) = m_) (h_ : State.Keeps m_ s_ s) : State.Keeps m_ s_ (rasDrainWriteOp half val s) := by
  refine State.Keeps.step (m1 := 0x8004) ?_ hm_ h_
  unfold rasDrainWriteOp
  repeat' first
    | (intro _)
    | (with_reducible exact State.Keeps.refl _ _)
    | (with_reducible assumption)
    | (with_reducible apply State.Keeps.ite)
    | (with_reducible apply State.setReg_keeps)
    | (with_reducible apply State.judgeMod_keeps)
    | (with_reducible apply State.toMode_keeps)
    | (with_reducible apply State.Keeps.ofPair (by with_reducible assumption))
    | decide
    | extract_lets
    | split
    | dsimp only
    | dsimp +zetaDelta only

theorem aosStewardWatchLapseOp_keeps {m_ : Nat} {s_ : State} (s : State) (hm_ : (m_ ||| 0x6FAFD) = m_) (h_ : State.Keeps m_ s_ s) : State.Keeps m_ s_ (aosStewardWatchLapseOp s) := by
  refine State.Keeps.step (m1 := 0x6FAFD) ?_ hm_ h_
  unfold aosStewardWatchLapseOp
  repeat' first
    | (intro _)
    | (with_reducible exact State.Keeps.refl _ _)
    | (with_reducible assumption)
    | (with_reducible apply State.Keeps.ite)
    | (with_reducible apply State.aosOp_keeps)
    | (with_reducible apply State.fenceOp_keeps)
    | (with_reducible apply fenceOp_keeps)
    | (with_reducible exact State.Keeps.optS_none)
    | (with_reducible apply State.Keeps.optS_some)
    | (with_reducible exact State.Keeps.optP_none)
    | (with_reducible apply State.Keeps.optP_some)
    | (with_reducible exact State.Keeps.exS_error)
    | (with_reducible apply State.Keeps.exS_ok)
    | (with_reducible apply State.Keeps.ofOptP (by with_reducible assumption))
    | (with_reducible apply State.Keeps.ofOptP1 (by with_reducible assumption))
    | decide
    | split
    | dsimp only
    | dsimp +zetaDelta only

theorem aosManagerWatchLapseOp_keeps {m_ : Nat} {s_ : State} (s : State) (hm_ : (m_ ||| 0x6FAFD) = m_) (h_ : State.Keeps m_ s_ s) : State.Keeps m_ s_ (aosManagerWatchLapseOp s) := by
  refine State.Keeps.step (m1 := 0x6FAFD) ?_ hm_ h_
  unfold aosManagerWatchLapseOp
  repeat' first
    | (intro _)
    | (with_reducible exact State.Keeps.refl _ _)
    | (with_reducible assumption)
    | (with_reducible apply State.Keeps.ite)
    | (with_reducible apply State.aosOp_keeps)
    | (with_reducible apply State.fenceOp_keeps)
    | (with_reducible apply fenceOp_keeps)
    | (with_reducible exact State.Keeps.optS_none)
    | (with_reducible apply State.Keeps.optS_some)
    | (with_reducible exact State.Keeps.optP_none)
    | (with_reducible apply State.Keeps.optP_some)
    | (with_reducible exact State.Keeps.exS_error)
    | (with_reducible apply State.Keeps.exS_ok)
    | (with_reducible apply State.Keeps.ofOptP (by with_reducible assumption))
    | (with_reducible apply State.Keeps.ofOptP1 (by with_reducible assumption))
    | decide
    | split
    | dsimp only
    | dsimp +zetaDelta only

end Sys2Proof.Machine
end

