-- ==== Sys2Proof/Laws/FrameRegisters.lean ====
section
/-! SUPPORT. The frame of each operation of Machine/Registers.lean: the blocks of the state that it may change (Laws/Keeps.lean). -/

set_option Elab.async false

namespace Sys2Proof.Machine

theorem State.writeW1c_keeps {m_ : Nat} {s_ : State} (s : State) (a : Nat) (h : Half) (v : Word) (events : Word) (hm_ : (m_ ||| 0x6F8FC) = m_) (h_ : State.Keeps m_ s_ s) : State.Keeps m_ s_ (State.writeW1c s a h v events) := by
  refine State.Keeps.step (m1 := 0x6F8FC) ?_ hm_ h_
  unfold State.writeW1c
  repeat' first
    | (intro _)
    | (with_reducible exact State.Keeps.refl _ _)
    | (with_reducible assumption)
    | (with_reducible apply State.Keeps.ite)
    | (with_reducible apply State.setReg_keeps)
    | (with_reducible apply State.fullFence_keeps)
    | (with_reducible apply State.onDie_keeps)
    | (with_reducible apply State.raiseMask_keeps)
    | decide
    | extract_lets
    | split
    | dsimp only
    | dsimp +zetaDelta only

theorem State.writePlain_keeps {m_ : Nat} {s_ : State} (s : State) (a : Nat) (h : Half) (v : Word) (hm_ : (m_ ||| 0x8100) = m_) (h_ : State.Keeps m_ s_ s) : State.Keeps m_ s_ (State.writePlain s a h v) := by
  refine State.Keeps.step (m1 := 0x8100) ?_ hm_ h_
  unfold State.writePlain
  repeat' first
    | (intro _)
    | (with_reducible exact State.Keeps.refl _ _)
    | (with_reducible assumption)
    | (with_reducible apply State.Keeps.ite)
    | (with_reducible apply State.setReg_keeps)
    | (with_reducible apply State.onLedger_keeps)
    | (with_reducible apply State.Keeps.ofPair (by with_reducible assumption))
    | decide
    | extract_lets
    | split
    | dsimp only
    | dsimp +zetaDelta only

theorem State.writeMsix_keeps {m_ : Nat} {s_ : State} (s : State) (f : Nat) (v : Nat) (w : Nat) (h : Half) (val : Word) (hm_ : (m_ ||| 0x2A000) = m_) (h_ : State.Keeps m_ s_ s) : State.Keeps m_ s_ (State.writeMsix s f v w h val) := by
  refine State.Keeps.step (m1 := 0x2A000) ?_ hm_ h_
  unfold State.writeMsix
  repeat' first
    | (intro _)
    | (with_reducible exact State.Keeps.refl _ _)
    | (with_reducible assumption)
    | (with_reducible apply State.Keeps.ite)
    | (with_reducible apply State.setReg_keeps)
    | (with_reducible apply State.onHost_keeps)
    | (with_reducible apply State.emit_keeps)
    | decide
    | extract_lets
    | split
    | dsimp only
    | dsimp +zetaDelta only

theorem State.writeActl_keeps {m_ : Nat} {s_ : State} (s : State) (h : Half) (v : Word) (hm_ : (m_ ||| 0x4C000) = m_) (h_ : State.Keeps m_ s_ s) : State.Keeps m_ s_ (State.writeActl s h v) := by
  refine State.Keeps.step (m1 := 0x4C000) ?_ hm_ h_
  unfold State.writeActl
  repeat' first
    | (intro _)
    | (with_reducible exact State.Keeps.refl _ _)
    | (with_reducible assumption)
    | (with_reducible apply State.spend_keeps)
    | (with_reducible apply secActlGoOp_keeps)
    | (with_reducible apply State.Keeps.foldl)
    | (with_reducible apply State.Keeps.foldlFst)
    | (with_reducible apply State.Keeps.ofPair (by with_reducible assumption))
    | decide
    | extract_lets
    | split
    | dsimp only
    | dsimp +zetaDelta only

theorem State.writeLow_keeps {m_ : Nat} {s_ : State} (s : State) (a : Nat) (h : Half) (v : Word) (hm_ : (m_ ||| 0x7FFFD) = m_) (h_ : State.Keeps m_ s_ s) : State.Keeps m_ s_ (State.writeLow s a h v) := by
  refine State.Keeps.step (m1 := 0x7FFFD) ?_ hm_ h_
  unfold State.writeLow
  repeat' first
    | (intro _)
    | (with_reducible exact State.Keeps.refl _ _)
    | (with_reducible assumption)
    | (with_reducible apply State.Keeps.ite)
    | (with_reducible apply State.writeCqCfg_keeps)
    | (with_reducible apply State.writePlain_keeps)
    | (with_reducible apply stwQidxWriteOp_keeps)
    | (with_reducible apply aosRstreqWriteOp_keeps)
    | (with_reducible apply State.writeCqHead_keeps)
    | (with_reducible apply State.writeMsix_keeps)
    | (with_reducible apply State.writeCrCfg_keeps)
    | (with_reducible apply State.writeActl_keeps)
    | (with_reducible apply stwGcfgWriteOp_keeps)
    | decide
    | split
    | dsimp only
    | dsimp +zetaDelta only

theorem State.writeDie_keeps {m_ : Nat} {s_ : State} (s : State) (a : Nat) (h : Half) (v : Word) (hm_ : (m_ ||| 0x8120) = m_) (h_ : State.Keeps m_ s_ s) : State.Keeps m_ s_ (State.writeDie s a h v) := by
  refine State.Keeps.step (m1 := 0x8120) ?_ hm_ h_
  unfold State.writeDie
  repeat' first
    | (intro _)
    | (with_reducible exact State.Keeps.refl _ _)
    | (with_reducible assumption)
    | (with_reducible apply State.Keeps.ite)
    | (with_reducible apply arvCntWriteOp_keeps)
    | (with_reducible apply State.writePlain_keeps)
    | (with_reducible apply wkcWriteOp_keeps)
    | decide
    | extract_lets
    | split
    | dsimp only
    | dsimp +zetaDelta only

theorem State.writeIod_keeps {m_ : Nat} {s_ : State} (s : State) (a : Nat) (h : Half) (v : Word) (hm_ : (m_ ||| 0x39904) = m_) (h_ : State.Keeps m_ s_ s) : State.Keeps m_ s_ (State.writeIod s a h v) := by
  refine State.Keeps.step (m1 := 0x39904) ?_ hm_ h_
  unfold State.writeIod
  repeat' first
    | (intro _)
    | (with_reducible exact State.Keeps.refl _ _)
    | (with_reducible assumption)
    | (with_reducible apply State.Keeps.ite)
    | (with_reducible apply State.writePlain_keeps)
    | (with_reducible apply rasDrainWriteOp_keeps)
    | (with_reducible apply mgrCfgLockOp_keeps)
    | (with_reducible apply lnkEnableWriteOp_keeps)
    | decide
    | extract_lets
    | split
    | dsimp only
    | dsimp +zetaDelta only

theorem State.writeReg_keeps {m_ : Nat} {s_ : State} (s : State) (a : Nat) (h : Half) (v : Word) (hm_ : (m_ ||| 0x7FFFD) = m_) (h_ : State.Keeps m_ s_ s) : State.Keeps m_ s_ (State.writeReg s a h v) := by
  refine State.Keeps.step (m1 := 0x7FFFD) ?_ hm_ h_
  unfold State.writeReg
  repeat' first
    | (intro _)
    | (with_reducible exact State.Keeps.refl _ _)
    | (with_reducible assumption)
    | (with_reducible apply State.Keeps.ite)
    | (with_reducible apply State.writeDie_keeps)
    | (with_reducible apply State.writeLow_keeps)
    | (with_reducible apply State.writeIod_keeps)
    | (with_reducible apply State.writeW1c_keeps)
    | decide
    | split
    | dsimp only
    | dsimp +zetaDelta only

theorem State.writeVf_keeps {m_ : Nat} {s_ : State} (s : State) (f : Nat) (o : Nat) (h : Half) (v : Word) (hm_ : (m_ ||| 0x6A9E0) = m_) (h_ : State.Keeps m_ s_ s) : State.Keeps m_ s_ (State.writeVf s f o h v) := by
  refine State.Keeps.step (m1 := 0x6A9E0) ?_ hm_ h_
  unfold State.writeVf
  repeat' first
    | (intro _)
    | (with_reducible exact State.Keeps.refl _ _)
    | (with_reducible assumption)
    | (with_reducible apply State.Keeps.ite)
    | (with_reducible apply State.writeCqCfg_keeps)
    | (with_reducible apply State.writePlain_keeps)
    | (with_reducible apply State.writeCqHead_keeps)
    | (with_reducible apply State.onHost_keeps)
    | (with_reducible apply State.writeMsix_keeps)
    | decide
    | extract_lets
    | split
    | dsimp only
    | dsimp +zetaDelta only

theorem registerWriteOp_keeps {m_ : Nat} {s_ : State} (func : Nat) (addr : Nat) (half : Half) (val : Word) (s : State) (hm_ : (m_ ||| 0x7FFFD) = m_) (h_ : State.Keeps m_ s_ s) : State.Keeps m_ s_ (registerWriteOp func addr half val s) := by
  refine State.Keeps.step (m1 := 0x7FFFD) ?_ hm_ h_
  unfold registerWriteOp
  repeat' first
    | (intro _)
    | (with_reducible exact State.Keeps.refl _ _)
    | (with_reducible assumption)
    | (with_reducible apply State.Keeps.ite)
    | (with_reducible apply State.writeReg_keeps)
    | (with_reducible apply State.writeVf_keeps)
    | decide
    | split
    | dsimp only
    | dsimp +zetaDelta only

theorem w1cWriteOp_keeps {m_ : Nat} {s_ : State} (addr : Nat) (half : Half) (val : Word) (events : Word) (s : State) (hm_ : (m_ ||| 0x6F8FC) = m_) (h_ : State.Keeps m_ s_ s) : State.Keeps m_ s_ (w1cWriteOp addr half val events s) := by
  refine State.Keeps.step (m1 := 0x6F8FC) ?_ hm_ h_
  unfold w1cWriteOp
  repeat' first
    | (intro _)
    | (with_reducible exact State.Keeps.refl _ _)
    | (with_reducible assumption)
    | (with_reducible apply State.Keeps.ite)
    | (with_reducible apply State.writeW1c_keeps)
    | decide
    | split
    | dsimp only
    | dsimp +zetaDelta only

end Sys2Proof.Machine
end

