-- ==== Sys2Proof/Laws/FrameRelayed.lean ====
section
/-! SUPPORT. The frame of each operation of Machine/Relayed.lean: the blocks of the state that it may change (Laws/Keeps.lean). -/

set_option Elab.async false

namespace Sys2Proof.Machine

theorem applyService_keeps {m_ : Nat} {s_ : State} (c : HostCmd) (s : State) (hm_ : (m_ ||| 0x6F8FC) = m_) (h_ : State.Keeps m_ s_ s) : State.Keeps m_ s_ (applyService c s) := by
  refine State.Keeps.step (m1 := 0x6F8FC) ?_ hm_ h_
  unfold applyService
  repeat' first
    | (intro _)
    | (with_reducible exact State.Keeps.refl _ _)
    | (with_reducible assumption)
    | (with_reducible apply serviceOpUnfenceOp_keeps)
    | (with_reducible apply serviceOpRetireOp_keeps)
    | (with_reducible apply serviceOpReturnOp_keeps)
    | (with_reducible apply serviceOpFenceOp_keeps)
    | (with_reducible apply serviceOpFormChainOp_keeps)
    | decide
    | split
    | dsimp only
    | dsimp +zetaDelta only

theorem applyKey_keeps {m_ : Nat} {s_ : State} (c : HostCmd) (s : State) (hm_ : (m_ ||| 0x6ECF0) = m_) (h_ : State.Keeps m_ s_ s) : State.Keeps m_ s_ (applyKey c s) := by
  refine State.Keeps.step (m1 := 0x6ECF0) ?_ hm_ h_
  unfold applyKey
  repeat' first
    | (intro _)
    | (with_reducible exact State.Keeps.refl _ _)
    | (with_reducible assumption)
    | (with_reducible apply State.Keeps.ite)
    | (with_reducible apply keyOpEraseOp_keeps)
    | (with_reducible apply keyOpInstallOp_keeps)
    | decide
    | split
    | dsimp only
    | dsimp +zetaDelta only

theorem applyImage_keeps {m_ : Nat} {s_ : State} (c : HostCmd) (s : State) (hm_ : (m_ ||| 0x2E800) = m_) (h_ : State.Keeps m_ s_ s) : State.Keeps m_ s_ (applyImage c s) := by
  refine State.Keeps.step (m1 := 0x2E800) ?_ hm_ h_
  unfold applyImage
  repeat' first
    | (intro _)
    | (with_reducible exact State.Keeps.refl _ _)
    | (with_reducible assumption)
    | (with_reducible apply imageOpActivateOp_keeps)
    | (with_reducible apply imageOpStageOp_keeps)
    | (with_reducible apply imageOpWriteOtpOp_keeps)
    | decide
    | split
    | dsimp only
    | dsimp +zetaDelta only

theorem applyCommand_keeps {m_ : Nat} {s_ : State} (op : Nat) (c : HostCmd) (s : State) (hm_ : (m_ ||| 0x6FEFD) = m_) (h_ : State.Keeps m_ s_ s) : State.Keeps m_ s_ (applyCommand op c s) := by
  refine State.Keeps.step (m1 := 0x6FEFD) ?_ hm_ h_
  unfold applyCommand
  repeat' first
    | (intro _)
    | (with_reducible exact State.Keeps.refl _ _)
    | (with_reducible assumption)
    | (with_reducible apply markPublicOp_keeps)
    | (with_reducible apply frameShareOp_keeps)
    | (with_reducible apply cancelOp_keeps)
    | (with_reducible apply modelSwitchinOp_keeps)
    | (with_reducible apply adapterUnloadOp_keeps)
    | (with_reducible apply modelRegisterOp_keeps)
    | (with_reducible apply routeAdmitOp_keeps)
    | (with_reducible apply adapterLoadOp_keeps)
    | (with_reducible apply State.refuse_keeps)
    | (with_reducible apply frameFreeOp_keeps)
    | (with_reducible apply modelReplaceOp_keeps)
    | (with_reducible apply lz2EnableOp_keeps)
    | (with_reducible apply resumeOp_keeps)
    | (with_reducible apply setRungOp_keeps)
    | (with_reducible apply planRemoveOp_keeps)
    | (with_reducible apply releaseOp_keeps)
    | (with_reducible apply appendOp_keeps)
    | (with_reducible apply lz2DisableOp_keeps)
    | (with_reducible apply gloveResetOp_keeps)
    | (with_reducible apply gsqStartOp_keeps)
    | (with_reducible apply setProfileOp_keeps)
    | (with_reducible apply migrateOp_keeps)
    | (with_reducible apply planInstallOp_keeps)
    | (with_reducible apply applyImage_keeps)
    | (with_reducible apply frameAllocOp_keeps)
    | (with_reducible apply gloveCreateOp_keeps)
    | (with_reducible apply stewardSwapOp_keeps)
    | (with_reducible apply setTickPeriodOp_keeps)
    | (with_reducible apply admitSeqOp_keeps)
    | (with_reducible apply identifyOp_keeps)
    | (with_reducible apply gsqWriteOp_keeps)
    | (with_reducible apply gsqStopOp_keeps)
    | (with_reducible apply applyService_keeps)
    | (with_reducible apply applyKey_keeps)
    | (with_reducible apply gloveDestroyOp_keeps)
    | (with_reducible apply modelParkOp_keeps)
    | (with_reducible apply pauseOp_keeps)
    | (with_reducible apply setRouteOp_keeps)
    | decide
    | split
    | dsimp only
    | dsimp +zetaDelta only

theorem relayedCommandOp_keeps {m_ : Nat} {s_ : State} (op : Nat) (c : HostCmd) (s : State) (hm_ : (m_ ||| 0x6FEFD) = m_) (h_ : State.Keeps m_ s_ s) : State.Keeps m_ s_ (relayedCommandOp op c s) := by
  refine State.Keeps.step (m1 := 0x6FEFD) ?_ hm_ h_
  unfold relayedCommandOp
  repeat' first
    | (intro _)
    | (with_reducible exact State.Keeps.refl _ _)
    | (with_reducible assumption)
    | (with_reducible apply State.Keeps.ite)
    | (with_reducible apply applyCommand_keeps)
    | (with_reducible apply State.newEpoch_keeps)
    | (with_reducible apply State.Keeps.ofPair (by with_reducible assumption))
    | decide
    | extract_lets
    | split
    | dsimp only
    | dsimp +zetaDelta only

end Sys2Proof.Machine
end

