-- ==== Sys2Proof/Laws/FrameEvents.lean ====
section
/-! SUPPORT. The frame of each operation of Machine/Events.lean: the blocks of the state that it may change (Laws/Keeps.lean). -/

set_option Elab.async false

namespace Sys2Proof.Machine

theorem State.freeMeters_keeps {m_ : Nat} {s_ : State} (s : State) (hm_ : (m_ ||| 0x40000) = m_) (h_ : State.Keeps m_ s_ s) : State.Keeps m_ s_ (State.freeMeters s).2 := by
  refine State.Keeps.step (m1 := 0x40000) ?_ hm_ h_
  unfold State.freeMeters
  repeat' first
    | (intro _)
    | (with_reducible exact State.Keeps.refl _ _)
    | (with_reducible assumption)
    | (with_reducible apply State.spend_keeps)
    | (with_reducible apply State.Keeps.ofPair (by with_reducible assumption))
    | decide
    | split
    | dsimp only
    | dsimp +zetaDelta only

theorem State.fire_keeps {m_ : Nat} {s_ : State} (s : State) (y0 : Event) (hm_ : (m_ ||| 0x6FBF9) = m_) (h_ : State.Keeps m_ s_ s) : State.Keeps m_ s_ (State.fire s y0) := by
  refine State.Keeps.step (m1 := 0x6FBF9) ?_ hm_ h_
  unfold State.fire
  repeat' first
    | (intro _)
    | (with_reducible exact State.Keeps.refl _ _)
    | (with_reducible assumption)
    | (with_reducible apply rungEntryAbandonOp_keeps)
    | (with_reducible apply stepCommitOp_keeps)
    | (with_reducible apply profileChangeOp_keeps)
    | (with_reducible apply exchangeRoundOpenOp_keeps)
    | (with_reducible apply faultHoldExpiryOp_keeps)
    | (with_reducible apply rungChangeOp_keeps)
    | (with_reducible apply waitTickReachedOp_keeps)
    | (with_reducible apply waitTimeoutOp_keeps)
    | (with_reducible apply exchangePhaseStartOp_keeps)
    | (with_reducible apply armedSwitchOp_keeps)
    | (with_reducible apply State.freeMeters_keeps)
    | (with_reducible apply msixModerationTimerOp_keeps)
    | (with_reducible apply cuffReleaseOp_keeps)
    | (with_reducible apply grantComputationOp_keeps)
    | (with_reducible apply ttlExpiryOp_keeps)
    | (with_reducible apply ledgerPeriodOp_keeps)
    | (with_reducible apply periodChangeOp_keeps)
    | (with_reducible apply extentTtlExpiryOp_keeps)
    | decide
    | split
    | dsimp only
    | dsimp +zetaDelta only

theorem State.fireDue_keeps {m_ : Nat} {s_ : State} (s : State) (hm_ : (m_ ||| 0x6FBF9) = m_) (h_ : State.Keeps m_ s_ s) : State.Keeps m_ s_ (State.fireDue s) := by
  refine State.Keeps.step (m1 := 0x6FBF9) ?_ hm_ h_
  unfold State.fireDue
  repeat' first
    | (intro _)
    | (with_reducible exact State.Keeps.refl _ _)
    | (with_reducible assumption)
    | (with_reducible apply State.Keeps.ite)
    | (with_reducible apply State.fire_keeps)
    | (with_reducible apply State.Keeps.foldl)
    | (with_reducible apply State.Keeps.foldlFst)
    | decide
    | split
    | dsimp only
    | dsimp +zetaDelta only

theorem State.beaconDue_keeps {m_ : Nat} {s_ : State} (s : State) (hm_ : (m_ ||| 0x60001) = m_) (h_ : State.Keeps m_ s_ s) : State.Keeps m_ s_ (State.beaconDue s) := by
  refine State.Keeps.step (m1 := 0x60001) ?_ hm_ h_
  unfold State.beaconDue
  repeat' first
    | (intro _)
    | (with_reducible exact State.Keeps.refl _ _)
    | (with_reducible assumption)
    | (with_reducible apply State.spend_keeps)
    | (with_reducible apply beaconSendOp_keeps)
    | decide
    | split
    | dsimp only
    | dsimp +zetaDelta only

theorem State.heartbeatsDue_keeps {m_ : Nat} {s_ : State} (s : State) (hm_ : (m_ ||| 0x21800) = m_) (h_ : State.Keeps m_ s_ s) : State.Keeps m_ s_ (State.heartbeatsDue s) := by
  refine State.Keeps.step (m1 := 0x21800) ?_ hm_ h_
  unfold State.heartbeatsDue
  repeat' first
    | (intro _)
    | (with_reducible exact State.Keeps.refl _ _)
    | (with_reducible assumption)
    | (with_reducible apply State.Keeps.ite)
    | (with_reducible apply stewardHeartbeatOp_keeps)
    | (with_reducible apply moduleHeartbeatOp_keeps)
    | (with_reducible apply managerHeartbeatOp_keeps)
    | decide
    | extract_lets
    | split
    | dsimp only
    | dsimp +zetaDelta only

theorem State.reportDue_keeps {m_ : Nat} {s_ : State} (s : State) (hm_ : (m_ ||| 0x2B000) = m_) (h_ : State.Keeps m_ s_ s) : State.Keeps m_ s_ (State.reportDue s) := by
  refine State.Keeps.step (m1 := 0x2B000) ?_ hm_ h_
  unfold State.reportDue
  repeat' first
    | (intro _)
    | (with_reducible exact State.Keeps.refl _ _)
    | (with_reducible assumption)
    | (with_reducible apply State.Keeps.ite)
    | (with_reducible apply State.onNet_keeps)
    | (with_reducible apply workerReportOp_keeps)
    | (with_reducible apply State.emit_keeps)
    | decide
    | extract_lets
    | split
    | dsimp only
    | dsimp +zetaDelta only

theorem State.passCorrection_keeps {m_ : Nat} {s_ : State} (s : State) (hm_ : (m_ ||| 0x20000) = m_) (h_ : State.Keeps m_ s_ s) : State.Keeps m_ s_ (State.passCorrection s) := by
  refine State.Keeps.step (m1 := 0x20000) ?_ hm_ h_
  unfold State.passCorrection
  repeat' first
    | (intro _)
    | (with_reducible exact State.Keeps.refl _ _)
    | (with_reducible assumption)
    | (with_reducible apply State.Keeps.ite)
    | (with_reducible apply State.emit_keeps)
    | decide
    | split
    | dsimp only
    | dsimp +zetaDelta only

theorem tickAdvanceOp_keeps {m_ : Nat} {s_ : State} (s : State) (hm_ : (m_ ||| 0x6FBF9) = m_) (h_ : State.Keeps m_ s_ s) : State.Keeps m_ s_ (tickAdvanceOp s) := by
  refine State.Keeps.step (m1 := 0x6FBF9) ?_ hm_ h_
  unfold tickAdvanceOp
  repeat' first
    | (intro _)
    | (with_reducible exact State.Keeps.refl _ _)
    | (with_reducible assumption)
    | (with_reducible apply State.Keeps.ite)
    | (with_reducible apply State.passCorrection_keeps)
    | (with_reducible apply State.heartbeatsDue_keeps)
    | (with_reducible apply State.fireDue_keeps)
    | (with_reducible apply State.onTick_keeps)
    | (with_reducible apply State.errWindow_keeps)
    | (with_reducible apply State.beaconDue_keeps)
    | (with_reducible apply State.reportDue_keeps)
    | decide
    | split
    | dsimp only
    | dsimp +zetaDelta only

end Sys2Proof.Machine
end

