-- ==== Sys2Proof/Laws/Only.lean ====
section
/-! SUPPORT. From the sets of Laws/Keeps.lean to the lists of blocks that claims name (Safety.lean), and what such a claim says of each block. -/

set_option Elab.async false

namespace Sys2Proof.Machine

/-- The number of a block in the sets of Laws/Keeps.lean. -/
def Block.num : Block → Nat
  | .tick => 0
  | .variant => 1
  | .mstate => 2
  | .dies => 3
  | .arr => 4
  | .seq => 5
  | .mem => 6
  | .glv => 7
  | .ledger => 8
  | .rung => 9
  | .keys => 10
  | .stw => 11
  | .net => 12
  | .host => 13
  | .aos => 14
  | .regs => 15
  | .nodeId => 16
  | .out => 17
  | .freeCtr => 18
  | .pending => 19

namespace State

/-- A set within a list of blocks. -/
theorem Keeps.only {m : Nat} {s t : State} {l : List Block} (h : Keeps m s t)
    (hl : ([.tick, .variant, .mstate, .dies, .arr, .seq, .mem, .glv, .ledger, .rung, .keys, .stw, .net, .host, .aos, .regs, .nodeId, .out, .freeCtr, .pending] : List Block).all
      (fun b => m.testBit b.num == false || l.contains b) = true) : s.OnlyChanges l t := by
  intro b hb
  have hm : m.testBit b.num = false := by
    have := List.all_eq_true.mp hl b (by cases b <;> decide)
    simp only [Bool.or_eq_true, beq_iff_eq, List.contains_iff_mem] at this
    exact this.resolve_right hb
  cases b
  · exact h.tick hm
  · exact h.variant hm
  · exact h.mstate hm
  · exact h.dies hm
  · exact h.arr hm
  · exact h.seq hm
  · exact h.mem hm
  · exact h.glv hm
  · exact h.ledger hm
  · exact h.rung hm
  · exact h.keys hm
  · exact h.stw hm
  · exact h.net hm
  · exact h.host hm
  · exact h.aos hm
  · exact h.regs hm
  · exact h.nodeId hm
  · exact h.out hm
  · exact h.freeCtr hm
  · exact h.pending hm

/-- Nothing changes. -/
theorem OnlyChanges.refl (s : State) (l : List Block) : s.OnlyChanges l s := by
  intro b _; cases b <;> rfl

theorem OnlyChanges.mono {s t : State} {l k : List Block} (h : s.OnlyChanges l t) (hl : ∀ b ∈ l, b ∈ k) : s.OnlyChanges k t :=
  fun b hb => h b fun x => hb (hl b x)

theorem OnlyChanges.tick {s t : State} {l : List Block} (h : s.OnlyChanges l t) (hl : Block.tick ∉ l := by decide) : t.tick = s.tick := h .tick hl
theorem OnlyChanges.variant {s t : State} {l : List Block} (h : s.OnlyChanges l t) (hl : Block.variant ∉ l := by decide) : t.variant = s.variant := h .variant hl
theorem OnlyChanges.mstate {s t : State} {l : List Block} (h : s.OnlyChanges l t) (hl : Block.mstate ∉ l := by decide) : t.mstate = s.mstate := h .mstate hl
theorem OnlyChanges.dies {s t : State} {l : List Block} (h : s.OnlyChanges l t) (hl : Block.dies ∉ l := by decide) : t.dies = s.dies := h .dies hl
theorem OnlyChanges.arr {s t : State} {l : List Block} (h : s.OnlyChanges l t) (hl : Block.arr ∉ l := by decide) : t.arr = s.arr := h .arr hl
theorem OnlyChanges.seq {s t : State} {l : List Block} (h : s.OnlyChanges l t) (hl : Block.seq ∉ l := by decide) : t.seq = s.seq := h .seq hl
theorem OnlyChanges.mem {s t : State} {l : List Block} (h : s.OnlyChanges l t) (hl : Block.mem ∉ l := by decide) : t.mem = s.mem := h .mem hl
theorem OnlyChanges.glv {s t : State} {l : List Block} (h : s.OnlyChanges l t) (hl : Block.glv ∉ l := by decide) : t.glv = s.glv := h .glv hl
theorem OnlyChanges.ledger {s t : State} {l : List Block} (h : s.OnlyChanges l t) (hl : Block.ledger ∉ l := by decide) : t.ledger = s.ledger := h .ledger hl
theorem OnlyChanges.rung {s t : State} {l : List Block} (h : s.OnlyChanges l t) (hl : Block.rung ∉ l := by decide) : t.rung = s.rung := h .rung hl
theorem OnlyChanges.keys {s t : State} {l : List Block} (h : s.OnlyChanges l t) (hl : Block.keys ∉ l := by decide) : t.keys = s.keys := h .keys hl
theorem OnlyChanges.stw {s t : State} {l : List Block} (h : s.OnlyChanges l t) (hl : Block.stw ∉ l := by decide) : t.stw = s.stw := h .stw hl
theorem OnlyChanges.net {s t : State} {l : List Block} (h : s.OnlyChanges l t) (hl : Block.net ∉ l := by decide) : t.net = s.net := h .net hl
theorem OnlyChanges.host {s t : State} {l : List Block} (h : s.OnlyChanges l t) (hl : Block.host ∉ l := by decide) : t.host = s.host := h .host hl
theorem OnlyChanges.aos {s t : State} {l : List Block} (h : s.OnlyChanges l t) (hl : Block.aos ∉ l := by decide) : t.aos = s.aos := h .aos hl
theorem OnlyChanges.regs {s t : State} {l : List Block} (h : s.OnlyChanges l t) (hl : Block.regs ∉ l := by decide) : t.regs = s.regs := h .regs hl
theorem OnlyChanges.nodeId {s t : State} {l : List Block} (h : s.OnlyChanges l t) (hl : Block.nodeId ∉ l := by decide) : t.nodeId = s.nodeId := h .nodeId hl
theorem OnlyChanges.out {s t : State} {l : List Block} (h : s.OnlyChanges l t) (hl : Block.out ∉ l := by decide) : t.out = s.out := h .out hl
theorem OnlyChanges.freeCtr {s t : State} {l : List Block} (h : s.OnlyChanges l t) (hl : Block.freeCtr ∉ l := by decide) : t.freeCtr = s.freeCtr := h .freeCtr hl
theorem OnlyChanges.pending {s t : State} {l : List Block} (h : s.OnlyChanges l t) (hl : Block.pending ∉ l := by decide) : t.pending = s.pending := h .pending hl

end State

end Sys2Proof.Machine
end

