-- ==== Sys2Proof/Laws/PerInstr.lean ====
section
/-! SUPPORT. One lemma for each constructor of Instr: a host-command row is well formed exactly when its slot came from a function of the endpoint. -/

set_option Elab.async false

namespace Sys2Proof.Laws.HostRow

/-- A row that carries a command slot is well formed exactly when the slot's function is the PF or one of the 64 VFs (R497). -/
def Statement (i : Instr) : Prop := ∀ c, i.hostCmd = some c → (i.wf = true ↔ c.func < 65)

theorem registerWrite (a0 : Nat) (a1 : Nat) (a2 : Half) (a3 : Word) : Statement (.registerWrite a0 a1 a2 a3) := by
  simp [Statement, Instr.hostCmd, Instr.wf]
theorem w1cWrite (a0 : Nat) (a1 : Half) (a2 : Word) (a3 : Word) : Statement (.w1cWrite a0 a1 a2 a3) := by
  simp [Statement, Instr.hostCmd, Instr.wf]
theorem tkeTickRead (a0 : Half) : Statement (.tkeTickRead a0) := by
  simp [Statement, Instr.hostCmd, Instr.wf]
theorem tickAdvance : Statement (.tickAdvance) := by
  simp [Statement, Instr.hostCmd, Instr.wf]
theorem periodChange : Statement (.periodChange) := by
  simp [Statement, Instr.hostCmd, Instr.wf]
theorem alignmentLoad (a0 : Word) (a1 : Nat) (a2 : Nat) (a3 : Option (Nat × Word)) (a4 : LoadSource) : Statement (.alignmentLoad a0 a1 a2 a3 a4) := by
  simp [Statement, Instr.hostCmd, Instr.wf]
theorem counterHoldEnd : Statement (.counterHoldEnd) := by
  simp [Statement, Instr.hostCmd, Instr.wf]
theorem beaconSend (a0 : Nat) : Statement (.beaconSend a0) := by
  simp [Statement, Instr.hostCmd, Instr.wf]
theorem beaconReceive (a0 : Beacon) (a1 : BeaconWay) (a2 : Int) : Statement (.beaconReceive a0 a1 a2) := by
  simp [Statement, Instr.hostCmd, Instr.wf]
theorem beaconCheck (a0 : Nat) (a1 : CheckSeen) : Statement (.beaconCheck a0 a1) := by
  simp [Statement, Instr.hostCmd, Instr.wf]
theorem parentLost (a0 : List (Nat × Nat)) : Statement (.parentLost a0) := by
  simp [Statement, Instr.hostCmd, Instr.wf]
theorem holdoverLimitExpiry (a0 : List Nat) : Statement (.holdoverLimitExpiry a0) := by
  simp [Statement, Instr.hostCmd, Instr.wf]
theorem crownMeet (a0 : Nat) : Statement (.crownMeet a0) := by
  simp [Statement, Instr.hostCmd, Instr.wf]
theorem tickStepOrHold : Statement (.tickStepOrHold) := by
  simp [Statement, Instr.hostCmd, Instr.wf]
theorem ledgerPeriod (a0 : Meters) : Statement (.ledgerPeriod a0) := by
  simp [Statement, Instr.hostCmd, Instr.wf]
theorem grantReceived (a0 : Word) (a1 : Nat) (a2 : Word) : Statement (.grantReceived a0 a1 a2) := by
  simp [Statement, Instr.hostCmd, Instr.wf]
theorem grantComputation : Statement (.grantComputation) := by
  simp [Statement, Instr.hostCmd, Instr.wf]
theorem demandReceived (a0 : Nat) (a1 : Word) (a2 : Nat) (a3 : Nat) : Statement (.demandReceived a0 a1 a2 a3) := by
  simp [Statement, Instr.hostCmd, Instr.wf]
theorem rungChange : Statement (.rungChange) := by
  simp [Statement, Instr.hostCmd, Instr.wf]
theorem rungEntryComplete : Statement (.rungEntryComplete) := by
  simp [Statement, Instr.hostCmd, Instr.wf]
theorem rungEntryAbandon : Statement (.rungEntryAbandon) := by
  simp [Statement, Instr.hostCmd, Instr.wf]
theorem wakeEvent (a0 : WakeSrc) : Statement (.wakeEvent a0) := by
  simp [Statement, Instr.hostCmd, Instr.wf]
theorem stepCommit (a0 : Nat) : Statement (.stepCommit a0) := by
  simp [Statement, Instr.hostCmd, Instr.wf]
theorem stepDone (a0 : Nat) : Statement (.stepDone a0) := by
  simp [Statement, Instr.hostCmd, Instr.wf]
theorem stepAbort (a0 : Nat) : Statement (.stepAbort a0) := by
  simp [Statement, Instr.hostCmd, Instr.wf]
theorem samplerFinish (a0 : Nat) : Statement (.samplerFinish a0) := by
  simp [Statement, Instr.hostCmd, Instr.wf]
theorem autoResume (a0 : Nat) : Statement (.autoResume a0) := by
  simp [Statement, Instr.hostCmd, Instr.wf]
theorem ttlExpiry (a0 : Nat) : Statement (.ttlExpiry a0) := by
  simp [Statement, Instr.hostCmd, Instr.wf]
theorem extentTtlExpiry (a0 : Nat) : Statement (.extentTtlExpiry a0) := by
  simp [Statement, Instr.hostCmd, Instr.wf]
theorem cacheSealComplete (a0 : Nat) : Statement (.cacheSealComplete a0) := by
  simp [Statement, Instr.hostCmd, Instr.wf]
theorem sealRetry (a0 : Nat) : Statement (.sealRetry a0) := by
  simp [Statement, Instr.hostCmd, Instr.wf]
theorem resumePageRetry (a0 : Nat) : Statement (.resumePageRetry a0) := by
  simp [Statement, Instr.hostCmd, Instr.wf]
theorem resumeCopyComplete (a0 : Nat) : Statement (.resumeCopyComplete a0) := by
  simp [Statement, Instr.hostCmd, Instr.wf]
theorem cuffRelease (a0 : Nat) : Statement (.cuffRelease a0) := by
  simp [Statement, Instr.hostCmd, Instr.wf]
theorem switchinExtentComplete (a0 : Nat) (a1 : Nat) : Statement (.switchinExtentComplete a0 a1) := by
  simp [Statement, Instr.hostCmd, Instr.wf]
theorem peerLost (a0 : Nat) (a1 : Nat) (a2 : Nat) : Statement (.peerLost a0 a1 a2) := by
  simp [Statement, Instr.hostCmd, Instr.wf]
theorem fetchRequest (a0 : FetchMsg) : Statement (.fetchRequest a0) := by
  simp [Statement, Instr.hostCmd, Instr.wf]
theorem fetchUnitReceive (a0 : Nat) (a1 : Nat) (a2 : Nat) (a3 : List Byte) : Statement (.fetchUnitReceive a0 a1 a2 a3) := by
  simp [Statement, Instr.hostCmd, Instr.wf]
theorem scheduleFault (a0 : SFault) : Statement (.scheduleFault a0) := by
  simp [Statement, Instr.hostCmd, Instr.wf]
theorem cellException (a0 : XFault) : Statement (.cellException a0) := by
  simp [Statement, Instr.hostCmd, Instr.wf]
theorem portFreeze (a0 : Nat) (a1 : PortRef) : Statement (.portFreeze a0 a1) := by
  simp [Statement, Instr.hostCmd, Instr.wf]
theorem freezeRelease (a0 : Nat) (a1 : PortRef) : Statement (.freezeRelease a0 a1) := by
  simp [Statement, Instr.hostCmd, Instr.wf]
theorem patternResume (a0 : Nat) : Statement (.patternResume a0) := by
  simp [Statement, Instr.hostCmd, Instr.wf]
theorem crossingMarginLoss (a0 : Nat) (a1 : EdgeChannel) : Statement (.crossingMarginLoss a0 a1) := by
  simp [Statement, Instr.hostCmd, Instr.wf]
theorem crossingRetrainComplete (a0 : Nat) (a1 : Nat) : Statement (.crossingRetrainComplete a0 a1) := by
  simp [Statement, Instr.hostCmd, Instr.wf]
theorem cellFailure (a0 : Nat) (a1 : Nat) (a2 : FailKind) (a3 : Nat) : Statement (.cellFailure a0 a1 a2 a3) := by
  simp [Statement, Instr.hostCmd, Instr.wf]
theorem chainForm (a0 : Nat) (a1 : Nat) (a2 : Kind) : Statement (.chainForm a0 a1 a2) := by
  simp [Statement, Instr.hostCmd, Instr.wf]
theorem patternSwitch (a0 : Nat) (a1 : List Nat) : Statement (.patternSwitch a0 a1) := by
  simp [Statement, Instr.hostCmd, Instr.wf]
theorem patternDone (a0 : Nat) (a1 : List Nat) : Statement (.patternDone a0 a1) := by
  simp [Statement, Instr.hostCmd, Instr.wf]
theorem clockStepChange (a0 : Nat) (a1 : StepReport) : Statement (.clockStepChange a0 a1) := by
  simp [Statement, Instr.hostCmd, Instr.wf]
theorem thermalSample (a0 : List Nat) : Statement (.thermalSample a0) := by
  simp [Statement, Instr.hostCmd, Instr.wf]
theorem rerunnableDetection (a0 : Detection) (a1 : Nat) : Statement (.rerunnableDetection a0 a1) := by
  simp [Statement, Instr.hostCmd, Instr.wf]
theorem loadComplete (a0 : Nat) : Statement (.loadComplete a0) := by
  simp [Statement, Instr.hostCmd, Instr.wf]
theorem armedSwitch (a0 : Nat) : Statement (.armedSwitch a0) := by
  simp [Statement, Instr.hostCmd, Instr.wf]
theorem waitTimeout (a0 : Nat) : Statement (.waitTimeout a0) := by
  simp [Statement, Instr.hostCmd, Instr.wf]
theorem workCounterClaim (a0 : Nat) (a1 : Nat) (a2 : Nat) (a3 : Requester) (a4 : BitVec 32) (a5 : Bool) : Statement (.workCounterClaim a0 a1 a2 a3 a4 a5) := by
  simp [Statement, Instr.hostCmd, Instr.wf]
theorem wkcWrite (a0 : Nat) (a1 : Nat) (a2 : Nat) (a3 : Bool) (a4 : Half) (a5 : Word) : Statement (.wkcWrite a0 a1 a2 a3 a4 a5) := by
  simp [Statement, Instr.hostCmd, Instr.wf]
theorem ctNop (a0 : Site) : Statement (.ctNop a0) := by
  simp [Statement, Instr.hostCmd, Instr.wf]
theorem epx (a0 : Site) : Statement (.epx a0) := by
  simp [Statement, Instr.hostCmd, Instr.wf]
theorem eps (a0 : Site) (a1 : BitVec 6) : Statement (.eps a0 a1) := by
  simp [Statement, Instr.hostCmd, Instr.wf]
theorem fset (a0 : Site) (a1 : BitVec 6) : Statement (.fset a0 a1) := by
  simp [Statement, Instr.hostCmd, Instr.wf]
theorem fany (a0 : Site) (a1 : BitVec 6) : Statement (.fany a0 a1) := by
  simp [Statement, Instr.hostCmd, Instr.wf]
theorem fall (a0 : Site) (a1 : BitVec 6) : Statement (.fall a0 a1) := by
  simp [Statement, Instr.hostCmd, Instr.wf]
theorem trap (a0 : Site) (a1 : BitVec 6) : Statement (.trap a0 a1) := by
  simp [Statement, Instr.hostCmd, Instr.wf]
theorem mvNop (a0 : Site) : Statement (.mvNop a0) := by
  simp [Statement, Instr.hostCmd, Instr.wf]
theorem fil (a0 : Site) (a1 : Nat) (a2 : Nat) (a3 : Nat) (a4 : Nat) : Statement (.fil a0 a1 a2 a3 a4) := by
  simp [Statement, Instr.hostCmd, Instr.wf]
theorem vld (a0 : Site) (a1 : Nat) (a2 : Nat) (a3 : Bool) (a4 : Nat) : Statement (.vld a0 a1 a2 a3 a4) := by
  simp [Statement, Instr.hostCmd, Instr.wf]
theorem vst (a0 : Site) (a1 : Nat) (a2 : Nat) (a3 : Bool) (a4 : Nat) : Statement (.vst a0 a1 a2 a3 a4) := by
  simp [Statement, Instr.hostCmd, Instr.wf]
theorem tok (a0 : Site) (a1 : Byte) : Statement (.tok a0 a1) := by
  simp [Statement, Instr.hostCmd, Instr.wf]
theorem obv (a0 : Site) (a1 : Nat) (a2 : Nat) (a3 : Nat) : Statement (.obv a0 a1 a2 a3) := by
  simp [Statement, Instr.hostCmd, Instr.wf]
theorem dsc (a0 : Site) (a1 : Nat) : Statement (.dsc a0 a1) := by
  simp [Statement, Instr.hostCmd, Instr.wf]
theorem vnop (a0 : Site) : Statement (.vnop a0) := by
  simp [Statement, Instr.hostCmd, Instr.wf]
theorem vadd (a0 : Site) (a1 : Nat) (a2 : Nat) (a3 : Nat) (a4 : Nat) (a5 : Bool) : Statement (.vadd a0 a1 a2 a3 a4 a5) := by
  simp [Statement, Instr.hostCmd, Instr.wf]
theorem vsub (a0 : Site) (a1 : Nat) (a2 : Nat) (a3 : Nat) (a4 : Nat) (a5 : Bool) : Statement (.vsub a0 a1 a2 a3 a4 a5) := by
  simp [Statement, Instr.hostCmd, Instr.wf]
theorem vmul (a0 : Site) (a1 : Nat) (a2 : Nat) (a3 : Nat) (a4 : Nat) (a5 : Bool) : Statement (.vmul a0 a1 a2 a3 a4 a5) := by
  simp [Statement, Instr.hostCmd, Instr.wf]
theorem vfma (a0 : Site) (a1 : Nat) (a2 : Nat) (a3 : Nat) (a4 : Nat) (a5 : Nat) (a6 : Bool) : Statement (.vfma a0 a1 a2 a3 a4 a5 a6) := by
  simp [Statement, Instr.hostCmd, Instr.wf]
theorem vmax (a0 : Site) (a1 : Nat) (a2 : Nat) (a3 : Nat) (a4 : Nat) (a5 : Bool) : Statement (.vmax a0 a1 a2 a3 a4 a5) := by
  simp [Statement, Instr.hostCmd, Instr.wf]
theorem vmin (a0 : Site) (a1 : Nat) (a2 : Nat) (a3 : Nat) (a4 : Nat) (a5 : Bool) : Statement (.vmin a0 a1 a2 a3 a4 a5) := by
  simp [Statement, Instr.hostCmd, Instr.wf]
theorem vsel (a0 : Site) (a1 : Nat) (a2 : Nat) (a3 : Nat) (a4 : Nat) (a5 : Nat) : Statement (.vsel a0 a1 a2 a3 a4 a5) := by
  simp [Statement, Instr.hostCmd, Instr.wf]
theorem vmov (a0 : Site) (a1 : Nat) (a2 : Nat) (a3 : Nat) : Statement (.vmov a0 a1 a2 a3) := by
  simp [Statement, Instr.hostCmd, Instr.wf]
theorem vbc (a0 : Site) (a1 : Nat) (a2 : Nat) (a3 : Nat) : Statement (.vbc a0 a1 a2 a3) := by
  simp [Statement, Instr.hostCmd, Instr.wf]
theorem vcmp (a0 : Site) (a1 : Nat) (a2 : Nat) (a3 : Nat) (a4 : Nat) (a5 : Nat) : Statement (.vcmp a0 a1 a2 a3 a4 a5) := by
  simp [Statement, Instr.hostCmd, Instr.wf]
theorem vmsk (a0 : Site) (a1 : MaskDst) (a2 : Nat) (a3 : Nat) (a4 : Nat) : Statement (.vmsk a0 a1 a2 a3 a4) := by
  simp [Statement, Instr.hostCmd, Instr.wf]
theorem vred (a0 : Site) (a1 : Nat) (a2 : Nat) (a3 : Nat) (a4 : Nat) : Statement (.vred a0 a1 a2 a3 a4) := by
  simp [Statement, Instr.hostCmd, Instr.wf]
theorem vxf (a0 : Site) (a1 : Nat) (a2 : Nat) (a3 : Nat) (a4 : Nat) : Statement (.vxf a0 a1 a2 a3 a4) := by
  simp [Statement, Instr.hostCmd, Instr.wf]
theorem vcvt (a0 : Site) (a1 : Nat) (a2 : Nat) (a3 : Nat) (a4 : Nat) (a5 : Nat) (a6 : Bool) : Statement (.vcvt a0 a1 a2 a3 a4 a5 a6) := by
  simp [Statement, Instr.hostCmd, Instr.wf]
theorem mnop (a0 : Site) : Statement (.mnop a0) := by
  simp [Statement, Instr.hostCmd, Instr.wf]
theorem mma (a0 : Site) (a1 : Nat) (a2 : Nat) (a3 : Nat) (a4 : Nat) (a5 : Nat) (a6 : Nat) (a7 : Nat) (a8 : Nat) : Statement (.mma a0 a1 a2 a3 a4 a5 a6 a7 a8) := by
  simp [Statement, Instr.hostCmd, Instr.wf]
theorem mrd (a0 : Site) (a1 : Nat) (a2 : Nat) (a3 : Bool) (a4 : Nat) (a5 : Bool) : Statement (.mrd a0 a1 a2 a3 a4 a5) := by
  simp [Statement, Instr.hostCmd, Instr.wf]
theorem mwr (a0 : Site) (a1 : Nat) (a2 : Nat) (a3 : Bool) (a4 : Nat) : Statement (.mwr a0 a1 a2 a3 a4) := by
  simp [Statement, Instr.hostCmd, Instr.wf]
theorem mz (a0 : Site) (a1 : Nat) : Statement (.mz a0 a1) := by
  simp [Statement, Instr.hostCmd, Instr.wf]
theorem mrs (a0 : Site) (a1 : Nat) (a2 : Nat) (a3 : Nat) : Statement (.mrs a0 a1 a2 a3) := by
  simp [Statement, Instr.hostCmd, Instr.wf]
theorem gsqNop (a0 : Nat) : Statement (.gsqNop a0) := by
  simp [Statement, Instr.hostCmd, Instr.wf]
theorem li (a0 : Nat) (a1 : Nat) (a2 : BitVec 32) : Statement (.li a0 a1 a2) := by
  simp [Statement, Instr.hostCmd, Instr.wf]
theorem lih (a0 : Nat) (a1 : Nat) (a2 : BitVec 32) : Statement (.lih a0 a1 a2) := by
  simp [Statement, Instr.hostCmd, Instr.wf]
theorem addi (a0 : Nat) (a1 : Nat) (a2 : Nat) (a3 : BitVec 32) : Statement (.addi a0 a1 a2 a3) := by
  simp [Statement, Instr.hostCmd, Instr.wf]
theorem add (a0 : Nat) (a1 : Nat) (a2 : Nat) (a3 : Nat) : Statement (.add a0 a1 a2 a3) := by
  simp [Statement, Instr.hostCmd, Instr.wf]
theorem br (a0 : Nat) (a1 : Nat) : Statement (.br a0 a1) := by
  simp [Statement, Instr.hostCmd, Instr.wf]
theorem bnz (a0 : Nat) (a1 : Nat) (a2 : Nat) : Statement (.bnz a0 a1 a2) := by
  simp [Statement, Instr.hostCmd, Instr.wf]
theorem djnz (a0 : Nat) (a1 : Nat) (a2 : Nat) : Statement (.djnz a0 a1 a2) := by
  simp [Statement, Instr.hostCmd, Instr.wf]
theorem bst (a0 : Nat) (a1 : Nat) (a2 : Nat) (a3 : Nat) : Statement (.bst a0 a1 a2 a3) := by
  simp [Statement, Instr.hostCmd, Instr.wf]
theorem load (a0 : Nat) (a1 : Nat) (a2 : Nat) : Statement (.load a0 a1 a2) := by
  simp [Statement, Instr.hostCmd, Instr.wf]
theorem arm (a0 : Nat) (a1 : Nat) (a2 : Nat) (a3 : Nat) : Statement (.arm a0 a1 a2 a3) := by
  simp [Statement, Instr.hostCmd, Instr.wf]
theorem swi (a0 : Nat) (a1 : Nat) : Statement (.swi a0 a1) := by
  simp [Statement, Instr.hostCmd, Instr.wf]
theorem run (a0 : Nat) (a1 : Nat) (a2 : Nat) : Statement (.run a0 a1 a2) := by
  simp [Statement, Instr.hostCmd, Instr.wf]
theorem waitDone (a0 : Nat) (a1 : Nat) : Statement (.waitDone a0 a1) := by
  simp [Statement, Instr.hostCmd, Instr.wf]
theorem waitLoaded (a0 : Nat) (a1 : Nat) (a2 : Nat) : Statement (.waitLoaded a0 a1 a2) := by
  simp [Statement, Instr.hostCmd, Instr.wf]
theorem waitTick (a0 : Nat) (a1 : Nat) (a2 : Nat) (a3 : Nat) : Statement (.waitTick a0 a1 a2 a3) := by
  simp [Statement, Instr.hostCmd, Instr.wf]
theorem waitArrival (a0 : Nat) (a1 : Nat) (a2 : Nat) (a3 : Nat) : Statement (.waitArrival a0 a1 a2 a3) := by
  simp [Statement, Instr.hostCmd, Instr.wf]
theorem waitSwitched (a0 : Nat) (a1 : Nat) : Statement (.waitSwitched a0 a1) := by
  simp [Statement, Instr.hostCmd, Instr.wf]
theorem waitSealed (a0 : Nat) (a1 : Nat) : Statement (.waitSealed a0 a1) := by
  simp [Statement, Instr.hostCmd, Instr.wf]
theorem exch (a0 : Nat) (a1 : Nat) (a2 : Nat) (a3 : Nat) (a4 : Nat) : Statement (.exch a0 a1 a2 a3 a4) := by
  simp [Statement, Instr.hostCmd, Instr.wf]
theorem sealExtent (a0 : Nat) (a1 : Nat) (a2 : Nat) (a3 : Nat) (a4 : Nat) (a5 : Nat) : Statement (.sealExtent a0 a1 a2 a3 a4 a5) := by
  simp [Statement, Instr.hostCmd, Instr.wf]
theorem ctr (a0 : Nat) (a1 : Nat) (a2 : Nat) (a3 : Nat) : Statement (.ctr a0 a1 a2 a3) := by
  simp [Statement, Instr.hostCmd, Instr.wf]
theorem report (a0 : Nat) (a1 : Nat) (a2 : Nat) : Statement (.report a0 a1 a2) := by
  simp [Statement, Instr.hostCmd, Instr.wf]
theorem secb (a0 : Nat) (a1 : Nat) : Statement (.secb a0 a1) := by
  simp [Statement, Instr.hostCmd, Instr.wf]
theorem halt (a0 : Nat) : Statement (.halt a0) := by
  simp [Statement, Instr.hostCmd, Instr.wf]
theorem agEnd (a0 : Nat) (a1 : Nat) : Statement (.agEnd a0 a1) := by
  simp [Statement, Instr.hostCmd, Instr.wf]
theorem agRun (a0 : Nat) (a1 : Nat) (a2 : Word) (a3 : List (Nat × Nat)) : Statement (.agRun a0 a1 a2 a3) := by
  simp [Statement, Instr.hostCmd, Instr.wf]
theorem agLoop (a0 : Nat) (a1 : Nat) (a2 : Nat) (a3 : Nat) : Statement (.agLoop a0 a1 a2 a3) := by
  simp [Statement, Instr.hostCmd, Instr.wf]
theorem ring (a0 : Nat) (a1 : Nat) (a2 : Nat) (a3 : Nat) (a4 : Nat) (a5 : Nat) : Statement (.ring a0 a1 a2 a3 a4 a5) := by
  simp [Statement, Instr.hostCmd, Instr.wf]
theorem win (a0 : Nat) (a1 : Nat) (a2 : Nat) (a3 : Nat) (a4 : Nat) (a5 : Nat) : Statement (.win a0 a1 a2 a3 a4 a5) := by
  simp [Statement, Instr.hostCmd, Instr.wf]
theorem seta (a0 : Nat) (a1 : Nat) (a2 : BitVec 32) (a3 : Nat) : Statement (.seta a0 a1 a2 a3) := by
  simp [Statement, Instr.hostCmd, Instr.wf]
theorem hqb (a0 : Nat) (a1 : Nat) (a2 : Nat) : Statement (.hqb a0 a1 a2) := by
  simp [Statement, Instr.hostCmd, Instr.wf]
theorem ringFill (a0 : Nat) (a1 : Nat) : Statement (.ringFill a0 a1) := by
  simp [Statement, Instr.hostCmd, Instr.wf]
theorem ringDrain (a0 : Nat) (a1 : Nat) (a2 : List (Nat × Nat)) : Statement (.ringDrain a0 a1 a2) := by
  simp [Statement, Instr.hostCmd, Instr.wf]
theorem narrowRequest (a0 : Requester) (a1 : Word) (a2 : NarrowOp) (a3 : Bool) : Statement (.narrowRequest a0 a1 a2 a3) := by
  simp [Statement, Instr.hostCmd, Instr.wf]
theorem mergeWriteback (a0 : Nat) (a1 : Nat) : Statement (.mergeWriteback a0 a1) := by
  simp [Statement, Instr.hostCmd, Instr.wf]
theorem remoteWrite (a0 : Word) (a1 : Nat) (a2 : List Byte) (a3 : Bool) : Statement (.remoteWrite a0 a1 a2 a3) := by
  simp [Statement, Instr.hostCmd, Instr.wf]
theorem handlePush (a0 : Nat) (a1 : Nat) (a2 : Nat) (a3 : BitVec 32) (a4 : Nat) : Statement (.handlePush a0 a1 a2 a3 a4) := by
  simp [Statement, Instr.hostCmd, Instr.wf]
theorem arvCntWrite (a0 : Nat) (a1 : Nat) (a2 : Nat) (a3 : Half) (a4 : Word) (a5 : Nat) : Statement (.arvCntWrite a0 a1 a2 a3 a4 a5) := by
  simp [Statement, Instr.hostCmd, Instr.wf]
theorem packedBlockDecode (a0 : Nat) (a1 : Nat) (a2 : Nat) (a3 : Nat) : Statement (.packedBlockDecode a0 a1 a2 a3) := by
  simp [Statement, Instr.hostCmd, Instr.wf]
theorem hbmUncorrectedRead (a0 : Nat) (a1 : Nat) (a2 : Nat) (a3 : Bool) (a4 : Bool) : Statement (.hbmUncorrectedRead a0 a1 a2 a3 a4) := by
  simp [Statement, Instr.hostCmd, Instr.wf]
theorem correctedError (a0 : Nat) (a1 : Nat) (a2 : Nat) (a3 : Nat) : Statement (.correctedError a0 a1 a2 a3) := by
  simp [Statement, Instr.hostCmd, Instr.wf]
theorem frameRetirement (a0 : Nat) : Statement (.frameRetirement a0) := by
  simp [Statement, Instr.hostCmd, Instr.wf]
theorem migrationQueueEntry : Statement (.migrationQueueEntry) := by
  simp [Statement, Instr.hostCmd, Instr.wf]
theorem migrationStart (a0 : Nat) : Statement (.migrationStart a0) := by
  simp [Statement, Instr.hostCmd, Instr.wf]
theorem heldWriteRelease (a0 : Nat) (a1 : Nat) : Statement (.heldWriteRelease a0 a1) := by
  simp [Statement, Instr.hostCmd, Instr.wf]
theorem sealComplete (a0 : Nat) (a1 : Bool) : Statement (.sealComplete a0 a1) := by
  simp [Statement, Instr.hostCmd, Instr.wf]
theorem copyupComplete (a0 : Nat) (a1 : Bool) : Statement (.copyupComplete a0 a1) := by
  simp [Statement, Instr.hostCmd, Instr.wf]
theorem moveComplete (a0 : Nat) (a1 : Bool) : Statement (.moveComplete a0 a1) := by
  simp [Statement, Instr.hostCmd, Instr.wf]
theorem relocationComplete (a0 : Bool) (a1 : Nat) (a2 : Nat) (a3 : Nat) : Statement (.relocationComplete a0 a1 a2 a3) := by
  simp [Statement, Instr.hostCmd, Instr.wf]
theorem ddrUncorrectedError (a0 : Nat) (a1 : Nat) (a2 : Nat) (a3 : Nat) : Statement (.ddrUncorrectedError a0 a1 a2 a3) := by
  simp [Statement, Instr.hostCmd, Instr.wf]
theorem deepPortLinkDown (a0 : Nat) : Statement (.deepPortLinkDown a0) := by
  simp [Statement, Instr.hostCmd, Instr.wf]
theorem nvmeCommandComplete (a0 : Nat) (a1 : Nat) (a2 : Bool) : Statement (.nvmeCommandComplete a0 a1 a2) := by
  simp [Statement, Instr.hostCmd, Instr.wf]
theorem returnTrainingComplete (a0 : Bool) (a1 : Nat) (a2 : Bool) (a3 : DimmInfo) (a4 : Nat) : Statement (.returnTrainingComplete a0 a1 a2 a3 a4) := by
  simp [Statement, Instr.hostCmd, Instr.wf]
theorem dqsTracking (a0 : Nat) : Statement (.dqsTracking a0) := by
  simp [Statement, Instr.hostCmd, Instr.wf]
theorem lz2PageMiss (a0 : Nat) : Statement (.lz2PageMiss a0) := by
  simp [Statement, Instr.hostCmd, Instr.wf]
theorem stagingRecordEntry (a0 : Nat) (a1 : Nat) (a2 : Word) : Statement (.stagingRecordEntry a0 a1 a2) := by
  simp [Statement, Instr.hostCmd, Instr.wf]
theorem exchangePhaseStart (a0 : Nat) (a1 : List CountRow) (a2 : Bool) : Statement (.exchangePhaseStart a0 a1 a2) := by
  simp [Statement, Instr.hostCmd, Instr.wf]
theorem dataStage (a0 : Nat) (a1 : List Nat) (a2 : Bool) : Statement (.dataStage a0 a1 a2) := by
  simp [Statement, Instr.hostCmd, Instr.wf]
theorem receiveRecord (a0 : Nat) (a1 : List Byte) : Statement (.receiveRecord a0 a1) := by
  simp [Statement, Instr.hostCmd, Instr.wf]
theorem fwdSlot (a0 : Nat) (a1 : Nat) (a2 : List Byte) : Statement (.fwdSlot a0 a1 a2) := by
  simp [Statement, Instr.hostCmd, Instr.wf]
theorem closeStage (a0 : Nat) (a1 : List (Nat × Nat)) : Statement (.closeStage a0 a1) := by
  simp [Statement, Instr.hostCmd, Instr.wf]
theorem exchangeRoundOpen (a0 : Nat) : Statement (.exchangeRoundOpen a0) := by
  simp [Statement, Instr.hostCmd, Instr.wf]
theorem stewardHeartbeat : Statement (.stewardHeartbeat) := by
  simp [Statement, Instr.hostCmd, Instr.wf]
theorem stewardTakeover : Statement (.stewardTakeover) := by
  simp [Statement, Instr.hostCmd, Instr.wf]
theorem standbyResync : Statement (.standbyResync) := by
  simp [Statement, Instr.hostCmd, Instr.wf]
theorem stwQidxWrite (a0 : Half) (a1 : Word) : Statement (.stwQidxWrite a0 a1) := by
  simp [Statement, Instr.hostCmd, Instr.wf]
theorem stwGcfgWrite (a0 : Nat) (a1 : Half) (a2 : Word) : Statement (.stwGcfgWrite a0 a1 a2) := by
  simp [Statement, Instr.hostCmd, Instr.wf]
theorem faultHoldExpiry (a0 : Nat) : Statement (.faultHoldExpiry a0) := by
  simp [Statement, Instr.hostCmd, Instr.wf]
theorem gloveResetDone (a0 : Nat) : Statement (.gloveResetDone a0) := by
  simp [Statement, Instr.hostCmd, Instr.wf]
theorem flitReceive (a0 : Nat) (a1 : Flit) : Statement (.flitReceive a0 a1) := by
  simp [Statement, Instr.hostCmd, Instr.wf]
theorem replayTimeout (a0 : Nat) : Statement (.replayTimeout a0) := by
  simp [Statement, Instr.hostCmd, Instr.wf]
theorem linkTrainingStart (a0 : Nat) : Statement (.linkTrainingStart a0) := by
  simp [Statement, Instr.hostCmd, Instr.wf]
theorem linkTrainingComplete (a0 : Nat) (a1 : Nat) (a2 : Nat) (a3 : Nat) (a4 : Nat) : Statement (.linkTrainingComplete a0 a1 a2 a3 a4) := by
  simp [Statement, Instr.hostCmd, Instr.wf]
theorem laneDrop (a0 : Nat) (a1 : Nat) : Statement (.laneDrop a0 a1) := by
  simp [Statement, Instr.hostCmd, Instr.wf]
theorem linkSignalDetect (a0 : Nat) : Statement (.linkSignalDetect a0) := by
  simp [Statement, Instr.hostCmd, Instr.wf]
theorem lnkRetrain (a0 : Nat) : Statement (.lnkRetrain a0) := by
  simp [Statement, Instr.hostCmd, Instr.wf]
theorem lnkEnableWrite (a0 : Nat) (a1 : Word) : Statement (.lnkEnableWrite a0 a1) := by
  simp [Statement, Instr.hostCmd, Instr.wf]
theorem packetForward (a0 : Packet) : Statement (.packetForward a0) := by
  simp [Statement, Instr.hostCmd, Instr.wf]
theorem mgrCfgLock (a0 : Half) (a1 : Word) : Statement (.mgrCfgLock a0 a1) := by
  simp [Statement, Instr.hostCmd, Instr.wf]
theorem rackConflict (a0 : Word) (a1 : Word) : Statement (.rackConflict a0 a1) := by
  simp [Statement, Instr.hostCmd, Instr.wf]
theorem relayedCommand (a0 : Nat) (a1 : HostCmd) : Statement (.relayedCommand a0 a1) := by
  simp [Statement, Instr.hostCmd, Instr.wf]
theorem workerReport (a0 : Nat) (a1 : Report) : Statement (.workerReport a0 a1) := by
  simp [Statement, Instr.hostCmd, Instr.wf]
theorem workerHeartbeatMiss (a0 : Nat) (a1 : Bool) (a2 : Bool) : Statement (.workerHeartbeatMiss a0 a1 a2) := by
  simp [Statement, Instr.hostCmd, Instr.wf]
theorem managerTakeover (a0 : Bool) : Statement (.managerTakeover a0) := by
  simp [Statement, Instr.hostCmd, Instr.wf]
theorem epochAnnounce (a0 : Word) : Statement (.epochAnnounce a0) := by
  simp [Statement, Instr.hostCmd, Instr.wf]
theorem managerRoleDecision (a0 : Bool) (a1 : Bool) (a2 : Option Word) : Statement (.managerRoleDecision a0 a1 a2) := by
  simp [Statement, Instr.hostCmd, Instr.wf]
theorem perstNAssert : Statement (.perstNAssert) := by
  simp [Statement, Instr.hostCmd, Instr.wf]
theorem perstNRelease : Statement (.perstNRelease) := by
  simp [Statement, Instr.hostCmd, Instr.wf]
theorem pfFlr : Statement (.pfFlr) := by
  simp [Statement, Instr.hostCmd, Instr.wf]
theorem vfFlr (a0 : Nat) : Statement (.vfFlr a0) := by
  simp [Statement, Instr.hostCmd, Instr.wf]
theorem d3hotEntry (a0 : Nat) : Statement (.d3hotEntry a0) := by
  simp [Statement, Instr.hostCmd, Instr.wf]
theorem hostWindowRead (a0 : Nat) (a1 : Nat) (a2 : Nat) (a3 : List Nat) : Statement (.hostWindowRead a0 a1 a2 a3) := by
  simp [Statement, Instr.hostCmd, Instr.wf]
theorem hostWindowWrite (a0 : Nat) (a1 : Nat) (a2 : List Byte) (a3 : List Bool) : Statement (.hostWindowWrite a0 a1 a2 a3) := by
  simp [Statement, Instr.hostCmd, Instr.wf]
theorem commandSlotReceive (a0 : Nat) (a1 : Nat) (a2 : Nat) (a3 : Nat) (a4 : Word) : Statement (.commandSlotReceive a0 a1 a2 a3 a4) := by
  simp [Statement, Instr.hostCmd, Instr.wf]
theorem commandRingEnable (a0 : Nat) (a1 : Half) (a2 : Word) : Statement (.commandRingEnable a0 a1 a2) := by
  simp [Statement, Instr.hostCmd, Instr.wf]
theorem completionRingEnable (a0 : Nat) (a1 : Half) (a2 : Word) : Statement (.completionRingEnable a0 a1 a2) := by
  simp [Statement, Instr.hostCmd, Instr.wf]
theorem cqHeadWrite (a0 : Nat) (a1 : Nat) (a2 : Word) : Statement (.cqHeadWrite a0 a1 a2) := by
  simp [Statement, Instr.hostCmd, Instr.wf]
theorem msixModerationTimer (a0 : Nat) : Statement (.msixModerationTimer a0) := by
  simp [Statement, Instr.hostCmd, Instr.wf]
theorem identify (a0 : HostCmd) : Statement (.identify a0) := by
  simp [Statement, Instr.hostCmd, Instr.wf]
theorem setProfile (a0 : HostCmd) : Statement (.setProfile a0) := by
  simp [Statement, Instr.hostCmd, Instr.wf]
theorem setTickPeriod (a0 : HostCmd) : Statement (.setTickPeriod a0) := by
  simp [Statement, Instr.hostCmd, Instr.wf]
theorem setRung (a0 : HostCmd) : Statement (.setRung a0) := by
  simp [Statement, Instr.hostCmd, Instr.wf]
theorem setRoute (a0 : HostCmd) : Statement (.setRoute a0) := by
  simp [Statement, Instr.hostCmd, Instr.wf]
theorem stewardSwap (a0 : HostCmd) : Statement (.stewardSwap a0) := by
  simp [Statement, Instr.hostCmd, Instr.wf]
theorem serviceOpFence (a0 : HostCmd) : Statement (.serviceOpFence a0) := by
  simp [Statement, Instr.hostCmd, Instr.wf]
theorem serviceOpUnfence (a0 : HostCmd) : Statement (.serviceOpUnfence a0) := by
  simp [Statement, Instr.hostCmd, Instr.wf]
theorem serviceOpRetire (a0 : HostCmd) : Statement (.serviceOpRetire a0) := by
  simp [Statement, Instr.hostCmd, Instr.wf]
theorem serviceOpFormChain (a0 : HostCmd) : Statement (.serviceOpFormChain a0) := by
  simp [Statement, Instr.hostCmd, Instr.wf]
theorem serviceOpReturn (a0 : HostCmd) (a1 : Option DimmInfo) : Statement (.serviceOpReturn a0 a1) := by
  simp [Statement, Instr.hostCmd, Instr.wf]
theorem keyOpInstall (a0 : HostCmd) : Statement (.keyOpInstall a0) := by
  simp [Statement, Instr.hostCmd, Instr.wf]
theorem keyOpErase (a0 : HostCmd) : Statement (.keyOpErase a0) := by
  simp [Statement, Instr.hostCmd, Instr.wf]
theorem imageOpStage (a0 : HostCmd) : Statement (.imageOpStage a0) := by
  simp [Statement, Instr.hostCmd, Instr.wf]
theorem imageOpActivate (a0 : HostCmd) : Statement (.imageOpActivate a0) := by
  simp [Statement, Instr.hostCmd, Instr.wf]
theorem imageOpWriteOtp (a0 : HostCmd) : Statement (.imageOpWriteOtp a0) := by
  simp [Statement, Instr.hostCmd, Instr.wf]
theorem gloveCreate (a0 : HostCmd) : Statement (.gloveCreate a0) := by
  simp [Statement, Instr.hostCmd, Instr.wf]
theorem gloveDestroy (a0 : HostCmd) : Statement (.gloveDestroy a0) := by
  simp [Statement, Instr.hostCmd, Instr.wf]
theorem gloveReset (a0 : HostCmd) : Statement (.gloveReset a0) := by
  simp [Statement, Instr.hostCmd, Instr.wf]
theorem frameAlloc (a0 : HostCmd) : Statement (.frameAlloc a0) := by
  simp [Statement, Instr.hostCmd, Instr.wf]
theorem frameShare (a0 : HostCmd) : Statement (.frameShare a0) := by
  simp [Statement, Instr.hostCmd, Instr.wf]
theorem frameFree (a0 : HostCmd) : Statement (.frameFree a0) := by
  simp [Statement, Instr.hostCmd, Instr.wf]
theorem gsqWrite (a0 : HostCmd) : Statement (.gsqWrite a0) := by
  simp [Statement, Instr.hostCmd, Instr.wf]
theorem gsqStart (a0 : HostCmd) : Statement (.gsqStart a0) := by
  simp [Statement, Instr.hostCmd, Instr.wf]
theorem gsqStop (a0 : HostCmd) : Statement (.gsqStop a0) := by
  simp [Statement, Instr.hostCmd, Instr.wf]
theorem planInstall (a0 : HostCmd) : Statement (.planInstall a0) := by
  simp [Statement, Instr.hostCmd, Instr.wf]
theorem planRemove (a0 : HostCmd) : Statement (.planRemove a0) := by
  simp [Statement, Instr.hostCmd, Instr.wf]
theorem lz2Enable (a0 : HostCmd) : Statement (.lz2Enable a0) := by
  simp [Statement, Instr.hostCmd, Instr.wf]
theorem lz2Disable (a0 : HostCmd) : Statement (.lz2Disable a0) := by
  simp [Statement, Instr.hostCmd, Instr.wf]
theorem migrate (a0 : HostCmd) : Statement (.migrate a0) := by
  simp [Statement, Instr.hostCmd, Instr.wf]
theorem modelRegister (a0 : HostCmd) : Statement (.modelRegister a0) := by
  simp [Statement, Instr.hostCmd, Instr.wf]
theorem modelSwitchin (a0 : HostCmd) : Statement (.modelSwitchin a0) := by
  simp [Statement, Instr.hostCmd, Instr.wf]
theorem modelPark (a0 : HostCmd) : Statement (.modelPark a0) := by
  simp [Statement, Instr.hostCmd, Instr.wf]
theorem modelReplace (a0 : HostCmd) : Statement (.modelReplace a0) := by
  simp [Statement, Instr.hostCmd, Instr.wf]
theorem adapterLoad (a0 : HostCmd) : Statement (.adapterLoad a0) := by
  simp [Statement, Instr.hostCmd, Instr.wf]
theorem adapterUnload (a0 : HostCmd) : Statement (.adapterUnload a0) := by
  simp [Statement, Instr.hostCmd, Instr.wf]
theorem markPublic (a0 : HostCmd) : Statement (.markPublic a0) := by
  simp [Statement, Instr.hostCmd, Instr.wf]
theorem admitSeq (a0 : HostCmd) : Statement (.admitSeq a0) := by
  simp [Statement, Instr.hostCmd, Instr.wf]
theorem routeAdmit (a0 : HostCmd) : Statement (.routeAdmit a0) := by
  simp [Statement, Instr.hostCmd, Instr.wf]
theorem append (a0 : HostCmd) : Statement (.append a0) := by
  simp [Statement, Instr.hostCmd, Instr.wf]
theorem cancel (a0 : HostCmd) : Statement (.cancel a0) := by
  simp [Statement, Instr.hostCmd, Instr.wf]
theorem pause (a0 : HostCmd) : Statement (.pause a0) := by
  simp [Statement, Instr.hostCmd, Instr.wf]
theorem resume (a0 : HostCmd) : Statement (.resume a0) := by
  simp [Statement, Instr.hostCmd, Instr.wf]
theorem release (a0 : HostCmd) : Statement (.release a0) := by
  simp [Statement, Instr.hostCmd, Instr.wf]
theorem setEndpointId (a0 : Byte) : Statement (.setEndpointId a0) := by
  simp [Statement, Instr.hostCmd, Instr.wf]
theorem getEndpointId : Statement (.getEndpointId) := by
  simp [Statement, Instr.hostCmd, Instr.wf]
theorem getMctpVersionSupport (a0 : Byte) : Statement (.getMctpVersionSupport a0) := by
  simp [Statement, Instr.hostCmd, Instr.wf]
theorem getMessageTypeSupport : Statement (.getMessageTypeSupport) := by
  simp [Statement, Instr.hostCmd, Instr.wf]
theorem getVendorDefinedMessageSupport (a0 : Byte) : Statement (.getVendorDefinedMessageSupport a0) := by
  simp [Statement, Instr.hostCmd, Instr.wf]
theorem getRecord (a0 : Byte) : Statement (.getRecord a0) := by
  simp [Statement, Instr.hostCmd, Instr.wf]
theorem getAlerts (a0 : Word) : Statement (.getAlerts a0) := by
  simp [Statement, Instr.hostCmd, Instr.wf]
theorem setAlertMask (a0 : Word) : Statement (.setAlertMask a0) := by
  simp [Statement, Instr.hostCmd, Instr.wf]
theorem aosRead : Statement (.aosRead) := by
  simp [Statement, Instr.hostCmd, Instr.wf]
theorem trip (a0 : Bool) : Statement (.trip a0) := by
  simp [Statement, Instr.hostCmd, Instr.wf]
theorem fence (a0 : Bool) (a1 : Byte) (a2 : BitVec 16) : Statement (.fence a0 a1 a2) := by
  simp [Statement, Instr.hostCmd, Instr.wf]
theorem erase (a0 : Bool) (a1 : Byte) : Statement (.erase a0 a1) := by
  simp [Statement, Instr.hostCmd, Instr.wf]
theorem reset (a0 : Bool) (a1 : Byte) : Statement (.reset a0 a1) := by
  simp [Statement, Instr.hostCmd, Instr.wf]
theorem aosReport : Statement (.aosReport) := by
  simp [Statement, Instr.hostCmd, Instr.wf]
theorem recordRefresh : Statement (.recordRefresh) := by
  simp [Statement, Instr.hostCmd, Instr.wf]
theorem secActlGo (a0 : Half) (a1 : Word) (a2 : BitVec 448) : Statement (.secActlGo a0 a1 a2) := by
  simp [Statement, Instr.hostCmd, Instr.wf]
theorem attestationReportReady : Statement (.attestationReportReady) := by
  simp [Statement, Instr.hostCmd, Instr.wf]
theorem trngHealthFailure : Statement (.trngHealthFailure) := by
  simp [Statement, Instr.hostCmd, Instr.wf]
theorem trngRecover : Statement (.trngRecover) := by
  simp [Statement, Instr.hostCmd, Instr.wf]
theorem powerOn : Statement (.powerOn) := by
  simp [Statement, Instr.hostCmd, Instr.wf]
theorem ext (a0 : Nat) : Statement (.ext a0) := by
  simp [Statement, Instr.hostCmd, Instr.wf]
theorem rail (a0 : Nat) : Statement (.rail a0) := by
  simp [Statement, Instr.hostCmd, Instr.wf]
theorem thermtrip : Statement (.thermtrip) := by
  simp [Statement, Instr.hostCmd, Instr.wf]
theorem thermalTrip : Statement (.thermalTrip) := by
  simp [Statement, Instr.hostCmd, Instr.wf]
theorem refclkLoss : Statement (.refclkLoss) := by
  simp [Statement, Instr.hostCmd, Instr.wf]
theorem refclkWindow (a0 : Nat) : Statement (.refclkWindow a0) := by
  simp [Statement, Instr.hostCmd, Instr.wf]
theorem pllWindow (a0 : PllPart) (a1 : Bool) : Statement (.pllWindow a0 a1) := by
  simp [Statement, Instr.hostCmd, Instr.wf]
theorem watchdog : Statement (.watchdog) := by
  simp [Statement, Instr.hostCmd, Instr.wf]
theorem aosRstreqWrite (a0 : Half) (a1 : Word) : Statement (.aosRstreqWrite a0 a1) := by
  simp [Statement, Instr.hostCmd, Instr.wf]
theorem vaonLoss : Statement (.vaonLoss) := by
  simp [Statement, Instr.hostCmd, Instr.wf]
theorem resetStretchEnd : Statement (.resetStretchEnd) := by
  simp [Statement, Instr.hostCmd, Instr.wf]
theorem resetNSample (a0 : Bool) : Statement (.resetNSample a0) := by
  simp [Statement, Instr.hostCmd, Instr.wf]
theorem otpGenerationSelect : Statement (.otpGenerationSelect) := by
  simp [Statement, Instr.hostCmd, Instr.wf]
theorem aosBringupTakeover : Statement (.aosBringupTakeover) := by
  simp [Statement, Instr.hostCmd, Instr.wf]
theorem aosFirmwareStart : Statement (.aosFirmwareStart) := by
  simp [Statement, Instr.hostCmd, Instr.wf]
theorem railCheck (a0 : Bool) : Statement (.railCheck a0) := by
  simp [Statement, Instr.hostCmd, Instr.wf]
theorem controlFirmwareStart : Statement (.controlFirmwareStart) := by
  simp [Statement, Instr.hostCmd, Instr.wf]
theorem selfTestComplete (a0 : Nat) (a1 : SelfTest) : Statement (.selfTestComplete a0 a1) := by
  simp [Statement, Instr.hostCmd, Instr.wf]
theorem stackTrainingAttempt (a0 : Nat) (a1 : Bool) : Statement (.stackTrainingAttempt a0 a1) := by
  simp [Statement, Instr.hostCmd, Instr.wf]
theorem wideTierTrained (a0 : List DimmInfo) : Statement (.wideTierTrained a0) := by
  simp [Statement, Instr.hostCmd, Instr.wf]
theorem dieRelease (a0 : Nat) : Statement (.dieRelease a0) := by
  simp [Statement, Instr.hostCmd, Instr.wf]
theorem profileChange : Statement (.profileChange) := by
  simp [Statement, Instr.hostCmd, Instr.wf]
theorem rasDrainWrite (a0 : Half) (a1 : Word) : Statement (.rasDrainWrite a0 a1) := by
  simp [Statement, Instr.hostCmd, Instr.wf]
theorem partReadyReport (a0 : Nat) : Statement (.partReadyReport a0) := by
  simp [Statement, Instr.hostCmd, Instr.wf]
theorem activationReadyTimeout (a0 : Nat) : Statement (.activationReadyTimeout a0) := by
  simp [Statement, Instr.hostCmd, Instr.wf]
theorem otpBurnComplete (a0 : Bool) : Statement (.otpBurnComplete a0) := by
  simp [Statement, Instr.hostCmd, Instr.wf]
theorem aosStewardWatchLapse : Statement (.aosStewardWatchLapse) := by
  simp [Statement, Instr.hostCmd, Instr.wf]
theorem aosManagerWatchLapse : Statement (.aosManagerWatchLapse) := by
  simp [Statement, Instr.hostCmd, Instr.wf]
theorem patternCycle (a0 : Nat) : Statement (.patternCycle a0) := by
  simp [Statement, Instr.hostCmd, Instr.wf]
theorem flitTransmit (a0 : Nat) : Statement (.flitTransmit a0) := by
  simp [Statement, Instr.hostCmd, Instr.wf]
theorem moduleHeartbeat (a0 : Nat) : Statement (.moduleHeartbeat a0) := by
  simp [Statement, Instr.hostCmd, Instr.wf]
theorem managerHeartbeat : Statement (.managerHeartbeat) := by
  simp [Statement, Instr.hostCmd, Instr.wf]
theorem relayedCompletion (a0 : RelayedCpl) : Statement (.relayedCompletion a0) := by
  simp [Statement, Instr.hostCmd, Instr.wf]
theorem managerResync : Statement (.managerResync) := by
  simp [Statement, Instr.hostCmd, Instr.wf]
theorem d3hotExit (a0 : Nat) : Statement (.d3hotExit a0) := by
  simp [Statement, Instr.hostCmd, Instr.wf]
theorem deepPortNvmeReady (a0 : Nat) (a1 : Bool) (a2 : Nat) (a3 : Nat) (a4 : Nat) : Statement (.deepPortNvmeReady a0 a1 a2 a3 a4) := by
  simp [Statement, Instr.hostCmd, Instr.wf]
theorem stackControllerFailure (a0 : Nat) : Statement (.stackControllerFailure a0) := by
  simp [Statement, Instr.hostCmd, Instr.wf]
theorem dieToDiePortFailure (a0 : Nat) (a1 : Option Nat) : Statement (.dieToDiePortFailure a0 a1) := by
  simp [Statement, Instr.hostCmd, Instr.wf]
theorem waitTickReached (a0 : Nat) : Statement (.waitTickReached a0) := by
  simp [Statement, Instr.hostCmd, Instr.wf]
theorem smbusAddressResolution (a0 : BitVec 7) : Statement (.smbusAddressResolution a0) := by
  simp [Statement, Instr.hostCmd, Instr.wf]
theorem periodChangeReceive (a0 : Nat) (a1 : Word) : Statement (.periodChangeReceive a0 a1) := by
  simp [Statement, Instr.hostCmd, Instr.wf]

end Sys2Proof.Laws.HostRow
end

