-- ==== Sys2Proof/Laws/Tick.lean ====
section
/-! SUPPORT. What the operations of the tick block do: each changes the tick block as stated, raises flags, and leaves every other block. -/

set_option Elab.async false

namespace Sys2Proof.Machine.State

@[simp] theorem enterT_tick (s : State) (x : TState) : (s.enterT x).tick = { s.tick with own := x } := by
  unfold enterT; dsimp only; (repeat' split) <;> simp

@[simp] theorem setCrown_tick (s : State) (c : Nat) : (s.setCrown c).tick = { s.tick with crown := some c } := by
  unfold setCrown; dsimp only; (repeat' split) <;> simp

@[simp] theorem setPeriod_tick (s : State) (n : Nat) : (s.setPeriod n).tick = { s.tick with n := n } := by
  unfold setPeriod; dsimp only; split <;> simp

@[simp] theorem applyPeriod_tick (s : State) (n : Nat) : (s.applyPeriod n).tick = { s.tick with n := n, phase := s.tick.phase % n } := by
  unfold applyPeriod; dsimp only; (repeat' split) <;> simp

@[simp] theorem stepTo_tick (s : State) (rc : Nat) : (s.stepTo rc).tick = s.tick.setRc rc := by
  unfold stepTo; dsimp only; split <;> simp

@[simp] theorem holdFor_tick (s : State) (k : Nat) : (s.holdFor k).tick = { s.tick with hold := some k } := by
  simp [holdFor]

/-- A measured offset changes the state of the tick block, what is slewed and what waits to be stepped, and nothing else of it. -/
theorem measured_tick (s : State) (d : Int) : ∃ x y z, (s.measured d).tick = { s.tick with own := x, slew := y, stepPend := z } := by
  unfold measured
  split
  · dsimp only; (repeat' split) <;> simp
  · dsimp only; (repeat' split) <;> simp
  · dsimp only; (repeat' split) <;> simp
  · simp

@[simp] theorem enterT_variant (s : State) (x : TState) : (s.enterT x).variant = s.variant := by
  unfold enterT; (try dsimp only); (repeat' split) <;> simp
@[simp] theorem enterT_mstate (s : State) (x : TState) : (s.enterT x).mstate = s.mstate := by
  unfold enterT; (try dsimp only); (repeat' split) <;> simp
@[simp] theorem enterT_dies (s : State) (x : TState) : (s.enterT x).dies = s.dies := by
  unfold enterT; (try dsimp only); (repeat' split) <;> simp
@[simp] theorem enterT_arr (s : State) (x : TState) : (s.enterT x).arr = s.arr := by
  unfold enterT; (try dsimp only); (repeat' split) <;> simp
@[simp] theorem enterT_seq (s : State) (x : TState) : (s.enterT x).seq = s.seq := by
  unfold enterT; (try dsimp only); (repeat' split) <;> simp
@[simp] theorem enterT_mem (s : State) (x : TState) : (s.enterT x).mem = s.mem := by
  unfold enterT; (try dsimp only); (repeat' split) <;> simp
@[simp] theorem enterT_glv (s : State) (x : TState) : (s.enterT x).glv = s.glv := by
  unfold enterT; (try dsimp only); (repeat' split) <;> simp
@[simp] theorem enterT_ledger (s : State) (x : TState) : (s.enterT x).ledger = s.ledger := by
  unfold enterT; (try dsimp only); (repeat' split) <;> simp
@[simp] theorem enterT_rung (s : State) (x : TState) : (s.enterT x).rung = s.rung := by
  unfold enterT; (try dsimp only); (repeat' split) <;> simp
@[simp] theorem enterT_keys (s : State) (x : TState) : (s.enterT x).keys = s.keys := by
  unfold enterT; (try dsimp only); (repeat' split) <;> simp
@[simp] theorem enterT_stw (s : State) (x : TState) : (s.enterT x).stw = s.stw := by
  unfold enterT; (try dsimp only); (repeat' split) <;> simp
@[simp] theorem enterT_net (s : State) (x : TState) : (s.enterT x).net = s.net := by
  unfold enterT; (try dsimp only); (repeat' split) <;> simp
@[simp] theorem enterT_host (s : State) (x : TState) : (s.enterT x).host = s.host := by
  unfold enterT; (try dsimp only); (repeat' split) <;> simp
@[simp] theorem enterT_aos (s : State) (x : TState) : (s.enterT x).aos = s.aos := by
  unfold enterT; (try dsimp only); (repeat' split) <;> simp
@[simp] theorem enterT_nodeId (s : State) (x : TState) : (s.enterT x).nodeId = s.nodeId := by
  unfold enterT; (try dsimp only); (repeat' split) <;> simp
@[simp] theorem enterT_out (s : State) (x : TState) : (s.enterT x).out = s.out := by
  unfold enterT; (try dsimp only); (repeat' split) <;> simp
@[simp] theorem enterT_freeCtr (s : State) (x : TState) : (s.enterT x).freeCtr = s.freeCtr := by
  unfold enterT; (try dsimp only); (repeat' split) <;> simp
@[simp] theorem enterT_pending (s : State) (x : TState) : (s.enterT x).pending = s.pending := by
  unfold enterT; (try dsimp only); (repeat' split) <;> simp
@[simp] theorem setCrown_variant (s : State) (c : Nat) : (s.setCrown c).variant = s.variant := by
  unfold setCrown; (try dsimp only); (repeat' split) <;> simp
@[simp] theorem setCrown_mstate (s : State) (c : Nat) : (s.setCrown c).mstate = s.mstate := by
  unfold setCrown; (try dsimp only); (repeat' split) <;> simp
@[simp] theorem setCrown_dies (s : State) (c : Nat) : (s.setCrown c).dies = s.dies := by
  unfold setCrown; (try dsimp only); (repeat' split) <;> simp
@[simp] theorem setCrown_arr (s : State) (c : Nat) : (s.setCrown c).arr = s.arr := by
  unfold setCrown; (try dsimp only); (repeat' split) <;> simp
@[simp] theorem setCrown_seq (s : State) (c : Nat) : (s.setCrown c).seq = s.seq := by
  unfold setCrown; (try dsimp only); (repeat' split) <;> simp
@[simp] theorem setCrown_mem (s : State) (c : Nat) : (s.setCrown c).mem = s.mem := by
  unfold setCrown; (try dsimp only); (repeat' split) <;> simp
@[simp] theorem setCrown_glv (s : State) (c : Nat) : (s.setCrown c).glv = s.glv := by
  unfold setCrown; (try dsimp only); (repeat' split) <;> simp
@[simp] theorem setCrown_ledger (s : State) (c : Nat) : (s.setCrown c).ledger = s.ledger := by
  unfold setCrown; (try dsimp only); (repeat' split) <;> simp
@[simp] theorem setCrown_rung (s : State) (c : Nat) : (s.setCrown c).rung = s.rung := by
  unfold setCrown; (try dsimp only); (repeat' split) <;> simp
@[simp] theorem setCrown_keys (s : State) (c : Nat) : (s.setCrown c).keys = s.keys := by
  unfold setCrown; (try dsimp only); (repeat' split) <;> simp
@[simp] theorem setCrown_stw (s : State) (c : Nat) : (s.setCrown c).stw = s.stw := by
  unfold setCrown; (try dsimp only); (repeat' split) <;> simp
@[simp] theorem setCrown_net (s : State) (c : Nat) : (s.setCrown c).net = s.net := by
  unfold setCrown; (try dsimp only); (repeat' split) <;> simp
@[simp] theorem setCrown_host (s : State) (c : Nat) : (s.setCrown c).host = s.host := by
  unfold setCrown; (try dsimp only); (repeat' split) <;> simp
@[simp] theorem setCrown_aos (s : State) (c : Nat) : (s.setCrown c).aos = s.aos := by
  unfold setCrown; (try dsimp only); (repeat' split) <;> simp
@[simp] theorem setCrown_nodeId (s : State) (c : Nat) : (s.setCrown c).nodeId = s.nodeId := by
  unfold setCrown; (try dsimp only); (repeat' split) <;> simp
@[simp] theorem setCrown_out (s : State) (c : Nat) : (s.setCrown c).out = s.out := by
  unfold setCrown; (try dsimp only); (repeat' split) <;> simp
@[simp] theorem setCrown_freeCtr (s : State) (c : Nat) : (s.setCrown c).freeCtr = s.freeCtr := by
  unfold setCrown; (try dsimp only); (repeat' split) <;> simp
@[simp] theorem setCrown_pending (s : State) (c : Nat) : (s.setCrown c).pending = s.pending := by
  unfold setCrown; (try dsimp only); (repeat' split) <;> simp
@[simp] theorem setPeriod_variant (s : State) (n : Nat) : (s.setPeriod n).variant = s.variant := by
  unfold setPeriod; (try dsimp only); (repeat' split) <;> simp
@[simp] theorem setPeriod_mstate (s : State) (n : Nat) : (s.setPeriod n).mstate = s.mstate := by
  unfold setPeriod; (try dsimp only); (repeat' split) <;> simp
@[simp] theorem setPeriod_dies (s : State) (n : Nat) : (s.setPeriod n).dies = s.dies := by
  unfold setPeriod; (try dsimp only); (repeat' split) <;> simp
@[simp] theorem setPeriod_arr (s : State) (n : Nat) : (s.setPeriod n).arr = s.arr := by
  unfold setPeriod; (try dsimp only); (repeat' split) <;> simp
@[simp] theorem setPeriod_seq (s : State) (n : Nat) : (s.setPeriod n).seq = s.seq := by
  unfold setPeriod; (try dsimp only); (repeat' split) <;> simp
@[simp] theorem setPeriod_mem (s : State) (n : Nat) : (s.setPeriod n).mem = s.mem := by
  unfold setPeriod; (try dsimp only); (repeat' split) <;> simp
@[simp] theorem setPeriod_glv (s : State) (n : Nat) : (s.setPeriod n).glv = s.glv := by
  unfold setPeriod; (try dsimp only); (repeat' split) <;> simp
@[simp] theorem setPeriod_ledger (s : State) (n : Nat) : (s.setPeriod n).ledger = s.ledger := by
  unfold setPeriod; (try dsimp only); (repeat' split) <;> simp
@[simp] theorem setPeriod_rung (s : State) (n : Nat) : (s.setPeriod n).rung = s.rung := by
  unfold setPeriod; (try dsimp only); (repeat' split) <;> simp
@[simp] theorem setPeriod_keys (s : State) (n : Nat) : (s.setPeriod n).keys = s.keys := by
  unfold setPeriod; (try dsimp only); (repeat' split) <;> simp
@[simp] theorem setPeriod_stw (s : State) (n : Nat) : (s.setPeriod n).stw = s.stw := by
  unfold setPeriod; (try dsimp only); (repeat' split) <;> simp
@[simp] theorem setPeriod_net (s : State) (n : Nat) : (s.setPeriod n).net = s.net := by
  unfold setPeriod; (try dsimp only); (repeat' split) <;> simp
@[simp] theorem setPeriod_host (s : State) (n : Nat) : (s.setPeriod n).host = s.host := by
  unfold setPeriod; (try dsimp only); (repeat' split) <;> simp
@[simp] theorem setPeriod_aos (s : State) (n : Nat) : (s.setPeriod n).aos = s.aos := by
  unfold setPeriod; (try dsimp only); (repeat' split) <;> simp
@[simp] theorem setPeriod_nodeId (s : State) (n : Nat) : (s.setPeriod n).nodeId = s.nodeId := by
  unfold setPeriod; (try dsimp only); (repeat' split) <;> simp
@[simp] theorem setPeriod_out (s : State) (n : Nat) : (s.setPeriod n).out = s.out := by
  unfold setPeriod; (try dsimp only); (repeat' split) <;> simp
@[simp] theorem setPeriod_freeCtr (s : State) (n : Nat) : (s.setPeriod n).freeCtr = s.freeCtr := by
  unfold setPeriod; (try dsimp only); (repeat' split) <;> simp
@[simp] theorem setPeriod_pending (s : State) (n : Nat) : (s.setPeriod n).pending = s.pending := by
  unfold setPeriod; (try dsimp only); (repeat' split) <;> simp
@[simp] theorem applyPeriod_variant (s : State) (n : Nat) : (s.applyPeriod n).variant = s.variant := by
  unfold applyPeriod; (try dsimp only); (repeat' split) <;> simp
@[simp] theorem stepTo_variant (s : State) (rc : Nat) : (s.stepTo rc).variant = s.variant := by
  unfold stepTo; (try dsimp only); (repeat' split) <;> simp
@[simp] theorem applyPeriod_mstate (s : State) (n : Nat) : (s.applyPeriod n).mstate = s.mstate := by
  unfold applyPeriod; (try dsimp only); (repeat' split) <;> simp
@[simp] theorem stepTo_mstate (s : State) (rc : Nat) : (s.stepTo rc).mstate = s.mstate := by
  unfold stepTo; (try dsimp only); (repeat' split) <;> simp
@[simp] theorem applyPeriod_dies (s : State) (n : Nat) : (s.applyPeriod n).dies = s.dies := by
  unfold applyPeriod; (try dsimp only); (repeat' split) <;> simp
@[simp] theorem stepTo_dies (s : State) (rc : Nat) : (s.stepTo rc).dies = s.dies := by
  unfold stepTo; (try dsimp only); (repeat' split) <;> simp
@[simp] theorem applyPeriod_arr (s : State) (n : Nat) : (s.applyPeriod n).arr = s.arr := by
  unfold applyPeriod; (try dsimp only); (repeat' split) <;> simp
@[simp] theorem stepTo_arr (s : State) (rc : Nat) : (s.stepTo rc).arr = s.arr := by
  unfold stepTo; (try dsimp only); (repeat' split) <;> simp
@[simp] theorem applyPeriod_seq (s : State) (n : Nat) : (s.applyPeriod n).seq = s.seq := by
  unfold applyPeriod; (try dsimp only); (repeat' split) <;> simp
@[simp] theorem stepTo_seq (s : State) (rc : Nat) : (s.stepTo rc).seq = s.seq := by
  unfold stepTo; (try dsimp only); (repeat' split) <;> simp
@[simp] theorem applyPeriod_mem (s : State) (n : Nat) : (s.applyPeriod n).mem = s.mem := by
  unfold applyPeriod; (try dsimp only); (repeat' split) <;> simp
@[simp] theorem stepTo_mem (s : State) (rc : Nat) : (s.stepTo rc).mem = s.mem := by
  unfold stepTo; (try dsimp only); (repeat' split) <;> simp
@[simp] theorem applyPeriod_glv (s : State) (n : Nat) : (s.applyPeriod n).glv = s.glv := by
  unfold applyPeriod; (try dsimp only); (repeat' split) <;> simp
@[simp] theorem stepTo_glv (s : State) (rc : Nat) : (s.stepTo rc).glv = s.glv := by
  unfold stepTo; (try dsimp only); (repeat' split) <;> simp
@[simp] theorem applyPeriod_ledger (s : State) (n : Nat) : (s.applyPeriod n).ledger = s.ledger := by
  unfold applyPeriod; (try dsimp only); (repeat' split) <;> simp
@[simp] theorem stepTo_ledger (s : State) (rc : Nat) : (s.stepTo rc).ledger = s.ledger := by
  unfold stepTo; (try dsimp only); (repeat' split) <;> simp
@[simp] theorem applyPeriod_rung (s : State) (n : Nat) : (s.applyPeriod n).rung = s.rung := by
  unfold applyPeriod; (try dsimp only); (repeat' split) <;> simp
@[simp] theorem stepTo_rung (s : State) (rc : Nat) : (s.stepTo rc).rung = s.rung := by
  unfold stepTo; (try dsimp only); (repeat' split) <;> simp
@[simp] theorem applyPeriod_keys (s : State) (n : Nat) : (s.applyPeriod n).keys = s.keys := by
  unfold applyPeriod; (try dsimp only); (repeat' split) <;> simp
@[simp] theorem stepTo_keys (s : State) (rc : Nat) : (s.stepTo rc).keys = s.keys := by
  unfold stepTo; (try dsimp only); (repeat' split) <;> simp
@[simp] theorem applyPeriod_stw (s : State) (n : Nat) : (s.applyPeriod n).stw = s.stw := by
  unfold applyPeriod; (try dsimp only); (repeat' split) <;> simp
@[simp] theorem stepTo_stw (s : State) (rc : Nat) : (s.stepTo rc).stw = s.stw := by
  unfold stepTo; (try dsimp only); (repeat' split) <;> simp
@[simp] theorem applyPeriod_net (s : State) (n : Nat) : (s.applyPeriod n).net = s.net := by
  unfold applyPeriod; (try dsimp only); (repeat' split) <;> simp
@[simp] theorem stepTo_net (s : State) (rc : Nat) : (s.stepTo rc).net = s.net := by
  unfold stepTo; (try dsimp only); (repeat' split) <;> simp
@[simp] theorem applyPeriod_host (s : State) (n : Nat) : (s.applyPeriod n).host = s.host := by
  unfold applyPeriod; (try dsimp only); (repeat' split) <;> simp
@[simp] theorem stepTo_host (s : State) (rc : Nat) : (s.stepTo rc).host = s.host := by
  unfold stepTo; (try dsimp only); (repeat' split) <;> simp
@[simp] theorem applyPeriod_aos (s : State) (n : Nat) : (s.applyPeriod n).aos = s.aos := by
  unfold applyPeriod; (try dsimp only); (repeat' split) <;> simp
@[simp] theorem stepTo_aos (s : State) (rc : Nat) : (s.stepTo rc).aos = s.aos := by
  unfold stepTo; (try dsimp only); (repeat' split) <;> simp
@[simp] theorem applyPeriod_nodeId (s : State) (n : Nat) : (s.applyPeriod n).nodeId = s.nodeId := by
  unfold applyPeriod; (try dsimp only); (repeat' split) <;> simp
@[simp] theorem stepTo_nodeId (s : State) (rc : Nat) : (s.stepTo rc).nodeId = s.nodeId := by
  unfold stepTo; (try dsimp only); (repeat' split) <;> simp
@[simp] theorem applyPeriod_out (s : State) (n : Nat) : (s.applyPeriod n).out = s.out := by
  unfold applyPeriod; (try dsimp only); (repeat' split) <;> simp
@[simp] theorem stepTo_out (s : State) (rc : Nat) : (s.stepTo rc).out = s.out := by
  unfold stepTo; (try dsimp only); (repeat' split) <;> simp
@[simp] theorem applyPeriod_freeCtr (s : State) (n : Nat) : (s.applyPeriod n).freeCtr = s.freeCtr := by
  unfold applyPeriod; (try dsimp only); (repeat' split) <;> simp
@[simp] theorem stepTo_freeCtr (s : State) (rc : Nat) : (s.stepTo rc).freeCtr = s.freeCtr := by
  unfold stepTo; (try dsimp only); (repeat' split) <;> simp
@[simp] theorem applyPeriod_pending (s : State) (n : Nat) : (s.applyPeriod n).pending = s.pending := by
  unfold applyPeriod; (try dsimp only); (repeat' split) <;> simp
@[simp] theorem stepTo_pending (s : State) (rc : Nat) : (s.stepTo rc).pending = s.pending := by
  unfold stepTo; (try dsimp only); (repeat' split) <;> simp
@[simp] theorem holdFor_variant (s : State) (k : Nat) : (s.holdFor k).variant = s.variant := by
  unfold holdFor; (try dsimp only); (repeat' split) <;> simp
@[simp] theorem holdFor_mstate (s : State) (k : Nat) : (s.holdFor k).mstate = s.mstate := by
  unfold holdFor; (try dsimp only); (repeat' split) <;> simp
@[simp] theorem holdFor_dies (s : State) (k : Nat) : (s.holdFor k).dies = s.dies := by
  unfold holdFor; (try dsimp only); (repeat' split) <;> simp
@[simp] theorem holdFor_arr (s : State) (k : Nat) : (s.holdFor k).arr = s.arr := by
  unfold holdFor; (try dsimp only); (repeat' split) <;> simp
@[simp] theorem holdFor_seq (s : State) (k : Nat) : (s.holdFor k).seq = s.seq := by
  unfold holdFor; (try dsimp only); (repeat' split) <;> simp
@[simp] theorem holdFor_mem (s : State) (k : Nat) : (s.holdFor k).mem = s.mem := by
  unfold holdFor; (try dsimp only); (repeat' split) <;> simp
@[simp] theorem holdFor_glv (s : State) (k : Nat) : (s.holdFor k).glv = s.glv := by
  unfold holdFor; (try dsimp only); (repeat' split) <;> simp
@[simp] theorem holdFor_ledger (s : State) (k : Nat) : (s.holdFor k).ledger = s.ledger := by
  unfold holdFor; (try dsimp only); (repeat' split) <;> simp
@[simp] theorem holdFor_rung (s : State) (k : Nat) : (s.holdFor k).rung = s.rung := by
  unfold holdFor; (try dsimp only); (repeat' split) <;> simp
@[simp] theorem holdFor_keys (s : State) (k : Nat) : (s.holdFor k).keys = s.keys := by
  unfold holdFor; (try dsimp only); (repeat' split) <;> simp
@[simp] theorem holdFor_stw (s : State) (k : Nat) : (s.holdFor k).stw = s.stw := by
  unfold holdFor; (try dsimp only); (repeat' split) <;> simp
@[simp] theorem holdFor_net (s : State) (k : Nat) : (s.holdFor k).net = s.net := by
  unfold holdFor; (try dsimp only); (repeat' split) <;> simp
@[simp] theorem holdFor_host (s : State) (k : Nat) : (s.holdFor k).host = s.host := by
  unfold holdFor; (try dsimp only); (repeat' split) <;> simp
@[simp] theorem holdFor_aos (s : State) (k : Nat) : (s.holdFor k).aos = s.aos := by
  unfold holdFor; (try dsimp only); (repeat' split) <;> simp
@[simp] theorem holdFor_nodeId (s : State) (k : Nat) : (s.holdFor k).nodeId = s.nodeId := by
  unfold holdFor; (try dsimp only); (repeat' split) <;> simp
@[simp] theorem holdFor_out (s : State) (k : Nat) : (s.holdFor k).out = s.out := by
  unfold holdFor; (try dsimp only); (repeat' split) <;> simp
@[simp] theorem holdFor_freeCtr (s : State) (k : Nat) : (s.holdFor k).freeCtr = s.freeCtr := by
  unfold holdFor; (try dsimp only); (repeat' split) <;> simp
@[simp] theorem holdFor_pending (s : State) (k : Nat) : (s.holdFor k).pending = s.pending := by
  unfold holdFor; (try dsimp only); (repeat' split) <;> simp
@[simp] theorem measured_variant (s : State) (d : Int) : (s.measured d).variant = s.variant := by
  unfold measured; (repeat' (split <;> try dsimp only)) <;> simp
@[simp] theorem measured_mstate (s : State) (d : Int) : (s.measured d).mstate = s.mstate := by
  unfold measured; (repeat' (split <;> try dsimp only)) <;> simp
@[simp] theorem measured_dies (s : State) (d : Int) : (s.measured d).dies = s.dies := by
  unfold measured; (repeat' (split <;> try dsimp only)) <;> simp
@[simp] theorem measured_arr (s : State) (d : Int) : (s.measured d).arr = s.arr := by
  unfold measured; (repeat' (split <;> try dsimp only)) <;> simp
@[simp] theorem measured_seq (s : State) (d : Int) : (s.measured d).seq = s.seq := by
  unfold measured; (repeat' (split <;> try dsimp only)) <;> simp
@[simp] theorem measured_mem (s : State) (d : Int) : (s.measured d).mem = s.mem := by
  unfold measured; (repeat' (split <;> try dsimp only)) <;> simp
@[simp] theorem measured_glv (s : State) (d : Int) : (s.measured d).glv = s.glv := by
  unfold measured; (repeat' (split <;> try dsimp only)) <;> simp
@[simp] theorem measured_ledger (s : State) (d : Int) : (s.measured d).ledger = s.ledger := by
  unfold measured; (repeat' (split <;> try dsimp only)) <;> simp
@[simp] theorem measured_rung (s : State) (d : Int) : (s.measured d).rung = s.rung := by
  unfold measured; (repeat' (split <;> try dsimp only)) <;> simp
@[simp] theorem measured_keys (s : State) (d : Int) : (s.measured d).keys = s.keys := by
  unfold measured; (repeat' (split <;> try dsimp only)) <;> simp
@[simp] theorem measured_stw (s : State) (d : Int) : (s.measured d).stw = s.stw := by
  unfold measured; (repeat' (split <;> try dsimp only)) <;> simp
@[simp] theorem measured_net (s : State) (d : Int) : (s.measured d).net = s.net := by
  unfold measured; (repeat' (split <;> try dsimp only)) <;> simp
@[simp] theorem measured_host (s : State) (d : Int) : (s.measured d).host = s.host := by
  unfold measured; (repeat' (split <;> try dsimp only)) <;> simp
@[simp] theorem measured_aos (s : State) (d : Int) : (s.measured d).aos = s.aos := by
  unfold measured; (repeat' (split <;> try dsimp only)) <;> simp
@[simp] theorem measured_nodeId (s : State) (d : Int) : (s.measured d).nodeId = s.nodeId := by
  unfold measured; (repeat' (split <;> try dsimp only)) <;> simp
@[simp] theorem measured_out (s : State) (d : Int) : (s.measured d).out = s.out := by
  unfold measured; (repeat' (split <;> try dsimp only)) <;> simp
@[simp] theorem measured_freeCtr (s : State) (d : Int) : (s.measured d).freeCtr = s.freeCtr := by
  unfold measured; (repeat' (split <;> try dsimp only)) <;> simp
@[simp] theorem measured_pending (s : State) (d : Int) : (s.measured d).pending = s.pending := by
  unfold measured; (repeat' (split <;> try dsimp only)) <;> simp
@[simp] theorem measured_tick_tick (s : State) (d : Int) : (s.measured d).tick.tick = s.tick.tick := by
  obtain ⟨x, y, z, h⟩ := s.measured_tick d; rw [h]
@[simp] theorem measured_tick_n (s : State) (d : Int) : (s.measured d).tick.n = s.tick.n := by
  obtain ⟨x, y, z, h⟩ := s.measured_tick d; rw [h]
@[simp] theorem measured_tick_phase (s : State) (d : Int) : (s.measured d).tick.phase = s.tick.phase := by
  obtain ⟨x, y, z, h⟩ := s.measured_tick d; rw [h]
@[simp] theorem measured_tick_pend (s : State) (d : Int) : (s.measured d).tick.pend = s.tick.pend := by
  obtain ⟨x, y, z, h⟩ := s.measured_tick d; rw [h]
@[simp] theorem measured_tick_role (s : State) (d : Int) : (s.measured d).tick.role = s.tick.role := by
  obtain ⟨x, y, z, h⟩ := s.measured_tick d; rw [h]
@[simp] theorem measured_tick_parent (s : State) (d : Int) : (s.measured d).tick.parent = s.tick.parent := by
  obtain ⟨x, y, z, h⟩ := s.measured_tick d; rw [h]
@[simp] theorem measured_tick_crown (s : State) (d : Int) : (s.measured d).tick.crown = s.tick.crown := by
  obtain ⟨x, y, z, h⟩ := s.measured_tick d; rw [h]
@[simp] theorem measured_tick_ofsNs (s : State) (d : Int) : (s.measured d).tick.ofsNs = s.tick.ofsNs := by
  obtain ⟨x, y, z, h⟩ := s.measured_tick d; rw [h]
@[simp] theorem measured_tick_freq (s : State) (d : Int) : (s.measured d).tick.freq = s.tick.freq := by
  obtain ⟨x, y, z, h⟩ := s.measured_tick d; rw [h]
@[simp] theorem measured_tick_crownOfs (s : State) (d : Int) : (s.measured d).tick.crownOfs = s.tick.crownOfs := by
  obtain ⟨x, y, z, h⟩ := s.measured_tick d; rw [h]
@[simp] theorem measured_tick_refclk (s : State) (d : Int) : (s.measured d).tick.refclk = s.tick.refclk := by
  obtain ⟨x, y, z, h⟩ := s.measured_tick d; rw [h]
@[simp] theorem measured_tick_hold (s : State) (d : Int) : (s.measured d).tick.hold = s.tick.hold := by
  obtain ⟨x, y, z, h⟩ := s.measured_tick d; rw [h]

end Sys2Proof.Machine.State
end

