-- ==== Sys2Proof/Laws/TickKept.lean ====
section
/-! SUPPORT. What moves the tick block keeps it in order: N and a pending N in range, and the phase below N (Safety.lean). -/

set_option Elab.async false

namespace Sys2Proof.Machine

/-- From `s` to `t`, a tick block in order stays in order. -/
structure State.TickKept (s t : State) : Prop where
  ok : s.TickOk → t.TickOk

namespace State.TickKept

theorem refl (s : State) : TickKept s s := ⟨id⟩

theorem trans {s u v : State} (h1 : TickKept u v) (h : TickKept s u) : TickKept s v := ⟨fun x => h1.ok (h.ok x)⟩

theorem same {s u v : State} (e : v.tick = u.tick) (h : TickKept s u) : TickKept s v :=
  ⟨fun x => by have := h.ok x; unfold State.TickOk at *; rw [e]; exact this⟩

/-- An operation whose frame leaves the tick block out. -/
theorem of {m : Nat} {s u v : State} (hk : State.Keeps m u v) (hm : m.testBit 0 = false) (h : TickKept s u) : TickKept s v :=
  same (hk.tick hm) h

theorem ite {s a b : State} {c : Prop} [Decidable c] (ha : TickKept s a) (hb : TickKept s b) : TickKept s (if c then a else b) := by
  split
  · exact ha
  · exact hb

theorem foldl {α : Type} {s u : State} {f : State → α → State} {l : List α} (hf : ∀ v a, TickKept v (f v a)) (h : TickKept s u) :
    TickKept s (l.foldl f u) := by
  induction l generalizing u with
  | nil => exact h
  | cons a r ih => exact ih (trans (hf u a) h)

/-- Whatever an operation that may fail answers, the tick block stays in order. -/
structure OptP {β : Type} (s : State) (o : Option (State × β)) : Prop where
  keeps : ∀ t b, o = some (t, b) → TickKept s t

theorem optP_none {β : Type} {s : State} : OptP (β := β) s none := ⟨fun _ _ h => nomatch h⟩
theorem optP_some {β : Type} {s : State} {p : State × β} (h : TickKept s p.1) : OptP s (some p) := ⟨fun _ _ e => by cases e; exact h⟩
theorem optP_ite {β : Type} {s : State} {a b : Option (State × β)} {c : Prop} [Decidable c] (ha : OptP s a) (hb : OptP s b) :
    OptP s (if c then a else b) := by
  split
  · exact ha
  · exact hb
theorem ofOptP1 {β : Type} {s : State} {r : State × β} {o : Option (State × β)} (e : o = some r) (h : OptP s o) : TickKept s r.1 := h.keeps r.1 r.2 e
theorem ofPair {β : Type} {s a : State} {b : β} {p : State × β} (e : p = (a, b)) (h : TickKept s p.1) : TickKept s a := by
  rw [e] at h; exact h
/-- A change of the tick block that keeps it in order. -/
theorem onTick {s u : State} {f : TickSt → TickSt}
    (hf : 10000 ≤ u.tick.n → u.tick.n ≤ 1000000 → u.tick.phase < u.tick.n → (∀ p, u.tick.pend = some p → 10000 ≤ p.1 ∧ p.1 ≤ 1000000) →
      10000 ≤ (f u.tick).n ∧ (f u.tick).n ≤ 1000000 ∧ (f u.tick).phase < (f u.tick).n ∧
        ∀ p, (f u.tick).pend = some p → 10000 ≤ p.1 ∧ p.1 ≤ 1000000)
    (h : TickKept s u) : TickKept s (u.onTick f) :=
  ⟨fun x => by obtain ⟨a, b, c, d⟩ := h.ok x; exact hf a b c d⟩

end State.TickKept

/-- The tick block alone in order. -/
def TickSt.Ok (t : TickSt) : Prop := 10000 ≤ t.n ∧ t.n ≤ 1000000 ∧ t.phase < t.n ∧ ∀ p, t.pend = some p → 10000 ≤ p.1 ∧ p.1 ≤ 1000000

theorem TickSt.bump_ok (t : TickSt) (h : t.Ok) : t.bump.Ok := by
  unfold TickSt.Ok TickSt.bump at *
  obtain ⟨a, b, c, d⟩ := h
  split
  · exact ⟨a, b, by assumption, d⟩
  · exact ⟨a, b, by show 0 < t.n; omega, d⟩

theorem TickSt.advance_ok (t : TickSt) (h : t.Ok) : t.advance.Ok := by
  unfold TickSt.advance
  split
  · exact h
  · dsimp only
    split
    · split
      · exact h
      · exact TickSt.bump_ok _ h
      · exact TickSt.bump_ok _ (TickSt.bump_ok _ h)
      · exact TickSt.bump_ok _ (TickSt.bump_ok _ (TickSt.bump_ok _ h))
    · exact TickSt.bump_ok _ h

theorem TickSt.cycle_ok (t : TickSt) (h : t.Ok) : t.cycle.Ok := by
  unfold TickSt.cycle
  split
  · exact h
  · exact TickSt.advance_ok _ h

theorem State.enterT_tick_kept {s_ : State} (s : State) (x : TState) (h_ : State.TickKept s_ s) : State.TickKept s_ (State.enterT s x) := by
  exact State.TickKept.trans ⟨fun x => by unfold State.TickOk at *; rw [State.enterT_tick]; exact x⟩ h_

theorem State.setCrown_tick_kept {s_ : State} (s : State) (c : Nat) (h_ : State.TickKept s_ s) : State.TickKept s_ (State.setCrown s c) := by
  exact State.TickKept.trans ⟨fun x => by unfold State.TickOk at *; rw [State.setCrown_tick]; exact x⟩ h_

theorem State.stepTo_tick_kept {s_ : State} (s : State) (rc : Nat) (h_ : State.TickKept s_ s) : State.TickKept s_ (State.stepTo s rc) := by
  refine State.TickKept.trans ⟨fun x => ?_⟩ h_
  unfold State.TickOk at *; rw [State.stepTo_tick]
  obtain ⟨a, b, c, d⟩ := x
  exact ⟨a, b, Nat.mod_lt _ (by show 0 < s.tick.n; omega), d⟩

theorem State.holdFor_tick_kept {s_ : State} (s : State) (k : Nat) (h_ : State.TickKept s_ s) : State.TickKept s_ (State.holdFor s k) := by
  exact State.TickKept.trans ⟨fun x => by unfold State.TickOk at *; rw [State.holdFor_tick]; exact x⟩ h_

theorem State.measured_tick_kept {s_ : State} (s : State) (d : Int) (h_ : State.TickKept s_ s) : State.TickKept s_ (State.measured s d) := by
  refine State.TickKept.trans ⟨fun x => ?_⟩ h_
  obtain ⟨a, b, c, e⟩ := State.measured_tick s d
  unfold State.TickOk at *; rw [e]; exact x

theorem tkeTickReadOp_tick {s_ : State} (h : Half) (s : State) (h_ : State.TickKept s_ s) : State.TickKept s_ (tkeTickReadOp h s) := by
  unfold tkeTickReadOp
  repeat' first
    | (intro _)
    | (with_reducible exact State.TickKept.refl _)
    | (with_reducible assumption)
    | (with_reducible apply State.TickKept.ite)
    | ((with_reducible apply State.TickKept.of (m := 0x20000)); (case hk => ((with_reducible apply State.emit_keeps) <;> first | decide | (with_reducible exact State.Keeps.refl _ _))); (case hm => rfl))
    | (with_reducible apply State.TickKept.onTick)
    | rfl
    | exact ⟨‹_›, ‹_›, ‹_›, ‹_›⟩
    | extract_lets
    | split
    | dsimp only
    | dsimp +zetaDelta only
    | omega

theorem periodChangeOp_tick (s : State) {s_ : State} (h_ : State.TickKept s_ s) : State.TickKept s_ (periodChangeOp s) := by
  refine State.TickKept.trans ⟨fun x => ?_⟩ h_
  unfold periodChangeOp
  split
  · exact x
  · rename_i n t e
    split
    · exact x
    · have hp := x.2.2.2 _ e
      unfold State.TickOk
      rw [State.applyPeriod_tick]
      exact ⟨hp.1, hp.2, Nat.mod_lt _ (by omega), fun p h => nomatch h⟩

theorem alignmentLoadOp_tick (tick : Word) (phase n : Nat) (pend : Option (Nat × Word)) (master source : Nat) (s : State) {s_ : State}
    (hn : 10000 ≤ n) (hn2 : n ≤ 1000000) (hp : ∀ p, pend = some p → 10000 ≤ p.1 ∧ p.1 ≤ 1000000) (h_ : State.TickKept s_ s) :
    State.TickKept s_ (alignmentLoadOp tick phase n pend master source s) := by
  refine State.TickKept.trans ⟨fun x => ?_⟩ h_
  unfold alignmentLoadOp
  split
  · exact x
  · have ok : ((s.applyPeriod n).onTick fun t =>
        { t with pend := pend.map fun p => (p.1, p.2.toNat), master := TState.ofCode master, parent := some source, sinceHeard := 0 }).TickOk := by
      unfold State.TickOk
      rw [State.onTick_tick, State.applyPeriod_tick]
      refine ⟨hn, hn2, Nat.mod_lt _ (by omega), fun p h => ?_⟩
      cases pend with
      | none => exact nomatch h
      | some q => cases h; exact hp q rfl
    dsimp only
    generalize ((s.applyPeriod n).onTick fun t =>
        { t with pend := pend.map fun p => (p.1, p.2.toNat), master := TState.ofCode master, parent := some source, sinceHeard := 0 }) = u at ok
    refine (State.enterT_tick_kept _ _ (s_ := u) ?_).ok ok
    have hz : State.TickKept u (u.onTick fun t => { t with hold := none }) := ⟨fun x => x⟩
    split
    · exact State.TickKept.refl _
    · split
      · exact State.stepTo_tick_kept _ _ hz
      · split
        · exact State.holdFor_tick_kept _ _ hz
        · exact hz

theorem counterHoldEndOp_tick {s_ : State} (s : State) (h_ : State.TickKept s_ s) : State.TickKept s_ (counterHoldEndOp s) := by
  unfold counterHoldEndOp
  repeat' first
    | (intro _)
    | (with_reducible exact State.TickKept.refl _)
    | (with_reducible assumption)
    | (with_reducible apply State.TickKept.ite)
    | (with_reducible apply State.TickKept.onTick)
    | rfl
    | exact ⟨‹_›, ‹_›, ‹_›, ‹_›⟩
    | split
    | dsimp only
    | dsimp +zetaDelta only
    | omega

theorem beaconSendOp_tick {s_ : State} (sub : Nat) (s : State) (h_ : State.TickKept s_ s) : State.TickKept s_ (beaconSendOp sub s) := by
  unfold beaconSendOp
  repeat' first
    | (intro _)
    | (with_reducible exact State.TickKept.refl _)
    | (with_reducible assumption)
    | (with_reducible apply State.TickKept.ite)
    | ((with_reducible apply State.TickKept.of (m := 0x20000)); (case hk => ((with_reducible apply State.emit_keeps) <;> first | decide | (with_reducible exact State.Keeps.refl _ _))); (case hm => rfl))
    | (with_reducible apply State.TickKept.onTick)
    | rfl
    | exact ⟨‹_›, ‹_›, ‹_›, ‹_›⟩
    | split
    | dsimp only
    | dsimp +zetaDelta only
    | omega

theorem State.followBeacon_tick (s : State) (b : Beacon) (delayNs : Nat) (freqPpb : Int) {s_ : State}
    (hn : 10000 ≤ b.n) (hn2 : b.n ≤ 1000000) (hp : ∀ p, b.pend = some p → 10000 ≤ p.1 ∧ p.1 ≤ 1000000) (h_ : State.TickKept s_ s) :
    State.TickKept s_ (s.followBeacon b delayNs freqPpb) := by
  refine State.TickKept.trans ⟨fun x => ?_⟩ h_
  unfold State.followBeacon
  dsimp only
  refine (State.measured_tick_kept _ _ (State.TickKept.refl _)).ok ?_
  unfold State.TickOk
  rw [State.onTick_tick, State.setCrown_tick, State.applyPeriod_tick]
  refine ⟨hn, hn2, Nat.mod_lt _ (by omega), fun p h => ?_⟩
  cases hq : b.pend with
  | none => rw [hq] at h; exact nomatch h
  | some q => rw [hq] at h; cases h; exact hp q hq

theorem beaconReceiveOp_tick (b : Beacon) (hops delayNs : Nat) (freqPpb : Int) (s : State) {s_ : State}
    (hn : 10000 ≤ b.n) (hn2 : b.n ≤ 1000000) (hp : ∀ p, b.pend = some p → 10000 ≤ p.1 ∧ p.1 ≤ 1000000) (h_ : State.TickKept s_ s) :
    State.TickKept s_ (beaconReceiveOp b hops delayNs freqPpb s) := by
  unfold beaconReceiveOp
  split
  · exact h_
  · dsimp only
    split
    · exact State.followBeacon_tick _ _ _ _ hn hn2 hp (State.TickKept.onTick (fun a b c d => ⟨a, b, c, d⟩) h_)
    · exact State.TickKept.onTick (fun a b c d => ⟨a, b, c, d⟩) h_

theorem beaconCheckOp_tick {s_ : State} (node : Nat) (delta : Int) (master : Nat) (s : State) (h_ : State.TickKept s_ s) : State.TickKept s_ (beaconCheckOp node delta master s) := by
  unfold beaconCheckOp
  repeat' first
    | (intro _)
    | (with_reducible exact State.TickKept.refl _)
    | (with_reducible assumption)
    | (with_reducible apply State.TickKept.ite)
    | (with_reducible apply State.enterT_tick_kept)
    | (with_reducible apply State.TickKept.onTick)
    | ((with_reducible apply State.TickKept.of (m := 0x20000)); (case hk => ((with_reducible apply State.sendLoad_keeps) <;> first | decide | (with_reducible exact State.Keeps.refl _ _))); (case hm => rfl))
    | rfl
    | exact ⟨‹_›, ‹_›, ‹_›, ‹_›⟩
    | extract_lets
    | split
    | dsimp only
    | dsimp +zetaDelta only
    | omega

theorem State.becomeCrown_tick {s_ : State} (s : State) (me : Nat) (h_ : State.TickKept s_ s) : State.TickKept s_ (State.becomeCrown s me) := by
  unfold State.becomeCrown
  repeat' first
    | (intro _)
    | (with_reducible exact State.TickKept.refl _)
    | (with_reducible assumption)
    | (with_reducible apply State.TickKept.ite)
    | (with_reducible apply State.enterT_tick_kept)
    | (with_reducible apply State.setCrown_tick_kept)
    | (with_reducible apply State.TickKept.onTick)
    | rfl
    | exact ⟨‹_›, ‹_›, ‹_›, ‹_›⟩
    | split
    | dsimp only
    | dsimp +zetaDelta only
    | omega

theorem parentLostOp_tick {s_ : State} (cand : List (Nat × Nat)) (s : State) (h_ : State.TickKept s_ s) : State.TickKept s_ (parentLostOp cand s) := by
  unfold parentLostOp
  repeat' first
    | (intro _)
    | (with_reducible exact State.TickKept.refl _)
    | (with_reducible assumption)
    | (with_reducible apply State.TickKept.ite)
    | (with_reducible apply State.enterT_tick_kept)
    | (with_reducible apply State.TickKept.onTick)
    | (with_reducible apply State.becomeCrown_tick)
    | rfl
    | exact ⟨‹_›, ‹_›, ‹_›, ‹_›⟩
    | extract_lets
    | split
    | dsimp only
    | dsimp +zetaDelta only
    | omega

theorem holdoverLimitExpiryOp_tick {s_ : State} (reach : List Nat) (s : State) (h_ : State.TickKept s_ s) : State.TickKept s_ (holdoverLimitExpiryOp reach s) := by
  unfold holdoverLimitExpiryOp
  repeat' first
    | (intro _)
    | (with_reducible exact State.TickKept.refl _)
    | (with_reducible assumption)
    | (with_reducible apply State.TickKept.ite)
    | (with_reducible apply State.enterT_tick_kept)
    | (with_reducible apply State.becomeCrown_tick)
    | (with_reducible apply State.setCrown_tick_kept)
    | (with_reducible apply State.TickKept.foldl)
    | rfl
    | exact ⟨‹_›, ‹_›, ‹_›, ‹_›⟩
    | extract_lets
    | split
    | dsimp only
    | dsimp +zetaDelta only
    | omega

theorem crownMeetOp_tick {s_ : State} (other : Nat) (s : State) (h_ : State.TickKept s_ s) : State.TickKept s_ (crownMeetOp other s) := by
  unfold crownMeetOp
  repeat' first
    | (intro _)
    | (with_reducible exact State.TickKept.refl _)
    | (with_reducible assumption)
    | (with_reducible apply State.TickKept.ite)
    | (with_reducible apply State.enterT_tick_kept)
    | (with_reducible apply State.TickKept.onTick)
    | (with_reducible apply State.setCrown_tick_kept)
    | rfl
    | exact ⟨‹_›, ‹_›, ‹_›, ‹_›⟩
    | split
    | dsimp only
    | dsimp +zetaDelta only
    | omega

theorem tickStepOrHoldOp_tick {s_ : State} (s : State) (h_ : State.TickKept s_ s) : State.TickKept s_ (tickStepOrHoldOp s) := by
  unfold tickStepOrHoldOp
  repeat' first
    | (intro _)
    | (with_reducible exact State.TickKept.refl _)
    | (with_reducible assumption)
    | (with_reducible apply State.TickKept.ite)
    | ((with_reducible apply State.TickKept.of (m := 0x20000)); (case hk => ((with_reducible apply State.emit_keeps) <;> first | decide | (with_reducible exact State.Keeps.refl _ _))); (case hm => rfl))
    | (with_reducible apply State.TickKept.onTick)
    | (with_reducible apply State.holdFor_tick_kept)
    | (with_reducible apply State.stepTo_tick_kept)
    | rfl
    | exact ⟨‹_›, ‹_›, ‹_›, ‹_›⟩
    | extract_lets
    | split
    | dsimp only
    | dsimp +zetaDelta only
    | omega

theorem periodChangeReceiveOp_tick (n : Nat) (tick : Word) (s : State) {s_ : State} (hn : 10000 ≤ n) (hn2 : n ≤ 1000000)
    (h_ : State.TickKept s_ s) : State.TickKept s_ (periodChangeReceiveOp n tick s) := by
  unfold periodChangeReceiveOp
  split
  · exact h_
  · exact State.TickKept.onTick (fun a b c _ => ⟨a, b, c, fun p h => by cases h; exact ⟨hn, hn2⟩⟩) h_

theorem State.setTickPeriodCmd_tick {s_ : State} (s : State) (c : HostCmd) (h_ : State.TickKept s_ s) : State.TickKept s_ (s.setTickPeriodCmd c) := by
  have hk : ∀ (u : State) (n : Nat), State.TickKept s_ u → State.TickKept s_ (u.complete c n) := fun u n h =>
    State.TickKept.of (State.complete_keeps _ _ _ _ _ (m_ := 0x2A000) (by decide) (State.Keeps.refl _ _)) (by decide) h
  have hr : ∀ (u : State) (n : Nat), State.TickKept s_ u → State.TickKept s_ (u.refuse c n) := fun u n h =>
    State.TickKept.of (State.refuse_keeps _ _ _ _ (m_ := 0x2A000) (by decide) (State.Keeps.refl _ _)) (by decide) h
  have hm : ∀ (u : State), State.TickKept s_ u → State.TickKept s_ (u.refuseModule c) := fun u h =>
    State.TickKept.of (State.refuseModule_keeps _ _ (m_ := 0x2A000) (by decide) (State.Keeps.refl _ _)) (by decide) h
  unfold State.setTickPeriodCmd
  dsimp only
  repeat' first
    | (with_reducible assumption)
    | (with_reducible apply hr)
    | (with_reducible apply hm)
    | (with_reducible apply hk)
    | split
  refine State.TickKept.of (State.emit_keeps _ _ (m_ := 0x20000) (by decide) (State.Keeps.refl _ _)) (by decide) (State.TickKept.onTick (fun a b d _ => ?_) h_)
  refine ⟨a, b, d, fun p h => ?_⟩
  cases h
  rename_i h1 _ _
  show 10000 ≤ c.a1.field 0 20 ∧ c.a1.field 0 20 ≤ 1000000
  omega

theorem setTickPeriodOp_tick {s_ : State} (c : HostCmd) (s : State) (h_ : State.TickKept s_ s) : State.TickKept s_ (setTickPeriodOp c s) := by
  unfold setTickPeriodOp State.command
  have hk : ∀ (u : State), u.TickKept (u.taken c 3) := fun u =>
    State.TickKept.of (State.taken_keeps _ _ _ (m_ := 0x2A000) (by decide) (State.Keeps.refl _ _)) (by decide) (State.TickKept.refl _)
  refine State.TickKept.trans ?_ h_
  have ht := hk s
  dsimp only
  generalize s.taken c 3 = u at ht
  refine State.TickKept.trans ?_ ht
  repeat' first
    | (with_reducible apply State.setTickPeriodCmd_tick)
    | (with_reducible exact State.TickKept.refl _)
    | (exact State.TickKept.of (State.refuse_keeps _ _ _ _ (m_ := 0x2A000) (by decide) (State.Keeps.refl _ _)) (by decide) (State.TickKept.refl _))
    | (exact State.TickKept.of (State.refuseModule_keeps _ _ (m_ := 0x2A000) (by decide) (State.Keeps.refl _ _)) (by decide) (State.TickKept.refl _))
    | (exact State.TickKept.of (State.refuseFreeGlove_keeps _ _ _ (m_ := 0x2A000) (by decide) (State.Keeps.refl _ _)) (by decide) (State.TickKept.refl _))
    | split

theorem State.leaveDuties_tick {s_ : State} (s : State) (h_ : State.TickKept s_ s) : State.TickKept s_ (State.leaveDuties s) := by
  unfold State.leaveDuties
  repeat' first
    | (intro _)
    | (with_reducible exact State.TickKept.refl _)
    | (with_reducible assumption)
    | (with_reducible apply State.TickKept.ite)
    | ((with_reducible apply State.TickKept.of (m := 0x1000)); (case hk => ((with_reducible apply State.onNet_keeps) <;> first | decide | (with_reducible exact State.Keeps.refl _ _))); (case hm => rfl))
    | (with_reducible apply State.TickKept.onTick)
    | rfl
    | exact ⟨‹_›, ‹_›, ‹_›, ‹_›⟩
    | split
    | dsimp only
    | dsimp +zetaDelta only
    | omega

theorem State.newEpoch_tick {s_ : State} (s : State) (e : Word) (h_ : State.TickKept s_ s) : State.TickKept s_ (State.newEpoch s e).1 := by
  unfold State.newEpoch
  repeat' first
    | (intro _)
    | (with_reducible exact State.TickKept.refl _)
    | (with_reducible assumption)
    | (with_reducible apply State.TickKept.ite)
    | ((with_reducible apply State.TickKept.of (m := 0x8000)); (case hk => ((with_reducible apply State.seeEpoch_keeps) <;> first | decide | (with_reducible exact State.Keeps.refl _ _))); (case hm => rfl))
    | (with_reducible apply State.leaveDuties_tick)
    | rfl
    | exact ⟨‹_›, ‹_›, ‹_›, ‹_›⟩
    | extract_lets
    | split
    | dsimp only
    | dsimp +zetaDelta only
    | omega

theorem rackConflictOp_tick {s_ : State} (otherLockTick : Word) (otherIdent : Word) (s : State) (h_ : State.TickKept s_ s) : State.TickKept s_ (rackConflictOp otherLockTick otherIdent s) := by
  unfold rackConflictOp
  repeat' first
    | (intro _)
    | (with_reducible exact State.TickKept.refl _)
    | (with_reducible assumption)
    | (with_reducible apply State.TickKept.ite)
    | ((with_reducible apply State.TickKept.of (m := 0x20000)); (case hk => ((with_reducible apply State.emit_keeps) <;> first | decide | (with_reducible exact State.Keeps.refl _ _))); (case hm => rfl))
    | ((with_reducible apply State.TickKept.of (m := 0x1000)); (case hk => ((with_reducible apply State.onNet_keeps) <;> first | decide | (with_reducible exact State.Keeps.refl _ _))); (case hm => rfl))
    | (with_reducible apply State.becomeCrown_tick)
    | ((with_reducible apply State.TickKept.of (m := 0x10000)); (case hk => ((with_reducible apply State.toNode_keeps) <;> first | decide | (with_reducible exact State.Keeps.refl _ _))); (case hm => rfl))
    | rfl
    | exact ⟨‹_›, ‹_›, ‹_›, ‹_›⟩
    | extract_lets
    | split
    | dsimp only
    | dsimp +zetaDelta only
    | omega

theorem State.takeDuties_tick {s_ : State} (s : State) (h_ : State.TickKept s_ s) : State.TickKept s_ (State.takeDuties s) := by
  unfold State.takeDuties
  repeat' first
    | (intro _)
    | (with_reducible exact State.TickKept.refl _)
    | (with_reducible assumption)
    | (with_reducible apply State.TickKept.ite)
    | ((with_reducible apply State.TickKept.of (m := 0x20000)); (case hk => ((with_reducible apply State.emit_keeps) <;> first | decide | (with_reducible exact State.Keeps.refl _ _))); (case hm => rfl))
    | ((with_reducible apply State.TickKept.of (m := 0x8000)); (case hk => ((with_reducible apply State.setReg_keeps) <;> first | decide | (with_reducible exact State.Keeps.refl _ _))); (case hm => rfl))
    | ((with_reducible apply State.TickKept.of (m := 0x1000)); (case hk => ((with_reducible apply State.onNet_keeps) <;> first | decide | (with_reducible exact State.Keeps.refl _ _))); (case hm => rfl))
    | (with_reducible apply State.TickKept.onTick)
    | ((with_reducible apply State.TickKept.of (m := 0x8000)); (case hk => ((with_reducible apply State.raise_keeps) <;> first | decide | (with_reducible exact State.Keeps.refl _ _))); (case hm => rfl))
    | rfl
    | exact ⟨‹_›, ‹_›, ‹_›, ‹_›⟩
    | extract_lets
    | split
    | dsimp only
    | dsimp +zetaDelta only
    | omega

theorem managerTakeoverOp_tick {s_ : State} (_fenced : Bool) (s : State) (h_ : State.TickKept s_ s) : State.TickKept s_ (managerTakeoverOp _fenced s) := by
  unfold managerTakeoverOp
  repeat' first
    | (intro _)
    | (with_reducible exact State.TickKept.refl _)
    | (with_reducible assumption)
    | (with_reducible apply State.TickKept.ite)
    | (with_reducible apply State.takeDuties_tick)
    | rfl
    | exact ⟨‹_›, ‹_›, ‹_›, ‹_›⟩
    | split
    | dsimp only
    | dsimp +zetaDelta only
    | omega

theorem epochAnnounceOp_tick {s_ : State} (epoch : Word) (s : State) (h_ : State.TickKept s_ s) : State.TickKept s_ (epochAnnounceOp epoch s) := by
  unfold epochAnnounceOp
  repeat' first
    | (intro _)
    | (with_reducible exact State.TickKept.refl _)
    | (with_reducible assumption)
    | (with_reducible apply State.TickKept.ite)
    | (with_reducible apply State.newEpoch_tick)
    | rfl
    | exact ⟨‹_›, ‹_›, ‹_›, ‹_›⟩
    | split
    | dsimp only
    | dsimp +zetaDelta only
    | omega

theorem managerRoleDecisionOp_tick {s_ : State} (masterSeen : Bool) (standbySeen : Bool) (rivalIdent : Option Word) (s : State) (h_ : State.TickKept s_ s) : State.TickKept s_ (managerRoleDecisionOp masterSeen standbySeen rivalIdent s) := by
  unfold managerRoleDecisionOp
  repeat' first
    | (intro _)
    | (with_reducible exact State.TickKept.refl _)
    | (with_reducible assumption)
    | (with_reducible apply State.TickKept.ite)
    | ((with_reducible apply State.TickKept.of (m := 0x1000)); (case hk => ((with_reducible apply State.onNet_keeps) <;> first | decide | (with_reducible exact State.Keeps.refl _ _))); (case hm => rfl))
    | (with_reducible apply State.TickKept.onTick)
    | rfl
    | exact ⟨‹_›, ‹_›, ‹_›, ‹_›⟩
    | extract_lets
    | split
    | dsimp only
    | dsimp +zetaDelta only
    | omega

theorem State.warmReset_tick {s_ : State} (s : State) (h_ : State.TickKept s_ s) : State.TickKept s_ (State.warmReset s) := by
  refine State.TickKept.trans ⟨fun x => ?_⟩ h_
  unfold State.TickOk State.warmReset at *; exact x

theorem State.coldReset_tick {s_ : State} (s : State) (powerOn : Bool) (h_ : State.TickKept s_ s) : State.TickKept s_ (State.coldReset s powerOn) := by
  refine State.TickKept.trans ⟨fun x => ?_⟩ h_
  have a : State.reset.tick.n = 25000 := rfl
  have b : State.reset.tick.phase = 0 := rfl
  have c : State.reset.tick.pend = none := rfl
  unfold State.TickOk State.coldReset
  dsimp only
  rw [a, b, c]
  exact ⟨by decide, by decide, by decide, fun p h => nomatch h⟩

theorem State.acceptReset_tick {s_ : State} (s : State) (cause : Nat) (cold : Bool) (h_ : State.TickKept s_ s) : State.TickKept s_ (State.acceptReset s cause cold) := by
  unfold State.acceptReset
  repeat' first
    | (intro _)
    | (with_reducible exact State.TickKept.refl _)
    | (with_reducible assumption)
    | (with_reducible apply State.TickKept.ite)
    | ((with_reducible apply State.TickKept.of (m := 0x20000)); (case hk => ((with_reducible apply State.emit_keeps) <;> first | decide | (with_reducible exact State.Keeps.refl _ _))); (case hm => rfl))
    | ((with_reducible apply State.TickKept.of (m := 0x8000)); (case hk => ((with_reducible apply State.setReg_keeps) <;> first | decide | (with_reducible exact State.Keeps.refl _ _))); (case hm => rfl))
    | ((with_reducible apply State.TickKept.of (m := 0x4000)); (case hk => ((with_reducible apply State.onAos_keeps) <;> first | decide | (with_reducible exact State.Keeps.refl _ _))); (case hm => rfl))
    | ((with_reducible apply State.TickKept.of (m := 0x8000)); (case hk => ((with_reducible apply State.keepLock_keeps) <;> first | decide | (with_reducible exact State.Keeps.refl _ _))); (case hm => rfl))
    | ((with_reducible apply State.TickKept.of (m := 0x4)); (case hk => ((with_reducible apply State.toMode_keeps) <;> first | decide | (with_reducible exact State.Keeps.refl _ _))); (case hm => rfl))
    | ((with_reducible apply State.TickKept.of (m := 0x8000)); (case hk => ((with_reducible apply State.raise_keeps) <;> first | decide | (with_reducible exact State.Keeps.refl _ _))); (case hm => rfl))
    | (with_reducible apply State.coldReset_tick)
    | (with_reducible apply State.warmReset_tick)
    | rfl
    | exact ⟨‹_›, ‹_›, ‹_›, ‹_›⟩
    | extract_lets
    | split
    | dsimp only
    | dsimp +zetaDelta only
    | omega

theorem State.resetCause_tick {s_ : State} (s : State) (cause : Nat) (cold : Bool) (h_ : State.TickKept s_ s) : State.TickKept s_ (State.resetCause s cause cold) := by
  unfold State.resetCause
  repeat' first
    | (intro _)
    | (with_reducible exact State.TickKept.refl _)
    | (with_reducible assumption)
    | (with_reducible apply State.TickKept.ite)
    | (with_reducible apply State.acceptReset_tick)
    | rfl
    | exact ⟨‹_›, ‹_›, ‹_›, ‹_›⟩
    | split
    | dsimp only
    | dsimp +zetaDelta only
    | omega

theorem State.takeTrip_tick {s_ : State} (s : State) (h_ : State.TickKept s_ s) : State.TickKept s_ (State.takeTrip s) := by
  unfold State.takeTrip
  repeat' first
    | (intro _)
    | (with_reducible exact State.TickKept.refl _)
    | (with_reducible assumption)
    | (with_reducible apply State.TickKept.ite)
    | ((with_reducible apply State.TickKept.of (m := 0x20000)); (case hk => ((with_reducible apply State.emit_keeps) <;> first | decide | (with_reducible exact State.Keeps.refl _ _))); (case hm => rfl))
    | ((with_reducible apply State.TickKept.of (m := 0x4000)); (case hk => ((with_reducible apply State.onAos_keeps) <;> first | decide | (with_reducible exact State.Keeps.refl _ _))); (case hm => rfl))
    | ((with_reducible apply State.TickKept.of (m := 0x8000)); (case hk => ((with_reducible apply State.keepLock_keeps) <;> first | decide | (with_reducible exact State.Keeps.refl _ _))); (case hm => rfl))
    | ((with_reducible apply State.TickKept.of (m := 0x4)); (case hk => ((with_reducible apply State.toMode_keeps) <;> first | decide | (with_reducible exact State.Keeps.refl _ _))); (case hm => rfl))
    | ((with_reducible apply State.TickKept.of (m := 0x40)); (case hk => ((with_reducible apply State.onMem_keeps) <;> first | decide | (with_reducible exact State.Keeps.refl _ _))); (case hm => rfl))
    | ((with_reducible apply State.TickKept.of (m := 0x8000)); (case hk => ((with_reducible apply State.errClass_keeps) <;> first | decide | (with_reducible exact State.Keeps.refl _ _))); (case hm => rfl))
    | (with_reducible apply State.warmReset_tick)
    | rfl
    | exact ⟨‹_›, ‹_›, ‹_›, ‹_›⟩
    | extract_lets
    | split
    | dsimp only
    | dsimp +zetaDelta only
    | omega

theorem State.loseRefclk_tick {s_ : State} (s : State) (h_ : State.TickKept s_ s) : State.TickKept s_ (State.loseRefclk s) := by
  unfold State.loseRefclk
  repeat' first
    | (intro _)
    | (with_reducible exact State.TickKept.refl _)
    | (with_reducible assumption)
    | (with_reducible apply State.TickKept.ite)
    | (with_reducible apply State.resetCause_tick)
    | (with_reducible apply State.TickKept.onTick)
    | ((with_reducible apply State.TickKept.of (m := 0x4000)); (case hk => ((with_reducible apply State.onAos_keeps) <;> first | decide | (with_reducible exact State.Keeps.refl _ _))); (case hm => rfl))
    | rfl
    | exact ⟨‹_›, ‹_›, ‹_›, ‹_›⟩
    | split
    | dsimp only
    | dsimp +zetaDelta only
    | omega

theorem powerOnOp_tick {s_ : State} (s : State) (h_ : State.TickKept s_ s) : State.TickKept s_ (powerOnOp s) := by
  unfold powerOnOp
  repeat' first
    | (intro _)
    | (with_reducible exact State.TickKept.refl _)
    | (with_reducible assumption)
    | (with_reducible apply State.TickKept.ite)
    | (with_reducible apply State.acceptReset_tick)
    | ((with_reducible apply State.TickKept.of (m := 0x4000)); (case hk => ((with_reducible apply State.onAos_keeps) <;> first | decide | (with_reducible exact State.Keeps.refl _ _))); (case hm => rfl))
    | rfl
    | exact ⟨‹_›, ‹_›, ‹_›, ‹_›⟩
    | extract_lets
    | split
    | dsimp only
    | dsimp +zetaDelta only
    | omega

theorem extOp_tick {s_ : State} (lowRc : Nat) (s : State) (h_ : State.TickKept s_ s) : State.TickKept s_ (extOp lowRc s) := by
  unfold extOp
  repeat' first
    | (intro _)
    | (with_reducible exact State.TickKept.refl _)
    | (with_reducible assumption)
    | (with_reducible apply State.TickKept.ite)
    | (with_reducible apply State.acceptReset_tick)
    | ((with_reducible apply State.TickKept.of (m := 0x8000)); (case hk => ((with_reducible apply State.raise_keeps) <;> first | decide | (with_reducible exact State.Keeps.refl _ _))); (case hm => rfl))
    | rfl
    | exact ⟨‹_›, ‹_›, ‹_›, ‹_›⟩
    | split
    | dsimp only
    | dsimp +zetaDelta only
    | omega

theorem railOp_tick {s_ : State} (idx : Nat) (s : State) (h_ : State.TickKept s_ s) : State.TickKept s_ (railOp idx s) := by
  unfold railOp
  repeat' first
    | (intro _)
    | (with_reducible exact State.TickKept.refl _)
    | (with_reducible assumption)
    | (with_reducible apply State.TickKept.ite)
    | (with_reducible apply State.resetCause_tick)
    | ((with_reducible apply State.TickKept.of (m := 0x4000)); (case hk => ((with_reducible apply State.onAos_keeps) <;> first | decide | (with_reducible exact State.Keeps.refl _ _))); (case hm => rfl))
    | rfl
    | exact ⟨‹_›, ‹_›, ‹_›, ‹_›⟩
    | split
    | dsimp only
    | dsimp +zetaDelta only
    | omega

theorem thermtripOp_tick {s_ : State} (s : State) (h_ : State.TickKept s_ s) : State.TickKept s_ (thermtripOp s) := by
  unfold thermtripOp
  repeat' first
    | (intro _)
    | (with_reducible exact State.TickKept.refl _)
    | (with_reducible assumption)
    | (with_reducible apply State.TickKept.ite)
    | ((with_reducible apply State.TickKept.of (m := 0x20000)); (case hk => ((with_reducible apply State.emit_keeps) <;> first | decide | (with_reducible exact State.Keeps.refl _ _))); (case hm => rfl))
    | (with_reducible apply State.acceptReset_tick)
    | ((with_reducible apply State.TickKept.of (m := 0x4000)); (case hk => ((with_reducible apply State.onAos_keeps) <;> first | decide | (with_reducible exact State.Keeps.refl _ _))); (case hm => rfl))
    | rfl
    | exact ⟨‹_›, ‹_›, ‹_›, ‹_›⟩
    | split
    | dsimp only
    | dsimp +zetaDelta only
    | omega

theorem thermalTripOp_tick {s_ : State} (s : State) (h_ : State.TickKept s_ s) : State.TickKept s_ (thermalTripOp s) := by
  unfold thermalTripOp
  repeat' first
    | (intro _)
    | (with_reducible exact State.TickKept.refl _)
    | (with_reducible assumption)
    | (with_reducible apply State.TickKept.ite)
    | (with_reducible apply State.takeTrip_tick)
    | rfl
    | exact ⟨‹_›, ‹_›, ‹_›, ‹_›⟩
    | split
    | dsimp only
    | dsimp +zetaDelta only
    | omega

theorem refclkLossOp_tick {s_ : State} (s : State) (h_ : State.TickKept s_ s) : State.TickKept s_ (refclkLossOp s) := by
  unfold refclkLossOp
  repeat' first
    | (intro _)
    | (with_reducible exact State.TickKept.refl _)
    | (with_reducible assumption)
    | (with_reducible apply State.TickKept.ite)
    | (with_reducible apply State.loseRefclk_tick)
    | rfl
    | exact ⟨‹_›, ‹_›, ‹_›, ‹_›⟩
    | split
    | dsimp only
    | dsimp +zetaDelta only
    | omega

theorem refclkWindowOp_tick {s_ : State} (count : Nat) (s : State) (h_ : State.TickKept s_ s) : State.TickKept s_ (refclkWindowOp count s) := by
  unfold refclkWindowOp
  repeat' first
    | (intro _)
    | (with_reducible exact State.TickKept.refl _)
    | (with_reducible assumption)
    | (with_reducible apply State.TickKept.ite)
    | ((with_reducible apply State.TickKept.of (m := 0x8000)); (case hk => ((with_reducible apply State.setFld_keeps) <;> first | decide | (with_reducible exact State.Keeps.refl _ _))); (case hm => rfl))
    | ((with_reducible apply State.TickKept.of (m := 0x4000)); (case hk => ((with_reducible apply State.onAos_keeps) <;> first | decide | (with_reducible exact State.Keeps.refl _ _))); (case hm => rfl))
    | (with_reducible apply State.TickKept.onTick)
    | (with_reducible apply State.loseRefclk_tick)
    | rfl
    | exact ⟨‹_›, ‹_›, ‹_›, ‹_›⟩
    | extract_lets
    | split
    | dsimp only
    | dsimp +zetaDelta only
    | omega

theorem watchdogOp_tick {s_ : State} (s : State) (h_ : State.TickKept s_ s) : State.TickKept s_ (watchdogOp s) := by
  unfold watchdogOp
  repeat' first
    | (intro _)
    | (with_reducible exact State.TickKept.refl _)
    | (with_reducible assumption)
    | (with_reducible apply State.TickKept.ite)
    | (with_reducible apply State.resetCause_tick)
    | rfl
    | exact ⟨‹_›, ‹_›, ‹_›, ‹_›⟩
    | split
    | dsimp only
    | dsimp +zetaDelta only
    | omega

theorem aosRstreqWriteOp_tick {s_ : State} (half : Half) (val : Word) (s : State) (h_ : State.TickKept s_ s) : State.TickKept s_ (aosRstreqWriteOp half val s) := by
  unfold aosRstreqWriteOp
  repeat' first
    | (intro _)
    | (with_reducible exact State.TickKept.refl _)
    | (with_reducible assumption)
    | (with_reducible apply State.TickKept.ite)
    | (with_reducible apply State.resetCause_tick)
    | rfl
    | exact ⟨‹_›, ‹_›, ‹_›, ‹_›⟩
    | extract_lets
    | split
    | dsimp only
    | dsimp +zetaDelta only
    | omega

theorem resetNSampleOp_tick {s_ : State} (high : Bool) (s : State) (h_ : State.TickKept s_ s) : State.TickKept s_ (resetNSampleOp high s) := by
  unfold resetNSampleOp
  repeat' first
    | (intro _)
    | (with_reducible exact State.TickKept.refl _)
    | (with_reducible assumption)
    | (with_reducible apply State.TickKept.ite)
    | ((with_reducible apply State.TickKept.of (m := 0x4000)); (case hk => ((with_reducible apply State.onAos_keeps) <;> first | decide | (with_reducible exact State.Keeps.refl _ _))); (case hm => rfl))
    | ((with_reducible apply State.TickKept.of (m := 0x4)); (case hk => ((with_reducible apply State.toMode_keeps) <;> first | decide | (with_reducible exact State.Keeps.refl _ _))); (case hm => rfl))
    | (with_reducible apply State.acceptReset_tick)
    | ((with_reducible apply State.TickKept.of (m := 0x8000)); (case hk => ((with_reducible apply State.raise_keeps) <;> first | decide | (with_reducible exact State.Keeps.refl _ _))); (case hm => rfl))
    | rfl
    | exact ⟨‹_›, ‹_›, ‹_›, ‹_›⟩
    | extract_lets
    | split
    | dsimp only
    | dsimp +zetaDelta only
    | omega

theorem State.changeProfile_tick {s_ : State} (s : State) (p : Nat) (h_ : State.TickKept s_ s) : State.TickKept s_ (State.changeProfile s p) := by
  unfold State.changeProfile
  repeat' first
    | (intro _)
    | (with_reducible exact State.TickKept.refl _)
    | (with_reducible assumption)
    | (with_reducible apply State.TickKept.ite)
    | ((with_reducible apply State.TickKept.of (m := 0x800)); (case hk => ((with_reducible apply State.onStw_keeps) <;> first | decide | (with_reducible exact State.Keeps.refl _ _))); (case hm => rfl))
    | ((with_reducible apply State.TickKept.of (m := 0x8000)); (case hk => ((with_reducible apply State.setFld_keeps) <;> first | decide | (with_reducible exact State.Keeps.refl _ _))); (case hm => rfl))
    | ((with_reducible apply State.TickKept.of (m := 0x4000)); (case hk => ((with_reducible apply State.onAos_keeps) <;> first | decide | (with_reducible exact State.Keeps.refl _ _))); (case hm => rfl))
    | ((with_reducible apply State.TickKept.of (m := 0x1000)); (case hk => ((with_reducible apply State.onNet_keeps) <;> first | decide | (with_reducible exact State.Keeps.refl _ _))); (case hm => rfl))
    | (with_reducible apply State.TickKept.onTick)
    | ((with_reducible apply State.TickKept.of (m := 0x1800)); (case hk => ((with_reducible apply State.linkTrain_keeps) <;> first | decide | (with_reducible exact State.Keeps.refl _ _))); (case hm => rfl))
    | ((with_reducible apply State.TickKept.of (m := 0x9800)); (case hk => ((with_reducible apply State.linkDown_keeps) <;> first | decide | (with_reducible exact State.Keeps.refl _ _))); (case hm => rfl))
    | ((with_reducible apply State.TickKept.of (m := 0x40)); (case hk => ((with_reducible apply State.onMem_keeps) <;> first | decide | (with_reducible exact State.Keeps.refl _ _))); (case hm => rfl))
    | ((with_reducible apply State.TickKept.of (m := 0x8840)); (case hk => ((with_reducible apply State.trimPool_keeps) <;> first | decide | (with_reducible exact State.Keeps.refl _ _))); (case hm => rfl))
    | ((with_reducible apply State.TickKept.of (m := 0x8000)); (case hk => ((with_reducible apply State.loadLimits_keeps) <;> first | decide | (with_reducible exact State.Keeps.refl _ _))); (case hm => rfl))
    | (with_reducible apply State.TickKept.foldl)
    | rfl
    | exact ⟨‹_›, ‹_›, ‹_›, ‹_›⟩
    | extract_lets
    | split
    | dsimp only
    | dsimp +zetaDelta only
    | omega

theorem State.failPll_tick {s_ : State} (s : State) (p : PllPart) (service : Bool) (h_ : State.TickKept s_ s) : State.TickKept s_ (State.failPll s p service) := by
  unfold State.failPll
  repeat' first
    | (intro _)
    | (with_reducible exact State.TickKept.refl _)
    | (with_reducible assumption)
    | (with_reducible apply State.TickKept.ite)
    | ((with_reducible apply State.TickKept.of (m := 0x9800)); (case hk => ((with_reducible apply State.fenceLink_keeps) <;> first | decide | (with_reducible exact State.Keeps.refl _ _))); (case hm => rfl))
    | ((with_reducible apply State.TickKept.of (m := 0x6E8FC)); (case hk => ((with_reducible apply State.arrayFence_keeps) <;> first | decide | (with_reducible exact State.Keeps.refl _ _))); (case hm => rfl))
    | ((with_reducible apply State.TickKept.of (m := 0x6F864)); (case hk => ((with_reducible apply State.fenceIod_keeps) <;> first | decide | (with_reducible exact State.Keeps.refl _ _))); (case hm => rfl))
    | (with_reducible apply State.acceptReset_tick)
    | ((with_reducible apply State.TickKept.of (m := 0x6A864)); (case hk => ((with_reducible apply State.fencePort_keeps) <;> first | decide | (with_reducible exact State.Keeps.refl _ _))); (case hm => rfl))
    | ((with_reducible apply State.TickKept.of (m := 0x6F8FC)); (case hk => ((with_reducible apply State.retireStackDie_keeps) <;> first | decide | (with_reducible exact State.Keeps.refl _ _))); (case hm => rfl))
    | ((with_reducible apply State.TickKept.of (m := 0x8000)); (case hk => ((with_reducible apply State.errClass_keeps) <;> first | decide | (with_reducible exact State.Keeps.refl _ _))); (case hm => rfl))
    | ((with_reducible apply State.TickKept.of (m := 0x6F8FC)); (case hk => ((with_reducible apply State.fullFence_keeps) <;> first | decide | (with_reducible exact State.Keeps.refl _ _))); (case hm => rfl))
    | (with_reducible apply State.TickKept.foldl)
    | rfl
    | exact ⟨‹_›, ‹_›, ‹_›, ‹_›⟩
    | extract_lets
    | split
    | dsimp only
    | dsimp +zetaDelta only
    | omega

theorem pllWindowOp_tick {s_ : State} (p : PllPart) (ok : Bool) (s : State) (h_ : State.TickKept s_ s) : State.TickKept s_ (pllWindowOp p ok s) := by
  unfold pllWindowOp
  repeat' first
    | (intro _)
    | (with_reducible exact State.TickKept.refl _)
    | (with_reducible assumption)
    | (with_reducible apply State.TickKept.ite)
    | (with_reducible apply State.failPll_tick)
    | ((with_reducible apply State.TickKept.of (m := 0x4000)); (case hk => ((with_reducible apply State.onAos_keeps) <;> first | decide | (with_reducible exact State.Keeps.refl _ _))); (case hm => rfl))
    | ((with_reducible apply State.TickKept.of (m := 0x8000)); (case hk => ((with_reducible apply State.raise_keeps) <;> first | decide | (with_reducible exact State.Keeps.refl _ _))); (case hm => rfl))
    | rfl
    | exact ⟨‹_›, ‹_›, ‹_›, ‹_›⟩
    | extract_lets
    | split
    | dsimp only
    | dsimp +zetaDelta only
    | omega

theorem railCheckOp_tick {s_ : State} (ok : Bool) (s : State) (h_ : State.TickKept s_ s) : State.TickKept s_ (railCheckOp ok s) := by
  unfold railCheckOp
  repeat' first
    | (intro _)
    | (with_reducible exact State.TickKept.refl _)
    | (with_reducible assumption)
    | (with_reducible apply State.TickKept.ite)
    | (with_reducible apply State.acceptReset_tick)
    | ((with_reducible apply State.TickKept.of (m := 0x4000)); (case hk => ((with_reducible apply State.onAos_keeps) <;> first | decide | (with_reducible exact State.Keeps.refl _ _))); (case hm => rfl))
    | rfl
    | exact ⟨‹_›, ‹_›, ‹_›, ‹_›⟩
    | split
    | dsimp only
    | dsimp +zetaDelta only
    | omega

theorem profileChangeOp_tick {s_ : State} (s : State) (h_ : State.TickKept s_ s) : State.TickKept s_ (profileChangeOp s) := by
  unfold profileChangeOp
  repeat' first
    | (intro _)
    | (with_reducible exact State.TickKept.refl _)
    | (with_reducible assumption)
    | (with_reducible apply State.TickKept.ite)
    | (with_reducible apply State.changeProfile_tick)
    | rfl
    | exact ⟨‹_›, ‹_›, ‹_›, ‹_›⟩
    | split
    | dsimp only
    | dsimp +zetaDelta only
    | omega

theorem State.leaveRung_tick {s_ : State} (s : State) (wake : Nat) (h_ : State.TickKept s_ s) : State.TickKept s_ (State.leaveRung s wake) := by
  unfold State.leaveRung
  repeat' first
    | (intro _)
    | (with_reducible exact State.TickKept.refl _)
    | (with_reducible assumption)
    | (with_reducible apply State.TickKept.ite)
    | ((with_reducible apply State.TickKept.of (m := 0x6E8E8)); (case hk => ((with_reducible apply State.resumeAll_keeps) <;> first | decide | (with_reducible exact State.Keeps.refl _ _))); (case hm => rfl))
    | ((with_reducible apply State.TickKept.of (m := 0x6A8F0)); (case hk => ((with_reducible apply State.beginReset_keeps) <;> first | decide | (with_reducible exact State.Keeps.refl _ _))); (case hm => rfl))
    | (with_reducible apply State.enterT_tick_kept)
    | ((with_reducible apply State.TickKept.of (m := 0x4000)); (case hk => ((with_reducible apply State.onAos_keeps) <;> first | decide | (with_reducible exact State.Keeps.refl _ _))); (case hm => rfl))
    | ((with_reducible apply State.TickKept.of (m := 0x200)); (case hk => ((with_reducible apply State.onRung_keeps) <;> first | decide | (with_reducible exact State.Keeps.refl _ _))); (case hm => rfl))
    | ((with_reducible apply State.TickKept.of (m := 0x1800)); (case hk => ((with_reducible apply State.linkTrain_keeps) <;> first | decide | (with_reducible exact State.Keeps.refl _ _))); (case hm => rfl))
    | ((with_reducible apply State.TickKept.of (m := 0x40)); (case hk => ((with_reducible apply State.onMem_keeps) <;> first | decide | (with_reducible exact State.Keeps.refl _ _))); (case hm => rfl))
    | (with_reducible apply State.TickKept.foldl)
    | rfl
    | exact ⟨‹_›, ‹_›, ‹_›, ‹_›⟩
    | extract_lets
    | split
    | dsimp only
    | dsimp +zetaDelta only
    | omega

theorem State.wakeBy_tick {s_ : State} (s : State) (src : WakeSrc) (h_ : State.TickKept s_ s) : State.TickKept s_ (State.wakeBy s src) := by
  unfold State.wakeBy
  repeat' first
    | (intro _)
    | (with_reducible exact State.TickKept.refl _)
    | (with_reducible assumption)
    | (with_reducible apply State.TickKept.ite)
    | (with_reducible apply State.leaveRung_tick)
    | ((with_reducible apply State.TickKept.of (m := 0x200)); (case hk => ((with_reducible apply State.onRung_keeps) <;> first | decide | (with_reducible exact State.Keeps.refl _ _))); (case hm => rfl))
    | rfl
    | exact ⟨‹_›, ‹_›, ‹_›, ‹_›⟩
    | extract_lets
    | split
    | dsimp only
    | dsimp +zetaDelta only
    | omega

theorem rungChangeOp_tick {s_ : State} (s : State) (h_ : State.TickKept s_ s) : State.TickKept s_ (rungChangeOp s) := by
  unfold rungChangeOp
  repeat' first
    | (intro _)
    | (with_reducible exact State.TickKept.refl _)
    | (with_reducible assumption)
    | (with_reducible apply State.TickKept.ite)
    | ((with_reducible apply State.TickKept.of (m := 0x2A000)); (case hk => ((with_reducible apply State.completeOpt_keeps) <;> first | decide | (with_reducible exact State.Keeps.refl _ _))); (case hm => rfl))
    | (with_reducible apply State.leaveRung_tick)
    | ((with_reducible apply State.TickKept.of (m := 0x200)); (case hk => ((with_reducible apply State.onRung_keeps) <;> first | decide | (with_reducible exact State.Keeps.refl _ _))); (case hm => rfl))
    | ((with_reducible apply State.TickKept.of (m := 0x40)); (case hk => ((with_reducible apply State.onMem_keeps) <;> first | decide | (with_reducible exact State.Keeps.refl _ _))); (case hm => rfl))
    | rfl
    | exact ⟨‹_›, ‹_›, ‹_›, ‹_›⟩
    | extract_lets
    | split
    | dsimp only
    | dsimp +zetaDelta only
    | omega

theorem rungEntryCompleteOp_tick {s_ : State} (s : State) (h_ : State.TickKept s_ s) : State.TickKept s_ (rungEntryCompleteOp s) := by
  unfold rungEntryCompleteOp
  repeat' first
    | (intro _)
    | (with_reducible exact State.TickKept.refl _)
    | (with_reducible assumption)
    | (with_reducible apply State.TickKept.ite)
    | (with_reducible apply State.leaveRung_tick)
    | ((with_reducible apply State.TickKept.of (m := 0x6BA78)); (case hk => ((with_reducible apply State.enterRung_keeps) <;> first | decide | (with_reducible exact State.Keeps.refl _ _))); (case hm => rfl))
    | rfl
    | exact ⟨‹_›, ‹_›, ‹_›, ‹_›⟩
    | extract_lets
    | split
    | dsimp only
    | dsimp +zetaDelta only
    | omega

theorem wakeEventOp_tick {s_ : State} (src : WakeSrc) (s : State) (h_ : State.TickKept s_ s) : State.TickKept s_ (wakeEventOp src s) := by
  unfold wakeEventOp
  repeat' first
    | (intro _)
    | (with_reducible exact State.TickKept.refl _)
    | (with_reducible assumption)
    | (with_reducible apply State.TickKept.ite)
    | (with_reducible apply State.wakeBy_tick)
    | rfl
    | exact ⟨‹_›, ‹_›, ‹_›, ‹_›⟩
    | split
    | dsimp only
    | dsimp +zetaDelta only
    | omega

theorem linkSignalDetectOp_tick {s_ : State} (link : Nat) (s : State) (h_ : State.TickKept s_ s) : State.TickKept s_ (linkSignalDetectOp link s) := by
  unfold linkSignalDetectOp
  repeat' first
    | (intro _)
    | (with_reducible exact State.TickKept.refl _)
    | (with_reducible assumption)
    | (with_reducible apply State.TickKept.ite)
    | ((with_reducible apply State.TickKept.of (m := 0x1800)); (case hk => ((with_reducible apply State.linkTrain_keeps) <;> first | decide | (with_reducible exact State.Keeps.refl _ _))); (case hm => rfl))
    | (with_reducible apply State.wakeBy_tick)
    | rfl
    | exact ⟨‹_›, ‹_›, ‹_›, ‹_›⟩
    | split
    | dsimp only
    | dsimp +zetaDelta only
    | omega

theorem State.request_tick {s_ : State} (s : State) (f : State → State) (h_ : State.TickKept s_ s) (hf_ : ∀ u, State.TickKept s_ u → State.TickKept s_ (f u)) : State.TickKept s_ (State.request s f) := by
  unfold State.request
  repeat' first
    | (intro _)
    | (with_reducible exact State.TickKept.refl _)
    | (with_reducible assumption)
    | (with_reducible apply State.TickKept.ite)
    | (with_reducible apply hf_)
    | (with_reducible apply State.wakeBy_tick)
    | rfl
    | exact ⟨‹_›, ‹_›, ‹_›, ‹_›⟩
    | split
    | dsimp only
    | dsimp +zetaDelta only
    | omega

theorem State.aosOp_tick {s_ : State} (s : State) (smbus : Bool) (op : Nat) (destructive : Bool) (f : State → Option (State × Nat)) (h_ : State.TickKept s_ s) (hf_ : ∀ u, State.TickKept s_ u → State.TickKept.OptP s_ (f u)) : State.TickKept s_ (State.aosOp s smbus op destructive f) := by
  unfold State.aosOp
  repeat' first
    | (intro _)
    | (with_reducible exact State.TickKept.refl _)
    | (with_reducible assumption)
    | (with_reducible apply State.TickKept.ite)
    | (with_reducible apply hf_)
    | ((with_reducible apply State.TickKept.of (m := 0x20000)); (case hk => ((with_reducible apply State.aosInvalid_keeps) <;> first | decide | (with_reducible exact State.Keeps.refl _ _))); (case hm => rfl))
    | ((with_reducible apply State.TickKept.of (m := 0x20000)); (case hk => ((with_reducible apply State.aosAnswer_keeps) <;> first | decide | (with_reducible exact State.Keeps.refl _ _))); (case hm => rfl))
    | (with_reducible apply State.wakeBy_tick)
    | (with_reducible exact State.TickKept.optP_none)
    | (with_reducible apply State.TickKept.optP_some)
    | (with_reducible apply State.TickKept.optP_ite)
    | (with_reducible apply State.TickKept.ofOptP1 (by with_reducible assumption))
    | rfl
    | exact ⟨‹_›, ‹_›, ‹_›, ‹_›⟩
    | extract_lets
    | split
    | dsimp only
    | dsimp +zetaDelta only
    | omega

theorem State.fenceManager_tick {s_ : State} (s : State) (h_ : State.TickKept s_ s) : State.TickKept s_ (State.fenceManager s) := by
  unfold State.fenceManager
  repeat' first
    | (intro _)
    | (with_reducible exact State.TickKept.refl _)
    | (with_reducible assumption)
    | (with_reducible apply State.TickKept.ite)
    | (with_reducible apply State.leaveDuties_tick)
    | rfl
    | exact ⟨‹_›, ‹_›, ‹_›, ‹_›⟩
    | split
    | dsimp only
    | dsimp +zetaDelta only
    | omega

theorem State.fenceOp_tick {s_ : State} (s : State) (kind : Nat) (idx : Nat) (h_ : State.TickKept s_ s) : State.TickKept.OptP s_ (State.fenceOp s kind idx) := by
  unfold State.fenceOp
  repeat' first
    | (intro _)
    | (with_reducible exact State.TickKept.refl _)
    | (with_reducible assumption)
    | (with_reducible apply State.TickKept.ite)
    | ((with_reducible apply State.TickKept.of (m := 0x9800)); (case hk => ((with_reducible apply State.fenceLink_keeps) <;> first | decide | (with_reducible exact State.Keeps.refl _ _))); (case hm => rfl))
    | ((with_reducible apply State.TickKept.of (m := 0x80)); (case hk => ((with_reducible apply State.onGlv_keeps) <;> first | decide | (with_reducible exact State.Keeps.refl _ _))); (case hm => rfl))
    | ((with_reducible apply State.TickKept.of (m := 0x6E8FC)); (case hk => ((with_reducible apply State.arrayFence_keeps) <;> first | decide | (with_reducible exact State.Keeps.refl _ _))); (case hm => rfl))
    | ((with_reducible apply State.TickKept.of (m := 0x6A8F0)); (case hk => ((with_reducible apply State.beginReset_keeps) <;> first | decide | (with_reducible exact State.Keeps.refl _ _))); (case hm => rfl))
    | (with_reducible apply State.fenceManager_tick)
    | ((with_reducible apply State.TickKept.of (m := 0x6E8E4)); (case hk => ((with_reducible apply State.fenceSteward_keeps) <;> first | decide | (with_reducible exact State.Keeps.refl _ _))); (case hm => rfl))
    | ((with_reducible apply State.TickKept.of (m := 0x8000)); (case hk => ((with_reducible apply State.logOp_keeps) <;> first | decide | (with_reducible exact State.Keeps.refl _ _))); (case hm => rfl))
    | ((with_reducible apply State.TickKept.of (m := 0x6F8FC)); (case hk => ((with_reducible apply State.fullFence_keeps) <;> first | decide | (with_reducible exact State.Keeps.refl _ _))); (case hm => rfl))
    | (with_reducible exact State.TickKept.optP_none)
    | (with_reducible apply State.TickKept.optP_some)
    | (with_reducible apply State.TickKept.optP_ite)
    | rfl
    | exact ⟨‹_›, ‹_›, ‹_›, ‹_›⟩
    | split
    | dsimp only
    | dsimp +zetaDelta only
    | omega

theorem setEndpointIdOp_tick {s_ : State} (eid : Byte) (s : State) (h_ : State.TickKept s_ s) : State.TickKept s_ (setEndpointIdOp eid s) := by
  unfold setEndpointIdOp
  repeat' first
    | (intro _)
    | (with_reducible exact State.TickKept.refl _)
    | (with_reducible assumption)
    | (with_reducible apply State.TickKept.ite)
    | ((with_reducible apply State.TickKept.of (m := 0x2000)); (case hk => ((with_reducible apply State.onHost_keeps) <;> first | decide | (with_reducible exact State.Keeps.refl _ _))); (case hm => rfl))
    | (with_reducible apply State.request_tick)
    | ((with_reducible apply State.TickKept.of (m := 0x20000)); (case hk => ((with_reducible apply State.respond_keeps) <;> first | decide | (with_reducible exact State.Keeps.refl _ _))); (case hm => rfl))
    | rfl
    | exact ⟨‹_›, ‹_›, ‹_›, ‹_›⟩
    | split
    | dsimp only
    | dsimp +zetaDelta only
    | omega

theorem getEndpointIdOp_tick {s_ : State} (s : State) (h_ : State.TickKept s_ s) : State.TickKept s_ (getEndpointIdOp s) := by
  unfold getEndpointIdOp
  repeat' first
    | (intro _)
    | (with_reducible exact State.TickKept.refl _)
    | (with_reducible assumption)
    | (with_reducible apply State.TickKept.ite)
    | (with_reducible apply State.request_tick)
    | ((with_reducible apply State.TickKept.of (m := 0x20000)); (case hk => ((with_reducible apply State.respond_keeps) <;> first | decide | (with_reducible exact State.Keeps.refl _ _))); (case hm => rfl))
    | rfl
    | exact ⟨‹_›, ‹_›, ‹_›, ‹_›⟩
    | split
    | dsimp only
    | dsimp +zetaDelta only
    | omega

theorem getMctpVersionSupportOp_tick {s_ : State} (type : Byte) (s : State) (h_ : State.TickKept s_ s) : State.TickKept s_ (getMctpVersionSupportOp type s) := by
  unfold getMctpVersionSupportOp
  repeat' first
    | (intro _)
    | (with_reducible exact State.TickKept.refl _)
    | (with_reducible assumption)
    | (with_reducible apply State.TickKept.ite)
    | ((with_reducible apply State.TickKept.of (m := 0x60000)); (case hk => ((with_reducible apply State.respondOpen_keeps) <;> first | decide | (with_reducible exact State.Keeps.refl _ _))); (case hm => rfl))
    | (with_reducible apply State.request_tick)
    | ((with_reducible apply State.TickKept.of (m := 0x20000)); (case hk => ((with_reducible apply State.respond_keeps) <;> first | decide | (with_reducible exact State.Keeps.refl _ _))); (case hm => rfl))
    | rfl
    | exact ⟨‹_›, ‹_›, ‹_›, ‹_›⟩
    | split
    | dsimp only
    | dsimp +zetaDelta only
    | omega

theorem getMessageTypeSupportOp_tick {s_ : State} (s : State) (h_ : State.TickKept s_ s) : State.TickKept s_ (getMessageTypeSupportOp s) := by
  unfold getMessageTypeSupportOp
  repeat' first
    | (intro _)
    | (with_reducible exact State.TickKept.refl _)
    | (with_reducible assumption)
    | (with_reducible apply State.TickKept.ite)
    | (with_reducible apply State.request_tick)
    | ((with_reducible apply State.TickKept.of (m := 0x20000)); (case hk => ((with_reducible apply State.respond_keeps) <;> first | decide | (with_reducible exact State.Keeps.refl _ _))); (case hm => rfl))
    | rfl
    | exact ⟨‹_›, ‹_›, ‹_›, ‹_›⟩
    | split
    | dsimp only
    | dsimp +zetaDelta only
    | omega

theorem getVendorDefinedMessageSupportOp_tick {s_ : State} (sel : Byte) (s : State) (h_ : State.TickKept s_ s) : State.TickKept s_ (getVendorDefinedMessageSupportOp sel s) := by
  unfold getVendorDefinedMessageSupportOp
  repeat' first
    | (intro _)
    | (with_reducible exact State.TickKept.refl _)
    | (with_reducible assumption)
    | (with_reducible apply State.TickKept.ite)
    | ((with_reducible apply State.TickKept.of (m := 0x20000)); (case hk => ((with_reducible apply State.respond_keeps) <;> first | decide | (with_reducible exact State.Keeps.refl _ _))); (case hm => rfl))
    | ((with_reducible apply State.TickKept.of (m := 0x60000)); (case hk => ((with_reducible apply State.respondOpen_keeps) <;> first | decide | (with_reducible exact State.Keeps.refl _ _))); (case hm => rfl))
    | (with_reducible apply State.request_tick)
    | rfl
    | exact ⟨‹_›, ‹_›, ‹_›, ‹_›⟩
    | split
    | dsimp only
    | dsimp +zetaDelta only
    | omega

theorem getRecordOp_tick {s_ : State} (ident : Byte) (s : State) (h_ : State.TickKept s_ s) : State.TickKept s_ (getRecordOp ident s) := by
  unfold getRecordOp
  repeat' first
    | (intro _)
    | (with_reducible exact State.TickKept.refl _)
    | (with_reducible assumption)
    | (with_reducible apply State.TickKept.ite)
    | ((with_reducible apply State.TickKept.of (m := 0x20000)); (case hk => ((with_reducible apply State.respond_keeps) <;> first | decide | (with_reducible exact State.Keeps.refl _ _))); (case hm => rfl))
    | (with_reducible apply State.request_tick)
    | rfl
    | exact ⟨‹_›, ‹_›, ‹_›, ‹_›⟩
    | extract_lets
    | split
    | dsimp only
    | dsimp +zetaDelta only
    | omega

theorem getAlertsOp_tick {s_ : State} (events : Word) (s : State) (h_ : State.TickKept s_ s) : State.TickKept s_ (getAlertsOp events s) := by
  unfold getAlertsOp
  repeat' first
    | (intro _)
    | (with_reducible exact State.TickKept.refl _)
    | (with_reducible assumption)
    | (with_reducible apply State.TickKept.ite)
    | ((with_reducible apply State.TickKept.of (m := 0x8000)); (case hk => ((with_reducible apply State.setReg_keeps) <;> first | decide | (with_reducible exact State.Keeps.refl _ _))); (case hm => rfl))
    | (with_reducible apply State.request_tick)
    | ((with_reducible apply State.TickKept.of (m := 0x20000)); (case hk => ((with_reducible apply State.respond_keeps) <;> first | decide | (with_reducible exact State.Keeps.refl _ _))); (case hm => rfl))
    | rfl
    | exact ⟨‹_›, ‹_›, ‹_›, ‹_›⟩
    | extract_lets
    | split
    | dsimp only
    | dsimp +zetaDelta only
    | omega

theorem setAlertMaskOp_tick {s_ : State} (mask : Word) (s : State) (h_ : State.TickKept s_ s) : State.TickKept s_ (setAlertMaskOp mask s) := by
  unfold setAlertMaskOp
  repeat' first
    | (intro _)
    | (with_reducible exact State.TickKept.refl _)
    | (with_reducible assumption)
    | (with_reducible apply State.TickKept.ite)
    | ((with_reducible apply State.TickKept.of (m := 0x8000)); (case hk => ((with_reducible apply State.setReg_keeps) <;> first | decide | (with_reducible exact State.Keeps.refl _ _))); (case hm => rfl))
    | (with_reducible apply State.request_tick)
    | ((with_reducible apply State.TickKept.of (m := 0x20000)); (case hk => ((with_reducible apply State.respond_keeps) <;> first | decide | (with_reducible exact State.Keeps.refl _ _))); (case hm => rfl))
    | rfl
    | exact ⟨‹_›, ‹_›, ‹_›, ‹_›⟩
    | split
    | dsimp only
    | dsimp +zetaDelta only
    | omega

theorem aosReadOp_tick {s_ : State} (s : State) (h_ : State.TickKept s_ s) : State.TickKept s_ (aosReadOp s) := by
  unfold aosReadOp
  repeat' first
    | (intro _)
    | (with_reducible exact State.TickKept.refl _)
    | (with_reducible assumption)
    | (with_reducible apply State.TickKept.ite)
    | ((with_reducible apply State.TickKept.of (m := 0x8000)); (case hk => ((with_reducible apply State.logOp_keeps) <;> first | decide | (with_reducible exact State.Keeps.refl _ _))); (case hm => rfl))
    | ((with_reducible apply State.TickKept.of (m := 0x20000)); (case hk => ((with_reducible apply State.aosAnswer_keeps) <;> first | decide | (with_reducible exact State.Keeps.refl _ _))); (case hm => rfl))
    | (with_reducible apply State.request_tick)
    | rfl
    | exact ⟨‹_›, ‹_›, ‹_›, ‹_›⟩
    | split
    | dsimp only
    | dsimp +zetaDelta only
    | omega

theorem tripOp_tick {s_ : State} (smbus : Bool) (s : State) (h_ : State.TickKept s_ s) : State.TickKept s_ (tripOp smbus s) := by
  unfold tripOp
  repeat' first
    | (intro _)
    | (with_reducible exact State.TickKept.refl _)
    | (with_reducible assumption)
    | (with_reducible apply State.TickKept.ite)
    | (with_reducible apply State.aosOp_tick)
    | (with_reducible apply State.takeTrip_tick)
    | ((with_reducible apply State.TickKept.of (m := 0x8000)); (case hk => ((with_reducible apply State.logOp_keeps) <;> first | decide | (with_reducible exact State.Keeps.refl _ _))); (case hm => rfl))
    | (with_reducible exact State.TickKept.optP_none)
    | (with_reducible apply State.TickKept.optP_some)
    | (with_reducible apply State.TickKept.optP_ite)
    | rfl
    | exact ⟨‹_›, ‹_›, ‹_›, ‹_›⟩
    | split
    | dsimp only
    | dsimp +zetaDelta only
    | omega

theorem fenceOp_tick {s_ : State} (smbus : Bool) (kind : Byte) (idx : BitVec 16) (s : State) (h_ : State.TickKept s_ s) : State.TickKept s_ (fenceOp smbus kind idx s) := by
  unfold fenceOp
  repeat' first
    | (intro _)
    | (with_reducible exact State.TickKept.refl _)
    | (with_reducible assumption)
    | (with_reducible apply State.TickKept.ite)
    | (with_reducible apply State.aosOp_tick)
    | (with_reducible apply State.fenceOp_tick)
    | (with_reducible exact State.TickKept.optP_none)
    | (with_reducible apply State.TickKept.optP_some)
    | (with_reducible apply State.TickKept.optP_ite)
    | rfl
    | exact ⟨‹_›, ‹_›, ‹_›, ‹_›⟩
    | split
    | dsimp only
    | dsimp +zetaDelta only
    | omega

theorem eraseOp_tick {s_ : State} (smbus : Bool) (slot : Byte) (s : State) (h_ : State.TickKept s_ s) : State.TickKept s_ (eraseOp smbus slot s) := by
  unfold eraseOp
  repeat' first
    | (intro _)
    | (with_reducible exact State.TickKept.refl _)
    | (with_reducible assumption)
    | (with_reducible apply State.TickKept.ite)
    | (with_reducible apply State.aosOp_tick)
    | ((with_reducible apply State.TickKept.of (m := 0x6ACF0)); (case hk => ((with_reducible apply State.eraseKey_keeps) <;> first | decide | (with_reducible exact State.Keeps.refl _ _))); (case hm => rfl))
    | ((with_reducible apply State.TickKept.of (m := 0x8000)); (case hk => ((with_reducible apply State.logOp_keeps) <;> first | decide | (with_reducible exact State.Keeps.refl _ _))); (case hm => rfl))
    | (with_reducible exact State.TickKept.optP_none)
    | (with_reducible apply State.TickKept.optP_some)
    | (with_reducible apply State.TickKept.optP_ite)
    | rfl
    | exact ⟨‹_›, ‹_›, ‹_›, ‹_›⟩
    | split
    | dsimp only
    | dsimp +zetaDelta only
    | omega

theorem resetOp_tick {s_ : State} (smbus : Bool) (cold : Byte) (s : State) (h_ : State.TickKept s_ s) : State.TickKept s_ (resetOp smbus cold s) := by
  unfold resetOp
  repeat' first
    | (intro _)
    | (with_reducible exact State.TickKept.refl _)
    | (with_reducible assumption)
    | (with_reducible apply State.TickKept.ite)
    | (with_reducible apply State.aosOp_tick)
    | (with_reducible apply State.resetCause_tick)
    | ((with_reducible apply State.TickKept.of (m := 0x8000)); (case hk => ((with_reducible apply State.logOp_keeps) <;> first | decide | (with_reducible exact State.Keeps.refl _ _))); (case hm => rfl))
    | (with_reducible exact State.TickKept.optP_none)
    | (with_reducible apply State.TickKept.optP_some)
    | (with_reducible apply State.TickKept.optP_ite)
    | rfl
    | exact ⟨‹_›, ‹_›, ‹_›, ‹_›⟩
    | split
    | dsimp only
    | dsimp +zetaDelta only
    | omega

theorem aosReportOp_tick {s_ : State} (s : State) (h_ : State.TickKept s_ s) : State.TickKept s_ (aosReportOp s) := by
  unfold aosReportOp
  repeat' first
    | (intro _)
    | (with_reducible exact State.TickKept.refl _)
    | (with_reducible assumption)
    | (with_reducible apply State.TickKept.ite)
    | (with_reducible apply State.aosOp_tick)
    | ((with_reducible apply State.TickKept.of (m := 0x28000)); (case hk => ((with_reducible apply State.sendReport_keeps) <;> first | decide | (with_reducible exact State.Keeps.refl _ _))); (case hm => rfl))
    | (with_reducible exact State.TickKept.optP_none)
    | (with_reducible apply State.TickKept.optP_some)
    | (with_reducible apply State.TickKept.optP_ite)
    | rfl
    | exact ⟨‹_›, ‹_›, ‹_›, ‹_›⟩
    | split
    | dsimp only
    | dsimp +zetaDelta only
    | omega

theorem smbusAddressResolutionOp_tick {s_ : State} (addr : BitVec 7) (s : State) (h_ : State.TickKept s_ s) : State.TickKept s_ (smbusAddressResolutionOp addr s) := by
  unfold smbusAddressResolutionOp
  repeat' first
    | (intro _)
    | (with_reducible exact State.TickKept.refl _)
    | (with_reducible assumption)
    | (with_reducible apply State.TickKept.ite)
    | ((with_reducible apply State.TickKept.of (m := 0x2000)); (case hk => ((with_reducible apply State.onHost_keeps) <;> first | decide | (with_reducible exact State.Keeps.refl _ _))); (case hm => rfl))
    | (with_reducible apply State.request_tick)
    | rfl
    | exact ⟨‹_›, ‹_›, ‹_›, ‹_›⟩
    | split
    | dsimp only
    | dsimp +zetaDelta only
    | omega

theorem aosStewardWatchLapseOp_tick {s_ : State} (s : State) (h_ : State.TickKept s_ s) : State.TickKept s_ (aosStewardWatchLapseOp s) := by
  unfold aosStewardWatchLapseOp
  repeat' first
    | (intro _)
    | (with_reducible exact State.TickKept.refl _)
    | (with_reducible assumption)
    | (with_reducible apply State.TickKept.ite)
    | (with_reducible apply State.aosOp_tick)
    | (with_reducible apply State.fenceOp_tick)
    | (with_reducible apply fenceOp_tick)
    | (with_reducible exact State.TickKept.optP_none)
    | (with_reducible apply State.TickKept.optP_some)
    | (with_reducible apply State.TickKept.optP_ite)
    | rfl
    | exact ⟨‹_›, ‹_›, ‹_›, ‹_›⟩
    | split
    | dsimp only
    | dsimp +zetaDelta only
    | omega

theorem aosManagerWatchLapseOp_tick {s_ : State} (s : State) (h_ : State.TickKept s_ s) : State.TickKept s_ (aosManagerWatchLapseOp s) := by
  unfold aosManagerWatchLapseOp
  repeat' first
    | (intro _)
    | (with_reducible exact State.TickKept.refl _)
    | (with_reducible assumption)
    | (with_reducible apply State.TickKept.ite)
    | (with_reducible apply State.aosOp_tick)
    | (with_reducible apply State.fenceOp_tick)
    | (with_reducible apply fenceOp_tick)
    | (with_reducible exact State.TickKept.optP_none)
    | (with_reducible apply State.TickKept.optP_some)
    | (with_reducible apply State.TickKept.optP_ite)
    | rfl
    | exact ⟨‹_›, ‹_›, ‹_›, ‹_›⟩
    | split
    | dsimp only
    | dsimp +zetaDelta only
    | omega

theorem State.writeLow_tick {s_ : State} (s : State) (a : Nat) (h : Half) (v : Word) (h_ : State.TickKept s_ s) : State.TickKept s_ (State.writeLow s a h v) := by
  unfold State.writeLow
  repeat' first
    | (intro _)
    | (with_reducible exact State.TickKept.refl _)
    | (with_reducible assumption)
    | (with_reducible apply State.TickKept.ite)
    | ((with_reducible apply State.TickKept.of (m := 0xA000)); (case hk => ((with_reducible apply State.writeCrCfg_keeps) <;> first | decide | (with_reducible exact State.Keeps.refl _ _))); (case hm => rfl))
    | ((with_reducible apply State.TickKept.of (m := 0x8100)); (case hk => ((with_reducible apply State.writePlain_keeps) <;> first | decide | (with_reducible exact State.Keeps.refl _ _))); (case hm => rfl))
    | (with_reducible apply aosRstreqWriteOp_tick)
    | ((with_reducible apply State.TickKept.of (m := 0x2A000)); (case hk => ((with_reducible apply State.writeMsix_keeps) <;> first | decide | (with_reducible exact State.Keeps.refl _ _))); (case hm => rfl))
    | ((with_reducible apply State.TickKept.of (m := 0x8000)); (case hk => ((with_reducible apply stwQidxWriteOp_keeps) <;> first | decide | (with_reducible exact State.Keeps.refl _ _))); (case hm => rfl))
    | ((with_reducible apply State.TickKept.of (m := 0x6A8E0)); (case hk => ((with_reducible apply State.writeCqHead_keeps) <;> first | decide | (with_reducible exact State.Keeps.refl _ _))); (case hm => rfl))
    | ((with_reducible apply State.TickKept.of (m := 0x488E0)); (case hk => ((with_reducible apply stwGcfgWriteOp_keeps) <;> first | decide | (with_reducible exact State.Keeps.refl _ _))); (case hm => rfl))
    | ((with_reducible apply State.TickKept.of (m := 0x4C000)); (case hk => ((with_reducible apply State.writeActl_keeps) <;> first | decide | (with_reducible exact State.Keeps.refl _ _))); (case hm => rfl))
    | ((with_reducible apply State.TickKept.of (m := 0x6A8E0)); (case hk => ((with_reducible apply State.writeCqCfg_keeps) <;> first | decide | (with_reducible exact State.Keeps.refl _ _))); (case hm => rfl))
    | rfl
    | exact ⟨‹_›, ‹_›, ‹_›, ‹_›⟩
    | split
    | dsimp only
    | dsimp +zetaDelta only
    | omega

theorem State.writeReg_tick {s_ : State} (s : State) (a : Nat) (h : Half) (v : Word) (h_ : State.TickKept s_ s) : State.TickKept s_ (State.writeReg s a h v) := by
  unfold State.writeReg
  repeat' first
    | (intro _)
    | (with_reducible exact State.TickKept.refl _)
    | (with_reducible assumption)
    | (with_reducible apply State.TickKept.ite)
    | ((with_reducible apply State.TickKept.of (m := 0x39904)); (case hk => ((with_reducible apply State.writeIod_keeps) <;> first | decide | (with_reducible exact State.Keeps.refl _ _))); (case hm => rfl))
    | ((with_reducible apply State.TickKept.of (m := 0x6F8FC)); (case hk => ((with_reducible apply State.writeW1c_keeps) <;> first | decide | (with_reducible exact State.Keeps.refl _ _))); (case hm => rfl))
    | (with_reducible apply State.writeLow_tick)
    | ((with_reducible apply State.TickKept.of (m := 0x8120)); (case hk => ((with_reducible apply State.writeDie_keeps) <;> first | decide | (with_reducible exact State.Keeps.refl _ _))); (case hm => rfl))
    | rfl
    | exact ⟨‹_›, ‹_›, ‹_›, ‹_›⟩
    | split
    | dsimp only
    | dsimp +zetaDelta only
    | omega

theorem registerWriteOp_tick {s_ : State} (func : Nat) (addr : Nat) (half : Half) (val : Word) (s : State) (h_ : State.TickKept s_ s) : State.TickKept s_ (registerWriteOp func addr half val s) := by
  unfold registerWriteOp
  repeat' first
    | (intro _)
    | (with_reducible exact State.TickKept.refl _)
    | (with_reducible assumption)
    | (with_reducible apply State.TickKept.ite)
    | ((with_reducible apply State.TickKept.of (m := 0x6A9E0)); (case hk => ((with_reducible apply State.writeVf_keeps) <;> first | decide | (with_reducible exact State.Keeps.refl _ _))); (case hm => rfl))
    | (with_reducible apply State.writeReg_tick)
    | rfl
    | exact ⟨‹_›, ‹_›, ‹_›, ‹_›⟩
    | split
    | dsimp only
    | dsimp +zetaDelta only
    | omega

theorem applyCommand_tick {s_ : State} (op : Nat) (c : HostCmd) (s : State) (h_ : State.TickKept s_ s) : State.TickKept s_ (applyCommand op c s) := by
  unfold applyCommand
  repeat' first
    | (intro _)
    | (with_reducible exact State.TickKept.refl _)
    | (with_reducible assumption)
    | (with_reducible apply State.TickKept.ite)
    | ((with_reducible apply State.TickKept.of (m := 0x2E800)); (case hk => ((with_reducible apply applyImage_keeps) <;> first | decide | (with_reducible exact State.Keeps.refl _ _))); (case hm => rfl))
    | ((with_reducible apply State.TickKept.of (m := 0x2A800)); (case hk => ((with_reducible apply planRemoveOp_keeps) <;> first | decide | (with_reducible exact State.Keeps.refl _ _))); (case hm => rfl))
    | ((with_reducible apply State.TickKept.of (m := 0x6A8E0)); (case hk => ((with_reducible apply resumeOp_keeps) <;> first | decide | (with_reducible exact State.Keeps.refl _ _))); (case hm => rfl))
    | ((with_reducible apply State.TickKept.of (m := 0x6A8E0)); (case hk => ((with_reducible apply admitSeqOp_keeps) <;> first | decide | (with_reducible exact State.Keeps.refl _ _))); (case hm => rfl))
    | ((with_reducible apply State.TickKept.of (m := 0x6A8E0)); (case hk => ((with_reducible apply appendOp_keeps) <;> first | decide | (with_reducible exact State.Keeps.refl _ _))); (case hm => rfl))
    | ((with_reducible apply State.TickKept.of (m := 0x6A0B0)); (case hk => ((with_reducible apply gloveCreateOp_keeps) <;> first | decide | (with_reducible exact State.Keeps.refl _ _))); (case hm => rfl))
    | ((with_reducible apply State.TickKept.of (m := 0x2A840)); (case hk => ((with_reducible apply modelRegisterOp_keeps) <;> first | decide | (with_reducible exact State.Keeps.refl _ _))); (case hm => rfl))
    | ((with_reducible apply State.TickKept.of (m := 0x2A840)); (case hk => ((with_reducible apply adapterLoadOp_keeps) <;> first | decide | (with_reducible exact State.Keeps.refl _ _))); (case hm => rfl))
    | ((with_reducible apply State.TickKept.of (m := 0x2A020)); (case hk => ((with_reducible apply gsqStopOp_keeps) <;> first | decide | (with_reducible exact State.Keeps.refl _ _))); (case hm => rfl))
    | ((with_reducible apply State.TickKept.of (m := 0x2A840)); (case hk => ((with_reducible apply modelReplaceOp_keeps) <;> first | decide | (with_reducible exact State.Keeps.refl _ _))); (case hm => rfl))
    | ((with_reducible apply State.TickKept.of (m := 0x2A840)); (case hk => ((with_reducible apply modelSwitchinOp_keeps) <;> first | decide | (with_reducible exact State.Keeps.refl _ _))); (case hm => rfl))
    | ((with_reducible apply State.TickKept.of (m := 0x2A8F0)); (case hk => ((with_reducible apply gloveDestroyOp_keeps) <;> first | decide | (with_reducible exact State.Keeps.refl _ _))); (case hm => rfl))
    | ((with_reducible apply State.TickKept.of (m := 0x2A800)); (case hk => ((with_reducible apply planInstallOp_keeps) <;> first | decide | (with_reducible exact State.Keeps.refl _ _))); (case hm => rfl))
    | ((with_reducible apply State.TickKept.of (m := 0x2A200)); (case hk => ((with_reducible apply setRungOp_keeps) <;> first | decide | (with_reducible exact State.Keeps.refl _ _))); (case hm => rfl))
    | ((with_reducible apply State.TickKept.of (m := 0x6A8F0)); (case hk => ((with_reducible apply gloveResetOp_keeps) <;> first | decide | (with_reducible exact State.Keeps.refl _ _))); (case hm => rfl))
    | ((with_reducible apply State.TickKept.of (m := 0x2A040)); (case hk => ((with_reducible apply lz2EnableOp_keeps) <;> first | decide | (with_reducible exact State.Keeps.refl _ _))); (case hm => rfl))
    | ((with_reducible apply State.TickKept.of (m := 0x2A040)); (case hk => ((with_reducible apply lz2DisableOp_keeps) <;> first | decide | (with_reducible exact State.Keeps.refl _ _))); (case hm => rfl))
    | ((with_reducible apply State.TickKept.of (m := 0x2A040)); (case hk => ((with_reducible apply migrateOp_keeps) <;> first | decide | (with_reducible exact State.Keeps.refl _ _))); (case hm => rfl))
    | (with_reducible apply setTickPeriodOp_tick)
    | ((with_reducible apply State.TickKept.of (m := 0x2A800)); (case hk => ((with_reducible apply stewardSwapOp_keeps) <;> first | decide | (with_reducible exact State.Keeps.refl _ _))); (case hm => rfl))
    | ((with_reducible apply State.TickKept.of (m := 0x2A020)); (case hk => ((with_reducible apply gsqStartOp_keeps) <;> first | decide | (with_reducible exact State.Keeps.refl _ _))); (case hm => rfl))
    | ((with_reducible apply State.TickKept.of (m := 0x2A840)); (case hk => ((with_reducible apply frameAllocOp_keeps) <;> first | decide | (with_reducible exact State.Keeps.refl _ _))); (case hm => rfl))
    | ((with_reducible apply State.TickKept.of (m := 0x2A840)); (case hk => ((with_reducible apply releaseOp_keeps) <;> first | decide | (with_reducible exact State.Keeps.refl _ _))); (case hm => rfl))
    | ((with_reducible apply State.TickKept.of (m := 0x2E040)); (case hk => ((with_reducible apply setProfileOp_keeps) <;> first | decide | (with_reducible exact State.Keeps.refl _ _))); (case hm => rfl))
    | ((with_reducible apply State.TickKept.of (m := 0x2A000)); (case hk => ((with_reducible apply State.refuse_keeps) <;> first | decide | (with_reducible exact State.Keeps.refl _ _))); (case hm => rfl))
    | ((with_reducible apply State.TickKept.of (m := 0x2A840)); (case hk => ((with_reducible apply cancelOp_keeps) <;> first | decide | (with_reducible exact State.Keeps.refl _ _))); (case hm => rfl))
    | ((with_reducible apply State.TickKept.of (m := 0x2A840)); (case hk => ((with_reducible apply markPublicOp_keeps) <;> first | decide | (with_reducible exact State.Keeps.refl _ _))); (case hm => rfl))
    | ((with_reducible apply State.TickKept.of (m := 0x2A840)); (case hk => ((with_reducible apply frameFreeOp_keeps) <;> first | decide | (with_reducible exact State.Keeps.refl _ _))); (case hm => rfl))
    | ((with_reducible apply State.TickKept.of (m := 0x6A840)); (case hk => ((with_reducible apply pauseOp_keeps) <;> first | decide | (with_reducible exact State.Keeps.refl _ _))); (case hm => rfl))
    | ((with_reducible apply State.TickKept.of (m := 0x6B8E0)); (case hk => ((with_reducible apply routeAdmitOp_keeps) <;> first | decide | (with_reducible exact State.Keeps.refl _ _))); (case hm => rfl))
    | ((with_reducible apply State.TickKept.of (m := 0x2A020)); (case hk => ((with_reducible apply gsqWriteOp_keeps) <;> first | decide | (with_reducible exact State.Keeps.refl _ _))); (case hm => rfl))
    | ((with_reducible apply State.TickKept.of (m := 0x2A040)); (case hk => ((with_reducible apply frameShareOp_keeps) <;> first | decide | (with_reducible exact State.Keeps.refl _ _))); (case hm => rfl))
    | ((with_reducible apply State.TickKept.of (m := 0x6ECF0)); (case hk => ((with_reducible apply applyKey_keeps) <;> first | decide | (with_reducible exact State.Keeps.refl _ _))); (case hm => rfl))
    | ((with_reducible apply State.TickKept.of (m := 0x2A840)); (case hk => ((with_reducible apply modelParkOp_keeps) <;> first | decide | (with_reducible exact State.Keeps.refl _ _))); (case hm => rfl))
    | ((with_reducible apply State.TickKept.of (m := 0x2A000)); (case hk => ((with_reducible apply setRouteOp_keeps) <;> first | decide | (with_reducible exact State.Keeps.refl _ _))); (case hm => rfl))
    | ((with_reducible apply State.TickKept.of (m := 0x2A000)); (case hk => ((with_reducible apply identifyOp_keeps) <;> first | decide | (with_reducible exact State.Keeps.refl _ _))); (case hm => rfl))
    | ((with_reducible apply State.TickKept.of (m := 0x6F8FC)); (case hk => ((with_reducible apply applyService_keeps) <;> first | decide | (with_reducible exact State.Keeps.refl _ _))); (case hm => rfl))
    | ((with_reducible apply State.TickKept.of (m := 0x2A800)); (case hk => ((with_reducible apply adapterUnloadOp_keeps) <;> first | decide | (with_reducible exact State.Keeps.refl _ _))); (case hm => rfl))
    | rfl
    | exact ⟨‹_›, ‹_›, ‹_›, ‹_›⟩
    | split
    | dsimp only
    | dsimp +zetaDelta only
    | omega

theorem relayedCommandOp_tick {s_ : State} (op : Nat) (c : HostCmd) (s : State) (h_ : State.TickKept s_ s) : State.TickKept s_ (relayedCommandOp op c s) := by
  unfold relayedCommandOp
  repeat' first
    | (intro _)
    | (with_reducible exact State.TickKept.refl _)
    | (with_reducible assumption)
    | (with_reducible apply State.TickKept.ite)
    | (with_reducible apply State.newEpoch_tick)
    | (with_reducible apply applyCommand_tick)
    | rfl
    | exact ⟨‹_›, ‹_›, ‹_›, ‹_›⟩
    | extract_lets
    | split
    | dsimp only
    | dsimp +zetaDelta only
    | omega

theorem State.fire_tick {s_ : State} (s : State) (y0 : Event) (h_ : State.TickKept s_ s) : State.TickKept s_ (State.fire s y0) := by
  unfold State.fire
  repeat' first
    | (intro _)
    | (with_reducible exact State.TickKept.refl _)
    | (with_reducible assumption)
    | (with_reducible apply State.TickKept.ite)
    | ((with_reducible apply State.TickKept.of (m := 0x6EAE8)); (case hk => ((with_reducible apply rungEntryAbandonOp_keeps) <;> first | decide | (with_reducible exact State.Keeps.refl _ _))); (case hm => rfl))
    | ((with_reducible apply State.TickKept.of (m := 0x40000)); (case hk => ((with_reducible apply State.freeMeters_keeps) <;> first | decide | (with_reducible exact State.Keeps.refl _ _))); (case hm => rfl))
    | ((with_reducible apply State.TickKept.of (m := 0x6A840)); (case hk => ((with_reducible apply ttlExpiryOp_keeps) <;> first | decide | (with_reducible exact State.Keeps.refl _ _))); (case hm => rfl))
    | ((with_reducible apply State.TickKept.of (m := 0x6A8E0)); (case hk => ((with_reducible apply stepCommitOp_keeps) <;> first | decide | (with_reducible exact State.Keeps.refl _ _))); (case hm => rfl))
    | ((with_reducible apply State.TickKept.of (m := 0x8040)); (case hk => ((with_reducible apply extentTtlExpiryOp_keeps) <;> first | decide | (with_reducible exact State.Keeps.refl _ _))); (case hm => rfl))
    | ((with_reducible apply State.TickKept.of (m := 0x6DBE8)); (case hk => ((with_reducible apply ledgerPeriodOp_keeps) <;> first | decide | (with_reducible exact State.Keeps.refl _ _))); (case hm => rfl))
    | ((with_reducible apply State.TickKept.of (m := 0x6A8E0)); (case hk => ((with_reducible apply cuffReleaseOp_keeps) <;> first | decide | (with_reducible exact State.Keeps.refl _ _))); (case hm => rfl))
    | ((with_reducible apply State.TickKept.of (m := 0x20)); (case hk => ((with_reducible apply waitTickReachedOp_keeps) <;> first | decide | (with_reducible exact State.Keeps.refl _ _))); (case hm => rfl))
    | ((with_reducible apply State.TickKept.of (m := 0x22000)); (case hk => ((with_reducible apply msixModerationTimerOp_keeps) <;> first | decide | (with_reducible exact State.Keeps.refl _ _))); (case hm => rfl))
    | ((with_reducible apply State.TickKept.of (m := 0x21100)); (case hk => ((with_reducible apply grantComputationOp_keeps) <;> first | decide | (with_reducible exact State.Keeps.refl _ _))); (case hm => rfl))
    | ((with_reducible apply State.TickKept.of (m := 0x2C0A8)); (case hk => ((with_reducible apply armedSwitchOp_keeps) <;> first | decide | (with_reducible exact State.Keeps.refl _ _))); (case hm => rfl))
    | ((with_reducible apply State.TickKept.of (m := 0x488F0)); (case hk => ((with_reducible apply exchangeRoundOpenOp_keeps) <;> first | decide | (with_reducible exact State.Keeps.refl _ _))); (case hm => rfl))
    | (with_reducible apply profileChangeOp_tick)
    | (with_reducible apply periodChangeOp_tick)
    | ((with_reducible apply State.TickKept.of (m := 0x8020)); (case hk => ((with_reducible apply waitTimeoutOp_keeps) <;> first | decide | (with_reducible exact State.Keeps.refl _ _))); (case hm => rfl))
    | (with_reducible apply rungChangeOp_tick)
    | ((with_reducible apply State.TickKept.of (m := 0x688F0)); (case hk => ((with_reducible apply exchangePhaseStartOp_keeps) <;> first | decide | (with_reducible exact State.Keeps.refl _ _))); (case hm => rfl))
    | ((with_reducible apply State.TickKept.of (m := 0x6A8F0)); (case hk => ((with_reducible apply faultHoldExpiryOp_keeps) <;> first | decide | (with_reducible exact State.Keeps.refl _ _))); (case hm => rfl))
    | rfl
    | exact ⟨‹_›, ‹_›, ‹_›, ‹_›⟩
    | split
    | dsimp only
    | dsimp +zetaDelta only
    | omega

theorem State.fireDue_tick {s_ : State} (s : State) (h_ : State.TickKept s_ s) : State.TickKept s_ (State.fireDue s) := by
  unfold State.fireDue
  repeat' first
    | (intro _)
    | (with_reducible exact State.TickKept.refl _)
    | (with_reducible assumption)
    | (with_reducible apply State.TickKept.ite)
    | (with_reducible apply State.fire_tick)
    | (with_reducible apply State.TickKept.foldl)
    | rfl
    | exact ⟨‹_›, ‹_›, ‹_›, ‹_›⟩
    | split
    | dsimp only
    | dsimp +zetaDelta only
    | omega

theorem State.beaconDue_tick {s_ : State} (s : State) (h_ : State.TickKept s_ s) : State.TickKept s_ (State.beaconDue s) := by
  unfold State.beaconDue
  repeat' first
    | (intro _)
    | (with_reducible exact State.TickKept.refl _)
    | (with_reducible assumption)
    | (with_reducible apply State.TickKept.ite)
    | ((with_reducible apply State.TickKept.of (m := 0x40000)); (case hk => ((with_reducible apply State.spend_keeps) <;> first | decide | (with_reducible exact State.Keeps.refl _ _))); (case hm => rfl))
    | (with_reducible apply beaconSendOp_tick)
    | rfl
    | exact ⟨‹_›, ‹_›, ‹_›, ‹_›⟩
    | split
    | dsimp only
    | dsimp +zetaDelta only
    | omega

theorem tickAdvanceOp_tick {s_ : State} (s : State) (h_ : State.TickKept s_ s) : State.TickKept s_ (tickAdvanceOp s) := by
  unfold tickAdvanceOp
  repeat' first
    | (intro _)
    | (with_reducible exact State.TickKept.refl _)
    | (with_reducible assumption)
    | (with_reducible apply State.TickKept.ite)
    | ((with_reducible apply State.TickKept.of (m := 0x20000)); (case hk => ((with_reducible apply State.passCorrection_keeps) <;> first | decide | (with_reducible exact State.Keeps.refl _ _))); (case hm => rfl))
    | (with_reducible apply State.beaconDue_tick)
    | (with_reducible apply State.fireDue_tick)
    | ((with_reducible apply State.TickKept.of (m := 0x2B000)); (case hk => ((with_reducible apply State.reportDue_keeps) <;> first | decide | (with_reducible exact State.Keeps.refl _ _))); (case hm => rfl))
    | ((with_reducible apply State.TickKept.of (m := 0x21800)); (case hk => ((with_reducible apply State.heartbeatsDue_keeps) <;> first | decide | (with_reducible exact State.Keeps.refl _ _))); (case hm => rfl))
    | ((with_reducible apply State.TickKept.of (m := 0x4040)); (case hk => ((with_reducible apply State.errWindow_keeps) <;> first | decide | (with_reducible exact State.Keeps.refl _ _))); (case hm => rfl))
    | (with_reducible apply State.TickKept.onTick)
    | rfl
    | exact ⟨‹_›, ‹_›, ‹_›, ‹_›⟩
    | exact TickSt.cycle_ok _ ⟨‹_›, ‹_›, ‹_›, ‹_›⟩
    | split
    | dsimp only
    | dsimp +zetaDelta only
    | omega

end Sys2Proof.Machine
end

