-- ==== Sys2Proof/Tests/Slice0.lean ====
section
/-! SUPPORT. Tests: ill-formed commands are refused, one step on small states, and a witness of the hypotheses of each statement. -/

set_option maxRecDepth 100000

open Sys2Proof Sys2Proof.Machine

namespace Sys2Proof.Tests

/-! Each check of WellFormed refuses a term that breaks it alone; the terms that break none pass. -/

theorem test_ill_formed_1 : (([.registerWrite 65 0 .whole 0,
    .registerWrite 0 1 .whole 0,
    .w1cWrite 1 .whole 0 0,
    .alignmentLoad 0 0 9999 none ⟨0, 0⟩,
    .alignmentLoad 0 0 1000001 none ⟨0, 0⟩,
    .alignmentLoad 0 10000 10000 none ⟨0, 0⟩,
    .alignmentLoad 0 0 10000 (some (9999, 0)) ⟨0, 0⟩,
    .alignmentLoad 0 0 10000 (some (1000001, 0)) ⟨0, 0⟩,
    .alignmentLoad 0 0 10000 none ⟨0, 8192⟩,
    .beaconReceive ⟨8192, 0, 0, 0, 0, 10000, none, 0⟩ ⟨0, 0⟩ 0,
    .beaconReceive ⟨0, 8192, 0, 0, 0, 10000, none, 0⟩ ⟨0, 0⟩ 0,
    .beaconReceive ⟨0, 0, 0, 10000, 0, 10000, none, 0⟩ ⟨0, 0⟩ 0,
    .beaconReceive ⟨0, 0, 0, 0, 0, 9999, none, 0⟩ ⟨0, 0⟩ 0,
    .beaconReceive ⟨0, 0, 0, 0, 0, 1000001, none, 0⟩ ⟨0, 0⟩ 0,
    .beaconReceive ⟨0, 0, 0, 0, 0, 10000, some (9999, 0), 0⟩ ⟨0, 0⟩ 0,
    .beaconCheck 8192 ⟨0, 0⟩,
    .crownMeet 8192,
    .ledgerPeriod ⟨0, 0, 0, List.replicate 9 0⟩,
    .demandReceived 8192 0 0 0,
    .stepCommit 64,
    .stepDone 64,
    .stepAbort 64,
    .samplerFinish 64,
    .autoResume 131072,
    .ttlExpiry 131072,
    .extentTtlExpiry 16777216,
    .cacheSealComplete 131072,
    .sealRetry 131072,
    .resumePageRetry 131072,
    .resumeCopyComplete 131072,
    .cuffRelease 1048576,
    .switchinExtentComplete 1048576 0,
    .peerLost 1048576 0 0,
    .peerLost 0 0 8192,
    .fetchRequest ({ (default : FetchMsg) with src := 8192 }),
    .fetchRequest ({ (default : FetchMsg) with model := 1048576 })] : List Instr).all fun i => !i.wf) = true := by decide

theorem test_ill_formed_2 : (([.fetchRequest ({ (default : FetchMsg) with version := 65536 }),
    .fetchUnitReceive 1048576 0 0 [],
    .fetchUnitReceive 0 0 0 (List.replicate 4097 0),
    .scheduleFault ({ (default : SFault) with glove := 64 }),
    .scheduleFault ({ (default : SFault) with die := 8 }),
    .scheduleFault ({ (default : SFault) with row := 24 }),
    .scheduleFault ({ (default : SFault) with col := 25 }),
    .cellException ({ (default : XFault) with glove := 64 }),
    .cellException ({ (default : XFault) with die := 8 }),
    .cellException ({ (default : XFault) with row := 24 }),
    .cellException ({ (default : XFault) with col := 25 }),
    .portFreeze 64 ⟨0, 0, 0, false, 0⟩,
    .portFreeze 0 ⟨8, 0, 0, false, 0⟩,
    .portFreeze 0 ⟨0, 24, 0, false, 0⟩,
    .portFreeze 0 ⟨0, 0, 24, false, 0⟩,
    .portFreeze 0 ⟨0, 0, 0, false, 8⟩,
    .freezeRelease 64 ⟨0, 0, 0, false, 0⟩,
    .freezeRelease 0 ⟨8, 0, 0, false, 0⟩,
    .patternResume 64,
    .crossingMarginLoss 8 ⟨0, 0⟩,
    .crossingMarginLoss 0 ⟨4, 0⟩,
    .crossingMarginLoss 0 ⟨0, 24⟩,
    .crossingRetrainComplete 8 0,
    .crossingRetrainComplete 0 4,
    .cellFailure 8 0 .switch 0,
    .cellFailure 0 24 .switch 0,
    .cellFailure 0 0 .switch 25,
    .chainForm 8 0 .c,
    .chainForm 0 24 .c,
    .patternSwitch 64 [],
    .patternSwitch 0 (List.replicate 9 0),
    .patternDone 64 [],
    .patternDone 0 (List.replicate 9 0),
    .clockStepChange 8 ⟨0, 0⟩,
    .clockStepChange 0 ⟨8, 0⟩,
    .clockStepChange 0 ⟨0, 1024⟩] : List Instr).all fun i => !i.wf) = true := by decide

theorem test_ill_formed_3 : (([.rerunnableDetection ({ (default : Detection) with die := 8 }) 0,
    .rerunnableDetection ({ (default : Detection) with cell := 288 }) 0,
    .rerunnableDetection ({ (default : Detection) with row := 2048 }) 0,
    .rerunnableDetection ({ (default : Detection) with glove := 64 }) 0,
    .loadComplete 64,
    .armedSwitch 64,
    .waitTimeout 64,
    .workCounterClaim 8 0 0 (.system 0) 0 false,
    .workCounterClaim 0 288 0 (.system 0) 0 false,
    .workCounterClaim 0 0 16 (.system 0) 0 false,
    .wkcWrite 8 0 0 false .whole 0,
    .wkcWrite 0 288 0 false .whole 0,
    .wkcWrite 0 0 16 false .whole 0,
    .ctNop ⟨8, 0, 0⟩,
    .ctNop ⟨0, 24, 0⟩,
    .ctNop ⟨0, 0, 24⟩,
    .epx ⟨8, 0, 0⟩,
    .eps ⟨8, 0, 0⟩ 0,
    .fset ⟨8, 0, 0⟩ 0,
    .fany ⟨8, 0, 0⟩ 0,
    .fall ⟨8, 0, 0⟩ 0,
    .trap ⟨8, 0, 0⟩ 0,
    .mvNop ⟨8, 0, 0⟩,
    .fil ⟨8, 0, 0⟩ 1 0 0 1,
    .fil ⟨0, 0, 0⟩ 0 0 0 1,
    .fil ⟨0, 0, 0⟩ 6 0 0 1,
    .fil ⟨0, 0, 0⟩ 1 8 0 1,
    .fil ⟨0, 0, 0⟩ 1 0 32 1,
    .fil ⟨0, 0, 0⟩ 1 0 0 0,
    .fil ⟨0, 0, 0⟩ 1 0 0 257,
    .vld ⟨8, 0, 0⟩ 1 0 false 0,
    .vld ⟨0, 0, 0⟩ 0 0 false 0,
    .vld ⟨0, 0, 0⟩ 6 0 false 0,
    .vld ⟨0, 0, 0⟩ 1 64 false 0,
    .vld ⟨0, 0, 0⟩ 1 0 false 4,
    .vst ⟨8, 0, 0⟩ 1 0 false 0] : List Instr).all fun i => !i.wf) = true := by decide

theorem test_ill_formed_4 : (([.vst ⟨0, 0, 0⟩ 0 0 false 0,
    .vst ⟨0, 0, 0⟩ 6 0 false 0,
    .vst ⟨0, 0, 0⟩ 1 64 false 0,
    .vst ⟨0, 0, 0⟩ 1 0 false 4,
    .tok ⟨8, 0, 0⟩ 0,
    .obv ⟨8, 0, 0⟩ 0 0 0,
    .obv ⟨0, 0, 0⟩ 8 0 0,
    .obv ⟨0, 0, 0⟩ 0 32 0,
    .obv ⟨0, 0, 0⟩ 0 0 64,
    .dsc ⟨8, 0, 0⟩ 1,
    .dsc ⟨0, 0, 0⟩ 0,
    .dsc ⟨0, 0, 0⟩ 6,
    .vnop ⟨8, 0, 0⟩,
    .vadd ⟨8, 0, 0⟩ 0 0 0 0 false,
    .vadd ⟨0, 0, 0⟩ 64 0 0 0 false,
    .vadd ⟨0, 0, 0⟩ 0 64 0 0 false,
    .vadd ⟨0, 0, 0⟩ 0 0 64 0 false,
    .vadd ⟨0, 0, 0⟩ 0 0 0 8 false,
    .vsub ⟨8, 0, 0⟩ 0 0 0 0 false,
    .vsub ⟨0, 0, 0⟩ 64 0 0 0 false,
    .vsub ⟨0, 0, 0⟩ 0 64 0 0 false,
    .vsub ⟨0, 0, 0⟩ 0 0 64 0 false,
    .vsub ⟨0, 0, 0⟩ 0 0 0 8 false,
    .vmul ⟨8, 0, 0⟩ 0 0 0 0 false,
    .vmul ⟨0, 0, 0⟩ 64 0 0 0 false,
    .vmul ⟨0, 0, 0⟩ 0 64 0 0 false,
    .vmul ⟨0, 0, 0⟩ 0 0 64 0 false,
    .vmul ⟨0, 0, 0⟩ 0 0 0 8 false,
    .vfma ⟨8, 0, 0⟩ 0 0 0 0 0 false,
    .vfma ⟨0, 0, 0⟩ 64 0 0 0 0 false,
    .vfma ⟨0, 0, 0⟩ 0 64 0 0 0 false,
    .vfma ⟨0, 0, 0⟩ 0 0 64 0 0 false,
    .vfma ⟨0, 0, 0⟩ 0 0 0 64 0 false,
    .vfma ⟨0, 0, 0⟩ 0 0 0 0 8 false,
    .vmax ⟨8, 0, 0⟩ 0 0 0 0 false,
    .vmax ⟨0, 0, 0⟩ 64 0 0 0 false] : List Instr).all fun i => !i.wf) = true := by decide

theorem test_ill_formed_5 : (([.vmax ⟨0, 0, 0⟩ 0 64 0 0 false,
    .vmax ⟨0, 0, 0⟩ 0 0 64 0 false,
    .vmax ⟨0, 0, 0⟩ 0 0 0 8 false,
    .vmin ⟨8, 0, 0⟩ 0 0 0 0 false,
    .vmin ⟨0, 0, 0⟩ 64 0 0 0 false,
    .vmin ⟨0, 0, 0⟩ 0 64 0 0 false,
    .vmin ⟨0, 0, 0⟩ 0 0 64 0 false,
    .vmin ⟨0, 0, 0⟩ 0 0 0 8 false,
    .vsel ⟨8, 0, 0⟩ 0 0 0 0 0,
    .vsel ⟨0, 0, 0⟩ 64 0 0 0 0,
    .vsel ⟨0, 0, 0⟩ 0 64 0 0 0,
    .vsel ⟨0, 0, 0⟩ 0 0 64 0 0,
    .vsel ⟨0, 0, 0⟩ 0 0 0 8 0,
    .vsel ⟨0, 0, 0⟩ 0 0 0 0 8,
    .vmov ⟨8, 0, 0⟩ 0 0 0,
    .vmov ⟨0, 0, 0⟩ 64 0 0,
    .vmov ⟨0, 0, 0⟩ 0 64 0,
    .vmov ⟨0, 0, 0⟩ 0 0 8,
    .vbc ⟨8, 0, 0⟩ 0 0 0,
    .vbc ⟨0, 0, 0⟩ 64 0 0,
    .vbc ⟨0, 0, 0⟩ 0 64 0,
    .vbc ⟨0, 0, 0⟩ 0 0 8,
    .vcmp ⟨8, 0, 0⟩ 0 0 0 0 0,
    .vcmp ⟨0, 0, 0⟩ 8 0 0 0 0,
    .vcmp ⟨0, 0, 0⟩ 0 64 0 0 0,
    .vcmp ⟨0, 0, 0⟩ 0 0 64 0 0,
    .vcmp ⟨0, 0, 0⟩ 0 0 0 8 0,
    .vcmp ⟨0, 0, 0⟩ 0 0 0 0 8,
    .vmsk ⟨8, 0, 0⟩ ⟨0, 0⟩ 0 0 0,
    .vmsk ⟨0, 0, 0⟩ ⟨8, 0⟩ 0 0 0,
    .vmsk ⟨0, 0, 0⟩ ⟨0, 0⟩ 64 0 0,
    .vmsk ⟨0, 0, 0⟩ ⟨0, 0⟩ 0 64 0,
    .vmsk ⟨0, 0, 0⟩ ⟨0, 8⟩ 0 0 0,
    .vmsk ⟨0, 0, 0⟩ ⟨0, 0⟩ 0 0 8,
    .vred ⟨8, 0, 0⟩ 0 0 0 0,
    .vred ⟨0, 0, 0⟩ 64 0 0 0] : List Instr).all fun i => !i.wf) = true := by decide

theorem test_ill_formed_6 : (([.vred ⟨0, 0, 0⟩ 0 64 0 0,
    .vred ⟨0, 0, 0⟩ 0 0 8 0,
    .vred ⟨0, 0, 0⟩ 0 0 0 4,
    .vxf ⟨8, 0, 0⟩ 0 0 0 0,
    .vxf ⟨0, 0, 0⟩ 64 0 0 0,
    .vxf ⟨0, 0, 0⟩ 0 64 0 0,
    .vxf ⟨0, 0, 0⟩ 0 0 8 0,
    .vxf ⟨0, 0, 0⟩ 0 0 0 4,
    .vcvt ⟨8, 0, 0⟩ 0 0 0 0 0 false,
    .vcvt ⟨0, 0, 0⟩ 64 0 0 0 0 false,
    .vcvt ⟨0, 0, 0⟩ 0 64 0 0 0 false,
    .vcvt ⟨0, 0, 0⟩ 0 0 64 0 0 false,
    .vcvt ⟨0, 0, 0⟩ 0 0 0 8 0 false,
    .vcvt ⟨0, 0, 0⟩ 0 0 0 0 8 false,
    .mnop ⟨8, 0, 0⟩,
    .mma ⟨8, 0, 0⟩ 0 0 0 0 0 0 0 0,
    .mma ⟨0, 0, 0⟩ 2 0 0 0 0 0 0 0,
    .mma ⟨0, 0, 0⟩ 0 4 0 0 0 0 0 0,
    .mma ⟨0, 0, 0⟩ 0 0 16 0 0 0 0 0,
    .mma ⟨0, 0, 0⟩ 0 0 0 16 0 0 0 0,
    .mma ⟨0, 0, 0⟩ 0 0 0 0 8 0 0 0,
    .mma ⟨0, 0, 0⟩ 0 0 0 0 0 32 0 0,
    .mma ⟨0, 0, 0⟩ 0 0 0 0 0 0 8 0,
    .mma ⟨0, 0, 0⟩ 0 0 0 0 0 0 0 32,
    .mrd ⟨8, 0, 0⟩ 0 0 false 0 false,
    .mrd ⟨0, 0, 0⟩ 2 0 false 0 false,
    .mrd ⟨0, 0, 0⟩ 0 128 false 0 false,
    .mrd ⟨0, 0, 0⟩ 0 0 false 64 false,
    .mwr ⟨8, 0, 0⟩ 0 0 false 0,
    .mwr ⟨0, 0, 0⟩ 2 0 false 0,
    .mwr ⟨0, 0, 0⟩ 0 128 false 0,
    .mwr ⟨0, 0, 0⟩ 0 0 false 64,
    .mz ⟨8, 0, 0⟩ 0,
    .mz ⟨0, 0, 0⟩ 2,
    .mrs ⟨8, 0, 0⟩ 0 0 0,
    .mrs ⟨0, 0, 0⟩ 2 0 0] : List Instr).all fun i => !i.wf) = true := by decide

theorem test_ill_formed_7 : (([.mrs ⟨0, 0, 0⟩ 0 8 0,
    .mrs ⟨0, 0, 0⟩ 0 0 32,
    .gsqNop 64,
    .li 64 0 0,
    .li 0 16 0,
    .lih 64 0 0,
    .lih 0 16 0,
    .addi 64 0 0 0,
    .addi 0 16 0 0,
    .addi 0 0 16 0,
    .add 64 0 0 0,
    .add 0 16 0 0,
    .add 0 0 16 0,
    .add 0 0 0 16,
    .br 64 0,
    .br 0 2048,
    .bnz 64 0 0,
    .bnz 0 16 0,
    .bnz 0 0 2048,
    .djnz 64 0 0,
    .djnz 0 16 0,
    .djnz 0 0 2048,
    .bst 64 0 0 0,
    .bst 0 4 0 0,
    .bst 0 0 256 0,
    .bst 0 0 0 2048,
    .load 64 0 0,
    .load 0 4 0,
    .load 0 0 16,
    .arm 64 0 0 0,
    .arm 0 4 0 0,
    .arm 0 0 16 0,
    .arm 0 0 0 1048576,
    .swi 64 0,
    .swi 0 4,
    .run 64 0 0] : List Instr).all fun i => !i.wf) = true := by decide

theorem test_ill_formed_8 : (([.run 0 4 0,
    .run 0 0 16,
    .waitDone 64 0,
    .waitDone 0 65536,
    .waitLoaded 64 0 0,
    .waitLoaded 0 4 0,
    .waitLoaded 0 0 65536,
    .waitTick 64 0 0 0,
    .waitTick 0 16 0 0,
    .waitTick 0 0 1048576 0,
    .waitTick 0 0 0 65536,
    .waitArrival 64 0 0 0,
    .waitArrival 0 16 0 0,
    .waitArrival 0 0 16 0,
    .waitArrival 0 0 0 65536,
    .waitSwitched 64 0,
    .waitSwitched 0 65536,
    .waitSealed 64 0,
    .waitSealed 0 65536,
    .exch 64 0 0 0 0,
    .exch 0 16 0 0 0,
    .exch 0 0 1048576 0 0,
    .exch 0 0 0 256 0,
    .exch 0 0 0 0 2048,
    .sealExtent 64 0 0 0 0 0,
    .sealExtent 0 16 0 0 0 0,
    .sealExtent 0 0 16 0 0 0,
    .sealExtent 0 0 0 16 0 0,
    .sealExtent 0 0 0 0 16 0,
    .sealExtent 0 0 0 0 0 2,
    .ctr 64 0 0 0,
    .ctr 0 16 0 0,
    .ctr 0 0 16 0,
    .ctr 0 0 0 16,
    .report 64 0 0,
    .report 0 16 0] : List Instr).all fun i => !i.wf) = true := by decide

theorem test_ill_formed_9 : (([.report 0 0 65536,
    .secb 64 0,
    .secb 0 65536,
    .halt 64,
    .agEnd 2304 0,
    .agEnd 0 8,
    .agRun 2304 0 0 [],
    .agRun 0 8 0 [],
    .agLoop 2304 0 0 0,
    .agLoop 0 8 0 0,
    .agLoop 0 0 16777216 0,
    .agLoop 0 0 0 64,
    .ring 2304 0 0 0 1 1,
    .ring 0 8 0 0 1 1,
    .ring 0 0 4 0 1 1,
    .ring 0 0 0 2048 1 1,
    .ring 0 0 0 0 0 1,
    .ring 0 0 0 0 65 1,
    .ring 0 0 0 0 1 0,
    .ring 0 0 0 0 1 17,
    .win 2304 0 0 0 0 0,
    .win 0 8 0 0 0 0,
    .win 0 0 4 0 0 0,
    .win 0 0 0 16 0 0,
    .win 0 0 0 0 2048 0,
    .win 0 0 0 0 0 4096,
    .seta 2304 0 0 0,
    .seta 0 16 0 0,
    .hqb 2304 0 0,
    .hqb 0 2 0,
    .hqb 0 0 65536,
    .hqb 0 0 1,
    .ringFill 2304 0,
    .ringFill 0 4,
    .ringDrain 2304 0 [],
    .ringDrain 0 4 []] : List Instr).all fun i => !i.wf) = true := by decide

theorem test_ill_formed_10 : (([.narrowRequest (.core 56 0 0) 0 default false,
    .narrowRequest (.core 0 64 0) 0 default false,
    .narrowRequest (.core 0 0 256) 0 default false,
    .narrowRequest (.host 65) 0 default false,
    .narrowRequest (.system 14) 0 default false,
    .narrowRequest (.system 0) 0x100000000000000 default false,
    .mergeWriteback 2304 0,
    .mergeWriteback 0 2048,
    .remoteWrite 0x100000000000000 0 [] false,
    .remoteWrite 0 64 [] false,
    .remoteWrite 0 0 (List.replicate 513 0) false,
    .handlePush 2304 0 0 0 0,
    .handlePush 0 2 0 0 0,
    .handlePush 0 0 65536 0 0,
    .handlePush 0 0 0 0 64,
    .arvCntWrite 8 0 0 .whole 0 0,
    .arvCntWrite 0 288 0 .whole 0 0,
    .arvCntWrite 0 0 16 .whole 0 0,
    .packedBlockDecode 8 0 0 0,
    .packedBlockDecode 0 64 0 0,
    .packedBlockDecode 0 0 0 64,
    .hbmUncorrectedRead 65536 0 0 false false,
    .hbmUncorrectedRead 0 0 64 false false,
    .frameRetirement 65536,
    .migrationStart 4,
    .heldWriteRelease 65536 0,
    .relocationComplete false 0 16777216 0,
    .ddrUncorrectedError 36 0 0 0,
    .deepPortLinkDown 4,
    .nvmeCommandComplete 4 0 false,
    .dqsTracking 36,
    .stagingRecordEntry 256 0 0,
    .exchangePhaseStart 256 [] false,
    .dataStage 256 [] false,
    .receiveRecord 256 [],
    .fwdSlot 256 0 []] : List Instr).all fun i => !i.wf) = true := by decide

theorem test_ill_formed_11 : (([.closeStage 256 [],
    .exchangeRoundOpen 256,
    .stwGcfgWrite 64 .whole 0,
    .faultHoldExpiry 64,
    .gloveResetDone 64,
    .flitReceive 96 default,
    .flitReceive 0 ({ (default : Flit) with vc := 8 }),
    .flitReceive 0 ({ (default : Flit) with seq := 4096 }),
    .flitReceive 0 ({ (default : Flit) with ack := 4096 }),
    .flitReceive 0 ({ (default : Flit) with body := List.replicate 257 0 }),
    .replayTimeout 96,
    .linkTrainingStart 96,
    .linkTrainingComplete 96 0 0 0 0,
    .linkTrainingComplete 0 4 0 0 0,
    .linkTrainingComplete 0 0 8192 0 0,
    .linkTrainingComplete 0 0 0 96 0,
    .laneDrop 96 0,
    .laneDrop 0 2,
    .linkSignalDetect 96,
    .lnkRetrain 96,
    .lnkEnableWrite 96 0,
    .packetForward ({ (default : Packet) with dest := 8192 }),
    .packetForward ({ (default : Packet) with src := 8192 }),
    .packetForward ({ (default : Packet) with payload := List.replicate 4097 0 }),
    .relayedCommand 256 default,
    .relayedCommand 0 ({ (default : HostCmd) with func := 65 }),
    .workerReport 32 default,
    .workerHeartbeatMiss 32 false false,
    .vfFlr 0,
    .vfFlr 65,
    .d3hotEntry 65,
    .hostWindowRead 65 0 0 [],
    .hostWindowWrite 65 0 [] [],
    .hostWindowWrite 0 0 [] [true],
    .commandSlotReceive 65 0 0 0 0,
    .commandSlotReceive 0 256 0 0 0] : List Instr).all fun i => !i.wf) = true := by decide

theorem test_ill_formed_12 : (([.commandSlotReceive 0 0 0 8 0,
    .commandRingEnable 256 .whole 0,
    .completionRingEnable 256 .whole 0,
    .cqHeadWrite 65 0 0,
    .cqHeadWrite 0 256 0,
    .msixModerationTimer 256,
    .identify ({ (default : HostCmd) with func := 65 }),
    .setProfile ({ (default : HostCmd) with func := 65 }),
    .setTickPeriod ({ (default : HostCmd) with func := 65 }),
    .setRung ({ (default : HostCmd) with func := 65 }),
    .setRoute ({ (default : HostCmd) with func := 65 }),
    .stewardSwap ({ (default : HostCmd) with func := 65 }),
    .serviceOpFence ({ (default : HostCmd) with func := 65 }),
    .serviceOpUnfence ({ (default : HostCmd) with func := 65 }),
    .serviceOpRetire ({ (default : HostCmd) with func := 65 }),
    .serviceOpFormChain ({ (default : HostCmd) with func := 65 }),
    .serviceOpReturn ({ (default : HostCmd) with func := 65 }) none,
    .keyOpInstall ({ (default : HostCmd) with func := 65 }),
    .keyOpErase ({ (default : HostCmd) with func := 65 }),
    .imageOpStage ({ (default : HostCmd) with func := 65 }),
    .imageOpActivate ({ (default : HostCmd) with func := 65 }),
    .imageOpWriteOtp ({ (default : HostCmd) with func := 65 }),
    .gloveCreate ({ (default : HostCmd) with func := 65 }),
    .gloveDestroy ({ (default : HostCmd) with func := 65 }),
    .gloveReset ({ (default : HostCmd) with func := 65 }),
    .frameAlloc ({ (default : HostCmd) with func := 65 }),
    .frameShare ({ (default : HostCmd) with func := 65 }),
    .frameFree ({ (default : HostCmd) with func := 65 }),
    .gsqWrite ({ (default : HostCmd) with func := 65 }),
    .gsqStart ({ (default : HostCmd) with func := 65 }),
    .gsqStop ({ (default : HostCmd) with func := 65 }),
    .planInstall ({ (default : HostCmd) with func := 65 }),
    .planRemove ({ (default : HostCmd) with func := 65 }),
    .lz2Enable ({ (default : HostCmd) with func := 65 }),
    .lz2Disable ({ (default : HostCmd) with func := 65 }),
    .migrate ({ (default : HostCmd) with func := 65 })] : List Instr).all fun i => !i.wf) = true := by decide

theorem test_ill_formed_13 : (([.modelRegister ({ (default : HostCmd) with func := 65 }),
    .modelSwitchin ({ (default : HostCmd) with func := 65 }),
    .modelPark ({ (default : HostCmd) with func := 65 }),
    .modelReplace ({ (default : HostCmd) with func := 65 }),
    .adapterLoad ({ (default : HostCmd) with func := 65 }),
    .adapterUnload ({ (default : HostCmd) with func := 65 }),
    .markPublic ({ (default : HostCmd) with func := 65 }),
    .admitSeq ({ (default : HostCmd) with func := 65 }),
    .routeAdmit ({ (default : HostCmd) with func := 65 }),
    .append ({ (default : HostCmd) with func := 65 }),
    .cancel ({ (default : HostCmd) with func := 65 }),
    .pause ({ (default : HostCmd) with func := 65 }),
    .resume ({ (default : HostCmd) with func := 65 }),
    .release ({ (default : HostCmd) with func := 65 }),
    .selfTestComplete 8 default,
    .stackTrainingAttempt 32 false,
    .dieRelease 8,
    .patternCycle 64,
    .flitTransmit 96,
    .moduleHeartbeat 32,
    .d3hotExit 65,
    .deepPortNvmeReady 4 false 0 0 0,
    .stackControllerFailure 32,
    .dieToDiePortFailure 8 none,
    .waitTickReached 64,
    .periodChangeReceive 9999 0,
    .periodChangeReceive 1000001 0] : List Instr).all fun i => !i.wf) = true := by decide

theorem test_well_formed_1 : (([.registerWrite 0 0 .whole 0,
    .w1cWrite 0 .whole 0 0,
    .alignmentLoad 0 0 10000 none ⟨0, 0⟩,
    .beaconReceive ⟨0, 0, 0, 0, 0, 10000, none, 0⟩ ⟨0, 0⟩ 0,
    .beaconCheck 0 ⟨0, 0⟩,
    .crownMeet 0,
    .ledgerPeriod ⟨0, 0, 0, []⟩,
    .demandReceived 0 0 0 0,
    .stepCommit 0,
    .stepDone 0,
    .stepAbort 0,
    .samplerFinish 0,
    .autoResume 0,
    .ttlExpiry 0,
    .extentTtlExpiry 0,
    .cacheSealComplete 0,
    .sealRetry 0,
    .resumePageRetry 0,
    .resumeCopyComplete 0,
    .cuffRelease 0,
    .switchinExtentComplete 0 0,
    .peerLost 0 0 0,
    .fetchRequest default,
    .fetchUnitReceive 0 0 0 [],
    .scheduleFault default,
    .cellException default,
    .portFreeze 0 ⟨0, 0, 0, false, 0⟩,
    .freezeRelease 0 ⟨0, 0, 0, false, 0⟩,
    .patternResume 0,
    .crossingMarginLoss 0 ⟨0, 0⟩,
    .crossingRetrainComplete 0 0,
    .cellFailure 0 0 .switch 0,
    .chainForm 0 0 .c,
    .patternSwitch 0 [],
    .patternDone 0 [],
    .clockStepChange 0 ⟨0, 0⟩] : List Instr).all fun i => i.wf) = true := by decide

theorem test_well_formed_2 : (([.rerunnableDetection default 0,
    .loadComplete 0,
    .armedSwitch 0,
    .waitTimeout 0,
    .workCounterClaim 0 0 0 (.system 0) 0 false,
    .wkcWrite 0 0 0 false .whole 0,
    .ctNop ⟨0, 0, 0⟩,
    .epx ⟨0, 0, 0⟩,
    .eps ⟨0, 0, 0⟩ 0,
    .fset ⟨0, 0, 0⟩ 0,
    .fany ⟨0, 0, 0⟩ 0,
    .fall ⟨0, 0, 0⟩ 0,
    .trap ⟨0, 0, 0⟩ 0,
    .mvNop ⟨0, 0, 0⟩,
    .fil ⟨0, 0, 0⟩ 1 0 0 1,
    .vld ⟨0, 0, 0⟩ 1 0 false 0,
    .vst ⟨0, 0, 0⟩ 1 0 false 0,
    .tok ⟨0, 0, 0⟩ 0,
    .obv ⟨0, 0, 0⟩ 0 0 0,
    .dsc ⟨0, 0, 0⟩ 1,
    .vnop ⟨0, 0, 0⟩,
    .vadd ⟨0, 0, 0⟩ 0 0 0 0 false,
    .vsub ⟨0, 0, 0⟩ 0 0 0 0 false,
    .vmul ⟨0, 0, 0⟩ 0 0 0 0 false,
    .vfma ⟨0, 0, 0⟩ 0 0 0 0 0 false,
    .vmax ⟨0, 0, 0⟩ 0 0 0 0 false,
    .vmin ⟨0, 0, 0⟩ 0 0 0 0 false,
    .vsel ⟨0, 0, 0⟩ 0 0 0 0 0,
    .vmov ⟨0, 0, 0⟩ 0 0 0,
    .vbc ⟨0, 0, 0⟩ 0 0 0,
    .vcmp ⟨0, 0, 0⟩ 0 0 0 0 0,
    .vmsk ⟨0, 0, 0⟩ ⟨0, 0⟩ 0 0 0,
    .vred ⟨0, 0, 0⟩ 0 0 0 0,
    .vxf ⟨0, 0, 0⟩ 0 0 0 0,
    .vcvt ⟨0, 0, 0⟩ 0 0 0 0 0 false,
    .mnop ⟨0, 0, 0⟩] : List Instr).all fun i => i.wf) = true := by decide

theorem test_well_formed_3 : (([.mma ⟨0, 0, 0⟩ 0 0 0 0 0 0 0 0,
    .mrd ⟨0, 0, 0⟩ 0 0 false 0 false,
    .mwr ⟨0, 0, 0⟩ 0 0 false 0,
    .mz ⟨0, 0, 0⟩ 0,
    .mrs ⟨0, 0, 0⟩ 0 0 0,
    .gsqNop 0,
    .li 0 0 0,
    .lih 0 0 0,
    .addi 0 0 0 0,
    .add 0 0 0 0,
    .br 0 0,
    .bnz 0 0 0,
    .djnz 0 0 0,
    .bst 0 0 0 0,
    .load 0 0 0,
    .arm 0 0 0 0,
    .swi 0 0,
    .run 0 0 0,
    .waitDone 0 0,
    .waitLoaded 0 0 0,
    .waitTick 0 0 0 0,
    .waitArrival 0 0 0 0,
    .waitSwitched 0 0,
    .waitSealed 0 0,
    .exch 0 0 0 0 0,
    .sealExtent 0 0 0 0 0 0,
    .ctr 0 0 0 0,
    .report 0 0 0,
    .secb 0 0,
    .halt 0,
    .agEnd 0 0,
    .agRun 0 0 0 [],
    .agLoop 0 0 0 0,
    .ring 0 0 0 0 1 1,
    .win 0 0 0 0 0 0,
    .seta 0 0 0 0] : List Instr).all fun i => i.wf) = true := by decide

theorem test_well_formed_4 : (([.hqb 0 0 0,
    .ringFill 0 0,
    .ringDrain 0 0 [],
    .narrowRequest (.system 0) 0 default false,
    .mergeWriteback 0 0,
    .remoteWrite 0 0 [] false,
    .handlePush 0 0 0 0 0,
    .arvCntWrite 0 0 0 .whole 0 0,
    .packedBlockDecode 0 0 0 0,
    .hbmUncorrectedRead 0 0 0 false false,
    .frameRetirement 0,
    .migrationStart 0,
    .heldWriteRelease 0 0,
    .relocationComplete false 0 0 0,
    .ddrUncorrectedError 0 0 0 0,
    .deepPortLinkDown 0,
    .nvmeCommandComplete 0 0 false,
    .dqsTracking 0,
    .stagingRecordEntry 0 0 0,
    .exchangePhaseStart 0 [] false,
    .dataStage 0 [] false,
    .receiveRecord 0 [],
    .fwdSlot 0 0 [],
    .closeStage 0 [],
    .exchangeRoundOpen 0,
    .stwGcfgWrite 0 .whole 0,
    .faultHoldExpiry 0,
    .gloveResetDone 0,
    .flitReceive 0 default,
    .replayTimeout 0,
    .linkTrainingStart 0,
    .linkTrainingComplete 0 0 0 0 0,
    .laneDrop 0 0,
    .linkSignalDetect 0,
    .lnkRetrain 0,
    .lnkEnableWrite 0 0] : List Instr).all fun i => i.wf) = true := by decide

theorem test_well_formed_5 : (([.packetForward default,
    .relayedCommand 0 default,
    .workerReport 0 default,
    .workerHeartbeatMiss 0 false false,
    .vfFlr 1,
    .d3hotEntry 0,
    .hostWindowRead 0 0 0 [],
    .hostWindowWrite 0 0 [] [],
    .commandSlotReceive 0 0 0 0 0,
    .commandRingEnable 0 .whole 0,
    .completionRingEnable 0 .whole 0,
    .cqHeadWrite 0 0 0,
    .msixModerationTimer 0,
    .identify default,
    .setProfile default,
    .setTickPeriod default,
    .setRung default,
    .setRoute default,
    .stewardSwap default,
    .serviceOpFence default,
    .serviceOpUnfence default,
    .serviceOpRetire default,
    .serviceOpFormChain default,
    .serviceOpReturn default none,
    .keyOpInstall default,
    .keyOpErase default,
    .imageOpStage default,
    .imageOpActivate default,
    .imageOpWriteOtp default,
    .gloveCreate default,
    .gloveDestroy default,
    .gloveReset default,
    .frameAlloc default,
    .frameShare default,
    .frameFree default,
    .gsqWrite default] : List Instr).all fun i => i.wf) = true := by decide

theorem test_well_formed_6 : (([.gsqStart default,
    .gsqStop default,
    .planInstall default,
    .planRemove default,
    .lz2Enable default,
    .lz2Disable default,
    .migrate default,
    .modelRegister default,
    .modelSwitchin default,
    .modelPark default,
    .modelReplace default,
    .adapterLoad default,
    .adapterUnload default,
    .markPublic default,
    .admitSeq default,
    .routeAdmit default,
    .append default,
    .cancel default,
    .pause default,
    .resume default,
    .release default,
    .selfTestComplete 0 default,
    .stackTrainingAttempt 0 false,
    .dieRelease 0,
    .patternCycle 0,
    .flitTransmit 0,
    .moduleHeartbeat 0,
    .d3hotExit 0,
    .deepPortNvmeReady 0 false 0 0 0,
    .stackControllerFailure 0,
    .dieToDiePortFailure 0 none,
    .waitTickReached 0,
    .periodChangeReceive 10000 0] : List Instr).all fun i => i.wf) = true := by decide


/-! One step on a small state; the expected values are worked out by hand from the rules named. -/

/-- The state after `c`. -/
def after (c : Instr) (s : State) : State := match exec c s with | .next t => t | _ => s

/-- The check value of CRC-32C: the code of the ASCII digits 1 to 9 (R273). -/
theorem test_crc32c_check : crc32c [0x31, 0x32, 0x33, 0x34, 0x35, 0x36, 0x37, 0x38, 0x39] = 0xE3069283 := by decide

/-- The generator steps by 13, 17 and 5 (R177). -/
theorem test_xorshift_one : xorshift 1 = 0x42021 := by decide

theorem test_fadd_one_one : fadd 0x3F800000 0x3F800000 = 0x40000000 := by decide

theorem test_fmul_negative : fmul 0xC0000000 0x40400000 = 0xC0C00000 := by decide

/-- FP32 rounds to nearest even: 1 + 2^-24 stays 1. -/
theorem test_fadd_ties_to_even : fadd 0x3F800000 0x33800000 = 0x3F800000 := by decide

/-- N is 25,000 after cold reset (R40). -/
theorem test_reset_tick_period : State.reset.tick.n = 25000 := by decide

/-- A tick read latches the high half and the phase (R62). -/
theorem test_tick_read_latches :
    (after (.tkeTickRead .lo) (State.reset.onTick fun t => { t with tick := 2 ^ 32 + 7, phase := 9 })).tick.latchHi = 1 ∧
    (after (.tkeTickRead .lo) (State.reset.onTick fun t => { t with tick := 2 ^ 32 + 7, phase := 9 })).tick.latchPhase = 9 := by decide

/-- A gsq that stands on the word `w` of its program. -/
def onWord (w : Word) : State :=
  ((State.reset.onGlv 0 fun v => { v with live := true, gsq := 0 }).onGsq 0 fun x => { x with state := .running, glove := some 0, g := [0, 5] }).onSeq
    fun b => { b with store := b.store.put 0 w, marks := b.marks.put 0 true }

/-- LI sign-extends its immediate (R211). -/
theorem test_li : (after (.li 0 2 0x80000000) (onWord (gsqEnc 1 [(54, 4, 2), (0, 32, 0x80000000)]))).greg 0 2 = 0xFFFFFFFF80000000 := by decide

/-- ADDI sign-extends its immediate: 5 - 6 wraps. -/
theorem test_addi_wraps :
    (after (.addi 0 1 1 0xFFFFFFFA) (onWord (gsqEnc 3 [(54, 4, 1), (50, 4, 1), (0, 32, 0xFFFFFFFA)]))).greg 0 1 = 0xFFFFFFFFFFFFFFFF := by decide

/-- G0 discards a write. -/
theorem test_li_to_g0 : (after (.li 0 0 7) (onWord (gsqEnc 1 [(54, 4, 0), (0, 32, 7)]))).greg 0 0 = 0 := by decide

theorem test_djnz_counts : (after (.djnz 0 1 0) (onWord (gsqEnc 10 [(54, 4, 1), (0, 11, 0)]))).greg 0 1 = 4 := by decide

/-- A step runs the command at the front of the queue. -/
theorem test_step_front :
    (match step { State.reset with pending := [.tickAdvance, .refclkLoss] } with | .next t => t.pending | _ => []) = [.refclkLoss] := by decide

/-- A die that is stopped runs no pattern cycle. -/
theorem test_stopped_pattern :
    (after (.patternCycle 0) (((State.reset.onPat 0 fun p => { p with valid := true }).onSeq
      fun b => { b with imgs := b.imgs.put 0 { (default : ImgInfo) with dies := 1 } }).onRung fun r => { r with rung := 1 })).pat 0 =
      { (default : PatSt) with valid := true } := by decide


end Sys2Proof.Tests

/-! Small states for the witnesses below. -/

namespace Sys2Proof.Machine.State

/-- `s` in module state `m`. -/
def wM (s : State) (m : MState) : State := { s with mstate := m }

/-- `s` with node ID `n`. -/
def wId (s : State) (n : Option Nat) : State := { s with nodeId := n }

/-- `s` in service, with the firmware up and PERST# released. -/
def wS (s : State) : State := (({ s with mstate := .service } : State).onAos fun z => { z with stage := 5 }).onHost fun z => { z with perst := false }

/-- `s` with key slot `n` holding a key. -/
def wKey (s : State) (n : Nat) : State := { s with keys := s.keys.upd n fun z => { z with installed := true } }

/-- `s` at tick 5, with its ledger period run. -/
def wNoLedger (s : State) : State := (s.onTick fun z => { z with tick := 5 }).onLedger fun z => { z with lastTick := some 5 }

/-- `s` with glove 0 on sequencer `q`, which runs and fetches `w`. -/
def wGsq (s : State) (q : Nat) (w : Word) : State :=
  ((s.onGlv 0 fun z => { z with live := true, gsq := q }).onGsq q fun z => { z with state := .running, glove := some 0, pc := 0 }).onSeq
    fun z => { z with store := z.store.put (2048 * q) w, marks := z.marks.put (2048 * q) true }

/-- `s` with a switch of glove 0 armed. -/
def wArm (s : State) : State := (s.onGlv 0 fun z => { z with live := true }).onGsq 0 fun z => { z with glove := some 0, arm := z.arm.or (some ⟨0, 0, 0, .loaded⟩) }

end Sys2Proof.Machine.State

namespace Sys2Proof.Tests

/-! One witness a statement: for each of its clauses, states and operands that meet all the hypotheses of the clause. -/

theorem wit_AosOperationsAttestationAndDrain :
    (∃ (s : State), s.sidebandUp = false) ∧
    (∃ (smbus : Bool) (s : State) (v : State), s.sidebandUp = true ∧ smbus = true ∧ v = s.wakeBy WakeSrc.smbus ∧ v.fld Adr.rasCtl 1 1 = 0) ∧
    (∃ (smbus : Bool) (kind : Byte) (idx : BitVec 16) (s : State) (v : State), kind = 0 ∧ idx.toNat < 8 ∧ s.sidebandUp = true ∧ smbus = true ∧ v = s.wakeBy WakeSrc.smbus ∧ v.fld Adr.rasCtl 1 1 = 1) ∧
    (∃ (smbus : Bool) (kind : Byte) (idx : BitVec 16) (s : State), kind = 0 ∧ idx.toNat < 8 ∧ s.sidebandUp = true ∧ smbus = false) ∧
    (∃ (smbus : Bool) (kind : Byte) (idx : BitVec 16) (s : State) (v : State), kind = 1 ∧ idx.toNat < 8 ∧ s.sidebandUp = true ∧ smbus = true ∧ v = s.wakeBy WakeSrc.smbus ∧ v.fld Adr.rasCtl 1 1 = 1) ∧
    (∃ (smbus : Bool) (kind : Byte) (idx : BitVec 16) (s : State), kind = 1 ∧ idx.toNat < 8 ∧ s.sidebandUp = true ∧ smbus = false) ∧
    (∃ (smbus : Bool) (kind : Byte) (idx : BitVec 16) (s : State) (v : State), kind = 3 ∧ idx.toNat < 96 ∧ s.sidebandUp = true ∧ smbus = true ∧ v = s.wakeBy WakeSrc.smbus ∧ v.fld Adr.rasCtl 1 1 = 1) ∧
    (∃ (smbus : Bool) (kind : Byte) (idx : BitVec 16) (s : State), kind = 3 ∧ idx.toNat < 96 ∧ s.sidebandUp = true ∧ smbus = false) ∧
    (∃ (smbus : Bool) (kind : Byte) (s : State) (v : State), kind = 4 ∧ s.sidebandUp = true ∧ smbus = true ∧ v = s.wakeBy WakeSrc.smbus ∧ v.fld Adr.rasCtl 1 1 = 1) ∧
    (∃ (smbus : Bool) (kind : Byte) (s : State), kind = 4 ∧ s.sidebandUp = true ∧ smbus = false) ∧
    (∃ (smbus : Bool) (kind : Byte) (idx : BitVec 16) (s : State) (v : State), kind = 3 ∧ 96 ≤ idx.toNat ∧ s.sidebandUp = true ∧ smbus = true ∧ v = s.wakeBy WakeSrc.smbus ∧ v.fld Adr.rasCtl 1 1 = 1) ∧
    (∃ (smbus : Bool) (kind : Byte) (idx : BitVec 16) (s : State), kind = 3 ∧ 96 ≤ idx.toNat ∧ s.sidebandUp = true ∧ smbus = false) ∧
    (∃ (smbus : Bool) (kind : Byte) (idx : BitVec 16) (s : State) (v : State), kind = 2 ∧ idx.toNat < 64 ∧ (∀ (u : State), u = s.wakeBy WakeSrc.smbus → (u.glove idx.toNat).live = true) ∧ (s.glove idx.toNat).live = true ∧ s.sidebandUp = true ∧ smbus = true ∧ v = s.wakeBy WakeSrc.smbus ∧ v.fld Adr.rasCtl 1 1 = 1) ∧
    (∃ (smbus : Bool) (kind : Byte) (idx : BitVec 16) (s : State), kind = 2 ∧ idx.toNat < 64 ∧ (∀ (u : State), u = s.wakeBy WakeSrc.smbus → (u.glove idx.toNat).live = true) ∧ (s.glove idx.toNat).live = true ∧ s.sidebandUp = true ∧ smbus = false) ∧
    (∃ (smbus : Bool) (kind : Byte) (s : State) (v : State), kind = 5 ∧ s.sidebandUp = true ∧ smbus = true ∧ v = s.wakeBy WakeSrc.smbus ∧ v.fld Adr.rasCtl 1 1 = 1) ∧
    (∃ (smbus : Bool) (kind : Byte) (s : State), kind = 5 ∧ s.sidebandUp = true ∧ smbus = false) ∧
    (∃ (smbus : Bool) (kind : Byte) (s : State) (v : State), 6 ≤ BitVec.toNat kind ∧ s.sidebandUp = true ∧ smbus = true ∧ v = s.wakeBy WakeSrc.smbus ∧ v.fld Adr.rasCtl 1 1 = 1) ∧
    (∃ (smbus : Bool) (kind : Byte) (s : State), 6 ≤ BitVec.toNat kind ∧ s.sidebandUp = true ∧ smbus = false) ∧
    (∃ (smbus : Bool) (slot : Byte) (s : State) (v : State), s.sidebandUp = true ∧ smbus = true ∧ v = s.wakeBy WakeSrc.smbus ∧ v.fld Adr.rasCtl 1 1 = 1 ∧ (v.keys.at (BitVec.toNat slot)).installed = false) ∧
    (∃ (smbus : Bool) (slot : Byte) (s : State) (v : State), s.sidebandUp = true ∧ smbus = true ∧ v = s.wakeBy WakeSrc.smbus ∧ v.fld Adr.rasCtl 1 1 = 1 ∧ (v.keys.at (BitVec.toNat slot)).installed = true) ∧
    (∃ (smbus : Bool) (slot : Byte) (s : State), s.sidebandUp = true ∧ smbus = false ∧ (s.keys.at (BitVec.toNat slot)).installed = true) ∧
    (∃ (smbus : Bool) (cold : Byte) (s : State) (v : State), s.sidebandUp = true ∧ smbus = true ∧ v = s.wakeBy WakeSrc.smbus ∧ v.fld Adr.rasCtl 1 1 = 1 ∧ 1 < BitVec.toNat cold) ∧
    (∃ (smbus : Bool) (cold : Byte) (s : State) (v : State), s.sidebandUp = true ∧ smbus = true ∧ v = s.wakeBy WakeSrc.smbus ∧ v.fld Adr.rasCtl 1 1 = 1 ∧ BitVec.toNat cold ≤ 1) ∧
    (∃ (smbus : Bool) (cold : Byte) (s : State), s.sidebandUp = true ∧ smbus = false ∧ BitVec.toNat cold ≤ 1) ∧
    (∃ (s : State), (s.stw.running = false ∨ s.inA = false ∨ s.sidebandUp = false)) ∧
    (∃ (s : State), s.stw.running = true ∧ s.inA = true ∧ s.sidebandUp = true ∧ s.stw.standbyReady = true) ∧
    (∃ (s : State), s.stw.running = true ∧ s.inA = true ∧ s.sidebandUp = true ∧ s.stw.standbyReady = false) ∧
    (∃ (s : State), (s.net.role ≠ 1 ∨ s.sidebandUp = false)) ∧
    (∃ (s : State), s.net.role = 1 ∧ s.sidebandUp = true) ∧
    (∃ (half : Half), half = Half.hi) ∧
    (∃ (half : Half) (val : Word) (s : State), half ≠ Half.hi ∧ (val.bit 0 = false ∨ s.aos.abusy = true ∨ s.aos.trngOk = false)) ∧
    (∃ (half : Half) (val : Word) (s : State), half ≠ Half.hi ∧ val.bit 0 = true ∧ s.aos.abusy = false ∧ s.aos.trngOk = true) ∧
    (∃ (s : State), s.aos.abusy = true) ∧
    (∃ (s : State), (s.mstate = MState.off ∨ s.mstate = MState.reset)) ∧
    (∃ (s : State), s.mstate ≠ MState.off ∧ s.mstate ≠ MState.reset) ∧
    (∃ (half : Half) (val : Word) (s : State) (v : Word), v = mergeHalf half (s.reg Adr.rasCtl) val ∧ s.fld Adr.rasCtl 0 1 = 0 ∧ v.bit 0 = true ∧ (s.mstate = MState.service ∨ s.mstate = MState.degraded)) ∧
    (∃ (half : Half) (val : Word) (s : State) (v : Word), v = mergeHalf half (s.reg Adr.rasCtl) val ∧ s.mstate ≠ MState.service ∧ s.mstate ≠ MState.degraded ∧ s.mstate ≠ MState.draining) :=
  ⟨⟨State.reset, by decide⟩,
   ⟨true, (((State.reset.wS).setFld Adr.rasCtl 1 1 0) : State), ((((State.reset.wS).setFld Adr.rasCtl 1 1 0) : State).wakeBy WakeSrc.smbus : State), by decide⟩,
   ⟨true, 0, 0, (((State.reset.wS).setFld Adr.rasCtl 1 1 1) : State), ((((State.reset.wS).setFld Adr.rasCtl 1 1 1) : State).wakeBy WakeSrc.smbus : State), by decide⟩,
   ⟨false, 0, 0, ((State.reset.wS) : State), by decide⟩,
   ⟨true, 1, 0, (((State.reset.wS).setFld Adr.rasCtl 1 1 1) : State), ((((State.reset.wS).setFld Adr.rasCtl 1 1 1) : State).wakeBy WakeSrc.smbus : State), by decide⟩,
   ⟨false, 1, 0, ((State.reset.wS) : State), by decide⟩,
   ⟨true, 3, 0, (((State.reset.wS).setFld Adr.rasCtl 1 1 1) : State), ((((State.reset.wS).setFld Adr.rasCtl 1 1 1) : State).wakeBy WakeSrc.smbus : State), by decide⟩,
   ⟨false, 3, 0, ((State.reset.wS) : State), by decide⟩,
   ⟨true, 4, (((State.reset.wS).setFld Adr.rasCtl 1 1 1) : State), ((((State.reset.wS).setFld Adr.rasCtl 1 1 1) : State).wakeBy WakeSrc.smbus : State), by decide⟩,
   ⟨false, 4, ((State.reset.wS) : State), by decide⟩,
   ⟨true, 3, 96, (((State.reset.wS).setFld Adr.rasCtl 1 1 1) : State), ((((State.reset.wS).setFld Adr.rasCtl 1 1 1) : State).wakeBy WakeSrc.smbus : State), by decide⟩,
   ⟨false, 3, 96, ((State.reset.wS) : State), by decide⟩,
   ⟨true, 2, 0, ((((State.reset.onGlv (0 : BitVec 16).toNat (fun z => { z with live := true })).wS).setFld Adr.rasCtl 1 1 1) : State), (((((State.reset.onGlv (0 : BitVec 16).toNat (fun z => { z with live := true })).wS).setFld Adr.rasCtl 1 1 1) : State).wakeBy WakeSrc.smbus : State), by decide, by decide, by first | decide | (intro a h; cases h; done) | (intro a h; subst h; decide) | (intro a b h; cases h; done) | (intros; rfl) | (intros; decide), by decide⟩,
   ⟨false, 2, 0, (((State.reset.onGlv (0 : BitVec 16).toNat (fun z => { z with live := true })).wS) : State), by decide, by decide, by first | decide | (intro a h; cases h; done) | (intro a h; subst h; decide) | (intro a b h; cases h; done) | (intros; rfl) | (intros; decide), by decide⟩,
   ⟨true, 5, (((State.reset.wS).setFld Adr.rasCtl 1 1 1) : State), ((((State.reset.wS).setFld Adr.rasCtl 1 1 1) : State).wakeBy WakeSrc.smbus : State), by decide⟩,
   ⟨false, 5, ((State.reset.wS) : State), by decide⟩,
   ⟨true, 6, (((State.reset.wS).setFld Adr.rasCtl 1 1 1) : State), ((((State.reset.wS).setFld Adr.rasCtl 1 1 1) : State).wakeBy WakeSrc.smbus : State), by decide⟩,
   ⟨false, 6, ((State.reset.wS) : State), by decide⟩,
   ⟨true, 0, (((State.reset.wS).setFld Adr.rasCtl 1 1 1) : State), ((((State.reset.wS).setFld Adr.rasCtl 1 1 1) : State).wakeBy WakeSrc.smbus : State), by decide⟩,
   ⟨true, 0, ((((State.reset.wS).setFld Adr.rasCtl 1 1 1).wKey (BitVec.toNat (0 : Byte))) : State), (((((State.reset.wS).setFld Adr.rasCtl 1 1 1).wKey (BitVec.toNat (0 : Byte))) : State).wakeBy WakeSrc.smbus : State), by decide⟩,
   ⟨false, 0, (((State.reset.wS).wKey (BitVec.toNat (0 : Byte))) : State), by decide⟩,
   ⟨true, 2, (((State.reset.wS).setFld Adr.rasCtl 1 1 1) : State), ((((State.reset.wS).setFld Adr.rasCtl 1 1 1) : State).wakeBy WakeSrc.smbus : State), by decide⟩,
   ⟨true, 0, (((State.reset.wS).setFld Adr.rasCtl 1 1 1) : State), ((((State.reset.wS).setFld Adr.rasCtl 1 1 1) : State).wakeBy WakeSrc.smbus : State), by decide⟩,
   ⟨false, 0, ((State.reset.wS) : State), by decide⟩,
   ⟨((State.reset.onStw (fun z => { z with running := false })) : State), by decide⟩,
   ⟨(((((State.reset.onStw (fun z => { z with running := true })).wM .service).wS).onStw (fun z => { z with standbyReady := true })) : State), by decide⟩,
   ⟨(((((State.reset.onStw (fun z => { z with running := true })).wM .service).wS).onStw (fun z => { z with standbyReady := false })) : State), by decide⟩,
   ⟨State.reset, by decide⟩,
   ⟨(((State.reset.onNet (fun z => { z with role := 1 })).wS) : State), by decide⟩,
   ⟨Half.hi, by decide⟩,
   ⟨Half.whole, (((0 : Word).setField 0 1 0) : Word), State.reset, by decide⟩,
   ⟨Half.whole, (((0 : Word).setField 0 1 1) : Word), (((State.reset.onAos (fun z => { z with abusy := false })).onAos (fun z => { z with trngOk := true })) : State), by decide⟩,
   ⟨((State.reset.onAos (fun z => { z with abusy := true })) : State), by decide⟩,
   ⟨((State.reset.wM .off) : State), by decide⟩,
   ⟨((State.reset.wM .service) : State), by decide⟩,
   ⟨.whole, 1, (((State.reset.setFld Adr.rasCtl 0 1 0).wM .service) : State), (mergeHalf (.whole : Half) ((((State.reset.setFld Adr.rasCtl 0 1 0).wM .service) : State).reg Adr.rasCtl) (1 : Word) : Word), by decide⟩,
   ⟨.whole, 0, ((State.reset.wM .bringup) : State), (mergeHalf (.whole : Half) (((State.reset.wM .bringup) : State).reg Adr.rasCtl) (0 : Word) : Word), by decide⟩⟩

theorem wit_BringUpStagesAndActivation :
    (∃ (s : State), (s.mstate ≠ MState.bringup ∨ s.aos.stage ≠ 1 ∨ s.aos.bootFail = true)) ∧
    (∃ (s : State), s.mstate = MState.bringup ∧ s.aos.stage = 1 ∧ s.aos.bootFail = false ∧ otpValid (s.aos.otp.getD 0 default) = false) ∧
    (∃ (s : State) (g : Nat), s.mstate = MState.bringup ∧ s.aos.stage = 1 ∧ s.aos.bootFail = false ∧ otpValid (s.aos.otp.getD 0 default) = true ∧ g < 4 ∧ otpValid (s.aos.otp.getD g default) = true ∧ (∀ (h : Nat), g < h → h < 4 → otpValid (s.aos.otp.getD h default) = false)) ∧
    (∃ (s : State), s.mstate = MState.bringup ∧ s.aos.stage < 3 ∧ s.aos.lead = 0) ∧
    (∃ (s : State), (s.mstate ≠ MState.bringup ∨ 3 ≤ s.aos.stage ∨ s.aos.lead ≠ 0)) ∧
    (∃ (s : State), (s.mstate ≠ MState.bringup ∨ s.aos.stage ≠ 2 ∨ s.aos.bootFail = true)) ∧
    (∃ (s : State) (u : State) (v : State), s.mstate = MState.bringup ∧ s.aos.stage = 2 ∧ s.aos.bootFail = false ∧ (∀ (p : Nat), s.aos.pend = some (p, none) → u = { tick := s.tick, variant := s.variant, mstate := s.mstate, dies := s.dies, arr := s.arr, seq := s.seq, mem := s.mem, glv := s.glv, ledger := s.ledger, rung := s.rung, keys := s.keys, stw := s.stw, net := s.net, host := s.host, aos := have __src := s.aos; { asserted := __src.asserted, cold := __src.cold, causeAge := __src.causeAge, causeNew := __src.causeNew, causeCold := __src.causeCold, driven := __src.driven, sampling := __src.sampling, tripped := __src.tripped, railBad := __src.railBad, windows := __src.windows, sinceCold := __src.sinceCold, stage := __src.stage, lead := __src.lead, fromS4 := __src.fromS4, otpLoading := __src.otpLoading, otp := __src.otp, gen := __src.gen, profArea := __src.profArea, forceArea := __src.forceArea, profile := p, pins := __src.pins, pend := none, poolHold := __src.poolHold, rbc := __src.rbc, banks := __src.banks, running := __src.running, act := __src.act, burn := __src.burn, pllGood := __src.pllGood, pllOnce := __src.pllOnce, relocks := __src.relocks, pllBad := __src.pllBad, watched := __src.watched, aos1Ready := __src.aos1Ready, iodFenced := __src.iodFenced, faultCause := __src.faultCause, rerunLimits := __src.rerunLimits, window := __src.window, wideTrained := __src.wideTrained, avsUp := __src.avsUp, selfTested := __src.selfTested, bootStage := __src.bootStage, bootFail := __src.bootFail, trngOk := __src.trngOk, abusy := __src.abusy, aready := __src.aready, xkey := __src.xkey, repMpub := __src.repMpub, repNonce := __src.repNonce, repApub := __src.repApub, repPolicy := __src.repPolicy, report := __src.report }, regs := s.regs, nodeId := s.nodeId, out := s.out, freeCtr := s.freeCtr, pending := s.pending }) ∧ ((∀ (p : Nat), s.aos.pend ≠ some (p, none)) → u = s) ∧ v = u.loadProfile.startStage 2 ∧ v.aos.bootFail = true) ∧
    (∃ (s : State) (u : State) (v : State), s.mstate = MState.bringup ∧ s.aos.stage = 2 ∧ s.aos.bootFail = false ∧ (∀ (p : Nat), s.aos.pend = some (p, none) → u = { tick := s.tick, variant := s.variant, mstate := s.mstate, dies := s.dies, arr := s.arr, seq := s.seq, mem := s.mem, glv := s.glv, ledger := s.ledger, rung := s.rung, keys := s.keys, stw := s.stw, net := s.net, host := s.host, aos := have __src := s.aos; { asserted := __src.asserted, cold := __src.cold, causeAge := __src.causeAge, causeNew := __src.causeNew, causeCold := __src.causeCold, driven := __src.driven, sampling := __src.sampling, tripped := __src.tripped, railBad := __src.railBad, windows := __src.windows, sinceCold := __src.sinceCold, stage := __src.stage, lead := __src.lead, fromS4 := __src.fromS4, otpLoading := __src.otpLoading, otp := __src.otp, gen := __src.gen, profArea := __src.profArea, forceArea := __src.forceArea, profile := p, pins := __src.pins, pend := none, poolHold := __src.poolHold, rbc := __src.rbc, banks := __src.banks, running := __src.running, act := __src.act, burn := __src.burn, pllGood := __src.pllGood, pllOnce := __src.pllOnce, relocks := __src.relocks, pllBad := __src.pllBad, watched := __src.watched, aos1Ready := __src.aos1Ready, iodFenced := __src.iodFenced, faultCause := __src.faultCause, rerunLimits := __src.rerunLimits, window := __src.window, wideTrained := __src.wideTrained, avsUp := __src.avsUp, selfTested := __src.selfTested, bootStage := __src.bootStage, bootFail := __src.bootFail, trngOk := __src.trngOk, abusy := __src.abusy, aready := __src.aready, xkey := __src.xkey, repMpub := __src.repMpub, repNonce := __src.repNonce, repApub := __src.repApub, repPolicy := __src.repPolicy, report := __src.report }, regs := s.regs, nodeId := s.nodeId, out := s.out, freeCtr := s.freeCtr, pending := s.pending }) ∧ ((∀ (p : Nat), s.aos.pend ≠ some (p, none)) → u = s) ∧ v = u.loadProfile.startStage 2 ∧ v.aos.bootFail = false) ∧
    (∃ (s : State), (s.mstate ≠ MState.bringup ∧ s.aos.fromS4 = none ∨ s.aos.stage ≠ 3)) ∧
    (∃ (ok : Bool) (s : State), (s.mstate = MState.bringup ∨ s.aos.fromS4.isSome = true) ∧ s.aos.stage = 3 ∧ ok = true) ∧
    (∃ (ok : Bool) (s : State), (s.mstate = MState.bringup ∨ s.aos.fromS4.isSome = true) ∧ s.aos.stage = 3 ∧ ok = false) ∧
    (∃ (s : State), (s.mstate = MState.off ∨ s.mstate = MState.reset ∨ s.aos.stage < 3)) ∧
    (∃ (p : PllPart) (ok : Bool) (s : State), s.mstate ≠ MState.off ∧ s.mstate ≠ MState.reset ∧ 3 ≤ s.aos.stage ∧ (pllParts s.variant).contains p = true ∧ s.aos.pllBad.contains p = false ∧ s.aos.pllGood.contains p = false ∧ ok = true ∧ s.aos.pllOnce.contains p = true) ∧
    (∃ (p : PllPart) (ok : Bool) (s : State), s.mstate ≠ MState.off ∧ s.mstate ≠ MState.reset ∧ 3 ≤ s.aos.stage ∧ (pllParts s.variant).contains p = true ∧ s.aos.pllBad.contains p = false ∧ s.aos.pllGood.contains p = false ∧ ok = true ∧ s.aos.pllOnce.contains p = false) ∧
    (∃ (p : PllPart) (ok : Bool) (s : State), s.mstate ≠ MState.off ∧ s.mstate ≠ MState.reset ∧ 3 ≤ s.aos.stage ∧ (pllParts s.variant).contains p = true ∧ s.aos.pllBad.contains p = false ∧ s.aos.pllGood.contains p = false ∧ ok = false) ∧
    (∃ (p : PllPart) (ok : Bool) (s : State), s.mstate ≠ MState.off ∧ s.mstate ≠ MState.reset ∧ 3 ≤ s.aos.stage ∧ (pllParts s.variant).contains p = true ∧ s.aos.pllBad.contains p = false ∧ s.aos.pllGood.contains p = false ∧ ok = false) ∧
    (∃ (p : PllPart) (ok : Bool) (s : State), s.mstate ≠ MState.off ∧ s.mstate ≠ MState.reset ∧ 3 ≤ s.aos.stage ∧ (pllParts s.variant).contains p = true ∧ s.aos.pllBad.contains p = false ∧ s.aos.pllGood.contains p = true ∧ ok = true) ∧
    (∃ (p : PllPart) (ok : Bool) (s : State), s.mstate ≠ MState.off ∧ s.mstate ≠ MState.reset ∧ 3 ≤ s.aos.stage ∧ (pllParts s.variant).contains p = true ∧ s.aos.pllBad.contains p = false ∧ s.aos.pllGood.contains p = true ∧ ok = false) ∧
    (∃ (s : State), (s.aos.stage ≠ 4 ∨ s.pllJudged = false)) ∧
    (∃ (s : State), s.mstate = MState.bringup ∧ s.aos.stage = 4 ∧ s.pllJudged = true) ∧
    (∃ (die : Nat) (s : State), ((s.die die).bring ≠ 1 ∨ s.dieFenced die = true)) ∧
    (∃ (die : Nat) (x : SelfTest) (s : State), (s.die die).bring = 1 ∧ s.dieFenced die = false ∧ x.meshOk = false) ∧
    (∃ (die : Nat) (x : SelfTest) (s : State), (s.die die).bring = 1 ∧ s.dieFenced die = false ∧ x.meshOk = true) ∧
    (∃ (die : Nat) (s : State), (s.stacksReady die = false ∨ s.aos.wideTrained = false ∨ s.dieFenced die = true)) ∧
    (∃ (die : Nat) (s : State), ((s.die die).bring = 2 ∨ (s.die die).bring = 3) ∧ s.stacksReady die = true ∧ s.aos.wideTrained = true ∧ s.dieFenced die = false ∧ s.aos.selfTested.contains die = true) ∧
    (∃ (s : State), (∀ (p T : Nat), s.aos.pend = some (p, some T) → s.reached T 0 = false)) ∧
    (∃ (s : State) (p : Nat) (T : Nat), s.aos.pend = some (p, some T) ∧ s.reached T 0 = true) ∧
    (∃ (s : State), s.aos.act = none) ∧
    (∃ (part : Nat) (s : State) (g : Nat) (cur : Nat) (left : List Nat), s.aos.act = some (g, left, cur) ∧ part ≠ cur) ∧
    (∃ (part : Nat) (s : State) (g : Nat) (cur : Nat) (left : List Nat), s.aos.act = some (g, left, cur) ∧ part = cur ∧ s.stw.swapLeft = [] ∧ g ≠ 4 ∧ left = []) ∧
    (∃ (part : Nat) (s : State) (g : Nat) (cur : Nat) (left : List Nat) (p : Nat) (rest : List Nat), s.aos.act = some (g, left, cur) ∧ part = cur ∧ s.stw.swapLeft = [] ∧ g ≠ 4 ∧ left = p :: rest) ∧
    (∃ (part : Nat) (s : State) (g : Nat) (cur : Nat) (left : List Nat) (v : State), s.aos.act = some (g, left, cur) ∧ part = cur ∧ s.stw.swapLeft = [] ∧ g = 4 ∧ v = { tick := s.tick, variant := s.variant, mstate := s.mstate, dies := s.dies, arr := s.arr, seq := s.seq, mem := s.mem, glv := s.glv, ledger := s.ledger, rung := s.rung, keys := s.keys, stw := have __src := s.stw; { serving := __src.serving, standbyReady := true, beats := __src.beats, sentBeat := __src.sentBeat, running := __src.running, seqt := __src.seqt, seqFreed := __src.seqFreed, seqNext := __src.seqNext, serve := __src.serve, pages := __src.pages, nodes := __src.nodes, roots := __src.roots, pool := __src.pool, poolPairs := __src.poolPairs, models := __src.models, mdlPairs := __src.mdlPairs, adapters := __src.adapters, plans := __src.plans, swapCmd := __src.swapCmd, swapLeft := __src.swapLeft }, net := s.net, host := s.host, aos := s.aos, regs := s.regs, nodeId := s.nodeId, out := s.out, freeCtr := s.freeCtr, pending := s.pending } ∧ left = []) ∧
    (∃ (part : Nat) (s : State) (g : Nat) (cur : Nat) (left : List Nat) (v : State) (p : Nat) (rest : List Nat), s.aos.act = some (g, left, cur) ∧ part = cur ∧ s.stw.swapLeft = [] ∧ g = 4 ∧ v = { tick := s.tick, variant := s.variant, mstate := s.mstate, dies := s.dies, arr := s.arr, seq := s.seq, mem := s.mem, glv := s.glv, ledger := s.ledger, rung := s.rung, keys := s.keys, stw := have __src := s.stw; { serving := __src.serving, standbyReady := true, beats := __src.beats, sentBeat := __src.sentBeat, running := __src.running, seqt := __src.seqt, seqFreed := __src.seqFreed, seqNext := __src.seqNext, serve := __src.serve, pages := __src.pages, nodes := __src.nodes, roots := __src.roots, pool := __src.pool, poolPairs := __src.poolPairs, models := __src.models, mdlPairs := __src.mdlPairs, adapters := __src.adapters, plans := __src.plans, swapCmd := __src.swapCmd, swapLeft := __src.swapLeft }, net := s.net, host := s.host, aos := s.aos, regs := s.regs, nodeId := s.nodeId, out := s.out, freeCtr := s.freeCtr, pending := s.pending } ∧ left = p :: rest) ∧
    (∃ (s : State), s.aos.burn = none) ∧
    (∃ (ok : Bool) (s : State) (g : Nat) (x : OtpArea), s.aos.burn = some (g, x) ∧ ok = true) ∧
    (∃ (ok : Bool) (s : State) (g : Nat) (x : OtpArea), s.aos.burn = some (g, x) ∧ ok = false) :=
  ⟨⟨((State.reset.wM .service) : State), by decide⟩,
   ⟨(((((State.reset.wM .bringup).onAos (fun z => { z with stage := 1 })).onAos (fun z => { z with bootFail := false })).onAos (fun z => { z with otp := [] })) : State), by decide⟩,
   ⟨(((((State.reset.wM .bringup).onAos (fun z => { z with stage := 1 })).onAos (fun z => { z with bootFail := false })).onAos (fun z => { z with otp := [⟨true, true, 0, [], [0x960,0,0,0,0x960,0,0,0,0x960,0,0,0,0x960,0,0,0], []⟩] })) : State), 0, by decide, by decide, by decide, by decide, by decide, by decide, by intro h h1 h2; revert h1; revert h2; revert h; decide⟩,
   ⟨(((State.reset.wM .bringup).onAos (fun z => { z with lead := 0 })) : State), by decide⟩,
   ⟨((State.reset.wM .service) : State), by decide⟩,
   ⟨((State.reset.wM .service) : State), by decide⟩,
   ⟨(((((((State.reset.wM .bringup).onAos (fun z => { z with stage := 2 })).onAos (fun z => { z with bootFail := false })).onAos (fun z => { z with bootFail := true })).onAos (fun z => { z with pend := none, banks := [] })).onAos (fun z => { z with bootFail := false })) : State), ((((((((State.reset.wM .bringup).onAos (fun z => { z with stage := 2 })).onAos (fun z => { z with bootFail := false })).onAos (fun z => { z with bootFail := true })).onAos (fun z => { z with pend := none, banks := [] })).onAos (fun z => { z with bootFail := false })) : State) : State), (((((((((State.reset.wM .bringup).onAos (fun z => { z with stage := 2 })).onAos (fun z => { z with bootFail := false })).onAos (fun z => { z with bootFail := true })).onAos (fun z => { z with pend := none, banks := [] })).onAos (fun z => { z with bootFail := false })) : State) : State).loadProfile.startStage 2 : State), by decide, by decide, by decide, by first | decide | (intro a h; cases h; done) | (intro a h; subst h; decide) | (intro a b h; cases h; done) | (intros; rfl) | (intros; decide), by first | decide | (intro a h; cases h; done) | (intro a h; subst h; decide) | (intro a b h; cases h; done) | (intros; rfl) | (intros; decide), by decide⟩,
   ⟨((((((State.reset.wM .bringup).onAos (fun z => { z with stage := 2 })).onAos (fun z => { z with bootFail := false })).onAos (fun z => { z with pend := none })).onAos (fun z => { z with banks := (SMap.put [] 2 { (default : FwBanks) with current := some ⟨0, [], true⟩ }) })) : State), (((((((State.reset.wM .bringup).onAos (fun z => { z with stage := 2 })).onAos (fun z => { z with bootFail := false })).onAos (fun z => { z with pend := none })).onAos (fun z => { z with banks := (SMap.put [] 2 { (default : FwBanks) with current := some ⟨0, [], true⟩ }) })) : State) : State), ((((((((State.reset.wM .bringup).onAos (fun z => { z with stage := 2 })).onAos (fun z => { z with bootFail := false })).onAos (fun z => { z with pend := none })).onAos (fun z => { z with banks := (SMap.put [] 2 { (default : FwBanks) with current := some ⟨0, [], true⟩ }) })) : State) : State).loadProfile.startStage 2 : State), by decide, by decide, by decide, by first | decide | (intro a h; cases h; done) | (intro a h; subst h; decide) | (intro a b h; cases h; done) | (intros; rfl) | (intros; decide), by first | decide | (intro a h; cases h; done) | (intro a h; subst h; decide) | (intro a b h; cases h; done) | (intros; rfl) | (intros; decide), by decide⟩,
   ⟨(((State.reset.wM .service).onAos (fun z => { z with fromS4 := none })) : State), by decide⟩,
   ⟨true, (((State.reset.wM .bringup).onAos (fun z => { z with stage := 3 })) : State), by decide⟩,
   ⟨false, (((State.reset.wM .bringup).onAos (fun z => { z with stage := 3 })) : State), by decide⟩,
   ⟨((State.reset.wM .off) : State), by decide⟩,
   ⟨default, true, ((((State.reset.wM .service).onAos (fun z => { z with stage := 3 })).onAos (fun z => { z with pllOnce := [(default : PllPart)] })) : State), by decide⟩,
   ⟨default, true, (((State.reset.wM .service).onAos (fun z => { z with stage := 3 })) : State), by decide⟩,
   ⟨default, false, (((State.reset.wM .service).onAos (fun z => { z with stage := 3 })) : State), by decide⟩,
   ⟨default, false, (((State.reset.wM .service).onAos (fun z => { z with stage := 3 })) : State), by decide⟩,
   ⟨default, true, ((((State.reset.wM .service).onAos (fun z => { z with stage := 3 })).onAos (fun z => { z with pllGood := [(default : PllPart)] })) : State), by decide⟩,
   ⟨default, false, ((((State.reset.wM .service).onAos (fun z => { z with stage := 3 })).onAos (fun z => { z with pllGood := [(default : PllPart)] })) : State), by decide⟩,
   ⟨State.reset, by decide⟩,
   ⟨((((State.reset.wM .bringup).onAos (fun z => { z with stage := 4 })).onAos (fun z => { z with pllGood := pllParts State.reset.variant })) : State), by decide⟩,
   ⟨0, State.reset, by decide⟩,
   ⟨0, ({ (default : SelfTest) with meshOk := false } : SelfTest), ((State.reset.onDie (0 : Nat) (fun z => { z with bring := 1 })) : State), by decide⟩,
   ⟨0, ({ (default : SelfTest) with meshOk := true } : SelfTest), ((State.reset.onDie (0 : Nat) (fun z => { z with bring := 1 })) : State), by decide⟩,
   ⟨0, ((((((State.reset.onStack 0 (fun z => { z with trained := true, retired := false })).onStack 1 (fun z => { z with trained := true })).onStack 2 (fun z => { z with trained := true })).onStack 3 (fun z => { z with trained := true })).onStack 4 (fun z => { z with trained := true })) : State), by decide⟩,
   ⟨0, (((((((((State.reset.onDie (0 : Nat) (fun z => { z with bring := 2 })).onStack 0 (fun z => { z with trained := true, retired := false })).onStack 1 (fun z => { z with trained := true })).onStack 2 (fun z => { z with trained := true })).onStack 3 (fun z => { z with trained := true })).onStack 4 (fun z => { z with trained := true })).onAos (fun z => { z with wideTrained := true })).onAos (fun z => { z with selfTested := [(0 : Nat)] })) : State), by decide⟩,
   ⟨State.reset, by first | decide | (intro a h; cases h; done) | (intro a h; subst h; decide) | (intro a b h; cases h; done) | (intros; rfl) | (intros; decide)⟩,
   ⟨(((State.reset.onAos (fun z => { z with pend := some ((0 : Nat), some (0 : Nat)) })).onTick (fun z => { z with tick := 1000000 })) : State), 0, 0, by decide⟩,
   ⟨((State.reset.onAos (fun z => { z with act := none })) : State), by decide⟩,
   ⟨(((0 : Nat) + 1) : Nat), ((State.reset.onAos (fun z => { z with act := some ((0 : Nat), ([] : List Nat), (0 : Nat)) })) : State), 0, 0, ([] : List Nat), by decide⟩,
   ⟨((0 : Nat) : Nat), (((State.reset.onAos (fun z => { z with act := some (((4 + 1) : Nat), ([] : List Nat), (0 : Nat)) })).onStw (fun z => { z with swapLeft := [] })) : State), ((4 + 1) : Nat), 0, ([] : List Nat), by decide⟩,
   ⟨((0 : Nat) : Nat), (((State.reset.onAos (fun z => { z with act := some (((4 + 1) : Nat), ((0 : Nat) :: ([] : List Nat) : List Nat), (0 : Nat)) })).onStw (fun z => { z with swapLeft := [] })) : State), ((4 + 1) : Nat), 0, ((0 : Nat) :: ([] : List Nat) : List Nat), 0, ([] : List Nat), by decide⟩,
   ⟨((0 : Nat) : Nat), (((State.reset.onAos (fun z => { z with act := some ((4 : Nat), ([] : List Nat), (0 : Nat)) })).onStw (fun z => { z with swapLeft := [] })) : State), 4, 0, ([] : List Nat), ({ tick := (((State.reset.onAos (fun z => { z with act := some ((4 : Nat), ([] : List Nat), (0 : Nat)) })).onStw (fun z => { z with swapLeft := [] })) : State).tick, variant := (((State.reset.onAos (fun z => { z with act := some ((4 : Nat), ([] : List Nat), (0 : Nat)) })).onStw (fun z => { z with swapLeft := [] })) : State).variant, mstate := (((State.reset.onAos (fun z => { z with act := some ((4 : Nat), ([] : List Nat), (0 : Nat)) })).onStw (fun z => { z with swapLeft := [] })) : State).mstate, dies := (((State.reset.onAos (fun z => { z with act := some ((4 : Nat), ([] : List Nat), (0 : Nat)) })).onStw (fun z => { z with swapLeft := [] })) : State).dies, arr := (((State.reset.onAos (fun z => { z with act := some ((4 : Nat), ([] : List Nat), (0 : Nat)) })).onStw (fun z => { z with swapLeft := [] })) : State).arr, seq := (((State.reset.onAos (fun z => { z with act := some ((4 : Nat), ([] : List Nat), (0 : Nat)) })).onStw (fun z => { z with swapLeft := [] })) : State).seq, mem := (((State.reset.onAos (fun z => { z with act := some ((4 : Nat), ([] : List Nat), (0 : Nat)) })).onStw (fun z => { z with swapLeft := [] })) : State).mem, glv := (((State.reset.onAos (fun z => { z with act := some ((4 : Nat), ([] : List Nat), (0 : Nat)) })).onStw (fun z => { z with swapLeft := [] })) : State).glv, ledger := (((State.reset.onAos (fun z => { z with act := some ((4 : Nat), ([] : List Nat), (0 : Nat)) })).onStw (fun z => { z with swapLeft := [] })) : State).ledger, rung := (((State.reset.onAos (fun z => { z with act := some ((4 : Nat), ([] : List Nat), (0 : Nat)) })).onStw (fun z => { z with swapLeft := [] })) : State).rung, keys := (((State.reset.onAos (fun z => { z with act := some ((4 : Nat), ([] : List Nat), (0 : Nat)) })).onStw (fun z => { z with swapLeft := [] })) : State).keys, stw := have __src := (((State.reset.onAos (fun z => { z with act := some ((4 : Nat), ([] : List Nat), (0 : Nat)) })).onStw (fun z => { z with swapLeft := [] })) : State).stw; { serving := __src.serving, standbyReady := true, beats := __src.beats, sentBeat := __src.sentBeat, running := __src.running, seqt := __src.seqt, seqFreed := __src.seqFreed, seqNext := __src.seqNext, serve := __src.serve, pages := __src.pages, nodes := __src.nodes, roots := __src.roots, pool := __src.pool, poolPairs := __src.poolPairs, models := __src.models, mdlPairs := __src.mdlPairs, adapters := __src.adapters, plans := __src.plans, swapCmd := __src.swapCmd, swapLeft := __src.swapLeft }, net := (((State.reset.onAos (fun z => { z with act := some ((4 : Nat), ([] : List Nat), (0 : Nat)) })).onStw (fun z => { z with swapLeft := [] })) : State).net, host := (((State.reset.onAos (fun z => { z with act := some ((4 : Nat), ([] : List Nat), (0 : Nat)) })).onStw (fun z => { z with swapLeft := [] })) : State).host, aos := (((State.reset.onAos (fun z => { z with act := some ((4 : Nat), ([] : List Nat), (0 : Nat)) })).onStw (fun z => { z with swapLeft := [] })) : State).aos, regs := (((State.reset.onAos (fun z => { z with act := some ((4 : Nat), ([] : List Nat), (0 : Nat)) })).onStw (fun z => { z with swapLeft := [] })) : State).regs, nodeId := (((State.reset.onAos (fun z => { z with act := some ((4 : Nat), ([] : List Nat), (0 : Nat)) })).onStw (fun z => { z with swapLeft := [] })) : State).nodeId, out := (((State.reset.onAos (fun z => { z with act := some ((4 : Nat), ([] : List Nat), (0 : Nat)) })).onStw (fun z => { z with swapLeft := [] })) : State).out, freeCtr := (((State.reset.onAos (fun z => { z with act := some ((4 : Nat), ([] : List Nat), (0 : Nat)) })).onStw (fun z => { z with swapLeft := [] })) : State).freeCtr, pending := (((State.reset.onAos (fun z => { z with act := some ((4 : Nat), ([] : List Nat), (0 : Nat)) })).onStw (fun z => { z with swapLeft := [] })) : State).pending } : State), by decide⟩,
   ⟨((0 : Nat) : Nat), (((State.reset.onAos (fun z => { z with act := some ((4 : Nat), ((0 : Nat) :: ([] : List Nat) : List Nat), (0 : Nat)) })).onStw (fun z => { z with swapLeft := [] })) : State), 4, 0, ((0 : Nat) :: ([] : List Nat) : List Nat), ({ tick := (((State.reset.onAos (fun z => { z with act := some ((4 : Nat), ((0 : Nat) :: ([] : List Nat) : List Nat), (0 : Nat)) })).onStw (fun z => { z with swapLeft := [] })) : State).tick, variant := (((State.reset.onAos (fun z => { z with act := some ((4 : Nat), ((0 : Nat) :: ([] : List Nat) : List Nat), (0 : Nat)) })).onStw (fun z => { z with swapLeft := [] })) : State).variant, mstate := (((State.reset.onAos (fun z => { z with act := some ((4 : Nat), ((0 : Nat) :: ([] : List Nat) : List Nat), (0 : Nat)) })).onStw (fun z => { z with swapLeft := [] })) : State).mstate, dies := (((State.reset.onAos (fun z => { z with act := some ((4 : Nat), ((0 : Nat) :: ([] : List Nat) : List Nat), (0 : Nat)) })).onStw (fun z => { z with swapLeft := [] })) : State).dies, arr := (((State.reset.onAos (fun z => { z with act := some ((4 : Nat), ((0 : Nat) :: ([] : List Nat) : List Nat), (0 : Nat)) })).onStw (fun z => { z with swapLeft := [] })) : State).arr, seq := (((State.reset.onAos (fun z => { z with act := some ((4 : Nat), ((0 : Nat) :: ([] : List Nat) : List Nat), (0 : Nat)) })).onStw (fun z => { z with swapLeft := [] })) : State).seq, mem := (((State.reset.onAos (fun z => { z with act := some ((4 : Nat), ((0 : Nat) :: ([] : List Nat) : List Nat), (0 : Nat)) })).onStw (fun z => { z with swapLeft := [] })) : State).mem, glv := (((State.reset.onAos (fun z => { z with act := some ((4 : Nat), ((0 : Nat) :: ([] : List Nat) : List Nat), (0 : Nat)) })).onStw (fun z => { z with swapLeft := [] })) : State).glv, ledger := (((State.reset.onAos (fun z => { z with act := some ((4 : Nat), ((0 : Nat) :: ([] : List Nat) : List Nat), (0 : Nat)) })).onStw (fun z => { z with swapLeft := [] })) : State).ledger, rung := (((State.reset.onAos (fun z => { z with act := some ((4 : Nat), ((0 : Nat) :: ([] : List Nat) : List Nat), (0 : Nat)) })).onStw (fun z => { z with swapLeft := [] })) : State).rung, keys := (((State.reset.onAos (fun z => { z with act := some ((4 : Nat), ((0 : Nat) :: ([] : List Nat) : List Nat), (0 : Nat)) })).onStw (fun z => { z with swapLeft := [] })) : State).keys, stw := have __src := (((State.reset.onAos (fun z => { z with act := some ((4 : Nat), ((0 : Nat) :: ([] : List Nat) : List Nat), (0 : Nat)) })).onStw (fun z => { z with swapLeft := [] })) : State).stw; { serving := __src.serving, standbyReady := true, beats := __src.beats, sentBeat := __src.sentBeat, running := __src.running, seqt := __src.seqt, seqFreed := __src.seqFreed, seqNext := __src.seqNext, serve := __src.serve, pages := __src.pages, nodes := __src.nodes, roots := __src.roots, pool := __src.pool, poolPairs := __src.poolPairs, models := __src.models, mdlPairs := __src.mdlPairs, adapters := __src.adapters, plans := __src.plans, swapCmd := __src.swapCmd, swapLeft := __src.swapLeft }, net := (((State.reset.onAos (fun z => { z with act := some ((4 : Nat), ((0 : Nat) :: ([] : List Nat) : List Nat), (0 : Nat)) })).onStw (fun z => { z with swapLeft := [] })) : State).net, host := (((State.reset.onAos (fun z => { z with act := some ((4 : Nat), ((0 : Nat) :: ([] : List Nat) : List Nat), (0 : Nat)) })).onStw (fun z => { z with swapLeft := [] })) : State).host, aos := (((State.reset.onAos (fun z => { z with act := some ((4 : Nat), ((0 : Nat) :: ([] : List Nat) : List Nat), (0 : Nat)) })).onStw (fun z => { z with swapLeft := [] })) : State).aos, regs := (((State.reset.onAos (fun z => { z with act := some ((4 : Nat), ((0 : Nat) :: ([] : List Nat) : List Nat), (0 : Nat)) })).onStw (fun z => { z with swapLeft := [] })) : State).regs, nodeId := (((State.reset.onAos (fun z => { z with act := some ((4 : Nat), ((0 : Nat) :: ([] : List Nat) : List Nat), (0 : Nat)) })).onStw (fun z => { z with swapLeft := [] })) : State).nodeId, out := (((State.reset.onAos (fun z => { z with act := some ((4 : Nat), ((0 : Nat) :: ([] : List Nat) : List Nat), (0 : Nat)) })).onStw (fun z => { z with swapLeft := [] })) : State).out, freeCtr := (((State.reset.onAos (fun z => { z with act := some ((4 : Nat), ((0 : Nat) :: ([] : List Nat) : List Nat), (0 : Nat)) })).onStw (fun z => { z with swapLeft := [] })) : State).freeCtr, pending := (((State.reset.onAos (fun z => { z with act := some ((4 : Nat), ((0 : Nat) :: ([] : List Nat) : List Nat), (0 : Nat)) })).onStw (fun z => { z with swapLeft := [] })) : State).pending } : State), 0, ([] : List Nat), by decide⟩,
   ⟨((State.reset.onAos (fun z => { z with burn := none })) : State), by decide⟩,
   ⟨true, ((State.reset.onAos (fun z => { z with burn := some ((0 : Nat), (default : OtpArea)) })) : State), 0, default, by decide⟩,
   ⟨false, ((State.reset.onAos (fun z => { z with burn := some ((0 : Nat), (default : OtpArea)) })) : State), 0, default, by decide⟩⟩

theorem wit_CellControlSlot :
    (∃ (p : Site) (x : BitVec 6) (s : State), s.mask p.key (x.toNat / 4 % 8) ≠ 0) ∧
    (∃ (p : Site) (x : BitVec 6) (s : State), s.mask p.key (x.toNat / 4 % 8) = 0) ∧
    (∃ (p : Site) (x : BitVec 6) (s : State), (∀ (j : Nat), j < 64 → (s.mask p.key (x.toNat / 4 % 8)).getLsbD j = true)) ∧
    (∃ (p : Site) (x : BitVec 6) (s : State) (j : Nat), j < 64 ∧ (s.mask p.key (x.toNat / 4 % 8)).getLsbD j = false) ∧
    (∃ (p : Site) (s : State), p.row < 24 ∧ p.col < 24 ∧ s.siteGlove p = none) ∧
    (∃ (p : Site) (s : State) (g : Nat), p.row < 24 ∧ p.col < 24 ∧ s.siteGlove p = some g ∧ s.patRuns g = true) :=
  ⟨⟨(⟨0, 0, 0⟩ : Site), 0, State.reset, by decide⟩,
   ⟨(⟨0, 0, 0⟩ : Site), 4, ((State.reset.onCell 0 (fun z => { z with masks := [0] })) : State), by decide⟩,
   ⟨(⟨0, 0, 0⟩ : Site), 0, State.reset, by first | decide | (intro a h; cases h; done) | (intro a h; subst h; decide) | (intro a b h; cases h; done) | (intros; rfl) | (intros; decide)⟩,
   ⟨(⟨0, 0, 0⟩ : Site), 4, ((State.reset.onCell 0 (fun z => { z with masks := [0] })) : State), 0, by decide⟩,
   ⟨(⟨0, 0, 0⟩ : Site), State.reset, by decide⟩,
   ⟨(⟨0, 0, 0⟩ : Site), (((State.reset.onPalm 0 (fun z => { z with glove := some (0 : Nat) })).onPat (0 : Nat) (fun z => { z with valid := true })) : State), 0, by decide⟩⟩

theorem wit_CellMatrixSlot :
    (∃ (p : Site) (bank : Nat) (s : State) (r : Nat), (s.cell p.key).mxBusy (s.siteCycle p) = false ∧ (s.cell p.key).accPending bank = false ∧ r < 64) ∧
    (∃ (p : Site) (bank : Nat) (s : State) (r : Nat), (s.cell p.key).mxBusy (s.siteCycle p) = false ∧ (s.cell p.key).accPending bank = false ∧ r < 96) ∧
    (∃ (p : Site) (bank : Nat) (fa : Nat) (s : State) (j : Nat), (s.cell p.key).mxBusy (s.siteCycle p) = false ∧ (s.cell p.key).accPending bank = false ∧ j < (panelLines fa false).fst + (panelLines fa false).snd) ∧
    (∃ (p : Site) (bank : Nat) (fb : Nat) (s : State) (j : Nat), (s.cell p.key).mxBusy (s.siteCycle p) = false ∧ (s.cell p.key).accPending bank = false ∧ j < (panelLines fb true).fst + (panelLines fb true).snd) ∧
    (∃ (p : Site) (bank : Nat) (s : State) (r : Nat), (s.cell p.key).accBusy bank (s.siteCycle p) = false ∧ r < 64) ∧
    (∃ (p : Site) (bank : Nat) (zr : Bool) (s : State), (s.cell p.key).accBusy bank (s.siteCycle p) = false ∧ zr = false) ∧
    (∃ (p : Site) (bank : Nat) (zr : Bool) (s : State), (s.cell p.key).accBusy bank (s.siteCycle p) = false ∧ zr = true) ∧
    (∃ (p : Site) (bank : Nat) (s : State) (g : Nat), (s.cell p.key).accBusy bank (s.siteCycle p) = true ∧ p.row < 24 ∧ p.col < 24 ∧ s.siteGlove p = some g ∧ s.patRuns g = true) ∧
    (∃ (p : Site) (side : Nat) (areg : Nat) (d : Nat) (s : State) (i : Nat) (j : Nat), (s.cell p.key).mxBusy (s.siteCycle p) = false ∧ (s.cell p.key).streamsOn (s.siteCycle p) (s.aline p.key areg d 0).fst ≤ 1 ∧ (i < if side = 0 then 4 else 6) ∧ j < 16) :=
  ⟨⟨(⟨0, 0, 0⟩ : Site), 0, State.reset, 0, by decide⟩,
   ⟨(⟨0, 0, 0⟩ : Site), 0, State.reset, 0, by decide⟩,
   ⟨(⟨0, 0, 0⟩ : Site), 0, 0, State.reset, 0, by decide⟩,
   ⟨(⟨0, 0, 0⟩ : Site), 0, 0, State.reset, 0, by decide⟩,
   ⟨(⟨0, 0, 0⟩ : Site), 0, State.reset, 0, by decide⟩,
   ⟨(⟨0, 0, 0⟩ : Site), 0, false, State.reset, by decide⟩,
   ⟨(⟨0, 0, 0⟩ : Site), 0, true, State.reset, by decide⟩,
   ⟨(⟨0, 0, 0⟩ : Site), 0, (((((State.reset.onPalm 0 (fun z => { z with glove := some (0 : Nat) })).onPat (0 : Nat) (fun z => { z with valid := true })).onCell 0 (fun z => { z with mma := [{ (default : MmaSt) with t0 := 0, t := 1 }] })).onPat 0 (fun z => { z with cycle := 1 })) : State), 0, by decide⟩,
   ⟨(⟨0, 0, 0⟩ : Site), 0, 0, 0, State.reset, 0, 0, by decide⟩⟩

theorem wit_CellMoveSlotTakesAndSends :
    (∃ (p : Site) (port : Nat) (nl : Nat) (s : State) (w : Line × Line) (q : List (Line × Line)), nl = 1 ∧ port ≠ 5 ∧ s.inQueue p.key port = w :: q ∧ (s.cell p.key).taken.contains port = false) ∧
    (∃ (p : Site) (port : Nat) (single : Bool) (s : State) (w : Line × Line) (r : List (Line × Line)) (j : Nat), single = true ∧ s.inQueue p.key port = w :: r ∧ (s.cell p.key).taken.contains port = false ∧ j < 64) ∧
    (∃ (p : Site) (port : Nat) (single : Bool) (s : State), port ≠ 5 ∧ single = false ∧ ((s.cell p.key).sendQ.getD port []).length ≤ 6) ∧
    (∃ (port : Nat) (single : Bool), port = 5 ∧ single = true) ∧
    (∃ (p : Site) (port : Nat) (single : Bool) (s : State), port ≠ 5 ∧ single = false ∧ 6 < ((s.cell p.key).sendQ.getD port []).length) ∧
    (∃ (p : Site) (areg : Nat) (d : Nat) (s : State) (i : Nat) (j : Nat), (s.cell p.key).streamsOn (s.siteCycle p) (s.aline p.key areg d 0).fst ≤ 1 ∧ i < 4 ∧ j < 16) :=
  ⟨⟨(⟨0, 0, 0⟩ : Site), 0, 1, ((State.reset.onCell 0 (fun z => { z with inQ := [[default]] })) : State), default, ([] : List (Line × Line)), by decide⟩,
   ⟨(⟨0, 0, 0⟩ : Site), 0, true, ((State.reset.onCell 0 (fun z => { z with inQ := [[default]] })) : State), default, ([] : List (Line × Line)), 0, by decide⟩,
   ⟨(⟨0, 0, 0⟩ : Site), ((5 + 1) : Nat), false, State.reset, by decide⟩,
   ⟨5, true, by decide⟩,
   ⟨(⟨0, 0, 0⟩ : Site), 0, false, ((State.reset.onCell 0 (fun z => { z with sendQ := [List.replicate 7 default] })) : State), by decide⟩,
   ⟨(⟨0, 0, 0⟩ : Site), 0, 0, State.reset, 0, 0, by decide⟩⟩

theorem wit_CellVectorMasksReductionsConversions :
    (∃ (md : Nat), md % 8 = 0) ∧
    (∃ (md : Nat) (j : Nat), md % 8 ≠ 0 ∧ j < 64) ∧
    (∃ (p : Site) (s : State) (j : Nat), (s.cell p.key).xqWaiting (s.siteCycle p) < 2 ∧ j < 64) ∧
    (∃ (p : Site) (s : State) (k : Nat), (s.cell p.key).xqWaiting (s.siteCycle p) < 2 ∧ k ≠ p.key) ∧
    (∃ (fn : Nat), 2 ≤ fn) ∧
    (∃ (fn : Nat) (sr : Bool) (j : Nat), fn ≤ 1 ∧ sr = false ∧ j < 64) :=
  ⟨⟨0, by decide⟩,
   ⟨1, 0, by decide⟩,
   ⟨(⟨0, 0, 0⟩ : Site), State.reset, 0, by decide⟩,
   ⟨(⟨0, 0, 0⟩ : Site), State.reset, (((⟨0, 0, 0⟩ : Site).key + 1) : Nat), by decide⟩,
   ⟨2, by decide⟩,
   ⟨0, false, 0, by decide⟩⟩

theorem wit_ClockStepsHeatAndPatternCycles :
    (∃ (die : Nat) (step : Nat) (s : State), (s.die die).raising ≠ some step ∧ (s.die die).stepping ≠ some step) ∧
    (∃ (die : Nat) (step : Nat) (mv : Nat) (s : State), (s.die die).raising = some step ∧ mv = State.vcoreOf step) ∧
    (∃ (die : Nat) (step : Nat) (mv : Nat) (s : State), (s.die die).raising = some step ∧ mv ≠ State.vcoreOf step) ∧
    (∃ (die : Nat) (step : Nat) (s : State), (s.die die).raising = none ∧ (s.die die).stepping = some step ∧ s.tick.rcs < (s.die die).stepEnd) ∧
    (∃ (die : Nat) (step : Nat) (s : State), (s.die die).raising = none ∧ (s.die die).stepping = some step ∧ (s.die die).stepEnd ≤ s.tick.rcs ∧ (s.die die).step < step) ∧
    (∃ (temps : List Nat) (x : Nat), temps = [x]) ∧
    (∃ (d : Detection) (s : State), d.kind ≠ 3 ∧ s.gsqOf d.glove = none) ∧
    (∃ (g : Nat) (s : State), (s.pat g).valid = false) ∧
    (∃ (g : Nat) (s : State), (((s.patDies g).any fun k => s.dieStopped k) = true)) ∧
    (∃ (g : Nat) (s : State), s.patRuns g = true ∧ (s.pat g).stopAt = none ∧ (((s.patDies g).any fun k => s.dieStopped k) = false) ∧ s.stepsEqual (s.patDies g) = true) ∧
    (∃ (g : Nat) (s : State), s.stepsEqual (s.patDies g) = false) :=
  ⟨⟨0, 0, State.reset, by decide⟩,
   ⟨0, 0, (State.vcoreOf (0 : Nat) : Nat), ((State.reset.onDie (0 : Nat) (fun z => { z with raising := some (0 : Nat) })) : State), by decide⟩,
   ⟨0, 0, ((State.vcoreOf (0 : Nat) + 1) : Nat), ((State.reset.onDie (0 : Nat) (fun z => { z with raising := some (0 : Nat) })) : State), by decide⟩,
   ⟨0, 0, ((((State.reset.onDie (0 : Nat) (fun z => { z with raising := none })).onDie (0 : Nat) (fun z => { z with stepping := some (0 : Nat) })).onDie 0 (fun z => { z with stepEnd := 5 })) : State), by decide⟩,
   ⟨0, 1, ((((State.reset.onDie (0 : Nat) (fun z => { z with raising := none })).onDie (0 : Nat) (fun z => { z with stepping := some (1 : Nat) })).onDie 0 (fun z => { z with step := 0 })) : State), by decide⟩,
   ⟨([(0 : Nat)] : List Nat), 0, by decide⟩,
   ⟨default, State.reset, by decide⟩,
   ⟨0, ((State.reset.onPat (0 : Nat) (fun z => { z with valid := false })) : State), by decide⟩,
   ⟨0, (((State.reset.onSeq (fun z => { z with imgs := z.imgs.put 0 { (default : ImgInfo) with dies := 3 } })).onDie 0 (fun z => { z with held := true })) : State), by decide⟩,
   ⟨0, (((State.reset.onPat (0 : Nat) (fun z => { z with valid := true })).onPat (0 : Nat) (fun z => { z with stopAt := none })) : State), by decide⟩,
   ⟨0, (((State.reset.onSeq (fun z => { z with imgs := z.imgs.put 0 { (default : ImgInfo) with dies := 3 } })).onDie 1 (fun z => { z with step := 1 })) : State), by decide⟩⟩

theorem wit_CommandAndCompletionRings :
    (∃ (func : Nat) (ring : Nat) (s : State), (s.barOpen func = false ∨ s.ringFor func ring = none)) ∧
    (∃ (func : Nat) (ring : Nat) (slot : Nat) (word : Nat) (s : State) (n : Nat), s.barOpen func = true ∧ s.ringFor func ring = some n ∧ (2 ^ s.fld (Adr.hifCrCfg n) 0 4 ≤ slot ∨ 8 ≤ word)) ∧
    (∃ (func : Nat) (ring : Nat) (slot : Nat) (word : Nat) (s : State) (n : Nat), s.barOpen func = true ∧ s.ringFor func ring = some n ∧ slot < 2 ^ s.fld (Adr.hifCrCfg n) 0 4 ∧ word < 7) ∧
    (∃ (func : Nat) (ring : Nat) (slot : Nat) (word : Nat) (val : Word) (s : State) (n : Nat), s.barOpen func = true ∧ s.ringFor func ring = some n ∧ slot < 2 ^ s.fld (Adr.hifCrCfg n) 0 4 ∧ word = 7 ∧ (s.ring n).rcv + 1 ≤ BitVec.toNat val ∧ (BitVec.toNat val - 1) % 2 ^ s.fld (Adr.hifCrCfg n) 0 4 = slot) ∧
    (∃ (func : Nat) (ring : Nat) (slot : Nat) (word : Nat) (val : Word) (s : State) (n : Nat), s.barOpen func = true ∧ s.ringFor func ring = some n ∧ slot < 2 ^ s.fld (Adr.hifCrCfg n) 0 4 ∧ word = 7 ∧ ¬((s.ring n).rcv + 1 ≤ BitVec.toNat val ∧ (BitVec.toNat val - 1) % 2 ^ s.fld (Adr.hifCrCfg n) 0 4 = slot)) ∧
    (∃ (ring : Nat) (s : State), (s.barOpen 0 = false ∨ 256 ≤ ring)) ∧
    (∃ (ring : Nat) (half : Half) (val : Word) (s : State) (new : Word), new = mergeHalf half (s.reg (Adr.hifCrCfg ring)) val &&& BitVec.ofNat 64 (bits 0 20) ∧ s.barOpen 0 = true ∧ ring < 256 ∧ 6 ≤ new.field 0 4 ∧ new.field 0 4 ≤ 12 ∧ new.field 5 7 = 0 ∧ s.fld (Adr.hifCqCfg (new.field 12 8)) 6 7 = 0 ∧ (s.reg (Adr.hifCrCfg ring)).bit 4 = false ∧ new.bit 4 = true) ∧
    (∃ (cq : Nat) (s : State), (s.barOpen 0 = false ∨ 256 ≤ cq)) ∧
    (∃ (cq : Nat) (half : Half) (val : Word) (s : State) (new : Word), new = mergeHalf half (s.reg (Adr.hifCqCfg cq)) val &&& BitVec.ofNat 64 (bits 0 31) ∧ s.barOpen 0 = true ∧ cq < 256 ∧ 6 ≤ new.field 0 5 ∧ new.field 0 5 ≤ 16 ∧ new.field 6 7 = 0 ∧ new.field 19 8 ≠ 0 ∧ (s.reg (Adr.hifCqCfg cq)).bit 5 = false ∧ new.bit 5 = false) ∧
    (∃ (cq : Nat) (half : Half) (val : Word) (s : State) (new : Word), new = mergeHalf half (s.reg (Adr.hifCqCfg cq)) val &&& BitVec.ofNat 64 (bits 0 31) ∧ s.barOpen 0 = true ∧ cq < 256 ∧ 6 ≤ new.field 0 5 ∧ new.field 0 5 ≤ 16 ∧ new.field 6 7 = 0 ∧ new.field 19 8 ≠ 0 ∧ (s.reg (Adr.hifCqCfg cq)).bit 5 = false ∧ new.bit 5 = true) ∧
    (∃ (func : Nat) (s : State), s.barOpen func = false) ∧
    (∃ (func : Nat) (cq : Nat) (s : State), func = 0 ∧ s.barOpen 0 = true ∧ 256 ≤ cq) ∧
    (∃ (func : Nat) (cq : Nat) (s : State), func = 0 ∧ s.barOpen 0 = true ∧ cq < 256) ∧
    (∃ (func : Nat) (cq : Nat) (s : State) (c : Nat), func ≠ 0 ∧ s.barOpen func = true ∧ (s.cqsOf func)[cq]? = some c) ∧
    (∃ (cq : Nat) (s : State), (s.fld (Adr.hifCqCfg cq) 27 4 = 0 ∨ (s.cq cq).unsig = 0 ∨ s.reached ((s.cq cq).firstTick + s.fld (Adr.hifCqCfg cq) 27 4) 0 = false)) ∧
    (∃ (cq : Nat) (s : State) (f : Nat) (v : Nat), f = s.fld (Adr.hifCqCfg cq) 6 7 ∧ v = s.fld (Adr.hifCqCfg cq) 13 6 ∧ s.fld (Adr.hifCqCfg cq) 27 4 ≠ 0 ∧ (s.cq cq).unsig ≠ 0 ∧ s.reached ((s.cq cq).firstTick + s.fld (Adr.hifCqCfg cq) 27 4) 0 = true ∧ (s.msixWord f v 1).bit 32 = false) ∧
    (∃ (cq : Nat) (s : State) (f : Nat) (v : Nat), f = s.fld (Adr.hifCqCfg cq) 6 7 ∧ v = s.fld (Adr.hifCqCfg cq) 13 6 ∧ s.fld (Adr.hifCqCfg cq) 27 4 ≠ 0 ∧ (s.cq cq).unsig ≠ 0 ∧ s.reached ((s.cq cq).firstTick + s.fld (Adr.hifCqCfg cq) 27 4) 0 = true ∧ (s.msixWord f v 1).bit 32 = true) :=
  ⟨⟨0, 0, State.reset, by decide⟩,
   ⟨0, 0, 0, 8, ((State.reset.wS) : State), 0, by decide⟩,
   ⟨0, 0, 0, 0, ((State.reset.wS) : State), 0, by decide⟩,
   ⟨0, 0, 0, 7, (BitVec.ofNat _ (((State.reset.wS) : State).ring (0 : Nat)).rcv + 1 : Word), ((State.reset.wS) : State), 0, by decide⟩,
   ⟨0, 0, 0, 7, 0, ((State.reset.wS) : State), 0, by decide⟩,
   ⟨0, State.reset, by decide⟩,
   ⟨0, .whole, 0x16, ((State.reset.wS) : State), (mergeHalf (.whole : Half) (((State.reset.wS) : State).reg (Adr.hifCrCfg (0 : Nat))) (0x16 : Word) &&& BitVec.ofNat 64 (bits 0 20) : Word), by decide⟩,
   ⟨0, State.reset, by decide⟩,
   ⟨0, .whole, 0x80006, ((State.reset.wS) : State), (mergeHalf (.whole : Half) (((State.reset.wS) : State).reg (Adr.hifCqCfg (0 : Nat))) (0x80006 : Word) &&& BitVec.ofNat 64 (bits 0 31) : Word), by decide⟩,
   ⟨0, .whole, 0x80026, ((State.reset.wS) : State), (mergeHalf (.whole : Half) (((State.reset.wS) : State).reg (Adr.hifCqCfg (0 : Nat))) (0x80026 : Word) &&& BitVec.ofNat 64 (bits 0 31) : Word), by decide⟩,
   ⟨0, State.reset, by decide⟩,
   ⟨0, 256, ((State.reset.wS) : State), by decide⟩,
   ⟨0, 0, ((State.reset.wS) : State), by decide⟩,
   ⟨1, 0, (((State.reset.wS.setFld (Adr.aosProf 0 0) 20 1 1).setFld (Adr.hifCqCfg 0) 6 7 1) : State), 0, by decide⟩,
   ⟨0, ((State.reset.setFld (Adr.hifCqCfg (0 : Nat)) 27 4 0) : State), by decide⟩,
   ⟨0, ((((State.reset.setFld (Adr.hifCqCfg (0 : Nat)) 27 4 1).onCq (0 : Nat) (fun z => { z with unsig := 1 })).onTick (fun z => { z with tick := 1000000 })) : State), (((((State.reset.setFld (Adr.hifCqCfg (0 : Nat)) 27 4 1).onCq (0 : Nat) (fun z => { z with unsig := 1 })).onTick (fun z => { z with tick := 1000000 })) : State).fld (Adr.hifCqCfg (0 : Nat)) 6 7 : Nat), (((((State.reset.setFld (Adr.hifCqCfg (0 : Nat)) 27 4 1).onCq (0 : Nat) (fun z => { z with unsig := 1 })).onTick (fun z => { z with tick := 1000000 })) : State).fld (Adr.hifCqCfg (0 : Nat)) 13 6 : Nat), by decide⟩,
   ⟨0, (((((State.reset.setFld (Adr.hifCqCfg (0 : Nat)) 27 4 1).onCq (0 : Nat) (fun z => { z with unsig := 1 })).onTick (fun z => { z with tick := 1000000 })).setReg (Adr.msixEntry 0 1) 0x100000000) : State), ((((((State.reset.setFld (Adr.hifCqCfg (0 : Nat)) 27 4 1).onCq (0 : Nat) (fun z => { z with unsig := 1 })).onTick (fun z => { z with tick := 1000000 })).setReg (Adr.msixEntry 0 1) 0x100000000) : State).fld (Adr.hifCqCfg (0 : Nat)) 6 7 : Nat), ((((((State.reset.setFld (Adr.hifCqCfg (0 : Nat)) 27 4 1).onCq (0 : Nat) (fun z => { z with unsig := 1 })).onTick (fun z => { z with tick := 1000000 })).setReg (Adr.msixEntry 0 1) 0x100000000) : State).fld (Adr.hifCqCfg (0 : Nat)) 13 6 : Nat), by decide⟩⟩

theorem wit_DescriptorProgramRows :
    (∃ (cell : Nat) (ag : Nat) (upset : List (Nat × Nat)) (s : State), upset = [] ∧ (s.agOf cell ag).loops = []) ∧
    (∃ (body : Nat), 0 < body) ∧
    (∃ (cell : Nat) (ag : Nat) (body : Nat) (s : State), body = 0 ∧ (s.agOf cell ag).loops = []) ∧
    (∃ (rng : Nat) (base : Nat) (srows : Nat) (slots : Nat), (2048 < base + srows * slots ∨ 4 ≤ rng)) ∧
    (∃ (rng : Nat) (base : Nat) (srows : Nat) (slots : Nat) (j : Nat), base + srows * slots ≤ 2048 ∧ rng < 4 ∧ j ≠ rng) ∧
    (∃ (cell : Nat) (rng : Nat) (base : Nat) (srows : Nat) (slots : Nat) (k : Nat), base + srows * slots ≤ 2048 ∧ rng < 4 ∧ k ≠ cell) ∧
    (∃ (cell : Nat) (w : Nat) (a : Nat), a ≠ Adr.rwin (cell / 288) (cell % 288) (w % 8)) ∧
    (∃ (cell : Nat) (cnt : Nat) (value : BitVec 32) (counted : Nat) (a : Nat), value.toNat + counted ≤ 4294967295 ∧ a ≠ Adr.arvCnt (cell / 288) (cell % 288) (cnt % 16)) ∧
    (∃ (cell : Nat) (value : BitVec 32) (counted : Nat), cell < 2304 ∧ 4294967295 < value.toNat + counted) ∧
    (∃ (prod : Nat), prod / 2 ^ 4 % 512 < 288) :=
  ⟨⟨0, 0, ([] : List (Nat × Nat)), State.reset, by decide⟩,
   ⟨1, by decide⟩,
   ⟨0, 0, 0, State.reset, by decide⟩,
   ⟨0, 2049, 0, 0, by decide⟩,
   ⟨0, 0, 0, 0, (((0 : Nat) + 1) : Nat), by decide⟩,
   ⟨0, 0, 0, 0, 0, (((0 : Nat) + 1) : Nat), by decide⟩,
   ⟨0, 0, ((Adr.rwin ((0 : Nat) / 288) ((0 : Nat) % 288) ((0 : Nat) % 8) + 1) : Nat), by decide⟩,
   ⟨0, 0, 0, 0, ((Adr.arvCnt ((0 : Nat) / 288) ((0 : Nat) % 288) ((0 : Nat) % 16) + 1) : Nat), by decide⟩,
   ⟨0, 0, 4294967296, by decide⟩,
   ⟨0, by decide⟩⟩

theorem wit_EnergyLedgerAndGrants :
    (∃ (s : State), s.turn Event.ledger = false) ∧
    (∃ (s : State), s.turn Event.ledger = true ∧ s.fld Adr.tkeLcfg 20 1 = 1) ∧
    (∃ (s : State) (g : Nat × Nat), s.turn Event.ledger = true ∧ s.fld Adr.tkeLcfg 20 1 ≠ 1 ∧ (List.find? (fun g => g.fst == s.ledgerTick) s.ledger.grants = some g)) ∧
    (∃ (s : State), s.turn Event.ledger = true ∧ s.fld Adr.tkeLcfg 20 1 ≠ 1 ∧ (List.find? (fun g => g.fst == s.ledgerTick) s.ledger.grants = none) ∧ (∀ (l : Nat × Nat), s.ledger.last = some l → s.fld Adr.tkeLcfg 21 16 < s.ledgerTick - l.fst)) ∧
    (∃ (epoch : Word) (s : State), BitVec.toNat epoch < BitVec.toNat (s.reg Adr.mgrEpoch)) ∧
    (∃ (tick : Word) (epoch : Word) (s : State), BitVec.toNat (s.reg Adr.mgrEpoch) ≤ BitVec.toNat epoch ∧ s.fld Adr.tkeLcfg 20 1 ≠ 1 ∧ s.tick.tick < BitVec.toNat tick) ∧
    (∃ (tick : Word) (epoch : Word) (s : State), BitVec.toNat (s.reg Adr.mgrEpoch) ≤ BitVec.toNat epoch ∧ s.fld Adr.tkeLcfg 20 1 ≠ 1 ∧ BitVec.toNat tick < s.tick.tick) ∧
    (∃ (s : State), (s.net.role ≠ 1 ∨ s.tick.phase < s.fld Adr.mgrCfg 8 20 ∨ s.net.grantTick = some s.tick.tick)) ∧
    (∃ (s : State) (p : Nat) (mj : Nat), s.net.role = 1 ∧ s.fld Adr.mgrCfg 8 20 ≤ s.tick.phase ∧ s.net.grantTick ≠ some s.tick.tick ∧ s.grants = [(p, mj)] ∧ p = s.net.pos) ∧
    (∃ (s : State) (p : Nat) (mj : Nat), s.net.role = 1 ∧ s.fld Adr.mgrCfg 8 20 ≤ s.tick.phase ∧ s.net.grantTick ≠ some s.tick.tick ∧ s.grants = [(p, mj)] ∧ p ≠ s.net.pos) ∧
    (∃ (tick : Word) (s : State), (s.net.role ≠ 1 ∨ BitVec.toNat tick ≠ s.tick.tick + 1 ∨ s.net.grantTick = some s.tick.tick)) ∧
    (∃ (node : Nat) (tick : Word) (s : State), s.net.role = 1 ∧ BitVec.toNat tick = s.tick.tick + 1 ∧ s.net.grantTick ≠ some s.tick.tick ∧ (List.find? (fun p => p.snd.node == node && (p.snd.st == 1 || p.snd.st == 2)) s.net.workers = none)) ∧
    (∃ (node : Nat) (tick : Word) (s : State) (p : Nat × WrkSt), s.net.role = 1 ∧ BitVec.toNat tick = s.tick.tick + 1 ∧ s.net.grantTick ≠ some s.tick.tick ∧ (List.find? (fun p => p.snd.node == node && (p.snd.st == 1 || p.snd.st == 2)) s.net.workers = some p)) :=
  ⟨⟨((State.reset.wNoLedger) : State), by decide⟩,
   ⟨((State.reset.setFld Adr.tkeLcfg 20 1 1) : State), by decide⟩,
   ⟨((State.reset.onLedger (fun z => { z with grants := [(0, 5)] })) : State), ((0, 5) : Nat × Nat), by decide⟩,
   ⟨State.reset, by decide, by decide, by decide, by first | decide | (intro a h; cases h; done) | (intro a h; subst h; decide) | (intro a b h; cases h; done) | (intros; rfl) | (intros; decide)⟩,
   ⟨0, State.reset, by decide⟩,
   ⟨(BitVec.ofNat _ ((State.reset : State).tick.tick + 1) : Word), (BitVec.ofNat _ (BitVec.toNat ((State.reset : State).reg Adr.mgrEpoch)) : Word), State.reset, by decide⟩,
   ⟨0, (BitVec.ofNat _ (BitVec.toNat (((State.reset.onTick (fun z => { z with tick := 5 })) : State).reg Adr.mgrEpoch)) : Word), ((State.reset.onTick (fun z => { z with tick := 5 })) : State), by decide⟩,
   ⟨State.reset, by decide⟩,
   ⟨((((((State.reset.onNet (fun z => { z with role := 1 })).onNet (fun z => { z with workers := [(0, { (default : WrkSt) with st := 1, node := 0, envJ := 1 })] })).onTick (fun z => { z with phase := 200000 })).onNet (fun z => { z with grantTick := none, pos := 0 })).setReg Adr.mgrRackw 100) : State), 0, 1, by decide⟩,
   ⟨((((((State.reset.onNet (fun z => { z with role := 1 })).onNet (fun z => { z with workers := [(1, { (default : WrkSt) with st := 1, node := 0, envJ := 1 })] })).onTick (fun z => { z with phase := 200000 })).onNet (fun z => { z with grantTick := none, pos := 0 })).setReg Adr.mgrRackw 100) : State), 1, 1, by decide⟩,
   ⟨0, State.reset, by decide⟩,
   ⟨0, (BitVec.ofNat _ (((State.reset.onNet (fun z => { z with role := 1 })) : State).tick.tick + 1) : Word), ((State.reset.onNet (fun z => { z with role := 1 })) : State), by decide⟩,
   ⟨0, 1, (((State.reset.onNet (fun z => { z with role := 1 })).onNet (fun z => { z with workers := [(1, { (default : WrkSt) with st := 1, node := 0, envJ := 1 })] })) : State), ((1, { (default : WrkSt) with st := 1, node := 0, envJ := 1 }) : Nat × WrkSt), by decide⟩⟩

theorem wit_EveryStepKeepsTheBuildAndTheQueue :
    (∃ (s : State) (t : State), step s = Host.Outcome.next t) :=
  ⟨State.reset, _, rfl⟩

theorem wit_EveryStepKeepsTheTickBlockInOrder :
    (∃ (s : State) (t : State), s.TickOk ∧ s.QueueOk ∧ step s = Host.Outcome.next t) :=
  ⟨State.reset, _, by unfold State.TickOk; decide, by unfold State.QueueOk; decide, rfl⟩

theorem wit_ExchangePhases :
    (∃ (plan : Nat) (rec : Nat) (s : State), ((s.plan plan).valid = false ∨ (s.plan plan).slen ≤ rec * (s.plan plan).rlen)) ∧
    (∃ (plan : Nat) (rec : Nat) (header : Word) (s : State) (h : Word), (h = if (s.plan plan).stamp = true then header.setField 24 16 (s.fld (Adr.xchGen (s.plan plan).glove) 0 16) else header) ∧ (s.plan plan).valid = true ∧ rec * (s.plan plan).rlen < (s.plan plan).slen ∧ h.field 0 12 ≠ 4095) ∧
    (∃ (plan : Nat) (s : State), s.turn (Event.phase plan) = false) ∧
    (∃ (plan : Nat) (s : State), s.turn (Event.phase plan) = true ∧ s.tickHeld = false) ∧
    (∃ (plan : Nat) (s : State), s.turn (Event.phase plan) = true ∧ s.tickHeld = true) ∧
    (∃ (plan : Nat) (s : State), ((s.plan plan).stage ≠ XStage.count ∨ s.nowRc < s.roundStart (s.plan plan) + (s.plan plan).clen)) ∧
    (∃ (plan : Nat) (bad : List Nat) (late : Bool) (s : State), (s.plan plan).stage = XStage.count ∧ s.roundStart (s.plan plan) + (s.plan plan).clen ≤ s.nowRc ∧ (s.plan plan).round ≠ 0 ∧ (s.plan plan).fail = none ∧ s.tickHeld = true ∧ (∀ (e : SlotEnt), e ∈ (s.plan plan).slots → ¬e.link ∈ bad ∧ (s.net.links.at e.link).st = LnkState.up2 ∧ (e.kind = 2 → ¬e.outlink ∈ bad ∧ (s.net.links.at e.outlink).st = LnkState.up2)) ∧ late = false) ∧
    (∃ (plan : Nat) (s : State), ((s.plan plan).valid = false ∨ (s.plan plan).stage ≠ XStage.count ∧ (s.plan plan).stage ≠ XStage.data)) ∧
    (∃ (plan : Nat) (rec : List Byte) (s : State) (h : Word) (d : Nat) (age : Nat), h = BitVec.ofNat 64 (leAt rec 0 8) ∧ d = h.field 0 12 ∧ age = (s.fld (Adr.xchGen (s.plan plan).glove) 0 16 + 65536 - h.field 24 16) % 65536 ∧ (s.plan plan).valid = true ∧ ((s.plan plan).stage = XStage.count ∨ (s.plan plan).stage = XStage.data) ∧ d < (s.plan plan).dests.length ∧ ((s.plan plan).dests.getD d default).part = (s.plan plan).self ∧ (s.plan plan).accepted.getD d 0 < ((s.plan plan).dests.getD d default).wcap ∧ (s.plan plan).genchk = true ∧ 32768 ≤ age) ∧
    (∃ (plan : Nat) (rec : List Byte) (s : State) (h : Word) (d : Nat) (age : Nat), h = BitVec.ofNat 64 (leAt rec 0 8) ∧ d = h.field 0 12 ∧ age = (s.fld (Adr.xchGen (s.plan plan).glove) 0 16 + 65536 - h.field 24 16) % 65536 ∧ (s.plan plan).valid = true ∧ ((s.plan plan).stage = XStage.count ∨ (s.plan plan).stage = XStage.data) ∧ d < (s.plan plan).dests.length ∧ ((s.plan plan).dests.getD d default).part = (s.plan plan).self ∧ (s.plan plan).accepted.getD d 0 < ((s.plan plan).dests.getD d default).wcap ∧ (s.plan plan).genchk = true ∧ 0 < age ∧ age < 32768) ∧
    (∃ (plan : Nat) (rec : List Byte) (s : State) (h : Word) (d : Nat) (age : Nat), h = BitVec.ofNat 64 (leAt rec 0 8) ∧ d = h.field 0 12 ∧ age = (s.fld (Adr.xchGen (s.plan plan).glove) 0 16 + 65536 - h.field 24 16) % 65536 ∧ (s.plan plan).valid = true ∧ ((s.plan plan).stage = XStage.count ∨ (s.plan plan).stage = XStage.data) ∧ d < (s.plan plan).dests.length ∧ ((s.plan plan).dests.getD d default).part = (s.plan plan).self ∧ (s.plan plan).accepted.getD d 0 < ((s.plan plan).dests.getD d default).wcap ∧ ((s.plan plan).genchk = false ∨ age = 0)) ∧
    (∃ (plan : Nat) (slot : Nat) (s : State), ((s.plan plan).slots[slot]? = none ∨ (s.plan plan).valid = false ∨ (s.plan plan).stage ≠ XStage.data)) ∧
    (∃ (plan : Nat) (slot : Nat) (s : State) (e : SlotEnt), (s.plan plan).slots[slot]? = some e ∧ (s.plan plan).valid = true ∧ e.kind = 2 ∧ (s.plan plan).stage = XStage.data ∧ s.tickHeld = true ∧ (s.net.links.at e.outlink).st = LnkState.up2) ∧
    (∃ (plan : Nat) (slot : Nat) (s : State) (e : SlotEnt), (s.plan plan).slots[slot]? = some e ∧ (s.plan plan).valid = true ∧ e.kind = 2 ∧ (s.plan plan).stage = XStage.data ∧ s.tickHeld = true ∧ (s.net.links.at e.outlink).st ≠ LnkState.up2 ∧ (s.plan plan).fail = none) ∧
    (∃ (plan : Nat) (s : State), s.turn (Event.round plan) = false) ∧
    (∃ (plan : Nat) (s : State), s.turn (Event.round plan) = true ∧ s.tickHeld = false) ∧
    (∃ (plan : Nat) (s : State), s.turn (Event.round plan) = true ∧ s.tickHeld = true) ∧
    (∃ (plan : Nat) (s : State), ((s.plan plan).stage ≠ XStage.data ∨ s.nowRc < s.roundStart (s.plan plan) + (s.plan plan).clen + (s.plan plan).dlen)) ∧
    (∃ (plan : Nat) (s : State), (s.plan plan).stage = XStage.data ∧ s.roundStart (s.plan plan) + (s.plan plan).clen + (s.plan plan).dlen ≤ s.nowRc ∧ (s.plan plan).fail ≠ none) ∧
    (∃ (plan : Nat) (st : List (Nat × Nat)) (s : State), s.tickHeld = true ∧ (s.plan plan).stage = XStage.data ∧ s.roundStart (s.plan plan) + (s.plan plan).clen + (s.plan plan).dlen ≤ s.nowRc ∧ (s.plan plan).fail = none ∧ State.stoppedSender (s.plan plan) = none ∧ (∀ (d : DestEnt), d ∈ (s.plan plan).dests → d.part ≠ (s.plan plan).self) ∧ (∀ (q : Nat), q < (s.plan plan).npart → q ≠ (s.plan plan).self → List.find? (fun y => y.fst == q) st = some (q, 0))) :=
  ⟨⟨0, 0, ((State.reset.onPlan (0 : Nat) (fun z => { z with valid := false })) : State), by decide⟩,
   ⟨0, 0, 0, (((State.reset.onPlan (0 : Nat) (fun z => { z with valid := true })).onPlan 0 (fun z => { z with rlen := 128, slen := 256 })) : State), 0, by decide⟩,
   ⟨0, ((State.reset.wNoLedger) : State), by decide⟩,
   ⟨0, ((((State.reset.wNoLedger).onPlan (0 : Nat) (fun z => { z with stage := .named, round := 0 })).onTick (fun z => { z with own := .unlocked, master := .locked })) : State), by decide⟩,
   ⟨0, ((((State.reset.wNoLedger).onPlan (0 : Nat) (fun z => { z with stage := .named, round := 0 })).onTick (fun z => { z with own := .locked, master := .locked })) : State), by decide⟩,
   ⟨0, ((State.reset.onPlan (0 : Nat) (fun z => { z with stage := XStage.idle })) : State), by decide⟩,
   ⟨0, ([] : List Nat), false, (((((State.reset.onPlan (0 : Nat) (fun z => { z with stage := XStage.count })).onPlan (0 : Nat) (fun z => { z with round := 1 })).onPlan (0 : Nat) (fun z => { z with fail := none })).onTick (fun z => { z with own := .locked, master := .locked })) : State), by decide, by decide, by decide, by decide, by decide, by first | decide | (intro a h; cases h; done) | (intro a h; subst h; decide) | (intro a b h; cases h; done) | (intros; rfl) | (intros; decide), by decide⟩,
   ⟨0, ((State.reset.onPlan (0 : Nat) (fun z => { z with valid := false })) : State), by decide⟩,
   ⟨0, ([0,0,0,0,128,0,0,0] : List Byte), (((((State.reset.onPlan (0 : Nat) (fun z => { z with valid := true })).onPlan (0 : Nat) (fun z => { z with stage := XStage.count })).onPlan (0 : Nat) (fun z => { z with genchk := true })).onPlan 0 (fun z => { z with valid := true, stage := .data, genchk := true, dests := [{ (default : DestEnt) with wcap := 1 }] })) : State), 0x8000000000, ((0x8000000000 : Word).field 0 12 : Nat), (((((((State.reset.onPlan (0 : Nat) (fun z => { z with valid := true })).onPlan (0 : Nat) (fun z => { z with stage := XStage.count })).onPlan (0 : Nat) (fun z => { z with genchk := true })).onPlan 0 (fun z => { z with valid := true, stage := .data, genchk := true, dests := [{ (default : DestEnt) with wcap := 1 }] })) : State).fld (Adr.xchGen ((((((State.reset.onPlan (0 : Nat) (fun z => { z with valid := true })).onPlan (0 : Nat) (fun z => { z with stage := XStage.count })).onPlan (0 : Nat) (fun z => { z with genchk := true })).onPlan 0 (fun z => { z with valid := true, stage := .data, genchk := true, dests := [{ (default : DestEnt) with wcap := 1 }] })) : State).plan (0 : Nat)).glove) 0 16 + 65536 - (0x8000000000 : Word).field 24 16) % 65536 : Nat), by decide⟩,
   ⟨0, ([0,0,0,255,255,0,0,0] : List Byte), (((((State.reset.onPlan (0 : Nat) (fun z => { z with valid := true })).onPlan (0 : Nat) (fun z => { z with stage := XStage.count })).onPlan (0 : Nat) (fun z => { z with genchk := true })).onPlan 0 (fun z => { z with valid := true, stage := .data, genchk := true, dests := [{ (default : DestEnt) with wcap := 1 }] })) : State), 0xFFFF000000, ((0xFFFF000000 : Word).field 0 12 : Nat), (((((((State.reset.onPlan (0 : Nat) (fun z => { z with valid := true })).onPlan (0 : Nat) (fun z => { z with stage := XStage.count })).onPlan (0 : Nat) (fun z => { z with genchk := true })).onPlan 0 (fun z => { z with valid := true, stage := .data, genchk := true, dests := [{ (default : DestEnt) with wcap := 1 }] })) : State).fld (Adr.xchGen ((((((State.reset.onPlan (0 : Nat) (fun z => { z with valid := true })).onPlan (0 : Nat) (fun z => { z with stage := XStage.count })).onPlan (0 : Nat) (fun z => { z with genchk := true })).onPlan 0 (fun z => { z with valid := true, stage := .data, genchk := true, dests := [{ (default : DestEnt) with wcap := 1 }] })) : State).plan (0 : Nat)).glove) 0 16 + 65536 - (0xFFFF000000 : Word).field 24 16) % 65536 : Nat), by decide⟩,
   ⟨0, ([0,0,0,0,0,0,0,0] : List Byte), (((((State.reset.onPlan (0 : Nat) (fun z => { z with valid := true })).onPlan (0 : Nat) (fun z => { z with stage := XStage.count })).onPlan (0 : Nat) (fun z => { z with genchk := false })).onPlan 0 (fun z => { z with valid := true, stage := .data, genchk := false, dests := [{ (default : DestEnt) with wcap := 1 }] })) : State), 0, ((0 : Word).field 0 12 : Nat), (((((((State.reset.onPlan (0 : Nat) (fun z => { z with valid := true })).onPlan (0 : Nat) (fun z => { z with stage := XStage.count })).onPlan (0 : Nat) (fun z => { z with genchk := false })).onPlan 0 (fun z => { z with valid := true, stage := .data, genchk := false, dests := [{ (default : DestEnt) with wcap := 1 }] })) : State).fld (Adr.xchGen ((((((State.reset.onPlan (0 : Nat) (fun z => { z with valid := true })).onPlan (0 : Nat) (fun z => { z with stage := XStage.count })).onPlan (0 : Nat) (fun z => { z with genchk := false })).onPlan 0 (fun z => { z with valid := true, stage := .data, genchk := false, dests := [{ (default : DestEnt) with wcap := 1 }] })) : State).plan (0 : Nat)).glove) 0 16 + 65536 - (0 : Word).field 24 16) % 65536 : Nat), by decide⟩,
   ⟨0, 0, State.reset, by decide⟩,
   ⟨0, 0, ((((((State.reset.onPlan (0 : Nat) (fun z => { z with valid := true })).onPlan (0 : Nat) (fun z => { z with stage := XStage.data })).onTick (fun z => { z with own := .locked, master := .locked })).onLink ({ (default : SlotEnt) with kind := 2 } : SlotEnt).outlink (fun z => { z with st := LnkState.up2 })).onPlan 0 (fun z => { z with slots := [{ (default : SlotEnt) with kind := 2 }] })) : State), ({ (default : SlotEnt) with kind := 2 } : SlotEnt), by decide⟩,
   ⟨0, 0, (((((((State.reset.onPlan (0 : Nat) (fun z => { z with valid := true })).onPlan (0 : Nat) (fun z => { z with stage := XStage.data })).onTick (fun z => { z with own := .locked, master := .locked })).onLink ({ (default : SlotEnt) with kind := 2 } : SlotEnt).outlink (fun z => { z with st := LnkState.down })).onPlan (0 : Nat) (fun z => { z with fail := none })).onPlan 0 (fun z => { z with slots := [{ (default : SlotEnt) with kind := 2 }] })) : State), ({ (default : SlotEnt) with kind := 2 } : SlotEnt), by decide⟩,
   ⟨0, ((State.reset.wNoLedger) : State), by decide⟩,
   ⟨0, ((((State.reset.wNoLedger).onPlan (0 : Nat) (fun z => { z with stage := .named, round := 1 })).onTick (fun z => { z with own := .unlocked, master := .locked })) : State), by decide⟩,
   ⟨0, ((((State.reset.wNoLedger).onPlan (0 : Nat) (fun z => { z with stage := .named, round := 1 })).onTick (fun z => { z with own := .locked, master := .locked })) : State), by decide⟩,
   ⟨0, ((State.reset.onPlan (0 : Nat) (fun z => { z with stage := XStage.idle })) : State), by decide⟩,
   ⟨0, (((State.reset.onPlan (0 : Nat) (fun z => { z with stage := XStage.data })).onPlan (0 : Nat) (fun z => { z with fail := some default })) : State), by decide⟩,
   ⟨0, ([] : List (Nat × Nat)), ((((State.reset.onTick (fun z => { z with own := .locked, master := .locked })).onPlan (0 : Nat) (fun z => { z with stage := XStage.data })).onPlan (0 : Nat) (fun z => { z with fail := none })) : State), by decide, by decide, by decide, by decide, by decide, by first | decide | (intro a h; cases h; done) | (intro a h; subst h; decide) | (intro a b h; cases h; done) | (intros; rfl) | (intros; decide), by first | decide | (intro a h; cases h; done) | (intro a h; subst h; decide) | (intro a b h; cases h; done) | (intros; rfl) | (intros; decide)⟩⟩

theorem wit_FollowerTakesTheLoad :
    (∃ (s : State), s.tick.role.follows = false) ∧
    (∃ (s : State) (phase : Nat) (n : Nat), s.tick.role.follows = true ∧ phase < n ∧ (s.tick.own = TState.locked ∨ s.tick.own = TState.holdover)) ∧
    (∃ (s : State) (tick : Word) (phase : Nat) (n : Nat), s.tick.role.follows = true ∧ phase < n ∧ (s.tick.own = TState.acquiring ∨ s.tick.own = TState.unlocked) ∧ s.tick.tick * n + s.tick.phase % n ≤ BitVec.toNat tick * n + phase) ∧
    (∃ (s : State) (tick : Word) (phase : Nat) (n : Nat), s.tick.role.follows = true ∧ phase < n ∧ (s.tick.own = TState.acquiring ∨ s.tick.own = TState.unlocked) ∧ BitVec.toNat tick * n + phase < s.tick.tick * n + s.tick.phase % n) :=
  ⟨⟨((State.reset.onTick (fun z => { z with role := .crown })) : State), by decide⟩,
   ⟨((State.reset.onTick (fun z => { z with own := TState.locked })) : State), 0, 1, by decide⟩,
   ⟨((State.reset.onTick (fun z => { z with own := TState.acquiring })) : State), 0, 0, 1, by decide⟩,
   ⟨(((State.reset.onTick (fun z => { z with own := TState.acquiring })).onTick (fun z => { z with tick := 5, n := 1 })) : State), 0, 0, 1, by decide⟩⟩

theorem wit_FollowingRackMasterTakesABeacon :
    (∃ (s : State), s.tick.role ≠ TRole.rackMaster) ∧
    (∃ (s : State) (b : Beacon) (hops : Nat) (cs : List (Nat × Nat)) (q : Nat × Nat), (cs = List.filter (fun p => decide (p.snd ≠ b.sender)) s.tick.cands ++ [(hops, b.sender)]) ∧ s.tick.role = TRole.rackMaster ∧ q ∈ cs) ∧
    (∃ (s : State) (b : Beacon) (hops : Nat) (cs : List (Nat × Nat)), (cs = List.filter (fun p => decide (p.snd ≠ b.sender)) s.tick.cands ++ [(hops, b.sender)]) ∧ s.tick.role = TRole.rackMaster) ∧
    (∃ (s : State) (b : Beacon) (hops : Nat) (cs : List (Nat × Nat)), (cs = List.filter (fun p => decide (p.snd ≠ b.sender)) s.tick.cands ++ [(hops, b.sender)]) ∧ s.tick.role = TRole.rackMaster) :=
  ⟨⟨((State.reset.onTick (fun z => { z with role := TRole.worker })) : State), by decide⟩,
   ⟨((State.reset.onTick (fun z => { z with role := TRole.rackMaster })) : State), default, 0, (List.filter (fun p => decide (p.snd ≠ (default : Beacon).sender)) ((State.reset.onTick (fun z => { z with role := TRole.rackMaster })) : State).tick.cands ++ [((0 : Nat), (default : Beacon).sender)] : List (Nat × Nat)), default, by decide⟩,
   ⟨((State.reset.onTick (fun z => { z with role := TRole.rackMaster })) : State), default, 0, (List.filter (fun p => decide (p.snd ≠ (default : Beacon).sender)) ((State.reset.onTick (fun z => { z with role := TRole.rackMaster })) : State).tick.cands ++ [((0 : Nat), (default : Beacon).sender)] : List (Nat × Nat)), by decide⟩,
   ⟨((State.reset.onTick (fun z => { z with role := TRole.rackMaster })) : State), default, 0, (List.filter (fun p => decide (p.snd ≠ (default : Beacon).sender)) ((State.reset.onTick (fun z => { z with role := TRole.rackMaster })) : State).tick.cands ++ [((0 : Nat), (default : Beacon).sender)] : List (Nat × Nat)), by decide⟩⟩

theorem wit_FreeGlovesAreRefused :
    (∃ (c : HostCmd) (s : State) (u : State), s.Accepts c 17 [bits 0 6] u ∧ u.inA = true ∧ (u.glove (c.a1.field 0 6)).live = false) ∧
    (∃ (c : HostCmd) (s : State) (u : State), s.Accepts c 18 [bits 0 6] u ∧ u.inA = true ∧ (u.glove (c.a1.field 0 6)).live = false) ∧
    (∃ (c : HostCmd) (s : State) (u : State), s.Accepts c 19 [bits 0 12, bits 0 12] u ∧ u.inS = true ∧ (u.glove (c.a1.field 0 6)).live = false) ∧
    (∃ (c : HostCmd) (s : State) (u : State), s.Accepts c 21 [bits 0 38] u ∧ u.inA = true ∧ (u.glove (c.a1.field 32 6)).live = false) ∧
    (∃ (c : HostCmd) (s : State) (u : State), s.Accepts c 22 [bits 0 28, allBits] u ∧ u.inA = true ∧ (u.glove (c.a1.field 0 6)).live = false) ∧
    (∃ (c : HostCmd) (s : State) (u : State), s.Accepts c 23 [bits 0 6, allBits] u ∧ u.inS = true ∧ (u.glove (c.a1.field 0 6)).live = false) ∧
    (∃ (c : HostCmd) (s : State) (u : State), s.Accepts c 24 [bits 0 6] u ∧ u.inA = true ∧ (u.glove (c.a1.field 0 6)).live = false) ∧
    (∃ (c : HostCmd) (s : State) (u : State), s.Accepts c 25 [bits 0 14, allBits, allBits] u ∧ u.inD = true ∧ (u.glove (c.a1.field 8 6)).live = false) ∧
    (∃ (c : HostCmd) (s : State) (u : State), s.Accepts c 26 [bits 0 14] u ∧ u.inA = true ∧ (u.glove (c.a1.field 8 6)).live = false) ∧
    (∃ (c : HostCmd) (s : State) (u : State), s.Accepts c 27 [bits 0 6, allBits, bits 0 32] u ∧ u.inS = true ∧ (u.glove (c.a1.field 0 6)).live = false) ∧
    (∃ (c : HostCmd) (s : State) (u : State), s.Accepts c 28 [bits 0 6] u ∧ u.inA = true ∧ (u.glove (c.a1.field 0 6)).live = false) ∧
    (∃ (c : HostCmd) (s : State) (u : State), s.Accepts c 52 [bits 0 47, bits 0 32, allBits] u ∧ u.inS = true ∧ (u.glove (c.a1.field 32 6)).live = false) ∧
    (∃ (c : HostCmd) (s : State) (u : State), s.Accepts c 32 [bits 0 14 + bits 16 8 + bits 32 32, bits 0 56, bits 0 37 + bits 47 17, bits 0 36, bits 0 33 + bits 48 16] u ∧ u.inD = true ∧ (u.glove (c.a1.field 8 6)).live = false) ∧
    (∃ (c : HostCmd) (s : State) (u : State), s.Accepts c 64 [bits 0 56, bits 0 56, bits 0 40, bits 0 56, allBits, bits 0 32] u ∧ u.inS = true ∧ (u.glove (c.a1.field 0 6)).live = false) ∧
    (∃ (smbus : Bool) (idx : BitVec 16) (s : State) (u : State), s.sidebandUp = true ∧ idx.toNat < 64 ∧ u = s.wakeBy WakeSrc.smbus ∧ smbus = true ∧ u.fld Adr.rasCtl 1 1 = 1 ∧ (u.glove idx.toNat).live = false) ∧
    (∃ (smbus : Bool) (idx : BitVec 16) (s : State) (u : State), s.sidebandUp = true ∧ idx.toNat < 64 ∧ u = s.wakeBy WakeSrc.smbus ∧ smbus = false ∧ (s.glove idx.toNat).live = false) :=
  ⟨⟨((default : HostCmd) : HostCmd), (((State.reset.wM .service).onGlv (((default : HostCmd) : HostCmd).a1.field 0 6) (fun z => { z with live := false })) : State), ((((State.reset.wM .service).onGlv (((default : HostCmd) : HostCmd).a1.field 0 6) (fun z => { z with live := false })) : State) : State), ⟨rfl, rfl, by decide⟩, by decide⟩,
   ⟨((default : HostCmd) : HostCmd), (((State.reset.wM .service).onGlv (((default : HostCmd) : HostCmd).a1.field 0 6) (fun z => { z with live := false })) : State), ((((State.reset.wM .service).onGlv (((default : HostCmd) : HostCmd).a1.field 0 6) (fun z => { z with live := false })) : State) : State), ⟨rfl, rfl, by decide⟩, by decide⟩,
   ⟨((default : HostCmd) : HostCmd), (((State.reset.wM .service).onGlv (((default : HostCmd) : HostCmd).a1.field 0 6) (fun z => { z with live := false })) : State), ((((State.reset.wM .service).onGlv (((default : HostCmd) : HostCmd).a1.field 0 6) (fun z => { z with live := false })) : State) : State), ⟨rfl, rfl, by decide⟩, by decide⟩,
   ⟨((default : HostCmd) : HostCmd), (((State.reset.wM .service).onGlv (((default : HostCmd) : HostCmd).a1.field 32 6) (fun z => { z with live := false })) : State), ((((State.reset.wM .service).onGlv (((default : HostCmd) : HostCmd).a1.field 32 6) (fun z => { z with live := false })) : State) : State), ⟨rfl, rfl, by decide⟩, by decide⟩,
   ⟨((default : HostCmd) : HostCmd), (((State.reset.wM .service).onGlv (((default : HostCmd) : HostCmd).a1.field 0 6) (fun z => { z with live := false })) : State), ((((State.reset.wM .service).onGlv (((default : HostCmd) : HostCmd).a1.field 0 6) (fun z => { z with live := false })) : State) : State), ⟨rfl, rfl, by decide⟩, by decide⟩,
   ⟨((default : HostCmd) : HostCmd), (((State.reset.wM .service).onGlv (((default : HostCmd) : HostCmd).a1.field 0 6) (fun z => { z with live := false })) : State), ((((State.reset.wM .service).onGlv (((default : HostCmd) : HostCmd).a1.field 0 6) (fun z => { z with live := false })) : State) : State), ⟨rfl, rfl, by decide⟩, by decide⟩,
   ⟨((default : HostCmd) : HostCmd), (((State.reset.wM .service).onGlv (((default : HostCmd) : HostCmd).a1.field 0 6) (fun z => { z with live := false })) : State), ((((State.reset.wM .service).onGlv (((default : HostCmd) : HostCmd).a1.field 0 6) (fun z => { z with live := false })) : State) : State), ⟨rfl, rfl, by decide⟩, by decide⟩,
   ⟨((default : HostCmd) : HostCmd), (((State.reset.wM .service).onGlv (((default : HostCmd) : HostCmd).a1.field 8 6) (fun z => { z with live := false })) : State), ((((State.reset.wM .service).onGlv (((default : HostCmd) : HostCmd).a1.field 8 6) (fun z => { z with live := false })) : State) : State), ⟨rfl, rfl, by decide⟩, by decide⟩,
   ⟨((default : HostCmd) : HostCmd), (((State.reset.wM .service).onGlv (((default : HostCmd) : HostCmd).a1.field 8 6) (fun z => { z with live := false })) : State), ((((State.reset.wM .service).onGlv (((default : HostCmd) : HostCmd).a1.field 8 6) (fun z => { z with live := false })) : State) : State), ⟨rfl, rfl, by decide⟩, by decide⟩,
   ⟨((default : HostCmd) : HostCmd), (((State.reset.wM .service).onGlv (((default : HostCmd) : HostCmd).a1.field 0 6) (fun z => { z with live := false })) : State), ((((State.reset.wM .service).onGlv (((default : HostCmd) : HostCmd).a1.field 0 6) (fun z => { z with live := false })) : State) : State), ⟨rfl, rfl, by decide⟩, by decide⟩,
   ⟨((default : HostCmd) : HostCmd), (((State.reset.wM .service).onGlv (((default : HostCmd) : HostCmd).a1.field 0 6) (fun z => { z with live := false })) : State), ((((State.reset.wM .service).onGlv (((default : HostCmd) : HostCmd).a1.field 0 6) (fun z => { z with live := false })) : State) : State), ⟨rfl, rfl, by decide⟩, by decide⟩,
   ⟨((default : HostCmd) : HostCmd), (((State.reset.wM .service).onGlv (((default : HostCmd) : HostCmd).a1.field 32 6) (fun z => { z with live := false })) : State), ((((State.reset.wM .service).onGlv (((default : HostCmd) : HostCmd).a1.field 32 6) (fun z => { z with live := false })) : State) : State), ⟨rfl, rfl, by decide⟩, by decide⟩,
   ⟨((default : HostCmd) : HostCmd), (((State.reset.wM .service).onGlv (((default : HostCmd) : HostCmd).a1.field 8 6) (fun z => { z with live := false })) : State), ((((State.reset.wM .service).onGlv (((default : HostCmd) : HostCmd).a1.field 8 6) (fun z => { z with live := false })) : State) : State), ⟨rfl, rfl, by decide⟩, by decide⟩,
   ⟨((default : HostCmd) : HostCmd), (((State.reset.wM .service).onGlv (((default : HostCmd) : HostCmd).a1.field 0 6) (fun z => { z with live := false })) : State), ((((State.reset.wM .service).onGlv (((default : HostCmd) : HostCmd).a1.field 0 6) (fun z => { z with live := false })) : State) : State), ⟨rfl, rfl, by decide⟩, by decide⟩,
   ⟨true, 0, ((((State.reset.wS).setFld Adr.rasCtl 1 1 1).onGlv (0 : BitVec 16).toNat (fun z => { z with live := false })) : State), (((((State.reset.wS).setFld Adr.rasCtl 1 1 1).onGlv (0 : BitVec 16).toNat (fun z => { z with live := false })) : State).wakeBy WakeSrc.smbus : State), by decide⟩,
   ⟨false, 0, (((State.reset.wS).onGlv (0 : BitVec 16).toNat (fun z => { z with live := false })) : State), ((((State.reset.wS).onGlv (0 : BitVec 16).toNat (fun z => { z with live := false })) : State).wakeBy WakeSrc.smbus : State), by decide⟩⟩

theorem wit_FreezesHoldAndResumeThePattern :
    (∃ (g : Nat) (s : State), s.patRuns g = false) ∧
    (∃ (g : Nat) (p : PortRef) (s : State), s.patRuns g = true ∧ (s.pat g).faulted = false ∧ (s.pat g).stopped = false ∧ (s.pat g).stopAt = none ∧ (s.pat g).frozen.contains p = false ∧ (s.pat g).released.contains p = false) ∧
    (∃ (g : Nat) (p : PortRef) (s : State), (s.pat g).frozen.contains p = true ∧ (∀ (q : Site), q ∈ State.imgSites (s.img g (s.pat g).slot) → q.isC = false → q.die = p.die → q.row = p.row → (s.blocked q.mcell (s.pat g).lf 0 ((s.pat g).stopAt.getD (s.pat g).cycle - 1)).contains p = false) ∧ (List.filter (fun x => decide (x ≠ p)) (s.pat g).frozen = [])) ∧
    (∃ (g : Nat) (s : State), s.patFrozen g = false) ∧
    (∃ (g : Nat) (s : State), s.patFrozen g = true ∧ (s.pat g).frozen = [] ∧ (s.pat g).thaw = 0 ∧ (s.pat g).faulted = false ∧ (s.pat g).stopped = false ∧ (s.pat g).heldSwitch = false ∧ (((s.patDies g).any fun k => s.dieStopped k) = false) ∧ s.stepsEqual (s.patDies g) = true) ∧
    (∃ (g : Nat) (s : State) (k : Nat), s.patFrozen g = true ∧ (s.pat g).thaw = k + 1) :=
  ⟨⟨0, State.reset, by decide⟩,
   ⟨0, default, (((((State.reset.onPat (0 : Nat) (fun z => { z with valid := true })).onPat (0 : Nat) (fun z => { z with faulted := false })).onPat (0 : Nat) (fun z => { z with stopped := false })).onPat (0 : Nat) (fun z => { z with stopAt := none })) : State), by decide⟩,
   ⟨0, default, ((State.reset.onPat 0 (fun z => { z with frozen := [default], lf := 10, stopAt := some 3, cycle := 3, valid := true })) : State), by decide, by first | decide | (intro a h; cases h; done) | (intro a h; subst h; decide) | (intro a b h; cases h; done) | (intros; rfl) | (intros; decide), by decide⟩,
   ⟨0, State.reset, by decide⟩,
   ⟨0, (((((((State.reset.onPat (0 : Nat) (fun z => { z with valid := true, freezing := true, stopAt := some 0 })).onPat (0 : Nat) (fun z => { z with frozen := [] })).onPat (0 : Nat) (fun z => { z with thaw := 0 })).onPat (0 : Nat) (fun z => { z with faulted := false })).onPat (0 : Nat) (fun z => { z with stopped := false })).onPat (0 : Nat) (fun z => { z with heldSwitch := false })) : State), by decide⟩,
   ⟨0, (((State.reset.onPat (0 : Nat) (fun z => { z with valid := true, freezing := true, stopAt := some 0 })).onPat (0 : Nat) (fun z => { z with thaw := (0 : Nat) + 1 })) : State), 0, by decide⟩⟩

theorem wit_GloveAndFrameCommands :
    (∃ (c : HostCmd) (s : State) (u : State), s.Accepts c 16 [allBits, allBits, bits 0 15, bits 0 32] u ∧ u.inS = true ∧ palmSet (c.a2 ++ c.a1) = [] ∧ u.deepRungPends = false) ∧
    (∃ (c : HostCmd) (s : State) (u : State) (g : Nat) (q : Nat), s.Accepts c 16 [allBits, allBits, bits 0 15, bits 0 32] u ∧ u.inS = true ∧ u.deepRungPends = false ∧ palmSet (c.a2 ++ c.a1) ≠ [] ∧ c.a3.field 8 7 = 0 ∧ g < 64 ∧ (u.glove g).live = false ∧ (u.glove g).draining = false ∧ (∀ (h : Nat), h < g → (u.glove h).live = true ∨ (u.glove h).draining = true) ∧ (∀ (p : Nat), p ∈ palmSet (c.a2 ++ c.a1) → (u.palm p).glove = none ∧ (u.palm p).causes = [] ∧ (u.die (p / 16)).bring = 4) ∧ (u.keys.at (c.a3.field 0 8)).installed = true ∧ u.chooseGsq (palmSet (c.a2 ++ c.a1)) = some q) ∧
    (∃ (c : HostCmd) (s : State) (u : State), s.Accepts c 17 [bits 0 6] u ∧ u.inA = true ∧ (u.glove (c.a1.field 0 6)).live = true ∧ (u.gloveCode (c.a1.field 0 6) = 3 ∨ u.gloveCode (c.a1.field 0 6) = 5)) ∧
    (∃ (c : HostCmd) (s : State) (u : State) (i : Nat), s.Accepts c 17 [bits 0 6] u ∧ u.inA = true ∧ (u.glove (c.a1.field 0 6)).live = true ∧ u.gloveCode (c.a1.field 0 6) ≠ 3 ∧ u.gloveCode (c.a1.field 0 6) ≠ 5 ∧ u.gloveUser (c.a1.field 0 6) = some i) ∧
    (∃ (c : HostCmd) (s : State) (u : State), s.Accepts c 17 [bits 0 6] u ∧ u.inA = true ∧ (u.glove (c.a1.field 0 6)).live = true ∧ u.gloveCode (c.a1.field 0 6) ≠ 3 ∧ u.gloveCode (c.a1.field 0 6) ≠ 5 ∧ u.gloveUser (c.a1.field 0 6) = none ∧ u.serves (c.a1.field 0 6) = true) ∧
    (∃ (c : HostCmd) (s : State) (u : State), s.Accepts c 17 [bits 0 6] u ∧ u.inA = true ∧ (u.glove (c.a1.field 0 6)).live = true ∧ u.gloveCode (c.a1.field 0 6) ≠ 3 ∧ u.gloveCode (c.a1.field 0 6) ≠ 5 ∧ u.gloveUser (c.a1.field 0 6) = none ∧ u.serves (c.a1.field 0 6) = false) ∧
    (∃ (c : HostCmd) (s : State) (u : State), s.Accepts c 18 [bits 0 6] u ∧ u.inA = true ∧ (u.glove (c.a1.field 0 6)).live = true ∧ (u.glove (c.a1.field 0 6)).resetting = false) ∧
    (∃ (c : HostCmd) (s : State) (u : State), s.Accepts c 19 [bits 0 12, bits 0 12] u ∧ u.inS = true ∧ (u.glove (c.a1.field 0 6)).live = true ∧ (c.a2.field 0 12 = 0 ∨ 2048 < c.a2.field 0 12)) ∧
    (∃ (c : HostCmd) (s : State) (u : State) (o : Option Nat) (f : Nat), s.Accepts c 19 [bits 0 12, bits 0 12] u ∧ u.inS = true ∧ (u.glove (c.a1.field 0 6)).live = true ∧ 1 ≤ c.a2.field 0 12 ∧ c.a2.field 0 12 ≤ 2048 ∧ (o = u.freeRun (c.a2.field 0 12) fun f => (if c.a1.bit 6 = true then (u.frame f).stack else u.frameDie f) == c.a1.field 7 5) ∧ o = some f) ∧
    (∃ (c : HostCmd) (s : State) (u : State) (f : Nat) (n : Nat), s.Accepts c 20 [bits 0 32, allBits] u ∧ u.inS = true ∧ f = c.a1.field 0 16 ∧ n = c.a1.field 16 16 ∧ (n = 0 ∨ 65536 < f + n)) ∧
    (∃ (c : HostCmd) (s : State) (u : State) (f : Nat) (n : Nat) (g : Nat), s.Accepts c 20 [bits 0 32, allBits] u ∧ u.inS = true ∧ f = c.a1.field 0 16 ∧ n = c.a1.field 16 16 ∧ 1 ≤ n ∧ f + n ≤ 65536 ∧ (∀ (k : Nat), f ≤ k → k < f + n → (u.frame k).mode = FMode.priv ∧ (u.frame k).glove = g ∨ (u.frame k).mode = FMode.shared)) ∧
    (∃ (c : HostCmd) (s : State) (u : State) (f : Nat) (n : Nat) (g : Nat) (fs : List Nat), s.Accepts c 21 [bits 0 38] u ∧ u.inA = true ∧ (u.glove (c.a1.field 32 6)).live = true ∧ f = c.a1.field 0 16 ∧ n = c.a1.field 16 16 ∧ g = c.a1.field 32 6 ∧ (fs = List.map (fun x => f + x) (List.range n)) ∧ f + n ≤ 65536 ∧ (∀ (k : Nat), k ∈ fs → (u.frame k).mode = FMode.priv ∨ (u.frame k).mode = FMode.shared) ∧ (∃ k, k ∈ fs ∧ (u.frame k).glove ≠ g)) ∧
    (∃ (c : HostCmd) (s : State) (u : State) (f : Nat) (n : Nat) (g : Nat) (fs : List Nat), s.Accepts c 21 [bits 0 38] u ∧ u.inA = true ∧ (u.glove (c.a1.field 32 6)).live = true ∧ f = c.a1.field 0 16 ∧ n = c.a1.field 16 16 ∧ g = c.a1.field 32 6 ∧ (fs = List.map (fun x => f + x) (List.range n)) ∧ f + n ≤ 65536 ∧ (∀ (k : Nat), k ∈ fs → (u.frame k).mode = FMode.priv ∨ (u.frame k).mode = FMode.shared) ∧ (∀ (k : Nat), k ∈ fs → (u.frame k).glove = g ∧ u.frameHeld k = false)) :=
  ⟨⟨((default : HostCmd) : HostCmd), ((State.reset.wM .service) : State), (((State.reset.wM .service) : State) : State), ⟨rfl, rfl, by decide⟩, by decide⟩,
   ⟨({ (default : HostCmd) with a1 := 1 } : HostCmd), (((((((State.reset.wM .service).onGlv (0 : Nat) (fun z => { z with live := false })).onGlv (0 : Nat) (fun z => { z with draining := false })).wKey (({ (default : HostCmd) with a1 := 1 } : HostCmd).a3.field 0 8)).onDie 0 (fun z => { z with bring := 4 })).wKey 0) : State), ((((((((State.reset.wM .service).onGlv (0 : Nat) (fun z => { z with live := false })).onGlv (0 : Nat) (fun z => { z with draining := false })).wKey (({ (default : HostCmd) with a1 := 1 } : HostCmd).a3.field 0 8)).onDie 0 (fun z => { z with bring := 4 })).wKey 0) : State) : State), 0, 0, ⟨rfl, rfl, by decide⟩, by decide⟩,
   ⟨((default : HostCmd) : HostCmd), ((((State.reset.wM .service).onGlv (((default : HostCmd) : HostCmd).a1.field 0 6) (fun z => { z with live := true })).onGlv 0 (fun z => { z with resetting := true })) : State), (((((State.reset.wM .service).onGlv (((default : HostCmd) : HostCmd).a1.field 0 6) (fun z => { z with live := true })).onGlv 0 (fun z => { z with resetting := true })) : State) : State), ⟨rfl, rfl, by decide⟩, by decide⟩,
   ⟨((default : HostCmd) : HostCmd), ((((State.reset.wM .service).onGlv (((default : HostCmd) : HostCmd).a1.field 0 6) (fun z => { z with live := true })).onSeqEnt 0 (fun z => { z with st := .decode, glove := 0 })) : State), (((((State.reset.wM .service).onGlv (((default : HostCmd) : HostCmd).a1.field 0 6) (fun z => { z with live := true })).onSeqEnt 0 (fun z => { z with st := .decode, glove := 0 })) : State) : State), 0, ⟨rfl, rfl, by decide⟩, by decide⟩,
   ⟨((default : HostCmd) : HostCmd), ((((State.reset.wM .service).onGlv (((default : HostCmd) : HostCmd).a1.field 0 6) (fun z => { z with live := true })).setFld (Adr.stwGcfg 0) 45 1 1) : State), (((((State.reset.wM .service).onGlv (((default : HostCmd) : HostCmd).a1.field 0 6) (fun z => { z with live := true })).setFld (Adr.stwGcfg 0) 45 1 1) : State) : State), ⟨rfl, rfl, by decide⟩, by decide⟩,
   ⟨((default : HostCmd) : HostCmd), (((State.reset.wM .service).onGlv (((default : HostCmd) : HostCmd).a1.field 0 6) (fun z => { z with live := true })) : State), ((((State.reset.wM .service).onGlv (((default : HostCmd) : HostCmd).a1.field 0 6) (fun z => { z with live := true })) : State) : State), ⟨rfl, rfl, by decide⟩, by decide⟩,
   ⟨((default : HostCmd) : HostCmd), ((((State.reset.wM .service).onGlv (((default : HostCmd) : HostCmd).a1.field 0 6) (fun z => { z with live := true })).onGlv (((default : HostCmd) : HostCmd).a1.field 0 6) (fun z => { z with resetting := false })) : State), (((((State.reset.wM .service).onGlv (((default : HostCmd) : HostCmd).a1.field 0 6) (fun z => { z with live := true })).onGlv (((default : HostCmd) : HostCmd).a1.field 0 6) (fun z => { z with resetting := false })) : State) : State), ⟨rfl, rfl, by decide⟩, by decide⟩,
   ⟨({ (default : HostCmd) with a2 := ((0 : Word).setField 0 12 0) } : HostCmd), (((State.reset.wM .service).onGlv (({ (default : HostCmd) with a2 := ((0 : Word).setField 0 12 0) } : HostCmd).a1.field 0 6) (fun z => { z with live := true })) : State), ((((State.reset.wM .service).onGlv (({ (default : HostCmd) with a2 := ((0 : Word).setField 0 12 0) } : HostCmd).a1.field 0 6) (fun z => { z with live := true })) : State) : State), ⟨rfl, rfl, by decide⟩, by decide⟩,
   ⟨({ (default : HostCmd) with a2 := 1 } : HostCmd), ((((State.reset.wM .service).onGlv (({ (default : HostCmd) with a2 := 1 } : HostCmd).a1.field 0 6) (fun z => { z with live := true })).onMem (fun z => { z with tmap := [(0, { (default : FrameSt) with mode := .free })] })) : State), (((((State.reset.wM .service).onGlv (({ (default : HostCmd) with a2 := 1 } : HostCmd).a1.field 0 6) (fun z => { z with live := true })).onMem (fun z => { z with tmap := [(0, { (default : FrameSt) with mode := .free })] })) : State) : State), ((((((State.reset.wM .service).onGlv (({ (default : HostCmd) with a2 := 1 } : HostCmd).a1.field 0 6) (fun z => { z with live := true })).onMem (fun z => { z with tmap := [(0, { (default : FrameSt) with mode := .free })] })) : State) : State).freeRun (({ (default : HostCmd) with a2 := 1 } : HostCmd).a2.field 0 12) fun f => (if ({ (default : HostCmd) with a2 := 1 } : HostCmd).a1.bit 6 = true then ((((((State.reset.wM .service).onGlv (({ (default : HostCmd) with a2 := 1 } : HostCmd).a1.field 0 6) (fun z => { z with live := true })).onMem (fun z => { z with tmap := [(0, { (default : FrameSt) with mode := .free })] })) : State) : State).frame f).stack else (((((State.reset.wM .service).onGlv (({ (default : HostCmd) with a2 := 1 } : HostCmd).a1.field 0 6) (fun z => { z with live := true })).onMem (fun z => { z with tmap := [(0, { (default : FrameSt) with mode := .free })] })) : State) : State).frameDie f) == ({ (default : HostCmd) with a2 := 1 } : HostCmd).a1.field 7 5 : Option Nat), 0, ⟨rfl, rfl, by decide⟩, by decide, by decide, by decide, by decide, by decide +kernel, by decide⟩,
   ⟨((default : HostCmd) : HostCmd), ((State.reset.wM .service) : State), (((State.reset.wM .service) : State) : State), 0, 0, ⟨rfl, rfl, by decide⟩, by decide⟩,
   ⟨({ (default : HostCmd) with a1 := 0x10000 } : HostCmd), (((State.reset.wM .service).onMem (fun z => { z with tmap := [(0, { (default : FrameSt) with mode := .priv, glove := 0 })] })) : State), ((((State.reset.wM .service).onMem (fun z => { z with tmap := [(0, { (default : FrameSt) with mode := .priv, glove := 0 })] })) : State) : State), 0, 1, 0, ⟨rfl, rfl, by decide⟩, by decide, by decide, by decide, by decide, by decide, by intro k h1 h2; have e : k = 0 := (by omega); subst e; decide⟩,
   ⟨({ (default : HostCmd) with a1 := 0x10000 } : HostCmd), ((((State.reset.wM .service).onGlv (({ (default : HostCmd) with a1 := 0x10000 } : HostCmd).a1.field 32 6) (fun z => { z with live := true })).onMem (fun z => { z with tmap := [(0, { (default : FrameSt) with mode := .priv, glove := 1 })] })) : State), (((((State.reset.wM .service).onGlv (({ (default : HostCmd) with a1 := 0x10000 } : HostCmd).a1.field 32 6) (fun z => { z with live := true })).onMem (fun z => { z with tmap := [(0, { (default : FrameSt) with mode := .priv, glove := 1 })] })) : State) : State), 0, 1, 0, ([0] : List Nat), ⟨rfl, rfl, by decide⟩, by decide, by decide, by decide, by decide, by decide, by decide, by decide, by decide, ⟨0, by decide, by decide⟩⟩,
   ⟨((default : HostCmd) : HostCmd), (((State.reset.wM .service).onGlv (((default : HostCmd) : HostCmd).a1.field 32 6) (fun z => { z with live := true })) : State), ((((State.reset.wM .service).onGlv (((default : HostCmd) : HostCmd).a1.field 32 6) (fun z => { z with live := true })) : State) : State), 0, 0, 0, (List.map (fun x => (0 : Nat) + x) (List.range (0 : Nat)) : List Nat), ⟨rfl, rfl, by decide⟩, by decide, by decide, by decide, by decide, by decide, by decide, by decide, by first | decide | (intro a h; cases h; done) | (intro a h; subst h; decide) | (intro a b h; cases h; done) | (intros; rfl) | (intros; decide), by first | decide | (intro a h; cases h; done) | (intro a h; subst h; decide) | (intro a b h; cases h; done) | (intros; rfl) | (intros; decide)⟩⟩

theorem wit_HoldoverAndCrowns :
    (∃ (s : State), s.tick.role ≠ TRole.crown ∧ s.tick.sinceHeard < 8 * s.tick.interval) ∧
    (∃ (s : State) (cand : List (Nat × Nat)), s.tick.role ≠ TRole.crown ∧ 8 * s.tick.interval ≤ s.tick.sinceHeard ∧ cand = [] ∧ s.tick.own = TState.locked) ∧
    (∃ (s : State) (cand : List (Nat × Nat)) (p : Nat × Nat) (q : Nat × Nat), s.tick.role ≠ TRole.crown ∧ 8 * s.tick.interval ≤ s.tick.sinceHeard ∧ chooseParent cand = some p ∧ q ∈ cand) ∧
    (∃ (s : State), (s.tick.own ≠ TState.holdover ∨ s.tick.hovr < BitVec.toNat (s.reg Adr.tkeHoldlim))) ∧
    (∃ (s : State), s.tick.own = TState.holdover ∧ BitVec.toNat (s.reg Adr.tkeHoldlim) ≤ s.tick.hovr) ∧
    (∃ (s : State), s.tick.role = TRole.crown) :=
  ⟨⟨((State.reset.onTick (fun z => { z with role := TRole.worker })) : State), by decide⟩,
   ⟨((((State.reset.onTick (fun z => { z with role := TRole.worker })).onTick (fun z => { z with own := TState.locked })).onTick (fun z => { z with sinceHeard := 800000, n := 100000, role := .worker })) : State), ([] : List (Nat × Nat)), by decide⟩,
   ⟨(((State.reset.onTick (fun z => { z with role := TRole.worker })).onTick (fun z => { z with sinceHeard := 800000, n := 100000 })) : State), ([(0, 0)] : List (Nat × Nat)), ((0, 0) : Nat × Nat), ((0, 0) : Nat × Nat), by decide⟩,
   ⟨((State.reset.onTick (fun z => { z with own := TState.acquiring })) : State), by decide⟩,
   ⟨(((State.reset.onTick (fun z => { z with own := TState.holdover })).onTick (fun z => { z with hovr := 6000000000 })) : State), by decide⟩,
   ⟨((State.reset.onTick (fun z => { z with role := TRole.crown })) : State), by decide⟩⟩

theorem wit_HoldoverLimitRange :
    (∃ (half : Half) (val : Word) (w : Word) (s : State) (a : Nat), s.barOpen 0 = true ∧ w = mergeHalf half (s.reg Adr.tkeHoldlim) val ∧ 1000000 ≤ BitVec.toNat w ∧ BitVec.toNat w ≤ 6000000000 ∧ a ≠ Adr.tkeHoldlim) ∧
    (∃ (half : Half) (val : Word) (w : Word) (s : State), s.barOpen 0 = true ∧ w = mergeHalf half (s.reg Adr.tkeHoldlim) val ∧ (BitVec.toNat w < 1000000 ∨ 6000000000 < BitVec.toNat w)) :=
  ⟨⟨.whole, 1000000, (mergeHalf (.whole : Half) (((State.reset.wS) : State).reg Adr.tkeHoldlim) (1000000 : Word) : Word), ((State.reset.wS) : State), ((Adr.tkeHoldlim + 1) : Nat), by decide⟩,
   ⟨.whole, 0, (mergeHalf (.whole : Half) (((State.reset.wS) : State).reg Adr.tkeHoldlim) (0 : Word) : Word), ((State.reset.wS) : State), by decide⟩⟩

theorem wit_HostFunctionResets :
    (∃ (s : State), s.host.perst = true ∧ s.aos.stage < 5) ∧
    (∃ (s : State), s.host.perst = true ∧ 5 ≤ s.aos.stage) ∧
    (∃ (s : State), s.host.perst = false ∧ (∀ (f : Nat), 1 ≤ f → f ≤ 64 → s.ringsOf f = [] ∧ s.cqsOf f = [] ∧ s.vfGlove f = none ∧ ¬f ∈ s.host.d3)) ∧
    (∃ (vf : Nat) (s : State), (vf = 0 ∨ s.funcExists vf = false ∨ s.host.perst = true)) ∧
    (∃ (vf : Nat) (s : State), vf ≠ 0 ∧ s.funcExists vf = true ∧ s.host.perst = false ∧ s.vfGlove vf = none) ∧
    (∃ (vf : Nat) (s : State) (g : Nat), vf ≠ 0 ∧ s.funcExists vf = true ∧ s.host.perst = false ∧ s.vfGlove vf = some g ∧ (s.glove g).live = true ∧ (s.glove g).resetting = false) ∧
    (∃ (func : Nat) (s : State), (s.host.perst = true ∨ s.funcExists func = false ∨ func ∈ s.host.d3)) ∧
    (∃ (func : Nat) (s : State), s.host.perst = false ∧ s.funcExists func = true ∧ ¬func ∈ s.host.d3) ∧
    (∃ (func : Nat) (s : State) (f : Nat), func ∈ s.host.d3 ∧ f ≠ func) :=
  ⟨⟨((State.reset.onHost (fun z => { z with perst := true })) : State), by decide⟩,
   ⟨(((State.reset.onHost (fun z => { z with perst := true })).onAos (fun z => { z with stage := 5 })) : State), by decide⟩,
   ⟨((State.reset.onHost (fun z => { z with perst := false })) : State), by decide, by intro f h1 h2; revert h1; revert h2; revert f; decide⟩,
   ⟨0, State.reset, by decide⟩,
   ⟨1, ((State.reset.onHost (fun z => { z with perst := false })) : State), by decide⟩,
   ⟨1, ((((State.reset.wS.setFld (Adr.aosProf 0 0) 20 1 1).onGlv 0 fun z => { z with live := true, vf := 1 })) : State), 0, by decide⟩,
   ⟨0, ((State.reset.onHost (fun z => { z with perst := true })) : State), by decide⟩,
   ⟨0, ((State.reset.onHost (fun z => { z with perst := false })) : State), by decide⟩,
   ⟨0, ((State.reset.onHost (fun z => { z with d3 := [0] })) : State), (((0 : Nat) + 1) : Nat), by decide⟩⟩

theorem wit_KeySlotsAcrossResetsAndRungs :
    (∃ (s : State) (t : State), (exec Instr.watchdog s = Host.Outcome.next t ∨ exec Instr.refclkLoss s = Host.Outcome.next t ∨ exec Instr.rungChange s = Host.Outcome.next t ∨ exec Instr.rungEntryComplete s = Host.Outcome.next t ∨ exec Instr.rungEntryAbandon s = Host.Outcome.next t)) ∧
    (∃ (half : Half) (val : Word) (s : State) (t : State), exec (Instr.aosRstreqWrite half val) s = Host.Outcome.next t ∧ val.bit 0 = false ∧ half ≠ Half.hi) ∧
    (∃ (half : Half) (val : Word) (s : State) (t : State), exec (Instr.aosRstreqWrite half val) s = Host.Outcome.next t ∧ s.aos.asserted = false ∧ s.mstate ≠ MState.off ∧ half = Half.whole ∧ val.field 8 8 = 165 ∧ val.field 1 7 = 0 ∧ val.field 16 48 = 0 ∧ val.bit 0 = true) ∧
    (∃ (lowRc : Nat) (s : State) (t : State), s.aos.asserted = false ∧ s.mstate ≠ MState.off ∧ exec (Instr.ext lowRc) s = Host.Outcome.next t ∧ s.aos.driven = false ∧ 1000 ≤ lowRc) ∧
    (∃ (idx : Nat) (s : State) (t : State), s.aos.asserted = false ∧ s.mstate ≠ MState.off ∧ exec (Instr.rail idx) s = Host.Outcome.next t ∧ s.aos.watched = true ∧ s.aos.tripped = false) :=
  ⟨⟨State.reset, _, .inl rfl⟩,
   ⟨Half.whole, (((0 : Word).setField 0 1 0) : Word), State.reset, _, rfl, by decide⟩,
   ⟨Half.whole, ((((((0 : Word).setField 8 8 165).setField 1 7 0).setField 16 48 0).setField 0 1 1) : Word), (((State.reset.onAos (fun z => { z with asserted := false })).wM .service) : State), _, rfl, by decide⟩,
   ⟨1000, ((((State.reset.onAos (fun z => { z with asserted := false })).wM .service).onAos (fun z => { z with driven := false })) : State), _, by decide, by decide, rfl, by decide⟩,
   ⟨0, (((((State.reset.onAos (fun z => { z with asserted := false })).wM .service).onAos (fun z => { z with watched := true })).onAos (fun z => { z with tripped := false })) : State), _, by decide, by decide, rfl, by decide⟩⟩

theorem wit_LatticeCrossingsAndRepairChains :
    (∃ (die : Nat) (edge : Nat), dieBeyond die edge = none) ∧
    (∃ (die : Nat) (edge : Nat) (s : State) (o : Nat), edge < 4 ∧ dieBeyond die edge = some o ∧ s.edgeGloves die o = []) ∧
    (∃ (die : Nat) (edge : Nat) (s : State) (o : Nat) (g : Nat), dieBeyond die edge = some o ∧ s.edgeGloves die o = [g] ∧ s.patRuns g = true) ∧
    (∃ (die : Nat) (edge : Nat) (s : State) (o : Nat), edge < 4 ∧ dieBeyond die edge = some o ∧ (s.dies.at die).bring = 4 ∧ s.dieFenced die = false ∧ (s.dies.at o).bring = 4 ∧ s.dieFenced o = false) ∧
    (∃ (die : Nat) (edge : Nat) (s : State), (s.dieFenced die = true ∨ dieBeyond die edge = none)) ∧
    (∃ (die : Nat) (row : Nat) (kind : FailKind) (col : Nat) (s : State), s.arr.failed.contains (die, row, kind, col) = true) ∧
    (∃ (die : Nat) (row : Nat) (kind : FailKind) (col : Nat) (s : State), die < 8 ∧ row < 24 ∧ col ≤ 24 ∧ kind = FailKind.cell Kind.c ∧ s.arr.failed.contains (die, row, kind, col) = false ∧ (s.repair die row).cCol = none ∧ (s.repair die row).cWait = none ∧ (s.repair die row).cSpareOk = true ∧ s.chainFree die row col = true) ∧
    (∃ (die : Nat) (row : Nat) (kind : Kind) (s : State), State.chainWait (s.repair die row) kind = none) ∧
    (∃ (die : Nat) (row : Nat) (kind : Kind) (s : State) (f : Nat), State.chainWait (s.repair die row) kind = some f ∧ s.chainFree die row f = true ∧ State.spareOk (s.repair die row) kind = true) :=
  ⟨⟨0, 0, by decide⟩,
   ⟨0, 1, State.reset, 1, by decide⟩,
   ⟨0, 1, ((((State.reset.onPat (0 : Nat) (fun z => { z with valid := true })).onSeq (fun z => { z with imgs := z.imgs.put 0 { (default : ImgInfo) with dies := 3, palms := BitVec.allOnes 128 } })).onPat 0 (fun z => { z with valid := true })) : State), 1, 0, by decide⟩,
   ⟨0, 1, (((((State.reset.onDie (0 : Nat) (fun z => { z with bring := 4 })).onDie (1 : Nat) (fun z => { z with bring := 4 })).onDie 0 (fun z => { z with bring := 4 })).onDie 1 (fun z => { z with bring := 4 })) : State), 1, by decide⟩,
   ⟨0, 0, State.reset, by decide⟩,
   ⟨0, 0, .switch, 0, ((State.reset.onArr (fun z => { z with failed := [(0, 0, .switch, 0)] })) : State), by decide⟩,
   ⟨0, 0, (FailKind.cell Kind.c : FailKind), 0, ((State.reset.onArr (fun z => { z with repair := z.repair.put 0 { (default : RowRepair) with cSpareOk := true } })) : State), by decide⟩,
   ⟨0, 0, .c, State.reset, by decide⟩,
   ⟨0, 0, .c, ((State.reset.onArr (fun z => { z with repair := z.repair.put 0 { (default : RowRepair) with cSpareOk := true, cWait := some 0 } })) : State), 0, by decide⟩⟩

theorem wit_LinkFlitsAndPackets :
    (∃ (link : Nat) (s : State), s.linkUp link = false) ∧
    (∃ (link : Nat) (f : Flit) (s : State), s.linkUp link = true ∧ f.crcOk = false ∧ (s.link link).rxFails + 1 < 8) ∧
    (∃ (link : Nat) (f : Flit) (s : State), s.linkUp link = true ∧ f.crcOk = false ∧ 8 ≤ (s.link link).rxFails + 1) ∧
    (∃ (link : Nat) (f : Flit) (s : State), s.linkUp link = true ∧ f.crcOk = true ∧ f.kind = 1 ∧ f.vc ≤ 4 ∧ f.ackv = false ∧ f.seq = (s.link link).rxSeq) ∧
    (∃ (link : Nat) (f : Flit) (s : State), s.linkUp link = true ∧ f.crcOk = true ∧ f.kind = 1 ∧ f.vc ≤ 4 ∧ f.ackv = false ∧ f.seq ≠ (s.link link).rxSeq) ∧
    (∃ (link : Nat) (f : Flit) (s : State), s.linkUp link = true ∧ f.crcOk = true ∧ f.kind = 2 ∧ f.ackv = false ∧ f.nak ≠ none) ∧
    (∃ (link : Nat) (s : State), s.linkUp link = true ∧ 63 ≤ (s.link link).sinceLctl) ∧
    (∃ (link : Nat) (s : State), s.linkUp link = true ∧ (s.link link).sinceLctl < 63 ∧ 0 < (s.link link).resend) ∧
    (∃ (link : Nat) (s : State) (vc : Nat) (i : Nat) (hop : Nat) (body : List Byte), s.linkUp link = true ∧ (s.link link).sinceLctl < 63 ∧ (s.link link).resend = 0 ∧ (List.findSome? (fun vc => Option.map (fun r => (vc, r)) (s.ready link vc)) (s.vcOrder link) = some (vc, i, hop, body))) ∧
    (∃ (link : Nat) (s : State), s.linkUp link = true ∧ (s.link link).sinceLctl < 63 ∧ (s.link link).resend = 0 ∧ (List.findSome? (fun vc => Option.map (fun r => (vc, r)) (s.ready link vc)) (s.vcOrder link) = none) ∧ (s.link link).nak = false) ∧
    (∃ (link : Nat) (s : State), (s.linkUp link = false ∨ (s.link link).unacked = [])) ∧
    (∃ (link : Nat) (s : State), s.linkUp link = true ∧ (s.link link).unacked ≠ [] ∧ (s.link link).replays + 1 < 16) ∧
    (∃ (link : Nat) (s : State), s.linkUp link = true ∧ (s.link link).unacked ≠ [] ∧ 16 ≤ (s.link link).replays + 1) ∧
    (∃ (p : Packet) (s : State), s.nodeId = some p.dest) ∧
    (∃ (p : Packet) (s : State), s.nodeId ≠ some p.dest ∧ s.choices p.dest p.vc = []) ∧
    (∃ (p : Packet) (s : State), s.nodeId ≠ some p.dest ∧ s.choices p.dest p.vc ≠ [] ∧ 5 ≤ p.hop) ∧
    (∃ (p : Packet) (s : State) (c : Nat) (cs : List Nat), s.nodeId ≠ some p.dest ∧ s.choices p.dest p.vc = c :: cs ∧ p.hop < 5) :=
  ⟨⟨0, State.reset, by decide⟩,
   ⟨0, ({ (default : Flit) with crcOk := false } : Flit), ((State.reset.onLink (0 : Nat) (fun z => { z with st := .up2 })) : State), by decide⟩,
   ⟨0, ({ (default : Flit) with crcOk := false } : Flit), (((State.reset.onLink (0 : Nat) (fun z => { z with st := .up2 })).onLink 0 (fun z => { z with st := .up2, rxFails := 7 })) : State), by decide⟩,
   ⟨0, ({ (default : Flit) with crcOk := true, kind := 1, ackv := false, seq := (((State.reset.onLink (0 : Nat) (fun z => { z with st := .up2 })) : State).link (0 : Nat)).rxSeq } : Flit), ((State.reset.onLink (0 : Nat) (fun z => { z with st := .up2 })) : State), by decide⟩,
   ⟨0, ({ (default : Flit) with crcOk := true, kind := 1, seq := 1 } : Flit), ((State.reset.onLink (0 : Nat) (fun z => { z with st := .up2 })) : State), by decide⟩,
   ⟨0, ({ (default : Flit) with crcOk := true, kind := 2, ackv := false, nak := some default } : Flit), ((State.reset.onLink (0 : Nat) (fun z => { z with st := .up2 })) : State), by decide⟩,
   ⟨0, (((State.reset.onLink (0 : Nat) (fun z => { z with st := .up2 })).onLink (0 : Nat) (fun z => { z with sinceLctl := 63 })) : State), by decide⟩,
   ⟨0, (((State.reset.onLink (0 : Nat) (fun z => { z with st := .up2 })).onLink (0 : Nat) (fun z => { z with resend := 1 })) : State), by decide⟩,
   ⟨0, ((((State.reset.onLink (0 : Nat) (fun z => { z with st := .up2 })).onLink (0 : Nat) (fun z => { z with resend := 0 })).onLink 0 (fun z => { z with txq := [(0, 0, [])] })) : State), 0, 0, 0, ([] : List Byte), by decide⟩,
   ⟨0, ((((State.reset.onLink (0 : Nat) (fun z => { z with st := .up2 })).onLink (0 : Nat) (fun z => { z with resend := 0 })).onLink (0 : Nat) (fun z => { z with nak := false })) : State), by decide⟩,
   ⟨0, State.reset, by decide⟩,
   ⟨0, (((State.reset.onLink (0 : Nat) (fun z => { z with st := .up2 })).onLink (0 : Nat) (fun z => { z with unacked := [default] })) : State), by decide⟩,
   ⟨0, ((((State.reset.onLink (0 : Nat) (fun z => { z with st := .up2 })).onLink (0 : Nat) (fun z => { z with unacked := [default] })).onLink 0 (fun z => { z with replays := 15 })) : State), by decide⟩,
   ⟨default, ((State.reset.wId (some (default : Packet).dest)) : State), by decide⟩,
   ⟨default, State.reset, by decide⟩,
   ⟨({ (default : Packet) with hop := 5 } : Packet), ((((State.reset.setReg (Adr.rte 0) 0x80).onLink 0 (fun z => { z with st := .up2 })).wId (some 1)) : State), by decide⟩,
   ⟨((default : Packet) : Packet), ((((State.reset.setReg (Adr.rte 0) 0x80).onLink 0 (fun z => { z with st := .up2 })).wId (some 1)) : State), 0, ([] : List Nat), by decide⟩⟩

theorem wit_LinkTrainingAndLanes :
    (∃ (link : Nat) (s : State), (96 ≤ link ∨ (s.link link).st ≠ LnkState.down ∨ s.fld (Adr.lnkCfg link) 0 1 = 0 ∨ s.mstate = MState.off ∨ s.mstate = MState.reset)) ∧
    (∃ (link : Nat) (s : State), link < 96 ∧ (s.link link).st = LnkState.down ∧ s.fld (Adr.lnkCfg link) 0 1 ≠ 0 ∧ s.mstate ≠ MState.off ∧ s.mstate ≠ MState.reset) ∧
    (∃ (link : Nat) (s : State), (s.link link).st ≠ LnkState.training) ∧
    (∃ (link : Nat) (lanes : Nat) (s : State), (s.link link).st = LnkState.training ∧ lanes % 4 = 0) ∧
    (∃ (link : Nat) (lanes : Nat) (s : State), (s.link link).st = LnkState.training ∧ lanes % 4 ≠ 0) ∧
    (∃ (link : Nat) (s : State), (s.link link).st ≠ LnkState.up2 ∧ (s.link link).st ≠ LnkState.up1) ∧
    (∃ (link : Nat) (s : State), (s.link link).st = LnkState.up2) ∧
    (∃ (link : Nat) (lane : Nat) (s : State), (s.link link).st = LnkState.up1 ∧ lane ≠ (s.link link).lane) ∧
    (∃ (link : Nat) (lane : Nat) (s : State), (s.link link).st = LnkState.up1 ∧ lane = (s.link link).lane) ∧
    (∃ (link : Nat) (s : State), (s.rung.rung < 2 ∨ 96 ≤ link ∨ (s.link link).st ≠ LnkState.down)) ∧
    (∃ (link : Nat) (s : State), 2 ≤ s.rung.rung ∧ link < 88 ∧ (s.link link).st = LnkState.down ∧ s.fld (Adr.lnkCfg link) 0 1 = 1) ∧
    (∃ (link : Nat) (s : State), 2 ≤ s.rung.rung ∧ link < 88 ∧ (s.link link).st = LnkState.down ∧ s.fld (Adr.lnkCfg link) 0 1 ≠ 1) ∧
    (∃ (link : Nat) (s : State), 2 ≤ s.rung.rung ∧ 88 ≤ link ∧ link < 96 ∧ (s.link link).st = LnkState.down ∧ s.rung.entering = none ∧ s.fld Adr.tkeWake 1 1 = 1) ∧
    (∃ (link : Nat) (s : State), s.linkUp link = false) ∧
    (∃ (link : Nat) (s : State), s.linkUp link = true) ∧
    (∃ (link : Nat), 96 ≤ link) ∧
    (∃ (link : Nat) (val : Word) (s : State) (v : Word), v = ((s.reg (Adr.lnkCfg link)).setField 0 1 (val.field 0 1)).setField 2 16 (if val.field 2 16 = 0 then (s.reg (Adr.lnkCfg link)).field 2 16 else val.field 2 16) ∧ link < 96 ∧ val.bit 0 = false ∧ ((s.link link).st = LnkState.down ∨ (s.link link).st = LnkState.fenced)) ∧
    (∃ (link : Nat) (val : Word) (s : State) (v : Word), v = ((s.reg (Adr.lnkCfg link)).setField 0 1 (val.field 0 1)).setField 2 16 (if val.field 2 16 = 0 then (s.reg (Adr.lnkCfg link)).field 2 16 else val.field 2 16) ∧ link < 96 ∧ val.bit 0 = false ∧ (s.link link).st ≠ LnkState.down ∧ (s.link link).st ≠ LnkState.fenced) ∧
    (∃ (link : Nat) (val : Word) (s : State) (v : Word), v = ((s.reg (Adr.lnkCfg link)).setField 0 1 (val.field 0 1)).setField 2 16 (if val.field 2 16 = 0 then (s.reg (Adr.lnkCfg link)).field 2 16 else val.field 2 16) ∧ link < 96 ∧ val.bit 0 = true) :=
  ⟨⟨96, State.reset, by decide⟩,
   ⟨0, ((((State.reset.onLink (0 : Nat) (fun z => { z with st := LnkState.down })).setFld (Adr.lnkCfg (0 : Nat)) 0 1 1).wM .service) : State), by decide⟩,
   ⟨0, ((State.reset.onLink (0 : Nat) (fun z => { z with st := LnkState.up2 })) : State), by decide⟩,
   ⟨0, 0, ((State.reset.onLink (0 : Nat) (fun z => { z with st := LnkState.training })) : State), by decide⟩,
   ⟨0, 1, ((State.reset.onLink (0 : Nat) (fun z => { z with st := LnkState.training })) : State), by decide⟩,
   ⟨0, ((State.reset.onLink (0 : Nat) (fun z => { z with st := LnkState.down })) : State), by decide⟩,
   ⟨0, ((State.reset.onLink (0 : Nat) (fun z => { z with st := LnkState.up2 })) : State), by decide⟩,
   ⟨0, (((((State.reset.onLink (0 : Nat) (fun z => { z with st := LnkState.up1 })) : State).link (0 : Nat)).lane + 1) : Nat), ((State.reset.onLink (0 : Nat) (fun z => { z with st := LnkState.up1 })) : State), by decide⟩,
   ⟨0, ((((State.reset.onLink (0 : Nat) (fun z => { z with st := LnkState.up1 })) : State).link (0 : Nat)).lane : Nat), ((State.reset.onLink (0 : Nat) (fun z => { z with st := LnkState.up1 })) : State), by decide⟩,
   ⟨0, State.reset, by decide⟩,
   ⟨0, ((((State.reset.onRung (fun z => { z with rung := 2 })).onLink (0 : Nat) (fun z => { z with st := LnkState.down })).setFld (Adr.lnkCfg (0 : Nat)) 0 1 1) : State), by decide⟩,
   ⟨0, (((((State.reset.onRung (fun z => { z with rung := 2 })).onLink (0 : Nat) (fun z => { z with st := LnkState.down })).onRung (fun z => { z with rung := 2 })).setFld (Adr.lnkCfg 0) 0 1 0) : State), by decide⟩,
   ⟨88, (((((State.reset.onRung (fun z => { z with rung := 2 })).onLink (88 : Nat) (fun z => { z with st := LnkState.down })).onRung (fun z => { z with entering := none })).setFld Adr.tkeWake 1 1 1) : State), by decide⟩,
   ⟨0, State.reset, by decide⟩,
   ⟨0, ((State.reset.onLink (0 : Nat) (fun z => { z with st := .up2 })) : State), by decide⟩,
   ⟨96, by decide⟩,
   ⟨0, (((0 : Word).setField 0 1 0) : Word), ((State.reset.onLink (0 : Nat) (fun z => { z with st := LnkState.down })) : State), (((((State.reset.onLink (0 : Nat) (fun z => { z with st := LnkState.down })) : State).reg (Adr.lnkCfg (0 : Nat))).setField 0 1 ((((0 : Word).setField 0 1 0) : Word).field 0 1)).setField 2 16 (if (((0 : Word).setField 0 1 0) : Word).field 2 16 = 0 then (((State.reset.onLink (0 : Nat) (fun z => { z with st := LnkState.down })) : State).reg (Adr.lnkCfg (0 : Nat))).field 2 16 else (((0 : Word).setField 0 1 0) : Word).field 2 16) : Word), by decide⟩,
   ⟨0, (((0 : Word).setField 0 1 0) : Word), ((State.reset.onLink (0 : Nat) (fun z => { z with st := LnkState.up2 })) : State), (((((State.reset.onLink (0 : Nat) (fun z => { z with st := LnkState.up2 })) : State).reg (Adr.lnkCfg (0 : Nat))).setField 0 1 ((((0 : Word).setField 0 1 0) : Word).field 0 1)).setField 2 16 (if (((0 : Word).setField 0 1 0) : Word).field 2 16 = 0 then (((State.reset.onLink (0 : Nat) (fun z => { z with st := LnkState.up2 })) : State).reg (Adr.lnkCfg (0 : Nat))).field 2 16 else (((0 : Word).setField 0 1 0) : Word).field 2 16) : Word), by decide⟩,
   ⟨0, (((0 : Word).setField 0 1 1) : Word), State.reset, ((((State.reset : State).reg (Adr.lnkCfg (0 : Nat))).setField 0 1 ((((0 : Word).setField 0 1 1) : Word).field 0 1)).setField 2 16 (if (((0 : Word).setField 0 1 1) : Word).field 2 16 = 0 then ((State.reset : State).reg (Adr.lnkCfg (0 : Nat))).field 2 16 else (((0 : Word).setField 0 1 1) : Word).field 2 16) : Word), by decide⟩⟩

theorem wit_ManagersEpochsAndRelays :
    (∃ (e : Word) (s : State), BitVec.toNat (s.reg Adr.mgrEpoch) ≤ BitVec.toNat e ∧ (e = s.reg Adr.mgrEpoch ∨ s.net.role ≠ 1)) ∧
    (∃ (e : Word) (s : State), BitVec.toNat (s.reg Adr.mgrEpoch) < BitVec.toNat e ∧ s.net.role = 1) ∧
    (∃ (s : State), s.net.role ≠ 2) ∧
    (∃ (s : State), s.net.role = 2) ∧
    (∃ (c : HostCmd), c.epoch = none) ∧
    (∃ (c : HostCmd) (s : State) (e : Word), c.epoch = some e ∧ BitVec.toNat e < BitVec.toNat (s.reg Adr.mgrEpoch)) ∧
    (∃ (op : Nat) (c : HostCmd) (s : State) (e : Word), c.epoch = some e ∧ BitVec.toNat (s.reg Adr.mgrEpoch) ≤ BitVec.toNat e ∧ (s.net.role = 1 → e = s.reg Adr.mgrEpoch) ∧ op = 1) ∧
    (∃ (s : State), s.net.role ≠ 1) ∧
    (∃ (c : RelayedCpl) (s : State), s.net.role = 1 ∧ (List.find? (fun r => r.fst == c.node && r.snd.snd.tag == c.tag) s.net.relayed = none)) ∧
    (∃ (c : RelayedCpl) (s : State) (r : Nat × Nat × HostCmd), s.net.role = 1 ∧ (List.find? (fun r => r.fst == c.node && r.snd.snd.tag == c.tag) s.net.relayed = some r) ∧ (List.find? (fun x => x.cmd == r.snd.snd) s.net.routing = none)) ∧
    (∃ (c : RelayedCpl) (s : State) (r : Nat × Nat × HostCmd) (x : RouteSt), s.net.role = 1 ∧ (List.find? (fun r => r.fst == c.node && r.snd.snd.tag == c.tag) s.net.relayed = some r) ∧ (List.find? (fun x => x.cmd == r.snd.snd) s.net.routing = some x) ∧ c.status = stOK) :=
  ⟨⟨(BitVec.ofNat _ (BitVec.toNat ((State.reset : State).reg Adr.mgrEpoch)) : Word), State.reset, by decide⟩,
   ⟨(BitVec.ofNat _ (BitVec.toNat (((State.reset.onNet (fun z => { z with role := 1 })) : State).reg Adr.mgrEpoch) + 1) : Word), ((State.reset.onNet (fun z => { z with role := 1 })) : State), by decide⟩,
   ⟨State.reset, by decide⟩,
   ⟨((State.reset.onNet (fun z => { z with role := 2 })) : State), by decide⟩,
   ⟨({ (default : HostCmd) with epoch := none } : HostCmd), by decide⟩,
   ⟨({ (default : HostCmd) with epoch := some (0 : Word) } : HostCmd), State.reset, 0, by decide⟩,
   ⟨1, ({ (default : HostCmd) with epoch := some (BitVec.ofNat _ (BitVec.toNat ((State.reset : State).reg Adr.mgrEpoch)) : Word) } : HostCmd), State.reset, (BitVec.ofNat _ (BitVec.toNat ((State.reset : State).reg Adr.mgrEpoch)) : Word), by decide⟩,
   ⟨State.reset, by decide⟩,
   ⟨default, ((State.reset.onNet (fun z => { z with role := 1 })) : State), by decide⟩,
   ⟨default, (((State.reset.onNet (fun z => { z with role := 1 })).onNet (fun z => { z with relayed := [(0, 0, default)] })) : State), ((0, 0, default) : Nat × Nat × HostCmd), by decide⟩,
   ⟨({ (default : RelayedCpl) with status := stOK } : RelayedCpl), (((State.reset.onNet (fun z => { z with role := 1 })).onNet (fun z => { z with relayed := [(0, 0, default)], routing := [default] })) : State), ((0, 0, default) : Nat × Nat × HostCmd), default, by decide⟩⟩

theorem wit_MemoryErrorsAndFences :
    (∃ (frame : Nat) (s : State), (s.frame frame).mode = FMode.absent) ∧
    (∃ (frame : Nat) (unit : Nat) (rr : Bool) (s : State) (f : Nat), (s.frame frame).mode ≠ FMode.absent ∧ rr = false ∧ ¬(frame, unit) ∈ (s.stack (s.frame frame).stack).poisonList ∧ (s.stack (s.frame frame).stack).poisonList.length < 64 ∧ f ≠ frame) ∧
    (∃ (part : Nat) (idx : Nat) (s : State), part = 2 ∧ idx < s.variant.hbmStacks ∧ (s.stack idx).retired = false) ∧
    (∃ (part : Nat) (idx : Nat) (s : State), part = 3 ∧ s.portSt false idx ≠ PortState.absent ∧ s.portSt false idx ≠ PortState.fenced ∧ s.fld Adr.rasCethr 0 16 = 0) ∧
    (∃ (part : Nat) (idx : Nat) (s : State), part = 4 ∧ s.portSt true idx ≠ PortState.absent ∧ s.portSt true idx ≠ PortState.fenced ∧ s.fld Adr.rasCethr 32 8 = 0) ∧
    (∃ (part : Nat), (part < 2 ∨ 4 < part)) ∧
    (∃ (frame : Nat) (s : State), ¬frame ∈ s.mem.retireWait) ∧
    (∃ (frame : Nat) (s : State) (b : Nat), frame ∈ s.mem.retireWait ∧ (s.frame frame).mode ≠ FMode.absent ∧ (Option.map (fun x => x.fst) (List.find? (fun p => p.fst != frame && p.snd.mode == FMode.free && s.stackDie p.snd.stack == s.frameDie frame && (p.snd.stack == (s.frame frame).stack || decide ((s.stack p.snd.stack).poisonList.length + (List.filter (fun q => decide (q.fst = frame)) (s.stack (s.frame frame).stack).poisonList).length ≤ 64))) s.mem.tmap) = some b)) ∧
    (∃ (chan : Nat) (s : State), (s.portSt false chan = PortState.absent ∨ s.portSt false chan = PortState.fenced)) ∧
    (∃ (chan : Nat) (s : State), s.portSt false chan ≠ PortState.absent ∧ s.portSt false chan ≠ PortState.fenced ∧ s.extentsOn false chan = [] ∧ s.mem.relocs = [] ∧ (∀ (r : MigReq), r ∈ s.mem.queue → r.op ≠ 3)) ∧
    (∃ (port : Nat) (s : State), (s.portSt true port = PortState.absent ∨ s.portSt true port = PortState.fenced)) ∧
    (∃ (port : Nat) (s : State), s.portSt true port ≠ PortState.absent ∧ s.portSt true port ≠ PortState.fenced ∧ s.extentsOn true port = [] ∧ s.mem.relocs = [] ∧ (∀ (r : MigReq), r ∈ s.mem.queue → r.op ≠ 3)) ∧
    (∃ (port : Nat) (ok : Bool) (s : State) (a : Nat), s.portSt true port ≠ PortState.absent ∧ s.portSt true port ≠ PortState.fenced ∧ ok = true ∧ a ≠ Adr.dppCntCmd port) ∧
    (∃ (n : Nat) (s : State), (s.variant.hbmStacks ≤ n ∨ (s.stack n).retired = true)) ∧
    (∃ (n : Nat) (s : State) (x : Nat) (k : Nat), n < s.variant.hbmStacks ∧ (s.stack n).retired = false ∧ s.mem.tmap = [] ∧ s.stw.nodes = [] ∧ x < s.variant.perDie ∧ x + s.variant.perDie * s.stackDie n ≠ n ∧ (s.stack (x + s.variant.perDie * s.stackDie n)).retired = false ∧ State.fittedDies.all s.dieFenced = false ∧ s.aos.iodFenced = [] ∧ k ≠ n) ∧
    (∃ (die : Nat) (s : State), (8 ≤ die ∨ (s.die die).fullFence = true)) ∧
    (∃ (die : Nat) (s : State) (k : Nat), die < 8 ∧ (s.die die).fullFence = false ∧ k ≠ die) :=
  ⟨⟨0, ((State.reset.onFrame (0 : Nat) (fun z => { z with mode := FMode.absent })) : State), by decide⟩,
   ⟨0, 0, false, ((State.reset.onFrame (0 : Nat) (fun z => { z with mode := FMode.priv })) : State), (((0 : Nat) + 1) : Nat), by decide⟩,
   ⟨2, 0, ((State.reset.onStack (0 : Nat) (fun z => { z with retired := false })) : State), by decide⟩,
   ⟨3, 0, (((State.reset.setFld Adr.rasCethr 0 16 0).onMem (fun z => { z with ddr := z.ddr.put 0 { (default : DdrSt) with st := .active } })) : State), by decide⟩,
   ⟨4, 0, (((State.reset.setFld Adr.rasCethr 32 8 0).onMem (fun z => { z with dpp := z.dpp.put 0 { (default : DppSt) with st := .active } })) : State), by decide⟩,
   ⟨0, by decide⟩,
   ⟨0, State.reset, by decide⟩,
   ⟨0, (((State.reset.onFrame (0 : Nat) (fun z => { z with mode := FMode.priv })).onMem (fun z => { z with retireWait := [0], tmap := [(0, { (default : FrameSt) with mode := .priv }), (1, { (default : FrameSt) with mode := .free })] })) : State), 1, by decide⟩,
   ⟨0, State.reset, by decide⟩,
   ⟨0, (((State.reset.onMem (fun z => { z with relocs := [] })).onMem (fun z => { z with ddr := z.ddr.put 0 { (default : DdrSt) with st := .active } })) : State), by decide, by decide, by decide, by decide, by first | decide | (intro a h; cases h; done) | (intro a h; subst h; decide) | (intro a b h; cases h; done) | (intros; rfl) | (intros; decide)⟩,
   ⟨0, State.reset, by decide⟩,
   ⟨0, (((State.reset.onMem (fun z => { z with relocs := [] })).onMem (fun z => { z with dpp := z.dpp.put 0 { (default : DppSt) with st := .active } })) : State), by decide, by decide, by decide, by decide, by first | decide | (intro a h; cases h; done) | (intro a h; subst h; decide) | (intro a b h; cases h; done) | (intros; rfl) | (intros; decide)⟩,
   ⟨0, true, ((State.reset.onMem (fun z => { z with dpp := z.dpp.put 0 { (default : DppSt) with st := .active } })) : State), ((Adr.dppCntCmd (0 : Nat) + 1) : Nat), by decide⟩,
   ⟨0, ((State.reset.onStack 0 (fun z => { z with retired := true })) : State), by decide⟩,
   ⟨0, ((((((State.reset.onStack (0 : Nat) (fun z => { z with retired := false })).onMem (fun z => { z with tmap := [] })).onStw (fun z => { z with nodes := [] })).onStack ((1 : Nat) + State.reset.variant.perDie * State.reset.stackDie (0 : Nat)) (fun z => { z with retired := false })).onAos (fun z => { z with iodFenced := [] })) : State), 1, 1, by decide⟩,
   ⟨8, State.reset, by decide⟩,
   ⟨0, ((State.reset.onDie (0 : Nat) (fun z => { z with fullFence := false })) : State), (((0 : Nat) + 1) : Nat), by decide⟩⟩

theorem wit_MemoryPartsTrained :
    (∃ (deep : Bool) (idx : Nat) (s : State), (if deep = true then (s.mem.dpp.at idx).returnCmd else (s.mem.ddr.at idx).returnCmd) = none) ∧
    (∃ (deep : Bool) (idx : Nat) (ok : Bool) (info : DimmInfo) (s : State) (c : HostCmd), deep = false ∧ (s.mem.ddr.at idx).returnCmd = some c ∧ ok = true ∧ (∀ (p : Nat × DdrSt), p ∈ s.mem.ddr → p.fst ≠ idx → p.snd.st ≠ PortState.absent → p.snd.mismatch = false → p.snd.mrdimm = info.mrdimm ∧ p.snd.speed = info.speed)) ∧
    (∃ (deep : Bool) (idx : Nat) (ok : Bool) (s : State) (c : HostCmd), deep = true ∧ (s.mem.dpp.at idx).returnCmd = some c ∧ ok = true) ∧
    (∃ (die : Nat) (entry : Nat) (block : Nat) (glove : Nat) (s : State), (s.prtFld die entry 3 63 1 = 0 ∨ s.prtFld die entry 3 56 6 ≠ glove ∨ s.prtFld die entry 1 0 32 ≤ block ∨ 64 ≤ entry)) ∧
    (∃ (port : Nat) (s : State), (4 ≤ port ∨ s.inA = false ∨ s.prof 0 19 1 = 0 ∨ s.aos.iodFenced.contains port = true)) ∧
    (∃ (port : Nat) (s : State), port < 4 ∧ s.inA = true ∧ s.prof 0 19 1 ≠ 0 ∧ s.aos.iodFenced.contains port = false ∧ (s.mem.dpp.at port).st = PortState.absent) ∧
    (∃ (n : Nat) (s : State), (s.die (s.stackDie n)).bring ≠ 2) ∧
    (∃ (n : Nat) (ok : Bool) (s : State), n < s.variant.hbmStacks ∧ (s.die (s.stackDie n)).bring = 2 ∧ (s.stack n).trained = false ∧ (s.stack n).retired = false ∧ s.dieFenced (s.stackDie n) = false ∧ ok = true) ∧
    (∃ (n : Nat) (ok : Bool) (s : State), n < s.variant.hbmStacks ∧ (s.die (s.stackDie n)).bring = 2 ∧ (s.stack n).trained = false ∧ (s.stack n).retired = false ∧ s.dieFenced (s.stackDie n) = false ∧ ok = false ∧ (s.stack n).tries + 1 < 3) ∧
    (∃ (s : State), (s.aos.stage < 5 ∨ s.aos.wideTrained = true)) ∧
    (∃ (dimms : List DimmInfo) (s : State) (d : DimmInfo), 5 ≤ s.aos.stage ∧ s.aos.wideTrained = false ∧ dimms = [d] ∧ d.channel < s.variant.channels ∧ d.trained = true ∧ s.portSt false d.channel ≠ PortState.fenced ∧ s.aos.pllBad.contains (PllPart.ddr (d.channel / 6)) = false ∧ s.aos.iodFenced.contains (d.channel / 6) = false) :=
  ⟨⟨false, 0, State.reset, by decide⟩,
   ⟨false, 0, true, default, ((State.reset.onMem (fun z => { z with ddr := [(0, { (default : DdrSt) with returnCmd := some default })] })) : State), ((default : HostCmd) : HostCmd), by decide, by decide, by decide, by first | decide | (intro a h; cases h; done) | (intro a h; subst h; decide) | (intro a b h; cases h; done) | (intros; rfl) | (intros; decide)⟩,
   ⟨true, 0, true, ((State.reset.onMem (fun z => { z with dpp := [(0, { (default : DppSt) with returnCmd := some default })] })) : State), ((default : HostCmd) : HostCmd), by decide⟩,
   ⟨0, 0, 0, 0, State.reset, by decide⟩,
   ⟨4, State.reset, by decide⟩,
   ⟨0, ((State.reset.wM .service) : State), by decide⟩,
   ⟨0, State.reset, by decide⟩,
   ⟨0, true, ((((State.reset.onDie (State.reset.stackDie (0 : Nat)) (fun z => { z with bring := 2 })).onStack (0 : Nat) (fun z => { z with trained := false })).onStack (0 : Nat) (fun z => { z with retired := false })) : State), by decide⟩,
   ⟨0, false, ((((State.reset.onDie (State.reset.stackDie (0 : Nat)) (fun z => { z with bring := 2 })).onStack (0 : Nat) (fun z => { z with trained := false })).onStack (0 : Nat) (fun z => { z with retired := false })) : State), by decide⟩,
   ⟨State.reset, by decide⟩,
   ⟨([({ (default : DimmInfo) with trained := true } : DimmInfo)] : List DimmInfo), (((State.reset.onAos (fun z => { z with stage := 5 })).onAos (fun z => { z with wideTrained := false })) : State), ({ (default : DimmInfo) with trained := true } : DimmInfo), by decide⟩⟩

theorem wit_MigrationRequests :
    (∃ (s : State), s.mem.waiting = []) ∧
    (∃ (s : State), 256 ≤ s.mem.queue.length) ∧
    (∃ (s : State) (r : MigReq) (rest : List MigReq) (q : Nat) (gd : Nat), s.mem.waiting = r :: rest ∧ s.mem.queue.length < 256 ∧ r.op = 1 ∧ r.from_ = MigFrom.gsq q gd ∧ s.waitsSeal q = true ∧ (∀ (x : MigReq), x ∈ s.mem.queue → x.ident ≠ r.ident) ∧ ((s.onMem fun m => { tmap := m.tmap, near := m.near, nearTag := m.nearTag, wide := m.wide, deep := m.deep, hbmStacks := m.hbmStacks, ddr := m.ddr, dpp := m.dpp, extents := m.extents, extFreed := m.extFreed, extNext := m.extNext, queue := m.queue, waiting := rest, nextReq := m.nextReq, catalogue := m.catalogue, catalogueOk := m.catalogueOk, sysFrames := m.sysFrames, pairs := m.pairs, single := m.single, retireWait := m.retireWait, heldWrites := m.heldWrites, relocs := m.relocs, lz2Glove := m.lz2Glove, lz2Size := m.lz2Size, lz2Frames := m.lz2Frames, lz2Pages := m.lz2Pages, lz2Clock := m.lz2Clock, lz2Wait := m.lz2Wait, lz2Fills := m.lz2Fills, lz2Seals := m.lz2Seals }).migCheck r = 0) ∧ gd ≠ 0) ∧
    (∃ (tier : Nat) (s : State) (r : MigReq), s.rung.rung < 2 ∧ s.rung.entering = none ∧ (∀ (x : MigReq), x ∈ s.mem.queue → s.sourceTier x = tier → x.moving = false) ∧ s.mem.relocs = [] ∧ (State.firstReq (List.filter (fun r => !r.moving && s.gateOpen r) (List.filter (fun r => s.sourceTier r == tier && !r.op == 4) s.mem.queue)) = some r)) ∧
    (∃ (tier : Nat) (s : State), tier = 0 ∧ s.mem.queue = []) ∧
    (∃ (tier : Nat) (s : State) (x : Reloc), s.rung.rung < 2 ∧ s.rung.entering = none ∧ tier ≠ 0 ∧ s.mem.queue = [] ∧ s.mem.relocs = [] ∧ s.nextReloc (tier == 2) = some x) ∧
    (∃ (frame : Nat) (unit : Nat) (s : State), (∃ r, r ∈ s.mem.queue ∧ State.covers r frame unit = true ∧ r.moving = false ∧ ¬(frame, unit) ∈ r.ahead) ∧ (s.frame frame).hold = true) ∧
    (∃ (frame : Nat) (unit : Nat) (s : State) (mask : Nat) (bits : Nat) (drain : Bool), s.mem.queue = [] ∧ (List.filter (fun w => decide (w.frame = frame ∧ w.unit = unit)) s.mem.heldWrites = [{ frame := frame, unit := unit, mask := mask, bits := bits, drain := drain }])) ∧
    (∃ (ident : Nat) (s : State), s.movingReq ident 1 = none) ∧
    (∃ (ident : Nat) (io : Bool) (s : State) (r : MigReq) (q : Nat) (gd : Nat), s.movingReq ident 1 = some r ∧ r.from_ = MigFrom.gsq q gd ∧ r.done = none ∧ (∀ (g : Nat), (s.glove g).draining = false) ∧ s.keyOk r.system r.key = true ∧ io = false ∧ s.chunksFenced (s.extent r.slot).deep (s.extent r.slot).chunks = false ∧ s.rangePoisoned r.nta r.len = false ∧ (s.extent r.slot).dying = false ∧ (s.extent r.slot).durable = false) ∧
    (∃ (ident : Nat) (s : State), s.movingReq ident 2 = none) ∧
    (∃ (ident : Nat) (io : Bool) (s : State) (r : MigReq) (q : Nat) (gd : Nat) (u : State), s.movingReq ident 2 = some r ∧ r.from_ = MigFrom.gsq q gd ∧ r.done = none ∧ r.placed = false ∧ s.keyOk (r.system || (s.extent r.slot).system) (if r.system = true then (s.extent r.slot).key else r.key) = true ∧ (s.extent r.slot).st ≠ ExtState.lost ∧ io = false ∧ s.copyUnits (taOfs r.nta) (State.reqAccess r) (chunk 64 (s.extBytes r.slot r.arg r.len)) = (u, stOK) ∧ u.rangeHeld r = false ∧ (u.extent r.slot).dying = false) ∧
    (∃ (ident : Nat) (s : State), s.movingReq ident 3 = none) ∧
    (∃ (ident : Nat) (io : Bool) (s : State) (r : MigReq) (q : Nat) (gd : Nat), s.movingReq ident 3 = some r ∧ r.from_ = MigFrom.gsq q gd ∧ r.done = none ∧ (s.extent r.slot).copies = 0 ∧ s.keyOk r.system r.key = true ∧ (s.extent r.slot).st ≠ ExtState.lost ∧ io = false ∧ (s.extent r.slot).dying = false) ∧
    (∃ (deep : Bool) (s : State), s.relocOf deep = none) ∧
    (∃ (deep : Bool) (idx : Nat) (slot : Nat) (chunk : Nat) (s : State) (r : Reloc) (k : Nat), s.relocOf deep = some r ∧ r.moving = true ∧ r.slot = slot ∧ r.old = (idx, chunk) ∧ (s.extent slot).copies = 0 ∧ k ≠ slot) ∧
    (∃ (page : Nat) (s : State), (s.mem.lz2Glove = none ∨ s.mem.lz2Size ≤ 2 ^ 21 * page ∨ (s.lz2Page page).at_.isSome = true)) ∧
    (∃ (page : Nat) (s : State) (a : Nat), s.mem.lz2Glove ≠ none ∧ 2 ^ 21 * page < s.mem.lz2Size ∧ (s.lz2Page page).at_ = none ∧ s.lz2Served page = false ∧ s.lz2Free = some a ∧ (s.lz2Page page).extent = none) :=
  ⟨⟨((State.reset.onMem (fun z => { z with waiting := [] })) : State), by decide⟩,
   ⟨((State.reset.onMem (fun z => { z with queue := List.replicate 256 default })) : State), by decide⟩,
   ⟨(((((State.reset.onMem (fun z => { z with waiting := ({ (default : MigReq) with op := 1, from_ := .gsq 0 1, system := true, nta := 0x10000000000000, len := 64 } : MigReq) :: ([] : List MigReq) })).onGsq 0 (fun z => { z with waitFor := some (.sealAccept default default) })).onMem (fun z => { z with tmap := [(0, { (default : FrameSt) with mode := .system })], ddr := [(0, { (default : DdrSt) with st := .active, capGB := 64 })] })).onMem (fun z => { z with waiting := [{ (default : MigReq) with op := 1, from_ := .gsq 0 1, system := true, nta := 0x10000000000000, len := 64 }] })) : State), ({ (default : MigReq) with op := 1, from_ := .gsq 0 1, system := true, nta := 0x10000000000000, len := 64 } : MigReq), ([] : List MigReq), 0, 1, by decide, by decide, by decide, by decide, by decide, by first | decide | (intro a h; cases h; done) | (intro a h; subst h; decide) | (intro a b h; cases h; done) | (intros; rfl) | (intros; decide), by decide⟩,
   ⟨0, ((((State.reset.onRung (fun z => { z with entering := none })).onMem (fun z => { z with relocs := [] })).onMem (fun z => { z with queue := [{ (default : MigReq) with op := 1 }] })) : State), ({ (default : MigReq) with op := 1 } : MigReq), by decide, by decide, by first | decide | (intro a h; cases h; done) | (intro a h; subst h; decide) | (intro a b h; cases h; done) | (intros; rfl) | (intros; decide), by decide⟩,
   ⟨0, ((State.reset.onMem (fun z => { z with queue := [] })) : State), by decide⟩,
   ⟨1, (((((State.reset.onRung (fun z => { z with entering := none })).onMem (fun z => { z with queue := [] })).onMem (fun z => { z with relocs := [] })).onMem (fun z => { z with extents := [(0, { (default : ExtentSt) with st := .sealed, chunks := [(0, 0)] })], ddr := [(0, { (default : DdrSt) with st := .draining, capGB := 64 }), (1, { (default : DdrSt) with st := .active, capGB := 64 })] })) : State), ((⟨false, 0, (0, 0), (1, 0), true⟩ : Reloc) : Reloc), by decide⟩,
   ⟨0, 0, (((State.reset.onFrame (0 : Nat) (fun z => { z with hold := true })).onMem (fun z => { z with queue := [{ (default : MigReq) with op := 1, nta := 0x10000000000000, len := 64 }] })) : State), ⟨_, List.mem_singleton.2 rfl, by decide⟩, by decide⟩,
   ⟨0, 0, (((State.reset.onMem (fun z => { z with queue := [] })).onMem (fun z => { z with heldWrites := [⟨0, 0, 0, 0, false⟩] })) : State), 0, 0, false, by decide⟩,
   ⟨0, State.reset, by decide⟩,
   ⟨0, false, ((((State.reset.onExtent ({ (default : MigReq) with op := 1, from_ := .gsq 0 0, moving := true, system := true } : MigReq).slot (fun z => { z with dying := false })).onExtent ({ (default : MigReq) with op := 1, from_ := .gsq 0 0, moving := true, system := true } : MigReq).slot (fun z => { z with durable := false })).onMem (fun z => { z with queue := [{ (default : MigReq) with op := 1, from_ := .gsq 0 0, moving := true, system := true }] })) : State), ({ (default : MigReq) with op := 1, from_ := .gsq 0 0, moving := true, system := true } : MigReq), 0, 0, by decide, by decide, by decide, by intro g; rfl, by decide⟩,
   ⟨0, State.reset, by decide⟩,
   ⟨0, false, ((((State.reset.onExtent ({ (default : MigReq) with op := 2, from_ := .gsq 0 0, moving := true, system := true } : MigReq).slot (fun z => { z with st := ExtState.sealed })).onExtent ({ (default : MigReq) with op := 2, from_ := .gsq 0 0, moving := true, system := true } : MigReq).slot (fun z => { z with dying := false })).onMem (fun z => { z with queue := [{ (default : MigReq) with op := 2, from_ := .gsq 0 0, moving := true, system := true }] })) : State), ({ (default : MigReq) with op := 2, from_ := .gsq 0 0, moving := true, system := true } : MigReq), 0, 0, (((((State.reset.onExtent ({ (default : MigReq) with op := 2, from_ := .gsq 0 0, moving := true, system := true } : MigReq).slot (fun z => { z with st := ExtState.sealed })).onExtent ({ (default : MigReq) with op := 2, from_ := .gsq 0 0, moving := true, system := true } : MigReq).slot (fun z => { z with dying := false })).onMem (fun z => { z with queue := [{ (default : MigReq) with op := 2, from_ := .gsq 0 0, moving := true, system := true }] })) : State) : State), by decide⟩,
   ⟨0, State.reset, by decide⟩,
   ⟨0, false, (((((State.reset.onExtent ({ (default : MigReq) with op := 3, from_ := .gsq 0 0, moving := true, system := true } : MigReq).slot (fun z => { z with copies := 0 })).onExtent ({ (default : MigReq) with op := 3, from_ := .gsq 0 0, moving := true, system := true } : MigReq).slot (fun z => { z with st := ExtState.sealed })).onExtent ({ (default : MigReq) with op := 3, from_ := .gsq 0 0, moving := true, system := true } : MigReq).slot (fun z => { z with dying := false })).onMem (fun z => { z with queue := [{ (default : MigReq) with op := 3, from_ := .gsq 0 0, moving := true, system := true }] })) : State), ({ (default : MigReq) with op := 3, from_ := .gsq 0 0, moving := true, system := true } : MigReq), 0, 0, by decide⟩,
   ⟨false, State.reset, by decide⟩,
   ⟨false, 0, 0, 0, (((State.reset.onExtent (0 : Nat) (fun z => { z with copies := 0 })).onMem (fun z => { z with relocs := [⟨false, 0, (0, 0), (1, 0), true⟩] })) : State), ((⟨false, 0, (0, 0), (1, 0), true⟩ : Reloc) : Reloc), 1, by decide⟩,
   ⟨0, ((State.reset.onMem (fun z => { z with lz2Glove := none })) : State), by decide⟩,
   ⟨0, (((State.reset.onMem (fun z => { z with lz2Glove := some default })).onMem (fun z => { z with lz2Glove := some 0, lz2Size := 0x200000, lz2Frames := [0] })) : State), 0, by decide⟩⟩

theorem wit_ModelAdapterAndPrefixCommands :
    (∃ (c : HostCmd) (s : State) (u : State), s.Accepts c 48 [allBits] u ∧ u.inD = true ∧ u.hostBytes (BitVec.toNat c.a1) 64 = none) ∧
    (∃ (c : HostCmd) (s : State) (u : State) (d : List Byte) (m : Nat) (exts : List MdlExt), s.Accepts c 48 [allBits] u ∧ u.inD = true ∧ u.hostBytes (BitVec.toNat c.a1) 64 = some d ∧ m = leAt d 0 4 % 2 ^ 20 ∧ u.extTable (leAt d 32 8) (leAt d 16 4) = some exts ∧ leAt d 0 4 < 2 ^ 24 ∧ leAt d 6 1 ≠ 0 ∧ leAt d 7 1 < 6 ∧ 0 < leAt d 8 4 ∧ leAt d 8 4 ≤ 1048575 ∧ 0 < leAt d 12 4 ∧ leAt d 12 4 ≤ 262144 ∧ 2 ≤ leAt d 16 4 ∧ leAt d 16 4 ≤ 4097 ∧ leAt d 20 4 < 2 ^ 20 ∧ leAt d 49 15 = 0 ∧ (u.model m).st ≠ MdlState.absent) ∧
    (∃ (c : HostCmd) (s : State) (u : State) (d : List Byte) (m : Nat) (exts : List MdlExt), s.Accepts c 48 [allBits] u ∧ u.inD = true ∧ u.hostBytes (BitVec.toNat c.a1) 64 = some d ∧ m = leAt d 0 4 % 2 ^ 20 ∧ u.extTable (leAt d 32 8) (leAt d 16 4) = some exts ∧ leAt d 0 4 < 2 ^ 24 ∧ leAt d 6 1 ≠ 0 ∧ leAt d 7 1 < 6 ∧ 0 < leAt d 8 4 ∧ leAt d 8 4 ≤ 1048575 ∧ 0 < leAt d 12 4 ∧ leAt d 12 4 ≤ 262144 ∧ 2 ≤ leAt d 16 4 ∧ leAt d 16 4 ≤ 4097 ∧ leAt d 20 4 < 2 ^ 20 ∧ leAt d 49 15 = 0 ∧ (u.model m).st = MdlState.absent ∧ u.modelRoom = none) ∧
    (∃ (c : HostCmd) (s : State) (u : State) (d : List Byte) (m : Nat) (exts : List MdlExt) (v : State), s.Accepts c 48 [allBits] u ∧ u.inD = true ∧ u.hostBytes (BitVec.toNat c.a1) 64 = some d ∧ m = leAt d 0 4 % 2 ^ 20 ∧ u.extTable (leAt d 32 8) (leAt d 16 4) = some exts ∧ leAt d 0 4 < 2 ^ 24 ∧ leAt d 6 1 ≠ 0 ∧ leAt d 7 1 < 6 ∧ 0 < leAt d 8 4 ∧ leAt d 8 4 ≤ 1048575 ∧ 0 < leAt d 12 4 ∧ leAt d 12 4 ≤ 262144 ∧ 2 ≤ leAt d 16 4 ∧ leAt d 16 4 ≤ 4097 ∧ leAt d 20 4 < 2 ^ 20 ∧ leAt d 49 15 = 0 ∧ (u.model m).st = MdlState.absent ∧ u.modelRoom = some v) ∧
    (∃ (c : HostCmd) (s : State) (u : State) (m : Nat) (f : Nat) (n : Nat), s.Accepts c 49 [bits 0 20, allBits, bits 0 16, bits 0 32, bits 0 32] u ∧ u.inS = true ∧ m = c.a1.field 0 20 ∧ f = c.a5.field 0 16 ∧ n = c.a5.field 16 16 ∧ (u.model m).st = MdlState.absent) ∧
    (∃ (c : HostCmd) (s : State) (u : State) (m : Nat) (f : Nat) (n : Nat), s.Accepts c 49 [bits 0 20, allBits, bits 0 16, bits 0 32, bits 0 32] u ∧ u.inS = true ∧ m = c.a1.field 0 20 ∧ f = c.a5.field 0 16 ∧ n = c.a5.field 16 16 ∧ (u.model m).st ≠ MdlState.absent ∧ (u.model m).st ≠ MdlState.parked) ∧
    (∃ (c : HostCmd) (s : State) (u : State) (m : Nat) (f : Nat) (n : Nat) (k : Nat), s.Accepts c 49 [bits 0 20, allBits, bits 0 16, bits 0 32, bits 0 32] u ∧ u.inS = true ∧ m = c.a1.field 0 20 ∧ f = c.a5.field 0 16 ∧ n = c.a5.field 16 16 ∧ (u.model m).st = MdlState.parked ∧ (State.ctrName c.a3).snd.fst < 288 ∧ f + n ≤ 65536 ∧ State.extsLen (u.model m).exts ≤ n * 2 ^ 25 ∧ (∀ (i : Nat), i < n → (u.frame (f + i)).mode = FMode.shared ∧ (u.frame (f + i)).key = (u.model m).key) ∧ f ≤ k ∧ k < f + n) ∧
    (∃ (c : HostCmd) (s : State) (u : State) (m : Nat), s.Accepts c 50 [bits 0 20] u ∧ u.inD = true ∧ m = c.a1.field 0 20 ∧ (u.model m).st = MdlState.absent) ∧
    (∃ (c : HostCmd) (s : State) (u : State) (m : Nat), s.Accepts c 50 [bits 0 20] u ∧ u.inD = true ∧ m = c.a1.field 0 20 ∧ (u.model m).st ≠ MdlState.absent ∧ (u.model m).st ≠ MdlState.resident) ∧
    (∃ (c : HostCmd) (s : State) (u : State) (m : Nat) (i : Nat), s.Accepts c 50 [bits 0 20] u ∧ u.inD = true ∧ m = c.a1.field 0 20 ∧ (u.model m).st = MdlState.resident ∧ u.modelUser m = some i) ∧
    (∃ (c : HostCmd) (s : State) (u : State) (m : Nat) (x : MdlExt), s.Accepts c 50 [bits 0 20] u ∧ u.inD = true ∧ m = c.a1.field 0 20 ∧ (u.model m).st = MdlState.resident ∧ u.modelUser m = none ∧ x ∈ ((u.parkModel m).model m).exts) ∧
    (∃ (c : HostCmd) (s : State) (u : State) (m : Nat), s.Accepts c 51 [bits 0 21 + bits 32 16, allBits, allBits, allBits] u ∧ u.inS = true ∧ m = c.a1.field 0 20 ∧ (u.model m).st = MdlState.absent) ∧
    (∃ (c : HostCmd) (s : State) (u : State) (m : Nat), s.Accepts c 51 [bits 0 21 + bits 32 16, allBits, allBits, allBits] u ∧ u.inS = true ∧ m = c.a1.field 0 20 ∧ (u.model m).st ≠ MdlState.absent ∧ (u.model m).st ≠ MdlState.resident) ∧
    (∃ (c : HostCmd) (s : State) (u : State) (m : Nat), s.Accepts c 51 [bits 0 21 + bits 32 16, allBits, allBits, allBits] u ∧ u.inS = true ∧ m = c.a1.field 0 20 ∧ (u.model m).st = MdlState.resident ∧ c.a1.field 32 16 ≠ (u.model m).version) ∧
    (∃ (c : HostCmd) (s : State) (u : State) (m : Nat) (exts : List MdlExt), s.Accepts c 51 [bits 0 21 + bits 32 16, allBits, allBits, allBits] u ∧ u.inS = true ∧ m = c.a1.field 0 20 ∧ (u.model m).st = MdlState.resident ∧ c.a1.field 32 16 = (u.model m).version ∧ u.extTable (BitVec.toNat c.a3) (u.model m).exts.length = some exts ∧ (List.map (fun x => x.len) exts = List.map (fun x => x.len) (u.model m).exts) ∧ c.a1.bit 20 = false) ∧
    (∃ (c : HostCmd) (s : State) (u : State) (m : Nat) (exts : List MdlExt) (f : Nat), s.Accepts c 51 [bits 0 21 + bits 32 16, allBits, allBits, allBits] u ∧ u.inS = true ∧ m = c.a1.field 0 20 ∧ (u.model m).st = MdlState.resident ∧ c.a1.field 32 16 = (u.model m).version ∧ u.extTable (BitVec.toNat c.a3) (u.model m).exts.length = some exts ∧ c.a1.bit 20 = true ∧ ((u.freeRun (ceilDiv (State.extsLen exts) (2 ^ 25)) fun x => true) = some f)) ∧
    (∃ (c : HostCmd) (s : State) (u : State) (a : Nat), s.Accepts c 52 [bits 0 47, bits 0 32, allBits] u ∧ u.inS = true ∧ (u.glove (c.a1.field 32 6)).live = true ∧ a = c.a1.field 0 12 ∧ (u.model (c.a1.field 12 20)).st = MdlState.absent) ∧
    (∃ (c : HostCmd) (s : State) (u : State) (a : Nat), s.Accepts c 52 [bits 0 47, bits 0 32, allBits] u ∧ u.inS = true ∧ (u.glove (c.a1.field 32 6)).live = true ∧ a = c.a1.field 0 12 ∧ (u.model (c.a1.field 12 20)).st ≠ MdlState.absent ∧ c.a1.bit 46 = false ∧ ((u.adapter a).st = 1 ∨ (u.adapter a).st = 2 ∧ 0 < (u.adapter a).refs)) ∧
    (∃ (c : HostCmd) (s : State) (u : State) (a : Nat), s.Accepts c 52 [bits 0 47, bits 0 32, allBits] u ∧ u.inS = true ∧ (u.glove (c.a1.field 32 6)).live = true ∧ a = c.a1.field 0 12 ∧ (u.model (c.a1.field 12 20)).st ≠ MdlState.absent ∧ c.a1.bit 46 = false ∧ (u.adapter a).st = 0) ∧
    (∃ (c : HostCmd) (s : State) (u : State) (a : Nat), s.Accepts c 53 [bits 0 12] u ∧ u.inD = true ∧ a = c.a1.field 0 12 ∧ ((u.adapter a).st ≠ 2 ∨ 0 < (u.adapter a).refs)) ∧
    (∃ (c : HostCmd) (s : State) (u : State) (a : Nat), s.Accepts c 53 [bits 0 12] u ∧ u.inD = true ∧ a = c.a1.field 0 12 ∧ (u.adapter a).st = 2 ∧ (u.adapter a).refs = 0) ∧
    (∃ (c : HostCmd) (s : State) (u : State) (n : Nat), s.Accepts c 54 [bits 0 8, bits 0 32] u ∧ u.inS = true ∧ n = c.a2.field 0 32 ∧ ((u.node n).live = false ∨ (u.node n).pub = true ∨ (u.node n).key ≠ c.a1.field 0 8 ∨ (u.node n).stale = true)) ∧
    (∃ (c : HostCmd) (s : State) (u : State) (n : Nat) (v : State) (r : Nat), s.Accepts c 54 [bits 0 8, bits 0 32] u ∧ u.inS = true ∧ n = c.a2.field 0 32 ∧ (u.node n).live = true ∧ (u.node n).pub = false ∧ (u.node n).key = c.a1.field 0 8 ∧ (u.node n).stale = false ∧ u.rootOf 256 = (v, r) ∧ r = 0) ∧
    (∃ (c : HostCmd) (s : State) (u : State) (n : Nat) (v : State) (r : Nat) (w : State), s.Accepts c 54 [bits 0 8, bits 0 32] u ∧ u.inS = true ∧ n = c.a2.field 0 32 ∧ (u.node n).live = true ∧ (u.node n).pub = false ∧ (u.node n).key = c.a1.field 0 8 ∧ (u.node n).stale = false ∧ u.rootOf 256 = (v, r) ∧ r ≠ 0 ∧ v.markPath r (u.nodePath (List.length u.stw.nodes) n) = some w) :=
  ⟨⟨((default : HostCmd) : HostCmd), ((State.reset.wM .service) : State), (((State.reset.wM .service) : State) : State), ⟨rfl, rfl, by decide⟩, by decide⟩,
   ⟨({ (default : HostCmd) with a1 := 0x10000000000000 } : HostCmd), (((((State.reset.wM .service).onModel (0 : Nat) (fun z => { z with st := MdlState.resident })).onMem (fun z => { z with near := [(6, 1), (8, 1), (12, 1), (16, 2), (32, 64), (38, 16), (72, 64), (104, 64)], tmap := [(0, { (default : FrameSt) with mode := .system })] })).onModel 0 (fun z => { z with st := .parked })) : State), ((((((State.reset.wM .service).onModel (0 : Nat) (fun z => { z with st := MdlState.resident })).onMem (fun z => { z with near := [(6, 1), (8, 1), (12, 1), (16, 2), (32, 64), (38, 16), (72, 64), (104, 64)], tmap := [(0, { (default : FrameSt) with mode := .system })] })).onModel 0 (fun z => { z with st := .parked })) : State) : State), ((((((((State.reset.wM .service).onModel (0 : Nat) (fun z => { z with st := MdlState.resident })).onMem (fun z => { z with near := [(6, 1), (8, 1), (12, 1), (16, 2), (32, 64), (38, 16), (72, 64), (104, 64)], tmap := [(0, { (default : FrameSt) with mode := .system })] })).onModel 0 (fun z => { z with st := .parked })) : State).hostBytes 0x10000000000000 64).getD []) : List Byte), 0, ((((((((State.reset.wM .service).onModel (0 : Nat) (fun z => { z with st := MdlState.resident })).onMem (fun z => { z with near := [(6, 1), (8, 1), (12, 1), (16, 2), (32, 64), (38, 16), (72, 64), (104, 64)], tmap := [(0, { (default : FrameSt) with mode := .system })] })).onModel 0 (fun z => { z with st := .parked })) : State).extTable 0x10000000000040 2).getD []) : List MdlExt), ⟨rfl, rfl, by decide⟩, by decide⟩,
   ⟨({ (default : HostCmd) with a1 := 0x10000000000000 } : HostCmd), (((((State.reset.wM .service).onModel (0 : Nat) (fun z => { z with st := MdlState.absent })).onMem (fun z => { z with near := [(6, 1), (8, 1), (12, 1), (16, 2), (32, 64), (38, 16), (72, 64), (104, 64)], tmap := [(0, { (default : FrameSt) with mode := .system })] })).onModel 0 (fun z => { z with st := .absent })) : State), ((((((State.reset.wM .service).onModel (0 : Nat) (fun z => { z with st := MdlState.absent })).onMem (fun z => { z with near := [(6, 1), (8, 1), (12, 1), (16, 2), (32, 64), (38, 16), (72, 64), (104, 64)], tmap := [(0, { (default : FrameSt) with mode := .system })] })).onModel 0 (fun z => { z with st := .absent })) : State) : State), ((((((((State.reset.wM .service).onModel (0 : Nat) (fun z => { z with st := MdlState.absent })).onMem (fun z => { z with near := [(6, 1), (8, 1), (12, 1), (16, 2), (32, 64), (38, 16), (72, 64), (104, 64)], tmap := [(0, { (default : FrameSt) with mode := .system })] })).onModel 0 (fun z => { z with st := .absent })) : State).hostBytes 0x10000000000000 64).getD []) : List Byte), 0, ((((((((State.reset.wM .service).onModel (0 : Nat) (fun z => { z with st := MdlState.absent })).onMem (fun z => { z with near := [(6, 1), (8, 1), (12, 1), (16, 2), (32, 64), (38, 16), (72, 64), (104, 64)], tmap := [(0, { (default : FrameSt) with mode := .system })] })).onModel 0 (fun z => { z with st := .absent })) : State).extTable 0x10000000000040 2).getD []) : List MdlExt), ⟨rfl, rfl, by decide⟩, by decide⟩,
   ⟨({ (default : HostCmd) with a1 := 0x10000000000000 } : HostCmd), (((((State.reset.wM .service).onModel (0 : Nat) (fun z => { z with st := MdlState.absent })).onMem (fun z => { z with near := [(6, 1), (8, 1), (12, 1), (16, 2), (32, 64), (38, 16), (72, 64), (104, 64)], tmap := [(0, { (default : FrameSt) with mode := .system }), (1, { (default : FrameSt) with mode := .free }), (2, { (default : FrameSt) with mode := .free, stack := 16 })] })).onModel 0 (fun z => { z with st := .absent })) : State), ((((((State.reset.wM .service).onModel (0 : Nat) (fun z => { z with st := MdlState.absent })).onMem (fun z => { z with near := [(6, 1), (8, 1), (12, 1), (16, 2), (32, 64), (38, 16), (72, 64), (104, 64)], tmap := [(0, { (default : FrameSt) with mode := .system }), (1, { (default : FrameSt) with mode := .free }), (2, { (default : FrameSt) with mode := .free, stack := 16 })] })).onModel 0 (fun z => { z with st := .absent })) : State) : State), ((((((((State.reset.wM .service).onModel (0 : Nat) (fun z => { z with st := MdlState.absent })).onMem (fun z => { z with near := [(6, 1), (8, 1), (12, 1), (16, 2), (32, 64), (38, 16), (72, 64), (104, 64)], tmap := [(0, { (default : FrameSt) with mode := .system }), (1, { (default : FrameSt) with mode := .free }), (2, { (default : FrameSt) with mode := .free, stack := 16 })] })).onModel 0 (fun z => { z with st := .absent })) : State).hostBytes 0x10000000000000 64).getD []) : List Byte), 0, ((((((((State.reset.wM .service).onModel (0 : Nat) (fun z => { z with st := MdlState.absent })).onMem (fun z => { z with near := [(6, 1), (8, 1), (12, 1), (16, 2), (32, 64), (38, 16), (72, 64), (104, 64)], tmap := [(0, { (default : FrameSt) with mode := .system }), (1, { (default : FrameSt) with mode := .free }), (2, { (default : FrameSt) with mode := .free, stack := 16 })] })).onModel 0 (fun z => { z with st := .absent })) : State).extTable 0x10000000000040 2).getD []) : List MdlExt), (((((((State.reset.wM .service).onModel (0 : Nat) (fun z => { z with st := MdlState.absent })).onMem (fun z => { z with near := [(6, 1), (8, 1), (12, 1), (16, 2), (32, 64), (38, 16), (72, 64), (104, 64)], tmap := [(0, { (default : FrameSt) with mode := .system }), (1, { (default : FrameSt) with mode := .free }), (2, { (default : FrameSt) with mode := .free, stack := 16 })] })).onModel 0 (fun z => { z with st := .absent })) : State).modelRoom.getD (((((State.reset.wM .service).onModel (0 : Nat) (fun z => { z with st := MdlState.absent })).onMem (fun z => { z with near := [(6, 1), (8, 1), (12, 1), (16, 2), (32, 64), (38, 16), (72, 64), (104, 64)], tmap := [(0, { (default : FrameSt) with mode := .system }), (1, { (default : FrameSt) with mode := .free }), (2, { (default : FrameSt) with mode := .free, stack := 16 })] })).onModel 0 (fun z => { z with st := .absent })) : State)) : State), ⟨rfl, rfl, by decide⟩, by decide⟩,
   ⟨((default : HostCmd) : HostCmd), (((State.reset.wM .service).onModel (0 : Nat) (fun z => { z with st := MdlState.absent })) : State), ((((State.reset.wM .service).onModel (0 : Nat) (fun z => { z with st := MdlState.absent })) : State) : State), 0, 0, 0, ⟨rfl, rfl, by decide⟩, by decide⟩,
   ⟨((default : HostCmd) : HostCmd), (((State.reset.wM .service).onModel (0 : Nat) (fun z => { z with st := MdlState.resident })) : State), ((((State.reset.wM .service).onModel (0 : Nat) (fun z => { z with st := MdlState.resident })) : State) : State), 0, 0, 0, ⟨rfl, rfl, by decide⟩, by decide⟩,
   ⟨({ (default : HostCmd) with a5 := 0x10000 } : HostCmd), ((((State.reset.wM .service).onModel (0 : Nat) (fun z => { z with st := MdlState.parked })).onMem (fun z => { z with tmap := [(0, { (default : FrameSt) with mode := .shared })] })) : State), (((((State.reset.wM .service).onModel (0 : Nat) (fun z => { z with st := MdlState.parked })).onMem (fun z => { z with tmap := [(0, { (default : FrameSt) with mode := .shared })] })) : State) : State), 0, 0, 1, 0, ⟨rfl, rfl, by decide⟩, by decide, by decide, by decide, by decide, by decide, by decide, by decide, by decide, by intro i h; have e : i = 0 := (by omega); subst e; decide, by decide⟩,
   ⟨((default : HostCmd) : HostCmd), (((State.reset.wM .service).onModel (0 : Nat) (fun z => { z with st := MdlState.absent })) : State), ((((State.reset.wM .service).onModel (0 : Nat) (fun z => { z with st := MdlState.absent })) : State) : State), 0, ⟨rfl, rfl, by decide⟩, by decide⟩,
   ⟨((default : HostCmd) : HostCmd), (((State.reset.wM .service).onModel (0 : Nat) (fun z => { z with st := MdlState.parked })) : State), ((((State.reset.wM .service).onModel (0 : Nat) (fun z => { z with st := MdlState.parked })) : State) : State), 0, ⟨rfl, rfl, by decide⟩, by decide⟩,
   ⟨((default : HostCmd) : HostCmd), ((((State.reset.wM .service).onModel (0 : Nat) (fun z => { z with st := MdlState.resident })).onSeqEnt 0 (fun z => { z with st := .decode })) : State), (((((State.reset.wM .service).onModel (0 : Nat) (fun z => { z with st := MdlState.resident })).onSeqEnt 0 (fun z => { z with st := .decode })) : State) : State), 0, 0, ⟨rfl, rfl, by decide⟩, by decide⟩,
   ⟨((default : HostCmd) : HostCmd), ((((State.reset.wM .service).onModel (0 : Nat) (fun z => { z with st := MdlState.resident })).onModel 0 (fun z => { z with exts := [⟨0, 64, none, none⟩] })) : State), (((((State.reset.wM .service).onModel (0 : Nat) (fun z => { z with st := MdlState.resident })).onModel 0 (fun z => { z with exts := [⟨0, 64, none, none⟩] })) : State) : State), 0, ((⟨0, 64, none, none⟩ : MdlExt) : MdlExt), ⟨rfl, rfl, by decide⟩, by decide⟩,
   ⟨((default : HostCmd) : HostCmd), (((State.reset.wM .service).onModel (0 : Nat) (fun z => { z with st := MdlState.absent })) : State), ((((State.reset.wM .service).onModel (0 : Nat) (fun z => { z with st := MdlState.absent })) : State) : State), 0, ⟨rfl, rfl, by decide⟩, by decide⟩,
   ⟨((default : HostCmd) : HostCmd), (((State.reset.wM .service).onModel (0 : Nat) (fun z => { z with st := MdlState.parked })) : State), ((((State.reset.wM .service).onModel (0 : Nat) (fun z => { z with st := MdlState.parked })) : State) : State), 0, ⟨rfl, rfl, by decide⟩, by decide⟩,
   ⟨({ (default : HostCmd) with a1 := 0x100000000 } : HostCmd), (((State.reset.wM .service).onModel (0 : Nat) (fun z => { z with st := MdlState.resident })) : State), ((((State.reset.wM .service).onModel (0 : Nat) (fun z => { z with st := MdlState.resident })) : State) : State), 0, ⟨rfl, rfl, by decide⟩, by decide⟩,
   ⟨({ (default : HostCmd) with a3 := 0x10000000000000 } : HostCmd), ((((State.reset.wM .service).onModel (0 : Nat) (fun z => { z with st := MdlState.resident })).onMem (fun z => { z with tmap := [(0, { (default : FrameSt) with mode := .system })] })) : State), (((((State.reset.wM .service).onModel (0 : Nat) (fun z => { z with st := MdlState.resident })).onMem (fun z => { z with tmap := [(0, { (default : FrameSt) with mode := .system })] })) : State) : State), 0, ([] : List MdlExt), ⟨rfl, rfl, by decide⟩, by decide⟩,
   ⟨({ (default : HostCmd) with a1 := 0x100000, a3 := 0x10000000000000 } : HostCmd), ((((State.reset.wM .service).onModel (0 : Nat) (fun z => { z with st := MdlState.resident })).onMem (fun z => { z with tmap := [(0, { (default : FrameSt) with mode := .system })] })) : State), (((((State.reset.wM .service).onModel (0 : Nat) (fun z => { z with st := MdlState.resident })).onMem (fun z => { z with tmap := [(0, { (default : FrameSt) with mode := .system })] })) : State) : State), 0, ([] : List MdlExt), 0, ⟨rfl, rfl, by decide⟩, by decide, by decide, by decide, by decide, by decide, by decide, by decide +kernel⟩,
   ⟨((default : HostCmd) : HostCmd), ((((State.reset.wM .service).onGlv (((default : HostCmd) : HostCmd).a1.field 32 6) (fun z => { z with live := true })).onModel (((default : HostCmd) : HostCmd).a1.field 12 20) (fun z => { z with st := MdlState.absent })) : State), (((((State.reset.wM .service).onGlv (((default : HostCmd) : HostCmd).a1.field 32 6) (fun z => { z with live := true })).onModel (((default : HostCmd) : HostCmd).a1.field 12 20) (fun z => { z with st := MdlState.absent })) : State) : State), 0, ⟨rfl, rfl, by decide⟩, by decide⟩,
   ⟨({ (default : HostCmd) with a1 := ((0 : Word).setField 46 1 0) } : HostCmd), (((((State.reset.wM .service).onGlv (({ (default : HostCmd) with a1 := ((0 : Word).setField 46 1 0) } : HostCmd).a1.field 32 6) (fun z => { z with live := true })).onModel (({ (default : HostCmd) with a1 := ((0 : Word).setField 46 1 0) } : HostCmd).a1.field 12 20) (fun z => { z with st := MdlState.resident })).onAdapter (0 : Nat) (fun z => { z with st := 1 })) : State), ((((((State.reset.wM .service).onGlv (({ (default : HostCmd) with a1 := ((0 : Word).setField 46 1 0) } : HostCmd).a1.field 32 6) (fun z => { z with live := true })).onModel (({ (default : HostCmd) with a1 := ((0 : Word).setField 46 1 0) } : HostCmd).a1.field 12 20) (fun z => { z with st := MdlState.resident })).onAdapter (0 : Nat) (fun z => { z with st := 1 })) : State) : State), 0, ⟨rfl, rfl, by decide⟩, by decide⟩,
   ⟨({ (default : HostCmd) with a1 := ((0 : Word).setField 46 1 0) } : HostCmd), (((((State.reset.wM .service).onGlv (({ (default : HostCmd) with a1 := ((0 : Word).setField 46 1 0) } : HostCmd).a1.field 32 6) (fun z => { z with live := true })).onModel (({ (default : HostCmd) with a1 := ((0 : Word).setField 46 1 0) } : HostCmd).a1.field 12 20) (fun z => { z with st := MdlState.resident })).onAdapter (0 : Nat) (fun z => { z with st := 0 })) : State), ((((((State.reset.wM .service).onGlv (({ (default : HostCmd) with a1 := ((0 : Word).setField 46 1 0) } : HostCmd).a1.field 32 6) (fun z => { z with live := true })).onModel (({ (default : HostCmd) with a1 := ((0 : Word).setField 46 1 0) } : HostCmd).a1.field 12 20) (fun z => { z with st := MdlState.resident })).onAdapter (0 : Nat) (fun z => { z with st := 0 })) : State) : State), 0, ⟨rfl, rfl, by decide⟩, by decide⟩,
   ⟨((default : HostCmd) : HostCmd), ((State.reset.wM .service) : State), (((State.reset.wM .service) : State) : State), 0, ⟨rfl, rfl, by decide⟩, by decide⟩,
   ⟨((default : HostCmd) : HostCmd), ((((State.reset.wM .service).onAdapter (0 : Nat) (fun z => { z with st := 2 })).onAdapter (0 : Nat) (fun z => { z with refs := 0 })) : State), (((((State.reset.wM .service).onAdapter (0 : Nat) (fun z => { z with st := 2 })).onAdapter (0 : Nat) (fun z => { z with refs := 0 })) : State) : State), 0, ⟨rfl, rfl, by decide⟩, by decide⟩,
   ⟨((default : HostCmd) : HostCmd), (((State.reset.wM .service).onNode (0 : Nat) (fun z => { z with live := false })) : State), ((((State.reset.wM .service).onNode (0 : Nat) (fun z => { z with live := false })) : State) : State), 0, ⟨rfl, rfl, by decide⟩, by decide⟩,
   ⟨({ (default : HostCmd) with a1 := 0, a2 := 0 } : HostCmd), (((((((State.reset.wM .service).onNode (0 : Nat) (fun z => { z with live := true })).onNode (0 : Nat) (fun z => { z with pub := false })).onNode (0 : Nat) (fun z => { z with stale := false })).onStw (fun z => { z with pool := 0 })).onNode 0 (fun z => { z with live := true })) : State), ((((((((State.reset.wM .service).onNode (0 : Nat) (fun z => { z with live := true })).onNode (0 : Nat) (fun z => { z with pub := false })).onNode (0 : Nat) (fun z => { z with stale := false })).onStw (fun z => { z with pool := 0 })).onNode 0 (fun z => { z with live := true })) : State) : State), 0, ((((((((State.reset.wM .service).onNode (0 : Nat) (fun z => { z with live := true })).onNode (0 : Nat) (fun z => { z with pub := false })).onNode (0 : Nat) (fun z => { z with stale := false })).onStw (fun z => { z with pool := 0 })).onNode 0 (fun z => { z with live := true })) : State) : State), 0, ⟨rfl, rfl, by decide⟩, by decide, by decide, by decide, by decide, by decide, by decide, rfl, by decide⟩,
   ⟨({ (default : HostCmd) with a1 := 0, a2 := 2 } : HostCmd), (((((((State.reset.wM .service).onNode (2 : Nat) (fun z => { z with live := true })).onNode (2 : Nat) (fun z => { z with pub := false })).onNode (2 : Nat) (fun z => { z with stale := false })).onStw (fun z => { z with pool := 4 })).onNode 2 (fun z => { z with live := true })) : State), ((((((((State.reset.wM .service).onNode (2 : Nat) (fun z => { z with live := true })).onNode (2 : Nat) (fun z => { z with pub := false })).onNode (2 : Nat) (fun z => { z with stale := false })).onStw (fun z => { z with pool := 4 })).onNode 2 (fun z => { z with live := true })) : State) : State), 2, ((((((((((State.reset.wM .service).onNode (2 : Nat) (fun z => { z with live := true })).onNode (2 : Nat) (fun z => { z with pub := false })).onNode (2 : Nat) (fun z => { z with stale := false })).onStw (fun z => { z with pool := 4 })).onNode 2 (fun z => { z with live := true })) : State).rootOf 256).1) : State), 1, ((((((((((((State.reset.wM .service).onNode (2 : Nat) (fun z => { z with live := true })).onNode (2 : Nat) (fun z => { z with pub := false })).onNode (2 : Nat) (fun z => { z with stale := false })).onStw (fun z => { z with pool := 4 })).onNode 2 (fun z => { z with live := true })) : State).rootOf 256).1).markPath 1 [2]).getD (((((((State.reset.wM .service).onNode (2 : Nat) (fun z => { z with live := true })).onNode (2 : Nat) (fun z => { z with pub := false })).onNode (2 : Nat) (fun z => { z with stale := false })).onStw (fun z => { z with pool := 4 })).onNode 2 (fun z => { z with live := true })) : State)) : State), ⟨rfl, rfl, by decide⟩, by decide, by decide, by decide, by decide, by decide, by decide, rfl, by decide, rfl⟩⟩

theorem wit_ModelsFetchesAndTheStewards :
    (∃ (model : Nat) (s : State), (∀ (g : Nat), g ∈ s.modelGloves model → (s.serve g).phase ≠ 0) ∧ ((s.model model).repl = none ∨ s.turn (Event.cuff model) = false)) ∧
    (∃ (model : Nat) (s : State) (r : ReplSt) (g : Nat), (∀ (g : Nat), g ∈ s.modelGloves model → (s.serve g).phase ≠ 0) ∧ (s.model model).repl = some r ∧ s.turn (Event.cuff model) = true ∧ g ∈ s.modelGloves model) ∧
    (∃ (model : Nat) (extent : Nat) (s : State), (∀ (w : SwinSt), (s.model model).swin = some w → w.ext ≠ extent ∨ w.units ≠ 2 ^ ceilDiv ((s.model model).exts.getD extent default).len 4096 - 1)) ∧
    (∃ (model : Nat) (extent : Nat) (s : State) (w : SwinSt), (s.model model).swin = some w ∧ w.ext = extent ∧ w.units = 2 ^ ceilDiv ((s.model model).exts.getD extent default).len 4096 - 1 ∧ (s.model model).exts.length ≤ extent + 1) ∧
    (∃ (model : Nat) (extent : Nat) (peer : Nat) (s : State), (∀ (w : SwinSt), (s.model model).swin = some w → w.ext ≠ extent ∨ w.peers.length ≤ w.src ∨ w.peers.getD w.src 0 ≠ peer)) ∧
    (∃ (model : Nat) (extent : Nat) (peer : Nat) (s : State) (w : SwinSt), (s.model model).swin = some w ∧ w.ext = extent ∧ w.src < w.peers.length ∧ w.peers.getD w.src 0 = peer) ∧
    (∃ (f : FetchMsg) (s : State), f.handle = none ∧ ((s.model f.model).st ≠ MdlState.resident ∨ (s.model f.model).version ≠ f.version)) ∧
    (∃ (f : FetchMsg) (s : State) (x : MdlExt), x = (s.model f.model).exts.getD f.extent default ∧ f.handle = none ∧ (s.model f.model).st = MdlState.resident ∧ (s.model f.model).version = f.version ∧ ((s.model f.model).exts.length ≤ f.extent ∨ x.len < f.offset + f.len)) ∧
    (∃ (f : FetchMsg) (s : State) (x : MdlExt), x = (s.model f.model).exts.getD f.extent default ∧ f.handle = none ∧ (s.model f.model).st = MdlState.resident ∧ (s.model f.model).version = f.version ∧ f.extent < (s.model f.model).exts.length ∧ f.offset + f.len ≤ x.len ∧ s.rangePoisoned (x.nta + f.offset) f.len = false) ∧
    (∃ (f : FetchMsg) (s : State) (h : BitVec 32), f.handle = some h ∧ s.extOf h = none) ∧
    (∃ (f : FetchMsg) (s : State) (h : BitVec 32) (n : Nat), f.handle = some h ∧ s.extOf h = some n ∧ (s.extent n).st ≠ ExtState.writing ∧ (s.extent n).st ≠ ExtState.lost ∧ f.offset + f.len ≤ (s.extent n).len ∧ s.keyOk (s.extent n).system (s.extent n).key = true ∧ ((s.extent n).system = true ∨ (s.keys.at (s.extent n).key).kid = (s.extent n).kid)) ∧
    (∃ (model : Nat) (extent : Nat) (s : State), (∀ (w : SwinSt), (s.model model).swin = some w → w.ext ≠ extent ∨ w.peers.length ≤ w.src)) ∧
    (∃ (model : Nat) (extent : Nat) (unit : Nat) (s : State) (w : SwinSt), (s.model model).swin = some w ∧ w.ext = extent ∧ w.src < w.peers.length ∧ unit < ceilDiv ((s.model model).exts.getD extent default).len 4096) ∧
    (∃ (s : State), s.stw.sentBeat + 100 ≤ s.tick.rcs) ∧
    (∃ (s : State), s.tick.rcs < s.stw.sentBeat + 100) ∧
    (∃ (s : State), s.stw.standbyReady = false) ∧
    (∃ (s : State), s.stw.standbyReady = true ∧ s.stw.swapCmd = none ∧ (∀ (p : Nat × ServeSt), p ∈ s.stw.serve → p.snd.phase = 0)) ∧
    (∃ (s : State), (s.inA = false ∨ s.aos.iodFenced.contains (if s.stw.serving = 0 then 2 else 0) = true)) ∧
    (∃ (s : State), s.inA = true ∧ s.aos.iodFenced.contains (if s.stw.serving = 0 then 2 else 0) = false) ∧
    (∃ (half : Half), half = Half.hi) ∧
    (∃ (half : Half) (val : Word) (s : State) (i : Nat) (w : Nat), half ≠ Half.hi ∧ i = (mergeHalf half (s.reg Adr.stwQidx) val).field 0 17 ∧ w < 8) ∧
    (∃ (g : Nat), 64 ≤ g) ∧
    (∃ (g : Nat) (half : Half) (val : Word) (s : State) (w : Word), (w = if s.prof 0 17 1 = 0 then ((mergeHalf half (s.reg (Adr.stwGcfg g)) val).setField 46 18 0).setField 45 1 0 else (mergeHalf half (s.reg (Adr.stwGcfg g)) val).setField 46 18 0) ∧ g < 64 ∧ State.gcfgOk half w = false) ∧
    (∃ (g : Nat) (half : Half) (val : Word) (s : State) (w : Word), (w = if s.prof 0 17 1 = 0 then ((mergeHalf half (s.reg (Adr.stwGcfg g)) val).setField 46 18 0).setField 45 1 0 else (mergeHalf half (s.reg (Adr.stwGcfg g)) val).setField 46 18 0) ∧ g < 64 ∧ State.gcfgOk half w = true ∧ (w.bit 45 = false ∨ s.serves g = true)) ∧
    (∃ (g : Nat) (half : Half) (val : Word) (s : State) (w : Word), (w = if s.prof 0 17 1 = 0 then ((mergeHalf half (s.reg (Adr.stwGcfg g)) val).setField 46 18 0).setField 45 1 0 else (mergeHalf half (s.reg (Adr.stwGcfg g)) val).setField 46 18 0) ∧ g < 64 ∧ State.gcfgOk half w = true ∧ w.bit 45 = true ∧ s.serves g = false) :=
  ⟨⟨0, ((State.reset.onModel (0 : Nat) (fun z => { z with repl := none })) : State), by first | decide | (intro a h; cases h; done) | (intro a h; subst h; decide) | (intro a b h; cases h; done) | (intros; rfl) | (intros; decide), by decide⟩,
   ⟨0, (((((State.reset.onModel (0 : Nat) (fun z => { z with repl := some ({ (default : ReplSt) with inPlace := true, copied := true } : ReplSt) })).wNoLedger).onModel 0 (fun z => { z with gloves := 1, repl := some { (default : ReplSt) with inPlace := true, copied := true } })).onServe 0 (fun z => { z with phase := 1 })) : State), ({ (default : ReplSt) with inPlace := true, copied := true } : ReplSt), 0, by intro g hg; have e : g = 0 := (by revert g; decide); subst e; decide, by decide⟩,
   ⟨0, 0, State.reset, by first | decide | (intro a h; cases h; done) | (intro a h; subst h; decide) | (intro a b h; cases h; done) | (intros; rfl) | (intros; decide)⟩,
   ⟨0, 0, (((State.reset.onModel (0 : Nat) (fun z => { z with swin := some ({ (default : SwinSt) with units := 1 } : SwinSt) })).onModel 0 (fun z => { z with st := .resident, exts := [⟨0, 4096, none, none⟩], swin := some { (default : SwinSt) with units := 1 } })) : State), ({ (default : SwinSt) with units := 1 } : SwinSt), by decide⟩,
   ⟨0, 0, 0, State.reset, by first | decide | (intro a h; cases h; done) | (intro a h; subst h; decide) | (intro a b h; cases h; done) | (intros; rfl) | (intros; decide)⟩,
   ⟨0, 0, 3, (((State.reset.onModel (0 : Nat) (fun z => { z with swin := some ({ (default : SwinSt) with peers := [3] } : SwinSt) })).onModel 0 (fun z => { z with st := .resident, exts := [⟨0, 4096, none, none⟩], swin := some { (default : SwinSt) with peers := [3] } })) : State), ({ (default : SwinSt) with peers := [3] } : SwinSt), by decide⟩,
   ⟨({ (default : FetchMsg) with handle := none } : FetchMsg), ((State.reset.onModel ({ (default : FetchMsg) with handle := none } : FetchMsg).model (fun z => { z with st := MdlState.parked })) : State), by decide⟩,
   ⟨({ (default : FetchMsg) with handle := none } : FetchMsg), (((State.reset.onModel ({ (default : FetchMsg) with handle := none } : FetchMsg).model (fun z => { z with st := MdlState.resident })).onModel ({ (default : FetchMsg) with handle := none } : FetchMsg).model (fun z => { z with version := ({ (default : FetchMsg) with handle := none } : FetchMsg).version })) : State), (((((State.reset.onModel ({ (default : FetchMsg) with handle := none } : FetchMsg).model (fun z => { z with st := MdlState.resident })).onModel ({ (default : FetchMsg) with handle := none } : FetchMsg).model (fun z => { z with version := ({ (default : FetchMsg) with handle := none } : FetchMsg).version })) : State).model ({ (default : FetchMsg) with handle := none } : FetchMsg).model).exts.getD ({ (default : FetchMsg) with handle := none } : FetchMsg).extent default : MdlExt), by decide⟩,
   ⟨({ (default : FetchMsg) with model := 0 } : FetchMsg), ((((State.reset.onModel ({ (default : FetchMsg) with model := 0 } : FetchMsg).model (fun z => { z with st := MdlState.resident })).onModel ({ (default : FetchMsg) with model := 0 } : FetchMsg).model (fun z => { z with version := ({ (default : FetchMsg) with model := 0 } : FetchMsg).version })).onModel 0 (fun z => { z with st := .resident, exts := [⟨0, 4096, none, none⟩], swin := some default })) : State), ((⟨0, 4096, none, none⟩ : MdlExt) : MdlExt), by decide⟩,
   ⟨({ (default : FetchMsg) with handle := some (0 : BitVec 32) } : FetchMsg), State.reset, 0, by decide⟩,
   ⟨({ (default : FetchMsg) with handle := some (0 : BitVec 32) } : FetchMsg), (((State.reset.onExtent (0 : Nat) (fun z => { z with st := ExtState.sealed })).onExtent (0 : Nat) (fun z => { z with system := true })) : State), 0, 0, by decide⟩,
   ⟨0, 0, State.reset, by first | decide | (intro a h; cases h; done) | (intro a h; subst h; decide) | (intro a b h; cases h; done) | (intros; rfl) | (intros; decide)⟩,
   ⟨0, 0, 0, (((State.reset.onModel (0 : Nat) (fun z => { z with swin := some ({ (default : SwinSt) with peers := [3] } : SwinSt) })).onModel 0 (fun z => { z with st := .resident, exts := [⟨0, 4096, none, none⟩], swin := some { (default : SwinSt) with peers := [3] } })) : State), ({ (default : SwinSt) with peers := [3] } : SwinSt), by decide⟩,
   ⟨((State.reset.onTick (fun z => { z with rcs := 100 })) : State), by decide⟩,
   ⟨State.reset, by decide⟩,
   ⟨((State.reset.onStw (fun z => { z with standbyReady := false })) : State), by decide⟩,
   ⟨(((State.reset.onStw (fun z => { z with standbyReady := true })).onStw (fun z => { z with swapCmd := none })) : State), by decide, by decide, by first | decide | (intro a h; cases h; done) | (intro a h; subst h; decide) | (intro a b h; cases h; done) | (intros; rfl) | (intros; decide)⟩,
   ⟨State.reset, by decide⟩,
   ⟨((State.reset.wM .service) : State), by decide⟩,
   ⟨Half.hi, by decide⟩,
   ⟨Half.whole, 0, State.reset, ((mergeHalf (Half.whole : Half) ((State.reset : State).reg Adr.stwQidx) (0 : Word)).field 0 17 : Nat), 0, by decide⟩,
   ⟨64, by decide⟩,
   ⟨0, .whole, 0, State.reset, 0, by decide⟩,
   ⟨0, .whole, 0x2000002001, State.reset, 0x2000002001, by decide⟩,
   ⟨0, .whole, 0x202000002001, ((State.reset.onAos (fun z => { z with otp := [⟨true, true, 0, [], [0x20000], []⟩] })) : State), 0x202000002001, by decide⟩⟩

theorem wit_ModuleCommands :
    (∃ (c : HostCmd) (s : State) (u : State), s.Accepts c 1 [] u ∧ u.inA = true) ∧
    (∃ (c : HostCmd) (s : State) (u : State) (p : Nat) (T : Nat), s.Accepts c 2 [bits 0 3, allBits] u ∧ u.inA = true ∧ p = c.a1.field 0 2 ∧ T = BitVec.toNat c.a2 ∧ u.aos.pend.isSome = true) ∧
    (∃ (c : HostCmd) (s : State) (u : State) (p : Nat) (T : Nat), s.Accepts c 2 [bits 0 3, allBits] u ∧ u.inA = true ∧ p = c.a1.field 0 2 ∧ T = BitVec.toNat c.a2 ∧ u.aos.pend = none ∧ c.a1.bit 2 = true) ∧
    (∃ (c : HostCmd) (s : State) (u : State) (p : Nat) (T : Nat), s.Accepts c 2 [bits 0 3, allBits] u ∧ u.inA = true ∧ p = c.a1.field 0 2 ∧ T = BitVec.toNat c.a2 ∧ u.aos.pend = none ∧ c.a1.bit 2 = false ∧ u.timeRefusal T 0 ≠ stOK) ∧
    (∃ (c : HostCmd) (s : State) (u : State) (p : Nat) (T : Nat), s.Accepts c 2 [bits 0 3, allBits] u ∧ u.inA = true ∧ p = c.a1.field 0 2 ∧ T = BitVec.toNat c.a2 ∧ u.aos.pend = none ∧ c.a1.bit 2 = false ∧ u.timeRefusal T 0 = stOK ∧ u.prof 0 13 1 = 0 ∧ u.fasterThan ((u.profWord p 0).field 14 3) = false ∧ u.clearsUsed p = false ∧ (∀ (l : Nat), l < 96 → u.profLink p l = true) ∧ (u.profWord p 1).field 32 32 ≤ u.stw.pool) ∧
    (∃ (c : HostCmd) (s : State) (u : State) (n : Nat) (T : Nat), s.Accepts c 3 [bits 0 20, allBits] u ∧ u.inD = true ∧ n = c.a1.field 0 20 ∧ T = BitVec.toNat c.a2 ∧ (u.tick.role ≠ TRole.crown ∨ u.tick.pend.isSome = true)) ∧
    (∃ (c : HostCmd) (s : State) (u : State) (n : Nat) (T : Nat), s.Accepts c 3 [bits 0 20, allBits] u ∧ u.inD = true ∧ n = c.a1.field 0 20 ∧ T = BitVec.toNat c.a2 ∧ u.tick.role = TRole.crown ∧ u.tick.pend = none ∧ (n < 10000 ∨ 1000000 < n)) ∧
    (∃ (c : HostCmd) (s : State) (u : State) (n : Nat) (T : Nat), s.Accepts c 3 [bits 0 20, allBits] u ∧ u.inD = true ∧ n = c.a1.field 0 20 ∧ T = BitVec.toNat c.a2 ∧ u.tick.role = TRole.crown ∧ u.tick.pend = none ∧ 10000 ≤ n ∧ n ≤ 1000000 ∧ T < u.tick.tick + 64) ∧
    (∃ (c : HostCmd) (s : State) (u : State) (n : Nat) (T : Nat), s.Accepts c 3 [bits 0 20, allBits] u ∧ u.inD = true ∧ n = c.a1.field 0 20 ∧ T = BitVec.toNat c.a2 ∧ u.tick.role = TRole.crown ∧ u.tick.pend = none ∧ 10000 ≤ n ∧ n ≤ 1000000 ∧ u.tick.tick + 64 ≤ T ∧ u.armedBeyond T n = false ∧ u.fld Adr.tkeLcfg 0 20 < n ∧ u.fld Adr.mgrCfg 8 20 < n) ∧
    (∃ (c : HostCmd) (s : State) (u : State) (r : Nat) (T : Nat) (o : Nat), s.Accepts c 4 [bits 0 4, allBits, bits 0 20] u ∧ u.inD = true ∧ r = c.a1.field 0 3 ∧ (T = if c.a1.bit 3 = true then u.tick.tick else BitVec.toNat c.a2) ∧ (o = if c.a1.bit 3 = true then u.tick.phase else c.a3.field 0 20) ∧ 5 ≤ r) ∧
    (∃ (c : HostCmd) (s : State) (u : State) (r : Nat) (T : Nat) (o : Nat), s.Accepts c 4 [bits 0 4, allBits, bits 0 20] u ∧ u.inD = true ∧ r = c.a1.field 0 3 ∧ (T = if c.a1.bit 3 = true then u.tick.tick else BitVec.toNat c.a2) ∧ (o = if c.a1.bit 3 = true then u.tick.phase else c.a3.field 0 20) ∧ r < 5 ∧ (u.rung.pend.isSome = true ∨ u.rung.entering.isSome = true)) ∧
    (∃ (c : HostCmd) (s : State) (u : State) (r : Nat) (T : Nat) (o : Nat), s.Accepts c 4 [bits 0 4, allBits, bits 0 20] u ∧ u.inD = true ∧ r = c.a1.field 0 3 ∧ (T = if c.a1.bit 3 = true then u.tick.tick else BitVec.toNat c.a2) ∧ (o = if c.a1.bit 3 = true then u.tick.phase else c.a3.field 0 20) ∧ r = 4 ∧ (∃ p, p ∈ u.glv ∧ p.snd.live = true)) ∧
    (∃ (c : HostCmd) (s : State) (u : State) (r : Nat) (T : Nat) (o : Nat), s.Accepts c 4 [bits 0 4, allBits, bits 0 20] u ∧ u.inD = true ∧ r = c.a1.field 0 3 ∧ (T = if c.a1.bit 3 = true then u.tick.tick else BitVec.toNat c.a2) ∧ (o = if c.a1.bit 3 = true then u.tick.phase else c.a3.field 0 20) ∧ r < 4 ∧ u.rung.pend = none ∧ u.rung.entering = none ∧ (u.rung.rung = 0 → r ≠ 0) ∧ (u.rung.rung ≠ 0 → u.rung.auto = false → r = 0) ∧ (2 ≤ r → u.tick.role ≠ TRole.rackMaster ∧ u.tick.role ≠ TRole.crown ∧ u.tick.role ≠ TRole.standby) ∧ (c.a1.bit 3 = false → u.timeRefusal T o = stOK)) ∧
    (∃ (c : HostCmd) (s : State) (u : State) (n : Nat), s.Accepts c 5 [bits 0 13, bits 0 36] u ∧ u.inA = true ∧ n = c.a1.field 0 13 ∧ 4096 ≤ n) ∧
    (∃ (c : HostCmd) (s : State) (u : State) (n : Nat) (i : Nat), s.Accepts c 5 [bits 0 13, bits 0 36] u ∧ u.inA = true ∧ n = c.a1.field 0 13 ∧ i < 4 ∧ c.a2.bit (8 * i + 7) = true ∧ 96 ≤ c.a2.field (8 * i) 7) ∧
    (∃ (c : HostCmd) (s : State) (u : State) (n : Nat), s.Accepts c 5 [bits 0 13, bits 0 36] u ∧ u.inA = true ∧ n = c.a1.field 0 13 ∧ n < 4096 ∧ (∀ (i : Nat), i < 4 → c.a2.bit (8 * i + 7) = true → c.a2.field (8 * i) 7 < 96) ∧ (c.a2.bit 35 = true ∨ 1 ≤ c.a2.field 32 3 ∧ c.a2.field 32 3 ≤ 6)) ∧
    (∃ (c : HostCmd) (s : State) (u : State), s.Accepts c 6 [] u ∧ u.inD = true ∧ (u.stw.standbyReady = false ∨ u.stw.swapCmd.isSome = true ∨ u.stw.swapLeft ≠ [])) ∧
    (∃ (c : HostCmd) (s : State) (u : State), s.Accepts c 6 [] u ∧ u.inD = true ∧ u.stw.standbyReady = true ∧ u.stw.swapCmd = none ∧ u.stw.swapLeft = [] ∧ (∃ p, p ∈ u.stw.serve ∧ p.snd.phase ≠ 0)) ∧
    (∃ (c : HostCmd) (s : State) (u : State), s.Accepts c 6 [] u ∧ u.inD = true ∧ u.stw.standbyReady = true ∧ u.stw.swapCmd = none ∧ u.stw.swapLeft = [] ∧ (∀ (p : Nat × ServeSt), p ∈ u.stw.serve → p.snd.phase = 0)) :=
  ⟨⟨((default : HostCmd) : HostCmd), ((State.reset.wM .service) : State), (((State.reset.wM .service) : State) : State), ⟨rfl, rfl, by decide⟩, by decide⟩,
   ⟨((default : HostCmd) : HostCmd), (((State.reset.wM .service).onAos (fun z => { z with pend := some (0, none) })) : State), ((((State.reset.wM .service).onAos (fun z => { z with pend := some (0, none) })) : State) : State), 0, (BitVec.toNat ((default : HostCmd) : HostCmd).a2 : Nat), ⟨rfl, rfl, by decide⟩, by decide⟩,
   ⟨({ (default : HostCmd) with a1 := ((0 : Word).setField 2 1 1) } : HostCmd), (((State.reset.wM .service).onAos (fun z => { z with pend := none })) : State), ((((State.reset.wM .service).onAos (fun z => { z with pend := none })) : State) : State), 0, (BitVec.toNat ({ (default : HostCmd) with a1 := ((0 : Word).setField 2 1 1) } : HostCmd).a2 : Nat), ⟨rfl, rfl, by decide⟩, by decide⟩,
   ⟨({ (default : HostCmd) with a1 := ((0 : Word).setField 2 1 0) } : HostCmd), (((State.reset.wM .service).onAos (fun z => { z with pend := none })) : State), ((((State.reset.wM .service).onAos (fun z => { z with pend := none })) : State) : State), 0, (BitVec.toNat ({ (default : HostCmd) with a1 := ((0 : Word).setField 2 1 0) } : HostCmd).a2 : Nat), ⟨rfl, rfl, by decide⟩, by decide⟩,
   ⟨({ (default : HostCmd) with a1 := 0, a2 := 64 } : HostCmd), ((((State.reset.wM .service).onAos (fun z => { z with pend := none })).onAos (fun z => { z with otp := [⟨true, true, 0, [], [0, 0, BitVec.allOnes 64, BitVec.allOnes 64], []⟩] })) : State), (((((State.reset.wM .service).onAos (fun z => { z with pend := none })).onAos (fun z => { z with otp := [⟨true, true, 0, [], [0, 0, BitVec.allOnes 64, BitVec.allOnes 64], []⟩] })) : State) : State), 0, 64, ⟨rfl, rfl, by decide⟩, by decide, by decide, by decide, by decide, by decide, by decide, by decide, by decide, by decide, by first | decide | (intro a h; cases h; done) | (intro a h; subst h; decide) | (intro a b h; cases h; done) | (intros; rfl) | (intros; decide), by decide⟩,
   ⟨((default : HostCmd) : HostCmd), (((State.reset.wM .service).onTick (fun z => { z with role := TRole.worker })) : State), ((((State.reset.wM .service).onTick (fun z => { z with role := TRole.worker })) : State) : State), 0, (BitVec.toNat ((default : HostCmd) : HostCmd).a2 : Nat), ⟨rfl, rfl, by decide⟩, by decide⟩,
   ⟨((default : HostCmd) : HostCmd), ((((State.reset.wM .service).onTick (fun z => { z with role := TRole.crown })).onTick (fun z => { z with pend := none })) : State), (((((State.reset.wM .service).onTick (fun z => { z with role := TRole.crown })).onTick (fun z => { z with pend := none })) : State) : State), 0, (BitVec.toNat ((default : HostCmd) : HostCmd).a2 : Nat), ⟨rfl, rfl, by decide⟩, by decide⟩,
   ⟨({ (default : HostCmd) with a1 := 10000 } : HostCmd), ((((State.reset.wM .service).onTick (fun z => { z with role := TRole.crown })).onTick (fun z => { z with pend := none })) : State), (((((State.reset.wM .service).onTick (fun z => { z with role := TRole.crown })).onTick (fun z => { z with pend := none })) : State) : State), 10000, 0, ⟨rfl, rfl, by decide⟩, by decide⟩,
   ⟨({ (default : HostCmd) with a1 := 1000000, a2 := 64 } : HostCmd), ((((State.reset.wM .service).onTick (fun z => { z with role := TRole.crown })).onTick (fun z => { z with pend := none })) : State), (((((State.reset.wM .service).onTick (fun z => { z with role := TRole.crown })).onTick (fun z => { z with pend := none })) : State) : State), 1000000, 64, ⟨rfl, rfl, by decide⟩, by decide⟩,
   ⟨({ (default : HostCmd) with a1 := 5 } : HostCmd), ((State.reset.wM .service) : State), (((State.reset.wM .service) : State) : State), 5, 0, 0, ⟨rfl, rfl, by decide⟩, by decide⟩,
   ⟨({ (default : HostCmd) with a1 := 0 } : HostCmd), (((State.reset.wM .service).onRung (fun z => { z with pend := some default })) : State), ((((State.reset.wM .service).onRung (fun z => { z with pend := some default })) : State) : State), 0, 0, 0, ⟨rfl, rfl, by decide⟩, by decide⟩,
   ⟨({ (default : HostCmd) with a1 := 4 } : HostCmd), (((State.reset.wM .service).onGlv 0 (fun z => { z with live := true })) : State), ((((State.reset.wM .service).onGlv 0 (fun z => { z with live := true })) : State) : State), 4, 0, 0, ⟨rfl, rfl, by decide⟩, by decide, by decide, by decide, by decide, by decide, ⟨_, List.mem_singleton.2 rfl, by decide⟩⟩,
   ⟨({ (default : HostCmd) with a1 := 1, a2 := 64 } : HostCmd), ((((State.reset.wM .service).onRung (fun z => { z with pend := none })).onRung (fun z => { z with entering := none })) : State), (((((State.reset.wM .service).onRung (fun z => { z with pend := none })).onRung (fun z => { z with entering := none })) : State) : State), 1, 64, 0, ⟨rfl, rfl, by decide⟩, by decide⟩,
   ⟨({ (default : HostCmd) with a1 := 4096 } : HostCmd), ((State.reset.wM .service) : State), (((State.reset.wM .service) : State) : State), 4096, ⟨rfl, rfl, by decide⟩, by decide⟩,
   ⟨({ (default : HostCmd) with a2 := 0xE0 } : HostCmd), ((State.reset.wM .service) : State), (((State.reset.wM .service) : State) : State), 0, 0, ⟨rfl, rfl, by decide⟩, by decide⟩,
   ⟨({ (default : HostCmd) with a2 := ((0 : Word).setField 35 1 1) } : HostCmd), ((State.reset.wM .service) : State), (((State.reset.wM .service) : State) : State), 0, ⟨rfl, rfl, by decide⟩, by decide, by decide, by decide, by first | decide | (intro a h; cases h; done) | (intro a h; subst h; decide) | (intro a b h; cases h; done) | (intros; rfl) | (intros; decide), by decide⟩,
   ⟨((default : HostCmd) : HostCmd), (((State.reset.wM .service).onStw (fun z => { z with standbyReady := false })) : State), ((((State.reset.wM .service).onStw (fun z => { z with standbyReady := false })) : State) : State), ⟨rfl, rfl, by decide⟩, by decide⟩,
   ⟨((default : HostCmd) : HostCmd), ((((((State.reset.wM .service).onStw (fun z => { z with standbyReady := true })).onStw (fun z => { z with swapCmd := none })).onStw (fun z => { z with swapLeft := [] })).onServe 0 (fun z => { z with phase := 1 })) : State), (((((((State.reset.wM .service).onStw (fun z => { z with standbyReady := true })).onStw (fun z => { z with swapCmd := none })).onStw (fun z => { z with swapLeft := [] })).onServe 0 (fun z => { z with phase := 1 })) : State) : State), ⟨rfl, rfl, by decide⟩, by decide, by decide, by decide, by decide, ⟨_, List.mem_singleton.2 rfl, by decide⟩⟩,
   ⟨((default : HostCmd) : HostCmd), (((((State.reset.wM .service).onStw (fun z => { z with standbyReady := true })).onStw (fun z => { z with swapCmd := none })).onStw (fun z => { z with swapLeft := [] })) : State), ((((((State.reset.wM .service).onStw (fun z => { z with standbyReady := true })).onStw (fun z => { z with swapCmd := none })).onStw (fun z => { z with swapLeft := [] })) : State) : State), ⟨rfl, rfl, by decide⟩, by decide, by decide, by decide, by decide, by first | decide | (intro a h; cases h; done) | (intro a h; subst h; decide) | (intro a b h; cases h; done) | (intros; rfl) | (intros; decide)⟩⟩

theorem wit_OffsetsMoveARackMasterBetweenTickStates :
    (∃ (s : State) (d : Int), (s.tick.own = TState.acquiring ∨ s.tick.own = TState.unlocked) ∧ d.natAbs ≤ 10000) ∧
    (∃ (s : State) (d : Int), (s.tick.own = TState.acquiring ∨ s.tick.own = TState.unlocked) ∧ 10000 < d.natAbs) ∧
    (∃ (s : State) (d : Int), s.tick.own = TState.locked ∧ 23 < d.natAbs) ∧
    (∃ (s : State) (d : Int), s.tick.own = TState.locked ∧ d.natAbs ≤ 23) ∧
    (∃ (s : State), s.tick.own = TState.holdover) :=
  ⟨⟨((State.reset.onTick (fun z => { z with own := TState.acquiring })) : State), 0, by decide⟩,
   ⟨((State.reset.onTick (fun z => { z with own := TState.acquiring })) : State), 10001, by decide⟩,
   ⟨((State.reset.onTick (fun z => { z with own := TState.locked })) : State), 24, by decide⟩,
   ⟨((State.reset.onTick (fun z => { z with own := TState.locked })) : State), 0, by decide⟩,
   ⟨((State.reset.onTick (fun z => { z with own := TState.holdover })) : State), by decide⟩⟩

theorem wit_PendingPeriodTakesEffect :
    (∃ (s : State), s.tick.pend = none) ∧
    (∃ (s : State) (n : Nat) (b : Nat), s.tick.pend = some (n, b) ∧ s.tick.tick < b) ∧
    (∃ (s : State) (n : Nat) (b : Nat), s.tick.pend = some (n, b) ∧ b ≤ s.tick.tick) :=
  ⟨⟨((State.reset.onTick (fun z => { z with pend := none })) : State), by decide⟩,
   ⟨((State.reset.onTick (fun z => { z with pend := some ((0 : Nat), (5 : Nat)) })) : State), 0, 5, by decide⟩,
   ⟨((State.reset.onTick (fun z => { z with pend := some ((0 : Nat), (0 : Nat)) })) : State), 0, 0, by decide⟩⟩

theorem wit_PowerLadderAndGloveResets :
    (∃ (s : State), s.rung.pend = none) ∧
    (∃ (s : State), s.turn Event.rung = false) ∧
    (∃ (s : State) (x : Nat) (o : Nat), s.rung.pend = some (0, x, o) ∧ s.turn Event.rung = true ∧ s.rung.rung = 0) ∧
    (∃ (s : State) (x : Nat) (o : Nat), s.rung.pend = some (0, x, o) ∧ s.turn Event.rung = true ∧ s.rung.rung ≠ 0) ∧
    (∃ (s : State) (r : Nat) (x : Nat) (o : Nat), s.rung.pend = some (r, x, o) ∧ r ≠ 0 ∧ s.turn Event.rung = true) ∧
    (∃ (s : State), (s.rung.pend = none ∨ s.rung.entering = none)) ∧
    (∃ (s : State) (r : Nat) (x : Nat × Nat), s.rung.pend = some (r, x) ∧ s.rung.entering ≠ none ∧ s.rungReady r = false) ∧
    (∃ (s : State) (r : Nat) (x : Nat × Nat) (w : WakeSrc), s.rung.pend = some (r, x) ∧ s.rung.entering ≠ none ∧ s.rungReady r = true ∧ s.rung.wake = some w) ∧
    (∃ (s : State) (r : Nat) (x : Nat × Nat), s.rung.pend = some (r, x) ∧ s.rung.entering ≠ none ∧ s.rungReady r = true ∧ s.rung.wake = none ∧ r < 2) ∧
    (∃ (s : State) (x : Nat), s.rung.entering = some x ∧ s.reached (x + s.fld Adr.tkeLcfg 44 4) 0 = false) ∧
    (∃ (s : State) (x : Nat), s.rung.entering = some x ∧ s.reached (x + s.fld Adr.tkeLcfg 44 4) 0 = true ∧ s.rung.cmd = none) ∧
    (∃ (src : WakeSrc), (src = WakeSrc.namedTime ∨ src = WakeSrc.ledger)) ∧
    (∃ (src : WakeSrc) (s : State), (src = WakeSrc.commandRing ∧ s.fld Adr.tkeWake 0 1 ≠ 1 ∨ src = WakeSrc.serviceLink ∧ s.fld Adr.tkeWake 1 1 ≠ 1 ∨ src = WakeSrc.smbus ∧ s.fld Adr.tkeWake 2 1 ≠ 1)) ∧
    (∃ (src : WakeSrc) (s : State) (b : Nat), (src = WakeSrc.commandRing ∧ b = 0 ∨ src = WakeSrc.serviceLink ∧ b = 1 ∨ src = WakeSrc.smbus ∧ b = 2) ∧ s.fld Adr.tkeWake b 1 = 1 ∧ s.rung.entering ≠ none) ∧
    (∃ (src : WakeSrc) (s : State) (b : Nat), (src = WakeSrc.commandRing ∧ b = 0 ∨ src = WakeSrc.serviceLink ∧ b = 1 ∨ src = WakeSrc.smbus ∧ b = 2) ∧ s.fld Adr.tkeWake b 1 = 1 ∧ s.rung.entering = none ∧ s.rung.rung = 0) ∧
    (∃ (src : WakeSrc) (s : State) (b : Nat), (src = WakeSrc.commandRing ∧ b = 0 ∨ src = WakeSrc.serviceLink ∧ b = 1 ∨ src = WakeSrc.smbus ∧ b = 2) ∧ s.fld Adr.tkeWake b 1 = 1 ∧ s.rung.entering = none ∧ 1 ≤ s.rung.rung) ∧
    (∃ (g : Nat) (s : State), (s.glove g).faulted = none) ∧
    (∃ (g : Nat) (s : State) (c : Nat) (x : Nat), (s.glove g).faulted = some (c, x) ∧ (s.reached x 0 = false ∨ s.mstate = MState.fault)) ∧
    (∃ (g : Nat) (s : State) (c : Nat) (x : Nat), (s.glove g).faulted = some (c, x) ∧ s.reached x 0 = true ∧ s.mstate ≠ MState.fault ∧ (s.glove g).live = true ∧ (s.glove g).resetting = false) ∧
    (∃ (g : Nat) (s : State), (s.glove g).resetting = true) :=
  ⟨⟨((State.reset.onRung (fun z => { z with pend := none })) : State), by decide⟩,
   ⟨((State.reset.wNoLedger) : State), by decide⟩,
   ⟨((((State.reset.onRung (fun z => { z with pend := some (0, (0 : Nat), (0 : Nat)) })).wNoLedger).onRung (fun z => { z with rung := 0 })) : State), 0, 0, by decide⟩,
   ⟨((((State.reset.onRung (fun z => { z with pend := some (0, (0 : Nat), (0 : Nat)) })).wNoLedger).onRung (fun z => { z with rung := 1 })) : State), 0, 0, by decide⟩,
   ⟨(((State.reset.onRung (fun z => { z with pend := some ((1 : Nat), (0 : Nat), (0 : Nat)) })).wNoLedger) : State), 1, 0, 0, by decide⟩,
   ⟨((State.reset.onRung (fun z => { z with pend := none })) : State), by decide⟩,
   ⟨(((((State.reset.onRung (fun z => { z with pend := some ((4 : Nat), (default : Nat × Nat)) })).onRung (fun z => { z with entering := some default })).onMem (fun z => { z with queue := [default] })).onRung (fun z => { z with pend := some (4, default) })) : State), 4, default, by decide⟩,
   ⟨((((State.reset.onRung (fun z => { z with pend := some ((0 : Nat), (default : Nat × Nat)) })).onRung (fun z => { z with entering := some default })).onRung (fun z => { z with wake := some (default : WakeSrc) })) : State), 0, default, default, by decide⟩,
   ⟨((((State.reset.onRung (fun z => { z with pend := some ((0 : Nat), (default : Nat × Nat)) })).onRung (fun z => { z with entering := some default })).onRung (fun z => { z with wake := none })) : State), 0, default, by decide⟩,
   ⟨((State.reset.onRung (fun z => { z with entering := some (0 : Nat) })) : State), 0, by decide⟩,
   ⟨((((State.reset.onRung (fun z => { z with entering := some (0 : Nat) })).onTick (fun z => { z with tick := 1000000 })).onRung (fun z => { z with cmd := none })) : State), 0, by decide⟩,
   ⟨WakeSrc.namedTime, by decide⟩,
   ⟨.commandRing, ((State.reset.setFld Adr.tkeWake 0 1 0) : State), by decide⟩,
   ⟨WakeSrc.commandRing, ((State.reset.onRung (fun z => { z with entering := some default })) : State), 0, by decide⟩,
   ⟨WakeSrc.commandRing, (((State.reset.onRung (fun z => { z with entering := none })).onRung (fun z => { z with rung := 0 })) : State), 0, by decide⟩,
   ⟨WakeSrc.commandRing, (((State.reset.onRung (fun z => { z with entering := none })).onRung (fun z => { z with rung := 1 })) : State), 0, by decide⟩,
   ⟨0, ((State.reset.onGlv (0 : Nat) (fun z => { z with faulted := none })) : State), by decide⟩,
   ⟨0, ((State.reset.onGlv (0 : Nat) (fun z => { z with faulted := some ((0 : Nat), (5 : Nat)) })) : State), 0, 5, by decide⟩,
   ⟨0, ((((((State.reset.onGlv (0 : Nat) (fun z => { z with faulted := some ((0 : Nat), (0 : Nat)) })).onTick (fun z => { z with tick := 1000000 })).wM .service).onGlv (0 : Nat) (fun z => { z with live := true })).onGlv (0 : Nat) (fun z => { z with resetting := false })) : State), 0, 0, by decide⟩,
   ⟨0, ((State.reset.onGlv (0 : Nat) (fun z => { z with resetting := true })) : State), by decide⟩⟩

theorem wit_RackNumberingAndWorkers :
    (∃ (half : Half) (val : Word) (s : State) (v : Word), v = mergeHalf half (s.reg Adr.mgrCfg) val ∧ (v.bit 32 = false ∨ (s.reg Adr.mgrCfg).bit 32 = true ∨ s.net.role ≠ 1)) ∧
    (∃ (half : Half) (val : Word) (s : State) (v : Word), v = mergeHalf half (s.reg Adr.mgrCfg) val ∧ v.bit 32 = true ∧ (s.reg Adr.mgrCfg).bit 32 = false ∧ s.net.role = 1) ∧
    (∃ (otherLockTick : Word) (otherIdent : Word) (s : State), (s.net.role ≠ 1 ∨ s.nodeId = none ∨ s.net.lockTick ≤ BitVec.toNat otherLockTick ∧ (BitVec.toNat otherLockTick = s.net.lockTick → deviceIdentity ≤ BitVec.toNat otherIdent))) ∧
    (∃ (otherLockTick : Word) (otherIdent : Word) (s : State), s.net.role = 1 ∧ s.nodeId ≠ none ∧ (BitVec.toNat otherLockTick < s.net.lockTick ∨ BitVec.toNat otherLockTick = s.net.lockTick ∧ BitVec.toNat otherIdent < deviceIdentity) ∧ s.net.workers.Canon) ∧
    (∃ (s : State), s.prof 0 13 1 = 0) ∧
    (∃ (r : Option Word) (s : State) (loses : Bool), (loses = match r with | some x => decide (BitVec.toNat x < deviceIdentity) | none => false) ∧ s.prof 0 13 1 ≠ 0) ∧
    (∃ (r : Option Word) (s : State) (loses : Bool), (loses = match r with | some x => decide (BitVec.toNat x < deviceIdentity) | none => false) ∧ s.prof 0 13 1 ≠ 0) ∧
    (∃ (r : Option Word) (s : State) (loses : Bool), (loses = match r with | some x => decide (BitVec.toNat x < deviceIdentity) | none => false) ∧ s.prof 0 13 1 ≠ 0) ∧
    (∃ (pos : Nat) (s : State), (s.net.role ≠ 1 ∨ 32 ≤ pos)) ∧
    (∃ (pos : Nat) (r : Report) (s : State), s.net.role = 1 ∧ pos < 32 ∧ r.mstate ≠ 7 ∧ (s.worker pos).st ≠ 2 ∧ (s.worker pos).st ≠ 4 ∧ pos ≠ s.net.pos) ∧
    (∃ (pos : Nat) (r : Report) (s : State), s.net.role = 1 ∧ pos < 32 ∧ r.mstate = 7 ∧ ((s.worker pos).st = 1 ∨ (s.worker pos).st = 2)) ∧
    (∃ (pos : Nat) (s : State), (s.net.role ≠ 1 ∨ (s.worker pos).st ≠ 1 ∧ (s.worker pos).st ≠ 2 ∨ pos = s.net.pos)) ∧
    (∃ (pos : Nat) (s : State), s.net.role = 1 ∧ ((s.worker pos).st = 1 ∨ (s.worker pos).st = 2) ∧ pos ≠ s.net.pos) ∧
    (∃ (pos : Nat) (s : State), s.nodeId ≠ none ∧ pos = s.net.pos ∧ s.net.sentBeat + 1000 ≤ s.tick.rcs) ∧
    (∃ (pos : Nat) (s : State), (s.nodeId = none ∨ pos ≠ s.net.pos ∨ s.tick.rcs < s.net.sentBeat + 1000) ∧ (s.net.role ≠ 1 ∨ (s.worker pos).st = 0)) ∧
    (∃ (pos : Nat) (s : State), s.net.role = 1 ∧ (s.worker pos).st ≠ 0) ∧
    (∃ (s : State), s.net.role = 1 ∧ s.net.sentMgr + 100 ≤ s.tick.rcs) ∧
    (∃ (s : State), (s.net.role ≠ 1 ∨ s.tick.rcs < s.net.sentMgr + 100)) ∧
    (∃ (s : State), s.net.role = 0) ∧
    (∃ (s : State), s.net.role ≠ 0) :=
  ⟨⟨.whole, 0, State.reset, (mergeHalf (.whole : Half) ((State.reset : State).reg Adr.mgrCfg) (0 : Word) : Word), by decide⟩,
   ⟨.whole, 0x100000000, ((State.reset.onNet (fun z => { z with role := 1 })) : State), (mergeHalf (.whole : Half) (((State.reset.onNet (fun z => { z with role := 1 })) : State).reg Adr.mgrCfg) (0x100000000 : Word) : Word), by decide⟩,
   ⟨0, 0, State.reset, by decide⟩,
   ⟨0, 0, (((((State.reset.onNet (fun z => { z with role := 1 })).wId (some default)).onNet (fun z => { z with lockTick := 5 })).wId (some 1)) : State), by decide⟩,
   ⟨State.reset, by decide⟩,
   ⟨none, ((State.reset.onAos (fun z => { z with otp := [⟨true, true, 0, [], [0x2000], []⟩] })) : State), (match (none : Option Word) with | some x => decide (BitVec.toNat x < deviceIdentity) | none => false : Bool), by decide⟩,
   ⟨none, ((State.reset.onAos (fun z => { z with otp := [⟨true, true, 0, [], [0x2000], []⟩] })) : State), (match (none : Option Word) with | some x => decide (BitVec.toNat x < deviceIdentity) | none => false : Bool), by decide⟩,
   ⟨none, ((State.reset.onAos (fun z => { z with otp := [⟨true, true, 0, [], [0x2000], []⟩] })) : State), (match (none : Option Word) with | some x => decide (BitVec.toNat x < deviceIdentity) | none => false : Bool), by decide⟩,
   ⟨0, State.reset, by decide⟩,
   ⟨((((State.reset.onNet (fun z => { z with role := 1 })) : State).net.pos + 1) : Nat), default, ((State.reset.onNet (fun z => { z with role := 1 })) : State), by decide⟩,
   ⟨0, ({ (default : Report) with mstate := 7 } : Report), (((State.reset.onNet (fun z => { z with role := 1 })).onWorker (0 : Nat) (fun z => { z with st := 1 })) : State), by decide⟩,
   ⟨0, State.reset, by decide⟩,
   ⟨1, ((((State.reset.onNet (fun z => { z with role := 1 })).onWorker (1 : Nat) (fun z => { z with st := 1 })).onNet (fun z => { z with workers := [(1, { (default : WrkSt) with st := 1 })] })) : State), by decide⟩,
   ⟨0, (((((State.reset.wId (some default)).wId (some 1)).onTick (fun z => { z with rcs := 1000 })).onNet (fun z => { z with pos := 0 })) : State), by decide⟩,
   ⟨0, ((State.reset.wId none) : State), by decide⟩,
   ⟨0, (((State.reset.onNet (fun z => { z with role := 1 })).onWorker (0 : Nat) (fun z => { z with st := 1 })) : State), by decide⟩,
   ⟨(((State.reset.onNet (fun z => { z with role := 1 })).onTick (fun z => { z with rcs := 100 })) : State), by decide⟩,
   ⟨State.reset, by decide⟩,
   ⟨((State.reset.onNet (fun z => { z with role := 0 })) : State), by decide⟩,
   ⟨((State.reset.onNet (fun z => { z with role := 1 })) : State), by decide⟩⟩

theorem wit_RefclkCycleAdvancesTheTick :
    (∃ (s : State), s.tick.refclk = false) ∧
    (∃ (s : State), s.tick.refclk = true ∧ s.due = [] ∧ s.tick.hold = none ∧ s.tick.role ≠ TRole.rackMaster) ∧
    (∃ (s : State) (k : Nat), s.tick.refclk = true ∧ s.tick.hold = some (k + 1)) ∧
    (∃ (s : State), (s.due = [] ∨ s.tick.holding = true) ∧ s.net.role ≠ 1) ∧
    (∃ (s : State) (a : Armed), a ∈ s.armedProfile ++ s.armedLedger ++ s.armedTable ++ s.armedOther ∧ s.reached a.tick a.ofs = true) :=
  ⟨⟨((State.reset.onTick (fun z => { z with refclk := false })) : State), by decide⟩,
   ⟨(((((State.reset.onTick (fun z => { z with refclk := true })).onTick (fun z => { z with hold := none })).onTick (fun z => { z with role := TRole.worker })).wNoLedger) : State), by decide⟩,
   ⟨(((State.reset.onTick (fun z => { z with refclk := true })).onTick (fun z => { z with hold := some ((0 : Nat) + 1) })) : State), 0, by decide⟩,
   ⟨((State.reset.wNoLedger) : State), by decide⟩,
   ⟨(((State.reset.onTick (fun z => { z with tick := 1000000 })).onTick (fun z => { z with pend := some (5, 0) })) : State), ((⟨0, 0, 0, 0, 0, .period⟩ : Armed) : Armed), by decide⟩⟩

theorem wit_RegisterWritesAndTheHostWindow :
    (∃ (func : Nat) (addr : Nat), Adr.bar0Size ≤ addr ∧ func = 0) ∧
    (∃ (func : Nat) (addr : Nat) (s : State), ¬(func = 0 ∧ Adr.bar0Size ≤ addr) ∧ s.barOpen func = false) ∧
    (∃ (func : Nat) (addr : Nat) (half : Half) (val : Word) (s : State) (a : Nat) (w : Word) (r : RegRule), ¬(func = 0 ∧ Adr.bar0Size ≤ addr) ∧ a = addr / 8 * 8 ∧ w = mergeHalf half (s.reg a) val ∧ func = 0 ∧ s.barOpen 0 = true ∧ 4194304 ≤ a ∧ a < 8388608 ∧ flagCounters a = [] ∧ s.regRule a w = some r ∧ r.ok = false) ∧
    (∃ (func : Nat) (addr : Nat) (half : Half) (val : Word) (s : State) (a : Nat) (w : Word) (r : RegRule) (b : Nat), ¬(func = 0 ∧ Adr.bar0Size ≤ addr) ∧ a = addr / 8 * 8 ∧ w = mergeHalf half (s.reg a) val ∧ func = 0 ∧ s.barOpen 0 = true ∧ 4194304 ≤ a ∧ a < 8388608 ∧ flagCounters a = [] ∧ s.regRule a w = some r ∧ r.ok = true ∧ b ≠ a) ∧
    (∃ (func : Nat) (addr : Nat) (half : Half) (val : Word) (s : State) (a : Nat) (w : Word) (r : RegRule), ¬(func = 0 ∧ Adr.bar0Size ≤ addr) ∧ a = addr / 8 * 8 ∧ w = mergeHalf half (s.reg a) val ∧ func = 0 ∧ s.barOpen 0 = true ∧ 4194304 ≤ a ∧ a < 8388608 ∧ flagCounters a = [] ∧ s.regRule a w = some r ∧ r.ok = true ∧ a ≠ Adr.tkeLcfg) ∧
    (∃ (addr : Nat) (s : State), ¬Adr.bar0Size ≤ addr ∧ (s.barOpen 0 = false ∨ flagCounters addr = [])) ∧
    (∃ (addr : Nat) (ev : Word) (s : State), ¬Adr.bar0Size ≤ addr ∧ s.barOpen 0 = true ∧ flagCounters addr ≠ [] ∧ addr < 16777216 ∧ ev = 0) ∧
    (∃ (addr : Nat) (ev : Word) (s : State) (b : Nat), ¬Adr.bar0Size ≤ addr ∧ s.barOpen 0 = true ∧ addr < 16777216 ∧ b < (flagCounters addr).length ∧ b < 64 ∧ ev.bit b = true) ∧
    (∃ (func : Nat) (ofs : Nat) (len : Nat) (s : State), (s.barOpen func = false ∨ State.windowSize func < ofs + len)) ∧
    (∃ (func : Nat) (ofs : Nat) (len : Nat) (s : State) (b : Nat) (a : Access) (f : Nat), s.barOpen func = true ∧ ofs + len ≤ State.windowSize func ∧ 0 < len ∧ ofs % 64 + len ≤ 64 ∧ s.window func = (1, b, a) ∧ nearFrame (b + ofs) = some f ∧ s.nearCheck f a false = none) ∧
    (∃ (func : Nat) (ofs : Nat) (data : List Byte) (s : State), (s.barOpen func = false ∨ State.windowSize func < ofs + data.length)) ∧
    (∃ (func : Nat) (ofs : Nat) (data : List Byte) (mask : List Bool) (s : State) (b : Nat) (a : Access) (f : Nat), s.barOpen func = true ∧ ofs + data.length ≤ State.windowSize func ∧ data.length = 64 ∧ ofs % 64 = 0 ∧ mask = [] ∧ s.window func = (1, b, a) ∧ nearFrame (b + ofs) = some f ∧ s.nearCheck f a true = none ∧ (s.frame f).hold = false) :=
  ⟨⟨0, Adr.bar0Size, by decide⟩,
   ⟨0, 0, State.reset, by decide⟩,
   ⟨0, Adr.tkeAllow, .whole, 0, (((State.reset.wS).setFld Adr.tkeLcfg 20 1 0) : State), ((Adr.tkeAllow : Nat) / 8 * 8 : Nat), (mergeHalf (.whole : Half) ((((State.reset.wS).setFld Adr.tkeLcfg 20 1 0) : State).reg ((Adr.tkeAllow : Nat) / 8 * 8 : Nat)) (0 : Word) : Word), ((⟨bits 0 32, false⟩ : RegRule) : RegRule), by decide, by decide, by decide, by decide, by decide, by decide, by decide, by decide, rfl, by decide⟩,
   ⟨0, Adr.tkeFallback, .whole, 0, ((State.reset.wS) : State), ((Adr.tkeFallback : Nat) / 8 * 8 : Nat), (mergeHalf (.whole : Half) (((State.reset.wS) : State).reg ((Adr.tkeFallback : Nat) / 8 * 8 : Nat)) (0 : Word) : Word), ((⟨bits 0 32, true⟩ : RegRule) : RegRule), 0, by decide, by decide, by decide, by decide, by decide, by decide, by decide, by decide, rfl, by decide⟩,
   ⟨0, Adr.tkeFallback, .whole, 0, ((State.reset.wS) : State), ((Adr.tkeFallback : Nat) / 8 * 8 : Nat), (mergeHalf (.whole : Half) (((State.reset.wS) : State).reg ((Adr.tkeFallback : Nat) / 8 * 8 : Nat)) (0 : Word) : Word), ((⟨bits 0 32, true⟩ : RegRule) : RegRule), by decide, by decide, by decide, by decide, by decide, by decide, by decide, by decide, rfl, by decide⟩,
   ⟨0, State.reset, by decide⟩,
   ⟨Adr.tkeEvt, 0, ((State.reset.wS) : State), by decide⟩,
   ⟨Adr.tkeEvt, 1, ((State.reset.wS) : State), 0, by decide⟩,
   ⟨0, 0, 0, State.reset, by decide⟩,
   ⟨0, 0, 8, ((((State.reset.wS).setReg Adr.hifWin 0x100000001).onMem (fun z => { z with tmap := [(0, { (default : FrameSt) with mode := .system })] })) : State), 0, ((⟨0, 0, true⟩ : Access) : Access), 0, by decide⟩,
   ⟨0, 0, ([] : List Byte), State.reset, by decide⟩,
   ⟨0, 0, ((List.replicate 64 1) : List Byte), ([] : List Bool), (((((State.reset.wS).onFrame (0 : Nat) (fun z => { z with hold := false })).setReg Adr.hifWin 0x100000001).onMem (fun z => { z with tmap := [(0, { (default : FrameSt) with mode := .system })] })) : State), 0, ((⟨0, 0, true⟩ : Access) : Access), 0, by decide⟩⟩

theorem wit_ResetCausesAndRelease :
    (∃ (s : State), s.mstate = MState.off) ∧
    (∃ (s : State), (s.mstate = MState.off ∨ s.aos.driven = true)) ∧
    (∃ (lowRc : Nat) (s : State), s.mstate ≠ MState.off ∧ s.aos.driven = false ∧ lowRc < 1000) ∧
    (∃ (lowRc : Nat) (s : State), s.mstate ≠ MState.off ∧ s.aos.driven = false ∧ 1000 ≤ lowRc) ∧
    (∃ (s : State), (s.aos.watched = false ∨ s.aos.tripped = true)) ∧
    (∃ (s : State), s.aos.watched = true ∧ s.aos.tripped = false ∧ s.mstate ≠ MState.off) ∧
    (∃ (s : State), s.aos.tripped = true) ∧
    (∃ (s : State), (s.aos.tripped = true ∨ s.mstate = MState.off)) ∧
    (∃ (count : Nat) (s : State), s.mstate ≠ MState.off ∧ 3072 ≤ count ∧ count ≤ 5120 ∧ s.tick.refclk = true) ∧
    (∃ (count : Nat) (s : State), s.mstate ≠ MState.off ∧ 3072 ≤ count ∧ count ≤ 5120 ∧ s.tick.refclk = false) ∧
    (∃ (count : Nat) (s : State), s.mstate ≠ MState.off ∧ s.tick.refclk = true ∧ (count < 3072 ∨ 5120 < count)) ∧
    (∃ (count : Nat) (s : State), s.mstate ≠ MState.off ∧ count < 65536) ∧
    (∃ (s : State), (s.aos.asserted = true ∨ s.aos.stage = 0)) ∧
    (∃ (s : State), s.aos.asserted = false ∧ s.aos.stage ≠ 0 ∧ s.mstate ≠ MState.off) ∧
    (∃ (half : Half), half = Half.hi) ∧
    (∃ (half : Half) (val : Word), half = Half.whole ∧ (val.field 8 8 ≠ 165 ∨ val.field 1 7 ≠ 0 ∨ val.field 16 48 ≠ 0)) ∧
    (∃ (half : Half) (val : Word) (s : State), half = Half.whole ∧ val.field 8 8 = 165 ∧ val.field 1 7 = 0 ∧ val.field 16 48 = 0 ∧ s.mstate ≠ MState.off) ∧
    (∃ (s : State), (s.mstate ≠ MState.reset ∨ s.aos.asserted = false ∨ s.aos.tripped = true ∨ s.tick.refclk = false ∨ s.aos.windows < 16 ∨ s.aos.causeAge < 100000)) ∧
    (∃ (s : State), s.mstate = MState.reset ∧ s.aos.asserted = true ∧ s.aos.driven = true ∧ s.aos.tripped = false ∧ s.tick.refclk = true ∧ 16 ≤ s.aos.windows ∧ 100000 ≤ s.aos.causeAge) ∧
    (∃ (s : State), s.aos.sampling = false) ∧
    (∃ (high : Bool) (s : State), s.aos.sampling = true ∧ high = false) ∧
    (∃ (high : Bool) (s : State), s.aos.sampling = true ∧ high = true ∧ s.aos.otpLoading = true) :=
  ⟨⟨((State.reset.wM .off) : State), by decide⟩,
   ⟨((State.reset.wM .off) : State), by decide⟩,
   ⟨0, (((State.reset.wM .service).onAos (fun z => { z with driven := false })) : State), by decide⟩,
   ⟨1000, (((State.reset.wM .service).onAos (fun z => { z with driven := false })) : State), by decide⟩,
   ⟨((State.reset.onAos (fun z => { z with watched := false })) : State), by decide⟩,
   ⟨((((State.reset.onAos (fun z => { z with watched := true })).onAos (fun z => { z with tripped := false })).wM .service) : State), by decide⟩,
   ⟨((State.reset.onAos (fun z => { z with tripped := true })) : State), by decide⟩,
   ⟨((State.reset.onAos (fun z => { z with tripped := true })) : State), by decide⟩,
   ⟨3072, (((State.reset.wM .service).onTick (fun z => { z with refclk := true })) : State), by decide⟩,
   ⟨3072, (((State.reset.wM .service).onTick (fun z => { z with refclk := false })) : State), by decide⟩,
   ⟨0, (((State.reset.wM .service).onTick (fun z => { z with refclk := true })) : State), by decide⟩,
   ⟨0, ((State.reset.wM .service) : State), by decide⟩,
   ⟨((State.reset.onAos (fun z => { z with asserted := true })) : State), by decide⟩,
   ⟨((((State.reset.onAos (fun z => { z with asserted := false })).onAos (fun z => { z with stage := 1 })).wM .service) : State), by decide⟩,
   ⟨Half.hi, by decide⟩,
   ⟨Half.whole, 0, by decide⟩,
   ⟨Half.whole, (((((0 : Word).setField 8 8 165).setField 1 7 0).setField 16 48 0) : Word), ((State.reset.wM .service) : State), by decide⟩,
   ⟨((State.reset.wM .service) : State), by decide⟩,
   ⟨(((((((State.reset.wM .reset).onAos (fun z => { z with asserted := true })).onAos (fun z => { z with driven := true })).onAos (fun z => { z with tripped := false })).onTick (fun z => { z with refclk := true })).onAos (fun z => { z with windows := 16, causeAge := 100000 })) : State), by decide⟩,
   ⟨((State.reset.onAos (fun z => { z with sampling := false })) : State), by decide⟩,
   ⟨false, ((State.reset.onAos (fun z => { z with sampling := true })) : State), by decide⟩,
   ⟨true, (((State.reset.onAos (fun z => { z with sampling := true })).onAos (fun z => { z with otpLoading := true })) : State), by decide⟩⟩

theorem wit_ResetState :
    (∃ (a : Nat), a ≠ Adr.aosRstcause ∧ a ≠ Adr.tkeFallback) :=
  ⟨((Adr.aosRstcause + 1) : Nat), by decide⟩

theorem wit_RingsRowsAndRemoteWrites :
    (∃ (cell : Nat) (rng : Nat) (s : State), ((s.ringOf cell rng).active = false ∨ (s.ringOf cell rng).isWrite = true ∨ (s.ringOf cell rng).slots ≤ (s.ringOf cell rng).full ∨ (s.ringOf cell rng).wait ≠ [])) ∧
    (∃ (cell : Nat) (rng : Nat) (s : State) (w : Word) (ti : Nat) (n : Nat), (s.ringOf cell rng).active = true ∧ (s.ringOf cell rng).isWrite = false ∧ (s.ringOf cell rng).full < (s.ringOf cell rng).slots ∧ (s.ringOf cell rng).wait = [] ∧ s.ringNext cell rng = some (w, ti, n) ∧ ((s.mprog cell).run w).snd = none ∧ taSpace ((s.mprog cell).run w).fst.ta ≠ 8 ∧ (∀ (u : Nat), u ∈ readUnits ((s.mprog cell).run w).fst ti (State.tileBase ((s.mprog cell).run w).fst (w.bit 48) ti 0) 64 → ∃ f v, s.planeUnit (s.cellAccess cell) ((s.mprog cell).run w).fst (w.bit 48) u false = Place.near f v ∧ s.poisoned f v = false)) ∧
    (∃ (cell : Nat) (rng : Nat) (u : State) (d : List Byte) (l : List (List Byte)), (u.ringOf cell rng).wait = d :: l ∧ d.length = 512 ∧ l = []) ∧
    (∃ (cell : Nat) (rng : Nat) (s : State), ((s.ringOf cell rng).active = false ∨ (s.ringOf cell rng).isWrite = false ∨ (s.ringOf cell rng).full = 0)) ∧
    (∃ (cell : Nat) (rng : Nat) (upset : List (Nat × Nat)) (s : State) (w : Word) (ti : Nat) (n : Nat), (s.ringOf cell rng).active = true ∧ (s.ringOf cell rng).isWrite = true ∧ (s.ringOf cell rng).full ≠ 0 ∧ s.ringNext cell rng = some (w, ti, n) ∧ upset = [] ∧ (s.serveElastics cell).drainRows cell rng ≠ 0) ∧
    (∃ (cell : Nat) (rng : Nat) (upset : List (Nat × Nat)) (s : State) (w : Word) (ti : Nat) (n : Nat), (s.ringOf cell rng).active = true ∧ (s.ringOf cell rng).isWrite = true ∧ (s.ringOf cell rng).full ≠ 0 ∧ s.ringNext cell rng = some (w, ti, n) ∧ upset = [] ∧ (s.serveElastics cell).drainRows cell rng = 0 ∧ ((s.serveElastics cell).ringOf cell rng).held = true ∧ (s.serveElastics cell).mem.heldWrites = [] ∧ (∀ (f v : Nat), (s.serveElastics cell).poisoned f v = false)) ∧
    (∃ (cell : Nat) (row : Nat) (s : State), (s.mergeOf cell row = none ∨ s.slotFree cell row = false)) ∧
    (∃ (cell : Nat) (row : Nat) (s : State) (e : MergeSt), s.slotFree cell row = true ∧ s.mergeOf cell row = some e ∧ e.data.length = 512) ∧
    (∃ (ta : Word) (glove : Nat) (data : List Byte) (s : State), taSpace (BitVec.toNat ta) = 0 ∧ taOfs (BitVec.toNat ta) / 2 ^ 35 = 0 ∧ BitVec.toNat ta / 2 ^ 20 % 4096 < 2304 ∧ BitVec.toNat ta % 512 = 0 ∧ data.length = 512 ∧ s.mcellGlove (BitVec.toNat ta / 2 ^ 20 % 4096) = some glove ∧ (s.mcell (BitVec.toNat ta / 2 ^ 20 % 4096)).elastic = [] ∧ s.slotFree (BitVec.toNat ta / 2 ^ 20 % 4096) (BitVec.toNat ta / 2 ^ 9 % 2048) = true ∧ (s.reg (Adr.rwin (BitVec.toNat ta / 2 ^ 20 % 4096 / 288) (BitVec.toNat ta / 2 ^ 20 % 4096 % 288) (BitVec.toNat ta / 2 ^ 32 % 8))).field 23 2 = 1 ∧ (s.reg (Adr.rwin (BitVec.toNat ta / 2 ^ 20 % 4096 / 288) (BitVec.toNat ta / 2 ^ 20 % 4096 % 288) (BitVec.toNat ta / 2 ^ 32 % 8))).field 0 11 ≤ BitVec.toNat ta / 2 ^ 9 % 2048 ∧ BitVec.toNat ta / 2 ^ 9 % 2048 < (s.reg (Adr.rwin (BitVec.toNat ta / 2 ^ 20 % 4096 / 288) (BitVec.toNat ta / 2 ^ 20 % 4096 % 288) (BitVec.toNat ta / 2 ^ 32 % 8))).field 0 11 + (s.reg (Adr.rwin (BitVec.toNat ta / 2 ^ 20 % 4096 / 288) (BitVec.toNat ta / 2 ^ 20 % 4096 % 288) (BitVec.toNat ta / 2 ^ 32 % 8))).field 11 12) ∧
    (∃ (ta : Word) (glove : Nat) (data : List Byte) (s : State), data ≠ [] ∧ data.length ≤ 512 - BitVec.toNat ta % 512 ∧ (s.mcellGlove (BitVec.toNat ta / 2 ^ 20 % 4096) ≠ some glove ∨ (s.reg (Adr.rwin (BitVec.toNat ta / 2 ^ 20 % 4096 / 288) (BitVec.toNat ta / 2 ^ 20 % 4096 % 288) (BitVec.toNat ta / 2 ^ 32 % 8))).field 23 2 = 0)) ∧
    (∃ (cell : Nat) (q : Nat) (producer : Nat) (s : State), cell < 2304 ∧ producer ≠ cell ∧ (s.hqOf cell (q % 2)).prod = some (mcellName producer) ∧ (s.hqOf cell (q % 2)).handles.length < 16) ∧
    (∃ (die : Nat) (m : Nat) (n : Nat) (half : Half) (val : Word) (counted : Nat) (a : Nat), m < 288 ∧ half ≠ Half.hi ∧ BitVec.toNat val % 2 ^ 32 + counted ≤ 4294967295 ∧ a ≠ Adr.arvCnt die m n) ∧
    (∃ (die : Nat) (m : Nat) (n : Nat) (half : Half) (val : Word) (counted : Nat), die < 8 ∧ m < 288 ∧ n < 16 ∧ half ≠ Half.hi ∧ 4294967295 < BitVec.toNat val % 2 ^ 32 + counted) ∧
    (∃ (who : Requester) (ta : Word) (op : NarrowOp) (upset : Bool) (s : State) (c : Nat) (g : Nat) (v : Nat) (len : Nat) (a : Nat), who = Requester.core c g v ∧ s.whoStopped who = false ∧ (s.mcell (BitVec.toNat ta / 2 ^ 20 % 4096)).narrow = [] ∧ s.cellIdle (BitVec.toNat ta / 2 ^ 20 % 4096) = true ∧ s.rowLocked (BitVec.toNat ta / 2 ^ 20 % 4096) (BitVec.toNat ta / 2 ^ 9 % 2048) = false ∧ op = NarrowOp.read len ∧ upset = false ∧ len ∈ [1, 2, 4, 8, 64] ∧ BitVec.toNat ta % len = 0 ∧ taSpace (BitVec.toNat ta) = 0 ∧ BitVec.toNat ta / 2 ^ 56 = 0 ∧ taOfs (BitVec.toNat ta) / 2 ^ 35 = 0 ∧ BitVec.toNat ta / 2 ^ 20 % 4096 < 2304 ∧ BitVec.toNat ta / 2 ^ 32 % 8 = 0 ∧ s.badRow (BitVec.toNat ta / 2 ^ 20 % 4096) (BitVec.toNat ta / 2 ^ 9 % 2048) = 0 ∧ a ≠ Adr.spdCntNarrow (BitVec.toNat ta / 2 ^ 20 % 4096 / 288)) :=
  ⟨⟨0, 0, State.reset, by decide⟩,
   ⟨0, 0, (((((((State.reset.onPalm 0 fun z => { z with glove := some 0 }).onMem fun z => { z with tmap := [(0, { (default : FrameSt) with mode := .priv })] }).wKey 0).onArr fun z => { z with progs := [(0, [0x41, 0, 0x810000000000000, 1, 1, 1, 1, 1, 0, 0x1000001, 0x1008000000000000])] }).onMCell 0 fun z => { z with rings := [{ (default : RingSt) with active := true, slots := 2 }] })) : State), 0x1008000000000000, 0, 0, by decide, by decide, by decide, by decide, rfl, by decide, by decide, by intro u hu; have e : u = 0 := (by revert u; decide); subst e; exact ⟨0, 0, rfl, by decide⟩⟩,
   ⟨0, 0, ((State.reset.onMCell 0 fun z => { z with rings := [{ (default : RingSt) with wait := [List.replicate 512 0] }] }) : State), ((List.replicate 512 0) : List Byte), ([] : List (List Byte)), by decide⟩,
   ⟨0, 0, State.reset, by decide⟩,
   ⟨0, 0, ([] : List (Nat × Nat)), (((((((State.reset.onPalm 0 fun z => { z with glove := some 0 }).onMem fun z => { z with tmap := [(0, { (default : FrameSt) with mode := .priv })] }).wKey 0).onArr fun z => { z with progs := [(0, [0x41, 0, 0x810000000000000, 1, 1, 1, 1, 1, 63, 0x1000040, 0x1008000000000000])] }).onMCell 0 fun z => { z with rings := [{ (default : RingSt) with active := true, isWrite := true, slots := 2, full := 1 }] })) : State), 0x1008000000000000, 0, 0, by decide, by decide, by decide, rfl, by decide⟩,
   ⟨0, 0, ([] : List (Nat × Nat)), (((((((State.reset.onPalm 0 fun z => { z with glove := some 0 }).onMem fun z => { z with tmap := [(0, { (default : FrameSt) with mode := .priv })] }).wKey 0).onArr fun z => { z with progs := [(0, [0x41, 0, 0x810000000000000, 1, 1, 1, 1, 1, 0, 0x1000001, 0x1008000000000000])] }).onMCell 0 fun z => { z with rings := [{ (default : RingSt) with active := true, isWrite := true, slots := 2, full := 1, moved := 1, held := true }] })) : State), 0x1008000000000000, 0, 0, by decide, by decide, by decide, rfl, by decide, by decide, by decide, by decide, by intros; rfl⟩,
   ⟨0, 0, State.reset, by decide⟩,
   ⟨0, 0, ((State.reset.onMCell 0 (fun z => { z with merge := [{ (default : MergeSt) with data := List.replicate 512 0 }] })) : State), ({ (default : MergeSt) with data := List.replicate 512 0 } : MergeSt), by decide⟩,
   ⟨0, 0, ((List.replicate 512 0) : List Byte), ((((State.reset.onMCell (BitVec.toNat (0 : Word) / 2 ^ 20 % 4096) (fun z => { z with elastic := [] })).onPalm 0 (fun z => { z with glove := some 0 })).setReg (Adr.rwin 0 0 0) 0x801000) : State), by decide⟩,
   ⟨0, 0, ([default] : List Byte), State.reset, by decide⟩,
   ⟨0, 0, 1, ((State.reset.onMCell 0 (fun z => { z with hq := [{ (default : HqSt) with prod := some (mcellName 1) }] })) : State), by decide⟩,
   ⟨0, 0, 0, Half.whole, 0, 0, ((Adr.arvCnt (0 : Nat) (0 : Nat) (0 : Nat) + 1) : Nat), by decide⟩,
   ⟨0, 0, 0, Half.whole, 0xFFFFFFFF, 1, by decide⟩,
   ⟨(Requester.core (0 : Nat) (0 : Nat) (0 : Nat) : Requester), 0, (NarrowOp.read (1 : Nat) : NarrowOp), false, ((State.reset.onMCell (BitVec.toNat (0 : Word) / 2 ^ 20 % 4096) (fun z => { z with narrow := [] })) : State), 0, 0, 0, 1, 0, by decide⟩⟩

theorem wit_ScheduleFaultsAndCellExceptionsStopTheirPattern :
    (∃ (f : SFault) (s : State), s.patRuns f.glove = false) ∧
    (∃ (f : SFault) (s : State), s.patRuns f.glove = true ∧ (s.pat f.glove).stopAt = none ∧ (s.pat f.glove).cycle < f.cycle + (s.pat f.glove).lf ∧ (s.glove f.glove).live = true ∧ (s.glove f.glove).resetting = false ∧ (s.glove f.glove).faulted = none ∧ (s.glove f.glove).stuck = false) :=
  ⟨⟨default, State.reset, by decide⟩,
   ⟨({ (default : SFault) with cycle := 5 } : SFault), (((((((State.reset.onPat ({ (default : SFault) with cycle := 5 } : SFault).glove (fun z => { z with valid := true })).onPat ({ (default : SFault) with cycle := 5 } : SFault).glove (fun z => { z with stopAt := none })).onGlv ({ (default : SFault) with cycle := 5 } : SFault).glove (fun z => { z with live := true })).onGlv ({ (default : SFault) with cycle := 5 } : SFault).glove (fun z => { z with resetting := false })).onGlv ({ (default : SFault) with cycle := 5 } : SFault).glove (fun z => { z with faulted := none })).onGlv ({ (default : SFault) with cycle := 5 } : SFault).glove (fun z => { z with stuck := false })) : State), by decide⟩⟩

theorem wit_SequenceCommands :
    (∃ (c : HostCmd) (s : State) (u : State), s.Accepts c 64 [bits 0 56, bits 0 56, bits 0 40, bits 0 56, allBits, bits 0 32] u ∧ u.inS = false) ∧
    (∃ (c : HostCmd) (s : State) (u : State) (st : Nat), s.Accepts c 64 [bits 0 56, bits 0 56, bits 0 40, bits 0 56, allBits, bits 0 32] u ∧ u.inS = true ∧ u.admitCheck c = some st) ∧
    (∃ (c : HostCmd) (s : State) (u : State), s.Accepts c 64 [bits 0 56, bits 0 56, bits 0 40, bits 0 56, allBits, bits 0 32] u ∧ u.inS = true ∧ u.admitCheck c = none) ∧
    (∃ (c : HostCmd) (s : State) (u : State), s.Accepts c 64 [bits 0 56, bits 0 56, bits 0 40, bits 0 56, allBits, bits 0 32] u ∧ (u.glove (c.a1.field 0 6)).live = false) ∧
    (∃ (c : HostCmd) (s : State) (u : State), s.Accepts c 64 [bits 0 56, bits 0 56, bits 0 40, bits 0 56, allBits, bits 0 32] u ∧ (u.glove (c.a1.field 0 6)).live = true ∧ u.serves (c.a1.field 0 6) = false) ∧
    (∃ (c : HostCmd) (s : State) (u : State), s.Accepts c 64 [bits 0 56, bits 0 56, bits 0 40, bits 0 56, allBits, bits 0 32] u ∧ (u.glove (c.a1.field 0 6)).live = true ∧ u.serves (c.a1.field 0 6) = true ∧ c.a1.field 6 8 ≠ (u.glove (c.a1.field 0 6)).key) ∧
    (∃ (c : HostCmd) (s : State) (u : State) (i : Nat), s.Accepts c 66 [bits 0 40, bits 0 56, bits 0 40] u ∧ u.inS = true ∧ i < 2 ^ 17 ∧ (u.seqEnt i).inc < 256 ∧ c.a1.field 0 32 = u.seqHandle i ∧ (u.seqEnt i).st ≠ QState.free ∧ (u.seqEnt i).key = c.a1.field 32 8 ∧ (u.seqEnt i).st ≠ QState.complete) ∧
    (∃ (c : HostCmd) (s : State) (u : State) (i : Nat), s.Accepts c 66 [bits 0 40, bits 0 56, bits 0 40] u ∧ u.inS = true ∧ i < 2 ^ 17 ∧ (u.seqEnt i).inc < 256 ∧ c.a1.field 0 32 = u.seqHandle i ∧ (u.seqEnt i).st ≠ QState.free ∧ (u.seqEnt i).key = c.a1.field 32 8 ∧ (u.seqEnt i).st = QState.complete ∧ (u.model (u.seqEnt i).model).ctxmax < (u.seqEnt i).clen + 1 + c.a3.field 0 20 + c.a3.field 20 20) ∧
    (∃ (c : HostCmd) (s : State) (u : State) (i : Nat), s.Accepts c 66 [bits 0 40, bits 0 56, bits 0 40] u ∧ u.inS = true ∧ i < 2 ^ 17 ∧ (u.seqEnt i).inc < 256 ∧ c.a1.field 0 32 = u.seqHandle i ∧ (u.seqEnt i).st ≠ QState.free ∧ (u.seqEnt i).key = c.a1.field 32 8 ∧ (u.seqEnt i).st = QState.complete ∧ 0 < c.a3.field 0 20 ∧ 0 < c.a3.field 20 20 ∧ (u.seqEnt i).clen + 1 + c.a3.field 0 20 + c.a3.field 20 20 ≤ (u.model (u.seqEnt i).model).ctxmax ∧ (u.seqEnt i).job = none ∧ (u.seqEnt i).retry = none ∧ (u.serve (u.seqEnt i).glove).phase ≠ 0) ∧
    (∃ (c : HostCmd) (s : State) (u : State) (i : Nat) (j : Nat), s.Accepts c 67 [bits 0 40] u ∧ u.inA = true ∧ i < 2 ^ 17 ∧ (u.seqEnt i).inc < 256 ∧ c.a1.field 0 32 = u.seqHandle i ∧ (u.seqEnt i).st ≠ QState.free ∧ (u.seqEnt i).key = c.a1.field 32 8 ∧ ((u.seqEnt i).st = QState.admitted ∨ (u.seqEnt i).st = QState.pausedNear ∨ (u.seqEnt i).st = QState.pausedWide ∨ (u.seqEnt i).st = QState.pausedDeep ∨ ((u.seqEnt i).st = QState.prefill ∨ (u.seqEnt i).st = QState.decode) ∧ (u.seqEnt i).instep = false) ∧ j ≠ i) ∧
    (∃ (c : HostCmd) (s : State) (u : State) (i : Nat) (j : Nat), s.Accepts c 67 [bits 0 40] u ∧ u.inA = true ∧ i < 2 ^ 17 ∧ (u.seqEnt i).inc < 256 ∧ c.a1.field 0 32 = u.seqHandle i ∧ (u.seqEnt i).st ≠ QState.free ∧ (u.seqEnt i).key = c.a1.field 32 8 ∧ ((u.seqEnt i).st = QState.prefill ∨ (u.seqEnt i).st = QState.decode) ∧ (u.seqEnt i).instep = true ∧ j ≠ i) ∧
    (∃ (c : HostCmd) (s : State) (u : State) (i : Nat), s.Accepts c 67 [bits 0 40] u ∧ u.inA = true ∧ i < 2 ^ 17 ∧ (u.seqEnt i).inc < 256 ∧ c.a1.field 0 32 = u.seqHandle i ∧ (u.seqEnt i).st ≠ QState.free ∧ (u.seqEnt i).key = c.a1.field 32 8 ∧ (u.seqEnt i).st = QState.complete) ∧
    (∃ (c : HostCmd) (s : State) (u : State) (i : Nat), s.Accepts c 67 [bits 0 40] u ∧ u.inA = true ∧ i < 2 ^ 17 ∧ (u.seqEnt i).inc < 256 ∧ c.a1.field 0 32 = u.seqHandle i ∧ (u.seqEnt i).st ≠ QState.free ∧ (u.seqEnt i).key = c.a1.field 32 8 ∧ ((u.seqEnt i).st = QState.cancelled ∨ (u.seqEnt i).st = QState.expired)) ∧
    (∃ (c : HostCmd) (s : State) (u : State) (i : Nat), s.Accepts c 68 [bits 0 40] u ∧ u.inA = true ∧ i < 2 ^ 17 ∧ (u.seqEnt i).inc < 256 ∧ c.a1.field 0 32 = u.seqHandle i ∧ (u.seqEnt i).st ≠ QState.free ∧ (u.seqEnt i).key = c.a1.field 32 8 ∧ ((u.seqEnt i).st = QState.complete ∨ ((u.seqEnt i).st = QState.prefill ∨ (u.seqEnt i).st = QState.decode) ∧ (u.seqEnt i).canreq = false ∧ (u.seqEnt i).instep = false)) ∧
    (∃ (c : HostCmd) (s : State) (u : State) (i : Nat) (j : Nat), s.Accepts c 68 [bits 0 40] u ∧ u.inA = true ∧ i < 2 ^ 17 ∧ (u.seqEnt i).inc < 256 ∧ c.a1.field 0 32 = u.seqHandle i ∧ (u.seqEnt i).st ≠ QState.free ∧ (u.seqEnt i).key = c.a1.field 32 8 ∧ ((u.seqEnt i).st = QState.prefill ∨ (u.seqEnt i).st = QState.decode) ∧ (u.seqEnt i).canreq = false ∧ (u.seqEnt i).instep = true ∧ j ≠ i) ∧
    (∃ (c : HostCmd) (s : State) (u : State) (i : Nat), s.Accepts c 68 [bits 0 40] u ∧ u.inA = true ∧ i < 2 ^ 17 ∧ (u.seqEnt i).inc < 256 ∧ c.a1.field 0 32 = u.seqHandle i ∧ (u.seqEnt i).st ≠ QState.free ∧ (u.seqEnt i).key = c.a1.field 32 8 ∧ ((u.seqEnt i).st = QState.prefill ∨ (u.seqEnt i).st = QState.decode) ∧ (u.seqEnt i).canreq = true) ∧
    (∃ (c : HostCmd) (s : State) (u : State) (i : Nat), s.Accepts c 68 [bits 0 40] u ∧ u.inA = true ∧ i < 2 ^ 17 ∧ (u.seqEnt i).inc < 256 ∧ c.a1.field 0 32 = u.seqHandle i ∧ (u.seqEnt i).st ≠ QState.free ∧ (u.seqEnt i).key = c.a1.field 32 8 ∧ ((u.seqEnt i).st = QState.admitted ∨ (u.seqEnt i).st = QState.pausedNear ∨ (u.seqEnt i).st = QState.pausedWide ∨ (u.seqEnt i).st = QState.pausedDeep ∨ (u.seqEnt i).st = QState.cancelled ∨ (u.seqEnt i).st = QState.expired)) ∧
    (∃ (c : HostCmd) (s : State) (u : State) (i : Nat), s.Accepts c 69 [bits 0 40] u ∧ u.inS = true ∧ i < 2 ^ 17 ∧ (u.seqEnt i).inc < 256 ∧ c.a1.field 0 32 = u.seqHandle i ∧ (u.seqEnt i).st ≠ QState.free ∧ (u.seqEnt i).key = c.a1.field 32 8 ∧ (State.isPaused (u.seqEnt i).st = false ∨ (u.seqEnt i).resuming = true)) ∧
    (∃ (c : HostCmd) (s : State) (u : State) (i : Nat), s.Accepts c 69 [bits 0 40] u ∧ u.inS = true ∧ i < 2 ^ 17 ∧ (u.seqEnt i).inc < 256 ∧ c.a1.field 0 32 = u.seqHandle i ∧ (u.seqEnt i).st ≠ QState.free ∧ (u.seqEnt i).key = c.a1.field 32 8 ∧ State.isPaused (u.seqEnt i).st = true ∧ (u.seqEnt i).resuming = false) ∧
    (∃ (c : HostCmd) (s : State) (u : State) (i : Nat), s.Accepts c 70 [bits 0 40] u ∧ u.inA = true ∧ i < 2 ^ 17 ∧ (u.seqEnt i).inc < 256 ∧ c.a1.field 0 32 = u.seqHandle i ∧ (u.seqEnt i).st ≠ QState.free ∧ (u.seqEnt i).key = c.a1.field 32 8 ∧ ((u.seqEnt i).st = QState.complete ∨ (u.seqEnt i).st = QState.cancelled ∨ (u.seqEnt i).st = QState.expired) ∧ (u.seqEnt i).job = none) ∧
    (∃ (c : HostCmd) (s : State) (u : State) (i : Nat), s.Accepts c 70 [bits 0 40] u ∧ u.inA = true ∧ i < 2 ^ 17 ∧ (u.seqEnt i).inc < 256 ∧ c.a1.field 0 32 = u.seqHandle i ∧ (u.seqEnt i).st ≠ QState.free ∧ (u.seqEnt i).key = c.a1.field 32 8 ∧ ((u.seqEnt i).st = QState.admitted ∨ (u.seqEnt i).st = QState.prefill ∨ (u.seqEnt i).st = QState.decode ∨ (u.seqEnt i).st = QState.pausedNear ∨ (u.seqEnt i).st = QState.pausedWide ∨ (u.seqEnt i).st = QState.pausedDeep)) ∧
    (∃ (c : HostCmd) (s : State) (u : State), s.Accepts c 65 [bits 0 56, bits 0 56, bits 0 40, bits 0 56, allBits, allBits] u ∧ u.inS = true ∧ u.net.role ≠ 1) ∧
    (∃ (c : HostCmd) (s : State) (u : State), s.Accepts c 65 [bits 0 56, bits 0 56, bits 0 40, bits 0 56, allBits, allBits] u ∧ u.inS = true ∧ u.net.role = 1 ∧ u.routeOrder (c.a1.field 14 20) (c.a6.field 32 32) = []) ∧
    (∃ (c : HostCmd) (s : State) (u : State) (w : Word) (rest : List Word), s.Accepts c 65 [bits 0 56, bits 0 56, bits 0 40, bits 0 56, allBits, allBits] u ∧ u.inS = true ∧ u.net.role = 1 ∧ u.routeOrder (c.a1.field 14 20) (c.a6.field 32 32) = w :: rest ∧ u.routeOpen w = true ∧ u.nodeId = some (w.field 0 13) ∧ u.admitCheck (u.routedCmd c w) = none) ∧
    (∃ (c : HostCmd) (s : State) (u : State) (w : Word) (rest : List Word), s.Accepts c 65 [bits 0 56, bits 0 56, bits 0 40, bits 0 56, allBits, allBits] u ∧ u.inS = true ∧ u.net.role = 1 ∧ u.routeOrder (c.a1.field 14 20) (c.a6.field 32 32) = w :: rest ∧ u.routeOpen w = true ∧ u.nodeId ≠ some (w.field 0 13)) :=
  ⟨⟨((default : HostCmd) : HostCmd), State.reset, ((State.reset : State) : State), ⟨rfl, rfl, by decide⟩, by decide⟩,
   ⟨((default : HostCmd) : HostCmd), ((State.reset.wM .service) : State), (((State.reset.wM .service) : State) : State), stOwner, ⟨rfl, rfl, by decide⟩, by decide⟩,
   ⟨({ (default : HostCmd) with a3 := 0x100001 } : HostCmd), (((((State.reset.wM .service).onGlv 0 (fun z => { z with live := true })).setFld (Adr.stwGcfg 0) 45 1 1).onModel 0 (fun z => { z with st := .resident, ctxmax := 8, gloves := 1 })) : State), ((((((State.reset.wM .service).onGlv 0 (fun z => { z with live := true })).setFld (Adr.stwGcfg 0) 45 1 1).onModel 0 (fun z => { z with st := .resident, ctxmax := 8, gloves := 1 })) : State) : State), ⟨rfl, rfl, by decide⟩, by decide⟩,
   ⟨((default : HostCmd) : HostCmd), ((State.reset.onGlv (((default : HostCmd) : HostCmd).a1.field 0 6) (fun z => { z with live := false })) : State), (((State.reset.onGlv (((default : HostCmd) : HostCmd).a1.field 0 6) (fun z => { z with live := false })) : State) : State), ⟨rfl, rfl, by decide⟩, by decide⟩,
   ⟨((default : HostCmd) : HostCmd), ((State.reset.onGlv (((default : HostCmd) : HostCmd).a1.field 0 6) (fun z => { z with live := true })) : State), (((State.reset.onGlv (((default : HostCmd) : HostCmd).a1.field 0 6) (fun z => { z with live := true })) : State) : State), ⟨rfl, rfl, by decide⟩, by decide⟩,
   ⟨({ (default : HostCmd) with a1 := 0x40 } : HostCmd), (((State.reset.onGlv (({ (default : HostCmd) with a1 := 0x40 } : HostCmd).a1.field 0 6) (fun z => { z with live := true })).setFld (Adr.stwGcfg 0) 45 1 1) : State), ((((State.reset.onGlv (({ (default : HostCmd) with a1 := 0x40 } : HostCmd).a1.field 0 6) (fun z => { z with live := true })).setFld (Adr.stwGcfg 0) 45 1 1) : State) : State), ⟨rfl, rfl, by decide⟩, by decide⟩,
   ⟨({ (default : HostCmd) with a1 := ((0 : Word).setField 0 32 (((((State.reset.wM .service).onSeqEnt (0 : Nat) (fun z => { z with st := QState.admitted })) : State) : State).seqHandle (0 : Nat))) } : HostCmd), (((State.reset.wM .service).onSeqEnt (0 : Nat) (fun z => { z with st := QState.admitted })) : State), ((((State.reset.wM .service).onSeqEnt (0 : Nat) (fun z => { z with st := QState.admitted })) : State) : State), 0, ⟨rfl, rfl, by decide⟩, by decide⟩,
   ⟨({ (default : HostCmd) with a1 := ((0 : Word).setField 0 32 ((((((State.reset.wM .service).onSeqEnt (0 : Nat) (fun z => { z with st := QState.admitted })).onSeqEnt (0 : Nat) (fun z => { z with st := QState.complete })) : State) : State).seqHandle (0 : Nat))) } : HostCmd), ((((State.reset.wM .service).onSeqEnt (0 : Nat) (fun z => { z with st := QState.admitted })).onSeqEnt (0 : Nat) (fun z => { z with st := QState.complete })) : State), (((((State.reset.wM .service).onSeqEnt (0 : Nat) (fun z => { z with st := QState.admitted })).onSeqEnt (0 : Nat) (fun z => { z with st := QState.complete })) : State) : State), 0, ⟨rfl, rfl, by decide⟩, by decide⟩,
   ⟨({ (default : HostCmd) with a3 := 0x100001 } : HostCmd), ((((((((State.reset.wM .service).onSeqEnt (0 : Nat) (fun z => { z with st := QState.admitted })).onSeqEnt (0 : Nat) (fun z => { z with st := QState.complete })).onSeqEnt (0 : Nat) (fun z => { z with job := none })).onSeqEnt (0 : Nat) (fun z => { z with retry := none })).onModel 0 (fun z => { z with ctxmax := 8 })).onServe 0 (fun z => { z with phase := 1 })) : State), (((((((((State.reset.wM .service).onSeqEnt (0 : Nat) (fun z => { z with st := QState.admitted })).onSeqEnt (0 : Nat) (fun z => { z with st := QState.complete })).onSeqEnt (0 : Nat) (fun z => { z with job := none })).onSeqEnt (0 : Nat) (fun z => { z with retry := none })).onModel 0 (fun z => { z with ctxmax := 8 })).onServe 0 (fun z => { z with phase := 1 })) : State) : State), 0, ⟨rfl, rfl, by decide⟩, by decide⟩,
   ⟨({ (default : HostCmd) with a1 := ((0 : Word).setField 0 32 (((((State.reset.wM .service).onSeqEnt (0 : Nat) (fun z => { z with st := QState.admitted })) : State) : State).seqHandle (0 : Nat))) } : HostCmd), (((State.reset.wM .service).onSeqEnt (0 : Nat) (fun z => { z with st := QState.admitted })) : State), ((((State.reset.wM .service).onSeqEnt (0 : Nat) (fun z => { z with st := QState.admitted })) : State) : State), 0, (((0 : Nat) + 1) : Nat), ⟨rfl, rfl, by decide⟩, by decide⟩,
   ⟨({ (default : HostCmd) with a1 := ((0 : Word).setField 0 32 (((((((State.reset.wM .service).onSeqEnt (0 : Nat) (fun z => { z with st := QState.admitted })).onSeqEnt (0 : Nat) (fun z => { z with st := QState.prefill })).onSeqEnt (0 : Nat) (fun z => { z with instep := true })) : State) : State).seqHandle (0 : Nat))) } : HostCmd), (((((State.reset.wM .service).onSeqEnt (0 : Nat) (fun z => { z with st := QState.admitted })).onSeqEnt (0 : Nat) (fun z => { z with st := QState.prefill })).onSeqEnt (0 : Nat) (fun z => { z with instep := true })) : State), ((((((State.reset.wM .service).onSeqEnt (0 : Nat) (fun z => { z with st := QState.admitted })).onSeqEnt (0 : Nat) (fun z => { z with st := QState.prefill })).onSeqEnt (0 : Nat) (fun z => { z with instep := true })) : State) : State), 0, (((0 : Nat) + 1) : Nat), ⟨rfl, rfl, by decide⟩, by decide⟩,
   ⟨({ (default : HostCmd) with a1 := ((0 : Word).setField 0 32 ((((((State.reset.wM .service).onSeqEnt (0 : Nat) (fun z => { z with st := QState.admitted })).onSeqEnt (0 : Nat) (fun z => { z with st := QState.complete })) : State) : State).seqHandle (0 : Nat))) } : HostCmd), ((((State.reset.wM .service).onSeqEnt (0 : Nat) (fun z => { z with st := QState.admitted })).onSeqEnt (0 : Nat) (fun z => { z with st := QState.complete })) : State), (((((State.reset.wM .service).onSeqEnt (0 : Nat) (fun z => { z with st := QState.admitted })).onSeqEnt (0 : Nat) (fun z => { z with st := QState.complete })) : State) : State), 0, ⟨rfl, rfl, by decide⟩, by decide⟩,
   ⟨({ (default : HostCmd) with a1 := ((0 : Word).setField 0 32 ((((((State.reset.wM .service).onSeqEnt (0 : Nat) (fun z => { z with st := QState.admitted })).onSeqEnt (0 : Nat) (fun z => { z with st := QState.cancelled })) : State) : State).seqHandle (0 : Nat))) } : HostCmd), ((((State.reset.wM .service).onSeqEnt (0 : Nat) (fun z => { z with st := QState.admitted })).onSeqEnt (0 : Nat) (fun z => { z with st := QState.cancelled })) : State), (((((State.reset.wM .service).onSeqEnt (0 : Nat) (fun z => { z with st := QState.admitted })).onSeqEnt (0 : Nat) (fun z => { z with st := QState.cancelled })) : State) : State), 0, ⟨rfl, rfl, by decide⟩, by decide⟩,
   ⟨({ (default : HostCmd) with a1 := ((0 : Word).setField 0 32 ((((((State.reset.wM .service).onSeqEnt (0 : Nat) (fun z => { z with st := QState.admitted })).onSeqEnt (0 : Nat) (fun z => { z with st := QState.complete })) : State) : State).seqHandle (0 : Nat))) } : HostCmd), ((((State.reset.wM .service).onSeqEnt (0 : Nat) (fun z => { z with st := QState.admitted })).onSeqEnt (0 : Nat) (fun z => { z with st := QState.complete })) : State), (((((State.reset.wM .service).onSeqEnt (0 : Nat) (fun z => { z with st := QState.admitted })).onSeqEnt (0 : Nat) (fun z => { z with st := QState.complete })) : State) : State), 0, ⟨rfl, rfl, by decide⟩, by decide⟩,
   ⟨({ (default : HostCmd) with a1 := ((0 : Word).setField 0 32 ((((((((State.reset.wM .service).onSeqEnt (0 : Nat) (fun z => { z with st := QState.admitted })).onSeqEnt (0 : Nat) (fun z => { z with st := QState.prefill })).onSeqEnt (0 : Nat) (fun z => { z with canreq := false })).onSeqEnt (0 : Nat) (fun z => { z with instep := true })) : State) : State).seqHandle (0 : Nat))) } : HostCmd), ((((((State.reset.wM .service).onSeqEnt (0 : Nat) (fun z => { z with st := QState.admitted })).onSeqEnt (0 : Nat) (fun z => { z with st := QState.prefill })).onSeqEnt (0 : Nat) (fun z => { z with canreq := false })).onSeqEnt (0 : Nat) (fun z => { z with instep := true })) : State), (((((((State.reset.wM .service).onSeqEnt (0 : Nat) (fun z => { z with st := QState.admitted })).onSeqEnt (0 : Nat) (fun z => { z with st := QState.prefill })).onSeqEnt (0 : Nat) (fun z => { z with canreq := false })).onSeqEnt (0 : Nat) (fun z => { z with instep := true })) : State) : State), 0, (((0 : Nat) + 1) : Nat), ⟨rfl, rfl, by decide⟩, by decide⟩,
   ⟨({ (default : HostCmd) with a1 := ((0 : Word).setField 0 32 (((((((State.reset.wM .service).onSeqEnt (0 : Nat) (fun z => { z with st := QState.admitted })).onSeqEnt (0 : Nat) (fun z => { z with st := QState.prefill })).onSeqEnt (0 : Nat) (fun z => { z with canreq := true })) : State) : State).seqHandle (0 : Nat))) } : HostCmd), (((((State.reset.wM .service).onSeqEnt (0 : Nat) (fun z => { z with st := QState.admitted })).onSeqEnt (0 : Nat) (fun z => { z with st := QState.prefill })).onSeqEnt (0 : Nat) (fun z => { z with canreq := true })) : State), ((((((State.reset.wM .service).onSeqEnt (0 : Nat) (fun z => { z with st := QState.admitted })).onSeqEnt (0 : Nat) (fun z => { z with st := QState.prefill })).onSeqEnt (0 : Nat) (fun z => { z with canreq := true })) : State) : State), 0, ⟨rfl, rfl, by decide⟩, by decide⟩,
   ⟨({ (default : HostCmd) with a1 := ((0 : Word).setField 0 32 (((((State.reset.wM .service).onSeqEnt (0 : Nat) (fun z => { z with st := QState.admitted })) : State) : State).seqHandle (0 : Nat))) } : HostCmd), (((State.reset.wM .service).onSeqEnt (0 : Nat) (fun z => { z with st := QState.admitted })) : State), ((((State.reset.wM .service).onSeqEnt (0 : Nat) (fun z => { z with st := QState.admitted })) : State) : State), 0, ⟨rfl, rfl, by decide⟩, by decide⟩,
   ⟨({ (default : HostCmd) with a1 := ((0 : Word).setField 0 32 (((((State.reset.wM .service).onSeqEnt (0 : Nat) (fun z => { z with st := QState.admitted })) : State) : State).seqHandle (0 : Nat))) } : HostCmd), (((State.reset.wM .service).onSeqEnt (0 : Nat) (fun z => { z with st := QState.admitted })) : State), ((((State.reset.wM .service).onSeqEnt (0 : Nat) (fun z => { z with st := QState.admitted })) : State) : State), 0, ⟨rfl, rfl, by decide⟩, by decide⟩,
   ⟨({ (default : HostCmd) with a1 := ((0 : Word).setField 0 32 (((((((State.reset.wM .service).onSeqEnt (0 : Nat) (fun z => { z with st := QState.admitted })).onSeqEnt (0 : Nat) (fun z => { z with resuming := false })).onSeqEnt 0 (fun z => { z with st := .pausedNear, resuming := false })) : State) : State).seqHandle (0 : Nat))) } : HostCmd), (((((State.reset.wM .service).onSeqEnt (0 : Nat) (fun z => { z with st := QState.admitted })).onSeqEnt (0 : Nat) (fun z => { z with resuming := false })).onSeqEnt 0 (fun z => { z with st := .pausedNear, resuming := false })) : State), ((((((State.reset.wM .service).onSeqEnt (0 : Nat) (fun z => { z with st := QState.admitted })).onSeqEnt (0 : Nat) (fun z => { z with resuming := false })).onSeqEnt 0 (fun z => { z with st := .pausedNear, resuming := false })) : State) : State), 0, ⟨rfl, rfl, by decide⟩, by decide⟩,
   ⟨({ (default : HostCmd) with a1 := ((0 : Word).setField 0 32 (((((((State.reset.wM .service).onSeqEnt (0 : Nat) (fun z => { z with st := QState.admitted })).onSeqEnt (0 : Nat) (fun z => { z with st := QState.complete })).onSeqEnt (0 : Nat) (fun z => { z with job := none })) : State) : State).seqHandle (0 : Nat))) } : HostCmd), (((((State.reset.wM .service).onSeqEnt (0 : Nat) (fun z => { z with st := QState.admitted })).onSeqEnt (0 : Nat) (fun z => { z with st := QState.complete })).onSeqEnt (0 : Nat) (fun z => { z with job := none })) : State), ((((((State.reset.wM .service).onSeqEnt (0 : Nat) (fun z => { z with st := QState.admitted })).onSeqEnt (0 : Nat) (fun z => { z with st := QState.complete })).onSeqEnt (0 : Nat) (fun z => { z with job := none })) : State) : State), 0, ⟨rfl, rfl, by decide⟩, by decide⟩,
   ⟨({ (default : HostCmd) with a1 := ((0 : Word).setField 0 32 (((((State.reset.wM .service).onSeqEnt (0 : Nat) (fun z => { z with st := QState.admitted })) : State) : State).seqHandle (0 : Nat))) } : HostCmd), (((State.reset.wM .service).onSeqEnt (0 : Nat) (fun z => { z with st := QState.admitted })) : State), ((((State.reset.wM .service).onSeqEnt (0 : Nat) (fun z => { z with st := QState.admitted })) : State) : State), 0, ⟨rfl, rfl, by decide⟩, by decide⟩,
   ⟨((default : HostCmd) : HostCmd), ((State.reset.wM .service) : State), (((State.reset.wM .service) : State) : State), ⟨rfl, rfl, by decide⟩, by decide⟩,
   ⟨((default : HostCmd) : HostCmd), (((State.reset.wM .service).onNet (fun z => { z with role := 1 })) : State), ((((State.reset.wM .service).onNet (fun z => { z with role := 1 })) : State) : State), ⟨rfl, rfl, by decide⟩, by decide⟩,
   ⟨({ (default : HostCmd) with a3 := 0x100001 } : HostCmd), (((((((((State.reset.wM .service).onNet (fun z => { z with role := 1 })).wId (some ((0x8000000000000000 : Word).field 0 13))).onGlv 0 (fun z => { z with live := true })).setFld (Adr.stwGcfg 0) 45 1 1).onModel 0 (fun z => { z with st := .resident, ctxmax := 8, gloves := 1 })).wId (some 0)).onNet (fun z => { z with role := 1, router := [(0, [0x8000000000000000])] })) : State), ((((((((((State.reset.wM .service).onNet (fun z => { z with role := 1 })).wId (some ((0x8000000000000000 : Word).field 0 13))).onGlv 0 (fun z => { z with live := true })).setFld (Adr.stwGcfg 0) 45 1 1).onModel 0 (fun z => { z with st := .resident, ctxmax := 8, gloves := 1 })).wId (some 0)).onNet (fun z => { z with role := 1, router := [(0, [0x8000000000000000])] })) : State) : State), 0x8000000000000000, ([] : List Word), ⟨rfl, rfl, by decide⟩, by decide, by decide, rfl, by decide⟩,
   ⟨((default : HostCmd) : HostCmd), ((((State.reset.wM .service).onNet (fun z => { z with role := 1 })).onNet (fun z => { z with role := 1, router := [(0, [0x8000000000000001])], workers := [(1, { (default : WrkSt) with node := 1, st := 2, rep := { (default : Report) with mstate := 3, seqFree := 1 } })] })) : State), (((((State.reset.wM .service).onNet (fun z => { z with role := 1 })).onNet (fun z => { z with role := 1, router := [(0, [0x8000000000000001])], workers := [(1, { (default : WrkSt) with node := 1, st := 2, rep := { (default : Report) with mstate := 3, seqFree := 1 } })] })) : State) : State), 0x8000000000000001, ([] : List Word), ⟨rfl, rfl, by decide⟩, by decide, by decide, rfl, by decide⟩⟩

theorem wit_SequenceExpiryAndPages :
    (∃ (seq : Nat) (s : State), ((s.seqEnt seq).st ≠ QState.pausedWide ∨ (s.seqEnt seq).auto = false ∨ (s.seqEnt seq).resuming = true)) ∧
    (∃ (seq : Nat) (s : State), (s.seqEnt seq).st = QState.pausedWide ∧ (s.seqEnt seq).auto = true ∧ (s.seqEnt seq).resuming = false ∧ (s.seqEnt seq).job = none ∧ (s.seqEnt seq).retry = none ∧ (s.missingPages seq (s.seqEnt seq).clen).length ≤ (s.freePages (s.seqEnt seq).glove).length) ∧
    (∃ (seq : Nat) (s : State), s.turn (Event.ttl seq) = false) ∧
    (∃ (seq : Nat) (s : State) (u : State), s.turn (Event.ttl seq) = true ∧ (u = s.onSeqEnt seq fun e => { st := e.st, rfrom := e.rfrom, resuming := e.resuming, canreq := e.canreq, pausereq := e.pausereq, glove := e.glove, key := e.key, model := e.model, adapter := e.adapter, adp := e.adp, spec := e.spec, instep := e.instep, auto := e.auto, clen := e.clen, dlen := e.dlen, plen := e.plen, inc := e.inc, kvd := e.kvd, pnode := e.pnode, gstate := e.gstate, spp := e.spp, expiry := 0, stamp := e.stamp, gen := e.gen, outn := e.outn, outmax := e.outmax, ita := e.ita, cring := e.cring, ttln := e.ttln, ttlw := e.ttlw, ttld := e.ttld, refnode := e.refnode, chain := e.chain, toks := e.toks, handles := e.handles, pages := e.pages, run := e.run, cancelCmds := e.cancelCmds, pauseCmds := e.pauseCmds, job := e.job, retry := e.retry, retryAuto := e.retryAuto, retryAt := e.retryAt }) ∧ ((s.seqEnt seq).st = QState.complete ∨ (s.seqEnt seq).st = QState.pausedNear) ∧ (s.seqEnt seq).job = none ∧ (s.seqEnt seq).retry = none) ∧
    (∃ (seq : Nat) (s : State) (u : State), s.turn (Event.ttl seq) = true ∧ (u = s.onSeqEnt seq fun e => { st := e.st, rfrom := e.rfrom, resuming := e.resuming, canreq := e.canreq, pausereq := e.pausereq, glove := e.glove, key := e.key, model := e.model, adapter := e.adapter, adp := e.adp, spec := e.spec, instep := e.instep, auto := e.auto, clen := e.clen, dlen := e.dlen, plen := e.plen, inc := e.inc, kvd := e.kvd, pnode := e.pnode, gstate := e.gstate, spp := e.spp, expiry := 0, stamp := e.stamp, gen := e.gen, outn := e.outn, outmax := e.outmax, ita := e.ita, cring := e.cring, ttln := e.ttln, ttlw := e.ttlw, ttld := e.ttld, refnode := e.refnode, chain := e.chain, toks := e.toks, handles := e.handles, pages := e.pages, run := e.run, cancelCmds := e.cancelCmds, pauseCmds := e.pauseCmds, job := e.job, retry := e.retry, retryAuto := e.retryAuto, retryAt := e.retryAt }) ∧ (s.seqEnt seq).st = QState.pausedWide ∧ (s.seqEnt seq).ttld ≠ 0 ∧ (s.seqEnt seq).job = none) ∧
    (∃ (seq : Nat) (s : State) (u : State), s.turn (Event.ttl seq) = true ∧ (u = s.onSeqEnt seq fun e => { st := e.st, rfrom := e.rfrom, resuming := e.resuming, canreq := e.canreq, pausereq := e.pausereq, glove := e.glove, key := e.key, model := e.model, adapter := e.adapter, adp := e.adp, spec := e.spec, instep := e.instep, auto := e.auto, clen := e.clen, dlen := e.dlen, plen := e.plen, inc := e.inc, kvd := e.kvd, pnode := e.pnode, gstate := e.gstate, spp := e.spp, expiry := 0, stamp := e.stamp, gen := e.gen, outn := e.outn, outmax := e.outmax, ita := e.ita, cring := e.cring, ttln := e.ttln, ttlw := e.ttlw, ttld := e.ttld, refnode := e.refnode, chain := e.chain, toks := e.toks, handles := e.handles, pages := e.pages, run := e.run, cancelCmds := e.cancelCmds, pauseCmds := e.pauseCmds, job := e.job, retry := e.retry, retryAuto := e.retryAuto, retryAt := e.retryAt }) ∧ (s.seqEnt seq).st = QState.pausedDeep) ∧
    (∃ (slot : Nat) (s : State), s.turn (Event.ttlExtent slot) = false) ∧
    (∃ (slot : Nat) (s : State), s.turn (Event.ttlExtent slot) = true ∧ (s.extent slot).st ≠ ExtState.free) ∧
    (∃ (seq : Nat) (s : State), (s.seqEnded seq = true ∨ (s.seqEnt seq).job = none)) ∧
    (∃ (seq : Nat) (s : State) (j : SeqJob), s.seqEnded seq = false ∧ (s.seqEnt seq).job = some j ∧ j.kind = 0 ∧ j.left = [] ∧ j.toAccept = 0) ∧
    (∃ (seq : Nat) (s : State), (s.tick.tick < (s.seqEnt seq).retryAt ∨ (s.seqEnt seq).retry = none ∨ (s.seqEnt seq).job ≠ none ∨ (s.seqEnt seq).resuming = true ∨ s.seqEnded seq = true)) ∧
    (∃ (seq : Nat) (s : State) (d : QState), (s.seqEnt seq).retryAt ≤ s.tick.tick ∧ (s.seqEnt seq).retry = some d ∧ (s.seqEnt seq).job = none ∧ (s.seqEnt seq).resuming = false ∧ s.seqEnded seq = false) ∧
    (∃ (seq : Nat) (s : State), (s.tick.tick < (s.seqEnt seq).retryAt ∨ (s.seqEnt seq).resuming = false ∨ (s.seqEnt seq).job ≠ none ∨ (s.seqEnt seq).retry = none)) ∧
    (∃ (seq : Nat) (s : State), (s.seqEnt seq).retryAt ≤ s.tick.tick ∧ (s.seqEnt seq).resuming = true ∧ (s.seqEnt seq).job = none ∧ (s.seqEnt seq).retry ≠ none ∧ s.takePages seq (s.seqEnt seq).clen = none) ∧
    (∃ (seq : Nat) (s : State), s.seqEnded seq = true) ∧
    (∃ (seq : Nat) (s : State) (j : SeqJob), s.seqEnded seq = false ∧ (s.seqEnt seq).job = some j ∧ j.kind = 2 ∧ j.left = []) :=
  ⟨⟨0, ((State.reset.onSeqEnt (0 : Nat) (fun z => { z with st := QState.admitted })) : State), by decide⟩,
   ⟨0, ((((((State.reset.onSeqEnt (0 : Nat) (fun z => { z with st := QState.pausedWide })).onSeqEnt (0 : Nat) (fun z => { z with auto := true })).onSeqEnt (0 : Nat) (fun z => { z with resuming := false })).onSeqEnt (0 : Nat) (fun z => { z with job := none })).onSeqEnt (0 : Nat) (fun z => { z with retry := none })) : State), by decide⟩,
   ⟨0, ((State.reset.wNoLedger) : State), by decide⟩,
   ⟨0, ((((((State.reset.wNoLedger).onSeqEnt (0 : Nat) (fun z => { z with expiry := 1 })).onSeqEnt (0 : Nat) (fun z => { z with st := QState.complete })).onSeqEnt (0 : Nat) (fun z => { z with job := none })).onSeqEnt (0 : Nat) (fun z => { z with retry := none })) : State), (((((((State.reset.wNoLedger).onSeqEnt (0 : Nat) (fun z => { z with expiry := 1 })).onSeqEnt (0 : Nat) (fun z => { z with st := QState.complete })).onSeqEnt (0 : Nat) (fun z => { z with job := none })).onSeqEnt (0 : Nat) (fun z => { z with retry := none })) : State).onSeqEnt (0 : Nat) fun e => { st := e.st, rfrom := e.rfrom, resuming := e.resuming, canreq := e.canreq, pausereq := e.pausereq, glove := e.glove, key := e.key, model := e.model, adapter := e.adapter, adp := e.adp, spec := e.spec, instep := e.instep, auto := e.auto, clen := e.clen, dlen := e.dlen, plen := e.plen, inc := e.inc, kvd := e.kvd, pnode := e.pnode, gstate := e.gstate, spp := e.spp, expiry := 0, stamp := e.stamp, gen := e.gen, outn := e.outn, outmax := e.outmax, ita := e.ita, cring := e.cring, ttln := e.ttln, ttlw := e.ttlw, ttld := e.ttld, refnode := e.refnode, chain := e.chain, toks := e.toks, handles := e.handles, pages := e.pages, run := e.run, cancelCmds := e.cancelCmds, pauseCmds := e.pauseCmds, job := e.job, retry := e.retry, retryAuto := e.retryAuto, retryAt := e.retryAt } : State), by decide⟩,
   ⟨0, ((((((State.reset.wNoLedger).onSeqEnt (0 : Nat) (fun z => { z with expiry := 1 })).onSeqEnt (0 : Nat) (fun z => { z with st := QState.pausedWide })).onSeqEnt (0 : Nat) (fun z => { z with ttld := 1 })).onSeqEnt (0 : Nat) (fun z => { z with job := none })) : State), (((((((State.reset.wNoLedger).onSeqEnt (0 : Nat) (fun z => { z with expiry := 1 })).onSeqEnt (0 : Nat) (fun z => { z with st := QState.pausedWide })).onSeqEnt (0 : Nat) (fun z => { z with ttld := 1 })).onSeqEnt (0 : Nat) (fun z => { z with job := none })) : State).onSeqEnt (0 : Nat) fun e => { st := e.st, rfrom := e.rfrom, resuming := e.resuming, canreq := e.canreq, pausereq := e.pausereq, glove := e.glove, key := e.key, model := e.model, adapter := e.adapter, adp := e.adp, spec := e.spec, instep := e.instep, auto := e.auto, clen := e.clen, dlen := e.dlen, plen := e.plen, inc := e.inc, kvd := e.kvd, pnode := e.pnode, gstate := e.gstate, spp := e.spp, expiry := 0, stamp := e.stamp, gen := e.gen, outn := e.outn, outmax := e.outmax, ita := e.ita, cring := e.cring, ttln := e.ttln, ttlw := e.ttlw, ttld := e.ttld, refnode := e.refnode, chain := e.chain, toks := e.toks, handles := e.handles, pages := e.pages, run := e.run, cancelCmds := e.cancelCmds, pauseCmds := e.pauseCmds, job := e.job, retry := e.retry, retryAuto := e.retryAuto, retryAt := e.retryAt } : State), by decide⟩,
   ⟨0, ((((State.reset.wNoLedger).onSeqEnt (0 : Nat) (fun z => { z with expiry := 1 })).onSeqEnt (0 : Nat) (fun z => { z with st := QState.pausedDeep })) : State), (((((State.reset.wNoLedger).onSeqEnt (0 : Nat) (fun z => { z with expiry := 1 })).onSeqEnt (0 : Nat) (fun z => { z with st := QState.pausedDeep })) : State).onSeqEnt (0 : Nat) fun e => { st := e.st, rfrom := e.rfrom, resuming := e.resuming, canreq := e.canreq, pausereq := e.pausereq, glove := e.glove, key := e.key, model := e.model, adapter := e.adapter, adp := e.adp, spec := e.spec, instep := e.instep, auto := e.auto, clen := e.clen, dlen := e.dlen, plen := e.plen, inc := e.inc, kvd := e.kvd, pnode := e.pnode, gstate := e.gstate, spp := e.spp, expiry := 0, stamp := e.stamp, gen := e.gen, outn := e.outn, outmax := e.outmax, ita := e.ita, cring := e.cring, ttln := e.ttln, ttlw := e.ttlw, ttld := e.ttld, refnode := e.refnode, chain := e.chain, toks := e.toks, handles := e.handles, pages := e.pages, run := e.run, cancelCmds := e.cancelCmds, pauseCmds := e.pauseCmds, job := e.job, retry := e.retry, retryAuto := e.retryAuto, retryAt := e.retryAt } : State), by decide⟩,
   ⟨0, ((State.reset.wNoLedger) : State), by decide⟩,
   ⟨0, ((((State.reset.wNoLedger).onExtent (0 : Nat) (fun z => { z with expiry := some 0 })).onExtent (0 : Nat) (fun z => { z with st := ExtState.sealed })) : State), by decide⟩,
   ⟨0, State.reset, by decide⟩,
   ⟨0, (((State.reset.onSeqEnt (0 : Nat) (fun z => { z with job := some ({ (default : SeqJob) with kind := 0 } : SeqJob) })).onSeqEnt 0 (fun z => { z with st := .decode, job := some { (default : SeqJob) with kind := 0 } })) : State), ({ (default : SeqJob) with kind := 0 } : SeqJob), by decide⟩,
   ⟨0, State.reset, by decide⟩,
   ⟨0, (((((State.reset.onSeqEnt (0 : Nat) (fun z => { z with retry := some (.decode : QState) })).onSeqEnt (0 : Nat) (fun z => { z with job := none })).onSeqEnt (0 : Nat) (fun z => { z with resuming := false })).onSeqEnt 0 (fun z => { z with st := .decode, retry := some .decode })) : State), .decode, by decide⟩,
   ⟨0, State.reset, by decide⟩,
   ⟨0, ((((((State.reset.onSeqEnt (0 : Nat) (fun z => { z with resuming := true })).onSeqEnt (0 : Nat) (fun z => { z with job := none })).onSeqEnt (0 : Nat) (fun z => { z with retry := some default })).onSeqEnt 0 (fun z => { z with st := .decode, retry := some .decode, clen := 1000 })).onModel 0 (fun z => { z with g := 1 })) : State), by decide⟩,
   ⟨0, State.reset, by decide⟩,
   ⟨0, (((State.reset.onSeqEnt (0 : Nat) (fun z => { z with job := some ({ (default : SeqJob) with kind := 2 } : SeqJob) })).onSeqEnt 0 (fun z => { z with st := .decode, job := some { (default : SeqJob) with kind := 2 } })) : State), ({ (default : SeqJob) with kind := 2 } : SeqJob), by decide⟩⟩

theorem wit_SequencerArithmetic :
    (∃ (q : Nat) (s : State), s.Fetches q (gsqEnc 0 [])) ∧
    (∃ (q : Nat) (gd : Nat) (imm : BitVec 32) (s : State), s.Fetches q (gsqEnc 1 [(54, 4, gd), (0, 32, imm.toNat)])) ∧
    (∃ (q : Nat) (gd : Nat) (imm : BitVec 32) (s : State), s.Fetches q (gsqEnc 2 [(54, 4, gd), (0, 32, imm.toNat)])) ∧
    (∃ (q : Nat) (gd : Nat) (ga : Nat) (imm : BitVec 32) (s : State), s.Fetches q (gsqEnc 3 [(54, 4, gd), (50, 4, ga), (0, 32, imm.toNat)])) ∧
    (∃ (q : Nat) (gd : Nat) (ga : Nat) (gb : Nat) (s : State), s.Fetches q (gsqEnc 4 [(54, 4, gd), (50, 4, ga), (46, 4, gb)])) ∧
    (∃ (q : Nat) (s : State), (s.gsq q).state ≠ SeqState.running) :=
  ⟨⟨0, ((State.reset.wGsq (0 : Nat) (gsqEnc 0 [])) : State), ⟨by decide, by decide, by decide, by decide, by decide⟩⟩,
   ⟨0, 0, 0, ((State.reset.wGsq (0 : Nat) (gsqEnc 1 [(54, 4, (0 : Nat)), (0, 32, (0 : BitVec 32).toNat)])) : State), ⟨by decide, by decide, by decide, by decide, by decide⟩⟩,
   ⟨0, 0, 0, ((State.reset.wGsq (0 : Nat) (gsqEnc 2 [(54, 4, (0 : Nat)), (0, 32, (0 : BitVec 32).toNat)])) : State), ⟨by decide, by decide, by decide, by decide, by decide⟩⟩,
   ⟨0, 0, 0, 0, ((State.reset.wGsq (0 : Nat) (gsqEnc 3 [(54, 4, (0 : Nat)), (50, 4, (0 : Nat)), (0, 32, (0 : BitVec 32).toNat)])) : State), ⟨by decide, by decide, by decide, by decide, by decide⟩⟩,
   ⟨0, 0, 0, 0, ((State.reset.wGsq (0 : Nat) (gsqEnc 4 [(54, 4, (0 : Nat)), (50, 4, (0 : Nat)), (46, 4, (0 : Nat))])) : State), ⟨by decide, by decide, by decide, by decide, by decide⟩⟩,
   ⟨0, ((State.reset.onGsq (0 : Nat) (fun z => { z with state := SeqState.idle })) : State), by decide⟩⟩

theorem wit_SequencerBranches :
    (∃ (q : Nat) (d : Nat) (s : State), s.Fetches q (gsqEnc 8 [(0, 11, d)])) ∧
    (∃ (q : Nat) (ga : Nat) (d : Nat) (s : State), s.Fetches q (gsqEnc 9 [(50, 4, ga), (0, 11, d)])) ∧
    (∃ (q : Nat) (gd : Nat) (d : Nat) (s : State), s.Fetches q (gsqEnc 10 [(54, 4, gd), (0, 11, d)])) ∧
    (∃ (q : Nat) (mode : Nat) (code : Nat) (d : Nat) (s : State), s.Fetches q (gsqEnc 11 [(48, 2, mode), (40, 8, code), (0, 11, d)])) ∧
    (∃ (q : Nat) (ident : Nat) (s : State), s.Fetches q (gsqEnc 26 [(0, 16, ident)])) ∧
    (∃ (q : Nat) (s : State), s.Fetches q (gsqEnc 31 [])) :=
  ⟨⟨0, 0, ((State.reset.wGsq (0 : Nat) (gsqEnc 8 [(0, 11, (0 : Nat))])) : State), ⟨by decide, by decide, by decide, by decide, by decide⟩⟩,
   ⟨0, 0, 0, ((State.reset.wGsq (0 : Nat) (gsqEnc 9 [(50, 4, (0 : Nat)), (0, 11, (0 : Nat))])) : State), ⟨by decide, by decide, by decide, by decide, by decide⟩⟩,
   ⟨0, 0, 0, ((State.reset.wGsq (0 : Nat) (gsqEnc 10 [(54, 4, (0 : Nat)), (0, 11, (0 : Nat))])) : State), ⟨by decide, by decide, by decide, by decide, by decide⟩⟩,
   ⟨0, 0, 0, 0, ((State.reset.wGsq (0 : Nat) (gsqEnc 11 [(48, 2, (0 : Nat)), (40, 8, (0 : Nat)), (0, 11, (0 : Nat))])) : State), ⟨by decide, by decide, by decide, by decide, by decide⟩⟩,
   ⟨0, 0, ((State.reset.wGsq (0 : Nat) (gsqEnc 26 [(0, 16, (0 : Nat))])) : State), ⟨by decide, by decide, by decide, by decide, by decide⟩⟩,
   ⟨0, ((State.reset.wGsq (0 : Nat) (gsqEnc 31 [])) : State), ⟨by decide, by decide, by decide, by decide, by decide⟩⟩⟩

theorem wit_SequencerExchangesSealsCountersReports :
    (∃ (q : Nat) (ga : Nat) (ofs : Nat) (phase : Nat) (d : Nat) (s : State), s.Fetches q (gsqEnc 21 [(54, 4, ga), (34, 20, ofs), (26, 8, phase), (0, 11, d)]) ∧ s.patRuns (s.gsqGlove q) = true) ∧
    (∃ (q : Nat) (ga : Nat) (ofs : Nat) (phase : Nat) (d : Nat) (s : State) (p : Nat), s.Fetches q (gsqEnc 21 [(54, 4, ga), (34, 20, ofs), (26, 8, phase), (0, 11, d)]) ∧ s.exchRefusal (s.gsqGlove q) phase (BitVec.toNat (s.greg q ga)) ofs = none ∧ (s.plan phase).stage = XStage.idle ∧ p ≠ phase) ∧
    (∃ (q : Nat) (ga : Nat) (gb : Nat) (gd : Nat) (gt : Nat) (dest : Nat) (s : State), s.Fetches q (gsqEnc 22 [(54, 4, ga), (50, 4, gb), (46, 4, gd), (42, 4, gt), (41, 1, dest)])) ∧
    (∃ (q : Nat) (ga : Nat) (gb : Nat) (gc : Nat) (s : State), s.Fetches q (gsqEnc 24 [(54, 4, ga), (50, 4, gb), (46, 4, gc)]) ∧ 288 ≤ (State.ctrName (s.greg q ga)).snd.fst) ∧
    (∃ (q : Nat) (ga : Nat) (gb : Nat) (gc : Nat) (s : State), s.Fetches q (gsqEnc 24 [(54, 4, ga), (50, 4, gb), (46, 4, gc)]) ∧ s.nameInGlove (s.gsqGlove q) (s.greg q ga) = true ∧ (s.greg q gc).field 0 32 ≠ 4294967295) ∧
    (∃ (q : Nat) (ga : Nat) (code : Nat) (s : State), s.Fetches q (gsqEnc 25 [(54, 4, ga), (0, 16, code)]) ∧ code < 256 ∧ (s.gsq q).reports.length < 64 ∧ (∀ (r : ReportRec), r ∈ (s.gsq q).reports → r.code < 256)) :=
  ⟨⟨0, 0, 0, 0, 0, (((State.reset.wGsq (0 : Nat) (gsqEnc 21 [(54, 4, (0 : Nat)), (34, 20, (0 : Nat)), (26, 8, (0 : Nat)), (0, 11, (0 : Nat))])).onPat (0) (fun z => { z with valid := true })) : State), ⟨by decide, by decide, by decide, by decide, by decide⟩, by decide⟩,
   ⟨0, 1, 0, 0, 0, (((((State.reset.wGsq (0 : Nat) (gsqEnc 21 [(54, 4, (1 : Nat)), (34, 20, (0 : Nat)), (26, 8, (0 : Nat)), (0, 11, (0 : Nat))])).onPlan (0 : Nat) (fun z => { z with stage := XStage.idle })).onPlan 0 (fun z => { z with valid := true, glove := 0 })).onGsq 0 (fun z => { z with g := [0, 64] })) : State), 1, ⟨by decide, by decide, by decide, by decide, by decide⟩, by decide⟩,
   ⟨0, 0, 0, 0, 0, 0, ((State.reset.wGsq (0 : Nat) (gsqEnc 22 [(54, 4, (0 : Nat)), (50, 4, (0 : Nat)), (46, 4, (0 : Nat)), (42, 4, (0 : Nat)), (41, 1, (0 : Nat))])) : State), ⟨by decide, by decide, by decide, by decide, by decide⟩⟩,
   ⟨0, 1, 0, 0, (((State.reset.wGsq (0 : Nat) (gsqEnc 24 [(54, 4, (1 : Nat)), (50, 4, (0 : Nat)), (46, 4, (0 : Nat))])).onGsq 0 (fun z => { z with g := [0, 0x1200] })) : State), ⟨by decide, by decide, by decide, by decide, by decide⟩, by decide⟩,
   ⟨0, 0, 0, 0, (((State.reset.wGsq (0 : Nat) (gsqEnc 24 [(54, 4, (0 : Nat)), (50, 4, (0 : Nat)), (46, 4, (0 : Nat))])).onPalm 0 (fun z => { z with glove := some 0 })) : State), ⟨by decide, by decide, by decide, by decide, by decide⟩, by decide⟩,
   ⟨0, 0, 0, ((State.reset.wGsq (0 : Nat) (gsqEnc 25 [(54, 4, (0 : Nat)), (0, 16, (0 : Nat))])) : State), ⟨by decide, by decide, by decide, by decide, by decide⟩, by decide, by decide, by first | decide | (intro a h; cases h; done) | (intro a h; subst h; decide) | (intro a b h; cases h; done) | (intros; rfl) | (intros; decide)⟩⟩

theorem wit_SequencerLoadsArmsAndSwitches :
    (∃ (q : Nat) (slot : Nat) (ga : Nat) (s : State), s.Fetches q (gsqEnc 16 [(56, 2, slot), (50, 4, ga)]) ∧ (s.gsq q).arm = none ∧ (s.gsq q).sw = none ∧ (s.gsq q).load = none ∧ (s.gsq q).slots.getD slot SlotState.empty ≠ SlotState.active ∧ (s.gsq q).slots.getD slot SlotState.empty ≠ SlotState.armed) ∧
    (∃ (q : Nat) (slot : Nat) (ga : Nat) (ofs : Nat) (s : State), s.Fetches q (gsqEnc 17 [(56, 2, slot), (50, 4, ga), (20, 20, ofs)]) ∧ (s.gsq q).arm = none ∧ (s.gsq q).sw = none ∧ s.slotBase q slot = SlotState.loaded ∧ s.timeRefusal (BitVec.toNat (s.greg q ga)) ofs = 0) ∧
    (∃ (q : Nat) (slot : Nat) (s : State), s.Fetches q (gsqEnc 18 [(56, 2, slot)]) ∧ (s.gsq q).arm = none ∧ (s.gsq q).sw = none ∧ (s.slotBase q slot = SlotState.loaded ∨ s.slotBase q slot = SlotState.active)) ∧
    (∃ (q : Nat) (slot : Nat) (s : State), s.Fetches q (gsqEnc 18 [(56, 2, slot)]) ∧ (s.gsq q).sw.isSome = true) ∧
    (∃ (q : Nat) (slot : Nat) (ga : Nat) (s : State), s.Fetches q (gsqEnc 19 [(56, 2, slot), (50, 4, ga)]) ∧ (s.gsq q).arm = none ∧ (s.gsq q).sw = none ∧ (s.slotBase q slot = SlotState.loaded ∨ s.slotBase q slot = SlotState.active)) :=
  ⟨⟨0, 0, 0, (((((State.reset.wGsq (0 : Nat) (gsqEnc 16 [(56, 2, (0 : Nat)), (50, 4, (0 : Nat))])).onGsq (0 : Nat) (fun z => { z with arm := none })).onGsq (0 : Nat) (fun z => { z with sw := none })).onGsq (0 : Nat) (fun z => { z with load := none })) : State), ⟨by decide, by decide, by decide, by decide, by decide⟩, by decide⟩,
   ⟨0, 0, 1, 0, (((((State.reset.wGsq (0 : Nat) (gsqEnc 17 [(56, 2, (0 : Nat)), (50, 4, (1 : Nat)), (20, 20, (0 : Nat))])).onGsq (0 : Nat) (fun z => { z with arm := none })).onGsq (0 : Nat) (fun z => { z with sw := none })).onGsq 0 (fun z => { z with slots := [.loaded], g := [0, 64] })) : State), ⟨by decide, by decide, by decide, by decide, by decide⟩, by decide⟩,
   ⟨0, 0, (((((State.reset.wGsq (0 : Nat) (gsqEnc 18 [(56, 2, (0 : Nat))])).onGsq (0 : Nat) (fun z => { z with arm := none })).onGsq (0 : Nat) (fun z => { z with sw := none })).onGsq 0 (fun z => { z with slots := [.loaded] })) : State), ⟨by decide, by decide, by decide, by decide, by decide⟩, by decide⟩,
   ⟨0, 0, (((State.reset.wGsq (0 : Nat) (gsqEnc 18 [(56, 2, (0 : Nat))])).onGsq 0 (fun z => { z with sw := some default })) : State), ⟨by decide, by decide, by decide, by decide, by decide⟩, by decide⟩,
   ⟨0, 0, 0, (((((State.reset.wGsq (0 : Nat) (gsqEnc 19 [(56, 2, (0 : Nat)), (50, 4, (0 : Nat))])).onGsq (0 : Nat) (fun z => { z with arm := none })).onGsq (0 : Nat) (fun z => { z with sw := none })).onGsq 0 (fun z => { z with slots := [.loaded] })) : State), ⟨by decide, by decide, by decide, by decide, by decide⟩, by decide⟩⟩

theorem wit_SequencerPlanViewAndMigrationCommands :
    (∃ (c : HostCmd) (s : State) (u : State) (q : Nat) (f : Nat) (n : Nat), s.Accepts c 22 [bits 0 28, allBits] u ∧ u.inA = true ∧ (u.glove (c.a1.field 0 6)).live = true ∧ q = (u.glove (c.a1.field 0 6)).gsq ∧ f = c.a1.field 6 11 ∧ n = c.a1.field 17 11 + 1 ∧ 2048 < f + n) ∧
    (∃ (c : HostCmd) (s : State) (u : State) (q : Nat) (f : Nat) (n : Nat), s.Accepts c 22 [bits 0 28, allBits] u ∧ u.inA = true ∧ (u.glove (c.a1.field 0 6)).live = true ∧ q = (u.glove (c.a1.field 0 6)).gsq ∧ f = c.a1.field 6 11 ∧ n = c.a1.field 17 11 + 1 ∧ f + n ≤ 2048 ∧ (u.gsqOf (c.a1.field 0 6) = none ∨ (u.gsq q).state = SeqState.running ∨ (u.gsq q).state = SeqState.waiting)) ∧
    (∃ (c : HostCmd) (s : State) (u : State) (q : Nat) (f : Nat) (n : Nat) (d : List Byte) (ws : List (BitVec 64)), s.Accepts c 22 [bits 0 28, allBits] u ∧ u.inA = true ∧ (u.glove (c.a1.field 0 6)).live = true ∧ q = (u.glove (c.a1.field 0 6)).gsq ∧ f = c.a1.field 6 11 ∧ n = c.a1.field 17 11 + 1 ∧ f + n ≤ 2048 ∧ u.gsqOf (c.a1.field 0 6) ≠ none ∧ (u.gsq q).state ≠ SeqState.running ∧ (u.gsq q).state ≠ SeqState.waiting ∧ u.hostBytes (BitVec.toNat c.a2) (8 * n) = some d ∧ (ws = List.map (fun b => BitVec.ofNat 64 (ofBytes b)) (chunk 8 d)) ∧ u.programOk q f ws = true) ∧
    (∃ (c : HostCmd) (s : State) (u : State) (q : Nat) (f : Nat) (n : Nat) (d : List Byte) (ws : List (BitVec 64)), s.Accepts c 22 [bits 0 28, allBits] u ∧ u.inA = true ∧ (u.glove (c.a1.field 0 6)).live = true ∧ q = (u.glove (c.a1.field 0 6)).gsq ∧ f = c.a1.field 6 11 ∧ n = c.a1.field 17 11 + 1 ∧ f + n ≤ 2048 ∧ u.gsqOf (c.a1.field 0 6) ≠ none ∧ (u.gsq q).state ≠ SeqState.running ∧ (u.gsq q).state ≠ SeqState.waiting ∧ u.hostBytes (BitVec.toNat c.a2) (8 * n) = some d ∧ (ws = List.map (fun b => BitVec.ofNat 64 (ofBytes b)) (chunk 8 d)) ∧ u.programOk q f ws = false) ∧
    (∃ (c : HostCmd) (s : State) (u : State) (q : Nat), s.Accepts c 23 [bits 0 6, allBits] u ∧ u.inS = true ∧ (u.glove (c.a1.field 0 6)).live = true ∧ q = (u.glove (c.a1.field 0 6)).gsq ∧ (u.gsqOf (c.a1.field 0 6) = none ∨ (u.gsq q).state = SeqState.running ∨ (u.gsq q).state = SeqState.waiting ∨ (u.gsq q).state = SeqState.faulted)) ∧
    (∃ (c : HostCmd) (s : State) (u : State) (q : Nat) (r : Nat), s.Accepts c 23 [bits 0 6, allBits] u ∧ u.inS = true ∧ (u.glove (c.a1.field 0 6)).live = true ∧ q = (u.glove (c.a1.field 0 6)).gsq ∧ u.gsqOf (c.a1.field 0 6) ≠ none ∧ ((u.gsq q).state = SeqState.idle ∨ (u.gsq q).state = SeqState.halted) ∧ r ≠ q) ∧
    (∃ (c : HostCmd) (s : State) (u : State) (q : Nat), s.Accepts c 24 [bits 0 6] u ∧ u.inA = true ∧ (u.glove (c.a1.field 0 6)).live = true ∧ q = (u.glove (c.a1.field 0 6)).gsq ∧ u.gsqOf (c.a1.field 0 6) = none) ∧
    (∃ (c : HostCmd) (s : State) (u : State) (q : Nat), s.Accepts c 24 [bits 0 6] u ∧ u.inA = true ∧ (u.glove (c.a1.field 0 6)).live = true ∧ q = (u.glove (c.a1.field 0 6)).gsq ∧ u.gsqOf (c.a1.field 0 6) ≠ none) ∧
    (∃ (c : HostCmd) (s : State) (u : State) (p : Nat) (d : List Byte), s.Accepts c 25 [bits 0 14, allBits, allBits] u ∧ u.inD = true ∧ (u.glove (c.a1.field 8 6)).live = true ∧ p = c.a1.field 0 8 ∧ u.hostBytes (BitVec.toNat c.a2) (BitVec.toNat c.a3) = some d ∧ (u.plan p).valid = true ∧ (u.plan p).stage ≠ XStage.idle) ∧
    (∃ (c : HostCmd) (s : State) (u : State) (p : Nat) (d : List Byte), s.Accepts c 25 [bits 0 14, allBits, allBits] u ∧ u.inD = true ∧ (u.glove (c.a1.field 8 6)).live = true ∧ p = c.a1.field 0 8 ∧ u.hostBytes (BitVec.toNat c.a2) (BitVec.toNat c.a3) = some d ∧ (u.plan p).stage = XStage.idle ∧ State.planOf d = none) ∧
    (∃ (c : HostCmd) (s : State) (u : State) (p : Nat) (d : List Byte) (x : PlanSt), s.Accepts c 25 [bits 0 14, allBits, allBits] u ∧ u.inD = true ∧ (u.glove (c.a1.field 8 6)).live = true ∧ p = c.a1.field 0 8 ∧ u.hostBytes (BitVec.toNat c.a2) (BitVec.toNat c.a3) = some d ∧ (u.plan p).stage = XStage.idle ∧ State.planOf d = some x ∧ u.planOverlaps p x = true) ∧
    (∃ (c : HostCmd) (s : State) (u : State) (p : Nat) (d : List Byte) (x : PlanSt), s.Accepts c 25 [bits 0 14, allBits, allBits] u ∧ u.inD = true ∧ (u.glove (c.a1.field 8 6)).live = true ∧ p = c.a1.field 0 8 ∧ u.hostBytes (BitVec.toNat c.a2) (BitVec.toNat c.a3) = some d ∧ (u.plan p).stage = XStage.idle ∧ State.planOf d = some x ∧ u.planOverlaps p x = false) ∧
    (∃ (c : HostCmd) (s : State) (u : State) (p : Nat), s.Accepts c 26 [bits 0 14] u ∧ u.inA = true ∧ (u.glove (c.a1.field 8 6)).live = true ∧ p = c.a1.field 0 8 ∧ ((u.plan p).valid = false ∨ (u.plan p).glove ≠ c.a1.field 8 6)) ∧
    (∃ (c : HostCmd) (s : State) (u : State) (p : Nat), s.Accepts c 26 [bits 0 14] u ∧ u.inA = true ∧ (u.glove (c.a1.field 8 6)).live = true ∧ p = c.a1.field 0 8 ∧ (u.plan p).valid = true ∧ (u.plan p).glove = c.a1.field 8 6 ∧ (u.plan p).stage ≠ XStage.idle) ∧
    (∃ (c : HostCmd) (s : State) (u : State) (p : Nat), s.Accepts c 26 [bits 0 14] u ∧ u.inA = true ∧ (u.glove (c.a1.field 8 6)).live = true ∧ p = c.a1.field 0 8 ∧ (u.plan p).valid = true ∧ (u.plan p).glove = c.a1.field 8 6 ∧ (u.plan p).stage = XStage.idle) ∧
    (∃ (c : HostCmd) (s : State) (u : State) (f : Nat) (n : Nat), s.Accepts c 27 [bits 0 6, allBits, bits 0 32] u ∧ u.inS = true ∧ (u.glove (c.a1.field 0 6)).live = true ∧ f = c.a3.field 0 16 ∧ n = c.a3.field 16 16 ∧ u.prof 0 18 1 = 0) ∧
    (∃ (c : HostCmd) (s : State) (u : State) (f : Nat) (n : Nat) (h : Nat), s.Accepts c 27 [bits 0 6, allBits, bits 0 32] u ∧ u.inS = true ∧ (u.glove (c.a1.field 0 6)).live = true ∧ f = c.a3.field 0 16 ∧ n = c.a3.field 16 16 ∧ u.prof 0 18 1 ≠ 0 ∧ u.mem.lz2Glove = some h) ∧
    (∃ (c : HostCmd) (s : State) (u : State) (f : Nat) (n : Nat), s.Accepts c 27 [bits 0 6, allBits, bits 0 32] u ∧ u.inS = true ∧ (u.glove (c.a1.field 0 6)).live = true ∧ f = c.a3.field 0 16 ∧ n = c.a3.field 16 16 ∧ u.prof 0 18 1 ≠ 0 ∧ u.mem.lz2Glove = none ∧ BitVec.toNat c.a2 ≠ 0 ∧ BitVec.toNat c.a2 % 2 ^ 21 = 0 ∧ BitVec.toNat c.a2 ≤ 2 ^ 40 ∧ n ≠ 0 ∧ f + n ≤ 65536 ∧ (∀ (i : Nat), i < n → (u.frame (f + i)).mode = FMode.priv ∧ (u.frame (f + i)).glove = c.a1.field 0 6)) ∧
    (∃ (c : HostCmd) (s : State) (u : State), s.Accepts c 28 [bits 0 6] u ∧ u.inA = true ∧ (u.glove (c.a1.field 0 6)).live = true ∧ u.mem.lz2Glove ≠ some (c.a1.field 0 6)) ∧
    (∃ (c : HostCmd) (s : State) (u : State) (k : Nat), s.Accepts c 28 [bits 0 6] u ∧ u.inA = true ∧ (u.glove (c.a1.field 0 6)).live = true ∧ u.mem.lz2Glove = some (c.a1.field 0 6) ∧ u.lz2Slot (c.a1.field 0 6) = some k) ∧
    (∃ (c : HostCmd) (s : State) (u : State), s.Accepts c 28 [bits 0 6] u ∧ u.inA = true ∧ (u.glove (c.a1.field 0 6)).live = true ∧ u.mem.lz2Glove = some (c.a1.field 0 6) ∧ u.lz2Slot (c.a1.field 0 6) = none) ∧
    (∃ (c : HostCmd) (s : State) (u : State), s.Accepts c 32 [bits 0 14 + bits 16 8 + bits 32 32, bits 0 56, bits 0 37 + bits 47 17, bits 0 36, bits 0 33 + bits 48 16] u ∧ u.inD = true ∧ (u.glove (c.a1.field 8 6)).live = true) :=
  ⟨⟨({ (default : HostCmd) with a1 := 0xFFFFFC0 } : HostCmd), (((State.reset.wM .service).onGlv (({ (default : HostCmd) with a1 := 0xFFFFFC0 } : HostCmd).a1.field 0 6) (fun z => { z with live := true })) : State), ((((State.reset.wM .service).onGlv (({ (default : HostCmd) with a1 := 0xFFFFFC0 } : HostCmd).a1.field 0 6) (fun z => { z with live := true })) : State) : State), 0, 2047, 2048, ⟨rfl, rfl, by decide⟩, by decide⟩,
   ⟨((default : HostCmd) : HostCmd), (((State.reset.wM .service).onGlv (((default : HostCmd) : HostCmd).a1.field 0 6) (fun z => { z with live := true })) : State), ((((State.reset.wM .service).onGlv (((default : HostCmd) : HostCmd).a1.field 0 6) (fun z => { z with live := true })) : State) : State), ((((((State.reset.wM .service).onGlv (((default : HostCmd) : HostCmd).a1.field 0 6) (fun z => { z with live := true })) : State) : State).glove (((default : HostCmd) : HostCmd).a1.field 0 6)).gsq : Nat), 0, (((default : HostCmd) : HostCmd).a1.field 17 11 + 1 : Nat), ⟨rfl, rfl, by decide⟩, by decide⟩,
   ⟨({ (default : HostCmd) with a2 := 0x10000000000000 } : HostCmd), (((((((State.reset.wM .service).onGlv (({ (default : HostCmd) with a2 := 0x10000000000000 } : HostCmd).a1.field 0 6) (fun z => { z with live := true })).onGsq (0 : Nat) (fun z => { z with state := SeqState.idle })).onGlv 0 (fun z => { z with live := true, gsq := 0 })).onGsq 0 (fun z => { z with glove := some 0, state := .idle })).onMem (fun z => { z with near := [(7, 124)], tmap := [(0, { (default : FrameSt) with mode := .system })] })) : State), ((((((((State.reset.wM .service).onGlv (({ (default : HostCmd) with a2 := 0x10000000000000 } : HostCmd).a1.field 0 6) (fun z => { z with live := true })).onGsq (0 : Nat) (fun z => { z with state := SeqState.idle })).onGlv 0 (fun z => { z with live := true, gsq := 0 })).onGsq 0 (fun z => { z with glove := some 0, state := .idle })).onMem (fun z => { z with near := [(7, 124)], tmap := [(0, { (default : FrameSt) with mode := .system })] })) : State) : State), 0, 0, 1, ((((((((((State.reset.wM .service).onGlv (({ (default : HostCmd) with a2 := 0x10000000000000 } : HostCmd).a1.field 0 6) (fun z => { z with live := true })).onGsq (0 : Nat) (fun z => { z with state := SeqState.idle })).onGlv 0 (fun z => { z with live := true, gsq := 0 })).onGsq 0 (fun z => { z with glove := some 0, state := .idle })).onMem (fun z => { z with near := [(7, 124)], tmap := [(0, { (default : FrameSt) with mode := .system })] })) : State).hostBytes 0x10000000000000 8).getD []) : List Byte), (((chunk 8 (((((((((State.reset.wM .service).onGlv (({ (default : HostCmd) with a2 := 0x10000000000000 } : HostCmd).a1.field 0 6) (fun z => { z with live := true })).onGsq (0 : Nat) (fun z => { z with state := SeqState.idle })).onGlv 0 (fun z => { z with live := true, gsq := 0 })).onGsq 0 (fun z => { z with glove := some 0, state := .idle })).onMem (fun z => { z with near := [(7, 124)], tmap := [(0, { (default : FrameSt) with mode := .system })] })) : State).hostBytes 0x10000000000000 8).getD [])).map fun b => BitVec.ofNat 64 (ofBytes b)) : List (BitVec 64)), ⟨rfl, rfl, by decide⟩, by decide⟩,
   ⟨({ (default : HostCmd) with a2 := 0x10000000000000 } : HostCmd), (((((((State.reset.wM .service).onGlv (({ (default : HostCmd) with a2 := 0x10000000000000 } : HostCmd).a1.field 0 6) (fun z => { z with live := true })).onGsq (0 : Nat) (fun z => { z with state := SeqState.idle })).onGlv 0 (fun z => { z with live := true, gsq := 0 })).onGsq 0 (fun z => { z with glove := some 0, state := .idle })).onMem (fun z => { z with near := [(0, 1)], tmap := [(0, { (default : FrameSt) with mode := .system })] })) : State), ((((((((State.reset.wM .service).onGlv (({ (default : HostCmd) with a2 := 0x10000000000000 } : HostCmd).a1.field 0 6) (fun z => { z with live := true })).onGsq (0 : Nat) (fun z => { z with state := SeqState.idle })).onGlv 0 (fun z => { z with live := true, gsq := 0 })).onGsq 0 (fun z => { z with glove := some 0, state := .idle })).onMem (fun z => { z with near := [(0, 1)], tmap := [(0, { (default : FrameSt) with mode := .system })] })) : State) : State), 0, 0, 1, ((((((((((State.reset.wM .service).onGlv (({ (default : HostCmd) with a2 := 0x10000000000000 } : HostCmd).a1.field 0 6) (fun z => { z with live := true })).onGsq (0 : Nat) (fun z => { z with state := SeqState.idle })).onGlv 0 (fun z => { z with live := true, gsq := 0 })).onGsq 0 (fun z => { z with glove := some 0, state := .idle })).onMem (fun z => { z with near := [(0, 1)], tmap := [(0, { (default : FrameSt) with mode := .system })] })) : State).hostBytes 0x10000000000000 8).getD []) : List Byte), (((chunk 8 (((((((((State.reset.wM .service).onGlv (({ (default : HostCmd) with a2 := 0x10000000000000 } : HostCmd).a1.field 0 6) (fun z => { z with live := true })).onGsq (0 : Nat) (fun z => { z with state := SeqState.idle })).onGlv 0 (fun z => { z with live := true, gsq := 0 })).onGsq 0 (fun z => { z with glove := some 0, state := .idle })).onMem (fun z => { z with near := [(0, 1)], tmap := [(0, { (default : FrameSt) with mode := .system })] })) : State).hostBytes 0x10000000000000 8).getD [])).map fun b => BitVec.ofNat 64 (ofBytes b)) : List (BitVec 64)), ⟨rfl, rfl, by decide⟩, by decide⟩,
   ⟨((default : HostCmd) : HostCmd), (((State.reset.wM .service).onGlv (((default : HostCmd) : HostCmd).a1.field 0 6) (fun z => { z with live := true })) : State), ((((State.reset.wM .service).onGlv (((default : HostCmd) : HostCmd).a1.field 0 6) (fun z => { z with live := true })) : State) : State), ((((((State.reset.wM .service).onGlv (((default : HostCmd) : HostCmd).a1.field 0 6) (fun z => { z with live := true })) : State) : State).glove (((default : HostCmd) : HostCmd).a1.field 0 6)).gsq : Nat), ⟨rfl, rfl, by decide⟩, by decide⟩,
   ⟨((default : HostCmd) : HostCmd), ((((((State.reset.wM .service).onGlv (((default : HostCmd) : HostCmd).a1.field 0 6) (fun z => { z with live := true })).onGsq (0 : Nat) (fun z => { z with state := SeqState.idle })).onGlv 0 (fun z => { z with live := true, gsq := 0 })).onGsq 0 (fun z => { z with glove := some 0, state := .idle })) : State), (((((((State.reset.wM .service).onGlv (((default : HostCmd) : HostCmd).a1.field 0 6) (fun z => { z with live := true })).onGsq (0 : Nat) (fun z => { z with state := SeqState.idle })).onGlv 0 (fun z => { z with live := true, gsq := 0 })).onGsq 0 (fun z => { z with glove := some 0, state := .idle })) : State) : State), 0, 1, ⟨rfl, rfl, by decide⟩, by decide⟩,
   ⟨((default : HostCmd) : HostCmd), (((State.reset.wM .service).onGlv (((default : HostCmd) : HostCmd).a1.field 0 6) (fun z => { z with live := true })) : State), ((((State.reset.wM .service).onGlv (((default : HostCmd) : HostCmd).a1.field 0 6) (fun z => { z with live := true })) : State) : State), ((((((State.reset.wM .service).onGlv (((default : HostCmd) : HostCmd).a1.field 0 6) (fun z => { z with live := true })) : State) : State).glove (((default : HostCmd) : HostCmd).a1.field 0 6)).gsq : Nat), ⟨rfl, rfl, by decide⟩, by decide⟩,
   ⟨((default : HostCmd) : HostCmd), (((((State.reset.wM .service).onGlv (((default : HostCmd) : HostCmd).a1.field 0 6) (fun z => { z with live := true })).onGlv 0 (fun z => { z with live := true, gsq := 0 })).onGsq 0 (fun z => { z with glove := some 0, state := .idle })) : State), ((((((State.reset.wM .service).onGlv (((default : HostCmd) : HostCmd).a1.field 0 6) (fun z => { z with live := true })).onGlv 0 (fun z => { z with live := true, gsq := 0 })).onGsq 0 (fun z => { z with glove := some 0, state := .idle })) : State) : State), 0, ⟨rfl, rfl, by decide⟩, by decide⟩,
   ⟨({ (default : HostCmd) with a2 := 0x10000000000000, a3 := 64 } : HostCmd), (((((((State.reset.wM .service).onGlv (({ (default : HostCmd) with a2 := 0x10000000000000, a3 := 64 } : HostCmd).a1.field 8 6) (fun z => { z with live := true })).onPlan (0 : Nat) (fun z => { z with valid := true })).onPlan (0 : Nat) (fun z => { z with stage := XStage.count })).onMem (fun z => { z with near := [], tmap := [(0, { (default : FrameSt) with mode := .system })] })).onPlan 0 (fun z => { z with valid := true, stage := .count })) : State), ((((((((State.reset.wM .service).onGlv (({ (default : HostCmd) with a2 := 0x10000000000000, a3 := 64 } : HostCmd).a1.field 8 6) (fun z => { z with live := true })).onPlan (0 : Nat) (fun z => { z with valid := true })).onPlan (0 : Nat) (fun z => { z with stage := XStage.count })).onMem (fun z => { z with near := [], tmap := [(0, { (default : FrameSt) with mode := .system })] })).onPlan 0 (fun z => { z with valid := true, stage := .count })) : State) : State), 0, ((((((((((State.reset.wM .service).onGlv (({ (default : HostCmd) with a2 := 0x10000000000000, a3 := 64 } : HostCmd).a1.field 8 6) (fun z => { z with live := true })).onPlan (0 : Nat) (fun z => { z with valid := true })).onPlan (0 : Nat) (fun z => { z with stage := XStage.count })).onMem (fun z => { z with near := [], tmap := [(0, { (default : FrameSt) with mode := .system })] })).onPlan 0 (fun z => { z with valid := true, stage := .count })) : State).hostBytes 0x10000000000000 64).getD []) : List Byte), ⟨rfl, rfl, by decide⟩, by decide⟩,
   ⟨({ (default : HostCmd) with a2 := 0x10000000000000, a3 := 64 } : HostCmd), (((((State.reset.wM .service).onGlv (({ (default : HostCmd) with a2 := 0x10000000000000, a3 := 64 } : HostCmd).a1.field 8 6) (fun z => { z with live := true })).onPlan (0 : Nat) (fun z => { z with stage := XStage.idle })).onMem (fun z => { z with near := [], tmap := [(0, { (default : FrameSt) with mode := .system })] })) : State), ((((((State.reset.wM .service).onGlv (({ (default : HostCmd) with a2 := 0x10000000000000, a3 := 64 } : HostCmd).a1.field 8 6) (fun z => { z with live := true })).onPlan (0 : Nat) (fun z => { z with stage := XStage.idle })).onMem (fun z => { z with near := [], tmap := [(0, { (default : FrameSt) with mode := .system })] })) : State) : State), 0, ((((((((State.reset.wM .service).onGlv (({ (default : HostCmd) with a2 := 0x10000000000000, a3 := 64 } : HostCmd).a1.field 8 6) (fun z => { z with live := true })).onPlan (0 : Nat) (fun z => { z with stage := XStage.idle })).onMem (fun z => { z with near := [], tmap := [(0, { (default : FrameSt) with mode := .system })] })) : State).hostBytes 0x10000000000000 64).getD []) : List Byte), ⟨rfl, rfl, by decide⟩, by decide⟩,
   ⟨({ (default : HostCmd) with a2 := 0x10000000000000, a3 := 88 } : HostCmd), ((((((State.reset.wM .service).onGlv (({ (default : HostCmd) with a2 := 0x10000000000000, a3 := 88 } : HostCmd).a1.field 8 6) (fun z => { z with live := true })).onPlan (0 : Nat) (fun z => { z with stage := XStage.idle })).onMem (fun z => { z with near := [(0, 0x50), (1, 0x4C), (2, 0x41), (3, 0x4E), (4, 1), (8, 1), (10, 1), (16, 128), (32, 1), (46, 0x10), (48, 128), (74, 0x10), (80, 1), (81, 64)], tmap := [(0, { (default : FrameSt) with mode := .system })] })).onPlan 1 (fun z => { z with valid := true, glove := 0, sbase := 0x10000000000000, slen := 128 })) : State), (((((((State.reset.wM .service).onGlv (({ (default : HostCmd) with a2 := 0x10000000000000, a3 := 88 } : HostCmd).a1.field 8 6) (fun z => { z with live := true })).onPlan (0 : Nat) (fun z => { z with stage := XStage.idle })).onMem (fun z => { z with near := [(0, 0x50), (1, 0x4C), (2, 0x41), (3, 0x4E), (4, 1), (8, 1), (10, 1), (16, 128), (32, 1), (46, 0x10), (48, 128), (74, 0x10), (80, 1), (81, 64)], tmap := [(0, { (default : FrameSt) with mode := .system })] })).onPlan 1 (fun z => { z with valid := true, glove := 0, sbase := 0x10000000000000, slen := 128 })) : State) : State), 0, (((((((((State.reset.wM .service).onGlv (({ (default : HostCmd) with a2 := 0x10000000000000, a3 := 88 } : HostCmd).a1.field 8 6) (fun z => { z with live := true })).onPlan (0 : Nat) (fun z => { z with stage := XStage.idle })).onMem (fun z => { z with near := [(0, 0x50), (1, 0x4C), (2, 0x41), (3, 0x4E), (4, 1), (8, 1), (10, 1), (16, 128), (32, 1), (46, 0x10), (48, 128), (74, 0x10), (80, 1), (81, 64)], tmap := [(0, { (default : FrameSt) with mode := .system })] })).onPlan 1 (fun z => { z with valid := true, glove := 0, sbase := 0x10000000000000, slen := 128 })) : State).hostBytes 0x10000000000000 88).getD []) : List Byte), (((State.planOf ((((((((State.reset.wM .service).onGlv (({ (default : HostCmd) with a2 := 0x10000000000000, a3 := 88 } : HostCmd).a1.field 8 6) (fun z => { z with live := true })).onPlan (0 : Nat) (fun z => { z with stage := XStage.idle })).onMem (fun z => { z with near := [(0, 0x50), (1, 0x4C), (2, 0x41), (3, 0x4E), (4, 1), (8, 1), (10, 1), (16, 128), (32, 1), (46, 0x10), (48, 128), (74, 0x10), (80, 1), (81, 64)], tmap := [(0, { (default : FrameSt) with mode := .system })] })).onPlan 1 (fun z => { z with valid := true, glove := 0, sbase := 0x10000000000000, slen := 128 })) : State).hostBytes 0x10000000000000 88).getD [])).getD default) : PlanSt), ⟨rfl, rfl, by decide⟩, by decide⟩,
   ⟨({ (default : HostCmd) with a2 := 0x10000000000000, a3 := 88 } : HostCmd), (((((State.reset.wM .service).onGlv (({ (default : HostCmd) with a2 := 0x10000000000000, a3 := 88 } : HostCmd).a1.field 8 6) (fun z => { z with live := true })).onPlan (0 : Nat) (fun z => { z with stage := XStage.idle })).onMem (fun z => { z with near := [(0, 0x50), (1, 0x4C), (2, 0x41), (3, 0x4E), (4, 1), (8, 1), (10, 1), (16, 128), (32, 1), (46, 0x10), (48, 128), (74, 0x10), (80, 1), (81, 64)], tmap := [(0, { (default : FrameSt) with mode := .system })] })) : State), ((((((State.reset.wM .service).onGlv (({ (default : HostCmd) with a2 := 0x10000000000000, a3 := 88 } : HostCmd).a1.field 8 6) (fun z => { z with live := true })).onPlan (0 : Nat) (fun z => { z with stage := XStage.idle })).onMem (fun z => { z with near := [(0, 0x50), (1, 0x4C), (2, 0x41), (3, 0x4E), (4, 1), (8, 1), (10, 1), (16, 128), (32, 1), (46, 0x10), (48, 128), (74, 0x10), (80, 1), (81, 64)], tmap := [(0, { (default : FrameSt) with mode := .system })] })) : State) : State), 0, ((((((((State.reset.wM .service).onGlv (({ (default : HostCmd) with a2 := 0x10000000000000, a3 := 88 } : HostCmd).a1.field 8 6) (fun z => { z with live := true })).onPlan (0 : Nat) (fun z => { z with stage := XStage.idle })).onMem (fun z => { z with near := [(0, 0x50), (1, 0x4C), (2, 0x41), (3, 0x4E), (4, 1), (8, 1), (10, 1), (16, 128), (32, 1), (46, 0x10), (48, 128), (74, 0x10), (80, 1), (81, 64)], tmap := [(0, { (default : FrameSt) with mode := .system })] })) : State).hostBytes 0x10000000000000 88).getD []) : List Byte), (((State.planOf (((((((State.reset.wM .service).onGlv (({ (default : HostCmd) with a2 := 0x10000000000000, a3 := 88 } : HostCmd).a1.field 8 6) (fun z => { z with live := true })).onPlan (0 : Nat) (fun z => { z with stage := XStage.idle })).onMem (fun z => { z with near := [(0, 0x50), (1, 0x4C), (2, 0x41), (3, 0x4E), (4, 1), (8, 1), (10, 1), (16, 128), (32, 1), (46, 0x10), (48, 128), (74, 0x10), (80, 1), (81, 64)], tmap := [(0, { (default : FrameSt) with mode := .system })] })) : State).hostBytes 0x10000000000000 88).getD [])).getD default) : PlanSt), ⟨rfl, rfl, by decide⟩, by decide⟩,
   ⟨((default : HostCmd) : HostCmd), ((((State.reset.wM .service).onGlv (((default : HostCmd) : HostCmd).a1.field 8 6) (fun z => { z with live := true })).onPlan (0 : Nat) (fun z => { z with valid := false })) : State), (((((State.reset.wM .service).onGlv (((default : HostCmd) : HostCmd).a1.field 8 6) (fun z => { z with live := true })).onPlan (0 : Nat) (fun z => { z with valid := false })) : State) : State), 0, ⟨rfl, rfl, by decide⟩, by decide⟩,
   ⟨((default : HostCmd) : HostCmd), (((((State.reset.wM .service).onGlv (((default : HostCmd) : HostCmd).a1.field 8 6) (fun z => { z with live := true })).onPlan (0 : Nat) (fun z => { z with valid := true })).onPlan (0 : Nat) (fun z => { z with stage := XStage.count })) : State), ((((((State.reset.wM .service).onGlv (((default : HostCmd) : HostCmd).a1.field 8 6) (fun z => { z with live := true })).onPlan (0 : Nat) (fun z => { z with valid := true })).onPlan (0 : Nat) (fun z => { z with stage := XStage.count })) : State) : State), 0, ⟨rfl, rfl, by decide⟩, by decide⟩,
   ⟨((default : HostCmd) : HostCmd), (((((State.reset.wM .service).onGlv (((default : HostCmd) : HostCmd).a1.field 8 6) (fun z => { z with live := true })).onPlan (0 : Nat) (fun z => { z with valid := true })).onPlan (0 : Nat) (fun z => { z with stage := XStage.idle })) : State), ((((((State.reset.wM .service).onGlv (((default : HostCmd) : HostCmd).a1.field 8 6) (fun z => { z with live := true })).onPlan (0 : Nat) (fun z => { z with valid := true })).onPlan (0 : Nat) (fun z => { z with stage := XStage.idle })) : State) : State), 0, ⟨rfl, rfl, by decide⟩, by decide⟩,
   ⟨({ (default : HostCmd) with a1 := 0 } : HostCmd), ((((State.reset.wM .service).onGlv (({ (default : HostCmd) with a1 := 0 } : HostCmd).a1.field 0 6) (fun z => { z with live := true })).onAos (fun z => { z with otp := [⟨true, true, 0, [], [0], []⟩] })) : State), (((((State.reset.wM .service).onGlv (({ (default : HostCmd) with a1 := 0 } : HostCmd).a1.field 0 6) (fun z => { z with live := true })).onAos (fun z => { z with otp := [⟨true, true, 0, [], [0], []⟩] })) : State) : State), 0, 0, ⟨rfl, rfl, by decide⟩, by decide⟩,
   ⟨((default : HostCmd) : HostCmd), ((((State.reset.wM .service).onGlv (((default : HostCmd) : HostCmd).a1.field 0 6) (fun z => { z with live := true })).onMem (fun z => { z with lz2Glove := some (0 : Nat) })) : State), (((((State.reset.wM .service).onGlv (((default : HostCmd) : HostCmd).a1.field 0 6) (fun z => { z with live := true })).onMem (fun z => { z with lz2Glove := some (0 : Nat) })) : State) : State), 0, 0, 0, ⟨rfl, rfl, by decide⟩, by decide⟩,
   ⟨({ (default : HostCmd) with a2 := 0x200000, a3 := 0x10000 } : HostCmd), ((((((State.reset.wM .service).onGlv (({ (default : HostCmd) with a2 := 0x200000, a3 := 0x10000 } : HostCmd).a1.field 0 6) (fun z => { z with live := true })).onMem (fun z => { z with lz2Glove := none })).setReg (Adr.aosProf 0 0) 0x40000).onMem (fun z => { z with tmap := [(0, { (default : FrameSt) with mode := .priv })] })) : State), (((((((State.reset.wM .service).onGlv (({ (default : HostCmd) with a2 := 0x200000, a3 := 0x10000 } : HostCmd).a1.field 0 6) (fun z => { z with live := true })).onMem (fun z => { z with lz2Glove := none })).setReg (Adr.aosProf 0 0) 0x40000).onMem (fun z => { z with tmap := [(0, { (default : FrameSt) with mode := .priv })] })) : State) : State), 0, 1, ⟨rfl, rfl, by decide⟩, by decide, by decide, by decide, by decide, by decide, by decide, by decide, by decide, by decide, by decide, by decide, by intro i h; have e : i = 0 := (by omega); subst e; decide⟩,
   ⟨((default : HostCmd) : HostCmd), (((State.reset.wM .service).onGlv (((default : HostCmd) : HostCmd).a1.field 0 6) (fun z => { z with live := true })) : State), ((((State.reset.wM .service).onGlv (((default : HostCmd) : HostCmd).a1.field 0 6) (fun z => { z with live := true })) : State) : State), ⟨rfl, rfl, by decide⟩, by decide⟩,
   ⟨((default : HostCmd) : HostCmd), ((((((((State.reset.wM .service).onGlv (((default : HostCmd) : HostCmd).a1.field 0 6) (fun z => { z with live := true })).onMem (fun z => { z with lz2Glove := some (((default : HostCmd) : HostCmd).a1.field 0 6) })).onMem (fun z => { z with lz2Glove := some 0 })).onGsq 0 (fun z => { z with glove := some 0, state := .idle })).onGsq 0 (fun z => { z with slots := [.loaded] })).onSeq (fun z => { z with imgs := z.imgs.put 0 { (default : ImgInfo) with cls := 2 } })) : State), (((((((((State.reset.wM .service).onGlv (((default : HostCmd) : HostCmd).a1.field 0 6) (fun z => { z with live := true })).onMem (fun z => { z with lz2Glove := some (((default : HostCmd) : HostCmd).a1.field 0 6) })).onMem (fun z => { z with lz2Glove := some 0 })).onGsq 0 (fun z => { z with glove := some 0, state := .idle })).onGsq 0 (fun z => { z with slots := [.loaded] })).onSeq (fun z => { z with imgs := z.imgs.put 0 { (default : ImgInfo) with cls := 2 } })) : State) : State), 0, ⟨rfl, rfl, by decide⟩, by decide⟩,
   ⟨((default : HostCmd) : HostCmd), ((((State.reset.wM .service).onGlv (((default : HostCmd) : HostCmd).a1.field 0 6) (fun z => { z with live := true })).onMem (fun z => { z with lz2Glove := some (((default : HostCmd) : HostCmd).a1.field 0 6) })) : State), (((((State.reset.wM .service).onGlv (((default : HostCmd) : HostCmd).a1.field 0 6) (fun z => { z with live := true })).onMem (fun z => { z with lz2Glove := some (((default : HostCmd) : HostCmd).a1.field 0 6) })) : State) : State), ⟨rfl, rfl, by decide⟩, by decide⟩,
   ⟨((default : HostCmd) : HostCmd), (((State.reset.wM .service).onGlv (((default : HostCmd) : HostCmd).a1.field 8 6) (fun z => { z with live := true })) : State), ((((State.reset.wM .service).onGlv (((default : HostCmd) : HostCmd).a1.field 8 6) (fun z => { z with live := true })) : State) : State), ⟨rfl, rfl, by decide⟩, by decide⟩⟩

theorem wit_SequencerWaits :
    (∃ (q : Nat) (tmo : Nat) (s : State), s.Fetches q (s.waitAs q false false false false (waitWord 0 0 0 0 0 tmo)) ∧ s.swPending q = true) ∧
    (∃ (q : Nat) (tmo : Nat) (s : State), s.Fetches q (s.waitAs q false false false false (waitWord 0 0 0 0 0 tmo)) ∧ s.swPending q = false ∧ (s.pat (s.gsqGlove q)).valid = false) ∧
    (∃ (q : Nat) (tmo : Nat) (s : State), s.Fetches q (s.waitAs q false false false false (waitWord 0 0 0 0 0 tmo)) ∧ s.swPending q = false ∧ (s.pat (s.gsqGlove q)).valid = true ∧ (s.pat (s.gsqGlove q)).done = true) ∧
    (∃ (q : Nat) (tmo : Nat) (s : State), s.Fetches q (s.waitAs q false false false false (waitWord 0 0 0 0 0 tmo)) ∧ s.swPending q = false ∧ (s.pat (s.gsqGlove q)).valid = true ∧ (s.pat (s.gsqGlove q)).done = false) ∧
    (∃ (q : Nat) (slot : Nat) (tmo : Nat) (s : State), s.Fetches q (s.waitAs q false false true false (waitWord 1 0 0 slot 0 tmo)) ∧ s.slotBase q slot = SlotState.loading) ∧
    (∃ (q : Nat) (slot : Nat) (tmo : Nat) (s : State), s.Fetches q (s.waitAs q false false true false (waitWord 1 0 0 slot 0 tmo)) ∧ s.slotBase q slot = SlotState.empty) ∧
    (∃ (q : Nat) (slot : Nat) (tmo : Nat) (s : State), s.Fetches q (s.waitAs q false false true false (waitWord 1 0 0 slot 0 tmo)) ∧ s.slotBase q slot ≠ SlotState.loading ∧ s.slotBase q slot ≠ SlotState.empty) ∧
    (∃ (q : Nat) (ga : Nat) (ofs : Nat) (tmo : Nat) (s : State), s.Fetches q (s.waitAs q true false false true (waitWord 2 ga 0 0 ofs tmo)) ∧ s.periodAt (BitVec.toNat (s.greg q ga)) ≤ ofs) ∧
    (∃ (q : Nat) (ga : Nat) (ofs : Nat) (tmo : Nat) (s : State), s.Fetches q (s.waitAs q true false false true (waitWord 2 ga 0 0 ofs tmo)) ∧ ofs < s.periodAt (BitVec.toNat (s.greg q ga)) ∧ s.reached (BitVec.toNat (s.greg q ga)) ofs = true) ∧
    (∃ (q : Nat) (ga : Nat) (ofs : Nat) (tmo : Nat) (s : State), s.Fetches q (s.waitAs q true false false true (waitWord 2 ga 0 0 ofs tmo)) ∧ ofs < s.periodAt (BitVec.toNat (s.greg q ga)) ∧ s.reached (BitVec.toNat (s.greg q ga)) ofs = false) ∧
    (∃ (q : Nat) (ga : Nat) (gb : Nat) (tmo : Nat) (s : State), s.Fetches q (s.waitAs q true true false false (waitWord 3 ga gb 0 0 tmo)) ∧ s.nameInGlove (s.gsqGlove q) (s.greg q ga) = false) ∧
    (∃ (q : Nat) (ga : Nat) (gb : Nat) (tmo : Nat) (s : State), s.Fetches q (s.waitAs q true true false false (waitWord 3 ga gb 0 0 tmo)) ∧ s.nameInGlove (s.gsqGlove q) (s.greg q ga) = true ∧ (s.greg q gb).field 0 32 ≤ s.arrival (BitVec.ofNat 64 ((s.greg q ga).field 0 16))) ∧
    (∃ (q : Nat) (ga : Nat) (gb : Nat) (tmo : Nat) (s : State), s.Fetches q (s.waitAs q true true false false (waitWord 3 ga gb 0 0 tmo)) ∧ s.nameInGlove (s.gsqGlove q) (s.greg q ga) = true ∧ s.arrival (BitVec.ofNat 64 ((s.greg q ga).field 0 16)) < (s.greg q gb).field 0 32) ∧
    (∃ (q : Nat) (tmo : Nat) (s : State), s.Fetches q (s.waitAs q false false false false (waitWord 4 0 0 0 0 tmo)) ∧ s.armPending q = true) ∧
    (∃ (q : Nat) (tmo : Nat) (s : State), s.Fetches q (s.waitAs q false false false false (waitWord 4 0 0 0 0 tmo)) ∧ s.armPending q = false) ∧
    (∃ (q : Nat) (tmo : Nat) (s : State), s.Fetches q (s.waitAs q false false false false (waitWord 5 0 0 0 0 tmo)) ∧ (s.gsq q).seals ≠ []) ∧
    (∃ (q : Nat) (tmo : Nat) (s : State), s.Fetches q (s.waitAs q false false false false (waitWord 5 0 0 0 0 tmo)) ∧ (s.gsq q).seals = []) :=
  ⟨⟨0, 0, (((State.reset.wGsq (0 : Nat) (waitWord 0 0 0 0 0 (0 : Nat))).onGsq 0 (fun z => { z with sw := some default })) : State), ⟨by decide, by decide, by decide, by decide, by decide⟩, by decide⟩,
   ⟨0, 0, (((State.reset.wGsq (0 : Nat) (waitWord 0 0 0 0 0 (0 : Nat))).onPat (0) (fun z => { z with valid := false })) : State), ⟨by decide, by decide, by decide, by decide, by decide⟩, by decide⟩,
   ⟨0, 0, ((((State.reset.wGsq (0 : Nat) (waitWord 0 0 0 0 0 (0 : Nat))).onPat (0) (fun z => { z with valid := true })).onPat (0) (fun z => { z with done := true })) : State), ⟨by decide, by decide, by decide, by decide, by decide⟩, by decide⟩,
   ⟨0, 0, ((((State.reset.wGsq (0 : Nat) (waitWord 0 0 0 0 0 (0 : Nat))).onPat (0) (fun z => { z with valid := true })).onPat (0) (fun z => { z with done := false })) : State), ⟨by decide, by decide, by decide, by decide, by decide⟩, by decide⟩,
   ⟨0, 0, 0, (((State.reset.wGsq (0 : Nat) (waitWord 1 0 0 (0 : Nat) 0 (0 : Nat))).onGsq 0 (fun z => { z with slots := [.loading] })) : State), ⟨by decide, by decide, by decide, by decide, by decide⟩, by decide⟩,
   ⟨0, 0, 0, ((State.reset.wGsq (0 : Nat) (waitWord 1 0 0 (0 : Nat) 0 (0 : Nat))) : State), ⟨by decide, by decide, by decide, by decide, by decide⟩, by decide⟩,
   ⟨0, 0, 0, (((State.reset.wGsq (0 : Nat) (waitWord 1 0 0 (0 : Nat) 0 (0 : Nat))).onGsq 0 (fun z => { z with slots := [.loaded] })) : State), ⟨by decide, by decide, by decide, by decide, by decide⟩, by decide⟩,
   ⟨0, 0, 0, 0, (((State.reset.wGsq (0 : Nat) (waitWord 2 (0 : Nat) 0 0 (0 : Nat) (0 : Nat))).onTick (fun z => { z with n := 0 })) : State), ⟨by decide, by decide, by decide, by decide, by decide⟩, by decide⟩,
   ⟨0, 0, 0, 0, (((State.reset.wGsq (0 : Nat) (waitWord 2 (0 : Nat) 0 0 (0 : Nat) (0 : Nat))).onTick (fun z => { z with tick := 1000000 })) : State), ⟨by decide, by decide, by decide, by decide, by decide⟩, by decide⟩,
   ⟨0, 1, 0, 0, (((State.reset.wGsq (0 : Nat) (waitWord 2 (1 : Nat) 0 0 (0 : Nat) (0 : Nat))).onGsq 0 (fun z => { z with g := [0, 64] })) : State), ⟨by decide, by decide, by decide, by decide, by decide⟩, by decide⟩,
   ⟨0, 0, 0, 0, ((State.reset.wGsq (0 : Nat) (waitWord 3 (0 : Nat) (0 : Nat) 0 0 (0 : Nat))) : State), ⟨by decide, by decide, by decide, by decide, by decide⟩, by decide⟩,
   ⟨0, 0, 0, 0, (((State.reset.wGsq (0 : Nat) (waitWord 3 (0 : Nat) (0 : Nat) 0 0 (0 : Nat))).onPalm 0 (fun z => { z with glove := some 0 })) : State), ⟨by decide, by decide, by decide, by decide, by decide⟩, by decide⟩,
   ⟨0, 0, 1, 0, ((((State.reset.wGsq (0 : Nat) (waitWord 3 (0 : Nat) (1 : Nat) 0 0 (0 : Nat))).onPalm 0 (fun z => { z with glove := some 0 })).onGsq 0 (fun z => { z with g := [0, 5] })) : State), ⟨by decide, by decide, by decide, by decide, by decide⟩, by decide⟩,
   ⟨0, 0, (((State.reset.wGsq (0 : Nat) (waitWord 4 0 0 0 0 (0 : Nat))).onGsq 0 (fun z => { z with arm := some default })) : State), ⟨by decide, by decide, by decide, by decide, by decide⟩, by decide⟩,
   ⟨0, 0, ((State.reset.wGsq (0 : Nat) (waitWord 4 0 0 0 0 (0 : Nat))) : State), ⟨by decide, by decide, by decide, by decide, by decide⟩, by decide⟩,
   ⟨0, 0, (((State.reset.wGsq (0 : Nat) (waitWord 5 0 0 0 0 (0 : Nat))).onGsq (0 : Nat) (fun z => { z with seals := [default] })) : State), ⟨by decide, by decide, by decide, by decide, by decide⟩, by decide⟩,
   ⟨0, 0, (((State.reset.wGsq (0 : Nat) (waitWord 5 0 0 0 0 (0 : Nat))).onGsq (0 : Nat) (fun z => { z with seals := [] })) : State), ⟨by decide, by decide, by decide, by decide, by decide⟩, by decide⟩⟩

theorem wit_ServiceKeyAndImageCommands :
    (∃ (c : HostCmd) (s : State) (u : State) (idx : Nat), s.Accepts c 7 [bits 0 8, allBits, bits 0 11] u ∧ u.inA = true ∧ c.a1.field 0 4 = 0 ∧ idx = BitVec.toNat c.a2 ∧ c.a1.field 4 4 = 1 ∧ 128 ≤ idx) ∧
    (∃ (c : HostCmd) (s : State) (u : State) (idx : Nat), s.Accepts c 7 [bits 0 8, allBits, bits 0 11] u ∧ u.inA = true ∧ c.a1.field 0 4 = 0 ∧ idx = BitVec.toNat c.a2 ∧ c.a1.field 4 4 = 1 ∧ idx < 128 ∧ 4 ∈ (u.palm idx).causes) ∧
    (∃ (c : HostCmd) (s : State) (u : State) (idx : Nat), s.Accepts c 7 [bits 0 8, allBits, bits 0 11] u ∧ u.inA = true ∧ c.a1.field 0 4 = 0 ∧ idx = BitVec.toNat c.a2 ∧ c.a1.field 4 4 = 1 ∧ idx < 128 ∧ ¬4 ∈ (u.palm idx).causes) ∧
    (∃ (c : HostCmd) (s : State) (u : State) (idx : Nat), s.Accepts c 7 [bits 0 8, allBits, bits 0 11] u ∧ u.inA = true ∧ c.a1.field 0 4 = 0 ∧ idx = BitVec.toNat c.a2 ∧ c.a1.field 4 4 = 5 ∧ 96 ≤ idx) ∧
    (∃ (c : HostCmd) (s : State) (u : State) (idx : Nat), s.Accepts c 7 [bits 0 8, allBits, bits 0 11] u ∧ u.inA = true ∧ c.a1.field 0 4 = 0 ∧ idx = BitVec.toNat c.a2 ∧ c.a1.field 4 4 = 5 ∧ idx < 96 ∧ (u.link idx).st = LnkState.fenced) ∧
    (∃ (c : HostCmd) (s : State) (u : State) (idx : Nat), s.Accepts c 7 [bits 0 8, allBits, bits 0 11] u ∧ u.inA = true ∧ c.a1.field 0 4 = 0 ∧ idx = BitVec.toNat c.a2 ∧ c.a1.field 4 4 = 5 ∧ idx < 96 ∧ (u.link idx).st ≠ LnkState.fenced) ∧
    (∃ (c : HostCmd) (s : State) (u : State) (idx : Nat), s.Accepts c 7 [bits 0 8, allBits, bits 0 11] u ∧ u.inA = true ∧ c.a1.field 0 4 = 0 ∧ idx = BitVec.toNat c.a2 ∧ c.a1.field 4 4 = 3 ∧ idx < u.variant.channels ∧ (u.portSt false idx = PortState.absent ∨ u.portSt false idx = PortState.fenced)) ∧
    (∃ (c : HostCmd) (s : State) (u : State) (idx : Nat), s.Accepts c 7 [bits 0 8, allBits, bits 0 11] u ∧ u.inA = true ∧ c.a1.field 0 4 = 0 ∧ idx = BitVec.toNat c.a2 ∧ c.a1.field 4 4 = 3 ∧ idx < u.variant.channels ∧ u.portSt false idx ≠ PortState.absent ∧ u.portSt false idx ≠ PortState.fenced) ∧
    (∃ (c : HostCmd) (s : State) (u : State) (idx : Nat), s.Accepts c 7 [bits 0 8, allBits, bits 0 11] u ∧ u.inA = true ∧ c.a1.field 0 4 = 0 ∧ idx = BitVec.toNat c.a2 ∧ 7 ≤ c.a1.field 4 4) ∧
    (∃ (c : HostCmd) (s : State) (u : State) (idx : Nat), s.Accepts c 7 [bits 0 8, allBits, bits 0 11] u ∧ u.inA = true ∧ c.a1.field 0 4 = 1 ∧ idx = BitVec.toNat c.a2 ∧ c.a1.field 4 4 = 1 ∧ 128 ≤ idx) ∧
    (∃ (c : HostCmd) (s : State) (u : State) (idx : Nat), s.Accepts c 7 [bits 0 8, allBits, bits 0 11] u ∧ u.inA = true ∧ c.a1.field 0 4 = 1 ∧ idx = BitVec.toNat c.a2 ∧ c.a1.field 4 4 = 1 ∧ idx < 128 ∧ ¬4 ∈ (u.palm idx).causes) ∧
    (∃ (c : HostCmd) (s : State) (u : State) (idx : Nat), s.Accepts c 7 [bits 0 8, allBits, bits 0 11] u ∧ u.inA = true ∧ c.a1.field 0 4 = 1 ∧ idx = BitVec.toNat c.a2 ∧ c.a1.field 4 4 = 1 ∧ idx < 128 ∧ 4 ∈ (u.palm idx).causes ∧ u.dieFenced (idx / 16) = false) ∧
    (∃ (c : HostCmd) (s : State) (u : State) (idx : Nat), s.Accepts c 7 [bits 0 8, allBits, bits 0 11] u ∧ u.inA = true ∧ c.a1.field 0 4 = 1 ∧ idx = BitVec.toNat c.a2 ∧ c.a1.field 4 4 = 5 ∧ 96 ≤ idx) ∧
    (∃ (c : HostCmd) (s : State) (u : State) (idx : Nat), s.Accepts c 7 [bits 0 8, allBits, bits 0 11] u ∧ u.inA = true ∧ c.a1.field 0 4 = 1 ∧ idx = BitVec.toNat c.a2 ∧ c.a1.field 4 4 = 5 ∧ idx < 96 ∧ (u.link idx).st = LnkState.fenced) ∧
    (∃ (c : HostCmd) (s : State) (u : State) (idx : Nat), s.Accepts c 7 [bits 0 8, allBits, bits 0 11] u ∧ u.inA = true ∧ c.a1.field 0 4 = 2 ∧ idx = BitVec.toNat c.a2 ∧ c.a1.field 4 4 = 6 ∧ idx < 65536 ∧ (u.frame idx).mode = FMode.absent) ∧
    (∃ (c : HostCmd) (s : State) (u : State) (idx : Nat) (b : Nat × FrameSt), s.Accepts c 7 [bits 0 8, allBits, bits 0 11] u ∧ u.inA = true ∧ c.a1.field 0 4 = 2 ∧ idx = BitVec.toNat c.a2 ∧ c.a1.field 4 4 = 6 ∧ idx < 65536 ∧ (u.frame idx).mode ≠ FMode.absent ∧ b ∈ u.mem.tmap ∧ b.fst ≠ idx ∧ b.snd.mode = FMode.free ∧ u.stackDie b.snd.stack = u.frameDie idx) ∧
    (∃ (c : HostCmd) (s : State) (u : State) (idx : Nat), s.Accepts c 7 [bits 0 8, allBits, bits 0 11] u ∧ u.inA = true ∧ c.a1.field 0 4 = 2 ∧ idx = BitVec.toNat c.a2 ∧ c.a1.field 4 4 = 3 ∧ idx < u.variant.channels ∧ u.portSt false idx ≠ PortState.active) ∧
    (∃ (c : HostCmd) (s : State) (u : State) (idx : Nat), s.Accepts c 7 [bits 0 8, allBits, bits 0 11] u ∧ u.inA = true ∧ c.a1.field 0 4 = 2 ∧ idx = BitVec.toNat c.a2 ∧ c.a1.field 4 4 = 3 ∧ idx < u.variant.channels ∧ u.portSt false idx = PortState.active) ∧
    (∃ (c : HostCmd) (s : State) (u : State) (idx : Nat) (row : Nat) (col : Nat) (k : Kind), s.Accepts c 7 [bits 0 8, allBits, bits 0 11] u ∧ u.inA = true ∧ c.a1.field 0 4 = 3 ∧ idx = BitVec.toNat c.a2 ∧ row = c.a3.field 0 5 ∧ col = c.a3.field 6 5 ∧ (k = if c.a3.bit 5 = true then Kind.m else Kind.c) ∧ (c.a1.field 4 4 ≠ 0 ∨ 8 ≤ idx ∨ 24 ≤ row ∨ 24 ≤ col)) ∧
    (∃ (c : HostCmd) (s : State) (u : State) (idx : Nat) (row : Nat) (col : Nat) (k : Kind), s.Accepts c 7 [bits 0 8, allBits, bits 0 11] u ∧ u.inA = true ∧ c.a1.field 0 4 = 3 ∧ idx = BitVec.toNat c.a2 ∧ row = c.a3.field 0 5 ∧ col = c.a3.field 6 5 ∧ (k = if c.a3.bit 5 = true then Kind.m else Kind.c) ∧ c.a1.field 4 4 = 0 ∧ idx < 8 ∧ row < 24 ∧ col < 24 ∧ ((row + col) % 2 = if c.a3.bit 5 = true then 1 else 0) ∧ u.chainFree idx row col = true ∧ State.chainOf (u.repair idx row) k = none ∧ State.chainWait (u.repair idx row) k = none ∧ State.spareOk (u.repair idx row) k = true) ∧
    (∃ (c : HostCmd) (s : State) (u : State) (idx : Nat), s.Accepts c 7 [bits 0 8, allBits, bits 0 11] u ∧ u.inA = true ∧ c.a1.field 0 4 = 4 ∧ idx = BitVec.toNat c.a2 ∧ c.a1.field 4 4 ≠ 3 ∧ c.a1.field 4 4 ≠ 4) ∧
    (∃ (c : HostCmd) (info : Option DimmInfo) (s : State) (u : State) (idx : Nat), s.Accepts c 7 [bits 0 8, allBits, bits 0 11] u ∧ u.inA = true ∧ c.a1.field 0 4 = 4 ∧ idx = BitVec.toNat c.a2 ∧ c.a1.field 4 4 = 3 ∧ idx < u.variant.channels ∧ (u.portSt false idx ≠ PortState.fenced ∨ info = none)) ∧
    (∃ (c : HostCmd) (info : Option DimmInfo) (s : State) (u : State) (idx : Nat) (i : DimmInfo), s.Accepts c 7 [bits 0 8, allBits, bits 0 11] u ∧ u.inA = true ∧ c.a1.field 0 4 = 4 ∧ idx = BitVec.toNat c.a2 ∧ c.a1.field 4 4 = 3 ∧ idx < u.variant.channels ∧ u.portSt false idx = PortState.fenced ∧ info = some i ∧ (u.mem.ddr.at idx).returnCmd = none ∧ (u.dimmKind = none ∨ u.dimmKind = some i.mrdimm)) ∧
    (∃ (c : HostCmd) (s : State) (u : State) (n : Nat), s.Accepts c 8 [bits 0 10, allBits, allBits, allBits, allBits, allBits] u ∧ u.inA = true ∧ c.a1.field 8 2 = 0 ∧ n = c.a1.field 0 8 ∧ (u.keys.at n).installed = false ∧ u.aos.xkey = none) ∧
    (∃ (c : HostCmd) (s : State) (u : State) (n : Nat), s.Accepts c 8 [bits 0 10, allBits, allBits, allBits, allBits, allBits] u ∧ u.inA = true ∧ c.a1.field 8 2 = 1 ∧ n = c.a1.field 0 8 ∧ (u.keys.at n).installed = false) ∧
    (∃ (c : HostCmd) (s : State) (u : State) (n : Nat), s.Accepts c 8 [bits 0 10, allBits, allBits, allBits, allBits, allBits] u ∧ u.inA = true ∧ c.a1.field 8 2 = 1 ∧ n = c.a1.field 0 8 ∧ (u.keys.at n).installed = true) ∧
    (∃ (c : HostCmd) (s : State) (u : State), s.Accepts c 9 [bits 0 2, allBits, allBits] u ∧ u.inA = true ∧ c.a1.field 0 2 = 0 ∧ u.imageBytes c = none) ∧
    (∃ (c : HostCmd) (s : State) (u : State) (g : Nat), s.Accepts c 9 [bits 0 2, bits 0 3, 0] u ∧ u.inA = true ∧ c.a1.field 0 2 = 1 ∧ g = BitVec.toNat c.a2 ∧ (g < 2 ∨ 4 < g)) ∧
    (∃ (c : HostCmd) (s : State) (u : State) (g : Nat), s.Accepts c 9 [bits 0 2, bits 0 3, 0] u ∧ u.inA = true ∧ c.a1.field 0 2 = 1 ∧ g = BitVec.toNat c.a2 ∧ 2 ≤ g ∧ g ≤ 4 ∧ (u.aos.banks.at g).staged = none) ∧
    (∃ (c : HostCmd) (s : State) (u : State), s.Accepts c 9 [bits 0 2, allBits, allBits] u ∧ u.inA = true ∧ c.a1.field 0 2 = 2 ∧ u.imageBytes c = none) :=
  ⟨⟨({ (default : HostCmd) with a1 := 0x10, a2 := 128 } : HostCmd), ((State.reset.wM .service) : State), (((State.reset.wM .service) : State) : State), 128, ⟨rfl, rfl, by decide⟩, by decide⟩,
   ⟨({ (default : HostCmd) with a1 := 0x10, a2 := 0 } : HostCmd), (((State.reset.wM .service).onPalm 0 (fun z => { z with causes := [4] })) : State), ((((State.reset.wM .service).onPalm 0 (fun z => { z with causes := [4] })) : State) : State), 0, ⟨rfl, rfl, by decide⟩, by decide⟩,
   ⟨({ (default : HostCmd) with a1 := (((0 : Word).setField 0 4 0).setField 4 4 1) } : HostCmd), ((State.reset.wM .service) : State), (((State.reset.wM .service) : State) : State), (BitVec.toNat ({ (default : HostCmd) with a1 := (((0 : Word).setField 0 4 0).setField 4 4 1) } : HostCmd).a2 : Nat), ⟨rfl, rfl, by decide⟩, by decide⟩,
   ⟨({ (default : HostCmd) with a1 := 0x50, a2 := 96 } : HostCmd), ((State.reset.wM .service) : State), (((State.reset.wM .service) : State) : State), 96, ⟨rfl, rfl, by decide⟩, by decide⟩,
   ⟨({ (default : HostCmd) with a1 := (((0 : Word).setField 0 4 0).setField 4 4 5) } : HostCmd), (((State.reset.wM .service).onLink (BitVec.toNat ({ (default : HostCmd) with a1 := (((0 : Word).setField 0 4 0).setField 4 4 5) } : HostCmd).a2 : Nat) (fun z => { z with st := LnkState.fenced })) : State), ((((State.reset.wM .service).onLink (BitVec.toNat ({ (default : HostCmd) with a1 := (((0 : Word).setField 0 4 0).setField 4 4 5) } : HostCmd).a2 : Nat) (fun z => { z with st := LnkState.fenced })) : State) : State), (BitVec.toNat ({ (default : HostCmd) with a1 := (((0 : Word).setField 0 4 0).setField 4 4 5) } : HostCmd).a2 : Nat), ⟨rfl, rfl, by decide⟩, by decide⟩,
   ⟨({ (default : HostCmd) with a1 := (((0 : Word).setField 0 4 0).setField 4 4 5) } : HostCmd), (((State.reset.wM .service).onLink (BitVec.toNat ({ (default : HostCmd) with a1 := (((0 : Word).setField 0 4 0).setField 4 4 5) } : HostCmd).a2 : Nat) (fun z => { z with st := LnkState.up2 })) : State), ((((State.reset.wM .service).onLink (BitVec.toNat ({ (default : HostCmd) with a1 := (((0 : Word).setField 0 4 0).setField 4 4 5) } : HostCmd).a2 : Nat) (fun z => { z with st := LnkState.up2 })) : State) : State), (BitVec.toNat ({ (default : HostCmd) with a1 := (((0 : Word).setField 0 4 0).setField 4 4 5) } : HostCmd).a2 : Nat), ⟨rfl, rfl, by decide⟩, by decide⟩,
   ⟨({ (default : HostCmd) with a1 := (((0 : Word).setField 0 4 0).setField 4 4 3) } : HostCmd), ((State.reset.wM .service) : State), (((State.reset.wM .service) : State) : State), (BitVec.toNat ({ (default : HostCmd) with a1 := (((0 : Word).setField 0 4 0).setField 4 4 3) } : HostCmd).a2 : Nat), ⟨rfl, rfl, by decide⟩, by decide⟩,
   ⟨({ (default : HostCmd) with a1 := 0x30, a2 := 0 } : HostCmd), (((State.reset.wM .service).onMem (fun z => { z with ddr := z.ddr.put 0 { (default : DdrSt) with st := .active } })) : State), ((((State.reset.wM .service).onMem (fun z => { z with ddr := z.ddr.put 0 { (default : DdrSt) with st := .active } })) : State) : State), 0, ⟨rfl, rfl, by decide⟩, by decide⟩,
   ⟨({ (default : HostCmd) with a1 := (((0 : Word).setField 0 4 0).setField 4 4 7) } : HostCmd), ((State.reset.wM .service) : State), (((State.reset.wM .service) : State) : State), (BitVec.toNat ({ (default : HostCmd) with a1 := (((0 : Word).setField 0 4 0).setField 4 4 7) } : HostCmd).a2 : Nat), ⟨rfl, rfl, by decide⟩, by decide⟩,
   ⟨({ (default : HostCmd) with a1 := 0x11, a2 := 128 } : HostCmd), ((State.reset.wM .service) : State), (((State.reset.wM .service) : State) : State), 128, ⟨rfl, rfl, by decide⟩, by decide⟩,
   ⟨({ (default : HostCmd) with a1 := (((0 : Word).setField 0 4 1).setField 4 4 1) } : HostCmd), ((State.reset.wM .service) : State), (((State.reset.wM .service) : State) : State), (BitVec.toNat ({ (default : HostCmd) with a1 := (((0 : Word).setField 0 4 1).setField 4 4 1) } : HostCmd).a2 : Nat), ⟨rfl, rfl, by decide⟩, by decide⟩,
   ⟨({ (default : HostCmd) with a1 := 0x11, a2 := 0 } : HostCmd), (((State.reset.wM .service).onPalm 0 (fun z => { z with causes := [4] })) : State), ((((State.reset.wM .service).onPalm 0 (fun z => { z with causes := [4] })) : State) : State), 0, ⟨rfl, rfl, by decide⟩, by decide⟩,
   ⟨({ (default : HostCmd) with a1 := 0x51, a2 := 96 } : HostCmd), ((State.reset.wM .service) : State), (((State.reset.wM .service) : State) : State), 96, ⟨rfl, rfl, by decide⟩, by decide⟩,
   ⟨({ (default : HostCmd) with a1 := (((0 : Word).setField 0 4 1).setField 4 4 5) } : HostCmd), (((State.reset.wM .service).onLink (BitVec.toNat ({ (default : HostCmd) with a1 := (((0 : Word).setField 0 4 1).setField 4 4 5) } : HostCmd).a2 : Nat) (fun z => { z with st := LnkState.fenced })) : State), ((((State.reset.wM .service).onLink (BitVec.toNat ({ (default : HostCmd) with a1 := (((0 : Word).setField 0 4 1).setField 4 4 5) } : HostCmd).a2 : Nat) (fun z => { z with st := LnkState.fenced })) : State) : State), (BitVec.toNat ({ (default : HostCmd) with a1 := (((0 : Word).setField 0 4 1).setField 4 4 5) } : HostCmd).a2 : Nat), ⟨rfl, rfl, by decide⟩, by decide⟩,
   ⟨({ (default : HostCmd) with a1 := (((0 : Word).setField 0 4 2).setField 4 4 6) } : HostCmd), (((State.reset.wM .service).onFrame (BitVec.toNat ({ (default : HostCmd) with a1 := (((0 : Word).setField 0 4 2).setField 4 4 6) } : HostCmd).a2 : Nat) (fun z => { z with mode := FMode.absent })) : State), ((((State.reset.wM .service).onFrame (BitVec.toNat ({ (default : HostCmd) with a1 := (((0 : Word).setField 0 4 2).setField 4 4 6) } : HostCmd).a2 : Nat) (fun z => { z with mode := FMode.absent })) : State) : State), (BitVec.toNat ({ (default : HostCmd) with a1 := (((0 : Word).setField 0 4 2).setField 4 4 6) } : HostCmd).a2 : Nat), ⟨rfl, rfl, by decide⟩, by decide⟩,
   ⟨({ (default : HostCmd) with a1 := 0x62, a2 := 0 } : HostCmd), ((((State.reset.wM .service).onFrame (0 : Nat) (fun z => { z with mode := FMode.priv })).onMem (fun z => { z with tmap := [(0, { (default : FrameSt) with mode := .priv }), (1, { (default : FrameSt) with mode := .free })] })) : State), (((((State.reset.wM .service).onFrame (0 : Nat) (fun z => { z with mode := FMode.priv })).onMem (fun z => { z with tmap := [(0, { (default : FrameSt) with mode := .priv }), (1, { (default : FrameSt) with mode := .free })] })) : State) : State), 0, ((1, { (default : FrameSt) with mode := .free }) : Nat × FrameSt), ⟨rfl, rfl, by decide⟩, by decide⟩,
   ⟨({ (default : HostCmd) with a1 := (((0 : Word).setField 0 4 2).setField 4 4 3) } : HostCmd), ((State.reset.wM .service) : State), (((State.reset.wM .service) : State) : State), (BitVec.toNat ({ (default : HostCmd) with a1 := (((0 : Word).setField 0 4 2).setField 4 4 3) } : HostCmd).a2 : Nat), ⟨rfl, rfl, by decide⟩, by decide⟩,
   ⟨({ (default : HostCmd) with a1 := 0x32, a2 := 0 } : HostCmd), (((State.reset.wM .service).onMem (fun z => { z with ddr := z.ddr.put 0 { (default : DdrSt) with st := .active } })) : State), ((((State.reset.wM .service).onMem (fun z => { z with ddr := z.ddr.put 0 { (default : DdrSt) with st := .active } })) : State) : State), 0, ⟨rfl, rfl, by decide⟩, by decide⟩,
   ⟨({ (default : HostCmd) with a1 := (((0 : Word).setField 0 4 3).setField 4 4 1) } : HostCmd), ((State.reset.wM .service) : State), (((State.reset.wM .service) : State) : State), (BitVec.toNat ({ (default : HostCmd) with a1 := (((0 : Word).setField 0 4 3).setField 4 4 1) } : HostCmd).a2 : Nat), 0, 0, .c, ⟨rfl, rfl, by decide⟩, by decide⟩,
   ⟨({ (default : HostCmd) with a1 := 0x03, a2 := 0 } : HostCmd), (((State.reset.wM .service).onArr (fun z => { z with repair := z.repair.put 0 { (default : RowRepair) with cSpareOk := true } })) : State), ((((State.reset.wM .service).onArr (fun z => { z with repair := z.repair.put 0 { (default : RowRepair) with cSpareOk := true } })) : State) : State), 0, 0, 0, .c, ⟨rfl, rfl, by decide⟩, by decide⟩,
   ⟨({ (default : HostCmd) with a1 := ((0 : Word).setField 0 4 4) } : HostCmd), ((State.reset.wM .service) : State), (((State.reset.wM .service) : State) : State), (BitVec.toNat ({ (default : HostCmd) with a1 := ((0 : Word).setField 0 4 4) } : HostCmd).a2 : Nat), ⟨rfl, rfl, by decide⟩, by decide⟩,
   ⟨({ (default : HostCmd) with a1 := (((0 : Word).setField 0 4 4).setField 4 4 3) } : HostCmd), none, ((State.reset.wM .service) : State), (((State.reset.wM .service) : State) : State), (BitVec.toNat ({ (default : HostCmd) with a1 := (((0 : Word).setField 0 4 4).setField 4 4 3) } : HostCmd).a2 : Nat), ⟨rfl, rfl, by decide⟩, by decide⟩,
   ⟨({ (default : HostCmd) with a1 := 0x34, a2 := 0 } : HostCmd), ((some default) : Option DimmInfo), (((State.reset.wM .service).onMem (fun z => { z with ddr := z.ddr.put 0 { (default : DdrSt) with st := .fenced } })) : State), ((((State.reset.wM .service).onMem (fun z => { z with ddr := z.ddr.put 0 { (default : DdrSt) with st := .fenced } })) : State) : State), 0, default, ⟨rfl, rfl, by decide⟩, by decide⟩,
   ⟨({ (default : HostCmd) with a1 := ((0 : Word).setField 8 2 0) } : HostCmd), (((State.reset.wM .service).onAos (fun z => { z with xkey := none })) : State), ((((State.reset.wM .service).onAos (fun z => { z with xkey := none })) : State) : State), 0, ⟨rfl, rfl, by decide⟩, by decide⟩,
   ⟨({ (default : HostCmd) with a1 := ((0 : Word).setField 8 2 1) } : HostCmd), ((State.reset.wM .service) : State), (((State.reset.wM .service) : State) : State), 0, ⟨rfl, rfl, by decide⟩, by decide⟩,
   ⟨({ (default : HostCmd) with a1 := ((0 : Word).setField 8 2 1) } : HostCmd), (((State.reset.wM .service).wKey (0 : Nat)) : State), ((((State.reset.wM .service).wKey (0 : Nat)) : State) : State), 0, ⟨rfl, rfl, by decide⟩, by decide⟩,
   ⟨({ (default : HostCmd) with a1 := ((0 : Word).setField 0 2 0) } : HostCmd), ((State.reset.wM .service) : State), (((State.reset.wM .service) : State) : State), ⟨rfl, rfl, by decide⟩, by decide⟩,
   ⟨({ (default : HostCmd) with a1 := ((0 : Word).setField 0 2 1) } : HostCmd), ((State.reset.wM .service) : State), (((State.reset.wM .service) : State) : State), (BitVec.toNat ({ (default : HostCmd) with a1 := ((0 : Word).setField 0 2 1) } : HostCmd).a2 : Nat), ⟨rfl, rfl, by decide⟩, by decide⟩,
   ⟨({ (default : HostCmd) with a1 := 1, a2 := 2 } : HostCmd), ((State.reset.wM .service) : State), (((State.reset.wM .service) : State) : State), 2, ⟨rfl, rfl, by decide⟩, by decide⟩,
   ⟨({ (default : HostCmd) with a1 := ((0 : Word).setField 0 2 2) } : HostCmd), ((State.reset.wM .service) : State), (((State.reset.wM .service) : State) : State), ⟨rfl, rfl, by decide⟩, by decide⟩⟩

theorem wit_ServingSteps :
    (∃ (g : Nat) (s : State), s.turn (Event.commit g) = false) ∧
    (∃ (g : Nat) (s : State) (r : RowSt), s.turn (Event.commit g) = true ∧ r ∈ (s.serve g).rows) ∧
    (∃ (g : Nat) (s : State), (s.gsqOf g = none ∨ s.serves g = false)) ∧
    (∃ (g : Nat) (s : State) (q : Nat), s.gsqOf g = some q ∧ s.serves g = true ∧ (Option.map (fun x => x.code) (List.find? (fun r => decide (r.code < 256)) (State.dropReserved (s.gsq q).reports)) = some 1)) ∧
    (∃ (g : Nat) (s : State) (q : Nat), s.gsqOf g = some q ∧ s.serves g = true ∧ (Option.map (fun x => x.code) (List.find? (fun r => decide (r.code < 256)) (State.dropReserved (s.gsq q).reports)) = some 2) ∧ (s.serve g).phase = 0) ∧
    (∃ (g : Nat) (s : State) (q : Nat) (r : RowSt), s.gsqOf g = some q ∧ s.serves g = true ∧ (Option.map (fun x => x.code) (List.find? (fun r => decide (r.code < 256)) (State.dropReserved (s.gsq q).reports)) = some 2) ∧ (s.serve g).phase ≠ 0 ∧ (∀ (i : Nat), (s.seqEnt i).canreq = false ∧ (s.seqEnt i).pausereq = false) ∧ r ∈ (s.serve g).rows) ∧
    (∃ (g : Nat) (s : State), (s.serve g).phase ≠ 2) ∧
    (∃ (g : Nat) (s : State) (u : State) (rows : List RowSt), (s.serve g).phase = 2 ∧ s.sampleRows g (s.serve g).rows 0 = some (u, rows)) ∧
    (∃ (g : Nat) (s : State), (s.serve g).phase = 2 ∧ s.sampleRows g (s.serve g).rows 0 = none) :=
  ⟨⟨0, ((State.reset.wNoLedger) : State), by decide⟩,
   ⟨0, ((((State.reset.wNoLedger).onServe (0 : Nat) (fun z => { z with phase := 3 })).onServe 0 (fun z => { z with rows := [default] })) : State), default, by decide⟩,
   ⟨0, State.reset, by decide⟩,
   ⟨0, ((((((State.reset.onGlv (0 : Nat) (fun z => { z with live := true, gsq := (0 : Nat) })).onGsq (0 : Nat) (fun z => { z with glove := some (0 : Nat) })).onGlv 0 (fun z => { z with live := true, gsq := 0 })).setFld (Adr.stwGcfg 0) 45 1 1).onGsq 0 (fun z => { z with glove := some 0, reports := [⟨1, 0, 0⟩] })) : State), 0, by decide⟩,
   ⟨0, (((((((State.reset.onGlv (0 : Nat) (fun z => { z with live := true, gsq := (0 : Nat) })).onGsq (0 : Nat) (fun z => { z with glove := some (0 : Nat) })).onServe (0 : Nat) (fun z => { z with phase := 0 })).onGlv 0 (fun z => { z with live := true, gsq := 0 })).setFld (Adr.stwGcfg 0) 45 1 1).onGsq 0 (fun z => { z with glove := some 0, reports := [⟨2, 0, 0⟩] })) : State), 0, by decide⟩,
   ⟨0, ((((((((State.reset.onGlv (0 : Nat) (fun z => { z with live := true, gsq := (0 : Nat) })).onGsq (0 : Nat) (fun z => { z with glove := some (0 : Nat) })).onServe (0 : Nat) (fun z => { z with phase := 1 })).onGlv 0 (fun z => { z with live := true, gsq := 0 })).setFld (Adr.stwGcfg 0) 45 1 1).onGsq 0 (fun z => { z with glove := some 0, reports := [⟨2, 0, 0⟩] })).onServe 0 (fun z => { z with phase := 1, rows := [default] })) : State), 0, default, by decide, by decide, by decide, by decide, by intro i; exact ⟨rfl, rfl⟩, by decide⟩,
   ⟨0, State.reset, by decide⟩,
   ⟨0, ((State.reset.onServe (0 : Nat) (fun z => { z with phase := 2 })) : State), (((State.reset.onServe (0 : Nat) (fun z => { z with phase := 2 })) : State) : State), ([] : List RowSt), by decide⟩,
   ⟨0, (((State.reset.onServe (0 : Nat) (fun z => { z with phase := 2 })).onServe 0 (fun z => { z with rows := [{ (default : RowSt) with sample := true }] })) : State), by decide, rfl⟩⟩

theorem wit_SharedCommandChecks :
    (∃ (c : HostCmd) (s : State) (u : State), u = s.taken c 19 ∧ reservedSet c [bits 0 12, bits 0 12] = true) ∧
    (∃ (c : HostCmd) (s : State) (u : State), u = s.taken c 19 ∧ reservedSet c [bits 0 12, bits 0 12] = false ∧ c.func = 0 ∧ u.inS = false) ∧
    (∃ (c : HostCmd) (s : State) (u : State), u = s.taken c 19 ∧ reservedSet c [bits 0 12, bits 0 12] = false ∧ c.func = 0 ∧ u.inS = true ∧ (u.glove (c.a1.field 0 6)).live = false) ∧
    (∃ (c : HostCmd) (s : State) (u : State) (g : Nat), u = s.taken c 19 ∧ reservedSet c [bits 0 12, bits 0 12] = false ∧ c.func ≠ 0 ∧ u.inS = true ∧ u.vfGlove c.func = some g ∧ (u.glove (gloveA1 (vfA1 g (u.glove g).key c))).live = true) ∧
    (∃ (c : HostCmd) (s : State) (u : State), u = s.taken c 23 ∧ reservedSet c [bits 0 6, allBits] = true) ∧
    (∃ (c : HostCmd) (s : State) (u : State), u = s.taken c 23 ∧ reservedSet c [bits 0 6, allBits] = false ∧ c.func = 0 ∧ u.inS = false) ∧
    (∃ (c : HostCmd) (s : State) (u : State), u = s.taken c 23 ∧ reservedSet c [bits 0 6, allBits] = false ∧ c.func = 0 ∧ u.inS = true ∧ (u.glove (c.a1.field 0 6)).live = false) ∧
    (∃ (c : HostCmd) (s : State) (u : State) (g : Nat), u = s.taken c 23 ∧ reservedSet c [bits 0 6, allBits] = false ∧ c.func ≠ 0 ∧ u.inS = true ∧ u.vfGlove c.func = some g ∧ (u.glove (gloveA1 (vfA1 g (u.glove g).key c))).live = true) ∧
    (∃ (c : HostCmd) (s : State) (u : State), u = s.taken c 16 ∧ reservedSet c [allBits, allBits, bits 0 15, bits 0 32] = true) ∧
    (∃ (c : HostCmd) (s : State) (u : State), u = s.taken c 16 ∧ reservedSet c [allBits, allBits, bits 0 15, bits 0 32] = false ∧ c.func ≠ 0) ∧
    (∃ (c : HostCmd) (s : State) (u : State), u = s.taken c 16 ∧ reservedSet c [allBits, allBits, bits 0 15, bits 0 32] = false ∧ c.func = 0 ∧ u.inS = false) ∧
    (∃ (c : HostCmd) (s : State) (u : State), u = s.taken c 50 ∧ reservedSet c [bits 0 20] = true) ∧
    (∃ (c : HostCmd) (s : State) (u : State), u = s.taken c 50 ∧ reservedSet c [bits 0 20] = false ∧ c.func ≠ 0) ∧
    (∃ (c : HostCmd) (s : State) (u : State), u = s.taken c 50 ∧ reservedSet c [bits 0 20] = false ∧ c.func = 0 ∧ u.inD = false) :=
  ⟨⟨({ (default : HostCmd) with resv0 := 1 } : HostCmd), State.reset, ((State.reset : State) : State), by decide⟩,
   ⟨({ (default : HostCmd) with func := 0 } : HostCmd), State.reset, ((State.reset : State).taken ({ (default : HostCmd) with func := 0 } : HostCmd) 19 : State), by decide⟩,
   ⟨({ (default : HostCmd) with func := 0 } : HostCmd), (((State.reset.wM .service).onGlv (({ (default : HostCmd) with func := 0 } : HostCmd).a1.field 0 6) (fun z => { z with live := false })) : State), ((((State.reset.wM .service).onGlv (({ (default : HostCmd) with func := 0 } : HostCmd).a1.field 0 6) (fun z => { z with live := false })) : State).taken ({ (default : HostCmd) with func := 0 } : HostCmd) 19 : State), by decide⟩,
   ⟨({ (default : HostCmd) with func := 1 } : HostCmd), ((((State.reset.wM .service).wS).onGlv 0 (fun z => { z with live := true, vf := 1 })) : State), (((((State.reset.wM .service).wS).onGlv 0 (fun z => { z with live := true, vf := 1 })) : State) : State), 0, by decide⟩,
   ⟨({ (default : HostCmd) with resv0 := 1 } : HostCmd), State.reset, ((State.reset : State) : State), by decide⟩,
   ⟨({ (default : HostCmd) with func := 0 } : HostCmd), State.reset, ((State.reset : State).taken ({ (default : HostCmd) with func := 0 } : HostCmd) 23 : State), by decide⟩,
   ⟨({ (default : HostCmd) with func := 0 } : HostCmd), (((State.reset.wM .service).onGlv (({ (default : HostCmd) with func := 0 } : HostCmd).a1.field 0 6) (fun z => { z with live := false })) : State), ((((State.reset.wM .service).onGlv (({ (default : HostCmd) with func := 0 } : HostCmd).a1.field 0 6) (fun z => { z with live := false })) : State).taken ({ (default : HostCmd) with func := 0 } : HostCmd) 23 : State), by decide⟩,
   ⟨({ (default : HostCmd) with func := 1 } : HostCmd), ((((State.reset.wM .service).wS).onGlv 0 (fun z => { z with live := true, vf := 1 })) : State), (((((State.reset.wM .service).wS).onGlv 0 (fun z => { z with live := true, vf := 1 })) : State) : State), 0, by decide⟩,
   ⟨({ (default : HostCmd) with resv0 := 1 } : HostCmd), State.reset, ((State.reset : State) : State), by decide⟩,
   ⟨({ (default : HostCmd) with func := 1 } : HostCmd), (((State.reset.wS).onGlv 0 (fun z => { z with live := true, vf := 1 })) : State), ((((State.reset.wS).onGlv 0 (fun z => { z with live := true, vf := 1 })) : State) : State), by decide⟩,
   ⟨({ (default : HostCmd) with func := 0 } : HostCmd), State.reset, ((State.reset : State).taken ({ (default : HostCmd) with func := 0 } : HostCmd) 16 : State), by decide⟩,
   ⟨({ (default : HostCmd) with resv0 := 1 } : HostCmd), State.reset, ((State.reset : State) : State), by decide⟩,
   ⟨({ (default : HostCmd) with func := 1 } : HostCmd), (((State.reset.wS).onGlv 0 (fun z => { z with live := true, vf := 1 })) : State), ((((State.reset.wS).onGlv 0 (fun z => { z with live := true, vf := 1 })) : State) : State), by decide⟩,
   ⟨({ (default : HostCmd) with func := 0 } : HostCmd), State.reset, ((State.reset : State).taken ({ (default : HostCmd) with func := 0 } : HostCmd) 50 : State), by decide⟩⟩

theorem wit_SidebandRequests :
    (∃ (s : State), s.sidebandUp = false) ∧
    (∃ (eid : Byte) (s : State) (v : State), s.sidebandUp = true ∧ v = s.wakeBy WakeSrc.smbus ∧ (eid = 0 ∨ eid = 255)) ∧
    (∃ (eid : Byte) (s : State) (v : State), s.sidebandUp = true ∧ v = s.wakeBy WakeSrc.smbus ∧ eid ≠ 0 ∧ eid ≠ 255) ∧
    (∃ (type : Byte) (s : State) (v : State), s.sidebandUp = true ∧ v = s.wakeBy WakeSrc.smbus ∧ type ≠ 255 ∧ type ≠ 0 ∧ type ≠ 126) ∧
    (∃ (type : Byte) (s : State) (v : State), s.sidebandUp = true ∧ v = s.wakeBy WakeSrc.smbus ∧ (type = 255 ∨ type = 0 ∨ type = 126)) ∧
    (∃ (sel : Byte) (s : State) (v : State), s.sidebandUp = true ∧ v = s.wakeBy WakeSrc.smbus ∧ sel ≠ 0) ∧
    (∃ (sel : Byte) (s : State) (v : State), s.sidebandUp = true ∧ v = s.wakeBy WakeSrc.smbus ∧ sel = 0) ∧
    (∃ (ident : Byte) (s : State) (v : State), s.sidebandUp = true ∧ v = s.wakeBy WakeSrc.smbus ∧ v.recordIds.contains (BitVec.toNat ident) = false) ∧
    (∃ (ident : Byte) (s : State) (v : State) (p : Nat × List Byte), s.sidebandUp = true ∧ v = s.wakeBy WakeSrc.smbus ∧ v.recordIds.contains (BitVec.toNat ident) = true ∧ (List.find? (fun p => p.fst == BitVec.toNat ident) v.host.records = some p)) ∧
    (∃ (s : State) (v : State) (a : Nat), s.sidebandUp = true ∧ v = s.wakeBy WakeSrc.smbus ∧ a ≠ Adr.hifAlert) ∧
    (∃ (s : State) (v : State) (a : Nat), s.sidebandUp = true ∧ v = s.wakeBy WakeSrc.smbus ∧ a ≠ Adr.hifAlmask) ∧
    (∃ (s : State), s.sidebandUp = true) ∧
    (∃ (s : State), s.sidebandUp = true) :=
  ⟨⟨State.reset, by decide⟩,
   ⟨0, ((State.reset.wS) : State), (((State.reset.wS) : State).wakeBy WakeSrc.smbus : State), by decide⟩,
   ⟨1, ((State.reset.wS) : State), (((State.reset.wS) : State).wakeBy WakeSrc.smbus : State), by decide⟩,
   ⟨5, ((State.reset.wS) : State), ((((State.reset.wS) : State).wakeBy WakeSrc.smbus) : State), by decide⟩,
   ⟨255, ((State.reset.wS) : State), (((State.reset.wS) : State).wakeBy WakeSrc.smbus : State), by decide⟩,
   ⟨1, ((State.reset.wS) : State), (((State.reset.wS) : State).wakeBy WakeSrc.smbus : State), by decide⟩,
   ⟨0, ((State.reset.wS) : State), (((State.reset.wS) : State).wakeBy WakeSrc.smbus : State), by decide⟩,
   ⟨0xFF, ((State.reset.wS) : State), ((((State.reset.wS) : State).wakeBy WakeSrc.smbus) : State), by decide⟩,
   ⟨0, (((State.reset.wS).onHost (fun z => { z with records := [(0, [])] })) : State), (((((State.reset.wS).onHost (fun z => { z with records := [(0, [])] })) : State).wakeBy WakeSrc.smbus) : State), ((0, []) : Nat × List Byte), by decide⟩,
   ⟨((State.reset.wS) : State), (((State.reset.wS) : State).wakeBy WakeSrc.smbus : State), ((Adr.hifAlert + 1) : Nat), by decide⟩,
   ⟨((State.reset.wS) : State), (((State.reset.wS) : State).wakeBy WakeSrc.smbus : State), ((Adr.hifAlmask + 1) : Nat), by decide⟩,
   ⟨((State.reset.wS) : State), by decide⟩,
   ⟨((State.reset.wS) : State), by decide⟩⟩

theorem wit_StepRunsTheFrontCommand :
    (∃ (c : Instr), (∀ (a : Nat) (h : Half) (v : Word), c = Instr.registerWrite 0 a h v → a < Adr.bar0Size) ∧ (∀ (a : Nat) (h : Half) (v e : Word), c = Instr.w1cWrite a h v e → a < Adr.bar0Size)) :=
  ⟨.tickAdvance, by intros; contradiction, by intros; contradiction⟩

theorem wit_StepsHoldsAndBeaconsLeaveTheRest :
    (∃ (s : State) (d : Int), s.tick.stepPend = some d ∧ s.tick.phase = 0 ∧ s.tick.own ≠ TState.locked ∧ s.tick.own ≠ TState.holdover ∧ d < 0) ∧
    (∃ (s : State) (d : Int), s.tick.stepPend = some d ∧ s.tick.phase = 0 ∧ s.tick.own ≠ TState.locked ∧ s.tick.own ≠ TState.holdover ∧ 0 ≤ d) ∧
    (∃ (s : State), s.tick.hold = some 0) ∧
    (∃ (s : State), s.tick.role.follows = false ∧ min s.tick.n 100000 ≤ s.tick.sinceSent) ∧
    (∃ (s : State) (n : Nat) (δ : Int), s.tick.role.follows = true ∧ s.nodeId = some n ∧ s.tick.own = TState.locked ∧ 1 < δ.natAbs) ∧
    (∃ (s : State) (δ : Int), s.tick.role.follows = false ∧ 1 < δ.natAbs) ∧
    (∃ (s : State), s.tick.pend = none) :=
  ⟨⟨((((State.reset.onTick (fun z => { z with stepPend := some ((-1) : Int) })).onTick (fun z => { z with phase := 0 })).onTick (fun z => { z with own := TState.acquiring })) : State), ((-1) : Int), by decide⟩,
   ⟨((((State.reset.onTick (fun z => { z with stepPend := some (0 : Int) })).onTick (fun z => { z with phase := 0 })).onTick (fun z => { z with own := TState.acquiring })) : State), 0, by decide⟩,
   ⟨((State.reset.onTick (fun z => { z with hold := some 0 })) : State), by decide⟩,
   ⟨((State.reset.onTick (fun z => { z with role := .crown, sinceSent := 100000 })) : State), by decide⟩,
   ⟨((((State.reset.wId (some (0 : Nat))).onTick (fun z => { z with own := TState.locked })).wId (some 0)) : State), 0, 2, by decide⟩,
   ⟨((State.reset.onTick (fun z => { z with role := .crown })) : State), 2, by decide⟩,
   ⟨((State.reset.onTick (fun z => { z with pend := none })) : State), by decide⟩⟩

theorem wit_SwitchesAndLoadsEndAsTheSequencerSees :
    (∃ (g : Nat) (s : State), s.gsqOf g = none) ∧
    (∃ (g : Nat) (s : State) (q : Nat) (r : SwReq), s.gsqOf g = some q ∧ (s.gsq q).sw = some r ∧ r.admitted = true ∧ (∀ (k : Nat), k ∈ maskDies (s.img g r.slot).dies → s.dieStopped k = false) ∧ (∀ (a : Nat), a ∈ maskDies (s.img g r.slot).dies → ∀ (b : Nat), b ∈ maskDies (s.img g r.slot).dies → dieNext a b = true → edgeJoined (s.img g r.slot).palms a b = true → (s.arr.edges.at (4 * a + if b = a + 1 then 1 else if a = b + 1 then 0 else if b = a + 4 then 3 else 2)).trained = true) ∧ (s.pat g).faulted = false ∧ (s.pat g).stopped = false ∧ s.drainWaits g = false ∧ s.patFrozen g = false ∧ s.stepsEqual (maskDies (s.img g r.slot).dies) = true ∧ s.exchanging g = false) ∧
    (∃ (g : Nat) (s : State), s.patRuns g = false) ∧
    (∃ (g : Nat) (s : State) (q : Nat), s.gsqOf g = some q ∧ s.patRuns g = true ∧ (s.pat g).faulted = false ∧ (s.pat g).stopped = false ∧ s.patEnds g = true) ∧
    (∃ (g : Nat) (s : State) (q : Nat) (a : ArmSt), s.gsqOf g = some q ∧ (s.gsq q).arm = some a ∧ s.turn (Event.switch g) = false) ∧
    (∃ (g : Nat) (s : State) (q : Nat) (a : ArmSt), s.gsqOf g = some q ∧ (s.gsq q).arm = some a ∧ s.turn (Event.switch g) = true ∧ a.was = SlotState.loaded) ∧
    (∃ (g : Nat) (s : State) (q : Nat) (a : ArmSt), s.gsqOf g = some q ∧ (s.gsq q).arm = some a ∧ s.turn (Event.switch g) = true ∧ a.was ≠ SlotState.loaded ∧ (s.gsq q).waitFor = none) ∧
    (∃ (g : Nat) (s : State) (q : Nat) (slot : Nat) (ta : Nat), s.gsqOf g = some q ∧ (s.gsq q).load = some (slot, ta) ∧ (s.gsq q).arm = none ∧ (s.gsq q).waitFor = none) :=
  ⟨⟨0, State.reset, by decide⟩,
   ⟨0, ((((((State.reset.onGlv (0 : Nat) (fun z => { z with live := true, gsq := (0 : Nat) })).onGsq (0 : Nat) (fun z => { z with glove := some (0 : Nat) })).onGsq (0 : Nat) (fun z => { z with sw := some ({ (default : SwReq) with admitted := true } : SwReq) })).onPat (0 : Nat) (fun z => { z with faulted := false })).onPat (0 : Nat) (fun z => { z with stopped := false })) : State), 0, ({ (default : SwReq) with admitted := true } : SwReq), by decide, by decide, by decide, by first | decide | (intro a h; cases h; done) | (intro a h; subst h; decide) | (intro a b h; cases h; done) | (intros; rfl) | (intros; decide), by first | decide | (intro a h; cases h; done) | (intro a h; subst h; decide) | (intro a b h; cases h; done) | (intros; rfl) | (intros; decide), by decide⟩,
   ⟨0, State.reset, by decide⟩,
   ⟨0, ((((((State.reset.onGlv (0 : Nat) (fun z => { z with live := true, gsq := (0 : Nat) })).onGsq (0 : Nat) (fun z => { z with glove := some (0 : Nat) })).onPat (0 : Nat) (fun z => { z with valid := true })).onPat (0 : Nat) (fun z => { z with faulted := false })).onPat (0 : Nat) (fun z => { z with stopped := false })) : State), 0, by decide⟩,
   ⟨0, (((((((State.reset.onGlv (0 : Nat) (fun z => { z with live := true, gsq := (0 : Nat) })).onGsq (0 : Nat) (fun z => { z with glove := some (0 : Nat) })).onGsq (0 : Nat) (fun z => { z with arm := some ({ (default : ArmSt) with tick := 100 } : ArmSt) })).wNoLedger).onGlv 0 (fun z => { z with live := true, gsq := 0 })).onGsq 0 (fun z => { z with glove := some 0, arm := some { (default : ArmSt) with tick := 100 } })) : State), 0, ({ (default : ArmSt) with tick := 100 } : ArmSt), by decide⟩,
   ⟨0, ((((((State.reset.onGlv (0 : Nat) (fun z => { z with live := true, gsq := (0 : Nat) })).onGsq (0 : Nat) (fun z => { z with glove := some (0 : Nat) })).onGsq (0 : Nat) (fun z => { z with arm := some ({ (default : ArmSt) with was := SlotState.loaded } : ArmSt) })).wNoLedger).wArm) : State), 0, ({ (default : ArmSt) with was := SlotState.loaded } : ArmSt), by decide⟩,
   ⟨0, (((((((State.reset.onGlv (0 : Nat) (fun z => { z with live := true, gsq := (0 : Nat) })).onGsq (0 : Nat) (fun z => { z with glove := some (0 : Nat) })).onGsq (0 : Nat) (fun z => { z with arm := some ({ (default : ArmSt) with was := SlotState.empty } : ArmSt) })).wNoLedger).wArm).onGsq (0 : Nat) (fun z => { z with waitFor := none })) : State), 0, ({ (default : ArmSt) with was := SlotState.empty } : ArmSt), by decide⟩,
   ⟨0, ((((((State.reset.onGlv (0 : Nat) (fun z => { z with live := true, gsq := (0 : Nat) })).onGsq (0 : Nat) (fun z => { z with glove := some (0 : Nat) })).onGsq (0 : Nat) (fun z => { z with load := some ((0 : Nat), (0 : Nat)) })).onGsq (0 : Nat) (fun z => { z with arm := none })).onGsq (0 : Nat) (fun z => { z with waitFor := none })) : State), 0, 0, 0, by decide⟩⟩

theorem wit_TickReadLatchesTheHighHalf :
    (∃ (h : Half), h ≠ Half.hi) :=
  ⟨Half.whole, by decide⟩

theorem wit_WaitsAndWorkCountersEnd :
    (∃ (q : Nat) (s : State), (s.gsq q).deadline = none) ∧
    (∃ (q : Nat) (s : State) (d : Nat × Nat), (s.gsq q).deadline = some d ∧ (s.gsq q).state = SeqState.waiting ∧ s.reached d.fst d.snd = true) ∧
    (∃ (q : Nat) (s : State) (k : Nat) (o : Nat), (s.gsq q).waitFor = some (WaitFor.tick k o) ∧ s.reached k o = false) ∧
    (∃ (q : Nat) (s : State) (k : Nat) (o : Nat), (s.gsq q).waitFor = some (WaitFor.tick k o) ∧ s.reached k o = true) ∧
    (∃ (wide : Bool), wide = true) ∧
    (∃ (die : Nat) (m : Nat) (n : Nat) (who : Requester) (wide : Bool) (s : State), wide = false ∧ s.whoStopped who = false ∧ s.whoGlove who = none ∧ s.wkNext die m n < s.wkLimit die m n) ∧
    (∃ (die : Nat) (m : Nat) (n : Nat) (who : Requester) (wide : Bool) (s : State), wide = false ∧ s.whoStopped who = false ∧ s.whoGlove who = none ∧ s.wkLimit die m n ≤ s.wkNext die m n) ∧
    (∃ (half : Half), half = Half.hi) ∧
    (∃ (limit : Bool) (half : Half), half ≠ Half.hi ∧ limit = false) ∧
    (∃ (limit : Bool) (half : Half) (val : Word), half ≠ Half.hi ∧ limit = true ∧ val.field 0 32 ≠ 4294967295) ∧
    (∃ (limit : Bool) (half : Half) (val : Word), half ≠ Half.hi ∧ limit = true ∧ val.field 0 32 = 4294967295) :=
  ⟨⟨0, ((State.reset.onGsq (0 : Nat) (fun z => { z with deadline := none })) : State), by decide⟩,
   ⟨0, ((((State.reset.onGsq (0 : Nat) (fun z => { z with deadline := some (default : Nat × Nat) })).onGsq (0 : Nat) (fun z => { z with state := SeqState.waiting })).onTick (fun z => { z with tick := 1000000 })) : State), default, by decide⟩,
   ⟨0, (((State.reset.onGsq (0 : Nat) (fun z => { z with waitFor := some (WaitFor.tick (5 : Nat) (0 : Nat)) })).onGsq 0 (fun z => { z with waitFor := some (.tick 5 0) })) : State), 5, 0, by decide⟩,
   ⟨0, (((State.reset.onGsq (0 : Nat) (fun z => { z with waitFor := some (WaitFor.tick (0 : Nat) (0 : Nat)) })).onTick (fun z => { z with tick := 1000000 })) : State), 0, 0, by decide⟩,
   ⟨true, by decide⟩,
   ⟨0, 0, 0, ((.system 0) : Requester), false, ((State.reset.setReg (Adr.wkcLimit 0 0 0) 5) : State), by decide⟩,
   ⟨0, 0, 0, (.system 0 : Requester), false, State.reset, by decide⟩,
   ⟨Half.hi, by decide⟩,
   ⟨false, Half.whole, by decide⟩,
   ⟨true, Half.whole, 0, by decide⟩,
   ⟨true, Half.whole, (((0 : Word).setField 0 32 4294967295) : Word), by decide⟩⟩

end Sys2Proof.Tests
end

/-! SUPPORT. Register writes, W1C writes and the host window (R8 to R11, R501 to R504, R588): what each does at one register or one near-tier unit,
and O48. -/

namespace Sys2Proof.Machine

open Adr

/-! Plain register writes (R9, R11). -/

namespace State

/-- In the block of the tick and energy registers every register that is no event register is written by its rule alone. -/
theorem writeReg_tickBlock (s : State) {a : Nat} (h : Half) (v : Word) (hlo : 0x400000 ≤ a) (hhi : a < 0x800000)
    (hev : flagCounters a = []) : s.writeReg a h v = s.writePlain a h v := by
  have hrst : a ≠ aosRstreq := by unfold aosRstreq; omega
  have hact : a ≠ secActl := by unfold secActl; omega
  have hqidx : a ≠ stwQidx := by unfold stwQidx; omega
  have hlow : s.writeLow a h v = s.writePlain a h v := by
    unfold writeLow
    rw [if_neg hrst, if_neg (by omega), if_neg (by omega), if_neg (by omega), if_neg (by omega), if_neg hact, if_neg hqidx, if_neg (by omega)]
  unfold writeReg
  rw [if_neg (not_not_intro hev), if_pos (by omega), hlow]

/-- A word that breaks its register's rule changes nothing. -/
theorem writePlain_illegal (s : State) {a : Nat} {h : Half} {v : Word} {r : RegRule}
    (hr : s.regRule a (mergeHalf h (s.reg a) v) = some r) (hok : r.ok = false) : s.writePlain a h v = s := by
  simp only [writePlain, hr, hok, if_true]

/-- Beside the ledger's record of the old LOFS, a legal word sets its register, under the mask of its rule. -/
theorem writePlain_legal (s : State) {a : Nat} {h : Half} {v : Word} {r : RegRule}
    (hr : s.regRule a (mergeHalf h (s.reg a) v) = some r) (hok : r.ok = true) :
    ∃ f, s.writePlain a h v = (s.setReg a (mergeHalf h (s.reg a) v &&& BitVec.ofNat 64 r.mask)).onLedger f ∧ (a ≠ tkeLcfg → f = id) := by
  simp only [writePlain, hr, hok, Bool.true_eq_false, if_false]
  split
  · exact ⟨_, rfl, fun hne => absurd ‹_› hne⟩
  · exact ⟨id, rfl, fun _ => rfl⟩

/-! W1C writes (R588). -/

/-- Raising a flag sets its bit of the event register. -/
theorem reg_raise_same (s : State) (e b n : Nat) : (s.raise e b n).reg e = (s.reg e).setField b 1 1 := by
  unfold raise
  dsimp only
  split
  · rename_i c hc
    unfold count setFld
    rw [reg_setReg_other _ _ (flagCounters_ne e c (List.mem_of_getElem? hc)).symm, reg_setReg_same]
  · unfold setFld
    rw [reg_setReg_same]

/-- Raising any flag of an event register keeps the flags that are set. -/
theorem flag_raise_of_flag (s : State) {e b : Nat} (c n : Nat) (hc : c < 64) (hf : s.flag e b = true) : (s.raise e c n).flag e b = true := by
  have hbit : (s.reg e).toNat.testBit b = true := hf
  show ((s.raise e c n).reg e).toNat.testBit b = true
  rw [reg_raise_same, Word.testBit_setField _ _ _ _ _ (by omega)]
  split
  · rw [show b = c by omega, Nat.sub_self]; rfl
  · exact hbit

/-- Without events nothing is raised. -/
theorem raiseMask_zero (s : State) (e : Nat) : s.raiseMask e 0 = s := by
  refine List.foldlRecOn (motive := fun t : State => t = s) (List.range 64) _ rfl fun t ht b _ => ?_
  rw [if_neg (by simp [Word.bit]), ht]

/-- Every flag whose event is in the mask is set after the events of the cycle. -/
theorem flag_raiseMask (s : State) {e b : Nat} {m : Word} (hb : b < 64) (hlen : b < (flagCounters e).length) (hm : m.bit b = true) :
    (s.raiseMask e m).flag e b = true := by
  obtain ⟨l₁, l₂, hsplit⟩ := List.append_of_mem (List.mem_range.mpr hb)
  have hlt : ∀ c ∈ l₂, c < 64 := fun c hc => List.mem_range.mp (by rw [hsplit]; simp [hc])
  unfold raiseMask
  rw [hsplit, List.foldl_append, List.foldl_cons, if_pos (by simp [hm, hlen])]
  refine List.foldlRecOn (motive := fun t : State => t.flag e b = true) l₂ _ (flag_raise _ e b 1 hb) fun t hset c hc => ?_
  split
  · exact flag_raise_of_flag t c 1 (hlt c hc) hset
  · exact hset

/-- Below the blocks of the dies a W1C write is neither held nor fenced. -/
theorem writeW1c_below_dies (s : State) {a : Nat} (h : Half) (v events : Word) (ha : a < 0x1000000) :
    s.writeW1c a h v events =
      (s.setReg a (s.reg a &&& ~~~(v &&& halfMask h &&& BitVec.ofNat 64 (2 ^ (flagCounters a).length - 1)))).raiseMask a
        (events &&& BitVec.ofNat 64 (2 ^ (flagCounters a).length - 1)) := by
  simp [writeW1c, arrayFlag, Nat.not_le.mpr ha]

end State

/-- A bit below place `n` survives the mask of the low `n` bits. -/
theorem bit_and_lowMask (x : Word) {b n : Nat} (hb : b < 64) (hn : b < n) (hx : x.bit b = true) :
    (x &&& BitVec.ofNat 64 (2 ^ n - 1)).bit b = true := by
  have hx' : x.getLsbD b = true := hx
  simp [Word.bit, BitVec.getLsbD_ofNat, Nat.testBit_two_pow_sub_one, hx', hb, hn]

/-! Bytes of a unit (R191). -/

theorem ofBytes_append_singleton (l : List Byte) (b : Byte) : ofBytes (l ++ [b]) = ofBytes l + b.toNat * 2 ^ (8 * l.length) := by
  induction l with
  | nil => simp [ofBytes]
  | cons c l ih =>
    have hpow : 2 ^ (8 * (c :: l).length) = 256 * 2 ^ (8 * l.length) := by
      rw [List.length_cons, Nat.mul_succ, Nat.pow_add, Nat.mul_comm]
    simp only [ofBytes, List.cons_append, List.foldr_cons] at ih ⊢
    rw [ih, hpow, Nat.add_mul, Nat.mul_assoc, Nat.mul_comm (2 ^ (8 * l.length)) 256]
    exact Nat.add_right_comm _ _ _

theorem ofBytes_lt (l : List Byte) : ofBytes l < 2 ^ (8 * l.length) := by
  induction l with
  | nil => simp [ofBytes]
  | cons b l ih =>
    have hb : b.toNat < 256 := b.isLt
    rw [List.length_cons, Nat.mul_succ, Nat.pow_add]
    simp only [ofBytes, List.foldr_cons] at ih ⊢
    omega

/-- Bytes spelled as a number read back. -/
theorem toBytes_ofBytes (l : List Byte) : toBytes (ofBytes l) l.length = l := by
  induction l with
  | nil => rfl
  | cons b l ih =>
    have hb : b.toNat < 256 := b.isLt
    have hcons : ofBytes (b :: l) = ofBytes l * 256 + b.toNat := rfl
    have hlow : BitVec.ofNat 8 (ofBytes l * 256 + b.toNat) = b := by
      apply BitVec.eq_of_toNat_eq
      rw [BitVec.toNat_ofNat]
      omega
    have hhigh : (ofBytes l * 256 + b.toNat) / 256 = ofBytes l := by omega
    rw [hcons, List.length_cons, toBytes, hlow, hhigh, ih]

namespace State

/-- The place and the value of each byte of a list, from place 0. -/
def placed (l : List Byte) : List (Nat × Byte) := (List.range l.length).map fun i => (i, l.getD i 0)

theorem placed_append_singleton (l : List Byte) (b : Byte) : placed (l ++ [b]) = placed l ++ [(l.length, b)] := by
  have hkeep : ∀ i ∈ List.range l.length, (i, (l ++ [b]).getD i 0) = (i, l.getD i 0) := by
    intro i hi
    rw [List.getD_eq_getElem?_getD, List.getD_eq_getElem?_getD, List.getElem?_append_left (List.mem_range.mp hi)]
  unfold placed
  rw [List.length_append, List.length_singleton, List.range_succ, List.map_append, List.map_congr_left hkeep]
  simp

/-- Clearing a byte of an `n`-bit number at place `k` leaves a number that ends below it. -/
theorem and_clear_byte_of_lt {x k n : Nat} (hx : x < 2 ^ k) (hk : k + 8 ≤ n) : x &&& (2 ^ n - 1 - 255 * 2 ^ k) = x := by
  have hfit : 255 * 2 ^ k < 2 ^ n := by
    have hpos : 0 < 2 ^ k := Nat.two_pow_pos k
    have hle : 2 ^ (k + 8) ≤ 2 ^ n := Nat.pow_le_pow_right (by decide) hk
    rw [Nat.pow_add] at hle
    omega
  apply Nat.eq_of_testBit_eq
  intro j
  rw [Nat.testBit_and, Nat.sub_sub, Nat.add_comm, Nat.testBit_two_pow_sub_succ hfit, Nat.testBit_mul_two_pow]
  by_cases hj : j < k
  · have hin : j < n := by omega
    simp [hin, Nat.not_le.mpr hj]
  · have hout : x.testBit j = false := Nat.testBit_lt_two_pow (Nat.lt_of_lt_of_le hx (Nat.pow_le_pow_right (by decide) (by omega)))
    simp [hout]

/-- Bytes placed from 0 on write the low bits of a unit, with the number that they spell. -/
theorem byteBits_placed (l : List Byte) (hl : l.length ≤ 64) : byteBits (placed l) = (2 ^ (8 * l.length) - 1, ofBytes l) := by
  obtain ⟨r, rfl⟩ : ∃ r : List Byte, l = r.reverse := ⟨l.reverse, l.reverse_reverse.symm⟩
  induction r with
  | nil => rfl
  | cons b r ih =>
    rw [List.reverse_cons] at hl ⊢
    generalize r.reverse = l at hl ih ⊢
    rw [List.length_append, List.length_singleton] at hl
    have hlt : ofBytes l < 2 ^ (8 * l.length) := ofBytes_lt l
    have hmask : 2 ^ (8 * l.length) - 1 ||| 255 * 2 ^ (8 * l.length) = 2 ^ (8 * (l.length + 1)) - 1 := by
      have hpos : 0 < 2 ^ (8 * l.length) := Nat.two_pow_pos _
      rw [Nat.or_comm, Nat.mul_comm, ← Nat.two_pow_add_eq_or_of_lt (by omega), Nat.mul_add, Nat.pow_add]
      omega
    have hval : ofBytes l ||| b.toNat * 2 ^ (8 * l.length) = ofBytes (l ++ [b]) := by
      rw [ofBytes_append_singleton, Nat.or_comm, Nat.mul_comm, ← Nat.two_pow_add_eq_or_of_lt hlt, Nat.add_comm]
    have hfold : byteBits (placed l ++ [(l.length, b)]) =
        ((byteBits (placed l)).1 ||| 255 * 2 ^ (8 * l.length),
          ((byteBits (placed l)).2 &&& (2 ^ 512 - 1 - 255 * 2 ^ (8 * l.length))) ||| b.toNat * 2 ^ (8 * l.length)) := by
      unfold byteBits
      rw [List.foldl_append]
      rfl
    rw [placed_append_singleton, hfold, ih (by omega), and_clear_byte_of_lt hlt (by omega), hmask, hval, List.length_append,
      List.length_singleton]

/-! The host window (R503, R504). -/

/-- A request within one 64 B unit is one piece. -/
theorem pieces_within_unit {ofs len : Nat} (hpos : 0 < len) (hfit : ofs % 64 + len ≤ 64) : pieces ofs len = [(ofs, 0, len)] := by
  have hone : ceilDiv (ofs % 64 + len) 64 = 1 := by unfold ceilDiv; omega
  have hlo : max ofs ((ofs / 64 + 0) * 64) = ofs := by omega
  have hhi : min (ofs + len) ((ofs / 64 + 0 + 1) * 64) - ofs = len := by omega
  unfold pieces
  rw [hone]
  simp only [List.range_one, List.map_cons, List.map_nil, hlo, hhi, Nat.sub_self]

/-- A read of a frame that the access may read answers the unit's bytes and its poison mark. -/
theorem readNear_admitted (s : State) {base o f : Nat} {a : Access} (len : Nat) (hf : nearFrame (base + o) = some f)
    (hok : s.nearCheck f a false = none) :
    s.readNear base a o len =
      (s, some (((s.nearUnit f ((base + o) / 64 % 2 ^ 19)).drop ((base + o) % 64)).take len, s.poisoned f ((base + o) / 64 % 2 ^ 19))) := by
  simp only [readNear, hf, hok]

/-- A whole line without a mask names all its bytes. -/
theorem pieceBytes_line {data : List Byte} {ofs : Nat} (hlen : data.length = 64) (hal : ofs % 64 = 0) :
    pieceBytes data [] (ofs, 0, 64) = placed data := by
  simp only [pieceBytes, placed, hlen, hal, List.getD_nil, if_true, Nat.zero_add, List.filterMap_eq_map']

/-- A unit written whole into a frame that no seal holds is stored. -/
theorem nearWrite_line (s : State) {f u : Nat} {data : List Byte} (hlen : data.length = 64) (hold : (s.frame f).hold = false) :
    (s.nearWrite f u (byteBits (placed data))).1 = s.putStaged f u data := by
  have hbits : byteBits (placed data) = (2 ^ 512 - 1, ofBytes data) := by
    rw [byteBits_placed data (by omega), hlen, show 8 * 64 = 512 from rfl]
  have hwhole : (byteBits (placed data)).1 = 2 ^ 512 - 1 := by rw [hbits]
  have hvalue : (byteBits (placed data)).2 = ofBytes data := by rw [hbits]
  have hheld : s.unitHeld f u = false := by unfold unitHeld; rw [hold, Bool.false_and]
  have hback : toBytes (ofBytes data) 64 = data := by rw [← hlen]; exact toBytes_ofBytes data
  unfold nearWrite
  rw [if_neg (by rw [hheld]; exact Bool.false_ne_true), if_neg (fun hpart => hpart.1 hwhole)]
  unfold writeBits
  rw [if_pos hwhole, hvalue, hback]

/-- A whole line written to a frame that the access may write, and that no seal holds, is stored. -/
theorem writeNear_line (s : State) {base o f : Nat} {a : Access} {data : List Byte} (hlen : data.length = 64) (hal : o % 64 = 0)
    (hf : nearFrame (base + o) = some f) (hok : s.nearCheck f a true = none) (hold : (s.frame f).hold = false) :
    s.writeNear base a o (placed data) = s.putStaged f ((base + o) / 64 % 2 ^ 19) data := by
  have hplaced : (placed data).length = 64 := by simp [placed, hlen]
  have hne : placed data ≠ [] := by intro h; simp [h] at hplaced
  have hofs : o / 64 * 64 = o := by omega
  unfold writeNear
  rw [if_neg hne]
  simp only [hofs, hf, hok, hplaced, ne_eq, not_true_eq_false, false_and, if_false]
  exact nearWrite_line s hlen hold

end State

/-! The commands. -/

/-- A read through an open window, within one unit of a near-tier frame that the requester may read (R503, R504). -/
theorem hostWindowReadOp_near (s : State) {func ofs len b f : Nat} {a : Access} (upset : List Nat) (hopen : s.barOpen func = true)
    (hsize : ofs + len ≤ State.windowSize func) (hpos : 0 < len) (hfit : ofs % 64 + len ≤ 64) (hw : s.window func = (1, b, a))
    (hf : nearFrame (b + ofs) = some f) (hok : s.nearCheck f a false = none) :
    hostWindowReadOp func ofs len upset s =
      s.emit (.readData (some (((s.nearUnit f ((b + ofs) / 64 % 2 ^ 19)).drop ((b + ofs) % 64)).take len)) (s.poisoned f ((b + ofs) / 64 % 2 ^ 19))) := by
  unfold hostWindowReadOp
  rw [if_neg (by rw [hopen]; simpa using hsize), hw, State.pieces_within_unit hpos hfit]
  simp only [State.readPieces, if_true, State.readNear_admitted s len hf hok, List.nil_append, Bool.false_or]

/-- A write of a whole line through an open window, to a near-tier frame that the requester may write (R503, R504). -/
theorem hostWindowWriteOp_line (s : State) {func ofs b f : Nat} {a : Access} {data : List Byte} (hopen : s.barOpen func = true)
    (hsize : ofs + data.length ≤ State.windowSize func) (hlen : data.length = 64) (hal : ofs % 64 = 0) (hw : s.window func = (1, b, a))
    (hf : nearFrame (b + ofs) = some f) (hok : s.nearCheck f a true = none) (hold : (s.frame f).hold = false) :
    hostWindowWriteOp func ofs data [] s = s.putStaged f ((b + ofs) / 64 % 2 ^ 19) data := by
  unfold hostWindowWriteOp
  rw [if_neg (by rw [hopen]; simpa using hsize), hlen, State.pieces_within_unit (by decide) (by omega), List.foldl_cons, List.foldl_nil]
  unfold State.writePiece
  rw [hw, State.pieceBytes_line hlen hal]
  simpa using State.writeNear_line s hlen hal hf hok hold

/-- Settles O48: each clause by the lemma of its operation above, each frame by the operation's frame law. -/
theorem registerWritesAndTheHostWindow : Obligations.RegisterWritesAndTheHostWindow := by
  unfold Obligations.RegisterWritesAndTheHostWindow
  refine ⟨?fault, ?register, ?w1c, ?read, ?write⟩
  case fault =>
    intro func addr half val ev s hend
    exact ⟨fun hf => if_pos ⟨hf, hend⟩, if_pos hend⟩
  case register =>
    intro func addr half val s hin
    refine ⟨registerWriteOp func addr half val s, if_neg hin,
      State.Keeps.only (registerWriteOp_keeps func addr half val s (m_ := 0x7FFFD) (by decide) (State.Keeps.refl _ _)) (by decide),
      fun hshut => if_pos hshut, ?_⟩
    rintro a w r rfl rfl rfl hopen hlo hhi hev hr
    have hop : registerWriteOp 0 addr half val s = s.writePlain (addr / 8 * 8) half val := by
      unfold registerWriteOp
      rw [if_neg (by rw [hopen]; decide), if_pos rfl, State.writeReg_tickBlock s half val hlo hhi hev]
    rw [hop]
    refine ⟨fun hok => State.writePlain_illegal s hr hok, fun hok => ?_⟩
    obtain ⟨f, hwrite, hledger⟩ := State.writePlain_legal s hr hok
    rw [hwrite]
    exact ⟨by simp, fun b hb => by simp [State.reg_setReg_other s _ hb], fun hne => by rw [hledger hne]; rfl⟩
  case w1c =>
    intro addr half val ev s hin
    refine ⟨w1cWriteOp addr half val ev s, if_neg hin,
      State.Keeps.only (w1cWriteOp_keeps addr half val ev s (m_ := 0x6F8FC) (by decide) (State.Keeps.refl _ _)) (by decide),
      fun hnone => if_pos hnone, ?clear, ?set⟩
    case clear =>
      rintro hopen hev hlow rfl
      unfold w1cWriteOp
      rw [if_neg (by simp [hopen, hev]), State.writeW1c_below_dies s half val 0 hlow, show (0 : Word) &&& _ = 0 from BitVec.zero_and, State.raiseMask_zero]
    case set =>
      intro b hopen hlow hlen hb hbit
      have hev : flagCounters addr ≠ [] := List.ne_nil_of_length_pos (by omega)
      unfold w1cWriteOp
      rw [if_neg (by simp [hopen, hev]), State.writeW1c_below_dies s half val ev hlow]
      exact State.flag_raiseMask _ hb hlen (bit_and_lowMask ev hb hlen hbit)
  case read =>
    intro func ofs len upset s
    refine ⟨hostWindowReadOp func ofs len upset s, rfl,
      State.Keeps.only (hostWindowReadOp_keeps func ofs len upset s (m_ := 0x28000) (by decide) (State.Keeps.refl _ _)) (by decide),
      fun hnone => if_pos hnone, ?_⟩
    intro b a f hopen hsize hpos hfit hw hf hok
    exact hostWindowReadOp_near s upset hopen hsize hpos hfit hw hf hok
  case write =>
    intro func ofs data mask s
    refine ⟨hostWindowWriteOp func ofs data mask s, rfl,
      State.Keeps.only (hostWindowWriteOp_keeps func ofs data mask s (m_ := 0x28870) (by decide) (State.Keeps.refl _ _)) (by decide),
      fun hnone => if_pos hnone, ?_⟩
    rintro b a f hopen hsize hlen hal rfl hw hf hok hold
    exact hostWindowWriteOp_line s hopen hsize hlen hal hw hf hok hold

end Sys2Proof.Machine

/-! SUPPORT. One step of the module (R1, R2, R35): no command changes the part fitted or the queue it was taken from, and O2. -/

namespace Sys2Proof.Machine

/-! What an outcome leaves unchanged. -/

/-- Whatever next state `o` answers, from `s` to it every block whose bit in `m` is 0 stays; a fault or a refusal answers none. -/
def OutcomeKeeps (m : Nat) (s : State) (o : Host.Outcome State Fault Refusal) : Prop := ∀ t, o = .next t → State.Keeps m s t

namespace OutcomeKeeps

/-- An operation's frame law, taken from `s` to itself, speaks of the outcome that answers its state; `m1` is the set of blocks it may change. -/
theorem next {m m1 : Nat} {s t : State} (h : (m ||| m1) = m → State.Keeps m s s → State.Keeps m s t) (hm : (m ||| m1) = m := by decide) :
    OutcomeKeeps m s (.next t) := by
  rintro _ ⟨⟩
  exact h hm (State.Keeps.refl m s)

/-- An outcome that faults under a condition answers a next state outside it alone. -/
theorem fault_or {m : Nat} {s : State} {f : Fault} {c : Prop} [Decidable c] {o : Host.Outcome State Fault Refusal} (h : OutcomeKeeps m s o) :
    OutcomeKeeps m s (if c then .fault f else o) := by
  split
  · rintro _ ⟨⟩
  · exact h

end OutcomeKeeps

/-- Every block but the variant and the queue: the largest set that a command may change, that of the resets. -/
def allButBuildAndQueue : Nat := 0x7FFFD

/-- No command changes the variant or the queue: each row by the frame law of its operation. A write past BAR0 alone answers no next state (R501). -/
theorem exec_keeps_build_and_queue (i : Instr) (s : State) : OutcomeKeeps allButBuildAndQueue s (exec i s) := by
  cases i with
  | registerWrite => exact .fault_or (.next (registerWriteOp_keeps _ _ _ _ s))
  | w1cWrite => exact .fault_or (.next (w1cWriteOp_keeps _ _ _ _ s))
  | tkeTickRead => exact .next (tkeTickReadOp_keeps _ s)
  | tickAdvance => exact .next (tickAdvanceOp_keeps s)
  | periodChange => exact .next (periodChangeOp_keeps s)
  | alignmentLoad => exact .next (alignmentLoadOp_keeps _ _ _ _ _ _ s)
  | counterHoldEnd => exact .next (counterHoldEndOp_keeps s)
  | beaconSend => exact .next (beaconSendOp_keeps _ s)
  | beaconReceive => exact .next (beaconReceiveOp_keeps _ _ _ _ s)
  | beaconCheck => exact .next (beaconCheckOp_keeps _ _ _ s)
  | parentLost => exact .next (parentLostOp_keeps _ s)
  | holdoverLimitExpiry => exact .next (holdoverLimitExpiryOp_keeps _ s)
  | crownMeet => exact .next (crownMeetOp_keeps _ s)
  | tickStepOrHold => exact .next (tickStepOrHoldOp_keeps s)
  | ledgerPeriod => exact .next (ledgerPeriodOp_keeps _ s)
  | grantReceived => exact .next (grantReceivedOp_keeps _ _ _ s)
  | grantComputation => exact .next (grantComputationOp_keeps s)
  | demandReceived => exact .next (demandReceivedOp_keeps _ _ _ _ s)
  | rungChange => exact .next (rungChangeOp_keeps s)
  | rungEntryComplete => exact .next (rungEntryCompleteOp_keeps s)
  | rungEntryAbandon => exact .next (rungEntryAbandonOp_keeps s)
  | wakeEvent => exact .next (wakeEventOp_keeps _ s)
  | stepCommit => exact .next (stepCommitOp_keeps _ s)
  | stepDone => exact .next (stepDoneOp_keeps _ s)
  | stepAbort => exact .next (stepAbortOp_keeps _ s)
  | samplerFinish => exact .next (samplerFinishOp_keeps _ s)
  | autoResume => exact .next (autoResumeOp_keeps _ s)
  | ttlExpiry => exact .next (ttlExpiryOp_keeps _ s)
  | extentTtlExpiry => exact .next (extentTtlExpiryOp_keeps _ s)
  | cacheSealComplete => exact .next (cacheSealCompleteOp_keeps _ s)
  | sealRetry => exact .next (sealRetryOp_keeps _ s)
  | resumePageRetry => exact .next (resumePageRetryOp_keeps _ s)
  | resumeCopyComplete => exact .next (resumeCopyCompleteOp_keeps _ s)
  | cuffRelease => exact .next (cuffReleaseOp_keeps _ s)
  | switchinExtentComplete => exact .next (switchinExtentCompleteOp_keeps _ _ s)
  | peerLost => exact .next (peerLostOp_keeps _ _ _ s)
  | fetchRequest => exact .next (fetchRequestOp_keeps _ s)
  | fetchUnitReceive => exact .next (fetchUnitReceiveOp_keeps _ _ _ _ s)
  | scheduleFault => exact .next (scheduleFaultOp_keeps _ s)
  | cellException => exact .next (cellExceptionOp_keeps _ s)
  | portFreeze => exact .next (portFreezeOp_keeps _ _ s)
  | freezeRelease => exact .next (freezeReleaseOp_keeps _ _ s)
  | patternResume => exact .next (patternResumeOp_keeps _ s)
  | crossingMarginLoss => exact .next (crossingMarginLossOp_keeps _ _ _ s)
  | crossingRetrainComplete => exact .next (crossingRetrainCompleteOp_keeps _ _ s)
  | cellFailure => exact .next (cellFailureOp_keeps _ _ _ _ s)
  | chainForm => exact .next (chainFormOp_keeps _ _ _ s)
  | patternSwitch => exact .next (patternSwitchOp_keeps _ _ s)
  | patternDone => exact .next (patternDoneOp_keeps _ _ s)
  | clockStepChange => exact .next (clockStepChangeOp_keeps _ _ _ s)
  | thermalSample => exact .next (thermalSampleOp_keeps _ s)
  | rerunnableDetection => exact .next (rerunnableDetectionOp_keeps _ _ s)
  | loadComplete => exact .next (loadCompleteOp_keeps _ s)
  | armedSwitch => exact .next (armedSwitchOp_keeps _ s)
  | waitTimeout => exact .next (waitTimeoutOp_keeps _ s)
  | workCounterClaim => exact .next (workCounterClaimOp_keeps _ _ _ _ _ _ s)
  | wkcWrite => exact .next (wkcWriteOp_keeps _ _ _ _ _ _ s)
  | ctNop => exact .next (ctNopOp_keeps _ s)
  | epx => exact .next (epxOp_keeps _ s)
  | eps => exact .next (epsOp_keeps _ _ s)
  | fset => exact .next (fsetOp_keeps _ _ s)
  | fany => exact .next (fanyOp_keeps _ _ s)
  | fall => exact .next (fallOp_keeps _ _ s)
  | trap => exact .next (trapOp_keeps _ _ s)
  | mvNop => exact .next (mvNopOp_keeps _ s)
  | fil => exact .next (filOp_keeps _ _ _ _ _ s)
  | vld => exact .next (vldOp_keeps _ _ _ _ _ s)
  | vst => exact .next (vstOp_keeps _ _ _ _ _ s)
  | tok => exact .next (tokOp_keeps _ _ s)
  | obv => exact .next (obvOp_keeps _ _ _ _ s)
  | dsc => exact .next (dscOp_keeps _ _ s)
  | vnop => exact .next (vnopOp_keeps _ s)
  | vadd => exact .next (vaddOp_keeps _ _ _ _ _ _ s)
  | vsub => exact .next (vsubOp_keeps _ _ _ _ _ _ s)
  | vmul => exact .next (vmulOp_keeps _ _ _ _ _ _ s)
  | vfma => exact .next (vfmaOp_keeps _ _ _ _ _ _ _ s)
  | vmax => exact .next (vmaxOp_keeps _ _ _ _ _ _ s)
  | vmin => exact .next (vminOp_keeps _ _ _ _ _ _ s)
  | vsel => exact .next (vselOp_keeps _ _ _ _ _ _ s)
  | vmov => exact .next (vmovOp_keeps _ _ _ _ s)
  | vbc => exact .next (vbcOp_keeps _ _ _ _ s)
  | vcmp => exact .next (vcmpOp_keeps _ _ _ _ _ _ s)
  | vmsk => exact .next (vmskOp_keeps _ _ _ _ _ _ s)
  | vred => exact .next (vredOp_keeps _ _ _ _ _ s)
  | vxf => exact .next (vxfOp_keeps _ _ _ _ _ s)
  | vcvt => exact .next (vcvtOp_keeps _ _ _ _ _ _ _ s)
  | mnop => exact .next (mnopOp_keeps _ s)
  | mma => exact .next (mmaOp_keeps _ _ _ _ _ _ _ _ _ s)
  | mrd => exact .next (mrdOp_keeps _ _ _ _ _ _ s)
  | mwr => exact .next (mwrOp_keeps _ _ _ _ _ s)
  | mz => exact .next (mzOp_keeps _ _ s)
  | mrs => exact .next (mrsOp_keeps _ _ _ _ s)
  | gsqNop => exact .next (gsqNopOp_keeps _ s)
  | li => exact .next (liOp_keeps _ _ _ s)
  | lih => exact .next (lihOp_keeps _ _ _ s)
  | addi => exact .next (addiOp_keeps _ _ _ _ s)
  | add => exact .next (addOp_keeps _ _ _ _ s)
  | br => exact .next (brOp_keeps _ _ s)
  | bnz => exact .next (bnzOp_keeps _ _ _ s)
  | djnz => exact .next (djnzOp_keeps _ _ _ s)
  | bst => exact .next (bstOp_keeps _ _ _ _ s)
  | load => exact .next (loadOp_keeps _ _ _ s)
  | arm => exact .next (armOp_keeps _ _ _ _ s)
  | swi => exact .next (swiOp_keeps _ _ s)
  | run => exact .next (runOp_keeps _ _ _ s)
  | waitDone => exact .next (waitDoneOp_keeps _ _ s)
  | waitLoaded => exact .next (waitLoadedOp_keeps _ _ _ s)
  | waitTick => exact .next (waitTickOp_keeps _ _ _ _ s)
  | waitArrival => exact .next (waitArrivalOp_keeps _ _ _ _ s)
  | waitSwitched => exact .next (waitSwitchedOp_keeps _ _ s)
  | waitSealed => exact .next (waitSealedOp_keeps _ _ s)
  | exch => exact .next (exchOp_keeps _ _ _ _ _ s)
  | sealExtent => exact .next (sealExtentOp_keeps _ _ _ _ _ _ s)
  | ctr => exact .next (ctrOp_keeps _ _ _ _ s)
  | report => exact .next (reportOp_keeps _ _ _ s)
  | secb => exact .next (secbOp_keeps _ _ s)
  | halt => exact .next (haltOp_keeps _ s)
  | agEnd => exact .next (agEndOp_keeps _ _ s)
  | agRun => exact .next (agRunOp_keeps _ _ _ _ s)
  | agLoop => exact .next (agLoopOp_keeps _ _ _ _ s)
  | ring => exact .next (ringOp_keeps _ _ _ _ _ _ s)
  | win => exact .next (winOp_keeps _ _ _ _ _ _ s)
  | seta => exact .next (setaOp_keeps _ _ _ _ s)
  | hqb => exact .next (hqbOp_keeps _ _ _ s)
  | ringFill => exact .next (ringFillOp_keeps _ _ s)
  | ringDrain => exact .next (ringDrainOp_keeps _ _ _ s)
  | narrowRequest => exact .next (narrowRequestOp_keeps _ _ _ _ s)
  | mergeWriteback => exact .next (mergeWritebackOp_keeps _ _ s)
  | remoteWrite => exact .next (remoteWriteOp_keeps _ _ _ _ s)
  | handlePush => exact .next (handlePushOp_keeps _ _ _ _ _ s)
  | arvCntWrite => exact .next (arvCntWriteOp_keeps _ _ _ _ _ _ s)
  | packedBlockDecode => exact .next (packedBlockDecodeOp_keeps _ _ _ _ s)
  | hbmUncorrectedRead => exact .next (hbmUncorrectedReadOp_keeps _ _ _ _ _ s)
  | correctedError => exact .next (correctedErrorOp_keeps _ _ _ _ s)
  | frameRetirement => exact .next (frameRetirementOp_keeps _ s)
  | migrationQueueEntry => exact .next (migrationQueueEntryOp_keeps s)
  | migrationStart => exact .next (migrationStartOp_keeps _ s)
  | heldWriteRelease => exact .next (heldWriteReleaseOp_keeps _ _ s)
  | sealComplete => exact .next (sealCompleteOp_keeps _ _ s)
  | copyupComplete => exact .next (copyupCompleteOp_keeps _ _ s)
  | moveComplete => exact .next (moveCompleteOp_keeps _ _ s)
  | relocationComplete => exact .next (relocationCompleteOp_keeps _ _ _ _ s)
  | ddrUncorrectedError => exact .next (ddrUncorrectedErrorOp_keeps _ _ _ _ s)
  | deepPortLinkDown => exact .next (deepPortLinkDownOp_keeps _ s)
  | nvmeCommandComplete => exact .next (nvmeCommandCompleteOp_keeps _ _ _ s)
  | returnTrainingComplete => exact .next (returnTrainingCompleteOp_keeps _ _ _ _ _ s)
  | dqsTracking => exact .next (dqsTrackingOp_keeps _ s)
  | lz2PageMiss => exact .next (lz2PageMissOp_keeps _ s)
  | stagingRecordEntry => exact .next (stagingRecordEntryOp_keeps _ _ _ s)
  | exchangePhaseStart => exact .next (exchangePhaseStartOp_keeps _ _ _ s)
  | dataStage => exact .next (dataStageOp_keeps _ _ _ s)
  | receiveRecord => exact .next (receiveRecordOp_keeps _ _ s)
  | fwdSlot => exact .next (fwdSlotOp_keeps _ _ _ s)
  | closeStage => exact .next (closeStageOp_keeps _ _ s)
  | exchangeRoundOpen => exact .next (exchangeRoundOpenOp_keeps _ s)
  | stewardHeartbeat => exact .next (stewardHeartbeatOp_keeps s)
  | stewardTakeover => exact .next (stewardTakeoverOp_keeps s)
  | standbyResync => exact .next (standbyResyncOp_keeps s)
  | stwQidxWrite => exact .next (stwQidxWriteOp_keeps _ _ s)
  | stwGcfgWrite => exact .next (stwGcfgWriteOp_keeps _ _ _ s)
  | faultHoldExpiry => exact .next (faultHoldExpiryOp_keeps _ s)
  | gloveResetDone => exact .next (gloveResetDoneOp_keeps _ s)
  | flitReceive => exact .next (flitReceiveOp_keeps _ _ s)
  | replayTimeout => exact .next (replayTimeoutOp_keeps _ s)
  | linkTrainingStart => exact .next (linkTrainingStartOp_keeps _ s)
  | linkTrainingComplete => exact .next (linkTrainingCompleteOp_keeps _ _ _ _ _ s)
  | laneDrop => exact .next (laneDropOp_keeps _ _ s)
  | linkSignalDetect => exact .next (linkSignalDetectOp_keeps _ s)
  | lnkRetrain => exact .next (lnkRetrainOp_keeps _ s)
  | lnkEnableWrite => exact .next (lnkEnableWriteOp_keeps _ _ s)
  | packetForward => exact .next (packetForwardOp_keeps _ s)
  | mgrCfgLock => exact .next (mgrCfgLockOp_keeps _ _ s)
  | rackConflict => exact .next (rackConflictOp_keeps _ _ s)
  | relayedCommand => exact .next (relayedCommandOp_keeps _ _ s)
  | workerReport => exact .next (workerReportOp_keeps _ _ s)
  | workerHeartbeatMiss => exact .next (workerHeartbeatMissOp_keeps _ _ _ s)
  | managerTakeover => exact .next (managerTakeoverOp_keeps _ s)
  | epochAnnounce => exact .next (epochAnnounceOp_keeps _ s)
  | managerRoleDecision => exact .next (managerRoleDecisionOp_keeps _ _ _ s)
  | perstNAssert => exact .next (perstNAssertOp_keeps s)
  | perstNRelease => exact .next (perstNReleaseOp_keeps s)
  | pfFlr => exact .next (pfFlrOp_keeps s)
  | vfFlr => exact .next (vfFlrOp_keeps _ s)
  | d3hotEntry => exact .next (d3hotEntryOp_keeps _ s)
  | hostWindowRead => exact .next (hostWindowReadOp_keeps _ _ _ _ s)
  | hostWindowWrite => exact .next (hostWindowWriteOp_keeps _ _ _ _ s)
  | commandSlotReceive => exact .next (commandSlotReceiveOp_keeps _ _ _ _ _ s)
  | commandRingEnable => exact .next (commandRingEnableOp_keeps _ _ _ s)
  | completionRingEnable => exact .next (completionRingEnableOp_keeps _ _ _ s)
  | cqHeadWrite => exact .next (cqHeadWriteOp_keeps _ _ _ s)
  | msixModerationTimer => exact .next (msixModerationTimerOp_keeps _ s)
  | identify => exact .next (identifyOp_keeps _ s)
  | setProfile => exact .next (setProfileOp_keeps _ s)
  | setTickPeriod => exact .next (setTickPeriodOp_keeps _ s)
  | setRung => exact .next (setRungOp_keeps _ s)
  | setRoute => exact .next (setRouteOp_keeps _ s)
  | stewardSwap => exact .next (stewardSwapOp_keeps _ s)
  | serviceOpFence => exact .next (serviceOpFenceOp_keeps _ s)
  | serviceOpUnfence => exact .next (serviceOpUnfenceOp_keeps _ s)
  | serviceOpRetire => exact .next (serviceOpRetireOp_keeps _ s)
  | serviceOpFormChain => exact .next (serviceOpFormChainOp_keeps _ s)
  | serviceOpReturn => exact .next (serviceOpReturnOp_keeps _ _ s)
  | keyOpInstall => exact .next (keyOpInstallOp_keeps _ s)
  | keyOpErase => exact .next (keyOpEraseOp_keeps _ s)
  | imageOpStage => exact .next (imageOpStageOp_keeps _ s)
  | imageOpActivate => exact .next (imageOpActivateOp_keeps _ s)
  | imageOpWriteOtp => exact .next (imageOpWriteOtpOp_keeps _ s)
  | gloveCreate => exact .next (gloveCreateOp_keeps _ s)
  | gloveDestroy => exact .next (gloveDestroyOp_keeps _ s)
  | gloveReset => exact .next (gloveResetOp_keeps _ s)
  | frameAlloc => exact .next (frameAllocOp_keeps _ s)
  | frameShare => exact .next (frameShareOp_keeps _ s)
  | frameFree => exact .next (frameFreeOp_keeps _ s)
  | gsqWrite => exact .next (gsqWriteOp_keeps _ s)
  | gsqStart => exact .next (gsqStartOp_keeps _ s)
  | gsqStop => exact .next (gsqStopOp_keeps _ s)
  | planInstall => exact .next (planInstallOp_keeps _ s)
  | planRemove => exact .next (planRemoveOp_keeps _ s)
  | lz2Enable => exact .next (lz2EnableOp_keeps _ s)
  | lz2Disable => exact .next (lz2DisableOp_keeps _ s)
  | migrate => exact .next (migrateOp_keeps _ s)
  | modelRegister => exact .next (modelRegisterOp_keeps _ s)
  | modelSwitchin => exact .next (modelSwitchinOp_keeps _ s)
  | modelPark => exact .next (modelParkOp_keeps _ s)
  | modelReplace => exact .next (modelReplaceOp_keeps _ s)
  | adapterLoad => exact .next (adapterLoadOp_keeps _ s)
  | adapterUnload => exact .next (adapterUnloadOp_keeps _ s)
  | markPublic => exact .next (markPublicOp_keeps _ s)
  | admitSeq => exact .next (admitSeqOp_keeps _ s)
  | routeAdmit => exact .next (routeAdmitOp_keeps _ s)
  | append => exact .next (appendOp_keeps _ s)
  | cancel => exact .next (cancelOp_keeps _ s)
  | pause => exact .next (pauseOp_keeps _ s)
  | resume => exact .next (resumeOp_keeps _ s)
  | release => exact .next (releaseOp_keeps _ s)
  | setEndpointId => exact .next (setEndpointIdOp_keeps _ s)
  | getEndpointId => exact .next (getEndpointIdOp_keeps s)
  | getMctpVersionSupport => exact .next (getMctpVersionSupportOp_keeps _ s)
  | getMessageTypeSupport => exact .next (getMessageTypeSupportOp_keeps s)
  | getVendorDefinedMessageSupport => exact .next (getVendorDefinedMessageSupportOp_keeps _ s)
  | getRecord => exact .next (getRecordOp_keeps _ s)
  | getAlerts => exact .next (getAlertsOp_keeps _ s)
  | setAlertMask => exact .next (setAlertMaskOp_keeps _ s)
  | aosRead => exact .next (aosReadOp_keeps s)
  | trip => exact .next (tripOp_keeps _ s)
  | fence => exact .next (fenceOp_keeps _ _ _ s)
  | erase => exact .next (eraseOp_keeps _ _ s)
  | reset => exact .next (resetOp_keeps _ _ s)
  | aosReport => exact .next (aosReportOp_keeps s)
  | recordRefresh => exact .next (recordRefreshOp_keeps s)
  | secActlGo => exact .next (secActlGoOp_keeps _ _ _ s)
  | attestationReportReady => exact .next (attestationReportReadyOp_keeps s)
  | trngHealthFailure => exact .next (trngHealthFailureOp_keeps s)
  | trngRecover => exact .next (trngRecoverOp_keeps s)
  | powerOn => exact .next (powerOnOp_keeps s)
  | ext => exact .next (extOp_keeps _ s)
  | rail => exact .next (railOp_keeps _ s)
  | thermtrip => exact .next (thermtripOp_keeps s)
  | thermalTrip => exact .next (thermalTripOp_keeps s)
  | refclkLoss => exact .next (refclkLossOp_keeps s)
  | refclkWindow => exact .next (refclkWindowOp_keeps _ s)
  | pllWindow => exact .next (pllWindowOp_keeps _ _ s)
  | watchdog => exact .next (watchdogOp_keeps s)
  | aosRstreqWrite => exact .next (aosRstreqWriteOp_keeps _ _ s)
  | vaonLoss => exact .next (vaonLossOp_keeps s)
  | resetStretchEnd => exact .next (resetStretchEndOp_keeps s)
  | resetNSample => exact .next (resetNSampleOp_keeps _ s)
  | otpGenerationSelect => exact .next (otpGenerationSelectOp_keeps s)
  | aosBringupTakeover => exact .next (aosBringupTakeoverOp_keeps s)
  | aosFirmwareStart => exact .next (aosFirmwareStartOp_keeps s)
  | railCheck => exact .next (railCheckOp_keeps _ s)
  | controlFirmwareStart => exact .next (controlFirmwareStartOp_keeps s)
  | selfTestComplete => exact .next (selfTestCompleteOp_keeps _ _ s)
  | stackTrainingAttempt => exact .next (stackTrainingAttemptOp_keeps _ _ s)
  | wideTierTrained => exact .next (wideTierTrainedOp_keeps _ s)
  | dieRelease => exact .next (dieReleaseOp_keeps _ s)
  | profileChange => exact .next (profileChangeOp_keeps s)
  | rasDrainWrite => exact .next (rasDrainWriteOp_keeps _ _ s)
  | partReadyReport => exact .next (partReadyReportOp_keeps _ s)
  | activationReadyTimeout => exact .next (activationReadyTimeoutOp_keeps _ s)
  | otpBurnComplete => exact .next (otpBurnCompleteOp_keeps _ s)
  | aosStewardWatchLapse => exact .next (aosStewardWatchLapseOp_keeps s)
  | aosManagerWatchLapse => exact .next (aosManagerWatchLapseOp_keeps s)
  | patternCycle => exact .next (patternCycleOp_keeps _ s)
  | flitTransmit => exact .next (flitTransmitOp_keeps _ s)
  | moduleHeartbeat => exact .next (moduleHeartbeatOp_keeps _ s)
  | managerHeartbeat => exact .next (managerHeartbeatOp_keeps s)
  | relayedCompletion => exact .next (relayedCompletionOp_keeps _ s)
  | managerResync => exact .next (managerResyncOp_keeps s)
  | d3hotExit => exact .next (d3hotExitOp_keeps _ s)
  | deepPortNvmeReady => exact .next (deepPortNvmeReadyOp_keeps _ _ _ _ _ s)
  | stackControllerFailure => exact .next (stackControllerFailureOp_keeps _ s)
  | dieToDiePortFailure => exact .next (dieToDiePortFailureOp_keeps _ _ s)
  | waitTickReached => exact .next (waitTickReachedOp_keeps _ s)
  | smbusAddressResolution => exact .next (smbusAddressResolutionOp_keeps _ s)
  | periodChangeReceive => exact .next (periodChangeReceiveOp_keeps _ _ s)

/-! The step. -/

/-- With no command waiting, a step is one cycle of the reference clock. -/
theorem step_of_empty {s : State} (hq : s.pending = []) : step s = .next (tickAdvanceOp s) := by
  unfold step
  rw [hq]

/-- With a command waiting, a step runs it on the state with the rest of the queue. -/
theorem step_of_waiting {s : State} {c : Instr} {rest : List Instr} (hq : s.pending = c :: rest) :
    step s = exec c { s with pending := rest } := by
  unfold step
  rw [hq]

/-- A step keeps every block outside the commands' set, from the state whose queue has lost its front command. -/
theorem step_keeps_build_and_tail (s : State) : OutcomeKeeps allButBuildAndQueue { s with pending := s.pending.tail } (step s) := by
  cases hq : s.pending with
  | nil =>
    rw [step_of_empty hq, List.tail_nil, ← hq]
    exact .next (tickAdvanceOp_keeps s)
  | cons c rest =>
    rw [step_of_waiting hq, List.tail_cons]
    exact exec_keeps_build_and_queue c _

/-- Settles O2: the step's frame, from the state whose queue is the tail of the old one. -/
theorem everyStepKeepsTheBuildAndTheQueue : Obligations.EveryStepKeepsTheBuildAndTheQueue := by
  unfold Obligations.EveryStepKeepsTheBuildAndTheQueue
  intro s t hstep
  have hkeeps := step_keeps_build_and_tail s t hstep
  exact ⟨hkeeps.variant, hkeeps.pending⟩

end Sys2Proof.Machine

/-! SUPPORT. The tick block along a step (R39, R40, R41, R64): every well-formed command keeps N, a pending N and the phase in range, and O3. -/

namespace Sys2Proof.Machine

/-! The ranges that the well-formed commands of the tick block bring. -/

theorem alignmentLoad_wf {tick : Word} {phase n : Nat} {pend : Option (Nat × Word)} {source : LoadSource}
    (h : (Instr.alignmentLoad tick phase n pend source).wf = true) :
    10000 ≤ n ∧ n ≤ 1000000 ∧ ∀ p, pend = some p → 10000 ≤ p.1 ∧ p.1 ≤ 1000000 := by
  simp only [Instr.wf, Bool.and_eq_true, decide_eq_true_eq, Option.all_eq_true] at h
  obtain ⟨⟨⟨⟨hlow, hhigh⟩, _⟩, hpend⟩, _⟩ := h
  exact ⟨hlow, hhigh, hpend⟩

theorem beaconReceive_wf {b : Beacon} {way : BeaconWay} {freqPpb : Int} (h : (Instr.beaconReceive b way freqPpb).wf = true) :
    10000 ≤ b.n ∧ b.n ≤ 1000000 ∧ ∀ p, b.pend = some p → 10000 ≤ p.1 ∧ p.1 ≤ 1000000 := by
  simp only [Instr.wf, Beacon.wf, Bool.and_eq_true, decide_eq_true_eq, Option.all_eq_true] at h
  obtain ⟨⟨⟨_, hlow⟩, hhigh⟩, hpend⟩ := h
  exact ⟨hlow, hhigh, hpend⟩

theorem periodChangeReceive_wf {n : Nat} {tick : Word} (h : (Instr.periodChangeReceive n tick).wf = true) : 10000 ≤ n ∧ n ≤ 1000000 := by
  simpa only [Instr.wf, Bool.and_eq_true, decide_eq_true_eq] using h

/-! What an outcome keeps of the tick block. -/

/-- Whatever next state `o` answers, a tick block in order at `s` is in order there; a fault or a refusal answers none. -/
def OutcomeTickKept (s : State) (o : Host.Outcome State Fault Refusal) : Prop := ∀ t, o = .next t → State.TickKept s t

namespace OutcomeTickKept

theorem ordered {s t : State} (h : State.TickKept s t) : OutcomeTickKept s (.next t) := by
  rintro _ ⟨⟩
  exact h

/-- An operation whose frame law leaves the tick block out; `m1` is the set of blocks it may change. -/
theorem untouched {m1 : Nat} {s t : State} (h : (0xFFFFE ||| m1) = 0xFFFFE → State.Keeps 0xFFFFE s s → State.Keeps 0xFFFFE s t)
    (hm : (0xFFFFE ||| m1) = 0xFFFFE := by decide) : OutcomeTickKept s (.next t) :=
  ordered (.of (h hm (State.Keeps.refl _ s)) rfl (.refl s))

/-- An outcome that faults under a condition answers a next state outside it alone. -/
theorem fault_or {s : State} {f : Fault} {c : Prop} [Decidable c] {o : Host.Outcome State Fault Refusal} (h : OutcomeTickKept s o) :
    OutcomeTickKept s (if c then .fault f else o) := by
  split
  · rintro _ ⟨⟩
  · exact h

end OutcomeTickKept

/-- No well-formed command brings the tick block out of order: a row whose operation may change the block by the law of Laws/TickKept.lean, every
other by the frame law of its operation. -/
theorem exec_keeps_tick_in_order (i : Instr) (hwf : i.wf = true) (s : State) : OutcomeTickKept s (exec i s) := by
  cases i with
  | registerWrite => exact .fault_or (.ordered (registerWriteOp_tick _ _ _ _ s (.refl s)))
  | w1cWrite => exact .fault_or (.untouched (w1cWriteOp_keeps _ _ _ _ s))
  | tkeTickRead => exact .ordered (tkeTickReadOp_tick _ s (.refl s))
  | tickAdvance => exact .ordered (tickAdvanceOp_tick s (.refl s))
  | periodChange => exact .ordered (periodChangeOp_tick s (.refl s))
  | alignmentLoad tick phase n pend source =>
    obtain ⟨hlow, hhigh, hpend⟩ := alignmentLoad_wf hwf
    exact .ordered (alignmentLoadOp_tick _ _ _ _ _ _ s hlow hhigh hpend (.refl s))
  | counterHoldEnd => exact .ordered (counterHoldEndOp_tick s (.refl s))
  | beaconSend => exact .ordered (beaconSendOp_tick _ s (.refl s))
  | beaconReceive b way freqPpb =>
    obtain ⟨hlow, hhigh, hpend⟩ := beaconReceive_wf hwf
    exact .ordered (beaconReceiveOp_tick _ _ _ _ s hlow hhigh hpend (.refl s))
  | beaconCheck => exact .ordered (beaconCheckOp_tick _ _ _ s (.refl s))
  | parentLost => exact .ordered (parentLostOp_tick _ s (.refl s))
  | holdoverLimitExpiry => exact .ordered (holdoverLimitExpiryOp_tick _ s (.refl s))
  | crownMeet => exact .ordered (crownMeetOp_tick _ s (.refl s))
  | tickStepOrHold => exact .ordered (tickStepOrHoldOp_tick s (.refl s))
  | ledgerPeriod => exact .untouched (ledgerPeriodOp_keeps _ s)
  | grantReceived => exact .untouched (grantReceivedOp_keeps _ _ _ s)
  | grantComputation => exact .untouched (grantComputationOp_keeps s)
  | demandReceived => exact .untouched (demandReceivedOp_keeps _ _ _ _ s)
  | rungChange => exact .ordered (rungChangeOp_tick s (.refl s))
  | rungEntryComplete => exact .ordered (rungEntryCompleteOp_tick s (.refl s))
  | rungEntryAbandon => exact .untouched (rungEntryAbandonOp_keeps s)
  | wakeEvent => exact .ordered (wakeEventOp_tick _ s (.refl s))
  | stepCommit => exact .untouched (stepCommitOp_keeps _ s)
  | stepDone => exact .untouched (stepDoneOp_keeps _ s)
  | stepAbort => exact .untouched (stepAbortOp_keeps _ s)
  | samplerFinish => exact .untouched (samplerFinishOp_keeps _ s)
  | autoResume => exact .untouched (autoResumeOp_keeps _ s)
  | ttlExpiry => exact .untouched (ttlExpiryOp_keeps _ s)
  | extentTtlExpiry => exact .untouched (extentTtlExpiryOp_keeps _ s)
  | cacheSealComplete => exact .untouched (cacheSealCompleteOp_keeps _ s)
  | sealRetry => exact .untouched (sealRetryOp_keeps _ s)
  | resumePageRetry => exact .untouched (resumePageRetryOp_keeps _ s)
  | resumeCopyComplete => exact .untouched (resumeCopyCompleteOp_keeps _ s)
  | cuffRelease => exact .untouched (cuffReleaseOp_keeps _ s)
  | switchinExtentComplete => exact .untouched (switchinExtentCompleteOp_keeps _ _ s)
  | peerLost => exact .untouched (peerLostOp_keeps _ _ _ s)
  | fetchRequest => exact .untouched (fetchRequestOp_keeps _ s)
  | fetchUnitReceive => exact .untouched (fetchUnitReceiveOp_keeps _ _ _ _ s)
  | scheduleFault => exact .untouched (scheduleFaultOp_keeps _ s)
  | cellException => exact .untouched (cellExceptionOp_keeps _ s)
  | portFreeze => exact .untouched (portFreezeOp_keeps _ _ s)
  | freezeRelease => exact .untouched (freezeReleaseOp_keeps _ _ s)
  | patternResume => exact .untouched (patternResumeOp_keeps _ s)
  | crossingMarginLoss => exact .untouched (crossingMarginLossOp_keeps _ _ _ s)
  | crossingRetrainComplete => exact .untouched (crossingRetrainCompleteOp_keeps _ _ s)
  | cellFailure => exact .untouched (cellFailureOp_keeps _ _ _ _ s)
  | chainForm => exact .untouched (chainFormOp_keeps _ _ _ s)
  | patternSwitch => exact .untouched (patternSwitchOp_keeps _ _ s)
  | patternDone => exact .untouched (patternDoneOp_keeps _ _ s)
  | clockStepChange => exact .untouched (clockStepChangeOp_keeps _ _ _ s)
  | thermalSample => exact .untouched (thermalSampleOp_keeps _ s)
  | rerunnableDetection => exact .untouched (rerunnableDetectionOp_keeps _ _ s)
  | loadComplete => exact .untouched (loadCompleteOp_keeps _ s)
  | armedSwitch => exact .untouched (armedSwitchOp_keeps _ s)
  | waitTimeout => exact .untouched (waitTimeoutOp_keeps _ s)
  | workCounterClaim => exact .untouched (workCounterClaimOp_keeps _ _ _ _ _ _ s)
  | wkcWrite => exact .untouched (wkcWriteOp_keeps _ _ _ _ _ _ s)
  | ctNop => exact .untouched (ctNopOp_keeps _ s)
  | epx => exact .untouched (epxOp_keeps _ s)
  | eps => exact .untouched (epsOp_keeps _ _ s)
  | fset => exact .untouched (fsetOp_keeps _ _ s)
  | fany => exact .untouched (fanyOp_keeps _ _ s)
  | fall => exact .untouched (fallOp_keeps _ _ s)
  | trap => exact .untouched (trapOp_keeps _ _ s)
  | mvNop => exact .untouched (mvNopOp_keeps _ s)
  | fil => exact .untouched (filOp_keeps _ _ _ _ _ s)
  | vld => exact .untouched (vldOp_keeps _ _ _ _ _ s)
  | vst => exact .untouched (vstOp_keeps _ _ _ _ _ s)
  | tok => exact .untouched (tokOp_keeps _ _ s)
  | obv => exact .untouched (obvOp_keeps _ _ _ _ s)
  | dsc => exact .untouched (dscOp_keeps _ _ s)
  | vnop => exact .untouched (vnopOp_keeps _ s)
  | vadd => exact .untouched (vaddOp_keeps _ _ _ _ _ _ s)
  | vsub => exact .untouched (vsubOp_keeps _ _ _ _ _ _ s)
  | vmul => exact .untouched (vmulOp_keeps _ _ _ _ _ _ s)
  | vfma => exact .untouched (vfmaOp_keeps _ _ _ _ _ _ _ s)
  | vmax => exact .untouched (vmaxOp_keeps _ _ _ _ _ _ s)
  | vmin => exact .untouched (vminOp_keeps _ _ _ _ _ _ s)
  | vsel => exact .untouched (vselOp_keeps _ _ _ _ _ _ s)
  | vmov => exact .untouched (vmovOp_keeps _ _ _ _ s)
  | vbc => exact .untouched (vbcOp_keeps _ _ _ _ s)
  | vcmp => exact .untouched (vcmpOp_keeps _ _ _ _ _ _ s)
  | vmsk => exact .untouched (vmskOp_keeps _ _ _ _ _ _ s)
  | vred => exact .untouched (vredOp_keeps _ _ _ _ _ s)
  | vxf => exact .untouched (vxfOp_keeps _ _ _ _ _ s)
  | vcvt => exact .untouched (vcvtOp_keeps _ _ _ _ _ _ _ s)
  | mnop => exact .untouched (mnopOp_keeps _ s)
  | mma => exact .untouched (mmaOp_keeps _ _ _ _ _ _ _ _ _ s)
  | mrd => exact .untouched (mrdOp_keeps _ _ _ _ _ _ s)
  | mwr => exact .untouched (mwrOp_keeps _ _ _ _ _ s)
  | mz => exact .untouched (mzOp_keeps _ _ s)
  | mrs => exact .untouched (mrsOp_keeps _ _ _ _ s)
  | gsqNop => exact .untouched (gsqNopOp_keeps _ s)
  | li => exact .untouched (liOp_keeps _ _ _ s)
  | lih => exact .untouched (lihOp_keeps _ _ _ s)
  | addi => exact .untouched (addiOp_keeps _ _ _ _ s)
  | add => exact .untouched (addOp_keeps _ _ _ _ s)
  | br => exact .untouched (brOp_keeps _ _ s)
  | bnz => exact .untouched (bnzOp_keeps _ _ _ s)
  | djnz => exact .untouched (djnzOp_keeps _ _ _ s)
  | bst => exact .untouched (bstOp_keeps _ _ _ _ s)
  | load => exact .untouched (loadOp_keeps _ _ _ s)
  | arm => exact .untouched (armOp_keeps _ _ _ _ s)
  | swi => exact .untouched (swiOp_keeps _ _ s)
  | run => exact .untouched (runOp_keeps _ _ _ s)
  | waitDone => exact .untouched (waitDoneOp_keeps _ _ s)
  | waitLoaded => exact .untouched (waitLoadedOp_keeps _ _ _ s)
  | waitTick => exact .untouched (waitTickOp_keeps _ _ _ _ s)
  | waitArrival => exact .untouched (waitArrivalOp_keeps _ _ _ _ s)
  | waitSwitched => exact .untouched (waitSwitchedOp_keeps _ _ s)
  | waitSealed => exact .untouched (waitSealedOp_keeps _ _ s)
  | exch => exact .untouched (exchOp_keeps _ _ _ _ _ s)
  | sealExtent => exact .untouched (sealExtentOp_keeps _ _ _ _ _ _ s)
  | ctr => exact .untouched (ctrOp_keeps _ _ _ _ s)
  | report => exact .untouched (reportOp_keeps _ _ _ s)
  | secb => exact .untouched (secbOp_keeps _ _ s)
  | halt => exact .untouched (haltOp_keeps _ s)
  | agEnd => exact .untouched (agEndOp_keeps _ _ s)
  | agRun => exact .untouched (agRunOp_keeps _ _ _ _ s)
  | agLoop => exact .untouched (agLoopOp_keeps _ _ _ _ s)
  | ring => exact .untouched (ringOp_keeps _ _ _ _ _ _ s)
  | win => exact .untouched (winOp_keeps _ _ _ _ _ _ s)
  | seta => exact .untouched (setaOp_keeps _ _ _ _ s)
  | hqb => exact .untouched (hqbOp_keeps _ _ _ s)
  | ringFill => exact .untouched (ringFillOp_keeps _ _ s)
  | ringDrain => exact .untouched (ringDrainOp_keeps _ _ _ s)
  | narrowRequest => exact .untouched (narrowRequestOp_keeps _ _ _ _ s)
  | mergeWriteback => exact .untouched (mergeWritebackOp_keeps _ _ s)
  | remoteWrite => exact .untouched (remoteWriteOp_keeps _ _ _ _ s)
  | handlePush => exact .untouched (handlePushOp_keeps _ _ _ _ _ s)
  | arvCntWrite => exact .untouched (arvCntWriteOp_keeps _ _ _ _ _ _ s)
  | packedBlockDecode => exact .untouched (packedBlockDecodeOp_keeps _ _ _ _ s)
  | hbmUncorrectedRead => exact .untouched (hbmUncorrectedReadOp_keeps _ _ _ _ _ s)
  | correctedError => exact .untouched (correctedErrorOp_keeps _ _ _ _ s)
  | frameRetirement => exact .untouched (frameRetirementOp_keeps _ s)
  | migrationQueueEntry => exact .untouched (migrationQueueEntryOp_keeps s)
  | migrationStart => exact .untouched (migrationStartOp_keeps _ s)
  | heldWriteRelease => exact .untouched (heldWriteReleaseOp_keeps _ _ s)
  | sealComplete => exact .untouched (sealCompleteOp_keeps _ _ s)
  | copyupComplete => exact .untouched (copyupCompleteOp_keeps _ _ s)
  | moveComplete => exact .untouched (moveCompleteOp_keeps _ _ s)
  | relocationComplete => exact .untouched (relocationCompleteOp_keeps _ _ _ _ s)
  | ddrUncorrectedError => exact .untouched (ddrUncorrectedErrorOp_keeps _ _ _ _ s)
  | deepPortLinkDown => exact .untouched (deepPortLinkDownOp_keeps _ s)
  | nvmeCommandComplete => exact .untouched (nvmeCommandCompleteOp_keeps _ _ _ s)
  | returnTrainingComplete => exact .untouched (returnTrainingCompleteOp_keeps _ _ _ _ _ s)
  | dqsTracking => exact .untouched (dqsTrackingOp_keeps _ s)
  | lz2PageMiss => exact .untouched (lz2PageMissOp_keeps _ s)
  | stagingRecordEntry => exact .untouched (stagingRecordEntryOp_keeps _ _ _ s)
  | exchangePhaseStart => exact .untouched (exchangePhaseStartOp_keeps _ _ _ s)
  | dataStage => exact .untouched (dataStageOp_keeps _ _ _ s)
  | receiveRecord => exact .untouched (receiveRecordOp_keeps _ _ s)
  | fwdSlot => exact .untouched (fwdSlotOp_keeps _ _ _ s)
  | closeStage => exact .untouched (closeStageOp_keeps _ _ s)
  | exchangeRoundOpen => exact .untouched (exchangeRoundOpenOp_keeps _ s)
  | stewardHeartbeat => exact .untouched (stewardHeartbeatOp_keeps s)
  | stewardTakeover => exact .untouched (stewardTakeoverOp_keeps s)
  | standbyResync => exact .untouched (standbyResyncOp_keeps s)
  | stwQidxWrite => exact .untouched (stwQidxWriteOp_keeps _ _ s)
  | stwGcfgWrite => exact .untouched (stwGcfgWriteOp_keeps _ _ _ s)
  | faultHoldExpiry => exact .untouched (faultHoldExpiryOp_keeps _ s)
  | gloveResetDone => exact .untouched (gloveResetDoneOp_keeps _ s)
  | flitReceive => exact .untouched (flitReceiveOp_keeps _ _ s)
  | replayTimeout => exact .untouched (replayTimeoutOp_keeps _ s)
  | linkTrainingStart => exact .untouched (linkTrainingStartOp_keeps _ s)
  | linkTrainingComplete => exact .untouched (linkTrainingCompleteOp_keeps _ _ _ _ _ s)
  | laneDrop => exact .untouched (laneDropOp_keeps _ _ s)
  | linkSignalDetect => exact .ordered (linkSignalDetectOp_tick _ s (.refl s))
  | lnkRetrain => exact .untouched (lnkRetrainOp_keeps _ s)
  | lnkEnableWrite => exact .untouched (lnkEnableWriteOp_keeps _ _ s)
  | packetForward => exact .untouched (packetForwardOp_keeps _ s)
  | mgrCfgLock => exact .untouched (mgrCfgLockOp_keeps _ _ s)
  | rackConflict => exact .ordered (rackConflictOp_tick _ _ s (.refl s))
  | relayedCommand => exact .ordered (relayedCommandOp_tick _ _ s (.refl s))
  | workerReport => exact .untouched (workerReportOp_keeps _ _ s)
  | workerHeartbeatMiss => exact .untouched (workerHeartbeatMissOp_keeps _ _ _ s)
  | managerTakeover => exact .ordered (managerTakeoverOp_tick _ s (.refl s))
  | epochAnnounce => exact .ordered (epochAnnounceOp_tick _ s (.refl s))
  | managerRoleDecision => exact .ordered (managerRoleDecisionOp_tick _ _ _ s (.refl s))
  | perstNAssert => exact .untouched (perstNAssertOp_keeps s)
  | perstNRelease => exact .untouched (perstNReleaseOp_keeps s)
  | pfFlr => exact .untouched (pfFlrOp_keeps s)
  | vfFlr => exact .untouched (vfFlrOp_keeps _ s)
  | d3hotEntry => exact .untouched (d3hotEntryOp_keeps _ s)
  | hostWindowRead => exact .untouched (hostWindowReadOp_keeps _ _ _ _ s)
  | hostWindowWrite => exact .untouched (hostWindowWriteOp_keeps _ _ _ _ s)
  | commandSlotReceive => exact .untouched (commandSlotReceiveOp_keeps _ _ _ _ _ s)
  | commandRingEnable => exact .untouched (commandRingEnableOp_keeps _ _ _ s)
  | completionRingEnable => exact .untouched (completionRingEnableOp_keeps _ _ _ s)
  | cqHeadWrite => exact .untouched (cqHeadWriteOp_keeps _ _ _ s)
  | msixModerationTimer => exact .untouched (msixModerationTimerOp_keeps _ s)
  | identify => exact .untouched (identifyOp_keeps _ s)
  | setProfile => exact .untouched (setProfileOp_keeps _ s)
  | setTickPeriod => exact .ordered (setTickPeriodOp_tick _ s (.refl s))
  | setRung => exact .untouched (setRungOp_keeps _ s)
  | setRoute => exact .untouched (setRouteOp_keeps _ s)
  | stewardSwap => exact .untouched (stewardSwapOp_keeps _ s)
  | serviceOpFence => exact .untouched (serviceOpFenceOp_keeps _ s)
  | serviceOpUnfence => exact .untouched (serviceOpUnfenceOp_keeps _ s)
  | serviceOpRetire => exact .untouched (serviceOpRetireOp_keeps _ s)
  | serviceOpFormChain => exact .untouched (serviceOpFormChainOp_keeps _ s)
  | serviceOpReturn => exact .untouched (serviceOpReturnOp_keeps _ _ s)
  | keyOpInstall => exact .untouched (keyOpInstallOp_keeps _ s)
  | keyOpErase => exact .untouched (keyOpEraseOp_keeps _ s)
  | imageOpStage => exact .untouched (imageOpStageOp_keeps _ s)
  | imageOpActivate => exact .untouched (imageOpActivateOp_keeps _ s)
  | imageOpWriteOtp => exact .untouched (imageOpWriteOtpOp_keeps _ s)
  | gloveCreate => exact .untouched (gloveCreateOp_keeps _ s)
  | gloveDestroy => exact .untouched (gloveDestroyOp_keeps _ s)
  | gloveReset => exact .untouched (gloveResetOp_keeps _ s)
  | frameAlloc => exact .untouched (frameAllocOp_keeps _ s)
  | frameShare => exact .untouched (frameShareOp_keeps _ s)
  | frameFree => exact .untouched (frameFreeOp_keeps _ s)
  | gsqWrite => exact .untouched (gsqWriteOp_keeps _ s)
  | gsqStart => exact .untouched (gsqStartOp_keeps _ s)
  | gsqStop => exact .untouched (gsqStopOp_keeps _ s)
  | planInstall => exact .untouched (planInstallOp_keeps _ s)
  | planRemove => exact .untouched (planRemoveOp_keeps _ s)
  | lz2Enable => exact .untouched (lz2EnableOp_keeps _ s)
  | lz2Disable => exact .untouched (lz2DisableOp_keeps _ s)
  | migrate => exact .untouched (migrateOp_keeps _ s)
  | modelRegister => exact .untouched (modelRegisterOp_keeps _ s)
  | modelSwitchin => exact .untouched (modelSwitchinOp_keeps _ s)
  | modelPark => exact .untouched (modelParkOp_keeps _ s)
  | modelReplace => exact .untouched (modelReplaceOp_keeps _ s)
  | adapterLoad => exact .untouched (adapterLoadOp_keeps _ s)
  | adapterUnload => exact .untouched (adapterUnloadOp_keeps _ s)
  | markPublic => exact .untouched (markPublicOp_keeps _ s)
  | admitSeq => exact .untouched (admitSeqOp_keeps _ s)
  | routeAdmit => exact .untouched (routeAdmitOp_keeps _ s)
  | append => exact .untouched (appendOp_keeps _ s)
  | cancel => exact .untouched (cancelOp_keeps _ s)
  | pause => exact .untouched (pauseOp_keeps _ s)
  | resume => exact .untouched (resumeOp_keeps _ s)
  | release => exact .untouched (releaseOp_keeps _ s)
  | setEndpointId => exact .ordered (setEndpointIdOp_tick _ s (.refl s))
  | getEndpointId => exact .ordered (getEndpointIdOp_tick s (.refl s))
  | getMctpVersionSupport => exact .ordered (getMctpVersionSupportOp_tick _ s (.refl s))
  | getMessageTypeSupport => exact .ordered (getMessageTypeSupportOp_tick s (.refl s))
  | getVendorDefinedMessageSupport => exact .ordered (getVendorDefinedMessageSupportOp_tick _ s (.refl s))
  | getRecord => exact .ordered (getRecordOp_tick _ s (.refl s))
  | getAlerts => exact .ordered (getAlertsOp_tick _ s (.refl s))
  | setAlertMask => exact .ordered (setAlertMaskOp_tick _ s (.refl s))
  | aosRead => exact .ordered (aosReadOp_tick s (.refl s))
  | trip => exact .ordered (tripOp_tick _ s (.refl s))
  | fence => exact .ordered (fenceOp_tick _ _ _ s (.refl s))
  | erase => exact .ordered (eraseOp_tick _ _ s (.refl s))
  | reset => exact .ordered (resetOp_tick _ _ s (.refl s))
  | aosReport => exact .ordered (aosReportOp_tick s (.refl s))
  | recordRefresh => exact .untouched (recordRefreshOp_keeps s)
  | secActlGo => exact .untouched (secActlGoOp_keeps _ _ _ s)
  | attestationReportReady => exact .untouched (attestationReportReadyOp_keeps s)
  | trngHealthFailure => exact .untouched (trngHealthFailureOp_keeps s)
  | trngRecover => exact .untouched (trngRecoverOp_keeps s)
  | powerOn => exact .ordered (powerOnOp_tick s (.refl s))
  | ext => exact .ordered (extOp_tick _ s (.refl s))
  | rail => exact .ordered (railOp_tick _ s (.refl s))
  | thermtrip => exact .ordered (thermtripOp_tick s (.refl s))
  | thermalTrip => exact .ordered (thermalTripOp_tick s (.refl s))
  | refclkLoss => exact .ordered (refclkLossOp_tick s (.refl s))
  | refclkWindow => exact .ordered (refclkWindowOp_tick _ s (.refl s))
  | pllWindow => exact .ordered (pllWindowOp_tick _ _ s (.refl s))
  | watchdog => exact .ordered (watchdogOp_tick s (.refl s))
  | aosRstreqWrite => exact .ordered (aosRstreqWriteOp_tick _ _ s (.refl s))
  | vaonLoss => exact .untouched (vaonLossOp_keeps s)
  | resetStretchEnd => exact .untouched (resetStretchEndOp_keeps s)
  | resetNSample => exact .ordered (resetNSampleOp_tick _ s (.refl s))
  | otpGenerationSelect => exact .untouched (otpGenerationSelectOp_keeps s)
  | aosBringupTakeover => exact .untouched (aosBringupTakeoverOp_keeps s)
  | aosFirmwareStart => exact .untouched (aosFirmwareStartOp_keeps s)
  | railCheck => exact .ordered (railCheckOp_tick _ s (.refl s))
  | controlFirmwareStart => exact .untouched (controlFirmwareStartOp_keeps s)
  | selfTestComplete => exact .untouched (selfTestCompleteOp_keeps _ _ s)
  | stackTrainingAttempt => exact .untouched (stackTrainingAttemptOp_keeps _ _ s)
  | wideTierTrained => exact .untouched (wideTierTrainedOp_keeps _ s)
  | dieRelease => exact .untouched (dieReleaseOp_keeps _ s)
  | profileChange => exact .ordered (profileChangeOp_tick s (.refl s))
  | rasDrainWrite => exact .untouched (rasDrainWriteOp_keeps _ _ s)
  | partReadyReport => exact .untouched (partReadyReportOp_keeps _ s)
  | activationReadyTimeout => exact .untouched (activationReadyTimeoutOp_keeps _ s)
  | otpBurnComplete => exact .untouched (otpBurnCompleteOp_keeps _ s)
  | aosStewardWatchLapse => exact .ordered (aosStewardWatchLapseOp_tick s (.refl s))
  | aosManagerWatchLapse => exact .ordered (aosManagerWatchLapseOp_tick s (.refl s))
  | patternCycle => exact .untouched (patternCycleOp_keeps _ s)
  | flitTransmit => exact .untouched (flitTransmitOp_keeps _ s)
  | moduleHeartbeat => exact .untouched (moduleHeartbeatOp_keeps _ s)
  | managerHeartbeat => exact .untouched (managerHeartbeatOp_keeps s)
  | relayedCompletion => exact .untouched (relayedCompletionOp_keeps _ s)
  | managerResync => exact .untouched (managerResyncOp_keeps s)
  | d3hotExit => exact .untouched (d3hotExitOp_keeps _ s)
  | deepPortNvmeReady => exact .untouched (deepPortNvmeReadyOp_keeps _ _ _ _ _ s)
  | stackControllerFailure => exact .untouched (stackControllerFailureOp_keeps _ s)
  | dieToDiePortFailure => exact .untouched (dieToDiePortFailureOp_keeps _ _ s)
  | waitTickReached => exact .untouched (waitTickReachedOp_keeps _ s)
  | smbusAddressResolution => exact .ordered (smbusAddressResolutionOp_tick _ s (.refl s))
  | periodChangeReceive n tick =>
    obtain ⟨hlow, hhigh⟩ := periodChangeReceive_wf hwf
    exact .ordered (periodChangeReceiveOp_tick _ _ s hlow hhigh (.refl s))

/-- Settles O3: the front command is well formed and keeps the tick block in order, and the queue that remains is the tail of the old one. -/
theorem everyStepKeepsTheTickBlockInOrder : Obligations.EveryStepKeepsTheTickBlockInOrder := by
  unfold Obligations.EveryStepKeepsTheTickBlockInOrder
  intro s t htick hqueue hstep
  have htail : t.pending = s.pending.tail := (step_keeps_build_and_tail s t hstep).pending
  refine ⟨?tick, fun c hc => hqueue c (List.mem_of_mem_tail (htail ▸ hc))⟩
  cases hq : s.pending with
  | nil =>
    rw [step_of_empty hq] at hstep
    cases hstep
    exact (tickAdvanceOp_tick s (.refl s)).ok htick
  | cons c rest =>
    rw [step_of_waiting hq] at hstep
    have hwf : c.wf = true := hqueue c (by rw [hq]; exact List.mem_cons_self)
    exact (exec_keeps_tick_in_order c hwf _ t hstep).ok htick

end Sys2Proof.Machine

/-! SUPPORT. The state at reset, the tick counter as it is read, and the write of TKE_HOLDLIM (R40, R62, R68): O4, O7 and O14. -/

namespace Sys2Proof.Machine

open Adr

/-! The state at reset (R40, R551, R555, R579). -/

namespace State

/-- The register table at reset lists AOS_RSTCAUSE and TKE_FALLBACK, and every other register reads as its field table says. -/
theorem reset_reg_other {a : Nat} (hcause : a ≠ aosRstcause) (hfallback : a ≠ tkeFallback) : reset.reg a = regReset a := by
  show SMap.look regReset [(aosRstcause, 0x11), (tkeFallback, 500)] a = regReset a
  rw [SMap.look, if_neg hcause.symm, SMap.look, if_neg hfallback.symm, SMap.look]

theorem reset_tickOk : reset.TickOk := ⟨by decide, by decide, by decide, fun _ hp => nomatch hp⟩

theorem reset_queueOk : reset.QueueOk := fun _ hc => nomatch hc

end State

/-- Settles O4: the tables at reset are empty, so every entry reads as its default, and the registers are two entries and the field tables. -/
theorem resetState : Obligations.ResetState := by
  unfold Obligations.ResetState
  have hblocks : (∀ g, (State.reset.glove g).live = false) ∧ (∀ k, (State.reset.keys.at k).installed = false) ∧
      (∀ i, (State.reset.seqEnt i).st = .free) ∧ (∀ m, (State.reset.model m).st = .absent) ∧ (∀ f, (State.reset.frame f).mode = .absent) :=
    ⟨fun _ => rfl, fun _ => rfl, fun _ => rfl, fun _ => rfl, fun _ => rfl⟩
  obtain ⟨hgloves, hkeys, hseqs, hmodels, hframes⟩ := hblocks
  exact ⟨rfl, rfl, rfl, rfl, rfl, rfl, rfl, rfl, hgloves, hkeys, hseqs, hmodels, hframes, rfl, State.reset_tickOk, State.reset_queueOk,
    rfl, rfl, by decide, by decide, by decide, fun _ hcause hfallback => State.reset_reg_other hcause hfallback⟩

/-! The tick counter as it is read (R62). -/

/-- Settles O7: the three forms of the read, each by the operation's own case. -/
theorem tickReadLatchesTheHighHalf : Obligations.TickReadLatchesTheHighHalf := by
  unfold Obligations.TickReadLatchesTheHighHalf
  intro s
  refine ⟨rfl, fun h hne => ?_⟩
  cases h with
  | whole => rfl
  | lo => rfl
  | hi => exact absurd rfl hne

/-! TKE_HOLDLIM (R68). -/

/-- A register write below the end of BAR0 is the operation of its row (R501). -/
theorem exec_registerWrite_inside (s : State) {func a : Nat} (h : Half) (v : Word) (hin : a < bar0Size) :
    exec (.registerWrite func a h v) s = .next (registerWriteOp func a h v s) :=
  if_neg fun hout => Nat.not_le.mpr hin hout.2

/-- A write by the physical function to a plain register of the tick and energy block is the write of that register alone. -/
theorem registerWriteOp_tickBlock (s : State) {a : Nat} (h : Half) (v : Word) (hopen : s.barOpen 0 = true) (hal : a / 8 * 8 = a)
    (hlo : 0x400000 ≤ a) (hhi : a < 0x800000) (hev : flagCounters a = []) : registerWriteOp 0 a h v s = s.writePlain a h v := by
  unfold registerWriteOp
  rw [if_neg (by rw [hopen]; decide), if_pos rfl, hal, State.writeReg_tickBlock s h v hlo hhi hev]

/-- TKE_HOLDLIM takes a word of its range whole, and no other word. -/
theorem State.regRule_tkeHoldlim (s : State) (w : Word) :
    s.regRule tkeHoldlim w = some ⟨allBits, 1000000 ≤ w.toNat && w.toNat ≤ 6000000000⟩ := rfl

/-- Settles O14: the register's rule decides, and a legal word is stored under a mask of all bits. -/
theorem holdoverLimitRange : Obligations.HoldoverLimitRange := by
  unfold Obligations.HoldoverLimitRange
  intro half val w s hopen hw
  have hrule : s.regRule tkeHoldlim (mergeHalf half (s.reg tkeHoldlim) val) =
      some ⟨allBits, 1000000 ≤ w.toNat && w.toNat ≤ 6000000000⟩ := by rw [← hw, s.regRule_tkeHoldlim]
  have hexec : exec (.registerWrite 0 tkeHoldlim half val) s = .next (s.writePlain tkeHoldlim half val) := by
    rw [exec_registerWrite_inside s half val (by decide), registerWriteOp_tickBlock s half val hopen rfl (by decide) (by decide) rfl]
  refine ⟨_, hexec, ?_⟩
  by_cases hrange : 1000000 ≤ w.toNat ∧ w.toNat ≤ 6000000000
  · obtain ⟨f, hwrite, hledger⟩ := State.writePlain_legal s hrule (by simpa using hrange)
    have hstored : s.writePlain tkeHoldlim half val = s.setReg tkeHoldlim w := by
      rw [hwrite, hledger (by decide), ← hw]
      exact congrArg (s.setReg tkeHoldlim) (BitVec.and_allOnes (x := w))
    rw [hstored]
    exact ⟨State.Keeps.only (State.setReg_keeps s _ _ (m_ := 0x8000) (by decide) (State.Keeps.refl _ _)) (by decide),
      fun _ _ => ⟨State.reg_setReg_same s _ _, fun a ha => State.reg_setReg_other s _ ha⟩, fun hout => by omega⟩
  · have hsame : s.writePlain tkeHoldlim half val = s := State.writePlain_illegal s hrule (by simpa using hrange)
    rw [hsame]
    exact ⟨State.OnlyChanges.refl s _, fun hlow hhigh => absurd ⟨hlow, hhigh⟩ hrange, fun _ => rfl⟩

end Sys2Proof.Machine

/-! SUPPORT. The commands of the tick block (R39 to R58, R633): period changes, loads, beacons, holdover, crowns, steps and holds, and O8 to O10,
O12 and O13. -/

namespace Sys2Proof.Machine

open Adr

/-! A change of N (R41, R633). -/

namespace State

/-- A change of N leaves every register but the tick block's event register and its counters. -/
theorem reg_setPeriod_other (s : State) (n : Nat) {a : Nat} (ha : a ≠ tkeEvt) (hc : a ∉ flagCounters tkeEvt) :
    (s.setPeriod n).reg a = s.reg a := by
  unfold setPeriod
  dsimp only
  split
  · rfl
  · rw [reg_raise_other _ _ _ _ _ ha hc, reg_onTick]

/-- A register with one of its fields written under a condition. -/
theorem reg_cut_same (s : State) (a lo w v : Nat) (c : Prop) [Decidable c] :
    (if c then s.setFld a lo w v else s).reg a = if c then (s.reg a).setField lo w v else s.reg a := by
  split
  · exact reg_setReg_same s _ _
  · rfl

theorem reg_cut_other (s : State) {a b : Nat} (lo w v : Nat) (c : Prop) [Decidable c] (h : b ≠ a) :
    (if c then s.setFld a lo w v else s).reg b = s.reg b := by
  split
  · exact reg_setReg_other s _ h
  · rfl

/-- Taking a period cuts LOFS and leaves the rest of TKE_LCFG. -/
theorem reg_applyPeriod_tkeLcfg (s : State) (n : Nat) :
    (s.applyPeriod n).reg tkeLcfg = if s.fld tkeLcfg 0 20 ≥ n then (s.reg tkeLcfg).setField 0 20 (n - 1) else s.reg tkeLcfg := by
  unfold applyPeriod
  dsimp only
  rw [reg_cut_other _ _ _ _ _ (by decide), reg_cut_same]
  unfold fld
  rw [reg_setPeriod_other _ _ (by decide) (by decide), reg_onTick]

/-- Taking a period cuts GOFS in a rack master or crown, and leaves the rest of MGR_CFG. -/
theorem reg_applyPeriod_mgrCfg (s : State) (n : Nat) :
    (s.applyPeriod n).reg mgrCfg = if (s.tick.role = .rackMaster ∨ s.tick.role = .crown) ∧ s.fld mgrCfg 8 20 ≥ n
      then (s.reg mgrCfg).setField 8 20 (n - 1) else s.reg mgrCfg := by
  unfold applyPeriod
  dsimp only
  rw [reg_cut_same]
  unfold fld
  rw [reg_cut_other _ _ _ _ _ (by decide), reg_setPeriod_other _ _ (by decide) (by decide), reg_onTick]

end State

/-- With no change pending, PERIOD_CHANGE changes nothing. -/
theorem periodChangeOp_none {s : State} (h : s.tick.pend = none) : periodChangeOp s = s := by
  unfold periodChangeOp
  rw [h]

/-- With a change pending, PERIOD_CHANGE takes it at its boundary and not before. -/
theorem periodChangeOp_some {s : State} {n b : Nat} (h : s.tick.pend = some (n, b)) :
    periodChangeOp s = if s.tick.tick < b then s else (s.onTick fun k => { k with pend := none }).applyPeriod n := by
  unfold periodChangeOp
  rw [h]

/-- Settles O8: PERIOD_CHANGE takes the pending period at its boundary, and taking it cuts the two offsets. -/
theorem pendingPeriodTakesEffect : Obligations.PendingPeriodTakesEffect := by
  unfold Obligations.PendingPeriodTakesEffect
  intro s
  refine ⟨fun hnone => congrArg Host.Outcome.next (periodChangeOp_none hnone), fun n b hpend => ?_⟩
  have hop := periodChangeOp_some hpend
  refine ⟨fun hbefore => ?_, fun hreached => ⟨_, rfl, ?_⟩⟩
  · rw [if_pos hbefore] at hop
    exact congrArg Host.Outcome.next hop
  · rw [hop, if_neg (Nat.not_lt.mpr hreached), State.reg_applyPeriod_tkeLcfg, State.reg_applyPeriod_mgrCfg]
    simp [State.fld]

/-! Loads (R48, R57, R58). -/

/-- A module that follows no rack master takes no load. -/
theorem alignmentLoadOp_leader {s : State} (tick : Word) (phase n : Nat) (pend : Option (Nat × Word)) (m src : Nat)
    (h : s.tick.role.follows = false) : alignmentLoadOp tick phase n pend m src s = s := by
  unfold alignmentLoadOp
  rw [if_pos (by rw [h]; rfl)]

/-- What a follower takes of a load before its counters are moved: N, the pending change, and its rack master with its state. -/
def State.takeLoad (s : State) (n : Nat) (pend : Option (Nat × Word)) (m src : Nat) : State :=
  (s.applyPeriod n).onTick fun t =>
    { t with pend := pend.map fun p => (p.1, p.2.toNat), master := TState.ofCode m, parent := some src, sinceHeard := 0 }

/-- The counters of `s`, which no hold holds, stepped forward or held so as to read `target`. -/
def State.alignTo (s : State) (target : Nat) : State :=
  if s.nowRc < target then s.stepTo target else if target < s.nowRc then s.holdFor (s.nowRc - target) else s

/-- A load in a follower: it is taken, outside LOCKED and HOLDOVER the counters are aligned to it, and the follower is LOCKED. -/
theorem alignmentLoadOp_follower {s : State} (tick : Word) (phase n : Nat) (pend : Option (Nat × Word)) (m src : Nat)
    (h : s.tick.role.follows = true) :
    alignmentLoadOp tick phase n pend m src s = (if s.tick.own = .locked ∨ s.tick.own = .holdover then s.takeLoad n pend m src
      else ((s.takeLoad n pend m src).onTick fun t => { t with hold := none }).alignTo (tick.toNat * n + phase)).enterT .locked := by
  unfold alignmentLoadOp
  rw [if_neg (by rw [h]; decide)]
  rfl

namespace State

@[simp] theorem takeLoad_tick (s : State) (n : Nat) (pend : Option (Nat × Word)) (m src : Nat) :
    (s.takeLoad n pend m src).tick = { s.tick with
      n := n, phase := s.tick.phase % n, pend := pend.map (fun p => (p.1, p.2.toNat)), master := TState.ofCode m, parent := some src,
      sinceHeard := 0 } := by
  simp [takeLoad]

/-- Counters at or behind the target come to read it. -/
theorem alignTo_tick_behind {s : State} {tick phase : Nat} (hs : s.tick.phase < s.tick.n) (hphase : phase < s.tick.n)
    (h : s.nowRc ≤ tick * s.tick.n + phase) :
    (s.alignTo (tick * s.tick.n + phase)).tick = { s.tick with tick := tick, phase := phase } := by
  have hpos : 0 < s.tick.n := by omega
  have hdiv : ∀ t p : Nat, p < s.tick.n → (t * s.tick.n + p) / s.tick.n = t := fun t p hp => by
    rw [Nat.add_comm, Nat.add_mul_div_right _ _ hpos, Nat.div_eq_of_lt hp, Nat.zero_add]
  have hmod : ∀ t p : Nat, p < s.tick.n → (t * s.tick.n + p) % s.tick.n = p := fun t p hp => by
    rw [Nat.mul_add_mod', Nat.mod_eq_of_lt hp]
  unfold alignTo
  by_cases hlt : s.nowRc < tick * s.tick.n + phase
  · rw [if_pos hlt, stepTo_tick, TickSt.setRc, hdiv _ _ hphase, hmod _ _ hphase]
  · have heq : s.tick.tick * s.tick.n + s.tick.phase = tick * s.tick.n + phase := by unfold nowRc at h hlt; omega
    have htick : s.tick.tick = tick := by rw [← hdiv s.tick.tick _ hs, heq, hdiv _ _ hphase]
    have hph : s.tick.phase = phase := by rw [← hmod s.tick.tick _ hs, heq, hmod _ _ hphase]
    rw [if_neg hlt, if_neg (by unfold nowRc; omega), ← htick, ← hph]

/-- Counters ahead of the target are held by the difference. -/
theorem alignTo_tick_ahead {s : State} {target : Nat} (h : target < s.nowRc) :
    (s.alignTo target).tick = { s.tick with hold := some (s.nowRc - target) } := by
  unfold alignTo
  rw [if_neg (by omega), if_pos h, holdFor_tick]

end State

/-- Settles O9: what a follower takes of the load, and the two ways in which its counters come to it. -/
theorem followerTakesTheLoad : Obligations.FollowerTakesTheLoad := by
  unfold Obligations.FollowerTakesTheLoad
  intro s tick phase n m src pend
  refine ⟨fun hleads => congrArg Host.Outcome.next (alignmentLoadOp_leader tick phase n pend m src hleads),
    fun hfollows hphase => ⟨_, rfl, ?_⟩⟩
  have hkeeps : State.Keeps 0x8001 s (alignmentLoadOp tick phase n pend m src s) :=
    alignmentLoadOp_keeps tick phase n pend m src s (by decide) (.refl _ s)
  have hframe := And.intro hkeeps.mem (And.intro hkeeps.arr (And.intro hkeeps.seq (And.intro hkeeps.glv (And.intro hkeeps.stw hkeeps.host))))
  have hop := alignmentLoadOp_follower tick phase n pend m src hfollows
  by_cases hown : s.tick.own = .locked ∨ s.tick.own = .holdover
  · have htick : (alignmentLoadOp tick phase n pend m src s).tick = { (s.takeLoad n pend m src).tick with own := .locked } := by
      rw [hop, if_pos hown, State.enterT_tick]
    have hstay : ¬ (s.tick.own = .acquiring ∨ s.tick.own = .unlocked) := by rcases hown with h | h <;> rw [h] <;> decide
    rw [htick, State.takeLoad_tick]
    exact ⟨rfl, rfl, rfl, rfl, rfl, rfl, fun _ => ⟨rfl, rfl, rfl⟩, fun hin => absurd hin hstay, hframe⟩
  · rw [if_neg hown] at hop
    have hloaded : ((s.takeLoad n pend m src).onTick fun t => { t with hold := none }).tick = { s.tick with
        n := n, phase := s.tick.phase % n, pend := pend.map (fun p => (p.1, p.2.toNat)), master := TState.ofCode m, parent := some src,
        sinceHeard := 0, hold := none } := by rw [State.onTick_tick, State.takeLoad_tick]
    generalize (s.takeLoad n pend m src).onTick (fun t => { t with hold := none }) = u at hop hloaded
    have hnow : u.nowRc = s.tick.tick * n + s.tick.phase % n := by rw [State.nowRc, hloaded]
    have hn : u.tick.n = n := by rw [hloaded]
    have hph : u.tick.phase = s.tick.phase % n := by rw [hloaded]
    rcases Nat.lt_or_ge (tick.toNat * n + phase) u.nowRc with hahead | hbehind
    · have htick : (alignmentLoadOp tick phase n pend m src s).tick =
          { u.tick with hold := some (u.nowRc - (tick.toNat * n + phase)), own := .locked } := by
        rw [hop, State.enterT_tick, State.alignTo_tick_ahead hahead]
      rw [hnow] at hahead
      rw [htick, hloaded, hnow]
      exact ⟨rfl, rfl, rfl, rfl, rfl, rfl, fun hin => absurd hin hown,
        fun _ => ⟨fun hle => absurd hle (Nat.not_le.mpr hahead), fun _ => ⟨rfl, rfl, rfl⟩⟩, hframe⟩
    · have htick : (alignmentLoadOp tick phase n pend m src s).tick =
          { u.tick with tick := tick.toNat, phase := phase, own := .locked } := by
        have hwithin : u.tick.phase < u.tick.n := by rw [hph, hn]; exact Nat.mod_lt _ (by omega)
        rw [← hn] at hbehind hphase
        rw [hop, State.enterT_tick, ← hn, State.alignTo_tick_behind hwithin hphase hbehind]
      rw [hnow] at hbehind
      rw [htick, hloaded]
      exact ⟨rfl, rfl, rfl, rfl, rfl, rfl, fun hin => absurd hin hown,
        fun _ => ⟨fun _ => ⟨rfl, rfl, rfl⟩, fun hlt => absurd hlt (Nat.not_lt.mpr hbehind)⟩, hframe⟩

/-! Beacons (R53, R54, R66). -/

/-- Where some module is known, a parent is chosen. -/
theorem chooseParent_isSome {l : List (Nat × Nat)} (h : l ≠ []) : ∃ p, chooseParent l = some p := by
  cases l with
  | nil => exact absurd rfl h
  | cons a r =>
    rw [chooseParent]
    split
    · exact ⟨_, rfl⟩
    · split <;> exact ⟨_, rfl⟩

/-- The chosen parent is one of the modules known, of the fewest hops and the lowest node ID among equals. -/
theorem chooseParent_eq_some {l : List (Nat × Nat)} {p : Nat × Nat} (h : chooseParent l = some p) :
    p ∈ l ∧ ∀ q ∈ l, p.1 < q.1 ∨ (p.1 = q.1 ∧ p.2 ≤ q.2) := by
  induction l generalizing p with
  | nil => exact nomatch h
  | cons a r ih =>
    rw [chooseParent] at h
    cases hr : chooseParent r with
    | none =>
      have hnil : r = [] := by
        cases r with
        | nil => rfl
        | cons b r =>
          obtain ⟨q, hq⟩ := chooseParent_isSome (List.cons_ne_nil b r)
          rw [hr] at hq
          exact nomatch hq
      rw [hr] at h
      cases h
      simp [hnil]
    | some b =>
      obtain ⟨hb, hleast⟩ := ih hr
      rw [hr] at h
      dsimp only at h
      split at h
      · cases h
        refine ⟨List.mem_cons_self, fun q hq => ?_⟩
        rcases List.mem_cons.mp hq with rfl | hq
        · omega
        · have := hleast q hq
          omega
      · cases h
        refine ⟨List.mem_cons_of_mem _ hb, fun q hq => ?_⟩
        rcases List.mem_cons.mp hq with rfl | hq
        · omega
        · exact hleast q hq

namespace State

/-- What a beacon of the parent leaves of the tick block: beside the state, the slew and the pending step by R57, all that it brings is taken. -/
theorem followBeacon_tick_fields (s : State) (b : Beacon) (delay : Nat) (freq : Int) : ∃ x y z, (s.followBeacon b delay freq).tick =
    { s.tick with
      own := x, slew := y, stepPend := z, n := b.n, phase := s.tick.phase % b.n, crown := some b.crown, sinceHeard := 0,
      pend := b.pend.map (fun p => (p.1, p.2.toNat)), ofsNs := beaconOfsNs s.tick b delay, freq := freqBound freq,
      crownOfs := (beaconOfsNs s.tick b delay + 5) / 10 + b.crownOfs } := by
  unfold followBeacon
  obtain ⟨x, y, z, htick⟩ := measured_tick (((s.applyPeriod b.n).setCrown b.crown).onTick fun t =>
    { t with
      pend := b.pend.map (fun p => (p.1, p.2.toNat)), sinceHeard := 0, ofsNs := beaconOfsNs s.tick b delay, freq := freqBound freq,
      crownOfs := (beaconOfsNs s.tick b delay + 5) / 10 + b.crownOfs }) ((beaconOfsNs s.tick b delay + 5) / 10 + b.crownOfs)
  exact ⟨x, y, z, by rw [htick, onTick_tick, setCrown_tick, applyPeriod_tick]⟩

/-- The known modules are `cs`, and the parent is node `p`. -/
def learn (s : State) (cs : List (Nat × Nat)) (p : Nat) : State := s.onTick fun t => { t with cands := cs, parent := some p }

end State

/-- A module that is no following rack master takes no beacon. -/
theorem beaconReceiveOp_leader {s : State} (b : Beacon) (hops delay : Nat) (freq : Int) (h : s.tick.role ≠ .rackMaster) :
    beaconReceiveOp b hops delay freq s = s := if_pos h

/-- A beacon in a following rack master: its sender is learnt, the parent chosen, and a beacon of the parent is followed. -/
theorem beaconReceiveOp_follower {s : State} {b : Beacon} {hops : Nat} {cs : List (Nat × Nat)} {p : Nat × Nat} (delay : Nat) (freq : Int)
    (hcs : cs = s.tick.cands.filter (fun q => q.2 ≠ b.sender) ++ [(hops, b.sender)]) (h : s.tick.role = .rackMaster)
    (hp : chooseParent cs = some p) :
    beaconReceiveOp b hops delay freq s = if p.2 = b.sender then (s.learn cs p.2).followBeacon b delay freq else s.learn cs p.2 := by
  unfold beaconReceiveOp
  rw [if_neg (not_not_intro h), ← hcs]
  dsimp only
  rw [hp]
  simp only [Option.map_some, Option.some.injEq]
  rfl

/-- Settles O10: the chosen parent is the least of the known modules, and its beacons alone are followed. -/
theorem followingRackMasterTakesABeacon : Obligations.FollowingRackMasterTakesABeacon := by
  unfold Obligations.FollowingRackMasterTakesABeacon
  intro s b hops delay freq
  refine ⟨fun hrole => congrArg Host.Outcome.next (beaconReceiveOp_leader b hops delay freq hrole), fun cs hcs hrole => ?_⟩
  obtain ⟨p, hp⟩ := chooseParent_isSome (l := cs) (by simp [hcs])
  obtain ⟨hmem, hleast⟩ := chooseParent_eq_some hp
  have hop := beaconReceiveOp_follower delay freq hcs hrole hp
  have hkeeps : State.Keeps 0x8001 s (beaconReceiveOp b hops delay freq s) := beaconReceiveOp_keeps b hops delay freq s (by decide) (.refl _ s)
  refine ⟨p, hmem, hleast, fun hother => ?_, fun hparent => ⟨_, rfl, ?_⟩⟩
  · rw [if_neg hother] at hop
    exact congrArg Host.Outcome.next hop
  · rw [if_pos hparent] at hop
    obtain ⟨x, y, z, htick⟩ := (s.learn cs p.2).followBeacon_tick_fields b delay freq
    rw [← hop] at htick
    rw [htick]
    exact ⟨rfl, rfl, congrArg some hparent, rfl, rfl, rfl, rfl, rfl, rfl, hrole, hkeeps.mem, hkeeps.arr, hkeeps.seq, hkeeps.glv, hkeeps.stw,
      hkeeps.host⟩

/-! Holdover and crowns (R56, R57). -/

/-- The crown, and any module that has heard its parent within eight beacon intervals, loses no parent. -/
theorem parentLostOp_heard {s : State} (cand : List (Nat × Nat)) (h : s.tick.role = .crown ∨ s.tick.sinceHeard < 8 * s.tick.interval) :
    parentLostOp cand s = s := if_pos h

/-- A module whose parent is lost follows the parent chosen among the candidates. -/
theorem parentLostOp_candidate {s : State} {cand : List (Nat × Nat)} {p : Nat × Nat}
    (h : ¬ (s.tick.role = .crown ∨ s.tick.sinceHeard < 8 * s.tick.interval)) (hp : chooseParent cand = some p) :
    parentLostOp cand s = s.onTick fun t => { t with parent := some p.2, cands := cand, sinceHeard := 0 } := by
  unfold parentLostOp
  rw [if_neg h, hp]

/-- In LOCKED, a module whose parent is lost and that has no candidate enters HOLDOVER. -/
theorem parentLostOp_alone {s : State} (h : ¬ (s.tick.role = .crown ∨ s.tick.sinceHeard < 8 * s.tick.interval)) (hown : s.tick.own = .locked) :
    parentLostOp [] s = (s.onTick fun t => { t with parent := none, cands := [] }).enterT .holdover := by
  unfold parentLostOp
  rw [if_neg h]
  simp only [chooseParent, hown, if_true]

namespace State

@[simp] theorem becomeCrown_tick_fields (s : State) (me : Nat) : (s.becomeCrown me).tick = { s.tick with
    crown := if me = 0x1FFF then none else some me, role := .crown, parent := none, slew := 0, stepPend := none, crownOfs := 0, cands := [],
    own := .locked } := by
  unfold becomeCrown
  split <;> simp

end State

/-- Before the limit, and outside HOLDOVER, HOLDOVER_LIMIT_EXPIRY changes nothing. -/
theorem holdoverLimitExpiryOp_within {s : State} (reach : List Nat)
    (h : s.tick.own ≠ .holdover ∨ s.tick.hovr < (s.reg tkeHoldlim).toNat) : holdoverLimitExpiryOp reach s = s := if_pos h

/-- At the limit, the lowest of the rack masters that reach one another becomes the crown. -/
theorem holdoverLimitExpiryOp_lowest {s : State} {reach : List Nat} (h : ¬ (s.tick.own ≠ .holdover ∨ s.tick.hovr < (s.reg tkeHoldlim).toNat))
    (hlow : s.tick.role = .rackMaster ∧ reach.foldl min (s.nodeId.getD 0x1FFF) = s.nodeId.getD 0x1FFF) :
    holdoverLimitExpiryOp reach s = s.becomeCrown (s.nodeId.getD 0x1FFF) := by
  unfold holdoverLimitExpiryOp
  rw [if_neg h]
  exact if_pos hlow

/-- At the limit, any other module enters UNLOCKED; a rack master knows the lowest as its crown. -/
theorem holdoverLimitExpiryOp_other {s : State} {reach : List Nat} (h : ¬ (s.tick.own ≠ .holdover ∨ s.tick.hovr < (s.reg tkeHoldlim).toNat))
    (hlow : ¬ (s.tick.role = .rackMaster ∧ reach.foldl min (s.nodeId.getD 0x1FFF) = s.nodeId.getD 0x1FFF)) :
    (holdoverLimitExpiryOp reach s).tick = { s.tick with
      own := .unlocked, crown := if s.tick.role = .rackMaster then some (reach.foldl min (s.nodeId.getD 0x1FFF)) else s.tick.crown } := by
  unfold holdoverLimitExpiryOp
  rw [if_neg h]
  dsimp only
  rw [if_neg hlow]
  split <;> simp

/-- A module that is no crown, or the crown of the lower node ID, takes no notice of another crown. -/
theorem crownMeetOp_keeps_crown {s : State} {other : Nat} (h : s.tick.role ≠ .crown ∨ s.nodeId.getD 0x1FFF ≤ other) : crownMeetOp other s = s :=
  if_pos h

/-- Of two crowns the one of the higher node ID yields. -/
theorem crownMeetOp_yields {s : State} {other : Nat} (h : ¬ (s.tick.role ≠ .crown ∨ s.nodeId.getD 0x1FFF ≤ other)) :
    (crownMeetOp other s).tick = { s.tick with crown := some other, role := .rackMaster, parent := some other, own := .unlocked } := by
  unfold crownMeetOp
  rw [if_neg h]
  simp

/-- Settles O12: the loss of a parent, the end of HOLDOVER and the meeting of crowns, each by the cases of its operation. -/
theorem holdoverAndCrowns : Obligations.HoldoverAndCrowns := by
  unfold Obligations.HoldoverAndCrowns
  refine ⟨?lost, ?limit, ?meet⟩
  case lost =>
    intro s cand hrole
    refine ⟨fun hheard => congrArg Host.Outcome.next (parentLostOp_heard cand (.inr hheard)), fun hlost => ⟨?alone, fun p hp => ?candidate⟩⟩
    case alone =>
      rintro rfl hown
      refine ⟨_, rfl, ?_⟩
      rw [parentLostOp_alone (by simp [hrole, hlost]) hown]
      simp
    case candidate =>
      obtain ⟨hmem, hleast⟩ := chooseParent_eq_some hp
      exact ⟨hmem, hleast, congrArg Host.Outcome.next (parentLostOp_candidate (by simp [hrole, hlost]) hp)⟩
  case limit =>
    intro s reach
    refine ⟨fun hwithin => congrArg Host.Outcome.next (holdoverLimitExpiryOp_within reach hwithin), fun hown hlimit => ⟨_, rfl, ?_⟩⟩
    have hreached : ¬ (s.tick.own ≠ .holdover ∨ s.tick.hovr < (s.reg tkeHoldlim).toNat) := by simp [hown, hlimit]
    by_cases hlow : s.tick.role = .rackMaster ∧ reach.foldl min (s.nodeId.getD 0x1FFF) = s.nodeId.getD 0x1FFF
    · rw [holdoverLimitExpiryOp_lowest hreached hlow, if_pos hlow, State.becomeCrown_tick_fields]
      refine ⟨rfl, rfl, rfl, rfl, rfl, fun n hn hne => ?_⟩
      rw [hn, Option.getD_some]
      exact if_neg hne
    · rw [holdoverLimitExpiryOp_other hreached hlow, if_neg hlow]
      exact ⟨rfl, rfl, rfl, rfl⟩
  case meet =>
    intro s other hrole
    refine ⟨_, rfl, ?_⟩
    by_cases hlower : other < s.nodeId.getD 0x1FFF
    · rw [if_pos hlower, crownMeetOp_yields (by simp [hrole, hlower])]
      exact ⟨rfl, rfl, rfl, rfl⟩
    · rw [if_neg hlower]
      exact crownMeetOp_keeps_crown (.inr (Nat.not_lt.mp hlower))

/-! Steps, holds, beacons sent and followers checked (R41, R50, R53, R58). -/

namespace State

/-- The counters moved by an offset of `d` rc from the crown, which no longer waits: stepped forward where they are behind, else held. -/
def moveBy (s : State) (d : Int) : State :=
  if d < 0 then (s.onTick fun t => { t with stepPend := none, slew := 0 }).stepTo (s.nowRc + d.natAbs)
  else (s.onTick fun t => { t with stepPend := none, slew := 0 }).holdFor d.natAbs

theorem moveBy_tick_behind (s : State) {d : Int} (h : d < 0) : (s.moveBy d).tick = { s.tick with
    stepPend := none, slew := 0, tick := (s.nowRc + d.natAbs) / s.tick.n, phase := (s.nowRc + d.natAbs) % s.tick.n } := by
  rw [moveBy, if_pos h, stepTo_tick]
  rfl

theorem moveBy_tick_ahead (s : State) {d : Int} (h : ¬ d < 0) :
    (s.moveBy d).tick = { s.tick with stepPend := none, slew := 0, hold := some d.natAbs } := by
  rw [moveBy, if_neg h, holdFor_tick]
  rfl

@[simp] theorem moveBy_out (s : State) (d : Int) : (s.moveBy d).out = s.out := by
  unfold moveBy
  split <;> simp

/-- The load to all followers: the count that is to be read in place of the present one. -/
def loadAll (s : State) (target : Nat) : Output :=
  .tickLoad none s.nowRc (target / s.tick.n) (target % s.tick.n) s.tick.n s.tick.pend 0 s.tick.own.code

end State

/-- At a tick boundary outside LOCKED and HOLDOVER a pending offset moves the counters, and the count that results goes to the followers. -/
theorem tickStepOrHoldOp_boundary {s : State} {d : Int} (hd : s.tick.stepPend = some d) (hphase : s.tick.phase = 0)
    (hlocked : s.tick.own ≠ .locked) (hholdover : s.tick.own ≠ .holdover) :
    tickStepOrHoldOp s = (s.moveBy d).emit (s.loadAll (if d < 0 then (s.moveBy d).nowRc else s.nowRc - d.natAbs)) := by
  have hturn : ¬ (s.tick.phase ≠ 0 ∨ s.tick.own = .locked ∨ s.tick.own = .holdover) := by simp [hphase, hlocked, hholdover]
  unfold tickStepOrHoldOp
  rw [hd]
  dsimp only
  rw [if_neg hturn]
  by_cases hneg : d < 0
  · simp only [hneg, if_true, State.moveBy, State.loadAll, State.stepTo_tick]
    rfl
  · simp only [hneg, if_false, State.moveBy, State.loadAll, State.nowRc, State.holdFor_tick]
    rfl

/-- A follower that the check finds away in LOCKED enters UNLOCKED. -/
theorem beaconCheckOp_stray_follower {s : State} {n m : Nat} {δ : Int} (hrole : s.tick.role.follows = true) (hnode : s.nodeId = some n)
    (hown : s.tick.own = .locked) (haway : 1 < δ.natAbs) :
    (beaconCheckOp n δ m s).tick = { s.tick with own := .unlocked, master := TState.ofCode m, sinceHeard := 0 } := by
  unfold beaconCheckOp
  rw [if_pos hrole, if_neg (not_not_intro hnode)]
  dsimp only
  rw [if_pos ⟨haway, hown⟩, State.enterT_tick, State.onTick_tick]

/-- A rack master notes a follower that the check finds away, and loads it again. -/
theorem beaconCheckOp_master {s : State} {n m : Nat} {δ : Int} (hrole : s.tick.role.follows = false) (haway : 1 < δ.natAbs) :
    beaconCheckOp n δ m s =
      (s.onTick fun t => { t with stray := if n ∈ t.stray then t.stray else t.stray ++ [n] }).sendLoad (some n) 0 0 := by
  unfold beaconCheckOp
  rw [if_neg (by rw [hrole]; decide), if_neg (by omega)]

/-- A rack master or crown whose interval has passed sends its beacon. -/
theorem beaconSendOp_due {s : State} (sub : Nat) (hrole : s.tick.role.follows = false) (hdue : s.tick.interval ≤ s.tick.sinceSent) :
    beaconSendOp sub s = (s.onTick fun t => { t with sinceSent := 0 }).emit (.beacon
      { sender := s.nodeId.getD 0x1FFF, crown := s.tick.crown.getD 0x1FFF, tick := BitVec.ofNat 64 s.tick.tick,
        phase := s.tick.phase, sub := sub, n := s.tick.n, pend := s.tick.pend.map fun p => (p.1, BitVec.ofNat 64 p.2),
        crownOfs := if s.tick.role = .crown then 0 else s.tick.crownOfs }) := by
  unfold beaconSendOp
  rw [if_neg (by rw [hrole]; simpa using hdue)]

/-- Settles O13: each command by the case of its operation in which it acts. -/
theorem stepsHoldsAndBeaconsLeaveTheRest : Obligations.StepsHoldsAndBeaconsLeaveTheRest := by
  unfold Obligations.StepsHoldsAndBeaconsLeaveTheRest
  refine ⟨?step, ?holdEnd, ?send, ?follower, ?master, ?period⟩
  case step =>
    intro s d hd hphase hlocked hholdover
    refine ⟨_, rfl, ?_⟩
    rw [tickStepOrHoldOp_boundary hd hphase hlocked hholdover, State.emit_tick, State.emit_out, State.moveBy_out]
    by_cases hneg : d < 0
    · rw [if_pos hneg, s.moveBy_tick_behind hneg]
      exact ⟨rfl, rfl, fun _ => ⟨rfl, rfl, rfl⟩, fun hpos => absurd hneg (not_lt.mpr hpos)⟩
    · rw [if_neg hneg, s.moveBy_tick_ahead hneg]
      exact ⟨rfl, rfl, fun hlt => absurd hlt hneg, fun _ => ⟨rfl, hphase, rfl, rfl⟩⟩
  case holdEnd =>
    intro s hhold
    exact congrArg Host.Outcome.next (if_pos hhold)
  case send =>
    intro s sub hrole hdue
    exact ⟨_, congrArg Host.Outcome.next (beaconSendOp_due sub hrole hdue), rfl, rfl, rfl, rfl, rfl, rfl⟩
  case follower =>
    intro s n δ m hrole hnode hown haway
    exact ⟨_, rfl, beaconCheckOp_stray_follower hrole hnode hown haway⟩
  case master =>
    intro s n δ m hrole haway
    refine ⟨_, congrArg Host.Outcome.next (beaconCheckOp_master hrole haway), ?_, rfl⟩
    show n ∈ if n ∈ s.tick.stray then s.tick.stray else s.tick.stray ++ [n]
    split
    · assumption
    · simp
  case period =>
    intro s n b hnone
    exact congrArg Host.Outcome.next (if_neg (by rw [hnone]; decide))

end Sys2Proof.Machine

/-! SUPPORT. One cycle of the reference clock (R39, R42 to R44, R48, R58, R60): the order in which what is due fires, what the cycle does to the
tick block, what it leaves where nothing is due, and O6. -/

namespace Sys2Proof.Machine

/-! The order of what is due (R42 to R44). -/

/-- The model's sort is insertion sort. -/
theorem sortBy_eq_insertionSort {β : Type} (l : List β) (le : β → β → Bool) : l.sortBy le = l.insertionSort (fun a b => le a b = true) := by
  have hplace : ∀ (b : β) (r : List β), List.sortBy.place le b r = r.orderedInsert (fun a b => le a b = true) b := by
    intro b r
    induction r with
    | nil => rfl
    | cons c r ih => rw [List.sortBy.place, List.orderedInsert_cons, ih]
  induction l with
  | nil => rfl
  | cons a l ih =>
    rw [List.insertionSort_cons, ← ih, ← hplace]
    rfl

/-- Of two armed events one comes first. -/
theorem Armed.first_total (a b : Armed) : a.first b = true ∨ b.first a = true := by
  simp only [Armed.first, decide_eq_true_eq]
  omega

theorem Armed.first_trans {a b c : Armed} (hab : a.first b = true) (hbc : b.first c = true) : a.first c = true := by
  simp only [Armed.first, decide_eq_true_eq] at hab hbc ⊢
  omega

namespace State

/-- What is due comes in the order of its firing. -/
theorem due_sorted (s : State) : s.due.Pairwise fun a b => a.first b = true := by
  have : Std.Total fun a b : Armed => a.first b = true := ⟨Armed.first_total⟩
  have : IsTrans Armed fun a b => a.first b = true := ⟨fun _ _ _ => Armed.first_trans⟩
  rw [due, sortBy_eq_insertionSort]
  exact List.pairwise_insertionSort _ _

/-- An armed event is due exactly when its time has come. -/
theorem mem_due {s : State} {a : Armed} :
    a ∈ s.due ↔ a ∈ s.armedProfile ++ s.armedLedger ++ s.armedTable ++ s.armedOther ∧ s.reached a.tick a.ofs = true := by
  rw [due, sortBy_eq_insertionSort, List.mem_insertionSort, List.mem_filter]

/-! What a cycle sends before the counters advance. -/

/-- Nothing fires where nothing is due, and nothing fires in a hold. -/
theorem fireDue_quiet {s : State} (h : s.due = [] ∨ s.tick.holding = true) : s.fireDue = s := by
  unfold fireDue
  rcases h with h | h
  · rw [h, List.map_nil, List.foldl_nil, ite_self]
  · rw [if_pos h]

/-- A beacon that is sent restarts the count of its interval, and nothing else of the tick block changes. -/
theorem beaconDue_tick_fields (s : State) : ∃ k, s.beaconDue.tick = { s.tick with sinceSent := k } := by
  unfold beaconDue beaconSendOp
  split
  · exact ⟨s.tick.sinceSent, rfl⟩
  · exact ⟨0, rfl⟩

end State

theorem moduleHeartbeatOp_role (pos : Nat) (s : State) : (moduleHeartbeatOp pos s).net.role = s.net.role := by
  unfold moduleHeartbeatOp
  dsimp only
  split <;> split <;> rfl

theorem managerHeartbeatOp_role (s : State) : (managerHeartbeatOp s).net.role = s.net.role := by
  unfold managerHeartbeatOp
  split <;> rfl

theorem stewardHeartbeatOp_role (s : State) : (stewardHeartbeatOp s).net.role = s.net.role := by
  unfold stewardHeartbeatOp
  split <;> rfl

namespace State

/-- The heartbeats leave the module's role in its rack. -/
theorem heartbeatsDue_role (s : State) : s.heartbeatsDue.net.role = s.net.role := by
  have hmodule : (if s.nodeId.isSome then moduleHeartbeatOp s.net.pos s else s).net.role = s.net.role := by
    split
    · exact moduleHeartbeatOp_role _ s
    · rfl
  unfold heartbeatsDue
  dsimp only
  split
  · rw [stewardHeartbeatOp_role, managerHeartbeatOp_role, hmodule]
  · rw [managerHeartbeatOp_role, hmodule]

/-- A module that is no rack master only sends its report. -/
theorem reportDue_keeps_worker {m : Nat} (s : State) (hrole : s.net.role ≠ 1) (hm : (m ||| 0x21000) = m) : Keeps m s s.reportDue := by
  have hnet : (m ||| 0x1000) = m := Keeps.sub hm (by decide)
  have hout : (m ||| 0x20000) = m := Keeps.sub hm (by decide)
  unfold reportDue
  dsimp only
  rw [if_neg hrole]
  split
  · exact .refl m s
  · exact emit_keeps _ _ hout (onNet_keeps s _ hnet (.refl m s))

/-- The counts of errors start again at the end of a window; no byte and no frame of the memories changes. -/
theorem errWindow_bytes (s : State) : s.errWindow.mem.near = s.mem.near ∧ s.errWindow.mem.wide = s.mem.wide ∧
    s.errWindow.mem.deep = s.mem.deep ∧ s.errWindow.mem.tmap = s.mem.tmap := by
  unfold errWindow
  dsimp only
  split <;> exact ⟨rfl, rfl, rfl, rfl⟩

end State

/-! The counters (R39, R48, R58). -/

namespace TickSt

theorem bump_fields (t : TickSt) : t.bump.phase = (if t.phase + 1 < t.n then t.phase + 1 else 0) ∧
    t.bump.tick = (if t.phase + 1 < t.n then t.tick else t.tick + 1) ∧ t.bump.n = t.n := by
  unfold bump
  split <;> exact ⟨rfl, rfl, rfl⟩

/-- In a hold both counters stand, and one cycle of it passes. -/
theorem cycle_of_hold {t : TickSt} {k : Nat} (hclk : t.refclk = true) (hhold : t.hold = some (k + 1)) :
    t.cycle = { t.waits with hold := some k } := by
  have hwaits : t.waits.hold = some (k + 1) := hhold
  unfold cycle advance
  rw [if_neg (by rw [hclk]; decide), hwaits]

/-- Without a hold, in a module that is no following rack master, the phase advances by one. -/
theorem cycle_of_free {t : TickSt} (hclk : t.refclk = true) (hhold : t.hold = none) (hrole : t.role ≠ .rackMaster) :
    t.cycle = ({ t.waits with hold := none } : TickSt).bump := by
  have hwaits : t.waits.hold = none := hhold
  unfold cycle advance
  rw [if_neg (by rw [hclk]; decide), hwaits]
  exact if_neg hrole

end TickSt

/-! The cycle. -/

namespace State

/-- The state in which the counters advance, where nothing fires before them. -/
def quiet (s : State) : State := s.beaconDue.heartbeatsDue.reportDue.passCorrection

end State

/-- Without REFCLK nothing happens. -/
theorem tickAdvanceOp_stopped {s : State} (hclk : s.tick.refclk = false) : tickAdvanceOp s = s := by
  unfold tickAdvanceOp
  rw [if_neg (by rw [hclk]; decide)]

/-- Where nothing fires, what is to be sent is sent and the counters advance. -/
theorem tickAdvanceOp_quiet {s : State} (hclk : s.tick.refclk = true) (hquiet : s.due = [] ∨ s.tick.holding = true) :
    tickAdvanceOp s = (s.quiet.onTick TickSt.cycle).errWindow := by
  unfold tickAdvanceOp State.quiet
  rw [if_pos hclk, State.fireDue_quiet hquiet]

namespace State

/-- Of the tick block only the count of the beacon interval can change before the counters advance. -/
theorem quiet_tick (s : State) : ∃ k, s.quiet.tick = { s.tick with sinceSent := k } := by
  obtain ⟨k, hbeacon⟩ := s.beaconDue_tick_fields
  have hkeeps : Keeps 0x2B800 s.beaconDue s.quiet :=
    passCorrection_keeps _ (by decide) (reportDue_keeps _ (by decide) (heartbeatsDue_keeps _ (by decide) (.refl _ _)))
  exact ⟨k, hkeeps.tick.trans hbeacon⟩

/-- What is sent before the counters advance leaves every block but those of the tick block, the steward, the links, the output, the free values and
those that the report changes. -/
theorem quiet_keeps {m : Nat} (s : State) (hm : (m ||| 0x61801) = m)
    (hreport : Keeps m s.beaconDue.heartbeatsDue s.beaconDue.heartbeatsDue.reportDue) : Keeps m s s.quiet := by
  have hbeacon : Keeps m s s.beaconDue := beaconDue_keeps s (Keeps.sub hm (by decide)) (.refl m s)
  have hbeats : Keeps m s s.beaconDue.heartbeatsDue := heartbeatsDue_keeps _ (Keeps.sub hm (by decide)) hbeacon
  exact passCorrection_keeps _ (Keeps.sub hm (by decide)) (hreport.step (Nat.or_self m) hbeats)

theorem quiet_keeps_master (s : State) : Keeps 0x6B801 s s.quiet :=
  s.quiet_keeps (by decide) (reportDue_keeps _ (by decide) (.refl _ _))

theorem quiet_keeps_worker (s : State) (hrole : s.net.role ≠ 1) : Keeps 0x61801 s s.quiet := by
  refine s.quiet_keeps (by decide) (reportDue_keeps_worker _ ?_ (by decide))
  have hbeacon : Keeps 0x60001 s s.beaconDue := beaconDue_keeps s (by decide) (.refl _ s)
  rwa [heartbeatsDue_role, hbeacon.net]

end State

/-- The blocks that a cycle in which nothing fires may change, those of the report included. -/
theorem tickAdvanceOp_quiet_keeps {m : Nat} {s : State} (hclk : s.tick.refclk = true) (hquiet : s.due = [] ∨ s.tick.holding = true)
    (hm : (m ||| 0x4041) = m) (h : State.Keeps m s s.quiet) : State.Keeps m s (tickAdvanceOp s) := by
  rw [tickAdvanceOp_quiet hclk hquiet]
  exact State.errWindow_keeps _ (State.Keeps.sub hm (by decide)) (State.onTick_keeps _ _ (State.Keeps.sub hm (by decide)) h)

/-- The tick block after a cycle in which nothing fires. -/
theorem tickAdvanceOp_quiet_tick {s : State} (hclk : s.tick.refclk = true) (hquiet : s.due = [] ∨ s.tick.holding = true) :
    ∃ k, (tickAdvanceOp s).tick = ({ s.tick with sinceSent := k } : TickSt).cycle := by
  obtain ⟨k, hk⟩ := s.quiet_tick
  have hwindow : State.Keeps 0x4040 (s.quiet.onTick TickSt.cycle) (s.quiet.onTick TickSt.cycle).errWindow :=
    State.errWindow_keeps _ (by decide) (.refl _ _)
  refine ⟨k, ?_⟩
  rw [tickAdvanceOp_quiet hclk hquiet, hwindow.tick, State.onTick_tick, hk]

/-- The bytes of the memories after a cycle in which nothing fires. -/
theorem tickAdvanceOp_quiet_bytes {s : State} (hclk : s.tick.refclk = true) (hquiet : s.due = [] ∨ s.tick.holding = true) :
    (tickAdvanceOp s).mem.near = s.mem.near ∧ (tickAdvanceOp s).mem.wide = s.mem.wide ∧ (tickAdvanceOp s).mem.deep = s.mem.deep ∧
      (tickAdvanceOp s).mem.tmap = s.mem.tmap := by
  have hbytes := (s.quiet.onTick TickSt.cycle).errWindow_bytes
  rw [State.onTick_mem, s.quiet_keeps_master.mem] at hbytes
  rwa [tickAdvanceOp_quiet hclk hquiet]

theorem TickSt.holding_of_hold {t : TickSt} {k : Nat} (h : t.hold = some (k + 1)) : t.holding = true := by
  unfold TickSt.holding
  rw [h]

/-- Settles O6: the cycle in which nothing fires, by what it sends and by what the counters do, and the order of what is due. -/
theorem refclkCycleAdvancesTheTick : Obligations.RefclkCycleAdvancesTheTick := by
  unfold Obligations.RefclkCycleAdvancesTheTick
  refine ⟨fun s => ⟨tickAdvanceOp s, rfl, tickAdvanceOp_stopped, ?counts, ?held, ?frame⟩,
    fun s => ⟨s.due_sorted, fun a ha htime => State.mem_due.mpr ⟨ha, htime⟩⟩⟩
  case counts =>
    intro hclk hdue hhold hrole
    obtain ⟨k, htick⟩ := tickAdvanceOp_quiet_tick hclk (.inl hdue)
    rw [htick, TickSt.cycle_of_free (t := { s.tick with sinceSent := k }) hclk hhold hrole]
    exact TickSt.bump_fields _
  case held =>
    intro k hclk hhold
    obtain ⟨j, htick⟩ := tickAdvanceOp_quiet_tick hclk (.inr (TickSt.holding_of_hold hhold))
    rw [htick, TickSt.cycle_of_hold (t := { s.tick with sinceSent := j }) hclk hhold]
    exact ⟨rfl, rfl, rfl⟩
  case frame =>
    intro hquiet
    cases hclk : s.tick.refclk with
    | false =>
      rw [tickAdvanceOp_stopped hclk]
      exact ⟨State.OnlyChanges.refl s _, rfl, rfl, rfl, rfl, fun _ => ⟨rfl, rfl⟩⟩
    | true =>
      have hkeeps : State.Keeps 0x6F841 s (tickAdvanceOp s) :=
        tickAdvanceOp_quiet_keeps hclk hquiet (by decide) (s.quiet_keeps_master.mono (by decide))
      obtain ⟨hnear, hwide, hdeep, htmap⟩ := tickAdvanceOp_quiet_bytes hclk hquiet
      refine ⟨hkeeps.only (by decide), hnear, hwide, hdeep, htmap, fun hrole => ?_⟩
      have hworker : State.Keeps 0x65841 s (tickAdvanceOp s) :=
        tickAdvanceOp_quiet_keeps hclk hquiet (by decide) ((s.quiet_keeps_worker hrole).mono (by decide))
      exact ⟨hworker.regs, hworker.host⟩

end Sys2Proof.Machine

/-! SUPPORT. Schedule faults and cell exceptions (R98 to R101, R158, R431): the stop of the pattern, the fault of its glove, and O15. -/

namespace Sys2Proof.Machine

open Adr

/-! Patterns, gloves, sequencers and rows as they are read: after their own update, and by the block that holds them. -/

namespace State

@[simp] theorem pat_onPat_same (s : State) (g : Nat) (f : PatSt → PatSt) : (s.onPat g f).pat g = f (s.pat g) := SMap.at_upd_same _ _ _

@[simp] theorem gsq_onGsq_same (s : State) (q : Nat) (f : GsqSt → GsqSt) : (s.onGsq q f).gsq q = f (s.gsq q) := SMap.at_upd_same _ _ _

@[simp] theorem glove_onGlv_same (s : State) (g : Nat) (f : GloveSt → GloveSt) : (s.onGlv g f).glove g = f (s.glove g) := SMap.at_upd_same _ _ _

@[simp] theorem repair_onRepair_same (s : State) (die row : Nat) (f : RowRepair → RowRepair) :
    (s.onRepair die row f).repair die row = f (s.repair die row) := SMap.at_upd_same _ _ _

theorem pat_of_seq {s t : State} (h : t.seq = s.seq) (g : Nat) : t.pat g = s.pat g := congrArg (·.pats.at g) h

theorem patRuns_of_seq {s t : State} (h : t.seq = s.seq) (g : Nat) : t.patRuns g = s.patRuns g := by
  unfold patRuns
  rw [pat_of_seq h]

theorem patRuns_iff {s : State} {g : Nat} : s.patRuns g = true ↔ (s.pat g).valid = true ∧ (s.pat g).done = false := by
  unfold patRuns
  rw [Bool.and_eq_true, Bool.not_eq_true']

theorem glove_of_glv {s t : State} (h : t.glv = s.glv) (g : Nat) : t.glove g = s.glove g := congrArg (·.at g) h

theorem patStopped_of_pat {s t : State} {g : Nat} (h : t.pat g = s.pat g) : t.patStopped g = s.patStopped g := by
  unfold patStopped
  rw [h]

/-! The fault of a glove whose pattern runs (R100, R431). -/

/-- What is discarded with an armed switch is in the sequencer: the patterns stay. -/
theorem discardArm_pats (s : State) (q : Nat) : (s.discardArm q).seq.pats = s.seq.pats := by
  unfold discardArm
  cases (s.gsq q).arm <;> rfl

/-- The pattern of glove `g` runs with no stop decided, one decided at cycle `c` lies ahead of it, and a fault of the glove would be its first. -/
structure Faultable (s : State) (g c : Nat) : Prop where
  runs : s.patRuns g = true
  unstopped : (s.pat g).stopAt = none
  ahead : (s.pat g).cycle < c + (s.pat g).lf
  live : (s.glove g).live = true
  notResetting : (s.glove g).resetting = false
  notFaulted : (s.glove g).faulted = none
  notStuck : (s.glove g).stuck = false

/-- In `t` the pattern of glove `g` is to stop for good before cycle `stop`, the glove is faulted with `cause`, and sequencer `q` stands in FAULTED. -/
def PatternFaulted (g q stop cause : Nat) (t : State) : Prop :=
  (t.pat g).faulted = true ∧ (t.pat g).stopAt = some stop ∧ (∃ b, (t.glove g).faulted = some (cause, b)) ∧ (t.gsq q).state = .faulted

/-- The error of a glove's fault is counted and logged, and its sequencer stops (R431). -/
def sequencerFaulted (s : State) (g cause : Nat) (detail : Word) : State :=
  ((s.errClass 2 7 g cause g detail).discardArm (s.glove g).gsq).onGsq (s.glove g).gsq fun x =>
    { x with state := .faulted, cause := gsqCause cause, waitFor := none, deadline := none, sw := none }

theorem sequencerFaulted_pat (s : State) (g cause : Nat) (detail : Word) : (s.sequencerFaulted g cause detail).pat g = s.pat g := by
  have herr : Keeps 0x8000 s (s.errClass 2 7 g cause g detail) := errClass_keeps _ _ _ _ _ _ _ (by decide) (.refl _ _)
  have hpats : (s.sequencerFaulted g cause detail).seq.pats = (s.errClass 2 7 g cause g detail).seq.pats := discardArm_pats _ _
  exact (congrArg (·.at g) hpats).trans (pat_of_seq herr.seq g)

theorem sequencerFaulted_gsq (s : State) (g cause : Nat) (detail : Word) :
    ((s.sequencerFaulted g cause detail).gsq (s.glove g).gsq).state = .faulted := by
  unfold sequencerFaulted
  rw [gsq_onGsq_same]

/-- A glove whose pattern still runs is faulted, and begins no reset yet. -/
theorem faultGlove_of_running {s : State} {g : Nat} (cause : Nat) (detail : Word) (hlive : (s.glove g).live = true)
    (hreset : (s.glove g).resetting = false) (hfault : (s.glove g).faulted = none) (hstuck : (s.glove g).stuck = false)
    (hrun : s.patStopped g = false) : s.faultGlove g cause detail = (s.sequencerFaulted g cause detail).onGlv g fun v =>
      { v with faulted := some (cause, s.tick.tick + s.fld (glvEcfg g) 36 16) } := by
  have hgoes : ((s.sequencerFaulted g cause detail).onGlv g fun v =>
      { v with faulted := some (cause, s.tick.tick + s.fld (glvEcfg g) 36 16) }).patStopped g = false :=
    (patStopped_of_pat (s.sequencerFaulted_pat g cause detail)).trans hrun
  unfold faultGlove
  rw [if_neg (by simp [hlive, hreset, hfault, hstuck])]
  exact if_neg fun h => Bool.false_ne_true (hgoes.symm.trans h.2.1)

theorem stopPattern_pat {s : State} {g : Nat} (c : Nat) (h : (s.pat g).stopAt = none) :
    (s.stopPattern g c).pat g = { s.pat g with faulted := true, stopAt := some (c + (s.pat g).lf) } := by
  unfold stopPattern
  rw [pat_onPat_same, h]

namespace Faultable

theorem of_blocks {s t : State} {g c : Nat} (h : s.Faultable g c) (hseq : t.seq = s.seq) (hglv : t.glv = s.glv) : t.Faultable g c := by
  have hpat := pat_of_seq hseq g
  have hglove := glove_of_glv hglv g
  exact ⟨(patRuns_of_seq hseq g).trans h.runs, hpat ▸ h.unstopped, hpat ▸ h.ahead, hglove ▸ h.live, hglove ▸ h.notResetting, hglove ▸ h.notFaulted,
    hglove ▸ h.notStuck⟩

/-- The stop lies ahead, so the pattern has not stopped with its decision. -/
theorem stopPattern_goes_on {s : State} {g c : Nat} (h : s.Faultable g c) : (s.stopPattern g c).patStopped g = false := by
  obtain ⟨hvalid, hdone⟩ := patRuns_iff.mp h.runs
  have hahead := h.ahead
  unfold patStopped
  rw [stopPattern_pat c h.unstopped]
  simp [hvalid, hdone, hahead]

/-- The stop of the pattern, and the fault of its glove. -/
theorem faulted {s : State} {g c : Nat} (h : s.Faultable g c) (cause : Nat) (detail : Word) :
    PatternFaulted g (s.glove g).gsq (c + (s.pat g).lf) cause ((s.stopPattern g c).faultGlove g cause detail) := by
  have hpat := stopPattern_pat c h.unstopped
  have hkept : ((s.stopPattern g c).sequencerFaulted g cause detail).pat g = (s.stopPattern g c).pat g := sequencerFaulted_pat _ _ _ _
  rw [faultGlove_of_running (s := s.stopPattern g c) cause detail h.live h.notResetting h.notFaulted h.notStuck h.stopPattern_goes_on]
  refine ⟨?_, ?_, ⟨_, congrArg GloveSt.faulted (glove_onGlv_same _ _ _)⟩, sequencerFaulted_gsq (s.stopPattern g c) g cause detail⟩
  · exact congrArg PatSt.faulted (hkept.trans hpat)
  · exact congrArg PatSt.stopAt (hkept.trans hpat)

/-- The same after a step that changes registers and dies alone, such as the log of the fault. -/
theorem faulted_after_log {s u : State} {g c : Nat} (h : s.Faultable g c) (hlog : Keeps 0x8008 s u) (cause : Nat) (detail : Word) :
    PatternFaulted g (s.glove g).gsq (c + (s.pat g).lf) cause ((u.stopPattern g c).faultGlove g cause detail) := by
  have hu := (h.of_blocks hlog.seq hlog.glv).faulted cause detail
  rwa [pat_of_seq hlog.seq, glove_of_glv hlog.glv] at hu

end Faultable

end State

/-! Schedule faults and cell exceptions (R98 to R101, R158, R163). -/

theorem scheduleFaultOp_idle {f : SFault} {s : State} (h : s.patRuns f.glove = false) : scheduleFaultOp f s = s := by
  unfold scheduleFaultOp
  rw [h, if_neg Bool.false_ne_true]

theorem scheduleFaultOp_running {f : SFault} {s : State} (h : s.patRuns f.glove = true) : scheduleFaultOp f s = s.schedFault f := by
  unfold scheduleFaultOp
  rw [h, if_pos rfl]

theorem cellExceptionOp_idle {f : XFault} {s : State} (h : s.patRuns f.glove = false) : cellExceptionOp f s = s := by
  unfold cellExceptionOp
  rw [h, if_neg Bool.false_ne_true]

theorem cellExceptionOp_running {f : XFault} {s : State} (h : s.patRuns f.glove = true) : cellExceptionOp f s = s.cellExc f := by
  unfold cellExceptionOp
  rw [h, if_pos rfl]

namespace State.Faultable

theorem schedFault {s : State} {f : SFault} (h : s.Faultable f.glove f.cycle) :
    PatternFaulted f.glove (s.glove f.glove).gsq (f.cycle + (s.pat f.glove).lf) 1 (s.schedFault f) := by
  have hlog : Keeps 0x8008 s ((s.logSched f).raise (arrEvt f.die) 0) :=
    raise_keeps _ _ _ _ (by decide) (logSched_keeps s f (by decide) (.refl _ s))
  exact h.faulted_after_log hlog 1 _

theorem cellExc {s : State} {f : XFault} (h : s.Faultable f.glove f.cycle) :
    PatternFaulted f.glove (s.glove f.glove).gsq (f.cycle + (s.pat f.glove).lf) 2 (s.cellExc f) := by
  have hlog : Keeps 0x8008 s ((s.logExc f).raise (celEvt f.die) 0) :=
    raise_keeps _ _ _ _ (by decide) (logExc_keeps s f (by decide) (.refl _ s))
  exact h.faulted_after_log hlog 2 _

end State.Faultable

/-- Settles O15: a fault is logged, its pattern is to stop L_f cycles on, and so the glove is faulted before its pattern has stopped. -/
theorem scheduleFaultsAndCellExceptionsStopTheirPattern : Obligations.ScheduleFaultsAndCellExceptionsStopTheirPattern := by
  unfold Obligations.ScheduleFaultsAndCellExceptionsStopTheirPattern
  constructor
  case left =>
    intro f s
    have hkeeps : State.Keeps 0x6A8F8 s (scheduleFaultOp f s) := scheduleFaultOp_keeps f s (by decide) (.refl _ s)
    refine ⟨scheduleFaultOp f s, rfl, hkeeps.only (by decide), scheduleFaultOp_idle, ?_⟩
    intro hrun hstop hahead hlive hreset hfault hstuck
    rw [scheduleFaultOp_running hrun]
    exact State.Faultable.schedFault ⟨hrun, hstop, hahead, hlive, hreset, hfault, hstuck⟩
  case right =>
    intro f s
    have hkeeps : State.Keeps 0x6A8F8 s (cellExceptionOp f s) := cellExceptionOp_keeps f s (by decide) (.refl _ s)
    refine ⟨cellExceptionOp f s, rfl, hkeeps.only (by decide), cellExceptionOp_idle, ?_⟩
    intro hrun hstop hahead hlive hreset hfault hstuck
    rw [cellExceptionOp_running hrun]
    exact State.Faultable.cellExc ⟨hrun, hstop, hahead, hlive, hreset, hfault, hstuck⟩

end Sys2Proof.Machine

/-! SUPPORT. Lattice crossings and repair chains (R90, R102 to R106): what they do to the edges, the patterns and the rows, and O17. -/

namespace Sys2Proof.Machine

open Adr

/-! Crossings (R90, R112). -/

namespace State

/-- An update that settles an edge (a second one changes no more) is read at both its ends, and nowhere else. -/
theorem onEdge_edges_at (s : State) (die edge other : Nat) {f : EdgeSt → EdgeSt} (hsettles : ∀ x, f (f x) = f x) (k : Nat) :
    (s.onEdge die edge other f).arr.edges.at k =
      if k = 4 * die + edge ∨ k = 4 * other + edgeBack edge then f (s.arr.edges.at k) else s.arr.edges.at k := by
  show ((s.arr.edges.upd (4 * die + edge) f).upd (4 * other + edgeBack edge) f).at k = _
  by_cases hfar : k = 4 * other + edgeBack edge
  · subst hfar
    rw [if_pos (.inr rfl), SMap.at_upd_same]
    by_cases hnear : 4 * other + edgeBack edge = 4 * die + edge
    · rw [hnear, SMap.at_upd_same, hsettles]
    · rw [SMap.at_upd_other _ _ hnear]
  · rw [SMap.at_upd_other _ _ hfar]
    by_cases hnear : k = 4 * die + edge
    · subst hnear
      rw [if_pos (.inl rfl), SMap.at_upd_same]
    · rw [if_neg (not_or.mpr ⟨hnear, hfar⟩), SMap.at_upd_other _ _ hnear]

/-- What the loss of margin does to the edge and its event register (R90, R114). -/
def loseMargin (s : State) (die edge other : Nat) : State :=
  (s.onEdge die edge other fun x => { x with marginLow := true, trained := false }).raise (arrEvt die) 2

theorem loseMargin_seq (s : State) (die edge other : Nat) : (s.loseMargin die edge other).seq = s.seq := raise_seq _ _ _ _

theorem loseMargin_edges_at (s : State) (die edge other k : Nat) : (s.loseMargin die edge other).arr.edges.at k =
    if k = 4 * die + edge ∨ k = 4 * other + edgeBack edge then { s.arr.edges.at k with marginLow := true, trained := false }
    else s.arr.edges.at k := by
  unfold loseMargin
  rw [raise_arr, onEdge_edges_at s die edge other (f := fun x => { x with marginLow := true, trained := false }) fun _ => rfl]

end State

/-- The schedule fault that the pattern `p` of glove `g` takes at its present cycle where a crossing that it uses loses margin (R90). -/
def crossingFault (die edge chan g : Nat) (p : PatSt) : SFault :=
  { glove := g, cause := 6, die := die, row := (edgeSite edge chan).1, col := (edgeSite edge chan).2.1, ctx := p.slot,
    port := (edgeSite edge chan).2.2, cycle := p.cycle }

theorem crossingMarginLossOp_outer {die edge : Nat} (chan : Nat) (s : State) (h : dieBeyond die edge = none) :
    crossingMarginLossOp die edge chan s = s := by
  unfold crossingMarginLossOp
  rw [h]

theorem crossingMarginLossOp_inner {die edge other : Nat} (chan : Nat) (s : State) (h : dieBeyond die edge = some other) :
    crossingMarginLossOp die edge chan s =
      (s.edgeGloves die other).foldl (fun t g => t.schedFault (crossingFault die edge chan g (t.pat g))) (s.loseMargin die edge other) := by
  unfold crossingMarginLossOp
  rw [h]
  rfl

/-- With no pattern across it, a crossing that loses margin changes its two ends and the event register. -/
theorem crossingMarginLossOp_unused {die edge other : Nat} (chan : Nat) (s : State) (h : dieBeyond die edge = some other)
    (hnone : s.edgeGloves die other = []) : crossingMarginLossOp die edge chan s = s.loseMargin die edge other := by
  rw [crossingMarginLossOp_inner chan s h, hnone, List.foldl_nil]

/-- The one pattern across a crossing that loses margin takes the schedule fault of its port. -/
theorem crossingMarginLossOp_single {die edge other g : Nat} (chan : Nat) (s : State) (h : dieBeyond die edge = some other)
    (hone : s.edgeGloves die other = [g]) (hrun : s.patRuns g = true) :
    crossingMarginLossOp die edge chan s = scheduleFaultOp (crossingFault die edge chan g (s.pat g)) (s.loseMargin die edge other) := by
  have hseq := s.loseMargin_seq die edge other
  have hruns : (s.loseMargin die edge other).patRuns (crossingFault die edge chan g (s.pat g)).glove = true :=
    (State.patRuns_of_seq hseq g).trans hrun
  rw [crossingMarginLossOp_inner chan s h, hone, scheduleFaultOp_running hruns, List.foldl_cons, List.foldl_nil, State.pat_of_seq hseq]

theorem crossingRetrainCompleteOp_outer {die edge : Nat} (s : State) (h : dieBeyond die edge = none) :
    crossingRetrainCompleteOp die edge s = s := by
  unfold crossingRetrainCompleteOp
  rw [h]

theorem crossingRetrainCompleteOp_fenced {die : Nat} (edge : Nat) {s : State} (h : s.dieFenced die = true) :
    crossingRetrainCompleteOp die edge s = s := by
  unfold crossingRetrainCompleteOp
  cases dieBeyond die edge with
  | none => rfl
  | some other => exact if_neg (by simp [h])

theorem crossingRetrainCompleteOp_released {die edge other : Nat} {s : State} (h : dieBeyond die edge = some other)
    (hdie : (s.dies.at die).bring = 4) (hdieIn : s.dieFenced die = false) (hother : (s.dies.at other).bring = 4)
    (hotherIn : s.dieFenced other = false) :
    crossingRetrainCompleteOp die edge s = s.onEdge die edge other fun _ => { trained := true, marginLow := false } := by
  unfold crossingRetrainCompleteOp
  rw [h]
  exact if_pos (by simp [hdie, hdieIn, hother, hotherIn])

/-! Repair chains (R102 to R106). -/

namespace State

theorem chainFree_of_palms {s t : State} (h : t.arr.palms = s.arr.palms) (die row f : Nat) : t.chainFree die row f = s.chainFree die row f := by
  unfold chainFree palm
  rw [h]

/-- A row in which the chain of a kind is formed, and waits no more. -/
def chained (k : Kind) (f : Nat) (service : Bool) (r : RowRepair) : RowRepair :=
  match k with
  | .c => { r with cWait := none, cCol := some f, cSrc := service }
  | .m => { r with mWait := none, mCol := some f, mSrc := service }

theorem chainOf_chained (k : Kind) (f : Nat) (service : Bool) (r : RowRepair) : chainOf (chained k f service r) k = some f := by
  cases k <;> rfl

/-- The end of a palm's wait is a change of the palms alone. -/
theorem endWait_arr (s : State) (p : Nat) : ∃ ps, (s.endWait p).arr = { s.arr with palms := ps } := by
  unfold endWait
  split
  · exact ⟨_, rfl⟩
  · exact ⟨_, rfl⟩

/-- The row of a chain as it is formed, before the palm of the chain that waited is released (R102). -/
def putChain (s : State) (die row : Nat) (k : Kind) (f : Nat) (service : Bool) : State :=
  (s.clearWait die row k).onRepair die row fun r =>
    match k with | .c => { r with cCol := some f, cSrc := service } | .m => { r with mCol := some f, mSrc := service }

theorem putChain_repair (s : State) (die row : Nat) (k : Kind) (f : Nat) (service : Bool) :
    (s.putChain die row k f service).repair die row = chained k f service (s.repair die row) := by
  unfold putChain clearWait
  rw [repair_onRepair_same, repair_onRepair_same]
  cases k <;> rfl

/-- Of the array a formed chain changes its row, and the palm whose wait ends. -/
theorem formChain_arr (s : State) (die row : Nat) (k : Kind) (f : Nat) (service : Bool) :
    ∃ ps, (s.formChain die row k f service).arr = { (s.putChain die row k f service).arr with palms := ps } := by
  have hraise : ∀ u : State, (if service = true then u.raise (arrEvt die) 3 else u).arr = u.arr := fun u => by
    split
    · exact raise_arr _ _ _ _
    · rfl
  unfold formChain
  dsimp only
  rw [hraise]
  cases chainWait (s.repair die row) k with
  | none => exact ⟨_, rfl⟩
  | some w => exact endWait_arr _ _

theorem formChain_repair (s : State) (die row : Nat) (k : Kind) (f : Nat) (service : Bool) :
    (s.formChain die row k f service).repair die row = chained k f service (s.repair die row) := by
  obtain ⟨ps, harr⟩ := s.formChain_arr die row k f service
  exact (congrArg (fun a => a.repair.at (24 * die + row)) harr).trans (putChain_repair s die row k f service)

theorem formChain_failed (s : State) (die row : Nat) (k : Kind) (f : Nat) (service : Bool) :
    (s.formChain die row k f service).arr.failed = s.arr.failed := by
  obtain ⟨ps, harr⟩ := s.formChain_arr die row k f service
  exact (congrArg ArrayMem.failed harr).trans rfl

/-- A cell of a row with a sound spare and no other chain, whose palms are free, gets its chain at once (R104). -/
theorem failCell_forms {s : State} {die row : Nat} {k : Kind} {f : Nat} (service : Bool) (hchain : chainOf (s.repair die row) k = none)
    (hwait : chainWait (s.repair die row) k = none) (hspare : spareOk (s.repair die row) k = true) (hfree : s.chainFree die row f = true) :
    s.failCell die row k f service = s.formChain die row k f service := by
  unfold failCell
  rw [if_pos (by simp [hchain, hwait, hspare]), if_pos hfree]

/-- A failure is marked, counted and logged, before what it does to its row (R584). -/
def markFailed (s : State) (die row : Nat) (kind : FailKind) (col : Nat) : State :=
  ((s.onArr fun a => { a with failed := a.failed ++ [(die, row, kind, col)] }).errClass 3 0 die 0 0 0).fenceCount

theorem markFailed_arr (s : State) (die row : Nat) (kind : FailKind) (col : Nat) :
    (s.markFailed die row kind col).arr = { s.arr with failed := s.arr.failed ++ [(die, row, kind, col)] } := by
  have hlog : Keeps 0x8000 (s.onArr fun a => { a with failed := a.failed ++ [(die, row, kind, col)] }) (s.markFailed die row kind col) :=
    fenceCount_keeps _ (by decide) (errClass_keeps _ _ _ _ _ _ _ (by decide) (.refl _ _))
  exact hlog.arr

end State

theorem cellFailureOp_known {die row col : Nat} {kind : FailKind} {s : State} (h : s.arr.failed.contains (die, row, kind, col) = true) :
    cellFailureOp die row kind col s = s := by
  unfold cellFailureOp
  exact if_pos (.inr (.inr (.inr h)))

theorem cellFailureOp_new_cell {die row col : Nat} (k : Kind) {s : State} (hdie : die < 8) (hrow : row < 24) (hcol : col ≤ 24)
    (hnew : s.arr.failed.contains (die, row, .cell k, col) = false) :
    cellFailureOp die row (.cell k) col s = (s.markFailed die row (.cell k) col).failCell die row k col true := by
  unfold cellFailureOp
  dsimp only
  rw [if_neg (by simp only [hnew, Bool.false_eq_true, or_false]; omega)]
  rfl

/-- A cell found bad, of a row that can take a chain of its kind, gets its chain in the step that marks it. -/
theorem cellFailureOp_forms {die row col : Nat} {k : Kind} {s : State} (hdie : die < 8) (hrow : row < 24) (hcol : col ≤ 24)
    (hnew : s.arr.failed.contains (die, row, .cell k, col) = false) (hchain : State.chainOf (s.repair die row) k = none)
    (hwait : State.chainWait (s.repair die row) k = none) (hspare : State.spareOk (s.repair die row) k = true)
    (hfree : s.chainFree die row col = true) :
    cellFailureOp die row (.cell k) col s = (s.markFailed die row (.cell k) col).formChain die row k col true := by
  have harr := s.markFailed_arr die row (.cell k) col
  have hrepair : (s.markFailed die row (.cell k) col).repair die row = s.repair die row :=
    congrArg (fun a => a.repair.at (24 * die + row)) harr
  have hpalms : (s.markFailed die row (.cell k) col).arr.palms = s.arr.palms := (congrArg ArrayMem.palms harr).trans rfl
  rw [cellFailureOp_new_cell k hdie hrow hcol hnew]
  exact State.failCell_forms true (hrepair ▸ hchain) (hrepair ▸ hwait) (hrepair ▸ hspare) ((State.chainFree_of_palms hpalms die row col).trans hfree)

theorem chainFormOp_none {die row : Nat} {kind : Kind} {s : State} (h : State.chainWait (s.repair die row) kind = none) :
    chainFormOp die row kind s = s := by
  unfold chainFormOp
  rw [h]

theorem chainFormOp_waiting {die row f : Nat} {kind : Kind} {s : State} (h : State.chainWait (s.repair die row) kind = some f)
    (hfree : s.chainFree die row f = true) (hspare : State.spareOk (s.repair die row) kind = true) :
    chainFormOp die row kind s = s.formChain die row kind f true := by
  unfold chainFormOp
  rw [h]
  exact if_pos ⟨hfree, hspare⟩

/-- Settles O17: what a crossing's loss of margin and its retraining do to both ends and to the patterns across it, and the rows in which a chain
forms. -/
theorem latticeCrossingsAndRepairChains : Obligations.LatticeCrossingsAndRepairChains := by
  unfold Obligations.LatticeCrossingsAndRepairChains
  refine ⟨?margin, ?retrain, ?failure, ?chain⟩
  case margin =>
    intro die edge chan s
    have hkeeps : State.Keeps 0x6A8F8 s (crossingMarginLossOp die edge chan s) := crossingMarginLossOp_keeps die edge chan s (by decide) (.refl _ s)
    refine ⟨crossingMarginLossOp die edge chan s, rfl, hkeeps.only (by decide), crossingMarginLossOp_outer chan s, ?_, ?_⟩
    · intro o _ hbeyond hnone
      rw [crossingMarginLossOp_unused chan s hbeyond hnone]
      exact ⟨s.loseMargin_edges_at die edge o, s.loseMargin_seq die edge o, State.flag_raise _ _ _ _ (by decide)⟩
    · intro o g hbeyond hone hrun
      rw [crossingMarginLossOp_single chan s hbeyond hone hrun]
      exact ⟨s.loseMargin die edge o, s.loseMargin_seq die edge o, rfl⟩
  case retrain =>
    intro die edge s
    have hkeeps : State.Keeps 0x10 s (crossingRetrainCompleteOp die edge s) := crossingRetrainCompleteOp_keeps die edge s (by decide) (.refl _ s)
    refine ⟨crossingRetrainCompleteOp die edge s, rfl, hkeeps.only (by decide), ?_, ?_⟩
    · intro o _ hbeyond hdie hdieIn hother hotherIn
      rw [crossingRetrainCompleteOp_released hbeyond hdie hdieIn hother hotherIn]
      exact State.onEdge_edges_at s die edge o fun _ => rfl
    · rintro (hfenced | hbeyond)
      · exact crossingRetrainCompleteOp_fenced edge hfenced
      · exact crossingRetrainCompleteOp_outer s hbeyond
  case failure =>
    intro die row kind col s
    have hkeeps : State.Keeps 0x6A8F0 s (cellFailureOp die row kind col s) := cellFailureOp_keeps die row kind col s (by decide) (.refl _ s)
    refine ⟨cellFailureOp die row kind col s, rfl, hkeeps.only (by decide), cellFailureOp_known, ?_⟩
    rintro hdie hrow hcol rfl hnew hchain hwait hspare hfree
    have harr := s.markFailed_arr die row (.cell .c) col
    have hformed := State.formChain_repair (s.markFailed die row (.cell .c) col) die row .c col true
    rw [cellFailureOp_forms (k := .c) hdie hrow hcol hnew hchain hwait hspare hfree, State.formChain_failed, harr, hformed]
    exact ⟨rfl, rfl, congrArg (fun a => (a.repair.at (24 * die + row)).mCol) harr⟩
  case chain =>
    intro die row kind s
    have hkeeps : State.Keeps 0x8010 s (chainFormOp die row kind s) := chainFormOp_keeps die row kind s (by decide) (.refl _ s)
    refine ⟨chainFormOp die row kind s, rfl, hkeeps.only (by decide), chainFormOp_none, ?_⟩
    intro f hwait hfree hspare
    rw [chainFormOp_waiting hwait hfree hspare, State.formChain_repair, State.chainOf_chained]

end Sys2Proof.Machine

/-! SUPPORT. C-cells as they are read and updated (R118, R152): one cell's update, the writes that fall due, cell exceptions (R153), the control
slot (R135), and O26. -/

namespace Sys2Proof.Machine

theorem siteOf_key {p : Site} (hrow : p.row < 24) (hcol : p.col < 24) : siteOf p.key = p := by
  obtain ⟨die, row, col⟩ := p
  simp only [siteOf, Site.key, Site.mk.injEq] at hrow hcol ⊢
  omega

theorem Block.Same.trans {s t u : State} {b : Block} (h : b.Same s t) (h' : b.Same t u) : b.Same s u := by
  cases b <;> exact Eq.trans h' h

namespace State

theorem OnlyChanges.trans {s t u : State} {l : List Block} (h : s.OnlyChanges l t) (h' : t.OnlyChanges l u) : s.OnlyChanges l u :=
  fun b hb => (h b hb).trans (h' b hb)

/-! One cell's update. -/

@[simp] theorem cell_onCell_same (s : State) (k : Nat) (f : CellSt → CellSt) : (s.onCell k f).cell k = f (s.cell k) := SMap.at_upd_same _ _ _

theorem cell_onCell_other (s : State) {k j : Nat} (f : CellSt → CellSt) (hj : j ≠ k) : (s.onCell k f).cell j = s.cell j := SMap.at_upd_other _ _ hj

theorem cellBecomes_onCell (s : State) (p : Site) (f : CellSt → CellSt) : s.CellBecomes p (f (s.cell p.key)) (s.onCell p.key f) :=
  ⟨(onCell_keeps s p.key f (m_ := 0x10) (by decide) (.refl _ s)).only (by decide), cell_onCell_same s p.key f,
    fun _ hk => cell_onCell_other s f hk, rfl⟩

namespace CellBecomes

variable {s t u : State} {p : Site} {c d : CellSt}

theorem only (h : s.CellBecomes p c t) : s.OnlyChanges [.arr] t := h.1

theorem cell (h : s.CellBecomes p c t) : t.cell p.key = c := h.2.1

theorem others (h : s.CellBecomes p c t) : ∀ k, k ≠ p.key → t.cell k = s.cell k := h.2.2.1

theorem arr (h : s.CellBecomes p c t) : t.arr = { s.arr with cells := t.arr.cells } := h.2.2.2

theorem vregs (h : s.CellBecomes p c t) : t.arr.vregs = s.arr.vregs := by rw [h.arr]

theorem trans (h : s.CellBecomes p c t) (h' : t.CellBecomes p d u) : s.CellBecomes p d u := by
  refine ⟨h.only.trans h'.only, h'.cell, fun k hk => (h'.others k hk).trans (h.others k hk), ?_⟩
  rw [h'.arr, h.arr]

/-- A further update of the same cell. -/
theorem onCell (h : s.CellBecomes p c t) (f : CellSt → CellSt) : s.CellBecomes p (f c) (t.onCell p.key f) := by
  have hnext := h.trans (cellBecomes_onCell t p f)
  rwa [h.cell] at hnext

end CellBecomes

theorem dueAt_dueWrite (s : State) (p : Site) (at_ slot : Nat) (w : CellWrite) : s.DueAt p at_ slot w (s.dueWrite p.key at_ slot w) :=
  cellBecomes_onCell s p _

/-- A command that lets one write fall due. -/
theorem completes_dueWrite {c : Instr} {s : State} {p : Site} {at_ slot : Nat} {w : CellWrite} (h : exec c s = .next (s.dueWrite p.key at_ slot w)) :
    ∃ t : State, exec c s = .next t ∧ s.OnlyChanges [.arr] t ∧ s.DueAt p at_ slot w t :=
  ⟨_, h, (dueAt_dueWrite s p at_ slot w).only, dueAt_dueWrite s p at_ slot w⟩

/-! Cell exceptions (R153, R163). -/

/-- The exception that the operation in `slot` of the bundle that issues at a C-cell takes, as it is logged for glove `g`. -/
def cellXFault (s : State) (p : Site) (g cause slot code : Nat) : XFault :=
  { glove := g, cause := cause, die := p.die, row := p.row, col := s.physCol p.die p.row p.col .c, ctx := (s.cell p.key).ctx,
    bundle := (s.cell p.key).iss.bundle, slot := slot, code := code, loopIx := (s.cell p.key).iss.loopIx, cycle := (s.pat g).cycle }

theorem cellFault_no_glove {s : State} {p : Site} (cause slot code : Nat) (hrow : p.row < 24) (hcol : p.col < 24) (h : s.siteGlove p = none) :
    s.cellFault p.key cause slot code = s := by
  simp only [cellFault, siteOf_key hrow hcol, h]

theorem cellFault_glove {s : State} {p : Site} {g : Nat} (cause slot code : Nat) (hrow : p.row < 24) (hcol : p.col < 24)
    (h : s.siteGlove p = some g) : s.cellFault p.key cause slot code = s.cellExc (s.cellXFault p g cause slot code) := by
  simp only [cellFault, siteOf_key hrow hcol, h]
  rfl

theorem exec_cellException_cellFault {s : State} {p : Site} {g : Nat} (cause slot code : Nat) (hrow : p.row < 24) (hcol : p.col < 24)
    (h : s.siteGlove p = some g) (hrun : s.patRuns g = true) :
    exec (.cellException (s.cellXFault p g cause slot code)) s = .next (s.cellFault p.key cause slot code) := by
  rw [cellFault_glove cause slot code hrow hcol h]
  exact congrArg Host.Outcome.next (cellExceptionOp_running hrun)

end State

/-! The control slot (R135). -/

theorem fanyOp_any {p : Site} {x : BitVec 6} {s : State} (h : s.mask p.key (x.toNat / 4 % 8) ≠ 0) :
    fanyOp p x s = s.dueWrite p.key (s.siteCycle p) 0 (.flag (x.toNat % 4) true) := if_pos h

theorem fanyOp_none {p : Site} {x : BitVec 6} {s : State} (h : s.mask p.key (x.toNat / 4 % 8) = 0) : fanyOp p x s = s := if_neg (not_not_intro h)

theorem fallOp_all {p : Site} {x : BitVec 6} {s : State} (h : ∀ j, j < 64 → (s.mask p.key (x.toNat / 4 % 8)).getLsbD j = true) :
    fallOp p x s = s.dueWrite p.key (s.siteCycle p) 0 (.flag (x.toNat % 4) true) := by
  have hones : s.mask p.key (x.toNat / 4 % 8) = BitVec.allOnes 64 :=
    BitVec.eq_of_getLsbD_eq fun j hj => by rw [h j hj, BitVec.getLsbD_allOnes, decide_eq_true hj]
  exact if_pos hones

theorem fallOp_clear {p : Site} {x : BitVec 6} {s : State} {j : Nat} (hj : j < 64) (h : (s.mask p.key (x.toNat / 4 % 8)).getLsbD j = false) :
    fallOp p x s = s := by
  have hones : s.mask p.key (x.toNat / 4 % 8) ≠ BitVec.allOnes 64 := by
    intro heq
    rw [heq, BitVec.getLsbD_allOnes, decide_eq_true hj] at h
    exact Bool.noConfusion h
  exact if_neg hones

/-- Settles O26: the writes of EPX, EPS and FSET fall due as they stand, those of FANY and FALL by their test, and a TRAP is the exception of its
cell. -/
theorem cellControlSlot : Obligations.CellControlSlot := by
  unfold Obligations.CellControlSlot
  refine ⟨?ctNop, ?mvNop, ?vnop, ?mnop, ?epx, ?eps, ?fset, ?fany, ?fall, ?trap, ?tok⟩
  case ctNop => exact fun p s => ⟨s, rfl, .refl s _, rfl⟩
  case mvNop => exact fun p s => ⟨s, rfl, .refl s _, rfl⟩
  case vnop => exact fun p s => ⟨s, rfl, .refl s _, rfl⟩
  case mnop => exact fun p s => ⟨s, rfl, .refl s _, rfl⟩
  case epx => exact fun p s => State.completes_dueWrite rfl
  case eps => exact fun p x s => State.completes_dueWrite rfl
  case fset => exact fun p x s => State.completes_dueWrite rfl
  case fany =>
    intro p x s
    have hkeeps : State.Keeps 0x10 s (fanyOp p x s) := fanyOp_keeps p x s (by decide) (.refl _ s)
    refine ⟨fanyOp p x s, rfl, hkeeps.only (by decide), ?_, fanyOp_none⟩
    intro hany
    rw [fanyOp_any hany]
    exact s.dueAt_dueWrite p _ 0 _
  case fall =>
    intro p x s
    have hkeeps : State.Keeps 0x10 s (fallOp p x s) := fallOp_keeps p x s (by decide) (.refl _ s)
    refine ⟨fallOp p x s, rfl, hkeeps.only (by decide), ?_, fun j => fallOp_clear⟩
    intro hall
    rw [fallOp_all hall]
    exact s.dueAt_dueWrite p _ 0 _
  case trap =>
    intro p x s
    have hkeeps : State.Keeps 0x6A8F8 s (trapOp p x s) := trapOp_keeps p x s (by decide) (.refl _ s)
    refine ⟨trapOp p x s, rfl, hkeeps.only (by decide), ?_, ?_⟩
    · exact State.cellFault_no_glove 6 0 x.toNat
    · exact fun hrow hcol g hglove hrun => State.exec_cellException_cellFault 6 0 x.toNat hrow hcol hglove hrun
  case tok =>
    intro p v s
    have hbecomes := s.cellBecomes_onCell p fun c => { c with token := some (v, c.ep) }
    exact ⟨tokOp p v s, rfl, hbecomes.only, hbecomes⟩

end Sys2Proof.Machine

/-! SUPPORT. Lanes of vector registers and bits of masks (R118, R140): what the registers and masks that the model builds read lane by lane. -/

namespace Sys2Proof.Machine

/-! Vector registers. -/

/-- Bit `i` of lane `j` of the number that a run of lanes spells. -/
theorem testBit_foldr_lanes (l : List Lane) (j : Nat) {i : Nat} (hi : i < 32) :
    (l.foldr (fun (x : Lane) acc => acc * 2 ^ 32 + x.toNat) 0).testBit (32 * j + i) = (l.getD j 0).getLsbD i := by
  induction l generalizing j with
  | nil => simp
  | cons x r ih =>
    rw [List.foldr_cons, Nat.mul_comm, Nat.testBit_two_pow_mul_add _ x.isLt]
    cases j with
    | zero => rw [if_pos (by omega), Nat.mul_zero, Nat.zero_add]; rfl
    | succ j => rw [if_neg (by omega), show 32 * (j + 1) + i - 32 = 32 * j + i by omega, ih, List.getD_cons_succ]

theorem lane_ofLanes (l : List Lane) {j : Nat} (hj : j < 64) : lane (ofLanes l) j = l.getD j 0 := by
  have htake : (l.take 64).getD j 0 = l.getD j 0 := by
    rw [List.getD_eq_getElem?_getD, List.getElem?_take_of_lt hj, List.getD_eq_getElem?_getD]
  apply BitVec.eq_of_getLsbD_eq
  intro i hi
  rw [lane, ofLanes, BitVec.getLsbD_extractLsb', BitVec.getLsbD_ofNat, testBit_foldr_lanes _ j hi, htake, decide_eq_true hi,
    decide_eq_true (by omega : 32 * j + i < 2048), Bool.true_and, Bool.true_and]

theorem getD_map_range {α : Type} (f : Nat → α) (d : α) {n j : Nat} (hj : j < n) : ((List.range n).map f).getD j d = f j := by
  rw [List.getD_eq_getElem?_getD, List.getElem?_map, List.getElem?_range hj]
  rfl

theorem lane_mapLanes (f : Nat → Lane) {j : Nat} (hj : j < 64) : lane (mapLanes f) j = f j := by
  rw [mapLanes, lane_ofLanes _ hj, getD_map_range f 0 hj]

/-- Lane 16i + j of the lanes of a run of lines is lane j of line i. -/
theorem getD_flatMap_lineLanes {α : Type} (g : α → Line) (l : List α) (d : α) {i j : Nat} (hi : i < l.length) (hj : j < 16) :
    (l.flatMap fun b => lineLanes (g b)).getD (16 * i + j) 0 = (g (l.getD i d)).extractLsb' (32 * j) 32 := by
  induction l generalizing i with
  | nil => exact absurd hi (Nat.not_lt_zero i)
  | cons b r ih =>
    have hlength : (lineLanes (g b)).length = 16 := by simp [lineLanes]
    rw [List.flatMap_cons]
    cases i with
    | zero =>
      rw [List.getD_append _ _ _ _ (by omega), Nat.mul_zero, Nat.zero_add, List.getD_cons_zero]
      exact getD_map_range _ 0 hj
    | succ i =>
      rw [List.getD_append_right _ _ _ _ (by omega), hlength, show 16 * (i + 1) + j - 16 = 16 * i + j by omega, List.getD_cons_succ]
      exact ih (Nat.lt_of_succ_lt_succ hi)

/-! Masks. -/

/-- Bit `j` of the number whose bits a predicate spells along a list. -/
theorem testBit_foldr_bits {α : Type} (b : α → Bool) (l : List α) (j : Nat) :
    (l.foldr (fun x acc => 2 * acc + (if b x then 1 else 0)) 0).testBit j = (l.map b).getD j false := by
  induction l generalizing j with
  | nil => simp
  | cons x r ih =>
    have hbit : (if b x then 1 else 0) < 2 ^ 1 := by split <;> decide
    rw [List.foldr_cons, List.map_cons, show ∀ n : Nat, 2 * n = 2 ^ 1 * n from fun n => rfl, Nat.testBit_two_pow_mul_add _ hbit]
    cases j with
    | zero => cases h : b x <;> rfl
    | succ j => rw [if_neg (by omega), Nat.add_sub_cancel, ih, List.getD_cons_succ]

/-- Bit `j` of a mask built bit by bit. -/
theorem getLsbD_foldr_range (b : Nat → Bool) {j : Nat} (hj : j < 64) :
    (BitVec.ofNat 64 ((List.range 64).foldr (fun x acc => 2 * acc + (if b x then 1 else 0)) 0)).getLsbD j = b j := by
  rw [BitVec.getLsbD_ofNat, decide_eq_true hj, Bool.true_and, testBit_foldr_bits, getD_map_range b false hj]

/-- The mask of the `n` lanes from `pos` on. -/
theorem getLsbD_laneRun (pos n : Nat) {j : Nat} (hj : j < 64) :
    (BitVec.ofNat 64 ((2 ^ n - 1) * 2 ^ pos)).getLsbD j = decide (pos ≤ j ∧ j < pos + n) := by
  rw [BitVec.getLsbD_ofNat, decide_eq_true hj, Bool.true_and, Nat.testBit_mul_two_pow, Nat.testBit_two_pow_sub_one]
  by_cases hpos : pos ≤ j
  · have hend : j - pos < n ↔ j < pos + n := by omega
    simp [hpos, hend]
  · simp [hpos]

/-- The mask of the first `n` lanes, all of them past 64. -/
theorem getLsbD_lowLanes (n : Nat) {j : Nat} (hj : j < 64) : (BitVec.ofNat 64 (2 ^ min 64 n - 1)).getLsbD j = decide (j < n) := by
  have hrun := getLsbD_laneRun 0 (min 64 n) hj
  rw [Nat.pow_zero, Nat.mul_one] at hrun
  rw [hrun]
  exact decide_eq_decide.mpr (by omega)

end Sys2Proof.Machine

/-! SUPPORT. The vector slot of a C-cell (R142 to R146): its lane-wise results, the masks, the reductions, XQ and the conversions, and O27 and O28. -/

namespace Sys2Proof.Machine

/-! Lane-wise results (R142, R143). -/

namespace State

/-- A command whose result is `v`, lane by lane `f`. -/
theorem completes_vresult {c : Instr} {s : State} {p : Site} {vd msk l : Nat} {v : BitVec 2048} {f : Nat → Lane}
    (h : exec c s = .next (s.vresult p vd msk l v)) (hv : ∀ j, j < 64 → lane v j = f j) :
    ∃ t : State, exec c s = .next t ∧ s.OnlyChanges [.arr] t ∧ s.VectorDue p vd msk l f t :=
  have hdue := s.dueAt_dueWrite p (s.siteCycle p + l - 1) 2 (.vreg (s.vphys p.key vd) v (s.mask p.key msk))
  ⟨_, h, hdue.only, v, hv, hdue⟩

theorem completes_mapLanes {c : Instr} {s : State} {p : Site} {vd msk l : Nat} {f : Nat → Lane}
    (h : exec c s = .next (s.vresult p vd msk l (mapLanes f))) :
    ∃ t : State, exec c s = .next t ∧ s.OnlyChanges [.arr] t ∧ s.VectorDue p vd msk l f t :=
  completes_vresult h fun _ hj => lane_mapLanes f hj

end State

/-- Settles O27: every operation answers a result of its latency, built lane by lane; VMOV's is the register itself. -/
theorem cellVectorArithmetic : Obligations.CellVectorArithmetic := by
  unfold Obligations.CellVectorArithmetic
  refine ⟨?vadd, ?vsub, ?vmul, ?vmax, ?vmin, ?vfma, ?vsel, ?vmov, ?vbc⟩
  case vadd => exact fun p vd va vb msk neg s => State.completes_mapLanes rfl
  case vsub => exact fun p vd va vb msk neg s => State.completes_mapLanes rfl
  case vmul => exact fun p vd va vb msk neg s => State.completes_mapLanes rfl
  case vmax => exact fun p vd va vb msk neg s => State.completes_mapLanes rfl
  case vmin => exact fun p vd va vb msk neg s => State.completes_mapLanes rfl
  case vfma => exact fun p vd va vb vc msk neg s => State.completes_mapLanes rfl
  case vsel => exact fun p vd va vb msk sel s => State.completes_mapLanes rfl
  case vmov => exact fun p vd va msk s => State.completes_vresult rfl fun _ _ => rfl
  case vbc => exact fun p vd cw msk s => State.completes_mapLanes rfl

/-! Masks (R118, R143). -/

namespace State

/-- A command whose mask result is `v`, bit by bit `f`, written in the bits of `sel`; M0 takes no write. -/
theorem completes_mresult {c : Instr} {s : State} {p : Site} {md : Nat} {v sel : BitVec 64} {f : Nat → Bool}
    (h : exec c s = .next (s.mresult p md v sel)) (hv : ∀ j, j < 64 → v.getLsbD j = f j) :
    ∃ t : State, exec c s = .next t ∧ s.OnlyChanges [.arr] t ∧ (md % 8 = 0 → t = s) ∧
      (md % 8 ≠ 0 → ∃ m : BitVec 64, (∀ j, j < 64 → m.getLsbD j = f j) ∧ s.DueAt p (s.siteCycle p + 1) 2 (.mask (md % 8) m sel) t) := by
  have hkeeps : Keeps 0x10 s (s.mresult p md v sel) := mresult_keeps s p md v sel (by decide) (.refl _ s)
  refine ⟨_, h, hkeeps.only (by decide), fun hzero => if_pos hzero, fun hmask => ⟨v, hv, ?_⟩⟩
  rw [mresult, if_neg hmask]
  exact s.dueAt_dueWrite p _ 2 _

end State

/-! XQ and the conversions (R145, R146): what a result reads when the cell's XQ or generator alone has changed. -/

namespace State

theorem vphys_congr {s t : State} {k : Nat} (hcws : t.arr.cws = s.arr.cws) (hctx : (t.cell k).ctx = (s.cell k).ctx)
    (hiss : (t.cell k).iss = (s.cell k).iss) (n : Nat) : t.vphys k n = s.vphys k n := by
  unfold vphys cw
  rw [hcws, hctx, hiss]

theorem mask_congr {s t : State} {k : Nat} (hmasks : (t.cell k).masks = (s.cell k).masks) (m : Nat) : t.mask k m = s.mask k m := by
  unfold mask
  rw [hmasks]

theorem CellBecomes.siteCycle {s t : State} {p : Site} {c : CellSt} (h : s.CellBecomes p c t) : t.siteCycle p = s.siteCycle p := by
  unfold State.siteCycle siteGlove palm pat
  rw [h.arr, h.only.seq]

/-- The write that a vector result of a state falls due as, when the present cell is that of `s` but for parts that the result does not read. -/
theorem vresult_due {s t : State} {p : Site} {c : CellSt} (h : s.CellBecomes p c t) (hctx : c.ctx = (s.cell p.key).ctx)
    (hiss : c.iss = (s.cell p.key).iss) (hmasks : c.masks = (s.cell p.key).masks) (vd msk l : Nat) (v : BitVec 2048) :
    s.CellBecomes p { c with due := c.due ++ [⟨s.siteCycle p + l - 1, .vreg (s.vphys p.key vd) v (s.mask p.key msk), (s.cell p.key).iss, 2⟩] }
      (t.vresult p vd msk l v) := by
  have hphys : t.vphys p.key vd = s.vphys p.key vd := vphys_congr (by rw [h.arr]) (h.cell ▸ hctx) (h.cell ▸ hiss) vd
  have hmask : t.mask p.key msk = s.mask p.key msk := mask_congr (h.cell ▸ hmasks) msk
  have hdue := h.onCell fun c => { c with due := c.due ++ [⟨s.siteCycle p + l - 1, .vreg (s.vphys p.key vd) v (s.mask p.key msk), c.iss, 2⟩] }
  rw [← hiss, vresult, dueWrite, h.siteCycle, hphys, hmask]
  exact hdue

end State

/-- The cycle from which a vector that comes in cycle `t` is in the unit (R145). -/
def CellSt.xqStart (c : CellSt) (t : Nat) : Nat := max t (c.xq.foldl (fun acc x => max acc (x + 4)) t)

/-- VXF with room in XQ: the vector takes its place there, and the free values of its lanes are spent. -/
theorem vxfOp_room {p : Site} {s : State} (vd va msk fn : Nat) (h : (s.cell p.key).xqWaiting (s.siteCycle p) < 2) :
    vxfOp p vd va msk fn s =
      ((s.spend 64).onCell p.key fun c =>
        { c with xq := (c.xq.filter fun x => s.siteCycle p < x + 4) ++ [(s.cell p.key).xqStart (s.siteCycle p)] }).vresult p vd msk
        (12 + 4 * (s.cell p.key).xqCount (s.siteCycle p)) (mapLanes fun j => vxfLane fn (lane (s.vreg p.key va) j) (Config.freeUlp (s.freeCtr + j))) :=
  if_neg fun hfull => Nat.not_le_of_lt h hfull.2

theorem vcvtOp_widen {fn : Nat} (p : Site) (vd va vb msk : Nat) (sr : Bool) (s : State) (h : 2 ≤ fn) :
    vcvtOp p vd va vb msk fn sr s =
      s.vresult p vd msk 3 (mapLanes fun j => widenLane (if fn ≤ 3 then bf16 else fp16) (fn % 2 = 1) (lane (s.vreg p.key va) j)) :=
  if_neg (Nat.not_le_of_lt h)

theorem vcvtOp_nearest {fn : Nat} (p : Site) (vd va vb msk : Nat) (s : State) (h : fn ≤ 1) :
    vcvtOp p vd va vb msk fn false s =
      (s.onCell p.key fun c => { c with gen := (s.cell p.key).gen }).vresult p vd msk 3 (mapLanes fun j =>
        BitVec.ofNat 32 (((if fn = 0 then bf16 else fp16).convert (f32 (lane (s.vreg p.key va) j)) none).1 +
          ((if fn = 0 then bf16 else fp16).convert (f32 (lane (s.vreg p.key vb) j)) none).1 * 2 ^ 16)) :=
  if_pos h

/-- Settles O28: the masks bit by bit, the reduction and the conversions lane by lane, and VXF from the state whose free values are spent. -/
theorem cellVectorMasksReductionsConversions : Obligations.CellVectorMasksReductionsConversions := by
  unfold Obligations.CellVectorMasksReductionsConversions
  refine ⟨?vcmp, ?vmsk, ?vred, ?vxf, ?vcvt⟩
  case vcmp => exact fun p md va vb msk cond s => State.completes_mresult rfl fun j hj => getLsbD_foldr_range _ hj
  case vmsk =>
    intro p md va vb msk op s
    match op with
    | 0 => exact State.completes_mresult rfl fun j _ => BitVec.getLsbD_and
    | 1 => exact State.completes_mresult rfl fun j _ => BitVec.getLsbD_or
    | 2 => exact State.completes_mresult rfl fun j hj => by simp [hj]
    | 3 => exact State.completes_mresult rfl fun j hj => by simp [hj]
    | _ + 4 => exact State.completes_mresult rfl fun j hj => by simp [getLsbD_lowLanes _ hj]
  case vred => exact fun p vd va msk fn s => State.completes_mapLanes rfl
  case vxf =>
    intro p vd va msk fn s
    have hkeeps : State.Keeps 0x6A8F8 s (vxfOp p vd va msk fn s) := vxfOp_keeps p vd va msk fn s (by decide) (.refl _ s)
    refine ⟨vxfOp p vd va msk fn s, rfl, hkeeps.only (by decide), ?_⟩
    intro hroom
    rw [vxfOp_room vd va msk fn hroom]
    have hqueued := (s.spend 64).cellBecomes_onCell p fun c =>
      { c with xq := (c.xq.filter fun x => s.siteCycle p < x + 4) ++ [(s.cell p.key).xqStart (s.siteCycle p)] }
    have hdue := State.vresult_due hqueued rfl rfl rfl vd msk (12 + 4 * (s.cell p.key).xqCount (s.siteCycle p))
    have hspend : s.OnlyChanges [.arr, .freeCtr] (s.spend 64) := (State.spend_keeps s 64 (m_ := 0x40000) (by decide) (.refl _ s)).only (by decide)
    refine ⟨(hdue _).only.freeCtr, hspend.trans ((hdue _).only.mono (by decide)), _, fun j hj => lane_mapLanes _ hj, ?_, (hdue _).others,
      (hdue _).vregs⟩
    rw [(hdue _).cell]
    rfl
  case vcvt =>
    intro p vd va vb msk fn sr s
    have hkeeps : State.Keeps 0x10 s (vcvtOp p vd va vb msk fn sr s) := vcvtOp_keeps p vd va vb msk fn sr s (by decide) (.refl _ s)
    refine ⟨vcvtOp p vd va vb msk fn sr s, rfl, hkeeps.only (by decide), ?widen, ?nearest⟩
    case widen =>
      intro hfn
      rw [vcvtOp_widen p vd va vb msk sr s hfn]
      exact ⟨_, fun j hj => lane_mapLanes _ hj, s.dueAt_dueWrite p _ 2 _⟩
    case nearest =>
      rintro hfn rfl
      rw [vcvtOp_nearest p vd va vb msk s hfn]
      have hgen := s.cellBecomes_onCell p fun c => { c with gen := (s.cell p.key).gen }
      have hdue := State.vresult_due hgen rfl rfl rfl vd msk 3
      exact ⟨(hdue _).only, by rw [(hdue _).cell], _, fun j hj => lane_mapLanes _ hj, by rw [(hdue _).cell]⟩

end Sys2Proof.Machine

/-! SUPPORT. The move slot of a C-cell (R136 to R141): one take from an input queue, the words of a VST, one read stream of an operand buffer, and
O29. -/

namespace Sys2Proof.Machine

/-! Takes (R136, R139). -/

namespace State

/-- A take of one word: the word leaves its queue, and goes to its place. -/
theorem take_one {s : State} {p : Site} {port : Nat} {w : Line × Line} {q : List (Line × Line)} (to_ : TakeTo)
    (hqueue : s.inQueue p.key port = w :: q) (hfree : (s.cell p.key).taken.contains port = false) :
    s.take p port 1 to_ = (s.onCell p.key fun c => { c with inQ := setPad c.inQ port q [], taken := port :: c.taken }).takeWord p.key (s.siteCycle p)
      ⟨port, 1, to_, (s.cell p.key).iss⟩ w := by
  simp only [take, takeOne, hfree, hqueue]
  rfl

/-- The word of such a take is dropped. -/
theorem take_one_discard {s : State} {p : Site} {port : Nat} {w : Line × Line} {q : List (Line × Line)} (hqueue : s.inQueue p.key port = w :: q)
    (hfree : (s.cell p.key).taken.contains port = false) :
    s.CellBecomes p { s.cell p.key with inQ := setPad (s.cell p.key).inQ port q [], taken := port :: (s.cell p.key).taken }
      (s.take p port 1 .discard) := by
  rw [take_one .discard hqueue hfree]
  exact s.cellBecomes_onCell p _

/-- The word of such a take is written as `x` in the next cycle. -/
theorem take_one_due {s : State} {p : Site} {port : Nat} {w : Line × Line} {q : List (Line × Line)} {to_ : TakeTo} {x : CellWrite}
    (hqueue : s.inQueue p.key port = w :: q) (hfree : (s.cell p.key).taken.contains port = false)
    (hdue : ∀ u : State, u.takeWord p.key (s.siteCycle p) ⟨port, 1, to_, (s.cell p.key).iss⟩ w =
      u.onCell p.key fun c => { c with due := c.due ++ [⟨s.siteCycle p + 1, x, (s.cell p.key).iss, 1⟩] }) :
    s.CellBecomes p
      { s.cell p.key with
        inQ := setPad (s.cell p.key).inQ port q [], taken := port :: (s.cell p.key).taken,
        due := (s.cell p.key).due ++ [⟨s.siteCycle p + 1, x, (s.cell p.key).iss, 1⟩] }
      (s.take p port 1 to_) := by
  rw [take_one to_ hqueue hfree, hdue]
  exact (s.cellBecomes_onCell p _).onCell _

end State

theorem filOp_one {p : Site} {port : Nat} (areg d : Nat) (s : State) (h : port ≠ 5) :
    filOp p port areg d 1 s = s.take p port 1 (.fil [s.aline p.key areg d 0]) := by
  simp only [filOp, if_neg h]
  rfl

/-- The lanes of a word at `port`: those of one line at the local port, of two at the others (R71, R140). -/
def wordLanes (port : Nat) (w : Line × Line) : List Lane := if port = 5 then lineLanes w.1 else lineLanes w.1 ++ lineLanes w.2

theorem length_lineLanes (x : Line) : (lineLanes x).length = 16 := by
  rw [lineLanes, List.length_map, List.length_range]

theorem getD_lineLanes (x : Line) {j : Nat} (hj : j < 16) : (lineLanes x).getD j 0 = x.extractLsb' (32 * j) 32 := getD_map_range _ 0 hj

theorem length_wordLanes_local (w : Line × Line) : (wordLanes 5 w).length = 16 := length_lineLanes w.1

theorem getD_wordLanes_local (w : Line × Line) {j : Nat} (hj : j < 16) : (wordLanes 5 w).getD j 0 = w.1.extractLsb' (32 * j) 32 := getD_lineLanes w.1 hj

theorem length_wordLanes_near {port : Nat} (w : Line × Line) (h : port ≠ 5) : (wordLanes port w).length = 32 := by
  rw [wordLanes, if_neg h, List.length_append, length_lineLanes, length_lineLanes]

theorem getD_wordLanes_near {port : Nat} (w : Line × Line) (h : port ≠ 5) {j : Nat} (hj : j < 32) :
    (wordLanes port w).getD j 0 = if j < 16 then w.1.extractLsb' (32 * j) 32 else w.2.extractLsb' (32 * (j - 16)) 32 := by
  have hlength := length_lineLanes w.1
  rw [wordLanes, if_neg h]
  split
  · next hlow => rw [List.getD_append _ _ _ _ (by omega), getD_lineLanes _ hlow]
  · next hhigh => rw [List.getD_append_right _ _ _ _ (by omega), hlength, getD_lineLanes _ (by omega)]

/-- A register whose lanes from `pos` on are those of a word at `port`, and the others 0. -/
def wordLanesAt (port pos : Nat) (w : Line × Line) : BitVec 2048 :=
  mapLanes fun j => if pos ≤ j ∧ j < pos + (wordLanes port w).length then (wordLanes port w).getD (j - pos) 0 else 0

/-- What a VLD has gathered, with its mask, after its first word. -/
theorem gather_first (t : TakeSt) (pos : Nat) (w : Line × Line) :
    t.gather pos 0 0 w = (wordLanesAt t.port pos w, BitVec.ofNat 64 ((2 ^ (wordLanes t.port w).length - 1) * 2 ^ pos)) :=
  Prod.ext BitVec.zero_or BitVec.zero_or

/-- VLD of a part that begins at lane `pos`, `n` lanes long: its lanes are written, and no others. -/
theorem take_one_gathers {s : State} {p : Site} {port n pos r : Nat} {w : Line × Line} {q : List (Line × Line)} {f : Nat → Lane}
    (hqueue : s.inQueue p.key port = w :: q) (hfree : (s.cell p.key).taken.contains port = false) (hlength : (wordLanes port w).length = n)
    (hlanes : ∀ i, i < n → (wordLanes port w).getD i 0 = f i) :
    ∃ (v : BitVec 2048) (m : BitVec 64), (∀ j, j < 64 → lane v j = if pos ≤ j ∧ j < pos + n then f (j - pos) else 0) ∧
      (∀ j, j < 64 → m.getLsbD j = decide (pos ≤ j ∧ j < pos + n)) ∧
      s.CellBecomes p
        { s.cell p.key with
          inQ := setPad (s.cell p.key).inQ port q [], taken := port :: (s.cell p.key).taken,
          due := (s.cell p.key).due ++ [⟨s.siteCycle p + 1, .vreg r v m, (s.cell p.key).iss, 1⟩] }
        (s.take p port 1 (.vld r pos 0 0)) := by
  have hgather := gather_first ⟨port, 1, .vld r pos 0 0, (s.cell p.key).iss⟩ pos w
  subst hlength
  refine ⟨wordLanesAt port pos w, _, ?_, fun j hj => getLsbD_laneRun pos _ hj, State.take_one_due hqueue hfree fun u => ?_⟩
  · intro j hj
    rw [wordLanesAt, lane_mapLanes _ hj]
    split
    · next hpart => exact hlanes _ (by omega)
    · rfl
  · simp only [State.takeWord, hgather]
    rfl

/-! Sends (R137 to R139). -/

/-- The words of a VST of a whole register at a near port, with their epoch bit. -/
def portWords (v : BitVec 2048) (ep : Bool) : List (Line × Line × Bool) :=
  [(v.extractLsb' 0 512, v.extractLsb' 512 512, ep), (v.extractLsb' 1024 512, v.extractLsb' 1536 512, ep)]

theorem vstOp_near {p : Site} {port : Nat} (vs q : Nat) (s : State) (h : port ≠ 5) :
    vstOp p port vs false q s = s.onCell p.key fun c => { c with placing := [(port, portWords (s.vreg p.key vs) c.ep)] } := by
  simp only [vstOp, if_neg h]
  rfl

theorem vstOp_quarter (p : Site) (vs q : Nat) (s : State) :
    vstOp p 5 vs true q s =
      s.onCell p.key fun c => { c with placing := [(5, [((s.vreg p.key vs).extractLsb' (512 * (q % 4)) 512, 0, c.ep)])] } := by
  have hq : q % 4 < ((List.range 4).map fun i => ((s.vreg p.key vs).extractLsb' (512 * i) 512, (0 : Line))).length := by
    rw [List.length_map, List.length_range]
    exact Nat.mod_lt q (by decide)
  simp only [vstOp, if_true, List.take_one_drop_eq_of_lt_length hq]
  simp

namespace State

/-- The words that one VST holds for a queue with room for them are appended to it. -/
theorem placeWords_room {s t : State} {p : Site} {c : CellSt} {port : Nat} {ws : List (Line × Line × Bool)} (h : s.CellBecomes p c t)
    (hplacing : c.placing = [(port, ws)]) (hroom : (c.sendQ.getD port []).length + ws.length ≤ 8) :
    s.CellBecomes p { c with placing := [], sendQ := setPad c.sendQ port (c.sendQ.getD port [] ++ ws) [] } (t.placeWords p) := by
  have hcleared := h.onCell fun c => { c with placing := [] }
  have hplaced : t.placeWords p = (t.onCell p.key fun c => { c with placing := [] }).onCell p.key fun d =>
      { d with sendQ := setPad d.sendQ port (c.sendQ.getD port [] ++ ws) [] } := by
    simp only [placeWords, h.cell, hplacing, List.foldl_cons, List.foldl_nil, hcleared.cell]
    exact if_neg (by rw [List.length_append]; exact Nat.not_lt_of_le hroom)
  rw [hplaced]
  exact hcleared.onCell _

/-- Those for a queue without room for them are lost. -/
theorem placeWords_overflow {s t : State} {p : Site} {c : CellSt} {port : Nat} {ws : List (Line × Line × Bool)} (h : s.CellBecomes p c t)
    (hplacing : c.placing = [(port, ws)]) (hfull : 8 < (c.sendQ.getD port []).length + ws.length) :
    ∃ u : State, s.CellBecomes p { c with placing := [] } u ∧ t.placeWords p = u.siteFault p.key 2 7 (some .c) := by
  have hcleared := h.onCell fun c => { c with placing := [] }
  refine ⟨_, hcleared, ?_⟩
  simp only [placeWords, h.cell, hplacing, List.foldl_cons, List.foldl_nil, hcleared.cell]
  exact if_pos (by rw [List.length_append]; exact hfull)

end State

/-! Read streams (R141). -/

theorem streamsOn_cons_same (c : CellSt) (t buf : Nat) (ds : List DueWrite) :
    ({ c with due := ds, streams := (t, buf) :: c.streams } : CellSt).streamsOn t buf = c.streamsOn t buf + 1 := by
  simp only [CellSt.streamsOn, List.filter_cons, and_self, decide_true, if_true, List.length_cons]
  omega

namespace State

/-- With room on the operand buffer, the operation's write falls due and its stream is entered. -/
theorem dueWrite_stream {s : State} {p : Site} {buf : Nat} (at_ slot slot' : Nat) (w : CellWrite)
    (hroom : (s.cell p.key).streamsOn (s.siteCycle p) buf ≤ 1) :
    s.CellBecomes p
      { s.cell p.key with
        streams := (s.siteCycle p, buf) :: (s.cell p.key).streams, due := (s.cell p.key).due ++ [⟨at_, w, (s.cell p.key).iss, slot⟩] }
      ((s.dueWrite p.key at_ slot w).stream p buf slot') := by
  have hdue := s.dueAt_dueWrite p at_ slot w
  have hentered := hdue.onCell fun c => { c with streams := (s.siteCycle p, buf) :: c.streams }
  have hstream : (s.dueWrite p.key at_ slot w).stream p buf slot' =
      (s.dueWrite p.key at_ slot w).onCell p.key fun c => { c with streams := (s.siteCycle p, buf) :: c.streams } := by
    simp only [stream, hdue.siteCycle, hentered.cell, streamsOn_cons_same]
    exact if_neg (by omega)
  rw [hstream]
  exact hentered

end State

theorem getD_fillLines (s : State) (k areg d : Nat) {nl j : Nat} (hj : j < nl) : (fillLines s k areg d nl).getD j (0, 0) = s.aline k areg d j :=
  getD_map_range _ (0, 0) hj

/-- Lane 16i + j of the lines that an operation reads is lane j of line i. -/
theorem getD_readLanes (s : State) (k areg d : Nat) {nl i j : Nat} (hi : i < nl) (hj : j < 16) :
    ((fillLines s k areg d nl).flatMap fun b => lineLanes (s.obLine k b)).getD (16 * i + j) 0 =
      (s.obLine k (s.aline k areg d i)).extractLsb' (32 * j) 32 := by
  rw [getD_flatMap_lineLanes (s.obLine k) _ (0, 0) (by simpa [fillLines] using hi) hj, getD_fillLines s k areg d hi]

/-- Settles O29: each take by where its word goes, the VST before and after its words are placed, and OBV by its stream. -/
theorem cellMoveSlotTakesAndSends : Obligations.CellMoveSlotTakesAndSends := by
  unfold Obligations.CellMoveSlotTakesAndSends
  refine ⟨?fil, ?vld, ?dsc, ?vst, ?obv⟩
  case fil =>
    intro p port areg d nl s
    have hkeeps : State.Keeps 0x6A8F8 s (filOp p port areg d nl s) := filOp_keeps p port areg d nl s (by decide) (.refl _ s)
    refine ⟨filOp p port areg d nl s, rfl, hkeeps.only (by decide), ?_⟩
    rintro w q rfl hport hqueue hfree
    rw [filOp_one areg d s hport]
    exact State.take_one_due hqueue hfree fun u => rfl
  case vld =>
    intro p port vd single q s
    have hkeeps : State.Keeps 0x6A8F8 s (vldOp p port vd single q s) := vldOp_keeps p port vd single q s (by decide) (.refl _ s)
    refine ⟨vldOp p port vd single q s, rfl, hkeeps.only (by decide), ?_⟩
    rintro w r rfl hqueue hfree
    by_cases hport : port = 5
    · subst hport
      exact take_one_gathers hqueue hfree (length_wordLanes_local w) fun i hi => getD_wordLanes_local w hi
    · simp only [vldOp, if_neg hport]
      exact take_one_gathers hqueue hfree (length_wordLanes_near w hport) fun i hi => getD_wordLanes_near w hport hi
  case dsc =>
    intro p port s
    have hkeeps : State.Keeps 0x6A8F8 s (dscOp p port s) := dscOp_keeps p port s (by decide) (.refl _ s)
    exact ⟨dscOp p port s, rfl, hkeeps.only (by decide), fun w q => State.take_one_discard⟩
  case vst =>
    intro p port vs single q s
    have hkeeps : State.Keeps 0x10 s (vstOp p port vs single q s) := vstOp_keeps p port vs single q s (by decide) (.refl _ s)
    have hnear : port ≠ 5 → single = false →
        s.CellBecomes p { s.cell p.key with placing := [(port, portWords (s.vreg p.key vs) (s.cell p.key).ep)] } (vstOp p port vs single q s) := by
      rintro hport rfl
      rw [vstOp_near vs q s hport]
      exact s.cellBecomes_onCell p _
    refine ⟨vstOp p port vs single q s, rfl, hkeeps.only (by decide), hnear, ?room, ?quarter, ?overflow⟩
    case room =>
      intro hport hwhole hroom
      have hplaced := State.placeWords_room (hnear hport hwhole) rfl (Nat.add_le_add_right hroom 2)
      exact hplaced
    case quarter =>
      rintro rfl rfl
      rw [vstOp_quarter p vs q s]
      exact s.cellBecomes_onCell p _
    case overflow =>
      intro hport hwhole hfull
      have hlost := State.placeWords_overflow (hnear hport hwhole) rfl (Nat.add_lt_add_right hfull 2)
      exact hlost
  case obv =>
    intro p areg d vd s
    have hkeeps : State.Keeps 0x6A8F8 s (obvOp p areg d vd s) := obvOp_keeps p areg d vd s (by decide) (.refl _ s)
    refine ⟨obvOp p areg d vd s, rfl, hkeeps.only (by decide), ?_⟩
    intro hroom
    refine ⟨_, ?_, State.dueWrite_stream _ 1 1 _ hroom⟩
    intro i j hi hj
    rw [lane_ofLanes _ (by omega), getD_readLanes s p.key areg d hi hj]

end Sys2Proof.Machine

/-! SUPPORT. The matrix slot of a C-cell (R147 to R151): what an MMA enters the array with, the columns of a bank, the row-scale latches, and O30. -/

namespace Sys2Proof.Machine

/-- The MMA that enters the array in the present cycle: its formats, its panels and their scales, its bank, and the row scales of the cycle (R149,
R150). -/
def mmaEntering (p : Site) (bank z fa fb aa da ab db : Nat) (s : State) : MmaSt :=
  { t0 := s.siteCycle p, t := mmaT fa fb, bank := bank, zero := z == 1 || (z == 2 && (s.cell p.key).iss.i == 0), fa := fa, fb := fb,
    aLines := fillLines s p.key aa da ((panelLines fa false).1 + (panelLines fa false).2),
    bLines := fillLines s p.key ab db ((panelLines fb true).1 + (panelLines fb true).2), aScale := [], bScale := [], aRead := [], bRead := [],
    aLatch := (List.range 64).map fun r => s.latchAt p.key r, bLatch := (List.range 96).map fun r => s.latchAt p.key (64 + r),
    iss := (s.cell p.key).iss }

theorem mmaOp_enters {p : Site} {bank : Nat} (z fa fb aa da ab db : Nat) {s : State} (hfree : (s.cell p.key).mxBusy (s.siteCycle p) = false)
    (hdone : (s.cell p.key).accPending bank = false) :
    mmaOp p bank z fa fb aa da ab db s = s.onCell p.key fun c => { c with mma := c.mma ++ [mmaEntering p bank z fa fb aa da ab db s] } := by
  simp only [mmaOp, hfree, hdone]
  rfl

/-! The bank (R151): each operation on a bank that no MMA names. -/

/-- Two writes of one operation. -/
theorem State.cellBecomes_dueWrite_dueWrite (s : State) (p : Site) (at_ slot : Nat) (w : CellWrite) (at' slot' : Nat) (w' : CellWrite) :
    s.CellBecomes p
      { s.cell p.key with due := (s.cell p.key).due ++ [⟨at_, w, (s.cell p.key).iss, slot⟩, ⟨at', w', (s.cell p.key).iss, slot'⟩] }
      ((s.dueWrite p.key at_ slot w).dueWrite p.key at' slot' w') := by
  rw [← List.singleton_append, ← List.append_assoc]
  exact (s.dueAt_dueWrite p at_ slot w).onCell fun c => { c with due := c.due ++ [⟨at', w', c.iss, slot'⟩] }

/-- What MRD reads of a column of a bank. -/
def columnLanes (s : State) (p : Site) (bank col : Nat) : BitVec 2048 := mapLanes fun r => s.accAt p.key bank r col

theorem mrdOp_idle {p : Site} {bank : Nat} (col : Nat) (ci : Bool) (vd : Nat) {s : State} (h : (s.cell p.key).accBusy bank (s.siteCycle p) = false) :
    mrdOp p bank col ci vd false s = s.dueWrite p.key (s.siteCycle p + 2) 3
      (.vreg (s.vphys p.key vd) (columnLanes s p bank (accColumn (s.cell p.key) col ci)) (BitVec.allOnes 64)) := by
  simp only [mrdOp, h]
  rfl

theorem mrdOp_idle_zeroes {p : Site} {bank : Nat} (col : Nat) (ci : Bool) (vd : Nat) {s : State}
    (h : (s.cell p.key).accBusy bank (s.siteCycle p) = false) :
    mrdOp p bank col ci vd true s =
      (mrdOp p bank col ci vd false s).dueWrite p.key (s.siteCycle p) 3 (.accCol bank (accColumn (s.cell p.key) col ci) 0) := by
  rw [mrdOp_idle col ci vd h]
  simp only [mrdOp, h]
  rfl

theorem mwrOp_idle {p : Site} {bank : Nat} (col : Nat) (ci : Bool) (vs : Nat) {s : State} (h : (s.cell p.key).accBusy bank (s.siteCycle p) = false) :
    mwrOp p bank col ci vs s =
      s.dueWrite p.key (s.siteCycle p + 1) 3 (.accCol bank (accColumn (s.cell p.key) col ci) (s.vreg p.key vs)) := by
  simp only [mwrOp, h]
  rfl

theorem mzOp_idle {p : Site} {bank : Nat} {s : State} (h : (s.cell p.key).accBusy bank (s.siteCycle p) = false) :
    mzOp p bank s = s.dueWrite p.key (s.siteCycle p + 1) 3 (.accZero bank) := by
  simp only [mzOp, h]
  rfl

theorem mzOp_busy {p : Site} {bank : Nat} {s : State} (h : (s.cell p.key).accBusy bank (s.siteCycle p) = true) :
    mzOp p bank s = s.cellFault p.key 2 3 0 := if_pos h

/-! The row-scale latches (R150). -/

/-- How many lines a latch is loaded from: four for side A, six for side B. -/
def latchLines (side : Nat) : Nat := if side = 0 then 4 else 6

/-- The lanes that MRS loads. -/
def latchLanes (s : State) (p : Site) (side areg d : Nat) : List Lane :=
  (fillLines s p.key areg d (latchLines side)).flatMap fun b => lineLanes (s.obLine p.key b)

theorem length_latchLanes (s : State) (p : Site) (side areg d : Nat) : (latchLanes s p side areg d).length = if side = 0 then 64 else 96 := by
  simp only [latchLanes, fillLines, latchLines, List.length_flatMap, length_lineLanes, List.map_const', List.sum_replicate, List.length_map,
    List.length_range]
  split <;> rfl

theorem mrsOp_free {p : Site} (side areg d : Nat) {s : State} (h : (s.cell p.key).mxBusy (s.siteCycle p) = false) :
    mrsOp p side areg d s =
      (s.dueWrite p.key (s.siteCycle p + 1) 3 (.latch side (latchLanes s p side areg d))).stream p (s.aline p.key areg d 0).1 3 := by
  have hfirst : (fillLines s p.key areg d (latchLines side)).headD (0, 0) = s.aline p.key areg d 0 := by
    unfold latchLines
    split <;> rfl
  rw [← hfirst]
  simp only [mrsOp, h]
  rfl

/-- Settles O30: MMA by what it enters the array with, MRD, MWR and MZ by the writes that fall due on a bank that no MMA names, and MRS by its
stream. -/
theorem cellMatrixSlot : Obligations.CellMatrixSlot := by
  unfold Obligations.CellMatrixSlot
  refine ⟨?mma, ?mrd, ?mwr, ?mz, ?mrs⟩
  case mma =>
    intro p bank z fa fb aa da ab db s
    have hkeeps : State.Keeps 0x6A8F8 s (mmaOp p bank z fa fb aa da ab db s) := mmaOp_keeps p bank z fa fb aa da ab db s (by decide) (.refl _ s)
    refine ⟨mmaOp p bank z fa fb aa da ab db s, rfl, hkeeps.only (by decide), ?_⟩
    intro hfree hdone
    rw [mmaOp_enters z fa fb aa da ab db hfree hdone]
    exact ⟨mmaEntering p bank z fa fb aa da ab db s, s.cellBecomes_onCell p _, rfl, rfl, rfl, rfl, rfl, rfl, rfl, rfl, rfl,
      fun r hr => getD_map_range _ 0 hr, fun r hr => getD_map_range _ 0 hr, fun j hj => getD_fillLines s p.key aa da hj,
      fun j hj => getD_fillLines s p.key ab db hj⟩
  case mrd =>
    intro p bank col ci vd zr s
    have hkeeps : State.Keeps 0x6A8F8 s (mrdOp p bank col ci vd zr s) := mrdOp_keeps p bank col ci vd zr s (by decide) (.refl _ s)
    refine ⟨mrdOp p bank col ci vd zr s, rfl, hkeeps.only (by decide), ?_⟩
    intro hidle
    refine ⟨columnLanes s p bank (accColumn (s.cell p.key) col ci), fun r hr => lane_mapLanes _ hr, ?read, ?zeroes⟩
    case read =>
      rintro rfl
      rw [mrdOp_idle col ci vd hidle]
      exact s.dueAt_dueWrite p _ 3 _
    case zeroes =>
      rintro rfl
      rw [mrdOp_idle_zeroes col ci vd hidle, mrdOp_idle col ci vd hidle]
      exact s.cellBecomes_dueWrite_dueWrite p _ 3 _ _ 3 _
  case mwr =>
    intro p bank col ci vs s
    have hkeeps : State.Keeps 0x6A8F8 s (mwrOp p bank col ci vs s) := mwrOp_keeps p bank col ci vs s (by decide) (.refl _ s)
    refine ⟨mwrOp p bank col ci vs s, rfl, hkeeps.only (by decide), ?_⟩
    intro hidle
    rw [mwrOp_idle col ci vs hidle]
    exact s.dueAt_dueWrite p _ 3 _
  case mz =>
    intro p bank s
    have hkeeps : State.Keeps 0x6A8F8 s (mzOp p bank s) := mzOp_keeps p bank s (by decide) (.refl _ s)
    refine ⟨mzOp p bank s, rfl, hkeeps.only (by decide), ?idle, ?busy⟩
    case idle =>
      intro hidle
      rw [mzOp_idle hidle]
      exact s.dueAt_dueWrite p _ 3 _
    case busy =>
      intro hbusy hrow hcol g hglove hrun
      rw [mzOp_busy hbusy]
      exact State.exec_cellException_cellFault 2 3 0 hrow hcol hglove hrun
  case mrs =>
    intro p side areg d s
    have hkeeps : State.Keeps 0x6A8F8 s (mrsOp p side areg d s) := mrsOp_keeps p side areg d s (by decide) (.refl _ s)
    refine ⟨mrsOp p side areg d s, rfl, hkeeps.only (by decide), ?_⟩
    intro hfree hroom
    rw [mrsOp_free side areg d hfree]
    exact ⟨latchLanes s p side areg d, length_latchLanes s p side areg d, fun i j hi hj => getD_readLanes s p.key areg d hi hj,
      State.dueWrite_stream _ 3 3 _ hroom⟩

end Sys2Proof.Machine

/-! SUPPORT. Glove sequencers as they are read and updated (R208, R209): one sequencer's update, what a fetched word does, and the branches of R211,
with O22. -/

namespace Sys2Proof.Machine

/-- A list after one of its elements is set, grown where it was too short. -/
theorem getD_setPad {α : Type} (l : List α) (i : Nat) (v d : α) (j : Nat) : (setPad l i v d).getD j d = if j = i then v else l.getD j d := by
  simp only [List.getD_eq_getElem?_getD]
  unfold setPad
  split
  · rename_i hin
    by_cases hj : j = i
    · subst hj
      simp [hin]
    · simp [List.getElem?_set_ne (Ne.symm hj), hj]
  · rename_i hout
    rw [List.append_assoc]
    by_cases hlen : j < l.length
    · rw [List.getElem?_append_left hlen, if_neg (by omega)]
    · rw [List.getElem?_append_right (by omega), List.getElem?_eq_none (l := l) (by omega)]
      by_cases hpad : j < i
      · rw [List.getElem?_append_left (by simp; omega), if_neg (by omega), List.getElem?_replicate_of_lt (by omega)]
        rfl
      · rw [List.getElem?_append_right (by simp; omega), List.length_replicate]
        by_cases hj : j = i
        · subst hj
          simp
        · rw [if_neg hj, List.getElem?_eq_none (by simp; omega)]

namespace State

/-! One sequencer's update. -/

theorem gsq_onGsq_other (s : State) {q r : Nat} (f : GsqSt → GsqSt) (hr : r ≠ q) : (s.onGsq q f).gsq r = s.gsq r := SMap.at_upd_other _ _ hr

/-- From `s` to `t` sequencer `q` becomes `x`, and nothing else changes. -/
def GsqBecomes (s : State) (q : Nat) (x : GsqSt) (t : State) : Prop := s.OnlyChanges [.seq] t ∧ s.GsqAlone q t ∧ t.gsq q = x

theorem gsqBecomes_refl (s : State) (q : Nat) : s.GsqBecomes q (s.gsq q) s :=
  ⟨.refl s _, ⟨fun _ _ => rfl, rfl, rfl, rfl, rfl⟩, rfl⟩

namespace GsqBecomes

variable {s t : State} {q : Nat} {x : GsqSt}

theorem only (h : s.GsqBecomes q x t) : s.OnlyChanges [.seq] t := h.1

theorem alone (h : s.GsqBecomes q x t) : s.GsqAlone q t := h.2.1

theorem gsq (h : s.GsqBecomes q x t) : t.gsq q = x := h.2.2

theorem pats (h : s.GsqBecomes q x t) : t.seq.pats = s.seq.pats := by
  obtain ⟨_, _, _, _, hpats⟩ := h.alone
  exact hpats

/-- A further update of the same sequencer. -/
theorem onGsq (h : s.GsqBecomes q x t) (f : GsqSt → GsqSt) : s.GsqBecomes q (f x) (t.onGsq q f) := by
  obtain ⟨honly, ⟨hothers, hstore, hmarks, himgs, hpats⟩, rfl⟩ := h
  exact ⟨honly.trans ((onGsq_keeps t q f (m_ := 0x20) (by decide) (.refl _ t)).only (by decide)),
    ⟨fun r hr => (gsq_onGsq_other t f hr).trans (hothers r hr), hstore, hmarks, himgs, hpats⟩, gsq_onGsq_same t q f⟩

/-- A further update, by what it makes of the sequencer. -/
theorem onGsq_eq (h : s.GsqBecomes q x t) {f : GsqSt → GsqSt} {y : GsqSt} (hf : f x = y) : s.GsqBecomes q y (t.onGsq q f) := hf ▸ h.onGsq f

/-- The sequencer goes on at an address. -/
theorem gsqGo (h : s.GsqBecomes q x t) (pc : Nat) :
    s.GsqBecomes q { x with pc := pc, state := .running, waitFor := none, deadline := none } (t.gsqGo q pc) := h.onGsq _

theorem gsqNext (h : s.GsqBecomes q x t) :
    s.GsqBecomes q { x with pc := x.pc + 1, state := .running, waitFor := none, deadline := none } (t.gsqNext q) := by
  unfold State.gsqNext
  rw [h.gsq]
  exact h.gsqGo _

theorem gsqSt (h : s.GsqBecomes q x t) (st : Nat) :
    s.GsqBecomes q { x with st := st, pc := x.pc + 1, state := .running, waitFor := none, deadline := none } (t.gsqSt q st) :=
  (h.onGsq fun x => { x with st := st }).gsqNext

theorem rerunPoint (h : s.GsqBecomes q x t) (ident : Nat) :
    s.GsqBecomes q { x with rerun := ⟨x.pc, x.g, ident, 0⟩ } (t.rerunPoint q ident) := h.onGsq _

theorem setGreg (h : s.GsqBecomes q x t) (n : Nat) (v : Word) :
    s.GsqBecomes q { x with g := if n = 0 then x.g else setPad x.g n v 0 } (t.setGreg q n v) := by
  unfold State.setGreg
  split
  · exact h
  · exact h.onGsq _

/-- The sequencer waits, with its deadline from the time of `s`. -/
theorem gsqWait (h : s.GsqBecomes q x t) (w : WaitFor) (tmo : Nat) :
    s.GsqBecomes q { x with state := .waiting, waitFor := some w, deadline := s.deadlineOf tmo } (t.gsqWait q w tmo) := by
  have hnow : t.deadlineOf tmo = s.deadlineOf tmo := by
    unfold State.deadlineOf
    rw [h.only.tick]
  rw [← hnow]
  exact h.onGsq _

/-- A branch under a test `c` that says `P`. -/
theorem gsqBranch (h : s.GsqBecomes q x t) (d : Nat) {c : Bool} {P : Prop} [Decidable P] (hc : c = true ↔ P) :
    s.GsqBecomes q { x with pc := if P then d else x.pc + 1, state := .running, waitFor := none, deadline := none } (t.gsqBranch q d c) := by
  unfold State.gsqBranch
  by_cases hP : P
  · rw [if_pos (hc.mpr hP), if_pos hP]
    exact h.gsqGo d
  · rw [if_neg (hc.not.mpr hP), if_neg hP]
    exact h.gsqNext

/-- A sequencer that goes on, beside what WAIT SEALED has still to report. -/
theorem ran {pc st : Nat} {gs : List Word} {w : Option WaitFor} {d : Option (Nat × Nat)} {e : Option Nat} {g : Nat → Word}
    (h : s.GsqBecomes q { s.gsq q with pc := pc, st := st, g := gs, state := .running, waitFor := w, deadline := d, sealFail := e } t)
    (hg : ∀ n, n < 16 → (if n = 0 then 0 else gs.getD n 0) = g n) : s.GsqRan q pc st g t := by
  refine ⟨h.only, h.alone, ?_, ?_, ?_, ?_, fun n hn => ?_⟩
  · unfold GsqHolds
    rw [h.gsq]
    exact ⟨rfl, rfl, rfl, rfl, rfl, rfl, rfl, rfl⟩
  · rw [h.gsq]
  · rw [h.gsq]
  · rw [h.gsq]
  · unfold greg
    rw [h.gsq]
    exact hg n hn

/-- A sequencer that begins to wait. -/
theorem waits {w : WaitFor} {tmo : Nat}
    (h : s.GsqBecomes q { s.gsq q with state := .waiting, waitFor := some w, deadline := s.deadlineOf tmo } t) : s.GsqWaits q w tmo t := by
  refine ⟨h.only, h.alone, ?_, ?_⟩
  · unfold GsqHolds
    rw [h.gsq]
    exact ⟨rfl, rfl, rfl, rfl, rfl, rfl, rfl, rfl⟩
  · rw [h.gsq]
    exact ⟨rfl, rfl, rfl, rfl, rfl, rfl⟩

end GsqBecomes

/-- A sequencer that does nothing but go on with a status. -/
theorem gsqRan_gsqSt (s : State) (q st : Nat) : s.GsqRan q ((s.gsq q).pc + 1) st (s.greg q) (s.gsqSt q st) :=
  ((s.gsqBecomes_refl q).gsqSt st).ran fun _ _ => rfl

/-- A sequencer that does nothing but begin to wait. -/
theorem gsqWaits_gsqWait (s : State) (q : Nat) (w : WaitFor) (tmo : Nat) : s.GsqWaits q w tmo (s.gsqWait q w tmo) :=
  ((s.gsqBecomes_refl q).gsqWait w tmo).waits

/-! G registers (R208). -/

/-- The registers of a list in which register `k` has been written: G0 takes no write. -/
theorem gregs_written (l : List Word) (k : Nat) (v : Word) (n : Nat) :
    (if n = 0 then 0 else (if k = 0 then l else setPad l k v 0).getD n 0) =
      if n = k ∧ k ≠ 0 then v else if n = 0 then 0 else l.getD n 0 := by
  by_cases hk : k = 0
  · simp [hk]
  · by_cases hn : n = k
    · subst hn
      rw [if_neg hk, if_neg hk, if_pos ⟨rfl, hk⟩, getD_setPad, if_pos rfl]
    · rw [if_neg hk, if_neg (not_and_of_not_left _ hn), getD_setPad, if_neg hn]

theorem greg_setGreg_same (s : State) (q n : Nat) (v : Word) : (s.setGreg q n v).greg q n = if n = 0 then 0 else v := by
  by_cases hn : n = 0
  · simp [greg, hn]
  · unfold greg setGreg
    rw [if_neg hn, if_neg hn, if_neg hn, gsq_onGsq_same, getD_setPad, if_pos rfl]

/-! Fetched words (R209). -/

/-- A sequencer that fetches the word of an instruction executes it. -/
theorem issueGsq_of_fetches {s : State} {q : Nat} {w : Word} (h : s.Fetches q w) (f : State → State) : s.issueGsq q w f = f s := by
  obtain ⟨hruns, hglove, hdie, hmark, hword⟩ := h
  have hissues : ¬ ((s.gsq q).state ≠ .running ∨ (s.gsq q).glove.isNone = true ∨ s.dieStopped (q / 8) = true) := by
    simp [hruns, hdie, Option.isNone_eq_false_iff.mpr hglove]
  unfold issueGsq
  dsimp only
  rw [if_neg hissues, if_neg (by simp [hmark]), if_neg (not_not_intro hword)]

/-- A command that executes a fetched word: whatever it fetches it completes, and where it fetches its own word it does what the word says. -/
theorem completes_fetched {c : Instr} {s : State} {q : Nat} {w : Word} {f : State → State} {P : State → Prop}
    (hexec : exec c s = .next (s.issueGsq q w f)) (hkeeps : Keeps 0x6A8F0 s (s.issueGsq q w f)) (hfetched : s.Fetches q w → P (f s)) :
    ∃ t : State, exec c s = .next t ∧ s.OnlyChanges [.arr, .seq, .mem, .glv, .stw, .host, .regs, .out, .freeCtr] t ∧ (s.Fetches q w → P t) :=
  ⟨_, hexec, hkeeps.only (by decide), fun hfetch => by rw [issueGsq_of_fetches hfetch]; exact hfetched hfetch⟩

end State

/-! Branches (R211). -/

/-- The test of BST, by its mode. -/
theorem bst_test (mode st code : Nat) :
    (match mode with | 0 => decide (st ≥ 0x10) | 1 => st == code | _ => st != code) = true ↔
      (mode = 0 ∧ 0x10 ≤ st) ∨ (mode = 1 ∧ st = code) ∨ (mode ≥ 2 ∧ st ≠ code) := by
  match mode with
  | 0 => simp
  | 1 => simp
  | m + 2 => simp

/-- Settles O22: the branches by their tests, SECB and HALT as updates of their sequencer alone. -/
theorem sequencerBranches : Obligations.SequencerBranches := by
  unfold Obligations.SequencerBranches
  refine ⟨?br, ?bnz, ?djnz, ?bst, ?secb, ?halt⟩
  case br =>
    intro q d s
    exact State.completes_fetched rfl (brOp_keeps q d s (by decide) (.refl _ s)) fun _ =>
      ((s.gsqBecomes_refl q).gsqGo d).ran fun _ _ => rfl
  case bnz =>
    intro q ga d s
    exact State.completes_fetched rfl (bnzOp_keeps q ga d s (by decide) (.refl _ s)) fun _ =>
      ((s.gsqBecomes_refl q).gsqBranch d bne_iff_ne).ran fun _ _ => rfl
  case djnz =>
    intro q gd d s
    have htest : ((s.setGreg q gd (s.greg q gd - 1)).greg q gd != 0) = true ↔ gd ≠ 0 ∧ s.greg q gd - 1 ≠ 0 := by
      rw [bne_iff_ne, State.greg_setGreg_same]
      by_cases hgd : gd = 0 <;> simp [hgd]
    exact State.completes_fetched rfl (djnzOp_keeps q gd d s (by decide) (.refl _ s)) fun _ =>
      (((s.gsqBecomes_refl q).setGreg gd _).gsqBranch d htest).ran fun n _ => State.gregs_written _ gd _ n
  case bst =>
    intro q mode code d s
    exact State.completes_fetched rfl (bstOp_keeps q mode code d s (by decide) (.refl _ s)) fun _ =>
      ((s.gsqBecomes_refl q).gsqBranch d (bst_test mode (s.gsq q).st code)).ran fun _ _ => rfl
  case secb =>
    intro q ident s
    refine State.completes_fetched rfl (secbOp_keeps q ident s (by decide) (.refl _ s)) fun _ => ?_
    have hgsq := (s.gsqBecomes_refl q).gsqNext.rerunPoint ident
    rw [hgsq.gsq]
    exact ⟨hgsq.only, hgsq.alone, rfl, rfl, rfl, rfl, rfl⟩
  case halt =>
    intro q s
    refine State.completes_fetched rfl (haltOp_keeps q s (by decide) (.refl _ s)) fun _ => ?_
    have hgsq := (s.gsqBecomes_refl q).onGsq fun x => { x with state := .halted }
    rw [hgsq.gsq]
    exact ⟨hgsq.only, hgsq.alone, rfl, rfl, rfl, rfl⟩

end Sys2Proof.Machine

/-! SUPPORT. Loads, armed switches and switch requests of a glove sequencer (R203, R211, R215, R216), what the dispatcher leaves of the sequencers
(R443), and O23. -/

namespace Sys2Proof.Machine

open Adr

namespace State

/-! Slots and loads (R203, R211). -/

/-- With no switch armed or requested none out of a slot is pending. -/
theorem outPending_idle {s : State} {q : Nat} (slot : Nat) (harm : (s.gsq q).arm = none) (hsw : (s.gsq q).sw = none) : s.outPending q slot = false := by
  unfold outPending
  dsimp only
  rw [harm, hsw]
  simp

/-- A load of a slot that is neither ACTIVE nor ARMED begins. -/
theorem startLoad_begins {s : State} {q slot : Nat} (ta : Nat) (harm : (s.gsq q).arm = none) (hactive : (s.gsq q).slots.getD slot .empty ≠ .active)
    (harmed : (s.gsq q).slots.getD slot .empty ≠ .armed) :
    s.GsqBecomes q { s.gsq q with
      slots := setPad (s.gsq q).slots slot .loading .empty, load := some (slot, ta), loadSt := setPad (s.gsq q).loadSt slot 0 0 } (s.startLoad q slot ta) := by
  have hslot : s.GsqBecomes q { s.gsq q with slots := setPad (s.gsq q).slots slot .loading .empty } (s.setSlot q slot .loading) := by
    refine (s.gsqBecomes_refl q).onGsq_eq ?_
    dsimp only
    rw [harm]
  unfold startLoad
  dsimp only
  rw [if_neg (not_or.mpr ⟨hactive, harmed⟩)]
  exact hslot.onGsq _

/-- A switch to a LOADED slot is armed at an accepted time. -/
theorem armSwitch_accepted {s : State} {q slot tick ofs : Nat} (harm : (s.gsq q).arm = none) (hsw : (s.gsq q).sw = none)
    (hslot : s.slotBase q slot = .loaded) (htime : s.timeRefusal tick ofs = 0) :
    s.armSwitch q slot tick ofs = (s.onGsq q fun x =>
      { x with arm := some ⟨slot, tick, ofs, .loaded⟩, slots := setPad x.slots slot .armed .empty }, stOK) := by
  unfold armSwitch
  simp [harm, hsw, hslot, htime]

/-! The dispatcher (R443). -/

/-- From `s` to `t` the patterns stay, and each sequencer but for how its switch request stands: no request comes, goes or changes its slot. -/
def Dispatched (s t : State) : Prop :=
  t.seq.pats = s.seq.pats ∧ ∀ q, ∃ w, t.gsq q = { s.gsq q with sw := w } ∧
    w.map (fun r => (r.slot, r.fromArm)) = (s.gsq q).sw.map fun r => (r.slot, r.fromArm)

namespace Dispatched

variable {s t u : State}

theorem of_seq (h : t.seq = s.seq) : s.Dispatched t := by
  refine ⟨by rw [h], fun q => ⟨(s.gsq q).sw, ?_, rfl⟩⟩
  unfold gsq
  rw [h]

theorem trans (h : s.Dispatched t) (h' : t.Dispatched u) : s.Dispatched u := by
  obtain ⟨hpats, hgsq⟩ := h
  obtain ⟨hpats', hgsq'⟩ := h'
  refine ⟨hpats'.trans hpats, fun q => ?_⟩
  obtain ⟨w, hw, hslot⟩ := hgsq q
  obtain ⟨w', hw', hslot'⟩ := hgsq' q
  rw [hw] at hw' hslot'
  exact ⟨w', hw', hslot'.trans hslot⟩

/-- An update of one request that leaves its slot and its origin. -/
theorem onGsq (s : State) (q : Nat) {f : GsqSt → GsqSt} {w : Option SwReq} (hf : f (s.gsq q) = { s.gsq q with sw := w })
    (hslot : w.map (fun r => (r.slot, r.fromArm)) = (s.gsq q).sw.map fun r => (r.slot, r.fromArm)) : s.Dispatched (s.onGsq q f) := by
  refine ⟨rfl, fun r => ?_⟩
  by_cases hr : r = q
  · subst hr
    exact ⟨w, (gsq_onGsq_same s r f).trans hf, hslot⟩
  · exact ⟨(s.gsq r).sw, gsq_onGsq_other s f hr, rfl⟩

/-- A run of steps each of which keeps the requests. -/
theorem foldl {α β : Type} {p : α → State} {f : α → β → α} {a : α} (l : List β) (hstep : ∀ x b, (p x).Dispatched (p (f x b))) :
    (p a).Dispatched (p (l.foldl f a)) :=
  List.foldlRecOn (motive := fun x => (p a).Dispatched (p x)) l f (of_seq rfl) fun x hx b _ => hx.trans (hstep x b)

end Dispatched

theorem admitSwitch_dispatched (s : State) (q t : Nat) : s.Dispatched (s.admitSwitch q t) := by
  refine (Dispatched.of_seq (t := s.charge (s.gsqGlove q) (s.estAt q t)) rfl).trans (Dispatched.onGsq _ q rfl ?_)
  cases ((s.charge (s.gsqGlove q) (s.estAt q t)).gsq q).sw <;> rfl

/-- A request judged is left waiting, or admitted once its dies have been set. -/
theorem judgeReq_dispatched (s : State) (q : Nat) (older : List Nat) : s.Dispatched (s.judgeReq q older) := by
  have hset : ∀ ks t, s.Dispatched (s.setStep ks t) := fun ks t =>
    .of_seq (setStep_keeps (m_ := 0x24008) s ks t (by decide) (.refl _ s)).seq
  have hlower : ∀ ks t, s.Dispatched (s.lowerTo ks t) := fun ks t =>
    .of_seq (lowerTo_keeps (m_ := 0x24008) s ks t (by decide) (.refl _ s)).seq
  have hgo : ∀ (c : Prop) [Decidable c] ks t, s.Dispatched ((if c then s.setStep ks t else s.lowerTo ks t).admitSwitch q t) := fun c _ ks t => by
    refine Dispatched.trans ?_ (admitSwitch_dispatched _ q t)
    split
    · exact hset ks t
    · exact hlower ks t
  unfold judgeReq
  dsimp only
  split
  · split
    · exact hgo _ _ _
    · exact .of_seq rfl
  · split
    · exact hgo _ _ _
    · split
      · exact .of_seq rfl
      · split
        · exact hgo _ _ _
        · exact .of_seq rfl

theorem holdReq_dispatched (s : State) (q : Nat) : s.Dispatched (s.holdReq q) := by
  unfold holdReq
  cases hsw : (s.gsq q).sw with
  | none => exact .of_seq rfl
  | some r =>
    dsimp only
    split
    · exact .of_seq rfl
    · have hseq : ((s.raise tkeLevt 0).raise (gsqEvt q) 2).seq = s.seq := by simp
      have hgsq : ((s.raise tkeLevt 0).raise (gsqEvt q) 2).gsq q = s.gsq q := by unfold gsq; rw [hseq]
      refine (Dispatched.of_seq hseq).trans ((Dispatched.onGsq _ q (w := some { r with deferred := true }) rfl ?_).trans (.of_seq rfl))
      rw [hgsq, hsw]
      rfl

theorem dispatch_dispatched (s : State) : s.Dispatched s.dispatch := by
  have hhold : ∀ (l : List Nat) (u : State), u.Dispatched (l.foldl (fun v q => v.holdReq q) u) := fun l u =>
    Dispatched.foldl (p := id) l fun v q => holdReq_dispatched v q
  unfold dispatch
  dsimp only
  refine Dispatched.trans ?_ (hhold _ _)
  split
  · exact .of_seq rfl
  · exact Dispatched.foldl (p := Prod.fst) (a := (s, ([] : List Nat))) _ fun x q => judgeReq_dispatched x.1 q x.2

/-! Switch requests (R211, R215). -/

/-- SWI while a switch is armed or requested. -/
theorem requestSwitch_pending {s : State} {q : Nat} (slot : Nat) (h : (s.gsq q).sw.isSome = true) : s.requestSwitch q slot = (s, stConflict) := by
  unfold requestSwitch
  dsimp only
  rw [if_pos (.inr h)]

/-- SWI of a LOADED or ACTIVE slot with no switch under way: the sequencer has its request and is otherwise as it was, and the status is OK or
DEFERRED. -/
theorem requestSwitch_made {s : State} {q slot : Nat} (harm : (s.gsq q).arm = none) (hsw : (s.gsq q).sw = none)
    (hslot : s.slotBase q slot = .loaded ∨ s.slotBase q slot = .active) :
    ∃ u st r, s.requestSwitch q slot = (u, st) ∧ (st = stOK ∨ st = 0x02) ∧ u.seq.pats = s.seq.pats ∧ u.gsq q = { s.gsq q with sw := some r } ∧
      r.slot = slot ∧ r.fromArm = false := by
  have hbase : ¬ (s.slotBase q slot ≠ .loaded ∧ s.slotBase q slot ≠ .active) := fun h => hslot.elim h.1 h.2
  unfold requestSwitch
  dsimp only
  rw [if_neg (by simp [harm, hsw]), if_neg hbase]
  generalize hasks : ((s.onGsq q fun x => { x with sw := some ⟨slot, false, false, false, s.seq.order, 0⟩ }).onSeq fun b =>
    { b with order := b.order + 1 }) = v
  have hv : v.gsq q = { s.gsq q with sw := some ⟨slot, false, false, false, s.seq.order, 0⟩ } := by
    rw [← hasks]
    exact gsq_onGsq_same s q fun x => { x with sw := some ⟨slot, false, false, false, s.seq.order, 0⟩ }
  have hvpats : v.seq.pats = s.seq.pats := by rw [← hasks]; rfl
  obtain ⟨hpats, hgsq⟩ := dispatch_dispatched v
  obtain ⟨w, hw, hreq⟩ := hgsq q
  rw [hv] at hw hreq
  obtain ⟨r, rfl, hr⟩ := Option.map_eq_some_iff.mp hreq
  obtain ⟨hrslot, hrarm⟩ := Prod.mk.inj hr
  refine ⟨v.dispatch, _, r, rfl, ?_, hpats.trans hvpats, hw, hrslot, hrarm⟩
  rw [hw]
  dsimp only
  split
  · exact .inr rfl
  · exact .inl rfl

/-- WAIT DONE with a requested switch not yet taken. -/
theorem waitForDone_pending {s : State} {q : Nat} (tmo : Nat) (h : s.swPending q = true) : s.waitForDone q tmo = s.gsqWait q .done tmo := by
  unfold waitForDone
  dsimp only
  rw [if_pos h]

end State

/-- Settles O23: LOAD and ARM as updates of their sequencer, SWI and RUN by the request that the dispatcher leaves standing. -/
theorem sequencerLoadsArmsAndSwitches : Obligations.SequencerLoadsArmsAndSwitches := by
  unfold Obligations.SequencerLoadsArmsAndSwitches
  refine ⟨?load, ?arm, ?swi, ?run⟩
  case load =>
    intro q slot ga s
    refine State.completes_fetched rfl (loadOp_keeps q slot ga s (by decide) (.refl _ s)) fun _ harm hsw hload hactive harmed => ?_
    rw [if_neg (by simp [hload, State.outPending_idle slot harm hsw])]
    have hgsq := (State.startLoad_begins (s.greg q ga).toNat harm hactive harmed).gsqSt stOK
    rw [hgsq.gsq]
    exact ⟨hgsq.only, hgsq.alone, rfl, by rw [getD_setPad, if_pos rfl], rfl, rfl, rfl, rfl⟩
  case arm =>
    intro q slot ga ofs s
    refine State.completes_fetched rfl (armOp_keeps q slot ga ofs s (by decide) (.refl _ s)) fun _ harm hsw hslot htime => ?_
    rw [State.armSwitch_accepted harm hsw hslot htime]
    have hgsq := ((s.gsqBecomes_refl q).onGsq fun x => { x with
      arm := some ⟨slot, (s.greg q ga).toNat, ofs, .loaded⟩, slots := setPad x.slots slot .armed .empty }).gsqSt stOK
    rw [hgsq.gsq]
    exact ⟨hgsq.only, hgsq.alone, rfl, by rw [getD_setPad, if_pos rfl], rfl, rfl, rfl, rfl⟩
  case swi =>
    intro q slot s
    have hkeeps : State.Keeps 0x6E8F8 s (swiOp q slot s) := swiOp_keeps q slot s (by decide) (.refl _ s)
    refine ⟨swiOp q slot s, rfl, hkeeps.only (by decide), fun hfetch harm hsw hslot => ?_, fun hfetch hpending => ?_⟩
    · obtain ⟨u, st, r, hreq, hst, hpats, hgsq, hrslot, hrarm⟩ := State.requestSwitch_made harm hsw hslot
      have hnext := (u.gsqBecomes_refl q).gsqSt st
      rw [swiOp, State.issueGsq_of_fetches hfetch, hreq, hnext.gsq, hnext.pats, hgsq]
      exact ⟨hpats, by simp [hrslot, hrarm], rfl, hst, rfl, rfl⟩
    · rw [swiOp, State.issueGsq_of_fetches hfetch, State.requestSwitch_pending slot hpending]
      exact s.gsqRan_gsqSt q stConflict
  case run =>
    intro q slot ga s
    have hkeeps : State.Keeps 0x6E8F8 s (runOp q slot ga s) := runOp_keeps q slot ga s (by decide) (.refl _ s)
    refine ⟨runOp q slot ga s, rfl, hkeeps.only (by decide), fun hfetch harm hsw hslot => ?_⟩
    obtain ⟨u, st, r, hreq, hst, _, hgsq, hrslot, hrarm⟩ := State.requestSwitch_made harm hsw hslot
    have hok : ¬ st ≥ 0x10 := by rcases hst with rfl | rfl <;> decide
    have hpending : u.swPending q = true := by
      unfold State.swPending
      rw [hgsq]
      simp [hrarm]
    have hwaits := (u.gsqBecomes_refl q).gsqWait .done ((s.greg q ga).field 0 16)
    rw [runOp, State.issueGsq_of_fetches hfetch, hreq]
    dsimp only
    rw [if_neg hok, State.waitForDone_pending _ hpending, hwaits.gsq, hgsq]
    exact ⟨by simp [hrslot, hrarm], rfl, rfl, rfl, rfl⟩

end Sys2Proof.Machine

/-! SUPPORT. The waits of a glove sequencer (R211 to R213): a wait begins, and ends at once where its condition holds, and O24. -/

namespace Sys2Proof.Machine

open Adr

namespace State

/-! A wait that begins. -/

theorem gsq_gsqWait (s : State) (q : Nat) (w : WaitFor) (tmo : Nat) : (s.gsqWait q w tmo).gsq q =
    { s.gsq q with state := .waiting, waitFor := some w, deadline := s.deadlineOf tmo } := gsq_onGsq_same _ _ _

/-- A wait that ends as it begins. -/
theorem gsqRan_gsqWait_gsqSt (s : State) (q : Nat) (w : WaitFor) (tmo st : Nat) :
    s.GsqRan q ((s.gsq q).pc + 1) st (s.greg q) ((s.gsqWait q w tmo).gsqSt q st) :=
  (((s.gsqBecomes_refl q).gsqWait w tmo).gsqSt st).ran fun _ _ => rfl

theorem slotBase_gsqWait (s : State) (q : Nat) (w : WaitFor) (tmo slot : Nat) : (s.gsqWait q w tmo).slotBase q slot = s.slotBase q slot := by
  unfold slotBase
  rw [gsq_gsqWait]

theorem armPending_gsqWait (s : State) (q : Nat) (w : WaitFor) (tmo : Nat) : (s.gsqWait q w tmo).armPending q = s.armPending q := by
  unfold armPending
  rw [gsq_gsqWait]

theorem arrival_gsqWait (s : State) (q : Nat) (w : WaitFor) (tmo : Nat) (v : Word) : (s.gsqWait q w tmo).arrival v = s.arrival v := rfl

/-! WAIT DONE (R212). -/

theorem waitForDone_unpending {s : State} {q : Nat} (tmo : Nat) (h : s.swPending q = false) : s.waitForDone q tmo =
    if (s.pat (s.gsqGlove q)).valid = false then s.gsqSt q stConflict else if (s.pat (s.gsqGlove q)).done then s.gsqSt q stOK else s.gsqWait q .done tmo := by
  unfold waitForDone
  dsimp only
  rw [if_neg (by simp [h])]

/-! The conditions judged as a wait begins (R212). -/

section

variable {s : State} {q : Nat}

theorem wakeLoaded_loading {slot : Nat} (hwait : (s.gsq q).waitFor = some (.loaded slot)) (hslot : s.slotBase q slot = .loading) :
    s.wakeLoaded q = s := by
  unfold wakeLoaded
  rw [hwait]
  dsimp only
  rw [hslot]

theorem wakeLoaded_empty {slot : Nat} (hwait : (s.gsq q).waitFor = some (.loaded slot)) (hslot : s.slotBase q slot = .empty) :
    s.wakeLoaded q = s.gsqSt q stSlotNotReady := by
  unfold wakeLoaded
  rw [hwait]
  dsimp only
  rw [hslot]

theorem wakeLoaded_loaded {slot : Nat} (hwait : (s.gsq q).waitFor = some (.loaded slot)) (hloading : s.slotBase q slot ≠ .loading)
    (hempty : s.slotBase q slot ≠ .empty) : s.wakeLoaded q = s.gsqSt q ((s.gsq q).loadSt.getD slot 0) := by
  unfold wakeLoaded
  rw [hwait]
  dsimp only
  cases hslot : s.slotBase q slot with
  | loading => exact absurd hslot hloading
  | empty => exact absurd hslot hempty
  | _ => rfl

theorem wakeArrival_waiting {n v : Nat} (hwait : (s.gsq q).waitFor = some (.arrival n v)) :
    s.wakeArrival q = if v ≤ s.arrival (BitVec.ofNat 64 n) then s.gsqSt q stOK else s := by
  unfold wakeArrival
  rw [hwait]

theorem wakeSwitched_waiting (hwait : (s.gsq q).waitFor = some .switched) :
    s.wakeSwitched q = if s.armPending q then s else s.gsqSt q (s.gsq q).swStatus := by
  unfold wakeSwitched
  rw [hwait]

theorem wakeSealed_waiting (hwait : (s.gsq q).waitFor = some .sealed) : s.wakeSealed q =
    if (s.gsq q).seals = [] then (s.gsqSt q ((s.gsq q).sealFail.getD stOK)).onGsq q fun x => { x with sealFail := none } else s := by
  unfold wakeSealed
  rw [hwait]

end

end State

/-- Settles O24: each form by its condition, judged at once; a wait that finds it holds ends as it begins. -/
theorem sequencerWaits : Obligations.SequencerWaits := by
  unfold Obligations.SequencerWaits
  refine ⟨?done, ?loaded, ?tick, ?arrival, ?switched, ?sealed⟩
  case done =>
    intro q tmo s
    refine State.completes_fetched rfl (waitDoneOp_keeps q tmo s (by decide) (.refl _ s)) fun _ => ⟨fun hsw => ?_, fun hsw hvalid => ?_, fun hsw hvalid => ?_⟩
    · rw [State.waitForDone_pending tmo hsw]
      exact s.gsqWaits_gsqWait q .done tmo
    · rw [State.waitForDone_unpending tmo hsw, if_pos hvalid]
      exact s.gsqRan_gsqSt q stConflict
    · rw [State.waitForDone_unpending tmo hsw, if_neg (by simp [hvalid])]
      refine ⟨fun hdone => ?_, fun hdone => ?_⟩
      · rw [if_pos hdone]
        exact s.gsqRan_gsqSt q stOK
      · rw [if_neg (by simp [hdone])]
        exact s.gsqWaits_gsqWait q .done tmo
  case loaded =>
    intro q slot tmo s
    have hwait : ((s.gsqWait q (.loaded slot) tmo).gsq q).waitFor = some (.loaded slot) := by rw [State.gsq_gsqWait]
    have hbase := s.slotBase_gsqWait q (.loaded slot) tmo slot
    refine State.completes_fetched rfl (waitLoadedOp_keeps q slot tmo s (by decide) (.refl _ s)) fun _ =>
      ⟨fun hloading => ?_, fun hempty => ?_, fun hloading hempty => ?_⟩
    · rw [State.wakeLoaded_loading hwait (hbase.trans hloading)]
      exact s.gsqWaits_gsqWait q _ tmo
    · rw [State.wakeLoaded_empty hwait (hbase.trans hempty)]
      exact s.gsqRan_gsqWait_gsqSt q _ tmo _
    · rw [State.wakeLoaded_loaded hwait (hbase ▸ hloading) (hbase ▸ hempty), State.gsq_gsqWait]
      exact s.gsqRan_gsqWait_gsqSt q _ tmo _
  case tick =>
    intro q ga ofs tmo s
    refine State.completes_fetched rfl (waitTickOp_keeps q ga ofs tmo s (by decide) (.refl _ s)) fun _ =>
      ⟨fun hbound => ?_, fun hbound hreached => ?_, fun hbound hreached => ?_⟩
    · rw [if_pos hbound]
      exact s.gsqRan_gsqSt q stBound
    · rw [if_neg (by omega), if_pos hreached]
      exact s.gsqRan_gsqSt q stTickPassed
    · rw [if_neg (by omega), if_neg (by simp [hreached])]
      exact s.gsqWaits_gsqWait q _ tmo
  case arrival =>
    intro q ga gb tmo s
    refine State.completes_fetched rfl (waitArrivalOp_keeps q ga gb tmo s (by decide) (.refl _ s)) fun _ =>
      ⟨fun hout => ?_, fun hin => ?_⟩
    · rw [if_pos hout]
      exact s.gsqRan_gsqSt q stBound
    · rw [if_neg (by simp [hin]), State.wakeArrival_waiting (by rw [State.gsq_gsqWait]), State.arrival_gsqWait]
      refine ⟨fun hreached => ?_, fun hbelow => ?_⟩
      · rw [if_pos hreached]
        exact s.gsqRan_gsqWait_gsqSt q _ tmo stOK
      · rw [if_neg (by omega)]
        exact s.gsqWaits_gsqWait q _ tmo
  case switched =>
    intro q tmo s
    refine State.completes_fetched rfl (waitSwitchedOp_keeps q tmo s (by decide) (.refl _ s)) fun _ => ?_
    rw [State.wakeSwitched_waiting (by rw [State.gsq_gsqWait]), State.armPending_gsqWait, State.gsq_gsqWait]
    refine ⟨fun harmed => ?_, fun hnone => ?_⟩
    · rw [if_pos harmed]
      exact s.gsqWaits_gsqWait q _ tmo
    · rw [if_neg (by simp [hnone])]
      exact s.gsqRan_gsqWait_gsqSt q _ tmo _
  case sealed =>
    intro q tmo s
    refine State.completes_fetched rfl (waitSealedOp_keeps q tmo s (by decide) (.refl _ s)) fun _ => ?_
    rw [State.wakeSealed_waiting (by rw [State.gsq_gsqWait]), State.gsq_gsqWait]
    refine ⟨fun hseals => ?_, fun hnone => ?_⟩
    · rw [if_neg hseals]
      exact s.gsqWaits_gsqWait q _ tmo
    · rw [if_pos hnone]
      have hgsq := (((s.gsqBecomes_refl q).gsqWait .sealed tmo).gsqSt ((s.gsq q).sealFail.getD stOK)).onGsq fun x => { x with sealFail := none }
      exact ⟨hgsq.ran fun _ _ => rfl, by rw [hgsq.gsq]⟩

end Sys2Proof.Machine

/-! SUPPORT. EXCH, SEAL, CTR and REPORT of a glove sequencer (R211, R218, R219, R222, R224), and O25. -/

namespace Sys2Proof.Machine

open Adr

namespace State

/-! Beyond the sequencer's own block. -/

theorem gsq_of_seq {s t : State} (h : t.seq = s.seq) (q : Nat) : t.gsq q = s.gsq q := congrArg (·.gsq.at q) h

namespace GsqAlone

variable {s t u : State} {q : Nat}

/-- A step that leaves the sequencers' block may follow. -/
theorem of_seq (h : s.GsqAlone q t) (hseq : u.seq = t.seq) : s.GsqAlone q u := by
  unfold GsqAlone gsq at *
  rw [hseq]
  exact h

/-- A step that leaves the sequencers' block may come before. -/
theorem after_seq (h : u.GsqAlone q t) (hseq : u.seq = s.seq) : s.GsqAlone q t := by
  unfold GsqAlone gsq at *
  rw [← hseq]
  exact h

end GsqAlone

/-! Exchanges (R218, R334). -/

theorem exchRefusal_running {s : State} {g : Nat} (phase tick ofs : Nat) (h : s.patRuns g = true) :
    s.exchRefusal g phase tick ofs = some (stConflict, false) := by
  unfold exchRefusal
  dsimp only
  rw [if_pos (.inl h)]

/-- A refused EXCH sets ST, branches, and does nothing else. -/
theorem gsqRan_exchRefuse (s : State) (q st d : Nat) : s.GsqRan q d st (s.greg q) (s.exchRefuse q st d) :=
  (((s.gsqBecomes_refl q).onGsq fun x => { x with st := st }).gsqGo d).ran fun _ _ => rfl

/-- An EXCH names the phase of an idle plan, and its sequencer waits. -/
def namePhase (s : State) (q phase d t0 ofs : Nat) : State :=
  ((s.gsqWait q (.exchange d)).onPlan phase fun y =>
    { y with stage := .named, namedAt := s.freeCtr, t0 := t0, ofs0 := ofs, round := 0 }).spend 1

theorem plan_onPlan_same (s : State) (p : Nat) (f : PlanSt → PlanSt) : (s.onPlan p f).plan p = f (s.plan p) := SMap.at_upd_same _ _ _

theorem plan_onPlan_other (s : State) {p r : Nat} (f : PlanSt → PlanSt) (h : r ≠ p) : (s.onPlan p f).plan r = s.plan r := SMap.at_upd_other _ _ h

/-! Work counters (R211, R222). -/

theorem reg_of_regs {s t : State} (h : t.regs = s.regs) (a : Nat) : t.reg a = s.reg a := congrArg (SMap.look regReset · a) h

theorem wkcNext_ne_wkcLimit (k m n : Nat) : wkcNext k m n ≠ wkcLimit k m n := by
  unfold wkcNext wkcLimit
  omega

theorem reg_setCounter_next (s : State) (k m n next limit : Nat) : (s.setCounter k m n next limit).reg (wkcNext k m n) = BitVec.ofNat 64 next := by
  unfold setCounter
  rw [reg_setReg_other _ _ (wkcNext_ne_wkcLimit k m n), reg_setReg_same]

theorem reg_setCounter_limit (s : State) (k m n next limit : Nat) :
    (s.setCounter k m n next limit).reg (wkcLimit k m n) = BitVec.ofNat 64 limit := reg_setReg_same _ _ _

/-- A counter name in a glove names an M-cell of a die. -/
theorem nameInGlove_cell {s : State} {g : Nat} {v : Word} (h : s.nameInGlove g v = true) : (ctrName v).2.1 < 288 := by
  unfold nameInGlove at h
  simp only [Bool.and_eq_true, decide_eq_true_eq] at h
  exact h.1

/-! Reports (R211, R363). -/

/-- No record of the sequencers' own codes goes to the host. -/
theorem hostReports_own {s : State} (g : Nat) {l : List ReportRec} (h : ∀ r ∈ l, r.code < 0x100) : s.hostReports g l = (s, l) := by
  induction l with
  | nil => rfl
  | cons r rest ih =>
    rw [hostReports, if_pos (h r (by simp)), ih fun x hx => h x (by simp [hx])]

namespace GsqBecomes

variable {s t : State} {q : Nat} {x : GsqSt}

/-- A report queue without records for the host stays. -/
theorem sendReports (h : s.GsqBecomes q x t) (hown : ∀ r ∈ x.reports, r.code < 0x100) : s.GsqBecomes q x (t.sendReports q) := by
  unfold State.sendReports
  rw [h.gsq, hostReports_own _ hown]
  exact h.onGsq _

/-- A record of the sequencer's own is placed. -/
theorem placeReport (h : s.GsqBecomes q x t) {code : Nat} (v : Word) (hown : ∀ r ∈ x.reports, r.code < 0x100) (hcode : code < 0x100) :
    s.GsqBecomes q { x with reports := x.reports ++ [⟨code, v, s.tick.tick⟩] } (t.placeReport q code v) := by
  unfold State.placeReport
  rw [h.only.tick]
  refine (h.onGsq fun x => { x with reports := x.reports ++ [⟨code, v, s.tick.tick⟩] }).sendReports fun r hr => ?_
  rcases List.mem_append.mp hr with hr | hr
  · exact hown r hr
  · rw [List.mem_singleton.mp hr]
    exact hcode

/-- A REPORT that waits with room in its queue is placed, and its sequencer goes on from a rerun point. -/
theorem wakeReport (h : s.GsqBecomes q x t) {code : Nat} {v : Word} (hwait : x.waitFor = some (.report code v))
    (hown : ∀ r ∈ x.reports, r.code < 0x100) (hcode : code < 0x100) (hroom : x.reports.length < 64) :
    s.GsqBecomes q { x with
      reports := x.reports ++ [⟨code, v, s.tick.tick⟩], st := stOK, pc := x.pc + 1, state := .running, waitFor := none, deadline := none,
      rerun := ⟨x.pc + 1, x.g, 0, 0⟩ } (t.wakeReport q) := by
  have hsent := h.sendReports hown
  unfold State.wakeReport
  dsimp only
  rw [hsent.gsq, hwait]
  dsimp only
  rw [if_neg (by omega)]
  exact ((hsent.placeReport v hown hcode).gsqSt stOK).rerunPoint 0

end GsqBecomes

end State

theorem exchOp_running {q ga ofs phase d : Nat} {s : State} (hfetch : s.Fetches q (gsqEnc 0x15 [(54, 4, ga), (34, 20, ofs), (26, 8, phase), (0, 11, d)]))
    (hruns : s.patRuns (s.gsqGlove q) = true) : exchOp q ga ofs phase d s = s.exchRefuse q stConflict d := by
  rw [exchOp, State.issueGsq_of_fetches hfetch]
  dsimp only
  rw [State.exchRefusal_running phase _ ofs hruns]
  rfl

theorem exchOp_idle {q ga ofs phase d : Nat} {s : State} (hfetch : s.Fetches q (gsqEnc 0x15 [(54, 4, ga), (34, 20, ofs), (26, 8, phase), (0, 11, d)]))
    (hnone : s.exchRefusal (s.gsqGlove q) phase (s.greg q ga).toNat ofs = none) (hidle : (s.plan phase).stage = .idle) :
    exchOp q ga ofs phase d s = s.namePhase q phase d (s.greg q ga).toNat ofs := by
  rw [exchOp, State.issueGsq_of_fetches hfetch]
  dsimp only
  rw [hnone]
  dsimp only
  rw [if_neg (by rw [hidle]; decide)]
  rfl

theorem ctrOp_beyond {q ga gb gc : Nat} {s : State} (hfetch : s.Fetches q (gsqEnc 0x18 [(54, 4, ga), (50, 4, gb), (46, 4, gc)]))
    (hbound : 288 ≤ (State.ctrName (s.greg q ga)).2.1) : ctrOp q ga gb gc s = s.gsqSt q stBound := by
  rw [ctrOp, State.issueGsq_of_fetches hfetch]
  exact if_pos hbound

/-- CTR of a counter in the glove sets it, unless its LIMIT is all ones. -/
theorem ctrOp_sets {q ga gb gc : Nat} {s : State} (hfetch : s.Fetches q (gsqEnc 0x18 [(54, 4, ga), (50, 4, gb), (46, 4, gc)]))
    (hin : s.nameInGlove (s.gsqGlove q) (s.greg q ga) = true) (hlimit : (s.greg q gc).field 0 32 ≠ 0xFFFFFFFF) :
    ctrOp q ga gb gc s = (s.setCounter (State.ctrName (s.greg q ga)).1 (State.ctrName (s.greg q ga)).2.1 (State.ctrName (s.greg q ga)).2.2
      ((s.greg q gb).field 0 32) ((s.greg q gc).field 0 32)).gsqSt q stOK := by
  have hcell := State.nameInGlove_cell hin
  rw [ctrOp, State.issueGsq_of_fetches hfetch]
  dsimp only
  rw [if_neg (Nat.not_le.mpr hcell), if_neg (by simp [hin, hlimit])]

/-- Settles O25: EXCH refused or named, SEAL and CTR with what they do beyond their sequencer, and REPORT placed at once. -/
theorem sequencerExchangesSealsCountersReports : Obligations.SequencerExchangesSealsCountersReports := by
  unfold Obligations.SequencerExchangesSealsCountersReports
  refine ⟨?exch, ?sealing, ?ctr, ?report⟩
  case exch =>
    intro q ga ofs phase d s
    have hkeeps : State.Keeps 0x6A8F0 s (exchOp q ga ofs phase d s) := exchOp_keeps q ga ofs phase d s (by decide) (.refl _ s)
    refine ⟨exchOp q ga ofs phase d s, rfl, hkeeps.only (by decide), fun hfetch => ⟨fun hruns => ?_, fun hnone hidle => ?_⟩⟩
    · rw [exchOp_running hfetch hruns]
      exact s.gsqRan_exchRefuse q stConflict d
    · have hgsq := (s.gsqBecomes_refl q).gsqWait (.exchange d) 0
      have hnamed : State.Keeps 0x40800 (s.gsqWait q (.exchange d)) (s.namePhase q phase d (s.greg q ga).toNat ofs) :=
        State.spend_keeps _ 1 (by decide) (State.onPlan_keeps _ _ _ (by decide) (.refl _ _))
      rw [exchOp_idle hfetch hnone hidle]
      exact ⟨(hgsq.only.mono (by decide)).trans (hnamed.only (by decide)), hgsq.alone.of_seq rfl, (congrArg GsqSt.state hgsq.gsq :),
        (congrArg GsqSt.waitFor hgsq.gsq :), (congrArg GsqSt.pc hgsq.gsq :), State.plan_onPlan_same _ phase _, fun p hp => State.plan_onPlan_other _ _ hp⟩
  case sealing =>
    intro q ga gb gd gt dest s
    refine State.completes_fetched rfl (sealExtentOp_keeps q ga gb gd gt dest s (by decide) (.refl _ s)) fun _ => ?_
    have hgsq := (s.gsqBecomes_refl q).gsqWait (.sealAccept [] gd) 0
    have hsubmit := State.submit_keeps (m_ := 0x40) (s.gsqWait q (.sealAccept [] gd)) { (default : MigReq) with
      op := 1, prio := 1, dest := dest, glove := s.gsqGlove q, key := (s.glove (s.gsqGlove q)).key, nta := (s.greg q ga).toNat,
      len := (s.greg q gb).toNat, arg := (s.greg q gt).toNat, from_ := .gsq q gd } (by decide) (.refl _ _)
    exact ⟨(hgsq.only.mono (by decide)).trans (hsubmit.only (by decide)), hgsq.alone.of_seq rfl, (congrArg GsqSt.state hgsq.gsq :),
      (congrArg GsqSt.waitFor hgsq.gsq :), (congrArg GsqSt.pc hgsq.gsq :), rfl⟩
  case ctr =>
    intro q ga gb gc s
    have hkeeps : State.Keeps 0x6A8F0 s (ctrOp q ga gb gc s) := ctrOp_keeps q ga gb gc s (by decide) (.refl _ s)
    refine ⟨ctrOp q ga gb gc s, rfl, hkeeps.only (by decide), fun hfetch => ⟨fun hbound => ?_, fun hin hlimit => ?_⟩⟩
    · rw [ctrOp_beyond hfetch hbound]
      exact s.gsqRan_gsqSt q stBound
    · rw [ctrOp_sets hfetch hin hlimit]
      generalize State.ctrName (s.greg q ga) = n
      have hset := State.setCounter_keeps (m_ := 0x8000) s n.1 n.2.1 n.2.2 ((s.greg q gb).field 0 32) ((s.greg q gc).field 0 32) (by decide) (.refl _ s)
      have hgsq := ((s.setCounter n.1 n.2.1 n.2.2 ((s.greg q gb).field 0 32) ((s.greg q gc).field 0 32)).gsqBecomes_refl q).gsqSt stOK
      rw [hgsq.gsq, State.gsq_of_seq hset.seq, State.reg_of_regs hgsq.only.regs, State.reg_of_regs hgsq.only.regs, State.reg_setCounter_limit,
        State.reg_setCounter_next]
      exact ⟨(hset.only (by decide)).trans (hgsq.only.mono (by decide)), hgsq.alone.after_seq hset.seq, rfl, rfl, rfl, rfl, rfl⟩
  case report =>
    intro q ga code s
    refine State.completes_fetched rfl (reportOp_keeps q ga code s (by decide) (.refl _ s)) fun _ hcode hroom hown => ?_
    have hgsq := ((s.gsqBecomes_refl q).gsqWait (.report code (s.greg q ga)) 0).wakeReport rfl hown hcode hroom
    rw [hgsq.gsq]
    exact ⟨hgsq.only, hgsq.alone, rfl, rfl, rfl, rfl, rfl, rfl⟩

end Sys2Proof.Machine

/-! SUPPORT. The tables of the migration engine and of the LZ2 view (R299, R303, R313): which steps leave them, writes of near-tier units and of chunks
among them. -/

namespace Sys2Proof.Machine

open Adr

/-- The memory block without the bytes of its tiers, its frames, stacks, channels and ports, and the writes that seals hold: the tables of the
migration engine and of the LZ2 view. -/
def MemBlk.engine (m : MemBlk) : MemBlk :=
  { m with tmap := [], near := [], nearTag := [], wide := [], deep := [], hbmStacks := [], ddr := [], dpp := [], heldWrites := [] }

namespace State

/-- From `s` to `t` the tables of the engine and of the view stay. -/
def SameEngine (s t : State) : Prop := t.mem.engine = s.mem.engine

namespace SameEngine

variable {s t u : State}

theorem of_mem (h : t.mem = s.mem) : s.SameEngine t := congrArg MemBlk.engine h

theorem trans (h : s.SameEngine t) (h' : t.SameEngine u) : s.SameEngine u := Eq.trans h' h

theorem foldl {α : Type} {f : State → α → State} (l : List α) (hstep : ∀ (u : State) (a : α), u.SameEngine (f u a)) : s.SameEngine (l.foldl f s) :=
  List.foldlRecOn (motive := fun u => s.SameEngine u) l f (of_mem rfl) fun u hu a _ => hu.trans (hstep u a)

theorem extents (h : s.SameEngine t) : t.mem.extents = s.mem.extents :=
  (congrArg MemBlk.extents (show t.mem.engine = s.mem.engine from h) :)

theorem extent (h : s.SameEngine t) (n : Nat) : t.extent n = s.extent n := congrArg (SMap.at · n) h.extents

theorem queue (h : s.SameEngine t) : t.mem.queue = s.mem.queue :=
  (congrArg MemBlk.queue (show t.mem.engine = s.mem.engine from h) :)

theorem waiting (h : s.SameEngine t) : t.mem.waiting = s.mem.waiting :=
  (congrArg MemBlk.waiting (show t.mem.engine = s.mem.engine from h) :)

theorem relocs (h : s.SameEngine t) : t.mem.relocs = s.mem.relocs :=
  (congrArg MemBlk.relocs (show t.mem.engine = s.mem.engine from h) :)

end SameEngine

/-! Writes of the near tier (R191, R297, R300). -/

theorem offPoison_sameEngine (s : State) (f u : Nat) : s.SameEngine (s.offPoison f u) := by
  unfold offPoison
  dsimp only
  split
  · rfl
  · rfl

theorem putUnit_sameEngine (s : State) (f u : Nat) (d : List Byte) (whole : Bool) : s.SameEngine (s.putUnit f u d whole) := by
  have hcopy : ∀ (t : State) (g : Nat), t.SameEngine (t.putCopy g u d) := fun t g => rfl
  have hoff : ∀ (t : State) (g : Nat), t.SameEngine (if whole then t.offPoison g u else t) := fun t g => by
    split
    · exact t.offPoison_sameEngine g u
    · rfl
  unfold putUnit
  dsimp only
  split
  · exact (((hcopy _ _).trans (hcopy _ _)).trans (hoff _ _)).trans (hoff _ _)
  · exact (hcopy _ _).trans (hoff _ _)

theorem putStaged_sameEngine (s : State) (f u : Nat) (d : List Byte) (whole : Bool) : s.SameEngine (s.putStaged f u d whole) := by
  unfold putStaged
  split
  · exact s.putUnit_sameEngine f u d whole
  · rename_i p n _
    exact (SameEngine.of_mem (stageHeader_keeps (m_ := 0x8800) s p n (BitVec.ofNat 64 (ofBytes (d.take 8))) (by decide) (.refl _ s)).mem).trans
      (putUnit_sameEngine _ f u _ whole)

theorem writeBits_sameEngine (s : State) (f u : Nat) (p : Nat × Nat) : s.SameEngine (s.writeBits f u p) := by
  unfold writeBits
  split
  · exact s.putStaged_sameEngine f u _ true
  · exact (s.putStaged_sameEngine f u _ false).trans (.of_mem (count_mem _ _ _))

theorem SameEngine.onMem {s u : State} {f : MemBlk → MemBlk} (h : s.SameEngine u) (hf : ∀ m, (f m).engine = m.engine) :
    s.SameEngine (u.onMem f) :=
  h.trans (hf u.mem)

theorem holdBits_sameEngine (s : State) (f u : Nat) (p : Nat × Nat) (drain : Bool) : s.SameEngine (s.holdBits f u p drain) :=
  SameEngine.onMem (.of_mem (raise_mem s _ _ _)) fun _ => rfl

theorem nearWrite_sameEngine (s : State) (f u : Nat) (p : Nat × Nat) : s.SameEngine (s.nearWrite f u p).1 := by
  unfold nearWrite
  split_ifs
  · exact s.holdBits_sameEngine f u p false
  · exact .of_mem rfl
  · exact s.writeBits_sameEngine f u p

theorem releaseHeld_sameEngine (s : State) (f u : Nat) : s.SameEngine (s.releaseHeld f u) := by
  unfold releaseHeld
  refine SameEngine.trans (t := s.onMem fun m => { m with heldWrites := m.heldWrites.filter fun w => !(w.frame = f ∧ w.unit = u) }) rfl
    (.foldl _ fun t w => ?_)
  split
  · exact t.writeBits_sameEngine f u _
  · exact t.nearWrite_sameEngine f u _

/-- HOLD of a list of frames. -/
theorem setHolds_sameEngine (s : State) (l : List Nat) (b : Bool) : s.SameEngine (l.foldl (fun t f => t.onFrame f fun x => { x with hold := b }) s) :=
  .foldl l fun _ _ => rfl

theorem clearHold_sameEngine (s : State) (r : MigReq) : s.SameEngine (s.clearHold r) := by
  unfold clearHold
  exact (s.setHolds_sameEngine _ false).trans (.foldl _ fun t w => t.releaseHeld_sameEngine w.1 w.2)

/-! Chunks, channels and ports (R294, R315). -/

theorem putChunks_sameEngine (s : State) (deep : Bool) (cs : List (Nat × Nat)) (d : List Byte) : s.SameEngine (s.putChunks deep cs d) := by
  cases deep <;> rfl

theorem endDrains_sameEngine (s : State) : s.SameEngine s.endDrains := by
  unfold endDrains
  refine SameEngine.trans (.foldl _ fun t c => ?_) (.foldl _ fun t i => ?_)
  · split
    · exact SameEngine.trans (t := t.onDdr c fun d => { d with st := .fenced }) rfl (.of_mem (raise_mem _ _ _ _))
    · rfl
  · split
    · rfl
    · rfl

/-! The extent table as it is read (R299). -/

@[simp] theorem extent_onExtent_same (s : State) (n : Nat) (f : ExtentSt → ExtentSt) : (s.onExtent n f).extent n = f (s.extent n) :=
  SMap.at_upd_same _ _ _

@[simp] theorem extent_stampExtent_same (s : State) (n : Nat) : (s.stampExtent n).extent n = { s.extent n with stamp := s.freeCtr } :=
  SMap.at_upd_same s.mem.extents n fun e => { e with stamp := s.freeCtr }

end State

end Sys2Proof.Machine

/-! SUPPORT. The migration engine takes, starts and completes requests (R219, R300 to R305, R314, R315), and O33. -/

namespace Sys2Proof.Machine

open Adr

namespace State

/-! A SEAL takes its entry (R219, R303). -/

/-- An accepted SEAL has its extent in WRITING and its entry at the end of the queue. -/
theorem migTake_seal (s : State) {r : MigReq} (hop : r.op = 1) :
    ∃ image, (s.migTake r).mem.queue = s.mem.queue ++ [{ r with slot := s.nextSlot.getD 0, image := image }] ∧
      (s.migTake r).mem.waiting = s.mem.waiting ∧ ((s.migTake r).extent (s.nextSlot.getD 0)).st = .writing ∧
      ((s.migTake r).extent (s.nextSlot.getD 0)).len = r.len ∧ ((s.migTake r).extent (s.nextSlot.getD 0)).deep = (r.dest == 1) := by
  have htake : s.takeSlot.mem.queue = s.mem.queue ∧ s.takeSlot.mem.waiting = s.mem.waiting := by
    unfold takeSlot
    split <;> exact ⟨rfl, rfl⟩
  unfold migTake
  rw [if_pos hop]
  dsimp only
  generalize s.nextSlot.getD 0 = slot
  generalize hentry : s.takeSlot.onExtent slot _ = u
  have hu : u.mem.queue = s.mem.queue ∧ u.mem.waiting = s.mem.waiting := by rw [← hentry]; exact htake
  have hext : (u.extent slot).st = .writing ∧ (u.extent slot).len = r.len ∧ (u.extent slot).deep = (r.dest == 1) := by
    rw [← hentry, extent_onExtent_same]
    exact ⟨rfl, rfl, rfl⟩
  have hholds := u.setHolds_sameEngine (framesOf r.nta r.len) true
  refine ⟨_, congrArg (· ++ _) (hholds.queue.trans hu.1), hholds.waiting.trans hu.2, ?_⟩
  have hslot := hholds.extent slot
  rw [← hslot] at hext
  exact hext

/-- With no other request of its identity in the queue, the entry at its end is found by its identity. -/
theorem reqById_last {s : State} {l : List MigReq} {r : MigReq} (hqueue : s.mem.queue = l ++ [r]) (hnew : ∀ x ∈ l, x.ident ≠ r.ident) :
    s.reqById r.ident = some r := by
  have hnone : l.find? (fun x => x.ident == r.ident) = none := by simpa using hnew
  unfold reqById
  rw [hqueue, List.find?_append, hnone]
  simp

/-- What the acceptance of a SEAL does to the sequencer that waits for it. -/
theorem reqAccepted_seal {s : State} {r : MigReq} {q gd : Nat} (hfrom : r.from_ = .gsq q gd) (hwaits : s.waitsSeal q = true) :
    ∃ rerun, s.GsqBecomes q { s.gsq q with
      g := if gd = 0 then (s.gsq q).g else setPad (s.gsq q).g gd ((s.handleOf r.slot).zeroExtend 64) 0, seals := (s.gsq q).seals ++ [r.ident],
      st := stOK, pc := (s.gsq q).pc + 1, state := .running, waitFor := none, deadline := none, rerun := rerun } (s.reqAccepted r) := by
  refine ⟨?_, ?_⟩
  rotate_left
  · unfold reqAccepted
    rw [hfrom]
    dsimp only
    rw [if_pos hwaits]
    exact (((((s.gsqBecomes_refl q).setGreg gd _).onGsq fun x => { x with seals := x.seals ++ [r.ident] }).gsqSt stOK).rerunPoint 0)

/-- The first waiting request, with an entry free and its checks passed, is taken and accepted, but for a FREE. -/
theorem takeEntry_accepts {s : State} {r : MigReq} {rest : List MigReq} (hwaiting : s.mem.waiting = r :: rest) (hroom : s.mem.queue.length < 256)
    (hop : r.op ≠ 4) (hcheck : (s.onMem fun m => { m with waiting := rest }).migCheck r = 0) :
    s.takeEntry = (((s.onMem fun m => { m with waiting := rest }).migTake r)).reqAccepted
      ((((s.onMem fun m => { m with waiting := rest }).migTake r).reqById r.ident).getD r) := by
  unfold takeEntry
  rw [hwaiting]
  dsimp only
  rw [if_neg (by omega), if_neg (not_not_intro hcheck), if_neg hop]

theorem takeEntry_none {s : State} (h : s.mem.waiting = []) : s.takeEntry = s := by
  unfold takeEntry
  rw [h]

theorem takeEntry_full {s : State} (h : 256 ≤ s.mem.queue.length) : s.takeEntry = s := by
  unfold takeEntry
  split
  · rfl
  · exact if_pos h

/-- The first waiting SEAL of a sequencer takes its entry, and its sequencer goes on with the handle. -/
theorem takeEntry_seal {s : State} {r : MigReq} {rest : List MigReq} {q gd : Nat} (hwaiting : s.mem.waiting = r :: rest)
    (hroom : s.mem.queue.length < 256) (hop : r.op = 1) (hfrom : r.from_ = .gsq q gd) (hwaits : s.waitsSeal q = true)
    (hnew : ∀ x ∈ s.mem.queue, x.ident ≠ r.ident) (hcheck : (s.onMem fun m => { m with waiting := rest }).migCheck r = 0) :
    s.takeEntry.mem = ((s.onMem fun m => { m with waiting := rest }).migTake r).mem ∧
      ∃ rerun, s.takeEntry.gsq q = { s.gsq q with
        g := if gd = 0 then (s.gsq q).g else setPad (s.gsq q).g gd ((s.takeEntry.handleOf (s.nextSlot.getD 0)).zeroExtend 64) 0
        seals := (s.gsq q).seals ++ [r.ident]
        st := stOK
        pc := (s.gsq q).pc + 1
        state := .running
        waitFor := none
        deadline := none
        rerun := rerun } := by
  rw [takeEntry_accepts hwaiting hroom (by omega) hcheck]
  have hslot : (s.onMem fun m => { m with waiting := rest }).nextSlot = s.nextSlot := rfl
  have hqueue0 : (s.onMem fun m => { m with waiting := rest }).mem.queue = s.mem.queue := rfl
  have hseq0 : (s.onMem fun m => { m with waiting := rest }).seq = s.seq := rfl
  generalize s.onMem _ = s1 at hslot hqueue0 hseq0 ⊢
  obtain ⟨image, hqueue, -⟩ := s1.migTake_seal hop
  have hseq : (s1.migTake r).seq = s.seq := ((migTake_keeps s1 r (m_ := 0x40) (by decide) (.refl _ s1)).seq).trans hseq0
  rw [reqById_last hqueue (by rwa [hqueue0]), hslot]
  generalize s1.migTake r = s2 at hseq ⊢
  have hgsq := gsq_of_seq hseq q
  have hwaits2 : s2.waitsSeal q = true := by
    unfold waitsSeal
    rw [hgsq]
    exact hwaits
  obtain ⟨rerun, h⟩ := reqAccepted_seal (s := s2) (r := { r with slot := s.nextSlot.getD 0, image := image }) hfrom hwaits2
  have hmem := h.only.mem
  refine ⟨hmem, rerun, ?_⟩
  have hhandle : ∀ u : State, u.mem = s2.mem → u.handleOf (s.nextSlot.getD 0) = s2.handleOf (s.nextSlot.getD 0) := fun u hu => by
    unfold handleOf extent
    rw [hu]
  dsimp only [Option.getD_some]
  rw [h.gsq, hgsq, hhandle _ hmem]

theorem extent_of_mem {s t : State} (h : t.mem = s.mem) (n : Nat) : t.extent n = s.extent n := congrArg (·.extents.at n) h

/-! The start of a request (R304, R315). -/

/-- Below S2, with no change of rung under way, no relocation and no request of the tier moving, the first request of the tier starts. -/
theorem migStart_starts {s : State} {tier : Nat} {r : MigReq} (hrung : s.rung.rung < 2) (hentering : s.rung.entering = none)
    (hidle : ∀ x ∈ s.mem.queue, s.sourceTier x = tier → x.moving = false) (hrelocs : s.mem.relocs = [])
    (hfirst : firstReq ((s.mem.queue.filter fun r => s.sourceTier r == tier && !(r.op == 4)).filter fun r => !r.moving && s.gateOpen r) = some r) :
    s.migStart tier = s.setMoving r.ident true := by
  have hnone : (s.mem.queue.filter fun r => s.sourceTier r == tier && !(r.op == 4)).find? (·.moving) = none := by
    simp only [List.find?_eq_none, List.mem_filter, Bool.and_eq_true, beq_iff_eq]
    rintro x ⟨hx, htier, -⟩
    simp [hidle x hx htier]
  have hrel : (if tier = 0 then none else s.relocOf (tier == 2)) = none := by
    unfold relocOf
    rw [hrelocs]
    exact ite_self none
  unfold migStart
  dsimp only
  rw [if_neg (by simp [hentering, hrung]), hfirst]
  dsimp only
  rw [hnone]
  dsimp only
  rw [hrel]

/-- The near tier has no relocations: with no request it starts nothing. -/
theorem migStart_near_empty {s : State} (hqueue : s.mem.queue = []) : s.migStart 0 = s := by
  unfold migStart
  dsimp only
  rw [hqueue]
  exact ite_self s

/-- Below S2, with no change of rung under way and no request, a wide or deep tier goes to its relocations. -/
theorem migStart_relocates {s : State} {tier : Nat} (hrung : s.rung.rung < 2) (hentering : s.rung.entering = none) (htier : tier ≠ 0)
    (hqueue : s.mem.queue = []) : s.migStart tier = s.startReloc (tier == 2) := by
  unfold migStart
  dsimp only
  rw [if_neg (by simp [hentering, hrung]), hqueue]
  exact if_neg (by simp [htier])

theorem startReloc_begins {s : State} {deep : Bool} {x : Reloc} (hrelocs : s.mem.relocs = []) (hnext : s.nextReloc deep = some x) :
    (s.startReloc deep).mem.relocs = [x] := by
  have hnone : s.relocOf deep = none := by
    unfold relocOf
    rw [hrelocs]
    rfl
  unfold startReloc
  rw [hnone, hnext]
  show s.mem.relocs ++ [x] = [x]
  rw [hrelocs]
  rfl

/-! Held writes (R300). -/

theorem releaseHeld_single {s : State} {f u mask bits : Nat} {drain : Bool}
    (hheld : (s.mem.heldWrites.filter fun w => w.frame = f ∧ w.unit = u) = [⟨f, u, mask, bits, drain⟩]) :
    s.releaseHeld f u =
      if drain then (s.onMem fun m => { m with heldWrites := m.heldWrites.filter fun w => !(w.frame = f ∧ w.unit = u) }).writeBits f u (mask, bits)
      else ((s.onMem fun m => { m with heldWrites := m.heldWrites.filter fun w => !(w.frame = f ∧ w.unit = u) }).nearWrite f u (mask, bits)).1 := by
  unfold releaseHeld
  dsimp only
  rw [hheld]
  rfl

end State

theorem MemBlk.set_queue_same {m : MemBlk} {l : List MigReq} (h : l = m.queue) : { m with queue := l } = m := by
  subst h
  rfl

/-- A seal that does not move and has still to read a unit keeps the writes to it held. -/
theorem heldWriteReleaseOp_holds {s : State} {f u : Nat} {r : MigReq} (hr : r ∈ s.mem.queue) (hcovers : State.covers r f u = true)
    (hstill : r.moving = false) (hunread : (f, u) ∉ r.ahead) (hhold : (s.frame f).hold = true) :
    (heldWriteReleaseOp f u s).mem.heldWrites = s.mem.heldWrites := by
  unfold heldWriteReleaseOp
  dsimp only
  rw [if_pos]
  · rfl
  unfold State.unitHeld
  have hread : ∃ x ∈ s.mem.queue.map fun (r : MigReq) => if r.moving = true ∧ State.covers r f u = true then { r with ahead := (f, u) :: r.ahead } else r,
      (State.covers x f u && !x.ahead.contains (f, u)) = true :=
    ⟨r, List.mem_map.mpr ⟨r, hr, if_neg (by simp [hstill])⟩, by simp [hcovers, hunread]⟩
  rw [Bool.and_eq_true, List.any_eq_true]
  exact ⟨hhold, hread⟩

/-- A change of each request changes nothing while there is none. -/
theorem State.onMem_queue_map_nil {s : State} (g : MigReq → MigReq) (hqueue : s.mem.queue = []) :
    (s.onMem fun m => { m with queue := m.queue.map g }) = s := by
  have hmem : { s.mem with queue := s.mem.queue.map g } = s.mem := MemBlk.set_queue_same (by rw [hqueue]; rfl)
  exact congrArg (fun m => { s with mem := m }) hmem

/-- With no request in the queue the writes held for a unit go to it. -/
theorem heldWriteReleaseOp_releases {s : State} (f u : Nat) (hqueue : s.mem.queue = []) : heldWriteReleaseOp f u s = s.releaseHeld f u := by
  have hfree : ¬ s.unitHeld f u = true := by simp [State.unitHeld, hqueue]
  unfold heldWriteReleaseOp
  dsimp only
  rw [State.onMem_queue_map_nil _ hqueue, if_neg hfree]

namespace State

/-! The end of a request (R301, R305). -/

/-- The end of a sequencer's request without a DONE counter changes only its sequencer. -/
theorem reqDone_gsq_keeps {s : State} {r : MigReq} {q gd : Nat} (st : Nat) (hfrom : r.from_ = .gsq q gd) (hdone : r.done = none) :
    Keeps 0x20 s (s.reqDone r st) := by
  unfold reqDone
  rw [hfrom, hdone]
  exact wakeSealed_keeps _ q (by decide) (onGsq_keeps s q _ (by decide) (.refl _ s))

/-- With no glove that drains no destruction ends. -/
theorem finishDestroys_idle {s : State} (h : ∀ g, (s.glove g).draining = false) : s.finishDestroys = s := by
  unfold finishDestroys
  exact List.foldl_fixed' (fun g => if_pos (h g)) _

/-- The extent that a seal leaves. -/
def sealedExtent (s : State) (r : MigReq) : ExtentSt :=
  { s.extent r.slot with
    st := .sealed
    expiry := if r.arg = 0 then none else some (s.tick.tick + r.arg) }

/-- A SEAL ends with its extent SEALED. -/
theorem sealEnd_seals {s : State} {r : MigReq} {io : Bool} (hkey : s.keyOk r.system r.key = true) (hio : io = false)
    (hchunks : s.chunksFenced (s.extent r.slot).deep (s.extent r.slot).chunks = false) (hpoison : s.rangePoisoned r.nta r.len = false)
    (hlive : (s.extent r.slot).dying = false) (hvolatile : (s.extent r.slot).durable = false) :
    ∃ u, s.sealEnd r io = (u, stOK) ∧ (∃ stamp, u.extent r.slot = { s.sealedExtent r with stamp := stamp }) ∧
      u.mem.queue = s.mem.queue.filter fun x => x.ident ≠ r.ident := by
  have hdrop : ((s.dropReq r.ident).clearHold r).mem.queue = s.mem.queue.filter fun x => x.ident ≠ r.ident :=
    (clearHold_sameEngine (s.dropReq r.ident) r).queue
  have hextent : ((s.dropReq r.ident).clearHold r).extent r.slot = s.extent r.slot := (clearHold_sameEngine (s.dropReq r.ident) r).extent r.slot
  unfold sealEnd
  dsimp only
  rw [if_neg (by simp [hkey]), if_neg (by simp [hio, hchunks, hpoison]), if_neg (by simp [hlive]), if_neg (by simp [hvolatile])]
  generalize (s.dropReq r.ident).clearHold r = s1 at hdrop hextent ⊢
  have hput := putChunks_sameEngine s1 (s.extent r.slot).deep (s.extent r.slot).chunks r.image
  generalize s1.putChunks _ _ _ = s2 at hput ⊢
  refine ⟨_, rfl, ⟨s2.freeCtr, ?_⟩, ?_⟩
  · rw [extent_of_mem (count_mem _ _ _), extent_stampExtent_same, extent_onExtent_same, hput.extent, hextent]
    rfl
  · rw [count_mem]
    exact hput.queue.trans hdrop

/-- A COPYUP that no error ends and no held write delays has placed its units. -/
theorem copyupPlace_places {s u : State} {r : MigReq} {io : Bool} (hunplaced : r.placed = false)
    (hkey : s.keyOk (r.system || (s.extent r.slot).system) (if r.system then (s.extent r.slot).key else r.key) = true)
    (hlost : (s.extent r.slot).st ≠ .lost) (hio : io = false)
    (hcopy : s.copyUnits (taOfs r.nta) (reqAccess r) (chunk 64 (s.extBytes r.slot r.arg r.len)) = (u, stOK)) (hheld : u.rangeHeld r = false) :
    s.copyupPlace r io = (u, some stOK) := by
  unfold copyupPlace
  dsimp only
  rw [if_neg (by simp [hunplaced]), if_neg (by simp [hkey]), if_neg hlost, if_neg (by simp [hio]), hcopy]
  exact if_neg (by simp [hheld])

/-- The end of a copy leaves a live extent with one copy less. -/
theorem endCopy_live {s : State} {slot : Nat} (hlive : (s.extent slot).dying = false) :
    s.endCopy slot = s.onExtent slot fun e => { e with copies := e.copies - 1 } := by
  have hkept : ((s.onExtent slot fun e => { e with copies := e.copies - 1 }).extent slot).dying = false := by
    rw [extent_onExtent_same]
    exact hlive
  unfold endCopy
  exact if_neg fun h => Bool.false_ne_true (hkept.symm.trans h.1)

/-- A COPYUP that succeeds from a live extent. -/
theorem copyupEnd_live {s : State} {r : MigReq} (hlive : (s.extent r.slot).dying = false) :
    s.copyupEnd r stOK = ((s.dropReq r.ident).onExtent r.slot fun e => { e with copies := e.copies - 1 }).count migCntCopyup := by
  unfold copyupEnd
  dsimp only
  rw [endCopy_live (s := s.dropReq r.ident) hlive, if_pos rfl]

/-- The extent that a move leaves. -/
def movedExtent (s : State) (r : MigReq) : ExtentSt :=
  { s.extent r.slot with
    st := .sealed
    deep := true
    chunks := (s.extent r.slot).newChunks
    newChunks := []
    expiry := if r.arg = 0 then none else some (s.tick.tick + r.arg) }

/-- A MOVE ends with its extent deep in its new chunks. -/
theorem moveEnd_moves {s : State} {r : MigReq} {io : Bool} (hkey : s.keyOk r.system r.key = true) (hlost : (s.extent r.slot).st ≠ .lost)
    (hio : io = false) (hlive : (s.extent r.slot).dying = false) :
    ∃ u, s.moveEnd r io = (u, stOK) ∧ (∃ stamp, u.extent r.slot = { s.movedExtent r with stamp := stamp }) ∧
      u.mem.queue = s.mem.queue.filter fun x => x.ident ≠ r.ident := by
  have hdrop : (s.dropReq r.ident).mem.queue = s.mem.queue.filter fun x => x.ident ≠ r.ident := rfl
  have hextent : (s.dropReq r.ident).extent r.slot = s.extent r.slot := rfl
  unfold moveEnd
  dsimp only
  rw [if_neg (by simp [hkey]), if_neg hlost, if_neg (by simp [hio]), if_neg (by simp [hlive])]
  generalize s.dropReq r.ident = s1 at hdrop hextent ⊢
  have hput := putChunks_sameEngine s1 true (s.extent r.slot).newChunks (s.extBytes r.slot 0 (s.extent r.slot).len)
  generalize s1.putChunks _ _ _ = s2 at hput ⊢
  have hmoved : s2.extent r.slot = s.extent r.slot := (hput.extent _).trans hextent
  refine ⟨_, rfl, ⟨s2.freeCtr, ?_⟩, ?_⟩
  · rw [extent_of_mem (count_mem _ _ _), (endDrains_sameEngine _).extent, extent_stampExtent_same, extent_onExtent_same, hmoved]
    rfl
  · rw [count_mem]
    exact (endDrains_sameEngine _).queue.trans (hput.queue.trans hdrop)

end State

/-- The relocation of a chunk replaces it in its extent, and ends. -/
theorem relocationCompleteOp_replaces {s : State} {deep : Bool} {idx slot chunk : Nat} {r : Reloc} (hreloc : s.relocOf deep = some r)
    (hmoving : r.moving = true) (hslot : r.slot = slot) (hold : r.old = (idx, chunk)) (hcopies : (s.extent slot).copies = 0) :
    (relocationCompleteOp deep idx slot chunk s).mem.extents = s.mem.extents.upd slot (fun e =>
        { e with chunks := e.chunks.map fun x => if x = (idx, chunk) then r.dst else x }) ∧
      (relocationCompleteOp deep idx slot chunk s).mem.relocs = s.mem.relocs.filter fun x => x.deep ≠ deep := by
  unfold relocationCompleteOp
  dsimp only
  rw [hreloc]
  dsimp only
  rw [if_neg (by simp [hmoving, hslot, hold, hcopies]), (State.judgeMod_keeps _ (m_ := 0x8004) (by decide) (.refl _ _)).mem, hold]
  generalize SMap.clear _ _ _ = bytes
  have hbytes : s.SameEngine (s.onMem fun b => if deep = true then { b with deep := bytes } else { b with wide := bytes }) := by cases deep <;> rfl
  generalize s.onMem _ = s1 at hbytes ⊢
  refine ⟨?_, ?_⟩
  · rw [(State.endDrains_sameEngine _).extents, State.count_mem]
    rw [← hbytes.extents]
    rfl
  · rw [(State.endDrains_sameEngine _).relocs, State.count_mem]
    exact congrArg (List.filter _) hbytes.relocs

namespace State

/-! A page of the LZ2 view (R313, R314). -/

/-- A page that nothing serves and that was never written becomes resident in a free slot. -/
theorem lz2Serve_fresh {s : State} {p a : Nat} (hunserved : s.lz2Served p = false) (hfree : s.lz2Free = some a)
    (hfresh : (s.lz2Page p).extent = none) : s.lz2Serve p = (s.putNear a (List.replicate (2 ^ 21) 0)).lz2In p a := by
  unfold lz2Serve
  rw [if_neg (by simp [hunserved]), hfree]
  unfold lz2Fill
  rw [hfresh]

theorem lz2In_page (s : State) (p a : Nat) :
    ((s.lz2In p a).lz2Page p).at_ = some a ∧ ((s.lz2In p a).lz2Page p).dirty = false ∧ p ∉ (s.lz2In p a).mem.lz2Wait := by
  have hpage : (s.lz2In p a).lz2Page p = { s.lz2Page p with at_ := some a, dirty := false, used := s.mem.lz2Clock + 1 } :=
    SMap.at_upd_same s.mem.lz2Pages p fun x => { x with at_ := some a, dirty := false, used := s.mem.lz2Clock + 1 }
  have hwait : (s.lz2In p a).mem.lz2Wait = s.mem.lz2Wait.filter (· ≠ p) := rfl
  rw [hpage, hwait]
  exact ⟨rfl, rfl, by simp⟩

end State

theorem lz2PageMissOp_ignored {s : State} {p : Nat} (h : s.mem.lz2Glove = none ∨ s.mem.lz2Size ≤ 2 ^ 21 * p ∨ (s.lz2Page p).at_.isSome = true) :
    lz2PageMissOp p s = s := by
  unfold lz2PageMissOp
  exact if_pos h

/-- An access to a page inside the view that is not resident waits, and is served. -/
theorem lz2PageMissOp_serves {s : State} {p : Nat} (hview : s.mem.lz2Glove ≠ none) (hsize : 2 ^ 21 * p < s.mem.lz2Size)
    (hout : (s.lz2Page p).at_ = none) :
    lz2PageMissOp p s = (s.onMem fun m => { m with lz2Wait := if p ∈ m.lz2Wait then m.lz2Wait else m.lz2Wait ++ [p] }).lz2Serve p := by
  unfold lz2PageMissOp
  exact if_neg (not_or.mpr ⟨hview, not_or.mpr ⟨Nat.not_le.mpr hsize, by simp [hout]⟩⟩)

/-- Settles O33: each command is brought, by the lemma of its case, to the updates of the engine's tables that the case names. -/
theorem migrationRequests : Obligations.MigrationRequests := by
  unfold Obligations.MigrationRequests
  refine ⟨?takes, ?starts, ?releases, ?sealing, ?copyup, ?moves, ?relocation, ?page⟩
  case takes =>
    intro s
    refine ⟨_, rfl, (migrationQueueEntryOp_keeps s (m_ := 0x6A860) (by decide) (.refl _ s)).only (by decide), State.takeEntry_none,
      State.takeEntry_full, ?_⟩
    intro r rest q gd hwaiting hroom hop hfrom hwaits hnew hcheck
    obtain ⟨hmem, rerun, hgsq⟩ := State.takeEntry_seal hwaiting hroom hop hfrom hwaits hnew hcheck
    obtain ⟨image, hqueue, hrest, hst, hlen, hdeep⟩ := (s.onMem fun m => { m with waiting := rest }).migTake_seal hop
    have hext := State.extent_of_mem hmem (s.nextSlot.getD 0)
    change s.takeEntry.mem.waiting = _ ∧ s.takeEntry.mem.queue.length = _ ∧ (s.takeEntry.extent _).st = _ ∧ (s.takeEntry.extent _).len = _ ∧
      (s.takeEntry.extent _).deep = _ ∧ (s.takeEntry.gsq q).st = _ ∧ (s.takeEntry.gsq q).pc = _ ∧ (s.takeEntry.gsq q).state = _ ∧
      (s.takeEntry.gsq q).seals = _ ∧ (_ → s.takeEntry.greg q gd = (s.takeEntry.handleOf _).zeroExtend 64)
    refine ⟨?_, ?_, ?_, ?_, ?_, ?_, ?_, ?_, ?_, fun hgd => ?_⟩
    · rw [hmem]; exact hrest
    · rw [hmem, hqueue]; exact List.length_append
    · rw [hext]; exact hst
    · rw [hext]; exact hlen
    · rw [hext]; exact hdeep
    · rw [hgsq]
    · rw [hgsq]
    · rw [hgsq]
    · rw [hgsq]
    · unfold State.greg
      rw [if_neg hgd, hgsq]
      dsimp only
      rw [if_neg hgd, getD_setPad, if_pos rfl]
  case starts =>
    intro tier s
    refine ⟨_, rfl, (migrationStartOp_keeps tier s (m_ := 0x40) (by decide) (.refl _ s)).only (by decide), ?_, ?_, ?_⟩
    · intro r hrung hentering hidle hrelocs hfirst
      exact congrArg State.mem (State.migStart_starts hrung hentering hidle hrelocs hfirst)
    · rintro rfl hqueue
      exact State.migStart_near_empty hqueue
    · intro x hrung hentering htier hqueue hrelocs hnext
      have hstart : migrationStartOp tier s = s.startReloc (tier == 2) := State.migStart_relocates hrung hentering htier hqueue
      exact (congrArg (·.mem.relocs) hstart).trans (State.startReloc_begins hrelocs hnext)
  case releases =>
    intro frame unit s
    refine ⟨_, rfl, (heldWriteReleaseOp_keeps frame unit s (m_ := 0x8840) (by decide) (.refl _ s)).only (by decide), ?_, ?_⟩
    · rintro ⟨r, hr, hcovers, hstill, hunread⟩ hhold
      exact heldWriteReleaseOp_holds hr hcovers hstill hunread hhold
    · intro mask bits drain hqueue hheld
      exact (heldWriteReleaseOp_releases frame unit hqueue).trans (State.releaseHeld_single hheld)
  case sealing =>
    intro ident io s
    refine ⟨_, rfl, (sealCompleteOp_keeps ident io s (m_ := 0x6A8E0) (by decide) (.refl _ s)).only (by decide), ?_, ?_⟩
    · intro hnone
      show sealCompleteOp ident io s = s
      unfold sealCompleteOp
      rw [hnone]
    · intro r q gd hreq hfrom hdone hdrains hkey hio hchunks hpoison hlive hvolatile
      obtain ⟨u, hend, ⟨stamp, hext⟩, hqueue⟩ := State.sealEnd_seals hkey hio hchunks hpoison hlive hvolatile
      have hdone2 := State.reqDone_gsq_keeps (s := u) stOK hfrom hdone
      have hglv : (u.reqDone r stOK).glv = s.glv := by
        have hends := (State.sealEnd_keeps s r io (m_ := 0x48840) (by decide) (.refl _ s)).glv
        rw [hend] at hends
        exact hdone2.glv.trans hends
      have hop : sealCompleteOp ident io s = u.reqDone r stOK := by
        unfold sealCompleteOp
        rw [hreq]
        dsimp only
        rw [hend]
        exact State.finishDestroys_idle fun g => by rw [State.glove_of_glv hglv]; exact hdrains g
      have hmem : (sealCompleteOp ident io s).mem = u.mem := by rw [hop]; exact hdone2.mem
      change ((sealCompleteOp ident io s).extent r.slot).st = _ ∧ ((sealCompleteOp ident io s).extent r.slot).expiry = _ ∧
        ∀ x ∈ (sealCompleteOp ident io s).mem.queue, x.ident ≠ r.ident
      rw [State.extent_of_mem hmem, hext, hmem, hqueue]
      exact ⟨rfl, rfl, fun x hx => by simpa using (List.mem_filter.mp hx).2⟩
  case copyup =>
    intro ident io s
    refine ⟨_, rfl, (copyupCompleteOp_keeps ident io s (m_ := 0x6A860) (by decide) (.refl _ s)).only (by decide), ?_, ?_⟩
    · intro hnone
      show copyupCompleteOp ident io s = s
      unfold copyupCompleteOp
      rw [hnone]
    · intro r q gd u hreq hfrom hdone hunplaced hkey hlost hio hcopy hheld hlive
      have hop : copyupCompleteOp ident io s = (u.copyupEnd r stOK).reqDone r stOK := by
        unfold copyupCompleteOp
        rw [hreq]
        dsimp only
        rw [State.copyupPlace_places hunplaced hkey hlost hio hcopy hheld]
      have hmem : (copyupCompleteOp ident io s).mem =
          ((u.dropReq r.ident).onExtent r.slot fun e => { e with copies := e.copies - 1 }).mem := by
        rw [hop, (State.reqDone_gsq_keeps stOK hfrom hdone).mem, State.copyupEnd_live hlive, State.count_mem]
      change (copyupCompleteOp ident io s).mem.near = _ ∧ ((copyupCompleteOp ident io s).extent r.slot).copies = _ ∧
        (copyupCompleteOp ident io s).mem.queue = _
      rw [State.extent_of_mem hmem, State.extent_onExtent_same, hmem]
      exact ⟨rfl, rfl, rfl⟩
  case moves =>
    intro ident io s
    refine ⟨_, rfl, (moveCompleteOp_keeps ident io s (m_ := 0x6A860) (by decide) (.refl _ s)).only (by decide), ?_, ?_⟩
    · intro hnone
      show moveCompleteOp ident io s = s
      unfold moveCompleteOp
      rw [hnone]
    · intro r q gd hreq hfrom hdone hcopies hkey hlost hio hlive
      obtain ⟨u, hend, ⟨stamp, hext⟩, hqueue⟩ := State.moveEnd_moves hkey hlost hio hlive
      have hop : moveCompleteOp ident io s = u.reqDone r stOK := by
        unfold moveCompleteOp
        rw [hreq]
        dsimp only
        rw [if_neg (by simp [hcopies]), hend]
      have hmem : (moveCompleteOp ident io s).mem = u.mem := by rw [hop]; exact (State.reqDone_gsq_keeps stOK hfrom hdone).mem
      change ((moveCompleteOp ident io s).extent r.slot).st = _ ∧ ((moveCompleteOp ident io s).extent r.slot).deep = _ ∧
        ((moveCompleteOp ident io s).extent r.slot).chunks = _ ∧ ((moveCompleteOp ident io s).extent r.slot).newChunks = _ ∧
        (moveCompleteOp ident io s).mem.queue = _
      rw [State.extent_of_mem hmem, hext, hmem, hqueue]
      exact ⟨rfl, rfl, rfl, rfl, rfl⟩
  case relocation =>
    intro deep idx slot chunk s
    refine ⟨_, rfl, (relocationCompleteOp_keeps deep idx slot chunk s (m_ := 0x8044) (by decide) (.refl _ s)).only (by decide), ?_, ?_⟩
    · intro hnone
      show relocationCompleteOp deep idx slot chunk s = s
      unfold relocationCompleteOp
      dsimp only
      rw [hnone]
    · intro r hreloc hmoving hslot hold hcopies
      obtain ⟨hext, hrelocs⟩ := relocationCompleteOp_replaces hreloc hmoving hslot hold hcopies
      refine ⟨?_, fun k hk => ?_, hrelocs⟩
      · exact (congrArg (fun m => (m.at slot).chunks) hext).trans (congrArg ExtentSt.chunks (SMap.at_upd_same _ _ _))
      · exact (congrArg (fun m => m.at k) hext).trans (SMap.at_upd_other _ _ hk)
  case page =>
    intro page s
    refine ⟨_, rfl, (lz2PageMissOp_keeps page s (m_ := 0x8840) (by decide) (.refl _ s)).only (by decide), lz2PageMissOp_ignored, ?_⟩
    intro a hview hsize hout hunserved hfree hfresh
    have hop := (lz2PageMissOp_serves hview hsize hout).trans (State.lz2Serve_fresh hunserved hfree hfresh)
    change ((lz2PageMissOp page s).lz2Page page).at_ = _ ∧ ((lz2PageMissOp page s).lz2Page page).dirty = _ ∧ page ∉ (lz2PageMissOp page s).mem.lz2Wait
    rw [hop]
    exact State.lz2In_page _ page a

end Sys2Proof.Machine

/-! SUPPORT. The host's commands on sequencers, exchange plans, the LZ2 view and the migration engine (R208, R210, R302, R312, R333, R514), and O52. -/

namespace Sys2Proof.Machine

open Adr

namespace State

/-- A command of the physical function that passes the checks of its row has its own meaning in the state that has taken it (R514). -/
theorem command_acts {s u : State} {c : HostCmd} {row : CmdRow} {f : HostCmd → State → State} {name : HostCmd → Nat}
    (haccepts : s.Accepts c row.op row.masks u) (hset : row.set u = true) (hglove : row.glove = some name) (hlive : (u.glove (name c)).live = true) :
    s.command c row f = f c u := by
  obtain ⟨rfl, hfunc, hmasks⟩ := haccepts
  unfold command
  dsimp only
  rw [if_neg (by simp [hmasks]), if_neg (by simp [hfunc]), if_pos hfunc]
  dsimp only
  rw [if_neg (by simp [hset]), hglove]
  exact if_neg (by simp [hlive, hfunc])

theorem complete_seq (s : State) (c : HostCmd) (st : Nat) : (s.complete c st).seq = s.seq :=
  (complete_keeps s c st 0 0 (m_ := 0x2A000) (by decide) (.refl _ s)).seq

theorem complete_mem (s : State) (c : HostCmd) (st : Nat) : (s.complete c st).mem = s.mem :=
  (complete_keeps s c st 0 0 (m_ := 0x2A000) (by decide) (.refl _ s)).mem

theorem gsq_complete (s : State) (c : HostCmd) (st q : Nat) : (s.complete c st).gsq q = s.gsq q := gsq_of_seq (s.complete_seq c st) q

theorem plan_complete (s : State) (c : HostCmd) (st p : Nat) : (s.complete c st).plan p = s.plan p :=
  congrArg (·.plans.at p) (complete_keeps s c st 0 0 (m_ := 0x2A000) (by decide) (.refl _ s)).stw

/-! Sequencers (R208, R210, R216). -/

theorem gsqWriteCmd_past_end {s : State} {c : HostCmd} (h : 2048 < c.a1.field 6 11 + (c.a1.field 17 11 + 1)) :
    s.gsqWriteCmd c = s.refuse c stBound := by
  unfold gsqWriteCmd
  exact if_pos h

theorem gsqWriteCmd_conflict {s : State} {c : HostCmd} (hroom : c.a1.field 6 11 + (c.a1.field 17 11 + 1) ≤ 2048)
    (h : s.gsqOf (c.a1.field 0 6) = none ∨ (s.gsq (s.glove (c.a1.field 0 6)).gsq).state = .running ∨
      (s.gsq (s.glove (c.a1.field 0 6)).gsq).state = .waiting) :
    s.gsqWriteCmd c = s.gloveConflict c (c.a1.field 0 6) := by
  unfold gsqWriteCmd
  dsimp only
  rw [if_neg (Nat.not_lt.mpr hroom)]
  exact if_pos (h.imp_left Option.isNone_iff_eq_none.mpr)

/-- A write of the physical function to a sequencer that stands stores words that pass the write rule. -/
theorem gsqWriteCmd_words {s : State} {c : HostCmd} {d : List Byte} (hfunc : c.func = 0)
    (hroom : c.a1.field 6 11 + (c.a1.field 17 11 + 1) ≤ 2048) (hown : s.gsqOf (c.a1.field 0 6) ≠ none)
    (hrunning : (s.gsq (s.glove (c.a1.field 0 6)).gsq).state ≠ .running) (hwaiting : (s.gsq (s.glove (c.a1.field 0 6)).gsq).state ≠ .waiting)
    (hbytes : s.hostBytes c.a2.toNat (8 * (c.a1.field 17 11 + 1)) = some d) {ws : List Word}
    (hws : ws = (chunk 8 d).map fun b => BitVec.ofNat 64 (ofBytes b)) :
    s.gsqWriteCmd c =
      if s.programOk (s.glove (c.a1.field 0 6)).gsq (c.a1.field 6 11) ws then
        (s.writeProgram (s.glove (c.a1.field 0 6)).gsq (c.a1.field 6 11) ws).complete c stOK
      else s.refuse c stImage := by
  subst hws
  unfold gsqWriteCmd
  dsimp only
  rw [if_neg (Nat.not_lt.mpr hroom), if_neg (by simp [hown, hrunning, hwaiting]), if_pos hfunc, hbytes]

theorem gsqStartCmd_conflict {s : State} {c : HostCmd}
    (h : s.gsqOf (c.a1.field 0 6) = none ∨ (s.gsq (s.glove (c.a1.field 0 6)).gsq).state = .running ∨
      (s.gsq (s.glove (c.a1.field 0 6)).gsq).state = .waiting ∨ (s.gsq (s.glove (c.a1.field 0 6)).gsq).state = .faulted) :
    s.gsqStartCmd c = s.gloveConflict c (c.a1.field 0 6) := by
  unfold gsqStartCmd
  refine if_neg ?_
  rintro ⟨hown, hstate⟩
  rcases h with h | h | h | h
  · simp [h] at hown
  all_goals simp [h] at hstate

theorem gsqStartCmd_starts {s : State} {c : HostCmd} (hown : s.gsqOf (c.a1.field 0 6) ≠ none)
    (hstate : (s.gsq (s.glove (c.a1.field 0 6)).gsq).state = .idle ∨ (s.gsq (s.glove (c.a1.field 0 6)).gsq).state = .halted) :
    s.gsqStartCmd c = (s.startSeq (s.glove (c.a1.field 0 6)).gsq c.a2).complete c stOK := by
  unfold gsqStartCmd
  exact if_pos ⟨Option.isSome_iff_ne_none.mpr hown, hstate⟩

/-- A started sequencer runs from address 0 with its argument in G1. -/
theorem startSeq_becomes (s : State) (q : Nat) (g1 : Word) :
    ∃ x, s.GsqBecomes q x (s.startSeq q g1) ∧ x.state = .running ∧ x.pc = 0 ∧ x.st = 0 ∧ x.g = [0, g1] ++ List.replicate 14 0 ∧
      x.slots = (s.gsq q).slots :=
  ⟨_, ((s.gsqBecomes_refl q).onGsq _).rerunPoint 0, rfl, rfl, rfl, rfl, rfl⟩

/-- A sequencer whose armed switch is discarded keeps its state and its address. -/
theorem discardArm_becomes (s : State) (q : Nat) :
    ∃ x, s.GsqBecomes q x (s.discardArm q) ∧ x.arm = none ∧ x.pc = (s.gsq q).pc ∧ x.state = (s.gsq q).state := by
  unfold discardArm
  dsimp only
  cases hnow : (s.gsq q).arm with
  | none =>
    refine ⟨_, (s.gsqBecomes_refl q).onGsq _, ?_⟩
    split
    · split <;> exact ⟨hnow, rfl, rfl⟩
    · exact ⟨hnow, rfl, rfl⟩
  | some a =>
    refine ⟨_, ((s.gsqBecomes_refl q).onGsq _).onGsq _, rfl, ?_⟩
    split
    · split <;> exact ⟨rfl, rfl⟩
    · exact ⟨rfl, rfl⟩

theorem gsqStopCmd_completes (s : State) (c : HostCmd) : ∃ v : State, s.gsqStopCmd c = v.complete c stOK := ⟨_, rfl⟩

theorem gsqStopCmd_none {s : State} {c : HostCmd} (h : s.gsqOf (c.a1.field 0 6) = none) : s.gsqStopCmd c = s.complete c stOK := by
  unfold gsqStopCmd
  dsimp only
  rw [if_pos (Option.isNone_iff_eq_none.mpr h)]

/-- A stopped sequencer has no armed switch, stays at its address, and neither runs nor waits. -/
theorem gsqStopCmd_stops {s : State} {c : HostCmd} {q : Nat} (hown : s.gsqOf (c.a1.field 0 6) ≠ none) (hq : q = (s.glove (c.a1.field 0 6)).gsq) :
    ((s.gsqStopCmd c).gsq q).arm = none ∧ ((s.gsqStopCmd c).gsq q).pc = (s.gsq q).pc ∧
      ((s.gsqStopCmd c).gsq q).state = if (s.gsq q).state = .running ∨ (s.gsq q).state = .waiting then .halted else (s.gsq q).state := by
  subst hq
  generalize hq : (s.glove (c.a1.field 0 6)).gsq = q
  obtain ⟨x, hx, harm, hpc, hstate⟩ := s.discardArm_becomes q
  unfold gsqStopCmd
  dsimp only
  rw [gsq_complete, if_neg (by simpa using hown), hq]
  by_cases hgoes : (s.gsq q).state = .running ∨ (s.gsq q).state = .waiting
  · have hstop : (s.stopSeq q).gsq q = { x with state := .halted, waitFor := none, deadline := none } := (hx.onGsq _).gsq
    rw [if_pos hgoes, if_pos hgoes, hstop]
    exact ⟨harm, hpc, rfl⟩
  · rw [if_neg hgoes, if_neg hgoes, hx.gsq]
    exact ⟨harm, hpc, hstate⟩

/-! Exchange plans (R333). -/

theorem planInstallCmd_busy {s : State} {c : HostCmd} (hvalid : (s.plan (c.a1.field 0 8)).valid = true)
    (hstage : (s.plan (c.a1.field 0 8)).stage ≠ .idle) : s.planInstallCmd c = s.refuseState c 7 1 (c.a1.field 0 8) := by
  unfold planInstallCmd
  exact if_pos ⟨hvalid, hstage⟩

theorem planInstallCmd_malformed {s : State} {c : HostCmd} {d : List Byte} (hbytes : s.hostBytes c.a2.toNat c.a3.toNat = some d)
    (hstage : (s.plan (c.a1.field 0 8)).stage = .idle) (hplan : planOf d = none) : s.planInstallCmd c = s.refuse c 0x46 := by
  unfold planInstallCmd
  dsimp only
  rw [if_neg (fun h => h.2 hstage), hbytes]
  dsimp only
  rw [hplan]

/-- A plan of correct form over an idle index is installed, unless its staging meets that of another plan of its glove. -/
theorem planInstallCmd_formed {s : State} {c : HostCmd} {d : List Byte} {x : PlanSt} (hbytes : s.hostBytes c.a2.toNat c.a3.toNat = some d)
    (hstage : (s.plan (c.a1.field 0 8)).stage = .idle) (hplan : planOf d = some x) :
    s.planInstallCmd c =
      if s.planOverlaps (c.a1.field 0 8) x then s.refuse c 0x46 else (s.onPlan (c.a1.field 0 8) fun _ => x).complete c stOK := by
  unfold planInstallCmd
  dsimp only
  rw [if_neg (fun h => h.2 hstage), hbytes]
  dsimp only
  rw [hplan]

theorem planRemoveCmd_absent {s : State} {c : HostCmd}
    (h : (s.plan (c.a1.field 0 8)).valid = false ∨ (s.plan (c.a1.field 0 8)).glove ≠ c.a1.field 8 6) : s.planRemoveCmd c = s.refuse c 0x27 := by
  unfold planRemoveCmd
  exact if_pos h

/-- A plan of the glove is removed when its phase is idle. -/
theorem planRemoveCmd_own {s : State} {c : HostCmd} (hvalid : (s.plan (c.a1.field 0 8)).valid = true)
    (hglove : (s.plan (c.a1.field 0 8)).glove = c.a1.field 8 6) :
    s.planRemoveCmd c =
      if (s.plan (c.a1.field 0 8)).stage ≠ .idle then s.refuseState c 7 1 (c.a1.field 0 8)
      else (s.onPlan (c.a1.field 0 8) fun _ => default).complete c stOK := by
  unfold planRemoveCmd
  exact if_neg (by simp [hvalid, hglove])

/-! The LZ2 view (R312, R313). -/

theorem lz2EnableCmd_unbuilt {s : State} {c : HostCmd} (h : s.prof 0 18 1 = 0) : s.lz2EnableCmd c = s.refuseModule c := by
  unfold lz2EnableCmd
  exact if_pos h

theorem lz2EnableCmd_taken {s : State} {c : HostCmd} {h : Nat} (hbuilt : s.prof 0 18 1 ≠ 0) (hglove : s.mem.lz2Glove = some h) :
    s.lz2EnableCmd c = s.gloveConflict c h := by
  unfold lz2EnableCmd
  dsimp only
  rw [if_neg hbuilt, hglove]

/-- The state with the view of size `size` given to glove `g` over `frames`. -/
def lz2View (s : State) (g size : Nat) (frames : List Nat) : State :=
  s.onMem fun m => { m with
    lz2Glove := some g, lz2Size := size, lz2Frames := frames, lz2Pages := [], lz2Clock := 0, lz2Wait := [], lz2Fills := [], lz2Seals := [] }

/-- The view goes to the glove over PRIVATE frames of its own. -/
theorem lz2EnableCmd_enables {s : State} {c : HostCmd} {f n : Nat} (hf : f = c.a3.field 0 16) (hn : n = c.a3.field 16 16)
    (hbuilt : s.prof 0 18 1 ≠ 0) (hfree : s.mem.lz2Glove = none) (hsize : c.a2.toNat ≠ 0) (hpages : c.a2.toNat % 2 ^ 21 = 0)
    (hmax : c.a2.toNat ≤ 2 ^ 40) (hframes : n ≠ 0) (hrange : f + n ≤ 65536)
    (hown : ∀ i, i < n → (s.frame (f + i)).mode = .priv ∧ (s.frame (f + i)).glove = c.a1.field 0 6) :
    s.lz2EnableCmd c = (s.lz2View (c.a1.field 0 6) c.a2.toNat ((List.range n).map (f + ·))).complete c stOK := by
  subst hf hn
  have hbound : ¬ (c.a2.toNat = 0 ∨ c.a2.toNat % 2 ^ 21 ≠ 0 ∨ c.a2.toNat > 2 ^ 40 ∨ c.a3.field 16 16 = 0 ∨ c.a3.field 0 16 + c.a3.field 16 16 > 65536) := by
    rintro (h | h | h | h | h)
    · exact hsize h
    · exact h hpages
    · exact Nat.not_lt.mpr hmax h
    · exact hframes h
    · exact Nat.not_lt.mpr hrange h
  unfold lz2EnableCmd
  dsimp only
  rw [if_neg hbuilt, hfree]
  dsimp only
  rw [if_neg hbound, if_neg]
  · rfl
  · rw [Bool.not_eq_true, List.any_eq_false]
    intro k hk
    obtain ⟨i, hi, rfl⟩ := List.mem_map.mp hk
    obtain ⟨hmode, hglove⟩ := hown i (List.mem_range.mp hi)
    simp [hmode, hglove]

theorem lz2DisableCmd_other {s : State} {c : HostCmd} (h : s.mem.lz2Glove ≠ some (c.a1.field 0 6)) :
    s.lz2DisableCmd c = s.gloveConflict c (c.a1.field 0 6) := by
  unfold lz2DisableCmd
  exact if_pos h

theorem lz2DisableCmd_loaded {s : State} {c : HostCmd} {k : Nat} (hglove : s.mem.lz2Glove = some (c.a1.field 0 6))
    (hslot : s.lz2Slot (c.a1.field 0 6) = some k) : s.lz2DisableCmd c = s.gloveConflict c (c.a1.field 0 6) := by
  unfold lz2DisableCmd
  dsimp only
  rw [if_neg (not_not_intro hglove), hslot]

theorem lz2DisableCmd_ends {s : State} {c : HostCmd} (hglove : s.mem.lz2Glove = some (c.a1.field 0 6))
    (hslot : s.lz2Slot (c.a1.field 0 6) = none) : s.lz2DisableCmd c = s.lz2Off.complete c stOK := by
  unfold lz2DisableCmd
  dsimp only
  rw [if_neg (not_not_intro hglove), hslot]

theorem lz2Off_mem (s : State) : s.lz2Off.mem.lz2Glove = none ∧ s.lz2Off.mem.lz2Pages = [] ∧ s.lz2Off.mem.lz2Frames = [] := ⟨rfl, rfl, rfl⟩

end State

/-- Settles O52: each command that passes its checks is its own operation in the state that has taken it, case by case. -/
theorem sequencerPlanViewAndMigrationCommands : Obligations.SequencerPlanViewAndMigrationCommands := by
  unfold Obligations.SequencerPlanViewAndMigrationCommands
  refine ⟨?write, ?start, ?stop, ?install, ?remove, ?enable, ?disable, ?migrate⟩
  case write =>
    intro c s
    refine ⟨_, rfl, (gsqWriteOp_keeps c s (m_ := 0x2A020) (by decide) (.refl _ s)).only (by decide), ?_⟩
    intro u haccepts hset hlive
    have hop : gsqWriteOp c s = u.gsqWriteCmd c := State.command_acts haccepts hset rfl hlive
    obtain ⟨-, hfunc, -⟩ := haccepts
    rintro q f n rfl rfl rfl
    refine ⟨fun h => hop.trans (State.gsqWriteCmd_past_end h), fun hroom h => hop.trans (State.gsqWriteCmd_conflict hroom h), ?_⟩
    intro d ws hroom hown hrunning hwaiting hbytes hws
    have hwords := hop.trans (State.gsqWriteCmd_words hfunc hroom hown hrunning hwaiting hbytes hws)
    exact ⟨fun hok => hwords.trans (if_pos hok), fun hbad => hwords.trans (if_neg (by simp [hbad]))⟩
  case start =>
    intro c s
    refine ⟨_, rfl, (gsqStartOp_keeps c s (m_ := 0x2A020) (by decide) (.refl _ s)).only (by decide), ?_⟩
    intro u haccepts hset hlive
    have hop : gsqStartOp c s = u.gsqStartCmd c := State.command_acts haccepts hset rfl hlive
    rintro q hq
    refine ⟨fun h => hop.trans (State.gsqStartCmd_conflict (hq ▸ h)), fun hown hstate => ?_⟩
    obtain ⟨x, hx, hrunning, hpc, hst, hg, hslots⟩ := u.startSeq_becomes q c.a2
    obtain ⟨hothers, -⟩ := hx.alone
    have hstart : gsqStartOp c s = (u.startSeq q c.a2).complete c stOK := by
      rw [hop, State.gsqStartCmd_starts hown (hq ▸ hstate), ← hq]
    have hgsq : ∀ r, (gsqStartOp c s).gsq r = (u.startSeq q c.a2).gsq r := fun r => by rw [hstart, State.gsq_complete]
    have hthis := (hgsq q).trans hx.gsq
    refine ⟨?_, ?_, ?_, ?_, ?_, fun r hr => (hgsq r).trans (hothers r hr)⟩
    · exact (congrArg GsqSt.state hthis :).trans hrunning
    · exact (congrArg GsqSt.pc hthis :).trans hpc
    · exact (congrArg GsqSt.st hthis :).trans hst
    · exact (congrArg GsqSt.g hthis :).trans hg
    · exact (congrArg GsqSt.slots hthis :).trans hslots
  case stop =>
    intro c s
    refine ⟨_, rfl, (gsqStopOp_keeps c s (m_ := 0x2A020) (by decide) (.refl _ s)).only (by decide), ?_⟩
    intro u haccepts hset hlive q hq
    have hop : gsqStopOp c s = u.gsqStopCmd c := State.command_acts haccepts hset rfl hlive
    change (∃ v : State, gsqStopOp c s = v.complete c stOK) ∧ (_ → gsqStopOp c s = _) ∧ (_ → ((gsqStopOp c s).gsq q).arm = _ ∧
      ((gsqStopOp c s).gsq q).pc = _ ∧ ((gsqStopOp c s).gsq q).state = _)
    rw [hop]
    exact ⟨u.gsqStopCmd_completes c, State.gsqStopCmd_none, fun hown => State.gsqStopCmd_stops hown hq⟩
  case install =>
    intro c s
    refine ⟨_, rfl, (planInstallOp_keeps c s (m_ := 0x2A800) (by decide) (.refl _ s)).only (by decide), ?_⟩
    intro u haccepts hset hlive
    have hop : planInstallOp c s = u.planInstallCmd c := State.command_acts haccepts hset rfl hlive
    rintro p d rfl hbytes
    refine ⟨fun hvalid hstage => hop.trans (State.planInstallCmd_busy hvalid hstage), fun hstage => ⟨?_, ?_, ?_⟩⟩
    · exact fun hplan => hop.trans (State.planInstallCmd_malformed hbytes hstage hplan)
    · exact fun x hplan hover => hop.trans ((State.planInstallCmd_formed hbytes hstage hplan).trans (if_pos hover))
    · intro x hplan hapart
      have hinstalls := hop.trans ((State.planInstallCmd_formed hbytes hstage hplan).trans (if_neg (by simp [hapart])))
      change (planInstallOp c s).plan _ = x ∧ ∃ v : State, planInstallOp c s = v.complete c stOK
      rw [hinstalls, State.plan_complete, State.plan_onPlan_same]
      exact ⟨rfl, _, rfl⟩
  case remove =>
    intro c s
    refine ⟨_, rfl, (planRemoveOp_keeps c s (m_ := 0x2A800) (by decide) (.refl _ s)).only (by decide), ?_⟩
    intro u haccepts hset hlive
    have hop : planRemoveOp c s = u.planRemoveCmd c := State.command_acts haccepts hset rfl hlive
    rintro p rfl
    refine ⟨fun h => hop.trans (State.planRemoveCmd_absent h), fun hvalid hglove => ?_⟩
    have hown := hop.trans (State.planRemoveCmd_own hvalid hglove)
    refine ⟨fun hstage => hown.trans (if_pos hstage), fun hstage => ?_⟩
    rw [hown, if_neg (not_not_intro hstage), State.plan_complete, State.plan_onPlan_same]
    exact ⟨rfl, _, rfl⟩
  case enable =>
    intro c s
    refine ⟨_, rfl, (lz2EnableOp_keeps c s (m_ := 0x2A040) (by decide) (.refl _ s)).only (by decide), ?_⟩
    intro u haccepts hset hlive f n hf hn
    have hop : lz2EnableOp c s = u.lz2EnableCmd c := State.command_acts haccepts hset rfl hlive
    refine ⟨fun h => hop.trans (State.lz2EnableCmd_unbuilt h), fun h hbuilt hglove => hop.trans (State.lz2EnableCmd_taken hbuilt hglove), ?_⟩
    intro hbuilt hfree hsize hpages hmax hframes hrange hown
    have henables := hop.trans (State.lz2EnableCmd_enables hf hn hbuilt hfree hsize hpages hmax hframes hrange hown)
    change (∃ v : State, lz2EnableOp c s = v.complete c stOK) ∧ (lz2EnableOp c s).mem.lz2Glove = _ ∧ (lz2EnableOp c s).mem.lz2Size = _ ∧
      (lz2EnableOp c s).mem.lz2Frames = _ ∧ (lz2EnableOp c s).mem.lz2Pages = _
    rw [henables, State.complete_mem]
    exact ⟨⟨_, rfl⟩, rfl, rfl, rfl, rfl⟩
  case disable =>
    intro c s
    refine ⟨_, rfl, (lz2DisableOp_keeps c s (m_ := 0x2A040) (by decide) (.refl _ s)).only (by decide), ?_⟩
    intro u haccepts hset hlive
    have hop : lz2DisableOp c s = u.lz2DisableCmd c := State.command_acts haccepts hset rfl hlive
    refine ⟨fun h => hop.trans (State.lz2DisableCmd_other h), fun k hglove hslot => hop.trans (State.lz2DisableCmd_loaded hglove hslot), ?_⟩
    intro hglove hslot
    have hends := hop.trans (State.lz2DisableCmd_ends hglove hslot)
    change (∃ v : State, lz2DisableOp c s = v.complete c stOK) ∧ (lz2DisableOp c s).mem.lz2Glove = _ ∧ (lz2DisableOp c s).mem.lz2Pages = _ ∧
      (lz2DisableOp c s).mem.lz2Frames = _
    rw [hends, State.complete_mem]
    exact ⟨⟨_, rfl⟩, u.lz2Off_mem⟩
  case migrate =>
    intro c s
    refine ⟨_, rfl, (migrateOp_keeps c s (m_ := 0x2A040) (by decide) (.refl _ s)).only (by decide), ?_⟩
    intro u haccepts hset hlive
    have hop : (migrateOp c s).mem = (u.migrateCmd c).mem := congrArg State.mem (State.command_acts haccepts hset rfl hlive)
    change ∃ r : MigReq, (migrateOp c s).mem.waiting = _ ∧ (migrateOp c s).mem.queue = _ ∧ _ ∧ (migrateOp c s).mem.nextReq = _ ∧ _
    rw [hop]
    exact ⟨_, rfl, rfl, rfl, rfl, rfl, rfl, rfl, rfl, rfl, rfl, rfl, rfl, rfl, rfl, rfl, rfl, rfl⟩

end Sys2Proof.Machine

/-! SUPPORT. M-cells as they are read and updated (R236, R248, R253, R265): one M-cell's update, its generators, rings and handle queues, arrival
counters (R262), and O31. -/

namespace Sys2Proof.Machine

open Adr

namespace State

/-! One M-cell's update. -/

@[simp] theorem mcell_onMCell_same (s : State) (g : Nat) (f : MCellSt → MCellSt) : (s.onMCell g f).mcell g = f (s.mcell g) := SMap.at_upd_same _ _ _

theorem mcell_onMCell_other (s : State) {g k : Nat} (f : MCellSt → MCellSt) (hk : k ≠ g) : (s.onMCell g f).mcell k = s.mcell k :=
  SMap.at_upd_other _ _ hk

theorem mcellBecomes_onMCell (s : State) (g : Nat) (f : MCellSt → MCellSt) : s.MCellBecomes g (f (s.mcell g)) (s.onMCell g f) :=
  ⟨(onMCell_keeps s g f (m_ := 0x10) (by decide) (.refl _ s)).only (by decide), mcell_onMCell_same s g f, fun _ hk => mcell_onMCell_other s f hk, rfl⟩

theorem MCellBecomes.mcell {s t : State} {g : Nat} {m : MCellSt} (h : s.MCellBecomes g m t) : t.mcell g = m := h.2.1

theorem mcellBecomes_onAg (s : State) (g a : Nat) (f : AgSt → AgSt) :
    s.MCellBecomes g { s.mcell g with ag := setPad (s.mcell g).ag a (f (s.agOf g a)) default } (s.onAg g a f) :=
  mcellBecomes_onMCell s g fun m => { m with ag := setPad m.ag a (f (m.ag.getD a default)) default }

/-! Generators, rings and handle queues as they are read. -/

@[simp] theorem agOf_onAg_same (s : State) (g a : Nat) (f : AgSt → AgSt) : (s.onAg g a f).agOf g a = f (s.agOf g a) := by
  unfold agOf
  rw [(mcellBecomes_onAg s g a f).mcell, getD_setPad, if_pos rfl]
  rfl

theorem ringOf_onMRing (s : State) (g j i : Nat) (f : RingSt → RingSt) :
    (s.onMRing g j f).ringOf g i = if i = j then f (s.ringOf g j) else s.ringOf g i := by
  unfold ringOf onMRing
  rw [mcell_onMCell_same, getD_setPad]

@[simp] theorem ringOf_onMRing_same (s : State) (g j : Nat) (f : RingSt → RingSt) : (s.onMRing g j f).ringOf g j = f (s.ringOf g j) := by
  rw [ringOf_onMRing, if_pos rfl]

/-- An update of an M-cell that keeps its rings. -/
theorem ringOf_onMCell {s : State} {g : Nat} {f : MCellSt → MCellSt} (hf : (f (s.mcell g)).rings = (s.mcell g).rings) (k j : Nat) :
    (s.onMCell g f).ringOf k j = s.ringOf k j := by
  unfold ringOf
  by_cases hk : k = g
  · rw [hk, mcell_onMCell_same, hf]
  · rw [mcell_onMCell_other s f hk]

theorem hqOf_onHq (s : State) (g q k : Nat) (f : HqSt → HqSt) :
    (s.onHq g q f).hqOf k q = if k = g then f (s.hqOf g q) else s.hqOf k q := by
  unfold hqOf onHq
  split
  · rename_i hk
    rw [hk, mcell_onMCell_same, getD_setPad, if_pos rfl]
  · rename_i hk
    rw [mcell_onMCell_other s _ hk]

/-! Arrival counters (R262). -/

theorem setArrival_regs (s : State) (die m n value counted : Nat) :
    (s.setArrival die m n value counted).regs = (s.setReg (arvCnt die m n) (BitVec.ofNat 64 (min (value + counted) 0xFFFFFFFF))).regs :=
  (wakeArrivals_keeps _ (m_ := 0x20) (by decide) (.refl _ _)).regs

/-- Counted writes that fit are added to the value set, and no other register changes. -/
theorem reg_setCountedCell_fits (s : State) (g n : Nat) {value counted : Nat} (hfits : value + counted ≤ 0xFFFFFFFF) :
    (s.setCountedCell g n value counted).reg (arvCnt (g / 288) (g % 288) n) = BitVec.ofNat 64 (value + counted) ∧
      ∀ a, a ≠ arvCnt (g / 288) (g % 288) n → (s.setCountedCell g n value counted).reg a = s.reg a := by
  have hset : s.setCountedCell g n value counted = s.setArrival (g / 288) (g % 288) n value counted := by
    unfold setCountedCell
    dsimp only
    rw [Nat.min_eq_left (by omega : counted ≤ 0xFFFFFFFF - value), Nat.sub_self, List.range_zero, List.foldl_nil]
  refine ⟨?_, fun a ha => ?_⟩
  · rw [hset, reg_of_regs (s.setArrival_regs _ _ n value counted), reg_setReg_same, Nat.min_eq_left hfits]
  · rw [hset, reg_of_regs (s.setArrival_regs _ _ n value counted), reg_setReg_other s _ ha]

theorem flagCounters_spdEvt {k : Nat} (hk : k < 8) : flagCounters (spdEvt k) = [spdCntDet k, spdCntRwref k, spdCntXerr k] := by
  have hdie : (spdEvt k - 0x1000000) / 0x200000 = k := by unfold spdEvt cd; omega
  have hofs : (spdEvt k - 0x1000000) % 0x200000 = 0x4000 := by unfold spdEvt cd; omega
  unfold flagCounters
  rw [if_neg (by unfold spdEvt cd; omega), if_pos (by unfold spdEvt cd; omega), hdie, hofs]
  rfl

/-- A refusal on a die leaves the arrival counters of its M-cells. -/
theorem reg_rwRefuse_arvCnt (s : State) {g : Nat} (win status glove : Nat) (push : Bool) (m n : Nat) (hg : g < 2304) :
    (s.rwRefuse g win status glove push).reg (arvCnt (g / 288) m n) = s.reg (arvCnt (g / 288) m n) := by
  have hcounters : arvCnt (g / 288) m n ∉ flagCounters (spdEvt (g / 288)) := by
    rw [flagCounters_spdEvt (by omega)]
    simp only [arvCnt, spdCntDet, spdCntRwref, spdCntXerr, List.mem_cons, List.not_mem_nil, or_false]
    omega
  unfold rwRefuse refuseRemote
  rw [reg_raise_other _ _ _ _ _ (by unfold arvCnt spdEvt; omega) hcounters]
  split
  · rfl
  · exact reg_setReg_other s _ (by unfold arvCnt spdRwlog; omega)

theorem flag_rwRefuse (s : State) (g win status glove : Nat) (push : Bool) : (s.rwRefuse g win status glove push).flag (spdEvt (g / 288)) 1 = true := by
  unfold rwRefuse refuseRemote
  exact flag_raise _ _ _ _ (by decide)

theorem field_one_of_bit {x : Word} {b : Nat} (h : x.bit b = true) : x.field b 1 = 1 := by
  have hbit : x.toNat.testBit b = true := h
  simpa [Word.field, Nat.testBit_eq_decide_div_mod_eq] using hbit

/-- Counted writes that do not fit stop the counter at all ones, and those refused set SPD_EVT bit 1 (R261). -/
theorem reg_setCountedCell_refused (s : State) {g : Nat} (n : Nat) {value counted : Nat} (hg : g < 2304) (hvalue : value ≤ 0xFFFFFFFF)
    (hover : 0xFFFFFFFF < value + counted) :
    (s.setCountedCell g n value counted).reg (arvCnt (g / 288) (g % 288) n) = BitVec.ofNat 64 0xFFFFFFFF ∧
      ((s.setCountedCell g n value counted).reg (spdEvt (g / 288))).field 1 1 = 1 := by
  obtain ⟨k, hk⟩ : ∃ k, counted - min counted (0xFFFFFFFF - value) = k + 1 := ⟨counted - min counted (0xFFFFFFFF - value) - 1, by omega⟩
  unfold setCountedCell
  dsimp only
  rw [hk]
  refine ⟨?_, ?_⟩
  · refine List.foldlRecOn (motive := fun u : State => u.reg (arvCnt (g / 288) (g % 288) n) = BitVec.ofNat 64 0xFFFFFFFF) _ _ ?_ fun u hu _ _ => ?_
    · rw [reg_of_regs (s.setArrival_regs _ _ n value _), reg_setReg_same, Nat.min_eq_right (a := counted) (by omega),
        show min (value + (0xFFFFFFFF - value)) 0xFFFFFFFF = 0xFFFFFFFF by omega]
    · rw [reg_rwRefuse_arvCnt u _ _ _ _ _ _ hg, hu]
  · rw [List.range_succ (n := k), List.foldl_append, List.foldl_cons, List.foldl_nil]
    exact field_one_of_bit (flag_rwRefuse _ g _ _ _ _)

end State

/-! Loops of a descriptor program (R248). -/

theorem closeLoops_outside {x : AgSt} (n : Nat) (h : x.loops = []) : closeLoops n x = x := by
  cases n with
  | zero => rfl
  | succ n => rw [closeLoops, h]

/-- A program stays in the body of its innermost loop. -/
theorem closeLoops_inside {x : AgSt} (n : Nat) {st en left : Nat} {inf : Bool} {r : List (Nat × Nat × Nat × Bool)} (hloops : x.loops = (st, en, left, inf) :: r)
    (hpc : x.pc < en) : closeLoops n x = x := by
  cases n with
  | zero => rfl
  | succ n =>
    rw [closeLoops, hloops]
    exact if_pos hpc

theorem agRunOp_straight {cell ag : Nat} (word : Word) {s : State} (h : (s.agOf cell ag).loops = []) :
    s.MCellBecomes cell { s.mcell cell with ag := ((agRunOp cell ag word [] s).mcell cell).ag } (agRunOp cell ag word [] s) ∧
      ∃ x : AgRun, x.word = word ∧ x.s0 = (s.agOf cell ag).t + word.field 25 20 ∧ x.tile = 0 ∧ x.line = 0 ∧ x.got = [] ∧ x.handles = [] ∧
        x.drawn = (s.agOf cell ag).drawn ∧ x.desc = (s.mprog cell).descs.getD (word.field 55 5) [] ∧
        (agRunOp cell ag word [] s).agOf cell ag = { s.agOf cell ag with
          t := (s.agOf cell ag).t + word.field 25 20 + ((s.mprog cell).run word).1.ntiles * word.field 8 17
          pc := (s.agOf cell ag).pc + 1
          drawn := (s.agOf cell ag).drawn + ((s.mprog cell).run word).1.ntiles * tileDrawn ((s.mprog cell).run word).1
          runs := (s.agOf cell ag).runs ++ [x] } := by
  have hbecomes := State.mcellBecomes_onAg s cell ag
  refine ⟨?_, ?_⟩
  · have hrun : s.MCellBecomes cell _ (agRunOp cell ag word [] s) := hbecomes _
    rw [hrun.mcell]
    exact hrun
  · exact ⟨⟨word, (s.mprog cell).descs.getD (word.field 55 5) [],
      ((s.mprog cell).run word).2.map fun _ => (s.mprog cell).descs.getD (word.field 55 5 + 1) [],
      (s.agOf cell ag).t + word.field 25 20, 0, 0, [], [], (s.agOf cell ag).drawn⟩, rfl, rfl, rfl, rfl, rfl, rfl, rfl, rfl,
      (State.agOf_onAg_same s cell ag _).trans (closeLoops_outside 5 h)⟩

theorem agLoopOp_enters {cell ag : Nat} (count : Nat) {body : Nat} (s : State) (hbody : 0 < body) :
    s.MCellBecomes cell { s.mcell cell with ag := setPad (s.mcell cell).ag ag { s.agOf cell ag with
      pc := (s.agOf cell ag).pc + 1
      loops := ((s.agOf cell ag).pc + 1, (s.agOf cell ag).pc + 1 + body, count, count == 0) :: (s.agOf cell ag).loops } default }
      (agLoopOp cell ag count body s) := by
  have h := State.mcellBecomes_onAg s cell ag fun x => closeLoops 5 { x with
    pc := x.pc + 1, loops := if body = 0 then x.loops else (x.pc + 1, x.pc + 1 + body, count, count == 0) :: x.loops }
  rw [if_neg (by omega), closeLoops_inside 5 rfl (by show _ + 1 < _ + 1 + body; omega)] at h
  exact h

theorem agLoopOp_empty {cell ag : Nat} (count : Nat) {s : State} (hloops : (s.agOf cell ag).loops = []) :
    s.MCellBecomes cell { s.mcell cell with ag := setPad (s.mcell cell).ag ag { s.agOf cell ag with pc := (s.agOf cell ag).pc + 1 } default }
      (agLoopOp cell ag count 0 s) := by
  have h := State.mcellBecomes_onAg s cell ag fun x => closeLoops 5 { x with pc := x.pc + 1, loops := x.loops }
  have hstays : closeLoops 5 { s.agOf cell ag with pc := (s.agOf cell ag).pc + 1 } = { s.agOf cell ag with pc := (s.agOf cell ag).pc + 1 } :=
    closeLoops_outside 5 hloops
  rw [hstays] at h
  exact h

/-! RING and HQB (R253, R265). -/

theorem ringOf_agNext (s : State) (g a k j : Nat) : (s.agNext g a).ringOf k j = s.ringOf k j :=
  State.ringOf_onMCell rfl k j

theorem ringOp_beyond {rng base srows slots : Nat} (cell ag : Nat) (s : State) (h : 2048 < base + srows * slots ∨ 4 ≤ rng) :
    ringOp cell ag rng base srows slots s = s := if_pos h

theorem ringOp_within {rng base srows slots : Nat} (cell ag : Nat) (s : State) (hrows : base + srows * slots ≤ 2048) (hrng : rng < 4) :
    ringOp cell ag rng base srows slots s = (s.setRing cell ag rng base srows slots).agNext cell ag := if_neg (by omega)

theorem mcell_ringOp_other (ag rng base srows slots : Nat) (s : State) {cell k : Nat} (hk : k ≠ cell) :
    (ringOp cell ag rng base srows slots s).mcell k = s.mcell k := by
  unfold ringOp
  split
  · rfl
  · exact (State.mcell_onMCell_other _ _ hk).trans (State.mcell_onMCell_other _ _ hk)

/-- HQB's own queue is empty and bound, whichever M-cell its producer is. -/
theorem hqOf_hqbOp (cell q prod : Nat) (s : State) :
    ((hqbOp cell q prod s).hqOf cell (q % 2)).handles = [] ∧ ((hqbOp cell q prod s).hqOf cell (q % 2)).prod = some prod := by
  unfold hqbOp
  dsimp only
  split
  · rw [State.hqOf_onHq]
    split <;> rename_i h
    · rw [← h, State.hqOf_onHq, if_pos rfl]
      exact ⟨rfl, rfl⟩
    · rw [State.hqOf_onHq, if_pos rfl]
      exact ⟨rfl, rfl⟩
  · rw [State.hqOf_onHq, if_pos rfl]
    exact ⟨rfl, rfl⟩

theorem credits_hqbOp (cell q : Nat) {prod : Nat} (s : State) (h : prod / 2 ^ 4 % 512 < 288) :
    ((hqbOp cell q prod s).hqOf (namedCell prod) (q % 2)).credits = 16 := by
  unfold hqbOp
  dsimp only
  rw [if_pos h, State.hqOf_onHq, if_pos rfl]

/-- Settles O31: each row by the lemma of its operation above. -/
theorem descriptorProgramRows : Obligations.DescriptorProgramRows := by
  unfold Obligations.DescriptorProgramRows
  refine ⟨?agEnd, ?agRun, ?agLoop, ?ring, ?win, ?seta, ?hqb⟩
  case agEnd =>
    intro cell ag s
    exact ⟨_, rfl, (agEndOp_keeps cell ag s (m_ := 0x10) (by decide) (.refl _ s)).only (by decide), s.mcellBecomes_onAg cell ag _⟩
  case agRun =>
    intro cell ag word upset s
    refine ⟨_, rfl, (agRunOp_keeps cell ag word upset s (m_ := 0x10) (by decide) (.refl _ s)).only (by decide), ?_⟩
    rintro rfl hloops
    exact agRunOp_straight word hloops
  case agLoop =>
    intro cell ag count body s
    refine ⟨_, rfl, (agLoopOp_keeps cell ag count body s (m_ := 0x10) (by decide) (.refl _ s)).only (by decide), agLoopOp_enters count s, ?_⟩
    rintro rfl hloops
    exact agLoopOp_empty count hloops
  case ring =>
    intro cell ag rng base srows slots s
    refine ⟨_, rfl, (ringOp_keeps cell ag rng base srows slots s (m_ := 0x10) (by decide) (.refl _ s)).only (by decide), ringOp_beyond cell ag s, ?_⟩
    intro hrows hrng
    have hring : ∀ j, State.ringOf (ringOp cell ag rng base srows slots s) cell j = (s.setRing cell ag rng base srows slots).ringOf cell j := fun j => by
      rw [ringOp_within cell ag s hrows hrng, ringOf_agNext]
    refine ⟨?_, fun j hj => ?_, fun k hk => mcell_ringOp_other ag rng base srows slots s hk⟩
    · exact (hring rng).trans (State.ringOf_onMRing_same s cell rng _)
    · exact (hring j).trans ((State.ringOf_onMRing s cell rng j _).trans (if_neg hj))
  case win =>
    intro cell w mode cnt base len s
    exact ⟨_, rfl, (winOp_keeps cell w mode cnt base len s (m_ := 0x8000) (by decide) (.refl _ s)).only (by decide), s.reg_setReg_same _ _,
      fun a ha => s.reg_setReg_other _ ha⟩
  case seta =>
    intro cell cnt value counted s
    exact ⟨_, rfl, (setaOp_keeps cell cnt value counted s (m_ := 0x8020) (by decide) (.refl _ s)).only (by decide),
      s.reg_setCountedCell_fits cell (cnt % 16), fun hcell => s.reg_setCountedCell_refused (cnt % 16) hcell (by have := value.isLt; omega)⟩
  case hqb =>
    intro cell q prod s
    exact ⟨_, rfl, (hqbOp_keeps cell q prod s (m_ := 0x10) (by decide) (.refl _ s)).only (by decide), hqOf_hqbOp cell q prod s, credits_hqbOp cell q s⟩

end Sys2Proof.Machine

/-! SUPPORT. Scratchpad rows, rings and narrow reads (R236 to R244, R254, R255, R259 to R261, R266, R268): a row as it is read after it is written, one
tile of a ring, one remote write, one handle and one narrow read, and O32. -/

namespace Sys2Proof.Machine

open Adr

namespace State

/-! Rows (R236, R244). -/

theorem row_of_arr {s t : State} (h : t.arr = s.arr) (k r : Nat) : t.row k r = s.row k r := by
  have hmcell : ∀ g, t.mcell g = s.mcell g := fun g => congrArg (·.mcells.at g) h
  unfold row scratchByte
  rw [h]
  simp only [hmcell]

theorem ringOf_of_arr {s t : State} (h : t.arr = s.arr) (k j : Nat) : t.ringOf k j = s.ringOf k j :=
  congrArg (fun a => (a.mcells.at k).rings.getD j default) h

/-- An update of an M-cell that keeps what its unwritten bytes read as. -/
theorem row_onMCell {s : State} {g : Nat} {f : MCellSt → MCellSt} (hf : (f (s.mcell g)).junk = (s.mcell g).junk) (k r : Nat) :
    (s.onMCell g f).row k r = s.row k r := by
  have hjunk : ∀ n, ((s.onMCell g f).mcell n).junk = (s.mcell n).junk := fun n => by
    by_cases hn : n = g
    · rw [hn, mcell_onMCell_same, hf]
    · rw [mcell_onMCell_other s f hn]
  unfold row scratchByte
  simp only [hjunk]
  rfl

theorem row_putRow_same (s : State) (g r : Nat) {d : List Byte} (hd : d.length = 512) : (s.putRow g r d).row g r = d := by
  refine List.ext_getElem (by simp [row, hd]) fun i hi hid => ?_
  have hkey : scratchKey g r i - scratchKey g r 0 = i := by unfold scratchKey; omega
  have hscratch : (s.putRow g r d).arr.scratch.at (scratchKey g r i) = some d[i] := by
    change (s.arr.scratch.putRow (scratchKey g r 0) (d.map some)).at (scratchKey g r i) = _
    rw [SMap.at_putRow, if_pos (by rw [List.length_map]; unfold scratchKey; omega), hkey, List.getD_eq_getElem _ _ (by simpa using hid), List.getElem_map]
  simp only [row, List.getElem_map, List.getElem_range, scratchByte, hscratch]

/-- A row written whole is read as it was written, whatever entry it had. -/
theorem row_writeRow_same (s : State) (g r : Nat) {d : List Byte} (hd : d.length = 512) : (s.writeRow g r d).row g r = d :=
  row_putRow_same _ g r hd

theorem mergeOf_writeRow_same (s : State) (g r : Nat) (d : List Byte) : (s.writeRow g r d).mergeOf g r = none := by
  change ((s.onMCell g fun m => { m with merge := m.merge.filter fun e => e.row ≠ r }).mcell g).merge.find? (fun e => e.row == r) = none
  rw [mcell_onMCell_same, List.find?_eq_none]
  intro e he
  simpa using (List.mem_filter.mp he).2

theorem ringOf_writeRow (s : State) (g r : Nat) (d : List Byte) (k j : Nat) : (s.writeRow g r d).ringOf k j = s.ringOf k j :=
  ringOf_onMCell (f := fun m => { m with merge := m.merge.filter fun e => e.row ≠ r }) rfl k j

theorem takeRow_idle {s : State} {g : Nat} (row : Nat) (h : s.cellIdle g = true) : s.takeRow g row = s := if_pos h

theorem mergeOf_takeRow (s : State) (g row r : Nat) : (s.takeRow g row).mergeOf g r = s.mergeOf g r := by
  unfold takeRow mergeOf
  split
  · rfl
  · rw [mcell_onMCell_same]

theorem mergeBack_entry {s : State} {g r : Nat} {e : MergeSt} (h : s.mergeOf g r = some e) : s.mergeBack g r = s.writeRow g r e.data := by
  unfold mergeBack
  rw [h]

theorem slotFree_onMCell {s : State} {g : Nat} {f : MCellSt → MCellSt} (hf : (f (s.mcell g)).banks = (s.mcell g).banks) (row : Nat) :
    (s.onMCell g f).slotFree g row = s.slotFree g row := by
  have hidle : (s.onMCell g f).cellIdle g = s.cellIdle g := rfl
  unfold slotFree
  rw [hidle, mcell_onMCell_same, hf]

/-! The fill of a READ ring (R254). -/

theorem length_slotRows (s : State) (ls : List Line) : (s.slotRows ls).length = ceilDiv ls.length 8 := by
  simp [slotRows, chunk]

/-- A fetched unit of the near tier that is there and sound. -/
def Sound (s : State) (a : Access) (d : Desc) (bl : Bool) (u : Nat) : Prop :=
  ∃ f v, s.planeUnit a d bl u false = .near f v ∧ s.poisoned f v = false

theorem missing_sound {s : State} {a : Access} {d : Desc} {bl : Bool} {us : List Nat} (h : ∀ u ∈ us, s.Sound a d bl u) :
    s.missing a d bl us false = [] := by
  unfold missing
  rw [List.filterMap_eq_nil_iff.mpr]
  · rfl
  · intro u hu
    obtain ⟨f, v, hplace, -⟩ := h u hu
    rw [hplace]

/-- A sound unit that does not come through the LZ2 view is read, and nothing changes. -/
theorem fetchUnit_sound {a : Access} {d : Desc} {bl : Bool} {u : Nat} (g : Nat) {x : Fetch} (hspace : taSpace d.ta ≠ 8)
    (h : x.s.Sound a d bl u) : (fetchUnit g a d bl x u).s = x.s := by
  obtain ⟨f, v, hplace, hsound⟩ := h
  unfold fetchUnit
  rw [hplace]
  dsimp only
  rw [if_neg hspace, if_neg (by simp [hsound])]

theorem fetchUnits_sound {a : Access} {d : Desc} {bl : Bool} (g : Nat) (us : List Nat) {x : Fetch} (hspace : taSpace d.ta ≠ 8)
    (h : ∀ u ∈ us, x.s.Sound a d bl u) : (us.foldl (fetchUnit g a d bl) x).s = x.s :=
  List.foldlRecOn (motive := fun y : Fetch => y.s = x.s) us _ rfl fun y hy u hu =>
    (fetchUnit_sound g hspace (by rw [hy]; exact h u hu)).trans hy

theorem arr_onMRing_spend (s : State) (n g j : Nat) (f : RingSt → RingSt) : ((s.spend n).onMRing g j f).arr = (s.onMRing g j f).arr := rfl

/-- A tile of one plane, all of whose units are sound, is fetched: its rows wait at the ring, and nothing else of the array changes. -/
theorem fillRing_sound {s : State} {g j t : Nat} {w : Word} {d : Desc} (drawn : Nat) (hrun : (s.mprog g).run w = (d, none))
    (hspace : taSpace d.ta ≠ 8) (h : ∀ u ∈ readUnits d t (tileBase d (w.bit 48) t 0) 64, s.Sound (s.cellAccess g) d (w.bit 48) u) :
    ∃ f : RingSt → RingSt, (s.fillRing g j w t drawn).arr = (s.onMRing g j f).arr ∧
      ∀ r, (f r).wait.length = ceilDiv d.nlines 8 ∧ (f r).moved = 0 ∧ (f r).tail = r.tail ∧ (f r).full = r.full := by
  unfold fillRing
  dsimp only
  rw [hrun]
  dsimp only
  rw [missing_sound h]
  rw [fetchUnits_sound g _ hspace h]
  refine ⟨_, (tensorEvents_keeps _ _ _ (m_ := 0x8008) (by decide) (.refl _ _)).arr.trans (arr_onMRing_spend s 512 g j _),
    fun r => ⟨?_, rfl, rfl, rfl⟩⟩
  rw [length_slotRows, List.length_map, List.length_range]

theorem fillRow_waiting {s : State} {g j : Nat} {d : List Byte} {l : List (List Byte)} (h : (s.ringOf g j).wait = d :: l) :
    s.fillRow g j = (s.writeRow g (slotRow (s.ringOf g j) (s.ringOf g j).tail + (s.ringOf g j).moved) d).onMRing g j fun r =>
      if l = [] then { r with wait := [], moved := 0, tail := (r.tail + 1) % r.slots, full := r.full + 1, done := r.done + 1 }
      else { r with wait := l, moved := r.moved + 1 } := by
  unfold fillRow
  dsimp only
  rw [h]

/-- An elastic write of a fill writes the first row that waits; the last one moves TAIL on and makes the slot FULL. -/
theorem fillRow_fills {s : State} {g j : Nat} {d : List Byte} {l : List (List Byte)} (h : (s.ringOf g j).wait = d :: l) (hd : d.length = 512) :
    (s.fillRow g j).row g (slotRow (s.ringOf g j) (s.ringOf g j).tail + (s.ringOf g j).moved) = d ∧ ((s.fillRow g j).ringOf g j).wait = l ∧
      (l = [] → ((s.fillRow g j).ringOf g j).full = (s.ringOf g j).full + 1 ∧
        ((s.fillRow g j).ringOf g j).tail = ((s.ringOf g j).tail + 1) % (s.ringOf g j).slots) := by
  rw [fillRow_waiting h, ringOf_onMRing_same, ringOf_writeRow]
  refine ⟨(row_onMCell (f := fun m => { m with rings := setPad m.rings j _ default }) rfl _ _).trans (row_writeRow_same s g _ hd), ?_, ?_⟩
  · split <;> simp [*]
  · rintro rfl
    exact ⟨rfl, rfl⟩

/-! The drain of a WRITE ring (R255). -/

theorem spoil_nil (s : State) (g : Nat) : s.spoil g [] = s := rfl

theorem planeHeld_free {s : State} (a : Access) (d : Desc) (bl : Bool) (us : List Nat) (h : s.mem.heldWrites = []) : s.planeHeld a d bl us = false := by
  unfold planeHeld
  rw [List.any_eq_false, h]
  intro u _
  split <;> simp

theorem drainChecks_sound {s : State} (a : Access) (d : Desc) (bl : Bool) (gs : List Seg) (us : List Nat) (h : ∀ f v, s.poisoned f v = false) :
    s.drainChecks a d bl gs us = s := by
  unfold drainChecks
  refine List.foldlRecOn (motive := fun t : State => t = s) us _ rfl fun t ht u _ => ?_
  rw [ht]
  split
  · rename_i f v _
    exact if_neg fun hpoisoned => Bool.false_ne_true ((h f v).symm.trans hpoisoned.2)
  · rfl

/-- A slot that has been drained but for held writes is freed once they have all been accepted. -/
theorem drainRing_frees {s : State} {g j t drawn : Nat} {w : Word} (hheld : (s.ringOf g j).held = true) (haccepted : s.mem.heldWrites = [])
    (hsound : ∀ f v, s.poisoned f v = false) : s.drainRing g j w t drawn = s.onMRing g j RingSt.freed := by
  unfold drainRing
  dsimp only
  rw [if_pos hheld]
  generalize (s.mprog g).run w = planes
  obtain ⟨d, c⟩ := planes
  cases c <;>
    simp only [planeHeld_free _ _ _ _ haccepted, drainChecks_sound _ _ _ _ _ hsound, Bool.or_self, Bool.false_eq_true, if_false]

/-! Remote writes (R259 to R261). -/

theorem remoteStop_open {s : State} {g r win glove : Nat} (hg : g < 2304) (howner : s.mcellGlove g = some glove)
    (hmode : (s.reg (rwin (g / 288) (g % 288) win)).field 23 2 = 1) (hlo : (s.reg (rwin (g / 288) (g % 288) win)).field 0 11 ≤ r)
    (hhi : r < (s.reg (rwin (g / 288) (g % 288) win)).field 0 11 + (s.reg (rwin (g / 288) (g % 288) win)).field 11 12) :
    s.remoteStop g r win glove = none := by
  unfold remoteStop
  dsimp only
  rw [hmode, if_neg (by simp [howner]; omega), if_neg (by decide), if_neg (by omega), if_neg (by omega)]

theorem remoteStop_closed {s : State} {g win glove : Nat} (r : Nat)
    (h : s.mcellGlove g ≠ some glove ∨ (s.reg (rwin (g / 288) (g % 288) win)).field 23 2 = 0) : ∃ st, s.remoteStop g r win glove = some st := by
  unfold remoteStop
  dsimp only
  by_cases howner : g ≥ 2304 ∨ s.mcellGlove g ≠ some glove
  · exact ⟨0, if_pos howner⟩
  · exact ⟨1, by rw [if_neg howner, if_pos (h.resolve_left fun hne => howner (.inr hne))]⟩

/-- A refused remote write changes registers alone. -/
theorem remote_refused_arr {s : State} {g r win glove st : Nat} (ofs : Nat) (d : List Byte) (upset : Bool) (h : s.remoteStop g r win glove = some st) :
    (s.remote g r ofs win glove d upset).1.arr = s.arr := by
  unfold remote remoteBytes
  rw [h]
  exact (rwRefuse_keeps s g win st glove false (m_ := 0x8000) (by decide) (.refl _ s)).arr

/-- A whole row that has arrived, with no counter, behind those that wait for their row slots. -/
def awaitRow (s : State) (g r : Nat) (d : List Byte) : State := s.onMCell g fun m => { m with elastic := m.elastic ++ [⟨r, d, none⟩] }

/-- The one whole row that waits takes its row slot, when that is free, and its effect. -/
theorem serveWrite_awaitRow {s : State} {g r : Nat} (d : List Byte) (hidle : (s.mcell g).elastic = []) (hfree : s.slotFree g r = true) :
    (s.awaitRow g r d).serveWrite g =
      some ((((s.awaitRow g r d).takeRow g r).onMCell g fun m => { m with elastic := [] }).writeRow g r d) := by
  have hone : ((s.awaitRow g r d).mcell g).elastic = [⟨r, d, none⟩] := by
    unfold awaitRow
    rw [mcell_onMCell_same]
    simp [hidle]
  have hslot : (s.awaitRow g r d).slotFree g r = true := (slotFree_onMCell rfl r).trans hfree
  unfold serveWrite
  rw [hone]
  dsimp only
  rw [hslot]
  rfl

/-- An accepted whole row whose row slot is free, with no other before it, replaces its row. -/
theorem remote_whole_row {s : State} {g r win glove : Nat} {d : List Byte} (upset : Bool) (hstop : s.remoteStop g r win glove = none)
    (hmode : (s.reg (rwin (g / 288) (g % 288) win)).field 23 2 = 1) (hd : d.length = 512) (hidle : (s.mcell g).elastic = [])
    (hfree : s.slotFree g r = true) :
    ∃ u : State, Keeps 0x10 s u ∧ (s.remote g r 0 win glove d upset).1 = u.writeRow g r d := by
  have hbytes : (d.zipIdx.map fun b => ((0 + b.2, b.1) : Nat × Byte)).map (·.2) = d := by simp [Function.comp_def]
  refine ⟨((s.awaitRow g r d).takeRow g r).onMCell g fun m => { m with elastic := [] }, ?_, ?_⟩
  · exact onMCell_keeps _ _ _ (by decide) (takeRow_keeps _ _ _ (by decide) (onMCell_keeps s g _ (by decide) (.refl _ s)))
  · unfold remote remoteBytes
    rw [hstop]
    dsimp only
    rw [if_pos (by simpa using hd), if_pos hidle, hmode, if_neg (by decide), hbytes]
    exact congrArg (·.getD (s.awaitRow g r d)) (serveWrite_awaitRow d hidle hfree)

/-! Handles (R266). -/

/-- A push to a queue bound to its producer, with room, appends the handle and spends a credit. -/
theorem pushHandle_bound {s : State} {g q producer : Nat} (h : BitVec 32) (glove : Nat) (hg : g < 2304) (hother : producer ≠ g)
    (hbound : (s.hqOf g q).prod = some (mcellName producer)) (hroom : (s.hqOf g q).handles.length < 16) :
    ((s.pushHandle g q producer h glove).hqOf g q).handles = (s.hqOf g q).handles ++ [h] ∧
      ((s.pushHandle g q producer h glove).hqOf producer q).credits = (s.hqOf producer q).credits - 1 ∧
      (s.pushHandle g q producer h glove).regs = s.regs := by
  unfold pushHandle
  dsimp only
  rw [if_neg (by simp [hbound]; omega), hqOf_onHq, if_pos rfl, hqOf_onHq, if_neg hother.symm, hqOf_onHq, if_neg hother, hqOf_onHq, if_pos rfl]
  exact ⟨rfl, rfl, rfl⟩

/-! Narrow reads (R242, R243, R268). -/

theorem reg_count_same (s : State) (a n : Nat) : (s.count a n).reg a = s.reg a + BitVec.ofNat 64 n := reg_setReg_same s a _

theorem reg_count_other (s : State) {a b : Nat} (n : Nat) (h : b ≠ a) : (s.count a n).reg b = s.reg b := reg_setReg_other s _ h

/-- A narrow read of a row whose codes are right, that meets no upset, answers the bytes as every reader sees them. -/
theorem narrowRead_sound {s : State} {g row : Nat} (ofs n reader glove : Nat) (h : s.badRow g row = 0) :
    s.narrowRead g row ofs n reader glove false = (s.count (spdCntNarrow (g / 288)), some (((s.rowSeen g row).drop ofs).take n)) := by
  have hsound : s.rowFails g row false = none := by
    unfold rowFails
    rw [if_neg (by simp [h])]
    rfl
  unfold narrowRead
  dsimp only
  rw [hsound, ite_self]

/-- With every row slot free, a request that needs no room in the merge buffer is performed. -/
theorem submitNarrow_read {s : State} {g len : Nat} {q : NarrowReq} (hop : q.op = .read len) (hqueue : (s.mcell g).narrow = [])
    (hidle : s.cellIdle g = true) (hlock : s.rowLocked g q.row = false) : s.submitNarrow g q = s.doNarrow g q := by
  have hfree : s.slotFree g q.row = true := by unfold slotFree; rw [hidle, Bool.true_or]
  have hserve : s.serveNarrow g q = some (s.doNarrow g q) := by
    unfold serveNarrow
    rw [hop, if_neg (by simp [hlock])]
    dsimp only
    rw [if_pos rfl]
    dsimp only
    rw [takeRow_idle _ hidle, if_pos hfree, ite_self]
  unfold submitNarrow
  rw [hqueue, hserve]

end State

/-! The commands. -/

/-- A RING_FILL of a READ ring with a free slot and no rows waiting fetches the ring's next tile. -/
theorem ringFillOp_fetches {cell rng ti n : Nat} {word : Word} {s : State} (hactive : (s.ringOf cell rng).active = true)
    (hread : (s.ringOf cell rng).isWrite = false) (hfree : (s.ringOf cell rng).full < (s.ringOf cell rng).slots)
    (hwait : (s.ringOf cell rng).wait = []) (hnext : s.ringNext cell rng = some (word, ti, n)) :
    ringFillOp cell rng s = (s.fillRing cell rng word ti n).serveElastics cell := by
  unfold ringFillOp
  dsimp only
  rw [if_neg (by simp [hactive, hread, hfree, hwait]), hnext]

/-- A RING_DRAIN that meets no upset lets elastic accesses be made, and drains the slot at TAIL once its rows have been read. -/
theorem ringDrainOp_drains {cell rng ti n : Nat} {word : Word} {s : State} (hactive : (s.ringOf cell rng).active = true)
    (hwrite : (s.ringOf cell rng).isWrite = true) (hfull : (s.ringOf cell rng).full ≠ 0) (hnext : s.ringNext cell rng = some (word, ti, n)) :
    ringDrainOp cell rng [] s = if (s.serveElastics cell).drainRows cell rng > 0 then s.serveElastics cell
      else (s.serveElastics cell).drainRing cell rng word ti n := by
  unfold ringDrainOp
  dsimp only
  rw [if_neg (by simp [hactive, hwrite, hfull]), hnext, State.spoil_nil]

theorem mergeWritebackOp_rests {cell row : Nat} {s : State} (h : s.mergeOf cell row = none ∨ s.slotFree cell row = false) :
    mergeWritebackOp cell row s = s := by
  refine if_neg fun hboth => ?_
  rcases h with h | h <;> simp [h] at hboth

theorem mergeWritebackOp_writes {cell row : Nat} {s : State} {e : MergeSt} (hfree : s.slotFree cell row = true)
    (hentry : s.mergeOf cell row = some e) : mergeWritebackOp cell row s = (s.takeRow cell row).writeRow cell row e.data := by
  unfold mergeWritebackOp
  rw [if_pos ⟨hfree, by simp [hentry]⟩]
  exact State.mergeBack_entry ((s.mergeOf_takeRow cell row row).trans hentry)

/-- A remote write of bytes of one row reaches the M-cell, row and window that its tier address names. -/
theorem remoteWriteOp_eq (ta : Word) (glove : Nat) (data : List Byte) (upset : Bool) (s : State) :
    remoteWriteOp ta glove data upset s =
      if taSpace ta.toNat ≠ 0 ∨ taOfs ta.toNat / 2 ^ 35 ≠ 0 ∨ ta.toNat / 2 ^ 20 % 4096 ≥ 2304 ∨ data = [] ∨ ta.toNat % 512 + data.length > 512 then s
      else (s.remote (ta.toNat / 2 ^ 20 % 4096) (ta.toNat / 2 ^ 9 % 2048) (ta.toNat % 512) (ta.toNat / 2 ^ 32 % 8) glove data upset).1 := by
  have hcell : taOfs ta.toNat / 2 ^ 20 % 4096 = ta.toNat / 2 ^ 20 % 4096 := by unfold taOfs; omega
  have hrow : taOfs ta.toNat / 2 ^ 9 % 2048 = ta.toNat / 2 ^ 9 % 2048 := by unfold taOfs; omega
  have hbyte : taOfs ta.toNat % 512 = ta.toNat % 512 := by unfold taOfs; omega
  have hwin : taOfs ta.toNat / 2 ^ 32 % 8 = ta.toNat / 2 ^ 32 % 8 := by unfold taOfs; omega
  unfold remoteWriteOp State.remoteTo
  dsimp only
  rw [hcell, hrow, hbyte, hwin]

theorem remoteWriteOp_refused_arr {ta : Word} {glove : Nat} (data : List Byte) (upset : Bool) {s : State}
    (h : s.mcellGlove (ta.toNat / 2 ^ 20 % 4096) ≠ some glove ∨
      (s.reg (rwin (ta.toNat / 2 ^ 20 % 4096 / 288) (ta.toNat / 2 ^ 20 % 4096 % 288) (ta.toNat / 2 ^ 32 % 8))).field 23 2 = 0) :
    (remoteWriteOp ta glove data upset s).arr = s.arr := by
  obtain ⟨st, hstop⟩ := State.remoteStop_closed (ta.toNat / 2 ^ 9 % 2048) h
  rw [remoteWriteOp_eq]
  split
  · rfl
  · exact State.remote_refused_arr _ data upset hstop

/-- A core's read of scratchpad bytes, aligned to their number, reads the row's bytes when every row slot is free. -/
theorem narrowRequestOp_reads {c g v len : Nat} {ta : Word} {s : State} (hrun : s.whoStopped (.core c g v) = false)
    (hqueue : (s.mcell (ta.toNat / 2 ^ 20 % 4096)).narrow = []) (hidle : s.cellIdle (ta.toNat / 2 ^ 20 % 4096) = true)
    (hlock : s.rowLocked (ta.toNat / 2 ^ 20 % 4096) (ta.toNat / 2 ^ 9 % 2048) = false) (hlen : len ∈ [1, 2, 4, 8, 64])
    (hal : ta.toNat % len = 0) (hspace : taSpace ta.toNat = 0) (hhigh : ta.toNat / 2 ^ 56 = 0) (hofs : taOfs ta.toNat / 2 ^ 35 = 0)
    (hcell : ta.toNat / 2 ^ 20 % 4096 < 2304) (hwin : ta.toNat / 2 ^ 32 % 8 = 0)
    (hsound : s.badRow (ta.toNat / 2 ^ 20 % 4096) (ta.toNat / 2 ^ 9 % 2048) = 0) :
    narrowRequestOp (.core c g v) ta (.read len) false s =
      (s.count (spdCntNarrow (ta.toNat / 2 ^ 20 % 4096 / 288))).emit (.readData
        (some (((s.rowSeen (ta.toNat / 2 ^ 20 % 4096) (ta.toNat / 2 ^ 9 % 2048)).drop (ta.toNat % 512)).take len)) false) := by
  have hsize : ([1, 2, 4, 8, 64] : List Nat).contains len = true := by simpa using hlen
  unfold narrowRequestOp
  dsimp only
  rw [if_neg (by simp [hrun]), if_neg (by simp [hspace]), if_neg (by simp [hspace]; omega),
    if_neg (by rw [hsize]; simp [hal]),
    State.submitNarrow_read rfl hqueue hidle hlock]
  unfold State.doNarrow
  dsimp only
  rw [State.narrowRead_sound _ _ _ _ hsound]

/-- Settles O32: each command by the lemma of its case above, and each frame by the operation's frame law. -/
theorem ringsRowsAndRemoteWrites : Obligations.RingsRowsAndRemoteWrites := by
  unfold Obligations.RingsRowsAndRemoteWrites
  refine ⟨?fill, ?drain, ?merge, ?remote, ?push, ?arrival, ?narrow⟩
  case fill =>
    intro cell rng s
    refine ⟨_, rfl, (ringFillOp_keeps cell rng s (m_ := 0x6E8F8) (by decide) (.refl _ s)).only (by decide), fun h => if_pos h, ?_,
      fun u d l => State.fillRow_fills⟩
    intro w ti n hactive hread hfree hwait hnext hplane hspace hsound
    obtain ⟨f, harr, hf⟩ := State.fillRing_sound (s := s) (g := cell) (j := rng) n (Prod.ext rfl hplane) hspace hsound
    obtain ⟨hrows, hmoved, htail, hfull⟩ := hf (s.ringOf cell rng)
    have hring : (s.fillRing cell rng w ti n).ringOf cell rng = f (s.ringOf cell rng) :=
      (State.ringOf_of_arr harr cell rng).trans (State.ringOf_onMRing_same s cell rng f)
    refine ⟨s.fillRing cell rng w ti n, ringFillOp_fetches hactive hread hfree hwait hnext, ?_, ?_, ?_, ?_, fun k row => ?_⟩
    · rw [hring, hrows]
    · rw [hring, hmoved]
    · rw [hring, htail]
    · rw [hring, hfull]
    · exact (State.row_of_arr harr k row).trans (State.row_onMCell (f := fun m => { m with rings := setPad m.rings rng _ default }) rfl k row)
  case drain =>
    intro cell rng upset s
    refine ⟨_, rfl, (ringDrainOp_keeps cell rng upset s (m_ := 0x6E8F8) (by decide) (.refl _ s)).only (by decide), fun h => if_pos h, ?_⟩
    rintro w ti n hactive hwrite hfull hnext rfl
    have hdrains := ringDrainOp_drains hactive hwrite hfull hnext
    refine ⟨fun hrows => hdrains.trans (if_pos (Nat.pos_of_ne_zero hrows)), fun hread hheld haccepted hsound => ?_⟩
    rw [hdrains, if_neg (by omega), State.drainRing_frees hheld haccepted hsound, State.ringOf_onMRing_same]
  case merge =>
    intro cell row s
    refine ⟨_, rfl, (mergeWritebackOp_keeps cell row s (m_ := 0x10) (by decide) (.refl _ s)).only (by decide), mergeWritebackOp_rests, ?_⟩
    intro e hfree hentry hlen
    rw [mergeWritebackOp_writes hfree hentry]
    exact ⟨State.row_writeRow_same _ cell row hlen, State.mergeOf_writeRow_same _ cell row e.data⟩
  case remote =>
    intro ta glove data upset s
    refine ⟨_, rfl, (remoteWriteOp_keeps ta glove data upset s (m_ := 0x28030) (by decide) (.refl _ s)).only (by decide), ?whole,
      fun _ _ => remoteWriteOp_refused_arr data upset⟩
    intro hspace hofs hcell hal hlen howner hidle hfree hmode hlo hhi
    obtain ⟨u, hkeeps, hwrites⟩ := State.remote_whole_row upset (State.remoteStop_open hcell howner hmode hlo hhi) hmode hlen hidle hfree
    have hdata : data ≠ [] := by rintro rfl; simp at hlen
    have hop : remoteWriteOp ta glove data upset s = u.writeRow (ta.toNat / 2 ^ 20 % 4096) (ta.toNat / 2 ^ 9 % 2048) data := by
      rw [remoteWriteOp_eq, if_neg (by simp [hspace, hdata, hal, hlen]; omega), hal, hwrites]
    change State.row (remoteWriteOp ta glove data upset s) _ _ = _ ∧ s.OnlyChanges _ (remoteWriteOp ta glove data upset s)
    rw [hop]
    exact ⟨State.row_writeRow_same u _ _ hlen, (State.writeRow_keeps u _ _ data (by decide) hkeeps).only (by decide)⟩
  case push =>
    intro cell q producer handle glove s
    exact ⟨_, rfl, (handlePushOp_keeps cell q producer handle glove s (m_ := 0x8010) (by decide) (.refl _ s)).only (by decide),
      State.pushHandle_bound handle glove⟩
  case arrival =>
    intro die m n half val counted s
    have hvalue : half ≠ .hi → arvCntWriteOp die m n half val counted s = s.setCountedCell (288 * die + m) n (val.toNat % 2 ^ 32) counted := by
      intro hhalf
      cases half with
      | hi => exact absurd rfl hhalf
      | lo => rfl
      | whole => rfl
    have hdie : m < 288 → (288 * die + m) / 288 = die := by omega
    have hcell : m < 288 → (288 * die + m) % 288 = m := by omega
    refine ⟨_, rfl, (arvCntWriteOp_keeps die m n half val counted s (m_ := 0x8020) (by decide) (.refl _ s)).only (by decide), ?_, ?_⟩
    · intro hm hhalf hfits
      have h := s.reg_setCountedCell_fits (288 * die + m) n hfits
      rw [hdie hm, hcell hm, ← hvalue hhalf] at h
      exact h
    · intro hk hm hn hhalf hover
      have h := s.reg_setCountedCell_refused (g := 288 * die + m) n (by omega) (by omega) hover
      rw [hdie hm, hcell hm, ← hvalue hhalf] at h
      exact h
  case narrow =>
    intro who ta op upset s
    refine ⟨_, rfl, (narrowRequestOp_keeps who ta op upset s (m_ := 0x28870) (by decide) (.refl _ s)).only (by decide), ?_⟩
    rintro c g v len rfl hrun hqueue hidle hlock rfl rfl hlen hal hspace hhigh hofs hcell hwin hsound
    have hop := narrowRequestOp_reads hrun hqueue hidle hlock hlen hal hspace hhigh hofs hcell hwin hsound
    change State.out (narrowRequestOp _ ta _ false s) = _ ∧ s.OnlyChanges _ (narrowRequestOp _ ta _ false s) ∧
      ∀ a, _ → State.reg (narrowRequestOp _ ta _ false s) a = _
    rw [hop]
    exact ⟨congrArg (_ :: ·) (s.count_out _ 1), (State.emit_keeps _ _ (m_ := 0x28000) (by decide) (State.count_keeps s _ 1 (by decide) (.refl _ s))).only (by decide),
      fun a ha => (State.reg_emit _ _ a).trans (s.reg_count_other 1 ha)⟩

end Sys2Proof.Machine

/-! SUPPORT. Parts of the memory tiers as they come into service (R271, R276, R290, R308, R309, R315, R316, R571, R572): channels, deep ports and stacks
as they are read after their training, packed blocks, and O35. -/

namespace Sys2Proof

/-- An entry of a table after one index is changed, at another index, is an entry of the table before. -/
theorem SMap.mem_of_mem_upd {α : Type} [DecidableEq α] [Inhabited α] {m : SMap α} {k : Nat} {f : α → α} {p : Nat × α} (hp : p ∈ m.upd k f)
    (hk : p.1 ≠ k) : p ∈ m := by
  unfold SMap.upd SMap.put SMap.store at hp
  dsimp only at hp
  split at hp
  · exact (List.mem_filter.mp hp).1
  · rcases SMap.mem_place hp with rfl | hrest
    · exact absurd rfl hk
    · exact (List.mem_filter.mp hrest).1

end Sys2Proof

namespace Sys2Proof.Machine

open Adr

namespace State

@[simp] theorem ddr_onDdr_same (s : State) (c : Nat) (f : DdrSt → DdrSt) : (s.onDdr c f).mem.ddr.at c = f (s.mem.ddr.at c) := SMap.at_upd_same _ _ _

@[simp] theorem dpp_onDpp_same (s : State) (i : Nat) (f : DppSt → DppSt) : (s.onDpp i f).mem.dpp.at i = f (s.mem.dpp.at i) := SMap.at_upd_same _ _ _

@[simp] theorem stack_onStack_same (s : State) (n : Nat) (f : StackSt → StackSt) : (s.onStack n f).stack n = f (s.stack n) := SMap.at_upd_same _ _ _

theorem stack_of_mem {s t : State} (h : t.mem = s.mem) (n : Nat) : t.stack n = s.stack n := congrArg (·.hbmStacks.at n) h

theorem judgeMod_mem (s : State) : s.judgeMod.mem = s.mem := (judgeMod_keeps s (m_ := 0x8004) (by decide) (.refl _ s)).mem

theorem completed_mem (s : State) (c : HostCmd) (st : Nat) : (s.complete c st).judgeMod.mem = s.mem :=
  (judgeMod_mem _).trans (s.complete_mem c st)

/-! What bring-up takes leaves the deep ports. -/

theorem readCatalogue_dpp (s : State) : s.readCatalogue.mem.dpp = s.mem.dpp := by
  unfold readCatalogue
  split
  · rfl
  · exact List.foldlRecOn (motive := fun t : State => t.mem.dpp = s.mem.dpp) s.mem.catalogue _ rfl fun t ht _ _ => ht

theorem takeSystem_dpp {s t : State} (h : s.takeSystem = some t) : t.mem.dpp = s.mem.dpp := by
  unfold takeSystem at h
  split at h
  · cases h
  · split at h
    · cases h
    · cases h
      rfl

theorem takePairs_dpp {n : Nat} {s t : State} (h : s.takePairs n = some t) : t.mem.dpp = s.mem.dpp := by
  induction n generalizing s with
  | zero => cases h; rfl
  | succ n ih =>
    rw [takePairs] at h
    split at h
    · rename_i u hu
      exact (ih h).trans (takeSystem_dpp hu)
    · cases h

theorem takeBringFrames_dpp (s : State) : s.takeBringFrames.mem.dpp = s.mem.dpp := by
  have hengine : s.takeEngineFrames.mem.dpp = s.mem.dpp := by
    unfold takeEngineFrames
    split
    · rename_i t ht
      exact takePairs_dpp (t := t) ht
    · rfl
  have hpool : ∀ u : State, u.takePoolFrames.mem.dpp = u.mem.dpp := fun u => by
    unfold takePoolFrames
    split
    · rename_i t ht
      exact takePairs_dpp (t := t) ht
    · rfl
  exact (hpool _).trans hengine

/-! Packed blocks (R272 to R276). -/

theorem decodeBlock_decodes {s : State} {k e i g : Nat} {d o : List Byte} (hbytes : s.packedBytes k e i ⟨g, (s.glove g).key, false⟩ = .ok d)
    (hblock : unpack d = some o) :
    (s.decodeBlock k e i g).1 = (s.count (expCntIn (s.packedCtl k e i).1) (d.length / 64)).count (expCntOut (s.packedCtl k e i).1) 64 := by
  unfold decodeBlock
  dsimp only
  rw [hbytes]
  dsimp only
  rw [hblock]

/-! Stacks (R290, R572). -/

theorem stack_mapStack (s : State) (n k : Nat) : (s.mapStack n).stack k = s.stack k := by
  unfold mapStack
  split <;> rfl

theorem stacksDone_mem (s : State) (k : Nat) : (s.stacksDone k).mem = s.mem := by
  unfold stacksDone
  split <;> rfl

end State

/-! The commands. -/

theorem returnTrainingCompleteOp_idle {deep : Bool} {idx : Nat} (ok : Bool) (info : DimmInfo) (capB : Nat) {s : State}
    (h : (if deep then (s.mem.dpp.at idx).returnCmd else (s.mem.ddr.at idx).returnCmd) = none) :
    returnTrainingCompleteOp deep idx ok info capB s = s := by
  unfold returnTrainingCompleteOp
  dsimp only
  rw [h]

/-- The channels beside `idx` whose DIMM sets the tier's one kind and one speed (R308). -/
def State.otherChannels (s : State) (idx : Nat) : SMap DdrSt := s.mem.ddr.filter fun p => p.1 != idx && p.2.st != .absent && !p.2.mismatch

/-- What an update of a channel leaves true of the others. -/
theorem State.otherChannels_onDdr {s : State} {idx : Nat} {f : DdrSt → DdrSt} {P : DdrSt → Prop}
    (h : ∀ p ∈ s.mem.ddr, p.1 ≠ idx → p.2.st ≠ .absent → p.2.mismatch = false → P p.2) : ∀ p ∈ (s.onDdr idx f).otherChannels idx, P p.2 := by
  intro p hp
  obtain ⟨hentry, hother⟩ := List.mem_filter.mp hp
  simp only [Bool.and_eq_true, bne_iff_ne, ne_eq, Bool.not_eq_true'] at hother
  obtain ⟨⟨hidx, hst⟩, hmismatch⟩ := hother
  exact h p (SMap.mem_of_mem_upd (m := s.mem.ddr) hentry hidx) hidx hst hmismatch

theorem State.otherChannels_kind {s : State} {idx : Nat} {info : DimmInfo} (h : ∀ p ∈ s.otherChannels idx, p.2.mrdimm = info.mrdimm ∧ p.2.speed = info.speed) :
    (s.otherChannels idx).any (fun p => p.2.mrdimm != info.mrdimm) = false := by
  rw [List.any_eq_false]
  intro p hp
  simp [(h p hp).1]

theorem State.otherChannels_speed {s : State} {idx : Nat} {info : DimmInfo} (h : ∀ p ∈ s.otherChannels idx, p.2.mrdimm = info.mrdimm ∧ p.2.speed = info.speed) :
    (((s.otherChannels idx).find? fun p => p.2.speed != 0).map fun p => p.2.speed).getD info.speed = info.speed := by
  cases hfind : (s.otherChannels idx).find? fun p => p.2.speed != 0 with
  | none => rfl
  | some p => exact (h p (List.mem_of_find?_eq_some hfind)).2

/-- A channel whose training succeeds, with the kind and the speed of the others, returns with what its training found (R308, R316). -/
theorem returnTrainingCompleteOp_channel {idx : Nat} {info : DimmInfo} (capB : Nat) {s : State} {c : HostCmd}
    (hcmd : (s.mem.ddr.at idx).returnCmd = some c)
    (hothers : ∀ p ∈ s.mem.ddr, p.1 ≠ idx → p.2.st ≠ .absent → p.2.mismatch = false → p.2.mrdimm = info.mrdimm ∧ p.2.speed = info.speed) :
    (returnTrainingCompleteOp false idx true info capB s).mem.ddr.at idx = { s.mem.ddr.at idx with
      st := .active, mrdimm := info.mrdimm, x4 := info.x4, speed := info.speed, capGB := info.capGB, mismatch := false, ceWin := 0, returnCmd := none } := by
  have hsame := State.otherChannels_onDdr (f := fun d => { d with returnCmd := none }) (P := fun d => d.mrdimm = info.mrdimm ∧ d.speed = info.speed) hothers
  have hkind := State.otherChannels_kind hsame
  have hspeed := State.otherChannels_speed hsame
  unfold State.otherChannels at hkind hspeed
  unfold returnTrainingCompleteOp
  simp only [Bool.false_eq_true, if_false, hcmd, hkind, hspeed, Bool.not_false, Bool.and_false, Bool.true_eq_false, false_or, true_and, Nat.lt_irrefl]
  rw [State.completed_mem, State.ddr_onDdr_same, State.ddr_onDdr_same]

/-- A deep port whose training succeeds returns with its SSD's capacity (R310, R316). -/
theorem returnTrainingCompleteOp_port {idx : Nat} (info : DimmInfo) (capB : Nat) {s : State} {c : HostCmd}
    (hcmd : (s.mem.dpp.at idx).returnCmd = some c) :
    (returnTrainingCompleteOp true idx true info capB s).mem.dpp.at idx =
      { s.mem.dpp.at idx with st := .active, nvmeReady := true, capB := offered capB, returnCmd := none } := by
  unfold returnTrainingCompleteOp
  simp only [if_true, hcmd, Bool.not_true, Bool.false_and, Bool.true_eq_false, Bool.false_eq_true, false_or, false_and, if_false]
  rw [State.completed_mem, State.setReg_mem, State.dpp_onDpp_same, State.dpp_onDpp_same]

theorem packedBlockDecodeOp_decodes {die entry block glove : Nat} {s : State} {d o : List Byte} (hvalid : s.prtFld die entry 3 63 1 ≠ 0)
    (hglove : s.prtFld die entry 3 56 6 = glove) (hblocks : block < s.prtFld die entry 1 0 32) (hentry : entry < 64)
    (hbytes : s.packedBytes die entry block ⟨glove, (s.glove glove).key, false⟩ = .ok d) (hblock : unpack d = some o) :
    packedBlockDecodeOp die entry block glove s =
      (s.count (expCntIn (s.packedCtl die entry block).1) (d.length / 64)).count (expCntOut (s.packedCtl die entry block).1) 64 := by
  unfold packedBlockDecodeOp
  rw [if_neg (by rintro (h | h | h | h) <;> omega)]
  exact State.decodeBlock_decodes hbytes hblock

/-- A deep port that was absent joins the deep tier at a format it supports, and is FENCED at another (R309, R310). -/
theorem deepPortNvmeReadyOp_absent {port : Nat} (fmtOk : Bool) (gen width capB : Nat) {s : State} (hport : port < 4) (hstate : s.inA = true)
    (hbuilt : s.prof 0 19 1 ≠ 0) (hiod : s.aos.iodFenced.contains port = false) (habsent : (s.mem.dpp.at port).st = .absent) :
    (deepPortNvmeReadyOp port fmtOk gen width capB s).mem.dpp.at port =
      if fmtOk then { s.mem.dpp.at port with st := .active, gen := gen, width := width, nvmeReady := true, capB := offered capB }
      else { s.mem.dpp.at port with st := .fenced, gen := gen, width := width, nvmeReady := false } := by
  unfold deepPortNvmeReadyOp
  dsimp only
  rw [if_neg (by simp only [hstate, hbuilt, hiod, Bool.true_eq_false, Bool.false_eq_true, or_false]; omega), if_neg (by simp [habsent]),
    if_neg (by simp [habsent])]
  cases fmtOk with
  | false => exact State.dpp_onDpp_same s port _
  | true =>
    rw [if_neg (by decide), State.takeBringFrames_dpp, State.readCatalogue_dpp, State.setReg_mem]
    exact State.dpp_onDpp_same s port _

/-! Stacks and the wide tier (R308, R571, R572). -/

theorem stackTrainingAttemptOp_idle {n : Nat} (ok : Bool) {s : State} (h : (s.die (s.stackDie n)).bring ≠ 2) : stackTrainingAttemptOp n ok s = s := by
  unfold stackTrainingAttemptOp
  exact if_pos (.inr (.inl h))

/-- An attempt at a stack in training: it trains, or fails and tries again while it has failed fewer than three times. -/
theorem stackTrainingAttemptOp_trains {n : Nat} {s : State} (hn : n < s.variant.hbmStacks) (hbring : (s.die (s.stackDie n)).bring = 2)
    (htrained : (s.stack n).trained = false) (hretired : (s.stack n).retired = false) (hdie : s.dieFenced (s.stackDie n) = false) (ok : Bool) :
    (ok = true → (stackTrainingAttemptOp n ok s).stack n = { s.stack n with trained := true, power := 0 }) ∧
      (ok = false → (s.stack n).tries + 1 < 3 → stackTrainingAttemptOp n ok s = s.onStack n fun x => { x with tries := x.tries + 1 }) := by
  have hgoes : ¬ (n ≥ s.variant.hbmStacks ∨ (s.die (s.stackDie n)).bring ≠ 2 ∨ (s.stack n).trained = true ∨ (s.stack n).retired = true ∨
      s.dieFenced (s.stackDie n) = true) := by
    simp only [hbring, htrained, hretired, hdie, ne_eq, not_true_eq_false, Bool.false_eq_true, or_false]
    omega
  unfold stackTrainingAttemptOp
  dsimp only
  rw [if_neg hgoes]
  refine ⟨?_, ?_⟩
  · rintro rfl
    rw [if_pos rfl, State.stack_of_mem (State.stacksDone_mem _ _), State.stack_mapStack, State.stack_onStack_same]
  · rintro rfl htries
    rw [if_neg (by decide), if_pos (by rw [State.stack_onStack_same]; exact htries)]

theorem wideTierTrainedOp_idle (dimms : List DimmInfo) {s : State} (h : s.aos.stage < 5 ∨ s.aos.wideTrained = true) : wideTierTrainedOp dimms s = s := by
  unfold wideTierTrainedOp
  exact if_pos h

/-- The wide tier trains once: of the AOS, only the mark of that changes. -/
theorem wideTierTrainedOp_aos (dimms : List DimmInfo) {s : State} (hstage : 5 ≤ s.aos.stage) (hfirst : s.aos.wideTrained = false) :
    (wideTierTrainedOp dimms s).aos = { s.aos with wideTrained := true } := by
  unfold wideTierTrainedOp
  rw [if_neg (by simp [hfirst, hstage])]
  refine congrArg (fun a : AosBlk => { a with wideTrained := true }) (?_ : _ = s.aos)
  refine List.foldlRecOn (motive := fun t : State => t.aos = s.aos) _ _ rfl fun t ht d _ => ?_
  dsimp only
  split
  · exact ht
  · split
    · exact (State.Keeps.aos (m := 0x8000) (State.fenceCount_keeps _ (by decide) (State.errClass_keeps _ _ _ _ _ _ _ (by decide)
        (State.raise_keeps _ _ _ _ (by decide) (.ite (.refl _ _) (State.setReg_keeps _ _ _ (by decide) (.refl _ _))))))).trans ht
    · exact ht

/-- One populated channel that trains, on an I/O die and a PLL in service, is ACTIVE at its DIMM's kind and speed. -/
theorem wideTierTrainedOp_single {d : DimmInfo} {s : State} (hstage : 5 ≤ s.aos.stage) (hfirst : s.aos.wideTrained = false)
    (hchannel : d.channel < s.variant.channels) (htrained : d.trained = true) (hfenced : s.portSt false d.channel ≠ .fenced)
    (hpll : s.aos.pllBad.contains (.ddr (d.channel / 6)) = false) (hiod : s.aos.iodFenced.contains (d.channel / 6) = false) :
    (wideTierTrainedOp [d] s).mem.ddr.at d.channel = { s.mem.ddr.at d.channel with
      st := .active, mrdimm := d.mrdimm, x4 := d.x4, speed := d.speed, capGB := d.capGB, mismatch := false } := by
  have hfit : [d].filter (fun x => decide (x.channel < s.variant.channels)) = [d] := by simp [hchannel]
  have hused : [d].filter (fun x => x.mrdimm == d.mrdimm) = [d] := by simp
  have hsort : [d].sortBy (fun a b => decide (a.channel ≤ b.channel)) = [d] := rfl
  unfold wideTierTrainedOp
  rw [if_neg (by simp [hfirst, hstage])]
  dsimp only
  rw [hfit, hsort]
  simp only [List.head?_cons, Option.map_some, Option.getD_some, hused, List.foldl_cons, List.foldl_nil, Nat.min_self, if_neg hfenced, htrained,
    Bool.true_eq_false, and_false, if_false, bne_self_eq_false, Bool.not_true, hpll, hiod, Bool.or_self]
  exact State.ddr_onDdr_same s d.channel _

/-- Settles O35: each command by the lemma of its case above, and each frame by the operation's frame law. -/
theorem memoryPartsTrained : Obligations.MemoryPartsTrained := by
  unfold Obligations.MemoryPartsTrained
  refine ⟨?returns, ?dqs, ?packed, ?deep, ?stack, ?wide⟩
  case returns =>
    intro deep idx ok info capB s
    refine ⟨_, rfl, (returnTrainingCompleteOp_keeps deep idx ok info capB s (m_ := 0x2A044) (by decide) (.refl _ s)).only (by decide),
      returnTrainingCompleteOp_idle ok info capB, ?_, ?_⟩
    · rintro c rfl hcmd rfl hothers
      exact returnTrainingCompleteOp_channel capB hcmd hothers
    · rintro c rfl hcmd rfl
      exact returnTrainingCompleteOp_port info capB hcmd
  case dqs =>
    intro chan s
    exact ⟨s, rfl, .refl s [], rfl⟩
  case packed =>
    intro die entry block glove s
    refine ⟨_, rfl, (packedBlockDecodeOp_keeps die entry block glove s (m_ := 0x6E8F0) (by decide) (.refl _ s)).only (by decide), fun h => if_pos h, ?_⟩
    intro d o hvalid hglove hblocks hentry hbytes hblock
    have hctl : expCntIn (s.packedCtl die entry block).1 ≠ expCntOut (s.packedCtl die entry block).1 := by unfold expCntIn expCntOut; omega
    rw [packedBlockDecodeOp_decodes hvalid hglove hblocks hentry hbytes hblock]
    refine ⟨?_, ?_, (State.count_keeps _ _ 64 (m_ := 0x8000) (by decide) (State.count_keeps s _ _ (by decide) (.refl _ s))).only (by decide)⟩
    · rw [State.reg_count_other _ _ hctl, State.reg_count_same]
    · rw [State.reg_count_same, State.reg_count_other _ _ hctl.symm]
      rfl
  case deep =>
    intro port fmtOk gen width capB s
    exact ⟨_, rfl, (deepPortNvmeReadyOp_keeps port fmtOk gen width capB s (m_ := 0x8840) (by decide) (.refl _ s)).only (by decide), fun h => if_pos h,
      deepPortNvmeReadyOp_absent fmtOk gen width capB⟩
  case stack =>
    intro n ok s
    refine ⟨_, rfl, (stackTrainingAttemptOp_keeps n ok s (m_ := 0x6F8FC) (by decide) (.refl _ s)).only (by decide), stackTrainingAttemptOp_idle ok, ?_⟩
    intro hn hbring htrained hretired hdie
    obtain ⟨htrains, hfails⟩ := stackTrainingAttemptOp_trains hn hbring htrained hretired hdie ok
    refine ⟨fun hok => ?_, fun hok htries => ?_⟩
    · rw [htrains hok]
      exact ⟨rfl, rfl, hretired⟩
    · rw [hfails hok htries, State.stack_onStack_same]
      exact ⟨rfl, htrained, rfl⟩
  case wide =>
    intro dimms s
    refine ⟨_, rfl, (wideTierTrainedOp_keeps dimms s (m_ := 0xC040) (by decide) (.refl _ s)).only (by decide), wideTierTrainedOp_idle dimms, ?_⟩
    intro d hstage hfirst
    refine ⟨wideTierTrainedOp_aos dimms hstage hfirst, ?_⟩
    rintro rfl hchannel htrained hfenced hpll hiod
    have hchan := wideTierTrainedOp_single hstage hfirst hchannel htrained hfenced hpll hiod
    refine ⟨?_, ?_, ?_⟩
    · exact congrArg DdrSt.st hchan
    · exact congrArg DdrSt.speed hchan
    · exact congrArg DdrSt.mrdimm hchan

end Sys2Proof.Machine

/-! SUPPORT. Errors of stacks, channels, deep ports and dies, and the fences that follow (R296, R309, R315, R317, R318, R584, R587, R591): what each
command does in the cases in which it acts, and O34. -/

namespace Sys2Proof.Machine

-- The threads of the whole text share one memory limit: these proofs take none of their own.
set_option Elab.async false

open Adr

/-- A stack after its retirement (R317). -/
def StackSt.retire (x : StackSt) : StackSt := { x with retired := true, trained := false, power := 2 }

/-- A die after its full fence (R591). -/
def DieSt.fence (d : DieSt) : DieSt := { d with fullFence := true, held := false, stepping := none }

theorem MemBlk.set_relocs_same {m : MemBlk} {l : List Reloc} (h : l = m.relocs) : { m with relocs := l } = m := by
  subst h
  rfl

namespace State

/-! What the registers of an error leave (R321, R584, R603). -/

theorem elog_mem (s : State) (k c f u kind g : Nat) (write system : Bool) : (s.elog k c f u kind g write system).mem = s.mem :=
  (elog_keeps s k c f u kind g write system (m_ := 0x8000) (by decide) (.refl _ s)).mem

theorem errClass_mem (s : State) (cls obj idx cause glove : Nat) (detail : Word) : (s.errClass cls obj idx cause glove detail).mem = s.mem :=
  (errClass_keeps s cls obj idx cause glove detail (m_ := 0x8000) (by decide) (.refl _ s)).mem

theorem errClass_dies (s : State) (cls obj idx cause glove : Nat) (detail : Word) : (s.errClass cls obj idx cause glove detail).dies = s.dies :=
  (errClass_keeps s cls obj idx cause glove detail (m_ := 0x8000) (by decide) (.refl _ s)).dies

/-- A log register that is captured only while its flag reads 0. -/
theorem capture_mem (s : State) (c : Prop) [Decidable c] (a : Nat) (v : Word) : (if c then s else s.setReg a v).mem = s.mem := by
  split
  · rfl
  · exact setReg_mem s a v

theorem corrected_mem (s : State) : s.corrected.mem = s.mem := raise_mem _ _ _ _

theorem fenceCount_mem (s : State) : s.fenceCount.mem = s.mem := raise_mem _ _ _ _

/-- An update of the memory block depends on the memory block alone. -/
theorem onMem_mem_congr {s t : State} (h : t.mem = s.mem) (f : MemBlk → MemBlk) : (t.onMem f).mem = (s.onMem f).mem := congrArg f h

theorem crossing_alert_mem (s : State) (n thr obj idx b : Nat) : (s.crossing n thr obj idx fun t => t.alert b).mem = s.mem :=
  (crossing_keeps s n thr obj idx (fun t => t.alert b) (m_ := 0x8000) (by decide) (.refl _ s) fun u hu => alert_keeps u b (by decide) hu).mem

/-- With the threshold 0 no count crosses it. -/
theorem crossing_zero (s : State) (n obj idx : Nat) (act : State → State) : s.crossing n 0 obj idx act = s := by
  unfold crossing
  exact if_neg fun h => h.1 rfl

/-! Frames (R290, R318). -/

theorem frame_of_mem {s t : State} (h : t.mem = s.mem) (f : Nat) : t.frame f = s.frame f := congrArg (·.tmap.at f) h

@[simp] theorem frame_onFrame_same (s : State) (f : Nat) (g : FrameSt → FrameSt) : (s.onFrame f g).frame f = g (s.frame f) := SMap.at_upd_same _ _ _

theorem frame_onFrame_other (s : State) {f k : Nat} (g : FrameSt → FrameSt) (h : k ≠ f) : (s.onFrame f g).frame k = s.frame k :=
  SMap.at_upd_other _ _ h

theorem stack_onStack_other (s : State) {n k : Nat} (f : StackSt → StackSt) (h : k ≠ n) : (s.onStack n f).stack k = s.stack k :=
  SMap.at_upd_other _ _ h

theorem remapFrame_spare (s : State) (f b : Nat) : (s.remapFrame f b).frame b = default := by
  unfold remapFrame
  rw [frame_onFrame_same]

/-- A remapped frame lies where the FREE frame lay, and is otherwise as it was. -/
theorem remapFrame_frame (s : State) {f b : Nat} (h : f ≠ b) :
    (s.remapFrame f b).frame f = { s.frame f with stack := (s.frame b).stack, pframe := (s.frame b).pframe } := by
  unfold remapFrame
  rw [frame_onFrame_other _ _ h, frame_onFrame_same]

/-- The FREE frame that a retired frame takes: on the same die, with room on its stack for the frame's poisoned units. -/
def retireInto (s : State) (f : Nat) : Option Nat :=
  (s.mem.tmap.find? fun p => p.1 != f && p.2.mode == .free && s.stackDie p.2.stack == s.frameDie f
    && (p.2.stack == (s.frame f).stack || (s.stack p.2.stack).poisonList.length
      + ((s.stack (s.frame f).stack).poisonList.filter fun q => q.1 = f).length ≤ 64)).map (·.1)

theorem retireInto_ne {s : State} {f b : Nat} (h : s.retireInto f = some b) : f ≠ b := by
  obtain ⟨p, hfind, rfl⟩ := Option.map_eq_some_iff.mp h
  have hp := List.find?_some hfind
  simp only [Bool.and_eq_true, bne_iff_ne, ne_eq] at hp
  exact fun hf => hp.1.1.1 hf.symm

/-- A mapped frame with a FREE frame to take is remapped to it and waits no longer. -/
theorem retireFrame_moves {s : State} {f b : Nat} (hmode : (s.frame f).mode ≠ .absent) (hinto : s.retireInto f = some b) :
    ∃ u : State, (s.retireFrame f).mem = (u.remapFrame f b).mem ∧ (∀ k, u.frame k = s.frame k) ∧
      u.mem.retireWait = s.mem.retireWait.filter (· ≠ f) := by
  unfold retireInto at hinto
  unfold retireFrame
  dsimp only
  rw [if_neg hmode, hinto]
  exact ⟨_, (fenceCount_mem _).trans (raise_mem _ _ _ _), fun _ => rfl, rfl⟩

/-! Fences of channels and ports (R315, R359). -/

theorem portSt_of_mem {s t : State} (h : t.mem = s.mem) (deep : Bool) (i : Nat) : t.portSt deep i = s.portSt deep i := by
  unfold portSt
  rw [h]

theorem extentsOn_of_extents {s t : State} (h : t.mem.extents = s.mem.extents) (deep : Bool) (i : Nat) : t.extentsOn deep i = s.extentsOn deep i := by
  unfold extentsOn
  rw [h]

theorem portSt_setPort (s : State) (deep : Bool) (i : Nat) (x : PortState) : (s.setPort deep i x).portSt deep i = x := by
  cases deep
  · exact congrArg DdrSt.st (s.ddr_onDdr_same i fun d => { d with st := x })
  · exact congrArg DppSt.st (s.dpp_onDpp_same i fun d => { d with st := x })

theorem setPort_sameEngine (s : State) (deep : Bool) (i : Nat) (x : PortState) : s.SameEngine (s.setPort deep i x) := by
  cases deep <;> rfl

theorem loseCaches_nil (s : State) : s.loseCaches [] = s := by
  have hnone : (s.stw.seqt.filter fun p => p.2.handles.any fun h => ([] : List Nat).contains (h.toNat % 2 ^ 24)) = [] := by simp
  unfold loseCaches
  rw [hnone]
  rfl

/-- A channel or port that serves no extent, with no relocation and no move under way, is FENCED and the memory is else as it was. -/
theorem fencePort_unused {s : State} {deep : Bool} {i : Nat} (hextents : s.extentsOn deep i = []) (hrelocs : s.mem.relocs = [])
    (hmoves : ∀ r ∈ s.mem.queue, r.op ≠ 3) : (s.fencePort deep i).mem = (s.setPort deep i .fenced).mem := by
  have hport := s.setPort_sameEngine deep i .fenced
  unfold fencePort
  dsimp only
  rw [judgeMod_mem, hextents, loseCaches_nil, List.foldl_nil]
  have hflag : (if deep = true then (s.setPort deep i .fenced).fenceCount else (s.setPort deep i .fenced).fenceCount.raise (ddrEvt i) 2).mem =
      (s.setPort deep i .fenced).mem := by
    split
    · exact fenceCount_mem _
    · rw [raise_mem, fenceCount_mem]
  generalize (if deep = true then (s.setPort deep i .fenced).fenceCount else (s.setPort deep i .fenced).fenceCount.raise (ddrEvt i) 2) = u at hflag ⊢
  have hnone : u.mem.relocs = [] := by rw [hflag, hport.relocs, hrelocs]
  have hsame : u.onMem (fun m => { m with relocs := m.relocs.filter fun r => !(r.deep == deep && (r.dst.1 == i || r.old.1 == i)) }) = u :=
    congrArg (fun m => { u with mem := m }) (MemBlk.set_relocs_same (by rw [hnone]; rfl))
  rw [hsame, hnone, List.filter_nil, List.foldl_nil]
  have hidle : (u.mem.queue.filter fun r => r.op == 3 && ((u.extent r.slot).newChunks.any fun c => deep && c.1 == i)) = [] := by
    rw [List.filter_eq_nil_iff, hflag, hport.queue]
    intro r hr
    simp [hmoves r hr]
  rw [hidle]
  exact hflag

/-! Stacks that are retired (R317). -/

/-- No frame is lost, and there is no node: nothing goes. -/
theorem losePages_nil {s : State} (hnodes : s.stw.nodes = []) : s.losePages [] = s := by
  have hgone : (s.liveNodes.filter fun p => p.2.pages.any fun a => ([] : List Nat).contains (a / 2 ^ 25)) = [] := by simp
  have hseqs : (s.stw.seqt.filter fun p => p.2.pages.any fun r => ([] : List Nat).contains (r.page / 2 ^ 25)) = [] := by simp
  unfold losePages
  dsimp only
  rw [hgone, List.map_nil, List.foldl_nil, hnodes, List.length_nil, List.range_zero, List.foldl_nil, hseqs]
  rfl

/-- A stack that maps no frame, in a module without nodes, is retired alone. -/
theorem retireStack_unmapped {s : State} {n : Nat} (hlive : (s.stack n).retired = false) (htmap : s.mem.tmap = []) (hnodes : s.stw.nodes = []) :
    s.retireStack n = (s.onStack n StackSt.retire).fenceCount.judgeMod := by
  have hpages : (s.onStack n StackSt.retire).fenceCount.losePages [] = (s.onStack n StackSt.retire).fenceCount :=
    losePages_nil ((congrArg StewardBlk.nodes (raise_stw _ _ _ _)).trans hnodes)
  unfold StackSt.retire at hpages ⊢
  unfold retireStack
  rw [if_neg (by simp [hlive]), htmap]
  simp only [List.filter_nil, List.map_nil, List.foldl_nil, List.append_nil, List.flatMap_nil, List.eraseDups_nil, hpages]

theorem judgeMod_aos (s : State) : s.judgeMod.aos = s.aos := (judgeMod_keeps s (m_ := 0x8004) (by decide) (.refl _ s)).aos

/-- With a die in service and no I/O die fenced, no fault follows. -/
theorem judgeFault_none {s : State} (hdies : fittedDies.all s.dieFenced = false) (hiods : s.aos.iodFenced = []) : s.judgeFault = s := by
  unfold judgeFault
  rw [if_neg (by simp [hdies]), hiods, if_neg (by simp), if_neg (by simp)]

/-- With another stack of its die in service, a stack that maps no frame is retired alone, and no fence or fault follows. -/
theorem retireStackDie_unmapped {s : State} {n x : Nat} (hlive : (s.stack n).retired = false) (htmap : s.mem.tmap = []) (hnodes : s.stw.nodes = [])
    (hx : x < s.variant.perDie) (hother : x + s.variant.perDie * s.stackDie n ≠ n)
    (hserves : (s.stack (x + s.variant.perDie * s.stackDie n)).retired = false) (hdies : fittedDies.all s.dieFenced = false)
    (hiods : s.aos.iodFenced = []) : (s.retireStackDie n).mem = (s.onStack n StackSt.retire).mem := by
  have hretired := retireStack_unmapped hlive htmap hnodes
  have hmem : (s.retireStack n).mem = (s.onStack n StackSt.retire).mem := by rw [hretired, judgeMod_mem, fenceCount_mem]
  have haos : (s.retireStack n).aos = s.aos := by rw [hretired, judgeMod_aos, fenceCount, raise_aos]; rfl
  have hfenced : (s.retireStack n).dieFenced = s.dieFenced := by
    unfold dieFenced
    rw [(retireStack_keeps s n (m_ := 0x6E8F4) (by decide) (.refl _ s)).dies]
  have hstays : ((s.retireStack n).stack (x + s.variant.perDie * s.stackDie n)).retired = false := by
    rw [stack_of_mem hmem, stack_onStack_other _ _ hother, hserves]
  have hsome : ¬((List.range s.variant.perDie).map (· + s.variant.perDie * s.stackDie n)).all (fun k => ((s.retireStack n).stack k).retired) = true := by
    rw [List.all_eq_true]
    intro hall
    exact Bool.false_ne_true (hstays.symm.trans (hall _ (List.mem_map.mpr ⟨x, List.mem_range.mpr hx, rfl⟩)))
  unfold retireStackDie
  dsimp only
  rw [if_neg hsome, judgeFault_none (by rw [hfenced, hdies]) (by rw [haos, hiods]), hmem]

/-! Full fences (R591). -/

/-- Of the dies, a full fence changes the fenced one alone. -/
theorem fullFence_dies {s : State} {k : Nat} (hopen : (s.die k).fullFence = false) :
    (s.fullFence k).dies = s.dies.upd k DieSt.fence := by
  have hkeeps : Keeps 0x6F8F4 (s.onDie k DieSt.fence) (s.fullFence k) := by
    unfold fullFence
    rw [if_neg (by simpa [die] using hopen)]
    refine judgeFault_keeps _ (by decide) (judgeMod_keeps _ (by decide) ?_)
    refine .foldl (fun t _ => onArr_keeps t _ (by decide) (.refl _ t)) ?_
    refine .foldl (fun t i => fenceIod_keeps t i (by decide) (.refl _ t)) ?_
    refine .foldl (fun t n => retireStack_keeps t n (by decide) (.refl _ t)) ?_
    exact fenceDiePalms_keeps _ k (by decide) (fenceCount_keeps _ (by decide) (.refl _ _))
  exact hkeeps.dies

end State

/-! The commands. -/

theorem hbmUncorrectedReadOp_absent {frame : Nat} (unit glove : Nat) (system rr : Bool) {s : State} (h : (s.frame frame).mode = .absent) :
    hbmUncorrectedReadOp frame unit glove system rr s = s := by
  unfold hbmUncorrectedReadOp
  exact if_pos h

/-- A unit not yet listed, with room on its stack's list, is listed, and its frame marked; of the memory nothing else changes. -/
theorem hbmUncorrectedReadOp_lists {frame unit : Nat} (glove : Nat) (system : Bool) {s : State} (hmode : (s.frame frame).mode ≠ .absent)
    (hnew : (frame, unit) ∉ (s.stack (s.frame frame).stack).poisonList) (hroom : (s.stack (s.frame frame).stack).poisonList.length < 64) :
    (hbmUncorrectedReadOp frame unit glove system false s).mem =
      ((s.onStack (s.frame frame).stack fun x => { x with poisonList := x.poisonList ++ [(frame, unit)] }).onFrame frame
        fun x => { x with poison := true }).mem := by
  unfold hbmUncorrectedReadOp
  dsimp only
  rw [if_neg hmode, if_neg Bool.false_ne_true]
  rw [State.stack_of_mem (State.raise_mem _ _ _ _), State.stack_of_mem (State.elog_mem _ _ _ _ _ _ _ _ _), if_neg (by simpa using hnew), if_pos hroom]
  exact State.onMem_mem_congr (State.onMem_mem_congr ((State.raise_mem _ _ _ _).trans (State.elog_mem _ _ _ _ _ _ _ _ _)) _) _

theorem correctedErrorOp_stack {idx : Nat} (dev unit : Nat) {s : State} (hidx : idx < s.variant.hbmStacks) (hlive : (s.stack idx).retired = false) :
    (correctedErrorOp 2 idx dev unit s).stack idx = { s.stack idx with ceWin := (s.stack idx).ceWin + 1 } := by
  unfold correctedErrorOp
  rw [if_pos rfl, if_neg (by simp [hlive, hidx]), State.stack_of_mem (State.crossing_alert_mem _ _ _ _ _ _), State.stack_onStack_same,
    State.stack_of_mem (State.corrected_mem _), State.stack_of_mem (State.raise_mem _ _ _ _)]

/-- A corrected error of a populated channel without a threshold is counted in its window. -/
theorem correctedErrorOp_channel {idx : Nat} (dev unit : Nat) {s : State} (hpresent : s.portSt false idx ≠ .absent)
    (hopen : s.portSt false idx ≠ .fenced) (hthreshold : s.fld rasCethr 0 16 = 0) :
    (correctedErrorOp 3 idx dev unit s).mem.ddr.at idx = { s.mem.ddr.at idx with ceWin := (s.mem.ddr.at idx).ceWin + 1 } := by
  unfold correctedErrorOp
  rw [if_neg (by decide), if_pos rfl, if_neg (not_or.mpr ⟨hpresent, hopen⟩)]
  dsimp only
  rw [hthreshold, State.crossing_zero, State.ddr_onDdr_same]
  rw [State.corrected_mem, State.raise_mem, State.capture_mem]

/-- An error of a fitted port without a threshold is counted in its window. -/
theorem correctedErrorOp_port {idx : Nat} (dev unit : Nat) {s : State} (hpresent : s.portSt true idx ≠ .absent)
    (hopen : s.portSt true idx ≠ .fenced) (hthreshold : s.fld rasCethr 32 8 = 0) :
    (correctedErrorOp 4 idx dev unit s).mem.dpp.at idx = { s.mem.dpp.at idx with errWin := (s.mem.dpp.at idx).errWin + 1 } := by
  unfold correctedErrorOp
  rw [if_neg (by decide), if_neg (by decide), if_pos ⟨rfl, hpresent, hopen⟩]
  unfold State.nvmeError
  dsimp only
  rw [hthreshold, State.crossing_zero, State.errClass_mem, State.dpp_onDpp_same, State.raise_mem]

theorem correctedErrorOp_noPart {part : Nat} (idx dev unit : Nat) {s : State} (h : part < 2 ∨ 4 < part) : correctedErrorOp part idx dev unit s = s := by
  unfold correctedErrorOp
  rw [if_neg (by omega), if_neg (by omega), if_neg (by omega)]

theorem frameRetirementOp_idle {frame : Nat} {s : State} (h : frame ∉ s.mem.retireWait) : frameRetirementOp frame s = s := by
  unfold frameRetirementOp
  exact if_neg (by simpa using h)

theorem frameRetirementOp_waiting {frame : Nat} {s : State} (h : frame ∈ s.mem.retireWait) : frameRetirementOp frame s = s.retireFrame frame := by
  unfold frameRetirementOp
  exact if_pos (by simpa using h)

theorem ddrUncorrectedErrorOp_closed {chan : Nat} (unit dev cause : Nat) {s : State} (h : s.portSt false chan = .absent ∨ s.portSt false chan = .fenced) :
    ddrUncorrectedErrorOp chan unit dev cause s = s := by
  unfold ddrUncorrectedErrorOp
  exact if_pos h

/-- An uncorrected error is logged, and then fences its channel. -/
theorem ddrUncorrectedErrorOp_open {chan : Nat} (unit dev cause : Nat) {s : State} (hpresent : s.portSt false chan ≠ .absent)
    (hopen : s.portSt false chan ≠ .fenced) : ∃ u : State, u.mem = s.mem ∧ ddrUncorrectedErrorOp chan unit dev cause s = u.fencePort false chan := by
  unfold ddrUncorrectedErrorOp
  rw [if_neg (not_or.mpr ⟨hpresent, hopen⟩)]
  refine ⟨_, ?_, rfl⟩
  rw [State.errClass_mem, State.raise_mem, State.capture_mem]

/-- An uncorrected error of a channel that nothing uses fences it. -/
theorem ddrUncorrectedErrorOp_fences {chan : Nat} (unit dev cause : Nat) {s : State} (hpresent : s.portSt false chan ≠ .absent)
    (hopen : s.portSt false chan ≠ .fenced) (hextents : s.extentsOn false chan = []) (hrelocs : s.mem.relocs = [])
    (hmoves : ∀ r ∈ s.mem.queue, r.op ≠ 3) : (ddrUncorrectedErrorOp chan unit dev cause s).portSt false chan = .fenced := by
  obtain ⟨u, hmem, hop⟩ := ddrUncorrectedErrorOp_open unit dev cause hpresent hopen
  rw [← State.extentsOn_of_extents (congrArg MemBlk.extents hmem)] at hextents
  rw [← hmem] at hrelocs hmoves
  rw [hop, State.portSt_of_mem (State.fencePort_unused hextents hrelocs hmoves), State.portSt_setPort]

theorem deepPortLinkDownOp_closed {port : Nat} {s : State} (h : s.portSt true port = .absent ∨ s.portSt true port = .fenced) :
    deepPortLinkDownOp port s = s := by
  unfold deepPortLinkDownOp
  exact if_pos h

/-- A lost link takes its rate, its width and its controller's readiness, and then fences its port. -/
theorem deepPortLinkDownOp_open {port : Nat} {s : State} (hpresent : s.portSt true port ≠ .absent) (hopen : s.portSt true port ≠ .fenced) :
    ∃ u : State, u.mem = (s.onDpp port fun d => { d with gen := 0, width := 0, nvmeReady := false }).mem ∧
      deepPortLinkDownOp port s = u.fencePort true port := by
  unfold deepPortLinkDownOp
  rw [if_neg (not_or.mpr ⟨hpresent, hopen⟩)]
  exact ⟨_, (State.errClass_mem _ _ _ _ _ _ _).trans (State.onMem_mem_congr (State.raise_mem _ _ _ _) _), rfl⟩

/-- A deep port that nothing uses and whose link goes down is FENCED, with its controller not ready. -/
theorem deepPortLinkDownOp_fences {port : Nat} {s : State} (hpresent : s.portSt true port ≠ .absent)
    (hopen : s.portSt true port ≠ .fenced) (hextents : s.extentsOn true port = []) (hrelocs : s.mem.relocs = [])
    (hmoves : ∀ r ∈ s.mem.queue, r.op ≠ 3) : (deepPortLinkDownOp port s).mem.dpp.at port =
      { s.mem.dpp.at port with gen := 0, width := 0, nvmeReady := false, st := .fenced } := by
  obtain ⟨u, hmem, hop⟩ := deepPortLinkDownOp_open hpresent hopen
  have hengine : s.SameEngine u := (congrArg MemBlk.engine hmem).trans rfl
  rw [← State.extentsOn_of_extents hengine.extents] at hextents
  rw [← hengine.relocs] at hrelocs
  rw [← hengine.queue] at hmoves
  rw [hop, State.fencePort_unused hextents hrelocs hmoves]
  refine (State.dpp_onDpp_same u port fun d => { d with st := .fenced }).trans ?_
  rw [hmem, State.dpp_onDpp_same]

theorem nvmeCommandCompleteOp_closed {port : Nat} (ident : Nat) (ok : Bool) {s : State} (h : s.portSt true port = .absent ∨ s.portSt true port = .fenced) :
    nvmeCommandCompleteOp port ident ok s = s := by
  unfold nvmeCommandCompleteOp
  exact if_pos h

theorem nvmeCommandCompleteOp_ok {port : Nat} (ident : Nat) {s : State} (hpresent : s.portSt true port ≠ .absent)
    (hopen : s.portSt true port ≠ .fenced) : nvmeCommandCompleteOp port ident true s = s.count (dppCntCmd port) := by
  unfold nvmeCommandCompleteOp
  exact if_neg (not_or.mpr ⟨hpresent, hopen⟩)

theorem stackControllerFailureOp_idle {n : Nat} {s : State} (h : s.variant.hbmStacks ≤ n ∨ (s.stack n).retired = true) :
    stackControllerFailureOp n s = s := by
  unfold stackControllerFailureOp
  exact if_pos h

/-- The failed controller of a stack that maps nothing, on a die with another stack in service, retires that stack alone. -/
theorem stackControllerFailureOp_retires {n x : Nat} {s : State} (hn : n < s.variant.hbmStacks) (hlive : (s.stack n).retired = false)
    (htmap : s.mem.tmap = []) (hnodes : s.stw.nodes = []) (hx : x < s.variant.perDie) (hother : x + s.variant.perDie * s.stackDie n ≠ n)
    (hserves : (s.stack (x + s.variant.perDie * s.stackDie n)).retired = false) (hdies : State.fittedDies.all s.dieFenced = false)
    (hiods : s.aos.iodFenced = []) :
    (stackControllerFailureOp n s).mem = (s.onStack n StackSt.retire).mem := by
  unfold stackControllerFailureOp
  rw [if_neg (by simp [hlive, hn])]
  have hlogged := State.errClass_keeps s 3 2 n 0 0 0 (m_ := 0x8000) (by decide) (.refl _ s)
  generalize s.errClass _ _ _ _ _ _ = u at hlogged ⊢
  have hstack := State.stack_of_mem hlogged.mem
  have hdie : u.stackDie n = s.stackDie n := congrArg (fun v : Variant => n / v.perDie) hlogged.variant
  have hfenced : u.dieFenced = s.dieFenced := by
    unfold State.dieFenced
    rw [hlogged.dies]
  rw [← hlogged.variant, ← hdie] at hother hserves
  rw [← hstack] at hlive hserves
  rw [← hlogged.mem] at htmap
  rw [← hlogged.stw] at hnodes
  rw [← hlogged.variant] at hx
  rw [← hfenced] at hdies
  rw [← hlogged.aos] at hiods
  exact (State.retireStackDie_unmapped hlive htmap hnodes hx hother hserves hdies hiods).trans (State.onMem_mem_congr hlogged.mem _)

theorem dieToDiePortFailureOp_idle {die : Nat} (iod : Option Nat) {s : State} (h : 8 ≤ die ∨ (s.die die).fullFence = true) :
    dieToDiePortFailureOp die iod s = s := by
  unfold dieToDiePortFailureOp
  exact if_pos h

/-- Of the dies, the failure of a die-to-die port changes the fenced one alone, whatever I/O die goes with it. -/
theorem dieToDiePortFailureOp_dies {die : Nat} (iod : Option Nat) {s : State} (hdie : die < 8) (hopen : (s.die die).fullFence = false) :
    (dieToDiePortFailureOp die iod s).dies = s.dies.upd die DieSt.fence := by
  have hlogged := s.errClass_dies 3 0 die 0 0 0
  unfold dieToDiePortFailureOp
  rw [if_neg (by rw [not_or]; exact ⟨by omega, by simpa [State.die] using hopen⟩)]
  generalize s.errClass _ _ _ _ _ _ = u at hlogged ⊢
  have hfence := State.fullFence_dies (s := u) (k := die) (by unfold State.die; rw [hlogged]; exact hopen)
  rw [hlogged] at hfence
  cases iod with
  | none => exact hfence
  | some i =>
    refine Eq.trans (State.Keeps.dies (m := 0x6F8F4) ?_) hfence
    exact State.judgeFault_keeps _ (by decide) (State.judgeMod_keeps _ (by decide) (State.fenceIod_keeps _ i (by decide) (.refl _ _)))

/-- Settles O34: each command by the lemma of its case above, and each frame by the operation's frame law. -/
theorem memoryErrorsAndFences : Obligations.MemoryErrorsAndFences := by
  unfold Obligations.MemoryErrorsAndFences
  refine ⟨?read, ?corrected, ?retirement, ?channel, ?link, ?nvme, ?stack, ?die⟩
  case read =>
    intro frame unit glove system rr s
    refine ⟨_, rfl, (hbmUncorrectedReadOp_keeps frame unit glove system rr s (m_ := 0x6E8F0) (by decide) (.refl _ s)).only (by decide),
      hbmUncorrectedReadOp_absent unit glove system rr, ?_⟩
    rintro hmode rfl hnew hroom
    have hmem := hbmUncorrectedReadOp_lists glove system hmode hnew hroom
    generalize hbmUncorrectedReadOp _ _ _ _ _ _ = t at hmem ⊢
    have hframe := State.frame_of_mem hmem
    refine ⟨?_, ?_, fun f hf => ?_, (congrArg MemBlk.near hmem :)⟩
    · rw [State.stack_of_mem hmem]
      exact congrArg StackSt.poisonList (State.stack_onStack_same s (s.frame frame).stack fun x => { x with poisonList := x.poisonList ++ [(frame, unit)] })
    · exact (congrArg FrameSt.poison ((hframe frame).trans (State.frame_onFrame_same _ _ _)) :)
    · exact (hframe f).trans (State.frame_onFrame_other _ _ hf)
  case corrected =>
    intro part idx dev unit s
    refine ⟨_, rfl, (correctedErrorOp_keeps part idx dev unit s (m_ := 0x8044) (by decide) (.refl _ s)).only (by decide), ?_, ?_, ?_,
      correctedErrorOp_noPart idx dev unit⟩
    · rintro rfl hidx hlive
      rw [correctedErrorOp_stack dev unit hidx hlive]
      exact ⟨rfl, hlive⟩
    · rintro rfl hpresent hopen hthreshold
      have hchan := correctedErrorOp_channel dev unit hpresent hopen hthreshold
      exact ⟨(congrArg DdrSt.ceWin hchan :), (congrArg DdrSt.st hchan :)⟩
    · rintro rfl hpresent hopen hthreshold
      exact (congrArg DppSt.errWin (correctedErrorOp_port dev unit hpresent hopen hthreshold) :)
  case retirement =>
    intro frame s
    refine ⟨_, rfl, (frameRetirementOp_keeps frame s (m_ := 0x8040) (by decide) (.refl _ s)).only (by decide), frameRetirementOp_idle, ?_⟩
    intro b hwaits hmode hinto
    obtain ⟨u, hmem, hframes, hwait⟩ := State.retireFrame_moves hmode hinto
    rw [frameRetirementOp_waiting hwaits]
    generalize s.retireFrame frame = t at hmem ⊢
    have hframe := State.frame_of_mem hmem
    have hkept : t.mem.retireWait = u.mem.retireWait := (congrArg MemBlk.retireWait hmem :)
    rw [hframe, hframe, u.remapFrame_spare, u.remapFrame_frame (State.retireInto_ne hinto), hframes, hframes, hkept, hwait]
    exact ⟨rfl, rfl, rfl, rfl, rfl, by simp⟩
  case channel =>
    intro chan unit dev cause s
    exact ⟨_, rfl, (ddrUncorrectedErrorOp_keeps chan unit dev cause s (m_ := 0x6A864) (by decide) (.refl _ s)).only (by decide),
      ddrUncorrectedErrorOp_closed unit dev cause, ddrUncorrectedErrorOp_fences unit dev cause⟩
  case link =>
    intro port s
    refine ⟨_, rfl, (deepPortLinkDownOp_keeps port s (m_ := 0x6A864) (by decide) (.refl _ s)).only (by decide), deepPortLinkDownOp_closed, ?_⟩
    intro hpresent hopen hextents hrelocs hmoves
    have hport := deepPortLinkDownOp_fences hpresent hopen hextents hrelocs hmoves
    exact ⟨congrArg DppSt.st hport, congrArg DppSt.nvmeReady hport⟩
  case nvme =>
    intro port ident ok s
    refine ⟨_, rfl, (nvmeCommandCompleteOp_keeps port ident ok s (m_ := 0x6A8E4) (by decide) (.refl _ s)).only (by decide),
      nvmeCommandCompleteOp_closed ident ok, ?_⟩
    rintro hpresent hopen rfl
    rw [nvmeCommandCompleteOp_ok ident hpresent hopen]
    exact ⟨State.reg_count_same s _ 1, (State.count_keeps s _ 1 (m_ := 0x8000) (by decide) (.refl _ s)).only (by decide),
      fun a ha => State.reg_count_other _ _ ha⟩
  case stack =>
    intro n s
    refine ⟨_, rfl, (stackControllerFailureOp_keeps n s (m_ := 0x6F8FC) (by decide) (.refl _ s)).only (by decide), stackControllerFailureOp_idle, ?_⟩
    intro x hn hlive htmap hnodes hx hother hserves hdies hiods
    have hmem := stackControllerFailureOp_retires hn hlive htmap hnodes hx hother hserves hdies hiods
    simp only [State.stack_of_mem hmem, State.stack_onStack_same]
    exact ⟨rfl, rfl, rfl, fun k hk => State.stack_onStack_other _ _ hk⟩
  case die =>
    intro die iod s
    refine ⟨_, rfl, (dieToDiePortFailureOp_keeps die iod s (m_ := 0x6F8FC) (by decide) (.refl _ s)).only (by decide), dieToDiePortFailureOp_idle iod, ?_⟩
    intro hdie hopen
    have hdies : ∀ k, (dieToDiePortFailureOp die iod s).die k = _ := fun k => congrArg (SMap.at · k) (dieToDiePortFailureOp_dies iod hdie hopen)
    have hfenced : (dieToDiePortFailureOp die iod s).die die = (s.die die).fence := (hdies die).trans (SMap.at_upd_same _ _ _)
    exact ⟨(congrArg DieSt.fullFence hfenced :), (congrArg DieSt.held hfenced :), (congrArg DieSt.stepping hfenced :),
      fun k hk => (hdies k).trans (SMap.at_upd_other _ _ hk)⟩

end Sys2Proof.Machine

/-! SUPPORT. Time-to-live, seals, moves and resumes of paused caches, and extents whose time is up (R318, R364, R406 to R411): what each command does in
the cases in which it acts, and O38. -/

namespace Sys2Proof.Machine

-- The threads of the whole text share one memory limit: these proofs take none of their own.
set_option Elab.async false

open Adr

namespace State

@[simp] theorem seqEnt_onSeqEnt_same (s : State) (i : Nat) (f : SeqEnt → SeqEnt) : (s.onSeqEnt i f).seqEnt i = f (s.seqEnt i) := SMap.at_upd_same _ _ _

theorem SameEngine.extFreed {s t : State} (h : s.SameEngine t) : t.mem.extFreed = s.mem.extFreed :=
  (congrArg MemBlk.extFreed (show t.mem.engine = s.mem.engine from h) :)

/-! Extents that are freed (R299, R301, R411). -/

/-- A freed slot keeps its incarnation alone, and joins the freed slots. -/
theorem freeExtent_frees {s : State} {slot : Nat} (hheld : (s.extent slot).st ≠ .free) :
    (s.freeExtent slot).extent slot = { (default : ExtentSt) with inc := (s.extent slot).inc } ∧ slot ∈ (s.freeExtent slot).mem.extFreed := by
  unfold freeExtent
  rw [if_neg hheld]
  dsimp only
  refine ⟨?_, ?_⟩
  · rw [extent_of_mem (count_mem _ _ _), (endDrains_sameEngine _).extent]
    exact extent_onExtent_same s slot fun e => { (default : ExtentSt) with inc := e.inc }
  · rw [count_mem, (endDrains_sameEngine _).extFreed]
    exact List.mem_append_right _ (List.mem_singleton_self slot)

theorem releaseExtent_inUse {s : State} {slot : Nat} (h : (s.extent slot).st = .writing ∨ (s.extent slot).st = .moving ∨ (s.extent slot).copies > 0) :
    s.releaseExtent slot = s.onExtent slot fun e => { e with dying := true } := if_pos h

theorem releaseExtent_unused {s : State} {slot : Nat}
    (h : ¬((s.extent slot).st = .writing ∨ (s.extent slot).st = .moving ∨ (s.extent slot).copies > 0)) :
    s.releaseExtent slot = s.freeExtent slot := if_neg h

/-! The first event due of a sequence's time-to-live (R406, R407). -/

/-- With no copy under way and none waiting, the cache of a sequence in the near tier goes down to the first tier that its times name. -/
theorem expireSeq_near {s : State} {i : Nat} (hst : (s.seqEnt i).st = .complete ∨ (s.seqEnt i).st = .pausedNear) (hjob : (s.seqEnt i).job = none)
    (hretry : (s.seqEnt i).retry = none) :
    s.expireSeq i = if (s.seqEnt i).ttlw ≠ 0 then s.sealDown i .pausedWide false
      else if (s.seqEnt i).ttld ≠ 0 then s.sealDown i .pausedDeep false else s.endSeq i .expired stOK := by
  unfold expireSeq
  dsimp only
  rw [if_pos hst, if_neg (by simp [hjob, hretry])]

theorem expireSeq_wide {s : State} {i : Nat} (hst : (s.seqEnt i).st = .pausedWide) (httld : (s.seqEnt i).ttld ≠ 0) (hjob : (s.seqEnt i).job = none) :
    s.expireSeq i = s.moveDown i := by
  unfold expireSeq
  dsimp only
  rw [if_neg (by simp [hst]), if_pos ⟨hst, httld⟩, if_neg (by simp [hjob])]

theorem expireSeq_deep {s : State} {i : Nat} (hst : (s.seqEnt i).st = .pausedDeep) : s.expireSeq i = s.endSeq i .expired stOK := by
  unfold expireSeq
  dsimp only
  rw [if_neg (by simp [hst]), if_neg (by simp [hst]), if_pos (.inr hst)]

/-! Seals and resumes (R408 to R410). -/

theorem refnode_freeCache (s : State) (i : Nat) : ((s.freeCache i).seqEnt i).refnode = 0 := by
  unfold freeCache
  rw [seqEnt_onSeqEnt_same]

theorem sealAllIn_none {s : State} {i : Nat} (hjob : (s.seqEnt i).job = none) : s.sealAllIn i = s := by
  unfold sealAllIn
  rw [hjob]

/-- A seal all of whose pieces are in frees the cache and is over. -/
theorem sealAllIn_ends {s : State} {i : Nat} {j : SeqJob} (hjob : (s.seqEnt i).job = some j) (hkind : j.kind = 0) (hleft : j.left = [])
    (haccepted : j.toAccept = 0) : s.sealAllIn i = ((s.freeCache i).onSeqEnt i fun e => { e with job := none }).count resCntDown := by
  unfold sealAllIn
  rw [hjob]
  exact if_pos ⟨hkind, hleft, haccepted⟩

theorem retryJob_waits {s : State} {i : Nat} (h : s.tick.tick < (s.seqEnt i).retryAt ∨ (s.seqEnt i).retry = none ∨ (s.seqEnt i).job ≠ none ∨
    (s.seqEnt i).resuming = true ∨ s.seqEnded i = true) : s.retryJob i = s := by
  unfold retryJob
  dsimp only
  split
  · rfl
  · rename_i hgoes
    simp only [not_or, ← Option.ne_none_iff_isSome] at hgoes
    obtain ⟨htime, hjob, hresuming, hended⟩ := hgoes
    have hretry : (s.seqEnt i).retry = none := by
      rcases h with h | h | h | h | h
      · exact absurd h htime
      · exact h
      · exact absurd h hjob
      · exact absurd h hresuming
      · exact absurd h hended
    rw [hretry]

/-- A seal or move whose time has come is tried again: a move of what the wide tier holds, else a seal toward the tier that waits. -/
theorem retryJob_tries {s : State} {i : Nat} {d : QState} (htime : (s.seqEnt i).retryAt ≤ s.tick.tick) (hretry : (s.seqEnt i).retry = some d)
    (hjob : (s.seqEnt i).job = none) (hresuming : (s.seqEnt i).resuming = false) (hended : s.seqEnded i = false) :
    s.retryJob i = if (s.seqEnt i).st = .pausedWide ∧ d = .pausedDeep ∧ (s.seqEnt i).handles ≠ [] then s.moveDown i
      else s.sealDown i d (s.seqEnt i).retryAuto := by
  unfold retryJob
  dsimp only
  rw [if_neg (by simp [hjob, hresuming, hended, htime]), hretry]

/-- A resume for which too few pages are free waits for the next tick. -/
theorem resumeTake_waits {s : State} {i : Nat} (h : s.takePages i (s.seqEnt i).clen = none) :
    s.resumeTake i = s.onSeqEnt i fun e => { e with retry := some (s.seqEnt i).rfrom, retryAt := s.tick.tick + 1 } := by
  unfold resumeTake
  dsimp only
  rw [h]

/-- A resume all of whose copies are in frees the extents, and the sequence returns. -/
theorem resumeAllIn_returns {s : State} {i : Nat} {j : SeqJob} (hjob : (s.seqEnt i).job = some j) (hkind : j.kind = 2) (hleft : j.left = []) :
    s.resumeAllIn i = ((s.freeExtents i).onSeqEnt i fun e => { e with job := none }).returnSeq i := by
  unfold resumeAllIn
  rw [hjob]
  exact if_pos ⟨hkind, hleft⟩

end State

/-! The commands. -/

theorem autoResumeOp_idle {i : Nat} {s : State} (h : (s.seqEnt i).st ≠ .pausedWide ∨ (s.seqEnt i).auto = false ∨ (s.seqEnt i).resuming = true) :
    autoResumeOp i s = s := by
  unfold autoResumeOp
  refine if_neg ?_
  rintro ⟨hst, hauto, hresuming, -⟩
  rcases h with h | h | h
  · exact h hst
  · exact Bool.false_ne_true (h.symm.trans hauto)
  · exact Bool.false_ne_true (hresuming.symm.trans h)

theorem autoResumeOp_resumes {i : Nat} {s : State} (hst : (s.seqEnt i).st = .pausedWide) (hauto : (s.seqEnt i).auto = true)
    (hresuming : (s.seqEnt i).resuming = false) (hjob : (s.seqEnt i).job = none) (hretry : (s.seqEnt i).retry = none)
    (hpages : (s.missingPages i (s.seqEnt i).clen).length ≤ (s.freePages (s.seqEnt i).glove).length) : autoResumeOp i s = s.resumeSeq i := by
  unfold autoResumeOp
  exact if_pos ⟨hst, hauto, hresuming, by simp [hjob], by simp [hretry], hpages⟩

theorem ttlExpiryOp_turn {i : Nat} {s : State} (h : s.turn (.ttl i) = true) :
    ttlExpiryOp i s = (s.onSeqEnt i fun e => { e with expiry := 0 }).expireSeq i := by
  unfold ttlExpiryOp
  exact if_neg (by simp [h])

/-- The extent whose time is up is marked while it is in use, else freed. -/
theorem extentTtlExpiryOp_turn {slot : Nat} {s : State} (hturn : s.turn (.ttlExtent slot) = true) (hheld : (s.extent slot).st ≠ .free) :
    if (s.extent slot).st = .writing ∨ (s.extent slot).st = .moving ∨ (s.extent slot).copies > 0 then
      (extentTtlExpiryOp slot s).extent slot = { s.extent slot with expiry := none, dying := true }
    else (extentTtlExpiryOp slot s).extent slot = { (default : ExtentSt) with inc := (s.extent slot).inc } ∧
      slot ∈ (extentTtlExpiryOp slot s).mem.extFreed := by
  have hop : extentTtlExpiryOp slot s = (s.onExtent slot fun e => { e with expiry := none }).releaseExtent slot := if_neg (by simp [hturn])
  have hfired := State.extent_onExtent_same s slot fun e => { e with expiry := none }
  rw [hop]
  generalize s.onExtent slot _ = u at hfired ⊢
  have hst : (u.extent slot).st = (s.extent slot).st := (congrArg ExtentSt.st hfired :)
  have hcopies : (u.extent slot).copies = (s.extent slot).copies := (congrArg ExtentSt.copies hfired :)
  have hinc : (u.extent slot).inc = (s.extent slot).inc := (congrArg ExtentSt.inc hfired :)
  rw [← hst] at hheld
  rw [← hst, ← hcopies, ← hinc]
  split
  · rename_i huse
    rw [State.releaseExtent_inUse huse, State.extent_onExtent_same, hfired]
  · rename_i huse
    rw [State.releaseExtent_unused huse]
    exact State.freeExtent_frees hheld

theorem cacheSealCompleteOp_live {i : Nat} {s : State} (h : s.seqEnded i = false) : cacheSealCompleteOp i s = s.sealAllIn i := by
  unfold cacheSealCompleteOp
  exact if_neg (by simp [h])

theorem cacheSealCompleteOp_idle {i : Nat} {s : State} (h : s.seqEnded i = true ∨ (s.seqEnt i).job = none) : cacheSealCompleteOp i s = s := by
  unfold cacheSealCompleteOp
  split
  · rfl
  · rename_i hlive
    exact State.sealAllIn_none (h.resolve_left hlive)

theorem resumePageRetryOp_waits {i : Nat} {s : State} (h : s.tick.tick < (s.seqEnt i).retryAt ∨ (s.seqEnt i).resuming = false ∨
    (s.seqEnt i).job ≠ none ∨ (s.seqEnt i).retry = none) : resumePageRetryOp i s = s := by
  unfold resumePageRetryOp
  refine if_neg ?_
  rintro ⟨hresuming, hjob, hretry, htime⟩
  rcases h with h | h | h | h
  · omega
  · exact Bool.false_ne_true (h.symm.trans hresuming)
  · exact h (Option.isNone_iff_eq_none.mp hjob)
  · rw [h] at hretry
    cases hretry

theorem resumePageRetryOp_tries {i : Nat} {s : State} (htime : (s.seqEnt i).retryAt ≤ s.tick.tick) (hresuming : (s.seqEnt i).resuming = true)
    (hjob : (s.seqEnt i).job = none) (hretry : (s.seqEnt i).retry ≠ none) : resumePageRetryOp i s = s.resumeTake i := by
  unfold resumePageRetryOp
  exact if_pos ⟨hresuming, by simp [hjob], Option.isSome_iff_ne_none.mpr hretry, htime⟩

theorem resumeCopyCompleteOp_returns {i : Nat} {s : State} {j : SeqJob} (hended : s.seqEnded i = false) (hjob : (s.seqEnt i).job = some j)
    (hkind : j.kind = 2) (hleft : j.left = []) :
    resumeCopyCompleteOp i s = (((s.freeExtents i).onSeqEnt i fun e => { e with job := none }).returnSeq i).buildStep (s.seqEnt i).glove := by
  unfold resumeCopyCompleteOp
  rw [if_neg (by simp [hended]), State.resumeAllIn_returns hjob hkind hleft]

/-- Settles O38: each command by the lemma of its case above, and each frame by the operation's frame law. -/
theorem sequenceExpiryAndPages : Obligations.SequenceExpiryAndPages := by
  unfold Obligations.SequenceExpiryAndPages
  refine ⟨?auto, ?ttl, ?extent, ?sealed, ?retry, ?pages, ?copies⟩
  case auto =>
    intro seq s
    exact ⟨_, rfl, (autoResumeOp_keeps seq s (m_ := 0x6A840) (by decide) (.refl _ s)).only (by decide), autoResumeOp_idle, autoResumeOp_resumes⟩
  case ttl =>
    intro seq s
    refine ⟨_, rfl, (ttlExpiryOp_keeps seq s (m_ := 0x6A840) (by decide) (.refl _ s)).only (by decide), fun h => if_pos h, ?_⟩
    rintro u hturn rfl
    have hent := State.seqEnt_onSeqEnt_same s seq fun e => { e with expiry := 0 }
    rw [ttlExpiryOp_turn hturn]
    generalize s.onSeqEnt seq _ = u at hent ⊢
    refine ⟨fun hst hjob hretry => ?_, fun hst httld hjob => State.expireSeq_wide ?_ ?_ ?_, fun hst => State.expireSeq_deep ?_⟩
    · have hnear : u.expireSeq seq = _ := State.expireSeq_near (by rwa [hent]) (by rwa [hent]) (by rwa [hent])
      rw [hnear, hent]
    all_goals rwa [hent]
  case extent =>
    intro slot s
    exact ⟨_, rfl, (extentTtlExpiryOp_keeps slot s (m_ := 0x8040) (by decide) (.refl _ s)).only (by decide), fun h => if_pos h, extentTtlExpiryOp_turn⟩
  case sealed =>
    intro seq s
    refine ⟨_, rfl, (cacheSealCompleteOp_keeps seq s (m_ := 0x8840) (by decide) (.refl _ s)).only (by decide), cacheSealCompleteOp_idle, ?_⟩
    intro j hended hjob hkind hleft haccepted
    have hends := (cacheSealCompleteOp_live hended).trans (State.sealAllIn_ends hjob hkind hleft haccepted)
    have hent : (cacheSealCompleteOp seq s).seqEnt seq = { (s.freeCache seq).seqEnt seq with job := none } := by
      rw [hends]
      exact State.seqEnt_onSeqEnt_same (s.freeCache seq) seq fun e => { e with job := none }
    rw [hent]
    exact ⟨hends, rfl, s.refnode_freeCache seq⟩
  case retry =>
    intro seq s
    exact ⟨_, rfl, (sealRetryOp_keeps seq s (m_ := 0x48840) (by decide) (.refl _ s)).only (by decide), State.retryJob_waits,
      fun _ => State.retryJob_tries⟩
  case pages =>
    intro seq s
    refine ⟨_, rfl, (resumePageRetryOp_keeps seq s (m_ := 0x8840) (by decide) (.refl _ s)).only (by decide), resumePageRetryOp_waits, ?_⟩
    intro htime hresuming hjob hretry
    have htries := resumePageRetryOp_tries htime hresuming hjob hretry
    refine ⟨fun hnone => ?_, htries⟩
    rw [htries, State.resumeTake_waits hnone, State.seqEnt_onSeqEnt_same]
  case copies =>
    intro seq s
    exact ⟨_, rfl, (resumeCopyCompleteOp_keeps seq s (m_ := 0x6A8E0) (by decide) (.refl _ s)).only (by decide), fun h => if_pos h,
      fun _ => resumeCopyCompleteOp_returns⟩

end Sys2Proof.Machine

/-! SUPPORT. The expert exchange (R327 to R352): what writes into staging ranges, failures, rounds, records and the close of a round do to a plan,
and O36. -/

namespace Sys2Proof.Machine

-- The threads of the whole text share one memory limit: these proofs take none of their own.
set_option Elab.async false

open Adr

namespace State

theorem plan_of_stw {s t : State} (h : t.stw = s.stw) (p : Nat) : t.plan p = s.plan p := congrArg (·.plans.at p) h

/-! Writes into staging ranges (R327, R345). -/

/-- From `s` to `t` every plan keeps all but the records entered in its staging range. -/
def OnlyStages (s t : State) : Prop := ∀ p, ∃ m b, t.plan p = { s.plan p with entered := m, badDest := b }

namespace OnlyStages

variable {s t u : State}

theorem of_stw (h : t.stw = s.stw) : s.OnlyStages t := fun p => ⟨_, _, plan_of_stw h p⟩

theorem trans (h : s.OnlyStages t) (h' : t.OnlyStages u) : s.OnlyStages u := by
  intro p
  obtain ⟨m, b, ht⟩ := h p
  obtain ⟨m', b', hu⟩ := h' p
  exact ⟨m', b', by rw [hu, ht]⟩

theorem foldl {α : Type} {f : State → α → State} (l : List α) (hstep : ∀ (u : State) (a : α), u.OnlyStages (f u a)) : s.OnlyStages (l.foldl f s) :=
  List.foldlRecOn (motive := fun u => s.OnlyStages u) l f (of_stw rfl) fun u hu a _ => hu.trans (hstep u a)

end OnlyStages

/-- The plan with record `n` entered under the DEST of header `h`, and under no other. -/
def enterHeader (n : Nat) (h : Word) (x : PlanSt) : PlanSt :=
  { x with entered := x.entered.put n (h.field 0 12 + 1)
           badDest := x.badDest || (h.field 0 12 != 0xFFF && h.field 0 12 ≥ x.dests.length) }

/-- A header that is not null changes its plan alone. -/
theorem stageHeader_counted {s : State} {p n : Nat} {header : Word} (h : (s.stageHeader p n header).2.field 0 12 ≠ 0xFFF) :
    (s.stageHeader p n header).1 = s.onPlan p (enterHeader n (s.stageHeader p n header).2) := if_neg h

/-- A null header is counted as well. -/
theorem stageHeader_null {s : State} {p n : Nat} {header : Word} (h : (s.stageHeader p n header).2.field 0 12 = 0xFFF) :
    (s.stageHeader p n header).1 = (s.onPlan p (enterHeader n (s.stageHeader p n header).2)).count xchCntNull := if_pos h

theorem stageHeader_stw (s : State) (p n : Nat) (header : Word) :
    (s.stageHeader p n header).1.stw = (s.onPlan p (enterHeader n (s.stageHeader p n header).2)).stw := by
  by_cases h : (s.stageHeader p n header).2.field 0 12 = 0xFFF
  · rw [stageHeader_null h, count_stw]
  · rw [stageHeader_counted h]

/-- A record's header enters the record of its plan. -/
theorem plan_stageHeader (s : State) (p n : Nat) (header : Word) :
    (s.stageHeader p n header).1.plan p = enterHeader n (s.stageHeader p n header).2 (s.plan p) :=
  (plan_of_stw (s.stageHeader_stw p n header) p).trans (plan_onPlan_same s p _)

theorem plan_stageHeader_other (s : State) {p r : Nat} (n : Nat) (header : Word) (h : r ≠ p) :
    (s.stageHeader p n header).1.plan r = s.plan r :=
  (plan_of_stw (s.stageHeader_stw p n header) r).trans (plan_onPlan_other s _ h)

theorem stageHeader_onlyStages (s : State) (p n : Nat) (header : Word) : s.OnlyStages (s.stageHeader p n header).1 := by
  intro r
  by_cases h : r = p
  · subst h
    exact ⟨_, _, s.plan_stageHeader r n header⟩
  · exact ⟨_, _, s.plan_stageHeader_other n header h⟩

theorem putUnit_onlyStages (s : State) (f u : Nat) (d : List Byte) (whole : Bool) : s.OnlyStages (s.putUnit f u d whole) :=
  .of_stw (putUnit_keeps s f u d whole (m_ := 0x40) (by decide) (.refl _ s)).stw

theorem putStaged_onlyStages (s : State) (f u : Nat) (d : List Byte) (whole : Bool) : s.OnlyStages (s.putStaged f u d whole) := by
  unfold putStaged
  split
  · exact s.putUnit_onlyStages f u d whole
  · exact (s.stageHeader_onlyStages _ _ _).trans (putUnit_onlyStages _ f u _ whole)

theorem writeBits_onlyStages (s : State) (f u : Nat) (p : Nat × Nat) : s.OnlyStages (s.writeBits f u p) := by
  unfold writeBits
  split
  · exact s.putStaged_onlyStages f u _ true
  · exact (s.putStaged_onlyStages f u _ false).trans (.of_stw (count_stw _ _ _))

theorem holdBits_onlyStages (s : State) (f u : Nat) (p : Nat × Nat) (drain : Bool) : s.OnlyStages (s.holdBits f u p drain) :=
  .of_stw (holdBits_keeps s f u p drain (m_ := 0x8040) (by decide) (.refl _ s)).stw

theorem nearWrite_onlyStages (s : State) (f u : Nat) (p : Nat × Nat) : s.OnlyStages (s.nearWrite f u p).1 := by
  unfold nearWrite
  split_ifs
  · exact s.holdBits_onlyStages f u p false
  · exact .of_stw rfl
  · exact s.writeBits_onlyStages f u p

theorem stewardWrite_onlyStages (s : State) (ta : Nat) (d : List Byte) : s.OnlyStages (s.stewardWrite ta d) := by
  unfold stewardWrite
  split
  · exact .foldl _ fun u i => u.nearWrite_onlyStages _ _ _
  · exact .of_stw rfl

/-! Failures that a participant holds (R340, R352). -/

/-- From `s` to `t` plan `p` keeps all but its failure, and holds one where it held one. -/
def OnlyFails (s t : State) (p : Nat) : Prop := ∃ f, t.plan p = { s.plan p with fail := f } ∧ ((s.plan p).fail ≠ none → f ≠ none)

namespace OnlyFails

variable {s t u : State} {p : Nat}

theorem of_stw (h : t.stw = s.stw) : s.OnlyFails t p := ⟨_, plan_of_stw h p, id⟩

theorem trans (h : s.OnlyFails t p) (h' : t.OnlyFails u p) : s.OnlyFails u p := by
  obtain ⟨f, ht, hf⟩ := h
  obtain ⟨f', hu, hf'⟩ := h'
  rw [ht] at hu hf'
  exact ⟨f', hu, hf' ∘ hf⟩

theorem foldl {α : Type} {f : State → α → State} (l : List α) (hstep : ∀ (u : State) (a : α), u.OnlyFails (f u a) p) : s.OnlyFails (l.foldl f s) p :=
  List.foldlRecOn (motive := fun u => s.OnlyFails u p) l f (of_stw rfl) fun u hu a _ => hu.trans (hstep u a)

theorem ite {c : Prop} [Decidable c] (h : s.OnlyFails t p) (h' : s.OnlyFails u p) : s.OnlyFails (if c then t else u) p := by
  split
  · exact h
  · exact h'

theorem fail_ne_none (h : s.OnlyFails t p) (hfail : (s.plan p).fail ≠ none) : (t.plan p).fail ≠ none := by
  obtain ⟨f, ht, hf⟩ := h
  rw [ht]
  exact hf hfail

end OnlyFails

theorem xFail_onlyFails (s : State) (p code part : Nat) : s.OnlyFails (s.xFail p code part) p := by
  refine ⟨_, plan_onPlan_same s p _, fun _ => ?_⟩
  split
  · exact Option.some_ne_none _
  · split
    · exact Option.some_ne_none _
    · exact Option.some_ne_none _

/-- The first failure of a phase is the one held. -/
theorem fail_xFail_first {s : State} {p : Nat} (code part : Nat) (h : (s.plan p).fail = none) :
    ((s.xFail p code part).plan p).fail = some (code, part) := by
  unfold xFail
  rw [plan_onPlan_same, h]

/-! The end of a phase (R327, R340, R348, R351). -/

theorem exchEnds_stw (s : State) (p st : Nat) : (s.exchEnds p st).stw = s.stw := (exchEnds_keeps s p st (m_ := 0x20) (by decide) (.refl _ s)).stw

theorem exchEnds_regs (s : State) (p st : Nat) : (s.exchEnds p st).regs = s.regs := (exchEnds_keeps s p st (m_ := 0x20) (by decide) (.refl _ s)).regs

/-- A plan whose phase is over is idle, in round 0 and without a failure. -/
def PhaseOver (x : PlanSt) : Prop := x.stage = .idle ∧ x.round = 0 ∧ x.fail = none

theorem clearPhase_over (s : State) (p st : Nat) : PhaseOver (((s.clearPhase p).exchEnds p st).plan p) := by
  rw [plan_of_stw (exchEnds_stw _ p st)]
  unfold clearPhase
  rw [plan_onPlan_same]
  exact ⟨rfl, rfl, rfl⟩

theorem phaseFails_over (s : State) (p code part : Nat) : PhaseOver ((s.phaseFails p code part).plan p) := clearPhase_over _ p code

theorem flag_of_reg {s t : State} {e : Nat} (h : t.reg e = s.reg e) (b : Nat) : t.flag e b = s.flag e b := congrArg (·.bit b) h

/-- A phase that fails leaves the abort flag set. -/
theorem flag_phaseFails (s : State) (p code part : Nat) : (s.phaseFails p code part).flag xchEvt 0 = true := by
  unfold phaseFails
  dsimp only
  set u := (if s.flag xchEvt 0 then s else s.setReg xchAlog _).raise xchEvt 0 with hu
  have hregs : ∀ v : State, (((v.scrambleRecv p).clearPhase p).exchEnds p code).regs = v.regs := fun v =>
    (exchEnds_regs _ p code).trans (scrambleRecv_keeps v p (m_ := 0x40050) (by decide) (.refl _ v)).regs
  rw [flag_of_reg ((reg_of_regs (hregs _) xchEvt).trans (reg_setReg_other u _ (by decide))), hu]
  exact flag_raise _ _ _ _ (by decide)

/-- A phase that fails is idle, and the abort flag is set. -/
theorem phaseFails_ends (s : State) (p code part : Nat) :
    ((s.phaseFails p code part).plan p).stage = .idle ∧ (s.phaseFails p code part).flag xchEvt 0 = true :=
  ⟨(s.phaseFails_over p code part).1, s.flag_phaseFails p code part⟩

/-! Rounds as they open (R335, R336, R338, R441). -/

theorem plan_openRound (s : State) (p : Nat) :
    (s.openRound p).plan p = { s.plan p with stage := .count, accepted := (s.plan p).dests.map fun _ => 0, arrived := 0 } := plan_onPlan_same _ p _

theorem bal_openRound (s : State) (p : Nat) :
    ((s.openRound p).glove (s.plan p).glove).bal = (s.glove (s.plan p).glove).bal - (s.plan p).eround :=
  (congrArg GloveSt.bal (glove_onGlv_same s (s.plan p).glove fun v => { v with bal := v.bal - (s.plan p).eround }) :)

theorem plan_scatter (s : State) (p : Nat) : ∃ r m b, (s.scatter p).plan p = { s.plan p with send := r, entered := m, badDest := b } := by
  unfold scatter
  dsimp only
  obtain ⟨m, b, h⟩ := stewardWrite_onlyStages (s.onPlan p _) _ _ p
  exact ⟨_, m, b, by rw [h, plan_onPlan_same]⟩

/-- Round 0 open, its staging range sorted by destination and its headers judged (R327, R336). -/
def openPhase (s : State) (p : Nat) : State :=
  if (s.plan p).badDest then ((s.openRound p).scatter p).xFail p 0x23 (s.plan p).self else (s.openRound p).scatter p

theorem openPhase_tick (s : State) (p : Nat) : (s.openPhase p).tick = s.tick := by
  have hscatter : ((s.openRound p).scatter p).tick = s.tick :=
    (scatter_keeps _ p (m_ := 0x88C0) (by decide) (openRound_keeps s p (by decide) (.refl _ s))).tick
  unfold openPhase
  split
  · exact hscatter
  · exact hscatter

theorem plan_openPhase (s : State) (p : Nat) : ∃ r m b f, (s.openPhase p).plan p =
    { s.plan p with stage := .count, accepted := (s.plan p).dests.map fun _ => 0, arrived := 0, send := r, entered := m, badDest := b, fail := f } := by
  obtain ⟨r, m, b, hscatter⟩ := (s.openRound p).plan_scatter p
  have hfails : ((s.openRound p).scatter p).OnlyFails (s.openPhase p) p := .ite (xFail_onlyFails _ p _ _) (.of_stw rfl)
  obtain ⟨f, hf, -⟩ := hfails
  exact ⟨r, m, b, f, by rw [hf, hscatter, plan_openRound]⟩

theorem foldl_emit_stw {α : Type} (s : State) (l : List α) (o : α → Output) : (l.foldl (fun t a => t.emit (o a)) s).stw = s.stw :=
  List.foldlRecOn (motive := fun t : State => t.stw = s.stw) l _ rfl fun _ ht _ _ => ht

theorem foldl_emit_regs {α : Type} (s : State) (l : List α) (o : α → Output) : (l.foldl (fun t a => t.emit (o a)) s).regs = s.regs :=
  List.foldlRecOn (motive := fun t : State => t.regs = s.regs) l _ rfl fun _ ht _ _ => ht

/-! Slots whose links serve (R347). -/

/-- Every link that the slots of plan `p` use serves. -/
def SlotsServe (s : State) (p : Nat) (bad : List Nat) : Prop :=
  ∀ e ∈ (s.plan p).slots, e.link ∉ bad ∧ (s.net.links.at e.link).st = .up2 ∧
    (e.kind = 2 → e.outlink ∉ bad ∧ (s.net.links.at e.outlink).st = .up2)

/-- No link of the slots is among those that fail. -/
theorem SlotsServe.none_bad {s : State} {p : Nat} {bad : List Nat} (h : s.SlotsServe p bad) :
    (((s.plan p).slots.map (·.link)) ++ (((s.plan p).slots.filter fun e => e.kind == 2).map (·.outlink))).filter
      (fun l => bad.contains l || (s.net.links.at l).st != .up2) = [] := by
  rw [List.filter_eq_nil_iff]
  intro l hl
  rcases List.mem_append.mp hl with hl | hl
  · obtain ⟨e, he, rfl⟩ := List.mem_map.mp hl
    obtain ⟨hbad, hup, -⟩ := h e he
    simp [hbad, hup]
  · obtain ⟨e, he, rfl⟩ := List.mem_map.mp hl
    obtain ⟨he, hkind⟩ := List.mem_filter.mp he
    obtain ⟨-, -, hout⟩ := h e he
    obtain ⟨hbad, hup⟩ := hout (beq_iff_eq.mp hkind)
    simp [hbad, hup]

/-! Records that arrive (R337, R343, R346). -/

theorem remote_stw (s : State) (g r ofs win glove : Nat) (d : List Byte) (upset : Bool) : (s.remote g r ofs win glove d upset).1.stw = s.stw :=
  (remote_keeps s g r ofs win glove d upset (m_ := 0x28030) (by decide) (.refl _ s)).stw

/-- A fold that carries the state first in a pair, none of whose steps changes a plan. -/
theorem foldl_fst_stw {α β : Type} {f : State × β → α → State × β} (l : List α) (a : State × β) (hstep : ∀ b x, (f b x).1.stw = b.1.stw) :
    (l.foldl f a).1.stw = a.1.stw :=
  List.foldlRecOn (motive := fun b : State × β => b.1.stw = a.1.stw) l f rfl fun b hb x _ => (hstep b x).trans hb

theorem receive_ignored {s : State} {p : Nat} {rec : List Byte}
    (h : (s.plan p).valid = false ∨ ((s.plan p).stage ≠ .count ∧ (s.plan p).stage ≠ .data)) : s.receive p rec = s := by
  unfold receive
  exact if_pos (h.imp_right .inl)

/-- The header of a record. -/
def recHeader (rec : List Byte) : Word := BitVec.ofNat 64 (leAt rec 0 8)

/-- A record that plan `p` takes: its phase runs, and its destination is of this participant and has room. -/
structure Takes (s : State) (p : Nat) (rec : List Byte) : Prop where
  valid : (s.plan p).valid = true
  runs : (s.plan p).stage = .count ∨ (s.plan p).stage = .data
  dest : (recHeader rec).field 0 12 < (s.plan p).dests.length
  own : ((s.plan p).dests.getD ((recHeader rec).field 0 12) default).part = (s.plan p).self
  room : (s.plan p).accepted.getD ((recHeader rec).field 0 12) 0 < ((s.plan p).dests.getD ((recHeader rec).field 0 12) default).wcap

/-- How many generations the one in force is past that of a record, modulo 2^16. -/
def recAge (s : State) (p : Nat) (rec : List Byte) : Nat :=
  (s.fld (xchGen (s.plan p).glove) 0 16 + 65536 - (recHeader rec).field 24 16) % 65536

/-- The arrival of a record, counted. -/
def countArrival (s : State) (p : Nat) : State := s.onPlan p fun x => { x with arrived := x.arrived + 1 }

/-- A record counted at its destination, as the one after the first `j`. -/
def acceptRec (s : State) (p : Nat) (rec : List Byte) (j : Nat) : State :=
  (s.onPlan p fun x => { x with accepted := x.accepted.set ((recHeader rec).field 0 12) (j + 1) }).count xchCntRec

namespace Takes

variable {s : State} {p : Nat} {rec : List Byte}

theorem not_ignored (h : s.Takes p rec) : ¬((s.plan p).valid = false ∨ ((s.plan p).stage ≠ .count ∧ (s.plan p).stage ≠ .data) ∨
    (recHeader rec).field 0 12 ≥ (s.plan p).dests.length ∨
    ((s.plan p).dests.getD ((recHeader rec).field 0 12) default).part ≠ (s.plan p).self ∨
    (s.plan p).accepted.getD ((recHeader rec).field 0 12) 0 ≥ ((s.plan p).dests.getD ((recHeader rec).field 0 12) default).wcap) := by
  rintro (hvalid | ⟨hcount, hdata⟩ | hdest | hown | hroom)
  · exact Bool.false_ne_true (hvalid.symm.trans h.valid)
  · exact h.runs.elim hcount hdata
  · exact absurd h.dest (Nat.not_lt.mpr hdest)
  · exact hown h.own
  · exact absurd h.room (Nat.not_lt.mpr hroom)

/-- A record of an older generation. -/
theorem stale (h : s.Takes p rec) (hchk : (s.plan p).genchk = true) (hage : 32768 ≤ s.recAge p rec) :
    s.receive p rec = (s.countArrival p).raise xchEvt 3 := by
  unfold receive
  exact (if_neg h.not_ignored).trans (if_pos ⟨hchk, hage⟩)

/-- A record of a newer generation. -/
theorem early (h : s.Takes p rec) (hchk : (s.plan p).genchk = true) (hnew : 0 < s.recAge p rec) (hage : s.recAge p rec < 32768) :
    s.receive p rec = (s.countArrival p).raise xchEvt 2 := by
  unfold receive
  exact (if_neg h.not_ignored).trans ((if_neg fun hold => Nat.not_le.mpr hage hold.2).trans (if_pos ⟨hchk, hnew.ne'⟩))

/-- A record of the generation in force: its rows are written, which changes no plan, then it is counted at its destination. -/
theorem accepted_writes (h : s.Takes p rec) (hage : (s.plan p).genchk = false ∨ s.recAge p rec = 0) :
    ∃ u : State × Bool, u.1.stw = (s.countArrival p).stw ∧ s.receive p rec =
      if u.2 then (u.1.acceptRec p rec ((s.plan p).accepted.getD ((recHeader rec).field 0 12) 0))
      else (u.1.acceptRec p rec ((s.plan p).accepted.getD ((recHeader rec).field 0 12) 0)).xFail p 0x24 (s.plan p).self := by
  have hnew : ¬((s.plan p).genchk = true ∧ s.recAge p rec ≠ 0) := fun ⟨hchk, hnew⟩ =>
    hage.elim (fun hage => Bool.false_ne_true (hage.symm.trans hchk)) hnew
  have hold : ¬((s.plan p).genchk = true ∧ s.recAge p rec ≥ 32768) := fun ⟨hchk, hold⟩ => hnew ⟨hchk, by omega⟩
  unfold receive
  dsimp only
  refine ⟨_, ?_, (if_neg h.not_ignored).trans ((if_neg hold).trans (if_neg hnew))⟩
  refine Eq.trans (foldl_fst_stw _ _ fun b c => ?_) (remote_stw ..)
  exact foldl_fst_stw _ _ fun b k => remote_stw ..

/-- A record of the generation in force takes the next position of its destination. -/
theorem plan_accepted (h : s.Takes p rec) (hage : (s.plan p).genchk = false ∨ s.recAge p rec = 0) :
    ∃ f, (s.receive p rec).plan p = { s.plan p with
      arrived := (s.plan p).arrived + 1
      accepted := (s.plan p).accepted.set ((recHeader rec).field 0 12) ((s.plan p).accepted.getD ((recHeader rec).field 0 12) 0 + 1)
      fail := f } := by
  obtain ⟨u, hstw, hrec⟩ := h.accepted_writes hage
  have hu := (plan_of_stw hstw p).trans (plan_onPlan_same s p _)
  set v := u.1.acceptRec p rec _
  have hplan : v.plan p = _ := plan_onPlan_same u.1 p _
  have hfails : v.OnlyFails (s.receive p rec) p := hrec ▸ .ite (.of_stw rfl) (xFail_onlyFails _ _ _ _)
  obtain ⟨f, hf, -⟩ := hfails
  exact ⟨f, by rw [hf, hplan, hu]⟩

end Takes

/-! The close of a round (R340, R344, R347, R348). -/

/-- The receive unit finishes the destinations of this participant, once the rounds are known. -/
def finishRound (s : State) (p : Nat) : State :=
  if (s.plan p).rounds = 0 then s
  else ((List.range (s.plan p).dests.length).filter fun d => ((s.plan p).dests.getD d default).part == (s.plan p).self).foldl
    (fun t d => t.finishDest p d) s

/-- What the status of participant `q` says of the round. -/
def hearStatus (p : Nat) (statuses : List (Nat × Nat)) (s : State) (q : Nat) : State :=
  match statuses.find? fun y => y.1 == q with
  | none => s.xFail p 0x21 q
  | some y => if y.2 = 0 then s else s.xFail p y.2 q

/-- A round without another failure fails on a participant that stopped sending. -/
def judgeSenders (s : State) (p : Nat) : State :=
  match (s.plan p).fail, stoppedSender (s.plan p) with
  | none, some q => s.xFail p 0x21 q
  | _, _ => s

/-- The round of a plan as its outcome is set: finished, its tick judged, the statuses sent and heard, its senders judged. -/
def judgeRound (s : State) (p : Nat) (statuses : List (Nat × Nat)) : State :=
  let u := s.finishRound p
  let v := if u.tickHeld = false then u.xFail p 0x11 (s.plan p).self else u
  let w := (others (s.plan p)).foldl (fun t _ => t.emit (.xStatus p (((v.plan p).fail.map (·.1)).getD 0))) v
  ((others (s.plan p)).foldl (hearStatus p statuses) w).judgeSenders p

/-- The outcome of a round of plan `p`, which stood as `x` as the round closed: the phase fails, or is over, or its next round waits. -/
def setOutcome (s : State) (p : Nat) (x : PlanSt) : State :=
  match (s.plan p).fail with
  | some f => s.phaseFails p f.1 f.2
  | none =>
    if x.round + 1 ≥ x.rounds then (((s.count xchCntPhase).setReg xchLast (xchLastWord x p)).clearPhase p).exchEnds p stOK
    else (s.onPlan p fun y => { y with stage := .pending, round := x.round + 1 }).exchEnds p 0x20

theorem finishDest_onlyFails (s : State) (p d : Nat) : s.OnlyFails (s.finishDest p d) p := by
  have hend : ∀ (t : State) (c : Bool), t.OnlyFails (if c then t else t.xFail p 0x24 (s.plan p).self) p := fun t c =>
    .ite (.of_stw rfl) (t.xFail_onlyFails p 0x24 _)
  unfold finishDest
  dsimp only
  refine (OnlyFails.of_stw ?_).trans (hend _ _)
  refine (remote_stw ..).trans (Eq.trans (foldl_fst_stw _ _ fun b i => ?_) (foldl_fst_stw _ _ fun b g => ?_))
  · exact remote_stw ..
  · exact foldl_fst_stw _ _ fun c r => remote_stw ..

theorem finishRound_onlyFails (s : State) (p : Nat) : s.OnlyFails (s.finishRound p) p :=
  .ite (.of_stw rfl) (.foldl _ fun t d => t.finishDest_onlyFails p d)

theorem hearStatus_onlyFails (s : State) (p : Nat) (statuses : List (Nat × Nat)) (q : Nat) : s.OnlyFails (hearStatus p statuses s q) p := by
  unfold hearStatus
  split
  · exact s.xFail_onlyFails p _ q
  · exact .ite (.of_stw rfl) (s.xFail_onlyFails p _ q)

theorem judgeSenders_onlyFails (s : State) (p : Nat) : s.OnlyFails (s.judgeSenders p) p := by
  unfold judgeSenders
  split
  · exact s.xFail_onlyFails p _ _
  · exact .of_stw rfl

theorem judgeRound_onlyFails (s : State) (p : Nat) (statuses : List (Nat × Nat)) : s.OnlyFails (s.judgeRound p statuses) p :=
  ((((s.finishRound_onlyFails p).trans (.ite (xFail_onlyFails _ p _ _) (.of_stw rfl))).trans (.of_stw (foldl_emit_stw _ _ _))).trans
    (.foldl _ fun t q => t.hearStatus_onlyFails p statuses q)).trans (judgeSenders_onlyFails _ p)

/-- A participant that owns no destination finishes none. -/
theorem finishRound_none {s : State} {p : Nat} (h : ∀ d ∈ (s.plan p).dests, d.part ≠ (s.plan p).self) : s.finishRound p = s := by
  unfold finishRound
  split
  · rfl
  · rw [List.filter_eq_nil_iff.mpr]
    · rfl
    · intro d hd
      have hd := List.mem_range.mp hd
      rw [List.getD_eq_getElem _ _ hd, beq_iff_eq]
      exact h _ (List.getElem_mem hd)

theorem hearStatus_ok {s : State} {p q : Nat} {statuses : List (Nat × Nat)} (h : statuses.find? (fun y => y.1 == q) = some (q, 0)) :
    hearStatus p statuses s q = s := by
  unfold hearStatus
  rw [h]
  rfl

theorem judgeSenders_ok {s : State} {p : Nat} (h : stoppedSender (s.plan p) = none) : s.judgeSenders p = s := by
  unfold judgeSenders
  rw [h]
  rcases (s.plan p).fail with _ | f
  · rfl
  · rfl

/-- Where nothing fails, a round that owns no destination leaves the plans and the registers until its outcome is set. -/
theorem judgeRound_ok {s : State} {p : Nat} {statuses : List (Nat × Nat)} (hheld : s.tickHeld = true) (hstop : stoppedSender (s.plan p) = none)
    (hdests : ∀ d ∈ (s.plan p).dests, d.part ≠ (s.plan p).self)
    (hstatuses : ∀ q < (s.plan p).npart, q ≠ (s.plan p).self → statuses.find? (fun y => y.1 == q) = some (q, 0)) :
    (s.judgeRound p statuses).stw = s.stw ∧ (s.judgeRound p statuses).regs = s.regs := by
  have hheard : ∀ t : State, (others (s.plan p)).foldl (hearStatus p statuses) t = t := fun t =>
    List.foldlRecOn (motive := fun u => u = t) _ _ rfl fun u hu q hq => by
      obtain ⟨hrange, hself⟩ := List.mem_filter.mp hq
      rw [hearStatus_ok (hstatuses q (List.mem_range.mp hrange) (of_decide_eq_true hself)), hu]
  unfold judgeRound
  dsimp only
  rw [finishRound_none hdests, if_neg (by simp [hheld]), hheard]
  have hstw := foldl_emit_stw s (others (s.plan p)) fun _ => .xStatus p (((s.plan p).fail.map (·.1)).getD 0)
  rw [judgeSenders_ok (by rwa [plan_of_stw hstw])]
  exact ⟨hstw, foldl_emit_regs s _ _⟩

theorem setOutcome_fails {s : State} {p : Nat} (x : PlanSt) {f : Nat × Nat} (h : (s.plan p).fail = some f) :
    s.setOutcome p x = s.phaseFails p f.1 f.2 := by
  unfold setOutcome
  rw [h]

/-- After the last round of a phase the phase is over. -/
theorem setOutcome_ends {s : State} {p : Nat} {x : PlanSt} (hfail : (s.plan p).fail = none) (hlast : x.rounds ≤ x.round + 1) :
    s.setOutcome p x = (((s.count xchCntPhase).setReg xchLast (xchLastWord x p)).clearPhase p).exchEnds p stOK := by
  unfold setOutcome
  rw [hfail]
  exact if_pos hlast

/-- A round before the last leaves the next one to its continuation. -/
theorem setOutcome_continues {s : State} {p : Nat} {x : PlanSt} (hfail : (s.plan p).fail = none) (hlast : ¬x.rounds ≤ x.round + 1) :
    s.setOutcome p x = (s.onPlan p fun y => { y with stage := .pending, round := x.round + 1 }).exchEnds p 0x20 := by
  unfold setOutcome
  rw [hfail]
  exact if_neg hlast

theorem plan_setOutcome_continues {s : State} {p : Nat} {x : PlanSt} (hfail : (s.plan p).fail = none) (hlast : ¬x.rounds ≤ x.round + 1) :
    (s.setOutcome p x).plan p = { s.plan p with stage := .pending, round := x.round + 1 } := by
  rw [setOutcome_continues hfail hlast, plan_of_stw (exchEnds_stw _ _ _), plan_onPlan_same]

/-- Whatever its outcome, a round that closes leaves its plan waiting for its next round, or over. -/
theorem setOutcome_waits_or_over (s : State) (p : Nat) (x : PlanSt) :
    ((s.setOutcome p x).plan p).stage = .pending ∧ ((s.setOutcome p x).plan p).round = x.round + 1 ∨ PhaseOver ((s.setOutcome p x).plan p) := by
  rcases hfail : (s.plan p).fail with _ | f
  · by_cases hlast : x.rounds ≤ x.round + 1
    · rw [setOutcome_ends hfail hlast]
      exact .inr (clearPhase_over _ p stOK)
    · rw [plan_setOutcome_continues hfail hlast]
      exact .inl ⟨rfl, rfl⟩
  · rw [setOutcome_fails x hfail]
    exact .inr (s.phaseFails_over p f.1 f.2)

/-- The end of a phase counts it. -/
theorem reg_setOutcome_ends {s : State} {p : Nat} {x : PlanSt} (hfail : (s.plan p).fail = none) (hlast : x.rounds ≤ x.round + 1) :
    (s.setOutcome p x).reg xchCntPhase = s.reg xchCntPhase + 1 := by
  have hregs : ∀ t : State, ((t.clearPhase p).exchEnds p stOK).regs = t.regs := fun t => exchEnds_regs _ p stOK
  rw [setOutcome_ends hfail hlast, reg_of_regs (hregs _), reg_setReg_other _ _ (by decide), reg_count_same]
  rfl

theorem reg_setOutcome_continues {s : State} {p : Nat} {x : PlanSt} (hfail : (s.plan p).fail = none) (hlast : ¬x.rounds ≤ x.round + 1) (a : Nat) :
    (s.setOutcome p x).reg a = s.reg a := by
  rw [setOutcome_continues hfail hlast]
  exact reg_of_regs (exchEnds_regs _ p 0x20) a

end State

/-! The commands. -/

theorem stagingRecordEntryOp_enters {plan rec : Nat} (header : Word) {s : State} (hvalid : (s.plan plan).valid = true)
    (hrec : rec * (s.plan plan).rlen < (s.plan plan).slen) :
    stagingRecordEntryOp plan rec header s = (s.stageHeader plan rec header).1.stewardWrite ((s.plan plan).sbase + rec * (s.plan plan).rlen)
      (toBytes (s.stageHeader plan rec header).2.toNat 8) := by
  unfold stagingRecordEntryOp
  exact if_neg (by simp [hvalid, hrec])

theorem exchangePhaseStartOp_waits {plan : Nat} (rows : List CountRow) (late : Bool) {s : State} (h : s.turn (.phase plan) = false) :
    exchangePhaseStartOp plan rows late s = s := if_pos h

theorem exchangePhaseStartOp_unheld {plan : Nat} {rows : List CountRow} {late : Bool} {s : State} (hturn : s.turn (.phase plan) = true)
    (hheld : s.tickHeld = false) : exchangePhaseStartOp plan rows late s = s.phaseFails plan 0x11 (s.plan plan).self := by
  unfold exchangePhaseStartOp
  exact (if_neg (by simp [hturn])).trans (if_pos hheld)

/-- A named phase whose time comes has its own count row first. -/
theorem exchangePhaseStartOp_opens {plan : Nat} {rows : List CountRow} {late : Bool} {s : State} (hturn : s.turn (.phase plan) = true)
    (hheld : s.tickHeld = true) : ∃ f, (exchangePhaseStartOp plan rows late s).plan plan = { (s.openPhase plan).plan plan with
      fail := f
      rows := (s.openPhase plan).countRow plan :: rows.filter fun r => r.part ≠ (s.plan plan).self ∧ r.part < (s.plan plan).npart } := by
  set u := if late then (s.openPhase plan).xFail plan 0x25 (s.plan plan).self else s.openPhase plan
  have hlate : (s.openPhase plan).OnlyFails u plan := .ite (State.xFail_onlyFails _ plan _ _) (.of_stw rfl)
  obtain ⟨f, hf, -⟩ := hlate
  have hop : exchangePhaseStartOp plan rows late s = (State.others (s.plan plan)).foldl
      (fun t q => t.emit (.xRow plan q ((s.openPhase plan).countRow plan))) (u.onPlan plan fun y => { y with
        rows := (s.openPhase plan).countRow plan :: rows.filter fun r => r.part ≠ (s.plan plan).self ∧ r.part < (s.plan plan).npart }) :=
    (if_neg (by simp [hturn])).trans (if_neg (by simp [hheld]))
  exact ⟨f, by rw [hop, State.plan_of_stw (State.foldl_emit_stw _ _ _), State.plan_onPlan_same, hf]⟩

theorem dataStageOp_idle {plan : Nat} (bad : List Nat) (late : Bool) {s : State}
    (h : (s.plan plan).stage ≠ .count ∨ s.nowRc < s.roundStart (s.plan plan) + (s.plan plan).clen) : dataStageOp plan bad late s = s := if_pos h

/-- A later round whose count stage is over sends its records while every link of its slots serves. -/
theorem dataStageOp_sends {plan : Nat} {bad : List Nat} {s : State} (hstage : (s.plan plan).stage = .count)
    (htime : s.roundStart (s.plan plan) + (s.plan plan).clen ≤ s.nowRc) (hround : (s.plan plan).round ≠ 0) (hfail : (s.plan plan).fail = none)
    (hheld : s.tickHeld = true) (hserve : s.SlotsServe plan bad) :
    dataStageOp plan bad false s = (s.onPlan plan fun y => { y with stage := .data }).sendRound plan [] := by
  have hplan := State.plan_onPlan_same s plan fun y => { y with stage := .data }
  have htick : (s.onPlan plan fun y => { y with stage := .data }).tickHeld = true := hheld
  unfold dataStageOp
  dsimp only
  rw [if_neg (by simp [hstage, htime]), if_neg hround, if_neg (by simp [hplan, hfail]), if_neg (by simp [htick]), if_neg Bool.false_ne_true,
    hserve.none_bad, if_pos rfl, if_neg hround]

theorem fwdSlotOp_idle {plan slot : Nat} (rec : List Byte) {s : State}
    (h : (s.plan plan).slots[slot]? = none ∨ (s.plan plan).valid = false ∨ (s.plan plan).stage ≠ .data) : fwdSlotOp plan slot rec s = s := by
  unfold fwdSlotOp
  dsimp only
  split
  · rfl
  · rename_i e he
    rcases h with h | h | h
    · exact nomatch he.symm.trans h
    · exact if_pos (.inl h)
    · exact if_pos (.inr (.inr h))

/-- A record of a FWD slot leaves on OUTLINK while that link serves, else the phase holds the failure. -/
theorem fwdSlotOp_runs {plan slot : Nat} (rec : List Byte) {s : State} {e : SlotEnt} (he : (s.plan plan).slots[slot]? = some e)
    (hvalid : (s.plan plan).valid = true) (hkind : e.kind = 2) (hstage : (s.plan plan).stage = .data) (hheld : s.tickHeld = true) :
    fwdSlotOp plan slot rec s = if (s.net.links.at e.outlink).st ≠ .up2 then s.xFail plan 0x22 (s.plan plan).self
      else s.emit (.xRecord plan e.dst e.outlink rec) := by
  unfold fwdSlotOp
  dsimp only
  rw [he]
  exact (if_neg (by simp [hvalid, hkind, hstage])).trans (if_neg (by simp [hheld]))

theorem exchangeRoundOpenOp_waits {plan : Nat} {s : State} (h : s.turn (.round plan) = false) : exchangeRoundOpenOp plan s = s := if_pos h

theorem exchangeRoundOpenOp_unheld {plan : Nat} {s : State} (hturn : s.turn (.round plan) = true) (hheld : s.tickHeld = false) :
    exchangeRoundOpenOp plan s = s.phaseFails plan 0x11 (s.plan plan).self := by
  unfold exchangeRoundOpenOp
  exact (if_neg (by simp [hturn])).trans (if_pos hheld)

/-- A later round opens at its start, charged and flagged. -/
theorem exchangeRoundOpenOp_opens {plan : Nat} {s : State} (hturn : s.turn (.round plan) = true) (hheld : s.tickHeld = true) :
    exchangeRoundOpenOp plan s = (s.raise xchEvt 1).openRound plan := by
  unfold exchangeRoundOpenOp
  exact (if_neg (by simp [hturn])).trans (if_neg (by simp [hheld]))

theorem closeStageOp_idle {plan : Nat} (st : List (Nat × Nat)) {s : State}
    (h : (s.plan plan).stage ≠ .data ∨ s.nowRc < s.roundStart (s.plan plan) + (s.plan plan).clen + (s.plan plan).dlen) :
    closeStageOp plan st s = s := if_pos h

theorem closeStageOp_outcome {plan : Nat} {st : List (Nat × Nat)} {s : State} (hstage : (s.plan plan).stage = .data)
    (htime : s.roundStart (s.plan plan) + (s.plan plan).clen + (s.plan plan).dlen ≤ s.nowRc) :
    closeStageOp plan st s = (s.judgeRound plan st).setOutcome plan (s.plan plan) := by
  unfold closeStageOp
  exact if_neg (by simp [hstage, htime])

/-- Settles O36: each command by the lemma of its case above, and each frame by the operation's frame law. -/
theorem exchangePhases : Obligations.ExchangePhases := by
  unfold Obligations.ExchangePhases
  refine ⟨?staging, ?start, ?data, ?receive, ?forward, ?reopen, ?close⟩
  case staging =>
    intro plan rec header s
    refine ⟨_, rfl, (stagingRecordEntryOp_keeps plan rec header s (m_ := 0x8840) (by decide) (.refl _ s)).only (by decide), fun h => if_pos h, ?_⟩
    rintro h rfl hvalid hrec
    have henters := stagingRecordEntryOp_enters header hvalid hrec
    refine ⟨(s.stageHeader plan rec header).1, s.plan_stageHeader plan rec header, State.stageHeader_counted, ?_, henters⟩
    rw [henters]
    exact State.stewardWrite_onlyStages _ _ _ plan
  case start =>
    intro plan rows late s
    refine ⟨_, rfl, (exchangePhaseStartOp_keeps plan rows late s (m_ := 0x688F0) (by decide) (.refl _ s)).only (by decide),
      exchangePhaseStartOp_waits rows late, fun hturn hheld => ?_, fun hturn hheld => ?_⟩
    · rw [exchangePhaseStartOp_unheld hturn hheld]
      exact s.phaseFails_ends plan 0x11 _
    · obtain ⟨f, ht⟩ := exchangePhaseStartOp_opens (rows := rows) (late := late) hturn hheld
      obtain ⟨r, m, b, f', hu⟩ := s.plan_openPhase plan
      rw [ht]
      unfold State.countRow
      rw [hu, s.openPhase_tick plan]
      exact ⟨rfl, rfl, rfl, rfl⟩
  case data =>
    intro plan bad late s
    refine ⟨_, rfl, (dataStageOp_keeps plan bad late s (m_ := 0x28830) (by decide) (.refl _ s)).only (by decide), dataStageOp_idle bad late, ?_⟩
    rintro hstage htime hround hfail hheld hserve rfl
    exact dataStageOp_sends hstage htime hround hfail hheld hserve
  case receive =>
    intro plan rec s
    refine ⟨_, rfl, (receiveRecordOp_keeps plan rec s (m_ := 0x28830) (by decide) (.refl _ s)).only (by decide), State.receive_ignored, ?_⟩
    rintro h d age rfl rfl rfl hvalid hruns hdest hown hroom
    have htakes : s.Takes plan rec := ⟨hvalid, hruns, hdest, hown, hroom⟩
    refine ⟨htakes.stale, htakes.early, fun hage => ?_⟩
    obtain ⟨f, hplan⟩ := htakes.plan_accepted hage
    exact ⟨(congrArg PlanSt.accepted hplan :), (congrArg PlanSt.arrived hplan :)⟩
  case forward =>
    intro plan slot rec s
    refine ⟨_, rfl, (fwdSlotOp_keeps plan slot rec s (m_ := 0x20800) (by decide) (.refl _ s)).only (by decide), fwdSlotOp_idle rec, ?_⟩
    intro e he hvalid hkind hstage hheld
    have hruns := fwdSlotOp_runs rec he hvalid hkind hstage hheld
    refine ⟨fun hup => hruns.trans (if_neg (not_not_intro hup)), fun hup hfail => ?_⟩
    rw [hruns, if_pos hup]
    exact State.fail_xFail_first 0x22 _ hfail
  case reopen =>
    intro plan s
    refine ⟨_, rfl, (exchangeRoundOpenOp_keeps plan s (m_ := 0x488F0) (by decide) (.refl _ s)).only (by decide), exchangeRoundOpenOp_waits,
      fun hturn hheld => ?_, fun hturn hheld => ?_⟩
    · rw [exchangeRoundOpenOp_unheld hturn hheld]
      exact s.phaseFails_ends plan 0x11 _
    · have hplan : (s.raise xchEvt 1).plan plan = s.plan plan := State.plan_of_stw (State.raise_stw s _ _ _) plan
      have hopens := (s.raise xchEvt 1).plan_openRound plan
      have hbal := (s.raise xchEvt 1).bal_openRound plan
      rw [hplan] at hopens hbal
      rw [exchangeRoundOpenOp_opens hturn hheld]
      exact ⟨hopens, hbal.trans (by rw [State.glove_of_glv (State.raise_glv s _ _ _)])⟩
  case close =>
    intro plan st s
    refine ⟨_, rfl, (closeStageOp_keeps plan st s (m_ := 0x68870) (by decide) (.refl _ s)).only (by decide), closeStageOp_idle st,
      fun hstage htime => ?_, fun hstage htime hfail => ?_, fun hheld hstage htime hfail hstop hdests hstatuses => ?_⟩
    · rw [closeStageOp_outcome hstage htime]
      exact State.setOutcome_waits_or_over _ plan _
    · obtain ⟨f, hf⟩ := Option.ne_none_iff_exists'.mp ((s.judgeRound_onlyFails plan st).fail_ne_none hfail)
      rw [closeStageOp_outcome hstage htime, State.setOutcome_fails _ hf]
      exact State.phaseFails_ends _ plan f.1 f.2
    · obtain ⟨hstw, hregs⟩ := State.judgeRound_ok hheld hstop hdests hstatuses
      have hjudged : ((s.judgeRound plan st).plan plan).fail = none := (congrArg PlanSt.fail (State.plan_of_stw hstw plan)).trans hfail
      rw [closeStageOp_outcome hstage htime, ← State.reg_of_regs hregs xchCntPhase]
      split
      · rename_i hlast
        exact ⟨by rw [State.setOutcome_ends hjudged hlast]; exact (State.clearPhase_over _ plan stOK).1, State.reg_setOutcome_ends hjudged hlast⟩
      · rename_i hlast
        rw [State.plan_setOutcome_continues hjudged hlast]
        exact ⟨rfl, rfl, State.reg_setOutcome_continues hjudged hlast _⟩

end Sys2Proof.Machine

/-! SUPPORT. The steward's tables as they are read and updated (R354, R362, R412): one entry's update, the same update of many entries, and the
operations that leave the whole block. -/

namespace Sys2Proof

/-- One update, which settles at once, made at every key of a list. -/
theorem SMap.at_foldl_upd {α β : Type} [DecidableEq α] [Inhabited α] (l : List β) (k : β → Nat) {f : α → α} (hf : ∀ x, f (f x) = f x) (m : SMap α)
    (j : Nat) : (l.foldl (fun m b => m.upd (k b) f) m).at j = if j ∈ l.map k then f (m.at j) else m.at j := by
  induction l generalizing m with
  | nil => rfl
  | cons b l ih =>
    rw [List.foldl_cons, ih]
    by_cases hj : j = k b
    · subst hj
      simp [hf]
    · simp [SMap.at_upd_other m f hj, hj]

end Sys2Proof

namespace Sys2Proof.Machine

-- The threads of the whole text share one memory limit: these proofs take none of their own.
set_option Elab.async false

open Adr

namespace State

theorem seqEnt_of_stw {s t : State} (h : t.stw = s.stw) (i : Nat) : t.seqEnt i = s.seqEnt i := congrArg (·.seqt.at i) h

theorem serve_of_stw {s t : State} (h : t.stw = s.stw) (g : Nat) : t.serve g = s.serve g := congrArg (·.serve.at g) h

theorem model_of_stw {s t : State} (h : t.stw = s.stw) (m : Nat) : t.model m = s.model m := congrArg (·.models.at m) h

theorem seqEnt_onSeqEnt_other (s : State) {i j : Nat} (f : SeqEnt → SeqEnt) (h : j ≠ i) : (s.onSeqEnt i f).seqEnt j = s.seqEnt j :=
  SMap.at_upd_other _ _ h

@[simp] theorem serve_onServe_same (s : State) (g : Nat) (f : ServeSt → ServeSt) : (s.onServe g f).serve g = f (s.serve g) := SMap.at_upd_same _ _ _

@[simp] theorem model_onModel_same (s : State) (m : Nat) (f : MdlSt → MdlSt) : (s.onModel m f).model m = f (s.model m) := SMap.at_upd_same _ _ _

/-- One update, which settles at once, made of the entries of every row of a list. -/
theorem seqEnt_foldl_onSeqEnt {rows : List RowSt} {r : RowSt} (hr : r ∈ rows) (f : SeqEnt → SeqEnt) (hf : ∀ e, f (f e) = f e) (s : State) :
    (rows.foldl (fun t x => t.onSeqEnt x.seq f) s).seqEnt r.seq = f (s.seqEnt r.seq) := by
  have hseqt := List.foldl_hom (fun u : State => u.stw.seqt) (g₁ := fun t r => t.onSeqEnt r.seq f) (g₂ := fun m r => m.upd r.seq f) (l := rows)
    (init := s) fun _ _ => rfl
  exact (congrArg (SMap.at · r.seq) hseqt.symm).trans ((SMap.at_foldl_upd rows (·.seq) hf s.stw.seqt r.seq).trans (if_pos (List.mem_map_of_mem hr)))

theorem serve_foldl_onSeqEnt (rows : List RowSt) (f : SeqEnt → SeqEnt) (s : State) (g : Nat) :
    (rows.foldl (fun t r => t.onSeqEnt r.seq f) s).serve g = s.serve g :=
  List.foldlRecOn (motive := fun u : State => u.serve g = s.serve g) rows _ rfl fun _ hu _ _ => hu

/-- One update, which settles at once, made of what the steward keeps for every glove of a list. -/
theorem serve_foldl_onServe {gs : List Nat} {g : Nat} (hg : g ∈ gs) (f : ServeSt → ServeSt) (hf : ∀ v, f (f v) = f v) (s : State) :
    (gs.foldl (fun t x => t.onServe x f) s).serve g = f (s.serve g) := by
  have hserve := List.foldl_hom (fun u : State => u.stw.serve) (g₁ := fun t x => t.onServe x f) (g₂ := fun m x => m.upd x f) (l := gs) (init := s)
    fun _ _ => rfl
  exact (congrArg (SMap.at · g) hserve.symm).trans ((SMap.at_foldl_upd gs id hf s.stw.serve g).trans (if_pos (by simpa using hg)))

/-! Operations that leave the block. -/

theorem putCq_stw (s : State) (c kind : Nat) (e : List Word) : (s.putCq c kind e).stw = s.stw :=
  (putCq_keeps s c kind e (m_ := 0x2A000) (by decide) (.refl _ s)).stw

theorem complete_stw (s : State) (c : HostCmd) (st r0 r1 : Nat) : (s.complete c st r0 r1).stw = s.stw :=
  (complete_keeps s c st r0 r1 (m_ := 0x2A000) (by decide) (.refl _ s)).stw

theorem completeOpt_stw (s : State) (c : Option HostCmd) (st r0 : Nat) : (s.completeOpt c st r0).stw = s.stw :=
  (completeOpt_keeps s c st r0 (m_ := 0x2A000) (by decide) (.refl _ s)).stw

theorem refuseState_stw (s : State) (c : HostCmd) (obj code ident : Nat) : (s.refuseState c obj code ident).stw = s.stw :=
  (refuseState_keeps s c obj code ident (m_ := 0x2A000) (by decide) (.refl _ s)).stw

/-- No step is built for a glove of which one runs (R362). -/
theorem buildStep_running {s : State} {g : Nat} (h : (s.serve g).phase ≠ 0) : s.buildStep g = s := by
  unfold buildStep
  exact if_pos (by simp [mayBuild, h])

end State

end Sys2Proof.Machine

/-! SUPPORT. Steps of a serving glove (R362 to R371): the commit, the records that the steward reads, an abandoned step, and O37. -/

namespace Sys2Proof.Machine

-- The threads of the whole text share one memory limit: these proofs take none of their own.
set_option Elab.async false

open Adr

namespace State

/-! The commit (R365, R366). -/

/-- The row's sequence has no request left, and is in no step. -/
def clearRequests (e : SeqEnt) : SeqEnt := { e with instep := false, canreq := false, pausereq := false }

/-- A step that commits leaves its glove without step and rows and with its token deliveries, and its rows without requests; what falls at the commit
and the next build come after. -/
theorem commitStep_commits (s : State) (g : Nat) :
    ∃ u : State, s.commitStep g = ((u.commitResidency g).swapReached g).buildStep g ∧ (u.serve g).phase = 0 ∧ (u.serve g).rows = [] ∧
      (u.serve g).last =
        ((s.serve g).rows.filter fun r => (s.seqEnt r.seq).instep && !(s.seqEnt r.seq).canreq).flatMap (s.rowEntries (s.serve g).step) ∧
      ∀ r ∈ (s.serve g).rows, (u.seqEnt r.seq).instep = false ∧ (u.seqEnt r.seq).canreq = false ∧ (u.seqEnt r.seq).pausereq = false := by
  refine ⟨_, rfl, congrArg ServeSt.phase (serve_onServe_same _ g _), congrArg ServeSt.rows (serve_onServe_same _ g _),
    congrArg ServeSt.last (serve_onServe_same _ g _), fun r hr => ?_⟩
  have hent := seqEnt_foldl_onSeqEnt hr clearRequests fun _ => rfl
  exact ⟨(congrArg SeqEnt.instep (hent _) :), (congrArg SeqEnt.canreq (hent _) :), (congrArg SeqEnt.pausereq (hent _) :)⟩

/-! The records of a glove's sequencer (R363). -/

theorem takeRecord_none {s : State} {g : Nat} (code : Nat) (h : s.gsqOf g = none ∨ s.serves g = false) : s.takeRecord g code = (false, s) := by
  unfold takeRecord
  split
  · rfl
  · rename_i q hq
    exact if_pos (h.resolve_left (by simp [hq]))

/-- A record is taken where it is the first of the steward's own that the reserved ones leave. -/
theorem takeRecord_hit {s : State} {g q code : Nat} (hq : s.gsqOf g = some q) (hserves : s.serves g = true)
    (hrec : ((dropReserved (s.gsq q).reports).find? fun r => r.code < 0x100).map (·.code) = some code) :
    (s.takeRecord g code).1 = true := by
  unfold takeRecord
  rw [hq]
  dsimp only
  rw [if_neg (by simp [hserves])]
  exact beq_iff_eq.mpr hrec

theorem takeRecord_stw (s : State) (g code : Nat) : (s.takeRecord g code).2.stw = s.stw := by
  unfold takeRecord
  split
  · rfl
  · split
    · rfl
    · exact (wakeReport_keeps _ _ (m_ := 0x2A020) (by decide) (.refl _ _)).stw

/-! Abandonment (R369, R370). -/

/-- The row's sequence leaves the step with its drafts dropped. -/
def leaveStep (e : SeqEnt) : SeqEnt := { e with dlen := 0, instep := false }

theorem abandonRow_free {s : State} {r : RowSt} (hcan : (s.seqEnt r.seq).canreq = false) (hpause : (s.seqEnt r.seq).pausereq = false) :
    s.abandonRow r = s.onSeqEnt r.seq leaveStep := by
  have hent := seqEnt_onSeqEnt_same s r.seq leaveStep
  refine (if_neg (ne_true_of_eq_false ?_)).trans (if_neg (ne_true_of_eq_false ?_))
  · exact (congrArg SeqEnt.canreq hent).trans hcan
  · exact (congrArg SeqEnt.pausereq hent).trans hpause

/-- A step none of whose rows has a request is abandoned row by row. -/
theorem foldl_abandonRow_free (rows : List RowSt) {s : State} (hfree : ∀ i, (s.seqEnt i).canreq = false ∧ (s.seqEnt i).pausereq = false) :
    rows.foldl (fun t r => t.abandonRow r) s = rows.foldl (fun t r => t.onSeqEnt r.seq leaveStep) s := by
  induction rows generalizing s with
  | nil => rfl
  | cons r rows ih =>
    obtain ⟨hcan, hpause⟩ := hfree r.seq
    rw [List.foldl_cons, List.foldl_cons, abandonRow_free hcan hpause]
    refine ih fun i => ?_
    by_cases hi : i = r.seq
    · subst hi
      rw [seqEnt_onSeqEnt_same]
      exact hfree _
    · rw [seqEnt_onSeqEnt_other s leaveStep hi]
      exact hfree i

/-- A running step none of whose rows has a request is abandoned: no rows are left, and each row's sequence leaves it; what is counted, the generation
and a planned swap come after. -/
theorem abandonStep_free {s : State} {g : Nat} (hphase : (s.serve g).phase ≠ 0)
    (hfree : ∀ i, (s.seqEnt i).canreq = false ∧ (s.seqEnt i).pausereq = false) :
    ∃ u : State, s.abandonStep g = ((u.raise stwEvt 2).raiseGen g).swapReached g ∧
      u.serve g = { s.serve g with phase := 0, abandoned := true, rows := [] } ∧
      ∀ r ∈ (s.serve g).rows, (u.seqEnt r.seq).dlen = 0 ∧ (u.seqEnt r.seq).instep = false := by
  refine ⟨(s.serve g).rows.foldl (fun t r => t.onSeqEnt r.seq leaveStep) (s.onServe g fun v => { v with phase := 0, abandoned := true, rows := [] }),
    ?_, ?_, fun r hr => ?_⟩
  · unfold abandonStep
    dsimp only
    rw [if_neg hphase, foldl_abandonRow_free]
    exact hfree
  · rw [serve_foldl_onSeqEnt, serve_onServe_same]
  · rw [seqEnt_foldl_onSeqEnt hr leaveStep fun _ => rfl]
    exact ⟨rfl, rfl⟩

/-! The sampler (R365, R369). -/

theorem finishSampler_samples {s u : State} {g : Nat} {rows : List RowSt} (h : s.sampleRows g (s.serve g).rows 0 = some (u, rows)) :
    s.finishSampler g = u.onServe g fun v => { v with rows := rows, phase := 3, commit := s.nextBoundary } := by
  unfold finishSampler
  rw [h]

theorem finishSampler_fails {s : State} {g : Nat} (h : s.sampleRows g (s.serve g).rows 0 = none) :
    s.finishSampler g = (s.abandonStep g).buildStep g := by
  unfold finishSampler
  rw [h]

end State

/-! The commands. -/

theorem stepDoneOp_eq (g : Nat) (s : State) : stepDoneOp g s =
    if (s.takeRecord g 1).1 = true ∧ ((s.takeRecord g 1).2.serve g).phase = 1 then (s.takeRecord g 1).2.onServe g fun v => { v with phase := 2 }
    else (s.takeRecord g 1).2 := rfl

theorem stepDoneOp_none {g : Nat} {s : State} (h : s.gsqOf g = none ∨ s.serves g = false) : stepDoneOp g s = s := by
  rw [stepDoneOp_eq, State.takeRecord_none 1 h]
  exact if_neg fun hhit => Bool.false_ne_true hhit.1

/-- A record DONE takes the step whose sections run to its sampler, and no other. -/
theorem stepDoneOp_serve {g : Nat} {s : State} (hhit : (s.takeRecord g 1).1 = true) :
    (stepDoneOp g s).serve g = if (s.serve g).phase = 1 then { s.serve g with phase := 2 } else s.serve g := by
  have hserve := State.serve_of_stw (s.takeRecord_stw g 1) g
  rw [stepDoneOp_eq, hserve]
  split
  · rename_i hruns
    rw [if_pos hruns.2, State.serve_onServe_same, hserve]
  · rename_i hruns
    rw [if_neg fun hphase => hruns ⟨hhit, hphase⟩, hserve]

theorem stepAbortOp_eq (g : Nat) (s : State) : stepAbortOp g s =
    if (s.takeRecord g 2).1 = true ∧ ((s.takeRecord g 2).2.serve g).phase ≠ 0 then ((s.takeRecord g 2).2.abandonStep g).buildStep g
    else (s.takeRecord g 2).2 := rfl

theorem stepAbortOp_none {g : Nat} {s : State} (h : s.gsqOf g = none ∨ s.serves g = false) : stepAbortOp g s = s := by
  rw [stepAbortOp_eq, State.takeRecord_none 2 h]
  exact if_neg fun hhit => Bool.false_ne_true hhit.1

theorem stepAbortOp_no_step {g : Nat} {s : State} (hphase : (s.serve g).phase = 0) : (stepAbortOp g s).stw = s.stw := by
  have hstw := s.takeRecord_stw g 2
  rw [stepAbortOp_eq, State.serve_of_stw hstw, if_neg fun hruns => hruns.2 hphase]
  exact hstw

theorem stepAbortOp_abandons {g : Nat} {s : State} (hhit : (s.takeRecord g 2).1 = true) (hphase : (s.serve g).phase ≠ 0) :
    stepAbortOp g s = ((s.takeRecord g 2).2.abandonStep g).buildStep g := by
  rw [stepAbortOp_eq]
  exact if_pos ⟨hhit, by rwa [State.serve_of_stw (s.takeRecord_stw g 2)]⟩

/-- Settles O37: each command by the lemma of its case above, and each frame by the operation's frame law. -/
theorem servingSteps : Obligations.ServingSteps := by
  unfold Obligations.ServingSteps
  refine ⟨?commit, ?done, ?abort, ?sampler⟩
  case commit =>
    intro g s
    refine ⟨_, rfl, (stepCommitOp_keeps g s (m_ := 0x6A8E0) (by decide) (.refl _ s)).only (by decide), fun h => if_neg (ne_true_of_eq_false h), fun h => ?_⟩
    obtain ⟨u, hu, hstep⟩ := s.commitStep_commits g
    exact ⟨u, (if_pos h).trans hu, hstep⟩
  case done =>
    intro g s
    refine ⟨_, rfl, (stepDoneOp_keeps g s (m_ := 0x6A8F8) (by decide) (.refl _ s)).only (by decide), stepDoneOp_none, ?_⟩
    intro q hq hserves hrec
    exact stepDoneOp_serve (State.takeRecord_hit hq hserves hrec)
  case abort =>
    intro g s
    refine ⟨_, rfl, (stepAbortOp_keeps g s (m_ := 0x6A8F8) (by decide) (.refl _ s)).only (by decide), stepAbortOp_none, ?_⟩
    intro q hq hserves hrec
    refine ⟨stepAbortOp_no_step, fun hphase hfree => ?_⟩
    have hop := stepAbortOp_abandons (State.takeRecord_hit hq hserves hrec) hphase
    have hserve := State.serve_of_stw (s.takeRecord_stw g 2) g
    have hent := State.seqEnt_of_stw (s.takeRecord_stw g 2)
    rw [← hserve] at hphase ⊢
    obtain ⟨u, hu, hstep⟩ := State.abandonStep_free hphase fun i => by rw [hent]; exact hfree i
    exact ⟨u, by rw [hop, hu], hstep⟩
  case sampler =>
    intro g s
    refine ⟨_, rfl, (samplerFinishOp_keeps g s (m_ := 0x6A8E0) (by decide) (.refl _ s)).only (by decide), fun h => if_neg h, fun hphase => ?_⟩
    have hop : samplerFinishOp g s = s.finishSampler g := if_pos hphase
    refine ⟨fun u rows hrows => ?_, fun hnone => hop.trans (State.finishSampler_fails hnone)⟩
    have hsamples := hop.trans (State.finishSampler_samples hrows)
    refine ⟨hsamples, ?_⟩
    rw [hsamples, State.serve_onServe_same]

end Sys2Proof.Machine

/-! SUPPORT. What a sequence's entry loses with its cache (R359, R375): the operations on pages, extents, nodes and completions change of the entries of
SEQT only what they hold of a cache; how a sequence ends, is paused or is released. -/

namespace Sys2Proof.Machine

-- The threads of the whole text share one memory limit: these proofs take none of their own.
set_option Elab.async false

open Adr

/-- An entry of SEQT without what it holds of a cache (its pages, its nodes, its extents) and without the mark of when its expiry was
armed. -/
def SeqEnt.core (e : SeqEnt) : SeqEnt := { e with pages := [], refnode := 0, pnode := 0, handles := [], stamp := 0 }

namespace State

/-- From `s` to `t` the entries of SEQT stay but for what they hold of a cache and the order of expiries. -/
def SameCores (s t : State) : Prop := ∀ j, (t.seqEnt j).core = (s.seqEnt j).core

namespace SameCores

variable {s t u : State}

theorem refl (s : State) : s.SameCores s := fun _ => rfl

theorem of_seqt (h : t.stw.seqt = s.stw.seqt) : s.SameCores t := fun j => congrArg (fun m : SMap SeqEnt => (m.at j).core) h

theorem of_stw (h : t.stw = s.stw) : s.SameCores t := of_seqt (congrArg StewardBlk.seqt h)

theorem trans (h : s.SameCores t) (h' : t.SameCores u) : s.SameCores u := fun j => (h' j).trans (h j)

theorem foldl {α : Type} {f : State → α → State} (l : List α) (hstep : ∀ (v : State) (a : α), v.SameCores (f v a)) (h : s.SameCores t) :
    s.SameCores (l.foldl f t) :=
  List.foldlRecOn (motive := fun v => s.SameCores v) l f h fun v hv a _ => hv.trans (hstep v a)

theorem ite {c : Prop} [Decidable c] (h : s.SameCores t) (h' : s.SameCores u) : s.SameCores (if c then t else u) := by
  split
  · exact h
  · exact h'

theorem onSeqEnt (h : s.SameCores t) (i : Nat) {f : SeqEnt → SeqEnt} (hf : ∀ e, (f e).core = e.core) : s.SameCores (t.onSeqEnt i f) := by
  refine h.trans fun j => ?_
  by_cases hj : j = i
  · subst hj
    rw [seqEnt_onSeqEnt_same, hf]
  · rw [seqEnt_onSeqEnt_other t f hj]

theorem st (h : s.SameCores t) (j : Nat) : (t.seqEnt j).st = (s.seqEnt j).st := (congrArg SeqEnt.st (h j) :)

theorem rfrom (h : s.SameCores t) (j : Nat) : (t.seqEnt j).rfrom = (s.seqEnt j).rfrom := (congrArg SeqEnt.rfrom (h j) :)

theorem expiry (h : s.SameCores t) (j : Nat) : (t.seqEnt j).expiry = (s.seqEnt j).expiry := (congrArg SeqEnt.expiry (h j) :)

theorem inc (h : s.SameCores t) (j : Nat) : (t.seqEnt j).inc = (s.seqEnt j).inc := (congrArg SeqEnt.inc (h j) :)

end SameCores

/-! Pages, extents and nodes (R359, R374, R375, R403). -/

/-- A write by the steward can enter records of exchange plans (R327), and leaves the entries of SEQT. -/
theorem putStaged_seqt (s : State) (f u : Nat) (d : List Byte) (whole : Bool) : (s.putStaged f u d whole).stw.seqt = s.stw.seqt := by
  have hput : ∀ (v : State) (d : List Byte), (v.putUnit f u d whole).stw = v.stw := fun v d =>
    (putUnit_keeps v f u d whole (m_ := 0x40) (by decide) (.refl _ v)).stw
  unfold putStaged
  split
  · rw [hput]
  · dsimp only
    rw [hput, stageHeader_stw]
    rfl

theorem writeBits_seqt (s : State) (f u : Nat) (p : Nat × Nat) : (s.writeBits f u p).stw.seqt = s.stw.seqt := by
  unfold writeBits
  split
  · exact s.putStaged_seqt f u _ true
  · dsimp only
    rw [count_stw]
    exact s.putStaged_seqt f u _ false

theorem nearWrite_seqt (s : State) (f u : Nat) (p : Nat × Nat) : (s.nearWrite f u p).1.stw.seqt = s.stw.seqt := by
  unfold nearWrite
  split_ifs
  · exact congrArg StewardBlk.seqt (holdBits_keeps s f u p false (m_ := 0x8040) (by decide) (.refl _ s)).stw
  · rfl
  · exact s.writeBits_seqt f u p

theorem stewardWrite_seqt (s : State) (ta : Nat) (d : List Byte) : (s.stewardWrite ta d).stw.seqt = s.stw.seqt := by
  unfold stewardWrite
  split
  · exact List.foldlRecOn (motive := fun u : State => u.stw.seqt = s.stw.seqt) _ _ rfl fun u hu i _ => (u.nearWrite_seqt _ _ _).trans hu
  · rfl

theorem dropPages_sameCores (s : State) (i : Nat) (which : PageRef → Bool) : s.SameCores (s.dropPages i which) := by
  have hent : s.SameCores (s.onSeqEnt i fun e => { e with pages := e.pages.filter fun r => !which r }) := (SameCores.refl s).onSeqEnt i fun _ => rfl
  exact (hent.foldl _ fun u r => .of_seqt (u.stewardWrite_seqt _ _)).trans (.of_seqt rfl)

theorem freeCache_sameCores (s : State) (i : Nat) : s.SameCores (s.freeCache i) := by
  refine SameCores.onSeqEnt ((s.dropPages_sameCores i fun _ => true).trans ?_) i fun _ => rfl
  unfold dropRef
  split
  · exact .refl _
  · exact .of_seqt rfl

theorem freeExtents_sameCores (s : State) (i : Nat) : s.SameCores (s.freeExtents i) :=
  ((SameCores.refl s).foldl _ fun u h => .of_stw (releaseHandle_keeps u h (m_ := 0x8040) (by decide) (.refl _ u)).stw).onSeqEnt i fun _ => rfl

theorem stampSeq_sameCores (s : State) (i : Nat) : s.SameCores (s.stampSeq i) :=
  ((SameCores.refl s).onSeqEnt i (f := fun e => { e with stamp := s.freeCtr }) fun _ => rfl).trans (.of_seqt rfl)

/-! The end of a sequence (R359). -/

/-- The entry of a sequence that enters state `q` for good. -/
def endEntry (q : QState) (e : SeqEnt) : SeqEnt :=
  { e with
    st := q, expiry := 0, resuming := false, auto := false, retry := none, canreq := false, pausereq := false, dlen := 0, instep := false }

/-- The commands that the end of a sequence answers are no longer held. -/
def answered (e : SeqEnt) : SeqEnt := { e with cancelCmds := [], pauseCmds := [] }

/-- A sequence that ends enters its state, its cache is freed and what it owes is answered. -/
theorem endSeq_ends (s : State) (i : Nat) (q : QState) (status : Nat) :
    ∃ u : State, s.endSeq i q status = u.onSeqEnt i answered ∧ (s.onSeqEnt i (endEntry q)).SameCores u := by
  have hleft : (s.onSeqEnt i (endEntry q)).SameCores ((s.leaveBatch i).onSeqEnt i (endEntry q)) := .of_seqt rfl
  have hcache := hleft.trans (.ite (c := (((s.leaveBatch i).onSeqEnt i (endEntry q)).seqEnt i).job.isSome = true) (.refl _) (freeCache_sameCores _ i))
  have hended := (hcache.trans (freeExtents_sameCores _ i)).trans (.of_stw (seqEndCpl_keeps _ i status (m_ := 0x2A000) (by decide) (.refl _ _)).stw)
  have hcounted := SameCores.ite (c := q = .expired) (hended.trans (.of_stw (count_stw _ resCntExpired 1))) hended
  exact ⟨_, rfl, .foldl _ (fun u c => .of_stw ((refuseState_stw _ c _ _ _).trans (raise_stw u _ _ _)))
    (.foldl _ (fun u c => .of_stw (u.complete_stw c _ _ _)) hcounted)⟩

/-- A sequence that ends is in its state with no time-to-live and no command held, and no other changes its state. -/
theorem endSeq_entries (s : State) (i : Nat) (q : QState) (status : Nat) :
    ((s.endSeq i q status).seqEnt i).st = q ∧ ((s.endSeq i q status).seqEnt i).cancelCmds = [] ∧ ((s.endSeq i q status).seqEnt i).expiry = 0 ∧
      ∀ j, j ≠ i → ((s.endSeq i q status).seqEnt j).st = (s.seqEnt j).st := by
  obtain ⟨u, hu, hcores⟩ := s.endSeq_ends i q status
  have hst := hcores.st i
  have hexpiry := hcores.expiry i
  rw [seqEnt_onSeqEnt_same] at hst hexpiry
  rw [hu, seqEnt_onSeqEnt_same]
  refine ⟨hst, rfl, hexpiry, fun j hj => ?_⟩
  rw [seqEnt_onSeqEnt_other _ _ hj, hcores.st j, seqEnt_onSeqEnt_other _ _ hj]

/-! Pauses (R359, R375, R406). -/

/-- The entry of a sequence that is paused in state `q`. -/
def pauseEntry (q : QState) (expiry : Nat) (e : SeqEnt) : SeqEnt :=
  { e with st := .pausedNear, rfrom := q, pausereq := false, pauseCmds := [], expiry := expiry }

/-- A sequence that is paused enters PAUSED_NEAR with the state that it left; then it gives back pages, and the commands that waited are answered. -/
theorem pauseSeq_pauses (s : State) (i : Nat) :
    (s.onSeqEnt i (pauseEntry (s.seqEnt i).st (if (s.seqEnt i).st = .complete then (s.seqEnt i).expiry else s.expiryFor (s.seqEnt i).ttln))).SameCores
      (s.pauseSeq i) := by
  have hleft : ∀ x, (s.onSeqEnt i (pauseEntry (s.seqEnt i).st x)).SameCores ((s.leaveBatch i).onSeqEnt i (pauseEntry (s.seqEnt i).st x)) := fun _ =>
    .of_seqt rfl
  exact .foldl _ (fun u c => .of_stw (u.complete_stw c _ _ _)) (((hleft _).trans (stampSeq_sameCores _ i)).trans (dropPages_sameCores _ i _))

theorem pauseSeq_entry (s : State) (i : Nat) : ((s.pauseSeq i).seqEnt i).st = .pausedNear ∧ ((s.pauseSeq i).seqEnt i).rfrom = (s.seqEnt i).st := by
  have hcores := s.pauseSeq_pauses i
  rw [hcores.st i, hcores.rfrom i, seqEnt_onSeqEnt_same]
  exact ⟨rfl, rfl⟩

end State

end Sys2Proof.Machine

/-! SUPPORT. The host's commands on sequences (R355 to R361, R485): how a command names an entry, what each does in each state of it, and O39. -/

namespace Sys2Proof.Machine

-- The threads of the whole text share one memory limit: these proofs take none of their own.
set_option Elab.async false

open Adr

namespace State

/-- A command of the physical function that names no glove and passes the checks of its row has its own meaning in the state that has taken it
(R514). -/
theorem command_acts_gloveless {s u : State} {c : HostCmd} {row : CmdRow} {f : HostCmd → State → State} (haccepts : s.Accepts c row.op row.masks u)
    (hset : row.set u = true) (hglove : row.glove = none) : s.command c row f = f c u := by
  obtain ⟨rfl, hfunc, hmasks⟩ := haccepts
  unfold command
  dsimp only
  rw [if_neg (by simp [hmasks]), if_neg (by simp [hfunc]), if_pos hfunc]
  dsimp only
  rw [if_neg (by simp [hset]), hglove]
  exact if_neg (by simp [hfunc])

/-- The command names entry `i` by its handle and owner key slot, and the entry is issued (R355, R356). -/
structure Names (s : State) (c : HostCmd) (i : Nat) : Prop where
  index : i < 2 ^ 17
  inc : (s.seqEnt i).inc < 256
  handle : c.a1.field 0 32 = s.seqHandle i
  issued : (s.seqEnt i).st ≠ .free
  key : (s.seqEnt i).key = c.a1.field 32 8

/-- A sequence command that names an entry in a state of the module that admits it has its own effect on that entry. -/
theorem seqCommand_acts {s : State} {c : HostCmd} {ok : Bool} {i : Nat} (f : Nat → State → State) (hok : ok = true) (h : s.Names c i) :
    s.seqCommand c ok f = f i s := by
  obtain ⟨hindex, hinc, hhandle, hissued, hkey⟩ := h
  have hi : s.seqHandle i % 2 ^ 17 = i := by unfold seqHandle; omega
  unfold seqCommand
  dsimp only
  rw [hhandle, hi, if_neg (by simp [hok]), if_neg (by unfold seqHandle; omega), if_neg, if_neg (not_not_intro hkey)]
  rintro (hfree | hstale)
  · exact hissued hfree
  · exact hstale (by unfold seqHandle; omega)

/-- So has each command of a sequence's row, on the entry that it names. -/
theorem seqRow_acts {s u : State} {c : HostCmd} {op i : Nat} {masks : List Nat} {ok : State → Bool} {f : State → HostCmd → Nat → State}
    (haccepts : s.Accepts c op masks u) (hset : ok u = true) (h : u.Names c i) :
    s.command c (seqRow op masks) (fun c s => s.seqCommand c (ok s) fun i s => f s c i) = f u c i :=
  (command_acts_gloveless haccepts rfl rfl).trans (seqCommand_acts _ hset h)

/-! APPEND (R359, R360). -/

theorem appendSeq_conflict {s : State} {c : HostCmd} {i : Nat} (h : (s.seqEnt i).st ≠ .complete) : s.appendSeq c i = s.seqRefuse c i := if_pos h

theorem appendSeq_beyond {s : State} {c : HostCmd} {i : Nat} (hst : (s.seqEnt i).st = .complete)
    (h : (s.model (s.seqEnt i).model).ctxmax < (s.seqEnt i).clen + 1 + c.a3.field 0 20 + c.a3.field 20 20) : s.appendSeq c i = s.refuse c stBound := by
  unfold appendSeq
  dsimp only
  rw [if_neg (not_not_intro hst), if_pos (.inr (.inr h))]

/-- The entry of a COMPLETE sequence that goes on. -/
def appendEntry (c : HostCmd) (e : SeqEnt) : SeqEnt :=
  { e with st := .prefill, plen := c.a3.field 0 20, ita := c.a2.field 0 56, outmax := c.a3.field 20 20, outn := 0, expiry := 0, run := 0, dlen := 0 }

/-- The entry of a sequence without the copies that its cache has under way. -/
def dropJob (s : State) (i : Nat) : State :=
  if (s.seqEnt i).job.isSome ∨ (s.seqEnt i).retry.isSome then
    ((s.withdrawPieces i).freeExtents i).onSeqEnt i fun e => { e with job := none, retry := none }
  else s

theorem dropJob_none {s : State} {i : Nat} (hjob : (s.seqEnt i).job = none) (hretry : (s.seqEnt i).retry = none) : s.dropJob i = s :=
  if_neg (by simp [hjob, hretry])

/-- A COMPLETE sequence within the context limit rejoins its glove's batch, and the next step is built. -/
theorem appendSeq_within {s : State} {c : HostCmd} {i : Nat} (hst : (s.seqEnt i).st = .complete) (hplen : 0 < c.a3.field 0 20)
    (houtmax : 0 < c.a3.field 20 20)
    (h : (s.seqEnt i).clen + 1 + c.a3.field 0 20 + c.a3.field 20 20 ≤ (s.model (s.seqEnt i).model).ctxmax) :
    s.appendSeq c i = ((((s.dropJob i).onSeqEnt i (appendEntry c)).onServe (s.seqEnt i).glove fun v =>
      { v with autoBack := v.autoBack ++ [i] }).buildStep (s.seqEnt i).glove).complete c stOK := by
  unfold appendSeq
  dsimp only
  rw [if_neg (not_not_intro hst), if_neg (by omega)]
  rfl

/-- While a step of the glove runs, a sequence that goes on with no copy under way waits to join the next. -/
theorem appendSeq_waits {s : State} {c : HostCmd} {i : Nat} (hst : (s.seqEnt i).st = .complete) (hplen : 0 < c.a3.field 0 20)
    (houtmax : 0 < c.a3.field 20 20)
    (h : (s.seqEnt i).clen + 1 + c.a3.field 0 20 + c.a3.field 20 20 ≤ (s.model (s.seqEnt i).model).ctxmax)
    (hjob : (s.seqEnt i).job = none) (hretry : (s.seqEnt i).retry = none) (hphase : (s.serve (s.seqEnt i).glove).phase ≠ 0) :
    (s.appendSeq c i).seqEnt i = appendEntry c (s.seqEnt i) ∧
      ((s.appendSeq c i).serve (s.seqEnt i).glove).autoBack = (s.serve (s.seqEnt i).glove).autoBack ++ [i] := by
  have hbuilt := buildStep_running (s := (s.onSeqEnt i (appendEntry c)).onServe (s.seqEnt i).glove fun v => { v with autoBack := v.autoBack ++ [i] })
    (g := (s.seqEnt i).glove) (by rw [serve_onServe_same]; exact hphase)
  rw [appendSeq_within hst hplen houtmax h, dropJob_none hjob hretry, hbuilt, seqEnt_of_stw (complete_stw _ c _ _ _),
    serve_of_stw (complete_stw _ c _ _ _), serve_onServe_same]
  exact ⟨seqEnt_onSeqEnt_same s i (appendEntry c), rfl⟩

/-! CANCEL (R359, R360). -/

theorem cancelCmd_complete {s : State} (c : HostCmd) {i : Nat} (hst : (s.seqEnt i).st = .complete) :
    s.cancelCmd c i = (s.count stwCntLatecan).refuse c 0x43 (2 + 7 * 2 ^ 4 + s.seqHandle i * 2 ^ 32) := by
  unfold cancelCmd
  dsimp only
  rw [hst]
  rfl

theorem cancelCmd_ended {s : State} (c : HostCmd) {i : Nat} (hst : (s.seqEnt i).st = .cancelled ∨ (s.seqEnt i).st = .expired) :
    s.cancelCmd c i = s.seqRefuse c i := by
  unfold cancelCmd
  dsimp only
  rcases hst with hst | hst <;> rw [hst]

/-- The entry of a sequence with a cancel held until the step commits. -/
def holdCancel (c : HostCmd) (e : SeqEnt) : SeqEnt := { e with canreq := true, pausereq := false, cancelCmds := e.cancelCmds ++ [c] }

theorem cancelCmd_in_step {s : State} (c : HostCmd) {i : Nat} (hst : (s.seqEnt i).st = .prefill ∨ (s.seqEnt i).st = .decode)
    (hinstep : (s.seqEnt i).instep = true) :
    (s.cancelCmd c i).seqEnt i = holdCancel c (s.seqEnt i) ∧ ∀ j, j ≠ i → (s.cancelCmd c i).seqEnt j = s.seqEnt j := by
  have hheld : s.cancelCmd c i = (s.onSeqEnt i fun e => { e with cancelCmds := e.cancelCmds ++ [c] }).onSeqEnt i fun e =>
      { e with canreq := true, pausereq := false } := by
    unfold cancelCmd
    dsimp only
    rcases hst with hst | hst <;> rw [hst, hinstep] <;> rfl
  rw [hheld]
  refine ⟨?_, fun j hj => ?_⟩
  · rw [seqEnt_onSeqEnt_same, seqEnt_onSeqEnt_same]
    rfl
  · rw [seqEnt_onSeqEnt_other _ _ hj, seqEnt_onSeqEnt_other _ _ hj]

/-- A sequence in no step whose turn has not ended is cancelled at once. -/
theorem cancelCmd_cancels {s : State} (c : HostCmd) {i : Nat} (h : (s.seqEnt i).st = .admitted ∨ (s.seqEnt i).st = .pausedNear ∨
    (s.seqEnt i).st = .pausedWide ∨ (s.seqEnt i).st = .pausedDeep ∨
    (((s.seqEnt i).st = .prefill ∨ (s.seqEnt i).st = .decode) ∧ (s.seqEnt i).instep = false)) :
    ((s.cancelCmd c i).seqEnt i).st = .cancelled ∧ ((s.cancelCmd c i).seqEnt i).cancelCmds = [] ∧ ((s.cancelCmd c i).seqEnt i).expiry = 0 ∧
      ∀ j, j ≠ i → ((s.cancelCmd c i).seqEnt j).st = (s.seqEnt j).st := by
  have happly : s.cancelCmd c i = (s.onSeqEnt i fun e => { e with cancelCmds := e.cancelCmds ++ [c] }).cancelSeq i := by
    unfold cancelCmd
    dsimp only
    rcases h with hst | hst | hst | hst | ⟨hst | hst, hinstep⟩
    · rw [hst]
    · rw [hst]
    · rw [hst]
    · rw [hst]
    · rw [hst, hinstep]
      rfl
    · rw [hst, hinstep]
      rfl
  rw [happly]
  obtain ⟨hst, hcmds, hexpiry, hothers⟩ := endSeq_entries ((s.onSeqEnt i fun e => { e with cancelCmds := e.cancelCmds ++ [c] }).count stwCntCancel) i
    .cancelled stOK
  exact ⟨hst, hcmds, hexpiry, fun j hj => (hothers j hj).trans (congrArg SeqEnt.st (seqEnt_onSeqEnt_other s _ hj))⟩

/-! PAUSE (R359, R360). -/

theorem pauseCmd_refused {s : State} (c : HostCmd) {i : Nat} (hst : (s.seqEnt i).st = .admitted ∨ (s.seqEnt i).st = .pausedNear ∨
    (s.seqEnt i).st = .pausedWide ∨ (s.seqEnt i).st = .pausedDeep ∨ (s.seqEnt i).st = .cancelled ∨ (s.seqEnt i).st = .expired) :
    s.pauseCmd c i = s.seqRefuse c i := by
  unfold pauseCmd
  dsimp only
  rcases hst with hst | hst | hst | hst | hst | hst <;> rw [hst]

theorem pauseCmd_cancelling {s : State} (c : HostCmd) {i : Nat} (hst : (s.seqEnt i).st = .prefill ∨ (s.seqEnt i).st = .decode)
    (hcan : (s.seqEnt i).canreq = true) : s.pauseCmd c i = s.seqRefuse c i := by
  unfold pauseCmd
  dsimp only
  rcases hst with hst | hst <;> rw [hst, hcan] <;> rfl

/-- The entry of a sequence with a pause held until the step commits. -/
def holdPause (c : HostCmd) (e : SeqEnt) : SeqEnt := { e with pausereq := true, pauseCmds := e.pauseCmds ++ [c] }

theorem pauseCmd_in_step {s : State} (c : HostCmd) {i : Nat} (hst : (s.seqEnt i).st = .prefill ∨ (s.seqEnt i).st = .decode)
    (hcan : (s.seqEnt i).canreq = false) (hinstep : (s.seqEnt i).instep = true) :
    (s.pauseCmd c i).seqEnt i = holdPause c (s.seqEnt i) ∧ ∀ j, j ≠ i → (s.pauseCmd c i).seqEnt j = s.seqEnt j := by
  have hheld : s.pauseCmd c i = (s.onSeqEnt i fun e => { e with pauseCmds := e.pauseCmds ++ [c] }).onSeqEnt i fun e => { e with pausereq := true } := by
    unfold pauseCmd
    dsimp only
    rcases hst with hst | hst <;> rw [hst, hcan, hinstep] <;> rfl
  rw [hheld]
  refine ⟨?_, fun j hj => ?_⟩
  · rw [seqEnt_onSeqEnt_same, seqEnt_onSeqEnt_same]
    rfl
  · rw [seqEnt_onSeqEnt_other _ _ hj, seqEnt_onSeqEnt_other _ _ hj]

/-- A COMPLETE sequence, or one in no step without a cancel, is paused at once. -/
theorem pauseCmd_pauses {s : State} (c : HostCmd) {i : Nat} (h : (s.seqEnt i).st = .complete ∨
    (((s.seqEnt i).st = .prefill ∨ (s.seqEnt i).st = .decode) ∧ (s.seqEnt i).canreq = false ∧ (s.seqEnt i).instep = false)) :
    ((s.pauseCmd c i).seqEnt i).st = .pausedNear ∧ ((s.pauseCmd c i).seqEnt i).rfrom = (s.seqEnt i).st := by
  have happly : s.pauseCmd c i = (s.onSeqEnt i fun e => { e with pauseCmds := e.pauseCmds ++ [c] }).pauseSeq i := by
    unfold pauseCmd
    dsimp only
    rcases h with hst | ⟨hst | hst, hcan, hinstep⟩
    · rw [hst]
    · rw [hst, hcan, hinstep]
      rfl
    · rw [hst, hcan, hinstep]
      rfl
  obtain ⟨hst, hrfrom⟩ := (s.onSeqEnt i fun e => { e with pauseCmds := e.pauseCmds ++ [c] }).pauseSeq_entry i
  rw [seqEnt_onSeqEnt_same] at hrfrom
  rw [happly]
  exact ⟨hst, hrfrom⟩

/-! RESUME (R359, R360, R410). -/

theorem resumeCmd_refused {s : State} (c : HostCmd) {i : Nat} (h : isPaused (s.seqEnt i).st = false ∨ (s.seqEnt i).resuming = true) :
    s.resumeCmd c i = s.seqRefuse c i := if_pos h

theorem resumeCmd_resumes {s : State} (c : HostCmd) {i : Nat} (hpaused : isPaused (s.seqEnt i).st = true) (hresuming : (s.seqEnt i).resuming = false) :
    s.resumeCmd c i = ((s.resumeSeq i).complete c stOK).buildStep (s.seqEnt i).glove := if_neg (by simp [hpaused, hresuming])

/-! RELEASE (R359, R360, R411). -/

theorem releaseSeq_refused {s : State} (c : HostCmd) {i : Nat} (hst : (s.seqEnt i).st = .admitted ∨ (s.seqEnt i).st = .prefill ∨
    (s.seqEnt i).st = .decode ∨ (s.seqEnt i).st = .pausedNear ∨ (s.seqEnt i).st = .pausedWide ∨ (s.seqEnt i).st = .pausedDeep) :
    s.releaseSeq c i = s.seqRefuse c i := by
  unfold releaseSeq
  dsimp only
  rcases hst with hst | hst | hst | hst | hst | hst <;> rw [hst]

/-- A released entry: blank but for INC, at once or when the copy that still uses its cache ends. -/
def blankEntry (e : SeqEnt) : SeqEnt := if e.job.isSome then { e with st := .free, expiry := 0 } else { (default : SeqEnt) with inc := e.inc }

theorem blankEntry_fields (e : SeqEnt) : (blankEntry e).st = .free ∧ (blankEntry e).inc = e.inc := by
  unfold blankEntry
  split
  · exact ⟨rfl, rfl⟩
  · exact ⟨rfl, rfl⟩

theorem releaseSeq_frees {s : State} (c : HostCmd) {i : Nat} (hst : (s.seqEnt i).st = .complete ∨ (s.seqEnt i).st = .cancelled ∨
    (s.seqEnt i).st = .expired) :
    ∃ u : State, s.SameCores u ∧
      s.releaseSeq c i = ((u.onSeqEnt i blankEntry).onStw fun b => { b with seqFreed := b.seqFreed ++ [i] }).complete c stOK := by
  have hextents := s.freeExtents_sameCores i
  have hcache := SameCores.ite (c := (s.seqEnt i).job.isSome = true) hextents (hextents.trans (freeCache_sameCores _ i))
  have hadapter := SameCores.ite (c := (s.seqEnt i).adp = true)
    (hcache.trans (.of_seqt (t := State.onAdapter _ (s.seqEnt i).adapter fun a => { a with refs := a.refs - 1 }) rfl)) hcache
  refine ⟨_, hadapter.trans (.of_seqt (t := State.leaveBatch _ i) rfl), ?_⟩
  unfold releaseSeq
  dsimp only
  rcases hst with hst | hst | hst <;> rw [hst] <;> rfl

/-- A released entry is FREE, keeps INC, and goes last among the freed. -/
theorem releaseSeq_entry {s : State} (c : HostCmd) {i : Nat} (hst : (s.seqEnt i).st = .complete ∨ (s.seqEnt i).st = .cancelled ∨
    (s.seqEnt i).st = .expired) :
    (∃ v : State, s.releaseSeq c i = v.complete c stOK) ∧ ((s.releaseSeq c i).seqEnt i).st = .free ∧
      (s.releaseSeq c i).stw.seqFreed.getLast? = some i ∧ ((s.releaseSeq c i).seqEnt i).inc = (s.seqEnt i).inc := by
  obtain ⟨u, hcores, hu⟩ := releaseSeq_frees c hst
  have hent : (s.releaseSeq c i).seqEnt i = blankEntry (u.seqEnt i) := by
    rw [hu, seqEnt_of_stw (complete_stw _ c _ _ _)]
    exact seqEnt_onSeqEnt_same u i blankEntry
  obtain ⟨hfree, hinc⟩ := blankEntry_fields (u.seqEnt i)
  refine ⟨⟨_, hu⟩, by rw [hent, hfree], ?_, by rw [hent, hinc, hcores.inc]⟩
  rw [hu, complete_stw]
  exact List.getLast?_concat

/-! ADMIT and ROUTE_ADMIT (R357, R358, R485). -/

theorem admitCheck_free {s : State} {c : HostCmd} (h : (s.glove (c.a1.field 0 6)).live = false) : s.admitCheck c = some stOwner := if_pos h

theorem admitCheck_unserved {s : State} {c : HostCmd} (hlive : (s.glove (c.a1.field 0 6)).live = true) (h : s.serves (c.a1.field 0 6) = false) :
    s.admitCheck c = some stConflict := by
  unfold admitCheck
  dsimp only
  rw [if_neg (by simp [hlive]), if_pos h]

theorem admitCheck_foreign {s : State} {c : HostCmd} (hlive : (s.glove (c.a1.field 0 6)).live = true) (hserves : s.serves (c.a1.field 0 6) = true)
    (h : c.a1.field 6 8 ≠ (s.glove (c.a1.field 0 6)).key) : s.admitCheck c = some stOwner := by
  unfold admitCheck
  dsimp only
  rw [if_neg (by simp [hlive]), if_neg (by simp [hserves]), if_pos h]

theorem admitTo_closed {s : State} (c : HostCmd) (r1 : Nat) (h : s.inS = false) : s.admitTo c r1 = s.seqConflict c 0 (mcode s.mstate) 0 := if_pos h

theorem admitTo_refused {s : State} {c : HostCmd} {st : Nat} (r1 : Nat) (hset : s.inS = true) (h : s.admitCheck c = some st) :
    s.admitTo c r1 = s.admitRefuse c st := by
  unfold admitTo
  rw [if_neg (by simp [hset]), h]

theorem admitTo_admitted {s : State} {c : HostCmd} (r1 : Nat) (hset : s.inS = true) (h : s.admitCheck c = none) :
    s.admitTo c r1 = (s.admitSeq c).1.complete c stOK ((s.admitSeq c).1.seqHandle (s.admitSeq c).2) r1 := by
  unfold admitTo
  rw [if_neg (by simp [hset]), h]

theorem routeAdmitCmd_other_role {s : State} (c : HostCmd) (h : s.net.role ≠ 1) : s.routeAdmitCmd c = s.refuseModule c := if_pos h

/-- The router tries its candidates in their order. -/
theorem routeAdmitCmd_router {s : State} {c : HostCmd} {l : List Word} (hrole : s.net.role = 1)
    (hl : s.routeOrder (c.a1.field 14 20) (c.a6.field 32 32) = l) : s.routeAdmitCmd c = s.routeTry c l := by
  unfold routeAdmitCmd
  rw [if_neg (not_not_intro hrole), hl]

/-- The first open candidate, on this module, admits. -/
theorem routeTry_here {s : State} {c : HostCmd} {w : Word} {rest : List Word} (hopen : s.routeOpen w = true) (hhere : s.nodeId = some (w.field 0 13))
    (h : s.admitCheck (s.routedCmd c w) = none) :
    s.routeTry c (w :: rest) = (s.admitSeq (s.routedCmd c w)).1.complete c stOK
      ((s.admitSeq (s.routedCmd c w)).1.seqHandle (s.admitSeq (s.routedCmd c w)).2) (w.field 0 13) := by
  unfold routeTry
  dsimp only
  rw [if_neg (by simp [hopen]), if_pos hhere, h]

/-- To the first open candidate, on another module, the admission is relayed. -/
theorem routeTry_there {s : State} {c : HostCmd} {w : Word} {rest : List Word} (hopen : s.routeOpen w = true) (hthere : s.nodeId ≠ some (w.field 0 13)) :
    s.routeTry c (w :: rest) = (s.emit (.relay (w.field 0 13) 0x040 (s.reg mgrEpoch) (s.routedCmd c w))).onNet fun b =>
      { b with routing := b.routing ++ [⟨c, rest, some w⟩], relayed := b.relayed ++ [(w.field 0 13, 0x040, c)] } := by
  unfold routeTry
  dsimp only
  rw [if_neg (by simp [hopen]), if_neg hthere]

end State

/-- Settles O39: each command, in the state that has taken it, by the lemma of its case above, and each frame by the operation's frame law. -/
theorem sequenceCommands : Obligations.SequenceCommands := by
  unfold Obligations.SequenceCommands
  refine ⟨?admission, ?append, ?cancel, ?pause, ?resume, ?release, ?route⟩
  case admission =>
    intro c s
    refine ⟨_, rfl, (admitSeqOp_keeps c s (m_ := 0x6A8E0) (by decide) (.refl _ s)).only (by decide), fun u haccepts => ?_⟩
    have hop : admitSeqOp c s = u.admitTo c 0 := State.command_acts_gloveless haccepts rfl rfl
    rw [hop]
    exact ⟨State.admitTo_closed c 0, fun st => State.admitTo_refused 0, State.admitTo_admitted 0, State.admitCheck_free, State.admitCheck_unserved,
      State.admitCheck_foreign⟩
  case append =>
    intro c s
    refine ⟨_, rfl, (appendOp_keeps c s (m_ := 0x6A8E0) (by decide) (.refl _ s)).only (by decide), ?_⟩
    intro u haccepts hset i hindex hinc hhandle hissued hkey
    have hop : appendOp c s = u.appendSeq c i := State.seqRow_acts haccepts hset ⟨hindex, hinc, hhandle, hissued, hkey⟩
    rw [hop]
    exact ⟨State.appendSeq_conflict, State.appendSeq_beyond, fun hst hplen houtmax hwithin => ⟨⟨_, State.appendSeq_within hst hplen houtmax hwithin⟩,
      State.appendSeq_waits hst hplen houtmax hwithin⟩⟩
  case cancel =>
    intro c s
    refine ⟨_, rfl, (cancelOp_keeps c s (m_ := 0x2A840) (by decide) (.refl _ s)).only (by decide), ?_⟩
    intro u haccepts hset i hindex hinc hhandle hissued hkey
    have hop : cancelOp c s = u.cancelCmd c i := State.seqRow_acts haccepts hset ⟨hindex, hinc, hhandle, hissued, hkey⟩
    rw [hop]
    exact ⟨State.cancelCmd_cancels c, State.cancelCmd_in_step c, State.cancelCmd_complete c, State.cancelCmd_ended c⟩
  case pause =>
    intro c s
    refine ⟨_, rfl, (pauseOp_keeps c s (m_ := 0x6A840) (by decide) (.refl _ s)).only (by decide), ?_⟩
    intro u haccepts hset i hindex hinc hhandle hissued hkey
    have hop : pauseOp c s = u.pauseCmd c i := State.seqRow_acts haccepts hset ⟨hindex, hinc, hhandle, hissued, hkey⟩
    rw [hop]
    exact ⟨State.pauseCmd_pauses c, State.pauseCmd_in_step c, State.pauseCmd_cancelling c, State.pauseCmd_refused c⟩
  case resume =>
    intro c s
    refine ⟨_, rfl, (resumeOp_keeps c s (m_ := 0x6A8E0) (by decide) (.refl _ s)).only (by decide), ?_⟩
    intro u haccepts hset i hindex hinc hhandle hissued hkey
    have hop : resumeOp c s = u.resumeCmd c i := State.seqRow_acts haccepts hset ⟨hindex, hinc, hhandle, hissued, hkey⟩
    rw [hop]
    exact ⟨State.resumeCmd_refused c, State.resumeCmd_resumes c⟩
  case release =>
    intro c s
    refine ⟨_, rfl, (releaseOp_keeps c s (m_ := 0x2A840) (by decide) (.refl _ s)).only (by decide), ?_⟩
    intro u haccepts hset i hindex hinc hhandle hissued hkey
    have hop : releaseOp c s = u.releaseSeq c i := State.seqRow_acts haccepts hset ⟨hindex, hinc, hhandle, hissued, hkey⟩
    rw [hop]
    refine ⟨fun hst => ?_, State.releaseSeq_refused c⟩
    obtain ⟨hcompletes, hfree, hlast, hinc⟩ := State.releaseSeq_entry c hst
    exact ⟨hcompletes, hfree, hlast, fun _ => hinc⟩
  case route =>
    intro c s
    refine ⟨_, rfl, (routeAdmitOp_keeps c s (m_ := 0x6B8E0) (by decide) (.refl _ s)).only (by decide), fun u haccepts hset => ?_⟩
    have hop : routeAdmitOp c s = u.routeAdmitCmd c := State.command_acts_gloveless haccepts hset rfl
    rw [hop]
    refine ⟨State.routeAdmitCmd_other_role c, State.routeAdmitCmd_router, fun w rest hrole horder hopen => ?_⟩
    rw [State.routeAdmitCmd_router hrole horder]
    refine ⟨State.routeTry_here hopen, fun hthere => ?_⟩
    rw [State.routeTry_there hopen hthere]
    exact ⟨rfl, rfl⟩

end Sys2Proof.Machine

/-! SUPPORT. Models that are replaced and switched in, fetches that are served, the standby steward, and the steward's registers (R368, R379 to R385, R414
to R420, R480, R481), and O40. -/

namespace Sys2Proof.Machine

-- The threads of the whole text share one memory limit: these proofs take none of their own.
set_option Elab.async false

open Adr

namespace State

/-! Replacements (R418, R420). -/

theorem staleNodes_model (s : State) (p : NodeSt → Bool) (m : Nat) : (s.staleNodes p).model m = s.model m :=
  List.foldlRecOn (motive := fun u : State => u.model m = s.model m) _ _ rfl fun _ hu _ _ => hu

theorem staleNodes_serve (s : State) (p : NodeSt → Bool) (g : Nat) : (s.staleNodes p).serve g = s.serve g :=
  List.foldlRecOn (motive := fun u : State => u.serve g = s.serve g) _ _ rfl fun _ hu _ _ => hu

/-- A replacement that is complete is over, and leaves what the steward keeps for the gloves. -/
theorem replDone_ends (s : State) (m : Nat) (r : ReplSt) : ((s.replDone m r).model m).repl = none ∧ ∀ g, (s.replDone m r).serve g = s.serve g := by
  unfold replDone
  refine ⟨?_, fun g => ?_⟩
  · rw [model_of_stw (completeOpt_stw _ r.cmd _ _), staleNodes_model, model_onModel_same]
  · rw [serve_of_stw (completeOpt_stw _ r.cmd _ _), staleNodes_serve]
    rfl

theorem cuffReleased_waits {s : State} {m : Nat} (h : (s.model m).repl = none ∨ s.turn (.cuff m) = false) : s.cuffReleased m = s := by
  unfold cuffReleased
  split
  · rfl
  · rename_i r hr
    exact if_pos (h.resolve_left (by simp [hr]))

/-- A replacement whose release has its turn ends, and no glove of the model keeps its cuff. -/
theorem cuffReleased_releases {s : State} {m : Nat} {r : ReplSt} (hr : (s.model m).repl = some r) (hturn : s.turn (.cuff m) = true) :
    ((s.cuffReleased m).model m).repl = none ∧ ∀ g ∈ s.modelGloves m, ((s.cuffReleased m).serve g).cuff = false := by
  unfold cuffReleased
  rw [hr]
  dsimp only
  rw [if_neg (by simp [hturn])]
  generalize (if max r.tr r.ready > r.tr then s.raise resEvt 1 else s) = u
  obtain ⟨hrepl, hserve⟩ := replDone_ends ((s.modelGloves m).foldl (fun t g => t.onServe g fun v => { v with cuff := false }) u) m r
  refine ⟨hrepl, fun g hg => (congrArg ServeSt.cuff (hserve g)).trans ?_⟩
  rw [serve_foldl_onServe hg (fun v => { v with cuff := false }) fun _ => rfl]

/-! Switch-ins (R415, R416, R480). -/

theorem swinFor_eq_some {s : State} {m e : Nat} {w : SwinSt} : s.swinFor m e = some w ↔ (s.model m).swin = some w ∧ w.ext = e := by
  unfold swinFor
  cases (s.model m).swin with
  | none => simp
  | some x =>
    dsimp only
    split
    · rename_i hx
      constructor
      · rintro ⟨⟩
        exact ⟨rfl, hx⟩
      · exact And.left
    · rename_i hx
      constructor
      · exact nofun
      · rintro ⟨⟨⟩, hw⟩
        exact absurd hw hx

/-- The last extent of a switch-in makes its model RESIDENT. -/
theorem swinExtentIn_last {s : State} {m : Nat} {w : SwinSt} (hw : (s.model m).swin = some w) (hlast : (s.model m).exts.length ≤ w.ext + 1) :
    ((s.swinExtentIn m).model m).st = .resident ∧ ((s.swinExtentIn m).model m).swin = none := by
  unfold swinExtentIn
  rw [hw]
  dsimp only
  rw [if_pos hlast, model_of_stw (complete_stw _ w.cmd _ _ _), model_onModel_same]
  exact ⟨rfl, rfl⟩

theorem swinPeerLost_serving {s : State} {m : Nat} {w : SwinSt} (hw : (s.model m).swin = some w) (hsrc : w.src < w.peers.length) :
    s.swinPeerLost m = ((s.raise resEvt 2).onModel m fun y =>
      { y with swin := some { w with lostPeers := w.lostPeers ++ [w.peers.getD w.src 0] } }).swinFetch m := by
  unfold swinPeerLost
  rw [hw]
  exact if_pos hsrc

/-! Fetches (R480, R481). -/

theorem serveFetch_conflict {s : State} {f : FetchMsg} (h : (s.model f.model).st ≠ .resident ∨ (s.model f.model).version ≠ f.version) :
    s.serveFetch f = s.emit (.fetchData f.src f.tag stConflict []) := if_pos h

theorem serveFetch_beyond {s : State} {f : FetchMsg} (hst : (s.model f.model).st = .resident) (hversion : (s.model f.model).version = f.version)
    (h : (s.model f.model).exts.length ≤ f.extent ∨ ((s.model f.model).exts.getD f.extent default).len < f.offset + f.len) :
    s.serveFetch f = s.emit (.fetchData f.src f.tag stBound []) := by
  unfold serveFetch
  dsimp only
  rw [if_neg (by simp [hst, hversion]), if_pos h]

/-- A fetch in bounds of bytes that are not poisoned is answered with them, encrypted for the link. -/
theorem serveFetch_within {s : State} {f : FetchMsg} {x : MdlExt} (hx : x = (s.model f.model).exts.getD f.extent default)
    (hst : (s.model f.model).st = .resident) (hversion : (s.model f.model).version = f.version) (hextent : f.extent < (s.model f.model).exts.length)
    (hlen : f.offset + f.len ≤ x.len) (hpoison : s.rangePoisoned (x.nta + f.offset) f.len = false) :
    s.serveFetch f = s.emit (.fetchData f.src f.tag stOK
      (linkUnits (s.keys.at (s.model f.model).key).kid f.model f.extent (f.offset / 4096) (s.nearBytes (taOfs x.nta + f.offset) f.len))) := by
  subst hx
  unfold serveFetch
  dsimp only
  rw [if_neg (by simp [hst, hversion]), if_neg (by omega), if_neg (ne_true_of_eq_false hpoison)]

theorem serveHandle_stale {s : State} (f : FetchMsg) {h : BitVec 32} (hext : s.extOf h = none) :
    s.serveHandle f h = s.emit (.fetchData f.src f.tag stStale []) := by
  unfold serveHandle
  rw [hext]

/-- A fetch in bounds of an extent that stands, under a key that this module holds, is answered with its bytes. -/
theorem serveHandle_within {s : State} {f : FetchMsg} {h : BitVec 32} {n : Nat} (hext : s.extOf h = some n) (hwritten : (s.extent n).st ≠ .writing)
    (hlost : (s.extent n).st ≠ .lost) (hlen : f.offset + f.len ≤ (s.extent n).len) (hkey : s.keyOk (s.extent n).system (s.extent n).key = true)
    (hkid : (s.extent n).system = true ∨ (s.keys.at (s.extent n).key).kid = (s.extent n).kid) :
    s.serveHandle f h = s.emit (.fetchData f.src f.tag stOK
      (linkUnits (s.extent n).kid h.toNat f.extent (f.offset / 4096) (s.extBytes n f.offset f.len))) := by
  unfold serveHandle
  rw [hext]
  dsimp only
  rw [if_neg hwritten, if_neg hlost, if_neg (by omega), if_neg]
  rintro (hno | ⟨hown, hother⟩)
  · exact absurd hkey (by simp [hno])
  · exact hother (hkid.resolve_left (by simp [hown]))

/-! The takeover (R380, R381). -/

/-- With no swap open and no step running, the standby serves from the other tile: no step is abandoned, and of the steward only what says who serves
changes before the step builds. -/
theorem takeover_serves {s : State} (hready : s.stw.standbyReady = true) (hswap : s.stw.swapCmd = none) (hidle : ∀ p ∈ s.stw.serve, p.2.phase = 0) :
    ∃ u : State, s.takeover = u.buildAll ∧
      u.stw = { s.stw with swapLeft := [], serving := 1 - s.stw.serving, standbyReady := false, beats := 0 } := by
  have hrun : ((s.onStw fun b => { b with swapLeft := [] }).stw.serve.filter fun p => p.2.phase ≠ 0) = [] := by
    rw [List.filter_eq_nil_iff]
    exact fun p hp => by simp [hidle p hp]
  have hputs : ∀ (l : List (Nat × List Word)) (v : State), (l.foldl (fun t p => t.putCq p.1 1 p.2) v).stw = v.stw := fun l v =>
    List.foldlRecOn (motive := fun u : State => u.stw = v.stw) l _ rfl fun u hu p _ => (u.putCq_stw p.1 1 p.2).trans hu
  unfold takeover
  rw [if_neg (by simp [hready]), hswap]
  refine ⟨_, rfl, ?_⟩
  dsimp only
  rw [hputs, hrun, onStw_stw, raise_stw]
  rfl

/-! The steward's registers (R368, R382, R385). -/

theorem reg_foldl_setReg_other {k : Nat → Nat} {a : Nat} (l : List (Word × Nat)) (s : State) (h : ∀ p ∈ l, a ≠ k p.2) :
    (l.foldl (fun t p => t.setReg (k p.2) p.1) s).reg a = s.reg a :=
  List.foldlRecOn (motive := fun u : State => u.reg a = s.reg a) l _ rfl fun u hu p hp => (reg_setReg_other u p.1 (h p hp)).trans hu

/-- Words written to registers of their own, from index `n` on, are there to read. -/
theorem reg_foldl_setReg_zipIdx {k : Nat → Nat} (hk : Function.Injective k) (ws : List Word) (n : Nat) (s : State) {w : Nat} (hw : w < ws.length) :
    ((ws.zipIdx n).foldl (fun t p => t.setReg (k p.2) p.1) s).reg (k (n + w)) = ws.getD w 0 := by
  induction ws generalizing n s w with
  | nil => exact absurd hw (Nat.not_lt_zero w)
  | cons x ws ih =>
    rw [List.zipIdx_cons, List.foldl_cons]
    cases w with
    | zero =>
      rw [reg_foldl_setReg_other _ _ fun p hp => ?_]
      · exact reg_setReg_same s (k n) x
      · have := List.le_snd_of_mem_zipIdx hp
        exact fun he => absurd (hk he) (by omega)
    | succ w =>
      rw [show n + (w + 1) = n + 1 + w by omega]
      exact ih (n + 1) _ (Nat.lt_of_succ_lt_succ hw)

/-- The word that a write of STW_GCFG leaves (R385, R565). -/
def gcfgWord (s : State) (g : Nat) (half : Half) (val : Word) : Word :=
  if s.prof 0 17 1 = 0 then Word.setField (Word.setField (mergeHalf half (s.reg (stwGcfg g)) val) 46 18 0) 45 1 0
  else Word.setField (mergeHalf half (s.reg (stwGcfg g)) val) 46 18 0

end State

/-! The commands. -/

theorem stwQ_injective : Function.Injective stwQ := fun a b h => by
  unfold stwQ at h
  omega

theorem cuffReleaseOp_busy {m : Nat} {s : State} (h : ∀ g ∈ s.modelGloves m, (s.serve g).phase ≠ 0) :
    cuffReleaseOp m s = (s.cuffReleased m).buildModel m := by
  have hidle : ((s.modelGloves m).filter fun g => (s.serve g).phase == 0) = [] := by
    rw [List.filter_eq_nil_iff]
    exact fun g hg => by simp [h g hg]
  unfold cuffReleaseOp
  dsimp only
  rw [hidle]
  rfl

theorem switchinExtentCompleteOp_waits {m extent : Nat} {s : State} (h : ∀ w, (s.model m).swin = some w → w.ext ≠ extent ∨
    w.units ≠ 2 ^ ceilDiv ((s.model m).exts.getD extent default).len 4096 - 1) : switchinExtentCompleteOp m extent s = s := by
  unfold switchinExtentCompleteOp
  split
  · rfl
  · rename_i w hw
    obtain ⟨hswin, hext⟩ := State.swinFor_eq_some.mp hw
    exact if_neg ((h w hswin).resolve_left (not_not_intro hext))

theorem switchinExtentCompleteOp_in {m extent : Nat} {s : State} {w : SwinSt} (hswin : (s.model m).swin = some w) (hext : w.ext = extent)
    (hunits : w.units = 2 ^ ceilDiv ((s.model m).exts.getD extent default).len 4096 - 1) :
    switchinExtentCompleteOp m extent s = (s.swinExtentIn m).buildModel m := by
  unfold switchinExtentCompleteOp
  rw [State.swinFor_eq_some.mpr ⟨hswin, hext⟩]
  exact if_pos hunits

theorem peerLostOp_unused {m extent peer : Nat} {s : State} (h : ∀ w, (s.model m).swin = some w → w.ext ≠ extent ∨ w.peers.length ≤ w.src ∨
    w.peers.getD w.src 0 ≠ peer) : peerLostOp m extent peer s = s := by
  unfold peerLostOp
  split
  · rfl
  · rename_i w hw
    obtain ⟨hswin, hext⟩ := State.swinFor_eq_some.mp hw
    refine if_neg ?_
    rintro ⟨hsrc, hpeer⟩
    rcases h w hswin with hother | hpast | hunused
    · exact hother hext
    · omega
    · exact hunused hpeer

theorem peerLostOp_serving {m extent peer : Nat} {s : State} {w : SwinSt} (hswin : (s.model m).swin = some w) (hext : w.ext = extent)
    (hsrc : w.src < w.peers.length) (hpeer : w.peers.getD w.src 0 = peer) :
    peerLostOp m extent peer s =
      ((s.raise resEvt 2).onModel m fun y => { y with swin := some { w with lostPeers := w.lostPeers ++ [peer] } }).swinFetch m := by
  unfold peerLostOp
  rw [State.swinFor_eq_some.mpr ⟨hswin, hext⟩]
  dsimp only
  rw [if_pos ⟨hsrc, hpeer⟩, State.swinPeerLost_serving hswin hsrc, hpeer]

theorem fetchRequestOp_model {f : FetchMsg} (s : State) (h : f.handle = none) : fetchRequestOp f s = s.serveFetch f := by
  unfold fetchRequestOp
  rw [h]

theorem fetchRequestOp_handle {f : FetchMsg} {h : BitVec 32} (s : State) (hh : f.handle = some h) : fetchRequestOp f s = s.serveHandle f h := by
  unfold fetchRequestOp
  rw [hh]

theorem fetchUnitReceiveOp_unasked {m extent : Nat} (unit : Nat) (data : List Byte) {s : State} (h : ∀ w, (s.model m).swin = some w → w.ext ≠ extent ∨
    w.peers.length ≤ w.src) : fetchUnitReceiveOp m extent unit data s = s := by
  unfold fetchUnitReceiveOp
  split
  · rfl
  · rename_i w hw
    obtain ⟨hswin, hext⟩ := State.swinFor_eq_some.mp hw
    exact if_pos (.inl ((h w hswin).resolve_left (not_not_intro hext)))

/-- A unit that the serving peer sends is decrypted, written and marked. -/
theorem fetchUnitReceiveOp_marks {m extent unit : Nat} (data : List Byte) {s : State} {w : SwinSt} (hswin : (s.model m).swin = some w)
    (hext : w.ext = extent) (hsrc : w.src < w.peers.length) (hunit : unit < ceilDiv ((s.model m).exts.getD extent default).len 4096) :
    fetchUnitReceiveOp m extent unit data s =
      (s.stewardWrite (s.swinNta m w extent + 4096 * unit) ((Config.xtsDecrypt (s.keys.at (s.model m).key).kid (State.linkTweak m extent unit) data).take
        (((s.model m).exts.getD extent default).len - 4096 * unit))).onModel m fun y =>
          { y with swin := some { w with units := w.units ||| 2 ^ unit } } := by
  unfold fetchUnitReceiveOp
  rw [State.swinFor_eq_some.mpr ⟨hswin, hext⟩]
  exact if_neg (by omega)

theorem stewardTakeoverOp_unready {s : State} (h : s.stw.standbyReady = false) : stewardTakeoverOp s = s := if_pos h

theorem standbyResyncOp_closed {s : State} (h : s.inA = false ∨ s.aos.iodFenced.contains (if s.stw.serving = 0 then 2 else 0) = true) :
    standbyResyncOp s = s := if_pos h.symm

theorem standbyResyncOp_ready {s : State} (hstate : s.inA = true)
    (hopen : s.aos.iodFenced.contains (if s.stw.serving = 0 then 2 else 0) = false) :
    standbyResyncOp s = s.onStw fun b => { b with standbyReady := true } :=
  if_neg (not_or.mpr ⟨ne_true_of_eq_false hopen, by simp [hstate]⟩)

/-- STW_QIDX names a sequence, and STW_Q0 to STW_Q7 show its words. -/
theorem stwQidxWriteOp_shows {half : Half} {val : Word} {s : State} {i : Nat} (hhalf : half ≠ .hi)
    (hi : i = (mergeHalf half (s.reg stwQidx) val).field 0 17) :
    (stwQidxWriteOp half val s).reg stwQidx = BitVec.ofNat 64 i ∧ ∀ w < 8, (stwQidxWriteOp half val s).reg (stwQ w) = (s.seqWords i).getD w 0 := by
  subst hi
  unfold stwQidxWriteOp
  rw [if_neg hhalf]
  dsimp only
  refine ⟨?_, fun w hw => ?_⟩
  · rw [State.reg_foldl_setReg_other _ _ fun p _ => ?_, State.reg_setReg_same]
    unfold stwQidx stwQ
    omega
  · have hword := State.reg_foldl_setReg_zipIdx stwQ_injective (s.seqWords ((mergeHalf half (s.reg stwQidx) val).field 0 17)) 0
      (s.setReg stwQidx (BitVec.ofNat 64 ((mergeHalf half (s.reg stwQidx) val).field 0 17))) hw
    rwa [Nat.zero_add] at hword

section

variable {g : Nat} {half : Half} {val : Word} {s : State}

theorem stwGcfgWriteOp_illegal (h : State.gcfgOk half (s.gcfgWord g half val) = false) : stwGcfgWriteOp g half val s = s := if_pos (.inr h)

theorem stwGcfgWriteOp_legal (hg : g < 64) (h : State.gcfgOk half (s.gcfgWord g half val) = true) : stwGcfgWriteOp g half val s =
    if s.serves g = false ∧ (s.gcfgWord g half val).bit 45 = true then
      ((s.setReg (stwGcfg g) (s.gcfgWord g half val)).onServe g fun v =>
        { v with step := 0, started := false, cap := (s.gcfgWord g half val).field 0 13 }).buildStep g
    else s.setReg (stwGcfg g) (s.gcfgWord g half val) := by
  have hlegal : ¬(g ≥ 64 ∨ State.gcfgOk half (s.gcfgWord g half val) = false) := by simp [hg, h]
  exact if_neg hlegal

end

/-- Settles O40: each command by the lemma of its case above, and each frame by the operation's frame law. -/
theorem modelsFetchesAndTheStewards : Obligations.ModelsFetchesAndTheStewards := by
  unfold Obligations.ModelsFetchesAndTheStewards
  refine ⟨?cuff, ?extent, ?peer, ?fetch, ?unit, ?heartbeat, ?takeover, ?resync, ?qidx, ?gcfg⟩
  case cuff =>
    intro model s
    refine ⟨_, rfl, (cuffReleaseOp_keeps model s (m_ := 0x6A8E0) (by decide) (.refl _ s)).only (by decide), fun hbusy => ?_⟩
    rw [cuffReleaseOp_busy hbusy]
    exact ⟨fun h => by rw [State.cuffReleased_waits h], fun r hr hturn => ⟨rfl, State.cuffReleased_releases hr hturn⟩⟩
  case extent =>
    intro model extent s
    refine ⟨_, rfl, (switchinExtentCompleteOp_keeps model extent s (m_ := 0x6A8E0) (by decide) (.refl _ s)).only (by decide),
      switchinExtentCompleteOp_waits, ?_⟩
    rintro w hswin rfl hunits
    exact ⟨switchinExtentCompleteOp_in hswin rfl hunits, State.swinExtentIn_last hswin⟩
  case peer =>
    intro model extent peer s
    exact ⟨_, rfl, (peerLostOp_keeps model extent peer s (m_ := 0x2A840) (by decide) (.refl _ s)).only (by decide), peerLostOp_unused,
      fun _ => peerLostOp_serving⟩
  case fetch =>
    intro f s
    refine ⟨_, rfl, (fetchRequestOp_keeps f s (m_ := 0x20000) (by decide) (.refl _ s)).only (by decide), ?conflict, ?model, ?stale, ?within⟩
    case conflict => exact fun hf h => (fetchRequestOp_model s hf).trans (State.serveFetch_conflict h)
    case model =>
      rintro x hx hf hst hversion
      refine ⟨fun h => ?_, fun hextent hlen hpoison => (fetchRequestOp_model s hf).trans (State.serveFetch_within hx hst hversion hextent hlen hpoison)⟩
      exact (fetchRequestOp_model s hf).trans (State.serveFetch_beyond hst hversion (hx ▸ h))
    case stale => exact fun h hf hext => (fetchRequestOp_handle s hf).trans (State.serveHandle_stale f hext)
    case within =>
      exact fun h n hf hext hwritten hlost hlen hkey hkid =>
        (fetchRequestOp_handle s hf).trans (State.serveHandle_within hext hwritten hlost hlen hkey hkid)
  case unit =>
    intro model extent unit data s
    refine ⟨_, rfl, (fetchUnitReceiveOp_keeps model extent unit data s (m_ := 0x8840) (by decide) (.refl _ s)).only (by decide),
      fetchUnitReceiveOp_unasked unit data, fun w hswin hext hsrc hunit => ?_⟩
    have hmarks := fetchUnitReceiveOp_marks data hswin hext hsrc hunit
    refine ⟨hmarks, ?_⟩
    rw [hmarks, State.model_onModel_same]
  case heartbeat =>
    intro s
    refine ⟨_, rfl, (stewardHeartbeatOp_keeps s (m_ := 0x20800) (by decide) (.refl _ s)).only (by decide), fun h => ?_, fun h => if_pos h⟩
    have hop : stewardHeartbeatOp s = (s.onStw fun b => { b with beats := b.beats + 1, sentBeat := s.tick.rcs }).emit (.heartbeat 2) :=
      if_neg (Nat.not_lt.mpr h)
    rw [hop]
    exact ⟨rfl, rfl⟩
  case takeover =>
    intro s
    refine ⟨_, rfl, (stewardTakeoverOp_keeps s (m_ := 0x6A8E0) (by decide) (.refl _ s)).only (by decide), stewardTakeoverOp_unready,
      fun hready hswap hidle => ?_⟩
    obtain ⟨u, hu, hstw⟩ := State.takeover_serves hready hswap hidle
    rw [show stewardTakeoverOp s = u.buildAll from hu]
    exact ⟨u, rfl, congrArg StewardBlk.serving hstw, congrArg StewardBlk.standbyReady hstw, congrArg StewardBlk.beats hstw⟩
  case resync =>
    intro s
    exact ⟨_, rfl, (standbyResyncOp_keeps s (m_ := 0x800) (by decide) (.refl _ s)).only (by decide), standbyResyncOp_closed,
      fun hstate hopen => congrArg State.stw (standbyResyncOp_ready hstate hopen)⟩
  case qidx =>
    intro half val s
    exact ⟨_, rfl, (stwQidxWriteOp_keeps half val s (m_ := 0x8000) (by decide) (.refl _ s)).only (by decide), fun h => if_pos h,
      fun hhalf _ hi => stwQidxWriteOp_shows hhalf hi⟩
  case gcfg =>
    intro g half val s
    refine ⟨_, rfl, (stwGcfgWriteOp_keeps g half val s (m_ := 0x488E0) (by decide) (.refl _ s)).only (by decide), fun h => if_pos (.inl h), ?_⟩
    intro w hw hg
    have hword : w = s.gcfgWord g half val := hw
    rw [hword]
    refine ⟨stwGcfgWriteOp_illegal, fun hok h => (stwGcfgWriteOp_legal hg hok).trans (if_neg ?_),
      fun hok hbit hserves => (stwGcfgWriteOp_legal hg hok).trans (if_pos ⟨hserves, hbit⟩)⟩
    rintro ⟨hserves, hbit⟩
    rcases h with h | h
    · exact absurd hbit (by simp [h])
    · exact absurd h (by simp [hserves])

end Sys2Proof.Machine

/-! SUPPORT. The power ladder and the glove reset (R431, R432, R446 to R451): rung changes, entries that are ready or abandoned, wakes, fault holds
and the end of a reset, and O43. -/

namespace Sys2Proof.Machine

-- The threads of the whole text share one memory limit: these proofs take none of their own.
set_option Elab.async false

open Adr

/-! Rung changes (R449, R450). -/

theorem rungChangeOp_none {s : State} (h : s.rung.pend = none) : rungChangeOp s = s := by
  unfold rungChangeOp
  rw [h]

theorem rungChangeOp_waits {s : State} (h : s.turn .rung = false) : rungChangeOp s = s := by
  unfold rungChangeOp
  split
  · rfl
  · exact if_pos h

/-- A change to S0 leaves a deeper rung, and completes. -/
theorem rungChangeOp_wakes {s : State} {x o : Nat} (hpend : s.rung.pend = some (0, x, o)) (hturn : s.turn .rung = true) :
    rungChangeOp s =
      (if s.rung.rung = 0 then s.onRung fun x => { x with pend := none, cmd := none, auto := false }
        else (s.onRung fun x => { x with pend := none, cmd := none, auto := false }).leaveRung 1).completeOpt s.rung.cmd stOK := by
  unfold rungChangeOp
  rw [hpend]
  exact (if_neg (by simp [hturn])).trans (if_pos rfl)

/-- A change to a deeper rung begins the wait for its entry; toward S2 and below no migration goes on. -/
theorem rungChangeOp_begins {s : State} {r x o : Nat} (hpend : s.rung.pend = some (r, x, o)) (hr : r ≠ 0) (hturn : s.turn .rung = true) :
    (rungChangeOp s).rung = { s.rung with rung := 0, auto := false, entering := some s.tick.tick } ∧
      (rungChangeOp s).mem = if 2 ≤ r then { s.mem with queue := s.mem.queue.map fun q => { q with moving := false } } else s.mem := by
  unfold rungChangeOp
  rw [hpend]
  dsimp only
  rw [if_neg (by simp [hturn]), if_neg hr]
  split
  · exact ⟨rfl, rfl⟩
  · exact ⟨rfl, rfl⟩

/-! Entries (R447, R449). -/

namespace State

/-- Rung `r` entered, before the parts power down. -/
def enteredRung (s : State) (r : Nat) : State :=
  s.onRung fun x => { x with rung := r, auto := false, pend := none, entering := none, cmd := none, saved := r = 3 }

/-- The parts that power down, what is lost, and the completion leave the rung. -/
theorem enterRung_keeps_rung (s : State) (r : Nat) : Keeps 0x6B878 (s.enteredRung r) (s.enterRung r) := by
  have hnap := Keeps.ite (c := r ≥ 2) (napParts_keeps _ r (by decide) (.refl 0x6B878 (s.enteredRung r))) (.refl _ _)
  have hlost := Keeps.ite (c := r ≥ 3) (loseArray_keeps _ (by decide) hnap) hnap
  unfold enterRung
  dsimp only
  cases s.rung.cmd with
  | none => exact .ite (loseStandby_keeps _ (by decide) hlost) hlost
  | some c =>
    have hdone := complete_keeps _ c stOK 0 0 (by decide) hlost
    exact .ite (loseStandby_keeps _ (by decide) hdone) hdone

/-- In S0 and S1 every part keeps its power. -/
theorem enterRung_shallow {s : State} {r : Nat} (h : r < 2) : s.enterRung r = (s.enteredRung r).completeOpt s.rung.cmd stOK := by
  unfold enterRung
  dsimp only
  rw [if_neg (by omega), if_neg (by omega), if_neg (by omega)]
  cases s.rung.cmd with
  | none => rfl
  | some c => rfl

/-- An entry abandoned, before what waited goes on. -/
def abandonedEntry (s : State) : State :=
  (s.onRung fun x => { x with pend := none, entering := none, cmd := none, wake := none }).raise tkeLevt 6

end State

theorem rungEntryCompleteOp_idle {s : State} (h : s.rung.pend = none ∨ s.rung.entering = none) : rungEntryCompleteOp s = s := by
  unfold rungEntryCompleteOp
  split
  · rfl
  · next hpend => exact if_pos (.inl (by simp [h.resolve_left (by simp [hpend])]))

theorem rungEntryCompleteOp_waits {s : State} {r : Nat} {x : Nat × Nat} (hpend : s.rung.pend = some (r, x)) (h : s.rungReady r = false) :
    rungEntryCompleteOp s = s := by
  unfold rungEntryCompleteOp
  rw [hpend]
  exact if_pos (.inr h)

/-- An entry that is ready enters its rung, and leaves it again for a wake that met it. -/
theorem rungEntryCompleteOp_enters {s : State} {r : Nat} {x : Nat × Nat} (hpend : s.rung.pend = some (r, x)) (hentering : s.rung.entering ≠ none)
    (h : s.rungReady r = true) :
    rungEntryCompleteOp s = (s.rung.wake.map fun w => (s.enterRung r).leaveRung (State.wakeCode w)).getD (s.enterRung r) := by
  unfold rungEntryCompleteOp
  rw [hpend]
  refine (if_neg (by simp [hentering, h])).trans ?_
  cases s.rung.wake with
  | none => rfl
  | some w => rfl

theorem rungEntryAbandonOp_idle {s : State} (h : s.rung.entering = none) : rungEntryAbandonOp s = s := by
  unfold rungEntryAbandonOp
  rw [h]

theorem rungEntryAbandonOp_waits {s : State} {x : Nat} (hentering : s.rung.entering = some x)
    (h : s.reached (x + s.fld tkeLcfg 44 4) 0 = false) : rungEntryAbandonOp s = s := by
  unfold rungEntryAbandonOp
  rw [hentering]
  exact if_pos h

/-- An entry that has waited its limit is given up, its command refused, and what waited goes on. -/
theorem rungEntryAbandonOp_abandons {s : State} {x : Nat} (hentering : s.rung.entering = some x)
    (h : s.reached (x + s.fld tkeLcfg 44 4) 0 = true) :
    rungEntryAbandonOp s =
      ((s.rung.cmd.map fun c => s.abandonedEntry.refuseState c 6 s.abandonedEntry.rung.rung 0).getD s.abandonedEntry).resumeAll := by
  unfold rungEntryAbandonOp
  rw [hentering]
  refine (if_neg (by simp [h])).trans ?_
  cases s.rung.cmd with
  | none => rfl
  | some c => rfl

/-- Neither the refusal nor what goes on touches the rung. -/
theorem rungEntryAbandonOp_rung {s : State} {x : Nat} (hentering : s.rung.entering = some x)
    (h : s.reached (x + s.fld tkeLcfg 44 4) 0 = true) :
    (rungEntryAbandonOp s).rung = { s.rung with pend := none, entering := none, cmd := none, wake := none } := by
  have habandoned : s.abandonedEntry.rung = { s.rung with pend := none, entering := none, cmd := none, wake := none } := State.raise_rung _ _ _ _
  have hgoes : ∀ u : State, u.resumeAll.rung = u.rung := fun u =>
    (State.resumeAll_keeps u (m_ := 0x6E8E8) (by decide) (.refl _ u)).rung
  rw [rungEntryAbandonOp_abandons hentering h, hgoes]
  cases s.rung.cmd with
  | none => exact habandoned
  | some c => exact (State.refuseState_keeps _ c 6 _ 0 (m_ := 0x2A000) (by decide) (.refl _ _)).rung.trans habandoned

/-! Wake events (R450, R451). -/

namespace State

/-- Bit `b` of TKE_WAKE enables the source. -/
def WakesBy (src : WakeSrc) (b : Nat) : Prop := src = .commandRing ∧ b = 0 ∨ src = .serviceLink ∧ b = 1 ∨ src = .smbus ∧ b = 2

/-- A source that TKE_WAKE does not name wakes nothing. -/
theorem wakeBy_timed {s : State} {src : WakeSrc} (h : src = .namedTime ∨ src = .ledger) : s.wakeBy src = s := by
  rcases h with rfl | rfl
  · rfl
  · rfl

theorem wakeBy_disabled {s : State} {src : WakeSrc} {b : Nat} (hsrc : WakesBy src b) (h : s.fld tkeWake b 1 ≠ 1) : s.wakeBy src = s := by
  rcases hsrc with ⟨rfl, rfl⟩ | ⟨rfl, rfl⟩ | ⟨rfl, rfl⟩
  all_goals
    unfold wakeBy
    simp [h]

/-- An enabled source is remembered during an entry, and leaves a rung below S0. -/
theorem wakeBy_enabled {s : State} {src : WakeSrc} {b : Nat} (hsrc : WakesBy src b) (h : s.fld tkeWake b 1 = 1) :
    s.wakeBy src =
      if s.rung.entering.isSome then s.onRung fun r => { r with wake := if r.wake.isSome then r.wake else some src }
      else if s.rung.rung ≥ 1 then s.leaveRung (b + 2) else s := by
  rcases hsrc with ⟨rfl, rfl⟩ | ⟨rfl, rfl⟩ | ⟨rfl, rfl⟩
  all_goals
    unfold wakeBy
    simp [h]

theorem wakeBy_leaves {s : State} {src : WakeSrc} {b : Nat} (hsrc : WakesBy src b) (h : s.fld tkeWake b 1 = 1) (hentering : s.rung.entering = none)
    (hrung : 1 ≤ s.rung.rung) : s.wakeBy src = s.leaveRung (b + 2) := by
  rw [wakeBy_enabled hsrc h, if_neg (by simp [hentering]), if_pos hrung]

/-! Glove resets (R431, R432). -/

/-- A reset that begins: the glove is RESETTING with its cause, the fault over, and the flag set. -/
theorem beginReset_begins {s : State} {g : Nat} (cause : Nat) (hlive : (s.glove g).live = true) (hresetting : (s.glove g).resetting = false) :
    ((s.beginReset g cause).glove g).resetting = true ∧ ((s.beginReset g cause).glove g).faulted = none ∧
      ((s.beginReset g cause).glove g).cause = cause ∧ (s.beginReset g cause).flag tkeLevt 7 = true := by
  unfold beginReset
  rw [if_neg (by simp [hlive, hresetting])]
  dsimp only
  rw [glove_of_glv (raise_glv _ _ _ _), glove_onGlv_same]
  exact ⟨rfl, rfl, rfl, flag_raise _ _ _ _ (by decide)⟩

end State

theorem faultHoldExpiryOp_none {g : Nat} {s : State} (h : (s.glove g).faulted = none) : faultHoldExpiryOp g s = s := by
  unfold faultHoldExpiryOp
  rw [h]

theorem faultHoldExpiryOp_held {g c x : Nat} {s : State} (hfaulted : (s.glove g).faulted = some (c, x))
    (h : s.reached x 0 = false ∨ s.mstate = .fault) : faultHoldExpiryOp g s = s := by
  unfold faultHoldExpiryOp
  rw [hfaulted]
  refine if_neg ?_
  rintro ⟨hreached, hmode⟩
  rcases h with h | h
  · simp [h] at hreached
  · exact hmode h

theorem faultHoldExpiryOp_resets {g c x : Nat} {s : State} (hfaulted : (s.glove g).faulted = some (c, x)) (hreached : s.reached x 0 = true)
    (hmode : s.mstate ≠ .fault) : faultHoldExpiryOp g s = s.beginReset g c := by
  unfold faultHoldExpiryOp
  rw [hfaulted]
  exact if_pos ⟨hreached, hmode⟩

theorem gloveResetDoneOp_idle {g : Nat} {s : State} (h : (s.glove g).resetting = false) : gloveResetDoneOp g s = s := if_pos h

/-- The commands that waited complete in the state whose glove is LOADING. -/
theorem gloveResetDoneOp_completes {g : Nat} {s : State} (h : (s.glove g).resetting = true) :
    gloveResetDoneOp g s = (s.glove g).resetCmds.foldl (fun t c => t.complete c stOK)
      (s.onGlv g fun v => { v with resetting := false, resetCmds := [] }) :=
  if_neg (by simp [h])

theorem State.foldl_complete_glv (l : List HostCmd) (s : State) (st : Nat) : (l.foldl (fun t c => t.complete c st) s).glv = s.glv :=
  (Keeps.foldl (m := 0x2A000) (fun v c => complete_keeps v c st 0 0 (by decide) (.refl _ v)) (.refl _ s)).glv

/-- Settles O43: each event by the lemma of its case, and each frame by the operation's frame law. -/
theorem powerLadderAndGloveResets : Obligations.PowerLadderAndGloveResets := by
  unfold Obligations.PowerLadderAndGloveResets
  refine ⟨?change, ?complete, ?abandon, ?wake, ?fault, ?done⟩
  case change =>
    intro s
    refine ⟨_, rfl, (rungChangeOp_keeps s (m_ := 0x6FAF9) (by decide) (.refl _ s)).only (by decide), rungChangeOp_none, rungChangeOp_waits, ?_, ?_⟩
    · intro x o hpend hturn
      have hop := rungChangeOp_wakes hpend hturn
      refine ⟨fun hrung => ?_, fun hrung => ?_⟩
      · rw [hop, if_pos hrung]
        exact (State.completeOpt_keeps _ s.rung.cmd stOK 0 (m_ := 0x2A000) (by decide) (.refl _ _)).rung
      · rw [hop, if_neg hrung]
    · exact fun r x o => rungChangeOp_begins
  case complete =>
    intro s
    refine ⟨_, rfl, (rungEntryCompleteOp_keeps s (m_ := 0x6FAF9) (by decide) (.refl _ s)).only (by decide), rungEntryCompleteOp_idle, ?_⟩
    intro r x hpend hentering
    refine ⟨rungEntryCompleteOp_waits hpend, fun hready => ?_⟩
    have hop := rungEntryCompleteOp_enters hpend hentering hready
    refine ⟨fun w hwake => ?_, fun hwake => ?_⟩
    · rw [hop, hwake]
      rfl
    · have henters : rungEntryCompleteOp s = s.enterRung r := by
        rw [hop, hwake]
        rfl
      rw [henters]
      refine ⟨(s.enterRung_keeps_rung r).rung, fun hr => ?_⟩
      have hkeeps := State.completeOpt_keeps (s.enteredRung r) s.rung.cmd stOK 0 (m_ := 0x2A000) (by decide) (.refl _ _)
      rw [State.enterRung_shallow hr]
      exact ⟨hkeeps.mem, hkeeps.arr⟩
  case abandon =>
    intro s
    refine ⟨_, rfl, (rungEntryAbandonOp_keeps s (m_ := 0x6EAE8) (by decide) (.refl _ s)).only (by decide), rungEntryAbandonOp_idle,
      fun x => rungEntryAbandonOp_waits, fun x hentering hreached => ⟨rungEntryAbandonOp_rung hentering hreached, fun hcmd => ?_⟩⟩
    rw [rungEntryAbandonOp_abandons hentering hreached, hcmd]
    rfl
  case wake =>
    intro src s
    refine ⟨_, rfl, (wakeEventOp_keeps src s (m_ := 0x6FAF9) (by decide) (.refl _ s)).only (by decide), State.wakeBy_timed, ?_, ?_⟩
    · rintro (⟨hsrc, h⟩ | ⟨hsrc, h⟩ | ⟨hsrc, h⟩)
      · exact State.wakeBy_disabled (.inl ⟨hsrc, rfl⟩) h
      · exact State.wakeBy_disabled (.inr (.inl ⟨hsrc, rfl⟩)) h
      · exact State.wakeBy_disabled (.inr (.inr ⟨hsrc, rfl⟩)) h
    · intro b hsrc henabled
      have hop : wakeEventOp src s = _ := State.wakeBy_enabled hsrc henabled
      refine ⟨fun hentering => ?_, fun hentering hrung => ?_, fun hentering hrung => State.wakeBy_leaves hsrc henabled hentering hrung⟩
      · rw [hop, if_pos (Option.isSome_iff_ne_none.mpr hentering)]
        rfl
      · rw [hop, if_neg (by simp [hentering]), if_neg (by simp [hrung])]
  case fault =>
    intro g s
    refine ⟨_, rfl, (faultHoldExpiryOp_keeps g s (m_ := 0x6A8F0) (by decide) (.refl _ s)).only (by decide), faultHoldExpiryOp_none,
      fun c x => faultHoldExpiryOp_held, fun c x hfaulted hreached hmode hlive hresetting => ?_⟩
    rw [faultHoldExpiryOp_resets hfaulted hreached hmode]
    exact State.beginReset_begins c hlive hresetting
  case done =>
    intro g s
    refine ⟨_, rfl, (gloveResetDoneOp_keeps g s (m_ := 0x2A080) (by decide) (.refl _ s)).only (by decide), gloveResetDoneOp_idle,
      fun hresetting => ?_⟩
    have hop := gloveResetDoneOp_completes hresetting
    refine ⟨?_, hop⟩
    rw [hop, State.foldl_complete_glv]

end Sys2Proof.Machine

/-! SUPPORT. Links as they are read and updated (R465, R466, R467, R494): one link's update, training, the loss of a lane, signal detect, the write of
LNK_CFG, and O45. -/

namespace Sys2Proof.Machine

-- The threads of the whole text share one memory limit: these proofs take none of their own.
set_option Elab.async false

open Adr

namespace State

/-! Links as they are read. -/

@[simp] theorem link_onLink_same (s : State) (l : Nat) (f : LinkSt → LinkSt) : (s.onLink l f).link l = f (s.link l) := SMap.at_upd_same _ _ _

theorem link_of_net {s t : State} (h : t.net = s.net) (l : Nat) : t.link l = s.link l := congrArg (·.links.at l) h

theorem linkUp_of_net {s t : State} (h : t.net = s.net) (l : Nat) : t.linkUp l = s.linkUp l := by
  unfold linkUp
  rw [link_of_net h]

theorem linkUp_eq_false {s : State} {l : Nat} (h : (s.link l).st = .down) : s.linkUp l = false := by
  unfold linkUp
  rw [h]
  rfl

theorem slotBreaks_net (s : State) (l : Nat) : (s.slotBreaks l).net = s.net := (slotBreaks_keeps s l (m_ := 0x800) (by decide) (.refl _ s)).net

/-! Training (R465). -/

theorem link_linkTrain (s : State) (l : Nat) : (s.linkTrain l).link l = { s.link l with st := .training } := by
  unfold linkTrain
  rw [link_onLink_same, link_of_net (s.slotBreaks_net l)]

theorem linkTrain_regs (s : State) (l : Nat) : (s.linkTrain l).regs = s.regs := (linkTrain_keeps s l (m_ := 0x1800) (by decide) (.refl _ s)).regs

/-- The link that has gone DOWN. -/
def downLink (x : LinkSt) : LinkSt := { x with st := .down, wasUp := false, asm := [], unacked := [], resend := 0 }

theorem link_linkDown (s : State) (l : Nat) : (s.linkDown l).link l = downLink (s.link l) := by
  have hdown : (((s.slotBreaks l).onLink l downLink).raise (lnkEvt l) 3).link l = downLink (s.link l) := by
    rw [link_of_net (raise_net _ _ _ _), link_onLink_same, link_of_net (s.slotBreaks_net l)]
  unfold linkDown
  dsimp only
  split
  · exact (link_of_net ((fenceCount_keeps _ (m_ := 0x8000) (by decide) (errClass_keeps _ 3 5 l 0 0 0 (by decide) (.refl _ _))).net) l).trans hdown
  · exact hdown

end State

/-! The commands. -/

theorem linkTrainingStartOp_idle {link : Nat} {s : State}
    (h : 96 ≤ link ∨ (s.link link).st ≠ .down ∨ s.fld (lnkCfg link) 0 1 = 0 ∨ s.mstate = .off ∨ s.mstate = .reset) :
    linkTrainingStartOp link s = s := if_pos h

theorem linkTrainingStartOp_trains {link : Nat} {s : State} (hlink : link < 96) (hdown : (s.link link).st = .down)
    (henable : s.fld (lnkCfg link) 0 1 ≠ 0) (hoff : s.mstate ≠ .off) (hreset : s.mstate ≠ .reset) :
    linkTrainingStartOp link s = s.linkTrain link := by
  refine if_neg ?_
  rintro (h | h | h | h | h)
  · exact Nat.not_le.mpr hlink h
  · exact h hdown
  · exact henable h
  · exact hoff h
  · exact hreset h

theorem linkTrainingCompleteOp_idle {link : Nat} (lanes peer peerLink delay : Nat) {s : State} (h : (s.link link).st ≠ .training) :
    linkTrainingCompleteOp link lanes peer peerLink delay s = s := if_pos h

theorem linkTrainingCompleteOp_fails {link lanes : Nat} (peer peerLink delay : Nat) {s : State} (h : (s.link link).st = .training)
    (hlanes : lanes % 4 = 0) : linkTrainingCompleteOp link lanes peer peerLink delay s = s.linkDown link :=
  (if_neg (not_not_intro h)).trans (if_pos hlanes)

/-- A link as training leaves it: on the lanes that passed, with its numbers and credits afresh. -/
def trainedLink (lanes peer peerLink delay : Nat) (x : LinkSt) : LinkSt :=
  { x with
    st := if lanes % 4 = 3 then .up2 else .up1, lane := if lanes % 4 = 2 then 1 else 0, wasUp := true, peer := peer % 2 ^ 13,
    peerLink := peerLink % 2 ^ 7, delay := delay % 2 ^ 16, rxSeq := 0, rxFails := 0, nak := false, rxAny := false, txSeq := 0,
    unacked := [], resend := 0, replays := 0, sent := [], freedIn := [], freedOut := [], asm := [], sinceLctl := 0, slotTime := 0 }

theorem linkTrainingCompleteOp_up {link lanes : Nat} (peer peerLink delay : Nat) {s : State} (h : (s.link link).st = .training)
    (hlanes : lanes % 4 ≠ 0) :
    linkTrainingCompleteOp link lanes peer peerLink delay s = s.onLink link (trainedLink lanes peer peerLink delay) :=
  (if_neg (not_not_intro h)).trans (if_neg hlanes)

theorem laneDropOp_idle {link : Nat} (lane : Nat) {s : State} (hup2 : (s.link link).st ≠ .up2) (hup1 : (s.link link).st ≠ .up1) :
    laneDropOp link lane s = s := by
  unfold laneDropOp
  dsimp only
  split
  · exact absurd ‹_› hup2
  · exact absurd ‹_› hup1
  · rfl

/-- A link of two lanes goes on with the other, and sends again. -/
theorem link_laneDropOp_up2 {link : Nat} (lane : Nat) {s : State} (h : (s.link link).st = .up2) :
    (laneDropOp link lane s).link link = { s.link link with st := .up1, lane := 1 - lane % 2, resend := (s.link link).unacked.length } := by
  have hnet : (((s.slotBreaks link).raise (lnkEvt link) 2).corrected).net = s.net := by
    unfold State.corrected
    rw [State.raise_net, State.raise_net, s.slotBreaks_net link]
  unfold laneDropOp
  dsimp only
  rw [h]
  dsimp only
  rw [State.link_onLink_same, State.link_of_net hnet]

theorem laneDropOp_up1_other {link lane : Nat} {s : State} (h : (s.link link).st = .up1) (hlane : lane ≠ (s.link link).lane) :
    laneDropOp link lane s = s := by
  unfold laneDropOp
  dsimp only
  rw [h]
  exact if_neg hlane

theorem laneDropOp_up1_last {link lane : Nat} {s : State} (h : (s.link link).st = .up1) (hlane : lane = (s.link link).lane) :
    laneDropOp link lane s = (s.raise (lnkEvt link) 2).corrected.linkDown link := by
  unfold laneDropOp
  dsimp only
  rw [h]
  exact if_pos hlane

theorem linkSignalDetectOp_idle {link : Nat} {s : State} (h : s.rung.rung < 2 ∨ 96 ≤ link ∨ (s.link link).st ≠ .down) :
    linkSignalDetectOp link s = s := if_pos h

/-- In a deep rung, signal on a DOWN link of the fabric trains it when it is enabled. -/
theorem linkSignalDetectOp_fabric {link : Nat} {s : State} (hrung : 2 ≤ s.rung.rung) (hlink : link < 88) (hdown : (s.link link).st = .down) :
    linkSignalDetectOp link s = if s.fld (lnkCfg link) 0 1 = 1 then s.linkTrain link else s := by
  refine (if_neg ?_).trans (if_neg (Nat.not_le.mpr hlink))
  rintro (h | h | h)
  · exact Nat.not_le.mpr h hrung
  · omega
  · exact h hdown

/-- Signal on a DOWN service link wakes the module. -/
theorem linkSignalDetectOp_service {link : Nat} {s : State} (hrung : 2 ≤ s.rung.rung) (hlo : 88 ≤ link) (hhi : link < 96)
    (hdown : (s.link link).st = .down) : linkSignalDetectOp link s = s.wakeBy .serviceLink := by
  refine (if_neg ?_).trans (if_pos hlo)
  rintro (h | h | h)
  · exact Nat.not_le.mpr h hrung
  · exact Nat.not_le.mpr hhi h
  · exact h hdown

theorem lnkRetrainOp_idle {link : Nat} {s : State} (h : s.linkUp link = false) : lnkRetrainOp link s = s := if_neg (by simp [h])

theorem lnkRetrainOp_trains {link : Nat} {s : State} (h : s.linkUp link = true) : lnkRetrainOp link s = s.linkTrain link := if_pos h

/-- LNK_CFG as a write leaves it: LTHRESH 0 keeps the threshold. -/
def lnkCfgWord (old val : Word) : Word :=
  (old.setField 0 1 (val.field 0 1)).setField 2 16 (if val.field 2 16 = 0 then old.field 2 16 else val.field 2 16)

theorem lnkEnableWriteOp_beyond {link : Nat} (val : Word) {s : State} (h : 96 ≤ link) : lnkEnableWriteOp link val s = s := if_pos h

theorem lnkEnableWriteOp_disabled {link : Nat} {val : Word} {s : State} (hlink : link < 96) (hval : val.bit 0 = false) :
    lnkEnableWriteOp link val s =
      if (s.link link).st = .fenced ∨ (s.link link).st = .down then s.setReg (lnkCfg link) (lnkCfgWord (s.reg (lnkCfg link)) val)
      else (s.setReg (lnkCfg link) (lnkCfgWord (s.reg (lnkCfg link)) val)).linkDown link := by
  unfold lnkEnableWriteOp lnkCfgWord
  rw [if_neg (Nat.not_le.mpr hlink)]
  exact if_pos hval

/-- A write that leaves the link enabled trains it when RETRAIN is set and it is up. -/
theorem lnkEnableWriteOp_enabled {link : Nat} {val : Word} {s : State} (hlink : link < 96) (hval : val.bit 0 = true) :
    lnkEnableWriteOp link val s =
      if val.bit 1 = true ∧ s.linkUp link = true then (s.setReg (lnkCfg link) (lnkCfgWord (s.reg (lnkCfg link)) val)).linkTrain link
      else s.setReg (lnkCfg link) (lnkCfgWord (s.reg (lnkCfg link)) val) := by
  unfold lnkEnableWriteOp lnkCfgWord
  dsimp only
  rw [if_neg (Nat.not_le.mpr hlink), if_neg (by simp [hval])]
  unfold lnkRetrainOp
  rw [State.linkUp_of_net (State.setReg_net s _ _), ite_and]

/-- Settles O45: each command by the lemma of its case, and each frame by the operation's frame law. -/
theorem linkTrainingAndLanes : Obligations.LinkTrainingAndLanes := by
  unfold Obligations.LinkTrainingAndLanes
  refine ⟨?start, ?complete, ?drop, ?signal, ?retrain, ?enable⟩
  case start =>
    intro link s
    refine ⟨_, rfl, (linkTrainingStartOp_keeps link s (m_ := 0x1800) (by decide) (.refl _ s)).only (by decide), linkTrainingStartOp_idle, ?_⟩
    intro hlink hdown henable hoff hreset
    rw [linkTrainingStartOp_trains hlink hdown henable hoff hreset, State.link_linkTrain]
  case complete =>
    intro link lanes peer peerLink delay s
    refine ⟨_, rfl, (linkTrainingCompleteOp_keeps link lanes peer peerLink delay s (m_ := 0x9800) (by decide) (.refl _ s)).only (by decide),
      linkTrainingCompleteOp_idle lanes peer peerLink delay, fun htraining hlanes => ?_, fun htraining hlanes => ?_⟩
    · rw [linkTrainingCompleteOp_fails peer peerLink delay htraining hlanes, State.link_linkDown]
      exact ⟨rfl, rfl⟩
    · rw [linkTrainingCompleteOp_up peer peerLink delay htraining hlanes, State.link_onLink_same]
      exact ⟨rfl, rfl, rfl, rfl, rfl, rfl, rfl, rfl, rfl, rfl⟩
  case drop =>
    intro link lane s
    refine ⟨_, rfl, (laneDropOp_keeps link lane s (m_ := 0x9800) (by decide) (.refl _ s)).only (by decide), laneDropOp_idle lane,
      link_laneDropOp_up2 lane, fun hup1 => ⟨laneDropOp_up1_other hup1, fun hlane => ?_⟩⟩
    rw [laneDropOp_up1_last hup1 hlane, State.link_linkDown]
    rfl
  case signal =>
    intro link s
    refine ⟨_, rfl, (linkSignalDetectOp_keeps link s (m_ := 0x6FAF9) (by decide) (.refl _ s)).only (by decide), linkSignalDetectOp_idle, ?_, ?_⟩
    · intro hrung hlink hdown
      have hfabric := linkSignalDetectOp_fabric hrung hlink hdown
      refine ⟨fun henable => ?_, fun hdisable => hfabric.trans (if_neg hdisable)⟩
      rw [hfabric, if_pos henable, State.link_linkTrain]
    · intro hrung hlo hhi hdown
      have hwakes := linkSignalDetectOp_service hrung hlo hhi hdown
      exact ⟨hwakes, fun hentering hwake => hwakes.trans (State.wakeBy_leaves (.inr (.inl ⟨rfl, rfl⟩)) hwake hentering (by omega))⟩
  case retrain =>
    intro link s
    refine ⟨_, rfl, (lnkRetrainOp_keeps link s (m_ := 0x1800) (by decide) (.refl _ s)).only (by decide), lnkRetrainOp_idle, fun hup => ?_⟩
    rw [lnkRetrainOp_trains hup, State.link_linkTrain]
  case enable =>
    intro link val s
    refine ⟨_, rfl, (lnkEnableWriteOp_keeps link val s (m_ := 0x9800) (by decide) (.refl _ s)).only (by decide), lnkEnableWriteOp_beyond val, ?_⟩
    intro v hv hlink
    have hword : lnkCfgWord (s.reg (lnkCfg link)) val = v := hv.symm
    refine ⟨fun hval hidle => ?_, fun hval hdown hfenced => ?_, fun hval => ?_⟩
    · rw [lnkEnableWriteOp_disabled hlink hval, if_pos hidle.symm, hword]
    · rw [lnkEnableWriteOp_disabled hlink hval, if_neg (not_or.mpr ⟨hfenced, hdown⟩), State.link_linkDown]
      rfl
    · rw [lnkEnableWriteOp_enabled hlink hval, hword]
      have hsame : (s.setReg (lnkCfg link) v).link link = s.link link := State.link_of_net (State.setReg_net s _ _) link
      by_cases hretrain : val.bit 1 = true ∧ s.linkUp link = true
      · rw [if_pos hretrain, if_pos hretrain, State.link_linkTrain, State.reg_of_regs (State.linkTrain_regs _ _), State.reg_setReg_same, hsame]
        exact ⟨rfl, rfl⟩
      · rw [if_neg hretrain, if_neg hretrain, State.reg_setReg_same, hsame]
        exact ⟨rfl, rfl⟩

end Sys2Proof.Machine

/-! SUPPORT. The host's commands on gloves and frames (R426, R428, R429, R432, R514): the runs of frames that a command names, what each command does
in the state that has taken it, and O51. -/

namespace Sys2Proof.Machine

-- The threads of the whole text share one memory limit: these proofs take none of their own.
set_option Elab.async false

open Adr

namespace State

/-! Gloves (R426, R428, R429, R432). -/

theorem gloveCreateCmd_no_palms {s : State} {c : HostCmd} (hpalms : palmSet (c.a2 ++ c.a1) = []) (hrung : s.deepRungPends = false) :
    s.gloveCreateCmd c = s.refuse c stBound := by
  unfold gloveCreateCmd
  dsimp only
  rw [if_neg (by simp [hrung]), if_pos (.inl hpalms)]

/-- Glove `g` is the lowest that is free. -/
structure LowestFree (s : State) (g : Nat) : Prop where
  bound : g < 64
  live : (s.glove g).live = false
  draining : (s.glove g).draining = false
  below : ∀ h, h < g → (s.glove h).live = true ∨ (s.glove h).draining = true

theorem LowestFree.find {s : State} {g : Nat} (h : s.LowestFree g) :
    ((List.range 64).find? fun g => !(s.glove g).live && !(s.glove g).draining) = some g := by
  obtain ⟨hbound, hlive, hdraining, hbelow⟩ := h
  refine List.find?_range_eq_some.mpr ⟨by simp [hlive, hdraining], List.mem_range.mpr hbound, fun j hj => ?_⟩
  rcases hbelow j hj with h | h
  · simp [h]
  · simp [h]

/-- Every palm of the list is free and on a die in service. -/
def PalmsFree (s : State) (palms : List Nat) : Prop := ∀ p ∈ palms, (s.palm p).glove = none ∧ (s.palm p).causes = [] ∧ (s.die (p / 16)).bring = 4

theorem PalmsFree.find {s : State} {palms : List Nat} (h : s.PalmsFree palms) :
    (palms.find? fun p => (s.palm p).glove.isSome || (s.palm p).causes != [] || (s.die (p / 16)).bring != 4) = none := by
  refine List.find?_eq_none.mpr fun p hp => ?_
  obtain ⟨hglove, hcauses, hbring⟩ := h p hp
  simp [hglove, hcauses, hbring]

/-- Over free palms and an installed key, the lowest free glove is created with the sequencer chosen for it. -/
theorem gloveCreateCmd_creates {s : State} {c : HostCmd} {g q : Nat} (hrung : s.deepRungPends = false) (hpalms : palmSet (c.a2 ++ c.a1) ≠ [])
    (hvf : c.a3.field 8 7 = 0) (hg : s.LowestFree g) (hfree : s.PalmsFree (palmSet (c.a2 ++ c.a1)))
    (hkey : (s.keys.at (c.a3.field 0 8)).installed = true) (hq : s.chooseGsq (palmSet (c.a2 ++ c.a1)) = some q) :
    s.gloveCreateCmd c = (s.createGlove g q (c.a2 ++ c.a1) (c.a3.field 0 8) 0 (c.a4.field 0 24) (c.a4.field 24 8)).complete c stOK g := by
  unfold gloveCreateCmd
  dsimp only
  rw [if_neg (by simp [hrung]), if_neg (by simp [hpalms, hvf]), hg.find]
  dsimp only
  rw [hfree.find]
  dsimp only
  rw [if_neg (by simp [hkey]), if_pos hvf]
  dsimp only
  rw [hq, hvf]

theorem gloveDestroyCmd_busy {s : State} {c : HostCmd} (h : s.gloveCode (c.a1.field 0 6) = 3 ∨ s.gloveCode (c.a1.field 0 6) = 5) :
    s.gloveDestroyCmd c = s.gloveConflict c (c.a1.field 0 6) := if_pos h

theorem gloveDestroyCmd_named {s : State} {c : HostCmd} {i : Nat} (hrun : s.gloveCode (c.a1.field 0 6) ≠ 3)
    (hreset : s.gloveCode (c.a1.field 0 6) ≠ 5) (huser : s.gloveUser (c.a1.field 0 6) = some i) :
    s.gloveDestroyCmd c = s.refuseState c 2 (qcode (s.seqEnt i).st) (s.seqHandle i) := by
  unfold gloveDestroyCmd
  dsimp only
  rw [if_neg (not_or.mpr ⟨hrun, hreset⟩), huser]

/-- A glove that no sequence names is destroyed unless it serves. -/
theorem gloveDestroyCmd_unnamed {s : State} {c : HostCmd} (hrun : s.gloveCode (c.a1.field 0 6) ≠ 3) (hreset : s.gloveCode (c.a1.field 0 6) ≠ 5)
    (huser : s.gloveUser (c.a1.field 0 6) = none) :
    s.gloveDestroyCmd c =
      if s.serves (c.a1.field 0 6) then s.gloveConflict c (c.a1.field 0 6) else (s.destroyGlove (c.a1.field 0 6) c).finishDestroys := by
  unfold gloveDestroyCmd
  dsimp only
  rw [if_neg (not_or.mpr ⟨hrun, hreset⟩), huser]

/-- The command waits with the others of the reset that begins or is in progress. -/
theorem glove_gloveResetCmd (s : State) (c : HostCmd) : (s.gloveResetCmd c).glove (c.a1.field 0 6) =
    { (s.beginReset (c.a1.field 0 6) 6).glove (c.a1.field 0 6) with
      resetCmds := ((s.beginReset (c.a1.field 0 6) 6).glove (c.a1.field 0 6)).resetCmds ++ [c] } := glove_onGlv_same _ _ _

theorem beginReset_joins {s : State} {g : Nat} (cause : Nat) (h : (s.glove g).resetting = true) : s.beginReset g cause = s := if_pos (.inr h)

/-! Frames (R514). -/

theorem mem_frameRun {f n k : Nat} : k ∈ (List.range n).map (f + ·) ↔ f ≤ k ∧ k < f + n := by
  rw [List.mem_map]
  constructor
  · rintro ⟨i, hi, rfl⟩
    have := List.mem_range.mp hi
    omega
  · rintro ⟨hlo, hhi⟩
    exact ⟨k - f, List.mem_range.mpr (by omega), by omega⟩

/-- One update, which settles at once, made of every frame of a list. -/
theorem frame_foldl {β : Type} (l : List β) (key : β → Nat) {f : FrameSt → FrameSt} (hf : ∀ x, f (f x) = f x) {step : State → β → State}
    (hstep : ∀ t b, (step t b).mem = (t.onFrame (key b) f).mem) (s : State) (k : Nat) :
    (l.foldl step s).frame k = if k ∈ l.map key then f (s.frame k) else s.frame k := by
  have htmap := List.foldl_hom (fun u : State => u.mem.tmap) (g₁ := step) (g₂ := fun m b => m.upd (key b) f) (l := l) (init := s)
    fun t b => (congrArg MemBlk.tmap (hstep t b)).symm
  exact (congrArg (SMap.at · k) htmap.symm).trans (SMap.at_foldl_upd l key hf s.mem.tmap k)

theorem addKvFrame_mem (s : State) (g f : Nat) : (s.addKvFrame g f).mem = s.mem := (addKvFrame_keeps s g f (m_ := 0x800) (by decide) (.refl _ s)).mem

/-- A PRIVATE frame of glove `g` under a key. -/
def privFrame (g key : Nat) (x : FrameSt) : FrameSt := { x with mode := .priv, glove := g, key := key, readers := 0 }

/-- The `n` frames from `f` on become PRIVATE frames of the glove, and their pages free pages of it. -/
def allocFrames (s : State) (g f n : Nat) : State :=
  (List.range n).foldl (fun t i => (t.onFrame (f + i) (privFrame g (s.glove g).key)).addKvFrame g (f + i)) s

theorem frame_allocFrames (s : State) (g f n k : Nat) : (s.allocFrames g f n).frame k =
    if f ≤ k ∧ k < f + n then privFrame g (s.glove g).key (s.frame k) else s.frame k := by
  have hframe := frame_foldl (List.range n) (f + ·) (f := privFrame g (s.glove g).key) (fun _ => rfl)
    (step := fun t i => (t.onFrame (f + i) (privFrame g (s.glove g).key)).addKvFrame g (f + i)) (fun t i => addKvFrame_mem _ g (f + i)) s k
  simp only [mem_frameRun] at hframe
  exact hframe

theorem frameAllocCmd_bound {s : State} {c : HostCmd} (h : c.a2.field 0 12 = 0 ∨ 2048 < c.a2.field 0 12) : s.frameAllocCmd c = s.refuse c stBound :=
  if_pos h

/-- The lowest run of FREE frames where the command says. -/
def runFor (s : State) (c : HostCmd) : Option Nat :=
  s.freeRun (c.a2.field 0 12) fun f => (if c.a1.bit 6 then (s.frame f).stack else s.frameDie f) == c.a1.field 7 5

theorem frameAllocCmd_full {s : State} {c : HostCmd} (hpos : 1 ≤ c.a2.field 0 12) (hmax : c.a2.field 0 12 ≤ 2048) (hrun : s.runFor c = none) :
    s.frameAllocCmd c = s.refuse c stFull := by
  unfold runFor at hrun
  unfold frameAllocCmd
  dsimp only
  rw [if_neg (by omega), hrun]

theorem frameAllocCmd_allocates {s : State} {c : HostCmd} {f : Nat} (hpos : 1 ≤ c.a2.field 0 12) (hmax : c.a2.field 0 12 ≤ 2048)
    (hrun : s.runFor c = some f) : s.frameAllocCmd c = (s.allocFrames (c.a1.field 0 6) f (c.a2.field 0 12)).complete c stOK f := by
  unfold runFor at hrun
  unfold frameAllocCmd
  dsimp only
  rw [if_neg (by omega), hrun]
  rfl

/-- Among equals there is at most one owner. -/
theorem length_eraseDups_le_one {l : List Nat} {g : Nat} (h : ∀ x ∈ l, x = g) : l.eraseDups.length ≤ 1 := by
  cases l with
  | nil => exact Nat.zero_le _
  | cons a l =>
    have hrest : (l.filter fun b => !b == a) = [] := by
      refine List.filter_eq_nil_iff.mpr fun b hb => ?_
      simp [h a List.mem_cons_self, h b (List.mem_cons_of_mem a hb)]
    rw [List.eraseDups_cons, hrest]
    exact Nat.le_refl 1

theorem any_unowned_eq_false {s : State} {fs : List Nat} (h : ∀ k ∈ fs, (s.frame k).mode = .priv ∨ (s.frame k).mode = .shared) :
    (fs.any fun k => (s.frame k).mode != .priv && (s.frame k).mode != .shared) = false := by
  refine List.any_eq_false.mpr fun k hk => ?_
  rcases h k hk with h | h
  · simp [h]
  · simp [h]

theorem frameShareCmd_bound {s : State} {c : HostCmd} (h : c.a1.field 16 16 = 0 ∨ 65536 < c.a1.field 0 16 + c.a1.field 16 16) :
    s.frameShareCmd c = s.refuse c stBound := if_pos h

/-- The frames of a list become SHARED with the readers. -/
def shareFrames (s : State) (fs : List Nat) (readers : Word) : State :=
  fs.foldl (fun t k => t.onFrame k fun x => { x with mode := .shared, readers := readers }) s

theorem frame_shareFrames (s : State) (fs : List Nat) (readers : Word) (k : Nat) : (s.shareFrames fs readers).frame k =
    if k ∈ fs then { s.frame k with mode := .shared, readers := readers } else s.frame k := by
  have hframe := frame_foldl fs id (f := fun x => { x with mode := .shared, readers := readers }) (fun _ => rfl)
    (step := fun t k => t.onFrame k fun x => { x with mode := .shared, readers := readers }) (fun _ _ => rfl) s k
  rwa [List.map_id] at hframe

/-- PRIVATE frames of one glove and SHARED frames are shared. -/
theorem frameShareCmd_shares {s : State} {c : HostCmd} {f n g : Nat} (hf : f = c.a1.field 0 16) (hn : n = c.a1.field 16 16) (hpos : 1 ≤ n)
    (hfit : f + n ≤ 65536)
    (hown : ∀ k, f ≤ k → k < f + n → ((s.frame k).mode = .priv ∧ (s.frame k).glove = g) ∨ (s.frame k).mode = .shared) :
    s.frameShareCmd c = (s.shareFrames ((List.range n).map (f + ·)) c.a2).complete c stOK := by
  subst hf hn
  have hmem : ∀ k ∈ (List.range (c.a1.field 16 16)).map (c.a1.field 0 16 + ·),
      ((s.frame k).mode = .priv ∧ (s.frame k).glove = g) ∨ (s.frame k).mode = .shared := fun k hk => by
    obtain ⟨hlo, hhi⟩ := mem_frameRun.mp hk
    exact hown k hlo hhi
  have howners := length_eraseDups_le_one (g := g)
    (l := ((((List.range (c.a1.field 16 16)).map (c.a1.field 0 16 + ·)).filter fun k => (s.frame k).mode == .priv).map fun k => (s.frame k).glove))
    fun x hx => by
      obtain ⟨k, hk, rfl⟩ := List.mem_map.mp hx
      obtain ⟨hrun, hpriv⟩ := List.mem_filter.mp hk
      rcases hmem k hrun with ⟨-, hglove⟩ | hshared
      · exact hglove
      · simp [hshared] at hpriv
  unfold frameShareCmd
  dsimp only
  rw [if_neg (by omega), if_neg]
  · rfl
  · rintro (h | h)
    · omega
    · simp [any_unowned_eq_false fun k hk => (hmem k hk).imp_left And.left] at h

theorem frameFreeCmd_foreign {s : State} {c : HostCmd} {fs : List Nat} (hfs : fs = (List.range (c.a1.field 16 16)).map (c.a1.field 0 16 + ·))
    (hfit : c.a1.field 0 16 + c.a1.field 16 16 ≤ 65536) (hmode : ∀ k ∈ fs, (s.frame k).mode = .priv ∨ (s.frame k).mode = .shared)
    (h : ∃ k ∈ fs, (s.frame k).glove ≠ c.a1.field 32 6) : s.frameFreeCmd c = s.refuse c stOwner := by
  obtain ⟨k, hk, hglove⟩ := h
  unfold frameFreeCmd
  dsimp only
  rw [← hfs, any_unowned_eq_false hmode, if_neg (by simp; omega), if_pos]
  exact List.any_eq_true.mpr ⟨k, hk, by simpa using hglove⟩

/-- Frames of the glove that nothing holds are freed, all of them. -/
theorem frameFreeCmd_frees {s : State} {c : HostCmd} {fs : List Nat} (hfs : fs = (List.range (c.a1.field 16 16)).map (c.a1.field 0 16 + ·))
    (hfit : c.a1.field 0 16 + c.a1.field 16 16 ≤ 65536) (hmode : ∀ k ∈ fs, (s.frame k).mode = .priv ∨ (s.frame k).mode = .shared)
    (hown : ∀ k ∈ fs, (s.frame k).glove = c.a1.field 32 6 ∧ s.frameHeld k = false) :
    s.frameFreeCmd c = ((fs.foldl (fun t k => t.freeFrame k) s).framesFreed).complete c stOK := by
  have hglove : (fs.any fun k => (s.frame k).glove != c.a1.field 32 6) = false := List.any_eq_false.mpr fun k hk => by simp [(hown k hk).1]
  have hheld : (fs.any fun k => s.frameHeld k) = false := List.any_eq_false.mpr fun k hk => by simp [(hown k hk).2]
  unfold frameFreeCmd
  dsimp only
  rw [← hfs, any_unowned_eq_false hmode, if_neg (by simp; omega), hglove, if_neg (by decide), hheld, if_neg (by decide)]

theorem frame_complete (s : State) (c : HostCmd) (st r0 k : Nat) : (s.complete c st r0).frame k = s.frame k :=
  frame_of_mem (complete_keeps s c st r0 0 (m_ := 0x2A000) (by decide) (.refl _ s)).mem k

end State

/-- Settles O51: each command that passes its checks is its own operation in the state that has taken it, case by case. -/
theorem gloveAndFrameCommands : Obligations.GloveAndFrameCommands := by
  unfold Obligations.GloveAndFrameCommands
  refine ⟨?create, ?destroy, ?reset, ?alloc, ?share, ?free⟩
  case create =>
    intro c s
    refine ⟨_, rfl, (gloveCreateOp_keeps c s (m_ := 0x6A0B0) (by decide) (.refl _ s)).only (by decide), ?_⟩
    intro u haccepts hset
    have hop : gloveCreateOp c s = u.gloveCreateCmd c := State.command_acts_gloveless haccepts hset rfl
    rw [hop]
    refine ⟨State.gloveCreateCmd_no_palms, ?_⟩
    intro g q hrung hpalms hvf hbound hlive hdraining hbelow hfree hkey hq
    exact State.gloveCreateCmd_creates hrung hpalms hvf ⟨hbound, hlive, hdraining, hbelow⟩ hfree hkey hq
  case destroy =>
    intro c s
    refine ⟨_, rfl, (gloveDestroyOp_keeps c s (m_ := 0x2A8F0) (by decide) (.refl _ s)).only (by decide), ?_⟩
    intro u haccepts hset hlive
    have hop : gloveDestroyOp c s = u.gloveDestroyCmd c := State.command_acts haccepts hset rfl hlive
    rw [hop]
    refine ⟨State.gloveDestroyCmd_busy, fun hrun hreset => ⟨fun i => State.gloveDestroyCmd_named hrun hreset, fun huser hserves => ?_,
      fun huser hserves => ?_⟩⟩
    · exact (State.gloveDestroyCmd_unnamed hrun hreset huser).trans (if_pos hserves)
    · exact (State.gloveDestroyCmd_unnamed hrun hreset huser).trans (if_neg (by simp [hserves]))
  case reset =>
    intro c s
    refine ⟨_, rfl, (gloveResetOp_keeps c s (m_ := 0x6A8F0) (by decide) (.refl _ s)).only (by decide), ?_⟩
    intro u haccepts hset hlive
    have hop : gloveResetOp c s = u.gloveResetCmd c := State.command_acts haccepts hset rfl hlive
    rw [hop, State.glove_gloveResetCmd]
    refine ⟨?_, List.getLast?_concat, fun hresetting => ?_⟩
    · cases hresetting : (u.glove (c.a1.field 0 6)).resetting with
      | true => exact (congrArg (fun v : State => (v.glove _).resetting) (State.beginReset_joins 6 hresetting)).trans hresetting
      | false => exact (State.beginReset_begins 6 hlive hresetting).1
    · obtain ⟨-, hfaulted, hcause, -⟩ := State.beginReset_begins 6 hlive hresetting
      exact ⟨hcause, hfaulted⟩
  case alloc =>
    intro c s
    refine ⟨_, rfl, (frameAllocOp_keeps c s (m_ := 0x2A840) (by decide) (.refl _ s)).only (by decide), ?_⟩
    intro u haccepts hset hlive
    have hop : frameAllocOp c s = u.frameAllocCmd c := State.command_acts haccepts hset rfl hlive
    rw [hop]
    refine ⟨State.frameAllocCmd_bound, ?_⟩
    rintro hpos hmax o rfl
    refine ⟨State.frameAllocCmd_full hpos hmax, fun f hrun => ?_⟩
    rw [State.frameAllocCmd_allocates hpos hmax hrun]
    refine ⟨⟨_, rfl⟩, fun k => ?_⟩
    rw [State.frame_complete, State.frame_allocFrames]
    rfl
  case share =>
    intro c s
    refine ⟨_, rfl, (frameShareOp_keeps c s (m_ := 0x2A040) (by decide) (.refl _ s)).only (by decide), ?_⟩
    intro u haccepts hset f n hf hn
    have hop : frameShareOp c s = u.frameShareCmd c := State.command_acts_gloveless haccepts hset rfl
    rw [hop]
    refine ⟨fun h => State.frameShareCmd_bound (hf ▸ hn ▸ h), fun g hpos hfit hown => ?_⟩
    rw [State.frameShareCmd_shares hf hn hpos hfit hown]
    refine ⟨⟨_, rfl⟩, fun k => ?_⟩
    rw [State.frame_complete, State.frame_shareFrames]
    simp only [State.mem_frameRun]
  case free =>
    intro c s
    refine ⟨_, rfl, (frameFreeOp_keeps c s (m_ := 0x2A840) (by decide) (.refl _ s)).only (by decide), ?_⟩
    intro u haccepts hset hlive f n g fs hf hn hg hfs hfit hmode
    have hop : frameFreeOp c s = u.frameFreeCmd c := State.command_acts haccepts hset rfl hlive
    subst hf hn hg
    rw [hop]
    exact ⟨State.frameFreeCmd_foreign hfs hfit hmode, State.frameFreeCmd_frees hfs hfit hmode⟩

end Sys2Proof.Machine

/-! SUPPORT. Commands and operations that name a glove in state FREE (R599, R636): the refusal of a host command, the answer of the AOS's FENCE, and
O55. -/

namespace Sys2Proof.Machine

-- The threads of the whole text share one memory limit: these proofs take none of their own.
set_option Elab.async false

open Adr

namespace State

/-- A command of the physical function that names glove `g` in state FREE is refused for it in the state that has taken it (R636). -/
theorem command_free_glove {s u : State} {c : HostCmd} {row : CmdRow} {f : HostCmd → State → State} {g : Nat}
    (haccepts : s.Accepts c row.op row.masks u) (hset : row.set u = true) (hglove : row.glove.map (fun name => name c) = some g)
    (hfree : (u.glove g).live = false) : s.command c row f = u.refuseState c 1 0 g := by
  obtain ⟨rfl, hfunc, hmasks⟩ := haccepts
  obtain ⟨name, hname, rfl⟩ := Option.map_eq_some_iff.mp hglove
  unfold command
  dsimp only
  rw [if_neg (by simp [hmasks]), if_neg (by simp [hfunc]), if_pos hfunc]
  dsimp only
  rw [if_neg (by simp [hset]), hname]
  exact if_pos (.inl hfree)

/-- An admission to a glove in state FREE is refused for its owner (R357, R636). -/
theorem admitTo_free_glove {s : State} {c : HostCmd} (r1 : Nat) (hset : s.inS = true) (hfree : (s.glove (c.a1.field 0 6)).live = false) :
    s.admitTo c r1 = s.refuse c stOwner := admitTo_refused r1 hset (admitCheck_free hfree)

/-- A permitted operation over SMBus wakes the module, acts, and answers its status (R450, R599). -/
theorem aosOp_smbus {s v : State} {op st : Nat} {destructive : Bool} {f : State → Option (State × Nat)} (hup : s.sidebandUp = true)
    (hops : (s.wakeBy .smbus).fld rasCtl 1 1 = 1) (hacts : f (s.wakeBy .smbus) = some (v, st)) :
    s.aosOp true op destructive f = v.aosAnswer op st := by
  unfold aosOp
  rw [if_neg (by simp [hup]), if_neg (by decide)]
  dsimp only
  rw [if_neg (by simp [hops]), hacts]

/-- A program of the AOS acts without an answer. -/
theorem aosOp_program {s v : State} {op st : Nat} {destructive : Bool} {f : State → Option (State × Nat)} (hup : s.sidebandUp = true)
    (hacts : f s = some (v, st)) : s.aosOp false op destructive f = v := by
  unfold aosOp
  rw [if_neg (by simp [hup]), if_pos rfl, hacts]

theorem fenceOp_free_glove {s : State} {g : Nat} (hg : g < 64) (hfree : (s.glove g).live = false) : s.fenceOp 2 g = some (s, stConflict) :=
  (if_neg (Nat.not_le.mpr hg)).trans (if_pos hfree)

end State

/-- Settles O55: the thirteen commands whose rows name a glove by one refusal, ADMIT by its own check, FENCE by its third kind. -/
theorem freeGlovesAreRefused : Obligations.FreeGlovesAreRefused := by
  unfold Obligations.FreeGlovesAreRefused
  refine ⟨?_, ?_, ?_, ?_, ?_, ?_, ?_, ?_, ?_, ?_, ?_, ?_, ?_, ?admission, ?fence⟩
  case admission =>
    intro c s u haccepts hset hfree
    have hop : admitSeqOp c s = u.admitTo c 0 := State.command_acts_gloveless haccepts rfl rfl
    exact congrArg Host.Outcome.next (hop.trans (State.admitTo_free_glove 0 hset hfree))
  case fence =>
    rintro smbus idx s u hup hidx rfl
    refine ⟨?_, ?_⟩
    · rintro rfl hops hfree
      exact congrArg Host.Outcome.next (State.aosOp_smbus hup hops (State.fenceOp_free_glove hidx hfree))
    · rintro rfl hfree
      exact congrArg Host.Outcome.next (State.aosOp_program hup (State.fenceOp_free_glove hidx hfree))
  all_goals
    intro c s u haccepts hset hfree
    exact congrArg Host.Outcome.next (State.command_free_glove haccepts hset rfl hfree)

end Sys2Proof.Machine

/-! SUPPORT. Requests over SMBus, telemetry records and alerts (R518 to R521, R588, R589): what a request answers once the module is awake, what a
refresh stores, and O57. -/

namespace Sys2Proof.Machine

-- The threads of the whole text share one memory limit: these proofs take none of their own.
set_option Elab.async false

open Adr

theorem length_toBytes (n k : Nat) : (toBytes n k).length = k := by
  induction k generalizing n with
  | zero => rfl
  | succ k ih => exact congrArg (· + 1) (ih (n / 256))

namespace State

/-! Requests (R450, R518). -/

theorem request_silent {s : State} {f : State → State} (h : s.sidebandUp = false) : s.request f = s := if_neg (by simp [h])

theorem request_wakes {s : State} {f : State → State} (h : s.sidebandUp = true) : s.request f = f (s.wakeBy .smbus) := if_pos h

/-- A response whose last `n` bytes the spec leaves open. -/
theorem respondOpen_out (s : State) (pre : List Byte) (n : Nat) :
    ∃ l : List Byte, l.length = n ∧ (s.respondOpen pre n).out = .smbus (pre ++ l) :: s.out :=
  ⟨_, length_toBytes _ n, rfl⟩

/-! Records (R520, R521). -/

/-- A record begins with its ID, and holds the tick after its length. -/
theorem recordNow_heads (s : State) (vcore : List Nat) (i : Nat) :
    (s.recordNow vcore i).take 1 = toBytes i 1 ∧ ((s.recordNow vcore i).drop 2).take 4 = toBytes s.tick.tick 4 := ⟨rfl, rfl⟩

/-- What each rail meter gained since the last refresh, in µJ. -/
def meterGains (s : State) : List Nat := s.railMeters.zipIdx.map fun p => p.1 - s.host.mtrLast.getD p.2 0

/-- The power of the last 1 ms, in W. -/
def gainedW (s : State) : Nat := s.meterGains.foldl (· + ·) 0 / 1000

/-- The state with the meters read anew. -/
def metered (s : State) : State :=
  s.onHost fun h => { h with mtrLast := s.railMeters, powerW := s.gainedW, energyJ := s.railMeters.foldl (· + ·) 0 / 1000000 }

/-- The metered state with one record per ID. -/
def recorded (s : State) : State :=
  s.metered.onHost fun h => { h with records := s.recordIds.map fun i => (i, s.metered.recordNow ((s.meterGains.drop 3).map (· / 1000)) i) }

/-- A refresh meters, records, and alerts when the last millisecond went above the envelope. -/
theorem refreshRecords_eq (s : State) : s.refreshRecords = if s.gainedW > s.prof 0 0 13 then s.recorded.alert 3 else s.recorded := rfl

theorem refreshRecords_host (s : State) : s.refreshRecords.host = s.recorded.host := by
  rw [refreshRecords_eq]
  split
  · rfl
  · rfl

theorem refreshRecords_ids (s : State) : s.refreshRecords.host.records.map (·.1) = s.recordIds := by
  rw [refreshRecords_host]
  exact (List.map_map ..).trans (List.map_id _)

/-- Each record stored begins with its ID and holds the tick of the refresh. -/
theorem refreshRecords_heads (s : State) : ∀ p ∈ s.refreshRecords.host.records,
    p.2.take 1 = toBytes p.1 1 ∧ (p.2.drop 2).take 4 = toBytes s.tick.tick 4 := by
  rw [refreshRecords_host]
  intro p hp
  obtain ⟨i, -, rfl⟩ := List.mem_map.mp hp
  exact s.metered.recordNow_heads _ i

theorem flag_alert (s : State) {b : Nat} (hb : b < 64) : (s.alert b).flag hifAlert b = true := by
  have hword : (s.alert b).reg hifAlert = (s.reg hifAlert).setField b 1 1 := reg_setReg_same s _ _
  change ((s.alert b).reg hifAlert).toNat.testBit b = true
  rw [hword, Word.testBit_setField _ _ _ _ _ (by omega), if_pos (by omega), Nat.sub_self]
  rfl

/-- A last millisecond above the envelope raises its alert. -/
theorem refreshRecords_alert {s : State} (h : s.prof 0 0 13 < s.refreshRecords.host.powerW) : s.refreshRecords.flag hifAlert 3 = true := by
  rw [refreshRecords_host] at h
  have habove : s.gainedW > s.prof 0 0 13 := h
  rw [refreshRecords_eq, if_pos habove]
  exact s.recorded.flag_alert (by decide)

end State

/-- Settles O57: each request is its own answer in the awake state, and a refresh stores what the records then read. -/
theorem sidebandRequests : Obligations.SidebandRequests := by
  unfold Obligations.SidebandRequests
  refine ⟨?setEid, ?getEid, ?version, ?types, ?vendor, ?record, ?alerts, ?mask, ?address, ?refresh⟩
  case setEid =>
    intro eid s
    refine ⟨_, rfl, (setEndpointIdOp_keeps eid s (m_ := 0x6FAF9) (by decide) (.refl _ s)).only (by decide), State.request_silent, ?_⟩
    rintro v hup rfl
    have hop : setEndpointIdOp eid s = _ := State.request_wakes hup
    rw [hop]
    refine ⟨fun hbad => if_pos hbad, fun h0 hff => ?_⟩
    rw [if_neg (not_or.mpr ⟨h0, hff⟩)]
    exact ⟨rfl, rfl⟩
  case getEid =>
    intro s
    refine ⟨_, rfl, (getEndpointIdOp_keeps s (m_ := 0x6FAF9) (by decide) (.refl _ s)).only (by decide), State.request_silent, ?_⟩
    rintro v hup rfl
    exact congrArg State.out (State.request_wakes hup)
  case version =>
    intro type s
    refine ⟨_, rfl, (getMctpVersionSupportOp_keeps type s (m_ := 0x6FAF9) (by decide) (.refl _ s)).only (by decide), State.request_silent, ?_⟩
    rintro v hup rfl
    have hop : getMctpVersionSupportOp type s = _ := State.request_wakes hup
    rw [hop]
    refine ⟨fun hff h0 h7e => ?_, fun hknown => ?_⟩
    · rw [if_neg (not_or.mpr ⟨hff, not_or.mpr ⟨h0, h7e⟩⟩)]
      rfl
    · rw [if_pos hknown]
      exact State.respondOpen_out _ _ 4
  case types =>
    intro s
    refine ⟨_, rfl, (getMessageTypeSupportOp_keeps s (m_ := 0x6FAF9) (by decide) (.refl _ s)).only (by decide), State.request_silent, ?_⟩
    rintro v hup rfl
    exact congrArg State.out (State.request_wakes hup)
  case vendor =>
    intro sel s
    refine ⟨_, rfl, (getVendorDefinedMessageSupportOp_keeps sel s (m_ := 0x6FAF9) (by decide) (.refl _ s)).only (by decide), State.request_silent,
      ?_⟩
    rintro v hup rfl
    have hop : getVendorDefinedMessageSupportOp sel s = _ := State.request_wakes hup
    rw [hop]
    refine ⟨fun hother => ?_, fun hfirst => ?_⟩
    · rw [if_neg hother]
      rfl
    · rw [if_pos hfirst]
      exact State.respondOpen_out _ _ 2
  case record =>
    intro ident s
    refine ⟨_, rfl, (getRecordOp_keeps ident s (m_ := 0x6FAF9) (by decide) (.refl _ s)).only (by decide), State.request_silent, ?_⟩
    rintro v hup rfl
    have hop : getRecordOp ident s = _ := State.request_wakes hup
    rw [hop]
    refine ⟨fun habsent => if_pos habsent, fun p hpresent hfind => ?_⟩
    dsimp only
    rw [if_neg (ne_false_of_eq_true hpresent), hfind]
    rfl
  case alerts =>
    intro events s
    refine ⟨_, rfl, (getAlertsOp_keeps events s (m_ := 0x6FAF9) (by decide) (.refl _ s)).only (by decide), State.request_silent, ?_⟩
    rintro v hup rfl
    have hop : getAlertsOp events s = _ := State.request_wakes hup
    rw [hop]
    exact ⟨State.reg_setReg_same _ _ _, fun a ha => State.reg_setReg_other _ _ ha, rfl⟩
  case mask =>
    intro mask s
    refine ⟨_, rfl, (setAlertMaskOp_keeps mask s (m_ := 0x6FAF9) (by decide) (.refl _ s)).only (by decide), State.request_silent, ?_⟩
    rintro v hup rfl
    have hop : setAlertMaskOp mask s = _ := State.request_wakes hup
    rw [hop]
    exact ⟨State.reg_setReg_same _ _ _, fun a ha => State.reg_setReg_other _ _ ha, rfl⟩
  case address =>
    intro addr s
    refine ⟨_, rfl, (smbusAddressResolutionOp_keeps addr s (m_ := 0x6FAF9) (by decide) (.refl _ s)).only (by decide), State.request_silent, ?_⟩
    rintro v hup rfl
    exact State.request_wakes hup
  case refresh =>
    intro s
    have hkeeps := recordRefreshOp_keeps s (m_ := 0xA000) (by decide) (.refl _ s)
    refine ⟨_, rfl, hkeeps.only (by decide), fun hsilent => if_neg (by simp [hsilent]), fun hup => ?_, fun hup => ?_⟩
    · have hop : recordRefreshOp s = s.refreshRecords := if_pos hup
      rw [hop] at hkeeps ⊢
      exact ⟨s.refreshRecords_ids, s.refreshRecords_heads, congrArg HostBlk.mtrLast s.refreshRecords_host, hkeeps.tick, hkeeps.stw, hkeeps.glv⟩
    · have hop : recordRefreshOp s = s.refreshRecords := if_pos hup
      rw [hop]
      exact State.refreshRecords_alert

end Sys2Proof.Machine

/-! SUPPORT. The ledger period, grants and demands (R439 to R443, R483, R484), and O42. -/

namespace Sys2Proof.Machine

-- The threads of the whole text share one memory limit: these proofs take none of their own.
set_option Elab.async false

open Adr

namespace State

/-! What of the ledger the charges of a period leave: all but the estimates charged on the dies (R441, R442). -/

/-- From `s` to `t` the ledger stays but for its estimates. -/
def LedgerButEst (s t : State) : Prop := t.ledger = { s.ledger with est := t.ledger.est }

namespace LedgerButEst

theorem of_ledger {s t : State} (h : t.ledger = s.ledger) : s.LedgerButEst t := by
  unfold LedgerButEst
  rw [h]

theorem trans {s t u : State} (h : s.LedgerButEst t) (h' : t.LedgerButEst u) : s.LedgerButEst u := by
  unfold LedgerButEst at h h' ⊢
  rw [h', h]

theorem foldl {α : Type} {f : State → α → State} (hf : ∀ (u : State) x, u.LedgerButEst (f u x)) (l : List α) (s : State) :
    s.LedgerButEst (l.foldl f s) := by
  induction l generalizing s with
  | nil => exact of_ledger rfl
  | cons x l ih => exact (hf s x).trans (ih _)

end LedgerButEst

theorem addEst_ledgerButEst (s : State) (i : ImgInfo) (raw : Nat) : s.LedgerButEst (s.addEst i raw) := rfl

theorem chargeContinuing_ledgerButEst (s : State) : s.LedgerButEst s.chargeContinuing := by
  unfold chargeContinuing
  refine .trans (.trans (.foldl (fun u g => ?calibrates) _ s) (.foldl (fun u g => ?begins) _ _)) (.foldl (fun u g => ?charges) _ _)
  case calibrates => exact .of_ledger (updateCf_keeps u g (m_ := 0x80) (by decide) (.refl _ u)).ledger
  case begins => exact .of_ledger (startWindow_keeps u g _ (m_ := 0x20) (by decide) (.refl _ u)).ledger
  case charges => exact .trans (.of_ledger (charge_keeps u g _ (m_ := 0x8080) (by decide) (.refl _ u)).ledger) (addEst_ledgerButEst _ _ _)

/-! The meters are read first (R440). -/

/-- The state once the meters of a period have been read. -/
def periodMetered (s : State) (m : Meters) : State :=
  (((s.count tkeMtrHbm m.hbm).count tkeMtrIod m.iod).count tkeMtrOth m.oth).readVcore m.vcore

theorem periodMetered_keeps (s : State) (m : Meters) : State.Keeps 0x8000 s (s.periodMetered m) :=
  readVcore_keeps _ _ (by decide) (count_keeps _ _ _ (by decide) (count_keeps _ _ _ (by decide) (count_keeps _ _ _ (by decide) (.refl _ s))))

theorem readVcore_reg (s : State) (v : List Nat) {a : Nat} (h : ∀ k, a ≠ tkeMtr k) : (s.readVcore v).reg a = s.reg a :=
  List.foldlRecOn (motive := fun t : State => t.reg a = s.reg a) _ _ rfl fun _ ht k _ => (reg_count_other _ _ (h k)).trans ht

/-- The registers below the meters: TKE_ALLOW, TKE_LCFG and TKE_FALLBACK among them. -/
theorem periodMetered_reg (s : State) (m : Meters) {a : Nat} (h : a < tkeMtrHbm) : (s.periodMetered m).reg a = s.reg a := by
  unfold tkeMtrHbm at h
  unfold periodMetered
  rw [readVcore_reg _ _ fun k => by unfold tkeMtr; omega, reg_count_other _ _ (by unfold tkeMtrOth; omega),
    reg_count_other _ _ (by unfold tkeMtrIod; omega), reg_count_other _ _ (by unfold tkeMtrHbm; omega)]

theorem periodMetered_fld (s : State) (m : Meters) {a : Nat} (h : a < tkeMtrHbm) (lo n : Nat) : (s.periodMetered m).fld a lo n = s.fld a lo n :=
  congrArg (Word.field · lo n) (periodMetered_reg s m h)

theorem ledgerTick_of {s t : State} (hledger : t.ledger = s.ledger) (htick : t.tick = s.tick) : t.ledgerTick = s.ledgerTick := by
  unfold ledgerTick
  rw [hledger, htick]

theorem periodMetered_ledgerTick (s : State) (m : Meters) : (s.periodMetered m).ledgerTick = s.ledgerTick :=
  ledgerTick_of (s.periodMetered_keeps m).ledger (s.periodMetered_keeps m).tick

theorem prof_of_aos {s t : State} (h : t.aos = s.aos) (w lo n : Nat) : t.prof w lo n = s.prof w lo n := by
  unfold prof areaWord
  rw [h]

/-! The allowance of a period (R439). -/

theorem takeGrant_fixed {s : State} (h : s.fld tkeLcfg 20 1 = 1) : s.takeGrant = s.onLedger fun l => { l with inForce := s.fld tkeAllow 0 32 } := by
  unfold takeGrant
  exact if_pos h

theorem takeGrant_arrived {s : State} {g : Nat × Nat} (h : s.fld tkeLcfg 20 1 ≠ 1)
    (hg : s.ledger.grants.find? (fun g => g.1 == s.ledgerTick) = some g) :
    s.takeGrant.ledger =
      { s.ledger with inForce := g.2, last := some (s.ledgerTick, g.2), grants := s.ledger.grants.filter fun x => x.1 > s.ledgerTick } := by
  unfold takeGrant
  simp [h, hg]

/-- With no grant for the tick, and none before it that the hold-over still carries. -/
theorem takeGrant_fallback {s : State} (h : s.fld tkeLcfg 20 1 ≠ 1) (hg : s.ledger.grants.find? (fun g => g.1 == s.ledgerTick) = none)
    (hlast : ∀ l, s.ledger.last = some l → s.fld tkeLcfg 21 16 < s.ledgerTick - l.1) :
    s.takeGrant.ledger.inForce = s.fld tkeFallback 0 32 := by
  unfold takeGrant
  simp only [h, hg, if_false]
  cases hl : s.ledger.last with
  | none => rfl
  | some l =>
    have hover := hlast l hl
    dsimp only
    rw [if_neg (by omega)]
    rfl

/-! The period (R440). -/

/-- The ledger's own part leaves the allowance that it has taken, with A, the tick and the estimates written beside it. -/
theorem ledgerActs_ledger (s : State) (m : Meters) :
    ∃ (b : Nat) (est : List Nat), (s.ledgerActs m).ledger =
      { (s.periodMetered m).takeGrant.ledger with
        a := min (1000 * (s.periodMetered m).takeGrant.ledger.inForce) (s.prof 0 0 13 * s.tick.n / 100) / 1000, b := b,
        lastTick := some s.ledgerTick, est := est } := by
  have hk : State.Keeps 0x8100 s (s.periodMetered m).takeGrant := takeGrant_keeps _ (by decide) ((s.periodMetered_keeps m).mono (by decide))
  unfold ledgerActs
  extract_lets s1 n a b s2 s3
  have h2 : s2.ledger = { s1.ledger with a := a / 1000, b := b / 1000, lastTick := some s.ledgerTick } :=
    (shareOut_keeps _ _ (m_ := 0x80) (by decide) (.refl _ _)).ledger
  have h3 : s3.ledger = { s2.ledger with est := s3.ledger.est } := chargeContinuing_ledgerButEst s2
  have ha : a = min (1000 * s1.ledger.inForce) (s.prof 0 0 13 * s.tick.n / 100) := by
    rw [← prof_of_aos hk.aos, ← hk.tick]
    rfl
  refine ⟨b / 1000, s3.ledger.est, Eq.trans ?rung (h3.trans (by rw [h2, ha]; rfl))⟩
  case rung =>
    split
    · split
      · exact raise_ledger _ _ _ _
      · rfl
    · split
      · exact (applyAllHeld_keeps _ (m_ := 0x8008) (by decide) (.refl _ _)).ledger
      · rfl

end State

/-- At its turn a period leaves the ledger that its own part has written: a demand, the pool and the builds do not touch it. -/
theorem ledgerPeriodOp_ledger {s : State} (m : Meters) (h : s.turn .ledger = true) : (ledgerPeriodOp m s).ledger = (s.ledgerActs m).ledger := by
  have hk : ∀ (u : State) (b : Nat), State.Keeps 0x6D8E8 u (u.dispatch.sendDemand b).trimPool.buildAll := fun u b =>
    State.buildAll_keeps _ (by decide) (State.trimPool_keeps _ (by decide)
      (State.sendDemand_keeps _ _ (by decide) (State.dispatch_keeps _ (by decide) (.refl _ u))))
  unfold ledgerPeriodOp
  rw [if_neg (by simp [h])]
  exact (hk _ _).ledger

/-! A grant that arrives (R439, R484). -/

theorem seeEpoch_older {s : State} {e : Word} (h : e.toNat < (s.reg mgrEpoch).toNat) : s.seeEpoch e = (s.raise mgrEvt 2, false) := by
  unfold State.seeEpoch
  exact if_pos h

theorem seeEpoch_newest {s : State} {e : Word} (h : (s.reg mgrEpoch).toNat ≤ e.toNat) : s.seeEpoch e = (s.setReg mgrEpoch e, true) := by
  unfold State.seeEpoch
  exact if_neg (Nat.not_lt.mpr h)

theorem grantReceivedOp_older {s : State} (tick : Word) (mj : Nat) {epoch : Word} (h : epoch.toNat < (s.reg mgrEpoch).toNat) :
    grantReceivedOp tick mj epoch s = s.raise mgrEvt 2 := by
  unfold grantReceivedOp
  rw [seeEpoch_older h]
  exact if_pos (.inl rfl)

/-- A grant under a grant's allowance: a late one renews the hold-over alone, another waits for its tick. -/
theorem grantReceivedOp_taken {s : State} (tick : Word) (mj : Nat) {epoch : Word} (h : (s.reg mgrEpoch).toNat ≤ epoch.toNat)
    (hfixed : s.fld tkeLcfg 20 1 ≠ 1) :
    grantReceivedOp tick mj epoch s =
      if tick.toNat < s.tick.tick ∨ (tick.toNat = s.tick.tick ∧ s.ledger.lastTick = some tick.toNat) then
        (s.setReg mgrEpoch epoch).onLedger fun l =>
          { l with last := match l.last with | some x => if x.1 ≥ tick.toNat then l.last else some (tick.toNat, mj) | none => some (tick.toNat, mj) }
      else (s.setReg mgrEpoch epoch).onLedger fun l => { l with grants := (l.grants.filter fun g => g.1 ≠ tick.toNat) ++ [(tick.toNat, mj)] } := by
  have hfld : (s.setReg mgrEpoch epoch).fld tkeLcfg 20 1 ≠ 1 := by
    unfold State.fld at hfixed ⊢
    rwa [State.reg_setReg_other _ _ (by decide)]
  unfold grantReceivedOp
  rw [seeEpoch_newest h]
  exact if_neg (by simp [hfld])

/-! Grants computed (R483). -/

theorem State.worker_onWorker_same (s : State) (p : Nat) (f : WrkSt → WrkSt) : (s.onWorker p f).worker p = f (s.worker p) :=
  SMap.at_upd_same _ _ _

/-- One module's grant: it is set down for its position, whose demand is over, and goes to the own ledger or out to the module. -/
def State.grantTo (s t : State) (x : Nat × Nat) : State :=
  let u := t.onWorker x.1 fun w => { w with grant := x.2, demand := none }
  if x.1 = s.net.pos then
    u.onLedger fun l => { l with grants := (l.grants.filter fun y => y.1 ≠ s.tick.tick + 1) ++ [(s.tick.tick + 1, x.2)] }
  else u.emit (.grant (s.worker x.1).node (s.tick.tick + 1) x.2 (s.reg mgrEpoch))

theorem grantComputationOp_idle {s : State} (h : s.net.role ≠ 1 ∨ s.tick.phase < s.fld mgrCfg 8 20 ∨ s.net.grantTick = some s.tick.tick) :
    grantComputationOp s = s := by
  unfold grantComputationOp
  exact if_pos h

theorem grantComputationOp_grants {s : State} (hrole : s.net.role = 1) (hphase : s.fld mgrCfg 8 20 ≤ s.tick.phase)
    (honce : s.net.grantTick ≠ some s.tick.tick) :
    grantComputationOp s = (s.grants.foldl s.grantTo s).onNet fun b => { b with grantTick := some s.tick.tick } := by
  unfold grantComputationOp
  rw [if_neg (by rintro (h | h | h); exacts [h hrole, absurd h (Nat.not_lt.mpr hphase), honce h])]
  rfl

theorem State.grantTo_worker (s t : State) (p mj : Nat) : (s.grantTo t (p, mj)).worker p = { t.worker p with grant := mj, demand := none } := by
  have h := t.worker_onWorker_same p fun w => { w with grant := mj, demand := none }
  unfold State.grantTo
  split <;> exact h

theorem State.grantTo_own {s : State} (t : State) {p : Nat} (mj : Nat) (h : p = s.net.pos) :
    (s.grantTo t (p, mj)).ledger.grants = (t.ledger.grants.filter fun y => y.1 ≠ s.tick.tick + 1) ++ [(s.tick.tick + 1, mj)] := by
  unfold State.grantTo
  rw [if_pos h]
  rfl

theorem State.grantTo_out {s : State} (t : State) {p : Nat} (mj : Nat) (h : p ≠ s.net.pos) :
    (s.grantTo t (p, mj)).out = .grant (s.worker p).node (s.tick.tick + 1) mj (s.reg mgrEpoch) :: t.out := by
  unfold State.grantTo
  rw [if_neg h]
  rfl

/-! Demands (R483). -/

theorem demandReceivedOp_unknown {node : Nat} {s : State} (tick : Word) (mj envJ : Nat)
    (h : s.net.workers.find? (fun p => p.2.node == node && (p.2.st == 1 || p.2.st == 2)) = none) : demandReceivedOp node tick mj envJ s = s := by
  unfold demandReceivedOp
  rw [h]

theorem demandReceivedOp_ignored {s : State} (node : Nat) {tick : Word} (mj envJ : Nat)
    (h : s.net.role ≠ 1 ∨ tick.toNat ≠ s.tick.tick + 1 ∨ s.net.grantTick = some s.tick.tick) : demandReceivedOp node tick mj envJ s = s := by
  unfold demandReceivedOp
  split
  · rfl
  · exact if_pos h

theorem demandReceivedOp_kept {node : Nat} {tick : Word} (mj envJ : Nat) {s : State} {p : Nat × WrkSt} (hrole : s.net.role = 1)
    (htick : tick.toNat = s.tick.tick + 1) (honce : s.net.grantTick ≠ some s.tick.tick)
    (h : s.net.workers.find? (fun p => p.2.node == node && (p.2.st == 1 || p.2.st == 2)) = some p) :
    demandReceivedOp node tick mj envJ s = s.onWorker p.1 fun w => { w with demand := some mj, envJ := envJ } := by
  unfold demandReceivedOp
  rw [h]
  exact if_neg (by rintro (h | h | h); exacts [h hrole, h htick, honce h])

/-- Settles O42, each of the four operations by its cases: what follows the taking of a period's allowance leaves the allowance and the grants. -/
theorem energyLedgerAndGrants : Obligations.EnergyLedgerAndGrants := by
  refine ⟨fun m s => ?period, fun tick mj epoch s => ?grant, fun s => ?computation, fun node tick mj envJ s => ?demand⟩
  case period =>
    refine ⟨_, rfl, (ledgerPeriodOp_keeps m s (m_ := 0x6DBE8) (by decide) (.refl _ s)).only (by decide), fun h => if_pos h, fun hturn => ?_⟩
    obtain ⟨b, est, hledger⟩ := s.ledgerActs_ledger m
    have hmetered := (s.periodMetered_keeps m).ledger
    have htick := s.periodMetered_ledgerTick m
    have hcfg := s.periodMetered_fld m (a := tkeLcfg) (by decide)
    rw [ledgerPeriodOp_ledger m hturn, hledger]
    refine ⟨rfl, rfl, fun hfixed => ?fixed, fun g hgrant hfind => ?arrived, fun hgrant hfind hover => ?fallback⟩
    case fixed =>
      rw [State.takeGrant_fixed ((hcfg 20 1).trans hfixed), s.periodMetered_fld m (by decide)]
      exact ⟨rfl, (congrArg LedgerSt.grants hmetered :)⟩
    case arrived =>
      have h := State.takeGrant_arrived (s := s.periodMetered m) (by rwa [hcfg]) (by rwa [hmetered, htick])
      exact ⟨congrArg LedgerSt.inForce h, htick ▸ congrArg LedgerSt.last h⟩
    case fallback =>
      have h := State.takeGrant_fallback (s := s.periodMetered m) (by rwa [hcfg]) (by rwa [hmetered, htick]) (by rwa [hmetered, htick, hcfg])
      exact h.trans (s.periodMetered_fld m (by decide) 0 32)
  case grant =>
    refine ⟨_, rfl, (grantReceivedOp_keeps tick mj epoch s (m_ := 0x8100) (by decide) (.refl _ s)).only (by decide),
      fun hold => grantReceivedOp_older tick mj hold, fun hnew hgrant => ?_⟩
    rw [grantReceivedOp_taken tick mj hnew hgrant]
    refine ⟨?epoch, fun hcome => ?come, fun hlate => ?late⟩
    case epoch => split <;> exact s.reg_setReg_same mgrEpoch epoch
    case come =>
      rw [if_neg (by omega)]
      rfl
    case late =>
      rw [if_pos (.inl hlate)]
      exact ⟨rfl, rfl⟩
  case computation =>
    refine ⟨_, rfl, (grantComputationOp_keeps s (m_ := 0x21100) (by decide) (.refl _ s)).only (by decide), grantComputationOp_idle,
      fun hrole hphase honce => ?_⟩
    rw [grantComputationOp_grants hrole hphase honce]
    refine ⟨rfl, fun p mj hgrants => ?_⟩
    rw [hgrants]
    have hworker := s.grantTo_worker s p mj
    exact ⟨congrArg WrkSt.grant hworker, congrArg WrkSt.demand hworker, State.grantTo_own s mj, State.grantTo_out s mj⟩
  case demand =>
    refine ⟨_, rfl, (demandReceivedOp_keeps node tick mj envJ s (m_ := 0x1000) (by decide) (.refl _ s)).only (by decide),
      demandReceivedOp_ignored node mj envJ, fun hrole htick honce => ⟨demandReceivedOp_unknown tick mj envJ, fun p hfind => ?_⟩⟩
    exact demandReceivedOp_kept mj envJ hrole htick honce hfind

end Sys2Proof.Machine

/-! SUPPORT. Flits and packets on the links (R461 to R464, R469 to R474): what a receiver takes, what a transmitter sends, the replay, the forwarding of
a packet, and O44. -/

namespace Sys2Proof.Machine

-- The threads of the whole text share one memory limit: these proofs take none of their own.
set_option Elab.async false

open Adr

namespace State

/-! What a receiver does with a flit (R461, R463, R464, R470). -/

/-- The state with the corrections of a flit counted. -/
def corrCounted (s : State) (l : Nat) (f : Flit) : State := if f.corrected = 0 then s else s.count (lnkCntCorr l) f.corrected

theorem link_corrCounted (s : State) (l : Nat) (f : Flit) (k : Nat) : (s.corrCounted l f).link k = s.link k := by
  unfold corrCounted
  split
  · rfl
  · exact link_of_net (count_net s _ _) k

/-- A flit whose check fails sets the flag, asks for a replay and is one more in a row. -/
def flitFailed (s : State) (l : Nat) (f : Flit) : State :=
  (((s.corrCounted l f).raise (lnkEvt l) 0).onLink l fun x => { x with nak := true }).onLink l fun x => { x with rxFails := x.rxFails + 1 }

theorem link_flitFailed (s : State) (l : Nat) (f : Flit) :
    (s.flitFailed l f).link l = { s.link l with nak := true, rxFails := (s.link l).rxFails + 1 } := by
  unfold flitFailed
  rw [link_onLink_same, link_onLink_same, link_of_net (raise_net _ _ _ _), link_corrCounted]

theorem flag_onLink (s : State) (l : Nat) (f : LinkSt → LinkSt) (e b : Nat) : (s.onLink l f).flag e b = s.flag e b :=
  flag_of_reg (reg_of_regs (show (s.onLink l f).regs = s.regs from rfl) e) b

theorem flag_flitFailed (s : State) (l : Nat) (f : Flit) : (s.flitFailed l f).flag (lnkEvt l) 0 = true := by
  unfold flitFailed
  rw [flag_onLink, flag_onLink]
  exact flag_raise (s.corrCounted l f) (lnkEvt l) 0 1 (by decide)

/-- A flit that passes its check ends the row of failed ones. -/
def flitPassed (s : State) (l : Nat) (f : Flit) : State := (s.corrCounted l f).onLink l fun x => { x with rxFails := 0 }

theorem link_flitPassed (s : State) (l : Nat) (f : Flit) : (s.flitPassed l f).link l = { s.link l with rxFails := 0 } := by
  unfold flitPassed
  rw [link_onLink_same, link_corrCounted]

/-- Alignment lost: a link of one lane goes DOWN, one of two trains (R465). -/
theorem st_alignmentLost (s : State) (l : Nat) :
    ((s.alignmentLost l).link l).st = if (s.link l).st = .up1 then .down else .training := by
  unfold alignmentLost
  split
  · rw [link_linkDown]
    rfl
  · rw [link_linkTrain]

/-- The state whose link has lost alignment, with its row of failed flits ended. -/
def realigned (s : State) (l : Nat) : State := (s.alignmentLost l).onLink l fun x => { x with rxFails := 0 }

theorem link_realigned (s : State) (l : Nat) : (s.realigned l).link l = { (s.alignmentLost l).link l with rxFails := 0 } := link_onLink_same _ _ _

theorem st_realigned (s : State) (l : Nat) : ((s.realigned l).link l).st = ((s.alignmentLost l).link l).st := by rw [link_realigned]

/-- Alignment lost at the eighth failed flit in a row. -/
theorem st_realigned_flitFailed (s : State) (l : Nat) (f : Flit) :
    (((s.flitFailed l f).realigned l).link l).st = if (s.link l).st = .up1 then .down else .training := by
  have hst : ((s.flitFailed l f).link l).st = (s.link l).st := by rw [link_flitFailed]
  rw [st_realigned, st_alignmentLost, hst]

theorem takeAck_none {s : State} {l : Nat} {f : Flit} (h : f.ackv = false) : s.takeAck l f = s := if_pos h

/-- What changes no link of the net changes no link. -/
theorem link_onNet_same_links (s : State) {g : NetBlk → NetBlk} (hg : ∀ b, (g b).links = b.links) (l : Nat) : (s.onNet g).link l = s.link l :=
  congrArg (SMap.at · l) (hg s.net)

/-- The link after `takeBody` has freed one more flit of the body's virtual channel and hop class; its numbers and its request of a replay stay. -/
theorem link_takeBody (s : State) (l vc hop : Nat) (body : List Byte) :
    ∃ asm, (s.takeBody l vc hop body).link l =
      { s.link l with
        freedOut := setPad (s.link l).freedOut (6 * vc + hop) (((s.link l).freedOut.getD (6 * vc + hop) 0 + 1) % 65536) 0, asm := asm } := by
  unfold takeBody
  dsimp only
  split
  · exact ⟨_, by rw [link_onLink_same, link_onLink_same]⟩
  · refine ⟨(s.link l).asm.filter fun a => a.1 ≠ vc, ?_⟩
    rw [link_onNet_same_links, link_onLink_same, link_onLink_same]
    intro b
    split
    · rfl
    · rfl

/-! The replay (R464). -/

/-- A replay sends again from the oldest flit not acknowledged, and is one more in a row. -/
def replayed (x : LinkSt) : LinkSt := { x with resend := x.unacked.length, replays := x.replays + 1 }

/-- The state that has asked for a replay and flagged it. -/
def replayAsked (s : State) (l : Nat) : State := (s.onLink l replayed).raise (lnkEvt l) 1

theorem link_replayAsked (s : State) (l : Nat) : (s.replayAsked l).link l = replayed (s.link l) := by
  unfold replayAsked
  rw [link_of_net (raise_net _ _ _ _), link_onLink_same]

theorem replay_eq (s : State) (l : Nat) :
    s.replay l = if 16 ≤ ((s.replayAsked l).link l).replays then ((s.replayAsked l).linkTrain l).onLink l fun x => { x with replays := 0 }
      else s.replayAsked l := rfl

theorem link_replay (s : State) (l : Nat) :
    (s.replay l).link l =
      if 16 ≤ (s.link l).replays + 1 then { replayed (s.link l) with st := .training, replays := 0 } else replayed (s.link l) := by
  have hrow : ((s.replayAsked l).link l).replays = (s.link l).replays + 1 := congrArg LinkSt.replays (s.link_replayAsked l)
  rw [replay_eq, hrow]
  by_cases h : 16 ≤ (s.link l).replays + 1
  · rw [if_pos h, if_pos h, link_onLink_same, link_linkTrain, link_replayAsked]
  · rw [if_neg h, if_neg h, link_replayAsked]

theorem link_replay_resend (s : State) (l : Nat) : ((s.replay l).link l).resend = (s.link l).unacked.length := by
  rw [link_replay]
  split
  · rfl
  · rfl

/-! What a transmitter sends (R464, R469). -/

/-- The state in which the flit time is one more of its slot, or of none. -/
def flitTime (s : State) (l : Nat) : State := s.onLink l fun y => { y with slotTime := if s.inSlot l then y.slotTime + 1 else 0 }

/-- A transmitter's link that has sent one flit more since its latest LCTL flit. -/
def sentOne (s : State) (l : Nat) : LinkSt :=
  { s.link l with slotTime := if s.inSlot l then (s.link l).slotTime + 1 else 0, sinceLctl := (s.link l).sinceLctl + 1 }

theorem link_flitTime (s : State) (l : Nat) :
    (s.flitTime l).link l = { s.link l with slotTime := if s.inSlot l then (s.link l).slotTime + 1 else 0 } := link_onLink_same _ _ _

theorem link_sendLctl (s : State) (l : Nat) : (s.sendLctl l).link l = { s.link l with nak := false, sinceLctl := 0 } := link_onLink_same _ _ _

theorem link_sendFlit (s : State) (l : Nat) (f : Flit) :
    ((s.flitTime l).sendFlit l f).link l = s.sentOne l := by
  have hqueued : (((s.flitTime l).emit (.flit l f)).count (lnkCntTx l)).link l = (s.flitTime l).link l := link_of_net (count_net _ _ _) l
  unfold sendFlit
  rw [link_onLink_same, hqueued, link_flitTime]
  rfl

theorem link_sendIdle (s : State) (l : Nat) (f : Flit) :
    (((s.flitTime l).emit (.flit l f)).onLink l fun y => { y with sinceLctl := y.sinceLctl + 1 }).link l = s.sentOne l := by
  have hsent : (((s.flitTime l).emit (.flit l f)).onLink l fun y => { y with sinceLctl := y.sinceLctl + 1 }).link l =
      { (s.flitTime l).link l with sinceLctl := ((s.flitTime l).link l).sinceLctl + 1 } := link_onLink_same _ _ _
  rw [hsent, link_flitTime]
  rfl

/-- An LCTL flit carries the request of a replay that waits to be sent. -/
theorem out_sendLctl (s : State) (l : Nat) :
    ∃ f : Flit, (s.sendLctl l).out = .flit l f :: s.out ∧ f.kind = 2 ∧ f.nak = if (s.link l).nak then some (s.link l).rxSeq else none :=
  ⟨_, rfl, rfl, rfl⟩

theorem out_flitTime_sendLctl (s : State) (l : Nat) :
    ∃ f : Flit, ((s.flitTime l).sendLctl l).out = .flit l f :: s.out ∧ f.kind = 2 ∧
      f.nak = if (s.link l).nak then some (s.link l).rxSeq else none := by
  have hout := (s.flitTime l).out_sendLctl l
  rw [link_flitTime] at hout
  exact hout

end State

/-! The commands. -/

theorem flitReceiveOp_down {link : Nat} (f : Flit) {s : State} (h : s.linkUp link = false) : flitReceiveOp link f s = s := if_pos h

theorem flitReceiveOp_fails {link : Nat} {f : Flit} {s : State} (hup : s.linkUp link = true) (hcrc : f.crcOk = false) :
    flitReceiveOp link f s =
      if 8 ≤ (s.link link).rxFails + 1 then (s.flitFailed link f).realigned link
      else s.flitFailed link f := by
  have hop : flitReceiveOp link f s = if 8 ≤ ((s.flitFailed link f).link link).rxFails then
      (s.flitFailed link f).realigned link else s.flitFailed link f :=
    (if_neg (ne_false_of_eq_true hup)).trans (if_pos hcrc)
  rw [hop, State.link_flitFailed]

/-- A flit of kind DATA or LCTL that passes its check and repeats no acknowledgement is taken by its kind. -/
theorem flitReceiveOp_data {link : Nat} {f : Flit} {s : State} (hup : s.linkUp link = true) (hcrc : f.crcOk = true) (hkind : f.kind = 1)
    (hvc : f.vc ≤ 4) (hack : f.ackv = false) :
    flitReceiveOp link f s =
      if f.seq = (s.link link).rxSeq then
        ((s.flitPassed link f).onLink link fun x => { x with rxSeq := (x.rxSeq + 1) % 4096, rxAny := true, nak := false }).takeBody link f.vc
          f.hop f.body
      else (s.flitPassed link f).onLink link fun x => { x with nak := true } := by
  unfold flitReceiveOp
  rw [if_neg (ne_false_of_eq_true hup)]
  dsimp only
  rw [if_neg (ne_false_of_eq_true hcrc), if_neg (by omega), State.takeAck_none hack, hkind]
  change (if f.seq = ((s.flitPassed link f).link link).rxSeq then _ else _) = _
  rw [State.link_flitPassed]
  rfl

/-- The state that has taken the freed counts of an LCTL flit. -/
def State.creditsTaken (s : State) (l : Nat) (f : Flit) : State :=
  (s.flitPassed l f).onLink l fun x =>
    { x with freedIn := f.credits.foldl (fun (l : List Nat) c => setPad l (6 * c.1 + c.2.1) (c.2.2 % 65536) 0) x.freedIn }

theorem flitReceiveOp_nak {link : Nat} {f : Flit} {s : State} (hup : s.linkUp link = true) (hcrc : f.crcOk = true) (hkind : f.kind = 2)
    (hack : f.ackv = false) (hnak : f.nak ≠ none) : flitReceiveOp link f s = (s.creditsTaken link f).replay link := by
  unfold flitReceiveOp
  rw [if_neg (ne_false_of_eq_true hup)]
  dsimp only
  rw [if_neg (ne_false_of_eq_true hcrc), if_neg (by omega), State.takeAck_none hack, hkind]
  exact if_pos (Option.isSome_iff_ne_none.mpr hnak)

theorem replayTimeoutOp_idle {link : Nat} {s : State} (h : s.linkUp link = false ∨ (s.link link).unacked = []) : replayTimeoutOp link s = s :=
  if_pos h

theorem replayTimeoutOp_replays {link : Nat} {s : State} (hup : s.linkUp link = true) (hunacked : (s.link link).unacked ≠ []) :
    replayTimeoutOp link s = s.replay link := if_neg (by simp [hup, hunacked])

theorem flitTransmitOp_down {link : Nat} {s : State} (h : s.linkUp link = false) : flitTransmitOp link s = s := if_pos h

/-- After 63 flit times without an LCTL flit the transmitter sends one. -/
theorem flitTransmitOp_lctl {link : Nat} {s : State} (hup : s.linkUp link = true) (hsince : 63 ≤ (s.link link).sinceLctl) :
    flitTransmitOp link s = (s.flitTime link).sendLctl link := (if_neg (ne_false_of_eq_true hup)).trans (if_pos hsince)

/-- A flit as it is sent again, with the acknowledgement of now. -/
def resentFlit (x : LinkSt) : Flit :=
  { x.unacked.getD (x.unacked.length - x.resend) default with ack := (x.rxSeq + 4095) % 4096, ackv := x.rxAny }

theorem flitTransmitOp_resends {link : Nat} {s : State} (hup : s.linkUp link = true) (hsince : (s.link link).sinceLctl < 63)
    (hresend : 0 < (s.link link).resend) :
    flitTransmitOp link s =
      ((s.flitTime link).sendFlit link (resentFlit (s.link link))).onLink link fun y => { y with resend := y.resend - 1 } :=
  (if_neg (ne_false_of_eq_true hup)).trans ((if_neg (Nat.not_le.mpr hsince)).trans (if_pos hresend))

/-- The virtual channel that a flit time serves, with its first flit's place, hop class and body. -/
def State.nextFlit (s : State) (l : Nat) : Option (Nat × Nat × Nat × List Byte) :=
  (s.vcOrder l).findSome? fun vc => (s.ready l vc).map fun r => (vc, r)

theorem flitTransmitOp_sends {link vc i hop : Nat} {body : List Byte} {s : State} (hup : s.linkUp link = true)
    (hsince : (s.link link).sinceLctl < 63) (hresend : (s.link link).resend = 0) (hnext : s.nextFlit link = some (vc, i, hop, body)) :
    flitTransmitOp link s =
      ((s.flitTime link).sendFlit link (s.mkFlit link 1 vc hop (s.link link).txSeq body none [])).onLink link fun y =>
        { y with
          txSeq := (y.txSeq + 1) % 4096, unacked := y.unacked ++ [s.mkFlit link 1 vc hop (s.link link).txSeq body none []],
          txq := y.txq.eraseIdx i, sent := setPad y.sent (6 * vc + hop) ((y.sent.getD (6 * vc + hop) 0 + 1) % 65536) 0,
          bulkTurn := if vc = 3 then true else if vc = 4 then false else y.bulkTurn } := by
  unfold State.nextFlit at hnext
  unfold flitTransmitOp
  rw [if_neg (ne_false_of_eq_true hup)]
  dsimp only
  rw [if_neg (Nat.not_le.mpr hsince), if_neg (by omega), hnext]
  rfl

/-- With nothing to send and no replay to ask for, the flit is an idle one. -/
theorem flitTransmitOp_idles {link : Nat} {s : State} (hup : s.linkUp link = true) (hsince : (s.link link).sinceLctl < 63)
    (hresend : (s.link link).resend = 0) (hnext : s.nextFlit link = none) (hnak : (s.link link).nak = false) :
    flitTransmitOp link s =
      ((s.flitTime link).emit (.flit link (s.mkFlit link 0 0 0 0 [] none []))).onLink link fun y => { y with sinceLctl := y.sinceLctl + 1 } := by
  unfold State.nextFlit at hnext
  unfold flitTransmitOp
  rw [if_neg (ne_false_of_eq_true hup)]
  dsimp only
  rw [if_neg (Nat.not_le.mpr hsince), if_neg (by omega), hnext]
  exact if_neg (ne_true_of_eq_false hnak)

/-- The state in which a packet no longer waits to be forwarded. -/
def State.forwarded (s : State) (p : Packet) : State := s.onNet fun b => { b with fwd := b.fwd.erase p }

theorem packetForwardOp_here {p : Packet} {s : State} (h : s.nodeId = some p.dest) :
    packetForwardOp p s = (s.forwarded p).onNet fun b => { b with inbox := b.inbox ++ [p] } := if_pos h

theorem packetForwardOp_unrouted {p : Packet} {s : State} (h : s.nodeId ≠ some p.dest) (hnone : s.choices p.dest p.vc = []) :
    packetForwardOp p s = (s.forwarded p).raise rtEvt 0 := by
  unfold packetForwardOp
  dsimp only
  rw [if_neg h, hnone]
  rfl

theorem packetForwardOp_routed {p : Packet} {s : State} {c : Nat} {cs : List Nat} (h : s.nodeId ≠ some p.dest)
    (hsome : s.choices p.dest p.vc = c :: cs) :
    packetForwardOp p s =
      if 5 ≤ p.hop then (s.forwarded p).raise rtEvt 1
      else (s.forwarded p).queuePacket (if p.vc ≤ 2 then c else (c :: cs).getD ((p.src + p.tag.toNat) % (cs.length + 1)) c)
        { p with hop := p.hop + 1 } := by
  unfold packetForwardOp
  dsimp only
  rw [if_neg h, hsome]
  rfl

/-- Settles O44: each command by the lemma of its case, and each frame by the operation's frame law. -/
theorem linkFlitsAndPackets : Obligations.LinkFlitsAndPackets := by
  unfold Obligations.LinkFlitsAndPackets
  refine ⟨?receive, ?transmit, ?timeout, ?forward⟩
  case receive =>
    intro link f s
    refine ⟨_, rfl, (flitReceiveOp_keeps link f s (m_ := 0x9800) (by decide) (.refl _ s)).only (by decide), flitReceiveOp_down f, ?fails, ?data, ?nak⟩
    case fails =>
      intro hup hcrc
      rw [flitReceiveOp_fails hup hcrc]
      refine ⟨fun hrow => ?_, fun hrow => ?_⟩
      · rw [if_neg (by omega)]
        exact ⟨s.flag_flitFailed link f, s.link_flitFailed link f⟩
      · rw [if_pos hrow]
        exact ⟨congrArg LinkSt.rxFails ((s.flitFailed link f).link_realigned link), State.st_realigned_flitFailed s link f⟩
    case data =>
      intro hup hcrc hkind hvc hack
      rw [flitReceiveOp_data hup hcrc hkind hvc hack]
      refine ⟨fun hseq => ?_, fun hseq => ?_⟩
      · obtain ⟨asm, hlink⟩ := State.link_takeBody
          ((s.flitPassed link f).onLink link fun x => { x with rxSeq := (x.rxSeq + 1) % 4096, rxAny := true, nak := false }) link f.vc f.hop f.body
        rw [if_pos hseq, hlink, State.link_onLink_same, State.link_flitPassed, hseq]
        exact ⟨rfl, rfl, rfl, rfl⟩
      · rw [if_neg hseq, State.link_onLink_same, State.link_flitPassed]
    case nak =>
      intro hup hcrc hkind hack hnak
      rw [flitReceiveOp_nak hup hcrc hkind hack hnak, State.link_replay_resend]
      unfold State.creditsTaken
      rw [State.link_onLink_same, State.link_flitPassed]
  case transmit =>
    intro link s
    refine ⟨_, rfl, (flitTransmitOp_keeps link s (m_ := 0x29000) (by decide) (.refl _ s)).only (by decide), flitTransmitOp_down, ?lctl, ?resends,
      ?sends, ?idles⟩
    case lctl =>
      intro hup hsince
      rw [flitTransmitOp_lctl hup hsince]
      exact ⟨congrArg LinkSt.sinceLctl ((s.flitTime link).link_sendLctl link), congrArg LinkSt.nak ((s.flitTime link).link_sendLctl link),
        s.out_flitTime_sendLctl link⟩
    case resends =>
      intro hup hsince hresend
      rw [flitTransmitOp_resends hup hsince hresend, State.link_onLink_same, State.link_sendFlit]
      exact ⟨rfl, rfl, rfl⟩
    case sends =>
      intro vc i hop body hup hsince hresend hnext
      rw [flitTransmitOp_sends hup hsince hresend hnext, State.link_onLink_same, State.link_sendFlit]
      exact ⟨rfl, rfl, _, rfl, rfl, rfl, rfl, rfl, rfl, rfl⟩
    case idles =>
      intro hup hsince hresend hnext hnak
      rw [flitTransmitOp_idles hup hsince hresend hnext hnak, State.link_sendIdle]
      exact ⟨rfl, _, rfl, rfl⟩
  case timeout =>
    intro link s
    refine ⟨_, rfl, (replayTimeoutOp_keeps link s (m_ := 0x9800) (by decide) (.refl _ s)).only (by decide), replayTimeoutOp_idle, ?_⟩
    intro hup hunacked
    rw [replayTimeoutOp_replays hup hunacked]
    refine ⟨s.link_replay_resend link, fun hrow => ?_, fun hrow => ?_⟩
    · rw [State.link_replay, if_neg (by omega)]
      rfl
    · rw [State.link_replay, if_pos hrow]
      exact ⟨rfl, rfl⟩
  case forward =>
    intro p s
    refine ⟨_, rfl, (packetForwardOp_keeps p s (m_ := 0x9000) (by decide) (.refl _ s)).only (by decide), ?here, ?dropped, ?onward⟩
    case here =>
      intro hhere
      rw [packetForwardOp_here hhere]
      rfl
    case dropped =>
      intro hthere
      refine ⟨packetForwardOp_unrouted hthere, fun hsome hhop => ?_⟩
      obtain ⟨c, cs, hcs⟩ := List.exists_cons_of_ne_nil hsome
      exact (packetForwardOp_routed hthere hcs).trans (if_pos hhop)
    case onward =>
      intro c cs hthere hcs hhop
      exact (packetForwardOp_routed hthere hcs).trans (if_neg (Nat.not_le.mpr hhop))

end Sys2Proof.Machine

/-! SUPPORT. The rack as its manager keeps it (R476 to R479, R482, R483, R486, R567): numbering, roles, workers and heartbeats, and O46. -/

namespace Sys2Proof

theorem SMap.at_of_unlisted {α : Type} [Inhabited α] {m : SMap α} {k : Nat} (h : ∀ e ∈ m, e.1 ≠ k) : m.at k = default := by
  induction m with
  | nil => rfl
  | cons e r ih => exact (if_neg (h e (by simp))).trans (ih fun x hx => h x (by simp [hx]))

/-- An entry after `mapV`: the function of the entry before, but for one that is listed neither before nor after. -/
theorem SMap.at_mapV {α : Type} [DecidableEq α] [Inhabited α] {m : SMap α} (h : m.Pairwise fun a b => a.1 < b.1) (f : Nat → α → α) (k : Nat) :
    (m.mapV f).at k = f k (m.at k) ∨ (m.at k = default ∧ (m.mapV f).at k = default) := by
  induction m with
  | nil => exact .inr ⟨rfl, rfl⟩
  | cons e r ih =>
    obtain ⟨hrising, hr⟩ := List.pairwise_cons.mp h
    have hcons : SMap.mapV (e :: r) f = if f e.1 e.2 ≠ default then (e.1, f e.1 e.2) :: SMap.mapV r f else SMap.mapV r f := by
      simp [SMap.mapV, List.filter_cons]
    by_cases he : e.1 = k
    · have hat : SMap.at (e :: r) k = e.2 := if_pos he
      refine .inl ?_
      rw [hcons, hat, ← he]
      split
      next => exact if_pos rfl
      next hblank =>
        rw [not_not.mp hblank]
        refine SMap.at_of_unlisted fun x hx => ?_
        obtain ⟨y, hy, rfl⟩ := List.mem_map.mp (List.mem_filter.mp hx).1
        exact Nat.ne_of_gt (hrising y hy)
    · have hat : SMap.at (e :: r) k = SMap.at r k := if_neg he
      have hmap : (SMap.mapV (e :: r) f).at k = (SMap.mapV r f).at k := by
        rw [hcons]
        split
        · exact if_neg he
        · rfl
      rw [hat, hmap]
      exact ih hr

end Sys2Proof

namespace Sys2Proof.Machine

-- The threads of the whole text share one memory limit: these proofs take none of their own.
set_option Elab.async false

open Adr

namespace State

/-! Workers as they are read and lost (R486, R487). -/

theorem worker_of_net {s t : State} (h : t.net = s.net) (p : Nat) : t.worker p = s.worker p := congrArg (·.workers.at p) h

/-- The worker that has become LOST. -/
def lostWorker (w : WrkSt) : WrkSt := { w with st := 3, demand := none, grant := 0 }

theorem worker_loseWorker {s : State} {p : Nat} (h : (s.worker p).st = 1 ∨ (s.worker p).st = 2) :
    (s.loseWorker p).worker p = lostWorker (s.worker p) := by
  unfold loseWorker
  dsimp only
  rw [if_neg (by omega), worker_of_net (eventCpl_keeps _ _ _ (m_ := 0x2A000) (by decide) (.refl _ _)).net, worker_of_net (raise_net _ _ _ _),
    worker_onWorker_same]
  rfl

/-! Numbering (R477). -/

/-- From `s` to `t` the module's own number, its position and the tick of LOCK stay. -/
def SameNumber (s t : State) : Prop :=
  t.nodeId = s.nodeId ∧ t.net.idStatus = s.net.idStatus ∧ t.net.pos = s.net.pos ∧ t.net.lockTick = s.net.lockTick

theorem SameNumber.foldl {α : Type} {f : State → α → State} (hf : ∀ t a, SameNumber t (f t a)) (l : List α) (s : State) :
    SameNumber s (l.foldl f s) := by
  refine List.foldlRecOn (motive := SameNumber s) l f ⟨rfl, rfl, rfl, rfl⟩ fun t ht a _ => ?_
  obtain ⟨hnode, hstatus, hpos, hlock⟩ := ht
  obtain ⟨hnode', hstatus', hpos', hlock'⟩ := hf t a
  exact ⟨hnode'.trans hnode, hstatus'.trans hstatus, hpos'.trans hpos, hlock'.trans hlock⟩

/-- The rack master itself, at position 0 of its rack, before the modules at its service links join. -/
def numberedMaster (s : State) : State :=
  ((s.toNode (some (32 * s.fld mgrCfg 0 7))).onNet fun b =>
    { b with idStatus := 1, rack := s.fld mgrCfg 0 7, pos := 0, lockTick := s.tick.tick }).onWorker 0
    fun w => { w with st := 2, node := 32 * s.fld mgrCfg 0 7, envJ := s.prof 0 0 13 * s.tick.n / 100000 }

/-- The modules that join leave the master's own number as it took it. -/
theorem numberRack_sameNumber (s : State) : SameNumber s.numberedMaster s.numberRack := by
  unfold numberRack
  dsimp only
  split
  · refine SameNumber.foldl (fun t j => ?_) _ _
    split
    · split
      · exact ⟨rfl, rfl, rfl, rfl⟩
      · exact ⟨rfl, rfl, rfl, rfl⟩
    · exact ⟨rfl, rfl, rfl, rfl⟩
  · refine SameNumber.foldl (fun t j => ?_) _ _
    split
    · exact ⟨rfl, rfl, rfl, rfl⟩
    · exact ⟨rfl, rfl, rfl, rfl⟩

end State

/-! The commands. -/

/-- Whether a write to MGR_CFG is the first LOCK by the rack master. -/
def FirstLock (s : State) (v : Word) : Prop := v.bit 32 = true ∧ (s.reg mgrCfg).bit 32 = false ∧ s.net.role = 1

theorem mgrCfgLockOp_writes {half : Half} {val : Word} {s : State} (h : ¬ FirstLock s (mergeHalf half (s.reg mgrCfg) val)) :
    mgrCfgLockOp half val s = s.setReg mgrCfg (s.mgrCfgWord (mergeHalf half (s.reg mgrCfg) val)) := if_neg h

theorem mgrCfgLockOp_numbers {half : Half} {val : Word} {s : State} (h : FirstLock s (mergeHalf half (s.reg mgrCfg) val)) :
    mgrCfgLockOp half val s = (s.setReg mgrCfg (s.mgrCfgWord (mergeHalf half (s.reg mgrCfg) val))).numberRack := if_pos h

/-- Whether the rack master yields to another whose LOCK came earlier, or at the same tick with the lower identity. -/
def Yields (s : State) (otherLockTick otherIdent : Word) : Prop :=
  otherLockTick.toNat < s.net.lockTick ∨ otherLockTick.toNat = s.net.lockTick ∧ otherIdent.toNat < deviceIdentity

/-- The comparison of the two LOCKs as the operation computes it. -/
def lockedLater (s : State) (otherLockTick otherIdent : Word) : Bool :=
  otherLockTick.toNat < s.net.lockTick || (otherLockTick.toNat == s.net.lockTick && deviceIdentity > otherIdent.toNat)

theorem lockedLater_iff (s : State) (otherLockTick otherIdent : Word) :
    lockedLater s otherLockTick otherIdent = true ↔ Yields s otherLockTick otherIdent := by simp [lockedLater, Yields]

theorem rackConflictOp_keeps_number {otherLockTick otherIdent : Word} {s : State}
    (h : s.net.role ≠ 1 ∨ s.nodeId = none ∨ ¬ Yields s otherLockTick otherIdent) : rackConflictOp otherLockTick otherIdent s = s := by
  refine if_pos (show _ ∨ _ ∨ lockedLater s otherLockTick otherIdent = false from ?_)
  rcases h with hrole | hnode | holds
  · exact .inl hrole
  · exact .inr (.inl (Option.isNone_iff_eq_none.mpr hnode))
  · exact .inr (.inr (Bool.eq_false_iff.mpr fun hlater => holds ((lockedLater_iff s _ _).mp hlater)))

/-- A worker of a rack whose master has yielded: EXCLUDED, with no node. -/
def excludedWorker (w : WrkSt) : WrkSt := { w with st := if w.st = 0 then 0 else 4, node := 0x1FFF, demand := none }

/-- The state in which the module has given its number up. -/
def State.withdrawn (s : State) : State :=
  ((s.toNode none).onNet fun b => { b with idStatus := 3, conflict := true, workers := b.workers.mapV fun _ => excludedWorker }).emit
    (.withdraw s.net.rack)

theorem rackConflictOp_yields {otherLockTick otherIdent : Word} {s : State} (hrole : s.net.role = 1) (hnode : s.nodeId ≠ none)
    (h : Yields s otherLockTick otherIdent) : rackConflictOp otherLockTick otherIdent s = s.withdrawn.becomeCrown 0x1FFF := by
  have hlater := (lockedLater_iff s _ _).mpr h
  refine if_neg (show ¬ (_ ∨ _ ∨ lockedLater s otherLockTick otherIdent = false) from ?_)
  simp [hrole, hnode, hlater]

theorem State.st_worker_withdrawn {s : State} (h : s.net.workers.Canon) (p : Nat) :
    (s.withdrawn.worker p).st = if (s.worker p).st = 0 then 0 else 4 := by
  rcases SMap.at_mapV h.1 (fun _ => excludedWorker) p with hlisted | ⟨hbefore, hafter⟩
  · exact congrArg WrkSt.st hlisted
  · have hblank : s.worker p = default := hbefore
    rw [hblank]
    exact congrArg WrkSt.st hafter

/-- Without a manager part in its profile a module is a worker. -/
theorem managerRoleDecisionOp_worker {masterSeen standbySeen : Bool} {rivalIdent : Option Word} {s : State} (h : s.prof 0 13 1 = 0) :
    managerRoleDecisionOp masterSeen standbySeen rivalIdent s =
      (s.onNet fun b => { b with role := 0 }).onTick fun t => { t with role := .worker } := if_pos h

/-- The role of a module in the Manager profile: a master unless one is seen or a rival beats it, then a standby unless one is seen. -/
def decidedRole (masterSeen standbySeen loses : Bool) : Nat :=
  if masterSeen = false ∧ loses = false then 1 else if standbySeen = false then 2 else 0

/-- The tick role of a manager's role; a crown that becomes the rack master stays the crown. -/
def tickRole (role : Nat) (r : TRole) : TRole :=
  match role with
  | 1 => if r = .crown then .crown else .rackMaster
  | 2 => .standby
  | _ => .worker

theorem managerRoleDecisionOp_decides {masterSeen standbySeen loses : Bool} {rivalIdent : Option Word} {s : State} (h : s.prof 0 13 1 ≠ 0)
    (hloses : loses = (match rivalIdent with | some x => decide (x.toNat < deviceIdentity) | none => false)) :
    managerRoleDecisionOp masterSeen standbySeen rivalIdent s =
      (s.onNet fun b => { b with role := decidedRole masterSeen standbySeen loses }).onTick fun t =>
        { t with role := tickRole (decidedRole masterSeen standbySeen loses) t.role } := by
  subst hloses
  exact if_neg h

/-- A worker that has reported. -/
def reportedWorker (r : Report) (now : Nat) (w : WrkSt) : WrkSt :=
  { w with
    st := if w.st = 4 ∨ r.mstate = 7 then w.st else 2, node := if w.st = 0 then r.node else w.node, lastTick := now, missed := 0,
    rep := if r.aos then { w.rep with mstate := r.mstate, cap := r.cap } else r }

/-- The state that has taken the report of the worker at a position. -/
def State.reported (s : State) (pos : Nat) (r : Report) : State := s.onWorker pos (reportedWorker r s.tick.tick)

theorem State.worker_reported (s : State) (pos : Nat) (r : Report) : (s.reported pos r).worker pos = reportedWorker r s.tick.tick (s.worker pos) :=
  s.worker_onWorker_same pos _

theorem workerReportOp_idle {pos : Nat} (r : Report) {s : State} (h : s.net.role ≠ 1 ∨ 32 ≤ pos) : workerReportOp pos r s = s := if_pos h

theorem workerReportOp_fault {pos : Nat} {r : Report} {s : State} (hrole : s.net.role = 1) (hpos : pos < 32) (hr : r.mstate = 7) :
    workerReportOp pos r s = (s.reported pos r).loseWorker pos := (if_neg (by simp [hrole, hpos])).trans (if_pos hr)

/-- A report of no FAULT is taken; a worker that was not LIVE is then sent the tick load. -/
theorem workerReportOp_takes {pos : Nat} {r : Report} {s : State} (hrole : s.net.role = 1) (hpos : pos < 32) (hr : r.mstate ≠ 7) :
    workerReportOp pos r s =
      if (s.worker pos).st = 2 ∨ (s.worker pos).st = 4 ∨ pos = s.net.pos then s.reported pos r
      else (s.reported pos r).sendLoad (some ((s.reported pos r).worker pos).node)
        ((s.reported pos r).linkDelay ((s.reported pos r).worker pos).node / 10 + 1)
        ((s.reported pos r).linkDelay ((s.reported pos r).worker pos).node) :=
  (if_neg (by simp [hrole, hpos])).trans (if_neg hr)

theorem worker_workerReportOp {pos : Nat} {r : Report} {s : State} (hrole : s.net.role = 1) (hpos : pos < 32) (hr : r.mstate ≠ 7) :
    (workerReportOp pos r s).worker pos = reportedWorker r s.tick.tick (s.worker pos) := by
  rw [workerReportOp_takes hrole hpos hr]
  split
  · exact s.worker_reported pos r
  · exact s.worker_reported pos r

theorem workerHeartbeatMissOp_idle {pos : Nat} (linksLost reportedFault : Bool) {s : State}
    (h : s.net.role ≠ 1 ∨ ((s.worker pos).st ≠ 1 ∧ (s.worker pos).st ≠ 2) ∨ pos = s.net.pos) :
    workerHeartbeatMissOp pos linksLost reportedFault s = s := if_pos h

/-- The state that has counted a missed heartbeat of the worker at a position. -/
def State.missCounted (s : State) (pos : Nat) : State := s.onWorker pos fun w => { w with missed := w.missed + 1 }

theorem State.worker_missCounted (s : State) (pos : Nat) : (s.missCounted pos).worker pos = { s.worker pos with missed := (s.worker pos).missed + 1 } :=
  s.worker_onWorker_same pos _

theorem workerHeartbeatMissOp_counts {pos : Nat} {linksLost reportedFault : Bool} {s : State} (hrole : s.net.role = 1)
    (hst : (s.worker pos).st = 1 ∨ (s.worker pos).st = 2) (hpos : pos ≠ s.net.pos) :
    workerHeartbeatMissOp pos linksLost reportedFault s =
      if linksLost = true ∨ reportedFault = true ∨ 8 ≤ (s.worker pos).missed + 1 then (s.missCounted pos).loseWorker pos else s.missCounted pos :=
  if_neg (by rintro (h | h | h) <;> omega)

/-- Whether this module's own heartbeat is due (R486). -/
def BeatDue (s : State) (pos : Nat) : Prop := s.nodeId.isSome = true ∧ pos = s.net.pos ∧ s.net.sentBeat + 1000 ≤ s.tick.rcs

/-- The state in which the module has sent its own heartbeat. -/
def State.beaten (s : State) : State := (s.onNet fun b => { b with sentBeat := s.tick.rcs }).emit (.heartbeat 0)

/-- The state in which the rack master has restarted the count of the worker at a position, if it holds one. -/
def State.missesCleared (t s : State) (pos : Nat) : State :=
  if s.net.role = 1 ∧ (s.worker pos).st ≠ 0 then t.onWorker pos fun w => { w with missed := 0 } else t

theorem moduleHeartbeatOp_due {pos : Nat} {s : State} (h : BeatDue s pos) : moduleHeartbeatOp pos s = s.beaten.missesCleared s pos := by
  unfold moduleHeartbeatOp BeatDue at *
  dsimp only
  rw [if_pos h]
  rfl

theorem moduleHeartbeatOp_other {pos : Nat} {s : State} (h : ¬ BeatDue s pos) : moduleHeartbeatOp pos s = s.missesCleared s pos := by
  unfold moduleHeartbeatOp BeatDue at *
  dsimp only
  rw [if_neg h]
  rfl

theorem State.missesCleared_out (t s : State) (pos : Nat) : (t.missesCleared s pos).out = t.out := by
  unfold State.missesCleared
  split
  · rfl
  · rfl

theorem State.missesCleared_sentBeat (t s : State) (pos : Nat) : (t.missesCleared s pos).net.sentBeat = t.net.sentBeat := by
  unfold State.missesCleared
  split
  · rfl
  · rfl

theorem State.missesCleared_other (t : State) {s : State} {pos : Nat} (h : s.net.role ≠ 1 ∨ (s.worker pos).st = 0) :
    t.missesCleared s pos = t := if_neg (by rintro ⟨hrole, hst⟩; exact h.elim (· hrole) hst)

theorem State.worker_missesCleared (t : State) {s : State} {pos : Nat} (hrole : s.net.role = 1) (hst : (s.worker pos).st ≠ 0) :
    (t.missesCleared s pos).worker pos = { t.worker pos with missed := 0 } := by
  unfold State.missesCleared
  rw [if_pos ⟨hrole, hst⟩, State.worker_onWorker_same]

theorem managerHeartbeatOp_due {s : State} (hrole : s.net.role = 1) (hdue : s.net.sentMgr + 100 ≤ s.tick.rcs) :
    managerHeartbeatOp s = (s.onNet fun b => { b with sentMgr := s.tick.rcs }).emit (.heartbeat 1) := if_pos ⟨hrole, hdue⟩

theorem managerHeartbeatOp_other {s : State} (h : s.net.role ≠ 1 ∨ s.tick.rcs < s.net.sentMgr + 100) : managerHeartbeatOp s = s := if_neg (by omega)

theorem managerResyncOp_worker {s : State} (h : s.net.role = 0) : managerResyncOp s = s := if_pos h

theorem managerResyncOp_manager {s : State} (h : s.net.role ≠ 0) :
    managerResyncOp s = s.onNet fun b => { b with role := if b.role = 3 then 2 else b.role, standbyReady := true } := if_neg h

/-- Settles O46: each event by the lemma of its case, and each frame by the operation's frame law. -/
theorem rackNumberingAndWorkers : Obligations.RackNumberingAndWorkers := by
  unfold Obligations.RackNumberingAndWorkers
  refine ⟨?lock, ?conflict, ?decision, ?report, ?miss, ?beat, ?managerBeat, ?resync⟩
  case lock =>
    intro half val s
    refine ⟨_, rfl, (mgrCfgLockOp_keeps half val s (m_ := 0x39000) (by decide) (.refl _ s)).only (by decide), ?_⟩
    rintro v rfl
    refine ⟨?_, fun hother => mgrCfgLockOp_writes ?_, fun hlock hunlocked hrole => ?_⟩
    · by_cases hfirst : FirstLock s (mergeHalf half (s.reg mgrCfg) val)
      · rw [mgrCfgLockOp_numbers hfirst,
          State.reg_of_regs (State.numberRack_keeps _ (m_ := 0x31000) (by decide) (.refl _ _)).regs, State.reg_setReg_same]
      · rw [mgrCfgLockOp_writes hfirst, State.reg_setReg_same]
    · rintro ⟨hlock, hunlocked, hrole⟩
      rcases hother with h | h | h
      · exact absurd hlock (ne_true_of_eq_false h)
      · exact absurd h (ne_true_of_eq_false hunlocked)
      · exact h hrole
    · rw [mgrCfgLockOp_numbers ⟨hlock, hunlocked, hrole⟩]
      obtain ⟨hnode, hstatus, hpos, htick⟩ := (s.setReg mgrCfg (s.mgrCfgWord (mergeHalf half (s.reg mgrCfg) val))).numberRack_sameNumber
      refine ⟨hnode.trans ?_, hstatus, hpos, htick⟩
      exact congrArg (fun w : Word => some (32 * w.field 0 7)) (State.reg_setReg_same s mgrCfg _)
  case conflict =>
    intro otherLockTick otherIdent s
    refine ⟨_, rfl, (rackConflictOp_keeps otherLockTick otherIdent s (m_ := 0x39001) (by decide) (.refl _ s)).only (by decide), ?_, ?_⟩
    · intro h
      refine rackConflictOp_keeps_number (h.imp_right (Or.imp_right ?_))
      rintro ⟨hlater, hident⟩ (hyields | ⟨htie, hyields⟩)
      · omega
      · exact Nat.not_lt.mpr (hident htie) hyields
    · intro hrole hnode hyields
      have hkeeps := State.becomeCrown_keeps s.withdrawn 0x1FFF (m_ := 0x8001) (by decide) (.refl _ _)
      rw [rackConflictOp_yields hrole hnode hyields, hkeeps.nodeId, hkeeps.net, hkeeps.out, State.becomeCrown_tick_fields]
      refine ⟨rfl, rfl, rfl, rfl, rfl, rfl, fun hcanon p => ?_⟩
      rw [State.worker_of_net hkeeps.net]
      exact State.st_worker_withdrawn hcanon p
  case decision =>
    intro a b r s
    refine ⟨_, rfl, (managerRoleDecisionOp_keeps a b r s (m_ := 0x1001) (by decide) (.refl _ s)).only (by decide), fun hprof => ?_, ?_⟩
    · rw [managerRoleDecisionOp_worker hprof]
      exact ⟨rfl, rfl⟩
    · intro loses hloses hprof
      rw [managerRoleDecisionOp_decides hprof hloses]
      refine ⟨rfl, fun hrole => ?_, fun hrole => ?_, fun hrole => ?_⟩
      all_goals
        have hdecided : decidedRole a b loses = _ := hrole
        exact congrArg (tickRole · s.tick.role) hdecided
  case report =>
    intro pos r s
    refine ⟨_, rfl, (workerReportOp_keeps pos r s (m_ := 0x2B000) (by decide) (.refl _ s)).only (by decide), workerReportOp_idle r, ?taken, ?load,
      ?fault⟩
    case taken =>
      intro hrole hpos hr
      rw [worker_workerReportOp hrole hpos hr]
      refine ⟨?_, rfl, rfl, rfl, rfl⟩
      change (if (s.worker pos).st = 4 ∨ r.mstate = 7 then (s.worker pos).st else 2) = _
      simp only [hr, or_false]
      split
      · assumption
      · rfl
    case load =>
      intro hrole hpos hr h2 h4 hown
      rw [workerReportOp_takes hrole hpos hr, if_neg (by rintro (h | h | h) <;> contradiction)]
      refine ⟨_, _, _, rfl, ?_⟩
      rw [State.worker_reported]
      rfl
    case fault =>
      intro hrole hpos hr hst
      have hsame : ((s.reported pos r).worker pos).st = (s.worker pos).st := by
        rw [State.worker_reported]
        exact if_pos (.inr hr)
      rw [workerReportOp_fault hrole hpos hr, State.worker_loseWorker (by rwa [hsame])]
      rfl
  case miss =>
    intro pos a b s
    refine ⟨_, rfl, (workerHeartbeatMissOp_keeps pos a b s (m_ := 0x2B000) (by decide) (.refl _ s)).only (by decide), workerHeartbeatMissOp_idle a b,
      fun hrole hst hpos => ?_⟩
    rw [workerHeartbeatMissOp_counts hrole hst hpos]
    split
    · rw [State.worker_loseWorker (by rwa [State.worker_missCounted]), State.worker_missCounted]
      exact ⟨rfl, rfl⟩
    · rw [State.worker_missCounted]
      exact ⟨rfl, rfl⟩
  case beat =>
    intro pos s
    refine ⟨_, rfl, (moduleHeartbeatOp_keeps pos s (m_ := 0x21000) (by decide) (.refl _ s)).only (by decide), ?due, ?other, ?misses⟩
    case due =>
      intro hnode hpos hdue
      rw [moduleHeartbeatOp_due ⟨Option.isSome_iff_ne_none.mpr hnode, hpos, hdue⟩, State.missesCleared_out, State.missesCleared_sentBeat]
      exact ⟨rfl, rfl⟩
    case other =>
      intro hother
      have hnotdue : ¬ BeatDue s pos := by
        rintro ⟨hnode, hpos, hdue⟩
        rcases hother with h | h | h
        · rw [h] at hnode
          exact absurd hnode (by decide)
        · exact h hpos
        · omega
      rw [moduleHeartbeatOp_other hnotdue]
      exact ⟨State.missesCleared_out s s pos, State.missesCleared_other s⟩
    case misses =>
      intro hrole hst
      by_cases hdue : BeatDue s pos
      · rw [moduleHeartbeatOp_due hdue]
        exact State.worker_missesCleared _ hrole hst
      · rw [moduleHeartbeatOp_other hdue]
        exact State.worker_missesCleared _ hrole hst
  case managerBeat =>
    intro s
    refine ⟨_, rfl, (managerHeartbeatOp_keeps s (m_ := 0x21000) (by decide) (.refl _ s)).only (by decide), fun hrole hdue => ?_,
      managerHeartbeatOp_other⟩
    rw [managerHeartbeatOp_due hrole hdue]
    exact ⟨rfl, rfl⟩
  case resync =>
    intro s
    refine ⟨_, rfl, (managerResyncOp_keeps s (m_ := 0x1000) (by decide) (.refl _ s)).only (by decide), managerResyncOp_worker, fun hrole => ?_⟩
    rw [managerResyncOp_manager hrole]
    rfl

end Sys2Proof.Machine

/-! SUPPORT. Epochs, takeover and relayed commands (R482 to R485, R488, R489), and O47. -/

namespace Sys2Proof.Machine

-- The threads of the whole text share one memory limit: these proofs take none of their own.
set_option Elab.async false

open Adr

namespace State

/-! Epochs as a module sees them (R484, R488, R489). -/

theorem newEpoch_older {s : State} {e : Word} (h : e.toNat < (s.reg mgrEpoch).toNat) : s.newEpoch e = (s.raise mgrEvt 2, false) := by
  unfold newEpoch
  dsimp only
  rw [seeEpoch_older h, if_neg (by simp; omega)]

/-- An epoch not below the module's own is taken; a rack master gives its duties up for a higher one. -/
theorem newEpoch_newest {s : State} {e : Word} (h : (s.reg mgrEpoch).toNat ≤ e.toNat) :
    s.newEpoch e =
      (if (s.reg mgrEpoch).toNat < e.toNat ∧ s.net.role = 1 then (s.setReg mgrEpoch e).leaveDuties else s.setReg mgrEpoch e, true) := by
  unfold newEpoch
  dsimp only
  rw [seeEpoch_newest h]
  simp only [decide_eq_true_eq, gt_iff_lt]

/-- The module's own epoch, or any that is not a rack master's, is taken and no more. -/
theorem newEpoch_taken {s : State} {e : Word} (h : (s.reg mgrEpoch).toNat ≤ e.toNat) (hrole : s.net.role = 1 → e = s.reg mgrEpoch) :
    s.newEpoch e = (s.setReg mgrEpoch e, true) := by
  rw [newEpoch_newest h, if_neg]
  rintro ⟨hlt, hmaster⟩
  rw [hrole hmaster] at hlt
  exact Nat.lt_irrefl _ hlt

end State

/-! The commands. -/

theorem epochAnnounceOp_older {e : Word} {s : State} (h : e.toNat < (s.reg mgrEpoch).toNat) : epochAnnounceOp e s = s.raise mgrEvt 2 :=
  congrArg Prod.fst (State.newEpoch_older h)

theorem epochAnnounceOp_taken {e : Word} {s : State} (h : (s.reg mgrEpoch).toNat ≤ e.toNat) (hrole : s.net.role = 1 → e = s.reg mgrEpoch) :
    epochAnnounceOp e s = s.setReg mgrEpoch e := congrArg Prod.fst (State.newEpoch_taken h hrole)

theorem epochAnnounceOp_master {e : Word} {s : State} (h : (s.reg mgrEpoch).toNat < e.toNat) (hrole : s.net.role = 1) :
    epochAnnounceOp e s = (s.setReg mgrEpoch e).leaveDuties :=
  (congrArg Prod.fst (State.newEpoch_newest (Nat.le_of_lt h))).trans (if_pos ⟨h, hrole⟩)

theorem managerTakeoverOp_other (f : Bool) {s : State} (h : s.net.role ≠ 2) : managerTakeoverOp f s = s := if_neg h

theorem managerTakeoverOp_standby (f : Bool) {s : State} (h : s.net.role = 2) : managerTakeoverOp f s = s.takeDuties := if_pos h

theorem State.reg_takeDuties_epoch (s : State) : s.takeDuties.reg mgrEpoch = s.reg mgrEpoch + 1 := by
  unfold State.takeDuties
  dsimp only
  rw [State.reg_raise_other _ _ _ _ _ (by decide) (by decide)]
  exact State.reg_setReg_same s mgrEpoch _

theorem relayedCommandOp_unrelayed {op : Nat} {c : HostCmd} {s : State} (h : c.epoch = none) : relayedCommandOp op c s = s := by
  unfold relayedCommandOp
  rw [h]

theorem relayedCommandOp_older {op : Nat} {c : HostCmd} {s : State} {e : Word} (h : c.epoch = some e) (hold : e.toNat < (s.reg mgrEpoch).toNat) :
    relayedCommandOp op c s = s.raise mgrEvt 2 := by
  unfold relayedCommandOp
  rw [h]
  dsimp only
  rw [State.newEpoch_older hold]
  exact if_neg Bool.false_ne_true

theorem relayedCommandOp_applies {op : Nat} {c : HostCmd} {s : State} {e : Word} (h : c.epoch = some e) (hnew : (s.reg mgrEpoch).toNat ≤ e.toNat)
    (hrole : s.net.role = 1 → e = s.reg mgrEpoch) : relayedCommandOp op c s = applyCommand op c (s.setReg mgrEpoch e) := by
  unfold relayedCommandOp
  rw [h]
  dsimp only
  rw [State.newEpoch_taken hnew hrole]
  exact if_pos rfl

theorem relayedCompletionOp_other (c : RelayedCpl) {s : State} (h : s.net.role ≠ 1) : relayedCompletionOp c s = s := if_pos h

/-- The relayed command that a completion ends: its node's, by its tag. -/
def State.relayedFor (s : State) (c : RelayedCpl) : Option (Nat × Nat × HostCmd) :=
  s.net.relayed.find? fun r => r.1 == c.node && r.2.2.tag == c.tag

theorem relayedCompletionOp_unmatched {c : RelayedCpl} {s : State} (hrole : s.net.role = 1) (h : s.relayedFor c = none) :
    relayedCompletionOp c s = s.putCq (s.fld (hifCrCfg 0) 12 8) 0 (s.cplWords c.tag.toNat 0 c.status 0 c.res0 c.res1) := by
  unfold State.relayedFor at h
  unfold relayedCompletionOp
  rw [if_neg (not_not_intro hrole), h]

/-- A completion of a command that no admission routes ends it with its status. -/
theorem relayedCompletionOp_matched {c : RelayedCpl} {s : State} {r : Nat × Nat × HostCmd} (hrole : s.net.role = 1) (h : s.relayedFor c = some r)
    (hroute : s.net.routing.find? (fun x => x.cmd == r.2.2) = none) :
    relayedCompletionOp c s = (s.onNet fun b => { b with relayed := b.relayed.erase r }).complete r.2.2 c.status c.res0.toNat c.res1.toNat := by
  unfold State.relayedFor at h
  unfold relayedCompletionOp
  rw [if_neg (not_not_intro hrole), h]
  dsimp only
  rw [hroute]

/-- A routed admission that its candidate has accepted is over. -/
theorem relayedCompletionOp_admitted {c : RelayedCpl} {s : State} {r : Nat × Nat × HostCmd} {x : RouteSt} (hrole : s.net.role = 1)
    (h : s.relayedFor c = some r) (hroute : s.net.routing.find? (fun x => x.cmd == r.2.2) = some x) (hok : c.status = stOK) :
    relayedCompletionOp c s =
      (s.onNet fun b => { b with relayed := b.relayed.erase r, routing := b.routing.erase x }).complete x.cmd stOK c.res0.toNat c.node := by
  unfold State.relayedFor at h
  unfold relayedCompletionOp
  rw [if_neg (not_not_intro hrole), h]
  dsimp only
  rw [hroute]
  dsimp only
  rw [hok, if_neg (by decide), if_pos rfl]
  rfl

theorem State.complete_net (s : State) (c : HostCmd) (st r0 r1 : Nat) : (s.complete c st r0 r1).net = s.net :=
  (complete_keeps s c st r0 r1 (m_ := 0x2A000) (by decide) (.refl _ s)).net

/-- Settles O47: each event by the lemma of its case, and each frame by the operation's frame law. -/
theorem managersEpochsAndRelays : Obligations.ManagersEpochsAndRelays := by
  unfold Obligations.ManagersEpochsAndRelays
  refine ⟨?announce, ?takeover, ?command, ?completion⟩
  case announce =>
    intro e s
    refine ⟨_, rfl, (epochAnnounceOp_keeps e s (m_ := 0x9001) (by decide) (.refl _ s)).only (by decide), epochAnnounceOp_older,
      fun hnew hother => epochAnnounceOp_taken hnew fun hmaster => hother.resolve_right (not_not_intro hmaster), fun hhigher hmaster => ?_⟩
    rw [epochAnnounceOp_master hhigher hmaster]
    exact ⟨rfl, rfl⟩
  case takeover =>
    intro f s
    refine ⟨_, rfl, (managerTakeoverOp_keeps f s (m_ := 0x29001) (by decide) (.refl _ s)).only (by decide), managerTakeoverOp_other f,
      fun hstandby => ?_⟩
    rw [managerTakeoverOp_standby f hstandby]
    refine ⟨?_, ?_, ?_, s.reg_takeDuties_epoch, State.flag_raise _ _ _ _ (by decide)⟩
    · exact State.raise_net _ _ _ _
    · exact congrArg TickSt.role (State.raise_tick _ _ _ _)
    · exact State.raise_out _ _ _ _
  case command =>
    intro op c s
    refine ⟨_, rfl, (relayedCommandOp_keeps op c s (m_ := 0x6FEFD) (by decide) (.refl _ s)).only (by decide), relayedCommandOp_unrelayed,
      fun e => relayedCommandOp_older, fun e => relayedCommandOp_applies, ?_⟩
    rintro e hepoch hnew hrole rfl
    exact relayedCommandOp_applies hepoch hnew hrole
  case completion =>
    intro c s
    refine ⟨_, rfl, (relayedCompletionOp_keeps c s (m_ := 0x6B8E0) (by decide) (.refl _ s)).only (by decide), relayedCompletionOp_other c,
      relayedCompletionOp_unmatched, fun r hrole hfind hroute => ?_, fun r x hrole hfind hroute hok => ?_⟩
    · have hop := relayedCompletionOp_matched hrole hfind hroute
      refine ⟨hop, ?_⟩
      rw [hop, State.complete_net]
      rfl
    · exact relayedCompletionOp_admitted hrole hfind hroute hok

end Sys2Proof.Machine

/-! SUPPORT. PERST_N, function-level resets and D3hot (R500 to R502, R512, R522, R523): what room in a completion ring and the receipt of slots leave of
the endpoint's own state, what a function's reset clears, and O49. -/

namespace Sys2Proof.Machine

-- The threads of the whole text share one memory limit: these proofs take none of their own.
set_option Elab.async false

open Adr

namespace State

/-! Completions and receipts leave PERST_N and the functions in D3hot (R502, R506, R512). -/

/-- From `s` to `t` PERST_N and the functions in D3hot stay. -/
structure SameDoor (s t : State) : Prop where
  perst : t.host.perst = s.host.perst
  d3 : t.host.d3 = s.host.d3

namespace SameDoor

theorem refl (s : State) : s.SameDoor s := ⟨rfl, rfl⟩

theorem trans {s t u : State} (h : s.SameDoor t) (h' : t.SameDoor u) : s.SameDoor u := ⟨h'.perst.trans h.perst, h'.d3.trans h.d3⟩

theorem of_host {s t : State} (h : t.host = s.host) : s.SameDoor t := ⟨congrArg HostBlk.perst h, congrArg HostBlk.d3 h⟩

theorem ite {s t u : State} {c : Prop} [Decidable c] (ht : s.SameDoor t) (hu : s.SameDoor u) : s.SameDoor (if c then t else u) := by
  split
  · exact ht
  · exact hu

/-- A fold whose step is such a change of a state is one. -/
theorem foldl {α : Type} {f : State → α → State} (hf : ∀ (t : State) (a : α), t.SameDoor (f t a)) (l : List α) (s : State) : s.SameDoor (l.foldl f s) :=
  List.foldlRecOn l f (refl s) fun t h a _ => h.trans (hf t a)

end SameDoor

theorem onCq_sameDoor (s : State) (c : Nat) (f : CplRing → CplRing) : s.SameDoor (s.onCq c f) := ⟨rfl, rfl⟩

theorem onRing_sameDoor (s : State) (n : Nat) (f : CmdRing → CmdRing) : s.SameDoor (s.onRing n f) := ⟨rfl, rfl⟩

theorem emit_sameDoor (s : State) (o : Output) : s.SameDoor (s.emit o) := .of_host rfl

theorem fireVec_sameDoor (s : State) (c : Nat) : s.SameDoor (s.fireVec c) := by
  unfold fireVec
  dsimp only
  split
  · exact ⟨rfl, rfl⟩
  · exact ⟨rfl, rfl⟩

theorem writeCq_sameDoor (s : State) (c : Nat) (e : List Word) : s.SameDoor (s.writeCq c e) := by
  have hwritten : ∀ (o : Output) (f : CplRing → CplRing), s.SameDoor ((s.emit o).onCq c f) := fun o f =>
    (emit_sameDoor s o).trans (onCq_sameDoor _ c f)
  exact .ite ((hwritten _ _).trans (fireVec_sameDoor _ c)) (hwritten _ _)

theorem putCq_sameDoor (s : State) (c kind : Nat) (e : List Word) : s.SameDoor (s.putCq c kind e) := by
  unfold putCq
  split
  · exact .of_host (raise_host _ _ _ _)
  · split
    · exact writeCq_sameDoor s c e
    · split
      · exact .of_host (raise_host _ _ _ _)
      · exact ⟨rfl, rfl⟩

theorem complete_sameDoor (s : State) (c : HostCmd) (st r0 r1 : Nat) : s.SameDoor (s.complete c st r0 r1) := by
  unfold complete
  split
  · exact ⟨rfl, rfl⟩
  · exact putCq_sameDoor s _ _ _

theorem refuse_sameDoor (s : State) (c : HostCmd) (st r0 : Nat) : s.SameDoor (s.refuse c st r0) :=
  (SameDoor.of_host (raise_host _ _ _ _)).trans (complete_sameDoor _ c st r0 0)

theorem receiveSlots_sameDoor (n k : Nat) (s : State) : s.SameDoor (s.receiveSlots n k) := by
  induction k generalizing s with
  | zero => exact .refl s
  | succ k ih =>
    unfold receiveSlots
    split
    · exact .refl s
    · dsimp only
      have hreceived : s.SameDoor ((s.onRing n fun r => { r with rcv := r.rcv + 1 }).count hifCntCmd) :=
        (onRing_sameDoor s n _).trans (.of_host (count_host _ _ _))
      exact SameDoor.trans (.ite (hreceived.trans (onRing_sameDoor _ n _)) (hreceived.trans (refuse_sameDoor _ (s.nextCmd n).2 stOpcode 0))) (ih _)

theorem drainCq_sameDoor (c n : Nat) (s : State) : s.SameDoor (s.drainCq c n) := by
  induction n generalizing s with
  | zero => exact .refl s
  | succ n ih =>
    unfold drainCq
    split
    · exact .refl s
    · split
      · exact .refl s
      · exact ((onCq_sameDoor s c _).trans (writeCq_sameDoor _ c _)).trans (ih _)

theorem hostReports_sameDoor (g : Nat) (l : List ReportRec) (s : State) : s.SameDoor (s.hostReports g l).1 := by
  induction l generalizing s with
  | nil => exact .refl s
  | cons r rest ih =>
    unfold hostReports
    split
    · exact ih s
    · split
      · exact (SameDoor.of_host (raise_host _ _ _ _)).trans (ih _)
      · split
        · exact .refl s
        · exact (putCq_sameDoor s _ _ _).trans (ih _)

theorem sendReports_sameDoor (s : State) (q : Nat) : s.SameDoor (s.sendReports q) :=
  (hostReports_sameDoor (s.gsqGlove q) (s.gsq q).reports s).trans (.of_host rfl)

theorem placeReport_sameDoor (s : State) (q code : Nat) (v : Word) : s.SameDoor (s.placeReport q code v) :=
  SameDoor.trans (t := s.onGsq q _) (.of_host (onGsq_host s q _)) (sendReports_sameDoor _ q)

theorem wakeReport_sameDoor (s : State) (q : Nat) : s.SameDoor (s.wakeReport q) := by
  unfold wakeReport
  dsimp only
  split
  · split
    · exact sendReports_sameDoor s q
    · exact ((sendReports_sameDoor s q).trans (placeReport_sameDoor _ q _ _)).trans
        (.of_host (rerunPoint_keeps _ q 0 (m_ := 0x20) (by decide) (gsqSt_keeps _ q stOK (by decide) (.refl _ _))).host)
  · exact sendReports_sameDoor s q

theorem cqRoom_sameDoor (s : State) (c : Nat) : s.SameDoor (s.cqRoom c) := by
  unfold cqRoom
  dsimp only
  refine SameDoor.trans ?_ (.of_host (buildAll_keeps _ (m_ := 0x488E0) (by decide) (.refl _ _)).host)
  refine ((drainCq_sameDoor c 65536 s).trans (SameDoor.foldl (fun t n => ?_) _ _)).trans (SameDoor.foldl (fun t g => ?_) _ _)
  · split
    · exact receiveSlots_sameDoor n 4096 t
    · exact .refl t
  · split
    · exact wakeReport_sameDoor t _
    · exact .refl t

/-! The resets of functions (R432, R502). -/

/-- A virtual function's rings, window and vectors at their reset values. -/
def vfCleared (s : State) (f : Nat) : State :=
  ((s.ringsOf f).foldl (fun t n => (t.clearReg (hifCrCfg n)).onRing n fun r => { r with rcv := 0 })
    ((s.cqsOf f).foldl (fun t c => (((t.dropCq c).clearReg (hifCqBase c)).clearReg (hifCqCfg c)).clearReg (hifCqHead c)) s)).onHost fun h =>
    { h with vfMsix := h.vfMsix.filter fun p => p.1 / 16 ≠ f, pba := h.pba.put f 0, vfBase := h.vfBase.put f 0, d3 := h.d3.filter (· ≠ f) }

theorem resetVf_unbound {s : State} {f : Nat} (h : s.vfGlove f = none) : s.resetVf f = s.vfCleared f := by
  unfold resetVf
  dsimp only
  rw [h]
  rfl

theorem resetVf_bound {s : State} {f g : Nat} (h : s.vfGlove f = some g) : s.resetVf f = (s.vfCleared f).beginReset g 7 := by
  unfold resetVf
  dsimp only
  rw [h]
  rfl

theorem vfBase_vfCleared (s : State) (f : Nat) : (s.vfCleared f).host.vfBase.at f = 0 := by
  unfold vfCleared
  rw [onHost_host]
  exact SMap.at_put_same _ f 0

theorem pba_vfCleared (s : State) (f : Nat) : (s.vfCleared f).host.pba.at f = 0 := by
  unfold vfCleared
  rw [onHost_host]
  exact SMap.at_put_same _ f 0

theorem vfCleared_glv (s : State) (f : Nat) : (s.vfCleared f).glv = s.glv := by
  have hcqs : Keeps 0xA000 s ((s.cqsOf f).foldl
      (fun t c => (((t.dropCq c).clearReg (hifCqBase c)).clearReg (hifCqCfg c)).clearReg (hifCqHead c)) s) :=
    .foldl (fun t c => clearReg_keeps _ _ (by decide) (clearReg_keeps _ _ (by decide) (clearReg_keeps _ _ (by decide)
      (dropCq_keeps t c (by decide) (.refl _ t))))) (.refl _ s)
  exact (Keeps.foldl (fun t n => onRing_keeps _ n _ (by decide) (clearReg_keeps t _ (by decide) (.refl _ t))) hcqs).glv

end State

/-! The commands. -/

theorem perstNAssertOp_again {s : State} (h : s.host.perst = true) : perstNAssertOp s = s := if_pos h

theorem perstNAssertOp_resets {s : State} (h : s.host.perst = false) :
    perstNAssertOp s = s.resetPf.onHost fun x => { x with perst := true, gen := 0, width := 0 } := if_neg (ne_true_of_eq_false h)

/-- While PERST_N is asserted no BAR is open. -/
theorem State.barOpen_of_perst {s : State} (h : s.host.perst = true) (f : Nat) : s.barOpen f = false := by
  simp [State.barOpen, h]

/-- In D3hot a function's BAR is closed. -/
theorem State.barOpen_of_d3 {s : State} {f : Nat} (h : f ∈ s.host.d3) : s.barOpen f = false := by
  simp [State.barOpen, h]

theorem perstNReleaseOp_idle {s : State} (h : s.host.perst = false) : perstNReleaseOp s = s := if_pos h

/-- The state in which PERST_N is released. -/
def State.perstReleased (s : State) : State := s.onHost fun h => { h with perst := false }

theorem perstNReleaseOp_releases {s : State} (h : s.host.perst = true) :
    perstNReleaseOp s = if 5 ≤ s.aos.stage then s.perstReleased.trainHost else s.perstReleased := if_neg (ne_false_of_eq_true h)

/-- The host block after the link to the host has trained: some rate and some width. -/
theorem State.trainHost_host {s : State} (h : s.host.perst = false) :
    ∃ f : Nat, s.trainHost.host = { s.host with gen := 1 + f % 5, width := 2 ^ (f / 8 % 4) } := by
  unfold State.trainHost
  rw [if_neg (ne_true_of_eq_false h)]
  exact ⟨_, rfl⟩

theorem pfFlrOp_idle {s : State} (h : s.host.perst = true) : pfFlrOp s = s := if_pos h

/-- The state in which every VF in use has been reset. -/
def State.vfsReset (s : State) : State :=
  ((List.range 64).map (· + 1)).foldl (fun t f =>
    if (t.ringsOf f ≠ []) ∨ (t.cqsOf f ≠ []) ∨ (t.vfGlove f).isSome ∨ t.host.d3.contains f then t.resetVf f else t) s

theorem pfFlrOp_resets {s : State} (h : s.host.perst = false) : pfFlrOp s = s.vfsReset.resetPf := if_neg (ne_true_of_eq_false h)

/-- With no VF in use there is none to reset. -/
theorem State.vfsReset_unused {s : State}
    (h : ∀ f, 1 ≤ f → f ≤ 64 → s.ringsOf f = [] ∧ s.cqsOf f = [] ∧ s.vfGlove f = none ∧ f ∉ s.host.d3) : s.vfsReset = s := by
  refine List.foldlRecOn (motive := (· = s)) _ _ rfl ?_
  rintro _ rfl f hf
  obtain ⟨i, hi, rfl⟩ := List.mem_map.mp hf
  obtain ⟨hrings, hcqs, hglove, hd3⟩ := h (i + 1) (by omega) (by have := List.mem_range.mp hi; omega)
  exact if_neg (by simp [hrings, hcqs, hglove, hd3])

theorem vfFlrOp_idle {vf : Nat} {s : State} (h : vf = 0 ∨ s.funcExists vf = false ∨ s.host.perst = true) : vfFlrOp vf s = s := if_pos h

theorem vfFlrOp_resets {vf : Nat} {s : State} (hvf : vf ≠ 0) (hexists : s.funcExists vf = true) (hperst : s.host.perst = false) :
    vfFlrOp vf s = s.resetVf vf := if_neg (by simp [hvf, hexists, hperst])

theorem d3hotEntryOp_idle {func : Nat} {s : State} (h : s.host.perst = true ∨ s.funcExists func = false ∨ func ∈ s.host.d3) :
    d3hotEntryOp func s = s := if_pos (by simpa using h)

theorem d3hotEntryOp_enters {func : Nat} {s : State} (hperst : s.host.perst = false) (hexists : s.funcExists func = true)
    (hd0 : func ∉ s.host.d3) : d3hotEntryOp func s = s.onHost fun h => { h with d3 := h.d3 ++ [func] } :=
  if_neg (by simp [hperst, hexists, hd0])

theorem d3hotExitOp_idle {func : Nat} {s : State} (h : func ∉ s.host.d3) : d3hotExitOp func s = s := if_pos (by simpa using h)

/-- The state in which a function is back in D0. -/
def State.inD0 (s : State) (f : Nat) : State := s.onHost fun h => { h with d3 := h.d3.filter (· ≠ f) }

/-- What the exit lets go on leaves PERST_N and the functions in D3hot. -/
theorem d3hotExitOp_sameDoor {func : Nat} {s : State} (h : func ∈ s.host.d3) : (s.inD0 func).SameDoor (d3hotExitOp func s) := by
  unfold d3hotExitOp
  rw [if_neg (by simp [h])]
  exact (State.SameDoor.foldl (fun t c => t.cqRoom_sameDoor c) _ _).trans (.foldl (fun t n => t.receiveSlots_sameDoor n 4096) _ _)

/-- Settles O49: each event by the lemma of its case, and each frame by the operation's frame law. -/
theorem hostFunctionResets : Obligations.HostFunctionResets := by
  unfold Obligations.HostFunctionResets
  refine ⟨?assert, ?release, ?pf, ?vf, ?entry, ?exit⟩
  case assert =>
    intro s
    refine ⟨_, rfl, (perstNAssertOp_keeps s (m_ := 0xA000) (by decide) (.refl _ s)).only (by decide), perstNAssertOp_again, fun hperst => ?_⟩
    rw [perstNAssertOp_resets hperst]
    exact ⟨rfl, rfl, rfl, rfl, rfl, rfl, rfl, rfl, State.barOpen_of_perst rfl⟩
  case release =>
    intro s
    refine ⟨_, rfl, (perstNReleaseOp_keeps s (m_ := 0x42000) (by decide) (.refl _ s)).only (by decide), perstNReleaseOp_idle, fun hperst => ?_⟩
    rw [perstNReleaseOp_releases hperst]
    by_cases hstage : 5 ≤ s.aos.stage
    · obtain ⟨f, hhost⟩ := State.trainHost_host (s := s.perstReleased) rfl
      rw [if_pos hstage, hhost]
      refine ⟨rfl, rfl, fun hearly => absurd hstage (Nat.not_le.mpr hearly), fun _ => ⟨Nat.le_add_right 1 _, ?_, ?_⟩⟩
      · change 1 + f % 5 ≤ 5
        omega
      · change 2 ^ (f / 8 % 4) = 1 ∨ 2 ^ (f / 8 % 4) = 2 ∨ 2 ^ (f / 8 % 4) = 4 ∨ 2 ^ (f / 8 % 4) = 8
        have hwidth : ∀ k < 4, 2 ^ k = 1 ∨ 2 ^ k = 2 ∨ 2 ^ k = 4 ∨ 2 ^ k = 8 := by decide
        exact hwidth _ (Nat.mod_lt _ (by decide))
    · rw [if_neg hstage]
      exact ⟨rfl, rfl, fun _ => rfl, fun hlate => absurd hlate hstage⟩
  case pf =>
    intro s
    refine ⟨_, rfl, (pfFlrOp_keeps s (m_ := 0x6A8F0) (by decide) (.refl _ s)).only (by decide), pfFlrOp_idle, fun hperst => ?_,
      fun hperst hunused => ?_⟩
    · rw [pfFlrOp_resets hperst]
      exact ⟨rfl, rfl, rfl, rfl, rfl, rfl⟩
    · rw [pfFlrOp_resets hperst, State.vfsReset_unused hunused]
  case vf =>
    intro vf s
    refine ⟨_, rfl, (vfFlrOp_keeps vf s (m_ := 0x6A8F0) (by decide) (.refl _ s)).only (by decide), vfFlrOp_idle, fun hvf hexists hperst => ?_,
      fun g hvf hexists hperst hbound hlive hresetting => ?_⟩
    · rw [vfFlrOp_resets hvf hexists hperst]
      refine ⟨rfl, fun hunbound => ?_⟩
      rw [State.resetVf_unbound hunbound]
      refine ⟨fun hmem => ?_, s.vfBase_vfCleared vf, s.pba_vfCleared vf, fun p hp => ?_⟩
      · exact absurd rfl (of_decide_eq_true (List.mem_filter.mp hmem).2)
      · exact of_decide_eq_true (List.mem_filter.mp hp).2
    · have hglove : (s.vfCleared vf).glove g = s.glove g := State.glove_of_glv (s.vfCleared_glv vf) g
      obtain ⟨hbegins, -, hcause, -⟩ := State.beginReset_begins 7 (hglove ▸ hlive) (hglove ▸ hresetting)
      rw [vfFlrOp_resets hvf hexists hperst, State.resetVf_bound hbound]
      exact ⟨hbegins, hcause⟩
  case entry =>
    intro func s
    refine ⟨_, rfl, (d3hotEntryOp_keeps func s (m_ := 0x2000) (by decide) (.refl _ s)).only (by decide), d3hotEntryOp_idle,
      fun hperst hexists hd0 => ?_⟩
    rw [d3hotEntryOp_enters hperst hexists hd0]
    exact ⟨rfl, State.barOpen_of_d3 (List.mem_append_right _ (List.mem_singleton_self _))⟩
  case exit =>
    intro func s
    refine ⟨_, rfl, (d3hotExitOp_keeps func s (m_ := 0x6A8E0) (by decide) (.refl _ s)).only (by decide), d3hotExitOp_idle, fun hd3 => ?_⟩
    have hdoor := d3hotExitOp_sameDoor hd3
    have hfilter : (d3hotExitOp func s).host.d3 = s.host.d3.filter (· ≠ func) := hdoor.d3
    rw [hfilter]
    refine ⟨by simp, hdoor.perst, fun f hf => ?_⟩
    simp [hf]

end Sys2Proof.Machine

/-! SUPPORT. The checks that every host command passes before its own meaning (R514, R636), and O54. -/

namespace Sys2Proof.Machine

-- The threads of the whole text share one memory limit: these proofs take none of their own.
set_option Elab.async false

open Adr

namespace State

/-- A command that sets a bit that its row does not name is refused for it. -/
theorem command_reserved {s : State} {c : HostCmd} {row : CmdRow} {f : HostCmd → State → State} (h : reservedSet c row.masks = true) :
    s.command c row f = (s.taken c row.op).refuse c stBound := if_pos h

/-- A command of the PF alone that comes from a virtual function is not permitted. -/
theorem command_pf_only {s : State} {c : HostCmd} {row : CmdRow} {f : HostCmd → State → State} (h : reservedSet c row.masks = false)
    (hpf : row.pfOnly = true) (hvf : c.func ≠ 0) : s.command c row f = (s.taken c row.op).refuse c stNotPermitted := by
  unfold command
  dsimp only
  rw [if_neg (ne_true_of_eq_false h)]
  exact if_pos ⟨hpf, hvf⟩

/-- A command of the PF in a module state that its row does not name is refused for the module. -/
theorem command_module_state {s u : State} {c : HostCmd} {row : CmdRow} {f : HostCmd → State → State} (haccepts : s.Accepts c row.op row.masks u)
    (hset : row.set u = false) : s.command c row f = u.refuseModule c := by
  obtain ⟨rfl, hfunc, hmasks⟩ := haccepts
  unfold command
  dsimp only
  rw [if_neg (ne_true_of_eq_false hmasks), if_neg (by simp [hfunc]), if_pos hfunc]
  exact if_pos hset

/-- A command of a virtual function acts on the glove that the function is bound to, in place of the one that it names. -/
theorem command_of_vf {s u : State} {c : HostCmd} {row : CmdRow} {f : HostCmd → State → State} {name : HostCmd → Nat} {g : Nat}
    (hu : u = s.taken c row.op) (h : reservedSet c row.masks = false) (hrow : row.pfOnly = false) (hvf : c.func ≠ 0) (hset : row.set u = true)
    (hbound : u.vfGlove c.func = some g) (hglove : row.glove = some name) (hlive : (u.glove (name (row.forVf g (u.glove g).key c))).live = true) :
    s.command c row f = f (row.forVf g (u.glove g).key c) u := by
  subst hu
  unfold command
  dsimp only
  rw [if_neg (ne_true_of_eq_false h), if_neg (by simp [hrow]), if_neg hvf, hbound]
  dsimp only
  rw [if_neg (ne_false_of_eq_true hset), hglove]
  exact if_neg (by simp [hlive])

end State

/-- Settles O54: each check by the lemma that says it of every row. -/
theorem sharedCommandChecks : Obligations.SharedCommandChecks := by
  unfold Obligations.SharedCommandChecks
  refine ⟨?alloc, ?start, ?create, ?park⟩
  case alloc =>
    rintro c s u rfl
    refine ⟨fun h => congrArg Host.Outcome.next (State.command_reserved h),
      fun h hpf hset => congrArg Host.Outcome.next (State.command_module_state ⟨rfl, hpf, h⟩ hset),
      fun h hpf hset hfree => congrArg Host.Outcome.next (State.command_free_glove ⟨rfl, hpf, h⟩ hset rfl hfree),
      fun g h hvf hset hbound hlive => congrArg Host.Outcome.next (State.command_of_vf rfl h rfl hvf hset hbound rfl hlive)⟩
  case start =>
    rintro c s u rfl
    refine ⟨fun h => congrArg Host.Outcome.next (State.command_reserved h),
      fun h hpf hset => congrArg Host.Outcome.next (State.command_module_state ⟨rfl, hpf, h⟩ hset),
      fun h hpf hset hfree => congrArg Host.Outcome.next (State.command_free_glove ⟨rfl, hpf, h⟩ hset rfl hfree),
      fun g h hvf hset hbound hlive => congrArg Host.Outcome.next (State.command_of_vf rfl h rfl hvf hset hbound rfl hlive)⟩
  case create =>
    rintro c s u rfl
    exact ⟨fun h => congrArg Host.Outcome.next (State.command_reserved h),
      fun h hvf => congrArg Host.Outcome.next (State.command_pf_only h rfl hvf),
      fun h hpf hset => congrArg Host.Outcome.next (State.command_module_state ⟨rfl, hpf, h⟩ hset)⟩
  case park =>
    rintro c s u rfl
    exact ⟨fun h => congrArg Host.Outcome.next (State.command_reserved h),
      fun h hvf => congrArg Host.Outcome.next (State.command_pf_only h rfl hvf),
      fun h hpf hset => congrArg Host.Outcome.next (State.command_module_state ⟨rfl, hpf, h⟩ hset)⟩

end Sys2Proof.Machine

/-! SUPPORT. The commands of service, keys and images (R514, R530, R531, R536 to R539, R590, R594, R597, R637): what each does in the state that has
taken it, and O56. -/

namespace Sys2Proof.Machine

-- The threads of the whole text share one memory limit: these proofs take none of their own.
set_option Elab.async false

open Adr

namespace State

/-! What a completion leaves. -/

theorem complete_aos (s : State) (c : HostCmd) (st r0 r1 : Nat) : (s.complete c st r0 r1).aos = s.aos :=
  (complete_keeps s c st r0 r1 (m_ := 0x2A000) (by decide) (.refl _ s)).aos

theorem complete_keys (s : State) (c : HostCmd) (st r0 r1 : Nat) : (s.complete c st r0 r1).keys = s.keys :=
  (complete_keeps s c st r0 r1 (m_ := 0x2A000) (by decide) (.refl _ s)).keys

theorem complete_arr (s : State) (c : HostCmd) (st r0 r1 : Nat) : (s.complete c st r0 r1).arr = s.arr :=
  (complete_keeps s c st r0 r1 (m_ := 0x2A000) (by decide) (.refl _ s)).arr

theorem refuse_aos (s : State) (c : HostCmd) (st r0 : Nat) : (s.refuse c st r0).aos = s.aos :=
  (complete_aos _ c st r0 0).trans (raise_aos _ _ _ _)

/-! SERVICE_OP (R590): the meaning of an action in the state that has taken its command. -/

/-- What SERVICE_OP of an action does. -/
def serviceAct (s : State) (c : HostCmd) (info : Option DimmInfo) : Nat → State
  | 0 => s.svcFence c (c.a1.field 4 4) c.a2.toNat
  | 1 => s.svcUnfence c (c.a1.field 4 4) c.a2.toNat
  | 2 => s.svcRetire c (c.a1.field 4 4) c.a2.toNat
  | 3 => s.svcChain c (c.a1.field 4 4) c.a2.toNat
  | _ => s.svcReturn c (c.a1.field 4 4) c.a2.toNat info

theorem serviceCmd_acts {s u : State} {c : HostCmd} {action : Nat} (info : Option DimmInfo)
    (haccepts : s.Accepts c 0x007 [bits 0 8, allBits, bits 0 11] u) (hset : u.inA = true) (haction : c.a1.field 0 4 = action) (hle : action ≤ 4) :
    s.serviceCmd c action info = u.serviceAct c info action := by
  unfold serviceCmd
  rw [if_neg (by omega)]
  refine (command_acts_gloveless haccepts hset rfl).trans ((if_neg (by omega)).trans ?_)
  rfl

/-! Palms (R637). -/

theorem svcFence_palm_beyond {s : State} (c : HostCmd) {idx : Nat} (h : 128 ≤ idx) : s.svcFence c 1 idx = s.refuse c stBound := if_pos h

theorem svcFence_palm_again {s : State} (c : HostCmd) {idx : Nat} (hidx : idx < 128) (h : 4 ∈ (s.palm idx).causes) :
    s.svcFence c 1 idx = s.partConflict c 2 idx := (if_neg (Nat.not_le.mpr hidx)).trans (if_pos h)

theorem svcFence_palm {s : State} (c : HostCmd) {idx : Nat} (hidx : idx < 128) (h : 4 ∉ (s.palm idx).causes) :
    s.svcFence c 1 idx = (s.fenceCount.fencePalm idx 4).complete c stOK := (if_neg (Nat.not_le.mpr hidx)).trans (if_neg h)

theorem svcUnfence_palm_beyond {s : State} (c : HostCmd) {idx : Nat} (h : 128 ≤ idx) : s.svcUnfence c 1 idx = s.refuse c stBound := if_pos h

theorem svcUnfence_palm_open {s : State} (c : HostCmd) {idx : Nat} (hidx : idx < 128) (h : 4 ∉ (s.palm idx).causes) :
    s.svcUnfence c 1 idx = s.partConflict c (palmCode (s.palm idx)) idx := (if_neg (Nat.not_le.mpr hidx)).trans (if_pos (.inl h))

theorem svcUnfence_palm {s : State} (c : HostCmd) {idx : Nat} (hidx : idx < 128) (h : 4 ∈ (s.palm idx).causes)
    (hdie : s.dieFenced (idx / 16) = false) : s.svcUnfence c 1 idx = (s.freePalm idx 4).complete c stOK :=
  (if_neg (Nat.not_le.mpr hidx)).trans (if_neg (by simp [h, hdie]))

theorem palm_onPalm_same (s : State) (p : Nat) (f : PalmSt → PalmSt) : (s.onPalm p f).palm p = f (s.palm p) := SMap.at_upd_same s.arr.palms p f

theorem palm_complete (s : State) (c : HostCmd) (st r0 r1 p : Nat) : (s.complete c st r0 r1).palm p = s.palm p :=
  congrArg (·.palms.at p) (complete_arr s c st r0 r1)

theorem palm_freePalm (s : State) (p cause : Nat) :
    (s.freePalm p cause).palm p = { s.palm p with causes := (s.palm p).causes.filter (· ≠ cause) } :=
  palm_onPalm_same s p _

/-! Links (R465). -/

theorem svcFence_link_beyond {s : State} (c : HostCmd) {idx : Nat} (h : 96 ≤ idx) : s.svcFence c 5 idx = s.refuse c stBound := if_pos h

theorem svcFence_link_again {s : State} (c : HostCmd) {idx : Nat} (hidx : idx < 96) (h : (s.link idx).st = .fenced) :
    s.svcFence c 5 idx = s.partConflict c 4 idx := (if_neg (Nat.not_le.mpr hidx)).trans (if_pos h)

theorem svcFence_link {s : State} (c : HostCmd) {idx : Nat} (hidx : idx < 96) (h : (s.link idx).st ≠ .fenced) :
    s.svcFence c 5 idx = (s.fenceLink idx).complete c stOK := (if_neg (Nat.not_le.mpr hidx)).trans (if_neg h)

/-- A link that is fenced loses what it had still to send and to put together. -/
theorem link_fenceLink {s : State} {l : Nat} (h : (s.link l).st ≠ .fenced) :
    (s.fenceLink l).link l = { s.link l with st := .fenced, txq := [], asm := [], unacked := [], resend := 0 } := by
  have hfenced : s.fenceLink l =
      ((s.slotBreaks l).onLink l fun x => { x with st := .fenced, txq := [], asm := [], unacked := [], resend := 0 }).fenceCount := if_neg h
  rw [hfenced, link_of_net (fenceCount_keeps _ (m_ := 0x8000) (by decide) (.refl _ _)).net, link_onLink_same, link_of_net (s.slotBreaks_net l)]

theorem svcUnfence_link_beyond {s : State} (c : HostCmd) {idx : Nat} (h : 96 ≤ idx) : s.svcUnfence c 5 idx = s.refuse c stBound := if_pos h

/-- The state in which a link that was FENCED is DOWN. -/
def linkUnfenced (s : State) (l : Nat) : State := (s.onLink l fun x => { x with st := .down, wasUp := false }).raise (lnkEvt l) 3

theorem svcUnfence_link {s : State} (c : HostCmd) {idx : Nat} (hidx : idx < 96) (h : (s.link idx).st = .fenced) :
    s.svcUnfence c 5 idx = (s.linkUnfenced idx).complete c stOK := (if_neg (Nat.not_le.mpr hidx)).trans (if_neg (not_not_intro h))

theorem link_linkUnfenced (s : State) (l : Nat) : (s.linkUnfenced l).link l = { s.link l with st := .down, wasUp := false } :=
  (link_of_net (raise_net _ _ _ _) l).trans (link_onLink_same _ _ _)

/-! Channels (R315, R316). -/

theorem svcFence_channel_closed {s : State} (c : HostCmd) {idx : Nat} (hidx : idx < s.variant.channels)
    (h : s.portSt false idx = .absent ∨ s.portSt false idx = .fenced) :
    s.svcFence c 3 idx = s.partConflict c (portCode (s.portSt false idx)) idx :=
  (if_neg (not_or.mpr ⟨by decide, Nat.not_le.mpr hidx⟩)).trans (if_pos h)

theorem svcFence_channel {s : State} (c : HostCmd) {idx : Nat} (hidx : idx < s.variant.channels) (habsent : s.portSt false idx ≠ .absent)
    (hfenced : s.portSt false idx ≠ .fenced) : s.svcFence c 3 idx = (s.fencePort false idx).complete c stOK :=
  (if_neg (not_or.mpr ⟨by decide, Nat.not_le.mpr hidx⟩)).trans (if_neg (not_or.mpr ⟨habsent, hfenced⟩))

theorem svcRetire_channel_other {s : State} (c : HostCmd) {idx : Nat} (hidx : idx < s.variant.channels) (h : s.portSt false idx ≠ .active) :
    s.svcRetire c 3 idx = s.partConflict c (portCode (s.portSt false idx)) idx :=
  (if_neg (not_or.mpr ⟨by decide, Nat.not_le.mpr hidx⟩)).trans (if_pos h)

theorem svcRetire_channel {s : State} (c : HostCmd) {idx : Nat} (hidx : idx < s.variant.channels) (h : s.portSt false idx = .active) :
    s.svcRetire c 3 idx = (s.drainPort false idx).complete c stOK :=
  (if_neg (not_or.mpr ⟨by decide, Nat.not_le.mpr hidx⟩)).trans (if_neg (not_not_intro h))

/-- No action of SERVICE_OP fences an object past those of the table. -/
theorem svcFence_unknown {s : State} (c : HostCmd) {obj idx : Nat} (h : 7 ≤ obj) : s.svcFence c obj idx = s.refuse c stBound := by
  unfold svcFence
  split
  · omega
  · omega
  · omega
  · omega
  · exact if_pos (.inl (by omega))

/-! Frames (R297, R317). -/

theorem svcRetire_frame_absent {s : State} (c : HostCmd) {idx : Nat} (hidx : idx < 65536) (h : (s.frame idx).mode = .absent) :
    s.svcRetire c 6 idx = s.partConflict c 0 idx := (if_neg (Nat.not_le.mpr hidx)).trans (if_pos h)

/-- A frame with a FREE one on its die is retired. -/
theorem svcRetire_frame {s : State} (c : HostCmd) {idx : Nat} {b : Nat × FrameSt} (hidx : idx < 65536) (hmode : (s.frame idx).mode ≠ .absent)
    (hb : b ∈ s.mem.tmap) (hother : b.1 ≠ idx) (hfree : b.2.mode = .free) (hdie : s.stackDie b.2.stack = s.frameDie idx) :
    s.svcRetire c 6 idx = (s.retireFrame idx).complete c stOK := by
  have hspare : (s.mem.tmap.any fun p => p.1 != idx && p.2.mode == .free && s.stackDie p.2.stack == s.frameDie idx) = true :=
    List.any_eq_true.mpr ⟨b, hb, by simp [hother, hfree, hdie]⟩
  exact (if_neg (Nat.not_le.mpr hidx)).trans ((if_neg hmode).trans (if_neg (ne_false_of_eq_true hspare)))

/-! Repair chains (R102, R106). -/

/-- The kind of cell that FORM_CHAIN names. -/
def chainKind (c : HostCmd) : Kind := if c.a3.bit 5 then .m else .c

theorem svcChain_bound {s : State} {c : HostCmd} {obj idx : Nat} (h : obj ≠ 0 ∨ 8 ≤ idx ∨ 24 ≤ c.a3.field 0 5 ∨ 24 ≤ c.a3.field 6 5) :
    s.svcChain c obj idx = s.refuse c stBound := by
  refine if_pos ?_
  rcases h with h | h | h | h
  · exact .inl h
  · exact .inr (.inl h)
  · exact .inr (.inr (.inl h))
  · exact .inr (.inr (.inr (.inl h)))

theorem svcChain_forms {s : State} {c : HostCmd} {idx : Nat} (hidx : idx < 8) (hrow : c.a3.field 0 5 < 24) (hcol : c.a3.field 6 5 < 24)
    (hkind : (c.a3.field 0 5 + c.a3.field 6 5) % 2 = if c.a3.bit 5 then 1 else 0) (hfree : s.chainFree idx (c.a3.field 0 5) (c.a3.field 6 5) = true)
    (hchain : chainOf (s.repair idx (c.a3.field 0 5)) (chainKind c) = none) (hwait : chainWait (s.repair idx (c.a3.field 0 5)) (chainKind c) = none)
    (hspare : spareOk (s.repair idx (c.a3.field 0 5)) (chainKind c) = true) :
    s.svcChain c 0 idx = (s.formChain idx (c.a3.field 0 5) (chainKind c) (c.a3.field 6 5) true).complete c stOK := by
  unfold chainKind at *
  unfold svcChain
  dsimp only
  rw [if_neg, if_neg (by simp [hfree, hchain, hwait, hspare])]
  rintro (h | h | h | h | h)
  · exact h rfl
  · omega
  · omega
  · omega
  · refine h (hkind.trans ?_)
    split
    · rfl
    · rfl

/-! The return of a part (R308, R316). -/

theorem svcReturn_unknown {s : State} {c : HostCmd} {obj idx : Nat} {info : Option DimmInfo} (h3 : obj ≠ 3) (h4 : obj ≠ 4) :
    s.svcReturn c obj idx info = s.refuse c stBound := if_pos (.inl ⟨h3, h4⟩)

theorem svcReturn_channel_refused {s : State} {c : HostCmd} {idx : Nat} {info : Option DimmInfo} (hidx : idx < s.variant.channels)
    (h : s.portSt false idx ≠ .fenced ∨ info = none) :
    s.svcReturn c 3 idx info = s.partConflict c (portCode (s.portSt false idx)) idx := by
  unfold svcReturn
  dsimp only
  refine (if_neg (not_or.mpr ⟨by decide, Nat.not_le.mpr hidx⟩)).trans (if_pos ?_)
  rcases h with h | rfl
  · exact .inl h
  · exact .inr (.inr (.inl rfl))

/-- The command is held by the channel until its training has run. -/
theorem svcReturn_channel {s : State} {c : HostCmd} {idx : Nat} {i : DimmInfo} (hidx : idx < s.variant.channels)
    (hfenced : s.portSt false idx = .fenced) (hidle : (s.mem.ddr.at idx).returnCmd = none)
    (hkind : s.dimmKind = none ∨ s.dimmKind = some i.mrdimm) :
    s.svcReturn c 3 idx (some i) = s.onDdr idx fun d => { d with returnCmd := some c } := by
  unfold svcReturn
  dsimp only
  refine (if_neg (not_or.mpr ⟨by decide, Nat.not_le.mpr hidx⟩)).trans ((if_neg ?_).trans (if_neg (by decide)))
  rcases hkind with h | h
  · simp [hfenced, hidle, h]
  · simp [hfenced, hidle, h]

/-! KEY_OP (R537, R539). -/

/-- The tag of a key. -/
def keyTag (k : List Byte) : BitVec 128 := BitVec.ofNat 128 (ofBytes (Config.shake256 (k ++ ascii "LZ3-TAG") 16))

/-- The key that an installation command wraps, unwrapped under the key pair of the current report. -/
def wrappedKey (s : State) (c : HostCmd) (m : BitVec 448) (n : Nat) : Option (List Byte) :=
  Config.unwrapKey (s.kek m n) (wordBytes [c.a2, c.a3, c.a4, c.a5, c.a6])

/-- The state whose exchanged key is used up. -/
def xkeySpent (s : State) : State := s.onAos fun a => { a with xkey := none }

/-- A key that is put in a slot is installed there, and no other slot changes. -/
theorem putKey_keys (s : State) (n : Nat) (k : List Byte) :
    ∃ key : KeySt, key.installed = true ∧ key.k = k ∧ (s.putKey n k).keys = s.keys.put n key := by
  unfold putKey
  dsimp only
  rw [onMem_keys]
  dsimp only
  refine ⟨_, ?_, ?_, rfl⟩
  · rfl
  · rfl

theorem keyCmd_acts {s u : State} {c : HostCmd} {action : Nat}
    (haccepts : s.Accepts c 0x008 [bits 0 10, allBits, allBits, allBits, allBits, allBits] u) (hset : u.inA = true)
    (haction : c.a1.field 8 2 = action) (hle : action ≤ 1) :
    s.keyCmd c action =
      if action = 0 then u.installKey c (c.a1.field 0 8)
      else if (u.keys.at (c.a1.field 0 8)).installed = false then u.keyConflict c (c.a1.field 0 8)
      else (u.eraseKey (c.a1.field 0 8)).complete c stOK := by
  unfold keyCmd
  rw [if_neg (by omega)]
  exact (command_acts_gloveless haccepts hset rfl).trans (if_neg (by omega))

theorem not_all_installed {s : State} {n : Nat} (hn : n < 256) (hempty : (s.keys.at n).installed = false) :
    ¬ ((List.range 256).all fun i => (s.keys.at i).installed) = true := by
  simp only [List.all_eq_true, List.mem_range, not_forall]
  exact ⟨n, hn, by simp [hempty]⟩

theorem installKey_unexchanged {s : State} {c : HostCmd} {n : Nat} (hn : n < 256) (hempty : (s.keys.at n).installed = false)
    (hkey : s.aos.xkey = none) : s.installKey c n = s.keyConflict c n := by
  refine (if_neg (not_all_installed hn hempty)).trans ((if_neg (ne_true_of_eq_false hempty)).trans ?_)
  rw [hkey]

theorem installKey_unwraps_none {s : State} {c : HostCmd} {n : Nat} {m : BitVec 448} (hn : n < 256) (hempty : (s.keys.at n).installed = false)
    (hkey : s.aos.xkey = some m) (hwrap : s.wrappedKey c m n = none) : s.installKey c n = s.xkeySpent.refuse c stSig := by
  unfold wrappedKey at hwrap
  refine (if_neg (not_all_installed hn hempty)).trans ((if_neg (ne_true_of_eq_false hempty)).trans ?_)
  rw [hkey]
  dsimp only
  rw [hwrap]
  rfl

/-- A key that unwraps is put in its slot under a policy that allows it, unless another slot holds its tag. -/
theorem installKey_unwraps {s : State} {c : HostCmd} {n : Nat} {m : BitVec 448} {k : List Byte} (hn : n < 256)
    (hempty : (s.keys.at n).installed = false) (hkey : s.aos.xkey = some m) (hwrap : s.wrappedKey c m n = some k) :
    s.installKey c n =
      if s.aos.repPolicy / 2 ≠ 0 then s.xkeySpent.refuse c stSig
      else if s.keys.any fun p => p.2.installed && p.2.tag == keyTag k then s.xkeySpent.keyConflict c n
      else (s.xkeySpent.putKey n k).complete c stOK := by
  unfold wrappedKey at hwrap
  refine (if_neg (not_all_installed hn hempty)).trans ((if_neg (ne_true_of_eq_false hempty)).trans ?_)
  rw [hkey]
  dsimp only
  rw [hwrap]
  rfl

theorem installKey_installs {s : State} {c : HostCmd} {n : Nat} {m : BitVec 448} {k : List Byte} (hn : n < 256)
    (hempty : (s.keys.at n).installed = false) (hkey : s.aos.xkey = some m) (hwrap : s.wrappedKey c m n = some k) (hpolicy : s.aos.repPolicy < 2)
    (hunique : ∀ p ∈ s.keys, p.2.installed = true → p.2.tag ≠ keyTag k) :
    s.installKey c n = (s.xkeySpent.putKey n k).complete c stOK := by
  rw [installKey_unwraps hn hempty hkey hwrap, if_neg (by omega), if_neg]
  simp only [List.any_eq_true, Bool.and_eq_true, beq_iff_eq, not_exists, not_and]
  exact hunique

/-- Whatever becomes of an installation, it uses the exchanged key up. -/
theorem installKey_xkey {s : State} {c : HostCmd} {n : Nat} {m : BitVec 448} (hn : n < 256) (hempty : (s.keys.at n).installed = false)
    (hkey : s.aos.xkey = some m) : (s.installKey c n).aos.xkey = none := by
  have hrefused : ∀ st r0, (s.xkeySpent.refuse c st r0).aos.xkey = none := fun st r0 => congrArg AosBlk.xkey (refuse_aos _ c st r0)
  cases hwrap : s.wrappedKey c m n with
  | none =>
    rw [installKey_unwraps_none hn hempty hkey hwrap]
    exact hrefused stSig 0
  | some k =>
    rw [installKey_unwraps hn hempty hkey hwrap]
    split
    · exact hrefused stSig 0
    · split
      · exact hrefused _ _
      · exact congrArg AosBlk.xkey (complete_aos _ c stOK 0 0)

/-! IMAGE_OP (R531, R594, R597). -/

theorem imageCmd_acts {s u : State} {c : HostCmd} {action : Nat} (f : State → HostCmd → State)
    (haccepts : s.Accepts c 0x009 (if action = 1 then [bits 0 2, bits 0 3, 0] else [bits 0 2, allBits, allBits]) u) (hset : u.inA = true)
    (haction : c.a1.field 0 2 = action) (hle : action ≤ 2) : s.imageCmd c action f = f u c := by
  unfold imageCmd
  rw [if_neg (by omega)]
  exact (command_acts_gloveless haccepts hset rfl).trans (if_neg (by omega))

theorem stageImage_unmapped {s : State} {c : HostCmd} (h : s.imageBytes c = none) : s.stageImage c = s.refuse c stBound := by
  unfold stageImage
  rw [h]

/-- The banks of a stage with an image STAGED. -/
def stagedBanks (d : List Byte) (b : FwBanks) : FwBanks := { b with staged := some { svn := leAt d 0x0C 1, bytes := d, sound := true } }

/-- The state in which an image is STAGED of its stage in both stores. -/
def staged (s : State) (d : List Byte) : State :=
  s.onAos fun a => { a with banks := (a.banks.upd (leAt d 6 2) (stagedBanks d)).upd (16 + leAt d 6 2) (stagedBanks d) }

theorem stageImage_checked {s : State} {c : HostCmd} {d : List Byte} (h : s.imageBytes c = some d) :
    s.stageImage c =
      if s.imageCheck d (fun g => 2 ≤ g && g ≤ 4) ≠ stOK then s.refuseImage c (s.imageCheck d fun g => 2 ≤ g && g ≤ 4)
      else (s.staged d).complete c stOK := by
  unfold stageImage
  rw [h]
  rfl

theorem banks_staged_second (s : State) (d : List Byte) :
    (s.staged d).aos.banks.at (16 + leAt d 6 2) = stagedBanks d ((s.aos.banks.upd (leAt d 6 2) (stagedBanks d)).at (16 + leAt d 6 2)) := by
  unfold staged
  rw [onAos_aos]
  exact SMap.at_upd_same _ _ _

theorem banks_staged_first (s : State) (d : List Byte) : (s.staged d).aos.banks.at (leAt d 6 2) = stagedBanks d (s.aos.banks.at (leAt d 6 2)) := by
  unfold staged
  rw [onAos_aos]
  exact (SMap.at_upd_other _ _ (by omega)).trans (SMap.at_upd_same _ _ _)

theorem activate_bound {s : State} {c : HostCmd} (h : c.a2.toNat < 2 ∨ 4 < c.a2.toNat) : s.activate c = s.refuse c stBound := if_pos h

theorem activate_unstaged {s : State} {c : HostCmd} (hlo : 2 ≤ c.a2.toNat) (hhi : c.a2.toNat ≤ 4) (h : (s.aos.banks.at c.a2.toNat).staged = none) :
    s.activate c = s.refuseModule c := by
  unfold activate
  dsimp only
  rw [if_neg (by omega), h]

/-- The module is ready for an activation: none and no burn is in progress, and the parts that take over from those that restart are ready. -/
structure ReadyToActivate (s : State) : Prop where
  act : s.aos.act = none
  burn : s.aos.burn = none
  standby : s.stw.standbyReady = true
  aos1 : s.aos.aos1Ready = true

theorem activate_starts {s : State} {c : HostCmd} {i j : FwImg} {p : Nat} {rest : List Nat} (hlo : 2 ≤ c.a2.toNat) (hhi : c.a2.toNat ≤ 4)
    (hi : (s.aos.banks.at c.a2.toNat).staged = some i) (hj : (s.aos.banks.at (16 + c.a2.toNat)).staged = some j) (hready : s.ReadyToActivate)
    (hiok : s.imageCheck i.bytes (· == c.a2.toNat) = stOK) (hjok : s.imageCheck j.bytes (· == c.a2.toNat) = stOK)
    (hparts : s.updParts c.a2.toNat = p :: rest) : s.activate c = (s.restartPart c.a2.toNat p rest).complete c stOK := by
  obtain ⟨hact, hburn, hstandby, haos1⟩ := hready
  unfold activate
  dsimp only
  rw [if_neg (by omega), hi, hj]
  dsimp only
  rw [if_neg (by simp [hact, hburn]), if_neg (by simp [hstandby, haos1]), if_neg (not_not_intro hiok), if_neg (not_not_intro hjok), hparts]

theorem writeOtp_unmapped {s : State} {c : HostCmd} (h : s.imageBytes c = none) : s.writeOtp c = s.refuse c stBound := by
  unfold writeOtp
  rw [h]

/-- The payload of an image of an OTP generation that its fields allow (R557, R597). -/
structure OtpPayload (d : List Byte) : Prop where
  fields : imageFields d (· == otpStage) = true
  lo : 0x08A8 ≤ (otpOf d).len
  hi : (otpOf d).len ≤ 16312
  aligned : (otpOf d).len % 8 = 0
  profiles : profilesOk (otpOf d).profiles = true

/-- The area that a burn of the payload is to leave: its repair words, with the chains formed in service. -/
def burnArea (s : State) (d : List Byte) : OtpArea :=
  { otpOf d with repair := (List.range 192).map fun i => repairWord (s.repair (i / 24) (i % 24)) ((otpOf d).repair.getD i 0) }

/-- The state in which generation `g` is used and its burn in progress. -/
def burning (s : State) (g : Nat) (d : List Byte) : State :=
  (s.onAos fun a => { a with otp := setPad a.otp g { (default : OtpArea) with used := true } default, burn := some (g, s.burnArea d) }).setUpd 3 6 g

theorem burning_used (s : State) (g : Nat) (d : List Byte) : ((s.burning g d).aos.otp.getD g default).used = true := by
  have hotp : (s.burning g d).aos.otp = setPad s.aos.otp g { (default : OtpArea) with used := true } default := rfl
  rw [hotp, getD_setPad, if_pos rfl]

theorem find_unused_generation {s : State} {g : Nat} (hg : g < 4) (hunused : (s.aos.otp.getD g default).used = false)
    (hbelow : ∀ h, h < g → (s.aos.otp.getD h default).used = true) :
    ((List.range 4).find? fun g => !(s.aos.otp.getD g default).used) = some g :=
  List.find?_range_eq_some.mpr ⟨by rw [hunused]; rfl, List.mem_range.mpr hg, fun j hj => by simp only [hbelow j hj]; decide⟩

theorem writeOtp_burns {s : State} {c : HostCmd} {d : List Byte} {g : Nat} (h : s.imageBytes c = some d) (hpayload : OtpPayload d)
    (hact : s.aos.act = none) (hburn : s.aos.burn = none) (hcheck : s.imageCheck d (· == otpStage) = stOK) (hg : g < 4)
    (hunused : (s.aos.otp.getD g default).used = false) (hbelow : ∀ h, h < g → (s.aos.otp.getD h default).used = true) :
    s.writeOtp c = (s.burning g d).complete c stOK := by
  obtain ⟨hfields, hlo, hhi, haligned, hprofiles⟩ := hpayload
  unfold writeOtp
  rw [h]
  dsimp only
  rw [if_neg, if_neg (by simp [hact, hburn]), if_neg (not_not_intro hcheck), find_unused_generation hg hunused hbelow]
  · rfl
  · rintro (h | h | h | h | h)
    · exact absurd hfields (ne_true_of_eq_false h)
    · omega
    · omega
    · exact h haligned
    · exact absurd hprofiles (ne_true_of_eq_false h)

end State

/-- Settles O56: each command by the lemma of its action and of the case of its part, and each frame by the operation's frame law. -/
theorem serviceKeyAndImageCommands : Obligations.ServiceKeyAndImageCommands := by
  unfold Obligations.ServiceKeyAndImageCommands
  refine ⟨?fence, ?unfence, ?retire, ?chain, ?back, ?install, ?erase, ?stage, ?activate, ?otp⟩
  case fence =>
    intro c s
    refine ⟨_, rfl, (serviceOpFenceOp_keeps c s (m_ := 0x6F8FC) (by decide) (.refl _ s)).only (by decide), ?_⟩
    rintro u haccepts hset haction idx rfl
    have hacts : serviceOpFenceOp c s = u.svcFence c (c.a1.field 4 4) c.a2.toNat := State.serviceCmd_acts none haccepts hset haction (by decide)
    rw [hacts]
    refine ⟨fun hobj => ?palm, fun hobj => ?link, fun hobj hidx => ?channel, State.svcFence_unknown c⟩
    case palm =>
      rw [hobj]
      exact ⟨State.svcFence_palm_beyond c, State.svcFence_palm_again c, State.svcFence_palm c⟩
    case link =>
      rw [hobj]
      refine ⟨State.svcFence_link_beyond c, State.svcFence_link_again c, fun hidx hopen => ?_⟩
      rw [State.svcFence_link c hidx hopen]
      exact ⟨⟨_, rfl⟩, (State.link_of_net (State.complete_net _ c stOK 0 0) _).trans (State.link_fenceLink hopen)⟩
    case channel =>
      rw [hobj]
      exact ⟨State.svcFence_channel_closed c hidx, State.svcFence_channel c hidx⟩
  case unfence =>
    intro c s
    refine ⟨_, rfl, (serviceOpUnfenceOp_keeps c s (m_ := 0x6F8FC) (by decide) (.refl _ s)).only (by decide), ?_⟩
    rintro u haccepts hset haction idx rfl
    have hacts : serviceOpUnfenceOp c s = u.svcUnfence c (c.a1.field 4 4) c.a2.toNat := State.serviceCmd_acts none haccepts hset haction (by decide)
    rw [hacts]
    refine ⟨fun hobj => ?palm, fun hobj => ?link⟩
    case palm =>
      rw [hobj]
      refine ⟨State.svcUnfence_palm_beyond c, State.svcUnfence_palm_open c, fun hidx hcause hdie => ?_⟩
      rw [State.svcUnfence_palm c hidx hcause hdie]
      refine ⟨⟨_, rfl⟩, ?_⟩
      rw [State.palm_complete, State.palm_freePalm]
    case link =>
      rw [hobj]
      refine ⟨State.svcUnfence_link_beyond c, fun hidx hfenced => ?_⟩
      rw [State.svcUnfence_link c hidx hfenced]
      exact ⟨⟨_, rfl⟩, (State.link_of_net (State.complete_net _ c stOK 0 0) _).trans (u.link_linkUnfenced _)⟩
  case retire =>
    intro c s
    refine ⟨_, rfl, (serviceOpRetireOp_keeps c s (m_ := 0x6F8FC) (by decide) (.refl _ s)).only (by decide), ?_⟩
    rintro u haccepts hset haction idx rfl
    have hacts : serviceOpRetireOp c s = u.svcRetire c (c.a1.field 4 4) c.a2.toNat := State.serviceCmd_acts none haccepts hset haction (by decide)
    rw [hacts]
    refine ⟨fun hobj hidx => ?frame, fun hobj hidx => ?channel⟩
    case frame =>
      rw [hobj]
      exact ⟨State.svcRetire_frame_absent c hidx, fun b hmode hb hother hfree hdie => State.svcRetire_frame c hidx hmode hb hother hfree hdie⟩
    case channel =>
      rw [hobj]
      exact ⟨State.svcRetire_channel_other c hidx, State.svcRetire_channel c hidx⟩
  case chain =>
    intro c s
    refine ⟨_, rfl, (serviceOpFormChainOp_keeps c s (m_ := 0x6F8FC) (by decide) (.refl _ s)).only (by decide), ?_⟩
    rintro u haccepts hset haction idx row col k rfl rfl rfl rfl
    have hacts : serviceOpFormChainOp c s = u.svcChain c (c.a1.field 4 4) c.a2.toNat := State.serviceCmd_acts none haccepts hset haction (by decide)
    rw [hacts]
    refine ⟨State.svcChain_bound, fun hobj hidx hrow hcol hkind hfree hchain hwait hspare => ?_⟩
    rw [hobj]
    exact State.svcChain_forms hidx hrow hcol hkind hfree hchain hwait hspare
  case back =>
    intro c info s
    refine ⟨_, rfl, (serviceOpReturnOp_keeps c info s (m_ := 0x6F8FC) (by decide) (.refl _ s)).only (by decide), ?_⟩
    rintro u haccepts hset haction idx rfl
    have hacts : serviceOpReturnOp c info s = u.svcReturn c (c.a1.field 4 4) c.a2.toNat info :=
      State.serviceCmd_acts info haccepts hset haction (by decide)
    rw [hacts]
    refine ⟨State.svcReturn_unknown, fun hobj hidx => ?_⟩
    rw [hobj]
    refine ⟨State.svcReturn_channel_refused hidx, ?_⟩
    rintro i hfenced rfl hidle hkind
    rw [State.svcReturn_channel hidx hfenced hidle hkind]
    exact ⟨u.ddr_onDdr_same _ _, rfl⟩
  case install =>
    intro c s
    refine ⟨_, rfl, (keyOpInstallOp_keeps c s (m_ := 0x6ECF0) (by decide) (.refl _ s)).only (by decide), ?_⟩
    rintro u haccepts hset haction n rfl hempty
    have hn : c.a1.field 0 8 < 256 := Word.field_lt _ 0 8
    have hacts : keyOpInstallOp c s = u.installKey c (c.a1.field 0 8) := State.keyCmd_acts haccepts hset haction (by decide)
    rw [hacts]
    refine ⟨State.installKey_unexchanged hn hempty, fun m hkey => ⟨State.installKey_xkey hn hempty hkey,
      fun hwrap => ⟨_, State.installKey_unwraps_none hn hempty hkey hwrap⟩, fun k hwrap hpolicy hunique _ => ?_⟩⟩
    rw [State.installKey_installs hn hempty hkey hwrap hpolicy hunique]
    refine ⟨⟨_, rfl⟩, ?_⟩
    obtain ⟨key, hinstalled, hk, hkeys⟩ := u.xkeySpent.putKey_keys (c.a1.field 0 8) k
    rw [State.complete_keys, hkeys, SMap.at_put_same]
    exact ⟨hinstalled, hk, fun j hj => SMap.at_put_other _ _ hj⟩
  case erase =>
    intro c s
    refine ⟨_, rfl, (keyOpEraseOp_keeps c s (m_ := 0x6ECF0) (by decide) (.refl _ s)).only (by decide), ?_⟩
    rintro u haccepts hset haction n rfl
    have hacts : keyOpEraseOp c s = if (u.keys.at (c.a1.field 0 8)).installed = false then u.keyConflict c (c.a1.field 0 8)
      else (u.eraseKey (c.a1.field 0 8)).complete c stOK := State.keyCmd_acts haccepts hset haction (by decide)
    rw [hacts]
    exact ⟨fun hempty => if_pos hempty, fun hfull => if_neg (ne_false_of_eq_true hfull)⟩
  case stage =>
    intro c s
    refine ⟨_, rfl, (imageOpStageOp_keeps c s (m_ := 0x2E000) (by decide) (.refl _ s)).only (by decide), ?_⟩
    rintro u haccepts hset haction
    have hacts : imageOpStageOp c s = u.stageImage c := State.imageCmd_acts _ haccepts hset haction (by decide)
    rw [hacts]
    refine ⟨State.stageImage_unmapped, ?_⟩
    rintro d g st hbytes rfl rfl
    rw [State.stageImage_checked hbytes]
    refine ⟨fun hbad => if_pos hbad, fun hok _ => ?_⟩
    rw [if_neg (not_not_intro hok)]
    refine ⟨⟨_, rfl⟩, ?_⟩
    rw [State.complete_aos, State.banks_staged_first, State.banks_staged_second]
    exact ⟨rfl, rfl, rfl⟩
  case activate =>
    intro c s
    refine ⟨_, rfl, (imageOpActivateOp_keeps c s (m_ := 0x2E800) (by decide) (.refl _ s)).only (by decide), ?_⟩
    rintro u haccepts hset haction g rfl
    have hacts : imageOpActivateOp c s = u.activate c := State.imageCmd_acts _ haccepts hset haction (by decide)
    rw [hacts]
    exact ⟨State.activate_bound, State.activate_unstaged, fun i j p rest hlo hhi hi hj hact hburn hstandby haos1 hiok hjok hparts =>
      State.activate_starts hlo hhi hi hj ⟨hact, hburn, hstandby, haos1⟩ hiok hjok hparts⟩
  case otp =>
    intro c s
    refine ⟨_, rfl, (imageOpWriteOtpOp_keeps c s (m_ := 0x2E000) (by decide) (.refl _ s)).only (by decide), ?_⟩
    rintro u haccepts hset haction
    have hacts : imageOpWriteOtpOp c s = u.writeOtp c := State.imageCmd_acts _ haccepts hset haction (by decide)
    rw [hacts]
    refine ⟨State.writeOtp_unmapped, fun d g hbytes hfields hlo hhi haligned hprofiles hact hburn hcheck hg hunused hbelow => ?_⟩
    rw [State.writeOtp_burns hbytes ⟨hfields, hlo, hhi, haligned, hprofiles⟩ hact hburn hcheck hg hunused hbelow]
    refine ⟨⟨_, rfl⟩, ?_⟩
    rw [State.complete_aos]
    exact ⟨u.burning_used g d, rfl⟩

end Sys2Proof.Machine

/-! SUPPORT. The step and where it completes (R501), and O1. -/

namespace Sys2Proof.Machine

-- The threads of the whole text share one memory limit: these proofs take none of their own.
set_option Elab.async false

open Adr

theorem exec_w1cWrite_inside (s : State) {a : Nat} (h : Half) (v e : Word) (hin : a < bar0Size) :
    exec (.w1cWrite a h v e) s = .next (w1cWriteOp a h v e s) := if_neg (Nat.not_le.mpr hin)

/-- A write by a virtual function completes wherever it goes: it has no register past BAR0 to fault on. -/
theorem exec_registerWrite_vf (s : State) {func : Nat} (a : Nat) (h : Half) (v : Word) (hvf : func ≠ 0) :
    exec (.registerWrite func a h v) s = .next (registerWriteOp func a h v s) := if_neg fun hout => hvf hout.1

/-- Every command but a register write past the end of BAR0 answers a next state: the two kinds of write by their address, every other constructor by
its own arm. -/
theorem exec_completes (c : Instr) (s : State) (hwrite : ∀ a h v, c = .registerWrite 0 a h v → a < bar0Size)
    (hw1c : ∀ a h v e, c = .w1cWrite a h v e → a < bar0Size) : ∃ t : State, exec c s = .next t := by
  cases c with
  | registerWrite func a h v =>
    by_cases hpf : func = 0
    · subst hpf
      exact ⟨_, exec_registerWrite_inside s h v (hwrite a h v rfl)⟩
    · exact ⟨_, exec_registerWrite_vf s a h v hpf⟩
  | w1cWrite a h v e => exact ⟨_, exec_w1cWrite_inside s h v e (hw1c a h v e rfl)⟩
  | _ => exact ⟨_, rfl⟩

/-- Settles O1: a step of a queue with a front command is that command's execution, and every command completes but for the faulting writes. -/
theorem stepRunsTheFrontCommand : Obligations.StepRunsTheFrontCommand := by
  unfold Obligations.StepRunsTheFrontCommand
  exact ⟨fun _ _ _ => step_of_waiting rfl, exec_completes⟩

end Sys2Proof.Machine

/-! SUPPORT. The operations of the AOS, the attestation report, the generator's health and RAS_CTL (R534, R546, R592, R598 to R602, R606), and O58. -/

namespace Sys2Proof.Machine

-- The threads of the whole text share one memory limit: these proofs take none of their own.
set_option Elab.async false

open Adr

namespace State

/-! How an operation runs (R598, R599). -/

theorem aosOp_silent {s : State} (smbus : Bool) (op : Nat) (destructive : Bool) (f : State → Option (State × Nat)) (h : s.sidebandUp = false) :
    s.aosOp smbus op destructive f = s := if_pos h

/-- A destructive operation over SMBus is not permitted while SMBOPS is 0. -/
theorem aosOp_not_permitted {s : State} (op : Nat) (f : State → Option (State × Nat)) (hup : s.sidebandUp = true)
    (hops : (s.wakeBy .smbus).fld rasCtl 1 1 = 0) : s.aosOp true op true f = (s.wakeBy .smbus).aosAnswer op stNotPermitted := by
  unfold aosOp
  rw [if_neg (ne_false_of_eq_true hup), if_neg (by decide)]
  exact if_pos ⟨rfl, hops⟩

/-- An operation that destroys nothing needs no SMBOPS. -/
theorem aosOp_harmless {s v : State} {op st : Nat} {f : State → Option (State × Nat)} (hup : s.sidebandUp = true)
    (hacts : f (s.wakeBy .smbus) = some (v, st)) : s.aosOp true op false f = v.aosAnswer op st := by
  unfold aosOp
  rw [if_neg (ne_false_of_eq_true hup), if_neg (by decide)]
  dsimp only
  rw [if_neg (by simp), hacts]

/-- What holds the operation back: an AOS that does not run, and SMBOPS. -/
theorem aosOp_withheld (s : State) (smbus : Bool) (op : Nat) (f : State → Option (State × Nat)) :
    (s.sidebandUp = false → s.aosOp smbus op true f = s) ∧
      ∀ v, s.sidebandUp = true → smbus = true → v = s.wakeBy .smbus → v.fld rasCtl 1 1 = 0 → s.aosOp smbus op true f = v.aosAnswer op stNotPermitted := by
  refine ⟨aosOp_silent smbus op true f, ?_⟩
  rintro v hup rfl rfl hops
  exact aosOp_not_permitted op f hup hops

/-- An operation acts as `g` with status `st` in the state that the request has woken, and in the state of a program of the AOS. -/
theorem aosOp_acts {s : State} (smbus : Bool) (op : Nat) {st : Nat} {f : State → Option (State × Nat)} (g : State → State)
    (hwoken : f (s.wakeBy .smbus) = some (g (s.wakeBy .smbus), st)) (hprogram : f s = some (g s, st)) :
    (∀ v, s.sidebandUp = true → smbus = true → v = s.wakeBy .smbus → v.fld rasCtl 1 1 = 1 →
        s.aosOp smbus op true f = (g v).aosAnswer op st) ∧
      (s.sidebandUp = true → smbus = false → s.aosOp smbus op true f = g s) := by
  constructor
  · rintro v hup rfl rfl hops
    exact aosOp_smbus hup hops hwoken
  · rintro hup rfl
    exact aosOp_program hup hprogram

theorem aosOp_smbus_invalid {s : State} {op : Nat} {f : State → Option (State × Nat)} (hup : s.sidebandUp = true)
    (hops : (s.wakeBy .smbus).fld rasCtl 1 1 = 1) (hnone : f (s.wakeBy .smbus) = none) :
    s.aosOp true op true f = (s.wakeBy .smbus).aosInvalid op := by
  unfold aosOp
  rw [if_neg (ne_false_of_eq_true hup), if_neg (by decide)]
  dsimp only
  rw [if_neg (by simp [hops]), hnone]

theorem aosOp_program_invalid {s : State} {op : Nat} {destructive : Bool} {f : State → Option (State × Nat)} (hup : s.sidebandUp = true)
    (hnone : f s = none) : s.aosOp false op destructive f = s := by
  unfold aosOp
  rw [if_neg (ne_false_of_eq_true hup), if_pos rfl, hnone]

/-! FENCE of each kind (R599). -/

theorem fenceOp_array (s : State) {k : Nat} (h : k < 8) :
    s.fenceOp 0 k = some ((if s.dieFenced k then s else s.arrayFence k).logOp 3 0 k, stOK) := if_neg (Nat.not_le.mpr h)

theorem fenceOp_die (s : State) {k : Nat} (h : k < 8) : s.fenceOp 1 k = some ((s.fullFence k).logOp 3 0 k, stOK) := if_neg (Nat.not_le.mpr h)

theorem fenceOp_glove {s : State} {g : Nat} (hg : g < 64) (hlive : (s.glove g).live = true) :
    s.fenceOp 2 g = some (((s.beginReset g 6).onGlv g fun v => { v with stuck := true }).logOp 3 7 g g, stOK) :=
  (if_neg (Nat.not_le.mpr hg)).trans (if_neg (ne_false_of_eq_true hlive))

theorem fenceOp_link (s : State) {l : Nat} (h : l < 96) : s.fenceOp 3 l = some ((s.fenceLink l).logOp 3 5 l, stOK) := if_neg (Nat.not_le.mpr h)

theorem fenceOp_link_beyond (s : State) {l : Nat} (h : 96 ≤ l) : s.fenceOp 3 l = some (s, stBound) := if_pos h

theorem fenceOp_steward (s : State) (i : Nat) : s.fenceOp 4 i = some (s.fenceSteward.logOp 3 9 0, stOK) := rfl

theorem fenceOp_manager (s : State) (i : Nat) : s.fenceOp 5 i = some (s.fenceManager.logOp 3 10 0, stOK) := rfl

theorem fenceOp_unknown (s : State) {kind : Nat} (i : Nat) (h : 6 ≤ kind) : s.fenceOp kind i = none := by
  unfold fenceOp
  split
  · omega
  · omega
  · omega
  · omega
  · omega
  · omega
  · rfl

end State

/-! A part of a register's low half. -/

/-- A write to the low half, or to the whole, writes the fields of the low half. -/
theorem field_mergeHalf_low {half : Half} (old val : Word) {lo w : Nat} (hhalf : half ≠ .hi) (h : lo + w ≤ 32) :
    (mergeHalf half old val).field lo w = val.field lo w := by
  cases half with
  | whole => rfl
  | hi => exact absurd rfl hhalf
  | lo =>
    refine Nat.eq_of_testBit_eq fun j => ?_
    unfold mergeHalf
    rw [Word.testBit_field, Word.testBit_field, Word.testBit_setField _ _ _ _ _ (by decide), Nat.testBit_mod_two_pow]
    by_cases hj : j < w
    · simp [hj, show lo + j < 32 by omega]
    · simp [hj]

theorem bit_mergeHalf_low {half : Half} (old val : Word) {n : Nat} (hhalf : half ≠ .hi) (h : n < 32) :
    (mergeHalf half old val).bit n = val.bit n := by
  cases half with
  | whole => rfl
  | hi => exact absurd rfl hhalf
  | lo =>
    unfold mergeHalf Word.bit
    rw [← BitVec.testBit_toNat, ← BitVec.testBit_toNat, Word.testBit_setField _ _ _ _ _ (by decide), Nat.testBit_mod_two_pow]
    simp [h]

/-! RAS_CTL (R592, R606). -/

/-- RAS_CTL with DRAIN, SMBOPS and LOCK. -/
def rasCtlWord (drain smbops lock : Nat) : Word := packWord [(0, 1, drain), (1, 1, smbops), (2, 1, lock)]

theorem rasCtlWord_toNat {drain smbops lock : Nat} (hdrain : drain < 2) (hsmbops : smbops < 2) (hlock : lock < 2) :
    (rasCtlWord drain smbops lock).toNat = drain + 2 * smbops + 4 * lock := by
  unfold rasCtlWord packWord
  simp only [List.map_cons, List.map_nil, List.foldl_cons, List.foldl_nil, BitVec.toNat_ofNat]
  omega

theorem rasCtlWord_fields {drain smbops lock : Nat} (hdrain : drain < 2) (hsmbops : smbops < 2) (hlock : lock < 2) :
    (rasCtlWord drain smbops lock).field 0 1 = drain ∧ (rasCtlWord drain smbops lock).field 1 1 = smbops ∧
      (rasCtlWord drain smbops lock).field 2 1 = lock := by
  unfold Word.field
  rw [rasCtlWord_toNat hdrain hsmbops hlock]
  omega

/-- RAS_CTL after a write of `v`: SMBOPS is written while LOCK is 0, and LOCK only set. -/
def State.rasCtlWritten (s : State) (v : Word) : State :=
  s.setReg rasCtl (rasCtlWord (v.field 0 1) (if s.fld rasCtl 2 1 = 1 then s.fld rasCtl 1 1 else v.field 1 1) (max (s.fld rasCtl 2 1) (v.field 2 1)))

theorem State.rasCtlWritten_fields (s : State) (v : Word) :
    (s.rasCtlWritten v).fld rasCtl 0 1 = v.field 0 1 ∧ (s.rasCtlWritten v).fld rasCtl 2 1 = max (s.fld rasCtl 2 1) (v.field 2 1) ∧
      (s.rasCtlWritten v).fld rasCtl 1 1 = if s.fld rasCtl 2 1 = 1 then s.fld rasCtl 1 1 else v.field 1 1 := by
  have hsmbops : (if s.fld rasCtl 2 1 = 1 then s.fld rasCtl 1 1 else v.field 1 1) < 2 := by
    split
    · exact Word.field_lt _ 1 1
    · exact Word.field_lt _ 1 1
  have hlock : max (s.fld rasCtl 2 1) (v.field 2 1) < 2 := max_lt (Word.field_lt _ 2 1) (Word.field_lt _ 2 1)
  obtain ⟨h0, h1, h2⟩ := rasCtlWord_fields (Word.field_lt v 0 1) hsmbops hlock
  unfold State.fld State.rasCtlWritten
  rw [State.reg_setReg_same]
  exact ⟨h0, h2, h1⟩

/-! The commands. -/

theorem aosStewardWatchLapseOp_idle {s : State} (h : s.stw.running = false ∨ s.inA = false ∨ s.sidebandUp = false) : aosStewardWatchLapseOp s = s := by
  unfold aosStewardWatchLapseOp
  split
  · rfl
  · next hwatched =>
    obtain ⟨hrunning, hset⟩ := not_or.mp hwatched
    rcases h with h | h | h
    · exact absurd h hrunning
    · exact absurd h hset
    · exact State.aosOp_silent _ _ _ _ h

theorem aosStewardWatchLapseOp_fences {s : State} (hrunning : s.stw.running = true) (hset : s.inA = true) (hup : s.sidebandUp = true) :
    aosStewardWatchLapseOp s = s.fenceSteward.logOp 3 9 0 :=
  (if_neg (by simp [hrunning, hset])).trans (State.aosOp_program hup (s.fenceOp_steward 0))

theorem aosManagerWatchLapseOp_idle {s : State} (h : s.net.role ≠ 1 ∨ s.sidebandUp = false) : aosManagerWatchLapseOp s = s := by
  unfold aosManagerWatchLapseOp
  split
  · rfl
  · next hmaster => exact State.aosOp_silent _ _ _ _ (h.resolve_left hmaster)

theorem aosManagerWatchLapseOp_fences {s : State} (hmaster : s.net.role = 1) (hup : s.sidebandUp = true) :
    aosManagerWatchLapseOp s = s.leaveDuties.logOp 3 10 0 := by
  have hduties : s.fenceManager = s.leaveDuties := if_pos hmaster
  have hop : aosManagerWatchLapseOp s = s.fenceManager.logOp 3 10 0 :=
    (if_neg (not_not_intro hmaster)).trans (State.aosOp_program hup (s.fenceOp_manager 0))
  rw [hop, hduties]

/-- The state whose POLICY is written. -/
def State.policyWritten (s : State) (val : Word) : State := s.setFld secActl 8 8 (val.field 8 8)

theorem secActlGoOp_low {half : Half} (val : Word) (m : BitVec 448) (s : State) (hhalf : half ≠ .hi) :
    secActlGoOp half val m s =
      if val.bit 0 = false ∨ s.aos.abusy ∨ s.aos.trngOk = false then s.policyWritten val else (s.policyWritten val).startReport m := by
  unfold secActlGoOp
  dsimp only
  rw [if_neg hhalf, field_mergeHalf_low 0 val hhalf (by decide), bit_mergeHalf_low 0 val hhalf (by decide)]
  rfl

theorem fld_policyWritten (s : State) (val : Word) : (s.policyWritten val).fld secActl 8 8 = val.field 8 8 := by
  unfold State.policyWritten State.setFld State.fld
  rw [State.reg_setReg_same, Word.field_setField_same _ _ _ _ (by decide)]
  exact Nat.mod_eq_of_lt (Word.field_lt val 8 8)

theorem reg_policyWritten_secAnonce (s : State) (val : Word) {w : Nat} (hw : w < 8) :
    (s.policyWritten val).reg (secAnonce w) = s.reg (secAnonce w) := by
  refine State.reg_setReg_other s _ ?_
  have hne : ∀ i < 8, secAnonce i ≠ secActl := by decide
  exact hne w hw

/-- The nonce that a report takes is the one that was written. -/
theorem repNonce_startReport (s : State) (val : Word) (m : BitVec 448) :
    ((s.policyWritten val).startReport m).aos.repNonce = wordBytes ((List.range 8).map fun w => s.reg (secAnonce w)) := by
  have hnonce : ((List.range 8).map fun w => (s.policyWritten val).reg (secAnonce w)) = (List.range 8).map fun w => s.reg (secAnonce w) :=
    List.map_congr_left fun w hw => reg_policyWritten_secAnonce s val (List.mem_range.mp hw)
  exact congrArg wordBytes hnonce

theorem rasDrainWriteOp_drains {half : Half} {val : Word} {s : State} (hdrain : s.fld rasCtl 0 1 = 0)
    (hset : (mergeHalf half (s.reg rasCtl) val).bit 0 = true) (hmode : s.mstate = .service ∨ s.mstate = .degraded) :
    rasDrainWriteOp half val s = (s.rasCtlWritten (mergeHalf half (s.reg rasCtl) val)).toMode .draining := if_pos ⟨hdrain, hset, hmode⟩

theorem rasDrainWriteOp_writes {half : Half} {val : Word} {s : State}
    (hmode : s.mstate ≠ .service ∧ s.mstate ≠ .degraded ∧ s.mstate ≠ .draining) :
    rasDrainWriteOp half val s = s.rasCtlWritten (mergeHalf half (s.reg rasCtl) val) := by
  obtain ⟨hservice, hdegraded, hdraining⟩ := hmode
  exact (if_neg (by simp [hservice, hdegraded])).trans (if_neg (by simp [hdraining]))

/-- Settles O58: the AOS's operations by the lemmas of how an operation runs, each other command by the lemma of its case, and each frame by the
operation's frame law. -/
theorem aosOperationsAttestationAndDrain : Obligations.AosOperationsAttestationAndDrain := by
  unfold Obligations.AosOperationsAttestationAndDrain
  refine ⟨?read, ?trip, ?fence, ?erase, ?reset, ?report, ?steward, ?manager, ?go, ?ready, ?health, ?recover, ?drain⟩
  case read =>
    intro s
    refine ⟨_, rfl, (aosReadOp_keeps s (m_ := 0x6FAF9) (by decide) (.refl _ s)).only (by decide), State.request_silent, ?_⟩
    rintro v hup rfl
    exact State.request_wakes hup
  case trip =>
    intro smbus s
    exact ⟨_, rfl, (tripOp_keeps smbus s (m_ := 0x7FFFD) (by decide) (.refl _ s)).only (by decide), s.aosOp_withheld smbus 2 _,
      State.aosOp_acts smbus 2 (fun t => (t.logOp 2 10 0).takeTrip) rfl rfl⟩
  case fence =>
    intro smbus kind idx s
    refine ⟨_, rfl, (fenceOp_keeps smbus kind idx s (m_ := 0x6FAFD) (by decide) (.refl _ s)).only (by decide), s.aosOp_withheld smbus 3 _, ?array,
      ?die, ?link, ?stw, ?beyond, ?glove, ?duties, ?unknown⟩
    case array =>
      rintro rfl hidx
      exact State.aosOp_acts smbus 3 (fun t => (if t.dieFenced idx.toNat then t else t.arrayFence idx.toNat).logOp 3 0 idx.toNat)
        (State.fenceOp_array _ hidx) (State.fenceOp_array _ hidx)
    case die =>
      rintro rfl hidx
      exact State.aosOp_acts smbus 3 (fun t => (t.fullFence idx.toNat).logOp 3 0 idx.toNat) (State.fenceOp_die _ hidx) (State.fenceOp_die _ hidx)
    case link =>
      rintro rfl hidx
      exact State.aosOp_acts smbus 3 (fun t => (t.fenceLink idx.toNat).logOp 3 5 idx.toNat) (State.fenceOp_link _ hidx) (State.fenceOp_link _ hidx)
    case stw =>
      rintro rfl
      exact State.aosOp_acts smbus 3 (fun t => t.fenceSteward.logOp 3 9 0) (State.fenceOp_steward _ _) (State.fenceOp_steward _ _)
    case beyond =>
      rintro rfl hidx
      exact State.aosOp_acts smbus 3 id (State.fenceOp_link_beyond _ hidx) (State.fenceOp_link_beyond _ hidx)
    case glove =>
      rintro rfl hidx hwoken hlive
      exact State.aosOp_acts smbus 3 (fun t => ((t.beginReset idx.toNat 6).onGlv idx.toNat fun x => { x with stuck := true }).logOp 3 7 idx.toNat idx.toNat)
        (State.fenceOp_glove hidx (hwoken _ rfl)) (State.fenceOp_glove hidx hlive)
    case duties =>
      rintro rfl
      exact State.aosOp_acts smbus 3 (fun t => t.fenceManager.logOp 3 10 0) (State.fenceOp_manager _ _) (State.fenceOp_manager _ _)
    case unknown =>
      intro hkind
      constructor
      · rintro v hup rfl rfl hops
        exact State.aosOp_smbus_invalid hup hops (State.fenceOp_unknown _ _ hkind)
      · rintro hup rfl
        exact State.aosOp_program_invalid hup (State.fenceOp_unknown _ _ hkind)
  case erase =>
    intro smbus slot s
    refine ⟨_, rfl, (eraseOp_keeps smbus slot s (m_ := 0x6FEF9) (by decide) (.refl _ s)).only (by decide), s.aosOp_withheld smbus 4 _, ?_, ?_⟩
    · rintro v hup rfl rfl hops
      exact ⟨fun hempty => State.aosOp_smbus hup hops (if_pos hempty), fun hfull => State.aosOp_smbus hup hops (if_neg (ne_false_of_eq_true hfull))⟩
    · rintro hup rfl hfull
      exact State.aosOp_program hup (if_neg (ne_false_of_eq_true hfull))
  case reset =>
    intro smbus cold s
    refine ⟨_, rfl, (resetOp_keeps smbus cold s (m_ := 0x7FFFD) (by decide) (.refl _ s)).only (by decide), s.aosOp_withheld smbus 5 _, ?_, ?_⟩
    · rintro v hup rfl rfl hops
      exact ⟨fun hbad => State.aosOp_smbus_invalid hup hops (if_pos hbad),
        fun hcold => State.aosOp_smbus hup hops (if_neg (Nat.not_lt.mpr hcold))⟩
    · rintro hup rfl hcold
      exact State.aosOp_program hup (if_neg (Nat.not_lt.mpr hcold))
  case report =>
    intro s
    refine ⟨_, rfl, (aosReportOp_keeps s (m_ := 0x6FAF9) (by decide) (.refl _ s)).only (by decide), State.aosOp_silent true 6 false _, ?_⟩
    rintro v hup rfl
    exact State.aosOp_harmless hup rfl
  case steward =>
    intro s
    refine ⟨_, rfl, (aosStewardWatchLapseOp_keeps s (m_ := 0x6FAFD) (by decide) (.refl _ s)).only (by decide), aosStewardWatchLapseOp_idle, ?_⟩
    intro hrunning hset hup
    exact ⟨aosStewardWatchLapseOp_fences hrunning hset hup, fun hstandby => if_pos hstandby, fun hstandby => if_neg (ne_true_of_eq_false hstandby)⟩
  case manager =>
    intro s
    refine ⟨_, rfl, (aosManagerWatchLapseOp_keeps s (m_ := 0x6FAFD) (by decide) (.refl _ s)).only (by decide), aosManagerWatchLapseOp_idle, ?_⟩
    intro hmaster hup
    exact ⟨aosManagerWatchLapseOp_fences hmaster hup, rfl, rfl⟩
  case go =>
    intro half val m s
    refine ⟨_, rfl, (secActlGoOp_keeps half val m s (m_ := 0xC000) (by decide) (.refl _ s)).only (by decide), fun hhigh => if_pos hhigh, ?_, ?_⟩
    · intro hhalf hidle
      rw [secActlGoOp_low val m s hhalf]
      exact if_pos hidle
    · intro hhalf hgo hidle htrng
      rw [secActlGoOp_low val m s hhalf, if_neg (by simp [hgo, hidle, htrng])]
      exact ⟨rfl, rfl, fld_policyWritten s val, repNonce_startReport s val m, rfl⟩
  case ready =>
    intro s
    refine ⟨_, rfl, (attestationReportReadyOp_keeps s (m_ := 0x4000) (by decide) (.refl _ s)).only (by decide), fun hidle => if_pos hidle, fun hbusy => ?_⟩
    have hop : attestationReportReadyOp s = s.onAos fun a => { a with abusy := false, aready := true, report := s.buildReport } :=
      if_neg (ne_false_of_eq_true hbusy)
    rw [hop]
    exact ⟨rfl, rfl, rfl⟩
  case health =>
    intro s
    exact ⟨_, rfl, (trngHealthFailureOp_keeps s (m_ := 0xC000) (by decide) (.refl _ s)).only (by decide),
      congrArg AosBlk.trngOk (State.raise_aos (s.onAos fun a => { a with trngOk := false }) secEvt 2 1), State.flag_raise _ _ _ _ (by decide)⟩
  case recover =>
    intro s
    refine ⟨_, rfl, (trngRecoverOp_keeps s (m_ := 0x4000) (by decide) (.refl _ s)).only (by decide), fun hdown => if_pos hdown, fun hoff hreset => ?_⟩
    have hop : trngRecoverOp s = s.onAos fun a => { a with trngOk := true } := if_neg (not_or.mpr ⟨hoff, hreset⟩)
    rw [hop]
    rfl
  case drain =>
    intro half val s
    refine ⟨_, rfl, (rasDrainWriteOp_keeps half val s (m_ := 0x8004) (by decide) (.refl _ s)).only (by decide), ?_⟩
    rintro v rfl
    refine ⟨fun hdrain hset hmode => ?_, fun hmode => ?_⟩
    · rw [rasDrainWriteOp_drains hdrain hset hmode]
      rfl
    · rw [rasDrainWriteOp_writes hmode]
      exact ⟨rfl, s.rasCtlWritten_fields _⟩

end Sys2Proof.Machine

/-! SUPPORT. Reset causes, REFCLK, the thermal trip and the end of a reset (R550 to R554, R563, R574, R580, R600), and O59. -/

namespace Sys2Proof.Machine

-- The threads of the whole text share one memory limit: these proofs take none of their own.
set_option Elab.async false

open Adr

namespace State

/-! The near tier through a warm reset (R551). -/

/-- From `s` to `t` the near tier stays. -/
def SameNear (s t : State) : Prop := t.mem.near = s.mem.near

namespace SameNear

theorem of_mem {s t : State} (h : t.mem = s.mem) : s.SameNear t := congrArg MemBlk.near h

theorem trans {s t u : State} (h : s.SameNear t) (h' : t.SameNear u) : s.SameNear u := Eq.trans h' h

theorem foldl {α : Type} {f : State → α → State} (hf : ∀ (t : State) (a : α), t.SameNear (f t a)) (l : List α) (s : State) :
    s.SameNear (l.foldl f s) :=
  List.foldlRecOn l f (of_mem rfl) fun t h a _ => h.trans (hf t a)

end SameNear

theorem onExtent_sameNear (s : State) (n : Nat) (f : ExtentSt → ExtentSt) : s.SameNear (s.onExtent n f) := rfl

theorem endDrains_sameNear (s : State) : s.SameNear s.endDrains := by
  unfold endDrains
  refine SameNear.trans (.foldl (fun t c => ?_) _ _) (.foldl (fun t i => ?_) _ _)
  · split
    · exact SameNear.trans (t := t.onDdr c fun d => { d with st := .fenced }) rfl (.of_mem (raise_mem _ _ _ _))
    · rfl
  · split
    · rfl
    · rfl

theorem freeExtent_sameNear (s : State) (n : Nat) : s.SameNear (s.freeExtent n) := by
  unfold freeExtent
  split
  · rfl
  · have hdrained : ∀ t : State, s.SameNear t → s.SameNear (t.endDrains.count migCntFree) := fun t h =>
      h.trans ((endDrains_sameNear t).trans (.of_mem (count_mem _ _ _)))
    exact hdrained _ rfl

theorem releaseExtent_sameNear (s : State) (n : Nat) : s.SameNear (s.releaseExtent n) := by
  unfold releaseExtent
  dsimp only
  split
  · exact onExtent_sameNear s n _
  · exact freeExtent_sameNear s n

theorem releaseHandle_sameNear (s : State) (h : BitVec 32) : s.SameNear (s.releaseHandle h) := by
  unfold releaseHandle
  split
  · exact releaseExtent_sameNear s _
  · rfl

theorem lz2Off_sameNear (s : State) : s.SameNear s.lz2Off := by
  unfold lz2Off
  refine SameNear.trans (.foldl (fun t p => ?_) s.mem.lz2Pages s) rfl
  split
  · exact releaseHandle_sameNear t _
  · rfl

theorem freeCaches_sameNear (s : State) : s.SameNear s.freeCaches :=
  (SameNear.foldl releaseHandle_sameNear _ s).trans (lz2Off_sameNear _)

theorem dropRequests_sameNear (s : State) : s.SameNear s.dropRequests := by
  unfold dropRequests
  dsimp only
  refine SameNear.trans rfl (.foldl (fun t i => ?_) _ _)
  split
  · exact (onExtent_sameNear t i _).trans (freeExtent_sameNear _ i)
  · exact onExtent_sameNear t i _

/-- A warm reset keeps the near tier. -/
theorem warmReset_sameNear (s : State) : s.SameNear s.warmReset :=
  (freeCaches_sameNear s).trans ((dropRequests_sameNear s.freeCaches).trans rfl)

/-- A warm reset keeps the keys. -/
theorem warmReset_keys (s : State) : s.warmReset.keys = s.keys :=
  (warmSteward_keeps _ (m_ := 0x28840) (by decide) (warmPorts_keeps _ (by decide) (freeFrames_keeps _ (by decide)
    (dropRequests_keeps _ (by decide) (freeCaches_keeps s (by decide) (.refl _ s)))))).keys

/-! The acceptance of a reset (R550 to R554). -/

/-- The state that a reset leaves of the module before it is marked: a cold one restarts it, a warm one that finds none asserted keeps what R551 names. -/
def resetBase (s : State) (cause : Nat) (cold : Bool) : State :=
  if cold ∧ (s.aos.asserted && s.aos.cold) = false then s.coldReset (cause = 1)
  else if cold ∧ cause = 1 then s.coldReset true
  else if s.aos.asserted then s else s.warmReset.keepLock s

/-- The state in which internal reset is asserted, before its cause is recorded. -/
def resetAsserted (s : State) (cause : Nat) (cold : Bool) : State :=
  (((s.resetBase cause cold).onAos clearAos).toMode .reset).onAos fun a =>
    { a with asserted := true, cold := cold || (s.aos.asserted && s.aos.cold), causeAge := 0, causeNew := true, causeCold := (s.causeKept cause cold).2,
             driven := true, windows := if cause = 1 ∨ cause = 5 then 0 else a.windows, sinceCold := if cold then 0 else a.sinceCold,
             window := if cold then 0 else a.window }

/-- What AOS_RSTCAUSE records. -/
def causeWord (s : State) (cause : Nat) (cold : Bool) : Word :=
  BitVec.ofNat 64
    ((s.causeKept cause cold).1 + (if cold || (s.aos.asserted && s.aos.cold) then 2 ^ 4 else 0) + (if s.aos.asserted ∧ cause ≠ 1 then 2 ^ 5 else 0))

/-- What AOS_RSTTICK records. -/
def causeTick (s : State) (cause : Nat) : Word :=
  BitVec.ofNat 64 (if cause = 1 then 0 else if s.sameCause then (s.reg aosRsttick).toNat else s.tick.tick)

/-- The state in which the cause is recorded. -/
def resetRecorded (s : State) (cause : Nat) (cold : Bool) : State :=
  ((s.resetAsserted cause cold).setReg aosRstcause (s.causeWord cause cold)).setReg aosRsttick (s.causeTick cause)

theorem acceptReset_eq (s : State) (cause : Nat) (cold : Bool) :
    s.acceptReset cause cold =
      (if s.aos.asserted ∨ cold then s.resetRecorded cause cold else (s.resetRecorded cause cold).raise aosEvt 3).emit (.pin "RESET_N" false) := rfl

theorem resetRecorded_keeps (s : State) (cause : Nat) (cold : Bool) : Keeps 0x28000 (s.resetAsserted cause cold) (s.resetRecorded cause cold) :=
  setReg_keeps _ _ _ (by decide) (setReg_keeps _ _ _ (by decide) (.refl _ _))

/-- Once internal reset is asserted, only registers and outputs still change. -/
theorem acceptReset_keeps_asserted (s : State) (cause : Nat) (cold : Bool) : Keeps 0x28000 (s.resetAsserted cause cold) (s.acceptReset cause cold) := by
  rw [acceptReset_eq]
  refine emit_keeps _ _ (by decide) ?_
  split
  · exact s.resetRecorded_keeps cause cold
  · exact raise_keeps _ _ _ _ (by decide) (s.resetRecorded_keeps cause cold)

theorem reg_resetRecorded (s : State) (cause : Nat) (cold : Bool) :
    (s.resetRecorded cause cold).reg aosRstcause = s.causeWord cause cold ∧ (s.resetRecorded cause cold).reg aosRsttick = s.causeTick cause := by
  unfold resetRecorded
  rw [reg_setReg_same, reg_setReg_other _ _ (by decide), reg_setReg_same]
  exact ⟨rfl, rfl⟩

theorem reg_acceptReset (s : State) (cause : Nat) (cold : Bool) :
    (s.acceptReset cause cold).reg aosRstcause = s.causeWord cause cold ∧ (s.acceptReset cause cold).reg aosRsttick = s.causeTick cause := by
  obtain ⟨hcause, htick⟩ := s.reg_resetRecorded cause cold
  have hemit : ∀ (t : State) (a : Nat), (t.emit (.pin "RESET_N" false)).reg a = t.reg a := fun t a => reg_of_regs (emit_regs t _) a
  rw [acceptReset_eq, hemit, hemit]
  split
  · exact ⟨hcause, htick⟩
  · rw [reg_raise_other _ _ _ _ _ (by decide) (by decide), reg_raise_other _ _ _ _ _ (by decide) (by decide)]
    exact ⟨hcause, htick⟩

/-- The cause accepted is recorded unless another of the same reference cycle is. -/
theorem causeKept_alone {s : State} (cause : Nat) (cold : Bool) (h : s.aos.asserted = false ∨ s.tick.refclk = false ∨ s.aos.causeNew = false) :
    s.causeKept cause cold = (cause, cold) := by
  refine if_neg fun hsame => ?_
  have hboth : s.sameCause = true := hsame.1
  unfold sameCause at hboth
  simp only [Bool.and_eq_true] at hboth
  obtain ⟨⟨hasserted, hrefclk⟩, hnew⟩ := hboth
  rcases h with h | h | h
  · exact absurd hasserted (ne_true_of_eq_false h)
  · exact absurd hrefclk (ne_true_of_eq_false h)
  · exact absurd hnew (ne_true_of_eq_false h)

/-- Of two causes of one reference cycle a cold one is recorded before a warm one, and then the lower code. -/
theorem causeKept_together {s : State} (cause : Nat) (cold : Bool) (hasserted : s.aos.asserted = true) (hrefclk : s.tick.refclk = true)
    (hnew : s.aos.causeNew = true) :
    s.causeKept cause cold =
      if (s.aos.causeCold = true ∧ cold = false) ∨ (s.aos.causeCold = cold ∧ s.fld aosRstcause 0 4 < cause)
      then (s.fld aosRstcause 0 4, s.aos.causeCold) else (cause, cold) := by
  have hsame : s.sameCause = true := by simp [sameCause, hasserted, hrefclk, hnew]
  unfold causeKept
  dsimp only
  simp only [hsame, true_and]

theorem causeKept_code_lt (s : State) {cause : Nat} (cold : Bool) (h : cause < 16) : (s.causeKept cause cold).1 < 16 := by
  unfold causeKept
  dsimp only
  split
  · exact Word.field_lt _ 0 4
  · exact h

/-! What a reset ends and keeps (R551). -/

theorem resetBase_cold {s : State} (cause : Nat) (h : s.aos.asserted = false ∨ s.aos.cold = false) : s.resetBase cause true = s.coldReset (cause = 1) := by
  refine if_pos ⟨rfl, ?_⟩
  rcases h with h | h
  · simp [h]
  · simp [h]

theorem resetBase_powerOn (s : State) : s.resetBase 1 true = s.coldReset true := by
  unfold resetBase
  split
  · rfl
  · exact if_pos ⟨rfl, rfl⟩

theorem resetBase_warm {s : State} (cause : Nat) (h : s.aos.asserted = false) : s.resetBase cause false = s.warmReset.keepLock s :=
  (if_neg (by simp)).trans ((if_neg (by simp)).trans (if_neg (ne_true_of_eq_false h)))

theorem resetBase_again {s : State} (cause : Nat) (h : s.aos.asserted = true) : s.resetBase cause false = s :=
  (if_neg (by simp)).trans ((if_neg (by simp)).trans (if_pos h))

/-- What the OTP and the firmware banks hold stays. -/
theorem resetBase_stores (s : State) (cause : Nat) (cold : Bool) :
    (s.resetBase cause cold).aos.otp = s.aos.otp ∧ (s.resetBase cause cold).aos.banks = s.aos.banks := by
  unfold resetBase
  split
  · exact ⟨rfl, rfl⟩
  · split
    · exact ⟨rfl, rfl⟩
    · split
      · exact ⟨rfl, rfl⟩
      · exact ⟨rfl, rfl⟩

/-- A reset that finds none asserted, or is the first cold one, ends every glove, rung and sequencer. -/
theorem resetBase_ends {s : State} (cause : Nat) {cold : Bool} (h : s.aos.asserted = false ∨ (cold = true ∧ s.aos.cold = false)) :
    (s.resetBase cause cold).glv = [] ∧ (s.resetBase cause cold).rung = default ∧ (s.resetBase cause cold).seq = default := by
  cases cold with
  | true =>
    rw [resetBase_cold cause (h.imp_right And.right)]
    exact ⟨rfl, rfl, rfl⟩
  | false =>
    rw [resetBase_warm cause (h.resolve_right fun hcold => Bool.false_ne_true hcold.1)]
    exact ⟨rfl, rfl, rfl⟩

/-- A cold reset restarts the tick and loses the near tier and the keys. -/
theorem resetBase_loses {s : State} {cause : Nat} (h : s.aos.asserted = false ∨ s.aos.cold = false ∨ cause = 1) :
    (s.resetBase cause true).tick.tick = 0 ∧ (s.resetBase cause true).mem.near = [] ∧ (s.resetBase cause true).keys = [] := by
  rcases or_assoc.mpr h with h | rfl
  · rw [resetBase_cold cause h]
    exact ⟨rfl, rfl, rfl⟩
  · rw [resetBase_powerOn]
    exact ⟨rfl, rfl, rfl⟩

/-- A warm reset keeps the tick, the near tier and the keys. -/
theorem resetBase_keeps (s : State) (cause : Nat) :
    (s.resetBase cause false).tick.tick = s.tick.tick ∧ (s.resetBase cause false).mem.near = s.mem.near ∧ (s.resetBase cause false).keys = s.keys := by
  cases hasserted : s.aos.asserted with
  | true =>
    rw [resetBase_again cause hasserted]
    exact ⟨rfl, rfl, rfl⟩
  | false =>
    rw [resetBase_warm cause hasserted]
    exact ⟨rfl, s.warmReset_sameNear, s.warmReset_keys⟩

/-- An accepted reset of any cause (R550 to R554). -/
theorem acceptReset_taken (s : State) (cause : Nat) (cold : Bool) : s.ResetTaken cause cold (s.acceptReset cause cold) := by
  have hkeeps := s.acceptReset_keeps_asserted cause cold
  obtain ⟨hcause, htick⟩ := s.reg_acceptReset cause cold
  obtain ⟨hotp, hbanks⟩ := s.resetBase_stores cause cold
  unfold ResetTaken
  rw [hkeeps.mstate, hkeeps.aos, hkeeps.glv, hkeeps.rung, hkeeps.seq, hkeeps.tick, hkeeps.mem, hkeeps.keys]
  refine ⟨rfl, rfl, rfl, rfl, rfl, rfl, rfl, rfl, rfl, causeKept_alone cause cold, causeKept_together cause cold, hcause, htick, rfl, hotp, hbanks,
    resetBase_ends cause, ?loses, ?keeps⟩
  case loses =>
    rintro rfl h
    exact resetBase_loses h
  case keeps =>
    rintro rfl
    exact s.resetBase_keeps cause

end State

/-! The commands. -/

/-- The state in which POWER_ON finds none of what an earlier supply left of resets, trips and loadings. -/
def State.powered (s : State) : State := { s with aos := { s.aos with asserted := false, tripped := false, otpLoading := false } }

theorem powerOnOp_accepts {s : State} (h : s.mstate = .off) : powerOnOp s = s.powered.acceptReset 1 true := if_neg (not_not_intro h)

theorem extOp_unseen {lowRc : Nat} {s : State} (h : s.mstate = .off ∨ s.aos.driven = true) : extOp lowRc s = s := if_pos h

theorem extOp_short {lowRc : Nat} {s : State} (hon : s.mstate ≠ .off) (hseen : s.aos.driven = false) (hshort : lowRc < 1000) :
    extOp lowRc s = s.raise aosEvt 0 := (if_neg (by simp [hon, hseen])).trans (if_pos hshort)

theorem extOp_accepts {lowRc : Nat} {s : State} (hon : s.mstate ≠ .off) (hseen : s.aos.driven = false) (hlong : 1000 ≤ lowRc) :
    extOp lowRc s = s.acceptReset 2 true := (if_neg (by simp [hon, hseen])).trans (if_neg (Nat.not_lt.mpr hlong))

theorem State.resetCause_accepts {s : State} (cause : Nat) (cold : Bool) (h : s.mstate ≠ .off) : s.resetCause cause cold = s.acceptReset cause cold :=
  if_neg h

/-- The state in which a rail is known to be bad. -/
def State.railNoted (s : State) (idx : Nat) : State :=
  s.onAos fun a => { a with railBad := if a.railBad.contains idx then a.railBad else a.railBad ++ [idx] }

theorem State.railNoted_contains (s : State) (idx : Nat) : (s.railNoted idx).aos.railBad.contains idx = true := by
  change (if s.aos.railBad.contains idx then s.aos.railBad else s.aos.railBad ++ [idx]).contains idx = true
  split
  · assumption
  · simp

theorem railOp_unwatched {idx : Nat} {s : State} (h : s.aos.watched = false ∨ s.aos.tripped = true) : railOp idx s = s := if_pos h

theorem railOp_accepts {idx : Nat} {s : State} (hwatched : s.aos.watched = true) (htripped : s.aos.tripped = false) (hon : s.mstate ≠ .off) :
    railOp idx s = (s.acceptReset 3 true).railNoted idx := by
  have hop : railOp idx s = (s.resetCause 3 true).railNoted idx := if_neg (by simp [hwatched, htripped])
  rw [hop, State.resetCause_accepts 3 true hon]

/-- AOS_RSTCAUSE names the cause in its low four bits. -/
theorem causeWord_code (s : State) {cause : Nat} (cold : Bool) (h : cause < 16) : (s.causeWord cause cold).field 0 4 = (s.causeKept cause cold).1 := by
  have hcode := s.causeKept_code_lt cold h
  unfold State.causeWord Word.field
  rw [BitVec.toNat_ofNat]
  split
  · split
    · omega
    · omega
  · split
    · omega
    · omega

/-- The state in which the trip has ended. -/
def State.tripEnded (s : State) : State :=
  (s.onAos fun a => { a with tripped := false, asserted := false, railBad := [] }).emit (.pin "THERMTRIP_N" true)

theorem thermtripOp_idle {s : State} (h : s.aos.tripped = false) : thermtripOp s = s := if_pos h

theorem thermtripOp_accepts {s : State} (h : s.aos.tripped = true) : thermtripOp s = s.tripEnded.acceptReset 4 true := if_neg (ne_false_of_eq_true h)

/-- The state in which the trip is logged. -/
def State.tripLogged (s : State) : State := s.errClass 4 10 0 0 0 0

/-- The state that a trip has taken into reset, before its tiers are lost. -/
def State.tripReset (s : State) : State :=
  (((s.tripLogged.warmReset.keepLock s.tripLogged).onAos State.clearAos).toMode .reset).onAos fun a =>
    { a with tripped := true, asserted := true, driven := true, sampling := false }

theorem thermalTripOp_idle {s : State} (h : s.aos.tripped = true ∨ s.mstate = .off) : thermalTripOp s = s := if_pos h

theorem thermalTripOp_trips {s : State} (htripped : s.aos.tripped = false) (hon : s.mstate ≠ .off) :
    thermalTripOp s = ((s.tripReset.onMem fun m => { m with near := [], nearTag := [], wide := [] }).emit (.pin "THERMTRIP_N" false)).emit
      (.pin "RESET_N" false) := if_neg (by simp [htripped, hon])

theorem State.loseRefclk_lost {s : State} (h : s.tick.refclk = false) : s.loseRefclk = s.onAos fun a => { a with windows := 0 } := if_pos h

theorem State.loseRefclk_accepts {s : State} (h : s.tick.refclk = true) (hon : s.mstate ≠ .off) :
    s.loseRefclk = (s.acceptReset 5 false).onTick fun t => { t with refclk := false } := by
  have hop : s.loseRefclk = (s.resetCause 5 false).onTick fun t => { t with refclk := false } := if_neg (ne_false_of_eq_true h)
  rw [hop, State.resetCause_accepts 5 false hon]

/-- The state in which the window's count is shown. -/
def State.windowShown (s : State) (count : Nat) : State := s.setFld aosClkstat 16 16 count

theorem State.fld_windowShown (s : State) {count : Nat} (h : count < 65536) : (s.windowShown count).fld aosClkstat 16 16 = count := by
  unfold State.windowShown State.setFld State.fld
  rw [State.reg_setReg_same, Word.field_setField_same _ _ _ _ (by decide)]
  exact Nat.mod_eq_of_lt h

/-- The state in which a good window counts towards the return of REFCLK. -/
def State.windowCounted (s : State) (count : Nat) : State := (s.windowShown count).onAos fun a => { a with windows := a.windows + 1 }

theorem refclkWindowOp_off {count : Nat} {s : State} (h : s.mstate = .off) : refclkWindowOp count s = s := if_pos h

theorem refclkWindowOp_good {count : Nat} {s : State} (hon : s.mstate ≠ .off) (hgood : 3072 ≤ count ∧ count ≤ 5120) :
    refclkWindowOp count s =
      if s.tick.refclk then s.windowCounted count else (s.windowCounted count).onTick fun t => { t with refclk := true, own := .acquiring } :=
  (if_neg hon).trans (if_pos hgood)

theorem refclkWindowOp_bad {count : Nat} {s : State} (hon : s.mstate ≠ .off) (hbad : ¬ (3072 ≤ count ∧ count ≤ 5120)) :
    refclkWindowOp count s = ((s.windowShown count).loseRefclk).windowShown count := (if_neg hon).trans (if_neg hbad)

theorem refclkWindowOp_shows {count : Nat} {s : State} (hon : s.mstate ≠ .off) (hcount : count < 65536) :
    (refclkWindowOp count s).fld aosClkstat 16 16 = count := by
  by_cases hgood : 3072 ≤ count ∧ count ≤ 5120
  · have hregs : (refclkWindowOp count s).regs = (s.windowShown count).regs := by
      rw [refclkWindowOp_good hon hgood]
      split
      · rfl
      · rfl
    exact (congrArg (·.field 16 16) (State.reg_of_regs hregs aosClkstat)).trans (s.fld_windowShown hcount)
  · rw [refclkWindowOp_bad hon hgood]
    exact State.fld_windowShown _ hcount

theorem watchdogOp_idle {s : State} (h : s.aos.asserted = true ∨ s.aos.stage = 0) : watchdogOp s = s := if_pos h

theorem watchdogOp_accepts {s : State} (hrunning : s.aos.asserted = false) (hstage : s.aos.stage ≠ 0) (hon : s.mstate ≠ .off) :
    watchdogOp s = s.acceptReset 7 false := by
  have hop : watchdogOp s = s.resetCause 7 false := if_neg (by simp [hrunning, hstage])
  rw [hop, State.resetCause_accepts 7 false hon]

theorem aosRstreqWriteOp_high (val : Word) (s : State) : aosRstreqWriteOp .hi val s = s := 
  if_pos (.inl (show (0 : Word).field 8 8 ≠ 0xA5 by decide))

theorem aosRstreqWriteOp_unconfirmed {val : Word} {s : State} (h : val.field 8 8 ≠ 0xA5 ∨ val.field 1 7 ≠ 0 ∨ val.field 16 48 ≠ 0) :
    aosRstreqWriteOp .whole val s = s := if_pos h

theorem aosRstreqWriteOp_accepts {val : Word} {s : State} (hconfirm : val.field 8 8 = 0xA5) (hlow : val.field 1 7 = 0) (hhigh : val.field 16 48 = 0)
    (hon : s.mstate ≠ .off) : aosRstreqWriteOp .whole val s = s.acceptReset 8 (val.bit 0) := by
  have hop : aosRstreqWriteOp .whole val s = s.resetCause 8 (val.bit 0) := if_neg (by simp [hconfirm, hlow, hhigh])
  rw [hop, State.resetCause_accepts 8 _ hon]

theorem resetStretchEndOp_waits {s : State}
    (h : s.mstate ≠ .reset ∨ s.aos.asserted = false ∨ s.aos.tripped = true ∨ s.tick.refclk = false ∨ s.aos.windows < 16 ∨ s.aos.causeAge < 100000) :
    resetStretchEndOp s = s := by
  refine if_pos ?_
  rcases h with h | h | h
  · exact .inl h
  · exact .inr (.inl h)
  · exact .inr (.inr (.inr h))

/-- The state whose internal reset has ended: RESET_N is released and is to be sampled. -/
def State.resetEnded (s : State) : State :=
  (s.onAos fun a =>
    { a with asserted := false, driven := false, sampling := true, railBad := [], profile := if a.cold then a.pins else a.profile }).emit
    (.pin "RESET_N" true)

theorem resetStretchEndOp_ends {s : State} (hmode : s.mstate = .reset) (hasserted : s.aos.asserted = true) (hdriven : s.aos.driven = true)
    (htripped : s.aos.tripped = false) (hrefclk : s.tick.refclk = true) (hwindows : 16 ≤ s.aos.windows) (hage : 100000 ≤ s.aos.causeAge) :
    resetStretchEndOp s = s.resetEnded :=
  if_neg (by simp [hmode, hasserted, hdriven, htripped, hrefclk, Nat.not_lt.mpr hwindows, Nat.not_lt.mpr hage])

theorem resetNSampleOp_idle {high : Bool} {s : State} (h : s.aos.sampling = false) : resetNSampleOp high s = s := if_pos h

theorem resetNSampleOp_low {s : State} (h : s.aos.sampling = true) : resetNSampleOp false s = s.acceptReset 2 true :=
  (if_neg (ne_false_of_eq_true h)).trans (if_pos rfl)

/-- The state in which a loading of an OTP generation that the reset cut short is flagged. -/
def State.loadingFlagged (s : State) : State := if s.aos.otpLoading then s.raise aosEvt 2 else s

theorem resetNSampleOp_high {s : State} (h : s.aos.sampling = true) :
    resetNSampleOp true s =
      (s.loadingFlagged.toMode .bringup).onAos fun a => { a with sampling := false, cold := false, stage := 1, bootStage := 1, otpLoading := true } :=
  (if_neg (ne_false_of_eq_true h)).trans (if_neg (by decide))

theorem State.loadingFlagged_flag {s : State} (h : s.aos.otpLoading = true) : s.loadingFlagged.flag aosEvt 2 = true := by
  have hraise : s.loadingFlagged = s.raise aosEvt 2 := if_pos h
  rw [hraise]
  exact State.flag_raise s aosEvt 2 1 (by decide)

/-- Settles O59: each cause by the acceptance of a reset, each other case by the lemma of its command, and each frame by the operation's frame law. -/
theorem resetCausesAndRelease : Obligations.ResetCausesAndRelease := by
  unfold Obligations.ResetCausesAndRelease
  refine ⟨?power, ?ext, ?rail, ?thermtrip, ?trip, ?loss, ?window, ?watchdog, ?request, ?vaon, ?stretch, ?sample⟩
  case power =>
    intro s
    refine ⟨_, rfl, (powerOnOp_keeps s (m_ := 0x7FFFD) (by decide) (.refl _ s)).only (by decide), fun hon => if_pos hon, fun hoff => ?_⟩
    rw [powerOnOp_accepts hoff]
    exact ⟨s.powered, rfl, s.powered.acceptReset_taken 1 true⟩
  case ext =>
    intro lowRc s
    refine ⟨_, rfl, (extOp_keeps lowRc s (m_ := 0x7FFFD) (by decide) (.refl _ s)).only (by decide), extOp_unseen, fun hon hseen => ?_⟩
    refine ⟨extOp_short hon hseen, fun hlong => ?_⟩
    rw [extOp_accepts hon hseen hlong]
    exact s.acceptReset_taken 2 true
  case rail =>
    intro idx s
    refine ⟨_, rfl, (railOp_keeps idx s (m_ := 0x7FFFD) (by decide) (.refl _ s)).only (by decide), railOp_unwatched, fun hwatched htripped hon => ?_⟩
    obtain ⟨hmode, hasserted, -⟩ := s.acceptReset_taken 3 true
    have hcode : (s.acceptReset 3 true).fld aosRstcause 0 4 = (s.causeKept 3 true).1 :=
      (congrArg (·.field 0 4) (s.reg_acceptReset 3 true).1).trans (causeWord_code s true (by decide))
    rw [railOp_accepts hwatched htripped hon]
    exact ⟨hmode, hasserted, State.railNoted_contains _ idx, hcode⟩
  case thermtrip =>
    intro s
    refine ⟨_, rfl, (thermtripOp_keeps s (m_ := 0x7FFFD) (by decide) (.refl _ s)).only (by decide), thermtripOp_idle, fun htripped => ?_⟩
    rw [thermtripOp_accepts htripped]
    exact ⟨s.tripEnded, rfl, rfl, s.tripEnded.acceptReset_taken 4 true⟩
  case trip =>
    intro s
    refine ⟨_, rfl, (thermalTripOp_keeps s (m_ := 0x7FFFD) (by decide) (.refl _ s)).only (by decide), thermalTripOp_idle, fun htripped hon => ?_⟩
    rw [thermalTripOp_trips htripped hon]
    exact ⟨rfl, rfl, rfl, rfl, rfl, rfl, rfl, rfl, rfl⟩
  case loss =>
    intro s
    refine ⟨_, rfl, (refclkLossOp_keeps s (m_ := 0x7FFFD) (by decide) (.refl _ s)).only (by decide), fun hlost => ?_, fun hpresent hon => ?_⟩
    · have hop : refclkLossOp s = s.onAos fun a => { a with windows := 0 } := State.loseRefclk_lost hlost
      rw [hop]
      exact ⟨rfl, rfl⟩
    · exact ⟨s.acceptReset 5 false, s.acceptReset_taken 5 false, State.loseRefclk_accepts hpresent hon⟩
  case window =>
    intro count s
    refine ⟨_, rfl, (refclkWindowOp_keeps count s (m_ := 0x7FFFD) (by decide) (.refl _ s)).only (by decide), refclkWindowOp_off, ?good, ?bad,
      refclkWindowOp_shows⟩
    case good =>
      intro hon hlo hhi
      rw [refclkWindowOp_good hon ⟨hlo, hhi⟩]
      cases hrefclk : s.tick.refclk with
      | true => exact ⟨rfl, hrefclk, fun _ => rfl, fun h => absurd h (by decide)⟩
      | false => exact ⟨rfl, rfl, fun h => absurd h (by decide), fun _ => rfl⟩
    case bad =>
      intro hon hpresent hbad
      obtain ⟨hmode, hasserted, -⟩ := (s.windowShown count).acceptReset_taken 5 false
      rw [refclkWindowOp_bad hon (by omega), State.loseRefclk_accepts (s := s.windowShown count) hpresent hon]
      exact ⟨rfl, hmode, hasserted⟩
  case watchdog =>
    intro s
    refine ⟨_, rfl, (watchdogOp_keeps s (m_ := 0x7FFFD) (by decide) (.refl _ s)).only (by decide), watchdogOp_idle, fun hrunning hstage hon => ?_⟩
    rw [watchdogOp_accepts hrunning hstage hon]
    exact s.acceptReset_taken 7 false
  case request =>
    intro half val s
    refine ⟨_, rfl, (aosRstreqWriteOp_keeps half val s (m_ := 0x7FFFD) (by decide) (.refl _ s)).only (by decide), ?_, ?_⟩
    · rintro rfl
      exact aosRstreqWriteOp_high val s
    · rintro rfl
      refine ⟨aosRstreqWriteOp_unconfirmed, fun hconfirm hlow hhigh hon => ?_⟩
      rw [aosRstreqWriteOp_accepts hconfirm hlow hhigh hon]
      exact s.acceptReset_taken 8 (val.bit 0)
  case vaon =>
    intro s
    exact ⟨_, rfl, (vaonLossOp_keeps s (m_ := 0x4) (by decide) (.refl _ s)).only (by decide), rfl⟩
  case stretch =>
    intro s
    refine ⟨_, rfl, (resetStretchEndOp_keeps s (m_ := 0x24000) (by decide) (.refl _ s)).only (by decide), resetStretchEndOp_waits, ?_⟩
    intro hmode hasserted hdriven htripped hrefclk hwindows hage
    rw [resetStretchEndOp_ends hmode hasserted hdriven htripped hrefclk hwindows hage]
    exact ⟨hmode, rfl, rfl, rfl, rfl, rfl⟩
  case sample =>
    intro high s
    refine ⟨_, rfl, (resetNSampleOp_keeps high s (m_ := 0x7FFFD) (by decide) (.refl _ s)).only (by decide), resetNSampleOp_idle, fun hsampling => ?_⟩
    constructor
    · rintro rfl
      rw [resetNSampleOp_low hsampling]
      exact s.acceptReset_taken 2 true
    · rintro rfl
      rw [resetNSampleOp_high hsampling]
      exact ⟨rfl, rfl, rfl, rfl, State.loadingFlagged_flag⟩

end Sys2Proof.Machine
